-- ==== Sys2Proof/Word.lean ====
section
/-! DEFINITION. The word types of the model. -/

namespace Sys2Proof

/-- A register of the package (R5 ff.: registers are 32 bits wide). -/
abbrev Word := BitVec 32

/-- The smallest addressable unit of device memory. -/
abbrev Byte := BitVec 8

/-- A 64-bit value: a vector instruction word (R253), a register pair. -/
abbrev DWord := BitVec 64

end Sys2Proof
end

