-- ==== Sys2Proof/Syntax.lean ====
section
/-! DEFINITION. The commands of the block: what arrives from outside (register accesses, doorbells, messages, pins) and
the internal events of the table, with the values each carries. -/

namespace Sys2Proof

/-- The source of a register access (R448): a function of the host (0 = PF, k = VF k), Silset, or the Spyhole port. -/
inductive Src where
  | host (fn : Nat)
  | silset
  | spyhole
  deriving DecidableEq, Repr

/-- Items of configuration space that the manual names, each a DWORD: MSI-X Message Control (R443), NumVFs, the SR-IOV control with VF
Enable and the ARI hierarchy bit (R435, R437), Memory Space Enable (R444), Device Control (R435), Device Control 2 with the completion
timeout range (R435, R460), the ECRC control, the uncorrectable and correctable errors of AER with their masks, severities and header
log (R459), Link Control, the ACS control (R435), the BARs and those of the virtual functions (R439); and, read only, Link Status,
Vendor and Device ID, class code and revision (R436), InitialVFs and TotalVFs, First VF Offset and VF Stride, the VF Device ID, the
supported page sizes (R437), the two halves of the Device Serial Number (R435), the log2 of the size of the Resizable BAR in force
(R439, R444). -/
inductive CfgItem where
  | msixControl | numVfs | vfEnable | memorySpace | cplTimeout | ecrc
  | ident | classRev | vfCounts | vfStride | vfDevice | pageSizes | serialLo | serialHi | barSize
  | devControl | linkControl | linkStatus | acsControl | bar (n : Nat) | vfBar (n : Nat)
  | uncStatus | uncMask | uncSeverity | corStatus | corMask | headerLog (n : Nat)
  deriving DecidableEq, Repr

/-- The space of a register access: BAR0 of the PF (R440), BAR0 of VF k (R441), BAR2 of a function (R442),
configuration space of a function. -/
inductive RegSpace where
  | bar0
  | vfBar0 (k : Nat)
  | bar2 (fn : Nat)
  | cfg (fn : Nat) (item : CfgItem)
  deriving DecidableEq, Repr

/-- The requester of a device read of host memory (R460): the fetch of a command of a queue, the head word of a stream
ring, the source of a load or restore, the staging of firmware or of a pattern set. -/
inductive HostReq where
  | command (q : Nat)
  | ringHead (handle : Nat)
  | source (handle : Nat)
  | staging
  deriving DecidableEq, Repr

/-- An error that a received TLP, or the link under it, meets (R455, R459, R464): the ECRC fails, the EP bit is set, or another
uncorrectable or correctable error of the PCIe specification, by its bit of the AER status. -/
inductive TlpErr where
  | ecrc
  | poisoned
  | uncorrectable (bit : Nat)
  | correctable (bit : Nat)
  deriving DecidableEq, Repr

/-- Pins of the package that the model drives or reads (R635). -/
inductive Pin where
  | perstN | alertInN | thermInN | thermtripN | vrAlertN | gpio (n : Nat)
  deriving DecidableEq, Repr

/-- A request at a tile (R86, R87): kind 0 forward pass, 1 transposed pass, 2 program row step, 3 probe pass; its layer,
its drive codes, the image and the column block part it serves, the number of its input vector, and the position of its row
block in that part. -/
structure PassReq where
  kind  : Nat := 0
  layer : Nat := 0
  codes : List Nat := []
  im    : Nat := 0
  part  : Nat := 0
  vec   : Nat := 0
  pos   : Nat := 0
  /-- Row of a row step, or number of a probe. -/
  row   : Nat := 0
  deriving DecidableEq, Repr

/-- What the analogue side adds to a conversion (R95, R105): the error of the column product in product units, the raw gain
factor and the raw offset in codes. DESIGN CHOICE (log entry 32). -/
structure Conv where
  err : ℚ := 0
  γ   : ℚ := 1
  off : ℚ := 0
  deriving DecidableEq, Repr

/-- An IEEE 1588 message (R404): its messageType (0 Sync, 1 Delay_Req, 2 Pdelay_Req, 3 Pdelay_Resp, 8 Follow_Up, 9 Delay_Resp,
10 Pdelay_Resp_Follow_Up, 11 Announce), the two-step flag, sequenceId, the clock it comes from and that clock's place in the
comparison of data sets (the lower the better), and the time it carries in ns, its correction added (for Announce, the seconds from
UTC to that time). PRESUMED (log entry 117). -/
structure PtpMsg where
  ty      : Nat := 0
  twoStep : Bool := false
  seq     : Nat := 0
  src     : Nat := 0
  rank    : Nat := 0
  time    : Nat := 0
  deriving DecidableEq, Repr

/-- A frame that a logical port receives (R399): kind 0 RoCE packet, 1 RoCE acknowledgement, 2 IEEE 1588 with its message, 3 ARP or
neighbour solicitation, 4 any other; length with FCS; destination MAC address, and the IP address it is for (IPv4 in the mapped
form of R406, 16 bytes as they stand on the wire); a fragment; its tags; FCS and ICRC failures; marked CE; of the control class;
destination queue pair; the packet sequence number up to which it acknowledges; codewords corrected, and one uncorrectable. -/
structure RxFrame where
  kind    : Nat := 0
  len     : Nat := 64
  mac     : Nat := 0
  ip      : Nat := 0
  ptp     : PtpMsg := {}
  frag    : Bool := false
  tags    : Nat := 0
  fcsBad  : Bool := false
  icrcBad : Bool := false
  ce      : Bool := false
  ctrl    : Bool := false
  qp      : Nat := 0
  psn     : Nat := 0
  fec     : Nat := 0
  unc     : Bool := false
  deriving DecidableEq, Repr

/-- A RoCE request taken from a receive buffer (R401, R410): port, class, bytes it held there, destination queue pair,
operation (0 SEND, 1 SEND with immediate, 2 RDMA WRITE, 3 RDMA WRITE with immediate, 4 RDMA READ), source address and queue
pair, key, address, length, data of a write, packet sequence number of its first packet (R402). -/
structure RdmaReq where
  port  : Nat := 0
  ctrl  : Bool := false
  bytes : Nat := 0
  qp    : Nat := 0
  op    : Nat := 0
  srcIp : Nat := 0
  srcQp : Nat := 0
  rkey  : Nat := 0
  addr  : Nat := 0
  len   : Nat := 0
  data  : List Nat := []
  psn   : Nat := 0
  deriving DecidableEq, Repr

/-- Where an arrival at a slot comes from (R242): the part of an accumulation unit whose result it is, the instruction at `pc` of a
sending context, or the memory that a VFETCH of the context reads, which may answer with an error. -/
inductive ArrSrc where
  | acc (cl part : Nat)
  | vec (cl ctx rq : Nat)
  | fetch (err : Bool) (rq gen fgen : Nat)
  deriving DecidableEq, Repr

/-- The commands of the block, one constructor for each row of the table of operations and events: the rows with operands, the
vector instructions, then the rows without operands, each in the order of the table. -/
inductive Instr where
  /-- REGISTER_WRITE (R15): A write to a register that has no row of its own, applied by access code (RW, W1C, W1S, RWM, RWL, RWB), checked for errors and journalled where the register is journalled. -/
  | registerWrite (src : Src) (sp : RegSpace) (off size : Nat) (full : Bool) (value : Nat)
  /-- PAIR_LO_READ (R447): A read of the _LO half of a read-only 64-bit pair returns the low word and latches the _HI half for the same source's next _HI read. -/
  | pairLoRead (src : Src) (sp : RegSpace) (off size : Nat) (full : Bool)
  /-- PAIR_HI_WRITE (R447): A write of the _HI half of a writable pair makes both halves take effect together with the value the same source holds for _LO. -/
  | pairHiWrite (src : Src) (sp : RegSpace) (off : Nat) (value : Word)
  /-- REGISTER_ACCESS_TIMEOUT (R457): A register access whose target shows no handshake for 100 µs is completed with CA and logged with cause HANG. -/
  | registerAccessTimeout (src : Src) (sp : RegSpace) (off : Nat) (write : Bool)
  /-- UPDATE_STROBE (R452): A write to HUB_UPD_STROBE strobes one or more update groups, sending the buffered RWB writes of each group to its blocks. -/
  | updateStrobe (src : Src) (value : Word)
  /-- CLUSTER_STROBE_APPLY (R452): A cluster applies a strobe atomically with respect to pass starts; when every block of the group has applied it the strobe is accepted. -/
  | clusterStrobeApply (block : Nat)
  /-- BAR4_READ (R444): A host read through the BAR4 window is decoded to a device address and served as a physical-function DMA access. -/
  | bar4Read (off len : Nat)
  /-- BAR4_WRITE (R444): A host write through the BAR4 window is decoded and applied to every 8 B word it touches, or refused. -/
  | bar4Write (off : Nat) (bytes : List Byte)
  /-- BAR4_RESIZE (R444): A resize through the Resizable BAR capability takes effect when Memory Space Enable is next set and clears the low base bits. -/
  | bar4Resize (log2 : Nat)
  /-- MSIX_UNMASK (R443): Unmasking a vector with its pending bit set sends one MSI-X message. -/
  | msixUnmask (fn vec : Nat)
  /-- VF_BIND_WRITE (R438): A write to HUB_VF_BIND binds a virtual function to a partition if the function is idle, and is otherwise dropped as an access violation. -/
  | vfBindWrite (src : Src) (k : Nat) (value : Word)
  /-- VF_FLR (R461): A Function Level Reset of a virtual function stops its queues, fences its hub work, frees its handles and sequences and resets its registers. -/
  | vfFlr (k : Nat)
  /-- RECEIVED_TLP_ERROR (R459): A received TLP that fails ECRC or carries EP is dropped and reported through AER. -/
  | receivedTlpError (fn : Nat) (err : TlpErr) (cpl : Bool) (header : List Nat)
  /-- HOST_READ_TIMEOUT (R460): A device read of host memory that times out or returns UR, CA or poisoned data delivers no data and fails its requester. -/
  | hostReadTimeout (fn : Nat) (req : HostReq) (timedOut : Bool)
  /-- DOE_DISCOVERY (R463): A DOE Discovery data object is answered with the supported data object types. -/
  | doeDiscovery (index : Nat)
  /-- NEGOTIATE_ALGORITHMS (R463): The SPDM NEGOTIATE_ALGORITHMS request is answered with ECDSA P-384 and SHA-384. -/
  | negotiateAlgorithms (asym hash : Nat)
  /-- GET_CERTIFICATE (R548): The SPDM GET_CERTIFICATE request returns the certificate chain of the named slot. -/
  | getCertificate (slot off len : Nat)
  /-- CHALLENGE (R548): The SPDM CHALLENGE request is answered with a response signed by the alias key, or an error after a SILSET unlock. -/
  | challenge (slot : Nat) (nonce : Nat)
  /-- GET_MEASUREMENTS (R549): The SPDM GET_MEASUREMENTS request returns the measurement blocks 1 to 7, signed when requested. -/
  | getMeasurements (index : Nat) (signed : Bool) (nonce : Nat)
  /-- SQ_TAIL (R347): A doorbell write of SQ_TAIL announces new commands, or puts the queue into ERROR when the index is out of range. -/
  | sqTail (fn q val : Nat)
  /-- RQ_HEAD (R347): A doorbell write of RQ_HEAD frees record slots, or puts the queue into ERROR when the index is out of range. -/
  | rqHead (fn q val : Nat)
  /-- QUEUE_ENABLE (R346): Writing ENABLE = 1 enables a queue whose configuration is within limits, or sets CFG_ERR. -/
  | queueEnable (fn q : Nat)
  /-- QUEUE_DISABLE (R351): Writing ENABLE = 0 stops fetching and shows DRAINING until every fetched command has completed. -/
  | queueDisable (fn q : Nat)
  /-- COMMAND_FETCH (R348): When record slots, a handle slot and quota allow, the device fetches commands in weighted round robin and reserves their two record slots. -/
  | commandFetch (ok : Bool) (raw : List Byte)
  /-- COMPLETION_TIMEOUT (R360): A command without progress for TIMEOUT_MS is cancelled and completes with TIMEOUT. -/
  | completionTimeout (h : Nat)
  /-- LOAD (R223): The LOAD command starts loading a setting image and its ware into a context, beginning with the fetch of the image. -/
  | load (h : Nat)
  /-- ACTIVATE (R226): The ACTIVATE command makes the staged image active at one point in the context's command order. -/
  | activate (h : Nat)
  /-- DISCARD (R229): The DISCARD command removes the staged image, stopping a load under way after its running row steps. -/
  | discard (h : Nat)
  /-- RESTORE (R296): The RESTORE command rebuilds BAD or LOST shadow tile-layers from the host, device memory or a peer, checking each record's digest. -/
  | restore (h : Nat)
  /-- CALIBRATE (R177): The CALIBRATE command requests soaks of the named bays and completes when each has accepted a measurement or failed. -/
  | calibrate (h : Nat)
  /-- ADAPT_ZERO (R384): The ADAPT_ZERO command sends a ZERO descriptor to an UPDATE entry to clear an adapter's gradient buffers and completes on DONE. -/
  | adaptZero (h : Nat)
  /-- ADAPT_UPDATE (R384): The ADAPT_UPDATE command sends an UPDATE descriptor to an UPDATE entry and completes on DONE. -/
  | adaptUpdate (h : Nat)
  /-- SEQ_CREATE (R362): The SEQ_CREATE command makes an empty sequence or one from a prefix, with a hidden draft sequence when DRAFT is set. -/
  | seqCreate (h : Nat)
  /-- SEQ_FREE (R362): The SEQ_FREE command cancels commands naming the sequence and frees it and its draft. -/
  | seqFree (h : Nat)
  /-- SEQ_TRUNCATE (R331): The SEQ_TRUNCATE command cuts the sequence and its draft back to a length and clears the pending token. -/
  | seqTruncate (h : Nat)
  /-- GENERATE (R370): The GENERATE command appends the pending and input tokens and then runs decode steps, writing tokens to the stream ring. -/
  | generate (h : Nat) (toks : List Nat) (req : List Byte) (err : Bool)
  /-- BACKWARD (R384): The BACKWARD command copies target tokens into the training store, sends a BACKWARD descriptor to a TRAIN entry and completes on DONE. -/
  | backward (h : Nat) (toks : List Nat) (err : Bool)
  /-- PREFIX_CREATE (R379): The PREFIX_CREATE command makes a prefix from a sequence or from tokens. -/
  | prefixCreate (h : Nat) (toks : List Nat) (err : Bool)
  /-- PREFIX_DROP (R380): The PREFIX_DROP command removes a prefix entry and drops its page references. -/
  | prefixDrop (h : Nat)
  /-- CHECKPOINT (R381): The CHECKPOINT command snapshots a sequence's committed state at a step boundary and writes it to its destination. -/
  | checkpoint (h : Nat)
  /-- SEQ_RESTORE (R383): The SEQ_RESTORE command checks a checkpoint and creates a sequence from it. -/
  | seqRestore (h : Nat) (bytes : List Byte) (err : Bool)
  /-- CANCEL (R361): The CANCEL command cancels its target handle as far as its state allows. -/
  | cancel (h : Nat)
  /-- NOP_COMMAND (R353): The NOP command does nothing and completes with SUCCESS. -/
  | nopCommand (h : Nat)
  /-- STEP_START (R372): The serving engine starts a step or speculative round once the stream ring has room and reservation succeeds, creating a binding and sending a step descriptor. -/
  | stepStart (h : Nat)
  /-- RING_HEAD_POLL (R372): A GENERATE waiting for ring room re-reads the head word every 2 µs. -/
  | ringHeadPoll (h value : Nat) (ok : Bool)
  /-- RING_WAIT_EXPIRY (R372): A stream ring that stays full for RING_WAIT ends its GENERATE with RING_STALL. -/
  | ringWaitExpiry (h : Nat)
  /-- REGISTER (R364): A REGISTER message on the serving port registers an entry of a role, or is refused. -/
  | register (cl ctx bind : Nat) (vals : List Nat)
  /-- REGISTRATION_WAIT_EXPIRY (R364): A command needing an unregistered role completes with NO_ENTRY 10 ms after the activation point. -/
  | registrationWaitExpiry (h : Nat)
  /-- RESULT (R367): A RESULT message carries the sampled or proposed tokens of a binding's step. -/
  | result (cl ctx bind : Nat) (vals : List Nat)
  /-- DONE (R367): A DONE message reports the status and value of a BACKWARD, UPDATE or ZERO step and completes its command. -/
  | done (cl ctx bind : Nat) (vals : List Nat)
  /-- FAIL (R367): A FAIL message abandons the step and logs the program code. -/
  | fail (cl ctx bind : Nat) (vals : List Nat)
  /-- STEP_COMMIT (R367): A step whose RESULT and all owed appends have arrived is committed: entries join the sequence, tokens go to the ring and the binding is released. -/
  | stepCommit (bind : Nat)
  /-- QUERY_ARRIVAL (R316): A kind-7 send delivers query codes or scales of units to every bay of the layer's stripe. -/
  | queryArrival (cl ctx addr off fmt : Nat) (vals : List Nat)
  /-- APPEND_ARRIVAL (R318): A kind-8 send appends keys and values to the slip buffer, or is refused with APPEND_ERR. -/
  | appendArrival (cl ctx addr off : Nat) (vals : List Nat)
  /-- ENGINE_UNIT_SCORE (R311): Once a unit's codes and scale have arrived and no flush is pending, the attention engine scores it over its visible positions and returns the bay partial. -/
  | engineUnitScore (bay bind layer unit : Nat) (fault : Bool)
  /-- PAGE_FLUSH (R321): After a commit completes a page's 64th position, the owning bay flushes it from the slip buffer to FP4, copying first if the page is shared. -/
  | pageFlush (bay seq layer page : Nat)
  /-- FLUSH_COMPLETE (R321): A flush completes, releasing queries that waited for it and freeing the slip segment when unpinned. -/
  | flushComplete (seq layer page : Nat)
  /-- PIN_RELEASE (R327): A reader releases its pin, and a RELEASING frame whose pins reach zero becomes FREE. -/
  | pinRelease (addr reader : Nat)
  /-- PAGE_MOVE_COMPLETE (R332): A spill or prefetch move finishes, repointing the descriptor and releasing the old frame, or is abandoned on an error. -/
  | pageMoveComplete (desc : Nat) (err : Bool)
  /-- PASS_REQUEST (R90): A forward or transposed pass request with its drive codes reaches a tile, taking the pending buffer or being held by the bay router or refused. -/
  | passRequest (tile : Nat) (req : PassReq) (parity : List Bool)
  /-- PASS_START (R89): A pass starts when its codes are present, its layer is settled, the tile is free and it holds a pass-start token. -/
  | passStart (tile : Nat)
  /-- LAYER_SWITCH_START (R87): A layer switch begins at the hold point of the running pass or the arrival of the request needing it. -/
  | layerSwitchStart (tile : Nat)
  /-- LAYER_SETTLED (R87): The layer switch completes and SETTLED reads 1. -/
  | layerSettled (tile : Nat)
  /-- PASS_WAVE_CONVERTED (R95): A wave of eight column conversions completes and its codes leave the tile with layer, range and wave index. -/
  | passWaveConverted (tile : Nat) (convs : List Conv)
  /-- PASS_END (R91): The integrators reset, the pass-start token is returned and the pass ends. -/
  | passEnd (tile : Nat)
  /-- GOVERNOR_SAMPLE (R48): Every 10 µs the power governor samples power, projects the 1 ms averages and takes at most one step on pools or VCORE. -/
  | governorSample (vana vcore : List Nat) (vprog : Nat) (others : List Nat)
  /-- BLOCK_SCALE_ARRIVAL (R64): A row block's scale reaches the accumulation unit, taking a bank for the pass and forming E_max when the last scale of the part arrives. -/
  | blockScaleArrival (cl part im vec pos scale : Nat) (empty : Bool)
  /-- ACC_CODE_ARRIVAL (R128): A wave of ADC codes reaches the accumulation unit's code lanes, which calibrate and align them or hold them until E_max is known. -/
  | accCodeArrival (cl tile wave : Nat) (codes : List Int)
  /-- PRELOAD_RUN (R133): A run of a vector-unit preload arrives and is matched to the oldest pass of its part, or refused as a second preload. -/
  | preloadRun (cl part im off : Nat) (vals : List Nat)
  /-- GLAZE_CONTRIBUTION_ARRIVAL (R126): A glaze contribution reaches the accumulation unit that owns the column and is added by one wide operation. -/
  | glazeContributionArrival (cl part im vec off : Nat) (vals : List Nat)
  /-- ACC_PART_COMPLETE (R137): A column block part's result is complete in its bank and is delivered to its destinations, or NaN is written on a fault. -/
  | accPartComplete (cl part : Nat)
  /-- DESTINATION_ACK (R137): The last destination acknowledges a result and the bank is freed. -/
  | destinationAck (cl part : Nat)
  /-- ROW_BLOCK_QUANTISE (R58): A complete row block is quantised: outliers split off, block scale chosen, drive codes and scale sent to the tiles and accumulation unit. -/
  | rowBlockQuantise (cl im pg rb : Nat) (tag : Option (Nat × Nat))
  /-- QUANTISER_RUN (R659): A kind-6 send delivers a run of row-block elements to the quantiser, matched to the oldest held vector or refused. -/
  | quantiserRun (cl im pg rb off : Nat) (vals : List Nat)
  /-- GLAZE_SELECTION_ARRIVAL (R126): Selected outlier values and indices reach a glaze slice, which fetches their weight rows and multiplies. -/
  | glazeSelectionArrival (cl im slice vec rb : Nat) (chans : List (Nat × Nat))
  /-- GLAZE_WEIGHT_ROW_ARRIVAL (R126): A fetched glaze weight row arrives and its waiting lanes proceed. -/
  | glazeWeightRowArrival (cl im slice vec rb ch : Nat)
  /-- ADAPTER_U_ARRIVAL (R140): A part u_b reaches the reducing vector unit's adapter port, which sums the parts and broadcasts h. -/
  | adapterUArrival (cl im idx vec rb : Nat) (u : List Nat)
  /-- ADAPTER_H_ARRIVAL (R140): The adapter activations h reach a glaze slice, which forms the adapter term of its columns. -/
  | adapterHArrival (cl im idx vec : Nat) (h : List Nat)
  /-- SLOT_ARRIVAL (R242): An arrival writes a run of elements into a slot, which becomes PRESENT when complete, or is held or refused. -/
  | slotArrival (cl ctx slot off fmt : Nat) (vals : List Nat) (src : ArrSrc)
  /-- INSTRUCTION_COMPLETE (R249): A context's instruction completes and the context may fire its next one. -/
  | instructionComplete (cl ctx : Nat)
  /-- SEND_ACKNOWLEDGE (R263): A destination acknowledges a send or store, freeing room under the unacknowledged limits. -/
  | sendAcknowledge (cl ctx rq gen fgen : Nat)
  /-- SEND_REFUSAL (R263): A refusal of a send or store returns and the sending context faults with SEND_REFUSED. -/
  | sendRefusal (cl ctx rq gen fgen : Nat)
  /-- VEC_ENGINE_RESET_COMPLETE (R271): The engine reset of a vector unit after a context fault completes and every context returns to its initial state. -/
  | vecEngineResetComplete (cl : Nat)
  /-- ASWAP (R264): Make the inactive copy of an adapter active. -/
  | aswap (cl ctx : Nat)
  /-- PROGRAM_OPERATION_START (R160): A program operation starts within the PROG_CONC limit, after its wear start page is durable. -/
  | programOperationStart (tile layer : Nat)
  /-- PROGRAM_ROW_STEP (R156): A row step reads, resets and set-pulses the cells of one row towards their targets, after a VPROG check. -/
  | programRowStep (tile layer vprog : Nat) (gs : List ℚ)
  /-- PROGRAM_ROW_STEP_END (R158): A row step ends, repeating for failing cells or failing the operation, and the next row step or the closing calibration follows. -/
  | programRowStepEnd (tile layer : Nat) (gs : List ℚ)
  /-- PROBE_PASS (R167): A calibration probe pass runs on a tile and yields codes for the gain, offset and κ fit. -/
  | probePass (tile layer kind range k neg : Nat) (convs : List Conv)
  /-- READ_BACK_DONE (R224): The read-back of a retained tile-layer completes and is accepted or falls back to programming. -/
  | readBackDone (tile layer : Nat) (scale : ℚ)
  /-- CLOSING_CALIBRATION_DONE (R171): A closing calibration of a tile-layer completes and its values take effect; the loader may then set VALID. -/
  | closingCalibrationDone (tile layer : Nat)
  /-- BISQUE_CALIBRATION (R171): After power-up or a store-clearing reset, a bay checks references, traces, probes every tile and sets CAL_VALID. -/
  | bisqueCalibration (bay : Nat) (ppm : Int)
  /-- REFERENCE_TRACE (R163): Every 60 s Silset traces levels 1 and 2 of the reference chain and checks the references. -/
  | referenceTrace (refv refr : Nat) (ppm : List Int)
  /-- SOAK_START (R175): A queued soak starts when the die's soak limit and the bay's thermal state allow. -/
  | soakStart (bay : Nat) (ppm : Int)
  /-- SOAK_END (R176): A soak's measurements end; results are accepted and ramps start, or discarded and the soak repeats. -/
  | soakEnd (bay : Nat)
  /-- CAL_UTC_WRITE (R195): A write to CAL_UTC sets Silset's UTC. -/
  | calUtcWrite (src : Src) (value : Word)
  /-- CAL_WEAR_SEL_WRITE (R197): A write to CAL_WEAR_SEL loads the chosen tile-layer's wear record into the view registers within 10 µs. -/
  | calWearSelWrite (src : Src) (value : Word)
  /-- LOAD_IMAGE_FETCHED (R220): The image has been read and hashed; validation runs, including the ware header and directory, and tile-layers are claimed. -/
  | loadImageFetched (h : Nat) (img ware : List Byte) (err : Bool)
  /-- WARE_PAYLOAD_ARRIVAL (R225): A ware record payload arrives, its digest and levels are checked, and its tile-layer is programmed. -/
  | warePayloadArrival (h rec : Nat) (payload : List Nat) (err : Bool)
  /-- IMAGE_RETIRE (R226): When the last handle of an old image completes, the image retires and its unshared tile-layers become IDLE. -/
  | imageRetire (pt fn im : Nat)
  /-- REMAP_COMPLETE (R230): The remap finishes and the spare becomes ACTIVE. -/
  | remapComplete (tile : Nat)
  /-- SET_MIN_SVN_WRITE (R238): A write to SET_MIN_SVNk raises the partition's minimum SVN; a lowering write is ignored and logged. -/
  | setMinSvnWrite (src : Src) (k : Nat) (value : Word)
  /-- SRAM_SCRUB (R289): The SRAM scrubber reads and checks a word, correcting or poisoning it. -/
  | sramScrub (store word res : Nat) (read : Bool)
  /-- HBM_PATROL_SCRUB (R289): The HBM patrol scrubber reads and checks 32 B, correcting or poisoning it. -/
  | hbmPatrolScrub (addr res : Nat) (read : Bool)
  /-- SHADOW_AUDIT (R295): The hub rehashes a shadow tile-layer and marks it BAD on a mismatch. -/
  | shadowAudit (tl : Nat) (ue : Bool)
  /-- LINK_REPLAY (R297): A flit failing its CRC is replayed, and after 8 failed tries the link fails and is fenced. -/
  | linkReplay (kind index tries : Nat)
  /-- FRAME_RECEIVE (R399): A logical port receives a frame, admitting or dropping it and updating PFC buffers and ECN. -/
  | frameReceive (port : Nat) (f : RxFrame)
  /-- PFC_FRAME_RECEIVE (R400): A received PFC frame pauses or resumes a transmit priority. -/
  | pfcFrameReceive (port prio : Nat) (pause : Bool)
  /-- PFC_STORM_TIMEOUT (R400): A priority paused for 100 ms drops its queued frames and sets PFC_STORM. -/
  | pfcStormTimeout (port prio : Nat)
  /-- PORT_MODE_WRITE (R398): A write to MODE retrains the physical port's lanes and errors the queue pairs of vanished logical ports. -/
  | portModeWrite (src : Src) (port value : Nat)
  /-- RDMA_REQUEST_RECEIVE (R410): A RoCE request is checked against its queue pair, peer entry and region and carried out, dropped or NAKed. -/
  | rdmaRequestReceive (r : RdmaReq)
  /-- ACK_TIMEOUT (R402): The local ACK timeout expires and the queue pair retransmits go-back-N, or enters the error state after RETRY tries. -/
  | ackTimeout (qp : Nat)
  /-- NAK_RECEIVE (R402): A received NAK causes retransmission or moves the queue pair to the error state. -/
  | nakReceive (qp code psn : Nat)
  /-- CNP_RECEIVE (R403): A received CNP lowers the queue pair's transmit rate. -/
  | cnpReceive (qp : Nat)
  /-- RATE_INCREASE_TIMER (R403): Every 55 µs without a CNP, α decays and the transmit rate recovers. -/
  | rateIncreaseTimer (qp : Nat)
  /-- WARE_REQ (R413): A WARE_REQ from a peer is answered record by record from the context's sources, or with WARE_NACK. -/
  | wareReq (qp epoch tag sn digest first n credits : Nat)
  /-- WARE_CREDIT (R414): A WARE_CREDIT from the requester frees fetch slots for further records. -/
  | wareCredit (qp epoch tag sn n : Nat)
  /-- WARE_NACK (R414): A WARE_NACK stops the requesting load with the status its reason gives. -/
  | wareNack (qp epoch tag sn rec reason : Nat)
  /-- KV_REQ (R422): A KV_REQ from a job member is answered with the held key/value records under pins. -/
  | kvReq (qp epoch tag sn jsn len first layers credits : Nat)
  /-- FETCH_CHUNK_ARRIVAL (R414): An RDMA WRITE with immediate delivers a record chunk into a fetch slot, which is hashed and moved; the record is checked at LAST. -/
  | fetchChunkArrival (qp slot : Nat) (last : Bool) (rec : Nat) (bytes : List Nat)
  /-- FENCE_NOTICE (R426): A received FENCE_NOTICE declares the peer fenced or lost and holds the job. -/
  | fenceNotice (qp epoch tag reason rank : Nat)
  /-- REJOIN (R428): A received REJOIN records the peer's new epoch, answers REJOIN_ACK and shows the peer READY. -/
  | rejoin (qp tag newEpoch : Nat)
  /-- REJOIN_ACK (R428): A received REJOIN_ACK marks the peer READY and returns the job to RUNNING when all peers are ready. -/
  | rejoinAck (qp tag epoch : Nat)
  /-- STEP_REC (R421): A received STEP_REC from rank 0 lets a member commit the job step, or sets DESYNC on disagreement. -/
  | stepRec (qp epoch tag step : Nat) (vals : List Nat)
  /-- JOB_REJOIN_START (R428): A member whose image, queue pairs and epoch are ready advances its epoch and sends REJOIN. -/
  | jobRejoinStart (pt fn : Nat)
  /-- CONTRIBUTION_RECEIVE (R419): An exchange contribution arrives from a peer; a complete PARTIAL record is delivered or a DIGEST record compared. -/
  | contributionReceive (qp imm : Nat) (vals : List Nat)
  /-- COLLECTIVE_TIMEOUT (R426): A contribution or STEP_REC missing COLL_TO after the member's own declares the peer lost. -/
  | collectiveTimeout (pt fn peer : Nat)
  /-- NOTICE_ACK_WAIT_EXPIRY (R425): The 200 µs wait for FENCE_NOTICE acknowledgements ends and the queue pairs or links drop. -/
  | noticeAckWaitExpiry (pt fn : Nat)
  /-- FENCE_PLACE (R476): Silset places a saggar fence on a unit, advances its FGEN and begins refusal at its boundary and drain. -/
  | fencePlace (kind index reason : Nat)
  /-- DRAIN_COMPLETE (R476): Every admitted request of a fenced unit has been answered. -/
  | drainComplete (kind index : Nat)
  /-- DRAIN_WINDOW_EXPIRY (R476): The drain window expires and the isolation cells answer every open request with FENCED. -/
  | drainWindowExpiry (kind index : Nat)
  /-- TAGGED_REPLY (R477): A reply arrives and is accepted only if its tag matches an open slot, otherwise discarded and counted. -/
  | taggedReply (kind index slot gen fgen : Nat) (way : Option (Nat × Nat))
  /-- EPOCH_OFFER (R479): A reset side offers a new crossing epoch, which the surviving side acknowledges. -/
  | epochOffer (kind index epoch : Nat)
  /-- EPOCH_ACKNOWLEDGEMENT (R479): The acknowledgement of the new epoch arrives and traffic may cross again. -/
  | epochAcknowledgement (kind index epoch : Nat)
  /-- STALL_MONITOR_HANG (R481): A stall monitor finds pending work without a handshake for 100 µs, reports a hang and starts an engine reset. -/
  | stallMonitorHang (kind index : Nat) (work : List (Nat × Nat))
  /-- ENGINE_RESET_COMPLETE (R483): An engine reset completes, the unit's registers are treated under R658 and its fence is lifted. -/
  | engineResetComplete (kind index : Nat)
  /-- ENGINE_RESET_BOUND_EXPIRY (R485): An engine reset not complete 10 ms after its fence fails: the unit is isolated, marked FAILED and remapped or escalated. -/
  | engineResetBoundExpiry (kind index : Nat)
  /-- PARTITION_RESET (R483): A partition reset fences, drains, flushes crossings, resets, retrains, self-tests and lifts the fence of a partition. -/
  | partitionReset (pt cause kind index : Nat)
  /-- PARTITION_RESET_COMPLETE (R483): The partition reset finishes and the partition shows RUNNING with no active image. -/
  | partitionResetComplete (pt : Nat) (failed : List (Nat × Nat))
  /-- PT_TO_EXPIRY (R486): A partition reset not complete within PT_TO is abandoned and a package warm reset starts. -/
  | ptToExpiry (pt : Nat)
  /-- WARM_RESET (R481): A package warm reset resets everything except Silset and applies SPLIT_NEXT. -/
  | warmReset (cause kind index : Nat)
  /-- COLD_RESET (R481): A package cold reset resets everything including Silset, retrying at most twice on failure. -/
  | coldReset (cause kind index : Nat) (failed : Bool)
  /-- HOST_ENGINE_RESET_REQUEST (R494): GO in RST_REQ with LEVEL 1 requests an engine reset of the unit in RST_REQ_LOC. -/
  | hostEngineResetRequest (src : Src) (value : Nat)
  /-- HOST_PARTITION_RESET_REQUEST (R494): GO in RST_REQ with LEVEL 2 requests a partition reset. -/
  | hostPartitionResetRequest (src : Src) (value : Nat)
  /-- HOST_WARM_RESET_REQUEST (R494): GO in RST_REQ with LEVEL 3 and the key requests a package warm reset. -/
  | hostWarmResetRequest (src : Src) (value : Nat)
  /-- HOST_COLD_RESET_REQUEST (R494): GO in RST_REQ with LEVEL 4 and the key requests a package cold reset. -/
  | hostColdResetRequest (src : Src) (value : Nat)
  /-- RST_FENCE_HOST_WRITE (R493): A write to RST_FENCE_HOST places or removes the HOST fence reason of partitions. -/
  | rstFenceHostWrite (src : Src) (value : Nat)
  /-- RECONCILIATION_ROUND (R489): Every 10 ms Silset compares its view of each unit with the data path and places or removes DISPUTED fences. -/
  | reconciliationRound (us : List (Nat × Nat × Nat))
  /-- SAMPLE_ARM (R505): A checker with credit and a free buffer arms the capture of the next forward pass of a chosen tile-layer and column group. -/
  | sampleArm (pt fn bay : Nat)
  /-- ARM_TIMEOUT (R501): No forward pass starts on the armed tile-layer within ARM_TO and the sample is discarded. -/
  | armTimeout (bay : Nat)
  /-- SAMPLE_VERDICT (R506): The checker completes the exact recomputation and judges the sample by the chain and analogue comparisons, counting outliers and findings. -/
  | sampleVerdict (bay : Nat) (res : List Nat) (crcOk shadowOk : Bool)
  /-- CROSS_CHECK_ROUND (R512): Silset starts a random-operand round of one suite on two units in idle capacity. -/
  | crossCheckRound (suite a b seed : Nat)
  /-- CROSS_CHECK_COMPLETE (R514): A round's signatures are compared, leading to a pass, a repeat, a third unit or a failure. -/
  | crossCheckComplete (suite a third sig1 sig2 : Nat)
  /-- ROUND_TIMEOUT (R513): A round not finished within 1 s is abandoned and counted. -/
  | roundTimeout (suite a : Nat)
  /-- SCAN_START (R517): START in CHK_SCAN_CTRL checks the scan pattern set and runs it on the selected partitions. -/
  | scanStart (src : Src) (value : Word) (bad : List (Nat × Nat))
  /-- BOOST_EXPIRY (R520): The boost ends after BOOST_S seconds. -/
  | boostExpiry (pt : Nat)
  /-- BOOT_ROM_START (R542): The boot ROM chooses, verifies and boots a firmware slot, or enters RECOVERY. -/
  | bootRomStart (okA okB tableOk : Bool)
  /-- FLASH_WRITE_DONE (R534): A flash program or erase completes and the next write is served by precedence. -/
  | flashWriteDone (ok : Bool)
  /-- TRIAL_CONFIRM (R544): A TRIAL slot that has run 30 s and met its conditions becomes CONFIRMED and raises the rollback counter. -/
  | trialConfirm (cryptoOk : Bool)
  /-- GET_INFO (R555): Mailbox command returning slot versions, states, rollback counter and COMMISSIONED. -/
  | getInfo (tag : Nat)
  /-- LOG_READ (R555): Mailbox command returning kiln log entries from a sequence number. -/
  | logRead (tag fromSeq : Nat) (flash : Bool)
  /-- FW_STAGE (R544): Mailbox command starting the staging of a firmware image into the inactive slot. -/
  | fwStage (tag addr len : Nat)
  /-- FW_STAGE_COMPLETE (R544): Background staging finishes and the slot is verified as VALID or REJECTED. -/
  | fwStageComplete (image : List Byte)
  /-- FW_STATUS (R555): Mailbox command returning the update session state and slot states. -/
  | fwStatus (tag : Nat)
  /-- FW_ACTIVATE (R544): Mailbox command marking the VALID slot TRIAL and restarting Silset. -/
  | fwActivate (tag : Nat) (agentsNow forceSvn : Bool)
  /-- KEY_ENROLL (R547): Mailbox command enrolling an image key or owner firmware key. -/
  | keyEnroll (mgmt : Bool) (tag kind pub sig : Nat)
  /-- KEY_REVOKE (R547): Mailbox command revoking an image key. -/
  | keyRevoke (mgmt : Bool) (tag index sig : Nat)
  /-- KEY_LIST (R555): Mailbox command listing the image-key table. -/
  | keyList (tag : Nat)
  /-- COMMISSION (R555): Mailbox command setting the COMMISSIONED bit in OTP. -/
  | commission (mgmt : Bool) (tag confirm : Nat)
  /-- SCAN_WRITE (R555): Mailbox command writing a pattern set into the scan-pattern area. -/
  | scanWrite (tag addr : Nat) (bytes : List Nat)
  /-- SET_ENDPOINT_ID (R553): MCTP control command setting the endpoint ID. -/
  | setEndpointId (eid : Nat)
  /-- GET_MCTP_VERSION_SUPPORT (R553): MCTP control command returning supported versions. -/
  | getMctpVersionSupport (ty : Nat)
  /-- GETPLDMVERSION (R553): PLDM base command returning the PLDM version. -/
  | getpldmversion (ty : Nat)
  /-- GETPLDMCOMMANDS (R553): PLDM base command returning the supported commands of a type. -/
  | getpldmcommands (ty : Nat)
  /-- SETEVENTRECEIVER (R553): PLDM platform command setting the one event receiver of PlatformEventMessage. -/
  | seteventreceiver (enable : Bool) (eid : Nat)
  /-- REQUESTUPDATE (R554): PLDM firmware-update command opening an update session, or answering that one is in progress. -/
  | requestupdate (len : Nat)
  /-- CLOCK_MEASUREMENT (R563): Each 1 ms window ends with a count of a source's edges compared with its window, driving VALID, MEAS_OUT and drift failure. -/
  | clockMeasurement (src count : Nat)
  /-- CLOCK_EDGE_LOSS (R565): No edge of a source for 500 ns makes it LOST and forces its safe state. -/
  | clockEdgeLoss (src : Nat)
  /-- CLK_GATE_WRITE (R570): A write to CLK_GATE stops or starts peripheral clocks, gating their register blocks. -/
  | clkGateWrite (src : Src) (value : Word)
  /-- DOMAIN_SWITCH_DONE (R572): A power domain reaches its new state, or after 2 ms its partition is fenced and escalated. -/
  | domainSwitchDone (n : Nat) (ok : Bool)
  /-- PARTITION_POWER_DOWN (R573): Setting a PWR_PT_REQ bit fences, drains and switches off a partition, or is refused. -/
  | partitionPowerDown (src : Src) (value : Word)
  /-- PARTITION_POWER_UP (R574): Clearing a PWR_PT_REQ bit powers a partition up and runs the later steps of a partition reset. -/
  | partitionPowerUp (src : Src) (value : Word)
  /-- THERMOMETER_SAMPLE (R581): At each 10 kHz sample the device updates bay temperatures, rates, suspect marks, cone levels and soak triggers. -/
  | thermometerSample (temps : List (Option Int))
  /-- THERMAL_RELEASE_EXPIRY (R583): No rate at CONE_A for C_HOLD × 10 ms removes the reason THERMAL. -/
  | thermalReleaseExpiry (bay : Nat)
  /-- BOARD_CHANNEL_READ (R585): At least every 10 ms a board channel is read and checked against HI. -/
  | boardChannelRead (n : Nat)
  /-- CONVERSION_REQUEST (R598): A write to MADC_CHSEL queues a normal or urgent conversion, possibly aborting a normal conversion. -/
  | conversionRequest (src : Src) (value : Word)
  /-- OPEN_WIRE_TEST_REQUEST (R604): A write to MADC_CHSEL with PULL set queues a pull-up or pull-down open-wire test. -/
  | openWireTestRequest (src : Src) (value : Word)
  /-- CONVERSION_COMPLETE (R597): A conversion finishes and its result, overrange and settling flags are written; the next request starts. -/
  | conversionComplete (v : Int)
  /-- MADC_CALIBRATION (R605): Self-calibration of the converter starts by period, temperature change or bisque step. -/
  | madcCalibration (bisque : Bool)
  /-- MADC_CALIBRATION_DONE (R605): Self-calibration ends and the new trims take effect, or the old trims are kept. -/
  | madcCalibrationDone (ok : Bool)
  /-- EXTEST (R617): TAP instruction driving the boundary scan register and holding the package in reset. -/
  | extest (data : Nat)
  /-- SAMPLE_PRELOAD (R617): TAP instruction sampling or preloading the boundary scan register. -/
  | samplePreload (data : Nat)
  /-- DRESP (R618): Update of the DRESP register starts verification of a signed unlock response. -/
  | dresp (pub scope sig : Nat)
  /-- DADDR (R622): Update of DADDR loads the debug address and issues a read when OP is 1. -/
  | daddr (value : Nat)
  /-- DDATA (R622): Update of DDATA issues the debug access OP names; capture returns its status and data. -/
  | ddata (update : Bool) (value : Nat)
  /-- DEBUG_ACCESS_COMPLETE (R622): A debug access completes, or ends with ERROR after 100 µs. -/
  | debugAccessComplete (hang : Bool)
  /-- DBG_HALT (R625): HALT in DBG_CTRL halts the bays of DBG_HALT_MASK at their stage boundaries. -/
  | dbgHalt (value : Word)
  /-- DBG_RESUME (R628): RESUME in DBG_CTRL releases every halted bay. -/
  | dbgResume (value : Word)
  /-- DBG_STEP (R628): STEP in DBG_CTRL releases halted bays for STEP_N acknowledges and halts them again. -/
  | dbgStep (value : Word)
  /-- DBG_CLOSE (R619): CLOSE in DBG_CTRL clears the granted debug scope. -/
  | dbgClose (value : Word)
  /-- FABRIC_HALTED (R625): Every element of a halted bay is waiting or idle and its DBG_HALTED bit is set. -/
  | fabricHalted (bay : Nat)
  /-- SILSET_PC_BREAKPOINT (R629): A DBG_SIL_BPn comparator halts the cores before the matching instruction. -/
  | silsetPcBreakpoint (n : Nat)
  /-- POWER_ON (R647): PD23 leaves power-on reset, the straps are sampled and the crystal starts. -/
  | powerOn (strap : Nat) (late : List Nat)
  /-- STARTUP_PHASE_ADVANCE (R647): Start-up moves to its next phase when the work of the present one is done. -/
  | startupPhaseAdvance (failed : List (Nat × Nat))
  /-- BOARD_INPUT_HOLD_EXPIRY (R644): The 250 µs hold after an accepted change ends and a deferred change takes effect if still present. -/
  | boardInputHoldExpiry (inp : Nat) (still : Bool)
  /-- BOARD_INPUT_STUCK (R644): ALERT_IN_N or THERM_IN_N active for more than 1 s is reported and masked. -/
  | boardInputStuck (inp : Nat)
  /-- SUPPLY_UNDERVOLTAGE (R649): A rail below its undervoltage trip for 20 µs fences, switches off or resets what it feeds. -/
  | supplyUndervoltage (r : Nat)
  /-- SUPPLY_RECOVERED (R649): A rail in window for 10 ms lets the affected domains, links or package come back. -/
  | supplyRecovered (r : Nat)
  /-- PORT_LINK_DOWN (R402): A logical Ethernet port loses its link and the queue pairs it carries enter the error state. -/
  | portLinkDown (port : Nat)
  /-- PORT_LINK_UP (R431): Link training of a logical Ethernet port completes and LINK changes from training to up. -/
  | portLinkUp (port : Nat)
  /-- LINK_RETRAINING_COMPLETE (R478): Retraining of a failed on-package bridge succeeds and the fence reason LINK is removed. -/
  | linkRetrainingComplete (kind index : Nat)
  /-- AGENT_UPDATE_COMPLETE (R545): Die-agent firmware finishes loading into a die's agent and the fence reason UPDATE is removed. -/
  | agentUpdateComplete (kind index : Nat)
  /-- BOARD_INPUT_GLITCH (R644): A board input pulse shorter than 1 µs is ignored, sets GLITCH and is logged. -/
  | boardInputGlitch (inp : Nat)
  /-- DMA_MIB_MOVED (R360): Another 1 MiB of a CHECKPOINT or SEQ_RESTORE transfer is moved, restarting the timeout, and the last chunk completes the command. -/
  | dmaMibMoved (h : Nat)
  /-- RESTORE_RECORD_ARRIVAL (R296): A shadow record of a RESTORE arrives, its digest is checked and its index state is set back to VALID. -/
  | restoreRecordArrival (h tl : Nat) (payload : List Nat) (err : Bool)
  /-- ADAPTER_Q_ARRIVAL (R143): Backward-pass parts q reach the reducing vector unit's adapter port, which forms v and sends it to the glaze slices. -/
  | adapterQArrival (cl im idx vec col : Nat) (q : List Nat)
  /-- ADAPTER_V_ARRIVAL (R143): The values v reach a glaze slice, which accumulates dA and forms z for the input-gradient glaze contribution. -/
  | adapterVArrival (cl im idx vec rb : Nat) (v : List Nat)
  /-- PLDM_COMPONENT_TRANSFER (R553): The PLDM update-agent commands between RequestUpdate and ActivateFirmware transfer and verify the Silset image into the inactive slot. -/
  | pldmComponentTransfer (cmd : Nat) (bytes : Nat)
  /-- VADD (R255): Vector instruction D = A + B. -/
  | vadd (cl ctx : Nat)
  /-- VSUB (R255): Vector instruction D = A − B. -/
  | vsub (cl ctx : Nat)
  /-- VMUL (R255): Vector instruction D = A × B. -/
  | vmul (cl ctx : Nat)
  /-- VFMA (R255): Vector instruction D = A × B + C with one rounding. -/
  | vfma (cl ctx : Nat)
  /-- VMAX (R255): Vector instruction taking the larger of A and B. -/
  | vmax (cl ctx : Nat)
  /-- VMIN (R255): Vector instruction taking the smaller of A and B. -/
  | vmin (cl ctx : Nat)
  /-- VABS (R255): Vector instruction D = |A|. -/
  | vabs (cl ctx : Nat)
  /-- VNEG (R255): Vector instruction D = −A. -/
  | vneg (cl ctx : Nat)
  /-- VCVT (R254): Vector instruction converting A scaled by 2^IMM into D's format. -/
  | vcvt (cl ctx : Nat)
  /-- VMOV (R255): Vector instruction copying elements of A from XA into D unchanged. -/
  | vmov (cl ctx : Nat)
  /-- VRCP (R258): Vector instruction D = 1 / A. -/
  | vrcp (cl ctx : Nat)
  /-- VRSQ (R258): Vector instruction D = 1 / √A. -/
  | vrsq (cl ctx : Nat)
  /-- VEXP2 (R258): Vector instruction D = 2^A. -/
  | vexp2 (cl ctx : Nat)
  /-- VLOG2 (R258): Vector instruction D = log2 A. -/
  | vlog2 (cl ctx : Nat)
  /-- VSIG (R258): Vector instruction computing the logistic sigmoid of A. -/
  | vsig (cl ctx : Nat)
  /-- VSILU (R258): Vector instruction D = A × VSIG(A) × B. -/
  | vsilu (cl ctx : Nat)
  /-- VROPE (R259): Vector instruction rotating element pairs of A by the cosine–sine pairs of B. -/
  | vrope (cl ctx : Nat)
  /-- VBSCL (R260): Vector instruction performing block-scaled conversion of A into codes D and E8M0 scales C. -/
  | vbscl (cl ctx : Nat)
  /-- VRSUM (R256): Vector instruction summing A in the fixed lane and tree order into D[0]. -/
  | vrsum (cl ctx : Nat)
  /-- VDOT (R256): Vector instruction forming the dot product of A and B into D[0]. -/
  | vdot (cl ctx : Nat)
  /-- VRMAX (R257): Vector instruction finding the largest element of A and its index. -/
  | vrmax (cl ctx : Nat)
  /-- VSCAN (R257): Vector instruction forming the inclusive prefix sum of A. -/
  | vscan (cl ctx : Nat)
  /-- VTOPK (R261): Vector instruction selecting the K largest elements of A with their indices. -/
  | vtopk (cl ctx : Nat)
  /-- VLSEM (R262): Vector instruction merging two attention partials by log-sum-exp. -/
  | vlsem (cl ctx : Nat)
  /-- VIADD (R255): Vector integer instruction D = A + B. -/
  | viadd (cl ctx : Nat)
  /-- VIMUL (R255): Vector integer instruction D = A × B. -/
  | vimul (cl ctx : Nat)
  /-- VRNG (R261): Vector instruction writing uniform FP32 values from the seed and counter. -/
  | vrng (cl ctx : Nat)
  /-- VFETCH (R280): Vector instruction posting a read of device memory into slot D. -/
  | vfetch (cl ctx : Nat)
  /-- VSTORE (R263): Vector instruction posting a write of A to a device address. -/
  | vstore (cl ctx : Nat)
  /-- SEND (R263): Vector instruction sending A to the destination word in XA. -/
  | send (cl ctx : Nat)
  /-- SENDM (R263): Vector instruction sending A to up to eight destination words in one issue. -/
  | sendm (cl ctx : Nat)
  /-- SGET (R255): Instruction reading element XB of A into a scalar register. -/
  | sget (cl ctx : Nat)
  /-- SPUT (R245): Instruction writing one element of slot D from XA without changing PRESENT. -/
  | sput (cl ctx : Nat)
  /-- SADD (R255): Scalar add, wrapping at 2^32. -/
  | sadd (cl ctx : Nat)
  /-- SSUB (R255): Scalar subtract, wrapping at 2^32. -/
  | ssub (cl ctx : Nat)
  /-- SAND (R255): Scalar bitwise AND. -/
  | sand (cl ctx : Nat)
  /-- SOR (R255): Scalar bitwise OR. -/
  | sor (cl ctx : Nat)
  /-- SXOR (R255): Scalar bitwise exclusive OR. -/
  | sxor (cl ctx : Nat)
  /-- SSHL (R255): Scalar shift left. -/
  | sshl (cl ctx : Nat)
  /-- SSHR (R255): Scalar logical shift right. -/
  | sshr (cl ctx : Nat)
  /-- SLI (R255): Load a sign-extended immediate into a scalar register. -/
  | sli (cl ctx : Nat)
  /-- SLUI (R255): Load an immediate into the upper bits of a scalar register. -/
  | slui (cl ctx : Nat)
  /-- BR (R255): Unconditional branch. -/
  | br (cl ctx : Nat)
  /-- BEQ (R255): Branch if equal. -/
  | beq (cl ctx : Nat)
  /-- BNE (R255): Branch if not equal. -/
  | bne (cl ctx : Nat)
  /-- BLT (R255): Branch if less than, signed. -/
  | blt (cl ctx : Nat)
  /-- HALT (R255): The context stops in state HALTED. -/
  | halt (cl ctx : Nat)
  /-- SFLG (R255): Read the sticky flags into a scalar register. -/
  | sflg (cl ctx : Nat)
  /-- SFCLR (R255): Clear the sticky flags selected by XA. -/
  | sfclr (cl ctx : Nat)
  /-- NOP (R255): Vector no-operation instruction. -/
  | nop (cl ctx : Nat)
  /-- PF_FLR (R462): A Function Level Reset of the physical function clears VF Enable and resets every function's queues, handles, sequences and host registers. -/
  | pfFlr
  /-- HOST_LINK_DOWN (R462): A hot reset or link-down of the host link acts as a PF FLR followed by link retraining. -/
  | hostLinkDown
  /-- DOE_ABORT (R463): A DOE Abort discards the request in progress within 1 ms. -/
  | doeAbort
  /-- GET_VERSION (R463): The SPDM GET_VERSION request is answered by Silset with version 1.2. -/
  | getVersion
  /-- GET_CAPABILITIES (R463): The SPDM GET_CAPABILITIES request is answered with CERT_CAP, CHAL_CAP and MEAS_CAP. -/
  | getCapabilities
  /-- GET_DIGESTS (R548): The SPDM GET_DIGESTS request returns the digests of the certificate chains of slots 0 and 1. -/
  | getDigests
  /-- VR_CODE_REPEAT (R640): Once each millisecond the device repeats the present code of every rail. -/
  | vrCodeRepeat
  /-- VR_ALERT (R640): An assertion of VR_ALERT_N sets VR_ALERT, is logged and makes the device resend every rail's code. -/
  | vrAlert
  /-- DRIFT_TRIGGER_CHECK (R174): Once a second Silset evaluates the drift and refresh triggers of each bay. -/
  | driftTriggerCheck
  /-- UTC_FLASH_WRITE (R187): Once an hour Silset writes its UTC to flash. -/
  | utcFlashWrite
  /-- WARM_TO_EXPIRY (R486): A warm reset not complete within WARM_TO leads to a cold reset. -/
  | warmToExpiry
  /-- LOCKSTEP_MISMATCH (R529): The lockstep comparator finds Silset's cores disagreeing and restarts Silset. -/
  | lockstepMismatch
  /-- WATCHDOG_EXPIRY (R529): The Silset watchdog expires and Silset restarts from its boot ROM. -/
  | watchdogExpiry
  /-- SILSET_RESTART_COMPLETE (R529): Silset finishes its restart and resumes reconciliation and pending triggers. -/
  | silsetRestartComplete
  /-- GET_ENDPOINT_ID (R553): MCTP control command returning the endpoint ID. -/
  | getEndpointId
  /-- GET_ENDPOINT_UUID (R553): MCTP control command returning the endpoint UUID. -/
  | getEndpointUuid
  /-- GET_MESSAGE_TYPE_SUPPORT (R553): MCTP control command returning supported message types. -/
  | getMessageTypeSupport
  /-- GETTID (R553): PLDM base command returning the terminus ID. -/
  | gettid
  /-- GETPLDMTYPES (R553): PLDM base command returning the supported PLDM types. -/
  | getpldmtypes
  /-- ACTIVATEFIRMWARE (R553): PLDM firmware-update command activating the staged Silset image. -/
  | activatefirmware
  /-- RC_OSCILLATOR_LOSS (R569): The RC oscillator is lost and the crystal is judged by loss detection alone. -/
  | rcOscillatorLoss
  /-- CONVERSION_TIMEOUT (R607): A conversion not complete within 2,000 ns is discarded and repeated once. -/
  | conversionTimeout
  /-- OW_AUTO_TEST (R604): Once a second Silset tests the channels of MADC_OW_MASK. -/
  | owAutoTest
  /-- TAP_RESET (R614): SPY_TRST_N resets the TAP controller, leaving unlock, halts and breakpoints as they are. -/
  | tapReset
  /-- IDCODE (R616): TAP instruction selecting the 32-bit identification register. -/
  | idcode
  /-- CLAMP (R617): TAP instruction holding outputs from the boundary register and the package in reset. -/
  | clamp
  /-- HIGHZ (R617): TAP instruction placing outputs in high impedance and holding the package in reset. -/
  | highz
  /-- BOUNDARY_INSTRUCTION_EXIT (R617): Leaving EXTEST, CLAMP or HIGHZ starts a package warm reset. -/
  | boundaryInstructionExit
  /-- BYPASS (R615): TAP instruction selecting the 1-bit bypass register. -/
  | bypass
  /-- DSTAT (R632): TAP instruction capturing DBG_STAT. -/
  | dstat
  /-- DCHAL (R618): TAP instruction capturing a fresh unlock nonce. -/
  | dchal
  /-- UNLOCK_VERIFY_DONE (R620): Verification of an unlock response ends, granting the scope or failing. -/
  | unlockVerifyDone
  /-- UNLOCK_RATE_LIMIT_EXPIRY (R618): The 10 s limit after three failed responses ends. -/
  | unlockRateLimitExpiry
  /-- DBG_SIL_HALT (R629): HALT in DBG_SIL_CTRL stops both Silset cores. -/
  | dbgSilHalt
  /-- DBG_SIL_RESUME (R629): RESUME in DBG_SIL_CTRL continues Silset execution. -/
  | dbgSilResume
  /-- DBG_SIL_STEP (R629): STEP in DBG_SIL_CTRL executes one Silset instruction. -/
  | dbgSilStep
  /-- DBG_SIL_RESTART (R629): RESTART in DBG_SIL_CTRL restarts Silset under R529 with cause 5. -/
  | dbgSilRestart
  /-- PERST_N_ASSERT (R645): A filtered assertion of PERST_N starts a package warm reset held while low. -/
  | perstNAssert
  /-- PERST_N_RELEASE (R645): Release of PERST_N starts the start-up sequence from phase HOST, or releases a thermal trip. -/
  | perstNRelease
  /-- ALERT_IN_ASSERT (R645): A filtered assertion of ALERT_IN_N sets ALERT_EV, logs, sends a PLDM event and signals MSI-X. -/
  | alertInAssert
  /-- THERM_IN_ASSERT (R577): A filtered assertion of THERM_IN_N reduces the governor's package budget. -/
  | thermInAssert
  /-- THERM_IN_RELEASE (R577): Release of THERM_IN_N restores the package budget. -/
  | thermInRelease
  /-- PCIE_LINK_UP (R462): Retraining of the host PCIe link after a hot reset, link-down or clock recovery completes and the link is up again. -/
  | pcieLinkUp (speed width : Nat)
  /-- RC_OSCILLATOR_RECOVERED (R569): The RC oscillator returns to its trimmed frequency and the crystal is checked against it again. -/
  | rcOscillatorRecovered
  /-- SILSET_SRAM_UNCORRECTABLE (R529): An uncorrectable error in Silset's SRAM restarts Silset from its boot ROM. -/
  | silsetSramUncorrectable
  /-- ALERT_IN_RELEASE (R644): ALERT_IN_N is released, and a stuck mask lifts once the input has been inactive for 1 µs. -/
  | alertInRelease
  deriving DecidableEq, Repr

end Sys2Proof
end

