-- ==== Sys2Proof/Decode.lean ====
section
/-! DEFINITION. The reading of a command word. The table of operations and events gives none of its rows any bits, so no word
spells a command. -/

namespace Sys2Proof

/-- The command that a word spells by the bits of the table: none, since no row has bits. DESIGN CHOICE (log entry 1). -/
def decodeTableWord (_nbits _w : Nat) : Option Instr := none

end Sys2Proof
end

