-- ==== Sys2Proof/Config.lean ====
section
/-! DEFINITION. What an implementation fixes and the manual leaves open: constants without a body, of which nothing can be
proved but what holds of every value.  Each is named in the assumption log. -/

namespace Sys2Proof.Config

/-- Free values: the value drawn when the model's counter stood at the argument. DESIGN CHOICE (log entries 7, 9). -/
opaque freeWord : Nat → BitVec 64

/-- Free values of 384 bits: nonces and signatures. DESIGN CHOICE (log entry 7). -/
opaque freeBig : Nat → BitVec 384

/-- How a draw-ring checker picks an entry or a column by a word of the generator of R261 (R505). DESIGN CHOICE (log entry 64). -/
opaque chkPick : Nat → BitVec 16

/-- The SVN of the oldest evaluated release that a firmware image carries, by the digest of the image (R551).
DESIGN CHOICE (log entry 25). -/
opaque evalMin : Nat → BitVec 8

/-- SHA-384 of a list of bytes or words (an outside standard). DESIGN CHOICE (log entry 7). -/
opaque sha384 : List Nat → BitVec 384

/-- Verification of an ECDSA P-384 signature: public key, message, signature (an outside standard).
DESIGN CHOICE (log entry 7). -/
opaque verify : Nat → List Nat → Nat → Bool

/-- The CODE of a kiln log event that R654 does not name (R536), by class and a number of the model's own.
DESIGN CHOICE (log entry 6). -/
opaque catalogue : Nat → Nat → BitVec 16

/-- The bytes of DATA of a log entry whose class has no offsets in R536, by class, code and the items. -/
opaque logData : Nat → Nat → List Nat → BitVec 128

/-- The endpoint UUID, the terminus ID and the versions that the management bus reports (R553). PRESUMED (log entry 27). -/
opaque endpointUuid : BitVec 128
opaque terminusId : BitVec 8
opaque mctpVersions : Nat → BitVec 32
opaque pldmVersions : Nat → BitVec 32

/-- The certificate chain of a slot (R548), by slot and a digest of what it binds. PRESUMED (log entry 28). -/
opaque certChain : Nat → Nat → List Byte

/-- The SHA-384 of the boot ROM, and of the die-agent firmware that a firmware image carries, by the digest of the image (R549).
PRESUMED (log entry 28). -/
opaque bootRomDigest : BitVec 384
opaque agentDigest : Nat → BitVec 384

/-- Results of the transcendental instructions within the freedom that R258 leaves, by operation and FP32 operands.
DESIGN CHOICE (log entries 9, 10). -/
opaque transc : Nat → Nat → Nat → Nat

/-- The words of Silset's boot ROM by address, and the OTP offsets at which the identity seed stands (R541, R623).
DESIGN CHOICE (log entry 29). -/
opaque romWord : Nat → BitVec 32
opaque seedAt : Nat → Bool

end Sys2Proof.Config
end

