-- ==== Sys2Proof/Machine/Tab.lean ====
section
/-! DEFINITION. Plain-data tables and bit fields: the two operations on a sparse table (a list of key and value pairs in
one canonical form) and the reading and writing of a field of a register. -/

namespace Sys2Proof.Machine

/-- A sparse table: keys strictly rising, no entry equal to what an unlisted key reads as. -/
abbrev Tab (α : Type) := List (Nat × α)

/-- The value at key `k`; an unlisted key reads as `d`. -/
def tget {α : Type} (d : α) : Tab α → Nat → α
  | [], _ => d
  | (k', v) :: m, k => if k' = k then v else tget d m k

/-- The table with the entry of `k` removed. -/
def tdel {α : Type} (m : Tab α) (k : Nat) : Tab α := m.filter fun e => e.1 != k

/-- The table with `v` at `k`, whatever stood there. -/
def tins {α : Type} : Tab α → Nat → α → Tab α
  | [], k, v => [(k, v)]
  | (k', v') :: m, k, v =>
    if k' < k then (k', v') :: tins m k v else if k' = k then (k, v) :: m else (k, v) :: (k', v') :: m

/-- The table with `v` at `k`, in canonical form for the default `d`. -/
def tset {α : Type} [DecidableEq α] (d : α) (m : Tab α) (k : Nat) (v : α) : Tab α :=
  if v = d then tdel m k else tins m k v

/-- The table with the value at `k` passed through `f`. -/
def tmod {α : Type} [DecidableEq α] (d : α) (m : Tab α) (k : Nat) (f : α → α) : Tab α :=
  tset d m k (f (tget d m k))

/-- The table without the keys that satisfy `p`. -/
def tdrop {α : Type} (p : Nat → Bool) (m : Tab α) : Tab α := m.filter fun e => !p e.1

/-- The canonical form of a table whose unlisted key `k` reads as `d k`. -/
def twf {α : Type} [DecidableEq α] (d : Nat → α) : Tab α → Bool
  | [] => true
  | (k, v) :: m => decide (v ≠ d k) && m.all (fun e => decide (k < e.1)) && twf d m

/-- Bits `[hi:lo]` of a number. -/
def bitsOf (n hi lo : Nat) : Nat := (n >>> lo) % 2 ^ (hi + 1 - lo)

/-- The number `n` with bits `[hi:lo]` replaced by the low bits of `v`. -/
def setBits (n hi lo v : Nat) : Nat :=
  (n >>> (hi + 1)) <<< (hi + 1) + (v % 2 ^ (hi + 1 - lo)) <<< lo + n % 2 ^ lo

/-- Bit `i` of a number. -/
def bitOf (n i : Nat) : Bool := n.testBit i

/-- Bits `[hi:lo]` of a register. -/
def fld (w : Word) (hi lo : Nat) : Nat := bitsOf w.toNat hi lo

/-- A register with bits `[hi:lo]` replaced. -/
def setFld (w : Word) (hi lo v : Nat) : Word := BitVec.ofNat 32 (setBits w.toNat hi lo v)

/-- Addition that stops at `top` (the saturating counters of the manual). -/
def satAdd (top a b : Nat) : Nat := min top (a + b)

/-- 1 for true. -/
def b2n (b : Bool) : Nat := if b then 1 else 0

/-- The numbers of the set bits of `n` below `w`, rising. -/
def setBitsOf (w n : Nat) : List Nat := (List.range w).filter n.testBit

/-- The `n` low bytes of a number, least significant first (registers and log entries are little-endian, R446, R535). -/
def bytesLE (n v : Nat) : List Byte := (List.range n).map fun i => BitVec.ofNat 8 (v >>> (8 * i))

/-- The number whose bytes, least significant first, are given. -/
def ofBytesLE : List Byte → Nat
  | [] => 0
  | b :: bs => b.toNat + 256 * ofBytesLE bs

/-- A two's complement number of `w` bits read as an integer. -/
def sxt (w n : Nat) : Int := if n.testBit (w - 1) then (n % 2 ^ w : Int) - 2 ^ w else (n % 2 ^ w : Int)

/-- An integer as two's complement of `w` bits. -/
def toTwos (w : Nat) (i : Int) : Nat := (i % (2 ^ w : Int)).toNat

/-- Left fold of a state change over a list. -/
def foldS {α σ : Type} (xs : List α) (f : α → σ → σ) (s : σ) : σ := xs.foldl (fun s x => f x s) s

end Sys2Proof.Machine
end

