-- ==== Sys2Proof/Machine/Flags.lean ====
section
/-! DEFINITION. Rounding modes and the flags of a conversion (R55, R56, R240, R254), and the one rounding of an exact
rational magnitude onto a binary grid that every conversion of the manual uses. -/

namespace Sys2Proof.Machine

/-- Rounding modes, in the order of the RM field (R253). -/
inductive Rm where
  | rne | rtz | rdn | rup
  deriving DecidableEq, Repr

/-- The mode that RM names. -/
def rmOf (n : Nat) : Rm := if n = 1 then .rtz else if n = 2 then .rdn else if n = 3 then .rup else .rne

/-- The sticky flags: invalid, division by zero, overflow, underflow (R240). -/
structure Fl where
  nv : Bool := false
  dz : Bool := false
  of : Bool := false
  uf : Bool := false
  deriving DecidableEq, Repr

/-- Flags set by either of two events. -/
def Fl.or (a b : Fl) : Fl := { nv := a.nv || b.nv, dz := a.dz || b.dz, of := a.of || b.of, uf := a.uf || b.uf }

/-- The flags as SFLG reads them: NV in bit 0, DZ in bit 1, OF in bit 2, UF in bit 3 (R255). -/
def Fl.toNat (f : Fl) : Nat := b2n f.nv + 2 * b2n f.dz + 4 * b2n f.of + 8 * b2n f.uf

/-- The flags without those whose bits are set in `m` (SFCLR). -/
def Fl.clear (f : Fl) (m : Nat) : Fl :=
  { nv := f.nv && !m.testBit 0, dz := f.dz && !m.testBit 1, of := f.of && !m.testBit 2, uf := f.uf && !m.testBit 3 }

/-- `num / den` divided by `2^q`, as a fraction. -/
def scale2 (num den : Nat) (q : Int) : Nat × Nat :=
  match q with
  | .ofNat k => (num, den * 2 ^ k)
  | .negSucc k => (num * 2 ^ (k + 1), den)

/-- The largest `k` with `2^k ≤ num / den`, for positive numbers. -/
def floorLog2 (num den : Nat) : Int :=
  let d := (num.log2 : Int) - (den.log2 : Int)
  let x := scale2 num den d
  if x.2 ≤ x.1 then d else d - 1

/-- The least `k` with `num / den ≤ 2^k`, for positive numbers. -/
def ceilLog2 (num den : Nat) : Int :=
  let k := floorLog2 num den
  let x := scale2 num den k
  if x.1 = x.2 then k else k + 1

/-- The fraction `n / d` rounded to a whole number under a mode, for a number of sign `neg` and that magnitude. -/
def roundFrac (rm : Rm) (neg : Bool) (n d : Nat) : Nat :=
  let f := n / d
  let r := n % d
  match rm with
  | .rne => if 2 * r < d then f else if d < 2 * r then f + 1 else f + f % 2
  | .rtz => f
  | .rdn => if neg && r != 0 then f + 1 else f
  | .rup => if !neg && r != 0 then f + 1 else f

/-- A positive magnitude rounded to `mb + 1` significant bits, on a grid whose spacing is never below `2^qmin`: the count,
the exponent of the spacing and whether the rounding lost anything. -/
def roundGrid (rm : Rm) (neg : Bool) (num den mb : Nat) (qmin : Int) : Nat × Int × Bool :=
  let q := max (floorLog2 num den - mb) qmin
  let x := scale2 num den q
  (roundFrac rm neg x.1 x.2, q, x.1 % x.2 != 0)

/-- An integer divided by `2^k`, rounded to nearest even (R63, R64). -/
def rneShift (x : Int) (k : Nat) : Int :=
  let m := roundFrac .rne (decide (x < 0)) x.natAbs (2 ^ k)
  if x < 0 then -(m : Int) else m

/-- Element `i` of VRNG's sequence from seed and counter (R261). -/
def rngBits (seed n i : Nat) : Nat :=
  let m := 2 ^ 64
  let z := (seed + (n + i + 1) * 0x9E3779B97F4A7C15) % m
  let z := ((z ^^^ (z >>> 30)) * 0xBF58476D1CE4E5B9) % m
  let z := ((z ^^^ (z >>> 27)) * 0x94D049BB133111EB) % m
  (z ^^^ (z >>> 31)) >>> 40

end Sys2Proof.Machine
end

