-- ==== Sys2Proof/Machine/Operands.lean ====
section
/-! DEFINITION. The data formats (R51, R52), their decoding and the conversions into them (R54 to R57, R653), exact
arithmetic with one rounding, and the operand widths of memory (R53). -/

namespace Sys2Proof.Machine

/-- The data formats and the scale encoding (R51). -/
inductive Fmt where
  | int4 | fp4 | int8 | e4m3 | e5m2 | fp16 | bf16 | fp32 | int16 | int32 | e8m0
  deriving DecidableEq, Repr

/-- The format a FMT code names (R253). -/
def Fmt.ofCode (n : Nat) : Option Fmt :=
  match n with
  | 0 => some .int4 | 1 => some .fp4 | 2 => some .int8 | 3 => some .e4m3 | 4 => some .e5m2
  | 5 => some .fp16 | 6 => some .bf16 | 7 => some .fp32 | 8 => some .int16 | 9 => some .int32
  | 15 => some .e8m0 | _ => none

/-- Width of an element in bits (R51). -/
def Fmt.width : Fmt → Nat
  | .int4 => 4 | .fp4 => 4 | .int8 => 8 | .e4m3 => 8 | .e5m2 => 8 | .fp16 => 16 | .bf16 => 16 | .fp32 => 32
  | .int16 => 16 | .int32 => 32 | .e8m0 => 8

/-- An integer format. -/
def Fmt.isInt : Fmt → Bool
  | .int4 | .int8 | .int16 | .int32 => true
  | .fp4 | .e4m3 | .e5m2 | .fp16 | .bf16 | .fp32 | .e8m0 => false

/-- Mantissa bits of a floating-point format (R51). -/
def Fmt.mbits : Fmt → Nat
  | .fp4 => 1 | .e4m3 => 3 | .e5m2 => 2 | .fp16 => 10 | .bf16 => 7 | .fp32 => 23
  | .int4 | .int8 | .int16 | .int32 | .e8m0 => 0

/-- Exponent of the smallest subnormal of a floating-point format (R51). -/
def Fmt.qmin : Fmt → Int
  | .fp4 => -1 | .e4m3 => -9 | .e5m2 => -16 | .fp16 => -24 | .bf16 => -133 | .fp32 => -149
  | .int4 | .int8 | .int16 | .int32 | .e8m0 => 0

/-- The code of the largest finite magnitude of a floating-point format (R51). -/
def Fmt.maxMag : Fmt → Nat
  | .fp4 => 0x7 | .e4m3 => 0x7E | .e5m2 => 0x7B | .fp16 => 0x7BFF | .bf16 => 0x7F7F | .fp32 => 0x7F7FFFFF
  | .int4 | .int8 | .int16 | .int32 | .e8m0 => 0

/-- The canonical NaN of a format, 0 where it has none (R54, R56). -/
def Fmt.nanCode : Fmt → Nat
  | .fp32 => 0x7FC00000 | .bf16 => 0x7FC0 | .fp16 => 0x7E00 | .e4m3 => 0x7F | .e5m2 => 0x7E | .e8m0 => 0xFF
  | .fp4 | .int4 | .int8 | .int16 | .int32 => 0

/-- The format encodes infinities (R51). -/
def Fmt.hasInf : Fmt → Bool
  | .e5m2 | .fp16 | .bf16 | .fp32 => true
  | .int4 | .fp4 | .int8 | .e4m3 | .int16 | .int32 | .e8m0 => false

/-- A number: NaN, an infinity, or sign, count and exponent of an exact value. -/
inductive Val where
  | nan
  | inf (neg : Bool)
  | fin (neg : Bool) (m : Nat) (e : Int)
  deriving DecidableEq, Repr

/-- The value zero. -/
def Val.zero : Val := .fin false 0 0

/-- An integer as a value. -/
def Val.ofInt (i : Int) : Val := .fin (decide (i < 0)) i.natAbs 0

/-- The value is zero. -/
def Val.isZero : Val → Bool
  | .fin _ m _ => m == 0
  | _ => false

/-- The value is a NaN. -/
def Val.isNan : Val → Bool
  | .nan => true
  | _ => false

/-- The value is finite. -/
def Val.isFin : Val → Bool
  | .fin _ _ _ => true
  | _ => false

/-- The sign of a value; a NaN has none. -/
def Val.sign : Val → Bool
  | .nan => false
  | .inf n => n
  | .fin n _ _ => n

/-- The magnitude of a finite value as a fraction. -/
def Val.frac : Val → Nat × Nat
  | .fin _ m e => scale2 m 1 (-e)
  | _ => (0, 1)

/-- The value a code of a floating-point format stands for (R51). -/
def decodeFloat (f : Fmt) (bits : Nat) : Val :=
  let w := f.width
  let neg := bits.testBit (w - 1)
  let mag := bits % 2 ^ (w - 1)
  if f.maxMag < mag then
    (if f.hasInf && mag == f.maxMag + 1 then .inf neg else .nan)
  else
    let ef := mag / 2 ^ f.mbits
    let mf := mag % 2 ^ f.mbits
    if ef = 0 then .fin neg mf f.qmin else .fin neg (mf + 2 ^ f.mbits) (f.qmin + (ef - 1))

/-- The value a code stands for (R51, R653). -/
def decode (f : Fmt) (bits : Nat) : Val :=
  if f.isInt then Val.ofInt (sxt f.width bits)
  else if f = .e8m0 then (if bits % 256 = 255 then .nan else .fin false 1 ((bits % 256 : Int) - 127))
  else decodeFloat f (bits % 2 ^ f.width)

/-- Largest and smallest value of an integer format. -/
def intMax (f : Fmt) : Nat := 2 ^ (f.width - 1) - 1

/-- An integer saturated into an integer format; OF where it does not fit (R56, R254). -/
def satInt (f : Fmt) (i : Int) : Nat × Fl :=
  if (intMax f : Int) < i then (intMax f, { of := true })
  else if i < -((intMax f : Int) + 1) then (intMax f + 1, { of := true })
  else (toTwos f.width i, {})

/-- The magnitude that an overflow gives (R56): infinity or the largest finite value. -/
def overflowMag (f : Fmt) (rm : Rm) (neg : Bool) : Nat :=
  if f.hasInf && f != .e5m2 &&
    (rm == .rne || (rm == .rup && !neg) || (rm == .rdn && neg)) then f.maxMag + 1 else f.maxMag

/-- A code with its sign; FP4 zero is always 0x0 (R52). -/
def packMag (f : Fmt) (neg : Bool) (mag : Nat) : Nat :=
  if f = .fp4 && mag == 0 then 0 else mag + b2n neg * 2 ^ (f.width - 1)

/-- A magnitude `num / den` of sign `neg` converted into a floating-point format (R55 to R57, R254). -/
def encodeFloat (f : Fmt) (rm : Rm) (neg : Bool) (num den : Nat) : Nat × Fl :=
  if num = 0 then (packMag f neg 0, {}) else
  let r := roundGrid rm neg num den f.mbits f.qmin
  let mag := (r.2.1 - f.qmin).toNat * 2 ^ f.mbits + r.1
  if f.maxMag < mag then (packMag f neg (overflowMag f rm neg), { of := true })
  else (packMag f neg mag, { uf := r.2.2 && decide (mag < 2 ^ f.mbits) })

/-- A positive magnitude converted to E8M0 (R653). -/
def encodeE8m0 (rm : Rm) (num den : Nat) : Nat × Fl :=
  let k := floorLog2 num den
  let x := scale2 num den k
  let up : Bool := match rm with
    | .rtz => false
    | .rdn => false
    | .rup => x.1 != x.2
    | .rne => decide (3 * x.2 < 2 * x.1) || (2 * x.1 == 3 * x.2 && (k + 127) % 2 == 1)
  let k := if up then k + 1 else k
  if 127 < k then (0xFE, { of := true })
  else if k < -127 then (0, { uf := true })
  else ((k + 127).toNat, {})

/-- A value converted into a format under a rounding mode, with the flags of R56 and R653. DESIGN CHOICE (log entry 11). -/
def encode (f : Fmt) (rm : Rm) (v : Val) : Nat × Fl :=
  if f.isInt then
    match v with
    | .nan => (0, { nv := true })
    | .inf neg => (if neg then intMax f + 1 else intMax f, { nv := true })
    | .fin neg m e =>
      let x := scale2 m 1 (-e)
      let n : Int := roundFrac rm neg x.1 x.2
      satInt f (if neg then -n else n)
  else if f = .e8m0 then
    match v with
    | .nan => (0xFF, {})
    | .inf _ => (0xFF, { nv := true })
    | .fin neg m e =>
      if m = 0 || neg then (0xFF, { nv := true }) else
      let x := scale2 m 1 (-e)
      encodeE8m0 rm x.1 x.2
  else
    match v with
    | .nan => (f.nanCode, { nv := f == .fp4 })
    | .inf neg => if f.hasInf then (packMag f neg (f.maxMag + 1), {}) else (packMag f neg f.maxMag, { nv := true })
    | .fin neg m e =>
      let x := scale2 m 1 (-e)
      encodeFloat f rm neg x.1 x.2

/-! ### Exact arithmetic (R55, R254) -/

/-- The sign of an exact zero formed from operands that do not all carry the same sign (R55). -/
def zeroSign (rm : Rm) : Bool := rm == .rdn

/-- The exact sum of two values; an infinity minus an infinity is invalid. -/
def addV (rm : Rm) (x y : Val) : Val × Fl :=
  match x, y with
  | .nan, _ => (.nan, {})
  | _, .nan => (.nan, {})
  | .inf a, .inf b => if a = b then (.inf a, {}) else (.nan, { nv := true })
  | .inf a, .fin _ _ _ => (.inf a, {})
  | .fin _ _ _, .inf b => (.inf b, {})
  | .fin a m e, .fin b n g =>
    if m = 0 && n == 0 then (.fin (if a = b then a else zeroSign rm) 0 0, {}) else
    let q := min e g
    let i : Int := m * 2 ^ (e - q).toNat
    let j : Int := n * 2 ^ (g - q).toNat
    let t := (if a then -i else i) + (if b then -j else j)
    if t = 0 then (.fin (zeroSign rm) 0 0, {}) else (.fin (decide (t < 0)) t.natAbs q, {})

/-- The value with its sign turned. -/
def negV : Val → Val
  | .nan => .nan
  | .inf a => .inf (!a)
  | .fin a m e => .fin (!a) m e

/-- The magnitude of a value. -/
def absV : Val → Val
  | .nan => .nan
  | .inf _ => .inf false
  | .fin _ m e => .fin false m e

/-- The exact product of two values; zero times an infinity is invalid. -/
def mulV (x y : Val) : Val × Fl :=
  match x, y with
  | .nan, _ => (.nan, {})
  | _, .nan => (.nan, {})
  | .inf a, .inf b => (.inf (a != b), {})
  | .inf a, .fin b n _ => if n = 0 then (.nan, { nv := true }) else (.inf (a != b), {})
  | .fin a m _, .inf b => if m = 0 then (.nan, { nv := true }) else (.inf (a != b), {})
  | .fin a m e, .fin b n g => (.fin (a != b) (m * n) (if m * n = 0 then 0 else e + g), {})

/-- The exact fused multiply-add of three values. -/
def fmaV (rm : Rm) (x y z : Val) : Val × Fl :=
  let p := mulV x y
  let r := addV rm p.1 z
  (r.1, if z.isNan then {} else p.2.or r.2)

/-- `x` is less than `y`, for values that are no NaN; +0 and −0 are equal. -/
def ltV (x y : Val) : Bool :=
  match x, y with
  | .nan, _ => false
  | _, .nan => false
  | .inf a, .inf b => a && !b
  | .inf a, .fin _ _ _ => a
  | .fin _ _ _, .inf b => !b
  | .fin a m e, .fin b n g =>
    let q := min e g
    let i : Int := m * 2 ^ (e - q).toNat
    let j : Int := n * 2 ^ (g - q).toNat
    decide ((if a then -i else i) < (if b then -j else j))

/-- A value rounded into FP32 and read back (R254, R256). -/
def toF32 (rm : Rm) (v : Val) : Val × Fl :=
  let r := encode .fp32 rm v
  (decode .fp32 r.1, r.2)

/-! ### FP32 words under RNE: the arithmetic of the fixed stages (R55) -/

/-- Sum of two FP32 words, with the overflow flag. -/
def f32Add (a b : Nat) : Nat × Bool :=
  let x := decode .fp32 a
  let y := decode .fp32 b
  let r := encode .fp32 .rne (addV .rne x y).1
  (r.1, r.2.of)

/-- Product of two values rounded to FP32, with the overflow flag. -/
def f32MulV (x y : Val) : Nat × Bool :=
  let r := encode .fp32 .rne (mulV x y).1
  (r.1, r.2.of)

/-- The sum of FP32 words in the order given, starting from the first. DESIGN CHOICE (log entry 11). -/
def f32Sum : List Nat → Nat
  | [] => 0
  | x :: xs => xs.foldl (fun a b => (f32Add a b).1) x

/-- The canonical NaN of FP32. -/
def nan32 : Nat := 0x7FC00000

/-- An FP32 word is NaN or an infinity. -/
def f32Special (a : Nat) : Bool := !(decode .fp32 a).isFin

/-- An FP32 word rounded to BF16 (R72). -/
def toBf16 (a : Nat) : Nat := (encode .bf16 .rne (decode .fp32 a)).1

/-! ### Packing in memory (R53) -/

/-- Elements of 4 bits packed into bytes, the element of lower index in [3:0]. -/
def pack4 : List Nat → List Byte
  | [] => []
  | [a] => [BitVec.ofNat 8 (a % 16)]
  | a :: b :: xs => BitVec.ofNat 8 (a % 16 + 16 * (b % 16)) :: pack4 xs

/-- The bytes of elements of a format (R53). -/
def packElems (f : Fmt) (xs : List Nat) : List Byte :=
  if f.width = 4 then pack4 xs else xs.flatMap fun x => bytesLE (f.width / 8) x

/-- Element `i` of a format in a byte array read through `rdAt`. -/
def elemAt (f : Fmt) (rdAt : Nat → Byte) (i : Nat) : Nat :=
  if f.width = 4 then ((rdAt (i / 2)).toNat >>> (4 * (i % 2))) % 16
  else ofBytesLE ((List.range (f.width / 8)).map fun j => rdAt (i * (f.width / 8) + j))

/-- The bytes that `n` elements of a format take. -/
def elemBytes (f : Fmt) (n : Nat) : Nat := (n * f.width + 7) / 8

end Sys2Proof.Machine
end

