-- ==== Sys2Proof/Machine/RegTable.lean ====
section
/-! DEFINITION. The register map: one name for every register of the manual's register tables, its place (R18, R19,
R440, R441), its reset value, the bits of each access code (R15), its reserved encodings (R16) and whether writes to it
are journalled (R454). -/

namespace Sys2Proof.Machine

/-- Every register of the manual, by the manual's name.  A register that the manual repeats (TILE_SATn, HUB_VF_BINDk …)
is one name here with an instance number. -/
inductive Reg where
  | HUB_IDENT | HUB_CAP | HUB_CAP1 | HUB_UPD_STROBE | HUB_UPD_STAT | HUB_UPD_CNT
  | HUB_LOCK | HUB_HOST_CFG | HUB_ERR_STAT | HUB_ERR_INFO | HUB_ERR_ADDR_LO | HUB_ERR_ADDR_HI
  | HUB_ERR_CNT | HUB_IRQ_EN | HUB_IRQ_VEC | HUB_BAR4_BASE_LO | HUB_BAR4_BASE_HI | HUB_BAR4_STAT
  | HUB_VF_BIND | HUB_VF_EVT | HUB_TIME_LO | HUB_TIME_HI | HUB_BOOT_STAT | HUB_BRD_IN
  | HUB_BRD_EVT | HUB_GPIO_CTRL | HUB_BRD_VEC | HUB_MEM_CAP0 | HUB_MEM_CAP1 | HUB_MEM_CAP2
  | HUB_SCRUB_CTRL | HUB_MEM_ERR_STAT | HUB_MEM_CE_CNT | HUB_MEM_UE_CNT | HUB_MEM_POISON_LO | HUB_MEM_POISON_HI
  | HUB_HBM_CH_SEL | HUB_HBM_CH_STAT | HUB_SHADOW_STAT | QM_CAP | QM_CTRL | QM_STAT
  | QM_HANDLES | QM_FN_SEL | QM_FN_QUOTA | QM_SQ_BASE_LO | QM_SQ_BASE_HI | QM_RQ_BASE_LO
  | QM_RQ_BASE_HI | QM_Q_CFG | QM_Q_STAT | SET_CAP | SET_VF_LOAD | SET_CTX_SEL
  | SET_CTX_STAT | SET_CTX_PROG | SET_ACTIVE_ID_LO | SET_ACTIVE_ID_HI | SET_ERR | SET_ERR_ENTRY
  | SET_REMAP_CNT | SET_LOCK | SET_MIN_SVN | NET_CAP | NET_CTRL | NET_TC_CFG
  | NET_RC_CFG | NET_ACK_CFG | NET_PORT_SEL | NET_PORT_CFG | NET_PORT_STAT | NET_PORT_MAC_LO
  | NET_PORT_MAC_HI | NET_PORT_IP4 | NET_PORT_IP6_0 | NET_PORT_IP6_1 | NET_PORT_IP6_2 | NET_PORT_IP6_3
  | NET_RX_FRAMES | NET_TX_FRAMES | NET_RX_FCS_ERR | NET_ICRC_ERR | NET_RX_DROP | NET_FEC_CORR
  | NET_PFC_RX | NET_PFC_TX | NET_CNP_RX | NET_CNP_TX | NET_JOB_SEL | NET_JOB_STAT
  | NET_JOB_EPOCH | NET_JOB_STEP | NET_JOB_PEER_SEL | NET_JOB_PEER_STAT | NET_JOB_PEER_EPOCH | NET_DIGEST_CTRL
  | NET_ERR_STAT | NET_STALE_DROP_CNT | NET_DIGEST_MISM_CNT | NET_TOKEN_DIV_CNT | NET_COLL_TO_CNT | NET_RELAY_REC_CNT
  | NET_KV_FOREIGN_CNT | NET_EVT_VEC | SRV_CAP | SRV_CTRL | SRV_STAT | SRV_PFX_CNT
  | SRV_FN_SEL | SRV_FN_PFX_QUOTA | SRV_REG_SEL | SRV_REG_STAT | SRV_TOKEN_CNT | SRV_DRAFT_PROP_CNT
  | SRV_DRAFT_ACC_CNT | SRV_RETRACT_CNT | SRV_SPEC_OFF_CNT | KVM_CAP | KVM_CAP2 | KVM_CTRL
  | KVM_POOL_SEL | KVM_POOL_STAT | KVM_POOL_TOTAL | KVM_POOL_FREE | KVM_SEQ_SEL | KVM_SEQ_STAT
  | KVM_SEQ_LEN | KVM_SEQ_PAGES | KVM_FLUSH_CNT | KVM_COW_CNT | KVM_SPILL_CNT | KVM_DIRECT_CNT
  | KVM_PF_CNT | KVM_PF_UNUSED_CNT | KVM_HBM_SCORE_CNT | KVM_DRAFT_DISC_CNT | KVM_ERR_STAT | KVM_LAST_ERR
  | KVM_CONV_STAT | KVM_CONV_CNT | RST_CTRL | RST_SPLIT | RST_FENCE_HOST | RST_REQ
  | RST_REQ_LOC | RST_STAT | RST_LAST | RST_WARM_CAUSE | RST_UNIT_SEL | RST_UNIT_STAT
  | RST_ENG_CNT | RST_PT_CNT | RST_WARM_CNT | RST_LATE_DROP_CNT | RST_XRESET_CNT | RST_DISPUTE_CNT
  | RST_HANG_CNT | RST_PT_STAT | CHK_CTRL | CHK_SCHED | CHK_RATE | CHK_STAT
  | CHK_FIND_INFO | CHK_FIND_RESID | CHK_FIND_TCLEAN_LO | CHK_FIND_TCLEAN_HI | CHK_SAMPLE_CNT | CHK_SKIP_CNT
  | CHK_OUTLIER_CNT | CHK_CHAIN_CNT | CHK_RO_CNT | CHK_RO_ABANDON_CNT | CHK_FIND_CNT | CHK_SCAN_CTRL
  | CHK_SCAN_STAT | CHK_EVT_VEC | CAL_CTRL | CAL_SCHED | CAL_PROG | CAL_WEAR_WARN
  | CAL_STAT | CAL_UTC | CAL_BAY_SEL | CAL_BAY_STAT | CAL_BAY_AGE | CAL_BAY_CNT
  | CAL_WEAR_SEL | CAL_WEAR_DATA | CAL_WEAR_TIME | GLZ_CAP | GLZ_CTRL | GLZ_CONV_STAT
  | GLZ_CONV_CNT | SIL_CAP | SIL_STAT | SIL_FW_VER | SIL_FW_SVN | SIL_LOG_SEQ
  | SIL_LOG_LOST | SIL_RESTART | SIL_MBX_CTRL | SIL_MBX_STAT | SIL_EVT_VEC | SIL_CTRL
  | SIL_MBX_REQ | SIL_MBX_RSP | CLK_STAT | CLK_CTRL | CLK_GATE | CLK_EVT
  | CLK_MEAS_SEL | CLK_MEAS | PWR_BUDGET | PWR_CTRL | PWR_NOW | PWR_DIE_SEL
  | PWR_DIE_STAT | PWR_PD_STAT0 | PWR_PD_STAT1 | PWR_PT_REQ | PWR_EVT | PWR_GOV_CNT
  | THM_CTRL | THM_CTRL2 | THM_SEL | THM_READ | THM_BAY_SEL | THM_BAY_STAT
  | THM_MAX | THM_STAT | THM_BRD | THM_EVT_VEC | MADC_CAP | MADC_CTRL
  | MADC_CHSEL | MADC_OW_MASK | MADC_STAT | MADC_LAST | MADC_ABORT_CNT | MADC_CONV_CNT
  | MADC_BRD_PAR | MADC_DATA | DBG_STAT | DBG_CTRL | DBG_HALT_MASK_LO | DBG_HALT_MASK_HI
  | DBG_HALTED_LO | DBG_HALTED_HI | DBG_UNLOCK_CNT | DBG_BP_SEL | DBG_BP_CFG | DBG_BP_VAL_LO
  | DBG_BP_VAL_HI | DBG_BP_MASK_LO | DBG_BP_MASK_HI | DBG_BP_HITS | DBG_SIL_CTRL | DBG_SIL_BP
  | CL_CFG | VEC_CAP | VEC_CAP2 | VEC_CTRL | VEC_STAT | VEC_OCC
  | VEC_BEAT_CNT_LO | VEC_BEAT_CNT_HI | VEC_CTX_SEL | VEC_CTX_STAT | VEC_CTX_SLOTS | VEC_LAST_FAULT
  | VEC_LAST_FAULT_PC | ACC_STAT | ACC_LAST_ERR | ACC_WAIT_CNT | SPM_STAT | SPM_CNT
  | SPM_WAIT_CNT | GLZ_SL_CFG | GLZ_SL_STAT | GLZ_SL_MAC_CNT_LO | GLZ_SL_MAC_CNT_HI | GLZ_SL_SEL_CNT
  | TILE_CFG | TILE_LSEL | TILE_STAT | TILE_PASS_CNT_LO | TILE_PASS_CNT_HI | TILE_TPASS_CNT
  | TILE_SAT_CNT | TILE_SAT_LAST | TILE_TRIM | TILE_LCFG | TILE_SAT | VF_INFO
  | VF_IDENT | VF_EVT
  deriving DecidableEq, Repr

/-- The window a register lies in: a BAR0 block (R19), the cluster window, the tile window (R18), or VF BAR0 (R441). -/
inductive Win where
  | blk (b : Nat)
  | cluster
  | tile
  | vf
  deriving DecidableEq, Repr

/-- The bits of a register that carry each access code of R15, as masks. Bits in no mask are read-only. -/
structure Acc where
  rw  : Nat := 0
  w1c : Nat := 0
  w1s : Nat := 0
  rwm : Nat := 0
  rwl : Nat := 0
  rwb : Nat := 0
  deriving DecidableEq, Repr

/-- The encodings of one field that are not reserved, as closed ranges (R16). -/
structure Legal where
  hi : Nat
  lo : Nat
  ok : List (Nat × Nat)
  deriving DecidableEq, Repr

/-- One row of the register map. -/
structure RegDesc where
  win     : Win
  off     : Nat
  count   : Nat := 1
  stride  : Nat := 0
  reset   : Nat := 0
  acc     : Acc := {}
  journ   : Bool := false
  legal   : List Legal := []
  deriving DecidableEq, Repr

/-- The register tables of the manual, one arm per register. DESIGN CHOICE (log entry 2). -/
def Reg.desc : Reg → RegDesc
  | .HUB_IDENT => { win := .blk 0, off := 0x0 }  -- R5
  | .HUB_CAP => { win := .blk 0, off := 0x4, reset := 0x8868204 }  -- R465
  | .HUB_CAP1 => { win := .blk 0, off := 0x8, reset := 0x408001f }  -- R465
  | .HUB_UPD_STROBE => { win := .blk 0, off := 0x10, acc := { w1s := 0xffff } }  -- R466
  | .HUB_UPD_STAT => { win := .blk 0, off := 0x14 }  -- R466
  | .HUB_UPD_CNT => { win := .blk 0, off := 0x18 }  -- R466
  | .HUB_LOCK => { win := .blk 0, off := 0x20, acc := { w1s := 1 } }  -- R467
  | .HUB_HOST_CFG => { win := .blk 0, off := 0x24, reset := 1, acc := { rwl := 3 }, journ := true }  -- R467
  | .HUB_ERR_STAT => { win := .blk 0, off := 0x30, acc := { w1c := 0xff } }  -- R468
  | .HUB_ERR_INFO => { win := .blk 0, off := 0x34, acc := { w1c := 0x80000000 } }  -- R468
  | .HUB_ERR_ADDR_LO => { win := .blk 0, off := 0x38 }  -- R468
  | .HUB_ERR_ADDR_HI => { win := .blk 0, off := 0x3c }  -- R468
  | .HUB_ERR_CNT => { win := .blk 0, off := 0x40 }  -- R468
  | .HUB_IRQ_EN => { win := .blk 0, off := 0x44, reset := 0x160, acc := { rwm := 0x1ff }, journ := true }  -- R469
  | .HUB_IRQ_VEC => { win := .blk 0, off := 0x48, acc := { rw := 0x7ff }, journ := true }  -- R469
  | .HUB_BAR4_BASE_LO => { win := .blk 0, off := 0x50, acc := { rw := 0xf0000000 }, journ := true }  -- R470
  | .HUB_BAR4_BASE_HI => { win := .blk 0, off := 0x54, acc := { rw := 0xffff }, journ := true }  -- R470
  | .HUB_BAR4_STAT => { win := .blk 0, off := 0x58, reset := 0x1c }  -- R470
  | .HUB_VF_BIND => { win := .blk 0, off := 0x80, count := 32, stride := 4, acc := { rw := 0x80000007 }, journ := true }  -- R471
  | .HUB_VF_EVT => { win := .blk 0, off := 0x100, acc := { w1c := 0xfffffffe } }  -- R471
  | .HUB_TIME_LO => { win := .blk 0, off := 0x110 }  -- R472
  | .HUB_TIME_HI => { win := .blk 0, off := 0x114 }  -- R472
  | .HUB_BOOT_STAT => { win := .blk 0, off := 0x200, reset := 0x21 }  -- R650
  | .HUB_BRD_IN => { win := .blk 0, off := 0x204 }  -- R651
  | .HUB_BRD_EVT => { win := .blk 0, off := 0x208, acc := { w1c := 0x7f } }  -- R651
  | .HUB_GPIO_CTRL => { win := .blk 0, off := 0x20c, acc := { rwm := 0xffff }, journ := true }  -- R652
  | .HUB_BRD_VEC => { win := .blk 0, off := 0x210, acc := { rw := 0x800007ff }, journ := true }  -- R652
  | .HUB_MEM_CAP0 => { win := .blk 0, off := 0x400, reset := 0x20000400 }  -- R301
  | .HUB_MEM_CAP1 => { win := .blk 0, off := 0x404, reset := 0x40600180 }  -- R301
  | .HUB_MEM_CAP2 => { win := .blk 0, off := 0x408, reset := 0x2010ff00 }  -- R301
  | .HUB_SCRUB_CTRL => { win := .blk 0, off := 0x410, reset := 0x1180a07, acc := { rw := 0xffffff07 }, journ := true, legal := [⟨15, 8, [(1, 255)]⟩, ⟨23, 16, [(1, 168)]⟩, ⟨31, 24, [(1, 255)]⟩] }  -- R302
  | .HUB_MEM_ERR_STAT => { win := .blk 0, off := 0x414, acc := { w1c := 0x3ff } }  -- R303
  | .HUB_MEM_CE_CNT => { win := .blk 0, off := 0x418 }  -- R304
  | .HUB_MEM_UE_CNT => { win := .blk 0, off := 0x41c }  -- R304
  | .HUB_MEM_POISON_LO => { win := .blk 0, off := 0x420 }  -- R305
  | .HUB_MEM_POISON_HI => { win := .blk 0, off := 0x424, acc := { w1c := 0x80000000 } }  -- R305
  | .HUB_HBM_CH_SEL => { win := .blk 0, off := 0x430, acc := { rw := 0x3f } }  -- R306
  | .HUB_HBM_CH_STAT => { win := .blk 0, off := 0x434 }  -- R306
  | .HUB_SHADOW_STAT => { win := .blk 0, off := 0x438 }  -- R307
  | .QM_CAP => { win := .blk 1, off := 0x0, reset := 0x10000c40 }  -- R386
  | .QM_CTRL => { win := .blk 1, off := 0x4, reset := 0x7d0, acc := { rw := 0xffff }, journ := true, legal := [⟨15, 0, [(1, 65535)]⟩] }  -- R387
  | .QM_STAT => { win := .blk 1, off := 0x8, acc := { w1c := 0x1f } }  -- R388
  | .QM_HANDLES => { win := .blk 1, off := 0xc, reset := 0x10000000 }  -- R389
  | .QM_FN_SEL => { win := .blk 1, off := 0x10, acc := { rw := 0x1f }, journ := true }  -- R389
  | .QM_FN_QUOTA => { win := .blk 1, off := 0x14, reset := 0x1000, acc := { rw := 0x1fff }, journ := true, legal := [⟨12, 0, [(1, 4096)]⟩] }  -- R389
  | .QM_SQ_BASE_LO => { win := .blk 1, off := 0x1000, count := 64, stride := 0x40, acc := { rw := 0xfffff000 }, journ := true }  -- R390
  | .QM_SQ_BASE_HI => { win := .blk 1, off := 0x1004, count := 64, stride := 0x40, acc := { rw := 0xffffffff }, journ := true }  -- R390
  | .QM_RQ_BASE_LO => { win := .blk 1, off := 0x1008, count := 64, stride := 0x40, acc := { rw := 0xfffff000 }, journ := true }  -- R390
  | .QM_RQ_BASE_HI => { win := .blk 1, off := 0x100c, count := 64, stride := 0x40, acc := { rw := 0xffffffff }, journ := true }  -- R390
  | .QM_Q_CFG => { win := .blk 1, off := 0x1010, count := 64, stride := 0x40, reset := 0x1540, acc := { rw := 0x7fffff1 }, journ := true, legal := [⟨15, 12, [(1, 15)]⟩] }  -- R390
  | .QM_Q_STAT => { win := .blk 1, off := 0x1014, count := 64, stride := 0x40 }  -- R390
  | .SET_CAP => { win := .blk 2, off := 0x0, reset := 0x120, journ := true }  -- R233
  | .SET_VF_LOAD => { win := .blk 2, off := 0x4, acc := { rw := 0xfffffffe }, journ := true }  -- R234
  | .SET_CTX_SEL => { win := .blk 2, off := 0x10, acc := { rw := 0x1f07 }, journ := true }  -- R235
  | .SET_CTX_STAT => { win := .blk 2, off := 0x14, journ := true }  -- R235
  | .SET_CTX_PROG => { win := .blk 2, off := 0x18, journ := true }  -- R235
  | .SET_ACTIVE_ID_LO => { win := .blk 2, off := 0x20, journ := true }  -- R235
  | .SET_ACTIVE_ID_HI => { win := .blk 2, off := 0x24, journ := true }  -- R235
  | .SET_ERR => { win := .blk 2, off := 0x30, acc := { w1c := 0x80000000 }, journ := true }  -- R236
  | .SET_ERR_ENTRY => { win := .blk 2, off := 0x34, journ := true }  -- R236
  | .SET_REMAP_CNT => { win := .blk 2, off := 0x38, journ := true }  -- R237
  | .SET_LOCK => { win := .blk 2, off := 0x3c, acc := { w1s := 1 }, journ := true }  -- R237
  | .SET_MIN_SVN => { win := .blk 2, off := 0x40, count := 8, stride := 4, acc := { rwl := 0xffffffff }, journ := true }  -- R238
  | .NET_CAP => { win := .blk 3, off := 0x0, reset := 0x10000208 }  -- R430
  | .NET_CTRL => { win := .blk 3, off := 0x4, reset := 0x503, acc := { rw := 0x1fff07 }, journ := true, legal := [⟨15, 8, [(1, 255)]⟩] }  -- R430
  | .NET_TC_CFG => { win := .blk 3, off := 0x8, reset := 0x63031a, acc := { rw := 0x73f73f }, journ := true }  -- R430
  | .NET_RC_CFG => { win := .blk 3, off := 0xc, reset := 0xa0032, acc := { rw := 0xffffffff }, journ := true, legal := [⟨31, 16, [(1, 65535)]⟩] }  -- R430
  | .NET_ACK_CFG => { win := .blk 3, off := 0x10, reset := 0xe8, acc := { rw := 0xff }, journ := true }  -- R430
  | .NET_PORT_SEL => { win := .blk 3, off := 0x20, acc := { rw := 0x1f }, journ := true }  -- R431
  | .NET_PORT_CFG => { win := .blk 3, off := 0x24, reset := 0x14, acc := { rw := 0x17 }, journ := true, legal := [⟨1, 0, [(0, 2)]⟩] }  -- R431
  | .NET_PORT_STAT => { win := .blk 3, off := 0x28, acc := { w1c := 0x300 } }  -- R431
  | .NET_PORT_MAC_LO => { win := .blk 3, off := 0x2c, acc := { rw := 0xffffffff }, journ := true }  -- R432
  | .NET_PORT_MAC_HI => { win := .blk 3, off := 0x30, acc := { rw := 0xffff }, journ := true }  -- R432
  | .NET_PORT_IP4 => { win := .blk 3, off := 0x34, acc := { rw := 0xffffffff }, journ := true }  -- R432
  | .NET_PORT_IP6_0 => { win := .blk 3, off := 0x38, acc := { rw := 0xffffffff }, journ := true }  -- R432
  | .NET_PORT_IP6_1 => { win := .blk 3, off := 0x3c, acc := { rw := 0xffffffff }, journ := true }  -- R432
  | .NET_PORT_IP6_2 => { win := .blk 3, off := 0x40, acc := { rw := 0xffffffff }, journ := true }  -- R432
  | .NET_PORT_IP6_3 => { win := .blk 3, off := 0x44, acc := { rw := 0xffffffff }, journ := true }  -- R432
  | .NET_RX_FRAMES => { win := .blk 3, off := 0x50 }  -- R432
  | .NET_TX_FRAMES => { win := .blk 3, off := 0x54 }  -- R432
  | .NET_RX_FCS_ERR => { win := .blk 3, off := 0x58 }  -- R432
  | .NET_ICRC_ERR => { win := .blk 3, off := 0x5c }  -- R432
  | .NET_RX_DROP => { win := .blk 3, off := 0x60 }  -- R432
  | .NET_FEC_CORR => { win := .blk 3, off := 0x64 }  -- R432
  | .NET_PFC_RX => { win := .blk 3, off := 0x68 }  -- R432
  | .NET_PFC_TX => { win := .blk 3, off := 0x6c }  -- R432
  | .NET_CNP_RX => { win := .blk 3, off := 0x70 }  -- R432
  | .NET_CNP_TX => { win := .blk 3, off := 0x74 }  -- R432
  | .NET_JOB_SEL => { win := .blk 3, off := 0x100, acc := { rw := 0x1f07 }, journ := true }  -- R433
  | .NET_JOB_STAT => { win := .blk 3, off := 0x104 }  -- R433
  | .NET_JOB_EPOCH => { win := .blk 3, off := 0x108 }  -- R433
  | .NET_JOB_STEP => { win := .blk 3, off := 0x10c }  -- R433
  | .NET_JOB_PEER_SEL => { win := .blk 3, off := 0x110, acc := { rw := 0x3f }, journ := true }  -- R433
  | .NET_JOB_PEER_STAT => { win := .blk 3, off := 0x114 }  -- R433
  | .NET_JOB_PEER_EPOCH => { win := .blk 3, off := 0x118 }  -- R433
  | .NET_DIGEST_CTRL => { win := .blk 3, off := 0x120, reset := 0x40080, acc := { rw := 0xf03ff }, journ := true, legal := [⟨9, 0, [(1, 1023)]⟩, ⟨19, 16, [(1, 15)]⟩] }  -- R434
  | .NET_ERR_STAT => { win := .blk 3, off := 0x130, acc := { w1c := 0xff } }  -- R434
  | .NET_STALE_DROP_CNT => { win := .blk 3, off := 0x140 }  -- R434
  | .NET_DIGEST_MISM_CNT => { win := .blk 3, off := 0x144 }  -- R434
  | .NET_TOKEN_DIV_CNT => { win := .blk 3, off := 0x148 }  -- R434
  | .NET_COLL_TO_CNT => { win := .blk 3, off := 0x14c }  -- R434
  | .NET_RELAY_REC_CNT => { win := .blk 3, off := 0x150 }  -- R434
  | .NET_KV_FOREIGN_CNT => { win := .blk 3, off := 0x154 }  -- R434
  | .NET_EVT_VEC => { win := .blk 3, off := 0x160, acc := { rw := 0x800007ff }, journ := true }  -- R434
  | .SRV_CAP => { win := .blk 4, off := 0x0, reset := 0x10084000 }  -- R391
  | .SRV_CTRL => { win := .blk 4, off := 0x4, reset := 0xa00, acc := { rw := 0xff03 }, journ := true, legal := [⟨15, 8, [(1, 255)]⟩] }  -- R392
  | .SRV_STAT => { win := .blk 4, off := 0x8, acc := { w1c := 0x1f } }  -- R393
  | .SRV_PFX_CNT => { win := .blk 4, off := 0xc }  -- R394
  | .SRV_FN_SEL => { win := .blk 4, off := 0x10, acc := { rw := 0x1f }, journ := true }  -- R394
  | .SRV_FN_PFX_QUOTA => { win := .blk 4, off := 0x14, reset := 0x4000, acc := { rw := 0x7fff }, journ := true }  -- R394
  | .SRV_REG_SEL => { win := .blk 4, off := 0x20, acc := { rw := 0x31f07 }, journ := true }  -- R395
  | .SRV_REG_STAT => { win := .blk 4, off := 0x24 }  -- R395
  | .SRV_TOKEN_CNT => { win := .blk 4, off := 0x30 }  -- R396
  | .SRV_DRAFT_PROP_CNT => { win := .blk 4, off := 0x34 }  -- R396
  | .SRV_DRAFT_ACC_CNT => { win := .blk 4, off := 0x38 }  -- R396
  | .SRV_RETRACT_CNT => { win := .blk 4, off := 0x3c }  -- R396
  | .SRV_SPEC_OFF_CNT => { win := .blk 4, off := 0x40 }  -- R396
  | .KVM_CAP => { win := .blk 5, off := 0x0, reset := 0x10001000 }  -- R340
  | .KVM_CAP2 => { win := .blk 5, off := 0x4, reset := 0x1001040 }  -- R340
  | .KVM_CTRL => { win := .blk 5, off := 0x8, reset := 0x10080401, acc := { rw := 0x7f7f0f01 }, journ := true, legal := [⟨11, 8, [(1, 15)]⟩] }  -- R341
  | .KVM_POOL_SEL => { win := .blk 5, off := 0x10, acc := { rw := 0x73f } }  -- R342
  | .KVM_POOL_STAT => { win := .blk 5, off := 0x14 }  -- R342
  | .KVM_POOL_TOTAL => { win := .blk 5, off := 0x18 }  -- R342
  | .KVM_POOL_FREE => { win := .blk 5, off := 0x1c }  -- R342
  | .KVM_SEQ_SEL => { win := .blk 5, off := 0x20, acc := { rw := 0xfff } }  -- R343
  | .KVM_SEQ_STAT => { win := .blk 5, off := 0x24 }  -- R343
  | .KVM_SEQ_LEN => { win := .blk 5, off := 0x28 }  -- R343
  | .KVM_SEQ_PAGES => { win := .blk 5, off := 0x2c }  -- R343
  | .KVM_FLUSH_CNT => { win := .blk 5, off := 0x40 }  -- R344
  | .KVM_COW_CNT => { win := .blk 5, off := 0x44 }  -- R344
  | .KVM_SPILL_CNT => { win := .blk 5, off := 0x48 }  -- R344
  | .KVM_DIRECT_CNT => { win := .blk 5, off := 0x4c }  -- R344
  | .KVM_PF_CNT => { win := .blk 5, off := 0x50 }  -- R344
  | .KVM_PF_UNUSED_CNT => { win := .blk 5, off := 0x54 }  -- R344
  | .KVM_HBM_SCORE_CNT => { win := .blk 5, off := 0x58 }  -- R344
  | .KVM_DRAFT_DISC_CNT => { win := .blk 5, off := 0x5c }  -- R344
  | .KVM_ERR_STAT => { win := .blk 5, off := 0x60, acc := { w1c := 0x1f } }  -- R345
  | .KVM_LAST_ERR => { win := .blk 5, off := 0x64 }  -- R345
  | .KVM_CONV_STAT => { win := .blk 5, off := 0xf00, acc := { w1c := 0xf } }  -- R77
  | .KVM_CONV_CNT => { win := .blk 5, off := 0xf04 }  -- R78
  | .RST_CTRL => { win := .blk 6, off := 0x0, reset := 0x64320114, acc := { rwl := 0xffff01ff, w1s := 0x8000 }, journ := true, legal := [⟨7, 0, [(1, 255)]⟩, ⟨23, 16, [(45, 255)]⟩, ⟨31, 24, [(80, 255)]⟩] }  -- R492
  | .RST_SPLIT => { win := .blk 6, off := 0x4, reset := 0x11, acc := { rw := 0xf0 }, journ := true, legal := [⟨7, 4, [(1, 2), (4, 4), (8, 8)]⟩] }  -- R493
  | .RST_FENCE_HOST => { win := .blk 6, off := 0x8, acc := { rwm := 0xff }, journ := true }  -- R493
  | .RST_REQ => { win := .blk 6, off := 0x10, acc := { rw := 0x77, w1s := 8 }, journ := true, legal := [⟨2, 0, [(1, 4)]⟩] }  -- R494
  | .RST_REQ_LOC => { win := .blk 6, off := 0x14, acc := { rw := 0x3ffff }, legal := [⟨3, 0, [(0, 9), (12, 13)]⟩] }  -- R494
  | .RST_STAT => { win := .blk 6, off := 0x20, acc := { w1c := 0x1ff } }  -- R495
  | .RST_LAST => { win := .blk 6, off := 0x24 }  -- R495
  | .RST_WARM_CAUSE => { win := .blk 6, off := 0x28 }  -- R495
  | .RST_UNIT_SEL => { win := .blk 6, off := 0x30, acc := { rw := 0x3ffff }, legal := [⟨3, 0, [(0, 13)]⟩] }  -- R496
  | .RST_UNIT_STAT => { win := .blk 6, off := 0x34 }  -- R496
  | .RST_ENG_CNT => { win := .blk 6, off := 0x40 }  -- R498
  | .RST_PT_CNT => { win := .blk 6, off := 0x44 }  -- R498
  | .RST_WARM_CNT => { win := .blk 6, off := 0x48 }  -- R498
  | .RST_LATE_DROP_CNT => { win := .blk 6, off := 0x4c }  -- R498
  | .RST_XRESET_CNT => { win := .blk 6, off := 0x50 }  -- R498
  | .RST_DISPUTE_CNT => { win := .blk 6, off := 0x54 }  -- R498
  | .RST_HANG_CNT => { win := .blk 6, off := 0x58 }  -- R498
  | .RST_PT_STAT => { win := .blk 6, off := 0x80, count := 8, stride := 4 }  -- R497
  | .CHK_CTRL => { win := .blk 7, off := 0x0, reset := 0x60300f, acc := { rw := 0xffff0f }, journ := true, legal := [⟨15, 8, [(1, 255)]⟩] }  -- R522
  | .CHK_SCHED => { win := .blk 7, off := 0x4, reset := 0x3400258, acc := { rw := 0xfffffff }, journ := true, legal := [⟨15, 0, [(1, 65535)]⟩, ⟨23, 16, [(1, 255)]⟩, ⟨27, 24, [(1, 15)]⟩] }  -- R523
  | .CHK_RATE => { win := .blk 7, off := 0x8, reset := 0x3c0064, acc := { rw := 0xffff00ff }, journ := true, legal := [⟨7, 0, [(0, 200)]⟩] }  -- R523
  | .CHK_STAT => { win := .blk 7, off := 0x10, acc := { w1c := 0xff } }  -- R524
  | .CHK_FIND_INFO => { win := .blk 7, off := 0x14, acc := { w1c := 0x80000000 } }  -- R525
  | .CHK_FIND_RESID => { win := .blk 7, off := 0x18 }  -- R525
  | .CHK_FIND_TCLEAN_LO => { win := .blk 7, off := 0x1c }  -- R525
  | .CHK_FIND_TCLEAN_HI => { win := .blk 7, off := 0x20 }  -- R525
  | .CHK_SAMPLE_CNT => { win := .blk 7, off := 0x40 }  -- R526
  | .CHK_SKIP_CNT => { win := .blk 7, off := 0x44 }  -- R526
  | .CHK_OUTLIER_CNT => { win := .blk 7, off := 0x48 }  -- R526
  | .CHK_CHAIN_CNT => { win := .blk 7, off := 0x4c }  -- R526
  | .CHK_RO_CNT => { win := .blk 7, off := 0x50 }  -- R526
  | .CHK_RO_ABANDON_CNT => { win := .blk 7, off := 0x54 }  -- R526
  | .CHK_FIND_CNT => { win := .blk 7, off := 0x58 }  -- R526
  | .CHK_SCAN_CTRL => { win := .blk 7, off := 0x60, reset := 0xff00, acc := { w1s := 1, rw := 0xff00 }, journ := true }  -- R527
  | .CHK_SCAN_STAT => { win := .blk 7, off := 0x64 }  -- R527
  | .CHK_EVT_VEC => { win := .blk 7, off := 0x70, acc := { rw := 0x800007ff }, journ := true }  -- R527
  | .CAL_CTRL => { win := .blk 8, off := 0x0, reset := 0xa0803, acc := { rw := 0x7f3f07 }, journ := true, legal := [⟨13, 8, [(2, 32)]⟩, ⟨22, 16, [(1, 100)]⟩] }  -- R190
  | .CAL_SCHED => { win := .blk 8, off := 0x4, reset := 0x201000a, acc := { rw := 0x3f3ffff }, journ := true, legal := [⟨15, 0, [(1, 65535)]⟩, ⟨17, 16, [(1, 3)]⟩, ⟨25, 20, [(1, 32)]⟩] }  -- R191
  | .CAL_PROG => { win := .blk 8, off := 0x8, reset := 0x5a00c0, acc := { rw := 0x3ff01ff }, journ := true, legal := [⟨8, 0, [(1, 256)]⟩, ⟨25, 16, [(1, 1023)]⟩] }  -- R192
  | .CAL_WEAR_WARN => { win := .blk 8, off := 0xc, reset := 0x15f90, acc := { rw := 0x1ffff }, journ := true, legal := [⟨16, 0, [(0, 100000)]⟩] }  -- R193
  | .CAL_STAT => { win := .blk 8, off := 0x10, acc := { w1c := 0xff0000 } }  -- R194
  | .CAL_UTC => { win := .blk 8, off := 0x14, acc := { rw := 0xffffffff }, journ := true }  -- R195
  | .CAL_BAY_SEL => { win := .blk 8, off := 0x20, acc := { rw := 0x3f }, legal := [⟨5, 0, [(0, 47)]⟩] }  -- R196
  | .CAL_BAY_STAT => { win := .blk 8, off := 0x24 }  -- R196
  | .CAL_BAY_AGE => { win := .blk 8, off := 0x28, reset := 0xffffffff }  -- R196
  | .CAL_BAY_CNT => { win := .blk 8, off := 0x2c }  -- R196
  | .CAL_WEAR_SEL => { win := .blk 8, off := 0x30, acc := { rw := 0xffff }, legal := [⟨13, 0, [(0, 12287)]⟩] }  -- R197
  | .CAL_WEAR_DATA => { win := .blk 8, off := 0x34 }  -- R197
  | .CAL_WEAR_TIME => { win := .blk 8, off := 0x38 }  -- R197
  | .GLZ_CAP => { win := .blk 9, off := 0x0, reset := 0xc408020 }  -- R147
  | .GLZ_CTRL => { win := .blk 9, off := 0x4, acc := { rwb := 3, rw := 0xf000000 }, journ := true }  -- R148
  | .GLZ_CONV_STAT => { win := .blk 9, off := 0xf00, acc := { w1c := 0xf } }  -- R75
  | .GLZ_CONV_CNT => { win := .blk 9, off := 0xf04 }  -- R76
  | .SIL_CAP => { win := .blk 10, off := 0x0, reset := 0x401000 }  -- R557
  | .SIL_STAT => { win := .blk 10, off := 0x4 }  -- R557
  | .SIL_FW_VER => { win := .blk 10, off := 0x8 }  -- R558
  | .SIL_FW_SVN => { win := .blk 10, off := 0xc }  -- R558
  | .SIL_LOG_SEQ => { win := .blk 10, off := 0x10 }  -- R559
  | .SIL_LOG_LOST => { win := .blk 10, off := 0x14 }  -- R559
  | .SIL_RESTART => { win := .blk 10, off := 0x18 }  -- R559
  | .SIL_MBX_CTRL => { win := .blk 10, off := 0x20, acc := { w1s := 1 } }  -- R560
  | .SIL_MBX_STAT => { win := .blk 10, off := 0x24, acc := { w1c := 2 } }  -- R560
  | .SIL_EVT_VEC => { win := .blk 10, off := 0x28, acc := { rw := 0x800007ff }, journ := true }  -- R560
  | .SIL_CTRL => { win := .blk 10, off := 0x2c, reset := 3, acc := { rwl := 3, w1s := 0x80000000 }, journ := true }  -- R560
  | .SIL_MBX_REQ => { win := .blk 10, off := 0x1000, count := 64, stride := 4, acc := { rw := 0xffffffff } }  -- R561
  | .SIL_MBX_RSP => { win := .blk 10, off := 0x1100, count := 64, stride := 4 }  -- R561
  | .CLK_STAT => { win := .blk 11, off := 0x0 }  -- R588
  | .CLK_CTRL => { win := .blk 11, off := 0x4, reset := 0x190, acc := { rwl := 0x3ff, w1s := 0x80000000 }, journ := true, legal := [⟨9, 0, [(50, 1000)]⟩] }  -- R588
  | .CLK_GATE => { win := .blk 11, off := 0x8, reset := 0x1f, acc := { rwm := 0x1f }, journ := true }  -- R588
  | .CLK_EVT => { win := .blk 11, off := 0xc, acc := { w1c := 0x7f } }  -- R588
  | .CLK_MEAS_SEL => { win := .blk 11, off := 0x10, acc := { rw := 7 }, legal := [⟨2, 0, [(0, 4)]⟩] }  -- R588
  | .CLK_MEAS => { win := .blk 11, off := 0x14 }  -- R588
  | .PWR_BUDGET => { win := .blk 12, off := 0x0, reset := 0xc801c2, acc := { rw := 0x3ff03ff }, journ := true, legal := [⟨9, 0, [(150, 450)]⟩, ⟨25, 16, [(20, 200)]⟩] }  -- R589
  | .PWR_CTRL => { win := .blk 12, off := 0x4, reset := 0x612c, acc := { rw := 0xf3ff }, journ := true, legal := [⟨9, 0, [(150, 450)]⟩, ⟨15, 12, [(0, 12)]⟩] }  -- R589
  | .PWR_NOW => { win := .blk 12, off := 0x8 }  -- R590
  | .PWR_DIE_SEL => { win := .blk 12, off := 0x10, acc := { rw := 7 } }  -- R590
  | .PWR_DIE_STAT => { win := .blk 12, off := 0x14, reset := 0x5d06 }  -- R590
  | .PWR_PD_STAT0 => { win := .blk 12, off := 0x20 }  -- R591
  | .PWR_PD_STAT1 => { win := .blk 12, off := 0x24 }  -- R591
  | .PWR_PT_REQ => { win := .blk 12, off := 0x28, acc := { rwm := 0xff }, journ := true }  -- R591
  | .PWR_EVT => { win := .blk 12, off := 0x2c, acc := { w1c := 0xf } }  -- R591
  | .PWR_GOV_CNT => { win := .blk 12, off := 0x30 }  -- R591
  | .THM_CTRL => { win := .blk 13, off := 0x0, reset := 0xa50280f, acc := { rw := 0xffffffff }, journ := true, legal := [⟨7, 0, [(1, 255)]⟩, ⟨31, 24, [(1, 255)]⟩] }  -- R592
  | .THM_CTRL2 => { win := .blk 13, off := 0x4, reset := 0x640a, acc := { rw := 0xffff }, journ := true, legal := [⟨7, 0, [(1, 255)]⟩, ⟨15, 8, [(60, 110)]⟩] }  -- R592
  | .THM_SEL => { win := .blk 13, off := 0x10, acc := { rw := 0xff }, legal := [⟨7, 0, [(0, 235)]⟩] }  -- R593
  | .THM_READ => { win := .blk 13, off := 0x14 }  -- R593
  | .THM_BAY_SEL => { win := .blk 13, off := 0x18, acc := { rw := 0x3f }, legal := [⟨5, 0, [(0, 47)]⟩] }  -- R593
  | .THM_BAY_STAT => { win := .blk 13, off := 0x1c }  -- R593
  | .THM_MAX => { win := .blk 13, off := 0x20 }  -- R594
  | .THM_STAT => { win := .blk 13, off := 0x24, acc := { w1c := 0x3f } }  -- R594
  | .THM_BRD => { win := .blk 13, off := 0x40, count := 4, stride := 4, reset := 0x640, acc := { rw := 0xff7 }, journ := true, legal := [⟨1, 0, [(0, 2)]⟩] }  -- R595
  | .THM_EVT_VEC => { win := .blk 13, off := 0x50, acc := { rw := 0x800007ff }, journ := true }  -- R595
  | .MADC_CAP => { win := .blk 14, off := 0x0, reset := 0x3e80c20 }  -- R608
  | .MADC_CTRL => { win := .blk 14, off := 0x4, reset := 0x1043c, acc := { rw := 0x10fff }, journ := true, legal := [⟨7, 0, [(1, 255)]⟩, ⟨11, 8, [(1, 15)]⟩] }  -- R608
  | .MADC_CHSEL => { win := .blk 14, off := 0x8, acc := { rw := 0x71f }, legal := [⟨10, 9, [(0, 2)]⟩] }  -- R609
  | .MADC_OW_MASK => { win := .blk 14, off := 0xc, reset := 0xf000000, acc := { rw := 0xffffffff }, journ := true }  -- R609
  | .MADC_STAT => { win := .blk 14, off := 0x10, acc := { w1c := 0x3f0000 } }  -- R610
  | .MADC_LAST => { win := .blk 14, off := 0x14 }  -- R611
  | .MADC_ABORT_CNT => { win := .blk 14, off := 0x18 }  -- R611
  | .MADC_CONV_CNT => { win := .blk 14, off := 0x1c }  -- R611
  | .MADC_BRD_PAR => { win := .blk 14, off := 0x20, count := 4, stride := 4, reset := 0x3db86408, acc := { rw := 0x7fffffff }, journ := true, legal := [⟨17, 8, [(1, 1023)]⟩, ⟨30, 18, [(1, 8191)]⟩] }  -- R612
  | .MADC_DATA => { win := .blk 14, off := 0x100, count := 32, stride := 4 }  -- R613
  | .DBG_STAT => { win := .blk 15, off := 0x0, acc := { w1c := 0x18800 } }  -- R632
  | .DBG_CTRL => { win := .blk 15, off := 0x4, reset := 0x100, acc := { w1s := 0xf, rw := 0xff00 }, journ := true, legal := [⟨15, 8, [(1, 255)]⟩] }  -- R632
  | .DBG_HALT_MASK_LO => { win := .blk 15, off := 0x8, acc := { rw := 0xffffffff }, journ := true }  -- R633
  | .DBG_HALT_MASK_HI => { win := .blk 15, off := 0xc, acc := { rw := 0xffffffff }, journ := true }  -- R633
  | .DBG_HALTED_LO => { win := .blk 15, off := 0x10 }  -- R633
  | .DBG_HALTED_HI => { win := .blk 15, off := 0x14 }  -- R633
  | .DBG_UNLOCK_CNT => { win := .blk 15, off := 0x18 }  -- R633
  | .DBG_BP_SEL => { win := .blk 15, off := 0x20, acc := { rw := 7 }, journ := true }  -- R633
  | .DBG_BP_CFG => { win := .blk 15, off := 0x24, acc := { rw := 0x3f }, journ := true, legal := [⟨2, 0, [(0, 6)]⟩, ⟨4, 3, [(0, 2)]⟩] }  -- R633
  | .DBG_BP_VAL_LO => { win := .blk 15, off := 0x28, acc := { rw := 0xffffffff }, journ := true }  -- R633
  | .DBG_BP_VAL_HI => { win := .blk 15, off := 0x2c, acc := { rw := 0xffffffff }, journ := true }  -- R633
  | .DBG_BP_MASK_LO => { win := .blk 15, off := 0x30, acc := { rw := 0xffffffff }, journ := true }  -- R633
  | .DBG_BP_MASK_HI => { win := .blk 15, off := 0x34, acc := { rw := 0xffffffff }, journ := true }  -- R633
  | .DBG_BP_HITS => { win := .blk 15, off := 0x38 }  -- R633
  | .DBG_SIL_CTRL => { win := .blk 15, off := 0x40, acc := { w1s := 0xf }, journ := true }  -- R634
  | .DBG_SIL_BP => { win := .blk 15, off := 0x50, count := 4, stride := 4, acc := { rw := 0xffffffff }, journ := true }  -- R634
  | .CL_CFG => { win := .cluster, off := 0x0, acc := { rw := 0xf } }  -- R473
  | .VEC_CAP => { win := .cluster, off := 0x1000, reset := 0x401000 }  -- R272
  | .VEC_CAP2 => { win := .cluster, off := 0x1004, reset := 0x80004000 }  -- R272
  | .VEC_CTRL => { win := .cluster, off := 0x1008, acc := { rwb := 1 }, journ := true }  -- R273
  | .VEC_STAT => { win := .cluster, off := 0x100c, acc := { w1c := 0x1f } }  -- R274
  | .VEC_OCC => { win := .cluster, off := 0x1010 }  -- R274
  | .VEC_BEAT_CNT_LO => { win := .cluster, off := 0x1018 }  -- R275
  | .VEC_BEAT_CNT_HI => { win := .cluster, off := 0x101c }  -- R275
  | .VEC_CTX_SEL => { win := .cluster, off := 0x1020, acc := { rw := 0xfff } }  -- R276
  | .VEC_CTX_STAT => { win := .cluster, off := 0x1024, acc := { w1c := 0x3c0000 } }  -- R276
  | .VEC_CTX_SLOTS => { win := .cluster, off := 0x1028 }  -- R276
  | .VEC_LAST_FAULT => { win := .cluster, off := 0x1030 }  -- R277
  | .VEC_LAST_FAULT_PC => { win := .cluster, off := 0x1034 }  -- R277
  | .ACC_STAT => { win := .cluster, off := 0x2000, acc := { w1c := 0x3f } }  -- R149
  | .ACC_LAST_ERR => { win := .cluster, off := 0x2004 }  -- R150
  | .ACC_WAIT_CNT => { win := .cluster, off := 0x2008 }  -- R151
  | .SPM_STAT => { win := .cluster, off := 0x4000, acc := { w1c := 3 } }  -- R308
  | .SPM_CNT => { win := .cluster, off := 0x4004 }  -- R308
  | .SPM_WAIT_CNT => { win := .cluster, off := 0x4008 }  -- R308
  | .GLZ_SL_CFG => { win := .cluster, off := 0x3000, reset := 0x20, acc := { rwb := 0x3f }, journ := true, legal := [⟨5, 0, [(0, 32)]⟩] }  -- R152
  | .GLZ_SL_STAT => { win := .cluster, off := 0x3004, acc := { w1c := 0x300 } }  -- R153
  | .GLZ_SL_MAC_CNT_LO => { win := .cluster, off := 0x3008 }  -- R154
  | .GLZ_SL_MAC_CNT_HI => { win := .cluster, off := 0x300c }  -- R154
  | .GLZ_SL_SEL_CNT => { win := .cluster, off := 0x3010 }  -- R154
  | .TILE_CFG => { win := .tile, off := 0x0, acc := { w1s := 0x80000000 } }  -- R109
  | .TILE_LSEL => { win := .tile, off := 0x4, reset := 0x40, acc := { rw := 3 } }  -- R110
  | .TILE_STAT => { win := .tile, off := 0x8, acc := { w1c := 0xf0 } }  -- R111
  | .TILE_PASS_CNT_LO => { win := .tile, off := 0x10 }  -- R112
  | .TILE_PASS_CNT_HI => { win := .tile, off := 0x14 }  -- R112
  | .TILE_TPASS_CNT => { win := .tile, off := 0x18 }  -- R113
  | .TILE_SAT_CNT => { win := .tile, off := 0x1c }  -- R113
  | .TILE_SAT_LAST => { win := .tile, off := 0x20 }  -- R114
  | .TILE_TRIM => { win := .tile, off := 0x30, reset := 0x20, acc := { rwl := 0xf3f } }  -- R115
  | .TILE_LCFG => { win := .tile, off := 0x40, acc := { rwb := 0x7700 }, journ := true }  -- R116
  | .TILE_SAT => { win := .tile, off := 0x200, count := 32, stride := 4, acc := { w1c := 0xffffffff } }  -- R117
  | .VF_INFO => { win := .vf, off := 0xf000 }  -- R474
  | .VF_IDENT => { win := .vf, off := 0xf004 }  -- R474
  | .VF_EVT => { win := .vf, off := 0xf008, reset := 1, acc := { w1c := 1 } }  -- R474

/-- Part 0 of the list of all registers. -/
def regList0 : List Reg := [.HUB_IDENT, .HUB_CAP, .HUB_CAP1, .HUB_UPD_STROBE, .HUB_UPD_STAT, .HUB_UPD_CNT, .HUB_LOCK,
  .HUB_HOST_CFG, .HUB_ERR_STAT, .HUB_ERR_INFO, .HUB_ERR_ADDR_LO, .HUB_ERR_ADDR_HI, .HUB_ERR_CNT, .HUB_IRQ_EN,
  .HUB_IRQ_VEC, .HUB_BAR4_BASE_LO, .HUB_BAR4_BASE_HI, .HUB_BAR4_STAT, .HUB_VF_BIND, .HUB_VF_EVT, .HUB_TIME_LO,
  .HUB_TIME_HI, .HUB_BOOT_STAT, .HUB_BRD_IN, .HUB_BRD_EVT, .HUB_GPIO_CTRL, .HUB_BRD_VEC, .HUB_MEM_CAP0, .HUB_MEM_CAP1,
  .HUB_MEM_CAP2, .HUB_SCRUB_CTRL, .HUB_MEM_ERR_STAT, .HUB_MEM_CE_CNT, .HUB_MEM_UE_CNT, .HUB_MEM_POISON_LO,
  .HUB_MEM_POISON_HI, .HUB_HBM_CH_SEL, .HUB_HBM_CH_STAT, .HUB_SHADOW_STAT, .QM_CAP]

/-- Part 1 of the list of all registers. -/
def regList1 : List Reg := [.QM_CTRL, .QM_STAT, .QM_HANDLES, .QM_FN_SEL, .QM_FN_QUOTA, .QM_SQ_BASE_LO, .QM_SQ_BASE_HI,
  .QM_RQ_BASE_LO, .QM_RQ_BASE_HI, .QM_Q_CFG, .QM_Q_STAT, .SET_CAP, .SET_VF_LOAD, .SET_CTX_SEL, .SET_CTX_STAT,
  .SET_CTX_PROG, .SET_ACTIVE_ID_LO, .SET_ACTIVE_ID_HI, .SET_ERR, .SET_ERR_ENTRY, .SET_REMAP_CNT, .SET_LOCK,
  .SET_MIN_SVN, .NET_CAP, .NET_CTRL, .NET_TC_CFG, .NET_RC_CFG, .NET_ACK_CFG, .NET_PORT_SEL, .NET_PORT_CFG,
  .NET_PORT_STAT, .NET_PORT_MAC_LO, .NET_PORT_MAC_HI, .NET_PORT_IP4, .NET_PORT_IP6_0, .NET_PORT_IP6_1,
  .NET_PORT_IP6_2, .NET_PORT_IP6_3, .NET_RX_FRAMES, .NET_TX_FRAMES]

/-- Part 2 of the list of all registers. -/
def regList2 : List Reg := [.NET_RX_FCS_ERR, .NET_ICRC_ERR, .NET_RX_DROP, .NET_FEC_CORR, .NET_PFC_RX, .NET_PFC_TX,
  .NET_CNP_RX, .NET_CNP_TX, .NET_JOB_SEL, .NET_JOB_STAT, .NET_JOB_EPOCH, .NET_JOB_STEP, .NET_JOB_PEER_SEL,
  .NET_JOB_PEER_STAT, .NET_JOB_PEER_EPOCH, .NET_DIGEST_CTRL, .NET_ERR_STAT, .NET_STALE_DROP_CNT, .NET_DIGEST_MISM_CNT,
  .NET_TOKEN_DIV_CNT, .NET_COLL_TO_CNT, .NET_RELAY_REC_CNT, .NET_KV_FOREIGN_CNT, .NET_EVT_VEC, .SRV_CAP, .SRV_CTRL,
  .SRV_STAT, .SRV_PFX_CNT, .SRV_FN_SEL, .SRV_FN_PFX_QUOTA, .SRV_REG_SEL, .SRV_REG_STAT, .SRV_TOKEN_CNT,
  .SRV_DRAFT_PROP_CNT, .SRV_DRAFT_ACC_CNT, .SRV_RETRACT_CNT, .SRV_SPEC_OFF_CNT, .KVM_CAP, .KVM_CAP2, .KVM_CTRL]

/-- Part 3 of the list of all registers. -/
def regList3 : List Reg := [.KVM_POOL_SEL, .KVM_POOL_STAT, .KVM_POOL_TOTAL, .KVM_POOL_FREE, .KVM_SEQ_SEL,
  .KVM_SEQ_STAT, .KVM_SEQ_LEN, .KVM_SEQ_PAGES, .KVM_FLUSH_CNT, .KVM_COW_CNT, .KVM_SPILL_CNT, .KVM_DIRECT_CNT,
  .KVM_PF_CNT, .KVM_PF_UNUSED_CNT, .KVM_HBM_SCORE_CNT, .KVM_DRAFT_DISC_CNT, .KVM_ERR_STAT, .KVM_LAST_ERR,
  .KVM_CONV_STAT, .KVM_CONV_CNT, .RST_CTRL, .RST_SPLIT, .RST_FENCE_HOST, .RST_REQ, .RST_REQ_LOC, .RST_STAT, .RST_LAST,
  .RST_WARM_CAUSE, .RST_UNIT_SEL, .RST_UNIT_STAT, .RST_ENG_CNT, .RST_PT_CNT, .RST_WARM_CNT, .RST_LATE_DROP_CNT,
  .RST_XRESET_CNT, .RST_DISPUTE_CNT, .RST_HANG_CNT, .RST_PT_STAT, .CHK_CTRL, .CHK_SCHED]

/-- Part 4 of the list of all registers. -/
def regList4 : List Reg := [.CHK_RATE, .CHK_STAT, .CHK_FIND_INFO, .CHK_FIND_RESID, .CHK_FIND_TCLEAN_LO,
  .CHK_FIND_TCLEAN_HI, .CHK_SAMPLE_CNT, .CHK_SKIP_CNT, .CHK_OUTLIER_CNT, .CHK_CHAIN_CNT, .CHK_RO_CNT,
  .CHK_RO_ABANDON_CNT, .CHK_FIND_CNT, .CHK_SCAN_CTRL, .CHK_SCAN_STAT, .CHK_EVT_VEC, .CAL_CTRL, .CAL_SCHED, .CAL_PROG,
  .CAL_WEAR_WARN, .CAL_STAT, .CAL_UTC, .CAL_BAY_SEL, .CAL_BAY_STAT, .CAL_BAY_AGE, .CAL_BAY_CNT, .CAL_WEAR_SEL,
  .CAL_WEAR_DATA, .CAL_WEAR_TIME, .GLZ_CAP, .GLZ_CTRL, .GLZ_CONV_STAT, .GLZ_CONV_CNT, .SIL_CAP, .SIL_STAT,
  .SIL_FW_VER, .SIL_FW_SVN, .SIL_LOG_SEQ, .SIL_LOG_LOST, .SIL_RESTART]

/-- Part 5 of the list of all registers. -/
def regList5 : List Reg := [.SIL_MBX_CTRL, .SIL_MBX_STAT, .SIL_EVT_VEC, .SIL_CTRL, .SIL_MBX_REQ, .SIL_MBX_RSP,
  .CLK_STAT, .CLK_CTRL, .CLK_GATE, .CLK_EVT, .CLK_MEAS_SEL, .CLK_MEAS, .PWR_BUDGET, .PWR_CTRL, .PWR_NOW, .PWR_DIE_SEL,
  .PWR_DIE_STAT, .PWR_PD_STAT0, .PWR_PD_STAT1, .PWR_PT_REQ, .PWR_EVT, .PWR_GOV_CNT, .THM_CTRL, .THM_CTRL2, .THM_SEL,
  .THM_READ, .THM_BAY_SEL, .THM_BAY_STAT, .THM_MAX, .THM_STAT, .THM_BRD, .THM_EVT_VEC, .MADC_CAP, .MADC_CTRL,
  .MADC_CHSEL, .MADC_OW_MASK, .MADC_STAT, .MADC_LAST, .MADC_ABORT_CNT, .MADC_CONV_CNT]

/-- Part 6 of the list of all registers. -/
def regList6 : List Reg := [.MADC_BRD_PAR, .MADC_DATA, .DBG_STAT, .DBG_CTRL, .DBG_HALT_MASK_LO, .DBG_HALT_MASK_HI,
  .DBG_HALTED_LO, .DBG_HALTED_HI, .DBG_UNLOCK_CNT, .DBG_BP_SEL, .DBG_BP_CFG, .DBG_BP_VAL_LO, .DBG_BP_VAL_HI,
  .DBG_BP_MASK_LO, .DBG_BP_MASK_HI, .DBG_BP_HITS, .DBG_SIL_CTRL, .DBG_SIL_BP, .CL_CFG, .VEC_CAP, .VEC_CAP2, .VEC_CTRL,
  .VEC_STAT, .VEC_OCC, .VEC_BEAT_CNT_LO, .VEC_BEAT_CNT_HI, .VEC_CTX_SEL, .VEC_CTX_STAT, .VEC_CTX_SLOTS,
  .VEC_LAST_FAULT, .VEC_LAST_FAULT_PC, .ACC_STAT, .ACC_LAST_ERR, .ACC_WAIT_CNT, .SPM_STAT, .SPM_CNT, .SPM_WAIT_CNT,
  .GLZ_SL_CFG, .GLZ_SL_STAT, .GLZ_SL_MAC_CNT_LO]

/-- Part 7 of the list of all registers. -/
def regList7 : List Reg := [.GLZ_SL_MAC_CNT_HI, .GLZ_SL_SEL_CNT, .TILE_CFG, .TILE_LSEL, .TILE_STAT, .TILE_PASS_CNT_LO,
  .TILE_PASS_CNT_HI, .TILE_TPASS_CNT, .TILE_SAT_CNT, .TILE_SAT_LAST, .TILE_TRIM, .TILE_LCFG, .TILE_SAT, .VF_INFO,
  .VF_IDENT, .VF_EVT]

/-- Every register. -/
def allRegs : List Reg := regList0 ++ regList1 ++ regList2 ++ regList3 ++ regList4 ++ regList5 ++ regList6 ++ regList7

end Sys2Proof.Machine
end

