-- ==== Sys2Proof/Machine/State.lean ====
section
/-! DEFINITION. The state of the machine: every piece of state the spec gives the block, as plain data, its value at
reset, and the two closed types of reasons for which a command can stop. -/

namespace Sys2Proof.Machine

/-! ### Identity, log, messages -/

/-- What the fuses and the straps of the unit say (R2, R3, R5, R6, R643). Fixed for the life of the package (R7).
DESIGN CHOICE (log entry 3). -/
structure Fuses where
  /-- true for a UDZ-4808, false for a UDZ-3606 (R5, PART). -/
  part4808 : Bool := true
  /-- true for the -L variant (R6, R7). -/
  locked   : Bool := false
  /-- silicon stepping (R5, STEP). -/
  step     : Nat := 1
  /-- bit d: compute die Dd is enabled (R3). -/
  dieMask  : Nat := 0xFF
  /-- SMB_ADDR2..0 (R643). -/
  smbAddr  : Nat := 0
  /-- The 64-bit Device Serial Number (R435). -/
  serial   : Nat := 0
  /-- The hash of the Spyhole unlock key in OTP (R541, R618). -/
  spyKey   : Nat := 0
  /-- The hashes of the two Colavarum firmware keys, and the identity seed, in OTP (R541). -/
  fwKeys   : List Nat := [0, 0]
  idSeed   : Nat := 0
  /-- The MAC addresses of the logical ports, from Colavarum's allocation (R432). -/
  macs     : List Nat := []
  deriving DecidableEq, Repr

/-- One kiln log entry (R535). The bytes of DATA are kept as the list of items that R536 names, in its order. -/
structure LogEntry where
  time     : Nat := 0
  seq      : Nat := 0
  sev      : Nat := 0
  cls      : Nat := 0
  code     : Nat := 0
  source   : Nat := 3
  func     : Nat := 0xFF
  queue    : Nat := 0xFF
  pt       : Nat := 0xFF
  handle   : Nat := 0
  kind     : Nat := 0xF
  index    : Nat := 0
  layer    : Nat := 0
  colRow   : Nat := 0
  object   : Nat := 0
  addr     : Nat := 0
  rep      : Nat := 1
  data     : List Nat := []
  deriving DecidableEq, Repr

/-- The status of a read completion (R455): successful, unsupported request, completer abort, or successful with EP. -/
inductive Cpl where
  | sc | ur | ca | scEp
  deriving DecidableEq, Repr

/-- What a frame of a queue pair carries below its transport (R399, R401, R403, R406): logical port, destination MAC address, VLAN tag,
source and destination IP addresses, UDP source port, DSCP, ECN, priority, destination queue pair. -/
structure NetHdr where
  port  : Nat := 0
  mac   : Nat := 0
  vlan  : Nat := 0
  srcIp : Nat := 0
  dstIp : Nat := 0
  udp   : Nat := 0
  dscp  : Nat := 0
  ecn   : Nat := 0
  prio  : Nat := 0
  dstQp : Nat := 0
  psn   : Nat := 0
  deriving DecidableEq, Repr

/-- What the block sends out: completions, messages, frames and the answers its units give to one another. -/
inductive Msg where
  /-- A completion of a read by a source (R446, R455). -/
  | cpl (src : Src) (st : Cpl) (data : List Nat)
  /-- An MSI-X message (R443). -/
  | msix (fn vec : Nat)
  /-- An error report through AER (R455, R459). -/
  | aer (fn bit severity : Nat)
  /-- A posted write to host memory (R350, R371). -/
  | hostWrite (fn addr : Nat) (bytes : List Nat)
  /-- A read of host memory that the device issues (R348, R372). -/
  | hostRead (fn addr len : Nat)
  /-- The answer of a unit of R475 to a request: a status of R355, with details. -/
  | answer (kind index status : Nat) (data : List Nat)
  /-- A transfer inside the fabric: the receiving unit's kind and index, a tag and the values carried. -/
  | fabric (kind index tag : Nat) (data : List Nat)
  /-- A frame on the regulator control bus (R640). -/
  | vrFrame (bits : Nat)
  /-- A message to a network peer: logical port or queue pair, type of R411, fields, and the headers of its packets. -/
  | net (qp ty : Nat) (data : List Nat) (hdr : NetHdr)
  /-- An IEEE 1588 message on a logical port: messageType, sequenceId, the time it carries (R404). -/
  | ptp (port ty seq time : Nat)
  /-- A DOE data object or SPDM response (R463). -/
  | doe (code : Nat) (data : List Nat)
  /-- A management-bus answer or event (R553): message type, code, fields. -/
  | mgmt (ty code : Nat) (data : List Nat)
  /-- Kiln log entries delivered by LOG_READ (R555). -/
  | logs (es : List LogEntry)
  /-- Bits shifted out of the Spyhole port (R615). -/
  | tap (reg value : Nat)
  /-- A level driven on a pin (R646). -/
  | pin (name : Pin) (level : Bool)
  deriving DecidableEq, Repr

/-! ### Registers -/

/-- A buffered write of an RWB field (R451): the value and the mask of the bits it covers. -/
structure BufW where
  val  : Nat := 0
  mask : Nat := 0
  deriving DecidableEq, Repr

/-- A strobe that has arrived and is not yet accepted (R452): its group, the blocks that still have to apply it, and the
buffered writes that belong to it, by register key. -/
structure Strobe where
  grp    : Nat
  blocks : List Nat
  writes : Tab BufW
  deriving DecidableEq, Repr

/-! ### Functions of the host interface (ch. 12) -/

/-- The host-interface state of one function. -/
structure Fn where
  /-- MSI-X Enable and Function Mask (R443). -/
  msixEn   : Bool := false
  fmask    : Bool := false
  /-- Vectors whose own mask bit is 0; a vector not listed is masked. -/
  unmasked : Tab Nat := []
  /-- Vectors whose pending bit is 1. -/
  pend     : Tab Nat := []
  /-- The address and data words of the MSI-X table, by vector × 4 + dword. -/
  table    : Tab Nat := []
  /-- Device Control: the error reporting enables, relaxed ordering, Max_Payload_Size and Max_Read_Request_Size (R435). -/
  devCtl   : Nat := 0x2010
  /-- Completion timeout range of Device Control 2 (R460). -/
  cplRange : Nat := 0
  /-- The two ID-based ordering enables of Device Control 2 (R435). -/
  ido      : Nat := 0
  /-- ECRC Check Enable and Generation Enable (R459). -/
  ecrcCheck : Bool := false
  ecrcGen   : Bool := false
  /-- Uncorrectable errors: status, mask and severity (R459). -/
  aerStat   : Nat := 0
  uncMask   : Nat := 0x400000
  aerSev    : Nat := 0x462030
  /-- Correctable errors: status and mask (R459). -/
  corStat   : Nat := 0
  corMask   : Nat := 0x2000
  /-- The first uncorrectable error that is recorded, by its bit, and its header (R459). -/
  hdrLog    : Option (Nat × List Nat) := none
  /-- AER errors already entered in the kiln log: the bit of an uncorrectable error, 32 more than that of a correctable one (R459). -/
  aerSeen   : List Nat := []
  /-- During the steps of an FLR (R461). -/
  inFlr     : Bool := false
  deriving DecidableEq, Repr

/-- The package's PCIe side. -/
structure Pcie where
  linkUp   : Bool := false
  numVfs   : Nat := 0
  vfEnable : Bool := false
  /-- Memory Space Enable (R444). -/
  mse      : Bool := false
  bar4Log2 : Nat := 28
  /-- A resize not yet in force (R444). -/
  bar4New  : Option Nat := none
  /-- The DOE mailbox: the request in progress, which Silset has not answered (R463). -/
  doeReq   : Option Instr := none
  /-- SPDM: the state reached (0 none, 1 version, 2 capabilities, 3 algorithms). -/
  spdm     : Nat := 0
  /-- Speed and width to which the link has trained (R435). -/
  speed    : Nat := 0
  width    : Nat := 0
  /-- Link Control, of which ASPM L1 alone is there; the ACS control; the ARI hierarchy bit (R435). -/
  linkCtl  : Nat := 0
  acs      : Nat := 0
  ari      : Bool := false
  /-- The BARs as written, and those of the virtual functions in the SR-IOV capability (R439). -/
  bars     : Tab Nat := []
  vfBars   : Tab Nat := []
  deriving DecidableEq, Repr

/-! ### Memory (ch. 8) -/

/-- An HBM channel (R306): STATE and CE_CNT. -/
structure HbmCh where
  state : Nat := 0
  ce    : Nat := 0
  deriving DecidableEq, Repr

/-- One entry of the shadow index (R293): address of the codes, address of the probe-sum table (which the entry's own 16 B in
HBM follow), state (0 VALID, 1 BAD, 2 LOST), first 8 B of the digest of the codes, and the context that owns it. -/
structure Shadow where
  addr   : Nat := 0
  sums   : Nat := 0
  state  : Nat := 0
  digest : Nat := 0
  ctx    : Nat := 0
  /-- Format (FP4), rows and columns of the record, which its canonical digest covers (R215). -/
  fp4    : Bool := false
  rows   : Nat := 1024
  cols   : Nat := 1024
  deriving DecidableEq, Repr

/-! ### Units, fences and resets (ch. 13) -/

/-- A requester slot (R477): its 8-bit generation, whether a request is open, and the fence generation of its tag. -/
structure Slot where
  gen  : Nat := 0
  busy : Bool := false
  /-- The low 8 bits of the requester's fence generation as the request left. -/
  fgen : Nat := 0
  deriving DecidableEq, Repr

/-- The fence and reset state of one unit of R475. -/
structure FUnit where
  /-- Fence reasons, bits as in R478. -/
  reasons  : Nat := 0
  /-- Fence generation (R477). -/
  fgen     : Nat := 0
  /-- A drain is running (R476). -/
  draining : Bool := false
  /-- The drain window expired without a later engine reset. -/
  expired  : Bool := false
  /-- Device time of the placement of the fence. -/
  fencedAt : Nat := 0
  /-- A reset of the unit is running, with its cause (RST_LAST). -/
  inReset  : Bool := false
  cause    : Nat := 0
  /-- When an engine reset completed whose end Silset has not taken up yet (R487, R629). -/
  ended    : Option Nat := none
  /-- The isolation cells are forced (R485). -/
  isolated : Bool := false
  /-- Device times of its last completed engine resets, newest first (R485). -/
  resets   : List Nat := []
  /-- Rounds of reconciliation that still disagreed after the one that found it (R489). -/
  dispRounds : Nat := 0
  /-- The unit hangs, as its stall monitor reported (R481, R485). -/
  hung     : Bool := false
  /-- Requester slots (R477). -/
  slots    : Tab Slot := []
  deriving DecidableEq, Repr

/-- A domain crossing (R479): its epoch, whether it is closed to traffic, and the epoch that has been offered and not
acknowledged. -/
structure Crossing where
  epoch   : Nat := 0
  closed  : Bool := false
  offered : Option Nat := none
  deriving DecidableEq, Repr

/-- A partition's reset state (R483, R497). -/
structure Part where
  resetting : Bool := false
  escalated : Bool := false
  startedAt : Nat := 0
  resets    : Nat := 0
  cause     : Nat := 0
  /-- Split-wide power request state is in PWR; here the step of R483 that the reset has reached. -/
  step      : Nat := 0
  deriving DecidableEq, Repr

/-- Package-level resets (R481, R486). -/
structure Pkg where
  warmRunning : Bool := false
  coldRunning : Bool := false
  startedAt   : Nat := 0
  coldTries   : Nat := 0
  /-- Package health FAILED (R486). -/
  healthFailed : Bool := false
  /-- SPLIT in force and SPLIT_NEXT live in RST_SPLIT; the cause of the running reset. -/
  cause       : Nat := 0
  /-- A reset that waits for the acknowledgements of its notices (R425): cold, cause, unit, escalated. -/
  next        : Option (Bool × Nat × Nat × Nat × Bool) := none
  deriving DecidableEq, Repr


/-! ### Silset (ch. 15) -/

/-- A firmware slot (R544): state 0 EMPTY, 1 VALID, 2 TRIAL, 3 CONFIRMED, 4 REJECTED; what its header says (R543). -/
structure FwSlot where
  state   : Nat := 0
  version : Nat := 0
  svn     : Nat := 0
  eval    : Bool := false
  agents  : Bool := false
  digest  : Nat := 0
  /-- The bytes that the slot holds (R530, R543). -/
  image   : List Byte := []
  deriving DecidableEq, Repr

/-- An entry of the image-key table (R547). -/
structure ImgKey where
  fpr     : Nat := 0
  pub     : Nat := 0
  revoked : Bool := false
  deriving DecidableEq, Repr

/-- A wear record (R185): program count, state (0 BLANK, 1 PROGRAMMED, 2 IN_PROGRESS, 3 RETIRED, 4 DEFECTIVE, 5 ABSENT),
UTC of the last programming, canonical digest. -/
structure Wear where
  count  : Nat := 0
  state  : Nat := 0
  utc    : Nat := 0
  digest : Nat := 0
  deriving DecidableEq, Repr

/-- A flash write that waits (R534): a start page with its tile-layers, a state-store record, a log-mirror page, a done
page with its records, a write of staged firmware, a write of the scan-pattern area. -/
inductive FlashJob where
  | startPage (tls : List Nat)
  | stateStore
  | mirrorPage
  | donePage (recs : Tab Wear)
  | staging (bytes : Nat)
  deriving DecidableEq, Repr

/-- An open update session (R544, R554): the path that opened it (0 mailbox, 1 management bus), bytes written, length,
whether staging is under way (1), verified (2), rejected (3) or ended by a failed read or write (4). -/
structure UpdSession where
  path    : Nat := 0
  written : Nat := 0
  len     : Nat := 0
  phase   : Nat := 0
  deriving DecidableEq, Repr

/-- The record of the state store (R531): SPLIT_NEXT, RST_WARM_CAUSE, RST_WARM_CNT, the FAILED marks, the last UTC, the
next log sequence number, the image-key table. -/
structure StateRec where
  splitNext : Nat := 1
  warmCause : Nat := 0
  warmCnt   : Nat := 0
  failed    : List Nat := []
  utc       : Nat := 0
  seq       : Nat := 0
  keys      : List ImgKey := []
  deriving DecidableEq, Repr

/-- Silset, its flash and its OTP. -/
structure Sil where
  /-- STATE of SIL_STAT: 0 BOOT, 1 RUNNING, 2 RESTARTING, 3 RECOVERY, 4 HALTED. -/
  state     : Nat := 0
  /-- Running slot: false A, true B. -/
  slot      : Bool := false
  slotA     : FwSlot := {}
  slotB     : FwSlot := {}
  /-- When the running firmware started (R544). -/
  runSince  : Nat := 0
  /-- The restart under way follows FW_ACTIVATE (R544). -/
  activating : Bool := false
  /-- The boot ROM has handed over to firmware that does not run yet. -/
  handed    : Bool := false
  /-- FW_ACTIVATE asked for the agents to be updated after confirmation, and the dies still to be updated (R545). -/
  agentsNow : Bool := false
  agentDies : List Nat := []
  /-- The firmware image whose agent firmware the agents of a die run, by its digest; 0 for the one shipped (R545, R549). -/
  agentFw   : Tab Nat := []
  rollback  : Nat := 0
  commissioned : Bool := false
  debugCount   : Nat := 0
  /-- Revoke bits of the two Colavarum key hashes and of the owner key hash (R541). -/
  fwRevoked : Nat := 0
  ownerKey  : Option Nat := none
  anchorsUsed : Nat := 0
  /-- The last anchor slot written: the SHA-384 of the key list (R547). -/
  anchor    : Nat := 0
  /-- The image-key table agrees with its last anchor (R547). -/
  anchorOk  : Bool := true
  keys      : List ImgKey := []
  debugOpen : Bool := false
  flashOk   : Bool := false
  /-- Failed tries of the flash write being served (R556). -/
  flashTries : Nat := 0
  /-- Kiln log ring, newest first, at most 4,096 (R538). -/
  log       : List LogEntry := []
  /-- SEQ of the next entry (R537). -/
  seq       : Nat := 0
  /-- Hardware event queue, oldest first, at most 512, and whether an event has been discarded since it was last drained (R529). -/
  evq       : List LogEntry := []
  evLost    : Bool := false
  /-- Mirror queue, oldest first, at most 256, and the flash ring, newest first (R538). -/
  mirrorQ   : List LogEntry := []
  mirror    : List LogEntry := []
  flashQ    : List FlashJob := []
  /-- Tile-layers whose start page is durable and whose operation has not started (R533). -/
  pageDone  : List Nat := []
  store     : StateRec := {}
  session   : Option UpdSession := none
  /-- Wear records in force and as the flash holds them, by tile_id × 4 + layer (R185, R532). -/
  wear      : Tab Wear := []
  wearFlash : Tab Wear := []
  /-- Program operations of a tile-layer that failed R158 (R186). -/
  fails     : Tab Nat := []
  /-- Scan-pattern area: length of the set written and its digest (R516). -/
  scanLen   : Nat := 0
  scanData  : List Nat := []
  endpointId : Nat := 0
  eventRx   : Option Nat := none
  /-- Silset is held at a Spyhole breakpoint or by HALT (R629): its program counter. -/
  pc        : Nat := 0
  /-- Crypto self-test passed and rounds completed since the start of a trial (R544). -/
  roundsOk  : Bool := true
  deriving DecidableEq, Repr


/-! ### Setting images and wares (ch. 6) -/

/-- A CLUSTER entry (R203). -/
structure ClusterE where
  cl     : Nat := 0
  spare  : Nat := 31
  region : Nat := 0
  deriving DecidableEq, Repr

/-- A SLICE entry (R204). -/
structure SliceE where
  id      : Nat := 0
  kind    : Nat := 0
  wFmt    : Bool := false
  dFmt    : Bool := false
  ocp     : Bool := false
  /-- 0 normal, 1 pure 16-bit, 2 integer. -/
  mode    : Nat := 0
  /-- 0 NONE, 1 BIAS, 2 RESIDUAL, 3 RESIDUAL_BIAS (R132). -/
  pre     : Nat := 0
  rows    : Nat := 0
  cols    : Nat := 0
  dIn     : Nat := 0
  dOut    : Nat := 0
  pair    : Nat := 0xFFFF
  adapter : Nat := 0xFFFF
  group   : Nat := 0
  cs      : Nat := 0
  bias    : Nat := 0xFFFFFFFF
  deriving DecidableEq, Repr

/-- A PLACEMENT entry (R205). -/
structure PlaceE where
  tile   : Nat := 0
  layer  : Nat := 0
  ten    : Bool := false
  slice  : Nat := 0
  rb     : Nat := 0
  cb     : Nat := 0
  range  : Nat := 0
  trange : Nat := 0
  record : Nat := 0
  deriving DecidableEq, Repr

/-- A destination word (R206). -/
structure DestW where
  kind : Nat := 0
  cl   : Nat := 0
  addr : Nat := 0
  deriving DecidableEq, Repr

/-- A ROUTE entry (R206). -/
structure RouteE where
  slice   : Nat := 0
  cb      : Nat := 0
  part    : Nat := 0
  cl      : Nat := 0
  home    : Bool := false
  glaze   : Bool := false
  glzCl   : Nat := 0xFFFF
  /-- 0 none, 1 scratchpad, 2 vector unit. -/
  preSrc  : Nat := 0
  preAddr : Nat := 0
  dests   : List DestW := []
  deriving DecidableEq, Repr

/-- An OUTLIER record (R207). -/
structure OutE where
  slice : Nat := 0
  rb    : Nat := 0
  mode  : Nat := 0
  fixed : List Nat := []
  cand  : List Nat := []
  kdyn  : Nat := 0
  deriving DecidableEq, Repr

/-- A GLAZE record (R208), with its BF16 values. -/
structure GlzE where
  slice : Nat := 0
  ch    : Nat := 0
  rb    : Nat := 0
  col   : Nat := 0
  n     : Nat := 0
  loc   : Nat := 0
  vals  : List Nat := []
  deriving DecidableEq, Repr

/-- A BIAS record (R209), with its values in format `fmt`. -/
structure BiasE where
  index : Nat := 0
  fmt   : Nat := 7
  col   : Nat := 0
  n     : Nat := 0
  loc   : Nat := 0
  vals  : List Nat := []
  deriving DecidableEq, Repr

/-- An A-part entry of an adapter (R210). -/
structure APartE where
  rb   : Nat := 0
  cl   : Nat := 0
  loc0 : Nat := 0
  loc1 : Nat := 0
  grad : Nat := 0
  deriving DecidableEq, Repr

/-- A B-part entry of an adapter (R210). -/
structure BPartE where
  col  : Nat := 0
  n    : Nat := 0
  cl   : Nat := 0
  loc0 : Nat := 0
  loc1 : Nat := 0
  grad : Nat := 0
  deriving DecidableEq, Repr

/-- An ADAPTER record (R210), with its initial BF16 values. -/
structure AdpE where
  index : Nat := 0
  rank  : Nat := 0
  alpha : Nat := 0
  slice : Nat := 0
  red   : Nat := 0
  as    : List APartE := []
  bs    : List BPartE := []
  init  : List Nat := []
  deriving DecidableEq, Repr

/-- A PROGRAM record (R266). -/
structure ProgE where
  id    : Nat := 0
  words : List Nat := []
  deriving DecidableEq, Repr

/-- A CONTEXTS record (R266). -/
structure CtxE where
  cl        : Nat := 0
  prog      : Nat := 0
  entry     : Nat := 0
  first     : Nat := 0
  count     : Nat := 0
  slotBase  : Nat := 0
  slotCount : Nat := 0
  deriving DecidableEq, Repr

/-- A SLOTS record (R266): 64-bit descriptors from a pool index. -/
structure SlotsE where
  cl    : Nat := 0
  first : Nat := 0
  descs : List Nat := []
  deriving DecidableEq, Repr

/-- A DATA record (R266). -/
structure DataE where
  cl    : Nat := 0
  off   : Nat := 0
  bytes : List Byte := []
  deriving DecidableEq, Repr

/-- A layer entry of KVLAYOUT (R336), with its stripe list. -/
structure KvLayerE where
  tier    : Nat := 0
  ret     : Nat := 0
  stripe  : List Nat := []
  scale   : Nat := 0
  window  : Nat := 0
  deriving DecidableEq, Repr

/-- A pool entry of KVLAYOUT (R337). -/
structure KvPoolE where
  kind  : Nat := 0
  tier  : Nat := 0
  owner : Nat := 0
  base  : Nat := 0
  size  : Nat := 0
  deriving DecidableEq, Repr

/-- The KVLAYOUT section (R335). -/
structure KvLayout where
  hkv     : Nat := 0
  hq      : Nat := 0
  w       : Nat := 0
  stepMax : Nat := 0
  seqMax  : Nat := 0
  posMax  : Nat := 0
  pageBytes : Nat := 0
  slipBytes : Nat := 0
  layers  : List KvLayerE := []
  pools   : List KvPoolE := []
  /-- SHA-384 of the section (LAYOUT_DIGEST of R382). -/
  digest  : Nat := 0
  deriving DecidableEq, Repr

/-- A bay entry of DRAWRING (R503). -/
structure DrawBayE where
  bay   : Nat := 0
  rate  : Nat := 0
  first : Nat := 0
  deriving DecidableEq, Repr

/-- A tile-layer entry of DRAWRING (R503). -/
structure DrawTlE where
  tl     : Nat := 0
  weight : Nat := 0
  mask   : Nat := 0
  deriving DecidableEq, Repr

/-- The DRAWRING section (R503). -/
structure DrawPlan where
  transposed : Bool := false
  seed       : Nat := 0
  bays       : List DrawBayE := []
  tls        : List DrawTlE := []
  deriving DecidableEq, Repr

/-- A peer entry (R406). -/
structure PeerE where
  rank  : Nat := 0xFF
  v6    : Bool := false
  fetch : Bool := false
  pmtu  : Nat := 0
  ports : List Nat := []
  ip    : Nat := 0
  mac   : Nat := 0
  vlan  : Nat := 0
  ctrlQpn : Nat := 0
  dataQpn : List Nat := []
  localQpn : Nat := 0
  deriving DecidableEq, Repr

/-- A region entry (R407). -/
structure RegionE where
  dir    : Nat := 0
  peer   : Nat := 0
  access : Nat := 0
  rkey   : Nat := 0
  base   : Nat := 0
  len    : Nat := 0
  deriving DecidableEq, Repr

/-- An exchange entry (R408). -/
structure XchE where
  index : Nat := 0
  kind  : Nat := 0
  elems : Nat := 0
  off   : Nat := 0
  dest  : DestW := {}
  deriving DecidableEq, Repr

/-- The PEER section (R405). -/
structure PeerTable where
  job     : Nat := 0
  nmem    : Nat := 0
  self    : Nat := 0
  slots   : Nat := 0
  stretch : Nat := 0
  selfFence : Bool := false
  serve   : Bool := false
  xchBase : Nat := 0
  xchSize : Nat := 0
  fetchBase : Nat := 0
  peers   : List PeerE := []
  regions : List RegionE := []
  xchs    : List XchE := []
  deriving DecidableEq, Repr

/-- A directory entry of the ware (R213). -/
structure WareRec where
  kind   : Nat := 0
  rows   : Nat := 0
  cols   : Nat := 0
  off    : Nat := 0
  digest : Nat := 0
  deriving DecidableEq, Repr

/-- A setting image as the device holds it (R199 to R210): its header, its sections, and the directory of its ware. -/
structure Image where
  part      : Nat := 0
  minStep   : Nat := 0
  split     : Nat := 1
  pt        : Nat := 0
  dieMask   : Nat := 0
  delta     : Bool := false
  kvCompat  : Bool := false
  allowRemap : Bool := false
  /-- The section types that the delta itself carries (R228). -/
  carried   : List Nat := []
  id        : Nat := 0
  base      : Nat := 0
  svn       : Nat := 0
  wareDigest : Nat := 0
  keyFpr    : Nat := 0
  clusters  : List ClusterE := []
  slices    : List SliceE := []
  places    : List PlaceE := []
  routes    : List RouteE := []
  outliers  : List OutE := []
  glaze     : List GlzE := []
  colscale  : List Nat := []
  biases    : List BiasE := []
  adapters  : List AdpE := []
  progs     : List ProgE := []
  ctxs      : List CtxE := []
  slots     : List SlotsE := []
  data      : List DataE := []
  kv        : KvLayout := {}
  draw      : DrawPlan := {}
  peers     : PeerTable := {}
  /-- EMBED entries: ware record and shadow address (R208). -/
  embeds    : List (Nat × Nat) := []
  ware      : List WareRec := []
  /-- The signed bytes of the ware: header, directory, signature (R212). -/
  wareRaw   : List Byte := []
  deriving DecidableEq, Repr



/-! ### Tiles, calibration values, passes (ch. 3, 5) -/

/-- Gain field and offset of a column and range (R63): Q1.15 gain, offset in eighths of a code. -/
structure GO where
  g : Nat := 0x8000
  o : Int := 0
  deriving DecidableEq, Repr

/-- What the device keeps of a tile-layer (R168, R170, R178, R105): the values in force and the old values of a ramp, by
direction × 2^13 + range × 2^10 + column; the ramp counts of forward and transposed passes; the median κ (Q1.15). -/
structure TLayer where
  cal     : Tab GO := []
  old     : Tab GO := []
  rampN   : Nat := 256
  rampT   : Nat := 256
  kappa   : Nat := 0x8000
  /-- Silset's UTC at the last calibration; that of the last programming stands in the wear record (R105, R185). -/
  calAt   : Nat := 0
  /-- A drift refresh is due (R180). -/
  due     : Bool := false
  deriving DecidableEq, Repr

/-- A pass that has started, with the values in force at its start (R93). -/
structure PassRun where
  req   : PassReq := {}
  range : Nat := 0
  cal   : Tab GO := []
  old   : Tab GO := []
  n     : Nat := 256
  /-- Waves converted. -/
  wave  : Nat := 0
  /-- Waves accepted by the accumulation unit (R128). -/
  taken : Nat := 0
  /-- The breakpoint that matched this item has released it (R628). -/
  done  : Bool := false
  deriving DecidableEq, Repr

/-- A tile (R86 to R90). -/
structure Tile where
  active  : Nat := 0
  settled : Bool := true
  pending : Option PassReq := none
  /-- Requests the bay router holds, oldest first. -/
  held    : List PassReq := []
  /-- Passes that wait at the tile for the end of a refresh of their tile-layer, oldest first (R182). -/
  aside   : List PassReq := []
  running : Option PassRun := none
  /-- The last pass, whose codes have not all been accepted. -/
  last    : Option PassRun := none
  /-- The running pass, row step or probe holds a pass-start token (R45). -/
  token   : Bool := false
  /-- Passes since its last probe pass, at most 8 (R176). -/
  sinceProbe : Nat := 8
  deriving DecidableEq, Repr

/-- The pass-start token pool of a die (R45, R46). -/
structure TokPool where
  size    : Nat := 1488
  inUse   : Nat := 0
  /-- Tiles with a pending request, in the order in which those arrived: the order in which they take tokens. -/
  waiters : List Nat := []
  deriving DecidableEq, Repr

/-! ### Accumulation, quantiser, glaze path (ch. 2, 4) -/

/-- A column block part in one pass in a bank of an accumulation unit (R127 to R137).  A value that has not arrived is
absent; `scales`, `pre` and `glz` hold the code or FP32 word plus one; `vec` is the number of the input vector of the pass, which
a preload that is ahead of its pass does not know yet. -/
structure AccPass where
  im     : Nat := 0
  vec    : Option Nat := none
  group  : Nat := 0
  part   : Nat := 0
  slice  : Nat := 0
  cb     : Nat := 0
  npos   : Nat := 0
  /-- E8M0 code plus one of each position, plus 512 where the block is empty (R60). -/
  scales : Tab Nat := []
  /-- A glaze contribution was part of the pass (h of R127), set when its result is formed. -/
  h      : Bool := false
  /-- The pass of each position. -/
  runs   : Tab PassRun := []
  tiles  : Tab Nat := []
  /-- ADC codes by position × 1024 + column. -/
  codes  : Tab Int := []
  /-- Waves arrived at each position, as a bit mask. -/
  waves  : Tab Nat := []
  pre    : Tab Nat := []
  glz    : Tab Nat := []
  /-- Columns whose narrow-group terms are zero (R144). -/
  zero   : List Nat := []
  /-- Cause of ACC_LAST_ERR, tile and layer of a fault (R138). -/
  fault  : Option (Nat × Nat × Nat) := none
  waited : Bool := false
  /-- The delivered result, and the destinations that have not acknowledged it. -/
  result : Option (List Nat) := none
  acks   : Nat := 0
  /-- Order of entry of the passes of the unit. -/
  born   : Nat := 0
  deriving DecidableEq, Repr

/-- A fault of a part for whose pass no bank has been taken yet (R88, R138): image and vector of the pass, cause, tile and
layer, and the position whose codes will not come. -/
structure Late where
  im    : Nat := 0
  vec   : Nat := 0
  cause : Nat := 0
  tile  : Nat := 0
  layer : Nat := 0
  pos   : Option Nat := none
  deriving DecidableEq, Repr

/-- An input vector held for a pass group (R659): its number, elements written by row block × 1024 + element (FP32 word plus
one), the cluster whose quantiser takes each row block, and the row blocks already quantised. -/
structure QVec where
  vec   : Nat := 0
  elems : Tab Nat := []
  cls   : Tab Nat := []
  done  : List Nat := []
  deriving DecidableEq, Repr

/-- What is fixed for the passes of an input vector when its first row block is quantised (R93, R127, R141, R146, R148): image
and pass group; DYN_DISABLE and ADAPT_BYPASS; the GLZ_SL_CFG words that differ from reset; the copy of each adapter that is
used, by index; the sequence and position that a KEEP step or a BACKWARD works on (R334).  And what has happened since: for each
row block quantised, 1 where it sends no channel to the glaze path and 2 where it does; the gradient in BF16 by row block ×
1024 + element, plus one (R143); the parts delivered, as cluster × 32 + part. -/
structure PassCtl where
  im     : Nat := 0
  pg     : Nat := 0
  dynOff : Bool := false
  bypass : Bool := false
  kmax   : Tab Word := []
  copies : Tab Nat := []
  tag    : Option (Nat × Nat) := none
  sends  : Tab Nat := []
  g      : Tab Nat := []
  past   : List Nat := []
  deriving DecidableEq, Repr

/-- Work of one slice and pass in a glaze slice (R126): the selected channels and values of each row block, the weight
rows not yet fetched, the adapter activations, and the input-gradient terms z by row, plus one (R143). -/
structure GlzJob where
  im      : Nat := 0
  slice   : Nat := 0
  vec     : Nat := 0
  sels    : Tab (List (Nat × Nat)) := []
  waiting : List (Nat × Nat) := []
  /-- Rows of fixed channels that were fetched before the selection of their row block. -/
  fetched : List (Nat × Nat) := []
  h       : Option (List Nat) := none
  z       : Tab Nat := []
  deriving DecidableEq, Repr

/-- An adapter of an image (R146): its active copy, the copy that a running BACKWARD uses, α of each copy, and the parts gathered
at its port, u by vector × 2^7 + row block and q by vector × 2^17 + column. -/
structure Adapter where
  copy   : Nat := 0
  bwd    : Option Nat := none
  alpha0 : Nat := 0
  alpha1 : Nat := 0
  us     : Tab (List Nat) := []
  qs     : Tab (List Nat) := []
  deriving DecidableEq, Repr

/-- The parts of a column block that lies in several clusters, as the vector unit of the home cluster receives them (R130): image,
slice, column block and vector of the pass; the words of each part by its lowest row block. -/
structure HomeSum where
  im    : Nat := 0
  slice : Nat := 0
  cb    : Nat := 0
  vec   : Nat := 0
  parts : Tab (List Nat) := []
  deriving DecidableEq, Repr



/-! ### The Spyhole port (ch. 18) -/

/-- The test access port, the unlock and the halts that are not registers of the DBG block. -/
structure Dbg where
  /-- The current TAP instruction (R615). -/
  ir       : Nat := 1
  /-- EXTEST, CLAMP or HIGHZ holds the package in reset (R617). -/
  boundary : Bool := false
  /-- The nonce captured, its time, and whether a response has used it (R618). -/
  nonce    : Option (Nat × Nat) := none
  fails    : Nat := 0
  limited  : Bool := false
  /-- The boundary-scan register (R617), as a number; the order of its cells is not the manual's. -/
  bsr      : Nat := 0
  /-- A response under verification: SCOPE asked for, key fingerprint, and the UNLOCK_RES it will end with. -/
  verify   : Option (Nat × Nat × Nat) := none
  /-- SCOPE in force and the erasure of the signing keys (R619, R620). -/
  scope    : Nat := 0
  keysErased : Bool := false
  /-- DADDR (R621), the last access and its STATUS and data. -/
  addr     : Nat := 0
  space    : Nat := 0
  op       : Nat := 0
  inc      : Bool := false
  data     : Nat := 0
  status   : Nat := 0
  busy     : Option (Bool × Nat) := none
  /-- Bays under a halt (R625) as a bit mask; bays that step, and the acknowledges given by their boundaries (R628). -/
  halting  : Nat := 0
  stepping : Nat := 0
  stepCnt  : Tab Nat := []
  /-- Items that breakpoints hold, and items released once, as kind and value (R628, R630). -/
  held     : List (Nat × Nat) := []
  released : List (Nat × Nat) := []
  /-- Step descriptors held at the serving engine, oldest first, with their handles (R630). -/
  descs    : List (Nat × Msg) := []
  /-- Requests that wait at the boundary of a halted bay, oldest first: bay, boundary, request (R625); one of them is being
  taken now. -/
  waiting  : List (Nat × Nat × Instr) := []
  /-- Boundaries whose oldest waiting request was not admitted for want of room in its unit: unit key and boundary. -/
  parked   : List (Nat × Nat) := []
  readmit  : Bool := false
  /-- The state of Silset from which it was halted (R629). -/
  silWas   : Nat := 1
  /-- Silset memory and core registers as written through spaces 2 and 3 (R623). -/
  silMem   : Tab Nat := []
  silRegs  : Tab Nat := []
  deriving DecidableEq, Repr

/-! ### Draw-ring samples (ch. 14) -/

/-- A sample of a checker (R500, R505): armed, then captured with its pass, then with the chain record of its part. -/
structure Sample where
  tl      : Nat := 0
  group   : Nat := 0
  im      : Nat := 0
  armedAt : Nat := 0
  /-- Ahead of the round robin, for the check of a finding (R510, R511). -/
  forced  : Bool := false
  run     : Option PassRun := none
  part    : Option AccPass := none
  /-- The sample has to be discarded (R501). -/
  spoiled : Bool := false
  /-- |DT_NOW| of the bay at capture, in quarters of a degree, and the device time of the capture. -/
  dt      : Nat := 0
  capAt   : Nat := 0
  deriving DecidableEq, Repr



/-! ### Vector units (ch. 7) -/

/-- A request of a thread context that is open (R263, R477): its number among those of the context, the index of its instruction, the
device address it goes to, that of the scratchpad of the cluster for a send; for a VFETCH, the slot of the window. -/
structure VReq where
  rq   : Nat := 0
  pc   : Nat := 0
  slot : Nat := 0
  addr : Nat := 0
  deriving DecidableEq, Repr

/-- A thread context (R240, R266). -/
structure VCtx where
  im     : Nat := 0
  /-- 0 IDLE, 1 WAITING, 3 ISSUED, 4 HALTED, 5 FAULTED (R276); READY is WAITING with every source present. -/
  state  : Nat := 0
  pc     : Nat := 0
  /-- Program counter after the instruction in flight. -/
  next   : Nat := 0
  /-- The scalar registers that are not zero. -/
  x      : Tab Nat := []
  /-- NV, DZ, OF, UF in bits 0 to 3. -/
  flags  : Nat := 0
  slotBase  : Nat := 0
  slotCount : Nat := 0
  fault  : Nat := 0
  /-- The context's program in the instruction store: its first index and its length; its entry within it. -/
  base   : Nat := 0
  len    : Nat := 0
  entry  : Nat := 0
  /-- Index within its CONTEXTS record (x1 at entry). -/
  idx    : Nat := 0
  /-- Outstanding VFETCHes, oldest first. -/
  fetches : List VReq := []
  /-- Sends and stores not acknowledged, oldest first. -/
  sends : List VReq := []
  /-- Destination slots reserved by the instruction in flight, as pool indices (R245). -/
  resv   : List Nat := []
  deriving DecidableEq, Repr

/-- A slot descriptor (R241): scratchpad offset in units of 8 B, elements, format code, PRESENT, PERSIST; and the elements
written since it was last consumed (R242). -/
structure VSlot where
  addr    : Nat := 0
  len     : Nat := 1
  fmt     : Nat := 0
  present : Bool := false
  persist : Bool := false
  written : Tab Nat := []
  deriving DecidableEq, Repr

/-- An arrival held at a vector unit's input (R244). -/
structure VArr where
  ctx  : Nat := 0
  slot : Nat := 0
  off  : Nat := 0
  fmt  : Nat := 0
  vals : List Nat := []
  src  : ArrSrc := .fetch false 0 0 0
  /-- Index of the VFETCH whose data it is. -/
  pc   : Nat := 0
  deriving DecidableEq, Repr


/-! ### Queues, commands, handles (ch. 10) -/

/-- A submission queue and its record ring (R346 to R351). -/
structure QueueS where
  /-- 0 IDLE, 1 ACTIVE, 2 DRAINING, 3 ERROR (R390). -/
  st     : Nat := 0
  head   : Nat := 0
  tail   : Nat := 0
  /-- Records written to the ring, and those of them the host has not read. -/
  recs   : Nat := 0
  unread : Nat := 0
  /-- Record slots reserved at fetch. -/
  resv   : Nat := 0
  /-- A record write failed: later records of the queue are dropped (R385). -/
  recErr : Bool := false
  deriving DecidableEq, Repr

/-- What a checkpoint keeps of the moment of its snapshot (R381, R382): the pending token; the handle, entry count and tokens emitted of
the GENERATE that runs on the sequence; device time; and the frames that the reading of its pages pins (R327). -/
structure Snap where
  pend  : Option Nat := none
  gen   : Option (Nat × Nat × Nat) := none
  time  : Nat := 0
  pins  : List Nat := []
  deriving DecidableEq, Repr

/-- A command in flight under a handle (R352 to R361), by its slot. -/
structure Cmd where
  gen    : Nat := 0
  fn     : Nat := 0
  q      : Nat := 0
  op     : Nat := 0
  flags  : Nat := 0
  cid    : Nat := 0
  /-- Context it acts on: partition × 32 + function. -/
  ctx    : Nat := 0
  tag    : Nat := 0
  /-- The 64 bytes of the command. -/
  raw    : List Byte := []
  /-- Order of acceptance, and its device time. -/
  order  : Nat := 0
  at_    : Nat := 0
  run    : Bool := false
  /-- Device time of the last progress event (R360). -/
  prog   : Nat := 0
  /-- The image it was accepted under (R226). -/
  im     : Option Nat := none
  /-- The sequence index it names once started, and the adapter or peer. -/
  seq    : Option Nat := none
  /-- A second sequence or object: the draft, the temporary sequence, the target of a CANCEL. -/
  aux    : Option Nat := none
  /-- Work left: bays, bytes, records. -/
  left   : Nat := 0
  info   : Nat := 0
  value  : Nat := 0
  /-- Cancelled or timed out: the status it will complete with once its work has stopped. -/
  ending : Option Nat := none
  /-- A unit refused or failed work of a step of it: the status the step ends with (R108, R138). -/
  err    : Option Nat := none
  /-- Bytes or tokens read from host memory for it. -/
  words  : List Nat := []
  /-- The snapshot of a CHECKPOINT. -/
  snap   : Snap := {}
  deriving DecidableEq, Repr

/-- A load under way (R223 to R225). -/
structure Load where
  /-- Slot of the LOAD command. -/
  h      : Nat := 0
  /-- Phase code of R223. -/
  phase  : Nat := 1
  im     : Nat := 0
  activate : Bool := false
  src    : Nat := 0
  peer   : Nat := 0
  /-- Progress of each placed tile-layer: 0 waits for its payload, 1 read-back, 2 program operation, 3 calibration of a
  shared or placed tile-layer still outstanding, 4 finished. -/
  todo   : Tab Nat := []
  shared : Nat := 0
  retained : Nat := 0
  programmed : Nat := 0
  /-- EMBED entries whose payload has not arrived, by ware record. -/
  tables : List Nat := []
  /-- The peer table of the image, for a ware that a peer sends; and the image while record 0 of that ware is awaited (R413, R414). -/
  peers  : PeerTable := {}
  raw    : List Nat := []
  /-- WARE_DIGEST of that image. -/
  digest : Nat := 0
  /-- IMAGE_ID, once the image has been read; the acceptance of the load stands in the log (R231). -/
  id      : Nat := 0
  entered : Bool := false
  /-- Ware records whose payloads were asked for on behalf of this load (R415). -/
  asked  : List Nat := []
  /-- The load ends with this status, failing tile-layer plus one, once no row step of it runs (R229). -/
  stop   : Option (Nat × Nat) := none
  deriving DecidableEq, Repr

/-- A context: a partition as seen from one function (ch. 6). -/
structure Ctx where
  active : Option Nat := none
  staged : Option Nat := none
  load   : Option Load := none
  /-- Activations since reset (GEN). -/
  acts   : Nat := 0
  /-- Old images that wait for their last handle (R226). -/
  retiring : List Nat := []
  /-- Order number of the last activation. -/
  actAt  : Nat := 0
  /-- Handles of prefixes whose image has retired, and identifiers of sequences freed because theirs is no longer active (R227). -/
  gonePfx : List Nat := []
  goneSeq : List Nat := []
  /-- The job context is fenced for its own suspicion (R424). -/
  fenced : Bool := false
  deriving DecidableEq, Repr

/-- An entry of a role registered by an image (R364). -/
structure EntryE where
  role   : Nat := 0
  first  : Nat := 0
  layers : Nat := 0
  /-- Destination cluster, context and slot. -/
  cl     : Nat := 0
  ctx    : Nat := 0
  slot   : Nat := 0
  descLen : Nat := 16
  nMax   : Nat := 1
  vocab  : Nat := 0
  deriving DecidableEq, Repr

/-! ### Programming and calibration (ch. 5) -/

/-- A program operation or read-back of a tile-layer (R155 to R162, R224, R230). -/
structure ProgOp where
  /-- 0 load, 1 refresh, 2 read-back, 3 remap. -/
  kind   : Nat := 0
  /-- The context it serves. -/
  ctx    : Nat := 0
  /-- 0 waits for its start, 1 row steps, 2 closing calibration. -/
  st     : Nat := 0
  row    : Nat := 0
  /-- Cells that the repeat of the row step covers (R158). -/
  failing : List Nat := []
  /-- Conductances of the rows read back, in µS, newest row first (R224). -/
  reads  : List (List ℚ) := []
  order  : Nat := 0
  /-- The tile-layer whose shadow gives the codes. -/
  src    : Nat := 0
  /-- Stop after the running row step (R184, R229). -/
  stop   : Bool := false
  deriving DecidableEq, Repr

/-- Codes of a kind of probe pass, summed by column, and their number (R167). -/
structure ProbeSum where
  n    : Nat := 0
  sums : List Int := []
  deriving DecidableEq, Repr

/-- The calibration sequencer of a bay (R173 to R181). Temperatures are in units of 1/64 °C. -/
structure BayCal where
  /-- 0 IDLE, 1 QUEUED, 2 SOAK, 3 RAMP, 4 REFRESH. -/
  st      : Nat := 0
  pending : Bool := false
  tcal    : Int := 0
  startT  : Int := 0
  tries   : Nat := 0
  lastSoak  : Option Nat := none
  lastDrift : Option Nat := none
  /-- The die mirror, in parts per million, at the last soak. -/
  mirrorAt  : Int := 0
  /-- The bay's reference current source against its die's mirror, in parts per million, as last traced (R163). -/
  source    : Int := 0
  /-- A calibration command asked for due refreshes. -/
  wantRefresh : Bool := false
  deriving DecidableEq, Repr

/-- A finding of the draw ring on a tile-layer (R510) or on an accumulation unit (R511). -/
structure Finding where
  chain : Bool := false
  /-- Tile-layer, or cluster of a chain finding. -/
  unit  : Nat := 0
  group : Nat := 0
  col   : Nat := 0
  /-- 0 waits for the soak, 1 its check, 2 waits for the refresh, 3 its check, 4 FAILED, 5 waits for the engine reset,
  6 its check. -/
  step  : Nat := 0
  /-- Samples of the check still to come, and whether one of them failed. -/
  left  : Nat := 0
  bad   : Bool := false
  at_   : Nat := 0
  deriving DecidableEq, Repr

/-- A remap under way (R230): the failed tile, the spare, the layers still to be programmed. -/
structure Remap where
  tile   : Nat := 0
  spare  : Nat := 0
  im     : Nat := 0
  ctx    : Nat := 0
  layers : List Nat := []
  deriving DecidableEq, Repr

/-! ### Key/value pages, sequences, bindings, generation (ch. 9, 10) -/

/-- A page descriptor (R326): its frame, tier and state (1 LIVE, 2 MOVING, 4 LOST; a FREE one is not listed, a RELEASING
frame stands in `releasing`) and REF; its PINS are those of `pins` on its frame. -/
structure Desc where
  addr : Nat := 0
  tier : Nat := 0
  st   : Nat := 0
  ref  : Nat := 0
  /-- The bay that owns the page (R325). -/
  bay  : Nat := 0
  /-- Target frame and tier of a move, and whether it is a prefetch (R332, R333). -/
  dest : Option (Nat × Nat × Bool) := none
  /-- A prefetched page that no pass has read yet (PF_UNUSED_CNT). -/
  unused : Bool := false
  deriving DecidableEq, Repr

/-- An old frame that a move or a free released while it was pinned (R327). -/
structure Frame where
  addr : Nat := 0
  tier : Nat := 0
  deriving DecidableEq, Repr

/-- An entry of a page table: descriptor and record count (R326). -/
structure PEnt where
  desc  : Nat := 0
  count : Nat := 0
  deriving DecidableEq, Repr

/-- A sequence (R362), by its index. -/
structure Seq where
  gen    : Nat := 1
  used   : Bool := false
  ctx    : Nat := 0
  im     : Nat := 0
  len    : Nat := 0
  /-- The pending token (R370). -/
  pend   : Option Nat := none
  /-- Index of its hidden draft sequence; this one is itself hidden (R374). -/
  draft  : Option Nat := none
  hidden : Bool := false
  failed : Bool := false
  retired : Bool := false
  bind   : Option Nat := none
  /-- Page-table entries by layer × 2^16 + page, slip segments (address plus one) by layer × 2^16 + segment. -/
  pages  : Tab PEnt := []
  slips  : Tab Nat := []
  /-- Flushes that a commit has asked for and that have not started, and those that run, as layer, page and the frame reserved
  for it (address × 4 + tier + 1, or 0). -/
  toFlush : List (Nat × Nat × Nat) := []
  flushing : List (Nat × Nat × Nat) := []
  /-- Job sequence number (R416). -/
  jsn    : Nat := 0
  /-- Tokens of its positions, from which a draft sequence is brought level (R374). -/
  toks   : List Nat := []
  /-- Device time at which its last step ended (R332). -/
  lastEnd : Nat := 0
  /-- Training stores of its bindings: base position, positions, address, bytes (R334); and the place of the target tokens
  of a running BACKWARD (R384). -/
  keep   : List (Nat × Nat × Nat × Nat) := []
  keepAt : Option (Nat × Nat) := none
  deriving DecidableEq, Repr

/-- Query data of a unit of a layer (R316): codes and scale plus one, and the context that sent its codes. -/
structure QUnit where
  codes : List Nat := []
  scale : Nat := 0
  cl    : Nat := 0
  ctx   : Nat := 0
  g0    : Nat := 0
  /-- Stripe ranks that have scored the unit. -/
  scored : List Nat := []
  deriving DecidableEq, Repr

/-- A binding (R315). -/
structure Bind where
  seq    : Nat := 0
  /-- Slot of the command whose step it serves. -/
  h      : Nat := 0
  base   : Nat := 0
  verify : Bool := false
  n      : Nat := 1
  parents : List Nat := []
  keep   : Bool := false
  /-- The role's layers (R364). -/
  first  : Nat := 0
  layers : Nat := 0
  /-- A step of the draft model. -/
  draft  : Bool := false
  /-- Elements of appends received, by layer × 2^26 + offset (FP32 word plus one). -/
  elems  : Tab Nat := []
  result : Option (List Nat) := none
  /-- Draft segments of a VERIFY binding, address plus one by layer. -/
  drafts : Tab Nat := []
  /-- Frames reserved for it, by layer × 2^16 + page: address × 4 + tier + 1. -/
  frames : Tab Nat := []
  units  : Tab QUnit := []
  /-- Layer of the query that reached the engines last (R333). -/
  atLayer : Nat := 0
  /-- Tokens of its descriptor: what it appends, or the candidates. -/
  toks   : List Nat := []
  /-- The step of the generation stage it belongs to samples. -/
  sample : Bool := false
  /-- Program contexts from whose units answers are awaited: the context the descriptor went to. -/
  cl     : Nat := 0
  /-- Job step number of the step, 0 outside a job (R416). -/
  jstep  : Nat := 0
  /-- A STEP that brings a draft sequence level (R374). -/
  level  : Bool := false
  deriving DecidableEq, Repr

/-- A prefix (R378). -/
structure Prefix where
  ctx    : Nat := 0
  handle : Nat := 0
  im     : Nat := 0
  len    : Nat := 0
  pages  : Tab PEnt := []
  toks   : List Nat := []
  deriving DecidableEq, Repr

/-- A command that runs steps: GENERATE, or PREFIX_CREATE from tokens (R368 to R377, R379). -/
structure Gen where
  seq    : Nat := 0
  /-- Tokens still to be appended before decoding begins. -/
  input  : List Nat := []
  /-- The last token of the input samples. -/
  maxNew : Nat := 0
  /-- Tokens emitted, entries written to the ring and the head word last read. -/
  emitted : Nat := 0
  count  : Nat := 0
  headW  : Nat := 0
  ringAddr : Nat := 0
  ringLog2 : Nat := 6
  peer   : Option Nat := none
  /-- 0 none, 1 chain, 2 tree; draft candidates' parents. -/
  spec   : Nat := 0
  parents : List Nat := []
  prov   : Bool := false
  keep   : Bool := false
  logprob : Bool := false
  seed   : Nat := 0
  temp   : Nat := 0
  topK   : Nat := 0
  topP   : Nat := 0x3F800000
  stops  : List Nat := []
  ringVec : Nat := 0xFFFF
  proposed : Nat := 0
  accepted : Nat := 0
  /-- Bindings of the step in flight: main or single, and the draft's. -/
  bind   : Option Nat := none
  dbind  : Option Nat := none
  /-- Proposed tokens of the round, and the provisional tokens written. -/
  cand   : List Nat := []
  provs  : List Nat := []
  /-- Waits for room in the ring. -/
  waits  : Bool := false
  /-- The first token of `input` is the pending token of the sequence. -/
  pendIn : Bool := false
  /-- Positions committed by the command. -/
  done   : Nat := 0
  /-- PREFIX_CREATE from tokens: the handle of the prefix; such a command writes no ring. -/
  pfx    : Option Nat := none
  deriving DecidableEq, Repr

/-! ### Ports, queue pairs, jobs (ch. 11) -/

/-- A logical port's flow control (R400): priorities paused by the peer and those whose frames are being dropped, as bit
masks; bytes held in the receive buffers of the data and the control class, and whether XOFF stands for each. -/
structure Port where
  paused : Nat := 0
  storm  : Nat := 0
  fillD  : Nat := 0
  fillC  : Nat := 0
  xoffD  : Bool := false
  xoffC  : Bool := false
  /-- Frames that wait for a paused priority, oldest first: priority, queue pair, type, packet sequence number, data. -/
  queue  : List (Nat × Nat × Nat × Nat × List Nat) := []
  /-- Timestamps of the last IEEE 1588 event messages received and sent, plus one (R404). -/
  rxStamp : Nat := 0
  txStamp : Nat := 0
  deriving DecidableEq, Repr

/-- The ordinary clock that Silset's firmware runs (R404): the master and its place in the comparison of data sets, the seconds from
UTC to its time; the Sync whose Follow_Up is awaited, with its arrival; the times t1 and t2 of the last Sync and t3 of the request
that followed it; the number of the device's own requests; the delay mechanism in use is peer to peer; of its last Pdelay_Req, when it
left, when the answer came and the receipt it told; the path delay; the timebase has been disciplined. -/
structure Ptp where
  master : Option (Nat × Nat) := none
  utcOff : Nat := 0
  sync   : Option (Nat × Nat) := none
  t1     : Nat := 0
  t2     : Nat := 0
  t3     : Nat := 0
  seq    : Nat := 0
  p2p    : Bool := false
  pt1    : Nat := 0
  pt4    : Nat := 0
  pt2    : Nat := 0
  delay  : Option Int := none
  locked : Bool := false
  deriving DecidableEq, Repr

/-- A queue pair (R402, R403, R410): 0 not set up, 1 ready, 2 error; its context, peer entry and logical port; the requests
sent and not acknowledged, oldest first, as type and fields; the retries spent; its rates in Mb/s, α, and the periods
without a CNP. -/
structure QPair where
  st      : Nat := 0
  ctx     : Nat := 0
  peer    : Nat := 0
  port    : Nat := 0xFF
  /-- Its peer entry is one of the table of the image that its context loads. -/
  load    : Bool := false
  /-- The packet sequence number of the next packet sent, and of the next one expected (R402). -/
  psn     : Nat := 0
  epsn    : Nat := 0
  /-- Requests not acknowledged: packet sequence number of the first packet, type, data. -/
  unacked : List (Nat × Nat × List Nat) := []
  tries   : Nat := 0
  rc      : ℚ := 0
  rt      : ℚ := 0
  alpha   : ℚ := 1
  periods : Nat := 0
  cnpAt   : Option Nat := none
  deriving DecidableEq, Repr

/-- What a job member keeps of a peer entry (R412, R428): 0 ABSENT, 1 READY, 2 FENCED, 3 LOST, 4 REJOINING; the epoch kept
for it; the member's own epoch that it last acknowledged; and its STEP_RECs by job step number, as JSN, B, n, kind and the elements. -/
structure PeerSt where
  st    : Nat := 0
  epoch : Nat := 0
  acked : Nat := 0
  recs  : Tab (List Nat) := []
  deriving DecidableEq, Repr

/-- An exchange record (R419): elements of the member's own contribution written so far, the ranks whose contribution is
complete, and the ranks replaced by NaN. -/
structure Xch where
  written : Tab Nat := []
  done    : List Nat := []
  lost    : List Nat := []
  deriving DecidableEq, Repr

/-- A context as a job member (R412, R416, R424): 0 NONE, 1 RUNNING, 2 HELD; its epoch; the last job step number committed
and the last given out; its creation count of sequences; consecutive suspect steps; ranks of mismatch in this step. -/
structure Job where
  st      : Nat := 0
  epoch   : Nat := 0
  step    : Nat := 0
  given   : Nat := 0
  jsn     : Nat := 0
  suspect : Nat := 0
  peers   : Tab PeerSt := []
  xchs    : Tab Xch := []
  /-- FENCE_NOTICEs sent whose acknowledgement is awaited (R425). -/
  notice  : Bool := false
  /-- The STEP_RECs sent, by job step number, as JSN, B, n and kind, until those of all others have come (R421, R426). -/
  recs    : Tab (List Nat) := []
  /-- SELF_FENCE: the context has been fenced, and its work is to be ended (R424). -/
  wantFence : Bool := false
  deriving DecidableEq, Repr

/-- Records that a context serves to a peer (R413): peer entry, kind (1 ware, 4 key/value), next record, records left, free
slots granted, the next slot and the slot count, and for a ware its digest, for a key/value answer its sequence index and JSN. -/
structure Serving where
  peer    : Nat := 0
  /-- The queue pair on which it was asked, and the request number (R411). -/
  qp      : Nat := 0
  sn      : Nat := 0
  kind    : Nat := 1
  next    : Nat := 0
  left    : Nat := 0
  credits : Nat := 0
  args    : List Nat := []
  /-- Bytes of the present record already sent. -/
  sent    : Nat := 0
  /-- A key/value answer: where the records of each layer stand (in a page, address, bytes), and the frames and segments pinned (R327). -/
  locs    : List (List (Bool × Nat × Nat)) := []
  pins    : List Nat := []
  deriving DecidableEq, Repr

/-- A request for records of a ware or of key/value data that a context makes of a peer (R413, R422), the first of its list under way:
handle slot and generation of its command, the peer's control queue pair, type (1 WARE_REQ, 4 KV_REQ), body but for the credits,
and records still to come. -/
structure Ask where
  h    : Nat := 0
  gen  : Nat := 0
  qp   : Nat := 0
  ty   : Nat := 1
  args : List Nat := []
  left : Nat := 1
  deriving DecidableEq, Repr

/-- A record that arrives in chunks in a context's fetch buffer (R414): its number and its bytes so far. -/
structure Fetch where
  peer  : Nat := 0
  rec_  : Nat := 0
  bytes : List Nat := []
  deriving DecidableEq, Repr


/-! ### Clocks, power, temperature, board (ch. 16, 19) -/

/-- The check of a clock source (R563 to R565): measurements in window and out of window in a row, the deviation of the last
one in ppm, and whether the source has failed since the last cold reset. -/
structure Clk where
  good : Nat := 0
  outs : Nat := 0
  dev  : Int := 0
  fell : Bool := false
  deriving DecidableEq, Repr

/-- A thermometer (R578, R579): last sample in sixteenths of a degree, whether it reads, whether it is suspect, samples in a
row that speak for a change of that mark. -/
structure Thermo where
  temp    : Int := 0
  valid   : Bool := false
  suspect : Bool := false
  run     : Nat := 0
  deriving DecidableEq, Repr

/-- What the cone logic keeps of a bay (R580, R581, R583): the last ten temperatures in units of 1/64 °C, newest first; the
device times of the last samples at or above cone A, B and C (plus one). -/
structure Cone where
  hist : List Int := []
  atA  : Nat := 0
  atB  : Nat := 0
  atC  : Nat := 0
  deriving DecidableEq, Repr

/-- The power governor (R47, R48): samples of the running 1 ms window and their sums of package and array power, in 1/800 W as
the projections take them; consecutive samples at least 20 W below both budgets; consecutive samples at both floors and
above budget; sensed package and array power of the last 100 samples, newest first, in 1/8 W; THERM_IN_N and a board
channel reduced the budget at the last sample. -/
structure Gov where
  n     : Nat := 0
  pkg   : Nat := 0
  arr   : Nat := 0
  calm  : Nat := 0
  floor : Nat := 0
  hist  : List (Nat × Nat) := []
  therm : Bool := false
  brd   : Bool := false
  deriving DecidableEq, Repr

/-- The board and supply side (R638 to R649): PERST_N asserted; inputs within a hold, with a deferred level, by input (0
ALERT_IN_N, 1 THERM_IN_N, 2 PERST_N); rails below their trip or out of window; THERMTRIP_N asserted; the cause recorded in
PD23 for the cold reset to come; the levels outside drives on the GPIOs. -/
structure Board where
  perst    : Bool := true
  holding  : List Nat := []
  deferred : Tab Nat := []
  rails    : List Nat := []
  tripped  : Bool := false
  cause    : Nat := 0
  gpio     : Nat := 0
  /-- Board channels with ACT above their limit, and above their limit at all, as bit masks. -/
  brdAct   : Nat := 0
  brdHi    : Nat := 0
  /-- Every package held in reset until the crystal is sound again (R568). -/
  xtalHeld : Bool := false
  deriving DecidableEq, Repr


/-! ### Checks for silent errors (ch. 14) -/

/-- What a checker keeps of a column group of a tile-layer (R509, R518): samples judged; for each column, the number of its
last soft outlier's sample; capture time of the last passing sample, plus one. -/
structure GroupS where
  n       : Nat := 0
  last    : Tab Nat := []
  cleanAt : Nat := 0
  deriving DecidableEq, Repr

/-- The sampling plan of a context in a bay (R505): its image; credit in units of 10^-11 sample, at device time `at_`; the
entry that starts the round robin; current weights and column-group cursors by entry. -/
structure BayPlan where
  im     : Nat := 0
  credit : Nat := 0
  at_    : Nat := 0
  start  : Nat := 0
  cur    : Tab Int := []
  cursor : Tab Nat := []
  deriving DecidableEq, Repr

/-- A cross-check round (R512 to R514): suite (0 VEC, 1 GLZ, 2 QNT, 3 ACC, 4 ATT; 5 and 6 the retest of a scan finding on a
vector unit and on a glaze slice), its two units, seed, start; stage 0 first run, 1 repeat, 2 third unit, 3 retest of unit `a`
after its engine reset; the signatures of the repeat. -/
structure Round where
  suite : Nat := 0
  a     : Nat := 0
  b     : Nat := 0
  seed  : Nat := 0
  stage : Nat := 0
  sigA  : Nat := 0
  sigB  : Nat := 0
  start : Nat := 0
  deriving DecidableEq, Repr


/-! ### The monitor ADC (ch. 17) -/

/-- A request for a conversion (R598, R604). -/
structure AdcReq where
  ch     : Nat := 0
  urgent : Bool := false
  pull   : Nat := 0
  deriving DecidableEq, Repr

/-- The monitor ADC: its queues, oldest first; the conversion that runs, whether its result also answers an urgent request and
whether it is a repeat (R599, R607); conversions that still carry SETTLE; a calibration that runs or pauses, the time of the
last one and the hub's median temperature then, in 1/64 °C; latest pull-up and pull-down results, plus one, and those of a pair
that is not yet judged; overranges logged since the sticky bit was cleared, by channel, low and high. -/
structure Madc where
  normal  : List AdcReq := []
  urgent  : List AdcReq := []
  run     : Option AdcReq := none
  both    : Bool := false
  rep     : Bool := false
  settle  : Nat := 0
  cal     : Bool := false
  calAt   : Nat := 0
  calTemp : Int := 0
  /-- The channels whose STALE a running calibration found 1 (R605). -/
  stale   : List Nat := []
  pu      : Tab Nat := []
  pd      : Tab Nat := []
  loLog   : List Nat := []
  hiLog   : List Nat := []
  deriving DecidableEq, Repr

/-- The state of the block.  Each field is described by the structure that holds it; `pending` is the queue of commands
that wait, first in first out; `free` is the model's own counter of free values drawn so far. -/
structure State where
  /-- Commands that wait, oldest first. -/
  pending : List Instr := []
  /-- Messages sent out, newest first. -/
  out     : List Msg := []
  /-- Device time in ns (R14). -/
  now     : Nat := 0
  /-- Free values drawn so far (the model's own). -/
  free    : Nat := 0
  fuses   : Fuses := {}
  /-- Register words that differ from their reset value, by register key. -/
  regs    : Tab Word := []
  /-- Buffered RWB writes by register key (R451). -/
  rwb     : Tab BufW := []
  strobes : List Strobe := []
  /-- _LO values held for writable pairs, and latched _HI values, by register key × 64 + source (R447). -/
  heldLo  : Tab Nat := []
  latched : Tab Nat := []
  fns     : Tab Fn := []
  pcie    : Pcie := {}
  /-- Device memory (R290): the bytes that are not zero. -/
  mem     : List Host.Cell := []
  /-- Poisoned words by device address (R288). -/
  poison  : Tab Nat := []
  /-- Poisoned words of the stores without a device address, by store × 2^40 + index (R305). -/
  poisonX : Tab Nat := []
  /-- Ranges of HBM whose data was declared lost and has not been written since, as closed-open pairs (R567). -/
  lost    : List (Nat × Nat) := []
  /-- Device time of the last correction of a word (R289). -/
  corrected : Tab Nat := []
  hbm     : Tab HbmCh := []
  shadow  : Tab Shadow := []
  units   : Tab FUnit := []
  crossings : Tab Crossing := []
  parts   : Tab Part := []
  pkg     : Pkg := {}
  sil     : Sil := {}
  /-- Power domains PD00 to PD23 (R572): 0 OFF, 1 ON, 2 SWITCHING. -/
  pd      : Tab Nat := [(23, 1)]
  /-- Images held by the contexts, by image number, and the next number. -/
  images  : Tab Image := []
  imgNext : Nat := 0
  tiles   : Tab Tile := []
  /-- Calibration store and programming state by tile_id × 4 + layer. -/
  tlayers : Tab TLayer := []
  /-- Levels of cells by (tile_id × 4 + layer) × 2^21 + row × 2^11 + physical column (R80, R81). -/
  cells   : Tab Nat := []
  pools   : Tab TokPool := []
  /-- Accumulation passes by cluster × 64 + bank × 32 + part. -/
  acc     : Tab AccPass := []
  /-- Passes that have taken a bank so far. -/
  accNext : Nat := 0
  /-- Faults of parts without a bank yet, by cluster × 32 + part. -/
  accLate : Tab (List Late) := []
  /-- Held vectors of the quantisers, oldest first, by image × 2^12 + pass group; input vectors numbered so far; what is fixed
  for the passes of a vector, by its number. -/
  quant   : Tab (List QVec) := []
  vecNext : Nat := 0
  passes  : Tab PassCtl := []
  /-- Sums that the vector units of home clusters gather, oldest first (R130). -/
  homeSums : List HomeSum := []
  /-- Work of the glaze slices, oldest first, by cluster. -/
  glz     : Tab (List GlzJob) := []
  /-- Adapters by image × 2^16 + index. -/
  adapters : Tab Adapter := []
  dbg     : Dbg := {}
  /-- Cone level of each bay (R581): 0 none, 1 A, 2 B, 3 C. -/
  cone    : Tab Nat := []
  /-- Samples of each bay's checker, oldest first. -/
  samples : Tab (List Sample) := []
  /-- Thread contexts by cluster × 4096 + number, slot descriptors by cluster × 32768 + index, held arrivals by cluster,
  instruction words by cluster × 16384 + index (R239). -/
  vctx    : Tab VCtx := []
  vslots  : Tab VSlot := []
  vheld   : Tab (List VArr) := []
  /-- The contexts of each cluster that are READY, in the order in which they became so (R248). -/
  vready  : Tab (List Nat) := []
  vstore  : Tab Nat := []
  /-- Queues by function × 64 + queue; the turn of the weighted round robin and the fetches left in it (R349). -/
  queues  : Tab QueueS := []
  turn    : Nat := 0
  turnLeft : Nat := 0
  /-- Commands in flight by slot; generations of the slots (a slot not listed is at 1); slots never used yet from `slotNew`
  on, and the freed ones in the order in which they were freed (R357). -/
  cmds    : Tab Cmd := []
  slotGen : Tab Nat := []
  slotNew : Nat := 0
  slotFree : List Nat := []
  accepted : Nat := 0
  /-- Contexts by partition × 32 + function. -/
  ctxs    : Tab Ctx := []
  /-- Registered entries by image number, and the turn of each role by image × 4 + role. -/
  entries : Tab (List EntryE) := []
  entryTurn : Tab Nat := []
  /-- Program operations by tile_id × 4 + layer, and the number accepted. -/
  progs   : Tab ProgOp := []
  progNext : Nat := 0
  /-- Sums of probe codes by (tile × 8 + layer, or 4 for the tile as a whole) × 128 + kind, and + 64 those of a measurement that
  is not complete. -/
  probes  : Tab ProbeSum := []
  cal     : Tab BayCal := []
  /-- Bays whose soak is requested, in the order of the requests. -/
  soakQ   : List Nat := []
  /-- Bay temperatures and their rise over ten samples, in units of 1/64 °C (R173, R581). -/
  bayT    : Tab Int := []
  bayRate : Tab Int := []
  /-- Die reference mirrors in parts per million (R163). -/
  mirrors : Tab Int := []
  /-- Silset's UTC in seconds, at device time `utcAt` (R187). -/
  utc     : Nat := 0
  utcAt   : Nat := 0
  /-- The IEEE 1588 ordinary clock (R404). -/
  ptp     : Ptp := {}
  findings : List Finding := []
  remaps  : List Remap := []
  descs   : Tab Desc := []
  /-- Frames and slip segments that wait for their pins to drain. -/
  releasing : List Frame := []
  /-- Pins by frame or segment address and reader (R327): a bay, or 0x40 a copy, 0x41 a checkpoint, 0x42 a peer. -/
  pins    : List (Nat × Nat) := []
  seqs    : Tab Seq := []
  binds   : Tab Bind := []
  prefixes : List Prefix := []
  gens    : Tab Gen := []
  ports   : Tab Port := []
  /-- Queue pairs by number. -/
  qps     : Tab QPair := []
  jobs    : Tab Job := []
  /-- Requests served, and records arriving, by context. -/
  serving : Tab (List Serving) := []
  /-- Requests for records that contexts make of peers, in turn. -/
  asks    : Tab (List Ask) := []
  fetches : Tab (List Fetch) := []
  /-- Descriptors whose references the snapshots of running CHECKPOINTs hold, by slot (R381). -/
  snaps   : Tab (List Nat) := []
  /-- Parts of a job sequence that a CHECKPOINT has received from other holders, by slot × 2^12 + rank × 64 + layer. -/
  kvParts : Tab (List Nat) := []
  /-- Clock sources by their number (R562), thermometers by their index (R578), cone logic by bay, present VCORE codes of the
  dies (R589), partitions whose power switching is under way with the state asked for (R573, R574: 1 off, 2 on). -/
  clks    : Tab Clk := []
  thermos : Tab Thermo := []
  cones   : Tab Cone := []
  vcode   : Tab Nat := []
  ptPower : Tab Nat := []
  gov     : Gov := {}
  board   : Board := {}
  /-- Column groups by (tile-layer × 2 + transposed) × 8 + group; the last passing chain comparison of each accumulation unit
  (time plus one); sampling plans by context × 64 + bay; rounds under way; the last passing round by suite × 2^16 + unit and the
  last passing scan by cluster (times plus one); times of the transients of a unit, by unit key; the end of the boost of each
  partition (R505, R509, R514, R518, R520). -/
  chkGroups : Tab GroupS := []
  chkChain : Tab Nat := []
  plans   : Tab BayPlan := []
  rounds  : List Round := []
  roClean : Tab Nat := []
  scanClean : Tab Nat := []
  transients : Tab (List Nat) := []
  boosts  : Tab Nat := []
  madc    : Madc := {}
  deriving DecidableEq, Repr

/-- The machine right after reset: PD23 has just left power-on reset (R647, phase BOOT), every register at the value its
table gives, nothing in memory, no command waiting. DESIGN CHOICE (log entries 2, 3). -/
def State.reset : State := {}

/-- The reasons for which a command stops with a fault. -/
inductive Fault where
  /-- Raised by no meaning of this model: every command has an effect.  Safe. -/
  | none
  deriving DecidableEq, Repr

/-- The reasons for which a command is refused. -/
inductive Refusal where
  /-- The command has no meaning in the model yet; raised by the arm of `exec` alone.  Safe. -/
  | notModelled (mnemonic : String)
  deriving DecidableEq, Repr

end Sys2Proof.Machine
end

