-- ==== Sys2Proof/Machine/Ops.lean ====
section
/-! DEFINITION. The operations every family of commands shares: registers, the kiln log, interrupts and error records, the
geometry of the package, units and fences, device memory. -/

namespace Sys2Proof.Machine

/-- What a command answers. -/
abbrev Out := Host.Outcome State Fault Refusal

/-- A command that ends in a next state. DESIGN CHOICE (log entry 5). -/
def done (s : State) : Out := .next s

/-- A change of the state under a condition. -/
def whenS (c : Bool) (f : State → State) (s : State) : State := if c then f s else s

/-- A message sent out. -/
def emit (m : Msg) (s : State) : State := { s with out := m :: s.out }

/-! ### Registers -/

/-- The key of instance `inst` of a register. -/
def regKey (r : Reg) (inst : Nat) : Nat := r.ctorIdx * 2 ^ 20 + inst % 2 ^ 20

/-- The reset value of a register; the quotas of R389 and R394 differ between the physical and the virtual functions.
DESIGN CHOICE (log entry 2). -/
def resetOf (r : Reg) (inst : Nat) : Word :=
  match r with
  | .QM_FN_QUOTA => if inst = 0 then 0x1000 else 0x80
  | .SRV_FN_PFX_QUOTA => if inst = 0 then 0x4000 else 0x800
  | r => BitVec.ofNat 32 r.desc.reset

/-- The stored word of a register. -/
def rd (s : State) (r : Reg) (inst : Nat := 0) : Word := tget (resetOf r inst) s.regs (regKey r inst)

/-- The state with the word of a register replaced. -/
def wr (r : Reg) (inst : Nat) (w : Word) (s : State) : State :=
  { s with regs := tset (resetOf r inst) s.regs (regKey r inst) w }

/-- Field `[hi:lo]` of a register. -/
def rf (s : State) (r : Reg) (hi lo : Nat) (inst : Nat := 0) : Nat := fld (rd s r inst) hi lo

/-- Bit `i` of a register. -/
def rb (s : State) (r : Reg) (i : Nat) (inst : Nat := 0) : Bool := (rd s r inst).toNat.testBit i

/-- The state with field `[hi:lo]` of a register replaced. -/
def wrf (r : Reg) (hi lo v : Nat) (inst : Nat := 0) (s : State) : State := wr r inst (setFld (rd s r inst) hi lo v) s

/-- The state with bit `i` of a register set: how an event sets a W1C bit. An event after a clear finds the bit clear
(R79), since commands are applied one at a time. -/
def setEv (r : Reg) (i : Nat) (inst : Nat := 0) (s : State) : State := wrf r i i 1 inst s

/-- A counter that wraps at 2^32 advanced by `n`. -/
def bump (r : Reg) (n : Nat := 1) (inst : Nat := 0) (s : State) : State :=
  wr r inst (BitVec.ofNat 32 ((rd s r inst).toNat + n)) s

/-- A counter in `[hi:lo]` that saturates, advanced by `n`. -/
def bumpSat (r : Reg) (hi lo : Nat) (n : Nat := 1) (inst : Nat := 0) (s : State) : State :=
  wrf r hi lo (satAdd (2 ^ (hi + 1 - lo) - 1) (rf s r hi lo inst) n) inst s

/-- A 64-bit counter in a _LO and _HI pair advanced by `n`; it wraps at 2^64. -/
def bump64 (lo hi : Reg) (n : Nat := 1) (inst : Nat := 0) (s : State) : State :=
  let v := (rd s lo inst).toNat + 2 ^ 32 * (rd s hi inst).toNat + n
  wr hi inst (BitVec.ofNat 32 (v >>> 32)) (wr lo inst (BitVec.ofNat 32 v) s)

/-- A register returned to its reset value. -/
def resetReg (r : Reg) (inst : Nat := 0) (s : State) : State := wr r inst (resetOf r inst) s

/-- Registers returned to their reset values. -/
def resetRegs (rs : List Reg) (inst : Nat := 0) (s : State) : State := foldS rs (fun r => resetReg r inst) s

/-- All instances of the registers `rs` returned to their reset values, buffered writes with them (R453). -/
def resetAllRegs (rs : List Reg) (s : State) : State :=
  let ks := rs.map fun r => r.ctorIdx
  { s with regs := tdrop (fun k => ks.contains (k / 2 ^ 20)) s.regs,
           rwb := tdrop (fun k => ks.contains (k / 2 ^ 20)) s.rwb }

/-! ### Geometry (R17, R18, R34, R35, R475) -/

/-- The partition count in force (R493). -/
def splitN (s : State) : Nat := rf s .RST_SPLIT 3 0

/-- The partition count applied at the next package reset (R493). -/
def splitNext (s : State) : Nat := rf s .RST_SPLIT 7 4

/-- Compute die `d` is enabled (R3). -/
def dieOn (s : State) (d : Nat) : Bool := decide (d < 8) && s.fuses.dieMask.testBit d

/-- Partition `p` is ABSENT: in the 8-way split, its compute die is disabled (R35). -/
def ptAbsent (s : State) (p : Nat) : Bool := decide (splitN s = 8) && !dieOn s p

/-- The partition of compute die position `d` (R34). -/
def ptOfDie (s : State) (d : Nat) : Nat := d * splitN s / 8

/-- The partition of buffer-die half `g` or channel group `g`; that of an ABSENT partition belongs to the partition that
shares its buffer die (R34, R35). -/
def ptOfGroup (s : State) (g : Nat) : Nat :=
  let p := ptOfDie s g
  if ptAbsent s p then (if p % 2 = 0 then p + 1 else p - 1) else p

/-- Partition `p` exists under the present split. -/
def ptExists (s : State) (p : Nat) : Bool := decide (p < splitN s) && !ptAbsent s p

/-- The enabled compute dies of partition `p`. -/
def diesOfPt (s : State) (p : Nat) : List Nat := (List.range 8).filter fun d => dieOn s d && ptOfDie s d == p

/-- The channel groups, and equally the buffer-die halves, of partition `p`. -/
def groupsOfPt (s : State) (p : Nat) : List Nat := (List.range 8).filter fun g => ptOfGroup s g == p

/-- The compute die position of unit `kind`, `index` (R475). -/
def dieOfUnit (kind index : Nat) : Nat :=
  if kind = 0 then index / 1536
  else if kind ≤ 3 then index / 48
  else if kind ≤ 8 then index / 6
  else index

/-- The partition of a unit, where it has one. -/
def ptOfUnit (s : State) (kind index : Nat) : Nat :=
  if kind = 10 then index
  else if kind = 11 then 0xFF
  else if kind = 12 || kind = 13 then ptOfGroup s index
  else ptOfDie s (dieOfUnit kind index)

/-- The units that contain a unit (R476): the bay of a unit of KIND 0 to 7, and the partition. -/
def containers (s : State) (kind index : Nat) : List (Nat × Nat) :=
  let bay := if kind = 0 then [(8, index / 256)]
    else if kind ≤ 3 then [(8, index / 8)]
    else if kind ≤ 7 then [(8, index)]
    else []
  if kind = 10 || kind = 11 then [] else bay ++ [(10, ptOfUnit s kind index)]

/-- The units of each KIND (R475). -/
def unitCount (kind : Nat) : Nat :=
  match kind with
  | 0 => 12288 | 1 => 384 | 2 => 384 | 3 => 384 | 4 => 48 | 5 => 48 | 6 => 48 | 7 => 48 | 8 => 48
  | 9 => 8 | 10 => 8 | 11 => 32 | 12 => 8 | 13 => 8 | _ => 0

/-- A unit exists: its index is within its KIND, and its die is not disabled (R484). -/
def unitExists (s : State) (kind index : Nat) : Bool :=
  decide (index < unitCount kind) &&
  (if kind ≤ 9 then dieOn s (dieOfUnit kind index)
   else if kind = 10 then ptExists s index else true)

/-! ### Units, fences, power domains -/

/-- The key of a unit of R475. -/
def ukey (kind index : Nat) : Nat := kind * 2 ^ 16 + index

/-- The fence and reset state of a unit. -/
def unitOf (s : State) (kind index : Nat) : FUnit := tget {} s.units (ukey kind index)

/-- The state with the fence and reset state of a unit changed. -/
def modUnit (kind index : Nat) (f : FUnit → FUnit) (s : State) : State :=
  { s with units := tmod {} s.units (ukey kind index) f }

/-- A unit holds a fence: a reason, or a drain that the removal of its last reason has not shortened (R476, R478). -/
def FUnit.fence (u : FUnit) : Bool := u.reasons != 0 || u.draining

/-- The unit, or a unit that contains it, is fenced (R476). -/
def fenced (s : State) (kind index : Nat) : Bool :=
  ((kind, index) :: containers s kind index).any fun u => (unitOf s u.1 u.2).fence

/-- The unit, or a unit that contains it, is held in reset. -/
def inReset (s : State) (kind index : Nat) : Bool :=
  ((kind, index) :: containers s kind index).any fun u => (unitOf s u.1 u.2).inReset

/-- The registers of a tile are out of reach: a fence or a reset of the tile or of a unit that contains it, but for the mark FAILED
of the tile itself (R109, R456). -/
def tileDown (s : State) (tile : Nat) : Bool :=
  let t := unitOf s 0 tile
  setBits t.reasons 7 7 0 != 0 || t.draining || t.inReset ||
    (containers s 0 tile).any fun u => (unitOf s u.1 u.2).fence || (unitOf s u.1 u.2).inReset

/-- The fence generation of a unit (R477): fences placed on it or on a unit that contains it. DESIGN CHOICE (log entry 23). -/
def fgenOf (s : State) (kind index : Nat) : Nat :=
  (((kind, index) :: containers s kind index).map fun u => (unitOf s u.1 u.2).fgen).sum % 2 ^ 16

/-- A requester slot of a unit opens for a request, and closes with its answer, which advances its generation (R477).
DESIGN CHOICE (log entry 58). -/
def openReq (kind index slot : Nat) (s : State) : State :=
  modUnit kind index (fun u => { u with slots := tmod {} u.slots slot fun x =>
    { x with busy := true, fgen := fgenOf s kind index % 256 } }) s
def closeReq (kind index slot : Nat) (s : State) : State :=
  modUnit kind index (fun u => { u with slots := tmod {} u.slots slot fun x =>
    { gen := (x.gen + b2n x.busy) % 256, busy := false } }) s

/-- All three parts of a reply's tag match an open slot of the requester (R477). DESIGN CHOICE (log entry 23). -/
def tagOk (s : State) (kind index slot gen fgen : Nat) : Bool :=
  tget {} (unitOf s kind index).slots slot == { gen := gen, busy := true, fgen := fgen }

/-- Every open request of a unit is answered or abandoned (R476, R477). -/
def closeAll (kind index : Nat) (s : State) : State :=
  modUnit kind index (fun u => { u with slots := (u.slots.map fun e =>
    (e.1, ({ gen := (e.2.gen + b2n e.2.busy) % 256, busy := false } : Slot))).filter fun e => e.2 != {} }) s

/-- A power domain is on (R572). -/
def pdOn (s : State) (n : Nat) : Bool := tget 0 s.pd n == 1

/-- The digital domain of die `d` is on. -/
def digOn (s : State) (d : Nat) : Bool := dieOn s d && pdOn s (8 + d)

/-- The analogue domain of die `d` is on, which R32 allows only while the digital one is. -/
def anaOn (s : State) (d : Nat) : Bool := digOn s d && pdOn s d

/-- The domains of a unit are powered. The hub's own units (KIND 11, 13) have no die domain. -/
def unitPowered (s : State) (kind index : Nat) : Bool :=
  if kind ≤ 9 then digOn s (dieOfUnit kind index)
  else if kind = 12 then pdOn s (16 + index / 2)
  else if kind = 13 then pdOn s 22 else true

/-- A unit finishes the requests it has admitted: powered, not in reset, and every fence on it or on a unit that contains it still
drains (R476). -/
def unitWorks (s : State) (kind index : Nat) : Bool :=
  unitPowered s kind index && !inReset s kind index &&
    ((kind, index) :: containers s kind index).all fun u => (unitOf s u.1 u.2).reasons == 0 || (unitOf s u.1 u.2).draining

/-- A unit can take requests: powered, not fenced, not in reset. -/
def unitUp (s : State) (kind index : Nat) : Bool :=
  unitPowered s kind index && !fenced s kind index && !inReset s kind index

/-- The package accepts commands: READY of HUB_BOOT_STAT (R650). -/
def pkgReady (s : State) : Bool := rb s .HUB_BOOT_STAT 4

/-- The start-up phase (R650). -/
def phase (s : State) : Nat := rf s .HUB_BOOT_STAT 3 0

/-! ### The kiln log (R535 to R539) -/

/-- Silset takes log events itself: its firmware runs, or the boot ROM in RECOVERY does. -/
def silUp (s : State) : Bool := s.sil.state == 1 || s.sil.state == 3

/-- An entry is mirrored to flash (R538). -/
def mirrored (s : State) (e : LogEntry) : Bool := decide (3 ≤ e.sev) || (e.cls == 1 && rb s .SIL_CTRL 0)

/-- The mirror queue without its newest JOURNAL entry, or none where it holds no JOURNAL entry. -/
def dropNewestJournal (q : List LogEntry) : Option (List LogEntry) :=
  if q.any (fun e => e.cls == 1) then
    some (q.reverse.eraseP (fun e => e.cls == 1)).reverse
  else none

/-- An entry reaches the mirror queue of 256 entries (R538). -/
def putMirror (e : LogEntry) (s : State) : State :=
  if !mirrored s e then s
  else if s.sil.mirrorQ.length < 256 then { s with sil.mirrorQ := s.sil.mirrorQ ++ [e] }
  else if e.cls == 1 then bumpSat .SIL_LOG_LOST 31 16 1 0 s
  else match dropNewestJournal s.sil.mirrorQ with
    | some q => bumpSat .SIL_LOG_LOST 31 16 1 0 { s with sil.mirrorQ := q ++ [e] }
    | none => bumpSat .SIL_LOG_LOST 31 16 1 0 s

/-- The state of MSI-X function `fn`. -/
def fnOf (s : State) (fn : Nat) : Fn := tget {} s.fns fn

/-- The state with the host-interface state of a function changed. -/
def modFn (fn : Nat) (f : Fn → Fn) (s : State) : State := { s with fns := tmod {} s.fns fn f }

/-- Vector `vec` of a function is masked by the function or by its own bit (R443). -/
def vecMasked (s : State) (fn vec : Nat) : Bool := (fnOf s fn).fmask || tget 0 (fnOf s fn).unmasked vec == 0

/-- An event signals a vector inside the function's table: a message, or the pending bit of a masked vector (R443).
DESIGN CHOICE (log entry 14). -/
def sendMsix (fn vec : Nat) (s : State) : State :=
  if !(fnOf s fn).msixEn then s
  else if vecMasked s fn vec then modFn fn (fun f => { f with pend := tset 0 f.pend vec 1 }) s
  else emit (.msix fn vec) s

/-- The size of a function's MSI-X table (R435). -/
def vecCount (fn : Nat) : Nat := if fn = 0 then 2048 else 64

/-- An entry takes its SEQ and its place in the ring of 4,096, and its place in the mirror queue (R537, R538).  A
CRITICAL entry signals SIL_EVT_VEC (R560). -/
def putLog (e : LogEntry) (s : State) : State :=
  let e := { e with seq := s.sil.seq % 2 ^ 32 }
  let s := putMirror e { s with sil.seq := s.sil.seq + 1, sil.log := (e :: s.sil.log).take 4096 }
  whenS (e.sev == 4 && rb s .SIL_EVT_VEC 31) (sendMsix 0 (rf s .SIL_EVT_VEC 10 0)) s

/-- An event is logged: by Silset, or through the hardware event queue of 512 entries while Silset does not run (R529). -/
def logE (e : LogEntry) (s : State) : State :=
  let e := { e with time := s.now }
  if silUp s then putLog e s
  else if s.sil.evq.length < 512 then { s with sil.evq := s.sil.evq ++ [e] }
  else bumpSat .SIL_LOG_LOST 15 0 1 0 { s with sil.evLost := true }

/-- DATA of a SILSET entry: restart cause, program counter, entries lost (R536). -/
def silData (s : State) (cause : Nat) : List Nat := [cause, s.sil.pc, rf s .SIL_LOG_LOST 15 0, rf s .SIL_LOG_LOST 31 16]

/-- The entries of the hardware event queue are taken into the log, and an overflow is entered with its count (R529,
R556). -/
def drainEvq (s : State) : State :=
  let q := s.sil.evq
  let lost := s.sil.evLost
  let s := foldS q putLog { s with sil.evq := [], sil.evLost := false }
  whenS lost (putLog { cls := 0x0C, code := 2, sev := 2, source := 1, time := s.now,
                                    data := silData s 0 }) s

/-! ### Error records (R443, R455, R458, R459) -/

/-- The severity of the HOST entry of a CAUSE (R654). -/
def hostSev (cause : Nat) : Nat := if cause = 1 ∨ cause = 4 ∨ cause = 8 then 2 else if cause = 5 then 1 else 3

/-- A free value: the model's counter advances, and the value is the constant of Config applied to it.
DESIGN CHOICE (log entries 7, 9). -/
def drawFree (s : State) : Nat × State := (s.free, { s with free := s.free + 1 })

/-- The AER status of a function, as its HOST entries give it (R536). PRESUMED (log entry 15). -/
def aerStatus (s : State) (fn : Nat) : Nat := (fnOf s fn).aerStat

/-- The status bit of an uncorrectable error is set. -/
def aerMark (fn bit : Nat) (s : State) : State := modFn fn (fun f => { f with aerStat := setBits f.aerStat bit bit 1 }) s

/-- The four DWORDs of the header of a TLP whose fields the model does not hold: a free value. DESIGN CHOICE (log entry 114). -/
def freeHeader (n : Nat) : List Nat := (List.range 4).map fun i => (Config.freeBig n).toNat / 2 ^ (32 * i) % 2 ^ 32

/-- The header of the first uncorrectable error is recorded (R459). -/
def aerHeader (fn bit : Nat) (hdr : Option (List Nat)) (s : State) : State :=
  if (fnOf s fn).hdrLog.isSome then s
  else match hdr with
    | some h => modFn fn (fun f => { f with hdrLog := some (bit, h) }) s
    | none =>
      let d := drawFree s
      modFn fn (fun f => { f with hdrLog := some (bit, freeHeader d.1) }) d.2

/-- The first error of its kind is entered in the kiln log (R459). -/
def aerFirst (fn key cause space : Nat) (s : State) : State :=
  if (fnOf s fn).aerSeen.contains key then s
  else logE { cls := 8, code := 9, sev := 3, func := fn, data := [cause, space, aerStatus s fn] }
    (modFn fn (fun f => { f with aerSeen := key :: f.aerSeen }) s)

/-- An uncorrectable error, by its bit of the AER status (20 Unsupported Request, 15 Completer Abort, 12 poisoned TLP, 19 ECRC): its
status is set, and where it is not masked it is reported with its severity, 2 fatal or 1 not, and its header recorded (R459).
PRESUMED (log entry 15). -/
def aerReport (fn bit cause space : Nat) (hdr : Option (List Nat)) (s : State) : State :=
  let s := aerMark fn bit s
  let f := fnOf s fn
  if f.uncMask.testBit bit then s
  else aerFirst fn bit cause space (aerHeader fn bit hdr (emit (.aer fn bit (if f.aerSev.testBit bit then 2 else 1)) s))

/-- A correctable error, by its bit of the AER status (R459, R464). PRESUMED (log entry 15). -/
def aerCorrect (fn bit : Nat) (s : State) : State :=
  let s := modFn fn (fun f => { f with corStat := setBits f.corStat bit bit 1 }) s
  if (fnOf s fn).corMask.testBit bit then s else aerFirst fn (32 + bit) 0 0 (emit (.aer fn bit 0) s)

/-- The AER error of a CAUSE of R455, where its row names one, by its bit. PRESUMED (log entry 15). -/
def aerKind (cause : Nat) : Option Nat :=
  if cause = 1 then some 20 else if cause = 7 then some 12 else if cause = 8 then none else some 15

/-- An error of R455, with the error that AER reports: the bit of HUB_ERR_STAT, the count, the first record, the log, the
interrupt (R458, R468, R469). `space` and `source` are coded as in HUB_ERR_INFO, whose FUNC is that of a host function's access. -/
def hubErrA (aer : Option Nat) (cause space addr func source : Nat) (write : Bool) (s : State) : State :=
  let s := setEv .HUB_ERR_STAT (cause - 1) 0 s
  let s := bumpSat .HUB_ERR_CNT 31 0 1 0 s
  let s := if rb s .HUB_ERR_INFO 31 then s else
    wr .HUB_ERR_INFO 0 (BitVec.ofNat 32 (cause + space * 2 ^ 4 + b2n write * 2 ^ 6 +
        (if source = 0 then func else 0) * 2 ^ 8 + source * 2 ^ 13 + 2 ^ 31))
      (wr .HUB_ERR_ADDR_HI 0 (BitVec.ofNat 32 (bitsOf addr 47 32))
        (wr .HUB_ERR_ADDR_LO 0 (BitVec.ofNat 32 addr) s))
  let s := match aer with
    | some k => aerMark func k s
    | none => s
  let s := logE { cls := 8, code := cause, sev := hostSev cause, source := source, func := if source = 0 then func else 0xFF,
                  addr := addr, data := [cause, space, aerStatus s func] } s
  let s := match aer with
    | some k => aerReport func k cause space none s
    | none => s
  whenS (rb s .HUB_IRQ_EN (cause - 1)) (sendMsix 0 (rf s .HUB_IRQ_VEC 10 0)) s

/-- An error of R455 with the AER error of its CAUSE where a host function made the access. -/
def hubErr (cause space addr func source : Nat) (write : Bool) (s : State) : State :=
  hubErrA (if source = 0 then aerKind cause else none) cause space addr func source write s

/-- An event signals vector `vec` of function `fn`; a number beyond the table is a bus error with cause VECTOR (R443). -/
def signal (fn vec : Nat) (s : State) : State :=
  if vec < vecCount fn then sendMsix fn vec s else hubErr 8 3 0 fn 3 false s

/-- An event of a block signals the vector of its EVT_VEC register while EN is 1. -/
def signalVec (r : Reg) (s : State) : State := whenS (rb s r 31) (signal 0 (rf s r 10 0)) s

/-! ### Device memory (R283, R288, R290 to R292) -/

/-- What a byte address of the 48-bit device address space belongs to. -/
inductive Place where
  | hbm (group : Nat)
  | scratch (cluster : Nat)
  | bayBuf (bay : Nat)
  | bufDie (half : Nat)
  | mirror
  | reserved
  deriving DecidableEq, Repr

/-- The device address map (R290). -/
def placeOf (a : Nat) : Place :=
  if a < 0x1800000000 then .hbm (a / 0x300000000)
  else if a < 0x4000000000 then .reserved
  else if a < 0x4018000000 then .scratch ((a - 0x4000000000) / 0x100000)
  else if a < 0x4100000000 then .reserved
  else if a < 0x4118000000 then .bayBuf ((a - 0x4100000000) / 0x800000)
  else if a < 0x4200000000 then .reserved
  else if a < 0x4260000000 then .bufDie ((a - 0x4200000000) / 0xC000000)
  else if a < 0x5000000000 then .reserved
  else if a < 0x5004000000 then .mirror
  else .reserved

/-- The partition a place belongs to, where it has one. -/
def ptOfPlace (s : State) (p : Place) : Option Nat :=
  match p with
  | .hbm g => some (ptOfGroup s g)
  | .scratch c => some (ptOfDie s (c / 48))
  | .bayBuf b => some (ptOfDie s (b / 6))
  | .bufDie h => some (ptOfGroup s h)
  | .mirror => none
  | .reserved => none

/-- The place is in a reserved range or in the range of a disabled die (R290). -/
def unimplemented (s : State) (p : Place) : Bool :=
  match p with
  | .scratch c => !dieOn s (c / 48)
  | .bayBuf b => !dieOn s (b / 6)
  | .reserved => true
  | _ => false

/-- The unit of R475 whose power and fence state guards a place. DESIGN CHOICE (log entry 81). -/
def guardOf (p : Place) : Option (Nat × Nat) :=
  match p with
  | .hbm g => some (13, g)
  | .scratch c => some (8, c / 8)
  | .bayBuf b => some (8, b)
  | .bufDie h => some (12, h)
  | _ => none

/-- Who makes an access (R292): the PF's DMA or BAR4, anything confined to one partition, or Silset. -/
inductive Accessor where
  | pf
  | inPt (pt : Nat)
  | silset
  deriving DecidableEq, Repr

/-- A byte at `p` is not admitted for the accessor: another partition's range, or the register mirror (R290, R292). -/
def notAdmitted (s : State) (a : Accessor) (p : Place) : Bool :=
  match a with
  | .silset => false
  | .pf => p == .mirror
  | .inPt k => p == .mirror || (match ptOfPlace s p with
    | some q => q != k
    | none => false)

/-- The boundary addresses at which an access of `n` bytes at `a` has to be judged: its first byte, its last byte and
every multiple of 64 KiB between them (no two places share 64 KiB). -/
def probeAddrs (a n : Nat) : List Nat :=
  a :: ((List.range (n / 0x10000 + 2)).map fun i => (a / 0x10000 + i) * 0x10000).filter fun b =>
    decide (a < b) && decide (b < a + n)

/-- The judgement of an access as a whole (R290): the CAUSE and the address of the first byte that causes it, or none
where the access is admitted. -/
def judge (s : State) (acc : Accessor) (a n : Nat) : Option (Nat × Nat) :=
  let ps := probeAddrs a n
  match ps.find? fun b => notAdmitted s acc (placeOf b) with
  | some b => some (2, b)
  | none => match ps.find? fun b => unimplemented s (placeOf b) with
    | some b => some (1, b)
    | none => none

/-- The judgement of an access of hub DMA for a function, of which a partition's context is acted on (R292). -/
def hubDma (s : State) (fn pt a n : Nat) : Option (Nat × Nat) := judge s (if fn = 0 then .pf else .inPt pt) a n

/-- The compute die through whose bridge buffer-die half `h` is reached: its own, or where that is disabled the other die bridged to
the buffer die (R278, R3). DEDUCED (log entry 119). -/
def viaDie (s : State) (h : Nat) : Nat := if dieOn s h then h else h / 2 * 2 + (1 - h % 2)

/-- An admitted access meets a unit that is off, fenced or in reset, the die network and the way to a buffer die among them (R278), or
an HBM channel group whose channels are not READY (R455, R476, R567). -/
def placeDown (s : State) (p : Place) : Bool :=
  (match guardOf p with
   | some (k, i) => !unitUp s k i
   | none => false) ||
  (match p with
   | .hbm g => (tget {} s.hbm (g * 8)).state != 2
   | .bufDie h => !unitUp s 9 (viaDie s h)
   | .scratch c => !unitUp s 9 (c / 48)
   | .bayBuf b => !unitUp s 9 (b / 6)
   | _ => false)

/-! ### Crossings and the ways through the package (R31, R278, R479) -/

/-- A crossing: kind 0 the hub bridge of a die, 1 the ring bridge of dies i and i + 1, 2 a buffer-die half bridge, 3 the port
of an HBM channel group, 4 the path to a PCIe function. -/
def xKey (kind index : Nat) : Nat := kind * 256 + index
def xOf (s : State) (k : Nat) : Crossing := tget {} s.crossings k
def modXing (k : Nat) (f : Crossing → Crossing) (s : State) : State := { s with crossings := tmod {} s.crossings k f }

/-- A crossing that is trained: bridges of a disabled die, the ring bridges that lead to one among them, never are (R31). -/
def xingLive (s : State) (k : Nat) : Bool :=
  let i := k % 256
  if k / 256 = 0 ∨ k / 256 = 2 then dieOn s i
  else if k / 256 = 1 then dieOn s i && dieOn s ((i + 1) % 8)
  else true

/-- The ring bridges of the shorter way round from one die to another, at most four; at equal lengths the ascending way (R31).
DESIGN CHOICE (log entry 104). -/
def ringWay (a b : Nat) : List Nat :=
  let up := (b + 8 - a) % 8
  if up ≤ 4 then (List.range up).map fun i => (a + i) % 8 else (List.range (8 - up)).map fun i => (b + i) % 8

/-- The crossings that traffic from compute die `a` to compute die `b` takes: the ring, or through the hub where that way leads to a
disabled die (R31). -/
def dieWay (s : State) (a b : Nat) : List Nat :=
  let ring := (ringWay a b).map (xKey 1)
  if ring.all (xingLive s) then ring else [xKey 0 a, xKey 0 b]

/-- The crossings between compute die `d` and a place (R31, R278). -/
def wayTo (s : State) (d : Nat) (p : Place) : List Nat :=
  match p with
  | .scratch c => dieWay s d (c / 48)
  | .bayBuf b => dieWay s d (b / 6)
  | .bufDie h => dieWay s d (viaDie s h) ++ [xKey 2 h]
  | .hbm g => [xKey 0 d, xKey 3 g]
  | .mirror => [xKey 0 d]
  | .reserved => []

/-- A request of a compute die to a place would have to cross a closed crossing (R479). -/
def wayClosed (s : State) (d : Nat) (p : Place) : Bool := (wayTo s d p).any fun k => (xOf s k).closed

/-- A request that would cross a closed crossing is answered with XRESET. DEDUCED (log entry 62). -/
def xreset (s : State) : State :=
  logE { cls := 3, code := 0x0B, sev := 1, data := [0, 0, 0] } (bump .RST_XRESET_CNT 1 0 (setEv .RST_STAT 7 0 s))

/-- The first address of an access that meets a unit that is down. -/
def firstDown (s : State) (a n : Nat) : Option Nat := (probeAddrs a n).find? fun b => placeDown s (placeOf b)

/-- The crossings between the hub and a place (R31, R278). -/
def hubWay (s : State) (p : Place) : List Nat :=
  match p with
  | .scratch c => [xKey 0 (c / 48)]
  | .bayBuf b => [xKey 0 (b / 6)]
  | .bufDie h => [xKey 0 (viaDie s h), xKey 2 h]
  | .hbm g => [xKey 3 g]
  | .mirror | .reserved => []

/-- An access of the hub would have to cross a closed crossing (R479). -/
def hubClosed (s : State) (p : Place) : Bool := (hubWay s p).any fun k => (xOf s k).closed

/-- The first address of an access of the hub that meets a unit that is down, or a closed crossing (R455, R480). -/
def hubDown (s : State) (a n : Nat) : Option Nat := (probeAddrs a n).find? fun b => placeDown s (placeOf b) || hubClosed s (placeOf b)

/-- An access of the hub that meets a closed crossing is answered with XRESET, which counts (R479). -/
def hubXreset (a n : Nat) (s : State) : State := whenS ((probeAddrs a n).any fun b => hubClosed s (placeOf b)) xreset s

/-- An access of a bay or a cluster of compute die `d` meets a unit that is down, or a closed crossing (R480). -/
def dieDown (s : State) (d a n : Nat) : Bool :=
  (firstDown s a n).isSome || (probeAddrs a n).any fun b => wayClosed s d (placeOf b)

/-- The word of the error-correcting code that holds the byte at `a`: 32 B in HBM, 8 B in SRAM (R288). -/
def eccBase (a : Nat) : Nat := if a < 0x1800000000 then a / 32 * 32 else a / 8 * 8

/-- The size of that word. -/
def eccLen (a : Nat) : Nat := if a < 0x1800000000 then 32 else 8

/-- The byte at `a` lies in a poisoned word. -/
def poisoned (s : State) (a : Nat) : Bool := tget 0 s.poison (eccBase a) == 1

/-- The canonical form of device memory: addresses strictly rising, and no byte equal to what an unlisted address reads
as. DESIGN CHOICE (log entry 4). -/
def Memory.wf (m : List Host.Cell) : Bool := twf (fun _ => 0) m

/-- One byte of device memory; memory that nothing has written reads as zero (R482, R647). DESIGN CHOICE (log entry 4). -/
def rdByte (s : State) (a : Nat) : Byte := tget 0 s.mem a

/-- One byte of device memory replaced. -/
def wrByte (a : Nat) (b : Byte) (s : State) : State := { s with mem := tset 0 s.mem a b }

/-- `n` bytes from `a`. -/
def rdBytes (s : State) (a n : Nat) : List Byte := (List.range n).map fun i => rdByte s (a + i)

/-- An access of `n` bytes at `a` touches a poisoned word (R288), or data that was declared lost (R567). -/
def anyPoison (s : State) (a n : Nat) : Bool :=
  s.poison.any (fun e => decide (e.1 < a + n) && decide (a < e.1 + eccLen e.1)) ||
  s.lost.any fun r => decide (r.1 < a + n) && decide (a < r.2)

/-- What is left of a range once `[a, b)` has been taken from it. -/
def cutRange (a b : Nat) (r : Nat × Nat) : List (Nat × Nat) :=
  [(r.1, min r.2 a), (max r.1 b, r.2)].filter fun x => decide (x.1 < x.2)

/-- Lost data that a write covers is lost no longer. -/
def found (a b : Nat) (l : List (Nat × Nat)) : List (Nat × Nat) := l.flatMap (cutRange a b)

/-- A write of `n` bytes at `a` covers the whole word at `w`. -/
def covers (a n w : Nat) : Bool := decide (a ≤ w) && decide (w + eccLen w ≤ a + n)

/-- The byte of a write may be performed: its word is not poisoned, or the write covers the word (R288). -/
def byteOk (s : State) (a n b : Nat) : Bool := !poisoned s b || covers a n (eccBase b)

/-- The bytes of a write that R288 admits are performed. -/
def wrBytesAux (a n : Nat) (ok : Nat → Bool) : Nat → List Byte → State → State
  | _, [], s => s
  | b, x :: xs, s => wrBytesAux a n ok (b + 1) xs (if ok b then wrByte b x s else s)

/-- Part of a write was refused for poison. -/
def wrRefused (s : State) (a n : Nat) : Bool :=
  s.poison.any fun e => decide (e.1 < a + n) && decide (a < e.1 + eccLen e.1) && !covers a n e.1

/-- The first poisoned word that a write covers only in part. -/
def firstRefused (s : State) (a n : Nat) : Nat :=
  ((s.poison.find? fun e => decide (e.1 < a + n) && decide (a < e.1 + eccLen e.1) && !covers a n e.1).map (·.1)).getD a

/-- The store code of HUB_MEM_POISON_HI (R305). -/
def storeCode (p : Place) : Nat :=
  match p with
  | .scratch _ => 0 | .bayBuf _ => 1 | .bufDie _ => 2 | .hbm _ => 3 | .mirror => 7 | .reserved => 7

/-- The location code of a place for a log entry. -/
def locOf (p : Place) : Nat × Nat := (guardOf p).getD (0xF, 0)

/-- A write of bytes at `a` to device memory (R283, R288): the words that are not poisoned and those the write covers are
written, covered words lose their poison, and POISON_WRITE is set where a word was refused, with its address and location in the
log (R300). -/
def wrBytes (a : Nat) (xs : List Byte) (s : State) : State :=
  let n := xs.length
  let t := wrBytesAux a n (byteOk s a n) a xs s
  let t := { t with poison := tdrop (fun w => covers a n w) t.poison, lost := found a (a + n) t.lost }
  if wrRefused s a n then
    let w := firstRefused s a n
    logE { cls := 2, code := 5, sev := 3, addr := w, kind := (locOf (placeOf w)).1, index := (locOf (placeOf w)).2,
           data := [storeCode (placeOf w), 1] }
      (setEv .HUB_MEM_ERR_STAT 9 0 t)
  else t

/-- All bytes in `[a, b)` read as zero, and no word there is poisoned. DESIGN CHOICE (log entry 4). -/
def zeroRange (a b : Nat) (s : State) : State :=
  { s with mem := tdrop (fun k => decide (a ≤ k) && decide (k < b)) s.mem,
           poison := tdrop (fun k => decide (a ≤ k) && decide (k < b)) s.poison, lost := found a b s.lost }

/-- A device access refused under R290 or R292: ADDR_VIOL, the error records and the log (R300, R455). -/
def addrViolation (cause addr func source : Nat) (write : Bool) (s : State) : State :=
  logE { cls := 2, code := 7, sev := 3, source := source, func := if source = 0 then func else 0xFF, addr := addr,
         kind := (locOf (placeOf addr)).1, index := (locOf (placeOf addr)).2, data := [storeCode (placeOf addr), 0] }
    (hubErr cause 3 addr func source write (setEv .HUB_MEM_ERR_STAT 8 0 s))

/-- Poison of a word with a device address (R288, R305): the word is marked, its first poisoning recorded and logged, the
status bit set and counted. -/
def poisonWord (a : Nat) (byScrub : Bool) (s : State) : State :=
  let w := eccBase a
  if tget 0 s.poison w == 1 then s else
  let p := placeOf w
  let hbm := storeCode p == 3
  let s := { s with poison := tset 0 s.poison w 1 }
  let s := setEv .HUB_MEM_ERR_STAT (if hbm then 3 else 1) 0 s
  let s := if hbm then bumpSat .HUB_MEM_UE_CNT 31 16 1 0 s else bumpSat .HUB_MEM_UE_CNT 15 0 1 0 s
  let s := match p with
    | .scratch c => bumpSat .SPM_CNT 31 16 1 c (setEv .SPM_STAT 1 c s)
    | _ => s
  let s := if rb s .HUB_MEM_POISON_HI 31 then s else
    wr .HUB_MEM_POISON_HI 0 (BitVec.ofNat 32 (bitsOf w 47 32 + storeCode p * 2 ^ 16 + b2n byScrub * 2 ^ 19 + 2 ^ 31))
      (wr .HUB_MEM_POISON_LO 0 (BitVec.ofNat 32 w) s)
  logE { cls := 2, code := if hbm then 4 else 2, sev := 3, addr := w, kind := (locOf p).1, index := (locOf p).2,
         data := [storeCode p, 1] } s

/-- IEEE 1588 is in force: PTP_EN is 1 and the timestamp clock runs (R404, R570). -/
def ptpOn (s : State) : Bool := rb s .NET_CTRL 2 && rb s .CLK_GATE 3

/-- Device time is disciplined by IEEE 1588 (R14, R187). -/
def disciplined (s : State) : Bool := s.ptp.locked && ptpOn s

/-- The MAC addresses of logical ports are as fused (R432). -/
def fuseMacs (ps : List Nat) (s : State) : State :=
  foldS ps (fun p s =>
    let m := s.fuses.macs.getD p 0
    wr .NET_PORT_MAC_LO p (BitVec.ofNat 32 m) (wr .NET_PORT_MAC_HI p (BitVec.ofNat 32 (m / 2 ^ 32 % 2 ^ 16)) s)) s

/-- Silset's UTC in seconds (R187). -/
def utcNow (s : State) : Nat := s.utc + (s.now - s.utcAt) / 1000000000

/-- Silset's UTC is set, and UTC_VALID shows that it holds one (R187, R194). -/
def setUtc (v : Nat) (s : State) : State := wrf .CAL_STAT 2 2 1 0 { s with utc := v, utcAt := s.now }

/-- The bank slots in which a client of a cluster's scratchpad waited for an access are counted (R282, R284, R308): how many they
are depends on times that the model leaves out, and is a free value. DESIGN CHOICE (log entry 105). -/
def spmWait (cl : Nat) (s : State) : State :=
  let d := drawFree s
  bump .SPM_WAIT_CNT (Config.freeWord d.1).toNat cl d.2

/-- The waits of an access at a device address, where that lies in a scratchpad (R284, R308). -/
def spmTouch (a : Nat) (s : State) : State :=
  match placeOf a with
  | .scratch c => spmWait c s
  | _ => s

/-! ### Resets and late replies -/

/-- The KIND of the hub's PCIe functions lies outside the die fabric: its fences have no partition. -/
def partOf? (s : State) (kind index : Nat) : Option Nat :=
  if kind = 11 ∨ 14 ≤ kind then none else some (ptOfUnit s kind index)

/-- A RESET entry of the kiln log about a unit: level and cause of its reset, 0 where there is none, and FGEN (R536, R654); `more`
follows where a rule asks for it. -/
def rstLog (code sev kind index level cause : Nat) (more : List Nat) (s : State) : State :=
  logE { cls := 3, code := code, sev := sev, kind := kind, index := index, data := [level, cause, fgenOf s kind index] ++ more,
         pt := (partOf? s kind index).getD 0xFF } s

/-- A reply that meets no open request is discarded and counted (R477). -/
def lateDrop (kind index slot : Nat) (s : State) : State :=
  rstLog 0x0A 1 kind index 0 0 [slot] (bump .RST_LATE_DROP_CNT 1 0 (setEv .RST_STAT 6 0 s))

end Sys2Proof.Machine
end

