-- ==== Sys2Proof/Machine/Layout.lean ====
section
/-! DEFINITION. What a setting image says of the elements it lays out (ch. 6), halts and breakpoints (R625, R630), and the
faults that tiles, glaze slices and accumulation units report. -/

namespace Sys2Proof.Machine

open Sys2Proof

/-! ### Geometry of tiles (R17, R18) -/

/-- The cluster of a tile, and the bay of a cluster. -/
def clOfTile (t : Nat) : Nat := t / 32
def bayOfCl (c : Nat) : Nat := c / 8
def bayOfTile (t : Nat) : Nat := t / 256

/-! ### Lookups in an image -/

/-- Image number `im`. -/
def imgOf (s : State) (im : Nat) : Image := tget {} s.images im

/-- The slice of an identifier. -/
def sliceOf (i : Image) (id : Nat) : SliceE := (i.slices.find? fun x => x.id == id).getD {}

/-- The slices of a pass group (R217). -/
def groupSlices (i : Image) (pg : Nat) : List SliceE := i.slices.filter fun x => x.group == pg

/-- The forward slice whose tile-layers a slice uses (R204). -/
def fwdOf (x : SliceE) : Nat := if x.kind = 1 then x.pair else x.id

/-- The tile-layers of column block `cb` of a slice, as row block and placement: those of a transposed slice are its
forward slice's, with rows and columns exchanged (R102, R204). -/
def blockTiles (i : Image) (x : SliceE) (cb : Nat) : List (Nat × PlaceE) :=
  (i.places.filter fun p => p.slice == fwdOf x && (if x.kind = 1 then p.rb else p.cb) == cb).map fun p =>
    (if x.kind = 1 then p.cb else p.rb, p)

/-- Insertion of a row block in ascending order. -/
def insertRb (e : Nat × PlaceE) : List (Nat × PlaceE) → List (Nat × PlaceE)
  | [] => [e]
  | x :: xs => if e.1 ≤ x.1 then e :: x :: xs else x :: insertRb e xs

/-- The tile-layers of a column block part in ascending row-block order (R129, R130). -/
def partTiles (i : Image) (r : RouteE) : List (Nat × PlaceE) :=
  ((blockTiles i (sliceOf i r.slice) r.cb).filter fun e => clOfTile e.2.tile == r.cl).foldr insertRb []

/-- The route of part `part` of a cluster. -/
def routeOf (i : Image) (cl part : Nat) : Option RouteE := i.routes.find? fun r => r.cl == cl && r.part == part

/-- The output columns of a column block: 1,024, or fewer in the last one (R204). -/
def blockCols (x : SliceE) (cb : Nat) : Nat := min 1024 (x.dOut - 1024 * cb)

/-- The elements of a row block. -/
def blockRows (x : SliceE) (rb : Nat) : Nat := min 1024 (x.dIn - 1024 * rb)

/-- The outlier record of a row block; a row block without one has mode NONE (R207). -/
def outlierOf (i : Image) (slice rb : Nat) : OutE :=
  (i.outliers.find? fun o => o.slice == slice && o.rb == rb).getD {}

/-- The adapter a slice carries, a transposed slice that of its forward slice (R139). -/
def adapterOf (i : Image) (x : SliceE) : Option AdpE :=
  let f := sliceOf i (fwdOf x)
  i.adapters.find? fun a => a.index == f.adapter && f.adapter != 0xFFFF

/-- Key of a tile-layer, and its calibration and configuration. -/
def tlKey (tile layer : Nat) : Nat := tile * 4 + layer
def tlOf (s : State) (tile layer : Nat) : TLayer := tget {} s.tlayers (tlKey tile layer)
def modTl (tile layer : Nat) (f : TLayer → TLayer) (s : State) : State :=
  { s with tlayers := tmod {} s.tlayers (tlKey tile layer) f }
def lcfg (s : State) (tile layer : Nat) : Word := rd s .TILE_LCFG (tlKey tile layer)
def tlValid (s : State) (tile layer : Nat) : Bool := (lcfg s tile layer).toNat.testBit 0

/-- State of a tile. -/
def tileOf (s : State) (t : Nat) : Tile := tget {} s.tiles t
def modTile (t : Nat) (f : Tile → Tile) (s : State) : State := { s with tiles := tmod {} s.tiles t f }

/-! ### Halts and breakpoints (R625 to R630) -/

/-- Bay `b` is under a halt, or halted. -/
def halted (s : State) (b : Nat) : Bool := s.dbg.halting.testBit b

/-- A halt is placed on the bays of a mask (R625). DESIGN CHOICE (log entry 77). -/
def haltBays (mask : Nat) (s : State) : State :=
  let step := setBitsOf 48 s.dbg.stepping |>.filter fun b => !mask.testBit b
  { s with dbg.halting := s.dbg.halting ||| mask, dbg.stepping := step.foldl (fun m b => m + 2 ^ b) 0 }

/-- A boundary of a bay withholds its acknowledge: the bay is halted, or it steps and the boundary has given STEP_N (R628).
DESIGN CHOICE (log entry 77). -/
def withheld (s : State) (bay key : Nat) : Bool :=
  halted s bay || (s.dbg.stepping.testBit bay && decide (rf s .DBG_CTRL 15 8 ≤ tget 0 s.dbg.stepCnt key))

/-- A boundary of a stepping bay gives an acknowledge. DESIGN CHOICE (log entry 77). -/
def acked (bay key : Nat) (s : State) : State :=
  whenS (s.dbg.stepping.testBit bay) (fun s => { s with dbg.stepCnt := tmod 0 s.dbg.stepCnt key (· + 1) }) s

/-- The number of a boundary, from the row of its requests and its element. -/
def boundary (row element : Nat) : Nat := row * 2 ^ 40 + element

/-- A request from outside a bay waits at its boundary while that withholds its acknowledge; it is neither refused nor lost
(R625). DESIGN CHOICE (log entry 77). -/
def withhold (bay key : Nat) (c : Instr) (f : State → State) (s : State) : State :=
  if s.dbg.readmit then f (acked bay key { s with dbg.readmit := false })
  else if withheld s bay key || s.dbg.waiting.any (fun w => w.2.1 == key) then
    { s with dbg.waiting := s.dbg.waiting ++ [(bay, key, c)] }
  else f (acked bay key s)

/-- A request for which its unit has no room waits at the unit's input, ahead of those behind it, until room comes free; the
acknowledge that its boundary would have given is not given (R128, R133, R244, R659). DESIGN CHOICE (log entry 89). -/
def park (u bay key : Nat) (c : Instr) (s : State) : State :=
  { s with dbg.waiting := (bay, key, c) :: s.dbg.waiting, dbg.parked := (u, key) :: s.dbg.parked,
           dbg.stepCnt := if s.dbg.stepping.testBit bay then tmod 0 s.dbg.stepCnt key (· - 1) else s.dbg.stepCnt }

/-- Room has come free in the units of which `p` holds: the requests that waited for it are offered again. -/
def freeRoom (p : Nat → Bool) (s : State) : State := { s with dbg.parked := s.dbg.parked.filter fun e => !p e.1 }

/-- The key under which the loads of a partition wait for their validation (R221). -/
def loadTurn (pt : Nat) : Nat := ukey 14 pt

/-- A waiting request can be offered again. -/
def offered (s : State) (w : Nat × Nat × Instr) : Bool :=
  !withheld s w.1 w.2.1 && !(s.dbg.parked.any fun e => e.2 == w.2.1)

/-- The oldest request whose boundary lets it go, and the state in which it is taken. DESIGN CHOICE (log entry 77). -/
def nextWaiting (s : State) : Option (Instr × State) :=
  (s.dbg.waiting.find? (offered s)).map fun w =>
    (w.2.2, { s with dbg.waiting := s.dbg.waiting.erase w, dbg.readmit := true })

/-- A 48-bit value of a _LO and _HI pair of a breakpoint. -/
def bpPair (s : State) (lo hi : Reg) (n : Nat) : Nat := (rd s lo n).toNat + 2 ^ 32 * (rd s hi n).toNat % 2 ^ 48

/-- Breakpoint `n` matches an item of a kind (R630): KIND 4 matches reads and writes. DESIGN CHOICE (log entry 78). -/
def bpMatches (s : State) (kind item n : Nat) : Bool :=
  let k := rf s .DBG_BP_CFG 2 0 n
  (k == kind || (k == 4 && (kind == 2 || kind == 3))) &&
  ((item ^^^ bpPair s .DBG_BP_VAL_LO .DBG_BP_VAL_HI n) &&& bpPair s .DBG_BP_MASK_LO .DBG_BP_MASK_HI n) == 0

/-- Both cores of Silset stop before their next instruction (R629). DESIGN CHOICE (log entry 80). -/
def silHalt (s : State) : State :=
  if s.sil.state = 4 then s else { s with sil.state := 4, dbg.silWas := s.sil.state }

/-- A matching breakpoint counts, disables itself with ONCE, and with ACTION 1 or 2 halts the bays of the mask and the bay
of the match; with ACTION 2 it halts Silset. DESIGN CHOICE (log entry 78). -/
def bpHit (bay : Option Nat) (n : Nat) (s : State) : State :=
  let act := rf s .DBG_BP_CFG 4 3 n
  let once := rb s .DBG_BP_CFG 5 n
  let s := bump .DBG_BP_HITS 1 n s
  let s := whenS once (wrf .DBG_BP_CFG 2 0 0 n) s
  let mask := (rd s .DBG_HALT_MASK_LO).toNat + 2 ^ 32 * (rd s .DBG_HALT_MASK_HI).toNat
  let s := whenS (act == 1 || act == 2) (haltBays (mask ||| (match bay with
    | some b => 2 ^ b
    | none => 0))) s
  whenS (act == 2) silHalt s

/-- An item meets the breakpoints: the matches count, the lowest-numbered is reported, and the item is held where one of
them halts. An item that a RESUME released does not match a second time (R628). DESIGN CHOICE (log entry 78). -/
def breakpoint (kind item : Nat) (bay : Option Nat) (s : State) : Bool × State :=
  if s.dbg.released.contains (kind, item) then
    (false, { s with dbg.released := s.dbg.released.erase (kind, item) })
  else if s.dbg.held.contains (kind, item) then (true, s)
  else
    let ms := (List.range 8).filter (bpMatches s kind item)
    match ms with
    | [] => (false, s)
    | n :: _ =>
      let hold := ms.any fun m => rf s .DBG_BP_CFG 4 3 m != 0
      let s := foldS ms (bpHit bay) s
      let s := wrf .DBG_STAT 14 12 n 0 (setEv .DBG_STAT 11 0 s)
      (hold, whenS hold (fun s => { s with dbg.held := (kind, item) :: s.dbg.held }) s)

/-- Breakpoints on the 8 B words of a memory access (KIND 2 to 4 of R630). DESIGN CHOICE (log entry 78). -/
def accessBp (kind : Nat) (bay a n : Nat) (s : State) : Bool × State :=
  ((List.range ((a % 8 + n + 7) / 8)).map fun k => a / 8 * 8 + 8 * k).foldl
    (fun r w => if r.1 then r else breakpoint kind w (some bay) r.2) (false, s)

/-- Breakpoints on several accesses of one kind. -/
def accessesBp (kind bay : Nat) (rs : List (Nat × Nat)) (s : State) : Bool × State :=
  rs.foldl (fun r a => if r.1 then r else accessBp kind bay a.1 a.2 r.2) (false, s)

/-! ### Faults of tiles and accumulation units (R108, R138) -/

/-- Status codes of R355 that units answer with. -/
def stFenced : Nat := 0x05
def stExec : Nat := 0x15
def stMemory : Nat := 0x1A

/-- Tags of transfers inside the fabric. -/
def tagDrive : Nat := 1
def tagScale : Nat := 2
def tagSelect : Nat := 3
def tagU : Nat := 4
def tagH : Nat := 5
def tagGlaze : Nat := 6
def tagResult : Nat := 7
def tagWave : Nat := 8
def tagCapture : Nat := 9
def tagSend : Nat := 10
def tagV : Nat := 11
def tagQ : Nat := 12
def tagRefuse : Nat := 13
def tagQuery : Nat := 14
def tagStep : Nat := 15
def tagEpoch : Nat := 16

/-- What is fixed for the passes of an input vector. -/
def ctlOf (s : State) (vec : Nat) : PassCtl := tget {} s.passes vec

/-- The status bit of ACC_STAT of a cause of ACC_LAST_ERR. -/
def accBit (cause : Nat) : Nat := if cause = 5 then 3 else cause - 1

/-- The steps in flight of an image end with a status, because a unit refused or failed work of one of them (R108, R138).
DESIGN CHOICE (log entry 61). -/
def errSteps (im status : Nat) (s : State) : State :=
  { s with cmds := s.cmds.map fun e =>
      if e.2.run && e.2.im == some im && [0x13, 0x14, 0x18].contains e.2.op && e.2.err.isNone then
        (e.1, { e.2 with err := some status })
      else e }

/-- A message of the work of an image from a unit of cluster `src` to one of cluster `dst`: where its way crosses a closed crossing it
is answered with XRESET, and the steps that need it end with FENCED (R479, R480). -/
def emitWay (src dst im : Nat) (m : Msg) (s : State) : State :=
  if wayClosed s (src / 48) (.scratch dst) then errSteps im stFenced (xreset s) else emit m s

/-- The layer of the passes of a part: that of its lowest row block. DESIGN CHOICE (log entry 90). -/
def partLayer (s : State) (im cl part : Nat) : Nat :=
  match routeOf (imgOf s im) cl part with
  | some r => ((partTiles (imgOf s im) r).headD (0, {})).2.layer
  | none => 0

/-- An error event of R138: status bit, last-error register and log. -/
def accErr (cl cause tile layer part : Nat) (s : State) : State :=
  let s := setEv .ACC_STAT (accBit cause) cl s
  let s := wr .ACC_LAST_ERR cl (BitVec.ofNat 32 (cause + (if cause ≤ 2 then tile % 32 else 0) * 2 ^ 4 + layer * 2 ^ 9
    + part * 2 ^ 16)) s
  logE { cls := 0x0D, code := if cause = 5 then 6 else 5, sev := if cause = 5 then 2 else 3, kind := 1, index := cl,
         layer := layer, data := [cause] } s

/-- A glaze-path conversion event (R75, R76): status bit, saturating count, and the log at its first occurrence since the
bit was cleared, with the cluster named as its accumulation unit. DESIGN CHOICE (log entry 110). -/
def glzConv (bit n cl : Nat) (s : State) : State :=
  if n = 0 then s else
  let first := !rb s .GLZ_CONV_STAT bit
  let s := bumpSat .GLZ_CONV_CNT (8 * bit + 7) (8 * bit) n 0 (setEv .GLZ_CONV_STAT bit 0 s)
  whenS first (logE { cls := 0x0D, code := 7, sev := 2, kind := 1, index := cl, data := [bit] }) s

/-- A pass of a part in progress in a bank, by its key. -/
def accKey (cl bank part : Nat) : Nat := cl * 64 + bank * 32 + part

/-- The oldest pass of a part of which `p` holds, by `born`, with its key. -/
def accFind (s : State) (cl part : Nat) (p : AccPass → Bool) : Option (Nat × AccPass) :=
  let at_ := fun b => (s.acc.find? fun e => e.1 == accKey cl b part).map fun e => e.2
  let ok := fun b => match at_ b with
    | some a => if p a then some (accKey cl b part, a) else none
    | none => none
  match at_ 0, at_ 1 with
  | some a, some b => if a.born ≤ b.born then (ok 0 <|> ok 1) else (ok 1 <|> ok 0)
  | _, _ => ok 0 <|> ok 1

/-- A pass in a bank replaced, or removed. -/
def setAcc (k : Nat) (a : Option AccPass) (s : State) : State :=
  match a with
  | some a => { s with acc := tins s.acc k a }
  | none => { s with acc := tdel s.acc k }

/-- A fault of R138 laid upon a pass: canonical NaN in every output.  Codes that a refused position will not send are no
longer waited for. -/
def markFault (cause tile layer : Nat) (pos : Option Nat) (a : AccPass) : AccPass :=
  { a with fault := some (a.fault.getD (cause, tile, layer)),
           waves := match pos with
             | some q => tset 0 a.waves q 255
             | none => a.waves }

/-- A fault of R138 of a part in the pass of vector `vec`: it marks the pass in its bank, or is kept for it where no bank has been
taken yet; the steps in flight of the image end with an error. -/
def accFault (cl part im vec cause tile layer : Nat) (pos : Option Nat) (status : Nat) (s : State) : State :=
  let s := errSteps im status (accErr cl cause tile layer part s)
  match accFind s cl part (fun a => a.result.isNone && a.im == im && a.vec == some vec) with
  | some (k, a) => setAcc k (some (markFault cause tile layer pos a)) s
  | none =>
    let x : Late := { im := im, vec := vec, cause := cause, tile := tile, layer := layer, pos := pos }
    { s with accLate := tmod [] s.accLate (cl * 32 + part) (· ++ [x]) }

end Sys2Proof.Machine
end

