-- ==== Sys2Proof/Machine/Seqs.lean ====
section
/-! DEFINITION. Sequences, bindings, and the references on frames and segments (R326 to R331): what the end of a command uses to free
the sequences of an image that has retired (R227). -/

namespace Sys2Proof.Machine

open Sys2Proof

/-! ### Sequences, bindings, layout -/

/-- A sequence and a binding by index. -/
def seqOf (s : State) (i : Nat) : Seq := tget {} s.seqs i
def modSeq (i : Nat) (f : Seq → Seq) (s : State) : State := { s with seqs := tmod {} s.seqs i f }
def bindOf (s : State) (b : Nat) : Option Bind := (s.binds.find? fun e => e.1 == b).map (·.2)
def modBind (b : Nat) (f : Bind → Bind) (s : State) : State :=
  match bindOf s b with
  | some x => { s with binds := tins s.binds b (f x) }
  | none => s

/-- The key/value layout of an image, and an entry of it. -/
def kvOf (s : State) (im : Nat) : KvLayout := (imgOf s im).kv
def kvLayer (kv : KvLayout) (l : Nat) : KvLayerE := kv.layers.getD l {}

/-- Key of a page, or of a slip segment, of a layer. -/
def lpKey (l p : Nat) : Nat := l * 2 ^ 16 + p

/-! ### Pins and release (R327) -/

/-- The tier of an address. -/
def tierOfAddr (a : Nat) : Nat :=
  match placeOf a with
  | .bayBuf _ => 0
  | .bufDie _ => 1
  | _ => 2

/-- A pin is taken. -/
def pin (a reader : Nat) (s : State) : State := { s with pins := (a, reader) :: s.pins }

/-- The frame or segment is pinned. -/
def pinned (s : State) (a : Nat) : Bool := s.pins.any fun p => p.1 == a

/-- A reader releases one pin; a RELEASING unit whose pins are gone is FREE. -/
def unpin (a reader : Nat) (s : State) : State :=
  let s := { s with pins := s.pins.erase (a, reader) }
  if pinned s a then s else { s with releasing := s.releasing.filter fun f => f.addr != a }

/-- A frame or segment that nothing refers to any more: RELEASING while a pin holds it, else FREE. -/
def releaseUnit (a : Nat) (s : State) : State :=
  if pinned s a && !(s.releasing.any fun f => f.addr == a) then
    { s with releasing := s.releasing ++ [{ addr := a, tier := tierOfAddr a }] } else s

/-! ### Descriptors (R326, R329 to R331) -/

/-- A descriptor, and its change. -/
def descOf (s : State) (d : Nat) : Desc := tget {} s.descs d
def modDesc (d : Nat) (f : Desc → Desc) (s : State) : State := { s with descs := tmod {} s.descs d f }

/-- The lowest descriptor that is FREE. -/
def freeDesc (s : State) : Nat :=
  ((List.range (s.descs.length + 1)).find? fun d => !(s.descs.any fun e => e.1 == d)).getD s.descs.length

/-- A reference is taken, or dropped; at the last one the frame is released. -/
def refDesc (d : Nat) (s : State) : State := modDesc d (fun x => { x with ref := x.ref + 1 }) s
def derefDesc (d : Nat) (s : State) : State :=
  let x := descOf s d
  if x.ref ≤ 1 then releaseUnit x.addr { s with descs := tdel s.descs d } else modDesc d (fun x => { x with ref := x.ref - 1 }) s

/-- The references of a page table are dropped. -/
def dropPages (ps : Tab PEnt) (s : State) : State := foldS ps (fun e => derefDesc e.2.desc) s

/-- The slip segments of a sequence of which `p` holds are freed. -/
def dropSlips (i : Nat) (p : Nat → Bool) (s : State) : State :=
  let q := seqOf s i
  let gone := q.slips.filter fun e => p e.1
  let s := modSeq i (fun q => { q with slips := q.slips.filter fun e => !p e.1 }) s
  foldS gone (fun e => releaseUnit (e.2 - 1)) s

/-- The pages and slips of a sequence are given up. -/
def dropSeqData (i : Nat) (s : State) : State :=
  let q := seqOf s i
  let s := dropPages q.pages (modSeq i (fun q => { q with pages := [], toFlush := [], flushing := [], keep := [], keepAt := none }) s)
  dropSlips i (fun _ => true) s

/-- The next generation of a sequence index (R362). -/
def nextGen (g : Nat) : Nat := if g % 2 ^ 20 = 2 ^ 20 - 1 then 1 else g + 1

/-- A sequence index becomes free. -/
def freeSeqIdx (i : Nat) (s : State) : State :=
  let g := (seqOf s i).gen
  modSeq i (fun _ => { gen := nextGen g }) (dropSeqData i s)

/-- A sequence index with its draft is freed. -/
def freeSeqAll (i : Nat) (s : State) : State :=
  let d := (seqOf s i).draft
  freeSeqIdx i (foldS d.toList freeSeqIdx s)

end Sys2Proof.Machine
end

