-- ==== Sys2Proof/Machine/QOps.lean ====
section
/-! DEFINITION. Contexts, command records, handles and completions (R346 to R361): what every family that serves a command
uses to end it. -/

namespace Sys2Proof.Machine

open Sys2Proof

/-! ### Contexts (ch. 6) -/

/-- The key of a context: partition and function. -/
def cxKey (pt fn : Nat) : Nat := pt * 32 + fn

/-- A context. -/
def cxOf (s : State) (k : Nat) : Ctx := tget {} s.ctxs k

/-- The state with a context changed. -/
def modCx (k : Nat) (f : Ctx → Ctx) (s : State) : State := { s with ctxs := tmod {} s.ctxs k f }

/-- The load of a context. -/
def loadOf (s : State) (k : Nat) : Option Load := (cxOf s k).load

/-- A program operation of the load of a context has been told to stop (R229, R232). -/
def opStopped (s : State) (o : ProgOp) : Bool :=
  (o.kind == 0 || o.kind == 2) && (loadOf s o.ctx).any fun l => l.stop.isSome

/-- The images a context holds: active, staged, being loaded, retiring. -/
def Ctx.images (c : Ctx) : List Nat :=
  c.active.toList ++ c.staged.toList ++ (c.load.map fun l => l.im).toList ++ c.retiring

/-- The context that holds an image. -/
def cxOfImg (s : State) (im : Nat) : Option Nat := (s.ctxs.find? fun e => e.2.images.contains im).map (·.1)

/-- The partition to which virtual function `k` is bound, where it is enabled and bound (R471). -/
def vfPt (s : State) (k : Nat) : Option Nat :=
  if rb s .HUB_VF_BIND 31 k && decide (k ≤ s.pcie.numVfs) && s.pcie.vfEnable then some (rf s .HUB_VF_BIND 2 0 k) else none

/-- The partition of a context is fenced or in reset, or its function is fenced (R356), or it has fenced itself (R424). -/
def cxFenced (s : State) (k : Nat) : Bool :=
  (cxOf s k).fenced || fenced s 10 (k / 32) || inReset s 10 (k / 32) || fenced s 11 (k % 32)

/-! ### Fields of a command (R352, R353) -/

/-- The little-endian number of `n` bytes at offset `o` of a byte string. -/
def leAt (b : List Byte) (o n : Nat) : Nat := ofBytesLE ((b.drop o).take n)

/-- A field of a command. -/
def Cmd.u (c : Cmd) (o n : Nat) : Nat := leAt c.raw o n

/-- A handle: generation and slot (R357). -/
def handleOf (gen slot : Nat) : Nat := gen * 4096 + slot

/-- The command of a slot. -/
def cmdOf (s : State) (h : Nat) : Option Cmd := (s.cmds.find? fun e => e.1 == h).map (·.2)

/-- The command of a slot replaced. -/
def setCmd (h : Nat) (c : Cmd) (s : State) : State := { s with cmds := tins s.cmds h c }

/-- The command of a slot changed, where there is one. -/
def modCmd (h : Nat) (f : Cmd → Cmd) (s : State) : State :=
  match cmdOf s h with
  | some c => setCmd h (f c) s
  | none => s

/-- A progress event of a command restarts its timeout (R360). -/
def progress (h : Nat) (s : State) : State := modCmd h (fun c => { c with prog := s.now }) s

/-! ### Records (R350, R354, R385) -/

/-- Key of a queue. -/
def qkOf (fn q : Nat) : Nat := fn * 64 + q

/-- A queue, and the state with it changed. -/
def queueOf (s : State) (k : Nat) : QueueS := tget {} s.queues k
def modQueue (k : Nat) (f : QueueS → QueueS) (s : State) : State := { s with queues := tmod {} s.queues k f }

/-- Depth of the submission ring and of the record ring of a queue. -/
def sqDepth (s : State) (k : Nat) : Nat := 2 ^ rf s .QM_Q_CFG 7 4 k
def rqDepth (s : State) (k : Nat) : Nat := 2 ^ rf s .QM_Q_CFG 11 8 k

/-- The base of a ring of a queue. -/
def sqBase (s : State) (k : Nat) : Nat := (rd s .QM_SQ_BASE_LO k).toNat + 2 ^ 32 * (rd s .QM_SQ_BASE_HI k).toNat
def rqBase (s : State) (k : Nat) : Nat := (rd s .QM_RQ_BASE_LO k).toNat + 2 ^ 32 * (rd s .QM_RQ_BASE_HI k).toNat

/-- A log entry about a command or a queue; DATA is its opcode, status and INFO, zeros where there is no command (R536). -/
def srvLog (code sev fn q h : Nat) (data : List Nat) (s : State) : State :=
  logE { cls := 9, code := code, sev := sev, func := fn, queue := q, handle := h, data := data } s

/-- An error of a queue: status bit, LAST_Q, log; the queue enters STATE ERROR (R347, R385). -/
def queueError (k bit code : Nat) (s : State) : State :=
  let s := wrf .QM_STAT 13 8 (k % 64) (k / 64) (setEv .QM_STAT bit (k / 64) s)
  srvLog code 3 (k / 64) (k % 64) 0 [0, 0, 0] (modQueue k (fun x => { x with st := 3 }) s)

/-- The bytes of a record (R354). -/
def recBytes (handle cid q flags status head info tag value : Nat) : List Byte :=
  bytesLE 4 handle ++ bytesLE 2 cid ++ bytesLE 1 q ++ bytesLE 1 flags ++ bytesLE 2 status ++ bytesLE 2 head ++
  bytesLE 4 info ++ bytesLE 8 tag ++ bytesLE 8 value

/-- A record is written to a queue's ring; a write that fails puts the queue into ERROR and later records are dropped. -/
def putRecord (k kind handle cid status info tag value : Nat) (s : State) : State :=
  let x := queueOf s k
  let s := modQueue k (fun x => { x with resv := x.resv - 1 }) s
  if x.recErr || (fnOf s (k / 64)).inFlr then s
  else if !s.pcie.linkUp then
    queueError k 1 2 (modQueue k (fun x => { x with recErr := true }) s)
  else
    let d := rqDepth s k
    let phase := b2n (x.recs / d % 2 == 0)
    emit (.hostWrite (k / 64) (rqBase s k + 32 * (x.recs % d))
        ((recBytes handle cid (k % 64) (phase + 2 * kind) status x.head info tag value).map (·.toNat)))
      (modQueue k (fun x => { x with recs := x.recs + 1, unread := x.unread + 1 }) s)

/-! ### The end of a command (R357, R358, R361) -/

/-- A slot is freed: its generation advances, skipping 0, and it goes behind the other free slots (R357). -/
def freeSlot (h : Nat) (s : State) : State :=
  { s with cmds := tdel s.cmds h, slotFree := s.slotFree ++ [h],
           slotGen := tmod 1 s.slotGen h (fun g => if g = 0xFFFFF then 1 else g + 1) }

/-- A queue that is DRAINING shows IDLE when every command fetched from it has completed (R351). -/
def drained (k : Nat) (s : State) : State :=
  if (queueOf s k).st = 2 && !(s.cmds.any fun e => qkOf e.2.fn e.2.q == k) then
    modQueue k (fun x => { x with st := 0 }) s
  else s

/-- The sequence identifier a command names (R353). -/
def Cmd.seqId (c : Cmd) : Option Nat :=
  if [0x11, 0x12, 0x13, 0x14, 0x20].contains c.op then some (c.u 0x10 4)
  else if c.op = 0x18 && c.u 0x18 4 != 0xFFFFFFFF then some (c.u 0x18 4)
  else none

/-- The identifier of a sequence index. -/
def seqIdOf (s : State) (i : Nat) : Nat := (seqOf s i).gen * 4096 + i

/-- The sequences of images that are no longer active which no command in flight names are freed (R227). -/
def freeRetired (s : State) : State :=
  let gone := s.seqs.filter fun e => e.2.used && e.2.retired && !e.2.hidden &&
    !(s.cmds.any fun c => c.2.ctx == e.2.ctx && (c.2.seqId == some (seqIdOf s e.1) || c.2.seq == some e.1))
  foldS (gone.map (·.1)) (fun i s =>
    freeSeqAll i (modCx (seqOf s i).ctx (fun c => { c with goneSeq := c.goneSeq ++ [seqIdOf s i] }) s)) s

/-- The completion record of a command, its signal, and its slot (R350, R358); the loads that waited for a LOAD go on (R221). -/
def completeOne (h status info value : Nat) (s : State) : State :=
  match cmdOf s h with
  | none => s
  | some c =>
    let k := qkOf c.fn c.q
    let issued := s.pcie.linkUp && !(queueOf s k).recErr && !(fnOf s c.fn).inFlr
    let s := putRecord k 1 (handleOf c.gen h) c.cid status info c.tag value s
    let s := whenS (c.flags.testBit 0 && issued) (signal c.fn (rf s .QM_Q_CFG 26 16 k)) s
    drained k (freeRetired (whenS (c.op == 1) (freeRoom (· == loadTurn (c.ctx / 32))) (freeSlot h s)))

/-- The CANCELs whose target, and the DISCARDs whose load, is no longer in flight complete (R229, R361). -/
def settleCancels : Nat → State → State
  | 0, s => s
  | n + 1, s =>
    match s.cmds.find? fun e => (e.2.op == 0x30 || e.2.op == 0x03) && e.2.run && (match e.2.aux with
      | some t => (cmdOf s t).isNone
      | none => false) with
    | some e => settleCancels n (completeOne e.1 e.2.value 0 0 s)
    | none => s

/-- A command completes. -/
def complete (h status info value : Nat) (s : State) : State :=
  settleCancels s.cmds.length (completeOne h status info value s)

/-- An event counter of R396 advanced for an event of a context: the physical function's counts every event, a virtual function's
those of its own context (R441). DEDUCED (log entry 20). -/
def srvCount (r : Reg) (n ctx : Nat) (s : State) : State :=
  whenS (ctx % 32 != 0) (bump r n (ctx % 32)) (bump r n 0 s)

/-- A bit of SRV_STAT set for an event of a context, in the view of the physical function and in that of the context's own. -/
def srvFlag (bit ctx : Nat) (s : State) : State :=
  whenS (ctx % 32 != 0) (setEv .SRV_STAT bit (ctx % 32)) (setEv .SRV_STAT bit 0 s)

/-- The registered entries of a role of an image (R364). -/
def roleEntries (s : State) (im role : Nat) : List EntryE := (tget [] s.entries im).filter fun e => e.role == role

end Sys2Proof.Machine
end

