-- ==== Sys2Proof/Machine/ChkOps.lean ====
section
/-! DEFINITION. What other families need of the checks for silent errors: sampling plans and their credit (R503, R505),
the boost (R520), and samples that have to be discarded (R501). -/

namespace Sys2Proof.Machine

open Sys2Proof

/-- The rate at which a bay earns credit, in hundredths of a sample per second (R505, R520). DESIGN CHOICE (log entry 65). -/
def rateOf (s : State) (pt rate : Nat) : Nat :=
  let r := rate * rf s .CHK_RATE 7 0
  if tget 0 s.boosts pt = 0 then r else max r (min 100000 (8 * r))

/-- The plan's rate for a bay. DESIGN CHOICE (log entry 65). -/
def planRate (p : DrawPlan) (bay : Nat) : Nat := ((p.bays.find? fun b => b.bay == bay).map (·.rate)).getD 0

/-- Credit earned up to now, capped at four samples. DESIGN CHOICE (log entry 65). -/
def accrue (s : State) (k bay : Nat) (p : BayPlan) : BayPlan :=
  { p with credit := min 400000000000 (p.credit + (s.now - p.at_) * rateOf s (k / 32) (planRate (imgOf s p.im).draw bay)),
           at_ := s.now }

/-- The credit of every plan is brought up to date before a rate changes. -/
def accrueAll (s : State) : State :=
  { s with plans := s.plans.map fun e => (e.1, accrue s (e.1 / 64) (e.1 % 64) e.2) }

/-- The `n`-th pick of a bay's checker: from the generator of R261 with the plan's seed xor the bay index (R505).
DESIGN CHOICE (log entry 64). -/
def checkPick (i : Image) (bay n : Nat) : Nat := (Config.chkPick (rngBits (i.draw.seed ^^^ bay) n 0)).toNat

/-- An activation starts the plans of its image, each with the entry at which its round robin begins (R505). -/
def startPlans (k im : Nat) (s : State) : State :=
  let s := { s with plans := tdrop (fun e => e / 64 == k) s.plans }
  foldS (imgOf s im).draw.bays (fun b s =>
    let p : BayPlan := { im := im, at_ := s.now, start := checkPick (imgOf s im) b.bay 0 }
    { s with plans := tins s.plans (k * 64 + b.bay) p }) s

/-- Checking is boosted in a partition for BOOST_S seconds (R520). DESIGN CHOICE (log entry 65). -/
def startBoost (pt : Nat) (s : State) : State :=
  let s := accrueAll s
  wrf .CHK_STAT 16 16 1 0 { s with boosts := tins s.boosts pt (s.now + rf s .CHK_RATE 31 16 * 1000000000 + 1) }

/-- The samples of a tile-layer have to be discarded (R501). -/
def spoilTl (tl : Nat) (s : State) : State :=
  { s with samples := tmod [] s.samples (tl / 1024) fun l =>
      l.map fun x => if x.tl = tl ∧ x.run.isSome then { x with spoiled := true } else x }

/-- The samples of a bay have to be discarded (R501). -/
def spoilBay (bay : Nat) (s : State) : State :=
  { s with samples := tmod [] s.samples bay fun l => l.map fun x => { x with spoiled := true } }

/-- Captured samples whose chain record will not come any more have to be discarded (R501): `p` tells the units that dropped their
work. -/
def spoilLost (p : Nat → Nat → Bool) (s : State) : State :=
  { s with samples := s.samples.map fun e => (e.1, e.2.map fun x =>
      if x.run.isSome && x.part.isNone && (p 0 (x.tl / 4) || p 1 (clOfTile (x.tl / 4))) then { x with spoiled := true } else x) }

/-! ### Cross-check rounds (R512, R513) -/

/-- The KIND on which a suite runs (R512, R516). -/
def suiteKind (n : Nat) : Nat := if n = 0 ∨ n = 5 then 3 else if n = 3 then 1 else if n = 4 then 4 else 2

/-- A round is replaced by another one, or ends. -/
def setRound (r : Round) (new : Option Round) (s : State) : State :=
  { s with rounds := s.rounds.flatMap fun x => if x = r then new.toList else [x] }

/-- A round is abandoned and counted; a repeat or a retest waits for the unit's next turn (R513). DESIGN CHOICE (log entry 68). -/
def abandonRound (r : Round) (s : State) : State :=
  bump .CHK_RO_ABANDON_CNT 1 0 (setRound r (if r.stage = 0 then none else some { r with start := s.now }) s)

/-- A unit that service work needs abandons the test that runs on it (R513). -/
def abandonOn (kind u : Nat) (s : State) : State :=
  foldS (s.rounds.filter fun r => suiteKind r.suite == kind && (r.a == u || r.b == u)) abandonRound s

/-- An armed sample captures a pass that starts (R500): of the samples armed on one column group the first does; without a
free capture buffer none does, and the sample is spoiled. DESIGN CHOICE (log entry 65). -/
def captureAt (tl dt now : Nat) (r : PassRun) : Nat → List Nat → List Sample → List Sample
  | _, _, [] => []
  | used, taken, x :: xs =>
    if x.tl = tl ∧ x.run.isNone ∧ !x.spoiled ∧ !taken.contains x.group then
      if used < 4 then
        { x with run := some r, im := r.req.im, dt := dt, capAt := now } :: captureAt tl dt now r (used + 1) (x.group :: taken) xs
      else { x with spoiled := true } :: captureAt tl dt now r used (x.group :: taken) xs
    else x :: captureAt tl dt now r used taken xs

/-- Captures of a pass that starts on a tile-layer (R500); |DT_NOW| is |bay temperature − T_cal| in quarters of a degree.
DESIGN CHOICE (log entry 65). -/
def capturePass (tl bay : Nat) (r : PassRun) (s : State) : State :=
  let d := (tget 0 s.bayT bay - (tget {} s.cal bay).tcal) / 16
  { s with samples := tmod [] s.samples bay fun l =>
      captureAt tl d.natAbs s.now r (l.filter (·.run.isSome)).length [] l }

end Sys2Proof.Machine
end

