-- ==== Sys2Proof/Machine/Tile.lean ====
section
/-! DEFINITION. Tiles (ch. 3): pass requests, layer switches, passes, ADC waves, saturation, and the pass-start tokens of
R45. -/

namespace Sys2Proof.Machine

open Sys2Proof

/-! ### Pass-start tokens (R45, R46) -/

/-- The most passes of a bay under its cone level (R582). -/
def coneMax (level : Nat) : Nat := if level = 0 then 256 else if level = 1 then 124 else if level = 2 then 62 else 0

/-- Passes running in a bay. -/
def running (s : State) (bay : Nat) : Nat :=
  (s.tiles.filter fun e => bayOfTile e.1 == bay && e.2.running.isSome).length

/-- The token pool of a die. -/
def poolOf (s : State) (d : Nat) : TokPool := tget {} s.pools d

/-- The state with the token pool of a die changed. -/
def modPool (d : Nat) (f : TokPool → TokPool) (s : State) : State := { s with pools := tmod {} s.pools d f }

/-- The tile is free for a request of its active layer: settled, idle, its codes accepted, its bay running (R86, R89, R128). -/
def tileFree (s : State) (t : Nat) (r : PassReq) : Bool :=
  let x := tileOf s t
  r.layer == x.active && x.settled && x.running.isNone && x.last.isNone && !inReset s 0 t && !halted s (bayOfTile t)

/-- The tile can start its pending pass but for the token (R89, R128); a pass has drive codes for all 1,024 rows. -/
def startable (s : State) (t : Nat) : Bool :=
  (tileOf s t).pending.any fun r => decide (r.kind ≤ 1) && r.codes.length == 1024 && tileFree s t r &&
    decide (running s (bayOfTile t) < coneMax (tget 0 s.cone (bayOfTile t)))

/-- The row step that a tile's pending request names can start but for the token (R86, R89, R155). -/
def rowStartable (s : State) (tile layer : Nat) : Bool :=
  (tileOf s tile).pending.any fun r => r.kind == 2 && r.layer == layer && tileFree s tile r

/-- The row step pending at a tile waits for nothing but a token: its operation goes on (R155, R229). -/
def rowWaits (s : State) (t : Nat) : Bool :=
  (tileOf s t).pending.any fun r => rowStartable s t r.layer &&
    (s.progs.find? fun e => e.1 == tlKey t r.layer).any fun o => o.2.st == 1 && !opStopped s o.2

/-- A token is free for the tile (R45, R46): fewer are in use than the pool's size, and no pass or row step that arrived earlier
waits at the input of a tile that could start it. DESIGN CHOICE (log entry 91). -/
def tokenFor (s : State) (t : Nat) : Bool :=
  let p := poolOf s (t / 1536)
  decide (p.inUse < p.size) && (p.waiters.takeWhile (· != t)).all fun u => !startable s u && !rowWaits s u

/-- The tile takes a token where one is free for it (R45). -/
def takeToken (t : Nat) (s : State) : State :=
  if (tileOf s t).token || !tokenFor s t then s
  else modTile t (fun x => { x with token := true })
    (modPool (t / 1536) (fun p => { p with inUse := p.inUse + 1, waiters := p.waiters.erase t }) s)

/-- The tile returns its token (R45, R46). -/
def returnToken (t : Nat) (s : State) : State :=
  let d := t / 1536
  whenS (tileOf s t).token (fun s =>
    modTile t (fun x => { x with token := false }) (modPool d (fun p => { p with inUse := p.inUse - 1 }) s)) s

/-- A request takes the pending buffer of a tile, and its place in the order of arrival (R45, R90). -/
def setPending (t : Nat) (req : PassReq) (s : State) : State :=
  modPool (t / 1536) (fun p => { p with waiters := p.waiters.erase t ++ [t] }) (modTile t (fun x => { x with pending := some req }) s)

/-- The pending request of a tile is dropped; it no longer waits for a token. -/
def dropPending (t : Nat) (s : State) : State :=
  modPool (t / 1536) (fun p => { p with waiters := p.waiters.erase t }) (modTile t (fun x => { x with pending := none }) s)

/-! ### Requests (R88, R90, R94, R104) -/

/-- The number of ones of a byte of two drive codes is odd. -/
def oddOnes (b : Nat) : Bool := (setBitsOf 8 b).length % 2 == 1

/-- Every byte of drive codes has its even-parity bit (R104). -/
def parityGood : List Nat → List Bool → Bool
  | a :: b :: cs, p :: ps => oddOnes (a % 16 + 16 * (b % 16)) == p && parityGood cs ps
  | [], [] => true
  | _, _ => false

/-- The tile refuses requests with status FENCED (R90, R94, R108). -/
def tileFenced (s : State) (t : Nat) (kind : Nat) : Bool :=
  fenced s 0 t || inReset s 0 t || decide (3 ≤ rf s .TILE_CFG 2 0 t) || !anaOn s (t / 1536) ||
  (decide (kind ≤ 1) && !rb s .TILE_CFG 8 t)

/-- A request is refused: status bit, log, error answer, and canonical NaN in its column block (R88, R104, R108). -/
def refuseReq (t : Nat) (req : PassReq) (bit code sev status : Nat) (s : State) : State :=
  let s := setEv .TILE_STAT bit t s
  let s := logE { cls := 0x0D, code := code, sev := sev, kind := 0, index := t, layer := req.layer, data := [bit] } s
  let s := emit (.answer 0 t status [req.layer]) s
  if req.kind ≤ 1 then accFault (clOfTile t) req.part req.im req.vec 2 t req.layer (some req.pos) status s else s

/-- The layer of a request is not VALID, or not enabled for transposed passes (R88). -/
def layerInvalid (s : State) (t : Nat) (req : PassReq) : Bool :=
  decide (req.kind ≤ 1) && (!tlValid s t req.layer || (req.kind == 1 && !(lcfg s t req.layer).toNat.testBit 4))

/-- The program operation of a tile-layer, and whether a row step of it is running. -/
def progOf (s : State) (tl : Nat) : Option ProgOp := (s.progs.find? fun e => e.1 == tl).map (·.2)
def rowRunning (s : State) (tl : Nat) : Bool :=
  (tileOf s (tl / 4)).running.any fun r => r.req.kind == 2 && r.req.layer == tl % 4

/-- In hold mode passes to a tile-layer wait from the first row step of its refresh on (R182). -/
def refreshHolds (s : State) (tl : Nat) : Bool :=
  rb s .CAL_CTRL 2 && (progOf s tl).any fun o =>
    o.kind == 1 && (o.st == 2 || decide (0 < o.row) || !o.failing.isEmpty || rowRunning s tl)

/-- A request reaches the tile: it is refused, waits for the end of a refresh, or takes the pending buffer.  Of several refusals the first of R94, R104, R88
is the one reported. DESIGN CHOICE (log entry 92). -/
def admitReq (t : Nat) (req : PassReq) (parityOk : Bool) (s : State) : State :=
  if tileFenced s t req.kind then refuseReq t req 7 4 1 stFenced s
  else if !parityOk then refuseReq t req 6 3 3 stExec s
  else if layerInvalid s t req then refuseReq t req 5 2 3 stExec s
  else if decide (req.kind ≤ 1) && refreshHolds s (tlKey t req.layer) then modTile t (fun x => { x with aside := x.aside ++ [req] }) s
  else setPending t req s

/-- The requests that the bay router holds reach the tile, oldest first, until one takes the pending buffer (R90). -/
def admitHeld (t : Nat) : List PassReq → State → State
  | [], s => modTile t (fun x => { x with held := [] }) s
  | r :: rs, s =>
    let s := admitReq t r true s
    if (tileOf s t).pending.isSome then modTile t (fun x => { x with held := rs }) s else admitHeld t rs s

/-- The passes that waited for the end of a refresh go ahead of those that the bay router holds (R182).
DESIGN CHOICE (log entry 99). -/
def backFromAside (tl : Nat) (s : State) : State :=
  let t := tl / 4
  let mine := fun (r : PassReq) => r.layer == tl % 4
  let s := modTile t (fun x => { x with held := x.aside.filter mine ++ x.held, aside := x.aside.filter fun r => !mine r }) s
  if (tileOf s t).pending.isNone then admitHeld t (tileOf s t).held s else s

/-- PASS_REQUEST (R90): a pass request reaches the tile, is held by the bay router, or is refused; a breakpoint holds it at the
tile input. -/
def execPassRequest (tile : Nat) (req : PassReq) (parity : List Bool) (s : State) : Out :=
  let bay := bayOfTile tile
  let key := boundary 65 tile
  done <| withhold bay key (.passRequest tile req parity) (fun s =>
    let b := breakpoint 5 (tlKey tile req.layer) (some bay) s
    let s := b.2
    if b.1 then { s with dbg.waiting := (bay, key, .passRequest tile req parity) :: s.dbg.waiting }
    else
      let x := tileOf s tile
      let ok := parityGood req.codes parity
      if x.pending.isNone && x.held.isEmpty || !ok || tileFenced s tile req.kind then admitReq tile req ok s
      else modTile tile (fun x => { x with held := x.held ++ [req] }) s) s

/-! ### Layer switches (R86, R87) -/

/-- LAYER_SWITCH_START (R87). A row step has no hold point, so no switch begins during it. -/
def execLayerSwitchStart (tile : Nat) (s : State) : Out :=
  let x := tileOf s tile
  done <| match x.pending with
    | some r =>
      if r.layer != x.active && x.settled && !(x.running.any fun p => p.req.kind == 2) && !halted s (bayOfTile tile) then
        modTile tile (fun x => { x with active := r.layer, settled := false }) s
      else s
    | none => s

/-- LAYER_SETTLED (R87). -/
def execLayerSettled (tile : Nat) (s : State) : Out := done (modTile tile (fun x => { x with settled := true }) s)

/-! ### Passes (R89, R91, R93, R178, R500, R582) -/

/-- The ramp of a tile-layer advances with a pass that starts after the acceptance of a soak (R178). -/
def advanceRamp (t layer kind : Nat) (s : State) : State :=
  modTl t layer (fun x => if kind = 1 then { x with rampT := min 256 (x.rampT + 1) }
    else { x with rampN := min 256 (x.rampN + 1) }) s

/-- A pass starts, with the layer, range and calibration values in force (R93). -/
def startPass (t : Nat) (req : PassReq) (s : State) : State :=
  let s := advanceRamp t req.layer req.kind s
  let tl := tlOf s t req.layer
  let w := lcfg s t req.layer
  let run : PassRun := { req := req, range := if req.kind = 1 then fld w 14 12 else fld w 10 8, cal := tl.cal,
                         old := tl.old, n := if req.kind = 1 then tl.rampT else tl.rampN }
  let s := modTile t (fun x => { x with pending := none, running := some run, sinceProbe := min 8 (x.sinceProbe + 1) }) s
  let bay := bayOfTile t
  let plan := (imgOf s req.im).draw.transposed
  let s := whenS (req.kind == 0 || req.kind == 1 && plan) (capturePass (tlKey t req.layer) bay run) s
  admitHeld t (tileOf s t).held s

/-- PASS_START (R89): all four conditions hold, and a token is taken.  A layer that is no longer VALID, or no longer enabled for
transposed passes, refuses its pending request now (R88). DESIGN CHOICE (log entry 92). -/
def execPassStart (tile : Nat) (s : State) : Out :=
  done <|
    if startable s tile then
      match (tileOf s tile).pending with
      | some req =>
        if layerInvalid s tile req then
          let s := dropPending tile s
          admitHeld tile (tileOf s tile).held (refuseReq tile req 5 2 3 stExec s)
        else
          let s := takeToken tile s
          if (tileOf s tile).token then startPass tile req s else s
      | none => s
    else s

/-! ### The column product (R80, R81, R84, R102) -/

/-- The count of a level in eighths (R81). -/
def levelCount8 (fp4 : Bool) (l : Nat) : Nat :=
  if 12 ≤ l then l - 11
  else if fp4 then 8 * ([0, 1, 2, 3, 4, 6, 8, 12].getD l 0)
  else 8 * (if l ≤ 8 then l else 0)

/-- Drive counts of a code (R84). -/
def driveCount (fp4 : Bool) (c : Nat) : Int :=
  if fp4 then
    let m : Int := ((levelCount8 true (c % 8) / 8 : Nat) : Int)
    if c.testBit 3 then -m else m
  else sxt 4 c

/-- The level of a cell: tile-layer, row and physical column. -/
def cellKey (tl row phys : Nat) : Nat := tl * 2 ^ 21 + row * 2 ^ 11 + phys
def cellOf (s : State) (tl row phys : Nat) : Nat := tget 0 s.cells (cellKey tl row phys)

/-- Eighths of the weight count m of row `i`, weight column `j` of a tile-layer whose weights are FP4 or not (R80). -/
def weight8 (s : State) (tl : Nat) (fp4 : Bool) (i j : Nat) : Int :=
  (levelCount8 fp4 (cellOf s tl i (2 * j)) : Int) - levelCount8 fp4 (cellOf s tl i (2 * j + 1))

/-- Eighths of the ideal product of column `k` under drive counts on the rows, or of row `k` under drive counts on the columns, in
product units (R84, R102). -/
def dot8 (s : State) (tl : Nat) (fp4 trans : Bool) (ds : List Int) (k : Nat) : Int :=
  (ds.mapIdx fun i d => d * (if trans then weight8 s tl fp4 k i else weight8 s tl fp4 i k)).sum

/-- Eighths of the ideal product of column `k` of a pass, or of row `k` of a transposed pass. -/
def product8 (s : State) (tl : Nat) (trans : Bool) (codes : List Nat) (k : Nat) : Int :=
  let w := (rd s .TILE_LCFG tl).toNat
  dot8 s tl (w.testBit 1) trans (codes.map (driveCount (w.testBit (if trans then 3 else 2)))) k

/-! ### Conversions (R95, R100) -/

/-- The raw gain and the raw offset lie within what R96 guarantees. -/
def convOk (c : Conv) : Bool := decide (4 / 5 ≤ c.γ) && decide (c.γ ≤ 5 / 4) && decide (-16 ≤ c.off) && decide (c.off ≤ 16)

/-- The rounded conversion of a column in range `r` before the clamp: `round(P_a / (LSB_r × γ) + o_a)` (R95, R97), from the ideal
product in eighths of a product unit. DESIGN CHOICE (log entry 32). -/
def convert (p8 : Int) (r : Nat) (c : Conv) : Int :=
  (((p8 : ℚ) / 8 + c.err) / ((2 ^ (8 - r) : ℕ) * c.γ) + c.off + 1 / 2).floor

/-- An ADC code: the converted value clamped to −256 to +255 (R95). -/
def clampCode (c : Int) : Int := if c < -256 then -256 else if 255 < c then 255 else c

/-- The conversion clamped (R100). DESIGN CHOICE (log entry 32). -/
def isClamped (c : Int) : Bool := decide (c ≤ -256) || decide (255 ≤ c)

/-- A clamped conversion is recorded (R100, R114). -/
def recordSat (t layer range : Nat) (trans : Bool) (idx : Nat) (high : Bool) (s : State) : State :=
  let first := !rb s .TILE_STAT 4 t
  let s := setEv .TILE_SAT (idx % 32) (t * 32 + idx / 32) (setEv .TILE_STAT 4 t s)
  let s := bumpSat .TILE_SAT_CNT 31 0 1 t s
  let s := wr .TILE_SAT_LAST t (BitVec.ofNat 32 (idx + layer * 2 ^ 10 + b2n trans * 2 ^ 12 + b2n high * 2 ^ 13
    + range * 2 ^ 14)) s
  whenS first (logE { cls := 0x0D, code := 1, sev := 2, kind := 0, index := t, layer := layer, colRow := idx,
                      data := [4] }) s

/-- The clamped conversions of wave `w`: ADC `a` converts column or row `8a + w` (R95, R102). -/
def recordWave (t layer range w : Nat) (trans : Bool) : Nat → List Int → State → State
  | _, [], s => s
  | a, c :: cs, s =>
    recordWave t layer range w trans (a + 1) cs
      (if isClamped c then recordSat t layer range trans (8 * a + w) (decide (0 ≤ c)) s else s)

/-- The converted values of wave `w` of a pass: ADC `a` converts column or row `8a + w` (R95, R102). -/
def waveCodes (s : State) (t : Nat) (r : PassRun) (convs : List Conv) : List Int :=
  convs.mapIdx fun a c =>
    convert (product8 s (tlKey t r.req.layer) (r.req.kind == 1) r.req.codes (8 * a + r.wave)) r.range c

/-- PASS_WAVE_CONVERTED (R95, R100): the codes of a wave of the 128 ADCs, clamped, leave the tile with layer, range and wave index
(R93). DESIGN CHOICE (log entries 32, 87). -/
def execPassWaveConverted (tile : Nat) (convs : List Conv) (s : State) : Out :=
  done <| match (tileOf s tile).running with
    | some r =>
      if decide (r.req.kind ≤ 1) && decide (r.wave < 8) && convs.length == 128 && convs.all convOk then
        let codes := waveCodes s tile r convs
        let s := modTile tile (fun x => { x with running := some { r with wave := r.wave + 1 } }) s
        let s := recordWave tile r.req.layer r.range r.wave (r.req.kind == 1) 0 codes s
        emit (.fabric 1 (clOfTile tile) tagWave
          ([tile, r.req.layer, r.range, r.wave, r.req.part] ++ codes.map fun c => toTwos 16 (clampCode c))) s
      else s
    | none => s

/-- The running pass ends: its count, and its token (R91, R112, R113). -/
def endPass (t : Nat) (r : PassRun) (s : State) : State :=
  let last := if decide (r.req.kind ≤ 1) && decide (r.taken < 8) then some r else none
  let s := modTile t (fun x => { x with running := none, last := last }) s
  let s := if r.req.kind = 0 then bump64 .TILE_PASS_CNT_LO .TILE_PASS_CNT_HI 1 t s
    else if r.req.kind = 1 then bump .TILE_TPASS_CNT 1 t s else s
  returnToken t s

/-- PASS_END (R91): after the eighth wave, or the end of a probe. DESIGN CHOICE (log entry 86). -/
def execPassEnd (tile : Nat) (s : State) : Out :=
  done <| match (tileOf s tile).running with
    | some r => if r.req.kind != 2 && r.wave == 8 then endPass tile r s else s
    | none => s

end Sys2Proof.Machine
end

