-- ==== Sys2Proof/Machine/Accum.lean ====
section
/-! DEFINITION. The accumulation unit of a cluster (R63 to R67, R127 to R138): banks, calibration, alignment, narrow sums,
promotion, preloads, glaze contributions and delivery. -/

namespace Sys2Proof.Machine

open Sys2Proof

/-! ### From ADC code to calibrated code (R63, R131, R178) -/

/-- Key of the gain and offset of a column or row in a range. -/
def goKey (trans : Bool) (range idx : Nat) : Nat := b2n trans * 2 ^ 13 + range * 2 ^ 10 + idx

/-- The gain and offset in force for a column in a pass, in the midst of a ramp the blend of R178. -/
def goOf (r : PassRun) (idx : Nat) : GO :=
  let k := goKey (r.req.kind == 1) r.range idx
  let new := tget {} r.cal k
  if 256 ≤ r.n then new else
  let old := tget {} r.old k
  { g := ((old.g : Int) + rneShift (((new.g : Int) - old.g) * r.n) 8).toNat,
    o := old.o + rneShift ((new.o - old.o) * r.n) 8 }

/-- The calibrated code in eighths of a code: `RNE(8 g (c − o))` (R63). -/
def calibrate (x : GO) (c : Int) : Int := rneShift (x.g * (8 * c - x.o)) 15

/-- The calibrated code aligned to E_max (R64). -/
def alignCode (k : Int) (shift : Nat) : Int := if 16 ≤ shift then 0 else rneShift k shift

/-- Addition that saturates in INT16 (R65). -/
def sat16 (a b : Int) : Int := max (-32768) (min 32767 (a + b))

/-- The narrow sum of the pure 16-bit mode, and whether an addition saturated (R65). -/
def narrow16 (ks : List Int) : Int × Bool :=
  ks.foldl (fun a k => (sat16 a.1 k, a.2 || decide (sat16 a.1 k ≠ a.1 + k))) (0, false)

/-- The exponent of a product unit: 0.25, 0.5 or 1 (R66). -/
def unitExp (wFmt dFmt : Bool) : Int := -((b2n wFmt : Int) + b2n dFmt)

/-- The exponent of LSB_r: 256 at range 0 down to 2 at range 7 (R97). -/
def lsbExp (range : Nat) : Int := 8 - range

/-- A narrow sum in product units at E_max, as an exact value (R66). -/
def sumVal (s : Int) (e : Int) : Val := .fin (decide (s < 0)) s.natAbs e

/-- The adapter of an index in an image, and its port. -/
def adpOf (i : Image) (idx : Nat) : AdpE := (i.adapters.find? fun a => a.index == idx).getD {}
def adpKey (im idx : Nat) : Nat := im * 2 ^ 16 + idx
def portOf (s : State) (im idx : Nat) : Adapter := tget {} s.adapters (adpKey im idx)

/-! ### The training store (R334) -/

/-- Bytes of the record of an adapted slice in the training store: x, h, and the selection of each row block. -/
def trainLen (i : Image) (a : AdpE) : Nat :=
  let x := sliceOf i a.slice
  x.dIn * 2 + (a.rank * 2 + 7) / 8 * 8 + 128 * x.rows

/-- The record of an adapted slice for a position of a sequence: behind the slip-form entries of the position, in ascending slice
order. DESIGN CHOICE (log entry 32). -/
def trainAt (s : State) (i : Image) (a : AdpE) (tag : Option (Nat × Nat)) : Option Nat :=
  match tag with
  | none => none
  | some (q, pos) =>
    ((tget {} s.seqs q).keep.find? fun e => decide (e.1 ≤ pos) && decide (pos < e.1 + e.2.1)).map fun e =>
      let per := e.2.2.2 / e.2.1
      let len := fun (l : List AdpE) => (l.map (trainLen i)).sum
      e.2.2.1 + (pos - e.1) * per + (per - len i.adapters) + len (i.adapters.filter fun b => decide (b.slice < a.slice))

/-- Where h, and the selection of a row block, stand in a record. -/
def trainH (i : Image) (a : AdpE) : Nat := (sliceOf i a.slice).dIn * 2
def trainSel (i : Image) (a : AdpE) (rb : Nat) : Nat := trainH i a + (a.rank * 2 + 7) / 8 * 8 + 128 * rb

/-- `n` bytes of a record hold an uncorrectable error. -/
def trainBad (s : State) (i : Image) (a : AdpE) (tag : Option (Nat × Nat)) (off n : Nat) : Bool :=
  ((trainAt s i a tag).map fun at_ => anyPoison s (at_ + off) n).getD false

/-- Row `row` of the forward slice was an outlier channel in the forward pass, by the selection record (R144). -/
def outRow (s : State) (i : Image) (a : AdpE) (tag : Option (Nat × Nat)) (row : Nat) : Bool :=
  match trainAt s i a tag with
  | some at_ => (rdByte s (at_ + trainSel i a (row / 1024) + row % 1024 / 8)).toNat.testBit (row % 8)
  | none => false

/-- The rows of a part of a transposed slice that were outlier channels in the forward pass (R144). -/
def outRows (s : State) (i : Image) (x : SliceE) (vec : Nat) (cols : List Nat) : List Nat :=
  match adapterOf i x with
  | some a => if x.kind = 1 then cols.filter (outRow s i a (ctlOf s vec).tag) else []
  | none => []

/-! ### Passes in the banks (R127, R128) -/

/-- The parts in a bank of an accumulation unit. -/
def inBank (s : State) (cl b : Nat) : Tab AccPass := s.acc.filter fun e => e.1 / 32 == cl * 2 + b

/-- The part has been delivered in the pass of a vector. -/
def partPast (s : State) (vec cl part : Nat) : Bool := (ctlOf s vec).past.contains (cl * 32 + part)

/-- A bank can take a part of a pass group for the pass of a vector, or for one still to come: it is free, or it holds other
parts of that pass alone (R127, R128).  A preload that came first is of the pass that takes its bank. -/
def bankFits (s : State) (cl im pg part : Nat) (vec : Option Nat) (b : Nat) : Bool :=
  (inBank s cl b).all fun e => e.2.im == im && e.2.group == pg && e.1 % 32 != part &&
    (match vec, e.2.vec with
     | some v, some w => v == w
     | some v, none => !partPast s v cl (e.1 % 32)
     | none, some w => !partPast s w cl part
     | none, none => true)

/-- The bank that a part takes: one that already serves its pass, else a free one. DESIGN CHOICE (log entry 31). -/
def bankFor (s : State) (cl im pg part : Nat) (vec : Option Nat) : Option Nat :=
  let fits := bankFits s cl im pg part vec
  let used := fun b => !(inBank s cl b).isEmpty
  if used 0 && fits 0 then some 0
  else if used 1 && fits 1 then some 1
  else if fits 0 then some 0
  else if fits 1 then some 1
  else none

/-- The device address of a cluster's scratchpad. -/
def scratchBase (cl : Nat) : Nat := 0x4000000000 + cl * 0x100000

/-- The bias of output column `col` of a slice as an FP32 word, and whether its word is poisoned (R132, R209). -/
def biasAt (s : State) (i : Image) (x : SliceE) (col : Nat) : Nat × Bool :=
  match i.biases.find? fun b => b.index == x.bias && decide (b.col ≤ col) && decide (col < b.col + b.n) with
  | some b =>
    let f := (Fmt.ofCode b.fmt).getD .fp32
    let a := b.loc + (col - b.col) * (f.width / 8)
    ((encode .fp32 .rne (decode f (elemAt f (fun k => rdByte s (b.loc + k)) (col - b.col)))).1, poisoned s a)
  | none => (0, false)

/-- The preload value of a column from its residual (R132). -/
def preValue (s : State) (i : Image) (x : SliceE) (cb j residual : Nat) : Nat :=
  if x.pre = 3 then (f32Add residual (biasAt s i x (1024 * cb + j)).1).1 else residual

/-- The preload that the unit reads itself when a pass takes its bank (R132, R133): a bias, or a residual from the
scratchpad; and whether an uncorrectable error was met, or the place refuses it (R138). -/
def ownPreload (s : State) (i : Image) (r : RouteE) : Tab Nat × Bool :=
  let x := sliceOf i r.slice
  let cols := List.range (blockCols x r.cb)
  let from_ := scratchBase r.cl + r.preAddr * 8
  let bad := x.pre != 2 && ((cols.any fun j => (biasAt s i x (1024 * r.cb + j)).2) ||
    i.biases.any fun b => b.index == x.bias && dieDown s (r.cl / 48) b.loc 1)
  if !r.home || x.pre = 0 then ([], false)
  else if x.pre = 1 then (cols.map (fun j => (j, (biasAt s i x (1024 * r.cb + j)).1 + 1)), bad)
  else if r.preSrc = 1 then
    (cols.map (fun j => (j, preValue s i x r.cb j (ofBytesLE (rdBytes s (from_ + 4 * j) 4)) + 1)),
     bad || anyPoison s from_ (4 * cols.length) || dieDown s (r.cl / 48) from_ 1)
  else ([], bad)

/-- Whether a part takes a glaze contribution in a pass (R141): decided once an adapter term is formed, a row block of its slice
sends a channel, or every row block has been quantised; none before. -/
def needsGlaze (s : State) (i : Image) (r : RouteE) (vec : Nat) : Option Bool :=
  let c := ctlOf s vec
  let x := sliceOf i r.slice
  if !r.glaze then some false
  else if ((adapterOf i x).isSome && !c.bypass) || c.sends.any (fun e => e.2 == 2) then some true
  else if x.rows ≤ c.sends.length then some false
  else none

/-- A part as it takes a bank (R128, R132), with what is known against its pass. -/
def newPass (s : State) (i : Image) (im : Nat) (vec : Option Nat) (r : RouteE) : AccPass :=
  let x := sliceOf i r.slice
  let pre := ownPreload s i r
  { im := im, vec := vec, group := x.group, part := r.part, slice := r.slice, cb := r.cb, npos := (partTiles i r).length,
    tiles := ((partTiles i r).map fun e => e.2.tile).mapIdx fun k t => (k, t), pre := pre.1, born := s.accNext,
    fault := if pre.2 then some (4, 0, partLayer s im r.cl r.part) else none }

/-- The faults kept for a part of a pass are laid upon it. -/
def takeLate (s : State) (cl part vec : Nat) (a : AccPass) : AccPass :=
  foldS ((tget [] s.accLate (cl * 32 + part)).filter fun x => x.im == a.im && x.vec == vec)
    (fun x => markFault x.cause x.tile x.layer x.pos) a

/-- A bank serves the pass of a vector: the parts whose preload came first are of that pass. -/
def claimBank (cl b vec : Nat) (s : State) : State :=
  { s with acc := s.acc.map fun e =>
      if e.1 / 32 = cl * 2 + b ∧ e.2.vec.isNone then (e.1, takeLate s cl (e.1 % 32) vec { e.2 with vec := some vec }) else e }

/-- The places that a part reads its own preload from (R132). -/
def preloadAt (i : Image) (r : RouteE) : List Nat :=
  let x := sliceOf i r.slice
  if !r.home || x.pre = 0 then []
  else (if x.pre = 2 then [] else (i.biases.filter fun b => b.index == x.bias).map (·.loc)) ++
    (if 2 ≤ x.pre ∧ r.preSrc = 1 then [scratchBase r.cl + r.preAddr * 8] else [])

/-- A part takes a bank for a pass, or ahead of it, and where none is free then, from a cross-check (R513); an uncorrectable error
of its own preload is reported (R138). DESIGN CHOICE (log entry 68). -/
def openPart (b cl im : Nat) (vec : Option Nat) (r : RouteE) (s : State) : State :=
  let a := newPass s (imgOf s im) im vec r
  let s := whenS a.fault.isSome (fun s => errSteps im stExec (accErr cl 4 0 (partLayer s im cl r.part) r.part s)) s
  let a := match vec with
    | some v => takeLate s cl r.part v a
    | none => a
  let s := foldS (preloadAt (imgOf s im) r) spmTouch (setAcc (accKey cl b r.part) (some a) { s with accNext := s.accNext + 1 })
  let s := whenS (!(inBank s cl 0).isEmpty && !(inBank s cl 1).isEmpty) (abandonOn 1 cl) s
  freeRoom (· == ukey 1 cl) (match vec with
    | some v => claimBank cl b v s
    | none => s)

/-- The scale of a position enters a part. -/
def putScale (k pos scale : Nat) (empty : Bool) (s : State) : State :=
  { s with acc := tmod {} s.acc k fun a => { a with scales := tins a.scales pos (scale + 1 + 512 * b2n empty) } }

/-- BLOCK_SCALE_ARRIVAL (R64, R128): the scale of position `pos` of a part, with whether its block is empty (R60); while both
banks hold results of other passes it waits. -/
def execBlockScaleArrival (cl part im vec pos scale : Nat) (empty : Bool) (s : State) : Out :=
  let c := Instr.blockScaleArrival cl part im vec pos scale empty
  let key := boundary 74 (cl * 64 + part)
  done <| withhold (bayOfCl cl) key c (fun s =>
    if !unitUp s 1 cl then emit (.answer 1 cl stFenced [part]) s else
    match routeOf (imgOf s im) cl part with
    | none => s
    | some r =>
      match accFind s cl part fun a => a.im == im && a.vec == some vec && a.result.isNone with
      | some (k, _) => putScale k pos scale empty s
      | none => match accFind s cl part fun a => a.im == im && a.vec.isNone with
        | some (k, _) => putScale k pos scale empty (claimBank cl (k / 32 % 2) vec s)
        | none => match bankFor s cl im (sliceOf (imgOf s im) r.slice).group part (some vec) with
          | none => park (ukey 1 cl) (bayOfCl cl) key c s
          | some b => putScale (accKey cl b part) pos scale empty (openPart b cl im (some vec) r s)) s

/-- The unit takes a preload for the part, which has columns still missing. -/
def preMissing (i : Image) (r : RouteE) (a : AccPass) : Bool :=
  let x := sliceOf i r.slice
  r.home && x.pre != 0 && (List.range (blockCols x r.cb)).any fun j => tget 0 a.pre j == 0

/-- The codes of a wave at a position: ADC `k` gives column `8 k + wave` (R95). -/
def putWave (base wave : Nat) : Nat → List Int → Tab Int → Tab Int
  | _, [], m => m
  | k, c :: cs, m => putWave base wave (k + 1) cs (tset 0 m (base + 8 * k + wave) c)

/-- The tile's codes of a wave have been accepted (R128). -/
def takeWave (x : Tile) : Tile :=
  match x.last with
  | some r => { x with last := if r.taken < 7 then some { r with taken := r.taken + 1 } else none }
  | none => { x with running := x.running.map fun r => { r with taken := r.taken + 1 } }

/-- ACC_CODE_ARRIVAL (R63, R93, R128, R40): a wave of a tile's pass enters that pass of its part; while no bank holds
it, the unit withholds its acknowledge. -/
def execAccCodeArrival (cl tile wave : Nat) (codes : List Int) (s : State) : Out :=
  done <|
    if halted s (bayOfCl cl) || inReset s 1 cl then s else
    let x := tileOf s tile
    match x.last <|> x.running with
    | none => s
    | some run =>
      if run.taken != wave || decide (run.wave ≤ wave) || 1 < run.req.kind then s else
      let part := run.req.part
      let pos := run.req.pos
      match accFind s cl part fun a =>
          a.im == run.req.im && a.vec == some run.req.vec && a.result.isNone && !(tget 0 a.waves pos).testBit wave with
      | none => s
      | some (k, a) =>
        let late := match routeOf (imgOf s a.im) cl part with
          | some r => !a.waited && preMissing (imgOf s a.im) r a
          | none => false
        let a := { a with codes := putWave (pos * 1024) wave 0 codes a.codes,
                          waves := tmod 0 a.waves pos (fun m => m ||| 2 ^ wave),
                          runs := tins a.runs pos run, waited := a.waited || late }
        let s := whenS late (fun s => wrf .ACC_WAIT_CNT 15 0 (rf s .ACC_WAIT_CNT 15 0 cl + 1) cl s) s
        modTile tile takeWave (setAcc k (some a) s)

/-! ### Preloads (R132, R133) -/

/-- A run of a preload written into a pass. -/
def putPre (s : State) (i : Image) (x : SliceE) (cb : Nat) : Nat → List Nat → Tab Nat → Tab Nat
  | _, [], m => m
  | j, v :: vs, m => putPre s i x cb (j + 1) vs (tins m j (preValue s i x cb j v + 1))

/-- A run is refused to its sender: PRELOAD_ERR with the cause of a duplicate preload (R133). DESIGN CHOICE (log entry 93). -/
def refusePre (cl part im off : Nat) (s : State) : State :=
  emit (.fabric 1 cl tagRefuse [part, off]) (accErr cl 5 0 (partLayer s im cl part) part s)

/-- A run of a preload goes into the part at `k`, or is refused as a second preload. -/
def putRun (cl part im off : Nat) (vals : List Nat) (k : Nat) (a : AccPass) (s : State) : State :=
  let i := imgOf s im
  if (List.range vals.length).any (fun j => tget 0 a.pre (off + j) != 0) then refusePre cl part im off s
  else setAcc k (some { a with pre := putPre s i (sliceOf i a.slice) a.cb off vals a.pre }) s

/-- The vector of the pass that a bank serves. -/
def bankVec (s : State) (cl b : Nat) : Option Nat := (inBank s cl b).findSome? fun e => e.2.vec

/-- PRELOAD_RUN (R133): a run belongs to the oldest pass of the part whose preload is not complete, or to the next one, for which
it takes a bank; a second preload, or a run beyond the columns of the part, is refused; a run for which no bank is free waits.
A part that takes no preload from a vector unit refuses it in the same way. DESIGN CHOICE (log entry 93). -/
def execPreloadRun (cl part im off : Nat) (vals : List Nat) (s : State) : Out :=
  let c := Instr.preloadRun cl part im off vals
  let key := boundary 76 (cl * 64 + part)
  done <| withhold (bayOfCl cl) key c (fun s =>
    if !unitUp s 1 cl then emit (.answer 1 cl stFenced [part]) s else
    let i := imgOf s im
    match routeOf i cl part with
    | none => refusePre cl part im off s
    | some r =>
      let x := sliceOf i r.slice
      if r.preSrc != 2 || !r.home || x.pre == 0 || decide (blockCols x r.cb < off + vals.length) then refusePre cl part im off s
      else match accFind s cl part fun a => a.im == im && a.result.isNone && preMissing i r a with
        | some (k, a) => putRun cl part im off vals k a s
        | none => match bankFor s cl im x.group part none with
          | none => park (ukey 1 cl) (bayOfCl cl) key c s
          | some b =>
            let s := openPart b cl im (bankVec s cl b) r s
            let k := accKey cl b part
            putRun cl part im off vals k (tget {} s.acc k) s) s

/-! ### Glaze contributions (R125, R126, R144) -/

/-- Every wave of every position has arrived. -/
def codesDone (a : AccPass) : Bool := (List.range a.npos).all fun p => tget 0 a.waves p == 255

/-- FP32 words written from column `j` on. -/
def putGlz : Nat → List Nat → Tab Nat → Tab Nat
  | _, [], m => m
  | j, v :: vs, m => putGlz (j + 1) vs (tins m j (v + 1))

/-- The last narrow group of column `j` of a part has been added: its codes, the scales and its preload are in (R126). -/
def colAdded (i : Image) (r : RouteE) (a : AccPass) (j : Nat) : Bool :=
  ((List.range a.npos).all fun p => (tget 0 a.waves p).testBit (j % 8) && tget 0 a.scales p != 0) &&
  (!r.home || (sliceOf i r.slice).pre == 0 || tget 0 a.pre j != 0)

/-- GLAZE_CONTRIBUTION_ARRIVAL (R126, R67): the complete glaze contribution of a run of columns for the pass of a vector; it is
counted for the columns held for it, and waits where the pass has no bank yet. -/
def execGlazeContributionArrival (cl part im vec off : Nat) (vals : List Nat) (s : State) : Out :=
  let c := Instr.glazeContributionArrival cl part im vec off vals
  let key := boundary 77 (cl * 64 + part)
  done <| withhold (bayOfCl cl) key c (fun s =>
    if !unitUp s 1 cl then emit (.answer 1 cl stFenced [part]) s else
    match routeOf (imgOf s im) cl part with
    | none => s
    | some r => match accFind s cl part fun a => a.im == im && a.vec == some vec && a.result.isNone with
      | none => if partPast s vec cl part then s else park (ukey 1 cl) (bayOfCl cl) key c s
      | some (k, a) =>
        let held := ((List.range vals.length).filter fun j => colAdded (imgOf s im) r a (off + j)).length
        let s := wrf .ACC_WAIT_CNT 31 16 (rf s .ACC_WAIT_CNT 31 16 cl + held) cl s
        setAcc k (some { a with glz := putGlz off vals a.glz }) s) s

/-! ### Completion and delivery (R65 to R67, R135, R137, R138) -/

/-- The block exponent of a position, none where the block is empty (R60, R64). -/
def blockExp (a : AccPass) (p : Nat) : Option Int :=
  let v := tget 0 a.scales p
  if 512 < v then none else some ((v : Int) - 1 - 127)

/-- E_max: the largest block exponent of the non-empty row blocks, −127 where there is none (R64). -/
def eMax (a : AccPass) : Int := ((List.range a.npos).filterMap (blockExp a)).foldl max (-127)

/-- A block scale of the part is 0xFF (R61). -/
def nanBlock (a : AccPass) : Bool := (List.range a.npos).any fun p => (tget 0 a.scales p - 1) % 512 == 255

/-- The aligned calibrated code of a position and column; zero for an empty block and for a row of R144. -/
def alignedCode (a : AccPass) (em : Int) (j p : Nat) : Int :=
  match blockExp a p with
  | none => 0
  | some e =>
    if a.zero.contains j then 0 else
    alignCode (calibrate (goOf (tget {} a.runs p) j) (tget 0 a.codes (p * 1024 + j))) (em - e).toNat

/-- The positions of narrow group `g` (R129), or all of them in the pure 16-bit mode (R135). -/
def groupPos (a : AccPass) (mode g : Nat) : List Nat :=
  (List.range a.npos).filter fun p => mode == 1 || p / 8 == g

/-- The number of narrow groups. -/
def groupCount (a : AccPass) (mode : Nat) : Nat := if mode = 1 then 1 else (a.npos + 7) / 8

/-- The range of a position's pass. -/
def posRange (a : AccPass) (p : Nat) : Nat := (tget {} a.runs p).range

/-- The first position whose range differs within its narrow group, among those whose tiles sent codes (R99, R138). -/
def rangeMismatch (a : AccPass) (mode : Nat) : Option Nat :=
  let ran := fun (p : Nat) => a.runs.any fun e => e.1 == p
  (List.range a.npos).find? fun p => ran p &&
    (groupPos a mode (p / 8)).any fun q => decide (q < p) && ran q && posRange a q != posRange a p

/-- The narrow sum of a group in a column (R65). -/
def narrowSum (a : AccPass) (em : Int) (j g : Nat) : Int := ((groupPos a 0 g).map (alignedCode a em j)).sum

/-- The exponent of one eighth-code of a group in product units at E_max (R66). -/
def groupExp (a : AccPass) (em : Int) (ue : Int) (mode g : Nat) : Int :=
  -3 + lsbExp (posRange a ((groupPos a mode g).headD 0)) + ue + em

/-- A column's result: the value delivered, and the events NSAT16 and ACC_INF. -/
structure ColRes where
  val   : Nat := 0
  nsat  : Bool := false
  ovf   : Bool := false
  deriving DecidableEq, Repr

/-- Wide additions in the order of R67, with the overflow flag. -/
def wideSum (xs : List (Nat × Bool)) : Nat × Bool :=
  match xs with
  | [] => (0, false)
  | x :: xs => xs.foldl (fun a b => let r := f32Add a.1 b.1; (r.1, a.2 || b.2 || r.2)) x

/-- The result of column `j` of a part (R65 to R67, R135).  A result of the pure 16-bit mode that overflows BF16 is counted as
ACC_INF. DESIGN CHOICE (log entry 94). -/
def columnResult (a : AccPass) (mode : Nat) (ue em : Int) (w j : Nat) : ColRes :=
  let wv := decode .fp32 w
  if mode = 2 then
    { val := toTwos 32 (((List.range a.npos).map (alignedCode a em j)).sum) }
  else if mode = 1 then
    let s := narrow16 ((groupPos a 1 0).map (alignedCode a em j))
    let r := encode .bf16 .rne (mulV (sumVal s.1 (groupExp a em ue 1 0)) wv).1
    { val := r.1, nsat := s.2, ovf := r.2.of }
  else
    let groups := (List.range (groupCount a 0)).map fun g => f32MulV (sumVal (narrowSum a em j g) (groupExp a em ue 0 g)) wv
    let pre := tget 0 a.pre j
    let glz := tget 0 a.glz j
    let r := wideSum ((if pre = 0 then [] else [(pre - 1, false)]) ++ groups ++
      (if a.h && glz != 0 then [(glz - 1, false)] else []))
    { val := r.1, ovf := r.2 }

/-- The part's result is complete: the codes and the preload have arrived, so that no later run is taken for another pass (R133), and
the glaze contribution, unless a fault makes the result NaN (R138). -/
def partReady (s : State) (r : RouteE) (a : AccPass) : Bool :=
  let i := imgOf s a.im
  codesDone a && (List.range a.npos).all (fun p => tget 0 a.scales p != 0) &&
  !preMissing i r a && (a.fault.isSome || (match needsGlaze s i r (a.vec.getD 0) with
    | none => false
    | some h => !h || (List.range (blockCols (sliceOf i r.slice) r.cb)).all fun j => tget 0 a.glz j != 0))

/-- The words that NaN takes in a result (R67, R138). -/
def nanWord (mode : Nat) : Nat := if mode = 2 then 0x80000000 else if mode = 1 then 0x7FC0 else nan32

/-- The words a part delivers: its columns, and E_max in integer mode (R137). -/
def partWords (i : Image) (a : AccPass) (bad : Bool) : List ColRes :=
  let x := sliceOf i a.slice
  let n := blockCols x a.cb
  let em := eMax a
  let ue := unitExp (sliceOf i (fwdOf x)).wFmt x.dFmt
  if bad then List.replicate (n + b2n (x.mode == 2)) { val := nanWord x.mode }
  else ((List.range n).map fun j =>
      columnResult a x.mode ue em (i.colscale.getD (x.cs + 1024 * a.cb + j) 0) j) ++
    (if x.mode = 2 then [{ val := toTwos 32 em }] else [])

/-- The format of a part's words: FP32, BF16 or INT32 (R137). -/
def partFmt (mode : Nat) : Fmt := if mode = 1 then .bf16 else if mode = 2 then .int32 else .fp32

/-- The FMT code of that format (R253). -/
def partFmtCode (mode : Nat) : Nat := if mode = 1 then 6 else if mode = 2 then 9 else 7

/-- The parts of a column block added in FP32, from the one of the lowest row block on (R130). -/
def homeAdd (parts : Tab (List Nat)) : List Nat :=
  (List.range (parts.headD (0, [])).2.length).map fun j => f32Sum (parts.map fun e => e.2.getD j 0)

/-- A part reaches the vector unit of the home cluster, which adds the parts once all have come and passes the sum to the operand
that the home part's destination word names (R130). DESIGN CHOICE (log entry 95). -/
def homePart (i : Image) (r : RouteE) (a : AccPass) (words : List Nat) (d : DestW) (s : State) : State :=
  let all := i.routes.filter fun x => x.slice == r.slice && x.cb == r.cb
  let mine := fun (h : HomeSum) => h.im == a.im && h.slice == r.slice && h.cb == r.cb && h.vec == a.vec.getD 0
  let old := (s.homeSums.find? mine).getD { im := a.im, slice := r.slice, cb := r.cb, vec := a.vec.getD 0 }
  let h := { old with parts := tins old.parts ((partTiles i r).headD (0, {})).1 words }
  let rest := s.homeSums.filter fun h => !mine h
  if h.parts.length < all.length then { s with homeSums := rest ++ [h] }
  else
    let w := ((all.find? (·.home)).bind fun x => x.dests.find? fun w => w.kind == 3).getD d
    emitWay d.cl w.cl a.im (.fabric 3 w.cl tagResult ([w.addr % 2 ^ 12, w.addr / 2 ^ 12 % 2 ^ 7, 7, 0] ++ homeAdd h.parts)) { s with homeSums := rest }

/-- A destination word of a part that gets its result. -/
def destLive (mode : Nat) (d : DestW) : Bool := d.kind == 1 || d.kind == 4 || (mode != 2 && (d.kind == 2 || d.kind == 3))

/-- A result goes to one destination (R137); one in integer mode only to a scratchpad or to the draw-ring checker. A destination behind a
closed crossing (R480), a scratchpad that is down, or a word of it that R288 refuses, ends the steps that need the result. -/
def deliver (i : Image) (r : RouteE) (mode : Nat) (a : AccPass) (words : List Nat) (d : DestW) (s : State) : State :=
  if destLive mode d && d.kind != 4 && wayClosed s (r.cl / 48) (.scratch d.cl) then errSteps a.im stFenced (xreset s)
  else if d.kind = 1 then
    let x := scratchBase d.cl + d.addr * 8
    let bytes := packElems (partFmt mode) words
    if placeDown s (placeOf x) then errSteps a.im stFenced s
    else spmWait d.cl (wrBytes x bytes (whenS (wrRefused s x bytes.length) (errSteps a.im stMemory) s))
  else if d.kind = 4 then emit (.fabric 6 (bayOfCl r.cl) tagResult words) s
  else if mode = 2 then s
  else if d.kind = 2 then
    emit (.fabric 3 d.cl tagResult ([d.addr % 2 ^ 12, d.addr / 2 ^ 12 % 2 ^ 7, partFmtCode mode, 0] ++ words)) s
  else if d.kind = 3 then homePart i r a words d s
  else s

/-- A part has been delivered in a pass. -/
def passPart (vec cl part : Nat) (s : State) : State :=
  { s with passes := s.passes.map fun e => if e.1 = vec then (e.1, { e.2 with past := (cl * 32 + part) :: e.2.past }) else e }

/-- A captured sample of the part receives the chain record (R500), or is to be discarded (R501). -/
def recordSample (a : AccPass) (bad : Bool) (x : Sample) : Sample :=
  if x.run.isSome && x.part.isNone && x.im == a.im && a.tiles.any (fun e => e.2 == x.tl / 4 &&
      (tget {} a.runs e.1).req.layer == x.tl % 4 && x.run.map (·.req) == some (tget {} a.runs e.1).req) then
    { x with part := some a, spoiled := x.spoiled || bad }
  else x

/-- Words of an accumulator bank, and of a calibration store, in the record of poisoned words (R305). DESIGN CHOICE (log entry 103). -/
def bankWord (k col : Nat) : Nat := 4 * 2 ^ 40 + k * 1024 + col
def calWord (tl col : Nat) : Nat := 6 * 2 ^ 40 + tl * 1024 + col

/-- A poisoned word lies in the 1,024 words from `w` on. -/
def badRow (s : State) (w : Nat) : Bool := s.poisonX.any fun e => decide (w ≤ e.1) && decide (e.1 < w + 1024)

/-- A part's bank, or the calibration of one of its tile-layers, holds an uncorrectable error, met at its delivery (R288, R297).
DESIGN CHOICE (log entry 103). -/
def bankBad (s : State) (k : Nat) (a : AccPass) : Bool :=
  badRow s (bankWord k 0) ||
  a.tiles.any fun e => badRow s (calWord (tlKey e.2 (tget {} a.runs e.1).req.layer) 0)

/-- The columns of a part of a transposed slice whose narrow-group terms are zero, in every part of their column block, because the
rows were outlier channels in the forward pass (R144); and whether the selection record holds an uncorrectable error. -/
def zeroRows (s : State) (i : Image) (a : AccPass) : List Nat × Bool :=
  let x := sliceOf i a.slice
  let rows := (List.range (blockCols x a.cb)).map (1024 * a.cb + ·)
  ((outRows s i x (a.vec.getD 0) rows).map (· - 1024 * a.cb),
   x.kind == 1 && (adapterOf i x).any fun d => trainBad s i d (ctlOf s (a.vec.getD 0)).tag (trainSel i d a.cb) 128)

/-- A part's result is formed and delivered. -/
def finishPart (cl : Nat) (r : RouteE) (k : Nat) (a : AccPass) (s : State) : State :=
  let i := imgOf s a.im
  let x := sliceOf i a.slice
  let z := zeroRows s i a
  let a := { a with h := needsGlaze s i r (a.vec.getD 0) == some true, zero := z.1 }
  let mis := rangeMismatch a x.mode
  let s := match mis with
    | some p => errSteps a.im stExec (accErr cl 1 (tget 0 a.tiles p) (tget {} a.runs p).req.layer a.part s)
    | none => s
  let ecc := bankBad s k a || z.2
  let s := whenS ecc (errSteps a.im stMemory) s
  let bad := a.fault.isSome || mis.isSome || nanBlock a || ecc
  let res := partWords i a bad
  let nsat := (res.filter (·.nsat)).length
  let ovf := (res.filter (·.ovf)).length
  let s := whenS (decide (0 < nsat)) (fun s => glzConv 2 nsat cl (setEv .ACC_STAT 4 cl s)) s
  let s := whenS (decide (0 < ovf)) (fun s => glzConv 3 ovf cl (setEv .ACC_STAT 5 cl s)) s
  let words := res.map (·.val)
  let a := { a with result := some words, acks := (r.dests.filter (destLive x.mode)).length }
  let s := { s with samples := tmod [] s.samples (bayOfCl cl) (fun l => l.map (recordSample a bad)),
                    accLate := tmod [] s.accLate (cl * 32 + a.part) (fun l => l.filter fun y => y.im != a.im || some y.vec != a.vec) }
  passPart (a.vec.getD 0) cl a.part (foldS r.dests (deliver i r x.mode a words) (setAcc k (some a) s))

/-- ACC_PART_COMPLETE (R137, R138): the oldest pass of the part, once complete, delivers its result. -/
def execAccPartComplete (cl part : Nat) (s : State) : Out :=
  done <|
    if halted s (bayOfCl cl) || inReset s 1 cl then s else
    match accFind s cl part fun a => a.result.isNone with
    | none => s
    | some (k, a) => match routeOf (imgOf s a.im) cl part with
      | none => s
      | some r => if partReady s r a then finishPart cl r k a s else s

/-- A destination of a part's result has answered: the bank is freed with the last one (R137, R270). -/
def ackPart (cl part : Nat) (s : State) : State :=
  match accFind s cl part fun a => a.result.isSome with
  | none => s
  | some (k, a) =>
    if a.acks ≤ 1 then freeRoom (· == ukey 1 cl) (setAcc k none { s with poisonX := tdrop (fun w => w / 1024 == bankWord k 0 / 1024) s.poisonX })
    else setAcc k (some { a with acks := a.acks - 1 }) s

/-- DESTINATION_ACK (R137): the bank is freed when the last destination has acknowledged the result. -/
def execDestinationAck (cl part : Nat) (s : State) : Out := done (ackPart cl part s)

end Sys2Proof.Machine
end

