-- ==== Sys2Proof/Machine/ImgParse.lean ====
section
/-! DEFINITION. The containers of ch. 6 read from their bytes: the header and directory of a setting image (R198 to R202),
its sections (R203 to R210, R266, R335 to R337, R405 to R408, R503), and the header and directory of a ware (R212, R213). -/

namespace Sys2Proof.Machine

open Sys2Proof

/-- The `n` bytes at offset `o`, as numbers. -/
def numsAt (b : List Byte) (o n : Nat) : List Nat := ((b.drop o).take n).map (·.toNat)

/-- The big-endian number of `n` bytes at offset `o`: digests and key fingerprints are byte strings. -/
def beAt (b : List Byte) (o n : Nat) : Nat := (numsAt b o n).foldl (fun a x => a * 256 + x) 0

/-- `n` little-endian values of `w` bytes from offset `o`. -/
def valsAt (b : List Byte) (o w n : Nat) : List Nat := (List.range n).map fun i => leAt b (o + w * i) w

/-- A length rounded up to a multiple of 8. -/
def pad8 (n : Nat) : Nat := (n + 7) / 8 * 8

/-- Bytes `[o, o + n)` are zero. -/
def zeroAt (b : List Byte) (o n : Nat) : Bool := ((b.drop o).take n).all (· == 0)

/-! ### Directory (R200) -/

/-- An entry of the section directory. -/
structure Sect where
  ty    : Nat := 0
  count : Nat := 0
  off   : Nat := 0
  size  : Nat := 0
  deriving DecidableEq, Repr

/-- The section directory of an image. -/
def sectsOf (b : List Byte) : List Sect :=
  (List.range (leAt b 0x3C 2)).map fun i =>
    let o := 0x80 + 24 * i
    { ty := leAt b o 2, count := leAt b (o + 4) 4, off := leAt b (o + 8) 8, size := leAt b (o + 16) 8 }

/-- The section of a type. -/
def sectOf (b : List Byte) (ty : Nat) : Option Sect := (sectsOf b).find? fun x => x.ty == ty

/-- The bytes of a section; none where it is absent. -/
def sectBytes (b : List Byte) (ty : Nat) : List Byte :=
  match sectOf b ty with
  | some x => (b.drop x.off).take x.size
  | none => []

/-- The COUNT of a section. -/
def sectCount (b : List Byte) (ty : Nat) : Nat := ((sectOf b ty).map (·.count)).getD 0

/-- Entries of a fixed size, from the bytes of their section. -/
def fixedEntries {α : Type} (size : Nat) (f : List Byte → α) (count : Nat) (b : List Byte) : List α :=
  (List.range count).map fun i => f ((b.drop (size * i)).take size)

/-- Records of a variable size: each is read by `f`, which gives the record and its length, or none where it is malformed.
The records read, and whether all `count` of them were well formed. -/
def varRecords {α : Type} (f : List Byte → Option (α × Nat)) : Nat → List Byte → List α × Bool
  | 0, _ => ([], true)
  | n + 1, b => match f b with
    | some (x, l) => let r := varRecords f n (b.drop l); (x :: r.1, r.2)
    | none => ([], false)

/-- The bytes that stand after the records of a section. -/
def varRest {α : Type} (f : List Byte → Option (α × Nat)) : Nat → List Byte → List Byte
  | 0, b => b
  | n + 1, b => match f b with
    | some (_, l) => varRest f n (b.drop l)
    | none => []

/-! ### Structural sections (R203 to R206) -/

def readCluster (b : List Byte) : ClusterE := { cl := leAt b 0 2, spare := leAt b 2 1, region := leAt b 3 1 }

def readSlice (b : List Byte) : SliceE :=
  let fmt := leAt b 3 1
  let acc := leAt b 4 1
  { id := leAt b 0 2, kind := leAt b 2 1, wFmt := fmt.testBit 0, dFmt := fmt.testBit 1, ocp := fmt.testBit 2,
    mode := acc % 4, pre := acc / 4 % 4, rows := leAt b 5 1, cols := leAt b 6 1, dIn := leAt b 8 4, dOut := leAt b 12 4,
    pair := leAt b 16 2, adapter := leAt b 18 2, group := leAt b 20 2, cs := leAt b 24 4, bias := leAt b 28 4 }

/-- The reserved bits of a SLICE entry are zero (R204), those of a PLACEMENT entry (R205), and those of a CLUSTER entry (R203);
the enumerated bytes hold listed values. -/
def sliceReservedOk (b : List Byte) : Bool :=
  decide (leAt b 3 1 < 8) && decide (leAt b 4 1 < 16) && decide (leAt b 2 1 ≤ 1) && zeroAt b 7 1 && zeroAt b 22 2
def placeReservedOk (b : List Byte) : Bool :=
  decide (leAt b 3 1 ≤ 1) && !(leAt b 8 1).testBit 3 && !(leAt b 8 1).testBit 7 && zeroAt b 9 3
def clusterReservedOk (b : List Byte) : Bool := zeroAt b 4 4

/-- A ROUTE entry names one to four destinations, its other words are unused, and its reserved bits are zero (R206). -/
def routeReservedOk (b : List Byte) : Bool :=
  let n := leAt b 7 1
  decide (leAt b 6 1 < 4) && decide (1 ≤ n) && decide (n ≤ 4) && zeroAt b 11 1 &&
  (((valsAt b 16 4 4).drop n).all fun w => w % 16 == 0)

def readPlace (b : List Byte) : PlaceE :=
  let rg := leAt b 8 1
  { tile := leAt b 0 2, layer := leAt b 2 1, ten := leAt b 3 1 == 1, slice := leAt b 4 2, rb := leAt b 6 1, cb := leAt b 7 1,
    range := rg % 8, trange := rg / 16 % 8, record := leAt b 12 4 }

/-- A destination word (R206). -/
def readDest (w : Nat) : DestW := { kind := w % 16, cl := bitsOf w 12 4, addr := bitsOf w 31 13 }

def readRoute (b : List Byte) : RouteE :=
  let fl := leAt b 6 1
  { slice := leAt b 0 2, cb := leAt b 2 1, part := leAt b 3 1, cl := leAt b 4 2, home := fl.testBit 0, glaze := fl.testBit 1,
    glzCl := leAt b 8 2, preSrc := leAt b 10 1, preAddr := leAt b 12 4,
    dests := ((valsAt b 16 4 (min 4 (leAt b 7 1))).map readDest) }

/-! ### Records (R207 to R210) -/

def readOutlier (b : List Byte) : Option (OutE × Nat) :=
  let nf := leAt b 4 1
  let nc := leAt b 5 1
  let l := pad8 (8 + 2 * nf + 2 * nc)
  if b.length < l || decide (3 < leAt b 3 1) || !zeroAt b 7 1 || !zeroAt b (8 + 2 * nf + 2 * nc) (l - (8 + 2 * nf + 2 * nc)) then none else
  some ({ slice := leAt b 0 2, rb := leAt b 2 1, mode := leAt b 3 1, fixed := valsAt b 8 2 nf, cand := valsAt b (8 + 2 * nf) 2 nc,
          kdyn := leAt b 6 1 }, l)

def readGlaze (b : List Byte) : Option (GlzE × Nat) :=
  let n := leAt b 12 4
  let l := pad8 (24 + 2 * n)
  if b.length < l || b.length < 24 || !zeroAt b 5 3 || !zeroAt b (24 + 2 * n) (l - (24 + 2 * n)) then none else
  some ({ slice := leAt b 0 2, ch := leAt b 2 2, rb := leAt b 4 1, col := leAt b 8 4, n := n, loc := leAt b 16 8,
          vals := valsAt b 24 2 n }, l)

def readBias (b : List Byte) : Option (BiasE × Nat) :=
  let n := leAt b 12 4
  let fmt := leAt b 4 1
  let w := if fmt = 7 then 4 else 2
  let l := pad8 (24 + w * n)
  if b.length < l || b.length < 24 || n = 0 || decide (1024 < n) || !(fmt == 5 || fmt == 6 || fmt == 7) ||
      !zeroAt b 5 3 || !zeroAt b (24 + w * n) (l - (24 + w * n)) then none else
  some ({ index := leAt b 0 4, fmt := fmt, col := leAt b 8 4, n := n, loc := leAt b 16 8, vals := valsAt b 24 w n }, l)

def readAPart (b : List Byte) : APartE :=
  { rb := leAt b 0 1, cl := leAt b 2 2, loc0 := leAt b 8 8, loc1 := leAt b 16 8, grad := leAt b 24 8 }

def readBPart (b : List Byte) : BPartE :=
  { col := leAt b 0 4, n := leAt b 4 2, cl := leAt b 6 2, loc0 := leAt b 8 8, loc1 := leAt b 16 8, grad := leAt b 24 8 }

/-- The reserved bytes of the A parts of an ADAPTER record are zero (R210). -/
def aPartsOk (na : Nat) (b : List Byte) : Bool := (fixedEntries 32 id na (b.drop 32)).all fun e => zeroAt e 1 1 && zeroAt e 4 4

def readAdapter (b : List Byte) : Option (AdpE × Nat) :=
  let na := leAt b 3 1
  let nb := leAt b 12 2
  let l := leAt b 16 8
  let vals := 32 + 32 * na + 32 * nb
  if !aPartsOk na b || b.length < l || l < vals || l % 8 != 0 || !zeroAt b 14 2 || !zeroAt b 24 8 || leAt b 2 1 = 0 || decide (64 < leAt b 2 1) then none else
  some ({ index := leAt b 0 2, rank := leAt b 2 1, alpha := leAt b 4 4, slice := leAt b 8 2, red := leAt b 10 2,
          as := fixedEntries 32 readAPart na (b.drop 32), bs := fixedEntries 32 readBPart nb (b.drop (32 + 32 * na)),
          init := valsAt b vals 2 ((l - vals) / 2) }, l)

/-! ### Microcode (R266) -/

/-- A record of the MICROCODE section. -/
inductive McRec where
  | prog (p : ProgE)
  | ctxs (c : CtxE)
  | slots (x : SlotsE)
  | data (d : DataE)
  deriving DecidableEq, Repr

/-- Its RTYPE. -/
def McRec.ty : McRec → Nat
  | .prog _ => 1 | .ctxs _ => 2 | .slots _ => 3 | .data _ => 4

def readMc (b : List Byte) : Option (McRec × Nat) :=
  let l := leAt b 4 4
  let cl := leAt b 2 2
  if b.length < l || l < 16 || l % 8 != 0 || !zeroAt b 1 1 then none
  else match leAt b 0 1 with
    | 1 =>
      let n := leAt b 12 4
      if l = 16 + 8 * n && cl = 0xFFFF && zeroAt b 10 2 then some (.prog { id := leAt b 8 2, words := valsAt b 16 8 n }, l) else none
    | 2 =>
      if l = 24 && zeroAt b 19 5 then
        some (.ctxs { cl := cl, prog := leAt b 8 2, entry := leAt b 10 2, first := leAt b 12 2, count := leAt b 14 2,
                      slotBase := leAt b 16 2, slotCount := leAt b 18 1 }, l)
      else none
    | 3 =>
      let n := leAt b 10 2
      if l = 16 + 8 * n && zeroAt b 12 4 then some (.slots { cl := cl, first := leAt b 8 2, descs := valsAt b 16 8 n }, l) else none
    | 4 =>
      let n := leAt b 12 4
      if l = 16 + pad8 n && zeroAt b (16 + n) (l - (16 + n)) then some (.data { cl := cl, off := leAt b 8 4, bytes := (b.drop 16).take n }, l) else none
    | _ => none

def mcProgs (rs : List McRec) : List ProgE := rs.filterMap fun
  | .prog p => some p
  | _ => none
def mcCtxs (rs : List McRec) : List CtxE := rs.filterMap fun
  | .ctxs c => some c
  | _ => none
def mcSlots (rs : List McRec) : List SlotsE := rs.filterMap fun
  | .slots x => some x
  | _ => none
def mcData (rs : List McRec) : List DataE := rs.filterMap fun
  | .data d => some d
  | _ => none

/-! ### Key/value layout, sampling plan, peer table (R335 to R337, R405 to R408, R503) -/

def readKvLayer (sec : List Byte) (b : List Byte) : KvLayerE :=
  { tier := leAt b 1 1, ret := leAt b 3 1, stripe := numsAt sec (leAt b 4 4) (leAt b 2 1), scale := leAt b 8 4,
    window := leAt b 12 4 }

def readKvPool (b : List Byte) : KvPoolE :=
  { kind := leAt b 0 1, tier := leAt b 1 1, owner := leAt b 2 1, base := leAt b 8 8, size := leAt b 16 8 }

def readKv (b : List Byte) : KvLayout :=
  let n := leAt b 0 1
  { hkv := leAt b 1 1, hq := leAt b 2 2, w := leAt b 4 2, stepMax := leAt b 8 2, seqMax := leAt b 10 2, posMax := leAt b 12 4,
    pageBytes := leAt b 16 4, slipBytes := leAt b 20 4, layers := fixedEntries 32 (readKvLayer b) n (b.drop 32),
    pools := fixedEntries 24 readKvPool (leAt b 6 1) (b.drop (32 + 32 * n)),
    digest := (Config.sha384 (b.map (·.toNat))).toNat }

def readDrawBay (b : List Byte) : DrawBayE := { bay := leAt b 0 1, rate := leAt b 2 2, first := leAt b 4 4 }
def readDrawTl (b : List Byte) : DrawTlE := { tl := leAt b 0 2, weight := leAt b 2 1, mask := leAt b 3 1 }

def readDraw (b : List Byte) : DrawPlan :=
  let n := leAt b 2 2
  { transposed := (leAt b 1 1).testBit 0, seed := leAt b 8 8, bays := fixedEntries 8 readDrawBay n (b.drop 32),
    tls := fixedEntries 4 readDrawTl (leAt b 4 4) (b.drop (32 + 8 * n)) }

def readPeer (b : List Byte) : PeerE :=
  let fl := leAt b 1 1
  { rank := leAt b 0 1, v6 := fl.testBit 0, fetch := fl.testBit 1, pmtu := leAt b 2 1, ports := numsAt b 4 4, ip := leAt b 8 16,
    mac := leAt b 24 6, vlan := leAt b 30 2, ctrlQpn := leAt b 32 4, dataQpn := valsAt b 36 4 4, localQpn := leAt b 52 4 }

def readRegion (b : List Byte) : RegionE :=
  { dir := leAt b 0 1, peer := leAt b 1 1, access := leAt b 2 1, rkey := leAt b 4 4, base := leAt b 8 8, len := leAt b 16 8 }

def readXch (b : List Byte) : XchE :=
  { index := leAt b 0 2, kind := leAt b 2 1, elems := leAt b 4 4, off := leAt b 8 4, dest := readDest (leAt b 12 4) }

def readPeers (b : List Byte) : PeerTable :=
  let np := leAt b 0x12 1
  let nr := leAt b 0x13 1
  let fl := leAt b 0x1C 4
  { job := leAt b 0 16, nmem := leAt b 16 1, self := leAt b 17 1, slots := leAt b 22 2, stretch := leAt b 24 4,
    selfFence := fl.testBit 0, serve := fl.testBit 1, xchBase := leAt b 32 8, xchSize := leAt b 40 8, fetchBase := leAt b 48 8,
    peers := fixedEntries 64 readPeer np (b.drop 64), regions := fixedEntries 32 readRegion nr (b.drop (64 + 64 * np)),
    xchs := fixedEntries 16 readXch (leAt b 20 2) (b.drop (64 + 64 * np + 32 * nr)) }

/-! ### The image and the ware -/

/-- The directory of a ware (R212, R213), from its header and directory. -/
def readWare (w : List Byte) : List WareRec :=
  fixedEntries 72 (fun b => { kind := leAt b 0 1, rows := leAt b 4 4, cols := leAt b 8 4, off := leAt b 16 8,
                              digest := beAt b 24 48 })
    (leAt w 16 4) (w.drop 0x80)

/-- The bytes of a record's payload (R213). -/
def payloadLen (r : WareRec) : Nat :=
  if r.kind = 2 then r.rows * r.cols else if r.kind = 3 then r.rows * r.cols * 2 else r.rows * ((r.cols + 1) / 2)

/-- The records of a section, where it is present; otherwise those of the image amended (R228). -/
def orBase {α : Type} (b : List Byte) (ty : Nat) (new old : List α) : List α := if (sectOf b ty).isSome then new else old

/-- The setting image that bytes give: a whole image, or the active image with the sections that a delta carries replaced
(R228). -/
def readImage (b w : List Byte) (base : Image) : Image :=
  let delta := (leAt b 0x16 2).testBit 0
  let base := if delta then base else {}
  let fl := leAt b 0x16 2
  let sec := sectBytes b
  let cnt := sectCount b
  let mc := (varRecords readMc (cnt 0xA) (sec 0xA)).1
  { part := leAt b 0x10 2, minStep := leAt b 0x12 1, split := leAt b 0x13 1, pt := leAt b 0x14 1, dieMask := leAt b 0x15 1,
    delta := delta, carried := if delta then (sectsOf b).map (·.ty) else [], kvCompat := fl.testBit 1 || delta, allowRemap := fl.testBit 2, id := leAt b 0x18 16, base := leAt b 0x28 16,
    svn := leAt b 0x38 4, wareDigest := beAt b 0x40 48, keyFpr := beAt b 0x70 8,
    clusters := orBase b 1 (fixedEntries 8 readCluster (cnt 1) (sec 1)) base.clusters,
    slices := orBase b 2 (fixedEntries 32 readSlice (cnt 2) (sec 2)) base.slices,
    places := orBase b 3 (fixedEntries 16 readPlace (cnt 3) (sec 3)) base.places,
    routes := orBase b 4 (fixedEntries 32 readRoute (cnt 4) (sec 4)) base.routes,
    outliers := orBase b 5 (varRecords readOutlier (cnt 5) (sec 5)).1 base.outliers,
    glaze := orBase b 6 (varRecords readGlaze (cnt 6) (sec 6)).1 base.glaze,
    colscale := orBase b 7 (valsAt (sec 7) 0 4 (cnt 7)) base.colscale,
    biases := orBase b 8 (varRecords readBias (cnt 8) (sec 8)).1 base.biases,
    adapters := orBase b 9 (varRecords readAdapter (cnt 9) (sec 9)).1 base.adapters,
    progs := orBase b 0xA (mcProgs mc) base.progs,
    ctxs := orBase b 0xA (mcCtxs mc) base.ctxs,
    slots := orBase b 0xA (mcSlots mc) base.slots,
    data := orBase b 0xA (mcData mc) base.data,
    kv := if (sectOf b 0xB).isSome then readKv (sec 0xB) else base.kv,
    draw := if (sectOf b 0xC).isSome then readDraw (sec 0xC) else base.draw,
    peers := if (sectOf b 0xD).isSome then readPeers (sec 0xD) else base.peers,
    embeds := orBase b 0xE (fixedEntries 16 (fun e => (leAt e 0 4, leAt e 8 8)) (cnt 0xE) (sec 0xE)) base.embeds,
    ware := if delta then base.ware else readWare w,
    wareRaw := if delta then base.wareRaw else w }

end Sys2Proof.Machine
end

