-- ==== Sys2Proof/Machine/NetOps.lean ====
section
/-! DEFINITION. Queue pairs and job members (R402, R410 to R412, R416): what the serving engine needs of the network. -/

namespace Sys2Proof.Machine

open Sys2Proof

/-- The job state of a context, and a queue pair. -/
def jobOf (s : State) (k : Nat) : Job := tget {} s.jobs k
def modMember (k : Nat) (f : Job → Job) (s : State) : State := { s with jobs := tmod {} s.jobs k f }
def qpOf (s : State) (n : Nat) : QPair := tget {} s.qps n
def modQp (n : Nat) (f : QPair → QPair) (s : State) : State := { s with qps := tmod {} s.qps n f }

/-- A context is a member that is HELD (R427). -/
def jobHeld (s : State) (k : Nat) : Bool := (jobOf s k).st == 2

/-- The peer table that the commands of a context use (R405), and an entry of it. -/
def peersOf (s : State) (k : Nat) : PeerTable := match (cxOf s k).active with
  | some im => (imgOf s im).peers
  | none => {}
def peerE (s : State) (k p : Nat) : PeerE := (peersOf s k).peers.getD p {}

/-- Types of what goes over a queue pair beside the control messages of R411: RDMA WRITE, RDMA WRITE with immediate, RDMA
READ, SEND with immediate, CNP, acknowledgement, NAK, response to a READ, PFC frame, answer to a neighbour. -/
def ntWrite : Nat := 0x40
def ntWriteImm : Nat := 0x41
def ntRead : Nat := 0x42
def ntSendImm : Nat := 0x43
def ntCnp : Nat := 0x44
def ntAck : Nat := 0x45
def ntNak : Nat := 0x46
def ntReadData : Nat := 0x47
def ntPfc : Nat := 0x48
def ntNeighbour : Nat := 0x49

/-- The number of queue pair `qi` of a peer entry: 0 control, 1 to 4 data (R406). -/
def qpNum (e : PeerE) (qi : Nat) : Nat := e.localQpn + qi

/-- The queue pair is ready. -/
def qpReady (s : State) (n : Nat) : Bool := (qpOf s n).st == 1

/-- A logical port carries traffic: its link is up and ENABLE is 1 (R431). -/
def portUp (s : State) (p : Nat) : Bool := rf s .NET_PORT_STAT 1 0 p == 2 && rb s .NET_PORT_CFG 4 p

/-- A port, and its change. -/
def lportOf (s : State) (p : Nat) : Port := tget {} s.ports p
def modLport (p : Nat) (f : Port → Port) (s : State) : State := { s with ports := tmod {} s.ports p f }

/-- The priority of what goes over a queue pair: control messages in the control class, the rest in the data class (R430). -/
def prioOf (s : State) (ty : Nat) : Nat := if ty < 0x40 then rf s .NET_TC_CFG 22 20 else rf s .NET_TC_CFG 10 8

/-- The bytes that a message carries, and the packets it takes at the path MTU of its peer (R399, R406, R411). -/
def bodyBytes (ty : Nat) (body : List Nat) : Nat :=
  if ty = 1 then 60 else if ty = 3 then 8 else if ty = 4 then 16 else if ty = 0x10 then 5
  else if ty = 0x20 then 12 + 4 * (body.length - 4) else 4
def wireBytes (ty : Nat) (data : List Nat) : Nat :=
  if ty < 0x40 then 16 + bodyBytes ty (data.drop 4)
  else if ty = ntWrite then data.length - 1
  else if ty = ntWriteImm then data.length - 1
  else if ty = ntSendImm then 4 * (data.length - 2)
  else if ty = ntReadData then data.length
  else 0
def packets (mtu ty : Nat) (data : List Nat) : Nat := max 1 ((wireBytes ty data + mtu - 1) / mtu)

/-- The IP addresses of a logical port as R406 writes them: IPv4-mapped, and IPv6 (R432); 0 for none. PRESUMED (log entry 116). -/
def portIp4 (s : State) (p : Nat) : Nat :=
  let w := (rd s .NET_PORT_IP4 p).toNat
  if w = 0 then 0 else 0xFFFF * 2 ^ 80 + ofBytesLE (bytesLE 4 w).reverse * 2 ^ 96
def portIp6 (s : State) (p : Nat) : Nat :=
  (rd s .NET_PORT_IP6_0 p).toNat + (rd s .NET_PORT_IP6_1 p).toNat * 2 ^ 32 + (rd s .NET_PORT_IP6_2 p).toNat * 2 ^ 64 +
    (rd s .NET_PORT_IP6_3 p).toNat * 2 ^ 96

/-- The peer table that a context uses for the relay of wares: that of its active image, else of the image it loads.
DESIGN CHOICE (log entry 55). -/
def relayTable (s : State) (k : Nat) : PeerTable :=
  match (cxOf s k).active, loadOf s k with
  | some im, _ => (imgOf s im).peers
  | none, some l => l.peers
  | none, none => {}

/-- The peer table that a queue pair was set up from, and the entry that it talks to. -/
def qpTable (s : State) (n : Nat) : PeerTable :=
  let q := qpOf s n
  if q.load then ((loadOf s q.ctx).map (·.peers)).getD {} else peersOf s q.ctx
def qpPeer (s : State) (n : Nat) : PeerE := (qpTable s n).peers.getD (qpOf s n).peer {}

/-- A peer is FENCED or LOST. -/
def peerDown (s : State) (k p : Nat) : Bool :=
  (tget {} (jobOf s k).peers p).st == 2 || (tget {} (jobOf s k).peers p).st == 3

/-- The queue pair of the peer that a local queue pair talks to (R406). -/
def remoteQp (e : PeerE) (n : Nat) : Nat := if n = e.localQpn then e.ctrlQpn else e.dataQpn.getD (n - e.localQpn - 1) 0

/-- The headers of the packets of a queue pair (R399, R401, R403, R406, R430): the data class is marked ECT(0) while ECN_EN is 1. -/
def netHdr (s : State) (p n ty psn : Nat) : NetHdr :=
  let e := qpPeer s n
  let ctrl := decide (ty < 0x40)
  { port := p, mac := e.mac, vlan := e.vlan, srcIp := if e.v6 then portIp6 s p else portIp4 s p, dstIp := e.ip,
    udp := 0xC000 + remoteQp e n % 0x4000, dscp := if ctrl then rf s .NET_TC_CFG 17 12 else rf s .NET_TC_CFG 5 0,
    ecn := if !ctrl && rb s .NET_CTRL 1 then 2 else 0, prio := prioOf s ty, dstQp := remoteQp e n, psn := psn }

/-- Frames leave on a logical port. DESIGN CHOICE (log entry 53). -/
def putFrames (p n ty psn : Nat) (data : List Nat) (s : State) : State :=
  let mtu := 1024 * 2 ^ (qpPeer s n).pmtu
  emit (.net n ty data (netHdr s p n ty psn)) (bump .NET_TX_FRAMES (packets mtu ty data) p s)

/-- What is sent on a logical port: it waits while its priority is paused, and is dropped while the priority storms or the
port carries no traffic (R400). DESIGN CHOICE (log entry 53). -/
def transmit (p n ty psn : Nat) (data : List Nat) (s : State) : State :=
  let x := lportOf s p
  let pr := prioOf s ty
  if !portUp s p || x.storm.testBit pr then s
  else if x.paused.testBit pr then modLport p (fun x => { x with queue := x.queue ++ [(pr, n, ty, psn, data)] }) s
  else putFrames p n ty psn data s

/-! ### Packet sequence numbers (R402) -/

/-- The packet sequence numbers that a request takes: one for each packet, of a READ for each packet of its answer.
PRESUMED (log entry 113). -/
def psnSpan (mtu ty : Nat) (data : List Nat) : Nat :=
  if ty = ntRead then max 1 ((data.getD 1 0 + mtu - 1) / mtu) else packets mtu ty data

/-- `a` does not come after `b` in the circle of 24-bit packet sequence numbers. PRESUMED (log entry 113). -/
def psnLe (a b : Nat) : Bool := decide ((b + 2 ^ 24 - a) % 2 ^ 24 < 2 ^ 23)

/-- The packet sequence number of the last packet of a request that waits for its acknowledgement. -/
def lastPsn (s : State) (n : Nat) (e : Nat × Nat × List Nat) : Nat :=
  (e.1 + psnSpan (1024 * 2 ^ (qpPeer s n).pmtu) e.2.1 e.2.2 - 1) % 2 ^ 24

/-- A request leaves on a queue pair, and waits there for its acknowledgement (R402); in the error state nothing leaves. -/
def qpSend (n ty : Nat) (data : List Nat) (s : State) : State :=
  let psn := (qpOf s n).psn
  let span := psnSpan (1024 * 2 ^ (qpPeer s n).pmtu) ty data
  if !qpReady s n then s
  else transmit (qpOf s n).port n ty psn data
    (modQp n (fun q => { q with unacked := q.unacked ++ [(psn, ty, data)], psn := (psn + span) % 2 ^ 24 }) s)

/-- A request to peer entry `p` of a context. -/
def netSend (k p qi ty : Nat) (data : List Nat) (s : State) : State := qpSend (qpNum (peerE s k p) qi) ty data s

/-- The tag of a job: bytes 0 to 3 of JOB_ID (R411). -/
def jobTag (t : PeerTable) : Nat := t.job % 2 ^ 32

/-- A control message of R411: VERSION, epoch, tag, SEQ_NO and the body. -/
def ctrlMsg (epoch tag seqNo : Nat) (body : List Nat) : List Nat := [1, epoch, tag, seqNo] ++ body

/-- A control message to peer entry `p`. -/
def ctrlSend (k p ty seqNo : Nat) (body : List Nat) (s : State) : State :=
  netSend k p 0 ty (ctrlMsg (jobOf s k).epoch (jobTag (peersOf s k)) seqNo body) s

/-- A control message on a queue pair of a peer that relays wares. -/
def relaySend (n ty seqNo : Nat) (body : List Nat) (s : State) : State :=
  qpSend n ty (ctrlMsg (jobOf s (qpOf s n).ctx).epoch (jobTag (qpTable s n)) seqNo body) s

/-! ### Requests for records (R413, R414, R422) -/

/-- The command that a request for records serves is still in flight. -/
def askLive (s : State) (a : Ask) : Bool := (cmdOf s a.h).any fun c => c.gen == a.gen && c.run

/-- A request leaves, with a credit for each slot of the fetch buffer: all are free, since one request of a context is under way at a
time. DESIGN CHOICE (log entry 55). -/
def sendAsk (a : Ask) (s : State) : State := relaySend a.qp a.ty a.h (a.args ++ [(qpTable s a.qp).slots]) s

/-- The list of requests of a context after its first has ended, or its command has: the next that is live leaves. -/
def kickAsks (k : Nat) (drop : Bool) (s : State) : State :=
  let l := tget [] s.asks k
  let rest := (if drop then l.drop 1 else l).filter (askLive s)
  let s := { s with asks := tset [] s.asks k rest }
  if rest.head? = l.head? then s else foldS (rest.take 1) sendAsk s

/-- A command asks a peer for records, once the requests before it have been answered. -/
def putAsk (k h qp ty n : Nat) (args : List Nat) (s : State) : State :=
  let a : Ask := { h := h, gen := ((cmdOf s h).map (·.gen)).getD 0, qp := qp, ty := ty, args := args, left := n }
  let l := (tget [] s.asks k).filter (askLive s)
  let s := { s with asks := tset [] s.asks k (l ++ [a]) }
  whenS l.isEmpty (sendAsk a) s

/-- The peer entries of the other members of a job. -/
def memberPeers (t : PeerTable) : List Nat := (List.range t.peers.length).filter fun p => (t.peers.getD p {}).rank != 0xFF

/-- A control message to every other member. -/
def ctrlAll (k ty seqNo : Nat) (body : List Nat) (s : State) : State :=
  foldS (memberPeers (peersOf s k)) (fun p => ctrlSend k p ty seqNo body) s

/-- The peer entry of a rank. -/
def peerOfRank (t : PeerTable) (r : Nat) : Option Nat :=
  (List.range t.peers.length).find? fun p => (t.peers.getD p {}).rank == r

end Sys2Proof.Machine
end

