-- ==== Sys2Proof/Machine/Silset.lean ====
section
/-! DEFINITION. Silset (ch. 15): restarts, the boot ROM, the flash, firmware update, keys, the mailbox and the management
bus. -/

namespace Sys2Proof.Machine

open Sys2Proof

/-! ### Firmware slots and the evaluated configuration -/

/-- A firmware slot: false A, true B. -/
def fwSlot (s : State) (b : Bool) : FwSlot := if b then s.sil.slotB else s.sil.slotA

/-- The state with a firmware slot replaced. -/
def setFwSlot (b : Bool) (v : FwSlot) (s : State) : State :=
  if b then { s with sil.slotB := v } else { s with sil.slotA := v }

/-- The running slot. -/
def runSlot (s : State) : FwSlot := fwSlot s s.sil.slot

/-- EVAL_CFG (R551). -/
def evalCfg (s : State) : Bool :=
  s.fuses.locked && s.sil.commissioned && (runSlot s).eval && !s.sil.debugOpen &&
  decide ((Config.evalMin (runSlot s).digest).toNat ≤ s.sil.rollback) && s.sil.state != 3

/-! ### Restarts (R529) -/

/-- A staging that a restart interrupts leaves its slot EMPTY (R544). -/
def dropSession (s : State) : State :=
  match s.sil.session with
  | some u => whenS (u.phase == 1) (setFwSlot (!s.sil.slot) {}) { s with sil.session := none }
  | none => s

/-- Silset restarts from its boot ROM with a cause of SIL_RESTART; nothing else is reset and fences stay (R487, R529). -/
def silRestart (cause : Nat) (s : State) : State :=
  let s := dropSession { s with sil.state := 2, sil.activating := cause == 4, sil.handed := false, sil.roundsOk := true }
  let s := wrf .SIL_RESTART 18 16 cause 0 (bumpSat .SIL_RESTART 15 0 1 0 s)
  signalVec .SIL_EVT_VEC (logE { cls := 0x0C, code := 1, sev := 3, source := 1, data := silData s cause } s)

/-- LOCKSTEP_MISMATCH (R529). -/
def execLockstepMismatch (s : State) : Out := done (silRestart 1 s)

/-- WATCHDOG_EXPIRY (R529): the watchdog is paused while the cores are halted (R629). -/
def execWatchdogExpiry (s : State) : Out := done (if s.sil.state = 4 then s else silRestart 2 s)

/-- SILSET_SRAM_UNCORRECTABLE (R529). -/
def execSilsetSramUncorrectable (s : State) : Out := done (silRestart 3 s)

/-! ### The boot ROM (R542, R544) -/

/-- The slot the boot ROM tries first: the TRIAL slot if there is one, otherwise the CONFIRMED slot. -/
def firstSlot (s : State) : Bool :=
  if s.sil.slotA.state = 2 then false
  else if s.sil.slotB.state = 2 then true
  else s.sil.slotA.state != 3

/-! ### Firmware images (R6, R541 to R543) -/

/-- The SHA-384 of a public key, over the bytes of its point. DESIGN CHOICE (log entry 26). -/
def keyHash (pub : Nat) : Nat := (Config.sha384 ((bytesLE 97 pub).map (·.toNat))).toNat

/-- KEY_FPR: the first 8 B of the SHA-384 of a public key (R199). -/
def keyFpr (pub : Nat) : Nat := keyHash pub >>> 320

/-- A field of a firmware image, little-endian. -/
def fwAt (b : List Byte) (o n : Nat) : Nat := ofBytesLE ((b.drop o).take n)

/-- The signed bytes, the public key and the signature of an image (R201, R543). -/
def fwSigned (b : List Byte) : List Nat := (b.take (fwAt b 0x18 8)).map (·.toNat)
def fwPub (b : List Byte) : Nat := fwAt b 0x20 97
def fwSig (b : List Byte) : Nat := ofBytesLE ((b.drop (fwAt b 0x18 8 + 8)).take 96).reverse

/-- Step 3 of R542: the header is that of R543, for the silicon stepping of the unit. -/
def fwHeaderOk (s : State) (b : List Byte) : Bool :=
  fwAt b 0 4 == 0x465A4455 && fwAt b 4 2 == 1 && fwAt b 6 2 == 0x100 && fwAt b 8 4 == b.length && decide (b.length ≤ 0x800000) &&
  decide (fwAt b 0x12 2 ≤ s.fuses.step) && decide (0x100 ≤ fwAt b 0x18 8) && decide (fwAt b 0x18 8 + 128 ≤ b.length)

/-- A key hash is one of those in OTP that are not revoked: Colavarum's, and on a -S unit the owner's (R6, R541). -/
def fwKeyAccepted (s : State) (h : Nat) : Bool :=
  (List.range 2).any (fun i => s.fuses.fwKeys.getD i 0 == h && !s.sil.fwRevoked.testBit i) ||
  (!s.fuses.locked && s.sil.ownerKey == some h && !s.sil.fwRevoked.testBit 2)

/-- Step 4 of R542: the signature verifies with the public key in the image, whose hash the variant accepts. -/
def fwSigOk (s : State) (b : List Byte) : Bool :=
  fwKeyAccepted s (keyHash (fwPub b)) && fwAt b (fwAt b 0x18 8) 4 == 1 && Config.verify (fwPub b) (fwSigned b) (fwSig b)

/-- Steps 3 to 5 of R542. -/
def fwAccepted (s : State) (b : List Byte) : Bool :=
  fwHeaderOk s b && fwSigOk s b && decide (s.sil.rollback ≤ fwAt b 0x10 1)

/-- The slot table's entry of a slot that holds an image. -/
def fwEntry (state : Nat) (b : List Byte) : FwSlot :=
  { state := state, version := fwAt b 0xC 4, svn := fwAt b 0x10 1, eval := (fwAt b 0x11 1).testBit 0,
    agents := (fwAt b 0x11 1).testBit 1, digest := (Config.sha384 (fwSigned b)).toNat, image := b }

/-- DATA of a SECURITY entry about a firmware slot: key fingerprint, SVN, slot (R536). -/
def fwData (b : Bool) (v : FwSlot) : List Nat := [keyFpr (fwPub v.image), v.svn, b2n b]

/-- A restart while a slot is TRIAL, for another cause than FW_ACTIVATE, marks it REJECTED (R544). -/
def rejectTrial (b : Bool) (s : State) : State :=
  let v := fwSlot s b
  if v.state = 2 && !s.sil.activating && s.sil.state = 2 then
    logE { cls := 0x0B, code := 6, sev := 3, source := 6, data := fwData b v } (setFwSlot b { v with state := 4 } s)
  else s

/-- A slot can be booted: it holds an image that passes steps 3 to 5 of R542; `ok` tells that the flash gives it back as written. -/
def slotBoots (s : State) (b ok : Bool) : Bool :=
  let v := fwSlot s b
  ok && v.state != 0 && v.state != 4 && fwAccepted s v.image

/-- A slot that fails steps 3 to 5 is marked REJECTED. -/
def rejectSlot (b : Bool) (s : State) : State :=
  let v := fwSlot s b
  if v.state = 0 then s else
  whenS (v.state == 2) (logE { cls := 0x0B, code := 6, sev := 3, source := 6, data := fwData b v })
    (setFwSlot b { v with state := 4 } s)

/-- The boot ROM hands over to the firmware of slot `b`. -/
def bootFrom (b : Bool) (s : State) : State := { s with sil.slot := b, sil.runSince := s.now, sil.activating := false, sil.handed := true }

/-- The key list of the image-key table, as its anchor and measurement block 5 digest it. DESIGN CHOICE (log entry 25). -/
def keyList (ks : List ImgKey) : List Nat := ks.flatMap fun k => [k.fpr, k.pub, b2n k.revoked]

/-- The digest of a key list that an anchor slot takes (R547). -/
def keyAnchor (ks : List ImgKey) : Nat := (Config.sha384 (keyList ks)).toNat

/-- The boot ROM chooses, verifies and boots a slot, or enters RECOVERY (R542); the image-key table is compared with its
anchor (R547). -/
def bootRom (okA okB tableOk : Bool) (s : State) : State :=
  let s := rejectTrial true (rejectTrial false s)
  let anchorOk := tableOk && (s.sil.anchorsUsed == 0 || keyAnchor s.sil.keys == s.sil.anchor)
  let s := { s with sil.anchorOk := anchorOk, sil.flashOk := s.sil.flashOk || okA || okB }
  let s := whenS (!anchorOk) (logE { cls := 0x0B, code := 7, sev := 4, source := 6 }) s
  let a := firstSlot s
  let okOf := fun b => if b then okB else okA
  if slotBoots s a (okOf a) then bootFrom a s
  else
    let s := rejectSlot a s
    if slotBoots s (!a) (okOf (!a)) then bootFrom (!a) s
    else
      let s := rejectSlot (!a) s
      drainEvq (logE { cls := 0x0C, code := 4, sev := 4, source := 6, data := silData s 0 } { s with sil.state := 3, sil.activating := false })

/-- BOOT_ROM_START (R542, R544, R547, R564): after a cold reset, once the crystal is VALID, or at a restart.  The operands tell
whether the flash, which is untrusted (R550), gives back the slots and the key list as they were written. -/
def execBootRomStart (okA okB tableOk : Bool) (s : State) : Out :=
  done (if s.sil.state = 0 && rf s .CLK_STAT 14 12 == 2 || s.sil.state = 2 then bootRom okA okB tableOk s else s)

/-! ### The flash (R531 to R534) -/

/-- The FAILED marks of units (R485). -/
def failedUnits (s : State) : List Nat := (s.units.filter fun e => e.2.reasons.testBit 7).map fun e => e.1

/-- The record that the state store takes (R531). -/
def stateRec (s : State) : StateRec :=
  { splitNext := splitNext s, warmCause := rf s .RST_WARM_CAUSE 4 0, warmCnt := (rd s .RST_WARM_CNT).toNat,
    failed := failedUnits s, utc := utcNow s, seq := s.sil.seq, keys := s.sil.keys }

/-- A write is asked of the flash. -/
def askFlash (j : FlashJob) (s : State) : State := { s with sil.flashQ := s.sil.flashQ ++ [j] }

/-- The precedence of a flash write (R534). -/
def jobRank (j : FlashJob) : Nat :=
  match j with
  | .startPage _ => 1 | .stateStore => 2 | .mirrorPage => 3 | .donePage _ => 4 | .staging _ => 5

/-- The write that the flash serves: the oldest of the highest precedence; log-mirror pages wait in the mirror queue. -/
def nextJob (s : State) : Option FlashJob :=
  let q := if s.sil.mirrorQ.isEmpty then s.sil.flashQ else s.sil.flashQ ++ [.mirrorPage]
  [1, 2, 3, 4, 5].findSome? fun r => q.find? fun j => jobRank j == r

/-- The wear record of a tile-layer, by tile_id × 4 + layer (R185). -/
def wearOf (s : State) (tl : Nat) : Wear := tget {} s.sil.wear tl

/-- The view registers show the record of the tile-layer chosen, from Silset's copy (R197). -/
def showWear (s : State) : State :=
  let tl := rf s .CAL_WEAR_SEL 13 0 * 4 + rf s .CAL_WEAR_SEL 15 14
  let w := wearOf s tl
  let st := if dieOn s (tl / 6144) then w.state else 5
  wr .CAL_WEAR_TIME 0 (BitVec.ofNat 32 w.utc) (wr .CAL_WEAR_DATA 0 (BitVec.ofNat 32 (min w.count 0x1FFFF + 2 ^ 17 * st)) s)

/-- A program count stands at WARN or above it when it advances (R186). -/
def wearWarn (tl count : Nat) (s : State) : State :=
  whenS (decide (rf s .CAL_WEAR_WARN 16 0 ≤ count))
    (fun s => logE { cls := 4, code := 6, sev := 2, kind := 0, index := tl / 4, layer := tl % 4, data := [count] }
      (setEv .CAL_STAT 20 0 s)) s

/-- A durable start page advances the program count of its tile-layers, which become IN_PROGRESS (R185, R532).
DESIGN CHOICE (log entry 85). -/
def startPageDurable (tls : List Nat) (s : State) : State :=
  foldS tls (fun tl s =>
    let w := wearOf s tl
    let w := { w with count := w.count + 1, state := 2 }
    wearWarn tl w.count { s with sil.wear := tset {} s.sil.wear tl w, sil.wearFlash := tset {} s.sil.wearFlash tl w,
                                 sil.pageDone := s.sil.pageDone ++ [tl] }) s

/-- A tile-layer leaves the start pages that are asked for or durable: its operation has been taken off (R185). -/
def dropPage (tl : Nat) (s : State) : State :=
  { s with sil.pageDone := s.sil.pageDone.erase tl,
           sil.flashQ := s.sil.flashQ.filter fun j => j != .startPage [tl] }

/-- The mirror ring of 262,144 entries, newest first: a page that finds it full overwrites its oldest sector, of 1,024 (R538). -/
def mirrorRing (l : List LogEntry) : List LogEntry := if 262144 < l.length then l.take (l.length - 1024) else l

/-- What a completed flash write leaves; a done page does not set back a record that a later start page has advanced (R185, R532). -/
def flashDone (j : FlashJob) (s : State) : State :=
  let s := { s with sil.flashQ := s.sil.flashQ.erase j, sil.flashOk := true, sil.flashTries := 0 }
  match j with
  | .startPage tls => startPageDurable tls s
  | .stateStore => { s with sil.store := stateRec s }
  | .mirrorPage =>
    { s with sil.mirrorQ := s.sil.mirrorQ.drop 4,
             sil.mirror := mirrorRing ((s.sil.mirrorQ.take 4).reverse ++ s.sil.mirror) }
  | .donePage recs =>
    { s with sil.wearFlash := recs.foldl (fun m e => if (tget {} m e.1).count ≤ e.2.count then tset {} m e.1 e.2 else m) s.sil.wearFlash }
  | .staging n =>
    match s.sil.session with
    | some u => { s with sil.session := some { u with written := u.written + n } }
    | none => s

/-- A session ends with FLASH_ERR, and its slot is EMPTY (R544, R555). DESIGN CHOICE (log entry 26). -/
def sessionFails (s : State) : State :=
  match s.sil.session with
  | some u => whenS (u.phase == 1) (setFwSlot (!s.sil.slot) {}) { s with sil.session := some { u with phase := 4 } }
  | none => s

/-- A flash write that fails is retried three times; then FLASH_OK = 0 (R556), and a staging of which it was a part ends. -/
def flashFail (s : State) : State :=
  if s.sil.flashTries < 3 then { s with sil.flashTries := s.sil.flashTries + 1 }
  else
    let staging := (nextJob s).any fun j => jobRank j == 5
    let s := whenS s.sil.flashOk (logE { cls := 0x0C, code := 3, sev := 4, source := 1, data := silData s 0 })
      { s with sil.flashOk := false, sil.flashTries := 0 }
    whenS staging sessionFails
      (if staging then { s with sil.flashQ := s.sil.flashQ.filter fun j => jobRank j != 5 } else s)

/-- FLASH_WRITE_DONE (R534): the write being served ends, well or badly. -/
def execFlashWriteDone (ok : Bool) (s : State) : Out :=
  done (match nextJob s with
    | some j => if ok then flashDone j s else flashFail s
    | none => s)

/-! ### The mailbox (R555) -/

/-- The bytes of a log entry (R535); DATA has stated offsets for JOURNAL entries only (R536). -/
def LogEntry.data16 (e : LogEntry) : List Byte :=
  if e.cls = 1 then
    bytesLE 4 (e.data.getD 0 0) ++ bytesLE 4 (e.data.getD 1 0) ++ bytesLE 4 (e.data.getD 2 0) ++ bytesLE 4 0
  else bytesLE 16 (Config.logData e.cls e.code e.data).toNat

/-- One step of CRC-32 over a bit, reflected (IEEE 802.3). PRESUMED (log entry 8). -/
def crc32Bit (c : Nat) (b : Bool) : Nat :=
  if (c.testBit 0) != b then (c >>> 1) ^^^ 0xEDB88320 else c >>> 1

/-- CRC-32 of a list of bytes. PRESUMED (log entry 8). -/
def crc32 (xs : List Byte) : Nat :=
  (xs.foldl (fun c x => (List.range 8).foldl (fun c i => crc32Bit c (x.toNat.testBit i)) c) 0xFFFFFFFF) ^^^ 0xFFFFFFFF

/-- The 64 bytes of a log entry (R535). -/
def LogEntry.bytes (e : LogEntry) : List Byte :=
  let b := bytesLE 8 e.time ++ bytesLE 4 e.seq ++ bytesLE 1 e.sev ++ bytesLE 1 e.cls ++ bytesLE 2 e.code ++
    bytesLE 1 e.source ++ bytesLE 1 e.func ++ bytesLE 1 e.queue ++ bytesLE 1 e.pt ++ bytesLE 4 e.handle ++
    bytesLE 4 (e.kind + e.index * 2 ^ 4 + e.layer * 2 ^ 18 + e.colRow * 2 ^ 20) ++ bytesLE 4 e.object ++
    bytesLE 8 e.addr ++ bytesLE 4 e.rep ++ e.data16
  b ++ bytesLE 4 (crc32 b)

/-- Writes bytes into the 32-bit registers of a mailbox buffer, byte 0 in bits [7:0] of register 0 (R561). -/
def putMbx (r : Reg) : Nat → List Byte → State → State
  | _, [], s => s
  | i, b0 :: b1 :: b2 :: b3 :: xs, s => putMbx r (i + 1) xs (wr r i (BitVec.ofNat 32 (ofBytesLE [b0, b1, b2, b3])) s)
  | i, xs, s => wr r i (BitVec.ofNat 32 (ofBytesLE xs)) s

/-- A request stands in the buffer: OPCODE, LENGTH, TAG and payload (R555). -/
def mbxRequest (op tag : Nat) (payload : List Byte) (s : State) : State :=
  putMbx .SIL_MBX_REQ 0 (bytesLE 2 op ++ bytesLE 2 payload.length ++ bytesLE 4 tag ++ payload) s

/-- Silset's response: STATUS, LENGTH, TAG and payload; DONE is set and SIL_EVT_VEC signalled (R555). -/
def mbxRespond (status tag : Nat) (payload : List Byte) (s : State) : State :=
  signalVec .SIL_EVT_VEC (setEv .SIL_MBX_STAT 1 0
    (putMbx .SIL_MBX_RSP 0 (bytesLE 2 status ++ bytesLE 2 payload.length ++ bytesLE 4 tag ++ payload) s))

/-- The mailbox shows BUSY while Silset does not run (R529). -/
def mbxBusy (s : State) : Bool := !silUp s

/-- A GO written while BUSY is ignored and logged (R555). DESIGN CHOICE (log entry 63). -/
def goIgnored (s : State) : State :=
  logE { cls := 0x0C, code := (Config.catalogue 0x0C 0).toNat, sev := 2, source := 0, func := 0 } s

/-- The opcodes that the boot ROM answers in RECOVERY (R542). DESIGN CHOICE (log entry 25). -/
def recoveryOp (op : Nat) : Bool := op == 0x0001 || op == 0x0020 || op == 0x0021 || op == 0x0022

/-- A mailbox exchange: the request is submitted with GO and answered by `f`, which gives the status, the payload and the
new state; it is ignored while BUSY, and in RECOVERY other opcodes than the boot ROM's answer INVALID.
DESIGN CHOICE (log entry 19). -/
def mbxRun (op tag : Nat) (payload : List Byte) (f : State → Nat × List Byte × State) (s : State) : State :=
  if mbxBusy s then goIgnored s
  else
    let s := mbxRequest op tag payload s
    if s.sil.state = 3 && !recoveryOp op then mbxRespond 1 tag [] s
    else
      let (st, rsp, s) := f s
      mbxRespond st tag rsp s

/-- An answer without a change of state. -/
def ansOnly (st : Nat) (rsp : List Byte) (s : State) : Nat × List Byte × State := (st, rsp, s)

/-- GET_INFO (R555): versions and SVNs of the slots, slot states, rollback counter, COMMISSIONED. -/
def execGetInfo (tag : Nat) (s : State) : Out :=
  done (mbxRun 0x0001 tag [] (fun s => ansOnly 0
    (bytesLE 4 s.sil.slotA.version ++ bytesLE 4 s.sil.slotB.version ++ bytesLE 1 s.sil.slotA.svn ++
     bytesLE 1 s.sil.slotB.svn ++ bytesLE 1 s.sil.slotA.state ++ bytesLE 1 s.sil.slotB.state ++
     bytesLE 1 s.sil.rollback ++ bytesLE 1 (b2n s.sil.commissioned)) s) s)

/-- LOG_READ (R555): FIRST_SEQ and up to three entries from FROM_SEQ on, of the SRAM ring or of the flash mirror. -/
def execLogRead (tag fromSeq : Nat) (flash : Bool) (s : State) : Out :=
  done (mbxRun 0x0010 tag (bytesLE 4 fromSeq ++ bytesLE 1 (b2n flash)) (fun s =>
    let ring := (if flash then s.sil.mirror else s.sil.log).reverse
    let es := (ring.filter fun e => decide (fromSeq ≤ e.seq)).take 3
    let firstSeq := ((ring.head?).map fun e => e.seq).getD 0
    (0, bytesLE 4 firstSeq ++ es.flatMap LogEntry.bytes, emit (.logs es) s)) s)

/-- The slot that is not running takes a new image: its erase begins (R544). -/
def openSession (path len : Nat) (s : State) : State :=
  setFwSlot (!s.sil.slot) {} { s with sil.session := some { path := path, len := len, phase := 1 } }

/-- A session is open and its staging not ended (R554). -/
def sessionOpen (s : State) : Bool :=
  match s.sil.session with
  | some u => u.phase == 1
  | none => false

/-- FW_STAGE (R544, R555): staging of an image of at most 8 MiB begins, unless a session is open. -/
def execFwStage (tag addr len : Nat) (s : State) : Out :=
  done (mbxRun 0x0020 tag (bytesLE 8 addr ++ bytesLE 4 len) (fun s =>
    if sessionOpen s then ansOnly 3 [] s
    else if len = 0 || decide (0x800000 < len) then ansOnly 1 [] s
    else (0, [], emit (.hostRead 0 addr len) (openSession 0 len s))) s)

/-- FW_STAGE_COMPLETE (R543, R544): the bytes of the image have been written into the slot that is not running and are verified
as in steps 3 to 5 of R542; the slot is VALID or REJECTED. DESIGN CHOICE (log entry 25). -/
def execFwStageComplete (image : List Byte) (s : State) : Out :=
  done (if !sessionOpen s then s else
    let ok := fwAccepted s image
    let v := fwEntry (if ok then 1 else 4) image
    let s := setFwSlot (!s.sil.slot) v
      { s with sil.session := s.sil.session.map fun u => { u with phase := if ok then 2 else 3, written := image.length } }
    let e : LogEntry := if ok then { cls := 0x0B, code := 8, sev := 1 } else { cls := 0x0B, code := 1, sev := 3 }
    logE { e with source := 1, data := fwData (!s.sil.slot) v } s)

/-- FW_STATUS (R555): session state, bytes written, slot states; FLASH_ERR where that ended the session. DESIGN CHOICE (log entry 26). -/
def execFwStatus (tag : Nat) (s : State) : Out :=
  done (mbxRun 0x0021 tag [] (fun s =>
    let u := s.sil.session.getD {}
    ansOnly (if u.phase = 4 then 6 else 0) (bytesLE 1 u.phase ++ bytesLE 4 u.written ++ bytesLE 1 s.sil.slotA.state ++
      bytesLE 1 s.sil.slotB.state) s) s)

/-- The VALID slot becomes TRIAL and Silset restarts with cause activation; FORCE_SVN raises the rollback counter at
once (R544). DESIGN CHOICE (log entry 26). -/
def activateFw (agentsNow forceSvn : Bool) (s : State) : State :=
  let b := !s.sil.slot
  let v := fwSlot s b
  let s := setFwSlot b { v with state := 2 } { s with sil.session := none, sil.agentsNow := agentsNow }
  let s := if forceSvn && decide (s.sil.rollback < v.svn) then { s with sil.rollback := v.svn } else s
  silRestart 4 (logE { cls := 0x0B, code := 8, sev := 1, source := 1, data := fwData b v } s)

/-- FW_ACTIVATE (R544, R555): INVALID where no slot is VALID, BUSY while another path stages. DESIGN CHOICE (log entry 26). -/
def execFwActivate (tag : Nat) (agentsNow forceSvn : Bool) (s : State) : Out :=
  done (mbxRun 0x0022 tag (bytesLE 1 (b2n agentsNow + 2 * b2n forceSvn)) (fun s =>
    if sessionOpen s then ansOnly 3 [] s
    else if (fwSlot s (!s.sil.slot)).state != 1 then ansOnly 1 [] s
    else (0, [], activateFw agentsNow forceSvn s)) s)

/-- The agents of dies take the agent firmware that the running image carries (R545). -/
def loadAgents (ds : List Nat) (s : State) : State :=
  if (runSlot s).agents then
    { s with sil.agentFw := foldS ds (fun d t => tset 0 t d (runSlot s).digest) s.sil.agentFw }
  else s

/-! ### Keys (R547) -/

/-- A signed key request verifies with a key of the table that is not revoked; the signature covers OPCODE, KIND or
INDEX, PUBKEY and the anchor-slot count (R555). -/
def keySigOk (s : State) (op n pub sig : Nat) : Bool :=
  s.sil.keys.any fun k => !k.revoked && Config.verify k.pub [op, n, pub, s.sil.anchorsUsed] sig

/-- Key commands are accepted on this path: MBX_KEYS of SIL_CTRL governs the mailbox (R560). -/
def keysAllowed (s : State) (mgmt : Bool) : Bool := mgmt || rb s .SIL_CTRL 1

/-- A signed request failed verification (R556). -/
def sigFailed (fpr : Nat) (s : State) : State := logE { cls := 0x0B, code := 1, sev := 3, source := 1, data := [fpr, 0, 0] } s

/-- A change of the image-key table: one anchor slot, a state-store record, a log entry (R547). -/
def keysChanged (ks : List ImgKey) (fpr : Nat) (s : State) : State :=
  logE { cls := 0x0B, code := 2, sev := 1, source := 1, data := [fpr, 0, 0] }
    (askFlash .stateStore { s with sil.keys := ks, sil.anchorsUsed := s.sil.anchorsUsed + 1, sil.anchor := keyAnchor ks })

/-- Where an enrolled key goes: the end of a table of fewer than eight entries, otherwise the first revoked entry.
DESIGN CHOICE (log entry 25). -/
def keyPlace (ks : List ImgKey) : Option Nat :=
  if ks.length < 8 then some ks.length else ks.findIdx? fun k => k.revoked

/-- Enrolment of an image key. DESIGN CHOICE (log entry 25). -/
def enrollImage (pub sig : Nat) (s : State) : Nat × List Byte × State :=
  if 8 ≤ s.sil.anchorsUsed then ansOnly 2 [] s
  else if s.sil.commissioned && !keySigOk s 0x0030 0 pub sig then (4, [], sigFailed (keyFpr pub) s)
  else match keyPlace s.sil.keys with
    | none => ansOnly 1 [] s
    | some i =>
      let k : ImgKey := { fpr := keyFpr pub, pub := pub }
      let ks := if i = s.sil.keys.length then s.sil.keys ++ [k] else s.sil.keys.set i k
      (0, bytesLE 1 i, keysChanged ks k.fpr s)

/-- Enrolment of the owner firmware key: once, on a -S unit, while COMMISSIONED is 0. DESIGN CHOICE (log entry 25). -/
def enrollOwner (pub : Nat) (s : State) : Nat × List Byte × State :=
  if s.fuses.locked || s.sil.commissioned || s.sil.ownerKey.isSome then ansOnly 2 [] s
  else (0, bytesLE 1 0, logE { cls := 0x0B, code := 2, sev := 1, source := 1, data := [keyFpr pub, 0, 0] }
    { s with sil.ownerKey := some (keyHash pub) })

/-- KEY_ENROLL (R547, R555). -/
def execKeyEnroll (mgmt : Bool) (tag kind pub sig : Nat) (s : State) : Out :=
  done (mbxRun 0x0030 tag (bytesLE 1 kind ++ bytesLE 97 pub ++ bytesLE 96 sig) (fun s =>
    if !keysAllowed s mgmt then ansOnly 2 [] s
    else if kind = 0 then enrollImage pub sig s
    else if kind = 1 then enrollOwner pub s
    else ansOnly 1 [] s) s)

/-- KEY_REVOKE (R547, R555): the last remaining key cannot be revoked once COMMISSIONED is set.
DESIGN CHOICE (log entry 25). -/
def revokeKey (index sig : Nat) (s : State) : Nat × List Byte × State :=
  match s.sil.keys[index]? with
  | none => ansOnly 7 [] s
  | some k =>
    if k.revoked then ansOnly 7 [] s
    else if 8 ≤ s.sil.anchorsUsed then ansOnly 2 [] s
    else if s.sil.commissioned && !keySigOk s 0x0031 index 0 sig then (4, [], sigFailed k.fpr s)
    else if s.sil.commissioned && (s.sil.keys.filter fun k => !k.revoked).length ≤ 1 then ansOnly 2 [] s
    else (0, [], keysChanged (s.sil.keys.set index { k with revoked := true }) k.fpr s)

/-- KEY_REVOKE (R547). -/
def execKeyRevoke (mgmt : Bool) (tag index sig : Nat) (s : State) : Out :=
  done (mbxRun 0x0031 tag (bytesLE 1 index ++ bytesLE 96 sig) (fun s =>
    if !keysAllowed s mgmt then ansOnly 2 [] s else revokeKey index sig s) s)

/-- KEY_LIST (R555): KEY_FPR and the revoked mark of each entry. -/
def execKeyList (tag : Nat) (s : State) : Out :=
  done (mbxRun 0x0032 tag [] (fun s =>
    ansOnly 0 (s.sil.keys.flatMap fun k => (bytesLE 8 k.fpr).reverse ++ bytesLE 1 (b2n k.revoked)) s) s)

/-- COMMISSION (R541, R555): sets the COMMISSIONED bit, with the right CONFIRM value. -/
def execCommission (mgmt : Bool) (tag confirm : Nat) (s : State) : Out :=
  done (mbxRun 0x0040 tag (bytesLE 4 confirm) (fun s =>
    if !keysAllowed s mgmt then ansOnly 2 [] s
    else if confirm != 0x0C0FFEE5 then ansOnly 1 [] s
    else (0, [], logE { cls := 0x0B, code := 9, sev := 1, source := 1 } { s with sil.commissioned := true })) s)

/-- SCAN_WRITE (R516, R555): a pattern set of at most 32 MiB is written into the scan-pattern area.
DESIGN CHOICE (log entry 19). -/
def execScanWrite (tag addr : Nat) (bytes : List Nat) (s : State) : Out :=
  done (mbxRun 0x0050 tag (bytesLE 8 addr ++ bytesLE 4 bytes.length) (fun s =>
    if sessionOpen s then ansOnly 3 [] s
    else if bytes.isEmpty || decide (0x2000000 < bytes.length) then ansOnly 1 [] s
    else if !s.sil.flashOk then ansOnly 6 [] s
    else (0, [], emit (.hostRead 0 addr bytes.length) { s with sil.scanData := bytes, sil.scanLen := bytes.length })) s)

/-! ### The management bus (R553, R554) -/

/-- An answer on the management bus: message type, command code, completion code and fields. PRESUMED (log entry 27). -/
def mgmtAns (ty code : Nat) (data : List Nat) (s : State) : State := emit (.mgmt ty code data) s

/-- PLDM is answered while Silset runs; during a restart only MCTP control messages are (R529). -/
def pldmUp (s : State) : Bool := s.sil.state == 1

/-- PLDM firmware-update commands are answered by the boot ROM in RECOVERY as well (R542). -/
def pldmFwUp (s : State) : Bool := silUp s

/-- SET_ENDPOINT_ID (R553): the endpoint ID is taken; 0x00 and 0xFF are not endpoint IDs and are answered with an
error. -/
def execSetEndpointId (eid : Nat) (s : State) : Out :=
  done (if eid = 0 || eid = 0xFF then mgmtAns 0 0x01 [2, s.sil.endpointId] s
        else mgmtAns 0 0x01 [0, eid] { s with sil.endpointId := eid })

/-- GET_ENDPOINT_ID (R553). -/
def execGetEndpointId (s : State) : Out := done (mgmtAns 0 0x02 [0, s.sil.endpointId] s)

/-- GET_ENDPOINT_UUID (R553). -/
def execGetEndpointUuid (s : State) : Out := done (mgmtAns 0 0x03 [0, Config.endpointUuid.toNat] s)

/-- GET_MCTP_VERSION_SUPPORT (R553). -/
def execGetMctpVersionSupport (ty : Nat) (s : State) : Out :=
  done (mgmtAns 0 0x04 [0, (Config.mctpVersions ty).toNat] s)

/-- GET_MESSAGE_TYPE_SUPPORT (R553): PLDM and SPDM. -/
def execGetMessageTypeSupport (s : State) : Out := done (mgmtAns 0 0x05 [0, 1, 5] s)

/-- GETTID (R553). -/
def execGettid (s : State) : Out :=
  done (whenS (pldmUp s) (mgmtAns 1 0x02 [0, Config.terminusId.toNat]) s)

/-- GETPLDMVERSION (R553). -/
def execGetpldmversion (ty : Nat) (s : State) : Out :=
  done (whenS (pldmUp s) (mgmtAns 1 0x03
    (if ty = 0 || ty = 2 || ty = 5 then [0, (Config.pldmVersions ty).toNat] else [1])) s)

/-- GETPLDMTYPES (R553): types 0, 2 and 5. -/
def execGetpldmtypes (s : State) : Out := done (whenS (pldmUp s) (mgmtAns 1 0x04 [0, 0, 2, 5]) s)

/-- The commands of a PLDM type (R553). PRESUMED (log entry 27). -/
def pldmCommands (ty : Nat) : Option (List Nat) :=
  match ty with
  | 0 => some [0x02, 0x03, 0x04, 0x05]
  | 2 => some [0x04, 0x0A, 0x11, 0x21]
  | 5 => some [0x10, 0x13, 0x14, 0x15, 0x16, 0x17, 0x18, 0x1A]
  | _ => none

/-- GETPLDMCOMMANDS (R553). PRESUMED (log entry 27). -/
def execGetpldmcommands (ty : Nat) (s : State) : Out :=
  done (whenS (pldmUp s) (mgmtAns 1 0x05 (match pldmCommands ty with
    | some cs => 0 :: cs
    | none => [1])) s)

/-- SETEVENTRECEIVER (R553): the one receiver of PlatformEventMessage. -/
def execSeteventreceiver (enable : Bool) (eid : Nat) (s : State) : Out :=
  done (if pldmUp s then mgmtAns 1 0x04 [0] { s with sil.eventRx := if enable then some eid else none } else s)

/-- A PlatformEventMessage to the event receiver, where one is set and Silset runs (R553). PRESUMED (log entry 27). -/
def platformEvent (code : Nat) (data : List Nat) (s : State) : State :=
  match s.sil.eventRx with
  | some e => whenS (pldmUp s) (mgmtAns 1 0x0A (e :: code :: data)) s
  | none => s

/-- REQUESTUPDATE (R553, R554): opens an update session, or answers that one is in progress. PRESUMED (log entry 27). -/
def execRequestupdate (len : Nat) (s : State) : Out :=
  done (if !pldmFwUp s then s
        else if sessionOpen s then mgmtAns 1 0x10 [0x81] s
        else mgmtAns 1 0x10 [0] (openSession 1 len s))

/-- PLDM_COMPONENT_TRANSFER (R553): the update-agent commands between RequestUpdate and ActivateFirmware. A data transfer
is staged into the inactive slot; without a session of this path the command is answered as not in update mode. -/
def execPldmComponentTransfer (cmd bytes : Nat) (s : State) : Out :=
  done (if !pldmFwUp s then s
        else match s.sil.session with
          | some u =>
            if u.path = 1 then
              mgmtAns 1 cmd [0] (whenS (cmd == 0x15 && u.phase == 1) (askFlash (.staging bytes)) s)
            else mgmtAns 1 cmd [0x80] s
          | none => mgmtAns 1 cmd [0x80] s)

/-- ACTIVATEFIRMWARE (R553, R544): activates the image staged over this path. -/
def execActivatefirmware (s : State) : Out :=
  done (if !pldmFwUp s then s
        else if sessionOpen s || (fwSlot s (!s.sil.slot)).state != 1 ||
            !(s.sil.session.any fun u => u.path == 1) then mgmtAns 1 0x1A [0x80] s
        else activateFw false false (mgmtAns 1 0x1A [0] s))

end Sys2Proof.Machine
end

