-- ==== Sys2Proof/Machine/RegOps.lean ====
section
/-! DEFINITION. Writes of registers by their access codes (R15, R16, R449, R450) and the journal (R454, R539). -/

namespace Sys2Proof.Machine

open Sys2Proof

/-! ### Sources and offsets -/

/-- SOURCE and FUNC of a log entry about an access (R535). -/
def srcLog (src : Src) : Nat × Nat :=
  match src with
  | .host fn => (0, fn)
  | .silset => (1, 0xFF)
  | .spyhole => (2, 0xFF)

/-- The function that HUB_ERR_INFO shows for a source (R468). -/
def srcFunc (src : Src) : Nat :=
  match src with
  | .host fn => fn
  | _ => 0

/-- The window of a cluster in BAR0 (R18). -/
def clusterBase (cl : Nat) : Nat := 0x1000000 + cl / 48 * 0x400000 + cl / 8 % 6 * 0x80000 + cl % 8 * 0x10000

/-- The BAR0 offset of a register of a block. -/
def blkOff (r : Reg) (i : Nat := 0) : Nat :=
  match r.desc.win with
  | .blk b => b * 0x10000 + r.desc.off + i * r.desc.stride
  | .cluster => clusterBase i + r.desc.off
  | .tile => clusterBase (i / 32) + 0x8000 + i % 32 * 0x400 + r.desc.off
  | .vf => r.desc.off

/-! ### The journal (R454) -/

/-- Source and function of the entry that a source's write opens. -/
def srcEntry (src : Src) : LogEntry := { cls := 1, code := 1, source := (srcLog src).1, func := (srcLog src).2 }

/-- An entry of the same source and register as the entry `x` about to be made. -/
def sameReg (x e : LogEntry) : Bool := e.cls == 1 && e.source == x.source && e.func == x.func && e.addr == x.addr

/-- An entry takes up a further write of the value that opened it. DESIGN CHOICE (log entry 17). -/
def mergesWith (x : LogEntry) (now : Nat) (e : LogEntry) : Bool :=
  sameReg x e && e.data.getD 1 0 == x.data.getD 1 0 && decide (now < e.time + 1000000)

/-- One more occurrence of an entry. -/
def again (e : LogEntry) (es : List LogEntry) : List LogEntry :=
  es.map fun x => if x = e then { e with rep := e.rep + 1 } else x

/-- A write to a journalled register is entered, or merged into the newest entry of its source and register; one that is not to
be entered by itself is counted where it merges.  `x` carries the source and the command on whose behalf the write is made.
DESIGN CHOICE (log entry 17). -/
def journalBy (x : LogEntry) (off old new mask : Nat) (enter : Bool) (s : State) : State :=
  let x := { x with cls := 1, code := 1, addr := off, data := [old, new, mask] }
  match (s.sil.evq.reverse ++ s.sil.log).find? (sameReg x) with
  | some e =>
    if mergesWith x s.now e then { s with sil.log := again e s.sil.log, sil.evq := again e s.sil.evq }
    else whenS enter (logE x) s
  | none => whenS enter (logE x) s

/-- The journal entry of a write by a source. -/
def journal (src : Src) : Nat → Nat → Nat → Nat → Bool → State → State := journalBy (srcEntry src)

/-- Every write of a journalled register is entered, whether or not it changes a field, as the chapters say of their registers (R189, R231,
R302, R341, R388); of TILE_LCFG it is every change (R116). -/
def everyWrite (r : Reg) : Bool := r != .TILE_LCFG

/-! ### One register (R15, R16, R449, R450) -/

/-- The bits of `m` from `v`, the others from `old`. -/
def mixBits (m old v : Nat) : Nat := (old &&& (0xFFFFFFFF ^^^ m)) ||| (v &&& m)

/-- The mask of field `[hi:lo]`. -/
def fieldMask (hi lo : Nat) : Nat := (2 ^ (hi + 1 - lo) - 1) <<< lo

/-- Fields into which a value would write a reserved encoding (R16); two limits bind fields of one register to each
other. DESIGN CHOICE (log entry 17). -/
def reservedFields (r : Reg) (v : Nat) : Nat :=
  (r.desc.legal.filter fun l => let x := bitsOf v l.hi l.lo; !l.ok.any fun o => decide (o.1 ≤ x) && decide (x ≤ o.2)).foldl
    (fun m l => m ||| fieldMask l.hi l.lo) 0

/-- The RWL fields of a register are locked (R450). -/
def lockedReg (s : State) (r : Reg) (inst : Nat) : Bool :=
  match r with
  | .HUB_HOST_CFG => rb s .HUB_LOCK 0
  | .SET_MIN_SVN => rb s .SET_LOCK 0
  | .RST_CTRL => rb s .RST_CTRL 15
  | .SIL_CTRL => rb s .SIL_CTRL 31
  | .CLK_CTRL => rb s .CLK_CTRL 31
  | .TILE_TRIM => rb s .TILE_CFG 31 inst
  | _ => false

/-- What a write to a register leaves: the new word, the fields kept for a reserved encoding, and whether a locked field
would have changed. DESIGN CHOICE (log entry 17). -/
def storeVal (s : State) (r : Reg) (inst v : Nat) : Nat × Nat × Bool :=
  let a := r.desc.acc
  let old := (rd s r inst).toNat
  let v := v % 2 ^ 32
  let lockHit := lockedReg s r inst && ((old ^^^ v) &&& a.rwl) != 0
  let rwm := a.rwm &&& (v >>> 16)
  let plain := a.rw ||| (if lockHit then 0 else a.rwl)
  let bad := reservedFields r v &&& (plain ||| rwm)
  let keep := (plain ||| rwm) &&& (0xFFFFFFFF ^^^ bad)
  let new := mixBits keep old v
  ((new &&& (0xFFFFFFFF ^^^ (v &&& a.w1c))) ||| (v &&& a.w1s), bad, lockHit)

/-- A write of a reserved encoding is logged (R16); the entry's code is one that the manual does not name.
DESIGN CHOICE (log entry 17). -/
def logReserved (src : Src) (off v : Nat) (s : State) : State :=
  logE { cls := 8, code := (Config.catalogue 8 0).toNat, sev := 2, source := (srcLog src).1, func := (srcLog src).2, addr := off,
         data := [0, 0, aerStatus s (srcFunc src)] } s

/-- A write to a register by its access codes: RO and reserved bits are kept, a locked field keeps its value and the write
is a violation, a reserved encoding is logged, a journalled register and every violation of a lock are journalled (R450, R454).
RWB bits are no part of it. -/
def storeReg (src : Src) (r : Reg) (inst off v : Nat) (s : State) : State :=
  let old := (rd s r inst).toNat
  let x := storeVal s r inst v
  let a := r.desc.acc
  let s := wr r inst (BitVec.ofNat 32 x.1) s
  let s := whenS (x.2.1 != 0) (logReserved src off v) s
  let s := whenS x.2.2 (hubErr 3 (if src = .silset then 3 else 0) (if src = .silset then 0x5000000000 + off else off) (srcFunc src)
    (srcLog src).1 true) s
  let ctl := a.rw ||| a.rwl ||| a.rwm
  let changed := everyWrite r || x.2.2 || ((old ^^^ x.1) &&& ctl) != 0
  if (r.desc.journ || x.2.2) && !(a.rwm != 0 && v / 2 ^ 16 == 0) then
    journal src off old v (if a.rwm != 0 then v / 2 ^ 16 else 0) changed s
  else s

/-- A write to a register of a block by a row of its own. -/
def storeBlk (src : Src) (r : Reg) (i v : Nat) (s : State) : State := storeReg src r i (blkOff r i) v s

/-! ### Buffered writes and strobes (R451 to R453) -/

/-- The block that applies a buffered write: a cluster, or 384 for the GLZ block. -/
def rwbBlock (key : Nat) : Nat :=
  let r := key / 2 ^ 20
  let i := key % 2 ^ 20
  if r = Reg.GLZ_CTRL.ctorIdx then 384 else if r = Reg.TILE_LCFG.ctorIdx then i / 128 else i

/-- A buffered write takes effect. -/
def applyBuf (e : Nat × BufW) (s : State) : State :=
  match allRegs.find? fun r => r.ctorIdx == e.1 / 2 ^ 20 with
  | some r =>
    let i := e.1 % 2 ^ 20
    wr r i (BitVec.ofNat 32 (mixBits e.2.mask (rd s r i).toNat e.2.val)) s
  | none => s

/-- A block applies its part of the strobe that is being applied; the last block's makes the strobe accepted (R452).
DESIGN CHOICE (log entry 18). -/
def strobeApply (blk : Nat) (s : State) : State :=
  match s.strobes with
  | [] => s
  | x :: rest =>
    if !x.blocks.contains blk then s
    else
      let s := foldS (x.writes.filter fun e => rwbBlock e.1 == blk) applyBuf s
      let left := x.blocks.filter (· != blk)
      if left.isEmpty then bump .HUB_UPD_CNT 1 0 { s with strobes := rest }
      else { s with strobes := { x with blocks := left } :: rest }

/-- SPACE and address of an access as HUB_ERR_INFO and HUB_ERR_ADDR show them (R458). -/
def accSpace (src : Src) (sp : RegSpace) (off : Nat) : Nat × Nat :=
  match sp with
  | .bar0 => if src = .silset then (3, 0x5000000000 + off) else (0, off)
  | .vfBar0 _ => (1, off)
  | _ => (2, off)

/-- An error of an access (R455, R458). -/
def regErr (cause : Nat) (src : Src) (sp : RegSpace) (off : Nat) (write : Bool) (s : State) : State :=
  let a := accSpace src sp off
  hubErr cause a.1 a.2 (srcFunc src) (srcLog src).1 write s

/-- The buffered writes of which `p` holds are discarded, and the discard logged (R453). DESIGN CHOICE (log entry 18). -/
def dropBuffered (p : Nat → Bool) (s : State) : State :=
  if s.rwb.any fun e => p e.1 then
    logE { cls := 3, code := 0x0C, sev := 1 } { s with rwb := s.rwb.filter fun e => !p e.1 }
  else s

end Sys2Proof.Machine
end

