-- ==== Sys2Proof/Machine/Glaze.lean ====
section
/-! DEFINITION. The quantiser (R58 to R61, R118 to R121, R659) and the glaze path: outlier products and low-rank adapters
(R72, R123 to R126, R139 to R146). -/

namespace Sys2Proof.Machine

open Sys2Proof

/-! ### Choosing outlier channels (R118 to R121) -/

/-- A candidate ranks before another: larger magnitude, then lower channel; +0 equals −0 (R120). -/
def ranksBefore (x y : Nat × Nat) : Bool :=
  let a := x.2 % 2 ^ 31
  let b := y.2 % 2 ^ 31
  decide (b < a) || (a == b && decide (x.1 < y.1))

/-- Insertion in the order of the ranking. -/
def insertRank (x : Nat × Nat) : List (Nat × Nat) → List (Nat × Nat)
  | [] => [x]
  | y :: ys => if ranksBefore x y then x :: y :: ys else y :: insertRank x ys

/-- The first `k` candidates of the ranking of R120. -/
def topK (k : Nat) (xs : List (Nat × Nat)) : List (Nat × Nat) := (xs.foldr insertRank []).take k

/-- K_eff of a row block quantised in cluster `cl`, by what is fixed for its pass (R120, R141). -/
def kEff (c : PassCtl) (cl : Nat) (o : OutE) : Nat :=
  if c.dynOff then 0 else min o.kdyn (fld (tget (resetOf .GLZ_SL_CFG cl) c.kmax (regKey .GLZ_SL_CFG cl)) 5 0)

/-- The channels of a row block that go to the glaze path, in ascending order (R118, R120). -/
def selected (o : OutE) (keff : Nat) (xs : List Nat) : List Nat :=
  let fix := if o.mode = 1 ∨ o.mode = 3 then o.fixed else []
  let dyn := if o.mode = 2 ∨ o.mode = 3 then (topK keff (o.cand.map fun c => (c, xs.getD c 0))).map (·.1) else []
  (List.range xs.length).filter fun c => fix.contains c || dyn.contains c

/-- A row block sends a channel to the glaze path, as the image and the control bits fix it (R141). -/
def sendsGlaze (o : OutE) (keff : Nat) : Bool :=
  ((o.mode == 1 || o.mode == 3) && !o.fixed.isEmpty) || ((o.mode == 2 || o.mode == 3) && decide (0 < keff))

/-! ### Block scale and drive codes (R58 to R61) -/

/-- The exponent of a row block's scale (R59), from the largest magnitude as a fraction. -/
def scaleExp (dFmt ocp : Bool) (amax : Nat × Nat) : Int :=
  let k := if amax.1 = 0 then -127
    else if !dFmt then ceilLog2 amax.1 (amax.2 * 7)
    else if ocp then floorLog2 amax.1 amax.2 - 2
    else ceilLog2 amax.1 (amax.2 * 6)
  max (-127) (min 127 k)

/-- The value `v / 2^k`. -/
def scaleVal (v : Val) (k : Int) : Val :=
  match v with
  | .fin n m e => .fin n m (e - k)
  | v => v

/-- The drive code of an element under scale `2^k` (R59): FP4 saturating at ±6, INT4 clamped to ±7. -/
def driveCode (dFmt : Bool) (k : Int) (v : Val) : Nat :=
  if dFmt then (encode .fp4 .rne (scaleVal v k)).1
  else
    let c := (encode .int4 .rne (scaleVal v k)).1
    if c = 8 then 9 else c

/-- The largest magnitude of a list of FP32 words. -/
def maxMag (xs : List Nat) : Nat := (xs.map (· % 2 ^ 31)).foldl max 0

/-- What the quantiser makes of a row block: the scale code, the drive codes of its 1,024 rows, whether the block is empty,
whether it was flushed and whether it is a NaN block (R58 to R61). -/
structure QBlock where
  scale : Nat := 0
  codes : List Nat := []
  empty : Bool := true
  flush : Bool := false
  nan   : Bool := false
  deriving DecidableEq, Repr

/-- Quantisation of a row block with the selected channels removed (R58 to R61). -/
def quantise (dFmt ocp : Bool) (sel xs : List Nat) : QBlock :=
  if xs.any f32Special then { scale := 0xFF, codes := List.replicate 1024 0, nan := true } else
  let bulk := xs.mapIdx fun c x => if sel.contains c then 0 else x
  let amax := maxMag bulk
  let k := scaleExp dFmt ocp (decode .fp32 amax).frac
  let codes := (bulk.map fun x => driveCode dFmt k (decode .fp32 x)) ++ List.replicate (1024 - xs.length) 0
  let empty := codes.all (· == 0)
  { scale := (k + 127).toNat, codes := codes, empty := empty, flush := empty && amax != 0 }

/-! ### Held vectors (R659) -/

/-- The key of the held vectors of a pass group. -/
def qKey (im pg : Nat) : Nat := im * 2 ^ 12 + pg

/-- The first `n` elements of a row block have been written. -/
def rbFull (v : QVec) (rb n : Nat) : Bool := (List.range n).all fun e => tget 0 v.elems (rb * 1024 + e) != 0

/-- Elements written into a held vector. -/
def putElems (base : Nat) : Nat → List Nat → Tab Nat → Tab Nat
  | _, [], m => m
  | e, x :: xs, m => putElems base (e + 1) xs (tins m (base + e) (x % 2 ^ 32 + 1))

/-- A change of the oldest vector of which `p` holds; none where there is none. -/
def modVec (p : QVec → Bool) (f : QVec → QVec) : List QVec → Option (List QVec)
  | [] => none
  | v :: vs => if p v then some (f v :: vs) else (modVec p f vs).map (v :: ·)

/-- The number of a unit is that of a quantiser (KIND 2 of R475). -/
def isQuant (u : Nat) : Bool := u / 2 ^ 16 == 2

/-- QUANTISER_RUN (R659): a run of elements goes to the oldest held vector whose row block is not complete, or to a new one; it
waits while the vectors held have that row block complete, and is refused beyond the width of its row block. The vectors of a pass group are held together, whichever clusters
quantise their row blocks. DESIGN CHOICE (log entry 96). -/
def execQuantiserRun (cl im pg rb off : Nat) (vals : List Nat) (s : State) : Out :=
  let c := Instr.quantiserRun cl im pg rb off vals
  let key := boundary 81 (cl * 4096 + pg)
  done <| withhold (bayOfCl cl) key c (fun s =>
    if !unitUp s 2 cl then emit (.fabric 3 cl tagRefuse [pg, rb, stFenced]) s else
    let n := blockRows ((groupSlices (imgOf s im) pg).headD {}) rb
    if n = 0 ∨ n < off + vals.length then emit (.fabric 3 cl tagRefuse [pg, rb, off]) s else
    let vs := tget [] s.quant (qKey im pg)
    let s' := { s with vecNext := s.vecNext + 1 }
    let x := if vs.all (fun v => rbFull v rb n) && decide (vs.length < 2) then (vs ++ [{ vec := s.vecNext }], s') else (vs, s)
    match x.1.find? fun v => !rbFull v rb n with
    | none => park (ukey 2 cl) (bayOfCl cl) key c s
    | some v =>
      if (List.range vals.length).any (fun e => tget 0 v.elems (rb * 1024 + off + e) != 0) then
        emit (.fabric 3 cl tagRefuse [pg, rb, off]) s
      else match modVec (fun v => !rbFull v rb n)
          (fun v => { v with elems := putElems (rb * 1024) off vals v.elems, cls := tins v.cls rb cl }) x.1 with
        | some vs => { x.2 with quant := tset [] s.quant (qKey im pg) vs }
        | none => s) s

/-! ### Sums of the glaze path (R72, R140, R143) -/

/-- The products of BF16 values, each formed in FP32, summed in the order given (R72). -/
def bfDot (xs : List (Nat × Nat)) : Nat := f32Sum (xs.map fun e => (f32MulV (decode .bf16 e.1) (decode .bf16 e.2)).1)

/-- A BF16 value in memory. -/
def rdBf (s : State) (a : Nat) : Nat := ofBytesLE (rdBytes s a 2)

/-- An FP32 value added to one in memory (R145). -/
def addMem (a v : Nat) (s : State) : State := wrBytes a (bytesLE 4 (f32Add (ofBytesLE (rdBytes s a 4)) v).1) s

/-- Multiply-accumulates completed by a slice (R154). -/
def countMacs (cl n : Nat) (s : State) : State := bump64 .GLZ_SL_MAC_CNT_LO .GLZ_SL_MAC_CNT_HI n cl s

/-- Where a copy of an A part, or of a B part, lies. -/
def aLoc (a : APartE) (copy : Nat) : Nat := if copy = 0 then a.loc0 else a.loc1
def bLoc (b : BPartE) (copy : Nat) : Nat := if copy = 0 then b.loc0 else b.loc1

/-- α of a copy. -/
def alphaOf (p : Adapter) (copy : Nat) : Nat := if copy = 0 then p.alpha0 else p.alpha1

/-- The copy of an adapter that a pass uses (R146). -/
def copyIn (c : PassCtl) (idx : Nat) : Nat := tget 0 c.copies idx

/-- The adapter term that a pass forms for a slice (R141). -/
def adIn (c : PassCtl) (i : Image) (x : SliceE) : Option AdpE := if c.bypass then none else adapterOf i x

/-- BF16 values as bytes. -/
def bfBytes (xs : List Nat) : List Byte := xs.flatMap (bytesLE 2)

/-- 128 bytes of a selection: bit `i` for channel `i`. -/
def selBytes (sel : List Nat) : List Byte :=
  (List.range 128).map fun b => BitVec.ofNat 8 ((List.range 8).map fun k => b2n (sel.contains (8 * b + k)) * 2 ^ k).sum

/-- Part of a record is written, where the pass has one. -/
def trainPut (i : Image) (a : AdpE) (tag : Option (Nat × Nat)) (off : Nat) (xs : List Byte) (s : State) : State :=
  match trainAt s i a tag with
  | some at_ => wrBytes (at_ + off) xs s
  | none => s

/-- `n` BF16 values of a record, none where the pass has no record. -/
def trainBf (s : State) (i : Image) (a : AdpE) (tag : Option (Nat × Nat)) (off n : Nat) : Option (List Nat) :=
  (trainAt s i a tag).map fun at_ => (List.range n).map fun k => rdBf s (at_ + off + 2 * k)

/-! ### Parts of the adapters (R140, R143) -/

/-- The part u_b of a row block (step 1 of R140). -/
def uPart (s : State) (a : APartE) (rank copy : Nat) (xs : List Nat) : List Nat :=
  (List.range rank).map fun k => bfDot (xs.mapIdx fun i x => (toBf16 x, rdBf s (aLoc a copy + i * 2 * rank + 2 * k)))

/-- Glaze work of a pass of a slice fails (R138): the status bit of the slice of cluster `cl`, and a fault in the parts of which `p`
holds. -/
def glzFault (cl im slice vec bit : Nat) (p : RouteE → Bool) (s : State) : State :=
  let s := setEv .GLZ_SL_STAT bit cl s
  foldS ((imgOf s im).routes.filter fun r => r.slice == slice && r.glaze && p r)
    (fun r s => accFault r.cl r.part im vec 3 0 (partLayer s im r.cl r.part) none (if bit = 8 then stFenced else stExec) s) s

/-- Work for a fenced glaze slice is refused (R138). -/
def glzRefuse (cl im slice vec : Nat) (p : RouteE → Bool) (s : State) : State :=
  emit (.answer 2 cl stFenced [slice]) (glzFault cl im slice vec 8 p s)

/-- Step 1 of R140 for a slice of a group that carries an adapter: x and the selection go to the training store, and the parts u_b
leave for the reducing vector unit. -/
def sendU (im vec rb : Nat) (sel xs : List Nat) (x : SliceE) (s : State) : State :=
  let i := imgOf s im
  let c := ctlOf s vec
  match adapterOf i x with
  | some a =>
    if x.kind = 1 then s else
    let s := trainPut i a c.tag (2048 * rb) (bfBytes (xs.map toBf16)) s
    let s := trainPut i a c.tag (trainSel i a rb) (selBytes sel) s
    if c.bypass then s else
    let copy := copyIn c a.index
    foldS (a.as.filter fun p => p.rb == rb) (fun p s =>
      if !unitUp s 2 p.cl then glzRefuse p.cl im x.id vec (fun _ => true) s
      else if anyPoison s (aLoc p copy) (xs.length * 2 * a.rank) then glzFault p.cl im x.id vec 9 (fun _ => true) s
      else emitWay p.cl a.red im (.fabric 3 a.red tagU ([a.index, vec, rb] ++ uPart s p a.rank copy xs))
        (countMacs p.cl (xs.length * a.rank) s)) s
  | none => s

/-- Columns of a B part that lie in row block `rb` of the transposed slice. -/
def bCols (b : BPartE) (rb : Nat) : List Nat :=
  (List.range b.n).filter fun c => decide (1024 * rb ≤ b.col + c) && decide (b.col + c < 1024 * (rb + 1))

/-- Steps 1 and 2 of R143 for a row block of the gradient g: the products of q with each B part that it meets leave for the reducing
vector unit, by k, and dB grows by h × g. DESIGN CHOICE (log entry 97). -/
def sendQ (im vec rb : Nat) (gs : List Nat) (x : SliceE) (s : State) : State :=
  let i := imgOf s im
  let ctl := ctlOf s vec
  match adIn ctl i x with
  | some a =>
    if x.kind = 0 then s else
    let copy := copyIn ctl a.index
    foldS (a.bs.filter fun b => !(bCols b rb).isEmpty) (fun b s =>
      let cs := bCols b rb
      if !unitUp s 2 b.cl then glzRefuse b.cl im x.id vec (fun _ => true) s
      else if anyPoison s (bLoc b copy) (2 * a.rank * b.n) || anyPoison s b.grad (4 * a.rank * b.n) ||
          trainBad s i a ctl.tag (trainH i a) (2 * a.rank) then
        glzFault b.cl im x.id vec 9 (fun _ => true) s
      else
        let g := fun c => toBf16 (gs.getD (b.col + c - 1024 * rb) 0)
        let q := (List.range a.rank).flatMap fun k => cs.map fun c =>
          (f32MulV (decode .bf16 (g c)) (decode .bf16 (rdBf s (bLoc b copy + k * 2 * b.n + 2 * c)))).1
        let n := cs.length * a.rank
        let s := match trainBf s i a ctl.tag (trainH i a) a.rank with
          | some h => countMacs b.cl n (foldS (List.range a.rank) (fun k s => foldS cs (fun c s =>
              addMem (b.grad + k * 4 * b.n + 4 * c) (f32MulV (decode .bf16 (h.getD k 0)) (decode .bf16 (g c))).1 s) s) s)
          | none => s
        emitWay b.cl a.red im (.fabric 3 a.red tagQ ([a.index, vec, b.col + cs.headD 0] ++ q)) (countMacs b.cl n s)) s
  | none => s

/-! ### ROW_BLOCK_QUANTISE -/

/-- The scale, the drive codes and the selection of a row block leave for the tiles, the accumulation units and the glaze
slices of one slice of the group, from the cluster whose quantiser took it. -/
def sendBlock (cl im vec rb : Nat) (q : QBlock) (chans : List (Nat × Nat)) (x : SliceE) (s : State) : State :=
  let i := imgOf s im
  let rs := i.routes.filter fun r => r.slice == x.id
  let s := foldS rs (fun r s =>
    match ((partTiles i r).mapIdx fun p e => (p, e)).find? fun e => e.2.1 == rb with
    | some (p, e) =>
      emitWay cl (clOfTile e.2.tile) im (.fabric 0 e.2.tile tagDrive ([x.kind, e.2.layer, im, r.part, vec, p] ++ q.codes))
        (emitWay cl r.cl im (.fabric 1 r.cl tagScale [r.part, im, vec, p, q.scale, b2n q.empty]) s)
    | none => s) s
  foldS ((rs.filter (·.glaze)).map (·.glzCl)).dedup
    (fun g => emitWay cl g im (.fabric 2 g tagSelect ([im, x.id, vec, rb] ++ chans.flatMap fun c => [c.1, c.2]))) s

/-- The elements of a complete row block. -/
def rbWords (v : QVec) (rb n : Nat) : List Nat := (List.range n).map fun e => tget 0 v.elems (rb * 1024 + e) - 1

/-- What is fixed for the passes of a vector at the quantisation of its first row block (R93, R141, R146): an adapter's active copy,
or for a backward pass the copy that was active when the BACKWARD started. DESIGN CHOICE (log entry 96). -/
def newCtl (s : State) (im pg : Nat) (tag : Option (Nat × Nat)) : PassCtl :=
  let i := imgOf s im
  { im := im, pg := pg, dynOff := rb s .GLZ_CTRL 0, bypass := rb s .GLZ_CTRL 1,
    kmax := s.regs.filter fun e => e.1 / 2 ^ 20 == Reg.GLZ_SL_CFG.ctorIdx, tag := tag,
    copies := foldS (groupSlices i pg) (fun x m => match adapterOf i x with
      | some a =>
        let p := portOf s im a.index
        tins m a.index (if x.kind = 1 then p.bwd.getD p.copy else p.copy)
      | none => m) [] }

/-- Every part of the passes of a vector has been delivered. -/
def passOver (s : State) (c : PassCtl) : Bool :=
  let i := imgOf s c.im
  (i.routes.filter fun r => (sliceOf i r.slice).group == c.pg).all fun r => c.past.contains (r.cl * 32 + r.part)

/-- The passes of a vector begin; what was kept of those of its group that are over is forgotten. -/
def openCtl (im pg vec : Nat) (tag : Option (Nat × Nat)) (s : State) : State :=
  if s.passes.any fun e => e.1 == vec then s
  else
    let kept := s.passes.filter fun e => e.2.im != im || e.2.pg != pg || !passOver s e.2
    { s with passes := tins kept vec (newCtl s im pg tag) }

/-- A row block has been quantised: whether it sends a channel to the glaze path, and its values as the gradient of a backward
pass (R141, R143). -/
def noteBlock (vec rb : Nat) (glz : Bool) (words : List Nat) (s : State) : State :=
  { s with passes := tmod {} s.passes vec fun c =>
      { c with sends := tins c.sends rb (1 + b2n glz),
               g := foldS (words.mapIdx fun k w => (rb * 1024 + k, toBf16 w + 1)) (fun e m => tins m e.fst e.snd) c.g } }

/-- A row block of a held vector is quantised once for the whole group (R217). -/
def quantiseBlock (cl im pg rb : Nat) (v : QVec) (s : State) : State :=
  let i := imgOf s im
  let xs := groupSlices i pg
  let x := xs.headD {}
  let words := rbWords v rb (blockRows x rb)
  let o := outlierOf i x.id rb
  let ke := if o.mode = 2 ∨ o.mode = 3 then kEff (ctlOf s v.vec) cl o else 0
  let sel := selected o ke words
  let q := quantise x.dFmt x.ocp sel words
  let s := bump .GLZ_SL_SEL_CNT ke cl s
  let s := glzConv 0 (b2n q.nan) cl s
  let s := glzConv 1 (b2n q.flush) cl s
  let s := noteBlock v.vec rb (sendsGlaze o ke) (if x.kind = 1 then words else []) s
  let chans := sel.map fun c => (c, toBf16 (words.getD c 0))
  let s := foldS xs (sendBlock cl im v.vec rb q chans) s
  foldS xs (sendQ im v.vec rb words) (foldS xs (sendU im v.vec rb sel words) s)

/-- ROW_BLOCK_QUANTISE (R58, R659): a complete row block of the oldest held vector that has not quantised it; the vector is
released when all its row blocks have been.  `tag` is the sequence and position whose training record the pass writes or reads
(R334). DESIGN CHOICE (log entry 98). -/
def execRowBlockQuantise (cl im pg rb : Nat) (tag : Option (Nat × Nat)) (s : State) : Out :=
  done <|
    if halted s (bayOfCl cl) || inReset s 2 cl then s else
    let x := (groupSlices (imgOf s im) pg).headD {}
    let key := qKey im pg
    match (tget [] s.quant key).find? fun v => !v.done.contains rb with
    | none => s
    | some v =>
      if !rbFull v rb (blockRows x rb) then s else
      let s := quantiseBlock cl im pg rb v (openCtl im pg v.vec tag s)
      let full := fun (v : QVec) => decide (x.rows ≤ v.done.length)
      match modVec (fun v => !v.done.contains rb) (fun v => { v with done := rb :: v.done }) (tget [] s.quant key) with
      | some vs => freeRoom isQuant { s with quant := tset [] s.quant key (vs.filter fun v => !full v) }
      | none => s

/-! ### Glaze slices (R123, R125, R126) -/

/-- The job of a slice and vector changed; a new job where there is none. -/
def modJob (im slice vec : Nat) (f : GlzJob → GlzJob) : List GlzJob → List GlzJob
  | [] => [f { im := im, slice := slice, vec := vec }]
  | j :: js => if j.im == im && j.slice == slice && j.vec == vec then f j :: js else j :: modJob im slice vec f js

/-- The glaze record of a channel that covers a column (R208). -/
def glzRec (i : Image) (slice rb ch col : Nat) : Option GlzE :=
  i.glaze.find? fun g => g.slice == slice && g.rb == rb && g.ch == ch && decide (g.col ≤ col) && decide (col < g.col + g.n)

/-- The glaze weight of a channel and column; zero where the image holds none. -/
def glzWeight (s : State) (i : Image) (slice rb ch col : Nat) : Nat :=
  match glzRec i slice rb ch col with
  | some g => rdBf s (g.loc + 2 * (col - g.col))
  | none => 0

/-- The glaze outlier sum of a column: channels in ascending index over the row blocks (R72, R123). -/
def outlierSum (s : State) (i : Image) (j : GlzJob) (col : Nat) : Nat :=
  bfDot (j.sels.flatMap fun e => e.2.map fun c => (c.2, glzWeight s i j.slice e.1 c.1 col))

/-- The adapter term of a column (step 4 of R140). -/
def adapterTerm (s : State) (a : AdpE) (copy : Nat) (h : List Nat) (col : Nat) : Nat :=
  match a.bs.find? fun b => decide (b.col ≤ col) && decide (col < b.col + b.n) with
  | some b => bfDot (h.mapIdx fun k v => (v, rdBf s (bLoc b copy + k * 2 * b.n + 2 * (col - b.col))))
  | none => 0

/-- A channel was selected in some row block of the pass. -/
def anySelected (j : GlzJob) : Bool := j.sels.any fun e => !e.2.isEmpty

/-- The term e of a row that was an outlier channel in the forward pass: the gradient against the forward glaze weight row
(R144). -/
def eTerm (s : State) (i : Image) (c : PassCtl) (fwd row : Nat) : Nat :=
  bfDot (c.g.map fun e => (e.2 - 1, glzWeight s i fwd (row / 1024) (row % 1024) e.1))

/-- The complete glaze contribution of a column (step 5 of R140, step 6 of R143, R144). -/
def glazeValue (s : State) (i : Image) (x : SliceE) (j : GlzJob) (col : Nat) : Nat :=
  let c := ctlOf s j.vec
  match adapterOf i x with
  | none => outlierSum s i j col
  | some a =>
    if x.kind = 1 then
      let e := if outRow s i a c.tag col then eTerm s i c (fwdOf x) col else outlierSum s i j col
      if c.bypass then e else (f32Add e (tget 1 j.z col - 1)).1
    else if c.bypass then outlierSum s i j col
    else
      let t := adapterTerm s a (copyIn c a.index) (j.h.getD []) col
      if anySelected j then (f32Add (outlierSum s i j col) t).1 else t

/-- The job has everything its contributions need: the selections of all row blocks, their weight rows, and the adapter's
h, or z for every row served. -/
def jobReady (s : State) (cl : Nat) (j : GlzJob) : Bool :=
  let i := imgOf s j.im
  let x := sliceOf i j.slice
  decide (x.rows ≤ j.sels.length) && j.waiting.isEmpty && (match adIn (ctlOf s j.vec) i x with
    | none => true
    | some _ => if x.kind = 1 then
        (i.routes.filter fun r => r.slice == x.id && r.glaze && r.glzCl == cl).all fun r =>
          (List.range (blockCols x r.cb)).all fun c => tget 0 j.z (1024 * r.cb + c) != 0
      else j.h.isSome)

/-- The weight row of a channel met an uncorrectable error. -/
def rowPoisoned (s : State) (i : Image) (slice rb ch : Nat) : Bool :=
  i.glaze.any fun g => g.slice == slice && g.rb == rb && g.ch == ch && anyPoison s g.loc (2 * g.n)

/-- The contribution of a finished job to one part: its values and its multiply-accumulates (R126, R154). -/
def sendPart (cl : Nat) (j : GlzJob) (r : RouteE) (s : State) : State :=
  let i := imgOf s j.im
  let x := sliceOf i j.slice
  let cols := (List.range (blockCols x r.cb)).map fun c => 1024 * r.cb + c
  let zero := outRows s i x j.vec cols
  if zero.any fun row => rowPoisoned s i (fwdOf x) (row / 1024) (row % 1024) then
    glzFault cl j.im j.slice j.vec 9 (fun y => y.cl == r.cl && y.part == r.part) s
  else
    let ad := if x.kind = 1 then 0 else (j.h.getD []).length
    let macs := zero.length * (ctlOf s j.vec).g.length + (cols.length - zero.length) * (j.sels.map fun e => e.2.length).sum
      + cols.length * ad
    emitWay cl r.cl j.im (.fabric 1 r.cl tagGlaze ([r.part, j.im, j.vec, 0] ++ cols.map fun c => glazeValue s i x j c)) (countMacs cl macs s)

/-- The contributions of a finished job leave for the parts that the slice serves, where the pass takes any (R141). -/
def sendGlaze (cl : Nat) (j : GlzJob) (s : State) : State :=
  let i := imgOf s j.im
  if !anySelected j && (adIn (ctlOf s j.vec) i (sliceOf i j.slice)).isNone then s else
  foldS (i.routes.filter fun r => r.slice == j.slice && r.glaze && r.glzCl == cl) (sendPart cl j) s

/-- Jobs that have become complete leave the slice. -/
def finishJobs (cl : Nat) (s : State) : State :=
  let js := tget [] s.glz cl
  foldS (js.filter (jobReady s cl)) (sendGlaze cl) { s with glz := tset [] s.glz cl (js.filter fun j => !jobReady s cl j) }

/-- The state with the job of a slice and vector changed, and the complete ones finished. -/
def withJob (cl im slice vec : Nat) (f : GlzJob → GlzJob) (s : State) : State :=
  finishJobs cl { s with glz := tmod [] s.glz cl (modJob im slice vec f) }

/-- The parts of a slice that the glaze slice of a cluster serves. -/
def servedBy (cl : Nat) (r : RouteE) : Bool := r.glzCl == cl

/-- GLAZE_SELECTION_ARRIVAL (R126): the selected values of a row block; the weight rows that were not fetched ahead of it, those of
dynamically selected channels among them, are waited for. -/
def execGlazeSelectionArrival (cl im slice vec rb : Nat) (chans : List (Nat × Nat)) (s : State) : Out :=
  done <| withhold (bayOfCl cl) (boundary 82 cl) (.glazeSelectionArrival cl im slice vec rb chans) (fun s =>
    if !unitUp s 2 cl then glzRefuse cl im slice vec (servedBy cl) s else
    withJob cl im slice vec (fun j =>
      let fetch := (chans.map fun c => (rb, c.1)).filter fun e => !j.fetched.contains e
      { j with sels := tins j.sels rb chans, waiting := j.waiting ++ fetch, fetched := j.fetched.filter fun e => e.1 != rb }) s) s

/-- The job of a slice and vector in a glaze slice. -/
def jobOfVec (s : State) (cl im slice vec : Nat) : GlzJob :=
  ((tget [] s.glz cl).find? fun j => j.im == im && j.slice == slice && j.vec == vec).getD {}

/-- The row of a fixed channel is fetched ahead of the selection of its row block, for a pass that has begun (R126). -/
def fetchAhead (s : State) (cl im slice vec rb ch : Nat) : Bool :=
  let i := imgOf s im
  let o := outlierOf i slice rb
  let j := jobOfVec s cl im slice vec
  (o.mode == 1 || o.mode == 3) && o.fixed.contains ch && !(j.sels.any fun e => e.1 == rb) && !j.fetched.contains (rb, ch) &&
  (s.passes.any fun e => e.1 == vec && e.2.im == im && e.2.pg == (sliceOf i slice).group) &&
  i.routes.any fun r => r.slice == slice && r.glaze && r.glzCl == cl && !(ctlOf s vec).past.contains (r.cl * 32 + r.part)

/-- GLAZE_WEIGHT_ROW_ARRIVAL (R126): the lanes that waited for a weight row proceed; the row of a fixed channel may come ahead of the
selection. -/
def execGlazeWeightRowArrival (cl im slice vec rb ch : Nat) (s : State) : Out :=
  done <|
    let ahead := fetchAhead s cl im slice vec rb ch
    if !ahead && !(jobOfVec s cl im slice vec).waiting.contains (rb, ch) then s else
    let rows := (imgOf s im).glaze.filter fun g => g.slice == slice && g.rb == rb && g.ch == ch
    let bp := accessesBp 2 (bayOfCl cl) (rows.map fun g => (g.loc, 2 * g.n)) s
    if halted s (bayOfCl cl) || !unitUp s 2 cl && ahead || bp.1 then bp.2 else
    let s := foldS (rows.map (·.loc)) spmTouch bp.2
    let s := whenS (rowPoisoned s (imgOf s im) slice rb ch) (glzFault cl im slice vec 9 (servedBy cl)) s
    withJob cl im slice vec (fun j => if ahead then { j with fetched := j.fetched ++ [(rb, ch)] }
      else { j with waiting := j.waiting.erase (rb, ch) }) s

/-! ### Adapters (R140, R143) -/

/-- Elementwise FP32 sums of parts, in the order given (step 2 of R140). -/
def sumParts (rank : Nat) (parts : List (List Nat)) : List Nat :=
  (List.range rank).map fun k => f32Sum (parts.map fun p => p.getD k 0)

/-- `RNE_BF16(α × u)`: the product formed once and rounded to BF16 (step 3 of R140, step 3 of R143). -/
def alphaBf (alpha u : Nat) : Nat := (encode .bf16 .rne (mulV (decode .fp32 alpha) (decode .fp32 u)).1).1

/-- The parts that a port has gathered for a vector. -/
def partsOf (w vec : Nat) (m : Tab (List Nat)) : List (List Nat) := (m.filter fun e => e.1 / 2 ^ w == vec).map (·.2)

/-- A port without the parts of a vector. -/
def dropParts (w vec : Nat) (m : Tab (List Nat)) : Tab (List Nat) := m.filter fun e => e.1 / 2 ^ w != vec

/-- ADAPTER_U_ARRIVAL (R140): the reducing vector unit adds the parts in ascending row-block order, forms h, keeps it in the training
store (R334) and sends it to every glaze slice that holds columns of the slice. -/
def execAdapterUArrival (cl im idx vec rb : Nat) (u : List Nat) (s : State) : Out :=
  done <| withhold (bayOfCl cl) (boundary 84 (cl * 2 ^ 16 + idx)) (.adapterUArrival cl im idx vec rb u) (fun s =>
    if !unitUp s 3 cl then emit (.answer 3 cl stFenced [idx]) s else
    let i := imgOf s im
    let a := adpOf i idx
    let p := portOf s im idx
    let us := tins p.us (vec * 2 ^ 7 + rb) u
    if (partsOf 7 vec us).length < (sliceOf i a.slice).rows then
      { s with adapters := tset {} s.adapters (adpKey im idx) { p with us := us } }
    else
      let c := ctlOf s vec
      let h := (sumParts a.rank (partsOf 7 vec us)).map (alphaBf (alphaOf p (copyIn c idx)))
      foldS (a.bs.map (·.cl)).dedup (fun g => emitWay cl g im (.fabric 2 g tagH ([im, idx, vec] ++ h)))
        (trainPut i a c.tag (trainH i a) (bfBytes h)
          { s with adapters := tset {} s.adapters (adpKey im idx) { p with us := dropParts 7 vec us } })) s

/-- ADAPTER_H_ARRIVAL (R140): a glaze slice forms the adapter term of its columns. -/
def execAdapterHArrival (cl im idx vec : Nat) (h : List Nat) (s : State) : Out :=
  done <| withhold (bayOfCl cl) (boundary 85 (cl * 2 ^ 16 + idx)) (.adapterHArrival cl im idx vec h) (fun s =>
    let a := adpOf (imgOf s im) idx
    if !unitUp s 2 cl then glzRefuse cl im a.slice vec (servedBy cl) s else
    let copy := copyIn (ctlOf s vec) idx
    let bad := a.bs.any fun b => b.cl == cl && anyPoison s (bLoc b copy) (2 * a.rank * b.n)
    withJob cl im a.slice vec (fun j => { j with h := some h })
      (whenS bad (glzFault cl im a.slice vec 9 (servedBy cl)) s)) s

/-- The products of q for `k`, of those of each part by k (R143). -/
def qProducts (rank k : Nat) (p : List Nat) : List Nat := (p.drop (k * (p.length / rank))).take (p.length / rank)

/-- The number of parts q of an adapter: one for each B part and row block of the gradient that it meets. -/
def qCount (i : Image) (a : AdpE) : Nat :=
  (a.bs.map fun b => ((List.range (sliceOf i a.slice).cols).filter fun rb => !(bCols b rb).isEmpty).length).sum

/-- ADAPTER_Q_ARRIVAL (R143): the products of q are added one by one in ascending column order; v goes to the glaze slices of the A
parts. DESIGN CHOICE (log entry 97). -/
def execAdapterQArrival (cl im idx vec col : Nat) (q : List Nat) (s : State) : Out :=
  done <| withhold (bayOfCl cl) (boundary 310 (cl * 2 ^ 16 + idx)) (.adapterQArrival cl im idx vec col q) (fun s =>
    if !unitUp s 3 cl then emit (.answer 3 cl stFenced [idx]) s else
    let i := imgOf s im
    let a := adpOf i idx
    let p := portOf s im idx
    let qs := tins p.qs (vec * 2 ^ 17 + col) q
    if (partsOf 17 vec qs).length < qCount i a then
      { s with adapters := tset {} s.adapters (adpKey im idx) { p with qs := qs } }
    else
      let q := (List.range a.rank).map fun k => f32Sum ((partsOf 17 vec qs).flatMap (qProducts a.rank k))
      let v := q.map (alphaBf (alphaOf p (copyIn (ctlOf s vec) idx)))
      foldS (a.as.map fun x => (x.cl, x.rb)) (fun g => emitWay cl g.1 im (.fabric 2 g.1 tagV ([im, idx, vec, g.2] ++ v)))
        { s with adapters := tset {} s.adapters (adpKey im idx) { p with qs := dropParts 17 vec qs } }) s

/-- The terms z of the rows of an A part (step 5 of R143), by row, plus one. -/
def zTerms (s : State) (p : APartE) (rank copy rows : Nat) (v : List Nat) : List (Nat × Nat) :=
  (List.range rows).map fun r => (1024 * p.rb + r,
    bfDot ((List.range rank).map fun k => (v.getD k 0, rdBf s (aLoc p copy + r * 2 * rank + 2 * k))) + 1)

/-- Step 4 of R143: dA of an A part grows by x × v. -/
def growA (p : APartE) (rank : Nat) (xs v : List Nat) (s : State) : State :=
  foldS (List.range xs.length) (fun r s => foldS (List.range rank) (fun k s =>
    addMem (p.grad + r * 4 * rank + 4 * k) (f32MulV (decode .bf16 (xs.getD r 0)) (decode .bf16 (v.getD k 0))).1 s) s) s

/-- ADAPTER_V_ARRIVAL (R143): dA grows by x × v, x from the training store (R334), and the terms z go to the glaze slices that form
the input gradient of the rows. -/
def execAdapterVArrival (cl im idx vec rb : Nat) (v : List Nat) (s : State) : Out :=
  done <| withhold (bayOfCl cl) (boundary 311 (cl * 2 ^ 16 + idx)) (.adapterVArrival cl im idx vec rb v) (fun s =>
    let i := imgOf s im
    let a := adpOf i idx
    match i.slices.find? fun x => x.kind == 1 && x.pair == a.slice, a.as.find? fun p => p.rb == rb && p.cl == cl with
    | some x, some p =>
      if !unitUp s 2 cl then glzRefuse cl im x.id vec (fun r => r.cb == rb) s else
      let c := ctlOf s vec
      let rows := blockRows (sliceOf i a.slice) rb
      let copy := copyIn c idx
      let z := zTerms s p a.rank copy rows v
      let badA := anyPoison s (aLoc p copy) (2 * a.rank * rows)
      let bad := badA || anyPoison s p.grad (4 * a.rank * rows) || trainBad s i a c.tag (2048 * rb) (2 * rows)
      let n := rows * a.rank
      let s := if bad then glzFault cl im x.id vec 9 (fun r => r.cb == rb) s else match trainBf s i a c.tag (2048 * rb) rows with
        | some xs => countMacs cl n (growA p a.rank xs v s)
        | none => s
      let s := whenS (!badA) (countMacs cl n) s
      foldS (((i.routes.filter fun r => r.slice == x.id && r.cb == rb && r.glaze).map (·.glzCl)).dedup) (fun g =>
        withJob g im x.id vec (fun j => { j with z := foldS z (fun e m => tins m e.1 e.2) j.z })) s
    | _, _ => s) s

end Sys2Proof.Machine
end

