-- ==== Sys2Proof/Machine/Xchg.lean ====
section
/-! DEFINITION. Exchange records of a sharded job (R408, R419) and the comparison of sketches (R423, R424). -/

namespace Sys2Proof.Machine

open Sys2Proof

/-! ### Geometry (R408) -/

/-- An exchange record of a job member, and its change. -/
def xchOf (s : State) (k x : Nat) : Xch := tget {} (jobOf s k).xchs x
def modXch (k x : Nat) (f : Xch → Xch) (s : State) : State := modMember k (fun j => { j with xchs := tmod {} j.xchs x f }) s

/-- An exchange entry of the peer table. -/
def xchE (t : PeerTable) (x : Nat) : XchE := t.xchs.getD x {}

/-- The bytes of a contribution, and where rank `r`'s stands. -/
def contribBytes (e : XchE) : Nat := 8 * ((e.elems + 1) / 2)
def rankPlace (t : PeerTable) (x r : Nat) : Nat := t.xchBase + (xchE t x).off + r * contribBytes (xchE t x)

/-- The elements of rank `r`'s contribution: canonical NaN for a rank that was lost (R426). -/
def contribution (s : State) (k x r : Nat) : List Nat :=
  let t := peersOf s k
  let n := (xchE t x).elems
  if (xchOf s k x).lost.contains r then List.replicate n nan32
  else (List.range n).map fun i => ofBytesLE (rdBytes s (rankPlace t x r + 4 * i) 4)

/-- What is sent and delivered of it: the padding of an odd contribution is zero (R419). -/
def contribData (s : State) (k x r : Nat) : List Nat :=
  contribution s k x r ++ List.replicate ((xchE (peersOf s k) x).elems % 2) 0

/-! ### Comparison of sketches (R423, R424) -/

/-- The square root of an FP32 value, rounded to nearest even. DESIGN CHOICE (log entry 52). -/
def sqrt32 (v : Val) : Val :=
  match v with
  | .fin false m e =>
    if m = 0 then v else
    -- m 2^e = a 4^(-200); the root of a with a sticky bit below it
    let x := scale2 m 1 (-(e + 400))
    let r := Nat.sqrt (x.1 / x.2)
    let exact := r * r * x.2 == x.1
    decode .fp32 (encodeFloat .fp32 .rne false (4 * r + b2n (!exact)) (4 * 2 ^ 200)).1
  | .inf false => v
  | _ => .nan

/-- The quotient of two FP32 values, rounded to nearest even. DESIGN CHOICE (log entry 52). -/
def div32 (a b : Val) : Val :=
  match a, b with
  | .fin n _ _, .fin k _ _ =>
    let x := a.frac
    let y := b.frac
    if y.1 = 0 then (if x.1 = 0 then .nan else .inf (n != k))
    else decode .fp32 (encodeFloat .fp32 .rne (n != k) (x.1 * y.2) (x.2 * y.1)).1
  | .fin n _ _, .inf k => .fin (n != k) 0 0
  | .inf n, .fin k _ _ => .inf (n != k)
  | _, _ => .nan

/-- A sum of FP32 squares in ascending order. -/
def sumSquares (xs : List Val) : Val :=
  xs.foldl (fun a x => (toF32 .rne (addV .rne a (toF32 .rne (mulV x x).1).1).1).1) .zero

/-- The distance d_b of R423. DESIGN CHOICE (log entry 52). -/
def sketchDist (a b : List Val) : Val :=
  let d := List.zipWith (fun x y => (toF32 .rne (addV .rne x (negV y)).1).1) a b
  let nb := sqrt32 (sumSquares b)
  let least : Val := .fin false 1 (-100)
  div32 (sqrt32 (sumSquares d)) (if ltV nb least then least else nb)

/-- Two sketches disagree: d_b > TOL / 1,024, or a NaN in either. -/
def sketchBad (s : State) (a b : List Nat) : Bool :=
  let va := a.map (decode .fp32)
  let vb := b.map (decode .fp32)
  va.any (·.isNan) || vb.any (·.isNan) || ltV (.fin false (rf s .NET_DIGEST_CTRL 9 0) (-10)) (sketchDist va vb)

/-- A network event of a context, logged with its peer entry, the logical port, the epoch and the peer's state (R429, R536). -/
def netLogAt (port code sev k peer : Nat) (s : State) : State :=
  logE { cls := 7, code := code, sev := sev, pt := k / 32, func := k % 32, object := peer,
         data := [port, (jobOf s k).epoch, (tget {} (jobOf s k).peers peer).st] } s

/-- The same, of an event of the control queue pair or of no one queue pair: the logical port is that of PORTS[0] of the entry. -/
def netLog (code sev k peer : Nat) (s : State) : State := netLogAt ((peerE s k peer).ports.headD 0) code sev k peer s

/-- The complete DIGEST record of a step is compared; after RUN suspect steps the member sets SUSPECT_SELF, and with SELF_FENCE its
context is fenced (R423, R424). -/
def compareSketch (k x : Nat) (s : State) : State :=
  let t := peersOf s k
  let own := contribution s k x t.self
  let bad := ((List.range t.nmem).filter fun r => r != t.self && sketchBad s own (contribution s k x r)).length
  let s := if bad = 0 then s else
    netLog 7 2 k 0xFF (setEv .NET_ERR_STAT 3 0 (bump .NET_DIGEST_MISM_CNT bad 0 s))
  if 3 ≤ t.nmem ∧ t.nmem - 1 < 2 * bad then
    let n := (jobOf s k).suspect + 1
    let s := modMember k (fun j => { j with suspect := n }) s
    if n = rf s .NET_DIGEST_CTRL 19 16 then
      whenS t.selfFence (fun s => modCx k (fun c => { c with fenced := true }) (modMember k (fun j => { j with wantFence := true }) s)) <|
      startBoost (k / 32) (netLog 8 3 k 0xFF (signalVec .NET_EVT_VEC (setEv .NET_ERR_STAT 4 0 s)))
    else s
  else modMember k (fun j => { j with suspect := 0 }) s

/-! ### Completion of a record (R419) -/

/-- A record whose contributions are all in is delivered, or compared, and released. -/
def xchReady (k x : Nat) (s : State) : State :=
  let t := peersOf s k
  let y := xchOf s k x
  if !((List.range t.nmem).all fun r => y.done.contains r || y.lost.contains r) then s
  else
    let e := xchE t x
    let s := if e.kind = 1 then compareSketch k x s else
      if hubClosed s (.scratch e.dest.cl) then errSteps ((cxOf s k).active.getD 0) stFenced (xreset s) else
      foldS (List.range t.nmem) (fun r s =>
        emit (.fabric 3 e.dest.cl tagResult ([e.dest.addr % 4096, e.dest.addr / 4096 % 128 + r, 0] ++ contribData s k x r)) s) s
    modXch k x (fun _ => {}) s

/-- The two members have exchanged REJOIN and REJOIN_ACK at the present epoch (R412). -/
def joined (s : State) (k p : Nat) : Bool :=
  let y := tget {} (jobOf s k).peers p
  y.st == 1 && y.acked == (jobOf s k).epoch

/-- A member's own contribution is complete: it goes to every other member on data queue pair 0 (R412, R419). -/
def ownComplete (k x : Nat) (s : State) : State :=
  let t := peersOf s k
  let s := modXch k x (fun y => { y with done := t.self :: y.done }) s
  let data := contribData s k x t.self
  let s := foldS ((memberPeers t).filter (joined s k)) (fun p =>
    netSend k p 1 ntSendImm ([x * 2 ^ 16 + (jobOf s k).epoch % 2 ^ 16, t.self] ++ data)) s
  xchReady k x s

/-- The records whose own contribution a write touches. -/
def xchTouched (s : State) (k a n : Nat) : List Nat :=
  let t := peersOf s k
  if t.job = 0 then [] else
  (List.range t.xchs.length).filter fun x =>
    let b := rankPlace t x t.self
    decide (b < a + n) && decide (a < b + contribBytes (xchE t x))

/-- The context whose exchange region an address of a partition belongs to. -/
def xchCtx (s : State) (pt a : Nat) : Option Nat :=
  (s.ctxs.find? fun e => e.1 / 32 == pt && (let t := peersOf s e.1
    t.job != 0 && decide (t.xchBase ≤ a) && decide (a < t.xchBase + t.xchSize))).map (·.1)

/-- A write reaches a complete contribution that has not been released, and is refused. -/
def xchRefuses (s : State) (k a n : Nat) : Bool :=
  (xchTouched s k a n).any fun x => (xchOf s k x).done.contains (peersOf s k).self

/-- The bytes of a write to a member's exchange region: the padding of its own contributions stays as it is (R408, R419). -/
def keepPadding (s : State) (k a : Nat) (bytes : List Byte) : List Byte :=
  let t := peersOf s k
  let pad := fun (p : Nat) => (xchTouched s k a bytes.length).any fun x =>
    let b := rankPlace t x t.self
    decide (b + 4 * (xchE t x).elems ≤ p) && decide (p < b + contribBytes (xchE t x))
  bytes.mapIdx fun i v => if pad (a + i) then rdByte s (a + i) else v

/-- The elements of a member's own contribution that a write covers are marked; complete contributions leave. -/
def xchWritten (k a n : Nat) (s : State) : State :=
  foldS (xchTouched s k a n) (fun x s =>
    let t := peersOf s k
    let b := rankPlace t x t.self
    let m := (xchE t x).elems
    let es := (List.range m).filter fun i => decide (a ≤ b + 4 * i) && decide (b + 4 * i + 4 ≤ a + n)
    let s := modXch k x (fun y => { y with written := es.foldl (fun w i => tins w i 1) y.written }) s
    if (xchOf s k x).written.length = m then ownComplete k x s else s) s

end Sys2Proof.Machine
end

