-- ==== Sys2Proof/Machine/VecUnit.lean ====
section
/-! DEFINITION. The vector unit of a cluster (R239 to R257, R263 to R271): contexts, slots, arrivals, firing, transfers and
the scalar instructions. -/

namespace Sys2Proof.Machine

open Sys2Proof

/-! ### Instruction words (R253) -/

/-- The fields of an instruction word. -/
structure VIns where
  op  : Nat := 0
  rm  : Rm := .rne
  ca  : Bool := false
  cb  : Bool := false
  cc  : Bool := false
  sb  : Bool := false
  d   : Nat := 0
  a   : Nat := 0
  b   : Nat := 0
  c   : Nat := 0
  xa  : Nat := 0
  xb  : Nat := 0
  imm : Int := 0
  deriving DecidableEq, Repr

/-- The fields of a word (R253). -/
def decodeIns (w : Nat) : VIns :=
  { op := bitsOf w 7 0, rm := rmOf (bitsOf w 9 8), ca := bitOf w 10, cb := bitOf w 11, cc := bitOf w 12, sb := bitOf w 13,
    d := bitsOf w 21 15, a := bitsOf w 28 22, b := bitsOf w 35 29, c := bitsOf w 42 36, xa := bitsOf w 46 43,
    xb := bitsOf w 50 47, imm := sxt 13 (bitsOf w 63 51) }

/-! ### Contexts and slots -/

def ctxKey (cl n : Nat) : Nat := cl * 4096 + n
def vctxOf (s : State) (cl n : Nat) : VCtx := tget {} s.vctx (ctxKey cl n)
def modCtx (cl n : Nat) (f : VCtx → VCtx) (s : State) : State := { s with vctx := tmod {} s.vctx (ctxKey cl n) f }
def slotKey (cl i : Nat) : Nat := cl * 32768 + i
def slotOf (s : State) (cl i : Nat) : VSlot := tget {} s.vslots (slotKey cl i)
def modSlot (cl i : Nat) (f : VSlot → VSlot) (s : State) : State := { s with vslots := tmod {} s.vslots (slotKey cl i) f }

/-- A scalar register; x0 reads zero (R240). -/
def xreg (c : VCtx) (r : Nat) : Nat := if r = 0 then 0 else tget 0 c.x r

/-- A scalar register written; x0 ignores writes. -/
def setX (r v : Nat) (c : VCtx) : VCtx := if r = 0 then c else { c with x := tset 0 c.x r (v % 2 ^ 32) }

/-- The instruction at a context's program counter. -/
def insAt (s : State) (cl n : Nat) : VIns := decodeIns (tget 0 s.vstore (cl * 16384 + (vctxOf s cl n).pc))

/-- The format of a slot. -/
def slotFmt (x : VSlot) : Fmt := (Fmt.ofCode x.fmt).getD .fp32

/-- The device address of a slot's element 0. -/
def slotAddr (cl : Nat) (x : VSlot) : Nat := scratchBase cl + x.addr * 8

/-- The slot is filling (R242). -/
def filling (x : VSlot) : Bool := !x.present && !x.persist && !x.written.isEmpty

/-- The elements of a slot. -/
def readSlot (s : State) (cl : Nat) (x : VSlot) : List Nat :=
  (List.range x.len).map (elemAt (slotFmt x) fun k => rdByte s (slotAddr cl x + k))

/-- One element written at an address; an element of 4 bits leaves its neighbour as it was (R53). -/
def writeElem (f : Fmt) (base i v : Nat) (s : State) : State :=
  if f.width = 4 then
    let a := base + i / 2
    let old := (rdByte s a).toNat
    wrBytes a [BitVec.ofNat 8 (setBits old (4 * (i % 2) + 3) (4 * (i % 2)) v)] s
  else wrBytes (base + i * (f.width / 8)) (bytesLE (f.width / 8) v) s

/-- Elements written from index `i` on, in one write: elements of 4 bits that share a byte with a neighbour outside the run are
written by themselves (R53, R283). -/
def writeElems (f : Fmt) (base i : Nat) (vals : List Nat) (s : State) : State :=
  if vals.isEmpty then s
  else if f.width = 4 then
    let head := vals.take (i % 2)
    let rest := vals.drop (i % 2)
    let body := rest.take (rest.length / 2 * 2)
    let s := foldS head (writeElem f base i) s
    let s := whenS (!body.isEmpty) (wrBytes (base + (i + i % 2) / 2) (packElems f body)) s
    foldS (rest.drop (rest.length / 2 * 2)) (writeElem f base (i + vals.length - 1)) s
  else wrBytes (base + i * (f.width / 8)) (packElems f vals) s

/-- Part of a write of `n` elements from index `i` on is refused for poison: it covers only part of a poisoned word (R288). -/
def elemsRefused (s : State) (f : Fmt) (base i n : Nat) : Bool :=
  let lo := 8 * base + i * f.width
  let hi := lo + n * f.width
  s.poison.any fun e => decide (8 * e.1 < hi ∧ lo < 8 * (e.1 + eccLen e.1)) && !decide (lo ≤ 8 * e.1 ∧ 8 * (e.1 + eccLen e.1) ≤ hi)

/-! ### Faults (R270, R277) -/

/-- Fault codes of R270. -/
def fLen : Nat := 0x01
def fFmt : Nat := 0x02
def fElem : Nat := 0x03
def fConflict : Nat := 0x04
def fEcc : Nat := 0x05
def fFetch : Nat := 0x06
def fDest : Nat := 0x07
def fRefused : Nat := 0x08
def fTrap : Nat := 0x09
def fHang : Nat := 0x0A
def fPc : Nat := 0x0B

/-- CONTEXT_FAULT (R270): a context becomes FAULTED, its code and program counter are recorded and logged, those of an earlier fault
overwritten (R277). The fence and the engine reset that Silset then gives the unit (R271) are steps of their own. DESIGN CHOICE
(log entry 13). -/
def ctxFault (cl n code pc : Nat) (s : State) : State :=
  if (vctxOf s cl n).state = 0 then s else
  let s := modCtx cl n (fun c => { c with state := 5, fault := code, resv := [] }) s
  let s := setEv .VEC_STAT 0 cl s
  let s := wr .VEC_LAST_FAULT cl (BitVec.ofNat 32 (n + code * 2 ^ 16)) s
  let s := wr .VEC_LAST_FAULT_PC cl (BitVec.ofNat 32 (pc % 2 ^ 14)) s
  logE { cls := 0x0D, code := 8, sev := 3, kind := 3, index := cl, object := n, addr := pc, data := [code] } s

/-- The word index of an instruction, and of a slot descriptor, in the record of poisoned words (R305). DESIGN CHOICE (log entry
103). -/
def insWord (cl pc : Nat) : Nat := 5 * 2 ^ 40 + cl * 16384 + pc
def descWord (cl i : Nat) : Nat := 5 * 2 ^ 40 + 2 ^ 23 + slotKey cl i

/-- A slot descriptor holds an uncorrectable error. -/
def slotDescBad (s : State) (cl i : Nat) : Bool := tget 0 s.poisonX (descWord cl i) == 1

/-! ### Firing (R247, R248) -/

/-- The pool index of a slot of a context. -/
def poolIdx (c : VCtx) (slot : Nat) : Nat := c.slotBase + slot

/-- A source slot is PRESENT; a PERSIST slot always is. -/
def srcReady (s : State) (cl : Nat) (c : VCtx) (slot : Nat) : Bool :=
  let x := slotOf s cl (poolIdx c slot)
  x.present || x.persist

/-- The source slots of an instruction (R255). -/
def insSrcs (i : VIns) : List Nat :=
  let b := if i.sb then [] else [i.b]
  if i.op = 0x13 then [i.a] ++ b ++ [i.c]
  else if [0x10, 0x11, 0x12, 0x14, 0x15, 0x25, 0x28, 0x31, 0x35, 0x38, 0x39].contains i.op then [i.a] ++ b
  else if i.op = 0x34 then [i.a] ++ (if (toTwos 13 i.imm).testBit 12 then b else [])
  else if i.op = 0x43 then [i.a, i.c]
  else if [0x16, 0x17, 0x18, 0x19, 0x20, 0x21, 0x22, 0x23, 0x24, 0x2C, 0x30, 0x32, 0x33, 0x41, 0x42, 0x44].contains i.op then [i.a]
  else []

/-- Sends not acknowledged, and fetches outstanding, of a cluster. -/
def clUnacked (s : State) (cl : Nat) : Nat := ((s.vctx.filter fun e => e.1 / 4096 == cl).map fun e => e.2.sends.length).sum
def clFetches (s : State) (cl : Nat) : Nat := ((s.vctx.filter fun e => e.1 / 4096 == cl).map fun e => e.2.fetches.length).sum

/-- The limits leave room for `n` more sends (R263). -/
def sendRoom (s : State) (cl ctx n : Nat) : Bool :=
  decide ((vctxOf s cl ctx).sends.length + n ≤ 16) && decide (clUnacked s cl + n ≤ 512)

/-- The copies of a SENDM: its destination words, up to 8 (R255, R265). -/
def copiesOf (s : State) (cl : Nat) (c : VCtx) (i : VIns) : Nat := min 8 (slotOf s cl (poolIdx c i.c)).len

/-- The limits of outstanding fetches and unacknowledged sends leave room for the instruction (R247, R263, R265). -/
def roomFor (s : State) (cl n : Nat) (i : VIns) : Bool :=
  let c := vctxOf s cl n
  if i.op = 0x40 then decide (c.fetches.length < 8) && decide (clFetches s cl < 256)
  else if i.op = 0x41 ∨ i.op = 0x42 then sendRoom s cl n 1
  else if i.op = 0x43 then sendRoom s cl n (copiesOf s cl c i)
  else true

/-- A context is READY: its previous instruction has completed, every source of its next one is present, and the limits leave room
for it (R247, R276). -/
def isReady (s : State) (cl n : Nat) : Bool :=
  let c := vctxOf s cl n
  let i := insAt s cl n
  c.state == 1 && decide (c.pc < c.base + c.len) && (insSrcs i).all (srcReady s cl c) && roomFor s cl n i

/-- The contexts of a cluster that are READY, in the order in which they became so: those that stand in the record, and after them
those that have become ready since, in ascending number. -/
def readyOrder (s : State) (cl : Nat) : List Nat :=
  let old := (tget [] s.vready cl).filter (isReady s cl)
  let now := ((s.vctx.filter fun e => e.1 / 4096 == cl).map fun e => e.1 % 4096).filter (isReady s cl)
  old ++ now.filter fun n => !old.contains n

/-- The record of the order of becoming ready is brought up to date: what one command makes ready becomes ready in the same stage
(R248). DESIGN CHOICE (log entry 102). -/
def noteReady (cl : Nat) (s : State) : State := { s with vready := tset [] s.vready cl (readyOrder s cl) }

/-- The lanes, and the scalar pipe of scalar, control, transfer and send instructions (R248). DEDUCED (log entry 115). -/
def onLanes (op : Nat) : Bool := decide (op < 0x40)

/-- The boundary at which a context's instructions issue (R628). -/
def issueKey (cl n : Nat) : Nat := boundary 6 (cl * 4096 + n)

/-- The context whose turn it is on a pipe: of those that the boundary lets issue, the one that became ready first (R248).
DESIGN CHOICE (log entry 102). -/
def nextOn (s : State) (cl : Nat) (lanes : Bool) : Option Nat :=
  (readyOrder s cl).find? fun n => onLanes (insAt s cl n).op == lanes && !withheld s (bayOfCl cl) (issueKey cl n)

/-- The context issues the instruction at its program counter, an `op` (R247, R248). -/
def canFire (s : State) (op cl n : Nat) : Bool :=
  isReady s cl n && (insAt s cl n).op == op && unitUp s 3 cl && !halted s (bayOfCl cl) && nextOn s cl (onLanes op) == some n

/-! ### Arrivals (R242 to R246) -/

/-- The error answer to the sender of a refused arrival: an accumulation unit frees its bank and the steps that need the result end,
a VFETCH faults its context; a refusal of a send returns to the sending context as SEND_REFUSAL (R246, R270). DESIGN CHOICE
(log entry 102). -/
def answerRefused (cl status : Nat) (r : VArr) (s : State) : State :=
  let s := emit (.fabric 3 cl tagRefuse [r.ctx, r.slot, status]) s
  match r.src with
  | .acc c p => match accFind s c p fun a => a.result.isSome with
    | some (_, a) => ackPart c p (errSteps a.im status s)
    | none => s
  | .vec _ _ _ => s
  | .fetch _ _ _ _ => ctxFault cl r.ctx fFetch r.pc s

/-- An arrival is refused (R246). -/
def refuseArrival (cl : Nat) (r : VArr) (s : State) : State :=
  logE { cls := 0x0D, code := 9, sev := 3, kind := 3, index := cl, object := r.ctx, data := [r.slot] }
    (answerRefused cl stExec r (setEv .VEC_STAT 1 cl s))

/-- The arrival is wrong in itself (R246): a context that is IDLE, a slot beyond the window, a PERSIST slot, another
format, an element at or beyond LEN; and one whose slot descriptor cannot be read (R288). -/
def badArrival (s : State) (cl : Nat) (r : VArr) : Bool :=
  let c := vctxOf s cl r.ctx
  let x := slotOf s cl (c.slotBase + r.slot)
  c.state == 0 || slotDescBad s cl (c.slotBase + r.slot) || decide (c.slotCount ≤ r.slot) || x.persist || x.fmt != r.fmt || decide (x.len < r.off + r.vals.length)

/-- An arrival has to wait: its slot is PRESENT, or reserved by an instruction in flight (R244, R245). -/
def mustHold (s : State) (cl : Nat) (r : VArr) : Bool :=
  let c := vctxOf s cl r.ctx
  let i := c.slotBase + r.slot
  (slotOf s cl i).present || c.resv.contains i

/-- The elements of a run marked as written. -/
def markRun : Nat → Nat → Tab Nat → Tab Nat
  | _, 0, m => m
  | i, n + 1, m => markRun (i + 1) n (tins m i 1)

/-- An arrival is admitted: its elements are written, and the slot becomes PRESENT when all its elements have been; its sender gets the
error of a word that refuses the write (R288). DESIGN CHOICE (log entry 111). -/
def admitArrival (cl : Nat) (r : VArr) (s : State) : State :=
  let i := (vctxOf s cl r.ctx).slotBase + r.slot
  let x := slotOf s cl i
  if (List.range r.vals.length).any (fun k => tget 0 x.written (r.off + k) != 0) then refuseArrival cl r s
  else
    let bad := elemsRefused s (slotFmt x) (slotAddr cl x) r.off r.vals.length
    let s := spmWait cl (writeElems (slotFmt x) (slotAddr cl x) r.off r.vals s)
    let s := whenS bad (answerRefused cl stMemory r) s
    let w := markRun r.off r.vals.length x.written
    modSlot cl i (fun x => if x.len ≤ w.length then { x with present := true, written := [] } else { x with written := w }) s

/-- An arrival has to be held: its slot is not free, or an earlier arrival for the slot is held. -/
def holds (s : State) (cl : Nat) (r : VArr) : Bool :=
  mustHold s cl r || (tget [] s.vheld cl).any fun h => h.ctx == r.ctx && h.slot == r.slot

/-- An arrival that would have to be held finds 64 held: it is not acknowledged (R265). -/
def noRoom (s : State) (cl : Nat) (r : VArr) : Bool :=
  unitUp s 3 cl && !badArrival s cl r && holds s cl r && decide (64 ≤ (tget [] s.vheld cl).length)

/-- An arrival reaches the vector unit; the answer to a request of its own is taken in a fence as well (R476). -/
def arrive (cl : Nat) (r : VArr) (own : Bool) (s : State) : State :=
  if !own && !unitUp s 3 cl then answerRefused cl stFenced r s
  else if badArrival s cl r then refuseArrival cl r s
  else if holds s cl r then { s with vheld := tmod [] s.vheld cl (fun l => l ++ [r]) }
  else admitArrival cl r s

/-- Held arrivals whose slot has come free are admitted, in their order (R244). -/
def releaseHeldAux (cl : Nat) : List VArr → State → State
  | [], s => s
  | r :: rs, s =>
    if badArrival s cl r then releaseHeldAux cl rs (refuseArrival cl r s)
    else if holds s cl r then
      releaseHeldAux cl rs { s with vheld := tmod [] s.vheld cl (fun l => l ++ [r]) }
    else releaseHeldAux cl rs (admitArrival cl r s)

/-- All held arrivals of a cluster are tried again; room that this makes at the input is offered to those not yet acknowledged, and
contexts that have become ready are noted (R244, R248, R265). -/
def releaseHeld (cl : Nat) (s : State) : State :=
  let l := tget [] s.vheld cl
  let t := releaseHeldAux cl l { s with vheld := tset [] s.vheld cl [] }
  noteReady cl (whenS (decide ((tget [] t.vheld cl).length < l.length)) (freeRoom (· == ukey 3 cl)) t)

/-- The slot of a vector unit's requests that a request of a context takes (R477): 31 to a context, of which R265 lets 24 be open. -/
def reqSlot (ctx rq : Nat) : Nat := ctx * 32 + rq

/-- The lowest number that no open request of a context has. -/
def freeRq (c : VCtx) : Nat := ((List.range 31).find? fun k => !((c.fetches ++ c.sends).any fun r => r.rq == k)).getD 0

/-- A VFETCH, and a send or store, of a context opens a request (R263, R477). -/
def openFetch (cl ctx : Nat) (r : VReq) (s : State) : State :=
  openReq 3 cl (reqSlot ctx r.rq) (modCtx cl ctx (fun c => { c with fetches := c.fetches ++ [r] }) s)
def openSend (cl ctx addr : Nat) (s : State) : State :=
  let c := vctxOf s cl ctx
  let r : VReq := { rq := freeRq c, pc := c.pc, addr := addr }
  openReq 3 cl (reqSlot ctx r.rq) (modCtx cl ctx (fun c => { c with sends := c.sends ++ [r] }) s)

/-- A request of a context has been answered. -/
def endReq (cl ctx rq : Nat) (s : State) : State :=
  closeReq 3 cl (reqSlot ctx rq) (modCtx cl ctx (fun c =>
    { c with fetches := c.fetches.filter fun r => r.rq != rq, sends := c.sends.filter fun r => r.rq != rq }) s)

/-- The outstanding VFETCH, and the unacknowledged send or store, that a reply names. -/
def fetchOf (s : State) (cl ctx rq : Nat) : Option VReq := (vctxOf s cl ctx).fetches.find? fun r => r.rq == rq
def sendOf (s : State) (cl ctx rq : Nat) : Option VReq := (vctxOf s cl ctx).sends.find? fun r => r.rq == rq

/-- The data of a VFETCH as it arrives. -/
def fetched (s : State) (cl ctx : Nat) (f : VReq) : VArr :=
  let x := slotOf s cl (poolIdx (vctxOf s cl ctx) f.slot)
  { ctx := ctx, slot := f.slot, fmt := x.fmt, pc := f.pc,
    vals := (List.range x.len).map (elemAt (slotFmt x) fun k => rdByte s (f.addr + k)) }

/-- A VFETCH fails: it has been answered, and faults the context with the index of the instruction (R270, R277). -/
def failFetch (cl ctx : Nat) (r : VReq) (s : State) : State := noteReady cl (ctxFault cl ctx fFetch r.pc (endReq cl ctx r.rq s))

/-- A send or store is refused (R263, R270): the context faults, with the index of the instruction that issued it (R277). -/
def failSend (cl ctx : Nat) (r : VReq) (s : State) : State :=
  noteReady cl (ctxFault cl ctx fRefused r.pc (setEv .VEC_STAT 2 cl (endReq cl ctx r.rq s)))

/-- The answer to a VFETCH: its data, or the error of a fenced or failing source, which faults the context (R242, R270). The command `c`
waits while no arrival can be held. -/
def takeFetch (c : Instr) (key cl ctx : Nat) (err : Bool) (f : VReq) (s : State) : State :=
  let x := slotOf s cl (poolIdx (vctxOf s cl ctx) f.slot)
  let n := elemBytes (slotFmt x) x.len
  let r := fetched s cl ctx f
  if err || dieDown s (cl / 48) f.addr n || anyPoison s f.addr n then failFetch cl ctx f (spmTouch f.addr s)
  else if noRoom s cl r then park (ukey 3 cl) (bayOfCl cl) key c s
  else noteReady cl (arrive cl r true (endReq cl ctx f.rq (spmTouch f.addr s)))

/-- SLOT_ARRIVAL (R242): a run of elements sent to a slot, or the answer to an outstanding VFETCH, which its tag names (R477). -/
def execSlotArrival (cl ctx slot off fmt : Nat) (vals : List Nat) (src : ArrSrc) (s : State) : Out :=
  let c := Instr.slotArrival cl ctx slot off fmt vals src
  let key := boundary 86 (cl * 2 ^ 20 + ctx * 128 + slot)
  done <| withhold (bayOfCl cl) key c (fun s =>
    match src with
    | .fetch err rq gen fgen =>
      if !tagOk s 3 cl (reqSlot ctx rq) gen fgen then lateDrop 3 cl (reqSlot ctx rq) s
      else match fetchOf s cl ctx rq with
        | none => lateDrop 3 cl (reqSlot ctx rq) s
        | some f => takeFetch c key cl ctx err f s
    | src =>
      let r : VArr := { ctx := ctx, slot := slot, off := off, fmt := fmt, vals := vals, src := src }
      if noRoom s cl r then park (ukey 3 cl) (bayOfCl cl) key c s else noteReady cl (arrive cl r false s)) s

/-! ### Issue -/

/-- A source operand is consumed (R243). -/
def consume (cl i : Nat) (s : State) : State :=
  modSlot cl i (fun x => if x.persist then x else { x with present := false, written := [] }) s

/-- The sources among A, B and C whose consume bits are set are consumed. -/
def consumeSrcs (cl : Nat) (c : VCtx) (i : VIns) (useA useB useC : Bool) (s : State) : State :=
  let s := whenS (i.ca && useA) (consume cl (poolIdx c i.a)) s
  let s := whenS (i.cb && useB) (consume cl (poolIdx c i.b)) s
  whenS (i.cc && useC) (consume cl (poolIdx c i.c)) s

/-- The instruction is in flight: the context is ISSUED, and its next program counter is known. DEDUCED (log entry 12). -/
def issued (cl n : Nat) (next : Nat) (resv : List Nat) (s : State) : State :=
  modCtx cl n (fun c => { c with state := 3, next := next, resv := resv }) s

/-- The sticky flags of an instruction are set, and those of VEC_STAT (R254, R274). -/
def raiseFlags (cl n : Nat) (f : Fl) (s : State) : State :=
  let s := modCtx cl n (fun c => { c with flags := c.flags ||| f.toNat }) s
  whenS f.of (setEv .VEC_STAT 4 cl) (whenS f.nv (setEv .VEC_STAT 3 cl) s)

/-- The issue of an instruction meets the breakpoints of KIND 6 (R628, R630), and an uncorrectable error of the instruction store, which
faults its context (R288, R300). -/
def issueBp (cl n : Nat) (f : State → State) (s : State) : State :=
  let c := vctxOf s cl n
  let bay := bayOfCl cl
  let b := breakpoint 6 (cl + n * 2 ^ 9 + c.pc * 2 ^ 21) (some bay) s
  if b.1 then b.2
  else
    let s := acked bay (issueKey cl n) b.2
    if tget 0 s.poisonX (insWord cl c.pc) == 1 then ctxFault cl n fEcc c.pc s else f s

/-- A slot operand: its format and its elements. -/
structure Opnd where
  fmt  : Fmt := .fp32
  vals : List Nat := []
  deriving DecidableEq, Repr

/-- What a vector instruction computes from: its fields, its scalar registers, its sources and the formats and lengths of
its destinations. -/
structure VEnv where
  ins : VIns := {}
  xa  : Nat := 0
  xb  : Nat := 0
  xc  : Nat := 0
  a   : Opnd := {}
  b   : Opnd := {}
  c   : Opnd := {}
  dFmt : Fmt := .fp32
  dLen : Nat := 0
  cFmt : Fmt := .fp32
  cLen : Nat := 0
  deriving DecidableEq, Repr

/-- What a vector instruction gives: elements of D and of C from element 0 on, a scalar result, and flags. -/
structure VRes where
  d  : List Nat := []
  c  : List Nat := []
  x  : Option (Nat × Nat) := none
  fl : Fl := {}
  deriving DecidableEq, Repr

/-- The operand of a slot. -/
def opndOf (s : State) (cl : Nat) (c : VCtx) (slot : Nat) : Opnd :=
  let x := slotOf s cl (poolIdx c slot)
  { fmt := slotFmt x, vals := readSlot s cl x }

/-- A slot's descriptor, or the words of its data, hold an uncorrectable error. -/
def slotPoisoned (s : State) (cl : Nat) (c : VCtx) (slot : Nat) : Bool :=
  let x := slotOf s cl (poolIdx c slot)
  slotDescBad s cl (poolIdx c slot) || anyPoison s (slotAddr cl x) (elemBytes (slotFmt x) x.len)

/-- The environment of an instruction: B is the scalar register XB where SB is set, as FP32 bits, or as INT32 for an
integer instruction (R253). -/
def envOf (s : State) (cl n : Nat) (intOp : Bool) : VEnv :=
  let c := vctxOf s cl n
  let i := insAt s cl n
  let d := slotOf s cl (poolIdx c i.d)
  let cc := slotOf s cl (poolIdx c i.c)
  { ins := i, xa := xreg c i.xa, xb := xreg c i.xb, xc := xreg c (i.c % 16), a := opndOf s cl c i.a,
    b := if i.sb then { fmt := if intOp then .int32 else .fp32, vals := [xreg c i.xb] } else opndOf s cl c i.b,
    c := opndOf s cl c i.c, dFmt := slotFmt d, dLen := d.len, cFmt := slotFmt cc, cLen := cc.len }

/-- The local write of a destination slot (R245): from issue its slot is reserved; it becomes PRESENT unless the
instruction traps (R270). -/
def writeDest (cl i : Nat) (vals : List Nat) (present : Bool) (s : State) : State :=
  let x := slotOf s cl i
  let s := writeElems (slotFmt x) (slotAddr cl x) 0 vals s
  modSlot cl i (fun x => { x with present := present && !x.persist, written := [] }) s

/-- The destination of an instruction is filling, or the target of an outstanding VFETCH (R245). -/
def destConflict (s : State) (cl : Nat) (c : VCtx) (slot : Nat) : Bool :=
  filling (slotOf s cl (poolIdx c slot)) || c.fetches.any fun f => f.slot == slot

/-- A word of a destination refuses its part of a result (R288). -/
def destRefused (s : State) (cl i n : Nat) : Bool :=
  let x := slotOf s cl i
  elemsRefused s (slotFmt x) (slotAddr cl x) 0 n

/-- The results of an instruction are written and its flags raised; with NV while FLAG_TRAP is 1 the context faults (R270), and so it
does, with ECC, where a word refuses its part of a result (R288). DESIGN CHOICE (log entry 111). -/
def applyRes (cl n : Nat) (dsts : List Nat) (nsrc : Nat) (r : VRes) (s : State) : State :=
  let c := vctxOf s cl n
  let i := insAt s cl n
  let trap := r.fl.nv && rb s .VEC_CTRL 0 cl
  let bad := (decide (0 < dsts.length) && destRefused s cl (poolIdx c i.d) r.d.length) ||
    (decide (1 < dsts.length) && destRefused s cl (poolIdx c i.c) r.c.length)
  let s := consumeSrcs cl c i (decide (0 < nsrc)) (decide (1 < nsrc) && !i.sb) (decide (2 < nsrc)) s
  let s := issued cl n (c.pc + 1) (dsts.map (poolIdx c)) s
  let s := whenS (decide (0 < dsts.length)) (writeDest cl (poolIdx c i.d) r.d (!trap)) s
  let s := whenS (decide (1 < dsts.length)) (writeDest cl (poolIdx c i.c) r.c (!trap)) s
  let s := match r.x with
    | some (k, v) => modCtx cl n (setX k v) s
    | none => s
  let s := raiseFlags cl n r.fl s
  let s := if trap then ctxFault cl n fTrap c.pc s else if bad then ctxFault cl n fEcc c.pc s else s
  releaseHeld cl s

/-- Lane beats of an instruction (R249, R275). -/
def beats (e : VEnv) (nsrc ndst : Nat) : Nat :=
  let ls := (if 0 < nsrc then [e.a.vals.length] else []) ++ (if 1 < nsrc then [e.b.vals.length] else []) ++
    (if 2 < nsrc then [e.c.vals.length] else []) ++ (if 0 < ndst then [e.dLen] else []) ++ (if 1 < ndst then [e.cLen] else [])
  (ls.foldl max 0 + 63) / 64

/-- A vector instruction of the lanes: `nsrc` sources, `ndst` destinations (C is the second), and its function, which gives
a fault code or the results. Of several faults at one issue the first of SLOT_CONFLICT, ECC and those of the function is recorded.
DESIGN CHOICE (log entry 111). -/
def lanes (op : Nat) (nsrc ndst : Nat) (intOp : Bool) (f : VEnv → Except Nat VRes) (cl n : Nat) (s : State) : State :=
  if !canFire s op cl n then s else
  issueBp cl n (fun s =>
    let c := vctxOf s cl n
    let i := insAt s cl n
    let dsts := (if 0 < ndst then [i.d] else []) ++ (if 1 < ndst then [i.c] else [])
    if dsts.any (destConflict s cl c) then ctxFault cl n fConflict c.pc s
    else if (insSrcs i).any (slotPoisoned s cl c) || dsts.any (fun d => slotDescBad s cl (poolIdx c d)) then ctxFault cl n fEcc c.pc s
    else
      let e := envOf s cl n intOp
      match f e with
      | .error code => ctxFault cl n code c.pc s
      | .ok r => applyRes cl n dsts nsrc r (spmWait cl (bump64 .VEC_BEAT_CNT_LO .VEC_BEAT_CNT_HI (beats e nsrc ndst) cl s))) s

/-! ### INSTRUCTION_COMPLETE, acknowledgements and refusals -/

/-- The copies of the adapter that an ASWAP names change places as it completes (R264). -/
def swapCopies (im idx : Nat) (s : State) : State :=
  { s with adapters := tmod {} s.adapters (adpKey im idx) fun p => { p with copy := 1 - p.copy } }

/-- INSTRUCTION_COMPLETE (R247, R249): the destination's reservation ends, held arrivals are tried, and the program counter
advances; stepping past the last instruction of the program faults with PC_RANGE, whose PC is the index past the program.
An ASWAP takes effect. DESIGN CHOICE (log entry 111). -/
def execInstructionComplete (cl ctx : Nat) (s : State) : Out :=
  done <|
    let c := vctxOf s cl ctx
    if c.state != 3 || halted s (bayOfCl cl) then s else
    let i := insAt s cl ctx
    let s := whenS (i.op == 0x67) (swapCopies c.im (xreg c i.xa)) s
    let s := modCtx cl ctx (fun c => { c with state := 1, pc := c.next, resv := [] }) s
    let s := if c.base + c.len ≤ c.next then ctxFault cl ctx fPc c.next s else s
    releaseHeld cl s

/-- SEND_ACKNOWLEDGE (R263): of the send or store that its tag names (R477). -/
def execSendAcknowledge (cl ctx rq gen fgen : Nat) (s : State) : Out :=
  done (if tagOk s 3 cl (reqSlot ctx rq) gen fgen && (sendOf s cl ctx rq).isSome then noteReady cl (endReq cl ctx rq s)
        else lateDrop 3 cl (reqSlot ctx rq) s)

/-- SEND_REFUSAL (R263, R270): the refusal of the send or store that its tag names (R477) faults the context, with the index of the
instruction that issued it (R277). -/
def execSendRefusal (cl ctx rq gen fgen : Nat) (s : State) : Out :=
  done <| match sendOf s cl ctx rq with
    | some r => if tagOk s 3 cl (reqSlot ctx rq) gen fgen then
        failSend cl ctx r s
      else lateDrop 3 cl (reqSlot ctx rq) s
    | none => lateDrop 3 cl (reqSlot ctx rq) s

/-! ### The serving port (R363) -/

/-- The image of a thread context, and the context that holds it. DEDUCED (log entry 47). -/
def senderOf (s : State) (cl ctx : Nat) : Option (Nat × Nat) :=
  let c := vctxOf s cl ctx
  if c.state = 0 then none else (cxOfImg s c.im).map fun k => (c.im, k)

/-- The command whose step a binding belongs to, with its slot. -/
def cmdOfBind (s : State) (bind : Nat) : Option (Nat × Cmd) :=
  (bindOf s bind).bind fun x => (cmdOf s x.h).map fun c => (x.h, c)

/-- A message of the serving port is refused: REG_REFUSED, and an entry with the function, the queue and the handle of the command whose
step its binding belongs to (R363, R385). DEDUCED (log entry 47). -/
def portEvent (cl ctx bind : Nat) (s : State) : State :=
  let k := ((senderOf s cl ctx).map (·.2)).getD 0
  let c := cmdOfBind s bind
  let f := fun (g : Nat × Cmd → Nat) d => (c.map g).getD d
  logE { cls := 9, code := 0x0A, sev := 3, kind := 3, index := cl, object := ctx, func := f (·.2.fn) (k % 32), queue := f (·.2.q) 0xFF,
         handle := f (fun e => handleOf e.2.gen e.1) 0, data := [f (·.2.op) 0, 0, bind] } (srvFlag 4 k s)

/-- The refusal returns to the sending context. -/
def portRefuse (cl ctx bind : Nat) (s : State) : State :=
  emit (.fabric 3 cl tagRefuse [ctx, bind, stExec]) (portEvent cl ctx bind s)

/-! ### The ADDR of destination words (R316, R318, R363) -/

/-- BIND of a word of kind 7, 8 or 9, LAYER of kind 7 or 8, PART of kind 7 (R316, R318). -/
def kvBind (a : Nat) : Nat := bitsOf a 11 0
def kvLay (a : Nat) : Nat := bitsOf a 17 12
def kvPart (a : Nat) : Nat := bitsOf a 18 18

/-- MSG of a word of kind 9, and whether the port refuses the word for it: MSG is reserved, or a bit that is zero is set (R363).
DEDUCED (log entry 47). -/
def portMsg (a : Nat) : Nat := bitsOf a 15 12
def portBad (a : Nat) : Bool := decide (3 < portMsg a) || bitsOf a 18 16 != 0

/-- What a destination word's ADDR says to its receiver: the fields of a word of kind 7, 8 or 9, the ADDR itself of another. -/
def addrParts (w : Nat) : List Nat :=
  let a := bitsOf w 31 13
  match w % 16 with
  | 7 => [kvBind a, kvLay a, kvPart a]
  | 8 => [kvBind a, kvLay a]
  | 9 => [kvBind a, portMsg a]
  | _ => [a]

/-! ### Transfers (R251, R255, R263) -/

/-- The partition of a cluster. -/
def ptOfCl (s : State) (cl : Nat) : Nat := ptOfDie s (cl / 48)

/-- The device address in XA and XB. -/
def xAddr (c : VCtx) (i : VIns) : Nat := xreg c i.xa + 2 ^ 32 * (xreg c i.xb % 2 ^ 16)

/-- A vector instruction other than a conversion and VBSCL does not take an E8M0 slot (R254). -/
def noScale (x : VSlot) : Bool := slotFmt x != .e8m0

/-- An access of a context that R290 or R292 refuses is recorded, and the context faults (R270, R300, R303). -/
def refusedAccess (cl ctx code : Nat) (c : Nat × Nat) (write : Bool) (s : State) : State :=
  ctxFault cl ctx code (vctxOf s cl ctx).pc (addrViolation c.1 c.2 0 3 write s)

/-- VFETCH (R255): posts a read of LEN of D elements at a device address of the partition. -/
def execVfetch (cl ctx : Nat) (s : State) : Out :=
  done <|
    if !canFire s 0x40 cl ctx then s else
    issueBp cl ctx (fun s =>
      let c := vctxOf s cl ctx
      let i := insAt s cl ctx
      let x := slotOf s cl (poolIdx c i.d)
      let a := xAddr c i
      let n := elemBytes (slotFmt x) x.len
      if slotDescBad s cl (poolIdx c i.d) then ctxFault cl ctx fEcc c.pc s
      else if !noScale x then ctxFault cl ctx fFmt c.pc s else
      match judge s (.inPt (ptOfCl s cl)) a n with
      | some v => refusedAccess cl ctx fFetch v false s
      | none =>
        let b := accessBp 2 (bayOfCl cl) a n s
        if b.1 then b.2 else
        let s := openFetch cl ctx { rq := freeRq c, pc := c.pc, slot := i.d, addr := a } b.2
        noteReady cl (issued cl ctx (c.pc + 1) [] s)) s

/-- The bytes of a VSTORE are written, unless the memory is down or the write reaches a complete contribution to an exchange
record (R419), when the refusal returns; a word that R288 refuses is refused to the writer. -/
def storeBytes (cl ctx a : Nat) (bytes : List Byte) (s : State) : State :=
  let n := bytes.length
  let refuse := fun st => emit (.fabric 3 cl tagRefuse [ctx, 0xFF, st])
  if wayClosed s (cl / 48) (placeOf a) then refuse stFenced (xreset s)
  else if (firstDown s a n).isSome then refuse stFenced s
  else
    let w := fun bytes s => whenS (wrRefused s a n) (refuse stMemory) (spmTouch a (wrBytes a bytes s))
    match xchCtx s (ptOfCl s cl) a with
    | none => w bytes s
    | some k => if xchRefuses s k a n then refuse stExec s else xchWritten k a n (w (keepPadding s k a bytes) s)

/-- A VSTORE (R255, R263, R270): posts a write of A; an address that the partition does not admit faults at issue. -/
def vstore (cl ctx : Nat) (s : State) : State :=
  if !canFire s 0x41 cl ctx then s else
  issueBp cl ctx (fun s =>
    let c := vctxOf s cl ctx
    let i := insAt s cl ctx
    let x := slotOf s cl (poolIdx c i.a)
    let a := xAddr c i
    let bytes := packElems (slotFmt x) (readSlot s cl x)
    if slotPoisoned s cl c i.a then ctxFault cl ctx fEcc c.pc s
    else if !noScale x then ctxFault cl ctx fFmt c.pc s else
    match judge s (.inPt (ptOfCl s cl)) a bytes.length with
    | some v => refusedAccess cl ctx fDest v true s
    | none =>
      let b := accessBp 3 (bayOfCl cl) a bytes.length s
      if b.1 then b.2 else
      let s := openSend cl ctx a (storeBytes cl ctx a bytes (spmWait cl b.2))
      releaseHeld cl (issued cl ctx (c.pc + 1) [] (consumeSrcs cl c i true false false s))) s

/-- The kinds that a vector unit may send to (R263). -/
def sendKind (k : Nat) : Bool := k == 1 || k == 2 || k == 5 || k == 6 || k == 7 || k == 8 || k == 9

/-- A destination word is of a good kind and names a cluster of the partition on an enabled die (R263). -/
def destOk (s : State) (cl w : Nat) : Bool :=
  let d := bitsOf w 12 4
  sendKind (w % 16) && decide (d < 384) && dieOn s (d / 48) && ptOfCl s d == ptOfCl s cl

/-- The status with which a copy of a send is refused: the way to its cluster crosses a closed crossing (R480); for kind 1, `n` bytes at
offset `a` reach past the end of the scratchpad, or that is down, or a word of it refuses them (R263, R288); for kind 9, the serving port
knows no such message (R363). 0 where it leaves. -/
def copyStatus (s : State) (cl w a n : Nat) : Nat :=
  let d := bitsOf w 12 4
  if wayClosed s (cl / 48) (.scratch d) then stFenced
  else if w % 16 == 9 && portBad (bitsOf w 31 13) then stExec
  else if w % 16 != 1 then 0
  else if 0x100000 < a + n then stExec
  else if placeDown s (.scratch d) then stFenced
  else if wrRefused s (scratchBase d + a) n then stMemory else 0

/-- One copy of a send leaves. A send of kind 1 is written to the destination scratchpad, unless its elements would reach past its end,
when no element is written; a refusal returns (R263, R288, R363). -/
def sendCopy (cl ctx off : Nat) (o : Opnd) (w : Nat) (s : State) : State :=
  let d := bitsOf w 12 4
  let a := bitsOf w 31 13 * 8
  let b := a + off * o.fmt.width / 8
  let st := copyStatus s cl w b (a + ((off + o.vals.length) * o.fmt.width + 7) / 8 - b)
  let s := whenS (wayClosed s (cl / 48) (.scratch d)) xreset s
  let s := whenS (w % 16 == 1 && (st == 0 || st == stMemory)) (fun s => spmWait d (writeElems o.fmt (scratchBase d + a) off o.vals s)) s
  let s := openSend cl ctx (scratchBase d) (whenS (w % 16 == 9 && st == stExec) (portEvent cl ctx (kvBind (bitsOf w 31 13))) s)
  if st = 0 then emit (.fabric 3 cl tagSend ([ctx, w % 16, d] ++ addrParts w ++ [off] ++ o.vals)) s else emit (.fabric 3 cl tagRefuse [ctx, w, st]) s

/-- SEND and SENDM: the copies leave in one issue, in order (R255, R263). -/
def sendAll (multi : Bool) (cl ctx : Nat) (s : State) : State :=
  if !canFire s (if multi then 0x43 else 0x42) cl ctx then s else
  issueBp cl ctx (fun s =>
    let c := vctxOf s cl ctx
    let i := insAt s cl ctx
    let words := if multi then (opndOf s cl c i.c).vals.take 8 else [xreg c i.xa]
    if (insSrcs i).any (slotPoisoned s cl c) then ctxFault cl ctx fEcc c.pc s
    else if multi && (opndOf s cl c i.c).fmt != .int32 then ctxFault cl ctx fFmt c.pc s
    else if !words.all (destOk s cl) then ctxFault cl ctx fDest c.pc s
    else
      let o := opndOf s cl c i.a
      let s := foldS words (sendCopy cl ctx (xreg c i.xb) o) (spmWait cl s)
      releaseHeld cl (issued cl ctx (c.pc + 1) [] (consumeSrcs cl c i true false multi s))) s

/-- SEND (R263). -/
def execSend (cl ctx : Nat) (s : State) : Out := done (sendAll false cl ctx s)

/-- SENDM (R263). -/
def execSendm (cl ctx : Nat) (s : State) : Out := done (sendAll true cl ctx s)

/-! ### Elements and scalars (R255) -/

/-- SGET: the bits of element XB of A, zero-extended; an index outside the slot faults. -/
def execSget (cl ctx : Nat) (s : State) : Out :=
  done <|
    if !canFire s 0x44 cl ctx then s else
    issueBp cl ctx (fun s =>
      let c := vctxOf s cl ctx
      let i := insAt s cl ctx
      let o := opndOf s cl c i.a
      if slotPoisoned s cl c i.a then ctxFault cl ctx fEcc c.pc s
      else if o.fmt = .e8m0 then ctxFault cl ctx fFmt c.pc s
      else if o.vals.length ≤ xreg c i.xb then ctxFault cl ctx fElem c.pc s
      else
        let v := o.vals.getD (xreg c i.xb) 0
        let s := consumeSrcs cl c i true false false (spmWait cl s)
        releaseHeld cl (modCtx cl ctx (setX (i.d % 16) v) (issued cl ctx (c.pc + 1) [] s))) s

/-- SPUT: element XB of D becomes the low bits of XA; PRESENT of D stays as it was (R245); a word that refuses the write (R288) faults
the context with ECC. DESIGN CHOICE (log entry 111). -/
def execSput (cl ctx : Nat) (s : State) : Out :=
  done <|
    if !canFire s 0x45 cl ctx then s else
    issueBp cl ctx (fun s =>
      let c := vctxOf s cl ctx
      let i := insAt s cl ctx
      let x := slotOf s cl (poolIdx c i.d)
      if slotDescBad s cl (poolIdx c i.d) then ctxFault cl ctx fEcc c.pc s
      else if destConflict s cl c i.d then ctxFault cl ctx fConflict c.pc s
      else if !noScale x then ctxFault cl ctx fFmt c.pc s
      else if x.len ≤ xreg c i.xb then ctxFault cl ctx fElem c.pc s
      else
        let bad := elemsRefused s (slotFmt x) (slotAddr cl x) (xreg c i.xb) 1
        let s := writeElem (slotFmt x) (slotAddr cl x) (xreg c i.xb) (xreg c i.xa % 2 ^ (slotFmt x).width) (spmWait cl s)
        noteReady cl (whenS bad (ctxFault cl ctx fEcc c.pc) (issued cl ctx (c.pc + 1) [poolIdx c i.d] s))) s

/-- A scalar or control instruction: from the context and its fields, the context it leaves and its next program counter. -/
def scalar (op : Nat) (f : VCtx → VIns → VCtx × Int) (cl ctx : Nat) (s : State) : State :=
  if !canFire s op cl ctx then s else
  issueBp cl ctx (fun s =>
    let c := vctxOf s cl ctx
    let r := f c (insAt s cl ctx)
    noteReady cl (issued cl ctx r.2.toNat [] (modCtx cl ctx (fun _ => r.1) s))) s

/-- A scalar result written to the register that D[3:0] names. -/
def scalarOp (op : Nat) (f : Nat → Nat → VIns → Nat → Nat) (cl ctx : Nat) (s : State) : State :=
  scalar op (fun c i => (setX (i.d % 16) (f (xreg c i.xa) (xreg c i.xb) i (xreg c (i.d % 16))) c, (c.pc : Int) + 1)) cl ctx s

/-- SADD: wrapping at 2^32. -/
def execSadd (cl ctx : Nat) (s : State) : Out := done (scalarOp 0x50 (fun a b _ _ => (a + b) % 2 ^ 32) cl ctx s)

/-- SSUB: wrapping at 2^32. -/
def execSsub (cl ctx : Nat) (s : State) : Out := done (scalarOp 0x51 (fun a b _ _ => (a + 2 ^ 32 - b) % 2 ^ 32) cl ctx s)

/-- SAND. -/
def execSand (cl ctx : Nat) (s : State) : Out := done (scalarOp 0x52 (fun a b _ _ => a &&& b) cl ctx s)

/-- SOR. -/
def execSor (cl ctx : Nat) (s : State) : Out := done (scalarOp 0x53 (fun a b _ _ => a ||| b) cl ctx s)

/-- SXOR. -/
def execSxor (cl ctx : Nat) (s : State) : Out := done (scalarOp 0x54 (fun a b _ _ => a ^^^ b) cl ctx s)

/-- SSHL: by XB[4:0]. -/
def execSshl (cl ctx : Nat) (s : State) : Out := done (scalarOp 0x55 (fun a b _ _ => (a <<< (b % 32)) % 2 ^ 32) cl ctx s)

/-- SSHR: logical, by XB[4:0]. -/
def execSshr (cl ctx : Nat) (s : State) : Out := done (scalarOp 0x56 (fun a b _ _ => a >>> (b % 32)) cl ctx s)

/-- SLI: the sign-extended immediate. -/
def execSli (cl ctx : Nat) (s : State) : Out := done (scalarOp 0x57 (fun _ _ i _ => toTwos 32 i.imm) cl ctx s)

/-- SLUI: bits [31:19] of D become the immediate, bits [18:0] stay. -/
def execSlui (cl ctx : Nat) (s : State) : Out :=
  done (scalarOp 0x58 (fun _ _ i d => toTwos 13 i.imm * 2 ^ 19 + d % 2 ^ 19) cl ctx s)

/-- A branch: the program counter advances by IMM where the condition holds. -/
def branch (op : Nat) (p : Nat → Nat → Bool) (cl ctx : Nat) (s : State) : State :=
  scalar op (fun c i => (c, if p (xreg c i.xa) (xreg c i.xb) then (c.pc : Int) + i.imm else (c.pc : Int) + 1)) cl ctx s

/-- BR. -/
def execBr (cl ctx : Nat) (s : State) : Out := done (branch 0x60 (fun _ _ => true) cl ctx s)

/-- BEQ. -/
def execBeq (cl ctx : Nat) (s : State) : Out := done (branch 0x61 (fun a b => a == b) cl ctx s)

/-- BNE. -/
def execBne (cl ctx : Nat) (s : State) : Out := done (branch 0x62 (fun a b => a != b) cl ctx s)

/-- BLT: signed. -/
def execBlt (cl ctx : Nat) (s : State) : Out := done (branch 0x63 (fun a b => decide (sxt 32 a < sxt 32 b)) cl ctx s)

/-- HALT: the context stops in state HALTED. -/
def execHalt (cl ctx : Nat) (s : State) : Out :=
  done <|
    if !canFire s 0x64 cl ctx then s else
    issueBp cl ctx (fun s => noteReady cl (modCtx cl ctx (fun c => { c with state := 4 }) s)) s

/-- SFLG: NV in bit 0, DZ in bit 1, OF in bit 2, UF in bit 3. -/
def execSflg (cl ctx : Nat) (s : State) : Out :=
  done (scalar 0x65 (fun c i => (setX (i.d % 16) c.flags c, (c.pc : Int) + 1)) cl ctx s)

/-- SFCLR: clears the flags whose bits are set in XA. -/
def execSfclr (cl ctx : Nat) (s : State) : Out :=
  done (scalar 0x66 (fun c i => ({ c with flags := c.flags &&& (15 - xreg c i.xa % 16) }, (c.pc : Int) + 1)) cl ctx s)

/-- NOP. -/
def execNop (cl ctx : Nat) (s : State) : Out := done (scalar 0x68 (fun c _ => (c, (c.pc : Int) + 1)) cl ctx s)

/-- ASWAP (R264): the inactive copy of the adapter that XA names becomes active as it completes; an index that names none faults. -/
def execAswap (cl ctx : Nat) (s : State) : Out :=
  done <|
    if !canFire s 0x67 cl ctx then s else
    issueBp cl ctx (fun s =>
      let c := vctxOf s cl ctx
      let idx := xreg c (insAt s cl ctx).xa
      if !(imgOf s c.im).adapters.any (fun a => a.index == idx) then ctxFault cl ctx fDest c.pc s
      else noteReady cl (issued cl ctx (c.pc + 1) [] s)) s

end Sys2Proof.Machine
end

