-- ==== Sys2Proof/Machine/Shadow.lean ====
section
/-! DEFINITION. Weight codes (R81, R213 to R215), the HBM shadow (R169, R293), program requests (R155 to R162, R185, R186)
and the end of loads and refreshes. -/

namespace Sys2Proof.Machine

open Sys2Proof

/-! ### Weight codes, levels and counts (R81) -/

/-- The level that carries a weight code. -/
def codeLevel (fp4 : Bool) (c : Nat) : Nat := if fp4 then c % 8 else (sxt 4 c).natAbs

/-- The code is negative. -/
def codeNeg (c : Nat) : Bool := c.testBit 3

/-- The weight count of a code (R80). -/
def codeCount (fp4 : Bool) (c : Nat) : Int :=
  let m := ((levelCount8 fp4 (codeLevel fp4 c) / 8 : Nat) : Int)
  if codeNeg c then -m else m

/-- The code of a pair of levels (R214, R215): the count of the positive cell less that of the negative cell.  An INT4 pair of count
+8 has no code of its own; it takes the code of −8. DESIGN CHOICE (log entry 35). -/
def pairCode (fp4 : Bool) (lp ln : Nat) : Nat :=
  if fp4 then (if ln = 0 then lp else 8 + ln)
  else toTwos 4 ((lp : Int) - ln)

/-- FP4 −0 becomes 0 (R215). -/
def canonCode (fp4 : Bool) (c : Nat) : Nat := if fp4 && c == 8 then 0 else c

/-- The code at row `r`, column `c` of a payload of a ware record (R213); zero outside its rows and columns. -/
def payloadCode (kind rows cols : Nat) (fp4 : Bool) (p : List Nat) (r c : Nat) : Nat :=
  if rows ≤ r ∨ cols ≤ c then 0
  else if kind = 2 then
    let b := p.getD (r * cols + c) 0
    canonCode fp4 (pairCode fp4 (b % 16) (b / 16 % 16))
  else canonCode fp4 ((p.getD (r * ((cols + 1) / 2) + c / 2) 0 >>> (4 * (c % 2))) % 16)

/-- The canonical array of 1,024 × 1,024 codes, packed as R53 states (R215). -/
def canonArray (f : Nat → Nat → Nat) : List Byte :=
  (List.range 0x80000).map fun i =>
    BitVec.ofNat 8 (f (i / 512) (2 * (i % 512)) + 16 * f (i / 512) (2 * (i % 512) + 1))

/-- The canonical digest of an array (R215). DESIGN CHOICE (log entry 35). -/
def canonDigest (fp4 : Bool) (rows cols : Nat) (codes : List Byte) : Nat :=
  (Config.sha384 ([b2n fp4, 0, 0, 0] ++ (bytesLE 4 rows ++ bytesLE 4 cols).map (·.toNat) ++ [0, 0, 0, 0] ++
    codes.map (·.toNat))).toNat

/-! ### The shadow (R169, R293) -/

/-- The shadow entry of a tile-layer. -/
def shadowOf (s : State) (tl : Nat) : Option Shadow := (s.shadow.find? fun e => e.1 == tl).map (·.2)

/-- Where the entry of a tile-layer in the shadow index lies: behind its probe-sum table. DESIGN CHOICE (log entry 36). -/
def Shadow.entry (x : Shadow) : Nat := x.sums + 0x4000

/-- The shadow of a tile-layer cannot be read: not VALID, or a word of its codes or of its index entry is poisoned. -/
def shadowBad (s : State) (tl : Nat) : Bool :=
  match shadowOf s tl with
  | some x => x.state != 0 || anyPoison s x.addr 0x80000 || anyPoison s x.entry 16
  | none => true

/-- The shadow code of row `r`, column `c`. -/
def shadowCode (s : State) (x : Shadow) (r c : Nat) : Nat :=
  ((rdByte s (x.addr + r * 512 + c / 2)).toNat >>> (4 * (c % 2))) % 16

/-- Ranges of HBM that hold something: shadows with their probe-sum tables and index entries, pools and tables of the images held.
DESIGN CHOICE (log entry 36). -/
def hbmUsed (s : State) : List (Nat × Nat) :=
  s.shadow.flatMap (fun e => [(e.2.addr, 0x80000), (e.2.sums, 0x4020)]) ++
  s.images.flatMap fun e =>
    (e.2.kv.pools.filter fun p => p.tier == 2).map (fun p => (p.base, p.size)) ++
    e.2.embeds.map (fun t => let r := e.2.ware.getD t.1 {}; (t.2, r.rows * r.cols * 2)) ++
    [(e.2.peers.xchBase, e.2.peers.xchSize), (e.2.peers.fetchBase, e.2.peers.slots * 0x100000)] ++
    (e.2.peers.regions.filter fun r => r.dir == 0).map fun r => (r.base, r.len)

/-- A free place of `n` bytes in a channel group, taken from its top downwards in steps of `n`. DESIGN CHOICE (log entry 36). -/
def freeIn (used : List (Nat × Nat)) (base n : Nat) : Nat → Option Nat
  | 0 => none
  | k + 1 =>
    let a := base + k * n
    if used.any fun u => decide (u.1 < a + n) && decide (a < u.1 + u.2) then freeIn used base n k else some a

/-- A free place of `n` bytes in the channel groups of a partition. DESIGN CHOICE (log entry 36). -/
def hbmPlace (s : State) (pt n : Nat) (used : List (Nat × Nat)) : Option Nat :=
  (groupsOfPt s pt).findSome? fun g => freeIn (used ++ hbmUsed s) (g * 0x300000000) n (0x300000000 / n)

/-- Where the shadow of a tile-layer and its probe-sum table go: the codes 512 KiB aligned, both in the channel groups of its
partition (R293). DESIGN CHOICE (log entry 36). -/
def shadowPlace (s : State) (pt : Nat) : Option (Nat × Nat) :=
  match hbmPlace s pt 0x80000 [] with
  | none => none
  | some a => (hbmPlace s pt 0x4020 [(a, 0x80000)]).map fun b => (a, b)

/-- The sum over group `k` of 128 rows of a column, or over columns of a row, of the weight counts (R167). -/
def groupSum (s : State) (x : Shadow) (trans : Bool) (j k : Nat) : Int :=
  ((List.range 128).map fun i =>
    if trans then codeCount x.fp4 (shadowCode s x j (128 * k + i)) else codeCount x.fp4 (shadowCode s x (128 * k + i) j)).sum

/-- The 16 B of a shadow entry go to its place in the index (R293): the state as VALID 0, BAD 1, LOST 2, and byte 7 zero.
DESIGN CHOICE (log entry 36). -/
def putEntry (x : Shadow) (s : State) : State :=
  wrBytes x.entry (bytesLE 6 x.addr ++ [BitVec.ofNat 8 x.state, 0] ++ (bytesLE 8 x.digest).reverse) s

/-- The shadow entry of a tile-layer replaced. -/
def setShadow (tl : Nat) (x : Shadow) (s : State) : State := putEntry x { s with shadow := tins s.shadow tl x }

/-- The state of a shadow entry: 0 VALID, 1 BAD, 2 LOST (R295, R296). -/
def shadowState (tl st : Nat) (s : State) : State :=
  match shadowOf s tl with
  | some x => setShadow tl { x with state := st } s
  | none => s

/-- The probe-sum table of a tile-layer: eight INT16 values for each column (R169). -/
def sumBytes (s : State) (x : Shadow) : List Byte :=
  (List.range 8192).flatMap fun i => bytesLE 2 (toTwos 16 (groupSum s x false (i / 8) (i % 8)))

/-- Shadows that lie where `p` holds, in any of their parts, are LOST; SHADOW_LOST is set, and each is entered in the log (R296, R300). -/
def loseShadows (p : Nat → Bool) (s : State) : State :=
  let sh := s.shadow.filter fun e => (p e.2.addr || p e.2.sums || p e.2.entry) && e.2.state != 2
  let s := foldS sh (fun e => setShadow e.1 { e.2 with state := 2 }) s
  let s := whenS (!sh.isEmpty) (setEv .HUB_MEM_ERR_STAT 7 0) s
  foldS sh (fun e =>
    logE { cls := 2, code := 9, sev := 3, kind := 0, index := e.1 / 4, layer := e.1 % 4, addr := e.2.addr, data := [3, 0] }) s

/-- Codes go to the shadow of a tile-layer, and its probe-sum table is computed (R169, R225). DESIGN CHOICE (log entry 36). -/
def putShadow (tl ctx : Nat) (fp4 : Bool) (rows cols digest : Nat) (codes : List Byte) (s : State) : State :=
  match (shadowOf s tl).map (fun x => (x.addr, x.sums)) <|> shadowPlace s (ctx / 32) with
  | none => s
  | some (a, b) =>
    let x : Shadow := { addr := a, sums := b, digest := digest >>> 320, ctx := ctx, fp4 := fp4, rows := rows, cols := cols }
    let s := wrBytes a codes (setShadow tl x s)
    wrBytes b (sumBytes s x) s

/-- The shadow of a tile-layer is freed. -/
def dropShadow (tl : Nat) (s : State) : State := { s with shadow := tdel s.shadow tl }

/-! ### Wear and program requests (R160, R185, R186) -/

/-- The calibration sequencer of a bay, and the state with it changed. -/
def calOf (s : State) (bay : Nat) : BayCal := tget {} s.cal bay
def modCal (bay : Nat) (f : BayCal → BayCal) (s : State) : State := { s with cal := tmod {} s.cal bay f }

/-- A CALIBRATION entry about a tile-layer. -/
def calLog (code sev tl : Nat) (data : List Nat) (s : State) : State :=
  logE { cls := 4, code := code, sev := sev, kind := 0, index := tl / 4, layer := tl % 4, data := data } s

/-- The wear record of a tile-layer replaced, and its done page asked of the flash (R185). DESIGN CHOICE (log entry 35). -/
def setWear (tl : Nat) (w : Wear) (s : State) : State :=
  askFlash (.donePage [(tl, w)]) { s with sil.wear := tset {} s.sil.wear tl w }

/-- The program operation of a tile-layer replaced. -/
def setProg (tl : Nat) (o : ProgOp) (s : State) : State := { s with progs := tins s.progs tl o }

/-- A program operation of a tile-layer is refused: WORN at 100,000 cycles, or DEFECTIVE (R186). -/
def wornOut (s : State) (tl : Nat) : Bool := decide (100000 ≤ (wearOf s tl).count) || (wearOf s tl).state == 4

/-- The refusal: the record becomes RETIRED, WORN or PROG_FAIL is set and the refusal logged. -/
def refuseProg (tl : Nat) (s : State) : State :=
  let w := wearOf s tl
  if w.state = 4 then calLog 7 3 tl [w.count] (setEv .CAL_STAT 18 0 s)
  else calLog 7 3 tl [w.count] (setEv .CAL_STAT 21 0 (whenS (w.state != 3) (setWear tl { w with state := 3 }) s))

/-- A program operation that is not refused waits for PROG_CONC; its start page is asked of the flash (R533). A read-back
is no program operation (R224). -/
def requestProg (tl : Nat) (o : ProgOp) (s : State) : State :=
  whenS (o.kind != 2) (fun s => askFlash (.startPage [tl]) (spoilTl tl s))
    (setProg tl { o with order := s.progNext } { s with progNext := s.progNext + 1 })

/-- A row-step request of a tile-layer leaves the tile's pending buffer and the bay router. -/
def dropRowReq (tl : Nat) (s : State) : State :=
  let mine := fun (r : PassReq) => r.kind == 2 && r.layer == tl % 4
  let s := modTile (tl / 4) (fun x => { x with held := x.held.filter fun r => !mine r }) s
  if (tileOf s (tl / 4)).pending.any mine then
    admitHeld (tl / 4) (tileOf s (tl / 4)).held (modTile (tl / 4) (fun x => { x with pending := none }) s)
  else s

/-- A program operation has ended: passes that waited for it go on (R182). -/
def endProg (tl : Nat) (s : State) : State := backFromAside tl { s with progs := tdel s.progs tl }

/-- A program operation is taken off the sequencer, and its start page is no longer wanted. DESIGN CHOICE (log entry 85). -/
def dropProg (tl : Nat) (s : State) : State := dropPage tl (endProg tl (dropRowReq tl s))

/-! ### Tile-layers of an image -/

/-- The tile-layers that an image places. -/
def imgTls (i : Image) : List Nat := i.places.map fun p => tlKey p.tile p.layer

/-- The tile-layers that the images of any context hold. -/
def heldTls (s : State) : List Nat :=
  s.ctxs.flatMap fun e => e.2.images.flatMap fun im => imgTls (imgOf s im)

/-- The ware record of a placement. -/
def recOf (i : Image) (p : PlaceE) : WareRec := i.ware.getD p.record {}

/-- The weight format of a placement: FP4. -/
def placeFp4 (i : Image) (p : PlaceE) : Bool := (sliceOf i p.slice).wFmt

/-- The TILE_LCFG word of a placement (R116). -/
def cfgWord (i : Image) (p : PlaceE) : Word :=
  let x := sliceOf i p.slice
  let t := i.slices.find? fun y => y.kind == 1 && y.pair == p.slice
  BitVec.ofNat 32 (1 + 2 * b2n x.wFmt + 4 * b2n x.dFmt + 8 * b2n ((t.getD {}).dFmt) + 16 * b2n p.ten + 256 * p.range + 4096 * p.trange)

/-- Silset's journal entry about a write on behalf of a command (R454). -/
def loaderEntry (s : State) (h : Option Nat) : LogEntry :=
  match h.bind fun h => (cmdOf s h).map fun c => (h, c) with
  | some (h, c) => { source := 1, func := c.fn, queue := c.q, handle := handleOf c.gen h }
  | none => { source := 1 }

/-- The loader changes TILE_LCFG of a tile-layer, which is journalled (R116). -/
def loaderLcfg (tl : Nat) (w : Word) (h : Option Nat) (s : State) : State :=
  let old := rd s .TILE_LCFG tl
  journalBy (loaderEntry s h) (blkOff .TILE_LCFG (tl / 4)) old.toNat w.toNat 0 (old != w) (wr .TILE_LCFG tl w s)

/-- The loader sets VALID and the formats and ranges of a tile-layer (R116). -/
def setValid (i : Image) (p : PlaceE) (h : Nat) (s : State) : State := loaderLcfg (tlKey p.tile p.layer) (cfgWord i p) (some h) s

/-- VALID of a tile-layer becomes 0, on behalf of the command `h` where there is one; cells and wear records are kept (R226, R454). -/
def clearValid (h : Option Nat) (tl : Nat) (s : State) : State :=
  let s := loaderLcfg tl (setFld (rd s .TILE_LCFG tl) 0 0 0) h (spoilTl tl s)
  { s with tlayers := tmod {} s.tlayers tl fun x => { x with due := false } }

/-- STATE of a tile, unless it is FAILED. DESIGN CHOICE (log entry 24). -/
def setTileState (t st : Nat) (s : State) : State :=
  if rf s .TILE_CFG 2 0 t = 3 then s else wrf .TILE_CFG 2 0 st t s

/-- The spare of a cluster under an image (R203). -/
def spareOf (i : Image) (cl : Nat) : Nat := ((i.clusters.find? fun c => c.cl == cl).getD {}).spare

/-- Tiles of an image: placed ones become ACTIVE, spares of its clusters SPARE. -/
def claimTiles (i : Image) (s : State) : State :=
  let placed := (i.places.map fun p => p.tile).dedup
  let spares := (placed.map fun t => clOfTile t * 32 + spareOf i (clOfTile t)).dedup
  foldS placed (fun t => setTileState t 1) (foldS (spares.filter fun t => rf s .TILE_CFG 2 0 t == 0) (fun t => setTileState t 2) s)

/-- Tile-layers that no image holds any longer return to STATE IDLE with VALID = 0, and their shadow is freed (R226). -/
def releaseTls (h : Option Nat) (tls : List Nat) (s : State) : State :=
  let keep := heldTls s
  let gone := tls.filter fun tl => !keep.contains tl
  let s := foldS gone (fun tl s => dropShadow tl (clearValid h tl s)) s
  let tiles := (gone.map fun tl => tl / 4).dedup.filter fun t => !keep.any fun k => k / 4 == t
  foldS tiles (fun t => setTileState t 0) s

/-! ### The end of a load (R225, R229, R232) -/

/-- A load changed, where there is one. -/
def modLoad (k : Nat) (f : Load → Load) (s : State) : State := modCx k (fun c => { c with load := c.load.map f }) s

/-- What an image that no context holds any longer has in the vector units goes: its contexts are IDLE with their slots, the
arrivals held for them are refused (R267). -/
def dropCode (im : Nat) (s : State) : State :=
  let mine := s.vctx.filter fun e => e.2.im == im
  let s := foldS mine (fun e => foldS (e.2.fetches ++ e.2.sends) fun r => closeReq 3 (e.1 / 4096) (reqSlot (e.1 % 4096) r.rq))
    { s with vctx := s.vctx.filter fun e => e.2.im != im }
  foldS s.vheld (fun e s =>
    let gone := e.2.filter fun r => mine.any fun c => c.1 == ctxKey e.1 r.ctx
    let left := e.2.filter fun r => !(mine.any fun c => c.1 == ctxKey e.1 r.ctx)
    whenS (!gone.isEmpty) (freeRoom (· == ukey 3 e.1)) (foldS gone (refuseArrival e.1) { s with vheld := tset [] s.vheld e.1 left })) s

/-- Who asked for what is logged of a load, an activation or a discard: the command's function, queue, handle and source address
(R231). -/
def setEntry (s : State) (code sev k h id : Nat) : LogEntry :=
  let e : LogEntry := { cls := 0x0A, code := code, sev := sev, pt := k / 32, data := [id % 2 ^ 64, 0, 0] }
  match cmdOf s h with
  | some c => { e with func := c.fn, queue := c.q, handle := handleOf c.gen h, addr := if c.op = 1 then c.u 0x10 8 % 2 ^ 48 else 0 }
  | none => { e with func := k % 32 }

/-- A payload of a ware that stands in device memory at `a`, and whether the read of it failed (R225, R288, R296). DESIGN CHOICE
(log entry 38). -/
def devPayload (s : State) (a : Nat) (i : Image) (rec : Nat) : List Nat × Bool :=
  let r := i.ware.getD rec {}
  let n := payloadLen r
  ((rdBytes s (a + r.off) n).map (·.toNat), anyPoison s (a + r.off) n || (hubDown s (a + r.off) n).isSome)

/-- A payload is asked of the ware source: host memory, or a peer by digest and record (R225, R413); a source in device
memory is read inside the package. DESIGN CHOICE (log entry 38). -/
def askPayload (k h : Nat) (l : Load) (i : Image) (rec : Nat) (s : State) : State :=
  let r := i.ware.getD rec {}
  match l.src with
  | 0 => match cmdOf s h with
    | some c => emit (.hostRead c.fn (c.u 0x20 8 + r.off) (payloadLen r)) s
    | none => s
  | 2 => putAsk k h (i.peers.peers.getD l.peer {}).localQpn 1 1 [i.wareDigest, rec + 1, 1] s
  | _ => s

/-- The records whose payloads a load has to read: those of its tile-layers that are to be programmed, and its tables.
DESIGN CHOICE (log entry 38). -/
def payloadsOf (l : Load) (i : Image) : List Nat :=
  (((i.places.filter fun p => tget 0 l.todo (tlKey p.tile p.layer) == 0).map (·.record)) ++ l.tables).dedup

/-- The contexts whose loads share a payload read with that of context `k` (R415). -/
def sharers (s : State) (k : Nat) (l : Load) : List Nat :=
  let d := (imgOf s l.im).wareDigest
  (s.ctxs.filter fun e => match e.2.load with
    | some m => e.1 != k && m.phase == 3 && m.src == l.src && m.peer == l.peer && (imgOf s m.im).wareDigest == d &&
        (match cmdOf s m.h, cmdOf s l.h with
         | some a, some b => a.u 0x20 8 == b.u 0x20 8 && (l.src != 0 || a.fn == b.fn)
         | _, _ => false)
    | none => false).map (·.1)

/-- The payloads of records are asked for on behalf of the load of a context, but for those that a load with which it shares them
still waits for (R415). -/
def askPayloads (k : Nat) (recs : List Nat) (s : State) : State :=
  match loadOf s k with
  | none => s
  | some l =>
    let under := fun (n : Nat) => (sharers s k l).any fun j => (loadOf s j).any fun m =>
      m.asked.contains n && (payloadsOf m (imgOf s m.im)).contains n
    let recs := recs.filter fun n => !under n
    foldS recs (askPayload k l.h l (imgOf s l.im)) (modLoad k (fun l => { l with asked := (l.asked ++ recs).dedup }) s)

/-- The acceptance of a load is entered, once: its IMAGE_ID is 0 where the image had not been read (R231). DESIGN CHOICE (log entry 38). -/
def enterLoad (k : Nat) (s : State) : State :=
  match loadOf s k with
  | some l => if l.entered then s
    else modLoad k (fun l => { l with entered := true }) (logE (setEntry s 1 0 k l.h l.id) s)
  | none => s

/-- The load of an image is given up: its claims are released, the payloads that others shared with it are asked for by them, and it
completes (R221, R415). -/
def endLoad (k : Nat) (l : Load) (status tl1 : Nat) (s : State) : State :=
  let others := sharers s k l
  let tls := imgTls (imgOf s l.im)
  let ops := (s.progs.filter fun e => e.2.ctx == k && (e.2.kind == 0 || e.2.kind == 2)).map (·.1)
  let s := foldS ops dropProg s
  let s := modCx k (fun c => { c with load := none }) { s with qps := s.qps.filter fun e => !(e.2.ctx == k && e.2.load) }
  let s := dropCode l.im s
  let s := releaseTls (some l.h) tls { s with images := tdel s.images l.im, adapters := s.adapters.filter fun e => e.1 / 2 ^ 16 != l.im }
  let s := foldS others (fun j s => askPayloads j (((loadOf s j).map fun m =>
    (payloadsOf m (imgOf s m.im)).filter l.asked.contains).getD []) s) s
  kickAsks k false
    (complete l.h status (l.shared + 2 ^ 16 * l.retained) (l.programmed + 2 ^ 32 * (if tl1 = 0 then 0xFFFFFFFF else tl1 - 1)) s)

/-- A program operation of the load of a context has a row step running. -/
def loadBusy (s : State) (k : Nat) : Bool :=
  s.progs.any fun e => e.2.ctx == k && (e.2.kind == 0 || e.2.kind == 2) && rowRunning s e.1

/-- A load is stopped after each running row step (R229, R232). -/
def stopLoad (k status tl1 : Nat) (s : State) : State :=
  let s := enterLoad k s
  match loadOf s k with
  | none => s
  | some l =>
    if loadBusy s k then modLoad k (fun l => { l with stop := l.stop <|> some (status, tl1) }) s
    else endLoad k l ((l.stop.map (·.1)).getD status) ((l.stop.map (·.2)).getD tl1) s

/-- A stopped load whose last row step has ended is given up. -/
def stoppedLoad (k : Nat) (s : State) : State :=
  match loadOf s k with
  | some l => match l.stop with
    | some (st, tl1) => if loadBusy s k then s else endLoad k l st tl1 s
    | none => s
  | none => s

/-- DATA of an IMAGE entry: bytes 0 to 7 of the IMAGE_ID, validation code and entry (R536). -/
def imgData (s : State) (im code entry : Nat) : List Nat := [(imgOf s im).id % 2 ^ 64, code, entry]

/-- The IMAGE entry of a context's load. -/
def loadEntry (s : State) (k num code entry : Nat) : LogEntry :=
  { cls := 0x0A, code := num, sev := 3, pt := k / 32, func := k % 32,
    data := match loadOf s k with
      | some l => [l.id % 2 ^ 64, code, entry]
      | none => [0, code, entry] }

/-- A load stops on a fault of R232, which is logged. -/
def failLoad (k status tl1 : Nat) (s : State) : State :=
  let s := enterLoad k s
  stopLoad k status tl1 (logE (loadEntry s k 6 0 0) s)

/-! ### Vector resources of an image (R267, R268) -/

/-- Every context of an image: cluster, number, record and index within the record. -/
def imgCtxs (i : Image) : List (Nat × Nat × CtxE × Nat) :=
  i.ctxs.flatMap fun c => (List.range c.count).map fun j => (c.cl, c.first + j, c, j)

/-- A context of an image goes to its entry (R266). -/
def enterCtx (im cl n : Nat) (c : CtxE) (j base len : Nat) (s : State) : State :=
  let v : VCtx :=
    { im := im, state := 1, pc := base + c.entry, next := base + c.entry,
      x := (if j = 0 then [] else [(1, j)]) ++ (if n = 0 then [] else [(2, n)]),
      slotBase := c.slotBase + j * c.slotCount, slotCount := c.slotCount, base := base, len := len, entry := c.entry,
      idx := j }
  modCtx cl n (fun _ => v) s

/-- Where the program of a context lies in the store: as its idle context recorded it. -/
def ctxBase (s : State) (cl n : Nat) : Nat × Nat := ((vctxOf s cl n).base, (vctxOf s cl n).len)

/-- The contexts of an image start at their entry (R267). -/
def startCtxs (im : Nat) (s : State) : State :=
  let cs := imgCtxs (imgOf s im)
  let s := foldS cs (fun e s =>
    let b := ctxBase s e.1 e.2.1
    enterCtx im e.1 e.2.1 e.2.2.1 e.2.2.2 b.1 b.2 s) s
  foldS (cs.map (·.1)).dedup noteReady s

/-- Two images have byte-identical MICROCODE sections (R268). -/
def sameCode (a b : Image) : Bool := a.progs == b.progs && a.ctxs == b.ctxs && a.slots == b.slots && a.data == b.data

/-! ### Activation (R226 to R228) -/

/-- Sequences and prefixes of the old image pass to the new one where it is compatible; otherwise the sequences are
RETIRED (R227). -/
def passOn (k o im : Nat) (keep : Bool) (s : State) : State :=
  let sq := s.seqs.map fun e =>
    if e.2.used && e.2.ctx == k && e.2.im == o then
      (e.1, if keep then { e.2 with im := im } else { e.2 with retired := true }) else e
  let pf := s.prefixes.map fun p => if keep && p.ctx == k && p.im == o then { p with im := im } else p
  { s with seqs := sq, prefixes := pf }

/-- The line rate of a logical port in Mb/s, by the MODE of its physical port (R397). -/
def lineRate (s : State) (port : Nat) : ℚ :=
  match rf s .NET_PORT_CFG 1 0 port with
  | 0 => 400000
  | 1 => 200000
  | _ => 100000

/-- The queue pairs of a peer entry: number and logical port, the control queue pair on the first port (R406). -/
def peerQps (e : PeerE) : List (Nat × Nat) :=
  (e.localQpn, e.ports.getD 0 0xFF) :: (List.range 4).map fun j => (e.localQpn + 1 + j, e.ports.getD j 0xFF)

/-- The queue pairs of a context are set up anew when an image becomes active (R402, R410). DESIGN CHOICE (log entry 55). -/
def setupQps (k : Nat) (t : PeerTable) (s : State) : State :=
  let s := { s with qps := s.qps.filter fun e => e.2.ctx != k }
  foldS (t.peers.mapIdx fun p e => (p, e)) (fun pe s =>
    foldS ((peerQps pe.2).filter fun q => q.2 != 0xFF) (fun q s =>
      let x : QPair := { st := 1, ctx := k, peer := pe.1, port := q.2, rc := lineRate s q.2, rt := lineRate s q.2 }
      { s with qps := tins s.qps q.1 x }) s) s

/-- The queue pairs of a peer entry that a load names are set up where they are not, so that the table of the image being loaded can be
used (R405); those in error too, where the context has no active image that would be activated again (R402). DESIGN CHOICE (log entry 55). -/
def setupPeer (k p : Nat) (t : PeerTable) (s : State) : State :=
  foldS ((peerQps (t.peers.getD p {})).filter fun q => q.2 != 0xFF && ((qpOf s q.1).st == 0 || ((qpOf s q.1).st == 2 && (cxOf s k).active.isNone))) (fun q s =>
    let x : QPair := { st := 1, ctx := k, peer := p, load := true, port := q.2, rc := lineRate s q.2, rt := lineRate s q.2 }
    { s with qps := tins s.qps q.1 x }) s

/-- The job of a context at an activation (R412, R427, R428): a member starts HELD, at epoch 1, with its peers ABSENT; a
delta keeps its job, but for the peers whose entry changed. DESIGN CHOICE (log entry 51). -/
def joinJob (k : Nat) (old : Option PeerTable) (delta : Bool) (t : PeerTable) (s : State) : State :=
  let same := delta && (match old with
    | some o => o.job == t.job && o.nmem == t.nmem && o.self == t.self
    | none => false)
  if t.job = 0 then { s with jobs := tdel s.jobs k }
  else if same then
    let j := tget {} s.jobs k
    let keep := fun (p : Nat) => (old.getD {}).peers.getD p {} == t.peers.getD p {}
    { s with jobs := tins s.jobs k { j with peers := j.peers.filter fun e => keep e.1 } }
  else { s with jobs := tins s.jobs k { st := 2, epoch := 1 } }

/-- The adapters of a delta that replaces none go on in their present state (R146, R228). -/
def keepAdapters (old im : Nat) (s : State) : State :=
  let mine := fun (n : Nat) (e : Nat × Adapter) => e.1 / 2 ^ 16 == n
  if (imgOf s im).carried.contains 9 then s else
  foldS (s.adapters.filter (mine old)) (fun e s =>
    { s with adapters := tins s.adapters (im * 2 ^ 16 + e.1 % 2 ^ 16) e.2 }) s

/-- BF16 values as bytes. -/
def bf16Bytes (xs : List Nat) : List Byte := xs.flatMap (bytesLE 2)

/-- The values of a bias record as bytes. -/
def biasBytes (b : BiasE) : List Byte := b.vals.flatMap (bytesLE (if b.fmt = 7 then 4 else 2))

/-- The rows of an A part of an adapter. -/
def aRows (i : Image) (a : AdpE) (p : APartE) : Nat := blockRows (sliceOf i a.slice) p.rb

/-- The places of an adapter's parts, as copies 0 and 1, number of values, gradient buffer. -/
def adpParts (i : Image) (a : AdpE) : List (Nat × Nat × Nat × Nat) :=
  a.as.map (fun p => (p.loc0, p.loc1, aRows i a p * a.rank, p.grad)) ++
  a.bs.map (fun p => (p.loc0, p.loc1, a.rank * p.n, p.grad))

/-- An adapter: its initial values go into both copies, its gradient buffers to zero, its state to copy 0 and ALPHA
(R210). -/
def placeAdapter (im : Nat) (i : Image) (a : AdpE) (s : State) : State :=
  let r := foldS (adpParts i a) (fun p (x : List Nat × State) =>
    let b := bf16Bytes (x.1.take p.2.2.1)
    (x.1.drop ((p.2.2.1 + 3) / 4 * 4),
     zeroRange p.2.2.2 (p.2.2.2 + 4 * p.2.2.1) (wrBytes p.2.1 b (wrBytes p.1 b x.2)))) (a.init, s)
  let st : Adapter := { alpha0 := a.alpha, alpha1 := a.alpha }
  { r.2 with adapters := tins r.2.adapters (im * 2 ^ 16 + a.index) st }

/-- The glaze rows, biases and adapters of an image, where `carries` tells that they are its own, are written to their places. -/
def placeValues (im : Nat) (carries : Nat → Bool) (i : Image) (s : State) : State :=
  let s := whenS (carries 6) (foldS i.glaze fun g => wrBytes g.loc (bf16Bytes g.vals)) s
  let s := whenS (carries 8) (foldS i.biases fun x => wrBytes x.loc (biasBytes x)) s
  whenS (carries 9) (foldS i.adapters (placeAdapter im i)) s

/-- The staged image of a context becomes active at one point of its command order, on the command of slot `h`: commands accepted
from `order` on run on it (R226, R227).  The values that a delta carries go to their places now, so that no command on the old image
meets them before (R228). DESIGN CHOICE (log entry 38). -/
def activate (k h order : Nat) (s : State) : State :=
  let c := cxOf s k
  match c.staged with
  | none => s
  | some im =>
    let new := imgOf s im
    let same := c.active.any fun o => sameCode (imgOf s o) new
    let s := modCx k (fun c => { c with active := some im, staged := none, acts := (c.acts + 1) % 2 ^ 16, actAt := order,
                                        retiring := c.retiring ++ c.active.toList }) s
    let s := { s with cmds := s.cmds.map fun e =>
      if e.2.ctx == k && decide (order ≤ e.2.order) then (e.1, { e.2 with im := some im }) else e }
    let s := joinJob k (c.active.map fun o => (imgOf s o).peers) new.delta new.peers (setupQps k new.peers s)
    let s := match c.active with
      | some o => passOn k o im new.kvCompat
          (whenS new.delta (fun s => keepAdapters o im (placeValues im new.carried.contains new s)) s)
      | none => s
    let s := if same then
        { s with vctx := s.vctx.map fun e => if c.active == some e.2.im then (e.1, { e.2 with im := im }) else e }
      else startCtxs im s
    let s := if same then { s with entries := tset [] s.entries im (tget [] s.entries (c.active.getD 0)) } else s
    logE (setEntry s 2 1 k h new.id) (startPlans k im s)

/-! ### Progress of a load -/

/-- Every tile-layer and every table of a load is finished. -/
def loadFinished (l : Load) (i : Image) : Bool :=
  l.tables.isEmpty && (imgTls i).all fun tl => tget 0 l.todo tl == 4

/-- The phase of a load that has been validated (R223): WARE while payloads are still to arrive (R415).
DESIGN CHOICE (log entry 38). -/
def loadPhase (l : Load) (i : Image) : Nat :=
  if !l.tables.isEmpty || (imgTls i).any fun tl => tget 0 l.todo tl == 0 then 3
  else if (imgTls i).any fun tl => decide (tget 0 l.todo tl < 3) then 4
  else 5

/-- A load that is complete is STAGED, and activated where the command asked for it (R223, R226). -/
def loadAdvance (k : Nat) (s : State) : State :=
  match loadOf s k with
  | none => s
  | some l =>
    let i := imgOf s l.im
    if l.stop.isSome || l.phase < 3 then s
    else if loadFinished l i then
      let s := modCx k (fun c => { c with load := none, staged := some l.im }) s
      let s := whenS l.activate (activate k l.h s.accepted) s
      complete l.h 0 (l.shared + 2 ^ 16 * l.retained) (l.programmed + 2 ^ 32 * 0xFFFFFFFF) s
    else modLoad k (fun l => { l with phase := loadPhase l i }) s

/-- A tile-layer of a load has reached a state; a progress event of the command (R360). -/
def loadMark (k tl st : Nat) (f : Load → Load) (s : State) : State :=
  match loadOf s k with
  | none => s
  | some l => loadAdvance k (progress l.h (modLoad k (fun l => f { l with todo := tset 0 l.todo tl st }) s))

end Sys2Proof.Machine
end

