-- ==== Sys2Proof/Machine/Cal.lean ====
section
/-! DEFINITION. Conductance programming, calibration and drift (ch. 5). -/

namespace Sys2Proof.Machine

open Sys2Proof

/-! ### Bays (R173 to R175) -/

/-- The temperature of a bay and its rise, in units of 1/64 °C (R173). -/
def bayTemp (s : State) (bay : Nat) : Int := tget 0 s.bayT bay
def bayRise (s : State) (bay : Nat) : Int := tget 0 s.bayRate bay

/-- The VALID tile-layers of a bay. -/
def validTls (s : State) (bay : Nat) : List Nat :=
  ((List.range 1024).map (bay * 1024 + ·)).filter fun tl => rb s .TILE_LCFG 0 tl

/-- Both references lie within their windows (R165). -/
def refOk (s : State) : Bool := rb s .CAL_STAT 0

/-- A soak of a bay is requested (R174): queued, or counted as pending while AUTO_CAL is 0 and the host did not ask. -/
def requestSoak (bay : Nat) (host : Bool) (s : State) : State :=
  let c := calOf s bay
  if !dieOn s (bay / 6) || c.st = 1 || c.st = 2 || c.st = 4 then s
  else if !host && !rb s .CAL_CTRL 0 then modCal bay (fun c => { c with pending := true }) s
  else modCal bay (fun c => { c with st := 1, pending := false, tries := 0 }) { s with soakQ := s.soakQ ++ [bay] }

/-- A bay does not start a soak: its temperature rises faster than cone limit A, it is throttled, or fenced (R175).  A
rate is a rise over 1 ms; CONE_A counts tenths of a degree. -/
def soakDeferred (s : State) (bay : Nat) : Bool :=
  decide ((rf s .THM_CTRL 7 0 : Int) * 32 < 5 * bayRise s bay) || tget 0 s.cone bay != 0
def bayFenced (s : State) (bay : Nat) : Bool := fenced s 8 bay || inReset s 8 bay || !anaOn s (bay / 6)

/-- The bay's partition is in the self-test of its reset, which includes its bisque calibration (R483, step 8). -/
def selfTest (s : State) (bay : Nat) : Bool :=
  (tget {} s.parts (ptOfDie s (bay / 6))).step == 4 && anaOn s (bay / 6) && (unitOf s 8 bay).reasons == 0

/-- Soaks running in a die. -/
def soaksOf (s : State) (d : Nat) : Nat :=
  (s.cal.filter fun e => e.1 / 6 == d && (e.2.st == 2 || e.2.st == 4)).length

/-- The bay is the first of its die's queue that can start (R175). -/
def firstInQueue (s : State) (bay : Nat) : Bool :=
  (s.soakQ.find? fun b => b / 6 == bay / 6 && !soakDeferred s b && !bayFenced s b) == some bay

/-! ### Probes and fits (R166 to R168) -/

/-- A rational rounded to the nearest integer, ties to even. -/
def rneRat (x : ℚ) : Int :=
  let f := x.num / x.den
  let r := x - f
  if r < 1 / 2 then f else if 1 / 2 < r then f + 1 else if f % 2 = 0 then f else f + 1

/-- Key of a sum of probe codes: injection by range and sign, zero by range, groups by group and sign, and the same for
transposed probes; injection and bisque zero probes belong to the tile as a whole (layer 4).  Sums of a measurement that is not
complete stand under `running`. -/
def probeKey (tile layer code : Nat) : Nat := (tile * 8 + layer) * 128 + code
def injCode (range neg : Nat) : Nat := range * 2 + neg
def zeroCode (trans : Bool) (range : Nat) : Nat := (if trans then 40 else 16) + range
def groupCode (trans : Bool) (k neg : Nat) : Nat := (if trans then 48 else 24) + k * 2 + neg
def runKey (tile layer code : Nat) : Nat := probeKey tile layer (64 + code)

/-- The mean code of a column in a kind of probe, where it has been measured. -/
def probeMean (s : State) (key j : Nat) : Option ℚ :=
  let p := tget {} s.probes key
  if p.n = 0 then none else some ((p.sums.getD j 0 : ℚ) / p.n)

/-- The raw gain γ of a column in a range, as last measured: ±192 codes are injected, ±0.75 of nominal full scale (R95, R97,
R167). DESIGN CHOICE (log entry 33). -/
def gammaOf (s : State) (tile range j : Nat) : Option ℚ :=
  match probeMean s (probeKey tile 4 (injCode range 0)) j, probeMean s (probeKey tile 4 (injCode range 1)) j with
  | some a, some b => if a = b then none else some (384 / (a - b))
  | _, _ => none

/-- The raw offset of a column or row in a range. DESIGN CHOICE (log entry 33). -/
def offsetOf (s : State) (tile layer : Nat) (trans : Bool) (range j : Nat) : Option ℚ :=
  probeMean s (probeKey tile layer (zeroCode trans range)) j <|> probeMean s (probeKey tile 4 (zeroCode trans range)) j

/-- The tile-layer whose shadow serves a tile-layer: that of the failed tile while a remap programs the spare (R230). -/
def srcOf (s : State) (tl : Nat) : Nat := ((progOf s tl).map (·.src)).getD tl

/-- The group sums S_kj of a tile-layer: from the probe-sum table in HBM, for transposed probes from the shadow (R169).
DESIGN CHOICE (log entry 33). -/
def sumOf (s : State) (tl : Nat) (trans : Bool) (j k : Nat) : Int :=
  match shadowOf s (srcOf s tl) with
  | some x =>
    if trans then groupSum s x true j k
    else sxt 16 (ofBytesLE (rdBytes s (x.sums + 2 * (8 * j + k)) 2))
  | none => 0

/-- The highest-gain range whose nominal full scale exceeds 1.25 × 4 × max |S_kj| (R167). -/
def probeRange (s : State) (tl : Nat) (trans : Bool) : Nat :=
  let m := ((List.range 8192).map fun i => (sumOf s tl trans (i / 8) (i % 8)).natAbs).foldl max 0
  ((List.range 8).filter fun r => decide (5 * m < 256 * 2 ^ (8 - r))).foldl max 0

/-- The fitted κ of a column (R168), none where the column holds too little weight.  γ is the one last measured in the range r_p
(every range is, in the bisque calibration), 1 where there is none, and 1 for a row, for which R167 states no injection; the choice
for rows drops out of G, in which γ / κ stands. DESIGN CHOICE (log entry 33). -/
def kappaOf (s : State) (tl : Nat) (trans : Bool) (rp j : Nat) : Option ℚ :=
  let tile := tl / 4
  let o := (offsetOf s tile (tl % 4) trans rp j).getD 0
  let g := if trans then 1 else (gammaOf s tile rp j).getD 1
  let ks := (List.range 16).map fun i =>
    let e : ℚ := (if i % 2 = 0 then 4 else -4) * (sumOf s tl trans j (i / 2) : ℚ)
    let c := (probeMean s (probeKey tile (tl % 4) (groupCode trans (i / 2) (i % 2))) j).getD o
    ((c - o) * (2 ^ (8 - rp) : ℚ) * g, e)
  let den := (ks.map fun p => p.2 * p.2).sum
  if den < 1024 then none else some ((ks.map fun p => p.1 * p.2).sum / den)

/-- Insertion in ascending order. -/
def insertRat (x : ℚ) : List ℚ → List ℚ
  | [] => [x]
  | y :: ys => if x ≤ y then x :: y :: ys else y :: insertRat x ys

/-- The median: of an even number of values the mean of the two in the middle; 1 where there is none.
DESIGN CHOICE (log entry 33). -/
def medianRat (xs : List ℚ) : ℚ :=
  let ys := xs.foldr insertRat []
  let n := ys.length
  if n = 0 then 1 else (ys.getD ((n - 1) / 2) 1 + ys.getD (n / 2) 1) / 2

/-- The κ of every column, and the median that stands for the columns without a fit. -/
def kappas (s : State) (tl : Nat) (trans : Bool) : List (Option ℚ) × ℚ :=
  let rp := probeRange s tl trans
  let ks := (List.range 1024).map (kappaOf s tl trans rp)
  (ks, medianRat (ks.filterMap id))

/-- The gain field and offset of R168, and whether one of them was clamped; a fitted κ of 0, for which R168 gives no G, leaves G at its
upper limit and counts as no clamp. DESIGN CHOICE (log entry 33). -/
def fitGO (gamma kappa o : ℚ) : GO × Bool :=
  let g := if kappa = 0 then 49151 else rneRat (32768 * gamma / kappa)
  let oi := rneRat (8 * o)
  ({ g := (max 16384 (min 49151 g)).toNat, o := max (-256) (min 255 oi) },
   decide (g < 16384) || decide (49151 < g) || decide (oi < -256) || decide (255 < oi))

/-- The ranges in use of a tile: those named in RANGE or T_RANGE of its VALID tile-layers (R166). -/
def rangesInUse (s : State) (tile : Nat) : List Nat :=
  (((List.range 4).filter (tlValid s tile)).flatMap fun l => [fld (lcfg s tile l) 10 8, fld (lcfg s tile l) 14 12]).dedup

/-- The TILE_LCFG word under which a tile-layer is measured: that which its operation will give it, or its own. -/
def cfgOf (s : State) (tl : Nat) : Word :=
  match progOf s tl with
  | some o =>
    if o.kind = 1 ∨ o.kind = 3 then rd s .TILE_LCFG o.src
    else match loadOf s o.ctx with
      | some l =>
        let i := imgOf s l.im
        (((i.places.find? fun p => tlKey p.tile p.layer == tl).map (cfgWord i)).getD (rd s .TILE_LCFG tl))
      | none => rd s .TILE_LCFG tl
  | none => rd s .TILE_LCFG tl

/-- The values that a measurement gives a tile-layer in one direction, over the ranges in use (R168).
DESIGN CHOICE (log entry 33). -/
def fitDir (s : State) (tl : Nat) (trans : Bool) (ranges : List Nat) (ks : List (Option ℚ) × ℚ) : List (Nat × GO × Bool) :=
  ranges.flatMap fun r => (List.range 1024).filterMap fun j =>
    match (if trans then some 1 else gammaOf s (tl / 4) r j), offsetOf s (tl / 4) (tl % 4) trans r j with
    | some g, some o => some (goKey trans r j, fitGO g ((ks.1.getD j none).getD ks.2) o)
    | _, _ => none

/-- The values that a measurement gives a tile-layer under a TILE_LCFG word, whether one was clamped, and the median κ in Q1.15.
DESIGN CHOICE (log entry 33). -/
def fitTl (s : State) (tl : Nat) (w : Word) : Tab GO × Bool × Nat :=
  let kf := kappas s tl false
  let rs := (rangesInUse s (tl / 4) ++ [fld w 10 8, fld w 14 12]).dedup
  let vs := fitDir s tl false rs kf ++ (if w.toNat.testBit 4 then fitDir s tl true [fld w 14 12] (kappas s tl true) else [])
  (foldS vs (fun v m => tset {} m v.1 v.2.1) [], vs.any (fun v => v.2.2), (rneRat (32768 * kf.2)).toNat)

/-- The values in force of a tile-layer at the present position of its ramps (R178, R179). -/
def presentCal (x : TLayer) : Tab GO :=
  if 256 ≤ x.rampN && 256 ≤ x.rampT then x.cal else
  foldS (x.cal ++ x.old) (fun e m =>
    tset {} m e.1 (goOf { req := { kind := e.1 / 2 ^ 13 }, range := e.1 / 2 ^ 10 % 8, cal := x.cal, old := x.old,
                          n := if e.1 / 2 ^ 13 = 1 then x.rampT else x.rampN } (e.1 % 2 ^ 10))) []

/-- A refresh of a tile-layer is due (R180). -/
def refreshNow (tl : Nat) : State → State := modTl (tl / 4) (tl % 4) fun x => { x with due := true }

/-- A clamped fit sets CAL_OOR and marks a refresh of a VALID tile-layer, or of one that a closing calibration is making VALID, due
(R168, R188). -/
def calOor (tl : Nat) (s : State) : State :=
  calLog 8 2 tl [] (whenS (tlValid s (tl / 4) (tl % 4) || (progOf s tl).any fun o => o.st == 2) (refreshNow tl)
    (setEv .CAL_STAT 22 0 s))

/-- The median κ of a tile-layer, the temperature coefficient removed, lies more than 5 % from 1 (R105, R180). -/
def kappaFar (s : State) (tl : Nat) : Bool :=
  let k : ℚ := ((tlOf s (tl / 4) (tl % 4)).kappa : ℚ) / 32768
  let c : ℚ := 1 - 12 / 10000 * ((bayTemp s (tl / 1024) : ℚ) / 64 - 70)
  decide (1 / 20 < |k / c - 1|)

/-- Values measured for a tile-layer take effect: ramped, or at once (R171, R178, R179); they show whether a refresh is due (R168,
R180). -/
def applyFit (tl : Nat) (w : Word) (ramp : Bool) (s : State) : State :=
  let f := fitTl s tl w
  let s := modTl (tl / 4) (tl % 4) (fun x =>
    let old := presentCal x
    let new := foldS f.1 (fun e m => tset {} m e.1 e.2) x.cal
    { x with cal := new, old := if ramp then old else [], rampN := if ramp then 0 else 256,
             rampT := if ramp && w.toNat.testBit 4 then 0 else 256, kappa := f.2.2, calAt := utcNow s })
    { s with poisonX := tdrop (fun k => k / 1024 == calWord tl 0 / 1024) s.poisonX }
  whenS f.2.1 (calOor tl) (whenS (kappaFar s tl) (refreshNow tl) s)

/-- A soak of the bay is running. -/
def soaking (s : State) (bay : Nat) : Bool := (calOf s bay).st == 2 || (calOf s bay).st == 4

/-- The probe that a calibration under way asks for next of its kind: where its codes are summed, and how many passes of it are
made (R166, R167, R171).  Kind 0 injection, 1 zero, 2 group, 3 transposed zero, 4 transposed group. -/
def probeFor (s : State) (tile layer kind range k neg : Nat) : Option (Nat × Nat) :=
  let tl := tlKey tile layer
  let w := cfgOf s tl
  let bisque := !rb s .TILE_CFG 8 tile
  let soak := soaking s (bayOfTile tile) && tlValid s tile layer
  let close := (progOf s tl).any fun o => o.st == 2
  let ten := w.toNat.testBit 4
  let group := !bisque && (soak || close) && decide (k < 8) && decide (neg < 2)
  match kind with
  | 0 => if decide (range < 8) && decide (neg < 2) && (bisque || soak && (rangesInUse s tile).contains range) then
      some (runKey tile 4 (injCode range neg), 4) else none
  | 1 => if bisque && decide (range < 8) then some (runKey tile 4 (zeroCode false range), 16)
      else if !bisque && soak && range == fld w 10 8 then some (runKey tile layer (zeroCode false range), 16) else none
  | 2 => if group && range == probeRange s tl false then some (runKey tile layer (groupCode false k neg), 2) else none
  | 3 => if !bisque && (soak || close) && ten && range == fld w 14 12 then some (runKey tile layer (zeroCode true range), 16) else none
  | 4 => if group && ten && range == probeRange s tl true then some (runKey tile layer (groupCode true k neg), 2) else none
  | _ => none

/-- Eighths of the product that a probe applies to column or row `j`: ±0.75 of nominal full scale injected, none, or ±4 drive
counts on group `k` (R167). -/
def probeProduct8 (s : State) (tl kind range k neg j : Nat) : Int :=
  let sign : Int := if neg = 0 then 1 else -1
  if kind = 0 then sign * 8 * 192 * 2 ^ (8 - range)
  else if kind = 1 ∨ kind = 3 then 0
  else dot8 s tl ((cfgOf s tl).toNat.testBit 1) (kind == 4) ((List.range 1024).map fun i => if i / 128 = k then 4 * sign else 0) j

/-- The codes of a probe pass are added to the sums of its kind. -/
def addProbe (codes : List Int) (q : ProbeSum) : ProbeSum :=
  { n := q.n + 1, sums := codes.mapIdx fun j c => q.sums.getD j 0 + c }

/-- Silset loads the timing trim of a tile from fuses before its bisque calibration, and sets LOCK (R115). -/
def loadTrim (tile : Nat) (s : State) : State :=
  whenS (!rb s .TILE_CFG 31 tile) (fun s => setEv .TILE_CFG 31 tile (resetReg .TILE_TRIM tile s)) s

/-- PROBE_PASS (R167): a probe of the kind that a calibration asks for, in its layer (R87), with its 1,024 conversions; the pass
takes a token and returns it.  While service passes wait, one probe is admitted for every eight passes (R176).  A bisque measurement
waits for the references (R188); one under way otherwise goes on without them (R165).  A clamped conversion of a probe is not recorded
under R100. DESIGN CHOICE (log entries 32, 87). -/
def execProbePass (tile layer kind range k neg : Nat) (convs : List Conv) (s : State) : Out :=
  done <|
    let x := tileOf s tile
    match probeFor s tile layer kind range k neg with
    | none => s
    | some (key, n) =>
      if n ≤ (tget {} s.probes key).n || convs.length != 1024 || !convs.all convOk || (!rb s .TILE_CFG 8 tile && !refOk s) ||
          ((fenced s 0 tile || inReset s 0 tile) && !selfTest s (bayOfTile tile)) || !anaOn s (tile / 1536) ||
          halted s (bayOfTile tile) || x.running.isSome || x.last.isSome || x.token || !x.settled ||
          (x.pending.isSome && decide (x.sinceProbe < 8)) || !tokenFor s tile then s
      else
        let s := whenS (!rb s .TILE_CFG 8 tile) (loadTrim tile) s
        let s := modTile tile (fun x => { x with active := layer, sinceProbe := 0 }) s
        let codes := convs.mapIdx fun j c => clampCode (convert (probeProduct8 s (tlKey tile layer) kind range k neg j) range c)
        { s with probes := tmod {} s.probes key (addProbe codes) }

/-- The probes of a kind of the measurement under way have been made. -/
def probed (s : State) (tile layer code n : Nat) : Bool := (tget {} s.probes (runKey tile layer code)).n == n

/-- The sums of a measurement that is not complete are dropped, by tile × 8 + layer. -/
def clearProbes (p : Nat → Bool) (s : State) : State :=
  { s with probes := tdrop (fun k => decide (64 ≤ k % 128) && p (k / 128)) s.probes }

/-- A measurement is complete: its sums take the place of the last one's, by tile × 8 + layer. -/
def commitProbes (p : Nat → Bool) (s : State) : State :=
  let mine := s.probes.filter fun e => decide (64 ≤ e.1 % 128) && p (e.1 / 128)
  { s with probes := foldS mine (fun e m => tset {} (tdel m e.1) (e.1 - 64) e.2) s.probes }

/-- The injection probes of a tile are complete for some ranges: four passes of each sign (R167). -/
def injDone (s : State) (tile : Nat) (ranges : List Nat) : Bool :=
  ranges.all fun r => probed s tile 4 (injCode r 0) 4 && probed s tile 4 (injCode r 1) 4

/-- The group probes of a tile-layer are complete: 32 passes, and the 48 transposed ones where it has T_EN (R167). -/
def groupsDone (s : State) (tl : Nat) (w : Word) : Bool :=
  let full := fun trans => (List.range 16).all fun i => probed s (tl / 4) (tl % 4) (groupCode trans (i / 2) (i % 2)) 2
  full false && (!w.toNat.testBit 4 || full true && probed s (tl / 4) (tl % 4) (zeroCode true (fld w 14 12)) 16)

/-- The shadow and the probe-sum table of a tile-layer can be read for a measurement: the table, and the codes where it has
transposed passes (R188). -/
def measurable (s : State) (tl : Nat) (w : Word) : Bool :=
  match shadowOf s (srcOf s tl) with
  | some x => x.state != 2 && !anyPoison s x.sums 0x4010 && (!w.toNat.testBit 4 || !anyPoison s x.addr 0x80000)
  | none => false

/-! ### Program operations -/

/-- Program operations under way in a die. -/
def progsIn (s : State) (d : Nat) : Nat := (s.progs.filter fun e => e.1 / 6144 == d && e.2.st != 0).length

/-- A program operation fails or is halted: a refresh becomes due again, a load stops, a remap is given up (R184, R188). -/
def haltProg (tl : Nat) (o : ProgOp) (s : State) : State :=
  let s := dropProg tl s
  if o.kind = 1 then modTl (tl / 4) (tl % 4) (fun x => { x with due := true }) s
  else if o.kind = 3 then { s with remaps := s.remaps.filter fun r => r.spare != tl / 4 }
  else failLoad o.ctx 0x18 (tl + 1) s

/-- A row step meets a fence on its tile: its operation ends, a load with FENCED (R90, R184, R229). DESIGN CHOICE (log entry 35). -/
def fenceProg (tl : Nat) (o : ProgOp) (s : State) : State :=
  if o.kind = 0 ∨ o.kind = 2 then stopLoad o.ctx stFenced (tl + 1) s else haltProg tl o s

/-- The row-step request of an operation goes to its tile, in arrival order with the passes (R155); it carries the number of
the operation.  A fenced tile answers it with FENCED (R90). -/
def askRowStep (tl : Nat) (o : ProgOp) (s : State) : State :=
  let t := tl / 4
  let req : PassReq := { kind := 2, layer := tl % 4, row := o.row, vec := o.order }
  let x := tileOf s t
  if fenced s 0 t || inReset s 0 t then fenceProg tl o (refuseReq t req 7 4 1 stFenced s)
  else if x.pending.isNone && x.held.isEmpty then setPending t req s
  else modTile t (fun x => { x with held := x.held ++ [req] }) s

/-- As many refreshes of the bay run as REFRESH_CONC allows (R181). -/
def refreshFull (s : State) (bay : Nat) : Bool :=
  decide (rf s .CAL_SCHED 25 20 ≤ (s.progs.filter fun e => e.1 / 1024 == bay && e.2.kind == 1 && e.2.st != 0).length)

/-- No operation accepted earlier in the die waits for its start on a free tile, but for refreshes that wait for others of their bay. -/
def firstWaiting (s : State) (tl order : Nat) : Bool :=
  !s.progs.any fun e => e.1 / 6144 == tl / 6144 && e.2.st == 0 && decide (e.2.order < order) &&
    !(e.2.kind == 1 && refreshFull s (e.1 / 1024)) && !s.progs.any fun f => f.1 / 4 == e.1 / 4 && f.2.st != 0

/-- The start page that names a tile-layer is durable; a read-back needs none. DESIGN CHOICE (log entry 85). -/
def pageReady (s : State) (tl kind : Nat) : Bool := kind == 2 || s.sil.pageDone.contains tl

/-- PROGRAM_OPERATION_START (R160, R181, R185, R186, R533). -/
def execProgramOperationStart (tile layer : Nat) (s : State) : Out :=
  done <|
    let tl := tlKey tile layer
    match progOf s tl with
    | none => s
    | some o =>
      if o.st != 0 || !firstWaiting s tl o.order || s.progs.any (fun e => e.1 / 4 == tile && e.2.st != 0) ||
          decide (rf s .CAL_PROG 8 0 ≤ progsIn s (tile / 1536)) || (o.kind == 1 && refreshFull s (bayOfTile tile)) || !pageReady s tl o.kind || !refOk s ||
          fenced s 0 tile || inReset s 0 tile || !anaOn s (tile / 1536) || opStopped s o then s
      else
        let s := { s with sil.pageDone := s.sil.pageDone.erase tl }
        let o := { o with st := 1 }
        askRowStep tl o (setProg tl o s)

/-- The target of a level in counts at the present junction temperature of a bay, and the count of a measured conductance in µS
(R157). -/
def targetOf (s : State) (bay : Nat) (fp4 : Bool) (l : Nat) : ℚ :=
  (levelCount8 fp4 l : ℚ) / 8 * (1 - 12 / 10000 * ((bayTemp s bay : ℚ) / 64 - 70))
def countOf (g : ℚ) : ℚ := g - 2

/-- The trim level whose count is nearest to a weight-side residual in counts, level 0 up to +0.0625; the lower one of two at
equal distance (R156). DESIGN CHOICE (log entry 35). -/
def trimLevel (e : ℚ) : Nat :=
  if e ≤ 1 / 16 then 0 else if e ≤ 3 / 16 then 12 else if e ≤ 5 / 16 then 13 else if e ≤ 7 / 16 then 14 else 15

/-- A code's level, and whether the negative cell of its pair carries it: the positive one carries level 0 (R80, R82).
DESIGN CHOICE (log entry 35). -/
def weightSide (fp4 : Bool) (c : Nat) : Nat × Bool :=
  let l := codeLevel fp4 c
  (l, codeNeg c && l != 0)

/-- The cells of a row take their levels: the weight on its side, on the other the trim that the weight side's residual calls
for; `gs` holds the conductances of the row's cells once the weight side is in its window (R156). -/
def putRow (tl row : Nat) (x : Shadow) (gs : List ℚ) (s : State) : State :=
  { s with cells := foldS (List.range 1024) (fun j m =>
      let (l, neg) := weightSide x.fp4 (shadowCode s x row j)
      let e := countOf (gs.getD (2 * j + b2n neg) 0) - targetOf s (tl / 1024) x.fp4 l
      tset 0 (tset 0 m (cellKey tl row (2 * j + b2n neg)) l) (cellKey tl row (2 * j + 1 - b2n neg)) (trimLevel e)) s.cells }

/-- The cells of a row that lie outside a window around their targets, in counts (R157, R158). -/
def rowOutside (s : State) (tl row : Nat) (fp4 : Bool) (gs : List ℚ) (w : ℚ) : List Nat :=
  (List.range 2048).filter fun c => decide (w < |countOf (gs.getD c 0) - targetOf s (tl / 1024) fp4 (cellOf s tl row c)|)

/-- A row step of an operation starts with a token (R155). -/
def startRow (tl : Nat) (o : ProgOp) (f : State → State) (s : State) : State :=
  let t := tl / 4
  let s := takeToken t s
  if (tileOf s t).token then
    let run : PassRun := { req := { kind := 2, layer := tl % 4, row := o.row, vec := o.order } }
    let s := modTile t (fun x => { x with pending := none, running := some run }) s
    admitHeld t (tileOf s t).held (f s)
  else s

/-- The row step of a program operation: VPROG (in mV) is compared with its window, the shadow is read, and the cells of the row
are written; a repeat covers the failing cells only and leaves the levels (R156, R158, R161, R188).  Refreshes and remaps do not
go on from a shadow that is not VALID (R295). -/
def programRow (tl vprog : Nat) (o : ProgOp) (gs : List ℚ) (s : State) : State :=
  if vprog < 2375 || 2625 < vprog then haltProg tl o (calLog 4 3 tl [vprog] (setEv .CAL_STAT 17 0 s))
  else match shadowOf s o.src with
    | none => s
    | some x =>
      if anyPoison s (x.addr + o.row * 512) 512 then haltProg tl o (calLog 11 3 tl [] (setEv .CAL_STAT 18 0 s))
      else if o.kind != 0 && x.state != 0 then haltProg tl o s
      else startRow tl o (if o.failing.isEmpty then putRow tl o.row x gs else id) s

/-- PROGRAM_ROW_STEP (R155, R156, R161, R224): a row step of a program operation, or of a read-back, which writes no cell; none of
a load that is to stop (R229). DESIGN CHOICE (log entry 35). -/
def execProgramRowStep (tile layer vprog : Nat) (gs : List ℚ) (s : State) : Out :=
  done <|
    let tl := tlKey tile layer
    match progOf s tl with
    | none => s
    | some o =>
      if o.st != 1 || gs.length != 2048 || opStopped s o || !rowStartable s tile layer then s
      else if o.kind = 2 then startRow tl o id s
      else programRow tl vprog o gs s

/-- An operation that failed R158 twice makes its tile-layer DEFECTIVE (R186); no reset forgets a failure.
DESIGN CHOICE (log entry 85). -/
def progFail (tl : Nat) (o : ProgOp) (s : State) : State :=
  let s := { s with sil.fails := tmod 0 s.sil.fails tl (· + 1) }
  let s := calLog 5 3 tl [] (setEv .CAL_STAT 18 0 s)
  let s := whenS (decide (2 ≤ tget 0 s.sil.fails tl)) (setWear tl { wearOf s tl with state := 4 }) s
  haltProg tl o s

/-- The next row of an operation is asked for. -/
def nextRow (tl : Nat) (o : ProgOp) (s : State) : State :=
  let o := { o with row := o.row + 1, failing := [] }
  whenS (decide (o.row < 1024)) (askRowStep tl o) (setProg tl o s)

/-- What the conductances measured at the end of a row step lead to: one repeat, a failure, the next row, or the closing
calibration; a read-back keeps them (R158, R224). -/
def rowEnded (tl : Nat) (o : ProgOp) (gs : List ℚ) (s : State) : State :=
  if o.kind = 2 then nextRow tl { o with reads := gs :: o.reads } s
  else
    let fp4 := ((shadowOf s o.src).getD {}).fp4
    let out := rowOutside s tl o.row fp4 gs (15 / 100)
    if o.failing.isEmpty && !out.isEmpty then
      let o := { o with failing := out }
      askRowStep tl o (setProg tl o s)
    else if !(rowOutside s tl o.row fp4 gs (1 / 5)).isEmpty then progFail tl o s
    else if o.row = 1023 then
      let s := setProg tl { o with st := 2, failing := [] } (clearProbes (· == tl / 4 * 8 + tl % 4) s)
      whenS (o.kind == 0) (loadMark o.ctx tl 3 id) s
    else nextRow tl o s

/-- PROGRAM_ROW_STEP_END (R158, R184, R229): the conductances of the row's 2,048 cells, in µS, as the last verify reads gave them.
The end of a row step whose operation has been replaced does nothing to the new one (R184). DESIGN CHOICE (log entry 85). -/
def execProgramRowStepEnd (tile layer : Nat) (gs : List ℚ) (s : State) : Out :=
  done <|
    let tl := tlKey tile layer
    match (tileOf s tile).running with
    | none => s
    | some r =>
      if r.req.kind != 2 || r.req.layer != layer || gs.length != 2048 then s else
      let s := returnToken tile (modTile tile (fun x => { x with running := none }) s)
      match progOf s tl with
      | none => s
      | some o =>
        if r.req.vec != o.order || o.st != 1 then s
        else if opStopped s o then stoppedLoad o.ctx s
        else if o.stop then haltProg tl o s
        else rowEnded tl o gs s

/-! ### Read-back (R224) -/

/-- A retained tile-layer goes to its closing calibration, with its rebuilt codes in the shadow. -/
def keepTl (tl : Nat) (o : ProgOp) (i : Image) (p : PlaceE) (codes : List Byte) (s : State) : State :=
  let r := recOf i p
  let s := putShadow tl o.ctx (placeFp4 i p) r.rows r.cols r.digest codes s
  let s := clearProbes (· == tl / 4 * 8 + tl % 4) (setProg tl { o with st := 2, reads := [] } s)
  loadMark o.ctx tl 3 (fun l => { l with retained := l.retained + 1 }) s

/-- The weight counts that codes represent (R81). -/
def countCodes (fp4 : Bool) : List (Nat × Int) :=
  ((List.range 16).filter fun c => !(fp4 && c == 8)).map fun c => (c, codeCount fp4 c)

/-- The code whose count is nearest to a pair count, with its count. -/
def nearestCode (fp4 : Bool) (x : ℚ) : Nat × Int :=
  (countCodes fp4).foldl (fun b e => if |x - e.2| < |x - b.2| then e else b) (0, 0)

/-- The pair count of row `r`, column `j` of a read-back under the common scale fitted to it (R224). -/
def pairCount (o : ProgOp) (scale : ℚ) (r j : Nat) : ℚ :=
  let row := o.reads.getD (1023 - r) []
  (countOf (row.getD (2 * j) 0) - countOf (row.getD (2 * j + 1) 0)) / scale

/-- Every pair lies within 0.35 count of the nearest representable count. -/
def pairsNear (fp4 : Bool) (o : ProgOp) (scale : ℚ) : Bool :=
  (List.range 1024).all fun r => (List.range 1024).all fun j =>
    let x := pairCount o scale r j
    decide (|x - (nearestCode fp4 x).2| ≤ 35 / 100)

/-- The canonical array that a read-back rebuilds. -/
def rebuiltCodes (fp4 : Bool) (o : ProgOp) (scale : ℚ) : List Byte :=
  canonArray fun r j => (nearestCode fp4 (pairCount o scale r j)).1

/-- A read-back that fails: the tile-layer is programmed, and its payload asked for; where it is RETIRED the load stops (R224). -/
def readBackFailed (tl : Nat) (o : ProgOp) (l : Load) (i : Image) (p : PlaceE) (s : State) : State :=
  let s := dropProg tl (calLog 5 3 tl [] s)
  if (wearOf s tl).state = 3 then failLoad o.ctx 0x18 (tl + 1) (setEv .CAL_STAT 18 0 s)
  else askPayload o.ctx l.h l i p.record (loadMark o.ctx tl 0 id s)

/-- READ_BACK_DONE (R224): all rows have been read and one common scale fitted to the pair counts; the tile-layer is retained, or
is programmed. DESIGN CHOICE (log entry 100). -/
def execReadBackDone (tile layer : Nat) (scale : ℚ) (s : State) : Out :=
  done <|
    let tl := tlKey tile layer
    match progOf s tl with
    | none => s
    | some o =>
      if o.kind != 2 || o.st != 1 || o.reads.length != 1024 || scale ≤ 0 || opStopped s o then s else
      match loadOf s o.ctx with
      | none => s
      | some l =>
        let i := imgOf s l.im
        match i.places.find? fun p => tlKey p.tile p.layer == tl with
        | none => s
        | some p =>
          let r := recOf i p
          let fp4 := placeFp4 i p
          let codes := rebuiltCodes fp4 o scale
          if pairsNear fp4 o scale && canonDigest fp4 r.rows r.cols codes == r.digest then keepTl tl o i p codes s
          else readBackFailed tl o l i p s

/-! ### Closing calibration (R171, R183) -/

/-- Check samples of a finding on a tile-layer are armed: four of its column group (R510). -/
def armCheck (tl : Nat) (f : Finding) (s : State) : State :=
  let x : Sample := { tl := tl, group := f.group, armedAt := s.now, forced := true }
  { s with samples := tmod [] s.samples (tl / 1024) (fun l => List.replicate 4 x ++ l) }

/-- Findings that wait for a step on tile-layers of which `p` holds go on to the check of that step (R510). -/
def findingsAfter (step : Nat) (p : Nat → Bool) (s : State) : State :=
  let mine := fun (f : Finding) => !f.chain && f.step == step && p f.unit
  let s' := foldS (s.findings.filter mine) (fun f => armCheck f.unit f) s
  { s' with findings := s.findings.map fun f => if mine f then { f with step := step + 1, left := 4, bad := false } else f }

/-- A completed programming is entered in the wear record (R185). DESIGN CHOICE (log entry 35). -/
def wearDone (tl digest : Nat) (s : State) : State :=
  setWear tl { wearOf s tl with state := if (wearOf s tl).state = 3 then 3 else 1, utc := utcNow s, digest := digest } s

/-- The end of a programming: no refresh is due but for what its closing calibration shows (R183). -/
def programmedNow (tl : Nat) (s : State) : State :=
  modTl (tl / 4) (tl % 4) (fun x => { x with due := false }) s

/-- The values of a closing calibration take effect, and its operation ends: those of a tile-layer that was in no pass at once,
those of a refreshed one are ramped in (R171, R183). -/
def closeTl (tl : Nat) (o : ProgOp) (w : Word) (s : State) : State :=
  if o.kind = 1 then
    let s := wearDone tl (wearOf s tl).digest (endProg tl (applyFit tl w true (programmedNow tl s)))
    findingsAfter 2 (· == tl) (calLog 10 0 tl [] s)
  else if o.kind = 3 then wearDone tl (wearOf s o.src).digest (endProg tl (applyFit tl w false (programmedNow tl s)))
  else match loadOf s o.ctx with
    | none => s
    | some l =>
      let i := imgOf s l.im
      match i.places.find? fun p => tlKey p.tile p.layer == tl with
      | none => s
      | some p =>
        let s := endProg tl (applyFit tl w false (setValid i p l.h (whenS (o.kind == 0) (programmedNow tl) s)))
        let s := whenS (o.kind == 0) (wearDone tl (recOf i p).digest) s
        loadMark o.ctx tl 4 (fun l => if o.kind = 0 then { l with programmed := l.programmed + 1 } else l) s

/-- CLOSING_CALIBRATION_DONE (R171, R183): the group probes of a tile-layer are complete.  A probe-sum table or shadow that cannot
be read halts the operation (R188). -/
def execClosingCalibrationDone (tile layer : Nat) (s : State) : Out :=
  done <|
    let tl := tlKey tile layer
    match progOf s tl with
    | none => s
    | some o =>
      let w := cfgOf s tl
      if o.st != 2 || fenced s 0 tile then s
      else if !measurable s tl w then haltProg tl o (calLog 11 3 tl [] (setEv .CAL_STAT 18 0 s))
      else if !groupsDone s tl w then s
      else closeTl tl o w (commitProbes (· == tile * 8 + layer) s)

/-! ### Bisque calibration and the reference chain (R163, R165, R171) -/

/-- The injection and zero probes of a tile are complete for all eight ranges. -/
def bisqueDone (s : State) (tile : Nat) : Bool :=
  injDone s tile (List.range 8) && (List.range 8).all fun r => probed s tile 4 (zeroCode false r) 16

/-- BISQUE_DONE: every enabled tile has CAL_VALID = 1. -/
def bisqueAll (s : State) : Bool :=
  (List.range 12288).all fun t => !dieOn s (t / 1536) || rb s .TILE_CFG 8 t

/-- A tile whose bisque measurement completed becomes CAL_VALID, with its electrical values in force (R171); a clamp sets CAL_OOR
(R168). -/
def bisqueTile (tile : Nat) (s : State) : State :=
  let s := commitProbes (· == tile * 8 + 4) (wrf .TILE_CFG 8 8 1 tile (loadTrim tile s))
  let vs := (List.range 8).flatMap fun r => (List.range 1024).filterMap fun j =>
    match gammaOf s tile r j, offsetOf s tile 4 false r j with
    | some g, some o => some (goKey false r j, fitGO g 1 o)
    | _, _ => none
  let s := foldS (List.range 4) (fun l => modTl tile l fun x =>
    { x with cal := foldS vs (fun v m => tset {} m v.1 v.2.1) x.cal, old := [], rampN := 256, rampT := 256 }) s
  whenS (vs.any fun v => v.2.2) (calOor (tlKey tile 0)) s

/-- BISQUE_DONE follows CAL_VALID of the enabled tiles (R172). -/
def showBisque (s : State) : State := wrf .CAL_STAT 1 1 (b2n (bisqueAll s)) 0 s

/-- BISQUE_CALIBRATION (R163, R171): with both references in their windows, the bay's source has been traced to its die's mirror
(`ppm`), and the tiles of the bay whose measurement completed become CAL_VALID. -/
def execBisqueCalibration (bay : Nat) (ppm : Int) (s : State) : Out :=
  done <|
    if !refOk s || (bayFenced s bay && !selfTest s bay) then s else
    let ts := ((List.range 256).map (bay * 256 + ·)).filter fun t => !rb s .TILE_CFG 8 t && bisqueDone s t
    if ts.isEmpty then s else
    let s := foldS ts bisqueTile s
    showBisque (modCal bay (fun c => { c with tcal := bayTemp s bay, mirrorAt := tget 0 s.mirrors (bay / 6), source := ppm }) s)

/-- REFERENCE_TRACE (R163, R165, R174): REFV in µV and REFR in mΩ as measured (an open or short reads outside), and the
mirror of each die in parts per million.  Without a usable result of channel 0 soaks and program operations are held (R602,
R606). DESIGN CHOICE (log entry 74). -/
def execReferenceTrace (refv refr : Nat) (ppm : List Int) (s : State) : Out :=
  done <|
    let usable := rb s .CLK_GATE 2 && rb s .MADC_DATA 18 && !rb s .MADC_DATA 14 && !rb s .MADC_DATA 15
    if !usable then wrf .CAL_STAT 0 0 0 0 s else
    let ok := decide (1225000 ≤ refv) && decide (refv ≤ 1275000) && decide (9800000 ≤ refr) && decide (refr ≤ 10200000)
    let s := if refOk s && !ok then setEv .CAL_STAT 16 0 s else s
    let s := if !ok && (refOk s || !rb s .CAL_STAT 16) then
        logE { cls := 4, code := 3, sev := 3, data := [refv, refr] } (setEv .CAL_STAT 16 0 s) else s
    let s := wrf .CAL_STAT 0 0 (b2n ok) 0 s
    let s := { s with mirrors := foldS (List.range 8) (fun d m => tset 0 m d (ppm.getD d 0)) s.mirrors }
    foldS (List.range 48) (fun bay s =>
      let moved := tget 0 s.mirrors (bay / 6) - (calOf s bay).mirrorAt
      whenS (decide (200 < moved.natAbs)) (requestSoak bay false) s) s

/-! ### Triggers and soaks (R174 to R181) -/

/-- The drift trigger of a tile-layer: log10(t / t_cal) ≥ DRIFT_TRIG in hundredths, by Silset's UTC, with t at least 1 s (R105,
R174, R187). -/
def driftHit (s : State) (tl : Nat) : Bool :=
  let p := (wearOf s tl).utc
  let t := max 1 (utcNow s - p)
  let tc := max 1 ((tlOf s (tl / 4) (tl % 4)).calAt - p)
  decide (10 ^ rf s .CAL_CTRL 22 16 * tc ^ 100 ≤ t ^ 100)

/-- The refresh age of a tile-layer has been reached (R180). -/
def ageHit (s : State) (tl : Nat) : Bool := decide (rf s .CAL_PROG 25 16 * 86400 ≤ utcNow s - (wearOf s tl).utc)

/-- The least spacing of drift-triggered soaks has passed. DESIGN CHOICE (log entry 34). -/
def driftSpaced (s : State) (bay : Nat) : Bool :=
  match (calOf s bay).lastDrift with
  | some t => decide (rf s .CAL_SCHED 15 0 * 1000000000 ≤ s.now - t)
  | none => true

/-- A refresh of a bay is due, and the bay's soak is requested for it; without AUTO_REFRESH it waits (R174, R181). -/
def refreshDue (s : State) (bay : Nat) : Bool :=
  (validTls s bay).any fun tl => (tlOf s (tl / 4) (tl % 4)).due

/-- The drift and refresh triggers of one bay. -/
def checkBay (bay : Nat) (s : State) : State :=
  let tls := validTls s bay
  let s := foldS (tls.filter (ageHit s)) (fun tl => modTl (tl / 4) (tl % 4) fun x => { x with due := true }) s
  let s := if tls.any (driftHit s) && driftSpaced s bay then
      requestSoak bay false (modCal bay (fun c => { c with lastDrift := some s.now }) s) else s
  whenS (refreshDue s bay && rb s .CAL_CTRL 1) (requestSoak bay false) s

/-- DRIFT_TRIGGER_CHECK (R174, R180): once a second, for every bay. DESIGN CHOICE (log entry 34). -/
def execDriftTriggerCheck (s : State) : Out :=
  done (foldS ((List.range 48).filter fun b => digOn s (b / 6)) checkBay s)

/-- A refresh of a tile-layer is requested of the sequencer, or refused (R181, R186); while its shadow is not VALID it stays due
(R295). -/
def startRefresh (tl : Nat) (s : State) : State :=
  if shadowBad s tl then modTl (tl / 4) (tl % 4) (fun x => { x with due := true }) s else
  let s := modTl (tl / 4) (tl % 4) (fun x => { x with due := false }) s
  if (progOf s tl).isSome then s
  else if wornOut s tl then refuseProg tl s
  else requestProg tl { kind := 1, ctx := ((shadowOf s tl).getD {}).ctx, src := tl } s

/-- A finding waits for the refresh of a tile-layer (R510). -/
def findingWants (s : State) (tl : Nat) : Bool := s.findings.any fun f => !f.chain && f.step == 2 && f.unit == tl && !wornOut s tl

/-- The refreshes that a soak of the bay takes up: all due ones whose shadow is VALID, where the host or AUTO_REFRESH wants them, and
those for which a finding waits (R181, R510).  REFRESH_CONC limits how many of them run at once. -/
def refreshList (s : State) (bay : Nat) : List Nat :=
  let all := rb s .CAL_CTRL 1 || (calOf s bay).wantRefresh
  (validTls s bay).filter fun tl => !shadowBad s tl && ((all && (tlOf s (tl / 4) (tl % 4)).due) || findingWants s tl)

/-- A soak's measurement under way is dropped: what it had of the calibrated tiles of the bay, but for tile-layers that have an
operation of their own. -/
def clearSoak (bay : Nat) (s : State) : State :=
  clearProbes (fun x => let t := x / 8
    bayOfTile t == bay && rb s .TILE_CFG 8 t && (x % 8 == 4 || (progOf s (tlKey t (x % 8))).isNone)) s

/-- SOAK_START (R175, R181): the soak begins with the trace of the bay's source to its die's mirror (`ppm`, R163); one of a halted bay
waits, and so does one that Silset cannot schedule (R626, R629). -/
def execSoakStart (bay : Nat) (ppm : Int) (s : State) : Out :=
  done <|
    let c := calOf s bay
    if c.st != 1 || !firstInQueue s bay || decide (rf s .CAL_SCHED 17 16 ≤ soaksOf s (bay / 6)) || !refOk s || halted s bay || !silUp s then s
    else
      let rl := refreshList s bay
      let s := { s with soakQ := s.soakQ.erase bay }
      let s := modCal bay (fun c => { c with st := if rl.isEmpty then 2 else 4, startT := bayTemp s bay, source := ppm }) s
      foldS rl startRefresh (clearSoak bay s)

/-- A refresh of the bay is still under way. -/
def refreshing (s : State) (bay : Nat) : Bool := s.progs.any fun e => e.1 / 1024 == bay && e.2.kind == 1

/-- A CALIBRATE command learns that a bay has accepted a measurement, or has failed (R177). -/
def calibrateBay (bay : Nat) (ok : Bool) (s : State) : State :=
  foldS (s.cmds.filter fun e => e.2.op == 5 && e.2.run && e.2.left.testBit bay) (fun e s =>
    match cmdOf s e.1 with
    | none => s
    | some c =>
      let left := setBits c.left bay bay 0
      let c := { c with left := left, info := c.info + b2n ok, value := c.value + (if ok then 0 else 2 ^ bay) }
      if left = 0 then complete e.1 0 c.info c.value s else setCmd e.1 c s) s

/-- The tile-layers that a soak of a bay measures: the VALID ones without an operation of their own, on tiles that can be measured
(R166, R176). -/
def soakTls (s : State) (bay : Nat) : List Nat :=
  (validTls s bay).filter fun tl => (progOf s tl).isNone && rb s .TILE_CFG 8 (tl / 4) && !fenced s 0 (tl / 4)

/-- The measurement of a soak is complete: injections of the ranges in use, zero and group probes (R166, R167). -/
def soakDone (s : State) (bay : Nat) : Bool :=
  (soakTls s bay).all fun tl =>
    let w := rd s .TILE_LCFG tl
    !measurable s tl w || (injDone s (tl / 4) (rangesInUse s (tl / 4)) &&
      probed s (tl / 4) (tl % 4) (zeroCode false (fld w 10 8)) 16 && groupsDone s tl w)

/-- A tile-layer takes the values of an accepted soak; one whose table or shadow cannot be read keeps its old values (R178,
R188). -/
def soakTl (tl : Nat) (s : State) : State :=
  let w := rd s .TILE_LCFG tl
  if !measurable s tl w then calLog 11 3 tl [] (setEv .CAL_STAT 22 0 s)
  else
    applyFit tl w true (commitProbes (· == tl / 4 * 8 + tl % 4) s)

/-- A soak is accepted (R176, R178): new values ramp in on every tile-layer measured; a bay with a tile-layer that could not be read has
failed for the command that named it (R177, R188).  A finding that came to want a refresh meanwhile asks for the next soak.
DESIGN CHOICE (log entry 34). -/
def acceptSoak (bay : Nat) (unstable : Bool) (s : State) : State :=
  let c := calOf s bay
  let tls := soakTls s bay
  let s := commitProbes (fun x => x % 8 == 4 && tls.any fun tl => tl / 4 == x / 8) s
  let s := clearSoak bay (foldS tls soakTl s)
  let ok := tls.all fun tl => measurable s tl (rd s .TILE_LCFG tl)
  let c' := { c with st := 3, tcal := (c.startT + bayTemp s bay) / 2, tries := 0, pending := false, wantRefresh := false }
  let s := modCal bay (fun _ => { c' with lastSoak := some s.now, mirrorAt := tget 0 s.mirrors (bay / 6) }) s
  let s := wrf .CAL_BAY_CNT 15 0 (rf s .CAL_BAY_CNT 15 0 bay + 1) bay s
  let e : LogEntry := { cls := 4, code := if unstable then 2 else 1, sev := if unstable then 2 else 0, kind := 8,
                        index := bay, data := [toTwos 16 c.startT, toTwos 16 (bayTemp s bay)] }
  let s := logE e (whenS unstable (setEv .CAL_STAT 19 0) s)
  let s := findingsAfter 0 (fun tl => tl / 1024 == bay) (calibrateBay bay ok s)
  whenS (s.findings.any fun f => f.unit / 1024 == bay && findingWants s f.unit && !shadowBad s f.unit) (requestSoak bay true) s

/-- SOAK_END (R176): the temperatures at both ends lie within 1.0 °C, or the results are discarded and the soak repeats; those
of the third attempt are accepted. DESIGN CHOICE (log entry 34). -/
def execSoakEnd (bay : Nat) (s : State) : Out :=
  done <|
    let c := calOf s bay
    if !soaking s bay || refreshing s bay || bayFenced s bay || !soakDone s bay then s
    else if decide ((bayTemp s bay - c.startT).natAbs ≤ 64) then acceptSoak bay false s
    else
      let s := wrf .CAL_BAY_CNT 31 16 (rf s .CAL_BAY_CNT 31 16 bay + 1) bay s
      if 2 ≤ c.tries then acceptSoak bay true s
      else clearSoak bay (modCal bay (fun c => { c with tries := c.tries + 1, startT := bayTemp s bay, st := 2 }) s)

/-! ### UTC and the wear view (R187, R195, R197) -/

/-- UTC_FLASH_WRITE (R187): Silset writes its UTC to flash, with the state store (R531). -/
def execUtcFlashWrite (s : State) : Out := done (whenS (silUp s) (askFlash .stateStore) s)

end Sys2Proof.Machine
end

