-- ==== Sys2Proof/Machine/ImgCheck.lean ====
section
/-! DEFINITION. Validation of a setting image and of its ware (R211, R214, R216, R217, R219, R220, R268, R269, R338, R409,
R504): each check answers the code, the section and the entry of its first failure. -/

namespace Sys2Proof.Machine

open Sys2Proof

/-- A failure: code of R220, low byte of the section type, entry. -/
abbrev Fail := Option (Nat × Nat × Nat)

/-- A failure of a section where a condition does not hold. -/
def need (ok : Bool) (code sect entry : Nat) : Fail := if ok then none else some (code, sect, entry)

/-- The first entry of which `bad` holds. -/
def firstBad {α : Type} (code sect : Nat) (xs : List α) (bad : α → Bool) : Fail :=
  (xs.findIdx? bad).map fun i => (code, sect, i)

/-- The first entry of which `bad` holds, where `bad` also sees the index. -/
def firstBadI {α : Type} (code sect : Nat) (xs : List α) (bad : Nat → α → Bool) : Fail :=
  ((xs.mapIdx fun i x => (i, x)).find? fun e => bad e.1 e.2).map fun e => (code, sect, e.1)

/-- The first failure of a list of checks. -/
def firstFail (cs : List Fail) : Fail := cs.findSome? id

/-- Order of failures: by code, then by section, then by entry (R220). -/
def failBefore (a b : Nat × Nat × Nat) : Bool :=
  decide (a.1 < b.1) || (a.1 == b.1 && (decide (a.2.1 < b.2.1) || (a.2.1 == b.2.1 && decide (a.2.2 < b.2.2))))

/-- The least failure of a list of checks. -/
def leastFail (cs : List Fail) : Fail :=
  (cs.filterMap id).foldl (fun m x => match m with
    | none => some x
    | some y => if failBefore x y then some x else m) none

/-- A failure with its entry counted from `n` on. -/
def shiftFail (f : Fail) (n : Nat) : Fail := f.map fun e => (e.1, e.2.1, e.2.2 + n)

/-- The fixed entries of a section as bytes; none where it is absent. -/
def rawEntries (b : List Byte) (ty size : Nat) : List (List Byte) := fixedEntries size id (sectCount b ty) (sectBytes b ty)

/-- Two lists of ranges meet. -/
def meet (xs ys : List (Nat × Nat)) : Bool := xs.any fun x => ys.any fun y => decide (x.1 < y.2) && decide (y.1 < x.2)

/-- Ranges of one list meet one another. -/
def meetSelf (xs : List (Nat × Nat)) : Bool :=
  (List.range xs.length).any fun n => meet [xs.getD n (0, 0)] (xs.take n)

/-- Ranges cover `[0, n)`, each number once. -/
def tiles (xs : List (Nat × Nat)) (n : Nat) : Bool :=
  (xs.map fun x => x.2 - x.1).sum == n && xs.all (fun x => decide (x.2 ≤ n)) && !meetSelf xs

/-! ### Step 1: the container (codes 0x01 to 0x09) -/

/-- Entry sizes of the sections with entries of one size (R202); 0 for the other types. -/
def entrySize (ty : Nat) : Nat :=
  match ty with
  | 1 => 8 | 2 => 32 | 3 => 16 | 4 => 32 | 7 => 4 | 0xE => 16
  | _ => 0

/-- R198, R200: the length, the directory and the bounds of the sections. A section of entries of one size is filled by them.
DEDUCED (log entry 37). -/
def checkBounds (b : List Byte) : Fail :=
  let n := leAt b 0x3C 2
  let sig := leAt b 0x78 8
  let dirEnd := 0x80 + 24 * n
  let xs := sectsOf b
  let bad := fun (i : Nat) (x : Sect) => x.off % 8 != 0 || decide (x.off < dirEnd) || decide (sig < x.off + x.size) ||
    leAt b (0x82 + 24 * i) 2 != 0 || (entrySize x.ty != 0 && x.size != entrySize x.ty * x.count) ||
    meet [(x.off, x.off + x.size)] ((xs.take i).map fun y => (y.off, y.off + y.size))
  let inSect := fun (o : Nat) => xs.any fun x => decide (x.off ≤ o) && decide (o < x.off + x.size)
  firstFail [
    need (leAt b 8 8 == b.length && decide (0x100 ≤ b.length) && sig == b.length - 128 && decide (1 ≤ n) && decide (n ≤ 32) &&
      decide (dirEnd ≤ sig)) 2 0 0,
    ((xs.mapIdx fun i x => (i, x)).find? fun e => bad e.1 e.2).map fun e => (2, e.2.ty % 256, e.1),
    need ((List.range (min sig b.length - dirEnd)).all fun i => inSect (dirEnd + i) || b.getD (dirEnd + i) 0 == 0) 2 0 0]

/-- The enrolled key of a fingerprint (R219): none where the table failed its anchor, or the key is revoked. -/
def keyFor (s : State) (fpr : Nat) : Option ImgKey :=
  if s.sil.anchorOk then s.sil.keys.find? fun k => k.fpr == fpr && !k.revoked else none

/-- R201: ALG is 1 and the signature over the bytes below it verifies. -/
def sigOk (k : ImgKey) (b : List Byte) (sig : Nat) : Bool :=
  leAt b sig 4 == 1 && Config.verify k.pub ((b.take sig).map (·.toNat)) (beAt b (sig + 8) 96)

/-- The checks of magic, length, key and signature, for an image or for a ware's header. -/
def checkHead (s : State) (b : List Byte) (magic sect fprOff sigOff : Nat) (bounds : Fail) : Fail :=
  let key := keyFor s (beAt b fprOff 8)
  firstFail [
    need (leAt b 0 4 == magic && leAt b 4 2 == 1 && leAt b 6 2 == 0x80) 1 sect 0,
    bounds,
    need key.isSome 3 sect 0,
    need (key.any fun k => sigOk k b (leAt b sigOff 8)) 4 sect 0]

/-- Section types that a whole image must carry, and those a delta may replace (R202). -/
def requiredTypes : List Nat := [2, 3, 4, 7, 0xA, 0xB, 0xC]
def deltaTypes : List Nat := [6, 7, 8, 9, 0xA, 0xC, 0xD]

/-- R220, step 1. Reserved fields of the header hold zero (R199). DEDUCED (log entry 37). -/
def checkStep1 (s : State) (k : Nat) (b : List Byte) : Fail :=
  let part := leAt b 0x10 2
  let ts := (sectsOf b).map (·.ty)
  let delta := (leAt b 0x16 2).testBit 0
  firstFail [
    need (decide (leAt b 0x16 2 < 8) && leAt b 0x3E 2 == 0) 1 0 0,
    checkHead s b 0x535A4455 0 0x70 0x78 (checkBounds b),
    need (decide ((rd s .SET_MIN_SVN (leAt b 0x14 1)).toNat ≤ leAt b 0x38 4)) 5 0 0,
    need ((part == 0 || part == (if s.fuses.part4808 then 0x4808 else 0x3606)) && decide (leAt b 0x12 1 ≤ s.fuses.step)) 6 0 0,
    need (leAt b 0x13 1 == splitN s && leAt b 0x14 1 == k / 32) 7 0 0,
    need ((setBitsOf 8 (leAt b 0x15 1)).all (dieOn s)) 8 0 0,
    (if delta then none else (requiredTypes.find? fun t => !ts.contains t).map fun t => (9, t, 0)),
    ((ts.mapIdx fun i t => (i, t)).find? fun e => e.2 == 0 || decide (0xE < e.2) || (ts.take e.1).contains e.2).map fun e =>
      (9, e.2 % 256, e.1)]

/-! ### Step 2: the ware (R212, R213, R220) -/

/-- R212, R213: lengths of a ware's header and directory, and the bounds of its payloads; `len` is the WARE_LEN of the command
(R353), which LENGTH does not pass. DEDUCED (log entry 37). -/
def checkWareBounds (len : Nat) (w : List Byte) : Fail :=
  let sig := leAt w 48 8
  firstFail [
    need (decide (1 ≤ leAt w 16 4) && sig == 0x80 + 72 * leAt w 16 4 && decide (sig + 128 ≤ w.length) &&
      decide (sig + 128 ≤ leAt w 8 8) && decide (leAt w 8 8 ≤ len)) 2 0xFF 0,
    firstBad 2 0xFF (readWare w) (fun r => decide (r.off < sig + 128) || decide (leAt w 8 8 < r.off + payloadLen r))]

/-- A record fits a placement: codes or levels of the slice's format, within the used part of the block.
DEDUCED (log entry 37). -/
def recFits (i : Image) (p : PlaceE) : Bool :=
  match i.ware[p.record]? with
  | none => false
  | some r =>
    let x := sliceOf i p.slice
    (r.kind == 2 || (r.kind == 0 && x.wFmt) || (r.kind == 1 && !x.wFmt)) && decide (1 ≤ r.rows) && decide (1 ≤ r.cols) &&
      decide (r.rows ≤ blockRows x p.rb) && decide (r.cols ≤ blockCols x p.cb)

/-- A placement names a block of a forward slice (R205). -/
def blockNamed (i : Image) (p : PlaceE) : Bool :=
  i.slices.any fun x => x.id == p.slice && x.kind == 0 && decide (p.rb < x.rows) && decide (p.cb < x.cols)

/-- R220, step 2: a record is compared with the placements that name a block, and with the EMBED entries.
DEDUCED (log entry 37). -/
def checkStep2 (s : State) (len : Nat) (w : List Byte) (i : Image) : Fail :=
  if i.delta then none else
  firstFail [
    checkHead s w 0x575A4455 0xFF 0x28 0x30 (checkWareBounds len w),
    need ((Config.sha384 ((w.take (leAt w 48 8)).map (·.toNat))).toNat == i.wareDigest) 0x0A 0xFF 0,
    firstBad 0x0C 3 i.places (fun p => blockNamed i p && blockRows (sliceOf i p.slice) p.rb != 0 &&
      blockCols (sliceOf i p.slice) p.cb != 0 && !recFits i p),
    firstBad 0x0C 0xE i.embeds (fun e => !(i.ware[e.1]?).any fun r => r.kind == 3)]

/-! ### Step 3: structure (codes 0x0D to 0x1D) -/

/-- R204, R217: a slice descriptor. DEDUCED (log entry 37). -/
def sliceBad (i : Image) (n : Nat) (x : SliceE) : Bool :=
  let f := sliceOf i x.pair
  let g := (i.slices.take n).find? fun y => y.group == x.group
  x.id == 0xFFFF || (i.slices.take n).any (fun y => y.id == x.id) || x.mode == 3 || x.rows == 0 || decide (96 < x.rows) ||
  x.cols == 0 || decide (96 < x.cols) || decide (x.dIn ≤ 1024 * (x.rows - 1)) || decide (1024 * x.rows < x.dIn) ||
  decide (x.dOut ≤ 1024 * (x.cols - 1)) || decide (1024 * x.cols < x.dOut) || decide (4095 < x.group) || (x.ocp && !x.dFmt) ||
  decide (i.colscale.length < x.cs + x.dOut) ||
  (if x.kind = 1 then !(i.slices.any fun y => y.id == x.pair && y.kind == 0) || f.dIn != x.dOut || f.dOut != x.dIn
   else x.pair != 0xFFFF) ||
  (x.adapter != 0xFFFF && !i.adapters.any fun a => a.index == x.adapter) ||
  (match g with
   | some y => y.kind != x.kind || y.dIn != x.dIn || y.rows != x.rows || y.dFmt != x.dFmt || y.ocp != x.ocp ||
       (List.range x.rows).any fun rb =>
         let a := outlierOf i y.id rb
         let c := outlierOf i x.id rb
         a.mode != c.mode || a.fixed != c.fixed || a.cand != c.cand || a.kdyn != c.kdyn
   | none => false)

/-- The reserved bits of the SLICE entries that the bytes carry. DEDUCED (log entry 37). -/
def checkSlices (b : List Byte) (i : Image) : Fail :=
  leastFail [
    firstBad 0x0D 2 (rawEntries b 2 32) (fun e => !sliceReservedOk e),
    firstBadI 0x0D 2 i.slices (sliceBad i)]

/-- The tile of a placement lies on a die of DIE_MASK and in the target partition. -/
def tileOutside (s : State) (i : Image) (t : Nat) : Bool :=
  decide (12288 ≤ t) || !i.dieMask.testBit (t / 1536) || !dieOn s (t / 1536) || ptOfDie s (t / 1536) != i.pt

/-- Every block of every forward slice has a placement (R216). -/
def blocksPlaced (i : Image) : Bool :=
  (i.slices.filter fun x => x.kind == 0).all fun x =>
    (List.range (x.rows * x.cols)).all fun n =>
      i.places.any fun p => p.slice == x.id && p.rb == n / x.cols && p.cb == n % x.cols

/-- The pass groups that drive a placement: that of its slice, and those of the transposed slices of that slice. -/
def placeGroups (i : Image) (p : PlaceE) : List Nat :=
  (i.slices.filter fun x => (x.kind == 0 && x.id == p.slice) || (x.kind == 1 && x.pair == p.slice)).map (·.group)

/-- A placement repeats a block or a tile-layer (R216). -/
def placeDup (i : Image) (n : Nat) (p : PlaceE) : Bool :=
  (i.places.take n).any fun q => (q.tile == p.tile && q.layer == p.layer) || (q.slice == p.slice && q.rb == p.rb && q.cb == p.cb)

/-- Another block of a pass group that drives the placement lies on the same tile (R216). -/
def layerShare (i : Image) (n : Nat) (p : PlaceE) : Bool :=
  (i.places.take n).any fun q => q.tile == p.tile && (placeGroups i q).any fun g => (placeGroups i p).contains g

/-- The digest of the record that an image places on a tile-layer. -/
def placedDigest (i : Image) (tl : Nat) : Option Nat :=
  (i.places.find? fun p => tlKey p.tile p.layer == tl).map fun p => (recOf i p).digest

/-- The tile-layer's wear record keeps a digest, and is that of the record placed. -/
def wearHolds (s : State) (i : Image) (p : PlaceE) : Bool :=
  let w := wearOf s (tlKey p.tile p.layer)
  (w.state == 1 || w.state == 3) && w.digest == (recOf i p).digest

/-- The active image of a context already holds a tile-layer with the same digest (R224). DESIGN CHOICE (log entry 38). -/
def sharedTl (s : State) (k : Nat) (i : Image) (p : PlaceE) : Bool :=
  (cxOf s k).active.any fun a => placedDigest (imgOf s a) (tlKey p.tile p.layer) == some (recOf i p).digest

/-- The spare of a failed tile's cluster can take it (R230). -/
def spareFree (s : State) (i : Image) (t : Nat) : Bool :=
  let sp := clOfTile t * 32 + spareOf i (clOfTile t)
  sp != t && (rf s .TILE_CFG 2 0 sp == 2 || rf s .TILE_CFG 2 0 sp == 0) && !i.places.any (fun p => p.tile == sp)

/-- The tile that takes a placement: the cluster's spare for one on the first FAILED tile of its cluster, where the image
has ALLOW_REMAP (R230). -/
def redirected (s : State) (i : Image) (p : PlaceE) : PlaceE :=
  let failed := fun (q : PlaceE) => rf s .TILE_CFG 2 0 q.tile == 3 && clOfTile q.tile == clOfTile p.tile
  if i.allowRemap && spareFree s i p.tile && (i.places.find? failed).any (fun q => q.tile == p.tile) then
    { p with tile := clOfTile p.tile * 32 + spareOf i (clOfTile p.tile) }
  else p

/-- A tile is the spare of its cluster under an image that a context holds and that places on that cluster (R24): one that a remap has
assigned is no longer. -/
def heldSpare (s : State) (t : Nat) : Bool :=
  let held := s.ctxs.flatMap fun e => e.2.images.map (imgOf s)
  (held.any fun i => t % 32 == spareOf i (clOfTile t) && i.places.any fun p => clOfTile p.tile == clOfTile t) &&
  !held.any fun i => i.places.any fun p => p.tile == t

/-- A placement is unavailable (code 0x12). -/
def unavailable (s : State) (k : Nat) (i : Image) (p : PlaceE) : Bool :=
  let p := redirected s i p
  let w := wearOf s (tlKey p.tile p.layer)
  (rf s .TILE_CFG 2 0 p.tile == 3) ||
  (!sharedTl s k i p && (w.state == 4 || ((w.state == 3 || decide (100000 ≤ w.count)) && !wearHolds s i p)))

/-- A layer of the tile is held by another context, with which no tile is shared (R36), or the tile-layer by this context with a
different digest (code 0x13). DESIGN CHOICE (log entry 109). -/
def conflict (s : State) (k : Nat) (i : Image) (p : PlaceE) : Bool :=
  let p := redirected s i p
  let tl := tlKey p.tile p.layer
  s.ctxs.any fun e => e.2.images.any fun im =>
    if e.1 = k then (placedDigest (imgOf s im) tl).any fun d => d != (recOf i p).digest
    else (imgOf s im).places.any fun q => q.tile == p.tile

/-- The narrow group of a row block among those of its part (R129), and the parts of a slice that a tile-layer belongs to. -/
def narrowGroupOf (i : Image) (x : SliceE) (cb cl rb : Nat) : Nat :=
  let r : RouteE := { slice := x.id, cb := cb, cl := cl }
  let pos := ((partTiles i r).findIdx? fun e => e.1 == rb).getD 0
  if x.mode = 1 then 0 else pos / 8

/-- An earlier placement whose codes enter the same narrow group has another range (R216). -/
def rangeSplit (i : Image) (n : Nat) (p : PlaceE) : Bool :=
  let x := sliceOf i p.slice
  (i.places.take n).any fun q =>
    q.slice == p.slice && clOfTile q.tile == clOfTile p.tile &&
    ((q.cb == p.cb && q.range != p.range &&
        narrowGroupOf i x p.cb (clOfTile p.tile) q.rb == narrowGroupOf i x p.cb (clOfTile p.tile) p.rb) ||
     (q.rb == p.rb && q.trange != p.trange && i.slices.any fun y => y.kind == 1 && y.pair == p.slice &&
        narrowGroupOf i y p.rb (clOfTile p.tile) q.cb == narrowGroupOf i y p.rb (clOfTile p.tile) p.cb))

/-- A destination word in use is malformed: a reserved kind, a cluster that does not exist, or one of kind 3 that names another
cluster than the home cluster (R206); so is one of kind 0, which R206 calls unused, among the first NDEST. DEDUCED (log entry 37). -/
def destBad (home : Nat) (d : DestW) : Bool :=
  d.kind == 0 || decide (4 < d.kind) || decide (384 ≤ d.cl) || (d.kind == 3 && d.cl != home)

/-- The cluster of the lowest row block of a column block (R130). -/
def homeClOf (i : Image) (x : SliceE) (cb : Nat) : Nat :=
  let ts := blockTiles i x cb
  let low := (ts.map (·.1)).foldl min 4096
  ((ts.find? fun e => e.1 == low).map fun e => clOfTile e.2.tile).getD 0

/-- A ROUTE entry breaks R206 or R216. -/
def routeBad (i : Image) (n : Nat) (r : RouteE) : Bool :=
  let x := sliceOf i r.slice
  let home := homeClOf i x r.cb
  let before := (i.routes.take n).filter fun q => q.slice == r.slice && q.cb == r.cb
  !(i.slices.any fun y => y.id == r.slice) || decide (x.cols ≤ r.cb) || decide (30 < r.part) || r.dests.isEmpty ||
  r.dests.any (destBad home) || decide (2 < r.preSrc) || (r.preSrc == 2 && decide (512 ≤ r.preAddr)) ||
  !((blockTiles i x r.cb).any fun e => clOfTile e.2.tile == r.cl) ||
  (i.routes.take n).any (fun q => q.cl == r.cl && q.part == r.part) || before.any (fun q => q.cl == r.cl) ||
  (r.home && (r.cl != home || before.any (·.home)))

/-- A column block of a slice lacks a home part, or the route of one of its clusters (R216). DEDUCED (log entry 37). -/
def routeMissing (i : Image) (x : SliceE) : Bool :=
  (List.range x.cols).any fun cb =>
    !i.routes.any (fun r => r.slice == x.id && r.cb == cb && r.home) || (blockTiles i x cb).any fun e =>
      !i.routes.any fun r => r.slice == x.id && r.cb == cb && r.cl == clOfTile e.2.tile

/-- The slice sends channels to the glaze path or carries an adapter. -/
def slicesGlaze (i : Image) (x : SliceE) : Bool :=
  (adapterOf i x).isSome || i.outliers.any fun o => o.slice == x.id && o.mode != 0

/-- A glaze region of a cluster in bytes. -/
def glzBytes (i : Image) (cl : Nat) : Nat := ((i.clusters.find? fun c => c.cl == cl).getD {}).region * 0x10000

/-- `[a, a + n)` lies in the glaze region of a cluster, in a bay buffer, or in the buffer-die share of the dies `ds`, whose
glaze slices read it (R124, R278). -/
def glazePlace (i : Image) (ds : List Nat) (a n : Nat) : Bool :=
  match placeOf a, placeOf (a + n - 1) with
  | .scratch c, .scratch d => c == d && decide (0x100000 - glzBytes i c ≤ a % 0x100000)
  | .bayBuf c, .bayBuf d => c == d
  | .bufDie c, .bufDie d => c == d && ds.all (· == c)
  | _, _ => false

/-- The dies of the glaze slices that serve columns `[a, b)` of a slice (R125). -/
def glazeDies (i : Image) (slice a b : Nat) : List Nat :=
  (i.routes.filter fun r => r.slice == slice && r.glaze && decide (r.cb * 1024 < b) && decide (a < r.cb * 1024 + 1024)).map
    fun r => r.glzCl / 48

/-- The clusters of the home parts that read a bias record (R132): those of the column blocks it reaches. -/
def biasHomes (i : Image) (b : BiasE) : List Nat :=
  match i.slices.find? fun x => x.bias == b.index with
  | some x => (List.range (1 + (b.col + (b.n - 1)) / 1024 - b.col / 1024)).map fun j => homeClOf i x (b.col / 1024 + j)
  | none => []

/-- A bias record lies in the scratchpad of the home part that reads it (R209, R211). -/
def biasPlace (hs : List Nat) (a n : Nat) : Bool :=
  match placeOf a, placeOf (a + n - 1) with
  | .scratch c, .scratch d => c == d && hs.all (· == c)
  | _, _ => hs.isEmpty

/-- The size in bytes of a bias record's values. -/
def biasSize (b : BiasE) : Nat := b.n * (if b.fmt = 7 then 4 else 2)

/-- A glaze record names a channel and columns of its slice (R208). -/
def glazeNamed (i : Image) (g : GlzE) : Bool :=
  i.slices.any fun x => x.id == g.slice && decide (g.rb < x.rows) && decide (g.ch < 1024) && g.n != 0 && decide (g.col + g.n ≤ x.dOut)

/-- The first record of a channel that can reach the glaze path and whose row does not cover each output column of its slice
once (R123); the number of records for a channel without one. DEDUCED (log entry 37). -/
def glazeRows (i : Image) : List Fail :=
  i.outliers.flatMap fun o => if !i.slices.any (fun x => x.id == o.slice) then [] else
    (o.fixed ++ o.cand).map fun ch =>
      let mine := fun (g : GlzE) => g.slice == o.slice && g.rb == o.rb && g.ch == ch
      if tiles ((i.glaze.filter mine).map fun g => (g.col, g.col + g.n)) (sliceOf i o.slice).dOut then none
      else some (0x16, 6, (i.glaze.findIdx? mine).getD i.glaze.length)

/-- R216, GLAZE_PLACE. DEDUCED (log entry 37). -/
def checkGlazePlace (i : Image) : Fail :=
  leastFail <| glazeRows i ++ [
    firstBad 0x16 4 i.routes (fun r => (r.glaze && (!r.home || r.glzCl / 48 != r.cl / 48 || decide (384 ≤ r.glzCl))) ||
      (!r.glaze && r.glzCl != 0xFFFF) || (r.home && !r.glaze && slicesGlaze i (sliceOf i r.slice))),
    firstBad 0x16 6 i.glaze (fun g => !glazeNamed i g || !glazePlace i (glazeDies i g.slice g.col (g.col + g.n)) g.loc (2 * g.n)),
    firstBad 0x16 8 i.biases (fun b => !biasPlace (biasHomes i b) b.loc (biasSize b)),
    firstBad 0x16 9 i.adapters (fun a =>
      a.as.any (fun p => let n := aRows i a p
        let ok := glazePlace i [p.cl / 48]
        !ok p.loc0 (n * 2 * a.rank) || !ok p.loc1 (n * 2 * a.rank) || !ok p.grad (n * 4 * a.rank)) ||
      a.bs.any (fun p => let ok := glazePlace i [p.cl / 48]
        !ok p.loc0 (a.rank * 2 * p.n) || !ok p.loc1 (a.rank * 2 * p.n) || !ok p.grad (a.rank * 4 * p.n)))]

/-- R119, R207: a record that names no row block, or repeats one, is bad too. DEDUCED (log entry 37). -/
def outlierBad (i : Image) (n : Nat) (o : OutE) : Bool :=
  let x := sliceOf i o.slice
  !(i.slices.any fun y => y.id == o.slice && decide (o.rb < y.rows)) ||
  (i.outliers.take n).any (fun q => q.slice == o.slice && q.rb == o.rb) ||
  let w := if decide (o.rb < x.rows) then blockRows x o.rb else 0
  decide (32 < o.fixed.length) || decide (128 < o.cand.length) || !o.fixed.Nodup || !o.cand.Nodup ||
  o.cand.any (fun c => o.fixed.contains c) || decide (32 < o.kdyn) || decide (o.cand.length < o.kdyn) ||
  decide (32 < o.fixed.length + o.kdyn) || (o.fixed ++ o.cand).any (fun c => decide (w ≤ c))

/-- R134, R136: the preload kind and the shape of a slice. -/
def modeConflict (i : Image) (x : SliceE) : Bool :=
  x.mode != 0 && (x.pre != 0 ||
    (x.mode == 1 && (decide (31 < x.rows) || (List.range x.cols).any fun cb =>
      decide (1 < (i.routes.filter fun r => r.slice == x.id && r.cb == cb).length))))

/-- R134: a part in integer or pure 16-bit mode takes a preload or a glaze contribution. -/
def partConflict (i : Image) (r : RouteE) : Bool := (sliceOf i r.slice).mode != 0 && (r.glaze || r.preSrc != 0)

/-- `[a, a + n)` lies in the memory of a partition. -/
def inPart (s : State) (pt a n : Nat) : Bool :=
  decide (a + n ≤ 2 ^ 48) && ((probeAddrs a n) ++ [a + (n - 1)]).all fun b =>
    ptOfPlace s (placeOf b) == some pt && !unimplemented s (placeOf b)

/-- A cluster of the partition; a bay of an enabled die of another partition (R338, R504). -/
def clIn (s : State) (pt cl : Nat) : Bool := decide (cl < 384) && dieOn s (cl / 48) && ptOfDie s (cl / 48) == pt
def bayOut (s : State) (pt bay : Nat) : Bool := decide (bay < 48) && dieOn s (bay / 6) && ptOfDie s (bay / 6) != pt

/-- The records of the MICROCODE section that the bytes carry (R266). -/
def mcRecs (b : List Byte) : List McRec × Bool :=
  if (sectOf b 0xA).isSome then varRecords readMc (sectCount b 0xA) (sectBytes b 0xA) else ([], true)

/-- The cluster of a MICROCODE record other than a program. -/
def McRec.clOf : McRec → Option Nat
  | .prog _ => none
  | .ctxs c => some c.cl
  | .slots x => some x.cl
  | .data d => some d.cl

/-- Bytes that a part of a slice writes to a scratchpad destination: BF16 in pure 16-bit mode (R135); in integer mode a word more
than its columns (R137). -/
def destBytes (x : SliceE) (cb : Nat) : Nat :=
  match x.mode with
  | 1 => 2 * blockCols x cb
  | 2 => 4 * (blockCols x cb + 1)
  | _ => 4 * blockCols x cb

/-- R216, MEM_OUTSIDE: entries of MICROCODE, KVLAYOUT, DRAWRING and PEER count as in R269, R338, R504 and R409. -/
def checkMem (s : State) (b : List Byte) (i : Image) : Fail :=
  let pt := i.pt
  leastFail [
    firstBad 0x19 1 i.clusters (fun c => !clIn s pt c.cl),
    firstBad 0x19 4 i.routes (fun r => !clIn s pt r.cl || (r.glaze && !clIn s pt r.glzCl) ||
      r.dests.any (fun d => !clIn s pt d.cl) || (r.preSrc == 2 && !clIn s pt (r.preAddr % 512)) ||
      (r.preSrc == 1 && decide (0x100000 < r.preAddr * 8 + 4 * blockCols (sliceOf i r.slice) r.cb)) ||
      r.dests.any (fun d => d.kind == 1 && decide (0x100000 < d.addr * 8 + destBytes (sliceOf i r.slice) r.cb))),
    firstBad 0x19 6 i.glaze (fun g => !inPart s pt g.loc (2 * g.n)),
    firstBad 0x19 8 i.biases (fun b => !inPart s pt b.loc (biasSize b)),
    firstBad 0x19 9 i.adapters (fun a => !clIn s pt a.red ||
      a.as.any (fun p => let n := aRows i a p * a.rank
        !clIn s pt p.cl || !inPart s pt p.loc0 (2 * n) || !inPart s pt p.loc1 (2 * n) || !inPart s pt p.grad (4 * n)) ||
      a.bs.any (fun p => let n := a.rank * p.n
        !clIn s pt p.cl || !inPart s pt p.loc0 (2 * n) || !inPart s pt p.loc1 (2 * n) || !inPart s pt p.grad (4 * n))),
    firstBad 0x19 0xA (mcRecs b).1 (fun r => r.clOf.any fun c => !clIn s pt c),
    shiftFail (firstBad 0x19 0xB i.kv.layers (fun l => l.stripe.any fun b => bayOut s pt b)) 1,
    shiftFail (firstBad 0x19 0xB i.kv.pools (fun p => !inPart s pt p.base p.size)) (1 + i.kv.layers.length),
    shiftFail (firstBad 0x19 0xC i.draw.bays (fun b => bayOut s pt b.bay)) 1,
    need ((i.peers.xchSize == 0 || inPart s pt i.peers.xchBase i.peers.xchSize) &&
      (i.peers.slots == 0 || inPart s pt i.peers.fetchBase (i.peers.slots * 0x100000))) 0x19 0xD 0,
    shiftFail (firstBad 0x19 0xD i.peers.regions (fun r => r.dir == 0 && !inPart s pt r.base r.len)) (1 + i.peers.peers.length),
    firstBad 0x19 0xE i.embeds (fun e => let r := i.ware.getD e.1 {}
      decide (0x1800000000 ≤ e.2) || !inPart s pt e.2 (r.rows * r.cols * 2))]

/-- Context numbers, pool indices and scratchpad regions of an image in a cluster, as closed-open ranges. -/
def ctxRanges (i : Image) (cl : Nat) : List (Nat × Nat) :=
  (i.ctxs.filter fun c => c.cl == cl).map fun c => (c.first, c.first + c.count)
def slotRanges (i : Image) (cl : Nat) : List (Nat × Nat) :=
  ((i.ctxs.filter fun c => c.cl == cl).map fun c => (c.slotBase, c.slotBase + c.count * c.slotCount)) ++
  (i.slots.filter fun x => x.cl == cl).map fun x => (x.first, x.first + x.descs.length)
def descRange (d : Nat) : Nat × Nat :=
  let a := bitsOf d 16 0 * 8
  (a, a + elemBytes ((Fmt.ofCode (bitsOf d 32 29)).getD .fp32) (bitsOf d 28 17 + 1))
def padRanges (i : Image) (cl : Nat) : List (Nat × Nat) :=
  ((i.slots.filter fun x => x.cl == cl).flatMap fun x => x.descs.map descRange) ++
  (i.data.filter fun d => d.cl == cl).map fun d => (d.off, d.off + d.bytes.length)

/-- Images whose code is not shared with a later one of the list (R268). -/
def distinctCode (is : List Image) : List Image := is.foldr (fun i l => if l.any (sameCode i) then l else i :: l) []

/-- The images that share clusters with an image: those of every context of its partition (R268). -/
def partImages (s : State) (pt : Nat) : List Image :=
  s.ctxs.flatMap fun e => if e.1 / 32 = pt then e.2.images.map (imgOf s) else []

/-- Those of them that have vector resources of their own. -/
def codeImages (s : State) (pt : Nat) : List Image :=
  s.ctxs.flatMap fun e => if e.1 / 32 = pt then distinctCode (e.2.images.map (imgOf s)) else []

/-- The active image of a context has the same MICROCODE section: its resources are shared (R268). -/
def sharesCode (s : State) (k : Nat) (i : Image) : Bool := (cxOf s k).active.any fun a => sameCode (imgOf s a) i

/-- Instructions that an image puts into the store of a cluster (R267). -/
def storeSize (i : Image) (cl : Nat) : Nat :=
  (((i.ctxs.filter fun c => c.cl == cl).map (·.prog)).dedup.map fun p =>
    ((i.progs.find? fun q => q.id == p).map fun q => q.words.length).getD 0).sum

/-- Clusters in which an image has contexts. -/
def ctxClusters (i : Image) : List Nat := (i.ctxs.map (·.cl)).dedup

/-- The tables that an image puts into the shadow: place, digest and size (R208). -/
def embedTables (i : Image) : List (Nat × Nat × Nat) :=
  i.embeds.map fun e => let r := i.ware.getD e.1 {}; (e.2, r.digest, r.rows * r.cols * 2)

/-- Bytes of HBM that the shadow of an image takes together with those of the images held in its partition, what two of them share
counted once (R216, R293). -/
def hbmNeed (s : State) (i : Image) : Nat :=
  let is := i :: partImages s i.pt
  (is.flatMap imgTls).dedup.length * (0x80000 + 0x4000 + 16) + (((is.flatMap embedTables).dedup).map fun t => t.2.2).sum

/-- The regions in which an image keeps weights, and those that other sections name besides. -/
def weightRegions (i : Image) : List (Nat × Nat) :=
  i.glaze.map (fun g => (g.loc, g.loc + 2 * g.n)) ++ i.biases.map (fun b => (b.loc, b.loc + biasSize b)) ++
  i.adapters.flatMap (fun a => a.as.flatMap (fun p => let n := aRows i a p * a.rank
      [(p.loc0, p.loc0 + 2 * n), (p.loc1, p.loc1 + 2 * n), (p.grad, p.grad + 4 * n)]) ++
    a.bs.flatMap (fun p => let n := a.rank * p.n
      [(p.loc0, p.loc0 + 2 * n), (p.loc1, p.loc1 + 2 * n), (p.grad, p.grad + 4 * n)]))
def namedRegions (i : Image) : List (Nat × Nat) :=
  weightRegions i ++ (embedTables i).map fun t => (t.1, t.1 + t.2.2)

/-- The images of the other contexts of a partition. -/
def otherImages (s : State) (k : Nat) : List Image :=
  s.ctxs.flatMap fun e => if e.1 / 32 = k / 32 && e.1 != k then e.2.images.map (imgOf s) else []

/-- R268 for a record of the MICROCODE section, against the images that have vector resources of their own. -/
def mcMeets (others : List Image) (i : Image) : McRec → Bool
  | .prog _ => false
  | .ctxs c => others.any (fun j => meet [(c.first, c.first + c.count)] (ctxRanges j c.cl) ||
      meet [(c.slotBase, c.slotBase + c.count * c.slotCount)] (slotRanges j c.cl)) || decide (128 < c.slotCount) ||
      decide (16384 < storeSize i c.cl + (others.map fun j => storeSize j c.cl).sum)
  | .slots x => others.any fun j => meet [(x.first, x.first + x.descs.length)] (slotRanges j x.cl) ||
      meet (x.descs.map descRange) (padRanges j x.cl)
  | .data d => others.any fun j => meet [(d.off, d.off + d.bytes.length)] (padRanges j d.cl)

/-- R216, CAPACITY, and R268; no weight store is shared between contexts (R36). DESIGN CHOICE (log entry 101). -/
def checkCapacity (s : State) (k : Nat) (b : List Byte) (i : Image) : Fail :=
  firstFail [
    firstBad 0x1A 1 i.clusters (fun c => decide (12 < c.region)),
    need (decide (hbmNeed s i ≤ (groupsOfPt s i.pt).length * 0x300000000)) 0x1A 3 0,
    (let held := (otherImages s k).flatMap namedRegions
     need (!meet (weightRegions i) held) 0x1A 6 0 <|> need (!meet (namedRegions i) held) 0x1A 0xE 0),
    (if sharesCode s k i then none else firstBad 0x1A 0xA (mcRecs b).1 (mcMeets (codeImages s i.pt) i))]

/-! ### Sections of other chapters (code 0x1B) -/

/-- The column ranges of the records of a bias index. -/
def biasRanges (i : Image) (n : Nat) : List (Nat × Nat) := (i.biases.filter fun c => c.index == n).map fun c => (c.col, c.col + c.n)

/-- R211 for a bias record: two slices name it, it meets an earlier one, or it passes the width of its slice. -/
def biasBad (i : Image) (n : Nat) (b : BiasE) : Bool :=
  let users := i.slices.filter fun x => x.bias == b.index
  decide (1 < users.length) || users.any (fun x => decide (x.dOut < b.col + b.n)) ||
  (i.biases.take n).any (fun c => c.index == b.index && meet [(c.col, c.col + c.n)] [(b.col, b.col + b.n)])

/-- R211: the records of the index that a slice names do not cover its columns: the first of them, or the number of records.
DEDUCED (log entry 37). -/
def biasCover (i : Image) : List Fail :=
  i.slices.map fun x =>
    if x.bias = 0xFFFFFFFF ∨ tiles (biasRanges i x.bias) x.dOut = true then none
    else some (0x1B, 8, (i.biases.findIdx? fun c => c.index == x.bias).getD i.biases.length)

/-- The padding of the parts of an adapter's initial values, whose lengths are `ns`, is zero (R210). -/
def initPadded : List Nat → List Nat → Bool
  | [], _ => true
  | n :: ns, xs => ((xs.take ((n + 3) / 4 * 4)).drop n).all (· == 0) && initPadded ns (xs.drop ((n + 3) / 4 * 4))

/-- The initial values of an adapter are not those of its parts, each padded with zeros to 8 B (R210, R211). -/
def initBad (i : Image) (a : AdpE) : Bool :=
  let ns := a.as.map (fun p => aRows i a p * a.rank) ++ a.bs.map fun p => a.rank * p.n
  a.init.length != (ns.map fun n => (n + 3) / 4 * 4).sum || !initPadded ns a.init

/-- R211 for an adapter record. -/
def adapterBad (i : Image) (n : Nat) (a : AdpE) : Bool :=
  let x := sliceOf i a.slice
  (i.adapters.take n).any (fun c => c.index == a.index) || a.rank == 0 || decide (64 < a.rank) ||
  !(i.slices.any fun y => y.id == a.slice && y.kind == 0 && y.adapter == a.index) || a.as.length != x.rows ||
  (List.range x.rows).any (fun rb => (a.as.filter fun p => p.rb == rb).length != 1) ||
  !tiles (a.bs.map fun p => (p.col, p.col + p.n)) x.dOut || initBad i a ||
  a.bs.any (fun p => p.n == 0 || decide (1024 < p.n) || (List.range p.n).any fun c =>
    !i.routes.any fun r => r.slice == a.slice && r.cb == (p.col + c) / 1024 && r.glaze && r.glzCl == p.cl)

/-- The opcodes of R255. -/
def opcodes : List Nat :=
  [0x10, 0x11, 0x12, 0x13, 0x14, 0x15, 0x16, 0x17, 0x18, 0x19, 0x20, 0x21, 0x22, 0x23, 0x24, 0x25, 0x28, 0x2C, 0x30, 0x31,
   0x32, 0x33, 0x34, 0x35, 0x38, 0x39, 0x3C, 0x40, 0x41, 0x42, 0x43, 0x44, 0x45, 0x50, 0x51, 0x52, 0x53, 0x54, 0x55, 0x56,
   0x57, 0x58, 0x60, 0x61, 0x62, 0x63, 0x64, 0x65, 0x66, 0x67, 0x68]

/-- The slots that an instruction names. -/
def slotsNamed (i : VIns) : List Nat :=
  let d := if i.op = 0x41 ∨ i.op = 0x42 ∨ i.op = 0x43 ∨ i.op = 0x44 then [] else [i.d]
  let a := if i.op = 0x3C ∨ i.op = 0x40 ∨ i.op = 0x45 then [] else [i.a]
  let two := [0x10, 0x11, 0x12, 0x13, 0x14, 0x15, 0x25, 0x28, 0x31, 0x35, 0x38, 0x39]
  let b := if (two.contains i.op && !i.sb) || (i.op == 0x34 && (toTwos 13 i.imm).testBit 12) then [i.b] else []
  let c := if i.op = 0x13 ∨ i.op = 0x2C ∨ i.op = 0x34 ∨ i.op = 0x43 then [i.c] else []
  if 0x50 ≤ i.op then [] else d ++ a ++ b ++ c

/-- R269 for one instruction at index `n` of a program of `len`, with `slots` the least SLOT_COUNT that runs it. -/
def insBad (len slots n w : Nat) : Bool :=
  let i := decodeIns w
  let imm := toTwos 13 i.imm
  !opcodes.contains i.op || w.testBit 14 || (i.op == 0x2C && (decide (imm % 16 < 4) || decide (12 < imm % 16))) ||
  (i.op == 0x34 && (imm % 512 == 0 || decide (256 < imm % 512))) ||
  ([0x60, 0x61, 0x62, 0x63].contains i.op && (decide ((n : Int) + i.imm < 0) || decide ((len : Int) ≤ n + i.imm))) ||
  (slotsNamed i).any fun x => decide (slots ≤ x)

/-- The least SLOT_COUNT of the records that run a program; 128 where none does. -/
def minSlots (i : Image) (prog : Nat) : Nat :=
  ((i.ctxs.filter fun c => c.prog == prog).map (·.slotCount)).foldl min 128

/-- R269 for a program, with the records before it. -/
def progBad (i : Image) (before : List McRec) (p : ProgE) : Bool :=
  (mcProgs before).any (fun q => q.id == p.id) || p.words.isEmpty || decide (8192 < p.words.length) ||
  (p.words.mapIdx fun j w => insBad p.words.length (minSlots i p.id) j w).any id

/-- R269 for a CONTEXTS record. -/
def ctxBad (i : Image) (before : List McRec) (c : CtxE) : Bool :=
  let p := i.progs.find? fun q => q.id == c.prog
  !(p.any fun q => decide (c.entry < q.words.length)) || c.slotCount == 0 ||
  decide (4096 < c.first + c.count) || decide (32768 < c.slotBase + c.count * c.slotCount) ||
  (mcCtxs before).any (fun d => d.cl == c.cl && (meet [(d.first, d.first + d.count)] [(c.first, c.first + c.count)] ||
    meet [(d.slotBase, d.slotBase + d.count * d.slotCount)] [(c.slotBase, c.slotBase + c.count * c.slotCount)]))

/-- R269 for a slot descriptor of a cluster (R241). -/
def descBad (i : Image) (cl d : Nat) : Bool :=
  let f := Fmt.ofCode (bitsOf d 32 29)
  decide (2 ^ 35 ≤ d) || f.isNone ||
  decide (0x100000 - glzBytes i cl < bitsOf d 16 0 * 8 + elemBytes (f.getD .fp32) (bitsOf d 28 17 + 1))

/-- R269 for a SLOTS record, and for a DATA record. -/
def slotsBad (i : Image) (before : List McRec) (x : SlotsE) : Bool :=
  decide (32768 < x.first + x.descs.length) || x.descs.any (descBad i x.cl) ||
  (mcSlots before).any (fun y => y.cl == x.cl && meet [(y.first, y.first + y.descs.length)] [(x.first, x.first + x.descs.length)])
def dataBad (i : Image) (d : DataE) : Bool :=
  d.off % 8 != 0 || decide (0x100000 - glzBytes i d.cl < d.off + d.bytes.length)

/-- R269 for the record at index `n`: it stands out of order, or breaks the rule of its kind. -/
def mcBad (i : Image) (rs : List McRec) (n : Nat) (r : McRec) : Bool :=
  (rs.take n).any (fun y => decide (r.ty < y.ty)) ||
  match r with
  | .prog p => progBad i (rs.take n) p
  | .ctxs c => ctxBad i (rs.take n) c
  | .slots x => slotsBad i (rs.take n) x
  | .data d => dataBad i d

/-- Bytes after the records of a section are zero. DEDUCED (log entry 37). -/
def restOk {α : Type} (f : List Byte → Option (α × Nat)) (b : List Byte) (ty code : Nat) : Fail :=
  need ((varRest f (sectCount b ty) (sectBytes b ty)).all (· == 0)) code ty (sectCount b ty)

/-- R269 for the records that the bytes carry. -/
def checkMicro (b : List Byte) (i : Image) : Fail :=
  let r := mcRecs b
  leastFail [need r.2 0x1B 0xA r.1.length, firstBadI 0x1B 0xA r.1 (mcBad i r.1), restOk readMc b 0xA 0x1B]

/-- The bytes of a KVLAYOUT frame (R324). -/
def pageBytesOf (v : KvLayout) : Nat := 64 * 2 * v.hkv * (v.w / 2 + v.w / 16)
def frameSize (v : KvLayout) : Nat := (v.pageBytes + 255) / 256 * 256
def segSize (v : KvLayout) : Nat := (64 * v.slipBytes + 255) / 256 * 256

/-- The store that a pool's TIER and OWNER name holds all of it (R337, R338). -/
def poolPlaced (s : State) (i : Image) (p : KvPoolE) : Bool :=
  let ok := fun (f : Place → Bool) => f (placeOf p.base) && f (placeOf (p.base + (p.size - 1)))
  if p.tier = 0 then ok (fun x => x == .bayBuf p.owner)
  else if p.tier = 1 then ok (fun x => match x with
    | .bufDie h => h == p.owner
    | _ => false)
  else p.tier == 2 && p.owner == 0xFF && ok (fun x => match x with
    | .hbm g => ptOfGroup s g == i.pt
    | _ => false)

/-- The local regions of a peer table. -/
def peerRegions (t : PeerTable) : List (Nat × Nat) :=
  [(t.xchBase, t.xchBase + t.xchSize), (t.fetchBase, t.fetchBase + t.slots * 0x100000)] ++
  (t.regions.filter fun r => r.dir == 0).map fun r => (r.base, r.base + r.len)

/-- R338 for a pool; one of SIZE 0 is no pool. DEDUCED (log entry 37). -/
def poolBad (s : State) (i : Image) (n : Nat) (p : KvPoolE) : Bool :=
  decide (3 < p.kind) || decide (2 < p.tier) || (p.kind != 0 && p.tier == 0) || p.base % 256 != 0 || p.size == 0 ||
  (p.kind == 0 && p.size % frameSize i.kv != 0) || !poolPlaced s i p ||
  meet [(p.base, p.base + p.size)] ((i.kv.pools.take n).map fun q => (q.base, q.base + q.size)) ||
  meet [(p.base, p.base + p.size)] (namedRegions i ++ (peerRegions i.peers).filter fun r => decide (r.1 < r.2))

/-- R338 for a layer. -/
def kvLayerBad (s : State) (i : Image) (l : KvLayerE) : Bool :=
  let v := i.kv
  decide (1 < l.tier) || l.stripe.isEmpty || decide (48 < l.stripe.length) || !l.stripe.Nodup ||
  l.stripe.any (fun b => decide (48 ≤ b) || !dieOn s (b / 6)) ||
  l.scale == 0 || decide (0x7F800000 ≤ l.scale) ||
  l.stripe.any (fun b => !v.pools.any fun p => p.kind == 0 && p.tier == l.tier && p.owner == (if l.tier = 0 then b else b / 6))

/-- R338 for the header. -/
def kvHeaderBad (v : KvLayout) : Bool :=
  let nl := v.layers.length
  let np := v.pools.length
  nl == 0 || decide (64 < nl) || v.hkv == 0 || decide (64 < v.hkv) || v.hq == 0 || v.hq % (max 1 v.hkv) != 0 ||
  decide (256 < v.hq) || v.w % 16 != 0 || decide (v.w < 16) || decide (256 < v.w) || decide (np < 3) || decide (64 < np) ||
  v.stepMax == 0 || decide (256 < v.stepMax) || v.seqMax == 0 || decide (4096 < v.seqMax) || decide (v.posMax < 64) ||
  decide (1048576 < v.posMax) || v.pageBytes != pageBytesOf v || v.slipBytes != 2 * v.hkv * v.w + 2 * v.hkv ||
  !v.pools.any (fun p => p.kind == 0 && p.tier == 2) || !v.pools.any (fun p => p.kind == 1) || !v.pools.any (fun p => p.kind == 3)

/-- The reserved bytes of the KVLAYOUT section that the bytes carry, its LAYER values, and the places of its stripe lists
(R335, R336). DEDUCED (log entry 37). -/
def kvRaw (b : List Byte) : List Fail :=
  let sec := sectBytes b 0xB
  let nl := leAt sec 0 1
  let np := leAt sec 6 1
  let ends := 32 + 32 * nl + 24 * np
  if (sectOf b 0xB).isNone then [] else [
    need (decide (ends ≤ sec.length) && sectCount b 0xB == nl + np && zeroAt sec 7 1 && zeroAt sec 24 8) 0x1B 0xB 0,
    shiftFail (firstBadI 0x1B 0xB (fixedEntries 32 id nl (sec.drop 32)) fun n e =>
      leAt e 0 1 != n || !zeroAt e 16 16 || decide (leAt e 4 4 < ends) || decide (sec.length < leAt e 4 4 + leAt e 2 1)) 1,
    shiftFail (firstBad 0x1B 0xB (fixedEntries 24 id np (sec.drop (32 + 32 * nl))) fun e => !zeroAt e 3 5) (1 + nl)]

/-- R338. -/
def checkKv (s : State) (b : List Byte) (i : Image) : Fail :=
  leastFail <| kvRaw b ++ [
    need (!kvHeaderBad i.kv) 0x1B 0xB 0,
    shiftFail (firstBad 0x1B 0xB i.kv.layers (kvLayerBad s i)) 1,
    shiftFail (firstBadI 0x1B 0xB i.kv.pools (poolBad s i)) (1 + i.kv.layers.length)]

/-- R504 for a bay entry. -/
def drawBayBad (s : State) (i : Image) (n : Nat) (e : DrawBayE) : Bool :=
  (i.draw.bays.take n).any (fun x => x.bay == e.bay || decide (e.first < x.first)) || decide (48 ≤ e.bay) ||
  !dieOn s (e.bay / 6) || decide (1000 < e.rate) || decide (i.draw.tls.length < e.first)

/-- The bay entry to which tile-layer entry `n` belongs. -/
def drawBayOf (i : Image) (n : Nat) : Option DrawBayE := (i.draw.bays.filter fun e => decide (e.first ≤ n)).getLast?

/-- R504 for a tile-layer entry. -/
def drawTlBad (i : Image) (n : Nat) (e : DrawTlE) : Bool :=
  (i.draw.tls.take n).any (fun x => x.tl == e.tl) || e.weight == 0 || e.mask == 0 ||
  !(drawBayOf i n).any (fun x => x.bay == e.tl / 1024) || !(imgTls i).contains e.tl

/-- The header and the reserved bytes of the DRAWRING section that the bytes carry (R503). DEDUCED (log entry 37). -/
def drawRaw (b : List Byte) : List Fail :=
  let sec := sectBytes b 0xC
  let nb := leAt sec 2 2
  let nt := leAt sec 4 4
  if (sectOf b 0xC).isNone then [] else [
    need (leAt sec 0 1 == 1 && decide (leAt sec 1 1 < 2) && decide (1 ≤ nb) && decide (nb ≤ 48) && decide (1 ≤ nt) &&
      decide (nt ≤ 49152) && zeroAt sec 16 16 && sectCount b 0xC == nb + nt && decide (32 + 8 * nb + 4 * nt ≤ sec.length)) 0x1B 0xC 0,
    shiftFail (firstBad 0x1B 0xC (fixedEntries 8 id nb (sec.drop 32)) fun e => !zeroAt e 1 1) 1]

/-- R504. -/
def checkDraw (s : State) (b : List Byte) (i : Image) : Fail :=
  leastFail <| drawRaw b ++ [
    shiftFail (firstBadI 0x1B 0xC i.draw.bays (drawBayBad s i)) 1,
    shiftFail (firstBadI 0x1B 0xC i.draw.tls (drawTlBad i)) (1 + i.draw.bays.length)]

/-- Bytes of a member's contribution to an exchange (R408). -/
def xchBytes (e : XchE) : Nat := 8 * ((e.elems + 1) / 2)

/-- R409 for the header of the peer table. -/
def peerHeaderBad (t : PeerTable) : Bool :=
  let ranks := (t.peers.map (·.rank)).filter (· != 0xFF)
  ((t.job == 0) != (t.nmem == 0)) || (t.nmem != 0 && (t.nmem == 1 || decide (16 < t.nmem) || decide (t.nmem ≤ t.self))) ||
  t.peers.isEmpty || decide (64 < t.peers.length) || decide (64 < t.regions.length) || decide (256 < t.xchs.length) ||
  decide (64 < t.slots) || t.stretch % 64 != 0 || decide (t.stretch < 64) || decide (1048576 < t.stretch) ||
  ranks.length != t.nmem - 1 || !ranks.Nodup || ranks.any (fun r => r == t.self || decide (t.nmem ≤ r)) ||
  (!t.xchs.isEmpty && t.xchSize == 0)

/-- R409 for a peer entry: ports, path MTU, and the queue-pair numbers of R410. -/
def peerBad (k : Nat) (p : PeerE) : Bool :=
  p.ports.any (fun x => x != 0xFF && decide (31 < x)) || p.ports.getD 0 0xFF == 0xFF || decide (2 < p.pmtu) ||
  p.localQpn / 2 ^ 16 != k || (p.localQpn + 4) / 2 ^ 16 != k

/-- A local region lies in channel groups, a buffer die or a bay buffer, at both its ends (R409). -/
def regionPlaced (r : Nat × Nat) : Bool :=
  let ok := fun a => match placeOf a with
    | .hbm _ => true
    | .bayBuf _ => true
    | .bufDie _ => true
    | _ => false
  ok r.1 && ok (r.2 - 1)

/-- The regions that other sections than PEER name. -/
def otherRegions (i : Image) : List (Nat × Nat) := namedRegions i ++ i.kv.pools.map fun p => (p.base, p.base + p.size)

/-- R409 for a region entry. -/
def regionBad (i : Image) (n : Nat) (r : RegionE) : Bool :=
  let t := i.peers
  let here := (r.base, r.base + r.len)
  decide (1 < r.dir) || decide (3 < r.access) || (r.dir == 1 && decide (t.peers.length ≤ r.peer)) ||
  (r.dir == 0 && (!regionPlaced here ||
    meet [here] ([(t.xchBase, t.xchBase + t.xchSize), (t.fetchBase, t.fetchBase + t.slots * 0x100000)] ++
      ((t.regions.take n).filter fun q => q.dir == 0).map fun q => (q.base, q.base + q.len)) ||
    meet [here] (otherRegions i)))

/-- R409 for the exchange region and the fetch buffer: an empty one is no region. -/
def hubRegionBad (i : Image) (here : Nat × Nat) : Bool :=
  decide (here.1 < here.2) && (!regionPlaced here || meet [here] (otherRegions i))

/-- R409 for an exchange entry. -/
def xchBad (i : Image) (n : Nat) (e : XchE) : Bool :=
  let t := i.peers
  let size := fun (x : XchE) => t.nmem * xchBytes x
  e.index != n || decide (1 < e.kind) || e.elems == 0 || decide (4096 < e.elems) ||
  (e.kind == 1 && (decide (e.elems < 16) || decide (256 < e.elems))) || e.off % 8 != 0 ||
  decide (t.xchSize < e.off + size e) ||
  meet [(e.off, e.off + size e)] ((t.xchs.take n).map fun x => (x.off, x.off + size x)) ||
  (e.kind == 0 && (e.dest.kind != 2 || decide (127 < e.dest.addr / 2 ^ 12 + t.nmem - 1)))

/-- The reserved bytes of the PEER section that the bytes carry, and its COUNT (R405 to R408). DEDUCED (log entry 37). -/
def peerRaw (b : List Byte) : List Fail :=
  let sec := sectBytes b 0xD
  let np := leAt sec 0x12 1
  let nr := leAt sec 0x13 1
  let nx := leAt sec 20 2
  [need (sectCount b 0xD == np + nr + nx && decide (64 + 64 * np + 32 * nr + 16 * nx ≤ sec.length) &&
      decide (leAt sec 0x1C 4 < 4) && zeroAt sec 0x38 8) 0x1B 0xD 0,
    shiftFail (firstBad 0x1B 0xD (fixedEntries 64 id np (sec.drop 64)) fun e =>
      decide (3 < leAt e 1 1) || !zeroAt e 3 1 || bitsOf (leAt e 30 2) 14 12 != 0 || !zeroAt e 0x38 8) 1,
    shiftFail (firstBad 0x1B 0xD (fixedEntries 32 id nr (sec.drop (64 + 64 * np))) fun e => !zeroAt e 3 1 || !zeroAt e 24 8) (1 + np),
    shiftFail (firstBad 0x1B 0xD (fixedEntries 16 id nx (sec.drop (64 + 64 * np + 32 * nr))) fun e => !zeroAt e 3 1) (1 + np + nr)]

/-- R409. -/
def checkPeers (k : Nat) (b : List Byte) (i : Image) : Fail :=
  if (sectOf b 0xD).isNone then none else
  let np := i.peers.peers.length
  leastFail <| peerRaw b ++ [
    need (!peerHeaderBad i.peers && !meetSelf ((peerRegions i.peers).filter fun r => decide (r.1 < r.2)) &&
      !((peerRegions i.peers).take 2).any (hubRegionBad i)) 0x1B 0xD 0,
    shiftFail (firstBad 0x1B 0xD i.peers.peers (peerBad k)) 1,
    shiftFail (firstBadI 0x1B 0xD i.peers.regions (regionBad i)) (1 + np),
    shiftFail (firstBadI 0x1B 0xD i.peers.xchs (xchBad i)) (1 + np + i.peers.regions.length)]

/-- The variable records that the bytes carry are well formed. -/
def recordsOk (b : List Byte) (ty : Nat) : Fail :=
  let r := fun {α : Type} (f : List Byte → Option (α × Nat)) => varRecords f (sectCount b ty) (sectBytes b ty)
  if (sectOf b ty).isNone then none
  else if ty = 5 then leastFail [need (r readOutlier).2 0x17 5 (r readOutlier).1.length, restOk readOutlier b 5 0x17]
  else if ty = 6 then leastFail [need (r readGlaze).2 0x16 6 (r readGlaze).1.length, restOk readGlaze b 6 0x16]
  else if ty = 8 then leastFail [need (r readBias).2 0x1B 8 (r readBias).1.length, restOk readBias b 8 0x1B]
  else leastFail [need (r readAdapter).2 0x1B 9 (r readAdapter).1.length, restOk readAdapter b 9 0x1B]

/-- Code 0x1B. -/
def checkSections (s : State) (k : Nat) (b : List Byte) (i : Image) : Fail :=
  leastFail <| biasCover i ++ [
    recordsOk b 8, firstBadI 0x1B 8 i.biases (biasBad i),
    recordsOk b 9, firstBadI 0x1B 9 i.adapters (adapterBad i),
    checkMicro b i, checkKv s b i, checkDraw s b i, checkPeers k b i]

/-- Codes 0x1C and 0x1D. DEDUCED (log entry 37). -/
def checkDelta (s : State) (k : Nat) (b : List Byte) (i : Image) : Fail :=
  let act := (cxOf s k).active.map (imgOf s)
  firstFail [
    (if i.delta then firstFail [
      need (act.any fun a => a.id == i.base && zeroAt b 0x40 48) 0x1C 0 0,
      ((sectsOf b).mapIdx fun n x => (n, x.ty)).findSome? fun e =>
        if deltaTypes.contains e.2 then none else some (0x1C, e.2 % 256, e.1)] else none),
    (if (leAt b 0x16 2).testBit 1 then need (act.all fun a => a.kv == i.kv) 0x1D 0xB 0 else none)]

/-- R220, step 3: the least failure. A delta of a context without an active image amends nothing, and fails at once; one whose
active image was remapped (R230) names its spares again. DEDUCED (log entry 37). A spare is that of the image, or of another image
that a context holds. DESIGN CHOICE (log entry 109). -/
def checkStep3 (s : State) (k : Nat) (b : List Byte) (i : Image) : Fail :=
  if i.delta && (cxOf s k).active.isNone then some (0x1C, 0, 0) else
  leastFail [
    checkSlices b i,
    firstBad 0x0E 3 (rawEntries b 3 16) (fun e => !placeReservedOk e),
    firstBad 0x0E 3 i.places (fun p => tileOutside s i p.tile || decide (3 < p.layer) || !blockNamed i p),
    firstBadI 0x0F 3 i.places (placeDup i),
    need (blocksPlaced i) 0x0F 3 i.places.length,
    firstBadI 0x10 3 i.places (layerShare i),
    firstBad 0x11 1 (rawEntries b 1 8) (fun e => !clusterReservedOk e),
    firstBadI 0x11 1 i.clusters (fun n c => decide (31 < c.spare) || (i.clusters.take n).any fun d => d.cl == c.cl),
    (if i.delta then none else firstBad 0x11 3 i.places (fun p => p.tile % 32 == spareOf i (clOfTile p.tile) || heldSpare s p.tile)),
    firstBad 0x12 3 i.places (unavailable s k i),
    firstBad 0x13 3 i.places (conflict s k i),
    firstBadI 0x14 3 i.places (rangeSplit i),
    firstBad 0x15 4 (rawEntries b 4 32) (fun e => !routeReservedOk e),
    firstBadI 0x15 4 i.routes (routeBad i),
    need (!i.slices.any (routeMissing i)) 0x15 4 i.routes.length,
    recordsOk b 6,
    checkGlazePlace i,
    recordsOk b 5,
    firstBadI 0x17 5 i.outliers (outlierBad i),
    firstBad 0x18 2 i.slices (modeConflict i),
    firstBad 0x18 4 i.routes (partConflict i),
    checkMem s b i,
    checkCapacity s k b i,
    checkSections s k b i,
    checkDelta s k b i]

/-! ### Step 4: payloads (R214) -/

/-- A levels record breaks R214. -/
def levelsBad (fp4 : Bool) (p : List Nat) : Bool :=
  let top := if fp4 then 7 else 8
  p.any fun b => decide (top < b % 16) || decide (top < b / 16 % 16) || (b % 16 != 0 && b / 16 % 16 != 0)

end Sys2Proof.Machine
end

