-- ==== Sys2Proof/Machine/Image.lean ====
section
/-! DEFINITION. Loading a setting image and its ware (R219 to R225, R232, R267), and the remap of a failed tile (R230). -/

namespace Sys2Proof.Machine

open Sys2Proof

/-! ### Validation failures (R220, R232, R236) -/

/-- A failure of R220 is recorded and logged; the load gives up its claims and completes with VALIDATION. -/
def validationFailed (k : Nat) (f : Nat × Nat × Nat) (s : State) : State :=
  let s := if rb s .SET_ERR 31 then s else
    wr .SET_ERR_ENTRY 0 (BitVec.ofNat 32 f.2.2)
      (wr .SET_ERR 0 (BitVec.ofNat 32 (f.1 + f.2.1 % 256 * 2 ^ 8 + k % 32 * 2 ^ 16 + k / 32 * 2 ^ 21 + 2 ^ 31)) s)
  stopLoad k 0x17 0 (logE { loadEntry s k 5 f.1 f.2.2 with colRow := f.2.1 } s)

/-! ### Microcode (R267) -/

/-- The programs that the store of a cluster holds, as first index and length. -/
def storeProgs (s : State) (cl : Nat) : List (Nat × Nat) :=
  ((s.vctx.filter fun e => e.1 / 4096 == cl && e.2.len != 0).map fun e => (e.2.base, e.2.len)).dedup

/-- The first index above every program of a cluster. DESIGN CHOICE (log entry 39). -/
def storeEnd (s : State) (cl : Nat) : Nat := ((storeProgs s cl).map fun p => p.1 + p.2).foldl max 0

/-- A program moves down to `new`, with the contexts that run it and the errors it holds; its position does not matter (R267). -/
def moveProg (cl old len new : Nat) (s : State) : State :=
  let words := (List.range len).map fun i => tget 0 s.vstore (cl * 16384 + old + i)
  let bad := (List.range len).map fun i => tget 0 s.poisonX (insWord cl (old + i))
  let ctxs := s.vctx.map fun e =>
    if e.1 / 4096 == cl && e.2.base == old && e.2.len == len then
      (e.1, { e.2 with base := new, pc := e.2.pc - old + new, next := e.2.next - old + new }) else e
  { s with vctx := ctxs,
           vstore := foldS (List.range len) (fun i m => tset 0 m (cl * 16384 + new + i) (words.getD i 0)) s.vstore,
           poisonX := foldS (List.range len) (fun i m => tset 0 m (insWord cl (new + i)) (bad.getD i 0)) s.poisonX }

/-- Insertion of a program by its first index. DESIGN CHOICE (log entry 39). -/
def insertProg (p : Nat × Nat) : List (Nat × Nat) → List (Nat × Nat)
  | [] => [p]
  | q :: qs => if p.1 ≤ q.1 then p :: q :: qs else q :: insertProg p qs

/-- The programs of a cluster close up. DESIGN CHOICE (log entry 39). -/
def compactStore (cl : Nat) (s : State) : State :=
  (foldS ((storeProgs s cl).foldr insertProg []) (fun p (a : Nat × State) =>
    (a.1 + p.2, if p.1 = a.1 then a.2 else moveProg cl p.1 p.2 a.1 a.2)) (0, s)).2

/-- A program of an image is placed in the store of a cluster, and the contexts that run it are recorded IDLE.
DESIGN CHOICE (log entry 39). -/
def placeProg (i : Image) (im cl : Nat) (p : ProgE) (s : State) : State :=
  let n := p.words.length
  let s := if storeEnd s cl + n ≤ 16384 then s else compactStore cl s
  let base := storeEnd s cl
  let store := foldS (List.range n) (fun j m => tset 0 m (cl * 16384 + base + j) (p.words.getD j 0)) s.vstore
  foldS ((imgCtxs i).filter fun e => e.1 == cl && e.2.2.1.prog == p.id) (fun e s =>
    let c := e.2.2.1
    let v : VCtx :=
      { im := im, base := base, len := n, entry := c.entry, idx := e.2.2.2,
        slotBase := c.slotBase + e.2.2.2 * c.slotCount, slotCount := c.slotCount }
    modCtx cl e.2.1 (fun _ => v) s)
    { s with vstore := store, poisonX := tdrop (fun k => decide (insWord cl base ≤ k) && decide (k < insWord cl (base + n))) s.poisonX }

/-- A slot descriptor as the loader writes it (R241): PRESENT only where PERSIST. -/
def slotOfDesc (d : Nat) : VSlot :=
  { addr := bitsOf d 16 0, len := bitsOf d 28 17 + 1, fmt := bitsOf d 32 29, present := bitOf d 34, persist := bitOf d 34 }

/-- The MICROCODE section of an image is placed. -/
def placeMicro (im : Nat) (i : Image) (s : State) : State :=
  let s := foldS (ctxClusters i) (fun cl s =>
    let ids := ((i.ctxs.filter fun c => c.cl == cl).map (·.prog)).dedup
    foldS (i.progs.filter fun p => ids.contains p.id) (placeProg i im cl) s) s
  let s := foldS i.slots (fun x s =>
    foldS (x.descs.mapIdx fun n d => (n, d)) (fun e s =>
      modSlot x.cl (x.first + e.1) (fun _ => slotOfDesc e.2)
        { s with poisonX := tset 0 s.poisonX (descWord x.cl (x.first + e.1)) 0 }) s) s
  foldS i.data (fun d s => wrBytes (scratchBase d.cl + d.off) d.bytes s) s

/-! ### The WARE phase (R208 to R210, R223) -/

/-- The sections of an image are written to their places (R223); the values of a delta wait for its activation (R228).
DESIGN CHOICE (log entry 38). -/
def placeSections (k im : Nat) (i : Image) (s : State) : State :=
  let s := placeValues im (fun _ => !i.delta) i s
  if sharesCode s k i then s else placeMicro im i s

/-! ### Tile-layers (R224) -/

/-- A placement of a load is put into its case of R224: shared, retained, or programmed once its payload has come. -/
def prepare (k : Nat) (i : Image) (p : PlaceE) (s : State) : State :=
  let tl := tlKey p.tile p.layer
  if sharedTl s k i p then modLoad k (fun l => { l with todo := tset 0 l.todo tl 4, shared := l.shared + 1 }) s
  else if wearHolds s i p then
    requestProg tl { kind := 2, ctx := k, src := tl } (modLoad k (fun l => { l with todo := tset 0 l.todo tl 1 }) (dropProg tl s))
  else s

/-- The image of a load that passed steps 1 to 3 of R220: its tile-layers are claimed (R221), its sections written.  A placement on
a FAILED tile goes to the spare, which REMAPS does not count. DESIGN CHOICE (log entry 38). -/
def acceptImage (k : Nat) (i : Image) (s : State) : State :=
  match loadOf s k with
  | none => s
  | some l =>
    let places := i.places.map (redirected s i)
    let i := { i with places := places }
    let s := claimTiles i { s with images := tins s.images l.im i }
    let s := modLoad k (fun l => { l with phase := 3, tables := if i.delta then [] else (i.embeds.map (·.1)).dedup }) s
    let s := placeSections k l.im i s
    let s := foldS places (prepare k i) s
    match loadOf s k with
    | none => s
    | some l => loadAdvance k (askPayloads k (payloadsOf l i) s)

/-- A load of the partition that was accepted before the command of slot `h` has still to be validated (R221), or has not started. -/
def earlierLoad (s : State) (pt h : Nat) : Bool :=
  let n := ((cmdOf s h).map (·.order)).getD 0
  s.cmds.any fun e => e.2.op == 1 && e.2.ctx / 32 == pt && decide (e.2.order < n) &&
    (!e.2.run || (loadOf s e.2.ctx).any fun l => l.h == e.1 && decide (l.phase ≤ 2) && l.stop.isNone)

/-- The image of a load, and the signed part of its ware, have been read, or met an uncorrectable error: steps 1 to 3 of R220, for a
ware of at most `len` bytes. The loads of the partition that wait for their turn go on (R221). -/
def validate (k h len : Nat) (img ware : List Byte) (err : Bool) (s : State) : State :=
  let s := modLoad k (fun l => { l with phase := 2, id := if err then 0 else leAt img 0x18 16 }) s
  let s := enterLoad k s
  freeRoom (· == loadTurn (k / 32)) <|
    if err then failLoad k 0x1A 0 s
    else
      let i := readImage img ware (((cxOf s k).active.map (imgOf s)).getD {})
      match checkStep1 s k img <|> checkStep2 s len ware i <|> checkStep3 s k img i with
      | some f => validationFailed k f s
      | none => acceptImage k i s

/-- The image of a load, and the signed part of its ware, as they stand in device memory (R222): where, and how many bytes of them. -/
def imagePlace (c : Cmd) : Nat × Nat := (c.u 0x10 8, c.u 0x18 8)
def warePlace (s : State) (c : Cmd) : Nat × Nat := (c.u 0x20 8, min (c.u 0x28 8) (ofBytesLE (rdBytes s (c.u 0x20 8 + 0x30) 8) + 128))

/-- What stands in device memory, and whether the read of it met an uncorrectable error. -/
def devRead (s : State) (r : Nat × Nat) : List Byte × Bool := (rdBytes s r.1 r.2, anyPoison s r.1 r.2)

/-- A delta has no ware of its own (R228). -/
def imgDelta (img : List Byte) : Bool := (leAt img 0x16 2).testBit 0

/-- The signed part of a ware is asked of a peer: record 0 (R411, R413), which belongs to VALIDATE (R223).
DESIGN CHOICE (log entry 38). -/
def askSigned (k h : Nat) (l : Load) (img : List Byte) (s : State) : State :=
  let i := readImage img [] (((cxOf s k).active.map (imgOf s)).getD {})
  match checkStep1 s k img with
  | some _ => validate k h 0 img [] false s
  | none =>
    if i.delta then validate k h 0 img [] false (modLoad k (fun l => { l with peers := i.peers }) s) else
    let s := setupPeer k l.peer i.peers (modLoad k (fun l => { l with phase := 2, id := i.id, peers := i.peers,
                                                                      raw := img.map (·.toNat), digest := i.wareDigest }) s)
    putAsk k h (i.peers.peers.getD l.peer {}).localQpn 1 1 [i.wareDigest, 0, 1] (enterLoad k s)

/-- What a LOAD reads from device memory is not admitted (R292): the access is recorded (R300, R455) and the load stops.
DESIGN CHOICE (log entry 38). -/
def refuseLoad (k : Nat) (v : Nat × Nat) (s : State) : State := failLoad k 3 0 (addrViolation v.1 v.2 0 3 false s)

/-- What a LOAD reads from device memory lies where a unit is down or behind a closed crossing: the load stops with FENCED (R355, R480). -/
def fencedLoad (k : Nat) (r : Nat × Nat) (s : State) : State := failLoad k stFenced 0 (hubXreset r.1 r.2 s)

/-- The image has been read from its source, of which IMG_LEN bytes count; the signed part of the ware is read from its own, of which
WARE_LEN bytes do (R353), or asked of a peer. -/
def imageRead (h : Nat) (d : Cmd) (l : Load) (img ware : List Byte) (err : Bool) (s : State) : State :=
  let k := d.ctx
  let a := d.u 0x20 8
  let len := d.u 0x28 8
  let dev := (d.u 0x30 1).testBit 0
  let x := if dev then devRead s (imagePlace d) else (img.take (d.u 0x18 8), err)
  if dev && (hubDown s (imagePlace d).1 (imagePlace d).2).isSome then fencedLoad k (imagePlace d) s
  else if x.2 || imgDelta x.1 then validate k h len x.1 [] x.2 s
  else if l.src = 2 then askSigned k h l x.1 s
  else if l.src = 1 then
    match hubDma s d.fn (k / 32) a len with
    | some v => refuseLoad k v s
    | none =>
      let w := warePlace s d
      if (hubDown s w.1 w.2).isSome then fencedLoad k w s
      else validate k h len x.1 (devRead s w).1 (devRead s w).2 s
  else
    let w := ware.take len
    validate k h len x.1 w err (emit (.hostRead d.fn a (min len (leAt w 0x30 8 + 128))) s)

/-- LOAD_IMAGE_FETCHED (R219, R220, R222, R232): the bytes of the image and of the ware's header, directory and signature as they
were read from host memory, or an uncorrectable error met there; what stands in device memory is read here, and what a peer holds is
asked of it.  The load waits for those of the partition that were accepted before it (R221). DESIGN CHOICE (log entry 38). -/
def execLoadImageFetched (h : Nat) (img ware : List Byte) (err : Bool) (s : State) : Out :=
  let c := Instr.loadImageFetched h img ware err
  done <| withhold 48 (boundary 320 h) c (fun s =>
    match (cmdOf s h).bind fun c => (loadOf s c.ctx).map fun l => (c, l) with
    | none => s
    | some (d, l) =>
      if l.h != h || l.phase != 1 || l.stop.isSome then s
      else if earlierLoad s (d.ctx / 32) h then park (loadTurn (d.ctx / 32)) 48 (boundary 320 h) c s
      else imageRead h d l img ware err s) s

/-! ### Payloads (R214, R215, R225) -/

/-- The canonical array of a code or levels payload. -/
def payloadCodes (r : WareRec) (fp4 : Bool) (p : List Nat) : List Byte :=
  canonArray (payloadCode r.kind r.rows r.cols fp4 p)

/-- A code payload fails its digest. -/
def digestBad (r : WareRec) (fp4 : Bool) (p : List Nat) : Bool :=
  p.length != payloadLen r || canonDigest fp4 r.rows r.cols (payloadCodes r fp4 p) != r.digest

/-- The codes of a tile-layer whose payload has been checked go to the shadow, and its program operation is asked for; a
refusal for wear stops the load (R186, R225). -/
def programTl (k : Nat) (i : Image) (p : PlaceE) (pl : List Nat) (s : State) : State :=
  let tl := tlKey p.tile p.layer
  let r := recOf i p
  let s := putShadow tl k (placeFp4 i p) r.rows r.cols r.digest (payloadCodes r (placeFp4 i p) pl) s
  if wornOut s tl then failLoad k 0x18 (tl + 1) (refuseProg tl s)
  else loadMark k tl 2 id (requestProg tl { kind := 0, ctx := k, src := tl } (dropProg tl s))

/-- The tile-layers of a load that a record serves. -/
def placesOfRec (l : Load) (i : Image) (rec : Nat) : List PlaceE :=
  i.places.filter fun p => p.record == rec && tget 0 l.todo (tlKey p.tile p.layer) == 0

/-- The payload of a record arrives for the load of a context. -/
def payloadFor (k rec : Nat) (pl : List Nat) (err : Bool) (s : State) : State :=
  match loadOf s k with
  | none => s
  | some l =>
    let i := imgOf s l.im
    let r := i.ware.getD rec {}
    let ps := placesOfRec l i rec
    if l.phase < 3 || l.stop.isSome || (ps.isEmpty && !l.tables.contains rec) then s
    else if err then failLoad k 0x1A 0 s
    else if r.kind = 3 then
      if pl.length != payloadLen r || (Config.sha384 pl).toNat != r.digest then validationFailed k (0x0B, 0xFF, rec) s
      else
        let s := foldS (i.embeds.filter fun e => e.1 == rec) (fun e => wrBytes e.2 (pl.map (BitVec.ofNat 8))) s
        loadAdvance k (progress l.h (modLoad k (fun l => { l with tables := l.tables.filter (· != rec) }) s))
    else if ps.any fun p => digestBad r (placeFp4 i p) pl then validationFailed k (0x0B, 0xFF, rec) s
    else if r.kind = 2 && ps.any (fun p => levelsBad (placeFp4 i p) pl) then validationFailed k (0x0C, 0xFF, rec) s
    else foldS ps (fun p => programTl k i p pl) s

/-- A payload arrives for a load, and for those that share its read. -/
def payloadArrives (k rec : Nat) (pl : List Nat) (err : Bool) (s : State) : State :=
  match loadOf s k with
  | none => s
  | some l => foldS (if l.phase = 3 then k :: sharers s k l else [k]) (fun k => payloadFor k rec pl err) s

/-! ### Findings' outcome (R510, R525) -/

/-- The outcome of a finding on a unit (`lg` its layer and column group): shown and signalled while the finding registers
hold the finding, and logged (R654, CHECK 8). -/
def findOutcome (kind index lg oc : Nat) (s : State) : State :=
  let i := (rd s .CHK_FIND_INFO).toNat
  let s := if i.testBit 31 && bitsOf i 7 4 == kind && bitsOf i 21 8 == index && bitsOf i 26 22 == lg &&
      bitsOf i 29 27 != oc then signalVec .CHK_EVT_VEC (wrf .CHK_FIND_INFO 29 27 oc 0 s) else s
  logE { cls := 5, code := 8, sev := 1, kind := kind, index := index, layer := lg % 4, data := [0, 0, 0, oc] } s

/-- The layer and column group of a finding, as CHK_FIND_INFO holds them. -/
def Finding.lg (f : Finding) : Nat := if f.chain then 0 else f.unit % 4 + 4 * f.group

/-- Findings on a tile that has been marked FAILED end with an outcome. -/
def closeFailedFinding (tile oc : Nat) (s : State) : State :=
  let mine := fun (f : Finding) => !f.chain && f.unit / 4 == tile && f.step == 4
  foldS (s.findings.filter mine) (fun f => findOutcome 0 tile f.lg oc)
    { s with findings := s.findings.filter fun f => !mine f }

/-! ### Remap to a spare tile (R230) -/

/-- The context and the active image that place a tile, where that image has ALLOW_REMAP and the cluster's spare is SPARE. -/
def remapTo (s : State) (tile : Nat) : Option (Nat × Nat × Nat) :=
  s.ctxs.findSome? fun e => match e.2.active with
    | some im =>
      let i := imgOf s im
      let sp := clOfTile tile * 32 + spareOf i (clOfTile tile)
      if i.allowRemap && i.places.any (fun p => p.tile == tile) && rf s .TILE_CFG 2 0 sp == 2 && sp != tile then
        some (e.1, im, sp) else none
    | none => none

/-- The loader programs each VALID layer of the failed tile onto the same layer of the spare; the remap is suspended while a shadow
it needs is not VALID (R295). DESIGN CHOICE (log entry 36). -/
def startRemap (tile : Nat) (s : State) : State :=
  match remapTo s tile with
  | none => s
  | some (k, im, sp) =>
    let ls := (List.range 4).filter fun l => tlValid s tile l
    if ls.any fun l => shadowBad s (tlKey tile l) then s
    else if ls.any fun l => wornOut s (tlKey sp l) then
      foldS (ls.filter fun l => wornOut s (tlKey sp l)) (fun l => refuseProg (tlKey sp l)) s
    else
      let s := foldS ls (fun l s =>
        requestProg (tlKey sp l) { kind := 3, ctx := k, src := tlKey tile l } (dropProg (tlKey tile l) s)) s
      { s with remaps := s.remaps ++ [{ tile := tile, spare := sp, im := im, ctx := k, layers := ls }] }

/-- The placements of an image that name a tile name the spare instead. -/
def redirectImg (tile sp : Nat) (i : Image) : Image :=
  let places := i.places.map fun p => if p.tile = tile then { p with tile := sp } else p
  { i with places := places }

/-- What the device keeps of a layer passes from the failed tile to the spare. DESIGN CHOICE (log entry 36). -/
def moveLayer (tile sp l : Nat) (s : State) : State :=
  let o := tlKey tile l
  let n := tlKey sp l
  let s := loaderLcfg n (rd s .TILE_LCFG o) none s
  let s := match shadowOf s o with
    | some x => { s with shadow := tins (tdel s.shadow o) n x }
    | none => s
  clearValid none o s

/-- REMAP_COMPLETE (R230): every layer has been programmed onto the spare and calibrated; placements naming the failed tile
are redirected and the spare is ACTIVE.  REMAPS wraps to 0 after 0xFFFF: R237 does not say. DESIGN CHOICE (log entry 36). -/
def execRemapComplete (tile : Nat) (s : State) : Out :=
  done <| match s.remaps.find? fun r => r.tile == tile with
    | none => s
    | some r =>
      if r.layers.any fun l => (progOf s (tlKey r.spare l)).isSome then s
      else
        let s := foldS r.layers (moveLayer tile r.spare) s
        let imgs := s.images.map fun e => (e.1, redirectImg tile r.spare e.2)
        let s := setTileState r.spare 1 { s with images := imgs, remaps := s.remaps.filter fun x => x.tile != tile }
        let s := wrf .SET_REMAP_CNT 15 0 (rf s .SET_REMAP_CNT 15 0 + 1) 0 s
        let e : LogEntry := { cls := 0x0A, code := 4, sev := 2, pt := r.ctx / 32, func := r.ctx % 32, source := 1, kind := 0, index := tile,
                              object := r.spare, data := imgData s r.im 0 0 }
        closeFailedFinding tile 3 (logE e s)

end Sys2Proof.Machine
end

