-- ==== Sys2Proof/Machine/VecIsa.lean ====
section
/-! DEFINITION. The vector instructions that run on the lanes (R253 to R262, R653, R657). -/

namespace Sys2Proof.Machine

open Sys2Proof

/-! ### Operands (R254, R657) -/

/-- A source of a floating-point instruction widened to FP32: exact but for INT32, which is rounded under RM (R254). -/
def widen (rm : Rm) (f : Fmt) (b : Nat) : Val :=
  if f = .int32 then (toF32 rm (decode f b)).1 else decode f b

/-- A format that floating-point instructions take: every one but the scale encoding (R254). -/
def fpOk (f : Fmt) : Bool := f != .e8m0

/-- The element of a source at an index; a one-element source is broadcast (R657). -/
def elemOf (o : Opnd) (i : Nat) : Nat := if o.vals.length = 1 then o.vals.getD 0 0 else o.vals.getD i 0

/-- A source is as long as the destination, or one element long (R657). -/
def lenOk (o : Opnd) (n : Nat) : Bool := o.vals.length == n || o.vals.length == 1

/-- The results of a list of conversions, with the flags of all. -/
def collect (rs : List (Nat × Fl)) : VRes := { d := rs.map (·.1), fl := (rs.map (·.2)).foldl Fl.or {} }

/-- An elementwise floating-point instruction: the value formed as if exactly and rounded once into D (R254, R657). -/
def elementwise (nsrc : Nat) (f : Rm → Val → Val → Val → Val × Fl) (e : VEnv) : Except Nat VRes :=
  let os := [e.a, e.b, e.c].take nsrc
  if !(fpOk e.dFmt && os.all fun o => fpOk o.fmt) then .error fFmt
  else if !os.all (lenOk · e.dLen) then .error fLen
  else
    let rm := e.ins.rm
    .ok (collect ((List.range e.dLen).map fun i =>
      let v := fun (o : Opnd) => widen rm o.fmt (elemOf o i)
      let r := f rm (v e.a) (v e.b) (v e.c)
      let w := encode e.dFmt rm r.1
      (w.1, r.2.or w.2)))

/-- An integer instruction: the exact result saturated into D (R254). -/
def integerwise (f : Int → Int → Int) (e : VEnv) : Except Nat VRes :=
  if !(e.dFmt.isInt && e.a.fmt.isInt && e.b.fmt.isInt) then .error fFmt
  else if !(lenOk e.a e.dLen && lenOk e.b e.dLen) then .error fLen
  else .ok (collect ((List.range e.dLen).map fun i =>
    satInt e.dFmt (f (sxt e.a.fmt.width (elemOf e.a i)) (sxt e.b.fmt.width (elemOf e.b i)))))

/-! ### Elementwise arithmetic (R255) -/

/-- VADD. -/
def execVadd (cl ctx : Nat) (s : State) : Out :=
  done (lanes 0x10 2 1 false (elementwise 2 fun rm a b _ => addV rm a b) cl ctx s)

/-- VSUB. -/
def execVsub (cl ctx : Nat) (s : State) : Out :=
  done (lanes 0x11 2 1 false (elementwise 2 fun rm a b _ => addV rm a (negV b)) cl ctx s)

/-- VMUL. -/
def execVmul (cl ctx : Nat) (s : State) : Out :=
  done (lanes 0x12 2 1 false (elementwise 2 fun _ a b _ => mulV a b) cl ctx s)

/-- VFMA: one rounding. -/
def execVfma (cl ctx : Nat) (s : State) : Out :=
  done (lanes 0x13 3 1 false (elementwise 3 fun rm a b c => fmaV rm a b c) cl ctx s)

/-- The larger of two values: +0 above −0, NaN where either is NaN (VMAX). -/
def maxV (a b : Val) : Val :=
  if a.isNan || b.isNan then .nan
  else if ltV a b || (a.isZero && b.isZero && a.sign) then b else a

/-- VMAX. -/
def execVmax (cl ctx : Nat) (s : State) : Out :=
  done (lanes 0x14 2 1 false (elementwise 2 fun _ a b _ => (maxV a b, {})) cl ctx s)

/-- The smaller of two values, as VMAX. -/
def minV (a b : Val) : Val :=
  if a.isNan || b.isNan then .nan
  else if ltV b a || (a.isZero && b.isZero && b.sign) then b else a

/-- VMIN. -/
def execVmin (cl ctx : Nat) (s : State) : Out :=
  done (lanes 0x15 2 1 false (elementwise 2 fun _ a b _ => (minV a b, {})) cl ctx s)

/-- VABS. -/
def execVabs (cl ctx : Nat) (s : State) : Out :=
  done (lanes 0x16 1 1 false (elementwise 1 fun _ a _ _ => (absV a, {})) cl ctx s)

/-- VNEG. -/
def execVneg (cl ctx : Nat) (s : State) : Out :=
  done (lanes 0x17 1 1 false (elementwise 1 fun _ a _ _ => (negV a, {})) cl ctx s)

/-- VCVT (R254, R653): A scaled by 2^IMM and rounded once; between two integer formats without passing through FP32; to
and from E8M0. -/
def vcvt (e : VEnv) : Except Nat VRes :=
  if !lenOk e.a e.dLen then .error fLen
  else
    let rm := e.ins.rm
    .ok (collect ((List.range e.dLen).map fun i =>
      let b := elemOf e.a i
      let v := if e.dFmt.isInt && e.a.fmt.isInt then decode e.a.fmt b else widen rm e.a.fmt b
      encode e.dFmt rm (scaleVal v (-e.ins.imm))))

/-- VCVT. -/
def execVcvt (cl ctx : Nat) (s : State) : Out := done (lanes 0x18 1 1 false vcvt cl ctx s)

/-- VMOV: elements XA onwards of A, bits unchanged, equal formats. -/
def vmov (e : VEnv) : Except Nat VRes :=
  if e.a.fmt != e.dFmt || !fpOk e.a.fmt then .error fFmt
  else if e.a.vals.length < e.xa + e.dLen then .error fElem
  else .ok { d := (List.range e.dLen).map fun i => e.a.vals.getD (e.xa + i) 0 }

/-- VMOV. -/
def execVmov (cl ctx : Nat) (s : State) : Out := done (lanes 0x19 1 1 false vmov cl ctx s)

/-- VIADD. -/
def execViadd (cl ctx : Nat) (s : State) : Out := done (lanes 0x38 2 1 true (integerwise fun a b => a + b) cl ctx s)

/-- VIMUL. -/
def execVimul (cl ctx : Nat) (s : State) : Out := done (lanes 0x39 2 1 true (integerwise fun a b => a * b) cl ctx s)

/-! ### Transcendental functions (R258)

The exact value is enclosed by integer arithmetic on 160 or more bits, and the result is a free choice among the FP32 numbers
within the bound that R258 gives about it. -/

/-- A free choice among `n` values. -/
def choose (op x y n : Nat) : Nat := Config.transc op x y % n

/-- An FP32 word: the magnitude code `k`, with a sign; a code at or beyond infinity is an overflow. -/
def magWord (neg : Bool) (k : Nat) : Nat × Fl :=
  if 0x7F800000 ≤ k then (packMag .fp32 neg 0x7F800000, { of := true })
  else (packMag .fp32 neg k, { uf := decide (k < 0x800000) })

/-- The code of the largest FP32 magnitude not above a fraction. -/
def floorCode (num den : Nat) : Nat :=
  let r := roundGrid .rtz false num den 23 (-149)
  (r.2.1 + 149).toNat * 2 ^ 23 + r.1

/-- A result within `b` ulp of an exact value whose magnitude lies in `[k, k + 1)`, or is `k`; one below the normal numbers
within 2^−149. DESIGN CHOICE (log entry 10). -/
def pickUlp (op x y b k : Nat) (exact : Bool) : Nat :=
  let b := if k < 0x800000 then 1 else b
  if exact then k + choose op x y (2 * b + 1) - b else k + 1 + choose op x y (2 * b) - b

/-- 1 / A within 1 ulp: one of the two FP32 numbers about the exact value. DESIGN CHOICE (log entry 10). -/
def rcp32 (v : Val) : Nat × Fl :=
  match v with
  | .nan => (nan32, {})
  | .inf n => (packMag .fp32 n 0, {})
  | .fin n m e =>
    if m = 0 then (packMag .fp32 n 0x7F800000, { dz := true }) else
    let x := scale2 1 m e
    let k := floorCode x.1 x.2
    let exact := (decode .fp32 k).frac
    if exact.1 * x.2 = x.1 * exact.2 then magWord n k |>.1 |> fun w => (w, {})
    else magWord n (k + choose 0x20 m (b2n n) 2)

/-- The integer square root by bits from `b` down. -/
def sqrtAux (n : Nat) : Nat → Nat → Nat
  | 0, r => r
  | b + 1, r => sqrtAux n b (if (r + 2 ^ b) * (r + 2 ^ b) ≤ n then r + 2 ^ b else r)

/-- 1 / √A within 1 ulp: one of the two FP32 numbers about the exact value, which is normal for every positive A.
DESIGN CHOICE (log entry 10). -/
def rsq32 (v : Val) : Nat × Fl :=
  match v with
  | .nan => (nan32, {})
  | .inf true => (nan32, { nv := true })
  | .inf false => (0, {})
  | .fin n m e =>
    if m = 0 then (packMag .fp32 n 0x7F800000, { dz := true })
    else if n then (nan32, { nv := true })
    else
      -- floor of 2^120 / √(m 2^e), from the square root of 2^240 / (m 2^e)
      let x := scale2 (2 ^ 240) m e
      let r := sqrtAux (x.1 / x.2) 200 0
      let k := floorCode r (2 ^ 120)
      if r * r * x.2 = x.1 && (decode .fp32 k).frac.1 * 2 ^ 120 == r * (decode .fp32 k).frac.2 then (k, {})
      else (k + choose 0x21 m e.natAbs 2, {})

/-- 2^(F / 2^160) as a number of 2^160, from the bits of F. -/
def exp2Frac (f : Nat) : Nat :=
  (List.range 160).foldl (fun r j => sqrtAux ((if f.testBit j then 2 * r else r) * 2 ^ 160) 162 0) (2 ^ 160)

/-- 2^A within 2 ulp: overflow from 128 on, and below −160 a value under half the smallest subnormal.
DESIGN CHOICE (log entry 10). -/
def exp2w (v : Val) : Nat × Fl :=
  match v with
  | .nan => (nan32, {})
  | .inf true => (0, {})
  | .inf false => (0x7F800000, {})
  | .fin n m e =>
    let key := e.natAbs * 2 + b2n n
    if !ltV v (.fin false 128 0) then (0x7F800000, { of := true })
    else if ltV v (.fin true 160 0) then (pickUlp 0x22 m key 2 0 false, { uf := true })
    else
      let a := scale2 (m * 2 ^ 160) 1 (-e)
      let t : Int := if n then -((a.1 / a.2 : Nat) : Int) else ((a.1 / a.2 : Nat) : Int)
      let i := t / 2 ^ 160
      let f := (t % 2 ^ 160).toNat
      let x := scale2 (exp2Frac f) (2 ^ 160) (-i)
      let r := magWord false (pickUlp 0x22 m key 2 (floorCode x.1 x.2) (f == 0))
      if f = 0 && decide (-149 ≤ i) && floorCode x.1 x.2 == r.1 then (r.1, {}) else r

/-- The first 100 binary places of the logarithm of a number of 2^256 from 1 to 2. -/
def log2Frac (y : Nat) : Nat :=
  ((List.range 100).foldl (fun (p : Nat × Nat) _ =>
    let q := p.2 * p.2 / 2 ^ 256
    if 2 ^ 257 ≤ q then (2 * p.1 + 1, q / 2) else (2 * p.1, q)) (0, y)).1

/-- log2 A within 2 ulp; of 1, whose logarithm is no normal number, within 2^−149. DESIGN CHOICE (log entry 10). -/
def log2w (v : Val) : Nat × Fl :=
  match v with
  | .nan => (nan32, {})
  | .inf true => (nan32, { nv := true })
  | .inf false => (0x7F800000, {})
  | .fin n m e =>
    if m = 0 then (0xFF800000, { dz := true })
    else if n then (nan32, { nv := true })
    else
      let l := Nat.log2 m
      let exact := 2 ^ l == m
      let t : Int := ((l : Int) + e) * 2 ^ 100 + (log2Frac (m * 2 ^ 256 / 2 ^ l) : Nat)
      if t = 0 then ([0, 1, 0x80000001].getD (choose 0x23 m e.natAbs 3) 0, {}) else
      let neg := decide (t < 0)
      let a := if neg && !exact then t.natAbs - 1 else t.natAbs
      (packMag .fp32 neg (pickUlp 0x23 m e.natAbs 2 (floorCode a (2 ^ 100)) exact), {})

/-- log2 e as a number of 2^160. -/
def log2e160 : Nat := 0x171547652b82fe1777d0ffda0d23a7d11d6aef551

/-- e^|A| as a fraction, for |A| up to 512; beyond it e^512, which no FP32 result tells apart, not even one scaled by two operands. -/
def expAbs (m : Nat) (e : Int) : Nat × Nat :=
  let a := scale2 m 1 (-e)
  let a := if 512 * a.2 < a.1 then (512, 1) else a
  let t := a.1 * log2e160 / a.2
  (exp2Frac (t % 2 ^ 160) * 2 ^ (t / 2 ^ 160), 2 ^ 160)

/-- The sigmoid of a finite A as a fraction. -/
def sigFrac (n : Bool) (m : Nat) (e : Int) : Nat × Nat :=
  let u := expAbs m e
  (if n then u.2 else u.1, u.1 + u.2)

/-- The logistic sigmoid of A, within 3 ulp. DESIGN CHOICE (log entry 10). -/
def sigw (v : Val) : Nat × Fl :=
  match v with
  | .nan => (nan32, {})
  | .inf n => (if n then 0 else 0x3F800000, {})
  | .fin n m e =>
    let x := sigFrac n m e
    magWord false (pickUlp 0x24 m (e.natAbs * 2 + b2n n) 3 (floorCode x.1 x.2) (m == 0))

/-- A × VSIG(A) × B, of the sign of A × B, within 4 ulp. DESIGN CHOICE (log entry 10). -/
def siluw (a b : Val) : Nat × Fl :=
  let inf := fun (n : Bool) =>
    let r := mulV (if n then .fin true 0 0 else .inf false) b
    ((encode .fp32 .rne r.1).1, r.2)
  match a, b with
  | .nan, _ => (nan32, {})
  | _, .nan => (nan32, {})
  | .inf n, _ => inf n
  | .fin n m _, .inf k => if m = 0 then (nan32, { nv := true }) else (packMag .fp32 (n != k) 0x7F800000, {})
  | .fin n m e, .fin k p g =>
    if m = 0 ∨ p = 0 then (packMag .fp32 (n != k) 0, {})
    else
      let x := sigFrac n m e
      let y := scale2 (x.1 * m * p) x.2 (-(e + g))
      magWord (n != k) (pickUlp 0x25 (m * 2 ^ 10 + e.natAbs) (p * 2 ^ 10 + g.natAbs) 4 (floorCode y.1 y.2) false)

/-- A transcendental instruction: the FP32 value of the operands' FP32 words, then rounded into a narrower D under RM (R258). -/
def transc (nsrc : Nat) (f : Val → Val → Nat × Fl) (e : VEnv) : Except Nat VRes :=
  let os := [e.a, e.b].take nsrc
  if !(fpOk e.dFmt && os.all fun o => fpOk o.fmt) then .error fFmt
  else if !os.all (lenOk · e.dLen) then .error fLen
  else
    let rm := e.ins.rm
    .ok (collect ((List.range e.dLen).map fun i =>
      let v := fun (o : Opnd) => (toF32 rm (widen rm o.fmt (elemOf o i))).1
      let r := f (v e.a) (v e.b)
      if e.dFmt = .fp32 then r else
        let w := encode e.dFmt rm (decode .fp32 r.1)
        (w.1, r.2.or w.2)))

/-- VRCP. -/
def execVrcp (cl ctx : Nat) (s : State) : Out := done (lanes 0x20 1 1 false (transc 1 fun a _ => rcp32 a) cl ctx s)

/-- VRSQ. -/
def execVrsq (cl ctx : Nat) (s : State) : Out := done (lanes 0x21 1 1 false (transc 1 fun a _ => rsq32 a) cl ctx s)

/-- VEXP2. -/
def execVexp2 (cl ctx : Nat) (s : State) : Out := done (lanes 0x22 1 1 false (transc 1 fun a _ => exp2w a) cl ctx s)

/-- VLOG2. -/
def execVlog2 (cl ctx : Nat) (s : State) : Out := done (lanes 0x23 1 1 false (transc 1 fun a _ => log2w a) cl ctx s)

/-- VSIG. -/
def execVsig (cl ctx : Nat) (s : State) : Out := done (lanes 0x24 1 1 false (transc 1 fun a _ => sigw a) cl ctx s)

/-- VSILU. -/
def execVsilu (cl ctx : Nat) (s : State) : Out := done (lanes 0x25 2 1 false (transc 2 siluw) cl ctx s)

/-! ### Rotary position and block-scaled conversion (R259, R260) -/

/-- A fused multiply-add rounded to FP32 under RNE. -/
def fma32 (x y z : Val) : Val × Fl :=
  let r := fmaV .rne x y z
  let w := toF32 .rne r.1
  (w.1, r.2.or w.2)

/-- A product rounded to FP32 under RNE. -/
def mul32 (x y : Val) : Val × Fl :=
  let r := mulV x y
  let w := toF32 .rne r.1
  (w.1, r.2.or w.2)

/-- A sum rounded to FP32 under RNE. -/
def add32 (x y : Val) : Val × Fl :=
  let r := addV .rne x y
  let w := toF32 .rne r.1
  (w.1, r.2.or w.2)

/-- VROPE (R259). -/
def vrope (e : VEnv) : Except Nat VRes :=
  let n := e.dLen
  if !(fpOk e.dFmt && fpOk e.a.fmt && fpOk e.b.fmt) then .error fFmt
  else if n % 2 != 0 || e.a.vals.length != n || e.b.vals.length != n then .error fLen
  else
    let rm := e.ins.rm
    .ok (collect ((List.range (n / 2)).flatMap fun i =>
      let va := fun k => widen rm e.a.fmt (e.a.vals.getD k 0)
      let vb := fun k => widen rm e.b.fmt (e.b.vals.getD k 0)
      let c := vb (2 * i)
      let t := vb (2 * i + 1)
      let p := mul32 (va (2 * i + 1)) t
      let q := mul32 (va (2 * i + 1)) c
      let x := fma32 (va (2 * i)) c (negV p.1)
      let y := fma32 (va (2 * i)) t q.1
      let u := encode e.dFmt rm x.1
      let w := encode e.dFmt rm y.1
      [(u.1, (p.2.or x.2).or u.2), (w.1, (q.2.or y.2).or w.2)]))

/-- VROPE. -/
def execVrope (cl ctx : Nat) (s : State) : Out := done (lanes 0x28 2 1 false vrope cl ctx s)

/-- The largest finite value that VBSCL scales to (R260); none for a format it does not take. -/
def bsclMax (f : Fmt) : Option Nat :=
  match f with
  | .e4m3 => some 448 | .e5m2 => some 57344 | .fp4 => some 6 | .int4 => some 7 | .int8 => some 127
  | .fp16 | .bf16 | .fp32 | .int16 | .int32 | .e8m0 => none

/-- The larger magnitude of two finite values. -/
def maxAbs (a b : Val) : Val := if ltV (absV a) (absV b) then absV b else absV a

/-- One group of VBSCL: its scale code, its codes and its flags (R260). The codes of an all-zero group, and of one with NaN or ±∞, are
0x00 for every element, one of −0 too. DESIGN CHOICE (log entry 11). -/
def bsclGroup (f : Fmt) (top : Nat) (vs : List Val) : Nat × List Nat × Fl :=
  if vs.any fun v => !v.isFin then (0xFF, vs.map fun _ => 0, { nv := true })
  else
    let amax := (vs.foldl maxAbs .zero).frac
    if amax.1 = 0 then (0, vs.map fun _ => 0, {})
    else
      let k := max (-127) (min 127 (ceilLog2 amax.1 (amax.2 * top)))
      let rs := vs.map fun v => encode f .rne (scaleVal v k)
      ((k + 127).toNat, rs.map (·.1), (rs.map (·.2)).foldl Fl.or {})

/-- Consecutive groups of `n` elements. -/
def chunks (n count : Nat) (xs : List Val) : List (List Val) := (List.range count).map fun g => (xs.drop (g * n)).take n

/-- VBSCL (R260). DESIGN CHOICE (log entry 11). -/
def vbscl (e : VEnv) : Except Nat VRes :=
  let g := 2 ^ (toTwos 13 e.ins.imm % 16)
  match bsclMax e.dFmt with
  | none => .error fFmt
  | some top =>
    if e.cFmt != .e8m0 || !fpOk e.a.fmt then .error fFmt
    else if e.a.vals.length != e.dLen || e.a.vals.length % g != 0 || e.cLen != e.a.vals.length / g then .error fLen
    else
      let rs := (chunks g e.cLen (e.a.vals.map (widen .rne e.a.fmt))).map (bsclGroup e.dFmt top)
      .ok { d := rs.flatMap (·.2.1), c := rs.map (·.1), fl := (rs.map (·.2.2)).foldl Fl.or {} }

/-- VBSCL. -/
def execVbscl (cl ctx : Nat) (s : State) : Out := done (lanes 0x2C 1 2 false vbscl cl ctx s)

/-! ### Reductions (R256, R257) -/

/-- The sum of a lane: its elements in ascending order from +0, each joined by `f`. DESIGN CHOICE (log entry 11). -/
def laneSum (f : Val → Nat → Val × Fl) (n l : Nat) : Val × Fl :=
  ((List.range n).filter fun i => i % 64 == l).foldl (fun acc i => let r := f acc.1 i; (r.1, acc.2.or r.2))
    (.fin false 0 0, {})

/-- One level of the tree: sum 2i is added to sum 2i + 1. -/
def treeLevel : List (Val × Fl) → List (Val × Fl)
  | a :: b :: xs => (let r := add32 a.1 b.1; (r.1, (a.2.or b.2).or r.2)) :: treeLevel xs
  | xs => xs

/-- The tree of six levels over 64 lane sums. -/
def treeSum (xs : List (Val × Fl)) : Val × Fl :=
  (treeLevel (treeLevel (treeLevel (treeLevel (treeLevel (treeLevel xs)))))).headD (.fin false 0 0, {})

/-- A reduction to element 0 of D in the fixed order of R256. -/
def reduce (n : Nat) (f : Val → Nat → Val × Fl) (e : VEnv) : VRes :=
  let r := treeSum ((List.range 64).map (laneSum f n))
  let w := encode e.dFmt e.ins.rm r.1
  { d := [w.1], fl := r.2.or w.2 }

/-- VRSUM (R256). -/
def vrsum (e : VEnv) : Except Nat VRes :=
  if !(fpOk e.dFmt && fpOk e.a.fmt) then .error fFmt
  else .ok (reduce e.a.vals.length (fun acc i => add32 acc (widen e.ins.rm e.a.fmt (e.a.vals.getD i 0))) e)

/-- VRSUM. -/
def execVrsum (cl ctx : Nat) (s : State) : Out := done (lanes 0x30 1 1 false vrsum cl ctx s)

/-- VDOT (R256, R657). -/
def vdot (e : VEnv) : Except Nat VRes :=
  if !(fpOk e.dFmt && fpOk e.a.fmt && fpOk e.b.fmt) then .error fFmt
  else if !lenOk e.b e.a.vals.length then .error fLen
  else .ok (reduce e.a.vals.length (fun acc i =>
    fma32 (widen e.ins.rm e.a.fmt (e.a.vals.getD i 0)) (widen e.ins.rm e.b.fmt (elemOf e.b i)) acc) e)

/-- VDOT. -/
def execVdot (cl ctx : Nat) (s : State) : Out := done (lanes 0x31 2 1 false vdot cl ctx s)

/-- The lowest index at which the largest of the values stands. -/
def argMax (vs : List Val) : Nat :=
  ((List.range vs.length).foldl (fun b i => if ltV (vs.getD b .nan) (vs.getD i .nan) then i else b) 0)

/-- VRMAX (R257): the index goes to the scalar register that C[3:0] names. -/
def vrmax (e : VEnv) : Except Nat VRes :=
  if !(fpOk e.dFmt && fpOk e.a.fmt) then .error fFmt
  else
    let vs := e.a.vals.map (widen e.ins.rm e.a.fmt)
    let reg := e.ins.c % 16
    match vs.findIdx? (·.isNan) with
    | some k =>
      let w := encode e.dFmt e.ins.rm .nan
      .ok { d := [w.1], x := some (reg, k), fl := ({ nv := true } : Fl).or w.2 }
    | none =>
      let k := argMax vs
      let w := encode e.dFmt e.ins.rm (vs.getD k .zero)
      .ok { d := [w.1], x := some (reg, k), fl := w.2 }

/-- VRMAX. -/
def execVrmax (cl ctx : Nat) (s : State) : Out := done (lanes 0x32 1 1 false vrmax cl ctx s)

/-- Prefix sums in FP32, each rounded into D (R257). -/
def scanAux (f : Fmt) (rm : Rm) : Val × Fl → List Val → List (Nat × Fl)
  | _, [] => []
  | acc, v :: vs =>
    let r := add32 acc.1 v
    let w := encode f rm r.1
    (w.1, (acc.2.or r.2).or w.2) :: scanAux f rm (r.1, acc.2.or r.2) vs

/-- VSCAN (R257). -/
def vscan (e : VEnv) : Except Nat VRes :=
  if !(fpOk e.dFmt && fpOk e.a.fmt) then .error fFmt
  else if e.a.vals.length != e.dLen then .error fLen
  else
    let rm := e.ins.rm
    match e.a.vals.map (widen rm e.a.fmt) with
    | [] => .ok {}
    | v :: vs => .ok (collect (encode e.dFmt rm v :: scanAux e.dFmt rm (v, {}) vs))

/-- VSCAN. -/
def execVscan (cl ctx : Nat) (s : State) : Out := done (lanes 0x33 1 1 false vscan cl ctx s)

/-! ### Selection and random numbers (R261) -/

/-- An entry of the ranking of VTOPK: bits, value and index. -/
structure Rank where
  bits : Nat := 0
  val  : Val := .nan
  idx  : Int := 0
  deriving DecidableEq, Repr

/-- The ranking of VTOPK: descending values, ties by ascending index, NaN after every other element. -/
def rankLt (x y : Rank) : Bool :=
  if x.val.isNan != y.val.isNan then y.val.isNan
  else ltV y.val x.val || (!ltV x.val y.val && decide (x.idx < y.idx))

/-- Insertion into a ranking. -/
def insertTop (x : Rank) : List Rank → List Rank
  | [] => [x]
  | y :: ys => if rankLt y x then y :: insertTop x ys else x :: y :: ys

/-- VTOPK (R261). -/
def vtopk (e : VEnv) : Except Nat VRes :=
  let imm := toTwos 13 e.ins.imm
  let useB := imm.testBit 12
  let n := e.a.vals.length
  let k := min (imm % 512) n
  if !(fpOk e.a.fmt && e.dFmt == e.a.fmt && e.cFmt == .int32) || (useB && e.b.fmt != .int32) then .error fFmt
  else if decide (e.dLen < k) || decide (e.cLen < k) || (useB && e.b.vals.length != n) then .error fLen
  else
    let rs := (e.a.vals.mapIdx fun i b =>
      { bits := b, val := decode e.a.fmt b, idx := if useB then sxt 32 (e.b.vals.getD i 0) else (i : Int) : Rank })
    let top := (rs.foldr insertTop []).take k
    .ok { d := top.map (·.bits), c := top.map fun r => toTwos 32 r.idx, fl := { nv := rs.any (·.val.isNan) } }

/-- VTOPK. Slot B is a source only where IMM[12] takes the indices from it. -/
def execVtopk (cl ctx : Nat) (s : State) : Out :=
  done (if (toTwos 13 (insAt s cl ctx).imm).testBit 12 then lanes 0x34 2 2 true vtopk cl ctx s
    else lanes 0x34 1 2 true vtopk cl ctx s)

/-- VRNG (R261). -/
def vrng (e : VEnv) : Except Nat VRes :=
  if e.dFmt != .fp32 then .error fFmt
  else .ok { d := (List.range e.dLen).map fun i =>
    (encode .fp32 .rne (.fin false (rngBits (e.xa + 2 ^ 32 * e.xb) e.xc i) (-24))).1 }

/-- VRNG. -/
def execVrng (cl ctx : Nat) (s : State) : Out := done (lanes 0x3C 0 1 false vrng cl ctx s)

/-! ### Log-sum-exp merge (R262) -/

/-- The factor EXP2(m_x − m); exactly 0 where m_x is −∞ and m is not. DESIGN CHOICE (log entry 10). -/
def lseFactor (mx m : Val) : Val × Fl :=
  if mx == .inf true && m != .inf true then (.fin false 0 0, {}) else
  let d := add32 mx (negV m)
  let w := exp2w d.1
  (decode .fp32 w.1, d.2.or w.2)

/-- VLSEM (R262). -/
def vlsem (e : VEnv) : Except Nat VRes :=
  let n := e.a.vals.length
  if e.a.fmt != .fp32 || e.b.fmt != .fp32 || e.dFmt != .fp32 then .error fFmt
  else if n < 3 || e.b.vals.length != n || e.dLen != n then .error fLen
  else
    let va := fun k => decode .fp32 (e.a.vals.getD k 0)
    let vb := fun k => decode .fp32 (e.b.vals.getD k 0)
    if (va 0).isNan || (vb 0).isNan then .ok { d := List.replicate n nan32, fl := { nv := true } }
    else if va 0 == .inf true && vb 0 == .inf true then .ok { d := 0xFF800000 :: List.replicate (n - 1) 0 }
    else
      let m := maxV (va 0) (vb 0)
      let fa := lseFactor (va 0) m
      let fb := lseFactor (vb 0) m
      let rest := (List.range (n - 1)).map fun k =>
        let p := mul32 (vb (k + 1)) fb.1
        let r := fma32 (va (k + 1)) fa.1 p.1
        ((encode .fp32 .rne r.1).1, p.2.or r.2)
      let r := collect rest
      .ok { d := (encode .fp32 .rne m).1 :: r.d, fl := (fa.2.or fb.2).or r.fl }

/-- VLSEM. -/
def execVlsem (cl ctx : Nat) (s : State) : Out := done (lanes 0x35 2 1 false vlsem cl ctx s)

end Sys2Proof.Machine
end

