-- ==== Sys2Proof/Machine/Kv.lean ====
section
/-! DEFINITION. Key/value pages, slip segments, pools, pins, reservations, sharing, spill and prefetch, and the arithmetic
of the attention engine (ch. 9). -/

namespace Sys2Proof.Machine

open Sys2Proof

/-! ### Held positions and the owners of pages -/

/-- A position is held by this member: always, outside a job (R417). -/
def heldPos (i : Image) (p : Nat) : Bool := i.peers.job == 0 || p / i.peers.stretch % i.peers.nmem == i.peers.self

/-- The page index of R325: in a job, that of the held pages counted in position order (R417). -/
def localPage (i : Image) (p : Nat) : Nat :=
  if i.peers.job = 0 then p else
  let per := i.peers.stretch / 64
  p / (per * i.peers.nmem) * per + p % per

/-- The bay that owns a page (R325). -/
def bayOfPage (i : Image) (l p : Nat) : Nat :=
  let st := (kvLayer i.kv l).stripe
  st.getD (localPage i p % st.length) 0

/-! ### Conversion events and errors (R77, R78, R339, R345) -/

/-- A key/value conversion event: status bit, saturating count, and the log at its first occurrence since the bit was
cleared. -/
def kvmConv (bit n bay seq : Nat) (s : State) : State :=
  if n = 0 then s else
  let first := !rb s .KVM_CONV_STAT bit
  let s := bumpSat .KVM_CONV_CNT (8 * bit + 7) (8 * bit) n 0 (setEv .KVM_CONV_STAT bit 0 s)
  whenS first (logE { cls := 0x0D, code := 7, sev := 2, kind := 8, index := bay, object := seq, data := [bit] }) s

/-- An event of R339: status bit, KVM_LAST_ERR, log. -/
def kvmErr (bit bay seq code sev : Nat) (s : State) : State :=
  let s := wr .KVM_LAST_ERR 0 (BitVec.ofNat 32 (bit + 1 + bay * 2 ^ 8 + seq % 4096 * 2 ^ 16)) (setEv .KVM_ERR_STAT bit 0 s)
  logE { cls := 0x0D, code := code, sev := sev, kind := if bay = 0x3F then 0xF else 8,
         index := if bay = 0x3F then 0 else bay, object := seq } s

/-! ### Pools (R315, R324, R325, R337) -/

/-- The bytes of a unit of a pool, and the units of the pool. -/
def poolUnit (kv : KvLayout) (p : KvPoolE) : Nat := if p.kind = 0 then frameSize kv else if p.kind = 1 then segSize kv else 256
def poolUnits (kv : KvLayout) (p : KvPoolE) : Nat := p.size / poolUnit kv p

/-- A frame and its tier as one number, from 1. -/
def frameCode (a tier : Nat) : Nat := a * 4 + tier + 1
def codeAddr (c : Nat) : Nat := (c - 1) / 4
def codeTier (c : Nat) : Nat := (c - 1) % 4

/-- The frames and segments in use, reserved or waiting for their pins. -/
def takenUnits (s : State) : List Nat :=
  (s.descs.flatMap fun e => e.2.addr :: (e.2.dest.map fun d => d.1).toList) ++ s.releasing.map (·.addr) ++
  (s.binds.flatMap fun e => (e.2.frames.map fun f => codeAddr f.2) ++ e.2.drafts.map fun d => d.2 - 1) ++
  (s.seqs.flatMap fun e => (e.2.slips.map fun x => x.2 - 1) ++
    ((e.2.toFlush ++ e.2.flushing).filter fun f => f.2.2 != 0).map fun f => codeAddr f.2.2)

/-- The units of a pool that are taken, and those that are free and not reserved (R342). -/
def inPool (p : KvPoolE) (a : Nat) : Bool := decide (p.base ≤ a) && decide (a < p.base + p.size)

/-- Ranges of the training stores in use. -/
def keepUsed (s : State) : List (Nat × Nat) :=
  s.seqs.flatMap fun e => (e.2.keep.map fun k => (k.2.2.1, k.2.2.2)) ++ e.2.keepAt.toList

/-- Bytes of the descriptor tables of a layout that are in use or reserved (R326): 32 for each descriptor and each frame reserved
for one, 8 for each entry of a page table and each one a reserved frame will have. DESIGN CHOICE (log entry 107). -/
def kvTableBytes (s : State) (kv : KvLayout) : Nat :=
  let own := fun (im : Nat) => (imgOf s im).kv == kv
  let qs := s.seqs.filter fun e => e.2.used && own e.2.im
  let tabs := qs.map (fun e => e.2.pages) ++ (s.prefixes.filter fun p => own p.im).map fun p => p.pages
  let more := (s.binds.filter fun b => qs.any fun e => e.1 == b.2.seq).map (fun b => b.2.frames.length) ++
    qs.map fun e => (e.2.toFlush.filter fun t => t.2.2 != 0).length
  32 * (tabs.flatMap fun t => t.map fun e => e.2.desc).dedup.length + 8 * (tabs.map fun t => t.length).sum + 40 * more.sum

/-- The table pools of a layout, and the bytes in them. -/
def tablePools (kv : KvLayout) : List KvPoolE := kv.pools.filter fun p => p.kind == 3
def tableSize (kv : KvLayout) : Nat := ((tablePools kv).map fun p => p.size).sum

/-- The units of a pool that are taken: frames and segments; 256 B units of the training stores; 256 B units of the tables, which
fill the pools in their order. DESIGN CHOICE (log entry 107). -/
def poolTaken (s : State) (kv : KvLayout) (p : KvPoolE) : Nat :=
  if p.kind = 2 then (((keepUsed s).filter fun r => inPool p r.1).map fun r => (r.2 + 255) / 256).sum
  else if p.kind = 3 then
    let before := (((tablePools kv).takeWhile fun q => q != p).map fun q => q.size).sum
    (min p.size (kvTableBytes s kv - before) + 255) / 256
  else ((takenUnits s).filter (inPool p)).length
def poolFree (s : State) (kv : KvLayout) (p : KvPoolE) : Nat := poolUnits kv p - poolTaken s kv p

/-- The lowest free unit of a pool. DESIGN CHOICE (log entry 40). -/
def freeUnit (taken : List Nat) (kv : KvLayout) (p : KvPoolE) : Option Nat :=
  ((List.range (poolUnits kv p)).map fun i => p.base + i * poolUnit kv p).find? fun a => !taken.contains a

/-- The home pools of a bay for a layer, and the pools of tier 2 (R325). -/
def homePools (kv : KvLayout) (l bay : Nat) : List KvPoolE :=
  let h := (kvLayer kv l).tier
  kv.pools.filter fun p => p.kind == 0 && p.tier == h && p.owner == (if h = 0 then bay else bay / 6)
def farPools (kv : KvLayout) : List KvPoolE := kv.pools.filter fun p => p.kind == 0 && p.tier == 2

/-- A free frame of the pools given. DESIGN CHOICE (log entry 40). -/
def frameIn (s : State) (kv : KvLayout) (ps : List KvPoolE) : Option Nat :=
  ps.findSome? fun p => (freeUnit (takenUnits s) kv p).map fun a => frameCode a p.tier

/-- A frame for a page of a layer: in the home pool, else in HBM. DESIGN CHOICE (log entry 40). -/
def allocFrame (s : State) (kv : KvLayout) (l bay : Nat) : Option Nat :=
  frameIn s kv (homePools kv l bay) <|> frameIn s kv (farPools kv)

/-- A free slip segment. DESIGN CHOICE (log entry 40). -/
def allocSeg (s : State) (kv : KvLayout) : Option Nat :=
  (kv.pools.filter fun p => p.kind == 1).findSome? (freeUnit (takenUnits s) kv)

/-! ### Descriptors (R326, R329 to R331) -/

/-- A LIVE descriptor of one reference on a frame. DESIGN CHOICE (log entry 44). -/
def newDesc (code bay : Nat) (s : State) : Nat × State :=
  let d := freeDesc s
  (d, { s with descs := tins s.descs d { addr := codeAddr code, tier := codeTier code, st := 1, ref := 1, bay := bay } })

/-- Slip segments that hold no committed position of a sequence without a binding are freed (R315, R320); in a job, also
those whose positions other members hold (R418). -/
def trimSlips (i : Nat) (s : State) : State :=
  let q := seqOf s i
  let im := imgOf s q.im
  dropSlips i (fun k =>
    let g := k % 2 ^ 16
    decide (q.len ≤ g * 64) || !heldPos im (g * 64)) s

/-- The slip entries of a sequence at position `n` and above are cleared: their bytes become zero (R320, R331).
DESIGN CHOICE (log entry 44). -/
def clearSlips (i n : Nat) (s : State) : State :=
  let q := seqOf s i
  let b := (kvOf s q.im).slipBytes
  foldS (q.slips.filter fun e => decide (n < (e.1 % 2 ^ 16 + 1) * 64)) (fun e =>
    let r := n - e.1 % 2 ^ 16 * 64
    wrBytes (e.2 - 1 + r * b) (List.replicate ((64 - r) * b) 0)) s

/-- A sequence is cut back to length `n` (R331). DESIGN CHOICE (log entry 44). -/
def cutSeq (i n : Nat) (s : State) : State :=
  let q := seqOf s i
  let gone := q.pages.filter fun e => decide (n ≤ e.1 % 2 ^ 16 * 64)
  let keep := (q.pages.filter fun e => !decide (n ≤ e.1 % 2 ^ 16 * 64)).map fun e =>
    if e.1 % 2 ^ 16 = (n - 1) / 64 then (e.1, { e.2 with count := min e.2.count ((n - 1) % 64 + 1) }) else e
  let s := modSeq i (fun q => { q with pages := keep, len := n }) s
  clearSlips i n (trimSlips i (dropPages gone s))

/-! ### Reservation of a step (R315) -/

/-- A slip segment of a layer is reserved where the sequence has none there. -/
def reserveSeg (i l g : Nat) (s : State) : Option State :=
  let q := seqOf s i
  if tget 0 q.slips (lpKey l g) != 0 then some s
  else (allocSeg s (kvOf s q.im)).map fun a => modSeq i (fun q => { q with slips := tset 0 q.slips (lpKey l g) (a + 1) }) s

/-- The draft segment of a layer, and a frame for a page that the step can fill. DESIGN CHOICE (log entry 40). -/
def reserveDraft (b i l : Nat) (s : State) : Option State :=
  (allocSeg s (kvOf s (seqOf s i).im)).map fun a => modBind b (fun x => { x with drafts := tset 0 x.drafts l (a + 1) }) s
def reserveFrame (b i l p : Nat) (s : State) : Option State :=
  let im := imgOf s (seqOf s i).im
  (allocFrame s im.kv l (bayOfPage im l p)).map fun c =>
    modBind b (fun x => { x with frames := tset 0 x.frames (lpKey l p) c }) s

/-- The steps of a reservation, one after the other. -/
def reserveAll : List (State → Option State) → State → Option State
  | [], s => some s
  | f :: fs, s => match f s with
    | some t => reserveAll fs t
    | none => none

/-- The deepest candidate of a tree: the number of positions above B that a VERIFY step can reach. -/
def depthOf (parents : List Nat) : Nat → Nat → Nat
  | 0, _ => 0
  | n + 1, c => if c = 0 then 0 else depthOf parents n (parents.getD c 0) + 1
def treeDepth (parents : List Nat) : Nat := (List.range parents.length).foldl (fun m c => max m (depthOf parents c c)) 0

/-- The positions a binding can reach from its base. -/
def Bind.reach (x : Bind) : Nat := if x.verify then treeDepth x.parents + 1 else x.n

/-- What a binding has to reserve: for each of the role's layers its slip segments, a draft segment, frames. -/
def reservations (b : Nat) (x : Bind) (im : Image) : List (State → Option State) :=
  let top := x.base + x.reach
  (List.range x.layers).flatMap fun k =>
    let l := x.first + k
    ((List.range (top / 64 + 1)).filter fun g => decide (x.base / 64 ≤ g) && decide (g * 64 < top)).map (reserveSeg x.seq l) ++
    (if x.verify then [reserveDraft b x.seq l] else []) ++
    ((List.range (top / 64 + 1)).filter fun p =>
      decide (x.base ≤ p * 64 + 63) && decide (p * 64 + 63 < top) && heldPos im (p * 64)).map (reserveFrame b x.seq l)

/-! ### The training store (R334) -/

/-- Bytes that a position of a KEEP binding takes: the slip-form entry of every layer, and a record for each adapted
slice. DESIGN CHOICE (log entry 32). -/
def keepBytes (im : Image) (layers : Nat) : Nat :=
  layers * im.kv.slipBytes + ((im.adapters.map fun a =>
    let x := sliceOf im a.slice
    x.dIn * 2 + (a.rank * 2 + 7) / 8 * 8 + 128 * x.rows).sum)

/-- A free range of `n` bytes in the training stores of a layout, in steps of 256 B. DESIGN CHOICE (log entry 32). -/
def allocKeep (s : State) (kv : KvLayout) (n : Nat) : Option Nat :=
  let used := keepUsed s
  (kv.pools.filter fun p => p.kind == 2).findSome? fun p =>
    ((List.range (p.size / 256)).map fun i => p.base + 256 * i).find? fun a =>
      decide (a + n ≤ p.base + p.size) && used.all fun u => decide (a + n ≤ u.1) || decide (u.1 + (u.2 + 255) / 256 * 256 ≤ a)

/-- The store of a KEEP binding is reserved with the rest. DESIGN CHOICE (log entry 44). -/
def reserveKeep (x : Bind) (s : State) : Option State :=
  if !x.keep then some s else
  let im := imgOf s (seqOf s x.seq).im
  let n := x.n * keepBytes im x.layers
  (allocKeep s im.kv n).map fun a => modSeq x.seq (fun q => { q with keep := q.keep ++ [(x.base, x.n, a, n)] }) s

/-! ### Moves: spill and prefetch (R332, R333) -/

/-- A move of a page begins: a frame is taken, and the old one is pinned for the copy. -/
def startMove (d code : Nat) (pf : Bool) (s : State) : State :=
  pin (descOf s d).addr 0x40
    (modDesc d (fun x => { x with st := 2, dest := some (codeAddr code, codeTier code, pf) }) s)

/-- The sequences that hold a descriptor, as bound, end of the last step, layer and page. -/
def holders (s : State) (d : Nat) : List (Bool × Nat × Nat × Nat) :=
  s.seqs.flatMap fun e => (e.2.pages.filter fun p => p.2.desc == d).map fun p =>
    (e.2.bind.isSome, e.2.lastEnd, p.1 / 2 ^ 16, p.1 % 2 ^ 16)

/-- The order of victims: unbound before bound, then the sequence whose last step ended earliest, then the lowest page.  A
shared page counts with the holder that ranks last, one that only a prefix holds before all others.
DESIGN CHOICE (log entry 43). -/
def spillRank (s : State) (d : Nat) : Nat :=
  ((holders s d).map fun h => (b2n h.1 * 2 ^ 80 + h.2.1) * 2 ^ 32 + h.2.2.2 * 2 ^ 8 + h.2.2.1 + 1).foldl max 0

/-- Insertion by rank. -/
def insertVictim (e : Nat × Nat) : List (Nat × Nat) → List (Nat × Nat)
  | [] => [e]
  | x :: xs => if e.1 ≤ x.1 then e :: x :: xs else x :: insertVictim e xs

/-- The pages of a pool that can be spilled, in the order of R332. DESIGN CHOICE (log entry 43). -/
def victims (s : State) (p : KvPoolE) : List Nat :=
  (((s.descs.filter fun e => decide (p.base ≤ e.2.addr) && decide (e.2.addr < p.base + p.size) && e.2.st == 1 &&
    !pinned s e.2.addr && !fenced s 8 e.2.bay).map fun e => (spillRank s e.1, e.1)).foldr insertVictim []).map (·.2)

/-- A pool whose free frames are below SPILL_LOW spills pages to tier 2 until they reach SPILL_HIGH. -/
def spillPool (kv : KvLayout) (p : KvPoolE) (s : State) : State :=
  let n := poolUnits kv p
  let free := poolFree s kv p
  if rf s .KVM_CTRL 22 16 * n ≤ free * 100 then s else
  let going := (s.descs.filter fun e => decide (p.base ≤ e.2.addr) && decide (e.2.addr < p.base + p.size) && e.2.st == 2).length
  let k := (rf s .KVM_CTRL 30 24 * n + 99) / 100 - free - going
  foldS ((victims s p).take k) (fun d s => match frameIn s kv (farPools kv) with
    | some c => startMove d c false s
    | none => s) s

/-- Every page pool of tiers 0 and 1 of a layout is held against its watermarks. -/
def spillCheck (kv : KvLayout) (s : State) : State :=
  foldS (kv.pools.filter fun p => p.kind == 0 && decide (p.tier < 2)) (spillPool kv) s

/-- One page of tier 2 is fetched back where its home pool stays at or above SPILL_LOW. -/
def prefetchPage (kv : KvLayout) (l : Nat) (d : Nat) (s : State) : State :=
  let x := descOf s d
  if x.tier != 2 || x.st != 1 || fenced s 8 x.bay then s else
  match (homePools kv l x.bay).find? fun p =>
      decide (rf s .KVM_CTRL 22 16 * poolUnits kv p + 100 ≤ poolFree s kv p * 100) with
  | some p => match frameIn s kv [p] with
    | some c => startMove d c true s
    | none => s
  | none => s

/-- Prefetch of the sequence of a binding, layer by layer up to PF_AHEAD layers beyond the layer reached (R333).
DESIGN CHOICE (log entry 43). -/
def prefetch (b : Nat) (s : State) : State :=
  match bindOf s b with
  | none => s
  | some x =>
    if !rb s .KVM_CTRL 0 then s else
    let q := seqOf s x.seq
    let top := x.atLayer + rf s .KVM_CTRL 11 8
    foldS (q.pages.filter fun e => decide (x.first ≤ e.1 / 2 ^ 16) && decide (e.1 / 2 ^ 16 ≤ top) &&
        decide (e.1 / 2 ^ 16 < x.first + x.layers))
      (fun e => prefetchPage (kvOf s q.im) (e.1 / 2 ^ 16) e.2.desc) s

/-- A binding is created, its reservation made and its prefetch begun; none where there is no room, in the descriptor tables
neither. DESIGN CHOICE (log entries 40, 107). -/
def createBind (x : Bind) (s : State) : Option (Nat × State) :=
  match (List.range 4096).find? fun b => (bindOf s b).isNone with
  | none => none
  | some b =>
    let x := { x with atLayer := x.first }
    let im := imgOf s (seqOf s x.seq).im
    let t := modSeq x.seq (fun q => { q with bind := some b }) { s with binds := tins s.binds b x }
    match reserveAll (reserveKeep x :: reservations b x im) t with
    | none => none
    | some t => if tableSize im.kv < kvTableBytes t im.kv then none else some (b, prefetch b (spillCheck im.kv t))

/-! ### Entries of the slip buffer and of pages (R69, R70, R319) -/

/-- The slip entry of a position of a layer, and a draft entry. DEDUCED (log entry 41). -/
def slipAt (s : State) (i l pos : Nat) : Option Nat :=
  let q := seqOf s i
  let a := tget 0 q.slips (lpKey l (pos / 64))
  if a = 0 then none else some (a - 1 + pos % 64 * (kvOf s q.im).slipBytes)
def draftAt (x : Bind) (kv : KvLayout) (l c : Nat) : Nat := tget 0 x.drafts l - 1 + (c - 1) * kv.slipBytes

/-- The bytes of a position record of a page (R70, R324), and where a record stands. -/
def recLen (kv : KvLayout) : Nat := kv.pageBytes / 64
def recAt (s : State) (d r : Nat) (kv : KvLayout) : Nat := (descOf s d).addr + r * recLen kv

/-- A key or value head of a slip entry: its values, and whether its scale is NaN. DEDUCED (log entry 41). -/
def slipHead (s : State) (kv : KvLayout) (a h : Nat) : List Val × Bool :=
  let sc := decode .e8m0 (rdByte s (a + 2 * kv.hkv * kv.w + h)).toNat
  ((List.range kv.w).map fun e => (mulV (decode .e4m3 (rdByte s (a + h * kv.w + e)).toNat) sc).1, sc.isNan)

/-- A key or value head of a page record: its values, and whether a group scale is NaN. DESIGN CHOICE (log entry 118). -/
def pageHead (s : State) (kv : KvLayout) (a h : Nat) : List Val × Bool :=
  let b := a + h * (kv.w / 2 + kv.w / 16)
  let sc := fun g => decode .e4m3 (rdByte s (b + kv.w / 2 + g)).toNat
  ((List.range kv.w).map fun e => (mulV (decode .fp4 (elemAt .fp4 (fun k => rdByte s (b + k)) e)) (sc (e / 16))).1,
   (List.range (kv.w / 16)).any fun g => (sc g).isNan)

/-- A head in slip form: its scale code and codes, by the rule of R68, which is VBSCL's for E4M3 (R69, R260): a head with NaN or ±∞ has
scale 0xFF and codes of zero, so the form depends on the values alone (R73). DEDUCED (log entry 42). -/
def slipForm (xs : List Nat) : Nat × List Nat :=
  let r := bsclGroup .e4m3 448 (xs.map (decode .fp32))
  (r.1, r.2.1)

/-- A head is written to an entry. DEDUCED (log entry 41). -/
def putHead (kv : KvLayout) (a h sc : Nat) (codes : List Nat) (s : State) : State :=
  wrBytes (a + 2 * kv.hkv * kv.w + h) [BitVec.ofNat 8 sc] (wrBytes (a + h * kv.w) (codes.map (BitVec.ofNat 8)) s)

/-! ### Conversion of a page (R71) -/

/-- One group of 16 elements of a page: scale code, codes, clipped, flushed. -/
def pageGroup (vs : List Val) : Nat × List Nat × Bool × Bool :=
  let amax := (vs.foldl maxAbs .zero).frac
  if amax.1 = 0 then (0, vs.map fun _ => 0, false, false)
  else
    let clip := decide (448 * 6 * amax.2 < amax.1)
    let sc := if clip then 0x7E else (encodeFloat .e4m3 .rup false amax.1 (amax.2 * 6)).1
    let sf := (decode .e4m3 sc).frac
    let codes := vs.map fun v =>
      let f := v.frac
      (encodeFloat .fp4 .rne v.sign (f.1 * sf.2) (f.2 * sf.1)).1
    (sc, codes, clip, codes.all fun c => c % 8 == 0)

/-- A head of a slip entry as it stands in a page: its bytes, groups clipped, groups flushed. -/
def pageForm (s : State) (kv : KvLayout) (a h : Nat) : List Byte × Nat × Nat :=
  let v := slipHead s kv a h
  let n := kv.w / 16
  if v.2 then (List.replicate (kv.w / 2) 0 ++ List.replicate n 0x7F, 0, 0)
  else
    let gs := (List.range n).map fun g => pageGroup ((v.1.drop (16 * g)).take 16)
    (pack4 (gs.flatMap fun g => g.2.1) ++ gs.map fun g => BitVec.ofNat 8 g.1,
     (gs.filter fun g => g.2.2.1).length, (gs.filter fun g => g.2.2.2).length)

/-- The record of a position, from its slip entry. -/
def recForm (s : State) (kv : KvLayout) (a : Nat) : List Byte × Nat × Nat :=
  let hs := (List.range (2 * kv.hkv)).map (pageForm s kv a)
  (hs.flatMap fun h => h.1, (hs.map fun h => h.2.1).sum, (hs.map fun h => h.2.2).sum)

/-- Records `r0` up to `r1` of a page are written from the slip buffer, with their conversion events. -/
def writeRecs (i l p d r0 r1 : Nat) (s : State) : State :=
  let kv := kvOf s (seqOf s i).im
  let fs := ((List.range r1).filter fun r => decide (r0 ≤ r)).filterMap fun r =>
    (slipAt s i l (p * 64 + r)).map (recForm s kv)
  let bay := (descOf s d).bay
  foldS fs (fun f s => kvmConv 1 f.2.2 bay i (kvmConv 0 f.2.1 bay i s))
    (wrBytes (recAt s d r0 kv) (fs.flatMap fun f => f.1) s)

/-- The page of a sequence that a flush writes to: its own where it alone refers to it, else a copy of the records below
its count in the frame given, to which the entry then points (R330); a frame of its own where there is no page yet. -/
def openPage (i l p code : Nat) (s : State) : Nat × State :=
  let q := seqOf s i
  let im := imgOf s q.im
  let setEnt := fun (d c : Nat) (s : State) =>
    modSeq i (fun q => { q with pages := tins q.pages (lpKey l p) { desc := d, count := c } }) s
  match q.pages.find? fun e => e.1 == lpKey l p with
  | none =>
    let r := newDesc code (bayOfPage im l p) s
    (r.1, setEnt r.1 0 r.2)
  | some e =>
    if (descOf s e.2.desc).ref ≤ 1 then (e.2.desc, s)
    else
      let old := recAt s e.2.desc 0 im.kv
      let r := newDesc code (bayOfPage im l p) s
      let s := wrBytes (codeAddr code) (rdBytes s old (e.2.count * recLen im.kv)) r.2
      (r.1, bump .KVM_COW_CNT 1 0 (derefDesc e.2.desc (setEnt r.1 e.2.count s)))

/-- The readings of a flush that go on after its event are pinned for the bay: the shared page that it copies from (R327, R330). -/
def pinShared (i l p : Nat) (s : State) : State :=
  match (seqOf s i).pages.find? fun e => e.1 == lpKey l p with
  | none => s
  | some e =>
    let d := descOf s e.2.desc
    whenS (decide (1 < d.ref)) (pin d.addr (bayOfPage (imgOf s (seqOf s i).im) l p)) s

/-- A flush of the page needs a frame. -/
def needsFrame (s : State) (i l p : Nat) : Bool :=
  match (seqOf s i).pages.find? fun e => e.1 == lpKey l p with
  | none => true
  | some e => decide (1 < (descOf s e.2.desc).ref)

/-- The records below the count of a page's entry (0 where there is no page). -/
def pageCount (s : State) (i l p : Nat) : Nat := (tget {} (seqOf s i).pages (lpKey l p)).count

/-- The page is MOVING, so that a flush into it waits (R330). -/
def pageMoving (s : State) (i l p : Nat) : Bool :=
  match (seqOf s i).pages.find? fun e => e.1 == lpKey l p with
  | none => false
  | some e => (descOf s e.2.desc).st == 2

/-- What a flush reads holds an uncorrectable error: its slip entries, or the shared page it copies; or the page it writes in place
refuses a word (R288). -/
def flushPoison (s : State) (i l p r0 r1 : Nat) : Bool :=
  let kv := kvOf s (seqOf s i).im
  ((List.range r1).filter fun r => decide (r0 ≤ r)).any (fun r => match slipAt s i l (p * 64 + r) with
    | some a => anyPoison s a kv.slipBytes
    | none => false) ||
  (let d := (tget {} (seqOf s i).pages (lpKey l p)).desc
   if needsFrame s i l p then decide (0 < r0) && anyPoison s (recAt s d 0 kv) (r0 * recLen kv)
   else wrRefused s (recAt s d r0 kv) ((r1 - r0) * recLen kv))

/-! ### Scores (R309 to R313) -/

/-- Where a visible position stands: a page record or a slip-form entry. -/
inductive Loc where
  | page (a : Nat)
  | slip (a : Nat)
  deriving DecidableEq, Repr

/-- A head of a visible position. -/
def headAt (s : State) (kv : KvLayout) (h : Nat) : Loc → List Val × Bool
  | .page a => pageHead s kv a h
  | .slip a => slipHead s kv a h

/-- The candidates from the root down to `c`. -/
def pathTo (parents : List Nat) : Nat → Nat → List Nat
  | 0, c => [c]
  | n + 1, c => if c = 0 then [0] else pathTo parents n (parents.getD c 0) ++ [c]

/-- The position of the unit of candidate or token `j`. -/
def unitPos (x : Bind) (j : Nat) : Nat := x.base + if x.verify then depthOf x.parents j j else j

/-- A position is within the window of the unit at `p` (R312). -/
def inWindow (kv : KvLayout) (l p pos : Nat) : Bool :=
  (kvLayer kv l).window == 0 || decide (p < pos + (kvLayer kv l).window)

/-- The bay that scores an entry of the binding's own (R319, R418). -/
def ownBay (im : Image) (x : Bind) (l pos : Nat) : Nat :=
  bayOfPage im l ((if heldPos im pos then pos else x.base) / 64)

/-- The pages a bay scores for a unit, each as its visible records in ascending position. -/
def visiblePages (s : State) (im : Image) (x : Bind) (l bay j : Nat) : List (Nat × List Loc) :=
  let q := seqOf s x.seq
  (q.pages.filter fun e => e.1 / 2 ^ 16 == l && bayOfPage im l (e.1 % 2 ^ 16) == bay).filterMap fun e =>
    let p := e.1 % 2 ^ 16
    let rs := (List.range e.2.count).filter fun r =>
      decide (p * 64 + r < x.base) && heldPos im (p * 64 + r) && inWindow im.kv l (unitPos x j) (p * 64 + r)
    if rs.isEmpty then none else some (e.2.desc, rs.map fun r => .page (recAt s e.2.desc r im.kv))

/-- The slip entries a bay scores for a unit: committed positions that no page holds, then the entries of its own binding
that the mask admits. DEDUCED (log entry 41). -/
def visibleSlips (s : State) (im : Image) (x : Bind) (l bay j : Nat) : List Loc :=
  let at_ := fun pos => ((slipAt s x.seq l pos).map Loc.slip).toList
  let w := inWindow im.kv l (unitPos x j)
  let old := ((seqOf s x.seq).slips.filter fun e => e.1 / 2 ^ 16 == l && bayOfPage im l (e.1 % 2 ^ 16) == bay).flatMap fun e =>
    let g := e.1 % 2 ^ 16
    ((List.range 64).filter fun r => decide (g * 64 + r < x.base) && heldPos im (g * 64 + r) && w (g * 64 + r) &&
      decide (pageCount s x.seq l g ≤ r)).flatMap fun r => at_ (g * 64 + r)
  let mine := heldPos im x.base
  let own := if x.verify then [x.base] else (List.range (j + 1)).map fun t => x.base + t
  let steps := (own.filter fun pos => mine && w pos && ownBay im x l pos == bay).flatMap at_
  let drafts := if x.verify && mine && bayOfPage im l (x.base / 64) == bay then
      ((pathTo x.parents j j).filter fun c => c != 0 && w (unitPos x c)).map fun c => Loc.slip (draftAt x im.kv l c)
    else []
  old ++ steps ++ drafts

/-- The score of a unit and a position, in log2 units (R310): exact products, a balanced tree, RNE(s × c). -/
def scoreOf (q k : List Val) (c : Val) : Val :=
  let t := (List.range 8).foldl (fun xs _ => treeLevel xs) (List.zipWith (fun a b => ((mulV a b).1, {})) q k)
  (mul32 (t.headD (.zero, {})).1 c).1

/-- The sum of FP32 values in the order given. -/
def sum32 : List Val → Val
  | [] => .zero
  | x :: xs => xs.foldl (fun a b => (add32 a b).1) x

/-- The identity partial. DESIGN CHOICE (log entry 118). -/
def identityPartial (w : Nat) : List Nat := 0xFF800000 :: List.replicate (w + 1) 0

/-- A page partial over scores and values in ascending position (R311). DEDUCED (log entry 41). -/
def pagePartial (w : Nat) (ts : List Val) (vs : List (List Val)) : List Nat :=
  let m := ts.foldl maxV (.inf true)
  if m == .inf true then identityPartial w else
  let ps := ts.map fun t => decode .fp32 (exp2w (add32 t (negV m)).1).1
  let o := (List.range w).map fun j => sum32 (List.zipWith (fun p v => (mul32 p (v.getD j .zero)).1) ps vs)
  (m :: sum32 ps :: o).map fun v => (encode .fp32 .rne v).1

/-- Two partials merged by the formula of R262. DESIGN CHOICE (log entry 118). -/
def mergePartial (a b : List Nat) : List Nat :=
  match vlsem { a := { vals := a }, b := { vals := b }, dLen := a.length } with
  | .ok r => r.d
  | .error _ => a

/-- Canonical NaN in every element of a partial. -/
def nanPartial (w : Nat) : List Nat := List.replicate (w + 2) nan32

/-- The bay partial of a unit over its groups of visible positions. DEDUCED (log entry 41). -/
def bayPartial (s : State) (im : Image) (u : QUnit) (l g : Nat) (groups : List (List Loc)) : List Nat :=
  let kv := im.kv
  let h := g % kv.hq / (kv.hq / kv.hkv)
  let qs := decode .e8m0 (u.scale - 1)
  let q := u.codes.map fun c => (mulV (decode .e4m3 (c - 1)) qs).1
  let c := decode .fp32 (kvLayer kv l).scale
  let ps := groups.map fun ls => ls.map fun loc => (headAt s kv h loc, headAt s kv (kv.hkv + h) loc, loc)
  let bad := ps.any fun ls => ls.any fun e =>
    (scoreOf q e.1.1 c).isNan || (match e.2.2 with
      | .page _ => e.1.2 || e.2.1.2
      | .slip _ => e.1.2)
  if qs.isNan || bad then nanPartial kv.w
  else (ps.filter fun ls => !ls.isEmpty).foldl (fun acc ls =>
    mergePartial acc (pagePartial kv.w (ls.map fun e => scoreOf q e.1.1 c) (ls.map fun e => e.2.1.1))) (identityPartial kv.w)

end Sys2Proof.Machine
end

