-- ==== Sys2Proof/Machine/Serve.lean ====
section
/-! DEFINITION. The serving engine (ch. 10): order of commands, sequences, steps and bindings, stream rings, the commit and
the abandonment of steps, the end of commands that run steps. -/

namespace Sys2Proof.Machine

open Sys2Proof

/-! ### Sequences of a command (R362) -/

/-- The identifier names a sequence of the context. -/
def seqKnown (s : State) (k id : Nat) : Bool :=
  let q := seqOf s (id % 4096)
  q.used && !q.hidden && q.gen == id / 4096 && q.ctx == k

/-- The sequence of a command, or the status that refuses it (R227, R362, R427). -/
def seqCheck (s : State) (c : Cmd) (id : Nat) : Except Nat Nat :=
  let q := seqOf s (id % 4096)
  if !seqKnown s c.ctx id then .error (if (cxOf s c.ctx).goneSeq.contains id then 0x0A else 0x0B)
  else if jobHeld s c.ctx then .error 0x19
  else if q.retired && c.im != some q.im then .error 0x0A
  else if q.failed then .error 0x11
  else .ok (id % 4096)

/-! ### The order of commands (R359) -/

/-- The commands that change a sequence, the operations on the prefix table, the training commands, and those that change
the image of a context. -/
def opChanges (op : Nat) : Bool := op == 0x13 || op == 0x12 || op == 0x14 || op == 0x11
def Cmd.prefixOp (c : Cmd) : Bool := c.op == 0x18 || c.op == 0x19 || (c.op == 0x10 && c.u 0x10 8 != 0)
def opTrains (op : Nat) : Bool := op == 0x14 || op == 0x06 || op == 0x07
def opImage (op : Nat) : Bool := op == 0x01 || op == 0x02 || op == 0x03

/-- An earlier command of its queue holds back an ORDERED command (R359). -/
def heldOrdered (c d : Cmd) : Bool := d.flags.testBit 1 && qkOf c.fn c.q == qkOf d.fn d.q

/-- An earlier command of its context holds back a command: a waiting LOAD, ACTIVATE or DISCARD all but a CANCEL, a LOAD an ACTIVATE, those
on one sequence, on the prefix table, and the training commands each other. SEQ_FREE cancels the commands on its sequence itself
(R359, R361, R362). DESIGN CHOICE (log entry 44). -/
def holdsBack (c d : Cmd) : Bool :=
  c.ctx == d.ctx &&
    ((opImage c.op && !c.run && d.op != 0x30) || (c.op == 0x01 && d.op == 0x02) ||
     (d.op != 0x11 && c.seqId.isSome && c.seqId == d.seqId && (!c.run || (opChanges c.op && opChanges d.op))) ||
     (c.prefixOp && d.prefixOp) ||
     (opTrains c.op && opTrains d.op))

/-- The role without whose registration a command waits (R364). -/
def Cmd.role (c : Cmd) : Option Nat :=
  if c.op = 0x13 || c.op = 0x20 || c.op = 0x21 || (c.op = 0x18 && c.seqId.isNone) then some 0
  else if c.op = 0x14 then some 2
  else if c.op = 0x06 || c.op = 0x07 then some 3
  else none

/-- A command waits for a role that its image has not registered. -/
def waitsRole (s : State) (c : Cmd) : Bool :=
  match c.im, c.role with
  | some im, some r => (roleEntries s im r).isEmpty
  | _, _ => false

/-- Every earlier command that holds a command back has gone on (R359). -/
def mayStart (s : State) (d : Cmd) : Bool :=
  s.cmds.all fun e => decide (d.order ≤ e.2.order) || !(heldOrdered e.2 d || holdsBack e.2 d)

/-- The operand bytes that a command of an opcode uses, as offsets and lengths (R353). -/
def operandBytes (op : Nat) : List (Nat × Nat) :=
  match op with
  | 0x01 => [(0x10, 0x22)]
  | 0x04 => [(0x10, 0x12)]
  | 0x05 => [(0x10, 9)]
  | 0x06 => [(0x10, 2)]
  | 0x07 => [(0x10, 2), (0x14, 12)]
  | 0x10 => [(0x10, 9)]
  | 0x11 => [(0x10, 4)]
  | 0x12 => [(0x10, 8)]
  | 0x13 => [(0x10, 0x30)]
  | 0x14 => [(0x10, 0x14), (0x28, 8)]
  | 0x18 => [(0x10, 0x18)]
  | 0x19 => [(0x10, 8)]
  | 0x20 => [(0x10, 6), (0x18, 0x10)]
  | 0x21 => [(0x10, 0x12)]
  | 0x30 => [(0x10, 4)]
  | _ => []

/-- A byte that the command does not use is not zero (R352). -/
def reservedSet (c : Cmd) : Bool :=
  (List.range 48).any fun i =>
    c.u (0x10 + i) 1 != 0 && !(operandBytes c.op).any fun r => decide (r.1 ≤ 0x10 + i) && decide (0x10 + i < r.1 + r.2)

/-- A command completes with a status and nothing else; FENCED and IMAGE_RETIRED are logged (R385), with a code that R654 does not
give. DESIGN CHOICE (log entry 48). -/
def fail (h status : Nat) (s : State) : State :=
  match cmdOf s h with
  | some c => complete h status 0 0 (whenS (status == stFenced || status == 0x0A)
      (srvLog (Config.catalogue 9 0).toNat 2 c.fn c.q (handleOf c.gen h) [c.op, status, 0]) s)
  | none => s

/-- A command ends with BAD_OPERAND for a range that it names; an access refused by R290 or R292 is recorded (R300, R455). -/
def dmaRefuse (h : Nat) (v : Option (Nat × Nat)) (write : Bool) (s : State) : State :=
  match v with
  | some v => fail h 3 (addrViolation v.1 v.2 0 3 write s)
  | none => fail h 3 s

/-- The start of a command of an opcode: it is accepted, not yet running, its turn has come and the role it needs is
registered.  A context fenced meanwhile, or a reserved bit set, ends it. -/
def startCmd (h op : Nat) (f : Cmd → State → State) (s : State) : State :=
  match cmdOf s h with
  | some c =>
    if c.op != op || c.run || !mayStart s c || waitsRole s c then s
    else
      let c := { c with run := true }
      let s := setCmd h c s
      if cxFenced s c.ctx && op != 0x30 && op != 0x31 then fail h stFenced s
      else if reservedSet c then fail h 3 s
      else f c s
  | none => s

/-! ### Bindings end (R320, R323, R333) -/

/-- A binding is released: prefetched pages that no pass has read are counted, its draft segments freed, the slip segments
trimmed. -/
def endBind (b : Nat) (s : State) : State :=
  match bindOf s b with
  | none => s
  | some x =>
    let q := seqOf s x.seq
    let ds := (q.pages.map fun e => e.2.desc).dedup.filter fun d => (descOf s d).unused
    let s := bump .KVM_PF_UNUSED_CNT ds.length 0 (foldS ds (fun d => modDesc d (fun y => { y with unused := false })) s)
    let s := modSeq x.seq (fun q => { q with bind := none, lastEnd := s.now }) { s with binds := tdel s.binds b }
    let s := trimSlips x.seq (foldS x.drafts (fun e => releaseUnit (e.2 - 1)) s)
    spillCheck (kvOf s q.im) s

/-- A step is abandoned: its entries are cleared and its training store is given up, the sequence stays at B (R320). -/
def abandonBind (b : Nat) (s : State) : State :=
  match bindOf s b with
  | none => s
  | some x => clearSlips x.seq x.base <| endBind b (if x.keep then modSeq x.seq (fun q => { q with keep := q.keep.filter fun e => e.1 != x.base }) s else s)

/-- A sequence becomes FAILED for lost key/value data (R339). -/
def failSeq (i bay : Nat) (s : State) : State :=
  if (seqOf s i).failed then s else kvmErr 1 bay i 0x0B 3 (modSeq i (fun q => { q with failed := true }) s)

/-- The accepted path's draft entries are copied, bit for bit, to the positions after B (R323). -/
def copyPath (x : Bind) (kv : KvLayout) (path : List Nat) (s : State) : State :=
  foldS ((List.range x.layers).map (x.first + ·)) (fun l s =>
    foldS (path.mapIdx fun t c => (t, c)) (fun e s =>
      if e.2 = 0 then s else
      let a := draftAt x kv l e.2
      match slipAt s x.seq l (x.base + e.1) with
      | some d => wrBytes d (rdBytes s a kv.slipBytes) s
      | none => s) s) s

/-- What the commit of a binding reads holds an uncorrectable error: the draft entries of its path, or the slip entries that it keeps
(R323, R334, R339). -/
def commitLost (s : State) (x : Bind) (path : List Nat) : Bool :=
  let kv := kvOf s (seqOf s x.seq).im
  ((List.range x.layers).map (x.first + ·)).any fun l =>
    (x.verify && path.any fun c => c != 0 && anyPoison s (draftAt x kv l c) kv.slipBytes) ||
    (x.keep && (List.range x.n).any fun t => match slipAt s x.seq l (x.base + t) with
      | some a => anyPoison s a kv.slipBytes
      | none => false)

/-- The slip-form entries of a KEEP step go to its training store, in ascending layer order (R334).
DESIGN CHOICE (log entry 32). -/
def storeKeep (x : Bind) (im : Image) (s : State) : State :=
  match (seqOf s x.seq).keep.find? fun e => e.1 == x.base with
  | none => s
  | some (_, _, a, _) =>
    foldS (List.range x.n) (fun t s => foldS (List.range x.layers) (fun j s =>
      match slipAt s x.seq (x.first + j) (x.base + t) with
      | some e => wrBytes (a + t * keepBytes im x.layers + j * im.kv.slipBytes) (rdBytes s e im.kv.slipBytes) s
      | none => s) s) s

/-- A step commits (R320, R321, R323, R418): the entries of the path join the sequence, completed pages are to be flushed,
positions of other members are cleared and counted, the binding is released. -/
def commitBind (b : Nat) (path : List Nat) (s : State) : State :=
  match bindOf s b with
  | none => s
  | some x =>
    let im := imgOf s (seqOf s x.seq).im
    let n := if x.verify then path.length else x.n
    let top := x.base + n
    let s := if x.verify then
        bump .KVM_DRAFT_DISC_CNT ((x.n - n) * x.layers) 0 (copyPath x im.kv path s)
      else s
    let s := if x.keep then storeKeep x im s else s
    let foreign := ((List.range n).filter fun t => !heldPos im (x.base + t)).length * x.layers
    let s := bump .NET_KV_FOREIGN_CNT foreign 0 s
    let full := ((List.range (top / 64)).filter fun p => decide (x.base ≤ p * 64 + 63) && heldPos im (p * 64))
    let fl := ((List.range x.layers).map (x.first + ·)).flatMap fun l => full.map fun p => (l, p, tget 0 x.frames (lpKey l p))
    endBind b (modSeq x.seq (fun q => { q with len := top, toFlush := q.toFlush ++ fl }) s)

/-! ### Serving errors (R385, R393) -/

/-- A status of a command that ran steps, as SRV_STAT and the log show it. -/
def srvEvent (h status info : Nat) (s : State) : State :=
  match cmdOf s h with
  | none => s
  | some c =>
    let ev := fun (bit code sev : Nat) => srvLog code sev c.fn c.q (handleOf c.gen h) [c.op, status, info] (srvFlag bit c.ctx s)
    match status with
    | 0x12 => ev 1 8 3
    | 0x13 => ev 2 9 2
    | 0x14 => ev 0 0x0B 2
    | 0x15 => ev 3 6 3
    | 0x05 => srvLog 6 3 c.fn c.q (handleOf c.gen h) [c.op, status, info] s
    | 0x11 => srvLog 6 3 c.fn c.q (handleOf c.gen h) [c.op, status, info] s
    | 0x19 => srvLog 6 3 c.fn c.q (handleOf c.gen h) [c.op, status, info] s
    | _ => s

/-! ### Stream rings (R371 to R373) -/

/-- The run of a command, and its change. -/
def genOf (s : State) (h : Nat) : Option Gen := (s.gens.find? fun e => e.1 == h).map (·.2)
def modGen (h : Nat) (f : Gen → Gen) (s : State) : State :=
  match genOf s h with
  | some g => { s with gens := tins s.gens h (f g) }
  | none => s

/-- An entry of a stream ring. -/
structure RingE where
  ty    : Nat
  token : Nat := 0
  pos   : Nat := 0
  logp  : Nat := 0
  stop  : Bool := false
  deriving DecidableEq, Repr

/-- Free entries of a ring, by the device's own count. -/
def ringFree (g : Gen) : Nat := 2 ^ g.ringLog2 - (g.count - g.headW)

/-- The ring can be written: the link to the host, or the queue pair to the peer, stands. -/
def ringUp (s : State) (c : Cmd) (g : Gen) : Bool :=
  match g.peer with
  | none => s.pcie.linkUp
  | some p => qpReady s (qpNum (peerE s c.ctx p) 1)

/-- The bytes of a ring entry. -/
def ringBytes (g : Gen) (e : RingE) : List Byte :=
  bytesLE 4 e.token ++ bytesLE 4 e.pos ++ bytesLE 4 e.logp ++ bytesLE 1 e.ty ++
  bytesLE 1 (b2n (g.count / 2 ^ g.ringLog2 % 2 == 0) + 2 * b2n e.stop) ++ bytesLE 2 g.count

/-- An entry is written to the ring of a command. -/
def ringPut (h : Nat) (e : RingE) (s : State) : State :=
  match genOf s h, cmdOf s h with
  | some g, some c =>
    let a := g.ringAddr + 16 * (g.count % 2 ^ g.ringLog2)
    let b := (ringBytes g e).map (·.toNat)
    let s := match g.peer with
      | none => emit (.hostWrite c.fn a b) s
      | some p => netSend c.ctx p 1 ntWrite (a :: b) s
    let s := if e.ty = 1 then srvCount .SRV_TOKEN_CNT 1 c.ctx s else if e.ty = 3 then srvCount .SRV_RETRACT_CNT 1 c.ctx s else s
    modGen h (fun g => { g with count := g.count + 1 }) s
  | _, _ => s

/-- Entries are written in order, and the vector of the ring is signalled. DEDUCED (log entry 45). -/
def ringPuts (h : Nat) (es : List RingE) (s : State) : State :=
  match genOf s h, cmdOf s h with
  | some g, some c => whenS (g.ringVec != 0xFFFF && !es.isEmpty) (signal c.fn g.ringVec) (foldS es (ringPut h) s)
  | _, _ => s

/-! ### The end of a command that runs steps -/

/-- A prefix's references. -/
def takePages (ps : Tab PEnt) (s : State) : State := foldS ps (fun e => refDesc e.2.desc) s

/-- The command ends: its steps in flight are abandoned, END is written where it has a ring that has room, its temporary
sequence is freed, the completion record is written (R361, R370 to R373, R379). -/
def endGen (h status reason : Nat) (s : State) : State :=
  match genOf s h, cmdOf s h with
  | some g, some c =>
    let due := g.pfx.isNone && status != 0x12 && status != 0x13 && decide (0 < ringFree g)
    let status := if due && !ringUp s c g then 0x12 else status
    let s := srvEvent h status g.done s
    let s := foldS (g.bind.toList ++ g.dbind.toList) abandonBind s
    let s := whenS (due && status != 0x12)
      (ringPuts h [{ ty := 4, token := reason }]) s
    let s := { s with gens := tdel s.gens h }
    let s := whenS g.pfx.isSome (freeSeqIdx g.seq) s
    complete h status g.done (if g.pfx.isSome then 0 else g.accepted % 2 ^ 32 + 2 ^ 32 * (g.proposed % 2 ^ 32)) s
  | _, _ => s

/-- The reason code of END for a status (R371). -/
def endReason (status : Nat) : Nat := if status = 7 ∨ status = 6 then 3 else if status = 0 then 0 else 4

/-- The copies of the adapters of an image that are active, as those that a BACKWARD uses from its start to its end (R146). -/
def latchCopies (im : Nat) (on : Bool) (s : State) : State :=
  foldS (imgOf s im).adapters (fun a s =>
    { s with adapters := tmod {} s.adapters (adpKey im a.index) fun p => { p with bwd := if on then some p.copy else none } }) s

/-- A BACKWARD, ADAPT_UPDATE or ADAPT_ZERO ends; the training store that a BACKWARD names is freed (R334, R384). -/
def endTrain (h status info value : Nat) (s : State) : State :=
  match cmdOf s h with
  | none => s
  | some c =>
    let s := srvEvent h status info s
    let s := match (if c.op = 0x14 then c.seq else none) with
      | some i =>
        let outside := fun (e : Nat × Nat × Nat × Nat) =>
          decide (e.1 + e.2.1 ≤ c.u 0x14 4) || decide (c.u 0x14 4 + c.u 0x20 4 ≤ e.1)
        latchCopies (c.im.getD 0) false (modSeq i (fun q => { q with keepAt := none, keep := q.keep.filter outside }) s)
      | none => s
    complete h status info value s

/-- A running command whose step cannot go on ends with a status. -/
def endStepCmd (h status : Nat) (s : State) : State :=
  if (genOf s h).isSome then endGen h status (endReason status) s else endTrain h status 0 0 s

/-- The step of a binding cannot go on: the command that runs it ends. -/
def failStep (b status : Nat) (s : State) : State :=
  match bindOf s b with
  | some x => endStepCmd x.h status s
  | none => s

/-- The running commands that use a sequence, as their own or as the draft of their own, end with a status. -/
def failSeqCmds (i status : Nat) (s : State) : State :=
  let uses := fun (g : Gen) => g.seq == i || (seqOf s g.seq).draft == some i
  let hs := (s.gens.filter fun e => uses e.2).map (·.1) ++
    (s.cmds.filter fun e => e.2.run && e.2.op == 0x14 && e.2.seq == some i).map (·.1)
  foldS hs (fun h => endStepCmd h status) s

/-- The running commands of the images of which `p` holds that have a step in flight end with a status.
DESIGN CHOICE (log entry 61). -/
def failSteps (p : Nat → Bool) (status : Nat) (s : State) : State :=
  foldS ((s.cmds.filter fun e => e.2.run && (match e.2.im with
    | some im => p im
    | none => false) && (opTrains e.2.op || (match genOf s e.1 with
    | some g => g.bind.isSome || g.dbind.isSome
    | none => false))).map (·.1)) (fun h => endStepCmd h status) s

/-! ### Step descriptors (R364 to R366) -/

/-- An entry of a role in round robin, of which `ok` holds; the turn moves behind it. -/
def pickEntry (im role : Nat) (ok : EntryE → Bool) (s : State) : Option (EntryE × State) :=
  let es := roleEntries s im role
  let key := im * 4 + role
  let t := tget 0 s.entryTurn key
  ((List.range es.length).find? fun i => ok (es.getD ((t + i) % es.length) {})).map fun i =>
    let n := (t + i) % es.length
    (es.getD n {}, { s with entryTurn := tset 0 s.entryTurn key ((n + 1) % es.length) })

/-- A descriptor, zero-padded to DESC_LEN, leaves for the entry slot, unless a breakpoint of KIND 1 holds it (R630); one that would have
to cross a closed crossing ends its command with FENCED (R480). -/
def sendDesc (e : EntryE) (d : List Nat) (s : State) : State :=
  let m : Msg := .fabric 3 e.cl tagStep ([e.ctx, e.slot] ++ d ++ List.replicate (e.descLen - d.length) 0)
  let b := breakpoint 1 (d.getD 11 0) none s
  if b.1 then { b.2 with dbg.descs := b.2.dbg.descs ++ [(d.getD 11 0, m)] }
  else if hubClosed b.2 (.scratch e.cl) then endStepCmd (d.getD 11 0 % 4096) stFenced (xreset b.2)
  else emit m b.2

/-- Elements 0 to 11 of a step descriptor of a command that runs steps. -/
def descHead (op b seq base n sflags : Nat) (g : Gen) (handle : Nat) : List Nat :=
  [op, b, seq, base, n, sflags, g.temp, g.topK, g.topP, g.seed % 2 ^ 32, g.seed / 2 ^ 32, handle]

/-- −1 as an INT32 element. -/
def minus1 : Nat := 0xFFFFFFFF

/-- The parents of the candidates as elements of a descriptor. -/
def parentElems (ps : List Nat) : List Nat := minus1 :: ps.drop 1

/-! ### The start of a step (R370, R372, R374, R375) -/

/-- The role's first entry, which gives FIRST_LAYER, LAYERS and VOCAB. -/
def roleE (s : State) (im role : Nat) : EntryE := (roleEntries s im role).headD {}

/-- Job steps run one at a time in acceptance order (R416). DESIGN CHOICE (log entry 46). -/
def jobTurn (s : State) (c : Cmd) (im : Nat) : Bool :=
  (imgOf s im).peers.job == 0 ||
  (!(s.binds.any fun e => e.2.jstep != 0 && (seqOf s e.2.seq).ctx == c.ctx) &&
   s.gens.all fun e => match cmdOf s e.1 with
     | some d => d.ctx != c.ctx || decide (c.order ≤ d.order)
     | none => true)

/-- The job step number of a new step. -/
def giveStep (k im : Nat) (s : State) : Nat × State :=
  if (imgOf s im).peers.job = 0 then (0, s)
  else ((jobOf s k).given + 1, modMember k (fun j => { j with given := j.given + 1 }) s)

/-- A step that cannot be reserved: KV_FULL (R315). -/
def kvFull (h i : Nat) (s : State) : State := endGen h 0x10 4 (kvmErr 0 0x3F i 0x0A 1 s)

/-- A binding for a step of the run of a command, and its descriptor; `f` records the binding in the run. -/
def openStep (h im role : Nat) (x : Bind) (e : EntryE) (d : Nat → List Nat) (f : Nat → Gen → Gen) (s : State) : State :=
  let r := roleE s im role
  match cmdOf s h with
  | none => s
  | some c =>
    let n := giveStep c.ctx im s
    match createBind { x with h := h, first := r.first, layers := r.layers, cl := e.cl * 4096 + e.ctx, jstep := n.1 } n.2 with
    | none => kvFull h x.seq s
    | some (b, t) => sendDesc e (d b) (modGen h (f b) t)

/-- A STEP of up to `n` tokens of a list on a sequence, as many as the next entry of the role takes. -/
def openTokens (h im role i : Nat) (toks : List Nat) (last draft : Bool) (s : State) : State :=
  match genOf s h, cmdOf s h with
  | some g, some c =>
    match pickEntry im role (fun e => decide (13 ≤ e.descLen)) s with
    | none => endGen h 0x14 4 s
    | some (e, s) =>
      let n := min (min toks.length e.nMax) (min (e.descLen - 12) (kvOf s im).stepMax)
      let ts := toks.take n
      let q := seqOf s i
      let sample := last && n == toks.length
      if (kvOf s im).posMax < q.len + n then endGen h 1 2 s
      else
        let x : Bind := { seq := i, base := q.len, n := n, keep := g.keep && !draft, draft := draft, level := draft, toks := ts,
                          sample := sample }
        let fl := b2n sample + 2 * b2n g.logprob + 4 * b2n (g.keep && !draft)
        openStep h im role x e (fun b => descHead 1 b i q.len n fl g (handleOf c.gen h) ++ ts)
          (fun b g => if draft then { g with dbind := some b } else { g with bind := some b }) s
  | _, _ => s

/-- An entry takes a tree of `n` candidates (R366). -/
def takesTree (n : Nat) (e : EntryE) : Bool := decide (n ≤ e.nMax) && decide (12 + 2 * n ≤ e.descLen)

/-- A VERIFY binding on the draft sequence (`role` 1) or on the main one (`role` 0), with the tokens given. -/
def openTree (h im role i : Nat) (toks : List Nat) (s : State) : State :=
  match genOf s h, cmdOf s h with
  | some g, some c =>
    let n := g.parents.length
    match pickEntry im role (takesTree n) s with
    | none => endGen h 0x14 4 s
    | some (e, s) =>
      let q := seqOf s i
      let dr := role == 1
      let x : Bind := { seq := i, base := q.len, verify := true, n := n, parents := g.parents, draft := dr, toks := toks,
                        sample := !dr }
      openStep h im role x e
        (fun b => descHead (if dr then 3 else 2) b i q.len n (b2n (!dr) + 2 * b2n g.logprob) g (handleOf c.gen h) ++ toks ++
          parentElems g.parents)
        (fun b g => if dr then { g with dbind := some b } else { g with bind := some b }) s
  | _, _ => s

/-- Tokens still to be brought into the draft sequence. -/
def draftLag (s : State) (q : Seq) : List Nat :=
  match q.draft with
  | some d => q.toks.drop (seqOf s d).len
  | none => []

/-- Speculation is in force for a run. -/
def speculates (s : State) (g : Gen) : Bool := g.spec != 0 && !rb s .SRV_CTRL 0

/-- Free entries that a step of a run needs (R372). -/
def roomNeeded (s : State) (g : Gen) : Nat :=
  2 * ((if speculates s g then treeDepth g.parents else 0) + 1) + 2

/-- A PREFIX_CREATE or CHECKPOINT of a sequence has started and waits for a boundary between two steps (R359). -/
def boundaryAwaited (s : State) (k i : Nat) : Bool :=
  s.cmds.any fun e => !e.2.run && (e.2.op == 0x18 || e.2.op == 0x20) && e.2.ctx == k && e.2.seqId == some (seqIdOf s i) &&
    mayStart s e.2

/-- The next step of a run: what is to be appended first, then decode steps or speculative rounds. -/
def nextStep (h im : Nat) (g : Gen) (s : State) : State :=
  let q := seqOf s g.seq
  if !g.input.isEmpty then openTokens h im 0 g.seq g.input (decide (0 < g.maxNew)) false s
  else match q.pend with
    | none => endGen h 0x03 4 s
    | some t =>
      if !speculates s g then
        let s := openTokens h im 0 g.seq [t] true false s
        whenS (g.spec != 0 && (genOf s h).any fun g => g.bind.isSome) (srvCount .SRV_SPEC_OFF_CNT 1 q.ctx) s
      else if !(draftLag s q).isEmpty then openTokens h im 1 (q.draft.getD 0) (draftLag s q) false true s
      else if (kvOf s im).posMax < q.len + treeDepth g.parents + 1 then endGen h 1 2 s
      else if !(roleEntries s im 0).any (takesTree g.parents.length) then endGen h 0x14 4 s
      else openTree h im 1 (q.draft.getD 0) (t :: (g.parents.drop 1).map fun _ => minus1) s

/-- STEP_START (R359, R370, R372): a run between two steps, for whose boundary no command waits, starts the next one once its ring
has room; else it asks for the head word. -/
def stepStart (h : Nat) (s : State) : State :=
  match genOf s h, cmdOf s h with
  | some g, some c =>
    match c.im with
    | none => s
    | some im =>
      if g.bind.isSome || g.dbind.isSome || (seqOf s g.seq).bind.isSome || !jobTurn s c im || cxFenced s c.ctx ||
        jobHeld s c.ctx || boundaryAwaited s c.ctx g.seq then s
      else if g.pfx.isNone && decide (ringFree g < roomNeeded s g) then
        let a := g.ringAddr + 16 * 2 ^ g.ringLog2
        let s := modGen h (fun g => { g with waits := true }) s
        match g.peer with
        | none => emit (.hostRead c.fn a 8) s
        | some p => netSend c.ctx p 1 ntRead [a, 8] s
      else nextStep h im g (modGen h (fun g => { g with waits := false }) s)
  | _, _ => s

/-! ### The commit of a step (R367, R376, R377) -/

/-- Every append that a binding owes has been admitted. -/
def appendsIn (s : State) (x : Bind) : Bool :=
  let kv := kvOf s (seqOf s x.seq).im
  x.elems.length == x.layers * x.n * 2 * kv.hkv * kv.w

/-- A binding has its RESULT and its appends. -/
def bindDone (s : State) (b : Nat) : Bool :=
  match bindOf s b with
  | some x => x.result.isSome && appendsIn s x
  | none => false

/-- The prefix table, or the function's quota, is full. -/
def prefixFull (s : State) (k : Nat) : Bool :=
  decide (16384 ≤ s.prefixes.length) ||
  decide (rf s .SRV_FN_PFX_QUOTA 14 0 (k % 32) ≤ (s.prefixes.filter fun p => p.ctx % 32 == k % 32).length)

/-- A prefix is made of the first `p` positions of a sequence, whose entries are all in pages (R328). -/
def addPrefix (k handle i p : Nat) (s : State) : State :=
  let q := seqOf s i
  let ps := (q.pages.filter fun e => decide (e.1 % 2 ^ 16 * 64 < p)).map fun e =>
    if e.1 % 2 ^ 16 = (p - 1) / 64 then (e.1, { e.2 with count := (p - 1) % 64 + 1 }) else e
  let s := takePages ps s
  let x : Prefix := { ctx := k, handle := handle, im := q.im, len := p, pages := ps, toks := q.toks.take p }
  modCx k (fun c => { c with gonePfx := c.gonePfx.filter (· != handle) }) { s with prefixes := s.prefixes ++ [x] }

/-- Positions of a sequence below `p` that are still in slip go into its open page (R328), under pins (R327); none where no frame is
free. -/
def sealPage (i l p : Nat) (s : State) : Option State :=
  let q := seqOf s i
  let im := imgOf s q.im
  let g := (p - 1) / 64
  let r1 := (p - 1) % 64 + 1
  if !heldPos im (g * 64) || r1 ≤ pageCount s i l g then some s
  else
    let bay := bayOfPage im l g
    let code := if needsFrame s i l g then allocFrame s im.kv l bay else some 0
    code.map fun c =>
      let r0 := pageCount s i l g
      let slip := tget 0 q.slips (lpKey l g)
      let s := whenS (slip != 0) (pin (slip - 1) bay) s
      let o := openPage i l g c (pinShared i l g s)
      let s := whenS (c != 0 && codeTier c == 2) (bump .KVM_DIRECT_CNT) o.2
      modSeq i (fun q => { q with pages := tmod {} q.pages (lpKey l g) fun e => { e with count := r1 } })
        (writeRecs i l g o.1 r0 r1 s)

/-- All layers of the image are sealed. -/
def sealAll (i p : Nat) (s : State) : Option State :=
  reserveAll ((List.range (kvOf s (seqOf s i).im).layers.length).map fun l => sealPage i l p) s

/-- What a seal reads holds an uncorrectable error. -/
def sealPoison (s : State) (i p : Nat) : Bool :=
  (List.range (kvOf s (seqOf s i).im).layers.length).any fun l =>
    flushPoison s i l ((p - 1) / 64) (pageCount s i l ((p - 1) / 64)) ((p - 1) % 64 + 1)

/-- A page that a seal writes to is MOVING, so that the seal waits (R330). -/
def sealWaits (s : State) (i p : Nat) : Bool :=
  (List.range (kvOf s (seqOf s i).im).layers.length).any fun l => pageMoving s i l ((p - 1) / 64)

/-- A sequence's flushes have all completed. -/
def noFlush (s : State) (i : Nat) : Bool := (seqOf s i).toFlush.isEmpty && (seqOf s i).flushing.isEmpty

/-- Tokens leave: they go to the ring and the last one becomes the pending token. DEDUCED (log entry 45). -/
def emitTokens (h i : Nat) (es : List RingE) (n last : Nat) (s : State) : State :=
  let s := ringPuts h es s
  modSeq i (fun q => { q with pend := some last }) (modGen h (fun g => { g with emitted := g.emitted + n }) s)

/-- A run goes on after a commit, or ends: at a stop token, at MAX_NEW, or, for a prefix, at its last token. -/
def goOn (h : Nat) (stopped : Bool) (s : State) : State :=
  match genOf s h, cmdOf s h with
  | some g, some c =>
    if g.pfx.isSome then
      if !g.input.isEmpty || !noFlush s g.seq || sealWaits s g.seq g.done then s
      else if prefixFull s c.ctx then endGen h 0x0F 4 s
      else if sealPoison s g.seq g.done then endGen h 0x11 4 (failSeq g.seq 0x3F s)
      else match sealAll g.seq g.done s with
        | none => kvFull h g.seq s
        | some s => endGen h 0 0 (spillCheck (kvOf s (seqOf s g.seq).im) (addPrefix c.ctx (g.pfx.getD 0) g.seq g.done s))
    else if stopped then endGen h 1 1 s
    else if g.input.isEmpty && decide (g.maxNew ≤ g.emitted) then endGen h 0 0 s
    else s
  | _, _ => s

/-- A STEP of the main sequence commits. DEDUCED (log entry 45). -/
def commitStep (h b : Nat) (x : Bind) (res : List Nat) (s : State) : State :=
  match genOf s h, cmdOf s h with
  | some g, some c =>
    let s := commitBind b [] s
    let pend := g.pendIn || g.input.isEmpty
    let s := modSeq x.seq (fun q => { q with toks := q.toks ++ x.toks, pend := if pend then none else q.pend }) s
    let s := modGen h (fun g => { g with bind := none, input := g.input.drop x.n, pendIn := false, done := g.done + x.n }) s
    if !x.sample then goOn h false (progress h s)
    else
      let t := res.getD (2 * (x.n - 1)) minus1
      let stop := g.stops.contains t
      if !ringUp s c g then
        endGen h 0x12 4 (modSeq x.seq (fun q => { q with pend := some t }) s)
      else
        let e : RingE := { ty := 1, token := t, pos := x.base + x.n, logp := res.getD (2 * (x.n - 1) + 1) 0, stop := stop }
        goOn h stop (progress h (emitTokens h x.seq [e] 1 t s))
  | _, _ => s

/-- A STEP that brings the draft sequence level commits. -/
def commitLevel (h b : Nat) (s : State) : State :=
  progress h (modGen h (fun g => { g with dbind := none }) (commitBind b [] s))

/-- The walk of R376: the candidates accepted, from the root down. -/
def walkTree (parents toks res : List Nat) : Nat → Nat → List Nat
  | 0, c => [c]
  | n + 1, c =>
    let t := res.getD (2 * c) minus1
    match (List.range parents.length).find? fun d => d != 0 && parents.getD d 0 == c && toks.getD d minus1 == t with
    | some d => c :: walkTree parents toks res n d
    | none => [c]

/-- The list without what follows its first stop token. -/
def cutStop (stops : List Nat) (t : Nat → Nat) : List Nat → List Nat
  | [] => []
  | c :: cs => if stops.contains (t c) then [c] else c :: cutStop stops t cs

/-- The length of the common head of two lists. -/
def commonLen : List Nat → List Nat → Nat
  | a :: as, b :: bs => if a = b then commonLen as bs + 1 else 0
  | _, _ => 0

/-- The ring entries that close a round (R377): tokens emitted with their log-probabilities, provisional tokens, base. -/
def roundEntries (base : Nat) (em : List (Nat × Nat)) (provs : List Nat) (stop : Bool) : List RingE :=
  let k := em.length - 1
  let j := commonLen provs ((em.take k).map (·.1))
  let toks := em.mapIdx fun i e =>
    ({ ty := 1, token := e.1, pos := base + 1 + i, logp := e.2, stop := stop && i == k } : RingE)
  toks.take j ++ (if j < provs.length then [{ ty := 3, pos := base + 1 + j }] else []) ++ toks.drop j

/-- The sequence of a binding has lost data that its commit reads: it is FAILED, and its command ends with KV_LOST (R339). -/
def loseSeq (x : Bind) (s : State) : State :=
  failSeqCmds x.seq 0x11 (failSeq x.seq (ownBay (imgOf s (seqOf s x.seq).im) x x.first x.base) s)

/-- A speculative round commits: both bindings with the same path, the tokens to the ring (R375 to R377). -/
def commitRound (h b d : Nat) (x : Bind) (res : List Nat) (s : State) : State :=
  match genOf s h, cmdOf s h with
  | some g, some c =>
    let tok := fun n => res.getD (2 * n) minus1
    let walk := walkTree x.parents x.toks res x.n 0
    let nodes := (cutStop g.stops tok walk).take (g.maxNew - g.emitted)
    let em := nodes.map fun n => (tok n, res.getD (2 * n + 1) 0)
    let k := nodes.length - 1
    let last := (em.getLastD (minus1, 0)).1
    let stop := g.stops.contains last
    if commitLost s x nodes then loseSeq x s
    else if ((bindOf s d).map fun y => commitLost s y nodes).getD false then loseSeq ((bindOf s d).getD {}) s else
    let s := commitBind d nodes (commitBind b nodes s)
    let s := srvCount .SRV_DRAFT_ACC_CNT k c.ctx s
    let s := modSeq x.seq (fun q => { q with toks := q.toks ++ nodes.map (fun n => x.toks.getD n 0), pend := some last }) s
    let s := modGen h (fun g => { g with bind := none, dbind := none, done := g.done + k + 1, accepted := g.accepted + k,
                                         cand := [], provs := [] }) s
    if !ringUp s c g then endGen h 0x12 4 s
    else goOn h stop (progress h (emitTokens h x.seq (roundEntries x.base em g.provs stop) em.length last s))
  | _, _ => s

/-- Of the result elements of a step, those that a job member commits: rank 0's (R421); none while they are awaited. -/
def commitRes (s : State) (x : Bind) : Option (List Nat) :=
  let q := seqOf s x.seq
  let t := (imgOf s q.im).peers
  if x.jstep = 0 || t.self = 0 then x.result
  else match peerOfRank t 0 with
    | none => none
    | some p =>
      (((tget {} (jobOf s q.ctx).peers p).recs.find? fun e => e.1 == x.jstep).map fun e => e.2.drop 4)

/-- Sampled tokens that differ from those of rank 0 are counted (R421) and logged (R429), with a code that R654 does not give.
DESIGN CHOICE (log entry 6). -/
def countDiv (x : Bind) (res : List Nat) (s : State) : State :=
  let own := x.result.getD []
  let n := ((List.range x.n).filter fun j => own.getD (2 * j) 0 != res.getD (2 * j) 0).length
  let k := (seqOf s x.seq).ctx
  whenS (n != 0) (logE { cls := 7, code := (Config.catalogue 7 0).toNat, sev := 1, pt := k / 32, func := k % 32, object := x.seq, data := [0, (jobOf s k).epoch, 0] })
    (bump .NET_TOKEN_DIV_CNT n 0 s)

/-- STEP_COMMIT (R367, R375, R421): a step in which a unit reported an error is abandoned, and its command ends with the status of
the error (R108, R138, R385). -/
def stepCommit (b : Nat) (s : State) : State :=
  match bindOf s b with
  | none => s
  | some x =>
    match genOf s x.h, commitRes s x with
    | some g, some res =>
      if !bindDone s b then s
      else if let some st := (cmdOf s x.h).bind (·.err) then endStepCmd x.h st s
      else if x.level then commitLevel x.h b s
      else if x.draft then s
      else if x.verify then match g.dbind with
        | some d => if bindDone s d then commitRound x.h b d x res s else s
        | none => s
      else
        if commitLost s x [] then loseSeq x s else
        let k := (seqOf s x.seq).ctx
        let s := if x.jstep = 0 then s else modMember k (fun j => { j with step := x.jstep }) (countDiv x res s)
        commitStep x.h b x res s
    | _, _ => s

end Sys2Proof.Machine
end

