-- ==== Sys2Proof/Machine/Attn.lean ====
section
/-! DEFINITION. The events of the attention engines and of the key/value manager (R311 to R334). -/

namespace Sys2Proof.Machine

open Sys2Proof

/-- A send to the attention engines or the slip buffer is refused (R318, R339). -/
def refuseKv (cl ctx bind status bay : Nat) (s : State) : State :=
  let s := emit (.fabric 3 cl tagRefuse [ctx, bind, status]) s
  let i := ((bindOf s bind).map (·.seq)).getD 0
  whenS (status != stFenced) (kvmErr 2 bay i 0x0C 3) s

/-! ### Queries (R316) -/

/-- The layer of a query or an append is one that the binding's step reaches. -/
def layerOk (x : Bind) (kv : KvLayout) (l : Nat) : Bool :=
  decide (l < kv.layers.length) && decide (x.first ≤ l) && decide (l < x.first + x.layers)

/-- Key of a unit of a layer. -/
def unitKey (l g : Nat) : Nat := l * 2 ^ 16 + g

/-- The units whose codes or scales a query brings, as index and values. -/
def queryUnits (part w off : Nat) (vals : List Nat) : List (Nat × List Nat) :=
  if part = 0 then (List.range (vals.length / w)).map fun k => (off / w + k, (vals.drop (k * w)).take w)
  else vals.mapIdx fun k v => (off + k, [v])

/-- A query is refused: no whole units, another format, a unit beyond the binding's, one that has already come.
DESIGN CHOICE (log entry 43). -/
def queryBad (x : Bind) (kv : KvLayout) (l part off fmt : Nat) (vals : List Nat) : Bool :=
  let us := queryUnits part kv.w off vals
  !layerOk x kv l || vals.isEmpty || fmt != (if part = 0 then 3 else 15) ||
  (part == 0 && (off % kv.w != 0 || vals.length % kv.w != 0)) ||
  us.any (fun u => decide (x.n * kv.hq ≤ u.1) ||
    (let y := tget {} x.units (unitKey l u.1)
     if part = 0 then !y.codes.isEmpty else y.scale != 0))

/-- The data of a query is taken: codes with the context that sent them, scales with their events (R77).
DESIGN CHOICE (log entry 43). -/
def takeQuery (b cl ctx l part g0 : Nat) (bay : Nat) (us : List (Nat × List Nat)) (s : State) : State :=
  foldS us (fun u s =>
    let s := whenS (part == 1 && u.2.headD 0 == 0xFF) (kvmConv 3 1 bay (((bindOf s b).map (·.seq)).getD 0)) s
    modBind b (fun x => { x with units := tmod {} x.units (unitKey l u.1) fun y =>
      if part = 0 then { y with codes := u.2.map (· + 1), cl := cl, ctx := ctx, g0 := g0 }
      else { y with scale := u.2.headD 0 + 1 } }) s) s

/-- A bay of the stripe of a layer: a halted one where there is one (48 where the binding has none). -/
def stripeBay (s : State) (bind layer : Nat) : Nat :=
  match bindOf s bind with
  | none => 48
  | some x =>
    let st := (kvLayer (kvOf s (seqOf s x.seq).im) layer).stripe
    (st.find? fun b => halted s b).getD (st.headD 48)

/-- QUERY_ARRIVAL (R316): query codes (PART 0) or scales (PART 1) of whole units reach every bay of the stripe, whose
engines abandon a cross-check (R513); `addr` is the ADDR of the destination word. -/
def execQueryArrival (cl ctx addr off fmt : Nat) (vals : List Nat) (s : State) : Out :=
  let bind := kvBind addr
  let layer := kvLay addr
  let part := kvPart addr
  done <| withhold (stripeBay s bind layer) (boundary 58 (bind * 64 + layer))
      (.queryArrival cl ctx addr off fmt vals) (fun s => match bindOf s bind with
    | none => refuseKv cl ctx bind stExec 0x3F s
    | some x =>
      let kv := kvOf s (seqOf s x.seq).im
      if queryBad x kv layer part off fmt vals then refuseKv cl ctx bind stExec 0x3F s
      else
        let stripe := (kvLayer kv layer).stripe
        match stripe.find? fun b => !unitUp s 4 b with
        | some b => failStep bind stFenced (refuseKv cl ctx bind stFenced b s)
        | none =>
          let us := queryUnits part kv.w off vals
          let s := takeQuery bind cl ctx layer part (off / kv.w) (stripe.headD 0) us (foldS stripe (abandonOn 4) s)
          prefetch bind (modBind bind (fun x => { x with atLayer := layer }) s)) s

/-! ### Appends (R318, R319) -/

/-- The entry of token or candidate `j` of a binding (R319). -/
def entryOf (s : State) (x : Bind) (kv : KvLayout) (l j : Nat) : Option Nat :=
  if x.verify && j != 0 then some (draftAt x kv l j) else slipAt s x.seq l (x.base + j)

/-- Key of an appended element. -/
def elemKey (l o : Nat) : Nat := l * 2 ^ 26 + o

/-- An append is refused (R318). DESIGN CHOICE (log entry 43). -/
def appendBad (s : State) (x : Bind) (kv : KvLayout) (l off : Nat) (vals : List Nat) : Bool :=
  let q := seqOf s x.seq
  !layerOk x kv l || decide (x.n * 2 * kv.hkv * kv.w < off + vals.length) ||
  (List.range vals.length).any (fun i => tget 0 x.elems (elemKey l (off + i)) != 0) || q.failed || cxFenced s q.ctx

/-- A head whose W elements have all arrived is converted and stored at its entry (R69, R319); an entry of which a word refuses the
write (R288) is lost, and its sequence FAILED. DESIGN CHOICE (log entry 43). -/
def storeHead (b l n : Nat) (s : State) : State :=
  match bindOf s b with
  | none => s
  | some x =>
    let im := imgOf s (seqOf s x.seq).im
    let kv := im.kv
    let xs := (List.range kv.w).map fun e => tget 0 x.elems (elemKey l (n * kv.w + e))
    if xs.contains 0 then s else
    let j := n / (2 * kv.hkv)
    match entryOf s x kv l j with
    | none => s
    | some a =>
      let r := slipForm (xs.map (· - 1))
      let h := n % (2 * kv.hkv)
      let lost := wrRefused s (a + h * kv.w) kv.w || wrRefused s (a + 2 * kv.hkv * kv.w + h) 1
      let bay := ownBay im x l (x.base + if x.verify then 0 else j)
      let s := putHead kv a h r.1 r.2 (whenS (r.1 == 0xFF) (kvmConv 2 1 bay x.seq) s)
      if lost then failSeqCmds x.seq 0x11 (failSeq x.seq bay s) else s

/-- The elements of an append are recorded. -/
def markElems (l : Nat) : Nat → List Nat → Tab Nat → Tab Nat
  | _, [], m => m
  | o, v :: vs, m => markElems l (o + 1) vs (tins m (elemKey l o) (v + 1))

/-- The entries that a run of elements of a binding is stored into. -/
def appendPlaces (s : State) (x : Bind) (kv : KvLayout) (l off n : Nat) : List (Nat × Nat) :=
  let per := 2 * kv.hkv * kv.w
  ((List.range x.n).filter fun j => decide (j * per < off + n) && decide (off < (j + 1) * per)).filterMap fun j =>
    (entryOf s x kv l j).map fun a => (a, kv.slipBytes)

/-- APPEND_ARRIVAL (R318): a run of FP32 elements of new keys and values; `addr` is the ADDR of the destination word, whose reserved bit
has no effect. DESIGN CHOICE (log entry 43). -/
def execAppendArrival (cl ctx addr off : Nat) (vals : List Nat) (s : State) : Out :=
  let bind := kvBind addr
  let layer := kvLay addr
  let bay := stripeBay s bind layer
  let key := boundary 59 (bind * 64 + layer)
  done <| withhold bay key (.appendArrival cl ctx addr off vals) (fun s => match bindOf s bind with
    | none => refuseKv cl ctx bind stExec 0x3F s
    | some x =>
      let kv := kvOf s (seqOf s x.seq).im
      if appendBad s x kv layer off vals then refuseKv cl ctx bind stExec 0x3F s
      else
        let bp := accessesBp 3 bay (appendPlaces s x kv layer off vals.length) s
        let s := bp.2
        if bp.1 then { s with dbg.waiting := (bay, key, .appendArrival cl ctx addr off vals) :: s.dbg.waiting }
        else
          let s := modBind bind (fun x => { x with elems := markElems layer off vals x.elems }) s
          foldS ((List.range ((off + vals.length - 1) / kv.w + 1)).filter fun n => decide (off / kv.w ≤ n) && !vals.isEmpty)
            (storeHead bind layer) s) s

/-! ### Scores (R309 to R313, R317) -/

/-- A flush of the sequence-layer is pending, so that its queries wait (R321). DESIGN CHOICE (log entry 44). -/
def flushPending (q : Seq) (l : Nat) : Bool := (q.toFlush ++ q.flushing).any fun f => f.1 == l

/-- The bytes a pass reads at a visible position, and the frames and segments it pins. -/
def locRange (kv : KvLayout) : Loc → Nat × Nat
  | .page a => (a, recLen kv)
  | .slip a => (a, kv.slipBytes)

/-- The base of the segment that holds a slip-form entry. -/
def segBase (s : State) (x : Bind) (kv : KvLayout) (a : Nat) : Option Nat :=
  (((seqOf s x.seq).slips ++ x.drafts).map fun e => e.2 - 1).find? fun b => decide (b ≤ a) && decide (a < b + segSize kv)

/-- The partial of a unit is sent to the context that sent its codes (R317). -/
def sendPartial (kv : KvLayout) (l g rank : Nat) (u : QUnit) (p : List Nat) (s : State) : State :=
  emit (.fabric 3 u.cl tagQuery ([u.ctx, (kvLayer kv l).ret + rank, (g - u.g0) * (kv.w + 2)] ++ p)) s

/-- ENGINE_UNIT_SCORE (R310 to R313, R476, R480): an engine that drains still scores what it has admitted; a read or a partial that
would cross a closed crossing ends the step with FENCED. Bay `bay` scores a unit of a layer, `fault` telling a residue or parity error inside
the engine. -/
def execEngineUnitScore (bay bind layer unit : Nat) (fault : Bool) (s : State) : Out :=
  done <| match bindOf s bind with
    | none => s
    | some x =>
      let q := seqOf s x.seq
      let im := imgOf s q.im
      let kv := im.kv
      let u := tget {} x.units (unitKey layer unit)
      let rank := (kvLayer kv layer).stripe.findIdx (· == bay)
      if u.codes.isEmpty || u.scale = 0 || rank = (kvLayer kv layer).stripe.length || u.scored.contains rank ||
        flushPending q layer || !unitWorks s 4 bay || halted s bay then s
      else
        let j := unit / kv.hq
        let pages := visiblePages s im x layer bay j
        let slips := visibleSlips s im x layer bay j
        let reads := (pages.flatMap (·.2) ++ slips).map (locRange kv)
        let bp := accessesBp 2 bay reads s
        if bp.1 then bp.2 else
        let s := bp.2
        let lost := pages.any (fun p => (descOf s p.1).st == 4) || reads.any (fun r => anyPoison s r.1 r.2)
        let away := wayClosed s (bay / 6) (.scratch u.cl)
        let down := away || reads.any fun r => dieDown s (bay / 6) r.1 r.2
        let part := if fault || lost || down then nanPartial kv.w
          else bayPartial s im u layer unit (pages.map (·.2) ++ [slips])
        let segs := (slips.filterMap fun a => segBase s x kv (locRange kv a).1).dedup
        let far := (pages.filter fun p => (descOf s p.1).tier == 2).length
        let s := foldS (pages.map (fun p => (descOf s p.1).addr) ++ segs) (fun a => pin a bay) s
        let s := foldS pages (fun p => modDesc p.1 fun d => { d with unused := false }) s
        let s := bump .KVM_HBM_SCORE_CNT far 0 s
        let s := modBind bind (fun x => { x with units := tmod {} x.units (unitKey layer unit) fun y =>
          { y with scored := rank :: y.scored } }) s
        let s := if away then xreset s else sendPartial kv layer unit rank u part s
        let s := whenS fault (kvmErr 3 bay x.seq 0x0D 3) s
        if lost then failSeqCmds x.seq 0x11 (failSeq x.seq bay s)
        else if fault then failStep bind stExec s
        else if down then failStep bind stFenced s
        else s

/-! ### Flushes (R321, R325, R330) -/

/-- The frame a flush writes to: none needed, or a home frame where one is free or reserved, else the reserved one. -/
def flushFrame (s : State) (i l p code : Nat) : Option Nat :=
  if !needsFrame s i l p then some 0
  else
    let im := imgOf s (seqOf s i).im
    let bay := bayOfPage im l p
    if code != 0 && codeTier code != 2 then some code
    else frameIn s im.kv (homePools im.kv l bay) <|> (if code != 0 then some code else frameIn s im.kv (farPools im.kv))

/-- PAGE_FLUSH (R321): the owning bay begins a flush that a commit has asked for. -/
def execPageFlush (bay seq layer page : Nat) (s : State) : Out :=
  done <|
    let q := seqOf s seq
    match q.toFlush.find? fun f => f.1 == layer && f.2.1 == page with
    | none => s
    | some f =>
      if bayOfPage (imgOf s q.im) layer page != bay || !unitUp s 4 bay || halted s bay || pageMoving s seq layer page then s
      else
        let r0 := pageCount s seq layer page
        let rest := q.toFlush.erase f
        if flushPoison s seq layer page r0 64 then
          failSeqCmds seq 0x11 (failSeq seq bay (modSeq seq (fun q => { q with toFlush := rest }) s))
        else match flushFrame s seq layer page f.2.2 with
          | none => s
          | some c =>
            let kv := kvOf s q.im
            let a := if c = 0 then (descOf s (tget {} q.pages (lpKey layer page)).desc).addr else (c - 1) / 4
            let bp := accessesBp 3 bay ((List.range (64 - r0)).map fun r => (a + (r0 + r) * recLen kv, recLen kv)) s
            if bp.1 then bp.2 else
            let s := bp.2
            let slip := tget 0 q.slips (lpKey layer page)
            let s := whenS (slip != 0) (pin (slip - 1) bay) s
            let s := modSeq seq (fun q => { q with toFlush := rest, flushing := q.flushing ++ [(layer, page, 0)] }) s
            let o := openPage seq layer page c (pinShared seq layer page s)
            whenS (c != 0 && codeTier c == 2) (bump .KVM_DIRECT_CNT) (writeRecs seq layer page o.1 r0 64 o.2)

/-- FLUSH_COMPLETE (R321): the page holds all 64 records, the slip segment is freed. -/
def execFlushComplete (seq layer page : Nat) (s : State) : Out :=
  done <|
    let q := seqOf s seq
    match q.flushing.find? fun f => f.1 == layer && f.2.1 == page with
    | none => s
    | some f =>
      let k := lpKey layer page
      let im := imgOf s q.im
      let slip := tget 0 q.slips k
      let s := modSeq seq (fun q => { q with flushing := q.flushing.erase f,
                                             pages := tmod {} q.pages k fun e => { e with count := 64 } }) s
      let s := dropSlips seq (· == k) s
      let s := whenS (slip != 0) (unpin (slip - 1) (bayOfPage im layer page)) s
      let s := spillCheck im.kv (bump .KVM_FLUSH_CNT 1 0 s)
      foldS ((s.gens.filter fun e => e.2.pfx.isSome && e.2.seq == seq).map (·.1)) (fun h => goOn h false) s

/-! ### Pins and moves (R327, R332, R333) -/

/-- PIN_RELEASE (R327). -/
def execPinRelease (addr reader : Nat) (s : State) : Out :=
  done (whenS (s.pins.contains (addr, reader)) (unpin addr reader) s)

/-- The layout of a page, by the sequences and prefixes that refer to it, and a sequence among them. -/
def kvOfDesc (s : State) (d : Nat) : KvLayout :=
  (((s.seqs.find? fun e => e.2.pages.any fun p => p.2.desc == d).map fun e => kvOf s e.2.im) <|>
    ((s.prefixes.find? fun p => p.pages.any fun e => e.2.desc == d).map fun p => kvOf s p.im)).getD {}
def seqOfDesc (s : State) (d : Nat) : Nat :=
  ((s.seqs.find? fun e => e.2.pages.any fun p => p.2.desc == d).map (·.1)).getD 0

/-- The moves that follow the end of a move: those that a pool below its watermark needs, and the prefetches of the bindings (R332,
R333). -/
def moreMoves (kv : KvLayout) (s : State) : State := foldS (s.binds.map (·.1)) prefetch (spillCheck kv s)

/-- The page has been prefetched for a binding that has ended: it counts as unused (R344). -/
def notePrefetched (d : Nat) (s : State) : State :=
  if (holders s d).any (·.1) then modDesc d (fun x => { x with unused := true }) s else bump .KVM_PF_UNUSED_CNT 1 0 s

/-- PAGE_MOVE_COMPLETE (R332, R333): the copy is done and the descriptor points to the new frame, or an uncorrectable error
(`err`, or poison in the frame) makes the move be abandoned; prefixes that waited for the page are sealed (R330). -/
def execPageMoveComplete (desc : Nat) (err : Bool) (s : State) : Out :=
  done <|
    let d := descOf s desc
    match d.dest with
    | none => s
    | some (a, tier, pf) =>
      let kv := kvOfDesc s desc
      let s := if err || anyPoison s d.addr kv.pageBytes then
          kvmErr 4 d.bay (seqOfDesc s desc) 0x0E 2 (unpin d.addr 0x40 (modDesc desc (fun x => { x with st := 1, dest := none }) s))
        else
          let s := wrBytes a (rdBytes s d.addr kv.pageBytes) s
          let s := modDesc desc (fun x => { x with addr := a, tier := tier, st := 1, dest := none }) s
          let s := whenS pf (notePrefetched desc) s
          let s := bump (if pf then .KVM_PF_CNT else .KVM_SPILL_CNT) 1 0 (unpin d.addr 0x40 s)
          releaseUnit d.addr s
      foldS ((s.gens.filter fun e => e.2.pfx.isSome).map (·.1)) (fun h => goOn h false) (moreMoves kv s)

end Sys2Proof.Machine
end

