-- ==== Sys2Proof/Machine/Queue.lean ====
section
/-! DEFINITION. Queues and doorbells, the fetch and acceptance of commands, their cancellation, and the commands
on images (R346 to R361, R222, R226, R229). -/

namespace Sys2Proof.Machine

open Sys2Proof

/-! ### Doorbells (R347) -/

/-- A doorbell index at or above a ring's depth: DOORBELL_ERR, and the queue enters ERROR. DESIGN CHOICE (log entry 48). -/
def doorbell (fn q val depth : Nat) (f : QueueS → QueueS) (s : State) : State :=
  let k := qkOf fn q
  if (queueOf s k).st = 0 then s
  else if depth ≤ val then queueError k 2 3 s
  else modQueue k f s

/-- SQ_TAIL (R347). -/
def execSqTail (fn q val : Nat) (s : State) : Out :=
  done (doorbell fn q val (sqDepth s (qkOf fn q)) (fun x => { x with tail := val }) s)

/-- RQ_HEAD (R347): the records before the index have been read. -/
def execRqHead (fn q val : Nat) (s : State) : Out :=
  let d := rqDepth s (qkOf fn q)
  done (doorbell fn q val d (fun x => { x with unread := min x.unread ((x.recs + d - val) % d) }) s)

/-! ### Enabling and disabling (R346, R351) -/

/-- The configuration of a queue is within its limits. -/
def queueCfgOk (w : Word) : Bool :=
  let sq := fld w 7 4
  let rq := fld w 11 8
  decide (4 ≤ sq ∧ sq ≤ 12 ∧ 5 ≤ rq ∧ rq ≤ 13 ∧ sq + 1 ≤ rq)

/-- ENABLE = 1 is written to a queue that is not enabled: it enables from IDLE within the limits, else CFG_ERR.
DESIGN CHOICE (log entry 48). -/
def enableQueue (fn q : Nat) (s : State) : State :=
  let k := qkOf fn q
  if rb s .QM_Q_CFG 0 k then s
  else if (queueOf s k).st = 0 && queueCfgOk (rd s .QM_Q_CFG k) then
    modQueue k (fun _ => { st := 1 }) (wrf .QM_Q_CFG 0 0 1 k s)
  else
    let s := wrf .QM_STAT 13 8 q fn (setEv .QM_STAT 3 fn s)
    srvLog 4 2 fn q 0 [0, 0, 0] s

/-- QUEUE_ENABLE (R346). -/
def execQueueEnable (fn q : Nat) (s : State) : Out := done (enableQueue fn q s)

/-- ENABLE = 0 is written: fetching stops, and the queue is IDLE once every fetched command has completed; one that entered ERROR while it
drained, too (R347). -/
def disableQueue (fn q : Nat) (s : State) : State :=
  let k := qkOf fn q
  if !rb s .QM_Q_CFG 0 k && (queueOf s k).st != 3 then s
  else drained k (modQueue k (fun x => { x with st := 2 }) (wrf .QM_Q_CFG 0 0 0 k s))

/-- QUEUE_DISABLE (R351). -/
def execQueueDisable (fn q : Nat) (s : State) : Out := done (disableQueue fn q s)

/-! ### Fetch (R348, R349) -/

/-- A handle slot is free. -/
def slotAvailable (s : State) : Bool := decide (s.slotNew < 4096) || !s.slotFree.isEmpty

/-- Handles that a function holds. -/
def handlesOf (s : State) (fn : Nat) : Nat := (s.cmds.filter fun e => e.2.fn == fn).length

/-- A command of the queue can be fetched. -/
def fetchable (s : State) (k : Nat) : Bool :=
  let x := queueOf s k
  x.st == 1 && x.head != x.tail && decide (x.unread + x.resv + 2 ≤ rqDepth s k) && slotAvailable s &&
  decide (handlesOf s (k / 64) < rf s .QM_FN_QUOTA 12 0 (k / 64)) && !(fnOf s (k / 64)).inFlr

/-- The queues that can fetch, by function and number. -/
def fetchQueues (s : State) : List Nat := (s.queues.map (·.1)).filter (fetchable s)

/-- The queue that fetches next: the one whose turn it is while its turn lasts, else the next in the round (R349). -/
def nextQueue (s : State) : Option (Nat × Nat) :=
  let qs := fetchQueues s
  if 0 < s.turnLeft && qs.contains s.turn then some (s.turn, s.turnLeft)
  else ((qs.find? fun k => decide (s.turn < k)) <|> qs.head?).map fun k => (k, max 1 (rf s .QM_Q_CFG 15 12 k))

/-- The cmdOpcodes of R353. -/
def cmdOpcodes : List Nat :=
  [1, 2, 3, 4, 5, 6, 7, 0x10, 0x11, 0x12, 0x13, 0x14, 0x18, 0x19, 0x20, 0x21, 0x30, 0x31]

/-- The context that a command names: its own of a virtual function, any of the physical one; none where it may not act on
it or there is no such partition or function (R352, R356). -/
def contextOf (s : State) (fn : Nat) (raw : List Byte) : Option Nat :=
  let pt := leAt raw 4 1
  let f := leAt raw 5 1
  if fn = 0 then
    if ptExists s pt && (f == 0 || (decide (f ≤ s.pcie.numVfs) && s.pcie.vfEnable)) then some (cxKey pt f) else none
  else if pt = 0 ∧ f = 0 then (vfPt s fn).bind fun p => if ptExists s p then some (cxKey p fn) else none
  else none

/-- The status of a command's acceptance (R356), and its context. DESIGN CHOICE (log entry 48). -/
def acceptStatus (s : State) (fn : Nat) (raw : List Byte) : Nat × Nat :=
  if !cmdOpcodes.contains (leAt raw 0 1) then (2, 0)
  else if 4 ≤ leAt raw 1 1 ∨ leAt raw 6 2 ≠ 0 then (3, 0)
  else match contextOf s fn raw with
    | none => (4, 0)
    | some k => if cxFenced s k then (stFenced, 0) else (0, k)

/-- A handle slot is taken: a fresh one, else the one freed longest ago (R357). -/
def takeSlot (s : State) : Nat × State :=
  if s.slotNew < 4096 then (s.slotNew, { s with slotNew := s.slotNew + 1 })
  else (s.slotFree.headD 0, { s with slotFree := s.slotFree.drop 1 })

/-- A fetched command is accepted under a handle, or refused, in its acceptance record (R354, R356, R357); a refusal is logged (R385)
with a code that R654 does not give. DESIGN CHOICE (log entry 48). -/
def accept (k : Nat) (raw : List Byte) (s : State) : State :=
  let fn := k / 64
  let st := acceptStatus s fn raw
  if st.1 != 0 then
    let s := modQueue k (fun x => { x with resv := x.resv - 1 }) s
    let s := srvLog (Config.catalogue 9 0).toNat 2 fn (k % 64) 0 [leAt raw 0 1, st.1, 0] s
    putRecord k 0 0 (leAt raw 2 2) st.1 0 (leAt raw 8 8) s.now s
  else
    let t := takeSlot s
    let h := t.1
    let s := t.2
    let gen := tget 1 s.slotGen h
    let c : Cmd :=
      { gen := gen, fn := fn, q := k % 64, op := leAt raw 0 1, flags := leAt raw 1 1, cid := leAt raw 2 2, ctx := st.2,
        tag := leAt raw 8 8, raw := raw, order := s.accepted, at_ := s.now, prog := s.now, im := (cxOf s st.2).active }
    let s := setCmd h c { s with accepted := s.accepted + 1 }
    putRecord k 0 (handleOf gen h) c.cid 0 0 c.tag s.now s

/-- COMMAND_FETCH (R348, R349, R385): the next command is read from the submission ring, 64 bytes of it arriving, or the read fails.
DESIGN CHOICE (log entry 48). -/
def execCommandFetch (ok : Bool) (raw : List Byte) (s : State) : Out :=
  done <| match nextQueue s with
    | none => s
    | some (k, n) =>
      let s := emit (.hostRead (k / 64) (sqBase s k + 64 * (queueOf s k).head) 64) { s with turn := k, turnLeft := n - 1 }
      if !ok then queueError k 0 1 s
      else
        let s := modQueue k (fun x => { x with head := (x.head + 1) % sqDepth s k, resv := x.resv + 2 }) s
        accept k raw s

/-! ### Images given up (R226, R229) -/

/-- An image is given up, by the command `h` where there is one: its code, adapters, registrations and the tile-layers that no other image shares. -/
def dropImage (h : Option Nat) (k im : Nat) (s : State) : State :=
  let tls := imgTls (imgOf s im)
  let s := modCx k (fun c => { c with staged := if c.staged = some im then none else c.staged,
                                      retiring := c.retiring.filter (· != im) }) (dropCode im s)
  let s := { s with images := tdel s.images im, entries := tdel s.entries im,
                    entryTurn := s.entryTurn.filter fun e => e.1 / 4 != im,
                    adapters := s.adapters.filter fun e => e.1 / 2 ^ 16 != im,
                    quant := s.quant.filter fun e => e.1 / 2 ^ 12 != im, passes := s.passes.filter fun e => e.2.im != im,
                    homeSums := s.homeSums.filter fun h => h.im != im }
  releaseTls h tls s

/-- The sequences and prefixes of an image are freed; their identifiers and handles are remembered as those of a retired image
(R227). -/
def dropSeqsOf (im : Nat) (s : State) : State :=
  let s := foldS ((s.seqs.filter fun e => e.2.used && e.2.im == im).map (·.1)) (fun i s =>
    freeSeqIdx i (modCx (seqOf s i).ctx (fun c => { c with goneSeq := c.goneSeq ++ [seqIdOf s i] }) s)) s
  let ps := s.prefixes.filter fun p => p.im == im
  let s := { s with prefixes := s.prefixes.filter fun p => p.im != im }
  foldS ps (fun p s => dropPages p.pages (modCx p.ctx (fun c => { c with gonePfx := c.gonePfx ++ [p.handle] }) s)) s

/-- IMAGE_RETIRE (R226, R227): the last handle of an old image has completed. -/
def execImageRetire (pt fn im : Nat) (s : State) : Out :=
  let k := cxKey pt fn
  done <|
    if !(cxOf s k).retiring.contains im || s.cmds.any (fun e => e.2.im == some im) then s
    else
      let id := (imgOf s im).id
      logE { cls := 0x0A, code := 7, sev := 0, pt := pt, func := fn, data := [id % 2 ^ 64, 0, 0] } (dropImage none k im (dropSeqsOf im s))

/-! ### Cancellation (R361) -/

/-- The references of a snapshot are dropped, and its pins (R327, R381). -/
def dropSnap (h : Nat) (s : State) : State :=
  let ds := tget [] s.snaps h
  let s := foldS (((cmdOf s h).map (·.snap.pins)).getD []) (fun a => unpin a 0x41) s
  foldS ds derefDesc { s with snaps := tdel s.snaps h, kvParts := s.kvParts.filter fun e => e.1 / 2 ^ 12 != h }

/-- A running CHECKPOINT or SEQ_RESTORE stops; a partly restored sequence is freed. -/
def stopDma (h status : Nat) (s : State) : State :=
  match cmdOf s h with
  | none => s
  | some c =>
    let s := if c.op = 0x20 then dropSnap h s else s
    let s := if c.op = 0x21 then foldS c.seq.toList freeSeqAll s else s
    kickAsks c.ctx false (complete h status 0 0 s)

/-- A command can still be cancelled. -/
def cancellable (c : Cmd) : Bool :=
  !c.run || [0x13, 0x14, 0x01, 0x20, 0x21].contains c.op || (c.op == 0x18 && c.seqId.isNone)

/-- The effect of a cancellation, the command completing with a status. -/
def cancelCmd (h status : Nat) (s : State) : State :=
  match cmdOf s h with
  | none => s
  | some c =>
    if !c.run then fail h status s
    else if (genOf s h).isSome then endGen h status (endReason status) s
    else if c.op = 0x14 ∨ c.op = 0x06 ∨ c.op = 0x07 then endTrain h status 0 0 s
    else if c.op = 0x01 then stopLoad c.ctx status 0 s
    else if c.op = 0x20 ∨ c.op = 0x21 then stopDma h status s
    else fail h status s

/-- CANCEL (R361): it completes after its target. -/
def execCancel (h : Nat) (s : State) : Out :=
  done (startCmd h 0x30 (fun c s =>
    let t := c.u 0x10 4
    match cmdOf s (t % 4096) with
    | none => fail h 8 s
    | some d =>
      if d.gen != t / 4096 || d.fn != c.fn then fail h 8 s
      else
        let can := cancellable d
        let s := setCmd h { c with aux := some (t % 4096), value := if can then 0 else 0x1C } s
        if can then cancelCmd (t % 4096) 7 s else s) s)

/-! ### LOAD, ACTIVATE, DISCARD (R222, R223, R226, R229) -/

/-- A field of LFLAGS or PEER is out of range. -/
def loadBad (c : Cmd) : Bool :=
  let f := c.u 0x30 1
  f.testBit 1 || decide (32 ≤ f) || f / 4 % 4 == 3 || decide (64 ≤ c.u 0x31 1)

/-- LOAD (R222, R223, R292). -/
def execLoad (h : Nat) (s : State) : Out :=
  done (startCmd h 0x01 (fun c s =>
    let k := c.ctx
    let x := cxOf s k
    let f := c.u 0x30 1
    if loadBad c then fail h 3 s
    else if c.fn != 0 && !rb s .SET_VF_LOAD c.fn then fail h 4 s
    else if x.staged.isSome || x.load.isSome then fail h 0x16 s
    else if f.testBit 0 && (hubDma s c.fn (k / 32) (c.u 0x10 8) (c.u 0x18 8)).isSome then
      dmaRefuse h (hubDma s c.fn (k / 32) (c.u 0x10 8) (c.u 0x18 8)) false s
    else
      let l : Load := { h := h, im := s.imgNext, activate := f.testBit 4, src := f / 4 % 4, peer := c.u 0x31 1 }
      let s := modCx k (fun x => { x with load := some l }) { s with imgNext := s.imgNext + 1 }
      whenS (!f.testBit 0) (emit (.hostRead c.fn (c.u 0x10 8) (c.u 0x18 8))) s) s)

/-- ACTIVATE (R226): with nothing staged it completes with NO_IMAGE. DESIGN CHOICE (log entry 39). -/
def execActivate (h : Nat) (s : State) : Out :=
  done (startCmd h 0x02 (fun c s =>
    if (cxOf s c.ctx).staged.isNone then fail h 9 s else complete h 0 0 0 (activate c.ctx h c.order s)) s)

/-- DISCARD (R229): it completes once a load under way has stopped. DESIGN CHOICE (log entry 39). -/
def execDiscard (h : Nat) (s : State) : Out :=
  done (startCmd h 0x03 (fun c s =>
    let k := c.ctx
    let x := cxOf s k
    let id := (x.staged.toList.map (fun im => (imgOf s im).id) ++ x.load.toList.map fun l => l.id).headD 0
    let s := logE (setEntry s 3 1 k h id) (enterLoad k s)
    let s := foldS x.staged.toList (dropImage (some h) k) s
    match x.load with
    | some l => stopLoad k 7 0 (setCmd h { c with aux := some l.h, value := 0 } s)
    | none => complete h 0 0 0 s) s)

/-! ### CALIBRATE and NOP (R177, R353) -/

/-- CALIBRATE (R177): soaks of the named bays are requested; it completes when each has accepted a measurement or failed.  A
bay of a die that is off fails at once. DESIGN CHOICE (log entry 34). -/
def execCalibrate (h : Nat) (s : State) : Out :=
  done (startCmd h 0x05 (fun c s =>
    let m := c.u 0x10 8
    let f := c.u 0x18 1
    if 2 ^ 48 ≤ m ∨ 4 ≤ f then fail h 3 s
    else
      let bays := setBitsOf 48 m
      if bays.any fun b => ptOfDie s (b / 6) != c.ctx / 32 then fail h 4 s
      else if bays.isEmpty then complete h 0 0 0 s
      else
        let s := setCmd h { c with left := m, info := 0, value := 0 } s
        foldS bays (fun b s =>
          if !anaOn s (b / 6) then calibrateBay b false s
          else
            let s := whenS (f.testBit 0) (modCal b fun x => { x with lastDrift := none }) s
            let s := whenS (f.testBit 1) (modCal b fun x => { x with wantRefresh := true }) s
            requestSoak b true s) s) s)

/-- NOP (R353). -/
def execNopCommand (h : Nat) (s : State) : Out := done (startCmd h 0x31 (fun _ s => complete h 0 0 0 s) s)

end Sys2Proof.Machine
end

