-- ==== Sys2Proof/Machine/Commands.lean ====
section
/-! DEFINITION. The commands on sequences, generation, prefixes, checkpoints and training (R362, R368 to R370, R378 to
R384). -/

namespace Sys2Proof.Machine

open Sys2Proof

/-! ### Creating sequences (R362, R374, R416) -/

/-- A free sequence index of an image, within SEQ_MAX. -/
def freeSeq (s : State) (im : Nat) : Option Nat :=
  if (kvOf s im).seqMax ≤ (s.seqs.filter fun e => e.2.used && e.2.im == im).length then none
  else (List.range 4096).find? fun i => !(seqOf s i).used

/-- A sequence of a context is created; one of a job takes its job sequence number, and while the job is HELD no step may
use it (R416, R427). DESIGN CHOICE (log entry 48). -/
def makeSeq (k im : Nat) (hidden : Bool) (s : State) : Option (Nat × State) :=
  (freeSeq s im).map fun i =>
    let member := (imgOf s im).peers.job != 0 && !hidden
    let n := (jobOf s k).jsn
    let s := modSeq i (fun q => { q with used := true, ctx := k, im := im, hidden := hidden, lastEnd := s.now,
                                         jsn := if member then n else 0, failed := member && jobHeld s k }) s
    (i, if member then modMember k (fun j => { j with jsn := n + 1 }) s else s)

/-- A sequence with its hidden draft sequence, where one is asked for. -/
def makeSeqs (k im : Nat) (draft : Bool) (s : State) : Option (Nat × State) :=
  match makeSeq k im false s with
  | none => none
  | some (i, t) =>
    if !draft then some (i, t)
    else match makeSeq k im true t with
      | none => none
      | some (d, t) => some (i, modSeq i (fun q => { q with draft := some d }) t)

/-- A prefix of a context. -/
def findPrefix (s : State) (k handle : Nat) : Option Prefix := s.prefixes.find? fun p => p.ctx == k && p.handle == handle

/-- The handle is that of a prefix whose image has retired (R227). -/
def pfxGone (s : State) (k handle : Nat) : Bool := (cxOf s k).gonePfx.contains handle && (findPrefix s k handle).isNone

/-- SEQ_CREATE (R227, R329, R362). -/
def execSeqCreate (h : Nat) (s : State) : Out :=
  done (startCmd h 0x10 (fun c s =>
    let f := c.u 0x18 1
    match c.im with
    | none => fail h 9 s
    | some im =>
      let pf := findPrefix s c.ctx (c.u 0x10 8)
      if 2 ≤ f then fail h 3 s
      else if c.u 0x10 8 != 0 && pfxGone s c.ctx (c.u 0x10 8) then fail h 0x0A s
      else if c.u 0x10 8 != 0 && pf.isNone then fail h 0x0E s
      else if (pf.map fun p => p.im != im).getD false then fail h 0x0A s
      else match makeSeqs c.ctx im (f.testBit 0) s with
        | none => fail h 0x0C s
        | some (i, s) =>
          let p := pf.getD {}
          let s := modSeq i (fun q => { q with pages := p.pages, len := p.len, toks := p.toks }) (takePages p.pages s)
          complete h 0 (seqIdOf s i) p.len s) s)

/-- SEQ_FREE (R362): every command that names the sequence is cancelled first. A FAILED sequence is freed as well, and the command
completes with KV_LOST, as every command that names it does (R339). DESIGN CHOICE (log entry 48). -/
def execSeqFree (h : Nat) (s : State) : Out :=
  done (startCmd h 0x11 (fun c s =>
    let id := c.u 0x10 4
    let hs := (s.cmds.filter fun e => e.1 != h && e.2.ctx == c.ctx && e.2.seqId == some id).map (·.1)
    let gone := fun (s : State) => freeSeqAll (id % 4096) (foldS hs (fun g => cancelCmd g 7) s)
    match seqCheck s c id with
    | .error st => fail h st (if st = 0x11 then gone s else s)
    | .ok _ => complete h 0 0 0 (gone s)) s)

/-- SEQ_TRUNCATE (R331, R362), once the sequence's flushes have completed. -/
def execSeqTruncate (h : Nat) (s : State) : Out :=
  if ((cmdOf s h).map fun c => !noFlush s (c.u 0x10 4 % 4096)).getD false then done s else
  done (startCmd h 0x12 (fun c s =>
    let n := c.u 0x14 4
    match seqCheck s c (c.u 0x10 4) with
    | .error st => fail h st s
    | .ok i =>
      if (seqOf s i).len < n then fail h 3 s
      else
        let d := (seqOf s i).draft.toList.filter fun d => decide (n < (seqOf s d).len)
        let s := foldS d (fun d => cutSeq d n) (cutSeq i n s)
        complete h 0 n 0 (modSeq i (fun q => { q with pend := none, toks := q.toks.take n }) s)) s)

/-! ### GENERATE (R368 to R370, R374) -/

/-- The parents of the candidates of a chain of `k` drafts, and of a tree from its request block. -/
def chainParents (k : Nat) : List Nat := 0 :: List.range k
def treeParents (n : Nat) (req : List Byte) : List Nat := 0 :: (List.range n).map fun c => leAt req (0x30 + c) 1

/-- A request block is out of range (R369). DESIGN CHOICE (log entry 46). -/
def reqBad (spec : Nat) (req : List Byte) : Bool :=
  decide (8 < leAt req 0x0C 1) ||
  (spec == 2 && (decide (leAt req 0x0D 1 < 2) || decide (16 < leAt req 0x0D 1) ||
    (List.range (leAt req 0x0D 1)).any fun c => decide (c + 1 ≤ leAt req (0x30 + c) 1)))

/-- An operand of GENERATE is out of range (R368). DESIGN CHOICE (log entry 46). -/
def genBad (c : Cmd) : Bool :=
  let sp := c.u 0x2D 1
  let gf := c.u 0x2E 1
  c.u 0x20 8 % 256 != 0 || decide (c.u 0x2C 1 < 6) || decide (16 < c.u 0x2C 1) || decide (2 < sp % 4) || sp / 4 % 4 != 0 ||
  (sp % 4 == 1 && (decide (sp / 16 < 1) || decide (8 < sp / 16))) || decide (16 ≤ gf) || (gf.testBit 1 && sp % 4 != 0) ||
  (sp % 4 == 2 && c.u 0x38 8 == 0)

/-- The run of a GENERATE. -/
def newGen (c : Cmd) (i : Nat) (pend : Option Nat) (toks : List Nat) (req : List Byte) : Gen :=
  let sp := c.u 0x2D 1
  let gf := c.u 0x2E 1
  { seq := i, input := pend.toList ++ toks, pendIn := pend.isSome, maxNew := c.u 0x28 4, ringAddr := c.u 0x20 8,
    ringLog2 := c.u 0x2C 1, peer := if gf.testBit 2 then some (c.u 0x2F 1) else none, spec := sp % 4,
    parents := if sp % 4 = 1 then chainParents (sp / 16) else if sp % 4 = 2 then treeParents (leAt req 0x0D 1) req else [0],
    prov := gf.testBit 0, keep := gf.testBit 1, logprob := gf.testBit 3, seed := c.u 0x30 8,
    temp := leAt req 0 4, topK := leAt req 4 4, topP := if req.isEmpty then 0x3F800000 else leAt req 8 4,
    stops := (List.range (leAt req 0x0C 1)).map fun j => leAt req (0x10 + 4 * j) 4,
    ringVec := if req.isEmpty then 0xFFFF else leAt req 0x0E 2 }

/-- The status that refuses a GENERATE when it starts, beyond its sequence. DESIGN CHOICE (log entry 46). -/
def genCheck (s : State) (c : Cmd) (im i : Nat) (toks : List Nat) (req : List Byte) (err : Bool) : Nat :=
  let q := seqOf s i
  let g := newGen c i q.pend toks req
  let job := (imgOf s im).peers.job != 0
  if genBad c || (job && (g.spec != 0 || g.keep)) then 3
  else if err then 0x1A
  else if reqBad g.spec req || toks.any (fun t => decide ((roleE s im 0).vocab ≤ t)) then 3
  else if g.spec != 0 && ((roleEntries s im 1).isEmpty || q.draft.isNone) then 3
  else if g.input.isEmpty && (q.len == 0 || decide (0 < g.maxNew)) then 3
  else match g.peer with
    | none => 0
    | some p =>
      if (peersOf s c.ctx).peers.length ≤ p then 3
      else if peerDown s c.ctx p then 0x19 else 0

/-- GENERATE (R368, R370): the input tokens and the request block have been read from host memory, or the read met an
error. DESIGN CHOICE (log entry 46). -/
def execGenerate (h : Nat) (toks : List Nat) (req : List Byte) (err : Bool) (s : State) : Out :=
  if ((cmdOf s h).map fun c => !err && (toks.length != c.u 0x14 4 || (req.length != if c.u 0x38 8 = 0 then 0 else 64))).getD false
  then done s else
  done (startCmd h 0x13 (fun c s =>
    match c.im with
    | none => fail h 9 s
    | some im => match seqCheck s c (c.u 0x10 4) with
      | .error st => fail h st s
      | .ok i =>
        let st := genCheck s c im i toks req err
        if st != 0 then fail h st s
        else
          let g := newGen c i (seqOf s i).pend toks req
          goOn h false (setCmd h { c with seq := some i } { s with gens := tins s.gens h g })) s)

/-! ### Prefixes (R378 to R380) -/

/-- PREFIX_CREATE from a sequence, at a step boundary (R328, R379). -/
def prefixOfSeq (h : Nat) (c : Cmd) (s : State) : State :=
  let p := c.u 0x1C 4
  match seqCheck s c (c.u 0x18 4) with
  | .error st => fail h st s
  | .ok i =>
    if p < 1 ∨ (seqOf s i).len < p then fail h 3 s
    else if sealPoison s i p then fail h 0x11 (failSeq i 0x3F s)
    else match sealAll i p s with
      | none => fail h 0x10 (kvmErr 0 0x3F i 0x0A 1 s)
      | some s => complete h 0 p 0 (spillCheck (kvOf s (seqOf s i).im) (addPrefix c.ctx (c.u 0x10 8) i p s))

/-- PREFIX_CREATE from tokens: a temporary sequence takes them in steps that do not sample (R379). DEDUCED (log entry 45). -/
def prefixOfToks (h im : Nat) (c : Cmd) (toks : List Nat) (err : Bool) (s : State) : State :=
  if err then fail h 0x1A s
  else if toks.isEmpty || decide ((kvOf s im).posMax < toks.length) ||
    toks.any (fun t => decide ((roleE s im 0).vocab ≤ t)) then fail h 3 s
  else match makeSeq c.ctx im false s with
    | none => fail h 0x0C s
    | some (i, s) => { s with gens := tins s.gens h { seq := i, input := toks, pfx := some (c.u 0x10 8) } }

/-- PREFIX_CREATE (R379). A sequence has to be between two steps, its flushes completed (R359). -/
def execPrefixCreate (h : Nat) (toks : List Nat) (err : Bool) (s : State) : Out :=
  let hold := (cmdOf s h).map fun c =>
    let i := c.u 0x18 4 % 4096
    if c.u 0x18 4 = 0xFFFFFFFF then !err && toks.length != c.u 0x1C 4
    else (seqOf s i).bind.isSome || !noFlush s i || sealWaits s i (c.u 0x1C 4)
  if hold.getD false then done s else
  done (startCmd h 0x18 (fun c s =>
    match c.im with
    | none => fail h 9 s
    | some im =>
      if c.u 0x10 8 = 0 then fail h 3 s
      else if (findPrefix s c.ctx (c.u 0x10 8)).isSome then fail h 0x0D s
      else if prefixFull s c.ctx then fail h 0x0F s
      else if c.u 0x18 4 = 0xFFFFFFFF then prefixOfToks h im c toks err s
      else prefixOfSeq h c s) s)

/-- PREFIX_DROP (R227, R380). -/
def execPrefixDrop (h : Nat) (s : State) : Out :=
  done (startCmd h 0x19 (fun c s =>
    match findPrefix s c.ctx (c.u 0x10 8) with
    | none => fail h (if pfxGone s c.ctx (c.u 0x10 8) then 0x0A else 0x0E) s
    | some p =>
      if c.im != some p.im && (cxOf s c.ctx).active != some p.im then fail h 0x0A s
      else complete h 0 0 0 (dropPages p.pages { s with prefixes := s.prefixes.erase p })) s)

/-! ### Checkpoints (R381, R382, R422) -/

/-- The positions below `n` that rank `r` holds. -/
def heldBy (im : Image) (r n : Nat) : List Nat :=
  (List.range n).filter fun p => im.peers.job == 0 || p / im.peers.stretch % im.peers.nmem == r

/-- The ranks of a job, or the one holder outside a job. -/
def ranksOf (im : Image) : List Nat := if im.peers.job = 0 then [im.peers.self] else List.range im.peers.nmem

/-- Where the record of a position of a sequence-layer stands: in a page, or in slip. -/
def recordAt (s : State) (i l p : Nat) : Option (Bool × Nat × Nat) :=
  let kv := kvOf s (seqOf s i).im
  if p % 64 < pageCount s i l (p / 64) then
    some (true, recAt s (tget {} (seqOf s i).pages (lpKey l (p / 64))).desc (p % 64) kv, recLen kv)
  else (slipAt s i l p).map fun a => (false, a, kv.slipBytes)

/-- Where the records of the positions below `n` stand that this member holds of a layer, in position order. -/
def recordsOf (s : State) (i l n : Nat) : List (Bool × Nat × Nat) :=
  let im := imgOf s (seqOf s i).im
  (heldBy im im.peers.self n).filterMap (recordAt s i l)

/-- The part of a layer made of these records: PAGE_RECS, SLIP_RECS, the records (R382, R422). PRESUMED (log entry 50). -/
def partBytes (s : State) (rs : List (Bool × Nat × Nat)) : List Byte :=
  let pr := (rs.filter (·.1)).length
  bytesLE 4 pr ++ bytesLE 4 (rs.length - pr) ++ rs.flatMap fun r => rdBytes s r.2.1 r.2.2

/-- What this member holds of a layer below `n`, and whether a read of it meets an uncorrectable error. -/
def partOf (s : State) (i l n : Nat) : List Byte := partBytes s (recordsOf s i l n)
def partPoison (s : State) (i l n : Nat) : Bool := (recordsOf s i l n).any fun r => anyPoison s r.2.1 r.2.2

/-- The frames in which positions below `n` of a layer stand, and the slip segments that hold the others (R327). -/
def framesOf (s : State) (i l n : Nat) : List Nat :=
  let q := seqOf s i
  (q.pages.filter fun e => decide (e.1 / 2 ^ 16 = l ∧ e.1 % 2 ^ 16 * 64 < n)).map fun e => (descOf s e.2.desc).addr
def slipsOf (s : State) (i l n : Nat) : List Nat :=
  ((seqOf s i).slips.filter fun e => decide (e.1 / 2 ^ 16 = l ∧ e.1 % 2 ^ 16 * 64 < n)).map fun e => e.2 - 1

/-- The records of a part, by position. PRESUMED (log entry 50). -/
def splitPart (kv : KvLayout) (hp : List Nat) (b : List Byte) : List (Nat × Bool × List Byte) :=
  let pr := leAt b 0 4
  hp.mapIdx fun n p =>
    if n < pr then (p, true, (b.drop (8 + n * recLen kv)).take (recLen kv))
    else (p, false, (b.drop (8 + pr * recLen kv + (n - pr) * kv.slipBytes)).take kv.slipBytes)

/-- The part of a layer of a checkpoint, put together in position order from the holders' parts. PRESUMED (log entry 50). -/
def layerPart (s : State) (h l n : Nat) (im : Image) : List Byte :=
  let rs := (ranksOf im).flatMap fun r =>
    splitPart im.kv (heldBy im r n) ((tget [] s.kvParts (h * 2 ^ 12 + r * 64 + l)).map (BitVec.ofNat 8))
  let inOrder := (List.range n).filterMap fun p => rs.find? fun e => e.1 == p
  let pr := (inOrder.filter fun e => e.2.1).length
  bytesLE 4 pr ++ bytesLE 4 (n - pr) ++ inOrder.flatMap fun e => e.2.2

/-- Bytes of a digest or an identifier, most significant first. -/
def bytesBE (n v : Nat) : List Byte := (bytesLE n v).reverse

/-- The header of a checkpoint (R382). -/
def ckptHeader (im : Image) (e : EntryE) (total n : Nat) (x : Snap) (body : List Byte) : List Byte :=
  let g := x.gen.getD (0, 0, 0)
  bytesLE 4 0x435A4455 ++ bytesLE 2 1 ++ bytesLE 2 0x100 ++ bytesLE 8 total ++ bytesLE 16 im.id ++ bytesBE 48 im.kv.digest ++
  bytesLE 4 n ++ bytesLE 4 (x.pend.getD minus1) ++ bytesLE 2 e.layers ++ bytesLE 2 e.first ++ bytesLE 4 im.kv.pageBytes ++
  bytesLE 4 im.kv.slipBytes ++ bytesLE 4 (b2n x.gen.isSome) ++ bytesLE 4 g.1 ++ bytesLE 4 0 ++ bytesLE 8 g.2.1 ++
  bytesLE 8 g.2.2 ++ bytesLE 8 x.time ++ bytesLE 40 0 ++ bytesBE 48 (Config.sha384 (body.map (·.toNat))).toNat ++ bytesLE 32 0

/-- The GENERATE that runs on a sequence: its handle, entry count and tokens emitted. -/
def genOn (s : State) (i : Nat) : Option (Nat × Nat × Nat) :=
  (s.gens.find? fun e => e.2.seq == i && e.2.pfx.isNone).map fun e =>
    (handleOf (((cmdOf s e.1).map (·.gen)).getD 0) e.1, e.2.count, e.2.emitted)

/-- A range of a destination or source that is not admitted: device memory outside the context's partition, a peer region
that does not stand in the table (R292, R353, R407). -/
def rangeBad (s : State) (c : Cmd) (kind peer a n : Nat) (write : Bool) : Bool :=
  if kind = 1 then (hubDma s c.fn (c.ctx / 32) a n).isSome
  else if kind = 2 then
    !((peersOf s c.ctx).regions.any fun r => r.dir == 1 && r.peer == peer && r.access.testBit (b2n write) &&
      decide (r.base ≤ a) && decide (a + n ≤ r.base + r.len))
  else false

/-- A command whose range of device memory R290 or R292 does not admit is refused, and the access recorded (R300, R455). -/
def rangeFail (h : Nat) (c : Cmd) (kind a n : Nat) (write : Bool) (s : State) : State :=
  dmaRefuse h (if kind = 1 then hubDma s c.fn (c.ctx / 32) a n else none) write s

/-- All parts of a checkpoint have come: it is put together, and its transfer begins where the destination is long
enough. -/
def ckptReady (h : Nat) (s : State) : State :=
  match cmdOf s h with
  | none => s
  | some c =>
    if c.op != 0x20 || c.left != 0 || !c.words.isEmpty then s else
    let im := imgOf s (c.im.getD 0)
    let e := roleE s (c.im.getD 0) 0
    let n := c.info
    let body := (List.range e.layers).flatMap fun j => layerPart s h (e.first + j) n im
    let total := 256 + body.length
    if c.u 0x20 8 < total then complete h 3 0 total (dropSnap h s)
    else
      let hd := ckptHeader im e total n c.snap body
      setCmd h { c with words := (hd ++ body).map (·.toNat), value := total } s

/-- CHECKPOINT (R327, R381, R422): at a step boundary, its flushes completed, the sequence's pages are referenced and pinned and its
records copied; a job member asks the holders for the positions it does not hold. -/
def execCheckpoint (h : Nat) (s : State) : Out :=
  let hold := (cmdOf s h).map fun c => (seqOf s (c.u 0x10 4 % 4096)).bind.isSome || !noFlush s (c.u 0x10 4 % 4096)
  if hold.getD false then done s else
  done (startCmd h 0x20 (fun c s =>
    let f := c.u 0x14 1
    match c.im with
    | none => fail h 9 s
    | some m => match seqCheck s c (c.u 0x10 4) with
      | .error st => fail h st s
      | .ok i =>
        let q := seqOf s i
        let im := imgOf s m
        let e := roleE s m 0
        let ls := (List.range e.layers).map (e.first + ·)
        if 2 < f ∨ rangeBad s c f (c.u 0x15 1) (c.u 0x18 8) (c.u 0x20 8) true then rangeFail h c f (c.u 0x18 8) (c.u 0x20 8) true s
        else if f = 2 ∧ peerDown s c.ctx (c.u 0x15 1) then fail h 0x19 s
        else if ls.any fun l => partPoison s i l q.len then fail h 0x11 (failSeq i 0x3F s)
        else
          let x : Snap := { pend := q.pend, gen := genOn s i, time := s.now, pins := ls.flatMap fun l => framesOf s i l q.len }
          let s := takePages q.pages { s with snaps := tset [] s.snaps h (q.pages.map fun p => p.2.desc) }
          let s := foldS x.pins (fun a => pin a 0x41) s
          let s := foldS ls (fun l s =>
            { s with kvParts := tset [] s.kvParts (h * 2 ^ 12 + im.peers.self * 64 + l) ((partOf s i l q.len).map (·.toNat)) }) s
          let others := (ranksOf im).filter fun r => r != im.peers.self && !(heldBy im r q.len).isEmpty
          let s := setCmd h { c with seq := some i, info := q.len, left := others.length * e.layers, snap := x } s
          ckptReady h (foldS others (fun r s => match peerOfRank im.peers r with
            | some p => putAsk c.ctx h (qpNum (peerE s c.ctx p) 0) 4 e.layers [q.jsn, q.len, e.first, e.layers] s
            | none => s) s)) s)

/-- Bytes of a transfer that an event moves. -/
def mib : Nat := 1048576

/-- The next MiB of a checkpoint leaves for its destination; device memory that is down or behind a closed crossing ends it with FENCED
(R480), a word that refuses the write (R288) with MEMORY_ERROR. DESIGN CHOICE (log entry 49). -/
def moveCkpt (h : Nat) (c : Cmd) (s : State) : State :=
  let a := c.u 0x18 8 + (c.value - c.words.length)
  let x := c.words.take mib
  let n := x.length
  if c.u 0x14 1 = 1 ∧ (hubDown s a n).isSome then complete h stFenced c.info c.value (dropSnap h (hubXreset a n s))
  else
    let refused := c.u 0x14 1 == 1 && wrRefused s a n
    let s := match c.u 0x14 1 with
      | 0 => emit (.hostWrite c.fn a x) s
      | 1 => spmTouch a (wrBytes a (x.map (BitVec.ofNat 8)) s)
      | _ => netSend c.ctx (c.u 0x15 1) 1 ntWrite (a :: x) s
    let rest := c.words.drop mib
    if refused then complete h stMemory c.info c.value (dropSnap h s)
    else if rest.isEmpty then complete h 0 c.info c.value (dropSnap h s)
    else progress h (setCmd h { c with words := rest } s)

/-- DMA_MIB_MOVED (R360): another MiB of a transfer has moved; the last completes the command. DESIGN CHOICE (log entry 49). -/
def execDmaMibMoved (h : Nat) (s : State) : Out :=
  done <| match cmdOf s h with
    | none => s
    | some c =>
      if !c.run then s
      else if c.op = 0x20 then (if c.words.isEmpty then s else moveCkpt h c s)
      else if c.op = 0x21 then
        if c.left ≤ 1 then complete h 0 c.info c.value s else progress h (setCmd h { c with left := c.left - 1 } s)
      else s

/-! ### SEQ_RESTORE (R383) -/

/-- A checkpoint fails the checks of R383 in their order. -/
def ckptBad (b : List Byte) (im : Image) (e : EntryE) : Bool :=
  let len := leAt b 8 8
  let body := (b.drop 256).take (len - 256)
  leAt b 0 4 != 0x435A4455 || leAt b 4 2 != 1 || leAt b 6 2 != 0x100 || decide (len < 256) || decide (b.length < len) ||
  ofBytesLE ((b.drop 0xB0).take 48).reverse != (Config.sha384 (body.map (·.toNat))).toNat ||
  (leAt b 0x10 16 != im.id && ofBytesLE ((b.drop 0x20).take 48).reverse != im.kv.digest) ||
  leAt b 0x58 2 != e.layers || leAt b 0x5A 2 != e.first

/-- The body of a checkpoint, as its layers' parts. DESIGN CHOICE (log entry 49). -/
def ckptParts (kv : KvLayout) : Nat → List Byte → List (List Byte)
  | 0, _ => []
  | n + 1, b =>
    let len := 8 + leAt b 0 4 * recLen kv + leAt b 4 4 * kv.slipBytes
    b.take len :: ckptParts kv n (b.drop len)

/-- A page of a restored sequence-layer: its records go into a frame of its home pool, or HBM. -/
def restorePage (i l p : Nat) (recs : List (List Byte)) (s : State) : Option State :=
  let im := imgOf s (seqOf s i).im
  if !heldPos im (p * 64) then some s
  else (allocFrame s im.kv l (bayOfPage im l p)).map fun c =>
    let r := newDesc c (bayOfPage im l p) s
    modSeq i (fun q => { q with pages := tins q.pages (lpKey l p) { desc := r.1, count := recs.length } })
      (wrBytes (codeAddr c) recs.flatten r.2)

/-- A slip entry of a restored sequence-layer. -/
def restoreSlip (i l pos : Nat) (b : List Byte) (s : State) : Option State :=
  if !heldPos (imgOf s (seqOf s i).im) pos then some s
  else (reserveSeg i l (pos / 64) s).map fun s => match slipAt s i l pos with
    | some a => wrBytes a b s
    | none => s

/-- What a restore has to place for a layer. -/
def restoreLayer (i l n : Nat) (kv : KvLayout) (part : List Byte) : List (State → Option State) :=
  let rs := splitPart kv (List.range n) part
  let pages := rs.filter fun r => r.2.1
  ((List.range ((pages.length + 63) / 64)).map fun p => restorePage i l p (((pages.drop (p * 64)).take 64).map (·.2.2))) ++
  ((rs.filter fun r => !r.2.1).map fun r => restoreSlip i l r.1 r.2.2)

/-- Free values for the tokens of restored positions, which a checkpoint does not hold. DEDUCED (log entry 45). -/
def freeToks : Nat → State → List Nat × State
  | 0, s => ([], s)
  | n + 1, s =>
    let d := drawFree s
    let r := freeToks n d.2
    ((Config.freeWord d.1).toNat % 2 ^ 32 :: r.1, r.2)

/-- SEQ_RESTORE (R383): the checkpoint has been read from its source (from device memory it is read here), or the read met
an error. -/
def execSeqRestore (h : Nat) (data : List Byte) (err : Bool) (s : State) : Out :=
  done (startCmd h 0x21 (fun c s =>
    let f := c.u 0x20 1
    match c.im with
    | none => fail h 9 s
    | some m =>
      let im := imgOf s m
      let e := roleE s m 0
      let a := c.u 0x10 8
      let len := c.u 0x18 8
      let b := if f % 4 = 1 then rdBytes s a len else data
      let n := leAt b 0x50 4
      if 8 ≤ f ∨ f % 4 = 3 ∨ rangeBad s c (f % 4) (c.u 0x21 1) a len false then rangeFail h c (f % 4) a len false s
      else if f % 4 = 2 ∧ peerDown s c.ctx (c.u 0x21 1) then fail h 0x19 s
      else if jobHeld s c.ctx then fail h 0x19 s
      else if f % 4 == 1 && (hubDown s a len).isSome then fail h stFenced (hubXreset a len s)
      else if err || (f % 4 == 1 && anyPoison s a len) then fail h 0x1A s
      else if ckptBad b im e || decide (im.kv.posMax < n) then fail h 0x1B s
      else match makeSeqs c.ctx m (f.testBit 2) s with
        | none => fail h 0x0C s
        | some (i, t) =>
          let parts := ckptParts im.kv e.layers (b.drop 256)
          let todo := (parts.mapIdx fun j p => restoreLayer i (e.first + j) n im.kv p).flatten
          match reserveAll todo t with
          | none => fail h 0x10 (kvmErr 0 0x3F i 0x0A 1 s)
          | some t =>
            if tableSize im.kv < kvTableBytes t im.kv then fail h 0x10 (kvmErr 0 0x3F i 0x0A 1 s) else
            if (List.range e.layers).any fun j => partPoison t i (e.first + j) n then fail h 0x1A (freeSeqAll i t) else
            let r := freeToks n (spillCheck im.kv t)
            let pend := leAt b 0x54 4
            let s := modSeq i (fun q => { q with len := n, toks := r.1, pend := if pend = minus1 then none else some pend }) r.2
            setCmd h { c with seq := some i, left := (b.length + mib - 1) / mib, info := seqIdOf s i, value := n } s) s)

/-! ### Training commands (R384) -/

/-- The training store of a sequence holds the positions `a` up to `b`. -/
def storeHolds (q : Seq) (a b : Nat) : Bool :=
  (List.range (b - a)).all fun t => q.keep.any fun e => decide (e.1 ≤ a + t) && decide (a + t < e.1 + e.2.1)

/-- BACKWARD (R384): the target tokens have been read from host memory, or the read met an error. -/
def execBackward (h : Nat) (toks : List Nat) (err : Bool) (s : State) : Out :=
  if ((cmdOf s h).map fun c => !err && toks.length != c.u 0x20 4).getD false then done s else
  done (startCmd h 0x14 (fun c s =>
    let a := c.u 0x14 4
    let n := c.u 0x20 4
    match c.im with
    | none => fail h 9 s
    | some m => match seqCheck s c (c.u 0x10 4) with
      | .error st => fail h st s
      | .ok i =>
        if (imgOf s m).peers.job != 0 || n == 0 || !storeHolds (seqOf s i) a (a + n) then fail h 3 s
        else if err then fail h 0x1A s
        else match allocKeep s (kvOf s m) (4 * n), pickEntry m 2 (fun e => decide (16 ≤ e.descLen)) s with
          | none, _ => fail h 0x10 (kvmErr 0 0x3F i 0x0A 1 s)
          | _, none => fail h 0x14 (srvEvent h 0x14 0 s)
          | some x, some (e, s) =>
            if wrRefused s x (4 * n) then fail h 0x1A (wrBytes x (toks.flatMap (bytesLE 4)) s) else
            let s := latchCopies m true (wrBytes x (toks.flatMap (bytesLE 4)) s)
            let s := modSeq i (fun q => { q with keepAt := some (x, 4 * n) }) s
            let s := setCmd h { c with seq := some i } s
            let arg := c.u 0x28 8
            sendDesc e ([4, 0xFFF, i, a, n, 0, 0, 0, 0, 0, 0, handleOf c.gen h, x % 2 ^ 32, x / 2 ^ 32, arg % 2 ^ 32,
              arg / 2 ^ 32]) s) s)

/-- An adapter command: its descriptor goes to an UPDATE entry that takes it. -/
def startAdapt (h op dop need : Nat) (tail : Cmd → List Nat) (lr : Cmd → Nat) (s : State) : State :=
  startCmd h op (fun c s =>
    let a := c.u 0x10 2
    match c.im with
    | none => fail h 9 s
    | some m =>
      if !((imgOf s m).adapters.any fun x => x.index == a) then fail h 3 s
      else match pickEntry m 3 (fun e => decide (need ≤ e.descLen)) s with
        | none => fail h 0x14 (srvEvent h 0x14 0 s)
        | some (e, s) => sendDesc e ([dop, 0xFFF, a, 0, 0, 0, lr c, 0, 0, 0, 0, handleOf c.gen h] ++ tail c) s) s

/-- ADAPT_ZERO (R384). -/
def execAdaptZero (h : Nat) (s : State) : Out := done (startAdapt h 0x06 6 12 (fun _ => []) (fun _ => 0) s)

/-- ADAPT_UPDATE (R384). -/
def execAdaptUpdate (h : Nat) (s : State) : Out :=
  done (startAdapt h 0x07 5 14 (fun c => [c.u 0x18 4, c.u 0x1C 4]) (fun c => c.u 0x14 4) s)

end Sys2Proof.Machine
end

