-- ==== Sys2Proof/Machine/Job.lean ====
section
/-! DEFINITION. Job members: loss of a peer, hold, and disagreement (R421, R426, R427). -/

namespace Sys2Proof.Machine

open Sys2Proof

/-- What a member keeps of a peer entry, and its change. -/
def peerSt (s : State) (k p : Nat) : PeerSt := tget {} (jobOf s k).peers p
def modPeer (k p : Nat) (f : PeerSt → PeerSt) (s : State) : State :=
  modMember k (fun j => { j with peers := tmod {} j.peers p f }) s

/-- Open exchange records that need rank `r`, those to which anything has been contributed, are completed with canonical NaN in place of
the missing contributions and released (R426). DESIGN CHOICE (log entry 51). -/
def closeXchs (k r : Nat) (s : State) : State :=
  let t := peersOf s k
  let opens := (List.range t.xchs.length).filter fun x =>
    let y := xchOf s k x
    (!y.written.isEmpty || !y.done.isEmpty) && !y.done.contains r
  foldS opens (fun x s => xchReady k x (modXch k x (fun y =>
    { y with lost := (List.range t.nmem).filter fun r => !y.done.contains r }) s)) s

/-- The commands of a context that name a sequence, or run steps of one, complete with a status. -/
def endSeqCmds (k status : Nat) (s : State) : State :=
  let hs := (s.cmds.filter fun e => e.2.ctx == k && (e.2.seqId.isSome || (genOf s e.1).isSome)).map (·.1)
  foldS hs (fun h => cancelCmd h status) s

/-- Answers with key/value records stop, and their pins are released. -/
def dropKvServing (k : Nat) (s : State) : State :=
  let xs := tget [] s.serving k
  foldS ((xs.filter (·.kind != 1)).flatMap (·.pins)) (fun p => unpin p 0x42)
    { s with serving := tset [] s.serving k (xs.filter (·.kind == 1)) }

/-- A job is held (R426, R427): its steps are abandoned, its commands completed, its sequences FAILED, key/value data no longer served. -/
def holdJob (k : Nat) (s : State) : State :=
  let s := dropKvServing k (endSeqCmds k 0x19 s)
  let s := { s with seqs := s.seqs.map fun e => if e.2.used && e.2.ctx == k then (e.1, { e.2 with failed := true }) else e }
  modMember k (fun j => { j with st := 2, suspect := 0, recs := [], peers := j.peers.map fun e => (e.1, { e.2 with recs := [] }) }) s

/-- Contexts that have fenced themselves: their work ends with FENCED, every other member gets a notice, and the job is held (R424,
R425, R427). DESIGN CHOICE (log entry 112). -/
def settleFences (s : State) : State :=
  foldS ((s.jobs.filter (·.2.wantFence)).map (·.1)) (fun k s =>
    let s := endSeqCmds k stFenced (stopLoad k stFenced 0 (modMember k (fun j => { j with wantFence := false }) s))
    holdJob k (ctrlAll k 0x10 0 [1, (peersOf s k).self] s)) s

/-- A peer is declared fenced (2) or lost (3), and the job held where the peer is a member. -/
def declarePeer (k p st : Nat) (s : State) : State :=
  let r := (peerE s k p).rank
  let s := modPeer k p (fun x => { x with st := st }) s
  if r = 0xFF ∨ (jobOf s k).st = 0 then s else settleFences (holdJob k (closeXchs k r s))

/-- A member declares a peer lost itself: PEER_LOST, and FENCE_NOTICE with reason 4 to the others. -/
def declareLost (k p : Nat) (s : State) : State :=
  if (peerSt s k p).st = 3 then s else
  let r := (peerE s k p).rank
  let s := netLog 5 3 k p (signalVec .NET_EVT_VEC (setEv .NET_ERR_STAT 1 0 s))
  let others := (memberPeers (peersOf s k)).filter (· != p)
  let s := if r = 0xFF then s else foldS others (fun q s => ctrlSend k q 0x10 0 [4, r] s) s
  declarePeer k p 3 s

/-- A STEP_REC disagrees with the member's own step: DESYNC, and its sender is lost (R421, R426). -/
def desync (k p : Nat) (s : State) : State :=
  declareLost k p (netLog 6 3 k p (signalVec .NET_EVT_VEC (setEv .NET_ERR_STAT 2 0 s)))

/-- The binding of the job step in flight of a context. -/
def jobBind (s : State) (k : Nat) : Option (Nat × Bind) :=
  s.binds.find? fun e => e.2.jstep != 0 && (seqOf s e.2.seq).ctx == k

/-- What a STEP_REC says of a step: JSN, B, n and kind. -/
def stepRec (s : State) (x : Bind) : List Nat := [(seqOf s x.seq).jsn, x.base, x.n, if x.verify then 2 else 1]

/-- The member's own step of a number: as its STEP_REC said, or as it is in flight. -/
def ownRec (s : State) (k n : Nat) : Option (List Nat) :=
  match ((jobOf s k).recs.find? fun e => e.1 == n).map (·.2) with
  | some r => some r
  | none => match jobBind s k with
    | some (_, x) => if x.jstep = n then some (stepRec s x) else none
    | none => none

/-- A peer's STEP_REC of a step has come. -/
def recIn (s : State) (k p n : Nat) : Bool := (peerSt s k p).recs.any fun e => e.1 == n

/-- STEP_RECs of which none is awaited any longer: of steps committed, those of every member having come; and of peers alone. -/
def dropRecs (k : Nat) (s : State) : State :=
  let ps := memberPeers (peersOf s k)
  let ended := fun n => decide (n ≤ (jobOf s k).step) && ps.all fun p => recIn s k p n
  let left := (jobOf s k).recs.filter fun e => !ended e.1
  let keep := fun n => decide ((jobOf s k).step < n) || left.any fun e => e.1 == n
  modMember k (fun j => { j with recs := left, peers := j.peers.map fun e => (e.1, { e.2 with recs := e.2.recs.filter fun r => keep r.1 }) }) s

/-- The STEP_RECs received are held against the member's own steps (R421), before or after it commits them. -/
def checkRecs (k : Nat) (s : State) : State :=
  let bad := fun p => (peerSt s k p).recs.any fun e => match ownRec s k e.1 with
    | some r => e.2.take 4 != r
    | none => false
  match (memberPeers (peersOf s k)).find? bad with
  | some p => desync k p s
  | none => dropRecs k s

/-- The same of every job. -/
def checkJobs (s : State) : State := foldS (s.jobs.map (·.1)) checkRecs s

end Sys2Proof.Machine
end

