-- ==== Sys2Proof/Machine/Gen.lean ====
section
/-! DEFINITION. The events of the serving engine: steps, stream rings, and the messages of the serving port (R363 to R367,
R372). -/

namespace Sys2Proof.Machine

open Sys2Proof

/-- STEP_START (R370, R372, R374, R375). -/
def execStepStart (h : Nat) (s : State) : Out := done (stepStart h s)

/-- RING_HEAD_POLL (R372): the head word of a run that waits for room is read, or the read fails. -/
def execRingHeadPoll (h value : Nat) (ok : Bool) (s : State) : Out :=
  done <| match genOf s h with
    | none => s
    | some g =>
      if !g.waits then s
      else if !ok then endGen h 0x12 4 s
      else
        let g := { g with headW := value }
        let short := decide (ringFree g < roomNeeded s g)
        modGen h (fun _ => { g with waits := short }) s

/-- RING_WAIT_EXPIRY (R372): the ring stayed full for RING_WAIT. -/
def execRingWaitExpiry (h : Nat) (s : State) : Out :=
  done (whenS (((genOf s h).map (·.waits)).getD false) (endGen h 0x13 4) s)

/-! ### The serving port (R363) -/

/-- A REGISTER message can be taken (R363, R364). -/
def registerOk (s : State) (im k bind : Nat) (v : List Nat) : Bool :=
  (cxOf s k).active == some im && bind == 0xFFF && v.length == 8 && decide (v.getD 0 0 < 4) &&
  v.getD 3 0 % 16 == 2 && decide (16 ≤ v.getD 4 0) && decide (v.getD 4 0 ≤ 4096) && decide (1 ≤ v.getD 5 0) &&
  decide (v.getD 5 0 ≤ 256) && decide ((roleEntries s im (v.getD 0 0)).length < 16)

/-- REGISTER (R364). -/
def execRegister (cl ctx bind : Nat) (v : List Nat) (s : State) : Out :=
  done <| match senderOf s cl ctx with
    | none => portRefuse cl ctx bind s
    | some (im, k) =>
      if !registerOk s im k bind v then portRefuse cl ctx bind s
      else
        let w := v.getD 3 0
        let e : EntryE :=
          { role := v.getD 0 0, first := v.getD 1 0, layers := v.getD 2 0, cl := bitsOf w 12 4, ctx := bitsOf w 24 13,
            slot := bitsOf w 31 25, descLen := v.getD 4 0, nMax := v.getD 5 0, vocab := v.getD 6 0 }
        { s with entries := tmod [] s.entries im (fun es => es ++ [e]) }

/-- REGISTRATION_WAIT_EXPIRY (R364): 10 ms after the activation point the role is still not registered. -/
def execRegistrationWaitExpiry (h : Nat) (s : State) : Out :=
  done <| match cmdOf s h with
    | some c =>
      if c.run || !mayStart s c || !waitsRole s c then s
      else
        let s := srvLog 0x0B 2 c.fn c.q (handleOf c.gen h) [c.op, 0x14, 0] (srvFlag 0 c.ctx s)
        fail h 0x14 s
    | none => s

/-- The binding that a RESULT or FAIL belongs to: one of the sender's context whose step awaits the message. -/
def awaited (s : State) (cl ctx bind : Nat) : Option Bind :=
  match senderOf s cl ctx, bindOf s bind with
  | some (_, k), some x => if (seqOf s x.seq).ctx == k && x.result.isNone then some x else none
  | _, _ => none

/-- The first-child chain of a tree (R377). -/
def firstChain (parents : List Nat) : Nat → Nat → List Nat
  | 0, _ => []
  | n + 1, c => match (List.range parents.length).find? fun d => d != 0 && parents.getD d 0 == c with
    | some d => d :: firstChain parents n d
    | none => []

/-- The draft's proposals have come (R375): provisional entries are written, and the main binding opens. -/
def draftResult (h : Nat) (x : Bind) (v : List Nat) (s : State) : State :=
  match genOf s h, cmdOf s h with
  | some g, some c =>
    let cand := (List.range (x.n - 1)).map fun j => v.getD (2 * (j + 1)) minus1
    let chain := firstChain x.parents x.n 0
    let provs := if g.prov && !rb s .SRV_CTRL 1 then chain.map (fun d => cand.getD (d - 1) 0) else []
    let s := srvCount .SRV_DRAFT_PROP_CNT (x.n - 1) c.ctx s
    let s := modGen h (fun g => { g with cand := cand, provs := provs, proposed := g.proposed + (x.n - 1) }) s
    if !provs.isEmpty && !ringUp s c g then endGen h 0x12 4 s
    else
      let s := ringPuts h (provs.mapIdx fun i t => { ty := 2, token := t, pos := x.base + 1 + i }) s
      openTree h (c.im.getD 0) 0 g.seq (x.toks.headD 0 :: cand) s
  | _, _ => s

/-- RESULT (R367): the tokens of a step; a job member sends them to every other member (R421). DEDUCED (log entry 47). -/
def execResult (cl ctx bind : Nat) (v : List Nat) (s : State) : Out :=
  done <| match awaited s cl ctx bind with
    | none => portRefuse cl ctx bind s
    | some x =>
      if v.length != 2 * x.n then portRefuse cl ctx bind s
      else
        let s := modBind bind (fun x => { x with result := some v }) s
        if x.draft && x.verify then draftResult x.h x v s
        else if x.jstep = 0 then s
        else
          let k := (seqOf s x.seq).ctx
          let r := stepRec s x
          checkRecs k (modMember k (fun j => { j with recs := tins j.recs x.jstep r }) (ctrlAll k 0x20 x.jstep (r ++ v) s))

/-- The training command that runs in a context (R384). -/
def trainCmd (s : State) (k : Nat) : Option (Nat × Cmd) := s.cmds.find? fun e => e.2.ctx == k && e.2.run && opTrains e.2.op

/-- DONE (R367, R384): the step of a BACKWARD, ADAPT_UPDATE or ADAPT_ZERO has ended. DEDUCED (log entry 47). -/
def execDone (cl ctx bind : Nat) (v : List Nat) (s : State) : Out :=
  done <| match (senderOf s cl ctx).bind fun e => trainCmd s e.2 with
    | none => portRefuse cl ctx bind s
    | some (h, c) =>
      if bind != 0xFFF || v.length != 2 then portRefuse cl ctx bind s
      else if v.getD 0 0 != 0 then endTrain h 0x15 0 0 s
      else if let some st := c.err then endTrain h st 0 0 s
      else if c.op = 0x14 then endTrain h 0 (c.u 0x20 4) (v.getD 1 0) s
      else endTrain h 0 0 (if c.op = 0x07 then v.getD 1 0 else 0) s

/-- A FAIL is logged with its program code, and the command that runs the step ends. -/
def failed (h code : Nat) (s : State) : State :=
  match cmdOf s h with
  | some c => endStepCmd h 0x15 (srvLog 7 3 c.fn c.q (handleOf c.gen h) [c.op, 0x15, code] s)
  | none => s

/-- FAIL (R367): the step is abandoned. BIND 0xFFF is that of binding 4,095 where its step awaits a message of the sender's context,
else a message without a binding. DESIGN CHOICE (log entry 40). DEDUCED (log entry 47). -/
def execFail (cl ctx bind : Nat) (v : List Nat) (s : State) : Out :=
  done <|
    let h := (awaited s cl ctx bind).map (·.h) <|>
      if bind = 0xFFF then ((senderOf s cl ctx).bind fun e => trainCmd s e.2).map (·.1) else none
    match h with
    | none => portRefuse cl ctx bind s
    | some h => if v.length != 1 then portRefuse cl ctx bind s else failed h (v.getD 0 0) s

/-- STEP_COMMIT (R367, R375, R421). -/
def execStepCommit (bind : Nat) (s : State) : Out := done (checkJobs (stepCommit bind s))

end Sys2Proof.Machine
end

