-- ==== Sys2Proof/Machine/Memory.lean ====
section
/-! DEFINITION. Memory scrubbing, audit of the shadow and its restore (R289, R295, R296). -/

namespace Sys2Proof.Machine

open Sys2Proof

/-! ### Scrubbing (R289, R300) -/

/-- The key of a word in the record of corrections: its device address, or store and index. -/
def corrKey (store word : Nat) : Nat := if store ≤ 3 then eccBase word else store * 2 ^ 48 + word

/-- The HBM channel of an address, stack × 16 + channel (R291). -/
def channelOf (a : Nat) : Nat := a / 0x300000000 * 8 + bitsOf (a % 0x300000000) 10 8

/-- The scrub period of a store in ns (R302). -/
def scrubPeriod (s : State) (store : Nat) : Nat :=
  if store = 3 then rf s .HUB_SCRUB_CTRL 23 16 * 3600000000000 else rf s .HUB_SCRUB_CTRL 15 8 * 100000000

/-- The cluster of a poisoned word of a store without a device address; none for hub SRAM. -/
def clOfWord (k : Nat) : Nat :=
  let w := k % 2 ^ 40
  if k / 2 ^ 40 = 4 then w / 2 ^ 16
  else if k / 2 ^ 40 = 5 then (if w < 2 ^ 23 then w / 16384 else (w - 2 ^ 23) / 32768)
  else if k / 2 ^ 40 = 6 then w / 2 ^ 17 else 384

/-- The location code of a word of a structure without a device address: its cluster's accumulation unit or vector unit. -/
def indexLoc (store word : Nat) : Nat × Nat :=
  let cl := clOfWord (store * 2 ^ 40 + word)
  if store = 5 then (3, cl) else if store = 7 then (0xF, 0) else (1, cl)

/-- A word has been corrected and written back: status, counts, and the log where it is the second within a period. -/
def memCorrected (store word : Nat) (s : State) : State :=
  let key := corrKey store word
  let last := tget 0 s.corrected key
  let s := if store = 3 then
      let s := bumpSat .HUB_MEM_CE_CNT 31 16 1 0 (setEv .HUB_MEM_ERR_STAT 2 0 s)
      { s with hbm := tmod {} s.hbm (channelOf word) fun c => { c with ce := satAdd 0xFFFF c.ce 1 } }
    else bumpSat .HUB_MEM_CE_CNT 15 0 1 0 (setEv .HUB_MEM_ERR_STAT 0 0 s)
  let s := match (if store = 0 then placeOf word else .reserved) with
    | .scratch c => bumpSat .SPM_CNT 15 0 1 c (setEv .SPM_STAT 0 c s)
    | _ => s
  let loc := if store ≤ 3 then locOf (placeOf word) else indexLoc store word
  let s := if last != 0 && decide (s.now < last - 1 + scrubPeriod s store) then
      logE { cls := 2, code := if store = 3 then 3 else 1, sev := 2, kind := loc.1, index := loc.2,
             addr := if store ≤ 3 then eccBase word else word, data := [store, 2] } s
    else s
  { s with corrected := tset 0 s.corrected key (s.now + 1) }

/-- Poison of a word of a structure without a device address (R288, R305), found by a scrub or by a read. -/
def poisonIndex (store word : Nat) (scrub : Bool) (s : State) : State :=
  let key := store * 2 ^ 40 + word
  if tget 0 s.poisonX key == 1 then s else
  let s := bumpSat .HUB_MEM_UE_CNT 15 0 1 0 (setEv .HUB_MEM_ERR_STAT 1 0 { s with poisonX := tset 0 s.poisonX key 1 })
  let s := if rb s .HUB_MEM_POISON_HI 31 then s else
    wr .HUB_MEM_POISON_HI 0 (BitVec.ofNat 32 (store * 2 ^ 16 + b2n scrub * 2 ^ 19 + 2 ^ 31))
      (wr .HUB_MEM_POISON_LO 0 (BitVec.ofNat 32 word) s)
  logE { cls := 2, code := 2, sev := 3, kind := (indexLoc store word).1, index := (indexLoc store word).2, addr := word,
         data := [store, 1] } s

/-- A word of the state of thread contexts fails its parity: the context of its number faults with ECC (R270, R286, R297). -/
def contextParity (word : Nat) (s : State) : State :=
  noteReady (word / 4096) (ctxFault (word / 4096) (word % 4096) fEcc (vctxOf s (word / 4096) (word % 4096)).pc s)

/-- SRAM_SCRUB (R289): a word of a store of HUB_MEM_POISON_HI other than HBM, or of the state of a thread context (8), is read by the
scrubber, or by a reader whose access comes next (`read`): 0 good, 1 correctable, 2 uncorrectable (R286, R300). DESIGN CHOICE (log
entry 103). -/
def execSramScrub (store word res : Nat) (read : Bool) (s : State) : Out :=
  done (if !(read || rb s .HUB_SCRUB_CTRL 0) || store == 3 || decide (8 < store) ||
            (decide (store < 3) && storeCode (placeOf word) != store) then s
        else if store = 8 then (if res = 0 then s else contextParity word s)
        else if res = 1 then memCorrected store word s
        else if res = 2 then (if store < 3 then poisonWord word (!read) s else poisonIndex store word (!read) s)
        else s)

/-- HBM_PATROL_SCRUB (R289): 32 B of HBM are read by the patrol, or by a reader whose access comes next (`read`; R287, R300).
DESIGN CHOICE (log entry 103). -/
def execHbmPatrolScrub (addr res : Nat) (read : Bool) (s : State) : Out :=
  done (if !(read || rb s .HUB_SCRUB_CTRL 1) || storeCode (placeOf addr) != 3 then s
        else if res = 1 then memCorrected 3 addr s
        else if res = 2 then poisonWord addr (!read) s
        else s)

/-! ### The audit of the shadow (R295) -/

/-- A tile-layer's shadow is marked BAD. -/
def markBad (tl : Nat) (s : State) : State :=
  match shadowOf s tl with
  | none => s
  | some x =>
    let s := setEv .HUB_MEM_ERR_STAT 6 0 (shadowState tl 1 s)
    logE { cls := 2, code := 8, sev := 3, kind := 0, index := tl / 4, layer := tl % 4, addr := x.addr, data := [3, 0] } s

/-- SHADOW_AUDIT (R295): the shadow of a VALID tile-layer is rehashed and compared with its wear record; an uncorrectable
error met on the way (`ue`, or poison in it) marks it BAD as a mismatch does. -/
def execShadowAudit (tl : Nat) (ue : Bool) (s : State) : Out :=
  done <| match shadowOf s tl with
    | none => s
    | some x =>
      if !rb s .HUB_SCRUB_CTRL 2 || !tlValid s (tl / 4) (tl % 4) || x.state != 0 then s
      else if ue then markBad tl (poisonWord x.addr false s)
      else if anyPoison s x.addr 0x80000 ||
          canonDigest x.fp4 x.rows x.cols (rdBytes s x.addr 0x80000) != (wearOf s tl).digest then markBad tl s
      else s

/-! ### Loss of HBM contents (R296) -/

/-- The data of images in a place of which `p` holds: glaze weights, biases, adapters and EMBED tables, as closed-open ranges. -/
def imageData (p : Nat → Bool) (s : State) : List (Nat × Nat) :=
  (s.images.flatMap fun e => namedRegions e.2).filter fun r => p r.1

/-- The contents of channels are lost: shadows on them are LOST, and the data of images with them; sequences with pages or slip segments
there are FAILED; the channels take a state (R296, R567). DESIGN CHOICE (log entry 106). -/
def loseHbm (chs : List Nat) (s : State) : State :=
  let gs := (chs.map (· / 8)).dedup
  let lostAddr := fun (a : Nat) => decide (a < 0x1800000000) && gs.contains (a / 0x300000000)
  let s := loseShadows lostAddr s
  let s := { s with lost := s.lost ++ (imageData lostAddr s).filter fun r => !s.lost.contains r }
  let ds := (s.descs.filter fun e => lostAddr e.2.addr).map (·.1)
  let s := foldS ds (fun d => modDesc d (fun y => { y with st := 4 })) s
  let hit := fun (e : Nat × Seq) => e.2.pages.any (fun p => ds.contains p.2.desc) || e.2.slips.any (fun x => lostAddr (x.2 - 1)) ||
    ((e.2.keep.map fun k => k.2.2) ++ e.2.keepAt.toList).any (fun r => lostAddr r.1 || lostAddr (r.1 + r.2 - 1)) ||
    s.binds.any fun b => b.2.seq == e.1 && b.2.drafts.any fun x => lostAddr (x.2 - 1)
  let sq := (s.seqs.filter fun e => e.2.used && !e.2.failed && hit e).map (·.1)
  let s := foldS sq (fun i s => failSeqCmds i 0x11 (failSeq i 0x3F s)) s
  foldS chs (fun c s => { s with hbm := tmod {} s.hbm c fun x => { x with state := 4 } }) s

/-! ### RESTORE (R296) -/

/-- The tile-layers of a context whose shadow is BAD or LOST, with their image and placement. -/
def badTls (s : State) (k : Nat) : List (Nat × Image × PlaceE) :=
  (cxOf s k).images.flatMap fun im =>
    let i := imgOf s im
    (i.places.filter fun p => match shadowOf s (tlKey p.tile p.layer) with
      | some x => x.state != 0
      | none => false).map fun p => (tlKey p.tile p.layer, i, p)

/-- The tables of EMBED sections of a context's images whose data was lost, as image, record and place (R294, R567). -/
def lostTables (s : State) (k : Nat) : List (Nat × Nat × Nat) :=
  (cxOf s k).images.flatMap fun im =>
    let i := imgOf s im
    (i.embeds.filter fun e =>
      let r := i.ware.getD e.1 {}
      s.lost.any fun x => decide (x.1 < e.2 + r.rows * r.cols * 2) && decide (e.2 < x.2)).map fun e => (im, e.1, e.2)

/-- The item of a restore that stands for a table: tile-layers have the numbers below. DESIGN CHOICE (log entry 106). -/
def tableItem (im rec : Nat) : Nat := 2 ^ 16 + im * 2 ^ 24 + rec

/-- The number of those tile-layers. -/
def badCount (s : State) (k : Nat) : Nat := ((badTls s k).map (·.1)).dedup.length

/-- A restore that has no more records to wait for completes with the tile-layers restored and those still BAD or LOST.
DESIGN CHOICE (log entry 56). -/
def restoreEnd (h : Nat) (s : State) : State :=
  match cmdOf s h with
  | some c => if c.words.isEmpty then complete h 0 c.info (badCount s c.ctx) s else s
  | none => s

/-- A record is asked of the source of a restore (R225, R413). -/
def askRecord (h : Nat) (c : Cmd) (i : Image) (rec : Nat) (s : State) : State :=
  let r := i.ware.getD rec {}
  match c.u 0x20 1 with
  | 0 => emit (.hostRead c.fn (c.u 0x10 8 + r.off) (payloadLen r)) s
  | 2 => putAsk c.ctx h (qpNum (peerE s c.ctx (c.u 0x21 1)) 0) 1 1 [i.wareDigest, rec + 1, 1] s
  | _ => s

/-- RESTORE (R296): every BAD or LOST shadow of the context's images, and every EMBED table that was lost, is to be written again. -/
def execRestore (h : Nat) (s : State) : Out :=
  done (startCmd h 0x04 (fun c s =>
    let f := c.u 0x20 1
    if 2 < f ∨ rangeBad s c (if f = 1 then 1 else 0) 0 (c.u 0x10 8) (c.u 0x18 8) false then
      rangeFail h c (if f = 1 then 1 else 0) (c.u 0x10 8) (c.u 0x18 8) false s
    else if c.im.isNone then fail h 9 s
    else if f = 2 ∧ (peersOf s c.ctx).peers.length ≤ c.u 0x21 1 then fail h 3 s
    else if f = 2 ∧ peerDown s c.ctx (c.u 0x21 1) then fail h 0x19 s
    else
      let es := badTls s c.ctx
      let ts := lostTables s c.ctx
      let items := (es.map (·.1)).dedup ++ (ts.map fun e => tableItem e.1 e.2.1).dedup
      let s := foldS es (fun e => askRecord h c e.2.1 e.2.2.record) (setCmd h { c with words := items } s)
      restoreEnd h (foldS ts (fun e s => askRecord h c (imgOf s e.1) e.2.1 s) s)) s)

/-- An item of a restore needs no record any longer. -/
def itemDone (h item : Nat) (c : Cmd) (s : State) : State :=
  restoreEnd h (setCmd h { c with words := c.words.filter (· != item) } s)

/-- The record of a lost table arrives: its digest is checked, and the table written to its place. -/
def tableArrives (h item : Nat) (c : Cmd) (pl : List Nat) (err : Bool) (s : State) : State :=
  match (lostTables s c.ctx).find? fun e => tableItem e.1 e.2.1 == item with
  | none => itemDone h item c s
  | some (im, rec, a) =>
    let r := (imgOf s im).ware.getD rec {}
    let n := r.rows * r.cols * 2
    if (hubDown s a n).isSome then complete h stFenced c.info (badCount s c.ctx) (hubXreset a n s)
    else if err then complete h 0x1A c.info (badCount s c.ctx) s
    else
      let c := { c with prog := s.now }
      if pl.length != payloadLen r || (Config.sha384 pl).toNat != r.digest then itemDone h item c s
      else
        let ps := (imgOf s im).embeds.filter fun e => e.1 == rec
        itemDone h item c (foldS ps (fun e => wrBytes e.2 (pl.map (BitVec.ofNat 8))) s)

/-- The payload of an item of a RESTORE and whether its read failed: as it came from the host or a peer, or read from the ware in device
memory. -/
def restoreData (s : State) (c : Cmd) (item : Nat) (pl : List Nat) (err : Bool) : List Nat × Bool :=
  if c.u 0x20 1 != 1 then (pl, err) else
  let at_ := if 2 ^ 16 ≤ item then ((lostTables s c.ctx).find? fun e => tableItem e.1 e.2.1 == item).map fun e => (imgOf s e.1, e.2.1)
    else ((badTls s c.ctx).find? fun e => e.1 == item).map fun e => (e.2.1, e.2.2.record)
  match at_ with
  | some (i, rec) =>
    let d := devPayload s (c.u 0x10 8) i rec
    (d.1, err || d.2)
  | none => (pl, err)

/-- A record of a restore arrives: its digest is checked, and its codes written with the index state VALID.
DESIGN CHOICE (log entry 56). -/
def restoreArrives (h item : Nat) (pl : List Nat) (err : Bool) (s : State) : State :=
  match cmdOf s h with
  | none => s
  | some c =>
    let d := restoreData s c item pl err
    let pl := d.1
    let err := d.2
    if c.op != 0x04 || !c.words.contains item then s
    else if 2 ^ 16 ≤ item then tableArrives h item c pl err s
    else match (badTls s c.ctx).find? fun e => e.1 == item with
      | none => itemDone h item c s
      | some (_, i, p) =>
        let at_ := ((shadowOf s item).map (·.addr)).filter fun a => (hubDown s a 0x80000).isSome
        if at_.isSome then complete h stFenced c.info (badCount s c.ctx) (hubXreset (at_.getD 0) 0x80000 s)
        else if err then complete h 0x1A c.info (badCount s c.ctx) s
        else
          let r := recOf i p
          let fp4 := placeFp4 i p
          let c := { c with prog := s.now }
          if digestBad r fp4 pl then itemDone h item c s
          else itemDone h item { c with info := c.info + 1 }
            (putShadow item c.ctx fp4 r.rows r.cols r.digest (payloadCodes r fp4 pl) s)

/-- RESTORE_RECORD_ARRIVAL (R296). DESIGN CHOICE (log entries 56, 106). -/
def execRestoreRecordArrival (h item : Nat) (payload : List Nat) (err : Bool) (s : State) : Out :=
  done (restoreArrives h item payload err s)

end Sys2Proof.Machine
end

