-- ==== Sys2Proof/Machine/Net.lean ====
section
/-! DEFINITION. Ethernet ports, queue pairs, weight relay, sequence-sharded jobs (ch. 11). -/

namespace Sys2Proof.Machine

open Sys2Proof

/-! ### Queue pairs in error, peers gone (R402, R414, R426) -/

/-- A command reads from or writes to a peer. -/
def namesPeer (c : Cmd) (p : Nat) : Bool :=
  (c.op == 0x04 && c.u 0x20 1 == 2 && c.u 0x21 1 == p) || (c.op == 0x20 && c.u 0x14 1 == 2 && c.u 0x15 1 == p) ||
  (c.op == 0x21 && c.u 0x20 1 % 4 == 2 && c.u 0x21 1 == p)

/-- A running command that a peer's loss ends, with PEER_FENCED. -/
def endPeerCmd (h : Nat) (s : State) : State :=
  match cmdOf s h with
  | some c => if c.op = 0x04 then kickAsks c.ctx false (complete h 0x19 c.info (badCount s c.ctx) s) else stopDma h 0x19 s
  | none => s

/-- A peer serves no more: loads and transfers that name it end with PEER_FENCED (R414). -/
def peerGone (k p : Nat) (s : State) : State :=
  let s := match loadOf s k with
    | some l => if l.src = 2 ∧ l.peer = p then stopLoad k 0x19 0 s else s
    | none => s
  foldS ((s.cmds.filter fun e => e.2.ctx == k && e.2.run && namesPeer e.2 p).map (·.1)) endPeerCmd s

/-- A peer is lost to a context: the member declares it so where it is in the job. -/
def peerLost (k p : Nat) (s : State) : State :=
  peerGone k p (whenS ((peerE s k p).rank != 0xFF && (jobOf s k).st != 0) (declareLost k p) s)

/-- A write to the ring of a command waits for its acknowledgement. -/
def ringWaits (s : State) (q : QPair) (h : Nat) (g : Gen) : Bool :=
  g.peer == some q.peer && ((cmdOf s h).map (·.ctx)).getD 0 == q.ctx && q.unacked.any fun e =>
    e.2.1 == ntWrite && decide (g.ringAddr ≤ e.2.2.headD 0) && decide (e.2.2.headD 0 < g.ringAddr + 16 * 2 ^ g.ringLog2)

/-- A queue pair enters the error state (R402); a GENERATE whose ring is written over it ends with RING_FAULT where a write is lost
(R373). -/
def qpError (n : Nat) (s : State) : State :=
  let q := qpOf s n
  if q.st != 1 then s
  else
    let hs := (s.gens.filter fun e => ringWaits s q e.1 e.2).map (·.1)
    let s := modQp n (fun q => { q with st := 2, unacked := [] }) s
    let s := peerLost q.ctx q.peer (netLogAt q.port 1 3 q.ctx q.peer (setEv .NET_ERR_STAT 6 0 s))
    foldS hs (fun h => endGen h 0x12 4) s

/-- The queue pairs that satisfy a condition enter the error state. -/
def qpErrors (f : QPair → Bool) (s : State) : State := foldS ((s.qps.filter fun e => f e.2).map (·.1)) qpError s

/-! ### Frames (R399, R400, R403, R429) -/

/-- A frame is dropped: logged with its port and, where it names a queue pair, that one's context and peer entry (R429). -/
def rxLog (p n : Nat) (s : State) : State :=
  let q := qpOf s n
  let known := q.st != 0
  logE { cls := 7, code := 0x0B, sev := 1, source := 4, pt := if known then q.ctx / 32 else 0xFF, func := if known then q.ctx % 32 else 0xFF,
         object := if known then q.peer else 0, data := [p, 0, 0] } s

/-- A frame is dropped and counted (R399, R429). -/
def rxDrop (p n : Nat) (s : State) : State := rxLog p n (bump .NET_RX_DROP 1 p s)

/-- A PFC frame for a class leaves a port. -/
def sendPfc (p : Nat) (ctrl stop : Bool) (s : State) : State :=
  if !rb s .NET_CTRL 0 then s
  else
    let pr := if ctrl then rf s .NET_TC_CFG 22 20 else rf s .NET_TC_CFG 10 8
    emit (.net p ntPfc [pr, b2n stop] { port := p, prio := pr }) (bump .NET_TX_FRAMES 1 p (bump .NET_PFC_TX 1 p s))

/-- A RoCE packet enters the receive buffer of its class: 512 KiB, XOFF above 384 KiB. DESIGN CHOICE (log entry 53). -/
def bufferIn (p qp : Nat) (ctrl : Bool) (n : Nat) (s : State) : State :=
  let x := lportOf s p
  let fill := (if ctrl then x.fillC else x.fillD) + n
  let off := if ctrl then x.xoffC else x.xoffD
  if 0x80000 < fill then rxDrop p qp s
  else
    let stop := decide (0x60000 < fill) && !off && rb s .NET_CTRL 0
    let x := if ctrl then { x with fillC := fill, xoffC := off || stop } else { x with fillD := fill, xoffD := off || stop }
    whenS stop (sendPfc p ctrl true) (modLport p (fun _ => x) s)

/-- Bytes leave the receive buffer of a class: XON below 256 KiB. -/
def bufferOut (p : Nat) (ctrl : Bool) (n : Nat) (s : State) : State :=
  let x := lportOf s p
  let fill := (if ctrl then x.fillC else x.fillD) - n
  let off := if ctrl then x.xoffC else x.xoffD
  let go := off && decide (fill < 0x40000)
  let x := if ctrl then { x with fillC := fill, xoffC := off && !go } else { x with fillD := fill, xoffD := off && !go }
  whenS go (sendPfc p ctrl false) (modLport p (fun _ => x) s)

/-- A packet marked CE causes a CNP, at most one per queue pair in 50 µs (R403). -/
def sendCnp (p n : Nat) (s : State) : State :=
  let q := qpOf s n
  let free := match q.cnpAt with
    | some t => decide (t + 50000 ≤ s.now)
    | none => true
  if rb s .NET_CTRL 1 && q.st == 1 && free then
    transmit p n ntCnp 0 [] (bump .NET_CNP_TX 1 p (modQp n (fun q => { q with cnpAt := some s.now }) s))
  else s

/-- An acknowledgement up to a packet sequence number frees the requests that it covers whole (R402). PRESUMED (log entry 113). -/
def ackQp (n psn : Nat) (s : State) : State :=
  let rest := (qpOf s n).unacked.filter fun e => !psnLe (lastPsn s n e) psn
  modQp n (fun q => { q with unacked := rest, tries := if rest.length = q.unacked.length then q.tries else 0 }) s

/-! ### IEEE 1588 (R14, R187, R404) -/

/-- An IEEE 1588 message leaves a port; one of the event class is timestamped as it does. -/
def ptpSend (p ty seq time : Nat) (s : State) : State :=
  let s := emit (.ptp p ty seq time) (bump .NET_TX_FRAMES 1 p s)
  whenS (decide (ty < 4)) (modLport p (fun x => { x with txStamp := s.now + 1 })) s

/-- The timebase follows the master: device time is set back by the offset found, and UTC taken from it.
DESIGN CHOICE (log entry 108). -/
def disciplineBy (off : Int) (s : State) : State :=
  let t := ((s.now : Int) - off).toNat
  let s := { s with now := t, ptp := { s.ptp with locked := true } }
  setUtc (t / 1000000000 - s.ptp.utcOff) s

/-- A Sync and its time of departure are known: with the path delay of the peer mechanism the offset is, too; else a Delay_Req asks
for it. PRESUMED (log entry 117). -/
def ptpSync (p t1 t2 : Nat) (s : State) : State :=
  let c := s.ptp
  let s := { s with ptp := { c with sync := none, t1 := t1, t2 := t2, seq := c.seq + 1 } }
  if c.p2p then
    let s := match c.delay with
      | some d => disciplineBy ((t2 : Int) - t1 - d) s
      | none => s
    { ptpSend p 2 (c.seq + 1) 0 s with ptp := { s.ptp with pt1 := s.now } }
  else ptpSend p 1 (c.seq + 1) 0 { s with ptp := { s.ptp with t3 := s.now } }

/-- The ordinary clock takes a message that came at `t` (R404): the master is the best clock announced, its Syncs are followed, a
neighbour's Pdelay_Req is answered and makes the peer mechanism the one in use. PRESUMED (log entry 117). -/
def ptpClock (p t : Nat) (m : PtpMsg) (s : State) : State :=
  let c := s.ptp
  let mine := c.master.any fun x => x.1 == m.src
  let put := fun (c : Ptp) => { s with ptp := c }
  match m.ty with
  | 11 => if mine || c.master.all (fun x => decide (m.rank < x.2)) then
      put { c with master := some (m.src, m.rank), utcOff := m.time } else s
  | 0 => if !mine then s else if m.twoStep then put { c with sync := some (m.seq, t) } else ptpSync p m.time t s
  | 8 => match c.sync with
    | some (n, t2) => if mine && n == m.seq then ptpSync p m.time t2 s else s
    | none => s
  | 9 => if mine && m.seq == c.seq && c.t3 != 0 then
      disciplineBy ((((c.t2 : Int) - c.t1) - ((m.time : Int) - c.t3)) / 2) (put { c with t3 := 0 }) else s
  | 2 => ptpSend p 10 m.seq t (ptpSend p 3 m.seq t (put { c with p2p := true }))
  | 3 => if m.seq == c.seq then put { c with pt4 := t, pt2 := m.time } else s
  | 10 => if m.seq == c.seq && c.pt4 != 0 then
      put { c with delay := some ((((c.pt4 : Int) - c.pt1) - ((m.time : Int) - c.pt2)) / 2), pt4 := 0 } else s
  | _ => s

/-- An IEEE 1588 message is received: event messages are timestamped on every port, and the clock on PTP_PORT takes it where Silset
runs (R404). -/
def ptpReceive (p : Nat) (m : PtpMsg) (s : State) : State :=
  let s := whenS (decide (m.ty < 4)) (modLport p (fun x => { x with rxStamp := s.now + 1 })) s
  if silUp s && rf s .NET_CTRL 20 16 == p then ptpClock p s.now m s else s

/-- A frame is addressed to the port: to its MAC address, and a RoCE packet, ARP request or neighbour solicitation to one of its IP
addresses (R399). -/
def ownFrame (s : State) (p : Nat) (f : RxFrame) : Bool :=
  f.mac == (rd s .NET_PORT_MAC_LO p).toNat + (rd s .NET_PORT_MAC_HI p).toNat % 2 ^ 16 * 2 ^ 32 &&
  (f.kind == 2 || f.ip != 0 && (f.ip == portIp4 s p || f.ip == portIp6 s p))

/-- A frame that has passed FCS is admitted or dropped. -/
def admitFrame (p : Nat) (f : RxFrame) (s : State) : State :=
  let n := if f.kind < 2 then f.qp else 2 ^ 24
  if decide (9216 < f.len) || !ownFrame s p f || f.frag || decide (1 < f.tags) then rxDrop p n s
  else if f.kind < 2 then
    if f.icrcBad then
      rxLog p n (bump .NET_ICRC_ERR 1 p s)
    else
      let s := whenS f.ce (sendCnp p f.qp) s
      if f.kind = 1 then ackQp f.qp f.psn s else bufferIn p f.qp f.ctrl f.len s
  else if f.kind = 2 then (if ptpOn s then ptpReceive p f.ptp s else rxDrop p n s)
  else if f.kind = 3 then emit (.net p ntNeighbour [f.ip] { port := p }) (bump .NET_TX_FRAMES 1 p s)
  else rxDrop p n s

/-- FRAME_RECEIVE (R399, R400, R403, R404, R429). -/
def execFrameReceive (port : Nat) (f : RxFrame) (s : State) : Out :=
  done <|
    if !portUp s port then s
    else
      let s := whenS f.unc (setEv .NET_PORT_STAT 8 port) (bump .NET_FEC_CORR f.fec port s)
      let s := bump .NET_RX_FRAMES 1 port s
      if f.fcsBad || f.unc then
        rxLog port (2 ^ 24) (bump .NET_RX_FCS_ERR 1 port s)
      else admitFrame port f s

/-- PFC_FRAME_RECEIVE (R400): a transmit priority is paused, or resumed; its waiting frames then leave. -/
def execPfcFrameReceive (port prio : Nat) (pause : Bool) (s : State) : Out :=
  done <|
    if !portUp s port then s
    else
      let s := bump .NET_PFC_RX 1 port (bump .NET_RX_FRAMES 1 port s)
      let x := lportOf s port
      if pause then modLport port (fun x => { x with paused := x.paused ||| 2 ^ prio }) s
      else
        let go := x.queue.filter fun e => e.1 == prio
        let clear := fun (m : Nat) => if m.testBit prio then m - 2 ^ prio else m
        let s := modLport port (fun x =>
          { x with paused := clear x.paused, storm := clear x.storm, queue := x.queue.filter fun e => e.1 != prio }) s
        foldS go (fun e => putFrames port e.2.1 e.2.2.1 e.2.2.2.1 e.2.2.2.2) s

/-- PFC_STORM_TIMEOUT (R400): a priority has stayed paused for 100 ms; its frames are dropped, and go on being dropped. -/
def execPfcStormTimeout (port prio : Nat) (s : State) : Out :=
  done <|
    if !(lportOf s port).paused.testBit prio || (lportOf s port).storm.testBit prio then s
    else
      let s := modLport port (fun x =>
        { x with storm := x.storm ||| 2 ^ prio, queue := x.queue.filter fun e => e.1 != prio }) s
      logE { cls := 7, code := 3, sev := 2, object := prio, data := [port, 0, 0] } (setEv .NET_PORT_STAT 9 port s)

/-! ### Ports (R397, R398, R402, R431) -/

/-- The logical ports that a mode creates on a physical port (R397). -/
def createdPorts (phys mode : Nat) : List Nat :=
  match mode with
  | 0 => [4 * phys]
  | 1 => [4 * phys, 4 * phys + 2]
  | _ => [4 * phys, 4 * phys + 1, 4 * phys + 2, 4 * phys + 3]

/-- The clock source of a port, by its number in CLK_STAT (R398, R562): 1 for P0 to P3, 2 for P4 to P7. -/
def portSource (p : Nat) : Nat := 1 + p / 16

/-- The clock of a port runs: its source is VALID and is not gated (R564, R570). -/
def portClocked (s : State) (p : Nat) : Bool :=
  rf s .CLK_STAT (3 * portSource p + 2) (3 * portSource p) == 2 && rb s .CLK_GATE (p / 16)

/-- LINK of a logical port whose link is to be trained: 1 where its clock runs, 3 while a failed source squelches it, else 0
(R431, R566, R570). DESIGN CHOICE (log entry 71). -/
def linkIdle (s : State) (p : Nat) : Nat :=
  if portClocked s p then 1
  else if rb s .CLK_GATE (p / 16) && decide (3 ≤ rf s .CLK_STAT (3 * portSource p + 2) (3 * portSource p)) then 3 else 0

/-- The lanes of a physical port are retrained in its mode, and logical ports that have ceased to exist lose their queue
pairs (R398). -/
def retrainPort (phys : Nat) (s : State) : State :=
  let made := createdPorts phys (rf s .NET_PORT_CFG 1 0 (4 * phys))
  let all := (List.range 4).map (4 * phys + ·)
  let s := foldS all (fun p s => wrf .NET_PORT_STAT 1 0 (if made.contains p then linkIdle s p else 0) p
    (modLport p (fun x => { x with queue := [] }) s)) s
  qpErrors (fun q => all.contains q.port && !made.contains q.port) s

/-- A write of NET_PORT_CFG for a logical port: MODE belongs to its physical port. DESIGN CHOICE (log entry 57). -/
def portCfgWrite (src : Src) (port v : Nat) (always : Bool) (s : State) : State :=
  let phys := port / 4
  let old := rf s .NET_PORT_CFG 1 0 port
  let s := storeReg src .NET_PORT_CFG port (blkOff .NET_PORT_CFG) v s
  let m := rf s .NET_PORT_CFG 1 0 port
  let s := foldS ((List.range 4).map (4 * phys + ·)) (fun p => wrf .NET_PORT_CFG 1 0 m p) s
  whenS (v % 4 != 3 && (always || m != old)) (retrainPort phys) s

/-- PORT_MODE_WRITE (R398). DESIGN CHOICE (log entry 57). -/
def execPortModeWrite (src : Src) (port value : Nat) (s : State) : Out := done (portCfgWrite src port value true s)

/-- PORT_LINK_DOWN (R402). -/
def execPortLinkDown (port : Nat) (s : State) : Out :=
  done (if rf s .NET_PORT_STAT 1 0 port = 0 then s else
    qpErrors (fun q => q.port == port)
      (modLport port (fun x => { x with queue := [] }) (wrf .NET_PORT_STAT 1 0 0 port s)))

/-- PORT_LINK_UP (R431): training of a logical port that exists has ended; it needs the clock and the SerDes domain (R566, R570,
R572). -/
def execPortLinkUp (port : Nat) (s : State) : Out :=
  let made := createdPorts (port / 4) (rf s .NET_PORT_CFG 1 0 port)
  done (whenS (made.contains port && portClocked s port && pdOn s 20 && decide (rf s .NET_PORT_STAT 1 0 port < 2)) (wrf .NET_PORT_STAT 1 0 2 port) s)

/-! ### RDMA requests (R401, R410) -/

/-- The first three conditions of R410. -/
def rdmaKnown (s : State) (r : RdmaReq) : Bool :=
  let q := qpOf s r.qp
  let e := qpPeer s r.qp
  q.st == 1 && e.ip == r.srcIp && remoteQp e r.qp == r.srcQp

/-- A region of the peer table admits a remote access, but for its range (R410). -/
def regionFor (q : QPair) (r : RdmaReq) (g : RegionE) : Bool :=
  g.dir == 0 && (g.peer == 0xFF || g.peer == q.peer) && g.rkey == r.rkey && g.access.testBit (b2n (r.op != 4))

/-- The last two conditions of R410, for RDMA READ and RDMA WRITE. -/
def rdmaAllowed (s : State) (r : RdmaReq) : Bool :=
  (qpTable s r.qp).regions.any fun g =>
    regionFor (qpOf s r.qp) r g && decide (g.base ≤ r.addr) && decide (r.addr + r.len ≤ g.base + g.len)

/-- The first byte of a refused remote access that no region admits (R290); the first of all where a region admits them, and the access
is refused for its function. -/
def firstOutside (s : State) (r : RdmaReq) : Nat :=
  let here := (qpTable s r.qp).regions.filter fun g =>
    regionFor (qpOf s r.qp) r g && decide (g.base ≤ r.addr) && decide (r.addr < g.base + g.len)
  let e := (here.map fun g => g.base + g.len).foldl max r.addr
  if e < r.addr + r.len then e else r.addr

/-- The packet sequence numbers that a received request takes, and the last of them. PRESUMED (log entry 113). -/
def reqSpan (s : State) (r : RdmaReq) : Nat :=
  let mtu := 1024 * 2 ^ (qpPeer s r.qp).pmtu
  max 1 ((r.len + mtu - 1) / mtu)
def reqLast (s : State) (r : RdmaReq) : Nat := (r.psn + reqSpan s r - 1) % 2 ^ 24

/-- An answer to a received request. -/
def answerReq (r : RdmaReq) (ty psn : Nat) (data : List Nat) (s : State) : State := transmit r.port r.qp ty psn data s

/-- A remote access is refused: NAK, ACCESS_NAK, ADDR_VIOL with the address logged (R290, R292, R300), the queue pair in error.
DESIGN CHOICE (log entry 54). -/
def rdmaRefuse (r : RdmaReq) (s : State) : State :=
  let q := qpOf s r.qp
  let a := firstOutside s r
  let s := answerReq r ntNak r.psn [2] (setEv .NET_ERR_STAT 5 0 s)
  qpError r.qp (netLogAt r.port 2 3 q.ctx q.peer (addrViolation 2 a 0 4 (r.op != 4) s))

/-- A remote access meets a unit that is down or an uncorrectable error. DESIGN CHOICE (log entry 54). -/
def rdmaBlocked (s : State) (r : RdmaReq) : Bool :=
  (hubDown s r.addr r.len).isSome || (if r.op = 4 then anyPoison s r.addr r.len else wrRefused s r.addr r.len)

/-- A request is carried out, or one that has been is answered again: a READ is read anew. -/
def rdmaServe (r : RdmaReq) (again : Bool) (s : State) : State :=
  if r.op = 4 then answerReq r ntReadData r.psn ((rdBytes s r.addr r.len).map (·.toNat)) (spmTouch r.addr s)
  else answerReq r ntAck (reqLast s r) []
    (whenS (decide (2 ≤ r.op) && !again) (fun s => spmTouch r.addr (wrBytes r.addr (r.data.map (BitVec.ofNat 8)) s)) s)

/-- RDMA_REQUEST_RECEIVE (R402, R410): one that comes before its turn is answered with a sequence error, one that has been carried out
is answered again. What a SEND brings is a command of its own. DESIGN CHOICE (log entry 54). -/
def execRdmaRequestReceive (r : RdmaReq) (s : State) : Out :=
  done <|
    let s := bufferOut r.port r.ctrl r.bytes s
    let q := qpOf s r.qp
    let again := r.psn != q.epsn
    if !rdmaKnown s r then rxDrop r.port r.qp s
    else if again && psnLe q.epsn r.psn then answerReq r ntNak q.epsn [0] s
    else if decide (2 ≤ r.op) && (!rdmaAllowed s r || (fnOf s (q.ctx % 32)).inFlr) then rdmaRefuse r s
    else if decide (2 ≤ r.op) && rdmaBlocked s r then
      let s := whenS (r.op != 4 && (hubDown s r.addr r.len).isNone) (wrBytes r.addr (r.data.map (BitVec.ofNat 8))) s
      qpError r.qp (answerReq r ntNak r.psn [3] s)
    else rdmaServe r again (whenS (!again) (modQp r.qp fun q => { q with epsn := (q.epsn + reqSpan s r) % 2 ^ 24 }) s)

/-! ### Retransmission and rate control (R402, R403) -/

/-- Every request not acknowledged is sent again, or the retries are spent. DESIGN CHOICE (log entry 54). -/
def retryQp (n : Nat) (s : State) : State :=
  let q := qpOf s n
  if q.st != 1 ∨ q.unacked.isEmpty then s
  else if rf s .NET_ACK_CFG 7 5 ≤ q.tries then qpError n s
  else foldS q.unacked (fun e => transmit q.port n e.2.1 e.1 e.2.2) (modQp n (fun q => { q with tries := q.tries + 1 }) s)

/-- ACK_TIMEOUT (R402). -/
def execAckTimeout (qp : Nat) (s : State) : Out := done (retryQp qp s)

/-- NAK_RECEIVE (R402): 0 a sequence error and 1 receiver not ready acknowledge what came before the packet they name and cause
retransmission from it; any other is fatal. DESIGN CHOICE (log entry 54). -/
def execNakReceive (qp code psn : Nat) (s : State) : Out :=
  done <|
    let q := qpOf s qp
    if q.st != 1 then s
    else
      let s := netLogAt q.port 2 3 q.ctx q.peer s
      if code < 2 then retryQp qp (ackQp qp ((psn + 2 ^ 24 - 1) % 2 ^ 24) s) else qpError qp s

/-- CNP_RECEIVE (R403). -/
def execCnpReceive (qp : Nat) (s : State) : Out :=
  done <|
    let q := qpOf s qp
    if q.st != 1 then s
    else
      let s := bump .NET_CNP_RX 1 q.port s
      if !rb s .NET_CTRL 1 then s
      else modQp qp (fun q =>
        { q with rt := q.rc, rc := max (rf s .NET_RC_CFG 31 16 * 10 : ℚ) (q.rc * (1 - q.alpha / 2)),
                 alpha := q.alpha + (1 - q.alpha) / 16, periods := 0 }) s

/-- RATE_INCREASE_TIMER (R403). -/
def execRateIncreaseTimer (qp : Nat) (s : State) : Out :=
  done <|
    let q := qpOf s qp
    if q.st != 1 || !rb s .NET_CTRL 1 then s
    else
      let n := q.periods + 1
      let rt := if n < 5 then q.rt else min (lineRate s q.port) (q.rt + rf s .NET_RC_CFG 15 0)
      modQp qp (fun q => { q with alpha := q.alpha * 15 / 16, periods := n, rt := rt, rc := (q.rc + rt) / 2 }) s

/-! ### Control messages (R411, R412, R427) -/

/-- A message is stale, or names another job (R412); a tag of 0 names none. DESIGN CHOICE (log entry 55). -/
def staleMsg (s : State) (n epoch tag : Nat) : Bool :=
  let q := qpOf s n
  epoch != (peerSt s q.ctx q.peer).epoch || (tag != 0 && tag != jobTag (qpTable s n))

/-- A stale message is discarded and counted. -/
def dropStale (k p : Nat) (s : State) : State := netLog 0x0A 1 k p (bump .NET_STALE_DROP_CNT 1 0 s)

/-- A control message of a job that comes in on a queue pair: dropped where stale, discarded while the job is HELD. -/
def ctlMsg (qp epoch tag : Nat) (f : Nat → Nat → State → State) (s : State) : State :=
  let q := qpOf s qp
  if q.st != 1 ∨ (jobOf s q.ctx).st = 0 then s
  else if staleMsg s qp epoch tag then dropStale q.ctx q.peer s
  else if jobHeld s q.ctx then s
  else f q.ctx q.peer s

/-- A message of the relay of wares, inside or outside a job: dropped where stale; while the job is HELD only those of fetches from the
member are taken (R412, R427). -/
def relayMsg (qp epoch tag : Nat) (held : Nat → Nat → Bool) (f : Nat → Nat → State → State) (s : State) : State :=
  let q := qpOf s qp
  if q.st != 1 then s
  else if staleMsg s qp epoch tag then dropStale q.ctx q.peer s
  else if jobHeld s q.ctx && !held q.ctx q.peer then s
  else f q.ctx q.peer s

/-! ### Serving wares and key/value records (R413, R414, R422) -/

/-- The code record of a shadow (R213). -/
def shadowBytes (s : State) (x : Shadow) : List Byte :=
  (List.range x.rows).flatMap fun r => rdBytes s (x.addr + r * 512) ((x.cols + 1) / 2)

/-- The load of a context will bring a record. -/
def willBring (s : State) (k digest rec : Nat) : Bool :=
  (loadOf s k).any fun l =>
    let i := imgOf s l.im
    i.wareDigest == digest && l.stop.isNone && (payloadsOf l i).contains (rec - 1)

/-- A table of an EMBED section. -/
def tableBytes (s : State) (k digest rec : Nat) (is : List (Nat × Image)) (r : WareRec) : Except Nat (List Byte) :=
  let n := r.rows * r.cols * 2
  match is.findSome? fun i => (i.2.embeds.find? fun e => e.1 == rec - 1 &&
      !((loadOf s k).any fun l => l.im == i.1 && l.tables.contains (rec - 1))).map (·.2) with
  | some a => if anyPoison s a n || (hubDown s a n).isSome then .error 2 else .ok (rdBytes s a n)
  | none => .error (if willBring s k digest rec then 0 else 1)

/-- A record of a ware from a context's sources, or the reason of a WARE_NACK; 0 where it has to be waited for, as while a load of the
ware awaits its signed part. -/
def wareRecord (s : State) (k digest rec : Nat) : Except Nat (List Byte) :=
  let is := ((cxOf s k).images.map fun im => (im, imgOf s im)).filter fun i => i.2.wareDigest == digest
  let comes := (loadOf s k).any fun l => l.digest == digest && !l.raw.isEmpty && l.stop.isNone
  if rec = 0 then
    match is.find? fun i => !i.2.wareRaw.isEmpty with
    | some i => .ok i.2.wareRaw
    | none => .error (if comes then 0 else 1)
  else match is.findSome? fun i => i.2.ware[rec - 1]? with
    | none => .error (if comes then 0 else 1)
    | some r =>
      if r.kind = 3 then tableBytes s k digest rec is r
      else
        let es := s.shadow.filter fun e => e.2.ctx == k && e.2.digest == r.digest >>> 320
        match es.find? fun e => !shadowBad s e.1 && (hubDown s e.2.addr 0x80000).isNone && !anyPoison s e.2.addr 0x80000 with
        | some e => .ok (shadowBytes s e.2)
        | none => .error (if !es.isEmpty then 2 else if willBring s k digest rec then 0 else 1)

/-- The first record number of a key/value answer. PRESUMED (log entry 50). -/
def kvRec : Nat := 2 ^ 24

/-- The bytes of the next record of a request being served. -/
def servedBytes (s : State) (k : Nat) (x : Serving) : Except Nat (List Byte) :=
  if x.kind = 1 then wareRecord s k (x.args.getD 2 0) x.next
  else
    let rs := x.locs.getD (x.locs.length - x.left) []
    if rs.any (fun r => anyPoison s r.2.1 r.2.2 || (hubDown s r.2.1 r.2.2).isSome) then .error 2 else .ok (partBytes s rs)

/-- A request that cannot be served is answered with WARE_NACK; the sequence whose key/value data is lost becomes FAILED (R339). -/
def refuseServing (k reason : Nat) (x : Serving) (s : State) : State :=
  let i := x.args.getD 2 0
  let lost := x.kind != 1 && (seqOf s i).used && (seqOf s i).ctx == k && (seqOf s i).jsn == x.args.getD 3 0
  whenS lost (fun s => failSeqCmds i 0x11 (failSeq i 0x3F s)) (relaySend x.qp 3 x.sn [x.next, reason] s)

/-- The data queue pair of a peer entry that carries a record: the used ones in turn (R414). -/
def dataQp (e : PeerE) (rec : Nat) : Nat :=
  let us := (List.range 4).filter fun j => e.ports.getD j 0xFF != 0xFF
  e.localQpn + 1 + us.getD (rec % max 1 us.length) 0

/-- A request is served as far as its credits and the records held go. DESIGN CHOICE (log entry 55). -/
def serveOne : Nat → Nat → Serving → State → Option Serving × State
  | 0, _, x, s => (some x, s)
  | n + 1, k, x, s =>
    if x.left = 0 then (none, s)
    else if x.credits = 0 then (some x, s)
    else match servedBytes s k x with
      | .error 0 => (some x, s)
      | .error r => (none, refuseServing k r x s)
      | .ok b =>
        let chunk := (b.drop x.sent).take mib
        let last := decide (b.length ≤ x.sent + chunk.length)
        let slot := x.args.getD 0 0
        let slots := max 1 (x.args.getD 1 0)
        let e := qpPeer s x.qp
        let imm := slot + 64 * b2n last + 128 * x.next
        let s := qpSend (dataQp e x.next) ntWriteImm (imm :: chunk.map (·.toNat)) s
        let x := { x with credits := x.credits - 1, args := ((slot + 1) % slots) :: x.args.drop 1 }
        if last then serveOne n k { x with next := x.next + 1, left := x.left - 1, sent := 0 } (bump .NET_RELAY_REC_CNT 1 0 s)
        else serveOne n k { x with sent := x.sent + chunk.length } s

/-- The requests that a context serves go on; one that has ended releases its pins (R327). -/
def serveMore (k : Nat) (s : State) : State :=
  let r := foldS (tget [] s.serving k) (fun x (a : List Serving × State) =>
    let y := serveOne (x.credits + x.left + 1) k x a.2
    (a.1 ++ y.1.toList, if y.1.isNone then foldS x.pins (fun p => unpin p 0x42) y.2 else y.2)) ([], s)
  { r.2 with serving := tset [] r.2.serving k r.1 }

/-- A request is taken up: its records are served behind those of earlier ones. -/
def serve (k : Nat) (x : Serving) (s : State) : State :=
  serveMore k { s with serving := tmod [] s.serving k (fun l => l ++ [x]) }

/-- WARE_REQ (R413). -/
def execWareReq (qp epoch tag sn digest first n credits : Nat) (s : State) : Out :=
  done (relayMsg qp epoch tag (fun _ _ => true) (fun k p s =>
    let t := qpTable s qp
    if !(t.serve && (t.peers.getD p {}).fetch) then relaySend qp 3 sn [first, 3] s
    else serve k { peer := p, qp := qp, sn := sn, kind := 1, next := first, left := n, credits := credits, args := [0, credits, digest] } s) s)

/-- A credit is for this request. -/
def credits (p sn : Nat) (x : Serving) : Bool := x.peer == p && x.sn == sn

/-- WARE_CREDIT (R414): while the job is HELD only for a ware. -/
def execWareCredit (qp epoch tag sn n : Nat) (s : State) : Out :=
  done (relayMsg qp epoch tag (fun k p => (tget [] s.serving k).any fun x => credits p sn x && x.kind == 1) (fun k p s =>
    let xs := tget [] s.serving k
    match xs.findIdx? (credits p sn) with
    | none => s
    | some i =>
      serveMore k { s with serving := tset [] s.serving k (xs.modify i fun x => { x with credits := x.credits + n }) }) s)

/-- WARE_NACK (R414, R422): the load, the restore or the checkpoint that asked the peer, as its SEQ_NO names it, ends with the status
its reason gives. -/
def execWareNack (qp epoch tag sn rec reason : Nat) (s : State) : Out :=
  done (relayMsg qp epoch tag (fun _ _ => false) (fun k p s =>
    let st := if reason = 3 then 4 else 0x1A
    match (tget [] s.asks k).head?, cmdOf s sn with
    | some a, some c =>
      if a.h != sn || a.gen != c.gen || (qpOf s a.qp).peer != p then s
      else if c.op = 1 then failLoad k st 0 s
      else if c.op = 4 then kickAsks k false (complete sn st c.info (badCount s k) s)
      else stopDma sn 0x15 s
    | _, _ => s) s)

/-- KV_REQ (R422): the positions below LEN that this member holds are answered under pins (R327). -/
def execKvReq (qp epoch tag sn jsn len first layers credits : Nat) (s : State) : Out :=
  done (ctlMsg qp epoch tag (fun k p s =>
    match s.seqs.find? fun e => e.2.used && !e.2.hidden && e.2.ctx == k && e.2.jsn == jsn with
    | none => relaySend qp 3 sn [kvRec + first, 1] s
    | some (i, q) =>
      if q.len < len then relaySend qp 3 sn [kvRec + first, 1] s
      else
        let ls := (List.range layers).map (first + ·)
        let ps := ls.flatMap fun l => framesOf s i l len ++ slipsOf s i l len
        serve k { peer := p, qp := qp, sn := sn, kind := 4, next := kvRec + first, left := layers, credits := credits,
                  args := [0, credits, i, jsn], locs := ls.map fun l => recordsOf s i l len, pins := ps }
          (foldS ps (fun a => pin a 0x42) s)) s)

/-! ### Records that arrive (R225, R414, R415) -/

/-- A payload of a ware has come for a load; requests that waited for it can be served. -/
def payloadIn (k rec : Nat) (pl : List Nat) (err : Bool) (s : State) : State := serveMore k (payloadArrives k rec pl err s)

/-- WARE_PAYLOAD_ARRIVAL (R214, R215, R225, R415): the payload of a ware in host memory is what has been read; that of a ware in
device memory is read here. -/
def execWarePayloadArrival (h rec : Nat) (payload : List Nat) (err : Bool) (s : State) : Out :=
  done <| match cmdOf s h with
    | some c => match loadOf s c.ctx with
      | some l =>
        if l.h != h then s
        else if l.src = 1 then
          let d := devPayload s (c.u 0x20 8) (imgOf s l.im) rec
          payloadIn c.ctx rec d.1 (err || d.2) s
        else payloadIn c.ctx rec payload err s
      | none => s
    | none => s

/-- A whole record has come from a peer: a layer of a checkpoint, or a record of a ware for a load or a restore. Record 0, the signed
part of a ware, is what a load's validation waits for.
DESIGN CHOICE (log entry 38). -/
def recordIn (k p rec : Nat) (b : List Nat) (s : State) : State :=
  if kvRec ≤ rec then
    match s.cmds.find? fun e => e.2.ctx == k && e.2.run && e.2.op == 0x20 && e.2.left != 0 with
    | some (h, c) =>
      let r := (peerE s k p).rank
      ckptReady h (setCmd h { c with left := c.left - 1, prog := s.now }
        { s with kvParts := tset [] s.kvParts (h * 2 ^ 12 + r * 64 + (rec - kvRec)) b })
    | none => s
  else if rec = 0 then
    match loadOf s k with
    | some l => if l.src = 2 ∧ l.peer = p ∧ l.raw ≠ [] then
        serveMore k (validate k l.h (2 ^ 64) (l.raw.map (BitVec.ofNat 8)) (b.map (BitVec.ofNat 8)) false
          (modLoad k (fun l => { l with raw := [] }) s)) else s
    | none => s
  else if (loadOf s k).any fun l => l.src == 2 && l.peer == p then payloadIn k (rec - 1) b false s
  else match s.cmds.find? fun e => e.2.ctx == k && e.2.run && e.2.op == 0x04 && namesPeer e.2 p with
    | some (h, c) =>
      let tls := c.words.filter fun tl => (badTls s k).any fun e => e.1 == tl && e.2.2.record == rec - 1
      let ts := (lostTables s k).filter fun e => e.2.1 == rec - 1 && c.words.contains (tableItem e.1 e.2.1)
      foldS (tls ++ (ts.map fun e => tableItem e.1 e.2.1).dedup) (fun x => restoreArrives h x b false) s
    | none => s

/-- The slot of a chunk is released with WARE_CREDIT, which names the request under way; after the last chunk of its last record the next
request of the context leaves (R411, R414). -/
def releaseSlot (k : Nat) (last : Bool) (s : State) : State :=
  match tget [] s.asks k with
  | [] => s
  | a :: rest =>
    let s := relaySend a.qp 2 a.h [1] s
    if !last then s
    else if a.left ≤ 1 then kickAsks k true s
    else { s with asks := tset [] s.asks k ({ a with left := a.left - 1 } :: rest) }

/-- FETCH_CHUNK_ARRIVAL (R414): a chunk lands in a slot of the fetch buffer, is moved on, checked with the last of its record, and its
slot released. -/
def execFetchChunkArrival (qp slot : Nat) (last : Bool) (rec : Nat) (bytes : List Nat) (s : State) : Out :=
  done <|
    let q := qpOf s qp
    let k := q.ctx
    let p := q.peer
    let t := qpTable s qp
    if q.st != 1 ∨ t.slots ≤ slot then s
    else
      let s := wrBytes (t.fetchBase + slot * mib) (bytes.map (BitVec.ofNat 8)) s
      let fs := tget [] s.fetches k
      let b := ((fs.find? fun f => f.peer == p && f.rec_ == rec).map (·.bytes)).getD [] ++ bytes
      let rest := fs.filter fun f => !(f.peer == p && f.rec_ == rec)
      releaseSlot k last (if last then recordIn k p rec b { s with fetches := tset [] s.fetches k rest }
        else
          let f : Fetch := { peer := p, rec_ := rec, bytes := b }
          { s with fetches := tset [] s.fetches k (rest ++ [f]) })

/-! ### Fences, losses, rejoin (R412, R421, R425 to R428) -/

/-- FENCE_NOTICE (R426): its sender is fenced, or with reason 4 the rank it names is lost. DESIGN CHOICE (log entry 51). -/
def execFenceNotice (qp epoch tag reason rank : Nat) (s : State) : Out :=
  done (ctlMsg qp epoch tag (fun k p s =>
    let s := netLog 4 3 k p (signalVec .NET_EVT_VEC (setEv .NET_ERR_STAT 0 0 s))
    if reason = 4 then
      match peerOfRank (peersOf s k) rank with
      | some r => peerGone k r (declarePeer k r 3 (netLog 5 3 k r (signalVec .NET_EVT_VEC (setEv .NET_ERR_STAT 1 0 s))))
      | none => s
    else peerGone k p (declarePeer k p 2 s)) s)

/-- Every peer of a member is READY at its current epoch: the job runs again (R428). DESIGN CHOICE (log entry 51). -/
def checkResume (k : Nat) (s : State) : State :=
  let j := jobOf s k
  if j.st = 2 ∧ (memberPeers (peersOf s k)).all (fun p => (peerSt s k p).st == 1 && (peerSt s k p).acked == j.epoch) then
    netLog 9 1 k 0xFF (signalVec .NET_EVT_VEC (setEv .NET_ERR_STAT 7 0 (modMember k (fun j => { j with st := 1 }) s)))
  else s

/-- REJOIN (R428): the peer's new epoch is recorded and acknowledged. -/
def execRejoin (qp tag newEpoch : Nat) (s : State) : Out :=
  done <|
    let q := qpOf s qp
    let k := q.ctx
    if q.st != 1 ∨ (jobOf s k).st = 0 then s
    else if tag != jobTag (peersOf s k) then dropStale k q.peer s
    else
      let s := modPeer k q.peer (fun x => { x with st := 1, epoch := newEpoch }) s
      checkResume k (ctrlSend k q.peer 0x12 0 [(jobOf s k).epoch] s)

/-- REJOIN_ACK (R428): the peer is READY at this member's epoch. DESIGN CHOICE (log entry 51). -/
def execRejoinAck (qp tag epoch : Nat) (s : State) : Out :=
  done <|
    let q := qpOf s qp
    let k := q.ctx
    if q.st != 1 ∨ (jobOf s k).st = 0 then s
    else if tag != jobTag (peersOf s k) then dropStale k q.peer s
    else
      let n := (jobOf s k).epoch
      checkResume k (modPeer k q.peer (fun x => { x with st := 1, epoch := epoch, acked := n }) s)

/-- STEP_REC (R421): kept while its step is open, and held against the member's own step; a message is of at most 4,096 B (R411). -/
def execStepRec (qp epoch tag step : Nat) (vals : List Nat) (s : State) : Out :=
  done (ctlMsg qp epoch tag (fun k p s =>
    if 4096 < 16 + bodyBytes 0x20 vals then s
    else checkRecs k (modPeer k p (fun x => { x with recs := tins x.recs step vals }) s)) s)

/-- JOB_REJOIN_START (R412, R428): a member whose image is active and whose queue pairs are ready advances its epoch and
sends REJOIN. -/
def execJobRejoinStart (pt fn : Nat) (s : State) : Out :=
  done <|
    let k := cxKey pt fn
    let t := peersOf s k
    let ps := memberPeers t
    if t.job = 0 ∨ (jobOf s k).st != 2 ∨ !(ps.all fun p => (peerQps (t.peers.getD p {})).all fun q =>
        q.2 == 0xFF || qpReady s q.1) then s
    else
      let s := modMember k (fun j => { j with epoch := (j.epoch + 1) % 2 ^ 32 }) s
      let n := (jobOf s k).epoch
      foldS ps (fun p s =>
        let s := if (peerSt s k p).st = 1 then s else modPeer k p (fun x => { x with st := 4 }) s
        ctrlSend k p 0x11 0 [n] s) s

/-- VSTORE (R255, R263, R270), and the fence that a comparison of sketches which it completes may bring (R424). -/
def execVstore (cl ctx : Nat) (s : State) : Out := done (settleFences (vstore cl ctx s))

/-- CONTRIBUTION_RECEIVE (R412, R419): a peer's contribution takes its rank place, with its padding zero. -/
def execContributionReceive (qp imm : Nat) (vals : List Nat) (s : State) : Out :=
  done <|
    let q := qpOf s qp
    let k := q.ctx
    let p := q.peer
    let t := peersOf s k
    let x := imm / 2 ^ 16
    let r := (peerE s k p).rank
    if q.st != 1 ∨ (jobOf s k).st = 0 then s
    else if imm % 2 ^ 16 != (peerSt s k p).epoch % 2 ^ 16 then dropStale k p s
    else if jobHeld s k || decide (t.xchs.length ≤ x) || vals.length != (xchE t x).elems + (xchE t x).elems % 2 ||
        (xchOf s k x).done.contains r then s
    else
      let data := vals.take (xchE t x).elems ++ List.replicate ((xchE t x).elems % 2) 0
      let s := wrBytes (rankPlace t x r) (data.flatMap (bytesLE 4)) s
      settleFences (xchReady k x (modXch k x (fun y => { y with done := r :: y.done }) s))

/-- A contribution or STEP_REC of a peer is awaited, the member's own matching one being complete (R426). -/
def awaits (s : State) (k p : Nat) : Bool :=
  let t := peersOf s k
  let r := (peerE s k p).rank
  ((List.range t.xchs.length).any fun x => (xchOf s k x).done.contains t.self && !(xchOf s k x).done.contains r) ||
    (jobOf s k).recs.any fun e => !recIn s k p e.1

/-- COLLECTIVE_TIMEOUT (R426): a contribution or STEP_REC of a peer has not come COLL_TO after the member's own. -/
def execCollectiveTimeout (pt fn peer : Nat) (s : State) : Out :=
  done <|
    let k := cxKey pt fn
    if (jobOf s k).st != 1 ∨ !(memberPeers (peersOf s k)).contains peer ∨ !awaits s k peer then s
    else peerLost k peer (bump .NET_COLL_TO_CNT 1 0 s)

/-- The queue pairs of a context drop. -/
def dropQps (k : Nat) (s : State) : State :=
  { s with qps := s.qps.map fun e => if e.2.ctx == k && e.2.st == 1 then (e.1, { e.2 with st := 2, unacked := [] }) else e }

/-- The notice of R425 goes to every member, and the job is held. -/
def sendNotice (k reason : Nat) (s : State) : State :=
  if (jobOf s k).st = 0 then s
  else
    let s := ctrlAll k 0x10 0 [reason, (peersOf s k).self] s
    modMember k (fun j => { j with notice := true }) (holdJob k s)

end Sys2Proof.Machine
end

