-- ==== Sys2Proof/Machine/UnitOps.lean ====
section
/-! DEFINITION. What fences and resets do to the units they cover: halts released, work dropped, registers cleared, crossings
closed, a partition emptied (R475, R476, R479, R482, R627, R658). -/

namespace Sys2Proof.Machine

open Sys2Proof

/-! ### Units that a unit contains (R475, R476) -/

/-- Unit `k`, `i` is the unit `kind`, `index` or lies within it. -/
def within (s : State) (kind index k i : Nat) : Bool := (k, i) == (kind, index) || (containers s k i).contains (kind, index)

/-- The bays of which a unit is a part or which it contains. -/
def baysOf (s : State) (kind index : Nat) : List Nat :=
  if kind = 10 then (diesOfPt s index).flatMap fun d => (List.range 6).map (d * 6 + ·)
  else if kind ≤ 8 ∧ kind ≠ 10 then (if kind = 0 then [index / 256] else if kind ≤ 3 then [index / 8] else [index])
  else []

/-- RST_LAST (R495): level, cause, unit and partition of the last reset. -/
def setLast (level cause kind index pt : Nat) (s : State) : State :=
  wr .RST_LAST 0 (BitVec.ofNat 32 (level + cause * 2 ^ 4 + kind % 16 * 2 ^ 8 + index % 2 ^ 14 * 2 ^ 12 + pt % 8 * 2 ^ 26)) s

/-! ### Halts (R627, R628) -/

/-- The bay in which a held item waits: that of a pass request or of a vector issue. -/
def itemBay (e : Nat × Nat) : Option Nat :=
  if e.1 = 5 then some (e.2 / 1024) else if e.1 = 6 then some (e.2 % 512 / 8) else none

/-- The items held in bays of which `p` holds are let go; a breakpoint does not match them a second time (R628). -/
def letGo (p : Option Nat → Bool) (s : State) : State :=
  let go := s.dbg.held.filter fun e => p (itemBay e)
  let d := { s.dbg with held := s.dbg.held.filter (fun e => !p (itemBay e)), released := s.dbg.released ++ go.filter (·.1 != 1) }
  if !p none then { s with dbg := d } else foldS (s.dbg.descs.map (·.2)) emit { s with dbg := { d with descs := [] } }

/-- A fence releases the halt of a bay (R627). -/
def releaseHalt (bay : Nat) (s : State) : State :=
  if !halted s bay && !s.dbg.stepping.testBit bay then s
  else
    let s := if bay < 32 then wrf .DBG_HALTED_LO bay bay 0 0 (wrf .DBG_HALT_MASK_LO bay bay 0 0 s)
      else wrf .DBG_HALTED_HI (bay - 32) (bay - 32) 0 0 (wrf .DBG_HALT_MASK_HI (bay - 32) (bay - 32) 0 0 s)
    let left := setBits s.dbg.halting bay bay 0
    let step := setBits s.dbg.stepping bay bay 0
    let s := letGo (fun b => b == some bay || left == 0) { s with dbg.halting := left, dbg.stepping := step }
    logE { cls := 3, code := 0x0E, sev := 2, source := 2, kind := 8, index := bay, data := [0, 0, fgenOf s 8 bay],
           pt := (partOf? s 8 bay).getD 0xFF } (setEv .DBG_STAT 16 0 s)

/-! ### What a fence stops at once (R175, R184, R229, R425) -/

/-- A soak of a bay waits again, and its refreshes stop after the row step that is running (R175, R184). -/
def stopBayCal (bay : Nat) (s : State) : State :=
  let c := calOf s bay
  let s := if c.st = 2 ∨ c.st = 4 then
      clearSoak bay (modCal bay (fun c => { c with st := 1 }) { s with soakQ := s.soakQ ++ [bay] })
    else s
  foldS (s.progs.filter fun e => e.1 / 1024 == bay && e.2.kind == 1) (fun e s =>
    if rowRunning s e.1 then setProg e.1 { e.2 with stop := true } s else haltProg e.1 e.2 s) s

/-- The contexts of a partition. -/
def ctxsOf (s : State) (pt : Nat) : List Nat :=
  ((s.ctxs.map (·.1)) ++ (s.cmds.map fun e => e.2.ctx)).dedup.filter fun k => k / 32 == pt

/-- The reason that a notice of R425 gives for a fence reason: 1 reset, 2 update, 3 power. -/
def noticeOf (bit : Nat) : Option Nat := if bit = 1 then some 1 else if bit = 3 then some 2 else if bit = 2 then some 3 else none

/-- Requests for a tile are answered with FENCED. -/
def answerFenced (t : Nat) (rs : List PassReq) (s : State) : State := foldS rs (fun r => refuseReq t r 7 4 1 stFenced) s

/-- The operations whose row steps are among requests that were refused end. -/
def fenceRows (t : Nat) (rs : List PassReq) (s : State) : State :=
  foldS (rs.filter fun r => r.kind == 2) (fun r s => match progOf s (tlKey t r.layer) with
    | some o => whenS (o.order == r.vec) (fenceProg (tlKey t r.layer) o) s
    | none => s) s

/-- The requests that the bay routers hold for tiles of which `p` holds, and those that wait for a refresh, are answered with FENCED
(R90). -/
def answerHeld (p : Nat → Bool) (s : State) : State :=
  foldS (s.tiles.filter fun e => p e.1 && !(e.2.held.isEmpty && e.2.aside.isEmpty)) (fun e s =>
    fenceRows e.1 e.2.held (answerFenced e.1 (e.2.aside ++ e.2.held)
      (modTile e.1 (fun x => { x with held := [], aside := [] }) s))) s

/-- The effects of a fence at its placement. DESIGN CHOICE (log entry 13). -/
def onFence (kind index bit : Nat) (s : State) : State :=
  let s := foldS (baysOf s kind index) releaseHalt s
  let s := answerHeld (within s kind index 0) s
  let s := freeRoom (fun u => within s kind index (u / 2 ^ 16) (u % 2 ^ 16)) s
  let s := foldS (if kind = 6 ∨ kind = 8 ∨ kind = 10 then baysOf s kind index else []) spoilBay s
  let s := foldS (if kind = 5 ∨ kind = 8 ∨ kind = 10 then baysOf s kind index else []) stopBayCal s
  if kind = 10 then
    let ks := ctxsOf s index
    let s := foldS ks (fun k => stopLoad k stFenced 0) s
    match noticeOf bit with
    | some r => foldS ks (fun k => sendNotice k r) s
    | none => s
  else s

/-! ### Work that is dropped (R476, R482, R658) -/

/-- An image has work on a unit of which `p` holds. -/
def imgOn (s : State) (p : Nat → Nat → Bool) (i : Image) : Bool :=
  i.places.any (fun e => p 0 e.tile || p 9 (e.tile / 1536)) ||
  i.routes.any (fun r => p 1 r.cl || p 2 r.glzCl) || i.ctxs.any (fun c => p 3 c.cl) ||
  i.kv.layers.any (fun l => l.stripe.any (p 4)) ||
  (groupsOfPt s i.pt).any (fun g => p 12 g || p 13 g)

/-- An image has work in a bay that is halted. DESIGN CHOICE (log entry 77). -/
def haltedImg (s : State) (im : Nat) : Bool :=
  s.dbg.halting != 0 && imgOn s (fun k i => decide (k ≤ 8) && (baysOf s k i).any (halted s)) (imgOf s im)

/-- The work of a command is held in a halted bay: its completion timeout does not advance (R626). DESIGN CHOICE (log entry 77). -/
def heldByHalt (s : State) (c : Cmd) : Bool :=
  c.run && (match c.im with
    | some im => haltedImg s im
    | none => false)

/-- A unit waits on a halted bay: it serves a command whose work is held there (R626). DESIGN CHOICE (log entry 77). -/
def waitsOnHalt (s : State) (kind index : Nat) : Bool :=
  s.cmds.any fun e => heldByHalt s e.2 && imgOn s (fun k i => k == kind && i == index) (imgOf s (e.2.im.getD 0))

/-- Tiles lose their requests and passes; a row step that is running ends, and its operation with it (R482). -/
def dropTiles (p : Nat → Bool) (s : State) : State :=
  foldS (s.tiles.filter fun e => p e.1) (fun e s =>
    let t := e.1
    let row := e.2.running.any fun r => r.req.kind == 2
    let s := dropPending t (answerFenced t (e.2.pending.toList ++ e.2.aside ++ e.2.held) s)
    let s := modTile t (fun x => { x with held := [], aside := [], last := none, settled := true,
                                          running := if row then x.running else none }) s
    let s := whenS (!row) (returnToken t) s
    foldS (s.progs.filter fun o => o.1 / 4 == t) (fun o s =>
      if rowRunning s o.1 then setProg o.1 { o.2 with stop := true } s else haltProg o.1 o.2 s) s) s

/-- Accumulation passes of clusters go, and with them the codes that tiles still hold for them. -/
def dropAcc (p : Nat → Bool) (s : State) : State :=
  let ts := (s.tiles.filter fun e => p (clOfTile e.1) && e.2.last.isSome).map (·.1)
  foldS ts (fun t => modTile t (fun x => { x with last := none }))
    { s with acc := tdrop (fun k => p (k / 64)) s.acc, accLate := tdrop (fun k => p (k / 32)) s.accLate }

/-- Glaze slices lose their jobs, and the vectors of which their quantiser takes a row block. -/
def dropGlz (p : Nat → Bool) (s : State) : State :=
  let left := s.quant.map fun e => (e.1, e.2.filter fun v => !v.cls.any fun c => p c.2)
  { s with glz := tdrop p s.glz, quant := left.filter fun e => !e.2.isEmpty }

/-- The passes of images that have work on units of which `p` holds are over: what they have not delivered will not come. -/
def endPasses (p : Nat → Nat → Bool) (s : State) : State :=
  { s with passes := s.passes.map fun e =>
      let i := imgOf s e.2.im
      if imgOn s p i then
        (e.1, { e.2 with past := (i.routes.filter fun r => (sliceOf i r.slice).group == e.2.pg).map fun r => r.cl * 32 + r.part })
      else e }

/-- The cluster whose vector unit adds the parts of a column block (R130). -/
def HomeSum.home (s : State) (h : HomeSum) : Nat :=
  ((imgOf s h.im).routes.find? fun r => r.slice == h.slice && r.cb == h.cb && r.home).elim 384 (·.cl)

/-- The adapter ports and the home sums of vector units go (R130, R140). -/
def dropHome (p : Nat → Bool) (s : State) : State :=
  { s with homeSums := s.homeSums.filter fun h => !p (h.home s),
           adapters := s.adapters.map fun e =>
             if p (adpOf (imgOf s (e.1 / 2 ^ 16)) (e.1 % 2 ^ 16)).red then (e.1, { e.2 with us := [], qs := [] }) else e }

/-- A context of a vector unit at its entry (R266, R271). -/
def reenter (n : Nat) (c : VCtx) : VCtx :=
  { im := c.im, state := 1, pc := c.base + c.entry, next := c.base + c.entry,
    x := (if c.idx = 0 then [] else [(1, c.idx)]) ++ (if n = 0 then [] else [(2, n)]),
    slotBase := c.slotBase, slotCount := c.slotCount, base := c.base, len := c.len, entry := c.entry, idx := c.idx }

/-- The vector units of clusters: contexts at their entry, slots that are not PERSIST empty, held arrivals refused, requests
abandoned (R271). -/
def dropVec (p : Nat → Bool) (s : State) : State :=
  let held := s.vheld.filter fun e => p e.1
  let s := { s with
    vheld := tdrop p s.vheld,
    vctx := s.vctx.map fun e => if p (e.1 / 4096) && e.2.state != 0 then (e.1, reenter (e.1 % 4096) e.2) else e,
    vslots := s.vslots.map fun e =>
      if p (e.1 / 32768) && !e.2.persist then (e.1, { e.2 with present := false, written := [] }) else e,
    vready := tdrop p s.vready }
  let s := foldS held (fun e => foldS (e.2.filter fun r => !(r.src matches .fetch _ _ _ _)) (answerRefused e.1 stFenced)) s
  foldS ((List.range 384).filter fun cl => p cl && s.vctx.any fun e => e.1 / 4096 == cl) noteReady s

/-- The units of which `p` holds drop the work they hold: requests are answered with FENCED, their own abandoned, and the
steps that need them end. DESIGN CHOICE (log entry 61). -/
def dropWork (p : Nat → Nat → Bool) (status : Nat) (s : State) : State :=
  let s := spoilLost p (failSteps (fun im => imgOn s p (imgOf s im)) status s)
  let s := dropTiles (p 0) s
  let s := dropAcc (p 1) s
  let s := dropGlz (p 2) (endPasses p s)
  let s := dropHome (p 3) (dropVec (p 3) s)
  let s := freeRoom (fun u => p (u / 2 ^ 16) (u % 2 ^ 16)) s
  let s := foldS (s.pins.filter fun e => decide (e.2 < 0x40) && p 4 e.2) (fun e => unpin e.1 e.2) s
  let s := foldS ((List.range 48).filter (p 5)) stopBayCal s
  let s := { s with samples := tdrop (p 6) s.samples }
  let s := answerHeld (fun t => p 7 (t / 256)) s
  foldS (s.units.filter fun e => p (e.1 / 2 ^ 16) (e.1 % 2 ^ 16)) (fun e => closeAll (e.1 / 2 ^ 16) (e.1 % 2 ^ 16)) s

/-! ### Engine resets (R482, R658) -/

/-- All instances of registers of which `q` holds return to their reset values. -/
def clearRegs (rs : List Reg) (q : Nat → Bool) (s : State) : State :=
  let ks := rs.map fun r => r.ctorIdx
  { s with regs := tdrop (fun k => ks.contains (k / 2 ^ 20) && q (k % 2 ^ 20)) s.regs }

/-- The registers that report the activity of a tile, an accumulation unit, a glaze slice, a vector unit (R658). -/
def tileActivity : List Reg :=
  [.TILE_STAT, .TILE_SAT_LAST, .TILE_PASS_CNT_LO, .TILE_PASS_CNT_HI, .TILE_TPASS_CNT, .TILE_SAT_CNT]
def accActivity : List Reg := [.ACC_STAT, .ACC_LAST_ERR, .ACC_WAIT_CNT]
def glzActivity : List Reg := [.GLZ_SL_STAT, .GLZ_SL_MAC_CNT_LO, .GLZ_SL_MAC_CNT_HI, .GLZ_SL_SEL_CNT]
def vecActivity : List Reg := [.VEC_STAT, .VEC_LAST_FAULT, .VEC_LAST_FAULT_PC, .VEC_BEAT_CNT_LO, .VEC_BEAT_CNT_HI]

/-- The key of a buffered write belongs to a unit of which `p` holds. -/
def rwbOf (p : Nat → Nat → Bool) (key : Nat) : Bool :=
  let r := key / 2 ^ 20
  let i := key % 2 ^ 20
  (r == Reg.TILE_LCFG.ctorIdx && p 0 (i / 4)) || (r == Reg.VEC_CTRL.ctorIdx && p 3 i) ||
  (r == Reg.GLZ_SL_CFG.ctorIdx && p 2 i)

/-- Blocks that `gone` names for a strobe do not apply it any longer, and writes of which `keyGone` holds are discarded; a strobe that
waits for no other block is accepted (R452, R453). -/
def dropStrobes (keyGone : Nat → Bool) (gone : Strobe → Nat → Bool) (s : State) : State :=
  let cut := s.strobes.map fun x =>
    { x with blocks := x.blocks.filter fun b => !gone x b, writes := x.writes.filter fun e => !keyGone e.1 }
  let fin := cut.filter fun x => x.blocks.isEmpty
  let left := cut.filter fun x => !x.blocks.isEmpty
  bump .HUB_UPD_CNT fin.length 0 { s with strobes := left }

/-- Buffered writes of reset units are discarded (R453). -/
def dropRwb (p : Nat → Nat → Bool) (s : State) : State :=
  let s := dropBuffered (rwbOf p) s
  dropStrobes (rwbOf p) (fun x b => p 3 b && x.writes.all fun e => rwbBlock e.1 != b || rwbOf p e.1) s

/-- The tiles of which `p` holds whose LOCK of TILE_CFG is 1. -/
def lockedTiles (s : State) (p : Nat → Bool) : List Nat :=
  ((s.regs.filter fun e => e.1 / 2 ^ 20 == Reg.TILE_CFG.ctorIdx && p (e.1 % 2 ^ 20)).map (·.1 % 2 ^ 20)).filter (rb s .TILE_CFG 31 ·)

/-- LOCK of TILE_CFG of tiles is cleared (R482), or set again (R658). -/
def putLocks (b : Nat) (ts : List Nat) (s : State) : State := foldS ts (fun t => wrf .TILE_CFG 31 31 b t) s

/-- What an engine reset does to the units of which `p` holds. -/
def resetUnits (p : Nat → Nat → Bool) (status : Nat) (s : State) : State :=
  let s := dropWork p status s
  let s := clearRegs tileActivity (p 0) s
  let s := clearRegs [.TILE_SAT] (fun i => p 0 (i / 32)) s
  let s := clearRegs accActivity (p 1) s
  let s := clearRegs glzActivity (p 2) s
  let s := clearRegs vecActivity (p 3) s
  dropRwb p (putLocks 0 (lockedTiles s (p 0)) s)

/-! ### Failed units (R230, R485) -/

/-- A unit is isolated and marked FAILED; Silset records the mark in flash. DESIGN CHOICE (log entry 24). -/
def markFailed (kind index cause : Nat) (s : State) : State :=
  let s := modUnit kind index (fun u =>
    { u with reasons := setBits (setBits u.reasons 1 1 0) 7 7 1, isolated := true, inReset := false, draining := false, hung := false }) s
  let s := askFlash .stateStore (setEv .RST_STAT 1 0 s)
  let s := whenS (kind == 0) (setTileState index 3) s
  rstLog 3 3 kind index 1 cause [] s

/-- An active or staged image uses the unit. -/
def unitUsed (s : State) (kind index : Nat) : Bool :=
  s.ctxs.any fun e => (e.2.active.toList ++ e.2.staged.toList).any fun im =>
    let i := imgOf s im
    imgOn s (within s kind index) i ||
    (decide (4 ≤ kind ∧ kind ≤ 7) && i.places.any fun p => p.tile / 256 == index)

/-! ### Crossings (R479) -/

/-- The crossings into a partition. DEDUCED (log entry 62). -/
def xingsOf (s : State) (pt : Nat) : List Nat :=
  let ds := diesOfPt s pt
  let gs := groupsOfPt s pt
  (ds.map (xKey 0) ++ ((List.range 8).filter fun i => ds.contains i || ds.contains ((i + 1) % 8)).map (xKey 1) ++
    gs.map (xKey 2) ++ gs.map (xKey 3)).filter (xingLive s)

/-- The requests of thread contexts outside a fence that are open across a crossing: cluster and context, whether it is a VFETCH, and the
request. -/
def xingReqs (s : State) (k : Nat) : List ((Nat × Nat) × Bool × VReq) :=
  s.vctx.flatMap fun e =>
    let cl := e.1 / 4096
    let across := fun (r : VReq) => (wayTo s (cl / 48) (placeOf r.addr)).contains k
    if fenced s 3 cl || inReset s 3 cl then []
    else (e.2.fetches.filter across).map (fun r => ((cl, e.1 % 4096), true, r)) ++
      (e.2.sends.filter across).map fun r => ((cl, e.1 % 4096), false, r)

/-- The survivor of a crossing flushes it: every request that is still open across it is answered with XRESET, which is a refusal with
FENCED (R479, R480). -/
def flushXing (k : Nat) (s : State) : State :=
  foldS (xingReqs s k) (fun x s => xreset ((if x.2.1 then failFetch else failSend) x.1.1 x.1.2 x.2.2 s)) s

/-- A side of a crossing is reset: the survivor flushes, the epoch advances, and nothing crosses until it has been handshaken (R479).
DEDUCED (log entry 62). -/
def closeXing (k : Nat) (s : State) : State :=
  modXing k (fun x => { epoch := (x.epoch + 1) % 2 ^ 32, closed := true, offered := none }) (flushXing k s)

/-- The crossings that a unit is a side of: the hub bridge, the ring bridges and the buffer-die bridges of a die network, the bridge of
a buffer-die half, the port of a channel group (R31, R278, R475). DEDUCED (log entry 62). -/
def unitXings (s : State) (kind index : Nat) : List Nat :=
  (if kind = 9 then [xKey 0 index, xKey 1 index, xKey 1 ((index + 7) % 8)] ++
      ((List.range 8).filter fun h => viaDie s h == index).map (xKey 2)
    else if kind = 12 then [xKey 2 index]
    else if kind = 13 then [xKey 3 index]
    else []).filter (xingLive s)

/-- A unit is held in reset: the crossings it is a side of are closed (R479, R483). -/
def holdReset (kind index : Nat) (s : State) : State :=
  modUnit kind index (fun u => { u with inReset := true }) (foldS (unitXings s kind index) closeXing s)

/-! ### A partition emptied (R482, R483) -/

/-- The state of a partition's reset. -/
def modPart (pt : Nat) (f : Part → Part) (s : State) : State := { s with parts := tmod {} s.parts pt f }

/-- The contexts of a partition end, with all that they hold. -/
def clearCtxs (pt : Nat) (s : State) : State :=
  let ks := ctxsOf s pt
  let s := { s with jobs := tdrop (fun k => k / 32 == pt) s.jobs, serving := tdrop (fun k => k / 32 == pt) s.serving,
                    fetches := tdrop (fun k => k / 32 == pt) s.fetches }
  let s := foldS (ks.flatMap fun k => (cxOf s k).images.map fun im => (k, im)) (fun e s => dropImage none e.1 e.2 (dropSeqsOf e.2 s)) s
  let s := foldS ((s.seqs.filter fun e => e.2.used && e.2.ctx / 32 == pt).map (·.1)) freeSeqIdx s
  let s := { s with ctxs := tdrop (fun k => k / 32 == pt) s.ctxs, remaps := s.remaps.filter fun r => r.ctx / 32 != pt }
  qpErrors (fun q => q.ctx / 32 == pt) s

/-- SRAM and HBM of a partition read as zero with valid check bits. Its contexts have ended, and their shadows were freed with them;
one that a tile-layer still had there is LOST (R296). -/
def clearMemory (pt : Nat) (s : State) : State :=
  let mine := fun (a : Nat) => ptOfPlace s (placeOf a) == some pt
  let s := { s with mem := tdrop mine s.mem, poison := tdrop mine s.poison, corrected := tdrop mine s.corrected,
                    lost := s.lost.filter fun r => !mine r.1, pins := s.pins.filter fun e => !mine e.1,
                    releasing := s.releasing.filter fun f => !mine f.addr, descs := s.descs.filter fun e => !mine e.2.addr }
  let s := loseShadows mine s
  foldS (groupsOfPt s pt) (fun g => foldS (List.range 8) fun c s =>
    { s with hbm := tmod {} s.hbm (g * 8 + c) fun x => { x with state := 1 } }) s

/-- A register instance lies in the window of a die of which `p` holds (R18). -/
def dieReg (p : Nat → Bool) (key : Nat) : Bool :=
  let i := key % 2 ^ 20
  match (allRegs.find? fun r => r.ctorIdx == key / 2 ^ 20).map fun r => (r, r.desc.win) with
  | some (.TILE_LCFG, _) => p (i / 4 / 1536)
  | some (.TILE_SAT, _) => p (i / 32 / 1536)
  | some (_, .tile) => p (i / 1536)
  | some (_, .cluster) => p (i / 48)
  | _ => false

/-- The logic of dies is as after power-on: registers, calibration stores, programs and contexts are cleared; a tile marked
FAILED shows it. -/
def clearDies (p : Nat → Bool) (s : State) : State :=
  let tl := fun (k : Nat) => p (k / 6144)
  let cl := fun (k : Nat) => p (k / 48)
  let bay := fun (k : Nat) => p (k / 6)
  let fail := (s.units.filter fun e => decide (e.1 < 2 ^ 16) && e.2.reasons.testBit 7 && p (e.1 / 1536)).map (·.1)
  let s := { s with
    regs := tdrop (dieReg p) s.regs, rwb := tdrop (dieReg p) s.rwb,
    tiles := tdrop (fun t => p (t / 1536)) s.tiles, pools := tdrop p s.pools,
    tlayers := s.tlayers.map fun (e : Nat × TLayer) =>
      if tl e.1 then (e.1, { e.2 with cal := [], old := [], rampN := 256, rampT := 256, kappa := 0x8000, calAt := 0 }) else e,
    acc := tdrop (fun k => cl (k / 64)) s.acc, accLate := tdrop (fun k => cl (k / 32)) s.accLate,
    vctx := tdrop (fun k => cl (k / 4096)) s.vctx, vslots := tdrop (fun k => cl (k / 32768)) s.vslots,
    poisonX := tdrop (fun k => cl (clOfWord k)) s.poisonX, vheld := tdrop cl s.vheld, vready := tdrop cl s.vready, vstore := tdrop (fun k => cl (k / 16384)) s.vstore,
    samples := tdrop bay s.samples, cal := tdrop bay s.cal, soakQ := s.soakQ.filter fun b => !bay b,
    progs := tdrop tl s.progs, probes := tdrop (fun k => p (k / 1024 / 1536)) s.probes,
    findings := s.findings.filter fun f => !(if f.chain then cl f.unit else tl f.unit) }
  let s := { s with regs := tdrop (fun k => k / 2 ^ 20 == Reg.CAL_BAY_CNT.ctorIdx && bay (k % 2 ^ 20)) s.regs }
  showBisque (foldS fail (fun t => setTileState t 3) (dropGlz cl s))

/-- Steps 3 to 5 of a partition reset, once it has drained: the crossings flush and take new epochs, the partition is
emptied and held in reset. -/
def ptClear (pt : Nat) (s : State) : State :=
  let s := foldS (xingsOf s pt) closeXing s
  let s := clearMemory pt (clearCtxs pt s)
  let p := fun d => (diesOfPt s pt).contains d
  let s := dropStrobes (fun k => dieReg p k) (fun _ b => decide (b < 384) && p (b / 48)) s
  let s := dropBuffered (dieReg p) s
  let s := clearDies p s
  modUnit 10 pt (fun u => { u with inReset := true }) (modPart pt (fun x => { x with step := 4 }) s)

/-! ### Power of a partition (R572 to R574, R649) -/

/-- A partition is to be powered: the host has not requested it off, and the rails of its dies are sound. -/
def ptWant (s : State) (pt : Nat) : Bool :=
  !rb s .PWR_PT_REQ pt && !(diesOfPt s pt).any fun d => s.board.rails.contains d || s.board.rails.contains (9 + d)

/-- The state that a partition's switching is bound for; a change of the request waits for its end. -/
def ptOn (s : State) (pt : Nat) : Bool :=
  match tget 0 s.ptPower pt with
  | 1 => false
  | 2 => true
  | _ => ptWant s pt

/-- The state a power domain is to reach (R572). -/
def pdWant (s : State) (n : Nat) : Bool :=
  if n < 8 then dieOn s n && ptOn s (ptOfDie s n)
  else if n < 16 then dieOn s (n - 8) && ptOn s (ptOfDie s (n - 8))
  else if n < 20 then ptOn s (ptOfGroup s (2 * (n - 16))) || ptOn s (ptOfGroup s (2 * (n - 16) + 1))
  else if n = 20 then rb s .CLK_GATE 0 || rb s .CLK_GATE 1
  else true

/-- A power domain of a partition's switching sequence begins to switch. -/
def pdSwitch (n : Nat) (s : State) : State := { s with pd := tset 0 s.pd n 2 }

/-- Domains of a list that stand at `old` begin to switch. -/
def pdSwitchAll (ns : List Nat) (old : Nat) (s : State) : State :=
  foldS (ns.filter fun n => tget 0 s.pd n == old && pdWant s n == (old == 0)) pdSwitch s

/-- Some domain of a list is switching, or has not left `old` although it is to. -/
def pdBusy (s : State) (ns : List Nat) (old : Nat) : Bool :=
  ns.any fun n => tget 0 s.pd n == 2 || (tget 0 s.pd n == old && pdWant s n == (old == 0))

/-- The analogue, digital and buffer-die domains of a partition. -/
def pdAna (s : State) (pt : Nat) : List Nat := diesOfPt s pt
def pdDig (s : State) (pt : Nat) : List Nat := (diesOfPt s pt).map (8 + ·)
def pdBuf (s : State) (pt : Nat) : List Nat := ((groupsOfPt s pt).map fun g => 16 + g / 2).dedup

/-- The partition's switching of power takes its next step: down analogue, digital, buffer dies (R573); up buffer dies, digital,
analogue, and then steps 4 to 9 of a partition reset (R574).  A change of the request that came meanwhile is acted on at the
end. DESIGN CHOICE (log entry 72). -/
def pdAdvance (pt : Nat) (s : State) : State :=
  let a := pdAna s pt
  let d := pdDig s pt
  let b := pdBuf s pt
  let up := fun (s : State) =>
    if pdBusy s b 0 then pdSwitchAll b 0 s
    else if pdBusy s d 0 then pdSwitchAll d 0 s
    else if pdBusy s a 0 then pdSwitchAll a 0 s
    else modPart pt (fun x => { x with resetting := true, escalated := false, startedAt := s.now, cause := 0, step := 4 }) s
  match tget 0 s.ptPower pt with
  | 1 =>
    if pdBusy s a 1 then pdSwitchAll a 1 s
    else if pdBusy s d 1 then pdSwitchAll d 1 (whenS (d.any fun n => pdOn s n) (ptClear pt) s)
    else if pdBusy s b 1 then pdSwitchAll b 1 s
    else if ptWant s pt then up { s with ptPower := tset 0 s.ptPower pt 2 }
    else s
  | 2 => up s
  | _ => s

end Sys2Proof.Machine
end

