-- ==== Sys2Proof/Machine/Fence.lean ====
section
/-! DEFINITION. Saggar fences and their reasons, drains, engine resets, Function Level Resets (R476 to R478, R481 to R485,
R488, R461, R462). -/

namespace Sys2Proof.Machine

open Sys2Proof

/-! ### Fences placed and removed (R476 to R478) -/

/-- A reset of a unit that contains this one, of its partition or of the package covers it (R484). DESIGN CHOICE (log entry 60). -/
def largerReset (s : State) (kind index : Nat) : Bool :=
  s.pkg.warmRunning || s.pkg.coldRunning || (containers s kind index).any fun c => (unitOf s c.1 c.2).reasons.testBit 1

/-- A drained unit with the reason RESET is held in reset, a partition also emptied. -/
def enterReset (kind index : Nat) (s : State) : State :=
  if !(unitOf s kind index).reasons.testBit 1 then s
  else if kind = 10 then whenS (tget {} s.parts index).resetting (ptClear index) s
  else holdReset kind index s

/-- The work that a partition's commands still have when its drain ends is abandoned: they complete with FENCED (R483).
DESIGN CHOICE (log entry 58). -/
def endPtCmds (pt : Nat) (s : State) : State :=
  foldS ((s.cmds.filter fun e => e.2.ctx / 32 == pt).map (·.1)) (fun h s =>
    match cmdOf s h with
    | none => s
    | some c => match loadOf s c.ctx with
      | some l => if l.h = h then endLoad c.ctx l stFenced 0 s else cancelCmd h stFenced s
      | none => cancelCmd h stFenced s) s

/-- A reason is added to a unit's fence; the first one places the fence and advances FGEN. DESIGN CHOICE (log entry 23). -/
def placeReason (kind index bit : Nat) (s : State) : State :=
  let u := unitOf s kind index
  if u.reasons.testBit bit then s
  else
    let s := modUnit kind index (fun u => { u with reasons := setBits u.reasons bit bit 1,
                                                   fencedAt := if bit = 1 ∨ !u.fence then s.now else u.fencedAt }) s
    if u.fence then (if u.draining then s else enterReset kind index s)
    else
      onFence kind index bit (modUnit kind index (fun u =>
        { u with fgen := (u.fgen + 1) % 2 ^ 16, draining := true, expired := false }) s)

/-- A partition's domains are to be switched off: the fence with reason POWER, the drain, then the domains (R573, R649). -/
def powerDown (pt : Nat) (s : State) : State :=
  let drained := (unitOf s 10 pt).fence && !(unitOf s 10 pt).draining
  let s := placeReason 10 pt 2 { s with ptPower := tset 0 s.ptPower pt 1 }
  whenS drained (pdAdvance pt) s

/-- The engine reset that a unit receives whose drain window expired, before its fence is lifted (R476). -/
def resetLift (u : Nat × Nat) (s : State) : State :=
  holdReset u.1 u.2 (modUnit u.1 u.2 (fun x => { x with reasons := setBits x.reasons 1 1 1, fencedAt := s.now, cause := 0 }) s)

/-- The units of a partition that such resets cover: its bays, die networks, buffer-die halves and channel groups.
DESIGN CHOICE (log entry 58). -/
def ptUnits (s : State) (pt : Nat) : List (Nat × Nat) :=
  ((baysOf s 10 pt).map fun b => (8, b)) ++ ((diesOfPt s pt).map fun d => (9, d)) ++
    (groupsOfPt s pt).flatMap fun g => [(12, g), (13, g)]

/-- A fence whose last reason has been removed is lifted once its drain has ended; a unit whose drain window expired is first given an
engine reset, a partition one of each of its units (R476, R478). -/
def liftFence (kind index : Nat) (s : State) : State :=
  let u := unitOf s kind index
  if u.fence || !u.expired || kind = 11 then s
  else if kind = 10 then
    foldS ((ptUnits s index).filter fun x => !(unitOf s x.1 x.2).reasons.testBit 7) resetLift
      (modUnit 10 index (fun u => { u with reasons := 2 }) s)
  else resetLift (kind, index) s

/-- A reason is removed; it never shortens a drain that is running (R478). -/
def removeReason (kind index bit : Nat) (s : State) : State :=
  if !(unitOf s kind index).reasons.testBit bit then s
  else liftFence kind index (modUnit kind index (fun u => { u with reasons := setBits u.reasons bit bit 0 }) s)

/-- The drain of a unit has ended. DESIGN CHOICE (log entry 58). -/
def onDrained (kind index : Nat) (s : State) : State :=
  let s := modUnit kind index (fun u => { u with draining := false }) s
  let s := enterReset kind index (whenS (kind == 10) (endPtCmds index) s)
  liftFence kind index (whenS (kind == 10) (pdAdvance index) s)

/-- The fence of a partition that waited for engine resets of its units is lifted once none of them is left. -/
def liftPt (kind index : Nat) (s : State) : State :=
  match partOf? s kind index with
  | none => s
  | some p =>
    let u := unitOf s 10 p
    if !u.reasons.testBit 1 || (tget {} s.parts p).resetting || (ptUnits s p).any (fun x => (unitOf s x.1 x.2).inReset) then s
    else modUnit 10 p (fun u => { u with reasons := setBits u.reasons 1 1 0, expired := false }) s

/-- An attention engine has admitted query data that it has not scored. -/
def queryOpen (s : State) (bay : Nat) : Bool :=
  s.binds.any fun e => e.2.units.any fun u =>
    let st := (kvLayer (kvOf s (seqOf s e.2.seq).im) (u.1 / 2 ^ 16)).stripe
    let rank := st.findIdx (· == bay)
    decide (rank < st.length) && !u.2.codes.isEmpty && u.2.scale != 0 && !u.2.scored.contains rank

/-- The admitted requests of which the model holds a record have been answered: passes and steps of tiles, queries of engines. -/
def quiet (s : State) (kind index : Nat) : Bool :=
  !(s.tiles.any fun e => within s kind index 0 e.1 && (e.2.pending.isSome || e.2.running.isSome)) &&
    !(baysOf s kind index).any fun b => within s kind index 4 b && queryOpen s b

/-- A flit of another epoch than that of the crossing, or one that comes before the new epoch has been handshaken (R479). -/
def staleFlit (s : State) (k epoch : Nat) : Bool := (xOf s k).closed || epoch % 16 != (xOf s k).epoch % 16

/-- A crossing whose survivor had no notice of a reset is flushed and waits for the offer (R479). -/
def dropLink (k : Nat) (s : State) : State :=
  if (xOf s k).closed then s else modXing k (fun x => { x with closed := true, offered := none }) (flushXing k s)

/-- A flit of another epoch than that of the crossing: discarded and counted, and a survivor that had no notice flushes at once and
waits for the offer. DEDUCED (log entry 62). -/
def wrongEpoch (k epoch : Nat) (s : State) : State :=
  if epoch % 16 = (xOf s k).epoch % 16 then s else xreset (dropLink k s)

/-- DRAIN_COMPLETE (R476). DESIGN CHOICE (log entry 58). -/
def execDrainComplete (kind index : Nat) (s : State) : Out :=
  done (if (unitOf s kind index).draining && quiet s kind index then onDrained kind index s else s)

/-- DRAIN_WINDOW_EXPIRY (R476): the isolation cells answer what is open and abandon what the unit has open elsewhere.
DESIGN CHOICE (log entries 58, 86). -/
def execDrainWindowExpiry (kind index : Nat) (s : State) : Out :=
  done <|
    if !(unitOf s kind index).draining then s
    else
      let s := rstLog 9 2 kind index 0 0 [] (setEv .RST_STAT 8 0 s)
      let s := modUnit kind index (fun u => { u with expired := true }) (dropWork (within s kind index) stFenced s)
      onDrained kind index s

/-- TAGGED_REPLY (R477, R479): accepted only where all three parts of its tag match an open slot; one to a vector unit answers the
VFETCH, send or store of that slot. A reply that comes through a crossing, `way` naming it with the epoch bits of its flits, is
discarded where the crossing is closed or has another epoch. DESIGN CHOICE (log entry 23). -/
def execTaggedReply (kind index slot gen fgen : Nat) (way : Option (Nat × Nat)) (s : State) : Out :=
  done <|
    match way.filter fun w => staleFlit s w.1 w.2 with
    | some w => if w.2 % 16 = (xOf s w.1).epoch % 16 then xreset s else wrongEpoch w.1 w.2 s
    | none =>
      if !tagOk s kind index slot gen fgen then lateDrop kind index slot s
      else if kind = 3 then match fetchOf s index (slot / 32) (slot % 32) with
        | some f => takeFetch (.taggedReply kind index slot gen fgen way) (boundary 86 (index * 2 ^ 20 + slot / 32 * 128 + f.slot)) index
            (slot / 32) false f s
        | none => noteReady index (endReq index (slot / 32) (slot % 32) s)
      else closeReq kind index slot s

/-! ### Engine resets: start, end, bound (R481 to R485) -/

/-- A reset request is dropped and logged (R484). -/
def dropRequest (kind index : Nat) (s : State) : State := rstLog 0x0D 2 kind index 0 0 [] s

/-- An engine reset starts: it merges with one that runs, and is dropped inside a larger one. DESIGN CHOICE (log entry 60). -/
def startEngineReset (kind index cause : Nat) (s : State) : State :=
  let u := unitOf s kind index
  if largerReset s kind index then dropRequest kind index s
  else if u.reasons.testBit 1 || u.inReset then s
  else
    let s := modUnit kind index (fun u => { u with cause := cause }) s
    placeReason kind index 1 (setLast 1 cause kind index ((partOf? s kind index).getD 0) s)

/-- The index of the instruction behind issued work of a context (R252): for work 31 the instruction in flight, else the VFETCH, send or
store of that request number; a send whose arrival is held under R244 is no hung work on its own account. -/
def workPc (s : State) (cl n k : Nat) : Option Nat :=
  let c := vctxOf s cl n
  if k = 31 then (if c.state = 3 then some c.pc else none)
  else if s.vheld.any fun e => e.2.any fun r => r.src == .vec cl n k then none
  else ((c.fetches ++ c.sends).find? fun r => r.rq == k).map (·.pc)

/-- The hung work that a report names: context and index of the instruction. -/
def hungWork (s : State) (cl : Nat) (work : List (Nat × Nat)) : List (Nat × Nat) :=
  work.filterMap fun w => (workPc s cl w.1 w.2).map fun pc => (w.1, pc)

/-- STALL_MONITOR_HANG (R481, R626, R629): not reported of halted bays or of units that wait on them, nor of a vector unit of which the
report names no issued work (R252); the contexts of that work fault with HANG, each with the index of its instruction and in the order
of the report (R270); a report made while Silset does not run starts its reset when Silset resumes. DESIGN CHOICE (log entry 111). -/
def execStallMonitorHang (kind index : Nat) (work : List (Nat × Nat)) (s : State) : Out :=
  done <|
    let hung := hungWork s index work
    if !unitExists s kind index || kind == 10 || kind == 11 || (baysOf s kind index).any (halted s) ||
        waitsOnHalt s kind index || (unitOf s kind index).isolated || (kind == 3 && hung.isEmpty) then s
    else
      let s := rstLog 1 3 kind index 1 2 [] (bump .RST_HANG_CNT 1 0 (setEv .RST_STAT 5 0 s))
      let s := modUnit kind index (fun u => { u with hung := true }) s
      let s := whenS (kind == 3) (fun s => foldS hung (fun e => ctxFault index e.1 fHang e.2) s) s
      whenS (silUp s) (startEngineReset kind index 2) s

/-- COMPLETION_TIMEOUT (R360): a command has made no progress for TIMEOUT_MS, its waits under R359, for a registration and
for ring space apart, and what a halted bay holds (R626). DESIGN CHOICE (log entry 48). -/
def execCompletionTimeout (h : Nat) (s : State) : Out :=
  done <| match cmdOf s h with
    | none => s
    | some c =>
      if (!c.run && (!mayStart s c || waitsRole s c)) || ((genOf s h).map (·.waits)).getD false || heldByHalt s c then s
      else
        let s := wrf .QM_STAT 13 8 c.q c.fn (setEv .QM_STAT 4 c.fn s)
        cancelCmd h 6 (srvLog 5 3 c.fn c.q (handleOf c.gen h) [c.op, 6, 0] s)

/-- A partition reset starts (R483, R484): the fence is placed, and what contains a running reset takes it over. -/
def startPtReset (pt cause kind index : Nat) (escalated : Bool) (s : State) : State :=
  if s.pkg.warmRunning || s.pkg.coldRunning then dropRequest 10 pt s
  else if (tget {} s.parts pt).resetting then s
  else
    let s := modPart pt (fun p => { p with resetting := true, escalated := escalated, startedAt := s.now, cause := cause, step := 1 }) s
    let s := whenS escalated (rstLog 6 4 kind index 2 cause []) (whenS escalated (setEv .RST_STAT 3 0) s)
    let s := rstLog 4 3 10 pt 2 cause [kind, index] (setLast 2 cause kind index pt s)
    placeReason 10 pt 1 (modUnit 10 pt (fun u => { u with reasons := setBits u.reasons 1 1 0 }) s)

/-- Steps 3 to 5 of R485: remap, stay FAILED, or escalate. -/
def afterFailed (kind index cause : Nat) (s : State) : State :=
  if kind = 0 && (remapTo s index).isSome then startRemap index s
  else if !unitUsed s kind index then s
  else match partOf? s kind index with
    | none => s
    | some p =>
      if rb s .RST_CTRL 8 then startPtReset p cause kind index true s else placeReason 10 p 7 s

/-- FENCE_PLACE (R476, R478, R271): Silset places a fence with a reason of its own: RESET, which begins the reset of the unit,
POWER, UPDATE, THERMAL or LINK. -/
def execFencePlace (kind index reason : Nat) (s : State) : Out :=
  done <|
    if !unitExists s kind index || !silUp s then s
    else if reason != 1 then placeReason kind index reason s
    else if kind = 10 then startPtReset index 0 10 index false s
    else if kind = 11 then s
    else
      let faulted := kind == 3 && s.vctx.any fun e => e.1 / 4096 == index && e.2.state == 5
      startEngineReset kind index (if faulted then 6 else 0) s

/-- A failed engine reset ends under R485. -/
def engineFailed (kind index cause : Nat) (s : State) : State :=
  let s := dropWork (within s kind index) stFenced s
  liftPt kind index (afterFailed kind index cause (markFailed kind index cause s))

/-- Samples armed ahead of the round robin in a bay. DESIGN CHOICE (log entry 67). -/
def armAhead (tl group n : Nat) (s : State) : State :=
  let x : Sample := { tl := tl, group := group, armedAt := s.now, forced := true }
  { s with samples := tmod [] s.samples (tl / 1024) fun l => List.replicate n x ++ l }

/-- Findings whose chain check waits for the reset of an accumulation unit go on to their check: its next four sampled parts,
for which captures are armed on the cluster's first VALID tile-layer (R511). DESIGN CHOICE (log entry 67). -/
def chainAfter (p : Nat → Nat → Bool) (s : State) : State :=
  let cs := (s.findings.filter fun f => f.chain && f.step == 5 && p 1 f.unit).map (·.unit)
  let s := { s with findings := s.findings.map fun f =>
    if f.chain && f.step == 5 && p 1 f.unit then { f with step := 6, left := 4, bad := false } else f }
  foldS cs (fun c s =>
    match ((List.range 128).map (c * 128 + ·)).find? fun tl => tlValid s (tl / 4) (tl % 4) with
    | some tl => armAhead tl 0 4 s
    | none => s) s

/-- The check samples that a reset checker has lost are armed again. -/
def rearmChecks (p : Nat → Nat → Bool) (s : State) : State :=
  foldS (s.findings.filter fun f => !f.chain && (f.step == 1 || f.step == 3) && p 6 (f.unit / 1024)) (fun f =>
    armAhead f.unit f.group f.left) s

/-- Reasons and states that the end of a reset of `p`'s units removes: RESET, POWER where the unit is powered and, where links are
retrained, LINK (R478). -/
def endUnits (links : Bool) (p : Nat → Nat → Bool) (s : State) : State :=
  { s with units := (s.units.map fun e =>
      if p (e.1 / 2 ^ 16) (e.1 % 2 ^ 16) then
        let r := setBits e.2.reasons 1 1 0
        let r := if unitPowered s (e.1 / 2 ^ 16) (e.1 % 2 ^ 16) then setBits r 2 2 0 else r
        (e.1, { e.2 with reasons := if links then setBits r 6 6 0 else r, inReset := false, hung := false,
                         ended := none, draining := false, expired := false })
      else e).filter fun e => e.2 != {} }

/-- A reset of a larger level has taken over that of a unit, which it ends with its own: of its bay, of its partition or of the
package (R484). DESIGN CHOICE (log entry 60). -/
def takenOver (s : State) (kind index : Nat) : Bool :=
  s.pkg.warmRunning || s.pkg.coldRunning || (containers s kind index).any fun c =>
    (unitOf s c.1 c.2).reasons.testBit 1 && (c.1 != 10 || (tget {} s.parts c.2).resetting)

/-- An engine reset completes (R483, R485, R658), by `t`: it fails beyond 10 ms, or as the third within 10 s; LOCK of its tiles, which
it clears, is set again as it ends. DESIGN CHOICE (log entry 60). -/
def endReset (kind index t : Nat) (s : State) : State :=
  let u := unitOf s kind index
  let p := within s kind index
  if !u.inReset || takenOver s kind index then s
  else if u.fencedAt + 10000000 < t then engineFailed kind index 3 s
  else
    let locked := lockedTiles s (p 0)
    let s := resetUnits p (if u.cause = 6 then stExec else stFenced) s
    let recent := (s.now :: u.resets).filter fun t => decide (s.now ≤ t + 10000000000)
    let s := bump .RST_ENG_CNT 1 0 (setEv .RST_STAT 0 0 s)
    let s := rstLog 2 1 kind index 1 u.cause [] s
    if 3 ≤ recent.length then engineFailed kind index 4 (modUnit kind index (fun u => { u with resets := [] }) s)
    else
      let s := modUnit kind index (fun u => { u with resets := recent }) (endUnits false p s)
      rearmChecks p (chainAfter p (liftPt kind index (putLocks 1 locked s)))

/-- The end of an engine reset, once the epochs of its crossings have been handshaken (R483), which waits for Silset where that does not
run: its fence stays in force till then (R487, R629).
DESIGN CHOICE (log entry 60). -/
def endEngineReset (kind index : Nat) (s : State) : State :=
  if (unitXings s kind index).any fun k => (xOf s k).closed then s
  else if silUp s then endReset kind index s.now s
  else if (unitOf s kind index).inReset then modUnit kind index (fun u => { u with ended := some s.now }) s
  else s

/-- ENGINE_RESET_COMPLETE (R483). DESIGN CHOICE (log entry 60). -/
def execEngineResetComplete (kind index : Nat) (s : State) : Out := done (endEngineReset kind index s)

/-- VEC_ENGINE_RESET_COMPLETE (R271): that of a vector unit after a context fault, which Silset's fence began. -/
def execVecEngineResetComplete (cl : Nat) (s : State) : Out :=
  done (if (unitOf s 3 cl).cause = 6 then endEngineReset 3 cl s else s)

/-- What ended or overran its bound among the engine resets while Silset did not run is handled as it resumes (R485, R629). -/
def overdueResets (s : State) : State :=
  let us := s.units.filter fun e => e.2.reasons.testBit 1 && e.1 / 2 ^ 16 != 10 &&
    (e.2.ended.isSome || decide (e.2.fencedAt + 10000000 < s.now))
  foldS us (fun e s =>
    let k := e.1 / 2 ^ 16
    let i := e.1 % 2 ^ 16
    if takenOver s k i then s
    else match e.2.ended with
    | some t => endReset k i t (modUnit k i (fun u => { u with ended := none }) s)
    | none => engineFailed k i 3 s) s

/-- ENGINE_RESET_BOUND_EXPIRY (R485): its escalation waits for Silset where that does not run (R629).
DESIGN CHOICE (log entry 60). -/
def execEngineResetBoundExpiry (kind index : Nat) (s : State) : Out :=
  done (if (unitOf s kind index).reasons.testBit 1 && kind != 10 && silUp s && (unitOf s kind index).ended.isNone &&
            !takenOver s kind index then
          engineFailed kind index 3 s else s)

/-! ### Function Level Resets (R461, R462, R488) -/

/-- The handles of a function are freed without records; what its commands ran is abandoned. -/
def dropHandle (h : Nat) (s : State) : State :=
  match cmdOf s h with
  | none => s
  | some c =>
    let g := genOf s h
    let s := foldS ((g.map fun x => x.bind.toList ++ x.dbind.toList).getD []) abandonBind s
    let s := { s with gens := tdel s.gens h }
    let s := foldS ((g.map fun x => if x.pfx.isSome then [x.seq] else []).getD []) freeSeqIdx s
    if (loadOf s c.ctx).any fun l => l.h == h then foldS (loadOf s c.ctx).toList (fun l => endLoad c.ctx l stFenced 0) s
    else if opTrains c.op && c.run then endTrain h stFenced 0 0 s
    else stopDma h stFenced s

/-- The registers of a function's queues and those of its own (R461, step 5). -/
def queueRegs : List Reg := [.QM_SQ_BASE_LO, .QM_SQ_BASE_HI, .QM_RQ_BASE_LO, .QM_RQ_BASE_HI, .QM_Q_CFG]

/-- A virtual function's commands that the PF issued for its context end with FENCED, as the function's work is fenced.
DESIGN CHOICE (log entry 61). -/
def endFnCmds (fn : Nat) (s : State) : State :=
  foldS ((s.cmds.filter fun e => e.2.ctx % 32 == fn && e.2.fn != fn).map (·.1)) (fun h => cancelCmd h stFenced) s

/-- The sequences and prefixes of a function are freed. -/
def dropFnSeqs (fn : Nat) (s : State) : State :=
  let s := foldS ((s.seqs.filter fun e => e.2.used && e.2.ctx % 32 == fn).map (·.1)) freeSeqIdx s
  let ps := s.prefixes.filter fun p => p.ctx % 32 == fn
  foldS ps (fun p => dropPages p.pages) { s with prefixes := s.prefixes.filter fun p => p.ctx % 32 != fn }

/-- The registers of R441 that a function has of its own in the serving engine. -/
def srvFnRegs : List Reg := [.SRV_STAT, .SRV_TOKEN_CNT, .SRV_DRAFT_PROP_CNT, .SRV_DRAFT_ACC_CNT, .SRV_RETRACT_CNT, .SRV_SPEC_OFF_CNT]

/-- What a function holds for register pairs is lost with its configuration (R447, R461). -/
def dropPairs (fn : Nat) (s : State) : State :=
  { s with heldLo := tdrop (fun k => k % 64 == fn) s.heldLo, latched := tdrop (fun k => k % 64 == fn) s.latched }

/-- Steps 1 to 5 of an FLR. DESIGN CHOICE (log entry 61). -/
def flrCore (fn : Nat) (s : State) : State :=
  let s := foldS ((s.ctxs.map (·.1)).filter fun k => k % 32 == fn) (fun k => sendNotice k 1) s
  let s := foldS ((s.ctxs.map (·.1)).filter fun k => k % 32 == fn) (fun k => modCx k fun c => { c with fenced := false }) s
  let s := modFn fn (fun f => { f with inFlr := true }) s
  let s := { s with cmds := s.cmds.map fun e => if e.2.fn == fn then (e.1, { e.2 with flags := 0 }) else e }
  let s := foldS ((s.cmds.filter fun e => e.2.fn == fn).map (·.1)) dropHandle s
  let s := dropFnSeqs fn (endFnCmds fn s)
  let s := modUnit 11 fn (fun u => { u with fgen := (u.fgen + 1) % 2 ^ 16 }) s
  let s := modXing (xKey 4 fn) (fun x => { x with epoch := (x.epoch + 1) % 2 ^ 32 }) s
  let s := clearRegs queueRegs (fun i => i / 64 == fn) (clearRegs [.QM_CTRL, .QM_STAT] (· == fn) s)
  dropPairs fn { s with queues := tdrop (fun k => k / 64 == fn) s.queues, fns := tdel s.fns fn }

/-- An FLR of a virtual function. DESIGN CHOICE (log entry 61). -/
def flrVf (k : Nat) (s : State) : State :=
  let s := clearRegs srvFnRegs (· == k) (flrCore k s)
  let s := setEv .HUB_VF_EVT k 0 (setEv .VF_EVT 0 k s)
  let s := logE { cls := 8, code := 0x0A, sev := 1, func := k, data := [0, 0, 0] } s
  whenS (rb s .HUB_IRQ_EN 8) (signal 0 (rf s .HUB_IRQ_VEC 10 0)) s

/-- The serving registers that the physical function reads and writes (R391 ff.). -/
def srvRegs : List Reg := [.SRV_CTRL, .SRV_STAT, .SRV_FN_SEL, .SRV_REG_SEL]

/-- The registers of the host interface that the physical function sets up for the functions and its own window and interrupts
(R386, R391, R469, R470). HUB_HOST_CFG and the locks are kept until a package reset (R450). DESIGN CHOICE (log entry 61). -/
def hostRegs : List Reg :=
  [.QM_FN_SEL, .QM_FN_QUOTA, .SRV_FN_PFX_QUOTA, .HUB_BAR4_BASE_LO, .HUB_BAR4_BASE_HI, .HUB_IRQ_EN, .HUB_IRQ_VEC]

/-- An FLR of the physical function: every virtual function is reset, and its own host interface.
DESIGN CHOICE (log entry 61). -/
def flrPf (s : State) : State :=
  let vfs := if s.pcie.vfEnable then (List.range s.pcie.numVfs).map (· + 1) else []
  let s := foldS vfs flrVf { s with pcie.vfEnable := false }
  let s := clearRegs hostRegs (fun _ => true) (clearRegs (srvRegs ++ srvFnRegs) (· == 0) (flrCore 0 s))
  logE { cls := 8, code := 0x0B, sev := 2, func := 0, data := [0, 0, 0] } { s with pcie := { linkUp := s.pcie.linkUp, speed := s.pcie.speed, width := s.pcie.width } }

end Sys2Proof.Machine
end

