-- ==== Sys2Proof/Machine/Reset.lean ====
section
/-! DEFINITION. Crossing epochs, partition and package resets, requests of the host, escalation, reconciliation, link failures
and Silset's return (R479, R481 to R489, R493, R494, R529, R544, R545). -/

namespace Sys2Proof.Machine

open Sys2Proof

/-! ### Epochs (R479) -/

/-- EPOCH_OFFER (R479): the reset side offers the new epoch, the survivor acknowledges it; where both sides were reset, the
larger proposal stands. DEDUCED (log entry 62). -/
def execEpochOffer (kind index epoch : Nat) (s : State) : Out :=
  let k := xKey kind index
  let x := xOf s k
  done (if x.closed && decide (x.epoch ≤ epoch) then
          emit (.fabric kind index tagEpoch [epoch]) (modXing k (fun x => { x with epoch := epoch, offered := some epoch }) s)
        else wrongEpoch k epoch s)

/-- EPOCH_ACKNOWLEDGEMENT (R479): offer and acknowledgement have both been received, and traffic crosses again. -/
def execEpochAcknowledgement (kind index epoch : Nat) (s : State) : Out :=
  let k := xKey kind index
  let x := xOf s k
  done (if x.closed && x.offered == some epoch && x.epoch == epoch then
          modXing k (fun x => { x with closed := false, offered := none }) s
        else wrongEpoch k epoch s)

/-! ### Partition resets (R483, R484) -/

/-- PARTITION_RESET (R483): Silset starts one, with the cause and the unit that RST_LAST shows. -/
def execPartitionReset (pt cause kind index : Nat) (s : State) : Out :=
  done (if ptExists s pt && silUp s then startPtReset pt cause kind index false s else s)

/-- HBM channels of groups have trained and are READY, where their clock is sound; their counts of corrections begin again (R306).
DESIGN CHOICE (log entry 63). -/
def channelsReady (gs : List Nat) (s : State) : State :=
  if rf s .CLK_STAT 11 9 != 2 then s
  else foldS gs (fun g => foldS (List.range 8) fun c s =>
    { s with hbm := tmod {} s.hbm (g * 8 + c) fun _ => { state := 2, ce := 0 } }) s

/-- Channel groups among the units that failed their test have failed training: their contents are lost (R296).
DESIGN CHOICE (log entry 106). -/
def trainingFails (us : List (Nat × Nat)) (s : State) : State :=
  let gs := (us.filter fun u => u.1 == 13 && decide (u.2 < 8)).map (·.2)
  whenS (!gs.isEmpty) (loseHbm (gs.flatMap fun g => (List.range 8).map (g * 8 + ·))) s

/-- Units fail their self-test: marked FAILED, without escalation (R483, R648). DESIGN CHOICE (log entry 24). -/
def selfTestFails (us : List (Nat × Nat)) (s : State) : State :=
  foldS us (fun u s => whenS (unitExists s u.1 u.2 && !(unitOf s u.1 u.2).reasons.testBit 7) (markFailed u.1 u.2 0) s) s

/-- PARTITION_RESET_COMPLETE (R483): memory is trained and zeroed, every crossing handshaken, and the engines tested; `failed`
names those that did not pass. DESIGN CHOICE (log entry 63). -/
def execPartitionResetComplete (pt : Nat) (failed : List (Nat × Nat)) (s : State) : Out :=
  done <|
    let x := tget {} s.parts pt
    if !x.resetting || x.step != 4 || !silUp s || (xingsOf s pt).any (fun k => (xOf s k).closed) || rf s .CLK_STAT 11 9 != 2 then s
    else
      let failed := failed.filter fun u => within s 10 pt u.1 u.2
      let s := selfTestFails failed (trainingFails failed (channelsReady (groupsOfPt s pt) s))
      let s := loadAgents (diesOfPt s pt) (endUnits true (within s 10 pt) s)
      let s := modPart pt (fun x => { x with resetting := false, escalated := false, step := 0, resets := (x.resets + 1) % 2 ^ 16 }) s
      let s := rstLog 5 1 10 pt 2 x.cause [] (bump .RST_PT_CNT 1 0 (setEv .RST_STAT 2 0 s))
      if tget 0 s.ptPower pt = 0 then s
      else
        let s := modUnit 10 pt (fun u => { u with reasons := setBits u.reasons 2 2 0 }) { s with ptPower := tdel s.ptPower pt }
        whenS (!ptWant s pt) (powerDown pt) s

/-! ### Package resets (R481, R482) -/

/-- Registers that lie in PD23 or are kept by Silset through a warm reset. DESIGN CHOICE (log entry 59). -/
def keptReg (key : Nat) : Bool :=
  match allRegs.find? fun r => r.ctorIdx == key / 2 ^ 20 with
  | some r =>
    r.desc.win == .blk 10 ||
    [.HUB_BOOT_STAT, .HUB_BRD_IN, .HUB_BRD_EVT, .HUB_GPIO_CTRL, .HUB_BRD_VEC, .RST_SPLIT, .RST_WARM_CAUSE, .RST_WARM_CNT,
     .CAL_UTC].contains r
  | none => false

/-- The FAILED marks and, through a warm reset, the fence generations. DESIGN CHOICE (log entry 24). -/
def markOnly (fgen : Bool) (us : Tab FUnit) : Tab FUnit :=
  us.filterMap fun e =>
    let u : FUnit :=
      { fgen := if fgen then e.2.fgen else 0, reasons := if e.2.reasons.testBit 7 then 0x80 else 0, isolated := e.2.reasons.testBit 7 }
    if u = {} then none else some (e.1, u)

/-- Both sides of every crossing inside the package have been reset (R479). -/
def closeAllXings (s : State) : State :=
  foldS (((List.range 4).flatMap fun k => (List.range 8).map (xKey k)).filter (xingLive s)) closeXing s

/-- The Spyhole port keeps its TAP, its unlock and its scope through a warm reset; halts and breakpoints go (R619). -/
def warmDbg (d : Dbg) : Dbg :=
  { d with halting := 0, stepping := 0, stepCnt := [], held := [], released := [], descs := [], waiting := [], readmit := false,
           busy := none }

/-- The cause of a reset that gives no time for notices: PERST_N, thermal trip, clock failure, undervoltage (R425). -/
def noNotice (cause : Nat) : Bool := cause == 10 || cause == 11 || cause == 12 || cause == 14

/-- Before a planned reset of the package every partition is fenced, whose members' jobs get the notice; the reset waits for the
acknowledgements (R425). DESIGN CHOICE (log entry 112). -/
def noticeAll (s : State) : State :=
  foldS ((List.range 8).filter (ptExists s)) (fun p s =>
    foldS ((ctxsOf s p).filter fun k => !(jobOf s k).notice) (fun k => sendNotice k 1) (placeReason 10 p 1 s)) s

/-- A reset of the package has members to tell: there is time for it, and it has not done so yet. -/
def mustTell (s : State) (cause : Nat) : Bool :=
  !noNotice cause && s.pkg.next.isNone && s.jobs.any fun e => e.2.st != 0

/-- A package reset puts all queue pairs to error (R402, R482). -/
def downQps (t : Tab QPair) : Tab QPair := t.map fun e => (e.1, { e.2 with st := 2, unacked := [] })

/-- The package after a warm reset has begun: everything but Silset, its SRAM and PD23 is as after power-on.
DESIGN CHOICE (log entries 59, 68). -/
def warmBase (s : State) : State :=
  fuseMacs (List.range 32) { State.reset with
    pending := s.pending, out := s.out, now := s.now, free := s.free, fuses := s.fuses, cells := s.cells,
    regs := s.regs.filter fun e => keptReg e.1,
    units := markOnly true s.units, crossings := s.crossings, dbg := warmDbg s.dbg, sil := { s.sil with pageDone := [] },
    utc := s.utc, utcAt := s.utcAt, thermos := s.thermos, qps := downQps s.qps, bayT := s.bayT, bayRate := s.bayRate,
    clks := s.clks.filter fun e => decide (4 ≤ e.1), board := s.board,
    chkGroups := s.chkGroups.filterMap (fun e => if e.2.cleanAt = 0 then none else some (e.1, { cleanAt := e.2.cleanAt })),
    chkChain := s.chkChain, roClean := s.roClean, scanClean := s.scanClean, transients := s.transients }

/-- The package is held in reset apart from Silset and PD23, and its start-up is to begin again at phase `ph` (R617, R648).
DESIGN CHOICE (log entries 76, 82). -/
def holdPackage (ph : Nat) (s : State) : State :=
  let t := warmBase s
  let t := { t with pkg := s.pkg }
  let t := wrf .CAL_STAT 2 2 (rf s .CAL_STAT 2 2) 0 (wrf .CLK_STAT 17 12 (rf s .CLK_STAT 17 12) 0 t)
  let t := closeAllXings (wrf .HUB_BOOT_STAT 4 0 ph 0 t)
  let t := foldS (t.units.filter fun e => decide (e.1 < 2 ^ 16) && e.2.reasons.testBit 7) (fun e => setTileState e.1 3) t
  whenS (silUp t) showWear t

/-- A package warm reset begins (R481). DESIGN CHOICE (log entry 59). -/
def warmNow (cause kind index : Nat) (esc : Bool) (o : State) : State :=
  let utcv := rf o .CAL_STAT 2 2
  let o := dropBuffered (fun _ => true) { o with rwb := o.rwb ++ o.strobes.flatMap fun x => x.writes }
  let xr := rf o .CLK_STAT 17 12
  let cnt := (rd o .RST_WARM_CNT).toNat
  let s := warmBase o
  let s := wrf .SIL_CTRL 31 31 0 0 (wrf .CAL_STAT 2 2 utcv 0 (wrf .CLK_STAT 17 12 xr 0 s))
  let s := wrf .HUB_BOOT_STAT 5 0 3 0 s
  let s := wr .RST_WARM_CNT 0 (BitVec.ofNat 32 (cnt + 1)) (wrf .RST_WARM_CAUSE 4 0 cause 0 s)
  let s := closeAllXings (setLast 3 cause kind index 0 { s with pkg := { warmRunning := true, startedAt := s.now, cause := cause } })
  let s := foldS (s.units.filter fun e => decide (e.1 < 2 ^ 16) && e.2.reasons.testBit 7) (fun e => setTileState e.1 3) s
  let s := askFlash .stateStore (whenS (silUp s) showWear s)
  whenS esc (rstLog 6 4 kind index 3 cause []) (whenS esc (setEv .RST_STAT 3 0) s)

/-- A package warm reset starts (R481, R484): it takes over smaller ones, merges with one that runs or waits, and is dropped inside a
cold one. DESIGN CHOICE (log entry 59). -/
def startWarm (cause kind index : Nat) (esc : Bool) (s : State) : State :=
  if s.pkg.coldRunning then dropRequest 0xF 0 s
  else if s.pkg.warmRunning || (s.pkg.next.isSome && !noNotice cause) then s
  else if mustTell s cause then noticeAll { s with pkg.next := some (false, cause, kind, index, esc) }
  else warmNow cause kind index esc s

/-- The parts of Silset that lie in flash, OTP and fuses, as the next start finds them. DESIGN CHOICE (log entry 25). -/
def coldSil (z : Sil) : Sil :=
  { slot := z.slot, slotA := z.slotA, slotB := z.slotB, rollback := z.rollback,
    commissioned := z.commissioned, debugCount := z.debugCount, fwRevoked := z.fwRevoked, ownerKey := z.ownerKey,
    anchorsUsed := z.anchorsUsed, anchor := z.anchor, keys := z.store.keys, seq := z.seq, mirror := z.mirror, store := z.store,
    wear := z.wearFlash, wearFlash := z.wearFlash, fails := z.fails, scanLen := z.scanLen, scanData := z.scanData }

/-- The package when PD23 leaves power-on reset: flash, OTP, fuses, cells and the board outside are as they were.
DESIGN CHOICE (log entry 59). -/
def coldBase (s : State) : State :=
  fuseMacs (List.range 32) { State.reset with
    pending := s.pending, out := s.out, free := s.free, fuses := s.fuses, cells := s.cells, sil := coldSil s.sil,
    units := (s.sil.store.failed.map fun k => (k, { reasons := 0x80, isolated := true })), qps := downQps s.qps,
    utc := s.sil.store.utc, crossings := s.crossings,
    board := { perst := s.board.perst, rails := s.board.rails, gpio := s.board.gpio } }

/-- A package cold reset begins (R481): everything begins anew, Silset included. -/
def coldNow (cause kind index : Nat) (esc : Bool) (o : State) : State :=
  let tries := o.pkg.coldTries
  let split := splitN o
  let s := coldBase o
  let s := wrf .RST_SPLIT 7 0 (split + 16 * o.sil.store.splitNext) 0 s
  let s := wrf .HUB_BOOT_STAT 10 8 s.fuses.smbAddr 0 s
  let s := wrf .RST_WARM_CAUSE 4 0 (cause + 16) 0 s
  let s := whenS (cause == 12) (setEv .CLK_EVT 4 0) s
  let s := setLast 4 cause kind index 0 { s with pkg := { coldRunning := true, cause := cause, coldTries := tries } }
  whenS esc (rstLog 6 4 kind index 4 cause []) (whenS esc (setEv .RST_STAT 3 0) s)

/-- A package cold reset starts (R481); one that waits takes the place of a warm one that does. -/
def startCold (cause kind index : Nat) (esc : Bool) (s : State) : State :=
  if mustTell s cause then noticeAll { s with pkg.next := some (true, cause, kind, index, esc) }
  else if s.pkg.next.isSome && !noNotice cause && !s.pkg.warmRunning then { s with pkg.next := some (true, cause, kind, index, esc) }
  else coldNow cause kind index esc s

/-- A package cold reset is requested: it merges with one that runs (R484). -/
def askCold (cause kind index : Nat) (esc : Bool) (s : State) : State :=
  if s.pkg.coldRunning && !s.pkg.healthFailed && phase s != 8 then s
  else startCold cause kind index esc { s with pkg.coldTries := 0 }

/-- NOTICE_ACK_WAIT_EXPIRY (R425): the acknowledgements are in or 200 µs have passed; the queue pairs drop, and a reset of the package
that waited for the last of them begins. -/
def execNoticeAckWaitExpiry (pt fn : Nat) (s : State) : Out :=
  done <|
    let k := cxKey pt fn
    if !(jobOf s k).notice then s
    else
      let s := dropQps k (modMember k (fun j => { j with notice := false }) s)
      if s.jobs.any (fun e => e.2.notice) then s
      else match s.pkg.next with
        | some (cold, cause, kind, index, esc) =>
          if cold then coldNow cause kind index esc s else warmNow cause kind index esc s
        | none => s

/-- WARM_RESET (R481): Silset starts a package warm reset. -/
def execWarmReset (cause kind index : Nat) (s : State) : Out := done (startWarm cause kind index false s)

/-- A cold reset has failed: it is repeated at most twice, and the device then stays in reset with ALERT asserted (R486). -/
def coldFails (kind index : Nat) (s : State) : State :=
  let n := s.pkg.coldTries
  let s := if n < 2 then coldNow s.pkg.cause kind index false { s with pkg.coldTries := n + 1 } else s
  logE { cls := 0x0C, code := 5, sev := 4, source := 1, data := silData s 0 } { s with pkg.healthFailed := true }

/-- COLD_RESET (R481, R486): a package cold reset starts, or one that runs fails. -/
def execColdReset (cause kind index : Nat) (failed : Bool) (s : State) : Out :=
  done (if !failed then askCold cause kind index false s
        else if !s.pkg.coldRunning then s
        else coldFails kind index s)

/-- PT_TO_EXPIRY (R486): a partition reset that has not completed is abandoned for a package warm reset. -/
def execPtToExpiry (pt : Nat) (s : State) : Out :=
  done (if (tget {} s.parts pt).resetting && silUp s then startWarm 8 10 pt true s else s)

/-- WARM_TO_EXPIRY (R486, R648): so is a warm reset for a cold one; a phase of a cold start that overruns leads to a cold reset as well,
which does not escalate further. DESIGN CHOICE (log entry 76). -/
def execWarmToExpiry (s : State) : Out :=
  done (if s.pkg.warmRunning then askCold 9 0xF 0 true s
        else if s.pkg.coldRunning && !s.board.perst && phase s != 8 then coldFails 0xF 0 s
        else s)

/-! ### Requests of the host (R484, R494) -/

/-- The request in RST_REQ names something that exists, and carries the key where it needs one. -/
def reqValid (s : State) (key : Nat) : Bool :=
  let kind := rf s .RST_REQ_LOC 3 0
  let index := rf s .RST_REQ_LOC 17 4
  match rf s .RST_REQ 2 0 with
  | 1 => kind != 10 && kind != 11 && decide (kind < 14) && unitExists s kind index
  | 2 => ptExists s (rf s .RST_REQ 6 4)
  | 3 => key == 0xC01D
  | 4 => key == 0xC01D
  | _ => false

/-- A pending request begins, and GO clears; a warm reset that changes the split shows that cause. -/
def beginReq (s : State) : State :=
  let kind := rf s .RST_REQ_LOC 3 0
  let index := rf s .RST_REQ_LOC 17 4
  let pt := rf s .RST_REQ 6 4
  let level := rf s .RST_REQ 2 0
  let s := wrf .RST_REQ 3 3 0 0 s
  let cause := if splitNext s = splitN s then 1 else 13
  match level with
  | 1 => startEngineReset kind index 1 s
  | 2 => startPtReset pt 1 10 pt false s
  | 3 => startWarm cause 0xF 0 false s
  | 4 => askCold cause 0xF 0 false s
  | _ => s

/-- A write to RST_REQ. One that sets GO is ignored while GO is 1, and where the request is not valid; it is begun by Silset, at once
where that runs. -/
def rstReqWrite (src : Src) (v : Nat) (s : State) : State :=
  let off := blkOff .RST_REQ
  let refuse := fun (s : State) => dropRequest 0xF 0 (regErr 2 src .bar0 off true s)
  if v.testBit 3 && rb s .RST_REQ 3 then refuse s
  else
    let s := storeReg src .RST_REQ 0 off v s
    if !v.testBit 3 then s
    else if !reqValid s (v / 2 ^ 16) then refuse (wrf .RST_REQ 3 3 0 0 s)
    else whenS (s.sil.state == 1) beginReq s

/-- HOST_ENGINE_RESET_REQUEST (R494). -/
def execHostEngineResetRequest (src : Src) (value : Nat) (s : State) : Out := done (rstReqWrite src value s)

/-- HOST_PARTITION_RESET_REQUEST (R494). -/
def execHostPartitionResetRequest (src : Src) (value : Nat) (s : State) : Out := done (rstReqWrite src value s)

/-- HOST_WARM_RESET_REQUEST (R494). -/
def execHostWarmResetRequest (src : Src) (value : Nat) (s : State) : Out := done (rstReqWrite src value s)

/-- HOST_COLD_RESET_REQUEST (R494). -/
def execHostColdResetRequest (src : Src) (value : Nat) (s : State) : Out := done (rstReqWrite src value s)

/-- A write to RST_FENCE_HOST places and removes the reason HOST of partitions (R478, R493). -/
def fenceHostWrite (src : Src) (v : Nat) (s : State) : State :=
  let old := rf s .RST_FENCE_HOST 7 0
  let s := storeBlk src .RST_FENCE_HOST 0 v s
  let new := rf s .RST_FENCE_HOST 7 0
  foldS (List.range 8) (fun p s =>
    if new.testBit p && !old.testBit p then whenS (ptExists s p) (placeReason 10 p 0) s
    else if old.testBit p && !new.testBit p then removeReason 10 p 0 s else s) s

/-- RST_FENCE_HOST_WRITE (R493). -/
def execRstFenceHostWrite (src : Src) (value : Nat) (s : State) : Out := done (fenceHostWrite src value s)

/-! ### Reconciliation (R489) -/

/-- A finding of the data path's view of a unit, by the case of R489 that it shows, disagrees with Silset's: work admitted by a unit that
Silset holds down (1), work refused by one it holds up (2), work kept beyond a drain (3), no handshake of one it holds powered (4), a halted one
apart (R626).
DEDUCED (log entry 62). -/
def disputes (s : State) (u : Nat × Nat × Nat) : Bool :=
  let k := u.1
  let i := u.2.1
  let drained := !(((k, i) :: containers s k i).any fun c => (unitOf s c.1 c.2).draining)
  (k == 11 || unitExists s k i) &&
    (match u.2.2 with
     | 1 => !unitUp s k i
     | 2 => unitUp s k i
     | 3 => fgenOf s k i != 0 && drained
     | 4 => k == 11 || (unitPowered s k i && !(baysOf s k i).any (halted s))
     | _ => false)

/-- A unit whose views disagree: the forced fence, and after three further rounds the reset of its partition, or the FLR of its
function.  The entry gives Silset's reasons and the case that the data path's view shows. -/
def disagree (u : Nat × Nat × Nat) (s : State) : State :=
  let how := u.2.2
  let u := (u.1, u.2.1)
  let x := unitOf s u.1 u.2
  let s := rstLog 8 3 u.1 u.2 0 5 [x.reasons, how] (bump .RST_DISPUTE_CNT 1 0 s)
  if !x.reasons.testBit 5 then placeReason u.1 u.2 5 (setEv .RST_STAT 4 0 s)
  else if x.dispRounds < 2 then modUnit u.1 u.2 (fun x => { x with dispRounds := x.dispRounds + 1 }) s
  else
    let s := modUnit u.1 u.2 (fun x => { x with dispRounds := 0 }) s
    match partOf? s u.1 u.2 with
    | some p => startPtReset p 5 u.1 u.2 false s
    | none => if u.2 = 0 then flrPf s else flrVf u.2 s

/-- RECONCILIATION_ROUND (R489): `us` are the units about which the data path's view may disagree, with the case that it shows. -/
def execReconciliationRound (us : List (Nat × Nat × Nat)) (s : State) : Out :=
  done <|
    if s.sil.state != 1 then s
    else
      let us := us.filter (disputes s)
      let us := (us.map fun u => (u.1, u.2.1)).dedup.filterMap fun k => us.find? fun u => (u.1, u.2.1) == k
      let agreed := (s.units.filter fun e => e.2.reasons.testBit 5 && !us.any fun u => ukey u.1 u.2.1 == e.1).map (·.1)
      let s := foldS agreed (fun k s =>
        removeReason (k / 2 ^ 16) (k % 2 ^ 16) 5 (modUnit (k / 2 ^ 16) (k % 2 ^ 16) (fun x => { x with dispRounds := 0 }) s)) s
      foldS us disagree s

/-! ### Links (R297, R478) -/

/-- LINK_REPLAY (R297, R479): a flit is replayed; the eighth try in vain fails the link, which is fenced, and the survivors that see it
drop flush its crossings and wait for the offer. -/
def execLinkReplay (kind index tries : Nat) (s : State) : Out :=
  done <|
    let s := setEv .HUB_MEM_ERR_STAT 4 0 s
    if tries < 8 then s
    else
      let s := logE { cls := 2, code := 6, sev := 3, kind := kind, index := index, data := [0, 0] } (setEv .HUB_MEM_ERR_STAT 5 0 s)
      whenS (unitExists s kind index) (fun s => placeReason kind index 6 (foldS (unitXings s kind index) dropLink s)) s

/-- LINK_RETRAINING_COMPLETE (R478). -/
def execLinkRetrainingComplete (kind index : Nat) (s : State) : Out := done (removeReason kind index 6 s)

/-! ### Silset returns (R487, R529, R544, R545, R629) -/

/-- Silset runs again: the wear view shows its copy (R197), events are taken from the queue, resets that waited for it begin. -/
def silResume (s : State) : State :=
  let s := overdueResets (drainEvq (showWear s))
  let hung := (s.units.filter fun e => e.2.hung && !e.2.reasons.testBit 1).map (·.1)
  let s := foldS hung (fun k => startEngineReset (k / 2 ^ 16) (k % 2 ^ 16) 2) s
  whenS (rb s .RST_REQ 3) beginReq s

/-- SILSET_RESTART_COMPLETE (R529): the firmware that the boot ROM handed over to runs. -/
def execSilsetRestartComplete (s : State) : Out :=
  done (if s.sil.state = 2 && s.sil.handed then
          silResume { s with sil := { s.sil with state := 1, handed := false, runSince := s.now } }
        else s)

/-- A die is fenced for the update of its agent, with the members whose contexts it serves told. -/
def updateDie (d : Nat) (s : State) : State :=
  let s := foldS ((ctxsOf s (ptOfDie s d)).filter fun k => (jobOf s k).st != 0) (fun k => sendNotice k 2) s
  placeReason 9 d 3 (foldS ((List.range 6).map (d * 6 + ·)) (fun b => placeReason 8 b 3) s)

/-- The next die of the list is updated; one that is disabled or FAILED is skipped. -/
def nextAgent (s : State) : State :=
  let left := s.sil.agentDies.filter fun d => dieOn s d && !(unitOf s 9 d).reasons.testBit 7
  let s := { s with sil.agentDies := left }
  match left with
  | d :: _ => updateDie d s
  | [] => s

/-- TRIAL_CONFIRM (R544, R545): the running TRIAL slot has proved itself for 30 s. -/
def execTrialConfirm (cryptoOk : Bool) (s : State) : Out :=
  done <|
    let b := s.sil.slot
    let v := fwSlot s b
    if v.state != 2 || s.sil.state != 1 || decide (s.now < s.sil.runSince + 30000000000) || !s.sil.roundsOk || !cryptoOk then s
    else
      let o := fwSlot s (!b)
      let s := setFwSlot (!b) { o with state := if o.state = 0 then 0 else 1 } (setFwSlot b { v with state := 3 } s)
      let s := { s with sil.rollback := max s.sil.rollback v.svn }
      let s := logE { cls := 0x0B, code := 8, sev := 1, source := 1, data := fwData b v } s
      if s.sil.agentsNow && v.agents then
        nextAgent { s with sil.agentsNow := false, sil.agentDies := List.range 8 }
      else { s with sil.agentsNow := false }

/-- AGENT_UPDATE_COMPLETE (R478, R545): the update of a unit's agent firmware or fused trim is complete, and reason UPDATE goes; a die
of an agent update is released with its bays, and the next one follows. -/
def execAgentUpdateComplete (kind index : Nat) (s : State) : Out :=
  done <|
    if s.sil.agentDies.head?.any fun d => kind == 9 && index == d then
      let s := removeReason 9 index 3 (foldS ((List.range 6).map (index * 6 + ·)) (fun b => removeReason 8 b 3) s)
      nextAgent (loadAgents [index] { s with sil.agentDies := s.sil.agentDies.drop 1 })
    else if s.sil.agentDies.head?.any fun d => kind == 8 && index / 6 == d then s
    else removeReason kind index 3 s

end Sys2Proof.Machine
end

