-- ==== Sys2Proof/Machine/Checker.lean ====
section
/-! DEFINITION. Draw-ring samples, random-operand cross-checks and the scan-pattern mode (ch. 14). -/

namespace Sys2Proof.Machine

open Sys2Proof

/-! ### Arming (R505) -/

/-- The entries of a plan that lie in a bay. -/
def bayEntries (p : DrawPlan) (bay : Nat) : List DrawTlE := p.tls.filter fun e => e.tl / 1024 == bay

/-- The step of the smooth weighted round robin: every entry gains its weight, the first of those with most is chosen,
beginning at entry `start`, and loses the sum of the weights. DESIGN CHOICE (log entry 64). -/
def swrr (es : List DrawTlE) (start : Nat) (cur : Tab Int) : Option (Nat × Tab Int) :=
  let n := es.length
  let total : Int := ((es.map fun e => e.weight).sum : Nat)
  let cur := foldS (List.range n) (fun i m => tset 0 m i (tget 0 m i + ((es.getD i {}).weight : Int))) cur
  let order := (List.range n).map fun i => (start + i) % n
  match order with
  | [] => none
  | i :: is =>
    let best := is.foldl (fun b j => if tget 0 cur b < tget 0 cur j then j else b) i
    some (best, tset 0 cur best (tget 0 cur best - total))

/-- The next column group of a mask at or after a cursor, wrapping. DESIGN CHOICE (log entry 64). -/
def nextGroup (mask cursor : Nat) : Nat :=
  (((List.range 8).map fun i => (cursor + i) % 8).find? fun g => mask.testBit g).getD 0

/-- SAMPLE_ARM (R505): with a whole sample of credit and a free buffer, the bay's checker arms a capture for a context's
plan; samples of a halted bay wait (R626). -/
def execSampleArm (pt fn bay : Nat) (s : State) : Out :=
  done <|
    let k := cxKey pt fn
    let l := tget [] s.samples bay
    match s.plans.find? fun e => e.1 == k * 64 + bay with
    | none => s
    | some (key, p) =>
      let p := accrue s k bay p
      let s := { s with plans := tins s.plans key p }
      if !rb s .CHK_CTRL 0 || p.credit < 100000000000 || decide (4 ≤ l.length) || !unitUp s 6 bay || halted s bay ||
          (cxOf s k).active != some p.im then s
      else
        let es := bayEntries (imgOf s p.im).draw bay
        match swrr es p.start p.cur with
        | none => s
        | some (i, cur) =>
          let e := es.getD i {}
          let g := nextGroup e.mask (tget 0 p.cursor i)
          let x : Sample := { tl := e.tl, group := g, armedAt := s.now }
          { s with plans := tins s.plans key { p with credit := p.credit - 100000000000, cur := cur,
                                                      cursor := tset 0 p.cursor i ((g + 1) % 8) },
                   samples := tset [] s.samples bay (l ++ [x]) }

/-! ### Discards (R501) -/

/-- A discarded sample counts as skipped and is logged (R501, R521); one that a check of a finding needs is armed again while an image holds the
tile-layer, and the finding is given up otherwise. DESIGN CHOICE (log entry 67). -/
def discard (bay : Nat) (x : Sample) (s : State) : State :=
  let s := logE { cls := 5, code := (Config.catalogue 5 1).toNat, sev := 1, kind := 0, index := x.tl / 4, layer := x.tl % 4,
                  data := [0, 0, 0] } (bump .CHK_SKIP_CNT 1 0 s)
  if !x.forced then s
  else if (heldTls s).contains x.tl then
    let y : Sample := { tl := x.tl, group := x.group, armedAt := s.now, forced := true }
    { s with samples := tmod [] s.samples bay fun l => y :: l }
  else { s with findings := s.findings.filter fun f => f.chain || !(f.unit == x.tl && f.group == x.group) }

/-- The first sample of a list of which `p` holds, and the list without it. -/
def takeFirst (p : Sample → Bool) : List Sample → Option (Sample × List Sample)
  | [] => none
  | x :: xs => if p x then some (x, xs) else (takeFirst p xs).map fun r => (r.1, x :: r.2)

/-- ARM_TIMEOUT (R501): the oldest capture of a bay armed for ARM_TO without a pass is discarded.
DESIGN CHOICE (log entry 67). -/
def execArmTimeout (bay : Nat) (s : State) : Out :=
  done <| match takeFirst (fun x => x.run.isNone && decide (x.armedAt + 10000000 ≤ s.now)) (tget [] s.samples bay) with
    | some (x, rest) => discard bay x { s with samples := tset [] s.samples bay rest }
    | none => s

/-! ### The analogue comparison (R502, R506 to R508) -/

/-- D: the whole decades of t in seconds, rounded up (R507, R105). DESIGN CHOICE (log entry 66). -/
def decades (t : Nat) : Nat := ((List.range 20).find? fun n => decide (t ≤ 10 ^ n)).getD 20

/-- log10(t / t_cal) in tenths of a decade, rounded up (R507). DESIGN CHOICE (log entry 66). -/
def logTenths (t tc : Nat) : Nat := ((List.range 200).find? fun n => decide (t ^ 10 ≤ 10 ^ n * tc ^ 10)).getD 200

/-- What a column of a sample gives: drive and weight counts of its products. DESIGN CHOICE (log entry 66). -/
def sampleTerms (s : State) (r : PassRun) (dFmt : Bool) (sh : Shadow) (j : Nat) : List (Int × Int) :=
  (List.range 1024).map fun i =>
    (codeCount dFmt (r.req.codes.getD i 0),
     codeCount sh.fp4 (if r.req.kind = 1 then shadowCode s sh j i else shadowCode s sh i j))

/-- The bound and the variance of a column, and its residual in product units (R106, R107, R507). -/
structure Judge where
  rho   : ℚ := 0
  bound : ℚ := 0
  var   : ℚ := 0
  deriving DecidableEq, Repr

/-- The judgement of a column from its terms, its calibrated code in eighths, the step LSB_r, |ΔT| in quarters of a degree, D
and the tenths of log10(t / t_cal). DESIGN CHOICE (log entry 66). -/
def judgeCol (ts : List (Int × Int)) (k8 : Int) (lsb : ℚ) (dt dec lt : Nat) : Judge :=
  let p : ℚ := ((ts.map fun x => x.1 * x.2).sum : Int)
  let dd : ℚ := ((ts.map fun x => x.1 * x.1).sum : Int)
  let mm : ℚ := ((ts.map fun x => x.2 * x.2).sum : Int)
  let ad : ℚ := ((ts.map fun x => x.1.natAbs).sum : Nat)
  let q : ℚ := ((ts.map fun x => x.1.natAbs * (x.2.natAbs + 4)).sum : Nat)
  let t : ℚ := (dt : ℚ) / 4
  { rho := (k8 : ℚ) / 8 * lsb - p,
    bound := (12 / 10000 * t + 5 / 1000 * ((lt : ℚ) / 10)) * |p| + 2 / 10000 * q + 5 / 10000 * ad +
      (3 / 4 + 1 / 16 + 3 / 100 * t) * lsb + lsb / 2 + lsb / 16,
    var := 2 * (36 / 10000 + 25 / 10000 + (dec : ℚ) * dec / 10000) * dd + mm / 10000 + lsb * lsb / 4 }

/-- |ρ| > B + Z σ, with Z in eighths. -/
def Judge.outside (x : Judge) (z : Nat) : Bool :=
  let d := |x.rho| - x.bound
  decide (0 < d) && decide ((z : ℚ) * z / 64 * x.var < d * d)

/-- The threshold B + Z σ in whole codes, at most 511. -/
def Judge.thresh (x : Judge) (z : Nat) (lsb : ℚ) : Nat :=
  ((List.range 512).filter fun (n : Nat) =>
    let d := (n : ℚ) * lsb - x.bound
    decide (d ≤ 0) || decide (d * d ≤ (z : ℚ) * z / 64 * x.var)).foldl max 0

/-- The position of a sample's tile in the part of its chain record. -/
def samplePos (a : AccPass) (tile : Nat) : Nat := ((a.tiles.find? fun e => e.2 == tile).map (·.1)).getD 0

/-- The code of column `j` of a sample, as the chain record gives it. -/
def sampleCode (a : AccPass) (tile j : Nat) : Int := tget 0 a.codes (samplePos a tile * 1024 + j)

/-- Silset's UTC at a time that has passed. -/
def utcThen (s : State) (t : Nat) : Nat := utcNow s - (s.now - t) / 1000000000

/-- The judgement of column `j` (R507): none where its code clamped; times count from the last programming (R105).
DESIGN CHOICE (log entry 66). -/
def judgeSample (s : State) (x : Sample) (r : PassRun) (a : AccPass) (sh : Shadow) (j : Nat) : Option Judge :=
  let c := sampleCode a (x.tl / 4) j
  if isClamped c then none else
  let from_ := (wearOf s x.tl).utc
  let t := max 1 (utcThen s x.capAt - from_)
  let tc := max 1 ((tlOf s (x.tl / 4) (x.tl % 4)).calAt - from_)
  let ts := sampleTerms s r (sliceOf (imgOf s a.im) a.slice).dFmt sh j
  some (judgeCol ts (calibrate (goOf r j) c) (2 ^ (8 - r.range)) x.dt (decades t) (logTenths t tc))

/-! ### Findings (R509 to R511, R518, R525) -/

/-- The finding registers take a finding unless they hold one; the finding is counted and signalled.
DESIGN CHOICE (log entry 65). -/
def enterFinding (check unit index lg tclean resid col thresh evt : Nat) (s : State) : State :=
  let s := bump .CHK_FIND_CNT 1 0 (setEv .CHK_STAT evt 0 s)
  let s := if rb s .CHK_FIND_INFO 31 then s else
    wr .CHK_FIND_INFO 0 (BitVec.ofNat 32 (check + unit * 2 ^ 4 + index * 2 ^ 8 + lg * 2 ^ 22 + 2 ^ 31))
      (wr .CHK_FIND_RESID 0 (BitVec.ofNat 32 (resid + col * 2 ^ 16 + thresh * 2 ^ 23))
        (wr .CHK_FIND_TCLEAN_LO 0 (BitVec.ofNat 32 tclean) (wr .CHK_FIND_TCLEAN_HI 0 (BitVec.ofNat 32 (tclean >>> 32)) s)))
  signalVec .CHK_EVT_VEC s

/-- The outcome of a unit that has been marked FAILED and handled under R485: 4 where a larger reset or a fence of the
partition follows, 5 where the partition continues. -/
def failedOutcome (s : State) (kind index : Nat) : Nat :=
  match partOf? s kind index with
  | some p => if (tget {} s.parts p).resetting || fenced s 10 p then 4 else 5
  | none => 5

/-- A unit is marked FAILED for a finding and handled under R485. -/
def failUnit (kind index lg : Nat) (s : State) : State :=
  let s := dropWork (within s kind index) stFenced s
  let s := afterFailed kind index 0 (markFailed kind index 0 s)
  if kind = 0 ∧ s.remaps.any (fun r => r.tile == index) then s
  else if kind = 0 then closeFailedFinding index (failedOutcome s kind index) s
  else findOutcome kind index lg (failedOutcome s kind index) s

/-- The next step of a column finding that its check left open (R510): a refresh in a soak of the bay (R181); with ESCALATE 0 it stays
open, reported.
DESIGN CHOICE (log entry 67). -/
def findingNext (f : Finding) (s : State) : State :=
  let put := fun (n : Nat) (s : State) =>
    { s with findings := s.findings.map fun g => if g = f then { g with step := n, left := 0, bad := false } else g }
  let w := (wearOf s f.unit).state
  if f.step = 1 ∧ w ≠ 3 ∧ wornOut s f.unit = false then requestSoak (f.unit / 1024) true (put 2 s)
  else if rb s .CHK_CTRL 3 then failUnit 0 (f.unit / 4) f.lg (put 4 s)
  else findOutcome 0 (f.unit / 4) f.lg 5 (put 4 s)

/-- The check of a finding is complete: it passed, and the step before it resolved the finding; or the next step follows.
DESIGN CHOICE (log entry 67). -/
def checkDone (f : Finding) (s : State) : State :=
  if f.bad then findingNext f s
  else findOutcome 0 (f.unit / 4) f.lg (if f.step = 1 then 1 else 2)
    (setEv .CHK_STAT 7 0 { s with findings := s.findings.filter fun g => g != f })

/-- A check sample of a column finding has been judged. -/
def checkSample (x : Sample) (bad : Bool) (s : State) : State :=
  let mine := fun (f : Finding) => !f.chain && f.unit == x.tl && f.group == x.group && (f.step == 1 || f.step == 3)
  match s.findings.find? mine with
  | none => s
  | some f =>
    let f' := { f with left := f.left - 1, bad := f.bad || bad }
    let s := { s with findings := s.findings.map fun g => if g = f then f' else g }
    if f'.left = 0 then checkDone f' s else s

/-- A column becomes a finding (R509, R510). -/
def columnFinding (x : Sample) (col : Nat) (hard : Bool) (v : Judge) (range clean : Nat) (s : State) : State :=
  let lsb : ℚ := 2 ^ (8 - range)
  let z := if hard then rf s .CHK_CTRL 23 16 else rf s .CHK_CTRL 15 8
  let r := rneRat (16 * v.rho / lsb)
  let fits := decide (-32768 ≤ r) && decide (r < 32768)
  let d := drawFree s
  let resid := if fits then toTwos 16 r else (Config.freeWord d.1).toNat % 2 ^ 16
  let f : Finding := { unit := x.tl, group := x.group, col := col, at_ := s.now }
  let s := enterFinding 1 0 (x.tl / 4) f.lg clean resid (col % 128) (v.thresh z lsb) 1 (if fits then s else d.2)
  let s := logE { cls := 5, code := 2, sev := 3, kind := 0, index := x.tl / 4, layer := x.tl % 4, colRow := col,
                  data := [resid, v.thresh z lsb, clean] } s
  requestSoak (x.tl / 1024) true { s with findings := s.findings ++ [f] }

/-- The key of a sample's column group. -/
def groupKey (x : Sample) (r : PassRun) : Nat := (x.tl * 2 + b2n (r.req.kind == 1)) * 8 + x.group

/-- Soft outliers are counted and logged, with residual in sixteenths of a code, threshold and T_clean (R536). -/
def outlierSeen (x : Sample) (j : Nat) (v : Judge) (range clean : Nat) (s : State) : State :=
  let lsb : ℚ := 2 ^ (8 - range)
  logE { cls := 5, code := 1, sev := 2, kind := 0, index := x.tl / 4, layer := x.tl % 4, colRow := j,
         data := [toTwos 32 (rneRat (16 * v.rho / lsb)), v.thresh (rf s .CHK_CTRL 15 8) lsb, clean] }
    (bump .CHK_OUTLIER_CNT 1 0 (setEv .CHK_STAT 0 0 s))

/-- The analogue comparison of a sample (R507 to R509): the soft outliers, and the first column, from the one that the
generator picks, that is hard or repeats within REPEAT_WIN. -/
def analogue (x : Sample) (r : PassRun) (a : AccPass) (sh : Shadow) (s : State) : State :=
  let key := groupKey x r
  let g := tget {} s.chkGroups key
  let n := g.n + 1
  let soft := rf s .CHK_CTRL 15 8
  let cols := (List.range 128).map (x.group * 128 + ·)
  let js := cols.filterMap fun j => (judgeSample s x r a sh j).map fun v => (j, v)
  let outs := js.filter fun e => e.2.outside soft
  let finds := outs.filter fun e => e.2.outside (rf s .CHK_CTRL 23 16) ||
    (let l := tget 0 g.last e.1
     l != 0 && decide (n - l < rf s .CHK_SCHED 23 16))
  let t := foldS outs (fun e => outlierSeen x e.1 e.2 r.range (g.cleanAt - 1)) s
  let last := foldS outs (fun e m => tset 0 m e.1 n) g.last
  let g' : GroupS := { n := n, last := last, cleanAt := if outs.isEmpty then x.capAt + 1 else g.cleanAt }
  let t := { t with chkGroups := tins t.chkGroups key g' }
  if x.forced then checkSample x (!outs.isEmpty) t
  else if finds.isEmpty || s.findings.any (fun f => !f.chain && f.unit == x.tl && f.group == x.group) then t
  else
    let c0 := checkPick (imgOf s a.im) (x.tl / 1024) n % 128
    let first := (finds.find? fun e => decide (c0 ≤ e.1 % 128)).or finds.head?
    foldS first.toList (fun e => columnFinding x e.1 (e.2.outside (rf s .CHK_CTRL 23 16)) e.2 r.range (g.cleanAt - 1)) t

/-! ### The chain comparison (R506, R511) -/

/-- The words of a part's result that a column group's chain record carries. -/
def chainWords (i : Image) (a : AccPass) (group : Nat) : List Nat :=
  let ws := (partWords i a false).map (·.val)
  let n := blockCols (sliceOf i a.slice) a.cb
  ((ws.take n).drop (128 * group)).take 128 ++ ws.drop n

/-- The outcome of a chain comparison that a finding's check waits for. DESIGN CHOICE (log entry 63). -/
def chainCheck (cl : Nat) (good : Bool) (s : State) : State :=
  match s.findings.find? fun f => f.chain && f.unit == cl && f.step == 6 with
  | none => s
  | some f =>
    let rest := s.findings.filter fun g => g != f
    if !good then failUnit 1 cl 0 { s with findings := rest }
    else if f.left ≤ 1 then { s with findings := rest }
    else { s with findings := s.findings.map fun g => if g = f then { g with left := g.left - 1 } else g }

/-- The chain comparison of a sample: a pass, or a finding against the accumulation unit, which receives an engine reset. -/
def chain (cl : Nat) (x : Sample) (good : Bool) (s : State) : State :=
  let open_ := s.findings.any fun f => f.chain && f.unit == cl
  let clean := tget 0 s.chkChain cl - 1
  let t := if good then bump .CHK_CHAIN_CNT 1 0 { s with chkChain := tins s.chkChain cl (x.capAt + 1) } else s
  if open_ then chainCheck cl good t
  else if good then t
  else
    let t := enterFinding 2 1 cl 0 clean 0 0 0 2 t
    let t := logE { cls := 5, code := 3, sev := 3, kind := 1, index := cl, data := [0, 0, clean] } t
    startEngineReset 1 cl 0 { t with findings := t.findings ++ [{ chain := true, unit := cl, step := 5, at_ := s.now }] }

/-- SAMPLE_VERDICT (R501, R506): the checker of a bay judges its oldest sample that is complete, or discards it.  `res` is the
part's result for the column group as the chain record carries it; `crcOk` tells that the record's CRC holds, `shadowOk` that
the shadow did not change while it was read. The checker of a halted bay waits (R625). -/
def execSampleVerdict (bay : Nat) (res : List Nat) (crcOk shadowOk : Bool) (s : State) : Out :=
  done <| withhold bay (boundary 69 bay) (.sampleVerdict bay res crcOk shadowOk) (fun s =>
    match takeFirst (fun x => x.part.isSome || x.spoiled) (tget [] s.samples bay) with
    | none => s
    | some (x, rest) =>
      let s := { s with samples := tset [] s.samples bay rest }
      match x.run, x.part, shadowOf s x.tl with
      | some r, some a, some sh =>
        if x.spoiled || !crcOk || !shadowOk || shadowBad s x.tl || !tlValid s (x.tl / 4) (x.tl % 4) ||
            (progOf s x.tl).isSome || fenced s 6 bay || inReset s 6 bay then discard bay x s
        else
          let cl := clOfTile (x.tl / 4)
          let good := decide (res = chainWords (imgOf s a.im) a x.group)
          let t := bump .CHK_SAMPLE_CNT 1 0 (analogue x r a sh s)
          whenS (rb s .CHK_CTRL 1) (chain cl x good) t
      | _, _, _ => discard bay x s) s

/-! ### Random-operand cross-checks (R512 to R515) -/

/-- The bay of a unit of a suite. -/
def suiteBay (n u : Nat) : Nat := if n = 4 then u else u / 8

/-- The next enabled bay of the same partition, in ascending index and wrapping. -/
def nextBay (s : State) (bay : Nat) : Option Nat :=
  ((List.range 47).map fun i => (bay + 1 + i) % 48).find? fun b => dieOn s (b / 6) && ptOfDie s (b / 6) == ptOfDie s (bay / 6)

/-- The bays that take part in rounds. -/
def roundBays (s : State) : List Nat := s.rounds.flatMap fun r => [suiteBay r.suite r.a, suiteBay r.suite r.b]

/-- The attention engine of a bay holds a unit: query data of a binding whose layer's stripe has the bay, which this bay has not scored. -/
def engineHolds (s : State) (bay : Nat) : Bool :=
  s.binds.any fun e =>
    let kv := kvOf s (seqOf s e.2.seq).im
    e.2.units.any fun u =>
      let st := (kvLayer kv (u.1 / 2 ^ 16)).stripe
      st.contains bay && !u.2.scored.any fun k => st.getD k 48 == bay

/-- A unit has room for test work (R513): an accumulation unit a bank that no pass holds, an attention engine no unit. -/
def testRoom (s : State) (kind u : Nat) : Bool :=
  if kind = 1 then (inBank s u 0).isEmpty || (inBank s u 1).isEmpty else if kind = 4 then !engineHolds s u else true

/-- CROSS_CHECK_ROUND (R512, R513, R515): a round starts on two units with idle capacity that are neither fenced, in reset nor
FAILED. -/
def execCrossCheckRound (suite a b seed : Nat) (s : State) : Out :=
  let k := suiteKind suite
  let ba := suiteBay suite a
  let bb := suiteBay suite b
  done (if rb s .CHK_CTRL 2 && silUp s && unitUp s k a && unitUp s k b && testRoom s k a && testRoom s k b && nextBay s ba == some bb && ba != bb &&
          !(roundBays s).contains ba && !(roundBays s).contains bb then
      { s with rounds := s.rounds ++ [{ suite := suite, a := a, b := b, seed := seed, start := s.now }] }
    else s)

/-- The key under which the last passing round of a suite on a unit is kept. -/
def roKey (suite u : Nat) : Nat := suite * 2 ^ 16 + u

/-- A unit passes a round (R518). DESIGN CHOICE (log entry 68). -/
def roPass (suite u : Nat) (s : State) : State := { s with roClean := tins s.roClean (roKey suite u) (s.now + 1) }

/-- A CHECK entry about units of a suite (R654). -/
def roLog (code sev suite u : Nat) (more : List Nat) (s : State) : State :=
  logE { cls := 5, code := code, sev := sev, kind := suiteKind suite, index := u,
         data := [0, 0, tget 0 s.roClean (roKey suite u) - 1, suite] ++ more } s

/-- A failing unit receives an engine reset and the round is run again against the other unit (R514). -/
def roFailing (r : Round) (u other : Nat) (s : State) : State :=
  startEngineReset (suiteKind r.suite) u 0
    { s with rounds := s.rounds ++ [{ r with a := u, b := other, stage := 3, start := s.now }] }

/-- A transient is counted against a unit: the times of the last 24 h. -/
def addTransient (kind u : Nat) (s : State) : State :=
  let l := (s.now :: tget [] s.transients (ukey kind u)).filter fun t => decide (s.now < t + 86400000000000)
  { s with transients := tset [] s.transients (ukey kind u) l }

/-- A unit has TRANSIENT_LIM transients within 24 h. -/
def transientLimit (s : State) (kind u : Nat) : Bool :=
  decide (rf s .CHK_SCHED 27 24 ≤ (tget [] s.transients (ukey kind u)).length)

/-- The repeat of a round gave equal signatures (R514). -/
def roTransient (r : Round) (s : State) : State :=
  let k := suiteKind r.suite
  let s := addTransient k r.b (addTransient k r.a (setEv .CHK_STAT 4 0 s))
  let s := roLog 4 2 r.suite r.a [r.b] (setRound r none s)
  let bad := [(r.a, r.b), (r.b, r.a)].filter fun e => transientLimit s k e.1
  let s := if bad.isEmpty then bump .CHK_RO_CNT 1 0 s else s
  let s := foldS ([r.a, r.b].filter fun u => !bad.any fun e => e.1 == u) (roPass r.suite) s
  foldS bad (fun e s => roFailing r e.1 e.2 { s with transients := tset [] s.transients (ukey k e.1) [] }) s

/-- The retest of a failing unit differs again: FAILED, and for a cross-check a finding (R514, R517). -/
def roConfirmed (r : Round) (s : State) : State :=
  let k := suiteKind r.suite
  let s := setRound r none s
  let s := if 5 ≤ r.suite then s else
    roLog 6 3 r.suite r.a [r.b] (enterFinding 3 k r.a 0 (tget 0 s.roClean (roKey r.suite r.a) - 1) 0 0 0 3 s)
  failUnit k r.a 0 s

/-- CROSS_CHECK_COMPLETE (R514): the signatures of the round of a suite that unit `a` leads.  In the run on a third unit, which
`third` names, `sig1` is its signature. DESIGN CHOICE (log entry 68). -/
def execCrossCheckComplete (suite a third sig1 sig2 : Nat) (s : State) : Out :=
  done <| match s.rounds.find? fun r => r.suite == suite && r.a == a with
    | none => s
    | some r =>
      let k := suiteKind suite
      if r.stage = 3 then
        if !unitUp s k r.a then (if (unitOf s k r.a).isolated then setRound r none s else s)
        else if sig1 = sig2 then roPass suite r.b (roPass suite r.a (bump .CHK_RO_CNT 1 0 (setRound r none s)))
        else roConfirmed r s
      else if !unitUp s k r.a || !unitUp s k r.b then setRound r none s
      else if r.stage = 2 then
        if nextBay s (suiteBay suite r.b) != some (suiteBay suite third) || !unitUp s k third then s
        else if sig1 = r.sigB then roFailing r r.a r.b (roPass suite third (roPass suite r.b (setRound r none s)))
        else if sig1 = r.sigA then roFailing r r.b r.a (roPass suite third (roPass suite r.a (setRound r none s)))
        else roLog 5 2 suite r.a [r.b, third] (setEv .CHK_STAT 5 0 (setRound r none s))
      else if r.stage = 1 then
        if sig1 = sig2 then roTransient r s
        else setRound r (some { r with stage := 2, sigA := sig1, sigB := sig2, start := s.now }) s
      else if sig1 = sig2 then roPass suite r.b (roPass suite r.a (bump .CHK_RO_CNT 1 0 (setRound r none s)))
      else setRound r (some { r with stage := 1, start := s.now }) s

/-- ROUND_TIMEOUT (R513): a round not finished within 1 s is abandoned. -/
def execRoundTimeout (suite a : Nat) (s : State) : Out :=
  done <| match s.rounds.find? fun r => r.suite == suite && r.a == a && decide (r.start + 1000000000 ≤ s.now) with
    | none => s
    | some r => abandonRound r s

/-! ### Scan-pattern mode (R516, R517) -/

/-- A little-endian number of `n` bytes at offset `o` of the pattern area. -/
def scanAt (b : List Nat) (o n : Nat) : Nat := ((b.drop o).take n).foldr (fun x m => x + 256 * m) 0

/-- The pattern set: its header and digest are good. -/
def scanOk (b : List Nat) : Bool :=
  let len := scanAt b 0x10 8
  scanAt b 0 4 == 0x50323155 && (scanAt b 4 2 == 2 || scanAt b 4 2 == 3) && decide (80 ≤ len) && decide (len ≤ b.length) &&
  ((b.drop 0x18).take 48).foldl (fun m x => m * 256 + x) 0 == (Config.sha384 ((b.take len).drop 80)).toNat

/-- The records, as class, input and output format, flags, N and the data after the record's head. -/
def scanRecords : Nat → List Nat → List (Nat × Nat × Nat × Nat × Nat × List Nat)
  | 0, _ => []
  | n + 1, b =>
    let len := max 16 (scanAt b 8 4)
    (scanAt b 0 1, scanAt b 1 1, scanAt b 2 1, scanAt b 3 1, scanAt b 4 4, (b.take len).drop 16) :: scanRecords n (b.drop len)

/-- A record is run: its class is one of the five, in formats that the class takes, not in the earlier part's order. -/
def scanRuns (r : Nat × Nat × Nat × Nat × Nat × List Nat) : Bool :=
  let fi := r.2.1
  let fo := r.2.2.1
  !r.2.2.2.1.testBit 0 &&
  (match r.1 with
   | 1 => fi == 7 && fo == 7
   | 2 => fi == 7 && fo == 7
   | 3 => fi == 6 && fo == 7
   | 4 => fi == 2 && fo == 9
   | 5 => fi == 7 && (Fmt.ofCode fo).isSome
   | _ => false)

/-- Elements of a format, packed in bytes from offset `o`. DESIGN CHOICE (log entry 69). -/
def scanElems (f : Fmt) (n o : Nat) (b : List Nat) : List Nat :=
  let c := b.drop o
  (List.range n).map fun i => elemAt f (fun k => BitVec.ofNat 8 (c.getD k 0)) i

/-- Bytes that `n` elements take, padded to 8. DESIGN CHOICE (log entry 69). -/
def scanPad (f : Fmt) (n : Nat) : Nat := (elemBytes f n + 7) / 8 * 8

/-- The result of a record that is run, and the expected one. DESIGN CHOICE (log entry 69). -/
def scanResult (r : Nat × Nat × Nat × Nat × Nat × List Nat) : List Nat × List Nat :=
  let n := r.2.2.2.2.1
  let b := r.2.2.2.2.2
  let f := (Fmt.ofCode r.2.1).getD .fp32
  let g := (Fmt.ofCode r.2.2.1).getD .fp32
  let p := scanPad f n
  let x := scanElems f n 0 b
  let y := scanElems f n p b
  let d := fun w => decode .fp32 w
  let e := fun v => (encode .fp32 .rne v).1
  match r.1 with
  | 1 => (List.zipWith (fun xy z => e (fmaV .rne (d xy.1) (d xy.2) (d z)).1) (x.zip y) (scanElems f n (2 * p) b),
          scanElems g n (3 * p) b)
  | 2 => (List.zipWith (fun a c => (f32Add a c).1) x y, scanElems g n (2 * p) b)
  | 3 => ([f32Sum (List.zipWith (fun a c => (f32MulV (decode .bf16 a) (decode .bf16 c)).1) x y)], scanElems g 1 (2 * p) b)
  | 4 => ([toTwos 32 ((List.zipWith (fun a c => sxt 8 a * sxt 8 c) x y).sum)], scanElems g 1 (2 * p) b)
  | _ => (x.map fun a => (encode g .rne (d a)).1, scanElems g n p b)

/-- The unit of R475 on which a record's class runs. -/
def scanKind (r : Nat × Nat × Nat × Nat × Nat × List Nat) : Nat := if r.1 = 3 then 2 else 3

/-- A cluster with a mismatch is a scan finding against the unit concerned (R517, R514). DESIGN CHOICE (log entry 69). -/
def scanFinding (kind cl : Nat) (s : State) : State :=
  let s := enterFinding 4 kind cl 0 (tget 0 s.scanClean cl - 1) 0 0 0 6 s
  let s := logE { cls := 5, code := 7, sev := 3, kind := kind, index := cl, data := [0, 0, tget 0 s.scanClean cl - 1] } s
  roFailing { suite := if kind = 2 then 6 else 5 } cl cl s

/-- The pattern set runs on every enabled cluster of the partitions of PT_MASK; `bad` names the units, by KIND and cluster,
that gave other results than the operations of the records have. DESIGN CHOICE (log entry 64). -/
def runScan (bad : List (Nat × Nat)) (s : State) : State :=
  let rs := scanRecords (scanAt s.sil.scanData 8 4) (s.sil.scanData.drop 80)
  let run := rs.filter scanRuns
  let wrong := run.filter fun r => (scanResult r).1 != (scanResult r).2
  let mask := rf s .CHK_SCAN_CTRL 15 8
  let cls := (List.range 384).filter fun c => dieOn s (c / 48) && mask.testBit (ptOfDie s (c / 48))
  let fails := fun (k c : Nat) => unitUp s k c && (wrong.any (fun r => scanKind r == k) || bad.contains (k, c))
  let hit := cls.filter fun c => fails 2 c || fails 3 c
  let s := wr .CHK_SCAN_STAT 0 (BitVec.ofNat 32 (2 + min 255 hit.length * 2 ^ 8 +
    min 65535 (rs.length - run.length) * 2 ^ 16)) s
  let good := cls.filter fun c => !hit.contains c && unitUp s 2 c && unitUp s 3 c
  let s := { s with scanClean := foldS good (fun c m => tins m c (s.now + 1)) s.scanClean }
  let s0 := s
  foldS hit (fun c s => whenS (fails 3 c) (scanFinding 3 c) (whenS (fails 2 c) (scanFinding 2 c) s)) s0

/-- A write of CHK_SCAN_CTRL with START (R517): Silset checks header and digest, and the set runs.  A START while STATE is
RUNNING is ignored and logged. DESIGN CHOICE (log entry 19). -/
def scanWrite (src : Src) (value : Nat) (bad : List (Nat × Nat)) (s : State) : State :=
  let s := storeBlk src .CHK_SCAN_CTRL 0 value s
  if !value.testBit 0 then s
  else
    let s := wrf .CHK_SCAN_CTRL 0 0 0 0 s
    if rf s .CHK_SCAN_STAT 1 0 = 1 then logE { cls := 5, code := (Config.catalogue 5 0).toNat, sev := 2, source := (srcLog src).1, func := (srcLog src).2 } s
    else if scanOk s.sil.scanData then runScan bad s
    else logE { cls := 5, code := (Config.catalogue 5 2).toNat, sev := 2, source := 1 } (wrf .CHK_SCAN_STAT 1 0 3 0 s)

/-- SCAN_START (R517). DESIGN CHOICE (log entry 19). -/
def execScanStart (src : Src) (value : Word) (bad : List (Nat × Nat)) (s : State) : Out :=
  done (scanWrite src value.toNat bad s)

/-- BOOST_EXPIRY (R520): the boost of a partition ends. -/
def execBoostExpiry (pt : Nat) (s : State) : Out :=
  done <|
    if tget 0 s.boosts pt = 0 ∨ s.now + 1 < tget 0 s.boosts pt then s
    else
      let s := { accrueAll s with boosts := tdel s.boosts pt }
      wrf .CHK_STAT 16 16 (b2n (!s.boosts.isEmpty)) 0 s

end Sys2Proof.Machine
end

