-- ==== Sys2Proof/Machine/Clock.lean ====
section
/-! DEFINITION. Reference clocks, their checks and failures, and clock gating (R562 to R571). -/

namespace Sys2Proof.Machine

open Sys2Proof

/-! ### Safe states (R462, R566 to R568) -/

/-- The host link goes down: as an FLR of the physical function, and the link has to be trained again (R462). -/
def linkDown (s : State) : State :=
  if !s.pcie.linkUp then s else
  let s := flrPf s
  { s with pcie.linkUp := false }

/-- The logical ports of one Ethernet clock (R398, R562). -/
def clockPorts (eth : Nat) : List Nat := (List.range 16).map (16 * eth + ·)

/-- A logical port exists in the mode of its physical port. -/
def portMade (s : State) (p : Nat) : Bool := (createdPorts (p / 4) (rf s .NET_PORT_CFG 1 0 p)).contains p

/-- Ports lose their link: LINK reads `link`, and their queue pairs enter the error state. -/
def dropPorts (ps : List Nat) (link : Nat) (s : State) : State :=
  let s := foldS (ps.filter (portMade s)) (fun p s =>
    modLport p (fun x => { x with queue := [] }) (wrf .NET_PORT_STAT 1 0 link p s)) s
  qpErrors (fun q => ps.contains q.port) s

/-- Squelched ports train again where their clock runs. -/
def trainPorts (ps : List Nat) (s : State) : State :=
  foldS (ps.filter fun p => rf s .NET_PORT_STAT 1 0 p == 3) (fun p s => wrf .NET_PORT_STAT 1 0 (linkIdle s p) p s) s

/-- The contents of all four stacks are lost, and every channel is held (R566, R567). -/
def memFail (s : State) : State :=
  let s := loseHbm (List.range 64) s
  foldS (List.range 64) (fun c s => { s with hbm := tmod {} s.hbm c fun x => { x with state := 3 } }) s

/-- The channels are trained and zeroed, and what was lost stays lost (R567), as the shadow index says again (R296); those of a partition in reset wait for its completion (R566).
DESIGN CHOICE (log entry 71). -/
def memBack (s : State) : State :=
  let s := { zeroRange 0 0x1800000000 s with lost := s.lost }
  let s := foldS (s.shadow.filter fun e => e.2.state == 2) (fun e => putEntry e.2) s
  let s := foldS (List.range 64) (fun c s => { s with hbm := tmod {} s.hbm c fun x => { x with state := 1 } }) s
  channelsReady ((List.range 8).filter fun g => !inReset s 13 g) s

/-- The safe state of a source: 0 PCIe, 1 and 2 Ethernet, 3 memory (R566). -/
def safeState (src : Nat) (s : State) : State :=
  if src = 0 then linkDown s
  else if src = 1 then dropPorts (clockPorts 0) 3 s
  else if src = 2 then dropPorts (clockPorts 1) 3 s
  else if src = 3 then memFail s
  else s

/-- The crystal fails: every safe state, and the package is held in a cold reset with cause 12 (R568).
DESIGN CHOICE (log entry 71). -/
def xtalFail (st : Nat) (s : State) : State :=
  let s := foldS (List.range 4) safeState s
  let s := startCold 12 0xF 0 false s
  let s := wrf .CLK_STAT 14 12 st 0 { s with board.xtalHeld := true }
  logE { cls := 6, code := 3, sev := 4, data := [4, st] } s

/-! ### Source states (R563 to R566, R588) -/

/-- The state of a clock source, and its change. DESIGN CHOICE (log entry 70). -/
def clkState (s : State) (src : Nat) : Nat := rf s .CLK_STAT (3 * src + 2) (3 * src)
def setClk (src v : Nat) (s : State) : State := wrf .CLK_STAT (3 * src + 2) (3 * src) v 0 s

/-- What is kept of a source's checks, changed. -/
def modClk (src : Nat) (f : Clk → Clk) (s : State) : State := { s with clks := tmod {} s.clks src f }

/-- The nominal count of a source's window (R563). -/
def nominal (src : Nat) : Nat := if src = 4 then 25000 else if src = 1 ∨ src = 2 then 156250 else 100000

/-- A count lies in the window of R562. DEDUCED (log entry 88). -/
def clkInWindow (s : State) (src count : Nat) : Bool :=
  let n : Int := nominal src
  let d : Int := ((count : Int) - n) * 1000000
  let tol : Int := if src = 4 then 20000 else rf s .CLK_CTRL 9 0
  decide (d ≤ tol * n) && decide (-((tol + if src = 0 then 5000 else 0) * n) ≤ d)

/-- The deviation of a count in ppm, as CLK_MEAS shows it. DESIGN CHOICE (log entry 70). -/
def ppmOf (src count : Nat) : Int :=
  max (-32768) (min 32767 (rneRat ((((count : Int) - nominal src) * 1000000 : Int) / (nominal src : ℚ))))

/-- A source is LOST or FAILED: its event bit, the log, its safe state where it is not in it (R565, R587).
DESIGN CHOICE (log entry 70). -/
def clkFail (src st : Nat) (s : State) : State :=
  let before := clkState s src
  let s := setClk src st (modClk src (fun c => { c with good := 0, outs := 0, fell := true }) s)
  if before = 3 ∨ before = 4 then s
  else if src = 4 then xtalFail st s
  else safeState src (logE { cls := 6, code := 1, sev := 3, data := [src, st] } (setEv .CLK_EVT src 0 s))

/-- A source becomes VALID; one that had failed brings its logic back (R566, R568). DESIGN CHOICE (log entry 70). -/
def clkValid (src : Nat) (s : State) : State :=
  let back := clkState s src == 5
  let s := setClk src 2 (modClk src (fun c => { c with good := 0, outs := 0 }) s)
  if !back then s
  else if src = 1 ∨ src = 2 then
    whenS (!s.board.rails.contains 19 && !s.board.rails.contains 20) (trainPorts (clockPorts (src - 1))) s
  else if src = 3 then whenS (!s.board.rails.contains 21 && !s.board.rails.contains 22) memBack s
  else if src = 4 && s.board.xtalHeld then
    wrf .CLK_STAT 17 12 (2 + 2 * 8) 0 (startCold 12 0xF 0 false s)
  else s

/-- CLOCK_MEASUREMENT (R563 to R565): `count` edges of a source in a window; the crystal's is judged only while the RC
oscillator runs (R569), the others only against a VALID crystal. DESIGN CHOICE (log entry 70). -/
def execClockMeasurement (src count : Nat) (s : State) : Out :=
  done <|
    if 4 < src || (src == 4 && clkState s 5 == 3) || (decide (src < 4) && clkState s 4 != 2) then s
    else
      let s := whenS (src == 4 && clkState s 5 == 0) (setClk 5 2) s
      let s := modClk src (fun c => { c with dev := ppmOf src count }) s
      let st := clkState s src
      let c := tget {} s.clks src
      if st = 3 then clkFail src 4 s
      else if clkInWindow s src count then
        let need := if st = 4 ∨ st = 5 then 10 else 1
        let s := modClk src (fun c => { c with good := c.good + 1, outs := 0 }) s
        if st = 2 then s
        else if need ≤ c.good + 1 then clkValid src s
        else setClk src (if st = 4 ∨ st = 5 then 5 else 1) s
      else
        let s := logE { cls := 6, code := 2, sev := 2, data := [src, count] } (setEv .CLK_EVT 6 0 s)
        let s := modClk src (fun c => { c with good := 0, outs := c.outs + 1 }) s
        if 2 ≤ c.outs + 1 || st = 5 then clkFail src 4 s
        else whenS (st == 0) (setClk src 1) s

/-- CLOCK_EDGE_LOSS (R565): no edge of a source for 500 ns. -/
def execClockEdgeLoss (src : Nat) (s : State) : Out :=
  done (if 4 < src || clkState s src == 3 then s else clkFail src 3 s)

/-- RC_OSCILLATOR_LOSS (R569). -/
def execRcOscillatorLoss (s : State) : Out :=
  done (logE { cls := 6, code := 4, sev := 2 } (setEv .CLK_EVT 5 0 (setClk 5 3 s)))

/-- RC_OSCILLATOR_RECOVERED (R569). -/
def execRcOscillatorRecovered (s : State) : Out := done (if clkState s 5 = 3 then setClk 5 2 s else s)

/-! ### Clock gating (R570, R571, R606) -/

/-- The registers of the ports that a gated Ethernet clock takes with it (R570). -/
def portRegs : List Reg := allRegs.filter fun r => r.desc.win == .blk 3 && decide (0x24 ≤ r.desc.off) && decide (r.desc.off ≤ 0x74)

/-- The registers of a block return to their reset values. -/
def resetBlk (n : Nat) (s : State) : State := resetAllRegs (allRegs.filter fun r => r.desc.win == .blk n) s

/-- A peripheral's clock stops; the DBG block first releases every halt and disarms every breakpoint (R631).
DESIGN CHOICE (log entry 71). -/
def gateOff (b : Nat) (s : State) : State :=
  if b < 2 then dropPorts (clockPorts b) 0 s
  else if b = 2 then { s with madc := {} }
  else if b = 4 then
    let w := s.dbg.waiting
    let s := whenS (s.dbg.halting != 0) (logE { cls := 0x0B, code := (Config.catalogue 0x0B 1).toNat, sev := 1, source := 2 }) s
    let s := letGo (fun _ => true) { s with dbg := { s.dbg with halting := 0, stepping := 0 } }
    resetBlk 15 { s with dbg := { warmDbg s.dbg with released := s.dbg.released, waiting := w } }
  else s

/-- A peripheral's clock runs again: it resumes from its reset state, and its ports train. DESIGN CHOICE (log entry 71). -/
def gateOn (b : Nat) (s : State) : State :=
  if b < 2 then
    let s := fuseMacs (clockPorts b) (clearRegs (portRegs.filter fun r => r != .NET_PORT_SEL) (fun i => (clockPorts b).contains i) s)
    foldS ((clockPorts b).filter (portMade s)) (fun p s => wrf .NET_PORT_STAT 1 0 (linkIdle s p) p s) s
  else if b = 2 then resetBlk 14 { s with madc := {} }
  else s

/-- A write of CLK_GATE: clocks stop and start, and PD20 follows the Ethernet clocks (R570, R572). -/
def clkGateWrite (src : Src) (v : Nat) (s : State) : State :=
  let old := rf s .CLK_GATE 4 0
  let s := storeBlk src .CLK_GATE 0 v s
  let new := rf s .CLK_GATE 4 0
  let s := foldS ((List.range 5).filter fun b => old.testBit b && !new.testBit b) gateOff s
  let s := foldS ((List.range 5).filter fun b => !old.testBit b && new.testBit b) gateOn s
  whenS (tget 0 s.pd 20 != 2 && pdOn s 20 != pdWant s 20 && decide (3 ≤ phase s)) (pdSwitch 20) s

/-- CLK_GATE_WRITE (R570, R571). -/
def execClkGateWrite (src : Src) (value : Word) (s : State) : Out := done (clkGateWrite src value.toNat s)

end Sys2Proof.Machine
end

