-- ==== Sys2Proof/Machine/Power.lean ====
section
/-! DEFINITION. The power governor, the regulator control bus, power domains and partition power (R45 to R50, R572 to R577,
R640). -/

namespace Sys2Proof.Machine

open Sys2Proof

/-! ### The regulator control bus (R640) -/

/-- The present VCORE code of a die; every regulator starts at code 6. -/
def vcodeOf (s : State) (d : Nat) : Nat := tget 6 s.vcode d

/-- One bit into a CRC-8 with polynomial 0x07. PRESUMED (log entry 8). -/
def crc8Bit (c : Nat) (b : Bool) : Nat := let f := (c.testBit 7) != b; Nat.xor (c * 2 % 256) (if f then 7 else 0)

/-- A frame of the bus: RAIL, CODE, zero, CRC over bits [23:8]. -/
def vrFrame (rail code : Nat) : Nat :=
  let h := rail * 2 ^ 12 + code * 2 ^ 8
  h * 256 + ((List.range 16).map fun i => h.testBit (15 - i)).foldl crc8Bit 0

/-- Every rail's present code is sent; code 6 while PERST_N is low. -/
def sendCodes (s : State) : State :=
  let s := foldS (List.range 8) (fun d s => emit (.vrFrame (vrFrame d (if s.board.perst then 6 else vcodeOf s d))) s) s
  emit (.vrFrame (vrFrame 8 6)) s

/-- VR_CODE_REPEAT (R640): once each millisecond, from the crystal. -/
def execVrCodeRepeat (s : State) : Out := done (if s.board.xtalHeld then s else sendCodes s)

/-- VR_ALERT (R640, R649). -/
def execVrAlert (s : State) : Out :=
  done (sendCodes (signalVec .HUB_BRD_VEC (logE { cls := 6, code := 0x10, sev := 2 } (setEv .HUB_BRD_EVT 5 0 s))))

/-! ### The governor (R47 to R50, R575 to R577) -/

/-- A sensed power in 1/8 W as it enters the projections: raised by 1 % plus 0.5 W, in 1/800 W (R575).
DESIGN CHOICE (log entry 21). -/
def raised (p : Nat) : Nat := 101 * p + 400

/-- Governor steps leave the die alone: it is fenced for reset, or its state is disputed (R50).
DESIGN CHOICE (log entry 72). -/
def dieHeld (s : State) (d : Nat) : Bool :=
  let p := unitOf s 10 (ptOfDie s d)
  p.reasons.testBit 1 || p.inReset || s.units.any fun e =>
    e.2.reasons.testBit 5 && (decide (e.1 / 2 ^ 16 ≤ 9) && dieOfUnit (e.1 / 2 ^ 16) (e.1 % 2 ^ 16) == d ||
      e.1 == ukey 10 (ptOfDie s d)) ||
    (e.1 == ukey 9 d && e.2.reasons.testBit 1)

/-- The dies the governor acts on. -/
def govDies (s : State) : List Nat := (List.range 8).filter fun d => dieOn s d && !dieHeld s d

/-- The pool of a die shrinks or grows by 93 tokens (R46, R48). DEDUCED (log entry 22). -/
def poolStep (up : Bool) (d : Nat) (s : State) : State :=
  modPool d (fun p => { p with size := if up then min 1488 (p.size + 93) else max 93 (p.size - 93) }) s

/-- VCORE of dies steps by 10 mV; one broadcast frame where every die then has the same code (R48, R640).
DEDUCED (log entry 22). -/
def vcoreStep (up : Bool) (ds : List Nat) (s : State) : State :=
  let s := foldS ds (fun d s =>
    { s with vcode := tset 6 s.vcode d (if up then min 12 (vcodeOf s d + 1) else vcodeOf s d - 1) }) s
  let codes := ((List.range 8).filter (dieOn s)).map (vcodeOf s)
  if codes.all fun c => c == codes.headD 6 then emit (.vrFrame (vrFrame 15 (codes.headD 6))) s
  else foldS ds (fun d s => emit (.vrFrame (vrFrame d (vcodeOf s d))) s) s

/-- A governor step is counted. -/
def govCount (up : Bool) (s : State) : State :=
  if up then wrf .PWR_GOV_CNT 31 16 (rf s .PWR_GOV_CNT 31 16 + 1) 0 s else wrf .PWR_GOV_CNT 15 0 (rf s .PWR_GOV_CNT 15 0 + 1) 0 s

/-- The package budget in force, in W: the smaller of PKG and THERM_BUDGET under R577. DESIGN CHOICE (log entry 21). -/
def pkgBudget (s : State) : Nat :=
  let p := rf s .PWR_BUDGET 9 0
  if rb s .HUB_BRD_IN 1 || s.board.brdAct != 0 then min p (rf s .PWR_CTRL 9 0) else p

/-- The one step of a sample (R48), after which a VCORE above its set point follows it.
DESIGN CHOICE (log entry 21). DEDUCED (log entry 22). -/
def govStep (arr pkg : Bool) (calm : Bool) (vana : List Nat) (s : State) : State :=
  let ds := govDies s
  let share := rf s .PWR_BUDGET 25 16 * 800
  let n := ((List.range 8).filter (dieOn s)).length
  if arr then
    let hit := ds.filter fun d => decide (share < raised (vana.getD d 0) * n) && decide (93 < (poolOf s d).size)
    if hit.isEmpty then s else govCount false (foldS hit (poolStep false) s)
  else if pkg then
    let low := ds.filter fun d => decide (0 < vcodeOf s d)
    let big := ds.filter fun d => decide (93 < (poolOf s d).size)
    if !low.isEmpty then govCount false (vcoreStep false low s)
    else if !big.isEmpty then govCount false (foldS big (poolStep false) s)
    else s
  else
    let set := rf s .PWR_CTRL 15 12
    let above := ds.filter fun d => decide (set < vcodeOf s d)
    let below := ds.filter fun d => decide (vcodeOf s d < set)
    if !above.isEmpty then govCount false (vcoreStep false above s)
    else if !calm then s
    else if !below.isEmpty then govCount true (vcoreStep true below s)
    else match ds.find? fun d => decide ((poolOf s d).size < 1488) with
      | some d => govCount true (poolStep true d s)
      | none => s

/-- Both floors of R48 are held. DEDUCED (log entry 22). -/
def atFloors (s : State) : Bool := (govDies s).all fun d => vcodeOf s d == 0 && (poolOf s d).size == 93

/-- GOVERNOR_SAMPLE (R48, R575): sensed powers in 1/8 W: VANA and VCORE of each die, VPROG, and the other rails.
DESIGN CHOICE (log entries 21, 87). -/
def execGovernorSample (vana vcore : List Nat) (vprog : Nat) (others : List Nat) (s : State) : Out :=
  done <|
    if s.board.xtalHeld then s
    else
      let on := (List.range 8).filter (dieOn s)
      let arrS := (on.map fun d => vana.getD d 0).sum + vprog
      let pkgS := arrS + (on.map fun d => vcore.getD d 0).sum + others.sum
      let arrR := (on.map fun d => raised (vana.getD d 0)).sum + raised vprog
      let pkgR := arrR + (on.map fun d => raised (vcore.getD d 0)).sum + (others.map raised).sum
      let g := s.gov
      let hist := ((pkgS, arrS) :: g.hist).take 100
      let left := 100 - g.n
      let arrP := g.arr + arrR * left
      let pkgP := g.pkg + pkgR * left
      let arrB := rf s .PWR_BUDGET 25 16 * 80000
      let pkgB := pkgBudget s * 80000
      let calm := if arrP + 1600000 ≤ arrB ∧ pkgP + 1600000 ≤ pkgB then g.calm + 1 else 0
      let isOver := decide (arrB < arrP) || decide (pkgB < pkgP)
      let floor := if isOver && atFloors s then g.floor + 1 else 0
      let s := whenS (rb s .HUB_BRD_IN 1 && !g.therm) (setEv .PWR_EVT 1 0) s
      let s := whenS (s.board.brdAct != 0 && !g.brd) (setEv .PWR_EVT 3 0) s
      let g : Gov := { n := if left = 1 then 0 else g.n + 1, pkg := if left = 1 then 0 else g.pkg + pkgR,
                       arr := if left = 1 then 0 else g.arr + arrR, calm := calm, floor := floor, hist := hist,
                       therm := rb s .HUB_BRD_IN 1, brd := s.board.brdAct != 0 }
      let k := hist.length
      let s := wr .PWR_NOW 0 (BitVec.ofNat 32 ((hist.map (·.1)).sum / k % 65536 + (hist.map (·.2)).sum / k % 65536 * 65536))
        { s with gov := g }
      let s := whenS (floor == 100) (fun s => logE { cls := 6, code := 0xE, sev := 2, data := [pkgS, arrS] } (setEv .PWR_EVT 2 0 s)) s
      govStep (decide (arrB < arrP)) (decide (pkgB < pkgP)) (decide (10 ≤ calm)) vana s

/-! ### Power domains and partition power (R572 to R574, R587) -/

/-- The partitions whose sequence a domain belongs to. -/
def pdPts (s : State) (n : Nat) : List Nat :=
  (List.range 8).filter fun p => ptExists s p && ((pdAna s p).contains n || (pdDig s p).contains n || (pdBuf s p).contains n)

/-- DOMAIN_SWITCH_DONE (R572, R587): a domain has reached its state, or has not within 2 ms. DESIGN CHOICE (log entry 72). -/
def execDomainSwitchDone (n : Nat) (ok : Bool) (s : State) : Out :=
  done <|
    if tget 0 s.pd n != 2 then s
    else if ok then
      foldS (pdPts s n) pdAdvance { s with pd := tset 0 s.pd n (b2n (pdWant s n)) }
    else
      let s := foldS (pdPts s n) (fun p => placeReason 10 p 2) s
      let s := logE { cls := 6, code := 0xD, sev := 3, data := [n] } s
      startWarm 8 10 ((pdPts s n).headD 0) true s

/-- A power-down request is refused (R573). -/
def pdRefused (s : State) (pt : Nat) : Bool :=
  !ptExists s pt || s.ctxs.any (fun e => e.1 / 32 == pt && (e.2.active.isSome || e.2.staged.isSome)) ||
  s.cmds.any fun e => e.2.ctx / 32 == pt

/-- One bit of PWR_PT_REQ has changed: the request is acted on, held while the partition switches, or refused. -/
def ptReqBit (old pt : Nat) (s : State) : State :=
  let off := rb s .PWR_PT_REQ pt
  if off == old.testBit pt then s
  else if off && pdRefused s pt then
    logE { cls := 6, code := 0xC, sev := 1, pt := pt } (setEv .PWR_EVT 0 0 (wrf .PWR_PT_REQ pt pt 0 0 s))
  else if tget 0 s.ptPower pt = 2 then s
  else if off then (if tget 0 s.ptPower pt = 0 then powerDown pt s else s)
  else if tget 0 s.ptPower pt = 1 then pdAdvance pt s
  else s

/-- A write of PWR_PT_REQ. -/
def ptReqWrite (src : Src) (v : Nat) (s : State) : State :=
  let old := rf s .PWR_PT_REQ 7 0
  let s := storeBlk src .PWR_PT_REQ 0 v s
  foldS (List.range 8) (ptReqBit old) s

/-- PARTITION_POWER_DOWN (R573). DESIGN CHOICE (log entry 72). -/
def execPartitionPowerDown (src : Src) (value : Word) (s : State) : Out := done (ptReqWrite src value.toNat s)

/-- PARTITION_POWER_UP (R574). DESIGN CHOICE (log entry 72). -/
def execPartitionPowerUp (src : Src) (value : Word) (s : State) : Out := done (ptReqWrite src value.toNat s)

end Sys2Proof.Machine
end

