-- ==== Sys2Proof/Machine/Thermal.lean ====
section
/-! DEFINITION. Thermometers, bay temperatures, cone limits, board channels and the hardware trip (R173, R174, R578 to R586). -/

namespace Sys2Proof.Machine

open Sys2Proof

/-! ### Thermometers (R578, R579) -/

/-- The thermometers of the same bay, buffer die or hub. -/
def thermoGroup (i : Nat) : List Nat :=
  if i < 192 then (List.range 4).map (i / 4 * 4 + ·)
  else if i < 224 then (List.range 8).map (192 + (i - 192) / 8 * 8 + ·)
  else (List.range 12).map (224 + ·)

/-- A thermometer lies on an enabled part of the package. -/
def thermoHere (s : State) (i : Nat) : Bool := decide (192 ≤ i) || dieOn s (i / 24)

/-- A thermometer's record. -/
def thermoOf (s : State) (i : Nat) : Thermo := tget {} s.thermos i

/-- A thermometer takes part in medians, rates, cones and trips. -/
def Thermo.good (t : Thermo) : Bool := t.valid && !t.suspect

/-- Insertion into a rising list. -/
def insertInt (x : Int) : List Int → List Int
  | [] => [x]
  | y :: ys => if x ≤ y then x :: y :: ys else y :: insertInt x ys

/-- The temperatures of the good thermometers of a list, in 1/64 °C, rising. -/
def goodTemps (s : State) (is : List Nat) : List Int :=
  ((is.filter fun i => (thermoOf s i).good).map fun i => (thermoOf s i).temp * 4).foldr insertInt []

/-- The median of a rising list: of an even number the mean of the two in the middle. -/
def medianInt (xs : List Int) : Option Int :=
  let n := xs.length
  if n = 0 then none else some ((xs.getD ((n - 1) / 2) 0 + xs.getD (n / 2) 0) / 2)

/-- A new reading is compared with the median of its good neighbours, as marked at the sample before; ten deviating samples
make a thermometer suspect, 10,000 good ones remove the mark (R579). -/
def judgeThermo (s : State) (i : Nat) (t : Thermo) : Thermo :=
  if !t.valid then { t with run := 0 } else
  match medianInt (goodTemps s ((thermoGroup i).filter (· != i))) with
  | none => t
  | some m =>
    let far := decide (384 < (t.temp * 4 - m).natAbs)
    if far == t.suspect then { t with run := 0 }
    else if t.suspect then
      (if 10000 ≤ t.run + 1 then { t with suspect := false, run := 0 } else { t with run := t.run + 1 })
    else if 10 ≤ t.run + 1 then { t with suspect := true, run := 0 } else { t with run := t.run + 1 }

/-- A PLATFORM entry of the kiln log about a unit. -/
def platLog (code sev kind index : Nat) (data : List Nat) (s : State) : State :=
  logE { cls := 6, code := code, sev := sev, kind := kind, index := index, data := data } s

/-- All four thermometers of a bay are out. DESIGN CHOICE (log entry 73). -/
def bayBlind (s : State) (bay : Nat) : Bool := (goodTemps s (thermoGroup (bay * 4))).isEmpty

/-- The readings of a sample are taken, and the suspect marks follow. -/
def readThermos (temps : List (Option Int)) (s : State) : State :=
  let t := foldS (List.range 236) (fun i t =>
    let r := if thermoHere s i then temps.getD i none else none
    { t with thermos := tmod {} t.thermos i fun x => { x with temp := r.getD x.temp, valid := r.isSome } }) s
  let u := { t with thermos := foldS (List.range 236) (fun i m => tset {} m i (judgeThermo t i (thermoOf t i))) t.thermos }
  let new := (List.range 236).filter fun i => (thermoOf u i).suspect && !(thermoOf s i).suspect
  let u := foldS new (fun i u => platLog 5 2 0xF i [i, toTwos 12 (thermoOf u i).temp] (setEv .THM_STAT 3 0 u)) u
  let blind := (List.range 48).filter fun b => dieOn s (b / 6) && bayBlind u b && !bayBlind s b
  let u := foldS blind (fun b => platLog 5 2 8 b []) u
  wrf .THM_STAT 15 8 ((List.range 236).filter fun i => thermoHere s i && !(thermoOf u i).good).length 0 u

/-- The temperature of a bay in 1/64 °C: of its good thermometers, or of those of the die (R173).
DESIGN CHOICE (log entry 73). -/
def bayTempOf (s : State) (bay : Nat) : Option Int :=
  medianInt (goodTemps s (thermoGroup (bay * 4))) <|> medianInt (goodTemps s ((List.range 24).map (bay / 6 * 24 + ·)))

/-! ### Cone limits (R580 to R584) -/

/-- A threshold of THM_CTRL is reached: thresholds count tenths of a degree per millisecond, rises 1/64 °C. -/
def coneHit (rise : Int) (thr : Nat) : Bool := decide ((thr : Int) * 64 ≤ 10 * rise)

/-- The level that the last HOLD_MS milliseconds give. DESIGN CHOICE (log entry 73). -/
def coneLevel (s : State) (c : Cone) : Nat :=
  let h := rf s .THM_CTRL 31 24 * 1000000
  let in_ := fun (t : Nat) => t != 0 && decide (s.now < t - 1 + h)
  if in_ c.atC then 3 else if in_ c.atB then 2 else if in_ c.atA then 1 else 0

/-- A bay enters a higher level (R582). DESIGN CHOICE (log entry 73). -/
def coneEnter (bay level : Nat) (s : State) : State :=
  let s := platLog (5 + level) (if level = 1 then 2 else 3) 8 bay [tget 0 s.bayRate bay |> toTwos 16] (setEv .THM_STAT (level - 1) 0 s)
  let s := whenS (decide (2 ≤ level)) (signalVec .THM_EVT_VEC) s
  whenS (level == 3) (placeReason 8 bay 4) s

/-- An event of THM_STAT for as long as its condition holds; the vector is signalled when its bit becomes 1 (R584, R585, R595).
DESIGN CHOICE (log entry 73). -/
def thmEvent (b : Nat) (s : State) : State :=
  whenS (!rb s .THM_STAT b) (signalVec .THM_EVT_VEC) (setEv .THM_STAT b 0 s)

/-- The bay's tile-layers are marked for a refresh, above 85 °C, and OVERBAKE is set; the log takes an entry when the bay goes above
it (R180, R188). DESIGN CHOICE (log entry 73). -/
def markHot (bay : Nat) (crossed : Bool) (s : State) : State :=
  let s := foldS (validTls s bay) (fun tl => modTl (tl / 4) (tl % 4) fun x => { x with due := true }) (setEv .CAL_STAT 23 0 s)
  whenS crossed (logE { cls := 4, code := 9, sev := 3, kind := 8, index := bay, data := [toTwos 16 (tget 0 s.bayT bay)] }) s

/-- A sample of a bay: temperature, rate, cone level, the temperature trigger of a soak, the warning (R174, R580 to R584).
DESIGN CHOICE (log entry 73). -/
def sampleBay (bay : Nat) (s : State) : State :=
  match bayTempOf s bay with
  | none => s
  | some t =>
    let c := tget {} s.cones bay
    let rise := if 10 ≤ c.hist.length then t - c.hist.getD 9 0 else 0
    let at_ := fun (hi lo old : Nat) => if coneHit rise (rf s .THM_CTRL hi lo) then s.now + 1 else old
    let c' : Cone := { hist := (t :: c.hist).take 10, atA := at_ 7 0 c.atA, atB := at_ 15 8 c.atB, atC := at_ 23 16 c.atC }
    let before := tget 0 s.cone bay
    let last := tget 0 s.bayT bay
    let s := { s with cones := tset {} s.cones bay c', bayT := tset 0 s.bayT bay t, bayRate := tset 0 s.bayRate bay rise }
    let level := coneLevel s c'
    let s := { s with cone := tset 0 s.cone bay level }
    let s := whenS (decide (before < level)) (coneEnter bay level) s
    let w : Int := rf s .THM_CTRL2 15 8 * 64
    let s := whenS (decide (w < t)) (thmEvent 4) s
    let s := whenS (decide (w < t) && !decide (w < last)) (platLog 9 2 8 bay [toTwos 16 t]) s
    let s := whenS (decide (85 * 64 < t)) (markHot bay (decide (last ≤ 85 * 64))) s
    let dt : Int := rf s .CAL_CTRL 13 8 * 32
    whenS (decide (dt < (t - (tget {} s.cal bay).tcal).natAbs) && digOn s (bay / 6)) (requestSoak bay false) s

/-! ### The hardware trip (R586) -/

/-- Two good thermometers of a group exceed 115 °C. -/
def tripFires (s : State) : Bool :=
  (List.range 236).any fun i =>
    decide (2 ≤ ((thermoGroup i).filter fun j => (thermoOf s j).good && decide (115 * 16 < (thermoOf s j).temp)).length)

/-- THERMTRIP_N is asserted, PD00 to PD22 go off without fence or drain, and cause 11 is recorded.
DESIGN CHOICE (log entry 73). -/
def trip (s : State) : State :=
  if s.board.tripped then s
  else
    let s := linkDown s
    let s := warmBase s
    let s := wrf .HUB_BOOT_STAT 4 4 0 0 (wrf .RST_WARM_CAUSE 4 0 11 0 s)
    platLog 0xB 4 0xF 0 [] (emit (.pin .thermtripN false) { s with board.tripped := true, board.cause := 11 })

/-- Every VALID hub thermometer reads below 95 °C. -/
def hubCool (s : State) : Bool := (thermoGroup 224).all fun i => !(thermoOf s i).valid || decide ((thermoOf s i).temp < 95 * 16)

/-- PERST_N, asserted on a cool hub, releases a thermal trip: a cold reset follows (R586). -/
def tripRelease (s : State) : State :=
  if s.board.tripped && s.board.perst && hubCool s then
    startCold 11 0xF 0 false (emit (.pin .thermtripN true) s)
  else s

/-- THERMOMETER_SAMPLE (R579 to R586): the readings of all thermometers in sixteenths of a degree, none where one gives no
reading. DESIGN CHOICE (log entry 87). -/
def execThermometerSample (temps : List (Option Int)) (s : State) : Out :=
  done <|
    let s := readThermos temps s
    if s.board.tripped && s.board.perst && hubCool s then tripRelease s
    else if tripFires s then trip s
    else foldS ((List.range 48).filter fun b => dieOn s (b / 6)) sampleBay s

/-- THERMAL_RELEASE_EXPIRY (R583): no rate of the bay has reached CONE_A for C_HOLD × 10 ms. -/
def execThermalReleaseExpiry (bay : Nat) (s : State) : Out :=
  done <|
    let c := tget {} s.cones bay
    if (unitOf s 8 bay).reasons.testBit 4 && decide (c.atA - 1 + rf s .THM_CTRL2 7 0 * 10000000 ≤ s.now) then
      removeReason 8 bay 4 { s with cone := tdel s.cone bay, cones := tset {} s.cones bay { hist := c.hist } }
    else s

/-! ### Board channels (R585, R603) -/

/-- ln 2 and ln 16 to 40 decimal places. -/
def ln2 : ℚ := 6931471805599453094172321214581765680755 / 10 ^ 40

/-- The series of artanh, `n` terms. DESIGN CHOICE (log entry 74). -/
def artanhSum (z : ℚ) : Nat → ℚ
  | 0 => 0
  | n + 1 => artanhSum z n + z ^ (2 * n + 1) / (2 * n + 1 : ℚ)

/-- The natural logarithm of a positive fraction, to better than 10^-20. DESIGN CHOICE (log entry 74). -/
def lnQ (n d : Nat) : ℚ :=
  let k := floorLog2 n d
  let m := scale2 n d k
  let x : ℚ := (m.1 : ℚ) / m.2
  (k : ℚ) * ln2 + 2 * artanhSum ((x - 1) / (x + 1)) 22

/-- The temperature of a board channel in °C from its code (R603); none where a thermistor's resistance is beyond any
temperature. DESIGN CHOICE (log entry 74). -/
def boardTemp (mode code par : Nat) : Option ℚ :=
  if mode = 1 then
    some ((code : ℚ) * 3125 / 100 / ((1 + (bitsOf par 7 0 : ℚ) / 1000) * (8617 / 100) * (4 * ln2)) - 27315 / 100)
  else if code = 0 then none
  else
    let inv : ℚ := 100 / 29815 + lnQ (5 * code) (100 * bitsOf par 17 8) / (bitsOf par 30 18 : ℚ)
    if inv ≤ 0 then none else some (1 / inv - 27315 / 100)

/-- The flags of a board channel's last reading: above HI, and above it with ACT. DESIGN CHOICE (log entry 74). -/
def setBrd (n : Nat) (hi : Bool) (s : State) : State :=
  let b := { s.board with brdHi := setBits s.board.brdHi n n (b2n hi),
                          brdAct := setBits s.board.brdAct n n (b2n (hi && rb s .THM_BRD 2 n)) }
  { s with board := b }

end Sys2Proof.Machine
end

