-- ==== Sys2Proof/Machine/Board.lean ====
section
/-! DEFINITION. Board inputs, supplies and start-up (R638 to R650). -/

namespace Sys2Proof.Machine

open Sys2Proof

/-! ### Resets from the board (R586, R645, R648) -/

/-- PERST_N holds everything but PD23 in reset: a warm reset, or, where a start-up runs, one that begins again at HOST.
DESIGN CHOICE (log entry 76). -/
def perstReset (s : State) : State :=
  if s.board.tripped then tripRelease s
  else if s.pkg.coldRunning then (if phase s ≤ 2 ∨ phase s = 8 then s else holdPackage 2 s)
  else if s.pkg.warmRunning then holdPackage 3 s
  else startWarm 10 0xF 0 false s

/-! ### Filtered inputs (R644, R645) -/

/-- The filtered level of an input: 0 ALERT_IN_N, 1 THERM_IN_N, 2 PERST_N. -/
def inputLevel (s : State) (i : Nat) : Bool := if i = 2 then s.board.perst else rb s .HUB_BRD_IN i

/-- An input is masked as stuck. -/
def inputMasked (s : State) (i : Nat) : Bool := decide (i < 2) && rb s .HUB_BRD_IN (2 + i)

/-- What an accepted change of an input does; PERST_N is entered like the other faults of R649. DESIGN CHOICE (log entries 6, 76). -/
def inputAct (i : Nat) (level : Bool) (s : State) : State :=
  if i = 2 then
    if level then platLog (Config.catalogue 6 0).toNat 1 0xF 0 [] (perstReset { s with board.perst := true })
    else let s := tripRelease s
         { s with board.perst := false }
  else
    let s := wrf .HUB_BRD_IN i i (b2n level) 0 s
    if !level then s
    else
      let s := setEv .HUB_BRD_EVT i 0 s
      let s := if i = 0 then platformEvent 0 [1] (platLog 0x12 2 0xF 0 [] s) else s
      signalVec .HUB_BRD_VEC s

/-- A change of an input passes the first stage: it is accepted, or deferred to the end of a hold (R644).
DESIGN CHOICE (log entry 84). -/
def inputChange (i : Nat) (level : Bool) (s : State) : State :=
  if inputMasked s i then (if level then s else wrf .HUB_BRD_IN (2 + i) (2 + i) 0 0 s)
  else if s.board.holding.contains i then
    let b := { s.board with deferred := tins s.board.deferred i (b2n level + 1) }
    platLog 0x11 2 0xF 0 [i] (setEv .HUB_BRD_EVT 3 0 { s with board := b })
  else if inputLevel s i == level then s
  else
    let s := inputAct i level s
    { s with board.holding := i :: s.board.holding }

/-- PERST_N_ASSERT (R645). -/
def execPerstNAssert (s : State) : Out := done (inputChange 2 true s)

/-- PERST_N_RELEASE (R645). -/
def execPerstNRelease (s : State) : Out := done (inputChange 2 false s)

/-- ALERT_IN_ASSERT (R645). -/
def execAlertInAssert (s : State) : Out := done (inputChange 0 true s)

/-- ALERT_IN_RELEASE (R644). -/
def execAlertInRelease (s : State) : Out := done (inputChange 0 false s)

/-- THERM_IN_ASSERT (R577, R645). -/
def execThermInAssert (s : State) : Out := done (inputChange 1 true s)

/-- THERM_IN_RELEASE (R577). -/
def execThermInRelease (s : State) : Out := done (inputChange 1 false s)

/-- BOARD_INPUT_HOLD_EXPIRY (R644): a deferred change takes effect if the input still shows it.
DESIGN CHOICE (log entry 84). -/
def execBoardInputHoldExpiry (i : Nat) (still : Bool) (s : State) : Out :=
  done <|
    if !s.board.holding.contains i then s
    else
      let d := tget 0 s.board.deferred i
      let b := { s.board with holding := s.board.holding.erase i, deferred := tdel s.board.deferred i }
      let s := { s with board := b }
      whenS (d != 0 && still) (inputChange i (d == 2)) s

/-- BOARD_INPUT_STUCK (R644): ALERT_IN_N or THERM_IN_N active for more than 1 s. -/
def execBoardInputStuck (i : Nat) (s : State) : Out :=
  done (if 2 ≤ i || !rb s .HUB_BRD_IN i then s
    else signalVec .HUB_BRD_VEC (platLog 0x11 2 0xF 0 [i] (setEv .HUB_BRD_EVT 4 0
      (wrf .HUB_BRD_IN i i 0 0 (wrf .HUB_BRD_IN (2 + i) (2 + i) 1 0 s)))))

/-- BOARD_INPUT_GLITCH (R644). -/
def execBoardInputGlitch (i : Nat) (s : State) : Out := done (platLog 0x11 2 0xF 0 [i] (setEv .HUB_BRD_EVT 2 0 s))

/-! ### Supplies (R161, R637, R649) -/

/-- None of the rails is down: 0 to 7 VCORE_Dd, 8 VCORE_H, 9 to 16 VANA_Dd, 17 VPROG, 18 VIO, 19 and 20 VSERDES, 21 and 22 HBM.
DESIGN CHOICE (log entry 76). -/
def railsOk (s : State) (rs : List Nat) : Bool := !rs.any fun r => s.board.rails.contains r

/-- Program operations halt for a fault of VPROG (R161, R188). -/
def haltProgs (s : State) : State :=
  foldS (s.progs.filter fun e => e.2.kind != 2) (fun e s =>
    if rowRunning s e.1 then setProg e.1 { e.2 with stop := true } s else haltProg e.1 e.2 s)
    (whenS (s.progs.any fun e => e.2.kind != 2) (setEv .CAL_STAT 17) s)

/-- The partitions that hold a die. -/
def railPts (s : State) (r : Nat) : List Nat :=
  let d := if r < 8 then r else r - 9
  if dieOn s d then [ptOfDie s d] else []

/-- SUPPLY_UNDERVOLTAGE (R649): a rail has been below its trip for 20 µs. -/
def execSupplyUndervoltage (r : Nat) (s : State) : Out :=
  done <|
    if s.board.rails.contains r then s
    else
      let s := { s with board.rails := r :: s.board.rails }
      let s := if r = 8 ∨ r = 18 then wrf .HUB_BOOT_STAT 3 0 8 0 (startCold 14 0xF 0 false s)
        else if r < 17 then foldS (railPts s r) (fun p s => if tget 0 s.ptPower p = 0 then powerDown p s else s) s
        else if r = 17 then haltProgs s
        else if r < 21 then foldS (List.range 3) safeState s
        else memFail s
      signalVec .HUB_BRD_VEC (platLog 0xF 3 0xF 0 [r] (setEv .HUB_BRD_EVT 6 0 s))

/-- SUPPLY_RECOVERED (R639, R649): a rail has been in window for 10 ms. -/
def execSupplyRecovered (r : Nat) (s : State) : Out :=
  done <|
    if !s.board.rails.contains r then s
    else
      let s := { s with board.rails := s.board.rails.filter (· != r) }
      if phase s = 8 then whenS s.board.rails.isEmpty (wrf .HUB_BOOT_STAT 3 0 1 0) s
      else if r < 17 ∧ r ≠ 8 then foldS (railPts s r) (fun p s => whenS (tget 0 s.ptPower p == 1) (pdAdvance p) s) s
      else if r = 19 ∨ r = 20 then
        if railsOk s [19, 20] then
          foldS ((List.range 2).filter fun i => clkState s (1 + i) == 2) (fun i => trainPorts (clockPorts i)) s
        else s
      else if r = 21 ∨ r = 22 then whenS (railsOk s [21, 22] && clkState s 3 == 2) memBack s
      else s

/-! ### Start-up (R647, R648) -/

/-- POWER_ON (R638, R639, R643, R647): PD23 leaves power-on reset with the straps sampled; `late` names rails that are not in
their windows, because their order broke R638. DESIGN CHOICE (log entry 76). -/
def execPowerOn (strap : Nat) (late : List Nat) (s : State) : Out :=
  done <|
    let f := { s.fuses with smbAddr := strap % 8 }
    let b : Board := { perst := true, rails := late, gpio := s.board.gpio }
    let t := coldNow 0 0xF 0 false { s with fuses := f, board := b }
    if late.isEmpty then t else platLog 0x18 3 0xF 0 late (wrf .HUB_BOOT_STAT 3 0 8 0 t)

/-- The start-up can go beyond FIRMWARE: PERST_N released, no trip, no boundary instruction in force.
DESIGN CHOICE (log entry 76). -/
def bootFree (s : State) : Bool := !s.board.perst && !s.board.tripped && !s.dbg.boundary && !s.board.xtalHeld

/-- Domains that are to be on are on. -/
def pdsOn (s : State) (ns : List Nat) : Bool := ns.all fun n => !pdWant s n || pdOn s n

/-- Domains that are off and are to be on begin to switch. -/
def pdsStart (ns : List Nat) (s : State) : State :=
  foldS (ns.filter fun n => pdWant s n && tget 0 s.pd n == 0) pdSwitch s

/-- Ports begin to train in the background. -/
def portsTrain (s : State) : State :=
  foldS ((List.range 32).filter (portMade s)) (fun p s => wrf .NET_PORT_STAT 1 0 (linkIdle s p) p s) s

/-- Silset's firmware runs after a cold start: the state store and the wear journal have been replayed, the log resumes (R531,
R532, R537). -/
def firmwareUp (s : State) : State :=
  let z := { s.sil with state := 1, handed := false, runSince := s.now }
  silResume (wrf .HUB_BOOT_STAT 3 0 2 0 { s with sil := z })

/-- The last steps of FABRIC: channels READY, FAILED marks as the retest leaves them, in flash as well, SPLIT_NEXT in force; a warm reset
loads no agent firmware. DEDUCED (log entry 121). -/
def fabricDone (failed : List (Nat × Nat)) (s : State) : State :=
  let cold := rb s .HUB_BOOT_STAT 5
  let s := whenS cold (loadAgents ((List.range 8).filter (dieOn s))) (trainingFails failed (channelsReady (List.range 8) s))
  let good := fun (k : Nat) => cold && !failed.contains (k / 2 ^ 16, k % 2 ^ 16)
  let clear := fun (u : FUnit) => { u with reasons := setBits u.reasons 7 7 0, isolated := false }
  let units := (s.units.map fun e => if good e.1 then (e.1, clear e.2) else e).filter fun e => e.2 != {}
  let back := (s.units.filter fun e => decide (e.1 < 2 ^ 16) && e.2.reasons.testBit 7 &&
    !(tget {} units e.1).reasons.testBit 7).map (·.1)
  let s := whenS (s.units.any fun e => good e.1 && e.2.reasons.testBit 7) (askFlash .stateStore)
    (foldS back (fun t => resetReg .TILE_CFG t) { s with units := units })
  let s := selfTestFails failed s
  wrf .HUB_BOOT_STAT 3 0 6 0 (wrf .RST_SPLIT 3 0 (splitNext s) 0 s)

/-- The package is READY. -/
def packageReady (s : State) : State :=
  let s := wrf .HUB_BOOT_STAT 4 0 (7 + 16) 0 { s with pkg := {} }
  platformEvent 0 [0] (rstLog 7 3 0xF 0 (3 + b2n (rb s .RST_WARM_CAUSE 4)) (rf s .RST_WARM_CAUSE 3 0) [] s)

/-- STARTUP_PHASE_ADVANCE (R647, R648): the work of the present phase is done; `failed` names the engines that have not passed
the self-test of FABRIC. DESIGN CHOICE (log entry 76). -/
def execStartupPhaseAdvance (failed : List (Nat × Nat)) (s : State) : Out :=
  done <|
    let p := phase s
    if p = 1 then
      if clkState s 4 == 2 && s.sil.state == 0 && s.sil.handed then firmwareUp s else s
    else if p = 2 then
      if bootFree s then
        let s := whenS (rb s .HUB_BOOT_STAT 5) closeAllXings s
        pdsStart [20, 21, 22] (wrf .HUB_BOOT_STAT 3 0 3 0 s)
      else s
    else if !bootFree s || p = 8 then s
    else if p = 3 then
      if !pdsOn s [20, 21, 22] then pdsStart [20, 21, 22] s
      else if clkState s 0 == 2 && clkState s 3 == 2 then
        let s := foldS (List.range 64) (fun c s => { s with hbm := tmod {} s.hbm c fun x => { x with state := 1 } }) s
        pdsStart ((List.range 12).map (8 + ·)) (portsTrain (wrf .HUB_BOOT_STAT 3 0 4 0 s))
      else s
    else if p = 4 then
      if pdsOn s ((List.range 12).map (8 + ·)) then pdsStart (List.range 8) (wrf .HUB_BOOT_STAT 3 0 5 0 s)
      else pdsStart ((List.range 12).map (8 + ·)) s
    else if p = 5 then
      if pdsOn s (List.range 8) && !(s.crossings.any fun e => decide (e.1 < 1024) && e.2.closed) && clkState s 3 == 2 then
        fabricDone failed s
      else s
    else if p = 6 then (if s.sil.state == 1 then packageReady s else s)
    else s

/-- PCIE_LINK_UP (R435, R462, R566, R647): the host link has trained, to a speed and a width. -/
def execPcieLinkUp (speed width : Nat) (s : State) : Out :=
  done (if s.pcie.linkUp || s.board.perst || clkState s 0 != 2 || !pdOn s 21 || !railsOk s [19, 20] || decide (phase s < 3) ||
          phase s == 8 then s
        else { s with pcie.linkUp := true, pcie.speed := speed, pcie.width := width })

end Sys2Proof.Machine
end

