-- ==== Sys2Proof/Machine/Madc.lean ====
section
/-! DEFINITION. The monitor ADC (ch. 17): requests, conversions, overrange and settling, open-wire tests, self-calibration. -/

namespace Sys2Proof.Machine

open Sys2Proof

/-- The ADC's state changed. -/
def modAdc (f : Madc → Madc) (s : State) : State := { s with madc := f s.madc }

/-- A channel exists: those of a disabled die are absent (R596). -/
def adcHere (s : State) (ch : Nat) : Bool :=
  if 2 ≤ ch ∧ ch < 10 then dieOn s (ch - 2) else if 10 ≤ ch ∧ ch < 18 then dieOn s (ch - 10) else true

/-- The free converter takes the head of the urgent queue, otherwise of the normal queue, which waits during a calibration
(R598, R605). DESIGN CHOICE (log entry 75). -/
def adcNext (m : Madc) : Madc :=
  if m.run.isSome then m else
  match m.urgent with
  | r :: rs => { m with run := some r, urgent := rs }
  | [] => if m.cal then m else match m.normal with
    | r :: rs => { m with run := some r, normal := rs }
    | [] => m

/-- A request joins its queue, and starts, aborts or is answered as R598 to R600 say; none where the queue is full.
DESIGN CHOICE (log entry 75). -/
def adcPut (r : AdcReq) (m : Madc) : Option (Madc × Bool) :=
  if r.urgent then
    match m.run with
    | some x =>
      if !x.urgent && x.ch == r.ch && x.pull == r.pull then some ({ m with both := true }, false)
      else if 4 ≤ m.urgent.length then none
      else if !x.urgent && x.ch != r.ch && 2 ≤ x.ch then
        let q := m.urgent ++ [r]
        some ({ m with run := q.head?, urgent := q.tail, normal := x :: m.normal, both := false, rep := false }, true)
      else some ({ m with urgent := m.urgent ++ [r] }, false)
    | none => if 4 ≤ m.urgent.length then none else some (adcNext { m with urgent := m.urgent ++ [r] }, false)
  else if 8 ≤ m.normal.length then none
  else some (adcNext { m with normal := m.normal ++ [r] }, false)

/-- A write of MADC_CHSEL (R598, R604, R606, R609): a reserved PULL and an absent channel are logged and not queued. -/
def chselWrite (src : Src) (v : Nat) (s : State) : State :=
  let r : AdcReq := { ch := bitsOf v 4 0, urgent := v.testBit 8, pull := bitsOf v 10 9 }
  if !rb s .CLK_GATE 2 then s
  else if r.pull = 3 then logReserved src (blkOff .MADC_CHSEL) v s
  else if !adcHere s r.ch then platLog 0x14 2 0xF 0 [r.ch] s
  else match adcPut r s.madc with
    | none => platLog 0x14 2 0xF 0 [r.ch] (setEv .MADC_STAT 18 0 s)
    | some (m, cut) =>
      whenS cut (bump .MADC_ABORT_CNT) (wr .MADC_CHSEL 0 (BitVec.ofNat 32 (v % 32 + bitsOf v 10 8 * 2 ^ 8)) { s with madc := m })

/-- CONVERSION_REQUEST (R598). DESIGN CHOICE (log entry 75). -/
def execConversionRequest (src : Src) (value : Word) (s : State) : Out := done (chselWrite src value.toNat s)

/-- OPEN_WIRE_TEST_REQUEST (R604). -/
def execOpenWireTestRequest (src : Src) (value : Word) (s : State) : Out := done (chselWrite src value.toNat s)

/-- The code of an input given in thousandths of a step, and the two comparators (R597, R601). DESIGN CHOICE (log entry 75). -/
def adcCode (v : Int) : Nat × Bool × Bool :=
  let lo := decide (v < -500)
  let hi := decide (4095500 ≤ v)
  (if lo then 0 else if hi then 0xFFF else ((v + 500) / 1000).toNat, lo, hi)

/-- An overrange of a conversion: its sticky bit, and the log once for the channel until the bit is cleared (R601). -/
def adcOver (ch : Nat) (hi : Bool) (s : State) : State :=
  let bit := if hi then 17 else 16
  let fresh := !rb s .MADC_STAT bit
  let s := setEv .MADC_STAT bit 0 s
  let old := if fresh then [] else if hi then s.madc.hiLog else s.madc.loLog
  if old.contains ch then s
  else platLog 0x13 2 0xF 0 [ch, b2n hi]
    (modAdc (fun m => if hi then { m with hiLog := ch :: old } else { m with loLog := ch :: old }) s)

/-- The latest results of a channel's open-wire tests are judged when both of a pair are in (R604). -/
def owJudge (ch : Nat) (s : State) : State :=
  let u := tget 0 s.madc.pu ch
  let d := tget 0 s.madc.pd ch
  if u = 0 ∨ d = 0 then s
  else
    let opn := decide (0xFF0 ≤ u - 1) && decide (d - 1 ≤ 0x00F)
    let sht := decide (u - 1 ≤ 0x00F)
    let new := (opn && !rb s .MADC_DATA 16 ch) || (sht && !rb s .MADC_DATA 17 ch)
    let s := wrf .MADC_DATA 17 16 (b2n opn + 2 * b2n sht) ch (modAdc (fun m => { m with pu := tdel m.pu ch, pd := tdel m.pd ch }) s)
    let s := if 24 ≤ ch ∧ ch < 28 then wrf .THM_BRD 28 28 (b2n opn) (ch - 24) s else s
    let s := if opn && decide (24 ≤ ch) && decide (ch < 28) then setBrd (ch - 24) false s else s
    whenS new (fun s => platLog 0x15 2 0xF 0 [ch, b2n opn, b2n sht] (setEv .MADC_STAT 21 0 s)) s

/-- The result of a conversion is written (R597, R601, R604, R611, R613). -/
def adcResult (r : AdcReq) (v : Int) (s : State) : State :=
  let c := adcCode v
  let settle := decide (0 < s.madc.settle)
  let isOver := c.2.1 || c.2.2
  let urgent := r.urgent || s.madc.both
  let s := wrf .MADC_DATA 31 24 (rf s .MADC_DATA 31 24 r.ch + 1) r.ch s
  let s := if r.pull = 0 then
      let s := wrf .MADC_DATA 15 0 (c.1 + b2n c.2.1 * 2 ^ 12 + b2n c.2.2 * 2 ^ 13 + b2n settle * 2 ^ 14) r.ch s
      let s := wrf .MADC_DATA 18 18 1 r.ch s
      if isOver then adcOver r.ch c.2.2 s else s
    else s
  let s := wr .MADC_LAST 0 (BitVec.ofNat 32 (c.1 + r.ch * 2 ^ 12 + b2n urgent * 2 ^ 17 + r.pull * 2 ^ 18 + b2n c.2.1 * 2 ^ 20 +
    b2n c.2.2 * 2 ^ 21 + b2n settle * 2 ^ 22)) s
  let s := bump .MADC_CONV_CNT 1 0 s
  let s := modAdc (fun m => { m with run := none, both := false, rep := false, settle := if isOver then 2 else m.settle - 1 }) s
  let s := if r.pull = 1 then owJudge r.ch (modAdc (fun m => { m with pu := tins m.pu r.ch (c.1 + 1) }) s)
    else if r.pull = 2 then owJudge r.ch (modAdc (fun m => { m with pd := tins m.pd r.ch (c.1 + 1) }) s)
    else s
  modAdc adcNext s

/-- CONVERSION_COMPLETE (R597): `v` is the scaled input in thousandths of the channel's step. -/
def execConversionComplete (v : Int) (s : State) : Out :=
  done <| match s.madc.run with
    | some r => adcResult r v s
    | none => s

/-- CONVERSION_TIMEOUT (R607): discarded and repeated once; after a second failure the channel's VALID is cleared, and Silset stops
and starts the block's clock, after which CONV_ERR shows. DESIGN CHOICE (log entry 75). -/
def execConversionTimeout (s : State) : Out :=
  done <| match s.madc.run with
    | none => s
    | some r =>
      if !s.madc.rep then modAdc (fun m => { m with rep := true }) s
      else
        let s := platLog 0x17 3 0xF 0 [r.ch] (wrf .MADC_DATA 18 18 0 r.ch s)
        let s := modAdc (fun m => { m with run := none, both := false, rep := false }) s
        let s := if silUp s then clkGateWrite .silset 0x40004 (clkGateWrite .silset 0x40000 s) else modAdc adcNext s
        setEv .MADC_STAT 20 0 s

/-- STALE of every channel. -/
def setStale (p : Nat → Bool) (s : State) : State := foldS (List.range 32) (fun ch => wrf .MADC_DATA 15 15 (b2n (p ch)) ch) s

/-- The hub's median temperature, in 1/64 °C. -/
def hubTemp (s : State) : Int := (medianInt (goodTemps s (thermoGroup 224))).getD 0

/-- A calibration of the converter is due by the period or by temperature (R605). -/
def adcCalDue (s : State) : Bool :=
  decide (s.madc.calAt + rf s .MADC_CTRL 7 0 * 1000000000 ≤ s.now) ||
  decide ((rf s .MADC_CTRL 11 8 : Int) * 64 < (hubTemp s - s.madc.calTemp).natAbs)

/-- MADC_CALIBRATION (R605): `bisque` at the end of a bisque calibration's step 1; otherwise when it is due. -/
def execMadcCalibration (bisque : Bool) (s : State) : Out :=
  done (if s.madc.cal || !rb s .CLK_GATE 2 || !(bisque || adcCalDue s) then s
        else
          let old := (List.range 32).filter (rb s .MADC_DATA 15 ·)
          setStale (fun _ => true) (modAdc (fun m => { m with cal := true, stale := old }) s))

/-- MADC_CALIBRATION_DONE (R605): the new trims take effect, or the old ones are kept. DESIGN CHOICE (log entry 75). -/
def execMadcCalibrationDone (ok : Bool) (s : State) : Out :=
  done <|
    if !s.madc.cal || s.madc.run.isSome then s
    else
      let t := hubTemp s
      let s := modAdc (fun m => { m with cal := false, calAt := s.now, calTemp := t }) s
      let old := s.madc.stale
      let kept := fun (s : State) => setStale (fun ch => rb s .MADC_DATA 15 ch && old.contains ch) s
      let s := if ok then setStale (fun _ => true) s else platLog 0x16 2 0xF 0 [] (setEv .MADC_STAT 19 0 (kept s))
      let s := modAdc (fun m => { m with stale := [] }) s
      modAdc adcNext s

/-- OW_AUTO_TEST (R604): Silset requests a pull-up and a pull-down test of every channel of MADC_OW_MASK. -/
def execOwAutoTest (s : State) : Out :=
  done <|
    if !rb s .MADC_CTRL 16 || !silUp s then s
    else
      let m := (rd s .MADC_OW_MASK).toNat
      foldS (((List.range 32).filter m.testBit).filter (adcHere s)) (fun ch s =>
        chselWrite .silset (ch + 2 * 2 ^ 9) (chselWrite .silset (ch + 2 ^ 9) s)) s

/-! ### Board channels (R585, R602, R603) -/

/-- BOARD_CHANNEL_READ (R585, R602, R603): Silset converts the channel's present result and judges it; instead of using a result that
carries SETTLE or STALE, or none, it requests the channel again. DESIGN CHOICE (log entry 74). -/
def execBoardChannelRead (n : Nat) (s : State) : Out :=
  done <|
    let w := rd s .MADC_DATA (24 + n)
    let mode := rf s .THM_BRD 1 0 n
    if mode = 0 ∨ !rb s .CLK_GATE 2 then s
    else if rb s .THM_BRD 28 n then setBrd n false s
    else if !w.getLsbD 18 ∨ w.getLsbD 14 ∨ w.getLsbD 15 then whenS (silUp s) (chselWrite .silset (24 + n)) s
    else
      let t := boardTemp mode (fld w 11 0) (rd s .MADC_BRD_PAR n).toNat
      let hi := match t with
        | some x => decide ((rf s .THM_BRD 11 4 n : ℚ) < x)
        | none => true
      let v := t.map fun x => rneRat (16 * x)
      let fits := v.any fun x => decide (-2048 ≤ x) && decide (x < 2048)
      let d := drawFree s
      let word := if fits then toTwos 12 (v.getD 0) else (Config.freeWord d.1).toNat % 4096
      let was := s.board.brdHi.testBit n
      let s := setBrd n hi (wrf .THM_BRD 27 16 word n (if fits then s else d.2))
      whenS (hi && !was) (platLog 0xA 2 0xF n [word]) (whenS hi (thmEvent 5) s)

end Sys2Proof.Machine
end

