-- ==== Sys2Proof/Machine/Halt.lean ====
section
/-! DEFINITION. Halts of the fabric and of Silset through the DBG block (R619, R625 to R629, R634). -/

namespace Sys2Proof.Machine

open Sys2Proof

/-! ### Rights (R619, R632 to R634) -/

/-- A right of SCOPE is granted. DEDUCED (log entry 79). -/
def hasScope (s : State) (b : Nat) : Bool := s.dbg.scope.testBit b

/-- The DBG block's clock is off: its registers read zero and its writes are dropped (R456, R570). -/
def dbgGated (s : State) : Bool := !rb s .CLK_GATE 4

/-- An event of the port is entered in the kiln log with SOURCE 2 (R631). -/
def spyLog (code sev : Nat) (data : List Nat) (s : State) : State :=
  logE { cls := 0x0B, code := code, sev := sev, source := 2, data := data } s

/-- What a write to a register of the DBG block needs beyond READ and WRITE: FABRIC for halts, steps and breakpoints, SILSET for
those of Silset. DEDUCED (log entry 79). -/
def dbgRight (s : State) (r : Reg) (v : Nat) : Bool :=
  match r with
  | .DBG_CTRL => v % 8 == 0 || hasScope s 2
  | .DBG_HALT_MASK_LO => hasScope s 2
  | .DBG_HALT_MASK_HI => hasScope s 2
  | .DBG_BP_SEL => hasScope s 2
  | .DBG_BP_CFG => hasScope s 2 && (bitsOf v 4 3 != 2 || hasScope s 3)
  | .DBG_BP_VAL_LO => hasScope s 2
  | .DBG_BP_VAL_HI => hasScope s 2
  | .DBG_BP_MASK_LO => hasScope s 2
  | .DBG_BP_MASK_HI => hasScope s 2
  | .DBG_SIL_CTRL => hasScope s 3
  | .DBG_SIL_BP => hasScope s 3
  | _ => true

/-- The port may write a register of its block: the scope holds READ and WRITE and what the register needs.
DEDUCED (log entry 79). -/
def dbgMayWrite (s : State) (r : Reg) (v : Nat) : Bool := hasScope s 0 && hasScope s 1 && dbgRight s r v

/-! ### The fabric (R625, R628) -/

/-- The bays of DBG_HALT_MASK. -/
def haltMask (s : State) : Nat := ((rd s .DBG_HALT_MASK_LO).toNat + 2 ^ 32 * (rd s .DBG_HALT_MASK_HI).toNat) % 2 ^ 48

/-- The bays of DBG_HALTED. -/
def haltedMask (s : State) : Nat := (rd s .DBG_HALTED_LO).toNat + 2 ^ 32 * (rd s .DBG_HALTED_HI).toNat

/-- RESUME releases every halted bay; each boundary admits first the item it held (R628). -/
def resumeAll (s : State) : State :=
  let d := { s.dbg with halting := 0, stepping := 0, stepCnt := [] }
  wr .DBG_HALTED_LO 0 0 (wr .DBG_HALTED_HI 0 0 (letGo (fun _ => true) { s with dbg := d }))

/-- STEP releases every halted bay for STEP_N acknowledges at each boundary (R628). -/
def stepAll (s : State) : State :=
  let d := { s.dbg with halting := 0, stepping := s.dbg.halting ||| s.dbg.stepping, stepCnt := [] }
  wr .DBG_HALTED_LO 0 0 (wr .DBG_HALTED_HI 0 0 (letGo (fun _ => true) { s with dbg := d }))

/-- CLOSE clears SCOPE; DEBUG_OPEN stays (R619, R620). -/
def closeScope (s : State) : State := { s with dbg.scope := 0 }

/-- A write of DBG_CTRL by the port: STEP_N is stored, and the bits set act in the order of their numbers. -/
def dbgCtrlWrite (v : Nat) (s : State) : State :=
  let s := wrf .DBG_CTRL 3 0 0 0 (storeBlk .spyhole .DBG_CTRL 0 v s)
  let s := whenS (v.testBit 0) (fun s => haltBays (haltMask s) s) s
  let s := whenS (v.testBit 1) resumeAll s
  let s := whenS (v.testBit 2) stepAll s
  whenS (v.testBit 3) closeScope s

/-- A write of DBG_CTRL where the block is clocked and the scope admits it; else it is refused (R619, R631).
DESIGN CHOICE (log entry 78). -/
def dbgCtrl (v : Nat) (s : State) : State :=
  if dbgGated s then s
  else if dbgMayWrite s .DBG_CTRL v then dbgCtrlWrite v s
  else spyLog 0x0A 2 [blkOff .DBG_CTRL, v] { s with dbg.status := 2 }

/-- DBG_HALT (R625). -/
def execDbgHalt (value : Word) (s : State) : Out := done (dbgCtrl value.toNat s)

/-- DBG_RESUME (R628). -/
def execDbgResume (value : Word) (s : State) : Out := done (dbgCtrl value.toNat s)

/-- DBG_STEP (R628). -/
def execDbgStep (value : Word) (s : State) : Out := done (dbgCtrl value.toNat s)

/-- DBG_CLOSE (R619). -/
def execDbgClose (value : Word) (s : State) : Out := done (dbgCtrl value.toNat s)

/-- FABRIC_HALTED (R625, R628): every element of a bay under a halt waits or is idle; a bay that stepped is halted again.
DESIGN CHOICE (log entry 77). -/
def execFabricHalted (bay : Nat) (s : State) : Out :=
  done <|
    if !halted s bay && !s.dbg.stepping.testBit bay then s
    else
      let d := { s.dbg with halting := s.dbg.halting ||| 2 ^ bay, stepping := setBits s.dbg.stepping bay bay 0 }
      let s := { s with dbg := d }
      if bay < 32 then setEv .DBG_HALTED_LO bay 0 s else setEv .DBG_HALTED_HI (bay - 32) 0 s

/-! ### Silset (R629, R634) -/

/-- What stood in the cores and in the memory of Silset is no longer known once it executes. -/
def silRan (s : State) : State := { s with dbg.silMem := [], dbg.silRegs := [] }

/-- RESUME: Silset goes on where it was halted, and takes up what has waited for it. DESIGN CHOICE (log entry 80). -/
def silGo (s : State) : State :=
  if s.sil.state != 4 then s
  else
    let s := silRan { s with sil.state := s.dbg.silWas }
    whenS (silUp s) silResume s

/-- STEP executes one instruction, after which the program counter is a value that the manual does not give.
DESIGN CHOICE (log entry 30). -/
def silStep (s : State) : State :=
  if s.sil.state != 4 then s
  else
    let f := drawFree s
    silRan { f.2 with sil.pc := (Config.freeWord f.1).toNat % 2 ^ 32 }

/-- A write of DBG_SIL_CTRL by the port; the bits set act in the order of their numbers. -/
def silCtrlWrite (v : Nat) (s : State) : State :=
  let s := wrf .DBG_SIL_CTRL 3 0 0 0 (storeBlk .spyhole .DBG_SIL_CTRL 0 v s)
  let s := whenS (v.testBit 0) silHalt s
  let s := whenS (v.testBit 1) silGo s
  let s := whenS (v.testBit 2) silStep s
  whenS (v.testBit 3) (fun s => silRestart 5 (silRan s)) s

/-- A write of DBG_SIL_CTRL where the block is clocked and the scope admits it; else it is refused.
DESIGN CHOICE (log entry 78). -/
def silCtrl (v : Nat) (s : State) : State :=
  if dbgGated s then s
  else if dbgMayWrite s .DBG_SIL_CTRL v then silCtrlWrite v s
  else spyLog 0x0A 2 [blkOff .DBG_SIL_CTRL, v] { s with dbg.status := 2 }

/-- DBG_SIL_HALT (R629). DESIGN CHOICE (log entry 80). -/
def execDbgSilHalt (s : State) : Out := done (silCtrl 1 s)

/-- DBG_SIL_RESUME (R629). -/
def execDbgSilResume (s : State) : Out := done (silCtrl 2 s)

/-- DBG_SIL_STEP (R629). -/
def execDbgSilStep (s : State) : Out := done (silCtrl 4 s)

/-- DBG_SIL_RESTART (R629). -/
def execDbgSilRestart (s : State) : Out := done (silCtrl 8 s)

/-- SILSET_PC_BREAKPOINT (R629): comparator `n`, where it is enabled, halts the cores before the matching instruction. -/
def execSilsetPcBreakpoint (n : Nat) (s : State) : Out :=
  done <|
    if !rb s .DBG_SIL_BP 0 n || s.sil.state == 4 then s
    else
      let pc := rf s .DBG_SIL_BP 31 1 n * 2
      silHalt (silRan { s with sil.pc := pc })

end Sys2Proof.Machine
end

