-- ==== Sys2Proof/Machine/Views.lean ====
section
/-! DEFINITION. What a read of a register returns (R15, R440, R441): the stored word, with the fields that show the state of the
block put in, and the instance that the select registers choose. -/

namespace Sys2Proof.Machine

open Sys2Proof

/-- A field of a word set from a number. -/
def put (hi lo v : Nat) (w : Word) : Word := setFld w hi lo v

/-- A signed value in a field of `w` bits, held at its ends. -/
def satTwos (w : Nat) (x : Int) : Nat := toTwos w (max (-(2 ^ (w - 1) : Int)) (min (2 ^ (w - 1) - 1) x))

/-! ### HUB (R5, R301 to R307, R466, R470 to R474, R651) -/

/-- HUB_IDENT and its copies (R5). -/
def identWord (s : State) : Word :=
  BitVec.ofNat 32 ((if s.fuses.part4808 then 0x4808 else 0x3606) * 2 ^ 16 + b2n s.fuses.locked * 2 ^ 12 + s.fuses.step % 16 * 2 ^ 8)

/-- The update group of a block: a cluster, or 384 for the GLZ block (R451). -/
def blockGrp (s : State) (b : Nat) : Nat := if b = 384 then rf s .GLZ_CTRL 27 24 else rf s .CL_CFG 3 0 b

/-- PEND: groups with a buffered write that no accepted strobe has applied; BUSY. -/
def updStat (s : State) : Word :=
  let own := s.rwb.map fun e => blockGrp s (rwbBlock e.1)
  let sent := (s.strobes.filter fun x => !x.writes.isEmpty).map (·.grp)
  BitVec.ofNat 32 ((((List.range 16).filter fun g => (own ++ sent).contains g).map (2 ^ ·)).sum + 2 ^ 16 * b2n (!s.strobes.isEmpty))

/-- GPIO_IN: what an output drives, or what the outside drives. -/
def gpioIn (s : State) : Nat :=
  (((List.range 8).filter fun n => if rb s .HUB_GPIO_CTRL n then rb s .HUB_GPIO_CTRL (8 + n) else s.board.gpio.testBit n).map
    (2 ^ ·)).sum

/-- HUB_HBM_CH_STAT of the channel chosen. -/
def hbmStat (s : State) : Word :=
  let c := rf s .HUB_HBM_CH_SEL 5 0
  let x := tget {} s.hbm c
  let st := if x.state = 2 ∧ fenced s 13 (c / 8) = true then 5 else x.state
  BitVec.ofNat 32 (st + min x.ce 0xFFFF * 2 ^ 16)

/-- HUB_SHADOW_STAT: BAD and LOST tile-layers. -/
def shadowStat (s : State) : Word :=
  let n := fun st => min 0xFFFF (s.shadow.filter fun e => e.2.state == st).length
  BitVec.ofNat 32 (n 1 + n 2 * 2 ^ 16)

/-- VF_INFO of a virtual function. -/
def vfInfo (s : State) (k : Nat) : Word :=
  BitVec.ofNat 32 (k + rf s .HUB_VF_BIND 2 0 k * 2 ^ 8 + rf s .HUB_VF_BIND 31 31 k * 2 ^ 11)

/-! ### QM, SET, NET, SRV, KVM -/

/-- The context that a select register names: partition in [2:0], function in [12:8]. -/
def selCtx (s : State) (r : Reg) : Nat := cxKey (rf s r 2 0) (rf s r 12 8)

/-- PHASE of a context: that of its load, STAGED while an image waits for activation (R223). -/
def ctxPhase (c : Ctx) : Nat :=
  match c.load with
  | some l => l.phase
  | none => if c.staged.isSome then 6 else 0

/-- SET_CTX_STAT (R235). -/
def ctxStat (s : State) : Word :=
  let c := cxOf s (selCtx s .SET_CTX_SEL)
  BitVec.ofNat 32 (ctxPhase c + 8 * b2n c.active.isSome + 16 * b2n c.staged.isSome +
    32 * b2n (!c.retiring.isEmpty) + c.acts % 2 ^ 16 * 2 ^ 16)

/-- SET_CTX_PROG (R235): tile-layers finished, shared, retained or programmed, of those the load places. -/
def ctxProg (s : State) : Word :=
  match (cxOf s (selCtx s .SET_CTX_SEL)).load with
  | none => 0
  | some l =>
    let total := (imgOf s l.im).places.length
    let todo := ((imgOf s l.im).places.filter fun p => tget 0 l.todo (tlKey p.tile p.layer) == 4).length
    BitVec.ofNat 32 (min todo 0xFFFF + min total 0xFFFF * 2 ^ 16)

/-- IMAGE_ID of the active image, 0 where there is none. -/
def activeId (s : State) : Nat :=
  ((cxOf s (selCtx s .SET_CTX_SEL)).active.map fun im => (imgOf s im).id).getD 0

/-- NET_JOB_STAT (R433). -/
def jobStat (s : State) : Word :=
  let k := selCtx s .NET_JOB_SEL
  let t := peersOf s k
  if (jobOf s k).st = 0 then 0 else BitVec.ofNat 32 ((jobOf s k).st + t.self * 2 ^ 8 + t.nmem * 2 ^ 16)

/-- NET_JOB_PEER_STAT and NET_JOB_PEER_EPOCH (R433); RANK is 0 where the table has no such entry. -/
def jobPeer (s : State) : PeerSt := tget {} (jobOf s (selCtx s .NET_JOB_SEL)).peers (rf s .NET_JOB_PEER_SEL 5 0)
def jobPeerStat (s : State) : Word :=
  let e := (peersOf s (selCtx s .NET_JOB_SEL)).peers[rf s .NET_JOB_PEER_SEL 5 0]?
  BitVec.ofNat 32 ((jobPeer s).st + (e.map (·.rank)).getD 0 * 2 ^ 8)

/-- SRV_REG_STAT (R395): the registrations of the active image. -/
def regStat (s : State) : Word :=
  match (cxOf s (selCtx s .SRV_REG_SEL)).active with
  | none => 0
  | some im =>
    let es := roleEntries s im (rf s .SRV_REG_SEL 17 16)
    let e := es.headD {}
    BitVec.ofNat 32 (es.length + e.first % 256 * 2 ^ 8 + e.layers % 256 * 2 ^ 16)

/-- The key/value layout whose pools KVM_POOL_SEL shows: that of the lowest function with an active image in the partition.
DEDUCED (log entry 20). -/
def poolLayout (s : State) : KvLayout :=
  let ks := (List.range 32).map (cxKey (rf s .KVM_POOL_SEL 10 8))
  ((ks.filterMap fun k => (cxOf s k).active).head?.map (kvOf s)).getD {}

/-- The pool chosen. DEDUCED (log entry 20). -/
def selPool (s : State) : Option KvPoolE := (poolLayout s).pools[rf s .KVM_POOL_SEL 5 0]?

/-- KVM_POOL_STAT (R342). -/
def poolStat (s : State) : Word :=
  match selPool s with
  | none => 0
  | some p =>
    let rel := (s.releasing.filter fun f => decide (p.base ≤ f.addr) && decide (f.addr < p.base + p.size)).length
    BitVec.ofNat 32 (p.kind % 4 + p.tier % 4 * 4 + 16 + p.owner % 256 * 2 ^ 8 + min rel 0xFFFF * 2 ^ 16)

/-- KVM_SEQ_STAT (R343). -/
def seqStat (s : State) : Word :=
  let q := seqOf s (rf s .KVM_SEQ_SEL 11 0)
  if !q.used then 0
  else
    let st := if q.failed then 3 else if q.retired then 4 else if q.bind.isSome then 2 else 1
    BitVec.ofNat 32 (st + 8 * b2n (!q.keep.isEmpty) + q.ctx / 32 % 8 * 2 ^ 8 + q.ctx % 32 * 2 ^ 11 +
      (if st = 2 then q.bind.getD 0 % 4096 else 0) * 2 ^ 16)

/-- KVM_SEQ_PAGES (R343). -/
def seqPages (s : State) : Word :=
  let q := seqOf s (rf s .KVM_SEQ_SEL 11 0)
  let shared := (q.pages.filter fun e => decide (1 < (descOf s e.2.desc).ref)).length
  BitVec.ofNat 32 (q.pages.length % 2 ^ 20 + min shared 0xFFF * 2 ^ 20)

/-! ### RST (R493, R496, R497) -/

/-- STATE of a partition (R497). -/
def ptState (s : State) (p : Nat) : Nat :=
  let x : Part := tget {} s.parts p
  let u := unitOf s 10 p
  if !ptExists s p then 0
  else if x.resetting then (if x.escalated then 5 else 4)
  else if u.draining then 3 else if u.reasons != 0 then 2 else 1

/-- STATE of a unit (R496): fenced, drained and reset with the units that contain it (R476). -/
def unitState (s : State) (kind index : Nat) : Nat :=
  let u := unitOf s kind index
  if kind = 10 then (let x := ptState s index; if x = 5 then 4 else x)
  else if kind = 11 then
    if index ≠ 0 ∧ ¬ (s.pcie.vfEnable = true ∧ index ≤ s.pcie.numVfs) then 0
    else if (fnOf s index).inFlr then 4 else if u.draining then 3 else if u.reasons != 0 then 2 else 1
  else if 14 ≤ kind || !unitExists s kind index then 0
  else if u.reasons.testBit 7 then 5
  else if u.isolated then 6
  else if inReset s kind index then 4
  else
    let us := ((kind, index) :: containers s kind index).map fun c => unitOf s c.1 c.2
    if us.any (·.draining) then 3 else if us.any fun x => x.reasons != 0 then 2 else 1

/-- RST_UNIT_STAT (R496). -/
def unitStat (s : State) : Word :=
  let kind := rf s .RST_UNIT_SEL 3 0
  let index := rf s .RST_UNIT_SEL 17 4
  let st := unitState s kind index
  let u := unitOf s kind index
  if st = 0 then 0
  else BitVec.ofNat 32 (st + u.reasons % 256 * 2 ^ 8 + (if kind = 10 ∨ kind = 11 then 0 else fgenOf s kind index) * 2 ^ 16)

/-- RST_PT_STATk (R497). -/
def ptStat (s : State) (p : Nat) : Word :=
  if !ptExists s p then 0
  else BitVec.ofNat 32 (ptState s p + (unitOf s 10 p).reasons % 256 * 2 ^ 8 + (tget {} s.parts p : Part).resets % 2 ^ 16 * 2 ^ 16)

/-- Partitions that are ABSENT in the 8-way split (R35, R493). -/
def absentMask (s : State) : Nat := 0xFF - s.fuses.dieMask % 256

/-! ### CAL (R194 to R196) -/

/-- A VALID tile-layer of a bay ramps, in the direction of transposed passes only where it has T_EN (R178, R179). -/
def ramping (s : State) (bay : Nat) : Bool :=
  s.tlayers.any fun e => e.1 / 1024 == bay && rb s .TILE_LCFG 0 e.1 &&
    (decide (e.2.rampN < 256) || (rb s .TILE_LCFG 4 e.1 && decide (e.2.rampT < 256)))

/-- STATE of a bay (R196). -/
def bayState (s : State) (bay : Nat) : Nat :=
  let c := calOf s bay
  if !dieOn s (bay / 6) then 7
  else if fenced s 8 bay || inReset s 8 bay then 6
  else if c.st = 1 then (if soakDeferred s bay then 5 else 1)
  else if c.st = 3 then (if ramping s bay then 3 else 0)
  else c.st

/-- CAL_BAY_STAT (R196): temperatures in quarters of a degree, rounded down and held at the ends of their fields.
DESIGN CHOICE (log entry 34). -/
def bayStat (s : State) : Word :=
  let bay := rf s .CAL_BAY_SEL 5 0
  let c := calOf s bay
  BitVec.ofNat 32 (bayState s bay + 8 * b2n (c.pending && !rb s .CAL_CTRL 0) + satTwos 10 (c.tcal / 16) * 2 ^ 4 +
    satTwos 10 ((bayTemp s bay - c.tcal) / 16) * 2 ^ 16)

/-- CAL_BAY_AGE (R196). -/
def bayAge (s : State) : Word :=
  match (calOf s (rf s .CAL_BAY_SEL 5 0)).lastSoak with
  | none => 0xFFFFFFFF
  | some t => BitVec.ofNat 32 (min 0xFFFFFFFF ((s.now - t) / 1000000000))

/-- SOAKS_ACTIVE and REFRESH_DUE put into CAL_STAT (R194). -/
def calStat (s : State) (w : Word) : Word :=
  let n := (s.cal.filter fun e => e.2.st == 2 || e.2.st == 4).length
  put 24 24 (b2n (s.tlayers.any fun e => e.2.due && tlValid s (e.1 / 4) (e.1 % 4))) (put 13 8 n w)

/-! ### SIL (R557 to R560) -/

/-- SIL_STAT (R557). -/
def silStat (s : State) : Word :=
  BitVec.ofNat 32 (s.sil.state + 8 * b2n s.sil.slot + 16 * b2n ((runSlot s).state == 2) + 32 * b2n (evalCfg s) +
    64 * b2n s.sil.debugOpen + 128 * b2n s.sil.commissioned + 256 * b2n s.sil.flashOk)

/-- SIL_FW_SVN (R558). -/
def fwSvn (s : State) : Word :=
  let o := fwSlot s (!s.sil.slot)
  BitVec.ofNat 32 ((runSlot s).svn % 256 + s.sil.rollback % 256 * 2 ^ 8 + (if o.state = 0 ∨ o.state = 4 then 0 else o.svn % 256) * 2 ^ 16)

/-! ### CLK, PWR, THM, MADC (R588 to R595, R610) -/

/-- PWR_DIE_STAT (R590). -/
def dieStat (s : State) : Word :=
  let d := rf s .PWR_DIE_SEL 2 0
  let lim := (((List.range 6).filter fun b => let l := tget 0 s.cone (d * 6 + b); l == 1 || l == 2).map (2 ^ ·)).sum
  BitVec.ofNat 32 (vcodeOf s d + (poolOf s d).size * 2 ^ 4 + lim * 2 ^ 16)

/-- The state of a power domain as PWR_PD_STAT shows it (R591). -/
def pdCode (s : State) (n : Nat) : Nat := if n < 16 ∧ dieOn s (n % 8) = false then 3 else tget 0 s.pd n % 4

/-- The domains from `a` on, two bits each. -/
def pdStat (s : State) (a n : Nat) : Word := BitVec.ofNat 32 (((List.range n).map fun i => pdCode s (a + i) * 4 ^ i).sum)

/-- THM_READ (R593). -/
def thmRead (s : State) : Word :=
  let i := rf s .THM_SEL 7 0
  let t := thermoOf s i
  if thermoHere s i then BitVec.ofNat 32 (satTwos 12 t.temp + 2 ^ 12 * b2n t.suspect + 2 ^ 13 * b2n t.valid) else 0

/-- THM_BAY_STAT (R593): sixteenths of a degree, and of a degree per millisecond. -/
def thmBay (s : State) : Word :=
  let b := rf s .THM_BAY_SEL 5 0
  BitVec.ofNat 32 (satTwos 12 (bayTemp s b / 4) + satTwos 12 (bayRise s b / 4) * 2 ^ 12 + tget 0 s.cone b * 2 ^ 24)

/-- THM_MAX (R594): the hottest thermometer in use and its index, the lowest index where several are equal.
DEDUCED (log entry 20). -/
def thmMax (s : State) : Word :=
  let hot := ((List.range 236).filter fun i => thermoHere s i && (thermoOf s i).good).foldl
    (fun (m : Option Nat) i => match m with
      | none => some i
      | some j => if (thermoOf s j).temp < (thermoOf s i).temp then some i else m) none
  match hot with
  | none => 0
  | some i => BitVec.ofNat 32 (satTwos 12 (thermoOf s i).temp + i * 2 ^ 12)

/-- BUSY, CAL, QDEPTH and UDEPTH put into MADC_STAT (R610). -/
def madcStat (s : State) (w : Word) : Word :=
  put 8 0 (b2n s.madc.run.isSome + 2 * b2n s.madc.cal + 4 * s.madc.normal.length + 64 * s.madc.urgent.length) w

/-! ### DBG (R632, R633) -/

/-- FAB_HALTED: bays are under a halt, and every one of them and of DBG_HALT_MASK is halted. DESIGN CHOICE (log entry 77). -/
def fabHalted (s : State) : Bool :=
  let need := s.dbg.halting ||| haltMask s
  s.dbg.halting != 0 && need &&& haltedMask s == need

/-- DBG_STAT (R632). -/
def dbgStat (s : State) : Word :=
  put 10 9 (b2n (fabHalted s) + 2 * b2n (s.sil.state == 4)) (put 5 0 (s.dbg.scope % 16 + 16 * b2n s.sil.debugOpen +
    32 * b2n s.dbg.verify.isSome) (rd s .DBG_STAT))

/-! ### Clusters and tiles -/

/-- STATE of a context (R276). -/
def ctxState (s : State) (cl n : Nat) : Nat := if isReady s cl n then 2 else (vctxOf s cl n).state

/-- VEC_OCC (R274). -/
def vecOcc (s : State) (cl : Nat) : Word :=
  let ns := (s.vctx.filter fun e => e.1 / 4096 == cl).map fun e => ctxState s cl (e.1 % 4096)
  BitVec.ofNat 32 ((ns.filter fun x => x == 2 || x == 3).length + (ns.filter (· == 1)).length * 2 ^ 16)

/-- VEC_CTX_STAT of a context (R276). -/
def vecCtxStat (s : State) (cl n : Nat) : Word :=
  let c := vctxOf s cl n
  BitVec.ofNat 32 (ctxState s cl n + c.pc % 2 ^ 14 * 2 ^ 4 + c.flags % 16 * 2 ^ 18 + (if c.state = 5 then c.fault % 256 else 0) * 2 ^ 24)

/-- VEC_CTX_SLOTS of a context (R276). -/
def vecCtxSlots (s : State) (cl n : Nat) : Word :=
  let c := vctxOf s cl n
  if c.state = 0 then 0 else BitVec.ofNat 32 (c.slotBase % 2 ^ 15 + c.slotCount % 256 * 2 ^ 16)

/-- BANK_BUSY put into ACC_STAT (R149). -/
def accStat (s : State) (cl : Nat) (w : Word) : Word :=
  let busy := fun b => s.acc.any fun e => e.1 / 64 == cl && e.1 / 32 % 2 == b
  put 9 8 (b2n (busy 0) + 2 * b2n (busy 1)) w

/-- Backward adapter work of a pass is under way in the glaze slice of a cluster: the pass of a transposed slice that carries an adapter
is not over, and the slice of the cluster holds a part of the adapter or serves the pass (R143, R153). -/
def bwdWork (s : State) (cl : Nat) : Bool :=
  s.passes.any fun e =>
    let c := e.2
    let i := imgOf s c.im
    !c.bypass && !passOver s c && (groupSlices i c.pg).any fun x => x.kind == 1 && match adapterOf i x with
      | some a => a.as.any (·.cl == cl) || a.bs.any (·.cl == cl) || i.routes.any fun r => r.slice == x.id && r.glaze && r.glzCl == cl
      | none => false

/-- BUSY, WGT_WAIT, LENT and ADAPT_BWD put into GLZ_SL_STAT (R153). -/
def glzStat (s : State) (cl : Nat) (w : Word) : Word :=
  let js := tget [] s.glz cl
  let lent := js.any fun j => (imgOf s j.im).routes.any fun r => r.slice == j.slice && r.glaze && r.glzCl == cl && r.cl != cl
  put 3 0 (b2n (!js.isEmpty || bwdWork s cl) + 2 * b2n (js.any fun j => !j.waiting.isEmpty) + 4 * b2n lent +
    8 * b2n (bwdWork s cl)) w

/-- STATE of a tile: a fence shows as FENCED, but not on a failed tile (R109). -/
def tileCfg (s : State) (t : Nat) (w : Word) : Word :=
  if fld w 2 0 != 3 && (fenced s 0 t || inReset s 0 t) then put 2 0 4 w else w

/-- TILE_LSEL (R110). -/
def tileLsel (s : State) (t : Nat) (w : Word) : Word :=
  let x := tileOf s t
  put 9 4 (x.active + 4 * b2n x.settled + 8 * b2n x.pending.isSome + 16 * ((x.pending.map (·.layer)).getD 0)) w

/-- BUSY, TPASS and PROG put into TILE_STAT (R111): a pass, or a row step, that runs. -/
def tileStat (s : State) (t : Nat) (w : Word) : Word :=
  let run := (tileOf s t).running
  let prog := (run.any fun r => r.req.kind == 2) || (List.range 4).any fun l => rowRunning s (tlKey t l)
  let tp := run.any fun r => r.req.kind == 1
  put 2 0 (b2n (run.isSome || prog) + 2 * b2n tp + 4 * b2n prog) w

/-! ### The read -/

/-- The instance of a register that an access reaches: `fn` is the function whose block it is, `i` the copy, cluster or tile that
the offset gives; view registers take theirs from their select register. -/
def selInst (s : State) (fn : Nat) (r : Reg) (i : Nat) : Nat :=
  match r with
  | .QM_CTRL | .QM_STAT | .QM_CAP | .QM_HANDLES => fn
  | .QM_SQ_BASE_LO | .QM_SQ_BASE_HI | .QM_RQ_BASE_LO | .QM_RQ_BASE_HI | .QM_Q_CFG | .QM_Q_STAT => fn * 64 + i
  | .QM_FN_QUOTA => rf s .QM_FN_SEL 4 0
  | .SRV_FN_PFX_QUOTA => rf s .SRV_FN_SEL 4 0
  | .SRV_STAT | .SRV_TOKEN_CNT | .SRV_DRAFT_PROP_CNT | .SRV_DRAFT_ACC_CNT | .SRV_RETRACT_CNT | .SRV_SPEC_OFF_CNT => fn
  | .NET_PORT_CFG | .NET_PORT_STAT | .NET_PORT_MAC_LO | .NET_PORT_MAC_HI | .NET_PORT_IP4 | .NET_PORT_IP6_0 | .NET_PORT_IP6_1
  | .NET_PORT_IP6_2 | .NET_PORT_IP6_3 | .NET_RX_FRAMES | .NET_TX_FRAMES | .NET_RX_FCS_ERR | .NET_ICRC_ERR | .NET_RX_DROP
  | .NET_FEC_CORR | .NET_PFC_RX | .NET_PFC_TX | .NET_CNP_RX | .NET_CNP_TX => rf s .NET_PORT_SEL 4 0
  | .CAL_BAY_CNT => rf s .CAL_BAY_SEL 5 0
  | .DBG_BP_CFG | .DBG_BP_VAL_LO | .DBG_BP_VAL_HI | .DBG_BP_MASK_LO | .DBG_BP_MASK_HI | .DBG_BP_HITS => rf s .DBG_BP_SEL 2 0
  | .TILE_LCFG => i * 4 + rf s .TILE_LSEL 1 0 i
  | .VF_INFO | .VF_IDENT | .VF_EVT => fn
  | _ => i

/-- What an instance of a register reads as. DESIGN CHOICE (log entry 14). DEDUCED (log entry 20). -/
def viewWord (s : State) (r : Reg) (i : Nat) : Word :=
  let w := rd s r i
  match r with
  | .HUB_IDENT => identWord s
  | .HUB_UPD_STAT => updStat s
  | .HUB_BAR4_STAT => put 4 0 s.pcie.bar4Log2 w
  | .HUB_TIME_LO => BitVec.ofNat 32 s.now
  | .HUB_TIME_HI => BitVec.ofNat 32 (s.now / 2 ^ 32)
  | .HUB_BRD_IN => put 15 8 (gpioIn s) w
  | .HUB_MEM_CAP2 => put 7 0 s.fuses.dieMask w
  | .HUB_HBM_CH_STAT => hbmStat s
  | .HUB_SHADOW_STAT => shadowStat s
  | .QM_CAP => put 6 0 (if i = 0 then 0x40 else 8) w
  | .QM_HANDLES => BitVec.ofNat 32 (handlesOf s i + rf s .QM_FN_QUOTA 12 0 i * 2 ^ 16)
  | .QM_Q_STAT => BitVec.ofNat 32 ((queueOf s i).st + (queueOf s i).head % 4096 * 2 ^ 16)
  | .SET_CTX_STAT => ctxStat s
  | .SET_CTX_PROG => ctxProg s
  | .SET_ACTIVE_ID_LO => BitVec.ofNat 32 (activeId s)
  | .SET_ACTIVE_ID_HI => BitVec.ofNat 32 (activeId s / 2 ^ 32)
  | .NET_PORT_STAT => put 3 3 (b2n ((tget {} s.ports i : Port).paused != 0)) w
  | .NET_JOB_STAT => jobStat s
  | .NET_JOB_EPOCH => BitVec.ofNat 32 (jobOf s (selCtx s .NET_JOB_SEL)).epoch
  | .NET_JOB_STEP => BitVec.ofNat 32 (jobOf s (selCtx s .NET_JOB_SEL)).step
  | .NET_JOB_PEER_STAT => jobPeerStat s
  | .NET_JOB_PEER_EPOCH => BitVec.ofNat 32 (jobPeer s).epoch
  | .SRV_PFX_CNT => BitVec.ofNat 32 s.prefixes.length
  | .SRV_REG_STAT => regStat s
  | .KVM_POOL_STAT => poolStat s
  | .KVM_POOL_TOTAL => BitVec.ofNat 32 (((selPool s).map (poolUnits (poolLayout s))).getD 0)
  | .KVM_POOL_FREE => BitVec.ofNat 32 (((selPool s).map (poolFree s (poolLayout s))).getD 0)
  | .KVM_SEQ_STAT => seqStat s
  | .KVM_SEQ_LEN => BitVec.ofNat 32 (seqOf s (rf s .KVM_SEQ_SEL 11 0)).len
  | .KVM_SEQ_PAGES => seqPages s
  | .RST_SPLIT => put 15 8 (absentMask s) w
  | .RST_UNIT_STAT => unitStat s
  | .RST_PT_STAT => ptStat s i
  | .CHK_STAT => put 16 16 (b2n (s.boosts.any fun e => decide (s.now < e.2 - 1))) w
  | .CAL_STAT => calStat s w
  | .CAL_UTC => BitVec.ofNat 32 (utcNow s)
  | .CAL_BAY_STAT => bayStat s
  | .CAL_BAY_AGE => bayAge s
  | .SIL_STAT => silStat s
  | .SIL_FW_VER => BitVec.ofNat 32 (runSlot s).version
  | .SIL_FW_SVN => fwSvn s
  | .SIL_LOG_SEQ => BitVec.ofNat 32 (s.sil.seq - 1)
  | .SIL_MBX_STAT => put 0 0 (b2n (mbxBusy s)) w
  | .CLK_MEAS => BitVec.ofNat 32 (satTwos 16 (tget {} s.clks (rf s .CLK_MEAS_SEL 2 0) : Clk).dev)
  | .PWR_DIE_STAT => dieStat s
  | .PWR_PD_STAT0 => pdStat s 0 16
  | .PWR_PD_STAT1 => pdStat s 16 8
  | .THM_READ => thmRead s
  | .THM_BAY_STAT => thmBay s
  | .THM_MAX => thmMax s
  | .MADC_STAT => madcStat s w
  | .DBG_STAT => dbgStat s
  | .DBG_UNLOCK_CNT => BitVec.ofNat 32 s.sil.debugCount
  | .VEC_STAT => put 8 8 (b2n (fenced s 3 i)) w
  | .VEC_OCC => vecOcc s i
  | .VEC_CTX_STAT => vecCtxStat s i (rf s .VEC_CTX_SEL 11 0 i)
  | .VEC_CTX_SLOTS => vecCtxSlots s i (rf s .VEC_CTX_SEL 11 0 i)
  | .ACC_STAT => accStat s i w
  | .GLZ_SL_STAT => glzStat s i w
  | .TILE_CFG => tileCfg s i w
  | .TILE_LSEL => tileLsel s i w
  | .TILE_STAT => tileStat s i w
  | .VF_INFO => vfInfo s i
  | .VF_IDENT => identWord s
  | _ => w

end Sys2Proof.Machine
end

