-- ==== Sys2Proof/Machine/RegWrite.lean ====
section
/-! DEFINITION. Register accesses: what an offset reaches (R440 to R442), what an access meets (R455, R456), what a write does
(R446 to R453) and what a read returns. -/

namespace Sys2Proof.Machine

open Sys2Proof

/-! ### What an offset reaches -/

/-- A register of a window, with its copy, at an offset of that window. -/
def regAt (w : Win) (o : Nat) : Option (Reg × Nat) :=
  (allRegs.find? fun r =>
    let d := r.desc
    d.win == w && decide (d.off ≤ o) && (if d.stride = 0 then o == d.off
      else (o - d.off) % d.stride == 0 && decide ((o - d.off) / d.stride < d.count))).map fun r =>
    (r, if r.desc.stride = 0 then 0 else (o - r.desc.off) / r.desc.stride)

/-- A register, the cluster or tile whose window it lies in, and its copy. -/
structure Place2 where
  reg  : Reg
  unit : Nat := 0
  copy : Nat := 0
  deriving DecidableEq, Repr

/-- PF BAR0 (R440), and the mirror and the Spyhole port, which use its offsets. -/
def decodeBar0 (off : Nat) : Option Place2 :=
  if off < 0x100000 then
    match regAt (.blk (off / 0x10000)) (off % 0x10000) with
    | some (r, n) => if r = .HUB_VF_BIND ∧ n = 0 then none else some { reg := r, copy := n }
    | none => none
  else if 0x1000000 ≤ off ∧ off < 0x3000000 then
    let x := off - 0x1000000
    let bay := x % 0x400000 / 0x80000
    let cl := x / 0x400000 * 48 + bay * 8 + x % 0x80000 / 0x10000
    let o := x % 0x10000
    if 6 ≤ bay then none
    else if o < 0x8000 then (regAt .cluster o).map fun (r, n) => { reg := r, unit := cl, copy := n }
    else (regAt .tile (o % 0x400)).map fun (r, n) => { reg := r, unit := cl * 32 + (o - 0x8000) / 0x400, copy := n }
  else none

/-- VF BAR0 (R441). -/
def decodeVf (off : Nat) : Option Place2 :=
  if off < 0x8000 then
    match regAt (.blk 1) off with
    | some (r, n) => if r = .QM_FN_SEL ∨ r = .QM_FN_QUOTA ∨ 8 ≤ n then none else some { reg := r, copy := n }
    | none => none
  else if off < 0xF000 then
    match regAt (.blk 4) (off - 0x8000) with
    | some (r, n) => if (.SRV_CAP :: srvFnRegs).contains r then some { reg := r, copy := n } else none
    | none => none
  else (regAt .vf off).map fun (r, n) => { reg := r, copy := n }

/-- The registers that an access of a space can reach. -/
def decodeReg (sp : RegSpace) (off : Nat) : Option Place2 :=
  match sp with
  | .bar0 => decodeBar0 off
  | .vfBar0 _ => decodeVf off
  | _ => none

/-- The function whose registers a space holds. -/
def fnOfSpace (sp : RegSpace) : Nat :=
  match sp with
  | .bar0 => 0
  | .vfBar0 k => k
  | .bar2 fn => fn
  | .cfg fn _ => fn

/-- The instance of a register that a place names. -/
def Place2.inst (s : State) (sp : RegSpace) (p : Place2) : Nat :=
  selInst s (fnOfSpace sp) p.reg (if p.reg = .TILE_SAT then p.unit * 32 + p.copy else if p.reg.desc.win = .cluster ∨
    p.reg.desc.win = .tile then p.unit else p.copy)

/-- The physical function, or an enabled virtual one, those above 7 with ARI alone (R435, R437). PRESUMED (log entry 15). -/
def fnThere (s : State) (fn : Nat) : Bool :=
  fn == 0 || (s.pcie.vfEnable && decide (fn ≤ s.pcie.numVfs) && (s.pcie.ari || decide (fn ≤ 7)))

/-- The access of a source arrives: a host function exists and its link is up. DESIGN CHOICE (log entry 16). -/
def srcThere (s : State) (src : Src) : Bool :=
  match src with
  | .host fn => s.pcie.linkUp && fnThere s fn
  | _ => true

/-! ### What an access meets (R455, R456) -/

/-- The unit of R475 that guards a register of a cluster window. -/
def regGuard (r : Reg) (cl : Nat) : Nat × Nat :=
  let o := r.desc.off
  if 0x1000 ≤ o ∧ o < 0x2000 then (3, cl)
  else if 0x2000 ≤ o ∧ o < 0x3000 then (1, cl)
  else if 0x3000 ≤ o ∧ o < 0x4000 then (2, cl)
  else (8, cl / 8)

/-- The compute die of a place in a die window. -/
def Place2.die (p : Place2) : Option Nat :=
  match p.reg.desc.win with
  | .cluster => some (p.unit / 48)
  | .tile => some (p.unit / 1536)
  | _ => none

/-- The register's unit is off, in reset or fenced; a FAILED tile stays readable (R109, R456). -/
def regDown (s : State) (p : Place2) : Bool :=
  match p.reg.desc.win with
  | .cluster => let g := regGuard p.reg p.unit; !unitUp s g.1 g.2
  | .tile => !digOn s (p.unit / 1536) || tileDown s p.unit
  | _ => false

/-- The crossing to the register's die is closed (R479). -/
def crossClosed (s : State) (p : Place2) : Bool :=
  match p.die with
  | some d => (xOf s (xKey 0 d)).closed
  | none => false

/-- The register belongs to a peripheral whose clock is off (R570). -/
def regGated (s : State) (p : Place2) : Bool :=
  let r := p.reg
  if portRegs.contains r then !rb s .CLK_GATE (rf s .NET_PORT_SEL 4 0 / 16)
  else if r.desc.win = .blk 14 then !rb s .CLK_GATE 2
  else if r.desc.win = .blk 15 then !rb s .CLK_GATE 4
  else false

/-- The blocks that answer before READY: HUB, SIL, CLK, PWR, THM, MADC and DBG (R647). -/
def earlyBlocks : List Win := [.blk 0, .blk 10, .blk 11, .blk 12, .blk 13, .blk 14, .blk 15]

/-- The package is not READY, and the register lies in a block that does not answer yet (R647). DESIGN CHOICE (log entry 76). -/
def regAsleep (s : State) (p : Place2) : Bool := !rb s .HUB_BOOT_STAT 4 && !earlyBlocks.contains p.reg.desc.win

/-- What an access to a place meets. -/
inductive Meet where
  | ok
  | gated
  | err (cause : Nat) (x : Bool)
  deriving DecidableEq, Repr

/-- The rows of R455 that do not depend on the value written; `x` marks an XRESET. -/
def meets (s : State) (src : Src) (p : Place2) (write : Bool) : Meet :=
  if p.die.any fun d => !dieOn s d then .err 1 false
  else if crossClosed s p then .err 5 true
  else if regAsleep s p || regDown s p then .err 5 false
  else if regGated s p then .gated
  else if write && p.reg.desc.win == .blk 15 && src != .spyhole then .err 2 false
  else if write && p.reg == .SIL_MBX_REQ && mbxBusy s then .err 2 false
  else .ok

/-! ### Pairs (R447) -/

/-- The _HI half that a read of the _LO half of a read-only pair latches. -/
def hiOfRo (r : Reg) : Option Reg :=
  match r with
  | .HUB_ERR_ADDR_LO => some .HUB_ERR_ADDR_HI
  | .HUB_TIME_LO => some .HUB_TIME_HI
  | .HUB_MEM_POISON_LO => some .HUB_MEM_POISON_HI
  | .SET_ACTIVE_ID_LO => some .SET_ACTIVE_ID_HI
  | .CHK_FIND_TCLEAN_LO => some .CHK_FIND_TCLEAN_HI
  | .VEC_BEAT_CNT_LO => some .VEC_BEAT_CNT_HI
  | .GLZ_SL_MAC_CNT_LO => some .GLZ_SL_MAC_CNT_HI
  | .TILE_PASS_CNT_LO => some .TILE_PASS_CNT_HI
  | .DBG_HALTED_LO => some .DBG_HALTED_HI
  | _ => none

/-- The _HI half of a writable pair. -/
def hiOfRw (r : Reg) : Option Reg :=
  match r with
  | .HUB_BAR4_BASE_LO => some .HUB_BAR4_BASE_HI
  | .QM_SQ_BASE_LO => some .QM_SQ_BASE_HI
  | .QM_RQ_BASE_LO => some .QM_RQ_BASE_HI
  | .NET_PORT_MAC_LO => some .NET_PORT_MAC_HI
  | .DBG_HALT_MASK_LO => some .DBG_HALT_MASK_HI
  | .DBG_BP_VAL_LO => some .DBG_BP_VAL_HI
  | .DBG_BP_MASK_LO => some .DBG_BP_MASK_HI
  | _ => none

/-- The _LO half of a writable pair, of which `r` is the _HI half. -/
def loOfRw (r : Reg) : Option Reg :=
  match r with
  | .HUB_BAR4_BASE_HI => some .HUB_BAR4_BASE_LO
  | .QM_SQ_BASE_HI => some .QM_SQ_BASE_LO
  | .QM_RQ_BASE_HI => some .QM_RQ_BASE_LO
  | .NET_PORT_MAC_HI => some .NET_PORT_MAC_LO
  | .DBG_HALT_MASK_HI => some .DBG_HALT_MASK_LO
  | .DBG_BP_VAL_HI => some .DBG_BP_VAL_LO
  | .DBG_BP_MASK_HI => some .DBG_BP_MASK_LO
  | _ => none

/-- The number of a source in the tables of held and latched values. -/
def srcIndex (src : Src) : Nat :=
  match src with
  | .host fn => fn % 32
  | .silset => 40
  | .spyhole => 41

/-- The key of a source's value for an instance of a register. -/
def pairKey (src : Src) (r : Reg) (i : Nat) : Nat := regKey r i * 64 + srcIndex src

/-- A write of the _LO half is held for its source. -/
def holdLo (src : Src) (r : Reg) (i v : Nat) (s : State) : State :=
  { s with heldLo := tset 0 s.heldLo (pairKey src r i) (v % 2 ^ 32 + 1) }

/-- The window base keeps no bit below the BAR size in force (R444). -/
def alignBase (s : State) : State :=
  let b := (rd s .HUB_BAR4_BASE_LO).toNat + 2 ^ 32 * (rd s .HUB_BAR4_BASE_HI).toNat
  let b := b / 2 ^ s.pcie.bar4Log2 * 2 ^ s.pcie.bar4Log2
  wr .HUB_BAR4_BASE_HI 0 (BitVec.ofNat 32 (b / 2 ^ 32)) (wr .HUB_BAR4_BASE_LO 0 (BitVec.ofNat 32 b) s)

/-- A write of the _HI half: with the value that the source holds for the _LO half, or alone. -/
def pairHi (src : Src) (lo hi : Reg) (i off v : Nat) (s : State) : State :=
  let k := pairKey src lo i
  let held := tget 0 s.heldLo k
  let s := { s with heldLo := tdel s.heldLo k }
  let s := whenS (held != 0) (storeReg src lo i (off - 4) (held - 1)) s
  let s := storeReg src hi i off v s
  whenS (hi == .HUB_BAR4_BASE_HI) alignBase s

/-! ### Writes with effects of their own -/

/-- The blocks of an update group that can apply a strobe: the powered clusters that are not in reset, and the GLZ block. -/
def blocksOf (s : State) (g : Nat) : List Nat :=
  ((List.range 384).filter fun cl => digOn s (cl / 48) && !inReset s 3 cl && blockGrp s cl == g) ++
  (if blockGrp s 384 = g then [384] else [])

/-- A strobe of group `g`: the buffered writes of its blocks belong to it; without any it is accepted at once (R452).
DESIGN CHOICE (log entry 18). -/
def strobeGroup (g : Nat) (s : State) : State :=
  let own := s.rwb.filter fun e => blockGrp s (rwbBlock e.1) == g
  if own.isEmpty then bump .HUB_UPD_CNT 1 0 s
  else
    let bs := blocksOf s g ++ ((own.map fun e => rwbBlock e.1).filter fun b => !(blocksOf s g).contains b).eraseDups
    { s with strobes := s.strobes ++ [{ grp := g, blocks := bs, writes := own }],
             rwb := s.rwb.filter fun e => blockGrp s (rwbBlock e.1) != g }

/-- A write of HUB_UPD_STROBE (R451, R466). -/
def strobeWrite (v : Nat) (s : State) : State := foldS (setBitsOf 16 v) strobeGroup s

/-- A virtual function may be bound anew (R438). DESIGN CHOICE (log entry 18). -/
def vfIdle (s : State) (k : Nat) : Bool :=
  let c := cxOf s (cxKey (rf s .HUB_VF_BIND 2 0 k) k)
  (List.range 8).all (fun q => (queueOf s (qkOf k q)).st == 0) && handlesOf s k == 0 && c.active.isNone && c.staged.isNone

/-- A write of HUB_VF_BIND (R438, R471). -/
def bindWrite (src : Src) (k off v : Nat) (s : State) : State :=
  if vfIdle s k then storeReg src .HUB_VF_BIND k off v s else regErr 2 src .bar0 off true s

/-- The fields of QM_Q_CFG but ENABLE, and the vectors that a virtual function does not have (R390). -/
def qCfgBad (fn v : Nat) : Bool := fn != 0 && decide (63 < bitsOf v 26 16)

/-- A write of QM_Q_CFG: while ENABLE is 1 it only disables; else the fields are stored, and ENABLE enables (R346, R351).
DESIGN CHOICE (log entry 18). -/
def qCfgWrite (src : Src) (k off v : Nat) (s : State) : State :=
  let fn := k / 64
  let q := k % 64
  let old := (rd s .QM_Q_CFG k).toNat
  if old.testBit 0 then
    let other := (old ^^^ v) &&& Reg.QM_Q_CFG.desc.acc.rw != (old ^^^ v) &&& 1
    let s := whenS (v.testBit 0 || other) (srvLog 4 2 fn q 0 [0, 0, 0]) s
    if v.testBit 0 then s else disableQueue fn q (journal src off old v 0 true s)
  else
    let bad := qCfgBad fn v
    let s := storeReg src .QM_Q_CFG k off (if bad then setBits v 26 16 (bitsOf old 26 16) else v) s
    let s := whenS bad (logReserved src off v) s
    if v.testBit 0 then enableQueue fn q (wrf .QM_Q_CFG 0 0 0 k s) else disableQueue fn q s

/-- A base of a ring is written while its queue is enabled: ignored and logged (R351). -/
def baseLocked (s : State) (r : Reg) (i : Nat) : Bool :=
  [Reg.QM_SQ_BASE_LO, .QM_SQ_BASE_HI, .QM_RQ_BASE_LO, .QM_RQ_BASE_HI].contains r && rb s .QM_Q_CFG 0 i

/-- A write of SET_MIN_SVNk: a lower value is ignored and logged (R238); while LOCK is 1 any write that would change the value is a
locked one instead (R450). DESIGN CHOICE (log entry 18). -/
def minSvnWrite (src : Src) (k v : Nat) (s : State) : State :=
  let old := (rd s .SET_MIN_SVN k).toNat
  if !rb s .SET_LOCK 0 && decide (v < old) then
    logE { cls := 0x0B, code := 5, sev := 2, source := (srcLog src).1, func := (srcLog src).2, pt := k, data := [0, v, 0, old] } s
  else storeBlk src .SET_MIN_SVN k v s

/-- The triggers that waited while AUTO_CAL was 0 start their soaks once it is 1 (R174, R190). DESIGN CHOICE (log entry 34). -/
def startPending (s : State) : State :=
  if rb s .CAL_CTRL 0 then foldS (s.cal.filter fun e => e.2.pending) (fun e => requestSoak e.1 false) s else s

/-- A write of CAL_UTC: it is journalled, and the time taken unless IEEE 1588 disciplines the timebase (R187, R195).
DESIGN CHOICE (log entries 18, 108). -/
def utcWrite (src : Src) (v : Nat) (s : State) : State :=
  let t := journal src (blkOff .CAL_UTC) (utcNow s) v 0 true s
  if disciplined s then t else setUtc v t

/-- A write of CAL_WEAR_SEL loads the view registers (R197). -/
def wearSelWrite (src : Src) (v : Nat) (s : State) : State := showWear (storeBlk src .CAL_WEAR_SEL 0 v s)

/-- The levels that outputs drive after a write of HUB_GPIO_CTRL, where they change (R652). DESIGN CHOICE (log entry 84). -/
def gpioWrite (src : Src) (off v : Nat) (s : State) : State :=
  let old := s
  let s := storeReg src .HUB_GPIO_CTRL 0 off v s
  foldS (List.range 8) (fun n t =>
    let dir := rb t .HUB_GPIO_CTRL n
    let lvl := rb t .HUB_GPIO_CTRL (8 + n)
    whenS (dir && !(rb old .HUB_GPIO_CTRL n && rb old .HUB_GPIO_CTRL (8 + n) == lvl)) (emit (.pin (.gpio n) lvl)) t) s

/-- Limits of two fields of one register that are reserved together: the fields of these limits keep their values (R16, R273,
R341, R592). DESIGN CHOICE (log entry 17). -/
def crossBad (r : Reg) (v : Nat) : Option (Nat × Nat) :=
  match r with
  | .KVM_CTRL => if bitsOf v 30 24 ≤ bitsOf v 22 16 then some (30, 16) else none
  | .CHK_CTRL => if bitsOf v 23 16 ≤ bitsOf v 15 8 then some (23, 16) else none
  | .THM_CTRL => if bitsOf v 7 0 < bitsOf v 15 8 ∧ bitsOf v 15 8 < bitsOf v 23 16 then none else some (23, 0)
  | _ => none

/-- The state after an outcome, or the state before it. -/
def outState (s : State) (o : Out) : State :=
  match o with
  | .next t => t
  | _ => s

/-- The bytes of the request buffer (R555). -/
def reqBytes (s : State) : List Byte := (List.range 64).flatMap fun i => bytesLE 4 (rd s .SIL_MBX_REQ i).toNat

/-- A request of SCAN_WRITE: the pattern set is read from host memory; the answer follows with the data.
DESIGN CHOICE (log entry 19). -/
def scanRead (tag addr len : Nat) (s : State) : State :=
  let pl := bytesLE 8 addr ++ bytesLE 4 len
  let ans := fun st => mbxRun 0x0050 tag pl (ansOnly st []) s
  if mbxBusy s || s.sil.state == 3 then ans 1
  else if sessionOpen s then ans 3
  else if len = 0 || decide (0x2000000 < len) then ans 1
  else if !s.sil.flashOk then ans 6
  else emit (.hostRead 0 addr len) s

/-- GO: the request in the buffer is submitted; a length that is not the opcode's is INVALID (R555).
DESIGN CHOICE (log entry 19). -/
def mbxGo (s : State) : State :=
  let b := reqBytes s
  let u := leAt b
  let op := u 0 2
  let len := u 2 2
  let tag := u 4 4
  let run := fun (n : Nat) (o : State → Out) =>
    if len = n then outState s (o s) else mbxRun op tag ((b.drop 8).take len) (ansOnly 1 []) s
  match op with
  | 0x01 => run 0 (execGetInfo tag)
  | 0x10 => run 5 (execLogRead tag (u 8 4) (u 12 1 == 1))
  | 0x20 => run 12 (execFwStage tag (u 8 8) (u 16 4))
  | 0x21 => run 0 (execFwStatus tag)
  | 0x22 => run 1 (execFwActivate tag ((u 8 1).testBit 0) ((u 8 1).testBit 1))
  | 0x30 => run 194 (execKeyEnroll false tag (u 8 1) (u 9 97) (u 106 96))
  | 0x31 => run 97 (execKeyRevoke false tag (u 8 1) (u 9 96))
  | 0x32 => run 0 (execKeyList tag)
  | 0x40 => run 4 (execCommission false tag (u 8 4))
  | 0x50 => run 12 (fun s => done (scanRead tag (u 8 8) (u 16 4) s))
  | _ => mbxRun op tag ((b.drop 8).take len) (ansOnly 1 []) s

/-! ### Sticky bits with counters (R76, R78, R100, R276, R304, R308) -/

/-- Count `[hi:lo]` of a register returns to zero with bit `b` of the value written. -/
def zeroWith (v b : Nat) (r : Reg) (hi lo i : Nat) (s : State) : State := whenS (v.testBit b) (wrf r hi lo 0 i) s

/-- The counts that a clear of sticky bits takes with it. -/
def clearCounts (r : Reg) (i v : Nat) (s : State) : State :=
  match r with
  | .TILE_STAT => zeroWith v 4 .TILE_SAT_CNT 31 0 i s
  | .GLZ_CONV_STAT => foldS (List.range 4) (fun b => zeroWith v b .GLZ_CONV_CNT (8 * b + 7) (8 * b) i) s
  | .KVM_CONV_STAT => foldS (List.range 4) (fun b => zeroWith v b .KVM_CONV_CNT (8 * b + 7) (8 * b) i) s
  | .HUB_MEM_ERR_STAT =>
    zeroWith v 0 .HUB_MEM_CE_CNT 15 0 0 (zeroWith v 2 .HUB_MEM_CE_CNT 31 16 0
      (zeroWith v 1 .HUB_MEM_UE_CNT 15 0 0 (zeroWith v 3 .HUB_MEM_UE_CNT 31 16 0 s)))
  | .SPM_STAT => zeroWith v 0 .SPM_CNT 15 0 i (zeroWith v 1 .SPM_CNT 31 16 i s)
  | .VEC_CTX_STAT =>
    let k := i * 4096 + rf s .VEC_CTX_SEL 11 0 i
    { s with vctx := tmod {} s.vctx k fun c => { c with flags := c.flags &&& (15 ^^^ bitsOf v 21 18) } }
  | _ => s

/-- A write to a register with RWB fields: those go to the buffer, the others as usual (R451). -/
def bufWrite (src : Src) (r : Reg) (i off v : Nat) (s : State) : State :=
  let a := r.desc.acc
  let old := (rd s r i).toNat
  let x := storeVal s r i v
  let badB := reservedFields r v &&& a.rwb
  let m := a.rwb &&& (0xFFFFFFFF ^^^ badB)
  let b := tget {} s.rwb (regKey r i)
  let seen := mixBits b.mask old b.val
  let s := wr r i (BitVec.ofNat 32 x.1) s
  let s := if m = 0 then s
    else { s with rwb := tins s.rwb (regKey r i) { val := mixBits m b.val v, mask := b.mask ||| m } }
  let s := whenS (x.2.1 ||| badB != 0) (logReserved src off v) s
  let changed := everyWrite r || ((old ^^^ x.1) &&& (a.rw ||| a.rwl)) != 0 || ((seen ^^^ v) &&& m) != 0
  whenS r.desc.journ (journal src off old v 0 changed) s

/-- Every pool of the images that contexts hold is held against its watermarks (R332). -/
def spillAll (s : State) : State :=
  foldS ((s.ctxs.flatMap fun e => e.2.images).map (kvOf s)).dedup spillCheck s

/-- A write of a register without an effect of its own. -/
def plainWrite (src : Src) (r : Reg) (i off v : Nat) (s : State) : State :=
  if r.desc.acc.rwb != 0 then bufWrite src r i off v s
  else
    let old := (rd s r i).toNat
    match crossBad r v with
    | some (hi, lo) => logReserved src off v (storeReg src r i off (setBits v hi lo (bitsOf old hi lo)) s)
    | none => clearCounts r i v (storeReg src r i off v s)

/-- A write to a register, whatever its effect. -/
def writeReg (src : Src) (r : Reg) (i off v : Nat) (s : State) : State :=
  match r with
  | .HUB_UPD_STROBE => strobeWrite v s
  | .HUB_VF_BIND => bindWrite src i off v s
  | .HUB_GPIO_CTRL => gpioWrite src off v s
  | .QM_Q_CFG => qCfgWrite src i off v s
  | .SET_MIN_SVN => minSvnWrite src i v s
  | .NET_PORT_CFG => portCfgWrite src i v false s
  | .KVM_CTRL => spillAll (plainWrite src r i off v s)
  | .RST_REQ => rstReqWrite src v s
  | .RST_FENCE_HOST => fenceHostWrite src v s
  | .CHK_RATE => plainWrite src r i off v (accrueAll s)
  | .CHK_SCAN_CTRL => scanWrite src v [] s
  | .CAL_CTRL => startPending (plainWrite src r i off v s)
  | .CAL_UTC => utcWrite src v s
  | .CAL_WEAR_SEL => wearSelWrite src v s
  | .SIL_MBX_CTRL => whenS (v.testBit 0) mbxGo s
  | .CLK_GATE => clkGateWrite src v s
  | .PWR_PT_REQ => ptReqWrite src v s
  | .MADC_CHSEL => chselWrite src v s
  | .RST_SPLIT =>
    let t := plainWrite src r i off v s
    whenS (splitNext t != splitNext s) (askFlash .stateStore) t
  | .DBG_CTRL => dbgCtrlWrite v s
  | .DBG_SIL_CTRL => silCtrlWrite v s
  | _ =>
    if baseLocked s r i then srvLog 4 2 (i / 64) (i % 64) 0 [0, 0, 0] s
    else if (hiOfRw r).isSome then holdLo src r i v s
    else match loOfRw r with
      | some lo => pairHi src lo r i off v s
      | none => plainWrite src r i off v s

/-- A register write of one DWORD: the CAUSE it meets, 0 for none, and the state after it. -/
def writeAt (src : Src) (sp : RegSpace) (off v : Nat) (s : State) : Nat × State :=
  match decodeReg sp off with
  | none => (1, regErr 1 src sp off true s)
  | some p => match meets s src p true with
    | .gated => (0, s)
    | .err c x => (c, regErr c src sp off true (whenS x xreset s))
    | .ok =>
      if p.reg.desc.win == .blk 15 && !dbgMayWrite s p.reg v then
        (0, spyLog 0x0A 2 [off, v] { s with dbg.status := 2 })
      else
        let i := p.inst s sp
        (if (storeVal s p.reg i v).2.2 then 3 else 0, writeReg src p.reg i off v s)

/-! ### Reads -/

/-- The value of a register for a source: a latched _HI half, or the value in force; a read of a _LO half latches (R447). -/
def readReg (src : Src) (r : Reg) (i : Nat) (s : State) : Word × State :=
  let k := pairKey src r i
  let lat := tget 0 s.latched k
  if lat != 0 then (BitVec.ofNat 32 (lat - 1), { s with latched := tdel s.latched k })
  else
    let s' := match hiOfRo r with
      | some hi => { s with latched := tset 0 s.latched (pairKey src hi i) ((viewWord s hi i).toNat + 1) }
      | none => s
    (viewWord s r i, s')

/-- A register read: the CAUSE it meets, 0 for none, the value, and the state after it. -/
def readAt (src : Src) (sp : RegSpace) (off : Nat) (s : State) : Nat × Word × State :=
  match decodeReg sp off with
  | none => (1, 0, regErr 1 src sp off false s)
  | some p => match meets s src p false with
    | .gated => (0, 0, s)
    | .err c x => (c, 0, regErr c src sp off false (whenS x xreset s))
    | .ok => (0, readReg src p.reg (p.inst s sp) s)

/-! ### BAR2 and configuration space (R437, R442 to R444, R459, R460) -/

/-- Vector `vec` becomes unmasked: a pending event is signalled (R443). -/
def unmaskVec (fn vec : Nat) (s : State) : State :=
  let s := modFn fn (fun f => { f with unmasked := tset 0 f.unmasked vec 1 }) s
  let f := fnOf s fn
  if f.msixEn && !f.fmask && tget 0 f.pend vec == 1 then
    emit (.msix fn vec) (modFn fn (fun f => { f with pend := tset 0 f.pend vec 0 }) s)
  else s

/-- A write of a DWORD of the MSI-X table. -/
def tableWrite (fn vec dw v : Nat) (s : State) : State :=
  let s := modFn fn (fun f => { f with table := tset 0 f.table (vec * 4 + dw) v }) s
  if dw != 3 then s
  else if v.testBit 0 then modFn fn (fun f => { f with unmasked := tset 0 f.unmasked vec 0 }) s
  else unmaskVec fn vec s

/-- Offsets of the MSI-X table and of the PBA in BAR2 (R442). -/
def tableBase (fn : Nat) : Nat := if fn = 0 then 0x40000 else 0x8000
def pbaBase (fn : Nat) : Nat := if fn = 0 then 0x48000 else 0x8400

/-- What a DWORD of BAR2 is. -/
inductive Bar2 where
  | door (q : Nat) (rq : Bool)
  | table (vec dw : Nat)
  | pba (i : Nat)
  | none
  deriving DecidableEq, Repr

/-- The layout of BAR2 (R347, R442). -/
def decodeBar2 (fn off : Nat) : Bar2 :=
  if off % 4 ≠ 0 then .none
  else if off < (if fn = 0 then 64 else 8) * 0x1000 then
    (if off % 0x1000 = 0 then .door (off / 0x1000) false else if off % 0x1000 = 4 then .door (off / 0x1000) true else .none)
  else if tableBase fn ≤ off ∧ off < tableBase fn + 16 * vecCount fn then
    .table ((off - tableBase fn) / 16) ((off - tableBase fn) % 16 / 4)
  else if pbaBase fn ≤ off ∧ off < pbaBase fn + vecCount fn / 8 then .pba ((off - pbaBase fn) / 4)
  else .none

/-- A write of a DWORD of BAR2. DESIGN CHOICE (log entry 16). -/
def bar2Write (src : Src) (fn off v : Nat) (s : State) : State :=
  match decodeBar2 fn off with
  | .door q false => outState s (execSqTail fn q v s)
  | .door q true => outState s (execRqHead fn q v s)
  | .table vec dw => tableWrite fn vec dw v s
  | .pba _ => s
  | .none => regErr 1 src (.bar2 fn) off true s

/-- A read of a DWORD of BAR2; a doorbell reads as zero. DESIGN CHOICE (log entry 16). -/
def bar2Read (src : Src) (fn off : Nat) (s : State) : Nat × Word × State :=
  let f := fnOf s fn
  match decodeBar2 fn off with
  | .door _ _ => (0, 0, s)
  | .table vec dw =>
    let w := tget 0 f.table (vec * 4 + dw)
    (0, BitVec.ofNat 32 (if dw = 3 then setBits w 0 0 (1 - tget 0 f.unmasked vec) else w), s)
  | .pba i => (0, BitVec.ofNat 32 (((List.range 32).map fun b => tget 0 f.pend (32 * i + b) * 2 ^ b).sum), s)
  | .none => (1, 0, regErr 1 src (.bar2 fn) off false s)

/-- MSI-X Enable and Function Mask are written: pending vectors that nothing masks any longer are signalled (R443).
PRESUMED (log entry 15). -/
def msixWrite (fn v : Nat) (s : State) : State :=
  let s := modFn fn (fun f => { f with msixEn := v.testBit 15, fmask := v.testBit 14 }) s
  if v.testBit 15 && !v.testBit 14 then
    foldS (((fnOf s fn).pend.map (·.1)).filter fun vec => tget 0 (fnOf s fn).unmasked vec == 1) (unmaskVec fn) s
  else s

/-- Memory Space Enable: a resize takes effect when it is set (R444). DESIGN CHOICE (log entry 14). PRESUMED (log entry 15). -/
def mseWrite (on : Bool) (s : State) : State :=
  let s := { s with pcie.mse := on }
  match s.pcie.bar4New with
  | some n => if on then alignBase { s with pcie.bar4Log2 := n, pcie.bar4New := none } else s
  | none => s

/-- VF Enable: clearing it resets every virtual function (R462). PRESUMED (log entry 15). -/
def vfEnableWrite (on : Bool) (s : State) : State :=
  if s.pcie.vfEnable && !on then
    { foldS ((List.range s.pcie.numVfs).map (· + 1)) flrVf s with pcie.vfEnable := false }
  else { s with pcie.vfEnable := on }

/-- The errors of AER that the implemented features have, uncorrectable (4, 5, 12 to 22) and correctable (0, 6, 7, 8, 12, 13), and the
ACS controls: translation blocking, P2P request and completion redirect, upstream forwarding, egress control (R435, R459).
PRESUMED (log entry 15). -/
def uncBits : Nat := 0x7FF030
def corBits : Nat := 0x31C1
def acsBits : Nat := 0x2E

/-- A write of Device Control: the error reporting enables and relaxed ordering; Max_Payload_Size of 128 to 512 bytes, which a virtual
function takes from the physical one; Max_Read_Request_Size of 128 to 4,096 bytes (R435). PRESUMED (log entry 15). -/
def devCtlOf (old fn v : Nat) : Nat :=
  let mps := if fn = 0 ∧ bitsOf v 7 5 ≤ 2 then bitsOf v 7 5 else bitsOf old 7 5
  let mrrs := if bitsOf v 14 12 ≤ 5 then bitsOf v 14 12 else bitsOf old 14 12
  (v &&& 0x1F) + mps * 2 ^ 5 + mrrs * 2 ^ 12

/-- The size and the kind bits of a 64-bit BAR of the physical function, or of its virtual functions; only BAR4 is prefetchable (R439). -/
def barShape (s : State) (vf : Bool) (n : Nat) : Option (Nat × Nat) :=
  if vf then (if n / 2 < 2 then some (16, 4) else none)
  else if n / 2 = 0 then some (26, 4)
  else if n / 2 = 1 then some (19, 4)
  else if n / 2 = 2 then some (s.pcie.bar4Log2, 0xC)
  else none

/-- A BAR as it is read: base bits below the size are 0 and the low half shows the kind; an odd BAR is an upper half (R439).
PRESUMED (log entry 15). -/
def barRead (s : State) (vf : Bool) (n : Nat) : Nat :=
  match barShape s vf n with
  | none => 0
  | some (log2, kind) =>
    let v := tget 0 (if vf then s.pcie.vfBars else s.pcie.bars) n
    if n % 2 = 1 then v / 2 ^ (log2 - 32) * 2 ^ (log2 - 32)
    else if log2 < 32 then v / 2 ^ log2 * 2 ^ log2 + kind else kind

/-- A configuration write of one of the items that the manual names. PRESUMED (log entry 15). -/
def cfgWrite (fn : Nat) (item : CfgItem) (v : Nat) (s : State) : State :=
  match item with
  | .msixControl => msixWrite fn v s
  | .numVfs => if fn = 0 ∧ s.pcie.vfEnable = false ∧ v ≤ 31 then { s with pcie.numVfs := v } else s
  | .vfEnable => if fn = 0 then vfEnableWrite (v.testBit 0) { s with pcie.ari := v.testBit 4 } else s
  | .memorySpace => if fn = 0 then mseWrite (v.testBit 1) s else s
  | .devControl => modFn fn (fun f => { f with devCtl := devCtlOf f.devCtl fn v }) s
  | .cplTimeout => modFn fn (fun f => { f with cplRange := v % 16, ido := v / 2 ^ 8 % 4 }) s
  | .ecrc => modFn fn (fun f => { f with ecrcGen := v.testBit 6, ecrcCheck := v.testBit 8 }) s
  | .linkControl => if fn = 0 then { s with pcie.linkCtl := v &&& 2 } else s
  | .acsControl => if fn = 0 then { s with pcie.acs := v &&& acsBits } else s
  | .bar n => if fn = 0 ∧ n < 6 then { s with pcie.bars := tset 0 s.pcie.bars n (v % 2 ^ 32) } else s
  | .vfBar n => if fn = 0 ∧ n < 6 then { s with pcie.vfBars := tset 0 s.pcie.vfBars n (v % 2 ^ 32) } else s
  | .uncStatus => modFn fn (fun f =>
      { f with aerStat := f.aerStat ^^^ (f.aerStat &&& v), hdrLog := f.hdrLog.filter fun h => !v.testBit h.1 }) s
  | .uncMask => modFn fn (fun f => { f with uncMask := v &&& uncBits }) s
  | .uncSeverity => modFn fn (fun f => { f with aerSev := v &&& uncBits }) s
  | .corStatus => modFn fn (fun f => { f with corStat := f.corStat ^^^ (f.corStat &&& v) }) s
  | .corMask => modFn fn (fun f => { f with corMask := v &&& corBits }) s
  | .ident | .classRev | .vfCounts | .vfStride | .vfDevice | .pageSizes | .serialLo | .serialHi | .barSize | .linkStatus
  | .headerLog _ => s

/-- The Device IDs of the physical function and of a virtual one, by PART of HUB_IDENT (R436). -/
def deviceId (s : State) : Nat := if s.fuses.part4808 then 0x4808 else 0x3606
def vfDeviceId (s : State) : Nat := if s.fuses.part4808 then 0x4809 else 0x3607

/-- A configuration read of one of the items that the manual names (R435 to R437, R439, R443, R444, R459, R460). The places of the bits
are those of the PCIe specification. PRESUMED (log entry 15). -/
def cfgRead (s : State) (fn : Nat) (item : CfgItem) : Nat :=
  let f := fnOf s fn
  match item with
  | .msixControl => vecCount fn - 1 + b2n f.fmask * 2 ^ 14 + b2n f.msixEn * 2 ^ 15
  | .numVfs => if fn = 0 then s.pcie.numVfs else 0
  | .vfEnable => if fn = 0 then b2n s.pcie.vfEnable + b2n s.pcie.ari * 2 ^ 4 else 0
  | .memorySpace => if fn = 0 then 2 * b2n s.pcie.mse else 0
  | .cplTimeout => f.cplRange + f.ido * 2 ^ 8
  | .ecrc => 2 ^ 5 + b2n f.ecrcGen * 2 ^ 6 + 2 ^ 7 + b2n f.ecrcCheck * 2 ^ 8
  | .ident => 0x1FC7 + (if fn = 0 then deviceId s else vfDeviceId s) * 2 ^ 16
  | .classRev => s.fuses.step % 2 ^ 8 + 0x120000 * 2 ^ 8
  | .vfCounts => if fn = 0 then 31 + 31 * 2 ^ 16 else 0
  | .vfStride => if fn = 0 then 1 + 2 ^ 16 else 0
  | .vfDevice => if fn = 0 then vfDeviceId s * 2 ^ 16 else 0
  | .pageSizes => if fn = 0 then 1 else 0
  | .serialLo => if fn = 0 then s.fuses.serial % 2 ^ 32 else 0
  | .serialHi => if fn = 0 then s.fuses.serial / 2 ^ 32 % 2 ^ 32 else 0
  | .barSize => if fn = 0 then s.pcie.bar4Log2 else 0
  | .devControl => if fn = 0 then f.devCtl else setBits f.devCtl 7 5 (bitsOf (fnOf s 0).devCtl 7 5)
  | .linkControl => if fn = 0 then s.pcie.linkCtl else 0
  | .linkStatus => if fn = 0 then s.pcie.speed + s.pcie.width * 2 ^ 4 else 0
  | .acsControl => if fn = 0 then s.pcie.acs else 0
  | .bar n => if fn = 0 then barRead s false n else 0
  | .vfBar n => if fn = 0 then barRead s true n else 0
  | .uncStatus => f.aerStat
  | .uncMask => f.uncMask
  | .uncSeverity => f.aerSev
  | .corStatus => f.corStat
  | .corMask => f.corMask
  | .headerLog n => (f.hdrLog.bind fun h => h.2[n]?).getD 0

/-! ### The rows -/

/-- The DWORD writes of an access: one, or two with the lower offset first (R446). -/
def dwords (off size v : Nat) : List (Nat × Nat) :=
  if size = 8 then [(off, v % 2 ^ 32), (off + 4, v / 2 ^ 32 % 2 ^ 32)] else [(off, v % 2 ^ 32)]

/-- One or two whole DWORDs, aligned to their size (R446). DESIGN CHOICE (log entry 16). -/
def sizeOk (off size : Nat) (full : Bool) : Bool := full && (size == 4 || size == 8) && off % size == 0

/-- REGISTER_WRITE (R15, R446 to R456). -/
def execRegisterWrite (src : Src) (sp : RegSpace) (off size : Nat) (full : Bool) (value : Nat) (s : State) : Out :=
  done <|
    if !srcThere s src then s
    else match sp with
      | .cfg fn item => if fnThere s fn then cfgWrite fn item value s else s
      | .bar2 fn =>
        if sizeOk off size full then foldS (dwords off size value) (fun d => bar2Write src fn d.1 d.2) s
        else regErr 4 src sp off true s
      | _ =>
        if sizeOk off size full then foldS (dwords off size value) (fun d s => (writeAt src sp d.1 d.2 s).2) s
        else regErr 4 src sp off true s

/-- The status of a completion for a CAUSE (R455). -/
def cplOf (cause : Nat) : Cpl := if cause = 0 then .sc else if cause = 1 then .ur else .ca

/-- A read of one DWORD: the CAUSE it meets, its value and the state after it. A configuration read of a function that is not there is
an Unsupported Request. -/
def readDword (src : Src) (sp : RegSpace) (off : Nat) (s : State) : Nat × Word × State :=
  match sp with
  | .bar2 fn => bar2Read src fn off s
  | .cfg fn item => if fnThere s fn then (0, BitVec.ofNat 32 (cfgRead s fn item), s) else (1, 0, s)
  | _ => readAt src sp off s

/-- PAIR_LO_READ (R446, R447): a register read; that of a _LO half of a read-only pair latches the _HI half. A read of two DWORDs is
two reads, the lower offset first, and is answered by one completion, which the first error decides. DESIGN CHOICE (log entry 16). -/
def execPairLoRead (src : Src) (sp : RegSpace) (off size : Nat) (full : Bool) (s : State) : Out :=
  done <|
    if !srcThere s src then s
    else if !sizeOk off size full then emit (.cpl src .ca []) (regErr 4 src sp off false s)
    else
      let x := readDword src sp off s
      if size = 8 then
        let y := readDword src sp (off + 4) x.2.2
        let c := if x.1 = 0 then y.1 else x.1
        emit (.cpl src (cplOf c) (if c = 0 then [x.2.1.toNat, y.2.1.toNat] else [])) y.2.2
      else emit (.cpl src (cplOf x.1) (if x.1 = 0 then [x.2.1.toNat] else [])) x.2.2

/-- PAIR_HI_WRITE (R447). -/
def execPairHiWrite (src : Src) (sp : RegSpace) (off : Nat) (value : Word) (s : State) : Out :=
  done <|
    if !srcThere s src then s
    else match sp with
      | .bar2 fn => bar2Write src fn off value.toNat s
      | .cfg fn item => if fnThere s fn then cfgWrite fn item value.toNat s else s
      | _ => if off % 4 = 0 then (writeAt src sp off value.toNat s).2 else regErr 4 src sp off true s

/-- REGISTER_ACCESS_TIMEOUT (R457): no handshake for 100 µs. -/
def execRegisterAccessTimeout (src : Src) (sp : RegSpace) (off : Nat) (write : Bool) (s : State) : Out :=
  done <|
    if !srcThere s src then s
    else
      let s := regErr 6 src sp off write s
      if write then s else emit (.cpl src .ca []) s

/-- UPDATE_STROBE (R452). -/
def execUpdateStrobe (src : Src) (value : Word) (s : State) : Out :=
  done (if srcThere s src then strobeWrite value.toNat s else s)

/-- CLUSTER_STROBE_APPLY (R452). -/
def execClusterStrobeApply (block : Nat) (s : State) : Out := done (strobeApply block s)

/-- VF_BIND_WRITE (R438). -/
def execVfBindWrite (src : Src) (k : Nat) (value : Word) (s : State) : Out :=
  done (if srcThere s src then bindWrite src k (blkOff .HUB_VF_BIND k) value.toNat s else s)

/-- SET_MIN_SVN_WRITE (R238). -/
def execSetMinSvnWrite (src : Src) (k : Nat) (value : Word) (s : State) : Out :=
  done (if srcThere s src then minSvnWrite src k value.toNat s else s)

/-- CAL_UTC_WRITE (R195). DESIGN CHOICE (log entry 18). -/
def execCalUtcWrite (src : Src) (value : Word) (s : State) : Out :=
  done (if srcThere s src then utcWrite src value.toNat s else s)

/-- CAL_WEAR_SEL_WRITE (R197). -/
def execCalWearSelWrite (src : Src) (value : Word) (s : State) : Out :=
  done (if srcThere s src then wearSelWrite src value.toNat s else s)

end Sys2Proof.Machine
end

