-- ==== Sys2Proof/Machine/Host.lean ====
section
/-! DEFINITION. The host interface beside the registers: the BAR4 window (R444, R455), MSI-X (R443), function level resets and
the link (R461, R462), errors of the link (R459, R460), attestation over DOE (R463, R548, R549). -/

namespace Sys2Proof.Machine

open Sys2Proof

/-! ### BAR4 (R444, R455) -/

/-- The base of the window. -/
def bar4Base (s : State) : Nat := (rd s .HUB_BAR4_BASE_LO).toNat + 2 ^ 32 * (rd s .HUB_BAR4_BASE_HI).toNat

/-- An access of `n` bytes at offset `off` of the window reaches the device. DESIGN CHOICE (log entry 14). -/
def bar4Hit (s : State) (off n : Nat) : Bool := s.pcie.linkUp && decide (off + n ≤ 2 ^ s.pcie.bar4Log2)

/-- The first poisoned word that an access touches. -/
def firstPoison (s : State) (a n : Nat) : Nat :=
  ((s.poison.find? fun e => decide (e.1 < a + n) && decide (a < e.1 + eccLen e.1)).map (·.1)).getD a

/-- Why an access through the window is not performed: the CAUSE, its address, and the state in which it is recorded.
DESIGN CHOICE (log entry 83). -/
def bar4Err (a n : Nat) (write : Bool) (s : State) : Option (Nat × State) :=
  if !rb s .HUB_HOST_CFG 0 || (write && rb s .HUB_HOST_CFG 1) then some (2, hubErr 2 3 a 0 0 write s)
  else match judge s .pf a n with
    | some (c, b) => some (c, addrViolation c b 0 0 write s)
    | none => match hubDown s a n with
      | some b => some (5, hubErr 5 3 b 0 0 write (hubXreset a n s))
      | none => none

/-- BAR4_READ (R444, R455). DESIGN CHOICE (log entry 83). -/
def execBar4Read (off len : Nat) (s : State) : Out :=
  done <|
    if !bar4Hit s off len then s
    else
      let a := bar4Base s + off
      match bar4Err a len false s with
      | some (c, t) => emit (.cpl (.host 0) (cplOf c) []) t
      | none =>
        if anyPoison s a len then
          emit (.cpl (.host 0) .scEp []) (hubErrA none 7 3 (firstPoison s a len) 0 0 false s)
        else emit (.cpl (.host 0) .sc ((rdBytes s a len).map (·.toNat))) (spmTouch a s)

/-- BAR4_WRITE (R283, R288, R444, R455). -/
def execBar4Write (off : Nat) (bytes : List Byte) (s : State) : Out :=
  done <|
    let n := bytes.length
    if !bar4Hit s off n then s
    else
      let a := bar4Base s + off
      match bar4Err a n true s with
      | some (_, t) => t
      | none => whenS (wrRefused s a n) (hubErrA (some 1) 7 3 (firstRefused s a n) 0 0 true) (spmTouch a (wrBytes a bytes s))

/-- BAR4_RESIZE (R444): the size written to the Resizable BAR capability, in force from the next setting of Memory Space
Enable. DESIGN CHOICE (log entry 14). -/
def execBar4Resize (log2 : Nat) (s : State) : Out :=
  done (if s.pcie.linkUp && decide (28 ≤ log2) && decide (log2 ≤ 37) then { s with pcie.bar4New := some log2 } else s)

/-! ### Vectors, resets, link (R443, R459 to R462) -/

/-- MSIX_UNMASK (R443). -/
def execMsixUnmask (fn vec : Nat) (s : State) : Out :=
  done (if s.pcie.linkUp && fnThere s fn && decide (vec < vecCount fn) then unmaskVec fn vec s else s)

/-- VF_FLR (R461). -/
def execVfFlr (k : Nat) (s : State) : Out :=
  done (if s.pcie.linkUp && decide (1 ≤ k) && fnThere s k then flrVf k s else s)

/-- PF_FLR (R462). -/
def execPfFlr (s : State) : Out := done (if s.pcie.linkUp then flrPf s else s)

/-- HOST_LINK_DOWN (R462). -/
def execHostLinkDown (s : State) : Out := done (linkDown s)

/-- RECEIVED_TLP_ERROR (R455, R459, R464): a packet fails ECRC, or carries EP, and is dropped; another error of the link or of a packet
is reported through AER, a packet that fails LCRC as a correctable one, which the link replays. DESIGN CHOICE (log entry 83). -/
def execReceivedTlpError (fn : Nat) (err : TlpErr) (cpl : Bool) (header : List Nat) (s : State) : Out :=
  done <|
    if !s.pcie.linkUp || !fnThere s fn then s
    else match err with
      | .ecrc => whenS (fnOf s fn).ecrcCheck (aerReport fn 19 0 0 (some header)) s
      | .poisoned => aerReport fn 12 7 3 (some header) (hubErrA none 7 3 0 fn (if cpl then 3 else 0) (!cpl) s)
      | .uncorrectable b => aerReport fn b 0 0 (some header) s
      | .correctable b => aerCorrect fn b s

/-- A command whose source could not be read fails with MEMORY_ERROR (R232, R460). DESIGN CHOICE (log entry 26). -/
def sourceFails (h : Nat) (s : State) : State :=
  match cmdOf s h with
  | none => s
  | some c =>
    if !c.run then (if mayStart s c then fail h 0x1A s else s)
    else if c.op = 0x01 then failLoad c.ctx 0x1A 0 s
    else if c.op = 0x04 then complete h 0x1A c.info (badCount s c.ctx) s
    else cancelCmd h 0x1A s

/-- A staging whose source could not be read ends with FLASH_ERR, and so does a pattern set that could not be read (R544, R555). DESIGN CHOICE (log entry 26). -/
def stagingFails (s : State) : State :=
  if sessionOpen s then sessionFails s
  else
    let b := reqBytes s
    if leAt b 0 2 = 0x50 then mbxRespond 6 (leAt b 4 4) [] s else s

/-- The requester of a read of host memory that delivered no data fails (R460). -/
def requesterFails (fn : Nat) (req : HostReq) (s : State) : State :=
  match req with
  | .command q => if (queueOf s (qkOf fn q)).st = 1 then queueError (qkOf fn q) 0 1 s else s
  | .ringHead h => outState s (execRingHeadPoll h 0 false s)
  | .source h => sourceFails h s
  | .staging => stagingFails s

/-- HOST_READ_TIMEOUT (R459, R460): the read delivers no data, and its requester fails as its chapter states; one that timed out is
reported through AER as a Completion Timeout. PRESUMED (log entry 15). -/
def execHostReadTimeout (fn : Nat) (req : HostReq) (timedOut : Bool) (s : State) : Out :=
  done (requesterFails fn req (whenS timedOut (aerReport fn 14 0 0 none) s))

/-! ### DOE and SPDM (R463, R548, R549) -/

/-- A data object: it is answered while Silset runs, and waits while it does not. -/
def doe (i : Instr) (f : State → State) (s : State) : Out :=
  done <|
    if !s.pcie.linkUp then s
    else if s.sil.state != 1 then { s with pcie.doeReq := some i }
    else f { s with pcie.doeReq := none }

/-- The object that waits, once Silset runs. PRESUMED (log entry 28). -/
def nextDoe (s : State) : Option (Instr × State) :=
  if s.sil.state == 1 then s.pcie.doeReq.map fun i => (i, { s with pcie.doeReq := none }) else none

/-- Response codes of SPDM. -/
def spdmDigests : Nat := 0x01
def spdmCertificate : Nat := 0x02
def spdmChallengeAuth : Nat := 0x03
def spdmVersion : Nat := 0x04
def spdmMeasurements : Nat := 0x60
def spdmCapabilities : Nat := 0x61
def spdmAlgorithms : Nat := 0x63
def spdmError : Nat := 0x7F

/-- An error response: 1 invalid request, 4 unexpected request, 5 unspecified. PRESUMED (log entry 28). -/
def spdmErr (code : Nat) (s : State) : State := emit (.doe spdmError [code]) s

/-- A request that needs the negotiation to have come to `n`. -/
def spdmAt (n : Nat) (f : State → State) (s : State) : State := if s.pcie.spdm < n then spdmErr 4 s else f s

/-- DOE_DISCOVERY (R463): the objects of PCI-SIG (0x0001) of type 0, discovery, and 1, CMA. -/
def execDoeDiscovery (index : Nat) (s : State) : Out :=
  doe (.doeDiscovery index) (emit (.doe 0x00 (if index = 0 then [1, 0, 1] else if index = 1 then [1, 1, 0] else [0xFFFF, 0xFF, 0]))) s

/-- DOE_ABORT (R463). -/
def execDoeAbort (s : State) : Out := done { s with pcie.doeReq := none }

/-- GET_VERSION (R463): version 1.2; the negotiation begins again. PRESUMED (log entry 28). -/
def execGetVersion (s : State) : Out :=
  doe .getVersion (fun s => emit (.doe spdmVersion [0x12]) { s with pcie.spdm := 1 }) s

/-- GET_CAPABILITIES (R463): CERT_CAP, CHAL_CAP and MEAS_CAP with signature. PRESUMED (log entry 28). -/
def execGetCapabilities (s : State) : Out :=
  doe .getCapabilities (spdmAt 1 fun s => emit (.doe spdmCapabilities [0x16]) { s with pcie.spdm := 2 }) s

/-- NEGOTIATE_ALGORITHMS (R463): ECDSA P-384 (bit 7) and SHA-384 (bit 1), where the requester offers them.
PRESUMED (log entry 28). -/
def execNegotiateAlgorithms (asym hash : Nat) (s : State) : Out :=
  doe (.negotiateAlgorithms asym hash) (spdmAt 2 fun s =>
    let ok := asym.testBit 7 && hash.testBit 1
    emit (.doe spdmAlgorithms [asym &&& 0x80, hash &&& 2]) { s with pcie.spdm := if ok then 3 else 2 }) s

/-- The certificate chain of a slot: slot 0 ends with the identity certificate, slot 1 with the alias certificate of the
booted firmware (R548). PRESUMED (log entry 28). -/
def chainOf (s : State) (slot : Nat) : List Byte :=
  Config.certChain slot (if slot = 0 then s.fuses.idSeed else (runSlot s).digest)

/-- The digest of a chain. -/
def chainDigest (s : State) (slot : Nat) : Nat := (Config.sha384 ((chainOf s slot).map (·.toNat))).toNat

/-- GET_DIGESTS (R548). -/
def execGetDigests (s : State) : Out :=
  doe .getDigests (spdmAt 3 fun s => emit (.doe spdmDigests [3, chainDigest s 0, chainDigest s 1]) s) s

/-- GET_CERTIFICATE (R548): the portion asked for, with its length and what remains. -/
def execGetCertificate (slot off len : Nat) (s : State) : Out :=
  doe (.getCertificate slot off len) (spdmAt 3 fun s =>
    let c := chainOf s slot
    if 2 ≤ slot ∨ c.length < off then spdmErr 1 s
    else
      let part := (c.drop off).take len
      emit (.doe spdmCertificate ([slot, part.length, c.length - off - part.length] ++ part.map (·.toNat))) s) s

/-- A signed response carries a nonce of the responder and a signature by the alias key, values of the device's own; after an
unlock with SILSET there is no key (R548, R620). -/
def spdmSign (code : Nat) (data : List Nat) (s : State) : State :=
  if s.dbg.keysErased then spdmErr 5 s
  else
    let f := drawFree s
    let g := drawFree f.2
    let h := drawFree g.2
    let free := fun n => (Config.freeBig n).toNat
    emit (.doe code (data ++ [free f.1, free g.1, free h.1])) h.2

/-- The firmware, configuration and state that a measurement block covers (R549). PRESUMED (log entry 28). -/
def measurement (s : State) (index : Nat) : List Nat :=
  let hash := fun (xs : List Nat) => [(Config.sha384 xs).toNat]
  match index with
  | 1 => [Config.bootRomDigest.toNat]
  | 2 => [(runSlot s).digest]
  | 3 => hash (((List.range 8).filter (dieOn s)).map fun d => (Config.agentDigest (tget 0 s.sil.agentFw d)).toNat)
  | 4 => hash ([b2n s.fuses.locked, b2n s.sil.commissioned] ++ s.fuses.fwKeys ++
      [s.sil.ownerKey.getD 0, s.sil.fwRevoked, s.sil.rollback])
  | 5 => [keyAnchor s.sil.keys]
  | 6 => hash (s.ctxs.flatMap fun e => match e.2.active with
      | some im => [e.1 / 32, e.1 % 32, (imgOf s im).id, (imgOf s im).svn]
      | none => [])
  | _ => [b2n (evalCfg s), b2n s.sil.debugOpen, s.sil.debugCount, b2n s.sil.slot, (runSlot s).svn]

/-- CHALLENGE (R548). -/
def execChallenge (slot nonce : Nat) (s : State) : Out :=
  doe (.challenge slot nonce) (spdmAt 3 fun s =>
    if 2 ≤ slot then spdmErr 1 s
    else spdmSign spdmChallengeAuth [slot, chainDigest s slot, nonce] s) s

/-- GET_MEASUREMENTS (R549): their number, one block, or all of them; signed where asked for. -/
def execGetMeasurements (index : Nat) (signed : Bool) (nonce : Nat) (s : State) : Out :=
  doe (.getMeasurements index signed nonce) (spdmAt 3 fun s =>
    if 8 ≤ index ∧ index ≠ 0xFF then spdmErr 1 s
    else
      let blocks := if index = 0 then [] else if index = 0xFF then (List.range 7).map (· + 1) else [index]
      let data := (if index = 0 then 7 else blocks.length) :: blocks.flatMap fun b =>
        let m := measurement s b
        b :: m.length :: m
      if signed then spdmSign spdmMeasurements (nonce :: data) s else emit (.doe spdmMeasurements data) s) s

end Sys2Proof.Machine
end

