-- ==== Sys2Proof/Machine/Spyhole.lean ====
section
/-! DEFINITION. The Spyhole port: its TAP (R614 to R617), the unlock (R618 to R620), debug accesses (R621 to R623). -/

namespace Sys2Proof.Machine

open Sys2Proof

/-! ### The TAP (R614 to R617) -/

/-- EXTEST, CLAMP and HIGHZ hold the package in reset. -/
def holdsReset (code : Nat) : Bool := code == 0x00 || code == 0x03 || code == 0x04

/-- Everything but PD23 is held in reset, as by PERST_N (R617, R648). DESIGN CHOICE (log entry 82). -/
def boundaryReset (s : State) : State :=
  if s.board.tripped || (s.pkg.coldRunning && (decide (phase s ≤ 2) || phase s == 8)) then s
  else
    holdPackage 3 { s with pkg := if s.pkg.coldRunning then s.pkg else {} }

/-- The package leaves the reset of a boundary instruction: a package warm reset starts (R617).
DESIGN CHOICE (log entry 82). -/
def boundaryExit (s : State) : State :=
  if !s.dbg.boundary then s
  else startWarm 1 0xF 0 false { s with dbg.boundary := false, pkg.warmRunning := false }

/-- An instruction becomes current. -/
def tapIr (code : Nat) (s : State) : State :=
  let s := { s with dbg.ir := code }
  if holdsReset code then
    if s.dbg.boundary then s
    else spyLog (Config.catalogue 0x0B 0).toNat 1 [code] { boundaryReset s with dbg := { warmDbg s.dbg with boundary := true } }
  else boundaryExit s

/-- A scan of a data register: what is shifted out. -/
def tapOut (code value : Nat) (s : State) : State := emit (.tap code value) s

/-- A scan of the boundary register: the levels of the lands are shifted out, and the cells take what is shifted in.
DESIGN CHOICE (log entry 29). -/
def scanBoundary (code data : Nat) (s : State) : State :=
  let f := drawFree s
  tapOut code (Config.freeBig f.1).toNat { f.2 with dbg.bsr := data }

/-- TAP_RESET (R614, R615). -/
def execTapReset (s : State) : Out := done (tapIr 0x01 s)

/-- EXTEST (R617). DESIGN CHOICE (log entry 29). -/
def execExtest (data : Nat) (s : State) : Out := done (scanBoundary 0x00 data (tapIr 0x00 s))

/-- IDCODE (R616). -/
def idcode (s : State) : Nat :=
  s.fuses.step % 16 * 2 ^ 28 + (if s.fuses.part4808 then 0x4808 else 0x3606) * 2 ^ 12 + 0x2C9 * 2 + 1
def execIdcode (s : State) : Out := done (let t := tapIr 0x01 s; tapOut 0x01 (idcode t) t)

/-- SAMPLE_PRELOAD (R617). DESIGN CHOICE (log entry 29). -/
def execSamplePreload (data : Nat) (s : State) : Out := done (scanBoundary 0x02 data (tapIr 0x02 s))

/-- CLAMP (R617). -/
def execClamp (s : State) : Out := done (tapOut 0x03 0 (tapIr 0x03 s))

/-- HIGHZ (R617). -/
def execHighz (s : State) : Out := done (tapOut 0x04 0 (tapIr 0x04 s))

/-- BOUNDARY_INSTRUCTION_EXIT (R617): the next instruction is not one that holds the package in reset.
DESIGN CHOICE (log entry 82). -/
def execBoundaryInstructionExit (s : State) : Out := done (if s.dbg.boundary then tapIr 0xFF s else s)

/-- BYPASS (R615). -/
def execBypass (s : State) : Out := done (tapOut 0xFF 0 (tapIr 0xFF s))

/-- DSTAT (R615, R632). DEDUCED (log entry 79). -/
def execDstat (s : State) : Out :=
  done (let t := tapIr 0x10 s; tapOut 0x10 (if dbgGated t then 0 else (dbgStat t).toNat) t)

/-! ### The unlock (R618 to R620) -/

/-- UNLOCK_RES. -/
def setRes (v : Nat) (s : State) : State := wrf .DBG_STAT 8 6 v 0 s

/-- DCHAL (R618): a fresh nonce, or zeros while the port is limited. DESIGN CHOICE (log entry 80). -/
def execDchal (s : State) : Out :=
  done <|
    let s := tapIr 0x11 s
    if s.dbg.limited then tapOut 0x11 0 { s with dbg.nonce := none }
    else
      let f := drawFree s
      let n := (Config.freeBig f.1).toNat
      tapOut 0x11 n { f.2 with dbg.nonce := some (n, s.now) }

/-- What a response signs: the nonce, HUB_IDENT, the Device Serial Number and SCOPE, each least significant byte first.
DESIGN CHOICE (log entry 80). -/
def unlockBytes (s : State) (n scope : Nat) : List Byte :=
  bytesLE 48 n ++ bytesLE 4 (identWord s).toNat ++ bytesLE 8 s.fuses.serial ++ bytesLE 4 scope

/-- The result that a response comes to (R618 to R620). -/
def unlockRes (s : State) (pub scope sig : Nat) : Nat :=
  match s.dbg.nonce with
  | none => 3
  | some (n, t) =>
    if t + 60000000000 < s.now then 3
    else if keyHash pub != s.fuses.spyKey ||
        !Config.verify pub [(Config.sha384 ((unlockBytes s n scope).map (·.toNat))).toNat] sig then 2
    else if 16 ≤ scope then 6
    else if s.fuses.locked && decide (64 ≤ s.sil.debugCount) then 4
    else 1

/-- DRESP (R618): verification starts, and the nonce is used. DESIGN CHOICE (log entry 80). -/
def execDresp (pub scope sig : Nat) (s : State) : Out :=
  done <|
    let s := tapIr 0x12 s
    if s.dbg.verify.isSome then s
    else if s.dbg.limited then setRes 5 (spyLog 4 3 [keyFpr pub, 5] s)
    else if !silUp s then setRes 7 (spyLog 4 3 [keyFpr pub, 7] s)
    else
      let r := unlockRes s pub scope sig
      { s with dbg.verify := some (scope, keyFpr pub, r), dbg.nonce := none }

/-- A response succeeded: the count of a -L unit advances, the signing keys are erased, the rights are granted. -/
def grant (scope fpr : Nat) (s : State) : State :=
  let cnt := if s.fuses.locked then s.sil.debugCount + 1 else s.sil.debugCount
  let d := { s.dbg with scope := s.dbg.scope ||| scope, fails := 0, verify := none,
                        keysErased := s.dbg.keysErased || scope.testBit 3 }
  let s := { s with dbg := d, sil.debugCount := cnt, sil.debugOpen := true }
  setRes 1 (spyLog 3 3 [fpr, scope, cnt] s)

/-- A response failed; the third failure limits the port. DESIGN CHOICE (log entry 80). -/
def unlockFails (fpr res : Nat) (s : State) : State :=
  let n := if res = 4 then s.dbg.fails else s.dbg.fails + 1
  let s := { s with dbg := { s.dbg with verify := none, fails := n, limited := decide (3 ≤ n) } }
  setRes res (spyLog 4 3 [fpr, res] s)

/-- UNLOCK_VERIFY_DONE (R618 to R620). -/
def execUnlockVerifyDone (s : State) : Out :=
  done <| match s.dbg.verify with
    | none => s
    | some (scope, fpr, r) => if r = 1 then grant scope fpr s else unlockFails fpr r s

/-- UNLOCK_RATE_LIMIT_EXPIRY (R618). -/
def execUnlockRateLimitExpiry (s : State) : Out :=
  done (if s.dbg.limited then { s with dbg.limited := false, dbg.fails := 0 } else s)

/-! ### Debug accesses (R621 to R623) -/

/-- An access is outside the scope. DEDUCED (log entry 79). -/
def spyDenied (s : State) (write : Bool) (data : Nat) : Bool :=
  let sp := s.dbg.space
  let a := s.dbg.addr
  if s.dbg.scope = 0 then true
  else if sp ≤ 1 then
    !hasScope s 0 || (write && !hasScope s 1) ||
    (write && sp == 0 && ((decodeBar0 a).any fun p => p.reg.desc.win == .blk 15 && !dbgMayWrite s p.reg data))
  else if sp ≤ 3 then
    !hasScope s 3 || (write && !hasScope s 1) ||
    (sp == 2 && ((decide (0x7F000 ≤ a) && decide (a < 0x80000)) ||
      (decide (0x20000000 ≤ a) && decide (a < 0x20000800) && Config.seedAt (a - 0x20000000))))
  else false

/-- An access is refused for the scope: it is not performed (R622, R631). DESIGN CHOICE (log entry 81). -/
def spyDeny (s : State) : State := spyLog 0x0A 2 [s.dbg.space, s.dbg.addr] { s with dbg.status := 2 }

/-- ADDR advances after an access. DESIGN CHOICE (log entry 81). -/
def spyStep (s : State) : State := if s.dbg.inc then { s with dbg.addr := (s.dbg.addr + 4) % 2 ^ 48 } else s

/-- An access ends with a status and, for a read, its data. -/
def spyEnd (status data : Nat) (s : State) : State :=
  spyStep { s with dbg := { s.dbg with busy := none, status := status, data := data } }

/-- An access ends with ERROR. DESIGN CHOICE (log entry 81). -/
def spyErr (cause : Nat) (s : State) : State := spyEnd 3 s.dbg.data (wrf .DBG_STAT 20 17 cause 0 s)

/-- An access to Silset's memory or registers ends with ERROR: an error of R455 that the log shows, with SOURCE 2 (R631).
DESIGN CHOICE (log entry 81). -/
def spyErrSil (cause : Nat) (s : State) : State :=
  spyErr cause (logE { cls := 8, code := cause, sev := hostSev cause, source := 2, addr := s.dbg.addr,
                       data := [cause, s.dbg.space, 0] } s)

/-- The access that OP names is issued. -/
def spyIssue (write : Bool) (data : Nat) (s : State) : State :=
  if spyDenied s write data then spyDeny s
  else if s.dbg.space = 3 ∧ s.sil.state ≠ 4 then spyStep { s with dbg.status := 4 }
  else { s with dbg := { s.dbg with busy := some (write, data % 2 ^ 32), status := 1 } }

/-- An update is ignored: a right is missing, or an access is under way. -/
def spyUpdate (f : State → State) (s : State) : State :=
  if s.dbg.scope = 0 then spyDeny s
  else if s.dbg.busy.isSome then setEv .DBG_STAT 15 0 s
  else f s

/-- DADDR (R621, R622). -/
def execDaddr (value : Nat) (s : State) : Out :=
  done <| spyUpdate (fun s =>
    let op := bitsOf value 53 52
    let s := { s with dbg := { s.dbg with addr := bitsOf value 47 0, space := bitsOf value 51 48, op := op,
                                          inc := value.testBit 54 } }
    if op = 1 then spyIssue false 0 s else s) (tapIr 0x20 s)

/-- DDATA (R622): the status and data of the last access are shifted out; an update issues the access that OP names. -/
def execDdata (update : Bool) (value : Nat) (s : State) : Out :=
  done <|
    let s := tapIr 0x21 s
    let s := tapOut 0x21 (s.dbg.data + s.dbg.status * 2 ^ 32) s
    if !update then s
    else spyUpdate (fun s =>
      if s.dbg.op = 1 then spyIssue false 0 s
      else if s.dbg.op = 2 then spyIssue true (value % 2 ^ 32) s
      else s) s

/-- A register access (space 0). -/
def spyReg (write : Bool) (data : Nat) (s : State) : State :=
  let a := s.dbg.addr
  if a % 4 ≠ 0 then spyErr 4 (regErr 4 .spyhole .bar0 a write s)
  else if write then
    let x := writeAt .spyhole .bar0 a data s
    if x.1 = 0 then spyEnd 0 x.2.dbg.data x.2 else spyErr x.1 x.2
  else
    let x := readAt .spyhole .bar0 a s
    if x.1 = 0 then spyEnd 0 x.2.1.toNat x.2.2 else spyErr x.1 x.2.2

/-- An access to device memory (space 1). DESIGN CHOICE (log entry 81). -/
def spyMem (write : Bool) (data : Nat) (s : State) : State :=
  let a := s.dbg.addr
  if a % 4 ≠ 0 then spyErr 4 (hubErr 4 3 a 0 2 write s)
  else match judge s .pf a 4 with
    | some (c, b) => spyErr c (addrViolation c b 0 2 write s)
    | none =>
      if (hubDown s a 4).isSome then spyErr 5 (hubErr 5 3 a 0 2 write (hubXreset a 4 s))
      else if write then
        let t := spmTouch a (wrBytes a (bytesLE 4 data) s)
        if wrRefused s a 4 then spyErr 7 (hubErr 7 3 (firstRefused s a 4) 0 2 true t) else spyEnd 0 t.dbg.data t
      else if anyPoison s a 4 then spyErr 7 (hubErr 7 3 (firstPoison s a 4) 0 2 false s)
      else spyEnd 0 (ofBytesLE (rdBytes s a 4)) (spmTouch a s)

/-- A word of Silset's memory or of its registers that the manual gives no value: the one written or read last while Silset has
been halted, or a free value. DESIGN CHOICE (log entry 30). -/
def spyFree (key : Nat) (keep : Bool) (tab : Tab Nat) (put : Tab Nat → State → State) (s : State) : State :=
  match tab.find? fun e => e.1 == key with
  | some e => spyEnd 0 e.2 s
  | none =>
    let f := drawFree s
    let v := (Config.freeWord f.1).toNat % 2 ^ 32
    spyEnd 0 v (whenS keep (put (tins tab key v)) f.2)

/-- An access to Silset's memory (space 2). DESIGN CHOICE (log entries 29, 30). -/
def spySil (write : Bool) (data : Nat) (s : State) : State :=
  let a := s.dbg.addr
  let halted := s.sil.state == 4
  let put := fun m s => { s with dbg.silMem := m }
  if a % 4 ≠ 0 then spyErrSil 4 s
  else if a < 0x80000 then
    if write then spyEnd 0 s.dbg.data (whenS halted (put (tins s.dbg.silMem a data)) s)
    else spyFree a halted s.dbg.silMem put s
  else if 0x10000000 ≤ a ∧ a < 0x10020000 then
    if write then spyErrSil 2 s else spyEnd 0 (Config.romWord a).toNat s
  else if 0x20000000 ≤ a ∧ a < 0x20000800 then
    if write then spyErrSil 2 s else spyFree a false [] put s
  else spyErrSil 1 s

/-- An access to a register of the halted cores (space 3). DESIGN CHOICE (log entry 30). -/
def spyCore (write : Bool) (data : Nat) (s : State) : State :=
  let a := s.dbg.addr
  let put := fun m s => { s with dbg.silRegs := m }
  if s.sil.state ≠ 4 then spyEnd 4 s.dbg.data s
  else if a = 0 then spyEnd 0 (if write then s.dbg.data else 0) s
  else if a = 32 then
    if write then spyEnd 0 s.dbg.data { s with sil.pc := data } else spyEnd 0 s.sil.pc s
  else if a < 32 ∨ (0x1000 ≤ a ∧ a < 0x2000) then
    if write then spyEnd 0 s.dbg.data (put (tins s.dbg.silRegs a data) s) else spyFree a true s.dbg.silRegs put s
  else spyErrSil 1 s

/-- An access shows no handshake for 100 µs; one of the hub's spaces is recorded like any other (R457, R622). -/
def spyHang (write : Bool) (s : State) : State :=
  let a := s.dbg.addr
  if s.dbg.space = 0 then spyErr 6 (regErr 6 .spyhole .bar0 a write s)
  else if s.dbg.space = 1 then spyErr 6 (hubErr 6 3 a 0 2 write s)
  else spyErrSil 6 s

/-- DEBUG_ACCESS_COMPLETE (R622, R623). DESIGN CHOICE (log entry 81). -/
def execDebugAccessComplete (hang : Bool) (s : State) : Out :=
  done <| match s.dbg.busy with
    | none => s
    | some (write, data) =>
      if hang then spyHang write s
      else match s.dbg.space with
        | 0 => spyReg write data s
        | 1 => spyMem write data s
        | 2 => spySil write data s
        | 3 => spyCore write data s
        | _ => spyErrSil 1 s

end Sys2Proof.Machine
end

