-- ==== Sys2Proof/Machine/Dispatch.lean ====
section
/-! DEFINITION. The meaning of every command: one arm for each constructor, each a direct call. -/

namespace Sys2Proof.Machine

/-- The effect of a command on everything but the queue. -/
def exec (i : Instr) (s : State) : Host.Outcome State Fault Refusal :=
  match i with
  | .registerWrite src sp off size full value => Sys2Proof.Machine.execRegisterWrite src sp off size full value s
  | .pairLoRead src sp off size full => Sys2Proof.Machine.execPairLoRead src sp off size full s
  | .pairHiWrite src sp off value => Sys2Proof.Machine.execPairHiWrite src sp off value s
  | .registerAccessTimeout src sp off write => Sys2Proof.Machine.execRegisterAccessTimeout src sp off write s
  | .updateStrobe src value => Sys2Proof.Machine.execUpdateStrobe src value s
  | .clusterStrobeApply block => Sys2Proof.Machine.execClusterStrobeApply block s
  | .bar4Read off len => Sys2Proof.Machine.execBar4Read off len s
  | .bar4Write off bytes => Sys2Proof.Machine.execBar4Write off bytes s
  | .bar4Resize log2 => Sys2Proof.Machine.execBar4Resize log2 s
  | .msixUnmask fn vec => Sys2Proof.Machine.execMsixUnmask fn vec s
  | .vfBindWrite src k value => Sys2Proof.Machine.execVfBindWrite src k value s
  | .vfFlr k => Sys2Proof.Machine.execVfFlr k s
  | .receivedTlpError fn err cpl header => Sys2Proof.Machine.execReceivedTlpError fn err cpl header s
  | .hostReadTimeout fn req timedOut => Sys2Proof.Machine.execHostReadTimeout fn req timedOut s
  | .doeDiscovery index => Sys2Proof.Machine.execDoeDiscovery index s
  | .negotiateAlgorithms asym hash => Sys2Proof.Machine.execNegotiateAlgorithms asym hash s
  | .getCertificate slot off len => Sys2Proof.Machine.execGetCertificate slot off len s
  | .challenge slot nonce => Sys2Proof.Machine.execChallenge slot nonce s
  | .getMeasurements index signed nonce => Sys2Proof.Machine.execGetMeasurements index signed nonce s
  | .sqTail fn q val => Sys2Proof.Machine.execSqTail fn q val s
  | .rqHead fn q val => Sys2Proof.Machine.execRqHead fn q val s
  | .queueEnable fn q => Sys2Proof.Machine.execQueueEnable fn q s
  | .queueDisable fn q => Sys2Proof.Machine.execQueueDisable fn q s
  | .commandFetch ok raw => Sys2Proof.Machine.execCommandFetch ok raw s
  | .completionTimeout h => Sys2Proof.Machine.execCompletionTimeout h s
  | .load h => Sys2Proof.Machine.execLoad h s
  | .activate h => Sys2Proof.Machine.execActivate h s
  | .discard h => Sys2Proof.Machine.execDiscard h s
  | .restore h => Sys2Proof.Machine.execRestore h s
  | .calibrate h => Sys2Proof.Machine.execCalibrate h s
  | .adaptZero h => Sys2Proof.Machine.execAdaptZero h s
  | .adaptUpdate h => Sys2Proof.Machine.execAdaptUpdate h s
  | .seqCreate h => Sys2Proof.Machine.execSeqCreate h s
  | .seqFree h => Sys2Proof.Machine.execSeqFree h s
  | .seqTruncate h => Sys2Proof.Machine.execSeqTruncate h s
  | .generate h toks req err => Sys2Proof.Machine.execGenerate h toks req err s
  | .backward h toks err => Sys2Proof.Machine.execBackward h toks err s
  | .prefixCreate h toks err => Sys2Proof.Machine.execPrefixCreate h toks err s
  | .prefixDrop h => Sys2Proof.Machine.execPrefixDrop h s
  | .checkpoint h => Sys2Proof.Machine.execCheckpoint h s
  | .seqRestore h bytes err => Sys2Proof.Machine.execSeqRestore h bytes err s
  | .cancel h => Sys2Proof.Machine.execCancel h s
  | .nopCommand h => Sys2Proof.Machine.execNopCommand h s
  | .stepStart h => Sys2Proof.Machine.execStepStart h s
  | .ringHeadPoll h value ok => Sys2Proof.Machine.execRingHeadPoll h value ok s
  | .ringWaitExpiry h => Sys2Proof.Machine.execRingWaitExpiry h s
  | .register cl ctx bind vals => Sys2Proof.Machine.execRegister cl ctx bind vals s
  | .registrationWaitExpiry h => Sys2Proof.Machine.execRegistrationWaitExpiry h s
  | .result cl ctx bind vals => Sys2Proof.Machine.execResult cl ctx bind vals s
  | .done cl ctx bind vals => Sys2Proof.Machine.execDone cl ctx bind vals s
  | .fail cl ctx bind vals => Sys2Proof.Machine.execFail cl ctx bind vals s
  | .stepCommit bind => Sys2Proof.Machine.execStepCommit bind s
  | .queryArrival cl ctx addr off fmt vals => Sys2Proof.Machine.execQueryArrival cl ctx addr off fmt vals s
  | .appendArrival cl ctx addr off vals => Sys2Proof.Machine.execAppendArrival cl ctx addr off vals s
  | .engineUnitScore bay bind layer unit fault => Sys2Proof.Machine.execEngineUnitScore bay bind layer unit fault s
  | .pageFlush bay seq layer page => Sys2Proof.Machine.execPageFlush bay seq layer page s
  | .flushComplete seq layer page => Sys2Proof.Machine.execFlushComplete seq layer page s
  | .pinRelease addr reader => Sys2Proof.Machine.execPinRelease addr reader s
  | .pageMoveComplete desc err => Sys2Proof.Machine.execPageMoveComplete desc err s
  | .passRequest tile req parity => Sys2Proof.Machine.execPassRequest tile req parity s
  | .passStart tile => Sys2Proof.Machine.execPassStart tile s
  | .layerSwitchStart tile => Sys2Proof.Machine.execLayerSwitchStart tile s
  | .layerSettled tile => Sys2Proof.Machine.execLayerSettled tile s
  | .passWaveConverted tile convs => Sys2Proof.Machine.execPassWaveConverted tile convs s
  | .passEnd tile => Sys2Proof.Machine.execPassEnd tile s
  | .governorSample vana vcore vprog others => Sys2Proof.Machine.execGovernorSample vana vcore vprog others s
  | .blockScaleArrival cl part im vec pos scale empty => Sys2Proof.Machine.execBlockScaleArrival cl part im vec pos scale empty s
  | .accCodeArrival cl tile wave codes => Sys2Proof.Machine.execAccCodeArrival cl tile wave codes s
  | .preloadRun cl part im off vals => Sys2Proof.Machine.execPreloadRun cl part im off vals s
  | .glazeContributionArrival cl part im vec off vals => Sys2Proof.Machine.execGlazeContributionArrival cl part im vec off vals s
  | .accPartComplete cl part => Sys2Proof.Machine.execAccPartComplete cl part s
  | .destinationAck cl part => Sys2Proof.Machine.execDestinationAck cl part s
  | .rowBlockQuantise cl im pg rb tag => Sys2Proof.Machine.execRowBlockQuantise cl im pg rb tag s
  | .quantiserRun cl im pg rb off vals => Sys2Proof.Machine.execQuantiserRun cl im pg rb off vals s
  | .glazeSelectionArrival cl im slice vec rb chans => Sys2Proof.Machine.execGlazeSelectionArrival cl im slice vec rb chans s
  | .glazeWeightRowArrival cl im slice vec rb ch => Sys2Proof.Machine.execGlazeWeightRowArrival cl im slice vec rb ch s
  | .adapterUArrival cl im idx vec rb u => Sys2Proof.Machine.execAdapterUArrival cl im idx vec rb u s
  | .adapterHArrival cl im idx vec h => Sys2Proof.Machine.execAdapterHArrival cl im idx vec h s
  | .slotArrival cl ctx slot off fmt vals src => Sys2Proof.Machine.execSlotArrival cl ctx slot off fmt vals src s
  | .instructionComplete cl ctx => Sys2Proof.Machine.execInstructionComplete cl ctx s
  | .sendAcknowledge cl ctx rq gen fgen => Sys2Proof.Machine.execSendAcknowledge cl ctx rq gen fgen s
  | .sendRefusal cl ctx rq gen fgen => Sys2Proof.Machine.execSendRefusal cl ctx rq gen fgen s
  | .vecEngineResetComplete cl => Sys2Proof.Machine.execVecEngineResetComplete cl s
  | .aswap cl ctx => Sys2Proof.Machine.execAswap cl ctx s
  | .programOperationStart tile layer => Sys2Proof.Machine.execProgramOperationStart tile layer s
  | .programRowStep tile layer vprog gs => Sys2Proof.Machine.execProgramRowStep tile layer vprog gs s
  | .programRowStepEnd tile layer gs => Sys2Proof.Machine.execProgramRowStepEnd tile layer gs s
  | .probePass tile layer kind range k neg convs => Sys2Proof.Machine.execProbePass tile layer kind range k neg convs s
  | .readBackDone tile layer scale => Sys2Proof.Machine.execReadBackDone tile layer scale s
  | .closingCalibrationDone tile layer => Sys2Proof.Machine.execClosingCalibrationDone tile layer s
  | .bisqueCalibration bay ppm => Sys2Proof.Machine.execBisqueCalibration bay ppm s
  | .referenceTrace refv refr ppm => Sys2Proof.Machine.execReferenceTrace refv refr ppm s
  | .soakStart bay ppm => Sys2Proof.Machine.execSoakStart bay ppm s
  | .soakEnd bay => Sys2Proof.Machine.execSoakEnd bay s
  | .calUtcWrite src value => Sys2Proof.Machine.execCalUtcWrite src value s
  | .calWearSelWrite src value => Sys2Proof.Machine.execCalWearSelWrite src value s
  | .loadImageFetched h img ware err => Sys2Proof.Machine.execLoadImageFetched h img ware err s
  | .warePayloadArrival h rec payload err => Sys2Proof.Machine.execWarePayloadArrival h rec payload err s
  | .imageRetire pt fn im => Sys2Proof.Machine.execImageRetire pt fn im s
  | .remapComplete tile => Sys2Proof.Machine.execRemapComplete tile s
  | .setMinSvnWrite src k value => Sys2Proof.Machine.execSetMinSvnWrite src k value s
  | .sramScrub store word res read => Sys2Proof.Machine.execSramScrub store word res read s
  | .hbmPatrolScrub addr res read => Sys2Proof.Machine.execHbmPatrolScrub addr res read s
  | .shadowAudit tl ue => Sys2Proof.Machine.execShadowAudit tl ue s
  | .linkReplay kind index tries => Sys2Proof.Machine.execLinkReplay kind index tries s
  | .frameReceive port f => Sys2Proof.Machine.execFrameReceive port f s
  | .pfcFrameReceive port prio pause => Sys2Proof.Machine.execPfcFrameReceive port prio pause s
  | .pfcStormTimeout port prio => Sys2Proof.Machine.execPfcStormTimeout port prio s
  | .portModeWrite src port value => Sys2Proof.Machine.execPortModeWrite src port value s
  | .rdmaRequestReceive r => Sys2Proof.Machine.execRdmaRequestReceive r s
  | .ackTimeout qp => Sys2Proof.Machine.execAckTimeout qp s
  | .nakReceive qp code psn => Sys2Proof.Machine.execNakReceive qp code psn s
  | .cnpReceive qp => Sys2Proof.Machine.execCnpReceive qp s
  | .rateIncreaseTimer qp => Sys2Proof.Machine.execRateIncreaseTimer qp s
  | .wareReq qp epoch tag sn digest first n credits => Sys2Proof.Machine.execWareReq qp epoch tag sn digest first n credits s
  | .wareCredit qp epoch tag sn n => Sys2Proof.Machine.execWareCredit qp epoch tag sn n s
  | .wareNack qp epoch tag sn rec reason => Sys2Proof.Machine.execWareNack qp epoch tag sn rec reason s
  | .kvReq qp epoch tag sn jsn len first layers credits => Sys2Proof.Machine.execKvReq qp epoch tag sn jsn len first layers credits s
  | .fetchChunkArrival qp slot last rec bytes => Sys2Proof.Machine.execFetchChunkArrival qp slot last rec bytes s
  | .fenceNotice qp epoch tag reason rank => Sys2Proof.Machine.execFenceNotice qp epoch tag reason rank s
  | .rejoin qp tag newEpoch => Sys2Proof.Machine.execRejoin qp tag newEpoch s
  | .rejoinAck qp tag epoch => Sys2Proof.Machine.execRejoinAck qp tag epoch s
  | .stepRec qp epoch tag step vals => Sys2Proof.Machine.execStepRec qp epoch tag step vals s
  | .jobRejoinStart pt fn => Sys2Proof.Machine.execJobRejoinStart pt fn s
  | .contributionReceive qp imm vals => Sys2Proof.Machine.execContributionReceive qp imm vals s
  | .collectiveTimeout pt fn peer => Sys2Proof.Machine.execCollectiveTimeout pt fn peer s
  | .noticeAckWaitExpiry pt fn => Sys2Proof.Machine.execNoticeAckWaitExpiry pt fn s
  | .fencePlace kind index reason => Sys2Proof.Machine.execFencePlace kind index reason s
  | .drainComplete kind index => Sys2Proof.Machine.execDrainComplete kind index s
  | .drainWindowExpiry kind index => Sys2Proof.Machine.execDrainWindowExpiry kind index s
  | .taggedReply kind index slot gen fgen way => Sys2Proof.Machine.execTaggedReply kind index slot gen fgen way s
  | .epochOffer kind index epoch => Sys2Proof.Machine.execEpochOffer kind index epoch s
  | .epochAcknowledgement kind index epoch => Sys2Proof.Machine.execEpochAcknowledgement kind index epoch s
  | .stallMonitorHang kind index work => Sys2Proof.Machine.execStallMonitorHang kind index work s
  | .engineResetComplete kind index => Sys2Proof.Machine.execEngineResetComplete kind index s
  | .engineResetBoundExpiry kind index => Sys2Proof.Machine.execEngineResetBoundExpiry kind index s
  | .partitionReset pt cause kind index => Sys2Proof.Machine.execPartitionReset pt cause kind index s
  | .partitionResetComplete pt failed => Sys2Proof.Machine.execPartitionResetComplete pt failed s
  | .ptToExpiry pt => Sys2Proof.Machine.execPtToExpiry pt s
  | .warmReset cause kind index => Sys2Proof.Machine.execWarmReset cause kind index s
  | .coldReset cause kind index failed => Sys2Proof.Machine.execColdReset cause kind index failed s
  | .hostEngineResetRequest src value => Sys2Proof.Machine.execHostEngineResetRequest src value s
  | .hostPartitionResetRequest src value => Sys2Proof.Machine.execHostPartitionResetRequest src value s
  | .hostWarmResetRequest src value => Sys2Proof.Machine.execHostWarmResetRequest src value s
  | .hostColdResetRequest src value => Sys2Proof.Machine.execHostColdResetRequest src value s
  | .rstFenceHostWrite src value => Sys2Proof.Machine.execRstFenceHostWrite src value s
  | .reconciliationRound us => Sys2Proof.Machine.execReconciliationRound us s
  | .sampleArm pt fn bay => Sys2Proof.Machine.execSampleArm pt fn bay s
  | .armTimeout bay => Sys2Proof.Machine.execArmTimeout bay s
  | .sampleVerdict bay res crcOk shadowOk => Sys2Proof.Machine.execSampleVerdict bay res crcOk shadowOk s
  | .crossCheckRound suite a b seed => Sys2Proof.Machine.execCrossCheckRound suite a b seed s
  | .crossCheckComplete suite a third sig1 sig2 => Sys2Proof.Machine.execCrossCheckComplete suite a third sig1 sig2 s
  | .roundTimeout suite a => Sys2Proof.Machine.execRoundTimeout suite a s
  | .scanStart src value bad => Sys2Proof.Machine.execScanStart src value bad s
  | .boostExpiry pt => Sys2Proof.Machine.execBoostExpiry pt s
  | .bootRomStart okA okB tableOk => Sys2Proof.Machine.execBootRomStart okA okB tableOk s
  | .flashWriteDone ok => Sys2Proof.Machine.execFlashWriteDone ok s
  | .trialConfirm cryptoOk => Sys2Proof.Machine.execTrialConfirm cryptoOk s
  | .getInfo tag => Sys2Proof.Machine.execGetInfo tag s
  | .logRead tag fromSeq flash => Sys2Proof.Machine.execLogRead tag fromSeq flash s
  | .fwStage tag addr len => Sys2Proof.Machine.execFwStage tag addr len s
  | .fwStageComplete image => Sys2Proof.Machine.execFwStageComplete image s
  | .fwStatus tag => Sys2Proof.Machine.execFwStatus tag s
  | .fwActivate tag agentsNow forceSvn => Sys2Proof.Machine.execFwActivate tag agentsNow forceSvn s
  | .keyEnroll mgmt tag kind pub sig => Sys2Proof.Machine.execKeyEnroll mgmt tag kind pub sig s
  | .keyRevoke mgmt tag index sig => Sys2Proof.Machine.execKeyRevoke mgmt tag index sig s
  | .keyList tag => Sys2Proof.Machine.execKeyList tag s
  | .commission mgmt tag confirm => Sys2Proof.Machine.execCommission mgmt tag confirm s
  | .scanWrite tag addr bytes => Sys2Proof.Machine.execScanWrite tag addr bytes s
  | .setEndpointId eid => Sys2Proof.Machine.execSetEndpointId eid s
  | .getMctpVersionSupport ty => Sys2Proof.Machine.execGetMctpVersionSupport ty s
  | .getpldmversion ty => Sys2Proof.Machine.execGetpldmversion ty s
  | .getpldmcommands ty => Sys2Proof.Machine.execGetpldmcommands ty s
  | .seteventreceiver enable eid => Sys2Proof.Machine.execSeteventreceiver enable eid s
  | .requestupdate len => Sys2Proof.Machine.execRequestupdate len s
  | .clockMeasurement src count => Sys2Proof.Machine.execClockMeasurement src count s
  | .clockEdgeLoss src => Sys2Proof.Machine.execClockEdgeLoss src s
  | .clkGateWrite src value => Sys2Proof.Machine.execClkGateWrite src value s
  | .domainSwitchDone n ok => Sys2Proof.Machine.execDomainSwitchDone n ok s
  | .partitionPowerDown src value => Sys2Proof.Machine.execPartitionPowerDown src value s
  | .partitionPowerUp src value => Sys2Proof.Machine.execPartitionPowerUp src value s
  | .thermometerSample temps => Sys2Proof.Machine.execThermometerSample temps s
  | .thermalReleaseExpiry bay => Sys2Proof.Machine.execThermalReleaseExpiry bay s
  | .boardChannelRead n => Sys2Proof.Machine.execBoardChannelRead n s
  | .conversionRequest src value => Sys2Proof.Machine.execConversionRequest src value s
  | .openWireTestRequest src value => Sys2Proof.Machine.execOpenWireTestRequest src value s
  | .conversionComplete v => Sys2Proof.Machine.execConversionComplete v s
  | .madcCalibration bisque => Sys2Proof.Machine.execMadcCalibration bisque s
  | .madcCalibrationDone ok => Sys2Proof.Machine.execMadcCalibrationDone ok s
  | .extest data => Sys2Proof.Machine.execExtest data s
  | .samplePreload data => Sys2Proof.Machine.execSamplePreload data s
  | .dresp pub scope sig => Sys2Proof.Machine.execDresp pub scope sig s
  | .daddr value => Sys2Proof.Machine.execDaddr value s
  | .ddata update value => Sys2Proof.Machine.execDdata update value s
  | .debugAccessComplete hang => Sys2Proof.Machine.execDebugAccessComplete hang s
  | .dbgHalt value => Sys2Proof.Machine.execDbgHalt value s
  | .dbgResume value => Sys2Proof.Machine.execDbgResume value s
  | .dbgStep value => Sys2Proof.Machine.execDbgStep value s
  | .dbgClose value => Sys2Proof.Machine.execDbgClose value s
  | .fabricHalted bay => Sys2Proof.Machine.execFabricHalted bay s
  | .silsetPcBreakpoint n => Sys2Proof.Machine.execSilsetPcBreakpoint n s
  | .powerOn strap late => Sys2Proof.Machine.execPowerOn strap late s
  | .startupPhaseAdvance failed => Sys2Proof.Machine.execStartupPhaseAdvance failed s
  | .boardInputHoldExpiry inp still => Sys2Proof.Machine.execBoardInputHoldExpiry inp still s
  | .boardInputStuck inp => Sys2Proof.Machine.execBoardInputStuck inp s
  | .supplyUndervoltage r => Sys2Proof.Machine.execSupplyUndervoltage r s
  | .supplyRecovered r => Sys2Proof.Machine.execSupplyRecovered r s
  | .portLinkDown port => Sys2Proof.Machine.execPortLinkDown port s
  | .portLinkUp port => Sys2Proof.Machine.execPortLinkUp port s
  | .linkRetrainingComplete kind index => Sys2Proof.Machine.execLinkRetrainingComplete kind index s
  | .agentUpdateComplete kind index => Sys2Proof.Machine.execAgentUpdateComplete kind index s
  | .boardInputGlitch inp => Sys2Proof.Machine.execBoardInputGlitch inp s
  | .dmaMibMoved h => Sys2Proof.Machine.execDmaMibMoved h s
  | .restoreRecordArrival h tl payload err => Sys2Proof.Machine.execRestoreRecordArrival h tl payload err s
  | .adapterQArrival cl im idx vec col q => Sys2Proof.Machine.execAdapterQArrival cl im idx vec col q s
  | .adapterVArrival cl im idx vec rb v => Sys2Proof.Machine.execAdapterVArrival cl im idx vec rb v s
  | .pldmComponentTransfer cmd bytes => Sys2Proof.Machine.execPldmComponentTransfer cmd bytes s
  | .vadd cl ctx => Sys2Proof.Machine.execVadd cl ctx s
  | .vsub cl ctx => Sys2Proof.Machine.execVsub cl ctx s
  | .vmul cl ctx => Sys2Proof.Machine.execVmul cl ctx s
  | .vfma cl ctx => Sys2Proof.Machine.execVfma cl ctx s
  | .vmax cl ctx => Sys2Proof.Machine.execVmax cl ctx s
  | .vmin cl ctx => Sys2Proof.Machine.execVmin cl ctx s
  | .vabs cl ctx => Sys2Proof.Machine.execVabs cl ctx s
  | .vneg cl ctx => Sys2Proof.Machine.execVneg cl ctx s
  | .vcvt cl ctx => Sys2Proof.Machine.execVcvt cl ctx s
  | .vmov cl ctx => Sys2Proof.Machine.execVmov cl ctx s
  | .vrcp cl ctx => Sys2Proof.Machine.execVrcp cl ctx s
  | .vrsq cl ctx => Sys2Proof.Machine.execVrsq cl ctx s
  | .vexp2 cl ctx => Sys2Proof.Machine.execVexp2 cl ctx s
  | .vlog2 cl ctx => Sys2Proof.Machine.execVlog2 cl ctx s
  | .vsig cl ctx => Sys2Proof.Machine.execVsig cl ctx s
  | .vsilu cl ctx => Sys2Proof.Machine.execVsilu cl ctx s
  | .vrope cl ctx => Sys2Proof.Machine.execVrope cl ctx s
  | .vbscl cl ctx => Sys2Proof.Machine.execVbscl cl ctx s
  | .vrsum cl ctx => Sys2Proof.Machine.execVrsum cl ctx s
  | .vdot cl ctx => Sys2Proof.Machine.execVdot cl ctx s
  | .vrmax cl ctx => Sys2Proof.Machine.execVrmax cl ctx s
  | .vscan cl ctx => Sys2Proof.Machine.execVscan cl ctx s
  | .vtopk cl ctx => Sys2Proof.Machine.execVtopk cl ctx s
  | .vlsem cl ctx => Sys2Proof.Machine.execVlsem cl ctx s
  | .viadd cl ctx => Sys2Proof.Machine.execViadd cl ctx s
  | .vimul cl ctx => Sys2Proof.Machine.execVimul cl ctx s
  | .vrng cl ctx => Sys2Proof.Machine.execVrng cl ctx s
  | .vfetch cl ctx => Sys2Proof.Machine.execVfetch cl ctx s
  | .vstore cl ctx => Sys2Proof.Machine.execVstore cl ctx s
  | .send cl ctx => Sys2Proof.Machine.execSend cl ctx s
  | .sendm cl ctx => Sys2Proof.Machine.execSendm cl ctx s
  | .sget cl ctx => Sys2Proof.Machine.execSget cl ctx s
  | .sput cl ctx => Sys2Proof.Machine.execSput cl ctx s
  | .sadd cl ctx => Sys2Proof.Machine.execSadd cl ctx s
  | .ssub cl ctx => Sys2Proof.Machine.execSsub cl ctx s
  | .sand cl ctx => Sys2Proof.Machine.execSand cl ctx s
  | .sor cl ctx => Sys2Proof.Machine.execSor cl ctx s
  | .sxor cl ctx => Sys2Proof.Machine.execSxor cl ctx s
  | .sshl cl ctx => Sys2Proof.Machine.execSshl cl ctx s
  | .sshr cl ctx => Sys2Proof.Machine.execSshr cl ctx s
  | .sli cl ctx => Sys2Proof.Machine.execSli cl ctx s
  | .slui cl ctx => Sys2Proof.Machine.execSlui cl ctx s
  | .br cl ctx => Sys2Proof.Machine.execBr cl ctx s
  | .beq cl ctx => Sys2Proof.Machine.execBeq cl ctx s
  | .bne cl ctx => Sys2Proof.Machine.execBne cl ctx s
  | .blt cl ctx => Sys2Proof.Machine.execBlt cl ctx s
  | .halt cl ctx => Sys2Proof.Machine.execHalt cl ctx s
  | .sflg cl ctx => Sys2Proof.Machine.execSflg cl ctx s
  | .sfclr cl ctx => Sys2Proof.Machine.execSfclr cl ctx s
  | .nop cl ctx => Sys2Proof.Machine.execNop cl ctx s
  | .pfFlr => Sys2Proof.Machine.execPfFlr s
  | .hostLinkDown => Sys2Proof.Machine.execHostLinkDown s
  | .doeAbort => Sys2Proof.Machine.execDoeAbort s
  | .getVersion => Sys2Proof.Machine.execGetVersion s
  | .getCapabilities => Sys2Proof.Machine.execGetCapabilities s
  | .getDigests => Sys2Proof.Machine.execGetDigests s
  | .vrCodeRepeat => Sys2Proof.Machine.execVrCodeRepeat s
  | .vrAlert => Sys2Proof.Machine.execVrAlert s
  | .driftTriggerCheck => Sys2Proof.Machine.execDriftTriggerCheck s
  | .utcFlashWrite => Sys2Proof.Machine.execUtcFlashWrite s
  | .warmToExpiry => Sys2Proof.Machine.execWarmToExpiry s
  | .lockstepMismatch => Sys2Proof.Machine.execLockstepMismatch s
  | .watchdogExpiry => Sys2Proof.Machine.execWatchdogExpiry s
  | .silsetRestartComplete => Sys2Proof.Machine.execSilsetRestartComplete s
  | .getEndpointId => Sys2Proof.Machine.execGetEndpointId s
  | .getEndpointUuid => Sys2Proof.Machine.execGetEndpointUuid s
  | .getMessageTypeSupport => Sys2Proof.Machine.execGetMessageTypeSupport s
  | .gettid => Sys2Proof.Machine.execGettid s
  | .getpldmtypes => Sys2Proof.Machine.execGetpldmtypes s
  | .activatefirmware => Sys2Proof.Machine.execActivatefirmware s
  | .rcOscillatorLoss => Sys2Proof.Machine.execRcOscillatorLoss s
  | .conversionTimeout => Sys2Proof.Machine.execConversionTimeout s
  | .owAutoTest => Sys2Proof.Machine.execOwAutoTest s
  | .tapReset => Sys2Proof.Machine.execTapReset s
  | .idcode => Sys2Proof.Machine.execIdcode s
  | .clamp => Sys2Proof.Machine.execClamp s
  | .highz => Sys2Proof.Machine.execHighz s
  | .boundaryInstructionExit => Sys2Proof.Machine.execBoundaryInstructionExit s
  | .bypass => Sys2Proof.Machine.execBypass s
  | .dstat => Sys2Proof.Machine.execDstat s
  | .dchal => Sys2Proof.Machine.execDchal s
  | .unlockVerifyDone => Sys2Proof.Machine.execUnlockVerifyDone s
  | .unlockRateLimitExpiry => Sys2Proof.Machine.execUnlockRateLimitExpiry s
  | .dbgSilHalt => Sys2Proof.Machine.execDbgSilHalt s
  | .dbgSilResume => Sys2Proof.Machine.execDbgSilResume s
  | .dbgSilStep => Sys2Proof.Machine.execDbgSilStep s
  | .dbgSilRestart => Sys2Proof.Machine.execDbgSilRestart s
  | .perstNAssert => Sys2Proof.Machine.execPerstNAssert s
  | .perstNRelease => Sys2Proof.Machine.execPerstNRelease s
  | .alertInAssert => Sys2Proof.Machine.execAlertInAssert s
  | .thermInAssert => Sys2Proof.Machine.execThermInAssert s
  | .thermInRelease => Sys2Proof.Machine.execThermInRelease s
  | .pcieLinkUp speed width => Sys2Proof.Machine.execPcieLinkUp speed width s
  | .rcOscillatorRecovered => Sys2Proof.Machine.execRcOscillatorRecovered s
  | .silsetSramUncorrectable => Sys2Proof.Machine.execSilsetSramUncorrectable s
  | .alertInRelease => Sys2Proof.Machine.execAlertInRelease s

end Sys2Proof.Machine
end

