-- ==== Sys2Proof/Machine/Tick.lean ====
section
/-! DEFINITION. What the block does of itself while no command waits: the requests it had to hold, and the passing of time. -/

namespace Sys2Proof.Machine

open Sys2Proof

/-- Device time advances by a nanosecond (R14), but not while the crystal has failed and nothing but PD23 runs. DESIGN CHOICE:
an idle step is one nanosecond; every other event that time brings is a command of its own.
DESIGN CHOICE (log entries 1, 86). -/
def tick (s : State) : State := if s.board.xtalHeld then s else { s with now := s.now + 1 }

/-- The work that an idle step finds: a request that the boundary of a bay lets go (R625, R628), or a data object that waited
for Silset (R463). DESIGN CHOICE (log entry 1). -/
def nextIdle (s : State) : Option (Instr × State) := nextWaiting s <|> nextDoe s

end Sys2Proof.Machine
end

