-- ==== Sys2Proof/Machine/Step.lean ====
section
/-! DEFINITION. The step: the command at the front of the queue, or, with the queue empty, what the block does of itself. -/

namespace Sys2Proof.Machine

open Sys2Proof

/-- One step. DESIGN CHOICE (log entry 1). -/
def step (s : State) : Host.Outcome State Fault Refusal :=
  match s.pending with
  | i :: rest => exec i { s with pending := rest }
  | [] => match nextIdle s with
    | some (i, t) => exec i t
    | none => .next (tick s)

/-- The state with the command that a word spells put at the front of the queue. DESIGN CHOICE (log entry 1). -/
def State.withFetchWord (s : State) (nbits w : Nat) : State :=
  match decodeTableWord nbits w with
  | some i => { s with pending := i :: s.pending }
  | none => s

end Sys2Proof.Machine
end

