-- ==== Sys2Proof/Safety.lean ====
section
/-! DEFINITION. What the statements about the block are made of: a command completes with an effect, what it leaves as it
was, and what no step may ever break. -/

namespace Sys2Proof.Machine

open Sys2Proof

/-- The command `c` completes at `s`: `exec` answers a next state, and `P` holds of it. -/
def Ends (c : Instr) (s : State) (P : State → Prop) : Prop := ∃ t, exec c s = .next t ∧ P t

/-- Every byte of device memory reads as before. -/
def SameMem (s t : State) : Prop := ∀ a, rdByte t a = rdByte s a

/-- Every byte of device memory outside the `n` bytes at `a` reads as before. -/
def SameMemBut (a n : Nat) (s t : State) : Prop := ∀ b, b < a ∨ a + n ≤ b → rdByte t b = rdByte s b

/-- Every byte of device memory outside the slip segments of the sequences reads as before. -/
def SameMemButSlips (s t : State) : Prop :=
  ∀ a, (∀ e ∈ s.seqs, ∀ x ∈ e.2.slips, a < x.2 - 1 ∨ x.2 - 1 + 64 * (kvOf s e.2.im).slipBytes ≤ a) → rdByte t a = rdByte s a

/-- Every register but the instances listed holds its word. An instance number lies below 2^20. -/
def SameRegs (L : List (Reg × Nat)) (s t : State) : Prop :=
  ∀ r i, i < 2 ^ 20 → (r, i) ∉ L → rd t r i = rd s r i

/-- No halt, step or breakpoint of the Spyhole port is in force, and no request waits or is let in again for one (R625,
R628, R630). -/
def undebugged (s : State) : Bool :=
  !s.dbg.readmit && s.dbg.halting == 0 && s.dbg.stepping == 0 && s.dbg.waiting.isEmpty && s.dbg.held.isEmpty &&
  s.dbg.released.isEmpty && (List.range 8).all fun n => rf s .DBG_BP_CFG 2 0 n == 0

/-- An event of a class and code was the last one entered: at the head of the log while Silset takes events itself, else at the
end of the hardware event queue, unless that is full (R529, R535). -/
def Logged (cls code : Nat) (s t : State) : Prop :=
  ∃ e : LogEntry, e.cls = cls ∧ e.code = code ∧ e.time = s.now ∧ (silUp s = true → t.sil.log.head? = some e) ∧
    (silUp s = false → s.sil.evq.length < 512 → t.sil.evq.getLast? = some e)

/-- The command in slot `h` has been accepted under an opcode, its turn has come, its role is registered, its context is not
fenced and no reserved bit is set (R352, R356, R359, R364). -/
def startsAs (s : State) (h op : Nat) (c : Cmd) : Prop :=
  cmdOf s h = some c ∧ c.op = op ∧ c.run = false ∧ mayStart s c = true ∧ waitsRole s c = false ∧
  cxFenced s c.ctx = false ∧ reservedSet c = false

/-- The command `c` of slot `h` completed: its slot is free again, and its record went to the ring of its queue where records
can be written (R350, R354, R357). -/
def Completed (h : Nat) (c : Cmd) (status info value : Nat) (s t : State) : Prop :=
  let k := qkOf c.fn c.q
  cmdOf t h = none ∧ h ∈ t.slotFree ∧
  ((queueOf s k).recErr = false → (fnOf s (k / 64)).inFlr = false → s.pcie.linkUp = true →
    ∃ a fl hd, Msg.hostWrite (k / 64) a
      ((recBytes (handleOf c.gen h) c.cid (k % 64) fl status hd info c.tag value).map (·.toNat)) ∈ t.out)

/-- The end of a command ends nothing else: no CANCEL or DISCARD waits for it (R229, R361), and no sequence of an image that is no
longer active is left to be freed (R227). -/
def endsAlone (s : State) : Bool :=
  (s.cmds.all fun e => !(e.2.run && (e.2.op == 0x30 || e.2.op == 0x03) && e.2.aux.isSome)) && s.seqs.all fun e => !e.2.retired

/-- No pass request waits beside the pending buffer of its tile (R90, R182). -/
def noneHeld (s : State) : Bool := s.tiles.all fun e => e.2.held.isEmpty && e.2.aside.isEmpty

/-! ### Numbers -/

/-- The number that a finite value stands for. -/
def ratOf : Val → ℚ
  | .fin n m e => (if n then -1 else 1) * m * (2 : ℚ) ^ e
  | _ => 0

/-! ### What the instructions of a vector unit do -/

/-- The slots that a lane instruction writes: D, and C where it has two. -/
def laneDsts (ndst : Nat) (i : VIns) : List Nat := (if 0 < ndst then [i.d] else []) ++ (if 1 < ndst then [i.c] else [])

/-- The sources of a lane instruction whose consume bits are set (R243). -/
def laneEats (nsrc : Nat) (i : VIns) : List Nat :=
  (if i.ca && decide (0 < nsrc) then [i.a] else []) ++ (if i.cb && decide (1 < nsrc) && !i.sb then [i.b] else []) ++
  (if i.cc && decide (2 < nsrc) then [i.c] else [])

/-- A lane instruction that can fire, whose word, sources and destinations hold no uncorrectable error, whose destinations are free
and refuse no part of the result (R288), and whose function accepts its operands issues: its destinations are written and PRESENT, its scalar result and flags are in the
context, its consumed sources are empty, its beats are counted, and nothing else of the unit changes but the record of which contexts
are ready and the count of bank waits, which takes one free value (R243, R245, R247, R249, R254). -/
def LaneIssues (c : Nat → Nat → Instr) (op nsrc ndst : Nat) (intOp : Bool) (f : VEnv → Except Nat VRes)
    (ok : VIns → Bool := fun _ => true) : Prop :=
  ∀ (cl n : Nat) (r : VRes) (s : State), undebugged s = true → cl < 384 → canFire s op cl n = true →
    let x := vctxOf s cl n
    let i := insAt s cl n
    let e := envOf s cl n intOp
    ok i = true → tget 0 s.poisonX (insWord cl x.pc) ≠ 1 → (∀ k ∈ insSrcs i, slotPoisoned s cl x k = false) →
    (∀ k ∈ laneDsts ndst i, destConflict s cl x k = false ∧ slotDescBad s cl (poolIdx x k) = false) →
    f e = .ok r → (0 < ndst → destRefused s cl (poolIdx x i.d) r.d.length = false) →
    (1 < ndst → destRefused s cl (poolIdx x i.c) r.c.length = false) →
    (r.fl.nv = false ∨ rb s .VEC_CTRL 0 cl = false) → tget [] s.vheld cl = [] →
    Ends (c cl n) s fun t =>
      t = { s with mem := t.mem, poison := t.poison, lost := t.lost, vctx := t.vctx, vslots := t.vslots, vheld := t.vheld,
                   vready := t.vready, regs := t.regs, free := s.free + 1, sil := t.sil, out := t.out, fns := t.fns } ∧
      vctxOf t cl n = { x with state := 3, next := x.pc + 1, resv := (laneDsts ndst i).map (poolIdx x),
                               flags := x.flags ||| r.fl.toNat, x := (match r.x with
                                 | some (k, v) => (setX k v x).x
                                 | none => x.x) } ∧
      (∀ k, k ≠ ctxKey cl n → tget {} t.vctx k = tget {} s.vctx k) ∧
      (∀ k ∈ laneDsts ndst i, (slotOf t cl (poolIdx x k)).present = !(slotOf s cl (poolIdx x k)).persist) ∧
      (∀ k ∈ laneEats nsrc i, poolIdx x k ∉ (laneDsts ndst i).map (poolIdx x) →
        (slotOf s cl (poolIdx x k)).persist = false → (slotOf t cl (poolIdx x k)).present = false) ∧
      (∀ j, j ∉ (laneDsts ndst i ++ laneEats nsrc i).map (poolIdx x) → slotOf t cl j = slotOf s cl j) ∧
      (let d := slotOf s cl (poolIdx x i.d)
       let g := slotOf s cl (poolIdx x i.c)
       let one := writeElems (slotFmt d) (slotAddr cl d) 0 r.d s
       (ndst = 1 → t.mem = one.mem) ∧
       (ndst = 2 → t.mem = (writeElems (slotFmt g) (slotAddr cl g) 0 r.c one).mem)) ∧
      (rd t .VEC_BEAT_CNT_LO cl).toNat + 2 ^ 32 * (rd t .VEC_BEAT_CNT_HI cl).toNat =
        ((rd s .VEC_BEAT_CNT_LO cl).toNat + 2 ^ 32 * (rd s .VEC_BEAT_CNT_HI cl).toNat + beats e nsrc ndst) % 2 ^ 64 ∧
      (r.fl.nv = true → rb t .VEC_STAT 3 cl = true) ∧ (r.fl.of = true → rb t .VEC_STAT 4 cl = true)

/-- A scalar or control instruction that can fire issues: the context becomes what `f` makes of it, ISSUED, with the next program
counter that `f` gives; nothing else changes but the record of which contexts are ready (R240, R255). -/
def ScalarIssues (c : Nat → Nat → Instr) (op : Nat) (f : VCtx → VIns → VCtx × Int) : Prop :=
  ∀ (cl n : Nat) (s : State), undebugged s = true → canFire s op cl n = true → tget 0 s.poisonX (insWord cl (vctxOf s cl n).pc) ≠ 1 →
    let r := f (vctxOf s cl n) (insAt s cl n)
    Ends (c cl n) s fun t =>
      t = { s with vctx := t.vctx, vready := t.vready } ∧ vctxOf t cl n = { r.1 with state := 3, next := r.2.toNat, resv := [] } ∧
      ∀ k, k ≠ ctxKey cl n → tget {} t.vctx k = tget {} s.vctx k

/-- The result `v` of XA, XB, the instruction and the old value goes to the register that D[3:0] names; x0 discards it. -/
def putsX (v : Nat → Nat → VIns → Nat → Nat) (c : VCtx) (i : VIns) : VCtx × Int :=
  (setX (i.d % 16) (v (xreg c i.xa) (xreg c i.xb) i (xreg c (i.d % 16))) c, (c.pc : Int) + 1)

/-- A branch whose condition holds goes IMM instructions on, else one. -/
def jumps (p : Nat → Nat → Bool) (c : VCtx) (i : VIns) : VCtx × Int :=
  (c, if p (xreg c i.xa) (xreg c i.xb) then (c.pc : Int) + i.imm else (c.pc : Int) + 1)

/-- What every command keeps, from a state to a later one: the queue of commands, which `step` alone takes from; the identity of the unit (R7), the address
strap apart, which is read at each start (R643), the canonical form of device
memory, the sizes of the kiln log, the hardware event queue and the mirror queue (R529, R538), and the OTP (R541): the
rollback counter, the anchor slots and the unlock counter only rise, COMMISSIONED stays set and an owner key stays. -/
structure Kept (s t : State) : Prop where
  queue : t.pending = s.pending
  identity : ∃ a, t.fuses = { s.fuses with smbAddr := a }
  memory : Memory.wf s.mem = true → Memory.wf t.mem = true
  log : s.sil.log.length ≤ 4096 → t.sil.log.length ≤ 4096
  events : s.sil.evq.length ≤ 512 → t.sil.evq.length ≤ 512
  mirror : s.sil.mirrorQ.length ≤ 256 → t.sil.mirrorQ.length ≤ 256
  rollback : s.sil.rollback ≤ t.sil.rollback
  anchors : s.sil.anchorsUsed ≤ t.sil.anchorsUsed
  anchorCap : s.sil.anchorsUsed ≤ 8 → t.sil.anchorsUsed ≤ 8
  unlocks : s.sil.debugCount ≤ t.sil.debugCount
  commissioned : s.sil.commissioned = true → t.sil.commissioned = true
  owner : ∀ k, s.sil.ownerKey = some k → t.sil.ownerKey = some k

end Sys2Proof.Machine
end

