-- ==== Sys2Proof/Certificates/Slice0/Obligations.lean ====
section
/-! DEFINITION. The statements for the provers, one `def Obligations.<Name> : Prop` each, in the order of OBLIGATIONS.json: the
families of commands in the order of the table's chapters, then the whole machine and its arithmetic. -/

open Sys2Proof Sys2Proof.Machine

/-- O1. A pass request, its layer switch, start, waves and end move a tile through the states of R86 to R91 (R86, R87, R89, R91,
R93, R95, R100, R45).
With no debug halt or breakpoint: an admissible request takes the free pending buffer of its tile, or waits beside it while a
refresh in hold mode runs, and changes nothing else but its place in the order in which the requests of the die have come; a settled tile whose pending request names another layer begins to switch
to it; settling ends the switch; a startable tile with a valid layer and a free token starts its pending pass with the layer,
range and calibration values in force and takes the token, which is free for it where fewer are in use than the pool holds and
none that came earlier could start; a wave of a running pass forms round(P_a / (LSB_r γ) + o_a) for its
128 columns or rows from the cells and the drive codes, leaves the tile clamped to −256..255 and advances the pass, and a
clamped code sets TILE_STAT[4] and nothing but registers of the tile, the log and the message; a pass of eight waves ends, is
counted in TILE_PASS_CNT, and returns its token. Each clause says what else stays as it was. (Rests on the model's choices of
log entries 32, 87, 99.) -/
def Obligations.TilePassLifecycle : Prop :=
  (∀ (tile : Nat) (req : PassReq) (parity : List Bool) (s : Machine.State), undebugged s = true →
    (tileOf s tile).pending = none → (tileOf s tile).held = [] → parityGood req.codes parity = true →
    tileFenced s tile req.kind = false → layerInvalid s tile req = false →
    Ends (.passRequest tile req parity) s fun t =>
      t = { s with tiles := t.tiles, pools := t.pools } ∧
      (req.kind ≤ 1 ∧ refreshHolds s (tlKey tile req.layer) = true →
        tileOf t tile = { tileOf s tile with aside := (tileOf s tile).aside ++ [req] } ∧ t.pools = s.pools) ∧
      (¬(req.kind ≤ 1 ∧ refreshHolds s (tlKey tile req.layer) = true) →
        tileOf t tile = { tileOf s tile with pending := some req } ∧ ∀ d, poolOf t d = if d = tile / 1536 then
          { poolOf s d with waiters := (poolOf s d).waiters.erase tile ++ [tile] } else poolOf s d) ∧
      ∀ u, u ≠ tile → tileOf t u = tileOf s u) ∧
  (∀ (tile : Nat) (req : PassReq) (s : Machine.State), undebugged s = true → (tileOf s tile).pending = some req →
    req.layer ≠ (tileOf s tile).active → (tileOf s tile).settled = true →
    (∀ p, (tileOf s tile).running = some p → p.req.kind ≠ 2) →
    Ends (.layerSwitchStart tile) s fun t =>
      t = { s with tiles := t.tiles } ∧ tileOf t tile = { tileOf s tile with active := req.layer, settled := false } ∧
      ∀ u, u ≠ tile → tileOf t u = tileOf s u) ∧
  (∀ (tile : Nat) (s : Machine.State),
    Ends (.layerSettled tile) s fun t =>
      t = { s with tiles := t.tiles } ∧ tileOf t tile = { tileOf s tile with settled := true } ∧
      ∀ u, u ≠ tile → tileOf t u = tileOf s u) ∧
  (∀ (tile : Nat) (req : PassReq) (s : Machine.State), startable s tile = true → (tileOf s tile).pending = some req →
    layerInvalid s tile req = false → (tileOf s tile).held = [] → (tileOf s tile).token = false →
    tokenFor s tile = true →
    Ends (.passStart tile) s fun t =>
      t = { s with tiles := t.tiles, tlayers := t.tlayers, pools := t.pools, samples := t.samples } ∧
      (tileOf t tile).pending = none ∧ (tileOf t tile).token = true ∧
      (∃ r, (tileOf t tile).running = some r ∧ r.req = req ∧ r.wave = 0 ∧ r.taken = 0 ∧
        r.range = (if req.kind = 1 then fld (lcfg s tile req.layer) 14 12 else fld (lcfg s tile req.layer) 10 8) ∧
        r.cal = (tlOf s tile req.layer).cal ∧ r.old = (tlOf s tile req.layer).old) ∧
      poolOf t (tile / 1536) = { poolOf s (tile / 1536) with
        inUse := (poolOf s (tile / 1536)).inUse + 1, waiters := (poolOf s (tile / 1536)).waiters.erase tile } ∧
      (poolOf s (tile / 1536)).inUse < (poolOf s (tile / 1536)).size ∧
      ∀ u, u ≠ tile → tileOf t u = tileOf s u) ∧
  (∀ (tile : Nat) (convs : List Conv) (r : PassRun) (s : Machine.State), tile < 12288 →
    (tileOf s tile).running = some r → r.req.kind ≤ 1 → r.wave < 8 → convs.length = 128 →
    (∀ c ∈ convs, 4 / 5 ≤ c.γ ∧ c.γ ≤ 5 / 4 ∧ -16 ≤ c.off ∧ c.off ≤ 16) →
    let codes := convs.mapIdx fun a c =>
      (((product8 s (tlKey tile r.req.layer) (r.req.kind == 1) r.req.codes (8 * a + r.wave) : ℚ) / 8 + c.err) /
        ((2 ^ (8 - r.range) : ℕ) * c.γ) + c.off + 1 / 2).floor
    Ends (.passWaveConverted tile convs) s fun t =>
      t = { s with tiles := t.tiles, regs := t.regs, sil := t.sil, fns := t.fns, out := t.out } ∧
      tileOf t tile = { tileOf s tile with running := some { r with wave := r.wave + 1 } } ∧
      (∀ u, u ≠ tile → tileOf t u = tileOf s u) ∧
      t.out.head? = some (.fabric 1 (clOfTile tile) tagWave ([tile, r.req.layer, r.range, r.wave, r.req.part] ++
        codes.map fun c => toTwos 16 (max (-256) (min 255 c)))) ∧
      ((∀ c ∈ codes, -256 < c ∧ c < 255) → t.regs = s.regs ∧ t.sil = s.sil ∧ t.fns = s.fns) ∧
      ((∃ c ∈ codes, c ≤ -256 ∨ 255 ≤ c) → rb t .TILE_STAT 4 tile = true)) ∧
  (∀ (tile : Nat) (r : PassRun) (s : Machine.State), tile < 12288 → (tileOf s tile).running = some r → r.req.kind ≤ 1 →
    r.wave = 8 → (tileOf s tile).token = true →
    Ends (.passEnd tile) s fun t =>
      t = { s with tiles := t.tiles, regs := t.regs, pools := t.pools } ∧
      (tileOf t tile).running = none ∧ (tileOf t tile).token = false ∧ (∀ u, u ≠ tile → tileOf t u = tileOf s u) ∧
      poolOf t (tile / 1536) = { poolOf s (tile / 1536) with inUse := (poolOf s (tile / 1536)).inUse - 1 } ∧
      (r.req.kind = 0 → (rd t .TILE_PASS_CNT_LO tile).toNat + 2 ^ 32 * (rd t .TILE_PASS_CNT_HI tile).toNat =
        ((rd s .TILE_PASS_CNT_LO tile).toNat + 2 ^ 32 * (rd s .TILE_PASS_CNT_HI tile).toNat + 1) % 2 ^ 64) ∧
      (r.req.kind = 1 → (rd t .TILE_TPASS_CNT tile).toNat = ((rd s .TILE_TPASS_CNT tile).toNat + 1) % 2 ^ 32) ∧
      SameRegs [(.TILE_PASS_CNT_LO, tile), (.TILE_PASS_CNT_HI, tile), (.TILE_TPASS_CNT, tile)] s t)

/-- O2. A column block part takes a bank, gathers scales, codes, preloads and glaze sums, delivers, and frees the bank (R64, R128,
R132, R133, R137, R138).
With no debug halt, on a unit that is up: the first block scale of a part for the pass of a vector enters a fresh pass in the
bank that R128 gives it (stated where the other bank is empty and no fault was kept for the pass); a further scale enters the
pass of its vector; a wave of codes, preload values and glaze sums enter the oldest pass of the part that lacks them, and
advance the tile's count of accepted waves; a complete pass without fault, range mismatch, 0xFF block or poisoned bank forms the
words of R65 to R67, keeps them with the number of destinations that must acknowledge, and one with a fault forms canonical NaN
in every word; no byte of memory changes outside the scratchpad destinations; an acknowledgement counts down, and the last one
frees the bank. Each clause says what else stays as it was. (Rests on the model's choices of log entries 11, 31, 89, 96, 103, 105.) -/
def Obligations.AccumulationUnitEvents : Prop :=
  (∀ (cl part im vec pos scale b : Nat) (empty : Bool) (r : RouteE) (s : Machine.State), undebugged s = true →
    unitUp s 1 cl = true → part < 32 → routeOf (imgOf s im) cl part = some r → r.part = part →
    accFind s cl part (fun a => a.im == im && a.vec == some vec && a.result.isNone) = none →
    accFind s cl part (fun a => a.im == im && a.vec.isNone) = none →
    bankFor s cl im (sliceOf (imgOf s im) r.slice).group part (some vec) = some b →
    inBank s cl (1 - b) = [] → (∀ e ∈ inBank s cl b, e.2.vec ≠ none) → tget [] s.accLate (cl * 32 + part) = [] →
    (ownPreload s (imgOf s im) r).2 = false →
    Ends (.blockScaleArrival cl part im vec pos scale empty) s fun t =>
      t = { s with acc := t.acc, accNext := s.accNext + 1, dbg := { s.dbg with parked := t.dbg.parked }, regs := t.regs,
                   free := t.free } ∧
      (∀ q i, q ≠ .SPM_WAIT_CNT → i < 2 ^ 20 → rd t q i = rd s q i) ∧
      (preloadAt (imgOf s im) r = [] → t.regs = s.regs ∧ t.free = s.free) ∧
      tget {} t.acc (accKey cl b part) =
        { newPass s (imgOf s im) im (some vec) r with scales := [(pos, scale + 1 + 512 * b2n empty)] } ∧
      ∀ k, k ≠ accKey cl b part → tget {} t.acc k = tget {} s.acc k) ∧
  (∀ (cl part im vec pos scale k : Nat) (empty : Bool) (r : RouteE) (a : AccPass) (s : Machine.State), undebugged s = true →
    unitUp s 1 cl = true → routeOf (imgOf s im) cl part = some r →
    accFind s cl part (fun a => a.im == im && a.vec == some vec && a.result.isNone) = some (k, a) →
    Ends (.blockScaleArrival cl part im vec pos scale empty) s fun t =>
      t = { s with acc := t.acc } ∧
      tget {} t.acc k = { a with scales := tins a.scales pos (scale + 1 + 512 * b2n empty) } ∧
      ∀ j, j ≠ k → tget {} t.acc j = tget {} s.acc j) ∧
  (∀ (cl tile wave k : Nat) (codes : List Int) (run : PassRun) (a : AccPass) (s : Machine.State), undebugged s = true →
    inReset s 1 cl = false → (tileOf s tile).last = none → (tileOf s tile).running = some run → run.taken = wave →
    wave < run.wave → run.req.kind ≤ 1 → a.waited = true →
    accFind s cl run.req.part (fun a => a.im == run.req.im && a.vec == some run.req.vec && a.result.isNone &&
      !(tget 0 a.waves run.req.pos).testBit wave) = some (k, a) →
    Ends (.accCodeArrival cl tile wave codes) s fun t =>
      t = { s with acc := t.acc, tiles := t.tiles } ∧
      tget {} t.acc k = { a with codes := putWave (run.req.pos * 1024) wave 0 codes a.codes,
                                 waves := tmod 0 a.waves run.req.pos (fun m => m ||| 2 ^ wave),
                                 runs := tins a.runs run.req.pos run } ∧
      (∀ j, j ≠ k → tget {} t.acc j = tget {} s.acc j) ∧
      tileOf t tile = { tileOf s tile with running := some { run with taken := wave + 1 } } ∧
      ∀ u, u ≠ tile → tileOf t u = tileOf s u) ∧
  (∀ (cl part im off k : Nat) (vals : List Nat) (r : RouteE) (a : AccPass) (s : Machine.State), undebugged s = true →
    unitUp s 1 cl = true → routeOf (imgOf s im) cl part = some r → r.preSrc = 2 → r.home = true →
    (sliceOf (imgOf s im) r.slice).pre ≠ 0 → off + vals.length ≤ blockCols (sliceOf (imgOf s im) r.slice) r.cb →
    accFind s cl part (fun a => a.im == im && a.result.isNone && preMissing (imgOf s im) r a) = some (k, a) →
    (∀ j, j < vals.length → tget 0 a.pre (off + j) = 0) →
    Ends (.preloadRun cl part im off vals) s fun t =>
      t = { s with acc := t.acc } ∧
      tget {} t.acc k = { a with pre := putPre s (imgOf s im) (sliceOf (imgOf s im) a.slice) a.cb off vals a.pre } ∧
      ∀ j, j ≠ k → tget {} t.acc j = tget {} s.acc j) ∧
  (∀ (cl part im vec off k : Nat) (vals : List Nat) (r : RouteE) (a : AccPass) (s : Machine.State), undebugged s = true →
    cl < 384 → unitUp s 1 cl = true → routeOf (imgOf s im) cl part = some r →
    accFind s cl part (fun a => a.im == im && a.vec == some vec && a.result.isNone) = some (k, a) →
    Ends (.glazeContributionArrival cl part im vec off vals) s fun t =>
      t = { s with acc := t.acc, regs := t.regs } ∧ tget {} t.acc k = { a with glz := putGlz off vals a.glz } ∧
      SameRegs [(.ACC_WAIT_CNT, cl)] s t ∧ rf t .ACC_WAIT_CNT 15 0 cl = rf s .ACC_WAIT_CNT 15 0 cl ∧
      rf t .ACC_WAIT_CNT 31 16 cl = (rf s .ACC_WAIT_CNT 31 16 cl +
        ((List.range vals.length).filter fun j => colAdded (imgOf s im) r a (off + j)).length) % 2 ^ 16 ∧
      ∀ j, j ≠ k → tget {} t.acc j = tget {} s.acc j) ∧
  (∀ (cl part k : Nat) (a : AccPass) (r : RouteE) (s : Machine.State), undebugged s = true → inReset s 1 cl = false →
    accFind s cl part (fun a => a.result.isNone) = some (k, a) → routeOf (imgOf s a.im) cl part = some r →
    partReady s r a = true → bankBad s k a = false →
    let i := imgOf s a.im
    let z := zeroRows s i a
    let a' := { a with h := needsGlaze s i r (a.vec.getD 0) == some true, zero := z.1 }
    Ends (.accPartComplete cl part) s fun t =>
      (a.fault = none → rangeMismatch a (sliceOf i a.slice).mode = none → nanBlock a = false → z.2 = false →
        (tget {} t.acc k).result = some ((partWords i a' false).map (·.val))) ∧
      (a.fault ≠ none → (tget {} t.acc k).result = some ((partWords i a true).map (·.val))) ∧
      (tget {} t.acc k).acks = (r.dests.filter fun d =>
        d.kind == 1 || d.kind == 4 || ((sliceOf i a.slice).mode != 2 && (d.kind == 2 || d.kind == 3))).length ∧
      (∀ j, j ≠ k → tget {} t.acc j = tget {} s.acc j) ∧
      (∀ b, (∀ d ∈ r.dests, d.kind = 1 → b < scratchBase d.cl + d.addr * 8 ∨
          scratchBase d.cl + d.addr * 8 + (packElems (partFmt (sliceOf i a.slice).mode)
            ((tget {} t.acc k).result.getD [])).length ≤ b) → rdByte t b = rdByte s b) ∧
      t.tiles = s.tiles ∧ t.quant = s.quant ∧ t.glz = s.glz ∧ t.fuses = s.fuses) ∧
  (∀ (cl part k : Nat) (a : AccPass) (s : Machine.State), accFind s cl part (fun a => a.result.isSome) = some (k, a) →
    Ends (.destinationAck cl part) s fun t =>
      t = { s with acc := t.acc, poisonX := t.poisonX, dbg := { s.dbg with parked := t.dbg.parked } } ∧
      (a.acks ≤ 1 → ∀ v, (k, v) ∉ t.acc) ∧
      (1 < a.acks → t = { s with acc := t.acc } ∧ tget {} t.acc k = { a with acks := a.acks - 1 }) ∧
      ∀ j, j ≠ k → tget {} t.acc j = tget {} s.acc j)

/-- O3. Every word of a faulted part is the canonical NaN of its format (R67, R138).
The words a part delivers after a fault are, column by column, 0x7FC00000 in FP32, 0x7FC0 in the pure 16-bit mode and
0x80000000 in the integer mode, as many as the column block has columns, with one more in the integer mode. -/
def Obligations.FaultedPartIsNaN : Prop :=
  ∀ (i : Image) (a : AccPass), let x := sliceOf i a.slice
    (∀ w ∈ (partWords i a true).map (·.val), w = if x.mode = 2 then 0x80000000 else if x.mode = 1 then 0x7FC0 else 0x7FC00000) ∧
    ((partWords i a true).map (·.val)).length = min 1024 (x.dOut - 1024 * a.cb) + (if x.mode = 2 then 1 else 0)

/-- O4. A quantiser collects a vector run by run and sends a complete row block to every tile of its pass group (R58, R60, R217,
R659).
With no debug halt, on a unit that is up: a run of elements enters the oldest held vector whose row block is not complete, or a
new vector where the row block is complete in all that are held and they are fewer than two, and changes nothing else; the
quantisation of a complete row block of the one vector held takes that row block from it, releases the vector when it was the
last, notes whether the row block sends a channel to the glaze path, and sends the scale and the drive codes of R58 to every
tile and unit that holds the row block for a slice of the group and to which the way is open; where no slice of the group has an adapter, memory is unchanged and the
selected channels are counted in GLZ_SL_SEL_CNT. (Rests on the model's choices of log entries 89, 96.) -/
def Obligations.QuantiserEvents : Prop :=
  (∀ (cl im pg rb off : Nat) (vals : List Nat) (l r : List QVec) (v : QVec) (s : Machine.State), undebugged s = true →
    unitUp s 2 cl = true →
    let n := blockRows ((groupSlices (imgOf s im) pg).headD {}) rb
    (tget [] s.quant (qKey im pg) = l ++ v :: r ∨
      (tget [] s.quant (qKey im pg) = l ∧ l.length < 2 ∧ v = { vec := s.vecNext } ∧ r = [])) →
    (∀ w ∈ l, rbFull w rb n = true) → rbFull v rb n = false → off + vals.length ≤ n →
    (∀ e, e < vals.length → tget 0 v.elems (rb * 1024 + off + e) = 0) →
    Ends (.quantiserRun cl im pg rb off vals) s fun t =>
      t = { s with quant := t.quant, vecNext := t.vecNext } ∧
      t.vecNext = (if tget [] s.quant (qKey im pg) = l ++ v :: r then s.vecNext else s.vecNext + 1) ∧
      tget [] t.quant (qKey im pg) =
        l ++ { v with elems := putElems (rb * 1024) off vals v.elems, cls := tins v.cls rb cl } :: r ∧
      ∀ k, k ≠ qKey im pg → tget [] t.quant k = tget [] s.quant k) ∧
  (∀ (cl im pg rb : Nat) (tag : Option (Nat × Nat)) (v : QVec) (s : Machine.State), undebugged s = true →
    cl < 384 → inReset s 2 cl = false →
    let i := imgOf s im
    let x := (groupSlices i pg).headD {}
    let o := outlierOf i x.id rb
    let words := rbWords v rb (blockRows x rb)
    let ke := if o.mode = 2 ∨ o.mode = 3 then kEff (ctlOf (openCtl im pg v.vec tag s) v.vec) cl o else 0
    let q := quantise x.dFmt x.ocp (selected o ke words) words
    tget [] s.quant (qKey im pg) = [v] → rb ∉ v.done → rbFull v rb (blockRows x rb) = true →
    Ends (.rowBlockQuantise cl im pg rb tag) s fun t =>
      tget [] t.quant (qKey im pg) = (if x.rows ≤ v.done.length + 1 then [] else [{ v with done := rb :: v.done }]) ∧
      (∀ k, k ≠ qKey im pg → tget [] t.quant k = tget [] s.quant k) ∧
      tget 0 (ctlOf t v.vec).sends rb = 1 + b2n (sendsGlaze o ke) ∧
      (∀ y ∈ groupSlices i pg, ∀ r ∈ i.routes, r.slice = y.id → ∀ p e,
        ((partTiles i r).mapIdx fun p e => (p, e)).find? (fun e => e.2.1 == rb) = some (p, e) →
        (wayClosed s (cl / 48) (.scratch (clOfTile e.2.tile)) = false →
          Msg.fabric 0 e.2.tile tagDrive ([y.kind, e.2.layer, im, r.part, v.vec, p] ++ q.codes) ∈ t.out) ∧
        (wayClosed s (cl / 48) (.scratch r.cl) = false →
          Msg.fabric 1 r.cl tagScale [r.part, im, v.vec, p, q.scale, b2n q.empty] ∈ t.out)) ∧
      ((∀ y ∈ groupSlices i pg, adapterOf i y = none) → SameMem s t ∧
        (rd t .GLZ_SL_SEL_CNT cl).toNat = ((rd s .GLZ_SL_SEL_CNT cl).toNat + ke) % 2 ^ 32) ∧
      t.tiles = s.tiles ∧ t.fuses = s.fuses)

/-- O5. A glaze slice gathers selections and weight rows, and adapters gather their parts, as R126, R140 and R143 say (R72, R123,
R126, R140, R143, R145).
With no debug halt, on units that are up: a selection enters the job of its vector, a new one where there is none, which waits for
the weight rows that were not fetched before; the row of a fixed channel may be fetched before the selection of its row block;
an adapter's h opens a job that keeps it; the arrival of a weight row ends the wait for it, and the contributions of a job that
it completes leave for every part served whose way is open; the parts u and q of an adapter are kept, vector by vector, until the
last one, whose arrival sends h = RNE_BF16(α × sum), or v, of which each sum runs through the products one by one in ascending
column order, with α of the copy that the pass uses, to every glaze slice with columns, or rows, of the adapter and forgets the
parts; the arrival of v gives z for every row of its block to the glaze slices that form
the input gradient, and adds x × v, x from the training record, into the gradient accumulators. Each clause says what else stays
as it was. (Rests on the model's choices of log entries 11, 32, 96, 97, 105.) -/
def Obligations.GlazeSliceEvents : Prop :=
  (∀ (cl im slice vec rb : Nat) (chans : List (Nat × Nat)) (j : GlzJob) (s : Machine.State), undebugged s = true →
    unitUp s 2 cl = true →
    (tget [] s.glz cl = [] ∧ j = { im := im, slice := slice, vec := vec } ∨
      tget [] s.glz cl = [j] ∧ j.im = im ∧ j.slice = slice ∧ j.vec = vec) →
    (∃ c ∈ chans, (rb, c.1) ∉ j.fetched) →
    Ends (.glazeSelectionArrival cl im slice vec rb chans) s fun t =>
      t = { s with glz := t.glz } ∧
      tget [] t.glz cl = [{ j with sels := tins j.sels rb chans,
                                   waiting := j.waiting ++ (chans.map fun c => (rb, c.1)).filter fun e => !j.fetched.contains e,
                                   fetched := j.fetched.filter fun e => e.1 != rb }] ∧
      ∀ k, k ≠ cl → tget [] t.glz k = tget [] s.glz k) ∧
  (∀ (cl im slice vec rb ch : Nat) (j : GlzJob) (s : Machine.State), undebugged s = true → unitUp s 2 cl = true →
    (tget [] s.glz cl = [] ∧ j = { im := im, slice := slice, vec := vec } ∨
      tget [] s.glz cl = [j] ∧ j.im = im ∧ j.slice = slice ∧ j.vec = vec) →
    fetchAhead s cl im slice vec rb ch = true → rowPoisoned s (imgOf s im) slice rb ch = false → 0 < (sliceOf (imgOf s im) slice).rows →
    j.sels = [] →
    Ends (.glazeWeightRowArrival cl im slice vec rb ch) s fun t =>
      t = { s with glz := t.glz, regs := t.regs, free := t.free } ∧
      (∀ q k, q ≠ .SPM_WAIT_CNT → k < 2 ^ 20 → rd t q k = rd s q k) ∧
      tget [] t.glz cl = [{ j with fetched := j.fetched ++ [(rb, ch)] }] ∧ ∀ k, k ≠ cl → tget [] t.glz k = tget [] s.glz k) ∧
  (∀ (cl im slice vec rb ch : Nat) (j : GlzJob) (s : Machine.State), undebugged s = true → tget [] s.glz cl = [j] →
    j.im = im → j.slice = slice → j.vec = vec → (rb, ch) ∈ j.waiting → fetchAhead s cl im slice vec rb ch = false →
    rowPoisoned s (imgOf s im) slice rb ch = false →
    let i := imgOf s im
    let x := sliceOf i slice
    let j' := { j with waiting := j.waiting.erase (rb, ch) }
    Ends (.glazeWeightRowArrival cl im slice vec rb ch) s fun t =>
      SameMem s t ∧ (∀ k, k ≠ cl → tget [] t.glz k = tget [] s.glz k) ∧
      (jobReady s cl j' = false → t = { s with glz := t.glz, regs := t.regs, free := t.free } ∧
        (∀ q k, q ≠ .SPM_WAIT_CNT → k < 2 ^ 20 → rd t q k = rd s q k) ∧ tget [] t.glz cl = [j']) ∧
      (jobReady s cl j' = true → tget [] t.glz cl = [] ∧
        (anySelected j' = true ∨ (adIn (ctlOf s vec) i x).isSome = true →
          ∀ r ∈ i.routes, r.slice = slice → r.glaze = true → r.glzCl = cl →
          let cols := (List.range (blockCols x r.cb)).map fun c => 1024 * r.cb + c
          (∀ row ∈ outRows s i x vec cols, rowPoisoned s i (fwdOf x) (row / 1024) (row % 1024) = false) →
          wayClosed s (cl / 48) (.scratch r.cl) = false →
          Msg.fabric 1 r.cl tagGlaze ([r.part, im, vec, 0] ++ cols.map fun c => glazeValue s i x j' c) ∈ t.out))) ∧
  (∀ (cl im idx vec rb : Nat) (u : List Nat) (s : Machine.State), undebugged s = true → unitUp s 3 cl = true →
    let i := imgOf s im
    let a := adpOf i idx
    let p := portOf s im idx
    let c := ctlOf s vec
    let us := tins p.us (vec * 2 ^ 7 + rb) u
    Ends (.adapterUArrival cl im idx vec rb u) s fun t =>
      (∀ k, k ≠ adpKey im idx → tget {} t.adapters k = tget {} s.adapters k) ∧ t.tiles = s.tiles ∧ t.glz = s.glz ∧
      ((partsOf 7 vec us).length < (sliceOf i a.slice).rows →
        t = { s with adapters := t.adapters } ∧ portOf t im idx = { p with us := us }) ∧
      ((sliceOf i a.slice).rows ≤ (partsOf 7 vec us).length →
        portOf t im idx = { p with us := us.filter fun e => e.1 / 2 ^ 7 != vec } ∧
        (∀ b ∈ a.bs, wayClosed s (cl / 48) (.scratch b.cl) = false → Msg.fabric 2 b.cl tagH ([im, idx, vec] ++
          (sumParts a.rank (partsOf 7 vec us)).map (alphaBf (alphaOf p (copyIn c idx)))) ∈ t.out) ∧
        (trainAt s i a c.tag = none → (∀ b ∈ a.bs, wayClosed s (cl / 48) (.scratch b.cl) = false) →
          t = { s with adapters := t.adapters, out := t.out }) ∧
        ∀ k, trainAt s i a c.tag = some k → SameMemBut (k + trainH i a) (2 * a.rank) s t)) ∧
  (∀ (cl im idx vec : Nat) (h : List Nat) (s : Machine.State), undebugged s = true → unitUp s 2 cl = true →
    tget [] s.glz cl = [] →
    let a := adpOf (imgOf s im) idx
    0 < (sliceOf (imgOf s im) a.slice).rows →
    (∀ b ∈ a.bs, b.cl = cl → anyPoison s (bLoc b (copyIn (ctlOf s vec) idx)) (2 * a.rank * b.n) = false) →
    Ends (.adapterHArrival cl im idx vec h) s fun t =>
      t = { s with glz := t.glz } ∧
      tget [] t.glz cl = [{ im := im, slice := a.slice, vec := vec, h := some h }] ∧
      ∀ k, k ≠ cl → tget [] t.glz k = tget [] s.glz k) ∧
  (∀ (cl im idx vec col : Nat) (q : List Nat) (s : Machine.State), undebugged s = true → unitUp s 3 cl = true →
    let i := imgOf s im
    let a := adpOf i idx
    let p := portOf s im idx
    let qs := tins p.qs (vec * 2 ^ 17 + col) q
    Ends (.adapterQArrival cl im idx vec col q) s fun t =>
      SameMem s t ∧ (∀ k, k ≠ adpKey im idx → tget {} t.adapters k = tget {} s.adapters k) ∧ t.tiles = s.tiles ∧ t.glz = s.glz ∧
      ((partsOf 17 vec qs).length < qCount i a → t = { s with adapters := t.adapters } ∧ portOf t im idx = { p with qs := qs }) ∧
      (qCount i a ≤ (partsOf 17 vec qs).length →
        portOf t im idx = { p with qs := qs.filter fun e => e.1 / 2 ^ 17 != vec } ∧
        ((∀ b ∈ a.as, wayClosed s (cl / 48) (.scratch b.cl) = false) → t = { s with adapters := t.adapters, out := t.out }) ∧
        ∀ b ∈ a.as, wayClosed s (cl / 48) (.scratch b.cl) = false → Msg.fabric 2 b.cl tagV ([im, idx, vec, b.rb] ++
          (List.range a.rank).map fun k => alphaBf (alphaOf p (copyIn (ctlOf s vec) idx))
            (f32Sum ((partsOf 17 vec qs).flatMap (qProducts a.rank k)))) ∈ t.out)) ∧
  (∀ (cl im idx vec rb : Nat) (v : List Nat) (x : SliceE) (p : APartE) (s : Machine.State), undebugged s = true →
    unitUp s 2 cl = true →
    let i := imgOf s im
    let a := adpOf i idx
    let c := ctlOf s vec
    let rows := blockRows (sliceOf i a.slice) rb
    i.slices.find? (fun x => x.kind == 1 && x.pair == a.slice) = some x →
    a.as.find? (fun p => p.rb == rb && p.cl == cl) = some p → sliceOf i x.id = x → 0 < x.rows →
    Ends (.adapterVArrival cl im idx vec rb v) s fun t =>
      (∀ r ∈ i.routes, r.slice = x.id → r.cb = rb → r.glaze = true → tget [] s.glz r.glzCl = [] →
        ∃ j, tget [] t.glz r.glzCl = [j] ∧ j.im = im ∧ j.slice = x.id ∧ j.vec = vec ∧
          ∀ k, k < rows → tget 0 j.z (1024 * rb + k) = bfDot ((List.range a.rank).map fun l =>
            (v.getD l 0, rdBf s (aLoc p (copyIn c idx) + k * 2 * a.rank + 2 * l))) + 1) ∧
      (trainBf s i a c.tag (2048 * rb) rows = none → t.mem = s.mem) ∧
      (∀ xs, trainBf s i a c.tag (2048 * rb) rows = some xs → anyPoison s (aLoc p (copyIn c idx)) (2 * a.rank * rows) = false →
        anyPoison s p.grad (4 * a.rank * rows) = false → trainBad s i a c.tag (2048 * rb) (2 * rows) = false →
        t.mem = (growA p a.rank xs v s).mem) ∧
      SameMemBut p.grad (rows * 4 * a.rank) s t ∧
      t.tiles = s.tiles ∧ t.adapters = s.adapters)

/-- O6. A scrub finds a word good, corrects it, or poisons it; the audit of the shadow keeps a match and marks a mismatch BAD
(R288, R289, R295, R300, R304, R305).
Where the scrubber is enabled, or a reader comes to the word: a good word changes nothing; a corrected one sets and counts the
correctable error of its store, remembers the time of the correction and leaves memory and poison as they were; an uncorrectable
one poisons its word, counts it, and keeps the first record of HUB_MEM_POISON, which says whether the scrubber found it. The
audit of a VALID shadow of a VALID tile-layer changes nothing where the digest agrees, and marks it BAD, sets
HUB_MEM_ERR_STAT[6] and logs where it does not, or where it meets an uncorrectable error; then the state byte of its entry in the
shadow index says BAD. No other byte of memory is changed. (Rests on the model's choices of log entries 4, 5, 36, 103.) -/
def Obligations.MemoryScrubAndAudit : Prop :=
  (∀ (store word : Nat) (read : Bool) (s : Machine.State), read = true ∨ Machine.rb s .HUB_SCRUB_CTRL 0 = true → store ≠ 3 →
    store ≤ 8 → (store < 3 → storeCode (placeOf word) = store) →
    Ends (.sramScrub store word 0 read) s (fun t => t = s) ∧
    (store < 8 → Ends (.sramScrub store word 1 read) s (fun t => SameMem s t ∧ t.poison = s.poison ∧ t.poisonX = s.poisonX ∧
      Machine.rb t .HUB_MEM_ERR_STAT 0 = true ∧
      rf t .HUB_MEM_CE_CNT 15 0 = min 65535 (rf s .HUB_MEM_CE_CNT 15 0 + 1) ∧
      tget 0 t.corrected (corrKey store word) = s.now + 1 ∧ t.hbm = s.hbm ∧ t.units = s.units ∧ t.tiles = s.tiles ∧
      t.shadow = s.shadow)) ∧
    (store < 3 → poisoned s word = false →
      Ends (.sramScrub store word 2 read) s (fun t => SameMem s t ∧ poisoned t word = true ∧
        Machine.rb t .HUB_MEM_ERR_STAT 1 = true ∧
        rf t .HUB_MEM_UE_CNT 15 0 = min 65535 (rf s .HUB_MEM_UE_CNT 15 0 + 1) ∧
        (Machine.rb s .HUB_MEM_POISON_HI 31 = true → rd t .HUB_MEM_POISON_LO = rd s .HUB_MEM_POISON_LO ∧
          rd t .HUB_MEM_POISON_HI = rd s .HUB_MEM_POISON_HI) ∧
        (Machine.rb s .HUB_MEM_POISON_HI 31 = false → (rd t .HUB_MEM_POISON_LO).toNat = eccBase word % 2 ^ 32 ∧
          Machine.rb t .HUB_MEM_POISON_HI 31 = true ∧ Machine.rb t .HUB_MEM_POISON_HI 19 = !read ∧
          rf t .HUB_MEM_POISON_HI 18 16 = store) ∧
        Logged 2 2 s t ∧ t.units = s.units ∧ t.tiles = s.tiles ∧ t.shadow = s.shadow)) ∧
    (3 < store → store < 8 → tget 0 s.poisonX (store * 2 ^ 40 + word) ≠ 1 →
      Ends (.sramScrub store word 2 read) s (fun t => SameMem s t ∧ t.poison = s.poison ∧
        tget 0 t.poisonX (store * 2 ^ 40 + word) = 1 ∧ Machine.rb t .HUB_MEM_ERR_STAT 1 = true ∧
        rf t .HUB_MEM_UE_CNT 15 0 = min 65535 (rf s .HUB_MEM_UE_CNT 15 0 + 1) ∧
        (Machine.rb s .HUB_MEM_POISON_HI 31 = false → (rd t .HUB_MEM_POISON_LO).toNat = word % 2 ^ 32 ∧
          rf t .HUB_MEM_POISON_HI 18 16 = store) ∧
        Logged 2 2 s t ∧ t.units = s.units ∧ t.tiles = s.tiles ∧ t.shadow = s.shadow))) ∧
  (∀ (addr : Nat) (read : Bool) (s : Machine.State), read = true ∨ Machine.rb s .HUB_SCRUB_CTRL 1 = true →
    addr < 0x1800000000 →
    Ends (.hbmPatrolScrub addr 0 read) s (fun t => t = s) ∧
    Ends (.hbmPatrolScrub addr 1 read) s (fun t => SameMem s t ∧ t.poison = s.poison ∧
      Machine.rb t .HUB_MEM_ERR_STAT 2 = true ∧
      rf t .HUB_MEM_CE_CNT 31 16 = min 65535 (rf s .HUB_MEM_CE_CNT 31 16 + 1) ∧
      (tget {} t.hbm (channelOf addr)).ce = min 65535 ((tget {} s.hbm (channelOf addr)).ce + 1) ∧
      tget 0 t.corrected (addr / 32 * 32) = s.now + 1 ∧ t.units = s.units ∧ t.tiles = s.tiles) ∧
    (poisoned s addr = false →
      Ends (.hbmPatrolScrub addr 2 read) s (fun t => SameMem s t ∧ poisoned t addr = true ∧
        Machine.rb t .HUB_MEM_ERR_STAT 3 = true ∧
        rf t .HUB_MEM_UE_CNT 31 16 = min 65535 (rf s .HUB_MEM_UE_CNT 31 16 + 1) ∧ Logged 2 4 s t ∧
        t.units = s.units ∧ t.tiles = s.tiles ∧ t.shadow = s.shadow))) ∧
  (∀ (tl : Nat) (x : Shadow) (s : Machine.State), Machine.rb s .HUB_SCRUB_CTRL 2 = true → shadowOf s tl = some x →
    tlValid s (tl / 4) (tl % 4) = true → x.state = 0 →
    let same := canonDigest x.fp4 x.rows x.cols (rdBytes s x.addr 0x80000) = (wearOf s tl).digest
    (anyPoison s x.addr 0x80000 = false → same → Ends (.shadowAudit tl false) s fun t => t = s) ∧
    (anyPoison s x.addr 0x80000 = true ∨ ¬ same → Ends (.shadowAudit tl false) s fun t => SameMemBut x.entry 16 s t ∧
      (∀ w, w + 32 ≤ x.entry ∨ x.entry + 16 ≤ w → tget 0 t.poison w = tget 0 s.poison w) ∧
      (poisoned s (x.entry + 6) = false → rdByte t (x.entry + 6) = 1) ∧
      shadowOf t tl = some { x with state := 1 } ∧ (∀ k, k ≠ tl → tget {} t.shadow k = tget {} s.shadow k) ∧
      Machine.rb t .HUB_MEM_ERR_STAT 6 = true ∧ Logged 2 8 s t ∧ t.units = s.units ∧ t.tiles = s.tiles))

/-- O7. RESTORE ends at once where nothing is lost, asks for the records otherwise, and each good record makes its shadow VALID
(R225, R296, R355).
A RESTORE that may start, from host memory, completes with SUCCESS, INFO 0 and VALUE 0 where no tile-layer of the context's
images has a BAD or LOST shadow and no EMBED table of theirs was lost; otherwise it runs with those tile-layers and tables
outstanding and asks host memory for each of their records, and no register, tile or shadow changes. A record of a tile-layer
that arrives with the digest its directory names, while others are outstanding, makes the shadow VALID, changes no byte of memory
outside the 512 KiB of the shadow, the 16 KiB of its probe-sum table and the 16 B of its entry in the index, and advances INFO. (Rests on the model's choices of log
entries 36, 56, 106.) -/
def Obligations.RestoreCommand : Prop :=
  (∀ (h : Nat) (c : Cmd) (im : Nat) (s : Machine.State), startsAs s h 0x04 c → c.u 0x20 1 = 0 → c.im = some im → c.info = 0 →
    (badTls s c.ctx = [] → lostTables s c.ctx = [] → Ends (.restore h) s fun t => Completed h c 0 0 0 s t ∧ t.mem = s.mem ∧
      t.shadow = s.shadow ∧ t.tiles = s.tiles) ∧
    (badTls s c.ctx ≠ [] ∨ lostTables s c.ctx ≠ [] → Ends (.restore h) s fun t =>
      t = { s with cmds := t.cmds, out := t.out } ∧
      cmdOf t h = some { c with run := true, words := ((badTls s c.ctx).map (·.1)).dedup ++
        ((lostTables s c.ctx).map fun e => tableItem e.1 e.2.1).dedup } ∧
      (∀ k, k ≠ h → cmdOf t k = cmdOf s k) ∧
      (∀ e ∈ badTls s c.ctx, let r := e.2.1.ware.getD e.2.2.record {}
        Msg.hostRead c.fn (c.u 0x10 8 + r.off) (payloadLen r) ∈ t.out) ∧
      (∀ e ∈ lostTables s c.ctx, let r := (imgOf s e.1).ware.getD e.2.1 {}
        Msg.hostRead c.fn (c.u 0x10 8 + r.off) (payloadLen r) ∈ t.out))) ∧
  (∀ (h tl : Nat) (c : Cmd) (i : Image) (p : PlaceE) (x : Shadow) (pl : List Nat) (s : Machine.State),
    cmdOf s h = some c → c.op = 0x04 → c.u 0x20 1 ≠ 1 → tl ∈ c.words → tl < 2 ^ 16 →
    (badTls s c.ctx).find? (fun e => e.1 == tl) = some (tl, i, p) → shadowOf s tl = some x →
    hubDown s x.addr 0x80000 = none → digestBad (recOf i p) (placeFp4 i p) pl = false → (∃ k ∈ c.words, k ≠ tl) →
    Ends (.restoreRecordArrival h tl pl false) s fun t =>
      (∃ y, shadowOf t tl = some y ∧ y.state = 0 ∧ y.addr = x.addr ∧ y.ctx = c.ctx) ∧
      (∀ b, b < x.addr ∨ x.addr + 0x80000 ≤ b → b < x.sums ∨ x.sums + 0x4010 ≤ b → rdByte t b = rdByte s b) ∧
      cmdOf t h = some { c with words := c.words.filter (· != tl), prog := s.now, info := c.info + 1 } ∧
      t.tiles = s.tiles ∧ t.units = s.units ∧ t.seqs = s.seqs)

/-- O8. A query is kept by unit, an append is converted head by head into its slip entry, and a scored unit answers its partial
(R68, R69, R309, R316, R317, R318, R319).
With no debug halt, BIND, LAYER and PART being [11:0], [17:12] and [18] of the ADDR of the word: an admissible query of codes or of
finite scales is kept, unit by unit, in the binding, with the context that sent its codes, and changes nothing else while
prefetch is off and no cross-check runs. An admissible append of one head of W elements is
recorded, stored in slip form (scale and codes by R68 and R69) at its entry where that holds no poison and the head no NaN,
and no other byte of memory changes. A bay of the stripe, one that drains among them, that scores a unit whose codes and scale have
come, with every way open, sends the partial of R309 to R313 to the context that sent the codes, pins what it read, and marks its rank; no memory, sequence or tile
changes. (Rests on the model's choices of log entries 41, 42, 43.) -/
def Obligations.AttentionArrivals : Prop :=
  (∀ (cl ctx addr off fmt : Nat) (vals : List Nat) (x : Bind) (s : Machine.State), undebugged s = true →
    let bind := bitsOf addr 11 0
    let layer := bitsOf addr 17 12
    let part := bitsOf addr 18 18
    let kv := kvOf s (seqOf s x.seq).im
    bindOf s bind = some x → queryBad x kv layer part off fmt vals = false → (∀ b ∈ (kvLayer kv layer).stripe, unitUp s 4 b = true) →
    Machine.rb s .KVM_CTRL 0 = false → (part = 1 → 0xFF ∉ vals) → s.rounds = [] →
    Ends (.queryArrival cl ctx addr off fmt vals) s fun t =>
      t = { s with binds := t.binds } ∧ (∀ b, b ≠ bind → bindOf t b = bindOf s b) ∧
      ∃ y, bindOf t bind = some y ∧ y.atLayer = layer ∧ y.elems = x.elems ∧
        (∀ k, k < vals.length → part = 1 →
          tget {} y.units (unitKey layer (off + k)) =
            { tget {} x.units (unitKey layer (off + k)) with scale := vals.getD k 0 + 1 }) ∧
        (∀ k, k < vals.length / kv.w → part = 0 →
          tget {} y.units (unitKey layer (off / kv.w + k)) =
            { tget {} x.units (unitKey layer (off / kv.w + k)) with
              codes := ((vals.drop (k * kv.w)).take kv.w).map (· + 1), cl := cl, ctx := ctx, g0 := off / kv.w })) ∧
  (∀ (cl ctx addr n a : Nat) (vals : List Nat) (x : Bind) (s : Machine.State), undebugged s = true →
    let bind := bitsOf addr 11 0
    let layer := bitsOf addr 17 12
    let kv := kvOf s (seqOf s x.seq).im
    bindOf s bind = some x → appendBad s x kv layer (n * kv.w) vals = false → vals.length = kv.w → 0 < kv.w →
    entryOf s x kv layer (n / (2 * kv.hkv)) = some a → anyPoison s a (2 * kv.hkv * (kv.w + 1)) = false →
    (bsclGroup .e4m3 448 (vals.map (decode .fp32))).1 ≠ 0xFF →
    Ends (.appendArrival cl ctx addr (n * kv.w) vals) s fun t =>
      t = { s with binds := t.binds, mem := t.mem, poison := t.poison, lost := t.lost } ∧
      (∃ y, bindOf t bind = some y ∧ ∀ e, e < kv.w → tget 0 y.elems (elemKey layer (n * kv.w + e)) = vals.getD e 0 + 1) ∧
      (let r := bsclGroup .e4m3 448 (vals.map (decode .fp32))
       let h := n % (2 * kv.hkv)
       rdBytes t (a + h * kv.w) kv.w = r.2.1.map (BitVec.ofNat 8) ∧
       rdByte t (a + 2 * kv.hkv * kv.w + h) = BitVec.ofNat 8 r.1) ∧
      SameMemBut a (2 * kv.hkv * (kv.w + 1)) s t) ∧
  (∀ (bay bind layer unit rank : Nat) (x : Bind) (s : Machine.State), undebugged s = true → bindOf s bind = some x →
    let im := imgOf s (seqOf s x.seq).im
    let kv := im.kv
    let u := tget {} x.units (unitKey layer unit)
    u.codes ≠ [] → u.scale ≠ 0 → (kvLayer kv layer).stripe.findIdx (· == bay) = rank →
    rank < (kvLayer kv layer).stripe.length → rank ∉ u.scored → flushPending (seqOf s x.seq) layer = false →
    unitWorks s 4 bay = true → wayClosed s (bay / 6) (.scratch u.cl) = false →
    let pages := visiblePages s im x layer bay (unit / kv.hq)
    let slips := visibleSlips s im x layer bay (unit / kv.hq)
    let reads := (pages.flatMap (·.2) ++ slips).map (locRange kv)
    (∀ p ∈ pages, (descOf s p.1).st ≠ 4) → (∀ r ∈ reads, anyPoison s r.1 r.2 = false ∧ dieDown s (bay / 6) r.1 r.2 = false) →
    Ends (.engineUnitScore bay bind layer unit false) s fun t =>
      t = { s with out := t.out, binds := t.binds, pins := t.pins, descs := t.descs, regs := t.regs } ∧
      t.out.head? = some (.fabric 3 u.cl tagQuery ([u.ctx, (kvLayer kv layer).ret + rank, (unit - u.g0) * (kv.w + 2)] ++
        bayPartial s im u layer unit (pages.map (·.2) ++ [slips]))) ∧
      (∃ y, bindOf t bind = some y ∧
        tget {} y.units (unitKey layer unit) = { u with scored := rank :: u.scored }) ∧
      (∀ p ∈ pages, ((descOf s p.1).addr, bay) ∈ t.pins) ∧
      (rd t .KVM_HBM_SCORE_CNT).toNat =
        ((rd s .KVM_HBM_SCORE_CNT).toNat + (pages.filter fun p => (descOf s p.1).tier == 2).length) % 2 ^ 32 ∧
      SameRegs [(.KVM_HBM_SCORE_CNT, 0)] s t)

/-- O9. A flush moves from asked to running to complete, a pin goes, and a move points its descriptor to the new frame (R321,
R326, R327, R330, R332, R333).
With no debug halt: a flush that a commit has asked for, on a bay that is up, whose page does not move, whose data hold no
poison and for which a frame is found, leaves the list of flushes asked for and joins those running; no other sequence
changes. Its completion removes it, leaves the page with 64 records, frees the slip segment, counts KVM_FLUSH_CNT, and changes
no memory. A released pin is gone, and with the last one the frame is no longer RELEASING. A completed move copies the page,
points the descriptor to the new frame and counts KVM_SPILL_CNT or KVM_PF_CNT, and KVM_PF_UNUSED_CNT where the binding of a
prefetch has ended; an abandoned one leaves frame and memory, sets KVM_ERR_STAT[4] and names the sequence; other descriptors
change only where the end of the move lets a spill or a prefetch begin. (Rests on the model's choices of log entries 40, 43.) -/
def Obligations.PageEvents : Prop :=
  (∀ (bay seq layer page c : Nat) (f : Nat × Nat × Nat) (s : Machine.State), undebugged s = true →
    let q := seqOf s seq
    q.toFlush.find? (fun f => f.1 == layer && f.2.1 == page) = some f → bayOfPage (imgOf s q.im) layer page = bay →
    unitUp s 4 bay = true → pageMoving s seq layer page = false →
    flushPoison s seq layer page (pageCount s seq layer page) 64 = false → flushFrame s seq layer page f.2.2 = some c →
    Ends (.pageFlush bay seq layer page) s fun t =>
      (seqOf t seq).toFlush = q.toFlush.erase f ∧ (seqOf t seq).flushing = q.flushing ++ [(layer, page, 0)] ∧
      (seqOf t seq).len = q.len ∧ (seqOf t seq).slips = q.slips ∧
      (c ≠ 0 → codeTier c = 2 → (rd t .KVM_DIRECT_CNT).toNat = ((rd s .KVM_DIRECT_CNT).toNat + 1) % 2 ^ 32) ∧
      (∀ i, i ≠ seq → seqOf t i = seqOf s i) ∧
      t.tiles = s.tiles ∧ t.units = s.units ∧ t.cmds = s.cmds ∧ t.binds = s.binds) ∧
  (∀ (seq layer page : Nat) (f : Nat × Nat × Nat) (s : Machine.State),
    let q := seqOf s seq
    q.flushing.find? (fun f => f.1 == layer && f.2.1 == page) = some f →
    (∀ g ∈ s.gens, g.2.pfx = none ∨ g.2.seq ≠ seq) →
    Ends (.flushComplete seq layer page) s fun t =>
      t = { s with seqs := t.seqs, pins := t.pins, releasing := t.releasing, descs := t.descs, regs := t.regs } ∧
      (seqOf t seq).flushing = q.flushing.erase f ∧
      (tget {} (seqOf t seq).pages (lpKey layer page)).count = 64 ∧
      (∀ k, k ≠ lpKey layer page → tget {} (seqOf t seq).pages k = tget {} q.pages k) ∧
      (seqOf t seq).slips = q.slips.filter (fun e => e.1 != lpKey layer page) ∧
      (∀ i, i ≠ seq → seqOf t i = seqOf s i) ∧
      (rd t .KVM_FLUSH_CNT).toNat = ((rd s .KVM_FLUSH_CNT).toNat + 1) % 2 ^ 32 ∧
      SameRegs [(.KVM_FLUSH_CNT, 0)] s t) ∧
  (∀ (addr reader : Nat) (s : Machine.State), (addr, reader) ∈ s.pins →
    Ends (.pinRelease addr reader) s fun t =>
      t = { s with pins := s.pins.erase (addr, reader), releasing := t.releasing } ∧
      (pinned t addr = true → t.releasing = s.releasing) ∧
      (pinned t addr = false → t.releasing = s.releasing.filter fun f => f.addr != addr)) ∧
  (∀ (desc a tier : Nat) (pf : Bool) (e : Nat × Seq) (s : Machine.State), (descOf s desc).dest = some (a, tier, pf) →
    s.seqs.find? (fun e => e.2.pages.any fun p => p.2.desc == desc) = some e →
    (∀ g ∈ s.gens, g.2.pfx = none ∨ g.2.input ≠ []) →
    let n := (kvOf s e.2.im).pageBytes
    let d := descOf s desc
    let still := Machine.rb s .KVM_CTRL 0 = false ∧ rf s .KVM_CTRL 22 16 = 0
    (anyPoison s d.addr n = false → anyPoison s a n = false →
      Ends (.pageMoveComplete desc false) s fun t =>
        t = { s with mem := t.mem, poison := t.poison, lost := t.lost, descs := t.descs, pins := t.pins,
                     releasing := t.releasing, regs := t.regs } ∧
        (descOf t desc).addr = a ∧ (descOf t desc).tier = tier ∧ (∀ k, k ≠ desc → (descOf t k).addr = (descOf s k).addr) ∧
        (still → (∀ k, k ≠ desc → descOf t k = descOf s k) ∧
          let u := if pf = true ∧ (holders s desc).any (·.1) = true then true else d.unused
          descOf t desc = { d with addr := a, tier := tier, st := 1, dest := none, unused := u }) ∧
        (pf = true → (holders s desc).any (·.1) = false →
          (rd t .KVM_PF_UNUSED_CNT).toNat = ((rd s .KVM_PF_UNUSED_CNT).toNat + 1) % 2 ^ 32) ∧
        rdBytes t a n = rdBytes s d.addr n ∧ SameMemBut a n s t ∧
        (if pf then (rd t .KVM_PF_CNT).toNat = ((rd s .KVM_PF_CNT).toNat + 1) % 2 ^ 32
         else (rd t .KVM_SPILL_CNT).toNat = ((rd s .KVM_SPILL_CNT).toNat + 1) % 2 ^ 32)) ∧
    Ends (.pageMoveComplete desc true) s fun t =>
      (∀ k, (descOf t k).addr = (descOf s k).addr) ∧
      (still → descOf t desc = { d with st := 1, dest := none } ∧ ∀ k, k ≠ desc → descOf t k = descOf s k) ∧
      (d.bay < 64 → rf t .KVM_LAST_ERR 27 16 = e.1 % 4096) ∧
      SameMem s t ∧ Machine.rb t .KVM_ERR_STAT 4 = true ∧ Logged 0x0D 0x0E s t ∧ t.seqs = s.seqs)

/-- O10. Each of the 27 lane instructions issues with the results of its function (R243, R245, R247, R249, R254, R255, R256, R257,
R258, R260, R261, R262).
For every lane instruction from VADD to VRNG: where it can fire, its destinations are free and refuse nothing, its sources hold no
uncorrectable error, its operands are accepted and no invalid operation traps, it issues: its function of the operands (widened to
FP32, computed and rounded once into D under RM; integers saturated) is written to D, and to C for VBSCL and VTOPK, whose slots
become PRESENT; VRMAX writes its index register; the flags are raised; consumed sources become empty; the beats are counted, and
the waits for scratchpad banks by a free value; other contexts, slots and memory stay. The transcendental functions and VLSEM pick
within the bounds of R258 by a free value (assumption log). (Rests on the model's choices of log entries 10, 11, 12, 102, 105.) -/
def Obligations.LaneInstructions : Prop :=
  LaneIssues .vadd 0x10 2 1 false (elementwise 2 fun rm a b _ => addV rm a b) ∧
  LaneIssues .vsub 0x11 2 1 false (elementwise 2 fun rm a b _ => addV rm a (negV b)) ∧
  LaneIssues .vmul 0x12 2 1 false (elementwise 2 fun _ a b _ => mulV a b) ∧
  LaneIssues .vfma 0x13 3 1 false (elementwise 3 fun rm a b c => fmaV rm a b c) ∧
  LaneIssues .vmax 0x14 2 1 false (elementwise 2 fun _ a b _ => (maxV a b, {})) ∧
  LaneIssues .vmin 0x15 2 1 false (elementwise 2 fun _ a b _ => (minV a b, {})) ∧
  LaneIssues .vabs 0x16 1 1 false (elementwise 1 fun _ a _ _ => (absV a, {})) ∧
  LaneIssues .vneg 0x17 1 1 false (elementwise 1 fun _ a _ _ => (negV a, {})) ∧
  LaneIssues .vcvt 0x18 1 1 false vcvt ∧
  LaneIssues .vmov 0x19 1 1 false vmov ∧
  LaneIssues .viadd 0x38 2 1 true (integerwise fun a b => a + b) ∧
  LaneIssues .vimul 0x39 2 1 true (integerwise fun a b => a * b) ∧
  LaneIssues .vrcp 0x20 1 1 false (transc 1 fun a _ => rcp32 a) ∧
  LaneIssues .vrsq 0x21 1 1 false (transc 1 fun a _ => rsq32 a) ∧
  LaneIssues .vexp2 0x22 1 1 false (transc 1 fun a _ => exp2w a) ∧
  LaneIssues .vlog2 0x23 1 1 false (transc 1 fun a _ => log2w a) ∧
  LaneIssues .vsig 0x24 1 1 false (transc 1 fun a _ => sigw a) ∧
  LaneIssues .vsilu 0x25 2 1 false (transc 2 siluw) ∧
  LaneIssues .vrope 0x28 2 1 false vrope ∧
  LaneIssues .vbscl 0x2C 1 2 false vbscl ∧
  LaneIssues .vrsum 0x30 1 1 false vrsum ∧
  LaneIssues .vdot 0x31 2 1 false vdot ∧
  LaneIssues .vrmax 0x32 1 1 false vrmax ∧
  LaneIssues .vscan 0x33 1 1 false vscan ∧
  LaneIssues .vrng 0x3C 0 1 false vrng ∧
  LaneIssues .vlsem 0x35 2 1 false vlsem ∧
  LaneIssues .vtopk 0x34 1 2 true vtopk (fun i => !(toTwos 13 i.imm).testBit 12) ∧
  LaneIssues .vtopk 0x34 2 2 true vtopk (fun i => (toTwos 13 i.imm).testBit 12)

/-- O11. Scalar and control instructions write one register of their context, or choose the next program counter, and nothing else
(R240, R247, R253, R255, R274).
Where it can fire and no halt or breakpoint stops it: SADD, SSUB, SAND, SOR, SXOR, SSHL, SSHR, SLI and SLUI write their
result, modulo 2^32, to the register D[3:0] names (x0 discards it) and go on; BR, BEQ, BNE and BLT go IMM on where their
condition holds, else one; SFLG reads the sticky flags, SFCLR clears those set in XA, NOP only goes on; HALT leaves the
context HALTED. No other context and no other state changes, but the record of the order in which contexts became ready.
Completion advances the program counter, swaps the copies that an ASWAP named, and faults where that leaves the program. (Rests on
the model's choices of log entries 12, 102, 103.) -/
def Obligations.ScalarInstructions : Prop :=
  ScalarIssues .sadd 0x50 (putsX fun a b _ _ => (a + b) % 2 ^ 32) ∧
  ScalarIssues .ssub 0x51 (putsX fun a b _ _ => (a + 2 ^ 32 - b) % 2 ^ 32) ∧
  ScalarIssues .sand 0x52 (putsX fun a b _ _ => a &&& b) ∧
  ScalarIssues .sor 0x53 (putsX fun a b _ _ => a ||| b) ∧
  ScalarIssues .sxor 0x54 (putsX fun a b _ _ => a ^^^ b) ∧
  ScalarIssues .sshl 0x55 (putsX fun a b _ _ => a * 2 ^ (b % 32) % 2 ^ 32) ∧
  ScalarIssues .sshr 0x56 (putsX fun a b _ _ => a / 2 ^ (b % 32)) ∧
  ScalarIssues .sli 0x57 (putsX fun _ _ i _ => (i.imm % 2 ^ 32).toNat) ∧
  ScalarIssues .slui 0x58 (putsX fun _ _ i d => (i.imm % 2 ^ 13).toNat * 2 ^ 19 + d % 2 ^ 19) ∧
  ScalarIssues .br 0x60 (jumps fun _ _ => true) ∧
  ScalarIssues .beq 0x61 (jumps fun a b => decide (a = b)) ∧
  ScalarIssues .bne 0x62 (jumps fun a b => decide (a ≠ b)) ∧
  ScalarIssues .blt 0x63 (jumps fun a b => decide (sxt 32 a < sxt 32 b)) ∧
  ScalarIssues .sflg 0x65 (fun c i => (setX (i.d % 16) c.flags c, (c.pc : Int) + 1)) ∧
  ScalarIssues .sfclr 0x66 (fun c i => ({ c with flags := c.flags &&& (15 - xreg c i.xa % 16) }, (c.pc : Int) + 1)) ∧
  ScalarIssues .nop 0x68 (fun c _ => (c, (c.pc : Int) + 1)) ∧
  (∀ (cl n : Nat) (s : Machine.State), undebugged s = true → canFire s 0x64 cl n = true →
    tget 0 s.poisonX (insWord cl (vctxOf s cl n).pc) ≠ 1 →
    Ends (.halt cl n) s fun t => t = { s with vctx := t.vctx, vready := t.vready } ∧
      vctxOf t cl n = { vctxOf s cl n with state := 4 } ∧
      ∀ k, k ≠ ctxKey cl n → tget {} t.vctx k = tget {} s.vctx k) ∧
  (∀ (cl n : Nat) (s : Machine.State), undebugged s = true → (vctxOf s cl n).state = 3 → tget [] s.vheld cl = [] →
    let c := vctxOf s cl n
    let i := insAt s cl n
    let k := adpKey c.im (xreg c i.xa)
    (c.next < c.base + c.len → Ends (.instructionComplete cl n) s fun t =>
      t = { s with vctx := t.vctx, vheld := t.vheld, vready := t.vready, adapters := t.adapters } ∧
      vctxOf t cl n = { c with state := 1, pc := c.next, resv := [] } ∧
      (∀ j, j ≠ ctxKey cl n → tget {} t.vctx j = tget {} s.vctx j) ∧
      (i.op ≠ 0x67 → t.adapters = s.adapters) ∧
      (i.op = 0x67 → tget {} t.adapters k = { tget {} s.adapters k with copy := 1 - (tget {} s.adapters k).copy } ∧
        ∀ j, j ≠ k → tget {} t.adapters j = tget {} s.adapters j)) ∧
    (c.base + c.len ≤ c.next → cl < 384 → Ends (.instructionComplete cl n) s fun t =>
      (vctxOf t cl n).state = 5 ∧ (vctxOf t cl n).fault = 0x0B ∧ Machine.rb t .VEC_STAT 0 cl = true ∧ Logged 0x0D 8 s t ∧
      SameMem s t))

/-- O12. Arrivals fill slots, and the transfer instructions fetch, store, send, read and write single elements, or name an adapter
(R242, R244, R246, R251, R255, R263, R264, R270, R477).
With no debug halt, on a unit that is up: an admissible arrival writes its elements and makes the slot PRESENT with the last
one; one whose slot is taken is held while fewer than 64 are; one that is wrong is refused and sets VEC_STAT[1]; the data of a
VFETCH whose tag matches ends it and fills its slot. VFETCH of an admissible range opens a request; VSTORE writes the elements of A
to its admissible range and nothing else; SEND and SENDM send A to every destination, those of kind 1 into a scratchpad; SGET reads
an element into a register, SPUT writes one; ASWAP of an adapter of the image issues. Each leaves its context ISSUED. An
acknowledgement ends the send its tag names; a refusal also faults the context with 0x08; a reply whose tag matches no open request
is dropped and counted. (Rests on the model's choices of log entries 12, 13, 23, 58, 102, 103, 105, 111.) -/
def Obligations.VectorTransfers : Prop :=
  (∀ (cl : Nat) (a : VArr) (s : Machine.State), undebugged s = true → unitUp s 3 cl = true → (∀ e r g f, a.src ≠ .fetch e r g f) →
    let i := (vctxOf s cl a.ctx).slotBase + a.slot
    let x := slotOf s cl i
    (badArrival s cl a = false → holds s cl a = false → (∀ k, k < a.vals.length → tget 0 x.written (a.off + k) = 0) →
      elemsRefused s (slotFmt x) (slotAddr cl x) a.off a.vals.length = false →
      Ends (.slotArrival cl a.ctx a.slot a.off a.fmt a.vals a.src) s fun t =>
        let w := markRun a.off a.vals.length x.written
        t = { s with mem := t.mem, poison := t.poison, lost := t.lost, vslots := t.vslots, vready := t.vready, regs := t.regs,
                     free := s.free + 1, sil := t.sil, out := t.out, fns := t.fns } ∧
        t.mem = (writeElems (slotFmt x) (slotAddr cl x) a.off a.vals s).mem ∧
        slotOf t cl i = (if x.len ≤ w.length then { x with present := true, written := [] } else { x with written := w }) ∧
        ∀ k, k ≠ slotKey cl i → tget {} t.vslots k = tget {} s.vslots k) ∧
    (badArrival s cl a = false → holds s cl a = true → (tget [] s.vheld cl).length < 64 →
      Ends (.slotArrival cl a.ctx a.slot a.off a.fmt a.vals a.src) s fun t =>
        t = { s with vheld := t.vheld, vready := t.vready } ∧ tget [] t.vheld cl = tget [] s.vheld cl ++ [{ a with pc := 0 }] ∧
        ∀ k, k ≠ cl → tget [] t.vheld k = tget [] s.vheld k) ∧
    (badArrival s cl a = true → cl < 384 →
      Ends (.slotArrival cl a.ctx a.slot a.off a.fmt a.vals a.src) s fun t =>
        SameMem s t ∧ t.vslots = s.vslots ∧ t.vctx = s.vctx ∧ Machine.rb t .VEC_STAT 1 cl = true ∧ Logged 0x0D 9 s t ∧
        Msg.fabric 3 cl tagRefuse [a.ctx, a.slot, 0x15] ∈ t.out)) ∧
  (∀ (cl n slot off fmt rq gen fgen : Nat) (vals : List Nat) (f : VReq) (s : Machine.State), undebugged s = true →
    tagOk s 3 cl (reqSlot n rq) gen fgen = true → fetchOf s cl n rq = some f →
    let c := vctxOf s cl n
    let r := fetched s cl n f
    let i := poolIdx c f.slot
    let x := slotOf s cl i
    let len := elemBytes (slotFmt x) x.len
    dieDown s (cl / 48) f.addr len = false → anyPoison s f.addr len = false → badArrival s cl r = false → holds s cl r = false →
    x.written = [] → elemsRefused s (slotFmt x) (slotAddr cl x) 0 x.len = false →
    Ends (.slotArrival cl n slot off fmt vals (.fetch false rq gen fgen)) s fun t =>
      t = { s with mem := t.mem, poison := t.poison, lost := t.lost, vslots := t.vslots, vctx := t.vctx, units := t.units,
                   vready := t.vready, regs := t.regs, free := t.free, sil := t.sil, out := t.out, fns := t.fns } ∧
      vctxOf t cl n = { c with fetches := c.fetches.filter (·.rq != rq), sends := c.sends.filter (·.rq != rq) } ∧
      (tget {} (unitOf t 3 cl).slots (reqSlot n rq)).busy = false ∧
      t.mem = (writeElems (slotFmt x) (slotAddr cl x) 0
        ((List.range x.len).map (elemAt (slotFmt x) fun k => rdByte s (f.addr + k))) s).mem ∧
      slotOf t cl i = { x with present := true, written := [] } ∧
      (∀ k, k ≠ slotKey cl i → tget {} t.vslots k = tget {} s.vslots k)) ∧
  (∀ (cl n : Nat) (s : Machine.State), undebugged s = true → tget [] s.vheld cl = [] →
    let c := vctxOf s cl n
    let i := insAt s cl n
    let d := slotOf s cl (poolIdx c i.d)
    let x := slotOf s cl (poolIdx c i.a)
    let at_ := xAddr c i
    tget 0 s.poisonX (insWord cl c.pc) ≠ 1 →
    (canFire s 0x40 cl n = true → slotDescBad s cl (poolIdx c i.d) = false → slotFmt d ≠ .e8m0 →
      judge s (.inPt (ptOfCl s cl)) at_ (elemBytes (slotFmt d) d.len) = none →
      Ends (.vfetch cl n) s fun t => t = { s with vctx := t.vctx, units := t.units, vready := t.vready } ∧
        vctxOf t cl n = { c with state := 3, next := c.pc + 1, resv := [],
                                 fetches := c.fetches ++ [{ rq := freeRq c, pc := c.pc, slot := i.d, addr := at_ }] } ∧
        (tget {} (unitOf t 3 cl).slots (reqSlot n (freeRq c))).busy = true) ∧
    (canFire s 0x41 cl n = true → slotPoisoned s cl c i.a = false → slotFmt x ≠ .e8m0 →
      let bytes := packElems (slotFmt x) (readSlot s cl x)
      judge s (.inPt (ptOfCl s cl)) at_ bytes.length = none → firstDown s at_ bytes.length = none →
      wayClosed s (cl / 48) (placeOf at_) = false → xchCtx s (ptOfCl s cl) at_ = none → anyPoison s at_ bytes.length = false →
      (∀ e ∈ s.jobs, e.2.wantFence = false) →
      Ends (.vstore cl n) s fun t =>
        t = { s with vctx := t.vctx, vslots := t.vslots, vheld := t.vheld, vready := t.vready, mem := t.mem, poison := t.poison,
                     lost := t.lost, units := t.units, regs := t.regs, free := t.free, sil := t.sil, out := t.out, fns := t.fns } ∧
        vctxOf t cl n = { c with state := 3, next := c.pc + 1, resv := [],
                                 sends := c.sends ++ [{ rq := freeRq c, pc := c.pc, addr := at_ }] } ∧
        (tget {} (unitOf t 3 cl).slots (reqSlot n (freeRq c))).busy = true ∧
        rdBytes t at_ bytes.length = bytes ∧ SameMemBut at_ bytes.length s t) ∧
    (∀ multi : Bool,
      let w := if multi then (opndOf s cl c i.c).vals.take 8 else [xreg c i.xa]
      canFire s (if multi then 0x43 else 0x42) cl n = true → slotPoisoned s cl c i.a = false →
      (multi = true → slotPoisoned s cl c i.c = false ∧ (opndOf s cl c i.c).fmt = .int32) → w.all (destOk s cl) = true →
      (∀ v ∈ w, let a := bitsOf v 31 13 * 8
        let b := a + xreg c i.xb * (slotFmt x).width / 8
        copyStatus s cl v b (a + ((xreg c i.xb + x.len) * (slotFmt x).width + 7) / 8 - b) = 0) →
      Ends (if multi then .sendm cl n else .send cl n) s fun t =>
        t = { s with vctx := t.vctx, vslots := t.vslots, vheld := t.vheld, vready := t.vready, mem := t.mem, poison := t.poison,
                     lost := t.lost, units := t.units, regs := t.regs, free := t.free, sil := t.sil, out := t.out, fns := t.fns } ∧
        vctxOf t cl n = { c with state := 3, next := c.pc + 1, resv := [], sends := (vctxOf t cl n).sends } ∧
        (∃ l : List VReq, (vctxOf t cl n).sends = c.sends ++ l ∧
          l.map (fun r => (r.pc, r.addr)) = w.map fun v => (c.pc, scratchBase (bitsOf v 12 4))) ∧
        (∀ v ∈ w, Msg.fabric 3 cl tagSend
          ([n, v % 16, bitsOf v 12 4] ++ addrParts v ++ [xreg c i.xb] ++ (opndOf s cl c i.a).vals) ∈ t.out) ∧
        ((∀ v ∈ w, v % 16 ≠ 1) → SameMem s t) ∧
        (∀ v, w = [v] → v % 16 = 1 →
          t.mem = (writeElems (slotFmt x) (scratchBase (bitsOf v 12 4) + bitsOf v 31 13 * 8) (xreg c i.xb)
            (readSlot s cl x) s).mem)) ∧
    (canFire s 0x44 cl n = true → slotPoisoned s cl c i.a = false → slotFmt x ≠ .e8m0 → xreg c i.xb < x.len →
      Ends (.sget cl n) s fun t =>
        t = { s with vctx := t.vctx, vslots := t.vslots, vheld := t.vheld, vready := t.vready, regs := t.regs, free := s.free + 1,
                     sil := t.sil, out := t.out, fns := t.fns } ∧
        vctxOf t cl n = setX (i.d % 16) ((readSlot s cl x).getD (xreg c i.xb) 0)
          { c with state := 3, next := c.pc + 1, resv := [] }) ∧
    (canFire s 0x45 cl n = true → slotDescBad s cl (poolIdx c i.d) = false → destConflict s cl c i.d = false →
      slotFmt d ≠ .e8m0 → xreg c i.xb < d.len → elemsRefused s (slotFmt d) (slotAddr cl d) (xreg c i.xb) 1 = false →
      Ends (.sput cl n) s fun t =>
        t = { s with vctx := t.vctx, vready := t.vready, mem := t.mem, poison := t.poison, lost := t.lost, regs := t.regs,
                     free := s.free + 1, sil := t.sil, out := t.out, fns := t.fns } ∧
        vctxOf t cl n = { c with state := 3, next := c.pc + 1, resv := [poolIdx c i.d] } ∧
        t.mem = (writeElem (slotFmt d) (slotAddr cl d) (xreg c i.xb) (xreg c i.xa % 2 ^ (slotFmt d).width) s).mem) ∧
    (canFire s 0x67 cl n = true → (∃ a ∈ (imgOf s c.im).adapters, a.index = xreg c i.xa) →
      Ends (.aswap cl n) s fun t => t = { s with vctx := t.vctx, vready := t.vready } ∧
        vctxOf t cl n = { c with state := 3, next := c.pc + 1, resv := [] })) ∧
  (∀ (cl n rq gen fgen : Nat) (s : Machine.State),
    let c := vctxOf s cl n
    let late := fun t : Machine.State => t.vctx = s.vctx ∧ t.vslots = s.vslots ∧ t.units = s.units ∧ SameMem s t ∧
      Machine.rb t .RST_STAT 6 = true ∧ (rd t .RST_LATE_DROP_CNT).toNat = ((rd s .RST_LATE_DROP_CNT).toNat + 1) % 2 ^ 32 ∧
      Logged 3 0xA s t
    (tagOk s 3 cl (reqSlot n rq) gen fgen = true → (sendOf s cl n rq).isSome = true →
      Ends (.sendAcknowledge cl n rq gen fgen) s fun t => t = { s with vctx := t.vctx, units := t.units, vready := t.vready } ∧
        vctxOf t cl n = { c with fetches := c.fetches.filter (·.rq != rq), sends := c.sends.filter (·.rq != rq) } ∧
        (tget {} (unitOf t 3 cl).slots (reqSlot n rq)).busy = false ∧
        ∀ k, k ≠ ctxKey cl n → tget {} t.vctx k = tget {} s.vctx k) ∧
    (tagOk s 3 cl (reqSlot n rq) gen fgen = true → (sendOf s cl n rq).isSome = true → cl < 384 → c.state ≠ 0 →
      Ends (.sendRefusal cl n rq gen fgen) s fun t => (vctxOf t cl n).state = 5 ∧ (vctxOf t cl n).fault = 0x08 ∧
        (vctxOf t cl n).sends = c.sends.filter (·.rq != rq) ∧ Machine.rb t .VEC_STAT 2 cl = true ∧
        Machine.rb t .VEC_STAT 0 cl = true ∧ Logged 0x0D 8 s t ∧ SameMem s t ∧ t.vslots = s.vslots) ∧
    (tagOk s 3 cl (reqSlot n rq) gen fgen = false →
      Ends (.sendAcknowledge cl n rq gen fgen) s late ∧ Ends (.sendRefusal cl n rq gen fgen) s late ∧
      ∀ (slot off fmt : Nat) (vals : List Nat) (err : Bool), undebugged s = true →
        Ends (.slotArrival cl n slot off fmt vals (.fetch err rq gen fgen)) s late))

/-- O13. A program operation starts when its page is durable, writes row after row, checks each, and closes with a calibration
(R155, R156, R157, R158, R160, R161, R171, R183, R185, R224, R229).
An operation whose turn has come, with its start page durable, both references in their windows, its load not told to stop and
its tile free, starts, uses up its page, and asks its tile for the first row step. A row step with VPROG in its window and a free
token gives the 2,048 cells of its row the level of the code on the weight side and on the other the trim level nearest to the
weight side's residual from its target at the present temperature, and changes no other cell; a repeat and a read-back change
none; outside the window a refresh ends with CAL_STAT[17] and its tile-layer due again. A row step whose cells lie within 0.15
count of their targets (0.20 on the repeat) goes to the next row, or to the closing calibration after row 1,023; one beyond 0.15
is repeated on the failing cells; one beyond 0.20 on the repeat fails. A read-back step keeps its row; a read-back that agrees is
retained. The closing calibration of a refresh ramps new values in and dates the wear record; that of a load makes the
tile-layer VALID at once. (Rests on the model's choices of log entries 32, 33, 35, 85, 87, 100.) -/
def Obligations.ProgrammingEvents : Prop :=
  (∀ (tile layer : Nat) (o : ProgOp) (s : Machine.State), layer < 4 → progOf s (tlKey tile layer) = some o → o.st = 0 →
    firstWaiting s (tlKey tile layer) o.order = true → (∀ e ∈ s.progs, e.1 / 4 = tile → e.2.st = 0) →
    progsIn s (tile / 1536) < rf s .CAL_PROG 8 0 → (o.kind = 1 → refreshFull s (bayOfTile tile) = false) → pageReady s (tlKey tile layer) o.kind = true → refOk s = true →
    fenced s 0 tile = false → inReset s 0 tile = false → anaOn s (tile / 1536) = true → opStopped s o = false →
    let req : PassReq := { kind := 2, layer := layer, row := o.row, vec := o.order }
    let x := tileOf s tile
    Ends (.programOperationStart tile layer) s fun t =>
      t = { s with sil := { s.sil with pageDone := s.sil.pageDone.erase (tlKey tile layer) }, progs := t.progs, tiles := t.tiles,
                   pools := t.pools } ∧ (∀ d, (poolOf t d).inUse = (poolOf s d).inUse) ∧
      progOf t (tlKey tile layer) = some { o with st := 1 } ∧ (∀ k, k ≠ tlKey tile layer → progOf t k = progOf s k) ∧
      tileOf t tile = (if x.pending = none ∧ x.held = [] then { x with pending := some req } else { x with held := x.held ++ [req] }) ∧
      ∀ u, u ≠ tile → tileOf t u = tileOf s u) ∧
  (∀ (tile layer vprog : Nat) (gs : List ℚ) (o : ProgOp) (s : Machine.State), layer < 4 →
    progOf s (tlKey tile layer) = some o → o.st = 1 → gs.length = 2048 → opStopped s o = false → rowStartable s tile layer = true →
    (tileOf s tile).token = false → (tileOf s tile).held = [] → tokenFor s tile = true →
    let base := tlKey tile layer * 2 ^ 21 + o.row * 2 ^ 11
    let takes := fun (t : Machine.State) =>
      tileOf t tile = { tileOf s tile with pending := none, token := true,
                                           running := some { req := { kind := 2, layer := layer, row := o.row, vec := o.order } } } ∧
      (∀ u, u ≠ tile → tileOf t u = tileOf s u) ∧
      (poolOf t (tile / 1536)).inUse = (poolOf s (tile / 1536)).inUse + 1
    (∀ x : Shadow, o.kind ≠ 2 → 2375 ≤ vprog → vprog ≤ 2625 → shadowOf s o.src = some x →
      anyPoison s (x.addr + o.row * 512) 512 = false → (o.kind = 0 ∨ x.state = 0) →
      (o.failing = [] → Ends (.programRowStep tile layer vprog gs) s fun t =>
        t = { s with cells := t.cells, tiles := t.tiles, pools := t.pools } ∧ takes t ∧
        (∀ j, j < 1024 →
          let w := weightSide x.fp4 (shadowCode s x o.row j)
          let at_ := base + 2 * j + b2n w.2
          tget 0 t.cells at_ = w.1 ∧
          tget 0 t.cells (2 * (base + 2 * j) + 1 - at_) =
            trimLevel (gs.getD (2 * j + b2n w.2) 0 - 2 - targetOf s (tlKey tile layer / 1024) x.fp4 w.1)) ∧
        ∀ k, (k < base ∨ base + 2048 ≤ k) → tget 0 t.cells k = tget 0 s.cells k) ∧
      (o.failing ≠ [] → Ends (.programRowStep tile layer vprog gs) s fun t =>
        t = { s with tiles := t.tiles, pools := t.pools } ∧ takes t)) ∧
    (o.kind = 2 → Ends (.programRowStep tile layer vprog gs) s fun t =>
      t = { s with tiles := t.tiles, pools := t.pools } ∧ takes t) ∧
    (vprog < 2375 ∨ 2625 < vprog → o.kind = 1 → (tileOf s tile).aside = [] → Ends (.programRowStep tile layer vprog gs) s fun t =>
      t.cells = s.cells ∧ SameMem s t ∧ Machine.rb t .CAL_STAT 17 = true ∧ progOf t (tlKey tile layer) = none ∧
      (tlOf t tile layer).due = true)) ∧
  (∀ (tile layer : Nat) (gs : List ℚ) (o : ProgOp) (r : PassRun) (s : Machine.State), layer < 4 →
    progOf s (tlKey tile layer) = some o → o.st = 1 → o.stop = false → opStopped s o = false → gs.length = 2048 →
    (tileOf s tile).running = some r → r.req.kind = 2 → r.req.layer = layer → r.req.vec = o.order →
    (tileOf s tile).pending = none → (tileOf s tile).held = [] → (tileOf s tile).token = true →
    fenced s 0 tile = false → inReset s 0 tile = false →
    let tl := tlKey tile layer
    let fp4 := ((shadowOf s o.src).getD {}).fp4
    let out := fun (w : ℚ) => (List.range 2048).filter fun c =>
      decide (w < |gs.getD c 0 - 2 - targetOf s (tl / 1024) fp4 (tget 0 s.cells (tl * 2 ^ 21 + o.row * 2 ^ 11 + c))|)
    let freed := fun (t : Machine.State) => (poolOf t (tile / 1536)).inUse = (poolOf s (tile / 1536)).inUse - 1
    let asks := fun (row : Nat) (t : Machine.State) =>
      t = { s with progs := t.progs, tiles := t.tiles, pools := t.pools } ∧ freed t ∧
      tileOf t tile = { tileOf s tile with running := none, token := false,
                                           pending := some { kind := 2, layer := layer, row := row, vec := o.order } } ∧
      ∀ u, u ≠ tile → tileOf t u = tileOf s u
    (o.kind ≠ 2 → o.failing = [] → out (15 / 100) ≠ [] → Ends (.programRowStepEnd tile layer gs) s fun t =>
      asks o.row t ∧ progOf t tl = some { o with failing := out (15 / 100) }) ∧
    (o.kind ≠ 2 → (o.failing = [] → out (15 / 100) = []) → out (1 / 5) = [] →
      (o.row < 1023 → Ends (.programRowStepEnd tile layer gs) s fun t =>
        asks (o.row + 1) t ∧ progOf t tl = some { o with row := o.row + 1, failing := [] }) ∧
      (o.row = 1023 → (o.kind = 1 ∨ o.kind = 3) → Ends (.programRowStepEnd tile layer gs) s fun t =>
        t = { s with progs := t.progs, tiles := t.tiles, pools := t.pools, probes := t.probes } ∧ freed t ∧
        progOf t tl = some { o with st := 2, failing := [] } ∧
        tileOf t tile = { tileOf s tile with running := none, token := false })) ∧
    (o.kind = 1 → o.failing ≠ [] → out (1 / 5) ≠ [] → (tileOf s tile).aside = [] →
      Ends (.programRowStepEnd tile layer gs) s fun t =>
        progOf t tl = none ∧ Machine.rb t .CAL_STAT 18 = true ∧ tget 0 t.sil.fails tl = tget 0 s.sil.fails tl + 1 ∧
        (tlOf t tile layer).due = true ∧ freed t ∧ t.cells = s.cells ∧ SameMem s t) ∧
    (o.kind = 2 → o.row < 1023 → Ends (.programRowStepEnd tile layer gs) s fun t =>
      asks (o.row + 1) t ∧ progOf t tl = some { o with row := o.row + 1, failing := [], reads := gs :: o.reads })) ∧
  (∀ (tile layer : Nat) (scale : ℚ) (o : ProgOp) (l : Load) (p : PlaceE) (x : Shadow) (s : Machine.State),
    let tl := tlKey tile layer
    let i := imgOf s l.im
    let codes := rebuiltCodes (placeFp4 i p) o scale
    progOf s tl = some o → o.kind = 2 → o.st = 1 → o.reads.length = 1024 → 0 < scale → opStopped s o = false →
    loadOf s o.ctx = some l → i.places.find? (fun p => tlKey p.tile p.layer == tl) = some p →
    shadowOf s tl = some x → pairsNear (placeFp4 i p) o scale = true →
    canonDigest (placeFp4 i p) (recOf i p).rows (recOf i p).cols codes = (recOf i p).digest →
    Ends (.readBackDone tile layer scale) s fun t =>
      progOf t tl = some { o with st := 2, reads := [] } ∧
      (∃ y, shadowOf t tl = some y ∧ y.state = 0 ∧ y.addr = x.addr ∧ y.sums = x.sums) ∧
      (∃ m, loadOf t o.ctx = some m ∧ m.retained = l.retained + 1 ∧ tget 0 m.todo tl = 3) ∧
      (∀ b, (b < x.addr ∨ x.addr + 0x80000 ≤ b) → (b < x.sums ∨ x.sums + 0x4010 ≤ b) → rdByte t b = rdByte s b) ∧
      t.tiles = s.tiles ∧ t.cells = s.cells) ∧
  (∀ (tile layer : Nat) (o : ProgOp) (s : Machine.State), tile < 12288 → layer < 4 → progOf s (tlKey tile layer) = some o →
    o.st = 2 → fenced s 0 tile = false → (tileOf s tile).aside = [] → (tileOf s tile).held = [] →
    let w := cfgOf s (tlKey tile layer)
    measurable s (tlKey tile layer) w = true → groupsDone s (tlKey tile layer) w = true →
    (o.kind = 1 → Ends (.closingCalibrationDone tile layer) s fun t =>
        progOf t (tlKey tile layer) = none ∧ (tlOf t tile layer).rampN = 0 ∧
        (tlOf t tile layer).rampT = (if w.toNat.testBit 4 then 0 else 256) ∧
        (tlOf t tile layer).old = presentCal (tlOf s tile layer) ∧ (tlOf t tile layer).calAt = utcNow s ∧
        (kappaFar t (tlKey tile layer) = true → (tlOf t tile layer).due = true) ∧
        (Machine.rb s .CAL_STAT 22 = false →
          (tlOf t tile layer).due = (kappaFar t (tlKey tile layer) || Machine.rb t .CAL_STAT 22)) ∧
        (wearOf t (tlKey tile layer)).utc = utcNow s ∧
        (wearOf t (tlKey tile layer)).count = (wearOf s (tlKey tile layer)).count ∧ (∀ u, tileOf t u = tileOf s u) ∧
        t.cells = s.cells ∧ SameMem s t) ∧
    (∀ (l : Load) (p : PlaceE), o.kind = 0 → loadOf s o.ctx = some l →
      (imgOf s l.im).places.find? (fun p => tlKey p.tile p.layer == tlKey tile layer) = some p →
      (∃ k ∈ imgTls (imgOf s l.im), k ≠ tlKey tile layer ∧ tget 0 l.todo k ≠ 4) →
      Ends (.closingCalibrationDone tile layer) s fun t =>
        progOf t (tlKey tile layer) = none ∧ tlValid t tile layer = true ∧
        fld (lcfg t tile layer) 10 8 = p.range % 8 ∧ (tlOf t tile layer).rampN = 256 ∧
        (tlOf t tile layer).calAt = utcNow s ∧ (wearOf t (tlKey tile layer)).utc = utcNow s ∧
        (wearOf t (tlKey tile layer)).digest = (recOf (imgOf s l.im) p).digest ∧
        (∃ m, loadOf t o.ctx = some m ∧ m.programmed = l.programmed + 1 ∧ tget 0 m.todo (tlKey tile layer) = 4) ∧
        (∀ u, tileOf t u = tileOf s u) ∧ t.cells = s.cells ∧ SameMem s t))

/-- O14. Probes are summed, references watched, triggers queue a bay, and a soak starts, repeats or is accepted (R87, R95, R115,
R163, R165, R167, R171, R172, R174, R175, R176, R178).
A probe pass that a calibration asks for and that finds a token switches its layer in, adds its 1,024 codes, each the rounded
conversion clamped to −256..255, to the sums of its kind and changes nothing else but its tile, whose trim is loaded and locked
before its bisque calibration. A bisque calibration makes every measured tile of its bay CAL_VALID, with its trim locked, and
BISQUE_DONE follows CAL_VALID of the enabled tiles. A reference trace opens or closes CAL_STAT[0] by the windows of R165, and a
departure sets CAL_STAT[16]. The drift check marks tile-layers of refresh age, and queues an idle bay whose drift has reached
DRIFT_TRIG. The first bay of its die's queue starts its soak with the trace of its source. A soak with all its probes whose end
lies within 1.0 °C of its start is accepted and counted; another repeats, up to its third attempt, which is accepted as
unstable. A UTC write asks the flash for the state store. (Rests on the model's choices of log entries 32, 33, 34, 74, 87.) -/
def Obligations.CalibrationEvents : Prop :=
  (∀ (tile layer kind range k neg key n : Nat) (convs : List Conv) (s : Machine.State), tile < 12288 →
    let x := tileOf s tile
    let q := tget {} s.probes key
    probeFor s tile layer kind range k neg = some (key, n) → q.n < n → convs.length = 1024 →
    (∀ c ∈ convs, 4 / 5 ≤ c.γ ∧ c.γ ≤ 5 / 4 ∧ -16 ≤ c.off ∧ c.off ≤ 16) →
    (Machine.rb s .TILE_CFG 8 tile = false → refOk s = true) →
    (fenced s 0 tile = false ∧ inReset s 0 tile = false ∨ selfTest s (bayOfTile tile) = true) → anaOn s (tile / 1536) = true →
    halted s (bayOfTile tile) = false → x.running = none → x.last = none → x.token = false → x.settled = true →
    (x.pending ≠ none → 8 ≤ x.sinceProbe) → tokenFor s tile = true →
    Ends (.probePass tile layer kind range k neg convs) s fun t =>
      t = { s with tiles := t.tiles, probes := t.probes, regs := t.regs } ∧
      tileOf t tile = { x with active := layer, sinceProbe := 0 } ∧ (∀ u, u ≠ tile → tileOf t u = tileOf s u) ∧
      tget {} t.probes key = { n := q.n + 1, sums := convs.mapIdx fun j c => q.sums.getD j 0 + max (-256) (min 255
        (((probeProduct8 s (tlKey tile layer) kind range k neg j : ℚ) / 8 + c.err) / ((2 ^ (8 - range) : ℕ) * c.γ) +
          c.off + 1 / 2).floor) } ∧
      (∀ j, j ≠ key → tget {} t.probes j = tget {} s.probes j) ∧ SameRegs [(.TILE_CFG, tile), (.TILE_TRIM, tile)] s t ∧
      (Machine.rb s .TILE_CFG 8 tile = true → t.regs = s.regs) ∧
      (Machine.rb s .TILE_CFG 8 tile = false → Machine.rb t .TILE_CFG 31 tile = true ∧
        (Machine.rb s .TILE_CFG 31 tile = false → rd t .TILE_TRIM tile = resetOf .TILE_TRIM tile))) ∧
  (∀ (bay : Nat) (ppm : Int) (s : Machine.State), bay < 48 → refOk s = true →
    (bayFenced s bay = false ∨ selfTest s bay = true) →
    (∃ n, n < 12288 ∧ n / 256 = bay ∧ Machine.rb s .TILE_CFG 8 n = false ∧ bisqueDone s n = true) →
    Ends (.bisqueCalibration bay ppm) s fun t =>
      t = { s with regs := t.regs, tlayers := t.tlayers, cal := t.cal, probes := t.probes, sil := t.sil, out := t.out,
                   fns := t.fns } ∧
      calOf t bay = { calOf s bay with tcal := bayTemp s bay, mirrorAt := tget 0 s.mirrors (bay / 6), source := ppm } ∧
      (∀ n, n < 12288 → Machine.rb t .TILE_CFG 8 n = (Machine.rb s .TILE_CFG 8 n || (decide (n / 256 = bay) && bisqueDone s n)) ∧
        (Machine.rb s .TILE_CFG 8 n = false → Machine.rb t .TILE_CFG 8 n = true → Machine.rb t .TILE_CFG 31 n = true ∧
          ∀ l, l < 4 → (tlOf t n l).old = [] ∧ (tlOf t n l).rampN = 256 ∧ (tlOf t n l).rampT = 256)) ∧
      (Machine.rb t .CAL_STAT 1 = true ↔ ∀ n, n < 12288 → dieOn s (n / 1536) = true → Machine.rb t .TILE_CFG 8 n = true)) ∧
  (∀ (refv refr : Nat) (ppm : List Int) (s : Machine.State),
    let usable := Machine.rb s .CLK_GATE 2 && Machine.rb s .MADC_DATA 18 && !Machine.rb s .MADC_DATA 14 && !Machine.rb s .MADC_DATA 15
    let inside := 1225000 ≤ refv ∧ refv ≤ 1275000 ∧ 9800000 ≤ refr ∧ refr ≤ 10200000
    let still := ∀ bay, bay < 48 → (ppm.getD (bay / 6) 0 - (calOf s bay).mirrorAt).natAbs ≤ 200
    (usable = false → Ends (.referenceTrace refv refr ppm) s fun t => t = { s with regs := t.regs } ∧ refOk t = false ∧
      SameRegs [(.CAL_STAT, 0)] s t) ∧
    (usable = true → inside → still → Ends (.referenceTrace refv refr ppm) s fun t =>
      t = { s with regs := t.regs, mirrors := t.mirrors } ∧ refOk t = true ∧
      (∀ d, d < 8 → tget 0 t.mirrors d = ppm.getD d 0) ∧ SameRegs [(.CAL_STAT, 0)] s t) ∧
    (usable = true → ¬ inside → still → refOk s = true → Ends (.referenceTrace refv refr ppm) s fun t =>
      refOk t = false ∧ Machine.rb t .CAL_STAT 16 = true ∧ Logged 4 3 s t ∧ t.cal = s.cal ∧ t.soakQ = s.soakQ ∧
      t.tiles = s.tiles)) ∧
  (∀ s : Machine.State, Ends .driftTriggerCheck s fun t =>
    t = { s with tlayers := t.tlayers, cal := t.cal, soakQ := t.soakQ } ∧
    ∀ bay, bay < 48 → digOn s (bay / 6) = true →
      (∀ tl ∈ validTls s bay, rf s .CAL_PROG 25 16 * 86400 ≤ utcNow s - (wearOf s tl).utc →
        (tlOf t (tl / 4) (tl % 4)).due = true) ∧
      ((∃ tl ∈ validTls s bay, driftHit s tl = true) → driftSpaced s bay = true → Machine.rb s .CAL_CTRL 0 = true →
        ((calOf s bay).st = 0 ∨ (calOf s bay).st = 3) →
        bay ∈ t.soakQ ∧ (calOf t bay).st = 1 ∧ (calOf t bay).lastDrift = some s.now)) ∧
  (∀ (bay : Nat) (ppm : Int) (s : Machine.State), (calOf s bay).st = 1 → firstInQueue s bay = true →
    soaksOf s (bay / 6) < rf s .CAL_SCHED 17 16 → refOk s = true → halted s bay = false → silUp s = true → refreshList s bay = [] →
    Ends (.soakStart bay ppm) s fun t =>
      t = { s with soakQ := s.soakQ.erase bay, cal := t.cal, probes := t.probes } ∧
      calOf t bay = { calOf s bay with st := 2, startT := bayTemp s bay, source := ppm } ∧
      (∀ b, b ≠ bay → calOf t b = calOf s b) ∧
      (∀ tile c, tile / 256 = bay → Machine.rb s .TILE_CFG 8 tile = true → c < 64 → tget {} t.probes (runKey tile 4 c) = {}) ∧
      ∀ tile layer c, tile / 256 ≠ bay → layer < 8 → c < 128 →
        tget {} t.probes (probeKey tile layer c) = tget {} s.probes (probeKey tile layer c)) ∧
  (∀ (bay : Nat) (s : Machine.State), bay < 48 → ((calOf s bay).st = 2 ∨ (calOf s bay).st = 4) → refreshing s bay = false →
    bayFenced s bay = false → soakDone s bay = true → (∀ f ∈ s.findings, f.unit / 1024 = bay → findingWants s f.unit = false) →
    let ended : BayCal := { calOf s bay with
      st := 3, tcal := ((calOf s bay).startT + bayTemp s bay) / 2, tries := 0, pending := false, wantRefresh := false,
      lastSoak := some s.now, mirrorAt := tget 0 s.mirrors (bay / 6) }
    let accepted := fun (t : Machine.State) =>
      calOf t bay = ended ∧ rf t .CAL_BAY_CNT 15 0 bay = (rf s .CAL_BAY_CNT 15 0 bay + 1) % 65536 ∧
      (∀ tl ∈ soakTls s bay, measurable s tl (rd s .TILE_LCFG tl) = true →
        let y := tlOf t (tl / 4) (tl % 4)
        y.rampN = 0 ∧ y.rampT = (if Machine.rb s .TILE_LCFG 4 tl then 0 else 256) ∧ y.calAt = utcNow s ∧
        y.old = presentCal (tlOf s (tl / 4) (tl % 4))) ∧
      t.tiles = s.tiles ∧ SameMem s t ∧ t.cmds = s.cmds
    ((bayTemp s bay - (calOf s bay).startT).natAbs ≤ 64 → (∀ e ∈ s.cmds, e.2.op ≠ 5) →
      Ends (.soakEnd bay) s fun t => accepted t ∧ Logged 4 1 s t ∧
        rf t .CAL_BAY_CNT 31 16 bay = rf s .CAL_BAY_CNT 31 16 bay) ∧
    (64 < (bayTemp s bay - (calOf s bay).startT).natAbs → 2 ≤ (calOf s bay).tries → (∀ e ∈ s.cmds, e.2.op ≠ 5) →
      Ends (.soakEnd bay) s fun t => accepted t ∧ Machine.rb t .CAL_STAT 19 = true ∧ Logged 4 2 s t ∧
        rf t .CAL_BAY_CNT 31 16 bay = (rf s .CAL_BAY_CNT 31 16 bay + 1) % 65536) ∧
    (64 < (bayTemp s bay - (calOf s bay).startT).natAbs → (calOf s bay).tries < 2 →
      Ends (.soakEnd bay) s fun t =>
        t = { s with regs := t.regs, cal := t.cal, probes := t.probes } ∧
        calOf t bay = { calOf s bay with tries := (calOf s bay).tries + 1, startT := bayTemp s bay, st := 2 } ∧
        rf t .CAL_BAY_CNT 31 16 bay = (rf s .CAL_BAY_CNT 31 16 bay + 1) % 65536 ∧ SameRegs [(.CAL_BAY_CNT, bay)] s t)) ∧
  (∀ s : Machine.State, silUp s = true → Ends .utcFlashWrite s fun t =>
    t = { s with sil := t.sil } ∧ FlashJob.stateStore ∈ t.sil.flashQ ∧ t.sil.log = s.sil.log ∧ t.sil.wear = s.sil.wear)

/-- O15. Doorbells move a queue's indices, enabling checks its configuration, and a fetched command is accepted or refused (R346,
R347, R348, R349, R351, R354, R356, R357, R385).
On an active queue SQ_TAIL and RQ_HEAD below the depth set the tail and count down the unread records; at or above it the
queue enters ERROR with DOORBELL_ERR. Enabling an IDLE queue within its limits makes it ACTIVE, any other attempt sets
CFG_ERR; disabling an enabled queue, or one in ERROR, makes it IDLE, or DRAINING while it has commands in flight. A command is read
at the head of its ring; one that passes the acceptance checks is held under a handle, in acceptance order; one that fails them
leaves no command and is logged; each gets an acceptance record. A read that fails puts the queue into ERROR. Nothing else changes but what each clause names. (Rests on the model's choices of
log entries 6, 16, 48.) -/
def Obligations.QueueEvents : Prop :=
  (∀ (fn q v : Nat) (s : Machine.State), fn < 32 → q < 64 →
    let k := qkOf fn q
    let x := queueOf s k
    x.st ≠ 0 →
    (v < sqDepth s k → Ends (.sqTail fn q v) s fun t => t = { s with queues := t.queues } ∧
      queueOf t k = { x with tail := v } ∧ ∀ j, j ≠ k → queueOf t j = queueOf s j) ∧
    (v < rqDepth s k → Ends (.rqHead fn q v) s fun t => t = { s with queues := t.queues } ∧
      queueOf t k = { x with unread := min x.unread ((x.recs + rqDepth s k - v) % rqDepth s k) } ∧
      ∀ j, j ≠ k → queueOf t j = queueOf s j) ∧
    (sqDepth s k ≤ v → Ends (.sqTail fn q v) s fun t => queueOf t k = { x with st := 3 } ∧
      (∀ j, j ≠ k → queueOf t j = queueOf s j) ∧ Machine.rb t .QM_STAT 2 fn = true ∧ rf t .QM_STAT 13 8 fn = q ∧
      Logged 9 3 s t ∧ t.cmds = s.cmds) ∧
    (rqDepth s k ≤ v → Ends (.rqHead fn q v) s fun t => queueOf t k = { x with st := 3 } ∧
      (∀ j, j ≠ k → queueOf t j = queueOf s j) ∧ Machine.rb t .QM_STAT 2 fn = true ∧ rf t .QM_STAT 13 8 fn = q ∧
      Logged 9 3 s t ∧ t.cmds = s.cmds)) ∧
  (∀ (fn q : Nat) (s : Machine.State), fn < 32 → q < 64 →
    let k := qkOf fn q
    (Machine.rb s .QM_Q_CFG 0 k = false → (queueOf s k).st = 0 → queueCfgOk (rd s .QM_Q_CFG k) = true →
      Ends (.queueEnable fn q) s fun t => t = { s with queues := t.queues, regs := t.regs } ∧ queueOf t k = { st := 1 } ∧
        (∀ j, j ≠ k → queueOf t j = queueOf s j) ∧ Machine.rb t .QM_Q_CFG 0 k = true ∧
        rf t .QM_Q_CFG 31 1 k = rf s .QM_Q_CFG 31 1 k ∧ SameRegs [(.QM_Q_CFG, k)] s t) ∧
    (Machine.rb s .QM_Q_CFG 0 k = false → ((queueOf s k).st ≠ 0 ∨ queueCfgOk (rd s .QM_Q_CFG k) = false) →
      Ends (.queueEnable fn q) s fun t => t.queues = s.queues ∧ Machine.rb t .QM_STAT 3 fn = true ∧
        Machine.rb t .QM_Q_CFG 0 k = false ∧ Logged 9 4 s t ∧ t.cmds = s.cmds) ∧
    ((Machine.rb s .QM_Q_CFG 0 k = true ∨ (queueOf s k).st = 3) → Ends (.queueDisable fn q) s fun t =>
      t = { s with queues := t.queues, regs := t.regs } ∧ Machine.rb t .QM_Q_CFG 0 k = false ∧
      (queueOf t k).st = (if s.cmds.any fun e => qkOf e.2.fn e.2.q == k then 2 else 0) ∧
      (∀ j, j ≠ k → queueOf t j = queueOf s j) ∧ SameRegs [(.QM_Q_CFG, k)] s t)) ∧
  (∀ (k n : Nat) (raw : List Byte) (s : Machine.State), nextQueue s = some (k, n) → k < 2048 →
    let x := queueOf s k
    let st := acceptStatus s (k / 64) raw
    let h := (takeSlot s).1
    let up := x.recErr = false ∧ (fnOf s (k / 64)).inFlr = false ∧ s.pcie.linkUp = true
    let read := Msg.hostRead (k / 64) (sqBase s k + 64 * x.head) 64
    (st.1 = 0 → Ends (.commandFetch true raw) s fun t =>
      cmdOf t h = some { gen := tget 1 s.slotGen h, fn := k / 64, q := k % 64, op := leAt raw 0 1, flags := leAt raw 1 1,
                         cid := leAt raw 2 2, ctx := st.2, tag := leAt raw 8 8, raw := raw, order := s.accepted, at_ := s.now,
                         prog := s.now, im := (cxOf s st.2).active } ∧
      (∀ j, j ≠ h → cmdOf t j = cmdOf s j) ∧ t.accepted = s.accepted + 1 ∧
      (queueOf t k).head = (x.head + 1) % sqDepth s k ∧
      (up → ∃ a fl hd, Msg.hostWrite (k / 64) a ((recBytes (handleOf (tget 1 s.slotGen h) h) (leAt raw 2 2) (k % 64) fl 0 hd 0
        (leAt raw 8 8) s.now).map (·.toNat)) ∈ t.out) ∧ read ∈ t.out ∧ SameMem s t ∧ t.ctxs = s.ctxs) ∧
    (st.1 ≠ 0 → Ends (.commandFetch true raw) s fun t => t.cmds = s.cmds ∧ t.accepted = s.accepted ∧
      (queueOf t k).head = (x.head + 1) % sqDepth s k ∧
      (up → ∃ a fl hd, Msg.hostWrite (k / 64) a ((recBytes 0 (leAt raw 2 2) (k % 64) fl st.1 hd 0 (leAt raw 8 8) s.now).map
        (·.toNat)) ∈ t.out) ∧ read ∈ t.out ∧ SameMem s t ∧ t.ctxs = s.ctxs) ∧
    Ends (.commandFetch false raw) s fun t => read ∈ t.out ∧ t.cmds = s.cmds ∧ queueOf t k = { x with st := 3 } ∧
      Machine.rb t .QM_STAT 0 (k / 64) = true ∧ Logged 9 1 s t)

/-- O16. LOAD, ACTIVATE, DISCARD, CALIBRATE, CANCEL, NOP and a timeout, each where it may start (R177, R222, R223, R226, R227,
R229, R353, R355, R360, R361).
Where the command may start: LOAD opens a load of its context in phase 1 and reads its image from its source, or completes
with BUSY where the context already has a load or a staged image; ACTIVATE makes the staged image active, the old one
retiring, from its place in the command order on, and completes; DISCARD gives up the staged image; CALIBRATE queues its idle bays; CANCEL of a command that has not
started completes that one with CANCELLED and itself with SUCCESS, and with UNKNOWN_HANDLE where no such command exists; NOP
completes. A timeout ends a queued command whose turn had come with TIMEOUT. An old image whose last command has completed is
gone. (Rests on the model's choices of log entries 34, 39, 48.) -/
def Obligations.ContextCommands : Prop :=
  (∀ (h : Nat) (c : Cmd) (s : Machine.State), startsAs s h 0x01 c → loadBad c = false →
    (c.fn = 0 ∨ Machine.rb s .SET_VF_LOAD c.fn = true) →
    let x := cxOf s c.ctx
    let f := c.u 0x30 1
    (x.staged = none → x.load = none →
      (f.testBit 0 = true → hubDma s c.fn (c.ctx / 32) (c.u 0x10 8) (c.u 0x18 8) = none) → Ends (.load h) s fun t =>
      t = { s with cmds := t.cmds, ctxs := t.ctxs, imgNext := s.imgNext + 1, out := t.out } ∧
      cxOf t c.ctx = { x with load := some { h := h, im := s.imgNext, activate := f.testBit 4, src := f / 4 % 4,
                                              peer := c.u 0x31 1 } } ∧
      (∀ k, k ≠ c.ctx → cxOf t k = cxOf s k) ∧ cmdOf t h = some { c with run := true } ∧
      (f.testBit 0 = false → t.out = Msg.hostRead c.fn (c.u 0x10 8) (c.u 0x18 8) :: s.out)) ∧
    ((x.staged ≠ none ∨ x.load ≠ none) → Ends (.load h) s fun t => Completed h c 0x16 0 0 s t ∧
      (endsAlone s = true → t.ctxs = s.ctxs))) ∧
  (∀ (h im : Nat) (c : Cmd) (s : Machine.State), startsAs s h 0x02 c → (cxOf s c.ctx).staged = some im →
    Ends (.activate h) s fun t => Completed h c 0 0 0 s t ∧ (cxOf t c.ctx).active = some im ∧ (cxOf t c.ctx).staged = none ∧
      (cxOf t c.ctx).acts = ((cxOf s c.ctx).acts + 1) % 65536 ∧
      (cxOf t c.ctx).retiring = (cxOf s c.ctx).retiring ++ (cxOf s c.ctx).active.toList ∧
      (cxOf t c.ctx).actAt = c.order ∧ t.tiles = s.tiles ∧ ((imgOf s im).delta = false → SameMem s t) ∧
      (endsAlone s = true → (∀ k, k ≠ c.ctx → cxOf t k = cxOf s k) ∧ ∀ j d, j ≠ h → cmdOf s j = some d →
        cmdOf t j = some { d with im := if d.ctx = c.ctx ∧ c.order ≤ d.order then some im else d.im })) ∧
  (∀ (h im : Nat) (c : Cmd) (s : Machine.State), startsAs s h 0x03 c → (cxOf s c.ctx).staged = some im →
    (cxOf s c.ctx).load = none → Ends (.discard h) s fun t => Completed h c 0 0 0 s t ∧ (cxOf t c.ctx).staged = none ∧
      (∀ i, (im, i) ∉ t.images) ∧ (cxOf t c.ctx).active = (cxOf s c.ctx).active ∧ SameMem s t) ∧
  (∀ (h : Nat) (c : Cmd) (s : Machine.State), startsAs s h 0x05 c → c.u 0x10 8 < 2 ^ 48 → c.u 0x18 1 < 4 →
    (∀ b, (c.u 0x10 8).testBit b = true → ptOfDie s (b / 6) = c.ctx / 32 ∧ anaOn s (b / 6) = true ∧ (calOf s b).st = 0) →
    (c.u 0x10 8 = 0 → Ends (.calibrate h) s fun t => Completed h c 0 0 0 s t ∧ t.cal = s.cal) ∧
    (c.u 0x10 8 ≠ 0 → Ends (.calibrate h) s fun t => t = { s with cmds := t.cmds, cal := t.cal, soakQ := t.soakQ } ∧
      cmdOf t h = some { c with run := true, left := c.u 0x10 8, info := 0, value := 0 } ∧
      ∀ b, b < 48 → if (c.u 0x10 8).testBit b then b ∈ t.soakQ ∧ (calOf t b).st = 1 ∧
          (calOf t b).wantRefresh = ((c.u 0x18 1).testBit 1 || (calOf s b).wantRefresh) else calOf t b = calOf s b)) ∧
  (∀ (h : Nat) (c : Cmd) (s : Machine.State), startsAs s h 0x30 c →
    (cmdOf s (c.u 0x10 4 % 4096) = none → Ends (.cancel h) s fun t => Completed h c 8 0 0 s t ∧ t.gens = s.gens) ∧
    (∀ d, c.u 0x10 4 % 4096 ≠ h → cmdOf s (c.u 0x10 4 % 4096) = some d → d.gen = c.u 0x10 4 / 4096 → d.fn = c.fn →
      d.run = false → Ends (.cancel h) s fun t => Completed (c.u 0x10 4 % 4096) d 7 0 0 s t ∧ Completed h c 0 0 0 s t ∧
        t.gens = s.gens ∧ SameMem s t)) ∧
  (∀ (h : Nat) (c : Cmd) (s : Machine.State), startsAs s h 0x31 c →
    Ends (.nopCommand h) s fun t => Completed h c 0 0 0 s t ∧ SameMem s t ∧
      (endsAlone s = true → t.ctxs = s.ctxs ∧ t.seqs = s.seqs)) ∧
  (∀ (h : Nat) (c : Cmd) (s : Machine.State), cmdOf s h = some c → c.run = false → mayStart s c = true →
    waitsRole s c = false → genOf s h = none → heldByHalt s c = false → c.fn < 32 → c.q < 64 →
    Ends (.completionTimeout h) s fun t =>
      Completed h c 6 0 0 s t ∧ Machine.rb t .QM_STAT 4 c.fn = true ∧ SameMem s t ∧
      (endsAlone s = true → t.ctxs = s.ctxs)) ∧
  (∀ (pt fn im : Nat) (s : Machine.State), im ∈ (cxOf s (cxKey pt fn)).retiring → (∀ e ∈ s.cmds, e.2.im ≠ some im) →
    s.vheld = [] → Ends (.imageRetire pt fn im) s fun t => im ∉ (cxOf t (cxKey pt fn)).retiring ∧ (∀ i, (im, i) ∉ t.images) ∧
      (∀ p ∈ s.prefixes, p.im = im → p ∉ t.prefixes ∧ p.handle ∈ (cxOf t p.ctx).gonePfx) ∧
      (∀ tl ∈ imgTls (imgOf s im), tl < 49152 → tl ∉ heldTls t → Machine.rb t .TILE_LCFG 0 tl = false) ∧
      Logged 0x0A 7 s t ∧ t.cmds = s.cmds ∧ SameMem s t)

/-- O17. Sequences are created, freed and cut, GENERATE becomes a run, and prefixes are made and dropped (R227, R329, R331, R339,
R362, R368, R370, R374, R379, R380).
Where the command may start, nothing else ends with it, and its sequence or prefix is known: SEQ_CREATE without a draft takes a
free index, with the pages and the length of its prefix, and completes with its identifier and length; SEQ_FREE frees the index and
advances its generation, of a FAILED sequence with KV_LOST; SEQ_TRUNCATE cuts to the length, leaving no page beyond it and no
pending token, and clears the slip entries from the length on; an admissible GENERATE with tokens to append becomes a run on its
sequence; PREFIX_CREATE from tokens becomes a run on a temporary sequence; PREFIX_CREATE from a sequence whose positions all stand
in pages that do not move names them; PREFIX_DROP removes its prefix. An unknown sequence completes with UNKNOWN_SEQUENCE, an
unknown prefix with UNKNOWN_PREFIX, one whose image has retired with IMAGE_RETIRED. (Rests on the model's choices of log entries
44, 46, 48.) -/
def Obligations.SequenceCommands : Prop :=
  (∀ (h im i : Nat) (c : Cmd) (s : Machine.State), startsAs s h 0x10 c → endsAlone s = true → c.im = some im → c.u 0x18 1 = 0 →
    freeSeq s im = some i →
    let pf := findPrefix s c.ctx (c.u 0x10 8)
    (c.u 0x10 8 = 0 → pf = none) → (c.u 0x10 8 ≠ 0 → ∃ p, pf = some p ∧ p.im = im) → (imgOf s im).peers.job = 0 →
    Ends (.seqCreate h) s fun t =>
      Completed h c 0 ((seqOf s i).gen * 4096 + i) (pf.getD {}).len s t ∧
      (seqOf t i).used = true ∧ (seqOf t i).ctx = c.ctx ∧ (seqOf t i).im = im ∧ (seqOf t i).len = (pf.getD {}).len ∧
      (seqOf t i).pages = (pf.getD {}).pages ∧ (seqOf t i).gen = (seqOf s i).gen ∧
      (∀ j, j ≠ i → seqOf t j = seqOf s j) ∧ SameMem s t) ∧
  (∀ (h : Nat) (c : Cmd) (s : Machine.State), startsAs s h 0x11 c → endsAlone s = true →
    (∀ e ∈ s.cmds, e.1 ≠ h → e.2.ctx = c.ctx → e.2.seqId ≠ some (c.u 0x10 4)) →
    let i := c.u 0x10 4 % 4096
    (seqOf s i).draft = none → (seqCheck s c (c.u 0x10 4) = .ok i ∨ seqCheck s c (c.u 0x10 4) = .error 0x11) →
    Ends (.seqFree h) s fun t => Completed h c (if (seqOf s i).failed then 0x11 else 0) 0 0 s t ∧
      seqOf t i = { gen := nextGen (seqOf s i).gen } ∧ (∀ j, j ≠ i → seqOf t j = seqOf s j) ∧ SameMem s t) ∧
  (∀ (h i : Nat) (c : Cmd) (s : Machine.State), startsAs s h 0x12 c → endsAlone s = true → noFlush s (c.u 0x10 4 % 4096) = true →
    seqCheck s c (c.u 0x10 4) = .ok i → c.u 0x14 4 ≤ (seqOf s i).len → (seqOf s i).draft = none →
    Ends (.seqTruncate h) s fun t => Completed h c 0 (c.u 0x14 4) 0 s t ∧ (seqOf t i).len = c.u 0x14 4 ∧
      (seqOf t i).pend = none ∧ (∀ e ∈ (seqOf t i).pages, e.1 % 65536 * 64 < c.u 0x14 4) ∧
      (∀ j, j ≠ i → seqOf t j = seqOf s j) ∧
      (let b := (kvOf s (seqOf s i).im).slipBytes
       (∀ a, (∀ e ∈ (seqOf s i).slips, c.u 0x14 4 < (e.1 % 65536 + 1) * 64 → a < e.2 - 1 ∨ e.2 - 1 + 64 * b ≤ a) →
          rdByte t a = rdByte s a) ∧
       (s.poison = [] → ∀ e ∈ (seqOf t i).slips, ∀ p k, p < 64 → c.u 0x14 4 ≤ e.1 % 65536 * 64 + p → k < b →
          rdByte t (e.2 - 1 + p * b + k) = 0))) ∧
  (∀ (h im i : Nat) (toks : List Nat) (req : List Byte) (c : Cmd) (s : Machine.State), startsAs s h 0x13 c →
    c.im = some im → seqCheck s c (c.u 0x10 4) = .ok i → toks.length = c.u 0x14 4 →
    req.length = (if c.u 0x38 8 = 0 then 0 else 64) → genCheck s c im i toks req false = 0 → toks ≠ [] →
    Ends (.generate h toks req false) s fun t => t = { s with cmds := t.cmds, gens := t.gens } ∧
      genOf t h = some (newGen c i (seqOf s i).pend toks req) ∧ (∀ j, j ≠ h → genOf t j = genOf s j) ∧
      cmdOf t h = some { c with run := true, seq := some i }) ∧
  (∀ (h im : Nat) (c : Cmd) (s : Machine.State), startsAs s h 0x18 c → endsAlone s = true → c.im = some im → c.u 0x10 8 ≠ 0 →
    findPrefix s c.ctx (c.u 0x10 8) = none → prefixFull s c.ctx = false →
    (∀ (toks : List Nat) (i : Nat), c.u 0x18 4 = 0xFFFFFFFF → toks.length = c.u 0x1C 4 → toks ≠ [] →
      toks.length ≤ (kvOf s im).posMax → (∀ t ∈ toks, t < (roleE s im 0).vocab) → freeSeq s im = some i →
      (imgOf s im).peers.job = 0 → Ends (.prefixCreate h toks false) s fun t =>
        t = { s with cmds := t.cmds, gens := t.gens, seqs := t.seqs } ∧
        genOf t h = some { seq := i, input := toks, pfx := some (c.u 0x10 8) } ∧ (seqOf t i).used = true ∧
        (seqOf t i).im = im ∧ ∀ j, j ≠ i → seqOf t j = seqOf s j) ∧
    (∀ i : Nat, c.u 0x18 4 ≠ 0xFFFFFFFF → seqCheck s c (c.u 0x18 4) = .ok i → (seqOf s (c.u 0x18 4 % 4096)).bind = none →
      noFlush s (c.u 0x18 4 % 4096) = true → sealWaits s (c.u 0x18 4 % 4096) (c.u 0x1C 4) = false → 1 ≤ c.u 0x1C 4 → c.u 0x1C 4 ≤ (seqOf s i).len →
      sealPoison s i (c.u 0x1C 4) = false →
      (∀ l, l < (kvOf s (seqOf s i).im).layers.length →
        (c.u 0x1C 4 - 1) % 64 + 1 ≤ pageCount s i l ((c.u 0x1C 4 - 1) / 64)) →
      Ends (.prefixCreate h [] false) s fun t => Completed h c 0 (c.u 0x1C 4) 0 s t ∧
        (∃ p, t.prefixes = s.prefixes ++ [p] ∧ p.ctx = c.ctx ∧ p.handle = c.u 0x10 8 ∧ p.len = c.u 0x1C 4 ∧
          p.im = (seqOf s i).im ∧ p.toks = (seqOf s i).toks.take (c.u 0x1C 4)) ∧ t.seqs = s.seqs ∧ SameMem s t)) ∧
  (∀ (h : Nat) (p : Prefix) (c : Cmd) (s : Machine.State), startsAs s h 0x19 c → endsAlone s = true →
    findPrefix s c.ctx (c.u 0x10 8) = some p → (c.im = some p.im ∨ (cxOf s c.ctx).active = some p.im) →
    Ends (.prefixDrop h) s fun t => Completed h c 0 0 0 s t ∧ t.prefixes = s.prefixes.erase p ∧ t.seqs = s.seqs ∧
      SameMem s t) ∧
  (∀ (h : Nat) (c : Cmd) (s : Machine.State), endsAlone s = true → (startsAs s h 0x11 c → seqKnown s c.ctx (c.u 0x10 4) = false →
      Ends (.seqFree h) s fun t =>
        Completed h c (if c.u 0x10 4 ∈ (cxOf s c.ctx).goneSeq then 0x0A else 0x0B) 0 0 s t ∧ t.seqs = s.seqs) ∧
    (startsAs s h 0x19 c → findPrefix s c.ctx (c.u 0x10 8) = none →
      Ends (.prefixDrop h) s fun t =>
        Completed h c (if c.u 0x10 8 ∈ (cxOf s c.ctx).gonePfx then 0x0A else 0x0E) 0 0 s t ∧ t.prefixes = s.prefixes ∧
        t.seqs = s.seqs))

/-- O18. CHECKPOINT gathers and moves a sequence, SEQ_RESTORE rebuilds one, BACKWARD and the adapter commands send their step
(R146, R360, R364, R365, R381, R382, R383, R384).
Where the command may start: CHECKPOINT of a sequence at a step boundary, outside a job, to host memory keeps a snapshot of
its pages, pins their frames and either waits to move header and parts, or completes with INVALID_FIELD where its destination is too short; each
MiB moved goes to the destination, and the last completes the command. SEQ_RESTORE of data that fail the checks of R383
completes with CORRUPT; of good data whose pages find frames and tables it rebuilds the sequence at the length of the
checkpoint. BACKWARD on positions that its training store holds latches the copies of the adapters, and it, ADAPT_ZERO and
ADAPT_UPDATE of a known adapter send their descriptor to the entry that takes it. (Rests on the model's choices of log entries
48, 49, 50, 107.) -/
def Obligations.TransferAndTrainingCommands : Prop :=
  (∀ (h m i : Nat) (c : Cmd) (s : Machine.State), startsAs s h 0x20 c → c.im = some m →
    endsAlone s = true → c.words = [] → (seqOf s (c.u 0x10 4 % 4096)).bind = none → noFlush s (c.u 0x10 4 % 4096) = true →
    seqCheck s c (c.u 0x10 4) = .ok i → c.u 0x14 1 = 0 → (imgOf s m).peers.job = 0 → (seqOf s i).pages ≠ [] →
    let e := roleE s m 0
    (∀ j, j < e.layers → partPoison s i (e.first + j) (seqOf s i).len = false) →
    Ends (.checkpoint h) s fun t => SameMem s t ∧ t.seqs = s.seqs ∧ t.tiles = s.tiles ∧
      ∃ total, 256 ≤ total ∧ (if c.u 0x20 8 < total then Completed h c 3 0 total s t ∧ tget [] t.snaps h = []
        else ∃ d, cmdOf t h = some d ∧ d.run = true ∧ d.seq = some i ∧ d.info = (seqOf s i).len ∧ d.words.length = total ∧
          d.value = total ∧ tget [] t.snaps h = ((seqOf s i).pages.map fun p => p.2.desc) ∧
          ∀ j, j < e.layers → ∀ a ∈ framesOf s i (e.first + j) (seqOf s i).len, (a, 0x41) ∈ t.pins)) ∧
  (∀ (h : Nat) (c : Cmd) (s : Machine.State), cmdOf s h = some c → c.run = true →
    (c.op = 0x20 → c.u 0x14 1 = 0 → c.words ≠ [] →
      let a := c.u 0x18 8 + (c.value - c.words.length)
      (c.words.length ≤ 1048576 → Ends (.dmaMibMoved h) s fun t => Completed h c 0 c.info c.value s t ∧
        Msg.hostWrite c.fn a c.words ∈ t.out ∧ tget [] t.snaps h = [] ∧ SameMem s t) ∧
      (1048576 < c.words.length → Ends (.dmaMibMoved h) s fun t =>
        t = { s with cmds := t.cmds, out := .hostWrite c.fn a (c.words.take 1048576) :: s.out } ∧
        cmdOf t h = some { c with words := c.words.drop 1048576, prog := s.now })) ∧
    (c.op = 0x21 → (c.left ≤ 1 → Ends (.dmaMibMoved h) s fun t => Completed h c 0 c.info c.value s t ∧ SameMem s t) ∧
      (1 < c.left → Ends (.dmaMibMoved h) s fun t => t = { s with cmds := t.cmds } ∧
        cmdOf t h = some { c with left := c.left - 1, prog := s.now }))) ∧
  (∀ (h m : Nat) (data : List Byte) (c : Cmd) (s : Machine.State), startsAs s h 0x21 c → endsAlone s = true →
    c.im = some m → c.u 0x20 1 = 0 → jobHeld s c.ctx = false →
    let im := imgOf s m
    let e := roleE s m 0
    let n := leAt data 0x50 4
    ((ckptBad data im e = true ∨ im.kv.posMax < n) → Ends (.seqRestore h data false) s fun t =>
      Completed h c 0x1B 0 0 s t ∧ t.seqs = s.seqs ∧ SameMem s t) ∧
    (∀ (i : Nat) (u v : Machine.State), ckptBad data im e = false → n ≤ im.kv.posMax →
      makeSeqs c.ctx m false (setCmd h { c with run := true } s) = some (i, u) →
      reserveAll ((ckptParts im.kv e.layers (data.drop 256)).mapIdx fun j p => restoreLayer i (e.first + j) n im.kv p).flatten u =
        some v → kvTableBytes v im.kv ≤ tableSize im.kv → (∀ j, j < e.layers → partPoison v i (e.first + j) n = false) →
      Ends (.seqRestore h data false) s fun t =>
        (seqOf t i).used = true ∧ (seqOf t i).len = n ∧ (seqOf t i).pages = (seqOf v i).pages ∧
        (seqOf t i).pend = (if leAt data 0x54 4 = 0xFFFFFFFF then none else some (leAt data 0x54 4)) ∧ t.mem = v.mem ∧
        cmdOf t h = some { c with run := true, seq := some i, left := (data.length + 1048575) / 1048576,
                                  info := (seqOf t i).gen * 4096 + i, value := n })) ∧
  (∀ (h m i x : Nat) (toks : List Nat) (e : EntryE) (u : Machine.State) (c : Cmd) (s : Machine.State), undebugged s = true →
    startsAs s h 0x14 c → c.im = some m → seqCheck s c (c.u 0x10 4) = .ok i → (imgOf s m).peers.job = 0 →
    let a := c.u 0x14 4
    let n := c.u 0x20 4
    n ≠ 0 → storeHolds (seqOf s i) a (a + n) = true → toks.length = n → allocKeep s (kvOf s m) (4 * n) = some x →
    anyPoison s x (4 * n) = false → wrRefused s x (4 * n) = false → hubClosed s (.scratch e.cl) = false →
    pickEntry m 2 (fun e => decide (16 ≤ e.descLen)) (setCmd h { c with run := true } s) = some (e, u) →
    Ends (.backward h toks false) s fun t =>
      rdBytes t x (4 * n) = toks.flatMap (bytesLE 4) ∧ SameMemBut x (4 * n) s t ∧
      (seqOf t i).keepAt = some (x, 4 * n) ∧ cmdOf t h = some { c with run := true, seq := some i } ∧
      (∀ a ∈ (imgOf s m).adapters, (tget {} t.adapters (adpKey m a.index)).bwd =
        some (tget {} s.adapters (adpKey m a.index)).copy) ∧
      t.out.head? = some (.fabric 3 e.cl tagStep ([e.ctx, e.slot] ++
        [4, 0xFFF, i, a, n, 0, 0, 0, 0, 0, 0, handleOf c.gen h, x % 2 ^ 32, x / 2 ^ 32, c.u 0x28 8 % 2 ^ 32,
          c.u 0x28 8 / 2 ^ 32] ++ List.replicate (e.descLen - 16) 0))) ∧
  (∀ (h m : Nat) (e : EntryE) (u : Machine.State) (c : Cmd) (s : Machine.State), undebugged s = true → c.im = some m →
    (∃ a ∈ (imgOf s m).adapters, a.index = c.u 0x10 2) → hubClosed s (.scratch e.cl) = false →
    (startsAs s h 0x06 c →
      pickEntry m 3 (fun e => decide (12 ≤ e.descLen)) (setCmd h { c with run := true } s) = some (e, u) →
      Ends (.adaptZero h) s fun t => t = { s with cmds := t.cmds, entryTurn := t.entryTurn, out := t.out } ∧
        cmdOf t h = some { c with run := true } ∧
        t.out.head? = some (.fabric 3 e.cl tagStep ([e.ctx, e.slot] ++
          [6, 0xFFF, c.u 0x10 2, 0, 0, 0, 0, 0, 0, 0, 0, handleOf c.gen h] ++ List.replicate (e.descLen - 12) 0))) ∧
    (startsAs s h 0x07 c →
      pickEntry m 3 (fun e => decide (14 ≤ e.descLen)) (setCmd h { c with run := true } s) = some (e, u) →
      Ends (.adaptUpdate h) s fun t => t = { s with cmds := t.cmds, entryTurn := t.entryTurn, out := t.out } ∧
        cmdOf t h = some { c with run := true } ∧
        t.out.head? = some (.fabric 3 e.cl tagStep ([e.ctx, e.slot] ++
          [5, 0xFFF, c.u 0x10 2, 0, 0, 0, c.u 0x14 4, 0, 0, 0, 0, handleOf c.gen h, c.u 0x18 4, c.u 0x1C 4] ++
          List.replicate (e.descLen - 14) 0))))

/-- O19. A fetched image is checked and refused with its first failure, or held with its tiles claimed; a remap redirects
placements (R116, R219, R220, R221, R223, R230, R232, R236).
When the bytes of an image, from host or device memory, arrive for a load in phase 1 before which no other load of its partition
has to be validated, and a check of R220 fails, SET_ERR keeps the first failure, the load is gone and its LOAD completes with
VALIDATION; when an uncorrectable error met the read, it completes with MEMORY_ERROR, and with FENCED or INVALID_FIELD where device
memory that is named is down or not admitted; when every check passes, the device holds the image, every tile it places that is not
FAILED is ACTIVE. A load whose turn has not come waits. When every layer of a remap is programmed, the placements of every image name
the spare instead of the failed tile, the spare is ACTIVE and SET_REMAP_CNT has advanced. (Rests on the model's choices of log
entries 36, 37, 38.) -/
def Obligations.ImageLoading : Prop :=
  (∀ (h : Nat) (img ware : List Byte) (err : Bool) (l : Load) (c : Cmd) (s : Machine.State), undebugged s = true →
    cmdOf s h = some c → loadOf s c.ctx = some l → l.h = h → l.phase = 1 → l.stop = none → l.src ≠ 2 →
    (∀ e ∈ s.progs, e.2.ctx ≠ c.ctx) → c.ctx < 1024 →
    (earlierLoad s (c.ctx / 32) h = true → Ends (.loadImageFetched h img ware err) s fun t => t = { s with dbg := t.dbg } ∧
      ∃ b k, (b, k, Instr.loadImageFetched h img ware err) ∈ t.dbg.waiting) ∧
    (earlierLoad s (c.ctx / 32) h = false →
      let dev := (c.u 0x30 1).testBit 0
      let x := if dev then devRead s (imagePlace c) else (img.take (c.u 0x18 8), err)
      let alone := x.2 || imgDelta x.1
      let w := if alone then ([], x.2) else if l.src = 1 then devRead s (warePlace s c) else (ware.take (c.u 0x28 8), err)
      let given := l.shared + 2 ^ 16 * l.retained
      let made := l.programmed + 2 ^ 32 * 0xFFFFFFFF
      let ends := fun (st : Nat) (t : Machine.State) => Completed h c st given made s t ∧ loadOf t c.ctx = none ∧ SameMem s t
      let down := dev = true ∧ (hubDown s (imagePlace c).1 (imagePlace c).2).isSome = true
      let wareDev := alone = false ∧ l.src = 1
      let refused := (hubDma s c.fn (c.ctx / 32) (c.u 0x20 8) (c.u 0x28 8)).isSome = true
      let wareDown := (hubDown s (warePlace s c).1 (warePlace s c).2).isSome = true
      (down ∨ (wareDev ∧ ¬ refused ∧ wareDown) → Ends (.loadImageFetched h img ware err) s (ends stFenced)) ∧
      (¬ down → wareDev → refused → Ends (.loadImageFetched h img ware err) s fun t =>
        ends 3 t ∧ Machine.rb t .HUB_MEM_ERR_STAT 8 = true) ∧
      (¬ down → (wareDev → ¬ refused ∧ ¬ wareDown) →
        let v := if alone ∨ l.src = 1 then s else
          emit (.hostRead c.fn (c.u 0x20 8) (min (c.u 0x28 8) (leAt (ware.take (c.u 0x28 8)) 0x30 8 + 128))) s
        let u := enterLoad c.ctx (modLoad c.ctx (fun l => { l with phase := 2, id := if w.2 then 0 else leAt x.1 0x18 16 }) v)
        let i := readImage x.1 w.1 (((cxOf s c.ctx).active.map (imgOf s)).getD {})
        let check := checkStep1 u c.ctx x.1 <|> checkStep2 u (c.u 0x28 8) w.1 i <|> checkStep3 u c.ctx x.1 i
        (w.2 = true → Ends (.loadImageFetched h img ware err) s fun t => ends 0x1A t ∧ rd t .SET_ERR = rd s .SET_ERR) ∧
        (∀ f, w.2 = false → check = some f → f.1 < 256 → Ends (.loadImageFetched h img ware err) s fun t =>
          ends 0x17 t ∧
          (if Machine.rb s .SET_ERR 31 then rd t .SET_ERR = rd s .SET_ERR ∧ rd t .SET_ERR_ENTRY = rd s .SET_ERR_ENTRY
           else Machine.rb t .SET_ERR 31 = true ∧ rf t .SET_ERR 7 0 = f.1 % 256 ∧ rf t .SET_ERR 15 8 = f.2.1 % 256 ∧
             (rd t .SET_ERR_ENTRY).toNat = f.2.2 % 2 ^ 32)) ∧
        (w.2 = false → check = none → Ends (.loadImageFetched h img ware err) s fun t =>
          (imgOf t l.im).id = i.id ∧ (imgOf t l.im).slices = i.slices ∧ (imgOf t l.im).routes = i.routes ∧
          (∀ p ∈ (imgOf t l.im).places, p.tile < 12288 → rf s .TILE_CFG 2 0 p.tile ≠ 3 → rf t .TILE_CFG 2 0 p.tile = 1))))) ∧
  (∀ (tile : Nat) (r : Remap) (s : Machine.State), s.remaps.find? (fun r => r.tile == tile) = some r → tile < 12288 →
    r.spare < 12288 → (∀ l ∈ r.layers, l < 4 ∧ progOf s (tlKey r.spare l) = none) → rf s .TILE_CFG 2 0 r.spare ≠ 3 →
    Ends (.remapComplete tile) s fun t =>
      t.images = s.images.map (fun e => (e.1, redirectImg tile r.spare e.2)) ∧ rf t .TILE_CFG 2 0 r.spare = 1 ∧
      rf t .SET_REMAP_CNT 15 0 = (rf s .SET_REMAP_CNT 15 0 + 1) % 65536 ∧ (∀ x ∈ t.remaps, x.tile ≠ tile) ∧ SameMem s t ∧
      t.cmds = s.cmds ∧ t.seqs = s.seqs)

/-- O20. A step opens, its messages are taken, it commits its token to the ring; a full ring is polled and given up (R363, R364,
R365, R366, R367, R370, R371, R372, R384).
With no debug halt, a run between two steps, for whose boundary no command waits, with room and tokens to append, whose next entry
takes them and whose reservation succeeds, opens a binding and sends the STEP descriptor. A poll records the head word; an expired
wait ends the run with RING_FULL. An admissible REGISTER adds the entry; an expired wait for a role ends the command with
NOT_REGISTERED. A RESULT is kept with its binding; DONE of a training command completes it, with the status of an error that a unit
reported in its step; FAIL ends the step's command with EXEC_ERROR. A step in which a unit reported an error ends its command with
that status; the commit of another sampled step outside a job extends the sequence, writes the token to the ring, counts it, and
releases the binding. What ends a run changes no memory but slip segments. (Rests on the model's choices of log entries 45, 46,
47.) -/
def Obligations.GenerationEvents : Prop :=
  (∀ (h im b : Nat) (g : Gen) (c : Cmd) (e : EntryE) (u v : Machine.State) (s : Machine.State), undebugged s = true →
    genOf s h = some g → cmdOf s h = some c → c.im = some im → g.bind = none → g.dbind = none →
    (seqOf s g.seq).bind = none → boundaryAwaited s c.ctx g.seq = false → jobTurn s c im = true →
    cxFenced s c.ctx = false → jobHeld s c.ctx = false → hubClosed s (.scratch e.cl) = false →
    (g.pfx = none → roomNeeded s g ≤ ringFree g) → g.input ≠ [] →
    pickEntry im 0 (fun e => decide (13 ≤ e.descLen)) (modGen h (fun g => { g with waits := false }) s) = some (e, u) →
    let n := min (min g.input.length e.nMax) (min (e.descLen - 12) (kvOf s im).stepMax)
    let q := seqOf s g.seq
    let r := roleE s im 0
    let last := decide (0 < g.maxNew) && n == g.input.length
    q.len + n ≤ (kvOf s im).posMax →
    createBind { seq := g.seq, base := q.len, n := n, keep := g.keep, toks := g.input.take n, sample := last, h := h,
                 first := r.first, layers := r.layers, cl := e.cl * 4096 + e.ctx, jstep := (giveStep c.ctx im u).1 }
      (giveStep c.ctx im u).2 = some (b, v) →
    Ends (.stepStart h) s fun t =>
      (genOf t h) = some { g with waits := false, bind := some b } ∧ bindOf t b = bindOf v b ∧ t.seqs = v.seqs ∧
      t.out.head? = some (.fabric 3 e.cl tagStep ([e.ctx, e.slot] ++
        (descHead 1 b g.seq q.len n (b2n last + 2 * b2n g.logprob + 4 * b2n g.keep) g (handleOf c.gen h) ++ g.input.take n) ++
        List.replicate (e.descLen - (12 + n)) 0)) ∧ SameMem s t ∧ t.tiles = s.tiles) ∧
  (∀ (h value : Nat) (g : Gen) (s : Machine.State), genOf s h = some g → g.waits = true →
    Ends (.ringHeadPoll h value true) s fun t => t = { s with gens := t.gens } ∧
      genOf t h = some { g with headW := value, waits := decide (ringFree { g with headW := value } <
        roomNeeded s { g with headW := value }) } ∧ ∀ j, j ≠ h → genOf t j = genOf s j) ∧
  (∀ (h : Nat) (g : Gen) (c : Cmd) (s : Machine.State), genOf s h = some g → cmdOf s h = some c → g.waits = true →
    g.pfx = none → Ends (.ringWaitExpiry h) s fun t =>
      Completed h c 0x13 g.done (g.accepted % 2 ^ 32 + 2 ^ 32 * (g.proposed % 2 ^ 32)) s t ∧ genOf t h = none ∧
      SameMemButSlips s t) ∧
  (∀ (cl ctx im k : Nat) (v : List Nat) (s : Machine.State), senderOf s cl ctx = some (im, k) →
    registerOk s im k 0xFFF v = true → Ends (.register cl ctx 0xFFF v) s fun t =>
      t = { s with entries := t.entries } ∧
      (∃ e : EntryE, tget [] t.entries im = tget [] s.entries im ++ [e] ∧ e.role = v.getD 0 0 ∧ e.first = v.getD 1 0 ∧
        e.layers = v.getD 2 0 ∧ e.cl = bitsOf (v.getD 3 0) 12 4 ∧ e.ctx = bitsOf (v.getD 3 0) 24 13 ∧
        e.slot = bitsOf (v.getD 3 0) 31 25 ∧ e.descLen = v.getD 4 0 ∧ e.nMax = v.getD 5 0 ∧ e.vocab = v.getD 6 0) ∧
      ∀ j, j ≠ im → tget [] t.entries j = tget [] s.entries j) ∧
  (∀ (h : Nat) (c : Cmd) (s : Machine.State), cmdOf s h = some c → c.run = false → mayStart s c = true →
    waitsRole s c = true → Ends (.registrationWaitExpiry h) s fun t =>
      Completed h c 0x14 0 0 s t ∧ Machine.rb t .SRV_STAT 0 = true ∧ SameMem s t) ∧
  (∀ (cl ctx bind : Nat) (v : List Nat) (x : Bind) (s : Machine.State), awaited s cl ctx bind = some x →
    v.length = 2 * x.n → x.jstep = 0 → (x.draft && x.verify) = false →
    Ends (.result cl ctx bind v) s fun t => t = { s with binds := t.binds } ∧ bindOf t bind = some { x with result := some v } ∧
      ∀ b, b ≠ bind → bindOf t b = bindOf s b) ∧
  (∀ (cl ctx im k h w : Nat) (c : Cmd) (s : Machine.State), senderOf s cl ctx = some (im, k) →
    trainCmd s k = some (h, c) → cmdOf s h = some c →
    Ends (.done cl ctx 0xFFF [0, w]) s fun t => SameMem s t ∧ (match c.err with
      | none => Completed h c 0 (if c.op = 0x14 then c.u 0x20 4 else 0) (if c.op = 0x06 then 0 else w) s t
      | some st => Completed h c st 0 0 s t)) ∧
  (∀ (cl ctx bind code : Nat) (x : Bind) (g : Gen) (c : Cmd) (s : Machine.State),
    awaited s cl ctx bind = some x → genOf s x.h = some g → cmdOf s x.h = some c → g.pfx = none →
    let st := if 0 < ringFree g ∧ ringUp s c g = false then 0x12 else 0x15
    Ends (.fail cl ctx bind [code]) s fun t =>
      Completed x.h c st g.done (g.accepted % 2 ^ 32 + 2 ^ 32 * (g.proposed % 2 ^ 32)) s t ∧ genOf t x.h = none ∧
      SameMemButSlips s t) ∧
  (∀ (bind : Nat) (x : Bind) (g : Gen) (c : Cmd) (res : List Nat) (s : Machine.State), bindOf s bind = some x →
    genOf s x.h = some g → cmdOf s x.h = some c → x.result = some res → x.jstep = 0 → bindDone s bind = true →
    x.level = false → x.draft = false → x.verify = false → x.keep = false → x.sample = true → g.peer = none →
    s.pcie.linkUp = true → g.pfx = none → g.ringVec = 0xFFFF → c.ctx % 32 = 0 → g.emitted + 1 < g.maxNew →
    (∀ e ∈ s.jobs, ∀ p ∈ e.2.peers, p.2.recs = []) →
    let tok := res.getD (2 * (x.n - 1)) 0xFFFFFFFF
    tok ∉ g.stops →
    (∀ st, c.err = some st → Ends (.stepCommit bind) s fun t =>
      Completed x.h c st g.done (g.accepted % 2 ^ 32 + 2 ^ 32 * (g.proposed % 2 ^ 32)) s t ∧ genOf t x.h = none ∧
      SameMemButSlips s t) ∧
    (c.err = none → Ends (.stepCommit bind) s fun t =>
      bindOf t bind = none ∧ (seqOf t x.seq).len = x.base + x.n ∧ (seqOf t x.seq).pend = some tok ∧
      (seqOf t x.seq).bind = none ∧ (∀ j, j ≠ x.seq → seqOf t j = seqOf s j) ∧
      (rd t .SRV_TOKEN_CNT).toNat = ((rd s .SRV_TOKEN_CNT).toNat + 1) % 2 ^ 32 ∧
      Msg.hostWrite c.fn (g.ringAddr + 16 * (g.count % 2 ^ g.ringLog2)) ((ringBytes g
        { ty := 1, token := tok, pos := x.base + x.n, logp := res.getD (2 * (x.n - 1) + 1) 0 }).map (·.toNat)) ∈ t.out ∧
      genOf t x.h = some { g with bind := none, input := g.input.drop x.n, pendIn := false, done := g.done + x.n,
                                  emitted := g.emitted + 1, count := g.count + 1 } ∧ SameMem s t))

/-- O21. A fence is placed, drains and expires; a reply is matched by its tag; a hang starts, and an engine reset ends or fails
(R252, R270, R271, R277, R476, R477, R478, R479, R481, R484, R485, R658).
With no debug halt: while Silset runs, a fence placed on an unfenced unit sets its reason, advances its generation and starts
its drain, leaving memory, commands and other units as they were where no request waits beside a tile's buffer; a reason already
held changes nothing. A drained unit is held in reset where its reason is RESET, with the crossings of a die closed; an expired
window closes every open request of the unit and is remembered, and a fence whose last reason had gone ends in a reset. A reply
whose tag matches an open slot closes it and advances its generation; any other is dropped, counted and logged, and one that comes
over a closed crossing is discarded. A reported hang is counted and, while Silset runs, begins an engine reset with cause 2; one of
a vector unit faults the contexts whose work hung, and none is reported without such work. An engine reset that ends in time while
Silset runs, whose crossings have come back, and that is not the third in 10 s, lifts the fence, gives the activity registers their
reset values and leaves LOCK of the tiles as it was; while Silset does not run its end is kept. A bound that expires with no image
held marks the unit FAILED. A reset that a larger one has taken over neither ends nor fails by itself. (Rests on the model's choices of log entries 23, 58, 60, 62.) -/
def Obligations.FenceEvents : Prop :=
  (∀ (k i r : Nat) (s : Machine.State), unitExists s k i = true → k ≠ 10 → silUp s = true → undebugged s = true →
    r ∈ [2, 3, 4, 6] →
    ((unitOf s k i).reasons.testBit r = true → Ends (.fencePlace k i r) s fun t => t = s) ∧
    ((unitOf s k i).fence = false → Ends (.fencePlace k i r) s fun t =>
      (unitOf t k i).reasons = 2 ^ r ∧ (unitOf t k i).fgen = ((unitOf s k i).fgen + 1) % 2 ^ 16 ∧
      (unitOf t k i).draining = true ∧ (unitOf t k i).expired = false ∧ (unitOf t k i).fencedAt = s.now ∧
      (noneHeld s = true →
        unitOf t k i = { unitOf s k i with reasons := 2 ^ r, fgen := ((unitOf s k i).fgen + 1) % 2 ^ 16, draining := true,
                                           expired := false, fencedAt := s.now } ∧
        (∀ k' i', i' < 2 ^ 16 → (k', i') ≠ (k, i) → unitOf t k' i' = unitOf s k' i') ∧ SameMem s t ∧ t.cmds = s.cmds))) ∧
  (∀ (k i : Nat) (s : Machine.State), unitExists s k i = true → k ≠ 10 → (unitOf s k i).draining = true →
    quiet s k i = true → ((unitOf s k i).fence = true ∨ (unitOf s k i).expired = false) →
    (((unitOf s k i).reasons.testBit 1 = false ∨ unitXings s k i = []) →
      Ends (.drainComplete k i) s fun t => t = { s with units := t.units } ∧
        unitOf t k i = { unitOf s k i with draining := false,
                                           inReset := (unitOf s k i).inReset || (unitOf s k i).reasons.testBit 1 } ∧
        ∀ k' i', i' < 2 ^ 16 → (k', i') ≠ (k, i) → unitOf t k' i' = unitOf s k' i') ∧
    ((unitOf s k i).reasons.testBit 1 = true → Ends (.drainComplete k i) s fun t => (unitOf t k i).inReset = true ∧
      (unitOf t k i).draining = false ∧
      ∀ x ∈ unitXings s k i, xOf t x = { epoch := ((xOf s x).epoch + 1) % 2 ^ 32, closed := true, offered := none })) ∧
  (∀ (k i : Nat) (s : Machine.State), unitExists s k i = true → k ≠ 10 → (unitOf s k i).draining = true →
    Ends (.drainWindowExpiry k i) s fun t => (unitOf t k i).draining = false ∧ (unitOf t k i).expired = true ∧
      ((unitOf t k i).reasons.testBit 1 = true → (unitOf t k i).inReset = true) ∧
      ((unitOf s k i).reasons = 0 → k ≠ 11 → (unitOf t k i).reasons = 2) ∧
      ∀ j, (tget {} (unitOf t k i).slots j).busy = false) ∧
  (∀ (k i n gen fgen : Nat) (way : Option (Nat × Nat)) (s : Machine.State), i < 2 ^ 16 →
    let quietly := fun t : Machine.State => t = { s with regs := t.regs, sil := t.sil, out := t.out, fns := t.fns }
    ((∀ w, way = some w → staleFlit s w.1 w.2 = false) →
      (tagOk s k i n gen fgen = true → (k ≠ 3 ∨ fetchOf s i (n / 32) (n % 32) = none) →
        Ends (.taggedReply k i n gen fgen way) s fun t =>
          t = { s with units := t.units, vctx := t.vctx, vready := t.vready } ∧
          tget {} (unitOf t k i).slots n = { gen := (gen + 1) % 256, busy := false } ∧
          (∀ j, j ≠ n → tget {} (unitOf t k i).slots j = tget {} (unitOf s k i).slots j) ∧
          (∀ k' i', i' < 2 ^ 16 → (k', i') ≠ (k, i) → unitOf t k' i' = unitOf s k' i') ∧
          (k ≠ 3 → t.vctx = s.vctx ∧ t.vready = s.vready)) ∧
      (∀ f, tagOk s k i n gen fgen = true → k = 3 → fetchOf s i (n / 32) (n % 32) = some f → undebugged s = true →
        noRoom s i (fetched s i (n / 32) f) = false →
        exec (.taggedReply k i n gen fgen way) s =
          exec (.slotArrival i (n / 32) f.slot 0 0 [] (.fetch false (n % 32) gen fgen)) s) ∧
      (tagOk s k i n gen fgen = false → Ends (.taggedReply k i n gen fgen way) s fun t =>
        quietly t ∧ Machine.rb t .RST_STAT 6 = true ∧
        (rd t .RST_LATE_DROP_CNT).toNat = ((rd s .RST_LATE_DROP_CNT).toNat + 1) % 2 ^ 32 ∧ Logged 3 0xA s t)) ∧
    (∀ w, way = some w → (xOf s w.1).closed = true → w.2 % 16 = (xOf s w.1).epoch % 16 →
      Ends (.taggedReply k i n gen fgen way) s fun t => quietly t ∧ Machine.rb t .RST_STAT 7 = true ∧
        (rd t .RST_XRESET_CNT).toNat = ((rd s .RST_XRESET_CNT).toNat + 1) % 2 ^ 32 ∧ Logged 3 0xB s t)) ∧
  (∀ (k i : Nat) (work : List (Nat × Nat)) (s : Machine.State), unitExists s k i = true → k ≠ 3 → k ≠ 10 → k ≠ 11 → undebugged s = true →
    (unitOf s k i).isolated = false →
    (silUp s = false → Ends (.stallMonitorHang k i work) s fun t =>
      t = { s with units := t.units, regs := t.regs, sil := t.sil, out := t.out, fns := t.fns } ∧
      unitOf t k i = { unitOf s k i with hung := true } ∧ Machine.rb t .RST_STAT 5 = true ∧
      (rd t .RST_HANG_CNT).toNat = ((rd s .RST_HANG_CNT).toNat + 1) % 2 ^ 32 ∧ Logged 3 1 s t) ∧
    (silUp s = true → largerReset s k i = false → (unitOf s k i).fence = false → (unitOf s k i).inReset = false →
      Ends (.stallMonitorHang k i work) s fun t => (unitOf t k i).reasons = 2 ∧ (unitOf t k i).draining = true ∧
        (unitOf t k i).cause = 2 ∧ Machine.rb t .RST_STAT 5 = true ∧ (noneHeld s = true → SameMem s t))) ∧
  (∀ (cl : Nat) (work : List (Nat × Nat)) (s : Machine.State), cl < 384 → dieOn s (cl / 48) = true → undebugged s = true →
    (unitOf s 3 cl).isolated = false →
    (hungWork s cl work = [] → Ends (.stallMonitorHang 3 cl work) s fun t => t = s) ∧
    (∀ n pc, (n, pc) ∈ hungWork s cl work → (vctxOf s cl n).state ≠ 0 → silUp s = false →
      Ends (.stallMonitorHang 3 cl work) s fun t =>
        (vctxOf t cl n).state = 5 ∧ (vctxOf t cl n).fault = 0x09 ∧ Machine.rb t .VEC_STAT 0 cl = true ∧
        (unitOf t 3 cl).hung = true ∧ Machine.rb t .RST_STAT 5 = true ∧
        (hungWork s cl work = [(n, pc)] → (rd t .VEC_LAST_FAULT_PC cl).toNat = pc % 2 ^ 14)) ∧
    (∀ n, (∀ pc, (n, pc) ∉ hungWork s cl work) → silUp s = false →
      Ends (.stallMonitorHang 3 cl work) s fun t => vctxOf t cl n = vctxOf s cl n)) ∧
  (∀ (k i : Nat) (s : Machine.State), unitExists s k i = true → k ≠ 10 → (unitOf s k i).inReset = true →
    ((∃ x ∈ unitXings s k i, (xOf s x).closed = true) → Ends (.engineResetComplete k i) s fun t => t = s) ∧
    ((∀ x ∈ unitXings s k i, (xOf s x).closed = false) →
    (silUp s = false → Ends (.engineResetComplete k i) s fun t => t = { s with units := t.units } ∧
      unitOf t k i = { unitOf s k i with ended := some s.now } ∧
      ∀ k' i', i' < 2 ^ 16 → (k', i') ≠ (k, i) → unitOf t k' i' = unitOf s k' i') ∧
    (silUp s = true → takenOver s k i = true → Ends (.engineResetComplete k i) s fun t => t = s) ∧
    (silUp s = true → takenOver s k i = false → s.now ≤ (unitOf s k i).fencedAt + 10000000 →
    ((unitOf s k i).resets.filter fun t => decide (s.now ≤ t + 10000000000)).length < 2 →
    let ok := fun (t : Machine.State) => (unitOf t k i).inReset = false ∧ (unitOf t k i).reasons.testBit 1 = false ∧
      (unitOf t k i).hung = false ∧ (unitOf t k i).resets.head? = some s.now ∧ Machine.rb t .RST_STAT 0 = true ∧
      (∀ n r, n < 12288 → r ∈ tileActivity → within s k i 0 n = true → rd t r n = resetOf r n) ∧
      (∀ n r, n < 384 → r ∈ accActivity → within s k i 1 n = true → rd t r n = resetOf r n) ∧
      (∀ n r, n < 384 → r ∈ glzActivity → within s k i 2 n = true → rd t r n = resetOf r n) ∧
      (∀ n r, n < 384 → r ∈ vecActivity → within s k i 3 n = true → rd t r n = resetOf r n) ∧
      ∀ n, n < 12288 → within s k i 0 n = true → Machine.rb t .TILE_CFG 31 n = Machine.rb s .TILE_CFG 31 n
    Ends (.engineResetComplete k i) s ok ∧ (k = 3 → (unitOf s 3 i).cause = 6 → Ends (.vecEngineResetComplete i) s ok)))) ∧
  (∀ (k i : Nat) (s : Machine.State), unitExists s k i = true → k ≠ 10 → (unitOf s k i).reasons.testBit 1 = true →
    silUp s = true → (unitOf s k i).ended = none →
    (takenOver s k i = true → Ends (.engineResetBoundExpiry k i) s fun t => t = s) ∧
    (takenOver s k i = false → s.ctxs = [] → s.cmds = [] → s.binds = [] → Ends (.engineResetBoundExpiry k i) s fun t =>
      (unitOf t k i).reasons.testBit 7 = true ∧ (unitOf t k i).reasons.testBit 1 = false ∧ (unitOf t k i).isolated = true ∧
      (unitOf t k i).inReset = false ∧ (unitOf t k i).draining = false))

/-- O22. Clocks are measured against their windows, fail to their safe states, and peripheral clocks stop and start (R462, R563,
R564, R565, R566, R568, R569, R570, R571, R605).
While the crystal is VALID, a count of another VALID source inside its window leaves it VALID; one outside sets CLK_EVT[6] and
is logged, and the second in succession makes the source FAILED; a LOST source becomes FAILED with its next count, and a
failed one VALID again with the tenth count in window. No edge for 500 ns makes a source LOST and puts it into its safe state:
the link down, the ports squelched, the channels held, or for the crystal a held cold reset with cause 12. The RC oscillator
is LOST and VALID again. CLK_GATE takes the bits of its mask, ports of a stopped Ethernet clock lose their link, and the
monitor ADC its state. (Rests on the model's choices of log entries 70, 71, 88.) -/
def Obligations.ClockEvents : Prop :=
  (∀ (src n : Nat) (s : Machine.State), src < 4 → clkState s 4 = 2 →
    let c := tget {} s.clks src
    (clkState s src = 2 → clkInWindow s src n = true → Ends (.clockMeasurement src n) s fun t =>
      t = { s with clks := t.clks } ∧ tget {} t.clks src = { c with dev := ppmOf src n, good := c.good + 1, outs := 0 }) ∧
    (clkState s src = 2 → clkInWindow s src n = false → c.outs = 0 → Ends (.clockMeasurement src n) s fun t =>
      t = { s with clks := t.clks, regs := t.regs, sil := t.sil, out := t.out, fns := t.fns } ∧
      tget {} t.clks src = { c with dev := ppmOf src n, good := 0, outs := 1 } ∧ clkState t src = 2 ∧
      Machine.rb t .CLK_EVT 6 = true ∧ Logged 6 2 s t) ∧
    (clkState s src = 2 → clkInWindow s src n = false → 0 < c.outs → (src = 1 ∨ src = 2) →
      Ends (.clockMeasurement src n) s fun t => clkState t src = 4 ∧ (tget {} t.clks src).fell = true ∧
        ∀ p ∈ clockPorts (src - 1), portMade s p = true → rf t .NET_PORT_STAT 1 0 p = 3) ∧
    (clkState s src = 3 → Ends (.clockMeasurement src n) s fun t => t = { s with clks := t.clks, regs := t.regs } ∧
      clkState t src = 4 ∧ tget {} t.clks src = { c with dev := ppmOf src n, good := 0, outs := 0, fell := true } ∧
      SameRegs [(.CLK_STAT, 0)] s t) ∧
    ((clkState s src = 4 ∨ clkState s src = 5) → clkInWindow s src n = true →
      (c.good < 9 → Ends (.clockMeasurement src n) s fun t => t = { s with clks := t.clks, regs := t.regs } ∧
        clkState t src = 5 ∧ (tget {} t.clks src).good = c.good + 1 ∧ SameRegs [(.CLK_STAT, 0)] s t) ∧
      (9 ≤ c.good → src ≠ 3 → Ends (.clockMeasurement src n) s fun t => clkState t src = 2 ∧ SameMem s t ∧
        t.cmds = s.cmds))) ∧
  (∀ (src : Nat) (s : Machine.State), src < 5 → clkState s src ≠ 3 → clkState s src ≠ 4 →
    Ends (.clockEdgeLoss src) s fun t =>
      (src = 0 → t.pcie.linkUp = false) ∧
      ((src = 1 ∨ src = 2) → clkState t src = 3 ∧ Machine.rb t .CLK_EVT src = true ∧
        ∀ p ∈ clockPorts (src - 1), portMade s p = true → rf t .NET_PORT_STAT 1 0 p = 3) ∧
      (src = 3 → ∀ c, c < 64 → (tget {} t.hbm c).state = 3) ∧
      (src = 4 → clkState t 4 = 3 ∧ t.pkg.coldRunning = true ∧ t.board.xtalHeld = true ∧ rf t .RST_WARM_CAUSE 3 0 = 12)) ∧
  (∀ (s : Machine.State), Ends .rcOscillatorLoss s fun t =>
      t = { s with regs := t.regs, sil := t.sil, out := t.out, fns := t.fns } ∧ clkState t 5 = 3 ∧
      Machine.rb t .CLK_EVT 5 = true ∧ Logged 6 4 s t) ∧
  (∀ (s : Machine.State), Ends .rcOscillatorRecovered s fun t => t = { s with regs := t.regs } ∧
      clkState t 5 = (if clkState s 5 = 3 then 2 else clkState s 5) ∧ SameRegs [(.CLK_STAT, 0)] s t) ∧
  (∀ (src : Src) (v : Word) (s : Machine.State), Ends (.clkGateWrite src v) s fun t =>
      (∀ b, b < 5 → Machine.rb t .CLK_GATE b = (if v.toNat.testBit (16 + b) then v.toNat.testBit b else Machine.rb s .CLK_GATE b)) ∧
      (v.toNat.testBit 18 = true → Machine.rb s .CLK_GATE 2 ≠ v.toNat.testBit 2 → t.madc = {}) ∧
      (∀ b, b < 2 → v.toNat.testBit (16 + b) = true → v.toNat.testBit b = false → Machine.rb s .CLK_GATE b = true →
        ∀ p ∈ clockPorts b, portMade s p = true → rf t .NET_PORT_STAT 1 0 p = 0) ∧ SameMem s t)

/-- O23. The governor samples and steps, codes are repeated on the bus, domains switch, and a partition's power is requested (R46,
R48, R572, R573, R574, R575, R587, R591, R640).
Each code repetition sends one frame for every die and the hub, and VR_ALERT sets HUB_BRD_EVT[5] as well. A governor sample
keeps the sensed powers of the last 100 samples and shows their means in PWR_NOW; with the array above its budget, every
unheld die above its share whose pool is above 93 tokens loses 93, in one counted step. A domain that has switched stands
where it is wanted; one that has not starts a warm reset, once the members of its jobs have been told. Setting a PWR_PT_REQ bit of an idle partition fences it with reason
POWER, of a busy one it is refused with PWR_EVT[0]; clearing the bit of a partition that is off starts its buffer-die domains.
(Rests on the model's choices of log entries 21, 22, 72.) -/
def Obligations.PowerEvents : Prop :=
  (∀ (s : Machine.State), s.board.xtalHeld = false →
    let frames := fun (s : Machine.State) => Msg.vrFrame (vrFrame 8 6) ::
      ((List.range 8).map fun d => Msg.vrFrame (vrFrame d (if s.board.perst then 6 else vcodeOf s d))).reverse
    (Ends .vrCodeRepeat s fun t => t = { s with out := frames s ++ s.out }) ∧
    (Ends .vrAlert s fun t => t = { s with regs := t.regs, sil := t.sil, out := t.out, fns := t.fns } ∧
      Machine.rb t .HUB_BRD_EVT 5 = true ∧ t.out.take 9 = frames s ∧ Logged 6 0x10 s t)) ∧
  (∀ (vana vcore others : List Nat) (vprog : Nat) (s : Machine.State), s.board.xtalHeld = false → s.gov.n < 100 →
    let on := (List.range 8).filter (dieOn s)
    let arr := (on.map fun d => vana.getD d 0).sum + vprog
    let pkg := arr + (on.map fun d => vcore.getD d 0).sum + others.sum
    let hist := ((pkg, arr) :: s.gov.hist).take 100
    let proj := s.gov.arr + ((on.map fun d => raised (vana.getD d 0)).sum + raised vprog) * (100 - s.gov.n)
    Ends (.governorSample vana vcore vprog others) s fun t => t.gov.hist = hist ∧ t.gov.n = (s.gov.n + 1) % 100 ∧
      rf t .PWR_NOW 15 0 = (hist.map (·.1)).sum / hist.length % 65536 ∧
      rf t .PWR_NOW 31 16 = (hist.map (·.2)).sum / hist.length % 65536 ∧
      (rf s .PWR_BUDGET 25 16 * 80000 < proj →
        let hit := fun d => d < 8 ∧ d ∈ govDies s ∧ rf s .PWR_BUDGET 25 16 * 800 < raised (vana.getD d 0) * on.length ∧
          93 < (poolOf s d).size
        (∀ d, hit d → (poolOf t d).size = max 93 ((poolOf s d).size - 93)) ∧ (∀ d, ¬ hit d → poolOf t d = poolOf s d) ∧
        t.vcode = s.vcode ∧ ((∃ d, hit d) → rf t .PWR_GOV_CNT 15 0 = (rf s .PWR_GOV_CNT 15 0 + 1) % 65536)) ∧
      SameMem s t ∧ t.cmds = s.cmds) ∧
  (∀ (n : Nat) (s : Machine.State), tget 0 s.pd n = 2 →
    ((∀ p, tget 0 s.ptPower p = 0) → Ends (.domainSwitchDone n true) s fun t => t = { s with pd := t.pd } ∧
      tget 0 t.pd n = b2n (pdWant s n) ∧ ∀ m, m ≠ n → tget 0 t.pd m = tget 0 s.pd m) ∧
    (s.pkg = {} → mustTell s 8 = false → Ends (.domainSwitchDone n false) s fun t =>
      t.pkg.warmRunning = true ∧ t.pkg.cause = 8) ∧
    (s.pkg = {} → mustTell s 8 = true → Ends (.domainSwitchDone n false) s fun t => t.pkg.warmRunning = false ∧
      ∃ k, t.pkg.next = some (false, 8, 10, k, true))) ∧
  (∀ (src : Src) (p : Nat) (s : Machine.State), p < 8 → Machine.rb s .PWR_PT_REQ p = false → tget 0 s.ptPower p = 0 →
    (pdRefused s p = true → Ends (.partitionPowerDown src (BitVec.ofNat 32 (2 ^ (16 + p) + 2 ^ p))) s fun t =>
      t = { s with regs := t.regs, sil := t.sil, out := t.out, fns := t.fns } ∧ Machine.rb t .PWR_PT_REQ p = false ∧
      Machine.rb t .PWR_EVT 0 = true ∧ ∀ q, q < 8 → Machine.rb t .PWR_PT_REQ q = Machine.rb s .PWR_PT_REQ q) ∧
    (pdRefused s p = false → (unitOf s 10 p).fence = false →
      Ends (.partitionPowerDown src (BitVec.ofNat 32 (2 ^ (16 + p) + 2 ^ p))) s fun t =>
        Machine.rb t .PWR_PT_REQ p = true ∧ tget 0 t.ptPower p = 1 ∧ (unitOf t 10 p).reasons = 4 ∧
        (unitOf t 10 p).draining = true ∧ ∀ q, q ≠ p → tget 0 t.ptPower q = tget 0 s.ptPower q)) ∧
  (∀ (src : Src) (p : Nat) (s : Machine.State), ptExists s p = true → Machine.rb s .PWR_PT_REQ p = true →
    tget 0 s.ptPower p = 1 → (∀ n ∈ pdAna s p ++ pdDig s p ++ pdBuf s p, tget 0 s.pd n = 0) →
    ((diesOfPt s p).all fun d => !s.board.rails.contains d && !s.board.rails.contains (9 + d)) = true →
    Ends (.partitionPowerUp src (BitVec.ofNat 32 (2 ^ (16 + p)))) s fun t => Machine.rb t .PWR_PT_REQ p = false ∧
      tget 0 t.ptPower p = 2 ∧ (∀ n ∈ pdBuf s p, tget 0 t.pd n = 2) ∧ ∀ n, n ∉ pdBuf s p → tget 0 t.pd n = tget 0 s.pd n)

/-- O24. Thermometers are read and trip, a thermal fence is released, and board channels are converted and judged (R173, R476,
R578, R580, R583, R585, R586, R603).
A thermometer sample takes every reading of a thermometer that is present, keeps the last where one gives none, and gives each
bay of an enabled die its temperature; where two good thermometers of a group exceed 115 °C the package trips: THERMTRIP_N is
asserted and RST_WARM_CAUSE shows 11; a tripped package whose hub has cooled while PERST_N is asserted begins a cold reset. When no rate has reached CONE_A for C_HOLD × 10 ms, the reason THERMAL of the bay
goes; a bay whose drain window had expired, and which has no other reason, is then reset. A valid, settled, fresh result of a board
channel in use is converted, shown in THM_BRD and judged against HI, above which THM_STAT[5] is set. (Rests on the
model's choices of log entries 73, 74.) -/
def Obligations.ThermalEvents : Prop :=
  (∀ (temps : List (Option Int)) (s : Machine.State),
    let cool := s.board.tripped && s.board.perst && hubCool (readThermos temps s)
    (cool = true → Ends (.thermometerSample temps) s fun t => t.board.tripped = false ∧ t.pkg.coldRunning = true ∧
      Msg.pin .thermtripN true ∈ t.out ∧ rf t .RST_WARM_CAUSE 3 0 = 11) ∧
    (cool = false → Ends (.thermometerSample temps) s fun t =>
    (∀ i, i < 236 → (thermoOf t i).valid = (thermoHere s i && (temps.getD i none).isSome) ∧
      (thermoOf t i).temp = (if thermoHere s i then (temps.getD i none).getD (thermoOf s i).temp else (thermoOf s i).temp)) ∧
    (tripFires (readThermos temps s) = false →
      (∀ b x, b < 48 → dieOn s (b / 6) = true → bayTempOf (readThermos temps s) b = some x → tget 0 t.bayT b = x) ∧
      t.board = s.board ∧ t.fuses = s.fuses) ∧
    (tripFires (readThermos temps s) = true → s.board.tripped = false → t.board.tripped = true ∧ t.board.cause = 11 ∧
      rf t .RST_WARM_CAUSE 4 0 = 11 ∧ Machine.rb t .HUB_BOOT_STAT 4 = false ∧ Msg.pin .thermtripN false ∈ t.out ∧
      t.cmds = [] ∧ t.ctxs = [] ∧ ∀ n, n < 23 → tget 0 t.pd n = 0))) ∧
  (∀ (b : Nat) (s : Machine.State), b < 48 → (unitOf s 8 b).reasons.testBit 4 = true →
    (tget {} s.cones b).atA - 1 + rf s .THM_CTRL2 7 0 * 10000000 ≤ s.now → Ends (.thermalReleaseExpiry b) s fun t =>
      t = { s with units := t.units, cone := t.cone, cones := t.cones } ∧ tget 0 t.cone b = 0 ∧
      ((unitOf s 8 b).expired = false →
        unitOf t 8 b = { unitOf s 8 b with reasons := setBits (unitOf s 8 b).reasons 4 4 0 }) ∧
      ((unitOf s 8 b).expired = true → (unitOf s 8 b).reasons = 16 →
        (unitOf t 8 b).reasons = 2 ∧ (unitOf t 8 b).inReset = true ∧ (unitOf t 8 b).fencedAt = s.now) ∧
      (∀ k i, i < 2 ^ 16 → (k, i) ≠ (8, b) → unitOf t k i = unitOf s k i)) ∧
  (∀ (n : Nat) (x : ℚ) (s : Machine.State), n < 4 → rf s .THM_BRD 1 0 n ≠ 0 → Machine.rb s .CLK_GATE 2 = true →
    Machine.rb s .THM_BRD 28 n = false →
    let w := rd s .MADC_DATA (24 + n)
    w.getLsbD 18 = true → w.getLsbD 14 = false → w.getLsbD 15 = false →
    boardTemp (rf s .THM_BRD 1 0 n) (fld w 11 0) (rd s .MADC_BRD_PAR n).toNat = some x →
    Ends (.boardChannelRead n) s fun t =>
      (-2048 ≤ rneRat (16 * x) → rneRat (16 * x) < 2048 → rf t .THM_BRD 27 16 n = toTwos 12 (rneRat (16 * x))) ∧
      t.board.brdHi.testBit n = decide ((rf s .THM_BRD 11 4 n : ℚ) < x) ∧
      t.board.brdAct.testBit n = (decide ((rf s .THM_BRD 11 4 n : ℚ) < x) && Machine.rb s .THM_BRD 2 n) ∧
      (∀ m, m ≠ n → t.board.brdHi.testBit m = s.board.brdHi.testBit m ∧
        t.board.brdAct.testBit m = s.board.brdAct.testBit m) ∧
      ((rf s .THM_BRD 11 4 n : ℚ) < x → Machine.rb t .THM_STAT 5 = true) ∧
      SameMem s t ∧ t.cmds = s.cmds ∧ t.units = s.units)

/-- O25. Requests of the monitor ADC queue, start and abort; conversions, open-wire tests, timeouts and calibrations end (R597,
R598, R599, R601, R604, R605, R607, R609, R611).
With its clock running, a request of a channel that is present starts on a free converter, waits in its queue while another
conversion runs, is dropped with MADC_STAT[18] where eight wait, and, urgent, aborts a normal conversion of another channel
from 2 up, which goes back to the head. A conversion writes its rounded, clipped code with VALID and counts; the second of two
open-wire tests is judged. A conversion that gives no result is repeated once, then its VALID is cleared, and Silset
stops and starts the clock. A due calibration marks every channel STALE; its end takes the present temperature, and where it
failed the channels show the STALE they had. OW_AUTO tests no channel where its mask is empty. (Rests
on the model's choices of log entry 75.) -/
def Obligations.MonitorConverterEvents : Prop :=
  (∀ (src : Src) (v : Word) (s : Machine.State), Machine.rb s .CLK_GATE 2 = true →
    let r : AdcReq := { ch := bitsOf v.toNat 4 0, urgent := v.toNat.testBit 8, pull := bitsOf v.toNat 10 9 }
    r.pull ≠ 3 → adcHere s r.ch = true →
    let each := fun (P : Machine.State → Prop) =>
      Ends (.conversionRequest src v) s P ∧ Ends (.openWireTestRequest src v) s P
    (s.madc.run = none → s.madc.urgent = [] → s.madc.normal = [] → s.madc.cal = false → each fun t =>
      t = { s with madc := { s.madc with run := some r }, regs := t.regs } ∧ SameRegs [(.MADC_CHSEL, 0)] s t ∧
      rf t .MADC_CHSEL 4 0 = r.ch ∧ rf t .MADC_CHSEL 10 9 = r.pull) ∧
    (r.urgent = false → 8 ≤ s.madc.normal.length → each fun t => t.madc = s.madc ∧ Machine.rb t .MADC_STAT 18 = true ∧
      Logged 6 0x14 s t ∧ SameMem s t) ∧
    (r.urgent = false → s.madc.normal.length < 8 → s.madc.run ≠ none → each fun t =>
      t = { s with madc := { s.madc with normal := s.madc.normal ++ [r] }, regs := t.regs }) ∧
    (∀ x, r.urgent = true → s.madc.run = some x → x.urgent = false → x.ch ≠ r.ch → 2 ≤ x.ch → s.madc.urgent = [] →
      each fun t => t = { s with madc := { s.madc with run := some r, normal := x :: s.madc.normal, both := false, rep := false },
                                 regs := t.regs } ∧
        (rd t .MADC_ABORT_CNT).toNat = ((rd s .MADC_ABORT_CNT).toNat + 1) % 2 ^ 32)) ∧
  (∀ (v : Int) (r : AdcReq) (s : Machine.State), s.madc.run = some r → r.ch < 32 →
    (r.pull = 0 → Ends (.conversionComplete v) s fun t =>
      rf t .MADC_DATA 11 0 r.ch = (if v < -500 then 0 else if 4095500 ≤ v then 4095 else ((v + 500) / 1000).toNat) ∧
      Machine.rb t .MADC_DATA 12 r.ch = decide (v < -500) ∧ Machine.rb t .MADC_DATA 13 r.ch = decide (4095500 ≤ v) ∧
      Machine.rb t .MADC_DATA 14 r.ch = decide (0 < s.madc.settle) ∧ Machine.rb t .MADC_DATA 15 r.ch = false ∧
      Machine.rb t .MADC_DATA 18 r.ch = true ∧ rf t .MADC_DATA 31 24 r.ch = (rf s .MADC_DATA 31 24 r.ch + 1) % 256 ∧
      (rd t .MADC_CONV_CNT).toNat = ((rd s .MADC_CONV_CNT).toNat + 1) % 2 ^ 32 ∧
      (v < -500 → Machine.rb t .MADC_STAT 16 = true) ∧ (4095500 ≤ v → Machine.rb t .MADC_STAT 17 = true) ∧
      (∀ c, c < 32 → c ≠ r.ch → rd t .MADC_DATA c = rd s .MADC_DATA c) ∧
      t.madc.settle = (if v < -500 ∨ 4095500 ≤ v then 2 else s.madc.settle - 1) ∧ SameMem s t) ∧
    (r.pull = 1 → tget 0 s.madc.pd r.ch ≠ 0 → Ends (.conversionComplete v) s fun t =>
      let u := (adcCode v).1
      let d := tget 0 s.madc.pd r.ch - 1
      Machine.rb t .MADC_DATA 16 r.ch = (decide (0xFF0 ≤ u) && decide (d ≤ 0xF)) ∧
      Machine.rb t .MADC_DATA 17 r.ch = decide (u ≤ 0xF) ∧ rf t .MADC_DATA 15 0 r.ch = rf s .MADC_DATA 15 0 r.ch ∧
      tget 0 t.madc.pd r.ch = 0)) ∧
  (∀ (r : AdcReq) (s : Machine.State), s.madc.run = some r → r.ch < 32 →
    (s.madc.rep = false → Ends .conversionTimeout s fun t => t = { s with madc := { s.madc with rep := true } }) ∧
    (s.madc.rep = true → Ends .conversionTimeout s fun t => Machine.rb t .MADC_DATA 18 r.ch = false ∧
      Machine.rb t .MADC_STAT 20 = true ∧ SameMem s t ∧
      (silUp s = false → t.madc = adcNext { s.madc with run := none, both := false, rep := false } ∧ Logged 6 0x17 s t) ∧
      (silUp s = true → t.madc = {} ∧ Machine.rb t .CLK_GATE 2 = true))) ∧
  (∀ (bisque : Bool) (s : Machine.State), s.madc.cal = false → Machine.rb s .CLK_GATE 2 = true →
    (bisque || adcCalDue s) = true → Ends (.madcCalibration bisque) s fun t =>
      t = { s with madc := { s.madc with cal := true, stale := (List.range 32).filter fun c => Machine.rb s .MADC_DATA 15 c },
                   regs := t.regs } ∧
      (∀ c, c < 32 → Machine.rb t .MADC_DATA 15 c = true ∧ rf t .MADC_DATA 14 0 c = rf s .MADC_DATA 14 0 c) ∧
      ∀ r i, i < 2 ^ 20 → r ≠ .MADC_DATA → rd t r i = rd s r i) ∧
  (∀ (ok : Bool) (s : Machine.State), s.madc.cal = true → s.madc.run = none → Ends (.madcCalibrationDone ok) s fun t =>
    t.madc = adcNext { s.madc with cal := false, calAt := s.now, calTemp := hubTemp s, stale := [] } ∧
    (∀ c, c < 32 → Machine.rb t .MADC_DATA 15 c = (ok || (Machine.rb s .MADC_DATA 15 c && s.madc.stale.contains c))) ∧
    (ok = false → Machine.rb t .MADC_STAT 19 = true ∧ Logged 6 0x16 s t) ∧ SameMem s t ∧ t.cmds = s.cmds) ∧
  (∀ (s : Machine.State), Machine.rb s .MADC_CTRL 16 = true → silUp s = true →
    ((rd s .MADC_OW_MASK).toNat = 0 → Ends .owAutoTest s fun t => t = s) ∧
    (∀ ch, (rd s .MADC_OW_MASK).toNat = 2 ^ ch → adcHere s ch = true → Machine.rb s .CLK_GATE 2 = true → s.madc.run = none →
      s.madc.urgent = [] → s.madc.normal = [] → s.madc.cal = false → Ends .owAutoTest s fun t =>
        t.madc = { s.madc with run := some { ch := ch, pull := 1 }, normal := [{ ch := ch, pull := 2 }] } ∧
        t = { s with madc := t.madc, regs := t.regs }))

/-- O26. Board inputs are filtered and acted on, supplies fail and recover, and the start-up advances phase by phase (R481, R577,
R586, R644, R645, R646, R647, R648, R649, R650).
PERST_N asserted starts a warm reset with cause 10 from READY, lets a start-up that runs begin again, and starts a cold reset of a cool
tripped package; released, it shows so. ALERT_IN_N and THERM_IN_N show their level and set their event bits. Every change begins a hold; one in a hold is deferred
with HUB_BRD_EVT[3] until it ends. An input active for 1 s is masked, a glitch sets HUB_BRD_EVT[2]. A rail below its trip sets
HUB_BRD_EVT[6]; VCORE_H or VIO start a cold start in phase HELD, which ends when the last rail recovers. Power-on samples the
straps. Each phase of the start-up whose work is done gives way to the next, the last to READY. The link comes up where clock,
supply and phase allow. (Rests on the model's choices of log entries 6, 76, 84.) -/
def Obligations.BoardEvents : Prop :=
  (∀ (s : Machine.State), 2 ∉ s.board.holding → s.board.perst = false →
    (s.board.tripped = false → s.pkg.coldRunning = false → s.pkg.warmRunning = false → Ends .perstNAssert s fun t =>
      t.board = { s.board with perst := true, holding := 2 :: s.board.holding } ∧ t.pkg.warmRunning = true ∧
      rf t .RST_WARM_CAUSE 4 0 = 10 ∧ (rd t .RST_WARM_CNT).toNat = ((rd s .RST_WARM_CNT).toNat + 1) % 2 ^ 32 ∧
      Machine.rb t .HUB_BOOT_STAT 4 = false ∧ t.cmds = [] ∧ t.ctxs = [] ∧ t.mem = [] ∧
      (s.rwb = [] → s.strobes = [] → Logged 6 (Config.catalogue 6 0).toNat s t)) ∧
    (s.board.tripped = false → s.pkg.coldRunning = true → 2 < phase s → phase s ≠ 8 → Ends .perstNAssert s fun t =>
      phase t = 2 ∧ t.pkg = s.pkg ∧ t.board = { s.board with perst := true, holding := 2 :: s.board.holding } ∧ t.cmds = []) ∧
    (s.board.tripped = false → s.pkg.coldRunning = false → s.pkg.warmRunning = true → Ends .perstNAssert s fun t =>
      phase t = 3 ∧ t.pkg = s.pkg ∧ t.board = { s.board with perst := true, holding := 2 :: s.board.holding } ∧
      rd t .RST_WARM_CNT = rd s .RST_WARM_CNT ∧ t.cmds = []) ∧
    (s.board.tripped = true → hubCool s = true → Ends .perstNAssert s fun t => t.board.tripped = false ∧
      t.pkg.coldRunning = true ∧ Msg.pin .thermtripN true ∈ t.out ∧ rf t .RST_WARM_CAUSE 3 0 = 11)) ∧
  (∀ (s : Machine.State), 2 ∉ s.board.holding → s.board.perst = true → s.board.tripped = false →
    Ends .perstNRelease s fun t =>
      t = { s with board := { s.board with perst := false, holding := 2 :: s.board.holding } }) ∧
  (∀ (i : Nat) (up : Instr) (dn : Instr) (s : Machine.State),
    (i, up, dn) ∈ [(0, Instr.alertInAssert, Instr.alertInRelease), (1, Instr.thermInAssert, Instr.thermInRelease)] →
    Machine.rb s .HUB_BRD_IN (2 + i) = false →
    (i ∉ s.board.holding → Machine.rb s .HUB_BRD_IN i = false → Ends up s fun t =>
      Machine.rb t .HUB_BRD_IN i = true ∧ Machine.rb t .HUB_BRD_EVT i = true ∧
      t.board = { s.board with holding := i :: s.board.holding } ∧ SameMem s t ∧ t.cmds = s.cmds ∧ t.units = s.units) ∧
    (i ∉ s.board.holding → Machine.rb s .HUB_BRD_IN i = true → Ends dn s fun t =>
      t = { s with regs := t.regs, board := { s.board with holding := i :: s.board.holding } } ∧
      Machine.rb t .HUB_BRD_IN i = false ∧ SameRegs [(.HUB_BRD_IN, 0)] s t) ∧
    (i ∈ s.board.holding → Ends up s fun t => tget 0 t.board.deferred i = 2 ∧ Machine.rb t .HUB_BRD_EVT 3 = true ∧
      rd t .HUB_BRD_IN = rd s .HUB_BRD_IN ∧ Logged 6 0x11 s t)) ∧
  (∀ (i : Nat) (still : Bool) (s : Machine.State), i < 2 → i ∈ s.board.holding → s.board.holding.Nodup →
    Machine.rb s .HUB_BRD_IN (2 + i) = false → Ends (.boardInputHoldExpiry i still) s fun t =>
      Machine.rb t .HUB_BRD_IN i = (if still && decide (tget 0 s.board.deferred i ≠ 0) then
        decide (tget 0 s.board.deferred i = 2) else Machine.rb s .HUB_BRD_IN i) ∧ tget 0 t.board.deferred i = 0 ∧
      (tget 0 s.board.deferred i = 0 → t = { s with board := t.board } ∧ i ∉ t.board.holding)) ∧
  (∀ (i : Nat) (s : Machine.State), i < 2 → Machine.rb s .HUB_BRD_IN i = true → Ends (.boardInputStuck i) s fun t =>
    t = { s with regs := t.regs, sil := t.sil, out := t.out, fns := t.fns } ∧ Machine.rb t .HUB_BRD_IN i = false ∧
    Machine.rb t .HUB_BRD_IN (2 + i) = true ∧ Machine.rb t .HUB_BRD_EVT 4 = true ∧ Logged 6 0x11 s t) ∧
  (∀ (i : Nat) (s : Machine.State), Ends (.boardInputGlitch i) s fun t =>
    t = { s with regs := t.regs, sil := t.sil, out := t.out, fns := t.fns } ∧ Machine.rb t .HUB_BRD_EVT 2 = true ∧
    rd t .HUB_BRD_IN = rd s .HUB_BRD_IN ∧ Logged 6 0x11 s t) ∧
  (∀ (r : Nat) (s : Machine.State), r < 23 → r ∉ s.board.rails →
    (r = 8 ∨ r = 18 → Ends (.supplyUndervoltage r) s fun t => t.pkg.coldRunning = true ∧ phase t = 8 ∧
      t.board.rails = r :: s.board.rails ∧ rf t .RST_WARM_CAUSE 3 0 = 14 ∧ Machine.rb t .HUB_BRD_EVT 6 = true) ∧
    (r = 17 → s.progs = [] → Ends (.supplyUndervoltage r) s fun t =>
      t = { s with board := { s.board with rails := 17 :: s.board.rails }, regs := t.regs, sil := t.sil, out := t.out,
                   fns := t.fns } ∧ Machine.rb t .HUB_BRD_EVT 6 = true ∧ Logged 6 0xF s t) ∧
    ((r = 19 ∨ r = 20) → Ends (.supplyUndervoltage r) s fun t => r ∈ t.board.rails ∧ t.pcie.linkUp = false) ∧
    ((r = 21 ∨ r = 22) → Ends (.supplyUndervoltage r) s fun t => r ∈ t.board.rails ∧
      ∀ c, c < 64 → (tget {} t.hbm c).state = 3) ∧
    (∀ d, d < 8 → (r = d ∨ r = 9 + d) → dieOn s d = true → tget 0 s.ptPower (ptOfDie s d) = 0 →
      Ends (.supplyUndervoltage r) s fun t => r ∈ t.board.rails ∧ tget 0 t.ptPower (ptOfDie s d) = 1)) ∧
  (∀ (r : Nat) (s : Machine.State), s.board.rails = [r] →
    (phase s = 8 → Ends (.supplyRecovered r) s fun t => t = { s with board := { s.board with rails := [] }, regs := t.regs } ∧
      phase t = 1 ∧ SameRegs [(.HUB_BOOT_STAT, 0)] s t) ∧
    (phase s ≠ 8 → (∀ p, tget 0 s.ptPower p = 0) → r < 19 → Ends (.supplyRecovered r) s fun t =>
      t = { s with board := { s.board with rails := [] } })) ∧
  (∀ (strap : Nat) (late : List Nat) (s : Machine.State), Ends (.powerOn strap late) s fun t =>
    t.fuses = { s.fuses with smbAddr := strap % 8 } ∧ t.pkg.coldRunning = true ∧ t.board.perst = true ∧
    t.board.rails = late ∧ rf t .HUB_BOOT_STAT 10 8 = strap % 8 ∧ (late ≠ [] → phase t = 8) ∧ t.cmds = [] ∧ t.mem = []) ∧
  (∀ (failed : List (Nat × Nat)) (s : Machine.State), s.dbg.boundary = false → s.board.perst = false →
    s.board.tripped = false → s.board.xtalHeld = false →
    let next := fun (n : Nat) => Ends (.startupPhaseAdvance failed) s fun t => phase t = n
    (phase s = 1 → clkState s 4 = 2 → s.sil.state = 0 → s.sil.handed = true → Machine.rb s .RST_REQ 3 = false →
      (∀ e ∈ s.units, e.2.hung = false) → Ends (.startupPhaseAdvance failed) s fun t => phase t = 2 ∧ t.sil.state = 1) ∧
    (phase s = 2 → next 3) ∧
    (phase s = 3 → pdsOn s [20, 21, 22] = true → clkState s 0 = 2 → clkState s 3 = 2 → next 4) ∧
    (phase s = 4 → pdsOn s ((List.range 12).map (8 + ·)) = true → next 5) ∧
    (phase s = 5 → pdsOn s (List.range 8) = true → (∀ e ∈ s.crossings, e.2.closed = false) → clkState s 3 = 2 →
      Ends (.startupPhaseAdvance failed) s fun t => phase t = 6 ∧ rf t .RST_SPLIT 3 0 = rf s .RST_SPLIT 7 4) ∧
    (phase s = 6 → s.sil.state = 1 → Ends (.startupPhaseAdvance failed) s fun t => phase t = 7 ∧ pkgReady t = true ∧
      t.pkg = {} ∧ SameMem s t)) ∧
  (∀ (speed width : Nat) (s : Machine.State), s.board.perst = false → clkState s 0 = 2 → pdOn s 21 = true →
    railsOk s [19, 20] = true → 3 ≤ phase s → phase s ≠ 8 → Ends (.pcieLinkUp speed width) s fun t =>
      t = (if s.pcie.linkUp then s else { s with pcie := { s.pcie with linkUp := true, speed := speed, width := width } }))

/-- O27. Partition, warm and cold resets start and end, expire into larger ones, and are requested by the host; views are
reconciled (R425, R476, R478, R481, R483, R484, R486, R489, R493, R494, R495, R648).
From no package reset: a partition reset fences its partition with RESET and shows itself in RST_LAST; completed while Silset
runs, it is counted, the units' reasons RESET and their reset go, and, where none failed training, the channels are READY. A warm
or cold reset first tells the members of jobs, with every partition fenced, unless its cause allows no notice; a warm reset then
keeps Silset's keys and the FAILED marks, counts itself and empties the rest; a cold reset starts from what flash holds, at most
twice again when it fails, and a request for one is dropped while one runs. Expired, a partition reset becomes a warm reset with
cause 8, a warm reset a cold one with cause 9; a phase of a cold start that overruns counts as a failed one. GO in RST_REQ begins the request it names while Silset runs and waits otherwise; a
second GO and a wrong key are refused. RST_FENCE_HOST places and removes HOST; the units of a partition whose drain window had
expired are then reset. A reconciliation places DISPUTED where views disagree and removes it where they agree. (Rests on the
model's choices of log entries 58, 59, 60, 62, 63, 76, 112.) -/
def Obligations.ResetEvents : Prop :=
  (∀ (pt cause kind index : Nat) (s : Machine.State), ptExists s pt = true → pt < 8 → silUp s = true → s.pkg = {} →
    cause < 16 → kind < 16 → index < 2 ^ 14 →
    ((tget {} s.parts pt).resetting = true → Ends (.partitionReset pt cause kind index) s fun t => t = s) ∧
    ((tget {} s.parts pt).resetting = false → (unitOf s 10 pt).fence = false →
      Ends (.partitionReset pt cause kind index) s fun t =>
        tget {} t.parts pt = { tget {} s.parts pt with resetting := true, escalated := false, startedAt := s.now, cause := cause,
                                                       step := 1 } ∧
        (unitOf t 10 pt).reasons = 2 ∧ (unitOf t 10 pt).draining = true ∧
        (unitOf t 10 pt).fgen = ((unitOf s 10 pt).fgen + 1) % 2 ^ 16 ∧ rf t .RST_LAST 3 0 = 2 ∧ rf t .RST_LAST 7 4 = cause ∧
        rf t .RST_LAST 11 8 = kind ∧ rf t .RST_LAST 25 12 = index ∧ rf t .RST_LAST 28 26 = pt)) ∧
  (∀ (pt : Nat) (failed : List (Nat × Nat)) (s : Machine.State), (tget {} s.parts pt).resetting = true →
    (tget {} s.parts pt).step = 4 → silUp s = true → (∀ k ∈ xingsOf s pt, (xOf s k).closed = false) →
    rf s .CLK_STAT 11 9 = 2 → tget 0 s.ptPower pt = 0 → pt < 8 → Ends (.partitionResetComplete pt failed) s fun t =>
      (tget {} t.parts pt).resetting = false ∧ (tget {} t.parts pt).step = 0 ∧
      (tget {} t.parts pt).resets = ((tget {} s.parts pt).resets + 1) % 2 ^ 16 ∧ Machine.rb t .RST_STAT 2 = true ∧
      (rd t .RST_PT_CNT).toNat = ((rd s .RST_PT_CNT).toNat + 1) % 2 ^ 32 ∧
      (unitOf t 10 pt).reasons.testBit 1 = false ∧ (unitOf t 10 pt).inReset = false ∧
      ((∀ u ∈ failed, u.1 ≠ 13) → (∀ g ∈ groupsOfPt s pt, ∀ c, c < 8 → (tget {} t.hbm (g * 8 + c)).state = 2) ∧
        SameMem s t)) ∧
  (∀ (cause kind index : Nat) (s : Machine.State), cause < 16 →
    (s.pkg.coldRunning = false → s.pkg.warmRunning = true → Ends (.warmReset cause kind index) s fun t => t = s) ∧
    (s.pkg = {} → mustTell s cause = true → Ends (.warmReset cause kind index) s fun t => t.pkg.warmRunning = false ∧
      t.pkg.next = some (false, cause, kind, index, false) ∧
      ∀ p, p < 8 → ptExists s p = true → (unitOf t 10 p).reasons.testBit 1 = true) ∧
    (s.pkg = {} → mustTell s cause = false → Ends (.warmReset cause kind index) s fun t => t.pkg.warmRunning = true ∧
      t.pkg.cause = cause ∧
      rf t .RST_WARM_CAUSE 3 0 = cause ∧ (rd t .RST_WARM_CNT).toNat = ((rd s .RST_WARM_CNT).toNat + 1) % 2 ^ 32 ∧
      t.sil.keys = s.sil.keys ∧ (∀ k i, (unitOf s k i).reasons.testBit 7 = true → (unitOf t k i).reasons.testBit 7 = true) ∧
      t.cmds = [] ∧ t.ctxs = [] ∧ t.seqs = [] ∧ t.jobs = [] ∧ t.mem = [] ∧ pkgReady t = false)) ∧
  (∀ (cause kind index : Nat) (s : Machine.State),
    (s.pkg.coldRunning = true → s.pkg.healthFailed = false → phase s ≠ 8 →
      Ends (.coldReset cause kind index false) s fun t => t = s) ∧
    ((s.pkg.coldRunning = false ∨ s.pkg.healthFailed = true ∨ phase s = 8) →
      (mustTell s cause = true → Ends (.coldReset cause kind index false) s fun t =>
        t.pkg.coldRunning = s.pkg.coldRunning ∧ t.pkg.next = some (true, cause, kind, index, false)) ∧
      (mustTell s cause = false → (s.pkg.next = none ∨ noNotice cause = true ∨ s.pkg.warmRunning = true) →
        Ends (.coldReset cause kind index false) s fun t => t.pkg.coldRunning = true ∧ t.pkg.coldTries = 0 ∧
          t.sil.keys = s.sil.store.keys ∧ t.utc = s.sil.store.utc ∧ rf t .RST_SPLIT 3 0 = rf s .RST_SPLIT 3 0 ∧ t.cmds = [] ∧
          t.ctxs = [] ∧ t.mem = [] ∧ t.parts = [])) ∧
    (s.pkg.coldRunning = true → s.pkg.coldTries < 2 → Ends (.coldReset cause kind index true) s fun t =>
      t.pkg.coldRunning = true ∧ t.pkg.coldTries = s.pkg.coldTries + 1 ∧ t.pkg.healthFailed = true ∧
      t.pkg.cause = s.pkg.cause ∧ t.cmds = []) ∧
    (s.pkg.coldRunning = true → 2 ≤ s.pkg.coldTries → Ends (.coldReset cause kind index true) s fun t =>
      t.pkg = { s.pkg with healthFailed := true } ∧
      t = { s with pkg := t.pkg, regs := t.regs, sil := t.sil, out := t.out, fns := t.fns } ∧ Logged 0x0C 5 s t)) ∧
  (∀ (pt : Nat) (s : Machine.State), (tget {} s.parts pt).resetting = true → silUp s = true → s.pkg = {} →
    mustTell s 8 = false →
    Ends (.ptToExpiry pt) s fun t => t.pkg.warmRunning = true ∧ t.pkg.cause = 8 ∧ rf t .RST_WARM_CAUSE 3 0 = 8 ∧
      Machine.rb t .RST_STAT 3 = true ∧ t.cmds = []) ∧
  (∀ (s : Machine.State), s.pkg.warmRunning = true → s.pkg.coldRunning = false → mustTell s 9 = false →
    Ends .warmToExpiry s fun t => t.pkg.coldRunning = true ∧ t.pkg.warmRunning = false ∧ t.pkg.cause = 9 ∧ rf t .RST_WARM_CAUSE 3 0 = 9 ∧ t.cmds = []) ∧
  (∀ (s : Machine.State), s.pkg.warmRunning = false → s.pkg.coldRunning = true → s.board.perst = false → phase s ≠ 8 →
    s.pkg.coldTries < 2 → Ends .warmToExpiry s fun t => t.pkg.coldRunning = true ∧ t.pkg.coldTries = s.pkg.coldTries + 1 ∧
      t.pkg.healthFailed = true ∧ t.pkg.cause = s.pkg.cause ∧ t.cmds = []) ∧
  (∀ (src : Src) (s : Machine.State), Machine.rb s .RST_REQ 3 = false →
    let kind := rf s .RST_REQ_LOC 3 0
    let index := rf s .RST_REQ_LOC 17 4
    (kind < 10 → unitExists s kind index = true → undebugged s = true → largerReset s kind index = false →
      (unitOf s kind index).fence = false → (unitOf s kind index).inReset = false →
      (s.sil.state = 1 → Ends (.hostEngineResetRequest src 9) s fun t => (unitOf t kind index).reasons = 2 ∧
        (unitOf t kind index).cause = 1 ∧ (unitOf t kind index).draining = true ∧ Machine.rb t .RST_REQ 3 = false) ∧
      (s.sil.state ≠ 1 → Ends (.hostEngineResetRequest src 9) s fun t => Machine.rb t .RST_REQ 3 = true ∧ t.units = s.units)) ∧
    (∀ p, p < 8 → ptExists s p = true → s.sil.state = 1 → s.pkg = {} → (tget {} s.parts p).resetting = false →
      (unitOf s 10 p).fence = false → Ends (.hostPartitionResetRequest src (10 + 16 * p)) s fun t =>
        (tget {} t.parts p).resetting = true ∧ (tget {} t.parts p).cause = 1 ∧ (unitOf t 10 p).reasons = 2 ∧
        Machine.rb t .RST_REQ 3 = false) ∧
    (s.sil.state = 1 → s.pkg = {} → mustTell s 1 = false → Ends (.hostWarmResetRequest src (11 + 0xC01D * 2 ^ 16)) s fun t =>
      t.pkg.warmRunning = true ∧ t.pkg.cause = (if splitNext s = splitN s then 1 else 13) ∧ Machine.rb t .RST_REQ 3 = false) ∧
    (s.sil.state = 1 → s.pkg = {} → mustTell s 1 = false → Ends (.hostColdResetRequest src (12 + 0xC01D * 2 ^ 16)) s fun t =>
      t.pkg.coldRunning = true ∧ t.pkg.cause = (if splitNext s = splitN s then 1 else 13) ∧ Machine.rb t .RST_REQ 3 = false) ∧
    Ends (.hostColdResetRequest src 12) s fun t => t.pkg = s.pkg ∧ Machine.rb t .HUB_ERR_STAT 1 = true ∧
      Machine.rb t .RST_REQ 3 = false) ∧
  (∀ (src : Src) (v : Nat) (s : Machine.State), Machine.rb s .RST_REQ 3 = true → v.testBit 3 = true →
    Ends (.hostEngineResetRequest src v) s fun t => t.units = s.units ∧ t.pkg = s.pkg ∧ rd t .RST_REQ = rd s .RST_REQ ∧
      Machine.rb t .HUB_ERR_STAT 1 = true) ∧
  (∀ (src : Src) (p : Nat) (s : Machine.State), p < 8 → ptExists s p = true →
    (Machine.rb s .RST_FENCE_HOST p = false → (unitOf s 10 p).fence = false →
      Ends (.rstFenceHostWrite src (2 ^ (16 + p) + 2 ^ p)) s fun t => Machine.rb t .RST_FENCE_HOST p = true ∧
        (unitOf t 10 p).reasons = 1 ∧ (unitOf t 10 p).draining = true) ∧
    (Machine.rb s .RST_FENCE_HOST p = true → Ends (.rstFenceHostWrite src (2 ^ (16 + p))) s fun t =>
      Machine.rb t .RST_FENCE_HOST p = false ∧ t.cmds = s.cmds ∧ SameMem s t ∧
      ((unitOf s 10 p).expired = false →
        t = { s with regs := t.regs, units := t.units, sil := t.sil, out := t.out, fns := t.fns } ∧
        unitOf t 10 p = { unitOf s 10 p with reasons := setBits (unitOf s 10 p).reasons 0 0 0 } ∧
        ∀ k i, i < 2 ^ 16 → (k, i) ≠ (10, p) → unitOf t k i = unitOf s k i) ∧
      ((unitOf s 10 p).expired = true → (unitOf s 10 p).reasons = 1 → (unitOf t 10 p).reasons = 2 ∧
        ∀ x ∈ ptUnits s p, (unitOf s x.1 x.2).reasons.testBit 7 = false →
          (unitOf t x.1 x.2).inReset = true ∧ (unitOf t x.1 x.2).reasons.testBit 1 = true))) ∧
  (∀ (s : Machine.State), s.sil.state = 1 →
    (Ends (.reconciliationRound []) s fun t => (∀ k i, i < 2 ^ 16 → (unitOf t k i).reasons.testBit 5 = false) ∧
      ((∀ e ∈ s.units, e.2.reasons.testBit 5 = true → e.2.expired = false) → t = { s with units := t.units })) ∧
    (∀ k i how, unitExists s k i = true → k < 10 → undebugged s = true → (unitOf s k i).fence = false →
      disputes s (k, i, how) = true → (∀ e ∈ s.units, e.2.reasons.testBit 5 = false) →
      Ends (.reconciliationRound [(k, i, how)]) s fun t =>
        (unitOf t k i).reasons = 32 ∧ (unitOf t k i).draining = true ∧ Machine.rb t .RST_STAT 4 = true ∧
        (rd t .RST_DISPUTE_CNT).toNat = ((rd s .RST_DISPUTE_CNT).toNat + 1) % 2 ^ 32 ∧ (noneHeld s = true → SameMem s t)) ∧
    (∀ k i how, disputes s (k, i, how) = false → (∀ e ∈ s.units, e.2.reasons.testBit 5 = false) →
      Ends (.reconciliationRound [(k, i, how)]) s fun t => t = s))

/-- O28. Crossings are handshaken, links fail and return, Silset comes back, a trial is confirmed and agents are updated (R297,
R478, R479, R487, R529, R544, R545, R556).
An offer not below a closed crossing's epoch is taken and acknowledged; the acknowledgement of the offered epoch opens the
crossing, and none other; one of another epoch modulo 16 is discarded and counted, and closes a crossing that was open, whose open
requests fail. A replayed flit sets HUB_MEM_ERR_STAT[4]; the eighth try fails the link, whose crossings close and which is fenced
with LINK until it has retrained. When Silset returns, the events of the hardware queue are in its log, after them one that says
that some were lost. A TRIAL slot that has run for 30 s and met its conditions becomes CONFIRMED and raises the rollback counter to
its number, and where an update of the agents waits the first die is fenced. The fence of an updated die is removed, and the next
die of the list fenced; the reason UPDATE of another unit ends with its own update. (Rests on the model's choices of log entries
25, 28, 62.) -/
def Obligations.EpochLinkAndFirmwareEvents : Prop :=
  (∀ (kind index epoch : Nat) (s : Machine.State),
    let k := xKey kind index
    ((xOf s k).closed = true → (xOf s k).epoch ≤ epoch → Ends (.epochOffer kind index epoch) s fun t =>
      t = { s with crossings := t.crossings, out := .fabric kind index tagEpoch [epoch] :: s.out } ∧
      xOf t k = { xOf s k with epoch := epoch, offered := some epoch } ∧ ∀ j, j ≠ k → xOf t j = xOf s j) ∧
    ((xOf s k).closed = true → (xOf s k).offered = some epoch → (xOf s k).epoch = epoch →
      Ends (.epochAcknowledgement kind index epoch) s fun t => t = { s with crossings := t.crossings } ∧
        xOf t k = { epoch := epoch, closed := false, offered := none } ∧ ∀ j, j ≠ k → xOf t j = xOf s j) ∧
    (∀ c ∈ [Instr.epochOffer kind index epoch, .epochAcknowledgement kind index epoch], (xOf s k).closed = false →
      (epoch % 16 = (xOf s k).epoch % 16 → Ends c s fun t => t = s) ∧
      (epoch % 16 ≠ (xOf s k).epoch % 16 → Ends c s fun t =>
        (xingReqs s k = [] →
          t = { s with crossings := t.crossings, regs := t.regs, sil := t.sil, out := t.out, fns := t.fns }) ∧
        xOf t k = { xOf s k with closed := true, offered := none } ∧ (∀ j, j ≠ k → xOf t j = xOf s j) ∧
        (∀ x ∈ xingReqs s k, (vctxOf s x.1.1 x.1.2).state ≠ 0 → (vctxOf t x.1.1 x.1.2).state = 5) ∧
        Machine.rb t .RST_STAT 7 = true ∧
        (rd t .RST_XRESET_CNT).toNat = ((rd s .RST_XRESET_CNT).toNat + (xingReqs s k).length + 1) % 2 ^ 32 ∧
        SameMem s t ∧ t.cmds = s.cmds ∧ Logged 3 0xB s t)) ∧
    ((xOf s k).closed = true → (xOf s k).epoch ≠ epoch → Ends (.epochAcknowledgement kind index epoch) s fun t =>
      ∀ j, xOf t j = xOf s j)) ∧
  (∀ (k i tries : Nat) (s : Machine.State),
    (tries < 8 → Ends (.linkReplay k i tries) s fun t => t = { s with regs := t.regs } ∧
      Machine.rb t .HUB_MEM_ERR_STAT 4 = true ∧ SameRegs [(.HUB_MEM_ERR_STAT, 0)] s t) ∧
    (8 ≤ tries → unitExists s k i = true → k ≠ 10 → undebugged s = true → (unitOf s k i).fence = false →
      Ends (.linkReplay k i tries) s fun t => Machine.rb t .HUB_MEM_ERR_STAT 5 = true ∧ (unitOf t k i).reasons = 64 ∧
        (unitOf t k i).draining = true ∧ (∀ x ∈ unitXings s k i, (xOf t x).closed = true) ∧
        (noneHeld s = true → SameMem s t)) ∧
    (i < 2 ^ 16 → (unitOf s k i).reasons.testBit 6 = true → (unitOf s k i).expired = false →
      Ends (.linkRetrainingComplete k i) s fun t => t = { s with units := t.units } ∧
        unitOf t k i = { unitOf s k i with reasons := setBits (unitOf s k i).reasons 6 6 0 } ∧
        ∀ k' i', i' < 2 ^ 16 → (k', i') ≠ (k, i) → unitOf t k' i' = unitOf s k' i')) ∧
  (∀ (s : Machine.State), s.sil.state = 2 → s.sil.handed = true → Machine.rb s .RST_REQ 3 = false →
    (∀ e ∈ s.units, e.2.hung = false ∧ (e.2.reasons.testBit 1 = true → e.1 / 2 ^ 16 = 10)) →
    Ends .silsetRestartComplete s fun t =>
      t = { s with regs := t.regs, sil := t.sil, out := t.out, fns := t.fns } ∧ t.sil.state = 1 ∧ t.sil.evq = [] ∧
      t.sil.runSince = s.now ∧ SameRegs [(.CAL_WEAR_DATA, 0), (.CAL_WEAR_TIME, 0), (.SIL_LOG_LOST, 0)] s t ∧
      t.sil.evLost = false ∧ (s.sil.evLost = true → ∃ e, t.sil.log.head? = some e ∧ e.cls = 0x0C ∧ e.code = 2) ∧
      (s.sil.evq.length ≤ 512 → s.sil.evLost = false → t.sil.seq = s.sil.seq + s.sil.evq.length ∧
        ∀ e ∈ s.sil.evq, ∃ x ∈ t.sil.log, x = { e with seq := x.seq })) ∧
  (∀ (s : Machine.State), s.sil.state = 1 → (fwSlot s s.sil.slot).state = 2 → s.sil.runSince + 30000000000 ≤ s.now →
    s.sil.roundsOk = true →
    ((s.sil.agentsNow = false ∨ (fwSlot s s.sil.slot).agents = false) → Ends (.trialConfirm true) s fun t =>
      t = { s with regs := t.regs, sil := t.sil, out := t.out, fns := t.fns } ∧
      fwSlot t s.sil.slot = { fwSlot s s.sil.slot with state := 3 } ∧ t.sil.slot = s.sil.slot ∧
      t.sil.rollback = max s.sil.rollback (fwSlot s s.sil.slot).svn ∧ t.sil.agentsNow = false ∧
      fwSlot t (!s.sil.slot) =
        { fwSlot s (!s.sil.slot) with state := if (fwSlot s (!s.sil.slot)).state = 0 then 0 else 1 } ∧ Logged 0xB 8 s t) ∧
    (s.sil.agentsNow = true → (fwSlot s s.sil.slot).agents = true → dieOn s 0 = true →
      (unitOf s 9 0).reasons.testBit 7 = false → Ends (.trialConfirm true) s fun t =>
        (unitOf t 9 0).reasons.testBit 3 = true ∧ t.sil.agentDies.head? = some 0)) ∧
  (∀ (cryptoOk : Bool) (s : Machine.State), cryptoOk = false ∨ s.now < s.sil.runSince + 30000000000 ∨ s.sil.roundsOk = false →
    Ends (.trialConfirm cryptoOk) s fun t => t = s) ∧
  (∀ (d : Nat) (s : Machine.State), d < 8 →
    (s.sil.agentDies = [d] → Ends (.agentUpdateComplete 9 d) s fun t =>
      ((unitOf s 9 d).expired = false → t = { s with units := t.units, sil := t.sil }) ∧
      (unitOf t 9 d).reasons.testBit 3 = false ∧
      (∀ b, b / 6 = d → (unitOf t 8 b).reasons.testBit 3 = false) ∧ t.sil.agentDies = [] ∧
      ((runSlot s).agents = true → tget 0 t.sil.agentFw d = (runSlot s).digest)) ∧
    (∀ e ds, e < 8 → e ≠ d → s.sil.agentDies = d :: e :: ds → dieOn s e = true → (unitOf s 9 e).reasons.testBit 7 = false →
      Ends (.agentUpdateComplete 9 d) s fun t => (unitOf t 9 e).reasons.testBit 3 = true ∧ t.sil.agentDies.head? = some e)) ∧
  (∀ (k i : Nat) (s : Machine.State), i < 2 ^ 16 →
    (k = 8 → s.sil.agentDies.head? = some (i / 6) → Ends (.agentUpdateComplete k i) s fun t => t = s) ∧
    (¬ (k = 9 ∧ s.sil.agentDies.head? = some i) → ¬ (k = 8 ∧ s.sil.agentDies.head? = some (i / 6)) →
      Ends (.agentUpdateComplete k i) s fun t => (unitOf t k i).reasons.testBit 3 = false ∧
        ((unitOf s k i).expired = false → t = { s with units := t.units } ∧
          unitOf t k i = { unitOf s k i with reasons := setBits (unitOf s k i).reasons 3 3 0 } ∧
          ∀ k' i', i' < 2 ^ 16 → (k', i') ≠ (k, i) → unitOf t k' i' = unitOf s k' i')))

/-- O29. Samples are armed, discarded and judged, cross-check rounds run, pattern sets run, and a boost ends (R500, R501, R505,
R506, R512, R513, R514, R517, R520, R527).
With a whole sample of credit and a free buffer, a bay arms the tile-layer and column group that the round robin chooses. A
sample that waits for ARM_TO, and one whose capture or records are bad, is discarded, logged and counted; one that is judged counts
in CHK_SAMPLE_CNT. A round starts on two units that may take part. Equal signatures end it as passed; unequal ones repeat it, and
on the repeat lead to a third unit, whose signature tells which of the two gets an engine reset; a failing unit whose retest
differs again becomes FAILED. A round of 1 s is abandoned. A pattern set with a bad digest ends in STATE 3, a good one runs to
STATE 2. A boost ends after its time. (Rests on the model's choices of log entries 64, 65, 66, 67, 68, 69.) -/
def Obligations.CheckingEvents : Prop :=
  (∀ (pt fn bay key i : Nat) (p : BayPlan) (cur : Tab Int) (s : Machine.State),
    let k := cxKey pt fn
    let l := tget [] s.samples bay
    let q := accrue s k bay p
    let es := bayEntries (imgOf s p.im).draw bay
    let e := es.getD i {}
    let g := nextGroup e.mask (tget 0 p.cursor i)
    s.plans.find? (fun e => e.1 == k * 64 + bay) = some (key, p) → Machine.rb s .CHK_CTRL 0 = true →
    100000000000 ≤ q.credit → l.length < 4 → unitUp s 6 bay = true → halted s bay = false → (cxOf s k).active = some p.im →
    swrr es p.start p.cur = some (i, cur) → Ends (.sampleArm pt fn bay) s fun t =>
      t = { s with plans := t.plans, samples := t.samples } ∧
      tget [] t.samples bay = l ++ [{ tl := e.tl, group := g, armedAt := s.now }] ∧
      tget {} t.plans (k * 64 + bay) = { q with credit := q.credit - 100000000000, cur := cur,
                                                cursor := tset 0 p.cursor i ((g + 1) % 8) } ∧
      ∀ b, b ≠ bay → tget [] t.samples b = tget [] s.samples b) ∧
  (∀ (bay : Nat) (x : Sample) (rest : List Sample) (s : Machine.State), x.forced = false →
    let skips := fun (t : Machine.State) =>
      t = { s with samples := t.samples, regs := t.regs, sil := t.sil, out := t.out, fns := t.fns } ∧
      Logged 5 (Config.catalogue 5 1).toNat s t ∧
      tget [] t.samples bay = rest ∧ (∀ b, b ≠ bay → tget [] t.samples b = tget [] s.samples b) ∧
      (rd t .CHK_SKIP_CNT).toNat = ((rd s .CHK_SKIP_CNT).toNat + 1) % 2 ^ 32
    (takeFirst (fun x => x.run.isNone && decide (x.armedAt + 10000000 ≤ s.now)) (tget [] s.samples bay) = some (x, rest) →
      Ends (.armTimeout bay) s skips) ∧
    (takeFirst (fun x => x.part.isSome || x.spoiled) (tget [] s.samples bay) = some (x, rest) →
      (∀ res crcOk shadowOk, undebugged s = true → (x.spoiled = true ∨ crcOk = false ∨ shadowOk = false) →
        Ends (.sampleVerdict bay res crcOk shadowOk) s skips) ∧
      (∀ res r a sh, undebugged s = true → noneHeld s = true → (∀ f ∈ s.findings, f.chain = false) → x.spoiled = false → x.run = some r → x.part = some a → shadowOf s x.tl = some sh →
        shadowBad s x.tl = false → tlValid s (x.tl / 4) (x.tl % 4) = true → progOf s x.tl = none → fenced s 6 bay = false →
        inReset s 6 bay = false → Ends (.sampleVerdict bay res true true) s fun t =>
          (rd t .CHK_SAMPLE_CNT).toNat = ((rd s .CHK_SAMPLE_CNT).toNat + 1) % 2 ^ 32 ∧
          rd t .CHK_SKIP_CNT = rd s .CHK_SKIP_CNT ∧ SameMem s t ∧ t.cmds = s.cmds ∧
          (Machine.rb s .CHK_CTRL 1 = true → if res = chainWords (imgOf s a.im) a x.group then
            (rd t .CHK_CHAIN_CNT).toNat = ((rd s .CHK_CHAIN_CNT).toNat + 1) % 2 ^ 32 else Machine.rb t .CHK_STAT 2 = true)))) ∧
  (∀ (suite a b seed : Nat) (s : Machine.State), Machine.rb s .CHK_CTRL 2 = true → silUp s = true →
    unitUp s (suiteKind suite) a = true → unitUp s (suiteKind suite) b = true →
    testRoom s (suiteKind suite) a = true → testRoom s (suiteKind suite) b = true →
    nextBay s (suiteBay suite a) = some (suiteBay suite b) → suiteBay suite a ≠ suiteBay suite b →
    suiteBay suite a ∉ roundBays s → suiteBay suite b ∉ roundBays s → Ends (.crossCheckRound suite a b seed) s fun t =>
      t = { s with rounds := s.rounds ++ [{ suite := suite, a := a, b := b, seed := seed, start := s.now }] }) ∧
  (∀ (suite a third x y : Nat) (r : Round) (s : Machine.State),
    s.rounds.find? (fun r => r.suite == suite && r.a == a) = some r → unitUp s (suiteKind suite) r.a = true →
    unitUp s (suiteKind suite) r.b = true → undebugged s = true → noneHeld s = true →
    let run := Instr.crossCheckComplete suite a third x y
    (r.stage = 0 → x = y → Ends run s fun t => t = { s with rounds := s.rounds.filter (· ≠ r), roClean := t.roClean, regs := t.regs } ∧
      (rd t .CHK_RO_CNT).toNat = ((rd s .CHK_RO_CNT).toNat + 1) % 2 ^ 32 ∧ tget 0 t.roClean (roKey suite r.a) = s.now + 1 ∧
      tget 0 t.roClean (roKey suite r.b) = s.now + 1) ∧
    (r.stage = 0 → x ≠ y → Ends run s fun t =>
      t = { s with rounds := s.rounds.map fun z => if z = r then { r with stage := 1, start := s.now } else z }) ∧
    (r.stage = 1 → x = y → transientLimit (addTransient (suiteKind suite) r.b (addTransient (suiteKind suite) r.a s)) (suiteKind suite)
        r.a = false →
      transientLimit (addTransient (suiteKind suite) r.b (addTransient (suiteKind suite) r.a s)) (suiteKind suite) r.b = false →
      Ends run s fun t => t.rounds = s.rounds.filter (· ≠ r) ∧ Machine.rb t .CHK_STAT 4 = true ∧
        (rd t .CHK_RO_CNT).toNat = ((rd s .CHK_RO_CNT).toNat + 1) % 2 ^ 32 ∧ Logged 5 4 s t ∧ t.units = s.units) ∧
    (r.stage = 1 → x ≠ y → Ends run s fun t =>
      t = { s with rounds := s.rounds.map fun z => if z = r then { r with stage := 2, sigA := x, sigB := y, start := s.now } else z }) ∧
    (r.stage = 2 → nextBay s (suiteBay suite r.b) = some (suiteBay suite third) → unitUp s (suiteKind suite) third = true →
      (x = r.sigB → largerReset s (suiteKind suite) r.a = false → (unitOf s (suiteKind suite) r.a).reasons = 0 →
        Ends run s fun t => (unitOf t (suiteKind suite) r.a).reasons.testBit 1 = true ∧
          { r with stage := 3, start := s.now } ∈ t.rounds) ∧
      (x ≠ r.sigB → x = r.sigA → largerReset s (suiteKind suite) r.b = false → (unitOf s (suiteKind suite) r.b).reasons = 0 →
        Ends run s fun t => (unitOf t (suiteKind suite) r.b).reasons.testBit 1 = true ∧
          { r with a := r.b, b := r.a, stage := 3, start := s.now } ∈ t.rounds) ∧
      (x ≠ r.sigB → x ≠ r.sigA → Ends run s fun t => t.rounds = s.rounds.filter (· ≠ r) ∧
        Machine.rb t .CHK_STAT 5 = true ∧ Logged 5 5 s t ∧ t.units = s.units)) ∧
    (r.stage = 3 →
      (x = y → Ends run s fun t => t = { s with rounds := s.rounds.filter (· ≠ r), roClean := t.roClean, regs := t.regs } ∧
        (rd t .CHK_RO_CNT).toNat = ((rd s .CHK_RO_CNT).toNat + 1) % 2 ^ 32 ∧ tget 0 t.roClean (roKey suite r.a) = s.now + 1) ∧
      (x ≠ y → suite < 5 → s.ctxs = [] → s.cmds = [] → s.binds = [] → Ends run s fun t =>
        Machine.rb t .CHK_STAT 3 = true ∧ (unitOf t (suiteKind suite) r.a).reasons.testBit 7 = true))) ∧
  (∀ (suite a : Nat) (r : Round) (s : Machine.State),
    s.rounds.find? (fun r => r.suite == suite && r.a == a && decide (r.start + 1000000000 ≤ s.now)) = some r →
    Ends (.roundTimeout suite a) s fun t => t = { s with rounds := t.rounds, regs := t.regs } ∧
      (r.stage = 0 → t.rounds = s.rounds.filter (· ≠ r)) ∧
      (r.stage ≠ 0 → t.rounds = s.rounds.map fun z => if z = r then { r with start := s.now } else z) ∧
      (rd t .CHK_RO_ABANDON_CNT).toNat = ((rd s .CHK_RO_ABANDON_CNT).toNat + 1) % 2 ^ 32) ∧
  (∀ (src : Src) (v : Word) (bad : List (Nat × Nat)) (s : Machine.State), v.toNat.testBit 0 = true →
    rf s .CHK_SCAN_STAT 1 0 ≠ 1 → undebugged s = true → noneHeld s = true →
    (scanOk s.sil.scanData = false → Ends (.scanStart src v bad) s fun t => rf t .CHK_SCAN_STAT 1 0 = 3 ∧
      Machine.rb t .CHK_SCAN_CTRL 0 = false ∧ t = { s with regs := t.regs, sil := t.sil, out := t.out, fns := t.fns }) ∧
    (scanOk s.sil.scanData = true → Ends (.scanStart src v bad) s fun t => rf t .CHK_SCAN_STAT 1 0 = 2 ∧
      Machine.rb t .CHK_SCAN_CTRL 0 = false ∧ SameMem s t ∧ t.cmds = s.cmds)) ∧
  (∀ (pt : Nat) (s : Machine.State), tget 0 s.boosts pt ≠ 0 → tget 0 s.boosts pt ≤ s.now + 1 → Ends (.boostExpiry pt) s fun t =>
    t = { s with plans := t.plans, boosts := tdel s.boosts pt, regs := t.regs } ∧ tget 0 t.boosts pt = 0 ∧
    Machine.rb t .CHK_STAT 16 = !(tdel s.boosts pt).isEmpty ∧ SameRegs [(.CHK_STAT, 0)] s t)

/-- O30. The port halts, resumes, steps and closes the fabric and Silset where its scope admits it, and is refused elsewhere
(R456, R619, R625, R628, R629, R631, R632, R634).
With the block clocked and the rights granted: HALT puts the bays of DBG_HALT_MASK under a halt; RESUME lets every bay and
every held item go; STEP lets every halted bay step; CLOSE clears SCOPE and nothing else. Without the rights each is refused
with STATUS 2 and logged, and while the block's clock is stopped it is dropped. A halted bay that has come to rest shows in DBG_HALTED. Silset is halted from any state, resumes to
it, executes one instruction after which its program counter is a free value, or restarts with cause 5; an enabled comparator
halts it at its address. (Rests on the model's choices of log entries 77, 78, 79, 80.) -/
def Obligations.DebugControlCommands : Prop :=
  (∀ (n : Nat) (s : Machine.State), 1 ≤ n → n < 256 → Machine.rb s .CLK_GATE 4 = true → hasScope s 0 = true →
    hasScope s 1 = true →
    let w := fun b => BitVec.ofNat 32 (n * 256 + b)
    (hasScope s 2 = true →
      (Ends (.dbgHalt (w 1)) s fun t => t.dbg.halting = s.dbg.halting ||| haltMask s ∧ rf t .DBG_CTRL 15 8 = n ∧
        t = { s with dbg := t.dbg, regs := t.regs, sil := t.sil, out := t.out, fns := t.fns } ∧ t.dbg.scope = s.dbg.scope) ∧
      (Ends (.dbgResume (w 2)) s fun t => t.dbg.halting = 0 ∧ t.dbg.stepping = 0 ∧ t.dbg.held = [] ∧ t.dbg.descs = [] ∧
        (rd t .DBG_HALTED_LO).toNat = 0 ∧ (rd t .DBG_HALTED_HI).toNat = 0 ∧ SameMem s t ∧ t.tiles = s.tiles) ∧
      (Ends (.dbgStep (w 4)) s fun t => t.dbg.halting = 0 ∧ t.dbg.stepping = s.dbg.halting ||| s.dbg.stepping ∧
        t.dbg.stepCnt = [] ∧ rf t .DBG_CTRL 15 8 = n ∧ SameMem s t ∧ t.tiles = s.tiles)) ∧
    Ends (.dbgClose (w 8)) s fun t => t.dbg = { s.dbg with scope := 0 } ∧ t.sil.debugOpen = s.sil.debugOpen ∧ SameMem s t) ∧
  (∀ (c : Instr) (v : Word) (s : Machine.State), c ∈ [Instr.dbgHalt v, .dbgResume v, .dbgStep v, .dbgClose v] →
    Machine.rb s .CLK_GATE 4 = true → dbgMayWrite s .DBG_CTRL v.toNat = false → Ends c s fun t =>
      t = { s with dbg := { s.dbg with status := 2 }, regs := t.regs, sil := t.sil, out := t.out, fns := t.fns } ∧
      Logged 0x0B 0x0A s t) ∧
  (∀ (c : Instr) (v : Word) (s : Machine.State), c ∈ [Instr.dbgHalt v, .dbgResume v, .dbgStep v, .dbgClose v] →
    Machine.rb s .CLK_GATE 4 = false → Ends c s fun t => t = s) ∧
  (∀ (bay : Nat) (s : Machine.State), bay < 48 → (halted s bay = true ∨ s.dbg.stepping.testBit bay = true) →
    Ends (.fabricHalted bay) s fun t => t = { s with dbg := t.dbg, regs := t.regs } ∧ halted t bay = true ∧
      t.dbg.stepping.testBit bay = false ∧
      (if bay < 32 then Machine.rb t .DBG_HALTED_LO bay = true else Machine.rb t .DBG_HALTED_HI (bay - 32) = true) ∧
      ∀ b, b ≠ bay → halted t b = halted s b) ∧
  (∀ (s : Machine.State), Machine.rb s .CLK_GATE 4 = true → hasScope s 0 = true → hasScope s 1 = true → hasScope s 3 = true →
    (s.sil.state ≠ 4 → Ends .dbgSilHalt s fun t => t.sil.state = 4 ∧ t.dbg = { s.dbg with silWas := s.sil.state } ∧
      SameMem s t) ∧
    (s.sil.state = 4 → s.dbg.silWas ≠ 4 → Machine.rb s .RST_REQ 3 = false →
      (∀ e ∈ s.units, e.2.hung = false ∧ (e.2.reasons.testBit 1 = true → e.1 / 2 ^ 16 = 10)) →
      Ends .dbgSilResume s fun t => t.sil.state = s.dbg.silWas ∧ t.dbg.silMem = [] ∧ t.dbg.silRegs = [] ∧ SameMem s t) ∧
    (s.sil.state = 4 → Ends .dbgSilStep s fun t => t.sil.state = 4 ∧ t.free = s.free + 1 ∧
      t.sil.pc = (Config.freeWord s.free).toNat % 2 ^ 32 ∧ t.dbg.silRegs = [] ∧ SameMem s t) ∧
    Ends .dbgSilRestart s fun t => t.sil.state = 2 ∧ rf t .SIL_RESTART 18 16 = 5 ∧
      rf t .SIL_RESTART 15 0 = min 65535 (rf s .SIL_RESTART 15 0 + 1) ∧ t.sil.session = none ∧ SameMem s t ∧
      t.cmds = s.cmds) ∧
  (∀ (n : Nat) (s : Machine.State), Machine.rb s .DBG_SIL_BP 0 n = true → s.sil.state ≠ 4 →
    Ends (.silsetPcBreakpoint n) s fun t => t = { s with sil := t.sil, dbg := t.dbg } ∧ t.sil.state = 4 ∧
      t.sil.pc = rf s .DBG_SIL_BP 31 1 n * 2 ∧ t.dbg.silWas = s.sil.state)

/-- O31. The TAP's instructions, the challenge and response that unlock the port, and debug accesses (R614, R615, R616, R617,
R618, R619, R620, R621, R622, R623).
Outside a boundary instruction, reset and the other instructions become current and shift out their registers: IDCODE its
identification, BYPASS zero, DSTAT the status. EXTEST, CLAMP and HIGHZ hold the package in reset until another instruction,
which starts a warm reset with cause 1. DCHAL gives a fresh nonce; DRESP starts its verification while Silset is up, or fails
with 5 or 7, which is logged; a success grants the scope and logs it, a failure counts and, as the third, limits the port. DADDR and DDATA
issue accesses that the scope admits, one at a time; a memory access moves its data, a hung one ends with CAUSE 6. (Rests on
the model's choices of log entries 6, 29, 30, 80, 81, 82.) -/
def Obligations.SpyholePortCommands : Prop :=
  (∀ (s : Machine.State), s.dbg.boundary = false →
    (Ends .tapReset s fun t => t = { s with dbg := { s.dbg with ir := 1 } }) ∧
    (Ends .idcode s fun t => t = { s with dbg := { s.dbg with ir := 1 }, out := .tap 1 (idcode s) :: s.out }) ∧
    (Ends .bypass s fun t => t = { s with dbg := { s.dbg with ir := 0xFF }, out := .tap 0xFF 0 :: s.out }) ∧
    (Ends .dstat s fun t => t = { s with dbg := { s.dbg with ir := 0x10 }, out := t.out } ∧
      (Machine.rb s .CLK_GATE 4 = false → t.out = .tap 0x10 0 :: s.out) ∧
      (Machine.rb s .CLK_GATE 4 = true → t.out = .tap 0x10 (dbgStat s).toNat :: s.out)) ∧
    (∀ d, Ends (.samplePreload d) s fun t => t =
      { s with dbg := { s.dbg with ir := 2, bsr := d }, free := s.free + 1,
               out := .tap 2 (Config.freeBig s.free).toNat :: s.out }) ∧
    (Ends .boundaryInstructionExit s fun t => t = s) ∧
    (s.board.tripped = false → s.pkg.coldRunning = false → ∀ d c, c ∈ [Instr.extest d, .clamp, .highz] → Ends c s fun t =>
      t.dbg.boundary = true ∧ holdsReset t.dbg.ir = true ∧ pkgReady t = false ∧ phase t = 3 ∧ t.cmds = [] ∧ t.ctxs = [] ∧
      t.pkg = {} ∧ (c = .extest d → t.dbg.bsr = d) ∧ t.sil.keys = s.sil.keys ∧
      Logged 0x0B (Config.catalogue 0x0B 0).toNat s t)) ∧
  (∀ (s : Machine.State), s.dbg.boundary = true → s.pkg.coldRunning = false → mustTell s 1 = false →
    s.pkg.next = none → Ends .boundaryInstructionExit s fun t =>
    t.dbg.boundary = false ∧ t.dbg.ir = 0xFF ∧ t.pkg.warmRunning = true ∧ t.pkg.cause = 1) ∧
  (∀ (s : Machine.State), s.dbg.boundary = false →
    (s.dbg.limited = false → Ends .dchal s fun t => t =
      { s with dbg := { s.dbg with ir := 0x11, nonce := some ((Config.freeBig s.free).toNat, s.now) }, free := s.free + 1,
               out := .tap 0x11 (Config.freeBig s.free).toNat :: s.out }) ∧
    (s.dbg.limited = true → Ends .dchal s fun t =>
      t = { s with dbg := { s.dbg with ir := 0x11, nonce := none }, out := .tap 0x11 0 :: s.out }) ∧
    (∀ pub scope sig, s.dbg.verify = none →
      (s.dbg.limited = true → Ends (.dresp pub scope sig) s fun t => rf t .DBG_STAT 8 6 = 5 ∧ t.dbg.verify = none ∧
        t.dbg.scope = s.dbg.scope ∧ Logged 0x0B 4 s t) ∧
      (s.dbg.limited = false → silUp s = false → Ends (.dresp pub scope sig) s fun t => rf t .DBG_STAT 8 6 = 7 ∧
        t.dbg.verify = none ∧ t.dbg.scope = s.dbg.scope ∧ Logged 0x0B 4 s t) ∧
      (s.dbg.limited = false → silUp s = true → Ends (.dresp pub scope sig) s fun t => t =
        { s with dbg := { s.dbg with ir := 0x12, verify := some (scope, keyFpr pub, unlockRes s pub scope sig), nonce := none } }))) ∧
  (∀ (scope fpr r : Nat) (s : Machine.State), s.dbg.verify = some (scope, fpr, r) →
    (r = 1 → Ends .unlockVerifyDone s fun t => t.dbg.scope = s.dbg.scope ||| scope ∧ t.dbg.verify = none ∧ t.dbg.fails = 0 ∧
      t.sil.debugOpen = true ∧ t.sil.debugCount = (if s.fuses.locked then s.sil.debugCount + 1 else s.sil.debugCount) ∧
      t.dbg.keysErased = (s.dbg.keysErased || scope.testBit 3) ∧ rf t .DBG_STAT 8 6 = 1 ∧ Logged 0x0B 3 s t) ∧
    (r ≠ 1 → r < 8 → Ends .unlockVerifyDone s fun t => t.dbg.scope = s.dbg.scope ∧ t.dbg.verify = none ∧
      t.dbg.fails = (if r = 4 then s.dbg.fails else s.dbg.fails + 1) ∧ t.dbg.limited = decide (3 ≤ t.dbg.fails) ∧
      t.sil.debugOpen = s.sil.debugOpen ∧ rf t .DBG_STAT 8 6 = r ∧ Logged 0x0B 4 s t)) ∧
  (∀ (s : Machine.State), s.dbg.limited = true → Ends .unlockRateLimitExpiry s fun t =>
    t = { s with dbg := { s.dbg with limited := false, fails := 0 } }) ∧
  (∀ (v : Nat) (s : Machine.State), s.dbg.boundary = false → s.dbg.scope ≠ 0 →
    (s.dbg.busy ≠ none → Ends (.daddr v) s fun t => t = { s with dbg := { s.dbg with ir := 0x20 }, regs := t.regs } ∧
      Machine.rb t .DBG_STAT 15 = true) ∧
    (s.dbg.busy = none → bitsOf v 53 52 ≠ 1 → Ends (.daddr v) s fun t => t =
      { s with dbg := { s.dbg with ir := 0x20, addr := bitsOf v 47 0, space := bitsOf v 51 48, op := bitsOf v 53 52,
                                   inc := v.testBit 54 } }) ∧
    (s.dbg.busy = none → bitsOf v 53 52 = 1 → bitsOf v 51 48 ≤ 1 → hasScope s 0 = true → Ends (.daddr v) s fun t =>
      t = { s with dbg := { s.dbg with ir := 0x20, addr := bitsOf v 47 0, space := bitsOf v 51 48, op := 1,
                                       inc := v.testBit 54, busy := some (false, 0), status := 1 } })) ∧
  (∀ (v : Nat) (s : Machine.State), s.dbg.boundary = false →
    (Ends (.ddata false v) s fun t => t =
      { s with dbg := { s.dbg with ir := 0x21 },
               out := .tap 0x21 (s.dbg.data + s.dbg.status * 2 ^ 32) :: s.out }) ∧
    (s.dbg.op = 2 → s.dbg.busy = none → s.dbg.space = 1 → hasScope s 0 = true → hasScope s 1 = true → s.dbg.scope ≠ 0 →
      Ends (.ddata true v) s fun t => t =
        { s with dbg := { s.dbg with ir := 0x21, busy := some (true, v % 2 ^ 32), status := 1 },
                 out := .tap 0x21 (s.dbg.data + s.dbg.status * 2 ^ 32) :: s.out })) ∧
  (∀ (write : Bool) (data : Nat) (s : Machine.State), s.dbg.busy = some (write, data) →
    let a := s.dbg.addr
    let next := if s.dbg.inc then (a + 4) % 2 ^ 48 else a
    (s.dbg.space = 1 → a % 4 = 0 → judge s .pf a 4 = none → hubDown s a 4 = none → anyPoison s a 4 = false →
      Ends (.debugAccessComplete false) s fun t => SameMemBut a 4 s t ∧ t.dbg.busy = none ∧ t.dbg.status = 0 ∧
        t.dbg.addr = next ∧
        (write = false → SameMem s t ∧ t.dbg.data = ofBytesLE (rdBytes s a 4)) ∧
        (write = true → rdBytes t a 4 = bytesLE 4 data)) ∧
    (s.dbg.space = 3 → s.sil.state = 4 → a = 32 → Ends (.debugAccessComplete false) s fun t => t.dbg.status = 0 ∧
      t.dbg.busy = none ∧ (write = true → t.sil.pc = data) ∧ (write = false → t.sil.pc = s.sil.pc ∧ t.dbg.data = s.sil.pc)) ∧
    (s.dbg.space ≤ 3 → Ends (.debugAccessComplete true) s fun t => t.dbg.status = 3 ∧ t.dbg.busy = none ∧
      rf t .DBG_STAT 20 17 = 6 ∧ t.dbg.addr = next ∧ SameMem s t))

/-- O32. The BAR4 window reads and writes device memory, vectors unmask, functions reset, and errors of the link are recorded
(R435, R443, R444, R455, R459, R460, R461, R462, R464).
An access inside the window, admitted and in force, returns the bytes there, or writes them and no others; a poisoned read
returns no data, a write that covers a poisoned word in part leaves that word and is reported, an access the checks refuse is
answered with its status. A valid size waits for Memory Space Enable. Unmasking a vector sends its pending message once. A
function reset empties the function's queues, commands and registers and sets its event bit; the link down does so for the physical
function. A packet with a bad ECRC or with EP, and another uncorrectable error, sets its AER status bit and, unless masked, is
reported at its severity, its header kept as the first, and entered once; so is a correctable one. A read of host memory that fails
puts the queue into ERROR, ends a run with RING_FAULT or the command that reads its source with MEMORY_ERROR, or ends a staging
with its slot emptied, or a read of a pattern set with FLASH_ERR; one that timed out is an AER error too. (Rests on the model's
choices of log entries 14, 15, 16, 61, 83.) -/
def Obligations.HostInterfaceEvents : Prop :=
  (∀ (off n : Nat) (s : Machine.State), bar4Hit s off n = true →
    let a := bar4Base s + off
    (bar4Err a n false s = none → anyPoison s a n = false → Ends (.bar4Read off n) s fun t =>
      t = { s with out := .cpl (.host 0) .sc ((rdBytes s a n).map (·.toNat)) :: s.out, regs := t.regs, free := t.free } ∧
      ∀ r i, r ≠ .SPM_WAIT_CNT → i < 2 ^ 20 → rd t r i = rd s r i) ∧
    (bar4Err a n false s = none → anyPoison s a n = true → Ends (.bar4Read off n) s fun t =>
      t.out.head? = some (.cpl (.host 0) .scEp []) ∧ Machine.rb t .HUB_ERR_STAT 6 = true ∧ SameMem s t ∧
      t = { s with regs := t.regs, sil := t.sil, out := t.out, fns := t.fns }) ∧
    (∀ c u, bar4Err a n false s = some (c, u) → Ends (.bar4Read off n) s fun t =>
      t.out.head? = some (.cpl (.host 0) (cplOf c) []) ∧ SameMem s t) ∧
    (∀ bytes, bytes.length = n → bar4Err a n true s = none → anyPoison s a n = false → Ends (.bar4Write off bytes) s fun t =>
      t = { s with mem := t.mem, poison := t.poison, lost := t.lost, regs := t.regs, free := t.free } ∧
      rdBytes t a n = bytes ∧ SameMemBut a n s t) ∧
    (∀ bytes, bytes.length = n → bar4Err a n true s = none → wrRefused s a n = true → Ends (.bar4Write off bytes) s fun t =>
      Machine.rb t .HUB_MEM_ERR_STAT 9 = true ∧ Machine.rb t .HUB_ERR_STAT 6 = true ∧
      (∀ b, poisoned s b = true → covers a n (eccBase b) = false → rdByte t b = rdByte s b) ∧ SameMemBut a n s t) ∧
    (∀ bytes c u, bytes.length = n → bar4Err a n true s = some (c, u) → Ends (.bar4Write off bytes) s fun t => SameMem s t ∧
      t.poison = s.poison)) ∧
  (∀ (log2 : Nat) (s : Machine.State), s.pcie.linkUp = true → 28 ≤ log2 → log2 ≤ 37 → Ends (.bar4Resize log2) s fun t =>
    t = { s with pcie := { s.pcie with bar4New := some log2 } }) ∧
  (∀ (fn vec : Nat) (s : Machine.State), s.pcie.linkUp = true → fnThere s fn = true → vec < vecCount fn →
    Ends (.msixUnmask fn vec) s fun t => t = { s with fns := t.fns, out := t.out } ∧ tget 0 (fnOf t fn).unmasked vec = 1 ∧
      (if (fnOf s fn).msixEn = true ∧ (fnOf s fn).fmask = false ∧ tget 0 (fnOf s fn).pend vec = 1 then
        t.out = .msix fn vec :: s.out ∧ tget 0 (fnOf t fn).pend vec = 0
       else t.out = s.out ∧ tget 0 (fnOf t fn).pend vec = tget 0 (fnOf s fn).pend vec) ∧
      ∀ g, g ≠ fn → fnOf t g = fnOf s g) ∧
  (∀ (k : Nat) (s : Machine.State), s.pcie.linkUp = true → 1 ≤ k → k < 32 → fnThere s k = true → Ends (.vfFlr k) s fun t =>
    (∀ q, q < 64 → queueOf t (qkOf k q) = {} ∧ rd t .QM_Q_CFG (qkOf k q) = resetOf .QM_Q_CFG (qkOf k q)) ∧
    Machine.rb t .HUB_VF_EVT k = true ∧ Machine.rb t .VF_EVT 0 k = true ∧ (fnOf t k).inFlr = false ∧
    rd t .QM_STAT k = resetOf .QM_STAT k ∧ rd t .SRV_STAT k = resetOf .SRV_STAT k) ∧
  (∀ (s : Machine.State), s.pcie.linkUp = true →
    (Ends .pfFlr s fun t => t.pcie = { linkUp := true, speed := s.pcie.speed, width := s.pcie.width } ∧
      (∀ q, q < 64 → queueOf t q = {}) ∧ (∀ r ∈ hostRegs, ∀ i, i < 2 ^ 20 → rd t r i = resetOf r i) ∧
      rd t .QM_STAT 0 = resetOf .QM_STAT 0) ∧
    Ends .hostLinkDown s fun t => t.pcie.linkUp = false ∧ t.pcie.vfEnable = false ∧ t.pcie.spdm = 0 ∧
      ∀ q, q < 64 → queueOf t q = {}) ∧
  (∀ (s : Machine.State), s.pcie.linkUp = false → Ends .hostLinkDown s fun t => t = s) ∧
  (∀ (fn : Nat) (cpl : Bool) (hdr : List Nat) (s : Machine.State), s.pcie.linkUp = true → fnThere s fn = true →
    let f := fnOf s fn
    let marked := fun (b : Nat) (t : Machine.State) => (fnOf t fn).aerStat = setBits f.aerStat b b 1 ∧
      (f.uncMask.testBit b = false → Msg.aer fn b (if f.aerSev.testBit b then 2 else 1) ∈ t.out ∧
        (fnOf t fn).hdrLog = (f.hdrLog <|> some (b, hdr)) ∧ b ∈ (fnOf t fn).aerSeen ∧ (b ∉ f.aerSeen → Logged 8 9 s t)) ∧
      SameMem s t ∧ t.cmds = s.cmds
    (f.ecrcCheck = true → Ends (.receivedTlpError fn .ecrc cpl hdr) s (marked 19)) ∧
    (f.ecrcCheck = false → Ends (.receivedTlpError fn .ecrc cpl hdr) s fun t => t = s) ∧
    (∀ b, Ends (.receivedTlpError fn (.uncorrectable b) cpl hdr) s fun t => marked b t ∧
      (f.uncMask.testBit b = true → t = { s with fns := t.fns } ∧ (fnOf t fn).hdrLog = f.hdrLog)) ∧
    (Ends (.receivedTlpError fn .poisoned cpl hdr) s fun t => marked 12 t ∧ Machine.rb t .HUB_ERR_STAT 6 = true) ∧
    (∀ b, Ends (.receivedTlpError fn (.correctable b) cpl hdr) s fun t => (fnOf t fn).corStat = setBits f.corStat b b 1 ∧
      (fnOf t fn).aerStat = f.aerStat ∧ (fnOf t fn).hdrLog = f.hdrLog ∧
      (f.corMask.testBit b = false → Msg.aer fn b 0 ∈ t.out ∧ (32 + b ∉ f.aerSeen → Logged 8 9 s t)) ∧ SameMem s t ∧
      t.cmds = s.cmds)) ∧
  (∀ (fn : Nat) (late : Bool) (s : Machine.State),
    (∀ q, fn < 32 → q < 64 → (queueOf s (qkOf fn q)).st = 1 → Ends (.hostReadTimeout fn (.command q) late) s fun t =>
      (queueOf t (qkOf fn q)).st = 3 ∧ Machine.rb t .QM_STAT 0 fn = true ∧ t.cmds = s.cmds ∧
      (∀ j, j ≠ qkOf fn q → queueOf t j = queueOf s j) ∧
      (fnOf t fn).aerStat = (if late then setBits (fnOf s fn).aerStat 14 14 1 else (fnOf s fn).aerStat)) ∧
    (∀ h g c, genOf s h = some g → cmdOf s h = some c → g.waits = true → g.pfx = none →
      Ends (.hostReadTimeout fn (.ringHead h) late) s fun t =>
        Completed h c 0x12 g.done (g.accepted % 2 ^ 32 + 2 ^ 32 * (g.proposed % 2 ^ 32)) s t ∧ genOf t h = none ∧
        SameMemButSlips s t) ∧
    (∀ h c, cmdOf s h = some c → c.run = false → mayStart s c = true → Ends (.hostReadTimeout fn (.source h) late) s fun t =>
      Completed h c 0x1A 0 0 s t ∧ SameMem s t) ∧
    (∀ u, s.sil.session = some u → u.phase = 1 → Ends (.hostReadTimeout fn .staging late) s fun t =>
      (late = false → t = { s with sil := t.sil }) ∧ t.sil.session = some { u with phase := 4 } ∧ fwSlot t (!s.sil.slot) = {} ∧ fwSlot t s.sil.slot = fwSlot s s.sil.slot ∧
      t.sil.slot = s.sil.slot) ∧
    (sessionOpen s = false → leAt (reqBytes s) 0 2 = 0x50 → Ends (.hostReadTimeout fn .staging late) s fun t =>
      t = { s with regs := t.regs, sil := t.sil, out := t.out, fns := t.fns, free := t.free } ∧
      Machine.rb t .SIL_MBX_STAT 1 = true ∧ fld (rd t .SIL_MBX_RSP 0) 15 0 = 6))

/-- O33. Data objects of the host are answered while Silset runs, wait while it does not, and follow the negotiation (R463, R548,
R549).
With the link up and Silset running, discovery names the two object types and then none, GET_VERSION answers 1.2 and begins
the negotiation, GET_CAPABILITIES and NEGOTIATE_ALGORITHMS carry it on, and only then digests, portions of the certificate
chain and measurements are given. An object out of order, an unknown slot, and an offset beyond the chain are answered with an
error. A signed response draws three free values, a nonce and a signature. While Silset does not run the object waits, and DOE
Abort takes it back. (Rests on the model's choices of log entries 7, 28.) -/
def Obligations.AttestationCommands : Prop :=
  (∀ (s : Machine.State), s.pcie.linkUp = true → s.sil.state = 1 →
    let base := { s with pcie := { s.pcie with doeReq := none } }
    let ans := fun (code : Nat) (data : List Nat) (n : Nat) (t : Machine.State) =>
      t = { s with pcie := { s.pcie with doeReq := none, spdm := n }, out := .doe code data :: s.out }
    (∀ i, Ends (.doeDiscovery i) s (ans 0 (if i = 0 then [1, 0, 1] else if i = 1 then [1, 1, 0] else [0xFFFF, 0xFF, 0])
      s.pcie.spdm)) ∧
    Ends .getVersion s (ans spdmVersion [0x12] 1) ∧
    (1 ≤ s.pcie.spdm → Ends .getCapabilities s (ans spdmCapabilities [0x16] 2)) ∧
    (2 ≤ s.pcie.spdm → ∀ asym hash, Ends (.negotiateAlgorithms asym hash) s
      (ans spdmAlgorithms [asym &&& 0x80, hash &&& 2] (if asym.testBit 7 = true ∧ hash.testBit 1 = true then 3 else 2))) ∧
    (3 ≤ s.pcie.spdm →
      Ends .getDigests s (ans spdmDigests [3, chainDigest s 0, chainDigest s 1] s.pcie.spdm) ∧
      (∀ slot off len, slot < 2 → off ≤ (chainOf s slot).length →
        let part := ((chainOf s slot).drop off).take len
        Ends (.getCertificate slot off len) s (ans spdmCertificate
          ([slot, part.length, (chainOf s slot).length - off - part.length] ++ part.map (·.toNat)) s.pcie.spdm)) ∧
      (∀ slot off len, (2 ≤ slot ∨ (chainOf s slot).length < off) →
        Ends (.getCertificate slot off len) s (ans spdmError [1] s.pcie.spdm)) ∧
      (∀ slot nonce, slot < 2 → s.dbg.keysErased = false → Ends (.challenge slot nonce) s fun t =>
        t = { base with free := s.free + 3, out := .doe spdmChallengeAuth ([slot, chainDigest s slot, nonce] ++
          (List.range 3).map fun k => (Config.freeBig (s.free + k)).toNat) :: s.out }) ∧
      (∀ i nonce, 1 ≤ i → i < 8 → Ends (.getMeasurements i false nonce) s
        (ans spdmMeasurements ([1, i, (measurement s i).length] ++ measurement s i) s.pcie.spdm)) ∧
      (∀ nonce, Ends (.getMeasurements 0 false nonce) s (ans spdmMeasurements [7] s.pcie.spdm)) ∧
      (∀ slot nonce i, slot < 2 → s.dbg.keysErased = true → Ends (.challenge slot nonce) s (ans spdmError [5] s.pcie.spdm) ∧
        (i < 8 → Ends (.getMeasurements i true nonce) s (ans spdmError [5] s.pcie.spdm)))) ∧
    (s.pcie.spdm < 3 → Ends .getDigests s (ans spdmError [4] s.pcie.spdm) ∧
      (∀ a b c, Ends (.getCertificate a b c) s (ans spdmError [4] s.pcie.spdm)) ∧
      (∀ a b, Ends (.challenge a b) s (ans spdmError [4] s.pcie.spdm)) ∧
      ∀ a b c, Ends (.getMeasurements a b c) s (ans spdmError [4] s.pcie.spdm))) ∧
  (∀ (c : Instr) (s : Machine.State), s.pcie.linkUp = true → s.sil.state ≠ 1 →
    c ∈ [Instr.getVersion, .getCapabilities, .getDigests] →
    Ends c s fun t => t = { s with pcie := { s.pcie with doeReq := some c } }) ∧
  (∀ (s : Machine.State), Ends .doeAbort s fun t => t = { s with pcie := { s.pcie with doeReq := none } })

/-- O34. A register write acts by access codes; strobes, bindings, security numbers, the time and the wear selector have their own
effects (R15, R16, R187, R197, R238, R438, R446, R450, R451, R452, R455, R457).
A whole aligned write of a register without an effect of its own, by a source the register admits, sets its RW bits to those
written, clears the W1C bits written as 1, sets its W1S bits and leaves every other bit; an access of another size, and one to
no register, changes none and sets its error bit. A strobe sends the buffered writes of its group, or is accepted at once
where there are none; the last block to apply it accepts it. An idle function is bound, another not. SET_MIN_SVN never falls,
and while LOCK is 1 a write that would change it is a violation. CAL_UTC takes the time unless IEEE 1588 disciplines it; CAL_WEAR_SEL shows the
wear of its tile-layer; an access without handshake is completed with CA.
(Rests on the model's choices of log entries 16, 17, 18, 108.) -/
def Obligations.RegisterWrites : Prop :=
  (∀ (src : Src) (off v : Nat) (p : Place2) (s : Machine.State), srcThere s src = true → off % 4 = 0 →
    decodeBar0 off = some p → meets s src p true = .ok →
    let r := p.reg
    let i := p.inst s .bar0
    let a := r.desc.acc
    i < 2 ^ 20 → v < 2 ^ 32 → r.desc.win ≠ .blk 15 → a.rwb = 0 → a.rwm = 0 → a.rwl = 0 → hiOfRw r = none → loOfRw r = none →
    reservedFields r v = 0 → crossBad r v = none →
    r ∉ [.HUB_UPD_STROBE, .HUB_VF_BIND, .HUB_GPIO_CTRL, .QM_Q_CFG, .SET_MIN_SVN, .NET_PORT_CFG, .RST_REQ, .RST_FENCE_HOST, .CHK_RATE,
         .CHK_SCAN_CTRL, .CAL_UTC, .CAL_WEAR_SEL, .SIL_MBX_CTRL, .CLK_GATE, .PWR_PT_REQ, .MADC_CHSEL, .RST_SPLIT] →
    Ends (.registerWrite src .bar0 off 4 true v) s fun t =>
      (∀ b, b < 32 → Machine.rb t r b i =
        (if a.w1s.testBit b && v.testBit b then true
         else if a.w1c.testBit b && v.testBit b then false
         else if a.rw.testBit b then v.testBit b else Machine.rb s r b i)) ∧
      SameMem s t ∧ t.cmds = s.cmds ∧ t.units = s.units ∧ t.tiles = s.tiles) ∧
  (∀ (src : Src) (off size v : Nat) (full : Bool) (s : Machine.State), srcThere s src = true →
    (sizeOk off size full = false → Ends (.registerWrite src .bar0 off size full v) s fun t =>
      t = { s with regs := t.regs, sil := t.sil, out := t.out, fns := t.fns } ∧ Machine.rb t .HUB_ERR_STAT 3 = true ∧
      ∀ r i, i < 2 ^ 20 → r ∉ [.HUB_ERR_STAT, .HUB_ERR_CNT, .HUB_ERR_INFO, .HUB_ERR_ADDR_LO, .HUB_ERR_ADDR_HI, .SIL_LOG_LOST] →
        rd t r i = rd s r i) ∧
    (off % 4 = 0 → decodeBar0 off = none → Ends (.registerWrite src .bar0 off 4 true v) s fun t =>
      t = { s with regs := t.regs, sil := t.sil, out := t.out, fns := t.fns } ∧ Machine.rb t .HUB_ERR_STAT 0 = true)) ∧
  (∀ (src : Src) (sp : RegSpace) (off : Nat) (write : Bool) (s : Machine.State), srcThere s src = true →
    Ends (.registerAccessTimeout src sp off write) s fun t =>
      t = { s with regs := t.regs, sil := t.sil, out := t.out, fns := t.fns } ∧ Machine.rb t .HUB_ERR_STAT 5 = true ∧
      (write = false → t.out.head? = some (.cpl src .ca []))) ∧
  (∀ (src : Src) (g : Nat) (s : Machine.State), g < 16 → srcThere s src = true →
    let own := s.rwb.filter fun e => blockGrp s (rwbBlock e.1) == g
    (own = [] → Ends (.updateStrobe src (BitVec.ofNat 32 (2 ^ g))) s fun t => t = { s with regs := t.regs } ∧
      (rd t .HUB_UPD_CNT).toNat = ((rd s .HUB_UPD_CNT).toNat + 1) % 2 ^ 32 ∧ SameRegs [(.HUB_UPD_CNT, 0)] s t) ∧
    (own ≠ [] → Ends (.updateStrobe src (BitVec.ofNat 32 (2 ^ g))) s fun t =>
      t = { s with strobes := t.strobes, rwb := s.rwb.filter fun e => blockGrp s (rwbBlock e.1) != g } ∧
      ∃ bs, t.strobes = s.strobes ++ [{ grp := g, blocks := bs, writes := own }] ∧ (∀ e ∈ own, rwbBlock e.1 ∈ bs) ∧
        ∀ b ∈ blocksOf s g, b ∈ bs)) ∧
  (∀ (b : Nat) (x : Strobe) (rest : List Strobe) (s : Machine.State), s.strobes = x :: rest →
    (b ∉ x.blocks → Ends (.clusterStrobeApply b) s fun t => t = s) ∧
    (b ∈ x.blocks → (∀ e ∈ x.writes, rwbBlock e.1 ≠ b) → x.blocks.filter (· != b) ≠ [] → Ends (.clusterStrobeApply b) s fun t =>
      t = { s with strobes := { x with blocks := x.blocks.filter (· != b) } :: rest }) ∧
    (x.blocks = [b] → (∀ e ∈ x.writes, e.1 / 2 ^ 20 ≠ Reg.HUB_UPD_CNT.ctorIdx) → Ends (.clusterStrobeApply b) s fun t => t.strobes = rest ∧
      (rd t .HUB_UPD_CNT).toNat = ((rd s .HUB_UPD_CNT).toNat + 1) % 2 ^ 32 ∧ SameMem s t ∧ t.cmds = s.cmds)) ∧
  (∀ (src : Src) (k : Nat) (v : Word) (s : Machine.State), srcThere s src = true → k < 32 →
    (vfIdle s k = true → Ends (.vfBindWrite src k v) s fun t => rf t .HUB_VF_BIND 2 0 k = v.toNat % 8 ∧
      Machine.rb t .HUB_VF_BIND 31 k = v.toNat.testBit 31 ∧ (∀ j, j < 32 → j ≠ k → rd t .HUB_VF_BIND j = rd s .HUB_VF_BIND j) ∧
      t = { s with regs := t.regs, sil := t.sil, out := t.out, fns := t.fns }) ∧
    (vfIdle s k = false → Ends (.vfBindWrite src k v) s fun t => rd t .HUB_VF_BIND k = rd s .HUB_VF_BIND k ∧
      Machine.rb t .HUB_ERR_STAT 1 = true ∧ t = { s with regs := t.regs, sil := t.sil, out := t.out, fns := t.fns })) ∧
  (∀ (src : Src) (k : Nat) (v : Word) (s : Machine.State), srcThere s src = true → k < 8 → Machine.rb s .SET_LOCK 0 = false →
    (v.toNat < (rd s .SET_MIN_SVN k).toNat → Ends (.setMinSvnWrite src k v) s fun t =>
      rd t .SET_MIN_SVN k = rd s .SET_MIN_SVN k ∧ Logged 0x0B 5 s t ∧
      t = { s with regs := t.regs, sil := t.sil, out := t.out, fns := t.fns }) ∧
    ((rd s .SET_MIN_SVN k).toNat ≤ v.toNat → Ends (.setMinSvnWrite src k v) s fun t => rd t .SET_MIN_SVN k = v ∧
      t = { s with regs := t.regs, sil := t.sil, out := t.out, fns := t.fns })) ∧
  (∀ (src : Src) (k : Nat) (v : Word) (s : Machine.State), srcThere s src = true → k < 8 → Machine.rb s .SET_LOCK 0 = true →
    v ≠ rd s .SET_MIN_SVN k → Ends (.setMinSvnWrite src k v) s fun t => rd t .SET_MIN_SVN k = rd s .SET_MIN_SVN k ∧
      Machine.rb t .HUB_ERR_STAT 2 = true ∧ t = { s with regs := t.regs, sil := t.sil, out := t.out, fns := t.fns }) ∧
  (∀ (src : Src) (v : Word) (s : Machine.State), srcThere s src = true →
    (disciplined s = false → Ends (.calUtcWrite src v) s fun t => t.utc = v.toNat ∧ t.utcAt = s.now ∧
      Machine.rb t .CAL_STAT 2 = true ∧ SameMem s t ∧ t.cmds = s.cmds) ∧
    (disciplined s = true → Ends (.calUtcWrite src v) s fun t =>
      t = { s with regs := t.regs, sil := t.sil, out := t.out, fns := t.fns }) ∧
    (bitsOf v.toNat 13 0 < 12288 → Ends (.calWearSelWrite src v) s fun t => rf t .CAL_WEAR_SEL 13 0 = bitsOf v.toNat 13 0 ∧
      rf t .CAL_WEAR_SEL 15 14 = bitsOf v.toNat 15 14 ∧
      (let tl := bitsOf v.toNat 13 0 * 4 + bitsOf v.toNat 15 14
       rf t .CAL_WEAR_DATA 16 0 = min (wearOf s tl).count 0x1FFFF ∧ (rd t .CAL_WEAR_TIME).toNat = (wearOf s tl).utc % 2 ^ 32) ∧
      SameMem s t ∧ t.cmds = s.cmds))

/-- O35. A read of a _LO half latches its _HI half for its source; a write of a _HI half makes both halves take effect (R436,
R447, R455, R456).
A read that a register admits returns its value; that of the _LO half of a read-only pair latches the _HI half for the same
source, and the next read of the _HI half by that source returns what was latched, and only once. A write of the _LO half of a
writable pair changes no register until the same source writes the _HI half, with which both take effect. A read of no
register is answered with UR, one of another size, without every byte or not aligned with CA; one of two DWORDs returns both
halves of a pair as they stood at one moment. A configuration read gives Vendor and Device ID of the
function by the part, and its class code with the stepping. (Rests on the model's choices of log entries 15, 16.) -/
def Obligations.RegisterPairs : Prop :=
  (∀ (src : Src) (off : Nat) (p : Place2) (s : Machine.State), srcThere s src = true → off % 4 = 0 → decodeBar0 off = some p →
    meets s src p false = .ok →
    let i := p.inst s .bar0
    let k := pairKey src p.reg i
    (tget 0 s.latched k = 0 → hiOfRo p.reg = none → Ends (.pairLoRead src .bar0 off 4 true) s fun t =>
      t = { s with out := .cpl src .sc [(viewWord s p.reg i).toNat] :: s.out }) ∧
    (∀ hi, tget 0 s.latched k = 0 → hiOfRo p.reg = some hi → Ends (.pairLoRead src .bar0 off 4 true) s fun t =>
      t = { s with latched := t.latched, out := .cpl src .sc [(viewWord s p.reg i).toNat] :: s.out } ∧
      tget 0 t.latched (pairKey src hi i) = (viewWord s hi i).toNat + 1) ∧
    (∀ w : Word, tget 0 s.latched k = w.toNat + 1 → Ends (.pairLoRead src .bar0 off 4 true) s fun t =>
      t = { s with latched := t.latched, out := .cpl src .sc [w.toNat] :: s.out } ∧ tget 0 t.latched k = 0)) ∧
  (∀ (src : Src) (off : Nat) (s : Machine.State), srcThere s src = true →
    (off % 4 = 0 → decodeBar0 off = none → Ends (.pairLoRead src .bar0 off 4 true) s fun t =>
      t.out.head? = some (.cpl src .ur []) ∧ SameMem s t ∧ Machine.rb t .HUB_ERR_STAT 0 = true) ∧
    (∀ size full, sizeOk off size full = false → Ends (.pairLoRead src .bar0 off size full) s fun t =>
      t.out.head? = some (.cpl src .ca []) ∧ SameMem s t ∧ Machine.rb t .HUB_ERR_STAT 3 = true)) ∧
  (∀ (src : Src) (off : Nat) (p q : Place2) (s : Machine.State), srcThere s src = true → off % 8 = 0 → decodeBar0 off = some p →
    decodeBar0 (off + 4) = some q → meets s src p false = .ok → meets s src q false = .ok →
    let i := p.inst s .bar0
    tget 0 s.latched (pairKey src p.reg i) = 0 → hiOfRo p.reg = some q.reg → q.inst s .bar0 = i →
    Ends (.pairLoRead src .bar0 off 8 true) s fun t =>
      t = { s with latched := t.latched, out := .cpl src .sc [(viewWord s p.reg i).toNat, (viewWord s q.reg i).toNat] :: s.out } ∧
      tget 0 t.latched (pairKey src q.reg i) = 0) ∧
  (∀ (src : Src) (fn : Nat) (s : Machine.State), srcThere s src = true → fnThere s fn = true →
    let dev := if s.fuses.part4808 then (if fn = 0 then 0x4808 else 0x4809) else if fn = 0 then 0x3606 else 0x3607
    (Ends (.pairLoRead src (.cfg fn .ident) 0 4 true) s fun t => t = { s with out := .cpl src .sc [0x1FC7 + dev * 2 ^ 16] :: s.out }) ∧
    Ends (.pairLoRead src (.cfg fn .classRev) 0 4 true) s fun t =>
      t = { s with out := .cpl src .sc [s.fuses.step % 2 ^ 8 + 0x120000 * 2 ^ 8] :: s.out }) ∧
  (∀ (src : Src) (off v x : Nat) (p : Place2) (lo hi : Reg) (s : Machine.State), srcThere s src = true → off % 4 = 0 →
    decodeBar0 off = some p → meets s src p true = .ok → v < 2 ^ 32 → x < 2 ^ 32 →
    (lo, hi) ∈ [(Reg.QM_SQ_BASE_LO, Reg.QM_SQ_BASE_HI), (.QM_RQ_BASE_LO, .QM_RQ_BASE_HI), (.NET_PORT_MAC_LO, .NET_PORT_MAC_HI)] →
    let i := p.inst s .bar0
    i < 2 ^ 20 → baseLocked s p.reg i = false →
    (p.reg = lo → Ends (.registerWrite src .bar0 off 4 true v) s fun t =>
      t = { s with heldLo := t.heldLo } ∧ tget 0 t.heldLo (pairKey src lo i) = v + 1) ∧
    (p.reg = hi → tget 0 s.heldLo (pairKey src lo i) = x + 1 → Ends (.pairHiWrite src .bar0 off (BitVec.ofNat 32 v)) s fun t =>
      (∀ b, b < 32 → lo.desc.acc.rw.testBit b = true → Machine.rb t lo b i = x.testBit b) ∧
      (∀ b, b < 32 → hi.desc.acc.rw.testBit b = true → Machine.rb t hi b i = v.testBit b) ∧
      tget 0 t.heldLo (pairKey src lo i) = 0 ∧ SameMem s t ∧ t.cmds = s.cmds))

/-- O36. The mailbox answers each opcode in its response buffer, with its effect on slots, keys, COMMISSIONED and patterns (R516,
R541, R544, R547, R555, R561).
While Silset runs, each mailbox command leaves STATUS, LENGTH, TAG and its payload in the response buffer and sets DONE: the
versions, the entries of the log from a sequence number, the state of an update, the key table. FW_STAGE opens a session and
empties the other slot; FW_ACTIVATE makes a VALID slot TRIAL and restarts Silset; an enrolled key joins the table at the cost
of an anchor slot, a revoked one is marked; COMMISSION sets its bit for the right value only; SCAN_WRITE takes the pattern
set. A request that is not admissible is answered with its status and changes nothing, and in RECOVERY the boot ROM answers
INVALID to what it does not serve. While Silset does not run no command is answered. (Rests on the model's choices of log entries 7, 19, 25, 26.) -/
def Obligations.MailboxCommands : Prop :=
  (∀ (tag : Nat) (s : Machine.State), s.sil.state = 1 →
    let ans := fun (st : Nat) (pl : List Byte) (t : Machine.State) => Machine.rb t .SIL_MBX_STAT 1 = true ∧
      ∀ j, j < 8 + pl.length → rf t .SIL_MBX_RSP (8 * (j % 4) + 7) (8 * (j % 4)) (j / 4) =
        ((bytesLE 2 st ++ bytesLE 2 pl.length ++ bytesLE 4 tag ++ pl).getD j 0).toNat
    let quiet := fun (t : Machine.State) => t = { s with regs := t.regs, out := t.out, fns := t.fns }
    let other := fun (t : Machine.State) => fwSlot t (!s.sil.slot)
    (Ends (.getInfo tag) s fun t => quiet t ∧ ans 0 (bytesLE 4 s.sil.slotA.version ++ bytesLE 4 s.sil.slotB.version ++
      bytesLE 1 s.sil.slotA.svn ++ bytesLE 1 s.sil.slotB.svn ++ bytesLE 1 s.sil.slotA.state ++ bytesLE 1 s.sil.slotB.state ++
      bytesLE 1 s.sil.rollback ++ bytesLE 1 (b2n s.sil.commissioned)) t) ∧
    (∀ n flash, Ends (.logRead tag n flash) s fun t =>
      let ring := (if flash then s.sil.mirror else s.sil.log).reverse
      let es := (ring.filter fun e => decide (n ≤ e.seq)).take 3
      quiet t ∧ ans 0 (bytesLE 4 ((ring.head?.map (·.seq)).getD 0) ++ es.flatMap LogEntry.bytes) t) ∧
    (∀ addr len, (sessionOpen s = true → Ends (.fwStage tag addr len) s fun t => quiet t ∧ ans 3 [] t) ∧
      (sessionOpen s = false → (len = 0 ∨ 0x800000 < len) → Ends (.fwStage tag addr len) s fun t => quiet t ∧ ans 1 [] t) ∧
      (sessionOpen s = false → 0 < len → len ≤ 0x800000 → Ends (.fwStage tag addr len) s fun t => ans 0 [] t ∧
        other t = {} ∧ t.sil.session = some { path := 0, len := len, phase := 1 } ∧ Msg.hostRead 0 addr len ∈ t.out ∧
        t = { s with regs := t.regs, out := t.out, fns := t.fns, sil := t.sil })) ∧
    (Ends (.fwStatus tag) s fun t => quiet t ∧ ans (if (s.sil.session.getD {}).phase = 4 then 6 else 0) (bytesLE 1 (s.sil.session.getD {}).phase ++
      bytesLE 4 (s.sil.session.getD {}).written ++ bytesLE 1 s.sil.slotA.state ++ bytesLE 1 s.sil.slotB.state) t) ∧
    (∀ now force, sessionOpen s = false → (other s).state = 1 → Ends (.fwActivate tag now force) s fun t => ans 0 [] t ∧
      (other t).state = 2 ∧ t.sil.state = 2 ∧ t.sil.activating = true ∧ t.sil.session = none ∧
      t.sil.rollback = (if force then max s.sil.rollback (other s).svn else s.sil.rollback) ∧ SameMem s t) ∧
    (∀ now force, sessionOpen s = false → (other s).state ≠ 1 →
      Ends (.fwActivate tag now force) s fun t => quiet t ∧ ans 1 [] t) ∧
    (∀ mgmt pub sig, (keysAllowed s mgmt = false → ∀ kind, Ends (.keyEnroll mgmt tag kind pub sig) s fun t => quiet t ∧ ans 2 [] t) ∧
      (keysAllowed s mgmt = true → s.sil.anchorsUsed < 8 → (s.sil.commissioned = false ∨ keySigOk s 0x0030 0 pub sig = true) →
        s.sil.keys.length < 8 → Ends (.keyEnroll mgmt tag 0 pub sig) s fun t => ans 0 (bytesLE 1 s.sil.keys.length) t ∧
          t.sil.keys = s.sil.keys ++ [{ fpr := keyFpr pub, pub := pub }] ∧ t.sil.anchorsUsed = s.sil.anchorsUsed + 1 ∧
          Logged 0x0B 2 s t) ∧
      (keysAllowed s mgmt = true → s.fuses.locked = false → s.sil.commissioned = false → s.sil.ownerKey = none →
        Ends (.keyEnroll mgmt tag 1 pub sig) s fun t => ans 0 (bytesLE 1 0) t ∧
          t.sil.ownerKey = some (keyHash pub) ∧ t.sil.keys = s.sil.keys)) ∧
    (∀ mgmt i sig, keysAllowed s mgmt = true →
      (s.sil.keys[i]? = none → Ends (.keyRevoke mgmt tag i sig) s fun t => quiet t ∧ ans 7 [] t) ∧
      (∀ k, s.sil.keys[i]? = some k → k.revoked = false → s.sil.anchorsUsed < 8 → s.sil.commissioned = false →
        Ends (.keyRevoke mgmt tag i sig) s fun t => ans 0 [] t ∧ t.sil.keys = s.sil.keys.set i { k with revoked := true } ∧
          t.sil.anchorsUsed = s.sil.anchorsUsed + 1)) ∧
    (s.sil.keys.length ≤ 8 → Ends (.keyList tag) s fun t => quiet t ∧
      ans 0 (s.sil.keys.flatMap fun k => (bytesLE 8 k.fpr).reverse ++ bytesLE 1 (b2n k.revoked)) t) ∧
    (∀ mgmt v, keysAllowed s mgmt = true → Ends (.commission mgmt tag v) s fun t =>
      if v = 0x0C0FFEE5 then ans 0 [] t ∧ t.sil.commissioned = true ∧ t.sil.keys = s.sil.keys else quiet t ∧ ans 1 [] t) ∧
    (∀ addr bytes, sessionOpen s = false → s.sil.flashOk = true → bytes ≠ [] → bytes.length ≤ 0x2000000 →
      Ends (.scanWrite tag addr bytes) s fun t => ans 0 [] t ∧ Msg.hostRead 0 addr bytes.length ∈ t.out ∧
        t = { s with regs := t.regs, out := t.out, fns := t.fns,
                     sil := { s.sil with scanData := bytes, scanLen := bytes.length } })) ∧
  (∀ (tag x y : Nat) (b : Bool) (data : List Nat) (c : Instr) (s : Machine.State), s.sil.state = 3 →
    c ∈ [Instr.logRead tag x b, .keyEnroll b tag x y y, .keyRevoke b tag x y, .keyList tag, .commission b tag x,
      .scanWrite tag x data] →
    Ends c s fun t => t = { s with regs := t.regs, out := t.out, fns := t.fns } ∧ Machine.rb t .SIL_MBX_STAT 1 = true ∧
      rf t .SIL_MBX_RSP 15 0 0 = 1) ∧
  (∀ (tag x y : Nat) (b b' : Bool) (data : List Nat) (c : Instr) (s : Machine.State), silUp s = false →
    c ∈ [Instr.getInfo tag, .logRead tag x b, .fwStage tag x y, .fwStatus tag, .fwActivate tag b b', .keyEnroll b tag x y y,
      .keyRevoke b tag x y, .keyList tag, .commission b tag x, .scanWrite tag x data] →
    Ends c s fun t => t = { s with regs := t.regs, sil := t.sil, out := t.out, fns := t.fns } ∧ t.sil.keys = s.sil.keys ∧
      t.sil.slotA = s.sil.slotA ∧ t.sil.slotB = s.sil.slotB ∧ t.sil.commissioned = s.sil.commissioned ∧
      ∀ i, i < 64 → rd t .SIL_MBX_RSP i = rd s .SIL_MBX_RSP i)

/-- O37. Silset restarts, the boot ROM chooses a slot or enters RECOVERY, the flash takes its writes, and a staged image is judged
(R6, R185, R186, R529, R531, R534, R542, R543, R544, R547, R556).
A lockstep mismatch, an expired watchdog while Silset is not halted, and an uncorrectable error restart Silset, with their
cause and count in SIL_RESTART. The boot ROM boots the TRIAL slot that an activation made, or the CONFIRMED slot, where the flash
gives it back and its image is accepted: header, key, signature, and a security number not below the rollback counter; a TRIAL
slot that another restart finds is REJECTED and the CONFIRMED one booted; with neither slot good it is in RECOVERY. A completed
flash write stores what it names: the state record, the start of a programming, a mirror page, done records that
no newer start has passed, or staged bytes; a write whose third retry fails sets FLASH_OK to 0, and ends a staging of which it was
a part. A staged image that is accepted makes its
slot VALID, any other REJECTED. (Rests on the model's choices of log entries 8, 13, 25, 26, 85.) -/
def Obligations.SilsetStartAndFlash : Prop :=
  (∀ (s : Machine.State),
    let restarted := fun (n : Nat) (t : Machine.State) =>
      t = { s with regs := t.regs, sil := t.sil, out := t.out, fns := t.fns } ∧ t.sil.state = 2 ∧ t.sil.handed = false ∧
      t.sil.session = none ∧ rf t .SIL_RESTART 18 16 = n ∧
      rf t .SIL_RESTART 15 0 = min 65535 (rf s .SIL_RESTART 15 0 + 1) ∧ t.sil.keys = s.sil.keys
    Ends .lockstepMismatch s (restarted 1) ∧
    (s.sil.state ≠ 4 → Ends .watchdogExpiry s (restarted 2)) ∧
    (s.sil.state = 4 → Ends .watchdogExpiry s fun t => t = s) ∧
    Ends .silsetSramUncorrectable s (restarted 3)) ∧
  (∀ (okA okB tableOk b : Bool) (s : Machine.State), (s.sil.state = 2 ∨ s.sil.state = 0 ∧ rf s .CLK_STAT 14 12 = 2) →
    let run := Instr.bootRomStart okA okB tableOk
    let okOf := fun (b : Bool) => if b then okB else okA
    let boots := fun (b : Bool) (t : Machine.State) =>
      t = { s with regs := t.regs, sil := t.sil, out := t.out, fns := t.fns } ∧ t.sil.slot = b ∧ t.sil.handed = true ∧
      t.sil.runSince = s.now ∧ t.sil.activating = false ∧ t.sil.state = s.sil.state ∧ fwSlot t b = fwSlot s b ∧
      t.sil.anchorOk = (tableOk && (s.sil.anchorsUsed == 0 || keyAnchor s.sil.keys == s.sil.anchor))
    (okOf b = true → fwAccepted s (fwSlot s b).image = true → (fwSlot s (!b)).state ≠ 2 →
      ((fwSlot s b).state = 3 → (fwSlot s (!b)).state ≠ 3 → Ends run s (boots b)) ∧
      ((fwSlot s b).state = 2 → (s.sil.activating = true ∨ s.sil.state = 0) → Ends run s (boots b))) ∧
    (okOf b = true → fwAccepted s (fwSlot s b).image = true → (fwSlot s b).state = 3 → (fwSlot s (!b)).state = 2 →
      s.sil.activating = false → s.sil.state = 2 → Ends run s fun t => boots b t ∧ (fwSlot t (!b)).state = 4) ∧
    (slotBoots s false okA = false → slotBoots s true okB = false → Ends run s fun t =>
      t = { s with regs := t.regs, sil := t.sil, out := t.out, fns := t.fns } ∧ t.sil.state = 3 ∧ t.sil.activating = false ∧
      t.sil.handed = s.sil.handed ∧ (∀ b, (fwSlot s b).state ≠ 0 → (fwSlot t b).state = 4) ∧
      ∀ b, (fwSlot s b).state = 0 → fwSlot t b = fwSlot s b)) ∧
  (∀ (okA okB tableOk : Bool) (s : Machine.State), s.sil.state ≠ 2 → (s.sil.state ≠ 0 ∨ rf s .CLK_STAT 14 12 ≠ 2) →
    Ends (.bootRomStart okA okB tableOk) s fun t => t = s) ∧
  (∀ (s : Machine.State),
    (∀ ok, nextJob s = none → Ends (.flashWriteDone ok) s fun t => t = s) ∧
    (nextJob s = some .stateStore → Ends (.flashWriteDone true) s fun t => t = { s with sil := t.sil } ∧
      t.sil.store = stateRec s ∧ t.sil.flashQ = s.sil.flashQ.erase .stateStore ∧ t.sil.flashOk = true ∧ t.sil.flashTries = 0) ∧
    (∀ tl, nextJob s = some (.startPage [tl]) → Ends (.flashWriteDone true) s fun t =>
      t = { s with regs := t.regs, sil := t.sil, out := t.out, fns := t.fns } ∧
      wearOf t tl = { wearOf s tl with count := (wearOf s tl).count + 1, state := 2 } ∧ tl ∈ t.sil.pageDone ∧
      (rf s .CAL_WEAR_WARN 16 0 ≤ (wearOf s tl).count + 1 → Machine.rb t .CAL_STAT 20 = true ∧ Logged 4 6 s t) ∧
      ∀ x, x ≠ tl → wearOf t x = wearOf s x) ∧
    (nextJob s = some .mirrorPage → Ends (.flashWriteDone true) s fun t => t = { s with sil := t.sil } ∧
      t.sil.mirrorQ = s.sil.mirrorQ.drop 4 ∧ t.sil.mirror = mirrorRing ((s.sil.mirrorQ.take 4).reverse ++ s.sil.mirror)) ∧
    (∀ tl w, nextJob s = some (.donePage [(tl, w)]) → Ends (.flashWriteDone true) s fun t => t = { s with sil := t.sil } ∧
      tget {} t.sil.wearFlash tl = (if (tget {} s.sil.wearFlash tl).count ≤ w.count then w else tget {} s.sil.wearFlash tl) ∧
      ∀ x, x ≠ tl → tget {} t.sil.wearFlash x = tget {} s.sil.wearFlash x) ∧
    (∀ n u, nextJob s = some (.staging n) → s.sil.session = some u →
      (Ends (.flashWriteDone true) s fun t => t = { s with sil := t.sil } ∧
        t.sil.session = some { u with written := u.written + n }) ∧
      (3 ≤ s.sil.flashTries → Ends (.flashWriteDone false) s fun t => t.sil.flashOk = false ∧
        t.sil.session = some { u with phase := 4 } ∧ (u.phase = 1 → fwSlot t (!s.sil.slot) = {}) ∧ SameMem s t)) ∧
    (nextJob s ≠ none → s.sil.flashTries < 3 → Ends (.flashWriteDone false) s fun t =>
      t = { s with sil := { s.sil with flashTries := s.sil.flashTries + 1 } }) ∧
    (∀ j, nextJob s = some j → jobRank j ≠ 5 → 3 ≤ s.sil.flashTries → Ends (.flashWriteDone false) s fun t =>
      t = { s with regs := t.regs, sil := t.sil, out := t.out, fns := t.fns } ∧ t.sil.flashOk = false ∧
      t.sil.flashTries = 0 ∧ t.sil.flashQ = s.sil.flashQ ∧ (s.sil.flashOk = true → Logged 0xC 3 s t))) ∧
  (∀ (image : List Byte) (s : Machine.State),
    (sessionOpen s = true → Ends (.fwStageComplete image) s fun t =>
      t = { s with regs := t.regs, sil := t.sil, out := t.out, fns := t.fns } ∧
      (let v := fwSlot t (!s.sil.slot)
       v.state = (if fwAccepted s image then 1 else 4) ∧ v.image = image ∧ v.version = fwAt image 0xC 4 ∧
       v.svn = fwAt image 0x10 1 ∧ v.eval = (fwAt image 0x11 1).testBit 0 ∧ v.agents = (fwAt image 0x11 1).testBit 1) ∧
      fwSlot t s.sil.slot = fwSlot s s.sil.slot ∧ sessionOpen t = false ∧
      Logged 0x0B (if fwAccepted s image then 8 else 1) s t) ∧
    (sessionOpen s = false → Ends (.fwStageComplete image) s fun t => t = s))

/-- O38. MCTP control messages are always answered, PLDM messages while Silset runs, and an update session is opened and activated
(R529, R544, R553, R554).
Every MCTP control command and PLDM command is answered by one message and changes nothing but what it sets: the endpoint
identifier where it is one, the event receiver, an update session that empties the other slot unless one is open. PLDM
commands are not answered while Silset does not run. The commands between RequestUpdate and ActivateFirmware stage data for a
session of this path and are answered as not in update mode without one; ActivateFirmware makes the VALID slot TRIAL and
restarts Silset. The codes of the answers are PRESUMED (log entry 27): the manual gives no values for them. (Rests on the
model's choices of log entry 27.) -/
def Obligations.ManagementBusCommands : Prop :=
  (∀ (s : Machine.State),
    let ans := fun (c : Instr) (ty code : Nat) (data : List Nat) =>
      Ends c s fun t => t = { s with out := .mgmt ty code data :: s.out }
    (∀ eid, (eid = 0 ∨ eid = 0xFF → ans (.setEndpointId eid) 0 0x01 [2, s.sil.endpointId]) ∧
      (eid ≠ 0 → eid ≠ 0xFF → Ends (.setEndpointId eid) s fun t =>
        t = { s with sil := { s.sil with endpointId := eid }, out := .mgmt 0 0x01 [0, eid] :: s.out })) ∧
    ans .getEndpointId 0 0x02 [0, s.sil.endpointId] ∧ ans .getEndpointUuid 0 0x03 [0, Config.endpointUuid.toNat] ∧
    (∀ ty, ans (.getMctpVersionSupport ty) 0 0x04 [0, (Config.mctpVersions ty).toNat]) ∧
    ans .getMessageTypeSupport 0 0x05 [0, 1, 5] ∧
    (s.sil.state = 1 →
      ans .gettid 1 0x02 [0, Config.terminusId.toNat] ∧
      (∀ ty, ans (.getpldmversion ty) 1 0x03 (if ty = 0 ∨ ty = 2 ∨ ty = 5 then [0, (Config.pldmVersions ty).toNat] else [1])) ∧
      ans .getpldmtypes 1 0x04 [0, 0, 2, 5] ∧
      (∀ ty, ans (.getpldmcommands ty) 1 0x05 (((pldmCommands ty).map (0 :: ·)).getD [1])) ∧
      (∀ on eid, Ends (.seteventreceiver on eid) s fun t => t = { s with
        sil := { s.sil with eventRx := if on then some eid else none }, out := .mgmt 1 0x04 [0] :: s.out }))) ∧
  (∀ (ty eid : Nat) (on : Bool) (c : Instr) (s : Machine.State), s.sil.state ≠ 1 →
    c ∈ [Instr.gettid, .getpldmversion ty, .getpldmtypes, .getpldmcommands ty, .seteventreceiver on eid] →
    Ends c s fun t => t = s) ∧
  (∀ (s : Machine.State), silUp s = true →
    let b := !s.sil.slot
    (∀ len, (sessionOpen s = true → Ends (.requestupdate len) s fun t => t = { s with out := .mgmt 1 0x10 [0x81] :: s.out }) ∧
      (sessionOpen s = false → Ends (.requestupdate len) s fun t => fwSlot t b = {} ∧ fwSlot t (!b) = fwSlot s (!b) ∧
        t.sil.session = some { path := 1, len := len, phase := 1 } ∧
        t = { s with sil := t.sil, out := .mgmt 1 0x10 [0] :: s.out })) ∧
    (∀ cmd n, (s.sil.session = none → Ends (.pldmComponentTransfer cmd n) s fun t =>
        t = { s with out := .mgmt 1 cmd [0x80] :: s.out }) ∧
      (∀ u, s.sil.session = some u → u.path = 1 → u.phase = 1 → Ends (.pldmComponentTransfer cmd n) s fun t =>
        t = { s with sil := { s.sil with flashQ := s.sil.flashQ ++ if cmd = 0x15 then [.staging n] else [] },
                     out := .mgmt 1 cmd [0] :: s.out })) ∧
    (∀ u, s.sil.session = some u → u.path = 1 → u.phase ≠ 1 → (fwSlot s b).state = 1 → Ends .activatefirmware s fun t =>
      (fwSlot t b).state = 2 ∧ t.sil.state = 2 ∧ t.sil.session = none ∧ rf t .SIL_RESTART 18 16 = 4 ∧
      .mgmt 1 0x1A [0] ∈ t.out ∧ SameMem s t) ∧
    ((fwSlot s b).state ≠ 1 → Ends .activatefirmware s fun t => t = { s with out := .mgmt 1 0x1A [0x80] :: s.out }))

/-- O39. Frames are counted, admitted and dropped, priorities pause and storm, ports train, and queue pairs retry, slow down and
fail (R397, R398, R399, R400, R401, R402, R403, R404, R410, R429, R431).
On a port that is up, a frame with a bad FCS is counted as such, one too long or not addressed to the port is dropped, a data
packet enters its buffer and an acknowledgement frees the requests whose last packet it names or passes. A frame of IEEE 1588 is dropped unless it is in force; an event
message is timestamped, and on PTP_PORT the ordinary clock follows the master announced: a Sync makes it ask for the delay, the
answer sets device time and UTC, and a neighbour's Pdelay_Req is answered. A PFC frame pauses or resumes its priority; a pause of 100 ms is a storm and drops what
waits. A mode write gives the four logical ports the mode and lets those that it creates train where their clock runs; a port whose link goes down
takes its ready queue pairs into error. Of the requests that are known, one past the packet expected gets a sequence NAK and has no
effect, and a write that comes again writes nothing. An RDMA WRITE that is known, expected and allowed writes its bytes, a READ
sends them; one not allowed, a fatal NAK, and a timeout with its retries spent put the queue pair into error; another timeout
sends again, and so does a sequence NAK, which acknowledges what stands before the packet it names. A CNP lowers the rate
and the timer raises it. (Rests on the model's choices of log entries 53, 54, 57, 71, 108.) -/
def Obligations.PortAndQueuePairEvents : Prop :=
  (∀ (port : Nat) (f : RxFrame) (s : Machine.State), port < 32 → portUp s port = true → f.unc = false →
    let rx := fun (t : Machine.State) => (rd t .NET_RX_FRAMES port).toNat = ((rd s .NET_RX_FRAMES port).toNat + 1) % 2 ^ 32 ∧
      (rd t .NET_FEC_CORR port).toNat = ((rd s .NET_FEC_CORR port).toNat + f.fec) % 2 ^ 32 ∧ SameMem s t ∧ t.cmds = s.cmds
    (f.fcsBad = true → Ends (.frameReceive port f) s fun t => rx t ∧
      (rd t .NET_RX_FCS_ERR port).toNat = ((rd s .NET_RX_FCS_ERR port).toNat + 1) % 2 ^ 32 ∧
      t = { s with regs := t.regs, sil := t.sil, out := t.out, fns := t.fns }) ∧
    (f.fcsBad = false → (9216 < f.len ∨ ownFrame s port f = false ∨ f.frag = true ∨ 1 < f.tags ∨ 3 < f.kind ∨
        f.kind = 2 ∧ ptpOn s = false) →
      Ends (.frameReceive port f) s fun t => rx t ∧
        (rd t .NET_RX_DROP port).toNat = ((rd s .NET_RX_DROP port).toNat + 1) % 2 ^ 32 ∧
        t = { s with regs := t.regs, sil := t.sil, out := t.out, fns := t.fns }) ∧
    (f.fcsBad = false → f.len ≤ 9216 → ownFrame s port f = true → f.frag = false → f.tags ≤ 1 → f.icrcBad = false → f.ce = false →
      (f.kind = 0 → f.ctrl = false → (lportOf s port).fillD + f.len ≤ 0x60000 → Ends (.frameReceive port f) s fun t => rx t ∧
        t = { s with regs := t.regs, ports := t.ports } ∧
        lportOf t port = { lportOf s port with fillD := (lportOf s port).fillD + f.len } ∧
        ∀ p, p ≠ port → lportOf t p = lportOf s p) ∧
      (f.kind = 1 → Ends (.frameReceive port f) s fun t => rx t ∧ t = { s with regs := t.regs, qps := t.qps } ∧
        (qpOf t f.qp).unacked = (qpOf s f.qp).unacked.filter (fun e => !psnLe (lastPsn s f.qp e) f.psn) ∧ ∀ n, n ≠ f.qp → qpOf t n = qpOf s n)) ∧
    (f.fcsBad = false → f.len ≤ 9216 → ownFrame s port f = true → f.frag = false → f.tags ≤ 1 → f.kind = 2 → ptpOn s = true →
      let m := f.ptp
      let c := s.ptp
      (m.ty < 4 → Ends (.frameReceive port f) s fun t => rx t ∧ (lportOf t port).rxStamp = s.now + 1) ∧
      ((silUp s = false ∨ rf s .NET_CTRL 20 16 ≠ port) → Ends (.frameReceive port f) s fun t => rx t ∧
        t = { s with regs := t.regs, ports := t.ports }) ∧
      (silUp s = true → rf s .NET_CTRL 20 16 = port →
        (m.ty = 11 → c.master = none → Ends (.frameReceive port f) s fun t => rx t ∧ t.now = s.now ∧
          t.ptp = { c with master := some (m.src, m.rank), utcOff := m.time }) ∧
        (∀ r, c.master = some (m.src, r) → m.ty = 0 → m.twoStep = false → c.p2p = false → Ends (.frameReceive port f) s fun t =>
          rx t ∧ t.now = s.now ∧ Msg.ptp port 1 (c.seq + 1) 0 ∈ t.out ∧
          t.ptp = { c with sync := none, t1 := m.time, t2 := s.now, seq := c.seq + 1, t3 := s.now }) ∧
        (∀ r, c.master = some (m.src, r) → m.ty = 9 → m.seq = c.seq → c.t3 ≠ 0 → Ends (.frameReceive port f) s fun t =>
          rx t ∧ t.now = ((s.now : Int) - (((c.t2 : Int) - c.t1) - ((m.time : Int) - c.t3)) / 2).toNat ∧
          t.ptp.locked = true ∧ t.utc = t.now / 1000000000 - c.utcOff ∧ t.utcAt = t.now ∧ Machine.rb t .CAL_STAT 2 = true) ∧
        (m.ty = 2 → Ends (.frameReceive port f) s fun t => rx t ∧ t.now = s.now ∧ Msg.ptp port 3 m.seq s.now ∈ t.out ∧
          Msg.ptp port 10 m.seq s.now ∈ t.out ∧ t.ptp = { c with p2p := true })))) ∧
  (∀ (port prio : Nat) (s : Machine.State), port < 32 → prio < 8 →
    (portUp s port = true → Ends (.pfcFrameReceive port prio true) s fun t => t = { s with regs := t.regs, ports := t.ports } ∧
      lportOf t port = { lportOf s port with paused := (lportOf s port).paused ||| 2 ^ prio } ∧
      (rd t .NET_PFC_RX port).toNat = ((rd s .NET_PFC_RX port).toNat + 1) % 2 ^ 32) ∧
    (portUp s port = true → Ends (.pfcFrameReceive port prio false) s fun t =>
      t = { s with regs := t.regs, ports := t.ports, out := t.out } ∧ (lportOf t port).paused.testBit prio = false ∧
      (lportOf t port).storm.testBit prio = false ∧ (∀ e ∈ (lportOf t port).queue, e.1 ≠ prio) ∧
      ∀ e ∈ (lportOf s port).queue, e.1 = prio → Msg.net e.2.1 e.2.2.1 e.2.2.2.2 (netHdr s port e.2.1 e.2.2.1 e.2.2.2.1) ∈ t.out) ∧
    ((lportOf s port).paused.testBit prio = true → (lportOf s port).storm.testBit prio = false →
      Ends (.pfcStormTimeout port prio) s fun t => Machine.rb t .NET_PORT_STAT 9 port = true ∧
        (lportOf t port).storm.testBit prio = true ∧ (∀ e ∈ (lportOf t port).queue, e.1 ≠ prio) ∧ Logged 7 3 s t ∧
        SameMem s t ∧ t.qps = s.qps)) ∧
  (∀ (src : Src) (port v : Nat) (s : Machine.State), port < 32 → v % 4 ≠ 3 → Ends (.portModeWrite src port v) s fun t =>
    (∀ p, p / 4 = port / 4 → rf t .NET_PORT_CFG 1 0 p = v % 4 ∧
      rf t .NET_PORT_STAT 1 0 p = (if (createdPorts (port / 4) (v % 4)).contains p then linkIdle s p else 0)) ∧ SameMem s t) ∧
  (∀ (port : Nat) (s : Machine.State), port < 32 →
    (rf s .NET_PORT_STAT 1 0 port ≠ 0 → Ends (.portLinkDown port) s fun t => rf t .NET_PORT_STAT 1 0 port = 0 ∧
      (∀ n, (qpOf s n).st = 1 → (qpOf s n).port = port → (qpOf t n).st = 2) ∧ SameMemButSlips s t) ∧
    (port ∈ createdPorts (port / 4) (rf s .NET_PORT_CFG 1 0 port) → rf s .NET_PORT_STAT 1 0 port < 2 →
      portClocked s port = true → pdOn s 20 = true → Ends (.portLinkUp port) s fun t => t = { s with regs := t.regs } ∧ rf t .NET_PORT_STAT 1 0 port = 2 ∧
        SameRegs [(.NET_PORT_STAT, port)] s t) ∧
    ((rf s .NET_PORT_STAT 1 0 port = 3 ∨ portClocked s port = false ∨ pdOn s 20 = false) →
      Ends (.portLinkUp port) s fun t => t = s)) ∧
  (∀ (r : RdmaReq) (s : Machine.State), r.port < 32 →
    (rdmaKnown s r = false → Ends (.rdmaRequestReceive r) s fun t => SameMem s t ∧ t.qps = s.qps ∧
      (rd t .NET_RX_DROP r.port).toNat = ((rd s .NET_RX_DROP r.port).toNat + 1) % 2 ^ 32) ∧
    (rdmaKnown s r = true → r.psn ≠ (qpOf s r.qp).epsn → psnLe (qpOf s r.qp).epsn r.psn = true →
      Ends (.rdmaRequestReceive r) s fun t => SameMem s t ∧ t.qps = s.qps ∧ t.cmds = s.cmds ∧
        (portUp s r.port = true → (lportOf s r.port).storm.testBit (prioOf s ntNak) = false →
          (lportOf s r.port).paused.testBit (prioOf s ntNak) = false →
          Msg.net r.qp ntNak [0] (netHdr s r.port r.qp ntNak (qpOf s r.qp).epsn) ∈ t.out)) ∧
    (rdmaKnown s r = true → r.psn ≠ (qpOf s r.qp).epsn → psnLe (qpOf s r.qp).epsn r.psn = false → r.op < 4 →
      (2 ≤ r.op → rdmaAllowed s r = true ∧ (fnOf s ((qpOf s r.qp).ctx % 32)).inFlr = false ∧ rdmaBlocked s r = false) →
      Ends (.rdmaRequestReceive r) s fun t => SameMem s t ∧ t.qps = s.qps ∧ t.cmds = s.cmds) ∧
    (rdmaKnown s r = true → (r.psn = (qpOf s r.qp).epsn ∨ psnLe (qpOf s r.qp).epsn r.psn = false) → 2 ≤ r.op →
      rdmaAllowed s r = false → Ends (.rdmaRequestReceive r) s fun t => SameMemButSlips s t ∧
      (qpOf t r.qp).st = 2 ∧ Machine.rb t .NET_ERR_STAT 5 = true ∧ Machine.rb t .HUB_MEM_ERR_STAT 8 = true) ∧
    (rdmaKnown s r = true → r.psn = (qpOf s r.qp).epsn →
      let q' := { qpOf s r.qp with epsn := (r.psn + reqSpan s r) % 2 ^ 24 }
      let next := fun (t : Machine.State) => qpOf t r.qp = q' ∧ (∀ n, n ≠ r.qp → qpOf t n = qpOf s n) ∧ t.cmds = s.cmds
      (r.op < 2 → Ends (.rdmaRequestReceive r) s fun t => SameMem s t ∧ next t) ∧
      (2 ≤ r.op → rdmaAllowed s r = true → (fnOf s ((qpOf s r.qp).ctx % 32)).inFlr = false → hubDown s r.addr r.len = none →
        anyPoison s r.addr r.len = false →
        (r.op = 4 → portUp s r.port = true → (lportOf s r.port).storm.testBit (prioOf s ntReadData) = false →
          (lportOf s r.port).paused.testBit (prioOf s ntReadData) = false → Ends (.rdmaRequestReceive r) s fun t => SameMem s t ∧
            next t ∧ Msg.net r.qp ntReadData ((rdBytes s r.addr r.len).map (·.toNat))
              (netHdr s r.port r.qp ntReadData r.psn) ∈ t.out) ∧
        ((r.op = 2 ∨ r.op = 3) → r.data.length = r.len → Ends (.rdmaRequestReceive r) s fun t =>
          rdBytes t r.addr r.len = r.data.map (BitVec.ofNat 8) ∧ SameMemBut r.addr r.len s t ∧ next t)))) ∧
  (∀ (n : Nat) (s : Machine.State), (qpOf s n).st = 1 →
    let sent := fun (q : QPair) (t : Machine.State) =>
      t = { s with qps := t.qps, regs := t.regs, ports := t.ports, sil := t.sil, out := t.out, fns := t.fns } ∧
      qpOf t n = q ∧ ∀ m, m ≠ n → qpOf t m = qpOf s m
    ((qpOf s n).unacked ≠ [] → (qpOf s n).tries < rf s .NET_ACK_CFG 7 5 → Ends (.ackTimeout n) s
      (sent { qpOf s n with tries := (qpOf s n).tries + 1 })) ∧
    (∀ code psn, code < 2 → psn < 2 ^ 24 →
      let left := (qpOf s n).unacked.filter fun e => !psnLe (lastPsn s n e) ((psn + 2 ^ 24 - 1) % 2 ^ 24)
      let tries := if left.length = (qpOf s n).unacked.length then (qpOf s n).tries else 0
      (left = [] → Ends (.nakReceive n code psn) s (sent { qpOf s n with unacked := [], tries := tries })) ∧
      (left ≠ [] → tries < rf s .NET_ACK_CFG 7 5 →
        Ends (.nakReceive n code psn) s (sent { qpOf s n with unacked := left, tries := tries + 1 }))) ∧
    ((qpOf s n).unacked = [] → Ends (.ackTimeout n) s fun t => t = s) ∧
    ((qpOf s n).unacked ≠ [] → rf s .NET_ACK_CFG 7 5 ≤ (qpOf s n).tries → Ends (.ackTimeout n) s fun t =>
      (qpOf t n).st = 2 ∧ (qpOf t n).unacked = [] ∧ Machine.rb t .NET_ERR_STAT 6 = true ∧ SameMemButSlips s t) ∧
    (∀ code psn, 2 ≤ code → Ends (.nakReceive n code psn) s fun t => (qpOf t n).st = 2 ∧
      Machine.rb t .NET_ERR_STAT 6 = true ∧ SameMemButSlips s t) ∧
    (Machine.rb s .NET_CTRL 1 = true →
      (Ends (.cnpReceive n) s fun t => t = { s with qps := t.qps, regs := t.regs } ∧ (qpOf t n).rt = (qpOf s n).rc ∧
        (qpOf t n).rc = max (rf s .NET_RC_CFG 31 16 * 10 : ℚ) ((qpOf s n).rc * (1 - (qpOf s n).alpha / 2)) ∧
        (qpOf t n).alpha = (qpOf s n).alpha + (1 - (qpOf s n).alpha) / 16 ∧ (qpOf t n).periods = 0) ∧
      Ends (.rateIncreaseTimer n) s fun t => t = { s with qps := t.qps } ∧ (qpOf t n).periods = (qpOf s n).periods + 1 ∧
        (qpOf t n).alpha = (qpOf s n).alpha * 15 / 16 ∧ (qpOf t n).rc = ((qpOf s n).rc + (qpOf t n).rt) / 2 ∧
        (qpOf t n).rt = (if (qpOf s n).periods + 1 < 5 then (qpOf s n).rt
          else min (lineRate s (qpOf s n).port) ((qpOf s n).rt + rf s .NET_RC_CFG 15 0))))

/-- O40. Wares and key/value records are served and received, members are fenced, lost and rejoin, and contributions arrive (R411,
R412, R413, R414, R419, R421, R422, R425, R426, R427, R428).
A peer whose message is of the epoch kept for it and whose tag fits may ask for a ware: it gets its record while it has credits,
waits for more without, and a WARE_NACK where it may not fetch; a WARE_NACK to the request under way ends the load that asked. A
payload with an error ends its load, the table of an EMBED section lands in memory, a chunk lands in its slot of the fetch
buffer. A message of another epoch is dropped and counted; in a running job FENCE_NOTICE holds the job, REJOIN takes the peer's
epoch, REJOIN_ACK marks it READY, STEP_REC is kept for the steps to come and compared with the member's own, a difference
holding the job; a contribution takes its rank place with its padding as zero, and a collective timeout loses a peer that is
awaited. A HELD member rejoins with the next epoch. After the wait for acknowledgements its queue pairs drop, and after the last
one a package reset that waited is begun. (Rests on the model's choices of log entries 50, 51, 55, 112.) -/
def Obligations.RelayAndJobEvents : Prop :=
  (∀ (qp ep tag sn dig first credits n : Nat) (s : Machine.State), (qpOf s qp).st = 1 → staleMsg s qp ep tag = false →
    let k := (qpOf s qp).ctx
    let p := (qpOf s qp).peer
    let e := (qpTable s qp).peers.getD p {}
    tget [] s.serving k = [] →
    (((qpTable s qp).serve && e.fetch) = false → Ends (.wareReq qp ep tag sn dig first n credits) s fun t =>
      t = { s with qps := t.qps, regs := t.regs, ports := t.ports, out := t.out }) ∧
    (((qpTable s qp).serve && e.fetch) = true → 0 < n → Ends (.wareReq qp ep tag sn dig first n 0) s fun t =>
      t = { s with serving := t.serving } ∧ tget [] t.serving k =
        [{ peer := p, qp := qp, sn := sn, kind := 1, next := first, left := n, credits := 0, args := [0, 0, dig] }]) ∧
    (∀ b, ((qpTable s qp).serve && e.fetch) = true → 0 < credits → wareRecord s k dig first = .ok b → b.length ≤ mib →
      Ends (.wareReq qp ep tag sn dig first 1 credits) s fun t => tget [] t.serving k = [] ∧
        (rd t .NET_RELAY_REC_CNT).toNat = ((rd s .NET_RELAY_REC_CNT).toNat + 1) % 2 ^ 32 ∧ SameMem s t ∧ t.cmds = s.cmds)) ∧
  (∀ (qp ep tag n : Nat) (x : Serving) (b : List Byte) (s : Machine.State), (qpOf s qp).st = 1 → staleMsg s qp ep tag = false →
    let k := (qpOf s qp).ctx
    tget [] s.serving k = [x] → x.peer = (qpOf s qp).peer → (jobHeld s k = true → x.kind = 1) →
    x.credits = 0 → x.left = 1 → x.sent = 0 → 0 < n → servedBytes s k x = .ok b → b.length ≤ mib →
    Ends (.wareCredit qp ep tag x.sn n) s fun t => tget [] t.serving k = [] ∧
      (rd t .NET_RELAY_REC_CNT).toNat = ((rd s .NET_RELAY_REC_CNT).toNat + 1) % 2 ^ 32 ∧ SameMem s t ∧ t.cmds = s.cmds) ∧
  (∀ (qp ep tag sn rcd reason : Nat) (a : Ask) (c : Cmd) (l : Load) (s : Machine.State), (qpOf s qp).st = 1 →
    staleMsg s qp ep tag = false →
    let k := (qpOf s qp).ctx
    jobHeld s k = false → (tget [] s.asks k).head? = some a → cmdOf s sn = some c → a.h = sn → a.gen = c.gen →
    (qpOf s a.qp).peer = (qpOf s qp).peer → c.op = 1 → loadOf s k = some l →
    Ends (.wareNack qp ep tag sn rcd reason) s fun t => (∀ m, loadOf t k = some m → m.stop ≠ none) ∧ SameMem s t) ∧
  (∀ (h rcd : Nat) (pl : List Nat) (c : Cmd) (l : Load) (s : Machine.State), cmdOf s h = some c →
    loadOf s c.ctx = some l → l.h = h → l.phase = 3 → l.stop = none → rcd ∈ l.tables → sharers s c.ctx l = [] →
    tget [] s.serving c.ctx = [] →
    (Ends (.warePayloadArrival h rcd pl true) s fun t => (∀ m, loadOf t c.ctx = some m → m.stop ≠ none) ∧ SameMem s t) ∧
    (∀ a, l.src ≠ 1 → ((imgOf s l.im).ware.getD rcd {}).kind = 3 → pl.length = payloadLen ((imgOf s l.im).ware.getD rcd {}) →
      (Config.sha384 pl).toNat = ((imgOf s l.im).ware.getD rcd {}).digest →
      (imgOf s l.im).embeds.filter (fun e => e.1 == rcd) = [(rcd, a)] → (∃ r ∈ l.tables, r ≠ rcd) →
      anyPoison s a pl.length = false → Ends (.warePayloadArrival h rcd pl false) s fun t =>
        rdBytes t a pl.length = pl.map (BitVec.ofNat 8) ∧ SameMemBut a pl.length s t ∧
        ∃ m, loadOf t c.ctx = some m ∧ m.tables = l.tables.filter (· != rcd))) ∧
  (∀ (qp slot rcd : Nat) (bytes : List Nat) (s : Machine.State), (qpOf s qp).st = 1 →
    let k := (qpOf s qp).ctx
    let p := (qpOf s qp).peer
    let a := (qpTable s qp).fetchBase + slot * mib
    slot < (qpTable s qp).slots → anyPoison s a bytes.length = false → tget [] s.fetches k = [] → tget [] s.asks k = [] →
    Ends (.fetchChunkArrival qp slot false rcd bytes) s fun t => rdBytes t a bytes.length = bytes.map (BitVec.ofNat 8) ∧
      SameMemBut a bytes.length s t ∧ tget [] t.fetches k = [{ peer := p, rec_ := rcd, bytes := bytes }] ∧ t.cmds = s.cmds) ∧
  (∀ (qp ep tag sn : Nat) (s : Machine.State), (qpOf s qp).st = 1 →
    let k := (qpOf s qp).ctx
    let p := (qpOf s qp).peer
    (jobOf s k).st = 1 → (peerE s k p).rank ≠ 0xFF →
    (staleMsg s qp ep tag = true →
      ∀ c ∈ [Instr.kvReq qp ep tag sn 0 0 0 0 0, .fenceNotice qp ep tag 1 0, .stepRec qp ep tag 0 [], .wareReq qp ep tag sn 0 0 1 1,
        .wareCredit qp ep tag sn 1, .wareNack qp ep tag sn 0 1],
      Ends c s fun t => t = { s with regs := t.regs, sil := t.sil, out := t.out, fns := t.fns } ∧
        (rd t .NET_STALE_DROP_CNT).toNat = ((rd s .NET_STALE_DROP_CNT).toNat + 1) % 2 ^ 32) ∧
    (staleMsg s qp ep tag = false →
      (∀ jsn len first layers i q, s.seqs.find? (fun e => e.2.used && !e.2.hidden && e.2.ctx == k && e.2.jsn == jsn) = some (i, q) →
        len ≤ q.len → 0 < layers → tget [] s.serving k = [] → Ends (.kvReq qp ep tag sn jsn len first layers 0) s fun t =>
          t = { s with pins := t.pins, serving := t.serving } ∧
          let ls := (List.range layers).map (first + ·)
          tget [] t.serving k =
            [{ peer := p, qp := qp, sn := sn, kind := 4, next := kvRec + first, left := layers, credits := 0, args := [0, 0, i, jsn],
               locs := ls.map fun l => recordsOf s i l len, pins := ls.flatMap fun l => framesOf s i l len ++ slipsOf s i l len }]) ∧
      (∀ reason rank, reason ≠ 4 → Ends (.fenceNotice qp ep tag reason rank) s fun t => (jobOf t k).st = 2 ∧
        (peerSt t k p).st = 2 ∧ Machine.rb t .NET_ERR_STAT 0 = true ∧
        ∀ i, (seqOf s i).used = true → (seqOf s i).ctx = k → (seqOf s i).hidden = false → (seqOf t i).used = true →
          (seqOf t i).failed = true) ∧
      (∀ step vals, jobBind s k = none → (jobOf s k).recs = [] → 12 + 4 * vals.length ≤ 4096 →
        Ends (.stepRec qp ep tag step vals) s fun t => t = { s with jobs := t.jobs } ∧
        peerSt t k p = { peerSt s k p with
          recs := (tins (peerSt s k p).recs step vals).filter fun r => decide ((jobOf s k).step < r.1) }) ∧
      (∀ step vals r, ownRec s k step = some r → vals.take 4 ≠ r → 12 + 4 * vals.length ≤ 4096 →
        p ∈ memberPeers (peersOf s k) → (∀ m ∈ memberPeers (peersOf s k), (peerSt s k m).st ≠ 3) →
        Ends (.stepRec qp ep tag step vals) s fun t => (jobOf t k).st = 2 ∧ Machine.rb t .NET_ERR_STAT 2 = true)) ∧
    (tag = jobTag (peersOf s k) → ∀ n, Ends (.rejoin qp tag n) s fun t => (peerSt t k p).st = 1 ∧ (peerSt t k p).epoch = n ∧
      (jobOf t k).st = 1 ∧ SameMem s t) ∧
    (tag = jobTag (peersOf s k) → ∀ n, Ends (.rejoinAck qp tag n) s fun t => t = { s with jobs := t.jobs } ∧
      peerSt t k p = { peerSt s k p with st := 1, epoch := n, acked := (jobOf s k).epoch }) ∧
    (∀ x vals, x < (peersOf s k).xchs.length →
      let m := (xchE (peersOf s k) x).elems
      let data := vals.take m ++ List.replicate (m % 2) 0
      vals.length = m + m % 2 → (∀ e ∈ s.jobs, e.2.wantFence = false) →
      (peerE s k p).rank ∉ (xchOf s k x).done →
      (∃ r, r < (peersOf s k).nmem ∧ r ≠ (peerE s k p).rank ∧ r ∉ (xchOf s k x).done ∧ r ∉ (xchOf s k x).lost) →
      let a := rankPlace (peersOf s k) x (peerE s k p).rank
      anyPoison s a (4 * vals.length) = false →
      Ends (.contributionReceive qp (x * 2 ^ 16 + (peerSt s k p).epoch % 2 ^ 16) vals) s fun t =>
        rdBytes t a (4 * vals.length) = data.flatMap (bytesLE 4) ∧ SameMemBut a (4 * vals.length) s t ∧
        (xchOf t k x).done = (peerE s k p).rank :: (xchOf s k x).done ∧ t.cmds = s.cmds)) ∧
  (∀ (pt fn : Nat) (s : Machine.State),
    let k := cxKey pt fn
    ((peersOf s k).job ≠ 0 → (jobOf s k).st = 2 →
      (∀ p ∈ memberPeers (peersOf s k), ∀ q ∈ peerQps ((peersOf s k).peers.getD p {}), q.2 = 0xFF ∨ qpReady s q.1 = true) →
      Ends (.jobRejoinStart pt fn) s fun t => (jobOf t k).epoch = ((jobOf s k).epoch + 1) % 2 ^ 32 ∧ (jobOf t k).st = 2 ∧
        (∀ p ∈ memberPeers (peersOf s k), (peerSt t k p).st = if (peerSt s k p).st = 1 then 1 else 4) ∧ SameMem s t) ∧
    (∀ peer, (jobOf s k).st = 1 → peer ∈ memberPeers (peersOf s k) →
      (awaits s k peer = true → (peerSt s k peer).st ≠ 3 → Ends (.collectiveTimeout pt fn peer) s fun t => (jobOf t k).st = 2 ∧
        (peerSt t k peer).st = 3 ∧ Machine.rb t .NET_ERR_STAT 1 = true) ∧
      (awaits s k peer = false → Ends (.collectiveTimeout pt fn peer) s fun t => t = s)) ∧
    ((jobOf s k).notice = true →
      let last := (modMember k (fun j => { j with notice := false }) s).jobs.all fun e => !e.2.notice
      ((last = false ∨ s.pkg.next = none) → Ends (.noticeAckWaitExpiry pt fn) s fun t => t = { s with qps := t.qps, jobs := t.jobs } ∧
        jobOf t k = { jobOf s k with notice := false } ∧
        ∀ n, qpOf t n = if (qpOf s n).ctx = k ∧ (qpOf s n).st = 1 then { qpOf s n with st := 2, unacked := [] } else qpOf s n) ∧
      (∀ cause kind index esc, last = true → s.pkg.next = some (false, cause, kind, index, esc) →
        Ends (.noticeAckWaitExpiry pt fn) s fun t => t.pkg = { warmRunning := true, startedAt := s.now, cause := cause } ∧
          t.cmds = [] ∧ t.ctxs = [] ∧ ∀ n, (qpOf t n).st ≠ 1)))

/-- O41. A step takes the command at the front of the queue and runs it with the rest of the queue (R448).
For every command c, queue q and state s: step at s with c in front of q is exec of c at s with the queue q. Commands reach
the block one at a time, in the order in which they were sent, as R448 says of register accesses. (The queue is this model's,
log entry 1.) -/
def Obligations.StepRunsFrontCommand : Prop :=
  ∀ (c : Instr) (q : List Instr) (s : Machine.State), step { s with pending := c :: q } = exec c { s with pending := q }

/-- O42. With no command waiting, a step takes a request that a bay lets in again, then a waiting data object, else time passes
(R14, R463, R625, R628).
On an empty queue a step runs the oldest withheld request whose boundary lets it go; without one, the data object that waited
for Silset, once Silset runs; without either, device time advances by 1 ns and nothing else changes; while the crystal has
failed nothing changes. (That an idle step is 1 ns is the model's choice, log entry 1.) -/
def Obligations.IdleStep : Prop :=
  ∀ (s : Machine.State), s.pending = [] →
    (∀ c t, nextWaiting s = some (c, t) → step s = exec c t) ∧
    (∀ c, nextWaiting s = none → s.sil.state = 1 → s.pcie.doeReq = some c →
      step s = exec c { s with pcie.doeReq := none }) ∧
    (nextWaiting s = none → (s.sil.state ≠ 1 ∨ s.pcie.doeReq = none) →
      (s.board.xtalHeld = false → step s = .next { s with now := s.now + 1 }) ∧
      (s.board.xtalHeld = true → step s = .next s))

/-- O43. No command and no step ends in a fault or a refusal of the model (R455, R355, R480).
For every command and every state exec answers a next state, and so does every step: what the manual refuses, drops or answers
with an error status is an effect on the state. -/
def Obligations.EveryCommandCompletes : Prop :=
  (∀ (c : Instr) (s : Machine.State), ∃ t, exec c s = .next t) ∧ ∀ (s : Machine.State), ∃ t, step s = .next t

/-- O44. Every step takes exactly the front command from the queue, and puts none in (R448).
For every state s and t, if step s answers t, then the queue of t is the queue of s without its front command (empty where it
was empty): no command's effect adds to, removes from or reorders what waits. (The queue is this model's, log entry 1.) -/
def Obligations.StepTakesOneCommand : Prop :=
  ∀ (s t : Machine.State), step s = .next t → t.pending = s.pending.tail

/-- O45. No step changes the lock fuse (R7).
R7. For every state s and t, if step s answers t, then the unit of t is locked exactly where that of s is: no command, reset
or update turns a -L unit into a -S unit, nor a -S unit into a -L unit; the fuse cannot be unblown. -/
def Obligations.LockFuseNeverChanges : Prop :=
  ∀ (s t : Machine.State), step s = .next t → t.fuses.locked = s.fuses.locked

/-- O46. No step changes what the fuses say of the unit; the address strap alone is read anew (R3, R5, R435, R541, R643).
For every state s and t, if step s answers t, then part number, stepping, enabled dies, serial number, the OTP key hashes and
the identity seed are those of s. The SMB address strap is the one part of this record that a cold start latches again. -/
def Obligations.IdentityNeverChanges : Prop :=
  ∀ (s t : Machine.State), step s = .next t → ∃ a, t.fuses = { s.fuses with smbAddr := a }

/-- O47. Every step keeps device memory in its canonical form (R283, R290, R482).
For every state s and t, if the memory of s has strictly rising addresses and lists no byte equal to what an unlisted address
reads as, and step s answers t, then so has the memory of t; equal memories are therefore equal data. (That unlisted memory
reads as zero is the model's choice, log entry 4.) -/
def Obligations.MemoryStaysCanonical : Prop :=
  ∀ (s t : Machine.State), Memory.wf s.mem = true → step s = .next t → Memory.wf t.mem = true

/-- O48. The kiln log never holds more than 4,096 entries, the event queue 512, the mirror queue 256 (R529, R538).
For every state s and t with at most 4,096 entries in the kiln log of s, 512 in its hardware event queue and 256 in its mirror
queue: if step s answers t, the same bounds hold of t. -/
def Obligations.LogsStayBounded : Prop :=
  ∀ (s t : Machine.State), s.sil.log.length ≤ 4096 → s.sil.evq.length ≤ 512 → s.sil.mirrorQ.length ≤ 256 → step s = .next t →
    t.sil.log.length ≤ 4096 ∧ t.sil.evq.length ≤ 512 ∧ t.sil.mirrorQ.length ≤ 256

/-- O49. No step takes back what the OTP holds (R541, R547, R551, R618).
For every state s and t, if step s answers t: the rollback counter, the count of anchor slots used and the unlock counter of t
are not below those of s, COMMISSIONED stays set, an owner key once written stays the same, and with at most 8 anchor slots
used in s at most 8 are used in t. -/
def Obligations.OtpIsWrittenOnce : Prop :=
  ∀ (s t : Machine.State), step s = .next t →
    s.sil.rollback ≤ t.sil.rollback ∧ s.sil.anchorsUsed ≤ t.sil.anchorsUsed ∧ s.sil.debugCount ≤ t.sil.debugCount ∧
    (s.sil.anchorsUsed ≤ 8 → t.sil.anchorsUsed ≤ 8) ∧ (s.sil.commissioned = true → t.sil.commissioned = true) ∧
    ∀ k, s.sil.ownerKey = some k → t.sil.ownerKey = some k

/-- O50. After reset every register holds its reset value, memory reads as zero, start-up is in BOOT, and the invariants hold
(R15, R394, R482, R529, R538, R541, R647).
At reset each instance of each register holds the reset value of its table (the quotas differ between the physical and the
virtual functions); HUB_BOOT_STAT is in phase BOOT, not READY; every byte of device memory reads as zero; no word is poisoned;
no command waits and nothing has been sent; device memory is in its canonical form, the kiln log, the event queue and the
mirror queue are within their bounds, and no more than 8 anchor slots are used, so the premises of the invariants hold. (Reset
values that the manual does not give are those of log entries 2 and 3, also the empty logs and the OTP with no slot used; the
zero of memory is the model's choice, log entry 4.) -/
def Obligations.ResetState : Prop :=
  (∀ r i, rd State.reset r i = resetOf r i) ∧ phase State.reset = 0 ∧ pkgReady State.reset = false ∧
  (∀ a, rdByte State.reset a = 0 ∧ poisoned State.reset a = false) ∧ State.reset.pending = [] ∧ State.reset.out = [] ∧
  Memory.wf State.reset.mem = true ∧ State.reset.sil.log.length ≤ 4096 ∧ State.reset.sil.evq.length ≤ 512 ∧
  State.reset.sil.mirrorQ.length ≤ 256 ∧ State.reset.sil.anchorsUsed ≤ 8

/-- O51. A write reads back outside poisoned words it covers in part, mends those it covers, and touches nothing else (R283,
R288).
After a write of bytes at an address: each byte of it whose word was not poisoned, or whose word the write covers whole, reads
as written; each other byte of memory reads as before; a word that the write covers is no longer poisoned, any other word is
poisoned exactly where it was; and where the write met a poisoned word that it covers in part, HUB_MEM_ERR_STAT[9]
POISON_WRITE is set. Data declared lost is lost no longer where it was written. -/
def Obligations.MemoryReadsBackWhatWasWritten : Prop :=
  ∀ (a : Nat) (xs : List Byte) (s : Machine.State),
    let t := wrBytes a xs s
    (∀ b, a ≤ b → b < a + xs.length → (poisoned s b = false ∨ covers a xs.length (eccBase b) = true) →
      rdByte t b = xs.getD (b - a) 0) ∧
    (∀ b, (b < a ∨ a + xs.length ≤ b ∨ (poisoned s b = true ∧ covers a xs.length (eccBase b) = false)) →
      rdByte t b = rdByte s b) ∧
    (∀ b, poisoned t b = (poisoned s b && !covers a xs.length (eccBase b))) ∧
    (∀ b, a ≤ b → b < a + xs.length → poisoned s b = true → covers a xs.length (eccBase b) = false →
      Machine.rb t .HUB_MEM_ERR_STAT 9 = true) ∧
    (∀ r ∈ t.lost, (r.2 ≤ a ∨ a + xs.length ≤ r.1) ∧ ∃ q ∈ s.lost, q.1 ≤ r.1 ∧ r.2 ≤ q.2) ∧
    (anyPoison s a xs.length = false → t = { s with mem := t.mem, poison := t.poison, lost := t.lost } ∧
      rdBytes t a xs.length = xs)

/-- O52. Two memories in canonical form that read the same everywhere are the same list (R290).
For two lists of cells in canonical form: if every address reads the same in both, the lists are equal. -/
def Obligations.CanonicalMemoriesAreEqualData : Prop :=
  ∀ (m n : List Host.Cell), Memory.wf m = true → Memory.wf n = true → (∀ a, tget 0 m a = tget 0 n a) → m = n

/-- O53. Elements written to memory read back in their order, 4-bit elements two to a byte, and no neighbour changes (R51, R53,
R241).
After elements of a format are written to memory from index i on, over words that are not poisoned, each reads back, cut to
the width of the format; every other element of the array and every byte outside the array reads as before. The element of
lower index of a byte lies in [3:0], and a wider element is little-endian. -/
def Obligations.ElementsReadBackFromMemory : Prop :=
  ∀ (f : Fmt) (base i : Nat) (vs : List Nat) (s : Machine.State), anyPoison s base (elemBytes f (i + vs.length)) = false →
    let t := writeElems f base i vs s
    let el := fun (s : Machine.State) => elemAt f (fun k => rdByte s (base + k))
    (∀ j, j < vs.length → el t (i + j) = vs.getD j 0 % 2 ^ f.width) ∧
    (∀ j, (j < i ∨ i + vs.length ≤ j) → el t j = el s j) ∧
    (∀ a, (a < base ∨ base + elemBytes f (i + vs.length) ≤ a) → rdByte t a = rdByte s a) ∧
    (f.width = 4 → ∀ j, el s (2 * j) = (rdByte s (base + j)).toNat % 16 ∧ el s (2 * j + 1) = (rdByte s (base + j)).toNat / 16) ∧
    (f.width = 16 → ∀ j, el s j = (rdByte s (base + 2 * j)).toNat + 256 * (rdByte s (base + 2 * j + 1)).toNat)

/-- O54. A field written to a register reads back, and no other field, instance or register changes (R15, R19).
A field [hi:lo] written reads back cut to its width; each disjoint field of the same word, each other instance of the register
and each other register keep their values. Instances are numbered below 2^20. -/
def Obligations.RegisterFieldsAreIndependent : Prop :=
  ∀ (r : Reg) (hi lo v i : Nat) (s : Machine.State), lo ≤ hi → hi < 32 → i < 2 ^ 20 →
    let t := wrf r hi lo v i s
    rf t r hi lo i = v % 2 ^ (hi + 1 - lo) ∧
    (∀ hi' lo', (hi' < lo ∨ hi < lo') → rf t r hi' lo' i = rf s r hi' lo' i) ∧ SameRegs [(r, i)] s t

/-- O55. A write to a register with RWM fields changes the control bits whose mask bit is 1, and nothing with an all-zero mask
(R449).
R449. For each register with RWM fields: its control bits lie in [15:0]; a write sets control bit i to bit i of the value
where bit 16 + i is 1 and keeps it elsewhere; a read returns the control bits with zero in [31:16], from any state in which
the stored word has zero there; and a write whose mask is all zero leaves the register as it was and enters nothing in the
journal or the log. -/
def Obligations.MaskedRegisterWrites : Prop :=
  ∀ (src : Src) (r : Reg) (i off v : Nat) (s : Machine.State), r.desc.acc.rwm ≠ 0 → i < 2 ^ 20 →
    let t := storeReg src r i off v s
    r.desc.acc.rwm < 2 ^ 16 ∧
    (∀ b, r.desc.acc.rwm.testBit b = true → Machine.rb t r b i = if v.testBit (16 + b) then v.testBit b else Machine.rb s r b i) ∧
    (∀ b, r.desc.acc.rwm.testBit b = false → Machine.rb t r b i = Machine.rb s r b i) ∧
    viewWord s r i = rd s r i ∧ (rf s r 31 16 i = 0 → rf t r 31 16 i = 0) ∧
    (v / 2 ^ 16 % 2 ^ 16 = 0 → v < 2 ^ 32 → rd t r i = rd s r i ∧ t = { s with regs := t.regs })

/-- O56. Every code that is no NaN is decoded and converted back to itself under every rounding mode; infinities and NaNs follow
R56 (R51, R52, R54, R56, R653).
For each of the number formats, each code of its width whose value is no NaN, and each rounding mode: converting the decoded
value into the format gives the code again, with no flag. The FP4 code 0x8 (-0), which the device never produces, gives 0x0. A
NaN gives the canonical NaN of the format. A NaN converts to the canonical NaN of a floating-point format, for FP4 to 0x0 with
the invalid flag, and to 0 with the invalid flag in an integer format. An infinity stays one in FP32, BF16 and FP16, becomes
the largest finite code with the invalid flag in E4M3 and FP4 and the most positive or negative value in an integer format,
and 0xFF with the invalid flag in E8M0. -/
def Obligations.NumberFormatsRoundTrip : Prop :=
  (∀ (f : Fmt) (rm : Rm) (c : Nat), c < 2 ^ f.width →
    ((decode f c).isNan = false → ¬ (f = .fp4 ∧ c = 8) →
      ((decode f c).isFin = true → encode f rm (decode f c) = (c, {})) ∧
      ((decode f c).isFin = false → (encode f rm (decode f c)).1 = c)) ∧
    ((decode f c).isNan = true → (encode f rm (decode f c)).1 = f.nanCode) ∧
    encode .fp4 rm (decode .fp4 8) = (0, {})) ∧
  ∀ (rm : Rm), (encode .fp32 rm .nan).1 = 0x7FC00000 ∧ (encode .bf16 rm .nan).1 = 0x7FC0 ∧ (encode .fp16 rm .nan).1 = 0x7E00 ∧
    (encode .e4m3 rm .nan).1 = 0x7F ∧ (encode .e5m2 rm .nan).1 = 0x7E ∧ (encode .e8m0 rm .nan).1 = 0xFF ∧
    encode .fp4 rm .nan = (0, { nv := true }) ∧ encode .int4 rm .nan = (0, { nv := true }) ∧
    encode .int32 rm .nan = (0, { nv := true }) ∧
    ∀ n : Bool, decode .fp32 (encode .fp32 rm (.inf n)).1 = .inf n ∧ decode .bf16 (encode .bf16 rm (.inf n)).1 = .inf n ∧
      decode .fp16 (encode .fp16 rm (.inf n)).1 = .inf n ∧
      encode .e4m3 rm (.inf n) = (0x7E + b2n n * 0x80, { nv := true }) ∧ encode .fp4 rm (.inf n) = (7 + b2n n * 8, { nv := true }) ∧
      encode .int8 rm (.inf n) = (if n then 0x80 else 0x7F, { nv := true }) ∧
      encode .int32 rm (.inf n) = (if n then 0x80000000 else 0x7FFFFFFF, { nv := true }) ∧
      encode .e8m0 rm (.inf n) = (0xFF, { nv := true })

/-- O57. A conversion into a floating-point format gives the value of the format nearest to the operand, or overflows (R51, R55,
R56, R57).
For each floating-point format and each finite value: where conversion under RNE sets no overflow flag, no finite code of the
format lies nearer to the value than the result, subnormal codes included; where it sets the flag, every finite code is
smaller in magnitude than the value, and the result is an infinity where the format is FP32, BF16 or FP16, else the largest
finite code of that sign. RTZ never gives a greater magnitude, RDN never a greater and RUP never a smaller number. -/
def Obligations.ConversionsRoundToNearest : Prop :=
  ∀ (f : Fmt) (n : Bool) (m : Nat) (e : Int), f.isInt = false → f ≠ .e8m0 →
    let v := Val.fin n m e
    let r := fun rm => encode f rm v
    let x := fun rm => ratOf (decode f (r rm).1)
    ((r .rne).2.of = false → ∀ c, c < 2 ^ f.width → (decode f c).isFin = true → |x .rne - ratOf v| ≤ |ratOf (decode f c) - ratOf v|) ∧
    ((r .rne).2.of = true → (∀ c, c < 2 ^ f.width → (decode f c).isFin = true → |ratOf (decode f c)| < |ratOf v|) ∧
      ((f = .fp32 ∨ f = .bf16 ∨ f = .fp16) → decode f (r .rne).1 = .inf n) ∧
      (f = .e4m3 ∨ f = .e5m2 ∨ f = .fp4 → (r .rne).1 = f.maxMag + b2n n * 2 ^ (f.width - 1))) ∧
    ((r .rtz).2.of = false → |x .rtz| ≤ |ratOf v|) ∧ ((r .rdn).2.of = false → x .rdn ≤ ratOf v) ∧
    ((r .rup).2.of = false → ratOf v ≤ x .rup)

/-- O58. The quantiser changes an element by no more than the bounds of R62 (R59, R62).
With the scale 2^k of a block: an element x with |x| at most 6 x 2^k driven in FP4 changes by at most the larger of a quarter
of the scale and a fifth of |x|; one with |x| between 6 and 8 times the scale is clipped to 6 times the scale; in INT4 an
element with |x| at most 7 x 2^k changes by at most half the scale. Where the rule of R59 does not clamp k, the no-clip rule
gives 3 x 2^k < amax and amax at most 6 x 2^k, the OCP rule 4 x 2^k at most amax and amax below 8 x 2^k, and INT4 3.5 x 2^k <
amax, at most 7 x 2^k. -/
def Obligations.QuantisationErrorIsBounded : Prop :=
  (∀ (k : Int) (n : Bool) (m : Nat) (e : Int),
    let v := Val.fin n m e
    let x := ratOf v
    let s := (2 : ℚ) ^ k
    let q4 := ratOf (decode .fp4 (driveCode true k v)) * s
    let qi := ratOf (decode .int4 (driveCode false k v)) * s
    (|x| ≤ 6 * s → |q4 - x| ≤ max (s / 4) (|x| / 5)) ∧
    (6 * s < |x| → |x| < 8 * s → q4 = (if x < 0 then -6 else 6) * s ∧ |q4 - x| < 2 * s ∧ |q4 - x| < |x| / 4) ∧
    (|x| ≤ 7 * s → |qi - x| ≤ s / 2)) ∧
  (∀ (num den : Nat), 0 < num → 0 < den →
    let amax := (num : ℚ) / den
    let k := fun d o => scaleExp d o (num, den)
    (-127 < k true false → k true false < 127 → 3 * (2 : ℚ) ^ k true false < amax ∧ amax ≤ 6 * (2 : ℚ) ^ k true false) ∧
    (-127 < k true true → k true true < 127 → 4 * (2 : ℚ) ^ k true true ≤ amax ∧ amax < 8 * (2 : ℚ) ^ k true true) ∧
    (∀ o, -127 < k false o → k false o < 127 → 7 / 2 * (2 : ℚ) ^ k false o < amax ∧ amax ≤ 7 * (2 : ℚ) ^ k false o))

/-- O59. The calibrated code of a column is RNE(8 g (c - o)), at most 3,456 in magnitude (R63).
R63. For each code c from -256 to +255, the saturated ends included, each gain g = G / 32,768 in [0.5, 1.5) and each signed
9-bit offset of o eighths: the calibrated code k is the integer nearest to 8 g (c - o), the even one on a tie, and |k| is at
most 3,456, so an INT16 holds it. -/
def Obligations.CalibratedCodeIsNearestEighth : Prop :=
  ∀ (x : GO) (c : Int), -256 ≤ c → c ≤ 255 → 16384 ≤ x.g → x.g < 49152 → -256 ≤ x.o → x.o ≤ 255 →
    let y : ℚ := 8 * ((x.g : ℚ) / 32768) * (c - (x.o : ℚ) / 8)
    let k := calibrate x c
    |k| ≤ 3456 ∧ |(k : ℚ) - y| ≤ 1 / 2 ∧ (|(k : ℚ) - y| = 1 / 2 → k % 2 = 0)

/-- O60. A code is aligned to nearest even; narrow sums are exact until they saturate (R64, R65, R131).
A code shifted by n places is the integer nearest to k / 2^n, the even one on a tie; shifted by 16 places or more it is zero.
A narrow sum of at most eight calibrated codes is exact, with no event. A sum of the pure 16-bit mode stays in INT16; it is
the exact sum, with no event, where no partial sum leaves INT16; and each addition that leaves INT16 gives the nearest end and
sets the event. -/
def Obligations.AlignedCodesAndNarrowSums : Prop :=
  (∀ (k : Int) (n : Nat), (16 ≤ n → alignCode k n = 0) ∧ (n < 16 → |2 ^ n * alignCode k n * 2 - k * 2| ≤ 2 ^ n ∧
    (|2 ^ n * alignCode k n * 2 - k * 2| = 2 ^ n → 0 < n → alignCode k n % 2 = 0))) ∧
  (∀ (ks : List Int), ks.length ≤ 8 → (∀ k ∈ ks, |k| ≤ 3456) → narrow16 ks = (ks.sum, false)) ∧
  (∀ (ks : List Int), -32768 ≤ (narrow16 ks).1 ∧ (narrow16 ks).1 ≤ 32767 ∧
    ((∀ n, -32768 ≤ (ks.take n).sum ∧ (ks.take n).sum ≤ 32767) → narrow16 ks = (ks.sum, false)) ∧
    ∀ k, (32767 < (narrow16 ks).1 + k → narrow16 (ks ++ [k]) = (32767, true)) ∧
      ((narrow16 ks).1 + k < -32768 → narrow16 (ks ++ [k]) = (-32768, true)))
end

