-- ==== Sys2Proof/Laws/Tab.lean ====
section
/-! SUPPORT. What the operations on sparse tables and bit fields do: reads after writes, and the canonical form. -/

-- One proof at a time: proofs elaborated side by side wait on each other, and each that waits holds a thread's stack.
set_option Elab.async false

namespace Sys2Proof.Machine

variable {α : Type}

theorem tget_tins_same (d : α) (m : Tab α) (k : Nat) (v : α) : tget d (tins m k v) k = v := by
  induction m with
  | nil => simp [tins, tget]
  | cons e m ih =>
    obtain ⟨k', v'⟩ := e
    unfold tins
    split
    · simp [tget, ih]; omega
    · split <;> simp [tget]

theorem tget_tins_ne (d : α) (m : Tab α) {k k' : Nat} (v : α) (h : k' ≠ k) : tget d (tins m k v) k' = tget d m k' := by
  induction m with
  | nil => simp [tins, tget, Ne.symm h]
  | cons e m ih =>
    obtain ⟨j, v'⟩ := e
    unfold tins
    split
    · simp [tget, ih]
    · split
      · subst_vars; simp [tget, Ne.symm h]
      · simp [tget, Ne.symm h]

theorem tget_tdrop (d : α) (p : Nat → Bool) (m : Tab α) (k : Nat) :
    tget d (tdrop p m) k = if p k then d else tget d m k := by
  unfold tdrop
  induction m with
  | nil => simp [tget]
  | cons e m ih =>
    obtain ⟨j, v⟩ := e
    by_cases hp : p j <;> by_cases hk : j = k <;> simp_all [tget]

theorem tget_tdel_same (d : α) (m : Tab α) (k : Nat) : tget d (tdel m k) k = d := by
  unfold tdel
  induction m with
  | nil => rfl
  | cons e m ih =>
    obtain ⟨j, v⟩ := e
    by_cases hk : j = k <;> simp_all [tget]

theorem tget_tdel_ne (d : α) (m : Tab α) {k k' : Nat} (h : k' ≠ k) : tget d (tdel m k) k' = tget d m k' := by
  unfold tdel
  induction m with
  | nil => rfl
  | cons e m ih =>
    obtain ⟨j, v⟩ := e
    by_cases hk : j = k
    · subst hk; simp [tget, Ne.symm h, ih]
    · simp [tget, hk, ih]

variable [DecidableEq α]

/-- A write is read back. -/
@[simp] theorem tget_tset_same (d : α) (m : Tab α) (k : Nat) (v : α) : tget d (tset d m k v) k = v := by
  unfold tset
  split
  · simp [tget_tdel_same, *]
  · exact tget_tins_same d m k v

/-- A write leaves every other key as it was. -/
theorem tget_tset_ne (d : α) (m : Tab α) {k k' : Nat} (v : α) (h : k' ≠ k) {d' : α} :
    tget d' (tset d m k v) k' = tget d' m k' := by
  unfold tset
  split
  · exact tget_tdel_ne d' m h
  · exact tget_tins_ne d' m v h

/-- The value at any key after a write. -/
theorem tget_tset (d : α) (m : Tab α) (k k' : Nat) (v : α) :
    tget d (tset d m k v) k' = if k' = k then v else tget d m k' := by
  split
  · subst_vars; simp
  · exact tget_tset_ne d m v ‹_›

theorem tget_tmod_same (d : α) (m : Tab α) (k : Nat) (f : α → α) : tget d (tmod d m k f) k = f (tget d m k) := by
  simp [tmod]

theorem tget_tmod_ne (d : α) (m : Tab α) {k k' : Nat} (f : α → α) (h : k' ≠ k) :
    tget d (tmod d m k f) k' = tget d m k' := tget_tset_ne d m _ h

/-! ### The canonical form -/

theorem twf_cons (d : Nat → α) (k : Nat) (v : α) (m : Tab α) :
    twf d ((k, v) :: m) = true ↔ v ≠ d k ∧ (∀ e ∈ m, k < e.1) ∧ twf d m = true := by
  simp [twf, and_assoc]

theorem twf_filter (d : Nat → α) (p : Nat × α → Bool) (m : Tab α) (h : twf d m = true) :
    twf d (m.filter p) = true := by
  induction m with
  | nil => rfl
  | cons e m ih =>
    obtain ⟨k, v⟩ := e
    rw [twf_cons] at h
    rw [List.filter_cons]
    split
    · rw [twf_cons]
      exact ⟨h.1, fun e he => h.2.1 e (List.mem_of_mem_filter he), ih h.2.2⟩
    · exact ih h.2.2

theorem twf_tdrop (d : Nat → α) (p : Nat → Bool) (m : Tab α) (h : twf d m = true) : twf d (tdrop p m) = true :=
  twf_filter d _ m h

omit [DecidableEq α] in
theorem mem_tins {m : Tab α} {k : Nat} {v : α} {e : Nat × α} (h : e ∈ tins m k v) : e = (k, v) ∨ e ∈ m := by
  induction m with
  | nil => simpa [tins] using h
  | cons x m ih =>
    obtain ⟨j, w⟩ := x
    unfold tins at h
    split at h
    · rcases List.mem_cons.1 h with h | h
      · exact .inr (by simp [h])
      · rcases ih h with h | h
        · exact .inl h
        · exact .inr (List.mem_cons_of_mem _ h)
    · split at h
      · rcases List.mem_cons.1 h with h | h
        · exact .inl h
        · exact .inr (List.mem_cons_of_mem _ h)
      · rcases List.mem_cons.1 h with h | h
        · exact .inl h
        · exact .inr h

theorem twf_tins (d : Nat → α) (m : Tab α) (k : Nat) (v : α) (hv : v ≠ d k) (h : twf d m = true) :
    twf d (tins m k v) = true := by
  induction m with
  | nil => simp [tins, twf, hv]
  | cons x m ih =>
    obtain ⟨j, w⟩ := x
    have h' := (twf_cons d j w m).1 h
    unfold tins
    split
    · rw [twf_cons]
      refine ⟨h'.1, fun e he => ?_, ih h'.2.2⟩
      rcases mem_tins he with he | he
      · rw [he]; assumption
      · exact h'.2.1 e he
    · split
      · subst_vars
        rw [twf_cons]
        exact ⟨hv, h'.2.1, h'.2.2⟩
      · rw [twf_cons]
        refine ⟨hv, fun e he => ?_, h⟩
        have : k < j := by omega
        rcases List.mem_cons.1 he with he | he
        · rw [he]; exact this
        · exact this.trans (h'.2.1 e he)

/-- A write keeps the canonical form. -/
theorem twf_tset (d : α) (m : Tab α) (k : Nat) (v : α) (h : twf (fun _ => d) m = true) :
    twf (fun _ => d) (tset d m k v) = true := by
  unfold tset
  split
  · exact twf_filter _ _ m h
  · exact twf_tins _ m k v ‹_› h

omit [DecidableEq α] in
/-- A read below the first key of a canonical table finds nothing. -/
theorem tget_of_lt (d : α) (m : Tab α) (k : Nat) (h : ∀ e ∈ m, k < e.1) : tget d m k = d := by
  induction m with
  | nil => rfl
  | cons e m ih =>
    obtain ⟨j, v⟩ := e
    have hj : k < j := h (j, v) (by simp)
    have hne : j ≠ k := by omega
    simp only [tget, if_neg hne]
    exact ih fun e he => h e (List.mem_cons_of_mem _ he)

/-- Canonical tables that read alike are equal. -/
theorem twf_ext (d : α) (m n : Tab α) (hm : twf (fun _ => d) m = true) (hn : twf (fun _ => d) n = true)
    (h : ∀ k, tget d m k = tget d n k) : m = n := by
  induction m generalizing n with
  | nil =>
    cases n with
    | nil => rfl
    | cons e n =>
      obtain ⟨j, w⟩ := e
      have h1 := h j
      have h2 := (twf_cons _ j w n).1 hn
      simp [tget] at h1
      exact absurd h1.symm h2.1
  | cons x m ih =>
    obtain ⟨k, v⟩ := x
    have hm' := (twf_cons _ k v m).1 hm
    cases n with
    | nil =>
      have h1 := h k
      simp [tget] at h1
      exact absurd h1 hm'.1
    | cons y n =>
      obtain ⟨j, w⟩ := y
      have hn' := (twf_cons _ j w n).1 hn
      have hkj : k = j := by
        rcases Nat.lt_trichotomy k j with hlt | heq | hgt
        · exfalso
          have h1 := h k
          rw [tget_of_lt d ((j, w) :: n) k (by
            intro e he
            rcases List.mem_cons.1 he with he | he
            · rw [he]; exact hlt
            · exact hlt.trans (hn'.2.1 e he))] at h1
          simp [tget] at h1
          exact hm'.1 h1
        · exact heq
        · exfalso
          have h1 := h j
          rw [tget_of_lt d ((k, v) :: m) j (by
            intro e he
            rcases List.mem_cons.1 he with he | he
            · rw [he]; exact hgt
            · exact hgt.trans (hm'.2.1 e he))] at h1
          simp [tget] at h1
          exact hn'.1 h1.symm
      subst hkj
      have hv : v = w := by simpa [tget] using h k
      subst hv
      congr 1
      refine ih n hm'.2.2 hn'.2.2 fun i => ?_
      rcases Nat.lt_or_ge k i with hi | hi
      · have := h i
        have hki : k ≠ i := by omega
        simpa only [tget, if_neg hki] using this
      · rw [tget_of_lt d m i fun e he => Nat.lt_of_le_of_lt hi (hm'.2.1 e he),
          tget_of_lt d n i fun e he => Nat.lt_of_le_of_lt hi (hn'.2.1 e he)]

end Sys2Proof.Machine
end

