-- ==== Sys2Proof/Laws/KeptOps.lean ====
section
/-! SUPPORT. Every operation keeps what `Kept` says: the lemmas of the shared operations, one for each. -/

-- One proof at a time: proofs elaborated side by side wait on each other, and each that waits holds a thread's stack.
set_option Elab.async false

namespace Sys2Proof.Machine

theorem Kept.refl (s : State) : Kept s s :=
  ⟨rfl, ⟨_, rfl⟩, id, id, id, id, le_refl _, le_refl _, id, le_refl _, id, fun _ h => h⟩

theorem Kept.trans {s t u : State} (h : Kept s t) (g : Kept t u) : Kept s u :=
  ⟨g.queue.trans h.queue, by obtain ⟨a, ha⟩ := h.identity; obtain ⟨b, hb⟩ := g.identity; exact ⟨b, by rw [hb, ha]⟩, g.memory ∘ h.memory, g.log ∘ h.log, g.events ∘ h.events, g.mirror ∘ h.mirror,
    h.rollback.trans g.rollback, h.anchors.trans g.anchors, g.anchorCap ∘ h.anchorCap, h.unlocks.trans g.unlocks,
    g.commissioned ∘ h.commissioned, fun k e => g.owner k (h.owner k e)⟩

/-- A state that is reached on the way keeps it too. -/
theorem Kept.cut {s t u : State} (h : Kept s t) (g : Kept s t → Kept s u) : Kept s u := g h

/-- A change of state that leaves the fuses, device memory and the bounded parts of Silset alone. -/
theorem Kept.same {s t u : State} (h : Kept s t) (h0 : u.pending = t.pending := by rfl)
    (h1 : u.fuses = t.fuses := by rfl) (h2 : u.mem = t.mem := by rfl) (h3 : u.sil.log = t.sil.log := by rfl)
    (h4 : u.sil.evq = t.sil.evq := by rfl) (h5 : u.sil.mirrorQ = t.sil.mirrorQ := by rfl)
    (h6 : u.sil.rollback = t.sil.rollback := by rfl) (h7 : u.sil.anchorsUsed = t.sil.anchorsUsed := by rfl)
    (h8 : u.sil.debugCount = t.sil.debugCount := by rfl) (h9 : u.sil.commissioned = t.sil.commissioned := by rfl)
    (h10 : u.sil.ownerKey = t.sil.ownerKey := by rfl) : Kept s u :=
  ⟨h0 ▸ h.queue, h1 ▸ h.identity, h2 ▸ h.memory, h3 ▸ h.log, h4 ▸ h.events, h5 ▸ h.mirror, h6 ▸ h.rollback,
    h7 ▸ h.anchors, h7 ▸ h.anchorCap, h8 ▸ h.unlocks, h9 ▸ h.commissioned, h10 ▸ h.owner⟩

theorem foldS_kept {α : Type} {s0 s : State} {xs : List α} {f : α → State → State} (h : Kept s0 s)
    (hf : ∀ x s, Kept s0 s → Kept s0 (f x s)) : Kept s0 (foldS xs f s) := by
  unfold foldS
  induction xs generalizing s with
  | nil => exact h
  | cons x xs ih => exact ih (hf x s h)

theorem foldl_kept {α : Type} {s0 s : State} {xs : List α} {f : State → α → State} (h : Kept s0 s)
    (hf : ∀ s x, Kept s0 s → Kept s0 (f s x)) : Kept s0 (xs.foldl f s) := by
  induction xs generalizing s with
  | nil => exact h
  | cons x xs ih => exact ih (hf s x h)

/-- The state that an operation answers beside a value. -/
theorem Kept.ofPair {α : Type} {s t : State} {p : α × State} {x : α} (h : Kept s p.2) (e : p = (x, t)) : Kept s t := by
  subst e
  exact h

/-- The state that an operation answers under an option. -/
theorem Kept.ofMap {α : Type} {s t : State} {o : Option α} {f : α → State} (e : o.map f = some t)
    (h : ∀ a, Kept s (f a)) : Kept s t := by
  cases o with
  | none => cases e
  | some a => cases e; exact h a

/-- A fold that carries a value beside the state. -/
theorem foldlPair_kept {α β : Type} {s0 : State} {xs : List β} {f : α × State → β → α × State} {r : α × State}
    (h : Kept s0 r.2) (hf : ∀ r x, Kept s0 r.2 → Kept s0 (f r x).2) : Kept s0 (xs.foldl f r).2 := by
  induction xs generalizing r with
  | nil => exact h
  | cons x xs ih => exact ih (hf r x h)

theorem foldSPair_kept {α β : Type} {s0 : State} {xs : List β} {f : β → α × State → α × State} {r : α × State}
    (h : Kept s0 r.2) (hf : ∀ x r, Kept s0 r.2 → Kept s0 (f x r).2) : Kept s0 (foldS xs f r).2 :=
  foldlPair_kept h fun r x hr => hf x r hr

theorem ite_kept {c : Prop} [Decidable c] {s0 s t : State} (h : Kept s0 s) (g : Kept s0 t) :
    Kept s0 (if c then s else t) := by
  split
  · exact h
  · exact g

theorem whenS_kept {s0 s : State} {c : Bool} {f : State → State} (h : Kept s0 s)
    (hf : ∀ s, Kept s0 s → Kept s0 (f s)) : Kept s0 (whenS c f s) := by
  unfold whenS
  split
  · exact hf s h
  · exact h

/-- A change of any other fields, and of the rest of Silset. -/
theorem Kept.upd {s t : State} (h : Kept s t) {z : Sil}
    (hz : (z.log, z.evq, z.mirrorQ, z.rollback, z.anchorsUsed, z.debugCount, z.commissioned, z.ownerKey) =
      (t.sil.log, t.sil.evq, t.sil.mirrorQ, t.sil.rollback, t.sil.anchorsUsed, t.sil.debugCount, t.sil.commissioned,
        t.sil.ownerKey))
    {x_out x_now x_free x_regs x_rwb x_strobes x_heldLo x_latched x_fns x_pcie x_poison x_poisonX x_lost
     x_corrected x_hbm x_shadow x_units x_crossings x_parts x_pkg x_pd x_images x_imgNext x_tiles x_tlayers x_cells
     x_pools x_acc x_accNext x_accLate x_quant x_vecNext x_passes x_homeSums x_glz x_adapters x_dbg x_cone
     x_samples x_vctx x_vslots x_vheld x_vready x_vstore x_queues x_turn x_turnLeft x_cmds x_slotGen x_slotNew
     x_slotFree x_accepted x_ctxs x_entries x_entryTurn x_progs x_progNext x_probes x_cal x_soakQ x_bayT x_bayRate
     x_mirrors x_utc x_utcAt x_ptp x_findings x_remaps x_descs x_releasing x_pins x_seqs x_binds x_prefixes x_gens
     x_ports x_qps x_jobs x_serving x_asks x_fetches x_snaps x_kvParts x_clks x_thermos x_cones x_vcode x_ptPower
     x_gov x_board x_chkGroups x_chkChain x_plans x_rounds x_roClean x_scanClean x_transients x_boosts x_madc} :
    Kept s (State.mk
      t.pending x_out x_now x_free t.fuses x_regs x_rwb x_strobes x_heldLo x_latched x_fns x_pcie t.mem x_poison
      x_poisonX x_lost x_corrected x_hbm x_shadow x_units x_crossings x_parts x_pkg z x_pd x_images x_imgNext
      x_tiles x_tlayers x_cells x_pools x_acc x_accNext x_accLate x_quant x_vecNext x_passes x_homeSums x_glz
      x_adapters x_dbg x_cone x_samples x_vctx x_vslots x_vheld x_vready x_vstore x_queues x_turn x_turnLeft x_cmds
      x_slotGen x_slotNew x_slotFree x_accepted x_ctxs x_entries x_entryTurn x_progs x_progNext x_probes x_cal
      x_soakQ x_bayT x_bayRate x_mirrors x_utc x_utcAt x_ptp x_findings x_remaps x_descs x_releasing x_pins x_seqs
      x_binds x_prefixes x_gens x_ports x_qps x_jobs x_serving x_asks x_fetches x_snaps x_kvParts x_clks x_thermos
      x_cones x_vcode x_ptPower x_gov x_board x_chkGroups x_chkChain x_plans x_rounds x_roClean x_scanClean
      x_transients x_boosts x_madc) :=
  Kept.same h rfl rfl rfl (congrArg (·.1) hz) (congrArg (·.2.1) hz) (congrArg (·.2.2.1) hz) (congrArg (·.2.2.2.1) hz)
    (congrArg (·.2.2.2.2.1) hz) (congrArg (·.2.2.2.2.2.1) hz) (congrArg (·.2.2.2.2.2.2.1) hz)
    (congrArg (·.2.2.2.2.2.2.2) hz)

theorem emit_kept {s0 s : State} {a0} (h : Kept s0 s) : Kept s0 (emit a0 s) := by
  unfold emit
  repeat' first
    | with_reducible assumption
    | (with_reducible refine Kept.upd ?_ ?_; rotate_left; exact rfl)

theorem wr_kept {s0 s : State} {a0 a1 a2} (h : Kept s0 s) : Kept s0 (wr a0 a1 a2 s) := by
  unfold wr
  repeat' first
    | with_reducible assumption
    | (with_reducible refine Kept.upd ?_ ?_; rotate_left; exact rfl)

theorem wrf_kept {s0 s : State} {a0 a1 a2 a3 a4} (h : Kept s0 s) : Kept s0 (wrf a0 a1 a2 a3 a4 s) := by
  unfold wrf
  repeat' first
    | with_reducible assumption
    | with_reducible apply wr_kept

theorem setEv_kept {s0 s : State} {a0 a1 a2} (h : Kept s0 s) : Kept s0 (setEv a0 a1 a2 s) := by
  unfold setEv
  repeat' first
    | with_reducible assumption
    | with_reducible apply wrf_kept

theorem bump_kept {s0 s : State} {a0 a1 a2} (h : Kept s0 s) : Kept s0 (bump a0 a1 a2 s) := by
  unfold bump
  repeat' first
    | with_reducible assumption
    | with_reducible apply wr_kept

theorem bumpSat_kept {s0 s : State} {a0 a1 a2 a3 a4} (h : Kept s0 s) : Kept s0 (bumpSat a0 a1 a2 a3 a4 s) := by
  unfold bumpSat
  repeat' first
    | with_reducible assumption
    | with_reducible apply wrf_kept

theorem bump64_kept {s0 s : State} {a0 a1 a2 a3} (h : Kept s0 s) : Kept s0 (bump64 a0 a1 a2 a3 s) := by
  unfold bump64
  repeat' first
    | with_reducible assumption
    | with_reducible apply wr_kept

theorem resetReg_kept {s0 s : State} {a0 a1} (h : Kept s0 s) : Kept s0 (resetReg a0 a1 s) := by
  unfold resetReg
  repeat' first
    | with_reducible assumption
    | with_reducible apply wr_kept

theorem resetRegs_kept {s0 s : State} {a0 a1} (h : Kept s0 s) : Kept s0 (resetRegs a0 a1 s) := by
  unfold resetRegs
  repeat' first
    | with_reducible assumption
    | intro _
    | with_reducible apply foldS_kept
    | with_reducible apply resetReg_kept

theorem resetAllRegs_kept {s0 s : State} {a0} (h : Kept s0 s) : Kept s0 (resetAllRegs a0 s) := by
  unfold resetAllRegs
  repeat' first
    | with_reducible assumption
    | (with_reducible refine Kept.upd ?_ ?_; rotate_left; exact rfl)

theorem modUnit_kept {s0 s : State} {a0 a1 a2} (h : Kept s0 s) : Kept s0 (modUnit a0 a1 a2 s) := by
  unfold modUnit
  repeat' first
    | with_reducible assumption
    | (with_reducible refine Kept.upd ?_ ?_; rotate_left; exact rfl)

theorem openReq_kept {s0 s : State} {a0 a1 a2} (h : Kept s0 s) : Kept s0 (openReq a0 a1 a2 s) := by
  unfold openReq
  repeat' first
    | with_reducible assumption
    | intro _
    | with_reducible apply modUnit_kept
    | (with_reducible refine Kept.upd ?_ ?_; rotate_left; exact rfl)

theorem closeReq_kept {s0 s : State} {a0 a1 a2} (h : Kept s0 s) : Kept s0 (closeReq a0 a1 a2 s) := by
  unfold closeReq
  repeat' first
    | with_reducible assumption
    | with_reducible apply modUnit_kept

theorem closeAll_kept {s0 s : State} {a0 a1} (h : Kept s0 s) : Kept s0 (closeAll a0 a1 s) := by
  unfold closeAll
  repeat' first
    | with_reducible assumption
    | with_reducible apply modUnit_kept

/-- The mirror queue with one more entry, while it is not full. -/
theorem Kept.mirrorPush {s t : State} (h : Kept s t) {q : List LogEntry} (hq : q.length ≤ 256) :
    Kept s { t with sil.mirrorQ := q } :=
  ⟨h.queue, h.identity, h.memory, h.log, h.events, fun _ => hq, h.rollback, h.anchors, h.anchorCap, h.unlocks, h.commissioned,
    h.owner⟩

theorem dropNewestJournal_length {q r : List LogEntry} (h : dropNewestJournal q = some r) : r.length + 1 = q.length := by
  unfold dropNewestJournal at h
  split at h
  · rename_i hc
    obtain ⟨e, he, hp⟩ := List.any_eq_true.1 hc
    cases h
    have := List.length_eraseP_of_mem (p := fun e : LogEntry => e.cls == 1) (List.mem_reverse.2 he) hp
    have hl : 0 < q.length := List.length_pos_of_mem he
    simp [this]
    omega
  · cases h

theorem putMirror_kept {s0 s : State} {a0} (h : Kept s0 s) : Kept s0 (putMirror a0 s) := by
  unfold putMirror
  split
  · exact h
  · split
    · exact h.mirrorPush (by simp; omega)
    · split
      · exact bumpSat_kept h
      · split
        · rename_i q hq
          apply bumpSat_kept
          have := dropNewestJournal_length hq
          refine ⟨h.queue, h.identity, h.memory, h.log, h.events, fun m => ?_, h.rollback, h.anchors, h.anchorCap, h.unlocks,
            h.commissioned, h.owner⟩
          have := h.mirror m
          simp
          omega
        · exact bumpSat_kept h

theorem modFn_kept {s0 s : State} {a0 a1} (h : Kept s0 s) : Kept s0 (modFn a0 a1 s) := by
  unfold modFn
  repeat' first
    | with_reducible assumption
    | (with_reducible refine Kept.upd ?_ ?_; rotate_left; exact rfl)

theorem sendMsix_kept {s0 s : State} {a0 a1} (h : Kept s0 s) : Kept s0 (sendMsix a0 a1 s) := by
  unfold sendMsix
  repeat' first
    | with_reducible assumption
    | with_reducible apply modFn_kept
    | with_reducible apply emit_kept
    | split

theorem putLog_kept {s0 s : State} {a0} (h : Kept s0 s) : Kept s0 (putLog a0 s) := by
  unfold putLog
  refine whenS_kept (putMirror_kept ?_) fun s h => sendMsix_kept h
  exact ⟨h.queue, h.identity, h.memory, fun _ => by simp, h.events, h.mirror, h.rollback, h.anchors, h.anchorCap, h.unlocks,
    h.commissioned, h.owner⟩

theorem logE_kept {s0 s : State} {a0} (h : Kept s0 s) : Kept s0 (logE a0 s) := by
  unfold logE
  split
  · exact putLog_kept h
  · split
    · exact ⟨h.queue, h.identity, h.memory, h.log, fun _ => by simp; omega, h.mirror, h.rollback, h.anchors, h.anchorCap,
        h.unlocks, h.commissioned, h.owner⟩
    · exact bumpSat_kept h.same

theorem drainEvq_kept {s0 s : State} (h : Kept s0 s) : Kept s0 (drainEvq s) := by
  unfold drainEvq
  refine whenS_kept (foldS_kept ?_ fun x s h => putLog_kept h) fun s h => putLog_kept h
  exact ⟨h.queue, h.identity, h.memory, h.log, fun _ => by simp, h.mirror, h.rollback, h.anchors, h.anchorCap, h.unlocks,
    h.commissioned, h.owner⟩

theorem drawFree_kept {s0 s : State} (h : Kept s0 s) : Kept s0 (drawFree s).2 := by
  unfold drawFree
  repeat' first
    | with_reducible assumption
    | (with_reducible refine Kept.upd ?_ ?_; rotate_left; exact rfl)

theorem aerMark_kept {s0 s : State} {a0 a1} (h : Kept s0 s) : Kept s0 (aerMark a0 a1 s) := by
  unfold aerMark
  repeat' first
    | with_reducible assumption
    | intro _
    | with_reducible apply modFn_kept

theorem aerHeader_kept {s0 s : State} {a0 a1 a2} (h : Kept s0 s) : Kept s0 (aerHeader a0 a1 a2 s) := by
  unfold aerHeader
  repeat' first
    | with_reducible assumption
    | (intro hx; clear_value x)
    | intro _
    | with_reducible apply modFn_kept
    | with_reducible apply drawFree_kept
    | split
    | ((fail_if_no_progress extract_lets +onlyGivenNames x); first
        | refine Kept.cut (t := x) ?_ ?_
        | refine Kept.cut (t := x.2) ?_ ?_
        | refine Kept.cut (t := x.2.2) ?_ ?_
        | (have hs : Sil := x; clear hs; unfold x)
        | (have hs : State → State := x; clear hs; unfold x)
        | (have hs : Nat → State → State := x; clear hs; unfold x)
        | clear_value x)

theorem aerFirst_kept {s0 s : State} {a0 a1 a2 a3} (h : Kept s0 s) : Kept s0 (aerFirst a0 a1 a2 a3 s) := by
  unfold aerFirst
  repeat' first
    | with_reducible assumption
    | intro _
    | with_reducible apply logE_kept
    | with_reducible apply modFn_kept
    | split

theorem aerReport_kept {s0 s : State} {a0 a1 a2 a3 a4} (h : Kept s0 s) : Kept s0 (aerReport a0 a1 a2 a3 a4 s) := by
  unfold aerReport
  repeat' first
    | with_reducible assumption
    | (intro hx; clear_value x)
    | with_reducible apply aerMark_kept
    | with_reducible apply aerFirst_kept
    | with_reducible apply aerHeader_kept
    | with_reducible apply emit_kept
    | split
    | ((fail_if_no_progress extract_lets +onlyGivenNames x); first
        | refine Kept.cut (t := x) ?_ ?_
        | refine Kept.cut (t := x.2) ?_ ?_
        | refine Kept.cut (t := x.2.2) ?_ ?_
        | (have hs : Sil := x; clear hs; unfold x)
        | (have hs : State → State := x; clear hs; unfold x)
        | (have hs : Nat → State → State := x; clear hs; unfold x)
        | clear_value x)

theorem aerCorrect_kept {s0 s : State} {a0 a1} (h : Kept s0 s) : Kept s0 (aerCorrect a0 a1 s) := by
  unfold aerCorrect
  repeat' first
    | with_reducible assumption
    | (intro hx; clear_value x)
    | intro _
    | with_reducible apply modFn_kept
    | with_reducible apply aerFirst_kept
    | with_reducible apply emit_kept
    | split
    | ((fail_if_no_progress extract_lets +onlyGivenNames x); first
        | refine Kept.cut (t := x) ?_ ?_
        | refine Kept.cut (t := x.2) ?_ ?_
        | refine Kept.cut (t := x.2.2) ?_ ?_
        | (have hs : Sil := x; clear hs; unfold x)
        | (have hs : State → State := x; clear hs; unfold x)
        | (have hs : Nat → State → State := x; clear hs; unfold x)
        | clear_value x)

theorem hubErrA_kept {s0 s : State} {a0 a1 a2 a3 a4 a5 a6} (h : Kept s0 s) : Kept s0 (hubErrA a0 a1 a2 a3 a4 a5 a6 s) := by
  unfold hubErrA
  repeat' first
    | with_reducible assumption
    | (intro hx; clear_value x)
    | intro _
    | with_reducible apply whenS_kept
    | with_reducible apply setEv_kept
    | with_reducible apply bumpSat_kept
    | with_reducible apply wr_kept
    | with_reducible apply aerMark_kept
    | with_reducible apply logE_kept
    | with_reducible apply aerReport_kept
    | with_reducible apply sendMsix_kept
    | split
    | ((fail_if_no_progress extract_lets +onlyGivenNames x); first
        | refine Kept.cut (t := x) ?_ ?_
        | refine Kept.cut (t := x.2) ?_ ?_
        | refine Kept.cut (t := x.2.2) ?_ ?_
        | (have hs : Sil := x; clear hs; unfold x)
        | (have hs : State → State := x; clear hs; unfold x)
        | (have hs : Nat → State → State := x; clear hs; unfold x)
        | clear_value x)

theorem hubErr_kept {s0 s : State} {a0 a1 a2 a3 a4 a5} (h : Kept s0 s) : Kept s0 (hubErr a0 a1 a2 a3 a4 a5 s) := by
  unfold hubErr
  repeat' first
    | with_reducible assumption
    | with_reducible apply hubErrA_kept

theorem signal_kept {s0 s : State} {a0 a1} (h : Kept s0 s) : Kept s0 (signal a0 a1 s) := by
  unfold signal
  repeat' first
    | with_reducible assumption
    | with_reducible apply sendMsix_kept
    | with_reducible apply hubErr_kept
    | split

theorem signalVec_kept {s0 s : State} {a0} (h : Kept s0 s) : Kept s0 (signalVec a0 s) := by
  unfold signalVec
  repeat' first
    | with_reducible assumption
    | intro _
    | with_reducible apply whenS_kept
    | with_reducible apply signal_kept

theorem modXing_kept {s0 s : State} {a0 a1} (h : Kept s0 s) : Kept s0 (modXing a0 a1 s) := by
  unfold modXing
  repeat' first
    | with_reducible assumption
    | (with_reducible refine Kept.upd ?_ ?_; rotate_left; exact rfl)

theorem xreset_kept {s0 s : State} (h : Kept s0 s) : Kept s0 (xreset s) := by
  unfold xreset
  repeat' first
    | with_reducible assumption
    | with_reducible apply logE_kept
    | with_reducible apply bump_kept
    | with_reducible apply setEv_kept

theorem hubXreset_kept {s0 s : State} {a0 a1} (h : Kept s0 s) : Kept s0 (hubXreset a0 a1 s) := by
  unfold hubXreset
  repeat' first
    | with_reducible assumption
    | intro _
    | with_reducible apply whenS_kept
    | with_reducible apply xreset_kept

theorem wrByte_kept {s0 s : State} {a0 a1} (h : Kept s0 s) : Kept s0 (wrByte a0 a1 s) :=
  ⟨h.queue, h.identity, fun m => twf_tset _ _ _ _ (h.memory m), h.log, h.events, h.mirror, h.rollback, h.anchors, h.anchorCap,
    h.unlocks, h.commissioned, h.owner⟩

theorem wrBytesAux_kept {s0 s : State} {a0 a1 a2 a3 xs} (h : Kept s0 s) : Kept s0 (wrBytesAux a0 a1 a2 a3 xs s) := by
  induction xs generalizing s a3 with
  | nil => exact h
  | cons x xs ih =>
    unfold wrBytesAux
    apply ih
    split
    · exact wrByte_kept h
    · exact h

theorem wrBytes_kept {s0 s : State} {a0 a1} (h : Kept s0 s) : Kept s0 (wrBytes a0 a1 s) := by
  have h1 := wrBytesAux_kept (a0 := a0) (a1 := a1.length) (a2 := byteOk s a0 a1.length) (a3 := a0) (xs := a1) h
  unfold wrBytes
  dsimp only
  split
  · refine logE_kept (setEv_kept ?_)
    exact h1.same
  · exact h1.same

theorem zeroRange_kept {s0 s : State} {a0 a1} (h : Kept s0 s) : Kept s0 (zeroRange a0 a1 s) :=
  ⟨h.queue, h.identity, fun m => twf_tdrop (fun _ => 0) (fun k => decide (a0 ≤ k) && decide (k < a1)) _ (h.memory m), h.log, h.events, h.mirror, h.rollback, h.anchors, h.anchorCap,
    h.unlocks, h.commissioned, h.owner⟩

theorem addrViolation_kept {s0 s : State} {a0 a1 a2 a3 a4} (h : Kept s0 s) : Kept s0 (addrViolation a0 a1 a2 a3 a4 s) := by
  unfold addrViolation
  repeat' first
    | with_reducible assumption
    | with_reducible apply logE_kept
    | with_reducible apply hubErr_kept
    | with_reducible apply setEv_kept
    | split

theorem poisonWord_kept {s0 s : State} {a0 a1} (h : Kept s0 s) : Kept s0 (poisonWord a0 a1 s) := by
  unfold poisonWord
  repeat' first
    | with_reducible assumption
    | with_reducible apply setEv_kept
    | with_reducible apply bumpSat_kept
    | with_reducible apply wr_kept
    | with_reducible apply logE_kept
    | split
    | (with_reducible refine Kept.upd ?_ ?_; rotate_left; exact rfl)

theorem fuseMacs_kept {s0 s : State} {a0} (h : Kept s0 s) : Kept s0 (fuseMacs a0 s) := by
  unfold fuseMacs
  repeat' first
    | with_reducible assumption
    | (intro hx; clear_value x)
    | intro _
    | with_reducible apply foldS_kept
    | with_reducible apply foldSPair_kept
    | with_reducible apply wr_kept
    | ((fail_if_no_progress extract_lets +onlyGivenNames x); first
        | refine Kept.cut (t := x) ?_ ?_
        | refine Kept.cut (t := x.2) ?_ ?_
        | refine Kept.cut (t := x.2.2) ?_ ?_
        | (have hs : Sil := x; clear hs; unfold x)
        | (have hs : State → State := x; clear hs; unfold x)
        | (have hs : Nat → State → State := x; clear hs; unfold x)
        | clear_value x)

theorem setUtc_kept {s0 s : State} {a0} (h : Kept s0 s) : Kept s0 (setUtc a0 s) := by
  unfold setUtc
  repeat' first
    | with_reducible assumption
    | with_reducible apply wrf_kept
    | (with_reducible refine Kept.upd ?_ ?_; rotate_left; exact rfl)

theorem spmWait_kept {s0 s : State} {a0} (h : Kept s0 s) : Kept s0 (spmWait a0 s) := by
  unfold spmWait
  repeat' first
    | with_reducible assumption
    | (intro hx; clear_value x)
    | with_reducible apply drawFree_kept
    | with_reducible apply bump_kept
    | ((fail_if_no_progress extract_lets +onlyGivenNames x); first
        | refine Kept.cut (t := x) ?_ ?_
        | refine Kept.cut (t := x.2) ?_ ?_
        | refine Kept.cut (t := x.2.2) ?_ ?_
        | (have hs : Sil := x; clear hs; unfold x)
        | (have hs : State → State := x; clear hs; unfold x)
        | (have hs : Nat → State → State := x; clear hs; unfold x)
        | clear_value x)

theorem spmTouch_kept {s0 s : State} {a0} (h : Kept s0 s) : Kept s0 (spmTouch a0 s) := by
  unfold spmTouch
  repeat' first
    | with_reducible assumption
    | with_reducible apply spmWait_kept
    | split

theorem rstLog_kept {s0 s : State} {a0 a1 a2 a3 a4 a5 a6} (h : Kept s0 s) : Kept s0 (rstLog a0 a1 a2 a3 a4 a5 a6 s) := by
  unfold rstLog
  repeat' first
    | with_reducible assumption
    | with_reducible apply logE_kept

theorem lateDrop_kept {s0 s : State} {a0 a1 a2} (h : Kept s0 s) : Kept s0 (lateDrop a0 a1 a2 s) := by
  unfold lateDrop
  repeat' first
    | with_reducible assumption
    | with_reducible apply rstLog_kept
    | with_reducible apply bump_kept
    | with_reducible apply setEv_kept

end Sys2Proof.Machine
end

