-- ==== Sys2Proof/Laws/KeptSilset.lean ====
section
/-! SUPPORT. What `Kept` says is kept by the operations of Machine/Silset.lean. -/

-- One proof at a time: proofs elaborated side by side wait on each other, and each that waits holds a thread's stack.
set_option Elab.async false

namespace Sys2Proof.Machine

open Sys2Proof

theorem setFwSlot_kept {s0 s : State} {a0 a1} (h : Kept s0 s) : Kept s0 (setFwSlot a0 a1 s) := by
  unfold setFwSlot
  repeat' first
    | with_reducible assumption
    | split
    | (with_reducible refine Kept.upd ?_ ?_; rotate_left; exact rfl)

theorem dropSession_kept {s0 s : State} (h : Kept s0 s) : Kept s0 (dropSession s) := by
  unfold dropSession
  repeat' first
    | with_reducible assumption
    | intro _
    | with_reducible apply whenS_kept
    | with_reducible apply setFwSlot_kept
    | split
    | (with_reducible refine Kept.upd ?_ ?_; rotate_left; exact rfl)

theorem silRestart_kept {s0 s : State} {a0} (h : Kept s0 s) : Kept s0 (silRestart a0 s) := by
  unfold silRestart
  repeat' first
    | with_reducible assumption
    | (intro hx; clear_value x)
    | with_reducible apply dropSession_kept
    | with_reducible apply wrf_kept
    | with_reducible apply bumpSat_kept
    | with_reducible apply signalVec_kept
    | with_reducible apply logE_kept
    | (with_reducible refine Kept.upd ?_ ?_; rotate_left; exact rfl)
    | ((fail_if_no_progress extract_lets +onlyGivenNames x); first
        | refine Kept.cut (t := x) ?_ ?_
        | refine Kept.cut (t := x.2) ?_ ?_
        | refine Kept.cut (t := x.2.2) ?_ ?_
        | (have hs : Sil := x; clear hs; unfold x)
        | (have hs : State → State := x; clear hs; unfold x)
        | (have hs : Nat → State → State := x; clear hs; unfold x)
        | clear_value x)

theorem execLockstepMismatch_kept {s0 s : State} (h : Kept s0 s) :
    ∃ u, execLockstepMismatch s = .next u ∧ Kept s0 u := by
  unfold execLockstepMismatch done
  refine ⟨_, rfl, ?_⟩
  repeat' first
    | with_reducible assumption
    | with_reducible apply silRestart_kept

theorem execWatchdogExpiry_kept {s0 s : State} (h : Kept s0 s) :
    ∃ u, execWatchdogExpiry s = .next u ∧ Kept s0 u := by
  unfold execWatchdogExpiry done
  refine ⟨_, rfl, ?_⟩
  repeat' first
    | with_reducible assumption
    | with_reducible apply silRestart_kept
    | split

theorem execSilsetSramUncorrectable_kept {s0 s : State} (h : Kept s0 s) :
    ∃ u, execSilsetSramUncorrectable s = .next u ∧ Kept s0 u := by
  unfold execSilsetSramUncorrectable done
  refine ⟨_, rfl, ?_⟩
  repeat' first
    | with_reducible assumption
    | with_reducible apply silRestart_kept

theorem rejectTrial_kept {s0 s : State} {a0} (h : Kept s0 s) : Kept s0 (rejectTrial a0 s) := by
  unfold rejectTrial
  repeat' first
    | with_reducible assumption
    | (intro hx; clear_value x)
    | with_reducible apply logE_kept
    | with_reducible apply setFwSlot_kept
    | split
    | (with_reducible refine Kept.upd ?_ ?_; rotate_left; exact rfl)
    | ((fail_if_no_progress extract_lets +onlyGivenNames x); first
        | refine Kept.cut (t := x) ?_ ?_
        | refine Kept.cut (t := x.2) ?_ ?_
        | refine Kept.cut (t := x.2.2) ?_ ?_
        | (have hs : Sil := x; clear hs; unfold x)
        | (have hs : State → State := x; clear hs; unfold x)
        | (have hs : Nat → State → State := x; clear hs; unfold x)
        | clear_value x)

theorem rejectSlot_kept {s0 s : State} {a0} (h : Kept s0 s) : Kept s0 (rejectSlot a0 s) := by
  unfold rejectSlot
  repeat' first
    | with_reducible assumption
    | (intro hx; clear_value x)
    | intro _
    | with_reducible apply whenS_kept
    | with_reducible apply logE_kept
    | with_reducible apply setFwSlot_kept
    | split
    | (with_reducible refine Kept.upd ?_ ?_; rotate_left; exact rfl)
    | ((fail_if_no_progress extract_lets +onlyGivenNames x); first
        | refine Kept.cut (t := x) ?_ ?_
        | refine Kept.cut (t := x.2) ?_ ?_
        | refine Kept.cut (t := x.2.2) ?_ ?_
        | (have hs : Sil := x; clear hs; unfold x)
        | (have hs : State → State := x; clear hs; unfold x)
        | (have hs : Nat → State → State := x; clear hs; unfold x)
        | clear_value x)

theorem bootFrom_kept {s0 s : State} {a0} (h : Kept s0 s) : Kept s0 (bootFrom a0 s) := by
  unfold bootFrom
  repeat' first
    | with_reducible assumption
    | (with_reducible refine Kept.upd ?_ ?_; rotate_left; exact rfl)

theorem bootRom_kept {s0 s : State} {a0 a1 a2} (h : Kept s0 s) : Kept s0 (bootRom a0 a1 a2 s) := by
  unfold bootRom
  repeat' first
    | with_reducible assumption
    | (intro hx; clear_value x)
    | intro _
    | with_reducible apply whenS_kept
    | with_reducible apply rejectTrial_kept
    | with_reducible apply logE_kept
    | with_reducible apply bootFrom_kept
    | with_reducible apply rejectSlot_kept
    | with_reducible apply drainEvq_kept
    | split
    | (with_reducible refine Kept.upd ?_ ?_; rotate_left; exact rfl)
    | ((fail_if_no_progress extract_lets +onlyGivenNames x); first
        | refine Kept.cut (t := x) ?_ ?_
        | refine Kept.cut (t := x.2) ?_ ?_
        | refine Kept.cut (t := x.2.2) ?_ ?_
        | (have hs : Sil := x; clear hs; unfold x)
        | (have hs : State → State := x; clear hs; unfold x)
        | (have hs : Nat → State → State := x; clear hs; unfold x)
        | clear_value x)

theorem execBootRomStart_kept {s0 s : State} {a0 a1 a2} (h : Kept s0 s) :
    ∃ u, execBootRomStart a0 a1 a2 s = .next u ∧ Kept s0 u := by
  unfold execBootRomStart done
  refine ⟨_, rfl, ?_⟩
  repeat' first
    | with_reducible assumption
    | with_reducible apply bootRom_kept
    | split

theorem askFlash_kept {s0 s : State} {a0} (h : Kept s0 s) : Kept s0 (askFlash a0 s) := by
  unfold askFlash
  repeat' first
    | with_reducible assumption
    | (with_reducible refine Kept.upd ?_ ?_; rotate_left; exact rfl)

theorem showWear_kept {s0 s : State} (h : Kept s0 s) : Kept s0 (showWear s) := by
  unfold showWear
  repeat' first
    | with_reducible assumption
    | with_reducible apply wr_kept

theorem wearWarn_kept {s0 s : State} {a0 a1} (h : Kept s0 s) : Kept s0 (wearWarn a0 a1 s) := by
  unfold wearWarn
  repeat' first
    | with_reducible assumption
    | intro _
    | with_reducible apply whenS_kept
    | with_reducible apply logE_kept
    | with_reducible apply setEv_kept

theorem startPageDurable_kept {s0 s : State} {a0} (h : Kept s0 s) : Kept s0 (startPageDurable a0 s) := by
  unfold startPageDurable
  repeat' first
    | with_reducible assumption
    | (intro hx; clear_value x)
    | intro _
    | with_reducible apply foldS_kept
    | with_reducible apply foldSPair_kept
    | with_reducible apply wearWarn_kept
    | (with_reducible refine Kept.upd ?_ ?_; rotate_left; exact rfl)
    | ((fail_if_no_progress extract_lets +onlyGivenNames x); first
        | refine Kept.cut (t := x) ?_ ?_
        | refine Kept.cut (t := x.2) ?_ ?_
        | refine Kept.cut (t := x.2.2) ?_ ?_
        | (have hs : Sil := x; clear hs; unfold x)
        | (have hs : State → State := x; clear hs; unfold x)
        | (have hs : Nat → State → State := x; clear hs; unfold x)
        | clear_value x)

theorem dropPage_kept {s0 s : State} {a0} (h : Kept s0 s) : Kept s0 (dropPage a0 s) := by
  unfold dropPage
  repeat' first
    | with_reducible assumption
    | intro _
    | (with_reducible refine Kept.upd ?_ ?_; rotate_left; exact rfl)

theorem flashDone_kept {s0 s : State} {j} (h : Kept s0 s) : Kept s0 (flashDone j s) := by
  have h1 : Kept s0 { s with sil.flashQ := s.sil.flashQ.erase j, sil.flashOk := true, sil.flashTries := 0 } :=
    h.same
  unfold flashDone
  cases j with
  | startPage tls => exact startPageDurable_kept h1
  | stateStore => exact h1.same
  | mirrorPage =>
    exact ⟨h1.queue, h1.identity, h1.memory, h1.log, h1.events, fun m => by
      have := h1.mirror m
      show (List.drop 4 s.sil.mirrorQ).length ≤ 256
      have e : (List.drop 4 s.sil.mirrorQ).length ≤ s.sil.mirrorQ.length := by simp
      exact e.trans this, h1.rollback, h1.anchors, h1.anchorCap, h1.unlocks, h1.commissioned, h1.owner⟩
  | donePage recs => exact h1.same
  | staging n =>
    dsimp only
    split
    · exact h1.same
    · exact h1

theorem sessionFails_kept {s0 s : State} (h : Kept s0 s) : Kept s0 (sessionFails s) := by
  unfold sessionFails
  repeat' first
    | with_reducible assumption
    | intro _
    | with_reducible apply whenS_kept
    | with_reducible apply setFwSlot_kept
    | split
    | (with_reducible refine Kept.upd ?_ ?_; rotate_left; exact rfl)

theorem flashFail_kept {s0 s : State} (h : Kept s0 s) : Kept s0 (flashFail s) := by
  unfold flashFail
  repeat' first
    | with_reducible assumption
    | (intro hx; clear_value x)
    | intro _
    | with_reducible apply whenS_kept
    | with_reducible apply logE_kept
    | with_reducible apply sessionFails_kept
    | split
    | (with_reducible refine Kept.upd ?_ ?_; rotate_left; exact rfl)
    | ((fail_if_no_progress extract_lets +onlyGivenNames x); first
        | refine Kept.cut (t := x) ?_ ?_
        | refine Kept.cut (t := x.2) ?_ ?_
        | refine Kept.cut (t := x.2.2) ?_ ?_
        | (have hs : Sil := x; clear hs; unfold x)
        | (have hs : State → State := x; clear hs; unfold x)
        | (have hs : Nat → State → State := x; clear hs; unfold x)
        | clear_value x)

theorem execFlashWriteDone_kept {s0 s : State} {a0} (h : Kept s0 s) :
    ∃ u, execFlashWriteDone a0 s = .next u ∧ Kept s0 u := by
  unfold execFlashWriteDone done
  refine ⟨_, rfl, ?_⟩
  repeat' first
    | with_reducible assumption
    | with_reducible apply foldlPair_kept
    | with_reducible apply flashDone_kept
    | with_reducible apply flashFail_kept
    | split

theorem putMbx_kept {s0 s : State} {r i xs} (h : Kept s0 s) : Kept s0 (putMbx r i xs s) := by
  fun_induction putMbx r i xs s with
  | case1 => exact h
  | case2 _ _ _ _ _ _ _ ih => exact ih (wr_kept h)
  | case3 => exact wr_kept h

theorem mbxRequest_kept {s0 s : State} {a0 a1 a2} (h : Kept s0 s) : Kept s0 (mbxRequest a0 a1 a2 s) := by
  unfold mbxRequest
  repeat' first
    | with_reducible assumption
    | with_reducible apply putMbx_kept

theorem mbxRespond_kept {s0 s : State} {a0 a1 a2} (h : Kept s0 s) : Kept s0 (mbxRespond a0 a1 a2 s) := by
  unfold mbxRespond
  repeat' first
    | with_reducible assumption
    | with_reducible apply signalVec_kept
    | with_reducible apply setEv_kept
    | with_reducible apply putMbx_kept

theorem goIgnored_kept {s0 s : State} (h : Kept s0 s) : Kept s0 (goIgnored s) := by
  unfold goIgnored
  repeat' first
    | with_reducible assumption
    | with_reducible apply logE_kept

theorem mbxRun_kept {s0 s : State} {op tag p} {f : State → Nat × List Byte × State} (h : Kept s0 s)
    (hf : ∀ s, Kept s0 s → Kept s0 (f s).2.2) : Kept s0 (mbxRun op tag p f s) := by
  have h1 : Kept s0 (mbxRequest op tag p s) := mbxRequest_kept h
  unfold mbxRun
  split
  · exact goIgnored_kept h
  · dsimp only
    split
    · exact mbxRespond_kept h1
    · exact mbxRespond_kept (hf _ h1)

theorem ansOnly_kept {s0 s : State} {a0 a1} (h : Kept s0 s) : Kept s0 (ansOnly a0 a1 s).2.2 := by
  unfold ansOnly
  repeat' first
    | with_reducible assumption

theorem execGetInfo_kept {s0 s : State} {a0} (h : Kept s0 s) :
    ∃ u, execGetInfo a0 s = .next u ∧ Kept s0 u := by
  unfold execGetInfo done
  refine ⟨_, rfl, ?_⟩
  repeat' first
    | with_reducible assumption
    | intro _
    | with_reducible apply mbxRun_kept
    | with_reducible apply ansOnly_kept

theorem execLogRead_kept {s0 s : State} {a0 a1 a2} (h : Kept s0 s) :
    ∃ u, execLogRead a0 a1 a2 s = .next u ∧ Kept s0 u := by
  unfold execLogRead done
  refine ⟨_, rfl, ?_⟩
  repeat' first
    | with_reducible assumption
    | intro _
    | with_reducible apply mbxRun_kept
    | with_reducible apply emit_kept

theorem openSession_kept {s0 s : State} {a0 a1} (h : Kept s0 s) : Kept s0 (openSession a0 a1 s) := by
  unfold openSession
  repeat' first
    | with_reducible assumption
    | (intro hx; clear_value x)
    | with_reducible apply setFwSlot_kept
    | (with_reducible refine Kept.upd ?_ ?_; rotate_left; exact rfl)

theorem execFwStage_kept {s0 s : State} {a0 a1 a2} (h : Kept s0 s) :
    ∃ u, execFwStage a0 a1 a2 s = .next u ∧ Kept s0 u := by
  unfold execFwStage done
  refine ⟨_, rfl, ?_⟩
  repeat' first
    | with_reducible assumption
    | intro _
    | with_reducible apply mbxRun_kept
    | with_reducible apply ansOnly_kept
    | with_reducible apply emit_kept
    | with_reducible apply openSession_kept
    | split

theorem execFwStageComplete_kept {s0 s : State} {a0} (h : Kept s0 s) :
    ∃ u, execFwStageComplete a0 s = .next u ∧ Kept s0 u := by
  unfold execFwStageComplete done
  refine ⟨_, rfl, ?_⟩
  repeat' first
    | with_reducible assumption
    | (intro hx; clear_value x)
    | intro _
    | with_reducible apply setFwSlot_kept
    | with_reducible apply logE_kept
    | split
    | (with_reducible refine Kept.upd ?_ ?_; rotate_left; exact rfl)
    | ((fail_if_no_progress extract_lets +onlyGivenNames x); first
        | refine Kept.cut (t := x) ?_ ?_
        | refine Kept.cut (t := x.2) ?_ ?_
        | refine Kept.cut (t := x.2.2) ?_ ?_
        | (have hs : Sil := x; clear hs; unfold x)
        | (have hs : State → State := x; clear hs; unfold x)
        | (have hs : Nat → State → State := x; clear hs; unfold x)
        | clear_value x)

theorem execFwStatus_kept {s0 s : State} {a0} (h : Kept s0 s) :
    ∃ u, execFwStatus a0 s = .next u ∧ Kept s0 u := by
  unfold execFwStatus done
  refine ⟨_, rfl, ?_⟩
  repeat' first
    | with_reducible assumption
    | (intro hx; clear_value x)
    | intro _
    | with_reducible apply mbxRun_kept
    | with_reducible apply ansOnly_kept
    | split
    | ((fail_if_no_progress extract_lets +onlyGivenNames x); first
        | refine Kept.cut (t := x) ?_ ?_
        | refine Kept.cut (t := x.2) ?_ ?_
        | refine Kept.cut (t := x.2.2) ?_ ?_
        | (have hs : Sil := x; clear hs; unfold x)
        | (have hs : State → State := x; clear hs; unfold x)
        | (have hs : Nat → State → State := x; clear hs; unfold x)
        | clear_value x)

/-- The rollback counter rises. -/
theorem Kept.raise {s t : State} (h : Kept s t) {n : Nat} (hn : t.sil.rollback ≤ n) :
    Kept s { t with sil.rollback := n } :=
  ⟨h.queue, h.identity, h.memory, h.log, h.events, h.mirror, h.rollback.trans hn, h.anchors, h.anchorCap, h.unlocks,
    h.commissioned, h.owner⟩

theorem activateFw_kept {s0 s : State} {a0 a1} (h : Kept s0 s) : Kept s0 (activateFw a0 a1 s) := by
  unfold activateFw
  dsimp only
  refine silRestart_kept (logE_kept ?_)
  have h1 : Kept s0 (setFwSlot (!s.sil.slot) { fwSlot s (!s.sil.slot) with state := 2 }
      { s with sil.session := none, sil.agentsNow := a0 }) :=
    setFwSlot_kept (h.same)
  split
  · rename_i hc
    simp only [Bool.and_eq_true, decide_eq_true_eq] at hc
    exact h1.raise hc.2.le
  · exact h1

theorem execFwActivate_kept {s0 s : State} {a0 a1 a2} (h : Kept s0 s) :
    ∃ u, execFwActivate a0 a1 a2 s = .next u ∧ Kept s0 u := by
  unfold execFwActivate done
  refine ⟨_, rfl, ?_⟩
  repeat' first
    | with_reducible assumption
    | intro _
    | with_reducible apply mbxRun_kept
    | with_reducible apply ansOnly_kept
    | with_reducible apply activateFw_kept
    | split

theorem loadAgents_kept {s0 s : State} {a0} (h : Kept s0 s) : Kept s0 (loadAgents a0 s) := by
  unfold loadAgents
  repeat' first
    | with_reducible assumption
    | split
    | (with_reducible refine Kept.upd ?_ ?_; rotate_left; exact rfl)

theorem sigFailed_kept {s0 s : State} {a0} (h : Kept s0 s) : Kept s0 (sigFailed a0 s) := by
  unfold sigFailed
  repeat' first
    | with_reducible assumption
    | with_reducible apply logE_kept

/-- An anchor slot is used up (R547): there are eight. -/
theorem keysChanged_kept {s0 s : State} {a0 a1} (h : Kept s0 s) (ha : s.sil.anchorsUsed < 8) :
    Kept s0 (keysChanged a0 a1 s) := by
  refine logE_kept (askFlash_kept ?_)
  have := h.anchors
  exact ⟨h.queue, h.identity, h.memory, h.log, h.events, h.mirror, h.rollback, by simp; omega, fun _ => by simp; omega,
    h.unlocks, h.commissioned, h.owner⟩

theorem enrollImage_kept {s0 s : State} {a0 a1} (h : Kept s0 s) : Kept s0 (enrollImage a0 a1 s).2.2 := by
  unfold enrollImage
  split
  · exact ansOnly_kept h
  · split
    · exact sigFailed_kept h
    · split
      · exact ansOnly_kept h
      · exact keysChanged_kept h (by omega)

theorem enrollOwner_kept {s0 s : State} {a0} (h : Kept s0 s) : Kept s0 (enrollOwner a0 s).2.2 := by
  unfold enrollOwner
  split
  · exact ansOnly_kept h
  · rename_i hc
    refine logE_kept ⟨h.queue, h.identity, h.memory, h.log, h.events, h.mirror, h.rollback, h.anchors, h.anchorCap, h.unlocks,
      h.commissioned, fun k e => ?_⟩
    have := h.owner k e
    simp [this] at hc

theorem execKeyEnroll_kept {s0 s : State} {a0 a1 a2 a3 a4} (h : Kept s0 s) :
    ∃ u, execKeyEnroll a0 a1 a2 a3 a4 s = .next u ∧ Kept s0 u := by
  unfold execKeyEnroll done
  refine ⟨_, rfl, ?_⟩
  repeat' first
    | with_reducible assumption
    | intro _
    | with_reducible apply mbxRun_kept
    | with_reducible apply ansOnly_kept
    | with_reducible apply enrollImage_kept
    | with_reducible apply enrollOwner_kept
    | split

theorem revokeKey_kept {s0 s : State} {a0 a1} (h : Kept s0 s) : Kept s0 (revokeKey a0 a1 s).2.2 := by
  unfold revokeKey
  split
  · exact ansOnly_kept h
  · split
    · exact ansOnly_kept h
    · split
      · exact ansOnly_kept h
      · split
        · exact sigFailed_kept h
        · split
          · exact ansOnly_kept h
          · exact keysChanged_kept h (by omega)

theorem execKeyRevoke_kept {s0 s : State} {a0 a1 a2 a3} (h : Kept s0 s) :
    ∃ u, execKeyRevoke a0 a1 a2 a3 s = .next u ∧ Kept s0 u := by
  unfold execKeyRevoke done
  refine ⟨_, rfl, ?_⟩
  repeat' first
    | with_reducible assumption
    | intro _
    | with_reducible apply mbxRun_kept
    | with_reducible apply ansOnly_kept
    | with_reducible apply revokeKey_kept
    | split

theorem execKeyList_kept {s0 s : State} {a0} (h : Kept s0 s) :
    ∃ u, execKeyList a0 s = .next u ∧ Kept s0 u := by
  unfold execKeyList done
  refine ⟨_, rfl, ?_⟩
  repeat' first
    | with_reducible assumption
    | intro _
    | with_reducible apply mbxRun_kept
    | with_reducible apply ansOnly_kept

theorem execCommission_kept {s0 s : State} {a0 a1 a2} (h : Kept s0 s) :
    ∃ u, execCommission a0 a1 a2 s = .next u ∧ Kept s0 u := by
  refine ⟨_, rfl, mbxRun_kept h fun s h => ?_⟩
  dsimp only
  split
  · exact ansOnly_kept h
  · split
    · exact ansOnly_kept h
    · exact logE_kept ⟨h.queue, h.identity, h.memory, h.log, h.events, h.mirror, h.rollback, h.anchors, h.anchorCap, h.unlocks,
        fun _ => rfl, h.owner⟩

theorem execScanWrite_kept {s0 s : State} {a0 a1 a2} (h : Kept s0 s) :
    ∃ u, execScanWrite a0 a1 a2 s = .next u ∧ Kept s0 u := by
  unfold execScanWrite done
  refine ⟨_, rfl, ?_⟩
  repeat' first
    | with_reducible assumption
    | intro _
    | with_reducible apply mbxRun_kept
    | with_reducible apply ansOnly_kept
    | with_reducible apply emit_kept
    | split
    | (with_reducible refine Kept.upd ?_ ?_; rotate_left; exact rfl)

theorem mgmtAns_kept {s0 s : State} {a0 a1 a2} (h : Kept s0 s) : Kept s0 (mgmtAns a0 a1 a2 s) := by
  unfold mgmtAns
  repeat' first
    | with_reducible assumption
    | with_reducible apply emit_kept

theorem execSetEndpointId_kept {s0 s : State} {a0} (h : Kept s0 s) :
    ∃ u, execSetEndpointId a0 s = .next u ∧ Kept s0 u := by
  unfold execSetEndpointId done
  refine ⟨_, rfl, ?_⟩
  repeat' first
    | with_reducible assumption
    | with_reducible apply mgmtAns_kept
    | split
    | (with_reducible refine Kept.upd ?_ ?_; rotate_left; exact rfl)

theorem execGetEndpointId_kept {s0 s : State} (h : Kept s0 s) :
    ∃ u, execGetEndpointId s = .next u ∧ Kept s0 u := by
  unfold execGetEndpointId done
  refine ⟨_, rfl, ?_⟩
  repeat' first
    | with_reducible assumption
    | with_reducible apply mgmtAns_kept

theorem execGetEndpointUuid_kept {s0 s : State} (h : Kept s0 s) :
    ∃ u, execGetEndpointUuid s = .next u ∧ Kept s0 u := by
  unfold execGetEndpointUuid done
  refine ⟨_, rfl, ?_⟩
  repeat' first
    | with_reducible assumption
    | with_reducible apply mgmtAns_kept

theorem execGetMctpVersionSupport_kept {s0 s : State} {a0} (h : Kept s0 s) :
    ∃ u, execGetMctpVersionSupport a0 s = .next u ∧ Kept s0 u := by
  unfold execGetMctpVersionSupport done
  refine ⟨_, rfl, ?_⟩
  repeat' first
    | with_reducible assumption
    | with_reducible apply mgmtAns_kept

theorem execGetMessageTypeSupport_kept {s0 s : State} (h : Kept s0 s) :
    ∃ u, execGetMessageTypeSupport s = .next u ∧ Kept s0 u := by
  unfold execGetMessageTypeSupport done
  refine ⟨_, rfl, ?_⟩
  repeat' first
    | with_reducible assumption
    | with_reducible apply mgmtAns_kept

theorem execGettid_kept {s0 s : State} (h : Kept s0 s) :
    ∃ u, execGettid s = .next u ∧ Kept s0 u := by
  unfold execGettid done
  refine ⟨_, rfl, ?_⟩
  repeat' first
    | with_reducible assumption
    | intro _
    | with_reducible apply whenS_kept
    | with_reducible apply mgmtAns_kept

theorem execGetpldmversion_kept {s0 s : State} {a0} (h : Kept s0 s) :
    ∃ u, execGetpldmversion a0 s = .next u ∧ Kept s0 u := by
  unfold execGetpldmversion done
  refine ⟨_, rfl, ?_⟩
  repeat' first
    | with_reducible assumption
    | intro _
    | with_reducible apply whenS_kept
    | with_reducible apply mgmtAns_kept

theorem execGetpldmtypes_kept {s0 s : State} (h : Kept s0 s) :
    ∃ u, execGetpldmtypes s = .next u ∧ Kept s0 u := by
  unfold execGetpldmtypes done
  refine ⟨_, rfl, ?_⟩
  repeat' first
    | with_reducible assumption
    | intro _
    | with_reducible apply whenS_kept
    | with_reducible apply mgmtAns_kept

theorem execGetpldmcommands_kept {s0 s : State} {a0} (h : Kept s0 s) :
    ∃ u, execGetpldmcommands a0 s = .next u ∧ Kept s0 u := by
  unfold execGetpldmcommands done
  refine ⟨_, rfl, ?_⟩
  repeat' first
    | with_reducible assumption
    | intro _
    | with_reducible apply whenS_kept
    | with_reducible apply mgmtAns_kept

theorem execSeteventreceiver_kept {s0 s : State} {a0 a1} (h : Kept s0 s) :
    ∃ u, execSeteventreceiver a0 a1 s = .next u ∧ Kept s0 u := by
  unfold execSeteventreceiver done
  refine ⟨_, rfl, ?_⟩
  repeat' first
    | with_reducible assumption
    | with_reducible apply mgmtAns_kept
    | split
    | (with_reducible refine Kept.upd ?_ ?_; rotate_left; exact rfl)

theorem platformEvent_kept {s0 s : State} {a0 a1} (h : Kept s0 s) : Kept s0 (platformEvent a0 a1 s) := by
  unfold platformEvent
  repeat' first
    | with_reducible assumption
    | intro _
    | with_reducible apply whenS_kept
    | with_reducible apply mgmtAns_kept
    | split

theorem execRequestupdate_kept {s0 s : State} {a0} (h : Kept s0 s) :
    ∃ u, execRequestupdate a0 s = .next u ∧ Kept s0 u := by
  unfold execRequestupdate done
  refine ⟨_, rfl, ?_⟩
  repeat' first
    | with_reducible assumption
    | with_reducible apply mgmtAns_kept
    | with_reducible apply openSession_kept
    | split

theorem execPldmComponentTransfer_kept {s0 s : State} {a0 a1} (h : Kept s0 s) :
    ∃ u, execPldmComponentTransfer a0 a1 s = .next u ∧ Kept s0 u := by
  unfold execPldmComponentTransfer done
  refine ⟨_, rfl, ?_⟩
  repeat' first
    | with_reducible assumption
    | intro _
    | with_reducible apply whenS_kept
    | with_reducible apply mgmtAns_kept
    | with_reducible apply askFlash_kept
    | split

theorem execActivatefirmware_kept {s0 s : State} (h : Kept s0 s) :
    ∃ u, execActivatefirmware s = .next u ∧ Kept s0 u := by
  unfold execActivatefirmware done
  refine ⟨_, rfl, ?_⟩
  repeat' first
    | with_reducible assumption
    | with_reducible apply mgmtAns_kept
    | with_reducible apply activateFw_kept
    | split

end Sys2Proof.Machine
end

