-- ==== Sys2Proof/Laws/KeptRegOps.lean ====
section
/-! SUPPORT. What `Kept` says is kept by the operations of Machine/RegOps.lean. -/

-- One proof at a time: proofs elaborated side by side wait on each other, and each that waits holds a thread's stack.
set_option Elab.async false

namespace Sys2Proof.Machine

open Sys2Proof

theorem journalBy_kept {s0 s : State} {a0 a1 a2 a3 a4 a5} (h : Kept s0 s) :
    Kept s0 (journalBy a0 a1 a2 a3 a4 a5 s) := by
  unfold journalBy
  extract_lets x
  clear_value x
  split
  · split
    · exact ⟨h.queue, h.identity, h.memory, fun m => by simpa [again] using h.log m, fun m => by simpa [again] using h.events m,
        h.mirror, h.rollback, h.anchors, h.anchorCap, h.unlocks, h.commissioned, h.owner⟩
    · exact whenS_kept h fun s h => logE_kept h
  · exact whenS_kept h fun s h => logE_kept h

theorem journal_kept {s0 s : State} {a0 a1 a2 a3 a4 a5} (h : Kept s0 s) : Kept s0 (journal a0 a1 a2 a3 a4 a5 s) :=
  journalBy_kept h

theorem logReserved_kept {s0 s : State} {a0 a1 a2} (h : Kept s0 s) : Kept s0 (logReserved a0 a1 a2 s) := by
  unfold logReserved
  repeat' first
    | with_reducible assumption
    | with_reducible apply logE_kept

theorem storeReg_kept {s0 s : State} {a0 a1 a2 a3 a4} (h : Kept s0 s) : Kept s0 (storeReg a0 a1 a2 a3 a4 s) := by
  unfold storeReg
  repeat' first
    | with_reducible assumption
    | (intro hx; clear_value x)
    | intro _
    | with_reducible apply whenS_kept
    | with_reducible apply wr_kept
    | with_reducible apply logReserved_kept
    | with_reducible apply hubErr_kept
    | with_reducible apply journal_kept
    | split
    | ((fail_if_no_progress extract_lets +onlyGivenNames x); first
        | refine Kept.cut (t := x) ?_ ?_
        | refine Kept.cut (t := x.2) ?_ ?_
        | refine Kept.cut (t := x.2.2) ?_ ?_
        | (have hs : Sil := x; clear hs; unfold x)
        | (have hs : State → State := x; clear hs; unfold x)
        | (have hs : Nat → State → State := x; clear hs; unfold x)
        | clear_value x)

theorem storeBlk_kept {s0 s : State} {a0 a1 a2 a3} (h : Kept s0 s) : Kept s0 (storeBlk a0 a1 a2 a3 s) := by
  unfold storeBlk
  repeat' first
    | with_reducible assumption
    | with_reducible apply storeReg_kept

theorem applyBuf_kept {s0 s : State} {a0} (h : Kept s0 s) : Kept s0 (applyBuf a0 s) := by
  unfold applyBuf
  repeat' first
    | with_reducible assumption
    | with_reducible apply wr_kept
    | split

theorem strobeApply_kept {s0 s : State} {a0} (h : Kept s0 s) : Kept s0 (strobeApply a0 s) := by
  unfold strobeApply
  repeat' first
    | with_reducible assumption
    | intro _
    | with_reducible apply foldS_kept
    | with_reducible apply applyBuf_kept
    | with_reducible apply bump_kept
    | split
    | (with_reducible refine Kept.upd ?_ ?_; rotate_left; exact rfl)

theorem regErr_kept {s0 s : State} {a0 a1 a2 a3 a4} (h : Kept s0 s) : Kept s0 (regErr a0 a1 a2 a3 a4 s) := by
  unfold regErr
  repeat' first
    | with_reducible assumption
    | with_reducible apply hubErr_kept

theorem dropBuffered_kept {s0 s : State} {a0} (h : Kept s0 s) : Kept s0 (dropBuffered a0 s) := by
  unfold dropBuffered
  repeat' first
    | with_reducible assumption
    | intro _
    | with_reducible apply logE_kept
    | split
    | (with_reducible refine Kept.upd ?_ ?_; rotate_left; exact rfl)

end Sys2Proof.Machine
end

