-- ==== Sys2Proof/Laws/KeptLayout.lean ====
section
/-! SUPPORT. What `Kept` says is kept by the operations of Machine/Layout.lean. -/

-- One proof at a time: proofs elaborated side by side wait on each other, and each that waits holds a thread's stack.
set_option Elab.async false

namespace Sys2Proof.Machine

open Sys2Proof

theorem modTl_kept {s0 s : State} {a0 a1 a2} (h : Kept s0 s) : Kept s0 (modTl a0 a1 a2 s) := by
  unfold modTl
  repeat' first
    | with_reducible assumption
    | (with_reducible refine Kept.upd ?_ ?_; rotate_left; exact rfl)

theorem modTile_kept {s0 s : State} {a0 a1} (h : Kept s0 s) : Kept s0 (modTile a0 a1 s) := by
  unfold modTile
  repeat' first
    | with_reducible assumption
    | (with_reducible refine Kept.upd ?_ ?_; rotate_left; exact rfl)

theorem haltBays_kept {s0 s : State} {a0} (h : Kept s0 s) : Kept s0 (haltBays a0 s) := by
  unfold haltBays
  repeat' first
    | with_reducible assumption
    | (with_reducible refine Kept.upd ?_ ?_; rotate_left; exact rfl)

theorem acked_kept {s0 s : State} {a0 a1} (h : Kept s0 s) : Kept s0 (acked a0 a1 s) := by
  unfold acked
  repeat' first
    | with_reducible assumption
    | intro _
    | with_reducible apply whenS_kept
    | (with_reducible refine Kept.upd ?_ ?_; rotate_left; exact rfl)

theorem withhold_kept {s0 s : State} {a0 a1 a2} {f : State → State} (h : Kept s0 s)
    (hf : ∀ s, Kept s0 s → Kept s0 (f s)) : Kept s0 (withhold a0 a1 a2 f s) := by
  unfold withhold
  split
  · exact hf _ (acked_kept (h.same))
  · split
    · exact h.same
    · exact hf _ (acked_kept h)

theorem park_kept {s0 s : State} {a0 a1 a2 a3} (h : Kept s0 s) : Kept s0 (park a0 a1 a2 a3 s) := by
  unfold park
  repeat' first
    | with_reducible assumption
    | split
    | (with_reducible refine Kept.upd ?_ ?_; rotate_left; exact rfl)

theorem freeRoom_kept {s0 s : State} {a0} (h : Kept s0 s) : Kept s0 (freeRoom a0 s) := by
  unfold freeRoom
  repeat' first
    | with_reducible assumption
    | intro _
    | (with_reducible refine Kept.upd ?_ ?_; rotate_left; exact rfl)

theorem nextWaiting_kept {s0 s t : State} {i} (h : Kept s0 s) (e : nextWaiting s = some (i, t)) : Kept s0 t := by
  unfold nextWaiting at e
  obtain ⟨w, _, e⟩ := Option.map_eq_some_iff.1 e
  cases e
  exact h.same

theorem silHalt_kept {s0 s : State} (h : Kept s0 s) : Kept s0 (silHalt s) := by
  unfold silHalt
  repeat' first
    | with_reducible assumption
    | split
    | (with_reducible refine Kept.upd ?_ ?_; rotate_left; exact rfl)

theorem bpHit_kept {s0 s : State} {a0 a1} (h : Kept s0 s) : Kept s0 (bpHit a0 a1 s) := by
  unfold bpHit
  repeat' first
    | with_reducible assumption
    | intro _
    | with_reducible apply whenS_kept
    | with_reducible apply foldlPair_kept
    | with_reducible apply bump_kept
    | with_reducible apply wrf_kept
    | with_reducible apply haltBays_kept
    | with_reducible apply silHalt_kept

theorem breakpoint_kept {s0 s : State} {a0 a1 a2} (h : Kept s0 s) : Kept s0 (breakpoint a0 a1 a2 s).2 := by
  unfold breakpoint
  repeat' first
    | with_reducible assumption
    | intro _
    | with_reducible apply foldS_kept
    | with_reducible apply whenS_kept
    | with_reducible apply bpHit_kept
    | with_reducible apply wrf_kept
    | with_reducible apply setEv_kept
    | split
    | ((fail_if_no_progress extract_lets +onlyGivenNames x); first
        | refine Kept.cut (t := x) ?_ ?_
        | refine Kept.cut (t := x.2) ?_ ?_
        | refine Kept.cut (t := x.2.2) ?_ ?_
        | (have hs : Sil := x; clear hs; unfold x)
        | (have hs : State → State := x; clear hs; unfold x)
        | (have hs : Nat → State → State := x; clear hs; unfold x)
        | clear_value x)
    | (with_reducible refine Kept.upd ?_ ?_; rotate_left; exact rfl)

theorem accessBp_kept {s0 s : State} {a0 a1 a2 a3} (h : Kept s0 s) : Kept s0 (accessBp a0 a1 a2 a3 s).2 := by
  unfold accessBp
  repeat' first
    | with_reducible assumption
    | (intro hx; clear_value x)
    | intro _
    | with_reducible apply foldlPair_kept
    | with_reducible apply breakpoint_kept
    | split
    | ((fail_if_no_progress extract_lets +onlyGivenNames x); first
        | refine Kept.cut (t := x) ?_ ?_
        | refine Kept.cut (t := x.2) ?_ ?_
        | refine Kept.cut (t := x.2.2) ?_ ?_
        | (have hs : Sil := x; clear hs; unfold x)
        | (have hs : State → State := x; clear hs; unfold x)
        | (have hs : Nat → State → State := x; clear hs; unfold x)
        | clear_value x)

theorem accessesBp_kept {s0 s : State} {a0 a1 a2} (h : Kept s0 s) : Kept s0 (accessesBp a0 a1 a2 s).2 := by
  unfold accessesBp
  repeat' first
    | with_reducible assumption
    | intro _
    | with_reducible apply foldlPair_kept
    | with_reducible apply accessBp_kept
    | split

theorem errSteps_kept {s0 s : State} {a0 a1} (h : Kept s0 s) : Kept s0 (errSteps a0 a1 s) := by
  unfold errSteps
  repeat' first
    | with_reducible assumption
    | intro _
    | split
    | (with_reducible refine Kept.upd ?_ ?_; rotate_left; exact rfl)

theorem emitWay_kept {s0 s : State} {a0 a1 a2 a3} (h : Kept s0 s) : Kept s0 (emitWay a0 a1 a2 a3 s) := by
  unfold emitWay
  repeat' first
    | with_reducible assumption
    | with_reducible apply errSteps_kept
    | with_reducible apply xreset_kept
    | with_reducible apply emit_kept
    | split

theorem accErr_kept {s0 s : State} {a0 a1 a2 a3 a4} (h : Kept s0 s) : Kept s0 (accErr a0 a1 a2 a3 a4 s) := by
  unfold accErr
  repeat' first
    | with_reducible assumption
    | with_reducible apply setEv_kept
    | with_reducible apply wr_kept
    | with_reducible apply logE_kept

theorem glzConv_kept {s0 s : State} {a0 a1 a2} (h : Kept s0 s) : Kept s0 (glzConv a0 a1 a2 s) := by
  unfold glzConv
  repeat' first
    | with_reducible assumption
    | intro _
    | with_reducible apply whenS_kept
    | with_reducible apply bumpSat_kept
    | with_reducible apply setEv_kept
    | with_reducible apply logE_kept
    | split

theorem setAcc_kept {s0 s : State} {a0 a1} (h : Kept s0 s) : Kept s0 (setAcc a0 a1 s) := by
  unfold setAcc
  repeat' first
    | with_reducible assumption
    | split
    | (with_reducible refine Kept.upd ?_ ?_; rotate_left; exact rfl)

theorem accFault_kept {s0 s : State} {a0 a1 a2 a3 a4 a5 a6 a7 a8} (h : Kept s0 s) :
    Kept s0 (accFault a0 a1 a2 a3 a4 a5 a6 a7 a8 s) := by
  unfold accFault
  repeat' first
    | with_reducible assumption
    | (intro hx; clear_value x)
    | intro _
    | with_reducible apply errSteps_kept
    | with_reducible apply accErr_kept
    | with_reducible apply setAcc_kept
    | split
    | (with_reducible refine Kept.upd ?_ ?_; rotate_left; exact rfl)
    | ((fail_if_no_progress extract_lets +onlyGivenNames x); first
        | refine Kept.cut (t := x) ?_ ?_
        | refine Kept.cut (t := x.2) ?_ ?_
        | refine Kept.cut (t := x.2.2) ?_ ?_
        | (have hs : Sil := x; clear hs; unfold x)
        | (have hs : State → State := x; clear hs; unfold x)
        | (have hs : Nat → State → State := x; clear hs; unfold x)
        | clear_value x)

end Sys2Proof.Machine
end

