-- ==== Sys2Proof/Laws/KeptSeqs.lean ====
section
/-! SUPPORT. What `Kept` says is kept by the operations of Machine/Seqs.lean. -/

-- One proof at a time: proofs elaborated side by side wait on each other, and each that waits holds a thread's stack.
set_option Elab.async false

namespace Sys2Proof.Machine

open Sys2Proof

theorem modSeq_kept {s0 s : State} {a0 a1} (h : Kept s0 s) : Kept s0 (modSeq a0 a1 s) := by
  unfold modSeq
  repeat' first
    | with_reducible assumption
    | (with_reducible refine Kept.upd ?_ ?_; rotate_left; exact rfl)

theorem modBind_kept {s0 s : State} {a0 a1} (h : Kept s0 s) : Kept s0 (modBind a0 a1 s) := by
  unfold modBind
  repeat' first
    | with_reducible assumption
    | split
    | (with_reducible refine Kept.upd ?_ ?_; rotate_left; exact rfl)

theorem pin_kept {s0 s : State} {a0 a1} (h : Kept s0 s) : Kept s0 (pin a0 a1 s) := by
  unfold pin
  repeat' first
    | with_reducible assumption
    | (with_reducible refine Kept.upd ?_ ?_; rotate_left; exact rfl)

theorem unpin_kept {s0 s : State} {a0 a1} (h : Kept s0 s) : Kept s0 (unpin a0 a1 s) := by
  unfold unpin
  repeat' first
    | with_reducible assumption
    | split
    | (with_reducible refine Kept.upd ?_ ?_; rotate_left; exact rfl)

theorem releaseUnit_kept {s0 s : State} {a0} (h : Kept s0 s) : Kept s0 (releaseUnit a0 s) := by
  unfold releaseUnit
  repeat' first
    | with_reducible assumption
    | split
    | (with_reducible refine Kept.upd ?_ ?_; rotate_left; exact rfl)

theorem modDesc_kept {s0 s : State} {a0 a1} (h : Kept s0 s) : Kept s0 (modDesc a0 a1 s) := by
  unfold modDesc
  repeat' first
    | with_reducible assumption
    | (with_reducible refine Kept.upd ?_ ?_; rotate_left; exact rfl)

theorem refDesc_kept {s0 s : State} {a0} (h : Kept s0 s) : Kept s0 (refDesc a0 s) := by
  unfold refDesc
  repeat' first
    | with_reducible assumption
    | with_reducible apply modDesc_kept

theorem derefDesc_kept {s0 s : State} {a0} (h : Kept s0 s) : Kept s0 (derefDesc a0 s) := by
  unfold derefDesc
  repeat' first
    | with_reducible assumption
    | intro _
    | with_reducible apply releaseUnit_kept
    | with_reducible apply modDesc_kept
    | split
    | (with_reducible refine Kept.upd ?_ ?_; rotate_left; exact rfl)

theorem dropPages_kept {s0 s : State} {a0} (h : Kept s0 s) : Kept s0 (dropPages a0 s) := by
  unfold dropPages
  repeat' first
    | with_reducible assumption
    | (intro hx; clear_value x)
    | intro _
    | with_reducible apply foldS_kept
    | with_reducible apply foldSPair_kept
    | with_reducible apply derefDesc_kept

theorem dropSlips_kept {s0 s : State} {a0 a1} (h : Kept s0 s) : Kept s0 (dropSlips a0 a1 s) := by
  unfold dropSlips
  repeat' first
    | with_reducible assumption
    | intro _
    | with_reducible apply foldS_kept
    | with_reducible apply foldl_kept
    | with_reducible apply modSeq_kept
    | with_reducible apply releaseUnit_kept

theorem dropSeqData_kept {s0 s : State} {a0} (h : Kept s0 s) : Kept s0 (dropSeqData a0 s) := by
  unfold dropSeqData
  repeat' first
    | with_reducible assumption
    | with_reducible apply dropPages_kept
    | with_reducible apply modSeq_kept
    | with_reducible apply dropSlips_kept

theorem freeSeqIdx_kept {s0 s : State} {a0} (h : Kept s0 s) : Kept s0 (freeSeqIdx a0 s) := by
  unfold freeSeqIdx
  repeat' first
    | with_reducible assumption
    | with_reducible apply modSeq_kept
    | with_reducible apply dropSeqData_kept

theorem freeSeqAll_kept {s0 s : State} {a0} (h : Kept s0 s) : Kept s0 (freeSeqAll a0 s) := by
  unfold freeSeqAll
  repeat' first
    | with_reducible assumption
    | intro _
    | with_reducible apply foldS_kept
    | with_reducible apply freeSeqIdx_kept

end Sys2Proof.Machine
end

