-- ==== Sys2Proof/Laws/KeptQOps.lean ====
section
/-! SUPPORT. What `Kept` says is kept by the operations of Machine/QOps.lean. -/

-- One proof at a time: proofs elaborated side by side wait on each other, and each that waits holds a thread's stack.
set_option Elab.async false

namespace Sys2Proof.Machine

open Sys2Proof

theorem modCx_kept {s0 s : State} {a0 a1} (h : Kept s0 s) : Kept s0 (modCx a0 a1 s) := by
  unfold modCx
  repeat' first
    | with_reducible assumption
    | (with_reducible refine Kept.upd ?_ ?_; rotate_left; exact rfl)

theorem setCmd_kept {s0 s : State} {a0 a1} (h : Kept s0 s) : Kept s0 (setCmd a0 a1 s) := by
  unfold setCmd
  repeat' first
    | with_reducible assumption
    | (with_reducible refine Kept.upd ?_ ?_; rotate_left; exact rfl)

theorem modCmd_kept {s0 s : State} {a0 a1} (h : Kept s0 s) : Kept s0 (modCmd a0 a1 s) := by
  unfold modCmd
  repeat' first
    | with_reducible assumption
    | with_reducible apply setCmd_kept
    | split

theorem progress_kept {s0 s : State} {a0} (h : Kept s0 s) : Kept s0 (progress a0 s) := by
  unfold progress
  repeat' first
    | with_reducible assumption
    | with_reducible apply modCmd_kept

theorem modQueue_kept {s0 s : State} {a0 a1} (h : Kept s0 s) : Kept s0 (modQueue a0 a1 s) := by
  unfold modQueue
  repeat' first
    | with_reducible assumption
    | (with_reducible refine Kept.upd ?_ ?_; rotate_left; exact rfl)

theorem srvLog_kept {s0 s : State} {a0 a1 a2 a3 a4 a5} (h : Kept s0 s) : Kept s0 (srvLog a0 a1 a2 a3 a4 a5 s) := by
  unfold srvLog
  repeat' first
    | with_reducible assumption
    | with_reducible apply logE_kept

theorem queueError_kept {s0 s : State} {a0 a1 a2} (h : Kept s0 s) : Kept s0 (queueError a0 a1 a2 s) := by
  unfold queueError
  repeat' first
    | with_reducible assumption
    | (intro hx; clear_value x)
    | intro _
    | with_reducible apply wrf_kept
    | with_reducible apply setEv_kept
    | with_reducible apply srvLog_kept
    | with_reducible apply modQueue_kept
    | ((fail_if_no_progress extract_lets +onlyGivenNames x); first
        | refine Kept.cut (t := x) ?_ ?_
        | refine Kept.cut (t := x.2) ?_ ?_
        | refine Kept.cut (t := x.2.2) ?_ ?_
        | (have hs : Sil := x; clear hs; unfold x)
        | (have hs : State → State := x; clear hs; unfold x)
        | (have hs : Nat → State → State := x; clear hs; unfold x)
        | clear_value x)

theorem putRecord_kept {s0 s : State} {a0 a1 a2 a3 a4 a5 a6 a7} (h : Kept s0 s) : Kept s0 (putRecord a0 a1 a2 a3 a4 a5 a6 a7 s) := by
  unfold putRecord
  repeat' first
    | with_reducible assumption
    | (intro hx; clear_value x)
    | with_reducible apply modQueue_kept
    | with_reducible apply queueError_kept
    | with_reducible apply emit_kept
    | split
    | ((fail_if_no_progress extract_lets +onlyGivenNames x); first
        | refine Kept.cut (t := x) ?_ ?_
        | refine Kept.cut (t := x.2) ?_ ?_
        | refine Kept.cut (t := x.2.2) ?_ ?_
        | (have hs : Sil := x; clear hs; unfold x)
        | (have hs : State → State := x; clear hs; unfold x)
        | (have hs : Nat → State → State := x; clear hs; unfold x)
        | clear_value x)

theorem freeSlot_kept {s0 s : State} {a0} (h : Kept s0 s) : Kept s0 (freeSlot a0 s) := by
  unfold freeSlot
  repeat' first
    | with_reducible assumption
    | (with_reducible refine Kept.upd ?_ ?_; rotate_left; exact rfl)

theorem drained_kept {s0 s : State} {a0} (h : Kept s0 s) : Kept s0 (drained a0 s) := by
  unfold drained
  repeat' first
    | with_reducible assumption
    | with_reducible apply modQueue_kept
    | split

theorem freeRetired_kept {s0 s : State} (h : Kept s0 s) : Kept s0 (freeRetired s) := by
  unfold freeRetired
  repeat' first
    | with_reducible assumption
    | (intro hx; clear_value x)
    | intro _
    | with_reducible apply foldS_kept
    | with_reducible apply foldSPair_kept
    | with_reducible apply freeSeqAll_kept
    | with_reducible apply modCx_kept
    | ((fail_if_no_progress extract_lets +onlyGivenNames x); first
        | refine Kept.cut (t := x) ?_ ?_
        | refine Kept.cut (t := x.2) ?_ ?_
        | refine Kept.cut (t := x.2.2) ?_ ?_
        | (have hs : Sil := x; clear hs; unfold x)
        | (have hs : State → State := x; clear hs; unfold x)
        | (have hs : Nat → State → State := x; clear hs; unfold x)
        | clear_value x)

theorem completeOne_kept {s0 s : State} {a0 a1 a2 a3} (h : Kept s0 s) : Kept s0 (completeOne a0 a1 a2 a3 s) := by
  unfold completeOne
  repeat' first
    | with_reducible assumption
    | (intro hx; clear_value x)
    | intro _
    | with_reducible apply whenS_kept
    | with_reducible apply issued_kept
    | with_reducible apply putRecord_kept
    | with_reducible apply signal_kept
    | with_reducible apply drained_kept
    | with_reducible apply freeRetired_kept
    | with_reducible apply freeRoom_kept
    | with_reducible apply freeSlot_kept
    | split
    | ((fail_if_no_progress extract_lets +onlyGivenNames x); first
        | refine Kept.cut (t := x) ?_ ?_
        | refine Kept.cut (t := x.2) ?_ ?_
        | refine Kept.cut (t := x.2.2) ?_ ?_
        | (have hs : Sil := x; clear hs; unfold x)
        | (have hs : State → State := x; clear hs; unfold x)
        | (have hs : Nat → State → State := x; clear hs; unfold x)
        | clear_value x)

theorem settleCancels_kept {s0 s : State} {n} (h : Kept s0 s) : Kept s0 (settleCancels n s) := by
  induction n generalizing s with
  | zero => exact h
  | succ n ih =>
    unfold settleCancels
    split
    · exact ih (completeOne_kept h)
    · exact h

theorem complete_kept {s0 s : State} {a0 a1 a2 a3} (h : Kept s0 s) : Kept s0 (complete a0 a1 a2 a3 s) := by
  unfold complete
  repeat' first
    | with_reducible assumption
    | with_reducible apply settleCancels_kept
    | with_reducible apply completeOne_kept

theorem srvCount_kept {s0 s : State} {a0 a1 a2} (h : Kept s0 s) : Kept s0 (srvCount a0 a1 a2 s) := by
  unfold srvCount
  repeat' first
    | with_reducible assumption
    | intro _
    | with_reducible apply whenS_kept
    | with_reducible apply bump_kept

theorem srvFlag_kept {s0 s : State} {a0 a1} (h : Kept s0 s) : Kept s0 (srvFlag a0 a1 s) := by
  unfold srvFlag
  repeat' first
    | with_reducible assumption
    | intro _
    | with_reducible apply whenS_kept
    | with_reducible apply setEv_kept

end Sys2Proof.Machine
end

