-- ==== Sys2Proof/Laws/KeptChkOps.lean ====
section
/-! SUPPORT. What `Kept` says is kept by the operations of Machine/ChkOps.lean. -/

-- One proof at a time: proofs elaborated side by side wait on each other, and each that waits holds a thread's stack.
set_option Elab.async false

namespace Sys2Proof.Machine

open Sys2Proof

theorem accrueAll_kept {s0 s : State} (h : Kept s0 s) : Kept s0 (accrueAll s) := by
  unfold accrueAll
  repeat' first
    | with_reducible assumption
    | (with_reducible refine Kept.upd ?_ ?_; rotate_left; exact rfl)

theorem startPlans_kept {s0 s : State} {a0 a1} (h : Kept s0 s) : Kept s0 (startPlans a0 a1 s) := by
  unfold startPlans
  repeat' first
    | with_reducible assumption
    | (intro hx; clear_value x)
    | intro _
    | with_reducible apply foldS_kept
    | with_reducible apply foldSPair_kept
    | (with_reducible refine Kept.upd ?_ ?_; rotate_left; exact rfl)
    | ((fail_if_no_progress extract_lets +onlyGivenNames x); first
        | refine Kept.cut (t := x) ?_ ?_
        | refine Kept.cut (t := x.2) ?_ ?_
        | refine Kept.cut (t := x.2.2) ?_ ?_
        | (have hs : Sil := x; clear hs; unfold x)
        | (have hs : State → State := x; clear hs; unfold x)
        | (have hs : Nat → State → State := x; clear hs; unfold x)
        | clear_value x)

theorem startBoost_kept {s0 s : State} {a0} (h : Kept s0 s) : Kept s0 (startBoost a0 s) := by
  unfold startBoost
  repeat' first
    | with_reducible assumption
    | with_reducible apply accrueAll_kept
    | with_reducible apply wrf_kept
    | (with_reducible refine Kept.upd ?_ ?_; rotate_left; exact rfl)

theorem spoilTl_kept {s0 s : State} {a0} (h : Kept s0 s) : Kept s0 (spoilTl a0 s) := by
  unfold spoilTl
  repeat' first
    | with_reducible assumption
    | (with_reducible refine Kept.upd ?_ ?_; rotate_left; exact rfl)

theorem spoilBay_kept {s0 s : State} {a0} (h : Kept s0 s) : Kept s0 (spoilBay a0 s) := by
  unfold spoilBay
  repeat' first
    | with_reducible assumption
    | (with_reducible refine Kept.upd ?_ ?_; rotate_left; exact rfl)

theorem spoilLost_kept {s0 s : State} {a0} (h : Kept s0 s) : Kept s0 (spoilLost a0 s) := by
  unfold spoilLost
  repeat' first
    | with_reducible assumption
    | intro _
    | split
    | (with_reducible refine Kept.upd ?_ ?_; rotate_left; exact rfl)

theorem setRound_kept {s0 s : State} {a0 a1} (h : Kept s0 s) : Kept s0 (setRound a0 a1 s) := by
  unfold setRound
  repeat' first
    | with_reducible assumption
    | (intro hx; clear_value x)
    | intro _
    | with_reducible apply foldl_kept
    | with_reducible apply foldlPair_kept
    | split
    | dsimp -zeta only
    | ((fail_if_no_progress extract_lets +onlyGivenNames x); first
        | refine Kept.cut (t := x) ?_ ?_
        | refine Kept.cut (t := x.2) ?_ ?_
        | refine Kept.cut (t := x.2.2) ?_ ?_
        | (have hs : Sil := x; clear hs; unfold x)
        | (have hs : State → State := x; clear hs; unfold x)
        | (have hs : Nat → State → State := x; clear hs; unfold x)
        | clear_value x)
    | unfold x
    | (with_reducible refine Kept.upd ?_ ?_; rotate_left; exact rfl)

theorem abandonRound_kept {s0 s : State} {a0} (h : Kept s0 s) : Kept s0 (abandonRound a0 s) := by
  unfold abandonRound
  repeat' first
    | with_reducible assumption
    | with_reducible apply bump_kept
    | with_reducible apply setRound_kept
    | split
    | (with_reducible refine Kept.upd ?_ ?_; rotate_left; exact rfl)

theorem abandonOn_kept {s0 s : State} {a0 a1} (h : Kept s0 s) : Kept s0 (abandonOn a0 a1 s) := by
  unfold abandonOn
  repeat' first
    | with_reducible assumption
    | intro _
    | with_reducible apply foldS_kept
    | with_reducible apply foldSPair_kept
    | with_reducible apply abandonRound_kept

theorem capturePass_kept {s0 s : State} {a0 a1 a2} (h : Kept s0 s) : Kept s0 (capturePass a0 a1 a2 s) := by
  unfold capturePass
  repeat' first
    | with_reducible assumption
    | (with_reducible refine Kept.upd ?_ ?_; rotate_left; exact rfl)

end Sys2Proof.Machine
end

