-- ==== Sys2Proof/Laws/KeptTile.lean ====
section
/-! SUPPORT. What `Kept` says is kept by the operations of Machine/Tile.lean. -/

-- One proof at a time: proofs elaborated side by side wait on each other, and each that waits holds a thread's stack.
set_option Elab.async false

namespace Sys2Proof.Machine

open Sys2Proof

theorem modPool_kept {s0 s : State} {a0 a1} (h : Kept s0 s) : Kept s0 (modPool a0 a1 s) := by
  unfold modPool
  repeat' first
    | with_reducible assumption
    | (with_reducible refine Kept.upd ?_ ?_; rotate_left; exact rfl)

theorem takeToken_kept {s0 s : State} {a0} (h : Kept s0 s) : Kept s0 (takeToken a0 s) := by
  unfold takeToken
  repeat' first
    | with_reducible assumption
    | intro _
    | with_reducible apply modTile_kept
    | with_reducible apply modPool_kept
    | split

theorem returnToken_kept {s0 s : State} {a0} (h : Kept s0 s) : Kept s0 (returnToken a0 s) := by
  unfold returnToken
  repeat' first
    | with_reducible assumption
    | (intro hx; clear_value x)
    | intro _
    | with_reducible apply whenS_kept
    | with_reducible apply modTile_kept
    | with_reducible apply modPool_kept
    | ((fail_if_no_progress extract_lets +onlyGivenNames x); first
        | refine Kept.cut (t := x) ?_ ?_
        | refine Kept.cut (t := x.2) ?_ ?_
        | refine Kept.cut (t := x.2.2) ?_ ?_
        | (have hs : Sil := x; clear hs; unfold x)
        | (have hs : State → State := x; clear hs; unfold x)
        | (have hs : Nat → State → State := x; clear hs; unfold x)
        | clear_value x)

theorem setPending_kept {s0 s : State} {a0 a1} (h : Kept s0 s) : Kept s0 (setPending a0 a1 s) := by
  unfold setPending
  repeat' first
    | with_reducible assumption
    | intro _
    | with_reducible apply modPool_kept
    | with_reducible apply modTile_kept

theorem dropPending_kept {s0 s : State} {a0} (h : Kept s0 s) : Kept s0 (dropPending a0 s) := by
  unfold dropPending
  repeat' first
    | with_reducible assumption
    | intro _
    | with_reducible apply modPool_kept
    | with_reducible apply modTile_kept

theorem refuseReq_kept {s0 s : State} {a0 a1 a2 a3 a4 a5} (h : Kept s0 s) : Kept s0 (refuseReq a0 a1 a2 a3 a4 a5 s) := by
  unfold refuseReq
  repeat' first
    | with_reducible assumption
    | (intro hx; clear_value x)
    | with_reducible apply setEv_kept
    | with_reducible apply logE_kept
    | with_reducible apply emit_kept
    | with_reducible apply accFault_kept
    | split
    | ((fail_if_no_progress extract_lets +onlyGivenNames x); first
        | refine Kept.cut (t := x) ?_ ?_
        | refine Kept.cut (t := x.2) ?_ ?_
        | refine Kept.cut (t := x.2.2) ?_ ?_
        | (have hs : Sil := x; clear hs; unfold x)
        | (have hs : State → State := x; clear hs; unfold x)
        | (have hs : Nat → State → State := x; clear hs; unfold x)
        | clear_value x)

theorem admitReq_kept {s0 s : State} {a0 a1 a2} (h : Kept s0 s) : Kept s0 (admitReq a0 a1 a2 s) := by
  unfold admitReq
  repeat' first
    | with_reducible assumption
    | intro _
    | with_reducible apply refuseReq_kept
    | with_reducible apply modTile_kept
    | with_reducible apply setPending_kept
    | split

theorem admitHeld_kept {s0 s : State} {t rs} (h : Kept s0 s) : Kept s0 (admitHeld t rs s) := by
  induction rs generalizing s with
  | nil => exact modTile_kept h
  | cons r rs ih =>
    unfold admitHeld
    dsimp only
    split
    · exact modTile_kept (admitReq_kept h)
    · exact ih (admitReq_kept h)

theorem backFromAside_kept {s0 s : State} {a0} (h : Kept s0 s) : Kept s0 (backFromAside a0 s) := by
  unfold backFromAside
  repeat' first
    | with_reducible assumption
    | (intro hx; clear_value x)
    | intro _
    | with_reducible apply modTile_kept
    | with_reducible apply admitHeld_kept
    | split
    | ((fail_if_no_progress extract_lets +onlyGivenNames x); first
        | refine Kept.cut (t := x) ?_ ?_
        | refine Kept.cut (t := x.2) ?_ ?_
        | refine Kept.cut (t := x.2.2) ?_ ?_
        | (have hs : Sil := x; clear hs; unfold x)
        | (have hs : State → State := x; clear hs; unfold x)
        | (have hs : Nat → State → State := x; clear hs; unfold x)
        | clear_value x)

theorem execPassRequest_kept {s0 s : State} {a0 a1 a2} (h : Kept s0 s) :
    ∃ u, execPassRequest a0 a1 a2 s = .next u ∧ Kept s0 u := by
  unfold execPassRequest done
  refine ⟨_, rfl, ?_⟩
  repeat' first
    | with_reducible assumption
    | intro _
    | with_reducible apply withhold_kept
    | with_reducible apply breakpoint_kept
    | with_reducible apply admitReq_kept
    | with_reducible apply modTile_kept
    | split
    | (with_reducible refine Kept.upd ?_ ?_; rotate_left; exact rfl)

theorem execLayerSwitchStart_kept {s0 s : State} {a0} (h : Kept s0 s) :
    ∃ u, execLayerSwitchStart a0 s = .next u ∧ Kept s0 u := by
  unfold execLayerSwitchStart done
  refine ⟨_, rfl, ?_⟩
  repeat' first
    | with_reducible assumption
    | with_reducible apply modTile_kept
    | split

theorem execLayerSettled_kept {s0 s : State} {a0} (h : Kept s0 s) :
    ∃ u, execLayerSettled a0 s = .next u ∧ Kept s0 u := by
  unfold execLayerSettled done
  refine ⟨_, rfl, ?_⟩
  repeat' first
    | with_reducible assumption
    | with_reducible apply modTile_kept

theorem advanceRamp_kept {s0 s : State} {a0 a1 a2} (h : Kept s0 s) : Kept s0 (advanceRamp a0 a1 a2 s) := by
  unfold advanceRamp
  repeat' first
    | with_reducible assumption
    | with_reducible apply modTl_kept

theorem startPass_kept {s0 s : State} {a0 a1} (h : Kept s0 s) : Kept s0 (startPass a0 a1 s) := by
  unfold startPass
  repeat' first
    | with_reducible assumption
    | intro _
    | with_reducible apply whenS_kept
    | with_reducible apply advanceRamp_kept
    | with_reducible apply modTile_kept
    | with_reducible apply capturePass_kept
    | with_reducible apply admitHeld_kept

theorem execPassStart_kept {s0 s : State} {a0} (h : Kept s0 s) :
    ∃ u, execPassStart a0 s = .next u ∧ Kept s0 u := by
  unfold execPassStart done
  refine ⟨_, rfl, ?_⟩
  repeat' first
    | with_reducible assumption
    | (intro hx; clear_value x)
    | with_reducible apply dropPending_kept
    | with_reducible apply admitHeld_kept
    | with_reducible apply refuseReq_kept
    | with_reducible apply takeToken_kept
    | with_reducible apply startPass_kept
    | split
    | ((fail_if_no_progress extract_lets +onlyGivenNames x); first
        | refine Kept.cut (t := x) ?_ ?_
        | refine Kept.cut (t := x.2) ?_ ?_
        | refine Kept.cut (t := x.2.2) ?_ ?_
        | (have hs : Sil := x; clear hs; unfold x)
        | (have hs : State → State := x; clear hs; unfold x)
        | (have hs : Nat → State → State := x; clear hs; unfold x)
        | clear_value x)

theorem recordSat_kept {s0 s : State} {a0 a1 a2 a3 a4 a5} (h : Kept s0 s) : Kept s0 (recordSat a0 a1 a2 a3 a4 a5 s) := by
  unfold recordSat
  repeat' first
    | with_reducible assumption
    | intro _
    | with_reducible apply whenS_kept
    | with_reducible apply setEv_kept
    | with_reducible apply bumpSat_kept
    | with_reducible apply wr_kept
    | with_reducible apply logE_kept

theorem recordWave_kept {s0 s : State} {a0 a1 a2 a3 a4 n cs} (h : Kept s0 s) :
    Kept s0 (recordWave a0 a1 a2 a3 a4 n cs s) := by
  induction cs generalizing s n with
  | nil => exact h
  | cons c cs ih =>
    unfold recordWave
    apply ih
    split
    · exact recordSat_kept h
    · exact h

theorem execPassWaveConverted_kept {s0 s : State} {a0 a1} (h : Kept s0 s) :
    ∃ u, execPassWaveConverted a0 a1 s = .next u ∧ Kept s0 u := by
  unfold execPassWaveConverted done
  refine ⟨_, rfl, ?_⟩
  repeat' first
    | with_reducible assumption
    | (intro hx; clear_value x)
    | intro _
    | with_reducible apply modTile_kept
    | with_reducible apply recordWave_kept
    | with_reducible apply emit_kept
    | split
    | (with_reducible refine Kept.upd ?_ ?_; rotate_left; exact rfl)
    | ((fail_if_no_progress extract_lets +onlyGivenNames x); first
        | refine Kept.cut (t := x) ?_ ?_
        | refine Kept.cut (t := x.2) ?_ ?_
        | refine Kept.cut (t := x.2.2) ?_ ?_
        | (have hs : Sil := x; clear hs; unfold x)
        | (have hs : State → State := x; clear hs; unfold x)
        | (have hs : Nat → State → State := x; clear hs; unfold x)
        | clear_value x)

theorem endPass_kept {s0 s : State} {a0 a1} (h : Kept s0 s) : Kept s0 (endPass a0 a1 s) := by
  unfold endPass
  repeat' first
    | with_reducible assumption
    | with_reducible apply modTile_kept
    | with_reducible apply bump64_kept
    | with_reducible apply bump_kept
    | with_reducible apply returnToken_kept
    | split

theorem execPassEnd_kept {s0 s : State} {a0} (h : Kept s0 s) :
    ∃ u, execPassEnd a0 s = .next u ∧ Kept s0 u := by
  unfold execPassEnd done
  refine ⟨_, rfl, ?_⟩
  repeat' first
    | with_reducible assumption
    | with_reducible apply endPass_kept
    | split

end Sys2Proof.Machine
end

