-- ==== Sys2Proof/Laws/KeptAccum.lean ====
section
/-! SUPPORT. What `Kept` says is kept by the operations of Machine/Accum.lean. -/

-- One proof at a time: proofs elaborated side by side wait on each other, and each that waits holds a thread's stack.
set_option Elab.async false

namespace Sys2Proof.Machine

open Sys2Proof

theorem claimBank_kept {s0 s : State} {a0 a1 a2} (h : Kept s0 s) : Kept s0 (claimBank a0 a1 a2 s) := by
  unfold claimBank
  repeat' first
    | with_reducible assumption
    | intro _
    | split
    | (with_reducible refine Kept.upd ?_ ?_; rotate_left; exact rfl)

theorem openPart_kept {s0 s : State} {a0 a1 a2 a3 a4} (h : Kept s0 s) : Kept s0 (openPart a0 a1 a2 a3 a4 s) := by
  unfold openPart
  repeat' first
    | with_reducible assumption
    | (intro hx; clear_value x)
    | intro _
    | with_reducible apply foldS_kept
    | with_reducible apply whenS_kept
    | with_reducible apply foldSPair_kept
    | with_reducible apply errSteps_kept
    | with_reducible apply accErr_kept
    | with_reducible apply spmTouch_kept
    | with_reducible apply setAcc_kept
    | with_reducible apply abandonOn_kept
    | with_reducible apply freeRoom_kept
    | with_reducible apply claimBank_kept
    | split
    | (with_reducible refine Kept.upd ?_ ?_; rotate_left; exact rfl)
    | ((fail_if_no_progress extract_lets +onlyGivenNames x); first
        | refine Kept.cut (t := x) ?_ ?_
        | refine Kept.cut (t := x.2) ?_ ?_
        | refine Kept.cut (t := x.2.2) ?_ ?_
        | (have hs : Sil := x; clear hs; unfold x)
        | (have hs : State → State := x; clear hs; unfold x)
        | (have hs : Nat → State → State := x; clear hs; unfold x)
        | clear_value x)

theorem putScale_kept {s0 s : State} {a0 a1 a2 a3} (h : Kept s0 s) : Kept s0 (putScale a0 a1 a2 a3 s) := by
  unfold putScale
  repeat' first
    | with_reducible assumption
    | intro _
    | (with_reducible refine Kept.upd ?_ ?_; rotate_left; exact rfl)

theorem execBlockScaleArrival_kept {s0 s : State} {a0 a1 a2 a3 a4 a5 a6} (h : Kept s0 s) :
    ∃ u, execBlockScaleArrival a0 a1 a2 a3 a4 a5 a6 s = .next u ∧ Kept s0 u := by
  unfold execBlockScaleArrival done
  refine ⟨_, rfl, ?_⟩
  repeat' first
    | with_reducible assumption
    | (intro hx; clear_value x)
    | intro _
    | with_reducible apply withhold_kept
    | with_reducible apply emit_kept
    | with_reducible apply putScale_kept
    | with_reducible apply claimBank_kept
    | with_reducible apply park_kept
    | with_reducible apply openPart_kept
    | split
    | ((fail_if_no_progress extract_lets +onlyGivenNames x); first
        | refine Kept.cut (t := x) ?_ ?_
        | refine Kept.cut (t := x.2) ?_ ?_
        | refine Kept.cut (t := x.2.2) ?_ ?_
        | (have hs : Sil := x; clear hs; unfold x)
        | (have hs : State → State := x; clear hs; unfold x)
        | (have hs : Nat → State → State := x; clear hs; unfold x)
        | clear_value x)

theorem execAccCodeArrival_kept {s0 s : State} {a0 a1 a2 a3} (h : Kept s0 s) :
    ∃ u, execAccCodeArrival a0 a1 a2 a3 s = .next u ∧ Kept s0 u := by
  unfold execAccCodeArrival done
  refine ⟨_, rfl, ?_⟩
  repeat' first
    | with_reducible assumption
    | (intro hx; clear_value x)
    | intro _
    | with_reducible apply whenS_kept
    | with_reducible apply wrf_kept
    | with_reducible apply modTile_kept
    | with_reducible apply setAcc_kept
    | split
    | (with_reducible refine Kept.upd ?_ ?_; rotate_left; exact rfl)
    | ((fail_if_no_progress extract_lets +onlyGivenNames x); first
        | refine Kept.cut (t := x) ?_ ?_
        | refine Kept.cut (t := x.2) ?_ ?_
        | refine Kept.cut (t := x.2.2) ?_ ?_
        | (have hs : Sil := x; clear hs; unfold x)
        | (have hs : State → State := x; clear hs; unfold x)
        | (have hs : Nat → State → State := x; clear hs; unfold x)
        | clear_value x)

theorem refusePre_kept {s0 s : State} {a0 a1 a2 a3} (h : Kept s0 s) : Kept s0 (refusePre a0 a1 a2 a3 s) := by
  unfold refusePre
  repeat' first
    | with_reducible assumption
    | with_reducible apply emit_kept
    | with_reducible apply accErr_kept

theorem putRun_kept {s0 s : State} {a0 a1 a2 a3 a4 a5 a6} (h : Kept s0 s) : Kept s0 (putRun a0 a1 a2 a3 a4 a5 a6 s) := by
  unfold putRun
  repeat' first
    | with_reducible assumption
    | (intro hx; clear_value x)
    | intro _
    | with_reducible apply refusePre_kept
    | with_reducible apply setAcc_kept
    | split
    | (with_reducible refine Kept.upd ?_ ?_; rotate_left; exact rfl)
    | ((fail_if_no_progress extract_lets +onlyGivenNames x); first
        | refine Kept.cut (t := x) ?_ ?_
        | refine Kept.cut (t := x.2) ?_ ?_
        | refine Kept.cut (t := x.2.2) ?_ ?_
        | (have hs : Sil := x; clear hs; unfold x)
        | (have hs : State → State := x; clear hs; unfold x)
        | (have hs : Nat → State → State := x; clear hs; unfold x)
        | clear_value x)

theorem execPreloadRun_kept {s0 s : State} {a0 a1 a2 a3 a4} (h : Kept s0 s) :
    ∃ u, execPreloadRun a0 a1 a2 a3 a4 s = .next u ∧ Kept s0 u := by
  unfold execPreloadRun done
  refine ⟨_, rfl, ?_⟩
  repeat' first
    | with_reducible assumption
    | (intro hx; clear_value x)
    | intro _
    | with_reducible apply withhold_kept
    | with_reducible apply emit_kept
    | with_reducible apply refusePre_kept
    | with_reducible apply putRun_kept
    | with_reducible apply park_kept
    | with_reducible apply openPart_kept
    | split
    | ((fail_if_no_progress extract_lets +onlyGivenNames x); first
        | refine Kept.cut (t := x) ?_ ?_
        | refine Kept.cut (t := x.2) ?_ ?_
        | refine Kept.cut (t := x.2.2) ?_ ?_
        | (have hs : Sil := x; clear hs; unfold x)
        | (have hs : State → State := x; clear hs; unfold x)
        | (have hs : Nat → State → State := x; clear hs; unfold x)
        | clear_value x)

theorem execGlazeContributionArrival_kept {s0 s : State} {a0 a1 a2 a3 a4 a5} (h : Kept s0 s) :
    ∃ u, execGlazeContributionArrival a0 a1 a2 a3 a4 a5 s = .next u ∧ Kept s0 u := by
  unfold execGlazeContributionArrival done
  refine ⟨_, rfl, ?_⟩
  repeat' first
    | with_reducible assumption
    | (intro hx; clear_value x)
    | intro _
    | with_reducible apply withhold_kept
    | with_reducible apply emit_kept
    | with_reducible apply park_kept
    | with_reducible apply wrf_kept
    | with_reducible apply setAcc_kept
    | split
    | (with_reducible refine Kept.upd ?_ ?_; rotate_left; exact rfl)
    | ((fail_if_no_progress extract_lets +onlyGivenNames x); first
        | refine Kept.cut (t := x) ?_ ?_
        | refine Kept.cut (t := x.2) ?_ ?_
        | refine Kept.cut (t := x.2.2) ?_ ?_
        | (have hs : Sil := x; clear hs; unfold x)
        | (have hs : State → State := x; clear hs; unfold x)
        | (have hs : Nat → State → State := x; clear hs; unfold x)
        | clear_value x)

theorem homePart_kept {s0 s : State} {a0 a1 a2 a3 a4} (h : Kept s0 s) : Kept s0 (homePart a0 a1 a2 a3 a4 s) := by
  unfold homePart
  repeat' first
    | with_reducible assumption
    | (intro hx; clear_value x)
    | intro _
    | with_reducible apply emitWay_kept
    | split
    | (with_reducible refine Kept.upd ?_ ?_; rotate_left; exact rfl)
    | ((fail_if_no_progress extract_lets +onlyGivenNames x); first
        | refine Kept.cut (t := x) ?_ ?_
        | refine Kept.cut (t := x.2) ?_ ?_
        | refine Kept.cut (t := x.2.2) ?_ ?_
        | (have hs : Sil := x; clear hs; unfold x)
        | (have hs : State → State := x; clear hs; unfold x)
        | (have hs : Nat → State → State := x; clear hs; unfold x)
        | clear_value x)

theorem deliver_kept {s0 s : State} {a0 a1 a2 a3 a4 a5} (h : Kept s0 s) : Kept s0 (deliver a0 a1 a2 a3 a4 a5 s) := by
  unfold deliver
  repeat' first
    | with_reducible assumption
    | (intro hx; clear_value x)
    | intro _
    | with_reducible apply whenS_kept
    | with_reducible apply errSteps_kept
    | with_reducible apply xreset_kept
    | with_reducible apply spmWait_kept
    | with_reducible apply wrBytes_kept
    | with_reducible apply emit_kept
    | with_reducible apply homePart_kept
    | split
    | ((fail_if_no_progress extract_lets +onlyGivenNames x); first
        | refine Kept.cut (t := x) ?_ ?_
        | refine Kept.cut (t := x.2) ?_ ?_
        | refine Kept.cut (t := x.2.2) ?_ ?_
        | (have hs : Sil := x; clear hs; unfold x)
        | (have hs : State → State := x; clear hs; unfold x)
        | (have hs : Nat → State → State := x; clear hs; unfold x)
        | clear_value x)

theorem passPart_kept {s0 s : State} {a0 a1 a2} (h : Kept s0 s) : Kept s0 (passPart a0 a1 a2 s) := by
  unfold passPart
  repeat' first
    | with_reducible assumption
    | intro _
    | split
    | (with_reducible refine Kept.upd ?_ ?_; rotate_left; exact rfl)

theorem finishPart_kept {s0 s : State} {a0 a1 a2 a3} (h : Kept s0 s) : Kept s0 (finishPart a0 a1 a2 a3 s) := by
  unfold finishPart
  repeat' first
    | with_reducible assumption
    | (intro hx; clear_value x)
    | intro _
    | with_reducible apply foldS_kept
    | with_reducible apply whenS_kept
    | with_reducible apply foldSPair_kept
    | with_reducible apply errSteps_kept
    | with_reducible apply accErr_kept
    | with_reducible apply glzConv_kept
    | with_reducible apply setEv_kept
    | with_reducible apply passPart_kept
    | with_reducible apply deliver_kept
    | with_reducible apply setAcc_kept
    | split
    | (with_reducible refine Kept.upd ?_ ?_; rotate_left; exact rfl)
    | ((fail_if_no_progress extract_lets +onlyGivenNames x); first
        | refine Kept.cut (t := x) ?_ ?_
        | refine Kept.cut (t := x.2) ?_ ?_
        | refine Kept.cut (t := x.2.2) ?_ ?_
        | (have hs : Sil := x; clear hs; unfold x)
        | (have hs : State → State := x; clear hs; unfold x)
        | (have hs : Nat → State → State := x; clear hs; unfold x)
        | clear_value x)

theorem execAccPartComplete_kept {s0 s : State} {a0 a1} (h : Kept s0 s) :
    ∃ u, execAccPartComplete a0 a1 s = .next u ∧ Kept s0 u := by
  unfold execAccPartComplete done
  refine ⟨_, rfl, ?_⟩
  repeat' first
    | with_reducible assumption
    | intro _
    | with_reducible apply finishPart_kept
    | split

theorem ackPart_kept {s0 s : State} {a0 a1} (h : Kept s0 s) : Kept s0 (ackPart a0 a1 s) := by
  unfold ackPart
  repeat' first
    | with_reducible assumption
    | intro _
    | with_reducible apply freeRoom_kept
    | with_reducible apply setAcc_kept
    | split
    | (with_reducible refine Kept.upd ?_ ?_; rotate_left; exact rfl)

theorem execDestinationAck_kept {s0 s : State} {a0 a1} (h : Kept s0 s) :
    ∃ u, execDestinationAck a0 a1 s = .next u ∧ Kept s0 u := by
  unfold execDestinationAck done
  refine ⟨_, rfl, ?_⟩
  repeat' first
    | with_reducible assumption
    | with_reducible apply ackPart_kept

end Sys2Proof.Machine
end

