-- ==== Sys2Proof/Laws/KeptGlaze.lean ====
section
/-! SUPPORT. What `Kept` says is kept by the operations of Machine/Glaze.lean. -/

-- One proof at a time: proofs elaborated side by side wait on each other, and each that waits holds a thread's stack.
set_option Elab.async false

namespace Sys2Proof.Machine

open Sys2Proof

theorem execQuantiserRun_kept {s0 s : State} {a0 a1 a2 a3 a4 a5} (h : Kept s0 s) :
    ∃ u, execQuantiserRun a0 a1 a2 a3 a4 a5 s = .next u ∧ Kept s0 u := by
  unfold execQuantiserRun done
  refine ⟨_, rfl, ?_⟩
  repeat' first
    | with_reducible assumption
    | (intro hx; clear_value x)
    | intro _
    | with_reducible apply withhold_kept
    | with_reducible apply emit_kept
    | with_reducible apply park_kept
    | split
    | (with_reducible refine Kept.upd ?_ ?_; rotate_left; exact rfl)
    | ((fail_if_no_progress extract_lets +onlyGivenNames x); first
        | refine Kept.cut (t := x) ?_ ?_
        | refine Kept.cut (t := x.2) ?_ ?_
        | refine Kept.cut (t := x.2.2) ?_ ?_
        | (have hs : Sil := x; clear hs; unfold x)
        | (have hs : State → State := x; clear hs; unfold x)
        | (have hs : Nat → State → State := x; clear hs; unfold x)
        | clear_value x)

theorem addMem_kept {s0 s : State} {a0 a1} (h : Kept s0 s) : Kept s0 (addMem a0 a1 s) := by
  unfold addMem
  repeat' first
    | with_reducible assumption
    | with_reducible apply wrBytes_kept

theorem countMacs_kept {s0 s : State} {a0 a1} (h : Kept s0 s) : Kept s0 (countMacs a0 a1 s) := by
  unfold countMacs
  repeat' first
    | with_reducible assumption
    | with_reducible apply bump64_kept

theorem trainPut_kept {s0 s : State} {a0 a1 a2 a3 a4} (h : Kept s0 s) : Kept s0 (trainPut a0 a1 a2 a3 a4 s) := by
  unfold trainPut
  repeat' first
    | with_reducible assumption
    | with_reducible apply wrBytes_kept
    | split

theorem glzFault_kept {s0 s : State} {a0 a1 a2 a3 a4 a5} (h : Kept s0 s) : Kept s0 (glzFault a0 a1 a2 a3 a4 a5 s) := by
  unfold glzFault
  repeat' first
    | with_reducible assumption
    | (intro hx; clear_value x)
    | intro _
    | with_reducible apply foldS_kept
    | with_reducible apply foldSPair_kept
    | with_reducible apply setEv_kept
    | with_reducible apply accFault_kept
    | split
    | ((fail_if_no_progress extract_lets +onlyGivenNames x); first
        | refine Kept.cut (t := x) ?_ ?_
        | refine Kept.cut (t := x.2) ?_ ?_
        | refine Kept.cut (t := x.2.2) ?_ ?_
        | (have hs : Sil := x; clear hs; unfold x)
        | (have hs : State → State := x; clear hs; unfold x)
        | (have hs : Nat → State → State := x; clear hs; unfold x)
        | clear_value x)

theorem glzRefuse_kept {s0 s : State} {a0 a1 a2 a3 a4} (h : Kept s0 s) : Kept s0 (glzRefuse a0 a1 a2 a3 a4 s) := by
  unfold glzRefuse
  repeat' first
    | with_reducible assumption
    | with_reducible apply emit_kept
    | with_reducible apply glzFault_kept

theorem sendU_kept {s0 s : State} {a0 a1 a2 a3 a4 a5} (h : Kept s0 s) : Kept s0 (sendU a0 a1 a2 a3 a4 a5 s) := by
  unfold sendU
  repeat' first
    | with_reducible assumption
    | (intro hx; clear_value x)
    | intro _
    | with_reducible apply foldS_kept
    | with_reducible apply foldSPair_kept
    | with_reducible apply trainPut_kept
    | with_reducible apply glzRefuse_kept
    | with_reducible apply glzFault_kept
    | with_reducible apply emitWay_kept
    | with_reducible apply countMacs_kept
    | split
    | ((fail_if_no_progress extract_lets +onlyGivenNames x); first
        | refine Kept.cut (t := x) ?_ ?_
        | refine Kept.cut (t := x.2) ?_ ?_
        | refine Kept.cut (t := x.2.2) ?_ ?_
        | (have hs : Sil := x; clear hs; unfold x)
        | (have hs : State → State := x; clear hs; unfold x)
        | (have hs : Nat → State → State := x; clear hs; unfold x)
        | clear_value x)

theorem sendQ_kept {s0 s : State} {a0 a1 a2 a3 a4} (h : Kept s0 s) : Kept s0 (sendQ a0 a1 a2 a3 a4 s) := by
  unfold sendQ
  repeat' first
    | with_reducible assumption
    | (intro hx; clear_value x)
    | intro _
    | with_reducible apply foldS_kept
    | with_reducible apply foldSPair_kept
    | with_reducible apply glzRefuse_kept
    | with_reducible apply glzFault_kept
    | with_reducible apply countMacs_kept
    | with_reducible apply addMem_kept
    | with_reducible apply emitWay_kept
    | split
    | ((fail_if_no_progress extract_lets +onlyGivenNames x); first
        | refine Kept.cut (t := x) ?_ ?_
        | refine Kept.cut (t := x.2) ?_ ?_
        | refine Kept.cut (t := x.2.2) ?_ ?_
        | (have hs : Sil := x; clear hs; unfold x)
        | (have hs : State → State := x; clear hs; unfold x)
        | (have hs : Nat → State → State := x; clear hs; unfold x)
        | clear_value x)

theorem sendBlock_kept {s0 s : State} {a0 a1 a2 a3 a4 a5 a6} (h : Kept s0 s) :
    Kept s0 (sendBlock a0 a1 a2 a3 a4 a5 a6 s) := by
  unfold sendBlock
  repeat' first
    | with_reducible assumption
    | (intro hx; clear_value x)
    | intro _
    | with_reducible apply foldS_kept
    | with_reducible apply foldSPair_kept
    | with_reducible apply emitWay_kept
    | split
    | ((fail_if_no_progress extract_lets +onlyGivenNames x); first
        | refine Kept.cut (t := x) ?_ ?_
        | refine Kept.cut (t := x.2) ?_ ?_
        | refine Kept.cut (t := x.2.2) ?_ ?_
        | (have hs : Sil := x; clear hs; unfold x)
        | (have hs : State → State := x; clear hs; unfold x)
        | (have hs : Nat → State → State := x; clear hs; unfold x)
        | clear_value x)

theorem openCtl_kept {s0 s : State} {a0 a1 a2 a3} (h : Kept s0 s) : Kept s0 (openCtl a0 a1 a2 a3 s) := by
  unfold openCtl
  repeat' first
    | with_reducible assumption
    | (intro hx; clear_value x)
    | intro _
    | split
    | (with_reducible refine Kept.upd ?_ ?_; rotate_left; exact rfl)
    | ((fail_if_no_progress extract_lets +onlyGivenNames x); first
        | refine Kept.cut (t := x) ?_ ?_
        | refine Kept.cut (t := x.2) ?_ ?_
        | refine Kept.cut (t := x.2.2) ?_ ?_
        | (have hs : Sil := x; clear hs; unfold x)
        | (have hs : State → State := x; clear hs; unfold x)
        | (have hs : Nat → State → State := x; clear hs; unfold x)
        | clear_value x)

theorem noteBlock_kept {s0 s : State} {a0 a1 a2 a3} (h : Kept s0 s) : Kept s0 (noteBlock a0 a1 a2 a3 s) := by
  unfold noteBlock
  repeat' first
    | with_reducible assumption
    | intro _
    | with_reducible apply foldS_kept
    | with_reducible apply foldSPair_kept
    | (with_reducible refine Kept.upd ?_ ?_; rotate_left; exact rfl)

theorem quantiseBlock_kept {s0 s : State} {a0 a1 a2 a3 a4} (h : Kept s0 s) : Kept s0 (quantiseBlock a0 a1 a2 a3 a4 s) := by
  unfold quantiseBlock
  repeat' first
    | with_reducible assumption
    | (intro hx; clear_value x)
    | intro _
    | with_reducible apply foldS_kept
    | with_reducible apply foldSPair_kept
    | with_reducible apply bump_kept
    | with_reducible apply glzConv_kept
    | with_reducible apply noteBlock_kept
    | with_reducible apply sendBlock_kept
    | with_reducible apply sendQ_kept
    | with_reducible apply sendU_kept
    | split
    | ((fail_if_no_progress extract_lets +onlyGivenNames x); first
        | refine Kept.cut (t := x) ?_ ?_
        | refine Kept.cut (t := x.2) ?_ ?_
        | refine Kept.cut (t := x.2.2) ?_ ?_
        | (have hs : Sil := x; clear hs; unfold x)
        | (have hs : State → State := x; clear hs; unfold x)
        | (have hs : Nat → State → State := x; clear hs; unfold x)
        | clear_value x)

theorem execRowBlockQuantise_kept {s0 s : State} {a0 a1 a2 a3 a4} (h : Kept s0 s) :
    ∃ u, execRowBlockQuantise a0 a1 a2 a3 a4 s = .next u ∧ Kept s0 u := by
  unfold execRowBlockQuantise done
  refine ⟨_, rfl, ?_⟩
  repeat' first
    | with_reducible assumption
    | (intro hx; clear_value x)
    | intro _
    | with_reducible apply quantiseBlock_kept
    | with_reducible apply openCtl_kept
    | with_reducible apply freeRoom_kept
    | split
    | (with_reducible refine Kept.upd ?_ ?_; rotate_left; exact rfl)
    | ((fail_if_no_progress extract_lets +onlyGivenNames x); first
        | refine Kept.cut (t := x) ?_ ?_
        | refine Kept.cut (t := x.2) ?_ ?_
        | refine Kept.cut (t := x.2.2) ?_ ?_
        | (have hs : Sil := x; clear hs; unfold x)
        | (have hs : State → State := x; clear hs; unfold x)
        | (have hs : Nat → State → State := x; clear hs; unfold x)
        | clear_value x)

theorem sendPart_kept {s0 s : State} {a0 a1 a2} (h : Kept s0 s) : Kept s0 (sendPart a0 a1 a2 s) := by
  unfold sendPart
  repeat' first
    | with_reducible assumption
    | (intro hx; clear_value x)
    | intro _
    | with_reducible apply glzFault_kept
    | with_reducible apply emitWay_kept
    | with_reducible apply countMacs_kept
    | split
    | ((fail_if_no_progress extract_lets +onlyGivenNames x); first
        | refine Kept.cut (t := x) ?_ ?_
        | refine Kept.cut (t := x.2) ?_ ?_
        | refine Kept.cut (t := x.2.2) ?_ ?_
        | (have hs : Sil := x; clear hs; unfold x)
        | (have hs : State → State := x; clear hs; unfold x)
        | (have hs : Nat → State → State := x; clear hs; unfold x)
        | clear_value x)

theorem sendGlaze_kept {s0 s : State} {a0 a1} (h : Kept s0 s) : Kept s0 (sendGlaze a0 a1 s) := by
  unfold sendGlaze
  repeat' first
    | with_reducible assumption
    | (intro hx; clear_value x)
    | intro _
    | with_reducible apply foldS_kept
    | with_reducible apply foldSPair_kept
    | with_reducible apply sendPart_kept
    | split
    | ((fail_if_no_progress extract_lets +onlyGivenNames x); first
        | refine Kept.cut (t := x) ?_ ?_
        | refine Kept.cut (t := x.2) ?_ ?_
        | refine Kept.cut (t := x.2.2) ?_ ?_
        | (have hs : Sil := x; clear hs; unfold x)
        | (have hs : State → State := x; clear hs; unfold x)
        | (have hs : Nat → State → State := x; clear hs; unfold x)
        | clear_value x)

theorem finishJobs_kept {s0 s : State} {a0} (h : Kept s0 s) : Kept s0 (finishJobs a0 s) := by
  unfold finishJobs
  repeat' first
    | with_reducible assumption
    | (intro hx; clear_value x)
    | intro _
    | with_reducible apply foldS_kept
    | with_reducible apply foldSPair_kept
    | with_reducible apply sendGlaze_kept
    | (with_reducible refine Kept.upd ?_ ?_; rotate_left; exact rfl)
    | ((fail_if_no_progress extract_lets +onlyGivenNames x); first
        | refine Kept.cut (t := x) ?_ ?_
        | refine Kept.cut (t := x.2) ?_ ?_
        | refine Kept.cut (t := x.2.2) ?_ ?_
        | (have hs : Sil := x; clear hs; unfold x)
        | (have hs : State → State := x; clear hs; unfold x)
        | (have hs : Nat → State → State := x; clear hs; unfold x)
        | clear_value x)

theorem withJob_kept {s0 s : State} {a0 a1 a2 a3 a4} (h : Kept s0 s) : Kept s0 (withJob a0 a1 a2 a3 a4 s) := by
  unfold withJob
  repeat' first
    | with_reducible assumption
    | with_reducible apply finishJobs_kept
    | (with_reducible refine Kept.upd ?_ ?_; rotate_left; exact rfl)

theorem execGlazeSelectionArrival_kept {s0 s : State} {a0 a1 a2 a3 a4 a5} (h : Kept s0 s) :
    ∃ u, execGlazeSelectionArrival a0 a1 a2 a3 a4 a5 s = .next u ∧ Kept s0 u := by
  unfold execGlazeSelectionArrival done
  refine ⟨_, rfl, ?_⟩
  repeat' first
    | with_reducible assumption
    | (intro hx; clear_value x)
    | intro _
    | with_reducible apply withhold_kept
    | with_reducible apply glzRefuse_kept
    | with_reducible apply withJob_kept
    | split
    | (with_reducible refine Kept.upd ?_ ?_; rotate_left; exact rfl)
    | ((fail_if_no_progress extract_lets +onlyGivenNames x); first
        | refine Kept.cut (t := x) ?_ ?_
        | refine Kept.cut (t := x.2) ?_ ?_
        | refine Kept.cut (t := x.2.2) ?_ ?_
        | (have hs : Sil := x; clear hs; unfold x)
        | (have hs : State → State := x; clear hs; unfold x)
        | (have hs : Nat → State → State := x; clear hs; unfold x)
        | clear_value x)

theorem execGlazeWeightRowArrival_kept {s0 s : State} {a0 a1 a2 a3 a4 a5} (h : Kept s0 s) :
    ∃ u, execGlazeWeightRowArrival a0 a1 a2 a3 a4 a5 s = .next u ∧ Kept s0 u := by
  unfold execGlazeWeightRowArrival done
  refine ⟨_, rfl, ?_⟩
  repeat' first
    | with_reducible assumption
    | (intro hx; clear_value x)
    | intro _
    | with_reducible apply foldS_kept
    | with_reducible apply whenS_kept
    | with_reducible apply foldSPair_kept
    | with_reducible apply accessesBp_kept
    | with_reducible apply spmTouch_kept
    | with_reducible apply glzFault_kept
    | with_reducible apply withJob_kept
    | split
    | (with_reducible refine Kept.upd ?_ ?_; rotate_left; exact rfl)
    | ((fail_if_no_progress extract_lets +onlyGivenNames x); first
        | refine Kept.cut (t := x) ?_ ?_
        | refine Kept.cut (t := x.2) ?_ ?_
        | refine Kept.cut (t := x.2.2) ?_ ?_
        | (have hs : Sil := x; clear hs; unfold x)
        | (have hs : State → State := x; clear hs; unfold x)
        | (have hs : Nat → State → State := x; clear hs; unfold x)
        | clear_value x)

theorem execAdapterUArrival_kept {s0 s : State} {a0 a1 a2 a3 a4 a5} (h : Kept s0 s) :
    ∃ u, execAdapterUArrival a0 a1 a2 a3 a4 a5 s = .next u ∧ Kept s0 u := by
  unfold execAdapterUArrival done
  refine ⟨_, rfl, ?_⟩
  repeat' first
    | with_reducible assumption
    | (intro hx; clear_value x)
    | intro _
    | with_reducible apply foldS_kept
    | with_reducible apply foldSPair_kept
    | with_reducible apply withhold_kept
    | with_reducible apply emit_kept
    | with_reducible apply emitWay_kept
    | with_reducible apply trainPut_kept
    | split
    | (with_reducible refine Kept.upd ?_ ?_; rotate_left; exact rfl)
    | ((fail_if_no_progress extract_lets +onlyGivenNames x); first
        | refine Kept.cut (t := x) ?_ ?_
        | refine Kept.cut (t := x.2) ?_ ?_
        | refine Kept.cut (t := x.2.2) ?_ ?_
        | (have hs : Sil := x; clear hs; unfold x)
        | (have hs : State → State := x; clear hs; unfold x)
        | (have hs : Nat → State → State := x; clear hs; unfold x)
        | clear_value x)

theorem execAdapterHArrival_kept {s0 s : State} {a0 a1 a2 a3 a4} (h : Kept s0 s) :
    ∃ u, execAdapterHArrival a0 a1 a2 a3 a4 s = .next u ∧ Kept s0 u := by
  unfold execAdapterHArrival done
  refine ⟨_, rfl, ?_⟩
  repeat' first
    | with_reducible assumption
    | (intro hx; clear_value x)
    | intro _
    | with_reducible apply whenS_kept
    | with_reducible apply withhold_kept
    | with_reducible apply glzRefuse_kept
    | with_reducible apply withJob_kept
    | with_reducible apply glzFault_kept
    | split
    | ((fail_if_no_progress extract_lets +onlyGivenNames x); first
        | refine Kept.cut (t := x) ?_ ?_
        | refine Kept.cut (t := x.2) ?_ ?_
        | refine Kept.cut (t := x.2.2) ?_ ?_
        | (have hs : Sil := x; clear hs; unfold x)
        | (have hs : State → State := x; clear hs; unfold x)
        | (have hs : Nat → State → State := x; clear hs; unfold x)
        | clear_value x)

theorem execAdapterQArrival_kept {s0 s : State} {a0 a1 a2 a3 a4 a5} (h : Kept s0 s) :
    ∃ u, execAdapterQArrival a0 a1 a2 a3 a4 a5 s = .next u ∧ Kept s0 u := by
  unfold execAdapterQArrival done
  refine ⟨_, rfl, ?_⟩
  repeat' first
    | with_reducible assumption
    | (intro hx; clear_value x)
    | intro _
    | with_reducible apply foldS_kept
    | with_reducible apply foldSPair_kept
    | with_reducible apply withhold_kept
    | with_reducible apply emit_kept
    | with_reducible apply emitWay_kept
    | split
    | (with_reducible refine Kept.upd ?_ ?_; rotate_left; exact rfl)
    | ((fail_if_no_progress extract_lets +onlyGivenNames x); first
        | refine Kept.cut (t := x) ?_ ?_
        | refine Kept.cut (t := x.2) ?_ ?_
        | refine Kept.cut (t := x.2.2) ?_ ?_
        | (have hs : Sil := x; clear hs; unfold x)
        | (have hs : State → State := x; clear hs; unfold x)
        | (have hs : Nat → State → State := x; clear hs; unfold x)
        | clear_value x)

theorem growA_kept {s0 s : State} {a0 a1 a2 a3} (h : Kept s0 s) : Kept s0 (growA a0 a1 a2 a3 s) := by
  unfold growA
  repeat' first
    | with_reducible assumption
    | intro _
    | with_reducible apply foldS_kept
    | with_reducible apply foldSPair_kept
    | with_reducible apply addMem_kept

theorem execAdapterVArrival_kept {s0 s : State} {a0 a1 a2 a3 a4 a5} (h : Kept s0 s) :
    ∃ u, execAdapterVArrival a0 a1 a2 a3 a4 a5 s = .next u ∧ Kept s0 u := by
  unfold execAdapterVArrival done
  refine ⟨_, rfl, ?_⟩
  repeat' first
    | with_reducible assumption
    | (intro hx; clear_value x)
    | intro _
    | with_reducible apply foldS_kept
    | with_reducible apply whenS_kept
    | with_reducible apply foldSPair_kept
    | with_reducible apply withhold_kept
    | with_reducible apply glzRefuse_kept
    | with_reducible apply glzFault_kept
    | with_reducible apply countMacs_kept
    | with_reducible apply growA_kept
    | with_reducible apply withJob_kept
    | split
    | ((fail_if_no_progress extract_lets +onlyGivenNames x); first
        | refine Kept.cut (t := x) ?_ ?_
        | refine Kept.cut (t := x.2) ?_ ?_
        | refine Kept.cut (t := x.2.2) ?_ ?_
        | (have hs : Sil := x; clear hs; unfold x)
        | (have hs : State → State := x; clear hs; unfold x)
        | (have hs : Nat → State → State := x; clear hs; unfold x)
        | clear_value x)

end Sys2Proof.Machine
end

