-- ==== Sys2Proof/Laws/KeptNetOps.lean ====
section
/-! SUPPORT. What `Kept` says is kept by the operations of Machine/NetOps.lean. -/

-- One proof at a time: proofs elaborated side by side wait on each other, and each that waits holds a thread's stack.
set_option Elab.async false

namespace Sys2Proof.Machine

open Sys2Proof

theorem modMember_kept {s0 s : State} {a0 a1} (h : Kept s0 s) : Kept s0 (modMember a0 a1 s) := by
  unfold modMember
  repeat' first
    | with_reducible assumption
    | (with_reducible refine Kept.upd ?_ ?_; rotate_left; exact rfl)

theorem modQp_kept {s0 s : State} {a0 a1} (h : Kept s0 s) : Kept s0 (modQp a0 a1 s) := by
  unfold modQp
  repeat' first
    | with_reducible assumption
    | (with_reducible refine Kept.upd ?_ ?_; rotate_left; exact rfl)

theorem modLport_kept {s0 s : State} {a0 a1} (h : Kept s0 s) : Kept s0 (modLport a0 a1 s) := by
  unfold modLport
  repeat' first
    | with_reducible assumption
    | (with_reducible refine Kept.upd ?_ ?_; rotate_left; exact rfl)

theorem putFrames_kept {s0 s : State} {a0 a1 a2 a3 a4} (h : Kept s0 s) : Kept s0 (putFrames a0 a1 a2 a3 a4 s) := by
  unfold putFrames
  repeat' first
    | with_reducible assumption
    | (intro hx; clear_value x)
    | with_reducible apply emit_kept
    | with_reducible apply bump_kept
    | ((fail_if_no_progress extract_lets +onlyGivenNames x); first
        | refine Kept.cut (t := x) ?_ ?_
        | refine Kept.cut (t := x.2) ?_ ?_
        | refine Kept.cut (t := x.2.2) ?_ ?_
        | (have hs : Sil := x; clear hs; unfold x)
        | (have hs : State → State := x; clear hs; unfold x)
        | (have hs : Nat → State → State := x; clear hs; unfold x)
        | clear_value x)

theorem transmit_kept {s0 s : State} {a0 a1 a2 a3 a4} (h : Kept s0 s) : Kept s0 (transmit a0 a1 a2 a3 a4 s) := by
  unfold transmit
  repeat' first
    | with_reducible assumption
    | (intro hx; clear_value x)
    | intro _
    | with_reducible apply modLport_kept
    | with_reducible apply putFrames_kept
    | split
    | ((fail_if_no_progress extract_lets +onlyGivenNames x); first
        | refine Kept.cut (t := x) ?_ ?_
        | refine Kept.cut (t := x.2) ?_ ?_
        | refine Kept.cut (t := x.2.2) ?_ ?_
        | (have hs : Sil := x; clear hs; unfold x)
        | (have hs : State → State := x; clear hs; unfold x)
        | (have hs : Nat → State → State := x; clear hs; unfold x)
        | clear_value x)

theorem qpSend_kept {s0 s : State} {a0 a1 a2} (h : Kept s0 s) : Kept s0 (qpSend a0 a1 a2 s) := by
  unfold qpSend
  repeat' first
    | with_reducible assumption
    | (intro hx; clear_value x)
    | intro _
    | with_reducible apply transmit_kept
    | with_reducible apply modQp_kept
    | split
    | ((fail_if_no_progress extract_lets +onlyGivenNames x); first
        | refine Kept.cut (t := x) ?_ ?_
        | refine Kept.cut (t := x.2) ?_ ?_
        | refine Kept.cut (t := x.2.2) ?_ ?_
        | (have hs : Sil := x; clear hs; unfold x)
        | (have hs : State → State := x; clear hs; unfold x)
        | (have hs : Nat → State → State := x; clear hs; unfold x)
        | clear_value x)

theorem netSend_kept {s0 s : State} {a0 a1 a2 a3 a4} (h : Kept s0 s) : Kept s0 (netSend a0 a1 a2 a3 a4 s) := by
  unfold netSend
  repeat' first
    | with_reducible assumption
    | with_reducible apply qpSend_kept

theorem ctrlSend_kept {s0 s : State} {a0 a1 a2 a3 a4} (h : Kept s0 s) : Kept s0 (ctrlSend a0 a1 a2 a3 a4 s) := by
  unfold ctrlSend
  repeat' first
    | with_reducible assumption
    | with_reducible apply netSend_kept

theorem relaySend_kept {s0 s : State} {a0 a1 a2 a3} (h : Kept s0 s) : Kept s0 (relaySend a0 a1 a2 a3 s) := by
  unfold relaySend
  repeat' first
    | with_reducible assumption
    | with_reducible apply qpSend_kept

theorem sendAsk_kept {s0 s : State} {a0} (h : Kept s0 s) : Kept s0 (sendAsk a0 s) := by
  unfold sendAsk
  repeat' first
    | with_reducible assumption
    | with_reducible apply relaySend_kept

theorem kickAsks_kept {s0 s : State} {a0 a1} (h : Kept s0 s) : Kept s0 (kickAsks a0 a1 s) := by
  unfold kickAsks
  repeat' first
    | with_reducible assumption
    | (intro hx; clear_value x)
    | intro _
    | with_reducible apply foldS_kept
    | with_reducible apply foldSPair_kept
    | with_reducible apply sendAsk_kept
    | split
    | (with_reducible refine Kept.upd ?_ ?_; rotate_left; exact rfl)
    | ((fail_if_no_progress extract_lets +onlyGivenNames x); first
        | refine Kept.cut (t := x) ?_ ?_
        | refine Kept.cut (t := x.2) ?_ ?_
        | refine Kept.cut (t := x.2.2) ?_ ?_
        | (have hs : Sil := x; clear hs; unfold x)
        | (have hs : State → State := x; clear hs; unfold x)
        | (have hs : Nat → State → State := x; clear hs; unfold x)
        | clear_value x)

theorem putAsk_kept {s0 s : State} {a0 a1 a2 a3 a4 a5} (h : Kept s0 s) : Kept s0 (putAsk a0 a1 a2 a3 a4 a5 s) := by
  unfold putAsk
  repeat' first
    | with_reducible assumption
    | (intro hx; clear_value x)
    | intro _
    | with_reducible apply whenS_kept
    | with_reducible apply sendAsk_kept
    | (with_reducible refine Kept.upd ?_ ?_; rotate_left; exact rfl)
    | ((fail_if_no_progress extract_lets +onlyGivenNames x); first
        | refine Kept.cut (t := x) ?_ ?_
        | refine Kept.cut (t := x.2) ?_ ?_
        | refine Kept.cut (t := x.2.2) ?_ ?_
        | (have hs : Sil := x; clear hs; unfold x)
        | (have hs : State → State := x; clear hs; unfold x)
        | (have hs : Nat → State → State := x; clear hs; unfold x)
        | clear_value x)

theorem ctrlAll_kept {s0 s : State} {a0 a1 a2 a3} (h : Kept s0 s) : Kept s0 (ctrlAll a0 a1 a2 a3 s) := by
  unfold ctrlAll
  repeat' first
    | with_reducible assumption
    | intro _
    | with_reducible apply foldS_kept
    | with_reducible apply ctrlSend_kept

end Sys2Proof.Machine
end

