-- ==== Sys2Proof/Laws/KeptXchg.lean ====
section
/-! SUPPORT. What `Kept` says is kept by the operations of Machine/Xchg.lean. -/

-- One proof at a time: proofs elaborated side by side wait on each other, and each that waits holds a thread's stack.
set_option Elab.async false

namespace Sys2Proof.Machine

open Sys2Proof

theorem modXch_kept {s0 s : State} {a0 a1 a2} (h : Kept s0 s) : Kept s0 (modXch a0 a1 a2 s) := by
  unfold modXch
  repeat' first
    | with_reducible assumption
    | with_reducible apply modMember_kept

theorem netLogAt_kept {s0 s : State} {a0 a1 a2 a3 a4} (h : Kept s0 s) : Kept s0 (netLogAt a0 a1 a2 a3 a4 s) := by
  unfold netLogAt
  repeat' first
    | with_reducible assumption
    | with_reducible apply logE_kept

theorem netLog_kept {s0 s : State} {a0 a1 a2 a3} (h : Kept s0 s) : Kept s0 (netLog a0 a1 a2 a3 s) := by
  unfold netLog
  repeat' first
    | with_reducible assumption
    | with_reducible apply netLogAt_kept

theorem compareSketch_kept {s0 s : State} {a0 a1} (h : Kept s0 s) : Kept s0 (compareSketch a0 a1 s) := by
  unfold compareSketch
  repeat' first
    | with_reducible assumption
    | (intro hx; clear_value x)
    | intro _
    | with_reducible apply whenS_kept
    | with_reducible apply netLog_kept
    | with_reducible apply setEv_kept
    | with_reducible apply bump_kept
    | with_reducible apply modMember_kept
    | with_reducible apply modCx_kept
    | with_reducible apply startBoost_kept
    | with_reducible apply signalVec_kept
    | split
    | ((fail_if_no_progress extract_lets +onlyGivenNames x); first
        | refine Kept.cut (t := x) ?_ ?_
        | refine Kept.cut (t := x.2) ?_ ?_
        | refine Kept.cut (t := x.2.2) ?_ ?_
        | (have hs : Sil := x; clear hs; unfold x)
        | (have hs : State → State := x; clear hs; unfold x)
        | (have hs : Nat → State → State := x; clear hs; unfold x)
        | clear_value x)

theorem xchReady_kept {s0 s : State} {a0 a1} (h : Kept s0 s) : Kept s0 (xchReady a0 a1 s) := by
  unfold xchReady
  repeat' first
    | with_reducible assumption
    | (intro hx; clear_value x)
    | intro _
    | with_reducible apply foldS_kept
    | with_reducible apply foldSPair_kept
    | with_reducible apply compareSketch_kept
    | with_reducible apply errSteps_kept
    | with_reducible apply xreset_kept
    | with_reducible apply emit_kept
    | with_reducible apply modXch_kept
    | split
    | ((fail_if_no_progress extract_lets +onlyGivenNames x); first
        | refine Kept.cut (t := x) ?_ ?_
        | refine Kept.cut (t := x.2) ?_ ?_
        | refine Kept.cut (t := x.2.2) ?_ ?_
        | (have hs : Sil := x; clear hs; unfold x)
        | (have hs : State → State := x; clear hs; unfold x)
        | (have hs : Nat → State → State := x; clear hs; unfold x)
        | clear_value x)

theorem ownComplete_kept {s0 s : State} {a0 a1} (h : Kept s0 s) : Kept s0 (ownComplete a0 a1 s) := by
  unfold ownComplete
  repeat' first
    | with_reducible assumption
    | (intro hx; clear_value x)
    | intro _
    | with_reducible apply foldS_kept
    | with_reducible apply foldSPair_kept
    | with_reducible apply modXch_kept
    | with_reducible apply netSend_kept
    | with_reducible apply xchReady_kept
    | ((fail_if_no_progress extract_lets +onlyGivenNames x); first
        | refine Kept.cut (t := x) ?_ ?_
        | refine Kept.cut (t := x.2) ?_ ?_
        | refine Kept.cut (t := x.2.2) ?_ ?_
        | (have hs : Sil := x; clear hs; unfold x)
        | (have hs : State → State := x; clear hs; unfold x)
        | (have hs : Nat → State → State := x; clear hs; unfold x)
        | clear_value x)

theorem xchWritten_kept {s0 s : State} {a0 a1 a2} (h : Kept s0 s) : Kept s0 (xchWritten a0 a1 a2 s) := by
  unfold xchWritten
  repeat' first
    | with_reducible assumption
    | intro _
    | with_reducible apply foldS_kept
    | with_reducible apply modXch_kept
    | with_reducible apply ownComplete_kept
    | split
    | ((fail_if_no_progress extract_lets +onlyGivenNames x); first
        | refine Kept.cut (t := x) ?_ ?_
        | refine Kept.cut (t := x.2) ?_ ?_
        | refine Kept.cut (t := x.2.2) ?_ ?_
        | (have hs : Sil := x; clear hs; unfold x)
        | (have hs : State → State := x; clear hs; unfold x)
        | (have hs : Nat → State → State := x; clear hs; unfold x)
        | clear_value x)

end Sys2Proof.Machine
end

