-- ==== Sys2Proof/Laws/KeptVecUnit.lean ====
section
/-! SUPPORT. What `Kept` says is kept by the operations of Machine/VecUnit.lean. -/

-- One proof at a time: proofs elaborated side by side wait on each other, and each that waits holds a thread's stack.
set_option Elab.async false

namespace Sys2Proof.Machine

open Sys2Proof

theorem modCtx_kept {s0 s : State} {a0 a1 a2} (h : Kept s0 s) : Kept s0 (modCtx a0 a1 a2 s) := by
  unfold modCtx
  repeat' first
    | with_reducible assumption
    | (with_reducible refine Kept.upd ?_ ?_; rotate_left; exact rfl)

theorem modSlot_kept {s0 s : State} {a0 a1 a2} (h : Kept s0 s) : Kept s0 (modSlot a0 a1 a2 s) := by
  unfold modSlot
  repeat' first
    | with_reducible assumption
    | (with_reducible refine Kept.upd ?_ ?_; rotate_left; exact rfl)

theorem writeElem_kept {s0 s : State} {a0 a1 a2 a3} (h : Kept s0 s) : Kept s0 (writeElem a0 a1 a2 a3 s) := by
  unfold writeElem
  repeat' first
    | with_reducible assumption
    | with_reducible apply wrBytes_kept
    | split

theorem writeElems_kept {s0 s : State} {a0 a1 a2 a3} (h : Kept s0 s) : Kept s0 (writeElems a0 a1 a2 a3 s) := by
  unfold writeElems
  split
  · exact h
  · split
    · exact foldS_kept (whenS_kept (foldS_kept h fun _ _ h => writeElem_kept h) fun _ h => wrBytes_kept h)
        fun _ _ h => writeElem_kept h
    · exact wrBytes_kept h

theorem ctxFault_kept {s0 s : State} {a0 a1 a2 a3} (h : Kept s0 s) : Kept s0 (ctxFault a0 a1 a2 a3 s) := by
  unfold ctxFault
  repeat' first
    | with_reducible assumption
    | (intro hx; clear_value x)
    | intro _
    | with_reducible apply modCtx_kept
    | with_reducible apply setEv_kept
    | with_reducible apply wr_kept
    | with_reducible apply logE_kept
    | split
    | ((fail_if_no_progress extract_lets +onlyGivenNames x); first
        | refine Kept.cut (t := x) ?_ ?_
        | refine Kept.cut (t := x.2) ?_ ?_
        | refine Kept.cut (t := x.2.2) ?_ ?_
        | (have hs : Sil := x; clear hs; unfold x)
        | (have hs : State → State := x; clear hs; unfold x)
        | (have hs : Nat → State → State := x; clear hs; unfold x)
        | clear_value x)

theorem noteReady_kept {s0 s : State} {a0} (h : Kept s0 s) : Kept s0 (noteReady a0 s) := by
  unfold noteReady
  repeat' first
    | with_reducible assumption
    | (with_reducible refine Kept.upd ?_ ?_; rotate_left; exact rfl)

theorem answerRefused_kept {s0 s : State} {a0 a1 a2} (h : Kept s0 s) : Kept s0 (answerRefused a0 a1 a2 s) := by
  unfold answerRefused
  repeat' first
    | with_reducible assumption
    | (intro hx; clear_value x)
    | intro _
    | with_reducible apply emit_kept
    | with_reducible apply ackPart_kept
    | with_reducible apply errSteps_kept
    | with_reducible apply ctxFault_kept
    | split
    | ((fail_if_no_progress extract_lets +onlyGivenNames x); first
        | refine Kept.cut (t := x) ?_ ?_
        | refine Kept.cut (t := x.2) ?_ ?_
        | refine Kept.cut (t := x.2.2) ?_ ?_
        | (have hs : Sil := x; clear hs; unfold x)
        | (have hs : State → State := x; clear hs; unfold x)
        | (have hs : Nat → State → State := x; clear hs; unfold x)
        | clear_value x)

theorem refuseArrival_kept {s0 s : State} {a0 a1} (h : Kept s0 s) : Kept s0 (refuseArrival a0 a1 s) := by
  unfold refuseArrival
  repeat' first
    | with_reducible assumption
    | with_reducible apply logE_kept
    | with_reducible apply answerRefused_kept
    | with_reducible apply setEv_kept

theorem admitArrival_kept {s0 s : State} {a0 a1} (h : Kept s0 s) : Kept s0 (admitArrival a0 a1 s) := by
  unfold admitArrival
  repeat' first
    | with_reducible assumption
    | (intro hx; clear_value x)
    | intro _
    | with_reducible apply whenS_kept
    | with_reducible apply refuseArrival_kept
    | with_reducible apply spmWait_kept
    | with_reducible apply writeElems_kept
    | with_reducible apply answerRefused_kept
    | with_reducible apply modSlot_kept
    | split
    | (with_reducible refine Kept.upd ?_ ?_; rotate_left; exact rfl)
    | ((fail_if_no_progress extract_lets +onlyGivenNames x); first
        | refine Kept.cut (t := x) ?_ ?_
        | refine Kept.cut (t := x.2) ?_ ?_
        | refine Kept.cut (t := x.2.2) ?_ ?_
        | (have hs : Sil := x; clear hs; unfold x)
        | (have hs : State → State := x; clear hs; unfold x)
        | (have hs : Nat → State → State := x; clear hs; unfold x)
        | clear_value x)

theorem arrive_kept {s0 s : State} {a0 a1 a2} (h : Kept s0 s) : Kept s0 (arrive a0 a1 a2 s) := by
  unfold arrive
  repeat' first
    | with_reducible assumption
    | intro _
    | with_reducible apply answerRefused_kept
    | with_reducible apply refuseArrival_kept
    | with_reducible apply admitArrival_kept
    | split
    | (with_reducible refine Kept.upd ?_ ?_; rotate_left; exact rfl)

theorem releaseHeldAux_kept {s0 s : State} {cl rs} (h : Kept s0 s) : Kept s0 (releaseHeldAux cl rs s) := by
  induction rs generalizing s with
  | nil => exact h
  | cons r rs ih =>
    unfold releaseHeldAux
    split
    · exact ih (refuseArrival_kept h)
    · split
      · exact ih (h.same)
      · exact ih (admitArrival_kept h)

theorem releaseHeld_kept {s0 s : State} {a0} (h : Kept s0 s) : Kept s0 (releaseHeld a0 s) := by
  unfold releaseHeld
  repeat' first
    | with_reducible assumption
    | (intro hx; clear_value x)
    | intro _
    | with_reducible apply whenS_kept
    | with_reducible apply releaseHeldAux_kept
    | with_reducible apply noteReady_kept
    | with_reducible apply freeRoom_kept
    | (with_reducible refine Kept.upd ?_ ?_; rotate_left; exact rfl)
    | ((fail_if_no_progress extract_lets +onlyGivenNames x); first
        | refine Kept.cut (t := x) ?_ ?_
        | refine Kept.cut (t := x.2) ?_ ?_
        | refine Kept.cut (t := x.2.2) ?_ ?_
        | (have hs : Sil := x; clear hs; unfold x)
        | (have hs : State → State := x; clear hs; unfold x)
        | (have hs : Nat → State → State := x; clear hs; unfold x)
        | clear_value x)

theorem openFetch_kept {s0 s : State} {a0 a1 a2} (h : Kept s0 s) : Kept s0 (openFetch a0 a1 a2 s) := by
  unfold openFetch
  repeat' first
    | with_reducible assumption
    | intro _
    | with_reducible apply openReq_kept
    | with_reducible apply modCtx_kept

theorem openSend_kept {s0 s : State} {a0 a1 a2} (h : Kept s0 s) : Kept s0 (openSend a0 a1 a2 s) := by
  unfold openSend
  repeat' first
    | with_reducible assumption
    | (intro hx; clear_value x)
    | intro _
    | with_reducible apply openReq_kept
    | with_reducible apply modCtx_kept
    | ((fail_if_no_progress extract_lets +onlyGivenNames x); first
        | refine Kept.cut (t := x) ?_ ?_
        | refine Kept.cut (t := x.2) ?_ ?_
        | refine Kept.cut (t := x.2.2) ?_ ?_
        | (have hs : Sil := x; clear hs; unfold x)
        | (have hs : State → State := x; clear hs; unfold x)
        | (have hs : Nat → State → State := x; clear hs; unfold x)
        | clear_value x)

theorem endReq_kept {s0 s : State} {a0 a1 a2} (h : Kept s0 s) : Kept s0 (endReq a0 a1 a2 s) := by
  unfold endReq
  repeat' first
    | with_reducible assumption
    | intro _
    | with_reducible apply closeReq_kept
    | with_reducible apply modCtx_kept
    | (with_reducible refine Kept.upd ?_ ?_; rotate_left; exact rfl)

theorem failFetch_kept {s0 s : State} {a0 a1 a2} (h : Kept s0 s) : Kept s0 (failFetch a0 a1 a2 s) := by
  unfold failFetch
  repeat' first
    | with_reducible assumption
    | with_reducible apply noteReady_kept
    | with_reducible apply ctxFault_kept
    | with_reducible apply endReq_kept

theorem failSend_kept {s0 s : State} {a0 a1 a2} (h : Kept s0 s) : Kept s0 (failSend a0 a1 a2 s) := by
  unfold failSend
  repeat' first
    | with_reducible assumption
    | with_reducible apply noteReady_kept
    | with_reducible apply ctxFault_kept
    | with_reducible apply setEv_kept
    | with_reducible apply endReq_kept

theorem takeFetch_kept {s0 s : State} {a0 a1 a2 a3 a4 a5} (h : Kept s0 s) : Kept s0 (takeFetch a0 a1 a2 a3 a4 a5 s) := by
  unfold takeFetch
  repeat' first
    | with_reducible assumption
    | (intro hx; clear_value x)
    | with_reducible apply failFetch_kept
    | with_reducible apply spmTouch_kept
    | with_reducible apply park_kept
    | with_reducible apply noteReady_kept
    | with_reducible apply arrive_kept
    | with_reducible apply endReq_kept
    | split
    | ((fail_if_no_progress extract_lets +onlyGivenNames x); first
        | refine Kept.cut (t := x) ?_ ?_
        | refine Kept.cut (t := x.2) ?_ ?_
        | refine Kept.cut (t := x.2.2) ?_ ?_
        | (have hs : Sil := x; clear hs; unfold x)
        | (have hs : State → State := x; clear hs; unfold x)
        | (have hs : Nat → State → State := x; clear hs; unfold x)
        | clear_value x)

theorem execSlotArrival_kept {s0 s : State} {a0 a1 a2 a3 a4 a5 a6} (h : Kept s0 s) :
    ∃ u, execSlotArrival a0 a1 a2 a3 a4 a5 a6 s = .next u ∧ Kept s0 u := by
  unfold execSlotArrival done
  refine ⟨_, rfl, ?_⟩
  repeat' first
    | with_reducible assumption
    | (intro hx; clear_value x)
    | intro _
    | with_reducible apply withhold_kept
    | with_reducible apply lateDrop_kept
    | with_reducible apply takeFetch_kept
    | with_reducible apply park_kept
    | with_reducible apply noteReady_kept
    | with_reducible apply arrive_kept
    | split
    | ((fail_if_no_progress extract_lets +onlyGivenNames x); first
        | refine Kept.cut (t := x) ?_ ?_
        | refine Kept.cut (t := x.2) ?_ ?_
        | refine Kept.cut (t := x.2.2) ?_ ?_
        | (have hs : Sil := x; clear hs; unfold x)
        | (have hs : State → State := x; clear hs; unfold x)
        | (have hs : Nat → State → State := x; clear hs; unfold x)
        | clear_value x)

theorem consume_kept {s0 s : State} {a0 a1} (h : Kept s0 s) : Kept s0 (consume a0 a1 s) := by
  unfold consume
  repeat' first
    | with_reducible assumption
    | with_reducible apply modSlot_kept

theorem consumeSrcs_kept {s0 s : State} {a0 a1 a2 a3 a4 a5} (h : Kept s0 s) : Kept s0 (consumeSrcs a0 a1 a2 a3 a4 a5 s) := by
  unfold consumeSrcs
  repeat' first
    | with_reducible assumption
    | intro _
    | with_reducible apply whenS_kept
    | with_reducible apply consume_kept

theorem issued_kept {s0 s : State} {a0 a1 a2 a3} (h : Kept s0 s) : Kept s0 (issued a0 a1 a2 a3 s) := by
  unfold issued
  repeat' first
    | with_reducible assumption
    | with_reducible apply modCtx_kept

theorem raiseFlags_kept {s0 s : State} {a0 a1 a2} (h : Kept s0 s) : Kept s0 (raiseFlags a0 a1 a2 s) := by
  unfold raiseFlags
  repeat' first
    | with_reducible assumption
    | intro _
    | with_reducible apply whenS_kept
    | with_reducible apply modCtx_kept
    | with_reducible apply setEv_kept

theorem issueBp_kept {s0 s : State} {a0 a1} {f : State → State} (h : Kept s0 s)
    (hf : ∀ s, Kept s0 s → Kept s0 (f s)) : Kept s0 (issueBp a0 a1 f s) := by
  unfold issueBp
  dsimp only
  split
  · exact breakpoint_kept h
  · split
    · exact ctxFault_kept (acked_kept (breakpoint_kept h))
    · exact hf _ (acked_kept (breakpoint_kept h))

theorem writeDest_kept {s0 s : State} {a0 a1 a2 a3} (h : Kept s0 s) : Kept s0 (writeDest a0 a1 a2 a3 s) := by
  unfold writeDest
  repeat' first
    | with_reducible assumption
    | with_reducible apply writeElems_kept
    | with_reducible apply modSlot_kept

theorem applyRes_kept {s0 s : State} {a0 a1 a2 a3 a4} (h : Kept s0 s) : Kept s0 (applyRes a0 a1 a2 a3 a4 s) := by
  unfold applyRes
  repeat' first
    | with_reducible assumption
    | (intro hx; clear_value x)
    | intro _
    | with_reducible apply whenS_kept
    | with_reducible apply consumeSrcs_kept
    | with_reducible apply issued_kept
    | with_reducible apply writeDest_kept
    | with_reducible apply modCtx_kept
    | with_reducible apply raiseFlags_kept
    | with_reducible apply ctxFault_kept
    | with_reducible apply releaseHeld_kept
    | split
    | ((fail_if_no_progress extract_lets +onlyGivenNames x); first
        | refine Kept.cut (t := x) ?_ ?_
        | refine Kept.cut (t := x.2) ?_ ?_
        | refine Kept.cut (t := x.2.2) ?_ ?_
        | (have hs : Sil := x; clear hs; unfold x)
        | (have hs : State → State := x; clear hs; unfold x)
        | (have hs : Nat → State → State := x; clear hs; unfold x)
        | clear_value x)

theorem lanes_kept {s0 s : State} {a0 a1 a2 a3 a4 a5 a6} (h : Kept s0 s) : Kept s0 (lanes a0 a1 a2 a3 a4 a5 a6 s) := by
  unfold lanes
  repeat' first
    | with_reducible assumption
    | (intro hx; clear_value x)
    | intro _
    | with_reducible apply issueBp_kept
    | with_reducible apply ctxFault_kept
    | with_reducible apply applyRes_kept
    | with_reducible apply spmWait_kept
    | with_reducible apply bump64_kept
    | split
    | ((fail_if_no_progress extract_lets +onlyGivenNames x); first
        | refine Kept.cut (t := x) ?_ ?_
        | refine Kept.cut (t := x.2) ?_ ?_
        | refine Kept.cut (t := x.2.2) ?_ ?_
        | (have hs : Sil := x; clear hs; unfold x)
        | (have hs : State → State := x; clear hs; unfold x)
        | (have hs : Nat → State → State := x; clear hs; unfold x)
        | clear_value x)

theorem swapCopies_kept {s0 s : State} {a0 a1} (h : Kept s0 s) : Kept s0 (swapCopies a0 a1 s) := by
  unfold swapCopies
  repeat' first
    | with_reducible assumption
    | intro _
    | (with_reducible refine Kept.upd ?_ ?_; rotate_left; exact rfl)

theorem execInstructionComplete_kept {s0 s : State} {a0 a1} (h : Kept s0 s) :
    ∃ u, execInstructionComplete a0 a1 s = .next u ∧ Kept s0 u := by
  unfold execInstructionComplete done
  refine ⟨_, rfl, ?_⟩
  repeat' first
    | with_reducible assumption
    | (intro hx; clear_value x)
    | intro _
    | with_reducible apply whenS_kept
    | with_reducible apply swapCopies_kept
    | with_reducible apply modCtx_kept
    | with_reducible apply ctxFault_kept
    | with_reducible apply releaseHeld_kept
    | split
    | ((fail_if_no_progress extract_lets +onlyGivenNames x); first
        | refine Kept.cut (t := x) ?_ ?_
        | refine Kept.cut (t := x.2) ?_ ?_
        | refine Kept.cut (t := x.2.2) ?_ ?_
        | (have hs : Sil := x; clear hs; unfold x)
        | (have hs : State → State := x; clear hs; unfold x)
        | (have hs : Nat → State → State := x; clear hs; unfold x)
        | clear_value x)

theorem execSendAcknowledge_kept {s0 s : State} {a0 a1 a2 a3 a4} (h : Kept s0 s) :
    ∃ u, execSendAcknowledge a0 a1 a2 a3 a4 s = .next u ∧ Kept s0 u := by
  unfold execSendAcknowledge done
  refine ⟨_, rfl, ?_⟩
  repeat' first
    | with_reducible assumption
    | with_reducible apply noteReady_kept
    | with_reducible apply endReq_kept
    | with_reducible apply lateDrop_kept
    | split

theorem execSendRefusal_kept {s0 s : State} {a0 a1 a2 a3 a4} (h : Kept s0 s) :
    ∃ u, execSendRefusal a0 a1 a2 a3 a4 s = .next u ∧ Kept s0 u := by
  unfold execSendRefusal done
  refine ⟨_, rfl, ?_⟩
  repeat' first
    | with_reducible assumption
    | with_reducible apply failSend_kept
    | with_reducible apply lateDrop_kept
    | split

theorem portEvent_kept {s0 s : State} {a0 a1 a2} (h : Kept s0 s) : Kept s0 (portEvent a0 a1 a2 s) := by
  unfold portEvent
  repeat' first
    | with_reducible assumption
    | (intro hx; clear_value x)
    | intro _
    | with_reducible apply logE_kept
    | with_reducible apply srvFlag_kept
    | ((fail_if_no_progress extract_lets +onlyGivenNames x); first
        | refine Kept.cut (t := x) ?_ ?_
        | refine Kept.cut (t := x.2) ?_ ?_
        | refine Kept.cut (t := x.2.2) ?_ ?_
        | (have hs : Sil := x; clear hs; unfold x)
        | (have hs : State → State := x; clear hs; unfold x)
        | (have hs : Nat → State → State := x; clear hs; unfold x)
        | clear_value x)

theorem portRefuse_kept {s0 s : State} {a0 a1 a2} (h : Kept s0 s) : Kept s0 (portRefuse a0 a1 a2 s) := by
  unfold portRefuse
  repeat' first
    | with_reducible assumption
    | with_reducible apply emit_kept
    | with_reducible apply portEvent_kept

theorem refusedAccess_kept {s0 s : State} {a0 a1 a2 a3 a4} (h : Kept s0 s) : Kept s0 (refusedAccess a0 a1 a2 a3 a4 s) := by
  unfold refusedAccess
  repeat' first
    | with_reducible assumption
    | with_reducible apply ctxFault_kept
    | with_reducible apply addrViolation_kept

theorem execVfetch_kept {s0 s : State} {a0 a1} (h : Kept s0 s) :
    ∃ u, execVfetch a0 a1 s = .next u ∧ Kept s0 u := by
  unfold execVfetch done
  refine ⟨_, rfl, ?_⟩
  repeat' first
    | with_reducible assumption
    | (intro hx; clear_value x)
    | intro _
    | with_reducible apply issueBp_kept
    | with_reducible apply ctxFault_kept
    | with_reducible apply refusedAccess_kept
    | with_reducible apply accessBp_kept
    | with_reducible apply openFetch_kept
    | with_reducible apply noteReady_kept
    | with_reducible apply issued_kept
    | split
    | ((fail_if_no_progress extract_lets +onlyGivenNames x); first
        | refine Kept.cut (t := x) ?_ ?_
        | refine Kept.cut (t := x.2) ?_ ?_
        | refine Kept.cut (t := x.2.2) ?_ ?_
        | (have hs : Sil := x; clear hs; unfold x)
        | (have hs : State → State := x; clear hs; unfold x)
        | (have hs : Nat → State → State := x; clear hs; unfold x)
        | clear_value x)

theorem storeBytes_kept {s0 s : State} {a0 a1 a2 a3} (h : Kept s0 s) : Kept s0 (storeBytes a0 a1 a2 a3 s) := by
  unfold storeBytes
  repeat' first
    | with_reducible assumption
    | (intro hx; clear_value x)
    | intro _
    | with_reducible apply whenS_kept
    | with_reducible apply emit_kept
    | with_reducible apply xreset_kept
    | with_reducible apply spmTouch_kept
    | with_reducible apply wrBytes_kept
    | with_reducible apply xchWritten_kept
    | split
    | ((fail_if_no_progress extract_lets +onlyGivenNames x); first
        | refine Kept.cut (t := x) ?_ ?_
        | refine Kept.cut (t := x.2) ?_ ?_
        | refine Kept.cut (t := x.2.2) ?_ ?_
        | (have hs : Sil := x; clear hs; unfold x)
        | (have hs : State → State := x; clear hs; unfold x)
        | (have hs : Nat → State → State := x; clear hs; unfold x)
        | clear_value x)

theorem vstore_kept {s0 s : State} {a0 a1} (h : Kept s0 s) : Kept s0 (vstore a0 a1 s) := by
  unfold vstore
  repeat' first
    | with_reducible assumption
    | (intro hx; clear_value x)
    | intro _
    | with_reducible apply issueBp_kept
    | with_reducible apply ctxFault_kept
    | with_reducible apply refusedAccess_kept
    | with_reducible apply accessBp_kept
    | with_reducible apply openSend_kept
    | with_reducible apply storeBytes_kept
    | with_reducible apply spmWait_kept
    | with_reducible apply releaseHeld_kept
    | with_reducible apply issued_kept
    | with_reducible apply consumeSrcs_kept
    | split
    | ((fail_if_no_progress extract_lets +onlyGivenNames x); first
        | refine Kept.cut (t := x) ?_ ?_
        | refine Kept.cut (t := x.2) ?_ ?_
        | refine Kept.cut (t := x.2.2) ?_ ?_
        | (have hs : Sil := x; clear hs; unfold x)
        | (have hs : State → State := x; clear hs; unfold x)
        | (have hs : Nat → State → State := x; clear hs; unfold x)
        | clear_value x)

theorem sendCopy_kept {s0 s : State} {a0 a1 a2 a3 a4} (h : Kept s0 s) : Kept s0 (sendCopy a0 a1 a2 a3 a4 s) := by
  unfold sendCopy
  repeat' first
    | with_reducible assumption
    | (intro hx; clear_value x)
    | intro _
    | with_reducible apply whenS_kept
    | with_reducible apply xreset_kept
    | with_reducible apply spmWait_kept
    | with_reducible apply writeElems_kept
    | with_reducible apply openSend_kept
    | with_reducible apply portEvent_kept
    | with_reducible apply emit_kept
    | split
    | ((fail_if_no_progress extract_lets +onlyGivenNames x); first
        | refine Kept.cut (t := x) ?_ ?_
        | refine Kept.cut (t := x.2) ?_ ?_
        | refine Kept.cut (t := x.2.2) ?_ ?_
        | (have hs : Sil := x; clear hs; unfold x)
        | (have hs : State → State := x; clear hs; unfold x)
        | (have hs : Nat → State → State := x; clear hs; unfold x)
        | clear_value x)

theorem sendAll_kept {s0 s : State} {a0 a1 a2} (h : Kept s0 s) : Kept s0 (sendAll a0 a1 a2 s) := by
  unfold sendAll
  repeat' first
    | with_reducible assumption
    | (intro hx; clear_value x)
    | intro _
    | with_reducible apply foldS_kept
    | with_reducible apply foldSPair_kept
    | with_reducible apply issueBp_kept
    | with_reducible apply ctxFault_kept
    | with_reducible apply sendCopy_kept
    | with_reducible apply spmWait_kept
    | with_reducible apply releaseHeld_kept
    | with_reducible apply issued_kept
    | with_reducible apply consumeSrcs_kept
    | split
    | ((fail_if_no_progress extract_lets +onlyGivenNames x); first
        | refine Kept.cut (t := x) ?_ ?_
        | refine Kept.cut (t := x.2) ?_ ?_
        | refine Kept.cut (t := x.2.2) ?_ ?_
        | (have hs : Sil := x; clear hs; unfold x)
        | (have hs : State → State := x; clear hs; unfold x)
        | (have hs : Nat → State → State := x; clear hs; unfold x)
        | clear_value x)

theorem execSend_kept {s0 s : State} {a0 a1} (h : Kept s0 s) :
    ∃ u, execSend a0 a1 s = .next u ∧ Kept s0 u := by
  unfold execSend done
  refine ⟨_, rfl, ?_⟩
  repeat' first
    | with_reducible assumption
    | with_reducible apply sendAll_kept

theorem execSendm_kept {s0 s : State} {a0 a1} (h : Kept s0 s) :
    ∃ u, execSendm a0 a1 s = .next u ∧ Kept s0 u := by
  unfold execSendm done
  refine ⟨_, rfl, ?_⟩
  repeat' first
    | with_reducible assumption
    | with_reducible apply sendAll_kept

theorem execSget_kept {s0 s : State} {a0 a1} (h : Kept s0 s) :
    ∃ u, execSget a0 a1 s = .next u ∧ Kept s0 u := by
  unfold execSget done
  refine ⟨_, rfl, ?_⟩
  repeat' first
    | with_reducible assumption
    | (intro hx; clear_value x)
    | intro _
    | with_reducible apply issueBp_kept
    | with_reducible apply ctxFault_kept
    | with_reducible apply consumeSrcs_kept
    | with_reducible apply spmWait_kept
    | with_reducible apply releaseHeld_kept
    | with_reducible apply modCtx_kept
    | with_reducible apply issued_kept
    | split
    | ((fail_if_no_progress extract_lets +onlyGivenNames x); first
        | refine Kept.cut (t := x) ?_ ?_
        | refine Kept.cut (t := x.2) ?_ ?_
        | refine Kept.cut (t := x.2.2) ?_ ?_
        | (have hs : Sil := x; clear hs; unfold x)
        | (have hs : State → State := x; clear hs; unfold x)
        | (have hs : Nat → State → State := x; clear hs; unfold x)
        | clear_value x)

theorem execSput_kept {s0 s : State} {a0 a1} (h : Kept s0 s) :
    ∃ u, execSput a0 a1 s = .next u ∧ Kept s0 u := by
  unfold execSput done
  refine ⟨_, rfl, ?_⟩
  repeat' first
    | with_reducible assumption
    | (intro hx; clear_value x)
    | intro _
    | with_reducible apply whenS_kept
    | with_reducible apply issueBp_kept
    | with_reducible apply ctxFault_kept
    | with_reducible apply writeElem_kept
    | with_reducible apply spmWait_kept
    | with_reducible apply noteReady_kept
    | with_reducible apply issued_kept
    | split
    | ((fail_if_no_progress extract_lets +onlyGivenNames x); first
        | refine Kept.cut (t := x) ?_ ?_
        | refine Kept.cut (t := x.2) ?_ ?_
        | refine Kept.cut (t := x.2.2) ?_ ?_
        | (have hs : Sil := x; clear hs; unfold x)
        | (have hs : State → State := x; clear hs; unfold x)
        | (have hs : Nat → State → State := x; clear hs; unfold x)
        | clear_value x)

theorem scalar_kept {s0 s : State} {a0 a1 a2 a3} (h : Kept s0 s) : Kept s0 (scalar a0 a1 a2 a3 s) := by
  unfold scalar
  repeat' first
    | with_reducible assumption
    | (intro hx; clear_value x)
    | intro _
    | with_reducible apply issueBp_kept
    | with_reducible apply noteReady_kept
    | with_reducible apply issued_kept
    | with_reducible apply modCtx_kept
    | split
    | ((fail_if_no_progress extract_lets +onlyGivenNames x); first
        | refine Kept.cut (t := x) ?_ ?_
        | refine Kept.cut (t := x.2) ?_ ?_
        | refine Kept.cut (t := x.2.2) ?_ ?_
        | (have hs : Sil := x; clear hs; unfold x)
        | (have hs : State → State := x; clear hs; unfold x)
        | (have hs : Nat → State → State := x; clear hs; unfold x)
        | clear_value x)

theorem scalarOp_kept {s0 s : State} {a0 a1 a2 a3} (h : Kept s0 s) : Kept s0 (scalarOp a0 a1 a2 a3 s) := by
  unfold scalarOp
  repeat' first
    | with_reducible assumption
    | with_reducible apply scalar_kept

theorem execSadd_kept {s0 s : State} {a0 a1} (h : Kept s0 s) :
    ∃ u, execSadd a0 a1 s = .next u ∧ Kept s0 u := by
  unfold execSadd done
  refine ⟨_, rfl, ?_⟩
  repeat' first
    | with_reducible assumption
    | with_reducible apply scalarOp_kept

theorem execSsub_kept {s0 s : State} {a0 a1} (h : Kept s0 s) :
    ∃ u, execSsub a0 a1 s = .next u ∧ Kept s0 u := by
  unfold execSsub done
  refine ⟨_, rfl, ?_⟩
  repeat' first
    | with_reducible assumption
    | with_reducible apply scalarOp_kept

theorem execSand_kept {s0 s : State} {a0 a1} (h : Kept s0 s) :
    ∃ u, execSand a0 a1 s = .next u ∧ Kept s0 u := by
  unfold execSand done
  refine ⟨_, rfl, ?_⟩
  repeat' first
    | with_reducible assumption
    | with_reducible apply scalarOp_kept

theorem execSor_kept {s0 s : State} {a0 a1} (h : Kept s0 s) :
    ∃ u, execSor a0 a1 s = .next u ∧ Kept s0 u := by
  unfold execSor done
  refine ⟨_, rfl, ?_⟩
  repeat' first
    | with_reducible assumption
    | with_reducible apply scalarOp_kept

theorem execSxor_kept {s0 s : State} {a0 a1} (h : Kept s0 s) :
    ∃ u, execSxor a0 a1 s = .next u ∧ Kept s0 u := by
  unfold execSxor done
  refine ⟨_, rfl, ?_⟩
  repeat' first
    | with_reducible assumption
    | with_reducible apply scalarOp_kept

theorem execSshl_kept {s0 s : State} {a0 a1} (h : Kept s0 s) :
    ∃ u, execSshl a0 a1 s = .next u ∧ Kept s0 u := by
  unfold execSshl done
  refine ⟨_, rfl, ?_⟩
  repeat' first
    | with_reducible assumption
    | with_reducible apply scalarOp_kept

theorem execSshr_kept {s0 s : State} {a0 a1} (h : Kept s0 s) :
    ∃ u, execSshr a0 a1 s = .next u ∧ Kept s0 u := by
  unfold execSshr done
  refine ⟨_, rfl, ?_⟩
  repeat' first
    | with_reducible assumption
    | with_reducible apply scalarOp_kept

theorem execSli_kept {s0 s : State} {a0 a1} (h : Kept s0 s) :
    ∃ u, execSli a0 a1 s = .next u ∧ Kept s0 u := by
  unfold execSli done
  refine ⟨_, rfl, ?_⟩
  repeat' first
    | with_reducible assumption
    | with_reducible apply scalarOp_kept

theorem execSlui_kept {s0 s : State} {a0 a1} (h : Kept s0 s) :
    ∃ u, execSlui a0 a1 s = .next u ∧ Kept s0 u := by
  unfold execSlui done
  refine ⟨_, rfl, ?_⟩
  repeat' first
    | with_reducible assumption
    | with_reducible apply scalarOp_kept

theorem branch_kept {s0 s : State} {a0 a1 a2 a3} (h : Kept s0 s) : Kept s0 (branch a0 a1 a2 a3 s) := by
  unfold branch
  repeat' first
    | with_reducible assumption
    | with_reducible apply scalar_kept

theorem execBr_kept {s0 s : State} {a0 a1} (h : Kept s0 s) :
    ∃ u, execBr a0 a1 s = .next u ∧ Kept s0 u := by
  unfold execBr done
  refine ⟨_, rfl, ?_⟩
  repeat' first
    | with_reducible assumption
    | with_reducible apply branch_kept

theorem execBeq_kept {s0 s : State} {a0 a1} (h : Kept s0 s) :
    ∃ u, execBeq a0 a1 s = .next u ∧ Kept s0 u := by
  unfold execBeq done
  refine ⟨_, rfl, ?_⟩
  repeat' first
    | with_reducible assumption
    | with_reducible apply branch_kept

theorem execBne_kept {s0 s : State} {a0 a1} (h : Kept s0 s) :
    ∃ u, execBne a0 a1 s = .next u ∧ Kept s0 u := by
  unfold execBne done
  refine ⟨_, rfl, ?_⟩
  repeat' first
    | with_reducible assumption
    | with_reducible apply branch_kept

theorem execBlt_kept {s0 s : State} {a0 a1} (h : Kept s0 s) :
    ∃ u, execBlt a0 a1 s = .next u ∧ Kept s0 u := by
  unfold execBlt done
  refine ⟨_, rfl, ?_⟩
  repeat' first
    | with_reducible assumption
    | with_reducible apply branch_kept

theorem execHalt_kept {s0 s : State} {a0 a1} (h : Kept s0 s) :
    ∃ u, execHalt a0 a1 s = .next u ∧ Kept s0 u := by
  unfold execHalt done
  refine ⟨_, rfl, ?_⟩
  repeat' first
    | with_reducible assumption
    | intro _
    | with_reducible apply issueBp_kept
    | with_reducible apply noteReady_kept
    | with_reducible apply modCtx_kept
    | split

theorem execSflg_kept {s0 s : State} {a0 a1} (h : Kept s0 s) :
    ∃ u, execSflg a0 a1 s = .next u ∧ Kept s0 u := by
  unfold execSflg done
  refine ⟨_, rfl, ?_⟩
  repeat' first
    | with_reducible assumption
    | with_reducible apply scalar_kept

theorem execSfclr_kept {s0 s : State} {a0 a1} (h : Kept s0 s) :
    ∃ u, execSfclr a0 a1 s = .next u ∧ Kept s0 u := by
  unfold execSfclr done
  refine ⟨_, rfl, ?_⟩
  repeat' first
    | with_reducible assumption
    | with_reducible apply scalar_kept

theorem execNop_kept {s0 s : State} {a0 a1} (h : Kept s0 s) :
    ∃ u, execNop a0 a1 s = .next u ∧ Kept s0 u := by
  unfold execNop done
  refine ⟨_, rfl, ?_⟩
  repeat' first
    | with_reducible assumption
    | with_reducible apply scalar_kept

theorem execAswap_kept {s0 s : State} {a0 a1} (h : Kept s0 s) :
    ∃ u, execAswap a0 a1 s = .next u ∧ Kept s0 u := by
  unfold execAswap done
  refine ⟨_, rfl, ?_⟩
  repeat' first
    | with_reducible assumption
    | (intro hx; clear_value x)
    | intro _
    | with_reducible apply issueBp_kept
    | with_reducible apply ctxFault_kept
    | with_reducible apply noteReady_kept
    | with_reducible apply issued_kept
    | split
    | ((fail_if_no_progress extract_lets +onlyGivenNames x); first
        | refine Kept.cut (t := x) ?_ ?_
        | refine Kept.cut (t := x.2) ?_ ?_
        | refine Kept.cut (t := x.2.2) ?_ ?_
        | (have hs : Sil := x; clear hs; unfold x)
        | (have hs : State → State := x; clear hs; unfold x)
        | (have hs : Nat → State → State := x; clear hs; unfold x)
        | clear_value x)

end Sys2Proof.Machine
end

