-- ==== Sys2Proof/Laws/KeptVecIsa.lean ====
section
/-! SUPPORT. What `Kept` says is kept by the operations of Machine/VecIsa.lean. -/

-- One proof at a time: proofs elaborated side by side wait on each other, and each that waits holds a thread's stack.
set_option Elab.async false

namespace Sys2Proof.Machine

open Sys2Proof

theorem execVadd_kept {s0 s : State} {a0 a1} (h : Kept s0 s) :
    ∃ u, execVadd a0 a1 s = .next u ∧ Kept s0 u := by
  unfold execVadd done
  refine ⟨_, rfl, ?_⟩
  repeat' first
    | with_reducible assumption
    | with_reducible apply lanes_kept

theorem execVsub_kept {s0 s : State} {a0 a1} (h : Kept s0 s) :
    ∃ u, execVsub a0 a1 s = .next u ∧ Kept s0 u := by
  unfold execVsub done
  refine ⟨_, rfl, ?_⟩
  repeat' first
    | with_reducible assumption
    | with_reducible apply lanes_kept

theorem execVmul_kept {s0 s : State} {a0 a1} (h : Kept s0 s) :
    ∃ u, execVmul a0 a1 s = .next u ∧ Kept s0 u := by
  unfold execVmul done
  refine ⟨_, rfl, ?_⟩
  repeat' first
    | with_reducible assumption
    | with_reducible apply lanes_kept

theorem execVfma_kept {s0 s : State} {a0 a1} (h : Kept s0 s) :
    ∃ u, execVfma a0 a1 s = .next u ∧ Kept s0 u := by
  unfold execVfma done
  refine ⟨_, rfl, ?_⟩
  repeat' first
    | with_reducible assumption
    | with_reducible apply lanes_kept

theorem execVmax_kept {s0 s : State} {a0 a1} (h : Kept s0 s) :
    ∃ u, execVmax a0 a1 s = .next u ∧ Kept s0 u := by
  unfold execVmax done
  refine ⟨_, rfl, ?_⟩
  repeat' first
    | with_reducible assumption
    | with_reducible apply lanes_kept

theorem execVmin_kept {s0 s : State} {a0 a1} (h : Kept s0 s) :
    ∃ u, execVmin a0 a1 s = .next u ∧ Kept s0 u := by
  unfold execVmin done
  refine ⟨_, rfl, ?_⟩
  repeat' first
    | with_reducible assumption
    | with_reducible apply lanes_kept

theorem execVabs_kept {s0 s : State} {a0 a1} (h : Kept s0 s) :
    ∃ u, execVabs a0 a1 s = .next u ∧ Kept s0 u := by
  unfold execVabs done
  refine ⟨_, rfl, ?_⟩
  repeat' first
    | with_reducible assumption
    | with_reducible apply lanes_kept

theorem execVneg_kept {s0 s : State} {a0 a1} (h : Kept s0 s) :
    ∃ u, execVneg a0 a1 s = .next u ∧ Kept s0 u := by
  unfold execVneg done
  refine ⟨_, rfl, ?_⟩
  repeat' first
    | with_reducible assumption
    | with_reducible apply lanes_kept

theorem execVcvt_kept {s0 s : State} {a0 a1} (h : Kept s0 s) :
    ∃ u, execVcvt a0 a1 s = .next u ∧ Kept s0 u := by
  unfold execVcvt done
  refine ⟨_, rfl, ?_⟩
  repeat' first
    | with_reducible assumption
    | with_reducible apply lanes_kept

theorem execVmov_kept {s0 s : State} {a0 a1} (h : Kept s0 s) :
    ∃ u, execVmov a0 a1 s = .next u ∧ Kept s0 u := by
  unfold execVmov done
  refine ⟨_, rfl, ?_⟩
  repeat' first
    | with_reducible assumption
    | with_reducible apply lanes_kept

theorem execViadd_kept {s0 s : State} {a0 a1} (h : Kept s0 s) :
    ∃ u, execViadd a0 a1 s = .next u ∧ Kept s0 u := by
  unfold execViadd done
  refine ⟨_, rfl, ?_⟩
  repeat' first
    | with_reducible assumption
    | with_reducible apply lanes_kept

theorem execVimul_kept {s0 s : State} {a0 a1} (h : Kept s0 s) :
    ∃ u, execVimul a0 a1 s = .next u ∧ Kept s0 u := by
  unfold execVimul done
  refine ⟨_, rfl, ?_⟩
  repeat' first
    | with_reducible assumption
    | with_reducible apply lanes_kept

theorem execVrcp_kept {s0 s : State} {a0 a1} (h : Kept s0 s) :
    ∃ u, execVrcp a0 a1 s = .next u ∧ Kept s0 u := by
  unfold execVrcp done
  refine ⟨_, rfl, ?_⟩
  repeat' first
    | with_reducible assumption
    | with_reducible apply lanes_kept

theorem execVrsq_kept {s0 s : State} {a0 a1} (h : Kept s0 s) :
    ∃ u, execVrsq a0 a1 s = .next u ∧ Kept s0 u := by
  unfold execVrsq done
  refine ⟨_, rfl, ?_⟩
  repeat' first
    | with_reducible assumption
    | with_reducible apply lanes_kept

theorem execVexp2_kept {s0 s : State} {a0 a1} (h : Kept s0 s) :
    ∃ u, execVexp2 a0 a1 s = .next u ∧ Kept s0 u := by
  unfold execVexp2 done
  refine ⟨_, rfl, ?_⟩
  repeat' first
    | with_reducible assumption
    | with_reducible apply lanes_kept

theorem execVlog2_kept {s0 s : State} {a0 a1} (h : Kept s0 s) :
    ∃ u, execVlog2 a0 a1 s = .next u ∧ Kept s0 u := by
  unfold execVlog2 done
  refine ⟨_, rfl, ?_⟩
  repeat' first
    | with_reducible assumption
    | with_reducible apply lanes_kept

theorem execVsig_kept {s0 s : State} {a0 a1} (h : Kept s0 s) :
    ∃ u, execVsig a0 a1 s = .next u ∧ Kept s0 u := by
  unfold execVsig done
  refine ⟨_, rfl, ?_⟩
  repeat' first
    | with_reducible assumption
    | with_reducible apply lanes_kept

theorem execVsilu_kept {s0 s : State} {a0 a1} (h : Kept s0 s) :
    ∃ u, execVsilu a0 a1 s = .next u ∧ Kept s0 u := by
  unfold execVsilu done
  refine ⟨_, rfl, ?_⟩
  repeat' first
    | with_reducible assumption
    | with_reducible apply lanes_kept

theorem execVrope_kept {s0 s : State} {a0 a1} (h : Kept s0 s) :
    ∃ u, execVrope a0 a1 s = .next u ∧ Kept s0 u := by
  unfold execVrope done
  refine ⟨_, rfl, ?_⟩
  repeat' first
    | with_reducible assumption
    | with_reducible apply lanes_kept

theorem execVbscl_kept {s0 s : State} {a0 a1} (h : Kept s0 s) :
    ∃ u, execVbscl a0 a1 s = .next u ∧ Kept s0 u := by
  unfold execVbscl done
  refine ⟨_, rfl, ?_⟩
  repeat' first
    | with_reducible assumption
    | with_reducible apply lanes_kept

theorem execVrsum_kept {s0 s : State} {a0 a1} (h : Kept s0 s) :
    ∃ u, execVrsum a0 a1 s = .next u ∧ Kept s0 u := by
  unfold execVrsum done
  refine ⟨_, rfl, ?_⟩
  repeat' first
    | with_reducible assumption
    | with_reducible apply lanes_kept

theorem execVdot_kept {s0 s : State} {a0 a1} (h : Kept s0 s) :
    ∃ u, execVdot a0 a1 s = .next u ∧ Kept s0 u := by
  unfold execVdot done
  refine ⟨_, rfl, ?_⟩
  repeat' first
    | with_reducible assumption
    | with_reducible apply lanes_kept

theorem execVrmax_kept {s0 s : State} {a0 a1} (h : Kept s0 s) :
    ∃ u, execVrmax a0 a1 s = .next u ∧ Kept s0 u := by
  unfold execVrmax done
  refine ⟨_, rfl, ?_⟩
  repeat' first
    | with_reducible assumption
    | with_reducible apply lanes_kept

theorem execVscan_kept {s0 s : State} {a0 a1} (h : Kept s0 s) :
    ∃ u, execVscan a0 a1 s = .next u ∧ Kept s0 u := by
  unfold execVscan done
  refine ⟨_, rfl, ?_⟩
  repeat' first
    | with_reducible assumption
    | with_reducible apply lanes_kept

theorem execVtopk_kept {s0 s : State} {a0 a1} (h : Kept s0 s) :
    ∃ u, execVtopk a0 a1 s = .next u ∧ Kept s0 u := by
  unfold execVtopk done
  refine ⟨_, rfl, ?_⟩
  repeat' first
    | with_reducible assumption
    | with_reducible apply lanes_kept
    | split

theorem execVrng_kept {s0 s : State} {a0 a1} (h : Kept s0 s) :
    ∃ u, execVrng a0 a1 s = .next u ∧ Kept s0 u := by
  unfold execVrng done
  refine ⟨_, rfl, ?_⟩
  repeat' first
    | with_reducible assumption
    | with_reducible apply lanes_kept

theorem execVlsem_kept {s0 s : State} {a0 a1} (h : Kept s0 s) :
    ∃ u, execVlsem a0 a1 s = .next u ∧ Kept s0 u := by
  unfold execVlsem done
  refine ⟨_, rfl, ?_⟩
  repeat' first
    | with_reducible assumption
    | with_reducible apply lanes_kept

end Sys2Proof.Machine
end

