-- ==== Sys2Proof/Laws/KeptShadow.lean ====
section
/-! SUPPORT. What `Kept` says is kept by the operations of Machine/Shadow.lean. -/

-- One proof at a time: proofs elaborated side by side wait on each other, and each that waits holds a thread's stack.
set_option Elab.async false

namespace Sys2Proof.Machine

open Sys2Proof

theorem putEntry_kept {s0 s : State} {a0} (h : Kept s0 s) : Kept s0 (putEntry a0 s) := by
  unfold putEntry
  repeat' first
    | with_reducible assumption
    | with_reducible apply wrBytes_kept

theorem setShadow_kept {s0 s : State} {a0 a1} (h : Kept s0 s) : Kept s0 (setShadow a0 a1 s) := by
  unfold setShadow
  repeat' first
    | with_reducible assumption
    | with_reducible apply putEntry_kept
    | (with_reducible refine Kept.upd ?_ ?_; rotate_left; exact rfl)

theorem shadowState_kept {s0 s : State} {a0 a1} (h : Kept s0 s) : Kept s0 (shadowState a0 a1 s) := by
  unfold shadowState
  repeat' first
    | with_reducible assumption
    | with_reducible apply setShadow_kept
    | split
    | (with_reducible refine Kept.upd ?_ ?_; rotate_left; exact rfl)

theorem loseShadows_kept {s0 s : State} {a0} (h : Kept s0 s) : Kept s0 (loseShadows a0 s) := by
  unfold loseShadows
  repeat' first
    | with_reducible assumption
    | (intro hx; clear_value x)
    | intro _
    | with_reducible apply foldS_kept
    | with_reducible apply whenS_kept
    | with_reducible apply foldSPair_kept
    | with_reducible apply setShadow_kept
    | with_reducible apply setEv_kept
    | with_reducible apply logE_kept
    | (with_reducible refine Kept.upd ?_ ?_; rotate_left; exact rfl)
    | ((fail_if_no_progress extract_lets +onlyGivenNames x); first
        | refine Kept.cut (t := x) ?_ ?_
        | refine Kept.cut (t := x.2) ?_ ?_
        | refine Kept.cut (t := x.2.2) ?_ ?_
        | (have hs : Sil := x; clear hs; unfold x)
        | (have hs : State → State := x; clear hs; unfold x)
        | (have hs : Nat → State → State := x; clear hs; unfold x)
        | clear_value x)

theorem putShadow_kept {s0 s : State} {a0 a1 a2 a3 a4 a5 a6} (h : Kept s0 s) :
    Kept s0 (putShadow a0 a1 a2 a3 a4 a5 a6 s) := by
  unfold putShadow
  repeat' first
    | with_reducible assumption
    | (intro hx; clear_value x)
    | intro _
    | with_reducible apply wrBytes_kept
    | with_reducible apply setShadow_kept
    | split
    | ((fail_if_no_progress extract_lets +onlyGivenNames x); first
        | refine Kept.cut (t := x) ?_ ?_
        | refine Kept.cut (t := x.2) ?_ ?_
        | refine Kept.cut (t := x.2.2) ?_ ?_
        | (have hs : Sil := x; clear hs; unfold x)
        | (have hs : State → State := x; clear hs; unfold x)
        | (have hs : Nat → State → State := x; clear hs; unfold x)
        | clear_value x)

theorem dropShadow_kept {s0 s : State} {a0} (h : Kept s0 s) : Kept s0 (dropShadow a0 s) := by
  unfold dropShadow
  repeat' first
    | with_reducible assumption
    | (with_reducible refine Kept.upd ?_ ?_; rotate_left; exact rfl)

theorem modCal_kept {s0 s : State} {a0 a1} (h : Kept s0 s) : Kept s0 (modCal a0 a1 s) := by
  unfold modCal
  repeat' first
    | with_reducible assumption
    | (with_reducible refine Kept.upd ?_ ?_; rotate_left; exact rfl)

theorem calLog_kept {s0 s : State} {a0 a1 a2 a3} (h : Kept s0 s) : Kept s0 (calLog a0 a1 a2 a3 s) := by
  unfold calLog
  repeat' first
    | with_reducible assumption
    | with_reducible apply logE_kept

theorem setWear_kept {s0 s : State} {a0 a1} (h : Kept s0 s) : Kept s0 (setWear a0 a1 s) := by
  unfold setWear
  repeat' first
    | with_reducible assumption
    | with_reducible apply askFlash_kept
    | (with_reducible refine Kept.upd ?_ ?_; rotate_left; exact rfl)

theorem setProg_kept {s0 s : State} {a0 a1} (h : Kept s0 s) : Kept s0 (setProg a0 a1 s) := by
  unfold setProg
  repeat' first
    | with_reducible assumption
    | (with_reducible refine Kept.upd ?_ ?_; rotate_left; exact rfl)

theorem refuseProg_kept {s0 s : State} {a0} (h : Kept s0 s) : Kept s0 (refuseProg a0 s) := by
  unfold refuseProg
  repeat' first
    | with_reducible assumption
    | intro _
    | with_reducible apply whenS_kept
    | with_reducible apply calLog_kept
    | with_reducible apply setEv_kept
    | with_reducible apply setWear_kept
    | split
    | ((fail_if_no_progress extract_lets +onlyGivenNames x); first
        | refine Kept.cut (t := x) ?_ ?_
        | refine Kept.cut (t := x.2) ?_ ?_
        | refine Kept.cut (t := x.2.2) ?_ ?_
        | (have hs : Sil := x; clear hs; unfold x)
        | (have hs : State → State := x; clear hs; unfold x)
        | (have hs : Nat → State → State := x; clear hs; unfold x)
        | clear_value x)

theorem requestProg_kept {s0 s : State} {a0 a1} (h : Kept s0 s) : Kept s0 (requestProg a0 a1 s) := by
  unfold requestProg
  repeat' first
    | with_reducible assumption
    | intro _
    | with_reducible apply whenS_kept
    | with_reducible apply askFlash_kept
    | with_reducible apply spoilTl_kept
    | with_reducible apply setProg_kept
    | (with_reducible refine Kept.upd ?_ ?_; rotate_left; exact rfl)

theorem dropRowReq_kept {s0 s : State} {a0} (h : Kept s0 s) : Kept s0 (dropRowReq a0 s) := by
  unfold dropRowReq
  repeat' first
    | with_reducible assumption
    | (intro hx; clear_value x)
    | with_reducible apply modTile_kept
    | with_reducible apply admitHeld_kept
    | split
    | ((fail_if_no_progress extract_lets +onlyGivenNames x); first
        | refine Kept.cut (t := x) ?_ ?_
        | refine Kept.cut (t := x.2) ?_ ?_
        | refine Kept.cut (t := x.2.2) ?_ ?_
        | (have hs : Sil := x; clear hs; unfold x)
        | (have hs : State → State := x; clear hs; unfold x)
        | (have hs : Nat → State → State := x; clear hs; unfold x)
        | clear_value x)

theorem endProg_kept {s0 s : State} {a0} (h : Kept s0 s) : Kept s0 (endProg a0 s) := by
  unfold endProg
  repeat' first
    | with_reducible assumption
    | with_reducible apply backFromAside_kept
    | (with_reducible refine Kept.upd ?_ ?_; rotate_left; exact rfl)

theorem dropProg_kept {s0 s : State} {a0} (h : Kept s0 s) : Kept s0 (dropProg a0 s) := by
  unfold dropProg
  repeat' first
    | with_reducible assumption
    | with_reducible apply dropPage_kept
    | with_reducible apply endProg_kept
    | with_reducible apply dropRowReq_kept

theorem loaderLcfg_kept {s0 s : State} {a0 a1 a2} (h : Kept s0 s) : Kept s0 (loaderLcfg a0 a1 a2 s) := by
  unfold loaderLcfg
  repeat' first
    | with_reducible assumption
    | (intro hx; clear_value x)
    | with_reducible apply journalBy_kept
    | with_reducible apply wr_kept
    | ((fail_if_no_progress extract_lets +onlyGivenNames x); first
        | refine Kept.cut (t := x) ?_ ?_
        | refine Kept.cut (t := x.2) ?_ ?_
        | refine Kept.cut (t := x.2.2) ?_ ?_
        | (have hs : Sil := x; clear hs; unfold x)
        | (have hs : State → State := x; clear hs; unfold x)
        | (have hs : Nat → State → State := x; clear hs; unfold x)
        | clear_value x)

theorem setValid_kept {s0 s : State} {a0 a1 a2} (h : Kept s0 s) : Kept s0 (setValid a0 a1 a2 s) := by
  unfold setValid
  repeat' first
    | with_reducible assumption
    | with_reducible apply loaderLcfg_kept

theorem clearValid_kept {s0 s : State} {a0 a1} (h : Kept s0 s) : Kept s0 (clearValid a0 a1 s) := by
  unfold clearValid
  repeat' first
    | with_reducible assumption
    | (intro hx; clear_value x)
    | intro _
    | with_reducible apply loaderLcfg_kept
    | with_reducible apply spoilTl_kept
    | (with_reducible refine Kept.upd ?_ ?_; rotate_left; exact rfl)
    | ((fail_if_no_progress extract_lets +onlyGivenNames x); first
        | refine Kept.cut (t := x) ?_ ?_
        | refine Kept.cut (t := x.2) ?_ ?_
        | refine Kept.cut (t := x.2.2) ?_ ?_
        | (have hs : Sil := x; clear hs; unfold x)
        | (have hs : State → State := x; clear hs; unfold x)
        | (have hs : Nat → State → State := x; clear hs; unfold x)
        | clear_value x)

theorem setTileState_kept {s0 s : State} {a0 a1} (h : Kept s0 s) : Kept s0 (setTileState a0 a1 s) := by
  unfold setTileState
  repeat' first
    | with_reducible assumption
    | with_reducible apply wrf_kept
    | split

theorem claimTiles_kept {s0 s : State} {a0} (h : Kept s0 s) : Kept s0 (claimTiles a0 s) := by
  unfold claimTiles
  repeat' first
    | with_reducible assumption
    | intro _
    | with_reducible apply foldS_kept
    | with_reducible apply setTileState_kept

theorem releaseTls_kept {s0 s : State} {a0 a1} (h : Kept s0 s) : Kept s0 (releaseTls a0 a1 s) := by
  unfold releaseTls
  repeat' first
    | with_reducible assumption
    | (intro hx; clear_value x)
    | intro _
    | with_reducible apply foldS_kept
    | with_reducible apply foldSPair_kept
    | with_reducible apply dropShadow_kept
    | with_reducible apply clearValid_kept
    | with_reducible apply setTileState_kept
    | ((fail_if_no_progress extract_lets +onlyGivenNames x); first
        | refine Kept.cut (t := x) ?_ ?_
        | refine Kept.cut (t := x.2) ?_ ?_
        | refine Kept.cut (t := x.2.2) ?_ ?_
        | (have hs : Sil := x; clear hs; unfold x)
        | (have hs : State → State := x; clear hs; unfold x)
        | (have hs : Nat → State → State := x; clear hs; unfold x)
        | clear_value x)

theorem modLoad_kept {s0 s : State} {a0 a1} (h : Kept s0 s) : Kept s0 (modLoad a0 a1 s) := by
  unfold modLoad
  repeat' first
    | with_reducible assumption
    | with_reducible apply modCx_kept

theorem dropCode_kept {s0 s : State} {a0} (h : Kept s0 s) : Kept s0 (dropCode a0 s) := by
  unfold dropCode
  repeat' first
    | with_reducible assumption
    | (intro hx; clear_value x)
    | intro _
    | with_reducible apply foldS_kept
    | with_reducible apply whenS_kept
    | with_reducible apply foldSPair_kept
    | with_reducible apply closeReq_kept
    | with_reducible apply freeRoom_kept
    | with_reducible apply refuseArrival_kept
    | (with_reducible refine Kept.upd ?_ ?_; rotate_left; exact rfl)
    | ((fail_if_no_progress extract_lets +onlyGivenNames x); first
        | refine Kept.cut (t := x) ?_ ?_
        | refine Kept.cut (t := x.2) ?_ ?_
        | refine Kept.cut (t := x.2.2) ?_ ?_
        | (have hs : Sil := x; clear hs; unfold x)
        | (have hs : State → State := x; clear hs; unfold x)
        | (have hs : Nat → State → State := x; clear hs; unfold x)
        | clear_value x)

theorem askPayload_kept {s0 s : State} {a0 a1 a2 a3 a4} (h : Kept s0 s) : Kept s0 (askPayload a0 a1 a2 a3 a4 s) := by
  unfold askPayload
  repeat' first
    | with_reducible assumption
    | (intro hx; clear_value x)
    | with_reducible apply emit_kept
    | with_reducible apply putAsk_kept
    | split
    | ((fail_if_no_progress extract_lets +onlyGivenNames x); first
        | refine Kept.cut (t := x) ?_ ?_
        | refine Kept.cut (t := x.2) ?_ ?_
        | refine Kept.cut (t := x.2.2) ?_ ?_
        | (have hs : Sil := x; clear hs; unfold x)
        | (have hs : State → State := x; clear hs; unfold x)
        | (have hs : Nat → State → State := x; clear hs; unfold x)
        | clear_value x)

theorem askPayloads_kept {s0 s : State} {a0 a1} (h : Kept s0 s) : Kept s0 (askPayloads a0 a1 s) := by
  unfold askPayloads
  repeat' first
    | with_reducible assumption
    | (intro hx; clear_value x)
    | intro _
    | with_reducible apply foldS_kept
    | with_reducible apply foldSPair_kept
    | with_reducible apply askPayload_kept
    | with_reducible apply modLoad_kept
    | split
    | ((fail_if_no_progress extract_lets +onlyGivenNames x); first
        | refine Kept.cut (t := x) ?_ ?_
        | refine Kept.cut (t := x.2) ?_ ?_
        | refine Kept.cut (t := x.2.2) ?_ ?_
        | (have hs : Sil := x; clear hs; unfold x)
        | (have hs : State → State := x; clear hs; unfold x)
        | (have hs : Nat → State → State := x; clear hs; unfold x)
        | clear_value x)

theorem enterLoad_kept {s0 s : State} {a0} (h : Kept s0 s) : Kept s0 (enterLoad a0 s) := by
  unfold enterLoad
  repeat' first
    | with_reducible assumption
    | intro _
    | with_reducible apply modLoad_kept
    | with_reducible apply logE_kept
    | split

theorem endLoad_kept {s0 s : State} {a0 a1 a2 a3} (h : Kept s0 s) : Kept s0 (endLoad a0 a1 a2 a3 s) := by
  unfold endLoad
  repeat' first
    | with_reducible assumption
    | (intro hx; clear_value x)
    | intro _
    | with_reducible apply foldS_kept
    | with_reducible apply foldSPair_kept
    | with_reducible apply dropProg_kept
    | with_reducible apply modCx_kept
    | with_reducible apply dropCode_kept
    | with_reducible apply releaseTls_kept
    | with_reducible apply askPayloads_kept
    | with_reducible apply kickAsks_kept
    | with_reducible apply complete_kept
    | split
    | (with_reducible refine Kept.upd ?_ ?_; rotate_left; exact rfl)
    | ((fail_if_no_progress extract_lets +onlyGivenNames x); first
        | refine Kept.cut (t := x) ?_ ?_
        | refine Kept.cut (t := x.2) ?_ ?_
        | refine Kept.cut (t := x.2.2) ?_ ?_
        | (have hs : Sil := x; clear hs; unfold x)
        | (have hs : State → State := x; clear hs; unfold x)
        | (have hs : Nat → State → State := x; clear hs; unfold x)
        | clear_value x)

theorem stopLoad_kept {s0 s : State} {a0 a1 a2} (h : Kept s0 s) : Kept s0 (stopLoad a0 a1 a2 s) := by
  unfold stopLoad
  repeat' first
    | with_reducible assumption
    | (intro hx; clear_value x)
    | intro _
    | with_reducible apply enterLoad_kept
    | with_reducible apply modLoad_kept
    | with_reducible apply endLoad_kept
    | split
    | ((fail_if_no_progress extract_lets +onlyGivenNames x); first
        | refine Kept.cut (t := x) ?_ ?_
        | refine Kept.cut (t := x.2) ?_ ?_
        | refine Kept.cut (t := x.2.2) ?_ ?_
        | (have hs : Sil := x; clear hs; unfold x)
        | (have hs : State → State := x; clear hs; unfold x)
        | (have hs : Nat → State → State := x; clear hs; unfold x)
        | clear_value x)

theorem stoppedLoad_kept {s0 s : State} {a0} (h : Kept s0 s) : Kept s0 (stoppedLoad a0 s) := by
  unfold stoppedLoad
  repeat' first
    | with_reducible assumption
    | with_reducible apply endLoad_kept
    | split

theorem failLoad_kept {s0 s : State} {a0 a1 a2} (h : Kept s0 s) : Kept s0 (failLoad a0 a1 a2 s) := by
  unfold failLoad
  repeat' first
    | with_reducible assumption
    | (intro hx; clear_value x)
    | with_reducible apply enterLoad_kept
    | with_reducible apply stopLoad_kept
    | with_reducible apply logE_kept
    | ((fail_if_no_progress extract_lets +onlyGivenNames x); first
        | refine Kept.cut (t := x) ?_ ?_
        | refine Kept.cut (t := x.2) ?_ ?_
        | refine Kept.cut (t := x.2.2) ?_ ?_
        | (have hs : Sil := x; clear hs; unfold x)
        | (have hs : State → State := x; clear hs; unfold x)
        | (have hs : Nat → State → State := x; clear hs; unfold x)
        | clear_value x)

theorem enterCtx_kept {s0 s : State} {a0 a1 a2 a3 a4 a5 a6} (h : Kept s0 s) : Kept s0 (enterCtx a0 a1 a2 a3 a4 a5 a6 s) := by
  unfold enterCtx
  repeat' first
    | with_reducible assumption
    | with_reducible apply modCtx_kept

theorem startCtxs_kept {s0 s : State} {a0} (h : Kept s0 s) : Kept s0 (startCtxs a0 s) := by
  unfold startCtxs
  repeat' first
    | with_reducible assumption
    | (intro hx; clear_value x)
    | intro _
    | with_reducible apply foldS_kept
    | with_reducible apply foldSPair_kept
    | with_reducible apply enterCtx_kept
    | with_reducible apply noteReady_kept
    | ((fail_if_no_progress extract_lets +onlyGivenNames x); first
        | refine Kept.cut (t := x) ?_ ?_
        | refine Kept.cut (t := x.2) ?_ ?_
        | refine Kept.cut (t := x.2.2) ?_ ?_
        | (have hs : Sil := x; clear hs; unfold x)
        | (have hs : State → State := x; clear hs; unfold x)
        | (have hs : Nat → State → State := x; clear hs; unfold x)
        | clear_value x)

theorem passOn_kept {s0 s : State} {a0 a1 a2 a3} (h : Kept s0 s) : Kept s0 (passOn a0 a1 a2 a3 s) := by
  unfold passOn
  repeat' first
    | with_reducible assumption
    | (with_reducible refine Kept.upd ?_ ?_; rotate_left; exact rfl)

theorem setupQps_kept {s0 s : State} {a0 a1} (h : Kept s0 s) : Kept s0 (setupQps a0 a1 s) := by
  unfold setupQps
  repeat' first
    | with_reducible assumption
    | intro _
    | with_reducible apply foldS_kept
    | (with_reducible refine Kept.upd ?_ ?_; rotate_left; exact rfl)

theorem setupPeer_kept {s0 s : State} {a0 a1 a2} (h : Kept s0 s) : Kept s0 (setupPeer a0 a1 a2 s) := by
  unfold setupPeer
  repeat' first
    | with_reducible assumption
    | (intro hx; clear_value x)
    | intro _
    | with_reducible apply foldS_kept
    | with_reducible apply foldSPair_kept
    | (with_reducible refine Kept.upd ?_ ?_; rotate_left; exact rfl)
    | ((fail_if_no_progress extract_lets +onlyGivenNames x); first
        | refine Kept.cut (t := x) ?_ ?_
        | refine Kept.cut (t := x.2) ?_ ?_
        | refine Kept.cut (t := x.2.2) ?_ ?_
        | (have hs : Sil := x; clear hs; unfold x)
        | (have hs : State → State := x; clear hs; unfold x)
        | (have hs : Nat → State → State := x; clear hs; unfold x)
        | clear_value x)

theorem joinJob_kept {s0 s : State} {a0 a1 a2 a3} (h : Kept s0 s) : Kept s0 (joinJob a0 a1 a2 a3 s) := by
  unfold joinJob
  repeat' first
    | with_reducible assumption
    | split
    | (with_reducible refine Kept.upd ?_ ?_; rotate_left; exact rfl)

theorem keepAdapters_kept {s0 s : State} {a0 a1} (h : Kept s0 s) : Kept s0 (keepAdapters a0 a1 s) := by
  unfold keepAdapters
  repeat' first
    | with_reducible assumption
    | (intro hx; clear_value x)
    | intro _
    | with_reducible apply foldS_kept
    | with_reducible apply foldSPair_kept
    | split
    | (with_reducible refine Kept.upd ?_ ?_; rotate_left; exact rfl)
    | ((fail_if_no_progress extract_lets +onlyGivenNames x); first
        | refine Kept.cut (t := x) ?_ ?_
        | refine Kept.cut (t := x.2) ?_ ?_
        | refine Kept.cut (t := x.2.2) ?_ ?_
        | (have hs : Sil := x; clear hs; unfold x)
        | (have hs : State → State := x; clear hs; unfold x)
        | (have hs : Nat → State → State := x; clear hs; unfold x)
        | clear_value x)

theorem placeAdapter_kept {s0 s : State} {a0 a1 a2} (h : Kept s0 s) : Kept s0 (placeAdapter a0 a1 a2 s) := by
  unfold placeAdapter
  repeat' first
    | with_reducible assumption
    | intro _
    | with_reducible apply foldSPair_kept
    | with_reducible apply zeroRange_kept
    | with_reducible apply wrBytes_kept
    | (with_reducible refine Kept.upd ?_ ?_; rotate_left; exact rfl)

theorem placeValues_kept {s0 s : State} {a0 a1 a2} (h : Kept s0 s) : Kept s0 (placeValues a0 a1 a2 s) := by
  unfold placeValues
  repeat' first
    | with_reducible assumption
    | (intro hx; clear_value x)
    | intro _
    | with_reducible apply foldS_kept
    | with_reducible apply whenS_kept
    | with_reducible apply foldSPair_kept
    | with_reducible apply wrBytes_kept
    | with_reducible apply placeAdapter_kept
    | ((fail_if_no_progress extract_lets +onlyGivenNames x); first
        | refine Kept.cut (t := x) ?_ ?_
        | refine Kept.cut (t := x.2) ?_ ?_
        | refine Kept.cut (t := x.2.2) ?_ ?_
        | (have hs : Sil := x; clear hs; unfold x)
        | (have hs : State → State := x; clear hs; unfold x)
        | (have hs : Nat → State → State := x; clear hs; unfold x)
        | clear_value x)

theorem activate_kept {s0 s : State} {a0 a1 a2} (h : Kept s0 s) : Kept s0 (activate a0 a1 a2 s) := by
  unfold activate
  repeat' first
    | with_reducible assumption
    | (intro hx; clear_value x)
    | intro _
    | with_reducible apply whenS_kept
    | with_reducible apply modCx_kept
    | with_reducible apply joinJob_kept
    | with_reducible apply setupQps_kept
    | with_reducible apply passOn_kept
    | with_reducible apply keepAdapters_kept
    | with_reducible apply placeValues_kept
    | with_reducible apply startCtxs_kept
    | with_reducible apply logE_kept
    | with_reducible apply startPlans_kept
    | split
    | (with_reducible refine Kept.upd ?_ ?_; rotate_left; exact rfl)
    | ((fail_if_no_progress extract_lets +onlyGivenNames x); first
        | refine Kept.cut (t := x) ?_ ?_
        | refine Kept.cut (t := x.2) ?_ ?_
        | refine Kept.cut (t := x.2.2) ?_ ?_
        | (have hs : Sil := x; clear hs; unfold x)
        | (have hs : State → State := x; clear hs; unfold x)
        | (have hs : Nat → State → State := x; clear hs; unfold x)
        | clear_value x)

theorem loadAdvance_kept {s0 s : State} {a0} (h : Kept s0 s) : Kept s0 (loadAdvance a0 s) := by
  unfold loadAdvance
  repeat' first
    | with_reducible assumption
    | (intro hx; clear_value x)
    | intro _
    | with_reducible apply whenS_kept
    | with_reducible apply modCx_kept
    | with_reducible apply activate_kept
    | with_reducible apply complete_kept
    | with_reducible apply modLoad_kept
    | split
    | ((fail_if_no_progress extract_lets +onlyGivenNames x); first
        | refine Kept.cut (t := x) ?_ ?_
        | refine Kept.cut (t := x.2) ?_ ?_
        | refine Kept.cut (t := x.2.2) ?_ ?_
        | (have hs : Sil := x; clear hs; unfold x)
        | (have hs : State → State := x; clear hs; unfold x)
        | (have hs : Nat → State → State := x; clear hs; unfold x)
        | clear_value x)

theorem loadMark_kept {s0 s : State} {a0 a1 a2 a3} (h : Kept s0 s) : Kept s0 (loadMark a0 a1 a2 a3 s) := by
  unfold loadMark
  repeat' first
    | with_reducible assumption
    | with_reducible apply loadAdvance_kept
    | with_reducible apply progress_kept
    | with_reducible apply modLoad_kept
    | split

end Sys2Proof.Machine
end

