-- ==== Sys2Proof/Laws/KeptCal.lean ====
section
/-! SUPPORT. What `Kept` says is kept by the operations of Machine/Cal.lean. -/

-- One proof at a time: proofs elaborated side by side wait on each other, and each that waits holds a thread's stack.
set_option Elab.async false

namespace Sys2Proof.Machine

open Sys2Proof

theorem requestSoak_kept {s0 s : State} {a0 a1} (h : Kept s0 s) : Kept s0 (requestSoak a0 a1 s) := by
  unfold requestSoak
  repeat' first
    | with_reducible assumption
    | with_reducible apply modCal_kept
    | split
    | (with_reducible refine Kept.upd ?_ ?_; rotate_left; exact rfl)

theorem refreshNow_kept {s0 s : State} {a0} (h : Kept s0 s) : Kept s0 (refreshNow a0 s) := modTl_kept h

theorem calOor_kept {s0 s : State} {a0} (h : Kept s0 s) : Kept s0 (calOor a0 s) := by
  unfold calOor
  repeat' first
    | with_reducible assumption
    | intro _
    | with_reducible apply whenS_kept
    | with_reducible apply calLog_kept
    | with_reducible apply refreshNow_kept
    | with_reducible apply setEv_kept

theorem applyFit_kept {s0 s : State} {a0 a1 a2} (h : Kept s0 s) : Kept s0 (applyFit a0 a1 a2 s) := by
  unfold applyFit
  repeat' first
    | with_reducible assumption
    | (intro hx; clear_value x)
    | intro _
    | with_reducible apply foldS_kept
    | with_reducible apply whenS_kept
    | with_reducible apply foldSPair_kept
    | with_reducible apply modTl_kept
    | with_reducible apply calOor_kept
    | with_reducible apply refreshNow_kept
    | split
    | (with_reducible refine Kept.upd ?_ ?_; rotate_left; exact rfl)
    | ((fail_if_no_progress extract_lets +onlyGivenNames x); first
        | refine Kept.cut (t := x) ?_ ?_
        | refine Kept.cut (t := x.2) ?_ ?_
        | refine Kept.cut (t := x.2.2) ?_ ?_
        | (have hs : Sil := x; clear hs; unfold x)
        | (have hs : State → State := x; clear hs; unfold x)
        | (have hs : Nat → State → State := x; clear hs; unfold x)
        | clear_value x)

theorem loadTrim_kept {s0 s : State} {a0} (h : Kept s0 s) : Kept s0 (loadTrim a0 s) := by
  unfold loadTrim
  repeat' first
    | with_reducible assumption
    | intro _
    | with_reducible apply whenS_kept
    | with_reducible apply setEv_kept
    | with_reducible apply resetReg_kept

theorem execProbePass_kept {s0 s : State} {a0 a1 a2 a3 a4 a5 a6} (h : Kept s0 s) :
    ∃ u, execProbePass a0 a1 a2 a3 a4 a5 a6 s = .next u ∧ Kept s0 u := by
  unfold execProbePass done
  refine ⟨_, rfl, ?_⟩
  repeat' first
    | with_reducible assumption
    | (intro hx; clear_value x)
    | intro _
    | with_reducible apply whenS_kept
    | with_reducible apply loadTrim_kept
    | with_reducible apply modTile_kept
    | split
    | (with_reducible refine Kept.upd ?_ ?_; rotate_left; exact rfl)
    | ((fail_if_no_progress extract_lets +onlyGivenNames x); first
        | refine Kept.cut (t := x) ?_ ?_
        | refine Kept.cut (t := x.2) ?_ ?_
        | refine Kept.cut (t := x.2.2) ?_ ?_
        | (have hs : Sil := x; clear hs; unfold x)
        | (have hs : State → State := x; clear hs; unfold x)
        | (have hs : Nat → State → State := x; clear hs; unfold x)
        | clear_value x)

theorem clearProbes_kept {s0 s : State} {a0} (h : Kept s0 s) : Kept s0 (clearProbes a0 s) := by
  unfold clearProbes
  repeat' first
    | with_reducible assumption
    | intro _
    | (with_reducible refine Kept.upd ?_ ?_; rotate_left; exact rfl)

theorem commitProbes_kept {s0 s : State} {a0} (h : Kept s0 s) : Kept s0 (commitProbes a0 s) := by
  unfold commitProbes
  repeat' first
    | with_reducible assumption
    | (intro hx; clear_value x)
    | intro _
    | with_reducible apply foldS_kept
    | with_reducible apply foldSPair_kept
    | (with_reducible refine Kept.upd ?_ ?_; rotate_left; exact rfl)
    | ((fail_if_no_progress extract_lets +onlyGivenNames x); first
        | refine Kept.cut (t := x) ?_ ?_
        | refine Kept.cut (t := x.2) ?_ ?_
        | refine Kept.cut (t := x.2.2) ?_ ?_
        | (have hs : Sil := x; clear hs; unfold x)
        | (have hs : State → State := x; clear hs; unfold x)
        | (have hs : Nat → State → State := x; clear hs; unfold x)
        | clear_value x)

theorem haltProg_kept {s0 s : State} {a0 a1} (h : Kept s0 s) : Kept s0 (haltProg a0 a1 s) := by
  unfold haltProg
  repeat' first
    | with_reducible assumption
    | with_reducible apply dropProg_kept
    | with_reducible apply modTl_kept
    | with_reducible apply failLoad_kept
    | split
    | (with_reducible refine Kept.upd ?_ ?_; rotate_left; exact rfl)

theorem fenceProg_kept {s0 s : State} {a0 a1} (h : Kept s0 s) : Kept s0 (fenceProg a0 a1 s) := by
  unfold fenceProg
  repeat' first
    | with_reducible assumption
    | with_reducible apply stopLoad_kept
    | with_reducible apply haltProg_kept
    | split

theorem askRowStep_kept {s0 s : State} {a0 a1} (h : Kept s0 s) : Kept s0 (askRowStep a0 a1 s) := by
  unfold askRowStep
  repeat' first
    | with_reducible assumption
    | (intro hx; clear_value x)
    | intro _
    | with_reducible apply fenceProg_kept
    | with_reducible apply refuseReq_kept
    | with_reducible apply setPending_kept
    | with_reducible apply modTile_kept
    | split
    | ((fail_if_no_progress extract_lets +onlyGivenNames x); first
        | refine Kept.cut (t := x) ?_ ?_
        | refine Kept.cut (t := x.2) ?_ ?_
        | refine Kept.cut (t := x.2.2) ?_ ?_
        | (have hs : Sil := x; clear hs; unfold x)
        | (have hs : State → State := x; clear hs; unfold x)
        | (have hs : Nat → State → State := x; clear hs; unfold x)
        | clear_value x)

theorem execProgramOperationStart_kept {s0 s : State} {a0 a1} (h : Kept s0 s) :
    ∃ u, execProgramOperationStart a0 a1 s = .next u ∧ Kept s0 u := by
  unfold execProgramOperationStart done
  refine ⟨_, rfl, ?_⟩
  repeat' first
    | with_reducible assumption
    | (intro hx; clear_value x)
    | intro _
    | with_reducible apply askRowStep_kept
    | with_reducible apply setProg_kept
    | split
    | (with_reducible refine Kept.upd ?_ ?_; rotate_left; exact rfl)
    | ((fail_if_no_progress extract_lets +onlyGivenNames x); first
        | refine Kept.cut (t := x) ?_ ?_
        | refine Kept.cut (t := x.2) ?_ ?_
        | refine Kept.cut (t := x.2.2) ?_ ?_
        | (have hs : Sil := x; clear hs; unfold x)
        | (have hs : State → State := x; clear hs; unfold x)
        | (have hs : Nat → State → State := x; clear hs; unfold x)
        | clear_value x)

theorem putRow_kept {s0 s : State} {a0 a1 a2 a3} (h : Kept s0 s) : Kept s0 (putRow a0 a1 a2 a3 s) := by
  unfold putRow
  repeat' first
    | with_reducible assumption
    | (intro hx; clear_value x)
    | intro _
    | with_reducible apply foldS_kept
    | with_reducible apply foldSPair_kept
    | (with_reducible refine Kept.upd ?_ ?_; rotate_left; exact rfl)
    | ((fail_if_no_progress extract_lets +onlyGivenNames x); first
        | refine Kept.cut (t := x) ?_ ?_
        | refine Kept.cut (t := x.2) ?_ ?_
        | refine Kept.cut (t := x.2.2) ?_ ?_
        | (have hs : Sil := x; clear hs; unfold x)
        | (have hs : State → State := x; clear hs; unfold x)
        | (have hs : Nat → State → State := x; clear hs; unfold x)
        | clear_value x)

theorem startRow_kept {s0 s : State} {a0 a1} {a2 : State → State} (h : Kept s0 s) (hf : ∀ s, Kept s0 s → Kept s0 (a2 s)) :
    Kept s0 (startRow a0 a1 a2 s) := by
  unfold startRow
  repeat' first
    | with_reducible assumption
    | (intro hx; clear_value x)
    | intro _
    | with_reducible apply hf
    | with_reducible apply takeToken_kept
    | with_reducible apply modTile_kept
    | with_reducible apply admitHeld_kept
    | split
    | ((fail_if_no_progress extract_lets +onlyGivenNames x); first
        | refine Kept.cut (t := x) ?_ ?_
        | refine Kept.cut (t := x.2) ?_ ?_
        | refine Kept.cut (t := x.2.2) ?_ ?_
        | (have hs : Sil := x; clear hs; unfold x)
        | (have hs : State → State := x; clear hs; unfold x)
        | (have hs : Nat → State → State := x; clear hs; unfold x)
        | clear_value x)

theorem programRow_kept {s0 s : State} {a0 a1 a2 a3} (h : Kept s0 s) : Kept s0 (programRow a0 a1 a2 a3 s) := by
  unfold programRow
  repeat' first
    | with_reducible assumption
    | intro _
    | (with_reducible unfold id)
    | with_reducible apply haltProg_kept
    | with_reducible apply calLog_kept
    | with_reducible apply setEv_kept
    | with_reducible apply startRow_kept
    | with_reducible apply putRow_kept
    | split

theorem execProgramRowStep_kept {s0 s : State} {a0 a1 a2 a3} (h : Kept s0 s) :
    ∃ u, execProgramRowStep a0 a1 a2 a3 s = .next u ∧ Kept s0 u := by
  unfold execProgramRowStep done
  refine ⟨_, rfl, ?_⟩
  repeat' first
    | with_reducible assumption
    | (intro hx; clear_value x)
    | intro _
    | (with_reducible unfold id)
    | with_reducible apply startRow_kept
    | with_reducible apply programRow_kept
    | split
    | ((fail_if_no_progress extract_lets +onlyGivenNames x); first
        | refine Kept.cut (t := x) ?_ ?_
        | refine Kept.cut (t := x.2) ?_ ?_
        | refine Kept.cut (t := x.2.2) ?_ ?_
        | (have hs : Sil := x; clear hs; unfold x)
        | (have hs : State → State := x; clear hs; unfold x)
        | (have hs : Nat → State → State := x; clear hs; unfold x)
        | clear_value x)

theorem progFail_kept {s0 s : State} {a0 a1} (h : Kept s0 s) : Kept s0 (progFail a0 a1 s) := by
  unfold progFail
  repeat' first
    | with_reducible assumption
    | (intro hx; clear_value x)
    | intro _
    | with_reducible apply whenS_kept
    | with_reducible apply calLog_kept
    | with_reducible apply setEv_kept
    | with_reducible apply setWear_kept
    | with_reducible apply haltProg_kept
    | (with_reducible refine Kept.upd ?_ ?_; rotate_left; exact rfl)
    | ((fail_if_no_progress extract_lets +onlyGivenNames x); first
        | refine Kept.cut (t := x) ?_ ?_
        | refine Kept.cut (t := x.2) ?_ ?_
        | refine Kept.cut (t := x.2.2) ?_ ?_
        | (have hs : Sil := x; clear hs; unfold x)
        | (have hs : State → State := x; clear hs; unfold x)
        | (have hs : Nat → State → State := x; clear hs; unfold x)
        | clear_value x)

theorem nextRow_kept {s0 s : State} {a0 a1} (h : Kept s0 s) : Kept s0 (nextRow a0 a1 s) := by
  unfold nextRow
  repeat' first
    | with_reducible assumption
    | (intro hx; clear_value x)
    | intro _
    | with_reducible apply whenS_kept
    | with_reducible apply askRowStep_kept
    | with_reducible apply setProg_kept
    | (with_reducible refine Kept.upd ?_ ?_; rotate_left; exact rfl)
    | ((fail_if_no_progress extract_lets +onlyGivenNames x); first
        | refine Kept.cut (t := x) ?_ ?_
        | refine Kept.cut (t := x.2) ?_ ?_
        | refine Kept.cut (t := x.2.2) ?_ ?_
        | (have hs : Sil := x; clear hs; unfold x)
        | (have hs : State → State := x; clear hs; unfold x)
        | (have hs : Nat → State → State := x; clear hs; unfold x)
        | clear_value x)

theorem rowEnded_kept {s0 s : State} {a0 a1 a2} (h : Kept s0 s) : Kept s0 (rowEnded a0 a1 a2 s) := by
  unfold rowEnded
  repeat' first
    | with_reducible assumption
    | (intro hx; clear_value x)
    | intro _
    | (with_reducible unfold id)
    | with_reducible apply whenS_kept
    | with_reducible apply nextRow_kept
    | with_reducible apply askRowStep_kept
    | with_reducible apply setProg_kept
    | with_reducible apply progFail_kept
    | with_reducible apply clearProbes_kept
    | with_reducible apply loadMark_kept
    | split
    | (with_reducible refine Kept.upd ?_ ?_; rotate_left; exact rfl)
    | ((fail_if_no_progress extract_lets +onlyGivenNames x); first
        | refine Kept.cut (t := x) ?_ ?_
        | refine Kept.cut (t := x.2) ?_ ?_
        | refine Kept.cut (t := x.2.2) ?_ ?_
        | (have hs : Sil := x; clear hs; unfold x)
        | (have hs : State → State := x; clear hs; unfold x)
        | (have hs : Nat → State → State := x; clear hs; unfold x)
        | clear_value x)

theorem execProgramRowStepEnd_kept {s0 s : State} {a0 a1 a2} (h : Kept s0 s) :
    ∃ u, execProgramRowStepEnd a0 a1 a2 s = .next u ∧ Kept s0 u := by
  unfold execProgramRowStepEnd done
  refine ⟨_, rfl, ?_⟩
  repeat' first
    | with_reducible assumption
    | (intro hx; clear_value x)
    | intro _
    | with_reducible apply returnToken_kept
    | with_reducible apply modTile_kept
    | with_reducible apply stoppedLoad_kept
    | with_reducible apply haltProg_kept
    | with_reducible apply rowEnded_kept
    | split
    | ((fail_if_no_progress extract_lets +onlyGivenNames x); first
        | refine Kept.cut (t := x) ?_ ?_
        | refine Kept.cut (t := x.2) ?_ ?_
        | refine Kept.cut (t := x.2.2) ?_ ?_
        | (have hs : Sil := x; clear hs; unfold x)
        | (have hs : State → State := x; clear hs; unfold x)
        | (have hs : Nat → State → State := x; clear hs; unfold x)
        | clear_value x)

theorem keepTl_kept {s0 s : State} {a0 a1 a2 a3 a4} (h : Kept s0 s) : Kept s0 (keepTl a0 a1 a2 a3 a4 s) := by
  unfold keepTl
  repeat' first
    | with_reducible assumption
    | (intro hx; clear_value x)
    | intro _
    | with_reducible apply putShadow_kept
    | with_reducible apply clearProbes_kept
    | with_reducible apply setProg_kept
    | with_reducible apply loadMark_kept
    | (with_reducible refine Kept.upd ?_ ?_; rotate_left; exact rfl)
    | ((fail_if_no_progress extract_lets +onlyGivenNames x); first
        | refine Kept.cut (t := x) ?_ ?_
        | refine Kept.cut (t := x.2) ?_ ?_
        | refine Kept.cut (t := x.2.2) ?_ ?_
        | (have hs : Sil := x; clear hs; unfold x)
        | (have hs : State → State := x; clear hs; unfold x)
        | (have hs : Nat → State → State := x; clear hs; unfold x)
        | clear_value x)

theorem readBackFailed_kept {s0 s : State} {a0 a1 a2 a3 a4} (h : Kept s0 s) : Kept s0 (readBackFailed a0 a1 a2 a3 a4 s) := by
  unfold readBackFailed
  repeat' first
    | with_reducible assumption
    | (intro hx; clear_value x)
    | (with_reducible unfold id)
    | with_reducible apply dropProg_kept
    | with_reducible apply calLog_kept
    | with_reducible apply failLoad_kept
    | with_reducible apply setEv_kept
    | with_reducible apply askPayload_kept
    | with_reducible apply loadMark_kept
    | split
    | ((fail_if_no_progress extract_lets +onlyGivenNames x); first
        | refine Kept.cut (t := x) ?_ ?_
        | refine Kept.cut (t := x.2) ?_ ?_
        | refine Kept.cut (t := x.2.2) ?_ ?_
        | (have hs : Sil := x; clear hs; unfold x)
        | (have hs : State → State := x; clear hs; unfold x)
        | (have hs : Nat → State → State := x; clear hs; unfold x)
        | clear_value x)

theorem execReadBackDone_kept {s0 s : State} {a0 a1 a2} (h : Kept s0 s) :
    ∃ u, execReadBackDone a0 a1 a2 s = .next u ∧ Kept s0 u := by
  unfold execReadBackDone done
  refine ⟨_, rfl, ?_⟩
  repeat' first
    | with_reducible assumption
    | (intro hx; clear_value x)
    | intro _
    | with_reducible apply keepTl_kept
    | with_reducible apply readBackFailed_kept
    | split
    | ((fail_if_no_progress extract_lets +onlyGivenNames x); first
        | refine Kept.cut (t := x) ?_ ?_
        | refine Kept.cut (t := x.2) ?_ ?_
        | refine Kept.cut (t := x.2.2) ?_ ?_
        | (have hs : Sil := x; clear hs; unfold x)
        | (have hs : State → State := x; clear hs; unfold x)
        | (have hs : Nat → State → State := x; clear hs; unfold x)
        | clear_value x)

theorem armCheck_kept {s0 s : State} {a0 a1} (h : Kept s0 s) : Kept s0 (armCheck a0 a1 s) := by
  unfold armCheck
  repeat' first
    | with_reducible assumption
    | (with_reducible refine Kept.upd ?_ ?_; rotate_left; exact rfl)

theorem findingsAfter_kept {s0 s : State} {a0 a1} (h : Kept s0 s) : Kept s0 (findingsAfter a0 a1 s) := by
  unfold findingsAfter
  repeat' first
    | with_reducible assumption
    | intro _
    | with_reducible apply foldS_kept
    | with_reducible apply armCheck_kept
    | (with_reducible refine Kept.upd ?_ ?_; rotate_left; exact rfl)

theorem wearDone_kept {s0 s : State} {a0 a1} (h : Kept s0 s) : Kept s0 (wearDone a0 a1 s) := by
  unfold wearDone
  repeat' first
    | with_reducible assumption
    | with_reducible apply setWear_kept

theorem programmedNow_kept {s0 s : State} {a0} (h : Kept s0 s) : Kept s0 (programmedNow a0 s) := by
  unfold programmedNow
  repeat' first
    | with_reducible assumption
    | intro _
    | with_reducible apply modTl_kept

theorem closeTl_kept {s0 s : State} {a0 a1 a2} (h : Kept s0 s) : Kept s0 (closeTl a0 a1 a2 s) := by
  unfold closeTl
  repeat' first
    | with_reducible assumption
    | (intro hx; clear_value x)
    | intro _
    | with_reducible apply whenS_kept
    | with_reducible apply wearDone_kept
    | with_reducible apply endProg_kept
    | with_reducible apply applyFit_kept
    | with_reducible apply programmedNow_kept
    | with_reducible apply findingsAfter_kept
    | with_reducible apply calLog_kept
    | with_reducible apply setValid_kept
    | with_reducible apply loadMark_kept
    | split
    | (with_reducible refine Kept.upd ?_ ?_; rotate_left; exact rfl)
    | ((fail_if_no_progress extract_lets +onlyGivenNames x); first
        | refine Kept.cut (t := x) ?_ ?_
        | refine Kept.cut (t := x.2) ?_ ?_
        | refine Kept.cut (t := x.2.2) ?_ ?_
        | (have hs : Sil := x; clear hs; unfold x)
        | (have hs : State → State := x; clear hs; unfold x)
        | (have hs : Nat → State → State := x; clear hs; unfold x)
        | clear_value x)

theorem execClosingCalibrationDone_kept {s0 s : State} {a0 a1} (h : Kept s0 s) :
    ∃ u, execClosingCalibrationDone a0 a1 s = .next u ∧ Kept s0 u := by
  unfold execClosingCalibrationDone done
  refine ⟨_, rfl, ?_⟩
  repeat' first
    | with_reducible assumption
    | (intro hx; clear_value x)
    | with_reducible apply haltProg_kept
    | with_reducible apply calLog_kept
    | with_reducible apply setEv_kept
    | with_reducible apply closeTl_kept
    | with_reducible apply commitProbes_kept
    | split
    | ((fail_if_no_progress extract_lets +onlyGivenNames x); first
        | refine Kept.cut (t := x) ?_ ?_
        | refine Kept.cut (t := x.2) ?_ ?_
        | refine Kept.cut (t := x.2.2) ?_ ?_
        | (have hs : Sil := x; clear hs; unfold x)
        | (have hs : State → State := x; clear hs; unfold x)
        | (have hs : Nat → State → State := x; clear hs; unfold x)
        | clear_value x)

theorem bisqueTile_kept {s0 s : State} {a0} (h : Kept s0 s) : Kept s0 (bisqueTile a0 s) := by
  unfold bisqueTile
  repeat' first
    | with_reducible assumption
    | (intro hx; clear_value x)
    | intro _
    | with_reducible apply foldS_kept
    | with_reducible apply whenS_kept
    | with_reducible apply foldSPair_kept
    | with_reducible apply commitProbes_kept
    | with_reducible apply wrf_kept
    | with_reducible apply loadTrim_kept
    | with_reducible apply modTl_kept
    | with_reducible apply calOor_kept
    | split
    | (with_reducible refine Kept.upd ?_ ?_; rotate_left; exact rfl)
    | ((fail_if_no_progress extract_lets +onlyGivenNames x); first
        | refine Kept.cut (t := x) ?_ ?_
        | refine Kept.cut (t := x.2) ?_ ?_
        | refine Kept.cut (t := x.2.2) ?_ ?_
        | (have hs : Sil := x; clear hs; unfold x)
        | (have hs : State → State := x; clear hs; unfold x)
        | (have hs : Nat → State → State := x; clear hs; unfold x)
        | clear_value x)

theorem showBisque_kept {s0 s : State} (h : Kept s0 s) : Kept s0 (showBisque s) := by
  unfold showBisque
  repeat' first
    | with_reducible assumption
    | with_reducible apply wrf_kept

theorem execBisqueCalibration_kept {s0 s : State} {a0 a1} (h : Kept s0 s) :
    ∃ u, execBisqueCalibration a0 a1 s = .next u ∧ Kept s0 u := by
  unfold execBisqueCalibration done
  refine ⟨_, rfl, ?_⟩
  repeat' first
    | with_reducible assumption
    | (intro hx; clear_value x)
    | intro _
    | with_reducible apply foldS_kept
    | with_reducible apply foldSPair_kept
    | with_reducible apply bisqueTile_kept
    | with_reducible apply showBisque_kept
    | with_reducible apply modCal_kept
    | split
    | ((fail_if_no_progress extract_lets +onlyGivenNames x); first
        | refine Kept.cut (t := x) ?_ ?_
        | refine Kept.cut (t := x.2) ?_ ?_
        | refine Kept.cut (t := x.2.2) ?_ ?_
        | (have hs : Sil := x; clear hs; unfold x)
        | (have hs : State → State := x; clear hs; unfold x)
        | (have hs : Nat → State → State := x; clear hs; unfold x)
        | clear_value x)

theorem execReferenceTrace_kept {s0 s : State} {a0 a1 a2} (h : Kept s0 s) :
    ∃ u, execReferenceTrace a0 a1 a2 s = .next u ∧ Kept s0 u := by
  unfold execReferenceTrace done
  refine ⟨_, rfl, ?_⟩
  repeat' first
    | with_reducible assumption
    | intro _
    | with_reducible apply foldS_kept
    | with_reducible apply whenS_kept
    | with_reducible apply foldlPair_kept
    | with_reducible apply wrf_kept
    | with_reducible apply setEv_kept
    | with_reducible apply logE_kept
    | with_reducible apply requestSoak_kept
    | split
    | (with_reducible refine Kept.upd ?_ ?_; rotate_left; exact rfl)

theorem checkBay_kept {s0 s : State} {a0} (h : Kept s0 s) : Kept s0 (checkBay a0 s) := by
  unfold checkBay
  repeat' first
    | with_reducible assumption
    | intro _
    | with_reducible apply foldS_kept
    | with_reducible apply whenS_kept
    | with_reducible apply modTl_kept
    | with_reducible apply requestSoak_kept
    | with_reducible apply modCal_kept
    | split

theorem execDriftTriggerCheck_kept {s0 s : State} (h : Kept s0 s) :
    ∃ u, execDriftTriggerCheck s = .next u ∧ Kept s0 u := by
  unfold execDriftTriggerCheck done
  refine ⟨_, rfl, ?_⟩
  repeat' first
    | with_reducible assumption
    | intro _
    | with_reducible apply foldS_kept
    | with_reducible apply checkBay_kept

theorem startRefresh_kept {s0 s : State} {a0} (h : Kept s0 s) : Kept s0 (startRefresh a0 s) := by
  unfold startRefresh
  repeat' first
    | with_reducible assumption
    | (intro hx; clear_value x)
    | intro _
    | with_reducible apply modTl_kept
    | with_reducible apply refuseProg_kept
    | with_reducible apply requestProg_kept
    | split
    | ((fail_if_no_progress extract_lets +onlyGivenNames x); first
        | refine Kept.cut (t := x) ?_ ?_
        | refine Kept.cut (t := x.2) ?_ ?_
        | refine Kept.cut (t := x.2.2) ?_ ?_
        | (have hs : Sil := x; clear hs; unfold x)
        | (have hs : State → State := x; clear hs; unfold x)
        | (have hs : Nat → State → State := x; clear hs; unfold x)
        | clear_value x)

theorem clearSoak_kept {s0 s : State} {a0} (h : Kept s0 s) : Kept s0 (clearSoak a0 s) := by
  unfold clearSoak
  repeat' first
    | with_reducible assumption
    | (intro hx; clear_value x)
    | intro _
    | with_reducible apply clearProbes_kept
    | ((fail_if_no_progress extract_lets +onlyGivenNames x); first
        | refine Kept.cut (t := x) ?_ ?_
        | refine Kept.cut (t := x.2) ?_ ?_
        | refine Kept.cut (t := x.2.2) ?_ ?_
        | (have hs : Sil := x; clear hs; unfold x)
        | (have hs : State → State := x; clear hs; unfold x)
        | (have hs : Nat → State → State := x; clear hs; unfold x)
        | clear_value x)

theorem execSoakStart_kept {s0 s : State} {a0 a1} (h : Kept s0 s) :
    ∃ u, execSoakStart a0 a1 s = .next u ∧ Kept s0 u := by
  unfold execSoakStart done
  refine ⟨_, rfl, ?_⟩
  repeat' first
    | with_reducible assumption
    | (intro hx; clear_value x)
    | intro _
    | with_reducible apply foldS_kept
    | with_reducible apply foldSPair_kept
    | with_reducible apply modCal_kept
    | with_reducible apply startRefresh_kept
    | with_reducible apply clearSoak_kept
    | split
    | (with_reducible refine Kept.upd ?_ ?_; rotate_left; exact rfl)
    | ((fail_if_no_progress extract_lets +onlyGivenNames x); first
        | refine Kept.cut (t := x) ?_ ?_
        | refine Kept.cut (t := x.2) ?_ ?_
        | refine Kept.cut (t := x.2.2) ?_ ?_
        | (have hs : Sil := x; clear hs; unfold x)
        | (have hs : State → State := x; clear hs; unfold x)
        | (have hs : Nat → State → State := x; clear hs; unfold x)
        | clear_value x)

theorem calibrateBay_kept {s0 s : State} {a0 a1} (h : Kept s0 s) : Kept s0 (calibrateBay a0 a1 s) := by
  unfold calibrateBay
  repeat' first
    | with_reducible assumption
    | intro _
    | with_reducible apply foldS_kept
    | with_reducible apply complete_kept
    | with_reducible apply setCmd_kept
    | split
    | ((fail_if_no_progress extract_lets +onlyGivenNames x); first
        | refine Kept.cut (t := x) ?_ ?_
        | refine Kept.cut (t := x.2) ?_ ?_
        | refine Kept.cut (t := x.2.2) ?_ ?_
        | (have hs : Sil := x; clear hs; unfold x)
        | (have hs : State → State := x; clear hs; unfold x)
        | (have hs : Nat → State → State := x; clear hs; unfold x)
        | clear_value x)

theorem soakTl_kept {s0 s : State} {a0} (h : Kept s0 s) : Kept s0 (soakTl a0 s) := by
  unfold soakTl
  repeat' first
    | with_reducible assumption
    | (intro hx; clear_value x)
    | with_reducible apply calLog_kept
    | with_reducible apply setEv_kept
    | with_reducible apply applyFit_kept
    | with_reducible apply commitProbes_kept
    | split
    | ((fail_if_no_progress extract_lets +onlyGivenNames x); first
        | refine Kept.cut (t := x) ?_ ?_
        | refine Kept.cut (t := x.2) ?_ ?_
        | refine Kept.cut (t := x.2.2) ?_ ?_
        | (have hs : Sil := x; clear hs; unfold x)
        | (have hs : State → State := x; clear hs; unfold x)
        | (have hs : Nat → State → State := x; clear hs; unfold x)
        | clear_value x)

theorem acceptSoak_kept {s0 s : State} {a0 a1} (h : Kept s0 s) : Kept s0 (acceptSoak a0 a1 s) := by
  unfold acceptSoak
  repeat' first
    | with_reducible assumption
    | (intro hx; clear_value x)
    | intro _
    | with_reducible apply foldS_kept
    | with_reducible apply whenS_kept
    | with_reducible apply foldSPair_kept
    | with_reducible apply commitProbes_kept
    | with_reducible apply clearSoak_kept
    | with_reducible apply soakTl_kept
    | with_reducible apply modCal_kept
    | with_reducible apply wrf_kept
    | with_reducible apply logE_kept
    | with_reducible apply setEv_kept
    | with_reducible apply findingsAfter_kept
    | with_reducible apply calibrateBay_kept
    | with_reducible apply requestSoak_kept
    | split
    | (with_reducible refine Kept.upd ?_ ?_; rotate_left; exact rfl)
    | ((fail_if_no_progress extract_lets +onlyGivenNames x); first
        | refine Kept.cut (t := x) ?_ ?_
        | refine Kept.cut (t := x.2) ?_ ?_
        | refine Kept.cut (t := x.2.2) ?_ ?_
        | (have hs : Sil := x; clear hs; unfold x)
        | (have hs : State → State := x; clear hs; unfold x)
        | (have hs : Nat → State → State := x; clear hs; unfold x)
        | clear_value x)

theorem execSoakEnd_kept {s0 s : State} {a0} (h : Kept s0 s) :
    ∃ u, execSoakEnd a0 s = .next u ∧ Kept s0 u := by
  unfold execSoakEnd done
  refine ⟨_, rfl, ?_⟩
  repeat' first
    | with_reducible assumption
    | (intro hx; clear_value x)
    | intro _
    | with_reducible apply acceptSoak_kept
    | with_reducible apply wrf_kept
    | with_reducible apply clearSoak_kept
    | with_reducible apply modCal_kept
    | split
    | ((fail_if_no_progress extract_lets +onlyGivenNames x); first
        | refine Kept.cut (t := x) ?_ ?_
        | refine Kept.cut (t := x.2) ?_ ?_
        | refine Kept.cut (t := x.2.2) ?_ ?_
        | (have hs : Sil := x; clear hs; unfold x)
        | (have hs : State → State := x; clear hs; unfold x)
        | (have hs : Nat → State → State := x; clear hs; unfold x)
        | clear_value x)

theorem execUtcFlashWrite_kept {s0 s : State} (h : Kept s0 s) :
    ∃ u, execUtcFlashWrite s = .next u ∧ Kept s0 u := by
  unfold execUtcFlashWrite done
  refine ⟨_, rfl, ?_⟩
  repeat' first
    | with_reducible assumption
    | intro _
    | with_reducible apply whenS_kept
    | with_reducible apply askFlash_kept

end Sys2Proof.Machine
end

