-- ==== Sys2Proof/Laws/KeptImage.lean ====
section
/-! SUPPORT. What `Kept` says is kept by the operations of Machine/Image.lean. -/

-- One proof at a time: proofs elaborated side by side wait on each other, and each that waits holds a thread's stack.
set_option Elab.async false

namespace Sys2Proof.Machine

open Sys2Proof

theorem validationFailed_kept {s0 s : State} {a0 a1} (h : Kept s0 s) : Kept s0 (validationFailed a0 a1 s) := by
  unfold validationFailed
  repeat' first
    | with_reducible assumption
    | (intro hx; clear_value x)
    | with_reducible apply wr_kept
    | with_reducible apply stopLoad_kept
    | with_reducible apply logE_kept
    | split
    | ((fail_if_no_progress extract_lets +onlyGivenNames x); first
        | refine Kept.cut (t := x) ?_ ?_
        | refine Kept.cut (t := x.2) ?_ ?_
        | refine Kept.cut (t := x.2.2) ?_ ?_
        | (have hs : Sil := x; clear hs; unfold x)
        | (have hs : State → State := x; clear hs; unfold x)
        | (have hs : Nat → State → State := x; clear hs; unfold x)
        | clear_value x)

theorem moveProg_kept {s0 s : State} {a0 a1 a2 a3} (h : Kept s0 s) : Kept s0 (moveProg a0 a1 a2 a3 s) := by
  unfold moveProg
  repeat' first
    | with_reducible assumption
    | (intro hx; clear_value x)
    | intro _
    | with_reducible apply foldS_kept
    | with_reducible apply foldSPair_kept
    | split
    | (with_reducible refine Kept.upd ?_ ?_; rotate_left; exact rfl)
    | ((fail_if_no_progress extract_lets +onlyGivenNames x); first
        | refine Kept.cut (t := x) ?_ ?_
        | refine Kept.cut (t := x.2) ?_ ?_
        | refine Kept.cut (t := x.2.2) ?_ ?_
        | (have hs : Sil := x; clear hs; unfold x)
        | (have hs : State → State := x; clear hs; unfold x)
        | (have hs : Nat → State → State := x; clear hs; unfold x)
        | clear_value x)

theorem compactStore_kept {s0 s : State} {a0} (h : Kept s0 s) : Kept s0 (compactStore a0 s) := by
  unfold compactStore
  repeat' first
    | with_reducible assumption
    | intro _
    | with_reducible apply foldSPair_kept
    | with_reducible apply moveProg_kept
    | split

theorem placeProg_kept {s0 s : State} {a0 a1 a2 a3} (h : Kept s0 s) : Kept s0 (placeProg a0 a1 a2 a3 s) := by
  unfold placeProg
  repeat' first
    | with_reducible assumption
    | (intro hx; clear_value x)
    | intro _
    | with_reducible apply foldS_kept
    | with_reducible apply foldSPair_kept
    | with_reducible apply compactStore_kept
    | with_reducible apply modCtx_kept
    | split
    | (with_reducible refine Kept.upd ?_ ?_; rotate_left; exact rfl)
    | ((fail_if_no_progress extract_lets +onlyGivenNames x); first
        | refine Kept.cut (t := x) ?_ ?_
        | refine Kept.cut (t := x.2) ?_ ?_
        | refine Kept.cut (t := x.2.2) ?_ ?_
        | (have hs : Sil := x; clear hs; unfold x)
        | (have hs : State → State := x; clear hs; unfold x)
        | (have hs : Nat → State → State := x; clear hs; unfold x)
        | clear_value x)

theorem placeMicro_kept {s0 s : State} {a0 a1} (h : Kept s0 s) : Kept s0 (placeMicro a0 a1 s) := by
  unfold placeMicro
  repeat' first
    | with_reducible assumption
    | (intro hx; clear_value x)
    | intro _
    | with_reducible apply foldS_kept
    | with_reducible apply foldSPair_kept
    | with_reducible apply placeProg_kept
    | with_reducible apply modSlot_kept
    | with_reducible apply wrBytes_kept
    | (with_reducible refine Kept.upd ?_ ?_; rotate_left; exact rfl)
    | ((fail_if_no_progress extract_lets +onlyGivenNames x); first
        | refine Kept.cut (t := x) ?_ ?_
        | refine Kept.cut (t := x.2) ?_ ?_
        | refine Kept.cut (t := x.2.2) ?_ ?_
        | (have hs : Sil := x; clear hs; unfold x)
        | (have hs : State → State := x; clear hs; unfold x)
        | (have hs : Nat → State → State := x; clear hs; unfold x)
        | clear_value x)

theorem placeSections_kept {s0 s : State} {a0 a1 a2} (h : Kept s0 s) : Kept s0 (placeSections a0 a1 a2 s) := by
  unfold placeSections
  repeat' first
    | with_reducible assumption
    | (intro hx; clear_value x)
    | intro _
    | with_reducible apply placeValues_kept
    | with_reducible apply placeMicro_kept
    | split
    | ((fail_if_no_progress extract_lets +onlyGivenNames x); first
        | refine Kept.cut (t := x) ?_ ?_
        | refine Kept.cut (t := x.2) ?_ ?_
        | refine Kept.cut (t := x.2.2) ?_ ?_
        | (have hs : Sil := x; clear hs; unfold x)
        | (have hs : State → State := x; clear hs; unfold x)
        | (have hs : Nat → State → State := x; clear hs; unfold x)
        | clear_value x)

theorem prepare_kept {s0 s : State} {a0 a1 a2} (h : Kept s0 s) : Kept s0 (prepare a0 a1 a2 s) := by
  unfold prepare
  repeat' first
    | with_reducible assumption
    | with_reducible apply modLoad_kept
    | with_reducible apply requestProg_kept
    | with_reducible apply dropProg_kept
    | split

theorem acceptImage_kept {s0 s : State} {a0 a1} (h : Kept s0 s) : Kept s0 (acceptImage a0 a1 s) := by
  unfold acceptImage
  repeat' first
    | with_reducible assumption
    | (intro hx; clear_value x)
    | intro _
    | with_reducible apply foldS_kept
    | with_reducible apply foldSPair_kept
    | with_reducible apply claimTiles_kept
    | with_reducible apply modLoad_kept
    | with_reducible apply placeSections_kept
    | with_reducible apply prepare_kept
    | with_reducible apply loadAdvance_kept
    | with_reducible apply askPayloads_kept
    | split
    | (with_reducible refine Kept.upd ?_ ?_; rotate_left; exact rfl)
    | ((fail_if_no_progress extract_lets +onlyGivenNames x); first
        | refine Kept.cut (t := x) ?_ ?_
        | refine Kept.cut (t := x.2) ?_ ?_
        | refine Kept.cut (t := x.2.2) ?_ ?_
        | (have hs : Sil := x; clear hs; unfold x)
        | (have hs : State → State := x; clear hs; unfold x)
        | (have hs : Nat → State → State := x; clear hs; unfold x)
        | clear_value x)

theorem validate_kept {s0 s : State} {a0 a1 a2 a3 a4 a5} (h : Kept s0 s) : Kept s0 (validate a0 a1 a2 a3 a4 a5 s) := by
  unfold validate
  repeat' first
    | with_reducible assumption
    | (intro hx; clear_value x)
    | intro _
    | (with_reducible unfold id)
    | with_reducible apply modLoad_kept
    | with_reducible apply enterLoad_kept
    | with_reducible apply freeRoom_kept
    | with_reducible apply failLoad_kept
    | with_reducible apply validationFailed_kept
    | with_reducible apply acceptImage_kept
    | split
    | ((fail_if_no_progress extract_lets +onlyGivenNames x); first
        | refine Kept.cut (t := x) ?_ ?_
        | refine Kept.cut (t := x.2) ?_ ?_
        | refine Kept.cut (t := x.2.2) ?_ ?_
        | (have hs : Sil := x; clear hs; unfold x)
        | (have hs : State → State := x; clear hs; unfold x)
        | (have hs : Nat → State → State := x; clear hs; unfold x)
        | clear_value x)

theorem askSigned_kept {s0 s : State} {a0 a1 a2 a3} (h : Kept s0 s) : Kept s0 (askSigned a0 a1 a2 a3 s) := by
  unfold askSigned
  repeat' first
    | with_reducible assumption
    | (intro hx; clear_value x)
    | intro _
    | (with_reducible unfold id)
    | with_reducible apply validate_kept
    | with_reducible apply modLoad_kept
    | with_reducible apply setupPeer_kept
    | with_reducible apply putAsk_kept
    | with_reducible apply enterLoad_kept
    | split
    | ((fail_if_no_progress extract_lets +onlyGivenNames x); first
        | refine Kept.cut (t := x) ?_ ?_
        | refine Kept.cut (t := x.2) ?_ ?_
        | refine Kept.cut (t := x.2.2) ?_ ?_
        | (have hs : Sil := x; clear hs; unfold x)
        | (have hs : State → State := x; clear hs; unfold x)
        | (have hs : Nat → State → State := x; clear hs; unfold x)
        | clear_value x)

theorem refuseLoad_kept {s0 s : State} {a0 a1} (h : Kept s0 s) : Kept s0 (refuseLoad a0 a1 s) := by
  unfold refuseLoad
  repeat' first
    | with_reducible assumption
    | with_reducible apply failLoad_kept
    | with_reducible apply addrViolation_kept

theorem fencedLoad_kept {s0 s : State} {a0 a1} (h : Kept s0 s) : Kept s0 (fencedLoad a0 a1 s) := by
  unfold fencedLoad
  repeat' first
    | with_reducible assumption
    | with_reducible apply failLoad_kept
    | with_reducible apply hubXreset_kept

theorem imageRead_kept {s0 s : State} {a0 a1 a2 a3 a4 a5} (h : Kept s0 s) : Kept s0 (imageRead a0 a1 a2 a3 a4 a5 s) := by
  unfold imageRead
  repeat' first
    | with_reducible assumption
    | (intro hx; clear_value x)
    | with_reducible apply fencedLoad_kept
    | with_reducible apply validate_kept
    | with_reducible apply askSigned_kept
    | with_reducible apply refuseLoad_kept
    | with_reducible apply emit_kept
    | split
    | ((fail_if_no_progress extract_lets +onlyGivenNames x); first
        | refine Kept.cut (t := x) ?_ ?_
        | refine Kept.cut (t := x.2) ?_ ?_
        | refine Kept.cut (t := x.2.2) ?_ ?_
        | (have hs : Sil := x; clear hs; unfold x)
        | (have hs : State → State := x; clear hs; unfold x)
        | (have hs : Nat → State → State := x; clear hs; unfold x)
        | clear_value x)

theorem execLoadImageFetched_kept {s0 s : State} {a0 a1 a2 a3} (h : Kept s0 s) :
    ∃ u, execLoadImageFetched a0 a1 a2 a3 s = .next u ∧ Kept s0 u := by
  unfold execLoadImageFetched done
  refine ⟨_, rfl, ?_⟩
  repeat' first
    | with_reducible assumption
    | (intro hx; clear_value x)
    | intro _
    | with_reducible apply withhold_kept
    | with_reducible apply park_kept
    | with_reducible apply imageRead_kept
    | split
    | ((fail_if_no_progress extract_lets +onlyGivenNames x); first
        | refine Kept.cut (t := x) ?_ ?_
        | refine Kept.cut (t := x.2) ?_ ?_
        | refine Kept.cut (t := x.2.2) ?_ ?_
        | (have hs : Sil := x; clear hs; unfold x)
        | (have hs : State → State := x; clear hs; unfold x)
        | (have hs : Nat → State → State := x; clear hs; unfold x)
        | clear_value x)

theorem programTl_kept {s0 s : State} {a0 a1 a2 a3} (h : Kept s0 s) : Kept s0 (programTl a0 a1 a2 a3 s) := by
  unfold programTl
  repeat' first
    | with_reducible assumption
    | (intro hx; clear_value x)
    | with_reducible apply putShadow_kept
    | with_reducible apply failLoad_kept
    | with_reducible apply refuseProg_kept
    | with_reducible apply loadMark_kept
    | with_reducible apply requestProg_kept
    | with_reducible apply dropProg_kept
    | split
    | ((fail_if_no_progress extract_lets +onlyGivenNames x); first
        | refine Kept.cut (t := x) ?_ ?_
        | refine Kept.cut (t := x.2) ?_ ?_
        | refine Kept.cut (t := x.2.2) ?_ ?_
        | (have hs : Sil := x; clear hs; unfold x)
        | (have hs : State → State := x; clear hs; unfold x)
        | (have hs : Nat → State → State := x; clear hs; unfold x)
        | clear_value x)

theorem payloadFor_kept {s0 s : State} {a0 a1 a2 a3} (h : Kept s0 s) : Kept s0 (payloadFor a0 a1 a2 a3 s) := by
  unfold payloadFor
  repeat' first
    | with_reducible assumption
    | intro _
    | with_reducible apply foldS_kept
    | with_reducible apply failLoad_kept
    | with_reducible apply validationFailed_kept
    | with_reducible apply wrBytes_kept
    | with_reducible apply loadAdvance_kept
    | with_reducible apply progress_kept
    | with_reducible apply modLoad_kept
    | with_reducible apply programTl_kept
    | split
    | ((fail_if_no_progress extract_lets +onlyGivenNames x); first
        | refine Kept.cut (t := x) ?_ ?_
        | refine Kept.cut (t := x.2) ?_ ?_
        | refine Kept.cut (t := x.2.2) ?_ ?_
        | (have hs : Sil := x; clear hs; unfold x)
        | (have hs : State → State := x; clear hs; unfold x)
        | (have hs : Nat → State → State := x; clear hs; unfold x)
        | clear_value x)

theorem payloadArrives_kept {s0 s : State} {a0 a1 a2 a3} (h : Kept s0 s) : Kept s0 (payloadArrives a0 a1 a2 a3 s) := by
  unfold payloadArrives
  repeat' first
    | with_reducible assumption
    | intro _
    | with_reducible apply foldS_kept
    | with_reducible apply payloadFor_kept
    | split

theorem findOutcome_kept {s0 s : State} {a0 a1 a2 a3} (h : Kept s0 s) : Kept s0 (findOutcome a0 a1 a2 a3 s) := by
  unfold findOutcome
  repeat' first
    | with_reducible assumption
    | (intro hx; clear_value x)
    | with_reducible apply signalVec_kept
    | with_reducible apply wrf_kept
    | with_reducible apply logE_kept
    | split
    | ((fail_if_no_progress extract_lets +onlyGivenNames x); first
        | refine Kept.cut (t := x) ?_ ?_
        | refine Kept.cut (t := x.2) ?_ ?_
        | refine Kept.cut (t := x.2.2) ?_ ?_
        | (have hs : Sil := x; clear hs; unfold x)
        | (have hs : State → State := x; clear hs; unfold x)
        | (have hs : Nat → State → State := x; clear hs; unfold x)
        | clear_value x)

theorem closeFailedFinding_kept {s0 s : State} {a0 a1} (h : Kept s0 s) : Kept s0 (closeFailedFinding a0 a1 s) := by
  unfold closeFailedFinding
  repeat' first
    | with_reducible assumption
    | intro _
    | with_reducible apply foldS_kept
    | with_reducible apply findOutcome_kept
    | (with_reducible refine Kept.upd ?_ ?_; rotate_left; exact rfl)

theorem startRemap_kept {s0 s : State} {a0} (h : Kept s0 s) : Kept s0 (startRemap a0 s) := by
  unfold startRemap
  repeat' first
    | with_reducible assumption
    | (intro hx; clear_value x)
    | intro _
    | with_reducible apply foldS_kept
    | with_reducible apply foldSPair_kept
    | with_reducible apply refuseProg_kept
    | with_reducible apply requestProg_kept
    | with_reducible apply dropProg_kept
    | split
    | (with_reducible refine Kept.upd ?_ ?_; rotate_left; exact rfl)
    | ((fail_if_no_progress extract_lets +onlyGivenNames x); first
        | refine Kept.cut (t := x) ?_ ?_
        | refine Kept.cut (t := x.2) ?_ ?_
        | refine Kept.cut (t := x.2.2) ?_ ?_
        | (have hs : Sil := x; clear hs; unfold x)
        | (have hs : State → State := x; clear hs; unfold x)
        | (have hs : Nat → State → State := x; clear hs; unfold x)
        | clear_value x)

theorem moveLayer_kept {s0 s : State} {a0 a1 a2} (h : Kept s0 s) : Kept s0 (moveLayer a0 a1 a2 s) := by
  unfold moveLayer
  repeat' first
    | with_reducible assumption
    | (intro hx; clear_value x)
    | with_reducible apply loaderLcfg_kept
    | with_reducible apply clearValid_kept
    | split
    | (with_reducible refine Kept.upd ?_ ?_; rotate_left; exact rfl)
    | ((fail_if_no_progress extract_lets +onlyGivenNames x); first
        | refine Kept.cut (t := x) ?_ ?_
        | refine Kept.cut (t := x.2) ?_ ?_
        | refine Kept.cut (t := x.2.2) ?_ ?_
        | (have hs : Sil := x; clear hs; unfold x)
        | (have hs : State → State := x; clear hs; unfold x)
        | (have hs : Nat → State → State := x; clear hs; unfold x)
        | clear_value x)

theorem execRemapComplete_kept {s0 s : State} {a0} (h : Kept s0 s) :
    ∃ u, execRemapComplete a0 s = .next u ∧ Kept s0 u := by
  unfold execRemapComplete done
  refine ⟨_, rfl, ?_⟩
  repeat' first
    | with_reducible assumption
    | (intro hx; clear_value x)
    | intro _
    | with_reducible apply foldS_kept
    | with_reducible apply foldSPair_kept
    | with_reducible apply moveLayer_kept
    | with_reducible apply setTileState_kept
    | with_reducible apply wrf_kept
    | with_reducible apply closeFailedFinding_kept
    | with_reducible apply logE_kept
    | split
    | (with_reducible refine Kept.upd ?_ ?_; rotate_left; exact rfl)
    | ((fail_if_no_progress extract_lets +onlyGivenNames x); first
        | refine Kept.cut (t := x) ?_ ?_
        | refine Kept.cut (t := x.2) ?_ ?_
        | refine Kept.cut (t := x.2.2) ?_ ?_
        | (have hs : Sil := x; clear hs; unfold x)
        | (have hs : State → State := x; clear hs; unfold x)
        | (have hs : Nat → State → State := x; clear hs; unfold x)
        | clear_value x)

end Sys2Proof.Machine
end

