-- ==== Sys2Proof/Laws/KeptKv.lean ====
section
/-! SUPPORT. What `Kept` says is kept by the operations of Machine/Kv.lean. -/

-- One proof at a time: proofs elaborated side by side wait on each other, and each that waits holds a thread's stack.
set_option Elab.async false

namespace Sys2Proof.Machine

open Sys2Proof

theorem kvmConv_kept {s0 s : State} {a0 a1 a2 a3} (h : Kept s0 s) : Kept s0 (kvmConv a0 a1 a2 a3 s) := by
  unfold kvmConv
  repeat' first
    | with_reducible assumption
    | (intro hx; clear_value x)
    | intro _
    | with_reducible apply whenS_kept
    | with_reducible apply bumpSat_kept
    | with_reducible apply setEv_kept
    | with_reducible apply logE_kept
    | split
    | ((fail_if_no_progress extract_lets +onlyGivenNames x); first
        | refine Kept.cut (t := x) ?_ ?_
        | refine Kept.cut (t := x.2) ?_ ?_
        | refine Kept.cut (t := x.2.2) ?_ ?_
        | (have hs : Sil := x; clear hs; unfold x)
        | (have hs : State → State := x; clear hs; unfold x)
        | (have hs : Nat → State → State := x; clear hs; unfold x)
        | clear_value x)

theorem kvmErr_kept {s0 s : State} {a0 a1 a2 a3 a4} (h : Kept s0 s) : Kept s0 (kvmErr a0 a1 a2 a3 a4 s) := by
  unfold kvmErr
  repeat' first
    | with_reducible assumption
    | with_reducible apply wr_kept
    | with_reducible apply setEv_kept
    | with_reducible apply logE_kept

theorem newDesc_kept {s0 s : State} {a0 a1} (h : Kept s0 s) : Kept s0 (newDesc a0 a1 s).2 := by
  unfold newDesc
  repeat' first
    | with_reducible assumption
    | (with_reducible refine Kept.upd ?_ ?_; rotate_left; exact rfl)

theorem trimSlips_kept {s0 s : State} {a0} (h : Kept s0 s) : Kept s0 (trimSlips a0 s) := by
  unfold trimSlips
  repeat' first
    | with_reducible assumption
    | with_reducible apply dropSlips_kept

theorem clearSlips_kept {s0 s : State} {a0 a1} (h : Kept s0 s) : Kept s0 (clearSlips a0 a1 s) := by
  unfold clearSlips
  repeat' first
    | with_reducible assumption
    | (intro hx; clear_value x)
    | intro _
    | with_reducible apply foldS_kept
    | with_reducible apply foldSPair_kept
    | with_reducible apply wrBytes_kept
    | ((fail_if_no_progress extract_lets +onlyGivenNames x); first
        | refine Kept.cut (t := x) ?_ ?_
        | refine Kept.cut (t := x.2) ?_ ?_
        | refine Kept.cut (t := x.2.2) ?_ ?_
        | (have hs : Sil := x; clear hs; unfold x)
        | (have hs : State → State := x; clear hs; unfold x)
        | (have hs : Nat → State → State := x; clear hs; unfold x)
        | clear_value x)

theorem cutSeq_kept {s0 s : State} {a0 a1} (h : Kept s0 s) : Kept s0 (cutSeq a0 a1 s) := by
  unfold cutSeq
  repeat' first
    | with_reducible assumption
    | (intro hx; clear_value x)
    | intro _
    | with_reducible apply modSeq_kept
    | with_reducible apply clearSlips_kept
    | with_reducible apply trimSlips_kept
    | with_reducible apply dropPages_kept
    | split
    | (with_reducible refine Kept.upd ?_ ?_; rotate_left; exact rfl)
    | ((fail_if_no_progress extract_lets +onlyGivenNames x); first
        | refine Kept.cut (t := x) ?_ ?_
        | refine Kept.cut (t := x.2) ?_ ?_
        | refine Kept.cut (t := x.2.2) ?_ ?_
        | (have hs : Sil := x; clear hs; unfold x)
        | (have hs : State → State := x; clear hs; unfold x)
        | (have hs : Nat → State → State := x; clear hs; unfold x)
        | clear_value x)

theorem reserveSeg_kept {s0 s t : State} {a0 a1 a2} (h : Kept s0 s) (e : reserveSeg a0 a1 a2 s = some t) :
    Kept s0 t := by
  unfold reserveSeg at e
  dsimp only at e
  split at e
  · cases e; exact h
  · exact .ofMap e fun a => modSeq_kept h

theorem reserveDraft_kept {s0 s t : State} {a0 a1 a2} (h : Kept s0 s) (e : reserveDraft a0 a1 a2 s = some t) :
    Kept s0 t := .ofMap e fun a => modBind_kept h

theorem reserveFrame_kept {s0 s t : State} {a0 a1 a2 a3} (h : Kept s0 s) (e : reserveFrame a0 a1 a2 a3 s = some t) :
    Kept s0 t := .ofMap e fun a => modBind_kept h

/-- What every step of a reservation keeps, the whole keeps. -/
theorem reserveAll_kept {s0 s t : State} {fs} (h : Kept s0 s) (e : reserveAll fs s = some t)
    (hf : ∀ f ∈ fs, ∀ s t, Kept s0 s → f s = some t → Kept s0 t) : Kept s0 t := by
  induction fs generalizing s with
  | nil => cases e; exact h
  | cons f fs ih =>
    unfold reserveAll at e
    split at e
    · rename_i u hu
      exact ih (hf f (by simp) _ _ h hu) e fun g hg => hf g (by simp [hg])
    · cases e

theorem reservations_kept {s0 : State} {b x im} : ∀ f ∈ reservations b x im, ∀ s t, Kept s0 s → f s = some t →
    Kept s0 t := by
  intro f hf s t h e
  simp only [reservations, List.mem_flatMap, List.mem_append, List.mem_map] at hf
  obtain ⟨k, _, (⟨g, _, rfl⟩ | hf) | ⟨p, _, rfl⟩⟩ := hf
  · exact reserveSeg_kept h e
  · split at hf
    · obtain rfl := List.mem_singleton.1 hf
      exact reserveDraft_kept h e
    · cases hf
  · exact reserveFrame_kept h e

theorem reserveKeep_kept {s0 s t : State} {x} (h : Kept s0 s) (e : reserveKeep x s = some t) : Kept s0 t := by
  unfold reserveKeep at e
  split at e
  · cases e; exact h
  · exact .ofMap e fun a => modSeq_kept h

theorem startMove_kept {s0 s : State} {a0 a1 a2} (h : Kept s0 s) : Kept s0 (startMove a0 a1 a2 s) := by
  unfold startMove
  repeat' first
    | with_reducible assumption
    | with_reducible apply pin_kept
    | with_reducible apply modDesc_kept

theorem spillPool_kept {s0 s : State} {a0 a1} (h : Kept s0 s) : Kept s0 (spillPool a0 a1 s) := by
  unfold spillPool
  repeat' first
    | with_reducible assumption
    | intro _
    | with_reducible apply foldS_kept
    | with_reducible apply startMove_kept
    | split
    | ((fail_if_no_progress extract_lets +onlyGivenNames x); first
        | refine Kept.cut (t := x) ?_ ?_
        | refine Kept.cut (t := x.2) ?_ ?_
        | refine Kept.cut (t := x.2.2) ?_ ?_
        | (have hs : Sil := x; clear hs; unfold x)
        | (have hs : State → State := x; clear hs; unfold x)
        | (have hs : Nat → State → State := x; clear hs; unfold x)
        | clear_value x)

theorem spillCheck_kept {s0 s : State} {a0} (h : Kept s0 s) : Kept s0 (spillCheck a0 s) := by
  unfold spillCheck
  repeat' first
    | with_reducible assumption
    | intro _
    | with_reducible apply foldS_kept
    | with_reducible apply spillPool_kept

theorem prefetchPage_kept {s0 s : State} {a0 a1 a2} (h : Kept s0 s) : Kept s0 (prefetchPage a0 a1 a2 s) := by
  unfold prefetchPage
  repeat' first
    | with_reducible assumption
    | (intro hx; clear_value x)
    | intro _
    | with_reducible apply startMove_kept
    | split
    | ((fail_if_no_progress extract_lets +onlyGivenNames x); first
        | refine Kept.cut (t := x) ?_ ?_
        | refine Kept.cut (t := x.2) ?_ ?_
        | refine Kept.cut (t := x.2.2) ?_ ?_
        | (have hs : Sil := x; clear hs; unfold x)
        | (have hs : State → State := x; clear hs; unfold x)
        | (have hs : Nat → State → State := x; clear hs; unfold x)
        | clear_value x)

theorem prefetch_kept {s0 s : State} {a0} (h : Kept s0 s) : Kept s0 (prefetch a0 s) := by
  unfold prefetch
  repeat' first
    | with_reducible assumption
    | intro _
    | with_reducible apply foldS_kept
    | with_reducible apply prefetchPage_kept
    | split

theorem createBind_kept {s0 s t : State} {x b} (h : Kept s0 s) (e : createBind x s = some (b, t)) : Kept s0 t := by
  unfold createBind at e
  split at e
  · cases e
  · dsimp only at e
    split at e
    · cases e
    · rename_i u hu
      split at e
      · cases e
      · cases e
        refine prefetch_kept (spillCheck_kept (reserveAll_kept ?_ hu ?_))
        · refine modSeq_kept ?_
          exact h.same
        intro f hf s t hs e
        rcases List.mem_cons.1 hf with rfl | hf
        · exact reserveKeep_kept hs e
        · exact reservations_kept f hf s t hs e

theorem putHead_kept {s0 s : State} {a0 a1 a2 a3 a4} (h : Kept s0 s) : Kept s0 (putHead a0 a1 a2 a3 a4 s) := by
  unfold putHead
  repeat' first
    | with_reducible assumption
    | with_reducible apply wrBytes_kept

theorem writeRecs_kept {s0 s : State} {a0 a1 a2 a3 a4 a5} (h : Kept s0 s) : Kept s0 (writeRecs a0 a1 a2 a3 a4 a5 s) := by
  unfold writeRecs
  repeat' first
    | with_reducible assumption
    | (intro hx; clear_value x)
    | intro _
    | with_reducible apply foldS_kept
    | with_reducible apply foldSPair_kept
    | with_reducible apply kvmConv_kept
    | with_reducible apply wrBytes_kept
    | ((fail_if_no_progress extract_lets +onlyGivenNames x); first
        | refine Kept.cut (t := x) ?_ ?_
        | refine Kept.cut (t := x.2) ?_ ?_
        | refine Kept.cut (t := x.2.2) ?_ ?_
        | (have hs : Sil := x; clear hs; unfold x)
        | (have hs : State → State := x; clear hs; unfold x)
        | (have hs : Nat → State → State := x; clear hs; unfold x)
        | clear_value x)

theorem openPage_kept {s0 s : State} {a0 a1 a2 a3} (h : Kept s0 s) : Kept s0 (openPage a0 a1 a2 a3 s).2 := by
  unfold openPage
  repeat' first
    | with_reducible assumption
    | with_reducible apply foldlPair_kept
    | with_reducible apply modSeq_kept
    | with_reducible apply newDesc_kept
    | with_reducible apply wrBytes_kept
    | with_reducible apply bump_kept
    | with_reducible apply derefDesc_kept
    | split
    | ((fail_if_no_progress extract_lets +onlyGivenNames x); first
        | refine Kept.cut (t := x) ?_ ?_
        | refine Kept.cut (t := x.2) ?_ ?_
        | refine Kept.cut (t := x.2.2) ?_ ?_
        | (have hs : Sil := x; clear hs; unfold x)
        | (have hs : State → State := x; clear hs; unfold x)
        | (have hs : Nat → State → State := x; clear hs; unfold x)
        | clear_value x)

theorem pinShared_kept {s0 s : State} {a0 a1 a2} (h : Kept s0 s) : Kept s0 (pinShared a0 a1 a2 s) := by
  unfold pinShared
  repeat' first
    | with_reducible assumption
    | (intro hx; clear_value x)
    | intro _
    | with_reducible apply whenS_kept
    | with_reducible apply pin_kept
    | split
    | ((fail_if_no_progress extract_lets +onlyGivenNames x); first
        | refine Kept.cut (t := x) ?_ ?_
        | refine Kept.cut (t := x.2) ?_ ?_
        | refine Kept.cut (t := x.2.2) ?_ ?_
        | (have hs : Sil := x; clear hs; unfold x)
        | (have hs : State → State := x; clear hs; unfold x)
        | (have hs : Nat → State → State := x; clear hs; unfold x)
        | clear_value x)

end Sys2Proof.Machine
end

