-- ==== Sys2Proof/Laws/KeptServe.lean ====
section
/-! SUPPORT. What `Kept` says is kept by the operations of Machine/Serve.lean. -/

-- One proof at a time: proofs elaborated side by side wait on each other, and each that waits holds a thread's stack.
set_option Elab.async false

namespace Sys2Proof.Machine

open Sys2Proof

theorem fail_kept {s0 s : State} {a0 a1} (h : Kept s0 s) : Kept s0 (fail a0 a1 s) := by
  unfold fail
  repeat' first
    | with_reducible assumption
    | intro _
    | with_reducible apply whenS_kept
    | with_reducible apply complete_kept
    | with_reducible apply srvLog_kept
    | split

theorem dmaRefuse_kept {s0 s : State} {a0 a1 a2} (h : Kept s0 s) : Kept s0 (dmaRefuse a0 a1 a2 s) := by
  unfold dmaRefuse
  repeat' first
    | with_reducible assumption
    | with_reducible apply fail_kept
    | with_reducible apply addrViolation_kept
    | split

theorem startCmd_kept {s0 s : State} {a0 a1} {f : Cmd → State → State} (h : Kept s0 s)
    (hf : ∀ c s, Kept s0 s → Kept s0 (f c s)) : Kept s0 (startCmd a0 a1 f s) := by
  unfold startCmd
  split
  · split
    · exact h
    · dsimp only
      split
      · exact fail_kept (setCmd_kept h)
      · split
        · exact fail_kept (setCmd_kept h)
        · exact hf _ _ (setCmd_kept h)
  · exact h

theorem endBind_kept {s0 s : State} {a0} (h : Kept s0 s) : Kept s0 (endBind a0 s) := by
  unfold endBind
  repeat' first
    | with_reducible assumption
    | intro _
    | with_reducible apply foldS_kept
    | with_reducible apply bump_kept
    | with_reducible apply modDesc_kept
    | with_reducible apply modSeq_kept
    | with_reducible apply trimSlips_kept
    | with_reducible apply releaseUnit_kept
    | with_reducible apply spillCheck_kept
    | split
    | (with_reducible refine Kept.upd ?_ ?_; rotate_left; exact rfl)

theorem abandonBind_kept {s0 s : State} {a0} (h : Kept s0 s) : Kept s0 (abandonBind a0 s) := by
  unfold abandonBind
  repeat' first
    | with_reducible assumption
    | intro _
    | with_reducible apply clearSlips_kept
    | with_reducible apply endBind_kept
    | with_reducible apply modSeq_kept
    | split

theorem failSeq_kept {s0 s : State} {a0 a1} (h : Kept s0 s) : Kept s0 (failSeq a0 a1 s) := by
  unfold failSeq
  repeat' first
    | with_reducible assumption
    | with_reducible apply kvmErr_kept
    | with_reducible apply modSeq_kept
    | split

theorem copyPath_kept {s0 s : State} {a0 a1 a2} (h : Kept s0 s) : Kept s0 (copyPath a0 a1 a2 s) := by
  unfold copyPath
  repeat' first
    | with_reducible assumption
    | (intro hx; clear_value x)
    | intro _
    | with_reducible apply foldS_kept
    | with_reducible apply foldSPair_kept
    | with_reducible apply wrBytes_kept
    | split
    | ((fail_if_no_progress extract_lets +onlyGivenNames x); first
        | refine Kept.cut (t := x) ?_ ?_
        | refine Kept.cut (t := x.2) ?_ ?_
        | refine Kept.cut (t := x.2.2) ?_ ?_
        | (have hs : Sil := x; clear hs; unfold x)
        | (have hs : State → State := x; clear hs; unfold x)
        | (have hs : Nat → State → State := x; clear hs; unfold x)
        | clear_value x)

theorem storeKeep_kept {s0 s : State} {a0 a1} (h : Kept s0 s) : Kept s0 (storeKeep a0 a1 s) := by
  unfold storeKeep
  repeat' first
    | with_reducible assumption
    | intro _
    | with_reducible apply foldS_kept
    | with_reducible apply wrBytes_kept
    | split

theorem commitBind_kept {s0 s : State} {a0 a1} (h : Kept s0 s) : Kept s0 (commitBind a0 a1 s) := by
  unfold commitBind
  repeat' first
    | with_reducible assumption
    | with_reducible apply bump_kept
    | with_reducible apply copyPath_kept
    | with_reducible apply storeKeep_kept
    | with_reducible apply endBind_kept
    | with_reducible apply modSeq_kept
    | split

theorem srvEvent_kept {s0 s : State} {a0 a1 a2} (h : Kept s0 s) : Kept s0 (srvEvent a0 a1 a2 s) := by
  unfold srvEvent
  repeat' first
    | with_reducible assumption
    | (intro hx; clear_value x)
    | intro _
    | with_reducible apply srvLog_kept
    | with_reducible apply srvFlag_kept
    | split
    | ((fail_if_no_progress extract_lets +onlyGivenNames x); first
        | refine Kept.cut (t := x) ?_ ?_
        | refine Kept.cut (t := x.2) ?_ ?_
        | refine Kept.cut (t := x.2.2) ?_ ?_
        | (have hs : Sil := x; clear hs; unfold x)
        | (have hs : State → State := x; clear hs; unfold x)
        | (have hs : Nat → State → State := x; clear hs; unfold x)
        | clear_value x)

theorem modGen_kept {s0 s : State} {a0 a1} (h : Kept s0 s) : Kept s0 (modGen a0 a1 s) := by
  unfold modGen
  repeat' first
    | with_reducible assumption
    | split
    | (with_reducible refine Kept.upd ?_ ?_; rotate_left; exact rfl)

theorem ringPut_kept {s0 s : State} {a0 a1} (h : Kept s0 s) : Kept s0 (ringPut a0 a1 s) := by
  unfold ringPut
  repeat' first
    | with_reducible assumption
    | with_reducible apply emit_kept
    | with_reducible apply netSend_kept
    | with_reducible apply srvCount_kept
    | with_reducible apply modGen_kept
    | split

theorem ringPuts_kept {s0 s : State} {a0 a1} (h : Kept s0 s) : Kept s0 (ringPuts a0 a1 s) := by
  unfold ringPuts
  repeat' first
    | with_reducible assumption
    | intro _
    | with_reducible apply foldS_kept
    | with_reducible apply whenS_kept
    | with_reducible apply signal_kept
    | with_reducible apply ringPut_kept
    | split

theorem takePages_kept {s0 s : State} {a0} (h : Kept s0 s) : Kept s0 (takePages a0 s) := by
  unfold takePages
  repeat' first
    | with_reducible assumption
    | intro _
    | with_reducible apply foldS_kept
    | with_reducible apply refDesc_kept

theorem endGen_kept {s0 s : State} {a0 a1 a2} (h : Kept s0 s) : Kept s0 (endGen a0 a1 a2 s) := by
  unfold endGen
  repeat' first
    | with_reducible assumption
    | (intro hx; clear_value x)
    | intro _
    | with_reducible apply foldS_kept
    | with_reducible apply whenS_kept
    | with_reducible apply foldSPair_kept
    | with_reducible apply srvEvent_kept
    | with_reducible apply abandonBind_kept
    | with_reducible apply ringPuts_kept
    | with_reducible apply freeSeqIdx_kept
    | with_reducible apply complete_kept
    | split
    | (with_reducible refine Kept.upd ?_ ?_; rotate_left; exact rfl)
    | ((fail_if_no_progress extract_lets +onlyGivenNames x); first
        | refine Kept.cut (t := x) ?_ ?_
        | refine Kept.cut (t := x.2) ?_ ?_
        | refine Kept.cut (t := x.2.2) ?_ ?_
        | (have hs : Sil := x; clear hs; unfold x)
        | (have hs : State → State := x; clear hs; unfold x)
        | (have hs : Nat → State → State := x; clear hs; unfold x)
        | clear_value x)

theorem latchCopies_kept {s0 s : State} {a0 a1} (h : Kept s0 s) : Kept s0 (latchCopies a0 a1 s) := by
  unfold latchCopies
  repeat' first
    | with_reducible assumption
    | intro _
    | with_reducible apply foldS_kept
    | with_reducible apply foldSPair_kept
    | split
    | (with_reducible refine Kept.upd ?_ ?_; rotate_left; exact rfl)

theorem endTrain_kept {s0 s : State} {a0 a1 a2 a3} (h : Kept s0 s) : Kept s0 (endTrain a0 a1 a2 a3 s) := by
  unfold endTrain
  repeat' first
    | with_reducible assumption
    | (intro hx; clear_value x)
    | intro _
    | with_reducible apply srvEvent_kept
    | with_reducible apply latchCopies_kept
    | with_reducible apply modSeq_kept
    | with_reducible apply complete_kept
    | split
    | ((fail_if_no_progress extract_lets +onlyGivenNames x); first
        | refine Kept.cut (t := x) ?_ ?_
        | refine Kept.cut (t := x.2) ?_ ?_
        | refine Kept.cut (t := x.2.2) ?_ ?_
        | (have hs : Sil := x; clear hs; unfold x)
        | (have hs : State → State := x; clear hs; unfold x)
        | (have hs : Nat → State → State := x; clear hs; unfold x)
        | clear_value x)

theorem endStepCmd_kept {s0 s : State} {a0 a1} (h : Kept s0 s) : Kept s0 (endStepCmd a0 a1 s) := by
  unfold endStepCmd
  repeat' first
    | with_reducible assumption
    | with_reducible apply endGen_kept
    | with_reducible apply endTrain_kept
    | split

theorem failStep_kept {s0 s : State} {a0 a1} (h : Kept s0 s) : Kept s0 (failStep a0 a1 s) := by
  unfold failStep
  repeat' first
    | with_reducible assumption
    | with_reducible apply endStepCmd_kept
    | split

theorem failSeqCmds_kept {s0 s : State} {a0 a1} (h : Kept s0 s) : Kept s0 (failSeqCmds a0 a1 s) := by
  unfold failSeqCmds
  repeat' first
    | with_reducible assumption
    | intro _
    | with_reducible apply foldS_kept
    | with_reducible apply endStepCmd_kept

theorem failSteps_kept {s0 s : State} {a0 a1} (h : Kept s0 s) : Kept s0 (failSteps a0 a1 s) := by
  unfold failSteps
  repeat' first
    | with_reducible assumption
    | intro _
    | with_reducible apply foldS_kept
    | with_reducible apply endStepCmd_kept

theorem pickEntry_kept {s0 s t : State} {a0 a1 a2 e} (h : Kept s0 s) (he : pickEntry a0 a1 a2 s = some (e, t)) :
    Kept s0 t := by
  unfold pickEntry at he
  obtain ⟨i, _, he⟩ := Option.map_eq_some_iff.1 he
  cases he
  exact h.same

theorem sendDesc_kept {s0 s : State} {a0 a1} (h : Kept s0 s) : Kept s0 (sendDesc a0 a1 s) := by
  unfold sendDesc
  repeat' first
    | with_reducible assumption
    | (intro hx; clear_value x)
    | with_reducible apply breakpoint_kept
    | with_reducible apply endStepCmd_kept
    | with_reducible apply xreset_kept
    | with_reducible apply emit_kept
    | split
    | (with_reducible refine Kept.upd ?_ ?_; rotate_left; exact rfl)
    | ((fail_if_no_progress extract_lets +onlyGivenNames x); first
        | refine Kept.cut (t := x) ?_ ?_
        | refine Kept.cut (t := x.2) ?_ ?_
        | refine Kept.cut (t := x.2.2) ?_ ?_
        | (have hs : Sil := x; clear hs; unfold x)
        | (have hs : State → State := x; clear hs; unfold x)
        | (have hs : Nat → State → State := x; clear hs; unfold x)
        | clear_value x)

theorem giveStep_kept {s0 s : State} {a0 a1} (h : Kept s0 s) : Kept s0 (giveStep a0 a1 s).2 := by
  unfold giveStep
  repeat' first
    | with_reducible assumption
    | with_reducible apply modMember_kept
    | split

theorem kvFull_kept {s0 s : State} {a0 a1} (h : Kept s0 s) : Kept s0 (kvFull a0 a1 s) := by
  unfold kvFull
  repeat' first
    | with_reducible assumption
    | with_reducible apply endGen_kept
    | with_reducible apply kvmErr_kept

theorem openStep_kept {s0 s : State} {a0 a1 a2 a3 a4 a5 a6} (h : Kept s0 s) : Kept s0 (openStep a0 a1 a2 a3 a4 a5 a6 s) := by
  unfold openStep
  repeat' first
    | with_reducible assumption
    | (intro hx; clear_value x)
    | with_reducible apply foldl_kept
    | with_reducible apply giveStep_kept
    | with_reducible apply kvFull_kept
    | with_reducible apply sendDesc_kept
    | with_reducible apply modGen_kept
    | split
    | refine createBind_kept ?_ (by with_reducible assumption)
    | ((fail_if_no_progress extract_lets +onlyGivenNames x); first
        | refine Kept.cut (t := x) ?_ ?_
        | refine Kept.cut (t := x.2) ?_ ?_
        | refine Kept.cut (t := x.2.2) ?_ ?_
        | (have hs : Sil := x; clear hs; unfold x)
        | (have hs : State → State := x; clear hs; unfold x)
        | (have hs : Nat → State → State := x; clear hs; unfold x)
        | clear_value x)

theorem openTokens_kept {s0 s : State} {a0 a1 a2 a3 a4 a5 a6} (h : Kept s0 s) : Kept s0 (openTokens a0 a1 a2 a3 a4 a5 a6 s) := by
  unfold openTokens
  repeat' first
    | with_reducible assumption
    | with_reducible apply endGen_kept
    | with_reducible apply openStep_kept
    | split
    | refine pickEntry_kept ?_ (by with_reducible assumption)
    | ((fail_if_no_progress extract_lets +onlyGivenNames x); first
        | refine Kept.cut (t := x) ?_ ?_
        | refine Kept.cut (t := x.2) ?_ ?_
        | refine Kept.cut (t := x.2.2) ?_ ?_
        | (have hs : Sil := x; clear hs; unfold x)
        | (have hs : State → State := x; clear hs; unfold x)
        | (have hs : Nat → State → State := x; clear hs; unfold x)
        | clear_value x)

theorem openTree_kept {s0 s : State} {a0 a1 a2 a3 a4} (h : Kept s0 s) : Kept s0 (openTree a0 a1 a2 a3 a4 s) := by
  unfold openTree
  repeat' first
    | with_reducible assumption
    | with_reducible apply endGen_kept
    | with_reducible apply openStep_kept
    | split
    | refine pickEntry_kept ?_ (by with_reducible assumption)
    | ((fail_if_no_progress extract_lets +onlyGivenNames x); first
        | refine Kept.cut (t := x) ?_ ?_
        | refine Kept.cut (t := x.2) ?_ ?_
        | refine Kept.cut (t := x.2.2) ?_ ?_
        | (have hs : Sil := x; clear hs; unfold x)
        | (have hs : State → State := x; clear hs; unfold x)
        | (have hs : Nat → State → State := x; clear hs; unfold x)
        | clear_value x)

theorem nextStep_kept {s0 s : State} {a0 a1 a2} (h : Kept s0 s) : Kept s0 (nextStep a0 a1 a2 s) := by
  unfold nextStep
  repeat' first
    | with_reducible assumption
    | (intro hx; clear_value x)
    | intro _
    | with_reducible apply whenS_kept
    | with_reducible apply openTokens_kept
    | with_reducible apply endGen_kept
    | with_reducible apply srvCount_kept
    | with_reducible apply openTree_kept
    | split
    | ((fail_if_no_progress extract_lets +onlyGivenNames x); first
        | refine Kept.cut (t := x) ?_ ?_
        | refine Kept.cut (t := x.2) ?_ ?_
        | refine Kept.cut (t := x.2.2) ?_ ?_
        | (have hs : Sil := x; clear hs; unfold x)
        | (have hs : State → State := x; clear hs; unfold x)
        | (have hs : Nat → State → State := x; clear hs; unfold x)
        | clear_value x)

theorem stepStart_kept {s0 s : State} {a0} (h : Kept s0 s) : Kept s0 (stepStart a0 s) := by
  unfold stepStart
  repeat' first
    | with_reducible assumption
    | (intro hx; clear_value x)
    | intro _
    | with_reducible apply modGen_kept
    | with_reducible apply emit_kept
    | with_reducible apply netSend_kept
    | with_reducible apply nextStep_kept
    | split
    | ((fail_if_no_progress extract_lets +onlyGivenNames x); first
        | refine Kept.cut (t := x) ?_ ?_
        | refine Kept.cut (t := x.2) ?_ ?_
        | refine Kept.cut (t := x.2.2) ?_ ?_
        | (have hs : Sil := x; clear hs; unfold x)
        | (have hs : State → State := x; clear hs; unfold x)
        | (have hs : Nat → State → State := x; clear hs; unfold x)
        | clear_value x)

theorem addPrefix_kept {s0 s : State} {a0 a1 a2 a3} (h : Kept s0 s) : Kept s0 (addPrefix a0 a1 a2 a3 s) := by
  unfold addPrefix
  repeat' first
    | with_reducible assumption
    | (intro hx; clear_value x)
    | intro _
    | with_reducible apply takePages_kept
    | with_reducible apply modCx_kept
    | split
    | (with_reducible refine Kept.upd ?_ ?_; rotate_left; exact rfl)
    | ((fail_if_no_progress extract_lets +onlyGivenNames x); first
        | refine Kept.cut (t := x) ?_ ?_
        | refine Kept.cut (t := x.2) ?_ ?_
        | refine Kept.cut (t := x.2.2) ?_ ?_
        | (have hs : Sil := x; clear hs; unfold x)
        | (have hs : State → State := x; clear hs; unfold x)
        | (have hs : Nat → State → State := x; clear hs; unfold x)
        | clear_value x)

theorem sealPage_kept {s0 s t : State} {a0 a1 a2} (h : Kept s0 s) (e : sealPage a0 a1 a2 s = some t) : Kept s0 t := by
  unfold sealPage at e
  dsimp only at e
  split at e
  · cases e; exact h
  · refine .ofMap e fun c => modSeq_kept (writeRecs_kept (whenS_kept (openPage_kept (pinShared_kept (whenS_kept h ?_))) ?_))
    · exact fun _ h => pin_kept h
    · exact fun _ h => bump_kept h

theorem sealAll_kept {s0 s t : State} {a0 a1} (h : Kept s0 s) (e : sealAll a0 a1 s = some t) : Kept s0 t := by
  refine reserveAll_kept h e fun f hf s t hs e => ?_
  obtain ⟨l, _, rfl⟩ := List.mem_map.1 hf
  exact sealPage_kept hs e

theorem emitTokens_kept {s0 s : State} {a0 a1 a2 a3 a4} (h : Kept s0 s) : Kept s0 (emitTokens a0 a1 a2 a3 a4 s) := by
  unfold emitTokens
  repeat' first
    | with_reducible assumption
    | with_reducible apply ringPuts_kept
    | with_reducible apply modSeq_kept
    | with_reducible apply modGen_kept

theorem goOn_kept {s0 s : State} {a0 a1} (h : Kept s0 s) : Kept s0 (goOn a0 a1 s) := by
  unfold goOn
  repeat' first
    | with_reducible assumption
    | with_reducible apply endGen_kept
    | with_reducible apply failSeq_kept
    | with_reducible apply kvFull_kept
    | with_reducible apply spillCheck_kept
    | with_reducible apply addPrefix_kept
    | split
    | refine sealAll_kept ?_ (by with_reducible assumption)

theorem commitStep_kept {s0 s : State} {a0 a1 a2 a3} (h : Kept s0 s) : Kept s0 (commitStep a0 a1 a2 a3 s) := by
  unfold commitStep
  repeat' first
    | with_reducible assumption
    | (intro hx; clear_value x)
    | with_reducible apply commitBind_kept
    | with_reducible apply modSeq_kept
    | with_reducible apply modGen_kept
    | with_reducible apply goOn_kept
    | with_reducible apply progress_kept
    | with_reducible apply endGen_kept
    | with_reducible apply emitTokens_kept
    | split
    | ((fail_if_no_progress extract_lets +onlyGivenNames x); first
        | refine Kept.cut (t := x) ?_ ?_
        | refine Kept.cut (t := x.2) ?_ ?_
        | refine Kept.cut (t := x.2.2) ?_ ?_
        | (have hs : Sil := x; clear hs; unfold x)
        | (have hs : State → State := x; clear hs; unfold x)
        | (have hs : Nat → State → State := x; clear hs; unfold x)
        | clear_value x)

theorem commitLevel_kept {s0 s : State} {a0 a1} (h : Kept s0 s) : Kept s0 (commitLevel a0 a1 s) := by
  unfold commitLevel
  repeat' first
    | with_reducible assumption
    | with_reducible apply progress_kept
    | with_reducible apply modGen_kept
    | with_reducible apply commitBind_kept

theorem loseSeq_kept {s0 s : State} {a0} (h : Kept s0 s) : Kept s0 (loseSeq a0 s) := by
  unfold loseSeq
  repeat' first
    | with_reducible assumption
    | with_reducible apply failSeqCmds_kept
    | with_reducible apply failSeq_kept

theorem commitRound_kept {s0 s : State} {a0 a1 a2 a3 a4} (h : Kept s0 s) : Kept s0 (commitRound a0 a1 a2 a3 a4 s) := by
  unfold commitRound
  repeat' first
    | with_reducible assumption
    | (intro hx; clear_value x)
    | intro _
    | with_reducible apply loseSeq_kept
    | with_reducible apply commitBind_kept
    | with_reducible apply srvCount_kept
    | with_reducible apply modSeq_kept
    | with_reducible apply modGen_kept
    | with_reducible apply endGen_kept
    | with_reducible apply goOn_kept
    | with_reducible apply progress_kept
    | with_reducible apply emitTokens_kept
    | split
    | ((fail_if_no_progress extract_lets +onlyGivenNames x); first
        | refine Kept.cut (t := x) ?_ ?_
        | refine Kept.cut (t := x.2) ?_ ?_
        | refine Kept.cut (t := x.2.2) ?_ ?_
        | (have hs : Sil := x; clear hs; unfold x)
        | (have hs : State → State := x; clear hs; unfold x)
        | (have hs : Nat → State → State := x; clear hs; unfold x)
        | clear_value x)

theorem countDiv_kept {s0 s : State} {a0 a1} (h : Kept s0 s) : Kept s0 (countDiv a0 a1 s) := by
  unfold countDiv
  repeat' first
    | with_reducible assumption
    | (intro hx; clear_value x)
    | intro _
    | with_reducible apply whenS_kept
    | with_reducible apply logE_kept
    | with_reducible apply bump_kept
    | ((fail_if_no_progress extract_lets +onlyGivenNames x); first
        | refine Kept.cut (t := x) ?_ ?_
        | refine Kept.cut (t := x.2) ?_ ?_
        | refine Kept.cut (t := x.2.2) ?_ ?_
        | (have hs : Sil := x; clear hs; unfold x)
        | (have hs : State → State := x; clear hs; unfold x)
        | (have hs : Nat → State → State := x; clear hs; unfold x)
        | clear_value x)

theorem stepCommit_kept {s0 s : State} {a0} (h : Kept s0 s) : Kept s0 (stepCommit a0 s) := by
  unfold stepCommit
  repeat' first
    | with_reducible assumption
    | (intro hx; clear_value x)
    | intro _
    | with_reducible apply endStepCmd_kept
    | with_reducible apply commitLevel_kept
    | with_reducible apply commitRound_kept
    | with_reducible apply loseSeq_kept
    | with_reducible apply modMember_kept
    | with_reducible apply countDiv_kept
    | with_reducible apply commitStep_kept
    | split
    | ((fail_if_no_progress extract_lets +onlyGivenNames x); first
        | refine Kept.cut (t := x) ?_ ?_
        | refine Kept.cut (t := x.2) ?_ ?_
        | refine Kept.cut (t := x.2.2) ?_ ?_
        | (have hs : Sil := x; clear hs; unfold x)
        | (have hs : State → State := x; clear hs; unfold x)
        | (have hs : Nat → State → State := x; clear hs; unfold x)
        | clear_value x)

end Sys2Proof.Machine
end

