-- ==== Sys2Proof/Laws/KeptAttn.lean ====
section
/-! SUPPORT. What `Kept` says is kept by the operations of Machine/Attn.lean. -/

-- One proof at a time: proofs elaborated side by side wait on each other, and each that waits holds a thread's stack.
set_option Elab.async false

namespace Sys2Proof.Machine

open Sys2Proof

theorem refuseKv_kept {s0 s : State} {a0 a1 a2 a3 a4} (h : Kept s0 s) : Kept s0 (refuseKv a0 a1 a2 a3 a4 s) := by
  unfold refuseKv
  repeat' first
    | with_reducible assumption
    | intro _
    | with_reducible apply whenS_kept
    | with_reducible apply emit_kept
    | with_reducible apply kvmErr_kept

theorem takeQuery_kept {s0 s : State} {a0 a1 a2 a3 a4 a5 a6 a7} (h : Kept s0 s) : Kept s0 (takeQuery a0 a1 a2 a3 a4 a5 a6 a7 s) := by
  unfold takeQuery
  repeat' first
    | with_reducible assumption
    | intro _
    | with_reducible apply foldS_kept
    | with_reducible apply whenS_kept
    | with_reducible apply kvmConv_kept
    | with_reducible apply modBind_kept

theorem execQueryArrival_kept {s0 s : State} {a0 a1 a2 a3 a4 a5} (h : Kept s0 s) :
    ∃ u, execQueryArrival a0 a1 a2 a3 a4 a5 s = .next u ∧ Kept s0 u := by
  unfold execQueryArrival done
  refine ⟨_, rfl, ?_⟩
  repeat' first
    | with_reducible assumption
    | (intro hx; clear_value x)
    | intro _
    | with_reducible apply foldS_kept
    | with_reducible apply foldSPair_kept
    | with_reducible apply withhold_kept
    | with_reducible apply refuseKv_kept
    | with_reducible apply failStep_kept
    | with_reducible apply takeQuery_kept
    | with_reducible apply abandonOn_kept
    | with_reducible apply prefetch_kept
    | with_reducible apply modBind_kept
    | split
    | ((fail_if_no_progress extract_lets +onlyGivenNames x); first
        | refine Kept.cut (t := x) ?_ ?_
        | refine Kept.cut (t := x.2) ?_ ?_
        | refine Kept.cut (t := x.2.2) ?_ ?_
        | (have hs : Sil := x; clear hs; unfold x)
        | (have hs : State → State := x; clear hs; unfold x)
        | (have hs : Nat → State → State := x; clear hs; unfold x)
        | clear_value x)

theorem storeHead_kept {s0 s : State} {a0 a1 a2} (h : Kept s0 s) : Kept s0 (storeHead a0 a1 a2 s) := by
  unfold storeHead
  repeat' first
    | with_reducible assumption
    | (intro hx; clear_value x)
    | intro _
    | with_reducible apply whenS_kept
    | with_reducible apply slipForm_kept
    | with_reducible apply putHead_kept
    | with_reducible apply kvmConv_kept
    | with_reducible apply failSeqCmds_kept
    | with_reducible apply failSeq_kept
    | split
    | ((fail_if_no_progress extract_lets +onlyGivenNames x); first
        | refine Kept.cut (t := x) ?_ ?_
        | refine Kept.cut (t := x.2) ?_ ?_
        | refine Kept.cut (t := x.2.2) ?_ ?_
        | (have hs : Sil := x; clear hs; unfold x)
        | (have hs : State → State := x; clear hs; unfold x)
        | (have hs : Nat → State → State := x; clear hs; unfold x)
        | clear_value x)

theorem execAppendArrival_kept {s0 s : State} {a0 a1 a2 a3 a4} (h : Kept s0 s) :
    ∃ u, execAppendArrival a0 a1 a2 a3 a4 s = .next u ∧ Kept s0 u := by
  unfold execAppendArrival done
  refine ⟨_, rfl, ?_⟩
  repeat' first
    | with_reducible assumption
    | (intro hx; clear_value x)
    | intro _
    | with_reducible apply foldS_kept
    | with_reducible apply foldSPair_kept
    | with_reducible apply withhold_kept
    | with_reducible apply refuseKv_kept
    | with_reducible apply accessesBp_kept
    | with_reducible apply modBind_kept
    | with_reducible apply storeHead_kept
    | split
    | (with_reducible refine Kept.upd ?_ ?_; rotate_left; exact rfl)
    | ((fail_if_no_progress extract_lets +onlyGivenNames x); first
        | refine Kept.cut (t := x) ?_ ?_
        | refine Kept.cut (t := x.2) ?_ ?_
        | refine Kept.cut (t := x.2.2) ?_ ?_
        | (have hs : Sil := x; clear hs; unfold x)
        | (have hs : State → State := x; clear hs; unfold x)
        | (have hs : Nat → State → State := x; clear hs; unfold x)
        | clear_value x)

theorem sendPartial_kept {s0 s : State} {a0 a1 a2 a3 a4 a5} (h : Kept s0 s) : Kept s0 (sendPartial a0 a1 a2 a3 a4 a5 s) := by
  unfold sendPartial
  repeat' first
    | with_reducible assumption
    | with_reducible apply emit_kept

theorem execEngineUnitScore_kept {s0 s : State} {a0 a1 a2 a3 a4} (h : Kept s0 s) :
    ∃ u, execEngineUnitScore a0 a1 a2 a3 a4 s = .next u ∧ Kept s0 u := by
  unfold execEngineUnitScore done
  refine ⟨_, rfl, ?_⟩
  repeat' first
    | with_reducible assumption
    | (intro hx; clear_value x)
    | intro _
    | with_reducible apply foldS_kept
    | with_reducible apply whenS_kept
    | with_reducible apply foldSPair_kept
    | with_reducible apply accessesBp_kept
    | with_reducible apply pin_kept
    | with_reducible apply modDesc_kept
    | with_reducible apply bump_kept
    | with_reducible apply modBind_kept
    | with_reducible apply xreset_kept
    | with_reducible apply sendPartial_kept
    | with_reducible apply kvmErr_kept
    | with_reducible apply failSeqCmds_kept
    | with_reducible apply failSeq_kept
    | with_reducible apply failStep_kept
    | split
    | (with_reducible refine Kept.upd ?_ ?_; rotate_left; exact rfl)
    | ((fail_if_no_progress extract_lets +onlyGivenNames x); first
        | refine Kept.cut (t := x) ?_ ?_
        | refine Kept.cut (t := x.2) ?_ ?_
        | refine Kept.cut (t := x.2.2) ?_ ?_
        | (have hs : Sil := x; clear hs; unfold x)
        | (have hs : State → State := x; clear hs; unfold x)
        | (have hs : Nat → State → State := x; clear hs; unfold x)
        | clear_value x)

theorem execPageFlush_kept {s0 s : State} {a0 a1 a2 a3} (h : Kept s0 s) :
    ∃ u, execPageFlush a0 a1 a2 a3 s = .next u ∧ Kept s0 u := by
  unfold execPageFlush done
  refine ⟨_, rfl, ?_⟩
  repeat' first
    | with_reducible assumption
    | (intro hx; clear_value x)
    | intro _
    | with_reducible apply whenS_kept
    | with_reducible apply failSeqCmds_kept
    | with_reducible apply failSeq_kept
    | with_reducible apply modSeq_kept
    | with_reducible apply accessesBp_kept
    | with_reducible apply pin_kept
    | with_reducible apply openPage_kept
    | with_reducible apply pinShared_kept
    | with_reducible apply bump_kept
    | with_reducible apply writeRecs_kept
    | split
    | ((fail_if_no_progress extract_lets +onlyGivenNames x); first
        | refine Kept.cut (t := x) ?_ ?_
        | refine Kept.cut (t := x.2) ?_ ?_
        | refine Kept.cut (t := x.2.2) ?_ ?_
        | (have hs : Sil := x; clear hs; unfold x)
        | (have hs : State → State := x; clear hs; unfold x)
        | (have hs : Nat → State → State := x; clear hs; unfold x)
        | clear_value x)

theorem execFlushComplete_kept {s0 s : State} {a0 a1 a2} (h : Kept s0 s) :
    ∃ u, execFlushComplete a0 a1 a2 s = .next u ∧ Kept s0 u := by
  unfold execFlushComplete done
  refine ⟨_, rfl, ?_⟩
  repeat' first
    | with_reducible assumption
    | intro _
    | with_reducible apply foldS_kept
    | with_reducible apply whenS_kept
    | with_reducible apply modSeq_kept
    | with_reducible apply dropSlips_kept
    | with_reducible apply unpin_kept
    | with_reducible apply spillCheck_kept
    | with_reducible apply bump_kept
    | with_reducible apply goOn_kept
    | split
    | ((fail_if_no_progress extract_lets +onlyGivenNames x); first
        | refine Kept.cut (t := x) ?_ ?_
        | refine Kept.cut (t := x.2) ?_ ?_
        | refine Kept.cut (t := x.2.2) ?_ ?_
        | (have hs : Sil := x; clear hs; unfold x)
        | (have hs : State → State := x; clear hs; unfold x)
        | (have hs : Nat → State → State := x; clear hs; unfold x)
        | clear_value x)

theorem execPinRelease_kept {s0 s : State} {a0 a1} (h : Kept s0 s) :
    ∃ u, execPinRelease a0 a1 s = .next u ∧ Kept s0 u := by
  unfold execPinRelease done
  refine ⟨_, rfl, ?_⟩
  repeat' first
    | with_reducible assumption
    | intro _
    | with_reducible apply whenS_kept
    | with_reducible apply unpin_kept

theorem moreMoves_kept {s0 s : State} {a0} (h : Kept s0 s) : Kept s0 (moreMoves a0 s) := by
  unfold moreMoves
  repeat' first
    | with_reducible assumption
    | intro _
    | with_reducible apply foldS_kept
    | with_reducible apply foldSPair_kept
    | with_reducible apply prefetch_kept
    | with_reducible apply spillCheck_kept

theorem notePrefetched_kept {s0 s : State} {a0} (h : Kept s0 s) : Kept s0 (notePrefetched a0 s) := by
  unfold notePrefetched
  repeat' first
    | with_reducible assumption
    | intro _
    | with_reducible apply modDesc_kept
    | with_reducible apply bump_kept
    | split

theorem execPageMoveComplete_kept {s0 s : State} {a0 a1} (h : Kept s0 s) :
    ∃ u, execPageMoveComplete a0 a1 s = .next u ∧ Kept s0 u := by
  unfold execPageMoveComplete done
  refine ⟨_, rfl, ?_⟩
  repeat' first
    | with_reducible assumption
    | (intro hx; clear_value x)
    | intro _
    | with_reducible apply foldS_kept
    | with_reducible apply whenS_kept
    | with_reducible apply foldSPair_kept
    | with_reducible apply kvmErr_kept
    | with_reducible apply unpin_kept
    | with_reducible apply modDesc_kept
    | with_reducible apply wrBytes_kept
    | with_reducible apply notePrefetched_kept
    | with_reducible apply bump_kept
    | with_reducible apply releaseUnit_kept
    | with_reducible apply goOn_kept
    | with_reducible apply moreMoves_kept
    | split
    | ((fail_if_no_progress extract_lets +onlyGivenNames x); first
        | refine Kept.cut (t := x) ?_ ?_
        | refine Kept.cut (t := x.2) ?_ ?_
        | refine Kept.cut (t := x.2.2) ?_ ?_
        | (have hs : Sil := x; clear hs; unfold x)
        | (have hs : State → State := x; clear hs; unfold x)
        | (have hs : Nat → State → State := x; clear hs; unfold x)
        | clear_value x)

end Sys2Proof.Machine
end

