-- ==== Sys2Proof/Laws/KeptQueue.lean ====
section
/-! SUPPORT. What `Kept` says is kept by the operations of Machine/Queue.lean. -/

-- One proof at a time: proofs elaborated side by side wait on each other, and each that waits holds a thread's stack.
set_option Elab.async false

namespace Sys2Proof.Machine

open Sys2Proof

theorem doorbell_kept {s0 s : State} {a0 a1 a2 a3 a4} (h : Kept s0 s) : Kept s0 (doorbell a0 a1 a2 a3 a4 s) := by
  unfold doorbell
  repeat' first
    | with_reducible assumption
    | with_reducible apply queueError_kept
    | with_reducible apply modQueue_kept
    | split
    | ((fail_if_no_progress extract_lets +onlyGivenNames x); first
        | refine Kept.cut (t := x) ?_ ?_
        | refine Kept.cut (t := x.2) ?_ ?_
        | refine Kept.cut (t := x.2.2) ?_ ?_
        | (have hs : Sil := x; clear hs; unfold x)
        | (have hs : State → State := x; clear hs; unfold x)
        | (have hs : Nat → State → State := x; clear hs; unfold x)
        | clear_value x)

theorem execSqTail_kept {s0 s : State} {a0 a1 a2} (h : Kept s0 s) :
    ∃ u, execSqTail a0 a1 a2 s = .next u ∧ Kept s0 u := by
  unfold execSqTail done
  refine ⟨_, rfl, ?_⟩
  repeat' first
    | with_reducible assumption
    | with_reducible apply doorbell_kept

theorem execRqHead_kept {s0 s : State} {a0 a1 a2} (h : Kept s0 s) :
    ∃ u, execRqHead a0 a1 a2 s = .next u ∧ Kept s0 u := by
  unfold execRqHead done
  refine ⟨_, rfl, ?_⟩
  repeat' first
    | with_reducible assumption
    | with_reducible apply doorbell_kept

theorem enableQueue_kept {s0 s : State} {a0 a1} (h : Kept s0 s) : Kept s0 (enableQueue a0 a1 s) := by
  unfold enableQueue
  repeat' first
    | with_reducible assumption
    | (intro hx; clear_value x)
    | intro _
    | with_reducible apply modQueue_kept
    | with_reducible apply wrf_kept
    | with_reducible apply setEv_kept
    | with_reducible apply srvLog_kept
    | split
    | ((fail_if_no_progress extract_lets +onlyGivenNames x); first
        | refine Kept.cut (t := x) ?_ ?_
        | refine Kept.cut (t := x.2) ?_ ?_
        | refine Kept.cut (t := x.2.2) ?_ ?_
        | (have hs : Sil := x; clear hs; unfold x)
        | (have hs : State → State := x; clear hs; unfold x)
        | (have hs : Nat → State → State := x; clear hs; unfold x)
        | clear_value x)

theorem execQueueEnable_kept {s0 s : State} {a0 a1} (h : Kept s0 s) :
    ∃ u, execQueueEnable a0 a1 s = .next u ∧ Kept s0 u := by
  unfold execQueueEnable done
  refine ⟨_, rfl, ?_⟩
  repeat' first
    | with_reducible assumption
    | with_reducible apply enableQueue_kept

theorem disableQueue_kept {s0 s : State} {a0 a1} (h : Kept s0 s) : Kept s0 (disableQueue a0 a1 s) := by
  unfold disableQueue
  repeat' first
    | with_reducible assumption
    | (intro hx; clear_value x)
    | intro _
    | with_reducible apply drained_kept
    | with_reducible apply modQueue_kept
    | with_reducible apply wrf_kept
    | split
    | ((fail_if_no_progress extract_lets +onlyGivenNames x); first
        | refine Kept.cut (t := x) ?_ ?_
        | refine Kept.cut (t := x.2) ?_ ?_
        | refine Kept.cut (t := x.2.2) ?_ ?_
        | (have hs : Sil := x; clear hs; unfold x)
        | (have hs : State → State := x; clear hs; unfold x)
        | (have hs : Nat → State → State := x; clear hs; unfold x)
        | clear_value x)

theorem execQueueDisable_kept {s0 s : State} {a0 a1} (h : Kept s0 s) :
    ∃ u, execQueueDisable a0 a1 s = .next u ∧ Kept s0 u := by
  unfold execQueueDisable done
  refine ⟨_, rfl, ?_⟩
  repeat' first
    | with_reducible assumption
    | with_reducible apply disableQueue_kept

theorem takeSlot_kept {s0 s : State} (h : Kept s0 s) : Kept s0 (takeSlot s).2 := by
  unfold takeSlot
  repeat' first
    | with_reducible assumption
    | split
    | (with_reducible refine Kept.upd ?_ ?_; rotate_left; exact rfl)

theorem accept_kept {s0 s : State} {a0 a1} (h : Kept s0 s) : Kept s0 (accept a0 a1 s) := by
  unfold accept
  repeat' first
    | with_reducible assumption
    | (intro hx; clear_value x)
    | intro _
    | with_reducible apply modQueue_kept
    | with_reducible apply srvLog_kept
    | with_reducible apply putRecord_kept
    | with_reducible apply takeSlot_kept
    | with_reducible apply setCmd_kept
    | split
    | (with_reducible refine Kept.upd ?_ ?_; rotate_left; exact rfl)
    | ((fail_if_no_progress extract_lets +onlyGivenNames x); first
        | refine Kept.cut (t := x) ?_ ?_
        | refine Kept.cut (t := x.2) ?_ ?_
        | refine Kept.cut (t := x.2.2) ?_ ?_
        | (have hs : Sil := x; clear hs; unfold x)
        | (have hs : State → State := x; clear hs; unfold x)
        | (have hs : Nat → State → State := x; clear hs; unfold x)
        | clear_value x)

theorem execCommandFetch_kept {s0 s : State} {a0 a1} (h : Kept s0 s) :
    ∃ u, execCommandFetch a0 a1 s = .next u ∧ Kept s0 u := by
  unfold execCommandFetch done
  refine ⟨_, rfl, ?_⟩
  repeat' first
    | with_reducible assumption
    | (intro hx; clear_value x)
    | intro _
    | with_reducible apply emit_kept
    | with_reducible apply queueError_kept
    | with_reducible apply modQueue_kept
    | with_reducible apply accept_kept
    | split
    | (with_reducible refine Kept.upd ?_ ?_; rotate_left; exact rfl)
    | ((fail_if_no_progress extract_lets +onlyGivenNames x); first
        | refine Kept.cut (t := x) ?_ ?_
        | refine Kept.cut (t := x.2) ?_ ?_
        | refine Kept.cut (t := x.2.2) ?_ ?_
        | (have hs : Sil := x; clear hs; unfold x)
        | (have hs : State → State := x; clear hs; unfold x)
        | (have hs : Nat → State → State := x; clear hs; unfold x)
        | clear_value x)

theorem dropImage_kept {s0 s : State} {a0 a1 a2} (h : Kept s0 s) : Kept s0 (dropImage a0 a1 a2 s) := by
  unfold dropImage
  repeat' first
    | with_reducible assumption
    | (intro hx; clear_value x)
    | intro _
    | with_reducible apply modCx_kept
    | with_reducible apply dropCode_kept
    | with_reducible apply releaseTls_kept
    | split
    | (with_reducible refine Kept.upd ?_ ?_; rotate_left; exact rfl)
    | ((fail_if_no_progress extract_lets +onlyGivenNames x); first
        | refine Kept.cut (t := x) ?_ ?_
        | refine Kept.cut (t := x.2) ?_ ?_
        | refine Kept.cut (t := x.2.2) ?_ ?_
        | (have hs : Sil := x; clear hs; unfold x)
        | (have hs : State → State := x; clear hs; unfold x)
        | (have hs : Nat → State → State := x; clear hs; unfold x)
        | clear_value x)

theorem dropSeqsOf_kept {s0 s : State} {a0} (h : Kept s0 s) : Kept s0 (dropSeqsOf a0 s) := by
  unfold dropSeqsOf
  repeat' first
    | with_reducible assumption
    | (intro hx; clear_value x)
    | intro _
    | with_reducible apply foldS_kept
    | with_reducible apply foldSPair_kept
    | with_reducible apply freeSeqIdx_kept
    | with_reducible apply modCx_kept
    | with_reducible apply dropPages_kept
    | (with_reducible refine Kept.upd ?_ ?_; rotate_left; exact rfl)
    | ((fail_if_no_progress extract_lets +onlyGivenNames x); first
        | refine Kept.cut (t := x) ?_ ?_
        | refine Kept.cut (t := x.2) ?_ ?_
        | refine Kept.cut (t := x.2.2) ?_ ?_
        | (have hs : Sil := x; clear hs; unfold x)
        | (have hs : State → State := x; clear hs; unfold x)
        | (have hs : Nat → State → State := x; clear hs; unfold x)
        | clear_value x)

theorem execImageRetire_kept {s0 s : State} {a0 a1 a2} (h : Kept s0 s) :
    ∃ u, execImageRetire a0 a1 a2 s = .next u ∧ Kept s0 u := by
  unfold execImageRetire done
  refine ⟨_, rfl, ?_⟩
  repeat' first
    | with_reducible assumption
    | (intro hx; clear_value x)
    | intro _
    | (with_reducible unfold id)
    | with_reducible apply logE_kept
    | with_reducible apply dropImage_kept
    | with_reducible apply dropSeqsOf_kept
    | split
    | ((fail_if_no_progress extract_lets +onlyGivenNames x); first
        | refine Kept.cut (t := x) ?_ ?_
        | refine Kept.cut (t := x.2) ?_ ?_
        | refine Kept.cut (t := x.2.2) ?_ ?_
        | (have hs : Sil := x; clear hs; unfold x)
        | (have hs : State → State := x; clear hs; unfold x)
        | (have hs : Nat → State → State := x; clear hs; unfold x)
        | clear_value x)

theorem dropSnap_kept {s0 s : State} {a0} (h : Kept s0 s) : Kept s0 (dropSnap a0 s) := by
  unfold dropSnap
  repeat' first
    | with_reducible assumption
    | (intro hx; clear_value x)
    | intro _
    | with_reducible apply foldS_kept
    | with_reducible apply foldSPair_kept
    | with_reducible apply unpin_kept
    | with_reducible apply derefDesc_kept
    | (with_reducible refine Kept.upd ?_ ?_; rotate_left; exact rfl)
    | ((fail_if_no_progress extract_lets +onlyGivenNames x); first
        | refine Kept.cut (t := x) ?_ ?_
        | refine Kept.cut (t := x.2) ?_ ?_
        | refine Kept.cut (t := x.2.2) ?_ ?_
        | (have hs : Sil := x; clear hs; unfold x)
        | (have hs : State → State := x; clear hs; unfold x)
        | (have hs : Nat → State → State := x; clear hs; unfold x)
        | clear_value x)

theorem stopDma_kept {s0 s : State} {a0 a1} (h : Kept s0 s) : Kept s0 (stopDma a0 a1 s) := by
  unfold stopDma
  repeat' first
    | with_reducible assumption
    | (intro hx; clear_value x)
    | intro _
    | with_reducible apply foldS_kept
    | with_reducible apply foldSPair_kept
    | with_reducible apply dropSnap_kept
    | with_reducible apply freeSeqAll_kept
    | with_reducible apply kickAsks_kept
    | with_reducible apply complete_kept
    | split
    | ((fail_if_no_progress extract_lets +onlyGivenNames x); first
        | refine Kept.cut (t := x) ?_ ?_
        | refine Kept.cut (t := x.2) ?_ ?_
        | refine Kept.cut (t := x.2.2) ?_ ?_
        | (have hs : Sil := x; clear hs; unfold x)
        | (have hs : State → State := x; clear hs; unfold x)
        | (have hs : Nat → State → State := x; clear hs; unfold x)
        | clear_value x)

theorem cancelCmd_kept {s0 s : State} {a0 a1} (h : Kept s0 s) : Kept s0 (cancelCmd a0 a1 s) := by
  unfold cancelCmd
  repeat' first
    | with_reducible assumption
    | with_reducible apply fail_kept
    | with_reducible apply endGen_kept
    | with_reducible apply endTrain_kept
    | with_reducible apply stopLoad_kept
    | with_reducible apply stopDma_kept
    | split

theorem execCancel_kept {s0 s : State} {a0} (h : Kept s0 s) :
    ∃ u, execCancel a0 s = .next u ∧ Kept s0 u := by
  unfold execCancel done
  refine ⟨_, rfl, ?_⟩
  repeat' first
    | with_reducible assumption
    | intro _
    | with_reducible apply startCmd_kept
    | with_reducible apply fail_kept
    | with_reducible apply setCmd_kept
    | with_reducible apply cancelCmd_kept
    | split
    | ((fail_if_no_progress extract_lets +onlyGivenNames x); first
        | refine Kept.cut (t := x) ?_ ?_
        | refine Kept.cut (t := x.2) ?_ ?_
        | refine Kept.cut (t := x.2.2) ?_ ?_
        | (have hs : Sil := x; clear hs; unfold x)
        | (have hs : State → State := x; clear hs; unfold x)
        | (have hs : Nat → State → State := x; clear hs; unfold x)
        | clear_value x)

theorem execLoad_kept {s0 s : State} {a0} (h : Kept s0 s) :
    ∃ u, execLoad a0 s = .next u ∧ Kept s0 u := by
  unfold execLoad done
  refine ⟨_, rfl, ?_⟩
  repeat' first
    | with_reducible assumption
    | (intro hx; clear_value x)
    | intro _
    | with_reducible apply whenS_kept
    | with_reducible apply startCmd_kept
    | with_reducible apply fail_kept
    | with_reducible apply dmaRefuse_kept
    | with_reducible apply activate_kept
    | with_reducible apply modCx_kept
    | with_reducible apply emit_kept
    | split
    | (with_reducible refine Kept.upd ?_ ?_; rotate_left; exact rfl)
    | ((fail_if_no_progress extract_lets +onlyGivenNames x); first
        | refine Kept.cut (t := x) ?_ ?_
        | refine Kept.cut (t := x.2) ?_ ?_
        | refine Kept.cut (t := x.2.2) ?_ ?_
        | (have hs : Sil := x; clear hs; unfold x)
        | (have hs : State → State := x; clear hs; unfold x)
        | (have hs : Nat → State → State := x; clear hs; unfold x)
        | clear_value x)

theorem execActivate_kept {s0 s : State} {a0} (h : Kept s0 s) :
    ∃ u, execActivate a0 s = .next u ∧ Kept s0 u := by
  unfold execActivate done
  refine ⟨_, rfl, ?_⟩
  repeat' first
    | with_reducible assumption
    | intro _
    | with_reducible apply startCmd_kept
    | with_reducible apply fail_kept
    | with_reducible apply complete_kept
    | with_reducible apply activate_kept
    | split

theorem execDiscard_kept {s0 s : State} {a0} (h : Kept s0 s) :
    ∃ u, execDiscard a0 s = .next u ∧ Kept s0 u := by
  unfold execDiscard done
  refine ⟨_, rfl, ?_⟩
  repeat' first
    | with_reducible assumption
    | (intro hx; clear_value x)
    | intro _
    | (with_reducible unfold id)
    | with_reducible apply foldS_kept
    | with_reducible apply foldSPair_kept
    | with_reducible apply startCmd_kept
    | with_reducible apply logE_kept
    | with_reducible apply enterLoad_kept
    | with_reducible apply dropImage_kept
    | with_reducible apply stopLoad_kept
    | with_reducible apply setCmd_kept
    | with_reducible apply complete_kept
    | split
    | (with_reducible refine Kept.upd ?_ ?_; rotate_left; exact rfl)
    | ((fail_if_no_progress extract_lets +onlyGivenNames x); first
        | refine Kept.cut (t := x) ?_ ?_
        | refine Kept.cut (t := x.2) ?_ ?_
        | refine Kept.cut (t := x.2.2) ?_ ?_
        | (have hs : Sil := x; clear hs; unfold x)
        | (have hs : State → State := x; clear hs; unfold x)
        | (have hs : Nat → State → State := x; clear hs; unfold x)
        | clear_value x)

theorem execCalibrate_kept {s0 s : State} {a0} (h : Kept s0 s) :
    ∃ u, execCalibrate a0 s = .next u ∧ Kept s0 u := by
  unfold execCalibrate done
  refine ⟨_, rfl, ?_⟩
  repeat' first
    | with_reducible assumption
    | intro _
    | with_reducible apply foldS_kept
    | with_reducible apply whenS_kept
    | with_reducible apply startCmd_kept
    | with_reducible apply fail_kept
    | with_reducible apply complete_kept
    | with_reducible apply setCmd_kept
    | with_reducible apply calibrateBay_kept
    | with_reducible apply modCal_kept
    | with_reducible apply requestSoak_kept
    | split
    | ((fail_if_no_progress extract_lets +onlyGivenNames x); first
        | refine Kept.cut (t := x) ?_ ?_
        | refine Kept.cut (t := x.2) ?_ ?_
        | refine Kept.cut (t := x.2.2) ?_ ?_
        | (have hs : Sil := x; clear hs; unfold x)
        | (have hs : State → State := x; clear hs; unfold x)
        | (have hs : Nat → State → State := x; clear hs; unfold x)
        | clear_value x)

theorem execNopCommand_kept {s0 s : State} {a0} (h : Kept s0 s) :
    ∃ u, execNopCommand a0 s = .next u ∧ Kept s0 u := by
  unfold execNopCommand done
  refine ⟨_, rfl, ?_⟩
  repeat' first
    | with_reducible assumption
    | intro _
    | with_reducible apply startCmd_kept
    | with_reducible apply complete_kept

end Sys2Proof.Machine
end

