-- ==== Sys2Proof/Laws/KeptCommands.lean ====
section
/-! SUPPORT. What `Kept` says is kept by the operations of Machine/Commands.lean. -/

-- One proof at a time: proofs elaborated side by side wait on each other, and each that waits holds a thread's stack.
set_option Elab.async false

namespace Sys2Proof.Machine

open Sys2Proof

theorem makeSeq_kept {s0 s t : State} {a0 a1 a2 i} (h : Kept s0 s) (e : makeSeq a0 a1 a2 s = some (i, t)) :
    Kept s0 t := by
  unfold makeSeq at e
  obtain ⟨j, _, e⟩ := Option.map_eq_some_iff.1 e
  cases e
  split
  · exact modMember_kept (modSeq_kept h)
  · exact modSeq_kept h

theorem makeSeqs_kept {s0 s t : State} {a0 a1 a2 i} (h : Kept s0 s) (e : makeSeqs a0 a1 a2 s = some (i, t)) :
    Kept s0 t := by
  unfold makeSeqs at e
  split at e
  · cases e
  · rename_i u hu
    have h1 := makeSeq_kept h hu
    split at e
    · cases e; exact h1
    · split at e
      · cases e
      · rename_i v hv
        cases e
        exact modSeq_kept (makeSeq_kept h1 hv)

theorem execSeqCreate_kept {s0 s : State} {a0} (h : Kept s0 s) :
    ∃ u, execSeqCreate a0 s = .next u ∧ Kept s0 u := by
  unfold execSeqCreate done
  refine ⟨_, rfl, ?_⟩
  repeat' first
    | with_reducible assumption
    | (intro hx; clear_value x)
    | intro _
    | with_reducible apply startCmd_kept
    | with_reducible apply fail_kept
    | with_reducible apply modSeq_kept
    | with_reducible apply takePages_kept
    | with_reducible apply complete_kept
    | split
    | refine makeSeqs_kept ?_ (by with_reducible assumption)
    | ((fail_if_no_progress extract_lets +onlyGivenNames x); first
        | refine Kept.cut (t := x) ?_ ?_
        | refine Kept.cut (t := x.2) ?_ ?_
        | refine Kept.cut (t := x.2.2) ?_ ?_
        | (have hs : Sil := x; clear hs; unfold x)
        | (have hs : State → State := x; clear hs; unfold x)
        | (have hs : Nat → State → State := x; clear hs; unfold x)
        | clear_value x)

theorem execSeqFree_kept {s0 s : State} {a0} (h : Kept s0 s) :
    ∃ u, execSeqFree a0 s = .next u ∧ Kept s0 u := by
  unfold execSeqFree done
  refine ⟨_, rfl, ?_⟩
  repeat' first
    | with_reducible assumption
    | (intro hx; clear_value x)
    | intro _
    | (with_reducible unfold id)
    | with_reducible apply foldS_kept
    | with_reducible apply foldSPair_kept
    | with_reducible apply startCmd_kept
    | with_reducible apply freeSeqAll_kept
    | with_reducible apply cancelCmd_kept
    | with_reducible apply fail_kept
    | with_reducible apply complete_kept
    | split
    | ((fail_if_no_progress extract_lets +onlyGivenNames x); first
        | refine Kept.cut (t := x) ?_ ?_
        | refine Kept.cut (t := x.2) ?_ ?_
        | refine Kept.cut (t := x.2.2) ?_ ?_
        | (have hs : Sil := x; clear hs; unfold x)
        | (have hs : State → State := x; clear hs; unfold x)
        | (have hs : Nat → State → State := x; clear hs; unfold x)
        | clear_value x)

theorem execSeqTruncate_kept {s0 s : State} {a0} (h : Kept s0 s) :
    ∃ u, execSeqTruncate a0 s = .next u ∧ Kept s0 u := by
  unfold execSeqTruncate
  try extract_lets hold
  split
  · exact ⟨_, rfl, h⟩
  refine ⟨_, rfl, ?_⟩
  repeat' first
    | with_reducible assumption
    | intro _
    | with_reducible apply foldS_kept
    | with_reducible apply startCmd_kept
    | with_reducible apply fail_kept
    | with_reducible apply cutSeq_kept
    | with_reducible apply complete_kept
    | with_reducible apply modSeq_kept
    | split
    | ((fail_if_no_progress extract_lets +onlyGivenNames x); first
        | refine Kept.cut (t := x) ?_ ?_
        | refine Kept.cut (t := x.2) ?_ ?_
        | refine Kept.cut (t := x.2.2) ?_ ?_
        | (have hs : Sil := x; clear hs; unfold x)
        | (have hs : State → State := x; clear hs; unfold x)
        | (have hs : Nat → State → State := x; clear hs; unfold x)
        | clear_value x)

theorem execGenerate_kept {s0 s : State} {a0 a1 a2 a3} (h : Kept s0 s) :
    ∃ u, execGenerate a0 a1 a2 a3 s = .next u ∧ Kept s0 u := by
  unfold execGenerate
  try extract_lets hold
  split
  · exact ⟨_, rfl, h⟩
  refine ⟨_, rfl, ?_⟩
  repeat' first
    | with_reducible assumption
    | intro _
    | with_reducible apply startCmd_kept
    | with_reducible apply fail_kept
    | with_reducible apply goOn_kept
    | with_reducible apply setCmd_kept
    | split
    | (with_reducible refine Kept.upd ?_ ?_; rotate_left; exact rfl)

theorem prefixOfSeq_kept {s0 s : State} {a0 a1} (h : Kept s0 s) : Kept s0 (prefixOfSeq a0 a1 s) := by
  unfold prefixOfSeq
  repeat' first
    | with_reducible assumption
    | (intro hx; clear_value x)
    | with_reducible apply fail_kept
    | with_reducible apply failSeq_kept
    | with_reducible apply kvmErr_kept
    | with_reducible apply complete_kept
    | with_reducible apply spillCheck_kept
    | with_reducible apply addPrefix_kept
    | split
    | refine sealAll_kept ?_ (by with_reducible assumption)
    | ((fail_if_no_progress extract_lets +onlyGivenNames x); first
        | refine Kept.cut (t := x) ?_ ?_
        | refine Kept.cut (t := x.2) ?_ ?_
        | refine Kept.cut (t := x.2.2) ?_ ?_
        | (have hs : Sil := x; clear hs; unfold x)
        | (have hs : State → State := x; clear hs; unfold x)
        | (have hs : Nat → State → State := x; clear hs; unfold x)
        | clear_value x)

theorem prefixOfToks_kept {s0 s : State} {a0 a1 a2 a3 a4} (h : Kept s0 s) : Kept s0 (prefixOfToks a0 a1 a2 a3 a4 s) := by
  unfold prefixOfToks
  repeat' first
    | with_reducible assumption
    | with_reducible apply fail_kept
    | split
    | refine makeSeq_kept ?_ (by with_reducible assumption)
    | (with_reducible refine Kept.upd ?_ ?_; rotate_left; exact rfl)

theorem execPrefixCreate_kept {s0 s : State} {a0 a1 a2} (h : Kept s0 s) :
    ∃ u, execPrefixCreate a0 a1 a2 s = .next u ∧ Kept s0 u := by
  unfold execPrefixCreate
  try extract_lets hold
  split
  · exact ⟨_, rfl, h⟩
  refine ⟨_, rfl, ?_⟩
  repeat' first
    | with_reducible assumption
    | intro _
    | with_reducible apply startCmd_kept
    | with_reducible apply fail_kept
    | with_reducible apply prefixOfToks_kept
    | with_reducible apply prefixOfSeq_kept
    | split

theorem execPrefixDrop_kept {s0 s : State} {a0} (h : Kept s0 s) :
    ∃ u, execPrefixDrop a0 s = .next u ∧ Kept s0 u := by
  unfold execPrefixDrop done
  refine ⟨_, rfl, ?_⟩
  repeat' first
    | with_reducible assumption
    | intro _
    | with_reducible apply startCmd_kept
    | with_reducible apply fail_kept
    | with_reducible apply complete_kept
    | with_reducible apply dropPages_kept
    | split
    | (with_reducible refine Kept.upd ?_ ?_; rotate_left; exact rfl)

theorem rangeFail_kept {s0 s : State} {a0 a1 a2 a3 a4 a5} (h : Kept s0 s) : Kept s0 (rangeFail a0 a1 a2 a3 a4 a5 s) := by
  unfold rangeFail
  repeat' first
    | with_reducible assumption
    | with_reducible apply dmaRefuse_kept
    | split

theorem ckptReady_kept {s0 s : State} {a0} (h : Kept s0 s) : Kept s0 (ckptReady a0 s) := by
  unfold ckptReady
  repeat' first
    | with_reducible assumption
    | (intro hx; clear_value x)
    | intro _
    | with_reducible apply complete_kept
    | with_reducible apply dropSnap_kept
    | with_reducible apply setCmd_kept
    | split
    | (with_reducible refine Kept.upd ?_ ?_; rotate_left; exact rfl)
    | ((fail_if_no_progress extract_lets +onlyGivenNames x); first
        | refine Kept.cut (t := x) ?_ ?_
        | refine Kept.cut (t := x.2) ?_ ?_
        | refine Kept.cut (t := x.2.2) ?_ ?_
        | (have hs : Sil := x; clear hs; unfold x)
        | (have hs : State → State := x; clear hs; unfold x)
        | (have hs : Nat → State → State := x; clear hs; unfold x)
        | clear_value x)

theorem execCheckpoint_kept {s0 s : State} {a0} (h : Kept s0 s) :
    ∃ u, execCheckpoint a0 s = .next u ∧ Kept s0 u := by
  unfold execCheckpoint done
  try extract_lets hold
  split
  · exact ⟨_, rfl, h⟩
  refine ⟨_, rfl, ?_⟩
  repeat' first
    | with_reducible assumption
    | (intro hx; clear_value x)
    | intro _
    | with_reducible apply foldS_kept
    | with_reducible apply foldSPair_kept
    | with_reducible apply startCmd_kept
    | with_reducible apply fail_kept
    | with_reducible apply rangeFail_kept
    | with_reducible apply failSeq_kept
    | with_reducible apply takePages_kept
    | with_reducible apply pin_kept
    | with_reducible apply setCmd_kept
    | with_reducible apply ckptReady_kept
    | with_reducible apply putAsk_kept
    | split
    | (with_reducible refine Kept.upd ?_ ?_; rotate_left; exact rfl)
    | ((fail_if_no_progress extract_lets +onlyGivenNames x); first
        | refine Kept.cut (t := x) ?_ ?_
        | refine Kept.cut (t := x.2) ?_ ?_
        | refine Kept.cut (t := x.2.2) ?_ ?_
        | (have hs : Sil := x; clear hs; unfold x)
        | (have hs : State → State := x; clear hs; unfold x)
        | (have hs : Nat → State → State := x; clear hs; unfold x)
        | clear_value x)

theorem moveCkpt_kept {s0 s : State} {a0 a1} (h : Kept s0 s) : Kept s0 (moveCkpt a0 a1 s) := by
  unfold moveCkpt
  repeat' first
    | with_reducible assumption
    | (intro hx; clear_value x)
    | with_reducible apply complete_kept
    | with_reducible apply dropSnap_kept
    | with_reducible apply hubXreset_kept
    | with_reducible apply emit_kept
    | with_reducible apply spmTouch_kept
    | with_reducible apply wrBytes_kept
    | with_reducible apply netSend_kept
    | with_reducible apply progress_kept
    | with_reducible apply setCmd_kept
    | split
    | (with_reducible refine Kept.upd ?_ ?_; rotate_left; exact rfl)
    | ((fail_if_no_progress extract_lets +onlyGivenNames x); first
        | refine Kept.cut (t := x) ?_ ?_
        | refine Kept.cut (t := x.2) ?_ ?_
        | refine Kept.cut (t := x.2.2) ?_ ?_
        | (have hs : Sil := x; clear hs; unfold x)
        | (have hs : State → State := x; clear hs; unfold x)
        | (have hs : Nat → State → State := x; clear hs; unfold x)
        | clear_value x)

theorem execDmaMibMoved_kept {s0 s : State} {a0} (h : Kept s0 s) :
    ∃ u, execDmaMibMoved a0 s = .next u ∧ Kept s0 u := by
  unfold execDmaMibMoved done
  refine ⟨_, rfl, ?_⟩
  repeat' first
    | with_reducible assumption
    | with_reducible apply moveCkpt_kept
    | with_reducible apply complete_kept
    | with_reducible apply progress_kept
    | with_reducible apply setCmd_kept
    | split

theorem restorePage_kept {s0 s t : State} {a0 a1 a2 a3} (h : Kept s0 s) (e : restorePage a0 a1 a2 a3 s = some t) :
    Kept s0 t := by
  unfold restorePage at e
  dsimp only at e
  split at e
  · cases e; exact h
  · exact .ofMap e fun c => modSeq_kept (wrBytes_kept (newDesc_kept h))

theorem restoreSlip_kept {s0 s t : State} {a0 a1 a2 a3} (h : Kept s0 s) (e : restoreSlip a0 a1 a2 a3 s = some t) :
    Kept s0 t := by
  unfold restoreSlip at e
  split at e
  · cases e; exact h
  · obtain ⟨u, hu, e⟩ := Option.map_eq_some_iff.1 e
    have h1 := reserveSeg_kept h hu
    split at e
    · cases e; exact wrBytes_kept h1
    · cases e; exact h1

theorem restoreLayer_kept {s0 : State} {a0 a1 a2 a3 a4} : ∀ f ∈ restoreLayer a0 a1 a2 a3 a4, ∀ s t, Kept s0 s →
    f s = some t → Kept s0 t := by
  intro f hf s t h e
  simp only [restoreLayer, List.mem_append, List.mem_map] at hf
  obtain ⟨p, _, rfl⟩ | ⟨r, _, rfl⟩ := hf
  · exact restorePage_kept h e
  · exact restoreSlip_kept h e

theorem freeToks_kept {s0 s : State} {n} (h : Kept s0 s) : Kept s0 (freeToks n s).2 := by
  induction n generalizing s with
  | zero => exact h
  | succ n ih => exact ih (drawFree_kept h)

theorem execSeqRestore_kept {s0 s : State} {a0 a1 a2} (h : Kept s0 s) :
    ∃ u, execSeqRestore a0 a1 a2 s = .next u ∧ Kept s0 u := by
  refine ⟨_, rfl, startCmd_kept h fun c s h => ?_⟩
  extract_lets f
  split
  · exact fail_kept h
  extract_lets im e a len b n
  split
  · exact rangeFail_kept h
  split
  · exact fail_kept h
  split
  · exact fail_kept h
  split
  · exact fail_kept (hubXreset_kept h)
  split
  · exact fail_kept h
  split
  · exact fail_kept h
  split
  · exact fail_kept h
  rename_i i t ht
  have h1 := makeSeqs_kept h ht
  extract_lets parts todo
  split
  · exact fail_kept (kvmErr_kept h)
  rename_i u hu
  split
  · exact fail_kept (kvmErr_kept h)
  have hk : Kept s0 u := by
    refine reserveAll_kept h1 hu ?_
    intro g hg s t hs e
    obtain ⟨l, hl, hg⟩ := List.mem_flatten.1 hg
    obtain ⟨j, hj, rfl⟩ := List.mem_mapIdx.1 hl
    exact restoreLayer_kept g hg s t hs e
  split
  · exact fail_kept (freeSeqAll_kept hk)
  · exact setCmd_kept (modSeq_kept (freeToks_kept (spillCheck_kept hk)))

theorem execBackward_kept {s0 s : State} {a0 a1 a2} (h : Kept s0 s) :
    ∃ u, execBackward a0 a1 a2 s = .next u ∧ Kept s0 u := by
  unfold execBackward done
  try extract_lets hold
  split
  · exact ⟨_, rfl, h⟩
  refine ⟨_, rfl, ?_⟩
  repeat' first
    | with_reducible assumption
    | (intro hx; clear_value x)
    | intro _
    | with_reducible apply startCmd_kept
    | with_reducible apply fail_kept
    | with_reducible apply kvmErr_kept
    | with_reducible apply srvEvent_kept
    | with_reducible apply wrBytes_kept
    | with_reducible apply latchCopies_kept
    | with_reducible apply modSeq_kept
    | with_reducible apply setCmd_kept
    | with_reducible apply sendDesc_kept
    | split
    | refine pickEntry_kept ?_ (by with_reducible assumption)
    | (with_reducible refine Kept.upd ?_ ?_; rotate_left; exact rfl)
    | ((fail_if_no_progress extract_lets +onlyGivenNames x); first
        | refine Kept.cut (t := x) ?_ ?_
        | refine Kept.cut (t := x.2) ?_ ?_
        | refine Kept.cut (t := x.2.2) ?_ ?_
        | (have hs : Sil := x; clear hs; unfold x)
        | (have hs : State → State := x; clear hs; unfold x)
        | (have hs : Nat → State → State := x; clear hs; unfold x)
        | clear_value x)

theorem startAdapt_kept {s0 s : State} {a0 a1 a2 a3 a4 a5} (h : Kept s0 s) : Kept s0 (startAdapt a0 a1 a2 a3 a4 a5 s) := by
  unfold startAdapt
  repeat' first
    | with_reducible assumption
    | (intro hx; clear_value x)
    | intro _
    | with_reducible apply startCmd_kept
    | with_reducible apply fail_kept
    | with_reducible apply srvEvent_kept
    | with_reducible apply sendDesc_kept
    | split
    | refine pickEntry_kept ?_ (by with_reducible assumption)
    | ((fail_if_no_progress extract_lets +onlyGivenNames x); first
        | refine Kept.cut (t := x) ?_ ?_
        | refine Kept.cut (t := x.2) ?_ ?_
        | refine Kept.cut (t := x.2.2) ?_ ?_
        | (have hs : Sil := x; clear hs; unfold x)
        | (have hs : State → State := x; clear hs; unfold x)
        | (have hs : Nat → State → State := x; clear hs; unfold x)
        | clear_value x)

theorem execAdaptZero_kept {s0 s : State} {a0} (h : Kept s0 s) :
    ∃ u, execAdaptZero a0 s = .next u ∧ Kept s0 u := by
  unfold execAdaptZero done
  refine ⟨_, rfl, ?_⟩
  repeat' first
    | with_reducible assumption
    | with_reducible apply startAdapt_kept

theorem execAdaptUpdate_kept {s0 s : State} {a0} (h : Kept s0 s) :
    ∃ u, execAdaptUpdate a0 s = .next u ∧ Kept s0 u := by
  unfold execAdaptUpdate done
  refine ⟨_, rfl, ?_⟩
  repeat' first
    | with_reducible assumption
    | with_reducible apply startAdapt_kept

end Sys2Proof.Machine
end

