-- ==== Sys2Proof/Laws/KeptJob.lean ====
section
/-! SUPPORT. What `Kept` says is kept by the operations of Machine/Job.lean. -/

-- One proof at a time: proofs elaborated side by side wait on each other, and each that waits holds a thread's stack.
set_option Elab.async false

namespace Sys2Proof.Machine

open Sys2Proof

theorem modPeer_kept {s0 s : State} {a0 a1 a2} (h : Kept s0 s) : Kept s0 (modPeer a0 a1 a2 s) := by
  unfold modPeer
  repeat' first
    | with_reducible assumption
    | with_reducible apply modMember_kept

theorem closeXchs_kept {s0 s : State} {a0 a1} (h : Kept s0 s) : Kept s0 (closeXchs a0 a1 s) := by
  unfold closeXchs
  repeat' first
    | with_reducible assumption
    | (intro hx; clear_value x)
    | intro _
    | with_reducible apply foldS_kept
    | with_reducible apply foldSPair_kept
    | with_reducible apply xchReady_kept
    | with_reducible apply modXch_kept
    | (with_reducible refine Kept.upd ?_ ?_; rotate_left; exact rfl)
    | ((fail_if_no_progress extract_lets +onlyGivenNames x); first
        | refine Kept.cut (t := x) ?_ ?_
        | refine Kept.cut (t := x.2) ?_ ?_
        | refine Kept.cut (t := x.2.2) ?_ ?_
        | (have hs : Sil := x; clear hs; unfold x)
        | (have hs : State → State := x; clear hs; unfold x)
        | (have hs : Nat → State → State := x; clear hs; unfold x)
        | clear_value x)

theorem endSeqCmds_kept {s0 s : State} {a0 a1} (h : Kept s0 s) : Kept s0 (endSeqCmds a0 a1 s) := by
  unfold endSeqCmds
  repeat' first
    | with_reducible assumption
    | (intro hx; clear_value x)
    | intro _
    | with_reducible apply foldS_kept
    | with_reducible apply foldSPair_kept
    | with_reducible apply cancelCmd_kept
    | ((fail_if_no_progress extract_lets +onlyGivenNames x); first
        | refine Kept.cut (t := x) ?_ ?_
        | refine Kept.cut (t := x.2) ?_ ?_
        | refine Kept.cut (t := x.2.2) ?_ ?_
        | (have hs : Sil := x; clear hs; unfold x)
        | (have hs : State → State := x; clear hs; unfold x)
        | (have hs : Nat → State → State := x; clear hs; unfold x)
        | clear_value x)

theorem dropKvServing_kept {s0 s : State} {a0} (h : Kept s0 s) : Kept s0 (dropKvServing a0 s) := by
  unfold dropKvServing
  repeat' first
    | with_reducible assumption
    | (intro hx; clear_value x)
    | intro _
    | with_reducible apply foldS_kept
    | with_reducible apply foldSPair_kept
    | with_reducible apply unpin_kept
    | (with_reducible refine Kept.upd ?_ ?_; rotate_left; exact rfl)
    | ((fail_if_no_progress extract_lets +onlyGivenNames x); first
        | refine Kept.cut (t := x) ?_ ?_
        | refine Kept.cut (t := x.2) ?_ ?_
        | refine Kept.cut (t := x.2.2) ?_ ?_
        | (have hs : Sil := x; clear hs; unfold x)
        | (have hs : State → State := x; clear hs; unfold x)
        | (have hs : Nat → State → State := x; clear hs; unfold x)
        | clear_value x)

theorem holdJob_kept {s0 s : State} {a0} (h : Kept s0 s) : Kept s0 (holdJob a0 s) := by
  unfold holdJob
  repeat' first
    | with_reducible assumption
    | (intro hx; clear_value x)
    | intro _
    | with_reducible apply dropKvServing_kept
    | with_reducible apply endSeqCmds_kept
    | with_reducible apply failed_kept
    | with_reducible apply modMember_kept
    | split
    | (with_reducible refine Kept.upd ?_ ?_; rotate_left; exact rfl)
    | ((fail_if_no_progress extract_lets +onlyGivenNames x); first
        | refine Kept.cut (t := x) ?_ ?_
        | refine Kept.cut (t := x.2) ?_ ?_
        | refine Kept.cut (t := x.2.2) ?_ ?_
        | (have hs : Sil := x; clear hs; unfold x)
        | (have hs : State → State := x; clear hs; unfold x)
        | (have hs : Nat → State → State := x; clear hs; unfold x)
        | clear_value x)

theorem settleFences_kept {s0 s : State} (h : Kept s0 s) : Kept s0 (settleFences s) := by
  unfold settleFences
  repeat' first
    | with_reducible assumption
    | (intro hx; clear_value x)
    | intro _
    | with_reducible apply foldS_kept
    | with_reducible apply foldSPair_kept
    | with_reducible apply endSeqCmds_kept
    | with_reducible apply stopLoad_kept
    | with_reducible apply modMember_kept
    | with_reducible apply holdJob_kept
    | with_reducible apply ctrlAll_kept
    | ((fail_if_no_progress extract_lets +onlyGivenNames x); first
        | refine Kept.cut (t := x) ?_ ?_
        | refine Kept.cut (t := x.2) ?_ ?_
        | refine Kept.cut (t := x.2.2) ?_ ?_
        | (have hs : Sil := x; clear hs; unfold x)
        | (have hs : State → State := x; clear hs; unfold x)
        | (have hs : Nat → State → State := x; clear hs; unfold x)
        | clear_value x)

theorem declarePeer_kept {s0 s : State} {a0 a1 a2} (h : Kept s0 s) : Kept s0 (declarePeer a0 a1 a2 s) := by
  unfold declarePeer
  repeat' first
    | with_reducible assumption
    | (intro hx; clear_value x)
    | intro _
    | with_reducible apply modPeer_kept
    | with_reducible apply settleFences_kept
    | with_reducible apply holdJob_kept
    | with_reducible apply closeXchs_kept
    | split
    | ((fail_if_no_progress extract_lets +onlyGivenNames x); first
        | refine Kept.cut (t := x) ?_ ?_
        | refine Kept.cut (t := x.2) ?_ ?_
        | refine Kept.cut (t := x.2.2) ?_ ?_
        | (have hs : Sil := x; clear hs; unfold x)
        | (have hs : State → State := x; clear hs; unfold x)
        | (have hs : Nat → State → State := x; clear hs; unfold x)
        | clear_value x)

theorem declareLost_kept {s0 s : State} {a0 a1} (h : Kept s0 s) : Kept s0 (declareLost a0 a1 s) := by
  unfold declareLost
  repeat' first
    | with_reducible assumption
    | intro _
    | with_reducible apply foldS_kept
    | with_reducible apply netLog_kept
    | with_reducible apply signalVec_kept
    | with_reducible apply setEv_kept
    | with_reducible apply ctrlSend_kept
    | with_reducible apply declarePeer_kept
    | split

theorem desync_kept {s0 s : State} {a0 a1} (h : Kept s0 s) : Kept s0 (desync a0 a1 s) := by
  unfold desync
  repeat' first
    | with_reducible assumption
    | with_reducible apply declareLost_kept
    | with_reducible apply netLog_kept
    | with_reducible apply signalVec_kept
    | with_reducible apply setEv_kept

theorem dropRecs_kept {s0 s : State} {a0} (h : Kept s0 s) : Kept s0 (dropRecs a0 s) := by
  unfold dropRecs
  repeat' first
    | with_reducible assumption
    | (intro hx; clear_value x)
    | intro _
    | with_reducible apply modMember_kept
    | (with_reducible refine Kept.upd ?_ ?_; rotate_left; exact rfl)
    | ((fail_if_no_progress extract_lets +onlyGivenNames x); first
        | refine Kept.cut (t := x) ?_ ?_
        | refine Kept.cut (t := x.2) ?_ ?_
        | refine Kept.cut (t := x.2.2) ?_ ?_
        | (have hs : Sil := x; clear hs; unfold x)
        | (have hs : State → State := x; clear hs; unfold x)
        | (have hs : Nat → State → State := x; clear hs; unfold x)
        | clear_value x)

theorem checkRecs_kept {s0 s : State} {a0} (h : Kept s0 s) : Kept s0 (checkRecs a0 s) := by
  unfold checkRecs
  repeat' first
    | with_reducible assumption
    | (intro hx; clear_value x)
    | intro _
    | with_reducible apply desync_kept
    | with_reducible apply dropRecs_kept
    | split
    | ((fail_if_no_progress extract_lets +onlyGivenNames x); first
        | refine Kept.cut (t := x) ?_ ?_
        | refine Kept.cut (t := x.2) ?_ ?_
        | refine Kept.cut (t := x.2.2) ?_ ?_
        | (have hs : Sil := x; clear hs; unfold x)
        | (have hs : State → State := x; clear hs; unfold x)
        | (have hs : Nat → State → State := x; clear hs; unfold x)
        | clear_value x)

theorem checkJobs_kept {s0 s : State} (h : Kept s0 s) : Kept s0 (checkJobs s) := by
  unfold checkJobs
  repeat' first
    | with_reducible assumption
    | intro _
    | with_reducible apply foldS_kept
    | with_reducible apply foldSPair_kept
    | with_reducible apply checkRecs_kept

end Sys2Proof.Machine
end

