-- ==== Sys2Proof/Laws/KeptGen.lean ====
section
/-! SUPPORT. What `Kept` says is kept by the operations of Machine/Gen.lean. -/

-- One proof at a time: proofs elaborated side by side wait on each other, and each that waits holds a thread's stack.
set_option Elab.async false

namespace Sys2Proof.Machine

open Sys2Proof

theorem execStepStart_kept {s0 s : State} {a0} (h : Kept s0 s) :
    ∃ u, execStepStart a0 s = .next u ∧ Kept s0 u := by
  unfold execStepStart done
  refine ⟨_, rfl, ?_⟩
  repeat' first
    | with_reducible assumption
    | with_reducible apply stepStart_kept

theorem execRingHeadPoll_kept {s0 s : State} {a0 a1 a2} (h : Kept s0 s) :
    ∃ u, execRingHeadPoll a0 a1 a2 s = .next u ∧ Kept s0 u := by
  unfold execRingHeadPoll done
  refine ⟨_, rfl, ?_⟩
  repeat' first
    | with_reducible assumption
    | with_reducible apply endGen_kept
    | with_reducible apply modGen_kept
    | split

theorem execRingWaitExpiry_kept {s0 s : State} {a0} (h : Kept s0 s) :
    ∃ u, execRingWaitExpiry a0 s = .next u ∧ Kept s0 u := by
  unfold execRingWaitExpiry done
  refine ⟨_, rfl, ?_⟩
  repeat' first
    | with_reducible assumption
    | intro _
    | with_reducible apply whenS_kept
    | with_reducible apply endGen_kept

theorem execRegister_kept {s0 s : State} {a0 a1 a2 a3} (h : Kept s0 s) :
    ∃ u, execRegister a0 a1 a2 a3 s = .next u ∧ Kept s0 u := by
  unfold execRegister done
  refine ⟨_, rfl, ?_⟩
  repeat' first
    | with_reducible assumption
    | with_reducible apply portRefuse_kept
    | split
    | (with_reducible refine Kept.upd ?_ ?_; rotate_left; exact rfl)

theorem execRegistrationWaitExpiry_kept {s0 s : State} {a0} (h : Kept s0 s) :
    ∃ u, execRegistrationWaitExpiry a0 s = .next u ∧ Kept s0 u := by
  unfold execRegistrationWaitExpiry done
  refine ⟨_, rfl, ?_⟩
  repeat' first
    | with_reducible assumption
    | (intro hx; clear_value x)
    | with_reducible apply srvLog_kept
    | with_reducible apply srvFlag_kept
    | with_reducible apply fail_kept
    | split
    | ((fail_if_no_progress extract_lets +onlyGivenNames x); first
        | refine Kept.cut (t := x) ?_ ?_
        | refine Kept.cut (t := x.2) ?_ ?_
        | refine Kept.cut (t := x.2.2) ?_ ?_
        | (have hs : Sil := x; clear hs; unfold x)
        | (have hs : State → State := x; clear hs; unfold x)
        | (have hs : Nat → State → State := x; clear hs; unfold x)
        | clear_value x)

theorem draftResult_kept {s0 s : State} {a0 a1 a2} (h : Kept s0 s) : Kept s0 (draftResult a0 a1 a2 s) := by
  unfold draftResult
  repeat' first
    | with_reducible assumption
    | (intro hx; clear_value x)
    | with_reducible apply srvCount_kept
    | with_reducible apply modGen_kept
    | with_reducible apply endGen_kept
    | with_reducible apply ringPuts_kept
    | with_reducible apply openTree_kept
    | split
    | ((fail_if_no_progress extract_lets +onlyGivenNames x); first
        | refine Kept.cut (t := x) ?_ ?_
        | refine Kept.cut (t := x.2) ?_ ?_
        | refine Kept.cut (t := x.2.2) ?_ ?_
        | (have hs : Sil := x; clear hs; unfold x)
        | (have hs : State → State := x; clear hs; unfold x)
        | (have hs : Nat → State → State := x; clear hs; unfold x)
        | clear_value x)

theorem execResult_kept {s0 s : State} {a0 a1 a2 a3} (h : Kept s0 s) :
    ∃ u, execResult a0 a1 a2 a3 s = .next u ∧ Kept s0 u := by
  unfold execResult done
  refine ⟨_, rfl, ?_⟩
  repeat' first
    | with_reducible assumption
    | (intro hx; clear_value x)
    | intro _
    | with_reducible apply portRefuse_kept
    | with_reducible apply modBind_kept
    | with_reducible apply draftResult_kept
    | with_reducible apply checkRecs_kept
    | with_reducible apply modMember_kept
    | with_reducible apply ctrlAll_kept
    | split
    | ((fail_if_no_progress extract_lets +onlyGivenNames x); first
        | refine Kept.cut (t := x) ?_ ?_
        | refine Kept.cut (t := x.2) ?_ ?_
        | refine Kept.cut (t := x.2.2) ?_ ?_
        | (have hs : Sil := x; clear hs; unfold x)
        | (have hs : State → State := x; clear hs; unfold x)
        | (have hs : Nat → State → State := x; clear hs; unfold x)
        | clear_value x)

theorem execDone_kept {s0 s : State} {a0 a1 a2 a3} (h : Kept s0 s) :
    ∃ u, execDone a0 a1 a2 a3 s = .next u ∧ Kept s0 u := by
  unfold execDone done
  refine ⟨_, rfl, ?_⟩
  repeat' first
    | with_reducible assumption
    | (intro hx; clear_value x)
    | intro _
    | with_reducible apply portRefuse_kept
    | with_reducible apply endTrain_kept
    | split
    | ((fail_if_no_progress extract_lets +onlyGivenNames x); first
        | refine Kept.cut (t := x) ?_ ?_
        | refine Kept.cut (t := x.2) ?_ ?_
        | refine Kept.cut (t := x.2.2) ?_ ?_
        | (have hs : Sil := x; clear hs; unfold x)
        | (have hs : State → State := x; clear hs; unfold x)
        | (have hs : Nat → State → State := x; clear hs; unfold x)
        | clear_value x)

theorem failed_kept {s0 s : State} {a0 a1} (h : Kept s0 s) : Kept s0 (failed a0 a1 s) := by
  unfold failed
  repeat' first
    | with_reducible assumption
    | with_reducible apply endStepCmd_kept
    | with_reducible apply srvLog_kept
    | split

theorem execFail_kept {s0 s : State} {a0 a1 a2 a3} (h : Kept s0 s) :
    ∃ u, execFail a0 a1 a2 a3 s = .next u ∧ Kept s0 u := by
  unfold execFail done
  refine ⟨_, rfl, ?_⟩
  repeat' first
    | with_reducible assumption
    | (intro hx; clear_value x)
    | intro _
    | with_reducible apply portRefuse_kept
    | with_reducible apply failed_kept
    | split
    | ((fail_if_no_progress extract_lets +onlyGivenNames x); first
        | refine Kept.cut (t := x) ?_ ?_
        | refine Kept.cut (t := x.2) ?_ ?_
        | refine Kept.cut (t := x.2.2) ?_ ?_
        | (have hs : Sil := x; clear hs; unfold x)
        | (have hs : State → State := x; clear hs; unfold x)
        | (have hs : Nat → State → State := x; clear hs; unfold x)
        | clear_value x)

theorem execStepCommit_kept {s0 s : State} {a0} (h : Kept s0 s) :
    ∃ u, execStepCommit a0 s = .next u ∧ Kept s0 u := by
  unfold execStepCommit done
  refine ⟨_, rfl, ?_⟩
  repeat' first
    | with_reducible assumption
    | with_reducible apply checkJobs_kept
    | with_reducible apply stepCommit_kept

end Sys2Proof.Machine
end

