-- ==== Sys2Proof/Laws/KeptMemory.lean ====
section
/-! SUPPORT. What `Kept` says is kept by the operations of Machine/Memory.lean. -/

-- One proof at a time: proofs elaborated side by side wait on each other, and each that waits holds a thread's stack.
set_option Elab.async false

namespace Sys2Proof.Machine

open Sys2Proof

theorem memCorrected_kept {s0 s : State} {a0 a1} (h : Kept s0 s) : Kept s0 (memCorrected a0 a1 s) := by
  unfold memCorrected
  repeat' first
    | with_reducible assumption
    | (intro hx; clear_value x)
    | intro _
    | with_reducible apply bumpSat_kept
    | with_reducible apply setEv_kept
    | with_reducible apply logE_kept
    | split
    | (with_reducible refine Kept.upd ?_ ?_; rotate_left; exact rfl)
    | ((fail_if_no_progress extract_lets +onlyGivenNames x); first
        | refine Kept.cut (t := x) ?_ ?_
        | refine Kept.cut (t := x.2) ?_ ?_
        | refine Kept.cut (t := x.2.2) ?_ ?_
        | (have hs : Sil := x; clear hs; unfold x)
        | (have hs : State → State := x; clear hs; unfold x)
        | (have hs : Nat → State → State := x; clear hs; unfold x)
        | clear_value x)

theorem poisonIndex_kept {s0 s : State} {a0 a1 a2} (h : Kept s0 s) : Kept s0 (poisonIndex a0 a1 a2 s) := by
  unfold poisonIndex
  repeat' first
    | with_reducible assumption
    | (intro hx; clear_value x)
    | with_reducible apply bumpSat_kept
    | with_reducible apply setEv_kept
    | with_reducible apply wr_kept
    | with_reducible apply logE_kept
    | split
    | (with_reducible refine Kept.upd ?_ ?_; rotate_left; exact rfl)
    | ((fail_if_no_progress extract_lets +onlyGivenNames x); first
        | refine Kept.cut (t := x) ?_ ?_
        | refine Kept.cut (t := x.2) ?_ ?_
        | refine Kept.cut (t := x.2.2) ?_ ?_
        | (have hs : Sil := x; clear hs; unfold x)
        | (have hs : State → State := x; clear hs; unfold x)
        | (have hs : Nat → State → State := x; clear hs; unfold x)
        | clear_value x)

theorem contextParity_kept {s0 s : State} {a0} (h : Kept s0 s) : Kept s0 (contextParity a0 s) := by
  unfold contextParity
  repeat' first
    | with_reducible assumption
    | with_reducible apply noteReady_kept
    | with_reducible apply ctxFault_kept

theorem execSramScrub_kept {s0 s : State} {a0 a1 a2 a3} (h : Kept s0 s) :
    ∃ u, execSramScrub a0 a1 a2 a3 s = .next u ∧ Kept s0 u := by
  unfold execSramScrub done
  refine ⟨_, rfl, ?_⟩
  repeat' first
    | with_reducible assumption
    | with_reducible apply contextParity_kept
    | with_reducible apply memCorrected_kept
    | with_reducible apply poisonWord_kept
    | with_reducible apply poisonIndex_kept
    | split

theorem execHbmPatrolScrub_kept {s0 s : State} {a0 a1 a2} (h : Kept s0 s) :
    ∃ u, execHbmPatrolScrub a0 a1 a2 s = .next u ∧ Kept s0 u := by
  unfold execHbmPatrolScrub done
  refine ⟨_, rfl, ?_⟩
  repeat' first
    | with_reducible assumption
    | with_reducible apply memCorrected_kept
    | with_reducible apply poisonWord_kept
    | split

theorem markBad_kept {s0 s : State} {a0} (h : Kept s0 s) : Kept s0 (markBad a0 s) := by
  unfold markBad
  repeat' first
    | with_reducible assumption
    | (intro hx; clear_value x)
    | with_reducible apply setEv_kept
    | with_reducible apply shadowState_kept
    | with_reducible apply logE_kept
    | split
    | ((fail_if_no_progress extract_lets +onlyGivenNames x); first
        | refine Kept.cut (t := x) ?_ ?_
        | refine Kept.cut (t := x.2) ?_ ?_
        | refine Kept.cut (t := x.2.2) ?_ ?_
        | (have hs : Sil := x; clear hs; unfold x)
        | (have hs : State → State := x; clear hs; unfold x)
        | (have hs : Nat → State → State := x; clear hs; unfold x)
        | clear_value x)

theorem execShadowAudit_kept {s0 s : State} {a0 a1} (h : Kept s0 s) :
    ∃ u, execShadowAudit a0 a1 s = .next u ∧ Kept s0 u := by
  unfold execShadowAudit done
  refine ⟨_, rfl, ?_⟩
  repeat' first
    | with_reducible assumption
    | with_reducible apply markBad_kept
    | with_reducible apply poisonWord_kept
    | split

theorem loseHbm_kept {s0 s : State} {a0} (h : Kept s0 s) : Kept s0 (loseHbm a0 s) := by
  unfold loseHbm
  repeat' first
    | with_reducible assumption
    | (intro hx; clear_value x)
    | intro _
    | with_reducible apply foldS_kept
    | with_reducible apply foldSPair_kept
    | with_reducible apply loseShadows_kept
    | with_reducible apply modDesc_kept
    | with_reducible apply failed_kept
    | with_reducible apply failSeqCmds_kept
    | with_reducible apply failSeq_kept
    | (with_reducible refine Kept.upd ?_ ?_; rotate_left; exact rfl)
    | ((fail_if_no_progress extract_lets +onlyGivenNames x); first
        | refine Kept.cut (t := x) ?_ ?_
        | refine Kept.cut (t := x.2) ?_ ?_
        | refine Kept.cut (t := x.2.2) ?_ ?_
        | (have hs : Sil := x; clear hs; unfold x)
        | (have hs : State → State := x; clear hs; unfold x)
        | (have hs : Nat → State → State := x; clear hs; unfold x)
        | clear_value x)

theorem restoreEnd_kept {s0 s : State} {a0} (h : Kept s0 s) : Kept s0 (restoreEnd a0 s) := by
  unfold restoreEnd
  repeat' first
    | with_reducible assumption
    | with_reducible apply complete_kept
    | split

theorem askRecord_kept {s0 s : State} {a0 a1 a2 a3} (h : Kept s0 s) : Kept s0 (askRecord a0 a1 a2 a3 s) := by
  unfold askRecord
  repeat' first
    | with_reducible assumption
    | (intro hx; clear_value x)
    | with_reducible apply emit_kept
    | with_reducible apply putAsk_kept
    | split
    | ((fail_if_no_progress extract_lets +onlyGivenNames x); first
        | refine Kept.cut (t := x) ?_ ?_
        | refine Kept.cut (t := x.2) ?_ ?_
        | refine Kept.cut (t := x.2.2) ?_ ?_
        | (have hs : Sil := x; clear hs; unfold x)
        | (have hs : State → State := x; clear hs; unfold x)
        | (have hs : Nat → State → State := x; clear hs; unfold x)
        | clear_value x)

theorem execRestore_kept {s0 s : State} {a0} (h : Kept s0 s) :
    ∃ u, execRestore a0 s = .next u ∧ Kept s0 u := by
  unfold execRestore done
  refine ⟨_, rfl, ?_⟩
  repeat' first
    | with_reducible assumption
    | (intro hx; clear_value x)
    | intro _
    | with_reducible apply foldS_kept
    | with_reducible apply foldSPair_kept
    | with_reducible apply startCmd_kept
    | with_reducible apply rangeFail_kept
    | with_reducible apply fail_kept
    | with_reducible apply askRecord_kept
    | with_reducible apply setCmd_kept
    | with_reducible apply restoreEnd_kept
    | split
    | (with_reducible refine Kept.upd ?_ ?_; rotate_left; exact rfl)
    | ((fail_if_no_progress extract_lets +onlyGivenNames x); first
        | refine Kept.cut (t := x) ?_ ?_
        | refine Kept.cut (t := x.2) ?_ ?_
        | refine Kept.cut (t := x.2.2) ?_ ?_
        | (have hs : Sil := x; clear hs; unfold x)
        | (have hs : State → State := x; clear hs; unfold x)
        | (have hs : Nat → State → State := x; clear hs; unfold x)
        | clear_value x)

theorem itemDone_kept {s0 s : State} {a0 a1 a2} (h : Kept s0 s) : Kept s0 (itemDone a0 a1 a2 s) := by
  unfold itemDone
  repeat' first
    | with_reducible assumption
    | with_reducible apply restoreEnd_kept
    | with_reducible apply setCmd_kept
    | (with_reducible refine Kept.upd ?_ ?_; rotate_left; exact rfl)

theorem tableArrives_kept {s0 s : State} {a0 a1 a2 a3 a4} (h : Kept s0 s) : Kept s0 (tableArrives a0 a1 a2 a3 a4 s) := by
  unfold tableArrives
  repeat' first
    | with_reducible assumption
    | (intro hx; clear_value x)
    | intro _
    | with_reducible apply foldS_kept
    | with_reducible apply foldSPair_kept
    | with_reducible apply itemDone_kept
    | with_reducible apply complete_kept
    | with_reducible apply hubXreset_kept
    | with_reducible apply wrBytes_kept
    | split
    | (with_reducible refine Kept.upd ?_ ?_; rotate_left; exact rfl)
    | ((fail_if_no_progress extract_lets +onlyGivenNames x); first
        | refine Kept.cut (t := x) ?_ ?_
        | refine Kept.cut (t := x.2) ?_ ?_
        | refine Kept.cut (t := x.2.2) ?_ ?_
        | (have hs : Sil := x; clear hs; unfold x)
        | (have hs : State → State := x; clear hs; unfold x)
        | (have hs : Nat → State → State := x; clear hs; unfold x)
        | clear_value x)

theorem restoreArrives_kept {s0 s : State} {a0 a1 a2 a3} (h : Kept s0 s) : Kept s0 (restoreArrives a0 a1 a2 a3 s) := by
  unfold restoreArrives
  repeat' first
    | with_reducible assumption
    | (intro hx; clear_value x)
    | intro _
    | with_reducible apply tableArrives_kept
    | with_reducible apply itemDone_kept
    | with_reducible apply complete_kept
    | with_reducible apply hubXreset_kept
    | with_reducible apply putShadow_kept
    | split
    | (with_reducible refine Kept.upd ?_ ?_; rotate_left; exact rfl)
    | ((fail_if_no_progress extract_lets +onlyGivenNames x); first
        | refine Kept.cut (t := x) ?_ ?_
        | refine Kept.cut (t := x.2) ?_ ?_
        | refine Kept.cut (t := x.2.2) ?_ ?_
        | (have hs : Sil := x; clear hs; unfold x)
        | (have hs : State → State := x; clear hs; unfold x)
        | (have hs : Nat → State → State := x; clear hs; unfold x)
        | clear_value x)

theorem execRestoreRecordArrival_kept {s0 s : State} {a0 a1 a2 a3} (h : Kept s0 s) :
    ∃ u, execRestoreRecordArrival a0 a1 a2 a3 s = .next u ∧ Kept s0 u := by
  unfold execRestoreRecordArrival done
  refine ⟨_, rfl, ?_⟩
  repeat' first
    | with_reducible assumption
    | with_reducible apply restoreArrives_kept

end Sys2Proof.Machine
end

