-- ==== Sys2Proof/Laws/KeptNet.lean ====
section
/-! SUPPORT. What `Kept` says is kept by the operations of Machine/Net.lean. -/

-- One proof at a time: proofs elaborated side by side wait on each other, and each that waits holds a thread's stack.
set_option Elab.async false

namespace Sys2Proof.Machine

open Sys2Proof

theorem endPeerCmd_kept {s0 s : State} {a0} (h : Kept s0 s) : Kept s0 (endPeerCmd a0 s) := by
  unfold endPeerCmd
  repeat' first
    | with_reducible assumption
    | with_reducible apply kickAsks_kept
    | with_reducible apply complete_kept
    | with_reducible apply stopDma_kept
    | split

theorem peerGone_kept {s0 s : State} {a0 a1} (h : Kept s0 s) : Kept s0 (peerGone a0 a1 s) := by
  unfold peerGone
  repeat' first
    | with_reducible assumption
    | intro _
    | with_reducible apply foldS_kept
    | with_reducible apply stopLoad_kept
    | with_reducible apply endPeerCmd_kept
    | split

theorem peerLost_kept {s0 s : State} {a0 a1} (h : Kept s0 s) : Kept s0 (peerLost a0 a1 s) := by
  unfold peerLost
  repeat' first
    | with_reducible assumption
    | intro _
    | with_reducible apply whenS_kept
    | with_reducible apply peerGone_kept
    | with_reducible apply declareLost_kept

theorem qpError_kept {s0 s : State} {a0} (h : Kept s0 s) : Kept s0 (qpError a0 s) := by
  unfold qpError
  repeat' first
    | with_reducible assumption
    | (intro hx; clear_value x)
    | intro _
    | with_reducible apply foldS_kept
    | with_reducible apply foldSPair_kept
    | with_reducible apply modQp_kept
    | with_reducible apply peerLost_kept
    | with_reducible apply netLogAt_kept
    | with_reducible apply setEv_kept
    | with_reducible apply endGen_kept
    | split
    | ((fail_if_no_progress extract_lets +onlyGivenNames x); first
        | refine Kept.cut (t := x) ?_ ?_
        | refine Kept.cut (t := x.2) ?_ ?_
        | refine Kept.cut (t := x.2.2) ?_ ?_
        | (have hs : Sil := x; clear hs; unfold x)
        | (have hs : State → State := x; clear hs; unfold x)
        | (have hs : Nat → State → State := x; clear hs; unfold x)
        | clear_value x)

theorem qpErrors_kept {s0 s : State} {a0} (h : Kept s0 s) : Kept s0 (qpErrors a0 s) := by
  unfold qpErrors
  repeat' first
    | with_reducible assumption
    | intro _
    | with_reducible apply foldS_kept
    | with_reducible apply qpError_kept

theorem rxLog_kept {s0 s : State} {a0 a1} (h : Kept s0 s) : Kept s0 (rxLog a0 a1 s) := by
  unfold rxLog
  repeat' first
    | with_reducible assumption
    | (intro hx; clear_value x)
    | with_reducible apply logE_kept
    | split
    | ((fail_if_no_progress extract_lets +onlyGivenNames x); first
        | refine Kept.cut (t := x) ?_ ?_
        | refine Kept.cut (t := x.2) ?_ ?_
        | refine Kept.cut (t := x.2.2) ?_ ?_
        | (have hs : Sil := x; clear hs; unfold x)
        | (have hs : State → State := x; clear hs; unfold x)
        | (have hs : Nat → State → State := x; clear hs; unfold x)
        | clear_value x)

theorem rxDrop_kept {s0 s : State} {a0 a1} (h : Kept s0 s) : Kept s0 (rxDrop a0 a1 s) := by
  unfold rxDrop
  repeat' first
    | with_reducible assumption
    | with_reducible apply rxLog_kept
    | with_reducible apply bump_kept

theorem sendPfc_kept {s0 s : State} {a0 a1 a2} (h : Kept s0 s) : Kept s0 (sendPfc a0 a1 a2 s) := by
  unfold sendPfc
  repeat' first
    | with_reducible assumption
    | (intro hx; clear_value x)
    | with_reducible apply emit_kept
    | with_reducible apply bump_kept
    | split
    | ((fail_if_no_progress extract_lets +onlyGivenNames x); first
        | refine Kept.cut (t := x) ?_ ?_
        | refine Kept.cut (t := x.2) ?_ ?_
        | refine Kept.cut (t := x.2.2) ?_ ?_
        | (have hs : Sil := x; clear hs; unfold x)
        | (have hs : State → State := x; clear hs; unfold x)
        | (have hs : Nat → State → State := x; clear hs; unfold x)
        | clear_value x)

theorem bufferIn_kept {s0 s : State} {a0 a1 a2 a3} (h : Kept s0 s) : Kept s0 (bufferIn a0 a1 a2 a3 s) := by
  unfold bufferIn
  repeat' first
    | with_reducible assumption
    | (intro hx; clear_value x)
    | intro _
    | with_reducible apply whenS_kept
    | with_reducible apply rxDrop_kept
    | with_reducible apply sendPfc_kept
    | with_reducible apply modLport_kept
    | split
    | (with_reducible refine Kept.upd ?_ ?_; rotate_left; exact rfl)
    | ((fail_if_no_progress extract_lets +onlyGivenNames x); first
        | refine Kept.cut (t := x) ?_ ?_
        | refine Kept.cut (t := x.2) ?_ ?_
        | refine Kept.cut (t := x.2.2) ?_ ?_
        | (have hs : Sil := x; clear hs; unfold x)
        | (have hs : State → State := x; clear hs; unfold x)
        | (have hs : Nat → State → State := x; clear hs; unfold x)
        | clear_value x)

theorem bufferOut_kept {s0 s : State} {a0 a1 a2} (h : Kept s0 s) : Kept s0 (bufferOut a0 a1 a2 s) := by
  unfold bufferOut
  repeat' first
    | with_reducible assumption
    | intro _
    | with_reducible apply whenS_kept
    | with_reducible apply sendPfc_kept
    | with_reducible apply modLport_kept

theorem sendCnp_kept {s0 s : State} {a0 a1} (h : Kept s0 s) : Kept s0 (sendCnp a0 a1 s) := by
  unfold sendCnp
  repeat' first
    | with_reducible assumption
    | (intro hx; clear_value x)
    | intro _
    | with_reducible apply transmit_kept
    | with_reducible apply bump_kept
    | with_reducible apply modQp_kept
    | split
    | ((fail_if_no_progress extract_lets +onlyGivenNames x); first
        | refine Kept.cut (t := x) ?_ ?_
        | refine Kept.cut (t := x.2) ?_ ?_
        | refine Kept.cut (t := x.2.2) ?_ ?_
        | (have hs : Sil := x; clear hs; unfold x)
        | (have hs : State → State := x; clear hs; unfold x)
        | (have hs : Nat → State → State := x; clear hs; unfold x)
        | clear_value x)

theorem ackQp_kept {s0 s : State} {a0 a1} (h : Kept s0 s) : Kept s0 (ackQp a0 a1 s) := by
  unfold ackQp
  repeat' first
    | with_reducible assumption
    | (intro hx; clear_value x)
    | intro _
    | with_reducible apply modQp_kept
    | split
    | ((fail_if_no_progress extract_lets +onlyGivenNames x); first
        | refine Kept.cut (t := x) ?_ ?_
        | refine Kept.cut (t := x.2) ?_ ?_
        | refine Kept.cut (t := x.2.2) ?_ ?_
        | (have hs : Sil := x; clear hs; unfold x)
        | (have hs : State → State := x; clear hs; unfold x)
        | (have hs : Nat → State → State := x; clear hs; unfold x)
        | clear_value x)

theorem ptpSend_kept {s0 s : State} {a0 a1 a2 a3} (h : Kept s0 s) : Kept s0 (ptpSend a0 a1 a2 a3 s) := by
  unfold ptpSend
  repeat' first
    | with_reducible assumption
    | (intro hx; clear_value x)
    | intro _
    | with_reducible apply whenS_kept
    | with_reducible apply emit_kept
    | with_reducible apply bump_kept
    | with_reducible apply modLport_kept
    | ((fail_if_no_progress extract_lets +onlyGivenNames x); first
        | refine Kept.cut (t := x) ?_ ?_
        | refine Kept.cut (t := x.2) ?_ ?_
        | refine Kept.cut (t := x.2.2) ?_ ?_
        | (have hs : Sil := x; clear hs; unfold x)
        | (have hs : State → State := x; clear hs; unfold x)
        | (have hs : Nat → State → State := x; clear hs; unfold x)
        | clear_value x)

theorem disciplineBy_kept {s0 s : State} {a0} (h : Kept s0 s) : Kept s0 (disciplineBy a0 s) := by
  unfold disciplineBy
  repeat' first
    | with_reducible assumption
    | (intro hx; clear_value x)
    | with_reducible apply setUtc_kept
    | (with_reducible refine Kept.upd ?_ ?_; rotate_left; exact rfl)
    | ((fail_if_no_progress extract_lets +onlyGivenNames x); first
        | refine Kept.cut (t := x) ?_ ?_
        | refine Kept.cut (t := x.2) ?_ ?_
        | refine Kept.cut (t := x.2.2) ?_ ?_
        | (have hs : Sil := x; clear hs; unfold x)
        | (have hs : State → State := x; clear hs; unfold x)
        | (have hs : Nat → State → State := x; clear hs; unfold x)
        | clear_value x)

theorem ptpSync_kept {s0 s : State} {a0 a1 a2} (h : Kept s0 s) : Kept s0 (ptpSync a0 a1 a2 s) := by
  unfold ptpSync
  repeat' first
    | with_reducible assumption
    | (intro hx; clear_value x)
    | with_reducible apply disciplineBy_kept
    | with_reducible apply ptpSend_kept
    | split
    | (with_reducible refine Kept.upd ?_ ?_; rotate_left; exact rfl)
    | ((fail_if_no_progress extract_lets +onlyGivenNames x); first
        | refine Kept.cut (t := x) ?_ ?_
        | refine Kept.cut (t := x.2) ?_ ?_
        | refine Kept.cut (t := x.2.2) ?_ ?_
        | (have hs : Sil := x; clear hs; unfold x)
        | (have hs : State → State := x; clear hs; unfold x)
        | (have hs : Nat → State → State := x; clear hs; unfold x)
        | clear_value x)

theorem ptpClock_kept {s0 s : State} {a0 a1 a2} (h : Kept s0 s) : Kept s0 (ptpClock a0 a1 a2 s) := by
  unfold ptpClock
  repeat' first
    | with_reducible assumption
    | (intro hx; clear_value x)
    | intro _
    | with_reducible apply ptpSync_kept
    | with_reducible apply disciplineBy_kept
    | with_reducible apply ptpSend_kept
    | split
    | (with_reducible refine Kept.upd ?_ ?_; rotate_left; exact rfl)
    | ((fail_if_no_progress extract_lets +onlyGivenNames x); first
        | refine Kept.cut (t := x) ?_ ?_
        | refine Kept.cut (t := x.2) ?_ ?_
        | refine Kept.cut (t := x.2.2) ?_ ?_
        | (have hs : Sil := x; clear hs; unfold x)
        | (have hs : State → State := x; clear hs; unfold x)
        | (have hs : Nat → State → State := x; clear hs; unfold x)
        | clear_value x)

theorem ptpReceive_kept {s0 s : State} {a0 a1} (h : Kept s0 s) : Kept s0 (ptpReceive a0 a1 s) := by
  unfold ptpReceive
  repeat' first
    | with_reducible assumption
    | (intro hx; clear_value x)
    | intro _
    | with_reducible apply whenS_kept
    | with_reducible apply modLport_kept
    | with_reducible apply ptpClock_kept
    | split
    | ((fail_if_no_progress extract_lets +onlyGivenNames x); first
        | refine Kept.cut (t := x) ?_ ?_
        | refine Kept.cut (t := x.2) ?_ ?_
        | refine Kept.cut (t := x.2.2) ?_ ?_
        | (have hs : Sil := x; clear hs; unfold x)
        | (have hs : State → State := x; clear hs; unfold x)
        | (have hs : Nat → State → State := x; clear hs; unfold x)
        | clear_value x)

theorem admitFrame_kept {s0 s : State} {a0 a1} (h : Kept s0 s) : Kept s0 (admitFrame a0 a1 s) := by
  unfold admitFrame
  repeat' first
    | with_reducible assumption
    | (intro hx; clear_value x)
    | intro _
    | with_reducible apply whenS_kept
    | with_reducible apply rxDrop_kept
    | with_reducible apply rxLog_kept
    | with_reducible apply bump_kept
    | with_reducible apply sendCnp_kept
    | with_reducible apply ackQp_kept
    | with_reducible apply bufferIn_kept
    | with_reducible apply ptpReceive_kept
    | with_reducible apply emit_kept
    | split
    | ((fail_if_no_progress extract_lets +onlyGivenNames x); first
        | refine Kept.cut (t := x) ?_ ?_
        | refine Kept.cut (t := x.2) ?_ ?_
        | refine Kept.cut (t := x.2.2) ?_ ?_
        | (have hs : Sil := x; clear hs; unfold x)
        | (have hs : State → State := x; clear hs; unfold x)
        | (have hs : Nat → State → State := x; clear hs; unfold x)
        | clear_value x)

theorem execFrameReceive_kept {s0 s : State} {a0 a1} (h : Kept s0 s) :
    ∃ u, execFrameReceive a0 a1 s = .next u ∧ Kept s0 u := by
  unfold execFrameReceive done
  refine ⟨_, rfl, ?_⟩
  repeat' first
    | with_reducible assumption
    | (intro hx; clear_value x)
    | intro _
    | with_reducible apply whenS_kept
    | with_reducible apply setEv_kept
    | with_reducible apply bump_kept
    | with_reducible apply rxLog_kept
    | with_reducible apply admitFrame_kept
    | split
    | ((fail_if_no_progress extract_lets +onlyGivenNames x); first
        | refine Kept.cut (t := x) ?_ ?_
        | refine Kept.cut (t := x.2) ?_ ?_
        | refine Kept.cut (t := x.2.2) ?_ ?_
        | (have hs : Sil := x; clear hs; unfold x)
        | (have hs : State → State := x; clear hs; unfold x)
        | (have hs : Nat → State → State := x; clear hs; unfold x)
        | clear_value x)

theorem execPfcFrameReceive_kept {s0 s : State} {a0 a1 a2} (h : Kept s0 s) :
    ∃ u, execPfcFrameReceive a0 a1 a2 s = .next u ∧ Kept s0 u := by
  unfold execPfcFrameReceive done
  refine ⟨_, rfl, ?_⟩
  repeat' first
    | with_reducible assumption
    | (intro hx; clear_value x)
    | intro _
    | with_reducible apply foldS_kept
    | with_reducible apply foldSPair_kept
    | with_reducible apply bump_kept
    | with_reducible apply modLport_kept
    | with_reducible apply putFrames_kept
    | split
    | (with_reducible refine Kept.upd ?_ ?_; rotate_left; exact rfl)
    | ((fail_if_no_progress extract_lets +onlyGivenNames x); first
        | refine Kept.cut (t := x) ?_ ?_
        | refine Kept.cut (t := x.2) ?_ ?_
        | refine Kept.cut (t := x.2.2) ?_ ?_
        | (have hs : Sil := x; clear hs; unfold x)
        | (have hs : State → State := x; clear hs; unfold x)
        | (have hs : Nat → State → State := x; clear hs; unfold x)
        | clear_value x)

theorem execPfcStormTimeout_kept {s0 s : State} {a0 a1} (h : Kept s0 s) :
    ∃ u, execPfcStormTimeout a0 a1 s = .next u ∧ Kept s0 u := by
  unfold execPfcStormTimeout done
  refine ⟨_, rfl, ?_⟩
  repeat' first
    | with_reducible assumption
    | (intro hx; clear_value x)
    | intro _
    | with_reducible apply modLport_kept
    | with_reducible apply logE_kept
    | with_reducible apply setEv_kept
    | split
    | (with_reducible refine Kept.upd ?_ ?_; rotate_left; exact rfl)
    | ((fail_if_no_progress extract_lets +onlyGivenNames x); first
        | refine Kept.cut (t := x) ?_ ?_
        | refine Kept.cut (t := x.2) ?_ ?_
        | refine Kept.cut (t := x.2.2) ?_ ?_
        | (have hs : Sil := x; clear hs; unfold x)
        | (have hs : State → State := x; clear hs; unfold x)
        | (have hs : Nat → State → State := x; clear hs; unfold x)
        | clear_value x)

theorem retrainPort_kept {s0 s : State} {a0} (h : Kept s0 s) : Kept s0 (retrainPort a0 s) := by
  unfold retrainPort
  repeat' first
    | with_reducible assumption
    | (intro hx; clear_value x)
    | intro _
    | with_reducible apply foldS_kept
    | with_reducible apply foldSPair_kept
    | with_reducible apply wrf_kept
    | with_reducible apply modLport_kept
    | with_reducible apply qpErrors_kept
    | split
    | ((fail_if_no_progress extract_lets +onlyGivenNames x); first
        | refine Kept.cut (t := x) ?_ ?_
        | refine Kept.cut (t := x.2) ?_ ?_
        | refine Kept.cut (t := x.2.2) ?_ ?_
        | (have hs : Sil := x; clear hs; unfold x)
        | (have hs : State → State := x; clear hs; unfold x)
        | (have hs : Nat → State → State := x; clear hs; unfold x)
        | clear_value x)

theorem portCfgWrite_kept {s0 s : State} {a0 a1 a2 a3} (h : Kept s0 s) : Kept s0 (portCfgWrite a0 a1 a2 a3 s) := by
  unfold portCfgWrite
  repeat' first
    | with_reducible assumption
    | intro _
    | with_reducible apply foldS_kept
    | with_reducible apply whenS_kept
    | with_reducible apply storeReg_kept
    | with_reducible apply wrf_kept
    | with_reducible apply retrainPort_kept

theorem execPortModeWrite_kept {s0 s : State} {a0 a1 a2} (h : Kept s0 s) :
    ∃ u, execPortModeWrite a0 a1 a2 s = .next u ∧ Kept s0 u := by
  unfold execPortModeWrite done
  refine ⟨_, rfl, ?_⟩
  repeat' first
    | with_reducible assumption
    | with_reducible apply portCfgWrite_kept

theorem execPortLinkDown_kept {s0 s : State} {a0} (h : Kept s0 s) :
    ∃ u, execPortLinkDown a0 s = .next u ∧ Kept s0 u := by
  unfold execPortLinkDown done
  refine ⟨_, rfl, ?_⟩
  repeat' first
    | with_reducible assumption
    | with_reducible apply qpErrors_kept
    | with_reducible apply modLport_kept
    | with_reducible apply wrf_kept
    | split

theorem execPortLinkUp_kept {s0 s : State} {a0} (h : Kept s0 s) :
    ∃ u, execPortLinkUp a0 s = .next u ∧ Kept s0 u := by
  unfold execPortLinkUp done
  refine ⟨_, rfl, ?_⟩
  repeat' first
    | with_reducible assumption
    | (intro hx; clear_value x)
    | intro _
    | with_reducible apply whenS_kept
    | with_reducible apply wrf_kept
    | ((fail_if_no_progress extract_lets +onlyGivenNames x); first
        | refine Kept.cut (t := x) ?_ ?_
        | refine Kept.cut (t := x.2) ?_ ?_
        | refine Kept.cut (t := x.2.2) ?_ ?_
        | (have hs : Sil := x; clear hs; unfold x)
        | (have hs : State → State := x; clear hs; unfold x)
        | (have hs : Nat → State → State := x; clear hs; unfold x)
        | clear_value x)

theorem answerReq_kept {s0 s : State} {a0 a1 a2 a3} (h : Kept s0 s) : Kept s0 (answerReq a0 a1 a2 a3 s) := by
  unfold answerReq
  repeat' first
    | with_reducible assumption
    | with_reducible apply transmit_kept

theorem rdmaRefuse_kept {s0 s : State} {a0} (h : Kept s0 s) : Kept s0 (rdmaRefuse a0 s) := by
  unfold rdmaRefuse
  repeat' first
    | with_reducible assumption
    | (intro hx; clear_value x)
    | with_reducible apply answerReq_kept
    | with_reducible apply setEv_kept
    | with_reducible apply qpError_kept
    | with_reducible apply netLogAt_kept
    | with_reducible apply addrViolation_kept
    | ((fail_if_no_progress extract_lets +onlyGivenNames x); first
        | refine Kept.cut (t := x) ?_ ?_
        | refine Kept.cut (t := x.2) ?_ ?_
        | refine Kept.cut (t := x.2.2) ?_ ?_
        | (have hs : Sil := x; clear hs; unfold x)
        | (have hs : State → State := x; clear hs; unfold x)
        | (have hs : Nat → State → State := x; clear hs; unfold x)
        | clear_value x)

theorem rdmaServe_kept {s0 s : State} {a0 a1} (h : Kept s0 s) : Kept s0 (rdmaServe a0 a1 s) := by
  unfold rdmaServe
  repeat' first
    | with_reducible assumption
    | intro _
    | with_reducible apply whenS_kept
    | with_reducible apply answerReq_kept
    | with_reducible apply spmTouch_kept
    | with_reducible apply wrBytes_kept
    | split

theorem execRdmaRequestReceive_kept {s0 s : State} {a0} (h : Kept s0 s) :
    ∃ u, execRdmaRequestReceive a0 s = .next u ∧ Kept s0 u := by
  unfold execRdmaRequestReceive done
  refine ⟨_, rfl, ?_⟩
  repeat' first
    | with_reducible assumption
    | (intro hx; clear_value x)
    | intro _
    | with_reducible apply whenS_kept
    | with_reducible apply bufferOut_kept
    | with_reducible apply rxDrop_kept
    | with_reducible apply answerReq_kept
    | with_reducible apply rdmaRefuse_kept
    | with_reducible apply wrBytes_kept
    | with_reducible apply qpError_kept
    | with_reducible apply rdmaServe_kept
    | with_reducible apply modQp_kept
    | split
    | ((fail_if_no_progress extract_lets +onlyGivenNames x); first
        | refine Kept.cut (t := x) ?_ ?_
        | refine Kept.cut (t := x.2) ?_ ?_
        | refine Kept.cut (t := x.2.2) ?_ ?_
        | (have hs : Sil := x; clear hs; unfold x)
        | (have hs : State → State := x; clear hs; unfold x)
        | (have hs : Nat → State → State := x; clear hs; unfold x)
        | clear_value x)

theorem retryQp_kept {s0 s : State} {a0} (h : Kept s0 s) : Kept s0 (retryQp a0 s) := by
  unfold retryQp
  repeat' first
    | with_reducible assumption
    | (intro hx; clear_value x)
    | intro _
    | with_reducible apply foldS_kept
    | with_reducible apply foldSPair_kept
    | with_reducible apply qpError_kept
    | with_reducible apply transmit_kept
    | with_reducible apply modQp_kept
    | split
    | ((fail_if_no_progress extract_lets +onlyGivenNames x); first
        | refine Kept.cut (t := x) ?_ ?_
        | refine Kept.cut (t := x.2) ?_ ?_
        | refine Kept.cut (t := x.2.2) ?_ ?_
        | (have hs : Sil := x; clear hs; unfold x)
        | (have hs : State → State := x; clear hs; unfold x)
        | (have hs : Nat → State → State := x; clear hs; unfold x)
        | clear_value x)

theorem execAckTimeout_kept {s0 s : State} {a0} (h : Kept s0 s) :
    ∃ u, execAckTimeout a0 s = .next u ∧ Kept s0 u := by
  unfold execAckTimeout done
  refine ⟨_, rfl, ?_⟩
  repeat' first
    | with_reducible assumption
    | with_reducible apply retryQp_kept

theorem execNakReceive_kept {s0 s : State} {a0 a1 a2} (h : Kept s0 s) :
    ∃ u, execNakReceive a0 a1 a2 s = .next u ∧ Kept s0 u := by
  unfold execNakReceive done
  refine ⟨_, rfl, ?_⟩
  repeat' first
    | with_reducible assumption
    | (intro hx; clear_value x)
    | with_reducible apply netLogAt_kept
    | with_reducible apply retryQp_kept
    | with_reducible apply ackQp_kept
    | with_reducible apply qpError_kept
    | split
    | ((fail_if_no_progress extract_lets +onlyGivenNames x); first
        | refine Kept.cut (t := x) ?_ ?_
        | refine Kept.cut (t := x.2) ?_ ?_
        | refine Kept.cut (t := x.2.2) ?_ ?_
        | (have hs : Sil := x; clear hs; unfold x)
        | (have hs : State → State := x; clear hs; unfold x)
        | (have hs : Nat → State → State := x; clear hs; unfold x)
        | clear_value x)

theorem execCnpReceive_kept {s0 s : State} {a0} (h : Kept s0 s) :
    ∃ u, execCnpReceive a0 s = .next u ∧ Kept s0 u := by
  unfold execCnpReceive done
  refine ⟨_, rfl, ?_⟩
  repeat' first
    | with_reducible assumption
    | (intro hx; clear_value x)
    | with_reducible apply bump_kept
    | with_reducible apply modQp_kept
    | split
    | ((fail_if_no_progress extract_lets +onlyGivenNames x); first
        | refine Kept.cut (t := x) ?_ ?_
        | refine Kept.cut (t := x.2) ?_ ?_
        | refine Kept.cut (t := x.2.2) ?_ ?_
        | (have hs : Sil := x; clear hs; unfold x)
        | (have hs : State → State := x; clear hs; unfold x)
        | (have hs : Nat → State → State := x; clear hs; unfold x)
        | clear_value x)

theorem execRateIncreaseTimer_kept {s0 s : State} {a0} (h : Kept s0 s) :
    ∃ u, execRateIncreaseTimer a0 s = .next u ∧ Kept s0 u := by
  unfold execRateIncreaseTimer done
  refine ⟨_, rfl, ?_⟩
  repeat' first
    | with_reducible assumption
    | with_reducible apply modQp_kept
    | split
    | ((fail_if_no_progress extract_lets +onlyGivenNames x); first
        | refine Kept.cut (t := x) ?_ ?_
        | refine Kept.cut (t := x.2) ?_ ?_
        | refine Kept.cut (t := x.2.2) ?_ ?_
        | (have hs : Sil := x; clear hs; unfold x)
        | (have hs : State → State := x; clear hs; unfold x)
        | (have hs : Nat → State → State := x; clear hs; unfold x)
        | clear_value x)

theorem dropStale_kept {s0 s : State} {a0 a1} (h : Kept s0 s) : Kept s0 (dropStale a0 a1 s) := by
  unfold dropStale
  repeat' first
    | with_reducible assumption
    | with_reducible apply netLog_kept
    | with_reducible apply bump_kept

theorem ctlMsg_kept {s0 s : State} {a0 a1 a2} {f : Nat → Nat → State → State} (h : Kept s0 s)
    (hf : ∀ k p s, Kept s0 s → Kept s0 (f k p s)) : Kept s0 (ctlMsg a0 a1 a2 f s) := by
  unfold ctlMsg
  dsimp only
  split
  · exact h
  · split
    · exact dropStale_kept h
    · split
      · exact h
      · exact hf _ _ _ h

theorem relayMsg_kept {s0 s : State} {a0 a1 a2} {g : Nat → Nat → Bool} {f : Nat → Nat → State → State} (h : Kept s0 s)
    (hf : ∀ k p s, Kept s0 s → Kept s0 (f k p s)) : Kept s0 (relayMsg a0 a1 a2 g f s) := by
  unfold relayMsg
  dsimp only
  split
  · exact h
  · split
    · exact dropStale_kept h
    · split
      · exact h
      · exact hf _ _ _ h

theorem refuseServing_kept {s0 s : State} {a0 a1 a2} (h : Kept s0 s) : Kept s0 (refuseServing a0 a1 a2 s) := by
  unfold refuseServing
  repeat' first
    | with_reducible assumption
    | (intro hx; clear_value x)
    | intro _
    | with_reducible apply whenS_kept
    | with_reducible apply failSeqCmds_kept
    | with_reducible apply failSeq_kept
    | with_reducible apply relaySend_kept
    | ((fail_if_no_progress extract_lets +onlyGivenNames x); first
        | refine Kept.cut (t := x) ?_ ?_
        | refine Kept.cut (t := x.2) ?_ ?_
        | refine Kept.cut (t := x.2.2) ?_ ?_
        | (have hs : Sil := x; clear hs; unfold x)
        | (have hs : State → State := x; clear hs; unfold x)
        | (have hs : Nat → State → State := x; clear hs; unfold x)
        | clear_value x)

theorem serveOne_kept {s0 s : State} {n k x} (h : Kept s0 s) : Kept s0 (serveOne n k x s).2 := by
  induction n generalizing s x with
  | zero => exact h
  | succ n ih =>
    unfold serveOne
    split
    · exact h
    · split
      · exact h
      · split
        · exact h
        · exact refuseServing_kept h
        · dsimp only
          split
          · exact ih (bump_kept (qpSend_kept h))
          · exact ih (qpSend_kept h)

theorem serveMore_kept {s0 s : State} {k} (h : Kept s0 s) : Kept s0 (serveMore k s) := by
  unfold serveMore
  extract_lets r
  have hr : Kept s0 r.2 := foldSPair_kept h fun x a ha => by
    dsimp only
    split
    · exact foldS_kept (serveOne_kept ha) fun _ _ h => unpin_kept h
    · exact serveOne_kept ha
  exact hr.same

theorem serve_kept {s0 s : State} {a0 a1} (h : Kept s0 s) : Kept s0 (serve a0 a1 s) := by
  unfold serve
  repeat' first
    | with_reducible assumption
    | intro _
    | with_reducible apply serveMore_kept
    | (with_reducible refine Kept.upd ?_ ?_; rotate_left; exact rfl)

theorem execWareReq_kept {s0 s : State} {a0 a1 a2 a3 a4 a5 a6 a7} (h : Kept s0 s) :
    ∃ u, execWareReq a0 a1 a2 a3 a4 a5 a6 a7 s = .next u ∧ Kept s0 u := by
  unfold execWareReq done
  refine ⟨_, rfl, ?_⟩
  repeat' first
    | with_reducible assumption
    | (intro hx; clear_value x)
    | intro _
    | with_reducible apply relayMsg_kept
    | with_reducible apply serve_kept
    | with_reducible apply relaySend_kept
    | split
    | ((fail_if_no_progress extract_lets +onlyGivenNames x); first
        | refine Kept.cut (t := x) ?_ ?_
        | refine Kept.cut (t := x.2) ?_ ?_
        | refine Kept.cut (t := x.2.2) ?_ ?_
        | (have hs : Sil := x; clear hs; unfold x)
        | (have hs : State → State := x; clear hs; unfold x)
        | (have hs : Nat → State → State := x; clear hs; unfold x)
        | clear_value x)

theorem execWareCredit_kept {s0 s : State} {a0 a1 a2 a3 a4} (h : Kept s0 s) :
    ∃ u, execWareCredit a0 a1 a2 a3 a4 s = .next u ∧ Kept s0 u := by
  unfold execWareCredit done
  refine ⟨_, rfl, ?_⟩
  repeat' first
    | with_reducible assumption
    | (intro hx; clear_value x)
    | intro _
    | with_reducible apply relayMsg_kept
    | with_reducible apply serveMore_kept
    | split
    | (with_reducible refine Kept.upd ?_ ?_; rotate_left; exact rfl)
    | ((fail_if_no_progress extract_lets +onlyGivenNames x); first
        | refine Kept.cut (t := x) ?_ ?_
        | refine Kept.cut (t := x.2) ?_ ?_
        | refine Kept.cut (t := x.2.2) ?_ ?_
        | (have hs : Sil := x; clear hs; unfold x)
        | (have hs : State → State := x; clear hs; unfold x)
        | (have hs : Nat → State → State := x; clear hs; unfold x)
        | clear_value x)

theorem execWareNack_kept {s0 s : State} {a0 a1 a2 a3 a4 a5} (h : Kept s0 s) :
    ∃ u, execWareNack a0 a1 a2 a3 a4 a5 s = .next u ∧ Kept s0 u := by
  unfold execWareNack done
  refine ⟨_, rfl, ?_⟩
  repeat' first
    | with_reducible assumption
    | (intro hx; clear_value x)
    | intro _
    | with_reducible apply relayMsg_kept
    | with_reducible apply failLoad_kept
    | with_reducible apply kickAsks_kept
    | with_reducible apply complete_kept
    | with_reducible apply stopDma_kept
    | split
    | ((fail_if_no_progress extract_lets +onlyGivenNames x); first
        | refine Kept.cut (t := x) ?_ ?_
        | refine Kept.cut (t := x.2) ?_ ?_
        | refine Kept.cut (t := x.2.2) ?_ ?_
        | (have hs : Sil := x; clear hs; unfold x)
        | (have hs : State → State := x; clear hs; unfold x)
        | (have hs : Nat → State → State := x; clear hs; unfold x)
        | clear_value x)

theorem execKvReq_kept {s0 s : State} {a0 a1 a2 a3 a4 a5 a6 a7 a8} (h : Kept s0 s) :
    ∃ u, execKvReq a0 a1 a2 a3 a4 a5 a6 a7 a8 s = .next u ∧ Kept s0 u := by
  unfold execKvReq done
  refine ⟨_, rfl, ?_⟩
  repeat' first
    | with_reducible assumption
    | (intro hx; clear_value x)
    | intro _
    | with_reducible apply foldS_kept
    | with_reducible apply foldSPair_kept
    | with_reducible apply ctlMsg_kept
    | with_reducible apply relaySend_kept
    | with_reducible apply serve_kept
    | with_reducible apply pin_kept
    | split
    | ((fail_if_no_progress extract_lets +onlyGivenNames x); first
        | refine Kept.cut (t := x) ?_ ?_
        | refine Kept.cut (t := x.2) ?_ ?_
        | refine Kept.cut (t := x.2.2) ?_ ?_
        | (have hs : Sil := x; clear hs; unfold x)
        | (have hs : State → State := x; clear hs; unfold x)
        | (have hs : Nat → State → State := x; clear hs; unfold x)
        | clear_value x)

theorem payloadIn_kept {s0 s : State} {a0 a1 a2 a3} (h : Kept s0 s) : Kept s0 (payloadIn a0 a1 a2 a3 s) := by
  unfold payloadIn
  repeat' first
    | with_reducible assumption
    | with_reducible apply serveMore_kept
    | with_reducible apply payloadArrives_kept

theorem execWarePayloadArrival_kept {s0 s : State} {a0 a1 a2 a3} (h : Kept s0 s) :
    ∃ u, execWarePayloadArrival a0 a1 a2 a3 s = .next u ∧ Kept s0 u := by
  unfold execWarePayloadArrival done
  refine ⟨_, rfl, ?_⟩
  repeat' first
    | with_reducible assumption
    | (intro hx; clear_value x)
    | with_reducible apply payloadIn_kept
    | split
    | ((fail_if_no_progress extract_lets +onlyGivenNames x); first
        | refine Kept.cut (t := x) ?_ ?_
        | refine Kept.cut (t := x.2) ?_ ?_
        | refine Kept.cut (t := x.2.2) ?_ ?_
        | (have hs : Sil := x; clear hs; unfold x)
        | (have hs : State → State := x; clear hs; unfold x)
        | (have hs : Nat → State → State := x; clear hs; unfold x)
        | clear_value x)

theorem recordIn_kept {s0 s : State} {a0 a1 a2 a3} (h : Kept s0 s) : Kept s0 (recordIn a0 a1 a2 a3 s) := by
  unfold recordIn
  repeat' first
    | with_reducible assumption
    | (intro hx; clear_value x)
    | intro _
    | with_reducible apply foldS_kept
    | with_reducible apply foldSPair_kept
    | with_reducible apply ckptReady_kept
    | with_reducible apply setCmd_kept
    | with_reducible apply serveMore_kept
    | with_reducible apply validate_kept
    | with_reducible apply modLoad_kept
    | with_reducible apply payloadIn_kept
    | with_reducible apply restoreArrives_kept
    | split
    | (with_reducible refine Kept.upd ?_ ?_; rotate_left; exact rfl)
    | ((fail_if_no_progress extract_lets +onlyGivenNames x); first
        | refine Kept.cut (t := x) ?_ ?_
        | refine Kept.cut (t := x.2) ?_ ?_
        | refine Kept.cut (t := x.2.2) ?_ ?_
        | (have hs : Sil := x; clear hs; unfold x)
        | (have hs : State → State := x; clear hs; unfold x)
        | (have hs : Nat → State → State := x; clear hs; unfold x)
        | clear_value x)

theorem releaseSlot_kept {s0 s : State} {a0 a1} (h : Kept s0 s) : Kept s0 (releaseSlot a0 a1 s) := by
  unfold releaseSlot
  repeat' first
    | with_reducible assumption
    | (intro hx; clear_value x)
    | with_reducible apply relaySend_kept
    | with_reducible apply kickAsks_kept
    | split
    | (with_reducible refine Kept.upd ?_ ?_; rotate_left; exact rfl)
    | ((fail_if_no_progress extract_lets +onlyGivenNames x); first
        | refine Kept.cut (t := x) ?_ ?_
        | refine Kept.cut (t := x.2) ?_ ?_
        | refine Kept.cut (t := x.2.2) ?_ ?_
        | (have hs : Sil := x; clear hs; unfold x)
        | (have hs : State → State := x; clear hs; unfold x)
        | (have hs : Nat → State → State := x; clear hs; unfold x)
        | clear_value x)

theorem execFetchChunkArrival_kept {s0 s : State} {a0 a1 a2 a3 a4} (h : Kept s0 s) :
    ∃ u, execFetchChunkArrival a0 a1 a2 a3 a4 s = .next u ∧ Kept s0 u := by
  unfold execFetchChunkArrival done
  refine ⟨_, rfl, ?_⟩
  repeat' first
    | with_reducible assumption
    | (intro hx; clear_value x)
    | intro _
    | with_reducible apply wrBytes_kept
    | with_reducible apply releaseSlot_kept
    | with_reducible apply recordIn_kept
    | split
    | (with_reducible refine Kept.upd ?_ ?_; rotate_left; exact rfl)
    | ((fail_if_no_progress extract_lets +onlyGivenNames x); first
        | refine Kept.cut (t := x) ?_ ?_
        | refine Kept.cut (t := x.2) ?_ ?_
        | refine Kept.cut (t := x.2.2) ?_ ?_
        | (have hs : Sil := x; clear hs; unfold x)
        | (have hs : State → State := x; clear hs; unfold x)
        | (have hs : Nat → State → State := x; clear hs; unfold x)
        | clear_value x)

theorem execFenceNotice_kept {s0 s : State} {a0 a1 a2 a3 a4} (h : Kept s0 s) :
    ∃ u, execFenceNotice a0 a1 a2 a3 a4 s = .next u ∧ Kept s0 u := by
  unfold execFenceNotice done
  refine ⟨_, rfl, ?_⟩
  repeat' first
    | with_reducible assumption
    | intro _
    | with_reducible apply ctlMsg_kept
    | with_reducible apply netLog_kept
    | with_reducible apply signalVec_kept
    | with_reducible apply setEv_kept
    | with_reducible apply peerGone_kept
    | with_reducible apply declarePeer_kept
    | split
    | ((fail_if_no_progress extract_lets +onlyGivenNames x); first
        | refine Kept.cut (t := x) ?_ ?_
        | refine Kept.cut (t := x.2) ?_ ?_
        | refine Kept.cut (t := x.2.2) ?_ ?_
        | (have hs : Sil := x; clear hs; unfold x)
        | (have hs : State → State := x; clear hs; unfold x)
        | (have hs : Nat → State → State := x; clear hs; unfold x)
        | clear_value x)

theorem checkResume_kept {s0 s : State} {a0} (h : Kept s0 s) : Kept s0 (checkResume a0 s) := by
  unfold checkResume
  repeat' first
    | with_reducible assumption
    | with_reducible apply netLog_kept
    | with_reducible apply signalVec_kept
    | with_reducible apply setEv_kept
    | with_reducible apply modMember_kept
    | split
    | ((fail_if_no_progress extract_lets +onlyGivenNames x); first
        | refine Kept.cut (t := x) ?_ ?_
        | refine Kept.cut (t := x.2) ?_ ?_
        | refine Kept.cut (t := x.2.2) ?_ ?_
        | (have hs : Sil := x; clear hs; unfold x)
        | (have hs : State → State := x; clear hs; unfold x)
        | (have hs : Nat → State → State := x; clear hs; unfold x)
        | clear_value x)

theorem execRejoin_kept {s0 s : State} {a0 a1 a2} (h : Kept s0 s) :
    ∃ u, execRejoin a0 a1 a2 s = .next u ∧ Kept s0 u := by
  unfold execRejoin done
  refine ⟨_, rfl, ?_⟩
  repeat' first
    | with_reducible assumption
    | with_reducible apply dropStale_kept
    | with_reducible apply modPeer_kept
    | with_reducible apply checkResume_kept
    | with_reducible apply ctrlSend_kept
    | split
    | ((fail_if_no_progress extract_lets +onlyGivenNames x); first
        | refine Kept.cut (t := x) ?_ ?_
        | refine Kept.cut (t := x.2) ?_ ?_
        | refine Kept.cut (t := x.2.2) ?_ ?_
        | (have hs : Sil := x; clear hs; unfold x)
        | (have hs : State → State := x; clear hs; unfold x)
        | (have hs : Nat → State → State := x; clear hs; unfold x)
        | clear_value x)

theorem execRejoinAck_kept {s0 s : State} {a0 a1 a2} (h : Kept s0 s) :
    ∃ u, execRejoinAck a0 a1 a2 s = .next u ∧ Kept s0 u := by
  unfold execRejoinAck done
  refine ⟨_, rfl, ?_⟩
  repeat' first
    | with_reducible assumption
    | with_reducible apply dropStale_kept
    | with_reducible apply checkResume_kept
    | with_reducible apply modPeer_kept
    | split
    | ((fail_if_no_progress extract_lets +onlyGivenNames x); first
        | refine Kept.cut (t := x) ?_ ?_
        | refine Kept.cut (t := x.2) ?_ ?_
        | refine Kept.cut (t := x.2.2) ?_ ?_
        | (have hs : Sil := x; clear hs; unfold x)
        | (have hs : State → State := x; clear hs; unfold x)
        | (have hs : Nat → State → State := x; clear hs; unfold x)
        | clear_value x)

theorem execStepRec_kept {s0 s : State} {a0 a1 a2 a3 a4} (h : Kept s0 s) :
    ∃ u, execStepRec a0 a1 a2 a3 a4 s = .next u ∧ Kept s0 u := by
  unfold execStepRec done
  refine ⟨_, rfl, ?_⟩
  repeat' first
    | with_reducible assumption
    | intro _
    | with_reducible apply ctlMsg_kept
    | with_reducible apply checkRecs_kept
    | with_reducible apply modPeer_kept
    | split

theorem execJobRejoinStart_kept {s0 s : State} {a0 a1} (h : Kept s0 s) :
    ∃ u, execJobRejoinStart a0 a1 s = .next u ∧ Kept s0 u := by
  unfold execJobRejoinStart done
  refine ⟨_, rfl, ?_⟩
  repeat' first
    | with_reducible assumption
    | intro _
    | with_reducible apply foldS_kept
    | with_reducible apply modMember_kept
    | with_reducible apply modPeer_kept
    | with_reducible apply ctrlSend_kept
    | split
    | ((fail_if_no_progress extract_lets +onlyGivenNames x); first
        | refine Kept.cut (t := x) ?_ ?_
        | refine Kept.cut (t := x.2) ?_ ?_
        | refine Kept.cut (t := x.2.2) ?_ ?_
        | (have hs : Sil := x; clear hs; unfold x)
        | (have hs : State → State := x; clear hs; unfold x)
        | (have hs : Nat → State → State := x; clear hs; unfold x)
        | clear_value x)

theorem execVstore_kept {s0 s : State} {a0 a1} (h : Kept s0 s) :
    ∃ u, execVstore a0 a1 s = .next u ∧ Kept s0 u := by
  unfold execVstore done
  refine ⟨_, rfl, ?_⟩
  repeat' first
    | with_reducible assumption
    | with_reducible apply settleFences_kept
    | with_reducible apply vstore_kept

theorem execContributionReceive_kept {s0 s : State} {a0 a1 a2} (h : Kept s0 s) :
    ∃ u, execContributionReceive a0 a1 a2 s = .next u ∧ Kept s0 u := by
  unfold execContributionReceive done
  refine ⟨_, rfl, ?_⟩
  repeat' first
    | with_reducible assumption
    | (intro hx; clear_value x)
    | intro _
    | with_reducible apply dropStale_kept
    | with_reducible apply wrBytes_kept
    | with_reducible apply settleFences_kept
    | with_reducible apply xchReady_kept
    | with_reducible apply modXch_kept
    | split
    | ((fail_if_no_progress extract_lets +onlyGivenNames x); first
        | refine Kept.cut (t := x) ?_ ?_
        | refine Kept.cut (t := x.2) ?_ ?_
        | refine Kept.cut (t := x.2.2) ?_ ?_
        | (have hs : Sil := x; clear hs; unfold x)
        | (have hs : State → State := x; clear hs; unfold x)
        | (have hs : Nat → State → State := x; clear hs; unfold x)
        | clear_value x)

theorem execCollectiveTimeout_kept {s0 s : State} {a0 a1 a2} (h : Kept s0 s) :
    ∃ u, execCollectiveTimeout a0 a1 a2 s = .next u ∧ Kept s0 u := by
  unfold execCollectiveTimeout done
  refine ⟨_, rfl, ?_⟩
  repeat' first
    | with_reducible assumption
    | (intro hx; clear_value x)
    | with_reducible apply peerLost_kept
    | with_reducible apply bump_kept
    | split
    | ((fail_if_no_progress extract_lets +onlyGivenNames x); first
        | refine Kept.cut (t := x) ?_ ?_
        | refine Kept.cut (t := x.2) ?_ ?_
        | refine Kept.cut (t := x.2.2) ?_ ?_
        | (have hs : Sil := x; clear hs; unfold x)
        | (have hs : State → State := x; clear hs; unfold x)
        | (have hs : Nat → State → State := x; clear hs; unfold x)
        | clear_value x)

theorem dropQps_kept {s0 s : State} {a0} (h : Kept s0 s) : Kept s0 (dropQps a0 s) := by
  unfold dropQps
  repeat' first
    | with_reducible assumption
    | (with_reducible refine Kept.upd ?_ ?_; rotate_left; exact rfl)

theorem sendNotice_kept {s0 s : State} {a0 a1} (h : Kept s0 s) : Kept s0 (sendNotice a0 a1 s) := by
  unfold sendNotice
  repeat' first
    | with_reducible assumption
    | with_reducible apply ctrlAll_kept
    | with_reducible apply modMember_kept
    | with_reducible apply holdJob_kept
    | split

end Sys2Proof.Machine
end

