-- ==== Sys2Proof/Laws/KeptUnitOps.lean ====
section
/-! SUPPORT. What `Kept` says is kept by the operations of Machine/UnitOps.lean. -/

-- One proof at a time: proofs elaborated side by side wait on each other, and each that waits holds a thread's stack.
set_option Elab.async false

namespace Sys2Proof.Machine

open Sys2Proof

theorem setLast_kept {s0 s : State} {a0 a1 a2 a3 a4} (h : Kept s0 s) : Kept s0 (setLast a0 a1 a2 a3 a4 s) := by
  unfold setLast
  repeat' first
    | with_reducible assumption
    | with_reducible apply wr_kept

theorem letGo_kept {s0 s : State} {a0} (h : Kept s0 s) : Kept s0 (letGo a0 s) := by
  unfold letGo
  repeat' first
    | with_reducible assumption
    | intro _
    | with_reducible apply foldS_kept
    | with_reducible apply emit_kept
    | split
    | (with_reducible refine Kept.upd ?_ ?_; rotate_left; exact rfl)

theorem releaseHalt_kept {s0 s : State} {a0} (h : Kept s0 s) : Kept s0 (releaseHalt a0 s) := by
  unfold releaseHalt
  repeat' first
    | with_reducible assumption
    | (intro hx; clear_value x)
    | intro _
    | with_reducible apply wrf_kept
    | with_reducible apply letGo_kept
    | with_reducible apply logE_kept
    | with_reducible apply setEv_kept
    | split
    | (with_reducible refine Kept.upd ?_ ?_; rotate_left; exact rfl)
    | ((fail_if_no_progress extract_lets +onlyGivenNames x); first
        | refine Kept.cut (t := x) ?_ ?_
        | refine Kept.cut (t := x.2) ?_ ?_
        | refine Kept.cut (t := x.2.2) ?_ ?_
        | (have hs : Sil := x; clear hs; unfold x)
        | (have hs : State → State := x; clear hs; unfold x)
        | (have hs : Nat → State → State := x; clear hs; unfold x)
        | clear_value x)

theorem stopBayCal_kept {s0 s : State} {a0} (h : Kept s0 s) : Kept s0 (stopBayCal a0 s) := by
  unfold stopBayCal
  repeat' first
    | with_reducible assumption
    | (intro hx; clear_value x)
    | intro _
    | with_reducible apply foldS_kept
    | with_reducible apply foldSPair_kept
    | with_reducible apply clearSoak_kept
    | with_reducible apply modCal_kept
    | with_reducible apply setProg_kept
    | with_reducible apply haltProg_kept
    | split
    | (with_reducible refine Kept.upd ?_ ?_; rotate_left; exact rfl)
    | ((fail_if_no_progress extract_lets +onlyGivenNames x); first
        | refine Kept.cut (t := x) ?_ ?_
        | refine Kept.cut (t := x.2) ?_ ?_
        | refine Kept.cut (t := x.2.2) ?_ ?_
        | (have hs : Sil := x; clear hs; unfold x)
        | (have hs : State → State := x; clear hs; unfold x)
        | (have hs : Nat → State → State := x; clear hs; unfold x)
        | clear_value x)

theorem answerFenced_kept {s0 s : State} {a0 a1} (h : Kept s0 s) : Kept s0 (answerFenced a0 a1 s) := by
  unfold answerFenced
  repeat' first
    | with_reducible assumption
    | intro _
    | with_reducible apply foldS_kept
    | with_reducible apply foldSPair_kept
    | with_reducible apply refuseReq_kept

theorem fenceRows_kept {s0 s : State} {a0 a1} (h : Kept s0 s) : Kept s0 (fenceRows a0 a1 s) := by
  unfold fenceRows
  repeat' first
    | with_reducible assumption
    | intro _
    | with_reducible apply foldS_kept
    | with_reducible apply whenS_kept
    | with_reducible apply foldSPair_kept
    | with_reducible apply fenceProg_kept
    | split

theorem answerHeld_kept {s0 s : State} {a0} (h : Kept s0 s) : Kept s0 (answerHeld a0 s) := by
  unfold answerHeld
  repeat' first
    | with_reducible assumption
    | intro _
    | with_reducible apply foldS_kept
    | with_reducible apply foldSPair_kept
    | with_reducible apply fenceRows_kept
    | with_reducible apply answerFenced_kept
    | with_reducible apply modTile_kept

theorem onFence_kept {s0 s : State} {a0 a1 a2} (h : Kept s0 s) : Kept s0 (onFence a0 a1 a2 s) := by
  unfold onFence
  repeat' first
    | with_reducible assumption
    | (intro hx; clear_value x)
    | intro _
    | with_reducible apply foldS_kept
    | with_reducible apply foldSPair_kept
    | with_reducible apply releaseHalt_kept
    | with_reducible apply answerHeld_kept
    | with_reducible apply freeRoom_kept
    | with_reducible apply spoilBay_kept
    | with_reducible apply stopBayCal_kept
    | with_reducible apply stopLoad_kept
    | with_reducible apply sendNotice_kept
    | split
    | ((fail_if_no_progress extract_lets +onlyGivenNames x); first
        | refine Kept.cut (t := x) ?_ ?_
        | refine Kept.cut (t := x.2) ?_ ?_
        | refine Kept.cut (t := x.2.2) ?_ ?_
        | (have hs : Sil := x; clear hs; unfold x)
        | (have hs : State → State := x; clear hs; unfold x)
        | (have hs : Nat → State → State := x; clear hs; unfold x)
        | clear_value x)

theorem dropTiles_kept {s0 s : State} {a0} (h : Kept s0 s) : Kept s0 (dropTiles a0 s) := by
  unfold dropTiles
  repeat' first
    | with_reducible assumption
    | (intro hx; clear_value x)
    | intro _
    | with_reducible apply foldS_kept
    | with_reducible apply whenS_kept
    | with_reducible apply foldSPair_kept
    | with_reducible apply dropPending_kept
    | with_reducible apply answerFenced_kept
    | with_reducible apply modTile_kept
    | with_reducible apply returnToken_kept
    | with_reducible apply setProg_kept
    | with_reducible apply haltProg_kept
    | split
    | (with_reducible refine Kept.upd ?_ ?_; rotate_left; exact rfl)
    | ((fail_if_no_progress extract_lets +onlyGivenNames x); first
        | refine Kept.cut (t := x) ?_ ?_
        | refine Kept.cut (t := x.2) ?_ ?_
        | refine Kept.cut (t := x.2.2) ?_ ?_
        | (have hs : Sil := x; clear hs; unfold x)
        | (have hs : State → State := x; clear hs; unfold x)
        | (have hs : Nat → State → State := x; clear hs; unfold x)
        | clear_value x)

theorem dropAcc_kept {s0 s : State} {a0} (h : Kept s0 s) : Kept s0 (dropAcc a0 s) := by
  unfold dropAcc
  repeat' first
    | with_reducible assumption
    | (intro hx; clear_value x)
    | intro _
    | with_reducible apply foldS_kept
    | with_reducible apply foldSPair_kept
    | with_reducible apply modTile_kept
    | (with_reducible refine Kept.upd ?_ ?_; rotate_left; exact rfl)
    | ((fail_if_no_progress extract_lets +onlyGivenNames x); first
        | refine Kept.cut (t := x) ?_ ?_
        | refine Kept.cut (t := x.2) ?_ ?_
        | refine Kept.cut (t := x.2.2) ?_ ?_
        | (have hs : Sil := x; clear hs; unfold x)
        | (have hs : State → State := x; clear hs; unfold x)
        | (have hs : Nat → State → State := x; clear hs; unfold x)
        | clear_value x)

theorem dropGlz_kept {s0 s : State} {a0} (h : Kept s0 s) : Kept s0 (dropGlz a0 s) := by
  unfold dropGlz
  repeat' first
    | with_reducible assumption
    | (intro hx; clear_value x)
    | intro _
    | (with_reducible refine Kept.upd ?_ ?_; rotate_left; exact rfl)
    | ((fail_if_no_progress extract_lets +onlyGivenNames x); first
        | refine Kept.cut (t := x) ?_ ?_
        | refine Kept.cut (t := x.2) ?_ ?_
        | refine Kept.cut (t := x.2.2) ?_ ?_
        | (have hs : Sil := x; clear hs; unfold x)
        | (have hs : State → State := x; clear hs; unfold x)
        | (have hs : Nat → State → State := x; clear hs; unfold x)
        | clear_value x)

theorem endPasses_kept {s0 s : State} {a0} (h : Kept s0 s) : Kept s0 (endPasses a0 s) := by
  unfold endPasses
  repeat' first
    | with_reducible assumption
    | (intro hx; clear_value x)
    | intro _
    | split
    | (with_reducible refine Kept.upd ?_ ?_; rotate_left; exact rfl)
    | ((fail_if_no_progress extract_lets +onlyGivenNames x); first
        | refine Kept.cut (t := x) ?_ ?_
        | refine Kept.cut (t := x.2) ?_ ?_
        | refine Kept.cut (t := x.2.2) ?_ ?_
        | (have hs : Sil := x; clear hs; unfold x)
        | (have hs : State → State := x; clear hs; unfold x)
        | (have hs : Nat → State → State := x; clear hs; unfold x)
        | clear_value x)

theorem dropHome_kept {s0 s : State} {a0} (h : Kept s0 s) : Kept s0 (dropHome a0 s) := by
  unfold dropHome
  repeat' first
    | with_reducible assumption
    | intro _
    | split
    | (with_reducible refine Kept.upd ?_ ?_; rotate_left; exact rfl)

theorem dropVec_kept {s0 s : State} {a0} (h : Kept s0 s) : Kept s0 (dropVec a0 s) := by
  unfold dropVec
  repeat' first
    | with_reducible assumption
    | (intro hx; clear_value x)
    | intro _
    | with_reducible apply foldS_kept
    | with_reducible apply foldSPair_kept
    | with_reducible apply answerRefused_kept
    | with_reducible apply noteReady_kept
    | split
    | (with_reducible refine Kept.upd ?_ ?_; rotate_left; exact rfl)
    | ((fail_if_no_progress extract_lets +onlyGivenNames x); first
        | refine Kept.cut (t := x) ?_ ?_
        | refine Kept.cut (t := x.2) ?_ ?_
        | refine Kept.cut (t := x.2.2) ?_ ?_
        | (have hs : Sil := x; clear hs; unfold x)
        | (have hs : State → State := x; clear hs; unfold x)
        | (have hs : Nat → State → State := x; clear hs; unfold x)
        | clear_value x)

theorem dropWork_kept {s0 s : State} {a0 a1} (h : Kept s0 s) : Kept s0 (dropWork a0 a1 s) := by
  unfold dropWork
  repeat' first
    | with_reducible assumption
    | (intro hx; clear_value x)
    | intro _
    | with_reducible apply foldS_kept
    | with_reducible apply foldSPair_kept
    | with_reducible apply spoilLost_kept
    | with_reducible apply failSteps_kept
    | with_reducible apply dropTiles_kept
    | with_reducible apply dropAcc_kept
    | with_reducible apply dropGlz_kept
    | with_reducible apply endPasses_kept
    | with_reducible apply dropHome_kept
    | with_reducible apply dropVec_kept
    | with_reducible apply freeRoom_kept
    | with_reducible apply unpin_kept
    | with_reducible apply stopBayCal_kept
    | with_reducible apply answerHeld_kept
    | with_reducible apply closeAll_kept
    | (with_reducible refine Kept.upd ?_ ?_; rotate_left; exact rfl)
    | ((fail_if_no_progress extract_lets +onlyGivenNames x); first
        | refine Kept.cut (t := x) ?_ ?_
        | refine Kept.cut (t := x.2) ?_ ?_
        | refine Kept.cut (t := x.2.2) ?_ ?_
        | (have hs : Sil := x; clear hs; unfold x)
        | (have hs : State → State := x; clear hs; unfold x)
        | (have hs : Nat → State → State := x; clear hs; unfold x)
        | clear_value x)

theorem clearRegs_kept {s0 s : State} {a0 a1} (h : Kept s0 s) : Kept s0 (clearRegs a0 a1 s) := by
  unfold clearRegs
  repeat' first
    | with_reducible assumption
    | (with_reducible refine Kept.upd ?_ ?_; rotate_left; exact rfl)

theorem dropStrobes_kept {s0 s : State} {a0 a1} (h : Kept s0 s) : Kept s0 (dropStrobes a0 a1 s) := by
  unfold dropStrobes
  repeat' first
    | with_reducible assumption
    | (intro hx; clear_value x)
    | intro _
    | with_reducible apply bump_kept
    | (with_reducible refine Kept.upd ?_ ?_; rotate_left; exact rfl)
    | ((fail_if_no_progress extract_lets +onlyGivenNames x); first
        | refine Kept.cut (t := x) ?_ ?_
        | refine Kept.cut (t := x.2) ?_ ?_
        | refine Kept.cut (t := x.2.2) ?_ ?_
        | (have hs : Sil := x; clear hs; unfold x)
        | (have hs : State → State := x; clear hs; unfold x)
        | (have hs : Nat → State → State := x; clear hs; unfold x)
        | clear_value x)

theorem dropRwb_kept {s0 s : State} {a0} (h : Kept s0 s) : Kept s0 (dropRwb a0 s) := by
  unfold dropRwb
  repeat' first
    | with_reducible assumption
    | (intro hx; clear_value x)
    | intro _
    | with_reducible apply dropBuffered_kept
    | with_reducible apply dropStrobes_kept
    | ((fail_if_no_progress extract_lets +onlyGivenNames x); first
        | refine Kept.cut (t := x) ?_ ?_
        | refine Kept.cut (t := x.2) ?_ ?_
        | refine Kept.cut (t := x.2.2) ?_ ?_
        | (have hs : Sil := x; clear hs; unfold x)
        | (have hs : State → State := x; clear hs; unfold x)
        | (have hs : Nat → State → State := x; clear hs; unfold x)
        | clear_value x)

theorem putLocks_kept {s0 s : State} {a0 a1} (h : Kept s0 s) : Kept s0 (putLocks a0 a1 s) := by
  unfold putLocks
  repeat' first
    | with_reducible assumption
    | intro _
    | with_reducible apply foldS_kept
    | with_reducible apply foldSPair_kept
    | with_reducible apply wrf_kept

theorem resetUnits_kept {s0 s : State} {a0 a1} (h : Kept s0 s) : Kept s0 (resetUnits a0 a1 s) := by
  unfold resetUnits
  repeat' first
    | with_reducible assumption
    | (intro hx; clear_value x)
    | intro _
    | with_reducible apply dropWork_kept
    | with_reducible apply clearRegs_kept
    | with_reducible apply dropRwb_kept
    | with_reducible apply putLocks_kept
    | ((fail_if_no_progress extract_lets +onlyGivenNames x); first
        | refine Kept.cut (t := x) ?_ ?_
        | refine Kept.cut (t := x.2) ?_ ?_
        | refine Kept.cut (t := x.2.2) ?_ ?_
        | (have hs : Sil := x; clear hs; unfold x)
        | (have hs : State → State := x; clear hs; unfold x)
        | (have hs : Nat → State → State := x; clear hs; unfold x)
        | clear_value x)

theorem markFailed_kept {s0 s : State} {a0 a1 a2} (h : Kept s0 s) : Kept s0 (markFailed a0 a1 a2 s) := by
  unfold markFailed
  repeat' first
    | with_reducible assumption
    | (intro hx; clear_value x)
    | intro _
    | with_reducible apply whenS_kept
    | with_reducible apply modUnit_kept
    | with_reducible apply askFlash_kept
    | with_reducible apply setEv_kept
    | with_reducible apply setTileState_kept
    | with_reducible apply rstLog_kept
    | (with_reducible refine Kept.upd ?_ ?_; rotate_left; exact rfl)
    | ((fail_if_no_progress extract_lets +onlyGivenNames x); first
        | refine Kept.cut (t := x) ?_ ?_
        | refine Kept.cut (t := x.2) ?_ ?_
        | refine Kept.cut (t := x.2.2) ?_ ?_
        | (have hs : Sil := x; clear hs; unfold x)
        | (have hs : State → State := x; clear hs; unfold x)
        | (have hs : Nat → State → State := x; clear hs; unfold x)
        | clear_value x)

theorem flushXing_kept {s0 s : State} {a0} (h : Kept s0 s) : Kept s0 (flushXing a0 s) := by
  unfold flushXing
  repeat' first
    | with_reducible assumption
    | intro _
    | with_reducible apply foldS_kept
    | with_reducible apply foldSPair_kept
    | with_reducible apply xreset_kept
    | with_reducible apply failFetch_kept
    | with_reducible apply failSend_kept
    | split

theorem closeXing_kept {s0 s : State} {a0} (h : Kept s0 s) : Kept s0 (closeXing a0 s) := by
  unfold closeXing
  repeat' first
    | with_reducible assumption
    | intro _
    | with_reducible apply modXing_kept
    | with_reducible apply flushXing_kept

theorem holdReset_kept {s0 s : State} {a0 a1} (h : Kept s0 s) : Kept s0 (holdReset a0 a1 s) := by
  unfold holdReset
  repeat' first
    | with_reducible assumption
    | intro _
    | with_reducible apply foldS_kept
    | with_reducible apply foldSPair_kept
    | with_reducible apply modUnit_kept
    | with_reducible apply closeXing_kept

theorem modPart_kept {s0 s : State} {a0 a1} (h : Kept s0 s) : Kept s0 (modPart a0 a1 s) := by
  unfold modPart
  repeat' first
    | with_reducible assumption
    | (with_reducible refine Kept.upd ?_ ?_; rotate_left; exact rfl)

theorem clearCtxs_kept {s0 s : State} {a0} (h : Kept s0 s) : Kept s0 (clearCtxs a0 s) := by
  unfold clearCtxs
  repeat' first
    | with_reducible assumption
    | (intro hx; clear_value x)
    | intro _
    | with_reducible apply foldS_kept
    | with_reducible apply foldSPair_kept
    | with_reducible apply dropImage_kept
    | with_reducible apply dropSeqsOf_kept
    | with_reducible apply freeSeqIdx_kept
    | with_reducible apply qpErrors_kept
    | (with_reducible refine Kept.upd ?_ ?_; rotate_left; exact rfl)
    | ((fail_if_no_progress extract_lets +onlyGivenNames x); first
        | refine Kept.cut (t := x) ?_ ?_
        | refine Kept.cut (t := x.2) ?_ ?_
        | refine Kept.cut (t := x.2.2) ?_ ?_
        | (have hs : Sil := x; clear hs; unfold x)
        | (have hs : State → State := x; clear hs; unfold x)
        | (have hs : Nat → State → State := x; clear hs; unfold x)
        | clear_value x)

theorem clearMemory_kept {s0 s : State} {a0} (h : Kept s0 s) : Kept s0 (clearMemory a0 s) := by
  unfold clearMemory
  extract_lets mine t u
  have ht : Kept s0 t :=
    ⟨h.queue, h.identity, fun m => twf_tdrop (fun _ => 0) mine _ (h.memory m), h.log,
      h.events, h.mirror, h.rollback, h.anchors, h.anchorCap, h.unlocks, h.commissioned, h.owner⟩
  have hu : Kept s0 u := loseShadows_kept ht
  exact foldS_kept hu fun g s h => foldS_kept h fun c s h => h.same

theorem clearDies_kept {s0 s : State} {a0} (h : Kept s0 s) : Kept s0 (clearDies a0 s) := by
  unfold clearDies
  repeat' first
    | with_reducible assumption
    | (intro hx; clear_value x)
    | intro _
    | with_reducible apply foldS_kept
    | with_reducible apply foldSPair_kept
    | with_reducible apply fail_kept
    | with_reducible apply chain_kept
    | with_reducible apply showBisque_kept
    | with_reducible apply setTileState_kept
    | with_reducible apply dropGlz_kept
    | split
    | (with_reducible refine Kept.upd ?_ ?_; rotate_left; exact rfl)
    | ((fail_if_no_progress extract_lets +onlyGivenNames x); first
        | refine Kept.cut (t := x) ?_ ?_
        | refine Kept.cut (t := x.2) ?_ ?_
        | refine Kept.cut (t := x.2.2) ?_ ?_
        | (have hs : Sil := x; clear hs; unfold x)
        | (have hs : State → State := x; clear hs; unfold x)
        | (have hs : Nat → State → State := x; clear hs; unfold x)
        | clear_value x)

theorem ptClear_kept {s0 s : State} {a0} (h : Kept s0 s) : Kept s0 (ptClear a0 s) := by
  unfold ptClear
  repeat' first
    | with_reducible assumption
    | (intro hx; clear_value x)
    | intro _
    | with_reducible apply foldS_kept
    | with_reducible apply foldSPair_kept
    | with_reducible apply closeXing_kept
    | with_reducible apply clearMemory_kept
    | with_reducible apply clearCtxs_kept
    | with_reducible apply dropStrobes_kept
    | with_reducible apply dropBuffered_kept
    | with_reducible apply clearDies_kept
    | with_reducible apply modUnit_kept
    | with_reducible apply modPart_kept
    | ((fail_if_no_progress extract_lets +onlyGivenNames x); first
        | refine Kept.cut (t := x) ?_ ?_
        | refine Kept.cut (t := x.2) ?_ ?_
        | refine Kept.cut (t := x.2.2) ?_ ?_
        | (have hs : Sil := x; clear hs; unfold x)
        | (have hs : State → State := x; clear hs; unfold x)
        | (have hs : Nat → State → State := x; clear hs; unfold x)
        | clear_value x)

theorem pdSwitch_kept {s0 s : State} {a0} (h : Kept s0 s) : Kept s0 (pdSwitch a0 s) := by
  unfold pdSwitch
  repeat' first
    | with_reducible assumption
    | (with_reducible refine Kept.upd ?_ ?_; rotate_left; exact rfl)

theorem pdSwitchAll_kept {s0 s : State} {a0 a1} (h : Kept s0 s) : Kept s0 (pdSwitchAll a0 a1 s) := by
  unfold pdSwitchAll
  repeat' first
    | with_reducible assumption
    | intro _
    | with_reducible apply foldS_kept
    | with_reducible apply pdSwitch_kept

theorem pdAdvance_kept {s0 s : State} {a0} (h : Kept s0 s) : Kept s0 (pdAdvance a0 s) := by
  unfold pdAdvance
  extract_lets a d b up
  have hup : ∀ s, Kept s0 s → Kept s0 (up s) := by
    intro s h
    unfold up
    repeat' first
      | with_reducible assumption
      | with_reducible apply pdSwitchAll_kept
      | with_reducible apply modPart_kept
      | split
  clear_value up
  split
  · split
    · exact pdSwitchAll_kept h
    · split
      · exact pdSwitchAll_kept (whenS_kept h fun s h => ptClear_kept h)
      · split
        · exact pdSwitchAll_kept h
        · split
          · exact hup _ (h.same)
          · exact h
  · exact hup _ h
  · exact h

end Sys2Proof.Machine
end

