-- ==== Sys2Proof/Laws/KeptFence.lean ====
section
/-! SUPPORT. What `Kept` says is kept by the operations of Machine/Fence.lean. -/

-- One proof at a time: proofs elaborated side by side wait on each other, and each that waits holds a thread's stack.
set_option Elab.async false

namespace Sys2Proof.Machine

open Sys2Proof

theorem enterReset_kept {s0 s : State} {a0 a1} (h : Kept s0 s) : Kept s0 (enterReset a0 a1 s) := by
  unfold enterReset
  repeat' first
    | with_reducible assumption
    | intro _
    | with_reducible apply whenS_kept
    | with_reducible apply ptClear_kept
    | with_reducible apply holdReset_kept
    | split

theorem endPtCmds_kept {s0 s : State} {a0} (h : Kept s0 s) : Kept s0 (endPtCmds a0 s) := by
  unfold endPtCmds
  repeat' first
    | with_reducible assumption
    | intro _
    | with_reducible apply foldS_kept
    | with_reducible apply endLoad_kept
    | with_reducible apply cancelCmd_kept
    | split

theorem placeReason_kept {s0 s : State} {a0 a1 a2} (h : Kept s0 s) : Kept s0 (placeReason a0 a1 a2 s) := by
  unfold placeReason
  repeat' first
    | with_reducible assumption
    | with_reducible apply modUnit_kept
    | with_reducible apply enterReset_kept
    | with_reducible apply onFence_kept
    | split
    | ((fail_if_no_progress extract_lets +onlyGivenNames x); first
        | refine Kept.cut (t := x) ?_ ?_
        | refine Kept.cut (t := x.2) ?_ ?_
        | refine Kept.cut (t := x.2.2) ?_ ?_
        | (have hs : Sil := x; clear hs; unfold x)
        | (have hs : State → State := x; clear hs; unfold x)
        | (have hs : Nat → State → State := x; clear hs; unfold x)
        | clear_value x)

theorem powerDown_kept {s0 s : State} {a0} (h : Kept s0 s) : Kept s0 (powerDown a0 s) := by
  unfold powerDown
  repeat' first
    | with_reducible assumption
    | intro _
    | with_reducible apply whenS_kept
    | with_reducible apply placeReason_kept
    | with_reducible apply pdAdvance_kept
    | (with_reducible refine Kept.upd ?_ ?_; rotate_left; exact rfl)

theorem resetLift_kept {s0 s : State} {a0} (h : Kept s0 s) : Kept s0 (resetLift a0 s) := by
  unfold resetLift
  repeat' first
    | with_reducible assumption
    | intro _
    | with_reducible apply holdReset_kept
    | with_reducible apply modUnit_kept

theorem liftFence_kept {s0 s : State} {a0 a1} (h : Kept s0 s) : Kept s0 (liftFence a0 a1 s) := by
  unfold liftFence
  repeat' first
    | with_reducible assumption
    | (intro hx; clear_value x)
    | intro _
    | with_reducible apply foldS_kept
    | with_reducible apply foldSPair_kept
    | with_reducible apply resetLift_kept
    | with_reducible apply modUnit_kept
    | split
    | ((fail_if_no_progress extract_lets +onlyGivenNames x); first
        | refine Kept.cut (t := x) ?_ ?_
        | refine Kept.cut (t := x.2) ?_ ?_
        | refine Kept.cut (t := x.2.2) ?_ ?_
        | (have hs : Sil := x; clear hs; unfold x)
        | (have hs : State → State := x; clear hs; unfold x)
        | (have hs : Nat → State → State := x; clear hs; unfold x)
        | clear_value x)

theorem removeReason_kept {s0 s : State} {a0 a1 a2} (h : Kept s0 s) : Kept s0 (removeReason a0 a1 a2 s) := by
  unfold removeReason
  repeat' first
    | with_reducible assumption
    | intro _
    | with_reducible apply liftFence_kept
    | with_reducible apply modUnit_kept
    | split

theorem onDrained_kept {s0 s : State} {a0 a1} (h : Kept s0 s) : Kept s0 (onDrained a0 a1 s) := by
  unfold onDrained
  repeat' first
    | with_reducible assumption
    | (intro hx; clear_value x)
    | intro _
    | with_reducible apply whenS_kept
    | with_reducible apply modUnit_kept
    | with_reducible apply enterReset_kept
    | with_reducible apply endPtCmds_kept
    | with_reducible apply liftFence_kept
    | with_reducible apply pdAdvance_kept
    | ((fail_if_no_progress extract_lets +onlyGivenNames x); first
        | refine Kept.cut (t := x) ?_ ?_
        | refine Kept.cut (t := x.2) ?_ ?_
        | refine Kept.cut (t := x.2.2) ?_ ?_
        | (have hs : Sil := x; clear hs; unfold x)
        | (have hs : State → State := x; clear hs; unfold x)
        | (have hs : Nat → State → State := x; clear hs; unfold x)
        | clear_value x)

theorem liftPt_kept {s0 s : State} {a0 a1} (h : Kept s0 s) : Kept s0 (liftPt a0 a1 s) := by
  unfold liftPt
  repeat' first
    | with_reducible assumption
    | (intro hx; clear_value x)
    | intro _
    | with_reducible apply modUnit_kept
    | split
    | ((fail_if_no_progress extract_lets +onlyGivenNames x); first
        | refine Kept.cut (t := x) ?_ ?_
        | refine Kept.cut (t := x.2) ?_ ?_
        | refine Kept.cut (t := x.2.2) ?_ ?_
        | (have hs : Sil := x; clear hs; unfold x)
        | (have hs : State → State := x; clear hs; unfold x)
        | (have hs : Nat → State → State := x; clear hs; unfold x)
        | clear_value x)

theorem dropLink_kept {s0 s : State} {a0} (h : Kept s0 s) : Kept s0 (dropLink a0 s) := by
  unfold dropLink
  repeat' first
    | with_reducible assumption
    | intro _
    | with_reducible apply modXing_kept
    | with_reducible apply flushXing_kept
    | split

theorem wrongEpoch_kept {s0 s : State} {a0 a1} (h : Kept s0 s) : Kept s0 (wrongEpoch a0 a1 s) := by
  unfold wrongEpoch
  repeat' first
    | with_reducible assumption
    | with_reducible apply xreset_kept
    | with_reducible apply dropLink_kept
    | split

theorem execDrainComplete_kept {s0 s : State} {a0 a1} (h : Kept s0 s) :
    ∃ u, execDrainComplete a0 a1 s = .next u ∧ Kept s0 u := by
  unfold execDrainComplete done
  refine ⟨_, rfl, ?_⟩
  repeat' first
    | with_reducible assumption
    | with_reducible apply onDrained_kept
    | split

theorem execDrainWindowExpiry_kept {s0 s : State} {a0 a1} (h : Kept s0 s) :
    ∃ u, execDrainWindowExpiry a0 a1 s = .next u ∧ Kept s0 u := by
  unfold execDrainWindowExpiry done
  refine ⟨_, rfl, ?_⟩
  repeat' first
    | with_reducible assumption
    | (intro hx; clear_value x)
    | intro _
    | with_reducible apply rstLog_kept
    | with_reducible apply setEv_kept
    | with_reducible apply modUnit_kept
    | with_reducible apply dropWork_kept
    | with_reducible apply onDrained_kept
    | split
    | ((fail_if_no_progress extract_lets +onlyGivenNames x); first
        | refine Kept.cut (t := x) ?_ ?_
        | refine Kept.cut (t := x.2) ?_ ?_
        | refine Kept.cut (t := x.2.2) ?_ ?_
        | (have hs : Sil := x; clear hs; unfold x)
        | (have hs : State → State := x; clear hs; unfold x)
        | (have hs : Nat → State → State := x; clear hs; unfold x)
        | clear_value x)

theorem execTaggedReply_kept {s0 s : State} {a0 a1 a2 a3 a4 a5} (h : Kept s0 s) :
    ∃ u, execTaggedReply a0 a1 a2 a3 a4 a5 s = .next u ∧ Kept s0 u := by
  unfold execTaggedReply done
  refine ⟨_, rfl, ?_⟩
  repeat' first
    | with_reducible assumption
    | intro _
    | with_reducible apply xreset_kept
    | with_reducible apply wrongEpoch_kept
    | with_reducible apply lateDrop_kept
    | with_reducible apply takeFetch_kept
    | with_reducible apply noteReady_kept
    | with_reducible apply endReq_kept
    | with_reducible apply closeReq_kept
    | split

theorem dropRequest_kept {s0 s : State} {a0 a1} (h : Kept s0 s) : Kept s0 (dropRequest a0 a1 s) := by
  unfold dropRequest
  repeat' first
    | with_reducible assumption
    | with_reducible apply rstLog_kept

theorem startEngineReset_kept {s0 s : State} {a0 a1 a2} (h : Kept s0 s) : Kept s0 (startEngineReset a0 a1 a2 s) := by
  unfold startEngineReset
  repeat' first
    | with_reducible assumption
    | with_reducible apply dropRequest_kept
    | with_reducible apply modUnit_kept
    | with_reducible apply placeReason_kept
    | with_reducible apply setLast_kept
    | split
    | ((fail_if_no_progress extract_lets +onlyGivenNames x); first
        | refine Kept.cut (t := x) ?_ ?_
        | refine Kept.cut (t := x.2) ?_ ?_
        | refine Kept.cut (t := x.2.2) ?_ ?_
        | (have hs : Sil := x; clear hs; unfold x)
        | (have hs : State → State := x; clear hs; unfold x)
        | (have hs : Nat → State → State := x; clear hs; unfold x)
        | clear_value x)

theorem execStallMonitorHang_kept {s0 s : State} {a0 a1 a2} (h : Kept s0 s) :
    ∃ u, execStallMonitorHang a0 a1 a2 s = .next u ∧ Kept s0 u := by
  unfold execStallMonitorHang done
  refine ⟨_, rfl, ?_⟩
  repeat' first
    | with_reducible assumption
    | (intro hx; clear_value x)
    | intro _
    | with_reducible apply foldS_kept
    | with_reducible apply whenS_kept
    | with_reducible apply foldSPair_kept
    | with_reducible apply rstLog_kept
    | with_reducible apply bump_kept
    | with_reducible apply setEv_kept
    | with_reducible apply modUnit_kept
    | with_reducible apply ctxFault_kept
    | with_reducible apply startEngineReset_kept
    | split
    | ((fail_if_no_progress extract_lets +onlyGivenNames x); first
        | refine Kept.cut (t := x) ?_ ?_
        | refine Kept.cut (t := x.2) ?_ ?_
        | refine Kept.cut (t := x.2.2) ?_ ?_
        | (have hs : Sil := x; clear hs; unfold x)
        | (have hs : State → State := x; clear hs; unfold x)
        | (have hs : Nat → State → State := x; clear hs; unfold x)
        | clear_value x)

theorem execCompletionTimeout_kept {s0 s : State} {a0} (h : Kept s0 s) :
    ∃ u, execCompletionTimeout a0 s = .next u ∧ Kept s0 u := by
  unfold execCompletionTimeout done
  refine ⟨_, rfl, ?_⟩
  repeat' first
    | with_reducible assumption
    | (intro hx; clear_value x)
    | with_reducible apply wrf_kept
    | with_reducible apply setEv_kept
    | with_reducible apply cancelCmd_kept
    | with_reducible apply srvLog_kept
    | split
    | ((fail_if_no_progress extract_lets +onlyGivenNames x); first
        | refine Kept.cut (t := x) ?_ ?_
        | refine Kept.cut (t := x.2) ?_ ?_
        | refine Kept.cut (t := x.2.2) ?_ ?_
        | (have hs : Sil := x; clear hs; unfold x)
        | (have hs : State → State := x; clear hs; unfold x)
        | (have hs : Nat → State → State := x; clear hs; unfold x)
        | clear_value x)

theorem startPtReset_kept {s0 s : State} {a0 a1 a2 a3 a4} (h : Kept s0 s) : Kept s0 (startPtReset a0 a1 a2 a3 a4 s) := by
  unfold startPtReset
  repeat' first
    | with_reducible assumption
    | (intro hx; clear_value x)
    | intro _
    | with_reducible apply whenS_kept
    | with_reducible apply dropRequest_kept
    | with_reducible apply modPart_kept
    | with_reducible apply rstLog_kept
    | with_reducible apply setEv_kept
    | with_reducible apply setLast_kept
    | with_reducible apply placeReason_kept
    | with_reducible apply modUnit_kept
    | split
    | ((fail_if_no_progress extract_lets +onlyGivenNames x); first
        | refine Kept.cut (t := x) ?_ ?_
        | refine Kept.cut (t := x.2) ?_ ?_
        | refine Kept.cut (t := x.2.2) ?_ ?_
        | (have hs : Sil := x; clear hs; unfold x)
        | (have hs : State → State := x; clear hs; unfold x)
        | (have hs : Nat → State → State := x; clear hs; unfold x)
        | clear_value x)

theorem afterFailed_kept {s0 s : State} {a0 a1 a2} (h : Kept s0 s) : Kept s0 (afterFailed a0 a1 a2 s) := by
  unfold afterFailed
  repeat' first
    | with_reducible assumption
    | with_reducible apply startRemap_kept
    | with_reducible apply startPtReset_kept
    | with_reducible apply placeReason_kept
    | split

theorem execFencePlace_kept {s0 s : State} {a0 a1 a2} (h : Kept s0 s) :
    ∃ u, execFencePlace a0 a1 a2 s = .next u ∧ Kept s0 u := by
  unfold execFencePlace done
  refine ⟨_, rfl, ?_⟩
  repeat' first
    | with_reducible assumption
    | with_reducible apply placeReason_kept
    | with_reducible apply startPtReset_kept
    | with_reducible apply startEngineReset_kept
    | split

theorem engineFailed_kept {s0 s : State} {a0 a1 a2} (h : Kept s0 s) : Kept s0 (engineFailed a0 a1 a2 s) := by
  unfold engineFailed
  repeat' first
    | with_reducible assumption
    | (intro hx; clear_value x)
    | with_reducible apply dropWork_kept
    | with_reducible apply liftPt_kept
    | with_reducible apply afterFailed_kept
    | with_reducible apply markFailed_kept
    | ((fail_if_no_progress extract_lets +onlyGivenNames x); first
        | refine Kept.cut (t := x) ?_ ?_
        | refine Kept.cut (t := x.2) ?_ ?_
        | refine Kept.cut (t := x.2.2) ?_ ?_
        | (have hs : Sil := x; clear hs; unfold x)
        | (have hs : State → State := x; clear hs; unfold x)
        | (have hs : Nat → State → State := x; clear hs; unfold x)
        | clear_value x)

theorem armAhead_kept {s0 s : State} {a0 a1 a2} (h : Kept s0 s) : Kept s0 (armAhead a0 a1 a2 s) := by
  unfold armAhead
  repeat' first
    | with_reducible assumption
    | (with_reducible refine Kept.upd ?_ ?_; rotate_left; exact rfl)

theorem chainAfter_kept {s0 s : State} {a0} (h : Kept s0 s) : Kept s0 (chainAfter a0 s) := by
  unfold chainAfter
  repeat' first
    | with_reducible assumption
    | intro _
    | with_reducible apply foldS_kept
    | with_reducible apply armAhead_kept
    | split
    | (with_reducible refine Kept.upd ?_ ?_; rotate_left; exact rfl)

theorem rearmChecks_kept {s0 s : State} {a0} (h : Kept s0 s) : Kept s0 (rearmChecks a0 s) := by
  unfold rearmChecks
  repeat' first
    | with_reducible assumption
    | intro _
    | with_reducible apply foldS_kept
    | with_reducible apply armAhead_kept

theorem endUnits_kept {s0 s : State} {a0 a1} (h : Kept s0 s) : Kept s0 (endUnits a0 a1 s) := by
  unfold endUnits
  repeat' first
    | with_reducible assumption
    | (intro hx; clear_value x)
    | intro _
    | split
    | (with_reducible refine Kept.upd ?_ ?_; rotate_left; exact rfl)
    | ((fail_if_no_progress extract_lets +onlyGivenNames x); first
        | refine Kept.cut (t := x) ?_ ?_
        | refine Kept.cut (t := x.2) ?_ ?_
        | refine Kept.cut (t := x.2.2) ?_ ?_
        | (have hs : Sil := x; clear hs; unfold x)
        | (have hs : State → State := x; clear hs; unfold x)
        | (have hs : Nat → State → State := x; clear hs; unfold x)
        | clear_value x)

theorem endReset_kept {s0 s : State} {a0 a1 a2} (h : Kept s0 s) : Kept s0 (endReset a0 a1 a2 s) := by
  unfold endReset
  repeat' first
    | with_reducible assumption
    | (intro hx; clear_value x)
    | intro _
    | with_reducible apply engineFailed_kept
    | with_reducible apply resetUnits_kept
    | with_reducible apply bump_kept
    | with_reducible apply setEv_kept
    | with_reducible apply rstLog_kept
    | with_reducible apply modUnit_kept
    | with_reducible apply endUnits_kept
    | with_reducible apply rearmChecks_kept
    | with_reducible apply chainAfter_kept
    | with_reducible apply liftPt_kept
    | with_reducible apply putLocks_kept
    | split
    | ((fail_if_no_progress extract_lets +onlyGivenNames x); first
        | refine Kept.cut (t := x) ?_ ?_
        | refine Kept.cut (t := x.2) ?_ ?_
        | refine Kept.cut (t := x.2.2) ?_ ?_
        | (have hs : Sil := x; clear hs; unfold x)
        | (have hs : State → State := x; clear hs; unfold x)
        | (have hs : Nat → State → State := x; clear hs; unfold x)
        | clear_value x)

theorem endEngineReset_kept {s0 s : State} {a0 a1} (h : Kept s0 s) : Kept s0 (endEngineReset a0 a1 s) := by
  unfold endEngineReset
  repeat' first
    | with_reducible assumption
    | intro _
    | with_reducible apply endReset_kept
    | with_reducible apply modUnit_kept
    | split

theorem execEngineResetComplete_kept {s0 s : State} {a0 a1} (h : Kept s0 s) :
    ∃ u, execEngineResetComplete a0 a1 s = .next u ∧ Kept s0 u := by
  unfold execEngineResetComplete done
  refine ⟨_, rfl, ?_⟩
  repeat' first
    | with_reducible assumption
    | with_reducible apply endEngineReset_kept

theorem execVecEngineResetComplete_kept {s0 s : State} {a0} (h : Kept s0 s) :
    ∃ u, execVecEngineResetComplete a0 s = .next u ∧ Kept s0 u := by
  unfold execVecEngineResetComplete done
  refine ⟨_, rfl, ?_⟩
  repeat' first
    | with_reducible assumption
    | with_reducible apply endEngineReset_kept
    | split

theorem overdueResets_kept {s0 s : State} (h : Kept s0 s) : Kept s0 (overdueResets s) := by
  unfold overdueResets
  repeat' first
    | with_reducible assumption
    | (intro hx; clear_value x)
    | intro _
    | with_reducible apply foldS_kept
    | with_reducible apply foldSPair_kept
    | with_reducible apply endReset_kept
    | with_reducible apply modUnit_kept
    | with_reducible apply engineFailed_kept
    | split
    | ((fail_if_no_progress extract_lets +onlyGivenNames x); first
        | refine Kept.cut (t := x) ?_ ?_
        | refine Kept.cut (t := x.2) ?_ ?_
        | refine Kept.cut (t := x.2.2) ?_ ?_
        | (have hs : Sil := x; clear hs; unfold x)
        | (have hs : State → State := x; clear hs; unfold x)
        | (have hs : Nat → State → State := x; clear hs; unfold x)
        | clear_value x)

theorem execEngineResetBoundExpiry_kept {s0 s : State} {a0 a1} (h : Kept s0 s) :
    ∃ u, execEngineResetBoundExpiry a0 a1 s = .next u ∧ Kept s0 u := by
  unfold execEngineResetBoundExpiry done
  refine ⟨_, rfl, ?_⟩
  repeat' first
    | with_reducible assumption
    | with_reducible apply engineFailed_kept
    | split

theorem dropHandle_kept {s0 s : State} {a0} (h : Kept s0 s) : Kept s0 (dropHandle a0 s) := by
  unfold dropHandle
  repeat' first
    | with_reducible assumption
    | intro _
    | with_reducible apply foldS_kept
    | with_reducible apply abandonBind_kept
    | with_reducible apply freeSeqIdx_kept
    | with_reducible apply endLoad_kept
    | with_reducible apply endTrain_kept
    | with_reducible apply stopDma_kept
    | split
    | (with_reducible refine Kept.upd ?_ ?_; rotate_left; exact rfl)

theorem endFnCmds_kept {s0 s : State} {a0} (h : Kept s0 s) : Kept s0 (endFnCmds a0 s) := by
  unfold endFnCmds
  repeat' first
    | with_reducible assumption
    | intro _
    | with_reducible apply foldS_kept
    | with_reducible apply cancelCmd_kept

theorem dropFnSeqs_kept {s0 s : State} {a0} (h : Kept s0 s) : Kept s0 (dropFnSeqs a0 s) := by
  unfold dropFnSeqs
  repeat' first
    | with_reducible assumption
    | intro _
    | with_reducible apply foldS_kept
    | with_reducible apply freeSeqIdx_kept
    | with_reducible apply dropPages_kept
    | (with_reducible refine Kept.upd ?_ ?_; rotate_left; exact rfl)

theorem dropPairs_kept {s0 s : State} {a0} (h : Kept s0 s) : Kept s0 (dropPairs a0 s) := by
  unfold dropPairs
  repeat' first
    | with_reducible assumption
    | (with_reducible refine Kept.upd ?_ ?_; rotate_left; exact rfl)

theorem flrCore_kept {s0 s : State} {a0} (h : Kept s0 s) : Kept s0 (flrCore a0 s) := by
  unfold flrCore
  repeat' first
    | with_reducible assumption
    | (intro hx; clear_value x)
    | intro _
    | with_reducible apply foldS_kept
    | with_reducible apply foldSPair_kept
    | with_reducible apply sendNotice_kept
    | with_reducible apply modCx_kept
    | with_reducible apply modFn_kept
    | with_reducible apply dropHandle_kept
    | with_reducible apply dropFnSeqs_kept
    | with_reducible apply endFnCmds_kept
    | with_reducible apply modUnit_kept
    | with_reducible apply modXing_kept
    | with_reducible apply clearRegs_kept
    | with_reducible apply dropPairs_kept
    | split
    | (with_reducible refine Kept.upd ?_ ?_; rotate_left; exact rfl)
    | ((fail_if_no_progress extract_lets +onlyGivenNames x); first
        | refine Kept.cut (t := x) ?_ ?_
        | refine Kept.cut (t := x.2) ?_ ?_
        | refine Kept.cut (t := x.2.2) ?_ ?_
        | (have hs : Sil := x; clear hs; unfold x)
        | (have hs : State → State := x; clear hs; unfold x)
        | (have hs : Nat → State → State := x; clear hs; unfold x)
        | clear_value x)

theorem flrVf_kept {s0 s : State} {a0} (h : Kept s0 s) : Kept s0 (flrVf a0 s) := by
  unfold flrVf
  repeat' first
    | with_reducible assumption
    | (intro hx; clear_value x)
    | intro _
    | with_reducible apply whenS_kept
    | with_reducible apply clearRegs_kept
    | with_reducible apply flrCore_kept
    | with_reducible apply setEv_kept
    | with_reducible apply logE_kept
    | with_reducible apply signal_kept
    | ((fail_if_no_progress extract_lets +onlyGivenNames x); first
        | refine Kept.cut (t := x) ?_ ?_
        | refine Kept.cut (t := x.2) ?_ ?_
        | refine Kept.cut (t := x.2.2) ?_ ?_
        | (have hs : Sil := x; clear hs; unfold x)
        | (have hs : State → State := x; clear hs; unfold x)
        | (have hs : Nat → State → State := x; clear hs; unfold x)
        | clear_value x)

theorem flrPf_kept {s0 s : State} (h : Kept s0 s) : Kept s0 (flrPf s) := by
  unfold flrPf
  repeat' first
    | with_reducible assumption
    | (intro hx; clear_value x)
    | intro _
    | with_reducible apply foldS_kept
    | with_reducible apply foldSPair_kept
    | with_reducible apply flrVf_kept
    | with_reducible apply clearRegs_kept
    | with_reducible apply flrCore_kept
    | with_reducible apply logE_kept
    | split
    | (with_reducible refine Kept.upd ?_ ?_; rotate_left; exact rfl)
    | ((fail_if_no_progress extract_lets +onlyGivenNames x); first
        | refine Kept.cut (t := x) ?_ ?_
        | refine Kept.cut (t := x.2) ?_ ?_
        | refine Kept.cut (t := x.2.2) ?_ ?_
        | (have hs : Sil := x; clear hs; unfold x)
        | (have hs : State → State := x; clear hs; unfold x)
        | (have hs : Nat → State → State := x; clear hs; unfold x)
        | clear_value x)

end Sys2Proof.Machine
end

