-- ==== Sys2Proof/Laws/KeptReset.lean ====
section
/-! SUPPORT. What `Kept` says is kept by the operations of Machine/Reset.lean. -/

-- One proof at a time: proofs elaborated side by side wait on each other, and each that waits holds a thread's stack.
set_option Elab.async false

namespace Sys2Proof.Machine

open Sys2Proof

theorem execEpochOffer_kept {s0 s : State} {a0 a1 a2} (h : Kept s0 s) :
    ∃ u, execEpochOffer a0 a1 a2 s = .next u ∧ Kept s0 u := by
  unfold execEpochOffer done
  refine ⟨_, rfl, ?_⟩
  repeat' first
    | with_reducible assumption
    | (intro hx; clear_value x)
    | intro _
    | with_reducible apply emit_kept
    | with_reducible apply modXing_kept
    | with_reducible apply wrongEpoch_kept
    | split
    | ((fail_if_no_progress extract_lets +onlyGivenNames x); first
        | refine Kept.cut (t := x) ?_ ?_
        | refine Kept.cut (t := x.2) ?_ ?_
        | refine Kept.cut (t := x.2.2) ?_ ?_
        | (have hs : Sil := x; clear hs; unfold x)
        | (have hs : State → State := x; clear hs; unfold x)
        | (have hs : Nat → State → State := x; clear hs; unfold x)
        | clear_value x)

theorem execEpochAcknowledgement_kept {s0 s : State} {a0 a1 a2} (h : Kept s0 s) :
    ∃ u, execEpochAcknowledgement a0 a1 a2 s = .next u ∧ Kept s0 u := by
  unfold execEpochAcknowledgement done
  refine ⟨_, rfl, ?_⟩
  repeat' first
    | with_reducible assumption
    | (intro hx; clear_value x)
    | intro _
    | with_reducible apply modXing_kept
    | with_reducible apply wrongEpoch_kept
    | split
    | ((fail_if_no_progress extract_lets +onlyGivenNames x); first
        | refine Kept.cut (t := x) ?_ ?_
        | refine Kept.cut (t := x.2) ?_ ?_
        | refine Kept.cut (t := x.2.2) ?_ ?_
        | (have hs : Sil := x; clear hs; unfold x)
        | (have hs : State → State := x; clear hs; unfold x)
        | (have hs : Nat → State → State := x; clear hs; unfold x)
        | clear_value x)

theorem execPartitionReset_kept {s0 s : State} {a0 a1 a2 a3} (h : Kept s0 s) :
    ∃ u, execPartitionReset a0 a1 a2 a3 s = .next u ∧ Kept s0 u := by
  unfold execPartitionReset done
  refine ⟨_, rfl, ?_⟩
  repeat' first
    | with_reducible assumption
    | with_reducible apply startPtReset_kept
    | split

theorem channelsReady_kept {s0 s : State} {a0} (h : Kept s0 s) : Kept s0 (channelsReady a0 s) := by
  unfold channelsReady
  repeat' first
    | with_reducible assumption
    | intro _
    | with_reducible apply foldS_kept
    | with_reducible apply foldSPair_kept
    | split
    | (with_reducible refine Kept.upd ?_ ?_; rotate_left; exact rfl)

theorem trainingFails_kept {s0 s : State} {a0} (h : Kept s0 s) : Kept s0 (trainingFails a0 s) := by
  unfold trainingFails
  repeat' first
    | with_reducible assumption
    | (intro hx; clear_value x)
    | intro _
    | with_reducible apply whenS_kept
    | with_reducible apply loseHbm_kept
    | ((fail_if_no_progress extract_lets +onlyGivenNames x); first
        | refine Kept.cut (t := x) ?_ ?_
        | refine Kept.cut (t := x.2) ?_ ?_
        | refine Kept.cut (t := x.2.2) ?_ ?_
        | (have hs : Sil := x; clear hs; unfold x)
        | (have hs : State → State := x; clear hs; unfold x)
        | (have hs : Nat → State → State := x; clear hs; unfold x)
        | clear_value x)

theorem selfTestFails_kept {s0 s : State} {a0} (h : Kept s0 s) : Kept s0 (selfTestFails a0 s) := by
  unfold selfTestFails
  repeat' first
    | with_reducible assumption
    | intro _
    | with_reducible apply foldS_kept
    | with_reducible apply whenS_kept
    | with_reducible apply foldSPair_kept
    | with_reducible apply markFailed_kept

theorem execPartitionResetComplete_kept {s0 s : State} {a0 a1} (h : Kept s0 s) :
    ∃ u, execPartitionResetComplete a0 a1 s = .next u ∧ Kept s0 u := by
  unfold execPartitionResetComplete done
  refine ⟨_, rfl, ?_⟩
  repeat' first
    | with_reducible assumption
    | (intro hx; clear_value x)
    | intro _
    | with_reducible apply whenS_kept
    | with_reducible apply failed_kept
    | with_reducible apply selfTestFails_kept
    | with_reducible apply trainingFails_kept
    | with_reducible apply channelsReady_kept
    | with_reducible apply loadAgents_kept
    | with_reducible apply endUnits_kept
    | with_reducible apply modPart_kept
    | with_reducible apply rstLog_kept
    | with_reducible apply bump_kept
    | with_reducible apply setEv_kept
    | with_reducible apply modUnit_kept
    | with_reducible apply powerDown_kept
    | split
    | (with_reducible refine Kept.upd ?_ ?_; rotate_left; exact rfl)
    | ((fail_if_no_progress extract_lets +onlyGivenNames x); first
        | refine Kept.cut (t := x) ?_ ?_
        | refine Kept.cut (t := x.2) ?_ ?_
        | refine Kept.cut (t := x.2.2) ?_ ?_
        | (have hs : Sil := x; clear hs; unfold x)
        | (have hs : State → State := x; clear hs; unfold x)
        | (have hs : Nat → State → State := x; clear hs; unfold x)
        | clear_value x)

theorem closeAllXings_kept {s0 s : State} (h : Kept s0 s) : Kept s0 (closeAllXings s) := by
  unfold closeAllXings
  repeat' first
    | with_reducible assumption
    | intro _
    | with_reducible apply foldS_kept
    | with_reducible apply foldSPair_kept
    | with_reducible apply closeXing_kept

theorem noticeAll_kept {s0 s : State} (h : Kept s0 s) : Kept s0 (noticeAll s) := by
  unfold noticeAll
  repeat' first
    | with_reducible assumption
    | intro _
    | with_reducible apply foldS_kept
    | with_reducible apply foldSPair_kept
    | with_reducible apply sendNotice_kept
    | with_reducible apply placeReason_kept

theorem warmBase_kept {s0 s : State} (h : Kept s0 s) : Kept s0 (warmBase s) := by
  unfold warmBase
  refine fuseMacs_kept ?_
  exact ⟨h.queue, h.identity, fun _ => rfl, h.log, h.events, h.mirror, h.rollback, h.anchors, h.anchorCap, h.unlocks,
    h.commissioned, h.owner⟩

theorem holdPackage_kept {s0 s : State} {a0} (h : Kept s0 s) : Kept s0 (holdPackage a0 s) := by
  unfold holdPackage
  repeat' first
    | with_reducible assumption
    | (intro hx; clear_value x)
    | intro _
    | with_reducible apply foldS_kept
    | with_reducible apply whenS_kept
    | with_reducible apply foldSPair_kept
    | with_reducible apply warmBase_kept
    | with_reducible apply wrf_kept
    | with_reducible apply closeAllXings_kept
    | with_reducible apply setTileState_kept
    | with_reducible apply showWear_kept
    | (with_reducible refine Kept.upd ?_ ?_; rotate_left; exact rfl)
    | ((fail_if_no_progress extract_lets +onlyGivenNames x); first
        | refine Kept.cut (t := x) ?_ ?_
        | refine Kept.cut (t := x.2) ?_ ?_
        | refine Kept.cut (t := x.2.2) ?_ ?_
        | (have hs : Sil := x; clear hs; unfold x)
        | (have hs : State → State := x; clear hs; unfold x)
        | (have hs : Nat → State → State := x; clear hs; unfold x)
        | clear_value x)

theorem warmNow_kept {s0 s : State} {a0 a1 a2 a3} (h : Kept s0 s) : Kept s0 (warmNow a0 a1 a2 a3 s) := by
  unfold warmNow
  repeat' first
    | with_reducible assumption
    | (intro hx; clear_value x)
    | intro _
    | with_reducible apply foldS_kept
    | with_reducible apply whenS_kept
    | with_reducible apply foldSPair_kept
    | with_reducible apply dropBuffered_kept
    | with_reducible apply warmBase_kept
    | with_reducible apply wrf_kept
    | with_reducible apply wr_kept
    | with_reducible apply closeAllXings_kept
    | with_reducible apply setLast_kept
    | with_reducible apply setTileState_kept
    | with_reducible apply askFlash_kept
    | with_reducible apply showWear_kept
    | with_reducible apply rstLog_kept
    | with_reducible apply setEv_kept
    | (with_reducible refine Kept.upd ?_ ?_; rotate_left; exact rfl)
    | ((fail_if_no_progress extract_lets +onlyGivenNames x); first
        | refine Kept.cut (t := x) ?_ ?_
        | refine Kept.cut (t := x.2) ?_ ?_
        | refine Kept.cut (t := x.2.2) ?_ ?_
        | (have hs : Sil := x; clear hs; unfold x)
        | (have hs : State → State := x; clear hs; unfold x)
        | (have hs : Nat → State → State := x; clear hs; unfold x)
        | clear_value x)

theorem startWarm_kept {s0 s : State} {a0 a1 a2 a3} (h : Kept s0 s) : Kept s0 (startWarm a0 a1 a2 a3 s) := by
  unfold startWarm
  split
  · exact dropRequest_kept h
  split
  · exact h
  split
  · exact noticeAll_kept h.same
  · exact warmNow_kept h

theorem coldBase_kept {s0 s : State} (h : Kept s0 s) : Kept s0 (coldBase s) := by
  unfold coldBase
  refine fuseMacs_kept ?_
  exact ⟨h.queue, h.identity, fun _ => rfl, fun _ => Nat.zero_le _, fun _ => Nat.zero_le _, fun _ => Nat.zero_le _, h.rollback,
    h.anchors, h.anchorCap, h.unlocks, h.commissioned, h.owner⟩

theorem coldNow_kept {s0 s : State} {a0 a1 a2 a3} (h : Kept s0 s) : Kept s0 (coldNow a0 a1 a2 a3 s) := by
  unfold coldNow
  repeat' first
    | with_reducible assumption
    | (intro hx; clear_value x)
    | intro _
    | with_reducible apply whenS_kept
    | with_reducible apply coldBase_kept
    | with_reducible apply wrf_kept
    | with_reducible apply setEv_kept
    | with_reducible apply setLast_kept
    | with_reducible apply rstLog_kept
    | (with_reducible refine Kept.upd ?_ ?_; rotate_left; exact rfl)
    | ((fail_if_no_progress extract_lets +onlyGivenNames x); first
        | refine Kept.cut (t := x) ?_ ?_
        | refine Kept.cut (t := x.2) ?_ ?_
        | refine Kept.cut (t := x.2.2) ?_ ?_
        | (have hs : Sil := x; clear hs; unfold x)
        | (have hs : State → State := x; clear hs; unfold x)
        | (have hs : Nat → State → State := x; clear hs; unfold x)
        | clear_value x)

theorem startCold_kept {s0 s : State} {a0 a1 a2 a3} (h : Kept s0 s) : Kept s0 (startCold a0 a1 a2 a3 s) := by
  unfold startCold
  split
  · exact noticeAll_kept h.same
  split
  · exact h.same
  · exact coldNow_kept h

theorem askCold_kept {s0 s : State} {a0 a1 a2 a3} (h : Kept s0 s) : Kept s0 (askCold a0 a1 a2 a3 s) := by
  unfold askCold
  repeat' first
    | with_reducible assumption
    | with_reducible apply startCold_kept
    | split
    | (with_reducible refine Kept.upd ?_ ?_; rotate_left; exact rfl)

theorem execNoticeAckWaitExpiry_kept {s0 s : State} {a0 a1} (h : Kept s0 s) :
    ∃ u, execNoticeAckWaitExpiry a0 a1 s = .next u ∧ Kept s0 u := by
  unfold execNoticeAckWaitExpiry done
  refine ⟨_, rfl, ?_⟩
  repeat' first
    | with_reducible assumption
    | (intro hx; clear_value x)
    | intro _
    | with_reducible apply dropQps_kept
    | with_reducible apply modMember_kept
    | with_reducible apply coldNow_kept
    | with_reducible apply warmNow_kept
    | split
    | ((fail_if_no_progress extract_lets +onlyGivenNames x); first
        | refine Kept.cut (t := x) ?_ ?_
        | refine Kept.cut (t := x.2) ?_ ?_
        | refine Kept.cut (t := x.2.2) ?_ ?_
        | (have hs : Sil := x; clear hs; unfold x)
        | (have hs : State → State := x; clear hs; unfold x)
        | (have hs : Nat → State → State := x; clear hs; unfold x)
        | clear_value x)

theorem execWarmReset_kept {s0 s : State} {a0 a1 a2} (h : Kept s0 s) :
    ∃ u, execWarmReset a0 a1 a2 s = .next u ∧ Kept s0 u := by
  unfold execWarmReset done
  refine ⟨_, rfl, ?_⟩
  repeat' first
    | with_reducible assumption
    | (intro hx; clear_value x)
    | intro _
    | with_reducible apply foldl_kept
    | with_reducible apply foldlPair_kept
    | with_reducible apply startWarm_kept

theorem coldFails_kept {s0 s : State} {a0 a1} (h : Kept s0 s) : Kept s0 (coldFails a0 a1 s) := by
  unfold coldFails
  repeat' first
    | with_reducible assumption
    | (intro hx; clear_value x)
    | with_reducible apply coldNow_kept
    | with_reducible apply logE_kept
    | split
    | (with_reducible refine Kept.upd ?_ ?_; rotate_left; exact rfl)
    | ((fail_if_no_progress extract_lets +onlyGivenNames x); first
        | refine Kept.cut (t := x) ?_ ?_
        | refine Kept.cut (t := x.2) ?_ ?_
        | refine Kept.cut (t := x.2.2) ?_ ?_
        | (have hs : Sil := x; clear hs; unfold x)
        | (have hs : State → State := x; clear hs; unfold x)
        | (have hs : Nat → State → State := x; clear hs; unfold x)
        | clear_value x)

theorem execColdReset_kept {s0 s : State} {a0 a1 a2 a3} (h : Kept s0 s) :
    ∃ u, execColdReset a0 a1 a2 a3 s = .next u ∧ Kept s0 u := by
  unfold execColdReset done
  refine ⟨_, rfl, ?_⟩
  repeat' first
    | with_reducible assumption
    | with_reducible apply failed_kept
    | with_reducible apply askCold_kept
    | with_reducible apply coldFails_kept
    | split

theorem execPtToExpiry_kept {s0 s : State} {a0} (h : Kept s0 s) :
    ∃ u, execPtToExpiry a0 s = .next u ∧ Kept s0 u := by
  unfold execPtToExpiry done
  refine ⟨_, rfl, ?_⟩
  repeat' first
    | with_reducible assumption
    | (intro hx; clear_value x)
    | intro _
    | with_reducible apply foldl_kept
    | with_reducible apply foldlPair_kept
    | with_reducible apply startWarm_kept
    | split

theorem execWarmToExpiry_kept {s0 s : State} (h : Kept s0 s) :
    ∃ u, execWarmToExpiry s = .next u ∧ Kept s0 u := by
  unfold execWarmToExpiry done
  refine ⟨_, rfl, ?_⟩
  repeat' first
    | with_reducible assumption
    | with_reducible apply askCold_kept
    | with_reducible apply coldFails_kept
    | split

theorem beginReq_kept {s0 s : State} (h : Kept s0 s) : Kept s0 (beginReq s) := by
  unfold beginReq
  repeat' first
    | with_reducible assumption
    | (intro hx; clear_value x)
    | with_reducible apply wrf_kept
    | with_reducible apply startEngineReset_kept
    | with_reducible apply startPtReset_kept
    | with_reducible apply startWarm_kept
    | with_reducible apply askCold_kept
    | split
    | ((fail_if_no_progress extract_lets +onlyGivenNames x); first
        | refine Kept.cut (t := x) ?_ ?_
        | refine Kept.cut (t := x.2) ?_ ?_
        | refine Kept.cut (t := x.2.2) ?_ ?_
        | (have hs : Sil := x; clear hs; unfold x)
        | (have hs : State → State := x; clear hs; unfold x)
        | (have hs : Nat → State → State := x; clear hs; unfold x)
        | clear_value x)

theorem rstReqWrite_kept {s0 s : State} {a0 a1} (h : Kept s0 s) : Kept s0 (rstReqWrite a0 a1 s) := by
  unfold rstReqWrite
  repeat' first
    | with_reducible assumption
    | (intro hx; clear_value x)
    | intro _
    | with_reducible apply whenS_kept
    | with_reducible apply dropRequest_kept
    | with_reducible apply regErr_kept
    | with_reducible apply storeReg_kept
    | with_reducible apply wrf_kept
    | with_reducible apply beginReq_kept
    | split
    | ((fail_if_no_progress extract_lets +onlyGivenNames x); first
        | refine Kept.cut (t := x) ?_ ?_
        | refine Kept.cut (t := x.2) ?_ ?_
        | refine Kept.cut (t := x.2.2) ?_ ?_
        | (have hs : Sil := x; clear hs; unfold x)
        | (have hs : State → State := x; clear hs; unfold x)
        | (have hs : Nat → State → State := x; clear hs; unfold x)
        | clear_value x)

theorem execHostEngineResetRequest_kept {s0 s : State} {a0 a1} (h : Kept s0 s) :
    ∃ u, execHostEngineResetRequest a0 a1 s = .next u ∧ Kept s0 u := by
  unfold execHostEngineResetRequest done
  refine ⟨_, rfl, ?_⟩
  repeat' first
    | with_reducible assumption
    | with_reducible apply rstReqWrite_kept

theorem execHostPartitionResetRequest_kept {s0 s : State} {a0 a1} (h : Kept s0 s) :
    ∃ u, execHostPartitionResetRequest a0 a1 s = .next u ∧ Kept s0 u := by
  unfold execHostPartitionResetRequest done
  refine ⟨_, rfl, ?_⟩
  repeat' first
    | with_reducible assumption
    | with_reducible apply rstReqWrite_kept

theorem execHostWarmResetRequest_kept {s0 s : State} {a0 a1} (h : Kept s0 s) :
    ∃ u, execHostWarmResetRequest a0 a1 s = .next u ∧ Kept s0 u := by
  unfold execHostWarmResetRequest done
  refine ⟨_, rfl, ?_⟩
  repeat' first
    | with_reducible assumption
    | with_reducible apply rstReqWrite_kept

theorem execHostColdResetRequest_kept {s0 s : State} {a0 a1} (h : Kept s0 s) :
    ∃ u, execHostColdResetRequest a0 a1 s = .next u ∧ Kept s0 u := by
  unfold execHostColdResetRequest done
  refine ⟨_, rfl, ?_⟩
  repeat' first
    | with_reducible assumption
    | with_reducible apply rstReqWrite_kept

theorem fenceHostWrite_kept {s0 s : State} {a0 a1} (h : Kept s0 s) : Kept s0 (fenceHostWrite a0 a1 s) := by
  unfold fenceHostWrite
  repeat' first
    | with_reducible assumption
    | intro _
    | with_reducible apply foldS_kept
    | with_reducible apply whenS_kept
    | with_reducible apply storeBlk_kept
    | with_reducible apply placeReason_kept
    | with_reducible apply removeReason_kept
    | split

theorem execRstFenceHostWrite_kept {s0 s : State} {a0 a1} (h : Kept s0 s) :
    ∃ u, execRstFenceHostWrite a0 a1 s = .next u ∧ Kept s0 u := by
  unfold execRstFenceHostWrite done
  refine ⟨_, rfl, ?_⟩
  repeat' first
    | with_reducible assumption
    | with_reducible apply fenceHostWrite_kept

theorem disagree_kept {s0 s : State} {a0} (h : Kept s0 s) : Kept s0 (disagree a0 s) := by
  unfold disagree
  repeat' first
    | with_reducible assumption
    | (intro hx; clear_value x)
    | intro _
    | with_reducible apply rstLog_kept
    | with_reducible apply bump_kept
    | with_reducible apply placeReason_kept
    | with_reducible apply setEv_kept
    | with_reducible apply modUnit_kept
    | with_reducible apply startPtReset_kept
    | with_reducible apply flrPf_kept
    | with_reducible apply flrVf_kept
    | split
    | ((fail_if_no_progress extract_lets +onlyGivenNames x); first
        | refine Kept.cut (t := x) ?_ ?_
        | refine Kept.cut (t := x.2) ?_ ?_
        | refine Kept.cut (t := x.2.2) ?_ ?_
        | (have hs : Sil := x; clear hs; unfold x)
        | (have hs : State → State := x; clear hs; unfold x)
        | (have hs : Nat → State → State := x; clear hs; unfold x)
        | clear_value x)

theorem execReconciliationRound_kept {s0 s : State} {a0} (h : Kept s0 s) :
    ∃ u, execReconciliationRound a0 s = .next u ∧ Kept s0 u := by
  unfold execReconciliationRound done
  refine ⟨_, rfl, ?_⟩
  repeat' first
    | with_reducible assumption
    | (intro hx; clear_value x)
    | intro _
    | with_reducible apply foldS_kept
    | with_reducible apply foldSPair_kept
    | with_reducible apply removeReason_kept
    | with_reducible apply modUnit_kept
    | with_reducible apply disagree_kept
    | split
    | ((fail_if_no_progress extract_lets +onlyGivenNames x); first
        | refine Kept.cut (t := x) ?_ ?_
        | refine Kept.cut (t := x.2) ?_ ?_
        | refine Kept.cut (t := x.2.2) ?_ ?_
        | (have hs : Sil := x; clear hs; unfold x)
        | (have hs : State → State := x; clear hs; unfold x)
        | (have hs : Nat → State → State := x; clear hs; unfold x)
        | clear_value x)

theorem execLinkReplay_kept {s0 s : State} {a0 a1 a2} (h : Kept s0 s) :
    ∃ u, execLinkReplay a0 a1 a2 s = .next u ∧ Kept s0 u := by
  unfold execLinkReplay done
  refine ⟨_, rfl, ?_⟩
  repeat' first
    | with_reducible assumption
    | (intro hx; clear_value x)
    | intro _
    | with_reducible apply foldS_kept
    | with_reducible apply whenS_kept
    | with_reducible apply foldSPair_kept
    | with_reducible apply setEv_kept
    | with_reducible apply logE_kept
    | with_reducible apply placeReason_kept
    | with_reducible apply dropLink_kept
    | split
    | ((fail_if_no_progress extract_lets +onlyGivenNames x); first
        | refine Kept.cut (t := x) ?_ ?_
        | refine Kept.cut (t := x.2) ?_ ?_
        | refine Kept.cut (t := x.2.2) ?_ ?_
        | (have hs : Sil := x; clear hs; unfold x)
        | (have hs : State → State := x; clear hs; unfold x)
        | (have hs : Nat → State → State := x; clear hs; unfold x)
        | clear_value x)

theorem execLinkRetrainingComplete_kept {s0 s : State} {a0 a1} (h : Kept s0 s) :
    ∃ u, execLinkRetrainingComplete a0 a1 s = .next u ∧ Kept s0 u := by
  unfold execLinkRetrainingComplete done
  refine ⟨_, rfl, ?_⟩
  repeat' first
    | with_reducible assumption
    | with_reducible apply removeReason_kept

theorem silResume_kept {s0 s : State} (h : Kept s0 s) : Kept s0 (silResume s) := by
  unfold silResume
  repeat' first
    | with_reducible assumption
    | (intro hx; clear_value x)
    | intro _
    | with_reducible apply foldS_kept
    | with_reducible apply whenS_kept
    | with_reducible apply foldSPair_kept
    | with_reducible apply overdueResets_kept
    | with_reducible apply drainEvq_kept
    | with_reducible apply showWear_kept
    | with_reducible apply startEngineReset_kept
    | with_reducible apply beginReq_kept
    | ((fail_if_no_progress extract_lets +onlyGivenNames x); first
        | refine Kept.cut (t := x) ?_ ?_
        | refine Kept.cut (t := x.2) ?_ ?_
        | refine Kept.cut (t := x.2.2) ?_ ?_
        | (have hs : Sil := x; clear hs; unfold x)
        | (have hs : State → State := x; clear hs; unfold x)
        | (have hs : Nat → State → State := x; clear hs; unfold x)
        | clear_value x)

theorem execSilsetRestartComplete_kept {s0 s : State} (h : Kept s0 s) :
    ∃ u, execSilsetRestartComplete s = .next u ∧ Kept s0 u := by
  unfold execSilsetRestartComplete done
  refine ⟨_, rfl, ?_⟩
  repeat' first
    | with_reducible assumption
    | with_reducible apply silResume_kept
    | split
    | (with_reducible refine Kept.upd ?_ ?_; rotate_left; exact rfl)

theorem updateDie_kept {s0 s : State} {a0} (h : Kept s0 s) : Kept s0 (updateDie a0 s) := by
  unfold updateDie
  repeat' first
    | with_reducible assumption
    | intro _
    | with_reducible apply foldS_kept
    | with_reducible apply sendNotice_kept
    | with_reducible apply placeReason_kept

theorem nextAgent_kept {s0 s : State} (h : Kept s0 s) : Kept s0 (nextAgent s) := by
  unfold nextAgent
  repeat' first
    | with_reducible assumption
    | with_reducible apply updateDie_kept
    | split
    | (with_reducible refine Kept.upd ?_ ?_; rotate_left; exact rfl)

theorem execTrialConfirm_kept {s0 s : State} {a0} (h : Kept s0 s) :
    ∃ u, execTrialConfirm a0 s = .next u ∧ Kept s0 u := by
  unfold execTrialConfirm done
  refine ⟨_, rfl, ?_⟩
  extract_lets +onlyGivenNames b v
  split
  · exact h
  · extract_lets +onlyGivenNames o s1 z s2 s3
    have h1 : Kept s0 s1 := setFwSlot_kept (setFwSlot_kept h)
    have h3 : Kept s0 s3 := logE_kept (h1.raise (le_max_left _ _))
    split
    · refine nextAgent_kept ?_
      exact h3.same
    · exact h3.same

theorem execAgentUpdateComplete_kept {s0 s : State} {a0 a1} (h : Kept s0 s) :
    ∃ u, execAgentUpdateComplete a0 a1 s = .next u ∧ Kept s0 u := by
  unfold execAgentUpdateComplete done
  refine ⟨_, rfl, ?_⟩
  repeat' first
    | with_reducible assumption
    | (intro hx; clear_value x)
    | intro _
    | with_reducible apply foldS_kept
    | with_reducible apply foldSPair_kept
    | with_reducible apply removeReason_kept
    | with_reducible apply nextAgent_kept
    | with_reducible apply loadAgents_kept
    | split
    | (with_reducible refine Kept.upd ?_ ?_; rotate_left; exact rfl)
    | ((fail_if_no_progress extract_lets +onlyGivenNames x); first
        | refine Kept.cut (t := x) ?_ ?_
        | refine Kept.cut (t := x.2) ?_ ?_
        | refine Kept.cut (t := x.2.2) ?_ ?_
        | (have hs : Sil := x; clear hs; unfold x)
        | (have hs : State → State := x; clear hs; unfold x)
        | (have hs : Nat → State → State := x; clear hs; unfold x)
        | clear_value x)

end Sys2Proof.Machine
end

