-- ==== Sys2Proof/Laws/KeptChecker.lean ====
section
/-! SUPPORT. What `Kept` says is kept by the operations of Machine/Checker.lean. -/

-- One proof at a time: proofs elaborated side by side wait on each other, and each that waits holds a thread's stack.
set_option Elab.async false

namespace Sys2Proof.Machine

open Sys2Proof

theorem execSampleArm_kept {s0 s : State} {a0 a1 a2} (h : Kept s0 s) :
    ∃ u, execSampleArm a0 a1 a2 s = .next u ∧ Kept s0 u := by
  unfold execSampleArm done
  refine ⟨_, rfl, ?_⟩
  repeat' first
    | with_reducible assumption
    | (intro hx; clear_value x)
    | intro _
    | split
    | (with_reducible refine Kept.upd ?_ ?_; rotate_left; exact rfl)
    | ((fail_if_no_progress extract_lets +onlyGivenNames x); first
        | refine Kept.cut (t := x) ?_ ?_
        | refine Kept.cut (t := x.2) ?_ ?_
        | refine Kept.cut (t := x.2.2) ?_ ?_
        | (have hs : Sil := x; clear hs; unfold x)
        | (have hs : State → State := x; clear hs; unfold x)
        | (have hs : Nat → State → State := x; clear hs; unfold x)
        | clear_value x)

theorem discard_kept {s0 s : State} {a0 a1} (h : Kept s0 s) : Kept s0 (discard a0 a1 s) := by
  unfold discard
  repeat' first
    | with_reducible assumption
    | (intro hx; clear_value x)
    | intro _
    | with_reducible apply logE_kept
    | with_reducible apply bump_kept
    | with_reducible apply chain_kept
    | split
    | (with_reducible refine Kept.upd ?_ ?_; rotate_left; exact rfl)
    | ((fail_if_no_progress extract_lets +onlyGivenNames x); first
        | refine Kept.cut (t := x) ?_ ?_
        | refine Kept.cut (t := x.2) ?_ ?_
        | refine Kept.cut (t := x.2.2) ?_ ?_
        | (have hs : Sil := x; clear hs; unfold x)
        | (have hs : State → State := x; clear hs; unfold x)
        | (have hs : Nat → State → State := x; clear hs; unfold x)
        | clear_value x)

theorem execArmTimeout_kept {s0 s : State} {a0} (h : Kept s0 s) :
    ∃ u, execArmTimeout a0 s = .next u ∧ Kept s0 u := by
  unfold execArmTimeout done
  refine ⟨_, rfl, ?_⟩
  repeat' first
    | with_reducible assumption
    | (intro hx; clear_value x)
    | intro _
    | with_reducible apply foldl_kept
    | with_reducible apply foldlPair_kept
    | with_reducible apply discard_kept
    | split
    | dsimp -zeta only
    | ((fail_if_no_progress extract_lets +onlyGivenNames x); first
        | refine Kept.cut (t := x) ?_ ?_
        | refine Kept.cut (t := x.2) ?_ ?_
        | refine Kept.cut (t := x.2.2) ?_ ?_
        | (have hs : Sil := x; clear hs; unfold x)
        | (have hs : State → State := x; clear hs; unfold x)
        | (have hs : Nat → State → State := x; clear hs; unfold x)
        | clear_value x)
    | unfold x
    | (with_reducible refine Kept.upd ?_ ?_; rotate_left; exact rfl)

theorem enterFinding_kept {s0 s : State} {a0 a1 a2 a3 a4 a5 a6 a7 a8} (h : Kept s0 s) : Kept s0 (enterFinding a0 a1 a2 a3 a4 a5 a6 a7 a8 s) := by
  unfold enterFinding
  repeat' first
    | with_reducible assumption
    | (intro hx; clear_value x)
    | intro _
    | with_reducible apply foldl_kept
    | with_reducible apply foldlPair_kept
    | with_reducible apply bump_kept
    | with_reducible apply setEv_kept
    | with_reducible apply wr_kept
    | with_reducible apply signalVec_kept
    | split
    | dsimp -zeta only
    | ((fail_if_no_progress extract_lets +onlyGivenNames x); first
        | refine Kept.cut (t := x) ?_ ?_
        | refine Kept.cut (t := x.2) ?_ ?_
        | refine Kept.cut (t := x.2.2) ?_ ?_
        | (have hs : Sil := x; clear hs; unfold x)
        | (have hs : State → State := x; clear hs; unfold x)
        | (have hs : Nat → State → State := x; clear hs; unfold x)
        | clear_value x)
    | unfold x
    | (with_reducible refine Kept.upd ?_ ?_; rotate_left; exact rfl)

theorem failUnit_kept {s0 s : State} {a0 a1 a2} (h : Kept s0 s) : Kept s0 (failUnit a0 a1 a2 s) := by
  unfold failUnit
  repeat' first
    | with_reducible assumption
    | (intro hx; clear_value x)
    | intro _
    | with_reducible apply dropWork_kept
    | with_reducible apply afterFailed_kept
    | with_reducible apply markFailed_kept
    | with_reducible apply closeFailedFinding_kept
    | with_reducible apply findOutcome_kept
    | split
    | ((fail_if_no_progress extract_lets +onlyGivenNames x); first
        | refine Kept.cut (t := x) ?_ ?_
        | refine Kept.cut (t := x.2) ?_ ?_
        | refine Kept.cut (t := x.2.2) ?_ ?_
        | (have hs : Sil := x; clear hs; unfold x)
        | (have hs : State → State := x; clear hs; unfold x)
        | (have hs : Nat → State → State := x; clear hs; unfold x)
        | clear_value x)

theorem findingNext_kept {s0 s : State} {a0} (h : Kept s0 s) : Kept s0 (findingNext a0 s) := by
  unfold findingNext
  repeat' first
    | with_reducible assumption
    | (intro hx; clear_value x)
    | intro _
    | with_reducible apply requestSoak_kept
    | with_reducible apply failUnit_kept
    | with_reducible apply findOutcome_kept
    | split
    | (with_reducible refine Kept.upd ?_ ?_; rotate_left; exact rfl)
    | ((fail_if_no_progress extract_lets +onlyGivenNames x); first
        | refine Kept.cut (t := x) ?_ ?_
        | refine Kept.cut (t := x.2) ?_ ?_
        | refine Kept.cut (t := x.2.2) ?_ ?_
        | (have hs : Sil := x; clear hs; unfold x)
        | (have hs : State → State := x; clear hs; unfold x)
        | (have hs : Nat → State → State := x; clear hs; unfold x)
        | clear_value x)

theorem checkDone_kept {s0 s : State} {a0} (h : Kept s0 s) : Kept s0 (checkDone a0 s) := by
  unfold checkDone
  repeat' first
    | with_reducible assumption
    | (intro hx; clear_value x)
    | intro _
    | with_reducible apply foldl_kept
    | with_reducible apply foldlPair_kept
    | with_reducible apply findingNext_kept
    | with_reducible apply findOutcome_kept
    | with_reducible apply setEv_kept
    | split
    | dsimp -zeta only
    | ((fail_if_no_progress extract_lets +onlyGivenNames x); first
        | refine Kept.cut (t := x) ?_ ?_
        | refine Kept.cut (t := x.2) ?_ ?_
        | refine Kept.cut (t := x.2.2) ?_ ?_
        | (have hs : Sil := x; clear hs; unfold x)
        | (have hs : State → State := x; clear hs; unfold x)
        | (have hs : Nat → State → State := x; clear hs; unfold x)
        | clear_value x)
    | unfold x
    | (with_reducible refine Kept.upd ?_ ?_; rotate_left; exact rfl)

theorem checkSample_kept {s0 s : State} {a0 a1} (h : Kept s0 s) : Kept s0 (checkSample a0 a1 s) := by
  unfold checkSample
  repeat' first
    | with_reducible assumption
    | (intro hx; clear_value x)
    | intro _
    | with_reducible apply foldl_kept
    | with_reducible apply foldlPair_kept
    | with_reducible apply checkDone_kept
    | split
    | dsimp -zeta only
    | ((fail_if_no_progress extract_lets +onlyGivenNames x); first
        | refine Kept.cut (t := x) ?_ ?_
        | refine Kept.cut (t := x.2) ?_ ?_
        | refine Kept.cut (t := x.2.2) ?_ ?_
        | (have hs : Sil := x; clear hs; unfold x)
        | (have hs : State → State := x; clear hs; unfold x)
        | (have hs : Nat → State → State := x; clear hs; unfold x)
        | clear_value x)
    | unfold x
    | (with_reducible refine Kept.upd ?_ ?_; rotate_left; exact rfl)

theorem columnFinding_kept {s0 s : State} {a0 a1 a2 a3 a4 a5} (h : Kept s0 s) :
    Kept s0 (columnFinding a0 a1 a2 a3 a4 a5 s) := by
  unfold columnFinding
  repeat' first
    | with_reducible assumption
    | (intro hx; clear_value x)
    | with_reducible apply drawFree_kept
    | with_reducible apply enterFinding_kept
    | with_reducible apply logE_kept
    | with_reducible apply requestSoak_kept
    | split
    | (with_reducible refine Kept.upd ?_ ?_; rotate_left; exact rfl)
    | ((fail_if_no_progress extract_lets +onlyGivenNames x); first
        | refine Kept.cut (t := x) ?_ ?_
        | refine Kept.cut (t := x.2) ?_ ?_
        | refine Kept.cut (t := x.2.2) ?_ ?_
        | (have hs : Sil := x; clear hs; unfold x)
        | (have hs : State → State := x; clear hs; unfold x)
        | (have hs : Nat → State → State := x; clear hs; unfold x)
        | clear_value x)

theorem outlierSeen_kept {s0 s : State} {a0 a1 a2 a3 a4} (h : Kept s0 s) : Kept s0 (outlierSeen a0 a1 a2 a3 a4 s) := by
  unfold outlierSeen
  repeat' first
    | with_reducible assumption
    | (intro hx; clear_value x)
    | with_reducible apply logE_kept
    | with_reducible apply bump_kept
    | with_reducible apply setEv_kept
    | ((fail_if_no_progress extract_lets +onlyGivenNames x); first
        | refine Kept.cut (t := x) ?_ ?_
        | refine Kept.cut (t := x.2) ?_ ?_
        | refine Kept.cut (t := x.2.2) ?_ ?_
        | (have hs : Sil := x; clear hs; unfold x)
        | (have hs : State → State := x; clear hs; unfold x)
        | (have hs : Nat → State → State := x; clear hs; unfold x)
        | clear_value x)

theorem analogue_kept {s0 s : State} {a0 a1 a2 a3} (h : Kept s0 s) : Kept s0 (analogue a0 a1 a2 a3 s) := by
  unfold analogue
  repeat' first
    | with_reducible assumption
    | (intro hx; clear_value x)
    | intro _
    | with_reducible apply foldS_kept
    | with_reducible apply foldSPair_kept
    | with_reducible apply outlierSeen_kept
    | with_reducible apply checkSample_kept
    | with_reducible apply chain_kept
    | with_reducible apply columnFinding_kept
    | split
    | (with_reducible refine Kept.upd ?_ ?_; rotate_left; exact rfl)
    | ((fail_if_no_progress extract_lets +onlyGivenNames x); first
        | refine Kept.cut (t := x) ?_ ?_
        | refine Kept.cut (t := x.2) ?_ ?_
        | refine Kept.cut (t := x.2.2) ?_ ?_
        | (have hs : Sil := x; clear hs; unfold x)
        | (have hs : State → State := x; clear hs; unfold x)
        | (have hs : Nat → State → State := x; clear hs; unfold x)
        | clear_value x)

theorem chainCheck_kept {s0 s : State} {a0 a1} (h : Kept s0 s) : Kept s0 (chainCheck a0 a1 s) := by
  unfold chainCheck
  repeat' first
    | with_reducible assumption
    | (intro hx; clear_value x)
    | intro _
    | with_reducible apply foldl_kept
    | with_reducible apply foldlPair_kept
    | with_reducible apply failUnit_kept
    | split
    | dsimp -zeta only
    | ((fail_if_no_progress extract_lets +onlyGivenNames x); first
        | refine Kept.cut (t := x) ?_ ?_
        | refine Kept.cut (t := x.2) ?_ ?_
        | refine Kept.cut (t := x.2.2) ?_ ?_
        | (have hs : Sil := x; clear hs; unfold x)
        | (have hs : State → State := x; clear hs; unfold x)
        | (have hs : Nat → State → State := x; clear hs; unfold x)
        | clear_value x)
    | unfold x
    | (with_reducible refine Kept.upd ?_ ?_; rotate_left; exact rfl)

theorem chain_kept {s0 s : State} {a0 a1 a2} (h : Kept s0 s) : Kept s0 (chain a0 a1 a2 s) := by
  unfold chain
  repeat' first
    | with_reducible assumption
    | (intro hx; clear_value x)
    | intro _
    | with_reducible apply bump_kept
    | with_reducible apply chainCheck_kept
    | with_reducible apply enterFinding_kept
    | with_reducible apply logE_kept
    | with_reducible apply startEngineReset_kept
    | split
    | (with_reducible refine Kept.upd ?_ ?_; rotate_left; exact rfl)
    | ((fail_if_no_progress extract_lets +onlyGivenNames x); first
        | refine Kept.cut (t := x) ?_ ?_
        | refine Kept.cut (t := x.2) ?_ ?_
        | refine Kept.cut (t := x.2.2) ?_ ?_
        | (have hs : Sil := x; clear hs; unfold x)
        | (have hs : State → State := x; clear hs; unfold x)
        | (have hs : Nat → State → State := x; clear hs; unfold x)
        | clear_value x)

theorem execSampleVerdict_kept {s0 s : State} {a0 a1 a2 a3} (h : Kept s0 s) :
    ∃ u, execSampleVerdict a0 a1 a2 a3 s = .next u ∧ Kept s0 u := by
  unfold execSampleVerdict done
  refine ⟨_, rfl, ?_⟩
  repeat' first
    | with_reducible assumption
    | (intro hx; clear_value x)
    | intro _
    | with_reducible apply whenS_kept
    | with_reducible apply withhold_kept
    | with_reducible apply discard_kept
    | with_reducible apply bump_kept
    | with_reducible apply analogue_kept
    | with_reducible apply chain_kept
    | split
    | (with_reducible refine Kept.upd ?_ ?_; rotate_left; exact rfl)
    | ((fail_if_no_progress extract_lets +onlyGivenNames x); first
        | refine Kept.cut (t := x) ?_ ?_
        | refine Kept.cut (t := x.2) ?_ ?_
        | refine Kept.cut (t := x.2.2) ?_ ?_
        | (have hs : Sil := x; clear hs; unfold x)
        | (have hs : State → State := x; clear hs; unfold x)
        | (have hs : Nat → State → State := x; clear hs; unfold x)
        | clear_value x)

theorem execCrossCheckRound_kept {s0 s : State} {a0 a1 a2 a3} (h : Kept s0 s) :
    ∃ u, execCrossCheckRound a0 a1 a2 a3 s = .next u ∧ Kept s0 u := by
  unfold execCrossCheckRound done
  refine ⟨_, rfl, ?_⟩
  repeat' first
    | with_reducible assumption
    | (intro hx; clear_value x)
    | split
    | (with_reducible refine Kept.upd ?_ ?_; rotate_left; exact rfl)
    | ((fail_if_no_progress extract_lets +onlyGivenNames x); first
        | refine Kept.cut (t := x) ?_ ?_
        | refine Kept.cut (t := x.2) ?_ ?_
        | refine Kept.cut (t := x.2.2) ?_ ?_
        | (have hs : Sil := x; clear hs; unfold x)
        | (have hs : State → State := x; clear hs; unfold x)
        | (have hs : Nat → State → State := x; clear hs; unfold x)
        | clear_value x)

theorem roPass_kept {s0 s : State} {a0 a1} (h : Kept s0 s) : Kept s0 (roPass a0 a1 s) := by
  unfold roPass
  repeat' first
    | with_reducible assumption
    | (intro hx; clear_value x)
    | intro _
    | with_reducible apply foldl_kept
    | with_reducible apply foldlPair_kept
    | split
    | dsimp -zeta only
    | ((fail_if_no_progress extract_lets +onlyGivenNames x); first
        | refine Kept.cut (t := x) ?_ ?_
        | refine Kept.cut (t := x.2) ?_ ?_
        | refine Kept.cut (t := x.2.2) ?_ ?_
        | (have hs : Sil := x; clear hs; unfold x)
        | (have hs : State → State := x; clear hs; unfold x)
        | (have hs : Nat → State → State := x; clear hs; unfold x)
        | clear_value x)
    | unfold x
    | (with_reducible refine Kept.upd ?_ ?_; rotate_left; exact rfl)

theorem roLog_kept {s0 s : State} {a0 a1 a2 a3 a4} (h : Kept s0 s) : Kept s0 (roLog a0 a1 a2 a3 a4 s) := by
  unfold roLog
  repeat' first
    | with_reducible assumption
    | with_reducible apply logE_kept

theorem roFailing_kept {s0 s : State} {a0 a1 a2} (h : Kept s0 s) : Kept s0 (roFailing a0 a1 a2 s) := by
  unfold roFailing
  repeat' first
    | with_reducible assumption
    | (intro hx; clear_value x)
    | intro _
    | with_reducible apply foldl_kept
    | with_reducible apply foldlPair_kept
    | with_reducible apply startEngineReset_kept
    | split
    | dsimp -zeta only
    | ((fail_if_no_progress extract_lets +onlyGivenNames x); first
        | refine Kept.cut (t := x) ?_ ?_
        | refine Kept.cut (t := x.2) ?_ ?_
        | refine Kept.cut (t := x.2.2) ?_ ?_
        | (have hs : Sil := x; clear hs; unfold x)
        | (have hs : State → State := x; clear hs; unfold x)
        | (have hs : Nat → State → State := x; clear hs; unfold x)
        | clear_value x)
    | unfold x
    | (with_reducible refine Kept.upd ?_ ?_; rotate_left; exact rfl)

theorem addTransient_kept {s0 s : State} {a0 a1} (h : Kept s0 s) : Kept s0 (addTransient a0 a1 s) := by
  unfold addTransient
  repeat' first
    | with_reducible assumption
    | (intro hx; clear_value x)
    | intro _
    | with_reducible apply foldl_kept
    | with_reducible apply foldlPair_kept
    | split
    | dsimp -zeta only
    | ((fail_if_no_progress extract_lets +onlyGivenNames x); first
        | refine Kept.cut (t := x) ?_ ?_
        | refine Kept.cut (t := x.2) ?_ ?_
        | refine Kept.cut (t := x.2.2) ?_ ?_
        | (have hs : Sil := x; clear hs; unfold x)
        | (have hs : State → State := x; clear hs; unfold x)
        | (have hs : Nat → State → State := x; clear hs; unfold x)
        | clear_value x)
    | unfold x
    | (with_reducible refine Kept.upd ?_ ?_; rotate_left; exact rfl)

theorem roTransient_kept {s0 s : State} {a0} (h : Kept s0 s) : Kept s0 (roTransient a0 s) := by
  unfold roTransient
  repeat' first
    | with_reducible assumption
    | (intro hx; clear_value x)
    | intro _
    | with_reducible apply foldS_kept
    | with_reducible apply foldl_kept
    | with_reducible apply foldlPair_kept
    | with_reducible apply foldSPair_kept
    | with_reducible apply addTransient_kept
    | with_reducible apply setEv_kept
    | with_reducible apply roLog_kept
    | with_reducible apply setRound_kept
    | with_reducible apply bump_kept
    | with_reducible apply roPass_kept
    | with_reducible apply roFailing_kept
    | split
    | dsimp -zeta only
    | ((fail_if_no_progress extract_lets +onlyGivenNames x); first
        | refine Kept.cut (t := x) ?_ ?_
        | refine Kept.cut (t := x.2) ?_ ?_
        | refine Kept.cut (t := x.2.2) ?_ ?_
        | (have hs : Sil := x; clear hs; unfold x)
        | (have hs : State → State := x; clear hs; unfold x)
        | (have hs : Nat → State → State := x; clear hs; unfold x)
        | clear_value x)
    | unfold x
    | (with_reducible refine Kept.upd ?_ ?_; rotate_left; exact rfl)

theorem roConfirmed_kept {s0 s : State} {a0} (h : Kept s0 s) : Kept s0 (roConfirmed a0 s) := by
  unfold roConfirmed
  repeat' first
    | with_reducible assumption
    | (intro hx; clear_value x)
    | intro _
    | with_reducible apply foldl_kept
    | with_reducible apply foldlPair_kept
    | with_reducible apply setRound_kept
    | with_reducible apply roLog_kept
    | with_reducible apply enterFinding_kept
    | with_reducible apply failUnit_kept
    | split
    | dsimp -zeta only
    | ((fail_if_no_progress extract_lets +onlyGivenNames x); first
        | refine Kept.cut (t := x) ?_ ?_
        | refine Kept.cut (t := x.2) ?_ ?_
        | refine Kept.cut (t := x.2.2) ?_ ?_
        | (have hs : Sil := x; clear hs; unfold x)
        | (have hs : State → State := x; clear hs; unfold x)
        | (have hs : Nat → State → State := x; clear hs; unfold x)
        | clear_value x)
    | unfold x
    | (with_reducible refine Kept.upd ?_ ?_; rotate_left; exact rfl)

theorem execCrossCheckComplete_kept {s0 s : State} {a0 a1 a2 a3 a4} (h : Kept s0 s) :
    ∃ u, execCrossCheckComplete a0 a1 a2 a3 a4 s = .next u ∧ Kept s0 u := by
  unfold execCrossCheckComplete done
  refine ⟨_, rfl, ?_⟩
  repeat' first
    | with_reducible assumption
    | (intro hx; clear_value x)
    | intro _
    | with_reducible apply foldl_kept
    | with_reducible apply foldlPair_kept
    | with_reducible apply setRound_kept
    | with_reducible apply roPass_kept
    | with_reducible apply bump_kept
    | with_reducible apply roConfirmed_kept
    | with_reducible apply roFailing_kept
    | with_reducible apply roLog_kept
    | with_reducible apply setEv_kept
    | with_reducible apply roTransient_kept
    | split
    | dsimp -zeta only
    | ((fail_if_no_progress extract_lets +onlyGivenNames x); first
        | refine Kept.cut (t := x) ?_ ?_
        | refine Kept.cut (t := x.2) ?_ ?_
        | refine Kept.cut (t := x.2.2) ?_ ?_
        | (have hs : Sil := x; clear hs; unfold x)
        | (have hs : State → State := x; clear hs; unfold x)
        | (have hs : Nat → State → State := x; clear hs; unfold x)
        | clear_value x)
    | unfold x
    | (with_reducible refine Kept.upd ?_ ?_; rotate_left; exact rfl)

theorem execRoundTimeout_kept {s0 s : State} {a0 a1} (h : Kept s0 s) :
    ∃ u, execRoundTimeout a0 a1 s = .next u ∧ Kept s0 u := by
  unfold execRoundTimeout done
  refine ⟨_, rfl, ?_⟩
  repeat' first
    | with_reducible assumption
    | intro _
    | with_reducible apply abandonRound_kept
    | split

theorem scanFinding_kept {s0 s : State} {a0 a1} (h : Kept s0 s) : Kept s0 (scanFinding a0 a1 s) := by
  unfold scanFinding
  repeat' first
    | with_reducible assumption
    | (intro hx; clear_value x)
    | with_reducible apply enterFinding_kept
    | with_reducible apply logE_kept
    | with_reducible apply roFailing_kept
    | split
    | ((fail_if_no_progress extract_lets +onlyGivenNames x); first
        | refine Kept.cut (t := x) ?_ ?_
        | refine Kept.cut (t := x.2) ?_ ?_
        | refine Kept.cut (t := x.2.2) ?_ ?_
        | (have hs : Sil := x; clear hs; unfold x)
        | (have hs : State → State := x; clear hs; unfold x)
        | (have hs : Nat → State → State := x; clear hs; unfold x)
        | clear_value x)

theorem runScan_kept {s0 s : State} {a0} (h : Kept s0 s) : Kept s0 (runScan a0 s) := by
  unfold runScan
  repeat' first
    | with_reducible assumption
    | (intro hx; clear_value x)
    | intro _
    | with_reducible apply foldS_kept
    | with_reducible apply foldl_kept
    | with_reducible apply whenS_kept
    | with_reducible apply foldlPair_kept
    | with_reducible apply foldSPair_kept
    | with_reducible apply wr_kept
    | with_reducible apply scanFinding_kept
    | split
    | dsimp -zeta only
    | ((fail_if_no_progress extract_lets +onlyGivenNames x); first
        | refine Kept.cut (t := x) ?_ ?_
        | refine Kept.cut (t := x.2) ?_ ?_
        | refine Kept.cut (t := x.2.2) ?_ ?_
        | (have hs : Sil := x; clear hs; unfold x)
        | (have hs : State → State := x; clear hs; unfold x)
        | (have hs : Nat → State → State := x; clear hs; unfold x)
        | clear_value x)
    | unfold x
    | (with_reducible refine Kept.upd ?_ ?_; rotate_left; exact rfl)

theorem scanWrite_kept {s0 s : State} {a0 a1 a2} (h : Kept s0 s) : Kept s0 (scanWrite a0 a1 a2 s) := by
  unfold scanWrite
  repeat' first
    | with_reducible assumption
    | (intro hx; clear_value x)
    | with_reducible apply storeBlk_kept
    | with_reducible apply wrf_kept
    | with_reducible apply logE_kept
    | with_reducible apply runScan_kept
    | split
    | ((fail_if_no_progress extract_lets +onlyGivenNames x); first
        | refine Kept.cut (t := x) ?_ ?_
        | refine Kept.cut (t := x.2) ?_ ?_
        | refine Kept.cut (t := x.2.2) ?_ ?_
        | (have hs : Sil := x; clear hs; unfold x)
        | (have hs : State → State := x; clear hs; unfold x)
        | (have hs : Nat → State → State := x; clear hs; unfold x)
        | clear_value x)

theorem execScanStart_kept {s0 s : State} {a0 a1 a2} (h : Kept s0 s) :
    ∃ u, execScanStart a0 a1 a2 s = .next u ∧ Kept s0 u := by
  unfold execScanStart done
  refine ⟨_, rfl, ?_⟩
  repeat' first
    | with_reducible assumption
    | (intro hx; clear_value x)
    | intro _
    | with_reducible apply foldl_kept
    | with_reducible apply foldlPair_kept
    | with_reducible apply scanWrite_kept
    | split
    | dsimp -zeta only
    | ((fail_if_no_progress extract_lets +onlyGivenNames x); first
        | refine Kept.cut (t := x) ?_ ?_
        | refine Kept.cut (t := x.2) ?_ ?_
        | refine Kept.cut (t := x.2.2) ?_ ?_
        | (have hs : Sil := x; clear hs; unfold x)
        | (have hs : State → State := x; clear hs; unfold x)
        | (have hs : Nat → State → State := x; clear hs; unfold x)
        | clear_value x)
    | unfold x
    | (with_reducible refine Kept.upd ?_ ?_; rotate_left; exact rfl)

theorem execBoostExpiry_kept {s0 s : State} {a0} (h : Kept s0 s) :
    ∃ u, execBoostExpiry a0 s = .next u ∧ Kept s0 u := by
  unfold execBoostExpiry done
  refine ⟨_, rfl, ?_⟩
  repeat' first
    | with_reducible assumption
    | (intro hx; clear_value x)
    | intro _
    | with_reducible apply foldl_kept
    | with_reducible apply foldlPair_kept
    | with_reducible apply accrueAll_kept
    | with_reducible apply wrf_kept
    | split
    | dsimp -zeta only
    | ((fail_if_no_progress extract_lets +onlyGivenNames x); first
        | refine Kept.cut (t := x) ?_ ?_
        | refine Kept.cut (t := x.2) ?_ ?_
        | refine Kept.cut (t := x.2.2) ?_ ?_
        | (have hs : Sil := x; clear hs; unfold x)
        | (have hs : State → State := x; clear hs; unfold x)
        | (have hs : Nat → State → State := x; clear hs; unfold x)
        | clear_value x)
    | unfold x
    | (with_reducible refine Kept.upd ?_ ?_; rotate_left; exact rfl)

end Sys2Proof.Machine
end

