-- ==== Sys2Proof/Laws/KeptClock.lean ====
section
/-! SUPPORT. What `Kept` says is kept by the operations of Machine/Clock.lean. -/

-- One proof at a time: proofs elaborated side by side wait on each other, and each that waits holds a thread's stack.
set_option Elab.async false

namespace Sys2Proof.Machine

open Sys2Proof

theorem linkDown_kept {s0 s : State} (h : Kept s0 s) : Kept s0 (linkDown s) := by
  unfold linkDown
  repeat' first
    | with_reducible assumption
    | with_reducible apply flrPf_kept
    | split
    | (with_reducible refine Kept.upd ?_ ?_; rotate_left; exact rfl)

theorem dropPorts_kept {s0 s : State} {a0 a1} (h : Kept s0 s) : Kept s0 (dropPorts a0 a1 s) := by
  unfold dropPorts
  repeat' first
    | with_reducible assumption
    | intro _
    | with_reducible apply foldS_kept
    | with_reducible apply modLport_kept
    | with_reducible apply wrf_kept
    | with_reducible apply qpErrors_kept

theorem trainPorts_kept {s0 s : State} {a0} (h : Kept s0 s) : Kept s0 (trainPorts a0 s) := by
  unfold trainPorts
  repeat' first
    | with_reducible assumption
    | intro _
    | with_reducible apply foldS_kept
    | with_reducible apply foldSPair_kept
    | with_reducible apply wrf_kept

theorem memFail_kept {s0 s : State} (h : Kept s0 s) : Kept s0 (memFail s) := by
  unfold memFail
  repeat' first
    | with_reducible assumption
    | intro _
    | with_reducible apply foldS_kept
    | with_reducible apply loseHbm_kept
    | (with_reducible refine Kept.upd ?_ ?_; rotate_left; exact rfl)

theorem memBack_kept {s0 s : State} (h : Kept s0 s) : Kept s0 (memBack s) := by
  unfold memBack
  repeat' first
    | with_reducible assumption
    | (intro hx; clear_value x)
    | intro _
    | with_reducible apply foldS_kept
    | with_reducible apply foldSPair_kept
    | with_reducible apply zeroRange_kept
    | with_reducible apply putEntry_kept
    | with_reducible apply channelsReady_kept
    | (with_reducible refine Kept.upd ?_ ?_; rotate_left; exact rfl)
    | ((fail_if_no_progress extract_lets +onlyGivenNames x); first
        | refine Kept.cut (t := x) ?_ ?_
        | refine Kept.cut (t := x.2) ?_ ?_
        | refine Kept.cut (t := x.2.2) ?_ ?_
        | (have hs : Sil := x; clear hs; unfold x)
        | (have hs : State → State := x; clear hs; unfold x)
        | (have hs : Nat → State → State := x; clear hs; unfold x)
        | clear_value x)

theorem safeState_kept {s0 s : State} {a0} (h : Kept s0 s) : Kept s0 (safeState a0 s) := by
  unfold safeState
  repeat' first
    | with_reducible assumption
    | intro _
    | with_reducible apply linkDown_kept
    | with_reducible apply dropPorts_kept
    | with_reducible apply memFail_kept
    | split

theorem xtalFail_kept {s0 s : State} {a0} (h : Kept s0 s) : Kept s0 (xtalFail a0 s) := by
  unfold xtalFail
  repeat' first
    | with_reducible assumption
    | intro _
    | with_reducible apply foldS_kept
    | with_reducible apply safeState_kept
    | with_reducible apply startCold_kept
    | with_reducible apply wrf_kept
    | with_reducible apply logE_kept
    | (with_reducible refine Kept.upd ?_ ?_; rotate_left; exact rfl)

theorem setClk_kept {s0 s : State} {a0 a1} (h : Kept s0 s) : Kept s0 (setClk a0 a1 s) := by
  unfold setClk
  repeat' first
    | with_reducible assumption
    | with_reducible apply wrf_kept

theorem modClk_kept {s0 s : State} {a0 a1} (h : Kept s0 s) : Kept s0 (modClk a0 a1 s) := by
  unfold modClk
  repeat' first
    | with_reducible assumption
    | (with_reducible refine Kept.upd ?_ ?_; rotate_left; exact rfl)

theorem clkFail_kept {s0 s : State} {a0 a1} (h : Kept s0 s) : Kept s0 (clkFail a0 a1 s) := by
  unfold clkFail
  repeat' first
    | with_reducible assumption
    | with_reducible apply setClk_kept
    | with_reducible apply modClk_kept
    | with_reducible apply xtalFail_kept
    | with_reducible apply safeState_kept
    | with_reducible apply logE_kept
    | with_reducible apply setEv_kept
    | split
    | ((fail_if_no_progress extract_lets +onlyGivenNames x); first
        | refine Kept.cut (t := x) ?_ ?_
        | refine Kept.cut (t := x.2) ?_ ?_
        | refine Kept.cut (t := x.2.2) ?_ ?_
        | (have hs : Sil := x; clear hs; unfold x)
        | (have hs : State → State := x; clear hs; unfold x)
        | (have hs : Nat → State → State := x; clear hs; unfold x)
        | clear_value x)

theorem clkValid_kept {s0 s : State} {a0} (h : Kept s0 s) : Kept s0 (clkValid a0 s) := by
  unfold clkValid
  repeat' first
    | with_reducible assumption
    | intro _
    | with_reducible apply whenS_kept
    | with_reducible apply setClk_kept
    | with_reducible apply modClk_kept
    | with_reducible apply trainPorts_kept
    | with_reducible apply memBack_kept
    | with_reducible apply wrf_kept
    | with_reducible apply startCold_kept
    | split
    | ((fail_if_no_progress extract_lets +onlyGivenNames x); first
        | refine Kept.cut (t := x) ?_ ?_
        | refine Kept.cut (t := x.2) ?_ ?_
        | refine Kept.cut (t := x.2.2) ?_ ?_
        | (have hs : Sil := x; clear hs; unfold x)
        | (have hs : State → State := x; clear hs; unfold x)
        | (have hs : Nat → State → State := x; clear hs; unfold x)
        | clear_value x)

theorem execClockMeasurement_kept {s0 s : State} {a0 a1} (h : Kept s0 s) :
    ∃ u, execClockMeasurement a0 a1 s = .next u ∧ Kept s0 u := by
  unfold execClockMeasurement done
  refine ⟨_, rfl, ?_⟩
  repeat' first
    | with_reducible assumption
    | intro _
    | with_reducible apply whenS_kept
    | with_reducible apply setClk_kept
    | with_reducible apply modClk_kept
    | with_reducible apply clkFail_kept
    | with_reducible apply clkValid_kept
    | with_reducible apply logE_kept
    | with_reducible apply setEv_kept
    | split
    | ((fail_if_no_progress extract_lets +onlyGivenNames x); first
        | refine Kept.cut (t := x) ?_ ?_
        | refine Kept.cut (t := x.2) ?_ ?_
        | refine Kept.cut (t := x.2.2) ?_ ?_
        | (have hs : Sil := x; clear hs; unfold x)
        | (have hs : State → State := x; clear hs; unfold x)
        | (have hs : Nat → State → State := x; clear hs; unfold x)
        | clear_value x)

theorem execClockEdgeLoss_kept {s0 s : State} {a0} (h : Kept s0 s) :
    ∃ u, execClockEdgeLoss a0 s = .next u ∧ Kept s0 u := by
  unfold execClockEdgeLoss done
  refine ⟨_, rfl, ?_⟩
  repeat' first
    | with_reducible assumption
    | with_reducible apply clkFail_kept
    | split

theorem execRcOscillatorLoss_kept {s0 s : State} (h : Kept s0 s) :
    ∃ u, execRcOscillatorLoss s = .next u ∧ Kept s0 u := by
  unfold execRcOscillatorLoss done
  refine ⟨_, rfl, ?_⟩
  repeat' first
    | with_reducible assumption
    | with_reducible apply logE_kept
    | with_reducible apply setEv_kept
    | with_reducible apply setClk_kept

theorem execRcOscillatorRecovered_kept {s0 s : State} (h : Kept s0 s) :
    ∃ u, execRcOscillatorRecovered s = .next u ∧ Kept s0 u := by
  unfold execRcOscillatorRecovered done
  refine ⟨_, rfl, ?_⟩
  repeat' first
    | with_reducible assumption
    | with_reducible apply setClk_kept
    | split

theorem resetBlk_kept {s0 s : State} {a0} (h : Kept s0 s) : Kept s0 (resetBlk a0 s) := by
  unfold resetBlk
  repeat' first
    | with_reducible assumption
    | with_reducible apply resetAllRegs_kept

theorem gateOff_kept {s0 s : State} {a0} (h : Kept s0 s) : Kept s0 (gateOff a0 s) := by
  unfold gateOff
  repeat' first
    | with_reducible assumption
    | (intro hx; clear_value x)
    | intro _
    | with_reducible apply whenS_kept
    | with_reducible apply dropPorts_kept
    | with_reducible apply logE_kept
    | with_reducible apply letGo_kept
    | with_reducible apply resetBlk_kept
    | split
    | (with_reducible refine Kept.upd ?_ ?_; rotate_left; exact rfl)
    | ((fail_if_no_progress extract_lets +onlyGivenNames x); first
        | refine Kept.cut (t := x) ?_ ?_
        | refine Kept.cut (t := x.2) ?_ ?_
        | refine Kept.cut (t := x.2.2) ?_ ?_
        | (have hs : Sil := x; clear hs; unfold x)
        | (have hs : State → State := x; clear hs; unfold x)
        | (have hs : Nat → State → State := x; clear hs; unfold x)
        | clear_value x)

theorem gateOn_kept {s0 s : State} {a0} (h : Kept s0 s) : Kept s0 (gateOn a0 s) := by
  unfold gateOn
  repeat' first
    | with_reducible assumption
    | (intro hx; clear_value x)
    | intro _
    | with_reducible apply foldS_kept
    | with_reducible apply foldSPair_kept
    | with_reducible apply fuseMacs_kept
    | with_reducible apply clearRegs_kept
    | with_reducible apply wrf_kept
    | with_reducible apply resetBlk_kept
    | split
    | (with_reducible refine Kept.upd ?_ ?_; rotate_left; exact rfl)
    | ((fail_if_no_progress extract_lets +onlyGivenNames x); first
        | refine Kept.cut (t := x) ?_ ?_
        | refine Kept.cut (t := x.2) ?_ ?_
        | refine Kept.cut (t := x.2.2) ?_ ?_
        | (have hs : Sil := x; clear hs; unfold x)
        | (have hs : State → State := x; clear hs; unfold x)
        | (have hs : Nat → State → State := x; clear hs; unfold x)
        | clear_value x)

theorem clkGateWrite_kept {s0 s : State} {a0 a1} (h : Kept s0 s) : Kept s0 (clkGateWrite a0 a1 s) := by
  unfold clkGateWrite
  repeat' first
    | with_reducible assumption
    | intro _
    | with_reducible apply foldS_kept
    | with_reducible apply foldl_kept
    | with_reducible apply whenS_kept
    | with_reducible apply storeBlk_kept
    | with_reducible apply gateOff_kept
    | with_reducible apply gateOn_kept
    | with_reducible apply pdSwitch_kept

theorem execClkGateWrite_kept {s0 s : State} {a0 a1} (h : Kept s0 s) :
    ∃ u, execClkGateWrite a0 a1 s = .next u ∧ Kept s0 u := by
  unfold execClkGateWrite done
  refine ⟨_, rfl, ?_⟩
  repeat' first
    | with_reducible assumption
    | with_reducible apply clkGateWrite_kept

end Sys2Proof.Machine
end

