-- ==== Sys2Proof/Laws/KeptPower.lean ====
section
/-! SUPPORT. What `Kept` says is kept by the operations of Machine/Power.lean. -/

-- One proof at a time: proofs elaborated side by side wait on each other, and each that waits holds a thread's stack.
set_option Elab.async false

namespace Sys2Proof.Machine

open Sys2Proof

theorem sendCodes_kept {s0 s : State} (h : Kept s0 s) : Kept s0 (sendCodes s) := by
  unfold sendCodes
  repeat' first
    | with_reducible assumption
    | intro _
    | with_reducible apply foldS_kept
    | with_reducible apply emit_kept

theorem execVrCodeRepeat_kept {s0 s : State} (h : Kept s0 s) :
    ∃ u, execVrCodeRepeat s = .next u ∧ Kept s0 u := by
  unfold execVrCodeRepeat done
  refine ⟨_, rfl, ?_⟩
  repeat' first
    | with_reducible assumption
    | with_reducible apply sendCodes_kept
    | split

theorem execVrAlert_kept {s0 s : State} (h : Kept s0 s) :
    ∃ u, execVrAlert s = .next u ∧ Kept s0 u := by
  unfold execVrAlert done
  refine ⟨_, rfl, ?_⟩
  repeat' first
    | with_reducible assumption
    | with_reducible apply sendCodes_kept
    | with_reducible apply signalVec_kept
    | with_reducible apply logE_kept
    | with_reducible apply setEv_kept

theorem poolStep_kept {s0 s : State} {a0 a1} (h : Kept s0 s) : Kept s0 (poolStep a0 a1 s) := by
  unfold poolStep
  repeat' first
    | with_reducible assumption
    | intro _
    | with_reducible apply modPool_kept
    | split

theorem vcoreStep_kept {s0 s : State} {a0 a1} (h : Kept s0 s) : Kept s0 (vcoreStep a0 a1 s) := by
  unfold vcoreStep
  repeat' first
    | with_reducible assumption
    | intro _
    | with_reducible apply foldS_kept
    | with_reducible apply emit_kept
    | split
    | (with_reducible refine Kept.upd ?_ ?_; rotate_left; exact rfl)

theorem govCount_kept {s0 s : State} {a0} (h : Kept s0 s) : Kept s0 (govCount a0 s) := by
  unfold govCount
  repeat' first
    | with_reducible assumption
    | with_reducible apply wrf_kept
    | split

theorem govStep_kept {s0 s : State} {a0 a1 a2 a3} (h : Kept s0 s) : Kept s0 (govStep a0 a1 a2 a3 s) := by
  unfold govStep
  repeat' first
    | with_reducible assumption
    | intro _
    | with_reducible apply foldS_kept
    | with_reducible apply foldlPair_kept
    | with_reducible apply govCount_kept
    | with_reducible apply poolStep_kept
    | with_reducible apply vcoreStep_kept
    | split
    | ((fail_if_no_progress extract_lets +onlyGivenNames x); first
        | refine Kept.cut (t := x) ?_ ?_
        | refine Kept.cut (t := x.2) ?_ ?_
        | refine Kept.cut (t := x.2.2) ?_ ?_
        | (have hs : Sil := x; clear hs; unfold x)
        | (have hs : State → State := x; clear hs; unfold x)
        | (have hs : Nat → State → State := x; clear hs; unfold x)
        | clear_value x)

theorem execGovernorSample_kept {s0 s : State} {a0 a1 a2 a3} (h : Kept s0 s) :
    ∃ u, execGovernorSample a0 a1 a2 a3 s = .next u ∧ Kept s0 u := by
  unfold execGovernorSample done
  refine ⟨_, rfl, ?_⟩
  repeat' first
    | with_reducible assumption
    | intro _
    | with_reducible apply whenS_kept
    | with_reducible apply setEv_kept
    | with_reducible apply wr_kept
    | with_reducible apply logE_kept
    | with_reducible apply govStep_kept
    | split
    | (with_reducible refine Kept.upd ?_ ?_; rotate_left; exact rfl)

theorem execDomainSwitchDone_kept {s0 s : State} {a0 a1} (h : Kept s0 s) :
    ∃ u, execDomainSwitchDone a0 a1 s = .next u ∧ Kept s0 u := by
  unfold execDomainSwitchDone done
  refine ⟨_, rfl, ?_⟩
  repeat' first
    | with_reducible assumption
    | intro _
    | with_reducible apply foldS_kept
    | with_reducible apply pdAdvance_kept
    | with_reducible apply placeReason_kept
    | with_reducible apply logE_kept
    | with_reducible apply startWarm_kept
    | split
    | (with_reducible refine Kept.upd ?_ ?_; rotate_left; exact rfl)

theorem ptReqBit_kept {s0 s : State} {a0 a1} (h : Kept s0 s) : Kept s0 (ptReqBit a0 a1 s) := by
  unfold ptReqBit
  repeat' first
    | with_reducible assumption
    | with_reducible apply logE_kept
    | with_reducible apply setEv_kept
    | with_reducible apply wrf_kept
    | with_reducible apply powerDown_kept
    | with_reducible apply pdAdvance_kept
    | split
    | ((fail_if_no_progress extract_lets +onlyGivenNames x); first
        | refine Kept.cut (t := x) ?_ ?_
        | refine Kept.cut (t := x.2) ?_ ?_
        | refine Kept.cut (t := x.2.2) ?_ ?_
        | (have hs : Sil := x; clear hs; unfold x)
        | (have hs : State → State := x; clear hs; unfold x)
        | (have hs : Nat → State → State := x; clear hs; unfold x)
        | clear_value x)

theorem ptReqWrite_kept {s0 s : State} {a0 a1} (h : Kept s0 s) : Kept s0 (ptReqWrite a0 a1 s) := by
  unfold ptReqWrite
  repeat' first
    | with_reducible assumption
    | intro _
    | with_reducible apply foldS_kept
    | with_reducible apply storeBlk_kept
    | with_reducible apply ptReqBit_kept

theorem execPartitionPowerDown_kept {s0 s : State} {a0 a1} (h : Kept s0 s) :
    ∃ u, execPartitionPowerDown a0 a1 s = .next u ∧ Kept s0 u := by
  unfold execPartitionPowerDown done
  refine ⟨_, rfl, ?_⟩
  repeat' first
    | with_reducible assumption
    | with_reducible apply ptReqWrite_kept

theorem execPartitionPowerUp_kept {s0 s : State} {a0 a1} (h : Kept s0 s) :
    ∃ u, execPartitionPowerUp a0 a1 s = .next u ∧ Kept s0 u := by
  unfold execPartitionPowerUp done
  refine ⟨_, rfl, ?_⟩
  repeat' first
    | with_reducible assumption
    | with_reducible apply ptReqWrite_kept

end Sys2Proof.Machine
end

