-- ==== Sys2Proof/Laws/KeptThermal.lean ====
section
/-! SUPPORT. What `Kept` says is kept by the operations of Machine/Thermal.lean. -/

-- One proof at a time: proofs elaborated side by side wait on each other, and each that waits holds a thread's stack.
set_option Elab.async false

namespace Sys2Proof.Machine

open Sys2Proof

theorem platLog_kept {s0 s : State} {a0 a1 a2 a3 a4} (h : Kept s0 s) : Kept s0 (platLog a0 a1 a2 a3 a4 s) := by
  unfold platLog
  repeat' first
    | with_reducible assumption
    | with_reducible apply logE_kept

theorem readThermos_kept {s0 s : State} {a0} (h : Kept s0 s) : Kept s0 (readThermos a0 s) := by
  unfold readThermos
  repeat' first
    | with_reducible assumption
    | intro _
    | with_reducible apply foldS_kept
    | with_reducible apply platLog_kept
    | with_reducible apply setEv_kept
    | with_reducible apply wrf_kept
    | (with_reducible refine Kept.upd ?_ ?_; rotate_left; exact rfl)

theorem coneEnter_kept {s0 s : State} {a0 a1} (h : Kept s0 s) : Kept s0 (coneEnter a0 a1 s) := by
  unfold coneEnter
  repeat' first
    | with_reducible assumption
    | intro _
    | with_reducible apply whenS_kept
    | with_reducible apply platLog_kept
    | with_reducible apply setEv_kept
    | with_reducible apply signalVec_kept
    | with_reducible apply placeReason_kept

theorem thmEvent_kept {s0 s : State} {a0} (h : Kept s0 s) : Kept s0 (thmEvent a0 s) := by
  unfold thmEvent
  repeat' first
    | with_reducible assumption
    | intro _
    | with_reducible apply whenS_kept
    | with_reducible apply signalVec_kept
    | with_reducible apply setEv_kept

theorem markHot_kept {s0 s : State} {a0 a1} (h : Kept s0 s) : Kept s0 (markHot a0 a1 s) := by
  unfold markHot
  repeat' first
    | with_reducible assumption
    | (intro hx; clear_value x)
    | intro _
    | with_reducible apply foldS_kept
    | with_reducible apply whenS_kept
    | with_reducible apply foldSPair_kept
    | with_reducible apply modTl_kept
    | with_reducible apply setEv_kept
    | with_reducible apply logE_kept
    | ((fail_if_no_progress extract_lets +onlyGivenNames x); first
        | refine Kept.cut (t := x) ?_ ?_
        | refine Kept.cut (t := x.2) ?_ ?_
        | refine Kept.cut (t := x.2.2) ?_ ?_
        | (have hs : Sil := x; clear hs; unfold x)
        | (have hs : State → State := x; clear hs; unfold x)
        | (have hs : Nat → State → State := x; clear hs; unfold x)
        | clear_value x)

theorem sampleBay_kept {s0 s : State} {a0} (h : Kept s0 s) : Kept s0 (sampleBay a0 s) := by
  unfold sampleBay
  repeat' first
    | with_reducible assumption
    | (intro hx; clear_value x)
    | intro _
    | with_reducible apply whenS_kept
    | with_reducible apply coneEnter_kept
    | with_reducible apply thmEvent_kept
    | with_reducible apply platLog_kept
    | with_reducible apply markHot_kept
    | with_reducible apply requestSoak_kept
    | split
    | (with_reducible refine Kept.upd ?_ ?_; rotate_left; exact rfl)
    | ((fail_if_no_progress extract_lets +onlyGivenNames x); first
        | refine Kept.cut (t := x) ?_ ?_
        | refine Kept.cut (t := x.2) ?_ ?_
        | refine Kept.cut (t := x.2.2) ?_ ?_
        | (have hs : Sil := x; clear hs; unfold x)
        | (have hs : State → State := x; clear hs; unfold x)
        | (have hs : Nat → State → State := x; clear hs; unfold x)
        | clear_value x)

theorem trip_kept {s0 s : State} (h : Kept s0 s) : Kept s0 (trip s) := by
  unfold trip
  repeat' first
    | with_reducible assumption
    | with_reducible apply linkDown_kept
    | with_reducible apply warmBase_kept
    | with_reducible apply wrf_kept
    | with_reducible apply platLog_kept
    | with_reducible apply emit_kept
    | split
    | (with_reducible refine Kept.upd ?_ ?_; rotate_left; exact rfl)

theorem tripRelease_kept {s0 s : State} (h : Kept s0 s) : Kept s0 (tripRelease s) := by
  unfold tripRelease
  repeat' first
    | with_reducible assumption
    | with_reducible apply startCold_kept
    | with_reducible apply emit_kept
    | split

theorem execThermometerSample_kept {s0 s : State} {a0} (h : Kept s0 s) :
    ∃ u, execThermometerSample a0 s = .next u ∧ Kept s0 u := by
  unfold execThermometerSample done
  refine ⟨_, rfl, ?_⟩
  repeat' first
    | with_reducible assumption
    | (intro hx; clear_value x)
    | intro _
    | with_reducible apply foldS_kept
    | with_reducible apply foldSPair_kept
    | with_reducible apply readThermos_kept
    | with_reducible apply tripRelease_kept
    | with_reducible apply trip_kept
    | with_reducible apply sampleBay_kept
    | split
    | ((fail_if_no_progress extract_lets +onlyGivenNames x); first
        | refine Kept.cut (t := x) ?_ ?_
        | refine Kept.cut (t := x.2) ?_ ?_
        | refine Kept.cut (t := x.2.2) ?_ ?_
        | (have hs : Sil := x; clear hs; unfold x)
        | (have hs : State → State := x; clear hs; unfold x)
        | (have hs : Nat → State → State := x; clear hs; unfold x)
        | clear_value x)

theorem execThermalReleaseExpiry_kept {s0 s : State} {a0} (h : Kept s0 s) :
    ∃ u, execThermalReleaseExpiry a0 s = .next u ∧ Kept s0 u := by
  unfold execThermalReleaseExpiry done
  refine ⟨_, rfl, ?_⟩
  repeat' first
    | with_reducible assumption
    | with_reducible apply removeReason_kept
    | split
    | (with_reducible refine Kept.upd ?_ ?_; rotate_left; exact rfl)

theorem setBrd_kept {s0 s : State} {a0 a1} (h : Kept s0 s) : Kept s0 (setBrd a0 a1 s) := by
  unfold setBrd
  repeat' first
    | with_reducible assumption
    | (with_reducible refine Kept.upd ?_ ?_; rotate_left; exact rfl)

end Sys2Proof.Machine
end

