-- ==== Sys2Proof/Laws/KeptBoard.lean ====
section
/-! SUPPORT. What `Kept` says is kept by the operations of Machine/Board.lean. -/

-- One proof at a time: proofs elaborated side by side wait on each other, and each that waits holds a thread's stack.
set_option Elab.async false

namespace Sys2Proof.Machine

open Sys2Proof

theorem perstReset_kept {s0 s : State} (h : Kept s0 s) : Kept s0 (perstReset s) := by
  unfold perstReset
  repeat' first
    | with_reducible assumption
    | with_reducible apply tripRelease_kept
    | with_reducible apply holdPackage_kept
    | with_reducible apply startWarm_kept
    | split

theorem inputAct_kept {s0 s : State} {a0 a1} (h : Kept s0 s) : Kept s0 (inputAct a0 a1 s) := by
  unfold inputAct
  repeat' first
    | with_reducible assumption
    | (intro hx; clear_value x)
    | with_reducible apply platLog_kept
    | with_reducible apply perstReset_kept
    | with_reducible apply tripRelease_kept
    | with_reducible apply wrf_kept
    | with_reducible apply setEv_kept
    | with_reducible apply platformEvent_kept
    | with_reducible apply signalVec_kept
    | split
    | (with_reducible refine Kept.upd ?_ ?_; rotate_left; exact rfl)
    | ((fail_if_no_progress extract_lets +onlyGivenNames x); first
        | refine Kept.cut (t := x) ?_ ?_
        | refine Kept.cut (t := x.2) ?_ ?_
        | refine Kept.cut (t := x.2.2) ?_ ?_
        | (have hs : Sil := x; clear hs; unfold x)
        | (have hs : State → State := x; clear hs; unfold x)
        | (have hs : Nat → State → State := x; clear hs; unfold x)
        | clear_value x)

theorem inputChange_kept {s0 s : State} {a0 a1} (h : Kept s0 s) : Kept s0 (inputChange a0 a1 s) := by
  unfold inputChange
  repeat' first
    | with_reducible assumption
    | intro _
    | with_reducible apply foldl_kept
    | with_reducible apply foldlPair_kept
    | with_reducible apply wrf_kept
    | with_reducible apply platLog_kept
    | with_reducible apply setEv_kept
    | with_reducible apply inputAct_kept
    | split
    | (with_reducible refine Kept.upd ?_ ?_; rotate_left; exact rfl)

theorem execPerstNAssert_kept {s0 s : State} (h : Kept s0 s) :
    ∃ u, execPerstNAssert s = .next u ∧ Kept s0 u := by
  unfold execPerstNAssert done
  refine ⟨_, rfl, ?_⟩
  repeat' first
    | with_reducible assumption
    | (intro hx; clear_value x)
    | intro _
    | with_reducible apply foldl_kept
    | with_reducible apply foldlPair_kept
    | with_reducible apply inputChange_kept

theorem execPerstNRelease_kept {s0 s : State} (h : Kept s0 s) :
    ∃ u, execPerstNRelease s = .next u ∧ Kept s0 u := by
  unfold execPerstNRelease done
  refine ⟨_, rfl, ?_⟩
  repeat' first
    | with_reducible assumption
    | (intro hx; clear_value x)
    | intro _
    | with_reducible apply foldl_kept
    | with_reducible apply foldlPair_kept
    | with_reducible apply inputChange_kept

theorem execAlertInAssert_kept {s0 s : State} (h : Kept s0 s) :
    ∃ u, execAlertInAssert s = .next u ∧ Kept s0 u := by
  unfold execAlertInAssert done
  refine ⟨_, rfl, ?_⟩
  repeat' first
    | with_reducible assumption
    | (intro hx; clear_value x)
    | intro _
    | with_reducible apply foldl_kept
    | with_reducible apply foldlPair_kept
    | with_reducible apply inputChange_kept

theorem execAlertInRelease_kept {s0 s : State} (h : Kept s0 s) :
    ∃ u, execAlertInRelease s = .next u ∧ Kept s0 u := by
  unfold execAlertInRelease done
  refine ⟨_, rfl, ?_⟩
  repeat' first
    | with_reducible assumption
    | (intro hx; clear_value x)
    | intro _
    | with_reducible apply foldl_kept
    | with_reducible apply foldlPair_kept
    | with_reducible apply inputChange_kept

theorem execThermInAssert_kept {s0 s : State} (h : Kept s0 s) :
    ∃ u, execThermInAssert s = .next u ∧ Kept s0 u := by
  unfold execThermInAssert done
  refine ⟨_, rfl, ?_⟩
  repeat' first
    | with_reducible assumption
    | (intro hx; clear_value x)
    | intro _
    | with_reducible apply foldl_kept
    | with_reducible apply foldlPair_kept
    | with_reducible apply inputChange_kept

theorem execThermInRelease_kept {s0 s : State} (h : Kept s0 s) :
    ∃ u, execThermInRelease s = .next u ∧ Kept s0 u := by
  unfold execThermInRelease done
  refine ⟨_, rfl, ?_⟩
  repeat' first
    | with_reducible assumption
    | (intro hx; clear_value x)
    | intro _
    | with_reducible apply foldl_kept
    | with_reducible apply foldlPair_kept
    | with_reducible apply inputChange_kept

theorem execBoardInputHoldExpiry_kept {s0 s : State} {a0 a1} (h : Kept s0 s) :
    ∃ u, execBoardInputHoldExpiry a0 a1 s = .next u ∧ Kept s0 u := by
  unfold execBoardInputHoldExpiry done
  refine ⟨_, rfl, ?_⟩
  repeat' first
    | with_reducible assumption
    | (intro hx; clear_value x)
    | intro _
    | with_reducible apply foldl_kept
    | with_reducible apply whenS_kept
    | with_reducible apply foldlPair_kept
    | with_reducible apply inputChange_kept
    | split
    | (with_reducible refine Kept.upd ?_ ?_; rotate_left; exact rfl)

theorem execBoardInputStuck_kept {s0 s : State} {a0} (h : Kept s0 s) :
    ∃ u, execBoardInputStuck a0 s = .next u ∧ Kept s0 u := by
  unfold execBoardInputStuck done
  refine ⟨_, rfl, ?_⟩
  repeat' first
    | with_reducible assumption
    | with_reducible apply signalVec_kept
    | with_reducible apply platLog_kept
    | with_reducible apply setEv_kept
    | with_reducible apply wrf_kept
    | split

theorem execBoardInputGlitch_kept {s0 s : State} {a0} (h : Kept s0 s) :
    ∃ u, execBoardInputGlitch a0 s = .next u ∧ Kept s0 u := by
  unfold execBoardInputGlitch done
  refine ⟨_, rfl, ?_⟩
  repeat' first
    | with_reducible assumption
    | with_reducible apply platLog_kept
    | with_reducible apply setEv_kept

theorem haltProgs_kept {s0 s : State} (h : Kept s0 s) : Kept s0 (haltProgs s) := by
  unfold haltProgs
  repeat' first
    | with_reducible assumption
    | intro _
    | with_reducible apply foldS_kept
    | with_reducible apply whenS_kept
    | with_reducible apply setProg_kept
    | with_reducible apply haltProg_kept
    | with_reducible apply setEv_kept
    | split

theorem execSupplyUndervoltage_kept {s0 s : State} {a0} (h : Kept s0 s) :
    ∃ u, execSupplyUndervoltage a0 s = .next u ∧ Kept s0 u := by
  unfold execSupplyUndervoltage done
  refine ⟨_, rfl, ?_⟩
  repeat' first
    | with_reducible assumption
    | intro _
    | with_reducible apply foldS_kept
    | with_reducible apply wrf_kept
    | with_reducible apply startCold_kept
    | with_reducible apply powerDown_kept
    | with_reducible apply haltProgs_kept
    | with_reducible apply safeState_kept
    | with_reducible apply memFail_kept
    | with_reducible apply signalVec_kept
    | with_reducible apply platLog_kept
    | with_reducible apply setEv_kept
    | split
    | (with_reducible refine Kept.upd ?_ ?_; rotate_left; exact rfl)

theorem execSupplyRecovered_kept {s0 s : State} {a0} (h : Kept s0 s) :
    ∃ u, execSupplyRecovered a0 s = .next u ∧ Kept s0 u := by
  unfold execSupplyRecovered done
  refine ⟨_, rfl, ?_⟩
  repeat' first
    | with_reducible assumption
    | intro _
    | with_reducible apply foldS_kept
    | with_reducible apply whenS_kept
    | with_reducible apply wrf_kept
    | with_reducible apply pdAdvance_kept
    | with_reducible apply trainPorts_kept
    | with_reducible apply memBack_kept
    | split
    | (with_reducible refine Kept.upd ?_ ?_; rotate_left; exact rfl)

theorem execPowerOn_kept {s0 s : State} {a0 a1} (h : Kept s0 s) : ∃ u, execPowerOn a0 a1 s = .next u ∧ Kept s0 u := by
  unfold execPowerOn done
  refine ⟨_, rfl, ?_⟩
  extract_lets +onlyGivenNames f b0 b t
  have ht : Kept s0 t := by
    unfold t
    refine coldNow_kept ?_
    obtain ⟨c, hc⟩ := h.identity
    exact ⟨h.queue, ⟨a0 % 8, by simp [b0, f, hc]⟩, h.memory, h.log, h.events, h.mirror, h.rollback, h.anchors, h.anchorCap,
      h.unlocks, h.commissioned, h.owner⟩
  split
  · exact ht
  · exact platLog_kept (wrf_kept ht)

theorem pdsStart_kept {s0 s : State} {a0} (h : Kept s0 s) : Kept s0 (pdsStart a0 s) := by
  unfold pdsStart
  repeat' first
    | with_reducible assumption
    | intro _
    | with_reducible apply foldS_kept
    | with_reducible apply pdSwitch_kept

theorem portsTrain_kept {s0 s : State} (h : Kept s0 s) : Kept s0 (portsTrain s) := by
  unfold portsTrain
  repeat' first
    | with_reducible assumption
    | intro _
    | with_reducible apply foldS_kept
    | with_reducible apply foldSPair_kept
    | with_reducible apply wrf_kept

theorem firmwareUp_kept {s0 s : State} (h : Kept s0 s) : Kept s0 (firmwareUp s) := by
  unfold firmwareUp
  repeat' first
    | with_reducible assumption
    | with_reducible apply silResume_kept
    | with_reducible apply wrf_kept
    | (with_reducible refine Kept.upd ?_ ?_; rotate_left; exact rfl)

theorem fabricDone_kept {s0 s : State} {a0} (h : Kept s0 s) : Kept s0 (fabricDone a0 s) := by
  unfold fabricDone
  repeat' first
    | with_reducible assumption
    | (intro hx; clear_value x)
    | intro _
    | with_reducible apply foldS_kept
    | with_reducible apply whenS_kept
    | with_reducible apply foldSPair_kept
    | with_reducible apply loadAgents_kept
    | with_reducible apply trainingFails_kept
    | with_reducible apply failed_kept
    | with_reducible apply channelsReady_kept
    | with_reducible apply askFlash_kept
    | with_reducible apply resetReg_kept
    | with_reducible apply selfTestFails_kept
    | with_reducible apply wrf_kept
    | split
    | (with_reducible refine Kept.upd ?_ ?_; rotate_left; exact rfl)
    | ((fail_if_no_progress extract_lets +onlyGivenNames x); first
        | refine Kept.cut (t := x) ?_ ?_
        | refine Kept.cut (t := x.2) ?_ ?_
        | refine Kept.cut (t := x.2.2) ?_ ?_
        | (have hs : Sil := x; clear hs; unfold x)
        | (have hs : State → State := x; clear hs; unfold x)
        | (have hs : Nat → State → State := x; clear hs; unfold x)
        | clear_value x)

theorem packageReady_kept {s0 s : State} (h : Kept s0 s) : Kept s0 (packageReady s) := by
  unfold packageReady
  repeat' first
    | with_reducible assumption
    | (intro hx; clear_value x)
    | with_reducible apply wrf_kept
    | with_reducible apply platformEvent_kept
    | with_reducible apply rstLog_kept
    | (with_reducible refine Kept.upd ?_ ?_; rotate_left; exact rfl)
    | ((fail_if_no_progress extract_lets +onlyGivenNames x); first
        | refine Kept.cut (t := x) ?_ ?_
        | refine Kept.cut (t := x.2) ?_ ?_
        | refine Kept.cut (t := x.2.2) ?_ ?_
        | (have hs : Sil := x; clear hs; unfold x)
        | (have hs : State → State := x; clear hs; unfold x)
        | (have hs : Nat → State → State := x; clear hs; unfold x)
        | clear_value x)

theorem execStartupPhaseAdvance_kept {s0 s : State} {a0} (h : Kept s0 s) :
    ∃ u, execStartupPhaseAdvance a0 s = .next u ∧ Kept s0 u := by
  unfold execStartupPhaseAdvance done
  refine ⟨_, rfl, ?_⟩
  extract_lets +onlyGivenNames p
  clear_value p
  refine ite_kept ?_ (ite_kept ?_ (ite_kept h (ite_kept ?_ (ite_kept ?_ (ite_kept ?_ (ite_kept ?_ h))))))
  · exact ite_kept (firmwareUp_kept h) h
  · exact ite_kept (pdsStart_kept (wrf_kept (whenS_kept h fun s h => closeAllXings_kept h))) h
  · refine ite_kept (pdsStart_kept h) (ite_kept (pdsStart_kept (portsTrain_kept (wrf_kept ?_))) h)
    exact foldS_kept h fun c s h => h.same
  · exact ite_kept (pdsStart_kept (wrf_kept h)) (pdsStart_kept h)
  · exact ite_kept (fabricDone_kept h) h
  · exact ite_kept (packageReady_kept h) h

theorem execPcieLinkUp_kept {s0 s : State} {a0 a1} (h : Kept s0 s) :
    ∃ u, execPcieLinkUp a0 a1 s = .next u ∧ Kept s0 u := by
  unfold execPcieLinkUp done
  refine ⟨_, rfl, ?_⟩
  repeat' first
    | with_reducible assumption
    | split
    | (with_reducible refine Kept.upd ?_ ?_; rotate_left; exact rfl)

end Sys2Proof.Machine
end

