-- ==== Sys2Proof/Laws/KeptMadc.lean ====
section
/-! SUPPORT. What `Kept` says is kept by the operations of Machine/Madc.lean. -/

-- One proof at a time: proofs elaborated side by side wait on each other, and each that waits holds a thread's stack.
set_option Elab.async false

namespace Sys2Proof.Machine

open Sys2Proof

theorem modAdc_kept {s0 s : State} {a0} (h : Kept s0 s) : Kept s0 (modAdc a0 s) := by
  unfold modAdc
  repeat' first
    | with_reducible assumption
    | (with_reducible refine Kept.upd ?_ ?_; rotate_left; exact rfl)

theorem chselWrite_kept {s0 s : State} {a0 a1} (h : Kept s0 s) : Kept s0 (chselWrite a0 a1 s) := by
  unfold chselWrite
  repeat' first
    | with_reducible assumption
    | intro _
    | with_reducible apply whenS_kept
    | with_reducible apply logReserved_kept
    | with_reducible apply platLog_kept
    | with_reducible apply setEv_kept
    | with_reducible apply bump_kept
    | with_reducible apply wr_kept
    | split
    | (with_reducible refine Kept.upd ?_ ?_; rotate_left; exact rfl)

theorem execConversionRequest_kept {s0 s : State} {a0 a1} (h : Kept s0 s) :
    ∃ u, execConversionRequest a0 a1 s = .next u ∧ Kept s0 u := by
  unfold execConversionRequest done
  refine ⟨_, rfl, ?_⟩
  repeat' first
    | with_reducible assumption
    | (intro hx; clear_value x)
    | intro _
    | with_reducible apply foldl_kept
    | with_reducible apply foldlPair_kept
    | with_reducible apply chselWrite_kept

theorem execOpenWireTestRequest_kept {s0 s : State} {a0 a1} (h : Kept s0 s) :
    ∃ u, execOpenWireTestRequest a0 a1 s = .next u ∧ Kept s0 u := by
  unfold execOpenWireTestRequest done
  refine ⟨_, rfl, ?_⟩
  repeat' first
    | with_reducible assumption
    | (intro hx; clear_value x)
    | intro _
    | with_reducible apply foldl_kept
    | with_reducible apply foldlPair_kept
    | with_reducible apply chselWrite_kept

theorem adcOver_kept {s0 s : State} {a0 a1} (h : Kept s0 s) : Kept s0 (adcOver a0 a1 s) := by
  unfold adcOver
  repeat' first
    | with_reducible assumption
    | (intro hx; clear_value x)
    | with_reducible apply setEv_kept
    | with_reducible apply platLog_kept
    | with_reducible apply modAdc_kept
    | split
    | ((fail_if_no_progress extract_lets +onlyGivenNames x); first
        | refine Kept.cut (t := x) ?_ ?_
        | refine Kept.cut (t := x.2) ?_ ?_
        | refine Kept.cut (t := x.2.2) ?_ ?_
        | (have hs : Sil := x; clear hs; unfold x)
        | (have hs : State → State := x; clear hs; unfold x)
        | (have hs : Nat → State → State := x; clear hs; unfold x)
        | clear_value x)

theorem owJudge_kept {s0 s : State} {a0} (h : Kept s0 s) : Kept s0 (owJudge a0 s) := by
  unfold owJudge
  repeat' first
    | with_reducible assumption
    | intro _
    | with_reducible apply whenS_kept
    | with_reducible apply wrf_kept
    | with_reducible apply modAdc_kept
    | with_reducible apply setBrd_kept
    | with_reducible apply platLog_kept
    | with_reducible apply setEv_kept
    | split
    | ((fail_if_no_progress extract_lets +onlyGivenNames x); first
        | refine Kept.cut (t := x) ?_ ?_
        | refine Kept.cut (t := x.2) ?_ ?_
        | refine Kept.cut (t := x.2.2) ?_ ?_
        | (have hs : Sil := x; clear hs; unfold x)
        | (have hs : State → State := x; clear hs; unfold x)
        | (have hs : Nat → State → State := x; clear hs; unfold x)
        | clear_value x)

theorem adcResult_kept {s0 s : State} {a0 a1} (h : Kept s0 s) : Kept s0 (adcResult a0 a1 s) := by
  unfold adcResult
  repeat' first
    | with_reducible assumption
    | with_reducible apply wrf_kept
    | with_reducible apply adcOver_kept
    | with_reducible apply wr_kept
    | with_reducible apply bump_kept
    | with_reducible apply modAdc_kept
    | with_reducible apply owJudge_kept
    | split

theorem execConversionComplete_kept {s0 s : State} {a0} (h : Kept s0 s) :
    ∃ u, execConversionComplete a0 s = .next u ∧ Kept s0 u := by
  unfold execConversionComplete done
  refine ⟨_, rfl, ?_⟩
  repeat' first
    | with_reducible assumption
    | with_reducible apply adcResult_kept
    | split

theorem execConversionTimeout_kept {s0 s : State} (h : Kept s0 s) :
    ∃ u, execConversionTimeout s = .next u ∧ Kept s0 u := by
  unfold execConversionTimeout done
  refine ⟨_, rfl, ?_⟩
  repeat' first
    | with_reducible assumption
    | (intro hx; clear_value x)
    | intro _
    | with_reducible apply modAdc_kept
    | with_reducible apply platLog_kept
    | with_reducible apply wrf_kept
    | with_reducible apply clkGateWrite_kept
    | with_reducible apply setEv_kept
    | split
    | ((fail_if_no_progress extract_lets +onlyGivenNames x); first
        | refine Kept.cut (t := x) ?_ ?_
        | refine Kept.cut (t := x.2) ?_ ?_
        | refine Kept.cut (t := x.2.2) ?_ ?_
        | (have hs : Sil := x; clear hs; unfold x)
        | (have hs : State → State := x; clear hs; unfold x)
        | (have hs : Nat → State → State := x; clear hs; unfold x)
        | clear_value x)

theorem setStale_kept {s0 s : State} {a0} (h : Kept s0 s) : Kept s0 (setStale a0 s) := by
  unfold setStale
  repeat' first
    | with_reducible assumption
    | intro _
    | with_reducible apply foldS_kept
    | with_reducible apply foldSPair_kept
    | with_reducible apply wrf_kept

theorem execMadcCalibration_kept {s0 s : State} {a0} (h : Kept s0 s) :
    ∃ u, execMadcCalibration a0 s = .next u ∧ Kept s0 u := by
  unfold execMadcCalibration done
  refine ⟨_, rfl, ?_⟩
  repeat' first
    | with_reducible assumption
    | (intro hx; clear_value x)
    | intro _
    | with_reducible apply setStale_kept
    | with_reducible apply modAdc_kept
    | split
    | ((fail_if_no_progress extract_lets +onlyGivenNames x); first
        | refine Kept.cut (t := x) ?_ ?_
        | refine Kept.cut (t := x.2) ?_ ?_
        | refine Kept.cut (t := x.2.2) ?_ ?_
        | (have hs : Sil := x; clear hs; unfold x)
        | (have hs : State → State := x; clear hs; unfold x)
        | (have hs : Nat → State → State := x; clear hs; unfold x)
        | clear_value x)

theorem execMadcCalibrationDone_kept {s0 s : State} {a0} (h : Kept s0 s) :
    ∃ u, execMadcCalibrationDone a0 s = .next u ∧ Kept s0 u := by
  unfold execMadcCalibrationDone done
  refine ⟨_, rfl, ?_⟩
  repeat' first
    | with_reducible assumption
    | (intro hx; clear_value x)
    | intro _
    | with_reducible apply modAdc_kept
    | with_reducible apply setStale_kept
    | with_reducible apply platLog_kept
    | with_reducible apply setEv_kept
    | split
    | ((fail_if_no_progress extract_lets +onlyGivenNames x); first
        | refine Kept.cut (t := x) ?_ ?_
        | refine Kept.cut (t := x.2) ?_ ?_
        | refine Kept.cut (t := x.2.2) ?_ ?_
        | (have hs : Sil := x; clear hs; unfold x)
        | (have hs : State → State := x; clear hs; unfold x)
        | (have hs : Nat → State → State := x; clear hs; unfold x)
        | clear_value x)

theorem execOwAutoTest_kept {s0 s : State} (h : Kept s0 s) :
    ∃ u, execOwAutoTest s = .next u ∧ Kept s0 u := by
  unfold execOwAutoTest done
  refine ⟨_, rfl, ?_⟩
  repeat' first
    | with_reducible assumption
    | (intro hx; clear_value x)
    | intro _
    | with_reducible apply foldS_kept
    | with_reducible apply foldl_kept
    | with_reducible apply foldlPair_kept
    | with_reducible apply foldSPair_kept
    | with_reducible apply chselWrite_kept
    | split

theorem execBoardChannelRead_kept {s0 s : State} {a0} (h : Kept s0 s) :
    ∃ u, execBoardChannelRead a0 s = .next u ∧ Kept s0 u := by
  unfold execBoardChannelRead done
  refine ⟨_, rfl, ?_⟩
  repeat' first
    | with_reducible assumption
    | (intro hx; clear_value x)
    | intro _
    | with_reducible apply whenS_kept
    | with_reducible apply setBrd_kept
    | with_reducible apply chselWrite_kept
    | with_reducible apply drawFree_kept
    | with_reducible apply wrf_kept
    | with_reducible apply platLog_kept
    | with_reducible apply thmEvent_kept
    | split
    | ((fail_if_no_progress extract_lets +onlyGivenNames x); first
        | refine Kept.cut (t := x) ?_ ?_
        | refine Kept.cut (t := x.2) ?_ ?_
        | refine Kept.cut (t := x.2.2) ?_ ?_
        | (have hs : Sil := x; clear hs; unfold x)
        | (have hs : State → State := x; clear hs; unfold x)
        | (have hs : Nat → State → State := x; clear hs; unfold x)
        | clear_value x)

end Sys2Proof.Machine
end

