-- ==== Sys2Proof/Laws/KeptHalt.lean ====
section
/-! SUPPORT. What `Kept` says is kept by the operations of Machine/Halt.lean. -/

-- One proof at a time: proofs elaborated side by side wait on each other, and each that waits holds a thread's stack.
set_option Elab.async false

namespace Sys2Proof.Machine

open Sys2Proof

theorem spyLog_kept {s0 s : State} {a0 a1 a2} (h : Kept s0 s) : Kept s0 (spyLog a0 a1 a2 s) := by
  unfold spyLog
  repeat' first
    | with_reducible assumption
    | with_reducible apply logE_kept

theorem resumeAll_kept {s0 s : State} (h : Kept s0 s) : Kept s0 (resumeAll s) := by
  unfold resumeAll
  repeat' first
    | with_reducible assumption
    | with_reducible apply wr_kept
    | with_reducible apply letGo_kept
    | (with_reducible refine Kept.upd ?_ ?_; rotate_left; exact rfl)

theorem stepAll_kept {s0 s : State} (h : Kept s0 s) : Kept s0 (stepAll s) := by
  unfold stepAll
  repeat' first
    | with_reducible assumption
    | with_reducible apply wr_kept
    | with_reducible apply letGo_kept
    | (with_reducible refine Kept.upd ?_ ?_; rotate_left; exact rfl)

theorem closeScope_kept {s0 s : State} (h : Kept s0 s) : Kept s0 (closeScope s) := by
  unfold closeScope
  repeat' first
    | with_reducible assumption
    | (with_reducible refine Kept.upd ?_ ?_; rotate_left; exact rfl)

theorem dbgCtrlWrite_kept {s0 s : State} {a0} (h : Kept s0 s) : Kept s0 (dbgCtrlWrite a0 s) := by
  unfold dbgCtrlWrite
  repeat' first
    | with_reducible assumption
    | intro _
    | with_reducible apply whenS_kept
    | with_reducible apply wrf_kept
    | with_reducible apply storeBlk_kept
    | with_reducible apply haltBays_kept
    | with_reducible apply resumeAll_kept
    | with_reducible apply stepAll_kept
    | with_reducible apply closeScope_kept

theorem dbgCtrl_kept {s0 s : State} {a0} (h : Kept s0 s) : Kept s0 (dbgCtrl a0 s) := by
  unfold dbgCtrl
  repeat' first
    | with_reducible assumption
    | with_reducible apply dbgCtrlWrite_kept
    | with_reducible apply spyLog_kept
    | split
    | (with_reducible refine Kept.upd ?_ ?_; rotate_left; exact rfl)

theorem execDbgHalt_kept {s0 s : State} {a0} (h : Kept s0 s) :
    ∃ u, execDbgHalt a0 s = .next u ∧ Kept s0 u := by
  unfold execDbgHalt done
  refine ⟨_, rfl, ?_⟩
  repeat' first
    | with_reducible assumption
    | with_reducible apply foldlPair_kept
    | with_reducible apply dbgCtrl_kept

theorem execDbgResume_kept {s0 s : State} {a0} (h : Kept s0 s) :
    ∃ u, execDbgResume a0 s = .next u ∧ Kept s0 u := by
  unfold execDbgResume done
  refine ⟨_, rfl, ?_⟩
  repeat' first
    | with_reducible assumption
    | with_reducible apply foldlPair_kept
    | with_reducible apply dbgCtrl_kept

theorem execDbgStep_kept {s0 s : State} {a0} (h : Kept s0 s) :
    ∃ u, execDbgStep a0 s = .next u ∧ Kept s0 u := by
  unfold execDbgStep done
  refine ⟨_, rfl, ?_⟩
  repeat' first
    | with_reducible assumption
    | with_reducible apply foldlPair_kept
    | with_reducible apply dbgCtrl_kept

theorem execDbgClose_kept {s0 s : State} {a0} (h : Kept s0 s) :
    ∃ u, execDbgClose a0 s = .next u ∧ Kept s0 u := by
  unfold execDbgClose done
  refine ⟨_, rfl, ?_⟩
  repeat' first
    | with_reducible assumption
    | with_reducible apply foldlPair_kept
    | with_reducible apply dbgCtrl_kept

theorem execFabricHalted_kept {s0 s : State} {a0} (h : Kept s0 s) :
    ∃ u, execFabricHalted a0 s = .next u ∧ Kept s0 u := by
  unfold execFabricHalted done
  refine ⟨_, rfl, ?_⟩
  repeat' first
    | with_reducible assumption
    | with_reducible apply setEv_kept
    | split
    | (with_reducible refine Kept.upd ?_ ?_; rotate_left; exact rfl)

theorem silRan_kept {s0 s : State} (h : Kept s0 s) : Kept s0 (silRan s) := by
  unfold silRan
  repeat' first
    | with_reducible assumption
    | (with_reducible refine Kept.upd ?_ ?_; rotate_left; exact rfl)

theorem silGo_kept {s0 s : State} (h : Kept s0 s) : Kept s0 (silGo s) := by
  unfold silGo
  repeat' first
    | with_reducible assumption
    | with_reducible apply whenS_kept
    | with_reducible apply silRan_kept
    | with_reducible apply silResume_kept
    | split
    | (with_reducible refine Kept.upd ?_ ?_; rotate_left; exact rfl)

theorem silStep_kept {s0 s : State} (h : Kept s0 s) : Kept s0 (silStep s) := by
  unfold silStep
  repeat' first
    | with_reducible assumption
    | with_reducible apply drawFree_kept
    | with_reducible apply silRan_kept
    | split
    | (with_reducible refine Kept.upd ?_ ?_; rotate_left; exact rfl)

theorem silCtrlWrite_kept {s0 s : State} {a0} (h : Kept s0 s) : Kept s0 (silCtrlWrite a0 s) := by
  unfold silCtrlWrite
  repeat' first
    | with_reducible assumption
    | intro _
    | with_reducible apply whenS_kept
    | with_reducible apply foldlPair_kept
    | with_reducible apply wrf_kept
    | with_reducible apply storeBlk_kept
    | with_reducible apply silHalt_kept
    | with_reducible apply silGo_kept
    | with_reducible apply silStep_kept
    | with_reducible apply silRestart_kept
    | with_reducible apply silRan_kept

theorem silCtrl_kept {s0 s : State} {a0} (h : Kept s0 s) : Kept s0 (silCtrl a0 s) := by
  unfold silCtrl
  repeat' first
    | with_reducible assumption
    | with_reducible apply silCtrlWrite_kept
    | with_reducible apply spyLog_kept
    | split
    | (with_reducible refine Kept.upd ?_ ?_; rotate_left; exact rfl)

theorem execDbgSilHalt_kept {s0 s : State} (h : Kept s0 s) :
    ∃ u, execDbgSilHalt s = .next u ∧ Kept s0 u := by
  unfold execDbgSilHalt done
  refine ⟨_, rfl, ?_⟩
  repeat' first
    | with_reducible assumption
    | with_reducible apply foldlPair_kept
    | with_reducible apply silCtrl_kept

theorem execDbgSilResume_kept {s0 s : State} (h : Kept s0 s) :
    ∃ u, execDbgSilResume s = .next u ∧ Kept s0 u := by
  unfold execDbgSilResume done
  refine ⟨_, rfl, ?_⟩
  repeat' first
    | with_reducible assumption
    | with_reducible apply foldlPair_kept
    | with_reducible apply silCtrl_kept

theorem execDbgSilStep_kept {s0 s : State} (h : Kept s0 s) :
    ∃ u, execDbgSilStep s = .next u ∧ Kept s0 u := by
  unfold execDbgSilStep done
  refine ⟨_, rfl, ?_⟩
  repeat' first
    | with_reducible assumption
    | with_reducible apply foldlPair_kept
    | with_reducible apply silCtrl_kept

theorem execDbgSilRestart_kept {s0 s : State} (h : Kept s0 s) :
    ∃ u, execDbgSilRestart s = .next u ∧ Kept s0 u := by
  unfold execDbgSilRestart done
  refine ⟨_, rfl, ?_⟩
  repeat' first
    | with_reducible assumption
    | with_reducible apply foldlPair_kept
    | with_reducible apply silCtrl_kept

theorem execSilsetPcBreakpoint_kept {s0 s : State} {a0} (h : Kept s0 s) :
    ∃ u, execSilsetPcBreakpoint a0 s = .next u ∧ Kept s0 u := by
  unfold execSilsetPcBreakpoint done
  refine ⟨_, rfl, ?_⟩
  repeat' first
    | with_reducible assumption
    | with_reducible apply silHalt_kept
    | with_reducible apply silRan_kept
    | split
    | (with_reducible refine Kept.upd ?_ ?_; rotate_left; exact rfl)

end Sys2Proof.Machine
end

