-- ==== Sys2Proof/Laws/KeptRegWrite.lean ====
section
/-! SUPPORT. What `Kept` says is kept by the operations of Machine/RegWrite.lean. -/

-- One proof at a time: proofs elaborated side by side wait on each other, and each that waits holds a thread's stack.
set_option Elab.async false

namespace Sys2Proof.Machine

open Sys2Proof

theorem holdLo_kept {s0 s : State} {a0 a1 a2 a3} (h : Kept s0 s) : Kept s0 (holdLo a0 a1 a2 a3 s) := by
  unfold holdLo
  repeat' first
    | with_reducible assumption
    | (with_reducible refine Kept.upd ?_ ?_; rotate_left; exact rfl)

theorem alignBase_kept {s0 s : State} (h : Kept s0 s) : Kept s0 (alignBase s) := by
  unfold alignBase
  repeat' first
    | with_reducible assumption
    | with_reducible apply wr_kept

theorem pairHi_kept {s0 s : State} {a0 a1 a2 a3 a4 a5} (h : Kept s0 s) : Kept s0 (pairHi a0 a1 a2 a3 a4 a5 s) := by
  unfold pairHi
  repeat' first
    | with_reducible assumption
    | intro _
    | with_reducible apply whenS_kept
    | with_reducible apply storeReg_kept
    | with_reducible apply alignBase_kept
    | (with_reducible refine Kept.upd ?_ ?_; rotate_left; exact rfl)

theorem strobeGroup_kept {s0 s : State} {a0} (h : Kept s0 s) : Kept s0 (strobeGroup a0 s) := by
  unfold strobeGroup
  repeat' first
    | with_reducible assumption
    | with_reducible apply bump_kept
    | split
    | (with_reducible refine Kept.upd ?_ ?_; rotate_left; exact rfl)

theorem strobeWrite_kept {s0 s : State} {a0} (h : Kept s0 s) : Kept s0 (strobeWrite a0 s) := by
  unfold strobeWrite
  repeat' first
    | with_reducible assumption
    | intro _
    | with_reducible apply foldS_kept
    | with_reducible apply strobeGroup_kept

theorem bindWrite_kept {s0 s : State} {a0 a1 a2 a3} (h : Kept s0 s) : Kept s0 (bindWrite a0 a1 a2 a3 s) := by
  unfold bindWrite
  repeat' first
    | with_reducible assumption
    | with_reducible apply storeReg_kept
    | with_reducible apply regErr_kept
    | split

theorem qCfgWrite_kept {s0 s : State} {a0 a1 a2 a3} (h : Kept s0 s) : Kept s0 (qCfgWrite a0 a1 a2 a3 s) := by
  unfold qCfgWrite
  repeat' first
    | with_reducible assumption
    | (intro hx; clear_value x)
    | intro _
    | with_reducible apply whenS_kept
    | with_reducible apply srvLog_kept
    | with_reducible apply disableQueue_kept
    | with_reducible apply journal_kept
    | with_reducible apply storeReg_kept
    | with_reducible apply logReserved_kept
    | with_reducible apply enableQueue_kept
    | with_reducible apply wrf_kept
    | split
    | ((fail_if_no_progress extract_lets +onlyGivenNames x); first
        | refine Kept.cut (t := x) ?_ ?_
        | refine Kept.cut (t := x.2) ?_ ?_
        | refine Kept.cut (t := x.2.2) ?_ ?_
        | (have hs : Sil := x; clear hs; unfold x)
        | (have hs : State → State := x; clear hs; unfold x)
        | (have hs : Nat → State → State := x; clear hs; unfold x)
        | clear_value x)

theorem minSvnWrite_kept {s0 s : State} {a0 a1 a2} (h : Kept s0 s) : Kept s0 (minSvnWrite a0 a1 a2 s) := by
  unfold minSvnWrite
  repeat' first
    | with_reducible assumption
    | (intro hx; clear_value x)
    | with_reducible apply logE_kept
    | with_reducible apply storeBlk_kept
    | split
    | ((fail_if_no_progress extract_lets +onlyGivenNames x); first
        | refine Kept.cut (t := x) ?_ ?_
        | refine Kept.cut (t := x.2) ?_ ?_
        | refine Kept.cut (t := x.2.2) ?_ ?_
        | (have hs : Sil := x; clear hs; unfold x)
        | (have hs : State → State := x; clear hs; unfold x)
        | (have hs : Nat → State → State := x; clear hs; unfold x)
        | clear_value x)

theorem startPending_kept {s0 s : State} (h : Kept s0 s) : Kept s0 (startPending s) := by
  unfold startPending
  repeat' first
    | with_reducible assumption
    | intro _
    | with_reducible apply foldS_kept
    | with_reducible apply foldSPair_kept
    | with_reducible apply requestSoak_kept
    | split

theorem utcWrite_kept {s0 s : State} {a0 a1} (h : Kept s0 s) : Kept s0 (utcWrite a0 a1 s) := by
  unfold utcWrite
  repeat' first
    | with_reducible assumption
    | (intro hx; clear_value x)
    | with_reducible apply journal_kept
    | with_reducible apply setUtc_kept
    | split
    | ((fail_if_no_progress extract_lets +onlyGivenNames x); first
        | refine Kept.cut (t := x) ?_ ?_
        | refine Kept.cut (t := x.2) ?_ ?_
        | refine Kept.cut (t := x.2.2) ?_ ?_
        | (have hs : Sil := x; clear hs; unfold x)
        | (have hs : State → State := x; clear hs; unfold x)
        | (have hs : Nat → State → State := x; clear hs; unfold x)
        | clear_value x)

theorem wearSelWrite_kept {s0 s : State} {a0 a1} (h : Kept s0 s) : Kept s0 (wearSelWrite a0 a1 s) := by
  unfold wearSelWrite
  repeat' first
    | with_reducible assumption
    | with_reducible apply showWear_kept
    | with_reducible apply storeBlk_kept

theorem gpioWrite_kept {s0 s : State} {a0 a1 a2} (h : Kept s0 s) : Kept s0 (gpioWrite a0 a1 a2 s) := by
  unfold gpioWrite
  repeat' first
    | with_reducible assumption
    | intro _
    | with_reducible apply foldS_kept
    | with_reducible apply whenS_kept
    | with_reducible apply storeReg_kept
    | with_reducible apply emit_kept

theorem outState_kept {s0 s : State} {o} (h : Kept s0 s) (e : ∃ u, o = .next u ∧ Kept s0 u) :
    Kept s0 (outState s o) := by
  obtain ⟨u, rfl, hu⟩ := e
  exact hu

theorem scanRead_kept {s0 s : State} {a0 a1 a2} (h : Kept s0 s) : Kept s0 (scanRead a0 a1 a2 s) := by
  unfold scanRead
  repeat' first
    | with_reducible assumption
    | intro _
    | with_reducible apply mbxRun_kept
    | with_reducible apply ansOnly_kept
    | with_reducible apply emit_kept
    | split

theorem mbxGo_kept {s0 s : State} (h : Kept s0 s) : Kept s0 (mbxGo s) := by
  unfold mbxGo
  extract_lets b u op len tag run
  have hbad : Kept s0 (mbxRun op tag ((b.drop 8).take len) (ansOnly 1 []) s) :=
    mbxRun_kept h fun s h => ansOnly_kept h
  have hrun : ∀ (n : Nat) (o : State → Out), (∃ u, o s = .next u ∧ Kept s0 u) → Kept s0 (run n o) := fun n o ho =>
    ite_kept (outState_kept h ho) hbad
  clear_value run op
  split
  · exact hrun _ _ (execGetInfo_kept h)
  · exact hrun _ _ (execLogRead_kept h)
  · exact hrun _ _ (execFwStage_kept h)
  · exact hrun _ _ (execFwStatus_kept h)
  · exact hrun _ _ (execFwActivate_kept h)
  · exact hrun _ _ (execKeyEnroll_kept h)
  · exact hrun _ _ (execKeyRevoke_kept h)
  · exact hrun _ _ (execKeyList_kept h)
  · exact hrun _ _ (execCommission_kept h)
  · exact hrun _ _ ⟨_, rfl, scanRead_kept h⟩
  · exact hbad

theorem zeroWith_kept {s0 s : State} {a0 a1 a2 a3 a4 a5} (h : Kept s0 s) : Kept s0 (zeroWith a0 a1 a2 a3 a4 a5 s) := by
  unfold zeroWith
  repeat' first
    | with_reducible assumption
    | intro _
    | with_reducible apply whenS_kept
    | with_reducible apply wrf_kept

theorem clearCounts_kept {s0 s : State} {a0 a1 a2} (h : Kept s0 s) : Kept s0 (clearCounts a0 a1 a2 s) := by
  unfold clearCounts
  repeat' first
    | with_reducible assumption
    | intro _
    | with_reducible apply foldS_kept
    | with_reducible apply zeroWith_kept
    | split
    | (with_reducible refine Kept.upd ?_ ?_; rotate_left; exact rfl)

theorem bufWrite_kept {s0 s : State} {a0 a1 a2 a3 a4} (h : Kept s0 s) : Kept s0 (bufWrite a0 a1 a2 a3 a4 s) := by
  unfold bufWrite
  repeat' first
    | with_reducible assumption
    | (intro hx; clear_value x)
    | intro _
    | with_reducible apply whenS_kept
    | with_reducible apply wr_kept
    | with_reducible apply logReserved_kept
    | with_reducible apply journal_kept
    | split
    | (with_reducible refine Kept.upd ?_ ?_; rotate_left; exact rfl)
    | ((fail_if_no_progress extract_lets +onlyGivenNames x); first
        | refine Kept.cut (t := x) ?_ ?_
        | refine Kept.cut (t := x.2) ?_ ?_
        | refine Kept.cut (t := x.2.2) ?_ ?_
        | (have hs : Sil := x; clear hs; unfold x)
        | (have hs : State → State := x; clear hs; unfold x)
        | (have hs : Nat → State → State := x; clear hs; unfold x)
        | clear_value x)

theorem spillAll_kept {s0 s : State} (h : Kept s0 s) : Kept s0 (spillAll s) := by
  unfold spillAll
  repeat' first
    | with_reducible assumption
    | intro _
    | with_reducible apply foldS_kept
    | with_reducible apply foldSPair_kept
    | with_reducible apply spillCheck_kept

theorem plainWrite_kept {s0 s : State} {a0 a1 a2 a3 a4} (h : Kept s0 s) : Kept s0 (plainWrite a0 a1 a2 a3 a4 s) := by
  unfold plainWrite
  repeat' first
    | with_reducible assumption
    | with_reducible apply foldlPair_kept
    | with_reducible apply bufWrite_kept
    | with_reducible apply logReserved_kept
    | with_reducible apply storeReg_kept
    | with_reducible apply clearCounts_kept
    | split

theorem writeReg_kept {s0 s : State} {a0 a1 a2 a3 a4} (h : Kept s0 s) : Kept s0 (writeReg a0 a1 a2 a3 a4 s) := by
  unfold writeReg
  repeat' first
    | with_reducible assumption
    | (intro hx; clear_value x)
    | intro _
    | with_reducible apply whenS_kept
    | with_reducible apply strobeWrite_kept
    | with_reducible apply bindWrite_kept
    | with_reducible apply gpioWrite_kept
    | with_reducible apply qCfgWrite_kept
    | with_reducible apply minSvnWrite_kept
    | with_reducible apply portCfgWrite_kept
    | with_reducible apply spillAll_kept
    | with_reducible apply plainWrite_kept
    | with_reducible apply rstReqWrite_kept
    | with_reducible apply fenceHostWrite_kept
    | with_reducible apply accrueAll_kept
    | with_reducible apply scanWrite_kept
    | with_reducible apply startPending_kept
    | with_reducible apply utcWrite_kept
    | with_reducible apply wearSelWrite_kept
    | with_reducible apply mbxGo_kept
    | with_reducible apply clkGateWrite_kept
    | with_reducible apply ptReqWrite_kept
    | with_reducible apply chselWrite_kept
    | with_reducible apply askFlash_kept
    | with_reducible apply dbgCtrlWrite_kept
    | with_reducible apply silCtrlWrite_kept
    | with_reducible apply srvLog_kept
    | with_reducible apply holdLo_kept
    | with_reducible apply pairHi_kept
    | split
    | ((fail_if_no_progress extract_lets +onlyGivenNames x); first
        | refine Kept.cut (t := x) ?_ ?_
        | refine Kept.cut (t := x.2) ?_ ?_
        | refine Kept.cut (t := x.2.2) ?_ ?_
        | (have hs : Sil := x; clear hs; unfold x)
        | (have hs : State → State := x; clear hs; unfold x)
        | (have hs : Nat → State → State := x; clear hs; unfold x)
        | clear_value x)

theorem writeAt_kept {s0 s : State} {a0 a1 a2 a3} (h : Kept s0 s) : Kept s0 (writeAt a0 a1 a2 a3 s).2 := by
  unfold writeAt
  repeat' first
    | with_reducible assumption
    | with_reducible apply whenS_kept
    | with_reducible apply regErr_kept
    | with_reducible apply xreset_kept
    | with_reducible apply spyLog_kept
    | with_reducible apply writeReg_kept
    | split
    | (with_reducible refine Kept.upd ?_ ?_; rotate_left; exact rfl)

theorem readReg_kept {s0 s : State} {a0 a1 a2} (h : Kept s0 s) : Kept s0 (readReg a0 a1 a2 s).2 := by
  unfold readReg
  repeat' first
    | with_reducible assumption
    | (intro hx; clear_value x)
    | split
    | ((fail_if_no_progress extract_lets +onlyGivenNames x); first
        | refine Kept.cut (t := x) ?_ ?_
        | refine Kept.cut (t := x.2) ?_ ?_
        | refine Kept.cut (t := x.2.2) ?_ ?_
        | (have hs : Sil := x; clear hs; unfold x)
        | (have hs : State → State := x; clear hs; unfold x)
        | (have hs : Nat → State → State := x; clear hs; unfold x)
        | clear_value x)
    | (with_reducible refine Kept.upd ?_ ?_; rotate_left; exact rfl)

theorem readAt_kept {s0 s : State} {a0 a1 a2} (h : Kept s0 s) : Kept s0 (readAt a0 a1 a2 s).2.2 := by
  unfold readAt
  repeat' first
    | with_reducible assumption
    | with_reducible apply whenS_kept
    | with_reducible apply foldlPair_kept
    | with_reducible apply regErr_kept
    | with_reducible apply xreset_kept
    | with_reducible apply readReg_kept
    | split

theorem unmaskVec_kept {s0 s : State} {a0 a1} (h : Kept s0 s) : Kept s0 (unmaskVec a0 a1 s) := by
  unfold unmaskVec
  repeat' first
    | with_reducible assumption
    | (intro hx; clear_value x)
    | with_reducible apply modFn_kept
    | with_reducible apply emit_kept
    | split
    | ((fail_if_no_progress extract_lets +onlyGivenNames x); first
        | refine Kept.cut (t := x) ?_ ?_
        | refine Kept.cut (t := x.2) ?_ ?_
        | refine Kept.cut (t := x.2.2) ?_ ?_
        | (have hs : Sil := x; clear hs; unfold x)
        | (have hs : State → State := x; clear hs; unfold x)
        | (have hs : Nat → State → State := x; clear hs; unfold x)
        | clear_value x)

theorem tableWrite_kept {s0 s : State} {a0 a1 a2 a3} (h : Kept s0 s) : Kept s0 (tableWrite a0 a1 a2 a3 s) := by
  unfold tableWrite
  repeat' first
    | with_reducible assumption
    | with_reducible apply modFn_kept
    | with_reducible apply unmaskVec_kept
    | split

theorem bar2Write_kept {s0 s : State} {a0 a1 a2 a3} (h : Kept s0 s) : Kept s0 (bar2Write a0 a1 a2 a3 s) := by
  unfold bar2Write
  repeat' first
    | with_reducible assumption
    | with_reducible apply outState_kept
    | with_reducible apply execSqTail_kept
    | with_reducible apply execRqHead_kept
    | with_reducible apply tableWrite_kept
    | with_reducible apply regErr_kept
    | split

theorem bar2Read_kept {s0 s : State} {a0 a1 a2} (h : Kept s0 s) : Kept s0 (bar2Read a0 a1 a2 s).2.2 := by
  unfold bar2Read
  repeat' first
    | with_reducible assumption
    | with_reducible apply regErr_kept
    | split

theorem msixWrite_kept {s0 s : State} {a0 a1} (h : Kept s0 s) : Kept s0 (msixWrite a0 a1 s) := by
  unfold msixWrite
  repeat' first
    | with_reducible assumption
    | intro _
    | with_reducible apply foldS_kept
    | with_reducible apply modFn_kept
    | with_reducible apply unmaskVec_kept
    | split

theorem mseWrite_kept {s0 s : State} {a0} (h : Kept s0 s) : Kept s0 (mseWrite a0 s) := by
  unfold mseWrite
  repeat' first
    | with_reducible assumption
    | with_reducible apply alignBase_kept
    | split
    | (with_reducible refine Kept.upd ?_ ?_; rotate_left; exact rfl)

theorem vfEnableWrite_kept {s0 s : State} {a0} (h : Kept s0 s) : Kept s0 (vfEnableWrite a0 s) := by
  unfold vfEnableWrite
  repeat' first
    | with_reducible assumption
    | intro _
    | with_reducible apply foldS_kept
    | with_reducible apply flrVf_kept
    | split
    | (with_reducible refine Kept.upd ?_ ?_; rotate_left; exact rfl)

theorem cfgWrite_kept {s0 s : State} {a0 a1 a2} (h : Kept s0 s) : Kept s0 (cfgWrite a0 a1 a2 s) := by
  unfold cfgWrite
  repeat' first
    | with_reducible assumption
    | intro _
    | with_reducible apply msixWrite_kept
    | with_reducible apply vfEnableWrite_kept
    | with_reducible apply mseWrite_kept
    | with_reducible apply modFn_kept
    | split
    | (with_reducible refine Kept.upd ?_ ?_; rotate_left; exact rfl)

theorem execRegisterWrite_kept {s0 s : State} {a0 a1 a2 a3 a4 a5} (h : Kept s0 s) :
    ∃ u, execRegisterWrite a0 a1 a2 a3 a4 a5 s = .next u ∧ Kept s0 u := by
  unfold execRegisterWrite done
  refine ⟨_, rfl, ?_⟩
  repeat' first
    | with_reducible assumption
    | intro _
    | with_reducible apply foldS_kept
    | with_reducible apply foldSPair_kept
    | with_reducible apply cfgWrite_kept
    | with_reducible apply bar2Write_kept
    | with_reducible apply regErr_kept
    | with_reducible apply writeAt_kept
    | split

theorem readDword_kept {s0 s : State} {a0 a1 a2} (h : Kept s0 s) : Kept s0 (readDword a0 a1 a2 s).2.2 := by
  unfold readDword
  split
  · exact bar2Read_kept h
  · split
    · exact h
    · exact h
  · exact readAt_kept h

theorem execPairLoRead_kept {s0 s : State} {a0 a1 a2 a3 a4} (h : Kept s0 s) :
    ∃ u, execPairLoRead a0 a1 a2 a3 a4 s = .next u ∧ Kept s0 u := by
  unfold execPairLoRead done
  refine ⟨_, rfl, ?_⟩
  repeat' first
    | with_reducible assumption
    | (intro hx; clear_value x)
    | with_reducible apply emit_kept
    | with_reducible apply regErr_kept
    | with_reducible apply readDword_kept
    | split
    | ((fail_if_no_progress extract_lets +onlyGivenNames x); first
        | refine Kept.cut (t := x) ?_ ?_
        | refine Kept.cut (t := x.2) ?_ ?_
        | refine Kept.cut (t := x.2.2) ?_ ?_
        | (have hs : Sil := x; clear hs; unfold x)
        | (have hs : State → State := x; clear hs; unfold x)
        | (have hs : Nat → State → State := x; clear hs; unfold x)
        | clear_value x)

theorem execPairHiWrite_kept {s0 s : State} {a0 a1 a2 a3} (h : Kept s0 s) :
    ∃ u, execPairHiWrite a0 a1 a2 a3 s = .next u ∧ Kept s0 u := by
  unfold execPairHiWrite done
  refine ⟨_, rfl, ?_⟩
  repeat' first
    | with_reducible assumption
    | with_reducible apply bar2Write_kept
    | with_reducible apply cfgWrite_kept
    | with_reducible apply writeAt_kept
    | with_reducible apply regErr_kept
    | split

theorem execRegisterAccessTimeout_kept {s0 s : State} {a0 a1 a2 a3} (h : Kept s0 s) :
    ∃ u, execRegisterAccessTimeout a0 a1 a2 a3 s = .next u ∧ Kept s0 u := by
  unfold execRegisterAccessTimeout done
  refine ⟨_, rfl, ?_⟩
  repeat' first
    | with_reducible assumption
    | with_reducible apply regErr_kept
    | with_reducible apply emit_kept
    | split

theorem execUpdateStrobe_kept {s0 s : State} {a0 a1} (h : Kept s0 s) :
    ∃ u, execUpdateStrobe a0 a1 s = .next u ∧ Kept s0 u := by
  unfold execUpdateStrobe done
  refine ⟨_, rfl, ?_⟩
  repeat' first
    | with_reducible assumption
    | with_reducible apply strobeWrite_kept
    | split

theorem execClusterStrobeApply_kept {s0 s : State} {a0} (h : Kept s0 s) :
    ∃ u, execClusterStrobeApply a0 s = .next u ∧ Kept s0 u := by
  unfold execClusterStrobeApply done
  refine ⟨_, rfl, ?_⟩
  repeat' first
    | with_reducible assumption
    | with_reducible apply strobeApply_kept

theorem execVfBindWrite_kept {s0 s : State} {a0 a1 a2} (h : Kept s0 s) :
    ∃ u, execVfBindWrite a0 a1 a2 s = .next u ∧ Kept s0 u := by
  unfold execVfBindWrite done
  refine ⟨_, rfl, ?_⟩
  repeat' first
    | with_reducible assumption
    | with_reducible apply bindWrite_kept
    | split

theorem execSetMinSvnWrite_kept {s0 s : State} {a0 a1 a2} (h : Kept s0 s) :
    ∃ u, execSetMinSvnWrite a0 a1 a2 s = .next u ∧ Kept s0 u := by
  unfold execSetMinSvnWrite done
  refine ⟨_, rfl, ?_⟩
  repeat' first
    | with_reducible assumption
    | with_reducible apply minSvnWrite_kept
    | split

theorem execCalUtcWrite_kept {s0 s : State} {a0 a1} (h : Kept s0 s) :
    ∃ u, execCalUtcWrite a0 a1 s = .next u ∧ Kept s0 u := by
  unfold execCalUtcWrite done
  refine ⟨_, rfl, ?_⟩
  repeat' first
    | with_reducible assumption
    | with_reducible apply utcWrite_kept
    | split

theorem execCalWearSelWrite_kept {s0 s : State} {a0 a1} (h : Kept s0 s) :
    ∃ u, execCalWearSelWrite a0 a1 s = .next u ∧ Kept s0 u := by
  unfold execCalWearSelWrite done
  refine ⟨_, rfl, ?_⟩
  repeat' first
    | with_reducible assumption
    | with_reducible apply wearSelWrite_kept
    | split

end Sys2Proof.Machine
end

