-- ==== Sys2Proof/Laws/KeptHost.lean ====
section
/-! SUPPORT. What `Kept` says is kept by the operations of Machine/Host.lean. -/

-- One proof at a time: proofs elaborated side by side wait on each other, and each that waits holds a thread's stack.
set_option Elab.async false

namespace Sys2Proof.Machine

open Sys2Proof

theorem bar4Err_kept {s0 s t : State} {a0 a1 a2 n} (h : Kept s0 s) (e : bar4Err a0 a1 a2 s = some (n, t)) :
    Kept s0 t := by
  unfold bar4Err at e
  split at e
  · cases e; exact hubErr_kept h
  · split at e
    · cases e; exact addrViolation_kept h
    · split at e
      · cases e; exact hubErr_kept (hubXreset_kept h)
      · cases e

theorem execBar4Read_kept {s0 s : State} {a0 a1} (h : Kept s0 s) :
    ∃ u, execBar4Read a0 a1 s = .next u ∧ Kept s0 u := by
  unfold execBar4Read done
  refine ⟨_, rfl, ?_⟩
  repeat' first
    | with_reducible assumption
    | (intro hx; clear_value x)
    | with_reducible apply emit_kept
    | with_reducible apply hubErrA_kept
    | with_reducible apply spmTouch_kept
    | split
    | refine bar4Err_kept ?_ (by with_reducible assumption)
    | ((fail_if_no_progress extract_lets +onlyGivenNames x); first
        | refine Kept.cut (t := x) ?_ ?_
        | refine Kept.cut (t := x.2) ?_ ?_
        | refine Kept.cut (t := x.2.2) ?_ ?_
        | (have hs : Sil := x; clear hs; unfold x)
        | (have hs : State → State := x; clear hs; unfold x)
        | (have hs : Nat → State → State := x; clear hs; unfold x)
        | clear_value x)

theorem execBar4Write_kept {s0 s : State} {a0 a1} (h : Kept s0 s) :
    ∃ u, execBar4Write a0 a1 s = .next u ∧ Kept s0 u := by
  unfold execBar4Write done
  refine ⟨_, rfl, ?_⟩
  repeat' first
    | with_reducible assumption
    | (intro hx; clear_value x)
    | intro _
    | with_reducible apply whenS_kept
    | with_reducible apply hubErrA_kept
    | with_reducible apply spmTouch_kept
    | with_reducible apply wrBytes_kept
    | split
    | refine bar4Err_kept ?_ (by with_reducible assumption)
    | ((fail_if_no_progress extract_lets +onlyGivenNames x); first
        | refine Kept.cut (t := x) ?_ ?_
        | refine Kept.cut (t := x.2) ?_ ?_
        | refine Kept.cut (t := x.2.2) ?_ ?_
        | (have hs : Sil := x; clear hs; unfold x)
        | (have hs : State → State := x; clear hs; unfold x)
        | (have hs : Nat → State → State := x; clear hs; unfold x)
        | clear_value x)

theorem execBar4Resize_kept {s0 s : State} {a0} (h : Kept s0 s) :
    ∃ u, execBar4Resize a0 s = .next u ∧ Kept s0 u := by
  unfold execBar4Resize done
  refine ⟨_, rfl, ?_⟩
  repeat' first
    | with_reducible assumption
    | split
    | (with_reducible refine Kept.upd ?_ ?_; rotate_left; exact rfl)

theorem execMsixUnmask_kept {s0 s : State} {a0 a1} (h : Kept s0 s) :
    ∃ u, execMsixUnmask a0 a1 s = .next u ∧ Kept s0 u := by
  unfold execMsixUnmask done
  refine ⟨_, rfl, ?_⟩
  repeat' first
    | with_reducible assumption
    | with_reducible apply unmaskVec_kept
    | split

theorem execVfFlr_kept {s0 s : State} {a0} (h : Kept s0 s) :
    ∃ u, execVfFlr a0 s = .next u ∧ Kept s0 u := by
  unfold execVfFlr done
  refine ⟨_, rfl, ?_⟩
  repeat' first
    | with_reducible assumption
    | with_reducible apply flrVf_kept
    | split

theorem execPfFlr_kept {s0 s : State} (h : Kept s0 s) :
    ∃ u, execPfFlr s = .next u ∧ Kept s0 u := by
  unfold execPfFlr done
  refine ⟨_, rfl, ?_⟩
  repeat' first
    | with_reducible assumption
    | with_reducible apply flrPf_kept
    | split

theorem execHostLinkDown_kept {s0 s : State} (h : Kept s0 s) :
    ∃ u, execHostLinkDown s = .next u ∧ Kept s0 u := by
  unfold execHostLinkDown done
  refine ⟨_, rfl, ?_⟩
  repeat' first
    | with_reducible assumption
    | with_reducible apply linkDown_kept

theorem execReceivedTlpError_kept {s0 s : State} {a0 a1 a2 a3} (h : Kept s0 s) :
    ∃ u, execReceivedTlpError a0 a1 a2 a3 s = .next u ∧ Kept s0 u := by
  unfold execReceivedTlpError done
  refine ⟨_, rfl, ?_⟩
  repeat' first
    | with_reducible assumption
    | intro _
    | with_reducible apply whenS_kept
    | with_reducible apply aerReport_kept
    | with_reducible apply hubErrA_kept
    | with_reducible apply aerCorrect_kept
    | split

theorem sourceFails_kept {s0 s : State} {a0} (h : Kept s0 s) : Kept s0 (sourceFails a0 s) := by
  unfold sourceFails
  repeat' first
    | with_reducible assumption
    | with_reducible apply fail_kept
    | with_reducible apply failLoad_kept
    | with_reducible apply complete_kept
    | with_reducible apply cancelCmd_kept
    | split

theorem stagingFails_kept {s0 s : State} (h : Kept s0 s) : Kept s0 (stagingFails s) := by
  unfold stagingFails
  repeat' first
    | with_reducible assumption
    | (intro hx; clear_value x)
    | with_reducible apply sessionFails_kept
    | with_reducible apply mbxRespond_kept
    | split
    | ((fail_if_no_progress extract_lets +onlyGivenNames x); first
        | refine Kept.cut (t := x) ?_ ?_
        | refine Kept.cut (t := x.2) ?_ ?_
        | refine Kept.cut (t := x.2.2) ?_ ?_
        | (have hs : Sil := x; clear hs; unfold x)
        | (have hs : State → State := x; clear hs; unfold x)
        | (have hs : Nat → State → State := x; clear hs; unfold x)
        | clear_value x)

theorem requesterFails_kept {s0 s : State} {a0 a1} (h : Kept s0 s) : Kept s0 (requesterFails a0 a1 s) := by
  unfold requesterFails
  repeat' first
    | with_reducible assumption
    | with_reducible apply queueError_kept
    | with_reducible apply outState_kept
    | with_reducible apply execRingHeadPoll_kept
    | with_reducible apply sourceFails_kept
    | with_reducible apply stagingFails_kept
    | split

theorem execHostReadTimeout_kept {s0 s : State} {a0 a1 a2} (h : Kept s0 s) :
    ∃ u, execHostReadTimeout a0 a1 a2 s = .next u ∧ Kept s0 u :=
  ⟨_, rfl, requesterFails_kept (whenS_kept h fun _ h => aerReport_kept h)⟩

theorem doe_kept {s0 s : State} {i} {f : State → State} (h : Kept s0 s) (hf : ∀ s, Kept s0 s → Kept s0 (f s)) :
    ∃ u, doe i f s = .next u ∧ Kept s0 u := by
  unfold doe done
  refine ⟨_, rfl, ?_⟩
  split
  · exact h
  · split
    · exact h.same
    · exact hf _ (h.same)

theorem nextDoe_kept {s0 s t : State} {i} (h : Kept s0 s) (e : nextDoe s = some (i, t)) : Kept s0 t := by
  unfold nextDoe at e
  split at e
  · obtain ⟨j, _, e⟩ := Option.map_eq_some_iff.1 e
    cases e
    exact h.same
  · cases e

theorem spdmErr_kept {s0 s : State} {a0} (h : Kept s0 s) : Kept s0 (spdmErr a0 s) := by
  unfold spdmErr
  repeat' first
    | with_reducible assumption
    | with_reducible apply emit_kept

theorem spdmAt_kept {s0 s : State} {n} {f : State → State} (h : Kept s0 s) (hf : ∀ s, Kept s0 s → Kept s0 (f s)) :
    Kept s0 (spdmAt n f s) := by
  unfold spdmAt
  split
  · exact spdmErr_kept h
  · exact hf _ h

theorem execDoeDiscovery_kept {s0 s : State} {a0} (h : Kept s0 s) :
    ∃ u, execDoeDiscovery a0 s = .next u ∧ Kept s0 u := by
  refine doe_kept h fun s h => ?_
  repeat' first
    | with_reducible assumption
    | with_reducible apply emit_kept

theorem execDoeAbort_kept {s0 s : State} (h : Kept s0 s) :
    ∃ u, execDoeAbort s = .next u ∧ Kept s0 u := by
  unfold execDoeAbort done
  refine ⟨_, rfl, ?_⟩
  repeat' first
    | with_reducible assumption
    | (with_reducible refine Kept.upd ?_ ?_; rotate_left; exact rfl)

theorem execGetVersion_kept {s0 s : State} (h : Kept s0 s) :
    ∃ u, execGetVersion s = .next u ∧ Kept s0 u := by
  refine doe_kept h fun s h => ?_
  repeat' first
    | with_reducible assumption
    | with_reducible apply emit_kept
    | (with_reducible refine Kept.upd ?_ ?_; rotate_left; exact rfl)

theorem execGetCapabilities_kept {s0 s : State} (h : Kept s0 s) :
    ∃ u, execGetCapabilities s = .next u ∧ Kept s0 u := by
  refine doe_kept h fun s h => ?_
  repeat' first
    | with_reducible assumption
    | intro _
    | with_reducible apply spdmAt_kept
    | with_reducible apply emit_kept
    | (with_reducible refine Kept.upd ?_ ?_; rotate_left; exact rfl)

theorem execNegotiateAlgorithms_kept {s0 s : State} {a0 a1} (h : Kept s0 s) :
    ∃ u, execNegotiateAlgorithms a0 a1 s = .next u ∧ Kept s0 u := by
  refine doe_kept h fun s h => ?_
  repeat' first
    | with_reducible assumption
    | intro _
    | with_reducible apply spdmAt_kept
    | with_reducible apply emit_kept
    | (with_reducible refine Kept.upd ?_ ?_; rotate_left; exact rfl)

theorem execGetDigests_kept {s0 s : State} (h : Kept s0 s) :
    ∃ u, execGetDigests s = .next u ∧ Kept s0 u := by
  refine doe_kept h fun s h => ?_
  repeat' first
    | with_reducible assumption
    | intro _
    | with_reducible apply spdmAt_kept
    | with_reducible apply emit_kept

theorem execGetCertificate_kept {s0 s : State} {a0 a1 a2} (h : Kept s0 s) :
    ∃ u, execGetCertificate a0 a1 a2 s = .next u ∧ Kept s0 u := by
  refine doe_kept h fun s h => ?_
  repeat' first
    | with_reducible assumption
    | intro _
    | with_reducible apply spdmAt_kept
    | with_reducible apply spdmErr_kept
    | with_reducible apply emit_kept
    | split
    | ((fail_if_no_progress extract_lets +onlyGivenNames x); first
        | refine Kept.cut (t := x) ?_ ?_
        | refine Kept.cut (t := x.2) ?_ ?_
        | refine Kept.cut (t := x.2.2) ?_ ?_
        | (have hs : Sil := x; clear hs; unfold x)
        | (have hs : State → State := x; clear hs; unfold x)
        | (have hs : Nat → State → State := x; clear hs; unfold x)
        | clear_value x)

theorem spdmSign_kept {s0 s : State} {a0 a1} (h : Kept s0 s) : Kept s0 (spdmSign a0 a1 s) := by
  unfold spdmSign
  repeat' first
    | with_reducible assumption
    | with_reducible apply spdmErr_kept
    | with_reducible apply drawFree_kept
    | with_reducible apply emit_kept
    | split

theorem execChallenge_kept {s0 s : State} {a0 a1} (h : Kept s0 s) :
    ∃ u, execChallenge a0 a1 s = .next u ∧ Kept s0 u := by
  refine doe_kept h fun s h => ?_
  repeat' first
    | with_reducible assumption
    | intro _
    | with_reducible apply spdmAt_kept
    | with_reducible apply spdmErr_kept
    | with_reducible apply spdmSign_kept
    | split

theorem execGetMeasurements_kept {s0 s : State} {a0 a1 a2} (h : Kept s0 s) :
    ∃ u, execGetMeasurements a0 a1 a2 s = .next u ∧ Kept s0 u := by
  refine doe_kept h fun s h => ?_
  repeat' first
    | with_reducible assumption
    | intro _
    | with_reducible apply spdmAt_kept
    | with_reducible apply spdmErr_kept
    | with_reducible apply spdmSign_kept
    | with_reducible apply emit_kept
    | split

end Sys2Proof.Machine
end

