-- ==== Sys2Proof/Laws/KeptSpyhole.lean ====
section
/-! SUPPORT. What `Kept` says is kept by the operations of Machine/Spyhole.lean. -/

-- One proof at a time: proofs elaborated side by side wait on each other, and each that waits holds a thread's stack.
set_option Elab.async false

namespace Sys2Proof.Machine

open Sys2Proof

theorem boundaryReset_kept {s0 s : State} (h : Kept s0 s) : Kept s0 (boundaryReset s) := by
  unfold boundaryReset
  repeat' first
    | with_reducible assumption
    | with_reducible apply holdPackage_kept
    | split
    | (with_reducible refine Kept.upd ?_ ?_; rotate_left; exact rfl)

theorem boundaryExit_kept {s0 s : State} (h : Kept s0 s) : Kept s0 (boundaryExit s) := by
  unfold boundaryExit
  repeat' first
    | with_reducible assumption
    | with_reducible apply startWarm_kept
    | split
    | (with_reducible refine Kept.upd ?_ ?_; rotate_left; exact rfl)

theorem tapIr_kept {s0 s : State} {a0} (h : Kept s0 s) : Kept s0 (tapIr a0 s) := by
  unfold tapIr
  repeat' first
    | with_reducible assumption
    | (intro hx; clear_value x)
    | with_reducible apply spyLog_kept
    | with_reducible apply boundaryReset_kept
    | with_reducible apply boundaryExit_kept
    | split
    | (with_reducible refine Kept.upd ?_ ?_; rotate_left; exact rfl)
    | ((fail_if_no_progress extract_lets +onlyGivenNames x); first
        | refine Kept.cut (t := x) ?_ ?_
        | refine Kept.cut (t := x.2) ?_ ?_
        | refine Kept.cut (t := x.2.2) ?_ ?_
        | (have hs : Sil := x; clear hs; unfold x)
        | (have hs : State → State := x; clear hs; unfold x)
        | (have hs : Nat → State → State := x; clear hs; unfold x)
        | clear_value x)

theorem tapOut_kept {s0 s : State} {a0 a1} (h : Kept s0 s) : Kept s0 (tapOut a0 a1 s) := by
  unfold tapOut
  repeat' first
    | with_reducible assumption
    | with_reducible apply emit_kept

theorem scanBoundary_kept {s0 s : State} {a0 a1} (h : Kept s0 s) : Kept s0 (scanBoundary a0 a1 s) := by
  unfold scanBoundary
  repeat' first
    | with_reducible assumption
    | with_reducible apply drawFree_kept
    | with_reducible apply tapOut_kept
    | (with_reducible refine Kept.upd ?_ ?_; rotate_left; exact rfl)

theorem execTapReset_kept {s0 s : State} (h : Kept s0 s) :
    ∃ u, execTapReset s = .next u ∧ Kept s0 u := by
  unfold execTapReset done
  refine ⟨_, rfl, ?_⟩
  repeat' first
    | with_reducible assumption
    | with_reducible apply foldl_kept
    | with_reducible apply foldlPair_kept
    | with_reducible apply tapIr_kept

theorem execExtest_kept {s0 s : State} {a0} (h : Kept s0 s) :
    ∃ u, execExtest a0 s = .next u ∧ Kept s0 u := by
  unfold execExtest done
  refine ⟨_, rfl, ?_⟩
  repeat' first
    | with_reducible assumption
    | (intro hx; clear_value x)
    | with_reducible apply foldlPair_kept
    | with_reducible apply scanBoundary_kept
    | with_reducible apply tapIr_kept

theorem execIdcode_kept {s0 s : State} (h : Kept s0 s) :
    ∃ u, execIdcode s = .next u ∧ Kept s0 u := by
  unfold execIdcode done
  refine ⟨_, rfl, ?_⟩
  repeat' first
    | with_reducible assumption
    | (intro hx; clear_value x)
    | with_reducible apply foldlPair_kept
    | with_reducible apply tapIr_kept
    | with_reducible apply tapOut_kept

theorem execSamplePreload_kept {s0 s : State} {a0} (h : Kept s0 s) :
    ∃ u, execSamplePreload a0 s = .next u ∧ Kept s0 u := by
  unfold execSamplePreload done
  refine ⟨_, rfl, ?_⟩
  repeat' first
    | with_reducible assumption
    | (intro hx; clear_value x)
    | with_reducible apply foldlPair_kept
    | with_reducible apply scanBoundary_kept
    | with_reducible apply tapIr_kept

theorem execClamp_kept {s0 s : State} (h : Kept s0 s) :
    ∃ u, execClamp s = .next u ∧ Kept s0 u := by
  unfold execClamp done
  refine ⟨_, rfl, ?_⟩
  repeat' first
    | with_reducible assumption
    | (intro hx; clear_value x)
    | with_reducible apply foldlPair_kept
    | with_reducible apply tapOut_kept
    | with_reducible apply tapIr_kept

theorem execHighz_kept {s0 s : State} (h : Kept s0 s) :
    ∃ u, execHighz s = .next u ∧ Kept s0 u := by
  unfold execHighz done
  refine ⟨_, rfl, ?_⟩
  repeat' first
    | with_reducible assumption
    | (intro hx; clear_value x)
    | with_reducible apply foldlPair_kept
    | with_reducible apply tapOut_kept
    | with_reducible apply tapIr_kept

theorem execBoundaryInstructionExit_kept {s0 s : State} (h : Kept s0 s) :
    ∃ u, execBoundaryInstructionExit s = .next u ∧ Kept s0 u := by
  unfold execBoundaryInstructionExit done
  refine ⟨_, rfl, ?_⟩
  repeat' first
    | with_reducible assumption
    | with_reducible apply foldl_kept
    | with_reducible apply foldlPair_kept
    | with_reducible apply tapIr_kept
    | split

theorem execBypass_kept {s0 s : State} (h : Kept s0 s) :
    ∃ u, execBypass s = .next u ∧ Kept s0 u := by
  unfold execBypass done
  refine ⟨_, rfl, ?_⟩
  repeat' first
    | with_reducible assumption
    | (intro hx; clear_value x)
    | with_reducible apply foldlPair_kept
    | with_reducible apply tapOut_kept
    | with_reducible apply tapIr_kept

theorem execDstat_kept {s0 s : State} (h : Kept s0 s) :
    ∃ u, execDstat s = .next u ∧ Kept s0 u := by
  unfold execDstat done
  refine ⟨_, rfl, ?_⟩
  repeat' first
    | with_reducible assumption
    | (intro hx; clear_value x)
    | with_reducible apply foldlPair_kept
    | with_reducible apply tapIr_kept
    | with_reducible apply tapOut_kept

theorem setRes_kept {s0 s : State} {a0} (h : Kept s0 s) : Kept s0 (setRes a0 s) := by
  unfold setRes
  repeat' first
    | with_reducible assumption
    | with_reducible apply wrf_kept

theorem execDchal_kept {s0 s : State} (h : Kept s0 s) :
    ∃ u, execDchal s = .next u ∧ Kept s0 u := by
  unfold execDchal done
  refine ⟨_, rfl, ?_⟩
  repeat' first
    | with_reducible assumption
    | (intro hx; clear_value x)
    | intro _
    | with_reducible apply foldl_kept
    | with_reducible apply tapIr_kept
    | with_reducible apply tapOut_kept
    | with_reducible apply drawFree_kept
    | split
    | (with_reducible refine Kept.upd ?_ ?_; rotate_left; exact rfl)

theorem execDresp_kept {s0 s : State} {a0 a1 a2} (h : Kept s0 s) :
    ∃ u, execDresp a0 a1 a2 s = .next u ∧ Kept s0 u := by
  unfold execDresp done
  refine ⟨_, rfl, ?_⟩
  repeat' first
    | with_reducible assumption
    | (intro hx; clear_value x)
    | with_reducible apply tapIr_kept
    | with_reducible apply setRes_kept
    | with_reducible apply spyLog_kept
    | split
    | (with_reducible refine Kept.upd ?_ ?_; rotate_left; exact rfl)
    | ((fail_if_no_progress extract_lets +onlyGivenNames x); first
        | refine Kept.cut (t := x) ?_ ?_
        | refine Kept.cut (t := x.2) ?_ ?_
        | refine Kept.cut (t := x.2.2) ?_ ?_
        | (have hs : Sil := x; clear hs; unfold x)
        | (have hs : State → State := x; clear hs; unfold x)
        | (have hs : Nat → State → State := x; clear hs; unfold x)
        | clear_value x)

theorem grant_kept {s0 s : State} {a0 a1} (h : Kept s0 s) : Kept s0 (grant a0 a1 s) := by
  refine setRes_kept (spyLog_kept ?_)
  refine ⟨h.queue, h.identity, h.memory, h.log, h.events, h.mirror, h.rollback, h.anchors, h.anchorCap, ?_, h.commissioned,
    h.owner⟩
  refine h.unlocks.trans ?_
  dsimp only
  split
  · exact Nat.le_succ _
  · exact le_refl _

theorem unlockFails_kept {s0 s : State} {a0 a1} (h : Kept s0 s) : Kept s0 (unlockFails a0 a1 s) := by
  unfold unlockFails
  repeat' first
    | with_reducible assumption
    | with_reducible apply setRes_kept
    | with_reducible apply spyLog_kept
    | (with_reducible refine Kept.upd ?_ ?_; rotate_left; exact rfl)

theorem execUnlockVerifyDone_kept {s0 s : State} (h : Kept s0 s) :
    ∃ u, execUnlockVerifyDone s = .next u ∧ Kept s0 u := by
  unfold execUnlockVerifyDone done
  refine ⟨_, rfl, ?_⟩
  repeat' first
    | with_reducible assumption
    | with_reducible apply grant_kept
    | with_reducible apply unlockFails_kept
    | split

theorem execUnlockRateLimitExpiry_kept {s0 s : State} (h : Kept s0 s) :
    ∃ u, execUnlockRateLimitExpiry s = .next u ∧ Kept s0 u := by
  unfold execUnlockRateLimitExpiry done
  refine ⟨_, rfl, ?_⟩
  repeat' first
    | with_reducible assumption
    | split
    | (with_reducible refine Kept.upd ?_ ?_; rotate_left; exact rfl)

theorem spyDeny_kept {s0 s : State} (h : Kept s0 s) : Kept s0 (spyDeny s) := by
  unfold spyDeny
  repeat' first
    | with_reducible assumption
    | with_reducible apply spyLog_kept
    | (with_reducible refine Kept.upd ?_ ?_; rotate_left; exact rfl)

theorem spyStep_kept {s0 s : State} (h : Kept s0 s) : Kept s0 (spyStep s) := by
  unfold spyStep
  repeat' first
    | with_reducible assumption
    | split
    | (with_reducible refine Kept.upd ?_ ?_; rotate_left; exact rfl)

theorem spyEnd_kept {s0 s : State} {a0 a1} (h : Kept s0 s) : Kept s0 (spyEnd a0 a1 s) := by
  unfold spyEnd
  repeat' first
    | with_reducible assumption
    | (intro hx; clear_value x)
    | with_reducible apply spyStep_kept
    | (with_reducible refine Kept.upd ?_ ?_; rotate_left; exact rfl)

theorem spyErr_kept {s0 s : State} {a0} (h : Kept s0 s) : Kept s0 (spyErr a0 s) := by
  unfold spyErr
  repeat' first
    | with_reducible assumption
    | with_reducible apply spyEnd_kept
    | with_reducible apply wrf_kept

theorem spyErrSil_kept {s0 s : State} {a0} (h : Kept s0 s) : Kept s0 (spyErrSil a0 s) := by
  unfold spyErrSil
  repeat' first
    | with_reducible assumption
    | with_reducible apply spyErr_kept
    | with_reducible apply logE_kept

theorem spyIssue_kept {s0 s : State} {a0 a1} (h : Kept s0 s) : Kept s0 (spyIssue a0 a1 s) := by
  unfold spyIssue
  repeat' first
    | with_reducible assumption
    | intro _
    | with_reducible apply spyDeny_kept
    | with_reducible apply spyStep_kept
    | split
    | (with_reducible refine Kept.upd ?_ ?_; rotate_left; exact rfl)

theorem spyUpdate_kept {s0 s : State} {f : State → State} (h : Kept s0 s) (hf : ∀ s, Kept s0 s → Kept s0 (f s)) :
    Kept s0 (spyUpdate f s) := by
  unfold spyUpdate
  split
  · exact spyDeny_kept h
  · split
    · exact setEv_kept h
    · exact hf _ h

theorem execDaddr_kept {s0 s : State} {a0} (h : Kept s0 s) :
    ∃ u, execDaddr a0 s = .next u ∧ Kept s0 u := by
  unfold execDaddr done
  refine ⟨_, rfl, ?_⟩
  repeat' first
    | with_reducible assumption
    | (intro hx; clear_value x)
    | intro _
    | with_reducible apply foldl_kept
    | with_reducible apply spyUpdate_kept
    | with_reducible apply spyIssue_kept
    | with_reducible apply tapIr_kept
    | split
    | (with_reducible refine Kept.upd ?_ ?_; rotate_left; exact rfl)

theorem execDdata_kept {s0 s : State} {a0 a1} (h : Kept s0 s) :
    ∃ u, execDdata a0 a1 s = .next u ∧ Kept s0 u := by
  unfold execDdata done
  refine ⟨_, rfl, ?_⟩
  repeat' first
    | with_reducible assumption
    | (intro hx; clear_value x)
    | intro _
    | with_reducible apply foldl_kept
    | with_reducible apply foldlPair_kept
    | with_reducible apply tapIr_kept
    | with_reducible apply tapOut_kept
    | with_reducible apply spyUpdate_kept
    | with_reducible apply spyIssue_kept
    | split

theorem spyReg_kept {s0 s : State} {a0 a1} (h : Kept s0 s) : Kept s0 (spyReg a0 a1 s) := by
  unfold spyReg
  repeat' first
    | with_reducible assumption
    | with_reducible apply spyErr_kept
    | with_reducible apply regErr_kept
    | with_reducible apply writeAt_kept
    | with_reducible apply spyEnd_kept
    | with_reducible apply readAt_kept
    | split
    | ((fail_if_no_progress extract_lets +onlyGivenNames x); first
        | refine Kept.cut (t := x) ?_ ?_
        | refine Kept.cut (t := x.2) ?_ ?_
        | refine Kept.cut (t := x.2.2) ?_ ?_
        | (have hs : Sil := x; clear hs; unfold x)
        | (have hs : State → State := x; clear hs; unfold x)
        | (have hs : Nat → State → State := x; clear hs; unfold x)
        | clear_value x)

theorem spyMem_kept {s0 s : State} {a0 a1} (h : Kept s0 s) : Kept s0 (spyMem a0 a1 s) := by
  unfold spyMem
  repeat' first
    | with_reducible assumption
    | (intro hx; clear_value x)
    | with_reducible apply spyErr_kept
    | with_reducible apply hubErr_kept
    | with_reducible apply addrViolation_kept
    | with_reducible apply hubXreset_kept
    | with_reducible apply spmTouch_kept
    | with_reducible apply wrBytes_kept
    | with_reducible apply spyEnd_kept
    | split
    | ((fail_if_no_progress extract_lets +onlyGivenNames x); first
        | refine Kept.cut (t := x) ?_ ?_
        | refine Kept.cut (t := x.2) ?_ ?_
        | refine Kept.cut (t := x.2.2) ?_ ?_
        | (have hs : Sil := x; clear hs; unfold x)
        | (have hs : State → State := x; clear hs; unfold x)
        | (have hs : Nat → State → State := x; clear hs; unfold x)
        | clear_value x)

theorem spyFree_kept {s0 s : State} {a0 a1 a2} {f : Tab Nat → State → State} (h : Kept s0 s)
    (hf : ∀ t s, Kept s0 s → Kept s0 (f t s)) : Kept s0 (spyFree a0 a1 a2 f s) := by
  unfold spyFree
  split
  · exact spyEnd_kept h
  · exact spyEnd_kept (whenS_kept (drawFree_kept h) fun s hs => hf _ s hs)

theorem spySil_kept {s0 s : State} {a0 a1} (h : Kept s0 s) : Kept s0 (spySil a0 a1 s) := by
  unfold spySil
  repeat' first
    | with_reducible assumption
    | (intro hx; clear_value x)
    | intro _
    | with_reducible apply whenS_kept
    | with_reducible apply spyErrSil_kept
    | with_reducible apply spyEnd_kept
    | with_reducible apply spyFree_kept
    | split
    | (with_reducible refine Kept.upd ?_ ?_; rotate_left; exact rfl)
    | ((fail_if_no_progress extract_lets +onlyGivenNames x); first
        | refine Kept.cut (t := x) ?_ ?_
        | refine Kept.cut (t := x.2) ?_ ?_
        | refine Kept.cut (t := x.2.2) ?_ ?_
        | (have hs : Sil := x; clear hs; unfold x)
        | (have hs : State → State := x; clear hs; unfold x)
        | (have hs : Nat → State → State := x; clear hs; unfold x)
        | clear_value x)

theorem spyCore_kept {s0 s : State} {a0 a1} (h : Kept s0 s) : Kept s0 (spyCore a0 a1 s) := by
  unfold spyCore
  repeat' first
    | with_reducible assumption
    | (intro hx; clear_value x)
    | intro _
    | with_reducible apply spyEnd_kept
    | with_reducible apply spyFree_kept
    | with_reducible apply spyErrSil_kept
    | split
    | (with_reducible refine Kept.upd ?_ ?_; rotate_left; exact rfl)
    | ((fail_if_no_progress extract_lets +onlyGivenNames x); first
        | refine Kept.cut (t := x) ?_ ?_
        | refine Kept.cut (t := x.2) ?_ ?_
        | refine Kept.cut (t := x.2.2) ?_ ?_
        | (have hs : Sil := x; clear hs; unfold x)
        | (have hs : State → State := x; clear hs; unfold x)
        | (have hs : Nat → State → State := x; clear hs; unfold x)
        | clear_value x)

theorem spyHang_kept {s0 s : State} {a0} (h : Kept s0 s) : Kept s0 (spyHang a0 s) := by
  unfold spyHang
  repeat' first
    | with_reducible assumption
    | (intro hx; clear_value x)
    | with_reducible apply spyErr_kept
    | with_reducible apply regErr_kept
    | with_reducible apply hubErr_kept
    | with_reducible apply spyErrSil_kept
    | split
    | ((fail_if_no_progress extract_lets +onlyGivenNames x); first
        | refine Kept.cut (t := x) ?_ ?_
        | refine Kept.cut (t := x.2) ?_ ?_
        | refine Kept.cut (t := x.2.2) ?_ ?_
        | (have hs : Sil := x; clear hs; unfold x)
        | (have hs : State → State := x; clear hs; unfold x)
        | (have hs : Nat → State → State := x; clear hs; unfold x)
        | clear_value x)

theorem execDebugAccessComplete_kept {s0 s : State} {a0} (h : Kept s0 s) :
    ∃ u, execDebugAccessComplete a0 s = .next u ∧ Kept s0 u := by
  unfold execDebugAccessComplete done
  refine ⟨_, rfl, ?_⟩
  repeat' first
    | with_reducible assumption
    | with_reducible apply spyHang_kept
    | with_reducible apply spyReg_kept
    | with_reducible apply spyMem_kept
    | with_reducible apply spySil_kept
    | with_reducible apply spyCore_kept
    | with_reducible apply spyErrSil_kept
    | split

end Sys2Proof.Machine
end

