-- ==== Sys2Proof/Laws/KeptTick.lean ====
section
/-! SUPPORT. What `Kept` says is kept by the operations of Machine/Tick.lean. -/

-- One proof at a time: proofs elaborated side by side wait on each other, and each that waits holds a thread's stack.
set_option Elab.async false

namespace Sys2Proof.Machine

open Sys2Proof

theorem tick_kept {s0 s : State} (h : Kept s0 s) : Kept s0 (tick s) := by
  unfold tick
  repeat' first
    | with_reducible assumption
    | split
    | (with_reducible refine Kept.upd ?_ ?_; rotate_left; exact rfl)

theorem nextIdle_kept {s0 s t : State} {i} (h : Kept s0 s) (e : nextIdle s = some (i, t)) : Kept s0 t := by
  unfold nextIdle at e
  cases h1 : nextWaiting s with
  | none => rw [h1] at e; exact nextDoe_kept h e
  | some p => rw [h1] at e; obtain ⟨j, u⟩ := p; cases e; exact nextWaiting_kept h h1

end Sys2Proof.Machine
end

