-- ==== Sys2Proof/Laws/Ops.lean ====
section
/-! SUPPORT. What the shared operations of Machine/Ops.lean do: registers and their fields, device memory, the kiln log,
interrupts and error records. -/

-- One proof at a time: proofs elaborated side by side wait on each other, and each that waits holds a thread's stack.
set_option Elab.async false

namespace Sys2Proof.Machine

open Sys2Proof

/-! ### Registers -/

/-- Register keys are different for different registers or instances. -/
theorem regKey_inj {r r' : Reg} {i i' : Nat} (hi : i < 2 ^ 20) (hi' : i' < 2 ^ 20) (h : regKey r i = regKey r' i') :
    r = r' ∧ i = i' := by
  unfold regKey at h
  have hc : r.ctorIdx = r'.ctorIdx := by omega
  refine ⟨?_, by omega⟩
  have := congrArg Reg.ofNat hc
  rwa [Reg.ofNat_ctorIdx, Reg.ofNat_ctorIdx] at this

/-- A register word written is read back. -/
@[simp] theorem rd_wr_same (r : Reg) (i : Nat) (w : Word) (s : State) : rd (wr r i w s) r i = w := by
  simp [rd, wr]

/-- A write of a register leaves the others as they were. -/
theorem rd_wr_ne {r r' : Reg} {i i' : Nat} (w : Word) (s : State) (h : (r', i') ≠ (r, i)) (hi : i < 2 ^ 20)
    (hi' : i' < 2 ^ 20) : rd (wr r i w s) r' i' = rd s r' i' := by
  refine tget_tset_ne (resetOf r i) s.regs w fun e => h ?_
  obtain ⟨h1, h2⟩ := regKey_inj hi' hi e
  rw [h1, h2]

/-- Different registers have different keys, whatever the instances. -/
theorem regKey_reg {r r' : Reg} {i i' : Nat} (h : regKey r i = regKey r' i') : r = r' := by
  unfold regKey at h
  have hc : r.ctorIdx = r'.ctorIdx := by omega
  have := congrArg Reg.ofNat hc
  rwa [Reg.ofNat_ctorIdx, Reg.ofNat_ctorIdx] at this

/-- A write of another register leaves a register as it was, whatever the instances. -/
theorem rd_wr_of_ne {r r' : Reg} {i i' : Nat} (w : Word) (s : State) (h : r' ≠ r) : rd (wr r i w s) r' i' = rd s r' i' :=
  tget_tset_ne (resetOf r i) s.regs w fun e => h (regKey_reg e)

theorem rd_congr {s t : State} (h : t.regs = s.regs) (r : Reg) (i : Nat) : rd t r i = rd s r i := by
  simp [rd, h]

/-! ### Bit fields -/

theorem bitsOf_testBit (n hi lo i : Nat) : (bitsOf n hi lo).testBit i = (decide (i < hi + 1 - lo) && n.testBit (lo + i)) := by
  simp [bitsOf, Nat.testBit_mod_two_pow, Nat.testBit_shiftRight]

theorem bitsOf_lt (n hi lo : Nat) : bitsOf n hi lo < 2 ^ (hi + 1 - lo) := Nat.mod_lt _ (by positivity)

/-- Every bit of a number with a field replaced. -/
theorem setBits_testBit (n hi lo v i : Nat) (h : lo ≤ hi) :
    (setBits n hi lo v).testBit i =
      if i < lo then n.testBit i else if i ≤ hi then v.testBit (i - lo) else n.testBit i := by
  have e : setBits n hi lo v =
      2 ^ (hi + 1) * (n >>> (hi + 1)) + (2 ^ lo * (v % 2 ^ (hi + 1 - lo)) + n % 2 ^ lo) := by
    simp only [setBits, Nat.shiftLeft_eq]
    ring
  have h1 : 2 ^ lo * (v % 2 ^ (hi + 1 - lo)) + n % 2 ^ lo < 2 ^ (hi + 1) := by
    have a := Nat.mod_lt v (show 2 ^ (hi + 1 - lo) > 0 by positivity)
    have b := Nat.mod_lt n (show 2 ^ lo > 0 by positivity)
    calc 2 ^ lo * (v % 2 ^ (hi + 1 - lo)) + n % 2 ^ lo
        < 2 ^ lo * (v % 2 ^ (hi + 1 - lo)) + 2 ^ lo := by omega
      _ = 2 ^ lo * (v % 2 ^ (hi + 1 - lo) + 1) := by ring
      _ ≤ 2 ^ lo * 2 ^ (hi + 1 - lo) := Nat.mul_le_mul_left _ (by omega)
      _ = 2 ^ (hi + 1) := by rw [← pow_add]; congr 1; omega
  rw [e, Nat.testBit_two_pow_mul_add _ h1]
  have h2 : n % 2 ^ lo < 2 ^ lo := Nat.mod_lt _ (by positivity)
  split
  · rw [Nat.testBit_two_pow_mul_add _ h2]
    split
    · simp [Nat.testBit_mod_two_pow, *]
    · have : i ≤ hi := by omega
      simp [Nat.testBit_mod_two_pow, this]
      omega
  · have h3 : ¬ i < lo := by omega
    have h4 : ¬ i ≤ hi := by omega
    simp [h3, h4, Nat.testBit_shiftRight]
    congr 1
    omega

/-- A field written is read back. -/
theorem bitsOf_setBits_same (n hi lo v : Nat) (h : lo ≤ hi) : bitsOf (setBits n hi lo v) hi lo = v % 2 ^ (hi + 1 - lo) := by
  apply Nat.eq_of_testBit_eq
  intro i
  rw [bitsOf_testBit, setBits_testBit _ _ _ _ _ h, Nat.testBit_mod_two_pow]
  by_cases hi' : i < hi + 1 - lo
  · have h1 : ¬ lo + i < lo := by omega
    have h2 : lo + i ≤ hi := by omega
    simp [hi', h2]
  · simp [hi']

/-- A field written leaves a disjoint field as it was. -/
theorem bitsOf_setBits_ne (n hi lo v hi' lo' : Nat) (h : lo ≤ hi) (hd : hi' < lo ∨ hi < lo') :
    bitsOf (setBits n hi lo v) hi' lo' = bitsOf n hi' lo' := by
  apply Nat.eq_of_testBit_eq
  intro i
  rw [bitsOf_testBit, bitsOf_testBit, setBits_testBit _ _ _ _ _ h]
  by_cases hb : i < hi' + 1 - lo'
  · rcases hd with hd | hd
    · have : lo' + i < lo := by omega
      simp [this]
    · have h1 : ¬ lo' + i < lo := by omega
      have h2 : ¬ lo' + i ≤ hi := by omega
      simp [h1, h2]
  · simp [hb]

theorem setBits_lt (n hi lo v : Nat) (h : lo ≤ hi) (hh : hi < 32) (hn : n < 2 ^ 32) : setBits n hi lo v < 2 ^ 32 := by
  apply Nat.lt_pow_two_of_testBit
  intro i hi32
  rw [setBits_testBit _ _ _ _ _ h]
  have h1 : ¬ i < lo := by omega
  have h2 : ¬ i ≤ hi := by omega
  simp only [h1, h2, if_false]
  exact Nat.testBit_lt_two_pow (hn.trans_le (Nat.pow_le_pow_right (by omega) hi32))

theorem setFld_toNat (w : Word) (hi lo v : Nat) (h : lo ≤ hi) (hh : hi < 32) :
    (setFld w hi lo v).toNat = setBits w.toNat hi lo v := by
  simp only [setFld, BitVec.toNat_ofNat]
  exact Nat.mod_eq_of_lt (setBits_lt _ _ _ _ h hh w.isLt)

/-- A field of a register written is read back. -/
theorem fld_setFld_same (w : Word) (hi lo v : Nat) (h : lo ≤ hi) (hh : hi < 32) :
    fld (setFld w hi lo v) hi lo = v % 2 ^ (hi + 1 - lo) := by
  rw [fld, setFld_toNat _ _ _ _ h hh, bitsOf_setBits_same _ _ _ _ h]

/-- Disjoint fields of a register do not disturb one another. -/
theorem fld_setFld_ne (w : Word) (hi lo v hi' lo' : Nat) (h : lo ≤ hi) (hh : hi < 32) (hd : hi' < lo ∨ hi < lo') :
    fld (setFld w hi lo v) hi' lo' = fld w hi' lo' := by
  rw [fld, setFld_toNat _ _ _ _ h hh, bitsOf_setBits_ne _ _ _ _ _ _ h hd, fld]

/-- A field of a register written is read back from the state. -/
theorem rf_wrf_same (r : Reg) (hi lo v i : Nat) (s : State) (h : lo ≤ hi) (hh : hi < 32) :
    rf (wrf r hi lo v i s) r hi lo i = v % 2 ^ (hi + 1 - lo) := by
  simp [rf, wrf, fld_setFld_same _ _ _ _ h hh]

theorem rf_wrf_field (r : Reg) (hi lo v i hi' lo' : Nat) (s : State) (h : lo ≤ hi) (hh : hi < 32)
    (hd : hi' < lo ∨ hi < lo') : rf (wrf r hi lo v i s) r hi' lo' i = rf s r hi' lo' i := by
  simp [rf, wrf, fld_setFld_ne _ _ _ _ _ _ h hh hd]

theorem rd_wrf_ne {r r' : Reg} {i i' : Nat} (hi lo v : Nat) (s : State) (h : (r', i') ≠ (r, i)) (h1 : i < 2 ^ 20)
    (h2 : i' < 2 ^ 20) : rd (wrf r hi lo v i s) r' i' = rd s r' i' := rd_wr_ne _ _ h h1 h2

/-- A status bit set is read as set. -/
theorem rb_setEv_same (r : Reg) (k i : Nat) (s : State) (hk : k < 32) : rb (setEv r k i s) r k i = true := by
  have := setFld_toNat (rd s r i) k k 1 (le_refl k) hk
  simp only [rb, setEv, wrf, rd_wr_same, this, setBits_testBit _ _ _ _ _ (le_refl k)]
  simp

/-- Setting a status bit leaves the other bits of the register. -/
theorem rb_setEv_ne (r : Reg) (k j i : Nat) (s : State) (hk : k < 32) (h : j ≠ k) :
    rb (setEv r k i s) r j i = rb s r j i := by
  have := setFld_toNat (rd s r i) k k 1 (le_refl k) hk
  simp only [rb, setEv, wrf, rd_wr_same, this, setBits_testBit _ _ _ _ _ (le_refl k)]
  split
  · rfl
  · split
    · omega
    · rfl

theorem rd_setEv_ne {r r' : Reg} {i i' : Nat} (k : Nat) (s : State) (h : (r', i') ≠ (r, i)) (h1 : i < 2 ^ 20)
    (h2 : i' < 2 ^ 20) : rd (setEv r k i s) r' i' = rd s r' i' := rd_wr_ne _ _ h h1 h2

/-! ### Device memory -/

@[simp] theorem rdByte_wrByte_same (a : Nat) (b : Byte) (s : State) : rdByte (wrByte a b s) a = b := by
  simp [rdByte, wrByte]

theorem rdByte_wrByte_ne {a a' : Nat} (b : Byte) (s : State) (h : a' ≠ a) : rdByte (wrByte a b s) a' = rdByte s a' :=
  tget_tset_ne _ _ _ h

theorem rdByte_congr {s t : State} (h : t.mem = s.mem) (a : Nat) : rdByte t a = rdByte s a := by
  simp [rdByte, h]

/-- What a range of zeros reads as (R483). -/
theorem rdByte_zeroRange (a b k : Nat) (s : State) :
    rdByte (zeroRange a b s) k = if a ≤ k ∧ k < b then 0 else rdByte s k := by
  simp [rdByte, zeroRange, tget_tdrop]

/-- The bytes of a write that are admitted are written, and no others. -/
theorem rdByte_wrBytesAux (a n : Nat) (ok : Nat → Bool) (b : Nat) (xs : List Byte) (s : State) (k : Nat) :
    rdByte (wrBytesAux a n ok b xs s) k =
      if b ≤ k ∧ k < b + xs.length ∧ ok k then xs.getD (k - b) 0 else rdByte s k := by
  induction xs generalizing b s with
  | nil =>
    have : ¬ (b ≤ k ∧ k < b + 0) := by omega
    simp [wrBytesAux]
    omega
  | cons x xs ih =>
    rw [wrBytesAux, ih]
    by_cases hk : k = b
    · subst hk
      have h1 : ¬ (k + 1 ≤ k) := by omega
      by_cases ho : ok k <;> simp [ho, h1]
    · by_cases hb : b + 1 ≤ k
      · have h1 : b ≤ k := by omega
        have e : k - b = (k - (b + 1)) + 1 := by omega
        have h2 : rdByte (if ok b then wrByte b x s else s) k = rdByte s k := by
          split
          · exact rdByte_wrByte_ne _ _ hk
          · rfl
        rw [h2, e, List.getD_cons_succ]
        simp only [hb, h1, true_and, List.length_cons]
        have e2 : b + 1 + xs.length = b + (xs.length + 1) := by omega
        rw [e2]
      · have h1 : ¬ b ≤ k := by omega
        have h2 : rdByte (if ok b then wrByte b x s else s) k = rdByte s k := by
          split
          · exact rdByte_wrByte_ne _ _ hk
          · rfl
        simp [hb, h1, h2]

/-! ### The kiln log and interrupts -/

/-- What entering an event can change. -/
theorem putMirror_frame (e : LogEntry) (s : State) :
    putMirror e s = { s with regs := (putMirror e s).regs, sil := (putMirror e s).sil } := by
  unfold putMirror
  split
  · rfl
  · split
    · rfl
    · split
      · rfl
      · split <;> rfl

theorem sendMsix_frame (fn vec : Nat) (s : State) :
    sendMsix fn vec s = { s with out := (sendMsix fn vec s).out, fns := (sendMsix fn vec s).fns } := by
  unfold sendMsix
  split
  · rfl
  · split <;> rfl

/-- Entering an event changes no register but the counters of lost entries. -/
theorem rd_putMirror (e : LogEntry) (s : State) (r : Reg) (i : Nat) (h : r ≠ .SIL_LOG_LOST) :
    rd (putMirror e s) r i = rd s r i := by
  unfold putMirror
  split
  · rfl
  · split
    · rfl
    · split
      · exact rd_wr_of_ne _ _ h
      · split
        · exact rd_wr_of_ne _ _ h
        · exact rd_wr_of_ne _ _ h

theorem rd_sendMsix (fn vec : Nat) (s : State) (r : Reg) (i : Nat) : rd (sendMsix fn vec s) r i = rd s r i := by
  unfold sendMsix
  split
  · rfl
  · split <;> rfl

theorem rd_logE (e : LogEntry) (s : State) (r : Reg) (i : Nat) (h : r ≠ .SIL_LOG_LOST) :
    rd (logE e s) r i = rd s r i := by
  unfold logE
  dsimp only
  split
  · unfold putLog whenS
    dsimp only
    split
    · rw [rd_sendMsix, rd_putMirror _ _ _ _ h]; rfl
    · rw [rd_putMirror _ _ _ _ h]; rfl
  · split
    · rfl
    · exact rd_wr_of_ne _ _ h

/-- An event that is logged changes the log, the counters of what it lost, and what a CRITICAL entry signals. -/
theorem logE_frame (e : LogEntry) (s : State) :
    logE e s = { s with regs := (logE e s).regs, sil := (logE e s).sil, out := (logE e s).out, fns := (logE e s).fns } := by
  unfold logE
  dsimp only
  split
  · unfold putLog whenS
    dsimp only
    split
    · rw [sendMsix_frame, putMirror_frame]
    · rw [putMirror_frame]
  · split <;> rfl

end Sys2Proof.Machine
end

