-- ==== Sys2Proof/Laws/Layout.lean ====
section
/-! SUPPORT. What halts and breakpoints do not do while none is in force, and reads after writes of tiles. -/

-- One proof at a time: proofs elaborated side by side wait on each other, and each that waits holds a thread's stack.
set_option Elab.async false

namespace Sys2Proof.Machine

open Sys2Proof

theorem halted_undebugged {s : State} (h : undebugged s = true) (b : Nat) : halted s b = false := by
  simp [undebugged] at h
  simp [halted, h]

theorem withheld_undebugged {s : State} (h : undebugged s = true) (b k : Nat) : withheld s b k = false := by
  have := halted_undebugged h b
  simp [undebugged] at h
  simp [withheld, this, h]

theorem acked_undebugged {s : State} (h : undebugged s = true) (b k : Nat) : acked b k s = s := by
  simp [undebugged] at h
  simp [acked, whenS, h]

/-- Without a halt, a request from outside a bay is taken at once. -/
theorem withhold_undebugged {s : State} (h : undebugged s = true) (b k : Nat) (c : Instr) (f : State → State) :
    withhold b k c f s = f s := by
  have h1 := withheld_undebugged h b k
  have h2 := acked_undebugged h b k
  simp [undebugged] at h
  simp [withhold, h1, h2, h]

/-- Without an enabled breakpoint, no item matches. -/
theorem breakpoint_undebugged {s : State} (h : undebugged s = true) {k : Nat} (hk : k ≠ 0) (i : Nat) (b : Option Nat) :
    breakpoint k i b s = (false, s) := by
  have hm : (List.range 8).filter (bpMatches s k i) = [] := by
    simp [undebugged] at h
    simp only [List.filter_eq_nil_iff, List.mem_range]
    intro n hn
    have := h.2 n hn
    simp [bpMatches, this]
    omega
  simp [undebugged] at h
  simp [breakpoint, hm, h]

theorem tileOf_modTile (t : Nat) (f : Tile → Tile) (s : State) (u : Nat) :
    tileOf (modTile t f s) u = if u = t then f (tileOf s t) else tileOf s u := by
  simp only [tileOf, modTile, tmod, tget_tset]

theorem tlOf_modTl (t l : Nat) (f : TLayer → TLayer) (s : State) : tlOf (modTl t l f s) t l = f (tlOf s t l) := by
  simp only [tlOf, modTl, tmod, tget_tset_same]

theorem poolOf_modPool (d : Nat) (f : TokPool → TokPool) (s : State) (e : Nat) :
    poolOf (modPool d f s) e = if e = d then f (poolOf s d) else poolOf s e := by
  simp only [poolOf, modPool, tmod, tget_tset]

end Sys2Proof.Machine
end

