-- ==== Sys2Proof/Laws/State.lean ====
section
/-! SUPPORT. The fields of State after each named update: the one it writes, and the others as they were; and each table
read back after its update. -/

-- One proof at a time: proofs elaborated side by side wait on each other, and each that waits holds a thread's stack.
set_option Elab.async false

namespace Sys2Proof.Machine

open Sys2Proof

/-! `wr` writes `regs` alone. -/

@[simp] theorem wr_pending (r : Reg) (i : Nat) (w : Word) (s : State) : (wr r i w s).pending = s.pending := rfl
@[simp] theorem wr_out (r : Reg) (i : Nat) (w : Word) (s : State) : (wr r i w s).out = s.out := rfl
@[simp] theorem wr_now (r : Reg) (i : Nat) (w : Word) (s : State) : (wr r i w s).now = s.now := rfl
@[simp] theorem wr_free (r : Reg) (i : Nat) (w : Word) (s : State) : (wr r i w s).free = s.free := rfl
@[simp] theorem wr_fuses (r : Reg) (i : Nat) (w : Word) (s : State) : (wr r i w s).fuses = s.fuses := rfl
@[simp] theorem wr_mem (r : Reg) (i : Nat) (w : Word) (s : State) : (wr r i w s).mem = s.mem := rfl
@[simp] theorem wr_poison (r : Reg) (i : Nat) (w : Word) (s : State) : (wr r i w s).poison = s.poison := rfl
@[simp] theorem wr_fns (r : Reg) (i : Nat) (w : Word) (s : State) : (wr r i w s).fns = s.fns := rfl
@[simp] theorem wr_units (r : Reg) (i : Nat) (w : Word) (s : State) : (wr r i w s).units = s.units := rfl
@[simp] theorem wr_crossings (r : Reg) (i : Nat) (w : Word) (s : State) : (wr r i w s).crossings = s.crossings := rfl
@[simp] theorem wr_sil (r : Reg) (i : Nat) (w : Word) (s : State) : (wr r i w s).sil = s.sil := rfl
@[simp] theorem wr_pkg (r : Reg) (i : Nat) (w : Word) (s : State) : (wr r i w s).pkg = s.pkg := rfl
@[simp] theorem wr_tiles (r : Reg) (i : Nat) (w : Word) (s : State) : (wr r i w s).tiles = s.tiles := rfl
@[simp] theorem wr_tlayers (r : Reg) (i : Nat) (w : Word) (s : State) : (wr r i w s).tlayers = s.tlayers := rfl
@[simp] theorem wr_pools (r : Reg) (i : Nat) (w : Word) (s : State) : (wr r i w s).pools = s.pools := rfl
@[simp] theorem wr_acc (r : Reg) (i : Nat) (w : Word) (s : State) : (wr r i w s).acc = s.acc := rfl
@[simp] theorem wr_vready (r : Reg) (i : Nat) (w : Word) (s : State) : (wr r i w s).vready = s.vready := rfl
@[simp] theorem wr_vheld (r : Reg) (i : Nat) (w : Word) (s : State) : (wr r i w s).vheld = s.vheld := rfl
@[simp] theorem wr_poisonX (r : Reg) (i : Nat) (w : Word) (s : State) : (wr r i w s).poisonX = s.poisonX := rfl
@[simp] theorem wr_lost (r : Reg) (i : Nat) (w : Word) (s : State) : (wr r i w s).lost = s.lost := rfl
@[simp] theorem wr_dbg (r : Reg) (i : Nat) (w : Word) (s : State) : (wr r i w s).dbg = s.dbg := rfl
@[simp] theorem wr_vctx (r : Reg) (i : Nat) (w : Word) (s : State) : (wr r i w s).vctx = s.vctx := rfl
@[simp] theorem wr_vslots (r : Reg) (i : Nat) (w : Word) (s : State) : (wr r i w s).vslots = s.vslots := rfl
@[simp] theorem wr_queues (r : Reg) (i : Nat) (w : Word) (s : State) : (wr r i w s).queues = s.queues := rfl
@[simp] theorem wr_cmds (r : Reg) (i : Nat) (w : Word) (s : State) : (wr r i w s).cmds = s.cmds := rfl
@[simp] theorem wr_ctxs (r : Reg) (i : Nat) (w : Word) (s : State) : (wr r i w s).ctxs = s.ctxs := rfl
@[simp] theorem wr_seqs (r : Reg) (i : Nat) (w : Word) (s : State) : (wr r i w s).seqs = s.seqs := rfl
@[simp] theorem wr_descs (r : Reg) (i : Nat) (w : Word) (s : State) : (wr r i w s).descs = s.descs := rfl
@[simp] theorem wr_qps (r : Reg) (i : Nat) (w : Word) (s : State) : (wr r i w s).qps = s.qps := rfl
@[simp] theorem wr_jobs (r : Reg) (i : Nat) (w : Word) (s : State) : (wr r i w s).jobs = s.jobs := rfl
@[simp] theorem wr_asks (r : Reg) (i : Nat) (w : Word) (s : State) : (wr r i w s).asks = s.asks := rfl
@[simp] theorem wr_ports (r : Reg) (i : Nat) (w : Word) (s : State) : (wr r i w s).ports = s.ports := rfl
@[simp] theorem wr_cal (r : Reg) (i : Nat) (w : Word) (s : State) : (wr r i w s).cal = s.cal := rfl
@[simp] theorem wr_clks (r : Reg) (i : Nat) (w : Word) (s : State) : (wr r i w s).clks = s.clks := rfl
@[simp] theorem wr_board (r : Reg) (i : Nat) (w : Word) (s : State) : (wr r i w s).board = s.board := rfl
@[simp] theorem wr_gov (r : Reg) (i : Nat) (w : Word) (s : State) : (wr r i w s).gov = s.gov := rfl
@[simp] theorem wr_madc (r : Reg) (i : Nat) (w : Word) (s : State) : (wr r i w s).madc = s.madc := rfl
@[simp] theorem wr_parts (r : Reg) (i : Nat) (w : Word) (s : State) : (wr r i w s).parts = s.parts := rfl

/-! `wrf` writes `regs` alone. -/

@[simp] theorem wrf_pending (r : Reg) (hi lo v i : Nat) (s : State) : (wrf r hi lo v i s).pending = s.pending := rfl
@[simp] theorem wrf_out (r : Reg) (hi lo v i : Nat) (s : State) : (wrf r hi lo v i s).out = s.out := rfl
@[simp] theorem wrf_now (r : Reg) (hi lo v i : Nat) (s : State) : (wrf r hi lo v i s).now = s.now := rfl
@[simp] theorem wrf_free (r : Reg) (hi lo v i : Nat) (s : State) : (wrf r hi lo v i s).free = s.free := rfl
@[simp] theorem wrf_fuses (r : Reg) (hi lo v i : Nat) (s : State) : (wrf r hi lo v i s).fuses = s.fuses := rfl
@[simp] theorem wrf_mem (r : Reg) (hi lo v i : Nat) (s : State) : (wrf r hi lo v i s).mem = s.mem := rfl
@[simp] theorem wrf_poison (r : Reg) (hi lo v i : Nat) (s : State) : (wrf r hi lo v i s).poison = s.poison := rfl
@[simp] theorem wrf_fns (r : Reg) (hi lo v i : Nat) (s : State) : (wrf r hi lo v i s).fns = s.fns := rfl
@[simp] theorem wrf_units (r : Reg) (hi lo v i : Nat) (s : State) : (wrf r hi lo v i s).units = s.units := rfl
@[simp] theorem wrf_crossings (r : Reg) (hi lo v i : Nat) (s : State) : (wrf r hi lo v i s).crossings = s.crossings := rfl
@[simp] theorem wrf_sil (r : Reg) (hi lo v i : Nat) (s : State) : (wrf r hi lo v i s).sil = s.sil := rfl
@[simp] theorem wrf_pkg (r : Reg) (hi lo v i : Nat) (s : State) : (wrf r hi lo v i s).pkg = s.pkg := rfl
@[simp] theorem wrf_tiles (r : Reg) (hi lo v i : Nat) (s : State) : (wrf r hi lo v i s).tiles = s.tiles := rfl
@[simp] theorem wrf_tlayers (r : Reg) (hi lo v i : Nat) (s : State) : (wrf r hi lo v i s).tlayers = s.tlayers := rfl
@[simp] theorem wrf_pools (r : Reg) (hi lo v i : Nat) (s : State) : (wrf r hi lo v i s).pools = s.pools := rfl
@[simp] theorem wrf_acc (r : Reg) (hi lo v i : Nat) (s : State) : (wrf r hi lo v i s).acc = s.acc := rfl
@[simp] theorem wrf_vready (r : Reg) (hi lo v i : Nat) (s : State) : (wrf r hi lo v i s).vready = s.vready := rfl
@[simp] theorem wrf_vheld (r : Reg) (hi lo v i : Nat) (s : State) : (wrf r hi lo v i s).vheld = s.vheld := rfl
@[simp] theorem wrf_poisonX (r : Reg) (hi lo v i : Nat) (s : State) : (wrf r hi lo v i s).poisonX = s.poisonX := rfl
@[simp] theorem wrf_lost (r : Reg) (hi lo v i : Nat) (s : State) : (wrf r hi lo v i s).lost = s.lost := rfl
@[simp] theorem wrf_dbg (r : Reg) (hi lo v i : Nat) (s : State) : (wrf r hi lo v i s).dbg = s.dbg := rfl
@[simp] theorem wrf_vctx (r : Reg) (hi lo v i : Nat) (s : State) : (wrf r hi lo v i s).vctx = s.vctx := rfl
@[simp] theorem wrf_vslots (r : Reg) (hi lo v i : Nat) (s : State) : (wrf r hi lo v i s).vslots = s.vslots := rfl
@[simp] theorem wrf_queues (r : Reg) (hi lo v i : Nat) (s : State) : (wrf r hi lo v i s).queues = s.queues := rfl
@[simp] theorem wrf_cmds (r : Reg) (hi lo v i : Nat) (s : State) : (wrf r hi lo v i s).cmds = s.cmds := rfl
@[simp] theorem wrf_ctxs (r : Reg) (hi lo v i : Nat) (s : State) : (wrf r hi lo v i s).ctxs = s.ctxs := rfl
@[simp] theorem wrf_seqs (r : Reg) (hi lo v i : Nat) (s : State) : (wrf r hi lo v i s).seqs = s.seqs := rfl
@[simp] theorem wrf_descs (r : Reg) (hi lo v i : Nat) (s : State) : (wrf r hi lo v i s).descs = s.descs := rfl
@[simp] theorem wrf_qps (r : Reg) (hi lo v i : Nat) (s : State) : (wrf r hi lo v i s).qps = s.qps := rfl
@[simp] theorem wrf_jobs (r : Reg) (hi lo v i : Nat) (s : State) : (wrf r hi lo v i s).jobs = s.jobs := rfl
@[simp] theorem wrf_asks (r : Reg) (hi lo v i : Nat) (s : State) : (wrf r hi lo v i s).asks = s.asks := rfl
@[simp] theorem wrf_ports (r : Reg) (hi lo v i : Nat) (s : State) : (wrf r hi lo v i s).ports = s.ports := rfl
@[simp] theorem wrf_cal (r : Reg) (hi lo v i : Nat) (s : State) : (wrf r hi lo v i s).cal = s.cal := rfl
@[simp] theorem wrf_clks (r : Reg) (hi lo v i : Nat) (s : State) : (wrf r hi lo v i s).clks = s.clks := rfl
@[simp] theorem wrf_board (r : Reg) (hi lo v i : Nat) (s : State) : (wrf r hi lo v i s).board = s.board := rfl
@[simp] theorem wrf_gov (r : Reg) (hi lo v i : Nat) (s : State) : (wrf r hi lo v i s).gov = s.gov := rfl
@[simp] theorem wrf_madc (r : Reg) (hi lo v i : Nat) (s : State) : (wrf r hi lo v i s).madc = s.madc := rfl
@[simp] theorem wrf_parts (r : Reg) (hi lo v i : Nat) (s : State) : (wrf r hi lo v i s).parts = s.parts := rfl

/-! `setEv` writes `regs` alone. -/

@[simp] theorem setEv_pending (r : Reg) (k i : Nat) (s : State) : (setEv r k i s).pending = s.pending := rfl
@[simp] theorem setEv_out (r : Reg) (k i : Nat) (s : State) : (setEv r k i s).out = s.out := rfl
@[simp] theorem setEv_now (r : Reg) (k i : Nat) (s : State) : (setEv r k i s).now = s.now := rfl
@[simp] theorem setEv_free (r : Reg) (k i : Nat) (s : State) : (setEv r k i s).free = s.free := rfl
@[simp] theorem setEv_fuses (r : Reg) (k i : Nat) (s : State) : (setEv r k i s).fuses = s.fuses := rfl
@[simp] theorem setEv_mem (r : Reg) (k i : Nat) (s : State) : (setEv r k i s).mem = s.mem := rfl
@[simp] theorem setEv_poison (r : Reg) (k i : Nat) (s : State) : (setEv r k i s).poison = s.poison := rfl
@[simp] theorem setEv_fns (r : Reg) (k i : Nat) (s : State) : (setEv r k i s).fns = s.fns := rfl
@[simp] theorem setEv_units (r : Reg) (k i : Nat) (s : State) : (setEv r k i s).units = s.units := rfl
@[simp] theorem setEv_crossings (r : Reg) (k i : Nat) (s : State) : (setEv r k i s).crossings = s.crossings := rfl
@[simp] theorem setEv_sil (r : Reg) (k i : Nat) (s : State) : (setEv r k i s).sil = s.sil := rfl
@[simp] theorem setEv_pkg (r : Reg) (k i : Nat) (s : State) : (setEv r k i s).pkg = s.pkg := rfl
@[simp] theorem setEv_tiles (r : Reg) (k i : Nat) (s : State) : (setEv r k i s).tiles = s.tiles := rfl
@[simp] theorem setEv_tlayers (r : Reg) (k i : Nat) (s : State) : (setEv r k i s).tlayers = s.tlayers := rfl
@[simp] theorem setEv_pools (r : Reg) (k i : Nat) (s : State) : (setEv r k i s).pools = s.pools := rfl
@[simp] theorem setEv_acc (r : Reg) (k i : Nat) (s : State) : (setEv r k i s).acc = s.acc := rfl
@[simp] theorem setEv_vready (r : Reg) (k i : Nat) (s : State) : (setEv r k i s).vready = s.vready := rfl
@[simp] theorem setEv_vheld (r : Reg) (k i : Nat) (s : State) : (setEv r k i s).vheld = s.vheld := rfl
@[simp] theorem setEv_poisonX (r : Reg) (k i : Nat) (s : State) : (setEv r k i s).poisonX = s.poisonX := rfl
@[simp] theorem setEv_lost (r : Reg) (k i : Nat) (s : State) : (setEv r k i s).lost = s.lost := rfl
@[simp] theorem setEv_dbg (r : Reg) (k i : Nat) (s : State) : (setEv r k i s).dbg = s.dbg := rfl
@[simp] theorem setEv_vctx (r : Reg) (k i : Nat) (s : State) : (setEv r k i s).vctx = s.vctx := rfl
@[simp] theorem setEv_vslots (r : Reg) (k i : Nat) (s : State) : (setEv r k i s).vslots = s.vslots := rfl
@[simp] theorem setEv_queues (r : Reg) (k i : Nat) (s : State) : (setEv r k i s).queues = s.queues := rfl
@[simp] theorem setEv_cmds (r : Reg) (k i : Nat) (s : State) : (setEv r k i s).cmds = s.cmds := rfl
@[simp] theorem setEv_ctxs (r : Reg) (k i : Nat) (s : State) : (setEv r k i s).ctxs = s.ctxs := rfl
@[simp] theorem setEv_seqs (r : Reg) (k i : Nat) (s : State) : (setEv r k i s).seqs = s.seqs := rfl
@[simp] theorem setEv_descs (r : Reg) (k i : Nat) (s : State) : (setEv r k i s).descs = s.descs := rfl
@[simp] theorem setEv_qps (r : Reg) (k i : Nat) (s : State) : (setEv r k i s).qps = s.qps := rfl
@[simp] theorem setEv_jobs (r : Reg) (k i : Nat) (s : State) : (setEv r k i s).jobs = s.jobs := rfl
@[simp] theorem setEv_asks (r : Reg) (k i : Nat) (s : State) : (setEv r k i s).asks = s.asks := rfl
@[simp] theorem setEv_ports (r : Reg) (k i : Nat) (s : State) : (setEv r k i s).ports = s.ports := rfl
@[simp] theorem setEv_cal (r : Reg) (k i : Nat) (s : State) : (setEv r k i s).cal = s.cal := rfl
@[simp] theorem setEv_clks (r : Reg) (k i : Nat) (s : State) : (setEv r k i s).clks = s.clks := rfl
@[simp] theorem setEv_board (r : Reg) (k i : Nat) (s : State) : (setEv r k i s).board = s.board := rfl
@[simp] theorem setEv_gov (r : Reg) (k i : Nat) (s : State) : (setEv r k i s).gov = s.gov := rfl
@[simp] theorem setEv_madc (r : Reg) (k i : Nat) (s : State) : (setEv r k i s).madc = s.madc := rfl
@[simp] theorem setEv_parts (r : Reg) (k i : Nat) (s : State) : (setEv r k i s).parts = s.parts := rfl

/-! `bump` writes `regs` alone. -/

@[simp] theorem bump_pending (r : Reg) (n i : Nat) (s : State) : (bump r n i s).pending = s.pending := rfl
@[simp] theorem bump_out (r : Reg) (n i : Nat) (s : State) : (bump r n i s).out = s.out := rfl
@[simp] theorem bump_now (r : Reg) (n i : Nat) (s : State) : (bump r n i s).now = s.now := rfl
@[simp] theorem bump_free (r : Reg) (n i : Nat) (s : State) : (bump r n i s).free = s.free := rfl
@[simp] theorem bump_fuses (r : Reg) (n i : Nat) (s : State) : (bump r n i s).fuses = s.fuses := rfl
@[simp] theorem bump_mem (r : Reg) (n i : Nat) (s : State) : (bump r n i s).mem = s.mem := rfl
@[simp] theorem bump_poison (r : Reg) (n i : Nat) (s : State) : (bump r n i s).poison = s.poison := rfl
@[simp] theorem bump_fns (r : Reg) (n i : Nat) (s : State) : (bump r n i s).fns = s.fns := rfl
@[simp] theorem bump_units (r : Reg) (n i : Nat) (s : State) : (bump r n i s).units = s.units := rfl
@[simp] theorem bump_crossings (r : Reg) (n i : Nat) (s : State) : (bump r n i s).crossings = s.crossings := rfl
@[simp] theorem bump_sil (r : Reg) (n i : Nat) (s : State) : (bump r n i s).sil = s.sil := rfl
@[simp] theorem bump_pkg (r : Reg) (n i : Nat) (s : State) : (bump r n i s).pkg = s.pkg := rfl
@[simp] theorem bump_tiles (r : Reg) (n i : Nat) (s : State) : (bump r n i s).tiles = s.tiles := rfl
@[simp] theorem bump_tlayers (r : Reg) (n i : Nat) (s : State) : (bump r n i s).tlayers = s.tlayers := rfl
@[simp] theorem bump_pools (r : Reg) (n i : Nat) (s : State) : (bump r n i s).pools = s.pools := rfl
@[simp] theorem bump_acc (r : Reg) (n i : Nat) (s : State) : (bump r n i s).acc = s.acc := rfl
@[simp] theorem bump_vready (r : Reg) (n i : Nat) (s : State) : (bump r n i s).vready = s.vready := rfl
@[simp] theorem bump_vheld (r : Reg) (n i : Nat) (s : State) : (bump r n i s).vheld = s.vheld := rfl
@[simp] theorem bump_poisonX (r : Reg) (n i : Nat) (s : State) : (bump r n i s).poisonX = s.poisonX := rfl
@[simp] theorem bump_lost (r : Reg) (n i : Nat) (s : State) : (bump r n i s).lost = s.lost := rfl
@[simp] theorem bump_dbg (r : Reg) (n i : Nat) (s : State) : (bump r n i s).dbg = s.dbg := rfl
@[simp] theorem bump_vctx (r : Reg) (n i : Nat) (s : State) : (bump r n i s).vctx = s.vctx := rfl
@[simp] theorem bump_vslots (r : Reg) (n i : Nat) (s : State) : (bump r n i s).vslots = s.vslots := rfl
@[simp] theorem bump_queues (r : Reg) (n i : Nat) (s : State) : (bump r n i s).queues = s.queues := rfl
@[simp] theorem bump_cmds (r : Reg) (n i : Nat) (s : State) : (bump r n i s).cmds = s.cmds := rfl
@[simp] theorem bump_ctxs (r : Reg) (n i : Nat) (s : State) : (bump r n i s).ctxs = s.ctxs := rfl
@[simp] theorem bump_seqs (r : Reg) (n i : Nat) (s : State) : (bump r n i s).seqs = s.seqs := rfl
@[simp] theorem bump_descs (r : Reg) (n i : Nat) (s : State) : (bump r n i s).descs = s.descs := rfl
@[simp] theorem bump_qps (r : Reg) (n i : Nat) (s : State) : (bump r n i s).qps = s.qps := rfl
@[simp] theorem bump_jobs (r : Reg) (n i : Nat) (s : State) : (bump r n i s).jobs = s.jobs := rfl
@[simp] theorem bump_asks (r : Reg) (n i : Nat) (s : State) : (bump r n i s).asks = s.asks := rfl
@[simp] theorem bump_ports (r : Reg) (n i : Nat) (s : State) : (bump r n i s).ports = s.ports := rfl
@[simp] theorem bump_cal (r : Reg) (n i : Nat) (s : State) : (bump r n i s).cal = s.cal := rfl
@[simp] theorem bump_clks (r : Reg) (n i : Nat) (s : State) : (bump r n i s).clks = s.clks := rfl
@[simp] theorem bump_board (r : Reg) (n i : Nat) (s : State) : (bump r n i s).board = s.board := rfl
@[simp] theorem bump_gov (r : Reg) (n i : Nat) (s : State) : (bump r n i s).gov = s.gov := rfl
@[simp] theorem bump_madc (r : Reg) (n i : Nat) (s : State) : (bump r n i s).madc = s.madc := rfl
@[simp] theorem bump_parts (r : Reg) (n i : Nat) (s : State) : (bump r n i s).parts = s.parts := rfl

/-! `bumpSat` writes `regs` alone. -/

@[simp] theorem bumpSat_pending (r : Reg) (hi lo n i : Nat) (s : State) : (bumpSat r hi lo n i s).pending = s.pending := rfl
@[simp] theorem bumpSat_out (r : Reg) (hi lo n i : Nat) (s : State) : (bumpSat r hi lo n i s).out = s.out := rfl
@[simp] theorem bumpSat_now (r : Reg) (hi lo n i : Nat) (s : State) : (bumpSat r hi lo n i s).now = s.now := rfl
@[simp] theorem bumpSat_free (r : Reg) (hi lo n i : Nat) (s : State) : (bumpSat r hi lo n i s).free = s.free := rfl
@[simp] theorem bumpSat_fuses (r : Reg) (hi lo n i : Nat) (s : State) : (bumpSat r hi lo n i s).fuses = s.fuses := rfl
@[simp] theorem bumpSat_mem (r : Reg) (hi lo n i : Nat) (s : State) : (bumpSat r hi lo n i s).mem = s.mem := rfl
@[simp] theorem bumpSat_poison (r : Reg) (hi lo n i : Nat) (s : State) : (bumpSat r hi lo n i s).poison = s.poison := rfl
@[simp] theorem bumpSat_fns (r : Reg) (hi lo n i : Nat) (s : State) : (bumpSat r hi lo n i s).fns = s.fns := rfl
@[simp] theorem bumpSat_units (r : Reg) (hi lo n i : Nat) (s : State) : (bumpSat r hi lo n i s).units = s.units := rfl
@[simp] theorem bumpSat_crossings (r : Reg) (hi lo n i : Nat) (s : State) : (bumpSat r hi lo n i s).crossings = s.crossings := rfl
@[simp] theorem bumpSat_sil (r : Reg) (hi lo n i : Nat) (s : State) : (bumpSat r hi lo n i s).sil = s.sil := rfl
@[simp] theorem bumpSat_pkg (r : Reg) (hi lo n i : Nat) (s : State) : (bumpSat r hi lo n i s).pkg = s.pkg := rfl
@[simp] theorem bumpSat_tiles (r : Reg) (hi lo n i : Nat) (s : State) : (bumpSat r hi lo n i s).tiles = s.tiles := rfl
@[simp] theorem bumpSat_tlayers (r : Reg) (hi lo n i : Nat) (s : State) : (bumpSat r hi lo n i s).tlayers = s.tlayers := rfl
@[simp] theorem bumpSat_pools (r : Reg) (hi lo n i : Nat) (s : State) : (bumpSat r hi lo n i s).pools = s.pools := rfl
@[simp] theorem bumpSat_acc (r : Reg) (hi lo n i : Nat) (s : State) : (bumpSat r hi lo n i s).acc = s.acc := rfl
@[simp] theorem bumpSat_vready (r : Reg) (hi lo n i : Nat) (s : State) : (bumpSat r hi lo n i s).vready = s.vready := rfl
@[simp] theorem bumpSat_vheld (r : Reg) (hi lo n i : Nat) (s : State) : (bumpSat r hi lo n i s).vheld = s.vheld := rfl
@[simp] theorem bumpSat_poisonX (r : Reg) (hi lo n i : Nat) (s : State) : (bumpSat r hi lo n i s).poisonX = s.poisonX := rfl
@[simp] theorem bumpSat_lost (r : Reg) (hi lo n i : Nat) (s : State) : (bumpSat r hi lo n i s).lost = s.lost := rfl
@[simp] theorem bumpSat_dbg (r : Reg) (hi lo n i : Nat) (s : State) : (bumpSat r hi lo n i s).dbg = s.dbg := rfl
@[simp] theorem bumpSat_vctx (r : Reg) (hi lo n i : Nat) (s : State) : (bumpSat r hi lo n i s).vctx = s.vctx := rfl
@[simp] theorem bumpSat_vslots (r : Reg) (hi lo n i : Nat) (s : State) : (bumpSat r hi lo n i s).vslots = s.vslots := rfl
@[simp] theorem bumpSat_queues (r : Reg) (hi lo n i : Nat) (s : State) : (bumpSat r hi lo n i s).queues = s.queues := rfl
@[simp] theorem bumpSat_cmds (r : Reg) (hi lo n i : Nat) (s : State) : (bumpSat r hi lo n i s).cmds = s.cmds := rfl
@[simp] theorem bumpSat_ctxs (r : Reg) (hi lo n i : Nat) (s : State) : (bumpSat r hi lo n i s).ctxs = s.ctxs := rfl
@[simp] theorem bumpSat_seqs (r : Reg) (hi lo n i : Nat) (s : State) : (bumpSat r hi lo n i s).seqs = s.seqs := rfl
@[simp] theorem bumpSat_descs (r : Reg) (hi lo n i : Nat) (s : State) : (bumpSat r hi lo n i s).descs = s.descs := rfl
@[simp] theorem bumpSat_qps (r : Reg) (hi lo n i : Nat) (s : State) : (bumpSat r hi lo n i s).qps = s.qps := rfl
@[simp] theorem bumpSat_jobs (r : Reg) (hi lo n i : Nat) (s : State) : (bumpSat r hi lo n i s).jobs = s.jobs := rfl
@[simp] theorem bumpSat_asks (r : Reg) (hi lo n i : Nat) (s : State) : (bumpSat r hi lo n i s).asks = s.asks := rfl
@[simp] theorem bumpSat_ports (r : Reg) (hi lo n i : Nat) (s : State) : (bumpSat r hi lo n i s).ports = s.ports := rfl
@[simp] theorem bumpSat_cal (r : Reg) (hi lo n i : Nat) (s : State) : (bumpSat r hi lo n i s).cal = s.cal := rfl
@[simp] theorem bumpSat_clks (r : Reg) (hi lo n i : Nat) (s : State) : (bumpSat r hi lo n i s).clks = s.clks := rfl
@[simp] theorem bumpSat_board (r : Reg) (hi lo n i : Nat) (s : State) : (bumpSat r hi lo n i s).board = s.board := rfl
@[simp] theorem bumpSat_gov (r : Reg) (hi lo n i : Nat) (s : State) : (bumpSat r hi lo n i s).gov = s.gov := rfl
@[simp] theorem bumpSat_madc (r : Reg) (hi lo n i : Nat) (s : State) : (bumpSat r hi lo n i s).madc = s.madc := rfl
@[simp] theorem bumpSat_parts (r : Reg) (hi lo n i : Nat) (s : State) : (bumpSat r hi lo n i s).parts = s.parts := rfl

/-! `bump64` writes `regs` alone. -/

@[simp] theorem bump64_pending (lo hi : Reg) (n i : Nat) (s : State) : (bump64 lo hi n i s).pending = s.pending := rfl
@[simp] theorem bump64_out (lo hi : Reg) (n i : Nat) (s : State) : (bump64 lo hi n i s).out = s.out := rfl
@[simp] theorem bump64_now (lo hi : Reg) (n i : Nat) (s : State) : (bump64 lo hi n i s).now = s.now := rfl
@[simp] theorem bump64_free (lo hi : Reg) (n i : Nat) (s : State) : (bump64 lo hi n i s).free = s.free := rfl
@[simp] theorem bump64_fuses (lo hi : Reg) (n i : Nat) (s : State) : (bump64 lo hi n i s).fuses = s.fuses := rfl
@[simp] theorem bump64_mem (lo hi : Reg) (n i : Nat) (s : State) : (bump64 lo hi n i s).mem = s.mem := rfl
@[simp] theorem bump64_poison (lo hi : Reg) (n i : Nat) (s : State) : (bump64 lo hi n i s).poison = s.poison := rfl
@[simp] theorem bump64_fns (lo hi : Reg) (n i : Nat) (s : State) : (bump64 lo hi n i s).fns = s.fns := rfl
@[simp] theorem bump64_units (lo hi : Reg) (n i : Nat) (s : State) : (bump64 lo hi n i s).units = s.units := rfl
@[simp] theorem bump64_crossings (lo hi : Reg) (n i : Nat) (s : State) : (bump64 lo hi n i s).crossings = s.crossings := rfl
@[simp] theorem bump64_sil (lo hi : Reg) (n i : Nat) (s : State) : (bump64 lo hi n i s).sil = s.sil := rfl
@[simp] theorem bump64_pkg (lo hi : Reg) (n i : Nat) (s : State) : (bump64 lo hi n i s).pkg = s.pkg := rfl
@[simp] theorem bump64_tiles (lo hi : Reg) (n i : Nat) (s : State) : (bump64 lo hi n i s).tiles = s.tiles := rfl
@[simp] theorem bump64_tlayers (lo hi : Reg) (n i : Nat) (s : State) : (bump64 lo hi n i s).tlayers = s.tlayers := rfl
@[simp] theorem bump64_pools (lo hi : Reg) (n i : Nat) (s : State) : (bump64 lo hi n i s).pools = s.pools := rfl
@[simp] theorem bump64_acc (lo hi : Reg) (n i : Nat) (s : State) : (bump64 lo hi n i s).acc = s.acc := rfl
@[simp] theorem bump64_vready (lo hi : Reg) (n i : Nat) (s : State) : (bump64 lo hi n i s).vready = s.vready := rfl
@[simp] theorem bump64_vheld (lo hi : Reg) (n i : Nat) (s : State) : (bump64 lo hi n i s).vheld = s.vheld := rfl
@[simp] theorem bump64_poisonX (lo hi : Reg) (n i : Nat) (s : State) : (bump64 lo hi n i s).poisonX = s.poisonX := rfl
@[simp] theorem bump64_lost (lo hi : Reg) (n i : Nat) (s : State) : (bump64 lo hi n i s).lost = s.lost := rfl
@[simp] theorem bump64_dbg (lo hi : Reg) (n i : Nat) (s : State) : (bump64 lo hi n i s).dbg = s.dbg := rfl
@[simp] theorem bump64_vctx (lo hi : Reg) (n i : Nat) (s : State) : (bump64 lo hi n i s).vctx = s.vctx := rfl
@[simp] theorem bump64_vslots (lo hi : Reg) (n i : Nat) (s : State) : (bump64 lo hi n i s).vslots = s.vslots := rfl
@[simp] theorem bump64_queues (lo hi : Reg) (n i : Nat) (s : State) : (bump64 lo hi n i s).queues = s.queues := rfl
@[simp] theorem bump64_cmds (lo hi : Reg) (n i : Nat) (s : State) : (bump64 lo hi n i s).cmds = s.cmds := rfl
@[simp] theorem bump64_ctxs (lo hi : Reg) (n i : Nat) (s : State) : (bump64 lo hi n i s).ctxs = s.ctxs := rfl
@[simp] theorem bump64_seqs (lo hi : Reg) (n i : Nat) (s : State) : (bump64 lo hi n i s).seqs = s.seqs := rfl
@[simp] theorem bump64_descs (lo hi : Reg) (n i : Nat) (s : State) : (bump64 lo hi n i s).descs = s.descs := rfl
@[simp] theorem bump64_qps (lo hi : Reg) (n i : Nat) (s : State) : (bump64 lo hi n i s).qps = s.qps := rfl
@[simp] theorem bump64_jobs (lo hi : Reg) (n i : Nat) (s : State) : (bump64 lo hi n i s).jobs = s.jobs := rfl
@[simp] theorem bump64_asks (lo hi : Reg) (n i : Nat) (s : State) : (bump64 lo hi n i s).asks = s.asks := rfl
@[simp] theorem bump64_ports (lo hi : Reg) (n i : Nat) (s : State) : (bump64 lo hi n i s).ports = s.ports := rfl
@[simp] theorem bump64_cal (lo hi : Reg) (n i : Nat) (s : State) : (bump64 lo hi n i s).cal = s.cal := rfl
@[simp] theorem bump64_clks (lo hi : Reg) (n i : Nat) (s : State) : (bump64 lo hi n i s).clks = s.clks := rfl
@[simp] theorem bump64_board (lo hi : Reg) (n i : Nat) (s : State) : (bump64 lo hi n i s).board = s.board := rfl
@[simp] theorem bump64_gov (lo hi : Reg) (n i : Nat) (s : State) : (bump64 lo hi n i s).gov = s.gov := rfl
@[simp] theorem bump64_madc (lo hi : Reg) (n i : Nat) (s : State) : (bump64 lo hi n i s).madc = s.madc := rfl
@[simp] theorem bump64_parts (lo hi : Reg) (n i : Nat) (s : State) : (bump64 lo hi n i s).parts = s.parts := rfl

/-! `emit` writes `out` alone. -/

@[simp] theorem emit_pending (m : Msg) (s : State) : (emit m s).pending = s.pending := rfl
@[simp] theorem emit_now (m : Msg) (s : State) : (emit m s).now = s.now := rfl
@[simp] theorem emit_free (m : Msg) (s : State) : (emit m s).free = s.free := rfl
@[simp] theorem emit_fuses (m : Msg) (s : State) : (emit m s).fuses = s.fuses := rfl
@[simp] theorem emit_regs (m : Msg) (s : State) : (emit m s).regs = s.regs := rfl
@[simp] theorem emit_mem (m : Msg) (s : State) : (emit m s).mem = s.mem := rfl
@[simp] theorem emit_poison (m : Msg) (s : State) : (emit m s).poison = s.poison := rfl
@[simp] theorem emit_fns (m : Msg) (s : State) : (emit m s).fns = s.fns := rfl
@[simp] theorem emit_units (m : Msg) (s : State) : (emit m s).units = s.units := rfl
@[simp] theorem emit_crossings (m : Msg) (s : State) : (emit m s).crossings = s.crossings := rfl
@[simp] theorem emit_sil (m : Msg) (s : State) : (emit m s).sil = s.sil := rfl
@[simp] theorem emit_pkg (m : Msg) (s : State) : (emit m s).pkg = s.pkg := rfl
@[simp] theorem emit_tiles (m : Msg) (s : State) : (emit m s).tiles = s.tiles := rfl
@[simp] theorem emit_tlayers (m : Msg) (s : State) : (emit m s).tlayers = s.tlayers := rfl
@[simp] theorem emit_pools (m : Msg) (s : State) : (emit m s).pools = s.pools := rfl
@[simp] theorem emit_acc (m : Msg) (s : State) : (emit m s).acc = s.acc := rfl
@[simp] theorem emit_vready (m : Msg) (s : State) : (emit m s).vready = s.vready := rfl
@[simp] theorem emit_vheld (m : Msg) (s : State) : (emit m s).vheld = s.vheld := rfl
@[simp] theorem emit_poisonX (m : Msg) (s : State) : (emit m s).poisonX = s.poisonX := rfl
@[simp] theorem emit_lost (m : Msg) (s : State) : (emit m s).lost = s.lost := rfl
@[simp] theorem emit_dbg (m : Msg) (s : State) : (emit m s).dbg = s.dbg := rfl
@[simp] theorem emit_vctx (m : Msg) (s : State) : (emit m s).vctx = s.vctx := rfl
@[simp] theorem emit_vslots (m : Msg) (s : State) : (emit m s).vslots = s.vslots := rfl
@[simp] theorem emit_queues (m : Msg) (s : State) : (emit m s).queues = s.queues := rfl
@[simp] theorem emit_cmds (m : Msg) (s : State) : (emit m s).cmds = s.cmds := rfl
@[simp] theorem emit_ctxs (m : Msg) (s : State) : (emit m s).ctxs = s.ctxs := rfl
@[simp] theorem emit_seqs (m : Msg) (s : State) : (emit m s).seqs = s.seqs := rfl
@[simp] theorem emit_descs (m : Msg) (s : State) : (emit m s).descs = s.descs := rfl
@[simp] theorem emit_qps (m : Msg) (s : State) : (emit m s).qps = s.qps := rfl
@[simp] theorem emit_jobs (m : Msg) (s : State) : (emit m s).jobs = s.jobs := rfl
@[simp] theorem emit_asks (m : Msg) (s : State) : (emit m s).asks = s.asks := rfl
@[simp] theorem emit_ports (m : Msg) (s : State) : (emit m s).ports = s.ports := rfl
@[simp] theorem emit_cal (m : Msg) (s : State) : (emit m s).cal = s.cal := rfl
@[simp] theorem emit_clks (m : Msg) (s : State) : (emit m s).clks = s.clks := rfl
@[simp] theorem emit_board (m : Msg) (s : State) : (emit m s).board = s.board := rfl
@[simp] theorem emit_gov (m : Msg) (s : State) : (emit m s).gov = s.gov := rfl
@[simp] theorem emit_madc (m : Msg) (s : State) : (emit m s).madc = s.madc := rfl
@[simp] theorem emit_parts (m : Msg) (s : State) : (emit m s).parts = s.parts := rfl

/-! `wrByte` writes `mem` alone. -/

@[simp] theorem wrByte_pending (a : Nat) (b : Byte) (s : State) : (wrByte a b s).pending = s.pending := rfl
@[simp] theorem wrByte_out (a : Nat) (b : Byte) (s : State) : (wrByte a b s).out = s.out := rfl
@[simp] theorem wrByte_now (a : Nat) (b : Byte) (s : State) : (wrByte a b s).now = s.now := rfl
@[simp] theorem wrByte_free (a : Nat) (b : Byte) (s : State) : (wrByte a b s).free = s.free := rfl
@[simp] theorem wrByte_fuses (a : Nat) (b : Byte) (s : State) : (wrByte a b s).fuses = s.fuses := rfl
@[simp] theorem wrByte_regs (a : Nat) (b : Byte) (s : State) : (wrByte a b s).regs = s.regs := rfl
@[simp] theorem wrByte_poison (a : Nat) (b : Byte) (s : State) : (wrByte a b s).poison = s.poison := rfl
@[simp] theorem wrByte_fns (a : Nat) (b : Byte) (s : State) : (wrByte a b s).fns = s.fns := rfl
@[simp] theorem wrByte_units (a : Nat) (b : Byte) (s : State) : (wrByte a b s).units = s.units := rfl
@[simp] theorem wrByte_crossings (a : Nat) (b : Byte) (s : State) : (wrByte a b s).crossings = s.crossings := rfl
@[simp] theorem wrByte_sil (a : Nat) (b : Byte) (s : State) : (wrByte a b s).sil = s.sil := rfl
@[simp] theorem wrByte_pkg (a : Nat) (b : Byte) (s : State) : (wrByte a b s).pkg = s.pkg := rfl
@[simp] theorem wrByte_tiles (a : Nat) (b : Byte) (s : State) : (wrByte a b s).tiles = s.tiles := rfl
@[simp] theorem wrByte_tlayers (a : Nat) (b : Byte) (s : State) : (wrByte a b s).tlayers = s.tlayers := rfl
@[simp] theorem wrByte_pools (a : Nat) (b : Byte) (s : State) : (wrByte a b s).pools = s.pools := rfl
@[simp] theorem wrByte_acc (a : Nat) (b : Byte) (s : State) : (wrByte a b s).acc = s.acc := rfl
@[simp] theorem wrByte_vready (a : Nat) (b : Byte) (s : State) : (wrByte a b s).vready = s.vready := rfl
@[simp] theorem wrByte_vheld (a : Nat) (b : Byte) (s : State) : (wrByte a b s).vheld = s.vheld := rfl
@[simp] theorem wrByte_poisonX (a : Nat) (b : Byte) (s : State) : (wrByte a b s).poisonX = s.poisonX := rfl
@[simp] theorem wrByte_lost (a : Nat) (b : Byte) (s : State) : (wrByte a b s).lost = s.lost := rfl
@[simp] theorem wrByte_dbg (a : Nat) (b : Byte) (s : State) : (wrByte a b s).dbg = s.dbg := rfl
@[simp] theorem wrByte_vctx (a : Nat) (b : Byte) (s : State) : (wrByte a b s).vctx = s.vctx := rfl
@[simp] theorem wrByte_vslots (a : Nat) (b : Byte) (s : State) : (wrByte a b s).vslots = s.vslots := rfl
@[simp] theorem wrByte_queues (a : Nat) (b : Byte) (s : State) : (wrByte a b s).queues = s.queues := rfl
@[simp] theorem wrByte_cmds (a : Nat) (b : Byte) (s : State) : (wrByte a b s).cmds = s.cmds := rfl
@[simp] theorem wrByte_ctxs (a : Nat) (b : Byte) (s : State) : (wrByte a b s).ctxs = s.ctxs := rfl
@[simp] theorem wrByte_seqs (a : Nat) (b : Byte) (s : State) : (wrByte a b s).seqs = s.seqs := rfl
@[simp] theorem wrByte_descs (a : Nat) (b : Byte) (s : State) : (wrByte a b s).descs = s.descs := rfl
@[simp] theorem wrByte_qps (a : Nat) (b : Byte) (s : State) : (wrByte a b s).qps = s.qps := rfl
@[simp] theorem wrByte_jobs (a : Nat) (b : Byte) (s : State) : (wrByte a b s).jobs = s.jobs := rfl
@[simp] theorem wrByte_asks (a : Nat) (b : Byte) (s : State) : (wrByte a b s).asks = s.asks := rfl
@[simp] theorem wrByte_ports (a : Nat) (b : Byte) (s : State) : (wrByte a b s).ports = s.ports := rfl
@[simp] theorem wrByte_cal (a : Nat) (b : Byte) (s : State) : (wrByte a b s).cal = s.cal := rfl
@[simp] theorem wrByte_clks (a : Nat) (b : Byte) (s : State) : (wrByte a b s).clks = s.clks := rfl
@[simp] theorem wrByte_board (a : Nat) (b : Byte) (s : State) : (wrByte a b s).board = s.board := rfl
@[simp] theorem wrByte_gov (a : Nat) (b : Byte) (s : State) : (wrByte a b s).gov = s.gov := rfl
@[simp] theorem wrByte_madc (a : Nat) (b : Byte) (s : State) : (wrByte a b s).madc = s.madc := rfl
@[simp] theorem wrByte_parts (a : Nat) (b : Byte) (s : State) : (wrByte a b s).parts = s.parts := rfl

/-! `modUnit` writes `units` alone. -/

@[simp] theorem modUnit_pending (k i : Nat) (f : FUnit → FUnit) (s : State) : (modUnit k i f s).pending = s.pending := rfl
@[simp] theorem modUnit_out (k i : Nat) (f : FUnit → FUnit) (s : State) : (modUnit k i f s).out = s.out := rfl
@[simp] theorem modUnit_now (k i : Nat) (f : FUnit → FUnit) (s : State) : (modUnit k i f s).now = s.now := rfl
@[simp] theorem modUnit_free (k i : Nat) (f : FUnit → FUnit) (s : State) : (modUnit k i f s).free = s.free := rfl
@[simp] theorem modUnit_fuses (k i : Nat) (f : FUnit → FUnit) (s : State) : (modUnit k i f s).fuses = s.fuses := rfl
@[simp] theorem modUnit_regs (k i : Nat) (f : FUnit → FUnit) (s : State) : (modUnit k i f s).regs = s.regs := rfl
@[simp] theorem modUnit_mem (k i : Nat) (f : FUnit → FUnit) (s : State) : (modUnit k i f s).mem = s.mem := rfl
@[simp] theorem modUnit_poison (k i : Nat) (f : FUnit → FUnit) (s : State) : (modUnit k i f s).poison = s.poison := rfl
@[simp] theorem modUnit_fns (k i : Nat) (f : FUnit → FUnit) (s : State) : (modUnit k i f s).fns = s.fns := rfl
@[simp] theorem modUnit_crossings (k i : Nat) (f : FUnit → FUnit) (s : State) : (modUnit k i f s).crossings = s.crossings := rfl
@[simp] theorem modUnit_sil (k i : Nat) (f : FUnit → FUnit) (s : State) : (modUnit k i f s).sil = s.sil := rfl
@[simp] theorem modUnit_pkg (k i : Nat) (f : FUnit → FUnit) (s : State) : (modUnit k i f s).pkg = s.pkg := rfl
@[simp] theorem modUnit_tiles (k i : Nat) (f : FUnit → FUnit) (s : State) : (modUnit k i f s).tiles = s.tiles := rfl
@[simp] theorem modUnit_tlayers (k i : Nat) (f : FUnit → FUnit) (s : State) : (modUnit k i f s).tlayers = s.tlayers := rfl
@[simp] theorem modUnit_pools (k i : Nat) (f : FUnit → FUnit) (s : State) : (modUnit k i f s).pools = s.pools := rfl
@[simp] theorem modUnit_acc (k i : Nat) (f : FUnit → FUnit) (s : State) : (modUnit k i f s).acc = s.acc := rfl
@[simp] theorem modUnit_vready (k i : Nat) (f : FUnit → FUnit) (s : State) : (modUnit k i f s).vready = s.vready := rfl
@[simp] theorem modUnit_vheld (k i : Nat) (f : FUnit → FUnit) (s : State) : (modUnit k i f s).vheld = s.vheld := rfl
@[simp] theorem modUnit_poisonX (k i : Nat) (f : FUnit → FUnit) (s : State) : (modUnit k i f s).poisonX = s.poisonX := rfl
@[simp] theorem modUnit_lost (k i : Nat) (f : FUnit → FUnit) (s : State) : (modUnit k i f s).lost = s.lost := rfl
@[simp] theorem modUnit_dbg (k i : Nat) (f : FUnit → FUnit) (s : State) : (modUnit k i f s).dbg = s.dbg := rfl
@[simp] theorem modUnit_vctx (k i : Nat) (f : FUnit → FUnit) (s : State) : (modUnit k i f s).vctx = s.vctx := rfl
@[simp] theorem modUnit_vslots (k i : Nat) (f : FUnit → FUnit) (s : State) : (modUnit k i f s).vslots = s.vslots := rfl
@[simp] theorem modUnit_queues (k i : Nat) (f : FUnit → FUnit) (s : State) : (modUnit k i f s).queues = s.queues := rfl
@[simp] theorem modUnit_cmds (k i : Nat) (f : FUnit → FUnit) (s : State) : (modUnit k i f s).cmds = s.cmds := rfl
@[simp] theorem modUnit_ctxs (k i : Nat) (f : FUnit → FUnit) (s : State) : (modUnit k i f s).ctxs = s.ctxs := rfl
@[simp] theorem modUnit_seqs (k i : Nat) (f : FUnit → FUnit) (s : State) : (modUnit k i f s).seqs = s.seqs := rfl
@[simp] theorem modUnit_descs (k i : Nat) (f : FUnit → FUnit) (s : State) : (modUnit k i f s).descs = s.descs := rfl
@[simp] theorem modUnit_qps (k i : Nat) (f : FUnit → FUnit) (s : State) : (modUnit k i f s).qps = s.qps := rfl
@[simp] theorem modUnit_jobs (k i : Nat) (f : FUnit → FUnit) (s : State) : (modUnit k i f s).jobs = s.jobs := rfl
@[simp] theorem modUnit_asks (k i : Nat) (f : FUnit → FUnit) (s : State) : (modUnit k i f s).asks = s.asks := rfl
@[simp] theorem modUnit_ports (k i : Nat) (f : FUnit → FUnit) (s : State) : (modUnit k i f s).ports = s.ports := rfl
@[simp] theorem modUnit_cal (k i : Nat) (f : FUnit → FUnit) (s : State) : (modUnit k i f s).cal = s.cal := rfl
@[simp] theorem modUnit_clks (k i : Nat) (f : FUnit → FUnit) (s : State) : (modUnit k i f s).clks = s.clks := rfl
@[simp] theorem modUnit_board (k i : Nat) (f : FUnit → FUnit) (s : State) : (modUnit k i f s).board = s.board := rfl
@[simp] theorem modUnit_gov (k i : Nat) (f : FUnit → FUnit) (s : State) : (modUnit k i f s).gov = s.gov := rfl
@[simp] theorem modUnit_madc (k i : Nat) (f : FUnit → FUnit) (s : State) : (modUnit k i f s).madc = s.madc := rfl
@[simp] theorem modUnit_parts (k i : Nat) (f : FUnit → FUnit) (s : State) : (modUnit k i f s).parts = s.parts := rfl

/-! `modFn` writes `fns` alone. -/

@[simp] theorem modFn_pending (n : Nat) (f : Fn → Fn) (s : State) : (modFn n f s).pending = s.pending := rfl
@[simp] theorem modFn_out (n : Nat) (f : Fn → Fn) (s : State) : (modFn n f s).out = s.out := rfl
@[simp] theorem modFn_now (n : Nat) (f : Fn → Fn) (s : State) : (modFn n f s).now = s.now := rfl
@[simp] theorem modFn_free (n : Nat) (f : Fn → Fn) (s : State) : (modFn n f s).free = s.free := rfl
@[simp] theorem modFn_fuses (n : Nat) (f : Fn → Fn) (s : State) : (modFn n f s).fuses = s.fuses := rfl
@[simp] theorem modFn_regs (n : Nat) (f : Fn → Fn) (s : State) : (modFn n f s).regs = s.regs := rfl
@[simp] theorem modFn_mem (n : Nat) (f : Fn → Fn) (s : State) : (modFn n f s).mem = s.mem := rfl
@[simp] theorem modFn_poison (n : Nat) (f : Fn → Fn) (s : State) : (modFn n f s).poison = s.poison := rfl
@[simp] theorem modFn_units (n : Nat) (f : Fn → Fn) (s : State) : (modFn n f s).units = s.units := rfl
@[simp] theorem modFn_crossings (n : Nat) (f : Fn → Fn) (s : State) : (modFn n f s).crossings = s.crossings := rfl
@[simp] theorem modFn_sil (n : Nat) (f : Fn → Fn) (s : State) : (modFn n f s).sil = s.sil := rfl
@[simp] theorem modFn_pkg (n : Nat) (f : Fn → Fn) (s : State) : (modFn n f s).pkg = s.pkg := rfl
@[simp] theorem modFn_tiles (n : Nat) (f : Fn → Fn) (s : State) : (modFn n f s).tiles = s.tiles := rfl
@[simp] theorem modFn_tlayers (n : Nat) (f : Fn → Fn) (s : State) : (modFn n f s).tlayers = s.tlayers := rfl
@[simp] theorem modFn_pools (n : Nat) (f : Fn → Fn) (s : State) : (modFn n f s).pools = s.pools := rfl
@[simp] theorem modFn_acc (n : Nat) (f : Fn → Fn) (s : State) : (modFn n f s).acc = s.acc := rfl
@[simp] theorem modFn_vready (n : Nat) (f : Fn → Fn) (s : State) : (modFn n f s).vready = s.vready := rfl
@[simp] theorem modFn_vheld (n : Nat) (f : Fn → Fn) (s : State) : (modFn n f s).vheld = s.vheld := rfl
@[simp] theorem modFn_poisonX (n : Nat) (f : Fn → Fn) (s : State) : (modFn n f s).poisonX = s.poisonX := rfl
@[simp] theorem modFn_lost (n : Nat) (f : Fn → Fn) (s : State) : (modFn n f s).lost = s.lost := rfl
@[simp] theorem modFn_dbg (n : Nat) (f : Fn → Fn) (s : State) : (modFn n f s).dbg = s.dbg := rfl
@[simp] theorem modFn_vctx (n : Nat) (f : Fn → Fn) (s : State) : (modFn n f s).vctx = s.vctx := rfl
@[simp] theorem modFn_vslots (n : Nat) (f : Fn → Fn) (s : State) : (modFn n f s).vslots = s.vslots := rfl
@[simp] theorem modFn_queues (n : Nat) (f : Fn → Fn) (s : State) : (modFn n f s).queues = s.queues := rfl
@[simp] theorem modFn_cmds (n : Nat) (f : Fn → Fn) (s : State) : (modFn n f s).cmds = s.cmds := rfl
@[simp] theorem modFn_ctxs (n : Nat) (f : Fn → Fn) (s : State) : (modFn n f s).ctxs = s.ctxs := rfl
@[simp] theorem modFn_seqs (n : Nat) (f : Fn → Fn) (s : State) : (modFn n f s).seqs = s.seqs := rfl
@[simp] theorem modFn_descs (n : Nat) (f : Fn → Fn) (s : State) : (modFn n f s).descs = s.descs := rfl
@[simp] theorem modFn_qps (n : Nat) (f : Fn → Fn) (s : State) : (modFn n f s).qps = s.qps := rfl
@[simp] theorem modFn_jobs (n : Nat) (f : Fn → Fn) (s : State) : (modFn n f s).jobs = s.jobs := rfl
@[simp] theorem modFn_asks (n : Nat) (f : Fn → Fn) (s : State) : (modFn n f s).asks = s.asks := rfl
@[simp] theorem modFn_ports (n : Nat) (f : Fn → Fn) (s : State) : (modFn n f s).ports = s.ports := rfl
@[simp] theorem modFn_cal (n : Nat) (f : Fn → Fn) (s : State) : (modFn n f s).cal = s.cal := rfl
@[simp] theorem modFn_clks (n : Nat) (f : Fn → Fn) (s : State) : (modFn n f s).clks = s.clks := rfl
@[simp] theorem modFn_board (n : Nat) (f : Fn → Fn) (s : State) : (modFn n f s).board = s.board := rfl
@[simp] theorem modFn_gov (n : Nat) (f : Fn → Fn) (s : State) : (modFn n f s).gov = s.gov := rfl
@[simp] theorem modFn_madc (n : Nat) (f : Fn → Fn) (s : State) : (modFn n f s).madc = s.madc := rfl
@[simp] theorem modFn_parts (n : Nat) (f : Fn → Fn) (s : State) : (modFn n f s).parts = s.parts := rfl

/-! `modTile` writes `tiles` alone. -/

@[simp] theorem modTile_pending (n : Nat) (f : Tile → Tile) (s : State) : (modTile n f s).pending = s.pending := rfl
@[simp] theorem modTile_out (n : Nat) (f : Tile → Tile) (s : State) : (modTile n f s).out = s.out := rfl
@[simp] theorem modTile_now (n : Nat) (f : Tile → Tile) (s : State) : (modTile n f s).now = s.now := rfl
@[simp] theorem modTile_free (n : Nat) (f : Tile → Tile) (s : State) : (modTile n f s).free = s.free := rfl
@[simp] theorem modTile_fuses (n : Nat) (f : Tile → Tile) (s : State) : (modTile n f s).fuses = s.fuses := rfl
@[simp] theorem modTile_regs (n : Nat) (f : Tile → Tile) (s : State) : (modTile n f s).regs = s.regs := rfl
@[simp] theorem modTile_mem (n : Nat) (f : Tile → Tile) (s : State) : (modTile n f s).mem = s.mem := rfl
@[simp] theorem modTile_poison (n : Nat) (f : Tile → Tile) (s : State) : (modTile n f s).poison = s.poison := rfl
@[simp] theorem modTile_fns (n : Nat) (f : Tile → Tile) (s : State) : (modTile n f s).fns = s.fns := rfl
@[simp] theorem modTile_units (n : Nat) (f : Tile → Tile) (s : State) : (modTile n f s).units = s.units := rfl
@[simp] theorem modTile_crossings (n : Nat) (f : Tile → Tile) (s : State) : (modTile n f s).crossings = s.crossings := rfl
@[simp] theorem modTile_sil (n : Nat) (f : Tile → Tile) (s : State) : (modTile n f s).sil = s.sil := rfl
@[simp] theorem modTile_pkg (n : Nat) (f : Tile → Tile) (s : State) : (modTile n f s).pkg = s.pkg := rfl
@[simp] theorem modTile_tlayers (n : Nat) (f : Tile → Tile) (s : State) : (modTile n f s).tlayers = s.tlayers := rfl
@[simp] theorem modTile_pools (n : Nat) (f : Tile → Tile) (s : State) : (modTile n f s).pools = s.pools := rfl
@[simp] theorem modTile_acc (n : Nat) (f : Tile → Tile) (s : State) : (modTile n f s).acc = s.acc := rfl
@[simp] theorem modTile_vready (n : Nat) (f : Tile → Tile) (s : State) : (modTile n f s).vready = s.vready := rfl
@[simp] theorem modTile_vheld (n : Nat) (f : Tile → Tile) (s : State) : (modTile n f s).vheld = s.vheld := rfl
@[simp] theorem modTile_poisonX (n : Nat) (f : Tile → Tile) (s : State) : (modTile n f s).poisonX = s.poisonX := rfl
@[simp] theorem modTile_lost (n : Nat) (f : Tile → Tile) (s : State) : (modTile n f s).lost = s.lost := rfl
@[simp] theorem modTile_dbg (n : Nat) (f : Tile → Tile) (s : State) : (modTile n f s).dbg = s.dbg := rfl
@[simp] theorem modTile_vctx (n : Nat) (f : Tile → Tile) (s : State) : (modTile n f s).vctx = s.vctx := rfl
@[simp] theorem modTile_vslots (n : Nat) (f : Tile → Tile) (s : State) : (modTile n f s).vslots = s.vslots := rfl
@[simp] theorem modTile_queues (n : Nat) (f : Tile → Tile) (s : State) : (modTile n f s).queues = s.queues := rfl
@[simp] theorem modTile_cmds (n : Nat) (f : Tile → Tile) (s : State) : (modTile n f s).cmds = s.cmds := rfl
@[simp] theorem modTile_ctxs (n : Nat) (f : Tile → Tile) (s : State) : (modTile n f s).ctxs = s.ctxs := rfl
@[simp] theorem modTile_seqs (n : Nat) (f : Tile → Tile) (s : State) : (modTile n f s).seqs = s.seqs := rfl
@[simp] theorem modTile_descs (n : Nat) (f : Tile → Tile) (s : State) : (modTile n f s).descs = s.descs := rfl
@[simp] theorem modTile_qps (n : Nat) (f : Tile → Tile) (s : State) : (modTile n f s).qps = s.qps := rfl
@[simp] theorem modTile_jobs (n : Nat) (f : Tile → Tile) (s : State) : (modTile n f s).jobs = s.jobs := rfl
@[simp] theorem modTile_asks (n : Nat) (f : Tile → Tile) (s : State) : (modTile n f s).asks = s.asks := rfl
@[simp] theorem modTile_ports (n : Nat) (f : Tile → Tile) (s : State) : (modTile n f s).ports = s.ports := rfl
@[simp] theorem modTile_cal (n : Nat) (f : Tile → Tile) (s : State) : (modTile n f s).cal = s.cal := rfl
@[simp] theorem modTile_clks (n : Nat) (f : Tile → Tile) (s : State) : (modTile n f s).clks = s.clks := rfl
@[simp] theorem modTile_board (n : Nat) (f : Tile → Tile) (s : State) : (modTile n f s).board = s.board := rfl
@[simp] theorem modTile_gov (n : Nat) (f : Tile → Tile) (s : State) : (modTile n f s).gov = s.gov := rfl
@[simp] theorem modTile_madc (n : Nat) (f : Tile → Tile) (s : State) : (modTile n f s).madc = s.madc := rfl
@[simp] theorem modTile_parts (n : Nat) (f : Tile → Tile) (s : State) : (modTile n f s).parts = s.parts := rfl

/-! `modTl` writes `tlayers` alone. -/

@[simp] theorem modTl_pending (n l : Nat) (f : TLayer → TLayer) (s : State) : (modTl n l f s).pending = s.pending := rfl
@[simp] theorem modTl_out (n l : Nat) (f : TLayer → TLayer) (s : State) : (modTl n l f s).out = s.out := rfl
@[simp] theorem modTl_now (n l : Nat) (f : TLayer → TLayer) (s : State) : (modTl n l f s).now = s.now := rfl
@[simp] theorem modTl_free (n l : Nat) (f : TLayer → TLayer) (s : State) : (modTl n l f s).free = s.free := rfl
@[simp] theorem modTl_fuses (n l : Nat) (f : TLayer → TLayer) (s : State) : (modTl n l f s).fuses = s.fuses := rfl
@[simp] theorem modTl_regs (n l : Nat) (f : TLayer → TLayer) (s : State) : (modTl n l f s).regs = s.regs := rfl
@[simp] theorem modTl_mem (n l : Nat) (f : TLayer → TLayer) (s : State) : (modTl n l f s).mem = s.mem := rfl
@[simp] theorem modTl_poison (n l : Nat) (f : TLayer → TLayer) (s : State) : (modTl n l f s).poison = s.poison := rfl
@[simp] theorem modTl_fns (n l : Nat) (f : TLayer → TLayer) (s : State) : (modTl n l f s).fns = s.fns := rfl
@[simp] theorem modTl_units (n l : Nat) (f : TLayer → TLayer) (s : State) : (modTl n l f s).units = s.units := rfl
@[simp] theorem modTl_crossings (n l : Nat) (f : TLayer → TLayer) (s : State) : (modTl n l f s).crossings = s.crossings := rfl
@[simp] theorem modTl_sil (n l : Nat) (f : TLayer → TLayer) (s : State) : (modTl n l f s).sil = s.sil := rfl
@[simp] theorem modTl_pkg (n l : Nat) (f : TLayer → TLayer) (s : State) : (modTl n l f s).pkg = s.pkg := rfl
@[simp] theorem modTl_tiles (n l : Nat) (f : TLayer → TLayer) (s : State) : (modTl n l f s).tiles = s.tiles := rfl
@[simp] theorem modTl_pools (n l : Nat) (f : TLayer → TLayer) (s : State) : (modTl n l f s).pools = s.pools := rfl
@[simp] theorem modTl_acc (n l : Nat) (f : TLayer → TLayer) (s : State) : (modTl n l f s).acc = s.acc := rfl
@[simp] theorem modTl_vready (n l : Nat) (f : TLayer → TLayer) (s : State) : (modTl n l f s).vready = s.vready := rfl
@[simp] theorem modTl_vheld (n l : Nat) (f : TLayer → TLayer) (s : State) : (modTl n l f s).vheld = s.vheld := rfl
@[simp] theorem modTl_poisonX (n l : Nat) (f : TLayer → TLayer) (s : State) : (modTl n l f s).poisonX = s.poisonX := rfl
@[simp] theorem modTl_lost (n l : Nat) (f : TLayer → TLayer) (s : State) : (modTl n l f s).lost = s.lost := rfl
@[simp] theorem modTl_dbg (n l : Nat) (f : TLayer → TLayer) (s : State) : (modTl n l f s).dbg = s.dbg := rfl
@[simp] theorem modTl_vctx (n l : Nat) (f : TLayer → TLayer) (s : State) : (modTl n l f s).vctx = s.vctx := rfl
@[simp] theorem modTl_vslots (n l : Nat) (f : TLayer → TLayer) (s : State) : (modTl n l f s).vslots = s.vslots := rfl
@[simp] theorem modTl_queues (n l : Nat) (f : TLayer → TLayer) (s : State) : (modTl n l f s).queues = s.queues := rfl
@[simp] theorem modTl_cmds (n l : Nat) (f : TLayer → TLayer) (s : State) : (modTl n l f s).cmds = s.cmds := rfl
@[simp] theorem modTl_ctxs (n l : Nat) (f : TLayer → TLayer) (s : State) : (modTl n l f s).ctxs = s.ctxs := rfl
@[simp] theorem modTl_seqs (n l : Nat) (f : TLayer → TLayer) (s : State) : (modTl n l f s).seqs = s.seqs := rfl
@[simp] theorem modTl_descs (n l : Nat) (f : TLayer → TLayer) (s : State) : (modTl n l f s).descs = s.descs := rfl
@[simp] theorem modTl_qps (n l : Nat) (f : TLayer → TLayer) (s : State) : (modTl n l f s).qps = s.qps := rfl
@[simp] theorem modTl_jobs (n l : Nat) (f : TLayer → TLayer) (s : State) : (modTl n l f s).jobs = s.jobs := rfl
@[simp] theorem modTl_asks (n l : Nat) (f : TLayer → TLayer) (s : State) : (modTl n l f s).asks = s.asks := rfl
@[simp] theorem modTl_ports (n l : Nat) (f : TLayer → TLayer) (s : State) : (modTl n l f s).ports = s.ports := rfl
@[simp] theorem modTl_cal (n l : Nat) (f : TLayer → TLayer) (s : State) : (modTl n l f s).cal = s.cal := rfl
@[simp] theorem modTl_clks (n l : Nat) (f : TLayer → TLayer) (s : State) : (modTl n l f s).clks = s.clks := rfl
@[simp] theorem modTl_board (n l : Nat) (f : TLayer → TLayer) (s : State) : (modTl n l f s).board = s.board := rfl
@[simp] theorem modTl_gov (n l : Nat) (f : TLayer → TLayer) (s : State) : (modTl n l f s).gov = s.gov := rfl
@[simp] theorem modTl_madc (n l : Nat) (f : TLayer → TLayer) (s : State) : (modTl n l f s).madc = s.madc := rfl
@[simp] theorem modTl_parts (n l : Nat) (f : TLayer → TLayer) (s : State) : (modTl n l f s).parts = s.parts := rfl

/-! `modPool` writes `pools` alone. -/

@[simp] theorem modPool_pending (n : Nat) (f : TokPool → TokPool) (s : State) : (modPool n f s).pending = s.pending := rfl
@[simp] theorem modPool_out (n : Nat) (f : TokPool → TokPool) (s : State) : (modPool n f s).out = s.out := rfl
@[simp] theorem modPool_now (n : Nat) (f : TokPool → TokPool) (s : State) : (modPool n f s).now = s.now := rfl
@[simp] theorem modPool_free (n : Nat) (f : TokPool → TokPool) (s : State) : (modPool n f s).free = s.free := rfl
@[simp] theorem modPool_fuses (n : Nat) (f : TokPool → TokPool) (s : State) : (modPool n f s).fuses = s.fuses := rfl
@[simp] theorem modPool_regs (n : Nat) (f : TokPool → TokPool) (s : State) : (modPool n f s).regs = s.regs := rfl
@[simp] theorem modPool_mem (n : Nat) (f : TokPool → TokPool) (s : State) : (modPool n f s).mem = s.mem := rfl
@[simp] theorem modPool_poison (n : Nat) (f : TokPool → TokPool) (s : State) : (modPool n f s).poison = s.poison := rfl
@[simp] theorem modPool_fns (n : Nat) (f : TokPool → TokPool) (s : State) : (modPool n f s).fns = s.fns := rfl
@[simp] theorem modPool_units (n : Nat) (f : TokPool → TokPool) (s : State) : (modPool n f s).units = s.units := rfl
@[simp] theorem modPool_crossings (n : Nat) (f : TokPool → TokPool) (s : State) : (modPool n f s).crossings = s.crossings := rfl
@[simp] theorem modPool_sil (n : Nat) (f : TokPool → TokPool) (s : State) : (modPool n f s).sil = s.sil := rfl
@[simp] theorem modPool_pkg (n : Nat) (f : TokPool → TokPool) (s : State) : (modPool n f s).pkg = s.pkg := rfl
@[simp] theorem modPool_tiles (n : Nat) (f : TokPool → TokPool) (s : State) : (modPool n f s).tiles = s.tiles := rfl
@[simp] theorem modPool_tlayers (n : Nat) (f : TokPool → TokPool) (s : State) : (modPool n f s).tlayers = s.tlayers := rfl
@[simp] theorem modPool_acc (n : Nat) (f : TokPool → TokPool) (s : State) : (modPool n f s).acc = s.acc := rfl
@[simp] theorem modPool_vready (n : Nat) (f : TokPool → TokPool) (s : State) : (modPool n f s).vready = s.vready := rfl
@[simp] theorem modPool_vheld (n : Nat) (f : TokPool → TokPool) (s : State) : (modPool n f s).vheld = s.vheld := rfl
@[simp] theorem modPool_poisonX (n : Nat) (f : TokPool → TokPool) (s : State) : (modPool n f s).poisonX = s.poisonX := rfl
@[simp] theorem modPool_lost (n : Nat) (f : TokPool → TokPool) (s : State) : (modPool n f s).lost = s.lost := rfl
@[simp] theorem modPool_dbg (n : Nat) (f : TokPool → TokPool) (s : State) : (modPool n f s).dbg = s.dbg := rfl
@[simp] theorem modPool_vctx (n : Nat) (f : TokPool → TokPool) (s : State) : (modPool n f s).vctx = s.vctx := rfl
@[simp] theorem modPool_vslots (n : Nat) (f : TokPool → TokPool) (s : State) : (modPool n f s).vslots = s.vslots := rfl
@[simp] theorem modPool_queues (n : Nat) (f : TokPool → TokPool) (s : State) : (modPool n f s).queues = s.queues := rfl
@[simp] theorem modPool_cmds (n : Nat) (f : TokPool → TokPool) (s : State) : (modPool n f s).cmds = s.cmds := rfl
@[simp] theorem modPool_ctxs (n : Nat) (f : TokPool → TokPool) (s : State) : (modPool n f s).ctxs = s.ctxs := rfl
@[simp] theorem modPool_seqs (n : Nat) (f : TokPool → TokPool) (s : State) : (modPool n f s).seqs = s.seqs := rfl
@[simp] theorem modPool_descs (n : Nat) (f : TokPool → TokPool) (s : State) : (modPool n f s).descs = s.descs := rfl
@[simp] theorem modPool_qps (n : Nat) (f : TokPool → TokPool) (s : State) : (modPool n f s).qps = s.qps := rfl
@[simp] theorem modPool_jobs (n : Nat) (f : TokPool → TokPool) (s : State) : (modPool n f s).jobs = s.jobs := rfl
@[simp] theorem modPool_asks (n : Nat) (f : TokPool → TokPool) (s : State) : (modPool n f s).asks = s.asks := rfl
@[simp] theorem modPool_ports (n : Nat) (f : TokPool → TokPool) (s : State) : (modPool n f s).ports = s.ports := rfl
@[simp] theorem modPool_cal (n : Nat) (f : TokPool → TokPool) (s : State) : (modPool n f s).cal = s.cal := rfl
@[simp] theorem modPool_clks (n : Nat) (f : TokPool → TokPool) (s : State) : (modPool n f s).clks = s.clks := rfl
@[simp] theorem modPool_board (n : Nat) (f : TokPool → TokPool) (s : State) : (modPool n f s).board = s.board := rfl
@[simp] theorem modPool_gov (n : Nat) (f : TokPool → TokPool) (s : State) : (modPool n f s).gov = s.gov := rfl
@[simp] theorem modPool_madc (n : Nat) (f : TokPool → TokPool) (s : State) : (modPool n f s).madc = s.madc := rfl
@[simp] theorem modPool_parts (n : Nat) (f : TokPool → TokPool) (s : State) : (modPool n f s).parts = s.parts := rfl

/-! `modCtx` writes `vctx` alone. -/

@[simp] theorem modCtx_pending (c n : Nat) (f : VCtx → VCtx) (s : State) : (modCtx c n f s).pending = s.pending := rfl
@[simp] theorem modCtx_out (c n : Nat) (f : VCtx → VCtx) (s : State) : (modCtx c n f s).out = s.out := rfl
@[simp] theorem modCtx_now (c n : Nat) (f : VCtx → VCtx) (s : State) : (modCtx c n f s).now = s.now := rfl
@[simp] theorem modCtx_free (c n : Nat) (f : VCtx → VCtx) (s : State) : (modCtx c n f s).free = s.free := rfl
@[simp] theorem modCtx_fuses (c n : Nat) (f : VCtx → VCtx) (s : State) : (modCtx c n f s).fuses = s.fuses := rfl
@[simp] theorem modCtx_regs (c n : Nat) (f : VCtx → VCtx) (s : State) : (modCtx c n f s).regs = s.regs := rfl
@[simp] theorem modCtx_mem (c n : Nat) (f : VCtx → VCtx) (s : State) : (modCtx c n f s).mem = s.mem := rfl
@[simp] theorem modCtx_poison (c n : Nat) (f : VCtx → VCtx) (s : State) : (modCtx c n f s).poison = s.poison := rfl
@[simp] theorem modCtx_fns (c n : Nat) (f : VCtx → VCtx) (s : State) : (modCtx c n f s).fns = s.fns := rfl
@[simp] theorem modCtx_units (c n : Nat) (f : VCtx → VCtx) (s : State) : (modCtx c n f s).units = s.units := rfl
@[simp] theorem modCtx_crossings (c n : Nat) (f : VCtx → VCtx) (s : State) : (modCtx c n f s).crossings = s.crossings := rfl
@[simp] theorem modCtx_sil (c n : Nat) (f : VCtx → VCtx) (s : State) : (modCtx c n f s).sil = s.sil := rfl
@[simp] theorem modCtx_pkg (c n : Nat) (f : VCtx → VCtx) (s : State) : (modCtx c n f s).pkg = s.pkg := rfl
@[simp] theorem modCtx_tiles (c n : Nat) (f : VCtx → VCtx) (s : State) : (modCtx c n f s).tiles = s.tiles := rfl
@[simp] theorem modCtx_tlayers (c n : Nat) (f : VCtx → VCtx) (s : State) : (modCtx c n f s).tlayers = s.tlayers := rfl
@[simp] theorem modCtx_pools (c n : Nat) (f : VCtx → VCtx) (s : State) : (modCtx c n f s).pools = s.pools := rfl
@[simp] theorem modCtx_acc (c n : Nat) (f : VCtx → VCtx) (s : State) : (modCtx c n f s).acc = s.acc := rfl
@[simp] theorem modCtx_vready (c n : Nat) (f : VCtx → VCtx) (s : State) : (modCtx c n f s).vready = s.vready := rfl
@[simp] theorem modCtx_vheld (c n : Nat) (f : VCtx → VCtx) (s : State) : (modCtx c n f s).vheld = s.vheld := rfl
@[simp] theorem modCtx_poisonX (c n : Nat) (f : VCtx → VCtx) (s : State) : (modCtx c n f s).poisonX = s.poisonX := rfl
@[simp] theorem modCtx_lost (c n : Nat) (f : VCtx → VCtx) (s : State) : (modCtx c n f s).lost = s.lost := rfl
@[simp] theorem modCtx_dbg (c n : Nat) (f : VCtx → VCtx) (s : State) : (modCtx c n f s).dbg = s.dbg := rfl
@[simp] theorem modCtx_vslots (c n : Nat) (f : VCtx → VCtx) (s : State) : (modCtx c n f s).vslots = s.vslots := rfl
@[simp] theorem modCtx_queues (c n : Nat) (f : VCtx → VCtx) (s : State) : (modCtx c n f s).queues = s.queues := rfl
@[simp] theorem modCtx_cmds (c n : Nat) (f : VCtx → VCtx) (s : State) : (modCtx c n f s).cmds = s.cmds := rfl
@[simp] theorem modCtx_ctxs (c n : Nat) (f : VCtx → VCtx) (s : State) : (modCtx c n f s).ctxs = s.ctxs := rfl
@[simp] theorem modCtx_seqs (c n : Nat) (f : VCtx → VCtx) (s : State) : (modCtx c n f s).seqs = s.seqs := rfl
@[simp] theorem modCtx_descs (c n : Nat) (f : VCtx → VCtx) (s : State) : (modCtx c n f s).descs = s.descs := rfl
@[simp] theorem modCtx_qps (c n : Nat) (f : VCtx → VCtx) (s : State) : (modCtx c n f s).qps = s.qps := rfl
@[simp] theorem modCtx_jobs (c n : Nat) (f : VCtx → VCtx) (s : State) : (modCtx c n f s).jobs = s.jobs := rfl
@[simp] theorem modCtx_asks (c n : Nat) (f : VCtx → VCtx) (s : State) : (modCtx c n f s).asks = s.asks := rfl
@[simp] theorem modCtx_ports (c n : Nat) (f : VCtx → VCtx) (s : State) : (modCtx c n f s).ports = s.ports := rfl
@[simp] theorem modCtx_cal (c n : Nat) (f : VCtx → VCtx) (s : State) : (modCtx c n f s).cal = s.cal := rfl
@[simp] theorem modCtx_clks (c n : Nat) (f : VCtx → VCtx) (s : State) : (modCtx c n f s).clks = s.clks := rfl
@[simp] theorem modCtx_board (c n : Nat) (f : VCtx → VCtx) (s : State) : (modCtx c n f s).board = s.board := rfl
@[simp] theorem modCtx_gov (c n : Nat) (f : VCtx → VCtx) (s : State) : (modCtx c n f s).gov = s.gov := rfl
@[simp] theorem modCtx_madc (c n : Nat) (f : VCtx → VCtx) (s : State) : (modCtx c n f s).madc = s.madc := rfl
@[simp] theorem modCtx_parts (c n : Nat) (f : VCtx → VCtx) (s : State) : (modCtx c n f s).parts = s.parts := rfl

/-! `modSlot` writes `vslots` alone. -/

@[simp] theorem modSlot_pending (c n : Nat) (f : VSlot → VSlot) (s : State) : (modSlot c n f s).pending = s.pending := rfl
@[simp] theorem modSlot_out (c n : Nat) (f : VSlot → VSlot) (s : State) : (modSlot c n f s).out = s.out := rfl
@[simp] theorem modSlot_now (c n : Nat) (f : VSlot → VSlot) (s : State) : (modSlot c n f s).now = s.now := rfl
@[simp] theorem modSlot_free (c n : Nat) (f : VSlot → VSlot) (s : State) : (modSlot c n f s).free = s.free := rfl
@[simp] theorem modSlot_fuses (c n : Nat) (f : VSlot → VSlot) (s : State) : (modSlot c n f s).fuses = s.fuses := rfl
@[simp] theorem modSlot_regs (c n : Nat) (f : VSlot → VSlot) (s : State) : (modSlot c n f s).regs = s.regs := rfl
@[simp] theorem modSlot_mem (c n : Nat) (f : VSlot → VSlot) (s : State) : (modSlot c n f s).mem = s.mem := rfl
@[simp] theorem modSlot_poison (c n : Nat) (f : VSlot → VSlot) (s : State) : (modSlot c n f s).poison = s.poison := rfl
@[simp] theorem modSlot_fns (c n : Nat) (f : VSlot → VSlot) (s : State) : (modSlot c n f s).fns = s.fns := rfl
@[simp] theorem modSlot_units (c n : Nat) (f : VSlot → VSlot) (s : State) : (modSlot c n f s).units = s.units := rfl
@[simp] theorem modSlot_crossings (c n : Nat) (f : VSlot → VSlot) (s : State) : (modSlot c n f s).crossings = s.crossings := rfl
@[simp] theorem modSlot_sil (c n : Nat) (f : VSlot → VSlot) (s : State) : (modSlot c n f s).sil = s.sil := rfl
@[simp] theorem modSlot_pkg (c n : Nat) (f : VSlot → VSlot) (s : State) : (modSlot c n f s).pkg = s.pkg := rfl
@[simp] theorem modSlot_tiles (c n : Nat) (f : VSlot → VSlot) (s : State) : (modSlot c n f s).tiles = s.tiles := rfl
@[simp] theorem modSlot_tlayers (c n : Nat) (f : VSlot → VSlot) (s : State) : (modSlot c n f s).tlayers = s.tlayers := rfl
@[simp] theorem modSlot_pools (c n : Nat) (f : VSlot → VSlot) (s : State) : (modSlot c n f s).pools = s.pools := rfl
@[simp] theorem modSlot_acc (c n : Nat) (f : VSlot → VSlot) (s : State) : (modSlot c n f s).acc = s.acc := rfl
@[simp] theorem modSlot_vready (c n : Nat) (f : VSlot → VSlot) (s : State) : (modSlot c n f s).vready = s.vready := rfl
@[simp] theorem modSlot_vheld (c n : Nat) (f : VSlot → VSlot) (s : State) : (modSlot c n f s).vheld = s.vheld := rfl
@[simp] theorem modSlot_poisonX (c n : Nat) (f : VSlot → VSlot) (s : State) : (modSlot c n f s).poisonX = s.poisonX := rfl
@[simp] theorem modSlot_lost (c n : Nat) (f : VSlot → VSlot) (s : State) : (modSlot c n f s).lost = s.lost := rfl
@[simp] theorem modSlot_dbg (c n : Nat) (f : VSlot → VSlot) (s : State) : (modSlot c n f s).dbg = s.dbg := rfl
@[simp] theorem modSlot_vctx (c n : Nat) (f : VSlot → VSlot) (s : State) : (modSlot c n f s).vctx = s.vctx := rfl
@[simp] theorem modSlot_queues (c n : Nat) (f : VSlot → VSlot) (s : State) : (modSlot c n f s).queues = s.queues := rfl
@[simp] theorem modSlot_cmds (c n : Nat) (f : VSlot → VSlot) (s : State) : (modSlot c n f s).cmds = s.cmds := rfl
@[simp] theorem modSlot_ctxs (c n : Nat) (f : VSlot → VSlot) (s : State) : (modSlot c n f s).ctxs = s.ctxs := rfl
@[simp] theorem modSlot_seqs (c n : Nat) (f : VSlot → VSlot) (s : State) : (modSlot c n f s).seqs = s.seqs := rfl
@[simp] theorem modSlot_descs (c n : Nat) (f : VSlot → VSlot) (s : State) : (modSlot c n f s).descs = s.descs := rfl
@[simp] theorem modSlot_qps (c n : Nat) (f : VSlot → VSlot) (s : State) : (modSlot c n f s).qps = s.qps := rfl
@[simp] theorem modSlot_jobs (c n : Nat) (f : VSlot → VSlot) (s : State) : (modSlot c n f s).jobs = s.jobs := rfl
@[simp] theorem modSlot_asks (c n : Nat) (f : VSlot → VSlot) (s : State) : (modSlot c n f s).asks = s.asks := rfl
@[simp] theorem modSlot_ports (c n : Nat) (f : VSlot → VSlot) (s : State) : (modSlot c n f s).ports = s.ports := rfl
@[simp] theorem modSlot_cal (c n : Nat) (f : VSlot → VSlot) (s : State) : (modSlot c n f s).cal = s.cal := rfl
@[simp] theorem modSlot_clks (c n : Nat) (f : VSlot → VSlot) (s : State) : (modSlot c n f s).clks = s.clks := rfl
@[simp] theorem modSlot_board (c n : Nat) (f : VSlot → VSlot) (s : State) : (modSlot c n f s).board = s.board := rfl
@[simp] theorem modSlot_gov (c n : Nat) (f : VSlot → VSlot) (s : State) : (modSlot c n f s).gov = s.gov := rfl
@[simp] theorem modSlot_madc (c n : Nat) (f : VSlot → VSlot) (s : State) : (modSlot c n f s).madc = s.madc := rfl
@[simp] theorem modSlot_parts (c n : Nat) (f : VSlot → VSlot) (s : State) : (modSlot c n f s).parts = s.parts := rfl

/-! `modQueue` writes `queues` alone. -/

@[simp] theorem modQueue_pending (n : Nat) (f : QueueS → QueueS) (s : State) : (modQueue n f s).pending = s.pending := rfl
@[simp] theorem modQueue_out (n : Nat) (f : QueueS → QueueS) (s : State) : (modQueue n f s).out = s.out := rfl
@[simp] theorem modQueue_now (n : Nat) (f : QueueS → QueueS) (s : State) : (modQueue n f s).now = s.now := rfl
@[simp] theorem modQueue_free (n : Nat) (f : QueueS → QueueS) (s : State) : (modQueue n f s).free = s.free := rfl
@[simp] theorem modQueue_fuses (n : Nat) (f : QueueS → QueueS) (s : State) : (modQueue n f s).fuses = s.fuses := rfl
@[simp] theorem modQueue_regs (n : Nat) (f : QueueS → QueueS) (s : State) : (modQueue n f s).regs = s.regs := rfl
@[simp] theorem modQueue_mem (n : Nat) (f : QueueS → QueueS) (s : State) : (modQueue n f s).mem = s.mem := rfl
@[simp] theorem modQueue_poison (n : Nat) (f : QueueS → QueueS) (s : State) : (modQueue n f s).poison = s.poison := rfl
@[simp] theorem modQueue_fns (n : Nat) (f : QueueS → QueueS) (s : State) : (modQueue n f s).fns = s.fns := rfl
@[simp] theorem modQueue_units (n : Nat) (f : QueueS → QueueS) (s : State) : (modQueue n f s).units = s.units := rfl
@[simp] theorem modQueue_crossings (n : Nat) (f : QueueS → QueueS) (s : State) : (modQueue n f s).crossings = s.crossings := rfl
@[simp] theorem modQueue_sil (n : Nat) (f : QueueS → QueueS) (s : State) : (modQueue n f s).sil = s.sil := rfl
@[simp] theorem modQueue_pkg (n : Nat) (f : QueueS → QueueS) (s : State) : (modQueue n f s).pkg = s.pkg := rfl
@[simp] theorem modQueue_tiles (n : Nat) (f : QueueS → QueueS) (s : State) : (modQueue n f s).tiles = s.tiles := rfl
@[simp] theorem modQueue_tlayers (n : Nat) (f : QueueS → QueueS) (s : State) : (modQueue n f s).tlayers = s.tlayers := rfl
@[simp] theorem modQueue_pools (n : Nat) (f : QueueS → QueueS) (s : State) : (modQueue n f s).pools = s.pools := rfl
@[simp] theorem modQueue_acc (n : Nat) (f : QueueS → QueueS) (s : State) : (modQueue n f s).acc = s.acc := rfl
@[simp] theorem modQueue_vready (n : Nat) (f : QueueS → QueueS) (s : State) : (modQueue n f s).vready = s.vready := rfl
@[simp] theorem modQueue_vheld (n : Nat) (f : QueueS → QueueS) (s : State) : (modQueue n f s).vheld = s.vheld := rfl
@[simp] theorem modQueue_poisonX (n : Nat) (f : QueueS → QueueS) (s : State) : (modQueue n f s).poisonX = s.poisonX := rfl
@[simp] theorem modQueue_lost (n : Nat) (f : QueueS → QueueS) (s : State) : (modQueue n f s).lost = s.lost := rfl
@[simp] theorem modQueue_dbg (n : Nat) (f : QueueS → QueueS) (s : State) : (modQueue n f s).dbg = s.dbg := rfl
@[simp] theorem modQueue_vctx (n : Nat) (f : QueueS → QueueS) (s : State) : (modQueue n f s).vctx = s.vctx := rfl
@[simp] theorem modQueue_vslots (n : Nat) (f : QueueS → QueueS) (s : State) : (modQueue n f s).vslots = s.vslots := rfl
@[simp] theorem modQueue_cmds (n : Nat) (f : QueueS → QueueS) (s : State) : (modQueue n f s).cmds = s.cmds := rfl
@[simp] theorem modQueue_ctxs (n : Nat) (f : QueueS → QueueS) (s : State) : (modQueue n f s).ctxs = s.ctxs := rfl
@[simp] theorem modQueue_seqs (n : Nat) (f : QueueS → QueueS) (s : State) : (modQueue n f s).seqs = s.seqs := rfl
@[simp] theorem modQueue_descs (n : Nat) (f : QueueS → QueueS) (s : State) : (modQueue n f s).descs = s.descs := rfl
@[simp] theorem modQueue_qps (n : Nat) (f : QueueS → QueueS) (s : State) : (modQueue n f s).qps = s.qps := rfl
@[simp] theorem modQueue_jobs (n : Nat) (f : QueueS → QueueS) (s : State) : (modQueue n f s).jobs = s.jobs := rfl
@[simp] theorem modQueue_asks (n : Nat) (f : QueueS → QueueS) (s : State) : (modQueue n f s).asks = s.asks := rfl
@[simp] theorem modQueue_ports (n : Nat) (f : QueueS → QueueS) (s : State) : (modQueue n f s).ports = s.ports := rfl
@[simp] theorem modQueue_cal (n : Nat) (f : QueueS → QueueS) (s : State) : (modQueue n f s).cal = s.cal := rfl
@[simp] theorem modQueue_clks (n : Nat) (f : QueueS → QueueS) (s : State) : (modQueue n f s).clks = s.clks := rfl
@[simp] theorem modQueue_board (n : Nat) (f : QueueS → QueueS) (s : State) : (modQueue n f s).board = s.board := rfl
@[simp] theorem modQueue_gov (n : Nat) (f : QueueS → QueueS) (s : State) : (modQueue n f s).gov = s.gov := rfl
@[simp] theorem modQueue_madc (n : Nat) (f : QueueS → QueueS) (s : State) : (modQueue n f s).madc = s.madc := rfl
@[simp] theorem modQueue_parts (n : Nat) (f : QueueS → QueueS) (s : State) : (modQueue n f s).parts = s.parts := rfl

/-! `setCmd` writes `cmds` alone. -/

@[simp] theorem setCmd_pending (n : Nat) (c : Cmd) (s : State) : (setCmd n c s).pending = s.pending := rfl
@[simp] theorem setCmd_out (n : Nat) (c : Cmd) (s : State) : (setCmd n c s).out = s.out := rfl
@[simp] theorem setCmd_now (n : Nat) (c : Cmd) (s : State) : (setCmd n c s).now = s.now := rfl
@[simp] theorem setCmd_free (n : Nat) (c : Cmd) (s : State) : (setCmd n c s).free = s.free := rfl
@[simp] theorem setCmd_fuses (n : Nat) (c : Cmd) (s : State) : (setCmd n c s).fuses = s.fuses := rfl
@[simp] theorem setCmd_regs (n : Nat) (c : Cmd) (s : State) : (setCmd n c s).regs = s.regs := rfl
@[simp] theorem setCmd_mem (n : Nat) (c : Cmd) (s : State) : (setCmd n c s).mem = s.mem := rfl
@[simp] theorem setCmd_poison (n : Nat) (c : Cmd) (s : State) : (setCmd n c s).poison = s.poison := rfl
@[simp] theorem setCmd_fns (n : Nat) (c : Cmd) (s : State) : (setCmd n c s).fns = s.fns := rfl
@[simp] theorem setCmd_units (n : Nat) (c : Cmd) (s : State) : (setCmd n c s).units = s.units := rfl
@[simp] theorem setCmd_crossings (n : Nat) (c : Cmd) (s : State) : (setCmd n c s).crossings = s.crossings := rfl
@[simp] theorem setCmd_sil (n : Nat) (c : Cmd) (s : State) : (setCmd n c s).sil = s.sil := rfl
@[simp] theorem setCmd_pkg (n : Nat) (c : Cmd) (s : State) : (setCmd n c s).pkg = s.pkg := rfl
@[simp] theorem setCmd_tiles (n : Nat) (c : Cmd) (s : State) : (setCmd n c s).tiles = s.tiles := rfl
@[simp] theorem setCmd_tlayers (n : Nat) (c : Cmd) (s : State) : (setCmd n c s).tlayers = s.tlayers := rfl
@[simp] theorem setCmd_pools (n : Nat) (c : Cmd) (s : State) : (setCmd n c s).pools = s.pools := rfl
@[simp] theorem setCmd_acc (n : Nat) (c : Cmd) (s : State) : (setCmd n c s).acc = s.acc := rfl
@[simp] theorem setCmd_vready (n : Nat) (c : Cmd) (s : State) : (setCmd n c s).vready = s.vready := rfl
@[simp] theorem setCmd_vheld (n : Nat) (c : Cmd) (s : State) : (setCmd n c s).vheld = s.vheld := rfl
@[simp] theorem setCmd_poisonX (n : Nat) (c : Cmd) (s : State) : (setCmd n c s).poisonX = s.poisonX := rfl
@[simp] theorem setCmd_lost (n : Nat) (c : Cmd) (s : State) : (setCmd n c s).lost = s.lost := rfl
@[simp] theorem setCmd_dbg (n : Nat) (c : Cmd) (s : State) : (setCmd n c s).dbg = s.dbg := rfl
@[simp] theorem setCmd_vctx (n : Nat) (c : Cmd) (s : State) : (setCmd n c s).vctx = s.vctx := rfl
@[simp] theorem setCmd_vslots (n : Nat) (c : Cmd) (s : State) : (setCmd n c s).vslots = s.vslots := rfl
@[simp] theorem setCmd_queues (n : Nat) (c : Cmd) (s : State) : (setCmd n c s).queues = s.queues := rfl
@[simp] theorem setCmd_ctxs (n : Nat) (c : Cmd) (s : State) : (setCmd n c s).ctxs = s.ctxs := rfl
@[simp] theorem setCmd_seqs (n : Nat) (c : Cmd) (s : State) : (setCmd n c s).seqs = s.seqs := rfl
@[simp] theorem setCmd_descs (n : Nat) (c : Cmd) (s : State) : (setCmd n c s).descs = s.descs := rfl
@[simp] theorem setCmd_qps (n : Nat) (c : Cmd) (s : State) : (setCmd n c s).qps = s.qps := rfl
@[simp] theorem setCmd_jobs (n : Nat) (c : Cmd) (s : State) : (setCmd n c s).jobs = s.jobs := rfl
@[simp] theorem setCmd_asks (n : Nat) (c : Cmd) (s : State) : (setCmd n c s).asks = s.asks := rfl
@[simp] theorem setCmd_ports (n : Nat) (c : Cmd) (s : State) : (setCmd n c s).ports = s.ports := rfl
@[simp] theorem setCmd_cal (n : Nat) (c : Cmd) (s : State) : (setCmd n c s).cal = s.cal := rfl
@[simp] theorem setCmd_clks (n : Nat) (c : Cmd) (s : State) : (setCmd n c s).clks = s.clks := rfl
@[simp] theorem setCmd_board (n : Nat) (c : Cmd) (s : State) : (setCmd n c s).board = s.board := rfl
@[simp] theorem setCmd_gov (n : Nat) (c : Cmd) (s : State) : (setCmd n c s).gov = s.gov := rfl
@[simp] theorem setCmd_madc (n : Nat) (c : Cmd) (s : State) : (setCmd n c s).madc = s.madc := rfl
@[simp] theorem setCmd_parts (n : Nat) (c : Cmd) (s : State) : (setCmd n c s).parts = s.parts := rfl

/-! `modCx` writes `ctxs` alone. -/

@[simp] theorem modCx_pending (n : Nat) (f : Ctx → Ctx) (s : State) : (modCx n f s).pending = s.pending := rfl
@[simp] theorem modCx_out (n : Nat) (f : Ctx → Ctx) (s : State) : (modCx n f s).out = s.out := rfl
@[simp] theorem modCx_now (n : Nat) (f : Ctx → Ctx) (s : State) : (modCx n f s).now = s.now := rfl
@[simp] theorem modCx_free (n : Nat) (f : Ctx → Ctx) (s : State) : (modCx n f s).free = s.free := rfl
@[simp] theorem modCx_fuses (n : Nat) (f : Ctx → Ctx) (s : State) : (modCx n f s).fuses = s.fuses := rfl
@[simp] theorem modCx_regs (n : Nat) (f : Ctx → Ctx) (s : State) : (modCx n f s).regs = s.regs := rfl
@[simp] theorem modCx_mem (n : Nat) (f : Ctx → Ctx) (s : State) : (modCx n f s).mem = s.mem := rfl
@[simp] theorem modCx_poison (n : Nat) (f : Ctx → Ctx) (s : State) : (modCx n f s).poison = s.poison := rfl
@[simp] theorem modCx_fns (n : Nat) (f : Ctx → Ctx) (s : State) : (modCx n f s).fns = s.fns := rfl
@[simp] theorem modCx_units (n : Nat) (f : Ctx → Ctx) (s : State) : (modCx n f s).units = s.units := rfl
@[simp] theorem modCx_crossings (n : Nat) (f : Ctx → Ctx) (s : State) : (modCx n f s).crossings = s.crossings := rfl
@[simp] theorem modCx_sil (n : Nat) (f : Ctx → Ctx) (s : State) : (modCx n f s).sil = s.sil := rfl
@[simp] theorem modCx_pkg (n : Nat) (f : Ctx → Ctx) (s : State) : (modCx n f s).pkg = s.pkg := rfl
@[simp] theorem modCx_tiles (n : Nat) (f : Ctx → Ctx) (s : State) : (modCx n f s).tiles = s.tiles := rfl
@[simp] theorem modCx_tlayers (n : Nat) (f : Ctx → Ctx) (s : State) : (modCx n f s).tlayers = s.tlayers := rfl
@[simp] theorem modCx_pools (n : Nat) (f : Ctx → Ctx) (s : State) : (modCx n f s).pools = s.pools := rfl
@[simp] theorem modCx_acc (n : Nat) (f : Ctx → Ctx) (s : State) : (modCx n f s).acc = s.acc := rfl
@[simp] theorem modCx_vready (n : Nat) (f : Ctx → Ctx) (s : State) : (modCx n f s).vready = s.vready := rfl
@[simp] theorem modCx_vheld (n : Nat) (f : Ctx → Ctx) (s : State) : (modCx n f s).vheld = s.vheld := rfl
@[simp] theorem modCx_poisonX (n : Nat) (f : Ctx → Ctx) (s : State) : (modCx n f s).poisonX = s.poisonX := rfl
@[simp] theorem modCx_lost (n : Nat) (f : Ctx → Ctx) (s : State) : (modCx n f s).lost = s.lost := rfl
@[simp] theorem modCx_dbg (n : Nat) (f : Ctx → Ctx) (s : State) : (modCx n f s).dbg = s.dbg := rfl
@[simp] theorem modCx_vctx (n : Nat) (f : Ctx → Ctx) (s : State) : (modCx n f s).vctx = s.vctx := rfl
@[simp] theorem modCx_vslots (n : Nat) (f : Ctx → Ctx) (s : State) : (modCx n f s).vslots = s.vslots := rfl
@[simp] theorem modCx_queues (n : Nat) (f : Ctx → Ctx) (s : State) : (modCx n f s).queues = s.queues := rfl
@[simp] theorem modCx_cmds (n : Nat) (f : Ctx → Ctx) (s : State) : (modCx n f s).cmds = s.cmds := rfl
@[simp] theorem modCx_seqs (n : Nat) (f : Ctx → Ctx) (s : State) : (modCx n f s).seqs = s.seqs := rfl
@[simp] theorem modCx_descs (n : Nat) (f : Ctx → Ctx) (s : State) : (modCx n f s).descs = s.descs := rfl
@[simp] theorem modCx_qps (n : Nat) (f : Ctx → Ctx) (s : State) : (modCx n f s).qps = s.qps := rfl
@[simp] theorem modCx_jobs (n : Nat) (f : Ctx → Ctx) (s : State) : (modCx n f s).jobs = s.jobs := rfl
@[simp] theorem modCx_asks (n : Nat) (f : Ctx → Ctx) (s : State) : (modCx n f s).asks = s.asks := rfl
@[simp] theorem modCx_ports (n : Nat) (f : Ctx → Ctx) (s : State) : (modCx n f s).ports = s.ports := rfl
@[simp] theorem modCx_cal (n : Nat) (f : Ctx → Ctx) (s : State) : (modCx n f s).cal = s.cal := rfl
@[simp] theorem modCx_clks (n : Nat) (f : Ctx → Ctx) (s : State) : (modCx n f s).clks = s.clks := rfl
@[simp] theorem modCx_board (n : Nat) (f : Ctx → Ctx) (s : State) : (modCx n f s).board = s.board := rfl
@[simp] theorem modCx_gov (n : Nat) (f : Ctx → Ctx) (s : State) : (modCx n f s).gov = s.gov := rfl
@[simp] theorem modCx_madc (n : Nat) (f : Ctx → Ctx) (s : State) : (modCx n f s).madc = s.madc := rfl
@[simp] theorem modCx_parts (n : Nat) (f : Ctx → Ctx) (s : State) : (modCx n f s).parts = s.parts := rfl

/-! `modSeq` writes `seqs` alone. -/

@[simp] theorem modSeq_pending (n : Nat) (f : Seq → Seq) (s : State) : (modSeq n f s).pending = s.pending := rfl
@[simp] theorem modSeq_out (n : Nat) (f : Seq → Seq) (s : State) : (modSeq n f s).out = s.out := rfl
@[simp] theorem modSeq_now (n : Nat) (f : Seq → Seq) (s : State) : (modSeq n f s).now = s.now := rfl
@[simp] theorem modSeq_free (n : Nat) (f : Seq → Seq) (s : State) : (modSeq n f s).free = s.free := rfl
@[simp] theorem modSeq_fuses (n : Nat) (f : Seq → Seq) (s : State) : (modSeq n f s).fuses = s.fuses := rfl
@[simp] theorem modSeq_regs (n : Nat) (f : Seq → Seq) (s : State) : (modSeq n f s).regs = s.regs := rfl
@[simp] theorem modSeq_mem (n : Nat) (f : Seq → Seq) (s : State) : (modSeq n f s).mem = s.mem := rfl
@[simp] theorem modSeq_poison (n : Nat) (f : Seq → Seq) (s : State) : (modSeq n f s).poison = s.poison := rfl
@[simp] theorem modSeq_fns (n : Nat) (f : Seq → Seq) (s : State) : (modSeq n f s).fns = s.fns := rfl
@[simp] theorem modSeq_units (n : Nat) (f : Seq → Seq) (s : State) : (modSeq n f s).units = s.units := rfl
@[simp] theorem modSeq_crossings (n : Nat) (f : Seq → Seq) (s : State) : (modSeq n f s).crossings = s.crossings := rfl
@[simp] theorem modSeq_sil (n : Nat) (f : Seq → Seq) (s : State) : (modSeq n f s).sil = s.sil := rfl
@[simp] theorem modSeq_pkg (n : Nat) (f : Seq → Seq) (s : State) : (modSeq n f s).pkg = s.pkg := rfl
@[simp] theorem modSeq_tiles (n : Nat) (f : Seq → Seq) (s : State) : (modSeq n f s).tiles = s.tiles := rfl
@[simp] theorem modSeq_tlayers (n : Nat) (f : Seq → Seq) (s : State) : (modSeq n f s).tlayers = s.tlayers := rfl
@[simp] theorem modSeq_pools (n : Nat) (f : Seq → Seq) (s : State) : (modSeq n f s).pools = s.pools := rfl
@[simp] theorem modSeq_acc (n : Nat) (f : Seq → Seq) (s : State) : (modSeq n f s).acc = s.acc := rfl
@[simp] theorem modSeq_vready (n : Nat) (f : Seq → Seq) (s : State) : (modSeq n f s).vready = s.vready := rfl
@[simp] theorem modSeq_vheld (n : Nat) (f : Seq → Seq) (s : State) : (modSeq n f s).vheld = s.vheld := rfl
@[simp] theorem modSeq_poisonX (n : Nat) (f : Seq → Seq) (s : State) : (modSeq n f s).poisonX = s.poisonX := rfl
@[simp] theorem modSeq_lost (n : Nat) (f : Seq → Seq) (s : State) : (modSeq n f s).lost = s.lost := rfl
@[simp] theorem modSeq_dbg (n : Nat) (f : Seq → Seq) (s : State) : (modSeq n f s).dbg = s.dbg := rfl
@[simp] theorem modSeq_vctx (n : Nat) (f : Seq → Seq) (s : State) : (modSeq n f s).vctx = s.vctx := rfl
@[simp] theorem modSeq_vslots (n : Nat) (f : Seq → Seq) (s : State) : (modSeq n f s).vslots = s.vslots := rfl
@[simp] theorem modSeq_queues (n : Nat) (f : Seq → Seq) (s : State) : (modSeq n f s).queues = s.queues := rfl
@[simp] theorem modSeq_cmds (n : Nat) (f : Seq → Seq) (s : State) : (modSeq n f s).cmds = s.cmds := rfl
@[simp] theorem modSeq_ctxs (n : Nat) (f : Seq → Seq) (s : State) : (modSeq n f s).ctxs = s.ctxs := rfl
@[simp] theorem modSeq_descs (n : Nat) (f : Seq → Seq) (s : State) : (modSeq n f s).descs = s.descs := rfl
@[simp] theorem modSeq_qps (n : Nat) (f : Seq → Seq) (s : State) : (modSeq n f s).qps = s.qps := rfl
@[simp] theorem modSeq_jobs (n : Nat) (f : Seq → Seq) (s : State) : (modSeq n f s).jobs = s.jobs := rfl
@[simp] theorem modSeq_asks (n : Nat) (f : Seq → Seq) (s : State) : (modSeq n f s).asks = s.asks := rfl
@[simp] theorem modSeq_ports (n : Nat) (f : Seq → Seq) (s : State) : (modSeq n f s).ports = s.ports := rfl
@[simp] theorem modSeq_cal (n : Nat) (f : Seq → Seq) (s : State) : (modSeq n f s).cal = s.cal := rfl
@[simp] theorem modSeq_clks (n : Nat) (f : Seq → Seq) (s : State) : (modSeq n f s).clks = s.clks := rfl
@[simp] theorem modSeq_board (n : Nat) (f : Seq → Seq) (s : State) : (modSeq n f s).board = s.board := rfl
@[simp] theorem modSeq_gov (n : Nat) (f : Seq → Seq) (s : State) : (modSeq n f s).gov = s.gov := rfl
@[simp] theorem modSeq_madc (n : Nat) (f : Seq → Seq) (s : State) : (modSeq n f s).madc = s.madc := rfl
@[simp] theorem modSeq_parts (n : Nat) (f : Seq → Seq) (s : State) : (modSeq n f s).parts = s.parts := rfl

/-! `modDesc` writes `descs` alone. -/

@[simp] theorem modDesc_pending (n : Nat) (f : Desc → Desc) (s : State) : (modDesc n f s).pending = s.pending := rfl
@[simp] theorem modDesc_out (n : Nat) (f : Desc → Desc) (s : State) : (modDesc n f s).out = s.out := rfl
@[simp] theorem modDesc_now (n : Nat) (f : Desc → Desc) (s : State) : (modDesc n f s).now = s.now := rfl
@[simp] theorem modDesc_free (n : Nat) (f : Desc → Desc) (s : State) : (modDesc n f s).free = s.free := rfl
@[simp] theorem modDesc_fuses (n : Nat) (f : Desc → Desc) (s : State) : (modDesc n f s).fuses = s.fuses := rfl
@[simp] theorem modDesc_regs (n : Nat) (f : Desc → Desc) (s : State) : (modDesc n f s).regs = s.regs := rfl
@[simp] theorem modDesc_mem (n : Nat) (f : Desc → Desc) (s : State) : (modDesc n f s).mem = s.mem := rfl
@[simp] theorem modDesc_poison (n : Nat) (f : Desc → Desc) (s : State) : (modDesc n f s).poison = s.poison := rfl
@[simp] theorem modDesc_fns (n : Nat) (f : Desc → Desc) (s : State) : (modDesc n f s).fns = s.fns := rfl
@[simp] theorem modDesc_units (n : Nat) (f : Desc → Desc) (s : State) : (modDesc n f s).units = s.units := rfl
@[simp] theorem modDesc_crossings (n : Nat) (f : Desc → Desc) (s : State) : (modDesc n f s).crossings = s.crossings := rfl
@[simp] theorem modDesc_sil (n : Nat) (f : Desc → Desc) (s : State) : (modDesc n f s).sil = s.sil := rfl
@[simp] theorem modDesc_pkg (n : Nat) (f : Desc → Desc) (s : State) : (modDesc n f s).pkg = s.pkg := rfl
@[simp] theorem modDesc_tiles (n : Nat) (f : Desc → Desc) (s : State) : (modDesc n f s).tiles = s.tiles := rfl
@[simp] theorem modDesc_tlayers (n : Nat) (f : Desc → Desc) (s : State) : (modDesc n f s).tlayers = s.tlayers := rfl
@[simp] theorem modDesc_pools (n : Nat) (f : Desc → Desc) (s : State) : (modDesc n f s).pools = s.pools := rfl
@[simp] theorem modDesc_acc (n : Nat) (f : Desc → Desc) (s : State) : (modDesc n f s).acc = s.acc := rfl
@[simp] theorem modDesc_vready (n : Nat) (f : Desc → Desc) (s : State) : (modDesc n f s).vready = s.vready := rfl
@[simp] theorem modDesc_vheld (n : Nat) (f : Desc → Desc) (s : State) : (modDesc n f s).vheld = s.vheld := rfl
@[simp] theorem modDesc_poisonX (n : Nat) (f : Desc → Desc) (s : State) : (modDesc n f s).poisonX = s.poisonX := rfl
@[simp] theorem modDesc_lost (n : Nat) (f : Desc → Desc) (s : State) : (modDesc n f s).lost = s.lost := rfl
@[simp] theorem modDesc_dbg (n : Nat) (f : Desc → Desc) (s : State) : (modDesc n f s).dbg = s.dbg := rfl
@[simp] theorem modDesc_vctx (n : Nat) (f : Desc → Desc) (s : State) : (modDesc n f s).vctx = s.vctx := rfl
@[simp] theorem modDesc_vslots (n : Nat) (f : Desc → Desc) (s : State) : (modDesc n f s).vslots = s.vslots := rfl
@[simp] theorem modDesc_queues (n : Nat) (f : Desc → Desc) (s : State) : (modDesc n f s).queues = s.queues := rfl
@[simp] theorem modDesc_cmds (n : Nat) (f : Desc → Desc) (s : State) : (modDesc n f s).cmds = s.cmds := rfl
@[simp] theorem modDesc_ctxs (n : Nat) (f : Desc → Desc) (s : State) : (modDesc n f s).ctxs = s.ctxs := rfl
@[simp] theorem modDesc_seqs (n : Nat) (f : Desc → Desc) (s : State) : (modDesc n f s).seqs = s.seqs := rfl
@[simp] theorem modDesc_qps (n : Nat) (f : Desc → Desc) (s : State) : (modDesc n f s).qps = s.qps := rfl
@[simp] theorem modDesc_jobs (n : Nat) (f : Desc → Desc) (s : State) : (modDesc n f s).jobs = s.jobs := rfl
@[simp] theorem modDesc_asks (n : Nat) (f : Desc → Desc) (s : State) : (modDesc n f s).asks = s.asks := rfl
@[simp] theorem modDesc_ports (n : Nat) (f : Desc → Desc) (s : State) : (modDesc n f s).ports = s.ports := rfl
@[simp] theorem modDesc_cal (n : Nat) (f : Desc → Desc) (s : State) : (modDesc n f s).cal = s.cal := rfl
@[simp] theorem modDesc_clks (n : Nat) (f : Desc → Desc) (s : State) : (modDesc n f s).clks = s.clks := rfl
@[simp] theorem modDesc_board (n : Nat) (f : Desc → Desc) (s : State) : (modDesc n f s).board = s.board := rfl
@[simp] theorem modDesc_gov (n : Nat) (f : Desc → Desc) (s : State) : (modDesc n f s).gov = s.gov := rfl
@[simp] theorem modDesc_madc (n : Nat) (f : Desc → Desc) (s : State) : (modDesc n f s).madc = s.madc := rfl
@[simp] theorem modDesc_parts (n : Nat) (f : Desc → Desc) (s : State) : (modDesc n f s).parts = s.parts := rfl

/-! `modQp` writes `qps` alone. -/

@[simp] theorem modQp_pending (n : Nat) (f : QPair → QPair) (s : State) : (modQp n f s).pending = s.pending := rfl
@[simp] theorem modQp_out (n : Nat) (f : QPair → QPair) (s : State) : (modQp n f s).out = s.out := rfl
@[simp] theorem modQp_now (n : Nat) (f : QPair → QPair) (s : State) : (modQp n f s).now = s.now := rfl
@[simp] theorem modQp_free (n : Nat) (f : QPair → QPair) (s : State) : (modQp n f s).free = s.free := rfl
@[simp] theorem modQp_fuses (n : Nat) (f : QPair → QPair) (s : State) : (modQp n f s).fuses = s.fuses := rfl
@[simp] theorem modQp_regs (n : Nat) (f : QPair → QPair) (s : State) : (modQp n f s).regs = s.regs := rfl
@[simp] theorem modQp_mem (n : Nat) (f : QPair → QPair) (s : State) : (modQp n f s).mem = s.mem := rfl
@[simp] theorem modQp_poison (n : Nat) (f : QPair → QPair) (s : State) : (modQp n f s).poison = s.poison := rfl
@[simp] theorem modQp_fns (n : Nat) (f : QPair → QPair) (s : State) : (modQp n f s).fns = s.fns := rfl
@[simp] theorem modQp_units (n : Nat) (f : QPair → QPair) (s : State) : (modQp n f s).units = s.units := rfl
@[simp] theorem modQp_crossings (n : Nat) (f : QPair → QPair) (s : State) : (modQp n f s).crossings = s.crossings := rfl
@[simp] theorem modQp_sil (n : Nat) (f : QPair → QPair) (s : State) : (modQp n f s).sil = s.sil := rfl
@[simp] theorem modQp_pkg (n : Nat) (f : QPair → QPair) (s : State) : (modQp n f s).pkg = s.pkg := rfl
@[simp] theorem modQp_tiles (n : Nat) (f : QPair → QPair) (s : State) : (modQp n f s).tiles = s.tiles := rfl
@[simp] theorem modQp_tlayers (n : Nat) (f : QPair → QPair) (s : State) : (modQp n f s).tlayers = s.tlayers := rfl
@[simp] theorem modQp_pools (n : Nat) (f : QPair → QPair) (s : State) : (modQp n f s).pools = s.pools := rfl
@[simp] theorem modQp_acc (n : Nat) (f : QPair → QPair) (s : State) : (modQp n f s).acc = s.acc := rfl
@[simp] theorem modQp_vready (n : Nat) (f : QPair → QPair) (s : State) : (modQp n f s).vready = s.vready := rfl
@[simp] theorem modQp_vheld (n : Nat) (f : QPair → QPair) (s : State) : (modQp n f s).vheld = s.vheld := rfl
@[simp] theorem modQp_poisonX (n : Nat) (f : QPair → QPair) (s : State) : (modQp n f s).poisonX = s.poisonX := rfl
@[simp] theorem modQp_lost (n : Nat) (f : QPair → QPair) (s : State) : (modQp n f s).lost = s.lost := rfl
@[simp] theorem modQp_dbg (n : Nat) (f : QPair → QPair) (s : State) : (modQp n f s).dbg = s.dbg := rfl
@[simp] theorem modQp_vctx (n : Nat) (f : QPair → QPair) (s : State) : (modQp n f s).vctx = s.vctx := rfl
@[simp] theorem modQp_vslots (n : Nat) (f : QPair → QPair) (s : State) : (modQp n f s).vslots = s.vslots := rfl
@[simp] theorem modQp_queues (n : Nat) (f : QPair → QPair) (s : State) : (modQp n f s).queues = s.queues := rfl
@[simp] theorem modQp_cmds (n : Nat) (f : QPair → QPair) (s : State) : (modQp n f s).cmds = s.cmds := rfl
@[simp] theorem modQp_ctxs (n : Nat) (f : QPair → QPair) (s : State) : (modQp n f s).ctxs = s.ctxs := rfl
@[simp] theorem modQp_seqs (n : Nat) (f : QPair → QPair) (s : State) : (modQp n f s).seqs = s.seqs := rfl
@[simp] theorem modQp_descs (n : Nat) (f : QPair → QPair) (s : State) : (modQp n f s).descs = s.descs := rfl
@[simp] theorem modQp_jobs (n : Nat) (f : QPair → QPair) (s : State) : (modQp n f s).jobs = s.jobs := rfl
@[simp] theorem modQp_asks (n : Nat) (f : QPair → QPair) (s : State) : (modQp n f s).asks = s.asks := rfl
@[simp] theorem modQp_ports (n : Nat) (f : QPair → QPair) (s : State) : (modQp n f s).ports = s.ports := rfl
@[simp] theorem modQp_cal (n : Nat) (f : QPair → QPair) (s : State) : (modQp n f s).cal = s.cal := rfl
@[simp] theorem modQp_clks (n : Nat) (f : QPair → QPair) (s : State) : (modQp n f s).clks = s.clks := rfl
@[simp] theorem modQp_board (n : Nat) (f : QPair → QPair) (s : State) : (modQp n f s).board = s.board := rfl
@[simp] theorem modQp_gov (n : Nat) (f : QPair → QPair) (s : State) : (modQp n f s).gov = s.gov := rfl
@[simp] theorem modQp_madc (n : Nat) (f : QPair → QPair) (s : State) : (modQp n f s).madc = s.madc := rfl
@[simp] theorem modQp_parts (n : Nat) (f : QPair → QPair) (s : State) : (modQp n f s).parts = s.parts := rfl

/-! `modMember` writes `jobs` alone. -/

@[simp] theorem modMember_pending (n : Nat) (f : Job → Job) (s : State) : (modMember n f s).pending = s.pending := rfl
@[simp] theorem modMember_out (n : Nat) (f : Job → Job) (s : State) : (modMember n f s).out = s.out := rfl
@[simp] theorem modMember_now (n : Nat) (f : Job → Job) (s : State) : (modMember n f s).now = s.now := rfl
@[simp] theorem modMember_free (n : Nat) (f : Job → Job) (s : State) : (modMember n f s).free = s.free := rfl
@[simp] theorem modMember_fuses (n : Nat) (f : Job → Job) (s : State) : (modMember n f s).fuses = s.fuses := rfl
@[simp] theorem modMember_regs (n : Nat) (f : Job → Job) (s : State) : (modMember n f s).regs = s.regs := rfl
@[simp] theorem modMember_mem (n : Nat) (f : Job → Job) (s : State) : (modMember n f s).mem = s.mem := rfl
@[simp] theorem modMember_poison (n : Nat) (f : Job → Job) (s : State) : (modMember n f s).poison = s.poison := rfl
@[simp] theorem modMember_fns (n : Nat) (f : Job → Job) (s : State) : (modMember n f s).fns = s.fns := rfl
@[simp] theorem modMember_units (n : Nat) (f : Job → Job) (s : State) : (modMember n f s).units = s.units := rfl
@[simp] theorem modMember_crossings (n : Nat) (f : Job → Job) (s : State) : (modMember n f s).crossings = s.crossings := rfl
@[simp] theorem modMember_sil (n : Nat) (f : Job → Job) (s : State) : (modMember n f s).sil = s.sil := rfl
@[simp] theorem modMember_pkg (n : Nat) (f : Job → Job) (s : State) : (modMember n f s).pkg = s.pkg := rfl
@[simp] theorem modMember_tiles (n : Nat) (f : Job → Job) (s : State) : (modMember n f s).tiles = s.tiles := rfl
@[simp] theorem modMember_tlayers (n : Nat) (f : Job → Job) (s : State) : (modMember n f s).tlayers = s.tlayers := rfl
@[simp] theorem modMember_pools (n : Nat) (f : Job → Job) (s : State) : (modMember n f s).pools = s.pools := rfl
@[simp] theorem modMember_acc (n : Nat) (f : Job → Job) (s : State) : (modMember n f s).acc = s.acc := rfl
@[simp] theorem modMember_vready (n : Nat) (f : Job → Job) (s : State) : (modMember n f s).vready = s.vready := rfl
@[simp] theorem modMember_vheld (n : Nat) (f : Job → Job) (s : State) : (modMember n f s).vheld = s.vheld := rfl
@[simp] theorem modMember_poisonX (n : Nat) (f : Job → Job) (s : State) : (modMember n f s).poisonX = s.poisonX := rfl
@[simp] theorem modMember_lost (n : Nat) (f : Job → Job) (s : State) : (modMember n f s).lost = s.lost := rfl
@[simp] theorem modMember_dbg (n : Nat) (f : Job → Job) (s : State) : (modMember n f s).dbg = s.dbg := rfl
@[simp] theorem modMember_vctx (n : Nat) (f : Job → Job) (s : State) : (modMember n f s).vctx = s.vctx := rfl
@[simp] theorem modMember_vslots (n : Nat) (f : Job → Job) (s : State) : (modMember n f s).vslots = s.vslots := rfl
@[simp] theorem modMember_queues (n : Nat) (f : Job → Job) (s : State) : (modMember n f s).queues = s.queues := rfl
@[simp] theorem modMember_cmds (n : Nat) (f : Job → Job) (s : State) : (modMember n f s).cmds = s.cmds := rfl
@[simp] theorem modMember_ctxs (n : Nat) (f : Job → Job) (s : State) : (modMember n f s).ctxs = s.ctxs := rfl
@[simp] theorem modMember_seqs (n : Nat) (f : Job → Job) (s : State) : (modMember n f s).seqs = s.seqs := rfl
@[simp] theorem modMember_descs (n : Nat) (f : Job → Job) (s : State) : (modMember n f s).descs = s.descs := rfl
@[simp] theorem modMember_qps (n : Nat) (f : Job → Job) (s : State) : (modMember n f s).qps = s.qps := rfl
@[simp] theorem modMember_ports (n : Nat) (f : Job → Job) (s : State) : (modMember n f s).ports = s.ports := rfl
@[simp] theorem modMember_cal (n : Nat) (f : Job → Job) (s : State) : (modMember n f s).cal = s.cal := rfl
@[simp] theorem modMember_clks (n : Nat) (f : Job → Job) (s : State) : (modMember n f s).clks = s.clks := rfl
@[simp] theorem modMember_board (n : Nat) (f : Job → Job) (s : State) : (modMember n f s).board = s.board := rfl
@[simp] theorem modMember_gov (n : Nat) (f : Job → Job) (s : State) : (modMember n f s).gov = s.gov := rfl
@[simp] theorem modMember_madc (n : Nat) (f : Job → Job) (s : State) : (modMember n f s).madc = s.madc := rfl
@[simp] theorem modMember_parts (n : Nat) (f : Job → Job) (s : State) : (modMember n f s).parts = s.parts := rfl

/-! `modLport` writes `ports` alone. -/

@[simp] theorem modLport_pending (n : Nat) (f : Port → Port) (s : State) : (modLport n f s).pending = s.pending := rfl
@[simp] theorem modLport_out (n : Nat) (f : Port → Port) (s : State) : (modLport n f s).out = s.out := rfl
@[simp] theorem modLport_now (n : Nat) (f : Port → Port) (s : State) : (modLport n f s).now = s.now := rfl
@[simp] theorem modLport_free (n : Nat) (f : Port → Port) (s : State) : (modLport n f s).free = s.free := rfl
@[simp] theorem modLport_fuses (n : Nat) (f : Port → Port) (s : State) : (modLport n f s).fuses = s.fuses := rfl
@[simp] theorem modLport_regs (n : Nat) (f : Port → Port) (s : State) : (modLport n f s).regs = s.regs := rfl
@[simp] theorem modLport_mem (n : Nat) (f : Port → Port) (s : State) : (modLport n f s).mem = s.mem := rfl
@[simp] theorem modLport_poison (n : Nat) (f : Port → Port) (s : State) : (modLport n f s).poison = s.poison := rfl
@[simp] theorem modLport_fns (n : Nat) (f : Port → Port) (s : State) : (modLport n f s).fns = s.fns := rfl
@[simp] theorem modLport_units (n : Nat) (f : Port → Port) (s : State) : (modLport n f s).units = s.units := rfl
@[simp] theorem modLport_crossings (n : Nat) (f : Port → Port) (s : State) : (modLport n f s).crossings = s.crossings := rfl
@[simp] theorem modLport_sil (n : Nat) (f : Port → Port) (s : State) : (modLport n f s).sil = s.sil := rfl
@[simp] theorem modLport_pkg (n : Nat) (f : Port → Port) (s : State) : (modLport n f s).pkg = s.pkg := rfl
@[simp] theorem modLport_tiles (n : Nat) (f : Port → Port) (s : State) : (modLport n f s).tiles = s.tiles := rfl
@[simp] theorem modLport_tlayers (n : Nat) (f : Port → Port) (s : State) : (modLport n f s).tlayers = s.tlayers := rfl
@[simp] theorem modLport_pools (n : Nat) (f : Port → Port) (s : State) : (modLport n f s).pools = s.pools := rfl
@[simp] theorem modLport_acc (n : Nat) (f : Port → Port) (s : State) : (modLport n f s).acc = s.acc := rfl
@[simp] theorem modLport_vready (n : Nat) (f : Port → Port) (s : State) : (modLport n f s).vready = s.vready := rfl
@[simp] theorem modLport_vheld (n : Nat) (f : Port → Port) (s : State) : (modLport n f s).vheld = s.vheld := rfl
@[simp] theorem modLport_poisonX (n : Nat) (f : Port → Port) (s : State) : (modLport n f s).poisonX = s.poisonX := rfl
@[simp] theorem modLport_lost (n : Nat) (f : Port → Port) (s : State) : (modLport n f s).lost = s.lost := rfl
@[simp] theorem modLport_dbg (n : Nat) (f : Port → Port) (s : State) : (modLport n f s).dbg = s.dbg := rfl
@[simp] theorem modLport_vctx (n : Nat) (f : Port → Port) (s : State) : (modLport n f s).vctx = s.vctx := rfl
@[simp] theorem modLport_vslots (n : Nat) (f : Port → Port) (s : State) : (modLport n f s).vslots = s.vslots := rfl
@[simp] theorem modLport_queues (n : Nat) (f : Port → Port) (s : State) : (modLport n f s).queues = s.queues := rfl
@[simp] theorem modLport_cmds (n : Nat) (f : Port → Port) (s : State) : (modLport n f s).cmds = s.cmds := rfl
@[simp] theorem modLport_ctxs (n : Nat) (f : Port → Port) (s : State) : (modLport n f s).ctxs = s.ctxs := rfl
@[simp] theorem modLport_seqs (n : Nat) (f : Port → Port) (s : State) : (modLport n f s).seqs = s.seqs := rfl
@[simp] theorem modLport_descs (n : Nat) (f : Port → Port) (s : State) : (modLport n f s).descs = s.descs := rfl
@[simp] theorem modLport_qps (n : Nat) (f : Port → Port) (s : State) : (modLport n f s).qps = s.qps := rfl
@[simp] theorem modLport_jobs (n : Nat) (f : Port → Port) (s : State) : (modLport n f s).jobs = s.jobs := rfl
@[simp] theorem modLport_asks (n : Nat) (f : Port → Port) (s : State) : (modLport n f s).asks = s.asks := rfl
@[simp] theorem modLport_cal (n : Nat) (f : Port → Port) (s : State) : (modLport n f s).cal = s.cal := rfl
@[simp] theorem modLport_clks (n : Nat) (f : Port → Port) (s : State) : (modLport n f s).clks = s.clks := rfl
@[simp] theorem modLport_board (n : Nat) (f : Port → Port) (s : State) : (modLport n f s).board = s.board := rfl
@[simp] theorem modLport_gov (n : Nat) (f : Port → Port) (s : State) : (modLport n f s).gov = s.gov := rfl
@[simp] theorem modLport_madc (n : Nat) (f : Port → Port) (s : State) : (modLport n f s).madc = s.madc := rfl
@[simp] theorem modLport_parts (n : Nat) (f : Port → Port) (s : State) : (modLport n f s).parts = s.parts := rfl

/-! `modClk` writes `clks` alone. -/

@[simp] theorem modClk_pending (n : Nat) (f : Clk → Clk) (s : State) : (modClk n f s).pending = s.pending := rfl
@[simp] theorem modClk_out (n : Nat) (f : Clk → Clk) (s : State) : (modClk n f s).out = s.out := rfl
@[simp] theorem modClk_now (n : Nat) (f : Clk → Clk) (s : State) : (modClk n f s).now = s.now := rfl
@[simp] theorem modClk_free (n : Nat) (f : Clk → Clk) (s : State) : (modClk n f s).free = s.free := rfl
@[simp] theorem modClk_fuses (n : Nat) (f : Clk → Clk) (s : State) : (modClk n f s).fuses = s.fuses := rfl
@[simp] theorem modClk_regs (n : Nat) (f : Clk → Clk) (s : State) : (modClk n f s).regs = s.regs := rfl
@[simp] theorem modClk_mem (n : Nat) (f : Clk → Clk) (s : State) : (modClk n f s).mem = s.mem := rfl
@[simp] theorem modClk_poison (n : Nat) (f : Clk → Clk) (s : State) : (modClk n f s).poison = s.poison := rfl
@[simp] theorem modClk_fns (n : Nat) (f : Clk → Clk) (s : State) : (modClk n f s).fns = s.fns := rfl
@[simp] theorem modClk_units (n : Nat) (f : Clk → Clk) (s : State) : (modClk n f s).units = s.units := rfl
@[simp] theorem modClk_crossings (n : Nat) (f : Clk → Clk) (s : State) : (modClk n f s).crossings = s.crossings := rfl
@[simp] theorem modClk_sil (n : Nat) (f : Clk → Clk) (s : State) : (modClk n f s).sil = s.sil := rfl
@[simp] theorem modClk_pkg (n : Nat) (f : Clk → Clk) (s : State) : (modClk n f s).pkg = s.pkg := rfl
@[simp] theorem modClk_tiles (n : Nat) (f : Clk → Clk) (s : State) : (modClk n f s).tiles = s.tiles := rfl
@[simp] theorem modClk_tlayers (n : Nat) (f : Clk → Clk) (s : State) : (modClk n f s).tlayers = s.tlayers := rfl
@[simp] theorem modClk_pools (n : Nat) (f : Clk → Clk) (s : State) : (modClk n f s).pools = s.pools := rfl
@[simp] theorem modClk_acc (n : Nat) (f : Clk → Clk) (s : State) : (modClk n f s).acc = s.acc := rfl
@[simp] theorem modClk_vready (n : Nat) (f : Clk → Clk) (s : State) : (modClk n f s).vready = s.vready := rfl
@[simp] theorem modClk_vheld (n : Nat) (f : Clk → Clk) (s : State) : (modClk n f s).vheld = s.vheld := rfl
@[simp] theorem modClk_poisonX (n : Nat) (f : Clk → Clk) (s : State) : (modClk n f s).poisonX = s.poisonX := rfl
@[simp] theorem modClk_lost (n : Nat) (f : Clk → Clk) (s : State) : (modClk n f s).lost = s.lost := rfl
@[simp] theorem modClk_dbg (n : Nat) (f : Clk → Clk) (s : State) : (modClk n f s).dbg = s.dbg := rfl
@[simp] theorem modClk_vctx (n : Nat) (f : Clk → Clk) (s : State) : (modClk n f s).vctx = s.vctx := rfl
@[simp] theorem modClk_vslots (n : Nat) (f : Clk → Clk) (s : State) : (modClk n f s).vslots = s.vslots := rfl
@[simp] theorem modClk_queues (n : Nat) (f : Clk → Clk) (s : State) : (modClk n f s).queues = s.queues := rfl
@[simp] theorem modClk_cmds (n : Nat) (f : Clk → Clk) (s : State) : (modClk n f s).cmds = s.cmds := rfl
@[simp] theorem modClk_ctxs (n : Nat) (f : Clk → Clk) (s : State) : (modClk n f s).ctxs = s.ctxs := rfl
@[simp] theorem modClk_seqs (n : Nat) (f : Clk → Clk) (s : State) : (modClk n f s).seqs = s.seqs := rfl
@[simp] theorem modClk_descs (n : Nat) (f : Clk → Clk) (s : State) : (modClk n f s).descs = s.descs := rfl
@[simp] theorem modClk_qps (n : Nat) (f : Clk → Clk) (s : State) : (modClk n f s).qps = s.qps := rfl
@[simp] theorem modClk_jobs (n : Nat) (f : Clk → Clk) (s : State) : (modClk n f s).jobs = s.jobs := rfl
@[simp] theorem modClk_asks (n : Nat) (f : Clk → Clk) (s : State) : (modClk n f s).asks = s.asks := rfl
@[simp] theorem modClk_ports (n : Nat) (f : Clk → Clk) (s : State) : (modClk n f s).ports = s.ports := rfl
@[simp] theorem modClk_cal (n : Nat) (f : Clk → Clk) (s : State) : (modClk n f s).cal = s.cal := rfl
@[simp] theorem modClk_board (n : Nat) (f : Clk → Clk) (s : State) : (modClk n f s).board = s.board := rfl
@[simp] theorem modClk_gov (n : Nat) (f : Clk → Clk) (s : State) : (modClk n f s).gov = s.gov := rfl
@[simp] theorem modClk_madc (n : Nat) (f : Clk → Clk) (s : State) : (modClk n f s).madc = s.madc := rfl
@[simp] theorem modClk_parts (n : Nat) (f : Clk → Clk) (s : State) : (modClk n f s).parts = s.parts := rfl

/-! `modCal` writes `cal` alone. -/

@[simp] theorem modCal_pending (n : Nat) (f : BayCal → BayCal) (s : State) : (modCal n f s).pending = s.pending := rfl
@[simp] theorem modCal_out (n : Nat) (f : BayCal → BayCal) (s : State) : (modCal n f s).out = s.out := rfl
@[simp] theorem modCal_now (n : Nat) (f : BayCal → BayCal) (s : State) : (modCal n f s).now = s.now := rfl
@[simp] theorem modCal_free (n : Nat) (f : BayCal → BayCal) (s : State) : (modCal n f s).free = s.free := rfl
@[simp] theorem modCal_fuses (n : Nat) (f : BayCal → BayCal) (s : State) : (modCal n f s).fuses = s.fuses := rfl
@[simp] theorem modCal_regs (n : Nat) (f : BayCal → BayCal) (s : State) : (modCal n f s).regs = s.regs := rfl
@[simp] theorem modCal_mem (n : Nat) (f : BayCal → BayCal) (s : State) : (modCal n f s).mem = s.mem := rfl
@[simp] theorem modCal_poison (n : Nat) (f : BayCal → BayCal) (s : State) : (modCal n f s).poison = s.poison := rfl
@[simp] theorem modCal_fns (n : Nat) (f : BayCal → BayCal) (s : State) : (modCal n f s).fns = s.fns := rfl
@[simp] theorem modCal_units (n : Nat) (f : BayCal → BayCal) (s : State) : (modCal n f s).units = s.units := rfl
@[simp] theorem modCal_crossings (n : Nat) (f : BayCal → BayCal) (s : State) : (modCal n f s).crossings = s.crossings := rfl
@[simp] theorem modCal_sil (n : Nat) (f : BayCal → BayCal) (s : State) : (modCal n f s).sil = s.sil := rfl
@[simp] theorem modCal_pkg (n : Nat) (f : BayCal → BayCal) (s : State) : (modCal n f s).pkg = s.pkg := rfl
@[simp] theorem modCal_tiles (n : Nat) (f : BayCal → BayCal) (s : State) : (modCal n f s).tiles = s.tiles := rfl
@[simp] theorem modCal_tlayers (n : Nat) (f : BayCal → BayCal) (s : State) : (modCal n f s).tlayers = s.tlayers := rfl
@[simp] theorem modCal_pools (n : Nat) (f : BayCal → BayCal) (s : State) : (modCal n f s).pools = s.pools := rfl
@[simp] theorem modCal_acc (n : Nat) (f : BayCal → BayCal) (s : State) : (modCal n f s).acc = s.acc := rfl
@[simp] theorem modCal_vready (n : Nat) (f : BayCal → BayCal) (s : State) : (modCal n f s).vready = s.vready := rfl
@[simp] theorem modCal_vheld (n : Nat) (f : BayCal → BayCal) (s : State) : (modCal n f s).vheld = s.vheld := rfl
@[simp] theorem modCal_poisonX (n : Nat) (f : BayCal → BayCal) (s : State) : (modCal n f s).poisonX = s.poisonX := rfl
@[simp] theorem modCal_lost (n : Nat) (f : BayCal → BayCal) (s : State) : (modCal n f s).lost = s.lost := rfl
@[simp] theorem modCal_dbg (n : Nat) (f : BayCal → BayCal) (s : State) : (modCal n f s).dbg = s.dbg := rfl
@[simp] theorem modCal_vctx (n : Nat) (f : BayCal → BayCal) (s : State) : (modCal n f s).vctx = s.vctx := rfl
@[simp] theorem modCal_vslots (n : Nat) (f : BayCal → BayCal) (s : State) : (modCal n f s).vslots = s.vslots := rfl
@[simp] theorem modCal_queues (n : Nat) (f : BayCal → BayCal) (s : State) : (modCal n f s).queues = s.queues := rfl
@[simp] theorem modCal_cmds (n : Nat) (f : BayCal → BayCal) (s : State) : (modCal n f s).cmds = s.cmds := rfl
@[simp] theorem modCal_ctxs (n : Nat) (f : BayCal → BayCal) (s : State) : (modCal n f s).ctxs = s.ctxs := rfl
@[simp] theorem modCal_seqs (n : Nat) (f : BayCal → BayCal) (s : State) : (modCal n f s).seqs = s.seqs := rfl
@[simp] theorem modCal_descs (n : Nat) (f : BayCal → BayCal) (s : State) : (modCal n f s).descs = s.descs := rfl
@[simp] theorem modCal_qps (n : Nat) (f : BayCal → BayCal) (s : State) : (modCal n f s).qps = s.qps := rfl
@[simp] theorem modCal_jobs (n : Nat) (f : BayCal → BayCal) (s : State) : (modCal n f s).jobs = s.jobs := rfl
@[simp] theorem modCal_asks (n : Nat) (f : BayCal → BayCal) (s : State) : (modCal n f s).asks = s.asks := rfl
@[simp] theorem modCal_ports (n : Nat) (f : BayCal → BayCal) (s : State) : (modCal n f s).ports = s.ports := rfl
@[simp] theorem modCal_clks (n : Nat) (f : BayCal → BayCal) (s : State) : (modCal n f s).clks = s.clks := rfl
@[simp] theorem modCal_board (n : Nat) (f : BayCal → BayCal) (s : State) : (modCal n f s).board = s.board := rfl
@[simp] theorem modCal_gov (n : Nat) (f : BayCal → BayCal) (s : State) : (modCal n f s).gov = s.gov := rfl
@[simp] theorem modCal_madc (n : Nat) (f : BayCal → BayCal) (s : State) : (modCal n f s).madc = s.madc := rfl
@[simp] theorem modCal_parts (n : Nat) (f : BayCal → BayCal) (s : State) : (modCal n f s).parts = s.parts := rfl

/-! `modXing` writes `crossings` alone. -/

@[simp] theorem modXing_pending (n : Nat) (f : Crossing → Crossing) (s : State) : (modXing n f s).pending = s.pending := rfl
@[simp] theorem modXing_out (n : Nat) (f : Crossing → Crossing) (s : State) : (modXing n f s).out = s.out := rfl
@[simp] theorem modXing_now (n : Nat) (f : Crossing → Crossing) (s : State) : (modXing n f s).now = s.now := rfl
@[simp] theorem modXing_free (n : Nat) (f : Crossing → Crossing) (s : State) : (modXing n f s).free = s.free := rfl
@[simp] theorem modXing_fuses (n : Nat) (f : Crossing → Crossing) (s : State) : (modXing n f s).fuses = s.fuses := rfl
@[simp] theorem modXing_regs (n : Nat) (f : Crossing → Crossing) (s : State) : (modXing n f s).regs = s.regs := rfl
@[simp] theorem modXing_mem (n : Nat) (f : Crossing → Crossing) (s : State) : (modXing n f s).mem = s.mem := rfl
@[simp] theorem modXing_poison (n : Nat) (f : Crossing → Crossing) (s : State) : (modXing n f s).poison = s.poison := rfl
@[simp] theorem modXing_fns (n : Nat) (f : Crossing → Crossing) (s : State) : (modXing n f s).fns = s.fns := rfl
@[simp] theorem modXing_units (n : Nat) (f : Crossing → Crossing) (s : State) : (modXing n f s).units = s.units := rfl
@[simp] theorem modXing_sil (n : Nat) (f : Crossing → Crossing) (s : State) : (modXing n f s).sil = s.sil := rfl
@[simp] theorem modXing_pkg (n : Nat) (f : Crossing → Crossing) (s : State) : (modXing n f s).pkg = s.pkg := rfl
@[simp] theorem modXing_tiles (n : Nat) (f : Crossing → Crossing) (s : State) : (modXing n f s).tiles = s.tiles := rfl
@[simp] theorem modXing_tlayers (n : Nat) (f : Crossing → Crossing) (s : State) : (modXing n f s).tlayers = s.tlayers := rfl
@[simp] theorem modXing_pools (n : Nat) (f : Crossing → Crossing) (s : State) : (modXing n f s).pools = s.pools := rfl
@[simp] theorem modXing_acc (n : Nat) (f : Crossing → Crossing) (s : State) : (modXing n f s).acc = s.acc := rfl
@[simp] theorem modXing_vready (n : Nat) (f : Crossing → Crossing) (s : State) : (modXing n f s).vready = s.vready := rfl
@[simp] theorem modXing_vheld (n : Nat) (f : Crossing → Crossing) (s : State) : (modXing n f s).vheld = s.vheld := rfl
@[simp] theorem modXing_poisonX (n : Nat) (f : Crossing → Crossing) (s : State) : (modXing n f s).poisonX = s.poisonX := rfl
@[simp] theorem modXing_lost (n : Nat) (f : Crossing → Crossing) (s : State) : (modXing n f s).lost = s.lost := rfl
@[simp] theorem modXing_dbg (n : Nat) (f : Crossing → Crossing) (s : State) : (modXing n f s).dbg = s.dbg := rfl
@[simp] theorem modXing_vctx (n : Nat) (f : Crossing → Crossing) (s : State) : (modXing n f s).vctx = s.vctx := rfl
@[simp] theorem modXing_vslots (n : Nat) (f : Crossing → Crossing) (s : State) : (modXing n f s).vslots = s.vslots := rfl
@[simp] theorem modXing_queues (n : Nat) (f : Crossing → Crossing) (s : State) : (modXing n f s).queues = s.queues := rfl
@[simp] theorem modXing_cmds (n : Nat) (f : Crossing → Crossing) (s : State) : (modXing n f s).cmds = s.cmds := rfl
@[simp] theorem modXing_ctxs (n : Nat) (f : Crossing → Crossing) (s : State) : (modXing n f s).ctxs = s.ctxs := rfl
@[simp] theorem modXing_seqs (n : Nat) (f : Crossing → Crossing) (s : State) : (modXing n f s).seqs = s.seqs := rfl
@[simp] theorem modXing_descs (n : Nat) (f : Crossing → Crossing) (s : State) : (modXing n f s).descs = s.descs := rfl
@[simp] theorem modXing_qps (n : Nat) (f : Crossing → Crossing) (s : State) : (modXing n f s).qps = s.qps := rfl
@[simp] theorem modXing_jobs (n : Nat) (f : Crossing → Crossing) (s : State) : (modXing n f s).jobs = s.jobs := rfl
@[simp] theorem modXing_asks (n : Nat) (f : Crossing → Crossing) (s : State) : (modXing n f s).asks = s.asks := rfl
@[simp] theorem modXing_ports (n : Nat) (f : Crossing → Crossing) (s : State) : (modXing n f s).ports = s.ports := rfl
@[simp] theorem modXing_cal (n : Nat) (f : Crossing → Crossing) (s : State) : (modXing n f s).cal = s.cal := rfl
@[simp] theorem modXing_clks (n : Nat) (f : Crossing → Crossing) (s : State) : (modXing n f s).clks = s.clks := rfl
@[simp] theorem modXing_board (n : Nat) (f : Crossing → Crossing) (s : State) : (modXing n f s).board = s.board := rfl
@[simp] theorem modXing_gov (n : Nat) (f : Crossing → Crossing) (s : State) : (modXing n f s).gov = s.gov := rfl
@[simp] theorem modXing_madc (n : Nat) (f : Crossing → Crossing) (s : State) : (modXing n f s).madc = s.madc := rfl
@[simp] theorem modXing_parts (n : Nat) (f : Crossing → Crossing) (s : State) : (modXing n f s).parts = s.parts := rfl

/-! `modPart` writes `parts` alone. -/

@[simp] theorem modPart_pending (n : Nat) (f : Part → Part) (s : State) : (modPart n f s).pending = s.pending := rfl
@[simp] theorem modPart_out (n : Nat) (f : Part → Part) (s : State) : (modPart n f s).out = s.out := rfl
@[simp] theorem modPart_now (n : Nat) (f : Part → Part) (s : State) : (modPart n f s).now = s.now := rfl
@[simp] theorem modPart_free (n : Nat) (f : Part → Part) (s : State) : (modPart n f s).free = s.free := rfl
@[simp] theorem modPart_fuses (n : Nat) (f : Part → Part) (s : State) : (modPart n f s).fuses = s.fuses := rfl
@[simp] theorem modPart_regs (n : Nat) (f : Part → Part) (s : State) : (modPart n f s).regs = s.regs := rfl
@[simp] theorem modPart_mem (n : Nat) (f : Part → Part) (s : State) : (modPart n f s).mem = s.mem := rfl
@[simp] theorem modPart_poison (n : Nat) (f : Part → Part) (s : State) : (modPart n f s).poison = s.poison := rfl
@[simp] theorem modPart_fns (n : Nat) (f : Part → Part) (s : State) : (modPart n f s).fns = s.fns := rfl
@[simp] theorem modPart_units (n : Nat) (f : Part → Part) (s : State) : (modPart n f s).units = s.units := rfl
@[simp] theorem modPart_crossings (n : Nat) (f : Part → Part) (s : State) : (modPart n f s).crossings = s.crossings := rfl
@[simp] theorem modPart_sil (n : Nat) (f : Part → Part) (s : State) : (modPart n f s).sil = s.sil := rfl
@[simp] theorem modPart_pkg (n : Nat) (f : Part → Part) (s : State) : (modPart n f s).pkg = s.pkg := rfl
@[simp] theorem modPart_tiles (n : Nat) (f : Part → Part) (s : State) : (modPart n f s).tiles = s.tiles := rfl
@[simp] theorem modPart_tlayers (n : Nat) (f : Part → Part) (s : State) : (modPart n f s).tlayers = s.tlayers := rfl
@[simp] theorem modPart_pools (n : Nat) (f : Part → Part) (s : State) : (modPart n f s).pools = s.pools := rfl
@[simp] theorem modPart_acc (n : Nat) (f : Part → Part) (s : State) : (modPart n f s).acc = s.acc := rfl
@[simp] theorem modPart_vready (n : Nat) (f : Part → Part) (s : State) : (modPart n f s).vready = s.vready := rfl
@[simp] theorem modPart_vheld (n : Nat) (f : Part → Part) (s : State) : (modPart n f s).vheld = s.vheld := rfl
@[simp] theorem modPart_poisonX (n : Nat) (f : Part → Part) (s : State) : (modPart n f s).poisonX = s.poisonX := rfl
@[simp] theorem modPart_lost (n : Nat) (f : Part → Part) (s : State) : (modPart n f s).lost = s.lost := rfl
@[simp] theorem modPart_dbg (n : Nat) (f : Part → Part) (s : State) : (modPart n f s).dbg = s.dbg := rfl
@[simp] theorem modPart_vctx (n : Nat) (f : Part → Part) (s : State) : (modPart n f s).vctx = s.vctx := rfl
@[simp] theorem modPart_vslots (n : Nat) (f : Part → Part) (s : State) : (modPart n f s).vslots = s.vslots := rfl
@[simp] theorem modPart_queues (n : Nat) (f : Part → Part) (s : State) : (modPart n f s).queues = s.queues := rfl
@[simp] theorem modPart_cmds (n : Nat) (f : Part → Part) (s : State) : (modPart n f s).cmds = s.cmds := rfl
@[simp] theorem modPart_ctxs (n : Nat) (f : Part → Part) (s : State) : (modPart n f s).ctxs = s.ctxs := rfl
@[simp] theorem modPart_seqs (n : Nat) (f : Part → Part) (s : State) : (modPart n f s).seqs = s.seqs := rfl
@[simp] theorem modPart_descs (n : Nat) (f : Part → Part) (s : State) : (modPart n f s).descs = s.descs := rfl
@[simp] theorem modPart_qps (n : Nat) (f : Part → Part) (s : State) : (modPart n f s).qps = s.qps := rfl
@[simp] theorem modPart_jobs (n : Nat) (f : Part → Part) (s : State) : (modPart n f s).jobs = s.jobs := rfl
@[simp] theorem modPart_asks (n : Nat) (f : Part → Part) (s : State) : (modPart n f s).asks = s.asks := rfl
@[simp] theorem modPart_ports (n : Nat) (f : Part → Part) (s : State) : (modPart n f s).ports = s.ports := rfl
@[simp] theorem modPart_cal (n : Nat) (f : Part → Part) (s : State) : (modPart n f s).cal = s.cal := rfl
@[simp] theorem modPart_clks (n : Nat) (f : Part → Part) (s : State) : (modPart n f s).clks = s.clks := rfl
@[simp] theorem modPart_board (n : Nat) (f : Part → Part) (s : State) : (modPart n f s).board = s.board := rfl
@[simp] theorem modPart_gov (n : Nat) (f : Part → Part) (s : State) : (modPart n f s).gov = s.gov := rfl
@[simp] theorem modPart_madc (n : Nat) (f : Part → Part) (s : State) : (modPart n f s).madc = s.madc := rfl

/-! `modAdc` writes `madc` alone. -/

@[simp] theorem modAdc_pending (f : Madc → Madc) (s : State) : (modAdc f s).pending = s.pending := rfl
@[simp] theorem modAdc_out (f : Madc → Madc) (s : State) : (modAdc f s).out = s.out := rfl
@[simp] theorem modAdc_now (f : Madc → Madc) (s : State) : (modAdc f s).now = s.now := rfl
@[simp] theorem modAdc_free (f : Madc → Madc) (s : State) : (modAdc f s).free = s.free := rfl
@[simp] theorem modAdc_fuses (f : Madc → Madc) (s : State) : (modAdc f s).fuses = s.fuses := rfl
@[simp] theorem modAdc_regs (f : Madc → Madc) (s : State) : (modAdc f s).regs = s.regs := rfl
@[simp] theorem modAdc_mem (f : Madc → Madc) (s : State) : (modAdc f s).mem = s.mem := rfl
@[simp] theorem modAdc_poison (f : Madc → Madc) (s : State) : (modAdc f s).poison = s.poison := rfl
@[simp] theorem modAdc_fns (f : Madc → Madc) (s : State) : (modAdc f s).fns = s.fns := rfl
@[simp] theorem modAdc_units (f : Madc → Madc) (s : State) : (modAdc f s).units = s.units := rfl
@[simp] theorem modAdc_crossings (f : Madc → Madc) (s : State) : (modAdc f s).crossings = s.crossings := rfl
@[simp] theorem modAdc_sil (f : Madc → Madc) (s : State) : (modAdc f s).sil = s.sil := rfl
@[simp] theorem modAdc_pkg (f : Madc → Madc) (s : State) : (modAdc f s).pkg = s.pkg := rfl
@[simp] theorem modAdc_tiles (f : Madc → Madc) (s : State) : (modAdc f s).tiles = s.tiles := rfl
@[simp] theorem modAdc_tlayers (f : Madc → Madc) (s : State) : (modAdc f s).tlayers = s.tlayers := rfl
@[simp] theorem modAdc_pools (f : Madc → Madc) (s : State) : (modAdc f s).pools = s.pools := rfl
@[simp] theorem modAdc_acc (f : Madc → Madc) (s : State) : (modAdc f s).acc = s.acc := rfl
@[simp] theorem modAdc_vready (f : Madc → Madc) (s : State) : (modAdc f s).vready = s.vready := rfl
@[simp] theorem modAdc_vheld (f : Madc → Madc) (s : State) : (modAdc f s).vheld = s.vheld := rfl
@[simp] theorem modAdc_poisonX (f : Madc → Madc) (s : State) : (modAdc f s).poisonX = s.poisonX := rfl
@[simp] theorem modAdc_lost (f : Madc → Madc) (s : State) : (modAdc f s).lost = s.lost := rfl
@[simp] theorem modAdc_dbg (f : Madc → Madc) (s : State) : (modAdc f s).dbg = s.dbg := rfl
@[simp] theorem modAdc_vctx (f : Madc → Madc) (s : State) : (modAdc f s).vctx = s.vctx := rfl
@[simp] theorem modAdc_vslots (f : Madc → Madc) (s : State) : (modAdc f s).vslots = s.vslots := rfl
@[simp] theorem modAdc_queues (f : Madc → Madc) (s : State) : (modAdc f s).queues = s.queues := rfl
@[simp] theorem modAdc_cmds (f : Madc → Madc) (s : State) : (modAdc f s).cmds = s.cmds := rfl
@[simp] theorem modAdc_ctxs (f : Madc → Madc) (s : State) : (modAdc f s).ctxs = s.ctxs := rfl
@[simp] theorem modAdc_seqs (f : Madc → Madc) (s : State) : (modAdc f s).seqs = s.seqs := rfl
@[simp] theorem modAdc_descs (f : Madc → Madc) (s : State) : (modAdc f s).descs = s.descs := rfl
@[simp] theorem modAdc_qps (f : Madc → Madc) (s : State) : (modAdc f s).qps = s.qps := rfl
@[simp] theorem modAdc_jobs (f : Madc → Madc) (s : State) : (modAdc f s).jobs = s.jobs := rfl
@[simp] theorem modAdc_asks (f : Madc → Madc) (s : State) : (modAdc f s).asks = s.asks := rfl
@[simp] theorem modAdc_ports (f : Madc → Madc) (s : State) : (modAdc f s).ports = s.ports := rfl
@[simp] theorem modAdc_cal (f : Madc → Madc) (s : State) : (modAdc f s).cal = s.cal := rfl
@[simp] theorem modAdc_clks (f : Madc → Madc) (s : State) : (modAdc f s).clks = s.clks := rfl
@[simp] theorem modAdc_board (f : Madc → Madc) (s : State) : (modAdc f s).board = s.board := rfl
@[simp] theorem modAdc_gov (f : Madc → Madc) (s : State) : (modAdc f s).gov = s.gov := rfl
@[simp] theorem modAdc_parts (f : Madc → Madc) (s : State) : (modAdc f s).parts = s.parts := rfl

/-! A table read back after an update of the same entry. -/

@[simp] theorem qpOf_modQp (n : Nat) (f : QPair → QPair) (s : State) : qpOf (modQp n f s) n = f (qpOf s n) := by
  simp [qpOf, modQp, tget_tmod_same]

@[simp] theorem jobOf_modMember (n : Nat) (f : Job → Job) (s : State) : jobOf (modMember n f s) n = f (jobOf s n) := by
  simp [jobOf, modMember, tget_tmod_same]

@[simp] theorem lportOf_modLport (n : Nat) (f : Port → Port) (s : State) : lportOf (modLport n f s) n = f (lportOf s n) := by
  simp [lportOf, modLport, tget_tmod_same]

@[simp] theorem fnOf_modFn (n : Nat) (f : Fn → Fn) (s : State) : fnOf (modFn n f s) n = f (fnOf s n) := by
  simp [fnOf, modFn, tget_tmod_same]

@[simp] theorem unitOf_modUnit (k i : Nat) (f : FUnit → FUnit) (s : State) : unitOf (modUnit k i f s) k i = f (unitOf s k i) := by
  simp [unitOf, modUnit, tget_tmod_same]

@[simp] theorem vctxOf_modCtx (c n : Nat) (f : VCtx → VCtx) (s : State) : vctxOf (modCtx c n f s) c n = f (vctxOf s c n) := by
  simp [vctxOf, modCtx, tget_tmod_same]

@[simp] theorem slotOf_modSlot (c n : Nat) (f : VSlot → VSlot) (s : State) : slotOf (modSlot c n f s) c n = f (slotOf s c n) := by
  simp [slotOf, modSlot, tget_tmod_same]

@[simp] theorem queueOf_modQueue (n : Nat) (f : QueueS → QueueS) (s : State) : queueOf (modQueue n f s) n = f (queueOf s n) := by
  simp [queueOf, modQueue, tget_tmod_same]

@[simp] theorem cxOf_modCx (n : Nat) (f : Ctx → Ctx) (s : State) : cxOf (modCx n f s) n = f (cxOf s n) := by
  simp [cxOf, modCx, tget_tmod_same]

@[simp] theorem seqOf_modSeq (n : Nat) (f : Seq → Seq) (s : State) : seqOf (modSeq n f s) n = f (seqOf s n) := by
  simp [seqOf, modSeq, tget_tmod_same]

@[simp] theorem descOf_modDesc (n : Nat) (f : Desc → Desc) (s : State) : descOf (modDesc n f s) n = f (descOf s n) := by
  simp [descOf, modDesc, tget_tmod_same]

@[simp] theorem calOf_modCal (n : Nat) (f : BayCal → BayCal) (s : State) : calOf (modCal n f s) n = f (calOf s n) := by
  simp [calOf, modCal, tget_tmod_same]

@[simp] theorem xOf_modXing (n : Nat) (f : Crossing → Crossing) (s : State) : xOf (modXing n f s) n = f (xOf s n) := by
  simp [xOf, modXing, tget_tmod_same]

end Sys2Proof.Machine
end

