-- ==== Sys2Proof/WellFormed.lean ====
section
/-! DEFINITION. Which commands name elements that exist: the ranges of R17, R18 and R437. -/

namespace Sys2Proof

/-- A source reaches a space: host functions their own BARs and configuration space, Silset and the Spyhole port the offsets of PF
BAR0 (R290, R439, R448, R623). -/
def reaches (src : Src) (sp : RegSpace) : Bool :=
  match src, sp with
  | .host 0, .bar0 => true
  | .host k, .vfBar0 j => j == k && decide (1 ≤ k ∧ k < 32)
  | .host k, .bar2 j => j == k && decide (k < 32)
  | .host k, .cfg j _ => j == k && decide (k < 32)
  | .silset, .bar0 => true
  | .spyhole, .bar0 => true
  | _, _ => false

/-- The sources that reach the registers of PF BAR0. -/
def Src.pf (src : Src) : Bool := reaches src .bar0

/-- The operands lie in the ranges that the manual gives the elements they name (R17, R18, R437). -/
def Instr.wf : Instr → Bool
  | .registerWrite src sp _ _ _ value => decide (value < 2 ^ 64) && reaches src sp
  | .pairLoRead src sp _ _ _ => reaches src sp
  | .pairHiWrite src sp _ _ => reaches src sp
  | .registerAccessTimeout src sp _ _ => reaches src sp
  | .updateStrobe src _ => src.pf
  | .clusterStrobeApply block => decide (block ≤ 384)
  | .bar4Read off _ => decide (off < 2 ^ 37)
  | .bar4Write off _ => decide (off < 2 ^ 37)
  | .bar4Resize log2 => decide (28 ≤ log2 ∧ log2 ≤ 37)
  | .msixUnmask fn vec => decide (fn < 32 ∧ vec < 2048)
  | .vfBindWrite src k _ => decide (1 ≤ k ∧ k < 32) && src.pf
  | .vfFlr k => decide (1 ≤ k ∧ k < 32)
  | .receivedTlpError fn err _ header => decide (fn < 32) && header.all (fun w => decide (w < 2 ^ 32)) && (match err with
      | .uncorrectable b => [4, 5, 13, 16, 17, 18, 20, 21, 22].contains b
      | .correctable b => [0, 6, 7, 8, 12, 13].contains b
      | _ => true)
  | .hostReadTimeout fn _ _ => decide (fn < 32)
  | .doeDiscovery index => decide (index < 256)
  | .negotiateAlgorithms _ _ => true
  | .getCertificate slot _ _ => decide (slot < 8)
  | .challenge slot _ => decide (slot < 8)
  | .getMeasurements index _ _ => decide (index < 256)
  | .sqTail fn q val => decide (fn < 32 ∧ q < 64 ∧ (fn = 0 ∨ q < 8) ∧ val < 2 ^ 32)
  | .rqHead fn q val => decide (fn < 32 ∧ q < 64 ∧ (fn = 0 ∨ q < 8) ∧ val < 2 ^ 32)
  | .queueEnable fn q => decide (fn < 32 ∧ q < 64 ∧ (fn = 0 ∨ q < 8))
  | .queueDisable fn q => decide (fn < 32 ∧ q < 64 ∧ (fn = 0 ∨ q < 8))
  | .commandFetch ok raw => decide (raw.length = if ok then 64 else 0)
  | .completionTimeout h => decide (h < 4096)
  | .load h => decide (h < 4096)
  | .activate h => decide (h < 4096)
  | .discard h => decide (h < 4096)
  | .restore h => decide (h < 4096)
  | .calibrate h => decide (h < 4096)
  | .adaptZero h => decide (h < 4096)
  | .adaptUpdate h => decide (h < 4096)
  | .seqCreate h => decide (h < 4096)
  | .seqFree h => decide (h < 4096)
  | .seqTruncate h => decide (h < 4096)
  | .generate h toks _ _ => decide (h < 4096) && toks.all (fun t => decide (t < 2 ^ 32))
  | .backward h toks _ => decide (h < 4096) && toks.all (fun t => decide (t < 2 ^ 32))
  | .prefixCreate h toks _ => decide (h < 4096) && toks.all (fun t => decide (t < 2 ^ 32))
  | .prefixDrop h => decide (h < 4096)
  | .checkpoint h => decide (h < 4096)
  | .seqRestore h _ _ => decide (h < 4096)
  | .cancel h => decide (h < 4096)
  | .nopCommand h => decide (h < 4096)
  | .stepStart h => decide (h < 4096)
  | .ringHeadPoll h value _ => decide (h < 4096 ∧ value < 2 ^ 64)
  | .ringWaitExpiry h => decide (h < 4096)
  | .register cl ctx bind vals => decide (cl < 384 ∧ ctx < 4096 ∧ bind < 4096) && vals.all (fun v => decide (v < 2 ^ 32))
  | .registrationWaitExpiry h => decide (h < 4096)
  | .result cl ctx bind vals => decide (cl < 384 ∧ ctx < 4096 ∧ bind < 4096) && vals.all (fun v => decide (v < 2 ^ 32))
  | .done cl ctx bind vals => decide (cl < 384 ∧ ctx < 4096 ∧ bind < 4096) && vals.all (fun v => decide (v < 2 ^ 32))
  | .fail cl ctx bind vals => decide (cl < 384 ∧ ctx < 4096 ∧ bind < 4096) && vals.all (fun v => decide (v < 2 ^ 32))
  | .stepCommit bind => decide (bind < 4096)
  | .queryArrival cl ctx addr _ fmt vals => decide (cl < 384 ∧ ctx < 4096 ∧ addr < 2 ^ 19 ∧ fmt < 16) && vals.all (fun v => decide (v < 256))
  | .appendArrival cl ctx addr _ vals => decide (cl < 384 ∧ ctx < 4096 ∧ addr < 2 ^ 19) && vals.all (fun v => decide (v < 2 ^ 32))
  | .engineUnitScore bay bind layer _ _ => decide (bay < 48 ∧ bind < 4096 ∧ layer < 64)
  | .pageFlush bay seq layer page => decide (bay < 48 ∧ seq < 4096 ∧ layer < 64 ∧ page < 16384)
  | .flushComplete seq layer page => decide (seq < 4096 ∧ layer < 64 ∧ page < 16384)
  | .pinRelease addr reader => decide (addr < 2 ^ 48 ∧ reader < 0x43)
  | .pageMoveComplete _ _ => true
  | .passRequest tile req parity => decide (tile < 12288 ∧ req.kind ≤ 1 ∧ req.layer < 4 ∧ req.codes.length = 1024 ∧ parity.length = 512)
  | .passStart tile => decide (tile < 12288)
  | .layerSwitchStart tile => decide (tile < 12288)
  | .layerSettled tile => decide (tile < 12288)
  | .passWaveConverted tile convs => decide (tile < 12288 ∧ convs.length = 128)
  | .passEnd tile => decide (tile < 12288)
  | .governorSample _ _ _ _ => true
  | .blockScaleArrival cl part _ _ _ scale _ => decide (cl < 384 ∧ part < 31 ∧ scale < 256)
  | .accCodeArrival cl tile wave codes => decide (cl < 384 ∧ tile < 12288 ∧ wave < 8 ∧ codes.length = 128)
  | .preloadRun cl part _ _ vals => decide (cl < 384 ∧ part < 31) && vals.all (fun v => decide (v < 2 ^ 32))
  | .glazeContributionArrival cl part _ _ _ _ => decide (cl < 384 ∧ part < 31)
  | .accPartComplete cl part => decide (cl < 384 ∧ part < 31)
  | .destinationAck cl part => decide (cl < 384 ∧ part < 31)
  | .rowBlockQuantise cl _ pg rb _ => decide (cl < 384 ∧ pg < 4096 ∧ rb < 96)
  | .quantiserRun cl _ pg rb _ _ => decide (cl < 384 ∧ pg < 4096 ∧ rb < 96)
  | .glazeSelectionArrival cl _ _ _ rb _ => decide (cl < 384 ∧ rb < 96)
  | .glazeWeightRowArrival cl _ _ _ rb _ => decide (cl < 384 ∧ rb < 96)
  | .adapterUArrival cl _ _ _ rb _ => decide (cl < 384 ∧ rb < 96)
  | .adapterHArrival cl _ _ _ _ => decide (cl < 384)
  | .slotArrival cl ctx slot _ _ _ src => decide (cl < 384 ∧ ctx < 4096 ∧ slot < 128) && (match src with
    | .acc c p => decide (c < 384 ∧ p < 31)
    | .vec c x rq => decide (c < 384 ∧ x < 4096 ∧ rq < 31)
    | .fetch _ rq gen fgen => decide (rq < 31 ∧ gen < 256 ∧ fgen < 256))
  | .instructionComplete cl ctx => decide (cl < 384 ∧ ctx < 4096)
  | .sendAcknowledge cl ctx rq gen fgen => decide (cl < 384 ∧ ctx < 4096 ∧ rq < 31 ∧ gen < 256 ∧ fgen < 256)
  | .sendRefusal cl ctx rq gen fgen => decide (cl < 384 ∧ ctx < 4096 ∧ rq < 31 ∧ gen < 256 ∧ fgen < 256)
  | .vecEngineResetComplete cl => decide (cl < 384)
  | .aswap cl ctx => decide (cl < 384 ∧ ctx < 4096)
  | .programOperationStart tile layer => decide (tile < 12288 ∧ layer < 4)
  | .programRowStep tile layer _ _ => decide (tile < 12288 ∧ layer < 4)
  | .programRowStepEnd tile layer _ => decide (tile < 12288 ∧ layer < 4)
  | .probePass tile layer kind range k neg convs => decide (tile < 12288 ∧ layer < 4 ∧ kind < 5 ∧ range < 8 ∧ k < 8 ∧ neg < 2 ∧ convs.length = 1024)
  | .readBackDone tile layer _ => decide (tile < 12288 ∧ layer < 4)
  | .closingCalibrationDone tile layer => decide (tile < 12288 ∧ layer < 4)
  | .bisqueCalibration bay _ => decide (bay < 48)
  | .referenceTrace _ _ ppm => decide (ppm.length = 8)
  | .soakStart bay _ => decide (bay < 48)
  | .soakEnd bay => decide (bay < 48)
  | .calUtcWrite src _ => src.pf
  | .calWearSelWrite src _ => src.pf
  | .loadImageFetched h _ _ _ => decide (h < 4096)
  | .warePayloadArrival h _ payload _ => decide (h < 4096) && payload.all (fun b => decide (b < 256))
  | .imageRetire pt fn _ => decide (pt < 8 ∧ fn < 32)
  | .remapComplete tile => decide (tile < 12288)
  | .setMinSvnWrite src k _ => decide (k < 8) && src.pf
  | .sramScrub store _ res _ => decide (store < 9 ∧ store ≠ 3 ∧ res < 3)
  | .hbmPatrolScrub addr res _ => decide (addr < 0x1800000000 ∧ res < 3)
  | .shadowAudit tl _ => decide (tl < 49152)
  | .linkReplay kind _ tries => decide (kind < 14 ∧ 1 ≤ tries ∧ tries ≤ 8)
  | .frameReceive port f => decide (port < 32 ∧ f.kind < 5 ∧ f.psn < 2 ^ 24)
  | .pfcFrameReceive port prio _ => decide (port < 32 ∧ prio < 8)
  | .pfcStormTimeout port prio => decide (port < 32 ∧ prio < 8)
  | .portModeWrite src port value => decide (port < 32 ∧ value < 2 ^ 32) && src.pf
  | .rdmaRequestReceive r => decide (r.port < 32 ∧ r.op < 5 ∧ r.psn < 2 ^ 24 ∧ (r.op < 2 ∨ r.op = 4 ∨ r.data.length = r.len)) && r.data.all (fun b => decide (b < 256))
  | .ackTimeout qp => decide (qp < 2 ^ 24)
  | .nakReceive qp _ psn => decide (qp < 2 ^ 24 ∧ psn < 2 ^ 24)
  | .cnpReceive qp => decide (qp < 2 ^ 24)
  | .rateIncreaseTimer qp => decide (qp < 2 ^ 24)
  | .wareReq qp _ _ _ _ _ _ credits => decide (qp < 2 ^ 24 ∧ credits ≤ 64)
  | .wareCredit qp _ _ _ _ => decide (qp < 2 ^ 24)
  | .wareNack qp _ _ _ _ reason => decide (qp < 2 ^ 24 ∧ 1 ≤ reason ∧ reason ≤ 3)
  | .kvReq qp _ _ _ _ _ _ _ credits => decide (qp < 2 ^ 24 ∧ credits ≤ 64)
  | .fetchChunkArrival qp slot _ rec bytes => decide (qp < 2 ^ 24 ∧ slot < 64 ∧ rec < 2 ^ 25) && bytes.all (fun b => decide (b < 256))
  | .fenceNotice qp _ _ reason _ => decide (qp < 2 ^ 24 ∧ 1 ≤ reason ∧ reason ≤ 4)
  | .rejoin qp _ newEpoch => decide (qp < 2 ^ 24 ∧ newEpoch < 2 ^ 32)
  | .rejoinAck qp _ epoch => decide (qp < 2 ^ 24 ∧ epoch < 2 ^ 32)
  | .stepRec qp _ _ _ _ => decide (qp < 2 ^ 24)
  | .jobRejoinStart pt fn => decide (pt < 8 ∧ fn < 32)
  | .contributionReceive qp imm vals => decide (qp < 2 ^ 24 ∧ imm < 2 ^ 32) && vals.all (fun v => decide (v < 2 ^ 32))
  | .collectiveTimeout pt fn _ => decide (pt < 8 ∧ fn < 32)
  | .noticeAckWaitExpiry pt fn => decide (pt < 8 ∧ fn < 32)
  | .fencePlace kind index reason => decide (kind < 14 ∧ index < 12288 ∧ (1 ≤ reason ∧ reason ≤ 4 ∨ reason = 6) ∧ (reason = 4 → kind = 8))
  | .drainComplete kind index => decide (kind < 14 ∧ index < 12288)
  | .drainWindowExpiry kind index => decide (kind < 14 ∧ index < 12288)
  | .taggedReply kind index _ gen fgen way => decide (kind < 14 ∧ index < 12288 ∧ gen < 256 ∧ fgen < 256) &&
      way.all fun w => decide (w.1 < 5 * 256 ∧ w.1 % 256 < 32 ∧ w.2 < 16)
  | .epochOffer kind index epoch => decide (kind < 5 ∧ index < 32 ∧ epoch < 2 ^ 32)
  | .epochAcknowledgement kind index epoch => decide (kind < 5 ∧ index < 32 ∧ epoch < 2 ^ 32)
  | .stallMonitorHang kind index work => decide (kind < 14 ∧ index < 12288) && work.all fun w => decide (w.1 < 4096 ∧ w.2 < 32)
  | .engineResetComplete kind index => decide (kind < 14 ∧ index < 12288 ∧ kind ≠ 10 ∧ kind ≠ 11)
  | .engineResetBoundExpiry kind index => decide (kind < 14 ∧ index < 12288 ∧ kind ≠ 10 ∧ kind ≠ 11)
  | .partitionReset pt cause kind index => decide (pt < 8 ∧ cause < 15 ∧ kind < 16 ∧ index < 12288)
  | .partitionResetComplete pt _ => decide (pt < 8)
  | .ptToExpiry pt => decide (pt < 8)
  | .warmReset cause kind index => decide (cause < 15 ∧ kind < 16 ∧ index < 12288)
  | .coldReset cause kind index _ => decide (cause < 15 ∧ kind < 16 ∧ index < 12288)
  | .hostEngineResetRequest src value => decide (value < 2 ^ 32 ∧ value % 16 = 9) && src.pf
  | .hostPartitionResetRequest src value => decide (value < 2 ^ 32 ∧ value % 16 = 10) && src.pf
  | .hostWarmResetRequest src value => decide (value < 2 ^ 32 ∧ value % 16 = 11) && src.pf
  | .hostColdResetRequest src value => decide (value < 2 ^ 32 ∧ value % 16 = 12) && src.pf
  | .rstFenceHostWrite src value => decide (value < 2 ^ 32) && src.pf
  | .reconciliationRound us => us.all fun u => decide (u.1 < 14 ∧ u.2.1 < 12288 ∧ 1 ≤ u.2.2 ∧ u.2.2 ≤ 4)
  | .sampleArm pt fn bay => decide (pt < 8 ∧ fn < 32 ∧ bay < 48)
  | .armTimeout bay => decide (bay < 48)
  | .sampleVerdict bay _ _ _ => decide (bay < 48)
  | .crossCheckRound suite a b seed => decide (suite < 5 ∧ a < 384 ∧ b < 384 ∧ seed < 2 ^ 64)
  | .crossCheckComplete suite a third sig1 sig2 => decide (suite < 7 ∧ a < 384 ∧ third < 384 ∧ sig1 < 2 ^ 64 ∧ sig2 < 2 ^ 64)
  | .roundTimeout suite a => decide (suite < 7 ∧ a < 384)
  | .scanStart src value _ => value.toNat.testBit 0 && src.pf
  | .boostExpiry pt => decide (pt < 8)
  | .bootRomStart _ _ _ => true
  | .flashWriteDone _ => true
  | .trialConfirm _ => true
  | .getInfo tag => decide (tag < 2 ^ 32)
  | .logRead tag fromSeq _ => decide (tag < 2 ^ 32 ∧ fromSeq < 2 ^ 32)
  | .fwStage tag addr len => decide (tag < 2 ^ 32 ∧ addr < 2 ^ 64 ∧ len < 2 ^ 32)
  | .fwStageComplete _ => true
  | .fwStatus tag => decide (tag < 2 ^ 32)
  | .fwActivate tag _ _ => decide (tag < 2 ^ 32)
  | .keyEnroll _ tag kind _ _ => decide (tag < 2 ^ 32 ∧ kind < 256)
  | .keyRevoke _ tag index _ => decide (tag < 2 ^ 32 ∧ index < 256)
  | .keyList tag => decide (tag < 2 ^ 32)
  | .commission _ tag confirm => decide (tag < 2 ^ 32 ∧ confirm < 2 ^ 32)
  | .scanWrite tag addr _ => decide (tag < 2 ^ 32 ∧ addr < 2 ^ 64)
  | .setEndpointId eid => decide (eid < 256)
  | .getMctpVersionSupport ty => decide (ty < 256)
  | .getpldmversion ty => decide (ty < 64)
  | .getpldmcommands ty => decide (ty < 64)
  | .seteventreceiver _ eid => decide (eid < 256)
  | .requestupdate len => decide (len < 2 ^ 32)
  | .clockMeasurement src _ => decide (src < 5)
  | .clockEdgeLoss src => decide (src < 5)
  | .clkGateWrite src _ => src.pf
  | .domainSwitchDone n _ => decide (n < 23)
  | .partitionPowerDown src _ => src.pf
  | .partitionPowerUp src _ => src.pf
  | .thermometerSample temps => decide (temps.length = 236)
  | .thermalReleaseExpiry bay => decide (bay < 48)
  | .boardChannelRead n => decide (n < 4)
  | .conversionRequest src _ => src.pf
  | .openWireTestRequest src _ => src.pf
  | .conversionComplete _ => true
  | .madcCalibration _ => true
  | .madcCalibrationDone _ => true
  | .extest _ => true
  | .samplePreload _ => true
  | .dresp _ scope _ => decide (scope < 2 ^ 32)
  | .daddr value => decide (value < 2 ^ 64)
  | .ddata _ value => decide (value < 2 ^ 35)
  | .debugAccessComplete _ => true
  | .dbgHalt value => value.toNat.testBit 0
  | .dbgResume value => value.toNat.testBit 1
  | .dbgStep value => value.toNat.testBit 2
  | .dbgClose value => value.toNat.testBit 3
  | .fabricHalted bay => decide (bay < 48)
  | .silsetPcBreakpoint n => decide (n < 4)
  | .powerOn strap late => decide (strap < 8) && late.all (fun r => decide (r < 23))
  | .startupPhaseAdvance failed => failed.all (fun u => decide (u.1 < 14 ∧ u.2 < 12288))
  | .boardInputHoldExpiry inp _ => decide (inp < 3)
  | .boardInputStuck inp => decide (inp < 2)
  | .supplyUndervoltage r => decide (r < 23)
  | .supplyRecovered r => decide (r < 23)
  | .portLinkDown port => decide (port < 32)
  | .portLinkUp port => decide (port < 32)
  | .linkRetrainingComplete kind index => decide (kind < 14 ∧ index < 12288)
  | .agentUpdateComplete kind index => decide (kind < 14 ∧ index < 12288)
  | .boardInputGlitch inp => decide (inp < 11)
  | .dmaMibMoved h => decide (h < 4096)
  | .restoreRecordArrival h tl _ _ => decide (h < 4096 ∧ tl < 49152)
  | .adapterQArrival cl _ _ _ _ _ => decide (cl < 384)
  | .adapterVArrival cl _ _ _ rb _ => decide (cl < 384 ∧ rb < 96)
  | .pldmComponentTransfer cmd _ => decide (cmd < 256)
  | .vadd cl ctx => decide (cl < 384 ∧ ctx < 4096)
  | .vsub cl ctx => decide (cl < 384 ∧ ctx < 4096)
  | .vmul cl ctx => decide (cl < 384 ∧ ctx < 4096)
  | .vfma cl ctx => decide (cl < 384 ∧ ctx < 4096)
  | .vmax cl ctx => decide (cl < 384 ∧ ctx < 4096)
  | .vmin cl ctx => decide (cl < 384 ∧ ctx < 4096)
  | .vabs cl ctx => decide (cl < 384 ∧ ctx < 4096)
  | .vneg cl ctx => decide (cl < 384 ∧ ctx < 4096)
  | .vcvt cl ctx => decide (cl < 384 ∧ ctx < 4096)
  | .vmov cl ctx => decide (cl < 384 ∧ ctx < 4096)
  | .vrcp cl ctx => decide (cl < 384 ∧ ctx < 4096)
  | .vrsq cl ctx => decide (cl < 384 ∧ ctx < 4096)
  | .vexp2 cl ctx => decide (cl < 384 ∧ ctx < 4096)
  | .vlog2 cl ctx => decide (cl < 384 ∧ ctx < 4096)
  | .vsig cl ctx => decide (cl < 384 ∧ ctx < 4096)
  | .vsilu cl ctx => decide (cl < 384 ∧ ctx < 4096)
  | .vrope cl ctx => decide (cl < 384 ∧ ctx < 4096)
  | .vbscl cl ctx => decide (cl < 384 ∧ ctx < 4096)
  | .vrsum cl ctx => decide (cl < 384 ∧ ctx < 4096)
  | .vdot cl ctx => decide (cl < 384 ∧ ctx < 4096)
  | .vrmax cl ctx => decide (cl < 384 ∧ ctx < 4096)
  | .vscan cl ctx => decide (cl < 384 ∧ ctx < 4096)
  | .vtopk cl ctx => decide (cl < 384 ∧ ctx < 4096)
  | .vlsem cl ctx => decide (cl < 384 ∧ ctx < 4096)
  | .viadd cl ctx => decide (cl < 384 ∧ ctx < 4096)
  | .vimul cl ctx => decide (cl < 384 ∧ ctx < 4096)
  | .vrng cl ctx => decide (cl < 384 ∧ ctx < 4096)
  | .vfetch cl ctx => decide (cl < 384 ∧ ctx < 4096)
  | .vstore cl ctx => decide (cl < 384 ∧ ctx < 4096)
  | .send cl ctx => decide (cl < 384 ∧ ctx < 4096)
  | .sendm cl ctx => decide (cl < 384 ∧ ctx < 4096)
  | .sget cl ctx => decide (cl < 384 ∧ ctx < 4096)
  | .sput cl ctx => decide (cl < 384 ∧ ctx < 4096)
  | .sadd cl ctx => decide (cl < 384 ∧ ctx < 4096)
  | .ssub cl ctx => decide (cl < 384 ∧ ctx < 4096)
  | .sand cl ctx => decide (cl < 384 ∧ ctx < 4096)
  | .sor cl ctx => decide (cl < 384 ∧ ctx < 4096)
  | .sxor cl ctx => decide (cl < 384 ∧ ctx < 4096)
  | .sshl cl ctx => decide (cl < 384 ∧ ctx < 4096)
  | .sshr cl ctx => decide (cl < 384 ∧ ctx < 4096)
  | .sli cl ctx => decide (cl < 384 ∧ ctx < 4096)
  | .slui cl ctx => decide (cl < 384 ∧ ctx < 4096)
  | .br cl ctx => decide (cl < 384 ∧ ctx < 4096)
  | .beq cl ctx => decide (cl < 384 ∧ ctx < 4096)
  | .bne cl ctx => decide (cl < 384 ∧ ctx < 4096)
  | .blt cl ctx => decide (cl < 384 ∧ ctx < 4096)
  | .halt cl ctx => decide (cl < 384 ∧ ctx < 4096)
  | .sflg cl ctx => decide (cl < 384 ∧ ctx < 4096)
  | .sfclr cl ctx => decide (cl < 384 ∧ ctx < 4096)
  | .nop cl ctx => decide (cl < 384 ∧ ctx < 4096)
  | .pfFlr => true
  | .hostLinkDown => true
  | .doeAbort => true
  | .getVersion => true
  | .getCapabilities => true
  | .getDigests => true
  | .vrCodeRepeat => true
  | .vrAlert => true
  | .driftTriggerCheck => true
  | .utcFlashWrite => true
  | .warmToExpiry => true
  | .lockstepMismatch => true
  | .watchdogExpiry => true
  | .silsetRestartComplete => true
  | .getEndpointId => true
  | .getEndpointUuid => true
  | .getMessageTypeSupport => true
  | .gettid => true
  | .getpldmtypes => true
  | .activatefirmware => true
  | .rcOscillatorLoss => true
  | .conversionTimeout => true
  | .owAutoTest => true
  | .tapReset => true
  | .idcode => true
  | .clamp => true
  | .highz => true
  | .boundaryInstructionExit => true
  | .bypass => true
  | .dstat => true
  | .dchal => true
  | .unlockVerifyDone => true
  | .unlockRateLimitExpiry => true
  | .dbgSilHalt => true
  | .dbgSilResume => true
  | .dbgSilStep => true
  | .dbgSilRestart => true
  | .perstNAssert => true
  | .perstNRelease => true
  | .alertInAssert => true
  | .thermInAssert => true
  | .thermInRelease => true
  | .pcieLinkUp speed width => decide (1 ≤ speed ∧ speed ≤ 5) && [1, 2, 4, 8, 16].contains width
  | .rcOscillatorRecovered => true
  | .silsetSramUncorrectable => true
  | .alertInRelease => true

end Sys2Proof
end

