-- ==== Sys2Proof/Tests/Slice0.lean ====
section
/-! SUPPORT. Tests: the well-formedness smoke, the manual's worked examples, and for each statement of Obligations.lean with
hypotheses one theorem that shows, clause by clause, states and operands that meet them. -/

-- One proof at a time: proofs elaborated side by side wait on each other, and each that waits holds a thread's stack.
set_option Elab.async false

namespace Sys2Proof.Tests

open Sys2Proof Sys2Proof.Machine

/-- A unit that runs: all power domains on, Silset running, the PCIe link up with memory space enabled, the package READY. -/
def up : Machine.State :=
  { State.reset with pd := (List.range 24).map (·, 1), hbm := (List.range 64).map fun n => (n, { state := 2 }), sil.state := 1, sil.flashOk := true,
                     pcie.linkUp := true, pcie.mse := true, board.perst := false,
                     regs := [(regKey .HUB_BOOT_STAT 0, 0x17)] }

/-- A unit that runs with an image as image 0, active in the physical function's context of partition 0. -/
def withImg (i : Image) : Machine.State :=
  { up with images := [(0, i)], imgNext := 1, ctxs := [(0, { active := some 0, acts := 1 })] }

/-- The route of the part of the small image: into the scratchpad of cluster 0. -/
def routeA : RouteE := { cl := 0, home := true, dests := [{ kind := 1, cl := 0, addr := 0x100 }] }

/-- A small image: one slice of four rows and four columns on tile 0, layer 0. -/
def imgA : Image :=
  { slices := [{ rows := 4, cols := 4, dIn := 4, dOut := 4, dFmt := true }], places := [{}], clusters := [{}],
    routes := [routeA], colscale := [0x3F800000, 0x3F800000, 0x3F800000, 0x3F800000] }

/-- The same with a residual from a vector unit. -/
def imgP : Image :=
  { imgA with slices := [{ rows := 4, cols := 4, dIn := 4, dOut := 4, dFmt := true, pre := 2 }],
              routes := [{ routeA with preSrc := 2 }] }

/-- The transposed slice of the small image. -/
def sliceT : SliceE := { id := 1, kind := 1, pair := 0, rows := 4, cols := 4, dIn := 4, dOut := 4, group := 1 }

/-- The small image with an adapter of rank 1. -/
def imgD : Image :=
  { imgA with slices := [{ rows := 4, cols := 4, dIn := 4, dOut := 4, dFmt := true, adapter := 0 }, sliceT],
              adapters := [{ rank := 1, as := [{ loc0 := 0x4000001000, loc1 := 0x4000002000 }],
                             bs := [{ n := 4, loc0 := 0x4000003000, loc1 := 0x4000004000 }] }] }

/-- A valid tile-layer with a shadow of zeros at device address 0 and a wear record of a digest. -/
def audited (d : Nat) : Machine.State :=
  { wr .TILE_LCFG 0 1 (wr .HUB_SCRUB_CTRL 0 7 up) with shadow := [(0, {})], sil.wear := [(0, { digest := d })] }

/-- A RESTORE from the host of the active image, as accepted. -/
def cmdR : Cmd := { op := 0x04, raw := List.replicate 64 0, im := some 0 }

/-- The small image with a ware of one empty record. -/
def imgWd : Nat := canonDigest false 0 0 (canonArray (payloadCode 0 0 0 false []))
def imgW : Image := { imgA with ware := [{ digest := imgWd }] }

/-- A unit with the small image whose bank A of cluster 0 holds part 0 as `a`. -/
def accUp (a : AccPass) : Machine.State := { withImg imgA with acc := [(0, a)] }
def accA : AccPass := { vec := some 0, npos := 1, waited := true, waves := [(0, 127)] }
def accB : AccPass := { npos := 1, scales := [(0, 128)], waves := [(0, 255)], codes := [(0, 8)] }

/-- An image with key/value layout: one layer of one head of four elements, in bay 0. -/
def imgK : Image :=
  { imgA with kv := { hkv := 1, hq := 1, w := 4, stepMax := 8, seqMax := 4, posMax := 1024, pageBytes := 768, slipBytes := 10,
                      layers := [{ stripe := [0] }] } }

/-- A STEP binding of sequence 0. -/
def bindA : Bind := { seq := 0, layers := 1, n := 1 }

/-- A unit with a sequence of no positions under a STEP binding. -/
def kvUp : Machine.State :=
  { withImg imgK with seqs := [(0, { used := true, bind := some 0, slips := [(0, 0x1001)] })], binds := [(0, bindA)] }

/-- A sequence of 64 positions with one page of 32 records, its flushes asked for and running. -/
def seqP (asked runs : List (Nat × Nat × Nat)) : Seq :=
  { used := true, len := 64, pages := [(0, { desc := 5, count := 32 })], slips := [(0, 0x1001)], toFlush := asked, flushing := runs }

/-- A unit with that sequence. -/
def kvPage (asked runs : List (Nat × Nat × Nat)) : Machine.State :=
  { withImg imgK with seqs := [(0, seqP asked runs)], descs := [(5, { addr := 0x2000, st := 1, ref := 1 })] }

/-- The word of a vector instruction (R252). -/
def insW (op d a b c xa xb imm : Nat) : Nat :=
  op + 2 ^ 15 * d + 2 ^ 22 * a + 2 ^ 29 * b + 2 ^ 36 * c + 2 ^ 43 * xa + 2 ^ 47 * xb + 2 ^ 51 * imm

/-- A unit whose context 0 of cluster 0 waits at an instruction, with scalar registers `x` and sixteen slots of format `fa`, `fb`,
`fc` and `fd`: 0 and 1 present, 2 empty, 3 present. -/
def vecF (fa fb fc fd w : Nat) (x : Tab Nat) : Machine.State :=
  { up with vstore := [(0, w)], vctx := [(0, { state := 1, len := 1, slotCount := 16, x := x })],
            vslots := [(0, { addr := 0, len := 4, fmt := fa, present := true }), (1, { addr := 2, len := 4, fmt := fb, present := true }),
                       (2, { addr := 4, len := 4, fmt := fc }), (3, { addr := 6, len := 4, fmt := fd, present := true })],
            mem := [(0x4000000003, 0x3F), (0x4000000007, 0x40)] }
def vecUp : Nat → Tab Nat → Machine.State := vecF 7 7 7 9

/-- A unit whose references are inside their windows, with a program operation of tile-layer 0. -/
def calUp : Machine.State := wr .CAL_STAT 0 1 up
def progUp (o : ProgOp) : Machine.State :=
  { calUp with progs := [(0, o)], sil.pageDone := [0], shadow := [(0, {})] }

/-- The same with its row step asked for, and running. -/
def progAsk (o : ProgOp) : Machine.State :=
  { progUp o with tiles := [(0, { pending := some { kind := 2, layer := 0, row := o.row } })] }
def progRun (o : ProgOp) : Machine.State :=
  { progUp o with tiles := [(0, { token := true, running := some { req := { kind := 2, layer := 0, row := o.row } } })] }

/-- Cells that nothing has programmed and that read as 2 µS stand on their targets. -/
theorem dev_nil {s : Machine.State} (hs : s.cells = []) (bay : Nat) (fp4 : Bool) (key : Nat → Nat) {w : ℚ} (hw : 0 ≤ w) :
    ((List.range 2048).filter fun c => decide (w < |(List.replicate 2048 (2 : ℚ)).getD c 0 - 2 -
      targetOf s bay fp4 (tget 0 s.cells (key c))|)) = [] := by
  rw [List.filter_eq_nil_iff]
  intro c hc
  have h0 : levelCount8 fp4 0 = 0 := by cases fp4 <;> rfl
  have h1 : (List.replicate 2048 (2 : ℚ)).getD c 0 = 2 := by
    rw [List.getD_eq_getElem?_getD, List.getElem?_replicate, if_pos (List.mem_range.mp hc), Option.getD_some]
  rw [hs, h1, show tget 0 ([] : Tab Nat) (key c) = 0 from rfl, targetOf, h0, decide_eq_true_eq]
  simpa using hw

/-- The complete probes of the row groups of tile-layer 0. -/
def groupProbes : Tab ProbeSum :=
  (List.range 16).map fun i => (runKey 0 0 (groupCode false (i / 2) (i % 2)), { n := 2 })

/-- The complete injection and zero probes of tile 0 at bisque. -/
def bisqueProbes : Tab ProbeSum :=
  (List.range 16).map (fun i => (runKey 0 4 (injCode (i / 2) (i % 2)), { n := 4 })) ++
    (List.range 8).map fun r => (runKey 0 4 (zeroCode false r), { n := 16 })

/-- The small image on two tiles, and a load of it in context 0. -/
def imgL : Image :=
  { imgA with places := [{ record := 0 }, { tile := 1, record := 0 }],
              ware := [{ digest := canonDigest false 0 0 [] }] }
def loadUp (o : ProgOp) (todo : Tab Nat) : Machine.State :=
  { progUp o with images := [(0, imgL)], ctxs := [(0, { load := some { im := 0, todo := todo } })] }

/-- A read-back of tile-layer 0 whose 1,024 rows gave no conductance, and a load of the image whose ware has the digest of the
codes that these rows mean. -/
def opB : ProgOp := { kind := 2, st := 1, reads := List.replicate 1024 [] }
def imgB : Image := { imgL with ware := [{ digest := canonDigest false 0 0 (rebuiltCodes false opB 1) }] }
def backUp : Machine.State :=
  { progUp opB with images := [(0, imgB)], ctxs := [(0, { load := some { im := 0, todo := [(0, 1)] } })] }

theorem opB_near : pairsNear false opB 1 = true := by
  have h0 : ∀ r j, pairCount opB 1 r j = 0 := by
    intro r j
    have : opB.reads.getD (1023 - r) [] = [] := by
      simp only [opB, List.getD_eq_getElem?_getD, List.getElem?_replicate]; split <;> rfl
    simp only [pairCount, this, countOf]; norm_num
  have h1 : decide (|(0 : ℚ) - (nearestCode false 0).2| ≤ 35 / 100) = true := by decide +kernel
  simp only [pairsNear, h0, h1, List.all_eq_true, implies_true]

/-- A command of the physical function's queue 0 with the listed bytes. -/
def mkCmd (op : Nat) (im : Option Nat) (p : List (Nat × Nat)) : Cmd :=
  { op := op, im := im, raw := (List.range 64).map fun k => BitVec.ofNat 8 (((p.find? (·.1 == k)).map (·.2)).getD 0) }

/-- A unit with that command as handle slot 3. -/
def cmdOn (s : Machine.State) (c : Cmd) : Machine.State := { s with cmds := [(3, c)] }

/-- A unit that serves: an image with entries of every role, and sequence 0 of 64 positions in one full page. -/
def imgS : Image :=
  { imgK with adapters := [{ index := 2 }], kv := { imgK.kv with pools := [{ kind := 2, base := 0x8000, size := 0x1000 }, { kind := 3, base := 0xA000, size := 0x1000 }] } }
def seqS : Seq := { used := true, len := 64, pages := [(0, { desc := 5, count := 64 })], keep := [(0, 64, 0x9000, 256)], slips := [(0, 0x1001), (1, 0x1101)] }
def srvUp : Machine.State :=
  { withImg imgS with
    seqs := [(0, seqS)], descs := [(5, { addr := 0x2000, st := 1, ref := 1 })],
    entries := [(0, (List.range 4).map fun r => { role := r, layers := 1, cl := 1, ctx := r, slot := 2, vocab := 100 })] }

/-- Queue 1 of the physical function configured, and active with one command to fetch. -/
def qUp (x : QueueS) : Machine.State := { wr .QM_Q_CFG 1 0x541 up with queues := [(1, x)] }

/-- The state that the checks of ImageLoading see. -/
def loadU (s : Machine.State) : Machine.State :=
  modLoad 0 (fun l => { l with phase := 2 }) (logE { cls := 0x0A, code := 1, sev := 0, pt := 0, func := 0, queue := 0, handle := handleOf 0 3, addr := 0, data := [0] } s)

/-- A checkpoint of no positions, with the digest of an empty body. -/
def ckptN : Nat := (Config.sha384 []).toNat
def ckptS : List Byte :=
  bytesLE 4 0x435A4455 ++ [1, 0, 0, 1] ++ bytesLE 8 256 ++ List.replicate 72 0 ++ [1, 0, 0, 0] ++ List.replicate 84 0 ++
  (bytesLE 48 ckptN).reverse ++ List.replicate 32 0

theorem ofBytesLE_bytesLE (n v : Nat) : ofBytesLE (bytesLE n v) = v % 2 ^ (8 * n) := by
  induction n generalizing v with
  | zero => simp [bytesLE, ofBytesLE, Nat.mod_one]
  | succ n ih =>
    have h : bytesLE (n + 1) v = BitVec.ofNat 8 v :: bytesLE n (v / 256) := by
      simp only [bytesLE, List.range_succ_eq_map, List.map_cons, List.map_map]
      refine congrArg₂ _ rfl (List.map_congr_left fun i _ => ?_)
      have : v >>> (8 * (i + 1)) = (v / 256) >>> (8 * i) := by
        simp only [Nat.shiftRight_eq_div_pow, Nat.div_div_eq_div_mul]
        congr 1
        rw [show (256 : Nat) = 2 ^ 8 from rfl, ← Nat.pow_add]; congr 1; omega
      simp only [Function.comp_apply, Nat.succ_eq_add_one, this]
    rw [h, ofBytesLE, ih, BitVec.toNat_ofNat, show 8 * (n + 1) = 8 + 8 * n by omega, Nat.pow_add, Nat.mod_mul]

theorem ckptS_good : ckptBad ckptS imgS { role := 0, layers := 1, cl := 1, ctx := 0, slot := 2, vocab := 100 } = false := by
  have h1 : ofBytesLE ((ckptS.drop 0xB0).take 48).reverse = ckptN := by
    have : (ckptS.drop 0xB0).take 48 = (bytesLE 48 ckptN).reverse := by rfl
    rw [this, List.reverse_reverse, ofBytesLE_bytesLE]
    exact Nat.mod_eq_of_lt (show ckptN < 2 ^ (8 * 48) from (Config.sha384 []).isLt)
  have h3 : leAt ckptS 0 4 = 0x435A4455 ∧ leAt ckptS 4 2 = 1 ∧ leAt ckptS 6 2 = 0x100 ∧ leAt ckptS 8 8 = 256 ∧
    ckptS.length = 256 ∧ leAt ckptS 0x10 16 = imgS.id ∧ leAt ckptS 0x58 2 = 1 ∧ leAt ckptS 0x5A 2 = 0 :=
    by decide +kernel
  obtain ⟨a1, a2, a3, a4, a5, a6, a7, a8⟩ := h3
  unfold ckptBad
  simp only [h1, a1, a2, a3, a4, a5, a6, a7, a8]
  simp [ckptN]

/-- A run of sequence 0 with one token to append. -/
def genS : Gen := { input := [7], maxNew := 5, ringAddr := 0x10000 }
def genUp (g : Gen) : Machine.State :=
  { cmdOn srvUp { mkCmd 0x13 (some 0) [] with run := true } with gens := [(3, g)] }
def stepU : EntryE × Machine.State :=
  (pickEntry 0 0 (fun e => decide (13 ≤ e.descLen)) (modGen 3 (fun g => { g with waits := false }) (genUp genS))).getD ({}, up)

/-- The run with its step open in binding 0. -/
def bindS : Bind := { h := 3, base := 64, n := 1, toks := [7], sample := true, cl := 4096 }
def bindUp (x : Bind) : Machine.State :=
  { genUp { genS with bind := some 0 } with seqs := [(0, { seqS with bind := some 0 })], binds := [(0, x)] }

/-- Every clock source in state `x`, the crystal VALID. -/
def clkUp (x : Nat) : Machine.State := wr .CLK_STAT 0 (BitVec.ofNat 32 (x + 8 * x + 64 * x + 512 * x + 4096 * 2 + 32768 * x)) up

/-- A unit whose monitor ADC has its clock; the same with a fresh result of board channel 3 in mode 1. -/
def madcUp (m : Madc) : Machine.State := { wr .CLK_GATE 0 4 up with madc := m }
def brdUp : Machine.State := wr .THM_BRD 3 1 (wr .MADC_DATA 27 (BitVec.ofNat 32 (2 ^ 18 + 2000)) (madcUp {}))

/-- A unit in start-up phase `n`; one whose trial slot A has run for 30 s. -/
def phUp (n : Nat) : Machine.State := wr .HUB_BOOT_STAT 0 (BitVec.ofNat 32 n) (clkUp 2)
def trialUp : Machine.State :=
  { up with sil.slotA := { state := 2, version := 5, svn := 9 }, sil.slotB := { state := 3 }, now := 30000000000 }

/-- An image with a DRAWRING of two tile-layers in bay 47. -/
def imgQ : Image :=
  { imgA with draw := { bays := [{ bay := 47, rate := 1 }], tls := [{ tl := 48128, weight := 1, mask := 1 }, { tl := 48129, weight := 2, mask := 6 }] } }

/-- A pattern set of no patterns, with its digest. -/
def scanS : List Nat :=
  [0x55, 0x31, 0x32, 0x50, 2, 0] ++ List.replicate 10 0 ++ [80] ++ List.replicate 7 0 ++
  ((bytesLE 48 ckptN).reverse.map (·.toNat)) ++ List.replicate 8 0

theorem foldl_eq_ofBytesLE (l : List Byte) : ((l.reverse).map (·.toNat)).foldl (fun m x => m * 256 + x) 0 = ofBytesLE l := by
  induction l with
  | nil => rfl
  | cons b l ih =>
    rw [List.reverse_cons, List.map_append, List.foldl_append, ih, ofBytesLE]
    simp only [List.map_cons, List.map_nil, List.foldl_cons, List.foldl_nil]; omega

theorem scanS_good : scanOk scanS = true := by
  have h1 : ((scanS.drop 0x18).take 48).foldl (fun m x => m * 256 + x) 0 = (Config.sha384 []).toNat := by
    have : (scanS.drop 0x18).take 48 = (bytesLE 48 ckptN).reverse.map (·.toNat) := by rfl
    rw [this, foldl_eq_ofBytesLE, ofBytesLE_bytesLE]
    exact Nat.mod_eq_of_lt (show ckptN < 2 ^ (8 * 48) from (Config.sha384 []).isLt)
  have h2 : scanAt scanS 0 4 = 0x50323155 ∧ scanAt scanS 4 2 = 2 ∧ scanAt scanS 0x10 8 = 80 ∧ scanS.length = 80 :=
    by decide +kernel
  have h3 : (scanS.take 80).drop 80 = [] := by
    rw [List.drop_eq_nil_iff]; simp
  obtain ⟨a1, a2, a3, a4⟩ := h2
  unfold scanOk
  simp [h1, a1, a2, a3, a4, h3]

/-- A unit whose debug block has its clock and the given SCOPE. -/
def dbgUp (scope : Nat) : Machine.State := { wr .CLK_GATE 0 0x10 up with dbg.scope := scope, sil.debugOpen := true }

/-- A unit whose BAR4 window is on. -/
def barUp : Machine.State := wr .HUB_HOST_CFG 0 1 up

/-- A peer table: a job of two, of which this package is rank 0, one peer that may fetch, one memory region and one exchange. -/
def tableN (rank : Nat) : PeerTable :=
  { job := 7, nmem := 2, slots := 4, serve := true, xchBase := 0x40000, xchSize := 0x1000, fetchBase := 0x100000,
    peers := [{ rank := rank, fetch := true, ports := [0], localQpn := 8, ctrlQpn := 5 }],
    regions := [{ peer := 0, access := 3, rkey := 9, base := 0x20000, len := 0x1000 }],
    xchs := [{ elems := 2 }] }

/-- A unit with that table, logical port 0 up in mode 0, and queue pair 8 as `q` with the physical function's context. -/
def netUp (rank : Nat) (q : QPair) : Machine.State :=
  { wr .NET_PORT_IP4 0 0x0A000001 (wr .NET_PORT_CFG 0 0x10 (wr .NET_PORT_STAT 0 2 (withImg { imgA with peers := tableN rank }))) with
    qps := [(8, q)] }

/-- The same in a running job in which the peer is READY at epoch 3. -/
def jobUp (n : Nat) : Machine.State :=
  { netUp 1 { st := 1, port := 0 } with jobs := [(0, { st := n, epoch := 3, peers := [(0, { st := 1, epoch := 3 })] })] }

/-- A ware of two tables, one of one element, and a load of an image with it from the peer. -/
def tabDig : Nat := (Config.sha384 [1, 2]).toNat
def imgT : Image := { imgA with peers := tableN 0xFF, embeds := [(0, 0x30000), (1, 0x31000)],
                                ware := [{ kind := 3, rows := 1, cols := 1, digest := tabDig }, { kind := 3, rows := 1, cols := 1 }] }
def loadT : Load := { h := 3, phase := 3, src := 2, tables := [0, 1] }
def relUp : Machine.State :=
  { cmdOn up (mkCmd 0x01 (some 0) []) with images := [(0, imgT)], imgNext := 1, ctxs := [(0, { load := some loadT })],
                                            qps := [(8, { st := 1, port := 0 })] }

/-- The queue of the ware records asked for by a peer without credits. -/
def servedA : Serving := { peer := 0, kind := 1, next := 0, left := 1, args := [0, 0, 0] }
def rawUp : Machine.State :=
  { netUp 0xFF { st := 1, port := 0 } with images := [(0, { imgA with peers := tableN 0xFF, wareRaw := [1, 2, 3, 4] })],
                                           ctxs := [(0, { active := some 0, acts := 1 })] }

/-! ### Well-formedness -/

/-- Commands with operands in their ranges, which the check takes. -/
theorem test_wellFormed_1 : ([
    .registerWrite (.host 0) .bar0 0 0 false 0, .pairLoRead (.host 0) .bar0 0 4 true, .pairHiWrite (.host 0) .bar0 0 0,
    .registerAccessTimeout (.host 0) .bar0 0 false, .updateStrobe (.host 0) 0, .clusterStrobeApply 0, .bar4Read 0 0,
    .bar4Write 0 [], .bar4Resize 28, .msixUnmask 0 0, .vfBindWrite (.host 0) 1 0, .vfFlr 1, .receivedTlpError 0 .ecrc false [], .receivedTlpError 0 (.uncorrectable 4) false [], .receivedTlpError 0 (.correctable 0) false [],
    .hostReadTimeout 0 .staging false, .doeDiscovery 0, .negotiateAlgorithms 0 0, .getCertificate 0 0 0, .challenge 0 0,
    .getMeasurements 0 false 0, .sqTail 0 0 0, .rqHead 0 0 0, .queueEnable 0 0, .queueDisable 0 0, .commandFetch false [],
    .completionTimeout 0, .load 0, .activate 0, .discard 0, .restore 0, .calibrate 0, .adaptZero 0, .adaptUpdate 0,
    .seqCreate 0, .seqFree 0, .seqTruncate 0, .generate 0 [] [] false, .backward 0 [] false, .prefixCreate 0 [] false,
    .prefixDrop 0, .checkpoint 0] : List Instr).all Instr.wf = true := by decide +kernel

/-- Commands with operands in their ranges, which the check takes. -/
theorem test_wellFormed_2 : ([
    .seqRestore 0 [] false, .cancel 0, .nopCommand 0, .stepStart 0, .ringHeadPoll 0 0 false, .ringWaitExpiry 0,
    .register 0 0 0 [], .registrationWaitExpiry 0, .result 0 0 0 [], .done 0 0 0 [], .fail 0 0 0 [], .stepCommit 0,
    .queryArrival 0 0 0 0 0 [], .appendArrival 0 0 0 0 [], .engineUnitScore 0 0 0 0 false, .pageFlush 0 0 0 0,
    .flushComplete 0 0 0, .pinRelease 0 0, .pageMoveComplete 0 false,
    .passRequest 0 { codes := List.replicate 1024 0 } (List.replicate 512 0), .passStart 0, .layerSwitchStart 0,
    .layerSettled 0, .passWaveConverted 0 (List.replicate 128 {}), .passEnd 0, .governorSample [] [] 0 [],
    .blockScaleArrival 0 0 0 0 0 0 false, .accCodeArrival 0 0 0 (List.replicate 128 0), .preloadRun 0 0 0 0 [],
    .glazeContributionArrival 0 0 0 0 0 [], .accPartComplete 0 0, .destinationAck 0 0, .rowBlockQuantise 0 0 0 0 none,
    .quantiserRun 0 0 0 0 0 [], .glazeSelectionArrival 0 0 0 0 0 [], .glazeWeightRowArrival 0 0 0 0 0 0,
    .adapterUArrival 0 0 0 0 0 [], .adapterHArrival 0 0 0 0 [], .slotArrival 0 0 0 0 0 [] (.acc 0 0), .slotArrival 0 0 0 0 0 [] (.vec 383 4095 30), .slotArrival 0 0 0 0 0 [] (.fetch true 30 255 255), .instructionComplete 0 0] : List Instr).all Instr.wf = true := by decide +kernel

/-- Commands with operands in their ranges, which the check takes. -/
theorem test_wellFormed_3 : ([
    .sendAcknowledge 0 0 0 0 0, .sendRefusal 0 0 0 0 0, .vecEngineResetComplete 0, .aswap 0 0, .programOperationStart 0 0,
    .programRowStep 0 0 0 [], .programRowStepEnd 0 0 [], .probePass 0 0 0 0 0 0 (List.replicate 1024 {}), .readBackDone 0 0 1,
    .closingCalibrationDone 0 0, .bisqueCalibration 0 0, .referenceTrace 0 0 (List.replicate 8 0), .soakStart 0 0, .soakEnd 0,
    .calUtcWrite (.host 0) 0, .calWearSelWrite (.host 0) 0, .loadImageFetched 0 [] [] false, .warePayloadArrival 0 0 [] false,
    .imageRetire 0 0 0, .remapComplete 0, .setMinSvnWrite (.host 0) 0 0, .sramScrub 8 0 0 true, .hbmPatrolScrub 0 0 false,
    .shadowAudit 0 false, .linkReplay 0 0 1, .frameReceive 0 {}, .pfcFrameReceive 0 0 false, .pfcStormTimeout 0 0,
    .portModeWrite (.host 0) 0 0, .rdmaRequestReceive {}, .ackTimeout 0, .nakReceive 0 0 0, .cnpReceive 0, .rateIncreaseTimer 0,
    .wareReq 0 0 0 0 0 0 0 0, .wareCredit 0 0 0 0 0, .wareNack 0 0 0 0 0 1, .kvReq 0 0 0 0 0 0 0 0 0, .fetchChunkArrival 0 0 false 0 [],
    .fenceNotice 0 0 0 1 0, .rejoin 0 0 0] : List Instr).all Instr.wf = true := by decide +kernel

/-- Commands with operands in their ranges, which the check takes. -/
theorem test_wellFormed_4 : ([
    .rejoinAck 0 0 0, .stepRec 0 0 0 0 [], .jobRejoinStart 0 0, .contributionReceive 0 0 [], .collectiveTimeout 0 0 0,
    .noticeAckWaitExpiry 0 0, .fencePlace 0 0 1, .drainComplete 0 0, .drainWindowExpiry 0 0, .taggedReply 0 0 0 0 0 none, .taggedReply 0 0 0 0 0 (some (1055, 15)),
    .epochOffer 0 0 0, .epochAcknowledgement 0 0 0, .stallMonitorHang 0 0 [], .engineResetComplete 0 0,
    .engineResetBoundExpiry 0 0, .partitionReset 0 0 0 0, .partitionResetComplete 0 [], .ptToExpiry 0, .warmReset 0 0 0,
    .coldReset 0 0 0 false, .hostEngineResetRequest (.host 0) 9, .hostPartitionResetRequest (.host 0) 10,
    .hostWarmResetRequest (.host 0) 11, .hostColdResetRequest (.host 0) 12, .rstFenceHostWrite (.host 0) 0,
    .reconciliationRound [(13, 12287, 4)], .sampleArm 0 0 0, .armTimeout 0, .sampleVerdict 0 [] false false, .crossCheckRound 0 0 0 0,
    .crossCheckComplete 0 0 0 0 0, .roundTimeout 0 0, .scanStart (.host 0) 1 [], .boostExpiry 0,
    .bootRomStart false false false, .flashWriteDone false, .trialConfirm false, .getInfo 0, .logRead 0 0 false, .fwStage 0 0 0] : List Instr).all Instr.wf = true := by decide +kernel

/-- Commands with operands in their ranges, which the check takes. -/
theorem test_wellFormed_5 : ([
    .fwStageComplete [], .fwStatus 0, .fwActivate 0 false false, .keyEnroll false 0 0 0 0,
    .keyRevoke false 0 0 0, .keyList 0, .commission false 0 0, .scanWrite 0 0 [], .setEndpointId 0, .getMctpVersionSupport 0,
    .getpldmversion 0, .getpldmcommands 0, .seteventreceiver false 0, .requestupdate 0, .clockMeasurement 0 0, .clockEdgeLoss 0,
    .clkGateWrite (.host 0) 0, .domainSwitchDone 0 false, .partitionPowerDown (.host 0) 0, .partitionPowerUp (.host 0) 0,
    .thermometerSample (List.replicate 236 none), .thermalReleaseExpiry 0, .boardChannelRead 0, .conversionRequest (.host 0) 0,
    .openWireTestRequest (.host 0) 0, .conversionComplete 0, .madcCalibration false, .madcCalibrationDone false, .extest 0,
    .samplePreload 0, .dresp 0 0 0, .daddr 0, .ddata false 0, .debugAccessComplete false, .dbgHalt 1, .dbgResume 2, .dbgStep 4,
    .dbgClose 8, .fabricHalted 0, .silsetPcBreakpoint 0] : List Instr).all Instr.wf = true := by decide +kernel

/-- Commands with operands in their ranges, which the check takes. -/
theorem test_wellFormed_6 : ([
    .powerOn 0 [], .startupPhaseAdvance [], .boardInputHoldExpiry 0 false, .boardInputStuck 0, .supplyUndervoltage 0,
    .supplyRecovered 0, .portLinkDown 0, .portLinkUp 0, .linkRetrainingComplete 0 0, .agentUpdateComplete 0 0,
    .boardInputGlitch 0, .dmaMibMoved 0, .restoreRecordArrival 0 0 [] false, .adapterQArrival 0 0 0 0 0 [],
    .adapterVArrival 0 0 0 0 0 [], .pldmComponentTransfer 0 0, .vadd 0 0, .vsub 0 0, .vmul 0 0, .vfma 0 0, .vmax 0 0,
    .vmin 0 0, .vabs 0 0, .vneg 0 0, .vcvt 0 0, .vmov 0 0, .vrcp 0 0, .vrsq 0 0, .vexp2 0 0, .vlog2 0 0, .vsig 0 0, .vsilu 0 0,
    .vrope 0 0, .vbscl 0 0, .vrsum 0 0, .vdot 0 0, .vrmax 0 0, .vscan 0 0, .vtopk 0 0, .vlsem 0 0] : List Instr).all Instr.wf = true := by decide +kernel

/-- Commands with operands in their ranges, which the check takes. -/
theorem test_wellFormed_7 : ([
    .viadd 0 0, .vimul 0 0, .vrng 0 0, .vfetch 0 0, .vstore 0 0, .send 0 0, .sendm 0 0, .sget 0 0, .sput 0 0, .sadd 0 0,
    .ssub 0 0, .sand 0 0, .sor 0 0, .sxor 0 0, .sshl 0 0, .sshr 0 0, .sli 0 0, .slui 0 0, .br 0 0, .beq 0 0, .bne 0 0, .blt 0 0,
    .halt 0 0, .sflg 0 0, .sfclr 0 0, .nop 0 0, .pfFlr, .hostLinkDown, .doeAbort, .getVersion, .getCapabilities, .getDigests,
    .vrCodeRepeat, .vrAlert, .driftTriggerCheck, .utcFlashWrite, .warmToExpiry, .lockstepMismatch, .watchdogExpiry,
    .silsetRestartComplete] : List Instr).all Instr.wf = true := by decide +kernel

/-- Commands with operands in their ranges, which the check takes. -/
theorem test_wellFormed_8 : ([
    .getEndpointId, .getEndpointUuid, .getMessageTypeSupport, .gettid, .getpldmtypes, .activatefirmware, .rcOscillatorLoss,
    .conversionTimeout, .owAutoTest, .tapReset, .idcode, .clamp, .highz, .boundaryInstructionExit, .bypass, .dstat, .dchal,
    .unlockVerifyDone, .unlockRateLimitExpiry, .dbgSilHalt, .dbgSilResume, .dbgSilStep, .dbgSilRestart, .perstNAssert,
    .perstNRelease, .alertInAssert, .thermInAssert, .thermInRelease, .pcieLinkUp 5 16, .rcOscillatorRecovered,
    .silsetSramUncorrectable, .alertInRelease] : List Instr).all Instr.wf = true := by decide +kernel

/-- Commands of which one operand is outside its range, which the check refuses. -/
theorem test_illFormed_1 : ([
    .registerWrite (.host 1) .bar0 0 0 false 0, .registerWrite (.host 0) .bar0 0 0 false 18446744073709551616,
    .registerWrite .spyhole (.cfg 0 .ecrc) 0 0 false 0, .pairLoRead (.host 1) .bar0 0 4 true, .pairHiWrite (.host 1) .bar0 0 0,
    .registerAccessTimeout (.host 1) .bar0 0 false, .updateStrobe (.host 1) 0, .clusterStrobeApply 385,
    .bar4Read 137438953472 0, .bar4Write 137438953472 [], .bar4Resize 38, .bar4Resize 27, .msixUnmask 32 0, .msixUnmask 0 2048,
    .vfBindWrite (.host 1) 1 0, .vfBindWrite (.host 0) 32 0, .vfBindWrite (.host 0) 0 0, .vfFlr 32, .vfFlr 0,
    .receivedTlpError 32 .ecrc false [], .receivedTlpError 0 .ecrc false [4294967296], .receivedTlpError 0 (.uncorrectable 6) false [],
    .receivedTlpError 0 (.correctable 1) false [], .hostReadTimeout 32 .staging false, .doeDiscovery 256, .getCertificate 8 0 0, .challenge 8 0,
    .getMeasurements 256 false 0, .sqTail 32 0 0, .sqTail 0 64 0, .sqTail 0 0 4294967296, .sqTail 1 8 0, .rqHead 32 0 0,
    .rqHead 0 64 0, .rqHead 0 0 4294967296, .rqHead 1 8 0, .queueEnable 32 0, .queueEnable 0 64, .queueEnable 1 8,
    .queueDisable 32 0, .queueDisable 0 64, .queueDisable 1 8, .commandFetch true []] : List Instr).all (fun c => !c.wf) = true := by decide +kernel

/-- Commands of which one operand is outside its range, which the check refuses. -/
theorem test_illFormed_2 : ([
    .completionTimeout 4096, .load 4096, .activate 4096, .discard 4096, .restore 4096, .calibrate 4096, .adaptZero 4096,
    .adaptUpdate 4096, .seqCreate 4096, .seqFree 4096, .seqTruncate 4096, .generate 4096 [] [] false,
    .generate 0 [4294967296] [] false, .backward 4096 [] false, .backward 0 [4294967296] false, .prefixCreate 4096 [] false,
    .prefixCreate 0 [4294967296] false, .prefixDrop 4096, .checkpoint 4096, .seqRestore 4096 [] false, .cancel 4096,
    .nopCommand 4096, .stepStart 4096, .ringHeadPoll 4096 0 false, .ringHeadPoll 0 18446744073709551616 false,
    .ringWaitExpiry 4096, .register 384 0 0 [], .register 0 4096 0 [], .register 0 0 4096 [], .register 0 0 0 [4294967296],
    .registrationWaitExpiry 4096, .result 384 0 0 [], .result 0 4096 0 [], .result 0 0 4096 [], .result 0 0 0 [4294967296],
    .done 384 0 0 [], .done 0 4096 0 [], .done 0 0 4096 [], .done 0 0 0 [4294967296], .fail 384 0 0 []] : List Instr).all (fun c => !c.wf) = true := by decide +kernel

/-- Commands of which one operand is outside its range, which the check refuses. -/
theorem test_illFormed_3 : ([
    .fail 0 4096 0 [], .fail 0 0 4096 [], .fail 0 0 0 [4294967296], .stepCommit 4096, .queryArrival 384 0 0 0 0 [],
    .queryArrival 0 4096 0 0 0 [], .queryArrival 0 0 524288 0 0 [], .queryArrival 0 0 0 0 16 [], .queryArrival 0 0 0 0 0 [256],
    .appendArrival 384 0 0 0 [], .appendArrival 0 4096 0 0 [], .appendArrival 0 0 524288 0 [], .appendArrival 0 0 0 0 [4294967296],
    .engineUnitScore 48 0 0 0 false, .engineUnitScore 0 4096 0 0 false,
    .engineUnitScore 0 0 64 0 false, .pageFlush 48 0 0 0, .pageFlush 0 4096 0 0, .pageFlush 0 0 64 0, .pageFlush 0 0 0 16384,
    .flushComplete 4096 0 0, .flushComplete 0 64 0, .flushComplete 0 0 16384, .pinRelease 281474976710656 0, .pinRelease 0 67,
    .passRequest 12288 { codes := List.replicate 1024 0 } (List.replicate 512 0),
    .passRequest 0 { codes := List.replicate 1024 0 } [],
    .passRequest 0 { kind := 2, codes := List.replicate 1024 0 } (List.replicate 512 0),
    .passRequest 0 { layer := 4, codes := List.replicate 1024 0 } (List.replicate 512 0),
    .passRequest 0 {} (List.replicate 512 0), .passStart 12288, .layerSwitchStart 12288, .layerSettled 12288,
    .passWaveConverted 12288 (List.replicate 128 {}), .passWaveConverted 0 [], .passEnd 12288,
    .blockScaleArrival 384 0 0 0 0 0 false] : List Instr).all (fun c => !c.wf) = true := by decide +kernel

/-- Commands of which one operand is outside its range, which the check refuses. -/
theorem test_illFormed_4 : ([
    .blockScaleArrival 0 31 0 0 0 0 false, .blockScaleArrival 0 0 0 0 0 256 false,
    .accCodeArrival 384 0 0 (List.replicate 128 0), .accCodeArrival 0 12288 0 (List.replicate 128 0),
    .accCodeArrival 0 0 8 (List.replicate 128 0), .accCodeArrival 0 0 0 [], .preloadRun 384 0 0 0 [], .preloadRun 0 31 0 0 [], .preloadRun 0 0 0 0 [4294967296],
    .glazeContributionArrival 384 0 0 0 0 [], .glazeContributionArrival 0 31 0 0 0 [], .accPartComplete 384 0,
    .accPartComplete 0 31, .destinationAck 384 0, .destinationAck 0 31, .rowBlockQuantise 384 0 0 0 none,
    .rowBlockQuantise 0 0 4096 0 none, .rowBlockQuantise 0 0 0 96 none, .quantiserRun 384 0 0 0 0 [], .quantiserRun 0 0 4096 0 0 [],
    .quantiserRun 0 0 0 96 0 [], .glazeSelectionArrival 384 0 0 0 0 [], .glazeSelectionArrival 0 0 0 0 96 [],
    .glazeWeightRowArrival 384 0 0 0 0 0, .glazeWeightRowArrival 0 0 0 0 96 0, .adapterUArrival 384 0 0 0 0 [],
    .adapterUArrival 0 0 0 0 96 [], .adapterHArrival 384 0 0 0 [],
    .slotArrival 384 0 0 0 0 [] (.acc 0 0), .slotArrival 0 4096 0 0 0 [] (.acc 0 0), .slotArrival 0 0 128 0 0 [] (.acc 0 0),
    .slotArrival 0 0 0 0 0 [] (.acc 384 0), .slotArrival 0 0 0 0 0 [] (.acc 0 31), .slotArrival 0 0 0 0 0 [] (.vec 0 4096 0), .slotArrival 0 0 0 0 0 [] (.vec 0 0 31),
    .slotArrival 0 0 0 0 0 [] (.fetch false 31 0 0), .slotArrival 0 0 0 0 0 [] (.fetch false 0 256 0), .slotArrival 0 0 0 0 0 [] (.fetch false 0 0 256),
    .instructionComplete 384 0, .instructionComplete 0 4096, .sendAcknowledge 384 0 0 0 0, .sendAcknowledge 0 4096 0 0 0,
    .sendAcknowledge 0 0 31 0 0, .sendAcknowledge 0 0 0 256 0, .sendAcknowledge 0 0 0 0 256, .sendRefusal 0 0 31 0 0,
    .sendRefusal 384 0 0 0 0, .sendRefusal 0 4096 0 0 0, .sendRefusal 0 0 0 256 0, .sendRefusal 0 0 0 0 256, .vecEngineResetComplete 384, .aswap 384 0] : List Instr).all (fun c => !c.wf) = true := by decide +kernel

/-- Commands of which one operand is outside its range, which the check refuses. -/
theorem test_illFormed_5 : ([
    .aswap 0 4096, .programOperationStart 12288 0, .programOperationStart 0 4, .programRowStep 12288 0 0 [],
    .programRowStep 0 4 0 [], .programRowStepEnd 12288 0 [], .programRowStepEnd 0 4 [],
    .probePass 12288 0 0 0 0 0 (List.replicate 1024 {}), .probePass 0 4 0 0 0 0 (List.replicate 1024 {}),
    .probePass 0 0 5 0 0 0 (List.replicate 1024 {}), .probePass 0 0 0 8 0 0 (List.replicate 1024 {}),
    .probePass 0 0 0 0 8 0 (List.replicate 1024 {}), .probePass 0 0 0 0 0 2 (List.replicate 1024 {}), .probePass 0 0 0 0 0 0 [],
    .readBackDone 12288 0 1, .readBackDone 0 4 1, .closingCalibrationDone 12288 0,
    .closingCalibrationDone 0 4, .bisqueCalibration 48 0, .referenceTrace 0 0 [], .soakStart 48 0, .soakEnd 48,
    .calUtcWrite (.host 1) 0, .calWearSelWrite (.host 1) 0, .loadImageFetched 4096 [] [] false,
    .warePayloadArrival 4096 0 [] false, .warePayloadArrival 0 0 [256] false, .imageRetire 8 0 0, .imageRetire 0 32 0,
    .remapComplete 12288, .setMinSvnWrite (.host 1) 0 0, .setMinSvnWrite (.host 0) 8 0, .sramScrub 9 0 0 false, .sramScrub 3 0 0 true,
    .sramScrub 0 0 3 false, .hbmPatrolScrub 103079215104 0 false, .hbmPatrolScrub 0 3 true, .shadowAudit 49152 false] : List Instr).all (fun c => !c.wf) = true := by decide +kernel

/-- Commands of which one operand is outside its range, which the check refuses. -/
theorem test_illFormed_6 : ([
    .linkReplay 14 0 1, .linkReplay 0 0 9, .linkReplay 0 0 0, .frameReceive 32 {}, .frameReceive 0 { kind := 5 }, .frameReceive 0 { psn := 16777216 },
    .pfcFrameReceive 32 0 false, .pfcFrameReceive 0 8 false, .pfcStormTimeout 32 0, .pfcStormTimeout 0 8,
    .portModeWrite (.host 1) 0 0, .portModeWrite (.host 0) 32 0, .portModeWrite (.host 0) 0 4294967296,
    .rdmaRequestReceive { port := 32 }, .rdmaRequestReceive { op := 5 }, .rdmaRequestReceive { op := 2, len := 1 },
    .rdmaRequestReceive { op := 2, len := 1, data := [256] }, .ackTimeout 16777216, .nakReceive 16777216 0 0, .nakReceive 0 0 16777216, .rdmaRequestReceive { psn := 16777216 },
    .cnpReceive 16777216, .rateIncreaseTimer 16777216, .wareReq 16777216 0 0 0 0 0 0 0, .wareReq 0 0 0 0 0 0 0 65,
    .wareCredit 16777216 0 0 0 0, .wareNack 16777216 0 0 0 0 1, .wareNack 0 0 0 0 0 4, .wareNack 0 0 0 0 0 0,
    .kvReq 16777216 0 0 0 0 0 0 0 0, .kvReq 0 0 0 0 0 0 0 0 65, .fetchChunkArrival 16777216 0 false 0 [],
    .fetchChunkArrival 0 64 false 0 [], .fetchChunkArrival 0 0 false 33554432 [], .fetchChunkArrival 0 0 false 0 [256],
    .fenceNotice 16777216 0 0 1 0, .fenceNotice 0 0 0 5 0, .fenceNotice 0 0 0 0 0, .rejoin 16777216 0 0, .rejoin 0 0 4294967296,
    .rejoinAck 16777216 0 0, .rejoinAck 0 0 4294967296, .stepRec 16777216 0 0 0 []] : List Instr).all (fun c => !c.wf) = true := by decide +kernel

/-- Commands of which one operand is outside its range, which the check refuses. -/
theorem test_illFormed_7 : ([
    .jobRejoinStart 8 0, .jobRejoinStart 0 32, .contributionReceive 16777216 0 [], .contributionReceive 0 4294967296 [],
    .contributionReceive 0 0 [4294967296], .collectiveTimeout 8 0 0, .collectiveTimeout 0 32 0, .noticeAckWaitExpiry 8 0,
    .noticeAckWaitExpiry 0 32, .fencePlace 14 0 1, .fencePlace 0 12288 1, .fencePlace 0 0 5, .fencePlace 0 0 0,
    .fencePlace 0 0 5, .drainComplete 14 0, .drainComplete 0 12288, .drainWindowExpiry 14 0, .drainWindowExpiry 0 12288,
    .taggedReply 14 0 0 0 0 none, .taggedReply 0 12288 0 0 0 none, .taggedReply 0 0 0 256 0 none, .taggedReply 0 0 0 0 256 none,
    .taggedReply 0 0 0 0 0 (some (1280, 0)), .taggedReply 0 0 0 0 0 (some (32, 0)), .taggedReply 0 0 0 0 0 (some (0, 16)), .epochOffer 5 0 0,
    .epochOffer 0 32 0, .epochOffer 0 0 4294967296, .epochAcknowledgement 5 0 0, .epochAcknowledgement 0 32 0,
    .epochAcknowledgement 0 0 4294967296, .stallMonitorHang 14 0 [], .stallMonitorHang 0 12288 [], .stallMonitorHang 0 0 [(4096, 0)], .stallMonitorHang 0 0 [(0, 32)],
    .fencePlace 0 0 4, .pcieLinkUp 6 16, .pcieLinkUp 0 16, .pcieLinkUp 5 3, .engineResetComplete 14 0,
    .engineResetComplete 10 0, .engineResetComplete 11 0, .engineResetComplete 0 12288, .engineResetBoundExpiry 14 0,
    .engineResetBoundExpiry 10 0, .engineResetBoundExpiry 11 0, .engineResetBoundExpiry 0 12288, .partitionReset 8 0 0 0,
    .partitionReset 0 15 0 0] : List Instr).all (fun c => !c.wf) = true := by decide +kernel

/-- Commands of which one operand is outside its range, which the check refuses. -/
theorem test_illFormed_8 : ([
    .partitionReset 0 0 16 0, .partitionReset 0 0 0 12288, .partitionResetComplete 8 [], .ptToExpiry 8, .warmReset 15 0 0,
    .warmReset 0 16 0, .warmReset 0 0 12288, .coldReset 15 0 0 false, .coldReset 0 16 0 false, .coldReset 0 0 12288 false,
    .hostEngineResetRequest (.host 1) 9, .hostEngineResetRequest (.host 0) 4294967296, .hostEngineResetRequest (.host 0) 0,
    .hostPartitionResetRequest (.host 1) 10, .hostPartitionResetRequest (.host 0) 4294967296,
    .hostPartitionResetRequest (.host 0) 0, .hostWarmResetRequest (.host 1) 11, .hostWarmResetRequest (.host 0) 4294967296,
    .hostWarmResetRequest (.host 0) 0, .hostColdResetRequest (.host 1) 12, .hostColdResetRequest (.host 0) 4294967296,
    .hostColdResetRequest (.host 0) 0, .rstFenceHostWrite (.host 1) 0, .rstFenceHostWrite (.host 0) 4294967296,
    .sampleArm 8 0 0, .sampleArm 0 32 0, .sampleArm 0 0 48, .armTimeout 48, .sampleVerdict 48 [] false false,
    .crossCheckRound 5 0 0 0, .crossCheckRound 0 384 0 0, .crossCheckRound 0 0 384 0,
    .crossCheckRound 0 0 0 18446744073709551616, .crossCheckComplete 7 0 0 0 0, .crossCheckComplete 0 384 0 0 0,
    .crossCheckComplete 0 0 384 0 0, .crossCheckComplete 0 0 0 18446744073709551616 0,
    .crossCheckComplete 0 0 0 0 18446744073709551616, .roundTimeout 7 0, .roundTimeout 0 384] : List Instr).all (fun c => !c.wf) = true := by decide +kernel

/-- Commands of which one operand is outside its range, which the check refuses. -/
theorem test_illFormed_9 : ([
    .scanStart (.host 1) 1 [], .scanStart (.host 0) 0 [], .boostExpiry 8, .getInfo 4294967296, .logRead 4294967296 0 false,
    .logRead 0 4294967296 false, .fwStage 4294967296 0 0, .fwStage 0 18446744073709551616 0, .fwStage 0 0 4294967296,
    .fwStatus 4294967296, .fwActivate 4294967296 false false,
    .keyEnroll false 4294967296 0 0 0, .keyEnroll false 0 256 0 0, .keyRevoke false 4294967296 0 0, .keyRevoke false 0 256 0,
    .keyList 4294967296, .commission false 4294967296 0, .commission false 0 4294967296, .scanWrite 4294967296 0 [],
    .scanWrite 0 18446744073709551616 [], .setEndpointId 256, .getMctpVersionSupport 256, .getpldmversion 64,
    .getpldmcommands 64, .seteventreceiver false 256, .requestupdate 4294967296, .clockMeasurement 5 0, .clockEdgeLoss 5,
    .clkGateWrite (.host 1) 0, .domainSwitchDone 23 false, .partitionPowerDown (.host 1) 0, .partitionPowerUp (.host 1) 0,
    .thermometerSample [], .thermalReleaseExpiry 48, .boardChannelRead 4, .conversionRequest (.host 1) 0,
    .openWireTestRequest (.host 1) 0, .dresp 0 4294967296 0, .daddr 18446744073709551616] : List Instr).all (fun c => !c.wf) = true := by decide +kernel

/-- Commands of which one operand is outside its range, which the check refuses. -/
theorem test_illFormed_10 : ([
    .ddata false 34359738368, .dbgHalt 0, .dbgResume 0, .dbgStep 0, .dbgClose 0, .fabricHalted 48, .silsetPcBreakpoint 4,
    .powerOn 8 [], .powerOn 0 [23], .startupPhaseAdvance ([(14, 0)]), .startupPhaseAdvance ([(0, 12288)]),
    .boardInputHoldExpiry 3 false, .boardInputStuck 2, .supplyUndervoltage 23, .supplyRecovered 23, .portLinkDown 32,
    .portLinkUp 32, .linkRetrainingComplete 14 0, .linkRetrainingComplete 0 12288, .agentUpdateComplete 14 0, .agentUpdateComplete 0 12288, .boardInputGlitch 11,
    .dmaMibMoved 4096, .restoreRecordArrival 4096 0 [] false, .restoreRecordArrival 0 49152 [] false,
    .adapterQArrival 384 0 0 0 0 [], .adapterVArrival 384 0 0 0 0 [], .adapterVArrival 0 0 0 0 96 [],
    .reconciliationRound [(14, 0, 1)], .reconciliationRound [(0, 12288, 1)], .reconciliationRound [(0, 0, 0)], .reconciliationRound [(0, 0, 5)],
    .pldmComponentTransfer 256 0, .vadd 384 0, .vadd 0 4096, .vsub 384 0, .vsub 0 4096, .vmul 384 0, .vmul 0 4096, .vfma 384 0,
    .vfma 0 4096, .vmax 384 0, .vmax 0 4096, .vmin 384 0, .vmin 0 4096] : List Instr).all (fun c => !c.wf) = true := by decide +kernel

/-- Commands of which one operand is outside its range, which the check refuses. -/
theorem test_illFormed_11 : ([
    .vabs 384 0, .vabs 0 4096, .vneg 384 0, .vneg 0 4096, .vcvt 384 0, .vcvt 0 4096, .vmov 384 0, .vmov 0 4096, .vrcp 384 0,
    .vrcp 0 4096, .vrsq 384 0, .vrsq 0 4096, .vexp2 384 0, .vexp2 0 4096, .vlog2 384 0, .vlog2 0 4096, .vsig 384 0,
    .vsig 0 4096, .vsilu 384 0, .vsilu 0 4096, .vrope 384 0, .vrope 0 4096, .vbscl 384 0, .vbscl 0 4096, .vrsum 384 0,
    .vrsum 0 4096, .vdot 384 0, .vdot 0 4096, .vrmax 384 0, .vrmax 0 4096, .vscan 384 0, .vscan 0 4096, .vtopk 384 0,
    .vtopk 0 4096, .vlsem 384 0, .vlsem 0 4096, .viadd 384 0, .viadd 0 4096, .vimul 384 0, .vimul 0 4096] : List Instr).all (fun c => !c.wf) = true := by decide +kernel

/-- Commands of which one operand is outside its range, which the check refuses. -/
theorem test_illFormed_12 : ([
    .vrng 384 0, .vrng 0 4096, .vfetch 384 0, .vfetch 0 4096, .vstore 384 0, .vstore 0 4096, .send 384 0, .send 0 4096,
    .sendm 384 0, .sendm 0 4096, .sget 384 0, .sget 0 4096, .sput 384 0, .sput 0 4096, .sadd 384 0, .sadd 0 4096, .ssub 384 0,
    .ssub 0 4096, .sand 384 0, .sand 0 4096, .sor 384 0, .sor 0 4096, .sxor 384 0, .sxor 0 4096, .sshl 384 0, .sshl 0 4096,
    .sshr 384 0, .sshr 0 4096, .sli 384 0, .sli 0 4096, .slui 384 0, .slui 0 4096, .br 384 0, .br 0 4096, .beq 384 0,
    .beq 0 4096, .bne 384 0, .bne 0 4096, .blt 384 0, .blt 0 4096] : List Instr).all (fun c => !c.wf) = true := by decide +kernel

/-- Commands of which one operand is outside its range, which the check refuses. -/
theorem test_illFormed_13 : ([
    .halt 384 0, .halt 0 4096, .sflg 384 0, .sflg 0 4096, .sfclr 384 0, .sfclr 0 4096, .nop 384 0, .nop 0 4096] : List Instr).all (fun c => !c.wf) = true := by decide +kernel

/-! ### The manual's worked examples -/

/-- R61: the block with amax = 14.6 takes k = 2 under the no-clip rule, k = 1 under the OCP rule. -/
theorem test_block_scale : scaleExp true false (146, 10) = 2 ∧ scaleExp true true (146, 10) = 1 := by decide +kernel

/-- R61: the FP4 codes of 14.6, −5.1, 2.2, 0.6 and −0.3 (as FP32) under the two rules. -/
theorem test_drive_codes : let xs := [0x4169999A, 0xC0A33333, 0x400CCCCD, 0x3F19999A, 0xBE99999A].map (decode .fp32)
    xs.map (driveCode true 2) = [0x6, 0xB, 0x1, 0x0, 0x0] ∧ xs.map (driveCode true 1) = [0x7, 0xD, 0x2, 0x1, 0x0] := by
  decide +kernel

/-- The example after R67: 117 and −203 calibrate to 978 and −1,577, align to 978 and −394 and sum to 584. -/
theorem test_calibrated_codes : calibrate { g := 33792, o := -12 } 117 = 978 ∧ calibrate { g := 31744, o := 4 } (-203) = -1577 ∧
    alignCode (-1577) 2 = -394 ∧ narrow16 [978, -394] = (584, false) := by decide

/-- The example after R178: the calibrated code at the five positions of the ramp. -/
theorem test_ramp :
    let r : Nat → PassRun := fun n => { cal := [(goKey false 0 0, ⟨33280, -8⟩)], old := [(goKey false 0 0, ⟨33792, -12⟩)], n := n }
    [0, 64, 128, 192, 256].map (fun n => calibrate (goOf (r n) 0) 117) = [978, 973, 968, 963, 959] := by decide

/-- The example after R71: amax 3.25 takes the scale code 0x31, and five of the elements the codes 7, E, C, 1 and 0. -/
theorem test_page_group : pageGroup [.fin false 13 (-2), .fin true 5 (-1), .fin true 5 (-2), .fin false 13 (-5), .fin false 13 (-7)] =
    (0x31, [0x7, 0xE, 0xC, 0x1, 0x0], false, false) := by decide +kernel

/-- The example after R17: tile D5.B2.C7.T31 is 8,447, and its window begins at 0x257_FC00. -/
theorem test_tile_window : (decodeBar0 0x257FC00).map (fun p => (p.reg.desc.win, p.unit)) = some (.tile, 8447) := by decide +kernel

/-- The example after R292: the glaze region of D5.B2.C7 lies in the scratchpad of cluster 263, the bay buffer is D5.B2's. -/
theorem test_places : placeOf 0x40107C0000 = .scratch 263 ∧ placeOf 0x4110000000 = .bayBuf 32 ∧ placeOf 0x912345600 = .hbm 3 := by
  decide

/-- The example after R564: the counts of REFCLK_MEM and REFCLK_PCIE that are in window at the default TOL_PPM
(the lower end of the second by R562's −5,400 ppm, log entry 88). -/
theorem test_clock_window : [99959, 99960, 100040, 100041].map (clkInWindow up 3) = [false, true, true, false] ∧
    [99459, 99460, 99750, 100040, 100041].map (clkInWindow up 0) = [false, true, true, true, false] := by decide

/-! ### The hypotheses of the statements can be met -/

theorem test_wit_TilePassLifecycle :
    (∃ (tile : Nat) (req : PassReq) (parity : List Bool) (s : Machine.State), undebugged s = true ∧ (tileOf s tile).pending = none ∧
      (tileOf s tile).held = [] ∧ parityGood req.codes parity = true ∧ tileFenced s tile req.kind = false ∧
      layerInvalid s tile req = false) ∧
    (∃ (tile : Nat) (req : PassReq) (s : Machine.State), undebugged s = true ∧ (tileOf s tile).pending = some req ∧
      req.layer ≠ (tileOf s tile).active ∧ (tileOf s tile).settled = true ∧
      (∀ p, (tileOf s tile).running = some p → p.req.kind ≠ 2)) ∧
    (∃ (tile : Nat) (req : PassReq) (s : Machine.State), startable s tile = true ∧ (tileOf s tile).pending = some req ∧
      layerInvalid s tile req = false ∧ (tileOf s tile).held = [] ∧ (tileOf s tile).token = false ∧ tokenFor s tile = true) ∧
    (∃ (tile : Nat) (convs : List Conv) (r : PassRun) (s : Machine.State), tile < 12288 ∧ (tileOf s tile).running = some r ∧
      r.req.kind ≤ 1 ∧ r.wave < 8 ∧ convs.length = 128 ∧ (∀ c ∈ convs, 4 / 5 ≤ c.γ ∧ c.γ ≤ 5 / 4 ∧ -16 ≤ c.off ∧ c.off ≤ 16)) ∧
    (∃ (tile : Nat) (r : PassRun) (s : Machine.State), tile < 12288 ∧ (tileOf s tile).running = some r ∧ r.req.kind ≤ 1 ∧
      r.wave = 8 ∧ (tileOf s tile).token = true) :=
  ⟨⟨12287, { layer := 3, im := 1 }, [], wr .TILE_LCFG (tlKey 12287 3) 1 (wr .TILE_CFG 12287 0x100 up), by decide +kernel⟩,
   ⟨5, { layer := 2 }, { up with tiles := [(5, { pending := some { layer := 2 } })] }, by decide +kernel⟩,
   ⟨5, { layer := 2, codes := List.replicate 1024 0 },
     wr .TILE_LCFG (tlKey 5 2) 0x301 { up with tiles := [(5, { active := 2, pending := some { layer := 2, codes := List.replicate 1024 0 } })] },
     by decide +kernel⟩,
   ⟨12287, List.replicate 128 ({} : Conv), { wave := 7 }, { up with tiles := [(12287, { running := some { wave := 7 } })] },
     by decide +kernel⟩,
   ⟨12287, { wave := 8, req := { kind := 1 } },
     { up with tiles := [(12287, { running := some { wave := 8, req := { kind := 1 } }, token := true })], pools := [(7, { inUse := 1 })] },
     by decide +kernel⟩⟩

theorem test_wit_AccumulationUnitEvents :
    (∃ (cl : Nat) (part : Nat) (im : Nat) (vec : Nat) (b : Nat) (r : RouteE) (s : Machine.State), undebugged s = true ∧
      unitUp s 1 cl = true ∧ part < 32 ∧ routeOf (imgOf s im) cl part = some r ∧ r.part = part ∧
      accFind s cl part (fun a => a.im == im && a.vec == some vec && a.result.isNone) = none ∧
      accFind s cl part (fun a => a.im == im && a.vec.isNone) = none ∧
      bankFor s cl im (sliceOf (imgOf s im) r.slice).group part (some vec) = some b ∧ inBank s cl (1 - b) = [] ∧
      (∀ e ∈ inBank s cl b, e.2.vec ≠ none) ∧ tget [] s.accLate (cl * 32 + part) = [] ∧ (ownPreload s (imgOf s im) r).2 = false) ∧
    (∃ (cl : Nat) (part : Nat) (im : Nat) (vec : Nat) (k : Nat) (r : RouteE) (a : AccPass) (s : Machine.State),
      undebugged s = true ∧ unitUp s 1 cl = true ∧ routeOf (imgOf s im) cl part = some r ∧
      accFind s cl part (fun a => a.im == im && a.vec == some vec && a.result.isNone) = some (k, a)) ∧
    (∃ (cl : Nat) (tile : Nat) (wave : Nat) (k : Nat) (run : PassRun) (a : AccPass) (s : Machine.State), undebugged s = true ∧
      inReset s 1 cl = false ∧ (tileOf s tile).last = none ∧ (tileOf s tile).running = some run ∧ run.taken = wave ∧
      wave < run.wave ∧ run.req.kind ≤ 1 ∧ a.waited = true ∧
      accFind s cl run.req.part (fun a => a.im == run.req.im && a.vec == some run.req.vec && a.result.isNone && !(tget 0 a.waves run.req.pos).testBit wave) = some (k, a)) ∧
    (∃ (cl : Nat) (part : Nat) (im : Nat) (off : Nat) (k : Nat) (vals : List Nat) (r : RouteE) (a : AccPass) (s : Machine.State),
      undebugged s = true ∧ unitUp s 1 cl = true ∧ routeOf (imgOf s im) cl part = some r ∧ r.preSrc = 2 ∧ r.home = true ∧
      (sliceOf (imgOf s im) r.slice).pre ≠ 0 ∧ off + vals.length ≤ blockCols (sliceOf (imgOf s im) r.slice) r.cb ∧
      accFind s cl part (fun a => a.im == im && a.result.isNone && preMissing (imgOf s im) r a) = some (k, a) ∧
      (∀ j, j < vals.length → tget 0 a.pre (off + j) = 0)) ∧
    (∃ (cl : Nat) (part : Nat) (im : Nat) (vec : Nat) (k : Nat) (r : RouteE) (a : AccPass) (s : Machine.State),
      undebugged s = true ∧ cl < 384 ∧ unitUp s 1 cl = true ∧ routeOf (imgOf s im) cl part = some r ∧
      accFind s cl part (fun a => a.im == im && a.vec == some vec && a.result.isNone) = some (k, a)) ∧
    (∃ (cl : Nat) (part : Nat) (k : Nat) (a : AccPass) (r : RouteE) (s : Machine.State), undebugged s = true ∧
      inReset s 1 cl = false ∧ accFind s cl part (fun a => a.result.isNone) = some (k, a) ∧
      routeOf (imgOf s a.im) cl part = some r ∧ partReady s r a = true ∧ bankBad s k a = false) ∧
    (∃ (cl : Nat) (part : Nat) (k : Nat) (a : AccPass) (s : Machine.State),
      accFind s cl part (fun a => a.result.isSome) = some (k, a)) :=
  ⟨⟨0, 0, 0, 0, 0, routeA, withImg imgA, by decide +kernel⟩,
   ⟨0, 0, 0, 0, 0, routeA, accA, accUp accA, by decide +kernel⟩,
   ⟨0, 0, 7, 0, { wave := 8, taken := 7 }, accA, { accUp accA with tiles := [(0, { running := some { wave := 8, taken := 7 } })] },
     by decide +kernel⟩,
   ⟨0, 0, 0, 3, 0, [7], { routeA with preSrc := 2 }, { npos := 1 }, { withImg imgP with acc := [(0, { npos := 1 })] },
     by decide +kernel⟩,
   ⟨0, 0, 0, 0, 0, routeA, accA, accUp accA, by decide +kernel⟩,
   ⟨0, 0, 0, { accB with vec := some 3 }, routeA, accUp { accB with vec := some 3 }, by decide +kernel⟩,
   ⟨0, 0, 32, { result := some [1], acks := 1 }, { up with acc := [(32, { result := some [1], acks := 1 })] }, by decide +kernel⟩⟩

theorem test_wit_QuantiserEvents :
    (∃ (cl : Nat) (im : Nat) (pg : Nat) (rb : Nat) (off : Nat) (vals : List Nat) (l : List QVec) (r : List QVec) (v : QVec) (s : Machine.State),
      undebugged s = true ∧ unitUp s 2 cl = true ∧ (tget [] s.quant (qKey im pg) = l ++ v :: r ∨ (tget [] s.quant (qKey im pg) = l ∧
      l.length < 2 ∧ v = { vec := s.vecNext } ∧ r = [])) ∧
      (∀ w ∈ l, rbFull w rb (blockRows ((groupSlices (imgOf s im) pg).headD {}) rb) = true) ∧
      rbFull v rb (blockRows ((groupSlices (imgOf s im) pg).headD {}) rb) = false ∧
      off + vals.length ≤ (blockRows ((groupSlices (imgOf s im) pg).headD {}) rb) ∧
      (∀ e, e < vals.length → tget 0 v.elems (rb * 1024 + off + e) = 0)) ∧
    (∃ (cl : Nat) (im : Nat) (pg : Nat) (rb : Nat) (v : QVec) (s : Machine.State), undebugged s = true ∧ cl < 384 ∧
      inReset s 2 cl = false ∧ tget [] s.quant (qKey im pg) = [v] ∧ rb ∉ v.done ∧
      rbFull v rb (blockRows ((groupSlices (imgOf s im) pg).headD {}) rb) = true) :=
  ⟨⟨0, 0, 0, 0, 2, [9, 8], [], [], {}, withImg imgA, by decide +kernel⟩,
   ⟨0, 0, 0, 0, { elems := [(0, 1), (1, 2), (2, 3), (3, 0x41480001)] },
     { withImg imgA with quant := [(0, [{ elems := [(0, 1), (1, 2), (2, 3), (3, 0x41480001)] }])] }, by decide +kernel⟩⟩

theorem test_wit_GlazeSliceEvents :
    (∃ (cl : Nat) (im : Nat) (slice : Nat) (vec : Nat) (rb : Nat) (chans : List (Nat × Nat)) (j : GlzJob) (s : Machine.State),
      undebugged s = true ∧ unitUp s 2 cl = true ∧ (tget [] s.glz cl = [] ∧
      j = { im := im, slice := slice, vec := vec } ∨ tget [] s.glz cl = [j] ∧ j.im = im ∧ j.slice = slice ∧ j.vec = vec) ∧
      (∃ c ∈ chans, (rb, c.1) ∉ j.fetched)) ∧
    (∃ (cl : Nat) (im : Nat) (slice : Nat) (vec : Nat) (rb : Nat) (ch : Nat) (j : GlzJob) (s : Machine.State), undebugged s = true ∧
      unitUp s 2 cl = true ∧ (tget [] s.glz cl = [] ∧ j = { im := im, slice := slice, vec := vec } ∨ tget [] s.glz cl = [j] ∧
      j.im = im ∧ j.slice = slice ∧ j.vec = vec) ∧ fetchAhead s cl im slice vec rb ch = true ∧
      rowPoisoned s (imgOf s im) slice rb ch = false ∧ 0 < (sliceOf (imgOf s im) slice).rows ∧ j.sels = []) ∧
    (∃ (cl : Nat) (im : Nat) (slice : Nat) (vec : Nat) (rb : Nat) (ch : Nat) (j : GlzJob) (s : Machine.State), undebugged s = true ∧
      tget [] s.glz cl = [j] ∧ j.im = im ∧ j.slice = slice ∧ j.vec = vec ∧ (rb, ch) ∈ j.waiting ∧
      fetchAhead s cl im slice vec rb ch = false ∧ rowPoisoned s (imgOf s im) slice rb ch = false) ∧
    (∃ (cl : Nat) (s : Machine.State), undebugged s = true ∧ unitUp s 3 cl = true) ∧
    (∃ (cl : Nat) (im : Nat) (idx : Nat) (vec : Nat) (s : Machine.State), undebugged s = true ∧ unitUp s 2 cl = true ∧
      tget [] s.glz cl = [] ∧ 0 < (sliceOf (imgOf s im) (adpOf (imgOf s im) idx).slice).rows ∧
      (∀ b ∈ (adpOf (imgOf s im) idx).bs, b.cl = cl → anyPoison s (bLoc b (copyIn (ctlOf s vec) idx)) (2 * (adpOf (imgOf s im) idx).rank * b.n) = false)) ∧
    (∃ (cl : Nat) (s : Machine.State), undebugged s = true ∧ unitUp s 3 cl = true) ∧
    (∃ (cl : Nat) (im : Nat) (idx : Nat) (rb : Nat) (x : SliceE) (p : APartE) (s : Machine.State), undebugged s = true ∧
      unitUp s 2 cl = true ∧ (imgOf s im).slices.find? (fun x => x.kind == 1 && x.pair == (adpOf (imgOf s im) idx).slice) = some x ∧
      (adpOf (imgOf s im) idx).as.find? (fun p => p.rb == rb && p.cl == cl) = some p ∧ sliceOf (imgOf s im) x.id = x ∧ 0 < x.rows) :=
  ⟨⟨0, 0, 0, 0, 0, [(3, 0x3F800000)], {}, withImg imgA, by decide +kernel⟩,
   ⟨0, 0, 0, 0, 0, 1, {},
     { withImg { imgA with outliers := [{ mode := 1, fixed := [1] }], routes := [{ routeA with glaze := true, glzCl := 0 }] } with passes := [(0, {})] },
     by decide +kernel⟩,
   ⟨0, 0, 0, 0, 0, 1, { waiting := [(0, 1)] }, { withImg imgA with glz := [(0, [{ waiting := [(0, 1)] }])] }, by decide +kernel⟩,
   ⟨0, withImg imgD, by decide +kernel⟩,
   ⟨0, 0, 0, 0, withImg imgD, by decide +kernel⟩,
   ⟨0, withImg imgD, by decide +kernel⟩,
   ⟨0, 0, 0, 0, sliceT, { rb := 0, cl := 0, loc0 := 0x4000001000, loc1 := 0x4000002000 }, withImg imgD, by decide +kernel⟩⟩

theorem test_wit_MemoryScrubAndAudit :
    (∃ (store : Nat) (word : Nat) (read : Bool) (s : Machine.State), (read = true ∨ Machine.rb s .HUB_SCRUB_CTRL 0 = true) ∧
      store ≠ 3 ∧ store ≤ 8 ∧ (store < 3 → storeCode (placeOf word) = store)) ∧
    (∃ (store : Nat) (word : Nat) (read : Bool) (s : Machine.State), (read = true ∨ Machine.rb s .HUB_SCRUB_CTRL 0 = true) ∧
      store ≠ 3 ∧ store ≤ 8 ∧ (store < 3 → storeCode (placeOf word) = store) ∧ store < 8) ∧
    (∃ (store : Nat) (word : Nat) (read : Bool) (s : Machine.State), (read = true ∨ Machine.rb s .HUB_SCRUB_CTRL 0 = true) ∧
      store ≠ 3 ∧ store ≤ 8 ∧ (store < 3 → storeCode (placeOf word) = store) ∧ store < 3 ∧ poisoned s word = false) ∧
    (∃ (store : Nat) (word : Nat) (read : Bool) (s : Machine.State), (read = true ∨ Machine.rb s .HUB_SCRUB_CTRL 0 = true) ∧
      store ≠ 3 ∧ store ≤ 8 ∧ (store < 3 → storeCode (placeOf word) = store) ∧ 3 < store ∧ store < 8 ∧
      tget 0 s.poisonX (store * 2 ^ 40 + word) ≠ 1) ∧
    (∃ (addr : Nat) (read : Bool) (s : Machine.State), (read = true ∨ Machine.rb s .HUB_SCRUB_CTRL 1 = true) ∧ addr < 0x1800000000) ∧
    (∃ (addr : Nat) (read : Bool) (s : Machine.State), (read = true ∨ Machine.rb s .HUB_SCRUB_CTRL 1 = true) ∧ addr < 0x1800000000 ∧
      poisoned s addr = false) ∧
    (∃ (tl : Nat) (x : Shadow) (s : Machine.State),
      canonDigest x.fp4 x.rows x.cols (rdBytes s x.addr 0x80000) = (wearOf s tl).digest ∧ Machine.rb s .HUB_SCRUB_CTRL 2 = true ∧
      shadowOf s tl = some x ∧ tlValid s (tl / 4) (tl % 4) = true ∧ x.state = 0 ∧ anyPoison s x.addr 0x80000 = false) ∧
    (∃ (tl : Nat) (x : Shadow) (s : Machine.State), Machine.rb s .HUB_SCRUB_CTRL 2 = true ∧ shadowOf s tl = some x ∧
      tlValid s (tl / 4) (tl % 4) = true ∧ x.state = 0 ∧
      (anyPoison s x.addr 0x80000 = true ∨ ¬ (canonDigest x.fp4 x.rows x.cols (rdBytes s x.addr 0x80000) = (wearOf s tl).digest))) :=
  ⟨⟨0, 0x4000000008, false, wr .HUB_SCRUB_CTRL 0 7 up, by decide +kernel⟩,
   ⟨0, 0x4000000008, false, wr .HUB_SCRUB_CTRL 0 7 up, by decide +kernel⟩,
   ⟨2, 0x4200000000, false, wr .HUB_SCRUB_CTRL 0 7 up, by decide +kernel⟩,
   ⟨7, 0x4000000008, false, wr .HUB_SCRUB_CTRL 0 7 up, by decide +kernel⟩,
   ⟨0, false, wr .HUB_SCRUB_CTRL 0 7 up, by decide +kernel⟩,
   ⟨0, false, wr .HUB_SCRUB_CTRL 0 7 up, by decide +kernel⟩,
   ⟨0, {}, audited (canonDigest false 1024 1024 (rdBytes up 0 0x80000)), (by rfl), by decide +kernel⟩,
   ⟨0, {}, { audited 0 with poison := [(1024, 1)] }, by decide +kernel⟩⟩

theorem test_wit_RestoreCommand :
    (∃ (h : Nat) (c : Cmd) (im : Nat) (s : Machine.State), startsAs s h 0x04 c ∧ c.u 0x20 1 = 0 ∧ c.im = some im ∧ c.info = 0 ∧
      badTls s c.ctx = [] ∧ lostTables s c.ctx = []) ∧
    (∃ (h : Nat) (c : Cmd) (im : Nat) (s : Machine.State), startsAs s h 0x04 c ∧ c.u 0x20 1 = 0 ∧ c.im = some im ∧ c.info = 0 ∧
      (badTls s c.ctx ≠ [] ∨ lostTables s c.ctx ≠ [])) ∧
    (∃ (h : Nat) (tl : Nat) (c : Cmd) (i : Image) (p : PlaceE) (x : Shadow) (pl : List Nat) (s : Machine.State),
      (badTls s c.ctx).find? (fun e => e.1 == tl) = some (tl, i, p) ∧ digestBad (recOf i p) (placeFp4 i p) pl = false ∧
      cmdOf s h = some c ∧ c.op = 0x04 ∧ c.u 0x20 1 ≠ 1 ∧ tl ∈ c.words ∧ tl < 2 ^ 16 ∧ shadowOf s tl = some x ∧
      hubDown s x.addr 0x80000 = none ∧ (∃ k ∈ c.words, k ≠ tl)) :=
  ⟨⟨3, cmdR, 0, { withImg imgA with cmds := [(3, cmdR)] }, (by unfold startsAs; decide), by decide +kernel⟩,
   ⟨3, cmdR, 0, { withImg imgA with cmds := [(3, cmdR)], shadow := [(0, { state := 1 })] }, (by unfold startsAs; decide),
     by decide +kernel⟩,
   ⟨3, 0, { cmdR with run := true, words := [0, 1] }, imgW, {}, { state := 1 }, [],
     { withImg imgW with cmds := [(3, { cmdR with run := true, words := [0, 1] })], shadow := [(0, { state := 1 })] }, (by rfl),
     (by simp [digestBad, payloadLen, imgW, recOf, placeFp4, imgWd, payloadCodes, imgA]; rfl), by decide +kernel⟩⟩

theorem test_wit_AttentionArrivals :
    (∃ (addr : Nat) (off : Nat) (fmt : Nat) (vals : List Nat) (x : Bind) (s : Machine.State), undebugged s = true ∧
      bindOf s (bitsOf addr 11 0) = some x ∧
      queryBad x (kvOf s (seqOf s x.seq).im) (bitsOf addr 17 12) (bitsOf addr 18 18) off fmt vals = false ∧
      (∀ b ∈ (kvLayer (kvOf s (seqOf s x.seq).im) (bitsOf addr 17 12)).stripe, unitUp s 4 b = true) ∧
      Machine.rb s .KVM_CTRL 0 = false ∧ ((bitsOf addr 18 18) = 1 → 0xFF ∉ vals) ∧ s.rounds = []) ∧
    (∃ (addr : Nat) (n : Nat) (a : Nat) (vals : List Nat) (x : Bind) (s : Machine.State), undebugged s = true ∧
      bindOf s (bitsOf addr 11 0) = some x ∧
      appendBad s x (kvOf s (seqOf s x.seq).im) (bitsOf addr 17 12) (n * (kvOf s (seqOf s x.seq).im).w) vals = false ∧
      vals.length = (kvOf s (seqOf s x.seq).im).w ∧ 0 < (kvOf s (seqOf s x.seq).im).w ∧
      entryOf s x (kvOf s (seqOf s x.seq).im) (bitsOf addr 17 12) (n / (2 * (kvOf s (seqOf s x.seq).im).hkv)) = some a ∧
      anyPoison s a (2 * (kvOf s (seqOf s x.seq).im).hkv * ((kvOf s (seqOf s x.seq).im).w + 1)) = false ∧
      (bsclGroup .e4m3 448 (vals.map (decode .fp32))).1 ≠ 0xFF) ∧
    (∃ (bay : Nat) (bind : Nat) (layer : Nat) (unit : Nat) (rank : Nat) (x : Bind) (s : Machine.State), undebugged s = true ∧
      bindOf s bind = some x ∧ (tget {} x.units (unitKey layer unit)).codes ≠ [] ∧
      (tget {} x.units (unitKey layer unit)).scale ≠ 0 ∧
      (kvLayer ((imgOf s (seqOf s x.seq).im).kv) layer).stripe.findIdx (· == bay) = rank ∧
      rank < (kvLayer ((imgOf s (seqOf s x.seq).im).kv) layer).stripe.length ∧
      rank ∉ (tget {} x.units (unitKey layer unit)).scored ∧ flushPending (seqOf s x.seq) layer = false ∧ unitWorks s 4 bay = true ∧
      wayClosed s (bay / 6) (.scratch (tget {} x.units (unitKey layer unit)).cl) = false ∧
      (∀ p ∈ (visiblePages s (imgOf s (seqOf s x.seq).im) x layer bay (unit / ((imgOf s (seqOf s x.seq).im).kv).hq)), (descOf s p.1).st ≠ 4) ∧
      (let im := imgOf s (seqOf s x.seq).im; let kv := im.kv; let pages := visiblePages s im x layer bay (unit / kv.hq);
      let slips := visibleSlips s im x layer bay (unit / kv.hq); let reads := (pages.flatMap (·.2) ++ slips).map (locRange kv);
      (∀ r ∈ reads, anyPoison s r.1 r.2 = false ∧ dieDown s (bay / 6) r.1 r.2 = false))) :=
  ⟨⟨0, 0, 3, [1, 2, 3, 4], bindA, wr .KVM_CTRL 0 0 kvUp, by decide +kernel⟩,
   ⟨0, 0, 0x1000, [0x3F800000, 0, 0, 0x40000000], bindA, kvUp, by decide +kernel⟩,
   ⟨0, 0, 0, 0, 0, { bindA with units := [(0, { codes := [1, 2, 3, 4], scale := 128 })] },
     { kvUp with binds := [(0, { bindA with units := [(0, { codes := [1, 2, 3, 4], scale := 128 })] })] }, by decide +kernel⟩⟩

theorem test_wit_PageEvents :
    (∃ (bay : Nat) (seq : Nat) (layer : Nat) (page : Nat) (c : Nat) (f : Nat × Nat × Nat) (s : Machine.State), undebugged s = true ∧
      (seqOf s seq).toFlush.find? (fun f => f.1 == layer && f.2.1 == page) = some f ∧
      bayOfPage (imgOf s (seqOf s seq).im) layer page = bay ∧ unitUp s 4 bay = true ∧ pageMoving s seq layer page = false ∧
      flushPoison s seq layer page (pageCount s seq layer page) 64 = false ∧ flushFrame s seq layer page f.2.2 = some c) ∧
    (∃ (seq : Nat) (layer : Nat) (page : Nat) (f : Nat × Nat × Nat) (s : Machine.State),
      (seqOf s seq).flushing.find? (fun f => f.1 == layer && f.2.1 == page) = some f ∧
      (∀ g ∈ s.gens, g.2.pfx = none ∨ g.2.seq ≠ seq)) ∧
    (∃ (addr : Nat) (reader : Nat) (s : Machine.State), (addr, reader) ∈ s.pins) ∧
    (∃ (desc : Nat) (a : Nat) (tier : Nat) (pf : Bool) (e : Nat × Seq) (s : Machine.State),
      (descOf s desc).dest = some (a, tier, pf) ∧ s.seqs.find? (fun e => e.2.pages.any fun p => p.2.desc == desc) = some e ∧
      (∀ g ∈ s.gens, g.2.pfx = none ∨ g.2.input ≠ [])) ∧
    (∃ (desc : Nat) (a : Nat) (tier : Nat) (pf : Bool) (e : Nat × Seq) (s : Machine.State),
      (descOf s desc).dest = some (a, tier, pf) ∧ s.seqs.find? (fun e => e.2.pages.any fun p => p.2.desc == desc) = some e ∧
      (∀ g ∈ s.gens, g.2.pfx = none ∨ g.2.input ≠ []) ∧ anyPoison s (descOf s desc).addr ((kvOf s e.2.im).pageBytes) = false ∧
      anyPoison s a ((kvOf s e.2.im).pageBytes) = false) :=
  ⟨⟨0, 0, 0, 0, 0, (0, 0, 0), kvPage [(0, 0, 0)] [], by decide +kernel⟩,
   ⟨0, 0, 0, (0, 0, 0), kvPage [] [(0, 0, 0)], by decide +kernel⟩,
   ⟨0x100, 0x40, { up with pins := [(0x100, 0x40)] }, by decide +kernel⟩,
   ⟨5, 0x4000, 1, false, (0, seqP [] []),
     { kvPage [] [] with descs := [(5, { addr := 0x2000, st := 2, ref := 1, dest := some (0x4000, 1, false) })], mem := [(0x2000, 7)] },
     by decide +kernel⟩,
   ⟨5, 0x4000, 1, false, (0, seqP [] []),
     { kvPage [] [] with descs := [(5, { addr := 0x2000, st := 2, ref := 1, dest := some (0x4000, 1, false) })], mem := [(0x2000, 7)] },
     by decide +kernel⟩⟩

theorem test_wit_ScalarInstructions :
    (∃ (cl : Nat) (n : Nat) (s : Machine.State), undebugged s = true ∧ canFire s 0x64 cl n = true ∧
      tget 0 s.poisonX (insWord cl (vctxOf s cl n).pc) ≠ 1) ∧
    (∃ (cl : Nat) (n : Nat) (s : Machine.State), undebugged s = true ∧ (vctxOf s cl n).state = 3 ∧ tget [] s.vheld cl = [] ∧
      (vctxOf s cl n).next < (vctxOf s cl n).base + (vctxOf s cl n).len) ∧
    (∃ (cl : Nat) (n : Nat) (s : Machine.State), undebugged s = true ∧ (vctxOf s cl n).state = 3 ∧ tget [] s.vheld cl = [] ∧
      (vctxOf s cl n).base + (vctxOf s cl n).len ≤ (vctxOf s cl n).next ∧ cl < 384) :=
  ⟨⟨0, 0, vecUp (insW 0x64 0 0 0 0 0 0 0) [], by decide +kernel⟩,
   ⟨0, 0, { up with vctx := [(0, { state := 3, len := 2, next := 1 })] }, by decide +kernel⟩,
   ⟨0, 0, { up with vctx := [(0, { state := 3, len := 1, next := 1 })] }, by decide +kernel⟩⟩

theorem test_wit_VectorTransfers :
    (∃ (cl : Nat) (a : VArr) (s : Machine.State), (∀ e r g f, a.src ≠ .fetch e r g f) ∧ undebugged s = true ∧ unitUp s 3 cl = true ∧
      badArrival s cl a = false ∧ holds s cl a = false ∧
      (∀ k, k < a.vals.length → tget 0 (slotOf s cl ((vctxOf s cl a.ctx).slotBase + a.slot)).written (a.off + k) = 0) ∧
      elemsRefused s (slotFmt (slotOf s cl ((vctxOf s cl a.ctx).slotBase + a.slot))) (slotAddr cl (slotOf s cl ((vctxOf s cl a.ctx).slotBase + a.slot))) a.off a.vals.length = false) ∧
    (∃ (cl : Nat) (a : VArr) (s : Machine.State), (∀ e r g f, a.src ≠ .fetch e r g f) ∧ undebugged s = true ∧ unitUp s 3 cl = true ∧
      badArrival s cl a = false ∧ holds s cl a = true ∧ (tget [] s.vheld cl).length < 64) ∧
    (∃ (cl : Nat) (a : VArr) (s : Machine.State), (∀ e r g f, a.src ≠ .fetch e r g f) ∧ undebugged s = true ∧ unitUp s 3 cl = true ∧
      badArrival s cl a = true ∧ cl < 384) ∧
    (∃ (cl : Nat) (n : Nat) (rq : Nat) (gen : Nat) (fgen : Nat) (f : VReq) (s : Machine.State), undebugged s = true ∧
      tagOk s 3 cl (reqSlot n rq) gen fgen = true ∧ fetchOf s cl n rq = some f ∧
      dieDown s (cl / 48) f.addr (elemBytes (slotFmt (slotOf s cl (poolIdx (vctxOf s cl n) f.slot))) (slotOf s cl (poolIdx (vctxOf s cl n) f.slot)).len) = false ∧
      anyPoison s f.addr (elemBytes (slotFmt (slotOf s cl (poolIdx (vctxOf s cl n) f.slot))) (slotOf s cl (poolIdx (vctxOf s cl n) f.slot)).len) = false ∧
      badArrival s cl (fetched s cl n f) = false ∧ holds s cl (fetched s cl n f) = false ∧
      (slotOf s cl (poolIdx (vctxOf s cl n) f.slot)).written = [] ∧
      elemsRefused s (slotFmt (slotOf s cl (poolIdx (vctxOf s cl n) f.slot))) (slotAddr cl (slotOf s cl (poolIdx (vctxOf s cl n) f.slot))) 0 (slotOf s cl (poolIdx (vctxOf s cl n) f.slot)).len = false) ∧
    (∃ (cl : Nat) (n : Nat) (s : Machine.State), undebugged s = true ∧ tget [] s.vheld cl = [] ∧
      tget 0 s.poisonX (insWord cl (vctxOf s cl n).pc) ≠ 1 ∧ canFire s 0x40 cl n = true ∧
      slotDescBad s cl (poolIdx (vctxOf s cl n) (insAt s cl n).d) = false ∧
      slotFmt (slotOf s cl (poolIdx (vctxOf s cl n) (insAt s cl n).d)) ≠ .e8m0 ∧
      judge s (.inPt (ptOfCl s cl)) (xAddr (vctxOf s cl n) (insAt s cl n)) (elemBytes (slotFmt (slotOf s cl (poolIdx (vctxOf s cl n) (insAt s cl n).d))) (slotOf s cl (poolIdx (vctxOf s cl n) (insAt s cl n).d)).len) = none) ∧
    (∃ (cl : Nat) (n : Nat) (s : Machine.State), undebugged s = true ∧ tget [] s.vheld cl = [] ∧
      tget 0 s.poisonX (insWord cl (vctxOf s cl n).pc) ≠ 1 ∧ canFire s 0x41 cl n = true ∧
      slotPoisoned s cl (vctxOf s cl n) (insAt s cl n).a = false ∧
      slotFmt (slotOf s cl (poolIdx (vctxOf s cl n) (insAt s cl n).a)) ≠ .e8m0 ∧ (let c := vctxOf s cl n; let i := insAt s cl n;
      let x := slotOf s cl (poolIdx c i.a); let at_ := xAddr c i; let bytes := packElems (slotFmt x) (readSlot s cl x);
      judge s (.inPt (ptOfCl s cl)) at_ bytes.length = none) ∧
      firstDown s (xAddr (vctxOf s cl n) (insAt s cl n)) (packElems (slotFmt (slotOf s cl (poolIdx (vctxOf s cl n) (insAt s cl n).a))) (readSlot s cl (slotOf s cl (poolIdx (vctxOf s cl n) (insAt s cl n).a)))).length = none ∧
      wayClosed s (cl / 48) (placeOf (xAddr (vctxOf s cl n) (insAt s cl n))) = false ∧
      xchCtx s (ptOfCl s cl) (xAddr (vctxOf s cl n) (insAt s cl n)) = none ∧
      anyPoison s (xAddr (vctxOf s cl n) (insAt s cl n)) (packElems (slotFmt (slotOf s cl (poolIdx (vctxOf s cl n) (insAt s cl n).a))) (readSlot s cl (slotOf s cl (poolIdx (vctxOf s cl n) (insAt s cl n).a)))).length = false ∧
      (∀ e ∈ s.jobs, e.2.wantFence = false)) ∧
    (∃ (cl : Nat) (n : Nat) (s : Machine.State) (multi : Bool), undebugged s = true ∧ tget [] s.vheld cl = [] ∧
      tget 0 s.poisonX (insWord cl (vctxOf s cl n).pc) ≠ 1 ∧ canFire s (if multi then 0x43 else 0x42) cl n = true ∧
      slotPoisoned s cl (vctxOf s cl n) (insAt s cl n).a = false ∧
      (multi = true → slotPoisoned s cl (vctxOf s cl n) (insAt s cl n).c = false ∧
      (opndOf s cl (vctxOf s cl n) (insAt s cl n).c).fmt = .int32) ∧
      (if multi then (opndOf s cl (vctxOf s cl n) (insAt s cl n).c).vals.take 8 else [xreg (vctxOf s cl n) (insAt s cl n).xa]).all (destOk s cl) = true ∧
      (let c := vctxOf s cl n; let i := insAt s cl n; let x := slotOf s cl (poolIdx c i.a);
      let w := if multi then (opndOf s cl c i.c).vals.take 8 else [xreg c i.xa]; (∀ v ∈ w, let a := bitsOf v 31 13 * 8;
      let b := a + xreg c i.xb * (slotFmt x).width / 8;
      copyStatus s cl v b (a + ((xreg c i.xb + x.len) * (slotFmt x).width + 7) / 8 - b) = 0))) ∧
    (∃ (cl : Nat) (n : Nat) (s : Machine.State) (multi : Bool), undebugged s = true ∧ tget [] s.vheld cl = [] ∧
      tget 0 s.poisonX (insWord cl (vctxOf s cl n).pc) ≠ 1 ∧ canFire s (if multi then 0x43 else 0x42) cl n = true ∧
      slotPoisoned s cl (vctxOf s cl n) (insAt s cl n).a = false ∧
      (multi = true → slotPoisoned s cl (vctxOf s cl n) (insAt s cl n).c = false ∧
      (opndOf s cl (vctxOf s cl n) (insAt s cl n).c).fmt = .int32) ∧
      (if multi then (opndOf s cl (vctxOf s cl n) (insAt s cl n).c).vals.take 8 else [xreg (vctxOf s cl n) (insAt s cl n).xa]).all (destOk s cl) = true ∧
      (let c := vctxOf s cl n; let i := insAt s cl n; let x := slotOf s cl (poolIdx c i.a);
      let w := if multi then (opndOf s cl c i.c).vals.take 8 else [xreg c i.xa]; (∀ v ∈ w, let a := bitsOf v 31 13 * 8;
      let b := a + xreg c i.xb * (slotFmt x).width / 8;
      copyStatus s cl v b (a + ((xreg c i.xb + x.len) * (slotFmt x).width + 7) / 8 - b) = 0))) ∧
    (∃ (cl : Nat) (n : Nat) (s : Machine.State), undebugged s = true ∧ tget [] s.vheld cl = [] ∧
      tget 0 s.poisonX (insWord cl (vctxOf s cl n).pc) ≠ 1 ∧ canFire s 0x44 cl n = true ∧
      slotPoisoned s cl (vctxOf s cl n) (insAt s cl n).a = false ∧
      slotFmt (slotOf s cl (poolIdx (vctxOf s cl n) (insAt s cl n).a)) ≠ .e8m0 ∧
      xreg (vctxOf s cl n) (insAt s cl n).xb < (slotOf s cl (poolIdx (vctxOf s cl n) (insAt s cl n).a)).len) ∧
    (∃ (cl : Nat) (n : Nat) (s : Machine.State), undebugged s = true ∧ tget [] s.vheld cl = [] ∧
      tget 0 s.poisonX (insWord cl (vctxOf s cl n).pc) ≠ 1 ∧ canFire s 0x45 cl n = true ∧
      slotDescBad s cl (poolIdx (vctxOf s cl n) (insAt s cl n).d) = false ∧
      destConflict s cl (vctxOf s cl n) (insAt s cl n).d = false ∧
      slotFmt (slotOf s cl (poolIdx (vctxOf s cl n) (insAt s cl n).d)) ≠ .e8m0 ∧
      xreg (vctxOf s cl n) (insAt s cl n).xb < (slotOf s cl (poolIdx (vctxOf s cl n) (insAt s cl n).d)).len ∧
      elemsRefused s (slotFmt (slotOf s cl (poolIdx (vctxOf s cl n) (insAt s cl n).d))) (slotAddr cl (slotOf s cl (poolIdx (vctxOf s cl n) (insAt s cl n).d))) (xreg (vctxOf s cl n) (insAt s cl n).xb) 1 = false) ∧
    (∃ (cl : Nat) (n : Nat) (s : Machine.State), undebugged s = true ∧ tget [] s.vheld cl = [] ∧
      tget 0 s.poisonX (insWord cl (vctxOf s cl n).pc) ≠ 1 ∧ canFire s 0x67 cl n = true ∧
      (∃ a ∈ (imgOf s (vctxOf s cl n).im).adapters, a.index = xreg (vctxOf s cl n) (insAt s cl n).xa)) ∧
    (∃ (cl : Nat) (n : Nat) (rq : Nat) (gen : Nat) (fgen : Nat) (s : Machine.State), tagOk s 3 cl (reqSlot n rq) gen fgen = true ∧
      (sendOf s cl n rq).isSome = true) ∧
    (∃ (cl : Nat) (n : Nat) (rq : Nat) (gen : Nat) (fgen : Nat) (s : Machine.State), tagOk s 3 cl (reqSlot n rq) gen fgen = true ∧
      (sendOf s cl n rq).isSome = true ∧ cl < 384 ∧ (vctxOf s cl n).state ≠ 0) ∧
    (∃ (cl : Nat) (n : Nat) (rq : Nat) (gen : Nat) (fgen : Nat) (s : Machine.State), tagOk s 3 cl (reqSlot n rq) gen fgen = false) :=
  ⟨⟨0, { ctx := 0, slot := 2, off := 0, fmt := 7, vals := [1, 2, 3, 4], src := .acc 0 0 }, vecUp 0 [],
     (by intro e r g f h; cases h), by decide +kernel⟩,
   ⟨0, { ctx := 0, slot := 0, off := 0, fmt := 7, vals := [1, 2, 3, 4], src := .acc 0 0 }, vecUp 0 [],
     (by intro e r g f h; cases h), by decide +kernel⟩,
   ⟨0, { ctx := 0, slot := 2, off := 0, fmt := 6, vals := [1, 2, 3, 4], src := .acc 0 0 }, vecUp 0 [],
     (by intro e r g f h; cases h), by decide +kernel⟩,
   ⟨0, 0, 30, 4, 1, { rq := 30, pc := 7, slot := 2, addr := 0x2000 },
     { up with vctx := [(0, { state := 1, len := 1, slotCount := 16, fetches := [{ rq := 30, pc := 7, slot := 2, addr := 0x2000 }] })], vslots := [(2, { addr := 4, len := 4, fmt := 7 })], units := [(ukey 3 0, { slots := [(30, { gen := 4, busy := true, fgen := 1 })] })] },
     by decide +kernel⟩,
   ⟨0, 0, vecUp (insW 0x40 2 0 0 0 1 0 0) [(1, 0x2000)], by decide +kernel⟩,
   ⟨0, 0, vecUp (insW 0x41 0 0 0 0 1 0 0) [(1, 0x2000)], by decide +kernel⟩,
   ⟨0, 0, vecUp (insW 0x42 2 0 0 0 1 0 0) [(1, 0x2001)], false, by decide +kernel⟩,
   ⟨0, 0,
     { vecUp (insW 0x43 0 0 0 3 1 0 0) [] with mem := [(0x4000000030, 1), (0x4000000031, 0x20), (0x4000000034, 1), (0x4000000035, 0x20), (0x4000000038, 1), (0x4000000039, 0x20), (0x400000003C, 1), (0x400000003D, 0x20)] },
     true, by decide +kernel⟩,
   ⟨0, 0, vecUp (insW 0x44 5 0 0 0 1 2 0) [(2, 1)], by decide +kernel⟩,
   ⟨0, 0, vecUp (insW 0x45 2 0 0 0 1 2 0) [(1, 7), (2, 3)], by decide +kernel⟩,
   ⟨0, 0, { vecUp (insW 0x67 2 0 0 0 1 2 0) [] with images := [(0, imgD)] }, by decide +kernel⟩,
   ⟨0, 0, 2, 4, 1,
     { up with vctx := [(0, { state := 3, len := 1, sends := [{ rq := 2 }] })], units := [(ukey 3 0, { slots := [(2, { gen := 4, busy := true, fgen := 1 })] })] },
     by decide +kernel⟩,
   ⟨0, 0, 2, 4, 1,
     { up with vctx := [(0, { state := 3, len := 1, sends := [{ rq := 2 }] })], units := [(ukey 3 0, { slots := [(2, { gen := 4, busy := true, fgen := 1 })] })] },
     by decide +kernel⟩,
   ⟨0, 0, 2, 4, 2,
     { up with vctx := [(0, { state := 3, len := 1, sends := [{ rq := 2 }] })], units := [(ukey 3 0, { slots := [(2, { gen := 4, busy := true, fgen := 1 })] })] },
     by decide +kernel⟩⟩

theorem test_wit_ProgrammingEvents :
    (∃ (tile : Nat) (layer : Nat) (o : ProgOp) (s : Machine.State), layer < 4 ∧ progOf s (tlKey tile layer) = some o ∧ o.st = 0 ∧
      firstWaiting s (tlKey tile layer) o.order = true ∧ (∀ e ∈ s.progs, e.1 / 4 = tile → e.2.st = 0) ∧
      progsIn s (tile / 1536) < rf s .CAL_PROG 8 0 ∧ (o.kind = 1 → refreshFull s (bayOfTile tile) = false) ∧
      pageReady s (tlKey tile layer) o.kind = true ∧ refOk s = true ∧ fenced s 0 tile = false ∧ inReset s 0 tile = false ∧
      anaOn s (tile / 1536) = true ∧ opStopped s o = false) ∧
    (∃ (tile : Nat) (layer : Nat) (vprog : Nat) (gs : List ℚ) (o : ProgOp) (s : Machine.State) (x : Shadow), layer < 4 ∧
      progOf s (tlKey tile layer) = some o ∧ o.st = 1 ∧ gs.length = 2048 ∧ opStopped s o = false ∧
      rowStartable s tile layer = true ∧ (tileOf s tile).token = false ∧ (tileOf s tile).held = [] ∧ tokenFor s tile = true ∧
      o.kind ≠ 2 ∧ 2375 ≤ vprog ∧ vprog ≤ 2625 ∧ shadowOf s o.src = some x ∧ anyPoison s (x.addr + o.row * 512) 512 = false ∧
      (o.kind = 0 ∨ x.state = 0) ∧ o.failing = []) ∧
    (∃ (tile : Nat) (layer : Nat) (vprog : Nat) (gs : List ℚ) (o : ProgOp) (s : Machine.State) (x : Shadow), layer < 4 ∧
      progOf s (tlKey tile layer) = some o ∧ o.st = 1 ∧ gs.length = 2048 ∧ opStopped s o = false ∧
      rowStartable s tile layer = true ∧ (tileOf s tile).token = false ∧ (tileOf s tile).held = [] ∧ tokenFor s tile = true ∧
      o.kind ≠ 2 ∧ 2375 ≤ vprog ∧ vprog ≤ 2625 ∧ shadowOf s o.src = some x ∧ anyPoison s (x.addr + o.row * 512) 512 = false ∧
      (o.kind = 0 ∨ x.state = 0) ∧ o.failing ≠ []) ∧
    (∃ (tile : Nat) (layer : Nat) (gs : List ℚ) (o : ProgOp) (s : Machine.State), layer < 4 ∧ progOf s (tlKey tile layer) = some o ∧
      o.st = 1 ∧ gs.length = 2048 ∧ opStopped s o = false ∧ rowStartable s tile layer = true ∧ (tileOf s tile).token = false ∧
      (tileOf s tile).held = [] ∧ tokenFor s tile = true ∧ o.kind = 2) ∧
    (∃ (tile : Nat) (layer : Nat) (vprog : Nat) (gs : List ℚ) (o : ProgOp) (s : Machine.State), layer < 4 ∧
      progOf s (tlKey tile layer) = some o ∧ o.st = 1 ∧ gs.length = 2048 ∧ opStopped s o = false ∧
      rowStartable s tile layer = true ∧ (tileOf s tile).token = false ∧ (tileOf s tile).held = [] ∧ tokenFor s tile = true ∧
      (vprog < 2375 ∨ 2625 < vprog) ∧ o.kind = 1 ∧ (tileOf s tile).aside = []) ∧
    (∃ (tile : Nat) (layer : Nat) (gs : List ℚ) (o : ProgOp) (r : PassRun) (s : Machine.State), layer < 4 ∧
      progOf s (tlKey tile layer) = some o ∧ o.st = 1 ∧ o.stop = false ∧ opStopped s o = false ∧ gs.length = 2048 ∧
      (tileOf s tile).running = some r ∧ r.req.kind = 2 ∧ r.req.layer = layer ∧ r.req.vec = o.order ∧
      (tileOf s tile).pending = none ∧ (tileOf s tile).held = [] ∧ (tileOf s tile).token = true ∧ fenced s 0 tile = false ∧
      inReset s 0 tile = false ∧ o.kind ≠ 2 ∧ o.failing = [] ∧
      (fun (w : ℚ) => (List.range 2048).filter fun c => decide (w < |gs.getD c 0 - 2 - targetOf s ((tlKey tile layer) / 1024) (((shadowOf s o.src).getD {}).fp4) (tget 0 s.cells ((tlKey tile layer) * 2 ^ 21 + o.row * 2 ^ 11 + c))|)) (15 / 100) ≠ []) ∧
    (∃ (tile : Nat) (layer : Nat) (gs : List ℚ) (o : ProgOp) (r : PassRun) (s : Machine.State),
      (o.failing = [] → (fun (w : ℚ) => (List.range 2048).filter fun c => decide (w < |gs.getD c 0 - 2 - targetOf s ((tlKey tile layer) / 1024) (((shadowOf s o.src).getD {}).fp4) (tget 0 s.cells ((tlKey tile layer) * 2 ^ 21 + o.row * 2 ^ 11 + c))|)) (15 / 100) = []) ∧
      (fun (w : ℚ) => (List.range 2048).filter fun c => decide (w < |gs.getD c 0 - 2 - targetOf s ((tlKey tile layer) / 1024) (((shadowOf s o.src).getD {}).fp4) (tget 0 s.cells ((tlKey tile layer) * 2 ^ 21 + o.row * 2 ^ 11 + c))|)) (1 / 5) = [] ∧
      layer < 4 ∧ progOf s (tlKey tile layer) = some o ∧ o.st = 1 ∧ o.stop = false ∧ opStopped s o = false ∧ gs.length = 2048 ∧
      (tileOf s tile).running = some r ∧ r.req.kind = 2 ∧ r.req.layer = layer ∧ r.req.vec = o.order ∧
      (tileOf s tile).pending = none ∧ (tileOf s tile).held = [] ∧ (tileOf s tile).token = true ∧ fenced s 0 tile = false ∧
      inReset s 0 tile = false ∧ o.kind ≠ 2 ∧ o.row < 1023) ∧
    (∃ (tile : Nat) (layer : Nat) (gs : List ℚ) (o : ProgOp) (r : PassRun) (s : Machine.State),
      (o.failing = [] → (fun (w : ℚ) => (List.range 2048).filter fun c => decide (w < |gs.getD c 0 - 2 - targetOf s ((tlKey tile layer) / 1024) (((shadowOf s o.src).getD {}).fp4) (tget 0 s.cells ((tlKey tile layer) * 2 ^ 21 + o.row * 2 ^ 11 + c))|)) (15 / 100) = []) ∧
      (fun (w : ℚ) => (List.range 2048).filter fun c => decide (w < |gs.getD c 0 - 2 - targetOf s ((tlKey tile layer) / 1024) (((shadowOf s o.src).getD {}).fp4) (tget 0 s.cells ((tlKey tile layer) * 2 ^ 21 + o.row * 2 ^ 11 + c))|)) (1 / 5) = [] ∧
      layer < 4 ∧ progOf s (tlKey tile layer) = some o ∧ o.st = 1 ∧ o.stop = false ∧ opStopped s o = false ∧ gs.length = 2048 ∧
      (tileOf s tile).running = some r ∧ r.req.kind = 2 ∧ r.req.layer = layer ∧ r.req.vec = o.order ∧
      (tileOf s tile).pending = none ∧ (tileOf s tile).held = [] ∧ (tileOf s tile).token = true ∧ fenced s 0 tile = false ∧
      inReset s 0 tile = false ∧ o.kind ≠ 2 ∧ o.row = 1023 ∧ (o.kind = 1 ∨ o.kind = 3)) ∧
    (∃ (tile : Nat) (layer : Nat) (gs : List ℚ) (o : ProgOp) (r : PassRun) (s : Machine.State), layer < 4 ∧
      progOf s (tlKey tile layer) = some o ∧ o.st = 1 ∧ o.stop = false ∧ opStopped s o = false ∧ gs.length = 2048 ∧
      (tileOf s tile).running = some r ∧ r.req.kind = 2 ∧ r.req.layer = layer ∧ r.req.vec = o.order ∧
      (tileOf s tile).pending = none ∧ (tileOf s tile).held = [] ∧ (tileOf s tile).token = true ∧ fenced s 0 tile = false ∧
      inReset s 0 tile = false ∧ o.kind = 1 ∧ o.failing ≠ [] ∧
      (fun (w : ℚ) => (List.range 2048).filter fun c => decide (w < |gs.getD c 0 - 2 - targetOf s ((tlKey tile layer) / 1024) (((shadowOf s o.src).getD {}).fp4) (tget 0 s.cells ((tlKey tile layer) * 2 ^ 21 + o.row * 2 ^ 11 + c))|)) (1 / 5) ≠ [] ∧
      (tileOf s tile).aside = []) ∧
    (∃ (tile : Nat) (layer : Nat) (gs : List ℚ) (o : ProgOp) (r : PassRun) (s : Machine.State), layer < 4 ∧
      progOf s (tlKey tile layer) = some o ∧ o.st = 1 ∧ o.stop = false ∧ opStopped s o = false ∧ gs.length = 2048 ∧
      (tileOf s tile).running = some r ∧ r.req.kind = 2 ∧ r.req.layer = layer ∧ r.req.vec = o.order ∧
      (tileOf s tile).pending = none ∧ (tileOf s tile).held = [] ∧ (tileOf s tile).token = true ∧ fenced s 0 tile = false ∧
      inReset s 0 tile = false ∧ o.kind = 2 ∧ o.row < 1023) ∧
    (∃ (tile : Nat) (layer : Nat) (scale : ℚ) (o : ProgOp) (l : Load) (p : PlaceE) (x : Shadow) (s : Machine.State),
      pairsNear (placeFp4 (imgOf s l.im) p) o scale = true ∧
      canonDigest (placeFp4 (imgOf s l.im) p) (recOf (imgOf s l.im) p).rows (recOf (imgOf s l.im) p).cols (rebuiltCodes (placeFp4 (imgOf s l.im) p) o scale) = (recOf (imgOf s l.im) p).digest ∧
      progOf s (tlKey tile layer) = some o ∧ o.kind = 2 ∧ o.st = 1 ∧ o.reads.length = 1024 ∧ 0 < scale ∧ opStopped s o = false ∧
      loadOf s o.ctx = some l ∧ (imgOf s l.im).places.find? (fun p => tlKey p.tile p.layer == (tlKey tile layer)) = some p ∧
      shadowOf s (tlKey tile layer) = some x) ∧
    (∃ (tile : Nat) (layer : Nat) (o : ProgOp) (s : Machine.State), tile < 12288 ∧ layer < 4 ∧
      progOf s (tlKey tile layer) = some o ∧ o.st = 2 ∧ fenced s 0 tile = false ∧ (tileOf s tile).aside = [] ∧
      (tileOf s tile).held = [] ∧ measurable s (tlKey tile layer) (cfgOf s (tlKey tile layer)) = true ∧
      groupsDone s (tlKey tile layer) (cfgOf s (tlKey tile layer)) = true ∧ o.kind = 1) ∧
    (∃ (tile : Nat) (layer : Nat) (o : ProgOp) (s : Machine.State) (l : Load) (p : PlaceE), tile < 12288 ∧ layer < 4 ∧
      progOf s (tlKey tile layer) = some o ∧ o.st = 2 ∧ fenced s 0 tile = false ∧ (tileOf s tile).aside = [] ∧
      (tileOf s tile).held = [] ∧ measurable s (tlKey tile layer) (cfgOf s (tlKey tile layer)) = true ∧
      groupsDone s (tlKey tile layer) (cfgOf s (tlKey tile layer)) = true ∧ o.kind = 0 ∧ loadOf s o.ctx = some l ∧
      (imgOf s l.im).places.find? (fun p => tlKey p.tile p.layer == tlKey tile layer) = some p ∧
      (∃ k ∈ imgTls (imgOf s l.im), k ≠ tlKey tile layer ∧ tget 0 l.todo k ≠ 4)) :=
  ⟨⟨0, 0, { kind := 1 }, progUp { kind := 1 }, by decide +kernel⟩,
   ⟨0, 0, 2375, List.replicate 2048 0, { kind := 1, st := 1, row := 5 }, progAsk { kind := 1, st := 1, row := 5 }, {},
     by decide +kernel⟩,
   ⟨0, 0, 2625, List.replicate 2048 0, { kind := 1, st := 1, row := 5, failing := [7] },
     progAsk { kind := 1, st := 1, row := 5, failing := [7] }, {}, by decide +kernel⟩,
   ⟨0, 0, List.replicate 2048 0, { kind := 2, st := 1, row := 5 }, progAsk { kind := 2, st := 1, row := 5 }, by decide +kernel⟩,
   ⟨0, 0, 2626, List.replicate 2048 0, { kind := 1, st := 1, row := 5 }, progAsk { kind := 1, st := 1, row := 5 },
     by decide +kernel⟩,
   ⟨0, 0, List.replicate 2048 (54 / 25), { kind := 1, st := 1, row := 5 }, { req := { kind := 2, layer := 0, row := 5 } },
     progRun { kind := 1, st := 1, row := 5 }, by decide +kernel⟩,
   ⟨0, 0, List.replicate 2048 2, { kind := 1, st := 1, row := 5 }, { req := { kind := 2, layer := 0, row := 5 } },
     progRun { kind := 1, st := 1, row := 5 }, (fun _ => dev_nil rfl _ _ _ (by norm_num)), (dev_nil rfl _ _ _ (by norm_num)),
     by decide +kernel⟩,
   ⟨0, 0, List.replicate 2048 2, { kind := 1, st := 1, row := 1023 }, { req := { kind := 2, layer := 0, row := 1023 } },
     progRun { kind := 1, st := 1, row := 1023 }, (fun _ => dev_nil rfl _ _ _ (by norm_num)), (dev_nil rfl _ _ _ (by norm_num)),
     by decide +kernel⟩,
   ⟨0, 0, List.replicate 2048 3, { kind := 1, st := 1, row := 5, failing := [7] }, { req := { kind := 2, layer := 0, row := 5 } },
     progRun { kind := 1, st := 1, row := 5, failing := [7] }, by decide +kernel⟩,
   ⟨0, 0, List.replicate 2048 3, { kind := 2, st := 1, row := 5 }, { req := { kind := 2, layer := 0, row := 5 } },
     progRun { kind := 2, st := 1, row := 5 }, by decide +kernel⟩,
   ⟨0, 0, 1, opB, { im := 0, todo := [(0, 1)] }, {}, {}, backUp, opB_near, (by rfl), by decide +kernel⟩,
   ⟨0, 0, { kind := 1, st := 2 }, { progUp { kind := 1, st := 2 } with probes := groupProbes }, by decide +kernel⟩,
   ⟨0, 0, { kind := 0, st := 2 }, { loadUp { kind := 0, st := 2 } [(0, 2)] with probes := groupProbes },
     { im := 0, todo := [(0, 2)] }, {}, by decide +kernel⟩⟩

theorem test_wit_CalibrationEvents :
    (∃ (tile : Nat) (layer : Nat) (kind : Nat) (range : Nat) (k : Nat) (neg : Nat) (key : Nat) (n : Nat) (convs : List Conv) (s : Machine.State),
      tile < 12288 ∧ probeFor s tile layer kind range k neg = some (key, n) ∧ (tget {} s.probes key).n < n ∧ convs.length = 1024 ∧
      (∀ c ∈ convs, 4 / 5 ≤ c.γ ∧ c.γ ≤ 5 / 4 ∧ -16 ≤ c.off ∧ c.off ≤ 16) ∧
      (Machine.rb s .TILE_CFG 8 tile = false → refOk s = true) ∧ (fenced s 0 tile = false ∧
      inReset s 0 tile = false ∨ selfTest s (bayOfTile tile) = true) ∧ anaOn s (tile / 1536) = true ∧
      halted s (bayOfTile tile) = false ∧ (tileOf s tile).running = none ∧ (tileOf s tile).last = none ∧
      (tileOf s tile).token = false ∧ (tileOf s tile).settled = true ∧
      ((tileOf s tile).pending ≠ none → 8 ≤ (tileOf s tile).sinceProbe) ∧ tokenFor s tile = true) ∧
    (∃ (bay : Nat) (s : Machine.State), (∃ n, n < 12288 ∧ n / 256 = bay ∧ Machine.rb s .TILE_CFG 8 n = false ∧
      bisqueDone s n = true) ∧ bay < 48 ∧ refOk s = true ∧ (bayFenced s bay = false ∨ selfTest s bay = true)) ∧
    (∃ (s : Machine.State),
      (Machine.rb s .CLK_GATE 2 && Machine.rb s .MADC_DATA 18 && !Machine.rb s .MADC_DATA 14 && !Machine.rb s .MADC_DATA 15) = false) ∧
    (∃ (refv : Nat) (refr : Nat) (ppm : List Int) (s : Machine.State),
      (Machine.rb s .CLK_GATE 2 && Machine.rb s .MADC_DATA 18 && !Machine.rb s .MADC_DATA 14 && !Machine.rb s .MADC_DATA 15) = true ∧
      1225000 ≤ refv ∧ refv ≤ 1275000 ∧ 9800000 ≤ refr ∧ refr ≤ 10200000 ∧
      (∀ bay, bay < 48 → (ppm.getD (bay / 6) 0 - (calOf s bay).mirrorAt).natAbs ≤ 200)) ∧
    (∃ (refv : Nat) (refr : Nat) (ppm : List Int) (s : Machine.State),
      (Machine.rb s .CLK_GATE 2 && Machine.rb s .MADC_DATA 18 && !Machine.rb s .MADC_DATA 14 && !Machine.rb s .MADC_DATA 15) = true ∧
      ¬ (1225000 ≤ refv ∧ refv ≤ 1275000 ∧ 9800000 ≤ refr ∧ refr ≤ 10200000) ∧
      (∀ bay, bay < 48 → (ppm.getD (bay / 6) 0 - (calOf s bay).mirrorAt).natAbs ≤ 200) ∧ refOk s = true) ∧
    (∃ (bay : Nat) (s : Machine.State), (calOf s bay).st = 1 ∧ firstInQueue s bay = true ∧
      soaksOf s (bay / 6) < rf s .CAL_SCHED 17 16 ∧ refOk s = true ∧ halted s bay = false ∧ silUp s = true ∧ refreshList s bay = []) ∧
    (∃ (bay : Nat) (s : Machine.State), bay < 48 ∧ ((calOf s bay).st = 2 ∨ (calOf s bay).st = 4) ∧ refreshing s bay = false ∧
      bayFenced s bay = false ∧ soakDone s bay = true ∧ (∀ f ∈ s.findings, f.unit / 1024 = bay → findingWants s f.unit = false) ∧
      (bayTemp s bay - (calOf s bay).startT).natAbs ≤ 64 ∧ (∀ e ∈ s.cmds, e.2.op ≠ 5)) ∧
    (∃ (bay : Nat) (s : Machine.State), bay < 48 ∧ ((calOf s bay).st = 2 ∨ (calOf s bay).st = 4) ∧ refreshing s bay = false ∧
      bayFenced s bay = false ∧ soakDone s bay = true ∧ (∀ f ∈ s.findings, f.unit / 1024 = bay → findingWants s f.unit = false) ∧
      64 < (bayTemp s bay - (calOf s bay).startT).natAbs ∧ 2 ≤ (calOf s bay).tries ∧ (∀ e ∈ s.cmds, e.2.op ≠ 5)) ∧
    (∃ (bay : Nat) (s : Machine.State), bay < 48 ∧ ((calOf s bay).st = 2 ∨ (calOf s bay).st = 4) ∧ refreshing s bay = false ∧
      bayFenced s bay = false ∧ soakDone s bay = true ∧ (∀ f ∈ s.findings, f.unit / 1024 = bay → findingWants s f.unit = false) ∧
      64 < (bayTemp s bay - (calOf s bay).startT).natAbs ∧ (calOf s bay).tries < 2) ∧
    (∃ (s : Machine.State), silUp s = true) :=
  ⟨⟨12287, 3, 1, 7, 0, 0, runKey 12287 4 (zeroCode false 7), 16,
     List.replicate 128 { γ := 5 / 4, off := -16 } ++ List.replicate 896 ({} : Conv), calUp, by decide +kernel⟩,
   ⟨0, { calUp with probes := bisqueProbes }, ⟨0, by decide +kernel⟩, by decide +kernel⟩,
   ⟨up, by decide +kernel⟩,
   ⟨1275000, 9800000, [200], wr .MADC_DATA 0 (2 ^ 18) (wr .CLK_GATE 0 4 up), by decide +kernel⟩,
   ⟨1275001, 9800000, [200], wr .MADC_DATA 0 (2 ^ 18) (wr .CLK_GATE 0 4 calUp), by decide +kernel⟩,
   ⟨0, { wr .CAL_CTRL 0 1 calUp with cal := [(0, { st := 1 })], soakQ := [0] }, by decide +kernel⟩,
   ⟨0, { calUp with cal := [(0, { st := 2 })], bayT := [(0, 64)] }, by decide +kernel⟩,
   ⟨0, { calUp with cal := [(0, { st := 2, tries := 2 })], bayT := [(0, 65)] }, by decide +kernel⟩,
   ⟨0, { calUp with cal := [(0, { st := 2, tries := 1 })], bayT := [(0, 65)] }, by decide +kernel⟩,
   ⟨up, by decide +kernel⟩⟩

theorem test_wit_QueueEvents :
    (∃ (fn : Nat) (q : Nat) (v : Nat) (s : Machine.State), fn < 32 ∧ q < 64 ∧ (queueOf s (qkOf fn q)).st ≠ 0 ∧
      v < sqDepth s (qkOf fn q)) ∧
    (∃ (fn : Nat) (q : Nat) (v : Nat) (s : Machine.State), fn < 32 ∧ q < 64 ∧ (queueOf s (qkOf fn q)).st ≠ 0 ∧
      v < rqDepth s (qkOf fn q)) ∧
    (∃ (fn : Nat) (q : Nat) (v : Nat) (s : Machine.State), fn < 32 ∧ q < 64 ∧ (queueOf s (qkOf fn q)).st ≠ 0 ∧
      sqDepth s (qkOf fn q) ≤ v) ∧
    (∃ (fn : Nat) (q : Nat) (v : Nat) (s : Machine.State), fn < 32 ∧ q < 64 ∧ (queueOf s (qkOf fn q)).st ≠ 0 ∧
      rqDepth s (qkOf fn q) ≤ v) ∧
    (∃ (fn : Nat) (q : Nat) (s : Machine.State), fn < 32 ∧ q < 64 ∧ Machine.rb s .QM_Q_CFG 0 (qkOf fn q) = false ∧
      (queueOf s (qkOf fn q)).st = 0 ∧ queueCfgOk (rd s .QM_Q_CFG (qkOf fn q)) = true) ∧
    (∃ (fn : Nat) (q : Nat) (s : Machine.State), fn < 32 ∧ q < 64 ∧ Machine.rb s .QM_Q_CFG 0 (qkOf fn q) = false ∧
      ((queueOf s (qkOf fn q)).st ≠ 0 ∨ queueCfgOk (rd s .QM_Q_CFG (qkOf fn q)) = false)) ∧
    (∃ (fn : Nat) (q : Nat) (s : Machine.State), fn < 32 ∧ q < 64 ∧
      (Machine.rb s .QM_Q_CFG 0 (qkOf fn q) = true ∨ (queueOf s (qkOf fn q)).st = 3)) ∧
    (∃ (k : Nat) (n : Nat) (s : Machine.State), nextQueue s = some (k, n) ∧ k < 2048) ∧
    (∃ (k : Nat) (n : Nat) (raw : List Byte) (s : Machine.State), nextQueue s = some (k, n) ∧ k < 2048 ∧
      (acceptStatus s (k / 64) raw).1 = 0) ∧
    (∃ (k : Nat) (n : Nat) (raw : List Byte) (s : Machine.State), nextQueue s = some (k, n) ∧ k < 2048 ∧
      (acceptStatus s (k / 64) raw).1 ≠ 0) :=
  ⟨⟨0, 1, 15, qUp { st := 1 }, by decide +kernel⟩,
   ⟨0, 1, 31, qUp { st := 1 }, by decide +kernel⟩,
   ⟨0, 1, 16, qUp { st := 1 }, by decide +kernel⟩,
   ⟨0, 1, 32, qUp { st := 1 }, by decide +kernel⟩,
   ⟨0, 1, wr .QM_Q_CFG 1 0x540 up, by decide +kernel⟩,
   ⟨0, 1, wr .QM_Q_CFG 1 0x440 up, by decide +kernel⟩,
   ⟨0, 1, qUp { st := 1 }, by decide +kernel⟩,
   ⟨1, 1, qUp { st := 1, tail := 1 }, by decide +kernel⟩,
   ⟨1, 1, (mkCmd 0 none [(0, 0x31)]).raw, qUp { st := 1, tail := 1 }, by decide +kernel⟩,
   ⟨1, 1, (mkCmd 0 none [(0, 0xFF)]).raw, qUp { st := 1, tail := 1 }, by decide +kernel⟩⟩

theorem test_wit_ContextCommands :
    (∃ (h : Nat) (c : Cmd) (s : Machine.State), startsAs s h 0x01 c ∧ loadBad c = false ∧
      (c.fn = 0 ∨ Machine.rb s .SET_VF_LOAD c.fn = true) ∧ (cxOf s c.ctx).staged = none ∧ (cxOf s c.ctx).load = none ∧
      ((c.u 0x30 1).testBit 0 = true → hubDma s c.fn (c.ctx / 32) (c.u 0x10 8) (c.u 0x18 8) = none)) ∧
    (∃ (h : Nat) (c : Cmd) (s : Machine.State), startsAs s h 0x01 c ∧ loadBad c = false ∧
      (c.fn = 0 ∨ Machine.rb s .SET_VF_LOAD c.fn = true) ∧ ((cxOf s c.ctx).staged ≠ none ∨ (cxOf s c.ctx).load ≠ none)) ∧
    (∃ (h : Nat) (im : Nat) (c : Cmd) (s : Machine.State), startsAs s h 0x02 c ∧ (cxOf s c.ctx).staged = some im) ∧
    (∃ (h : Nat) (im : Nat) (c : Cmd) (s : Machine.State), startsAs s h 0x03 c ∧ (cxOf s c.ctx).staged = some im ∧
      (cxOf s c.ctx).load = none) ∧
    (∃ (h : Nat) (c : Cmd) (s : Machine.State), startsAs s h 0x05 c ∧
      (∀ b, (c.u 0x10 8).testBit b = true → ptOfDie s (b / 6) = c.ctx / 32 ∧ anaOn s (b / 6) = true ∧ (calOf s b).st = 0) ∧
      c.u 0x10 8 < 2 ^ 48 ∧ c.u 0x18 1 < 4 ∧ c.u 0x10 8 = 0) ∧
    (∃ (h : Nat) (c : Cmd) (s : Machine.State), startsAs s h 0x05 c ∧
      (∀ b, (c.u 0x10 8).testBit b = true → ptOfDie s (b / 6) = c.ctx / 32 ∧ anaOn s (b / 6) = true ∧ (calOf s b).st = 0) ∧
      c.u 0x10 8 < 2 ^ 48 ∧ c.u 0x18 1 < 4 ∧ c.u 0x10 8 ≠ 0) ∧
    (∃ (h : Nat) (c : Cmd) (s : Machine.State), startsAs s h 0x30 c ∧ cmdOf s (c.u 0x10 4 % 4096) = none) ∧
    (∃ (h : Nat) (c : Cmd) (s : Machine.State) (d : _), startsAs s h 0x30 c ∧ c.u 0x10 4 % 4096 ≠ h ∧
      cmdOf s (c.u 0x10 4 % 4096) = some d ∧ d.gen = c.u 0x10 4 / 4096 ∧ d.fn = c.fn ∧ d.run = false) ∧
    (∃ (h : Nat) (c : Cmd) (s : Machine.State), startsAs s h 0x31 c) ∧
    (∃ (h : Nat) (c : Cmd) (s : Machine.State), cmdOf s h = some c ∧ c.run = false ∧ mayStart s c = true ∧ waitsRole s c = false ∧
      genOf s h = none ∧ heldByHalt s c = false ∧ c.fn < 32 ∧ c.q < 64) ∧
    (∃ (pt : Nat) (fn : Nat) (im : Nat) (s : Machine.State), im ∈ (cxOf s (cxKey pt fn)).retiring ∧
      (∀ e ∈ s.cmds, e.2.im ≠ some im) ∧ s.vheld = []) :=
  ⟨⟨3, mkCmd 0x01 none [(0x11, 0x10), (0x19, 0x10), (0x1A, 1), (0x21, 0x10), (0x23, 0x10), (0x29, 0x10)],
     cmdOn up (mkCmd 0x01 none [(0x11, 0x10), (0x19, 0x10), (0x1A, 1), (0x21, 0x10), (0x23, 0x10), (0x29, 0x10)]),
     (by unfold startsAs; decide), by decide +kernel⟩,
   ⟨3, mkCmd 0x01 none [(0x11, 0x10), (0x19, 0x10), (0x1A, 1), (0x21, 0x10), (0x23, 0x10), (0x29, 0x10)],
     { cmdOn up (mkCmd 0x01 none [(0x11, 0x10), (0x19, 0x10), (0x1A, 1), (0x21, 0x10), (0x23, 0x10), (0x29, 0x10)]) with ctxs := [(0, { staged := some 1 })] },
     (by unfold startsAs; decide), by decide +kernel⟩,
   ⟨3, 1, mkCmd 0x02 none [],
     { cmdOn up (mkCmd 0x02 none []) with ctxs := [(0, { active := some 0, staged := some 1 })], images := [(0, imgA), (1, imgK)] },
     (by unfold startsAs; decide), by decide +kernel⟩,
   ⟨3, 1, mkCmd 0x03 none [],
     { cmdOn up (mkCmd 0x03 none []) with ctxs := [(0, { active := some 0, staged := some 1 })], images := [(0, imgA), (1, imgK)] },
     (by unfold startsAs; decide), by decide +kernel⟩,
   ⟨3, mkCmd 0x05 none [], cmdOn up (mkCmd 0x05 none []), (by unfold startsAs; decide),
     (by intro b h; rw [show (mkCmd 0x05 none []).u 0x10 8 = 0 by decide, Nat.zero_testBit] at h; cases h), by decide +kernel⟩,
   ⟨3, mkCmd 0x05 none [(0x10, 3), (0x18, 2)], cmdOn up (mkCmd 0x05 none [(0x10, 3), (0x18, 2)]), (by unfold startsAs; decide),
     (by intro b h; have hb : b < 48 := Nat.lt_of_not_le fun hb => by { rw [Nat.testBit_lt_two_pow (Nat.lt_of_lt_of_le (by decide) (Nat.pow_le_pow_right (by decide) hb))] at h; cases h }; have := (by decide : ∀ b < 48, ((mkCmd 0x05 none [(0x10, 3), (0x18, 2)]).u 0x10 8).testBit b = true → ptOfDie (cmdOn up (mkCmd 0x05 none [(0x10, 3), (0x18, 2)])) (b / 6) = 0 / 32 ∧ anaOn (cmdOn up (mkCmd 0x05 none [(0x10, 3), (0x18, 2)])) (b / 6) = true ∧ (calOf (cmdOn up (mkCmd 0x05 none [(0x10, 3), (0x18, 2)])) b).st = 0); exact this b hb h),
     by decide +kernel⟩,
   ⟨3, mkCmd 0x30 none [], cmdOn up (mkCmd 0x30 none []), (by unfold startsAs; decide), by decide +kernel⟩,
   ⟨3, mkCmd 0x30 none [(0x10, 4)],
     { up with cmds := [(3, mkCmd 0x30 none [(0x10, 4)]), (4, { mkCmd 0x31 none [] with order := 1 })] },
     { mkCmd 0x31 none [] with order := 1 }, (by unfold startsAs; decide), by decide +kernel⟩,
   ⟨3, mkCmd 0x31 none [], cmdOn up (mkCmd 0x31 none []), (by unfold startsAs; decide)⟩,
   ⟨3, mkCmd 0x31 none [], cmdOn up (mkCmd 0x31 none []), by decide +kernel⟩,
   ⟨0, 0, 1, { up with ctxs := [(0, { retiring := [1] })], images := [(1, { imgA with places := [{}] })] }, by decide +kernel⟩⟩

theorem test_wit_SequenceCommands :
    (∃ (h : Nat) (im : Nat) (i : Nat) (c : Cmd) (s : Machine.State), startsAs s h 0x10 c ∧
      (c.u 0x10 8 ≠ 0 → ∃ p, (findPrefix s c.ctx (c.u 0x10 8)) = some p ∧ p.im = im) ∧ endsAlone s = true ∧ c.im = some im ∧
      c.u 0x18 1 = 0 ∧ freeSeq s im = some i ∧ (c.u 0x10 8 = 0 → (findPrefix s c.ctx (c.u 0x10 8)) = none) ∧
      (imgOf s im).peers.job = 0) ∧
    (∃ (h : Nat) (c : Cmd) (s : Machine.State), startsAs s h 0x11 c ∧ endsAlone s = true ∧
      (∀ e ∈ s.cmds, e.1 ≠ h → e.2.ctx = c.ctx → e.2.seqId ≠ some (c.u 0x10 4)) ∧ (seqOf s (c.u 0x10 4 % 4096)).draft = none ∧
      (seqCheck s c (c.u 0x10 4) = .ok (c.u 0x10 4 % 4096) ∨ seqCheck s c (c.u 0x10 4) = .error 0x11)) ∧
    (∃ (h : Nat) (i : Nat) (c : Cmd) (s : Machine.State), startsAs s h 0x12 c ∧ seqCheck s c (c.u 0x10 4) = .ok i ∧
      endsAlone s = true ∧ noFlush s (c.u 0x10 4 % 4096) = true ∧ c.u 0x14 4 ≤ (seqOf s i).len ∧ (seqOf s i).draft = none) ∧
    (∃ (h : Nat) (im : Nat) (i : Nat) (toks : List Nat) (req : List Byte) (c : Cmd) (s : Machine.State), startsAs s h 0x13 c ∧
      seqCheck s c (c.u 0x10 4) = .ok i ∧ c.im = some im ∧ toks.length = c.u 0x14 4 ∧
      req.length = (if c.u 0x38 8 = 0 then 0 else 64) ∧ genCheck s c im i toks req false = 0 ∧ toks ≠ []) ∧
    (∃ (h : Nat) (im : Nat) (c : Cmd) (s : Machine.State) (toks : List Nat) (i : Nat), startsAs s h 0x18 c ∧ endsAlone s = true ∧
      c.im = some im ∧ c.u 0x10 8 ≠ 0 ∧ findPrefix s c.ctx (c.u 0x10 8) = none ∧ prefixFull s c.ctx = false ∧
      c.u 0x18 4 = 0xFFFFFFFF ∧ toks.length = c.u 0x1C 4 ∧ toks ≠ [] ∧ toks.length ≤ (kvOf s im).posMax ∧
      (∀ t ∈ toks, t < (roleE s im 0).vocab) ∧ freeSeq s im = some i ∧ (imgOf s im).peers.job = 0) ∧
    (∃ (h : Nat) (im : Nat) (c : Cmd) (s : Machine.State) (i : Nat), startsAs s h 0x18 c ∧ seqCheck s c (c.u 0x18 4) = .ok i ∧
      endsAlone s = true ∧ c.im = some im ∧ c.u 0x10 8 ≠ 0 ∧ findPrefix s c.ctx (c.u 0x10 8) = none ∧ prefixFull s c.ctx = false ∧
      c.u 0x18 4 ≠ 0xFFFFFFFF ∧ (seqOf s (c.u 0x18 4 % 4096)).bind = none ∧ noFlush s (c.u 0x18 4 % 4096) = true ∧
      sealWaits s (c.u 0x18 4 % 4096) (c.u 0x1C 4) = false ∧ 1 ≤ c.u 0x1C 4 ∧ c.u 0x1C 4 ≤ (seqOf s i).len ∧
      sealPoison s i (c.u 0x1C 4) = false ∧
      (∀ l, l < (kvOf s (seqOf s i).im).layers.length → (c.u 0x1C 4 - 1) % 64 + 1 ≤ pageCount s i l ((c.u 0x1C 4 - 1) / 64))) ∧
    (∃ (h : Nat) (p : Prefix) (c : Cmd) (s : Machine.State), startsAs s h 0x19 c ∧ endsAlone s = true ∧
      findPrefix s c.ctx (c.u 0x10 8) = some p ∧ (c.im = some p.im ∨ (cxOf s c.ctx).active = some p.im)) ∧
    (∃ (h : Nat) (c : Cmd) (s : Machine.State), startsAs s h 0x11 c ∧ endsAlone s = true ∧ seqKnown s c.ctx (c.u 0x10 4) = false) ∧
    (∃ (h : Nat) (c : Cmd) (s : Machine.State), startsAs s h 0x19 c ∧ endsAlone s = true ∧ findPrefix s c.ctx (c.u 0x10 8) = none) :=
  ⟨⟨3, 0, 1, mkCmd 0x10 (some 0) [], cmdOn srvUp (mkCmd 0x10 (some 0) []), (by unfold startsAs; decide),
     (by intro h; exact absurd (by decide) h), by decide +kernel⟩,
   ⟨3, mkCmd 0x11 none [(0x11, 0x10)], cmdOn srvUp (mkCmd 0x11 none [(0x11, 0x10)]), (by unfold startsAs; decide),
     by decide +kernel⟩,
   ⟨3, 0, mkCmd 0x12 none [(0x11, 0x10), (0x14, 32)], cmdOn srvUp (mkCmd 0x12 none [(0x11, 0x10), (0x14, 32)]),
     (by unfold startsAs; decide), (by rfl), by decide +kernel⟩,
   ⟨3, 0, 0, [99], [], mkCmd 0x13 (some 0) [(0x11, 0x10), (0x14, 1), (0x28, 5), (0x2C, 6)],
     cmdOn srvUp (mkCmd 0x13 (some 0) [(0x11, 0x10), (0x14, 1), (0x28, 5), (0x2C, 6)]), (by unfold startsAs; decide), (by rfl),
     by decide +kernel⟩,
   ⟨3, 0, mkCmd 0x18 (some 0) [(0x10, 7), (0x18, 0xFF), (0x19, 0xFF), (0x1A, 0xFF), (0x1B, 0xFF), (0x1C, 1)],
     cmdOn (wr .SRV_FN_PFX_QUOTA 0 4 srvUp) (mkCmd 0x18 (some 0) [(0x10, 7), (0x18, 0xFF), (0x19, 0xFF), (0x1A, 0xFF), (0x1B, 0xFF), (0x1C, 1)]),
     [5], 1, (by unfold startsAs; decide), by decide +kernel⟩,
   ⟨3, 0, mkCmd 0x18 (some 0) [(0x10, 7), (0x19, 0x10), (0x1C, 64)],
     cmdOn (wr .SRV_FN_PFX_QUOTA 0 4 srvUp) (mkCmd 0x18 (some 0) [(0x10, 7), (0x19, 0x10), (0x1C, 64)]), 0,
     (by unfold startsAs; decide), (by rfl), by decide +kernel⟩,
   ⟨3, { handle := 7, len := 4 }, mkCmd 0x19 (some 0) [(0x10, 7)],
     { cmdOn srvUp (mkCmd 0x19 (some 0) [(0x10, 7)]) with prefixes := [{ handle := 7, len := 4 }] }, (by unfold startsAs; decide),
     by decide +kernel⟩,
   ⟨3, mkCmd 0x11 none [(0x11, 0x20)], cmdOn srvUp (mkCmd 0x11 none [(0x11, 0x20)]), (by unfold startsAs; decide),
     by decide +kernel⟩,
   ⟨3, mkCmd 0x19 (some 0) [(0x10, 7)], cmdOn srvUp (mkCmd 0x19 (some 0) [(0x10, 7)]), (by unfold startsAs; decide),
     by decide +kernel⟩⟩

theorem test_wit_TransferAndTrainingCommands :
    (∃ (h : Nat) (m : Nat) (i : Nat) (c : Cmd) (s : Machine.State), startsAs s h 0x20 c ∧ seqCheck s c (c.u 0x10 4) = .ok i ∧
      c.im = some m ∧ endsAlone s = true ∧ c.words = [] ∧ (seqOf s (c.u 0x10 4 % 4096)).bind = none ∧
      noFlush s (c.u 0x10 4 % 4096) = true ∧ c.u 0x14 1 = 0 ∧ (imgOf s m).peers.job = 0 ∧ (seqOf s i).pages ≠ [] ∧
      (∀ j, j < (roleE s m 0).layers → partPoison s i ((roleE s m 0).first + j) (seqOf s i).len = false)) ∧
    (∃ (h : Nat) (c : Cmd) (s : Machine.State), cmdOf s h = some c ∧ c.run = true ∧ c.op = 0x20 ∧ c.u 0x14 1 = 0 ∧ c.words ≠ [] ∧
      c.words.length ≤ 1048576) ∧
    (∃ (h : Nat) (c : Cmd) (s : Machine.State), cmdOf s h = some c ∧ c.words ≠ [] ∧ 1048576 < c.words.length ∧ c.run = true ∧
      c.op = 0x20 ∧ c.u 0x14 1 = 0) ∧
    (∃ (h : Nat) (c : Cmd) (s : Machine.State), cmdOf s h = some c ∧ c.run = true ∧ c.op = 0x21 ∧ c.left ≤ 1) ∧
    (∃ (h : Nat) (c : Cmd) (s : Machine.State), cmdOf s h = some c ∧ c.run = true ∧ c.op = 0x21 ∧ 1 < c.left) ∧
    (∃ (h : Nat) (m : Nat) (data : List Byte) (c : Cmd) (s : Machine.State), startsAs s h 0x21 c ∧
      (ckptBad data (imgOf s m) (roleE s m 0) = true ∨ (imgOf s m).kv.posMax < (leAt data 0x50 4)) ∧ endsAlone s = true ∧
      c.im = some m ∧ c.u 0x20 1 = 0 ∧ jobHeld s c.ctx = false) ∧
    (∃ (h : Nat) (m : Nat) (data : List Byte) (c : Cmd) (s : Machine.State) (i : Nat) (u : Machine.State) (v : Machine.State),
      startsAs s h 0x21 c ∧ ckptBad data (imgOf s m) (roleE s m 0) = false ∧
      makeSeqs c.ctx m false (setCmd h { c with run := true } s) = some (i, u) ∧
      reserveAll ((ckptParts (imgOf s m).kv (roleE s m 0).layers (data.drop 256)).mapIdx fun j p => restoreLayer i ((roleE s m 0).first + j) (leAt data 0x50 4) (imgOf s m).kv p).flatten u = some v ∧
      endsAlone s = true ∧ c.im = some m ∧ c.u 0x20 1 = 0 ∧ jobHeld s c.ctx = false ∧ (leAt data 0x50 4) ≤ (imgOf s m).kv.posMax ∧
      kvTableBytes v (imgOf s m).kv ≤ tableSize (imgOf s m).kv ∧
      (∀ j, j < (roleE s m 0).layers → partPoison v i ((roleE s m 0).first + j) (leAt data 0x50 4) = false)) ∧
    (∃ (h : Nat) (m : Nat) (i : Nat) (x : Nat) (toks : List Nat) (e : EntryE) (u : Machine.State) (c : Cmd) (s : Machine.State),
      startsAs s h 0x14 c ∧ seqCheck s c (c.u 0x10 4) = .ok i ∧ undebugged s = true ∧ c.im = some m ∧ (imgOf s m).peers.job = 0 ∧
      (c.u 0x20 4) ≠ 0 ∧ storeHolds (seqOf s i) (c.u 0x14 4) ((c.u 0x14 4) + (c.u 0x20 4)) = true ∧ toks.length = (c.u 0x20 4) ∧
      allocKeep s (kvOf s m) (4 * (c.u 0x20 4)) = some x ∧ anyPoison s x (4 * (c.u 0x20 4)) = false ∧
      wrRefused s x (4 * (c.u 0x20 4)) = false ∧ hubClosed s (.scratch e.cl) = false ∧
      pickEntry m 2 (fun e => decide (16 ≤ e.descLen)) (setCmd h { c with run := true } s) = some (e, u)) ∧
    (∃ (h : Nat) (m : Nat) (e : EntryE) (u : Machine.State) (c : Cmd) (s : Machine.State), startsAs s h 0x06 c ∧
      undebugged s = true ∧ c.im = some m ∧ (∃ a ∈ (imgOf s m).adapters, a.index = c.u 0x10 2) ∧
      hubClosed s (.scratch e.cl) = false ∧
      pickEntry m 3 (fun e => decide (12 ≤ e.descLen)) (setCmd h { c with run := true } s) = some (e, u)) ∧
    (∃ (h : Nat) (m : Nat) (e : EntryE) (u : Machine.State) (c : Cmd) (s : Machine.State), startsAs s h 0x07 c ∧
      undebugged s = true ∧ c.im = some m ∧ (∃ a ∈ (imgOf s m).adapters, a.index = c.u 0x10 2) ∧
      hubClosed s (.scratch e.cl) = false ∧
      pickEntry m 3 (fun e => decide (14 ≤ e.descLen)) (setCmd h { c with run := true } s) = some (e, u)) :=
  ⟨⟨3, 0, 0, mkCmd 0x20 (some 0) [(0x11, 0x10), (0x22, 1)], cmdOn srvUp (mkCmd 0x20 (some 0) [(0x11, 0x10), (0x22, 1)]),
     (by unfold startsAs; decide), (by rfl), by decide +kernel⟩,
   ⟨3, { mkCmd 0x20 (some 0) [(0x11, 0x10)] with run := true, words := [1, 2], value := 2 },
     cmdOn srvUp { mkCmd 0x20 (some 0) [(0x11, 0x10)] with run := true, words := [1, 2], value := 2 }, by decide +kernel⟩,
   ⟨3, { mkCmd 0x20 (some 0) [(0x11, 0x10)] with run := true, words := List.replicate 1048577 1, value := 1048577 },
     cmdOn srvUp { mkCmd 0x20 (some 0) [(0x11, 0x10)] with run := true, words := List.replicate 1048577 1, value := 1048577 },
     (by rfl), (by show List.replicate 1048577 1 ≠ []; exact List.ne_nil_of_length_pos (by rw [List.length_replicate]; decide)),
     (by show 1048576 < (List.replicate 1048577 1).length; rw [List.length_replicate]; decide), by decide +kernel⟩,
   ⟨3, { mkCmd 0x21 (some 0) [] with run := true, left := 1 }, cmdOn srvUp { mkCmd 0x21 (some 0) [] with run := true, left := 1 },
     by decide +kernel⟩,
   ⟨3, { mkCmd 0x21 (some 0) [] with run := true, left := 2 }, cmdOn srvUp { mkCmd 0x21 (some 0) [] with run := true, left := 2 },
     by decide +kernel⟩,
   ⟨3, 0, [], mkCmd 0x21 (some 0) [], cmdOn srvUp (mkCmd 0x21 (some 0) []), (by unfold startsAs; decide), (by exact .inl rfl),
     by decide +kernel⟩,
   ⟨3, 0, ckptS, mkCmd 0x21 (some 0) [], cmdOn srvUp (mkCmd 0x21 (some 0) []), 1,
     ((makeSeqs 0 0 false (setCmd 3 { mkCmd 0x21 (some 0) [] with run := true } (cmdOn srvUp (mkCmd 0x21 (some 0) [])))).getD (0, up)).2,
     ((makeSeqs 0 0 false (setCmd 3 { mkCmd 0x21 (some 0) [] with run := true } (cmdOn srvUp (mkCmd 0x21 (some 0) [])))).getD (0, up)).2,
     (by unfold startsAs; decide), (by exact ckptS_good), (by decide +kernel), (by decide +kernel), by decide +kernel⟩,
   ⟨3, 0, 0, 0x8000, [5], { role := 2, layers := 1, cl := 1, ctx := 2, slot := 2, vocab := 100 },
     ((pickEntry 0 2 (fun e => decide (16 ≤ e.descLen)) (setCmd 3 { mkCmd 0x14 (some 0) [(0x11, 0x10), (0x20, 1)] with run := true } (cmdOn srvUp (mkCmd 0x14 (some 0) [(0x11, 0x10), (0x20, 1)])))).getD ({}, up)).2,
     mkCmd 0x14 (some 0) [(0x11, 0x10), (0x20, 1)], cmdOn srvUp (mkCmd 0x14 (some 0) [(0x11, 0x10), (0x20, 1)]),
     (by unfold startsAs; decide), (by rfl), by decide +kernel⟩,
   ⟨3, 0, { role := 3, layers := 1, cl := 1, ctx := 3, slot := 2, vocab := 100 },
     ((pickEntry 0 3 (fun e => decide (12 ≤ e.descLen)) (setCmd 3 { mkCmd 0x06 (some 0) [(0x10, 2)] with run := true } (cmdOn srvUp (mkCmd 0x06 (some 0) [(0x10, 2)])))).getD ({}, up)).2,
     mkCmd 0x06 (some 0) [(0x10, 2)], cmdOn srvUp (mkCmd 0x06 (some 0) [(0x10, 2)]), (by unfold startsAs; decide),
     by decide +kernel⟩,
   ⟨3, 0, { role := 3, layers := 1, cl := 1, ctx := 3, slot := 2, vocab := 100 },
     ((pickEntry 0 3 (fun e => decide (14 ≤ e.descLen)) (setCmd 3 { mkCmd 0x07 (some 0) [(0x10, 2), (0x14, 9)] with run := true } (cmdOn srvUp (mkCmd 0x07 (some 0) [(0x10, 2), (0x14, 9)])))).getD ({}, up)).2,
     mkCmd 0x07 (some 0) [(0x10, 2), (0x14, 9)], cmdOn srvUp (mkCmd 0x07 (some 0) [(0x10, 2), (0x14, 9)]),
     (by unfold startsAs; decide), by decide +kernel⟩⟩

theorem test_wit_ImageLoading :
    (∃ (h : Nat) (l : Load) (c : Cmd) (s : Machine.State), undebugged s = true ∧ cmdOf s h = some c ∧ loadOf s c.ctx = some l ∧
      l.h = h ∧ l.phase = 1 ∧ l.stop = none ∧ l.src ≠ 2 ∧ (∀ e ∈ s.progs, e.2.ctx ≠ c.ctx) ∧ c.ctx < 1024 ∧
      earlierLoad s (c.ctx / 32) h = true) ∧
    (∃ (h : Nat) (img : List Byte) (err : Bool) (l : Load) (c : Cmd) (s : Machine.State), undebugged s = true ∧ cmdOf s h = some c ∧
      loadOf s c.ctx = some l ∧ l.h = h ∧ l.phase = 1 ∧ l.stop = none ∧ l.src ≠ 2 ∧ (∀ e ∈ s.progs, e.2.ctx ≠ c.ctx) ∧
      c.ctx < 1024 ∧ earlierLoad s (c.ctx / 32) h = false ∧ ((((c.u 0x30 1).testBit 0) = true ∧
      (hubDown s (imagePlace c).1 (imagePlace c).2).isSome = true) ∨ ((((if ((c.u 0x30 1).testBit 0) then devRead s (imagePlace c) else (img.take (c.u 0x18 8), err)).2 || imgDelta (if ((c.u 0x30 1).testBit 0) then devRead s (imagePlace c) else (img.take (c.u 0x18 8), err)).1) = false ∧
      l.src = 1) ∧ ¬ ((hubDma s c.fn (c.ctx / 32) (c.u 0x20 8) (c.u 0x28 8)).isSome = true) ∧
      ((hubDown s (warePlace s c).1 (warePlace s c).2).isSome = true)))) ∧
    (∃ (h : Nat) (img : List Byte) (err : Bool) (l : Load) (c : Cmd) (s : Machine.State), undebugged s = true ∧ cmdOf s h = some c ∧
      loadOf s c.ctx = some l ∧ l.h = h ∧ l.phase = 1 ∧ l.stop = none ∧ l.src ≠ 2 ∧ (∀ e ∈ s.progs, e.2.ctx ≠ c.ctx) ∧
      c.ctx < 1024 ∧ earlierLoad s (c.ctx / 32) h = false ∧ ¬ (((c.u 0x30 1).testBit 0) = true ∧
      (hubDown s (imagePlace c).1 (imagePlace c).2).isSome = true) ∧
      ((if ((c.u 0x30 1).testBit 0) then devRead s (imagePlace c) else (img.take (c.u 0x18 8), err)).2 || imgDelta (if ((c.u 0x30 1).testBit 0) then devRead s (imagePlace c) else (img.take (c.u 0x18 8), err)).1) = false ∧
      l.src = 1 ∧ (hubDma s c.fn (c.ctx / 32) (c.u 0x20 8) (c.u 0x28 8)).isSome = true) ∧
    (∃ (h : Nat) (img : List Byte) (ware : List Byte) (err : Bool) (l : Load) (c : Cmd) (s : Machine.State), undebugged s = true ∧
      cmdOf s h = some c ∧ loadOf s c.ctx = some l ∧ l.h = h ∧ l.phase = 1 ∧ l.stop = none ∧ l.src ≠ 2 ∧
      (∀ e ∈ s.progs, e.2.ctx ≠ c.ctx) ∧ c.ctx < 1024 ∧ earlierLoad s (c.ctx / 32) h = false ∧ ¬ (((c.u 0x30 1).testBit 0) = true ∧
      (hubDown s (imagePlace c).1 (imagePlace c).2).isSome = true) ∧
      ((((if ((c.u 0x30 1).testBit 0) then devRead s (imagePlace c) else (img.take (c.u 0x18 8), err)).2 || imgDelta (if ((c.u 0x30 1).testBit 0) then devRead s (imagePlace c) else (img.take (c.u 0x18 8), err)).1) = false ∧
      l.src = 1) → ¬ ((hubDma s c.fn (c.ctx / 32) (c.u 0x20 8) (c.u 0x28 8)).isSome = true) ∧
      ¬ ((hubDown s (warePlace s c).1 (warePlace s c).2).isSome = true)) ∧ (let dev := (c.u 0x30 1).testBit 0;
      let x := if dev then devRead s (imagePlace c) else (img.take (c.u 0x18 8), err); let alone := x.2 || imgDelta x.1;
      let w := if alone then ([], x.2) else if l.src = 1 then devRead s (warePlace s c) else (ware.take (c.u 0x28 8), err);
      w.2 = true)) ∧
    (∃ (h : Nat) (img : List Byte) (ware : List Byte) (err : Bool) (l : Load) (c : Cmd) (s : Machine.State) (f : _),
      undebugged s = true ∧ cmdOf s h = some c ∧ loadOf s c.ctx = some l ∧ l.h = h ∧ l.phase = 1 ∧ l.stop = none ∧ l.src ≠ 2 ∧
      (∀ e ∈ s.progs, e.2.ctx ≠ c.ctx) ∧ c.ctx < 1024 ∧ earlierLoad s (c.ctx / 32) h = false ∧ ¬ (((c.u 0x30 1).testBit 0) = true ∧
      (hubDown s (imagePlace c).1 (imagePlace c).2).isSome = true) ∧
      ((((if ((c.u 0x30 1).testBit 0) then devRead s (imagePlace c) else (img.take (c.u 0x18 8), err)).2 || imgDelta (if ((c.u 0x30 1).testBit 0) then devRead s (imagePlace c) else (img.take (c.u 0x18 8), err)).1) = false ∧
      l.src = 1) → ¬ ((hubDma s c.fn (c.ctx / 32) (c.u 0x20 8) (c.u 0x28 8)).isSome = true) ∧
      ¬ ((hubDown s (warePlace s c).1 (warePlace s c).2).isSome = true)) ∧ (let dev := (c.u 0x30 1).testBit 0;
      let x := if dev then devRead s (imagePlace c) else (img.take (c.u 0x18 8), err); let alone := x.2 || imgDelta x.1;
      let w := if alone then ([], x.2) else if l.src = 1 then devRead s (warePlace s c) else (ware.take (c.u 0x28 8), err);
      w.2 = false) ∧ (let dev := (c.u 0x30 1).testBit 0;
      let x := if dev then devRead s (imagePlace c) else (img.take (c.u 0x18 8), err); let alone := x.2 || imgDelta x.1;
      let w := if alone then ([], x.2) else if l.src = 1 then devRead s (warePlace s c) else (ware.take (c.u 0x28 8), err);
      let v := if alone ∨ l.src = 1 then s else emit (.hostRead c.fn (c.u 0x20 8) (min (c.u 0x28 8) (leAt (ware.take (c.u 0x28 8)) 0x30 8 + 128))) s;
      let u := enterLoad c.ctx (modLoad c.ctx (fun l => { l with phase := 2, id := if w.2 then 0 else leAt x.1 0x18 16 }) v);
      let i := readImage x.1 w.1 (((cxOf s c.ctx).active.map (imgOf s)).getD {});
      let check := checkStep1 u c.ctx x.1 <|> checkStep2 u (c.u 0x28 8) w.1 i <|> checkStep3 u c.ctx x.1 i; check = some f) ∧
      f.1 < 256) ∧
    (∃ (tile : Nat) (r : Remap) (s : Machine.State), s.remaps.find? (fun r => r.tile == tile) = some r ∧ tile < 12288 ∧
      r.spare < 12288 ∧ (∀ l ∈ r.layers, l < 4 ∧ progOf s (tlKey r.spare l) = none) ∧ rf s .TILE_CFG 2 0 r.spare ≠ 3) :=
  ⟨⟨3, { h := 3 }, { mkCmd 0x01 none [] with run := true, order := 1 },
     { up with cmds := [(3, { mkCmd 0x01 none [] with run := true, order := 1 }), (4, mkCmd 0x01 none [(1, 1)])], ctxs := [(0, { load := some { h := 3 } }), (1, { load := some { h := 4 } })] },
     by decide +kernel⟩,
   ⟨3, [], false, { h := 3 }, { mkCmd 0x01 none [(0x30, 1), (0x18, 16)] with run := true },
     { cmdOn up { mkCmd 0x01 none [(0x30, 1), (0x18, 16)] with run := true } with ctxs := [(0, { load := some { h := 3 } })], hbm := [] },
     by decide +kernel⟩,
   ⟨3, [], false, { h := 3, src := 1 }, { mkCmd 0x01 none [(0x25, 0x20), (0x28, 16)] with run := true },
     { cmdOn up { mkCmd 0x01 none [(0x25, 0x20), (0x28, 16)] with run := true } with ctxs := [(0, { load := some { h := 3, src := 1 } })] },
     by decide +kernel⟩,
   ⟨3, [], [], true, { h := 3 }, { mkCmd 0x01 none [] with run := true },
     { cmdOn up { mkCmd 0x01 none [] with run := true } with ctxs := [(0, { load := some { h := 3 } })] }, by decide +kernel⟩,
   ⟨3, [], [], false, { h := 3 }, { mkCmd 0x01 none [] with run := true },
     { cmdOn up { mkCmd 0x01 none [] with run := true } with ctxs := [(0, { load := some { h := 3 } })] }, (1, 0, 0),
     by decide +kernel⟩,
   ⟨0, { tile := 0, spare := 5, layers := [0] }, { withImg imgA with remaps := [{ tile := 0, spare := 5, layers := [0] }] },
     by decide +kernel⟩⟩

theorem test_wit_GenerationEvents :
    (∃ (h : Nat) (im : Nat) (b : Nat) (g : Gen) (c : Cmd) (e : EntryE) (u : Machine.State) (v : Machine.State) (s : Machine.State),
      undebugged s = true ∧ genOf s h = some g ∧ cmdOf s h = some c ∧ c.im = some im ∧ g.bind = none ∧ g.dbind = none ∧
      (seqOf s g.seq).bind = none ∧ boundaryAwaited s c.ctx g.seq = false ∧ jobTurn s c im = true ∧ cxFenced s c.ctx = false ∧
      jobHeld s c.ctx = false ∧ hubClosed s (.scratch e.cl) = false ∧ (g.pfx = none → roomNeeded s g ≤ ringFree g) ∧ g.input ≠ [] ∧
      pickEntry im 0 (fun e => decide (13 ≤ e.descLen)) (modGen h (fun g => { g with waits := false }) s) = some (e, u) ∧
      (seqOf s g.seq).len + (min (min g.input.length e.nMax) (min (e.descLen - 12) (kvOf s im).stepMax)) ≤ (kvOf s im).posMax ∧
      (let n := min (min g.input.length e.nMax) (min (e.descLen - 12) (kvOf s im).stepMax); let q := seqOf s g.seq;
      let r := roleE s im 0; let last := decide (0 < g.maxNew) && n == g.input.length;
      createBind { seq := g.seq, base := q.len, n := n, keep := g.keep, toks := g.input.take n, sample := last, h := h, first := r.first, layers := r.layers, cl := e.cl * 4096 + e.ctx, jstep := (giveStep c.ctx im u).1 } (giveStep c.ctx im u).2 = some (b, v))) ∧
    (∃ (h : Nat) (g : Gen) (s : Machine.State), genOf s h = some g ∧ g.waits = true) ∧
    (∃ (h : Nat) (g : Gen) (c : Cmd) (s : Machine.State), genOf s h = some g ∧ cmdOf s h = some c ∧ g.waits = true ∧ g.pfx = none) ∧
    (∃ (cl : Nat) (ctx : Nat) (im : Nat) (k : Nat) (v : List Nat) (s : Machine.State), senderOf s cl ctx = some (im, k) ∧
      registerOk s im k 0xFFF v = true) ∧
    (∃ (h : Nat) (c : Cmd) (s : Machine.State), cmdOf s h = some c ∧ c.run = false ∧ mayStart s c = true ∧ waitsRole s c = true) ∧
    (∃ (cl : Nat) (ctx : Nat) (bind : Nat) (v : List Nat) (x : Bind) (s : Machine.State), awaited s cl ctx bind = some x ∧
      v.length = 2 * x.n ∧ x.jstep = 0 ∧ (x.draft && x.verify) = false) ∧
    (∃ (cl : Nat) (ctx : Nat) (im : Nat) (k : Nat) (h : Nat) (c : Cmd) (s : Machine.State), senderOf s cl ctx = some (im, k) ∧
      trainCmd s k = some (h, c) ∧ cmdOf s h = some c) ∧
    (∃ (cl : Nat) (ctx : Nat) (bind : Nat) (x : Bind) (g : Gen) (c : Cmd) (s : Machine.State), awaited s cl ctx bind = some x ∧
      genOf s x.h = some g ∧ cmdOf s x.h = some c ∧ g.pfx = none) ∧
    (∃ (bind : Nat) (x : Bind) (g : Gen) (c : Cmd) (res : List Nat) (s : Machine.State) (st : Nat), bindOf s bind = some x ∧
      genOf s x.h = some g ∧ cmdOf s x.h = some c ∧ x.result = some res ∧ x.jstep = 0 ∧ bindDone s bind = true ∧ x.level = false ∧
      x.draft = false ∧ x.verify = false ∧ x.keep = false ∧ x.sample = true ∧ g.peer = none ∧ s.pcie.linkUp = true ∧ g.pfx = none ∧
      g.ringVec = 0xFFFF ∧ c.ctx % 32 = 0 ∧ g.emitted + 1 < g.maxNew ∧ (∀ e ∈ s.jobs, ∀ p ∈ e.2.peers, p.2.recs = []) ∧
      (res.getD (2 * (x.n - 1)) 0xFFFFFFFF) ∉ g.stops ∧ c.err = some st) ∧
    (∃ (bind : Nat) (x : Bind) (g : Gen) (c : Cmd) (res : List Nat) (s : Machine.State), bindOf s bind = some x ∧
      genOf s x.h = some g ∧ cmdOf s x.h = some c ∧ x.result = some res ∧ x.jstep = 0 ∧ bindDone s bind = true ∧ x.level = false ∧
      x.draft = false ∧ x.verify = false ∧ x.keep = false ∧ x.sample = true ∧ g.peer = none ∧ s.pcie.linkUp = true ∧ g.pfx = none ∧
      g.ringVec = 0xFFFF ∧ c.ctx % 32 = 0 ∧ g.emitted + 1 < g.maxNew ∧ (∀ e ∈ s.jobs, ∀ p ∈ e.2.peers, p.2.recs = []) ∧
      (res.getD (2 * (x.n - 1)) 0xFFFFFFFF) ∉ g.stops ∧ c.err = none) :=
  ⟨⟨3, 0, 0, genS, { mkCmd 0x13 (some 0) [] with run := true },
     { role := 0, layers := 1, cl := 1, ctx := 0, slot := 2, vocab := 100 }, stepU.2,
     ((createBind { seq := 0, base := 64, n := 1, toks := [7], sample := true, h := 3, first := 0, layers := 1, cl := 4096 } stepU.2).getD (0, up)).2,
     genUp genS, by decide +kernel⟩,
   ⟨3, { genS with waits := true }, genUp { genS with waits := true }, by decide +kernel⟩,
   ⟨3, { genS with waits := true }, { mkCmd 0x13 (some 0) [] with run := true }, genUp { genS with waits := true },
     by decide +kernel⟩,
   ⟨1, 0, 0, 0, [3, 0, 1, 2 + 16 * 1 + 8192 * 3 + 2 ^ 25 * 5, 4096, 256, 1000, 0],
     { srvUp with vctx := [(4096, { im := 0, state := 1 })] }, by decide +kernel⟩,
   ⟨3, mkCmd 0x13 (some 0) [], cmdOn { srvUp with entries := [] } (mkCmd 0x13 (some 0) []), by decide +kernel⟩,
   ⟨1, 0, 0, [9, 0], bindS, { bindUp bindS with vctx := [(4096, { im := 0, state := 1 })] }, by decide +kernel⟩,
   ⟨1, 0, 0, 0, 3, { mkCmd 0x07 (some 0) [] with run := true },
     { cmdOn srvUp { mkCmd 0x07 (some 0) [] with run := true } with vctx := [(4096, { im := 0, state := 1 })] }, by decide +kernel⟩,
   ⟨1, 0, 0, bindS, { genS with bind := some 0 }, { mkCmd 0x13 (some 0) [] with run := true },
     { bindUp bindS with vctx := [(4096, { im := 0, state := 1 })] }, by decide +kernel⟩,
   ⟨0, { bindS with result := some [42, 7] }, { genS with bind := some 0 },
     { mkCmd 0x13 (some 0) [] with run := true, err := some 5 }, [42, 7],
     { bindUp { bindS with result := some [42, 7] } with cmds := [(3, { mkCmd 0x13 (some 0) [] with run := true, err := some 5 })] },
     5, by decide +kernel⟩,
   ⟨0, { bindS with result := some [42, 7] }, { genS with bind := some 0 }, { mkCmd 0x13 (some 0) [] with run := true }, [42, 7],
     bindUp { bindS with result := some [42, 7] }, by decide +kernel⟩⟩

theorem test_wit_FenceEvents :
    (∃ (k : Nat) (i : Nat) (r : Nat) (s : Machine.State), unitExists s k i = true ∧ k ≠ 10 ∧ silUp s = true ∧ undebugged s = true ∧
      r ∈ [2, 3, 4, 6] ∧ (unitOf s k i).reasons.testBit r = true) ∧
    (∃ (k : Nat) (i : Nat) (r : Nat) (s : Machine.State), unitExists s k i = true ∧ k ≠ 10 ∧ silUp s = true ∧ undebugged s = true ∧
      r ∈ [2, 3, 4, 6] ∧ (unitOf s k i).fence = false) ∧
    (∃ (k : Nat) (i : Nat) (s : Machine.State), unitExists s k i = true ∧ k ≠ 10 ∧ (unitOf s k i).draining = true ∧
      quiet s k i = true ∧ ((unitOf s k i).fence = true ∨ (unitOf s k i).expired = false) ∧
      ((unitOf s k i).reasons.testBit 1 = false ∨ unitXings s k i = [])) ∧
    (∃ (k : Nat) (i : Nat) (s : Machine.State), unitExists s k i = true ∧ k ≠ 10 ∧ (unitOf s k i).draining = true ∧
      quiet s k i = true ∧ ((unitOf s k i).fence = true ∨ (unitOf s k i).expired = false) ∧ (unitOf s k i).reasons.testBit 1 = true) ∧
    (∃ (k : Nat) (i : Nat) (s : Machine.State), unitExists s k i = true ∧ k ≠ 10 ∧ (unitOf s k i).draining = true) ∧
    (∃ (i : Nat) (way : Option (Nat × Nat)) (s : Machine.State), (∀ w, way = some w → staleFlit s w.1 w.2 = false) ∧ i < 2 ^ 16) ∧
    (∃ (k : Nat) (i : Nat) (n : Nat) (gen : Nat) (fgen : Nat) (way : Option (Nat × Nat)) (s : Machine.State),
      (∀ w, way = some w → staleFlit s w.1 w.2 = false) ∧ i < 2 ^ 16 ∧ tagOk s k i n gen fgen = true ∧
      (k ≠ 3 ∨ fetchOf s i (n / 32) (n % 32) = none)) ∧
    (∃ (k : Nat) (i : Nat) (n : Nat) (gen : Nat) (fgen : Nat) (way : Option (Nat × Nat)) (s : Machine.State),
      (∀ w, way = some w → staleFlit s w.1 w.2 = false) ∧ i < 2 ^ 16 ∧ tagOk s k i n gen fgen = false) ∧
    (∃ (i : Nat) (way : Option (Nat × Nat)) (s : Machine.State) (w : _), i < 2 ^ 16 ∧ way = some w ∧ (xOf s w.1).closed = true ∧
      w.2 % 16 = (xOf s w.1).epoch % 16) ∧
    (∃ (k : Nat) (i : Nat) (s : Machine.State), unitExists s k i = true ∧ k ≠ 3 ∧ k ≠ 10 ∧ k ≠ 11 ∧ undebugged s = true ∧
      (unitOf s k i).isolated = false ∧ silUp s = false) ∧
    (∃ (k : Nat) (i : Nat) (s : Machine.State), unitExists s k i = true ∧ k ≠ 3 ∧ k ≠ 10 ∧ k ≠ 11 ∧ undebugged s = true ∧
      (unitOf s k i).isolated = false ∧ silUp s = true ∧ largerReset s k i = false ∧ (unitOf s k i).fence = false ∧
      (unitOf s k i).inReset = false) ∧
    (∃ (cl : Nat) (work : List (Nat × Nat)) (s : Machine.State), cl < 384 ∧ dieOn s (cl / 48) = true ∧ undebugged s = true ∧
      (unitOf s 3 cl).isolated = false ∧ hungWork s cl work = []) ∧
    (∃ (cl : Nat) (work : List (Nat × Nat)) (s : Machine.State) (n : _) (pc : _), cl < 384 ∧ dieOn s (cl / 48) = true ∧
      undebugged s = true ∧ (unitOf s 3 cl).isolated = false ∧ (n, pc) ∈ hungWork s cl work ∧ (vctxOf s cl n).state ≠ 0 ∧
      silUp s = false) ∧
    (∃ (cl : Nat) (work : List (Nat × Nat)) (s : Machine.State) (n : Nat), (∀ pc, (n, pc) ∉ hungWork s cl work) ∧ cl < 384 ∧
      dieOn s (cl / 48) = true ∧ undebugged s = true ∧ (unitOf s 3 cl).isolated = false ∧ silUp s = false) ∧
    (∃ (k : Nat) (i : Nat) (s : Machine.State), unitExists s k i = true ∧ k ≠ 10 ∧ (unitOf s k i).inReset = true ∧
      (∃ x ∈ unitXings s k i, (xOf s x).closed = true)) ∧
    (∃ (k : Nat) (i : Nat) (s : Machine.State), unitExists s k i = true ∧ k ≠ 10 ∧ (unitOf s k i).inReset = true ∧
      (∀ x ∈ unitXings s k i, (xOf s x).closed = false) ∧ silUp s = false) ∧
    (∃ (k : Nat) (i : Nat) (s : Machine.State), unitExists s k i = true ∧ k ≠ 10 ∧ (unitOf s k i).inReset = true ∧
      (∀ x ∈ unitXings s k i, (xOf s x).closed = false) ∧ silUp s = true ∧ takenOver s k i = true) ∧
    (∃ (k : Nat) (i : Nat) (s : Machine.State), unitExists s k i = true ∧ k ≠ 10 ∧ (unitOf s k i).inReset = true ∧
      (∀ x ∈ unitXings s k i, (xOf s x).closed = false) ∧ silUp s = true ∧ takenOver s k i = false ∧
      s.now ≤ (unitOf s k i).fencedAt + 10000000 ∧
      ((unitOf s k i).resets.filter fun t => decide (s.now ≤ t + 10000000000)).length < 2) ∧
    (∃ (k : Nat) (i : Nat) (s : Machine.State), unitExists s k i = true ∧ k ≠ 10 ∧ (unitOf s k i).inReset = true ∧
      (∀ x ∈ unitXings s k i, (xOf s x).closed = false) ∧ silUp s = true ∧ takenOver s k i = false ∧
      s.now ≤ (unitOf s k i).fencedAt + 10000000 ∧
      ((unitOf s k i).resets.filter fun t => decide (s.now ≤ t + 10000000000)).length < 2 ∧ k = 3 ∧ (unitOf s 3 i).cause = 6) ∧
    (∃ (k : Nat) (i : Nat) (s : Machine.State), unitExists s k i = true ∧ k ≠ 10 ∧ (unitOf s k i).reasons.testBit 1 = true ∧
      silUp s = true ∧ (unitOf s k i).ended = none ∧ takenOver s k i = true) ∧
    (∃ (k : Nat) (i : Nat) (s : Machine.State), unitExists s k i = true ∧ k ≠ 10 ∧ (unitOf s k i).reasons.testBit 1 = true ∧
      silUp s = true ∧ (unitOf s k i).ended = none ∧ takenOver s k i = false ∧ s.ctxs = [] ∧ s.cmds = [] ∧ s.binds = []) :=
  ⟨⟨0, 5, 6, { up with units := [(ukey 0 5, { reasons := 64, fgen := 1 })] }, by decide +kernel⟩,
   ⟨0, 5, 3, up, by decide +kernel⟩,
   ⟨3, 383, { up with units := [(ukey 3 383, { reasons := 2, draining := true })] }, by decide +kernel⟩,
   ⟨3, 383, { up with units := [(ukey 3 383, { reasons := 2, draining := true })] }, by decide +kernel⟩,
   ⟨0, 12287, { up with units := [(ukey 0 12287, { reasons := 2, draining := true, slots := [(3, { busy := true })] })] },
     by decide +kernel⟩,
   ⟨0, none, up, (by intro w h; cases h), by decide +kernel⟩,
   ⟨0, 0, 3, 255, 1, none, { up with units := [(ukey 0 0, { slots := [(3, { busy := true, gen := 255, fgen := 1 })] })] },
     (by intro w h; cases h), by decide +kernel⟩,
   ⟨0, 0, 3, 255, 2, none, { up with units := [(ukey 0 0, { slots := [(3, { busy := true, gen := 255, fgen := 1 })] })] },
     (by intro w h; cases h), by decide +kernel⟩,
   ⟨0, some (xKey 0 1, 5), { up with crossings := [(xKey 0 1, { closed := true, epoch := 5 })] }, (xKey 0 1, 5), by decide +kernel⟩,
   ⟨1, 0, { up with sil.state := 0 }, by decide +kernel⟩,
   ⟨1, 0, up, by decide +kernel⟩,
   ⟨0, [(0, 0)], { up with sil.state := 0 }, by decide +kernel⟩,
   ⟨0, [(4095, 2)],
     { up with sil.state := 0, vctx := [(ctxKey 0 4095, { state := 3, len := 1, sends := [{ rq := 2, pc := 7 }] })] }, 4095, 7,
     by decide +kernel⟩,
   ⟨0, [(4095, 2)],
     { up with sil.state := 0, vctx := [(ctxKey 0 4095, { state := 3, len := 1, sends := [{ rq := 2, pc := 7 }] })] }, 1,
     (by intro pc h; simp [hungWork, workPc, vctxOf, ctxKey, tget, up] at h), by decide +kernel⟩,
   ⟨9, 0,
     { up with units := [(ukey 9 0, { inReset := true, reasons := 2 })], crossings := [(xKey 0 0, { closed := true, epoch := 5 })] },
     by decide +kernel⟩,
   ⟨1, 0, { up with sil.state := 0, units := [(ukey 1 0, { inReset := true })] }, by decide +kernel⟩,
   ⟨4, 47, { up with units := [(ukey 4 47, { inReset := true, reasons := 2 }), (ukey 8 47, { reasons := 2 })] }, by decide +kernel⟩,
   ⟨4, 47, { up with units := [(ukey 4 47, { inReset := true, reasons := 2 })] }, by decide +kernel⟩,
   ⟨3, 0, { up with units := [(ukey 3 0, { inReset := true, reasons := 2, cause := 6 })] }, by decide +kernel⟩,
   ⟨0, 0, { up with units := [(ukey 0 0, { inReset := true, reasons := 2 }), (ukey 8 0, { reasons := 2 })] }, by decide +kernel⟩,
   ⟨0, 0, { up with units := [(ukey 0 0, { inReset := true, reasons := 2 })] }, by decide +kernel⟩⟩

theorem test_wit_ClockEvents :
    (∃ (src : Nat) (n : Nat) (s : Machine.State), src < 4 ∧ clkState s 4 = 2 ∧ clkState s src = 2 ∧ clkInWindow s src n = true) ∧
    (∃ (src : Nat) (n : Nat) (s : Machine.State), src < 4 ∧ clkState s 4 = 2 ∧ clkState s src = 2 ∧ clkInWindow s src n = false ∧
      (tget {} s.clks src).outs = 0) ∧
    (∃ (src : Nat) (n : Nat) (s : Machine.State), src < 4 ∧ clkState s 4 = 2 ∧ clkState s src = 2 ∧ clkInWindow s src n = false ∧
      0 < (tget {} s.clks src).outs ∧ (src = 1 ∨ src = 2)) ∧
    (∃ (src : Nat) (s : Machine.State), src < 4 ∧ clkState s 4 = 2 ∧ clkState s src = 3) ∧
    (∃ (src : Nat) (n : Nat) (s : Machine.State), src < 4 ∧ clkState s 4 = 2 ∧ (clkState s src = 4 ∨ clkState s src = 5) ∧
      clkInWindow s src n = true ∧ (tget {} s.clks src).good < 9) ∧
    (∃ (src : Nat) (n : Nat) (s : Machine.State), src < 4 ∧ clkState s 4 = 2 ∧ (clkState s src = 4 ∨ clkState s src = 5) ∧
      clkInWindow s src n = true ∧ 9 ≤ (tget {} s.clks src).good ∧ src ≠ 3) ∧
    (∃ (src : Nat) (s : Machine.State), src < 5 ∧ clkState s src ≠ 3 ∧ clkState s src ≠ 4) :=
  ⟨⟨1, nominal 1, clkUp 2, by decide +kernel⟩,
   ⟨0, 0, clkUp 2, by decide +kernel⟩,
   ⟨2, 0, { clkUp 2 with clks := [(2, { outs := 1 })] }, by decide +kernel⟩,
   ⟨3, clkUp 3, by decide +kernel⟩,
   ⟨1, nominal 1, { clkUp 5 with clks := [(1, { good := 8 })] }, by decide +kernel⟩,
   ⟨1, nominal 1, { clkUp 4 with clks := [(1, { good := 9 })] }, by decide +kernel⟩,
   ⟨4, clkUp 2, by decide +kernel⟩⟩

theorem test_wit_PowerEvents :
    (∃ (s : Machine.State), s.board.xtalHeld = false) ∧
    (∃ (s : Machine.State), s.board.xtalHeld = false ∧ s.gov.n < 100) ∧
    (∃ (n : Nat) (s : Machine.State), (∀ p, tget 0 s.ptPower p = 0) ∧ tget 0 s.pd n = 2) ∧
    (∃ (n : Nat) (s : Machine.State), tget 0 s.pd n = 2 ∧ s.pkg = {} ∧ mustTell s 8 = false) ∧
    (∃ (n : Nat) (s : Machine.State), tget 0 s.pd n = 2 ∧ s.pkg = {} ∧ mustTell s 8 = true) ∧
    (∃ (p : Nat) (s : Machine.State), p < 8 ∧ Machine.rb s .PWR_PT_REQ p = false ∧ tget 0 s.ptPower p = 0 ∧ pdRefused s p = true) ∧
    (∃ (p : Nat) (s : Machine.State), p < 8 ∧ Machine.rb s .PWR_PT_REQ p = false ∧ tget 0 s.ptPower p = 0 ∧ pdRefused s p = false ∧
      (unitOf s 10 p).fence = false) ∧
    (∃ (p : Nat) (s : Machine.State), ptExists s p = true ∧ Machine.rb s .PWR_PT_REQ p = true ∧ tget 0 s.ptPower p = 1 ∧
      (∀ n ∈ pdAna s p ++ pdDig s p ++ pdBuf s p, tget 0 s.pd n = 0) ∧
      ((diesOfPt s p).all fun d => !s.board.rails.contains d && !s.board.rails.contains (9 + d)) = true) :=
  ⟨⟨up, by decide +kernel⟩,
   ⟨{ wr .PWR_BUDGET 0 (2 ^ 16) up with pools := [(0, { size := 2000 })], gov.n := 99 }, by decide +kernel⟩,
   ⟨20, { up with pd := [(20, 2)] }, (by intro p; rfl), by decide +kernel⟩,
   ⟨20, { up with pd := [(20, 2)], pkg := {} }, by decide +kernel⟩,
   ⟨20, { up with pd := [(20, 2)], jobs := [(0, { st := 1 })] }, by decide +kernel⟩,
   ⟨0, { wr .PWR_PT_REQ 0 0 up with ctxs := [(0, { active := some 0 })] }, by decide +kernel⟩,
   ⟨0, wr .PWR_PT_REQ 0 0 up, by decide +kernel⟩,
   ⟨0, { wr .PWR_PT_REQ 0 1 up with ptPower := [(0, 1)], pd := [] }, by decide +kernel⟩⟩

theorem test_wit_ThermalEvents :
    (∃ (temps : List (Option Int)) (s : Machine.State), (s.board.tripped && s.board.perst && hubCool (readThermos temps s)) = true) ∧
    (∃ (temps : List (Option Int)) (s : Machine.State), (s.board.tripped && s.board.perst && hubCool (readThermos temps s)) = false) ∧
    (∃ (b : Nat) (s : Machine.State), b < 48 ∧ (unitOf s 8 b).reasons.testBit 4 = true ∧
      (tget {} s.cones b).atA - 1 + rf s .THM_CTRL2 7 0 * 10000000 ≤ s.now) ∧
    (∃ (n : Nat) (x : ℚ) (s : Machine.State),
      boardTemp (rf s .THM_BRD 1 0 n) (fld (rd s .MADC_DATA (24 + n)) 11 0) (rd s .MADC_BRD_PAR n).toNat = some x ∧ n < 4 ∧
      rf s .THM_BRD 1 0 n ≠ 0 ∧ Machine.rb s .CLK_GATE 2 = true ∧ Machine.rb s .THM_BRD 28 n = false ∧
      (rd s .MADC_DATA (24 + n)).getLsbD 18 = true ∧ (rd s .MADC_DATA (24 + n)).getLsbD 14 = false ∧
      (rd s .MADC_DATA (24 + n)).getLsbD 15 = false) :=
  ⟨⟨[], { up with board.tripped := true, board.perst := true }, by decide +kernel⟩,
   ⟨[], up, by decide +kernel⟩,
   ⟨47, { up with units := [(ukey 8 47, { reasons := 16 })], now := 10 ^ 12, cones := [(47, { atA := 1 })], cone := [(47, 2)] },
     by decide +kernel⟩,
   ⟨3, (boardTemp (rf brdUp .THM_BRD 1 0 3) (fld (rd brdUp .MADC_DATA 27) 11 0) (rd brdUp .MADC_BRD_PAR 3).toNat).getD 0, brdUp,
     (by rfl), by decide +kernel⟩⟩

theorem test_wit_MonitorConverterEvents :
    (∃ (v : Word) (s : Machine.State), Machine.rb s .CLK_GATE 2 = true ∧
      ({ ch := bitsOf v.toNat 4 0, urgent := v.toNat.testBit 8, pull := bitsOf v.toNat 10 9 } : AdcReq).pull ≠ 3 ∧
      adcHere s ({ ch := bitsOf v.toNat 4 0, urgent := v.toNat.testBit 8, pull := bitsOf v.toNat 10 9 } : AdcReq).ch = true) ∧
    (∃ (r : AdcReq) (s : Machine.State), s.madc.run = some r ∧ r.ch < 32 ∧ r.pull = 0) ∧
    (∃ (r : AdcReq) (s : Machine.State), s.madc.run = some r ∧ r.ch < 32 ∧ r.pull = 1 ∧ tget 0 s.madc.pd r.ch ≠ 0) ∧
    (∃ (r : AdcReq) (s : Machine.State), s.madc.run = some r ∧ r.ch < 32 ∧ s.madc.rep = false) ∧
    (∃ (r : AdcReq) (s : Machine.State), s.madc.run = some r ∧ r.ch < 32 ∧ s.madc.rep = true) ∧
    (∃ (bisque : Bool) (s : Machine.State), s.madc.cal = false ∧ Machine.rb s .CLK_GATE 2 = true ∧ (bisque || adcCalDue s) = true) ∧
    (∃ (s : Machine.State), s.madc.cal = true ∧ s.madc.run = none) ∧
    (∃ (s : Machine.State), Machine.rb s .MADC_CTRL 16 = true ∧ silUp s = true ∧ (rd s .MADC_OW_MASK).toNat = 0) ∧
    (∃ (s : Machine.State) (ch : _), Machine.rb s .MADC_CTRL 16 = true ∧ silUp s = true ∧ (rd s .MADC_OW_MASK).toNat = 2 ^ ch ∧
      adcHere s ch = true ∧ Machine.rb s .CLK_GATE 2 = true ∧ s.madc.run = none ∧ s.madc.urgent = [] ∧ s.madc.normal = [] ∧
      s.madc.cal = false) :=
  ⟨⟨0x0000020A, madcUp { normal := List.replicate 8 { ch := 3 } }, by decide +kernel⟩,
   ⟨{ ch := 31 }, madcUp { run := some { ch := 31 }, settle := 1 }, by decide +kernel⟩,
   ⟨{ ch := 5, pull := 1 }, madcUp { run := some { ch := 5, pull := 1 }, pd := [(5, 16)] }, by decide +kernel⟩,
   ⟨{ ch := 5 }, madcUp { run := some { ch := 5 } }, by decide +kernel⟩,
   ⟨{ ch := 5 }, madcUp { run := some { ch := 5 }, rep := true, normal := [{ ch := 6 }] }, by decide +kernel⟩,
   ⟨true, madcUp {}, by decide +kernel⟩,
   ⟨madcUp { cal := true, urgent := [{ ch := 6 }] }, by decide +kernel⟩,
   ⟨wr .MADC_OW_MASK 0 0 (wr .MADC_CTRL 0 0x10000 (madcUp {})), by decide +kernel⟩,
   ⟨wr .MADC_OW_MASK 0 0x80000000 (wr .MADC_CTRL 0 0x10000 (madcUp {})), 31, by decide +kernel⟩⟩

theorem test_wit_BoardEvents :
    (∃ (s : Machine.State), 2 ∉ s.board.holding ∧ s.board.perst = false ∧ s.board.tripped = false ∧ s.pkg.coldRunning = false ∧
      s.pkg.warmRunning = false) ∧
    (∃ (s : Machine.State), 2 ∉ s.board.holding ∧ s.board.perst = false ∧ s.board.tripped = false ∧ s.pkg.coldRunning = true ∧
      2 < phase s ∧ phase s ≠ 8) ∧
    (∃ (s : Machine.State), 2 ∉ s.board.holding ∧ s.board.perst = false ∧ s.board.tripped = false ∧ s.pkg.coldRunning = false ∧
      s.pkg.warmRunning = true) ∧
    (∃ (s : Machine.State), 2 ∉ s.board.holding ∧ s.board.perst = false ∧ s.board.tripped = true ∧ hubCool s = true) ∧
    (∃ (s : Machine.State), 2 ∉ s.board.holding ∧ s.board.perst = true ∧ s.board.tripped = false) ∧
    (∃ (i : Nat) (up : Instr) (dn : Instr) (s : Machine.State),
      (i, up, dn) ∈ [(0, Instr.alertInAssert, Instr.alertInRelease), (1, Instr.thermInAssert, Instr.thermInRelease)] ∧
      Machine.rb s .HUB_BRD_IN (2 + i) = false ∧ i ∉ s.board.holding ∧ Machine.rb s .HUB_BRD_IN i = false) ∧
    (∃ (i : Nat) (up : Instr) (dn : Instr) (s : Machine.State),
      (i, up, dn) ∈ [(0, Instr.alertInAssert, Instr.alertInRelease), (1, Instr.thermInAssert, Instr.thermInRelease)] ∧
      Machine.rb s .HUB_BRD_IN (2 + i) = false ∧ i ∉ s.board.holding ∧ Machine.rb s .HUB_BRD_IN i = true) ∧
    (∃ (i : Nat) (up : Instr) (dn : Instr) (s : Machine.State),
      (i, up, dn) ∈ [(0, Instr.alertInAssert, Instr.alertInRelease), (1, Instr.thermInAssert, Instr.thermInRelease)] ∧
      Machine.rb s .HUB_BRD_IN (2 + i) = false ∧ i ∈ s.board.holding) ∧
    (∃ (i : Nat) (s : Machine.State), i < 2 ∧ i ∈ s.board.holding ∧ s.board.holding.Nodup ∧
      Machine.rb s .HUB_BRD_IN (2 + i) = false) ∧
    (∃ (i : Nat) (s : Machine.State), i < 2 ∧ Machine.rb s .HUB_BRD_IN i = true) ∧
    (∃ (r : Nat) (s : Machine.State), r < 23 ∧ r ∉ s.board.rails ∧ (r = 8 ∨ r = 18)) ∧
    (∃ (r : Nat) (s : Machine.State), r < 23 ∧ r ∉ s.board.rails ∧ r = 17 ∧ s.progs = []) ∧
    (∃ (r : Nat) (s : Machine.State), r < 23 ∧ r ∉ s.board.rails ∧ (r = 19 ∨ r = 20)) ∧
    (∃ (r : Nat) (s : Machine.State), r < 23 ∧ r ∉ s.board.rails ∧ (r = 21 ∨ r = 22)) ∧
    (∃ (r : Nat) (s : Machine.State) (d : _), r < 23 ∧ r ∉ s.board.rails ∧ d < 8 ∧ (r = d ∨ r = 9 + d) ∧ dieOn s d = true ∧
      tget 0 s.ptPower (ptOfDie s d) = 0) ∧
    (∃ (r : Nat) (s : Machine.State), s.board.rails = [r] ∧ phase s = 8) ∧
    (∃ (r : Nat) (s : Machine.State), (∀ p, tget 0 s.ptPower p = 0) ∧ s.board.rails = [r] ∧ phase s ≠ 8 ∧ r < 19) ∧
    (∃ (s : Machine.State), s.dbg.boundary = false ∧ s.board.perst = false ∧ s.board.tripped = false ∧ s.board.xtalHeld = false) ∧
    (∃ (s : Machine.State), s.dbg.boundary = false ∧ s.board.perst = false ∧ s.board.tripped = false ∧ s.board.xtalHeld = false ∧
      phase s = 1 ∧ clkState s 4 = 2 ∧ s.sil.state = 0 ∧ s.sil.handed = true ∧ Machine.rb s .RST_REQ 3 = false ∧
      (∀ e ∈ s.units, e.2.hung = false)) ∧
    (∃ (s : Machine.State), s.dbg.boundary = false ∧ s.board.perst = false ∧ s.board.tripped = false ∧ s.board.xtalHeld = false ∧
      phase s = 5 ∧ pdsOn s (List.range 8) = true ∧ (∀ e ∈ s.crossings, e.2.closed = false) ∧ clkState s 3 = 2) ∧
    (∃ (s : Machine.State), s.dbg.boundary = false ∧ s.board.perst = false ∧ s.board.tripped = false ∧ s.board.xtalHeld = false ∧
      phase s = 6 ∧ s.sil.state = 1) ∧
    (∃ (s : Machine.State), s.board.perst = false ∧ clkState s 0 = 2 ∧ pdOn s 21 = true ∧ railsOk s [19, 20] = true ∧ 3 ≤ phase s ∧
      phase s ≠ 8) :=
  ⟨⟨up, by decide +kernel⟩,
   ⟨{ phUp 3 with pkg.coldRunning := true }, by decide +kernel⟩,
   ⟨{ up with pkg.warmRunning := true }, by decide +kernel⟩,
   ⟨{ up with board.tripped := true }, by decide +kernel⟩,
   ⟨{ up with board.perst := true }, by decide +kernel⟩,
   ⟨0, .alertInAssert, .alertInRelease, Tests.up, by decide +kernel⟩,
   ⟨1, .thermInAssert, .thermInRelease, wr .HUB_BRD_IN 0 2 Tests.up, by decide +kernel⟩,
   ⟨1, .thermInAssert, .thermInRelease, { Tests.up with board.holding := [1] }, by decide +kernel⟩,
   ⟨1, { up with board.holding := [0, 1], board.deferred := [(1, 2)] }, by decide +kernel⟩,
   ⟨1, wr .HUB_BRD_IN 0 2 up, by decide +kernel⟩,
   ⟨18, up, by decide +kernel⟩,
   ⟨17, up, by decide +kernel⟩,
   ⟨20, up, by decide +kernel⟩,
   ⟨21, up, by decide +kernel⟩,
   ⟨16, up, 7, by decide +kernel⟩,
   ⟨8, { phUp 8 with board.rails := [8] }, by decide +kernel⟩,
   ⟨18, { up with board.rails := [18] }, (by intro p; rfl), by decide +kernel⟩,
   ⟨phUp 2, by decide +kernel⟩,
   ⟨{ phUp 1 with sil.state := 0, sil.handed := true }, by decide +kernel⟩,
   ⟨phUp 5, by decide +kernel⟩,
   ⟨{ phUp 6 with pkg.coldRunning := true }, by decide +kernel⟩,
   ⟨{ phUp 3 with pcie.linkUp := false }, by decide +kernel⟩⟩

theorem test_wit_ResetEvents :
    (∃ (pt : Nat) (cause : Nat) (kind : Nat) (index : Nat) (s : Machine.State), ptExists s pt = true ∧ pt < 8 ∧ silUp s = true ∧
      s.pkg = {} ∧ cause < 16 ∧ kind < 16 ∧ index < 2 ^ 14 ∧ (tget {} s.parts pt).resetting = true) ∧
    (∃ (pt : Nat) (cause : Nat) (kind : Nat) (index : Nat) (s : Machine.State), ptExists s pt = true ∧ pt < 8 ∧ silUp s = true ∧
      s.pkg = {} ∧ cause < 16 ∧ kind < 16 ∧ index < 2 ^ 14 ∧ (tget {} s.parts pt).resetting = false ∧
      (unitOf s 10 pt).fence = false) ∧
    (∃ (pt : Nat) (s : Machine.State), (tget {} s.parts pt).resetting = true ∧ (tget {} s.parts pt).step = 4 ∧ silUp s = true ∧
      (∀ k ∈ xingsOf s pt, (xOf s k).closed = false) ∧ rf s .CLK_STAT 11 9 = 2 ∧ tget 0 s.ptPower pt = 0 ∧ pt < 8) ∧
    (∃ (cause : Nat) (s : Machine.State), cause < 16 ∧ s.pkg.coldRunning = false ∧ s.pkg.warmRunning = true) ∧
    (∃ (cause : Nat) (s : Machine.State), cause < 16 ∧ s.pkg = {} ∧ mustTell s cause = true) ∧
    (∃ (cause : Nat) (s : Machine.State), cause < 16 ∧ s.pkg = {} ∧ mustTell s cause = false) ∧
    (∃ (s : Machine.State), s.pkg.coldRunning = true ∧ s.pkg.healthFailed = false ∧ phase s ≠ 8) ∧
    (∃ (cause : Nat) (s : Machine.State), (s.pkg.coldRunning = false ∨ s.pkg.healthFailed = true ∨ phase s = 8) ∧
      mustTell s cause = true) ∧
    (∃ (cause : Nat) (s : Machine.State), (s.pkg.coldRunning = false ∨ s.pkg.healthFailed = true ∨ phase s = 8) ∧
      mustTell s cause = false ∧ (s.pkg.next = none ∨ noNotice cause = true ∨ s.pkg.warmRunning = true)) ∧
    (∃ (s : Machine.State), s.pkg.coldRunning = true ∧ s.pkg.coldTries < 2) ∧
    (∃ (s : Machine.State), s.pkg.coldRunning = true ∧ 2 ≤ s.pkg.coldTries) ∧
    (∃ (pt : Nat) (s : Machine.State), (tget {} s.parts pt).resetting = true ∧ silUp s = true ∧ s.pkg = {} ∧ mustTell s 8 = false) ∧
    (∃ (s : Machine.State), s.pkg.warmRunning = true ∧ s.pkg.coldRunning = false ∧ mustTell s 9 = false) ∧
    (∃ (s : Machine.State), s.pkg.warmRunning = false ∧ s.pkg.coldRunning = true ∧ s.board.perst = false ∧ phase s ≠ 8 ∧
      s.pkg.coldTries < 2) ∧
    (∃ (s : Machine.State), Machine.rb s .RST_REQ 3 = false) ∧
    (∃ (s : Machine.State), Machine.rb s .RST_REQ 3 = false ∧ (rf s .RST_REQ_LOC 3 0) < 10 ∧
      unitExists s (rf s .RST_REQ_LOC 3 0) (rf s .RST_REQ_LOC 17 4) = true ∧ undebugged s = true ∧
      largerReset s (rf s .RST_REQ_LOC 3 0) (rf s .RST_REQ_LOC 17 4) = false ∧
      (unitOf s (rf s .RST_REQ_LOC 3 0) (rf s .RST_REQ_LOC 17 4)).fence = false ∧
      (unitOf s (rf s .RST_REQ_LOC 3 0) (rf s .RST_REQ_LOC 17 4)).inReset = false ∧ s.sil.state = 1) ∧
    (∃ (s : Machine.State), Machine.rb s .RST_REQ 3 = false ∧ (rf s .RST_REQ_LOC 3 0) < 10 ∧
      unitExists s (rf s .RST_REQ_LOC 3 0) (rf s .RST_REQ_LOC 17 4) = true ∧ undebugged s = true ∧
      largerReset s (rf s .RST_REQ_LOC 3 0) (rf s .RST_REQ_LOC 17 4) = false ∧
      (unitOf s (rf s .RST_REQ_LOC 3 0) (rf s .RST_REQ_LOC 17 4)).fence = false ∧
      (unitOf s (rf s .RST_REQ_LOC 3 0) (rf s .RST_REQ_LOC 17 4)).inReset = false ∧ s.sil.state ≠ 1) ∧
    (∃ (s : Machine.State) (p : Nat), Machine.rb s .RST_REQ 3 = false ∧ p < 8 ∧ ptExists s p = true ∧ s.sil.state = 1 ∧ s.pkg = {} ∧
      (tget {} s.parts p).resetting = false ∧ (unitOf s 10 p).fence = false) ∧
    (∃ (s : Machine.State), Machine.rb s .RST_REQ 3 = false ∧ s.sil.state = 1 ∧ s.pkg = {} ∧ mustTell s 1 = false) ∧
    (∃ (s : Machine.State), Machine.rb s .RST_REQ 3 = false ∧ s.sil.state = 1 ∧ s.pkg = {} ∧ mustTell s 1 = false) ∧
    (∃ (v : Nat) (s : Machine.State), Machine.rb s .RST_REQ 3 = true ∧ v.testBit 3 = true) ∧
    (∃ (p : Nat) (s : Machine.State), p < 8 ∧ ptExists s p = true ∧ Machine.rb s .RST_FENCE_HOST p = false ∧
      (unitOf s 10 p).fence = false) ∧
    (∃ (p : Nat) (s : Machine.State), p < 8 ∧ ptExists s p = true ∧ Machine.rb s .RST_FENCE_HOST p = true) ∧
    (∃ (s : Machine.State), s.sil.state = 1) ∧
    (∃ (s : Machine.State) (k : Nat) (i : Nat) (how : Nat), s.sil.state = 1 ∧ unitExists s k i = true ∧ k < 10 ∧
      undebugged s = true ∧ (unitOf s k i).fence = false ∧ disputes s (k, i, how) = true ∧
      (∀ e ∈ s.units, e.2.reasons.testBit 5 = false)) ∧
    (∃ (s : Machine.State) (k : Nat) (i : Nat) (how : Nat), s.sil.state = 1 ∧ disputes s (k, i, how) = false ∧
      (∀ e ∈ s.units, e.2.reasons.testBit 5 = false)) :=
  ⟨⟨0, 15, 15, 16383, { up with parts := [(0, { resetting := true })] }, by decide +kernel⟩,
   ⟨0, 15, 15, 16383, up, by decide +kernel⟩,
   ⟨0,
     { clkUp 2 with parts := [(0, { resetting := true, step := 4 })], units := [(ukey 10 0, { reasons := 2, inReset := true })], hbm := [] },
     by decide +kernel⟩,
   ⟨15, { up with pkg.warmRunning := true }, by decide +kernel⟩,
   ⟨15, { up with jobs := [(0, { st := 1 })] }, by decide +kernel⟩,
   ⟨15, { up with units := [(ukey 0 7, { reasons := 128 })] }, by decide +kernel⟩,
   ⟨{ up with pkg.coldRunning := true }, by decide +kernel⟩,
   ⟨15, { up with jobs := [(0, { st := 1 })] }, by decide +kernel⟩,
   ⟨15, up, by decide +kernel⟩,
   ⟨{ up with pkg.coldRunning := true, pkg.coldTries := 1 }, by decide +kernel⟩,
   ⟨{ up with pkg.coldRunning := true, pkg.coldTries := 2 }, by decide +kernel⟩,
   ⟨0, { up with parts := [(0, { resetting := true, step := 2 })] }, by decide +kernel⟩,
   ⟨{ up with pkg.warmRunning := true }, by decide +kernel⟩,
   ⟨{ phUp 5 with pkg.coldRunning := true, pkg.coldTries := 1 }, by decide +kernel⟩,
   ⟨up, by decide +kernel⟩,
   ⟨wr .RST_REQ_LOC 0 0x23 up, by decide +kernel⟩,
   ⟨{ wr .RST_REQ_LOC 0 0x23 up with sil.state := 2 }, by decide +kernel⟩,
   ⟨up, 0, by decide +kernel⟩,
   ⟨up, by decide +kernel⟩,
   ⟨up, by decide +kernel⟩,
   ⟨8, wr .RST_REQ 0 8 up, by decide +kernel⟩,
   ⟨0, up, by decide +kernel⟩,
   ⟨0, wr .RST_FENCE_HOST 0 1 { up with units := [(ukey 10 0, { reasons := 1 })] }, by decide +kernel⟩,
   ⟨{ up with units := [(ukey 0 4, { reasons := 32 })] }, by decide +kernel⟩,
   ⟨up, 9, 7, 2, by decide +kernel⟩,
   ⟨up, 9, 7, 1, by decide +kernel⟩⟩

theorem test_wit_EpochLinkAndFirmwareEvents :
    (∃ (kind : Nat) (index : Nat) (epoch : Nat) (s : Machine.State), (xOf s (xKey kind index)).closed = true ∧
      (xOf s (xKey kind index)).epoch ≤ epoch) ∧
    (∃ (kind : Nat) (index : Nat) (epoch : Nat) (s : Machine.State), (xOf s (xKey kind index)).closed = true ∧
      (xOf s (xKey kind index)).offered = some epoch ∧ (xOf s (xKey kind index)).epoch = epoch) ∧
    (∃ (kind : Nat) (index : Nat) (epoch : Nat) (s : Machine.State) (c : Instr),
      c ∈ [Instr.epochOffer kind index epoch, .epochAcknowledgement kind index epoch] ∧ (xOf s (xKey kind index)).closed = false ∧
      epoch % 16 = (xOf s (xKey kind index)).epoch % 16) ∧
    (∃ (kind : Nat) (index : Nat) (epoch : Nat) (s : Machine.State) (c : Instr),
      c ∈ [Instr.epochOffer kind index epoch, .epochAcknowledgement kind index epoch] ∧ (xOf s (xKey kind index)).closed = false ∧
      epoch % 16 ≠ (xOf s (xKey kind index)).epoch % 16) ∧
    (∃ (kind : Nat) (index : Nat) (epoch : Nat) (s : Machine.State), (xOf s (xKey kind index)).closed = true ∧
      (xOf s (xKey kind index)).epoch ≠ epoch) ∧
    (∃ (tries : Nat), tries < 8) ∧
    (∃ (k : Nat) (i : Nat) (tries : Nat) (s : Machine.State), 8 ≤ tries ∧ unitExists s k i = true ∧ k ≠ 10 ∧ undebugged s = true ∧
      (unitOf s k i).fence = false) ∧
    (∃ (k : Nat) (i : Nat) (s : Machine.State), i < 2 ^ 16 ∧ (unitOf s k i).reasons.testBit 6 = true ∧
      (unitOf s k i).expired = false) ∧
    (∃ (s : Machine.State), s.sil.state = 2 ∧ s.sil.handed = true ∧ Machine.rb s .RST_REQ 3 = false ∧
      (∀ e ∈ s.units, e.2.hung = false ∧ (e.2.reasons.testBit 1 = true → e.1 / 2 ^ 16 = 10))) ∧
    (∃ (s : Machine.State), s.sil.state = 1 ∧ (fwSlot s s.sil.slot).state = 2 ∧ s.sil.runSince + 30000000000 ≤ s.now ∧
      s.sil.roundsOk = true ∧ (s.sil.agentsNow = false ∨ (fwSlot s s.sil.slot).agents = false)) ∧
    (∃ (s : Machine.State), s.sil.state = 1 ∧ (fwSlot s s.sil.slot).state = 2 ∧ s.sil.runSince + 30000000000 ≤ s.now ∧
      s.sil.roundsOk = true ∧ s.sil.agentsNow = true ∧ (fwSlot s s.sil.slot).agents = true ∧ dieOn s 0 = true ∧
      (unitOf s 9 0).reasons.testBit 7 = false) ∧
    (∃ (cryptoOk : Bool) (s : Machine.State), (cryptoOk = false ∨ s.now < s.sil.runSince + 30000000000 ∨ s.sil.roundsOk = false)) ∧
    (∃ (d : Nat) (s : Machine.State), d < 8 ∧ s.sil.agentDies = [d]) ∧
    (∃ (d : Nat) (s : Machine.State) (e : Nat) (ds : List Nat), d < 8 ∧ e < 8 ∧ e ≠ d ∧ s.sil.agentDies = d :: e :: ds ∧
      dieOn s e = true ∧ (unitOf s 9 e).reasons.testBit 7 = false) ∧
    (∃ (k : Nat) (i : Nat) (s : Machine.State), i < 2 ^ 16 ∧ k = 8 ∧ s.sil.agentDies.head? = some (i / 6)) ∧
    (∃ (k : Nat) (i : Nat) (s : Machine.State), i < 2 ^ 16 ∧ ¬ (k = 9 ∧ s.sil.agentDies.head? = some i) ∧ ¬ (k = 8 ∧
      s.sil.agentDies.head? = some (i / 6))) :=
  ⟨⟨0, 1, 5, { up with crossings := [(xKey 0 1, { closed := true, epoch := 5 })] }, by decide +kernel⟩,
   ⟨0, 1, 5, { up with crossings := [(xKey 0 1, { closed := true, epoch := 5, offered := some 5 })] }, by decide +kernel⟩,
   ⟨0, 1, 21, { up with crossings := [(xKey 0 1, { epoch := 5 })] }, .epochAcknowledgement 0 1 21, by decide +kernel⟩,
   ⟨0, 1, 20, { up with crossings := [(xKey 0 1, { epoch := 5 })] }, .epochOffer 0 1 20, by decide +kernel⟩,
   ⟨0, 1, 6, { up with crossings := [(xKey 0 1, { closed := true, epoch := 5 })] }, by decide +kernel⟩,
   ⟨7, by decide +kernel⟩,
   ⟨5, 0, 8, up, by decide +kernel⟩,
   ⟨5, 0, { up with units := [(ukey 5 0, { reasons := 64 })] }, by decide +kernel⟩,
   ⟨{ up with sil.state := 2, sil.handed := true, sil.evq := [{ cls := 1 }, { cls := 2 }] }, by decide +kernel⟩,
   ⟨trialUp, by decide +kernel⟩,
   ⟨{ trialUp with sil.agentsNow := true, sil.slotA := { state := 2, version := 5, svn := 9, agents := true } }, by decide +kernel⟩,
   ⟨false, trialUp, by decide +kernel⟩,
   ⟨7, { up with sil.agentDies := [7] }, by decide +kernel⟩,
   ⟨0, { up with sil.agentDies := [0, 7, 3], units := [(ukey 9 0, { reasons := 8 })] }, 7, [3], by decide +kernel⟩,
   ⟨8, 2, { up with sil.agentDies := [0] }, by decide +kernel⟩,
   ⟨9, 1, { up with sil.agentDies := [0] }, by decide +kernel⟩⟩

theorem test_wit_CheckingEvents :
    (∃ (pt : Nat) (fn : Nat) (bay : Nat) (key : Nat) (i : Nat) (p : BayPlan) (cur : Tab Int) (s : Machine.State),
      s.plans.find? (fun e => e.1 == (cxKey pt fn) * 64 + bay) = some (key, p) ∧ Machine.rb s .CHK_CTRL 0 = true ∧
      100000000000 ≤ (accrue s (cxKey pt fn) bay p).credit ∧ (tget [] s.samples bay).length < 4 ∧ unitUp s 6 bay = true ∧
      halted s bay = false ∧ (cxOf s (cxKey pt fn)).active = some p.im ∧
      swrr (bayEntries (imgOf s p.im).draw bay) p.start p.cur = some (i, cur)) ∧
    (∃ (bay : Nat) (x : Sample) (rest : List Sample) (s : Machine.State), x.forced = false ∧
      takeFirst (fun x => x.run.isNone && decide (x.armedAt + 10000000 ≤ s.now)) (tget [] s.samples bay) = some (x, rest)) ∧
    (∃ (bay : Nat) (x : Sample) (rest : List Sample) (s : Machine.State) (crcOk : _) (shadowOk : _), x.forced = false ∧
      takeFirst (fun x => x.part.isSome || x.spoiled) (tget [] s.samples bay) = some (x, rest) ∧ undebugged s = true ∧
      (x.spoiled = true ∨ crcOk = false ∨ shadowOk = false)) ∧
    (∃ (bay : Nat) (x : Sample) (rest : List Sample) (s : Machine.State) (r : PassRun) (a : AccPass) (sh : Shadow),
      x.forced = false ∧ takeFirst (fun x => x.part.isSome || x.spoiled) (tget [] s.samples bay) = some (x, rest) ∧
      undebugged s = true ∧ noneHeld s = true ∧ (∀ f ∈ s.findings, f.chain = false) ∧ x.spoiled = false ∧ x.run = some r ∧
      x.part = some a ∧ shadowOf s x.tl = some sh ∧ shadowBad s x.tl = false ∧ tlValid s (x.tl / 4) (x.tl % 4) = true ∧
      progOf s x.tl = none ∧ fenced s 6 bay = false ∧ inReset s 6 bay = false) ∧
    (∃ (suite : Nat) (a : Nat) (b : Nat) (s : Machine.State), Machine.rb s .CHK_CTRL 2 = true ∧ silUp s = true ∧
      unitUp s (suiteKind suite) a = true ∧ unitUp s (suiteKind suite) b = true ∧ testRoom s (suiteKind suite) a = true ∧
      testRoom s (suiteKind suite) b = true ∧ nextBay s (suiteBay suite a) = some (suiteBay suite b) ∧
      suiteBay suite a ≠ suiteBay suite b ∧ suiteBay suite a ∉ roundBays s ∧ suiteBay suite b ∉ roundBays s) ∧
    (∃ (suite : Nat) (a : Nat) (x : Nat) (y : Nat) (r : Round) (s : Machine.State),
      s.rounds.find? (fun r => r.suite == suite && r.a == a) = some r ∧ unitUp s (suiteKind suite) r.a = true ∧
      unitUp s (suiteKind suite) r.b = true ∧ undebugged s = true ∧ noneHeld s = true ∧ r.stage = 0 ∧ x = y) ∧
    (∃ (suite : Nat) (a : Nat) (x : Nat) (y : Nat) (r : Round) (s : Machine.State),
      s.rounds.find? (fun r => r.suite == suite && r.a == a) = some r ∧ unitUp s (suiteKind suite) r.a = true ∧
      unitUp s (suiteKind suite) r.b = true ∧ undebugged s = true ∧ noneHeld s = true ∧ r.stage = 0 ∧ x ≠ y) ∧
    (∃ (suite : Nat) (a : Nat) (x : Nat) (y : Nat) (r : Round) (s : Machine.State),
      s.rounds.find? (fun r => r.suite == suite && r.a == a) = some r ∧ unitUp s (suiteKind suite) r.a = true ∧
      unitUp s (suiteKind suite) r.b = true ∧ undebugged s = true ∧ noneHeld s = true ∧ r.stage = 1 ∧ x = y ∧
      transientLimit (addTransient (suiteKind suite) r.b (addTransient (suiteKind suite) r.a s)) (suiteKind suite) r.a = false ∧
      transientLimit (addTransient (suiteKind suite) r.b (addTransient (suiteKind suite) r.a s)) (suiteKind suite) r.b = false) ∧
    (∃ (suite : Nat) (a : Nat) (x : Nat) (y : Nat) (r : Round) (s : Machine.State),
      s.rounds.find? (fun r => r.suite == suite && r.a == a) = some r ∧ unitUp s (suiteKind suite) r.a = true ∧
      unitUp s (suiteKind suite) r.b = true ∧ undebugged s = true ∧ noneHeld s = true ∧ r.stage = 1 ∧ x ≠ y) ∧
    (∃ (suite : Nat) (a : Nat) (third : Nat) (x : Nat) (r : Round) (s : Machine.State),
      s.rounds.find? (fun r => r.suite == suite && r.a == a) = some r ∧ unitUp s (suiteKind suite) r.a = true ∧
      unitUp s (suiteKind suite) r.b = true ∧ undebugged s = true ∧ noneHeld s = true ∧ r.stage = 2 ∧
      nextBay s (suiteBay suite r.b) = some (suiteBay suite third) ∧ unitUp s (suiteKind suite) third = true ∧ x = r.sigB ∧
      largerReset s (suiteKind suite) r.a = false ∧ (unitOf s (suiteKind suite) r.a).reasons = 0) ∧
    (∃ (suite : Nat) (a : Nat) (third : Nat) (x : Nat) (r : Round) (s : Machine.State),
      s.rounds.find? (fun r => r.suite == suite && r.a == a) = some r ∧ unitUp s (suiteKind suite) r.a = true ∧
      unitUp s (suiteKind suite) r.b = true ∧ undebugged s = true ∧ noneHeld s = true ∧ r.stage = 2 ∧
      nextBay s (suiteBay suite r.b) = some (suiteBay suite third) ∧ unitUp s (suiteKind suite) third = true ∧ x ≠ r.sigB ∧
      x = r.sigA ∧ largerReset s (suiteKind suite) r.b = false ∧ (unitOf s (suiteKind suite) r.b).reasons = 0) ∧
    (∃ (suite : Nat) (a : Nat) (third : Nat) (x : Nat) (r : Round) (s : Machine.State),
      s.rounds.find? (fun r => r.suite == suite && r.a == a) = some r ∧ unitUp s (suiteKind suite) r.a = true ∧
      unitUp s (suiteKind suite) r.b = true ∧ undebugged s = true ∧ noneHeld s = true ∧ r.stage = 2 ∧
      nextBay s (suiteBay suite r.b) = some (suiteBay suite third) ∧ unitUp s (suiteKind suite) third = true ∧ x ≠ r.sigB ∧
      x ≠ r.sigA) ∧
    (∃ (suite : Nat) (a : Nat) (x : Nat) (y : Nat) (r : Round) (s : Machine.State),
      s.rounds.find? (fun r => r.suite == suite && r.a == a) = some r ∧ unitUp s (suiteKind suite) r.a = true ∧
      unitUp s (suiteKind suite) r.b = true ∧ undebugged s = true ∧ noneHeld s = true ∧ r.stage = 3 ∧ x = y) ∧
    (∃ (suite : Nat) (a : Nat) (x : Nat) (y : Nat) (r : Round) (s : Machine.State),
      s.rounds.find? (fun r => r.suite == suite && r.a == a) = some r ∧ unitUp s (suiteKind suite) r.a = true ∧
      unitUp s (suiteKind suite) r.b = true ∧ undebugged s = true ∧ noneHeld s = true ∧ r.stage = 3 ∧ x ≠ y ∧ suite < 5 ∧
      s.ctxs = [] ∧ s.cmds = [] ∧ s.binds = []) ∧
    (∃ (suite : Nat) (a : Nat) (r : Round) (s : Machine.State),
      s.rounds.find? (fun r => r.suite == suite && r.a == a && decide (r.start + 1000000000 ≤ s.now)) = some r) ∧
    (∃ (v : Word) (s : Machine.State), scanOk s.sil.scanData = false ∧ v.toNat.testBit 0 = true ∧ rf s .CHK_SCAN_STAT 1 0 ≠ 1 ∧
      undebugged s = true ∧ noneHeld s = true) ∧
    (∃ (v : Word) (s : Machine.State), scanOk s.sil.scanData = true ∧ v.toNat.testBit 0 = true ∧ rf s .CHK_SCAN_STAT 1 0 ≠ 1 ∧
      undebugged s = true ∧ noneHeld s = true) ∧
    (∃ (pt : Nat) (s : Machine.State), tget 0 s.boosts pt ≠ 0 ∧ tget 0 s.boosts pt ≤ s.now + 1) :=
  ⟨⟨0, 0, 47, 47, 1, { credit := 100000000000 }, [(0, 1), (1, -1)],
     { wr .CHK_CTRL 0 1 (withImg imgQ) with plans := [(47, { credit := 100000000000 })] }, by decide +kernel⟩,
   ⟨0, {}, [{ armedAt := 1 }], { up with samples := [(0, [{}, { armedAt := 1 }])], now := 10000000 }, by decide +kernel⟩,
   ⟨0, { part := some {} }, [], { up with samples := [(0, [{ part := some {} }])] }, false, true, by decide +kernel⟩,
   ⟨0, { tl := 1, run := some { req := { layer := 1 } }, part := some {} }, [],
     { wr .TILE_LCFG 1 1 up with samples := [(0, [{ tl := 1, run := some { req := { layer := 1 } }, part := some {} }])], shadow := [(1, {})] },
     { req := { layer := 1 } }, {}, {}, by decide +kernel⟩,
   ⟨4, 0, 1, wr .CHK_CTRL 0 4 up, by decide +kernel⟩,
   ⟨4, 0, 5, 5, { suite := 4, a := 0, b := 1 }, { up with rounds := [{ suite := 4, a := 0, b := 1 }] }, by decide +kernel⟩,
   ⟨4, 0, 5, 6, { suite := 4, a := 0, b := 1 }, { up with rounds := [{ suite := 4, a := 0, b := 1 }] }, by decide +kernel⟩,
   ⟨4, 0, 5, 5, { suite := 4, a := 0, b := 1, stage := 1 },
     { wr .CHK_SCHED 0 0x03000000 up with rounds := [{ suite := 4, a := 0, b := 1, stage := 1 }] }, by decide +kernel⟩,
   ⟨4, 0, 5, 6, { suite := 4, a := 0, b := 1, stage := 1 }, { up with rounds := [{ suite := 4, a := 0, b := 1, stage := 1 }] },
     by decide +kernel⟩,
   ⟨4, 0, 2, 6, { suite := 4, a := 0, b := 1, stage := 2, sigA := 5, sigB := 6 },
     { up with rounds := [{ suite := 4, a := 0, b := 1, stage := 2, sigA := 5, sigB := 6 }] }, by decide +kernel⟩,
   ⟨4, 0, 2, 5, { suite := 4, a := 0, b := 1, stage := 2, sigA := 5, sigB := 6 },
     { up with rounds := [{ suite := 4, a := 0, b := 1, stage := 2, sigA := 5, sigB := 6 }] }, by decide +kernel⟩,
   ⟨4, 0, 2, 7, { suite := 4, a := 0, b := 1, stage := 2, sigA := 5, sigB := 6 },
     { up with rounds := [{ suite := 4, a := 0, b := 1, stage := 2, sigA := 5, sigB := 6 }] }, by decide +kernel⟩,
   ⟨4, 0, 5, 5, { suite := 4, a := 0, b := 1, stage := 3 }, { up with rounds := [{ suite := 4, a := 0, b := 1, stage := 3 }] },
     by decide +kernel⟩,
   ⟨4, 0, 5, 6, { suite := 4, a := 0, b := 1, stage := 3 }, { up with rounds := [{ suite := 4, a := 0, b := 1, stage := 3 }] },
     by decide +kernel⟩,
   ⟨4, 0, { suite := 4, a := 0, b := 1 }, { up with rounds := [{ suite := 4, a := 0, b := 1 }], now := 1000000000 },
     by decide +kernel⟩,
   ⟨1, up, (by rfl), by decide +kernel⟩,
   ⟨1, { up with sil.scanData := scanS }, (by exact scanS_good), by decide +kernel⟩,
   ⟨0, { up with boosts := [(0, 6)], now := 5, plans := [(47, { credit := 5 })] }, by decide +kernel⟩⟩

theorem test_wit_DebugControlCommands :
    (∃ (n : Nat) (s : Machine.State), 1 ≤ n ∧ n < 256 ∧ Machine.rb s .CLK_GATE 4 = true ∧ hasScope s 0 = true ∧ hasScope s 1 = true) ∧
    (∃ (n : Nat) (s : Machine.State), 1 ≤ n ∧ n < 256 ∧ Machine.rb s .CLK_GATE 4 = true ∧ hasScope s 0 = true ∧
      hasScope s 1 = true ∧ hasScope s 2 = true) ∧
    (∃ (c : Instr) (v : Word) (s : Machine.State), c ∈ [Instr.dbgHalt v, .dbgResume v, .dbgStep v, .dbgClose v] ∧
      Machine.rb s .CLK_GATE 4 = true ∧ dbgMayWrite s .DBG_CTRL v.toNat = false) ∧
    (∃ (c : Instr) (v : Word) (s : Machine.State), c ∈ [Instr.dbgHalt v, .dbgResume v, .dbgStep v, .dbgClose v] ∧
      Machine.rb s .CLK_GATE 4 = false) ∧
    (∃ (bay : Nat) (s : Machine.State), bay < 48 ∧ (halted s bay = true ∨ s.dbg.stepping.testBit bay = true)) ∧
    (∃ (s : Machine.State), Machine.rb s .CLK_GATE 4 = true ∧ hasScope s 0 = true ∧ hasScope s 1 = true ∧ hasScope s 3 = true) ∧
    (∃ (s : Machine.State), Machine.rb s .CLK_GATE 4 = true ∧ hasScope s 0 = true ∧ hasScope s 1 = true ∧ hasScope s 3 = true ∧
      s.sil.state ≠ 4) ∧
    (∃ (s : Machine.State), Machine.rb s .CLK_GATE 4 = true ∧ hasScope s 0 = true ∧ hasScope s 1 = true ∧ hasScope s 3 = true ∧
      s.sil.state = 4 ∧ s.dbg.silWas ≠ 4 ∧ Machine.rb s .RST_REQ 3 = false ∧ (∀ e ∈ s.units, e.2.hung = false ∧
      (e.2.reasons.testBit 1 = true → e.1 / 2 ^ 16 = 10))) ∧
    (∃ (s : Machine.State), Machine.rb s .CLK_GATE 4 = true ∧ hasScope s 0 = true ∧ hasScope s 1 = true ∧ hasScope s 3 = true ∧
      s.sil.state = 4) ∧
    (∃ (n : Nat) (s : Machine.State), Machine.rb s .DBG_SIL_BP 0 n = true ∧ s.sil.state ≠ 4) :=
  ⟨⟨255, dbgUp 3, by decide +kernel⟩,
   ⟨1, { dbgUp 7 with dbg.halting := 3 }, by decide +kernel⟩,
   ⟨.dbgHalt 0x101, 0x101, dbgUp 3, by decide +kernel⟩,
   ⟨.dbgHalt 0x101, 0x101, wr .CLK_GATE 0 0 (dbgUp 3), by decide +kernel⟩,
   ⟨47, { dbgUp 7 with dbg.halting := 2 ^ 47 }, by decide +kernel⟩,
   ⟨dbgUp 11, by decide +kernel⟩,
   ⟨dbgUp 11, by decide +kernel⟩,
   ⟨{ dbgUp 11 with sil.state := 4 }, by decide +kernel⟩,
   ⟨{ dbgUp 11 with sil.state := 4 }, by decide +kernel⟩,
   ⟨3, wr .DBG_SIL_BP 3 0x80001 (dbgUp 11), by decide +kernel⟩⟩

theorem test_wit_SpyholePortCommands :
    (∃ (s : Machine.State), s.dbg.boundary = false) ∧
    (∃ (s : Machine.State), s.dbg.boundary = false) ∧
    (∃ (s : Machine.State) (d : _) (c : _), s.dbg.boundary = false ∧ s.board.tripped = false ∧ s.pkg.coldRunning = false ∧
      c ∈ [Instr.extest d, .clamp, .highz]) ∧
    (∃ (s : Machine.State), s.dbg.boundary = true ∧ s.pkg.coldRunning = false ∧ mustTell s 1 = false ∧ s.pkg.next = none) ∧
    (∃ (s : Machine.State), s.dbg.boundary = false ∧ s.dbg.limited = false) ∧
    (∃ (s : Machine.State), s.dbg.boundary = false ∧ s.dbg.limited = true) ∧
    (∃ (s : Machine.State), s.dbg.boundary = false ∧ s.dbg.verify = none ∧ s.dbg.limited = true) ∧
    (∃ (s : Machine.State), s.dbg.boundary = false ∧ s.dbg.verify = none ∧ s.dbg.limited = false ∧ silUp s = false) ∧
    (∃ (s : Machine.State), s.dbg.boundary = false ∧ s.dbg.verify = none ∧ s.dbg.limited = false ∧ silUp s = true) ∧
    (∃ (scope : Nat) (fpr : Nat) (r : Nat) (s : Machine.State), s.dbg.verify = some (scope, fpr, r) ∧ r = 1) ∧
    (∃ (scope : Nat) (fpr : Nat) (r : Nat) (s : Machine.State), s.dbg.verify = some (scope, fpr, r) ∧ r ≠ 1 ∧ r < 8) ∧
    (∃ (s : Machine.State), s.dbg.limited = true) ∧
    (∃ (s : Machine.State), s.dbg.boundary = false ∧ s.dbg.scope ≠ 0 ∧ s.dbg.busy ≠ none) ∧
    (∃ (v : Nat) (s : Machine.State), s.dbg.boundary = false ∧ s.dbg.scope ≠ 0 ∧ s.dbg.busy = none ∧ bitsOf v 53 52 ≠ 1) ∧
    (∃ (v : Nat) (s : Machine.State), s.dbg.boundary = false ∧ s.dbg.scope ≠ 0 ∧ s.dbg.busy = none ∧ bitsOf v 53 52 = 1 ∧
      bitsOf v 51 48 ≤ 1 ∧ hasScope s 0 = true) ∧
    (∃ (s : Machine.State), s.dbg.boundary = false) ∧
    (∃ (s : Machine.State), s.dbg.boundary = false ∧ s.dbg.op = 2 ∧ s.dbg.busy = none ∧ s.dbg.space = 1 ∧ hasScope s 0 = true ∧
      hasScope s 1 = true ∧ s.dbg.scope ≠ 0) ∧
    (∃ (write : Bool) (data : Nat) (s : Machine.State), s.dbg.busy = some (write, data) ∧ s.dbg.space = 1 ∧ s.dbg.addr % 4 = 0 ∧
      judge s .pf s.dbg.addr 4 = none ∧ hubDown s s.dbg.addr 4 = none ∧ anyPoison s s.dbg.addr 4 = false) ∧
    (∃ (write : Bool) (data : Nat) (s : Machine.State), s.dbg.busy = some (write, data) ∧ s.dbg.space = 3 ∧ s.sil.state = 4 ∧
      s.dbg.addr = 32) ∧
    (∃ (write : Bool) (data : Nat) (s : Machine.State), s.dbg.busy = some (write, data) ∧ s.dbg.space ≤ 3) :=
  ⟨⟨up, by decide +kernel⟩,
   ⟨up, by decide +kernel⟩,
   ⟨up, 9, Instr.extest 9, by decide +kernel⟩,
   ⟨{ up with dbg.boundary := true, dbg.ir := 3 }, by decide +kernel⟩,
   ⟨up, by decide +kernel⟩,
   ⟨{ up with dbg.limited := true }, by decide +kernel⟩,
   ⟨{ up with dbg.limited := true }, by decide +kernel⟩,
   ⟨{ up with sil.state := 2 }, by decide +kernel⟩,
   ⟨up, by decide +kernel⟩,
   ⟨9, 5, 1, { up with dbg.verify := some (9, 5, 1), dbg.fails := 2 }, by decide +kernel⟩,
   ⟨9, 5, 7, { up with dbg.verify := some (9, 5, 7), dbg.fails := 2 }, by decide +kernel⟩,
   ⟨{ up with dbg.limited := true, dbg.fails := 3 }, by decide +kernel⟩,
   ⟨{ dbgUp 3 with dbg.busy := some (false, 0) }, by decide +kernel⟩,
   ⟨2 ^ 53 + 2 ^ 54 + 0x1000, dbgUp 1, by decide +kernel⟩,
   ⟨2 ^ 52 + 2 ^ 48 + 0x1000, dbgUp 1, by decide +kernel⟩,
   ⟨dbgUp 1, by decide +kernel⟩,
   ⟨{ dbgUp 3 with dbg.op := 2, dbg.space := 1 }, by decide +kernel⟩,
   ⟨true, 0xDEADBEEF, { dbgUp 3 with dbg.busy := some (true, 0xDEADBEEF), dbg.space := 1, dbg.addr := 0x1000, dbg.inc := true },
     by decide +kernel⟩,
   ⟨true, 0x1234, { dbgUp 15 with dbg.busy := some (true, 0x1234), dbg.space := 3, dbg.addr := 32, sil.state := 4 },
     by decide +kernel⟩,
   ⟨false, 0, { dbgUp 3 with dbg.busy := some (false, 0), dbg.space := 3, dbg.addr := 2 ^ 48 - 4, dbg.inc := true },
     by decide +kernel⟩⟩

theorem test_wit_HostInterfaceEvents :
    (∃ (off : Nat) (n : Nat) (s : Machine.State), bar4Hit s off n = true ∧ bar4Err (bar4Base s + off) n false s = none ∧
      anyPoison s (bar4Base s + off) n = false) ∧
    (∃ (off : Nat) (n : Nat) (s : Machine.State), bar4Hit s off n = true ∧ bar4Err (bar4Base s + off) n false s = none ∧
      anyPoison s (bar4Base s + off) n = true) ∧
    (∃ (off : Nat) (n : Nat) (s : Machine.State) (c : _) (u : _), bar4Err (bar4Base s + off) n false s = some (c, u) ∧
      bar4Hit s off n = true) ∧
    (∃ (off : Nat) (n : Nat) (s : Machine.State) (bytes : List Byte), bar4Hit s off n = true ∧ bytes.length = n ∧
      bar4Err (bar4Base s + off) n true s = none ∧ anyPoison s (bar4Base s + off) n = false) ∧
    (∃ (off : Nat) (n : Nat) (s : Machine.State) (bytes : List Byte), bar4Hit s off n = true ∧ bytes.length = n ∧
      bar4Err (bar4Base s + off) n true s = none ∧ wrRefused s (bar4Base s + off) n = true) ∧
    (∃ (off : Nat) (n : Nat) (s : Machine.State) (bytes : List Byte) (c : _) (u : _),
      bar4Err (bar4Base s + off) n true s = some (c, u) ∧ bar4Hit s off n = true ∧ bytes.length = n) ∧
    (∃ (log2 : Nat) (s : Machine.State), s.pcie.linkUp = true ∧ 28 ≤ log2 ∧ log2 ≤ 37) ∧
    (∃ (fn : Nat) (vec : Nat) (s : Machine.State), s.pcie.linkUp = true ∧ fnThere s fn = true ∧ vec < vecCount fn) ∧
    (∃ (k : Nat) (s : Machine.State), s.pcie.linkUp = true ∧ 1 ≤ k ∧ k < 32 ∧ fnThere s k = true) ∧
    (∃ (s : Machine.State), s.pcie.linkUp = true) ∧
    (∃ (s : Machine.State), s.pcie.linkUp = false) ∧
    (∃ (fn : Nat) (s : Machine.State), s.pcie.linkUp = true ∧ fnThere s fn = true) ∧
    (∃ (fn : Nat) (s : Machine.State), s.pcie.linkUp = true ∧ fnThere s fn = true ∧ (fnOf s fn).ecrcCheck = true) ∧
    (∃ (fn : Nat) (s : Machine.State), s.pcie.linkUp = true ∧ fnThere s fn = true ∧ (fnOf s fn).ecrcCheck = false) ∧
    (∃ (fn : Nat) (s : Machine.State), s.pcie.linkUp = true ∧ fnThere s fn = true) ∧
    (∃ (fn : Nat) (s : Machine.State), s.pcie.linkUp = true ∧ fnThere s fn = true) ∧
    (∃ (fn : Nat) (s : Machine.State) (q : _), fn < 32 ∧ q < 64 ∧ (queueOf s (qkOf fn q)).st = 1) ∧
    (∃ (s : Machine.State) (h : _) (g : _) (c : _), genOf s h = some g ∧ cmdOf s h = some c ∧ g.waits = true ∧ g.pfx = none) ∧
    (∃ (s : Machine.State) (h : _) (c : _), cmdOf s h = some c ∧ c.run = false ∧ mayStart s c = true) ∧
    (∃ (s : Machine.State) (u : UpdSession), s.sil.session = some u ∧ u.phase = 1) ∧
    (∃ (s : Machine.State), sessionOpen s = false ∧ leAt (reqBytes s) 0 2 = 0x50) :=
  ⟨⟨0x1000, 8, barUp, by decide +kernel⟩,
   ⟨0x1000, 8, { barUp with poison := [(bar4Base up + 0x1000, 1)] }, by decide +kernel⟩,
   ⟨0x1000, 8, wr .HUB_HOST_CFG 0 0 up, 2, ((bar4Err (bar4Base up + 0x1000) 8 false (wr .HUB_HOST_CFG 0 0 up)).getD (0, up)).2,
     (by rfl), by decide +kernel⟩,
   ⟨0x1000, 3, barUp, ([1, 2, 3] : List Byte), by decide +kernel⟩,
   ⟨0x1000, 3, { barUp with poison := [(0x1000, 1)] }, ([1, 2, 3] : List Byte), by decide +kernel⟩,
   ⟨0x1000, 3, wr .HUB_HOST_CFG 0 3 up, ([1, 2, 3] : List Byte), 2,
     ((bar4Err (bar4Base up + 0x1000) 3 true (wr .HUB_HOST_CFG 0 3 up)).getD (0, up)).2, (by rfl), by decide +kernel⟩,
   ⟨37, up, by decide +kernel⟩,
   ⟨0, 2047, { up with fns := [(0, { msixEn := true, pend := [(2047, 1)] })] }, by decide +kernel⟩,
   ⟨31, { up with pcie.vfEnable := true, pcie.numVfs := 31, pcie.ari := true }, by decide +kernel⟩,
   ⟨up, by decide +kernel⟩,
   ⟨{ up with pcie.linkUp := false }, by decide +kernel⟩,
   ⟨0, up, by decide +kernel⟩,
   ⟨0, { up with fns := [(0, { ecrcCheck := true })] }, by decide +kernel⟩,
   ⟨0, up, by decide +kernel⟩,
   ⟨0, up, by decide +kernel⟩,
   ⟨0, up, by decide +kernel⟩,
   ⟨31, { up with queues := [(2047, { st := 1 })] }, 63, by decide +kernel⟩,
   ⟨genUp { genS with waits := true }, 3, { genS with waits := true }, { mkCmd 0x13 (some 0) [] with run := true },
     by decide +kernel⟩,
   ⟨cmdOn up (mkCmd 0x31 none []), 3, mkCmd 0x31 none [], by decide +kernel⟩,
   ⟨{ up with sil.session := some { phase := 1 } }, { phase := 1 }, by decide +kernel⟩,
   ⟨wr .SIL_MBX_REQ 0 0x50 up, by decide +kernel⟩⟩

theorem test_wit_AttestationCommands :
    (∃ (s : Machine.State), s.pcie.linkUp = true ∧ s.sil.state = 1) ∧
    (∃ (s : Machine.State), s.pcie.linkUp = true ∧ s.sil.state = 1) ∧
    (∃ (s : Machine.State), s.pcie.linkUp = true ∧ s.sil.state = 1 ∧ 1 ≤ s.pcie.spdm) ∧
    (∃ (s : Machine.State), s.pcie.linkUp = true ∧ s.sil.state = 1 ∧ 2 ≤ s.pcie.spdm) ∧
    (∃ (s : Machine.State), s.pcie.linkUp = true ∧ s.sil.state = 1 ∧ 3 ≤ s.pcie.spdm) ∧
    (∃ (s : Machine.State) (slot : _) (off : Nat), off ≤ (chainOf s slot).length ∧ s.pcie.linkUp = true ∧ s.sil.state = 1 ∧
      3 ≤ s.pcie.spdm ∧ slot < 2) ∧
    (∃ (s : Machine.State) (slot : _) (off : Nat), s.pcie.linkUp = true ∧ s.sil.state = 1 ∧ 3 ≤ s.pcie.spdm ∧
      (2 ≤ slot ∨ (chainOf s slot).length < off)) ∧
    (∃ (s : Machine.State) (slot : _), s.pcie.linkUp = true ∧ s.sil.state = 1 ∧ 3 ≤ s.pcie.spdm ∧ slot < 2 ∧
      s.dbg.keysErased = false) ∧
    (∃ (s : Machine.State) (i : Nat), s.pcie.linkUp = true ∧ s.sil.state = 1 ∧ 3 ≤ s.pcie.spdm ∧ 1 ≤ i ∧ i < 8) ∧
    (∃ (s : Machine.State), s.pcie.linkUp = true ∧ s.sil.state = 1 ∧ 3 ≤ s.pcie.spdm) ∧
    (∃ (s : Machine.State) (slot : _), s.pcie.linkUp = true ∧ s.sil.state = 1 ∧ 3 ≤ s.pcie.spdm ∧ slot < 2 ∧
      s.dbg.keysErased = true) ∧
    (∃ (s : Machine.State) (slot : _) (i : Nat), s.pcie.linkUp = true ∧ s.sil.state = 1 ∧ 3 ≤ s.pcie.spdm ∧ slot < 2 ∧
      s.dbg.keysErased = true ∧ i < 8) ∧
    (∃ (s : Machine.State), s.pcie.linkUp = true ∧ s.sil.state = 1 ∧ s.pcie.spdm < 3) ∧
    (∃ (s : Machine.State), s.pcie.linkUp = true ∧ s.sil.state = 1 ∧ s.pcie.spdm < 3) ∧
    (∃ (s : Machine.State), s.pcie.linkUp = true ∧ s.sil.state = 1 ∧ s.pcie.spdm < 3) ∧
    (∃ (c : Instr) (s : Machine.State), s.pcie.linkUp = true ∧ s.sil.state ≠ 1 ∧
      c ∈ [Instr.getVersion, .getCapabilities, .getDigests]) :=
  ⟨⟨up, by decide +kernel⟩,
   ⟨up, by decide +kernel⟩,
   ⟨{ up with pcie.spdm := 1 }, by decide +kernel⟩,
   ⟨{ up with pcie.spdm := 2 }, by decide +kernel⟩,
   ⟨{ up with pcie.spdm := 3 }, by decide +kernel⟩,
   ⟨{ up with pcie.spdm := 3 }, 1, 0, (by exact Nat.zero_le _), by decide +kernel⟩,
   ⟨{ up with pcie.spdm := 3 }, 2, 0, by decide +kernel⟩,
   ⟨{ up with pcie.spdm := 3 }, 1, by decide +kernel⟩,
   ⟨{ up with pcie.spdm := 3 }, 7, by decide +kernel⟩,
   ⟨{ up with pcie.spdm := 3 }, by decide +kernel⟩,
   ⟨{ up with pcie.spdm := 3, dbg.keysErased := true }, 1, by decide +kernel⟩,
   ⟨{ up with pcie.spdm := 3, dbg.keysErased := true }, 1, 7, by decide +kernel⟩,
   ⟨{ up with pcie.spdm := 2 }, by decide +kernel⟩,
   ⟨{ up with pcie.spdm := 2 }, by decide +kernel⟩,
   ⟨{ up with pcie.spdm := 2 }, by decide +kernel⟩,
   ⟨Instr.getVersion, { up with sil.state := 2 }, by decide +kernel⟩⟩

theorem test_wit_RegisterWrites :
    (∃ (src : Src) (off : Nat) (v : Nat) (p : Place2) (s : Machine.State), srcThere s src = true ∧ off % 4 = 0 ∧
      decodeBar0 off = some p ∧ meets s src p true = .ok ∧ (p.inst s .bar0) < 2 ^ 20 ∧ v < 2 ^ 32 ∧ p.reg.desc.win ≠ .blk 15 ∧
      p.reg.desc.acc.rwb = 0 ∧ p.reg.desc.acc.rwm = 0 ∧ p.reg.desc.acc.rwl = 0 ∧ hiOfRw p.reg = none ∧ loOfRw p.reg = none ∧
      reservedFields p.reg v = 0 ∧ crossBad p.reg v = none ∧
      p.reg ∉ [.HUB_UPD_STROBE, .HUB_VF_BIND, .HUB_GPIO_CTRL, .QM_Q_CFG, .SET_MIN_SVN, .NET_PORT_CFG, .RST_REQ, .RST_FENCE_HOST, .CHK_RATE, .CHK_SCAN_CTRL, .CAL_UTC, .CAL_WEAR_SEL, .SIL_MBX_CTRL, .CLK_GATE, .PWR_PT_REQ, .MADC_CHSEL, .RST_SPLIT]) ∧
    (∃ (src : Src) (off : Nat) (size : Nat) (full : Bool) (s : Machine.State), srcThere s src = true ∧ sizeOk off size full = false) ∧
    (∃ (src : Src) (off : Nat) (s : Machine.State), srcThere s src = true ∧ off % 4 = 0 ∧ decodeBar0 off = none) ∧
    (∃ (src : Src) (s : Machine.State), srcThere s src = true) ∧
    (∃ (src : Src) (g : Nat) (s : Machine.State), g < 16 ∧ srcThere s src = true ∧
      (s.rwb.filter fun e => blockGrp s (rwbBlock e.1) == g) = []) ∧
    (∃ (src : Src) (g : Nat) (s : Machine.State), g < 16 ∧ srcThere s src = true ∧
      (s.rwb.filter fun e => blockGrp s (rwbBlock e.1) == g) ≠ []) ∧
    (∃ (b : Nat) (x : Strobe) (rest : List Strobe) (s : Machine.State), s.strobes = x :: rest ∧ b ∉ x.blocks) ∧
    (∃ (b : Nat) (x : Strobe) (rest : List Strobe) (s : Machine.State), s.strobes = x :: rest ∧ b ∈ x.blocks ∧
      (∀ e ∈ x.writes, rwbBlock e.1 ≠ b) ∧ x.blocks.filter (· != b) ≠ []) ∧
    (∃ (b : Nat) (x : Strobe) (rest : List Strobe) (s : Machine.State), s.strobes = x :: rest ∧ x.blocks = [b] ∧
      (∀ e ∈ x.writes, e.1 / 2 ^ 20 ≠ Reg.HUB_UPD_CNT.ctorIdx)) ∧
    (∃ (src : Src) (k : Nat) (s : Machine.State), srcThere s src = true ∧ k < 32 ∧ vfIdle s k = true) ∧
    (∃ (src : Src) (k : Nat) (s : Machine.State), srcThere s src = true ∧ k < 32 ∧ vfIdle s k = false) ∧
    (∃ (src : Src) (k : Nat) (v : Word) (s : Machine.State), srcThere s src = true ∧ k < 8 ∧ Machine.rb s .SET_LOCK 0 = false ∧
      v.toNat < (rd s .SET_MIN_SVN k).toNat) ∧
    (∃ (src : Src) (k : Nat) (v : Word) (s : Machine.State), srcThere s src = true ∧ k < 8 ∧ Machine.rb s .SET_LOCK 0 = false ∧
      (rd s .SET_MIN_SVN k).toNat ≤ v.toNat) ∧
    (∃ (src : Src) (k : Nat) (v : Word) (s : Machine.State), srcThere s src = true ∧ k < 8 ∧ Machine.rb s .SET_LOCK 0 = true ∧
      v ≠ rd s .SET_MIN_SVN k) ∧
    (∃ (src : Src) (s : Machine.State), srcThere s src = true ∧ disciplined s = false) ∧
    (∃ (src : Src) (s : Machine.State), srcThere s src = true ∧ disciplined s = true) ∧
    (∃ (src : Src) (v : Word) (s : Machine.State), srcThere s src = true ∧ bitsOf v.toNat 13 0 < 12288) :=
  ⟨⟨.silset, 0x80004, 0x01110001, { reg := .CAL_SCHED }, up, by decide +kernel⟩,
   ⟨.host 0, 0x80002, 4, true, up, by decide +kernel⟩,
   ⟨.host 0, 0xFFFFC, up, by decide +kernel⟩,
   ⟨.host 0, up, by decide +kernel⟩,
   ⟨.silset, 15, up, by decide +kernel⟩,
   ⟨.silset, 15, { wr .CL_CFG 0 15 up with rwb := [(regKey .TILE_LCFG 0, { val := 1, mask := 1 })] }, by decide +kernel⟩,
   ⟨5, { grp := 1, blocks := [1, 2], writes := [] }, [], { up with strobes := [{ grp := 1, blocks := [1, 2], writes := [] }] },
     by decide +kernel⟩,
   ⟨1, { grp := 1, blocks := [1, 2], writes := [] }, [], { up with strobes := [{ grp := 1, blocks := [1, 2], writes := [] }] },
     by decide +kernel⟩,
   ⟨1, { grp := 1, blocks := [1], writes := [] }, [{ grp := 2, blocks := [], writes := [] }],
     { up with strobes := [{ grp := 1, blocks := [1], writes := [] }, { grp := 2, blocks := [], writes := [] }] },
     by decide +kernel⟩,
   ⟨.silset, 31, up, by decide +kernel⟩,
   ⟨.silset, 31, { up with queues := [(31 * 64, { st := 1 })] }, by decide +kernel⟩,
   ⟨.silset, 7, 4, wr .SET_MIN_SVN 7 5 up, by decide +kernel⟩,
   ⟨.silset, 7, 5, wr .SET_MIN_SVN 7 5 up, by decide +kernel⟩,
   ⟨.silset, 7, 5, wr .SET_LOCK 0 1 (wr .SET_MIN_SVN 7 6 up), by decide +kernel⟩,
   ⟨.silset, up, by decide +kernel⟩,
   ⟨.silset, { wr .NET_CTRL 0 4 (wr .CLK_GATE 0 8 up) with ptp.locked := true }, by decide +kernel⟩,
   ⟨.silset, 0xEFFF, up, by decide +kernel⟩⟩

theorem test_wit_RegisterPairs :
    (∃ (src : Src) (off : Nat) (p : Place2) (s : Machine.State), srcThere s src = true ∧ off % 4 = 0 ∧ decodeBar0 off = some p ∧
      meets s src p false = .ok ∧ tget 0 s.latched (pairKey src p.reg (p.inst s .bar0)) = 0 ∧ hiOfRo p.reg = none) ∧
    (∃ (src : Src) (off : Nat) (p : Place2) (s : Machine.State) (hi : _), srcThere s src = true ∧ off % 4 = 0 ∧
      decodeBar0 off = some p ∧ meets s src p false = .ok ∧ tget 0 s.latched (pairKey src p.reg (p.inst s .bar0)) = 0 ∧
      hiOfRo p.reg = some hi) ∧
    (∃ (src : Src) (off : Nat) (p : Place2) (s : Machine.State) (w : Word), srcThere s src = true ∧ off % 4 = 0 ∧
      decodeBar0 off = some p ∧ meets s src p false = .ok ∧ tget 0 s.latched (pairKey src p.reg (p.inst s .bar0)) = w.toNat + 1) ∧
    (∃ (src : Src) (off : Nat) (s : Machine.State), srcThere s src = true ∧ off % 4 = 0 ∧ decodeBar0 off = none) ∧
    (∃ (src : Src) (off : Nat) (s : Machine.State) (size : _) (full : _), srcThere s src = true ∧ sizeOk off size full = false) ∧
    (∃ (src : Src) (off : Nat) (p : Place2) (q : Place2) (s : Machine.State), srcThere s src = true ∧ off % 8 = 0 ∧
      decodeBar0 off = some p ∧ decodeBar0 (off + 4) = some q ∧ meets s src p false = .ok ∧ meets s src q false = .ok ∧
      tget 0 s.latched (pairKey src p.reg (p.inst s .bar0)) = 0 ∧ hiOfRo p.reg = some q.reg ∧ q.inst s .bar0 = (p.inst s .bar0)) ∧
    (∃ (src : Src) (fn : Nat) (s : Machine.State), srcThere s src = true ∧ fnThere s fn = true) ∧
    (∃ (src : Src) (off : Nat) (v : Nat) (x : Nat) (p : Place2) (lo : Reg) (hi : Reg) (s : Machine.State), srcThere s src = true ∧
      off % 4 = 0 ∧ decodeBar0 off = some p ∧ meets s src p true = .ok ∧ v < 2 ^ 32 ∧ x < 2 ^ 32 ∧
      (lo, hi) ∈ [(Reg.QM_SQ_BASE_LO, Reg.QM_SQ_BASE_HI), (.QM_RQ_BASE_LO, .QM_RQ_BASE_HI), (.NET_PORT_MAC_LO, .NET_PORT_MAC_HI)] ∧
      (p.inst s .bar0) < 2 ^ 20 ∧ baseLocked s p.reg (p.inst s .bar0) = false ∧ p.reg = lo) ∧
    (∃ (src : Src) (off : Nat) (v : Nat) (x : Nat) (p : Place2) (lo : Reg) (hi : Reg) (s : Machine.State), srcThere s src = true ∧
      off % 4 = 0 ∧ decodeBar0 off = some p ∧ meets s src p true = .ok ∧ v < 2 ^ 32 ∧ x < 2 ^ 32 ∧
      (lo, hi) ∈ [(Reg.QM_SQ_BASE_LO, Reg.QM_SQ_BASE_HI), (.QM_RQ_BASE_LO, .QM_RQ_BASE_HI), (.NET_PORT_MAC_LO, .NET_PORT_MAC_HI)] ∧
      (p.inst s .bar0) < 2 ^ 20 ∧ baseLocked s p.reg (p.inst s .bar0) = false ∧ p.reg = hi ∧
      tget 0 s.heldLo (pairKey src lo (p.inst s .bar0)) = x + 1) :=
  ⟨⟨.silset, 0x80004, { reg := .CAL_SCHED }, up, by decide +kernel⟩,
   ⟨.silset, Reg.HUB_TIME_LO.desc.off, { reg := .HUB_TIME_LO }, { up with now := 2 ^ 33 + 5 }, Reg.HUB_TIME_HI, by decide +kernel⟩,
   ⟨.silset, Reg.HUB_TIME_HI.desc.off, { reg := .HUB_TIME_HI },
     { up with now := 2 ^ 33 + 5, latched := [(pairKey .silset .HUB_TIME_HI 0, 3)] }, 2, by decide +kernel⟩,
   ⟨.host 0, 0xFFFFC, up, by decide +kernel⟩,
   ⟨.host 0, 0x80005, up, 4, true, by decide +kernel⟩,
   ⟨.silset, Reg.HUB_TIME_LO.desc.off, { reg := .HUB_TIME_LO }, { reg := .HUB_TIME_HI }, { up with now := 2 ^ 33 + 5 },
     by decide +kernel⟩,
   ⟨.host 0, 0, up, by decide +kernel⟩,
   ⟨.host 0, 0x11000, 0xFFFFFFFF, 0, { reg := .QM_SQ_BASE_LO }, .QM_SQ_BASE_LO, .QM_SQ_BASE_HI, up, by decide +kernel⟩,
   ⟨.host 0, 0x11004, 0xFFFFFFFF, 0xFFFFFFC0, { reg := .QM_SQ_BASE_HI }, .QM_SQ_BASE_LO, .QM_SQ_BASE_HI,
     { up with heldLo := [(pairKey (.host 0) .QM_SQ_BASE_LO 0, 0xFFFFFFC1)] }, by decide +kernel⟩⟩

theorem test_wit_MailboxCommands :
    (∃ (s : Machine.State), s.sil.state = 1) ∧
    (∃ (s : Machine.State), s.sil.state = 1) ∧
    (∃ (s : Machine.State), s.sil.state = 1 ∧ sessionOpen s = true) ∧
    (∃ (s : Machine.State) (len : Nat), s.sil.state = 1 ∧ sessionOpen s = false ∧ (len = 0 ∨ 0x800000 < len)) ∧
    (∃ (s : Machine.State) (len : Nat), s.sil.state = 1 ∧ sessionOpen s = false ∧ 0 < len ∧ len ≤ 0x800000) ∧
    (∃ (s : Machine.State), s.sil.state = 1 ∧ sessionOpen s = false ∧
      ((fun (t : Machine.State) => fwSlot t (!s.sil.slot)) s).state = 1) ∧
    (∃ (s : Machine.State), s.sil.state = 1 ∧ sessionOpen s = false ∧
      ((fun (t : Machine.State) => fwSlot t (!s.sil.slot)) s).state ≠ 1) ∧
    (∃ (s : Machine.State) (mgmt : Bool), s.sil.state = 1 ∧ keysAllowed s mgmt = false) ∧
    (∃ (s : Machine.State) (mgmt : Bool) (pub : _) (sig : _), s.sil.state = 1 ∧ keysAllowed s mgmt = true ∧ s.sil.anchorsUsed < 8 ∧
      (s.sil.commissioned = false ∨ keySigOk s 0x0030 0 pub sig = true) ∧ s.sil.keys.length < 8) ∧
    (∃ (s : Machine.State) (mgmt : Bool), s.sil.state = 1 ∧ keysAllowed s mgmt = true ∧ s.fuses.locked = false ∧
      s.sil.commissioned = false ∧ s.sil.ownerKey = none) ∧
    (∃ (s : Machine.State) (mgmt : Bool) (i : Nat), s.sil.state = 1 ∧ keysAllowed s mgmt = true ∧ s.sil.keys[i]? = none) ∧
    (∃ (s : Machine.State) (mgmt : Bool) (i : Nat) (k : ImgKey), s.sil.state = 1 ∧ keysAllowed s mgmt = true ∧
      s.sil.keys[i]? = some k ∧ k.revoked = false ∧ s.sil.anchorsUsed < 8 ∧ s.sil.commissioned = false) ∧
    (∃ (s : Machine.State), s.sil.state = 1 ∧ s.sil.keys.length ≤ 8) ∧
    (∃ (s : Machine.State) (mgmt : Bool), s.sil.state = 1 ∧ keysAllowed s mgmt = true) ∧
    (∃ (s : Machine.State) (bytes : List Byte), s.sil.state = 1 ∧ sessionOpen s = false ∧ s.sil.flashOk = true ∧ bytes ≠ [] ∧
      bytes.length ≤ 0x2000000) ∧
    (∃ (tag : Nat) (x : Nat) (y : Nat) (b : Bool) (data : List Nat) (c : Instr) (s : Machine.State), s.sil.state = 3 ∧
      c ∈ [Instr.logRead tag x b, .keyEnroll b tag x y y, .keyRevoke b tag x y, .keyList tag, .commission b tag x, .scanWrite tag x data]) ∧
    (∃ (tag : Nat) (x : Nat) (y : Nat) (b : Bool) (b' : Bool) (data : List Nat) (c : Instr) (s : Machine.State), silUp s = false ∧
      c ∈ [Instr.getInfo tag, .logRead tag x b, .fwStage tag x y, .fwStatus tag, .fwActivate tag b b', .keyEnroll b tag x y y, .keyRevoke b tag x y, .keyList tag, .commission b tag x, .scanWrite tag x data]) :=
  ⟨⟨{ up with sil.slotB := { state := 1, version := 7, svn := 3 } }, by decide +kernel⟩,
   ⟨{ up with sil.log := [{ seq := 3 }, { seq := 2, cls := 4 }, { seq := 1, code := 9 }] }, by decide +kernel⟩,
   ⟨{ up with sil.session := some { phase := 1 } }, by decide +kernel⟩,
   ⟨up, 0x800001, by decide +kernel⟩,
   ⟨up, 0x800000, by decide +kernel⟩,
   ⟨{ up with sil.slotB := { state := 1, svn := 6 } }, by decide +kernel⟩,
   ⟨{ up with sil.slotB := { svn := 6 } }, by decide +kernel⟩,
   ⟨wr .SIL_CTRL 0 0 up, false, by decide +kernel⟩,
   ⟨{ up with sil.anchorsUsed := 7 }, false, 9, 9, by decide +kernel⟩,
   ⟨up, false, by decide +kernel⟩,
   ⟨up, false, 0, by decide +kernel⟩,
   ⟨{ up with sil.keys := [{ fpr := 4, pub := 5 }] }, false, 0, { fpr := 4, pub := 5 }, by decide +kernel⟩,
   ⟨{ up with sil.keys := [{ fpr := 0x0102030405060708, pub := 5 }] }, by decide +kernel⟩,
   ⟨up, false, by decide +kernel⟩,
   ⟨up, ([1, 2] : List Nat), by decide +kernel⟩,
   ⟨5, 1, 1, false, [1], Instr.keyList 5, { up with sil.state := 3 }, by decide +kernel⟩,
   ⟨5, 1, 1, false, true, [1], Instr.fwStatus 5, { up with sil.state := 0 }, by decide +kernel⟩⟩

theorem test_wit_SilsetStartAndFlash :
    (∃ (s : Machine.State), s.sil.state ≠ 4) ∧
    (∃ (s : Machine.State), s.sil.state = 4) ∧
    (∃ (okA : Bool) (okB : Bool) (s : Machine.State), (s.sil.state = 2 ∨ s.sil.state = 0 ∧ rf s .CLK_STAT 14 12 = 2) ∧
      slotBoots s false okA = false ∧ slotBoots s true okB = false) ∧
    (∃ (s : Machine.State), s.sil.state ≠ 2 ∧ (s.sil.state ≠ 0 ∨ rf s .CLK_STAT 14 12 ≠ 2)) ∧
    (∃ (s : Machine.State), nextJob s = none) ∧
    (∃ (s : Machine.State), nextJob s = some .stateStore) ∧
    (∃ (s : Machine.State) (tl : Nat), nextJob s = some (.startPage [tl])) ∧
    (∃ (s : Machine.State), nextJob s = some .mirrorPage) ∧
    (∃ (s : Machine.State) (tl : Nat) (w : Wear), nextJob s = some (.donePage [(tl, w)])) ∧
    (∃ (s : Machine.State) (n : Nat) (u : UpdSession), nextJob s = some (.staging n) ∧ s.sil.session = some u) ∧
    (∃ (s : Machine.State) (n : Nat) (u : UpdSession), nextJob s = some (.staging n) ∧ s.sil.session = some u ∧
      3 ≤ s.sil.flashTries) ∧
    (∃ (s : Machine.State), nextJob s ≠ none ∧ s.sil.flashTries < 3) ∧
    (∃ (s : Machine.State) (j : FlashJob), nextJob s = some j ∧ jobRank j ≠ 5 ∧ 3 ≤ s.sil.flashTries) ∧
    (∃ (s : Machine.State), sessionOpen s = true) ∧
    (∃ (s : Machine.State), sessionOpen s = false) :=
  ⟨⟨up, by decide +kernel⟩,
   ⟨{ up with sil.state := 4 }, by decide +kernel⟩,
   ⟨false, false, { up with sil.state := 2 }, by decide +kernel⟩,
   ⟨{ up with sil.state := 0, regs := [(regKey .CLK_STAT 0, 0)] }, by decide +kernel⟩,
   ⟨up, by decide +kernel⟩,
   ⟨{ up with sil.flashQ := [.stateStore] }, by decide +kernel⟩,
   ⟨{ up with sil.flashQ := [.startPage [49151]] }, 49151, by decide +kernel⟩,
   ⟨{ up with sil.mirrorQ := [{}] }, by decide +kernel⟩,
   ⟨{ up with sil.flashQ := [.donePage [(49151, {})]] }, 49151, {}, by decide +kernel⟩,
   ⟨{ up with sil.flashQ := [.staging 64], sil.session := some { phase := 1 } }, 64, { phase := 1 }, by decide +kernel⟩,
   ⟨{ up with sil.flashQ := [.staging 64], sil.session := some { phase := 1 }, sil.flashTries := 3 }, 64, { phase := 1 },
     by decide +kernel⟩,
   ⟨{ up with sil.flashQ := [.stateStore], sil.flashTries := 2 }, by decide +kernel⟩,
   ⟨{ up with sil.flashQ := [.stateStore], sil.flashTries := 3 }, .stateStore, by decide +kernel⟩,
   ⟨{ up with sil.session := some { phase := 1 } }, by decide +kernel⟩,
   ⟨up, by decide +kernel⟩⟩

theorem test_wit_ManagementBusCommands :
    (∃ (eid : _), eid ≠ 0 ∧ eid ≠ 0xFF) ∧
    (∃ (s : Machine.State), s.sil.state = 1) ∧
    (∃ (s : Machine.State), s.sil.state = 1) ∧
    (∃ (ty : Nat) (eid : Nat) (on : Bool) (c : Instr) (s : Machine.State), s.sil.state ≠ 1 ∧
      c ∈ [Instr.gettid, .getpldmversion ty, .getpldmtypes, .getpldmcommands ty, .seteventreceiver on eid]) ∧
    (∃ (s : Machine.State), silUp s = true ∧ sessionOpen s = true) ∧
    (∃ (s : Machine.State), silUp s = true ∧ sessionOpen s = false) ∧
    (∃ (s : Machine.State), silUp s = true ∧ s.sil.session = none) ∧
    (∃ (s : Machine.State) (u : UpdSession), silUp s = true ∧ s.sil.session = some u ∧ u.path = 1 ∧ u.phase = 1) ∧
    (∃ (s : Machine.State) (u : UpdSession), silUp s = true ∧ s.sil.session = some u ∧ u.path = 1 ∧ u.phase ≠ 1 ∧
      (fwSlot s (!s.sil.slot)).state = 1) ∧
    (∃ (s : Machine.State), silUp s = true ∧ (fwSlot s (!s.sil.slot)).state ≠ 1) :=
  ⟨⟨0xFE, by decide +kernel⟩,
   ⟨up, by decide +kernel⟩,
   ⟨up, by decide +kernel⟩,
   ⟨2, 9, true, Instr.gettid, { up with sil.state := 2 }, by decide +kernel⟩,
   ⟨{ up with sil.session := some { phase := 1 } }, by decide +kernel⟩,
   ⟨{ up with sil.slotB := { state := 1 } }, by decide +kernel⟩,
   ⟨up, by decide +kernel⟩,
   ⟨{ up with sil.session := some { path := 1, phase := 1 } }, { path := 1, phase := 1 }, by decide +kernel⟩,
   ⟨{ up with sil.session := some { path := 1, phase := 2 }, sil.slotB := { state := 1 } }, { path := 1, phase := 2 },
     by decide +kernel⟩,
   ⟨up, by decide +kernel⟩⟩

theorem test_wit_PortAndQueuePairEvents :
    (∃ (port : Nat) (f : RxFrame) (s : Machine.State), port < 32 ∧ portUp s port = true ∧ f.unc = false ∧ f.fcsBad = true) ∧
    (∃ (port : Nat) (f : RxFrame) (s : Machine.State), port < 32 ∧ portUp s port = true ∧ f.unc = false ∧ f.fcsBad = false ∧
      (9216 < f.len ∨ ownFrame s port f = false ∨ f.frag = true ∨ 1 < f.tags ∨ 3 < f.kind ∨ f.kind = 2 ∧ ptpOn s = false)) ∧
    (∃ (port : Nat) (f : RxFrame) (s : Machine.State), port < 32 ∧ portUp s port = true ∧ f.unc = false ∧ f.fcsBad = false ∧
      f.len ≤ 9216 ∧ ownFrame s port f = true ∧ f.frag = false ∧ f.tags ≤ 1 ∧ f.icrcBad = false ∧ f.ce = false ∧ f.kind = 0 ∧
      f.ctrl = false ∧ (lportOf s port).fillD + f.len ≤ 0x60000) ∧
    (∃ (port : Nat) (f : RxFrame) (s : Machine.State), port < 32 ∧ portUp s port = true ∧ f.unc = false ∧ f.fcsBad = false ∧
      f.len ≤ 9216 ∧ ownFrame s port f = true ∧ f.frag = false ∧ f.tags ≤ 1 ∧ f.icrcBad = false ∧ f.ce = false ∧ f.kind = 1) ∧
    (∃ (port : Nat) (f : RxFrame) (s : Machine.State), port < 32 ∧ portUp s port = true ∧ f.unc = false ∧ f.fcsBad = false ∧
      f.len ≤ 9216 ∧ ownFrame s port f = true ∧ f.frag = false ∧ f.tags ≤ 1 ∧ f.kind = 2 ∧ ptpOn s = true ∧ f.ptp.ty < 4) ∧
    (∃ (port : Nat) (f : RxFrame) (s : Machine.State), port < 32 ∧ portUp s port = true ∧ f.unc = false ∧ f.fcsBad = false ∧
      f.len ≤ 9216 ∧ ownFrame s port f = true ∧ f.frag = false ∧ f.tags ≤ 1 ∧ f.kind = 2 ∧ ptpOn s = true ∧
      (silUp s = false ∨ rf s .NET_CTRL 20 16 ≠ port)) ∧
    (∃ (port : Nat) (f : RxFrame) (s : Machine.State), port < 32 ∧ portUp s port = true ∧ f.unc = false ∧ f.fcsBad = false ∧
      f.len ≤ 9216 ∧ ownFrame s port f = true ∧ f.frag = false ∧ f.tags ≤ 1 ∧ f.kind = 2 ∧ ptpOn s = true ∧ silUp s = true ∧
      rf s .NET_CTRL 20 16 = port ∧ f.ptp.ty = 11 ∧ s.ptp.master = none) ∧
    (∃ (port : Nat) (f : RxFrame) (s : Machine.State) (r : Nat), port < 32 ∧ portUp s port = true ∧ f.unc = false ∧
      f.fcsBad = false ∧ f.len ≤ 9216 ∧ ownFrame s port f = true ∧ f.frag = false ∧ f.tags ≤ 1 ∧ f.kind = 2 ∧ ptpOn s = true ∧
      silUp s = true ∧ rf s .NET_CTRL 20 16 = port ∧ s.ptp.master = some (f.ptp.src, r) ∧ f.ptp.ty = 0 ∧ f.ptp.twoStep = false ∧
      s.ptp.p2p = false) ∧
    (∃ (port : Nat) (f : RxFrame) (s : Machine.State) (r : Nat), port < 32 ∧ portUp s port = true ∧ f.unc = false ∧
      f.fcsBad = false ∧ f.len ≤ 9216 ∧ ownFrame s port f = true ∧ f.frag = false ∧ f.tags ≤ 1 ∧ f.kind = 2 ∧ ptpOn s = true ∧
      silUp s = true ∧ rf s .NET_CTRL 20 16 = port ∧ s.ptp.master = some (f.ptp.src, r) ∧ f.ptp.ty = 9 ∧ f.ptp.seq = s.ptp.seq ∧
      s.ptp.t3 ≠ 0) ∧
    (∃ (port : Nat) (f : RxFrame) (s : Machine.State), port < 32 ∧ portUp s port = true ∧ f.unc = false ∧ f.fcsBad = false ∧
      f.len ≤ 9216 ∧ ownFrame s port f = true ∧ f.frag = false ∧ f.tags ≤ 1 ∧ f.kind = 2 ∧ ptpOn s = true ∧ silUp s = true ∧
      rf s .NET_CTRL 20 16 = port ∧ f.ptp.ty = 2) ∧
    (∃ (port : Nat) (prio : Nat) (s : Machine.State), port < 32 ∧ prio < 8 ∧ portUp s port = true) ∧
    (∃ (port : Nat) (prio : Nat) (s : Machine.State), port < 32 ∧ prio < 8 ∧ portUp s port = true) ∧
    (∃ (port : Nat) (prio : Nat) (s : Machine.State), port < 32 ∧ prio < 8 ∧ (lportOf s port).paused.testBit prio = true ∧
      (lportOf s port).storm.testBit prio = false) ∧
    (∃ (port : Nat) (v : Nat), port < 32 ∧ v % 4 ≠ 3) ∧
    (∃ (port : Nat) (s : Machine.State), port < 32 ∧ rf s .NET_PORT_STAT 1 0 port ≠ 0) ∧
    (∃ (port : Nat) (s : Machine.State), port < 32 ∧ port ∈ createdPorts (port / 4) (rf s .NET_PORT_CFG 1 0 port) ∧
      rf s .NET_PORT_STAT 1 0 port < 2 ∧ portClocked s port = true ∧ pdOn s 20 = true) ∧
    (∃ (port : Nat) (s : Machine.State), port < 32 ∧
      (rf s .NET_PORT_STAT 1 0 port = 3 ∨ portClocked s port = false ∨ pdOn s 20 = false)) ∧
    (∃ (r : RdmaReq) (s : Machine.State), r.port < 32 ∧ rdmaKnown s r = false) ∧
    (∃ (r : RdmaReq) (s : Machine.State), r.port < 32 ∧ rdmaKnown s r = true ∧ r.psn ≠ (qpOf s r.qp).epsn ∧
      psnLe (qpOf s r.qp).epsn r.psn = true) ∧
    (∃ (r : RdmaReq) (s : Machine.State), r.port < 32 ∧ rdmaKnown s r = true ∧ r.psn ≠ (qpOf s r.qp).epsn ∧
      psnLe (qpOf s r.qp).epsn r.psn = false ∧ r.op < 4 ∧ (2 ≤ r.op → rdmaAllowed s r = true ∧
      (fnOf s ((qpOf s r.qp).ctx % 32)).inFlr = false ∧ rdmaBlocked s r = false)) ∧
    (∃ (r : RdmaReq) (s : Machine.State), r.port < 32 ∧ rdmaKnown s r = true ∧
      (r.psn = (qpOf s r.qp).epsn ∨ psnLe (qpOf s r.qp).epsn r.psn = false) ∧ 2 ≤ r.op ∧ rdmaAllowed s r = false) ∧
    (∃ (r : RdmaReq) (s : Machine.State), r.port < 32 ∧ rdmaKnown s r = true ∧ r.psn = (qpOf s r.qp).epsn ∧ r.op < 2) ∧
    (∃ (r : RdmaReq) (s : Machine.State), r.port < 32 ∧ rdmaKnown s r = true ∧ r.psn = (qpOf s r.qp).epsn ∧ 2 ≤ r.op ∧
      rdmaAllowed s r = true ∧ (fnOf s ((qpOf s r.qp).ctx % 32)).inFlr = false ∧ hubDown s r.addr r.len = none ∧
      anyPoison s r.addr r.len = false ∧ r.op = 4 ∧ portUp s r.port = true ∧
      (lportOf s r.port).storm.testBit (prioOf s ntReadData) = false ∧
      (lportOf s r.port).paused.testBit (prioOf s ntReadData) = false) ∧
    (∃ (r : RdmaReq) (s : Machine.State), r.port < 32 ∧ rdmaKnown s r = true ∧ r.psn = (qpOf s r.qp).epsn ∧ 2 ≤ r.op ∧
      rdmaAllowed s r = true ∧ (fnOf s ((qpOf s r.qp).ctx % 32)).inFlr = false ∧ hubDown s r.addr r.len = none ∧
      anyPoison s r.addr r.len = false ∧ (r.op = 2 ∨ r.op = 3) ∧ r.data.length = r.len) ∧
    (∃ (n : Nat) (s : Machine.State), (qpOf s n).st = 1 ∧ (qpOf s n).unacked ≠ [] ∧ (qpOf s n).tries < rf s .NET_ACK_CFG 7 5) ∧
    (∃ (n : Nat) (s : Machine.State) (code : _) (psn : _), (qpOf s n).st = 1 ∧ code < 2 ∧ psn < 2 ^ 24 ∧
      ((qpOf s n).unacked.filter fun e => !psnLe (lastPsn s n e) ((psn + 2 ^ 24 - 1) % 2 ^ 24)) = []) ∧
    (∃ (n : Nat) (s : Machine.State) (code : _) (psn : _), (qpOf s n).st = 1 ∧ code < 2 ∧ psn < 2 ^ 24 ∧
      ((qpOf s n).unacked.filter fun e => !psnLe (lastPsn s n e) ((psn + 2 ^ 24 - 1) % 2 ^ 24)) ≠ [] ∧
      (if ((qpOf s n).unacked.filter fun e => !psnLe (lastPsn s n e) ((psn + 2 ^ 24 - 1) % 2 ^ 24)).length = (qpOf s n).unacked.length then (qpOf s n).tries else 0) < rf s .NET_ACK_CFG 7 5) ∧
    (∃ (n : Nat) (s : Machine.State), (qpOf s n).st = 1 ∧ (qpOf s n).unacked = []) ∧
    (∃ (n : Nat) (s : Machine.State), (qpOf s n).st = 1 ∧ (qpOf s n).unacked ≠ [] ∧ rf s .NET_ACK_CFG 7 5 ≤ (qpOf s n).tries) ∧
    (∃ (n : Nat) (s : Machine.State) (code : _), (qpOf s n).st = 1 ∧ 2 ≤ code) ∧
    (∃ (n : Nat) (s : Machine.State), (qpOf s n).st = 1 ∧ Machine.rb s .NET_CTRL 1 = true) :=
  ⟨⟨0, { fcsBad := true }, netUp 1 { st := 1 }, by decide +kernel⟩,
   ⟨0, { len := 9217 }, netUp 1 { st := 1 }, by decide +kernel⟩,
   ⟨0, { len := 9216, ip := 0x0100000AFFFF00000000000000000000 }, netUp 1 { st := 1 }, by decide +kernel⟩,
   ⟨0, { kind := 1, qp := 8, psn := 1, ip := 0x0100000AFFFF00000000000000000000 },
     netUp 1 { st := 1, unacked := [(1, 1, []), (2, 2, [])] }, by decide +kernel⟩,
   ⟨0, { kind := 2, len := 9216, ptp := { ty := 3 } }, wr .NET_CTRL 0 4 (wr .CLK_GATE 0 8 (netUp 1 { st := 1 })), by decide +kernel⟩,
   ⟨0, { kind := 2 }, wr .NET_CTRL 0 0x10004 (wr .CLK_GATE 0 8 (netUp 1 { st := 1 })), by decide +kernel⟩,
   ⟨0, { kind := 2, ptp := { ty := 11, src := 7 } }, wr .NET_CTRL 0 4 (wr .CLK_GATE 0 8 (netUp 1 { st := 1 })), by decide +kernel⟩,
   ⟨0, { kind := 2, ptp := { ty := 0, src := 7 } },
     { wr .NET_CTRL 0 4 (wr .CLK_GATE 0 8 (netUp 1 { st := 1 })) with ptp.master := some (7, 2), ptp.seq := 5, ptp.t3 := 9 }, 2,
     by decide +kernel⟩,
   ⟨0, { kind := 2, ptp := { ty := 9, src := 7, seq := 5 } },
     { wr .NET_CTRL 0 4 (wr .CLK_GATE 0 8 (netUp 1 { st := 1 })) with ptp.master := some (7, 2), ptp.seq := 5, ptp.t3 := 9 }, 2,
     by decide +kernel⟩,
   ⟨0, { kind := 2, ptp := { ty := 2 } }, wr .NET_CTRL 0 4 (wr .CLK_GATE 0 8 (netUp 1 { st := 1 })), by decide +kernel⟩,
   ⟨0, 3, { netUp 1 {} with ports := [(0, { paused := 8, storm := 8, queue := [(3, 8, 1, 5, [2]), (4, 8, 1, 6, [3])] })] },
     by decide +kernel⟩,
   ⟨0, 3, { netUp 1 {} with ports := [(0, { paused := 8, storm := 8, queue := [(3, 8, 1, 5, [2]), (4, 8, 1, 6, [3])] })] },
     by decide +kernel⟩,
   ⟨0, 3, { netUp 1 {} with ports := [(0, { paused := 8, queue := [(3, 8, 1, 5, [2]), (4, 8, 1, 6, [3])] })] }, by decide +kernel⟩,
   ⟨31, 0x12, by decide +kernel⟩,
   ⟨0, netUp 1 { st := 1, port := 0 }, by decide +kernel⟩,
   ⟨31, wr .NET_PORT_CFG 31 2 { clkUp 2 with pd := [(20, 1)] }, by decide +kernel⟩,
   ⟨31, wr .NET_PORT_STAT 31 3 up, by decide +kernel⟩,
   ⟨{ port := 31 }, up, by decide +kernel⟩,
   ⟨{ port := 0, qp := 8, srcQp := 5, op := 2, psn := 0 }, netUp 1 { st := 1, port := 0, epsn := 0xFFFFFF }, by decide +kernel⟩,
   ⟨{ port := 0, qp := 8, srcQp := 5, op := 2, rkey := 9, addr := 0x20FFE, len := 2, data := [1, 2], psn := 0xFFFFFF },
     netUp 1 { st := 1, port := 0 }, by decide +kernel⟩,
   ⟨{ port := 0, qp := 8, srcQp := 5, op := 2, rkey := 9, addr := 0x20FFF, len := 2 }, netUp 1 { st := 1, port := 0 },
     by decide +kernel⟩,
   ⟨{ port := 0, qp := 8, srcQp := 5, op := 1 }, netUp 1 { st := 1, port := 0 }, by decide +kernel⟩,
   ⟨{ port := 0, qp := 8, srcQp := 5, op := 4, rkey := 9, addr := 0x20FFE, len := 2 }, netUp 1 { st := 1, port := 0 },
     by decide +kernel⟩,
   ⟨{ port := 0, qp := 8, srcQp := 5, op := 2, rkey := 9, addr := 0x20FFE, len := 2, data := [1, 2] },
     netUp 1 { st := 1, port := 0 }, by decide +kernel⟩,
   ⟨8, netUp 1 { st := 1, port := 0, unacked := [(0, 1, [5])], tries := 6 }, by decide +kernel⟩,
   ⟨8, netUp 1 { st := 1, port := 0, unacked := [(3, 1, [5])], tries := 6 }, 0, 4, by decide +kernel⟩,
   ⟨8, netUp 1 { st := 1, port := 0, unacked := [(3, 1, [5]), (4, 1, [5])], tries := 7 }, 1, 4, by decide +kernel⟩,
   ⟨8, netUp 1 { st := 1, port := 0, tries := 6 }, by decide +kernel⟩,
   ⟨8, netUp 1 { st := 1, port := 0, unacked := [(0, 1, [5])], tries := 7 }, by decide +kernel⟩,
   ⟨8, netUp 1 { st := 1, port := 0, unacked := [(0, 1, [5])] }, 2, by decide +kernel⟩,
   ⟨8, wr .NET_CTRL 0 0x502 (netUp 1 { st := 1, port := 0, rc := 4000, rt := 5000, periods := 4 }), by decide +kernel⟩⟩

theorem test_wit_RelayAndJobEvents :
    (∃ (qp : Nat) (ep : Nat) (tag : Nat) (s : Machine.State), (qpOf s qp).st = 1 ∧ staleMsg s qp ep tag = false ∧
      tget [] s.serving ((qpOf s qp).ctx) = [] ∧
      ((qpTable s qp).serve && ((qpTable s qp).peers.getD ((qpOf s qp).peer) {}).fetch) = false) ∧
    (∃ (qp : Nat) (ep : Nat) (tag : Nat) (n : Nat) (s : Machine.State), (qpOf s qp).st = 1 ∧ staleMsg s qp ep tag = false ∧
      tget [] s.serving ((qpOf s qp).ctx) = [] ∧
      ((qpTable s qp).serve && ((qpTable s qp).peers.getD ((qpOf s qp).peer) {}).fetch) = true ∧ 0 < n) ∧
    (∃ (qp : Nat) (ep : Nat) (tag : Nat) (dig : Nat) (first : Nat) (credits : Nat) (s : Machine.State) (b : _), (qpOf s qp).st = 1 ∧
      staleMsg s qp ep tag = false ∧ tget [] s.serving ((qpOf s qp).ctx) = [] ∧
      ((qpTable s qp).serve && ((qpTable s qp).peers.getD ((qpOf s qp).peer) {}).fetch) = true ∧ 0 < credits ∧
      wareRecord s ((qpOf s qp).ctx) dig first = .ok b ∧ b.length ≤ mib) ∧
    (∃ (qp : Nat) (ep : Nat) (tag : Nat) (n : Nat) (x : Serving) (b : List Byte) (s : Machine.State), (qpOf s qp).st = 1 ∧
      staleMsg s qp ep tag = false ∧ tget [] s.serving ((qpOf s qp).ctx) = [x] ∧ x.peer = (qpOf s qp).peer ∧
      (jobHeld s ((qpOf s qp).ctx) = true → x.kind = 1) ∧ x.credits = 0 ∧ x.left = 1 ∧ x.sent = 0 ∧ 0 < n ∧
      servedBytes s ((qpOf s qp).ctx) x = .ok b ∧ b.length ≤ mib) ∧
    (∃ (qp : Nat) (ep : Nat) (tag : Nat) (sn : Nat) (a : Ask) (c : Cmd) (l : Load) (s : Machine.State), (qpOf s qp).st = 1 ∧
      staleMsg s qp ep tag = false ∧ jobHeld s ((qpOf s qp).ctx) = false ∧ (tget [] s.asks ((qpOf s qp).ctx)).head? = some a ∧
      cmdOf s sn = some c ∧ a.h = sn ∧ a.gen = c.gen ∧ (qpOf s a.qp).peer = (qpOf s qp).peer ∧ c.op = 1 ∧
      loadOf s ((qpOf s qp).ctx) = some l) ∧
    (∃ (h : Nat) (rcd : Nat) (c : Cmd) (l : Load) (s : Machine.State), cmdOf s h = some c ∧ loadOf s c.ctx = some l ∧ l.h = h ∧
      l.phase = 3 ∧ l.stop = none ∧ rcd ∈ l.tables ∧ sharers s c.ctx l = [] ∧ tget [] s.serving c.ctx = []) ∧
    (∃ (h : Nat) (rcd : Nat) (pl : List Nat) (c : Cmd) (l : Load) (s : Machine.State) (a : _),
      (Config.sha384 pl).toNat = ((imgOf s l.im).ware.getD rcd {}).digest ∧ cmdOf s h = some c ∧ loadOf s c.ctx = some l ∧ l.h = h ∧
      l.phase = 3 ∧ l.stop = none ∧ rcd ∈ l.tables ∧ sharers s c.ctx l = [] ∧ tget [] s.serving c.ctx = [] ∧ l.src ≠ 1 ∧
      ((imgOf s l.im).ware.getD rcd {}).kind = 3 ∧ pl.length = payloadLen ((imgOf s l.im).ware.getD rcd {}) ∧
      (imgOf s l.im).embeds.filter (fun e => e.1 == rcd) = [(rcd, a)] ∧ (∃ r ∈ l.tables, r ≠ rcd) ∧ anyPoison s a pl.length = false) ∧
    (∃ (qp : Nat) (slot : Nat) (bytes : List Nat) (s : Machine.State), (qpOf s qp).st = 1 ∧ slot < (qpTable s qp).slots ∧
      anyPoison s ((qpTable s qp).fetchBase + slot * mib) bytes.length = false ∧ tget [] s.fetches ((qpOf s qp).ctx) = [] ∧
      tget [] s.asks ((qpOf s qp).ctx) = []) ∧
    (∃ (qp : Nat) (ep : Nat) (tag : Nat) (sn : Nat) (s : Machine.State) (c : _), (qpOf s qp).st = 1 ∧
      (jobOf s ((qpOf s qp).ctx)).st = 1 ∧ (peerE s ((qpOf s qp).ctx) ((qpOf s qp).peer)).rank ≠ 0xFF ∧
      staleMsg s qp ep tag = true ∧
      c ∈ [Instr.kvReq qp ep tag sn 0 0 0 0 0, .fenceNotice qp ep tag 1 0, .stepRec qp ep tag 0 [], .wareReq qp ep tag sn 0 0 1 1, .wareCredit qp ep tag sn 1, .wareNack qp ep tag sn 0 1]) ∧
    (∃ (qp : Nat) (ep : Nat) (tag : Nat) (s : Machine.State) (jsn : _) (len : Nat) (layers : _) (i : Nat) (q : _),
      (qpOf s qp).st = 1 ∧ (jobOf s ((qpOf s qp).ctx)).st = 1 ∧ (peerE s ((qpOf s qp).ctx) ((qpOf s qp).peer)).rank ≠ 0xFF ∧
      staleMsg s qp ep tag = false ∧
      s.seqs.find? (fun e => e.2.used && !e.2.hidden && e.2.ctx == ((qpOf s qp).ctx) && e.2.jsn == jsn) = some (i, q) ∧
      len ≤ q.len ∧ 0 < layers ∧ tget [] s.serving ((qpOf s qp).ctx) = []) ∧
    (∃ (qp : Nat) (ep : Nat) (tag : Nat) (s : Machine.State) (reason : _), (qpOf s qp).st = 1 ∧ (jobOf s ((qpOf s qp).ctx)).st = 1 ∧
      (peerE s ((qpOf s qp).ctx) ((qpOf s qp).peer)).rank ≠ 0xFF ∧ staleMsg s qp ep tag = false ∧ reason ≠ 4) ∧
    (∃ (qp : Nat) (ep : Nat) (tag : Nat) (s : Machine.State) (vals : List Nat), (qpOf s qp).st = 1 ∧
      (jobOf s ((qpOf s qp).ctx)).st = 1 ∧ (peerE s ((qpOf s qp).ctx) ((qpOf s qp).peer)).rank ≠ 0xFF ∧
      staleMsg s qp ep tag = false ∧ jobBind s ((qpOf s qp).ctx) = none ∧ (jobOf s ((qpOf s qp).ctx)).recs = [] ∧
      12 + 4 * vals.length ≤ 4096) ∧
    (∃ (qp : Nat) (ep : Nat) (tag : Nat) (s : Machine.State) (step : _) (vals : List Nat) (r : _), (qpOf s qp).st = 1 ∧
      (jobOf s ((qpOf s qp).ctx)).st = 1 ∧ (peerE s ((qpOf s qp).ctx) ((qpOf s qp).peer)).rank ≠ 0xFF ∧
      staleMsg s qp ep tag = false ∧ ownRec s ((qpOf s qp).ctx) step = some r ∧ vals.take 4 ≠ r ∧ 12 + 4 * vals.length ≤ 4096 ∧
      ((qpOf s qp).peer) ∈ memberPeers (peersOf s ((qpOf s qp).ctx)) ∧
      (∀ m ∈ memberPeers (peersOf s ((qpOf s qp).ctx)), (peerSt s ((qpOf s qp).ctx) m).st ≠ 3)) ∧
    (∃ (qp : Nat) (tag : Nat) (s : Machine.State), (qpOf s qp).st = 1 ∧ (jobOf s ((qpOf s qp).ctx)).st = 1 ∧
      (peerE s ((qpOf s qp).ctx) ((qpOf s qp).peer)).rank ≠ 0xFF ∧ tag = jobTag (peersOf s ((qpOf s qp).ctx))) ∧
    (∃ (qp : Nat) (tag : Nat) (s : Machine.State), (qpOf s qp).st = 1 ∧ (jobOf s ((qpOf s qp).ctx)).st = 1 ∧
      (peerE s ((qpOf s qp).ctx) ((qpOf s qp).peer)).rank ≠ 0xFF ∧ tag = jobTag (peersOf s ((qpOf s qp).ctx))) ∧
    (∃ (qp : Nat) (s : Machine.State) (x : Nat) (vals : List Nat), (qpOf s qp).st = 1 ∧ (jobOf s ((qpOf s qp).ctx)).st = 1 ∧
      (peerE s ((qpOf s qp).ctx) ((qpOf s qp).peer)).rank ≠ 0xFF ∧ x < (peersOf s ((qpOf s qp).ctx)).xchs.length ∧
      vals.length = ((xchE (peersOf s ((qpOf s qp).ctx)) x).elems) + ((xchE (peersOf s ((qpOf s qp).ctx)) x).elems) % 2 ∧
      (∀ e ∈ s.jobs, e.2.wantFence = false) ∧
      (peerE s ((qpOf s qp).ctx) ((qpOf s qp).peer)).rank ∉ (xchOf s ((qpOf s qp).ctx) x).done ∧
      (∃ r, r < (peersOf s ((qpOf s qp).ctx)).nmem ∧ r ≠ (peerE s ((qpOf s qp).ctx) ((qpOf s qp).peer)).rank ∧
      r ∉ (xchOf s ((qpOf s qp).ctx) x).done ∧ r ∉ (xchOf s ((qpOf s qp).ctx) x).lost) ∧
      anyPoison s (rankPlace (peersOf s ((qpOf s qp).ctx)) x (peerE s ((qpOf s qp).ctx) ((qpOf s qp).peer)).rank) (4 * vals.length) = false) ∧
    (∃ (pt : Nat) (fn : Nat) (s : Machine.State), (peersOf s (cxKey pt fn)).job ≠ 0 ∧ (jobOf s (cxKey pt fn)).st = 2 ∧
      (∀ p ∈ memberPeers (peersOf s (cxKey pt fn)), ∀ q ∈ peerQps ((peersOf s (cxKey pt fn)).peers.getD p {}), q.2 = 0xFF ∨ qpReady s q.1 = true)) ∧
    (∃ (pt : Nat) (fn : Nat) (s : Machine.State) (peer : _), (jobOf s (cxKey pt fn)).st = 1 ∧
      peer ∈ memberPeers (peersOf s (cxKey pt fn)) ∧ awaits s (cxKey pt fn) peer = true ∧ (peerSt s (cxKey pt fn) peer).st ≠ 3) ∧
    (∃ (pt : Nat) (fn : Nat) (s : Machine.State) (peer : _), (jobOf s (cxKey pt fn)).st = 1 ∧
      peer ∈ memberPeers (peersOf s (cxKey pt fn)) ∧ awaits s (cxKey pt fn) peer = false) ∧
    (∃ (pt : Nat) (fn : Nat) (s : Machine.State), (jobOf s (cxKey pt fn)).notice = true ∧
      (((modMember (cxKey pt fn) (fun j => { j with notice := false }) s).jobs.all fun e => !e.2.notice) = false ∨ s.pkg.next = none)) ∧
    (∃ (pt : Nat) (fn : Nat) (s : Machine.State) (cause : _) (kind : _) (index : _) (esc : _),
      (jobOf s (cxKey pt fn)).notice = true ∧
      ((modMember (cxKey pt fn) (fun j => { j with notice := false }) s).jobs.all fun e => !e.2.notice) = true ∧
      s.pkg.next = some (false, cause, kind, index, esc)) :=
  ⟨⟨8, 0, 0, { rawUp with images := [(0, imgA)], qps := [(8, { st := 1, peer := 1 })] }, by decide +kernel⟩,
   ⟨8, 0, 0, 1, rawUp, by decide +kernel⟩,
   ⟨8, 0, 0, 0, 0, 1, rawUp, [1, 2, 3, 4], by decide +kernel⟩,
   ⟨8, 0, 0, 1, servedA, [1, 2, 3, 4], { rawUp with serving := [(0, [servedA])] }, by decide +kernel⟩,
   ⟨8, 0, 0, 3, { h := 3, qp := 8 }, { mkCmd 0x01 (some 0) [] with run := true }, loadT,
     { relUp with cmds := [(3, { mkCmd 0x01 (some 0) [] with run := true })], asks := [(0, [{ h := 3, qp := 8 }])] },
     by decide +kernel⟩,
   ⟨3, 1, mkCmd 0x01 (some 0) [], loadT, relUp, by decide +kernel⟩,
   ⟨3, 0, [1, 2], mkCmd 0x01 (some 0) [], loadT, relUp, 0x30000, (by rfl), by decide +kernel⟩,
   ⟨8, 3, [1, 2, 3], netUp 1 { st := 1, port := 0 }, by decide +kernel⟩,
   ⟨8, 2, 7, 1, jobUp 1, Instr.kvReq 8 2 7 1 0 0 0 0 0, by decide +kernel⟩,
   ⟨8, 3, 7, { jobUp 1 with seqs := [(0, { seqS with jsn := 6 })] }, 6, 64, 1, 0, { seqS with jsn := 6 }, by decide +kernel⟩,
   ⟨8, 3, 7, { jobUp 1 with seqs := [(0, { seqS with jsn := 6 })] }, 1, by decide +kernel⟩,
   ⟨8, 3, 7, jobUp 1, [0, 1, 2, 3], by decide +kernel⟩,
   ⟨8, 3, 7,
     { jobUp 1 with jobs := [(0, { st := 1, epoch := 3, peers := [(0, { st := 1, epoch := 3 })], recs := [(1, [6, 0, 1, 1])] })] },
     1, [6, 0, 2, 1], [6, 0, 1, 1], by decide +kernel⟩,
   ⟨8, 7, jobUp 1, by decide +kernel⟩,
   ⟨8, 7, jobUp 1, by decide +kernel⟩,
   ⟨8, { jobUp 1 with images := [(0, { imgA with peers := { tableN 1 with nmem := 3 } })] }, 0, [1, 0x01020304], by decide +kernel⟩,
   ⟨0, 0, { jobUp 2 with qps := [(8, { st := 1, port := 0 }), (9, { st := 1, port := 0 })] }, by decide +kernel⟩,
   ⟨0, 0,
     { jobUp 1 with jobs := [(0, { st := 1, epoch := 3, peers := [(0, { st := 1, epoch := 3 })], recs := [(1, [6, 0, 1, 1])] })] },
     0, by decide +kernel⟩,
   ⟨0, 0, jobUp 1, 0, by decide +kernel⟩,
   ⟨0, 0, { jobUp 2 with jobs := [(0, { st := 2, notice := true })] }, by decide +kernel⟩,
   ⟨0, 0, { jobUp 2 with jobs := [(0, { st := 2, notice := true })], pkg.next := some (false, 1, 15, 0, false) }, 1, 15, 0, false,
     by decide +kernel⟩⟩

theorem test_wit_FaultedPartIsNaN : ∃ (i : Image) (a : AccPass), (partWords i a true).map (·.val) ≠ [] := ⟨imgA, {}, by decide⟩

/-- A delta that carries an empty COLSCALE section, signed with zeros. -/
def deltaB : List Byte :=
  bytesLE 4 0x535A4455 ++ [1, 0, 0x80, 0] ++ bytesLE 8 280 ++ [0, 0, 0, 1, 0, 1, 1, 0] ++ bytesLE 16 2 ++ bytesLE 16 1 ++
  bytesLE 4 0 ++ [1, 0, 0, 0] ++ List.replicate 48 0 ++ List.replicate 8 0 ++ bytesLE 8 0x98 ++
  [7, 0, 0, 0] ++ bytesLE 4 0 ++ bytesLE 8 0x98 ++ bytesLE 8 0 ++ [1, 0, 0, 0] ++ List.replicate 124 0

/-- The image that it amends: a key/value layout of one layer, and nothing else. -/
def deltaBase : Image :=
  { id := 1, dieMask := 1,
    kv := { hkv := 1, hq := 1, w := 16, stepMax := 8, seqMax := 4, posMax := 64, pageBytes := 1152, slipBytes := 34,
            layers := [{ tier := 1, stripe := [0], scale := 0x3F800000 }],
            pools := [{ kind := 0, tier := 1, owner := 0, base := 0x4200000000, size := 1280 },
                      { kind := 0, tier := 2, owner := 0xFF, base := 0x10000, size := 1280 },
                      { kind := 1, tier := 2, owner := 0xFF, base := 0x20000, size := 0x1000 },
                      { kind := 3, tier := 2, owner := 0xFF, base := 0x30000, size := 0x1000 }] } }

/-- A unit with that image active, an enrolled key, and a load of the delta from host memory. -/
def deltaCmd : Cmd := { mkCmd 0x01 none [(0x18, 24), (0x19, 1)] with run := true }
def deltaUp : Machine.State :=
  let s := cmdOn (withImg deltaBase) deltaCmd
  { s with ctxs := [(0, { active := some 0, acts := 1, load := some { h := 3, im := 1 } })],
           sil := { s.sil with anchorOk := true, keys := [{ fpr := 0, pub := 0 }] } }

/-- The state that the checks of ImageLoading see, of an image `b` loaded into context `k`. -/
def loadSeen (s : Machine.State) (k : Nat) (b : List Byte) : Machine.State :=
  enterLoad k (modLoad k (fun l => { l with phase := 2, id := leAt b 0x18 16 }) s)

theorem deltaUp_good (hv : Config.verify 0 ((deltaB.take 0x98).map (·.toNat)) 0 = true) :
    checkStep1 (loadSeen deltaUp 0 deltaB) 0 deltaB = none := by
  have hk : keyFor (loadSeen deltaUp 0 deltaB) (beAt deltaB 0x70 8) = some { fpr := 0, pub := 0 } := by decide +kernel
  have h0 : leAt deltaB 0x78 8 = 0x98 ∧ leAt deltaB 0x98 4 = 1 ∧ beAt deltaB (0x98 + 8) 96 = 0 := by decide +kernel
  have hs : sigOk { fpr := 0, pub := 0 } deltaB 0x98 = true := by simpa [sigOk, h0.2.1, h0.2.2] using hv
  have hc : checkHead (loadSeen deltaUp 0 deltaB) deltaB 0x535A4455 0 0x70 0x78 (checkBounds deltaB) = none := by
    unfold checkHead
    simp only [hk, h0.1, Option.any_some, hs]
    decide +kernel
  unfold checkStep1
  rw [hc]
  decide +kernel

/-- An image can be held: where the outside verification (log entry 7) takes the signature of the delta, every check passes. -/
theorem test_wit_ImageLoading_held (hv : Config.verify 0 ((deltaB.take 0x98).map (·.toNat)) 0 = true) :
    ∃ (h : Nat) (img : List Byte) (err : Bool) (l : Load) (c : Cmd) (s : Machine.State),
      (let x := (img.take (c.u 0x18 8), err)
       let u := loadSeen s c.ctx x.1
       let i := readImage x.1 [] (((cxOf s c.ctx).active.map (imgOf s)).getD {})
       imgDelta x.1 = true ∧ x.2 = false ∧
       (checkStep1 u c.ctx x.1 <|> checkStep2 u (c.u 0x28 8) [] i <|> checkStep3 u c.ctx x.1 i) = none) ∧
      undebugged s = true ∧ cmdOf s h = some c ∧ loadOf s c.ctx = some l ∧ l.h = h ∧ l.phase = 1 ∧ l.stop = none ∧
      l.src = 0 ∧ (c.u 0x30 1).testBit 0 = false ∧ (∀ e ∈ s.progs, e.2.ctx ≠ c.ctx) ∧ c.ctx < 1024 ∧
      earlierLoad s (c.ctx / 32) h = false :=
  ⟨3, deltaB, false, { h := 3, im := 1 }, deltaCmd, deltaUp, by
      have ht : deltaB.take (deltaCmd.u 0x18 8) = deltaB := by decide +kernel
      show imgDelta (deltaB.take (deltaCmd.u 0x18 8)) = true ∧ false = false ∧
        (checkStep1 (loadSeen deltaUp 0 (deltaB.take (deltaCmd.u 0x18 8))) 0 (deltaB.take (deltaCmd.u 0x18 8)) <|> _) = none
      rw [ht, deltaUp_good hv]
      decide +kernel, by decide +kernel⟩

/-- A firmware image of 384 bytes, and a restarting unit whose fused key is that in the image. -/
def fwB : List Byte :=
  bytesLE 4 0x465A4455 ++ [1, 0, 0, 1] ++ bytesLE 4 384 ++ bytesLE 4 7 ++ List.replicate 8 0 ++ bytesLE 8 0x100 ++
  List.replicate 224 0 ++ [1, 0, 0, 0] ++ List.replicate 124 0
def fwUp (a b : Nat) (activating : Bool) : Machine.State :=
  { up with fuses := { up.fuses with fwKeys := [keyHash (fwPub fwB)] },
            sil := { up.sil with state := 2, activating := activating, slotA := { state := a, image := fwB }, slotB := { state := b } } }

theorem fwB_good (a b : Nat) (x : Bool) (hv : Config.verify (fwPub fwB) (fwSigned fwB) (fwSig fwB) = true) :
    fwAccepted (fwUp a b x) fwB = true := by
  have hh : fwHeaderOk (fwUp a b x) fwB = true := by rw [show fwHeaderOk (fwUp a b x) fwB = fwHeaderOk up fwB from rfl]; decide +kernel
  have hk : fwKeyAccepted (fwUp a b x) (keyHash (fwPub fwB)) = true := by
    have h0 : (fwUp a b x).fuses.fwKeys[0]? = some (keyHash (fwPub fwB)) := rfl
    have h1 : (fwUp a b x).sil.fwRevoked = 0 := rfl
    simp [fwKeyAccepted, h0, h1, List.range_succ]
  have hs : fwAt fwB (fwAt fwB 0x18 8) 4 = 1 ∧ fwAt fwB 0x10 1 = 0 := by decide +kernel
  simp [fwAccepted, fwSigOk, hh, hk, hv, hs.1, show (fwUp a b x).sil.rollback = 0 from rfl]

/-- Silset starts: where the outside verification (log entry 7) takes the signature of the image, a CONFIRMED slot is booted, a
TRIAL slot after its activation, and after another restart the CONFIRMED one beside the rejected TRIAL. -/
theorem test_wit_SilsetStartAndFlash_boots (hv : Config.verify (fwPub fwB) (fwSigned fwB) (fwSig fwB) = true) :
    (∃ (b : Bool) (s : Machine.State), fwAccepted s (fwSlot s b).image = true ∧ s.sil.state = 2 ∧ (fwSlot s (!b)).state ≠ 2 ∧
      (fwSlot s b).state = 3 ∧ (fwSlot s (!b)).state ≠ 3) ∧
    (∃ (b : Bool) (s : Machine.State), fwAccepted s (fwSlot s b).image = true ∧ s.sil.state = 2 ∧ (fwSlot s (!b)).state ≠ 2 ∧
      (fwSlot s b).state = 2 ∧ s.sil.activating = true) ∧
    (∃ (b : Bool) (s : Machine.State), fwAccepted s (fwSlot s b).image = true ∧ s.sil.state = 2 ∧ (fwSlot s b).state = 3 ∧
      (fwSlot s (!b)).state = 2 ∧ s.sil.activating = false) :=
  ⟨⟨false, fwUp 3 0 false, fwB_good 3 0 false hv, by decide +kernel⟩, ⟨false, fwUp 2 3 true, fwB_good 2 3 true hv, by decide +kernel⟩,
   ⟨false, fwUp 3 2 false, fwB_good 3 2 false hv, by decide +kernel⟩⟩

/-- A state that meets every hypothesis of LaneIssues. -/
def laneMeets (op ndst : Nat) (intOp : Bool) (f : VEnv → Except Nat VRes) (s : Machine.State) (ok : VIns → Bool := fun _ => true) :
    Bool :=
  let x := vctxOf s 0 0
  let i := insAt s 0 0
  undebugged s && canFire s op 0 0 && ok i && tget 0 s.poisonX (insWord 0 x.pc) != 1 &&
  (insSrcs i).all (fun k => !slotPoisoned s 0 x k) &&
  (laneDsts ndst i).all (fun k => !destConflict s 0 x k && !slotDescBad s 0 (poolIdx x k)) &&
  (f (envOf s 0 0 intOp)).toBool && !Machine.rb s .VEC_CTRL 0 0 && (tget [] s.vheld 0).isEmpty

theorem laneMeets_spec {op ndst : Nat} {intOp : Bool} {f : VEnv → Except Nat VRes} {ok : VIns → Bool} {s : Machine.State}
    (h : laneMeets op ndst intOp f s ok = true) :
    ∃ (cl n : Nat) (r : VRes) (s : Machine.State), undebugged s = true ∧ cl < 384 ∧ canFire s op cl n = true ∧
      ok (insAt s cl n) = true ∧ tget 0 s.poisonX (insWord cl (vctxOf s cl n).pc) ≠ 1 ∧
      (∀ k ∈ insSrcs (insAt s cl n), slotPoisoned s cl (vctxOf s cl n) k = false) ∧
      (∀ k ∈ laneDsts ndst (insAt s cl n), destConflict s cl (vctxOf s cl n) k = false ∧
        slotDescBad s cl (poolIdx (vctxOf s cl n) k) = false) ∧
      f (envOf s cl n intOp) = .ok r ∧ (r.fl.nv = false ∨ Machine.rb s .VEC_CTRL 0 cl = false) ∧ tget [] s.vheld cl = [] := by
  simp only [laneMeets, Bool.and_eq_true, List.all_eq_true, Bool.not_eq_true', List.isEmpty_iff, bne_iff_ne] at h
  obtain ⟨⟨⟨⟨⟨⟨⟨⟨h1, h2⟩, h3⟩, h4⟩, h5⟩, h6⟩, h7⟩, h8⟩, h9⟩ := h
  match hf : f (envOf s 0 0 intOp) with
  | .error e => rw [hf] at h7; cases h7
  | .ok r => exact ⟨0, 0, r, s, h1, by decide, h2, h3, h4, h5, h6, hf, .inr h8, h9⟩

/-- The context at a lane instruction `op` with the operands A = 0, B = 1, C = 3 and D = 2, in slots of the formats given. -/
def laneAt (op fa fb fc fd imm : Nat) : Machine.State := vecF fa fb fc fd (insW op 2 0 1 3 1 2 imm) [(1, 0), (2, 5)]

theorem test_wit_LaneInstructions_elements : ([
    laneMeets 0x10 1 false (elementwise 2 fun rm a b _ => addV rm a b) (laneAt 0x10 7 7 7 9 0),
    laneMeets 0x11 1 false (elementwise 2 fun rm a b _ => addV rm a (negV b)) (laneAt 0x11 7 7 7 9 0),
    laneMeets 0x12 1 false (elementwise 2 fun _ a b _ => mulV a b) (laneAt 0x12 7 7 7 9 0),
    laneMeets 0x13 1 false (elementwise 3 fun rm a b c => fmaV rm a b c) (laneAt 0x13 7 7 7 7 0),
    laneMeets 0x14 1 false (elementwise 2 fun _ a b _ => (maxV a b, {})) (laneAt 0x14 7 7 7 9 0),
    laneMeets 0x15 1 false (elementwise 2 fun _ a b _ => (minV a b, {})) (laneAt 0x15 7 7 7 9 0),
    laneMeets 0x16 1 false (elementwise 1 fun _ a _ _ => (absV a, {})) (laneAt 0x16 7 7 7 9 0),
    laneMeets 0x17 1 false (elementwise 1 fun _ a _ _ => (negV a, {})) (laneAt 0x17 7 7 7 9 0),
    laneMeets 0x18 1 false vcvt (laneAt 0x18 7 7 7 9 0), laneMeets 0x19 1 false vmov (laneAt 0x19 7 7 7 9 0),
    laneMeets 0x38 1 true (integerwise fun a b => a + b) (laneAt 0x38 9 9 9 9 0),
    laneMeets 0x39 1 true (integerwise fun a b => a * b) (laneAt 0x39 9 9 9 9 0)] : List Bool).all id = true := by decide +kernel

theorem test_wit_LaneInstructions_functions : ([
    laneMeets 0x20 1 false (transc 1 fun a _ => rcp32 a) (laneAt 0x20 7 7 7 9 0),
    laneMeets 0x21 1 false (transc 1 fun a _ => rsq32 a) (laneAt 0x21 7 7 7 9 0),
    laneMeets 0x22 1 false (transc 1 fun a _ => exp2w a) (laneAt 0x22 7 7 7 9 0),
    laneMeets 0x23 1 false (transc 1 fun a _ => log2w a) (laneAt 0x23 7 7 7 9 0),
    laneMeets 0x24 1 false (transc 1 fun a _ => sigw a) (laneAt 0x24 7 7 7 9 0),
    laneMeets 0x25 1 false (transc 2 siluw) (laneAt 0x25 7 7 7 9 0),
    laneMeets 0x28 1 false vrope (laneAt 0x28 7 7 7 9 0),
    laneMeets 0x2C 2 false vbscl (laneAt 0x2C 7 7 3 15 0)] : List Bool).all id = true := by decide +kernel

theorem test_wit_LaneInstructions_reductions : ([
    laneMeets 0x30 1 false vrsum (laneAt 0x30 7 7 7 9 0), laneMeets 0x31 1 false vdot (laneAt 0x31 7 7 7 9 0),
    laneMeets 0x32 1 false vrmax (laneAt 0x32 7 7 7 9 0), laneMeets 0x33 1 false vscan (laneAt 0x33 7 7 7 9 0),
    laneMeets 0x3C 1 false vrng (laneAt 0x3C 7 7 7 9 0), laneMeets 0x35 1 false vlsem (laneAt 0x35 7 7 7 9 0),
    laneMeets 0x34 2 true vtopk (laneAt 0x34 7 7 7 9 2) (fun i => !(toTwos 13 i.imm).testBit 12),
    laneMeets 0x34 2 true vtopk (laneAt 0x34 7 9 7 9 4098) (fun i => (toTwos 13 i.imm).testBit 12)] : List Bool).all id = true := by
  decide +kernel

theorem test_wit_scalar : ∀ op ∈ [0x50, 0x51, 0x52, 0x53, 0x54, 0x55, 0x56, 0x57, 0x58, 0x60, 0x61, 0x62, 0x63, 0x65, 0x66, 0x68, 0x64],
    let s := vecUp (insW op 5 0 0 0 1 2 1) [(1, 7), (2, 9)]
    undebugged s = true ∧ canFire s op 0 0 = true ∧ tget 0 s.poisonX (insWord 0 (vctxOf s 0 0).pc) ≠ 1 := by decide +kernel

/-- A unit with two commands waiting, whose device memory lists two bytes and whose OTP is in part written. -/
def waitS : Machine.State :=
  { netUp 1 {} with pending := [.pfcFrameReceive 0 7 true, .pfcFrameReceive 0 7 false], mem := [(3, 7), (9, 1)],
                    sil := { State.reset.sil with commissioned := true, ownerKey := some 5, anchorsUsed := 8 } }

theorem test_wit_invariants : ∃ s t : Machine.State, step s = .next t ∧ Memory.wf s.mem = true ∧ s.sil.log.length ≤ 4096 ∧
    s.sil.evq.length ≤ 512 ∧ s.sil.mirrorQ.length ≤ 256 ∧ s.sil.anchorsUsed ≤ 8 ∧ s.sil.commissioned = true ∧
    s.sil.ownerKey = some 5 ∧ (lportOf t 0).paused = 128 ∧ t.pending = [.pfcFrameReceive 0 7 false] :=
  ⟨waitS, _, rfl, by decide, by decide, by decide, by decide, by decide, by decide, by decide, by decide, by decide⟩

theorem test_wit_IdleStep :
    (∃ s c t, s.pending = [] ∧ nextWaiting s = some (c, t)) ∧
    (∃ s c, s.pending = [] ∧ nextWaiting s = none ∧ s.sil.state = 1 ∧ s.pcie.doeReq = some c) ∧
    (∃ s, s.pending = [] ∧ nextWaiting s = none ∧ (s.sil.state ≠ 1 ∨ s.pcie.doeReq = none) ∧ s.board.xtalHeld = false) ∧
    (∃ s, s.pending = [] ∧ nextWaiting s = none ∧ (s.sil.state ≠ 1 ∨ s.pcie.doeReq = none) ∧ s.board.xtalHeld = true) :=
  ⟨⟨{ up with dbg.waiting := [(3, 0, .passEnd 5)] }, .passEnd 5, _, rfl, rfl⟩,
   ⟨{ up with pcie.doeReq := some (.passEnd 5) }, .passEnd 5, rfl, rfl, rfl, rfl⟩,
   ⟨State.reset, rfl, rfl, .inr rfl, rfl⟩, ⟨{ State.reset with board.xtalHeld := true }, rfl, rfl, .inr rfl, rfl⟩⟩

theorem test_wit_MemoryReadsBackWhatWasWritten :
    (∃ (a b : Nat) (xs : List Byte) (s : Machine.State), a ≤ b ∧ b < a + xs.length ∧ poisoned s b = false) ∧
    (∃ (a b : Nat) (xs : List Byte) (s : Machine.State), a ≤ b ∧ b < a + xs.length ∧ covers a xs.length (eccBase b) = true ∧
      poisoned s b = true) ∧
    (∃ (a b : Nat) (xs : List Byte) (s : Machine.State), a + xs.length ≤ b ∧ poisoned s b = false) ∧
    (∃ (a b : Nat) (xs : List Byte) (s : Machine.State), a ≤ b ∧ b < a + xs.length ∧ poisoned s b = true ∧
      covers a xs.length (eccBase b) = false) ∧
    (∃ (a : Nat) (xs : List Byte) (s : Machine.State), anyPoison s a xs.length = false) :=
  ⟨⟨3, 4, [1, 2], { up with poison := [(32, 1)] }, by decide, by decide, by decide⟩,
   ⟨0x1800000008, 0x180000000F, List.replicate 8 1, { up with poison := [(0x1800000008, 1)] }, by decide, by decide, by decide, by decide⟩,
   ⟨3, 5, [1, 2], up, by decide, by decide⟩,
   ⟨31, 32, [1, 2], { up with poison := [(32, 1)] }, by decide, by decide, by decide, by decide⟩,
   ⟨31, [1], { up with poison := [(32, 1)] }, by decide⟩⟩

theorem test_wit_CanonicalMemoriesAreEqualData : ∃ m n : List Host.Cell, Memory.wf m = true ∧ Memory.wf n = true ∧
    ∀ a, tget 0 m a = tget 0 n a := ⟨[(3, 7), (9, 1)], [(3, 7), (9, 1)], by decide, by decide, fun _ => rfl⟩

theorem test_wit_ElementsReadBackFromMemory : ∃ (f g : Fmt) (base i j : Nat) (vs : List Nat) (s : Machine.State),
    anyPoison s base (elemBytes f (i + vs.length)) = false ∧ anyPoison s base (elemBytes g (i + vs.length)) = false ∧
    j < vs.length ∧ f.width = 4 ∧ g.width = 16 :=
  ⟨.int4, .bf16, 31, 1, 1, [5, 300], up, by decide, by decide, by decide, by decide, by decide⟩

theorem test_wit_registers : (∃ (r : Reg) (i b v : Nat) (s : Machine.State), r.desc.acc.rwm ≠ 0 ∧ i < 2 ^ 20 ∧
      r.desc.acc.rwm.testBit b = true ∧ rf s r 31 16 i = 0 ∧ v / 2 ^ 16 % 2 ^ 16 = 0 ∧ v < 2 ^ 32) ∧
    (∃ (r : Reg) (i b : Nat), r.desc.acc.rwm ≠ 0 ∧ i < 2 ^ 20 ∧ r.desc.acc.rwm.testBit b = false) ∧
    ∃ hi lo i hi' lo' : Nat, lo ≤ hi ∧ hi < 32 ∧ i < 2 ^ 20 ∧ (hi' < lo ∨ hi < lo') :=
  ⟨⟨.HUB_GPIO_CTRL, 0, 15, 0xFFFF, up, by decide, by decide, by decide, by decide, by decide, by decide⟩,
   ⟨.HUB_IRQ_EN, 0, 9, by decide, by decide, by decide⟩, ⟨31, 16, 3, 15, 0, by decide, by decide, by decide, by decide⟩⟩

theorem test_wit_NumberFormatsRoundTrip :
    (∃ f c, c < 2 ^ f.width ∧ (decode f c).isNan = false ∧ ¬ (f = .fp4 ∧ c = 8) ∧ (decode f c).isFin = true) ∧
    (∃ f c, c < 2 ^ f.width ∧ (decode f c).isNan = false ∧ ¬ (f = .fp4 ∧ c = 8) ∧ (decode f c).isFin = false) ∧
    (∃ f c, c < 2 ^ f.width ∧ (decode f c).isNan = true) :=
  ⟨⟨.fp32, 0x80000001, by decide, by decide, by decide, by decide⟩, ⟨.fp16, 0xFC00, by decide, by decide, by decide, by decide⟩,
   ⟨.e4m3, 0xFF, by decide, by decide⟩⟩

theorem test_wit_ConversionsRoundToNearest :
    (∃ (f : Fmt) (n : Bool) (m : Nat) (e : Int) (c : Nat), f.isInt = false ∧ f ≠ .e8m0 ∧ (encode f .rne (.fin n m e)).2.of = false ∧
      (encode f .rtz (.fin n m e)).2.of = false ∧ (encode f .rdn (.fin n m e)).2.of = false ∧
      (encode f .rup (.fin n m e)).2.of = false ∧ c < 2 ^ f.width ∧ (decode f c).isFin = true) ∧
    (∃ (n : Bool) (m : Nat) (e : Int), (encode .fp16 .rne (.fin n m e)).2.of = true ∧ (encode .e4m3 .rne (.fin n m e)).2.of = true) :=
  ⟨⟨.e4m3, true, 447, 0, 0x7E, by decide, by decide, by decide, by decide, by decide, by decide, by decide, by decide⟩,
   ⟨false, 65520, 0, by decide, by decide⟩⟩

theorem test_wit_QuantisationErrorIsBounded :
    (∃ (k : Int) (n : Bool) (m : Nat) (e : Int), |ratOf (.fin n m e)| ≤ 6 * (2 : ℚ) ^ k ∧ |ratOf (.fin n m e)| ≤ 7 * (2 : ℚ) ^ k) ∧
    (∃ (k : Int) (n : Bool) (m : Nat) (e : Int), 6 * (2 : ℚ) ^ k < |ratOf (.fin n m e)| ∧ |ratOf (.fin n m e)| < 8 * (2 : ℚ) ^ k) ∧
    (∀ d o, -127 < scaleExp d o (6, 1) ∧ scaleExp d o (6, 1) < 127) :=
  ⟨⟨0, false, 6, 0, by norm_num [ratOf], by norm_num [ratOf]⟩, ⟨0, true, 7, 0, by norm_num [ratOf], by norm_num [ratOf]⟩, by decide⟩

theorem test_wit_CalibratedCodeIsNearestEighth : ∃ (x : GO) (c : Int), -256 ≤ c ∧ c ≤ 255 ∧ 16384 ≤ x.g ∧ x.g < 49152 ∧
    -256 ≤ x.o ∧ x.o ≤ 255 := ⟨{ g := 49151, o := -256 }, 255, by decide, by decide, by decide, by decide, by decide, by decide⟩

theorem test_wit_AlignedCodesAndNarrowSums :
    (∃ (k : Int) (n : Nat), 0 < n ∧ n < 16 ∧ |2 ^ n * alignCode k n * 2 - k * 2| = 2 ^ n) ∧
    (∃ ks : List Int, ks.length ≤ 8 ∧ ∀ k ∈ ks, |k| ≤ 3456) ∧
    (∃ ks : List Int, ∀ n, -32768 ≤ (ks.take n).sum ∧ (ks.take n).sum ≤ 32767) ∧
    (∃ (ks : List Int) (k : Int), 32767 < (narrow16 ks).1 + k) ∧ ∃ (ks : List Int) (k : Int), (narrow16 ks).1 + k < -32768 :=
  ⟨⟨5, 1, by decide, by decide, by decide⟩, ⟨[3456, 3456, 3456, 3456, 3456, 3456, 3456, 3456], by decide, by decide⟩,
   ⟨[32767], fun n => by cases n <;> simp⟩, ⟨[32767], 1, by decide⟩, ⟨[-32768], -1, by decide⟩⟩

end Sys2Proof.Tests
end

namespace Sys2Proof.Machine
open Sys2Proof

/-! ### What every command and every step keeps -/

/-- Every command completes, and keeps what `Kept` says: one lemma of `Laws/` for each. -/
theorem exec_kept (c : Instr) (s : State) : ∃ t, exec c s = .next t ∧ Kept s t := by
  cases c with
  | registerWrite => exact execRegisterWrite_kept (.refl s)
  | pairLoRead => exact execPairLoRead_kept (.refl s)
  | pairHiWrite => exact execPairHiWrite_kept (.refl s)
  | registerAccessTimeout => exact execRegisterAccessTimeout_kept (.refl s)
  | updateStrobe => exact execUpdateStrobe_kept (.refl s)
  | clusterStrobeApply => exact execClusterStrobeApply_kept (.refl s)
  | bar4Read => exact execBar4Read_kept (.refl s)
  | bar4Write => exact execBar4Write_kept (.refl s)
  | bar4Resize => exact execBar4Resize_kept (.refl s)
  | msixUnmask => exact execMsixUnmask_kept (.refl s)
  | vfBindWrite => exact execVfBindWrite_kept (.refl s)
  | vfFlr => exact execVfFlr_kept (.refl s)
  | receivedTlpError => exact execReceivedTlpError_kept (.refl s)
  | hostReadTimeout => exact execHostReadTimeout_kept (.refl s)
  | doeDiscovery => exact execDoeDiscovery_kept (.refl s)
  | negotiateAlgorithms => exact execNegotiateAlgorithms_kept (.refl s)
  | getCertificate => exact execGetCertificate_kept (.refl s)
  | challenge => exact execChallenge_kept (.refl s)
  | getMeasurements => exact execGetMeasurements_kept (.refl s)
  | sqTail => exact execSqTail_kept (.refl s)
  | rqHead => exact execRqHead_kept (.refl s)
  | queueEnable => exact execQueueEnable_kept (.refl s)
  | queueDisable => exact execQueueDisable_kept (.refl s)
  | commandFetch => exact execCommandFetch_kept (.refl s)
  | completionTimeout => exact execCompletionTimeout_kept (.refl s)
  | load => exact execLoad_kept (.refl s)
  | activate => exact execActivate_kept (.refl s)
  | discard => exact execDiscard_kept (.refl s)
  | restore => exact execRestore_kept (.refl s)
  | calibrate => exact execCalibrate_kept (.refl s)
  | adaptZero => exact execAdaptZero_kept (.refl s)
  | adaptUpdate => exact execAdaptUpdate_kept (.refl s)
  | seqCreate => exact execSeqCreate_kept (.refl s)
  | seqFree => exact execSeqFree_kept (.refl s)
  | seqTruncate => exact execSeqTruncate_kept (.refl s)
  | generate => exact execGenerate_kept (.refl s)
  | backward => exact execBackward_kept (.refl s)
  | prefixCreate => exact execPrefixCreate_kept (.refl s)
  | prefixDrop => exact execPrefixDrop_kept (.refl s)
  | checkpoint => exact execCheckpoint_kept (.refl s)
  | seqRestore => exact execSeqRestore_kept (.refl s)
  | cancel => exact execCancel_kept (.refl s)
  | nopCommand => exact execNopCommand_kept (.refl s)
  | stepStart => exact execStepStart_kept (.refl s)
  | ringHeadPoll => exact execRingHeadPoll_kept (.refl s)
  | ringWaitExpiry => exact execRingWaitExpiry_kept (.refl s)
  | register => exact execRegister_kept (.refl s)
  | registrationWaitExpiry => exact execRegistrationWaitExpiry_kept (.refl s)
  | result => exact execResult_kept (.refl s)
  | done => exact execDone_kept (.refl s)
  | fail => exact execFail_kept (.refl s)
  | stepCommit => exact execStepCommit_kept (.refl s)
  | queryArrival => exact execQueryArrival_kept (.refl s)
  | appendArrival => exact execAppendArrival_kept (.refl s)
  | engineUnitScore => exact execEngineUnitScore_kept (.refl s)
  | pageFlush => exact execPageFlush_kept (.refl s)
  | flushComplete => exact execFlushComplete_kept (.refl s)
  | pinRelease => exact execPinRelease_kept (.refl s)
  | pageMoveComplete => exact execPageMoveComplete_kept (.refl s)
  | passRequest => exact execPassRequest_kept (.refl s)
  | passStart => exact execPassStart_kept (.refl s)
  | layerSwitchStart => exact execLayerSwitchStart_kept (.refl s)
  | layerSettled => exact execLayerSettled_kept (.refl s)
  | passWaveConverted => exact execPassWaveConverted_kept (.refl s)
  | passEnd => exact execPassEnd_kept (.refl s)
  | governorSample => exact execGovernorSample_kept (.refl s)
  | blockScaleArrival => exact execBlockScaleArrival_kept (.refl s)
  | accCodeArrival => exact execAccCodeArrival_kept (.refl s)
  | preloadRun => exact execPreloadRun_kept (.refl s)
  | glazeContributionArrival => exact execGlazeContributionArrival_kept (.refl s)
  | accPartComplete => exact execAccPartComplete_kept (.refl s)
  | destinationAck => exact execDestinationAck_kept (.refl s)
  | rowBlockQuantise => exact execRowBlockQuantise_kept (.refl s)
  | quantiserRun => exact execQuantiserRun_kept (.refl s)
  | glazeSelectionArrival => exact execGlazeSelectionArrival_kept (.refl s)
  | glazeWeightRowArrival => exact execGlazeWeightRowArrival_kept (.refl s)
  | adapterUArrival => exact execAdapterUArrival_kept (.refl s)
  | adapterHArrival => exact execAdapterHArrival_kept (.refl s)
  | slotArrival => exact execSlotArrival_kept (.refl s)
  | instructionComplete => exact execInstructionComplete_kept (.refl s)
  | sendAcknowledge => exact execSendAcknowledge_kept (.refl s)
  | sendRefusal => exact execSendRefusal_kept (.refl s)
  | vecEngineResetComplete => exact execVecEngineResetComplete_kept (.refl s)
  | aswap => exact execAswap_kept (.refl s)
  | programOperationStart => exact execProgramOperationStart_kept (.refl s)
  | programRowStep => exact execProgramRowStep_kept (.refl s)
  | programRowStepEnd => exact execProgramRowStepEnd_kept (.refl s)
  | probePass => exact execProbePass_kept (.refl s)
  | readBackDone => exact execReadBackDone_kept (.refl s)
  | closingCalibrationDone => exact execClosingCalibrationDone_kept (.refl s)
  | bisqueCalibration => exact execBisqueCalibration_kept (.refl s)
  | referenceTrace => exact execReferenceTrace_kept (.refl s)
  | soakStart => exact execSoakStart_kept (.refl s)
  | soakEnd => exact execSoakEnd_kept (.refl s)
  | calUtcWrite => exact execCalUtcWrite_kept (.refl s)
  | calWearSelWrite => exact execCalWearSelWrite_kept (.refl s)
  | loadImageFetched => exact execLoadImageFetched_kept (.refl s)
  | warePayloadArrival => exact execWarePayloadArrival_kept (.refl s)
  | imageRetire => exact execImageRetire_kept (.refl s)
  | remapComplete => exact execRemapComplete_kept (.refl s)
  | setMinSvnWrite => exact execSetMinSvnWrite_kept (.refl s)
  | sramScrub => exact execSramScrub_kept (.refl s)
  | hbmPatrolScrub => exact execHbmPatrolScrub_kept (.refl s)
  | shadowAudit => exact execShadowAudit_kept (.refl s)
  | linkReplay => exact execLinkReplay_kept (.refl s)
  | frameReceive => exact execFrameReceive_kept (.refl s)
  | pfcFrameReceive => exact execPfcFrameReceive_kept (.refl s)
  | pfcStormTimeout => exact execPfcStormTimeout_kept (.refl s)
  | portModeWrite => exact execPortModeWrite_kept (.refl s)
  | rdmaRequestReceive => exact execRdmaRequestReceive_kept (.refl s)
  | ackTimeout => exact execAckTimeout_kept (.refl s)
  | nakReceive => exact execNakReceive_kept (.refl s)
  | cnpReceive => exact execCnpReceive_kept (.refl s)
  | rateIncreaseTimer => exact execRateIncreaseTimer_kept (.refl s)
  | wareReq => exact execWareReq_kept (.refl s)
  | wareCredit => exact execWareCredit_kept (.refl s)
  | wareNack _ _ _ _ rec => exact execWareNack_kept (a4 := rec) (.refl s)
  | kvReq => exact execKvReq_kept (.refl s)
  | fetchChunkArrival => exact execFetchChunkArrival_kept (.refl s)
  | fenceNotice => exact execFenceNotice_kept (.refl s)
  | rejoin => exact execRejoin_kept (.refl s)
  | rejoinAck => exact execRejoinAck_kept (.refl s)
  | stepRec => exact execStepRec_kept (.refl s)
  | jobRejoinStart => exact execJobRejoinStart_kept (.refl s)
  | contributionReceive => exact execContributionReceive_kept (.refl s)
  | collectiveTimeout => exact execCollectiveTimeout_kept (.refl s)
  | noticeAckWaitExpiry => exact execNoticeAckWaitExpiry_kept (.refl s)
  | fencePlace => exact execFencePlace_kept (.refl s)
  | drainComplete => exact execDrainComplete_kept (.refl s)
  | drainWindowExpiry => exact execDrainWindowExpiry_kept (.refl s)
  | taggedReply => exact execTaggedReply_kept (.refl s)
  | epochOffer => exact execEpochOffer_kept (.refl s)
  | epochAcknowledgement => exact execEpochAcknowledgement_kept (.refl s)
  | stallMonitorHang => exact execStallMonitorHang_kept (.refl s)
  | engineResetComplete => exact execEngineResetComplete_kept (.refl s)
  | engineResetBoundExpiry => exact execEngineResetBoundExpiry_kept (.refl s)
  | partitionReset => exact execPartitionReset_kept (.refl s)
  | partitionResetComplete => exact execPartitionResetComplete_kept (.refl s)
  | ptToExpiry => exact execPtToExpiry_kept (.refl s)
  | warmReset => exact execWarmReset_kept (.refl s)
  | coldReset => exact execColdReset_kept (.refl s)
  | hostEngineResetRequest => exact execHostEngineResetRequest_kept (.refl s)
  | hostPartitionResetRequest => exact execHostPartitionResetRequest_kept (.refl s)
  | hostWarmResetRequest => exact execHostWarmResetRequest_kept (.refl s)
  | hostColdResetRequest => exact execHostColdResetRequest_kept (.refl s)
  | rstFenceHostWrite => exact execRstFenceHostWrite_kept (.refl s)
  | reconciliationRound => exact execReconciliationRound_kept (.refl s)
  | sampleArm => exact execSampleArm_kept (.refl s)
  | armTimeout => exact execArmTimeout_kept (.refl s)
  | sampleVerdict => exact execSampleVerdict_kept (.refl s)
  | crossCheckRound => exact execCrossCheckRound_kept (.refl s)
  | crossCheckComplete => exact execCrossCheckComplete_kept (.refl s)
  | roundTimeout => exact execRoundTimeout_kept (.refl s)
  | scanStart => exact execScanStart_kept (.refl s)
  | boostExpiry => exact execBoostExpiry_kept (.refl s)
  | bootRomStart => exact execBootRomStart_kept (.refl s)
  | flashWriteDone => exact execFlashWriteDone_kept (.refl s)
  | trialConfirm => exact execTrialConfirm_kept (.refl s)
  | getInfo => exact execGetInfo_kept (.refl s)
  | logRead => exact execLogRead_kept (.refl s)
  | fwStage => exact execFwStage_kept (.refl s)
  | fwStageComplete => exact execFwStageComplete_kept (.refl s)
  | fwStatus => exact execFwStatus_kept (.refl s)
  | fwActivate => exact execFwActivate_kept (.refl s)
  | keyEnroll => exact execKeyEnroll_kept (.refl s)
  | keyRevoke => exact execKeyRevoke_kept (.refl s)
  | keyList => exact execKeyList_kept (.refl s)
  | commission => exact execCommission_kept (.refl s)
  | scanWrite => exact execScanWrite_kept (.refl s)
  | setEndpointId => exact execSetEndpointId_kept (.refl s)
  | getMctpVersionSupport => exact execGetMctpVersionSupport_kept (.refl s)
  | getpldmversion => exact execGetpldmversion_kept (.refl s)
  | getpldmcommands => exact execGetpldmcommands_kept (.refl s)
  | seteventreceiver => exact execSeteventreceiver_kept (.refl s)
  | requestupdate => exact execRequestupdate_kept (.refl s)
  | clockMeasurement => exact execClockMeasurement_kept (.refl s)
  | clockEdgeLoss => exact execClockEdgeLoss_kept (.refl s)
  | clkGateWrite => exact execClkGateWrite_kept (.refl s)
  | domainSwitchDone => exact execDomainSwitchDone_kept (.refl s)
  | partitionPowerDown => exact execPartitionPowerDown_kept (.refl s)
  | partitionPowerUp => exact execPartitionPowerUp_kept (.refl s)
  | thermometerSample => exact execThermometerSample_kept (.refl s)
  | thermalReleaseExpiry => exact execThermalReleaseExpiry_kept (.refl s)
  | boardChannelRead => exact execBoardChannelRead_kept (.refl s)
  | conversionRequest => exact execConversionRequest_kept (.refl s)
  | openWireTestRequest => exact execOpenWireTestRequest_kept (.refl s)
  | conversionComplete => exact execConversionComplete_kept (.refl s)
  | madcCalibration => exact execMadcCalibration_kept (.refl s)
  | madcCalibrationDone => exact execMadcCalibrationDone_kept (.refl s)
  | extest => exact execExtest_kept (.refl s)
  | samplePreload => exact execSamplePreload_kept (.refl s)
  | dresp => exact execDresp_kept (.refl s)
  | daddr => exact execDaddr_kept (.refl s)
  | ddata => exact execDdata_kept (.refl s)
  | debugAccessComplete => exact execDebugAccessComplete_kept (.refl s)
  | dbgHalt => exact execDbgHalt_kept (.refl s)
  | dbgResume => exact execDbgResume_kept (.refl s)
  | dbgStep => exact execDbgStep_kept (.refl s)
  | dbgClose => exact execDbgClose_kept (.refl s)
  | fabricHalted => exact execFabricHalted_kept (.refl s)
  | silsetPcBreakpoint => exact execSilsetPcBreakpoint_kept (.refl s)
  | powerOn => exact execPowerOn_kept (.refl s)
  | startupPhaseAdvance => exact execStartupPhaseAdvance_kept (.refl s)
  | boardInputHoldExpiry => exact execBoardInputHoldExpiry_kept (.refl s)
  | boardInputStuck => exact execBoardInputStuck_kept (.refl s)
  | supplyUndervoltage => exact execSupplyUndervoltage_kept (.refl s)
  | supplyRecovered => exact execSupplyRecovered_kept (.refl s)
  | portLinkDown => exact execPortLinkDown_kept (.refl s)
  | portLinkUp => exact execPortLinkUp_kept (.refl s)
  | linkRetrainingComplete => exact execLinkRetrainingComplete_kept (.refl s)
  | agentUpdateComplete => exact execAgentUpdateComplete_kept (.refl s)
  | boardInputGlitch => exact execBoardInputGlitch_kept (.refl s)
  | dmaMibMoved => exact execDmaMibMoved_kept (.refl s)
  | restoreRecordArrival => exact execRestoreRecordArrival_kept (.refl s)
  | adapterQArrival => exact execAdapterQArrival_kept (.refl s)
  | adapterVArrival => exact execAdapterVArrival_kept (.refl s)
  | pldmComponentTransfer => exact execPldmComponentTransfer_kept (.refl s)
  | vadd => exact execVadd_kept (.refl s)
  | vsub => exact execVsub_kept (.refl s)
  | vmul => exact execVmul_kept (.refl s)
  | vfma => exact execVfma_kept (.refl s)
  | vmax => exact execVmax_kept (.refl s)
  | vmin => exact execVmin_kept (.refl s)
  | vabs => exact execVabs_kept (.refl s)
  | vneg => exact execVneg_kept (.refl s)
  | vcvt => exact execVcvt_kept (.refl s)
  | vmov => exact execVmov_kept (.refl s)
  | vrcp => exact execVrcp_kept (.refl s)
  | vrsq => exact execVrsq_kept (.refl s)
  | vexp2 => exact execVexp2_kept (.refl s)
  | vlog2 => exact execVlog2_kept (.refl s)
  | vsig => exact execVsig_kept (.refl s)
  | vsilu => exact execVsilu_kept (.refl s)
  | vrope => exact execVrope_kept (.refl s)
  | vbscl => exact execVbscl_kept (.refl s)
  | vrsum => exact execVrsum_kept (.refl s)
  | vdot => exact execVdot_kept (.refl s)
  | vrmax => exact execVrmax_kept (.refl s)
  | vscan => exact execVscan_kept (.refl s)
  | vtopk => exact execVtopk_kept (.refl s)
  | vlsem => exact execVlsem_kept (.refl s)
  | viadd => exact execViadd_kept (.refl s)
  | vimul => exact execVimul_kept (.refl s)
  | vrng => exact execVrng_kept (.refl s)
  | vfetch => exact execVfetch_kept (.refl s)
  | vstore => exact execVstore_kept (.refl s)
  | send => exact execSend_kept (.refl s)
  | sendm => exact execSendm_kept (.refl s)
  | sget => exact execSget_kept (.refl s)
  | sput => exact execSput_kept (.refl s)
  | sadd => exact execSadd_kept (.refl s)
  | ssub => exact execSsub_kept (.refl s)
  | sand => exact execSand_kept (.refl s)
  | sor => exact execSor_kept (.refl s)
  | sxor => exact execSxor_kept (.refl s)
  | sshl => exact execSshl_kept (.refl s)
  | sshr => exact execSshr_kept (.refl s)
  | sli => exact execSli_kept (.refl s)
  | slui => exact execSlui_kept (.refl s)
  | br => exact execBr_kept (.refl s)
  | beq => exact execBeq_kept (.refl s)
  | bne => exact execBne_kept (.refl s)
  | blt => exact execBlt_kept (.refl s)
  | halt => exact execHalt_kept (.refl s)
  | sflg => exact execSflg_kept (.refl s)
  | sfclr => exact execSfclr_kept (.refl s)
  | nop => exact execNop_kept (.refl s)
  | pfFlr => exact execPfFlr_kept (.refl s)
  | hostLinkDown => exact execHostLinkDown_kept (.refl s)
  | doeAbort => exact execDoeAbort_kept (.refl s)
  | getVersion => exact execGetVersion_kept (.refl s)
  | getCapabilities => exact execGetCapabilities_kept (.refl s)
  | getDigests => exact execGetDigests_kept (.refl s)
  | vrCodeRepeat => exact execVrCodeRepeat_kept (.refl s)
  | vrAlert => exact execVrAlert_kept (.refl s)
  | driftTriggerCheck => exact execDriftTriggerCheck_kept (.refl s)
  | utcFlashWrite => exact execUtcFlashWrite_kept (.refl s)
  | warmToExpiry => exact execWarmToExpiry_kept (.refl s)
  | lockstepMismatch => exact execLockstepMismatch_kept (.refl s)
  | watchdogExpiry => exact execWatchdogExpiry_kept (.refl s)
  | silsetRestartComplete => exact execSilsetRestartComplete_kept (.refl s)
  | getEndpointId => exact execGetEndpointId_kept (.refl s)
  | getEndpointUuid => exact execGetEndpointUuid_kept (.refl s)
  | getMessageTypeSupport => exact execGetMessageTypeSupport_kept (.refl s)
  | gettid => exact execGettid_kept (.refl s)
  | getpldmtypes => exact execGetpldmtypes_kept (.refl s)
  | activatefirmware => exact execActivatefirmware_kept (.refl s)
  | rcOscillatorLoss => exact execRcOscillatorLoss_kept (.refl s)
  | conversionTimeout => exact execConversionTimeout_kept (.refl s)
  | owAutoTest => exact execOwAutoTest_kept (.refl s)
  | tapReset => exact execTapReset_kept (.refl s)
  | idcode => exact execIdcode_kept (.refl s)
  | clamp => exact execClamp_kept (.refl s)
  | highz => exact execHighz_kept (.refl s)
  | boundaryInstructionExit => exact execBoundaryInstructionExit_kept (.refl s)
  | bypass => exact execBypass_kept (.refl s)
  | dstat => exact execDstat_kept (.refl s)
  | dchal => exact execDchal_kept (.refl s)
  | unlockVerifyDone => exact execUnlockVerifyDone_kept (.refl s)
  | unlockRateLimitExpiry => exact execUnlockRateLimitExpiry_kept (.refl s)
  | dbgSilHalt => exact execDbgSilHalt_kept (.refl s)
  | dbgSilResume => exact execDbgSilResume_kept (.refl s)
  | dbgSilStep => exact execDbgSilStep_kept (.refl s)
  | dbgSilRestart => exact execDbgSilRestart_kept (.refl s)
  | perstNAssert => exact execPerstNAssert_kept (.refl s)
  | perstNRelease => exact execPerstNRelease_kept (.refl s)
  | alertInAssert => exact execAlertInAssert_kept (.refl s)
  | thermInAssert => exact execThermInAssert_kept (.refl s)
  | thermInRelease => exact execThermInRelease_kept (.refl s)
  | pcieLinkUp => exact execPcieLinkUp_kept (.refl s)
  | rcOscillatorRecovered => exact execRcOscillatorRecovered_kept (.refl s)
  | silsetSramUncorrectable => exact execSilsetSramUncorrectable_kept (.refl s)
  | alertInRelease => exact execAlertInRelease_kept (.refl s)

/-- A command that completes keeps what `Kept` says of the state it completes in. -/
theorem Kept.of_exec {c : Instr} {s t : State} (h : exec c s = .next t) : Kept s t := by
  obtain ⟨u, hu, hk⟩ := exec_kept c s
  obtain rfl : u = t := by simpa [hu] using h
  exact hk

/-- The work that an idle step finds, and the state in which it is taken: a request let in again, or else a data object (R463, R625). -/
theorem nextIdle_eq_of_waiting {s : State} {p : Instr × State} (h : nextWaiting s = some p) : nextIdle s = some p := by
  simp [nextIdle, h]

theorem nextIdle_eq_of_doe {s : State} {c : Instr} (hw : nextWaiting s = none) (hr : s.sil.state = 1)
    (hd : s.pcie.doeReq = some c) : nextIdle s = some (c, { s with pcie.doeReq := none }) := by
  simp [nextIdle, nextDoe, hw, hr, hd]

theorem nextIdle_eq_none {s : State} (hw : nextWaiting s = none) (hd : s.sil.state ≠ 1 ∨ s.pcie.doeReq = none) :
    nextIdle s = none := by
  rcases hd with hd | hd <;> simp [nextIdle, nextDoe, hw, hd]

/-! A step takes the command at the front of the queue; with an empty queue it does the idle work there is, or ticks. -/

theorem step_of_command {s : State} {c : Instr} {q : List Instr} (h : s.pending = c :: q) :
    step s = exec c { s with pending := q } := by
  simp [step, h]

theorem step_of_idle_work {s t : State} {c : Instr} (h : s.pending = []) (hi : nextIdle s = some (c, t)) :
    step s = exec c t := by
  simp [step, h, hi]

theorem step_of_idle {s : State} (h : s.pending = []) (hi : nextIdle s = none) : step s = .next (tick s) := by
  simp [step, h, hi]

/-- A step keeps all that `Kept` says but the queue, from which it takes the front command: what it keeps begins at the state
whose queue has lost that command. -/
theorem step_kept {s t : State} (h : step s = .next t) : Kept { s with pending := s.pending.tail } t := by
  cases hp : s.pending with
  | cons c q =>
    rw [step_of_command hp] at h
    exact .of_exec h
  | nil =>
    have hs : { s with pending := [].tail } = s := by rw [List.tail_nil, ← hp]
    rw [hs]
    cases hi : nextIdle s with
    | some p =>
      rw [step_of_idle_work hp hi] at h
      exact (nextIdle_kept (.refl s) hi).trans (.of_exec h)
    | none =>
      rw [step_of_idle hp hi] at h
      cases h
      exact tick_kept (.refl s)

/-- Settles O46: `Kept` holds across every step, and its part about the identity says just this. -/
theorem identityNeverChanges : Obligations.IdentityNeverChanges := by
  intro s t h
  exact (step_kept h).identity

/-- Settles O45: the lock fuse is a part of the record that no step changes beside the strap. -/
theorem lockFuseNeverChanges : Obligations.LockFuseNeverChanges := by
  intro s t h
  obtain ⟨a, ha⟩ := identityNeverChanges s t h
  rw [ha]

/-- Settles O42, by the cases of the work that an idle step finds. -/
theorem idleStep : Obligations.IdleStep := by
  intro s hp
  refine ⟨fun c t hw => step_of_idle_work hp (nextIdle_eq_of_waiting hw),
    fun c hw hr hd => step_of_idle_work hp (nextIdle_eq_of_doe hw hr hd), fun hw hd => ?_⟩
  rw [step_of_idle hp (nextIdle_eq_none hw hd)]
  exact ⟨fun hx => by simp [tick, hx], fun hx => by simp [tick, hx]⟩

/-- A field written leaves every other instance and register as it was (R15, R19). -/
theorem wrf_sameRegs (r : Reg) (hi lo v i : Nat) (s : State) (hi20 : i < 2 ^ 20) : SameRegs [(r, i)] s (wrf r hi lo v i s) := by
  intro r' i' hi' hne
  exact rd_wrf_ne hi lo v s (by simpa using hne) hi20 hi'

/-- Settles O54, from the reads of a field after a write of one. -/
theorem registerFieldsAreIndependent : Obligations.RegisterFieldsAreIndependent := by
  intro r hi lo v i s hlo hhi hi20
  exact ⟨rf_wrf_same r hi lo v i s hlo hhi, fun hi' lo' hd => rf_wrf_field r hi lo v i hi' lo' s hlo hhi hd,
    wrf_sameRegs r hi lo v i s hi20⟩

end Sys2Proof.Machine

namespace Sys2Proof.Machine
open Sys2Proof

/-! ### The refusal of a host's access draws a free value -/

/-- A unit after reset whose host link is up. -/
def linkedReset : State := { State.reset with pcie.linkUp := true }

/-- The state after a host's write that is not aligned to its size: an access of another size (R446, R455). -/
def afterMisaligned : State := outState linkedReset (exec (.registerWrite (.host 0) .bar0 2 4 true 0) linkedReset)

/-- The header that AER records for the refusal is a free value (R459), so the counter of free values advances. -/
theorem afterMisaligned_free : afterMisaligned.free = linkedReset.free + 1 := by decide +kernel

theorem exec_misaligned :
    exec (.registerWrite (.host 0) .bar0 2 4 true 0) linkedReset = .next afterMisaligned := rfl

/-- Refutes O34: its clause about an access of another size lets nothing change but registers, Silset, messages and the functions'
state, and a host's access of another size also takes a free value: the header that AER records of the refused TLP (R459). -/
theorem not_registerWrites : ¬ Obligations.RegisterWrites := by
  rintro ⟨-, otherSize, -⟩
  obtain ⟨t, ht, hframe, -⟩ := (otherSize (.host 0) 2 4 0 true linkedReset (by decide)).1 (by decide)
  rw [exec_misaligned] at ht
  cases ht
  have hfree := congrArg State.free hframe
  rw [afterMisaligned_free] at hfree
  exact Nat.succ_ne_self _ hfree

end Sys2Proof.Machine

namespace Sys2Proof.Machine
open Sys2Proof

/-! ### What entering an event leaves -/

/-- The state without its registers, Silset, its messages and the functions' state: what entering an event cannot change. -/
def outer (s : State) : State := { s with regs := [], sil := {}, out := [], fns := [] }

/-- Silset without the kiln log and the queues on the way to it: what entering an event leaves of Silset. -/
def silCore (s : State) : Sil := { s.sil with log := [], seq := 0, evq := [], evLost := false, mirrorQ := [] }

theorem eq_of_outer {s t : State} (h : outer t = outer s) :
    t = { s with regs := t.regs, sil := t.sil, out := t.out, fns := t.fns } :=
  calc t = { outer t with regs := t.regs, sil := t.sil, out := t.out, fns := t.fns } := rfl
    _ = { outer s with regs := t.regs, sil := t.sil, out := t.out, fns := t.fns } := by rw [h]
    _ = { s with regs := t.regs, sil := t.sil, out := t.out, fns := t.fns } := rfl

theorem now_of_outer {s t : State} (h : outer t = outer s) : t.now = s.now := (congrArg State.now h :)

theorem fuses_of_outer {s t : State} (h : outer t = outer s) : t.fuses = s.fuses := (congrArg State.fuses h :)

theorem mem_of_outer {s t : State} (h : outer t = outer s) : t.mem = s.mem := (congrArg State.mem h :)

theorem fwSlot_congr {s t : State} (hA : t.sil.slotA = s.sil.slotA) (hB : t.sil.slotB = s.sil.slotB) (b : Bool) :
    fwSlot t b = fwSlot s b := by
  simp only [fwSlot, hA, hB]

/-- The slots of firmware are part of what entering an event leaves. -/
theorem fwSlot_of_core {s t : State} (h : silCore t = silCore s) (b : Bool) : fwSlot t b = fwSlot s b :=
  fwSlot_congr (congrArg Sil.slotA h :) (congrArg Sil.slotB h :) b

/-- What a change leaves, it leaves when it is made under a condition. -/
theorem whenS_eq {α : Type} (g : State → α) {c : Bool} {f : State → State} {s : State} (h : g (f s) = g s) :
    g (whenS c f s) = g s := by
  unfold whenS
  split
  · exact h
  · rfl

/-- What each change of a series leaves, the series leaves. -/
theorem foldS_eq {α β : Type} (g : State → α) {f : β → State → State} (h : ∀ x s, g (f x s) = g s) (xs : List β) (s : State) :
    g (foldS xs f s) = g s := by
  unfold foldS
  induction xs generalizing s with
  | nil => rfl
  | cons x xs ih => exact (ih _).trans (h x s)

@[simp] theorem outer_sendMsix (fn vec : Nat) (s : State) : outer (sendMsix fn vec s) = outer s := by
  rw [sendMsix_frame]; rfl

@[simp] theorem sendMsix_sil (fn vec : Nat) (s : State) : (sendMsix fn vec s).sil = s.sil := by
  rw [sendMsix_frame]

@[simp] theorem silCore_sendMsix (fn vec : Nat) (s : State) : silCore (sendMsix fn vec s) = silCore s := by
  simp [silCore]

@[simp] theorem outer_putMirror (e : LogEntry) (s : State) : outer (putMirror e s) = outer s := by
  rw [putMirror_frame]; rfl

/-- Of Silset an entry on its way to flash changes the mirror queue alone. -/
theorem putMirror_sil (e : LogEntry) (s : State) :
    (putMirror e s).sil = { s.sil with mirrorQ := (putMirror e s).sil.mirrorQ } := by
  unfold putMirror
  split
  · rfl
  · split
    · rfl
    · split
      · rfl
      · split <;> rfl

@[simp] theorem silCore_putMirror (e : LogEntry) (s : State) : silCore (putMirror e s) = silCore s := by
  unfold silCore
  rw [putMirror_sil]

@[simp] theorem putMirror_log (e : LogEntry) (s : State) : (putMirror e s).sil.log = s.sil.log := by
  rw [putMirror_sil]

@[simp] theorem outer_putLog (e : LogEntry) (s : State) : outer (putLog e s) = outer s := by
  unfold putLog
  exact (whenS_eq outer (outer_sendMsix _ _ _)).trans (outer_putMirror _ _)

@[simp] theorem silCore_putLog (e : LogEntry) (s : State) : silCore (putLog e s) = silCore s := by
  unfold putLog
  exact (whenS_eq silCore (silCore_sendMsix _ _ _)).trans (silCore_putMirror _ _)

@[simp] theorem outer_logE (e : LogEntry) (s : State) : outer (logE e s) = outer s := by
  rw [logE_frame]; rfl

@[simp] theorem silCore_logE (e : LogEntry) (s : State) : silCore (logE e s) = silCore s := by
  unfold logE
  split
  · simp
  · split <;> rfl

@[simp] theorem outer_drainEvq (s : State) : outer (drainEvq s) = outer s := by
  unfold drainEvq
  exact (whenS_eq outer (outer_putLog _ _)).trans (foldS_eq outer outer_putLog _ _)

@[simp] theorem silCore_drainEvq (s : State) : silCore (drainEvq s) = silCore s := by
  unfold drainEvq
  exact (whenS_eq silCore (silCore_putLog _ _)).trans (foldS_eq silCore silCore_putLog _ _)

/-- An entry that Silset takes itself stands at the head of the log. -/
theorem putLog_head (e : LogEntry) (s : State) :
    (putLog e s).sil.log.head? = some { e with seq := s.sil.seq % 2 ^ 32 } := by
  unfold putLog
  rw [whenS_eq (fun t => t.sil.log.head?) (by simp)]
  simp

/-- Entering an event logs it, as seen from an earlier state with the same time and the same way to the log. -/
theorem logE_logged {e : LogEntry} {s s' : State} {cls code : Nat} (hn : s'.now = s.now) (hu : silUp s' = silUp s)
    (hq : s'.sil.evq = s.sil.evq) (hc : e.cls = cls := by rfl) (hk : e.code = code := by rfl) :
    Logged cls code s (logE e s') := by
  unfold logE
  cases hs : silUp s with
  | true =>
    exact ⟨{ e with time := s'.now, seq := s'.sil.seq % 2 ^ 32 }, hc, hk, hn,
      fun _ => by simp [hu, hs, putLog_head], fun h => by simp [hs] at h⟩
  | false =>
    refine ⟨{ e with time := s'.now }, hc, hk, hn, fun h => by simp [hs] at h, fun _ hlt => ?_⟩
    simp [hu, hs, hq, hlt]

@[simp] theorem outer_setEv (r : Reg) (k i : Nat) (s : State) : outer (setEv r k i s) = outer s := rfl

@[simp] theorem silCore_setEv (r : Reg) (k i : Nat) (s : State) : silCore (setEv r k i s) = silCore s := rfl

@[simp] theorem outer_wrf (r : Reg) (hi lo v i : Nat) (s : State) : outer (wrf r hi lo v i s) = outer s := rfl

@[simp] theorem outer_bumpSat (r : Reg) (hi lo n i : Nat) (s : State) : outer (bumpSat r hi lo n i s) = outer s := rfl

@[simp] theorem silCore_wrf (r : Reg) (hi lo v i : Nat) (s : State) : silCore (wrf r hi lo v i s) = silCore s := rfl

@[simp] theorem silCore_bumpSat (r : Reg) (hi lo n i : Nat) (s : State) : silCore (bumpSat r hi lo n i s) = silCore s := rfl

/-- Fields of registers stay when an event is entered, but for the counters of lost entries. -/
theorem rf_logE (e : LogEntry) (s : State) (r : Reg) (hi lo i : Nat) (h : r ≠ .SIL_LOG_LOST) :
    rf (logE e s) r hi lo i = rf s r hi lo i := by
  rw [rf, rd_logE _ _ _ _ h, rf]

theorem rb_logE (e : LogEntry) (s : State) (r : Reg) (k i : Nat) (h : r ≠ .SIL_LOG_LOST) :
    rb (logE e s) r k i = rb s r k i := by
  rw [rb, rd_logE _ _ _ _ h, rb]

/-- An event of a block signals a vector of the physical function, whose table holds every number of its field (R435, R443). -/
theorem signalVec_eq (r : Reg) (s : State) : signalVec r s = whenS (rb s r 31) (sendMsix 0 (rf s r 10 0)) s := by
  have h : rf s r 10 0 < vecCount 0 := bitsOf_lt _ 10 0
  simp [signalVec, signal, h, whenS]

@[simp] theorem outer_signalVec (r : Reg) (s : State) : outer (signalVec r s) = outer s := by
  rw [signalVec_eq]
  exact whenS_eq outer (outer_sendMsix _ _ _)

@[simp] theorem silCore_signalVec (r : Reg) (s : State) : silCore (signalVec r s) = silCore s := by
  rw [signalVec_eq]
  exact whenS_eq silCore (silCore_sendMsix _ _ _)

theorem rf_signalVec (q r : Reg) (hi lo i : Nat) (s : State) : rf (signalVec q s) r hi lo i = rf s r hi lo i := by
  rw [signalVec_eq]
  exact whenS_eq (fun t => rf t r hi lo i) (by simp only [rf, rd_sendMsix])

/-! ### Firmware slots and update sessions -/

@[simp] theorem outer_setFwSlot (b : Bool) (v : FwSlot) (s : State) : outer (setFwSlot b v s) = outer s := by
  cases b <;> rfl

@[simp] theorem setFwSlot_regs (b : Bool) (v : FwSlot) (s : State) : (setFwSlot b v s).regs = s.regs := by
  cases b <;> rfl

/-- A write of a firmware slot changes that slot of Silset alone. -/
theorem setFwSlot_sil (b : Bool) (v : FwSlot) (s : State) :
    (setFwSlot b v s).sil = { s.sil with slotA := if b then s.sil.slotA else v, slotB := if b then v else s.sil.slotB } := by
  cases b <;> rfl

theorem fwSlot_setFwSlot (b c : Bool) (v : FwSlot) (s : State) :
    fwSlot (setFwSlot b v s) c = if c = b then v else fwSlot s c := by
  cases b <;> cases c <;> rfl

@[simp] theorem outer_dropSession (s : State) : outer (dropSession s) = outer s := by
  unfold dropSession
  split
  · exact whenS_eq outer (outer_setFwSlot _ _ _)
  · rfl

@[simp] theorem dropSession_regs (s : State) : (dropSession s).regs = s.regs := by
  unfold dropSession
  split
  · exact whenS_eq State.regs (setFwSlot_regs _ _ _)
  · rfl

/-- A staging that is dropped leaves no session, and of the rest of Silset changes a slot at most. -/
theorem dropSession_sil (s : State) : ∃ a b, (dropSession s).sil = { s.sil with session := none, slotA := a, slotB := b } := by
  unfold dropSession
  split
  case h_1 u hu =>
    unfold whenS
    split
    · exact ⟨_, _, setFwSlot_sil _ _ _⟩
    · exact ⟨_, _, rfl⟩
  case h_2 hu => exact ⟨s.sil.slotA, s.sil.slotB, by rw [← hu]⟩

/-! ### Restarts of Silset (R529) -/

/-- Silset as a restart with a cause finds it before its session is dropped. -/
def enterRestart (cause : Nat) (s : State) : State :=
  { s with sil.state := 2, sil.activating := cause == 4, sil.handed := false, sil.roundsOk := true }

@[simp] theorem outer_silRestart (n : Nat) (s : State) : outer (silRestart n s) = outer s := by
  unfold silRestart
  dsimp only
  rw [outer_signalVec, outer_logE, outer_wrf, outer_bumpSat]
  exact outer_dropSession (enterRestart n s)

theorem silCore_silRestart (n : Nat) (s : State) : silCore (silRestart n s) = silCore (dropSession (enterRestart n s)) := by
  unfold silRestart
  dsimp only
  rw [silCore_signalVec, silCore_logE, silCore_wrf, silCore_bumpSat]
  rfl

/-- SIL_RESTART shows the cause of a restart and counts it, up to 65,535 (R559). -/
theorem silRestart_cause (n : Nat) (s : State) (hn : n < 8) : rf (silRestart n s) .SIL_RESTART 18 16 = n := by
  unfold silRestart
  dsimp only
  rw [rf_signalVec, rf_logE _ _ _ _ _ _ (by decide), rf_wrf_same _ _ _ _ _ _ (by decide) (by decide)]
  exact Nat.mod_eq_of_lt hn

theorem silRestart_count (n : Nat) (s : State) :
    rf (silRestart n s) .SIL_RESTART 15 0 = min 65535 (rf s .SIL_RESTART 15 0 + 1) := by
  have hr : rf (dropSession (enterRestart n s)) .SIL_RESTART 15 0 = rf s .SIL_RESTART 15 0 := by
    rw [rf, rd_congr (dropSession_regs _), rf]; rfl
  unfold silRestart
  dsimp only
  rw [rf_signalVec, rf_logE _ _ _ _ _ _ (by decide), rf_wrf_field _ _ _ _ _ _ _ _ (by decide) (by decide) (by decide),
    bumpSat, rf_wrf_same _ _ _ _ _ _ (by decide) (by decide)]
  change satAdd 65535 (rf (dropSession (enterRestart n s)) .SIL_RESTART 15 0) 1 % 65536 = _
  rw [hr, satAdd]
  omega

/-- What a restart with cause `n` leaves (R487, R529). -/
def Restarted (n : Nat) (s t : State) : Prop :=
  t = { s with regs := t.regs, sil := t.sil, out := t.out, fns := t.fns } ∧ t.sil.state = 2 ∧ t.sil.handed = false ∧
  t.sil.session = none ∧ rf t .SIL_RESTART 18 16 = n ∧
  rf t .SIL_RESTART 15 0 = min 65535 (rf s .SIL_RESTART 15 0 + 1) ∧ t.sil.keys = s.sil.keys

theorem silRestart_restarted (n : Nat) (s : State) (hn : n < 8) : Restarted n s (silRestart n s) := by
  obtain ⟨a, b, hd⟩ := dropSession_sil (enterRestart n s)
  have hc := silCore_silRestart n s
  rw [silCore, silCore, hd] at hc
  exact ⟨eq_of_outer (outer_silRestart n s), (congrArg Sil.state hc :), (congrArg Sil.handed hc :),
    (congrArg Sil.session hc :), silRestart_cause n s hn, silRestart_count n s, (congrArg Sil.keys hc :)⟩

/-! ### The flash (R531 to R534) -/

/-- A completed flash write acts on the job being served (R534). -/
theorem exec_flashWriteDone {s : State} {j : FlashJob} (ok : Bool) (h : nextJob s = some j) :
    exec (.flashWriteDone ok) s = .next (if ok then flashDone j s else flashFail s) := by
  change execFlashWriteDone ok s = _
  rw [execFlashWriteDone, h]
  rfl

theorem exec_flashWriteDone_none {s : State} (ok : Bool) (h : nextJob s = none) : exec (.flashWriteDone ok) s = .next s := by
  change execFlashWriteDone ok s = _
  rw [execFlashWriteDone, h]
  rfl

/-- A durable start page of one tile-layer, before the warning: its count advanced, its operation free to start (R185, R533). -/
def startPaged (tl : Nat) (s : State) : State :=
  let w := { wearOf s tl with count := (wearOf s tl).count + 1, state := 2 }
  { s with sil.flashQ := s.sil.flashQ.erase (.startPage [tl]), sil.flashOk := true, sil.flashTries := 0,
           sil.wear := tset {} s.sil.wear tl w, sil.wearFlash := tset {} s.sil.wearFlash tl w,
           sil.pageDone := s.sil.pageDone ++ [tl] }

theorem flashDone_startPage (tl : Nat) (s : State) :
    flashDone (.startPage [tl]) s = wearWarn tl ((wearOf s tl).count + 1) (startPaged tl s) := rfl

theorem wearOf_startPaged (tl x : Nat) (s : State) : wearOf (startPaged tl s) x =
    if x = tl then { wearOf s tl with count := (wearOf s tl).count + 1, state := 2 } else wearOf s x := by
  simp only [wearOf, startPaged, tget_tset]

@[simp] theorem outer_wearWarn (tl n : Nat) (s : State) : outer (wearWarn tl n s) = outer s := by
  unfold wearWarn
  exact whenS_eq outer (by rw [outer_logE, outer_setEv])

@[simp] theorem silCore_wearWarn (tl n : Nat) (s : State) : silCore (wearWarn tl n s) = silCore s := by
  unfold wearWarn
  exact whenS_eq silCore (by rw [silCore_logE, silCore_setEv])

/-- A count that stands at WARN or above is shown and logged (R186). -/
theorem wearWarn_warns {tl n : Nat} {s s' : State} (h : rf s' .CAL_WEAR_WARN 16 0 ≤ n) (hn : s'.now = s.now)
    (hu : silUp s' = silUp s) (hq : s'.sil.evq = s.sil.evq) :
    rb (wearWarn tl n s') .CAL_STAT 20 = true ∧ Logged 4 6 s (wearWarn tl n s') := by
  rw [wearWarn, whenS, if_pos (by simpa using h)]
  exact ⟨by rw [rb_logE _ _ _ _ _ (by decide), rb_setEv_same _ _ _ _ (by decide)],
    logE_logged (by rw [setEv_now, hn]) (by rw [silUp, setEv_sil]; exact hu) (by rw [setEv_sil, hq])⟩

/-- A durable start page of one tile-layer (R185, R186, R532). -/
theorem ends_startPage {s : State} {tl : Nat} (h : nextJob s = some (.startPage [tl])) :
    Ends (.flashWriteDone true) s fun t =>
      t = { s with regs := t.regs, sil := t.sil, out := t.out, fns := t.fns } ∧
      wearOf t tl = { wearOf s tl with count := (wearOf s tl).count + 1, state := 2 } ∧ tl ∈ t.sil.pageDone ∧
      (rf s .CAL_WEAR_WARN 16 0 ≤ (wearOf s tl).count + 1 → rb t .CAL_STAT 20 = true ∧ Logged 4 6 s t) ∧
      ∀ x, x ≠ tl → wearOf t x = wearOf s x := by
  refine ⟨_, exec_flashWriteDone true h, ?_⟩
  rw [if_pos rfl, flashDone_startPage]
  have hc := silCore_wearWarn tl ((wearOf s tl).count + 1) (startPaged tl s)
  have hw : (wearWarn tl ((wearOf s tl).count + 1) (startPaged tl s)).sil.wear = (startPaged tl s).sil.wear :=
    (congrArg Sil.wear hc :)
  have hwear : ∀ x, wearOf (wearWarn tl ((wearOf s tl).count + 1) (startPaged tl s)) x = wearOf (startPaged tl s) x :=
    fun x => by rw [wearOf, hw, wearOf]
  have hpage : (wearWarn tl ((wearOf s tl).count + 1) (startPaged tl s)).sil.pageDone = s.sil.pageDone ++ [tl] :=
    (congrArg Sil.pageDone hc :)
  refine ⟨eq_of_outer (outer_wearWarn _ _ _), ?_, ?_, fun hle => wearWarn_warns hle rfl rfl rfl, fun x hx => ?_⟩
  · rw [hwear, wearOf_startPaged, if_pos rfl]
  · rw [hpage]
    simp
  · rw [hwear, wearOf_startPaged, if_neg hx]

/-- A done page of one record takes its place in flash, unless a newer start has passed it (R185, R532). -/
theorem ends_donePage {s : State} {tl : Nat} {w : Wear} (h : nextJob s = some (.donePage [(tl, w)])) :
    Ends (.flashWriteDone true) s fun t => t = { s with sil := t.sil } ∧
      tget {} t.sil.wearFlash tl = (if (tget {} s.sil.wearFlash tl).count ≤ w.count then w else tget {} s.sil.wearFlash tl) ∧
      ∀ x, x ≠ tl → tget {} t.sil.wearFlash x = tget {} s.sil.wearFlash x := by
  have hflash : (flashDone (.donePage [(tl, w)]) s).sil.wearFlash =
    if (tget {} s.sil.wearFlash tl).count ≤ w.count then tset {} s.sil.wearFlash tl w else s.sil.wearFlash := rfl
  refine ⟨_, exec_flashWriteDone true h, rfl, ?_, fun x hx => ?_⟩
  · rw [if_pos rfl, hflash]
    split
    · exact tget_tset_same _ _ _ _
    · rfl
  · rw [if_pos rfl, hflash]
    split
    · exact tget_tset_ne _ _ _ hx
    · rfl

/-! A write that fails: a retry, or the end of the tries, with the staging of which it was a part (R534, R556). -/

/-- The state after the last try of a flash write has failed: FLASH_OK is 0, and the change is logged (R556). -/
def flashLost (s : State) : State :=
  whenS s.sil.flashOk (logE { cls := 0x0C, code := 3, sev := 4, source := 1, data := silData s 0 })
    { s with sil.flashOk := false, sil.flashTries := 0 }

theorem flashFail_of_retry {s : State} (h : s.sil.flashTries < 3) :
    flashFail s = { s with sil := { s.sil with flashTries := s.sil.flashTries + 1 } } := by
  rw [flashFail, if_pos h]

theorem flashFail_of_last {s : State} {j : FlashJob} (h : 3 ≤ s.sil.flashTries) (hj : nextJob s = some j) (hr : jobRank j ≠ 5) :
    flashFail s = flashLost s := by
  rw [flashFail, if_neg (by omega), hj]
  simp [hr, whenS, flashLost]

theorem flashFail_of_last_staging {s : State} {n : Nat} (h : 3 ≤ s.sil.flashTries) (hj : nextJob s = some (.staging n)) :
    flashFail s = sessionFails
      { flashLost s with sil.flashQ := (flashLost s).sil.flashQ.filter fun j => jobRank j != 5 } := by
  rw [flashFail, if_neg (by omega), hj]
  rfl

@[simp] theorem outer_flashLost (s : State) : outer (flashLost s) = outer s :=
  (whenS_eq outer (outer_logE _ _)).trans rfl

theorem silCore_flashLost (s : State) :
    silCore (flashLost s) = { silCore s with flashOk := false, flashTries := 0 } :=
  (whenS_eq silCore (silCore_logE _ _)).trans rfl

theorem flashLost_logged {s : State} (h : s.sil.flashOk = true) : Logged 0xC 3 s (flashLost s) := by
  rw [flashLost, whenS, if_pos h]
  exact logE_logged rfl rfl rfl

@[simp] theorem outer_sessionFails (s : State) : outer (sessionFails s) = outer s := by
  unfold sessionFails
  split
  · exact whenS_eq outer (outer_setFwSlot _ _ _)
  · rfl

/-- A session that fails stays, with its failure, and a staging leaves its slot EMPTY (R544, R555). -/
theorem sessionFails_spec {s : State} {u : UpdSession} (h : s.sil.session = some u) :
    (∃ a b, (sessionFails s).sil = { s.sil with session := some { u with phase := 4 }, slotA := a, slotB := b }) ∧
    (u.phase = 1 → fwSlot (sessionFails s) (!s.sil.slot) = {}) := by
  rw [sessionFails, h]
  dsimp only
  constructor
  · unfold whenS
    split
    · exact ⟨_, _, setFwSlot_sil _ _ _⟩
    · exact ⟨_, _, rfl⟩
  · intro hp
    rw [whenS, if_pos (by simp [hp]), fwSlot_setFwSlot, if_pos rfl]

/-- The third retry of a write of staged firmware fails (R544, R556). -/
theorem ends_staging_failure {s : State} {n : Nat} {u : UpdSession} (hj : nextJob s = some (.staging n))
    (hu : s.sil.session = some u) (h : 3 ≤ s.sil.flashTries) :
    Ends (.flashWriteDone false) s fun t => t.sil.flashOk = false ∧
      t.sil.session = some { u with phase := 4 } ∧ (u.phase = 1 → fwSlot t (!s.sil.slot) = {}) ∧ SameMem s t := by
  refine ⟨_, exec_flashWriteDone false hj, ?_⟩
  rw [if_neg (by decide), flashFail_of_last_staging h hj]
  have hc := silCore_flashLost s
  have hses : (flashLost s).sil.session = some u := Eq.trans (congrArg Sil.session hc :) hu
  have hslot : (flashLost s).sil.slot = s.sil.slot := (congrArg Sil.slot hc :)
  have hok : (flashLost s).sil.flashOk = false := (congrArg Sil.flashOk hc :)
  obtain ⟨⟨a, b, hsil⟩, hempty⟩ := sessionFails_spec
    (s := { flashLost s with sil.flashQ := (flashLost s).sil.flashQ.filter fun j => jobRank j != 5 }) hses
  refine ⟨by rw [hsil]; exact hok, by rw [hsil], fun hp => ?_, rdByte_congr ?_⟩
  · rw [← hslot]
    exact hempty hp
  · exact (mem_of_outer (outer_sessionFails _)).trans (mem_of_outer (outer_flashLost s))

/-- The third retry of another write fails (R556). -/
theorem ends_last_failure {s : State} {j : FlashJob} (hj : nextJob s = some j) (hr : jobRank j ≠ 5)
    (h : 3 ≤ s.sil.flashTries) :
    Ends (.flashWriteDone false) s fun t =>
      t = { s with regs := t.regs, sil := t.sil, out := t.out, fns := t.fns } ∧ t.sil.flashOk = false ∧
      t.sil.flashTries = 0 ∧ t.sil.flashQ = s.sil.flashQ ∧ (s.sil.flashOk = true → Logged 0xC 3 s t) := by
  refine ⟨_, exec_flashWriteDone false hj, ?_⟩
  rw [if_neg (by decide), flashFail_of_last h hj hr]
  have hc := silCore_flashLost s
  exact ⟨eq_of_outer (outer_flashLost s), (congrArg Sil.flashOk hc :), (congrArg Sil.flashTries hc :),
    (congrArg Sil.flashQ hc :), flashLost_logged⟩

/-! ### The boot ROM (R542, R544, R547) -/

/-- What an image needs to be accepted besides its bytes: the fuses, the revoked keys, the owner's key and the rollback counter. -/
theorem fwAccepted_congr {s t : State} (hf : t.fuses = s.fuses) (hv : t.sil.fwRevoked = s.sil.fwRevoked)
    (ho : t.sil.ownerKey = s.sil.ownerKey) (hr : t.sil.rollback = s.sil.rollback) (b : List Byte) :
    fwAccepted t b = fwAccepted s b := by
  simp only [fwAccepted, fwHeaderOk, fwSigOk, fwKeyAccepted, hf, hv, ho, hr]

/-- Silset without its log, its firmware slots and what the boot ROM finds of the flash: what the rejection of slots leaves. -/
def silBase (s : State) : Sil := { silCore s with slotA := {}, slotB := {}, anchorOk := true, flashOk := true }

/-- From `s` to `t` some firmware slots that are not EMPTY became REJECTED, events were entered and the flash was judged. -/
structure SlotsRejected (s t : State) : Prop where
  outer : outer t = outer s
  base : silBase t = silBase s
  slots : ∀ b, fwSlot t b = fwSlot s b ∨ (fwSlot s b).state ≠ 0 ∧ fwSlot t b = { fwSlot s b with state := 4 }

theorem SlotsRejected.of_core {s t : State} (ho : Machine.outer t = Machine.outer s) (hc : silCore t = silCore s) :
    SlotsRejected s t :=
  ⟨ho, by rw [silBase, hc, silBase], fun b => .inl (fwSlot_of_core hc b)⟩

theorem SlotsRejected.trans {s t u : State} (h : SlotsRejected s t) (g : SlotsRejected t u) : SlotsRejected s u := by
  refine ⟨g.outer.trans h.outer, g.base.trans h.base, fun b => ?_⟩
  rcases h.slots b with hs | ⟨h0, hs⟩ <;> rcases g.slots b with gs | ⟨g0, gs⟩
  · exact .inl (gs.trans hs)
  · rw [hs] at g0 gs
    exact .inr ⟨g0, gs⟩
  · exact .inr ⟨h0, gs.trans hs⟩
  · rw [hs] at gs
    exact .inr ⟨h0, gs⟩

theorem SlotsRejected.setFwSlot {s : State} {b : Bool} (h : (fwSlot s b).state ≠ 0) :
    SlotsRejected s (Machine.setFwSlot b { fwSlot s b with state := 4 } s) := by
  refine ⟨outer_setFwSlot _ _ _, ?_, fun c => ?_⟩
  · cases b <;> rfl
  · rw [fwSlot_setFwSlot]
    split
    case isTrue hc => exact .inr (by rw [hc]; exact ⟨h, rfl⟩)
    case isFalse => exact .inl rfl

theorem SlotsRejected.accepted {s t : State} (h : SlotsRejected s t) (b : List Byte) : fwAccepted t b = fwAccepted s b :=
  fwAccepted_congr (fuses_of_outer h.outer) (congrArg Sil.fwRevoked h.base :) (congrArg Sil.ownerKey h.base :)
    (congrArg Sil.rollback h.base :) b

/-- A slot that cannot be booted cannot be booted after rejections. -/
theorem SlotsRejected.slotBoots_eq_false {s t : State} (h : SlotsRejected s t) {b ok : Bool} (hb : slotBoots s b ok = false) :
    slotBoots t b ok = false := by
  rcases h.slots b with hs | ⟨-, hs⟩
  · rw [← hb]
    simp only [slotBoots, hs, h.accepted]
  · simp [slotBoots, hs]

theorem SlotsRejected.empty {s t : State} (h : SlotsRejected s t) {b : Bool} (h0 : (fwSlot s b).state = 0) :
    fwSlot t b = fwSlot s b :=
  (h.slots b).resolve_right fun hr => hr.1 h0

theorem SlotsRejected.ne_empty {s t : State} (h : SlotsRejected s t) {b : Bool} (h0 : (fwSlot s b).state ≠ 0) :
    (fwSlot t b).state ≠ 0 := by
  rcases h.slots b with hs | ⟨-, hs⟩ <;> simp [hs, h0]

theorem SlotsRejected.rejected {s t : State} (h : SlotsRejected s t) {b : Bool} (h4 : (fwSlot s b).state = 4) :
    (fwSlot t b).state = 4 := by
  rcases h.slots b with hs | ⟨-, hs⟩ <;> simp [hs, h4]

/-- A TRIAL slot that a restart for another cause than its activation finds (R544). -/
def trialLost (s : State) (b : Bool) : Bool := (fwSlot s b).state = 2 && !s.sil.activating && s.sil.state = 2

theorem rejectTrial_eq (b : Bool) (s : State) : rejectTrial b s =
    if trialLost s b then
      logE { cls := 0x0B, code := 6, sev := 3, source := 6, data := fwData b (fwSlot s b) }
        (setFwSlot b { fwSlot s b with state := 4 } s)
    else s := rfl

theorem fwSlot_logE (e : LogEntry) (s : State) (b : Bool) : fwSlot (logE e s) b = fwSlot s b :=
  fwSlot_of_core (silCore_logE e s) b

theorem rejectTrial_slotsRejected (b : Bool) (s : State) : SlotsRejected s (rejectTrial b s) := by
  rw [rejectTrial_eq]
  split
  case isTrue h =>
    have h2 : (fwSlot s b).state = 2 := by simp [trialLost] at h; exact h.1.1
    exact (SlotsRejected.setFwSlot (by omega)).trans (.of_core (outer_logE _ _) (silCore_logE _ _))
  case isFalse => exact .of_core rfl rfl

theorem fwSlot_rejectTrial (b x : Bool) (s : State) : fwSlot (rejectTrial b s) x =
    if x = b ∧ trialLost s b = true then { fwSlot s b with state := 4 } else fwSlot s x := by
  rw [rejectTrial_eq]
  split
  case isTrue h => rw [fwSlot_logE, fwSlot_setFwSlot]; simp [h]
  case isFalse h => simp [h]

/-- The rejection of one TRIAL slot has no part in that of the other. -/
theorem trialLost_rejectTrial {b x : Bool} (h : x ≠ b) (s : State) : trialLost (rejectTrial b s) x = trialLost s x := by
  have hb := (rejectTrial_slotsRejected b s).base
  have ha : (rejectTrial b s).sil.activating = s.sil.activating := (congrArg Sil.activating hb :)
  have hs : (rejectTrial b s).sil.state = s.sil.state := (congrArg Sil.state hb :)
  simp only [trialLost, fwSlot_rejectTrial, h, false_and, if_false, ha, hs]

theorem rejectSlot_slotsRejected (b : Bool) (s : State) : SlotsRejected s (rejectSlot b s) := by
  unfold rejectSlot
  dsimp only
  split
  case isTrue => exact .of_core rfl rfl
  case isFalse h =>
    exact (SlotsRejected.setFwSlot h).trans (.of_core (whenS_eq outer (outer_logE _ _)) (whenS_eq silCore (silCore_logE _ _)))

theorem rejectSlot_state {s : State} {b : Bool} (h : (fwSlot s b).state ≠ 0) : (fwSlot (rejectSlot b s) b).state = 4 := by
  rw [rejectSlot, if_neg h, whenS_eq (fun t => (fwSlot t b).state) (by rw [fwSlot_logE]), fwSlot_setFwSlot, if_pos rfl]

/-- The image-key table agrees with its last anchor, or none has been written (R547). -/
def anchorAgrees (tableOk : Bool) (s : State) : Bool :=
  tableOk && (s.sil.anchorsUsed == 0 || keyAnchor s.sil.keys == s.sil.anchor)

/-- The boot ROM compares the image-key table with its anchor, and learns whether the flash answers (R547, R556). -/
def checkAnchor (okA okB tableOk : Bool) (s : State) : State :=
  whenS (!anchorAgrees tableOk s) (logE { cls := 0x0B, code := 7, sev := 4, source := 6 })
    { s with sil.anchorOk := anchorAgrees tableOk s, sil.flashOk := s.sil.flashOk || okA || okB }

theorem outer_checkAnchor (okA okB tableOk : Bool) (s : State) : outer (checkAnchor okA okB tableOk s) = outer s :=
  (whenS_eq outer (outer_logE _ _)).trans rfl

theorem silCore_checkAnchor (okA okB tableOk : Bool) (s : State) : silCore (checkAnchor okA okB tableOk s) =
    { silCore s with anchorOk := anchorAgrees tableOk s, flashOk := s.sil.flashOk || okA || okB } :=
  (whenS_eq silCore (silCore_logE _ _)).trans rfl

theorem fwSlot_checkAnchor (okA okB tableOk b : Bool) (s : State) :
    fwSlot (checkAnchor okA okB tableOk s) b = fwSlot s b :=
  have hc := silCore_checkAnchor okA okB tableOk s
  fwSlot_congr (congrArg Sil.slotA hc :) (congrArg Sil.slotB hc :) b

theorem checkAnchor_slotsRejected (okA okB tableOk : Bool) (s : State) : SlotsRejected s (checkAnchor okA okB tableOk s) :=
  ⟨outer_checkAnchor okA okB tableOk s, by rw [silBase, silCore_checkAnchor, silBase],
    fun b => .inl (fwSlot_checkAnchor okA okB tableOk b s)⟩

/-- The state in which the boot ROM chooses a slot. -/
def bootChoice (okA okB tableOk : Bool) (s : State) : State :=
  checkAnchor okA okB tableOk (rejectTrial true (rejectTrial false s))

/-- The boot ROM in RECOVERY (R542): it takes log events itself. -/
def enterRecovery (s : State) : State :=
  drainEvq (logE { cls := 0x0C, code := 4, sev := 4, source := 6, data := silData s 0 }
    { s with sil.state := 3, sil.activating := false })

/-- The boot ROM boots the slot it tries first, else the other, else it is in RECOVERY (R542). -/
theorem bootRom_eq (okA okB tableOk : Bool) (s : State) : bootRom okA okB tableOk s =
    (let u := bootChoice okA okB tableOk s
     let a := firstSlot u
     let okOf := fun (b : Bool) => if b then okB else okA
     if slotBoots u a (okOf a) then bootFrom a u
     else if slotBoots (rejectSlot a u) (!a) (okOf (!a)) then bootFrom (!a) (rejectSlot a u)
     else enterRecovery (rejectSlot (!a) (rejectSlot a u))) := rfl

theorem bootChoice_slotsRejected (okA okB tableOk : Bool) (s : State) : SlotsRejected s (bootChoice okA okB tableOk s) :=
  ((rejectTrial_slotsRejected false s).trans (rejectTrial_slotsRejected true _)).trans
    (checkAnchor_slotsRejected okA okB tableOk _)

theorem fwSlot_bootChoice (okA okB tableOk b : Bool) (s : State) : fwSlot (bootChoice okA okB tableOk s) b =
    if trialLost s b then { fwSlot s b with state := 4 } else fwSlot s b := by
  rw [bootChoice, fwSlot_checkAnchor, fwSlot_rejectTrial, trialLost_rejectTrial (by decide)]
  cases b <;> simp [fwSlot_rejectTrial]

theorem bootChoice_anchorOk (okA okB tableOk : Bool) (s : State) :
    (bootChoice okA okB tableOk s).sil.anchorOk = anchorAgrees tableOk s := by
  have hb := ((rejectTrial_slotsRejected false s).trans (rejectTrial_slotsRejected true _)).base
  have hc := silCore_checkAnchor okA okB tableOk (rejectTrial true (rejectTrial false s))
  have hk : (rejectTrial true (rejectTrial false s)).sil.keys = s.sil.keys := (congrArg Sil.keys hb :)
  have hn : (rejectTrial true (rejectTrial false s)).sil.anchorsUsed = s.sil.anchorsUsed := (congrArg Sil.anchorsUsed hb :)
  have ha : (rejectTrial true (rejectTrial false s)).sil.anchor = s.sil.anchor := (congrArg Sil.anchor hb :)
  have ht : anchorAgrees tableOk (rejectTrial true (rejectTrial false s)) = anchorAgrees tableOk s := by
    simp only [anchorAgrees, hk, hn, ha]
  exact Eq.trans (congrArg Sil.anchorOk hc :) ht

/-- The TRIAL slot is tried first, else the CONFIRMED one (R542). -/
theorem firstSlot_eq {s : State} {b : Bool} (h2 : (fwSlot s !b).state ≠ 2)
    (h : (fwSlot s b).state = 2 ∨ (fwSlot s b).state = 3 ∧ (fwSlot s !b).state ≠ 3) : firstSlot s = b := by
  cases b <;> rcases h with h | ⟨h, h3⟩ <;> simp_all [firstSlot, fwSlot]

/-- What a boot from slot `b` leaves. -/
def Boots (tableOk b : Bool) (s t : State) : Prop :=
  t = { s with regs := t.regs, sil := t.sil, out := t.out, fns := t.fns } ∧ t.sil.slot = b ∧ t.sil.handed = true ∧
  t.sil.runSince = s.now ∧ t.sil.activating = false ∧ t.sil.state = s.sil.state ∧ fwSlot t b = fwSlot s b ∧
  t.sil.anchorOk = (tableOk && (s.sil.anchorsUsed == 0 || keyAnchor s.sil.keys == s.sil.anchor))

/-- The slot that is tried first, holds an accepted image and comes back from the flash is booted; a TRIAL slot that another
restart found has been rejected before. -/
theorem bootRom_boots {okA okB tableOk b : Bool} {s : State} (hf : firstSlot (bootChoice okA okB tableOk s) = b)
    (hk : trialLost s b = false) (hok : (if b then okB else okA) = true) (ha : fwAccepted s (fwSlot s b).image = true)
    (h0 : (fwSlot s b).state ≠ 0) (h4 : (fwSlot s b).state ≠ 4) :
    bootRom okA okB tableOk s = bootFrom b (bootChoice okA okB tableOk s) ∧
    Boots tableOk b s (bootFrom b (bootChoice okA okB tableOk s)) := by
  have hr := bootChoice_slotsRejected okA okB tableOk s
  have hb : fwSlot (bootChoice okA okB tableOk s) b = fwSlot s b := by rw [fwSlot_bootChoice, hk]; rfl
  constructor
  · rw [bootRom_eq]
    simp only [hf]
    rw [if_pos]
    simp [slotBoots, hb, hok, h0, h4, hr.accepted, ha]
  · exact ⟨eq_of_outer hr.outer, rfl, rfl, now_of_outer hr.outer, rfl, (congrArg Sil.state hr.base :),
      hb, bootChoice_anchorOk okA okB tableOk s⟩

/-- With neither slot to boot the boot ROM is in RECOVERY, and has rejected what the slots hold. -/
theorem bootRom_recovers {okA okB tableOk : Bool} {s : State} (hA : slotBoots s false okA = false)
    (hB : slotBoots s true okB = false) :
    ∃ u, bootRom okA okB tableOk s = enterRecovery u ∧ SlotsRejected s u ∧
      ∀ b, (fwSlot s b).state ≠ 0 → (fwSlot u b).state = 4 := by
  have hr := bootChoice_slotsRejected okA okB tableOk s
  have hboot : ∀ b, slotBoots s b (if b then okB else okA) = false := fun b => by cases b <;> assumption
  generalize ha : firstSlot (bootChoice okA okB tableOk s) = a
  have h1 := hr.trans (rejectSlot_slotsRejected a _)
  have h2 := rejectSlot_slotsRejected (!a) (rejectSlot a (bootChoice okA okB tableOk s))
  refine ⟨_, ?_, h1.trans h2, fun b h0 => ?_⟩
  · rw [bootRom_eq]
    simp only [ha]
    rw [if_neg (by rw [hr.slotBoots_eq_false (hboot a)]; decide),
      if_neg (by rw [h1.slotBoots_eq_false (hboot !a)]; decide)]
  · rcases Bool.eq_or_eq_not b a with rfl | rfl
    · exact h2.rejected (rejectSlot_state (hr.ne_empty h0))
    · exact rejectSlot_state (h1.ne_empty h0)

theorem outer_enterRecovery (s : State) : outer (enterRecovery s) = outer s := by
  rw [enterRecovery, outer_drainEvq, outer_logE]
  rfl

theorem silCore_enterRecovery (s : State) :
    silCore (enterRecovery s) = { silCore s with state := 3, activating := false } := by
  rw [enterRecovery, silCore_drainEvq, silCore_logE]
  rfl

theorem fwSlot_enterRecovery (s : State) (b : Bool) : fwSlot (enterRecovery s) b = fwSlot s b :=
  have hc := silCore_enterRecovery s
  fwSlot_congr (congrArg Sil.slotA hc :) (congrArg Sil.slotB hc :) b

/-- Silset waits for its boot ROM: after a restart, or after a cold reset with the crystal VALID (R542, R564). -/
def awaitsBoot (s : State) : Prop := s.sil.state = 2 ∨ s.sil.state = 0 ∧ rf s .CLK_STAT 14 12 = 2

theorem exec_bootRomStart {s : State} (h : awaitsBoot s) (okA okB tableOk : Bool) :
    exec (.bootRomStart okA okB tableOk) s = .next (bootRom okA okB tableOk s) := by
  change execBootRomStart okA okB tableOk s = _
  rw [execBootRomStart, if_pos, done]
  rcases h with h | ⟨h, hx⟩ <;> simp [*]

theorem exec_bootRomStart_idle {s : State} (h2 : s.sil.state ≠ 2) (h0 : s.sil.state ≠ 0 ∨ rf s .CLK_STAT 14 12 ≠ 2)
    (okA okB tableOk : Bool) : exec (.bootRomStart okA okB tableOk) s = .next s := by
  change execBootRomStart okA okB tableOk s = _
  rw [execBootRomStart, if_neg, done]
  rcases h0 with h | h <;> simp [*]

/-- A CONFIRMED slot beside one that is neither TRIAL nor CONFIRMED is booted. -/
theorem ends_boot_confirmed {okA okB tableOk b : Bool} {s : State} (hs : awaitsBoot s) (hok : (if b then okB else okA) = true)
    (ha : fwAccepted s (fwSlot s b).image = true) (h2 : (fwSlot s !b).state ≠ 2) (h3 : (fwSlot s b).state = 3)
    (h3' : (fwSlot s !b).state ≠ 3) : Ends (.bootRomStart okA okB tableOk) s (Boots tableOk b s) := by
  have hk : ∀ x, trialLost s x = false := fun x => by
    rcases Bool.eq_or_eq_not x b with rfl | rfl <;> simp [trialLost, h3, h2]
  have hu : ∀ x, fwSlot (bootChoice okA okB tableOk s) x = fwSlot s x := fun x => by rw [fwSlot_bootChoice, hk]; rfl
  obtain ⟨he, hb⟩ := bootRom_boots (okA := okA) (okB := okB) (tableOk := tableOk)
    (firstSlot_eq (by rwa [hu]) (.inr ⟨by rwa [hu], by rwa [hu]⟩)) (hk b) hok ha (by omega) (by omega)
  exact ⟨_, exec_bootRomStart hs okA okB tableOk, he ▸ hb⟩

/-- A TRIAL slot that an activation made, or that a cold start finds, is booted. -/
theorem ends_boot_trial {okA okB tableOk b : Bool} {s : State} (hs : awaitsBoot s) (hok : (if b then okB else okA) = true)
    (ha : fwAccepted s (fwSlot s b).image = true) (h2' : (fwSlot s !b).state ≠ 2) (h2 : (fwSlot s b).state = 2)
    (hact : s.sil.activating = true ∨ s.sil.state = 0) : Ends (.bootRomStart okA okB tableOk) s (Boots tableOk b s) := by
  have hk : ∀ x, trialLost s x = false := fun x => by rcases hact with h | h <;> simp [trialLost, h]
  have hu : ∀ x, fwSlot (bootChoice okA okB tableOk s) x = fwSlot s x := fun x => by rw [fwSlot_bootChoice, hk]; rfl
  obtain ⟨he, hb⟩ := bootRom_boots (okA := okA) (okB := okB) (tableOk := tableOk)
    (firstSlot_eq (by rwa [hu]) (.inl (by rwa [hu]))) (hk b) hok ha (by omega) (by omega)
  exact ⟨_, exec_bootRomStart hs okA okB tableOk, he ▸ hb⟩

/-- A restart for another cause than its activation rejects the TRIAL slot, and the CONFIRMED one is booted (R544). -/
theorem ends_boot_after_lost_trial {okA okB tableOk b : Bool} {s : State} (hs : awaitsBoot s)
    (hok : (if b then okB else okA) = true) (ha : fwAccepted s (fwSlot s b).image = true) (h3 : (fwSlot s b).state = 3)
    (h2 : (fwSlot s !b).state = 2) (hact : s.sil.activating = false) (hst : s.sil.state = 2) :
    Ends (.bootRomStart okA okB tableOk) s fun t => Boots tableOk b s t ∧ (fwSlot t !b).state = 4 := by
  have hk : trialLost s b = false := by simp [trialLost, h3]
  have hl : trialLost s (!b) = true := by simp [trialLost, h2, hact, hst]
  have hu : fwSlot (bootChoice okA okB tableOk s) b = fwSlot s b := by rw [fwSlot_bootChoice, hk]; rfl
  have hu' : (fwSlot (bootChoice okA okB tableOk s) !b).state = 4 := by rw [fwSlot_bootChoice, hl]; rfl
  obtain ⟨he, hb⟩ := bootRom_boots (okA := okA) (okB := okB) (tableOk := tableOk)
    (firstSlot_eq (by omega) (.inr ⟨by rwa [hu], by omega⟩)) hk hok ha (by omega) (by omega)
  exact ⟨_, exec_bootRomStart hs okA okB tableOk, he ▸ ⟨hb, hu'⟩⟩

/-- With neither slot to boot Silset is in RECOVERY, and what the slots held is REJECTED (R542). -/
theorem ends_recovery {okA okB tableOk : Bool} {s : State} (hs : awaitsBoot s) (hA : slotBoots s false okA = false)
    (hB : slotBoots s true okB = false) :
    Ends (.bootRomStart okA okB tableOk) s fun t =>
      t = { s with regs := t.regs, sil := t.sil, out := t.out, fns := t.fns } ∧ t.sil.state = 3 ∧ t.sil.activating = false ∧
      t.sil.handed = s.sil.handed ∧ (∀ b, (fwSlot s b).state ≠ 0 → (fwSlot t b).state = 4) ∧
      ∀ b, (fwSlot s b).state = 0 → fwSlot t b = fwSlot s b := by
  obtain ⟨u, he, hr, h4⟩ := bootRom_recovers (tableOk := tableOk) hA hB
  have hc := silCore_enterRecovery u
  refine ⟨_, (exec_bootRomStart hs okA okB tableOk).trans (congrArg _ he), eq_of_outer ((outer_enterRecovery u).trans hr.outer),
    (congrArg Sil.state hc :), (congrArg Sil.activating hc :), Eq.trans (congrArg Sil.handed hc :) (congrArg Sil.handed hr.base :),
    fun b h0 => ?_, fun b h0 => ?_⟩
  · rw [fwSlot_enterRecovery, h4 b h0]
  · rw [fwSlot_enterRecovery, hr.empty h0]

/-! ### The judgement of a staged image (R543, R544) -/

/-- The slot that is not running with a staged image in it, and the session that staged it at its end. -/
def staged (image : List Byte) (s : State) : State :=
  setFwSlot (!s.sil.slot) (fwEntry (if fwAccepted s image then 1 else 4) image)
    { s with sil.session := s.sil.session.map fun u =>
        { u with phase := if fwAccepted s image then 2 else 3, written := image.length } }

/-- The entry of the kiln log about a staged image. -/
def stagedEntry (image : List Byte) (s : State) : LogEntry :=
  { (if fwAccepted s image then { cls := 0x0B, code := 8, sev := 1 } else { cls := 0x0B, code := 1, sev := 3 } : LogEntry) with
    source := 1, data := fwData (!s.sil.slot) (fwEntry (if fwAccepted s image then 1 else 4) image) }

theorem exec_fwStageComplete {s : State} (h : sessionOpen s = true) (image : List Byte) :
    exec (.fwStageComplete image) s = .next (logE (stagedEntry image s) (staged image s)) := by
  change execFwStageComplete image s = _
  rw [execFwStageComplete, if_neg (by simp [h])]
  cases hs : s.sil.slot <;> simp [done, staged, stagedEntry, setFwSlot, hs]

theorem exec_fwStageComplete_closed {s : State} (h : sessionOpen s = false) (image : List Byte) :
    exec (.fwStageComplete image) s = .next s := by
  change execFwStageComplete image s = _
  rw [execFwStageComplete, if_pos (by simp [h]), done]

theorem outer_staged (image : List Byte) (s : State) : outer (staged image s) = outer s := outer_setFwSlot _ _ _

theorem staged_slot (image : List Byte) (s : State) (b : Bool) : fwSlot (staged image s) b =
    if b = !s.sil.slot then fwEntry (if fwAccepted s image then 1 else 4) image else fwSlot s b :=
  fwSlot_setFwSlot _ _ _ _

/-- The session that staged an image is open no longer, whatever the judgement. -/
theorem staged_sessionOpen (image : List Byte) (s : State) : sessionOpen (staged image s) = false := by
  unfold sessionOpen staged
  rw [setFwSlot_sil]
  cases s.sil.session with
  | none => rfl
  | some u => cases fwAccepted s image <;> simp

theorem ends_stageComplete {image : List Byte} {s : State} (h : sessionOpen s = true) :
    Ends (.fwStageComplete image) s fun t =>
      t = { s with regs := t.regs, sil := t.sil, out := t.out, fns := t.fns } ∧
      (let v := fwSlot t (!s.sil.slot)
       v.state = (if fwAccepted s image then 1 else 4) ∧ v.image = image ∧ v.version = fwAt image 0xC 4 ∧
       v.svn = fwAt image 0x10 1 ∧ v.eval = (fwAt image 0x11 1).testBit 0 ∧ v.agents = (fwAt image 0x11 1).testBit 1) ∧
      fwSlot t s.sil.slot = fwSlot s s.sil.slot ∧ sessionOpen t = false ∧
      Logged 0x0B (if fwAccepted s image then 8 else 1) s t := by
  refine ⟨_, exec_fwStageComplete h image, eq_of_outer ((outer_logE _ _).trans (outer_staged _ _)), ?_, ?_, ?_, ?_⟩
  · rw [fwSlot_logE, staged_slot, if_pos rfl]
    exact ⟨rfl, rfl, rfl, rfl, rfl, rfl⟩
  · rw [fwSlot_logE, staged_slot, if_neg (by simp)]
  · have hc : (logE (stagedEntry image s) (staged image s)).sil.session = (staged image s).sil.session :=
      (congrArg Sil.session (silCore_logE _ _) :)
    rw [sessionOpen, hc]
    exact staged_sessionOpen image s
  · refine logE_logged (now_of_outer (outer_staged _ _)) ?_ ?_ ?_ ?_
    · rw [silUp, staged, setFwSlot_sil, silUp]
    · rw [staged, setFwSlot_sil]
    · cases h : fwAccepted s image <;> simp [stagedEntry, h]
    · cases h : fwAccepted s image <;> simp [stagedEntry, h]

/-! ### The obligation -/

theorem ends_silset_restarts (s : State) :
    Ends .lockstepMismatch s (Restarted 1 s) ∧ (s.sil.state ≠ 4 → Ends .watchdogExpiry s (Restarted 2 s)) ∧
    (s.sil.state = 4 → Ends .watchdogExpiry s fun t => t = s) ∧ Ends .silsetSramUncorrectable s (Restarted 3 s) := by
  have watchdog : exec .watchdogExpiry s = .next (if s.sil.state = 4 then s else silRestart 2 s) := rfl
  refine ⟨⟨_, rfl, silRestart_restarted 1 s (by decide)⟩, fun h => ⟨_, watchdog, ?_⟩, fun h => ⟨_, watchdog, if_pos h⟩,
    ⟨_, rfl, silRestart_restarted 3 s (by decide)⟩⟩
  rw [if_neg h]
  exact silRestart_restarted 2 s (by decide)

/-- Settles O37: the restarts, the choice of the boot ROM, the flash and the judgement of a staged image, each by the lemma about it. -/
theorem silsetStartAndFlash : Obligations.SilsetStartAndFlash := by
  refine ⟨ends_silset_restarts, fun okA okB tableOk _ s hs => ⟨?_, ?_, ?_⟩, ?_, fun s => ⟨?_, ?_, ?_, ?_, ?_, ?_, ?_, ?_⟩,
    fun image s => ⟨ends_stageComplete, fun h => ⟨_, exec_fwStageComplete_closed h image, rfl⟩⟩⟩
  · exact fun hok ha h2 => ⟨fun h3 h3' => ends_boot_confirmed hs hok ha h2 h3 h3',
      fun h2' hact => ends_boot_trial hs hok ha h2 h2' hact⟩
  · exact fun hok ha h3 h2 hact hst => ends_boot_after_lost_trial hs hok ha h3 h2 hact hst
  · exact fun hA hB => ends_recovery hs hA hB
  · exact fun okA okB tableOk s h2 h0 => ⟨_, exec_bootRomStart_idle h2 h0 okA okB tableOk, rfl⟩
  · exact fun ok h => ⟨_, exec_flashWriteDone_none ok h, rfl⟩
  · exact fun h => ⟨_, exec_flashWriteDone true h, rfl, rfl, rfl, rfl, rfl⟩
  · exact fun tl h => ends_startPage h
  · exact fun h => ⟨_, exec_flashWriteDone true h, rfl, rfl, rfl⟩
  · exact fun tl w h => ends_donePage h
  · refine fun n u h hu => ⟨⟨_, exec_flashWriteDone true h, ?_⟩, fun h3 => ends_staging_failure h hu h3⟩
    simp [flashDone, hu]
  · intro h hlt
    obtain ⟨j, hj⟩ := Option.ne_none_iff_exists'.mp h
    exact ⟨_, exec_flashWriteDone false hj, flashFail_of_retry hlt⟩
  · exact fun j hj hr h3 => ends_last_failure hj hr h3

end Sys2Proof.Machine

namespace Sys2Proof.Machine
open Sys2Proof

/-! ### A domain that overruns its switching time -/

/-- The state in which the warm reset is asked for after domain `n` has overrun its time: its partitions are fenced with reason POWER,
and the event is entered (R587). -/
def fencedForOverrun (n : Nat) (s : State) : State :=
  logE { cls := 6, code := 0xD, sev := 3, data := [n] } (foldS (pdPts s n) (fun p => placeReason 10 p 2) s)

theorem exec_domainSwitchDone_overrun {n : Nat} {s : State} (h : tget 0 s.pd n = 2) :
    exec (.domainSwitchDone n false) s =
      .next (startWarm 8 10 ((pdPts (fencedForOverrun n s) n).headD 0) true (fencedForOverrun n s)) := by
  show execDomainSwitchDone n false s = _
  simp [execDomainSwitchDone, done, h, fencedForOverrun]

/-- Where no reset of the package runs or waits and no job is left, a warm reset has nobody to tell and begins at once (R425). -/
theorem startWarm_of_no_jobs {s : State} (hp : s.pkg = {}) (hj : s.jobs = []) (cause kind index : Nat) (esc : Bool) :
    startWarm cause kind index esc s = warmNow cause kind index esc s := by
  simp [startWarm, mustTell, hp, hj]

/-! ### The counterexample -/

/-- A unit after reset whose partition 0 is held in a partition reset (R483), with a job in a context of that partition, while the
analogue domain of die 0 switches (R572). -/
def heldWithJob : State :=
  { State.reset with
    pd := [(0, 2)], jobs := [(0, { st := 1 })], units := [(ukey 10 0, { reasons := 2, inReset := true })],
    parts := [(0, { resetting := true, step := 4 })] }

theorem mustTell_heldWithJob : mustTell heldWithJob 8 = true := by decide +kernel

/-- A further reason on a partition that is held in its reset enters the reset again, which empties the partition: the job goes. -/
theorem fencedForOverrun_heldWithJob_jobs : (fencedForOverrun 0 heldWithJob).jobs = [] := by decide +kernel

theorem fencedForOverrun_heldWithJob_pkg : (fencedForOverrun 0 heldWithJob).pkg = {} := by decide +kernel

theorem warmNow_heldWithJob_warmRunning :
    (warmNow 8 10 ((pdPts (fencedForOverrun 0 heldWithJob) 0).headD 0) true (fencedForOverrun 0 heldWithJob)).pkg.warmRunning =
      true := by decide +kernel

/-- Refutes O23: its clause about a domain that has not switched lets the warm reset wait whenever a job had members to tell before.
The command first fences the partitions of the domain with reason POWER; where one of them is already held in its reset, that empties
it again (R483) and ends its jobs, and the warm reset begins with nobody told (R425). -/
theorem not_powerEvents : ¬ Obligations.PowerEvents := by
  rintro ⟨-, -, domains, -⟩
  obtain ⟨-, -, waits⟩ := domains 0 heldWithJob rfl
  obtain ⟨t, ht, hwarm, -⟩ := waits rfl mustTell_heldWithJob
  rw [exec_domainSwitchDone_overrun rfl,
    startWarm_of_no_jobs fencedForOverrun_heldWithJob_pkg fencedForOverrun_heldWithJob_jobs] at ht
  rw [← Host.Outcome.next.inj ht, warmNow_heldWithJob_warmRunning] at hwarm
  exact Bool.noConfusion hwarm

end Sys2Proof.Machine

namespace Sys2Proof.Machine
open Sys2Proof

/-! ### Exact fractions and their binary logarithm -/

theorem scale2_den_pos {num den : Nat} (hd : 0 < den) (q : Int) : 0 < (scale2 num den q).2 := by
  cases q with
  | ofNat k => exact Nat.mul_pos hd (Nat.two_pow_pos k)
  | negSucc k => exact hd

theorem scale2_div (num den : Nat) (q : Int) :
    ((scale2 num den q).1 : ℚ) / (scale2 num den q).2 = num / den / 2 ^ q := by
  cases q with
  | ofNat k => simp [scale2, div_div]
  | negSucc k => simp only [scale2, Nat.cast_mul, Nat.cast_pow, Nat.cast_ofNat, zpow_negSucc, div_inv_eq_mul]; ring

/-- The comparison of a scaled fraction with 1, as `floorLog2` and `ceilLog2` make it. -/
theorem scale2_le_iff {num den : Nat} (hd : 0 < den) (q : Int) :
    (scale2 num den q).2 ≤ (scale2 num den q).1 ↔ (2 : ℚ) ^ q ≤ num / den := by
  have hpos : (0 : ℚ) < (scale2 num den q).2 := by exact_mod_cast scale2_den_pos hd q
  rw [← @Nat.cast_le ℚ, ← one_le_div hpos, scale2_div, one_le_div (by positivity)]

theorem scale2_eq_iff {num den : Nat} (hd : 0 < den) (q : Int) :
    (scale2 num den q).1 = (scale2 num den q).2 ↔ (num : ℚ) / den = 2 ^ q := by
  have hpos : ((scale2 num den q).2 : ℚ) ≠ 0 := by exact_mod_cast (scale2_den_pos hd q).ne'
  rw [← @Nat.cast_inj ℚ, ← div_eq_one_iff_eq hpos, scale2_div, div_eq_one_iff_eq (by positivity)]

theorem two_zpow_add_one (k : Int) : (2 : ℚ) ^ (k + 1) = 2 * 2 ^ k := by rw [zpow_add_one₀ two_ne_zero, mul_comm]

/-- A quotient lies within a factor of two of the quotient of the powers of two below numerator and denominator. -/
theorem div_mem_of_log2 {num den : Nat} (hn : 0 < num) (hd : 0 < den) :
    (2 : ℚ) ^ ((num.log2 : Int) - den.log2) < 2 * (num / den) ∧ (num : ℚ) / den < 2 * 2 ^ ((num.log2 : Int) - den.log2) := by
  have hd' : (0 : ℚ) < den := by exact_mod_cast hd
  have n1 : (2 : ℚ) ^ num.log2 ≤ num := by exact_mod_cast Nat.log2_self_le hn.ne'
  have n2 : (num : ℚ) < 2 ^ (num.log2 + 1) := by exact_mod_cast Nat.lt_log2_self
  have d1 : (2 : ℚ) ^ den.log2 ≤ den := by exact_mod_cast Nat.log2_self_le hd.ne'
  have d2 : (den : ℚ) < 2 ^ (den.log2 + 1) := by exact_mod_cast Nat.lt_log2_self
  rw [pow_succ] at n2 d2
  have hN : (0 : ℚ) < 2 ^ num.log2 := by positivity
  have hD : (0 : ℚ) < 2 ^ den.log2 := by positivity
  rw [zpow_sub₀ two_ne_zero, zpow_natCast, zpow_natCast]
  constructor
  · rw [mul_div_assoc', div_lt_div_iff₀ hD hd']
    nlinarith
  · rw [mul_div_assoc', div_lt_div_iff₀ hd' hD]
    nlinarith

theorem floorLog2_spec {num den : Nat} (hn : 0 < num) (hd : 0 < den) :
    (2 : ℚ) ^ floorLog2 num den ≤ num / den ∧ (num : ℚ) / den < 2 ^ (floorLog2 num den + 1) := by
  obtain ⟨lower, upper⟩ := div_mem_of_log2 hn hd
  simp only [floorLog2]
  split
  next h => exact ⟨(scale2_le_iff hd _).mp h, by rwa [two_zpow_add_one]⟩
  next h =>
    rw [scale2_le_iff hd, not_le] at h
    have half := two_zpow_add_one ((num.log2 : Int) - den.log2 - 1)
    rw [sub_add_cancel] at half ⊢
    exact ⟨by linarith, h⟩

theorem floorLog2_eq {num den : Nat} (hn : 0 < num) (hd : 0 < den) {k : Int} (h1 : (2 : ℚ) ^ k ≤ num / den)
    (h2 : (num : ℚ) / den < 2 ^ (k + 1)) : floorLog2 num den = k := by
  obtain ⟨g1, g2⟩ := floorLog2_spec hn hd
  have a := (zpow_lt_zpow_iff_right₀ (one_lt_two (α := ℚ))).mp (h1.trans_lt g2)
  have b := (zpow_lt_zpow_iff_right₀ (one_lt_two (α := ℚ))).mp (g1.trans_lt h2)
  omega

theorem ceilLog2_spec {num den : Nat} (hn : 0 < num) (hd : 0 < den) :
    (2 : ℚ) ^ ceilLog2 num den < 2 * (num / den) ∧ (num : ℚ) / den ≤ 2 ^ ceilLog2 num den := by
  obtain ⟨lower, upper⟩ := floorLog2_spec hn hd
  have hpos : (0 : ℚ) < 2 ^ floorLog2 num den := by positivity
  simp only [ceilLog2]
  split
  next h =>
    rw [scale2_eq_iff hd] at h
    exact ⟨by linarith, h.le⟩
  next h =>
    rw [scale2_eq_iff hd] at h
    refine ⟨?_, upper.le⟩
    rw [two_zpow_add_one]
    have := lt_of_le_of_ne lower (Ne.symm h)
    linarith

/-! ### Rounding to a whole number -/

/-- The factor of a sign. -/
def sgn (neg : Bool) : ℚ := if neg then -1 else 1

section
variable {d : Nat} (hd : 0 < d) (rm : Rm) (neg : Bool) (n : Nat)

include hd

/-- Every mode gives the floor, or one more where the fraction is not whole. -/
theorem roundFrac_cases : roundFrac rm neg n d = n / d ∨ roundFrac rm neg n d = n / d + 1 ∧ n % d ≠ 0 := by
  cases rm with
  | rne =>
    simp only [roundFrac]
    split_ifs with h1 h2
    · exact .inl rfl
    · exact .inr ⟨rfl, by omega⟩
    · rcases Nat.mod_two_eq_zero_or_one (n / d) with e | e
      · exact .inl (by rw [e, add_zero])
      · exact .inr ⟨by rw [e], by omega⟩
  | rtz => exact .inl rfl
  | rdn => cases neg <;> by_cases h : n % d = 0 <;> simp [roundFrac, h]
  | rup => cases neg <;> by_cases h : n % d = 0 <;> simp [roundFrac, h]

theorem roundFrac_le {z : Nat} (h : (n : ℚ) / d ≤ z) : roundFrac rm neg n d ≤ z := by
  have hd' : (0 : ℚ) < d := by exact_mod_cast hd
  rw [div_le_iff₀ hd'] at h
  have h : n ≤ z * d := by exact_mod_cast h
  have le : n / d ≤ z := Nat.div_le_of_le_mul (by rwa [mul_comm])
  rcases roundFrac_cases hd rm neg n with e | ⟨e, ne⟩
  · omega
  · rcases le.lt_or_eq with lt | eq
    · omega
    · have := Nat.div_add_mod n d
      rw [eq, mul_comm] at this
      omega

theorem le_roundFrac {z : Nat} (h : (z : ℚ) ≤ n / d) : z ≤ roundFrac rm neg n d := by
  have hd' : (0 : ℚ) < d := by exact_mod_cast hd
  rw [le_div_iff₀ hd'] at h
  have le : z ≤ n / d := (Nat.le_div_iff_mul_le hd).mpr (by exact_mod_cast h)
  rcases roundFrac_cases hd rm neg n with e | ⟨e, -⟩ <;> omega

theorem roundFrac_of_eq {z : Nat} (h : (n : ℚ) / d = z) : roundFrac rm neg n d = z :=
  (roundFrac_le hd rm neg n h.le).antisymm (le_roundFrac hd rm neg n h.ge)

/-- The fraction, as its floor and its remainder. -/
theorem div_eq_floor_add : (n : ℚ) / d = (n / d : ℕ) + (n % d : ℕ) / d := by
  have hd' : (d : ℚ) ≠ 0 := by exact_mod_cast hd.ne'
  have h : (n : ℚ) = d * (n / d : ℕ) + (n % d : ℕ) := by exact_mod_cast (Nat.div_add_mod n d).symm
  field_simp
  exact h

omit hd in
theorem roundFrac_rtz_le : (roundFrac .rtz neg n d : ℚ) ≤ n / d := Nat.cast_div_le

theorem floor_add_one_ge : (n : ℚ) / d ≤ (n / d + 1 : ℕ) := by
  have hd' : (0 : ℚ) < d := by exact_mod_cast hd
  rw [div_le_iff₀ hd']
  exact_mod_cast (by rw [mul_comm]; exact (Nat.lt_mul_div_succ n hd).le : n ≤ (n / d + 1) * d)

/-- Rounding down makes a positive magnitude no greater and a negative one no smaller. -/
theorem roundFrac_rdn_le : sgn neg * roundFrac .rdn neg n d ≤ sgn neg * (n / d) := by
  cases neg with
  | false => simpa [sgn, roundFrac] using Nat.cast_div_le (α := ℚ)
  | true =>
    by_cases h : n % d = 0
    · have := div_eq_floor_add hd n
      simp_all [sgn, roundFrac]
    · have := floor_add_one_ge hd n
      simpa [sgn, roundFrac, h] using this

theorem le_roundFrac_rup : sgn neg * (n / d) ≤ sgn neg * roundFrac .rup neg n d := by
  cases neg with
  | true => simpa [sgn, roundFrac] using Nat.cast_div_le (α := ℚ)
  | false =>
    by_cases h : n % d = 0
    · have := div_eq_floor_add hd n
      simp_all [sgn, roundFrac]
    · have := floor_add_one_ge hd n
      simpa [sgn, roundFrac, h] using this

/-- Rounding to nearest even is off by at most a half, and by a half only where it gives an even number. -/
theorem roundFrac_rne :
    |(roundFrac .rne neg n d : ℚ) - n / d| ≤ 1 / 2 ∧
      (|(roundFrac .rne neg n d : ℚ) - n / d| = 1 / 2 → roundFrac .rne neg n d % 2 = 0) := by
  have hd' : (0 : ℚ) < d := by exact_mod_cast hd
  rw [div_eq_floor_add hd n]
  obtain ⟨x, hx⟩ : ∃ x : ℚ, x = (n % d : ℕ) / d := ⟨_, rfl⟩
  have hmul : ((n % d : ℕ) : ℚ) = x * d := by rw [hx, div_mul_cancel₀ _ hd'.ne']
  have hx0 : 0 ≤ x := by rw [hx]; positivity
  have hx1 : x < 1 := by rw [hx, div_lt_one hd']; exact_mod_cast Nat.mod_lt n hd
  have below : 2 * (n % d) < d ↔ x < 1 / 2 := by
    rw [← @Nat.cast_lt ℚ, Nat.cast_mul, hmul]
    constructor <;> intro h <;> push_cast at * <;> nlinarith
  have above : d < 2 * (n % d) ↔ 1 / 2 < x := by
    rw [← @Nat.cast_lt ℚ, Nat.cast_mul, hmul]
    constructor <;> intro h <;> push_cast at * <;> nlinarith
  rw [← hx]
  simp only [roundFrac, below, above]
  split_ifs with h1 h2
  · rw [show ((n / d : ℕ) : ℚ) - ((n / d : ℕ) + x) = -x by ring, abs_neg, abs_of_nonneg hx0]
    exact ⟨h1.le, fun h => absurd h h1.ne⟩
  · rw [show ((n / d + 1 : ℕ) : ℚ) - ((n / d : ℕ) + x) = 1 - x by push_cast; ring, abs_of_pos (by linarith)]
    exact ⟨by linarith, fun h => absurd h (by linarith)⟩
  · have hx2 : x = 1 / 2 := by linarith
    refine ⟨?_, fun _ => by omega⟩
    rcases Nat.mod_two_eq_zero_or_one (n / d) with e | e <;> rw [e, hx2, abs_le] <;> constructor <;> push_cast <;> linarith

/-- No whole number lies nearer to the fraction than what rounding to nearest even gives. -/
theorem roundFrac_nearest (z : ℕ) : |(roundFrac .rne neg n d : ℚ) - n / d| ≤ |(z : ℚ) - n / d| := by
  obtain ⟨near, -⟩ := roundFrac_rne hd neg n
  by_cases h : roundFrac .rne neg n d = z
  · rw [h]
  · have far : (1 : ℚ) ≤ |(z : ℚ) - roundFrac .rne neg n d| := by
      rw [← Int.cast_natCast z, ← Int.cast_natCast (roundFrac .rne neg n d), ← Int.cast_sub, ← Int.cast_abs]
      exact_mod_cast Int.one_le_abs (sub_ne_zero.mpr fun e => h (Int.ofNat_inj.mp e.symm))
    have := abs_sub_le (z : ℚ) (n / d) (roundFrac .rne neg n d)
    rw [abs_sub_comm (n / d : ℚ)] at this
    linarith

end

end Sys2Proof.Machine

namespace Sys2Proof.Machine
open Sys2Proof

/-! ### Division by a power of two, rounded to nearest even (R63, R64) -/

/-- `rneShift x k` is the whole number nearest to `x / 2^k`, the even one on a tie. -/
theorem rneShift_spec (x : Int) (k : Nat) :
    |(rneShift x k : ℚ) - x / 2 ^ k| ≤ 1 / 2 ∧ (|(rneShift x k : ℚ) - x / 2 ^ k| = 1 / 2 → rneShift x k % 2 = 0) := by
  have h := roundFrac_rne (Nat.two_pow_pos k) (decide (x < 0)) x.natAbs
  rw [Nat.cast_pow, Nat.cast_ofNat] at h
  simp only [rneShift]
  split
  next hx =>
    have hc : ((x.natAbs : ℕ) : ℚ) = -x := by rw [Nat.cast_natAbs, abs_of_neg hx, Int.cast_neg]
    rw [hc] at h
    rw [Int.cast_neg, Int.cast_natCast, ← abs_neg, show ∀ m : ℚ, -(-m - x / 2 ^ k) = m - -x / 2 ^ k by intro m; ring]
    exact ⟨h.1, fun e => by have := h.2 e; omega⟩
  next hx =>
    have hc : ((x.natAbs : ℕ) : ℚ) = x := by rw [Nat.cast_natAbs, abs_of_nonneg (not_lt.mp hx)]
    rw [hc] at h
    rw [Int.cast_natCast]
    exact ⟨h.1, fun e => by have := h.2 e; omega⟩

/-- Settles O59: the calibrated code is a division by 2^15, and |g (8 c - o)| is at most 49,151 x 2,303. -/
theorem calibratedCodeIsNearestEighth : Obligations.CalibratedCodeIsNearestEighth := by
  intro x c hc1 hc2 hg1 hg2 ho1 ho2 y k
  have hy : y = ((x.g * (8 * c - x.o) : Int) : ℚ) / 2 ^ 15 := by
    simp only [y]
    push_cast
    ring
  obtain ⟨near, even⟩ := rneShift_spec (x.g * (8 * c - x.o)) 15
  rw [← hy] at near even
  refine ⟨?_, near, even⟩
  have bound : |(x.g * (8 * c - x.o) : Int)| ≤ 49151 * 2303 := by
    rw [abs_mul]
    exact mul_le_mul (abs_le.mpr (by omega)) (abs_le.mpr (by omega)) (abs_nonneg _) (by norm_num)
  have boundQ : |y| ≤ 49151 * 2303 / 2 ^ 15 := by
    rw [hy, abs_div, abs_of_pos (by positivity : (0 : ℚ) < 2 ^ 15)]
    gcongr
    exact_mod_cast bound
  have : |(k : ℚ)| < 3457 := by
    have := abs_sub_abs_le_abs_sub (k : ℚ) y
    have : |(k : ℚ) - y| ≤ 1 / 2 := near
    norm_num at boundQ
    linarith
  have : |k| < 3457 := by exact_mod_cast this
  omega

/-! ### Aligned codes and narrow sums (R64, R65) -/

/-- Rounding to nearest as O60 states it, cleared of its denominators. -/
theorem alignCode_near {n : Nat} (hn : n < 16) (k : Int) :
    |2 ^ n * alignCode k n * 2 - k * 2| ≤ 2 ^ n ∧
      (|2 ^ n * alignCode k n * 2 - k * 2| = 2 ^ n → alignCode k n % 2 = 0) := by
  rw [alignCode, if_neg (by omega)]
  obtain ⟨near, even⟩ := rneShift_spec k n
  have hpos : (0 : ℚ) < 2 ^ n := by positivity
  have cleared : ((|2 ^ n * rneShift k n * 2 - k * 2| : Int) : ℚ) = |(rneShift k n : ℚ) - k / 2 ^ n| * (2 * 2 ^ n) := by
    calc ((|2 ^ n * rneShift k n * 2 - k * 2| : Int) : ℚ) = |((rneShift k n : ℚ) - k / 2 ^ n) * (2 * 2 ^ n)| := by
          rw [Int.cast_abs]
          push_cast
          field_simp
      _ = _ := by rw [abs_mul, abs_of_pos (by positivity : (0 : ℚ) < 2 * 2 ^ n)]
  constructor
  · rw [← @Int.cast_le ℚ, cleared]
    push_cast
    nlinarith
  · intro e
    rw [← @Int.cast_inj ℚ, cleared] at e
    push_cast at e
    exact even (by nlinarith)

theorem sat16_of_mem {a k : Int} (h1 : -32768 ≤ a + k) (h2 : a + k ≤ 32767) : sat16 a k = a + k := by
  rw [sat16]
  omega

theorem narrow16_append (ks : List Int) (k : Int) : narrow16 (ks ++ [k]) =
    (sat16 (narrow16 ks).1 k, (narrow16 ks).2 || decide (sat16 (narrow16 ks).1 k ≠ (narrow16 ks).1 + k)) := by
  simp [narrow16, List.foldl_append]

theorem narrow16_mem (ks : List Int) : -32768 ≤ (narrow16 ks).1 ∧ (narrow16 ks).1 ≤ 32767 := by
  induction ks using List.reverseRecOn with
  | nil => exact ⟨by decide, by decide⟩
  | append_singleton ks k _ =>
    rw [narrow16_append, sat16]
    exact ⟨by omega, by omega⟩

/-- A narrow sum is exact where no sum of its first terms leaves INT16. -/
theorem narrow16_exact (ks : List Int) (h : ∀ n, -32768 ≤ (ks.take n).sum ∧ (ks.take n).sum ≤ 32767) :
    narrow16 ks = (ks.sum, false) := by
  induction ks using List.reverseRecOn with
  | nil => rfl
  | append_singleton ks k ih =>
    have exact : narrow16 ks = (ks.sum, false) := ih fun n => by
      rcases le_total n ks.length with hn | hn
      · simpa [List.take_append, Nat.sub_eq_zero_of_le hn] using h n
      · simpa [List.take_of_length_le hn] using h ks.length
    have all := h (ks.length + 1)
    rw [List.take_of_length_le (by simp), List.sum_append, List.sum_singleton] at all
    rw [narrow16_append, exact, sat16_of_mem all.1 all.2, List.sum_append, List.sum_singleton]
    simp

theorem abs_sum_le_of_abs_le {B : Int} (ks : List Int) (h : ∀ k ∈ ks, |k| ≤ B) : |ks.sum| ≤ ks.length * B := by
  induction ks with
  | nil => simp
  | cons k ks ih =>
    have := ih fun x hx => h x (List.mem_cons_of_mem _ hx)
    have := h k List.mem_cons_self
    have := abs_add_le k ks.sum
    rw [List.sum_cons, List.length_cons]
    push_cast
    linarith

/-- Settles O60: alignment is a rounded division, and a narrow sum of at most eight codes of at most 3,456 cannot leave INT16. -/
theorem alignedCodesAndNarrowSums : Obligations.AlignedCodesAndNarrowSums := by
  refine ⟨fun k n => ⟨fun hn => if_pos hn, fun hn => ?_⟩, fun ks hlen hk => narrow16_exact ks fun n => ?_, fun ks => ?_⟩
  · obtain ⟨near, even⟩ := alignCode_near hn k
    exact ⟨near, fun e _ => even e⟩
  · have bound := abs_sum_le_of_abs_le (ks.take n) fun k h => hk k (List.mem_of_mem_take h)
    have short : (ks.take n).length ≤ 8 := (List.length_take_le' n ks).trans hlen
    rw [abs_le] at bound
    omega
  · obtain ⟨lower, upper⟩ := narrow16_mem ks
    refine ⟨lower, upper, narrow16_exact ks, fun k => ⟨fun above => ?_, fun below => ?_⟩⟩
    · have sat : sat16 (narrow16 ks).1 k = 32767 := by rw [sat16]; omega
      rw [narrow16_append, sat]
      simp [above.ne]
    · have sat : sat16 (narrow16 ks).1 k = -32768 := by rw [sat16]; omega
      rw [narrow16_append, sat]
      simp [below.ne']

/-! ### Faulted parts (R67, R138) -/

/-- Settles O3: a faulted part is one word of its mode, repeated for each column and for E_max. -/
theorem faultedPartIsNaN : Obligations.FaultedPartIsNaN := by
  intro i a x
  have words : (partWords i a true).map (·.val) = List.replicate (blockCols x a.cb + b2n (x.mode == 2)) (nanWord x.mode) := by
    rw [partWords, if_pos rfl, List.map_replicate]
  rw [words]
  refine ⟨fun w hw => List.eq_of_mem_replicate hw, ?_⟩
  rw [List.length_replicate, b2n]
  simp [blockCols]

end Sys2Proof.Machine

namespace Sys2Proof.Machine
open Sys2Proof

/-! ### The magnitudes of a floating-point format, counted in its smallest subnormal (R51) -/

/-- The magnitude of the code `mag` with `mb` mantissa bits, in units of the smallest subnormal. -/
def magCount (mb mag : Nat) : Nat :=
  if mag / 2 ^ mb = 0 then mag % 2 ^ mb else (mag % 2 ^ mb + 2 ^ mb) * 2 ^ (mag / 2 ^ mb - 1)

/-- The code of `m` steps of `2^k`: the mantissa may carry into the next exponent. -/
theorem magCount_of_steps {mb k m : Nat} (hk : k = 0 ∨ 2 ^ mb ≤ m) (hm : m ≤ 2 ^ (mb + 1)) :
    magCount mb (k * 2 ^ mb + m) = m * 2 ^ k := by
  have hpos := Nat.two_pow_pos mb
  have hsucc := Nat.pow_succ 2 mb
  rcases lt_or_ge m (2 ^ mb) with h | h
  · obtain rfl : k = 0 := by omega
    simp [magCount, Nat.div_eq_of_lt h, Nat.mod_eq_of_lt h]
  · rcases hm.lt_or_eq with h' | rfl
    · obtain ⟨j, rfl⟩ := Nat.exists_eq_add_of_le' h
      have code : k * 2 ^ mb + (j + 2 ^ mb) = j + 2 ^ mb * (k + 1) := by ring
      have hj : j < 2 ^ mb := by omega
      simp [magCount, code, Nat.add_mul_div_left _ _ hpos, Nat.div_eq_of_lt hj, Nat.mod_eq_of_lt hj]
    · have code : k * 2 ^ mb + 2 ^ (mb + 1) = 2 ^ mb * (k + 2) := by ring
      simp only [magCount, code, Nat.mul_div_cancel_left _ hpos, Nat.mul_mod_right]
      rw [if_neg (by omega), show k + 2 - 1 = k + 1 from rfl]
      ring

/-- Every code is a number of steps, of which there are fewer than two binades. -/
theorem exists_steps (mb c : Nat) : ∃ k m, c = k * 2 ^ mb + m ∧ (k = 0 ∨ 2 ^ mb ≤ m) ∧ m < 2 ^ (mb + 1) := by
  have hpos := Nat.two_pow_pos mb
  have hsucc := Nat.pow_succ 2 mb
  have hmod := Nat.mod_lt c hpos
  have hdiv := Nat.div_add_mod c (2 ^ mb)
  rcases Nat.eq_zero_or_pos (c / 2 ^ mb) with h | h
  · refine ⟨0, c, by omega, .inl rfl, ?_⟩
    rw [h] at hdiv
    omega
  · obtain ⟨k, hk⟩ := Nat.exists_eq_add_of_lt h
    refine ⟨k, c % 2 ^ mb + 2 ^ mb, ?_, .inr (by omega), by omega⟩
    rw [hk] at hdiv
    rw [← hdiv]
    simp
    ring

theorem magCount_strictMono (mb : Nat) : StrictMono (magCount mb) := by
  refine strictMono_nat_of_lt_succ fun c => ?_
  obtain ⟨k, m, rfl, hk, hm⟩ := exists_steps mb c
  rw [add_assoc, magCount_of_steps hk hm.le, magCount_of_steps (by omega) hm]
  exact Nat.mul_lt_mul_of_pos_right m.lt_succ_self (Nat.two_pow_pos k)

/-- Above the first `2^mb` steps of `2^k`, every magnitude is a number of such steps. -/
theorem magCount_dvd {mb k c : Nat} (h : 2 ^ (k + mb) ≤ magCount mb c) : 2 ^ k ∣ magCount mb c := by
  obtain ⟨j, m, rfl, hj, hm⟩ := exists_steps mb c
  rw [magCount_of_steps hj hm.le] at h ⊢
  have : 2 ^ (k + mb) < 2 ^ (mb + 1 + j) := by
    rw [pow_add 2 (mb + 1) j]
    exact h.trans_lt (Nat.mul_lt_mul_of_pos_right hm (Nat.two_pow_pos j))
  have := (Nat.pow_lt_pow_iff_right one_lt_two).mp this
  exact dvd_mul_of_dvd_right (pow_dvd_pow 2 (by omega)) m

/-! ### Rounding onto the codes of a format (R55 to R57)

`num / den` is the magnitude, `Y` the same in units of the smallest subnormal `2^q0`, `2^k` of these the spacing of the codes at `Y`,
and `X / D` the number of such steps in `Y`. -/

/-- The steps of `2^q0` that the spacing of the codes at `num / den` takes, as a power of two. -/
def gridStep (num den mb : Nat) (q0 : Int) : Nat := (max (floorLog2 num den - mb) q0 - q0).toNat

/-- The code that a positive magnitude is rounded to, before any overflow. -/
def roundedMag (rm : Rm) (neg : Bool) (num den mb : Nat) (q0 : Int) : Nat :=
  let r := roundGrid rm neg num den mb q0
  (r.2.1 - q0).toNat * 2 ^ mb + r.1

section
variable {num den : Nat} (hn : 0 < num) (hd : 0 < den) (mb : Nat) (q0 : Int)

theorem gridExp_eq (num den : Nat) : max (floorLog2 num den - mb) q0 = q0 + gridStep num den mb q0 := by
  rw [gridStep]
  omega

/-- The scaled fraction that is rounded is the magnitude in steps of the grid. -/
theorem gridFrac_eq (num den : Nat) :
    ((scale2 num den (max (floorLog2 num den - mb) q0)).1 : ℚ) / (scale2 num den (max (floorLog2 num den - mb) q0)).2 =
      num / den / 2 ^ q0 / 2 ^ gridStep num den mb q0 := by
  rw [scale2_div, gridExp_eq, zpow_add₀ two_ne_zero, zpow_natCast, div_div (num / den : ℚ)]

include hn hd

/-- The magnitude is below two binades of steps, and at or above one unless the step is the smallest. -/
theorem gridFrac_bounds : (num : ℚ) / den / 2 ^ q0 < 2 ^ (mb + 1) * 2 ^ gridStep num den mb q0 ∧
    (gridStep num den mb q0 = 0 ∨ (2 : ℚ) ^ mb * 2 ^ gridStep num den mb q0 ≤ num / den / 2 ^ q0) := by
  obtain ⟨lower, upper⟩ := floorLog2_spec hn hd
  have hpos : (0 : ℚ) < 2 ^ q0 := by positivity
  have two (a b : Nat) : (2 : ℚ) ^ a * 2 ^ b * 2 ^ q0 = 2 ^ ((a : Int) + b + q0) := by
    rw [zpow_add₀ two_ne_zero, zpow_add₀ two_ne_zero, zpow_natCast, zpow_natCast]
  rw [div_lt_iff₀ hpos, le_div_iff₀ hpos, two, two]
  constructor
  · refine upper.trans_le (zpow_le_zpow_right₀ one_le_two ?_)
    rw [gridStep]
    push_cast
    omega
  · rcases Nat.eq_zero_or_pos (gridStep num den mb q0) with h | h
    · exact .inl h
    · refine .inr (le_trans (zpow_le_zpow_right₀ one_le_two ?_) lower)
      rw [gridStep] at h ⊢
      omega

/-- The count of steps that the rounding gives is that of a code. -/
theorem roundGrid_steps (rm : Rm) (neg : Bool) :
    (gridStep num den mb q0 = 0 ∨ 2 ^ mb ≤ (roundGrid rm neg num den mb q0).1) ∧
      (roundGrid rm neg num den mb q0).1 ≤ 2 ^ (mb + 1) := by
  obtain ⟨upper, lower⟩ := gridFrac_bounds hn hd mb q0
  have hden := scale2_den_pos (num := num) hd (max (floorLog2 num den - mb) q0)
  have hpos : (0 : ℚ) < 2 ^ gridStep num den mb q0 := by positivity
  refine ⟨lower.imp_right fun h => le_roundFrac hden rm neg _ ?_, roundFrac_le hden rm neg _ ?_⟩
  · rw [gridFrac_eq, le_div_iff₀ hpos]
    exact_mod_cast h
  · rw [gridFrac_eq, div_le_iff₀ hpos]
    exact_mod_cast upper.le

theorem magCount_roundedMag (rm : Rm) (neg : Bool) : magCount mb (roundedMag rm neg num den mb q0) =
    (roundGrid rm neg num den mb q0).1 * 2 ^ gridStep num den mb q0 := by
  obtain ⟨lower, upper⟩ := roundGrid_steps hn hd mb q0 rm neg
  exact magCount_of_steps lower upper

/-- A code at or above the magnitude is a whole number of steps. -/
theorem step_dvd_of_le {c : Nat} (h : (num : ℚ) / den / 2 ^ q0 ≤ magCount mb c) :
    2 ^ gridStep num den mb q0 ∣ magCount mb c := by
  rcases (gridFrac_bounds hn hd mb q0).2 with h0 | lower
  · rw [h0, pow_zero]
    exact one_dvd _
  · refine magCount_dvd ?_
    rw [add_comm, pow_add]
    exact_mod_cast lower.trans h

/-- A code below the magnitude is a whole number of steps, or lies below one that is: the first code of the binade. -/
theorem step_dvd_or_lt (c : Nat) : 2 ^ gridStep num den mb q0 ∣ magCount mb c ∨
    ∃ z : Nat, magCount mb c < z * 2 ^ gridStep num den mb q0 ∧ (z * 2 ^ gridStep num den mb q0 : ℚ) ≤ num / den / 2 ^ q0 := by
  rcases (gridFrac_bounds hn hd mb q0).2 with h0 | lower
  · rw [h0, pow_zero]
    exact .inl (one_dvd _)
  · rcases le_or_gt (2 ^ (gridStep num den mb q0 + mb)) (magCount mb c) with h | h
    · exact .inl (magCount_dvd h)
    · refine .inr ⟨2 ^ mb, by rwa [← pow_add, add_comm mb], by exact_mod_cast lower⟩

/-- Rounding keeps the order between a magnitude and a code above it. -/
theorem roundedMag_le (rm : Rm) (neg : Bool) {c : Nat} (h : (num : ℚ) / den / 2 ^ q0 ≤ magCount mb c) :
    roundedMag rm neg num den mb q0 ≤ c := by
  have hden := scale2_den_pos (num := num) hd (max (floorLog2 num den - mb) q0)
  obtain ⟨z, hz⟩ := step_dvd_of_le hn hd mb q0 h
  rw [← (magCount_strictMono mb).le_iff_le, magCount_roundedMag hn hd, hz, mul_comm]
  refine Nat.mul_le_mul_left _ (roundFrac_le hden rm neg _ ?_)
  rw [gridFrac_eq, div_le_iff₀ (by positivity)]
  rw [hz] at h
  exact_mod_cast h.trans_eq (by push_cast; ring)

/-- Rounding keeps the order between a magnitude and a code below it. -/
theorem le_roundedMag (rm : Rm) (neg : Bool) {c : Nat} (h : (magCount mb c : ℚ) ≤ num / den / 2 ^ q0) :
    c ≤ roundedMag rm neg num den mb q0 := by
  have hden := scale2_den_pos (num := num) hd (max (floorLog2 num den - mb) q0)
  have count {z : Nat} (hz : (z * 2 ^ gridStep num den mb q0 : ℚ) ≤ num / den / 2 ^ q0) :
      z * 2 ^ gridStep num den mb q0 ≤ (roundGrid rm neg num den mb q0).1 * 2 ^ gridStep num den mb q0 := by
    refine Nat.mul_le_mul_right _ (le_roundFrac hden rm neg _ ?_)
    rwa [gridFrac_eq, le_div_iff₀ (by positivity)]
  rw [← (magCount_strictMono mb).le_iff_le, magCount_roundedMag hn hd]
  rcases step_dvd_or_lt hn hd mb q0 c with ⟨z, hz⟩ | ⟨z, hlt, hle⟩
  · rw [hz, mul_comm (2 ^ _) z]
    refine count ?_
    rw [hz] at h
    exact_mod_cast (by push_cast; ring : _ = _).trans_le h
  · exact hlt.le.trans (count hle)

/-- A magnitude that a code stands for is rounded to that code, and nothing is lost. -/
theorem roundGrid_of_eq (rm : Rm) (neg : Bool) {c : Nat} (h : (num : ℚ) / den / 2 ^ q0 = magCount mb c) :
    roundedMag rm neg num den mb q0 = c ∧ (roundGrid rm neg num den mb q0).2.2 = false := by
  have hden := scale2_den_pos (num := num) hd (max (floorLog2 num den - mb) q0)
  refine ⟨(roundedMag_le hn hd mb q0 rm neg h.le).antisymm (le_roundedMag hn hd mb q0 rm neg h.ge), ?_⟩
  obtain ⟨z, hz⟩ := step_dvd_of_le hn hd mb q0 h.le
  have whole := gridFrac_eq mb q0 num den
  rw [h, hz, Nat.cast_mul, Nat.cast_pow, Nat.cast_ofNat, mul_div_cancel_left₀ _ (by positivity),
    div_eq_iff (by exact_mod_cast hden.ne')] at whole
  have whole : (scale2 num den (max (floorLog2 num den - mb) q0)).1 = z * (scale2 num den (max (floorLog2 num den - mb) q0)).2 := by
    exact_mod_cast whole
  simp [roundGrid, whole]

/-- No code lies nearer to a magnitude than the one that rounding to nearest even gives. -/
theorem roundedMag_nearest (neg : Bool) (c : Nat) :
    |(magCount mb (roundedMag .rne neg num den mb q0) : ℚ) - num / den / 2 ^ q0| ≤ |(magCount mb c : ℚ) - num / den / 2 ^ q0| := by
  have hden := scale2_den_pos (num := num) hd (max (floorLog2 num den - mb) q0)
  have hpos : (0 : ℚ) < 2 ^ gridStep num den mb q0 := by positivity
  have inSteps (x : ℚ) : |x - num / den / 2 ^ q0 / 2 ^ gridStep num den mb q0| * 2 ^ gridStep num den mb q0 =
      |x * 2 ^ gridStep num den mb q0 - num / den / 2 ^ q0| := by
    calc _ = |x - num / den / 2 ^ q0 / 2 ^ gridStep num den mb q0| * |2 ^ gridStep num den mb q0| := by rw [abs_of_pos hpos]
      _ = _ := by rw [← abs_mul, sub_mul, div_mul_cancel₀ _ hpos.ne']
  have near (z : Nat) : |(magCount mb (roundedMag .rne neg num den mb q0) : ℚ) - num / den / 2 ^ q0| ≤
      |(z * 2 ^ gridStep num den mb q0 : ℚ) - num / den / 2 ^ q0| := by
    have := mul_le_mul_of_nonneg_right (roundFrac_nearest hden neg (scale2 num den (max (floorLog2 num den - mb) q0)).1 z) hpos.le
    rw [gridFrac_eq, inSteps, inSteps] at this
    rw [magCount_roundedMag hn hd]
    exact_mod_cast this
  rcases step_dvd_or_lt hn hd mb q0 c with ⟨z, hz⟩ | ⟨z, hlt, hle⟩
  · have := near z
    rw [hz]
    push_cast
    rwa [mul_comm ((2 : ℚ) ^ _)]
  · refine (near z).trans ?_
    have hlt : (magCount mb c : ℚ) < z * 2 ^ gridStep num den mb q0 := by exact_mod_cast hlt
    rw [abs_of_nonpos (by linarith), abs_of_nonpos (by linarith)]
    linarith

/-- What the direction of a rounding says of the count of steps it says of the code. -/
theorem roundedMag_of_count (rm : Rm) (neg : Bool) {p : ℚ → ℚ → Prop}
    (hp : ∀ x y c : ℚ, 0 < c → p x y → p (x * c) (y * c))
    (h : ∀ n d : Nat, 0 < d → p (roundFrac rm neg n d) (n / d)) :
    p (magCount mb (roundedMag rm neg num den mb q0)) (num / den / 2 ^ q0) := by
  have hden := scale2_den_pos (num := num) hd (max (floorLog2 num den - mb) q0)
  have hpos : (0 : ℚ) < 2 ^ gridStep num den mb q0 := by positivity
  have := hp _ _ _ hpos (h (scale2 num den (max (floorLog2 num den - mb) q0)).1 _ hden)
  rw [gridFrac_eq, div_mul_cancel₀ _ hpos.ne'] at this
  rw [magCount_roundedMag hn hd]
  exact_mod_cast this

end

end Sys2Proof.Machine

namespace Sys2Proof.Machine
open Sys2Proof

/-! ### Codes and values of the floating-point formats (R51, R52) -/

/-- The finite value of the code `mag` with a sign. -/
def finOf (f : Fmt) (neg : Bool) (mag : Nat) : Val :=
  if mag / 2 ^ f.mbits = 0 then .fin neg (mag % 2 ^ f.mbits) f.qmin
  else .fin neg (mag % 2 ^ f.mbits + 2 ^ f.mbits) (f.qmin + ((mag / 2 ^ f.mbits : Nat) - 1))

theorem finOf_spec (f : Fmt) (neg : Bool) (mag : Nat) :
    ∃ m e, finOf f neg mag = .fin neg m e ∧ (m : ℚ) * 2 ^ e = magCount f.mbits mag * 2 ^ f.qmin := by
  rw [finOf, magCount]
  split
  · exact ⟨_, _, rfl, rfl⟩
  · refine ⟨_, _, rfl, ?_⟩
    have : f.qmin + ((mag / 2 ^ f.mbits : Nat) - 1) = ((mag / 2 ^ f.mbits - 1 : ℕ) : Int) + f.qmin := by
      generalize mag / 2 ^ f.mbits = x at *
      omega
    rw [this, zpow_add₀ two_ne_zero, zpow_natCast]
    push_cast
    ring

theorem finOf_isFin (f : Fmt) (neg : Bool) (mag : Nat) : (finOf f neg mag).isFin = true := by
  obtain ⟨m, e, h, -⟩ := finOf_spec f neg mag
  rw [h]
  rfl

theorem ratOf_fin (neg : Bool) (m : Nat) (e : Int) : ratOf (.fin neg m e) = sgn neg * (m * 2 ^ e) := by
  rw [ratOf, sgn, mul_assoc]

theorem ratOf_finOf (f : Fmt) (neg : Bool) (mag : Nat) :
    ratOf (finOf f neg mag) = sgn neg * (magCount f.mbits mag * 2 ^ f.qmin) := by
  obtain ⟨m, e, h, hv⟩ := finOf_spec f neg mag
  rw [h, ratOf_fin, hv]

/-- The fraction that a conversion starts from is the magnitude of the value. -/
theorem frac_eq (m : Nat) (e : Int) : ((scale2 m 1 (-e)).1 : ℚ) / (scale2 m 1 (-e)).2 = m * 2 ^ e := by
  rw [scale2_div, zpow_neg, Nat.cast_one, div_one, div_inv_eq_mul]

theorem frac_num_eq_zero {m : Nat} {e : Int} : (scale2 m 1 (-e)).1 = 0 ↔ m = 0 := by
  have hden : ((scale2 m 1 (-e)).2 : ℚ) ≠ 0 := by exact_mod_cast (scale2_den_pos one_pos (-e)).ne'
  have h := frac_eq m e
  rw [← Nat.cast_eq_zero (R := ℚ), ← Nat.cast_eq_zero (R := ℚ) (n := m)]
  constructor
  · intro h0
    rw [h0, zero_div] at h
    exact (mul_eq_zero.mp h.symm).resolve_right (by positivity)
  · intro h0
    rw [h0, zero_mul, div_eq_zero_iff] at h
    exact h.resolve_right hden

/-- A code that holds the bits of magnitude and sign as they are. -/
def signedCode (f : Fmt) (neg : Bool) (mag : Nat) : Nat := mag + b2n neg * 2 ^ (f.width - 1)

theorem two_pow_width (f : Fmt) : 2 ^ f.width = 2 * 2 ^ (f.width - 1) := by
  rw [← Nat.pow_succ']
  cases f <;> rfl

theorem exists_signedCode {f : Fmt} {c : Nat} (h : c < 2 ^ f.width) :
    ∃ neg mag, c = signedCode f neg mag ∧ mag < 2 ^ (f.width - 1) := by
  rw [two_pow_width] at h
  by_cases hc : c < 2 ^ (f.width - 1)
  · exact ⟨false, c, by simp [signedCode, b2n], hc⟩
  · exact ⟨true, c - 2 ^ (f.width - 1), by simp [signedCode, b2n]; omega, by omega⟩

theorem signedCode_bits {f : Fmt} {mag : Nat} (neg : Bool) (h : mag < 2 ^ (f.width - 1)) :
    signedCode f neg mag < 2 ^ f.width ∧ (signedCode f neg mag).testBit (f.width - 1) = neg ∧
      signedCode f neg mag % 2 ^ (f.width - 1) = mag := by
  rw [two_pow_width]
  cases neg with
  | false => simp [signedCode, b2n, Nat.testBit_lt_two_pow h, Nat.mod_eq_of_lt h, (by omega : mag < 2 * 2 ^ (f.width - 1))]
  | true =>
    have bit : (mag + 2 ^ (f.width - 1)).testBit (f.width - 1) = true := by
      rw [add_comm, Nat.testBit_two_pow_add_eq, Nat.testBit_lt_two_pow h]
      rfl
    simp [signedCode, b2n, bit, Nat.mod_eq_of_lt h, (by omega : mag + 2 ^ (f.width - 1) < 2 * 2 ^ (f.width - 1))]

section
variable {f : Fmt} (hi : f.isInt = false) (he : f ≠ .e8m0)
include hi he

theorem decode_signedCode {mag : Nat} (neg : Bool) (h : mag < 2 ^ (f.width - 1)) : decode f (signedCode f neg mag) =
    if f.maxMag < mag then (if f.hasInf && mag == f.maxMag + 1 then .inf neg else .nan) else finOf f neg mag := by
  obtain ⟨lt, bit, low⟩ := signedCode_bits neg h
  rw [decode, if_neg (by simp [hi]), if_neg he, decodeFloat, Nat.mod_eq_of_lt lt]
  simp only [bit, low]
  rfl

theorem maxMag_lt : f.maxMag < 2 ^ (f.width - 1) := by
  cases f <;> simp_all [Fmt.maxMag, Fmt.width, Fmt.isInt]

/-- A code whose value is finite. -/
theorem exists_of_isFin {c : Nat} (hc : c < 2 ^ f.width) (h : (decode f c).isFin = true) :
    ∃ neg mag, c = signedCode f neg mag ∧ mag ≤ f.maxMag ∧ decode f c = finOf f neg mag := by
  obtain ⟨neg, mag, rfl, hm⟩ := exists_signedCode hc
  rw [decode_signedCode hi he neg hm] at h ⊢
  by_cases hmax : f.maxMag < mag
  · rw [if_pos hmax] at h
    split at h <;> exact absurd h (by simp [Val.isFin])
  · exact ⟨neg, mag, rfl, not_lt.mp hmax, if_neg hmax⟩

omit hi he in
theorem packMag_eq {neg : Bool} {mag : Nat} (h : ¬(f = .fp4 ∧ mag = 0 ∧ neg = true)) :
    packMag f neg mag = signedCode f neg mag := by
  rw [packMag]
  split
  next h4 =>
    have : f = .fp4 ∧ mag = 0 := by simpa using h4
    cases neg <;> simp_all [signedCode, b2n]
  next => rfl

/-- The number that a packed code stands for; −0 in FP4 is 0. -/
theorem ratOf_packMag {mag : Nat} (neg : Bool) (h : mag ≤ f.maxMag) :
    ratOf (decode f (packMag f neg mag)) = sgn neg * (magCount f.mbits mag * 2 ^ f.qmin) := by
  by_cases h0 : f = .fp4 ∧ mag = 0 ∧ neg = true
  · obtain ⟨rfl, rfl, rfl⟩ := h0
    have : magCount Fmt.fp4.mbits 0 = 0 := rfl
    have zero : decode .fp4 (packMag .fp4 true 0) = .fin false 0 (-1) := by decide
    rw [this, zero, ratOf_fin]
    simp
  · rw [packMag_eq h0, decode_signedCode hi he neg (h.trans_lt (maxMag_lt hi he)), if_neg (not_lt.mpr h), ratOf_finOf]

theorem encode_fin (rm : Rm) (neg : Bool) (m : Nat) (e : Int) :
    encode f rm (.fin neg m e) = encodeFloat f rm neg (scale2 m 1 (-e)).1 (scale2 m 1 (-e)).2 := by
  rw [encode, if_neg (by simp [hi]), if_neg he]

end

theorem encodeFloat_eq {num : Nat} (h : num ≠ 0) (f : Fmt) (rm : Rm) (neg : Bool) (den : Nat) : encodeFloat f rm neg num den =
    if f.maxMag < roundedMag rm neg num den f.mbits f.qmin then (packMag f neg (overflowMag f rm neg), { of := true })
    else (packMag f neg (roundedMag rm neg num den f.mbits f.qmin),
      { uf := (roundGrid rm neg num den f.mbits f.qmin).2.2 && decide (roundedMag rm neg num den f.mbits f.qmin < 2 ^ f.mbits) }) := by
  rw [encodeFloat, if_neg h]
  rfl

/-! ### The round trip (R51, R52, R54, R56, R653) -/

theorem magCount_eq_zero {mb mag : Nat} : magCount mb mag = 0 ↔ mag = 0 := by
  have h : magCount mb 0 = 0 := by simp [magCount]
  nth_rewrite 1 [← h]
  exact (magCount_strictMono mb).injective.eq_iff

theorem encode_finOf {f : Fmt} (hi : f.isInt = false) (he : f ≠ .e8m0) (rm : Rm) (neg : Bool) {mag : Nat} (h : mag ≤ f.maxMag) :
    encode f rm (finOf f neg mag) = (packMag f neg mag, {}) := by
  obtain ⟨m, e, hv, hval⟩ := finOf_spec f neg mag
  have hpos : (2 : ℚ) ^ f.qmin ≠ 0 := by positivity
  rw [hv, encode_fin hi he]
  by_cases hnum : (scale2 m 1 (-e)).1 = 0
  · have hm : (m : ℚ) = 0 := by exact_mod_cast frac_num_eq_zero.mp hnum
    rw [hm, zero_mul, eq_comm, mul_eq_zero, or_iff_left hpos, Nat.cast_eq_zero, magCount_eq_zero] at hval
    rw [encodeFloat, if_pos hnum, hval]
  · have value : ((scale2 m 1 (-e)).1 : ℚ) / (scale2 m 1 (-e)).2 / 2 ^ f.qmin = magCount f.mbits mag := by
      rw [frac_eq, hval, mul_div_cancel_right₀ _ hpos]
    obtain ⟨code, exact⟩ := roundGrid_of_eq (Nat.pos_of_ne_zero hnum) (scale2_den_pos one_pos (-e)) f.mbits f.qmin rm neg value
    rw [encodeFloat_eq hnum, code, exact, if_neg (not_lt.mpr h), Bool.false_and]

/-- The code of an infinity, in a format that has them. -/
theorem decode_inf {f : Fmt} (h : f.hasInf = true) (neg : Bool) : decode f (packMag f neg (f.maxMag + 1)) = .inf neg := by
  have hi : f.isInt = false := by cases f <;> simp_all [Fmt.hasInf, Fmt.isInt]
  have he : f ≠ .e8m0 := by rintro rfl; exact Bool.noConfusion h
  have fits : f.maxMag + 1 < 2 ^ (f.width - 1) := by cases f <;> simp_all [Fmt.hasInf, Fmt.maxMag, Fmt.width]
  rw [packMag_eq (by simp), decode_signedCode hi he neg fits, if_pos (Nat.lt_succ_self _), if_pos (by simp [h])]

theorem encode_inf {f : Fmt} (h : f.hasInf = true) (rm : Rm) (neg : Bool) :
    encode f rm (.inf neg) = (packMag f neg (f.maxMag + 1), {}) := by
  cases f <;> simp_all [Fmt.hasInf, encode, Fmt.isInt]

/-- The round trip in a floating-point format. -/
theorem encode_decode_float {f : Fmt} (hi : f.isInt = false) (he : f ≠ .e8m0) (rm : Rm) {c : Nat} (hc : c < 2 ^ f.width) :
    (decode f c).isNan = false → ¬(f = .fp4 ∧ c = 8) →
      ((decode f c).isFin = true → encode f rm (decode f c) = (c, {})) ∧
      ((decode f c).isFin = false → (encode f rm (decode f c)).1 = c) := by
  intro hnan h8
  constructor
  · intro hfin
    obtain ⟨neg, mag, rfl, hmax, hdec⟩ := exists_of_isFin hi he hc hfin
    rw [hdec, encode_finOf hi he rm neg hmax, packMag_eq]
    rintro ⟨rfl, rfl, rfl⟩
    exact h8 ⟨rfl, rfl⟩
  · intro hfin
    obtain ⟨neg, mag, rfl, hm⟩ := exists_signedCode hc
    rw [decode_signedCode hi he neg hm] at hnan hfin ⊢
    split at hnan
    next hmax =>
      rw [if_pos hmax] at hfin ⊢
      split at hnan
      next hinf =>
        obtain ⟨hasInf, rfl⟩ : f.hasInf = true ∧ mag = f.maxMag + 1 := by simpa using hinf
        rw [if_pos (by simp [hasInf]), encode_inf hasInf, packMag_eq (by simp)]
      next => exact absurd hnan (by simp [Val.isNan])
    next hmax => rw [if_neg hmax, finOf_isFin] at hfin; exact absurd hfin (by simp)

theorem sxt_bounds {w : Nat} (hw : 0 < w) {c : Nat} (hc : c < 2 ^ w) :
    -(2 ^ (w - 1) : Int) ≤ sxt w c ∧ sxt w c < 2 ^ (w - 1) ∧ toTwos w (sxt w c) = c := by
  obtain ⟨v, rfl⟩ := Nat.exists_eq_succ_of_ne_zero hw.ne'
  have hc' : (c : Int) < 2 ^ (v + 1) := by exact_mod_cast hc
  have hmod : ((c : Int) % 2 ^ (v + 1)) = c := Int.emod_eq_of_lt (by omega) hc'
  have hbit : c.testBit v = decide (2 ^ v ≤ c) := by
    rw [Nat.testBit_eq_decide_div_mod_eq]
    have := Nat.pow_succ 2 v
    congr 1
    rw [Nat.mod_eq_of_lt (Nat.div_lt_of_lt_mul (by omega))]
    exact propext ⟨fun h => by_contra fun h' => by rw [Nat.div_eq_of_lt (not_le.mp h')] at h; omega,
      fun h => Nat.div_eq_of_lt_le (by omega) (by omega)⟩
  have h2 : (2 : Int) ^ (v + 1) = 2 * 2 ^ v := pow_succ' 2 v
  have cast : ((2 ^ v : Nat) : Int) = 2 ^ v := by push_cast; rfl
  simp only [sxt, toTwos, Nat.succ_eq_add_one, Nat.add_sub_cancel, hbit, hmod]
  by_cases h : 2 ^ v ≤ c
  · rw [if_pos (by simpa using h)]
    refine ⟨by omega, by omega, ?_⟩
    rw [Int.sub_emod_right, hmod, Int.toNat_natCast]
  · rw [if_neg (by simpa using h)]
    refine ⟨by omega, by omega, ?_⟩
    rw [hmod, Int.toNat_natCast]

theorem encode_ofInt {f : Fmt} (hi : f.isInt = true) (rm : Rm) (i : Int) : encode f rm (Val.ofInt i) = satInt f i := by
  have count : roundFrac rm (decide (i < 0)) (scale2 i.natAbs 1 (-0)).1 (scale2 i.natAbs 1 (-0)).2 = i.natAbs :=
    roundFrac_of_eq (scale2_den_pos one_pos _) rm _ _ (by rw [frac_eq, zpow_zero, mul_one])
  rw [Val.ofInt, encode, if_pos hi]
  simp only [count]
  congr 1
  by_cases h : i < 0
  · rw [if_pos (by simpa using h), Int.ofNat_natAbs_of_nonpos h.le, neg_neg]
  · rw [if_neg (by simpa using h), Int.natAbs_of_nonneg (not_lt.mp h)]

theorem encode_decode_int {f : Fmt} (hi : f.isInt = true) (rm : Rm) {c : Nat} (hc : c < 2 ^ f.width) :
    encode f rm (decode f c) = (c, {}) := by
  have hw : 0 < f.width := by cases f <;> decide
  obtain ⟨lower, upper, code⟩ := sxt_bounds hw hc
  have top : (intMax f : Int) = 2 ^ (f.width - 1) - 1 := by
    have := Nat.two_pow_pos (f.width - 1)
    rw [intMax]
    push_cast [this]
    rfl
  rw [decode, if_pos hi, encode_ofInt hi, satInt, if_neg (by omega), if_neg (by omega), code]

/-- A power of two is a scale as it stands (R653). -/
theorem encodeE8m0_of_pow {num den : Nat} (hn : 0 < num) (hd : 0 < den) {k : Int} (h : (num : ℚ) / den = 2 ^ k)
    (h1 : -127 ≤ k) (h2 : k ≤ 127) (rm : Rm) : encodeE8m0 rm num den = ((k + 127).toNat, {}) := by
  have log : floorLog2 num den = k := floorLog2_eq hn hd h.ge (h.trans_lt (zpow_lt_zpow_right₀ one_lt_two (lt_add_one k)))
  have whole := (scale2_eq_iff hd k).mpr h
  have pos := scale2_den_pos hd (num := num) k
  have near : ¬(3 * (scale2 num den k).2 < 2 * (scale2 num den k).2) ∧ ¬(2 * (scale2 num den k).2 = 3 * (scale2 num den k).2) := by
    omega
  cases rm <;> simp [encodeE8m0, log, whole, near.1, near.2, not_lt.mpr h1, not_lt.mpr h2]

/-- The round trip of a scale: its value is a power of two. -/
theorem encode_decode_e8m0 (rm : Rm) {c : Nat} (hc : c < 255) : encode .e8m0 rm (decode .e8m0 c) = (c, {}) := by
  have dec : decode .e8m0 c = .fin false 1 ((c : Int) - 127) := by
    have low : c % 256 = c := Nat.mod_eq_of_lt (by omega)
    have lowZ : (c : Int) % 256 = c := Int.emod_eq_of_lt (by omega) (by omega)
    simp [decode, Fmt.isInt, low, lowZ, hc.ne]
  have hnum : 0 < (scale2 1 1 (-((c : Int) - 127))).1 :=
    Nat.pos_of_ne_zero fun h => one_ne_zero (frac_num_eq_zero.mp h)
  have value := frac_eq 1 ((c : Int) - 127)
  rw [Nat.cast_one, one_mul] at value
  have code := encodeE8m0_of_pow hnum (scale2_den_pos one_pos _) value (by omega) (by omega) rm
  rw [sub_add_cancel, Int.toNat_natCast] at code
  rw [dec]
  simp only [encode, Fmt.isInt, Bool.false_eq_true, if_false, if_true, Bool.or_false, one_ne_zero, decide_false]
  exact code

/-- A code that stands for a NaN belongs to a format with a canonical NaN, and is converted to that. -/
theorem encode_nan {f : Fmt} (hi : f.isInt = false) (rm : Rm) : (encode f rm .nan).1 = f.nanCode := by
  cases f <;> simp_all [encode, Fmt.isInt, Fmt.nanCode]

theorem decode_int_isNan {f : Fmt} (hi : f.isInt = true) (c : Nat) : (decode f c).isNan = false ∧ (decode f c).isFin = true := by
  rw [decode, if_pos hi]
  exact ⟨rfl, rfl⟩

/-- Settles O56: integers by two's complement, scales by their logarithm, and the floating-point formats because rounding gives back the
code whose value it is given. -/
theorem numberFormatsRoundTrip : Obligations.NumberFormatsRoundTrip := by
  refine ⟨fun f rm c hc => ⟨fun hnan h8 => ?_, fun hnan => ?_, rfl⟩, fun rm => ⟨rfl, rfl, rfl, rfl, rfl, rfl, rfl, rfl, rfl, fun n => ?_⟩⟩
  · cases hi : f.isInt with
    | true => exact ⟨fun _ => encode_decode_int hi rm hc, fun h => by simp [(decode_int_isNan hi c).2] at h⟩
    | false =>
      by_cases he : f = .e8m0
      · subst he
        have hc' : c ≠ 255 := by
          rintro rfl
          exact Bool.noConfusion hnan
        have round := encode_decode_e8m0 rm (lt_of_le_of_ne (Nat.le_of_lt_succ hc) hc')
        exact ⟨fun _ => round, fun _ => congrArg Prod.fst round⟩
      · exact encode_decode_float hi he rm hc hnan h8
  · cases hi : f.isInt with
    | true => simp [(decode_int_isNan hi c).1] at hnan
    | false =>
      have isNan : decode f c = .nan := by
        revert hnan
        cases decode f c <;> simp [Val.isNan]
      rw [isNan, encode_nan hi]
  · rw [encode_inf rfl, encode_inf rfl, encode_inf rfl]
    exact ⟨decode_inf rfl n, decode_inf rfl n, decode_inf rfl n, by cases n <;> rfl, by cases n <;> rfl, by cases n <;> rfl,
      by cases n <;> rfl, rfl⟩

end Sys2Proof.Machine

namespace Sys2Proof.Machine
open Sys2Proof

/-! ### Conversion of a finite value (R55 to R57)

The magnitude `m 2^e` of the value is compared with those of the codes in units of the smallest subnormal. -/

theorem abs_sgn_mul (neg : Bool) (a : ℚ) : |sgn neg * a| = |a| := by cases neg <;> simp [sgn]

theorem abs_sgn_sub (neg : Bool) (a b : ℚ) : |sgn neg * a - sgn neg * b| = |a - b| := by rw [← mul_sub, abs_sgn_mul]

/-- Two magnitudes are no farther apart than with signs. -/
theorem abs_sub_le_sgn (n n' : Bool) {a b : ℚ} (ha : 0 ≤ a) (hb : 0 ≤ b) : |a - b| ≤ |sgn n' * a - sgn n * b| := by
  have far : |a - b| ≤ |a + b| := by
    rw [abs_of_nonneg (by positivity : 0 ≤ a + b), abs_le]
    constructor <;> linarith
  have flip : |-a - b| = |a + b| := by rw [← abs_neg, neg_sub, sub_neg_eq_add, add_comm]
  cases n <;> cases n' <;> simp [sgn, far, flip]
  rw [neg_add_eq_sub, abs_sub_comm]

/-- The code that a finite value is rounded to, before any overflow. -/
def roundCode (f : Fmt) (rm : Rm) (neg : Bool) (m : Nat) (e : Int) : Nat :=
  if m = 0 then 0 else roundedMag rm neg (scale2 m 1 (-e)).1 (scale2 m 1 (-e)).2 f.mbits f.qmin

/-- The magnitude `m 2^e` in units of the smallest subnormal of a format. -/
def inUnits (f : Fmt) (m : Nat) (e : Int) : ℚ := m * 2 ^ e / 2 ^ f.qmin

theorem inUnits_mul (f : Fmt) (m : Nat) (e : Int) : inUnits f m e * 2 ^ f.qmin = m * 2 ^ e :=
  div_mul_cancel₀ _ (by positivity)

theorem inUnits_nonneg (f : Fmt) (m : Nat) (e : Int) : 0 ≤ inUnits f m e := by
  rw [inUnits]
  positivity

theorem ratOf_fin_units (f : Fmt) (neg : Bool) (m : Nat) (e : Int) :
    ratOf (.fin neg m e) = sgn neg * (inUnits f m e * 2 ^ f.qmin) := by rw [ratOf_fin, inUnits_mul]

section
variable (f : Fmt) (neg : Bool) (m : Nat) (e : Int)

/-- A property of a fraction and its rounding that scales is one of a value and its code. -/
theorem roundCode_of_count (rm : Rm) {p : ℚ → ℚ → Prop} (hp : ∀ x y c : ℚ, 0 < c → p x y → p (x * c) (y * c))
    (h : ∀ n d : Nat, 0 < d → p (roundFrac rm neg n d) (n / d)) :
    p (magCount f.mbits (roundCode f rm neg m e)) (inUnits f m e) := by
  rw [roundCode, inUnits]
  split
  next hm =>
    have := h 0 1 one_pos
    rw [roundFrac_of_eq one_pos rm neg 0 (z := 0) (by simp)] at this
    simpa [magCount, hm] using this
  next hm =>
    rw [← frac_eq]
    exact roundedMag_of_count (Nat.pos_of_ne_zero (mt frac_num_eq_zero.mp hm)) (scale2_den_pos one_pos _) _ _ rm neg hp h

theorem roundCode_nearest (c : Nat) : |(magCount f.mbits (roundCode f .rne neg m e) : ℚ) - inUnits f m e| ≤
    |(magCount f.mbits c : ℚ) - inUnits f m e| := by
  rw [roundCode, inUnits]
  split
  next hm => simp [magCount, hm]
  next hm =>
    rw [← frac_eq]
    exact roundedMag_nearest (Nat.pos_of_ne_zero (mt frac_num_eq_zero.mp hm)) (scale2_den_pos one_pos _) _ _ neg c

theorem roundCode_le (rm : Rm) {c : Nat} (h : inUnits f m e ≤ magCount f.mbits c) : roundCode f rm neg m e ≤ c := by
  rw [roundCode]
  split
  next => exact Nat.zero_le c
  next hm =>
    rw [inUnits, ← frac_eq] at h
    exact roundedMag_le (Nat.pos_of_ne_zero (mt frac_num_eq_zero.mp hm)) (scale2_den_pos one_pos _) _ _ rm neg h

theorem le_roundCode (rm : Rm) {c : Nat} (h : magCount f.mbits c ≤ inUnits f m e) : c ≤ roundCode f rm neg m e := by
  rw [roundCode]
  split
  next hm =>
    rw [inUnits, hm, Nat.cast_zero, zero_mul, zero_div] at h
    have h : magCount f.mbits c = 0 := by exact_mod_cast h.antisymm (Nat.cast_nonneg _)
    exact (magCount_eq_zero.mp h).le
  next hm =>
    rw [inUnits, ← frac_eq] at h
    exact le_roundedMag (Nat.pos_of_ne_zero (mt frac_num_eq_zero.mp hm)) (scale2_den_pos one_pos _) _ _ rm neg h

end

section
variable {f : Fmt} (hi : f.isInt = false) (he : f ≠ .e8m0)
include hi he

/-- Conversion packs the rounded code, or what an overflow gives, with the sign; the flag says which. -/
theorem encode_fin_spec (rm : Rm) (neg : Bool) (m : Nat) (e : Int) :
    (encode f rm (.fin neg m e)).2.of = decide (f.maxMag < roundCode f rm neg m e) ∧
      (encode f rm (.fin neg m e)).1 =
        packMag f neg (if f.maxMag < roundCode f rm neg m e then overflowMag f rm neg else roundCode f rm neg m e) := by
  rw [encode_fin hi he, roundCode]
  by_cases hm : m = 0
  · rw [encodeFloat, if_pos (frac_num_eq_zero.mpr hm), if_pos hm]
    simp
  · rw [encodeFloat_eq (mt frac_num_eq_zero.mp hm), if_neg hm]
    split
    next h => simp [h]
    next h => simp [h]

/-- What a conversion without overflow gives. -/
theorem ratOf_encode {rm : Rm} {neg : Bool} {m : Nat} {e : Int} (h : (encode f rm (.fin neg m e)).2.of = false) :
    ratOf (decode f (encode f rm (.fin neg m e)).1) = sgn neg * (magCount f.mbits (roundCode f rm neg m e) * 2 ^ f.qmin) := by
  obtain ⟨flag, code⟩ := encode_fin_spec hi he rm neg m e
  rw [h, eq_comm, decide_eq_false_iff_not] at flag
  rw [code, if_neg flag, ratOf_packMag hi he neg (not_lt.mp flag)]

theorem encode_rne_nearest {neg : Bool} {m : Nat} {e : Int} (h : (encode f .rne (.fin neg m e)).2.of = false) {c : Nat}
    (hc : c < 2 ^ f.width) (hfin : (decode f c).isFin = true) :
    |ratOf (decode f (encode f .rne (.fin neg m e)).1) - ratOf (.fin neg m e)| ≤ |ratOf (decode f c) - ratOf (.fin neg m e)| := by
  obtain ⟨neg', mag, -, -, hdec⟩ := exists_of_isFin hi he hc hfin
  have hpos : (0 : ℚ) < 2 ^ f.qmin := by positivity
  rw [ratOf_encode hi he h, ratOf_fin_units f, hdec, ratOf_finOf, abs_sgn_sub]
  refine le_trans ?_ (abs_sub_le_sgn neg neg' (by positivity) (mul_nonneg (inUnits_nonneg f m e) hpos.le))
  rw [← sub_mul, ← sub_mul, abs_mul, abs_mul]
  exact mul_le_mul_of_nonneg_right (roundCode_nearest f neg m e mag) (abs_nonneg _)

/-- Where the rounded code passes the largest one, the value is greater than every finite value of the format. -/
theorem lt_of_overflow {rm : Rm} {neg : Bool} {m : Nat} {e : Int} (h : (encode f rm (.fin neg m e)).2.of = true) {c : Nat}
    (hc : c < 2 ^ f.width) (hfin : (decode f c).isFin = true) : |ratOf (decode f c)| < |ratOf (.fin neg m e)| := by
  obtain ⟨neg', mag, -, hmag, hdec⟩ := exists_of_isFin hi he hc hfin
  have hpos : (0 : ℚ) < 2 ^ f.qmin := by positivity
  rw [(encode_fin_spec hi he rm neg m e).1, decide_eq_true_iff] at h
  have above : (magCount f.mbits mag : ℚ) < inUnits f m e :=
    not_le.mp fun le => absurd (roundCode_le f neg m e rm le) (by omega)
  rw [hdec, ratOf_finOf, ratOf_fin_units f, abs_sgn_mul, abs_sgn_mul, abs_mul, abs_mul, Nat.abs_cast,
    abs_of_nonneg (inUnits_nonneg f m e)]
  exact mul_lt_mul_of_pos_right above (abs_pos.mpr hpos.ne')

/-- What an overflow gives under RNE. -/
theorem encode_rne_overflow {neg : Bool} {m : Nat} {e : Int} (h : (encode f .rne (.fin neg m e)).2.of = true) :
    ((f = .fp32 ∨ f = .bf16 ∨ f = .fp16) → decode f (encode f .rne (.fin neg m e)).1 = .inf neg) ∧
      (f = .e4m3 ∨ f = .e5m2 ∨ f = .fp4 → (encode f .rne (.fin neg m e)).1 = f.maxMag + b2n neg * 2 ^ (f.width - 1)) := by
  obtain ⟨flag, code⟩ := encode_fin_spec hi he .rne neg m e
  rw [h, eq_comm, decide_eq_true_iff] at flag
  rw [code, if_pos flag]
  constructor
  · rintro (rfl | rfl | rfl) <;> exact decode_inf rfl neg
  · rintro (rfl | rfl | rfl) <;> exact packMag_eq (by simp [overflowMag, Fmt.hasInf, Fmt.maxMag])

end

/-- Settles O57, from what `roundFrac` does to the number of steps in each mode. -/
theorem conversionsRoundToNearest : Obligations.ConversionsRoundToNearest := by
  intro f n m e hi he v r x
  have hpos : (0 : ℚ) < 2 ^ f.qmin := by positivity
  have scale {a b c : ℚ} (hc : 0 < c) (h : a ≤ b) : a * c ≤ b * c := mul_le_mul_of_nonneg_right h hc.le
  refine ⟨fun h c hc hfin => encode_rne_nearest hi he h hc hfin, fun h => ⟨fun c hc hfin => lt_of_overflow hi he h hc hfin,
    encode_rne_overflow hi he h⟩, fun h => ?_, fun h => ?_, fun h => ?_⟩
  · have le := roundCode_of_count f n m e .rtz (p := fun x y => x ≤ y) (fun x y c hc h => scale hc h)
      fun a d _ => roundFrac_rtz_le n a
    simp only [x, v, r, ratOf_encode hi he h, ratOf_fin_units f, abs_sgn_mul]
    rw [abs_of_nonneg (by positivity), abs_of_nonneg (mul_nonneg (inUnits_nonneg f m e) hpos.le)]
    exact scale hpos le
  · have le := roundCode_of_count f n m e .rdn (p := fun x y => sgn n * x ≤ sgn n * y)
      (fun x y c hc h => by simpa only [mul_assoc] using scale hc h) fun a d hd => roundFrac_rdn_le hd n a
    simp only [x, v, r, ratOf_encode hi he h, ratOf_fin_units f, ← mul_assoc]
    exact scale hpos le
  · have le := roundCode_of_count f n m e .rup (p := fun x y => sgn n * y ≤ sgn n * x)
      (fun x y c hc h => by simpa only [mul_assoc] using scale hc h) fun a d hd => le_roundFrac_rup hd n a
    simp only [x, v, r, ratOf_encode hi he h, ratOf_fin_units f, ← mul_assoc]
    exact scale hpos le

end Sys2Proof.Machine

namespace Sys2Proof.Machine
open Sys2Proof

/-! ### The quantiser (R59, R62) -/

theorem scaleVal_fin (n : Bool) (m : Nat) (e k : Int) : scaleVal (.fin n m e) k = .fin n m (e - k) := rfl

/-- An element as a number of its block's scale. -/
theorem ratOf_eq_scaled (n : Bool) (m : Nat) (e k : Int) : ratOf (.fin n m e) = ratOf (.fin n m (e - k)) * 2 ^ k := by
  rw [ratOf_fin, ratOf_fin, mul_assoc, mul_assoc, ← zpow_add₀ two_ne_zero, sub_add_cancel]

theorem abs_ratOf_fin (n : Bool) (m : Nat) (e : Int) : |ratOf (.fin n m e)| = m * 2 ^ e := by
  rw [ratOf_fin, abs_sgn_mul, abs_of_nonneg (by positivity)]

/-- The drive code in FP4 is the rounded magnitude, or 6 where that is greater. -/
theorem driveCode_fp4 (k : Int) (n : Bool) (m : Nat) (e : Int) : driveCode true k (.fin n m e) =
    packMag .fp4 n (min 7 (roundCode .fp4 .rne n m (e - k))) := by
  have clip : overflowMag .fp4 .rne n = 7 := rfl
  have top : Fmt.fp4.maxMag = 7 := rfl
  rw [driveCode, if_pos rfl, scaleVal_fin, (encode_fin_spec rfl (by decide) .rne n m (e - k)).2, clip, top]
  congr 1
  split <;> omega

theorem ratOf_driveCode_fp4 (k : Int) (n : Bool) (m : Nat) (e : Int) : ratOf (decode .fp4 (driveCode true k (.fin n m e))) =
    sgn n * (magCount 1 (min 7 (roundCode .fp4 .rne n m (e - k))) / 2) := by
  rw [driveCode_fp4, ratOf_packMag rfl (by decide) n (min_le_left 7 _), div_eq_mul_inv]
  rfl

theorem inUnits_fp4 (m : Nat) (e : Int) : inUnits .fp4 m e = 2 * (m * 2 ^ e) := by
  rw [inUnits, show Fmt.fp4.qmin = -1 from rfl, zpow_neg_one, div_inv_eq_mul, mul_comm]

/-- The codes of FP4 stand close enough to each other for the bound of R62: half a step of 1 below 4 halves, a fifth above. -/
theorem exists_fp4_near {y : ℚ} (h0 : 0 ≤ y) (h : y ≤ 12) : ∃ c, |(magCount 1 c : ℚ) - y| ≤ max (1 / 2) (y / 5) := by
  have counts : magCount 1 0 = 0 ∧ magCount 1 1 = 1 ∧ magCount 1 2 = 2 ∧ magCount 1 3 = 3 ∧ magCount 1 4 = 4 ∧
      magCount 1 5 = 6 ∧ magCount 1 6 = 8 ∧ magCount 1 7 = 12 := by decide
  obtain ⟨c0, c1, c2, c3, c4, c5, c6, c7⟩ := counts
  have half {c z : Nat} (e : magCount 1 c = z) (h1 : z - 1 / 2 ≤ y) (h2 : y ≤ z + 1 / 2) :
      ∃ c, |(magCount 1 c : ℚ) - y| ≤ max (1 / 2) (y / 5) :=
    ⟨c, le_max_of_le_left (abs_le.mpr (by rw [e]; constructor <;> linarith))⟩
  have fifth {c z : Nat} (e : magCount 1 c = z) (h1 : z - y / 5 ≤ y) (h2 : y ≤ z + y / 5) :
      ∃ c, |(magCount 1 c : ℚ) - y| ≤ max (1 / 2) (y / 5) :=
    ⟨c, le_max_of_le_right (abs_le.mpr (by rw [e]; constructor <;> linarith))⟩
  rcases le_total y (1 / 2) with h1 | h1
  · exact half c0 (by push_cast; linarith) (by push_cast; linarith)
  rcases le_total y (3 / 2) with h2 | h2
  · exact half c1 (by push_cast; linarith) (by push_cast; linarith)
  rcases le_total y (5 / 2) with h3 | h3
  · exact half c2 (by push_cast; linarith) (by push_cast; linarith)
  rcases le_total y (7 / 2) with h4 | h4
  · exact half c3 (by push_cast; linarith) (by push_cast; linarith)
  rcases le_total y 5 with h5 | h5
  · exact fifth c4 (by push_cast; linarith) (by push_cast; linarith)
  rcases le_total y 7 with h6 | h6
  · exact fifth c5 (by push_cast; linarith) (by push_cast; linarith)
  rcases le_total y 10 with h7 | h7
  · exact fifth c6 (by push_cast; linarith) (by push_cast; linarith)
  · exact fifth c7 (by push_cast; linarith) (by push_cast; linarith)

/-- The error of a drive code in FP4, in units of the scale. -/
theorem driveCode_fp4_error (k : Int) (n : Bool) {m : Nat} {e : Int} (h : (m : ℚ) * 2 ^ (e - k) ≤ 6) :
    |ratOf (decode .fp4 (driveCode true k (.fin n m e))) - ratOf (.fin n m (e - k))| ≤
      max (1 / 4) ((m : ℚ) * 2 ^ (e - k) / 5) := by
  have units := inUnits_fp4 m (e - k)
  have le7 : roundCode .fp4 .rne n m (e - k) ≤ 7 :=
    roundCode_le .fp4 n m (e - k) .rne (by rw [units, show magCount Fmt.fp4.mbits 7 = 12 from rfl]; push_cast; linarith)
  obtain ⟨c, near⟩ := exists_fp4_near (y := inUnits .fp4 m (e - k)) (inUnits_nonneg _ _ _) (by rw [units]; linarith)
  have near := (roundCode_nearest .fp4 n m (e - k) c).trans near
  rw [ratOf_driveCode_fp4, min_eq_right le7, ratOf_fin, abs_sgn_sub]
  rw [units] at near
  have half : (magCount 1 (roundCode .fp4 .rne n m (e - k)) : ℚ) / 2 - m * 2 ^ (e - k) =
      ((magCount Fmt.fp4.mbits (roundCode .fp4 .rne n m (e - k)) : ℚ) - 2 * (m * 2 ^ (e - k))) / 2 := by
    rw [show Fmt.fp4.mbits = 1 from rfl]
    ring
  rw [half, abs_div, abs_two, div_le_iff₀ two_pos, max_mul_of_nonneg _ _ two_pos.le]
  refine near.trans_eq ?_
  congr 1 <;> ring

/-- Above 6 the drive code in FP4 is clipped. -/
theorem driveCode_fp4_clipped (k : Int) (n : Bool) {m : Nat} {e : Int} (h : 6 < (m : ℚ) * 2 ^ (e - k)) :
    ratOf (decode .fp4 (driveCode true k (.fin n m e))) = sgn n * 6 := by
  have ge7 : 7 ≤ roundCode .fp4 .rne n m (e - k) :=
    le_roundCode .fp4 n m (e - k) .rne (by
      rw [inUnits_fp4, show magCount Fmt.fp4.mbits 7 = 12 from rfl]; push_cast; linarith)
  rw [ratOf_driveCode_fp4, min_eq_left ge7, show magCount 1 7 = 12 from rfl]
  norm_num

/-- The drive codes of INT4 stand for the integers from -7 to 7. -/
theorem decode_int4_toTwos : ∀ i ∈ Finset.Icc (-7 : Int) 7,
    (satInt .int4 i).1 ≠ 8 ∧ decode .int4 (satInt .int4 i).1 = Val.ofInt i := by decide

theorem ratOf_ofInt (i : Int) : ratOf (Val.ofInt i) = i := by
  rw [Val.ofInt, ratOf_fin, zpow_zero, mul_one, sgn, Nat.cast_natAbs]
  rcases lt_or_ge i 0 with h | h
  · simp [h, abs_of_neg h]
  · simp [not_lt.mpr h, abs_of_nonneg h]

/-- The error of a drive code in INT4, in units of the scale. -/
theorem driveCode_int4_error (k : Int) (n : Bool) {m : Nat} {e : Int} (h : (m : ℚ) * 2 ^ (e - k) ≤ 7) :
    |ratOf (decode .int4 (driveCode false k (.fin n m e))) - ratOf (.fin n m (e - k))| ≤ 1 / 2 := by
  have hden := scale2_den_pos (num := m) one_pos (-(e - k))
  obtain ⟨r, hr⟩ : ∃ r, r = roundFrac .rne n (scale2 m 1 (-(e - k))).1 (scale2 m 1 (-(e - k))).2 := ⟨_, rfl⟩
  have near := (roundFrac_rne hden n (scale2 m 1 (-(e - k))).1).1
  have le7 : r ≤ 7 := hr ▸ roundFrac_le hden .rne n _ (by rw [frac_eq]; exact_mod_cast h)
  rw [← hr, frac_eq] at near
  have code : (encode .int4 .rne (.fin n m (e - k))).1 = (satInt .int4 (if n then -(r : Int) else r)).1 := by
    rw [hr]
    rfl
  obtain ⟨ne8, value⟩ := decode_int4_toTwos (if n then -(r : Int) else r) (by
    rw [Finset.mem_Icc]
    split <;> omega)
  have signed : ((if n then -(r : Int) else r : Int) : ℚ) = sgn n * r := by cases n <;> simp [sgn]
  rw [driveCode, if_neg (by decide), scaleVal_fin]
  simp only [code, if_neg ne8, value]
  rwa [ratOf_ofInt, signed, ratOf_fin, abs_sgn_sub]

/-! The exponent of the scale (R59) -/

theorem scaleExp_unclamped {d o : Bool} {num den : Nat} (hn : 0 < num) (h1 : -127 < scaleExp d o (num, den))
    (h2 : scaleExp d o (num, den) < 127) : scaleExp d o (num, den) =
      if d = false then ceilLog2 num (den * 7) else if o then floorLog2 num den - 2 else ceilLog2 num (den * 6) := by
  rw [scaleExp] at h1 h2 ⊢
  simp only [hn.ne', if_false, Bool.not_eq_true'] at h1 h2 ⊢
  omega

/-- Half of `t` scales are less than the largest magnitude, and `t` scales are not, where the scale is the least such power of two. -/
theorem ceilLog2_mul_spec {num den t : Nat} (hn : 0 < num) (hd : 0 < den) (ht : 0 < t) :
    (t / 2 : ℚ) * 2 ^ ceilLog2 num (den * t) < num / den ∧ (num : ℚ) / den ≤ t * 2 ^ ceilLog2 num (den * t) := by
  obtain ⟨lower, upper⟩ := ceilLog2_spec hn (Nat.mul_pos hd ht)
  have ht' : (0 : ℚ) < t := by exact_mod_cast ht
  rw [Nat.cast_mul, ← div_div] at lower upper
  rw [div_le_iff₀ ht'] at upper
  rw [mul_div_assoc', lt_div_iff₀ ht'] at lower
  constructor <;> linarith

/-- Settles O58: the bounds hold in units of the scale, and the exponent of the scale is a logarithm rounded up or down. -/
theorem quantisationErrorIsBounded : Obligations.QuantisationErrorIsBounded := by
  refine ⟨fun k n m e => ?_, fun num den hn hd => ⟨fun h1 h2 => ?_, fun h1 h2 => ?_, fun o h1 h2 => ?_⟩⟩
  · have hs : (0 : ℚ) < 2 ^ k := by positivity
    have mag : |ratOf (.fin n m e)| = m * 2 ^ (e - k) * 2 ^ k := by
      rw [ratOf_eq_scaled n m e k, abs_mul, abs_ratOf_fin, abs_of_pos hs]
    have diff (q : ℚ) : |q * 2 ^ k - ratOf (.fin n m e)| = |q - ratOf (.fin n m (e - k))| * 2 ^ k := by
      rw [ratOf_eq_scaled n m e k, ← sub_mul, abs_mul, abs_of_pos hs]
    simp only [mag, diff, mul_le_mul_iff_left₀ hs, mul_lt_mul_iff_left₀ hs]
    refine ⟨fun h => ?_, fun h1 h2 => ?_, fun h => ?_⟩
    · refine (mul_le_mul_of_nonneg_right (driveCode_fp4_error k n h) hs.le).trans_eq ?_
      rw [max_mul_of_nonneg _ _ hs.le]
      congr 1 <;> ring
    · have err : |sgn n * 6 - ratOf (.fin n m (e - k))| = m * 2 ^ (e - k) - 6 := by
        rw [ratOf_fin, abs_sgn_sub, abs_of_nonpos (by linarith), neg_sub]
      have sign : (if ratOf (.fin n m e) < 0 then -6 else 6 : ℚ) = sgn n * 6 := by
        rw [ratOf_eq_scaled n m e k, ratOf_fin]
        cases n
        · rw [if_neg (by simp [sgn]; positivity), sgn]; simp
        · rw [if_pos (by simp only [sgn, if_true]; nlinarith), sgn]; simp
      rw [driveCode_fp4_clipped k n h1, err, sign]
      exact ⟨rfl, by linarith, by nlinarith⟩
    · have := mul_le_mul_of_nonneg_right (driveCode_int4_error k n h) hs.le
      linarith
  · obtain ⟨lower, upper⟩ := ceilLog2_mul_spec hn hd (by norm_num : 0 < 6)
    have exp := scaleExp_unclamped hn h1 h2
    rw [if_neg (by decide), if_neg (by decide)] at exp
    simp only [exp]
    push_cast at lower upper
    exact ⟨by linarith, upper⟩
  · obtain ⟨lower, upper⟩ := floorLog2_spec hn hd
    have exp := scaleExp_unclamped hn h1 h2
    rw [if_neg (by decide), if_pos rfl] at exp
    have four : (2 : ℚ) ^ floorLog2 num den = 4 * 2 ^ (floorLog2 num den - 2) := by
      rw [zpow_sub₀ two_ne_zero]
      norm_num
      ring
    rw [two_zpow_add_one] at upper
    simp only [exp]
    exact ⟨by linarith, by linarith⟩
  · obtain ⟨lower, upper⟩ := ceilLog2_mul_spec hn hd (by norm_num : 0 < 7)
    have exp := scaleExp_unclamped hn h1 h2
    rw [if_pos rfl] at exp
    simp only [exp]
    push_cast at lower upper
    exact ⟨lower, upper⟩

end Sys2Proof.Machine

namespace Sys2Proof.Machine
open Sys2Proof

/-! ### Writes over words that hold no uncorrectable error (R283, R288) -/

theorem mem_of_tget_ne {α : Type} {d : α} {m : Tab α} {k : Nat} (h : tget d m k ≠ d) : (k, tget d m k) ∈ m := by
  induction m with
  | nil => exact absurd rfl h
  | cons e m ih =>
    obtain ⟨k', v⟩ := e
    rw [tget] at h ⊢
    split
    next heq => exact heq ▸ List.mem_cons_self
    next hne => exact List.mem_cons_of_mem _ (ih (by rwa [if_neg hne] at h))

/-- An access that lies within a clean one is clean. -/
theorem anyPoison_mono {s : State} {a n a' n' : Nat} (h : anyPoison s a n = false) (h1 : a ≤ a') (h2 : a' + n' ≤ a + n) :
    anyPoison s a' n' = false := by
  simp only [anyPoison, Bool.or_eq_false_iff, List.any_eq_false, Bool.and_eq_true, decide_eq_true_eq, not_and] at h ⊢
  exact ⟨fun e he h' => by have := h.1 e he; omega, fun e he h' => by have := h.2 e he; omega⟩

theorem poisoned_of_clean {s : State} {a n : Nat} (h : anyPoison s a n = false) {b : Nat} (h1 : a ≤ b) (h2 : b < a + n) :
    poisoned s b = false := by
  rw [anyPoison, Bool.or_eq_false_iff, List.any_eq_false] at h
  by_contra hp
  rw [Bool.not_eq_false, poisoned, beq_iff_eq] at hp
  have mem := mem_of_tget_ne (d := 0) (m := s.poison) (k := eccBase b) (by omega)
  have inside : eccBase b ≤ b ∧ b < eccBase b + eccLen (eccBase b) := by
    unfold eccBase eccLen
    split <;> split <;> omega
  have := h.1 _ mem
  simp only [Bool.and_eq_true, decide_eq_true_eq, not_and] at this
  omega

theorem wrRefused_of_clean {s : State} {a n : Nat} (h : anyPoison s a n = false) : wrRefused s a n = false := by
  rw [anyPoison, Bool.or_eq_false_iff, List.any_eq_false] at h
  rw [wrRefused, List.any_eq_false]
  intro e he hw
  have := h.1 e he
  simp_all

theorem wrBytesAux_mem (a n : Nat) (ok : Nat → Bool) (b : Nat) (xs : List Byte) (s : State) :
    wrBytesAux a n ok b xs s = { s with mem := (wrBytesAux a n ok b xs s).mem } := by
  induction xs generalizing b s with
  | nil => rfl
  | cons x xs ih =>
    rw [wrBytesAux, ih]
    split <;> rfl

section
variable {s : State} {a : Nat} {xs : List Byte} (h : anyPoison s a xs.length = false)
include h

/-- A write over clean words is performed whole. -/
theorem wrBytes_of_clean : wrBytes a xs s = { s with
    mem := (wrBytesAux a xs.length (byteOk s a xs.length) a xs s).mem,
    poison := tdrop (fun w => covers a xs.length w) s.poison, lost := found a (a + xs.length) s.lost } := by
  rw [wrBytes]
  simp only [wrRefused_of_clean h, Bool.false_eq_true, if_false]
  rw [wrBytesAux_mem]

theorem rdByte_wrBytes (b : Nat) :
    rdByte (wrBytes a xs s) b = if a ≤ b ∧ b < a + xs.length then xs.getD (b - a) 0 else rdByte s b := by
  have mem : (wrBytes a xs s).mem = (wrBytesAux a xs.length (byteOk s a xs.length) a xs s).mem := by rw [wrBytes_of_clean h]
  rw [rdByte_congr mem, rdByte_wrBytesAux]
  congr 1
  refine propext ⟨fun ⟨h1, h2, _⟩ => ⟨h1, h2⟩, fun ⟨h1, h2⟩ => ⟨h1, h2, ?_⟩⟩
  rw [byteOk, poisoned_of_clean h h1 h2]
  rfl

theorem anyPoison_wrBytes {b n : Nat} (hb : anyPoison s b n = false) : anyPoison (wrBytes a xs s) b n = false := by
  rw [wrBytes_of_clean h]
  simp only [anyPoison, Bool.or_eq_false_iff, List.any_eq_false, Bool.and_eq_true, decide_eq_true_eq, not_and] at hb ⊢
  refine ⟨fun e he => hb.1 e (List.mem_of_mem_filter he), fun e he h1 => ?_⟩
  obtain ⟨r, hr, he⟩ := List.mem_flatMap.mp he
  have := hb.2 r hr
  simp only [cutRange, List.mem_filter, List.mem_cons, List.not_mem_nil, or_false, decide_eq_true_eq] at he
  rcases he with ⟨rfl | rfl, hlt⟩ <;> simp only at h1 hlt ⊢ <;> omega

end

/-! ### Elements in memory (R51, R53, R241) -/

/-- Element `j` of an array in device memory. -/
def memElem (f : Fmt) (base : Nat) (s : State) (j : Nat) : Nat := elemAt f (fun k => rdByte s (base + k)) j

/-- What a write of elements from index `i` on does to the array and to the memory around its first `n` elements. -/
structure ElemsWritten (f : Fmt) (base n i : Nat) (vs : List Nat) (s t : State) : Prop where
  elems : ∀ j, memElem f base t j = if i ≤ j ∧ j < i + vs.length then vs.getD (j - i) 0 % 2 ^ f.width else memElem f base s j
  outside : ∀ a, a < base ∨ base + elemBytes f n ≤ a → rdByte t a = rdByte s a
  clean : anyPoison t base (elemBytes f n) = false

theorem ElemsWritten.append {f : Fmt} {base n i : Nat} {vs ws : List Nat} {s t u : State} (h : ElemsWritten f base n i vs s t)
    (g : ElemsWritten f base n (i + vs.length) ws t u) : ElemsWritten f base n i (vs ++ ws) s u := by
  refine ⟨fun j => ?_, fun a ha => (g.outside a ha).trans (h.outside a ha), g.clean⟩
  rw [g.elems, h.elems, List.length_append]
  by_cases h1 : i + vs.length ≤ j
  · have h2 : ¬(i ≤ j ∧ j < i + vs.length) := by omega
    rw [if_neg h2, List.getD_append_right _ _ _ _ (by omega)]
    rw [Nat.sub_sub, add_assoc]
    congr 1
    simp only [eq_iff_iff]
    omega
  · rw [if_neg (by omega)]
    by_cases h2 : i ≤ j
    · rw [if_pos (by omega), if_pos (by omega), List.getD_append _ _ _ _ (by omega)]
    · rw [if_neg (by omega), if_neg (by omega)]

theorem ElemsWritten.nil {f : Fmt} {base n : Nat} {s : State} (h : anyPoison s base (elemBytes f n) = false) (i : Nat) :
    ElemsWritten f base n i [] s s :=
  ⟨fun j => by rw [if_neg (by simp)], fun _ _ => rfl, h⟩

/-! Elements of whole bytes. -/

theorem ofBytesLE_bytesLE (k v : Nat) : ofBytesLE (bytesLE k v) = v % 256 ^ k := by
  induction k generalizing v with
  | zero => simp [bytesLE, ofBytesLE, Nat.mod_one]
  | succ k ih =>
    have shift : bytesLE (k + 1) v = BitVec.ofNat 8 v :: bytesLE k (v / 256) := by
      simp only [bytesLE, List.range_succ_eq_map, List.map_cons, List.map_map, mul_zero, Nat.shiftRight_zero]
      congr 1
      refine List.map_congr_left fun i _ => ?_
      rw [Function.comp, Nat.succ_eq_add_one, mul_add, mul_one, add_comm, Nat.shiftRight_add, Nat.shiftRight_eq_div_pow v 8]
    rw [shift, ofBytesLE, ih, BitVec.toNat_ofNat, pow_succ' 256, Nat.mod_mul (a := 256)]

theorem bytesLE_length (k v : Nat) : (bytesLE k v).length = k := by simp [bytesLE]

theorem flatMap_bytesLE_length (k : Nat) (vs : List Nat) : (vs.flatMap (bytesLE k)).length = vs.length * k := by
  induction vs with
  | nil => simp
  | cons v vs ih => rw [List.flatMap_cons, List.length_append, ih, bytesLE_length, List.length_cons]; ring

theorem flatMap_bytesLE_getD {k q l : Nat} {vs : List Nat} (hq : q < vs.length) (hl : l < k) :
    (vs.flatMap (bytesLE k)).getD (q * k + l) 0 = (bytesLE k (vs.getD q 0)).getD l 0 := by
  induction vs generalizing q with
  | nil => simp at hq
  | cons v vs ih =>
    rw [List.flatMap_cons]
    cases q with
    | zero =>
      rw [zero_mul, zero_add, List.getD_append _ _ _ _ (by rwa [bytesLE_length])]
      rfl
    | succ q =>
      rw [List.getD_append_right _ _ _ _ (by rw [bytesLE_length]; nlinarith), bytesLE_length, List.getD_cons_succ,
        ← ih (by simpa using hq)]
      congr 1
      rw [Nat.succ_mul]
      omega

/-- A byte of an array belongs to one element. -/
theorem byte_in_elems {k i j l n : Nat} (hl : l < k) : (i * k ≤ j * k + l ∧ j * k + l < i * k + n * k) ↔ i ≤ j ∧ j < i + n := by
  rw [← add_mul]
  constructor
  · rintro ⟨h1, h2⟩
    exact ⟨Nat.lt_succ_iff.mp (Nat.lt_of_mul_lt_mul_right (a := k) (by rw [Nat.succ_mul]; omega)),
      Nat.lt_of_mul_lt_mul_right (a := k) (by omega)⟩
  · rintro ⟨h1, h2⟩
    have := Nat.mul_le_mul_right k h1
    have := Nat.mul_le_mul_right k (Nat.succ_le_of_lt h2)
    rw [Nat.succ_mul] at this
    omega

theorem memElem_wide {f : Fmt} (h4 : f.width ≠ 4) (base : Nat) (s : State) (j : Nat) : memElem f base s j =
    ofBytesLE ((List.range (f.width / 8)).map fun l => rdByte s (base + (j * (f.width / 8) + l))) := by
  rw [memElem, elemAt, if_neg h4]

theorem width_wide {f : Fmt} (h4 : f.width ≠ 4) : f.width = 8 * (f.width / 8) ∧ 0 < f.width / 8 := by
  cases f <;> simp_all [Fmt.width]

theorem elemBytes_wide {f : Fmt} (h4 : f.width ≠ 4) (n : Nat) : elemBytes f n = n * (f.width / 8) := by
  obtain ⟨hw, -⟩ := width_wide h4
  generalize f.width / 8 = k at *
  have assoc : n * (8 * k) = 8 * (n * k) := by ring
  rw [elemBytes, hw, assoc]
  omega

/-- One write of elements of whole bytes. -/
theorem elemsWritten_wide {f : Fmt} (h4 : f.width ≠ 4) {base n i : Nat} {vs : List Nat} {s : State}
    (h : anyPoison s base (elemBytes f n) = false) (hn : i + vs.length ≤ n) :
    ElemsWritten f base n i vs s (wrBytes (base + i * (f.width / 8)) (packElems f vs) s) := by
  obtain ⟨hw, hk⟩ := width_wide h4
  obtain ⟨k, hkd⟩ : ∃ k, k = f.width / 8 := ⟨_, rfl⟩
  have packed : packElems f vs = vs.flatMap (bytesLE k) := by rw [packElems, if_neg h4, hkd]
  have fits : (i + vs.length) * k ≤ n * k := Nat.mul_le_mul_right k hn
  rw [add_mul] at fits
  have clean : anyPoison s (base + i * k) (vs.flatMap (bytesLE k)).length = false := by
    rw [flatMap_bytesLE_length]
    rw [elemBytes_wide h4, ← hkd] at h
    exact anyPoison_mono h (by omega) (by omega)
  rw [packed, ← hkd]
  refine ⟨fun j => ?_, fun a ha => ?_, anyPoison_wrBytes clean h⟩
  · have read (l : Nat) (hl : l < k) : rdByte (wrBytes (base + i * k) (vs.flatMap (bytesLE k)) s) (base + (j * k + l)) =
        if i ≤ j ∧ j < i + vs.length then (bytesLE k (vs.getD (j - i) 0)).getD l 0 else rdByte s (base + (j * k + l)) := by
      rw [rdByte_wrBytes clean, flatMap_bytesLE_length]
      by_cases hj : i ≤ j ∧ j < i + vs.length
      · have inside := (byte_in_elems (n := vs.length) hl).mpr hj
        have le := Nat.mul_le_mul_right k hj.1
        have place : base + (j * k + l) - (base + i * k) = (j - i) * k + l := by rw [Nat.sub_mul]; omega
        rw [if_pos (by omega), if_pos hj, place, flatMap_bytesLE_getD (by omega) hl]
      · have := mt (byte_in_elems (n := vs.length) hl).mp hj
        rw [if_neg (by omega), if_neg hj]
    rw [memElem_wide h4, memElem_wide h4, ← hkd]
    split
    next hj =>
      have bytes : (List.range k).map (fun l => rdByte (wrBytes (base + i * k) (vs.flatMap (bytesLE k)) s) (base + (j * k + l))) =
          bytesLE k (vs.getD (j - i) 0) := by
        refine List.ext_getElem (by simp [bytesLE]) fun l hl _ => ?_
        rw [List.getElem_map, List.getElem_range, read l (by simpa using hl), if_pos hj, List.getD_eq_getElem]
      rw [bytes, ofBytesLE_bytesLE, hw, ← hkd, pow_mul]
      rfl
    next hj =>
      congr 1
      refine List.map_congr_left fun l hl => ?_
      rw [read l (List.mem_range.mp hl), if_neg hj]
  · rw [elemBytes_wide h4, ← hkd] at ha
    rw [rdByte_wrBytes clean, flatMap_bytesLE_length, if_neg (by omega)]

/-! Elements of four bits. -/

/-- A half of a byte. -/
def nibble (b : Byte) (r : Nat) : Nat := (b.toNat >>> (4 * r)) % 16

theorem memElem_nibble {f : Fmt} (h4 : f.width = 4) (base : Nat) (s : State) (j : Nat) :
    memElem f base s j = nibble (rdByte s (base + j / 2)) (j % 2) := by
  rw [memElem, elemAt, if_pos h4, nibble]

theorem elemBytes_nibble {f : Fmt} (h4 : f.width = 4) (n : Nat) : elemBytes f n = (n + 1) / 2 := by
  rw [elemBytes, h4]
  omega

theorem nibble_ofNat (x : Nat) {r : Nat} (hr : r < 2) : nibble (BitVec.ofNat 8 x) r = bitsOf x (4 * r + 3) (4 * r) := by
  have : 4 * r + 3 + 1 - 4 * r = 4 := by omega
  rw [nibble, bitsOf, this, BitVec.toNat_ofNat, Nat.shiftRight_eq_div_pow, Nat.shiftRight_eq_div_pow]
  obtain rfl | rfl : r = 0 ∨ r = 1 := by omega
  · simp only [mul_zero, pow_zero, Nat.div_one]
    omega
  · simp only [mul_one]
    omega

theorem nibble_eq_bitsOf (b : Byte) {r : Nat} (hr : r < 2) : nibble b r = bitsOf b.toNat (4 * r + 3) (4 * r) := by
  rw [← nibble_ofNat _ hr, BitVec.ofNat_toNat, BitVec.setWidth_eq]

/-- One element of four bits, written by itself. -/
theorem elemsWritten_nibble {f : Fmt} (h4 : f.width = 4) {base n i v : Nat} {s : State}
    (h : anyPoison s base (elemBytes f n) = false) (hn : i < n) : ElemsWritten f base n i [v] s (writeElem f base i v s) := by
  have size := elemBytes_nibble h4 n
  have clean {b : Byte} : anyPoison s (base + i / 2) [b].length = false :=
    anyPoison_mono h (by omega) (by rw [size, List.length_singleton]; omega)
  rw [writeElem, if_pos h4]
  refine ⟨fun j => ?_, fun a ha => ?_, anyPoison_wrBytes clean h⟩
  · rw [memElem_nibble h4, memElem_nibble h4, rdByte_wrBytes clean, List.length_singleton, List.length_singleton, h4]
    by_cases hb : j / 2 = i / 2
    · rw [if_pos (by omega), hb, Nat.sub_self, List.getD_cons_zero, nibble_ofNat _ (by omega)]
      by_cases hj : j = i
      · rw [hj, if_pos (by omega), bitsOf_setBits_same _ _ _ _ (by omega), Nat.sub_self, List.getD_cons_zero]
        congr 2
        omega
      · rw [if_neg (by omega), bitsOf_setBits_ne _ _ _ _ _ _ (by omega) (by omega), nibble_eq_bitsOf _ (by omega)]
    · rw [if_neg (by omega), if_neg (by omega)]
  · rw [rdByte_wrBytes clean, List.length_singleton, if_neg (by rw [size] at ha; omega)]

theorem pack4_spec (xs : List Nat) : (pack4 xs).length = (xs.length + 1) / 2 ∧
    ∀ q, q < xs.length → nibble ((pack4 xs).getD (q / 2) 0) (q % 2) = xs.getD q 0 % 16 := by
  fun_induction pack4 xs with
  | case1 => simp
  | case2 a =>
    refine ⟨by simp, fun q hq => ?_⟩
    obtain rfl : q = 0 := by simpa using hq
    refine (nibble_ofNat (a % 16) two_pos).trans ?_
    simp [bitsOf]
  | case3 a b xs ih =>
    obtain ⟨len, nib⟩ := ih
    refine ⟨by simp only [List.length_cons, len]; omega, fun q hq => ?_⟩
    match q with
    | 0 =>
      refine (nibble_ofNat (a % 16 + 16 * (b % 16)) two_pos).trans ?_
      simp only [bitsOf, List.getD_cons_zero, Nat.shiftRight_eq_div_pow]
      omega
    | 1 =>
      refine (nibble_ofNat (a % 16 + 16 * (b % 16)) one_lt_two).trans ?_
      simp only [bitsOf, List.getD_cons_zero, List.getD_cons_succ, Nat.shiftRight_eq_div_pow]
      omega
    | q + 2 =>
      have half : (q + 2) / 2 = q / 2 + 1 := by omega
      rw [half, Nat.add_mod_right, List.getD_cons_succ, List.getD_cons_succ, List.getD_cons_succ]
      exact nib q (by simpa using hq)

/-- An even number of elements of four bits, written in whole bytes. -/
theorem elemsWritten_pack4 {f : Fmt} (h4 : f.width = 4) {base n i : Nat} {vs : List Nat} {s : State}
    (h : anyPoison s base (elemBytes f n) = false) (hn : i + vs.length ≤ n) (hi : i % 2 = 0) (hv : vs.length % 2 = 0) :
    ElemsWritten f base n i vs s (wrBytes (base + i / 2) (packElems f vs) s) := by
  obtain ⟨len, nib⟩ := pack4_spec vs
  have size := elemBytes_nibble h4 n
  have clean : anyPoison s (base + i / 2) (pack4 vs).length = false := anyPoison_mono h (by omega) (by omega)
  rw [packElems, if_pos h4]
  refine ⟨fun j => ?_, fun a ha => ?_, anyPoison_wrBytes clean h⟩
  · rw [memElem_nibble h4, memElem_nibble h4, rdByte_wrBytes clean, len, h4]
    by_cases hj : i ≤ j ∧ j < i + vs.length
    · have place : base + j / 2 - (base + i / 2) = (j - i) / 2 ∧ j % 2 = (j - i) % 2 := by omega
      rw [if_pos (by omega), if_pos hj, place.1, place.2, nib _ (by omega)]
      rfl
    · rw [if_neg (by omega), if_neg hj]
  · rw [rdByte_wrBytes clean, len, if_neg (by omega)]

theorem foldS_short {α σ : Type} {f : α → σ → σ} {P : List α → σ → Prop} {xs : List α} {s : σ} (hx : xs.length ≤ 1)
    (h0 : P [] s) (h1 : ∀ x, xs = [x] → P [x] (f x s)) : P xs (foldS xs f s) := by
  match xs, hx with
  | [], _ => exact h0
  | [x], _ => exact h1 x rfl

/-- A write of elements does what the write of each of its parts does: of the element that shares its byte with one before the run,
of those that fill their bytes, and of the one that shares its byte with one behind the run. -/
theorem writeElems_written {f : Fmt} {base n i : Nat} {vs : List Nat} {s : State}
    (h : anyPoison s base (elemBytes f n) = false) (hn : i + vs.length ≤ n) :
    ElemsWritten f base n i vs s (writeElems f base i vs s) := by
  rw [writeElems]
  by_cases h0 : vs.isEmpty
  · rw [if_pos h0, List.isEmpty_iff.mp h0]
    exact .nil h i
  by_cases h4 : f.width = 4
  swap
  · rw [if_neg h0, if_neg h4]
    exact elemsWritten_wide h4 h hn
  rw [if_neg h0, if_pos h4]
  have pos : 0 < vs.length := List.length_pos_iff.mpr (mt List.isEmpty_iff.mpr h0)
  obtain ⟨head, hhead⟩ : ∃ l, l = vs.take (i % 2) := ⟨_, rfl⟩
  obtain ⟨rest, hrest⟩ : ∃ l, l = vs.drop (i % 2) := ⟨_, rfl⟩
  obtain ⟨body, hbody⟩ : ∃ l, l = rest.take (rest.length / 2 * 2) := ⟨_, rfl⟩
  obtain ⟨tail, htail⟩ : ∃ l, l = rest.drop (rest.length / 2 * 2) := ⟨_, rfl⟩
  have parts : vs = head ++ (body ++ tail) := by
    rw [hbody, htail, List.take_append_drop, hhead, hrest, List.take_append_drop]
  have lenHead : head.length = i % 2 := by rw [hhead, List.length_take]; omega
  have lenRest : rest.length = vs.length - i % 2 := by rw [hrest, List.length_drop]
  have lenBody : body.length = rest.length / 2 * 2 := by rw [hbody, List.length_take]; omega
  have lenTail : tail.length = rest.length % 2 := by rw [htail, List.length_drop]; omega
  simp only [← hhead, ← hrest, ← hbody, ← htail]
  have first : ElemsWritten f base n i head s (foldS head (writeElem f base i) s) :=
    foldS_short (P := fun l t => ElemsWritten f base n i l s t) (by omega) (.nil h i) fun v _ => elemsWritten_nibble h4 h (by omega)
  have second : ElemsWritten f base n (i + head.length) body (foldS head (writeElem f base i) s)
      (whenS (!body.isEmpty) (wrBytes (base + (i + i % 2) / 2) (packElems f body)) (foldS head (writeElem f base i) s)) := by
    cases hb : body.isEmpty with
    | true =>
      rw [List.isEmpty_iff.mp hb]
      exact .nil first.clean _
    | false =>
      rw [lenHead]
      exact elemsWritten_pack4 h4 first.clean (by omega) (by omega) (by omega)
  have third := fun t (ht : anyPoison t base (elemBytes f n) = false) =>
    foldS_short (f := writeElem f base (i + vs.length - 1))
      (P := fun l u => ElemsWritten f base n (i + head.length + body.length) l t u) (xs := tail) (s := t)
      (by omega) (.nil ht _) fun v hv => by
        have : tail.length = 1 := by rw [hv]; rfl
        have last : i + head.length + body.length = i + vs.length - 1 := by omega
        rw [last]
        exact elemsWritten_nibble h4 ht (by omega)
  nth_rewrite 1 [parts]
  rw [← List.append_assoc]
  refine (first.append second).append ?_
  rw [List.length_append, ← add_assoc]
  exact third _ second.clean

/-- Settles O53, from the three parts of a write of elements. -/
theorem elementsReadBackFromMemory : Obligations.ElementsReadBackFromMemory := by
  intro f base i vs s h t el
  have w := writeElems_written h le_rfl
  have elt : ∀ s j, el s j = memElem f base s j := fun _ _ => rfl
  refine ⟨fun j hj => ?_, fun j hj => ?_, w.outside, fun h4 j => ?_, fun h16 j => ?_⟩
  · rw [elt, w.elems, if_pos (by omega), Nat.add_sub_cancel_left]
  · rw [elt, elt, w.elems, if_neg (by omega)]
  · have lt := (rdByte s (base + j)).isLt
    have half : (2 * j + 1) / 2 = j := by omega
    rw [elt, elt, memElem_nibble h4, memElem_nibble h4, half, Nat.mul_div_cancel_left _ two_pos, Nat.mul_mod_right,
      Nat.mul_add_mod, nibble, nibble, Nat.shiftRight_eq_div_pow, Nat.shiftRight_eq_div_pow]
    constructor <;> norm_num
    omega
  · rw [elt, memElem_wide (by omega), h16]
    have bytes : List.range (16 / 8) = [0, 1] := rfl
    rw [bytes, mul_comm]
    rfl

end Sys2Proof.Machine

namespace Sys2Proof.Machine
open Sys2Proof

/-! ### Tables searched by key -/

section
variable {α : Type}

theorem find?_tins_same (m : Tab α) (k : Nat) (v : α) : (tins m k v).find? (fun e => e.1 == k) = some (k, v) := by
  induction m with
  | nil => simp [tins]
  | cons e m ih =>
    obtain ⟨k', v'⟩ := e
    rw [tins]
    split
    next h => rw [List.find?_cons_of_neg (by simpa using h.ne), ih]
    next => split <;> simp

theorem find?_tins_ne (m : Tab α) {k k' : Nat} (v : α) (h : k' ≠ k) :
    (tins m k v).find? (fun e => e.1 == k') = m.find? fun e => e.1 == k' := by
  induction m with
  | nil => simp [tins, h.symm]
  | cons e m ih =>
    obtain ⟨j, v'⟩ := e
    rw [tins]
    split
    next => rw [List.find?_cons, List.find?_cons, ih]
    next =>
      split
      next hj => simp [hj, h.symm]
      next => simp [h.symm]

theorem tget_of_find? {d : α} {m : Tab α} {k : Nat} {e : Nat × α} (h : m.find? (fun e => e.1 == k) = some e) : tget d m k = e.2 := by
  induction m with
  | nil => simp at h
  | cons x m ih =>
    obtain ⟨j, v⟩ := x
    rw [tget]
    by_cases hj : j = k
    · rw [if_pos hj]
      rw [List.find?_cons_of_pos (by simpa using hj)] at h
      exact congrArg Prod.snd (Option.some.inj h)
    · rw [if_neg hj]
      rw [List.find?_cons_of_neg (by simpa using hj)] at h
      exact ih h

/-- Entries put one after another, the keys given by a function: what is read at one of the keys, where no later entry has it. -/
theorem tget_foldS_tins_ne {β : Type} (d : α) (xs : List β) (key : β → Nat) (val : β → α) (m : Tab α) {k : Nat}
    (h : ∀ x ∈ xs, key x ≠ k) : tget d (foldS xs (fun x m => tins m (key x) (val x)) m) k = tget d m k := by
  unfold foldS
  induction xs generalizing m with
  | nil => rfl
  | cons x xs ih =>
    rw [List.foldl_cons, ih _ fun y hy => h y (List.mem_cons_of_mem _ hy), tget_tins_ne _ _ _ (h x List.mem_cons_self).symm]

end

/-! ### What a report leaves

An event entered, a status answered to a step, a fault laid upon a pass and a message sent leave the rest of the unit. -/

/-- The state without what reports change: registers, Silset, messages, the functions' state, the statuses of commands and the faults
of passes. -/
def unreported (s : State) : State :=
  { s with regs := [], sil := {}, out := [], fns := [], cmds := [], acc := [], accLate := [] }

/-- The state without what reports and stores change. -/
def unstored (s : State) : State := { unreported s with mem := [], poison := [], lost := [] }

theorem unreported_of_outer {s t : State} (h : outer t = outer s) : unreported t = unreported s :=
  congrArg (fun u : State => { u with cmds := [], acc := [], accLate := [] }) h

theorem unstored_of_unreported {s t : State} (h : unreported t = unreported s) : unstored t = unstored s :=
  congrArg (fun u : State => { u with mem := [], poison := [], lost := [] }) h

/-- From `s` to `t` there are reports alone, and no message is taken back. -/
structure Reports (s t : State) : Prop where
  rest : unreported t = unreported s
  sent : s.out ⊆ t.out

/-- From `s` to `t` there are reports and stores alone, and no message is taken back. -/
structure Stores (s t : State) : Prop where
  rest : unstored t = unstored s
  sent : s.out ⊆ t.out

theorem Reports.refl (s : State) : Reports s s := ⟨rfl, fun _ h => h⟩

theorem Reports.trans {s t u : State} (h : Reports s t) (g : Reports t u) : Reports s u :=
  ⟨g.rest.trans h.rest, fun _ hm => g.sent (h.sent hm)⟩

theorem Stores.refl (s : State) : Stores s s := ⟨rfl, fun _ h => h⟩

theorem Stores.trans {s t u : State} (h : Stores s t) (g : Stores t u) : Stores s u :=
  ⟨g.rest.trans h.rest, fun _ hm => g.sent (h.sent hm)⟩

theorem Reports.stores {s t : State} (h : Reports s t) : Stores s t := ⟨unstored_of_unreported h.rest, h.sent⟩

theorem Reports.whenS {s t : State} {c : Bool} {f : State → State} (h : Reports s t) (hf : Reports t (f t)) :
    Reports s (whenS c f t) := by
  cases c
  · exact h
  · exact h.trans hf

theorem Reports.foldS {β : Type} {f : β → State → State} (xs : List β) (h : ∀ x ∈ xs, ∀ s, Reports s (f x s)) (s : State) :
    Reports s (foldS xs f s) := by
  unfold Machine.foldS
  induction xs generalizing s with
  | nil => exact .refl s
  | cons x xs ih =>
    exact (h x List.mem_cons_self s).trans (ih (fun y hy => h y (List.mem_cons_of_mem _ hy)) _)

theorem Stores.foldS {β : Type} {f : β → State → State} (xs : List β) (h : ∀ x ∈ xs, ∀ s, Stores s (f x s)) (s : State) :
    Stores s (foldS xs f s) := by
  unfold Machine.foldS
  induction xs generalizing s with
  | nil => exact .refl s
  | cons x xs ih =>
    exact (h x List.mem_cons_self s).trans (ih (fun y hy => h y (List.mem_cons_of_mem _ hy)) _)

/-! The fields that reports leave. -/

section
variable {s t : State} (h : Reports s t)
include h

theorem Reports.mem_eq : t.mem = s.mem := (congrArg State.mem h.rest :)

end

section
variable {s t : State} (h : Stores s t)
include h

theorem Stores.crossings_eq : t.crossings = s.crossings := (congrArg State.crossings h.rest :)
theorem Stores.fuses_eq : t.fuses = s.fuses := (congrArg State.fuses h.rest :)
theorem Stores.images_eq : t.images = s.images := (congrArg State.images h.rest :)
theorem Stores.tiles_eq : t.tiles = s.tiles := (congrArg State.tiles h.rest :)
theorem Stores.quant_eq : t.quant = s.quant := (congrArg State.quant h.rest :)
theorem Stores.passes_eq : t.passes = s.passes := (congrArg State.passes h.rest :)
theorem Stores.glz_eq : t.glz = s.glz := (congrArg State.glz h.rest :)
theorem Stores.adapters_eq : t.adapters = s.adapters := (congrArg State.adapters h.rest :)

theorem Stores.imgOf_eq (im : Nat) : imgOf t im = imgOf s im := by rw [imgOf, h.images_eq, imgOf]
theorem Stores.ctlOf_eq (vec : Nat) : ctlOf t vec = ctlOf s vec := by rw [ctlOf, h.passes_eq, ctlOf]

end

/-! ### The operations that report -/

theorem sendMsix_out (fn vec : Nat) (s : State) : s.out ⊆ (sendMsix fn vec s).out := by
  unfold sendMsix
  split
  · exact fun _ h => h
  · split
    · exact fun _ h => h
    · exact fun _ h => List.mem_cons_of_mem _ h

theorem putMirror_out (e : LogEntry) (s : State) : (putMirror e s).out = s.out := by
  rw [putMirror_frame]

theorem putLog_out (e : LogEntry) (s : State) : s.out ⊆ (putLog e s).out := by
  unfold putLog whenS
  dsimp only
  split
  · refine fun m hm => sendMsix_out _ _ _ ?_
    rw [putMirror_out]
    exact hm
  · rw [putMirror_out]
    exact fun _ h => h

theorem logE_out (e : LogEntry) (s : State) : s.out ⊆ (logE e s).out := by
  unfold logE
  split
  · exact putLog_out _ s
  · split <;> exact fun _ h => h

theorem logE_reports (e : LogEntry) (s : State) : Reports s (logE e s) := ⟨unreported_of_outer (outer_logE e s), logE_out e s⟩

theorem setEv_reports (r : Reg) (k i : Nat) (s : State) : Reports s (setEv r k i s) := ⟨rfl, fun _ h => h⟩

theorem wr_reports (r : Reg) (i : Nat) (w : Word) (s : State) : Reports s (wr r i w s) := ⟨rfl, fun _ h => h⟩

theorem bump_reports (r : Reg) (n i : Nat) (s : State) : Reports s (bump r n i s) := ⟨rfl, fun _ h => h⟩

theorem bumpSat_reports (r : Reg) (hi lo n i : Nat) (s : State) : Reports s (bumpSat r hi lo n i s) := ⟨rfl, fun _ h => h⟩

theorem emit_reports (m : Msg) (s : State) : Reports s (emit m s) := ⟨rfl, fun _ h => List.mem_cons_of_mem _ h⟩

theorem errSteps_reports (im status : Nat) (s : State) : Reports s (errSteps im status s) := ⟨rfl, fun _ h => h⟩

theorem setAcc_reports (k : Nat) (a : Option AccPass) (s : State) : Reports s (setAcc k a s) := by
  cases a <;> exact ⟨rfl, fun _ h => h⟩

theorem countMacs_reports (cl n : Nat) (s : State) : Reports s (countMacs cl n s) := ⟨rfl, fun _ h => h⟩

theorem xreset_reports (s : State) : Reports s (xreset s) :=
  (setEv_reports .RST_STAT 7 0 s).trans ((bump_reports .RST_XRESET_CNT 1 0 _).trans (logE_reports _ _))

theorem accErr_reports (cl cause tile layer part : Nat) (s : State) : Reports s (accErr cl cause tile layer part s) :=
  (setEv_reports .ACC_STAT _ cl s).trans ((wr_reports .ACC_LAST_ERR cl _ _).trans (logE_reports _ _))

theorem glzConv_reports (bit n cl : Nat) (s : State) : Reports s (glzConv bit n cl s) := by
  unfold glzConv
  split
  · exact .refl s
  · exact ((setEv_reports _ bit 0 s).trans (bumpSat_reports _ _ _ n 0 _)).whenS (logE_reports _ _)

theorem emitWay_reports (src dst im : Nat) (m : Msg) (s : State) : Reports s (emitWay src dst im m s) := by
  unfold emitWay
  split
  · exact (xreset_reports s).trans (errSteps_reports _ _ _)
  · exact emit_reports m s

theorem accFault_reports (cl part im vec cause tile layer : Nat) (pos : Option Nat) (status : Nat) (s : State) :
    Reports s (accFault cl part im vec cause tile layer pos status s) := by
  have told := (accErr_reports cl cause tile layer part s).trans (errSteps_reports im status _)
  unfold accFault
  dsimp only
  split
  · exact told.trans (setAcc_reports _ _ _)
  · exact told.trans ⟨rfl, fun _ h => h⟩

theorem glzFault_reports (cl im slice vec bit : Nat) (p : RouteE → Bool) (s : State) :
    Reports s (glzFault cl im slice vec bit p s) :=
  (setEv_reports .GLZ_SL_STAT bit cl s).trans (.foldS _ (fun _ _ _ => accFault_reports _ _ _ _ _ _ _ _ _ _) _)

theorem glzRefuse_reports (cl im slice vec : Nat) (p : RouteE → Bool) (s : State) : Reports s (glzRefuse cl im slice vec p s) :=
  (glzFault_reports cl im slice vec 8 p s).trans (emit_reports _ _)

/-- A message whose way is open leaves. -/
theorem emitWay_open {src dst im : Nat} {m : Msg} {s : State} (h : wayClosed s (src / 48) (.scratch dst) = false) :
    emitWay src dst im m s = emit m s := by
  rw [emitWay, h, if_neg Bool.false_ne_true]

theorem mem_emitWay {src dst im : Nat} {m : Msg} {s : State} (h : wayClosed s (src / 48) (.scratch dst) = false) :
    m ∈ (emitWay src dst im m s).out := by
  rw [emitWay_open h]
  exact List.mem_cons_self

/-- The ways through the package depend on the crossings and the dies alone. -/
theorem wayTo_congr {s t : State} (h : t.fuses = s.fuses) (d : Nat) (p : Place) : wayTo t d p = wayTo s d p := by
  have on (d : Nat) : dieOn t d = dieOn s d := by rw [dieOn, h, dieOn]
  have live : xingLive t = xingLive s := funext fun k => by simp only [xingLive, on]
  have via : viaDie t = viaDie s := funext fun h => by simp only [viaDie, on]
  cases p <;> simp only [wayTo, dieWay, live, via]

theorem Stores.wayClosed_eq {s t : State} (h : Stores s t) (d : Nat) (p : Place) : wayClosed t d p = wayClosed s d p := by
  rw [wayClosed, wayTo_congr h.fuses_eq, wayClosed]
  simp only [xOf, h.crossings_eq]

/-! ### Stores that may meet poison (R288) -/

theorem wrBytes_stores (a : Nat) (xs : List Byte) (s : State) : Stores s (wrBytes a xs s) := by
  have written : Stores s { wrBytesAux a xs.length (byteOk s a xs.length) a xs s with
      poison := tdrop (fun w => covers a xs.length w) (wrBytesAux a xs.length (byteOk s a xs.length) a xs s).poison,
      lost := found a (a + xs.length) (wrBytesAux a xs.length (byteOk s a xs.length) a xs s).lost } := by
    rw [wrBytesAux_mem]
    exact ⟨rfl, fun _ h => h⟩
  unfold wrBytes
  dsimp only
  split
  · exact written.trans ((setEv_reports _ _ _ _).trans (logE_reports _ _)).stores
  · exact written

/-- A write reaches no byte outside its range, whatever of it is performed. -/
theorem rdByte_wrBytes_outside {a : Nat} {xs : List Byte} {b : Nat} (h : b < a ∨ a + xs.length ≤ b) (s : State) :
    rdByte (wrBytes a xs s) b = rdByte s b := by
  have written : rdByte (wrBytesAux a xs.length (byteOk s a xs.length) a xs s) b = rdByte s b := by
    rw [rdByte_wrBytesAux, if_neg (by omega)]
  unfold wrBytes
  dsimp only
  split
  · rw [rdByte_congr (((setEv_reports _ _ _ _).trans (logE_reports _ _)).mem_eq)]
    exact written
  · exact written

/-! ### Waits for a scratchpad (R284, R308) -/

/-- The state without what a wait changes: registers and the counter of free values. -/
def unwaited (s : State) : State := { s with regs := [], free := 0 }

theorem unwaited_spmTouch (a : Nat) (s : State) : unwaited (spmTouch a s) = unwaited s := by
  unfold spmTouch
  split <;> rfl

theorem eq_of_unwaited {s t : State} (h : unwaited t = unwaited s) : t = { s with regs := t.regs, free := t.free } :=
  calc t = { unwaited t with regs := t.regs, free := t.free } := rfl
    _ = _ := by rw [h]; rfl

theorem rd_spmTouch (a : Nat) (s : State) {q : Reg} (h : q ≠ .SPM_WAIT_CNT) (i : Nat) : rd (spmTouch a s) q i = rd s q i := by
  unfold spmTouch
  split
  · exact rd_wr_of_ne _ _ h
  · rfl

theorem foldS_spmTouch_unwaited (xs : List Nat) (s : State) : unwaited (foldS xs spmTouch s) = unwaited s :=
  foldS_eq unwaited unwaited_spmTouch xs s

theorem rd_foldS_spmTouch (xs : List Nat) (s : State) {q : Reg} (h : q ≠ .SPM_WAIT_CNT) (i : Nat) :
    rd (foldS xs spmTouch s) q i = rd s q i :=
  foldS_eq (fun t => rd t q i) (fun a s => rd_spmTouch a s h i) xs s

end Sys2Proof.Machine

namespace Sys2Proof.Machine
open Sys2Proof

/-! ### The passes in the banks (R127, R128) -/

/-- What the search for a pass has found: the pass of the part in one of the two banks, of which the condition holds. -/
theorem accFind_eq_some {s : State} {cl part k : Nat} {p : AccPass → Bool} {a : AccPass} (h : accFind s cl part p = some (k, a)) :
    tget {} s.acc k = a ∧ ∃ b, b < 2 ∧ k = accKey cl b part := by
  have found {b k' : Nat} {a' : AccPass} (hb : b < 2)
      (h : (match (s.acc.find? fun e => e.1 == accKey cl b part).map fun e => e.2 with
        | some a => if p a then some (accKey cl b part, a) else none
        | none => none) = some (k', a')) : tget {} s.acc k' = a' ∧ ∃ b, b < 2 ∧ k' = accKey cl b part := by
    split at h
    next x hx =>
      obtain ⟨e, he, rfl⟩ := Option.map_eq_some_iff.mp hx
      split at h
      · obtain ⟨rfl, rfl⟩ := Prod.mk.inj (Option.some.inj h)
        exact ⟨tget_of_find? he, b, hb, rfl⟩
      · simp at h
    next => simp at h
  have first {x y : Option (Nat × AccPass)} (h : (x <|> y) = some (k, a)) : x = some (k, a) ∨ y = some (k, a) := by
    cases x with
    | none => exact .inr h
    | some x => exact .inl h
  unfold accFind at h
  dsimp only at h
  split at h
  · split at h
    · exact (first h).elim (found two_pos) (found one_lt_two)
    · exact (first h).elim (found one_lt_two) (found two_pos)
  · exact (first h).elim (found two_pos) (found one_lt_two)

theorem accKey_bank {cl b part : Nat} (h : part < 32) : accKey cl b part / 32 = cl * 2 + b := by
  rw [accKey]
  omega

theorem bankFor_lt {s : State} {cl im pg part b : Nat} {vec : Option Nat} (h : bankFor s cl im pg part vec = some b) : b < 2 := by
  unfold bankFor at h
  dsimp only at h
  split_ifs at h <;> simp_all <;> omega

/-! A part takes a bank. -/

/-- What follows for a part that takes a bank while the other one is empty, no pass of the bank waits for its vector, no fault was kept
for it and its own preload reads well: the pass is there, and the accesses of its preload have waited. -/
theorem openPart_clean {s : State} {cl b im vec : Nat} {r : RouteE} (hb : b < 2) (hp : r.part < 32)
    (other : inBank s cl (1 - b) = []) (claimed : ∀ e ∈ inBank s cl b, e.2.vec ≠ none)
    (late : tget [] s.accLate (cl * 32 + r.part) = []) (good : (ownPreload s (imgOf s im) r).2 = false) :
    openPart b cl im (some vec) r s = freeRoom (· == ukey 1 cl) (foldS (preloadAt (imgOf s im) r) spmTouch
      (setAcc (accKey cl b r.part) (some (newPass s (imgOf s im) im (some vec) r)) { s with accNext := s.accNext + 1 })) := by
  obtain ⟨a, ha⟩ : ∃ a, a = newPass s (imgOf s im) im (some vec) r := ⟨_, rfl⟩
  have sound : a.fault = none := by
    rw [ha, newPass]
    simp only [good, Bool.false_eq_true, if_false]
  have served : a.vec = some vec := by rw [ha, newPass]
  obtain ⟨u, hu⟩ : ∃ u, u = foldS (preloadAt (imgOf s im) r) spmTouch
    (setAcc (accKey cl b r.part) (some a) { s with accNext := s.accNext + 1 }) := ⟨_, rfl⟩
  have acc : u.acc = tins s.acc (accKey cl b r.part) a := by
    rw [hu]
    exact (congrArg State.acc (foldS_spmTouch_unwaited _ _) :)
  have inBanks {e : Nat × AccPass} (he : e ∈ u.acc) : e = (accKey cl b r.part, a) ∨ e ∈ s.acc := mem_tins (acc ▸ he)
  have alone : inBank u cl (1 - b) = [] := by
    rw [inBank, List.filter_eq_nil_iff] at other ⊢
    intro e he
    rcases inBanks he with rfl | he
    · rw [beq_iff_eq, accKey_bank hp]
      omega
    · exact other e he
  have quiet : (!(inBank u cl 0).isEmpty && !(inBank u cl 1).isEmpty) = false := by
    obtain rfl | rfl : b = 0 ∨ b = 1 := by omega
    · simp [alone]
    · simp [alone]
  have noClaim : claimBank cl b vec u = u := by
    have same : u.acc.map (fun e => if e.1 / 32 = cl * 2 + b ∧ e.2.vec.isNone then
        (e.1, takeLate u cl (e.1 % 32) vec { e.2 with vec := some vec }) else e) = u.acc := by
      refine (List.map_congr_left fun e he => ?_).trans (List.map_id _)
      refine if_neg fun ⟨hbank, hvec⟩ => ?_
      rcases inBanks he with rfl | he
      · simp [served] at hvec
      · exact claimed e (List.mem_filter.mpr ⟨he, by simpa using hbank⟩) (by simpa using hvec)
    rw [claimBank, same]
  have noLate : takeLate s cl r.part vec a = a := by
    rw [takeLate, late]
    rfl
  rw [openPart]
  simp only [← ha, sound, Option.isSome_none, whenS, Bool.false_eq_true, if_false, noLate, ← hu, quiet, noClaim]

/-- The state with a scale put into a pass: nothing but the passes changes. -/
theorem putScale_eq (k pos scale : Nat) (empty : Bool) (s : State) :
    putScale k pos scale empty s = { s with acc := (putScale k pos scale empty s).acc } := rfl

theorem tget_putScale (k pos scale : Nat) (empty : Bool) (s : State) (j : Nat) : tget {} (putScale k pos scale empty s).acc j =
    if j = k then { tget {} s.acc k with scales := tins (tget {} s.acc k).scales pos (scale + 1 + 512 * b2n empty) }
    else tget {} s.acc j := by
  rw [putScale]
  exact tget_tset _ _ _ _ _

/-! ### The events of the unit, where they are admitted -/

section
variable {s : State} (hdbg : undebugged s = true)
include hdbg

theorem exec_blockScaleArrival_first {cl part im vec pos scale b : Nat} {empty : Bool} {r : RouteE} (up : unitUp s 1 cl = true)
    (route : routeOf (imgOf s im) cl part = some r)
    (own : accFind s cl part (fun a => a.im == im && a.vec == some vec && a.result.isNone) = none)
    (ahead : accFind s cl part (fun a => a.im == im && a.vec.isNone) = none)
    (bank : bankFor s cl im (sliceOf (imgOf s im) r.slice).group part (some vec) = some b) :
    exec (.blockScaleArrival cl part im vec pos scale empty) s =
      .next (putScale (accKey cl b part) pos scale empty (openPart b cl im (some vec) r s)) := by
  show execBlockScaleArrival cl part im vec pos scale empty s = _
  simp [execBlockScaleArrival, done, withhold_undebugged hdbg, up, route, own, ahead, bank]

theorem exec_blockScaleArrival_further {cl part im vec pos scale k : Nat} {empty : Bool} {r : RouteE} {a : AccPass}
    (up : unitUp s 1 cl = true) (route : routeOf (imgOf s im) cl part = some r)
    (own : accFind s cl part (fun a => a.im == im && a.vec == some vec && a.result.isNone) = some (k, a)) :
    exec (.blockScaleArrival cl part im vec pos scale empty) s = .next (putScale k pos scale empty s) := by
  show execBlockScaleArrival cl part im vec pos scale empty s = _
  simp [execBlockScaleArrival, done, withhold_undebugged hdbg, up, route, own]

/-- A wave is taken into the pass of its part, and counted in the tile. -/
theorem exec_accCodeArrival {cl tile wave k : Nat} {codes : List Int} {run : PassRun} {a : AccPass} (reset : inReset s 1 cl = false)
    (last : (tileOf s tile).last = none) (running : (tileOf s tile).running = some run) (taken : run.taken = wave)
    (less : wave < run.wave) (kind : run.req.kind ≤ 1) (waited : a.waited = true)
    (own : accFind s cl run.req.part (fun a => a.im == run.req.im && a.vec == some run.req.vec && a.result.isNone &&
      !(tget 0 a.waves run.req.pos).testBit wave) = some (k, a)) :
    exec (.accCodeArrival cl tile wave codes) s = .next (modTile tile takeWave (setAcc k (some { a with
      codes := putWave (run.req.pos * 1024) wave 0 codes a.codes, waves := tmod 0 a.waves run.req.pos (fun m => m ||| 2 ^ wave),
      runs := tins a.runs run.req.pos run }) s)) := by
  have free : (none <|> some run : Option PassRun) = some run := rfl
  have proceed : (run.taken != wave || decide (run.wave ≤ wave) || decide (1 < run.req.kind)) = false := by
    simp [taken, less, kind]
  show execAccCodeArrival cl tile wave codes s = _
  cases hr : routeOf (imgOf s a.im) cl run.req.part <;>
    simp [execAccCodeArrival, done, halted_undebugged hdbg, reset, last, running, free, proceed, own, hr, waited, whenS]

theorem exec_preloadRun {cl part im off k : Nat} {vals : List Nat} {r : RouteE} {a : AccPass} (up : unitUp s 1 cl = true)
    (route : routeOf (imgOf s im) cl part = some r) (src : r.preSrc = 2) (home : r.home = true)
    (takes : (sliceOf (imgOf s im) r.slice).pre ≠ 0) (fits : off + vals.length ≤ blockCols (sliceOf (imgOf s im) r.slice) r.cb)
    (own : accFind s cl part (fun a => a.im == im && a.result.isNone && preMissing (imgOf s im) r a) = some (k, a))
    (fresh : ∀ j, j < vals.length → tget 0 a.pre (off + j) = 0) :
    exec (.preloadRun cl part im off vals) s = .next (setAcc k (some { a with
      pre := putPre s (imgOf s im) (sliceOf (imgOf s im) a.slice) a.cb off vals a.pre }) s) := by
  show execPreloadRun cl part im off vals s = _
  simp [execPreloadRun, done, withhold_undebugged hdbg, up, route, src, home, takes, not_lt.mpr fits, own, putRun]
  exact fun j hj taken => absurd (fresh j hj) taken

theorem exec_glazeContributionArrival {cl part im vec off k : Nat} {vals : List Nat} {r : RouteE} {a : AccPass}
    (up : unitUp s 1 cl = true) (route : routeOf (imgOf s im) cl part = some r)
    (own : accFind s cl part (fun a => a.im == im && a.vec == some vec && a.result.isNone) = some (k, a)) :
    exec (.glazeContributionArrival cl part im vec off vals) s = .next (setAcc k (some { a with glz := putGlz off vals a.glz })
      (wrf .ACC_WAIT_CNT 31 16 (rf s .ACC_WAIT_CNT 31 16 cl +
        ((List.range vals.length).filter fun j => colAdded (imgOf s im) r a (off + j)).length) cl s)) := by
  show execGlazeContributionArrival cl part im vec off vals s = _
  simp [execGlazeContributionArrival, done, withhold_undebugged hdbg, up, route, own]

theorem exec_accPartComplete {cl part k : Nat} {a : AccPass} {r : RouteE} (reset : inReset s 1 cl = false)
    (own : accFind s cl part (fun a => a.result.isNone) = some (k, a)) (route : routeOf (imgOf s a.im) cl part = some r)
    (ready : partReady s r a = true) : exec (.accPartComplete cl part) s = .next (finishPart cl r k a s) := by
  show execAccPartComplete cl part s = _
  simp [execAccPartComplete, done, halted_undebugged hdbg, reset, own, route, ready]

end

/-! ### The delivery of a result (R137, R138) -/

/-- The state without what forming and delivering a result can change beside the pass itself. -/
def undelivered (s : State) : State :=
  { s with regs := [], sil := {}, out := [], fns := [], cmds := [], mem := [], poison := [], lost := [], free := 0, homeSums := [],
           samples := [], accLate := [], passes := [] }

/-- A report that leaves the passes. -/
theorem undelivered_of_reports {s t : State} (h : Reports s t) (hacc : t.acc = s.acc) : undelivered t = undelivered s := by
  have : { unreported t with acc := t.acc } = { unreported s with acc := s.acc } := by rw [h.rest, hacc]
  exact congrArg (fun u : State => { u with mem := [], poison := [], lost := [], free := 0, homeSums := [], samples := [],
                                            passes := [] }) this

theorem logE_acc (e : LogEntry) (s : State) : (logE e s).acc = s.acc := (congrArg State.acc (outer_logE e s) :)

theorem undelivered_xreset (s : State) : undelivered (xreset s) = undelivered s :=
  undelivered_of_reports (xreset_reports s) (logE_acc _ _)

theorem undelivered_accErr (cl cause tile layer part : Nat) (s : State) :
    undelivered (accErr cl cause tile layer part s) = undelivered s :=
  undelivered_of_reports (accErr_reports cl cause tile layer part s) (logE_acc _ _)

theorem undelivered_glzConv (bit n cl : Nat) (s : State) : undelivered (glzConv bit n cl s) = undelivered s := by
  refine undelivered_of_reports (glzConv_reports bit n cl s) ?_
  unfold glzConv
  split
  · rfl
  · exact whenS_eq State.acc (logE_acc _ _)

/-- The events of a result are counted and noted in the unit's status. -/
theorem undelivered_noted (c : Bool) (bit n k cl : Nat) (s : State) :
    undelivered (whenS c (fun s => glzConv bit n cl (setEv .ACC_STAT k cl s)) s) = undelivered s ∧
      (whenS c (fun s => glzConv bit n cl (setEv .ACC_STAT k cl s)) s).mem = s.mem := by
  cases c with
  | false => exact ⟨rfl, rfl⟩
  | true =>
    exact ⟨(undelivered_glzConv bit n cl (setEv .ACC_STAT k cl s)).trans rfl,
      (glzConv_reports bit n cl (setEv .ACC_STAT k cl s)).mem_eq⟩

theorem undelivered_emitWay (src dst im : Nat) (m : Msg) (s : State) : undelivered (emitWay src dst im m s) = undelivered s := by
  unfold emitWay
  split
  · exact undelivered_xreset s
  · rfl

theorem wrBytes_acc (a : Nat) (xs : List Byte) (s : State) : (wrBytes a xs s).acc = s.acc := by
  have aux : (wrBytesAux a xs.length (byteOk s a xs.length) a xs s).acc = s.acc := by rw [wrBytesAux_mem]
  unfold wrBytes
  dsimp only
  split
  · exact (logE_acc _ _).trans aux
  · exact aux

theorem undelivered_wrBytes (a : Nat) (xs : List Byte) (s : State) : undelivered (wrBytes a xs s) = undelivered s := by
  have : { unstored (wrBytes a xs s) with acc := (wrBytes a xs s).acc } = { unstored s with acc := s.acc } := by
    rw [(wrBytes_stores a xs s).rest, wrBytes_acc]
  exact congrArg (fun u : State => { u with free := 0, homeSums := [], samples := [], passes := [] }) this

theorem undelivered_homePart (i : Image) (r : RouteE) (a : AccPass) (words : List Nat) (d : DestW) (s : State) :
    undelivered (homePart i r a words d s) = undelivered s := by
  unfold homePart
  dsimp only
  split
  · rfl
  · exact undelivered_emitWay _ _ _ _ _

theorem undelivered_deliver (i : Image) (r : RouteE) (mode : Nat) (a : AccPass) (words : List Nat) (d : DestW) (s : State) :
    undelivered (deliver i r mode a words d s) = undelivered s := by
  unfold deliver
  dsimp only
  split
  · exact undelivered_xreset s
  · split
    · split
      · rfl
      · exact (undelivered_wrBytes _ _ _).trans (whenS_eq undelivered rfl)
    · split
      · rfl
      · split
        · rfl
        · split
          · rfl
          · split
            · exact undelivered_homePart i r a words d s
            · rfl

theorem emitWay_mem (src dst im : Nat) (m : Msg) (s : State) : (emitWay src dst im m s).mem = s.mem :=
  (emitWay_reports src dst im m s).mem_eq

theorem homePart_mem (i : Image) (r : RouteE) (a : AccPass) (words : List Nat) (d : DestW) (s : State) :
    (homePart i r a words d s).mem = s.mem := by
  unfold homePart
  dsimp only
  split
  · rfl
  · exact emitWay_mem _ _ _ _ _

/-- A delivery writes to the scratchpad that its destination word names, and to no other memory. -/
theorem rdByte_deliver {i : Image} {r : RouteE} {mode : Nat} {a : AccPass} {words : List Nat} {d : DestW} {b : Nat}
    (h : d.kind = 1 → b < scratchBase d.cl + d.addr * 8 ∨
      scratchBase d.cl + d.addr * 8 + (packElems (partFmt mode) words).length ≤ b) (s : State) :
    rdByte (deliver i r mode a words d s) b = rdByte s b := by
  unfold deliver
  dsimp only
  split
  · exact rdByte_congr (xreset_reports s).mem_eq b
  · split
    next hd =>
      split
      · rfl
      · refine (rdByte_wrBytes_outside (h hd) _).trans ?_
        exact rdByte_congr (whenS_eq State.mem rfl) b
    next =>
      split
      · rfl
      · split
        · rfl
        · split
          · rfl
          · split
            · exact rdByte_congr (homePart_mem i r a words d s) b
            · rfl

/-! ### A part is finished -/

/-- The pass as its result is formed: with what R127 records of it and the rows of R144. -/
def formed (s : State) (r : RouteE) (a : AccPass) : AccPass :=
  { a with h := needsGlaze s (imgOf s a.im) r (a.vec.getD 0) == some true, zero := (zeroRows s (imgOf s a.im) a).1 }

/-- The result of a pass is NaN: a fault, ranges that differ, a block of scale 0xFF, or an uncorrectable error (R61, R138, R288). -/
def partBad (s : State) (k : Nat) (a : AccPass) : Bool :=
  a.fault.isSome || (rangeMismatch a (sliceOf (imgOf s a.im) a.slice).mode).isSome || nanBlock a ||
    (bankBad s k a || (zeroRows s (imgOf s a.im) a).2)

/-- The pass with its result and the number of destinations that must acknowledge it. -/
def finished (s : State) (r : RouteE) (k : Nat) (a : AccPass) : AccPass :=
  { formed s r a with
    result := some ((partWords (imgOf s a.im) (formed s r a) (partBad s k a)).map (·.val)),
    acks := (r.dests.filter (destLive (sliceOf (imgOf s a.im) a.slice).mode)).length }

/-- Finishing a part reports, keeps the finished pass, delivers its words to each destination, and notes the pass as delivered. -/
theorem finishPart_eq (cl : Nat) (r : RouteE) (k : Nat) (a : AccPass) (s : State) : ∃ u, undelivered u = undelivered s ∧ u.mem = s.mem ∧
    finishPart cl r k a s = passPart (a.vec.getD 0) cl a.part (foldS r.dests
      (deliver (imgOf s a.im) r (sliceOf (imgOf s a.im) a.slice).mode (finished s r k a) ((finished s r k a).result.getD []))
      (setAcc k (some (finished s r k a)) u)) := by
  unfold finishPart
  extract_lets i x z f mis s1 ecc s2 bad res nsat ovf s3 s4 words g s5
  have hmis : mis = rangeMismatch a x.mode := rfl
  have hf : f = formed s r a := rfl
  clear_value mis
  have told : undelivered s1 = undelivered s ∧ s1.mem = s.mem := by
    cases mis with
    | none => exact ⟨rfl, rfl⟩
    | some p => exact ⟨undelivered_accErr _ _ _ _ _ _, (accErr_reports _ _ _ _ _ _).mem_eq⟩
  have hecc : ecc = (bankBad s k a || z.2) := by
    have : s1.poisonX = s.poisonX := (congrArg State.poisonX told.1 :)
    show (bankBad s1 k f || z.2) = _
    simp only [bankBad, badRow, this]
    rfl
  clear_value s1 ecc
  have told2 : undelivered s2 = undelivered s ∧ s2.mem = s.mem :=
    ⟨(whenS_eq undelivered rfl).trans told.1, (whenS_eq State.mem rfl).trans told.2⟩
  have hbad : bad = partBad s k a := by
    show (f.fault.isSome || mis.isSome || nanBlock f || ecc) = _
    rw [hecc, hmis]
    rfl
  clear_value s2 bad
  have told3 : undelivered s3 = undelivered s ∧ s3.mem = s.mem := by
    obtain ⟨kept, mem⟩ := undelivered_noted (decide (0 < nsat)) 2 nsat 4 cl s2
    exact ⟨kept.trans told2.1, mem.trans told2.2⟩
  clear_value s3
  have told4 : undelivered s4 = undelivered s ∧ s4.mem = s.mem := by
    obtain ⟨kept, mem⟩ := undelivered_noted (decide (0 < ovf)) 3 ovf 5 cl s3
    exact ⟨kept.trans told3.1, mem.trans told3.2⟩
  clear_value s4
  subst hbad
  exact ⟨s5, told4.1, told4.2, rfl⟩

theorem finishPart_spec (cl : Nat) (r : RouteE) (k : Nat) (a : AccPass) (s : State) :
    undelivered (finishPart cl r k a s) = undelivered (setAcc k (some (finished s r k a)) s) ∧
    ∀ b, (∀ d ∈ r.dests, d.kind = 1 → b < scratchBase d.cl + d.addr * 8 ∨ scratchBase d.cl + d.addr * 8 +
        (packElems (partFmt (sliceOf (imgOf s a.im) a.slice).mode) ((finished s r k a).result.getD [])).length ≤ b) →
      rdByte (finishPart cl r k a s) b = rdByte s b := by
  obtain ⟨u, hu, hmem, he⟩ := finishPart_eq cl r k a s
  rw [he]
  constructor
  · have kept : undelivered (setAcc k (some (finished s r k a)) u) = undelivered (setAcc k (some (finished s r k a)) s) :=
      congrArg (fun v : State => { v with acc := tins v.acc k (finished s r k a) }) hu
    exact (foldS_eq undelivered (fun _ _ => undelivered_deliver _ _ _ _ _ _ _) r.dests _).trans kept
  · intro b hb
    have folded : ∀ (ds : List DestW) (t : State), (∀ d ∈ ds, d ∈ r.dests) → rdByte (foldS ds
        (deliver (imgOf s a.im) r (sliceOf (imgOf s a.im) a.slice).mode (finished s r k a) ((finished s r k a).result.getD [])) t) b =
        rdByte t b := by
      intro ds
      induction ds with
      | nil => exact fun t _ => rfl
      | cons d ds ih =>
        intro t hds
        exact (ih _ fun d hd => hds d (List.mem_cons_of_mem _ hd)).trans (rdByte_deliver (hb d (hds d List.mem_cons_self)) t)
    exact (folded r.dests _ fun d hd => hd).trans (rdByte_congr hmem b)

/-! ### The obligation -/

theorem ends_firstScale {s : State} (hdbg : undebugged s = true) {cl part im vec pos scale b : Nat} {empty : Bool} {r : RouteE}
    (up : unitUp s 1 cl = true) (hp : part < 32) (route : routeOf (imgOf s im) cl part = some r) (hr : r.part = part)
    (own : accFind s cl part (fun a => a.im == im && a.vec == some vec && a.result.isNone) = none)
    (ahead : accFind s cl part (fun a => a.im == im && a.vec.isNone) = none)
    (bank : bankFor s cl im (sliceOf (imgOf s im) r.slice).group part (some vec) = some b)
    (other : inBank s cl (1 - b) = []) (claimed : ∀ e ∈ inBank s cl b, e.2.vec ≠ none)
    (late : tget [] s.accLate (cl * 32 + part) = []) (good : (ownPreload s (imgOf s im) r).2 = false) :
    Ends (.blockScaleArrival cl part im vec pos scale empty) s fun t =>
      t = { s with acc := t.acc, accNext := s.accNext + 1, dbg := { s.dbg with parked := t.dbg.parked }, regs := t.regs,
                   free := t.free } ∧
      (∀ q i, q ≠ .SPM_WAIT_CNT → i < 2 ^ 20 → rd t q i = rd s q i) ∧
      (preloadAt (imgOf s im) r = [] → t.regs = s.regs ∧ t.free = s.free) ∧
      tget {} t.acc (accKey cl b part) =
        { newPass s (imgOf s im) im (some vec) r with scales := [(pos, scale + 1 + 512 * b2n empty)] } ∧
      ∀ k, k ≠ accKey cl b part → tget {} t.acc k = tget {} s.acc k := by
  subst hr
  obtain ⟨u, hu⟩ : ∃ u, u = foldS (preloadAt (imgOf s im) r) spmTouch
    (setAcc (accKey cl b r.part) (some (newPass s (imgOf s im) im (some vec) r)) { s with accNext := s.accNext + 1 }) := ⟨_, rfl⟩
  have opened := openPart_clean (vec := vec) (bankFor_lt bank) hp other claimed late good
  rw [← hu] at opened
  have rest : u = { s with acc := u.acc, accNext := s.accNext + 1, regs := u.regs, free := u.free } := by
    have := eq_of_unwaited (hu ▸ foldS_spmTouch_unwaited _ _)
    exact this.trans (by rw [show u.acc = _ from congrArg State.acc this]; rfl)
  have acc : u.acc = tins s.acc (accKey cl b r.part) (newPass s (imgOf s im) im (some vec) r) := by
    rw [hu]
    exact (congrArg State.acc (foldS_spmTouch_unwaited _ _) :)
  have accOf : (freeRoom (· == ukey 1 cl) u).acc = u.acc := rfl
  refine ⟨_, exec_blockScaleArrival_first hdbg up route own ahead bank, ?_⟩
  rw [opened]
  refine ⟨?_, fun q i hq _ => ?_, fun none => ?_, ?_, fun k hk => ?_⟩
  · rw [putScale_eq, freeRoom, rest]
  · show rd u q i = rd s q i
    rw [hu, rd_foldS_spmTouch _ _ hq]
    rfl
  · show u.regs = s.regs ∧ u.free = s.free
    rw [hu, none]
    exact ⟨rfl, rfl⟩
  · rw [tget_putScale, if_pos rfl, accOf, acc, tget_tins_same]
    rfl
  · rw [tget_putScale, if_neg hk, accOf, acc, tget_tins_ne _ _ _ hk]

theorem ends_accPartComplete {s : State} (hdbg : undebugged s = true) {cl part k : Nat} {a : AccPass} {r : RouteE}
    (reset : inReset s 1 cl = false) (own : accFind s cl part (fun a => a.result.isNone) = some (k, a))
    (route : routeOf (imgOf s a.im) cl part = some r) (ready : partReady s r a = true) (sound : bankBad s k a = false) :
    Ends (.accPartComplete cl part) s fun t =>
      (a.fault = none → rangeMismatch a (sliceOf (imgOf s a.im) a.slice).mode = none → nanBlock a = false →
        (zeroRows s (imgOf s a.im) a).2 = false →
        (tget {} t.acc k).result = some ((partWords (imgOf s a.im) (formed s r a) false).map (·.val))) ∧
      (a.fault ≠ none → (tget {} t.acc k).result = some ((partWords (imgOf s a.im) (formed s r a) true).map (·.val))) ∧
      (tget {} t.acc k).acks = (r.dests.filter (destLive (sliceOf (imgOf s a.im) a.slice).mode)).length ∧
      (∀ j, j ≠ k → tget {} t.acc j = tget {} s.acc j) ∧
      (∀ b, (∀ d ∈ r.dests, d.kind = 1 → b < scratchBase d.cl + d.addr * 8 ∨
          scratchBase d.cl + d.addr * 8 + (packElems (partFmt (sliceOf (imgOf s a.im) a.slice).mode)
            ((tget {} t.acc k).result.getD [])).length ≤ b) → rdByte t b = rdByte s b) ∧
      t.tiles = s.tiles ∧ t.quant = s.quant ∧ t.glz = s.glz ∧ t.fuses = s.fuses := by
  obtain ⟨rest, mem⟩ := finishPart_spec cl r k a s
  have acc : (finishPart cl r k a s).acc = tins s.acc k (finished s r k a) := (congrArg State.acc rest :)
  refine ⟨_, exec_accPartComplete hdbg reset own route ready, ?_⟩
  beta_reduce
  rw [acc, tget_tins_same]
  refine ⟨fun h1 h2 h3 h4 => ?_, fun h => ?_, rfl, fun j hj => tget_tins_ne _ _ _ hj, mem, (congrArg State.tiles rest :),
    (congrArg State.quant rest :), (congrArg State.glz rest :), (congrArg State.fuses rest :)⟩
  · have : partBad s k a = false := by simp [partBad, h1, h2, h3, h4, sound]
    rw [finished, this]
  · have : partBad s k a = true := by simp [partBad, Option.isSome_iff_ne_none.mpr h]
    rw [finished, this]

theorem ends_destinationAck {s : State} {cl part k : Nat} {a : AccPass}
    (own : accFind s cl part (fun a => a.result.isSome) = some (k, a)) :
    Ends (.destinationAck cl part) s fun t =>
      t = { s with acc := t.acc, poisonX := t.poisonX, dbg := { s.dbg with parked := t.dbg.parked } } ∧
      (a.acks ≤ 1 → ∀ v, (k, v) ∉ t.acc) ∧
      (1 < a.acks → t = { s with acc := t.acc } ∧ tget {} t.acc k = { a with acks := a.acks - 1 }) ∧
      ∀ j, j ≠ k → tget {} t.acc j = tget {} s.acc j := by
  have ran : exec (.destinationAck cl part) s = .next (ackPart cl part s) := rfl
  refine ⟨_, ran, ?_⟩
  unfold ackPart
  simp only [own]
  by_cases h : a.acks ≤ 1
  · rw [if_pos h]
    refine ⟨rfl, fun _ v hv => ?_, fun h' => absurd h (by omega), fun j hj => tget_tdel_ne _ _ hj⟩
    exact absurd (List.mem_filter.mp hv).2 (by simp)
  · rw [if_neg h]
    exact ⟨rfl, fun h' => absurd h' h, fun _ => ⟨rfl, tget_tins_same _ _ _ _⟩, fun j hj => tget_tins_ne _ _ _ hj⟩

/-- Settles O2, event by event. -/
theorem accumulationUnitEvents : Obligations.AccumulationUnitEvents := by
  refine ⟨?_, ?_, ?_, ?_, ?_, ?_, ?_⟩
  · intro cl part im vec pos scale b empty r s hdbg up hp route hr own ahead bank other claimed late good
    exact ends_firstScale hdbg up hp route hr own ahead bank other claimed late good
  · intro cl part im vec pos scale k empty r a s hdbg up route own
    refine ⟨_, exec_blockScaleArrival_further hdbg up route own, rfl, ?_, fun j hj => ?_⟩
    · rw [tget_putScale, if_pos rfl, (accFind_eq_some own).1]
    · rw [tget_putScale, if_neg hj]
  · intro cl tile wave k codes run a s hdbg reset last running taken less kind waited own
    refine ⟨_, exec_accCodeArrival hdbg reset last running taken less kind waited own, rfl, tget_tins_same _ _ _ _,
      fun j hj => tget_tins_ne _ _ _ hj, ?_, fun u hu => ?_⟩
    · rw [tileOf_modTile, if_pos rfl]
      show takeWave (tileOf s tile) = _
      simp [takeWave, last, running, taken]
    · rw [tileOf_modTile, if_neg hu]
      rfl
  · intro cl part im off k vals r a s hdbg up route src home takes fits own fresh
    exact ⟨_, exec_preloadRun hdbg up route src home takes fits own fresh, rfl, tget_tins_same _ _ _ _,
      fun j hj => tget_tins_ne _ _ _ hj⟩
  · intro cl part im vec off k vals r a s hdbg hcl up route own
    refine ⟨_, exec_glazeContributionArrival hdbg up route own, rfl, tget_tins_same _ _ _ _, ?_, ?_, ?_,
      fun j hj => tget_tins_ne _ _ _ hj⟩
    · exact wrf_sameRegs _ _ _ _ _ s (by omega)
    · exact rf_wrf_field _ _ _ _ _ _ _ s (by omega) (by omega) (by omega)
    · exact rf_wrf_same _ _ _ _ _ s (by omega) (by omega)
  · intro cl part k a r s hdbg reset own route ready sound
    exact ends_accPartComplete hdbg reset own route ready sound
  · intro cl part k a s own
    exact ends_destinationAck own

end Sys2Proof.Machine

namespace Sys2Proof.Machine
open Sys2Proof

/-! ### Messages of a series of operations -/

/-- A message that one operation of a series sends, in whatever state the others leave, is among those sent. -/
theorem Stores.mem_foldS {β : Type} {f : β → State → State} {xs : List β} (h : ∀ x ∈ xs, ∀ s, Stores s (f x s)) {y : β} (hy : y ∈ xs)
    {s : State} {m : Msg} (hm : ∀ u, Stores s u → m ∈ (f y u).out) : m ∈ (Machine.foldS xs f s).out := by
  unfold Machine.foldS
  induction xs generalizing s with
  | nil => exact absurd hy List.not_mem_nil
  | cons x xs ih =>
    have first := h x List.mem_cons_self s
    have rest : ∀ z ∈ xs, ∀ u, Stores u (f z u) := fun z hz => h z (List.mem_cons_of_mem _ hz)
    rcases List.mem_cons.mp hy with rfl | hy
    · exact (Stores.foldS xs rest (f y s)).sent (hm s (.refl s))
    · exact ih rest hy fun u hu => hm u (first.trans hu)

theorem Reports.mem_foldS {β : Type} {f : β → State → State} {xs : List β} (h : ∀ x ∈ xs, ∀ s, Reports s (f x s)) {y : β} (hy : y ∈ xs)
    {s : State} {m : Msg} (hm : ∀ u, Reports s u → m ∈ (f y u).out) : m ∈ (Machine.foldS xs f s).out := by
  unfold Machine.foldS
  induction xs generalizing s with
  | nil => exact absurd hy List.not_mem_nil
  | cons x xs ih =>
    have first := h x List.mem_cons_self s
    have rest : ∀ z ∈ xs, ∀ u, Reports u (f z u) := fun z hz => h z (List.mem_cons_of_mem _ hz)
    rcases List.mem_cons.mp hy with rfl | hy
    · exact (Reports.foldS xs rest (f y s)).sent (hm s (.refl s))
    · exact ih rest hy fun u hu => hm u (first.trans hu)

theorem foldS_fixed {β : Type} {f : β → State → State} {xs : List β} {s : State} (h : ∀ x ∈ xs, f x s = s) : foldS xs f s = s := by
  unfold foldS
  induction xs with
  | nil => rfl
  | cons x xs ih =>
    rw [List.foldl_cons, h x List.mem_cons_self]
    exact ih fun y hy => h y (List.mem_cons_of_mem _ hy)

/-! ### Registers that reports leave -/

theorem rd_errSteps (im status : Nat) (s : State) (q : Reg) (i : Nat) : rd (errSteps im status s) q i = rd s q i := rfl

theorem rd_emitWay (src dst im : Nat) (m : Msg) (s : State) {q : Reg} (h1 : q ≠ .RST_STAT) (h2 : q ≠ .RST_XRESET_CNT)
    (h3 : q ≠ .SIL_LOG_LOST) (i : Nat) : rd (emitWay src dst im m s) q i = rd s q i := by
  unfold emitWay
  split
  · rw [rd_errSteps, xreset, rd_logE _ _ _ _ h3, bump, rd_wr_of_ne _ _ h2]
    exact rd_wr_of_ne _ _ h1
  · rfl

theorem rd_glzConv (bit n cl : Nat) (s : State) {q : Reg} (h1 : q ≠ .GLZ_CONV_STAT) (h2 : q ≠ .GLZ_CONV_CNT)
    (h3 : q ≠ .SIL_LOG_LOST) (i : Nat) : rd (glzConv bit n cl s) q i = rd s q i := by
  unfold glzConv
  split
  · rfl
  · refine (whenS_eq (fun t => rd t q i) (rd_logE _ _ _ _ h3)).trans ?_
    exact (rd_wr_of_ne _ _ h2).trans (rd_wr_of_ne _ _ h1)

/-! ### Quantisation of a row block (R58, R118, R140, R143) -/

theorem trainPut_stores (i : Image) (a : AdpE) (tag : Option (Nat × Nat)) (off : Nat) (xs : List Byte) (s : State) :
    Stores s (trainPut i a tag off xs s) := by
  unfold trainPut
  split
  · exact wrBytes_stores _ _ _
  · exact .refl s

theorem sendBlock_reports (cl im vec rb : Nat) (q : QBlock) (chans : List (Nat × Nat)) (x : SliceE) (s : State) :
    Reports s (sendBlock cl im vec rb q chans x s) := by
  refine (Reports.foldS _ (fun r _ u => ?_) s).trans (.foldS _ (fun _ _ _ => emitWay_reports _ _ _ _ _) _)
  split
  · exact (emitWay_reports _ _ _ _ _).trans (emitWay_reports _ _ _ _ _)
  · exact .refl u

theorem sendU_stores (im vec rb : Nat) (sel xs : List Nat) (x : SliceE) (s : State) : Stores s (sendU im vec rb sel xs x s) := by
  unfold sendU
  dsimp only
  split
  · split
    · exact .refl s
    · split
      · exact (trainPut_stores _ _ _ _ _ _).trans (trainPut_stores _ _ _ _ _ _)
      · refine ((trainPut_stores _ _ _ _ _ _).trans (trainPut_stores _ _ _ _ _ _)).trans (.foldS _ (fun p _ u => ?_) _)
        split
        · exact (glzRefuse_reports _ _ _ _ _ _).stores
        · split
          · exact (glzFault_reports _ _ _ _ _ _ _).stores
          · exact ((countMacs_reports _ _ _).trans (emitWay_reports _ _ _ _ _)).stores
  · exact .refl s

theorem sendQ_stores (im vec rb : Nat) (gs : List Nat) (x : SliceE) (s : State) : Stores s (sendQ im vec rb gs x s) := by
  unfold sendQ
  dsimp only
  split
  · split
    · exact .refl s
    · refine .foldS _ (fun b _ u => ?_) _
      split
      · exact (glzRefuse_reports _ _ _ _ _ _).stores
      · split
        · exact (glzFault_reports _ _ _ _ _ _ _).stores
        · refine .trans ?_ ((countMacs_reports _ _ _).trans (emitWay_reports _ _ _ _ _)).stores
          split
          · exact (Stores.foldS _ (fun _ _ _ => .foldS _ (fun _ _ _ => wrBytes_stores _ _ _) _) _).trans
              (countMacs_reports _ _ _).stores
          · exact .refl u
  · exact .refl s

/-- Of a group without adapters nothing goes to the reducing units. -/
theorem sendU_of_none {im : Nat} {x : SliceE} {s : State} (h : adapterOf (imgOf s im) x = none) (vec rb : Nat) (sel xs : List Nat) :
    sendU im vec rb sel xs x s = s := by
  simp [sendU, h]

theorem sendQ_of_none {im : Nat} {x : SliceE} {s : State} (h : adapterOf (imgOf s im) x = none) (vec rb : Nat) (gs : List Nat) :
    sendQ im vec rb gs x s = s := by
  simp [sendQ, adIn, h]

/-- What a slice of the group sends for a row block that a part of it holds: the drive codes to the tile and the scale to the unit. -/
theorem mem_sendBlock {cl im vec rb : Nat} {q : QBlock} {chans : List (Nat × Nat)} {x : SliceE} {s : State} {r : RouteE} {p : Nat}
    {e : Nat × PlaceE} (hr : r ∈ (imgOf s im).routes) (hx : r.slice = x.id)
    (hp : ((partTiles (imgOf s im) r).mapIdx fun p e => (p, e)).find? (fun e => e.2.1 == rb) = some (p, e)) :
    (wayClosed s (cl / 48) (.scratch (clOfTile e.2.tile)) = false →
      Msg.fabric 0 e.2.tile tagDrive ([x.kind, e.2.layer, im, r.part, vec, p] ++ q.codes) ∈ (sendBlock cl im vec rb q chans x s).out) ∧
    (wayClosed s (cl / 48) (.scratch r.cl) = false →
      Msg.fabric 1 r.cl tagScale [r.part, im, vec, p, q.scale, b2n q.empty] ∈ (sendBlock cl im vec rb q chans x s).out) := by
  have mine : r ∈ (imgOf s im).routes.filter fun r => r.slice == x.id := List.mem_filter.mpr ⟨hr, by simpa using hx⟩
  have each (r : RouteE) (u : State) : Reports u (match ((partTiles (imgOf s im) r).mapIdx fun p e => (p, e)).find? fun e => e.2.1 == rb with
      | some (p, e) =>
        emitWay cl (clOfTile e.2.tile) im (.fabric 0 e.2.tile tagDrive ([x.kind, e.2.layer, im, r.part, vec, p] ++ q.codes))
          (emitWay cl r.cl im (.fabric 1 r.cl tagScale [r.part, im, vec, p, q.scale, b2n q.empty]) u)
      | none => u) := by
    split
    · exact (emitWay_reports _ _ _ _ _).trans (emitWay_reports _ _ _ _ _)
    · exact .refl u
  have later := (Reports.foldS (((((imgOf s im).routes.filter fun r => r.slice == x.id).filter (·.glaze)).map (·.glzCl)).dedup)
    (fun g _ u => emitWay_reports cl g im (.fabric 2 g tagSelect ([im, x.id, vec, rb] ++ chans.flatMap fun c => [c.1, c.2])) u))
  constructor
  · intro hopen
    refine (later _).sent (Reports.mem_foldS (fun r _ u => each r u) mine fun u hu => ?_)
    simp only [hp]
    exact mem_emitWay (((hu.trans (emitWay_reports _ _ _ _ _)).stores.wayClosed_eq _ _).trans hopen)
  · intro hopen
    refine (later _).sent (Reports.mem_foldS (fun r _ u => each r u) mine fun u hu => ?_)
    simp only [hp]
    exact (emitWay_reports _ _ _ _ _).sent (mem_emitWay ((hu.stores.wayClosed_eq _ _).trans hopen))

theorem openCtl_eq (im pg vec : Nat) (tag : Option (Nat × Nat)) (s : State) :
    openCtl im pg vec tag s = { s with passes := (openCtl im pg vec tag s).passes } := by
  unfold openCtl
  split <;> rfl

/-- The events of a row block: the channels selected are counted, and a block of NaN or one that was flushed is noted. -/
def countBlock (cl ke : Nat) (q : QBlock) (s : State) : State :=
  glzConv 1 (b2n q.flush) cl (glzConv 0 (b2n q.nan) cl (bump .GLZ_SL_SEL_CNT ke cl s))

theorem countBlock_reports (cl ke : Nat) (q : QBlock) (s : State) : Reports s (countBlock cl ke q s) :=
  (bump_reports _ _ _ _).trans ((glzConv_reports _ _ _ _).trans (glzConv_reports _ _ _ _))

theorem rd_countBlock (cl ke : Nat) (q : QBlock) (s : State) :
    (rd (countBlock cl ke q s) .GLZ_SL_SEL_CNT cl).toNat = ((rd s .GLZ_SL_SEL_CNT cl).toNat + ke) % 2 ^ 32 := by
  rw [countBlock, rd_glzConv _ _ _ _ (by decide) (by decide) (by decide), rd_glzConv _ _ _ _ (by decide) (by decide) (by decide), bump,
    rd_wr_same, BitVec.toNat_ofNat]

section
variable (im pg rb : Nat) (v : QVec) (s : State)

/-- The first slice of the group, the words of the row block, its outlier record, the number of channels chosen among the candidates,
and the quantised block. -/
def headSlice : SliceE := (groupSlices (imgOf s im) pg).headD {}
def blockWords : List Nat := rbWords v rb (blockRows (headSlice im pg s) rb)
def blockOut : OutE := outlierOf (imgOf s im) (headSlice im pg s).id rb
def blockKe (cl : Nat) (c : PassCtl) : Nat :=
  if (blockOut im pg rb s).mode = 2 ∨ (blockOut im pg rb s).mode = 3 then kEff c cl (blockOut im pg rb s) else 0
def blockSel (ke : Nat) : List Nat := selected (blockOut im pg rb s) ke (blockWords im pg rb v s)
def blockQ (ke : Nat) : QBlock :=
  quantise (headSlice im pg s).dFmt (headSlice im pg s).ocp (blockSel im pg rb v s ke) (blockWords im pg rb v s)

/-- A row block is counted, noted, sent to the tiles and units of every slice, and to the adapters. -/
theorem quantiseBlock_eq (cl : Nat) : quantiseBlock cl im pg rb v s =
    (let ke := blockKe im pg rb s cl (ctlOf s v.vec)
     let xs := groupSlices (imgOf s im) pg
     let words := blockWords im pg rb v s
     foldS xs (sendQ im v.vec rb words) (foldS xs (sendU im v.vec rb (blockSel im pg rb v s ke) words)
      (foldS xs (sendBlock cl im v.vec rb (blockQ im pg rb v s ke) ((blockSel im pg rb v s ke).map fun c => (c, toBf16 (words.getD c 0))))
        (noteBlock v.vec rb (sendsGlaze (blockOut im pg rb s) ke) (if (headSlice im pg s).kind = 1 then words else [])
          (countBlock cl ke (blockQ im pg rb v s ke) s))))) := rfl

end

theorem tget_noteBlock_sends (vec rb : Nat) (glz : Bool) (words : List Nat) (s : State) :
    tget 0 (ctlOf (noteBlock vec rb glz words s) vec).sends rb = 1 + b2n glz := by
  rw [ctlOf, noteBlock]
  simp only [tget_tmod_same, tget_tins_same]

/-! The note of a block stands in the control of its pass alone. -/

section
variable (vec rb : Nat) (glz : Bool) (words : List Nat) (s : State)

theorem noteBlock_quant : (noteBlock vec rb glz words s).quant = s.quant := rfl
theorem noteBlock_tiles : (noteBlock vec rb glz words s).tiles = s.tiles := rfl
theorem noteBlock_fuses : (noteBlock vec rb glz words s).fuses = s.fuses := rfl
theorem noteBlock_mem : (noteBlock vec rb glz words s).mem = s.mem := rfl
theorem imgOf_noteBlock (im : Nat) : imgOf (noteBlock vec rb glz words s) im = imgOf s im := rfl
theorem wayClosed_noteBlock (d : Nat) (p : Place) : wayClosed (noteBlock vec rb glz words s) d p = wayClosed s d p := rfl
theorem rd_noteBlock (q : Reg) (i : Nat) : rd (noteBlock vec rb glz words s) q i = rd s q i := rfl

end

/-! ### The events of a quantiser -/

theorem modVec_append {p : QVec → Bool} {f : QVec → QVec} {l r : List QVec} {v : QVec} (hl : ∀ w ∈ l, p w = false) (hv : p v = true) :
    modVec p f (l ++ v :: r) = some (l ++ f v :: r) := by
  induction l with
  | nil => simp [modVec, hv]
  | cons w l ih =>
    rw [List.cons_append, modVec, hl w List.mem_cons_self, if_neg Bool.false_ne_true, ih fun x hx => hl x (List.mem_cons_of_mem _ hx)]
    rfl

/-- A held vector with a run of elements written into it. -/
def withRun (cl rb off : Nat) (vals : List Nat) (v : QVec) : QVec :=
  { v with elems := putElems (rb * 1024) off vals v.elems, cls := tins v.cls rb cl }

section
variable {s : State} (hdbg : undebugged s = true)
include hdbg

/-- A run goes to the oldest vector whose row block is not complete, `next` of them having been held before. -/
theorem exec_quantiserRun {cl im pg rb off next : Nat} {vals : List Nat} {l r : List QVec} {v : QVec} (up : unitUp s 2 cl = true)
    (held : (tget [] s.quant (qKey im pg) = l ++ v :: r ∧ next = s.vecNext) ∨
      (tget [] s.quant (qKey im pg) = l ∧ l.length < 2 ∧ v = { vec := s.vecNext } ∧ r = [] ∧ next = s.vecNext + 1))
    (full : ∀ w ∈ l, rbFull w rb (blockRows (headSlice im pg s) rb) = true) (part : rbFull v rb (blockRows (headSlice im pg s) rb) = false)
    (fits : off + vals.length ≤ blockRows (headSlice im pg s) rb)
    (fresh : ∀ e, e < vals.length → tget 0 v.elems (rb * 1024 + off + e) = 0) :
    exec (.quantiserRun cl im pg rb off vals) s =
      .next { s with quant := tset [] s.quant (qKey im pg) (l ++ withRun cl rb off vals v :: r), vecNext := next } := by
  have rows : ¬(blockRows (headSlice im pg s) rb = 0 ∨ blockRows (headSlice im pg s) rb < off + vals.length) := by
    rintro (h | h)
    · rw [h] at part
      simp [rbFull] at part
    · omega
  have oldest : (l ++ v :: r).find? (fun v => !rbFull v rb (blockRows (headSlice im pg s) rb)) = some v :=
    List.find?_eq_some_iff_append.mpr ⟨by simp [part], l, r, rfl, fun w hw => by simp [full w hw]⟩
  have put : modVec (fun v => !rbFull v rb (blockRows (headSlice im pg s) rb))
      (fun v => { v with elems := putElems (rb * 1024) off vals v.elems, cls := tins v.cls rb cl }) (l ++ v :: r) =
      some (l ++ withRun cl rb off vals v :: r) := modVec_append (fun w hw => by simp [full w hw]) (by simp [part])
  have second : (List.range vals.length).any (fun e => tget 0 v.elems (rb * 1024 + off + e) != 0) = false := by
    rw [List.any_eq_false]
    intro e he
    simp [fresh e (List.mem_range.mp he)]
  have ready : (if (tget [] s.quant (qKey im pg)).all (fun v => rbFull v rb (blockRows (headSlice im pg s) rb)) &&
      decide ((tget [] s.quant (qKey im pg)).length < 2) then
      (tget [] s.quant (qKey im pg) ++ [({ vec := s.vecNext } : QVec)], { s with vecNext := s.vecNext + 1 })
      else (tget [] s.quant (qKey im pg), s)) = (l ++ v :: r, { s with vecNext := next }) := by
    rcases held with ⟨h, rfl⟩ | ⟨h, two, rfl, rfl, rfl⟩
    · rw [if_neg (by simp [h, part]), h]
    · rw [if_pos (by simpa [h, two] using full), h]
  show execQuantiserRun cl im pg rb off vals s = _
  simp only [execQuantiserRun, done, withhold_undebugged hdbg, up, Bool.not_true, Bool.false_eq_true, if_false, ← headSlice.eq_1, rows, ready,
    oldest, second, put]

theorem exec_rowBlockQuantise {cl im pg rb : Nat} {tag : Option (Nat × Nat)} {v : QVec} (reset : inReset s 2 cl = false)
    (held : tget [] s.quant (qKey im pg) = [v]) (new : rb ∉ v.done) (full : rbFull v rb (blockRows (headSlice im pg s) rb) = true)
    {t : State} (ht : t = quantiseBlock cl im pg rb v (openCtl im pg v.vec tag s)) (quant : t.quant = s.quant) :
    exec (.rowBlockQuantise cl im pg rb tag) s = .next (freeRoom isQuant { t with
      quant := tset [] s.quant (qKey im pg)
        (if (headSlice im pg s).rows ≤ v.done.length + 1 then [] else [{ v with done := rb :: v.done }]) }) := by
  have first : ([v].find? fun v => !v.done.contains rb) = some v := by simp [new]
  have noted : modVec (fun v => !v.done.contains rb) (fun v => { v with done := rb :: v.done }) [v] =
      some [{ v with done := rb :: v.done }] := modVec_append (l := []) (r := []) (by simp) (by simp [new])
  show execRowBlockQuantise cl im pg rb tag s = _
  simp only [execRowBlockQuantise, done, halted_undebugged hdbg, reset, Bool.or_self, Bool.false_eq_true, if_false, held, first,
    ← headSlice.eq_1, full, Bool.not_true, ← ht, quant, noted]
  by_cases h : (headSlice im pg s).rows ≤ v.done.length + 1 <;> simp [h]

end

/-- What the quantisation of a row block comes to: reports and stores, around the note of the block. -/
theorem quantiseBlock_spec (cl im pg rb : Nat) (v : QVec) (s : State) {ke : Nat} (hke : ke = blockKe im pg rb s cl (ctlOf s v.vec)) :
    Stores (noteBlock v.vec rb (sendsGlaze (blockOut im pg rb s) ke) (if (headSlice im pg s).kind = 1 then blockWords im pg rb v s else [])
      (countBlock cl ke (blockQ im pg rb v s ke) s)) (quantiseBlock cl im pg rb v s) := by
  rw [quantiseBlock_eq, ← hke]
  exact (Stores.foldS _ (fun _ _ _ => (sendBlock_reports _ _ _ _ _ _ _ _).stores) _).trans
    ((Stores.foldS _ (fun _ _ _ => sendU_stores _ _ _ _ _ _ _) _).trans (.foldS _ (fun _ _ _ => sendQ_stores _ _ _ _ _ _) _))

/-- The messages that a row block sends to a tile and a unit of one of the slices. -/
theorem mem_quantiseBlock {cl im pg rb : Nat} {v : QVec} {s : State} {ke : Nat} (hke : ke = blockKe im pg rb s cl (ctlOf s v.vec))
    {y : SliceE} (hy : y ∈ groupSlices (imgOf s im) pg) {r : RouteE} (hr : r ∈ (imgOf s im).routes) (hx : r.slice = y.id) {p : Nat}
    {e : Nat × PlaceE} (hp : ((partTiles (imgOf s im) r).mapIdx fun p e => (p, e)).find? (fun e => e.2.1 == rb) = some (p, e)) :
    (wayClosed s (cl / 48) (.scratch (clOfTile e.2.tile)) = false → Msg.fabric 0 e.2.tile tagDrive
        ([y.kind, e.2.layer, im, r.part, v.vec, p] ++ (blockQ im pg rb v s ke).codes) ∈ (quantiseBlock cl im pg rb v s).out) ∧
    (wayClosed s (cl / 48) (.scratch r.cl) = false → Msg.fabric 1 r.cl tagScale
        [r.part, im, v.vec, p, (blockQ im pg rb v s ke).scale, b2n (blockQ im pg rb v s ke).empty] ∈ (quantiseBlock cl im pg rb v s).out) := by
  have before : ∀ u, Stores (noteBlock v.vec rb (sendsGlaze (blockOut im pg rb s) ke)
      (if (headSlice im pg s).kind = 1 then blockWords im pg rb v s else []) (countBlock cl ke (blockQ im pg rb v s ke) s)) u →
      imgOf u im = imgOf s im ∧ ∀ d pl, wayClosed u d pl = wayClosed s d pl := fun u hu =>
    ⟨by rw [hu.imgOf_eq, imgOf_noteBlock, (countBlock_reports _ _ _ _).stores.imgOf_eq], fun d pl => by
      rw [hu.wayClosed_eq, wayClosed_noteBlock, (countBlock_reports _ _ _ _).stores.wayClosed_eq]⟩
  have later := fun t => (Stores.foldS (groupSlices (imgOf s im) pg) (fun x _ u => sendU_stores im v.vec rb (blockSel im pg rb v s ke)
    (blockWords im pg rb v s) x u) t).trans
    (.foldS (groupSlices (imgOf s im) pg) (fun x _ u => sendQ_stores im v.vec rb (blockWords im pg rb v s) x u) _)
  rw [quantiseBlock_eq, ← hke]
  constructor
  · intro hopen
    refine (later _).sent (Stores.mem_foldS (fun x _ u => (sendBlock_reports _ _ _ _ _ _ x u).stores) hy fun u hu => ?_)
    obtain ⟨img, way⟩ := before u hu
    rw [← img] at hr hp
    exact (mem_sendBlock hr hx hp).1 (by rw [way, hopen])
  · intro hopen
    refine (later _).sent (Stores.mem_foldS (fun x _ u => (sendBlock_reports _ _ _ _ _ _ x u).stores) hy fun u hu => ?_)
    obtain ⟨img, way⟩ := before u hu
    rw [← img] at hr hp
    exact (mem_sendBlock hr hx hp).2 (by rw [way, hopen])

/-- Without adapters in the group, memory stays and the selected channels are counted. -/
theorem quantiseBlock_without_adapters {cl im pg rb : Nat} {v : QVec} {s : State} {ke : Nat}
    (hke : ke = blockKe im pg rb s cl (ctlOf s v.vec)) (plain : ∀ y ∈ groupSlices (imgOf s im) pg, adapterOf (imgOf s im) y = none) :
    (quantiseBlock cl im pg rb v s).mem = s.mem ∧
      (rd (quantiseBlock cl im pg rb v s) .GLZ_SL_SEL_CNT cl).toNat = ((rd s .GLZ_SL_SEL_CNT cl).toNat + ke) % 2 ^ 32 := by
  rw [quantiseBlock_eq, ← hke]
  dsimp only
  have counted := countBlock_reports cl ke (blockQ im pg rb v s ke) s
  obtain ⟨c, hc⟩ : ∃ c, c = noteBlock v.vec rb (sendsGlaze (blockOut im pg rb s) ke)
    (if (headSlice im pg s).kind = 1 then blockWords im pg rb v s else []) (countBlock cl ke (blockQ im pg rb v s ke) s) := ⟨_, rfl⟩
  have mem : c.mem = s.mem := by rw [hc, noteBlock_mem, counted.mem_eq]
  have img : imgOf c im = imgOf s im := by rw [hc, imgOf_noteBlock, counted.stores.imgOf_eq]
  have count : rd c .GLZ_SL_SEL_CNT cl = rd (countBlock cl ke (blockQ im pg rb v s ke) s) .GLZ_SL_SEL_CNT cl := by
    rw [hc, rd_noteBlock]
  rw [← hc]
  obtain ⟨u, hu⟩ : ∃ u, u = foldS (groupSlices (imgOf s im) pg) (sendBlock cl im v.vec rb (blockQ im pg rb v s ke)
    ((blockSel im pg rb v s ke).map fun c => (c, toBf16 ((blockWords im pg rb v s).getD c 0)))) c := ⟨_, rfl⟩
  have sent : Reports c u := hu ▸ .foldS _ (fun _ _ _ => sendBlock_reports _ _ _ _ _ _ _ _) _
  have bare : ∀ y ∈ groupSlices (imgOf s im) pg, adapterOf (imgOf u im) y = none := fun y hy => by
    rw [sent.stores.imgOf_eq, img, plain y hy]
  rw [← hu, foldS_fixed fun y hy => sendU_of_none (bare y hy) _ _ _ _, foldS_fixed fun y hy => sendQ_of_none (bare y hy) _ _ _]
  refine ⟨sent.mem_eq.trans mem, ?_⟩
  have kept : rd u .GLZ_SL_SEL_CNT cl = rd c .GLZ_SL_SEL_CNT cl := by
    rw [hu]
    refine foldS_eq (fun t => rd t .GLZ_SL_SEL_CNT cl) (fun x t => ?_) _ _
    refine (foldS_eq (fun t => rd t .GLZ_SL_SEL_CNT cl) (fun g t => rd_emitWay _ _ _ _ _ (by decide) (by decide) (by decide) _) _ _).trans ?_
    refine foldS_eq (fun t => rd t .GLZ_SL_SEL_CNT cl) (fun r t => ?_) _ _
    split
    · exact (rd_emitWay _ _ _ _ _ (by decide) (by decide) (by decide) _).trans
        (rd_emitWay _ _ _ _ _ (by decide) (by decide) (by decide) _)
    · rfl
  rw [kept, count, rd_countBlock]

/-! ### The obligation -/

theorem ends_rowBlockQuantise {s : State} (hdbg : undebugged s = true) {cl im pg rb ke : Nat} {tag : Option (Nat × Nat)} {v : QVec}
    (reset : inReset s 2 cl = false) (hke : ke = blockKe im pg rb s cl (ctlOf (openCtl im pg v.vec tag s) v.vec))
    (held : tget [] s.quant (qKey im pg) = [v]) (new : rb ∉ v.done) (full : rbFull v rb (blockRows (headSlice im pg s) rb) = true) :
    Ends (.rowBlockQuantise cl im pg rb tag) s fun t =>
      tget [] t.quant (qKey im pg) = (if (headSlice im pg s).rows ≤ v.done.length + 1 then [] else [{ v with done := rb :: v.done }]) ∧
      (∀ k, k ≠ qKey im pg → tget [] t.quant k = tget [] s.quant k) ∧
      tget 0 (ctlOf t v.vec).sends rb = 1 + b2n (sendsGlaze (blockOut im pg rb s) ke) ∧
      (∀ y ∈ groupSlices (imgOf s im) pg, ∀ r ∈ (imgOf s im).routes, r.slice = y.id → ∀ p e,
        ((partTiles (imgOf s im) r).mapIdx fun p e => (p, e)).find? (fun e => e.2.1 == rb) = some (p, e) →
        (wayClosed s (cl / 48) (.scratch (clOfTile e.2.tile)) = false →
          Msg.fabric 0 e.2.tile tagDrive ([y.kind, e.2.layer, im, r.part, v.vec, p] ++ (blockQ im pg rb v s ke).codes) ∈ t.out) ∧
        (wayClosed s (cl / 48) (.scratch r.cl) = false →
          Msg.fabric 1 r.cl tagScale
            [r.part, im, v.vec, p, (blockQ im pg rb v s ke).scale, b2n (blockQ im pg rb v s ke).empty] ∈ t.out)) ∧
      ((∀ y ∈ groupSlices (imgOf s im) pg, adapterOf (imgOf s im) y = none) → SameMem s t ∧
        (rd t .GLZ_SL_SEL_CNT cl).toNat = ((rd s .GLZ_SL_SEL_CNT cl).toNat + ke) % 2 ^ 32) ∧
      t.tiles = s.tiles ∧ t.fuses = s.fuses := by
  have opened := openCtl_eq im pg v.vec tag s
  obtain ⟨o, ho⟩ : ∃ o, o = openCtl im pg v.vec tag s := ⟨_, rfl⟩
  rw [← ho] at opened hke
  have img : imgOf o im = imgOf s im := by rw [opened]; rfl
  have slice : headSlice im pg o = headSlice im pg s := by rw [headSlice, img, headSlice]
  have out : blockOut im pg rb o = blockOut im pg rb s := by rw [blockOut, img, slice, blockOut]
  have words : blockWords im pg rb v o = blockWords im pg rb v s := by rw [blockWords, slice, blockWords]
  have block : blockQ im pg rb v o ke = blockQ im pg rb v s ke := by rw [blockQ, blockSel, slice, out, words, blockQ, blockSel]
  have hke' : ke = blockKe im pg rb o cl (ctlOf o v.vec) := by rw [hke, blockKe, blockKe, out]
  have spec := quantiseBlock_spec cl im pg rb v o hke'
  obtain ⟨t, ht⟩ : ∃ t, t = quantiseBlock cl im pg rb v o := ⟨_, rfl⟩
  rw [← ht] at spec
  have counted := (countBlock_reports cl ke (blockQ im pg rb v o ke) o).stores
  have quant : t.quant = s.quant := by rw [spec.quant_eq, noteBlock_quant, counted.quant_eq, opened]
  have tiles : t.tiles = s.tiles := by rw [spec.tiles_eq, noteBlock_tiles, counted.tiles_eq, opened]
  have fuses : t.fuses = s.fuses := by rw [spec.fuses_eq, noteBlock_fuses, counted.fuses_eq, opened]
  have noted : tget 0 (ctlOf t v.vec).sends rb = 1 + b2n (sendsGlaze (blockOut im pg rb s) ke) := by
    rw [spec.ctlOf_eq, tget_noteBlock_sends, out]
  have closed (d : Nat) (pl : Place) : wayClosed o d pl = wayClosed s d pl := by rw [opened]; rfl
  refine ⟨_, exec_rowBlockQuantise hdbg reset held new full (ho ▸ ht) quant, ?_, fun k hk => ?_, ?_, fun y hy r hr hx p e hp => ?_,
    fun plain => ?_, tiles, fuses⟩
  · exact (tget_tset _ _ _ _ _).trans (if_pos rfl)
  · exact (tget_tset _ _ _ _ _).trans (if_neg hk)
  · exact noted
  · have sent := mem_quantiseBlock hke' (img ▸ hy) (img ▸ hr) hx (img ▸ hp)
    rw [closed, closed, block, ← ht] at sent
    exact sent
  · obtain ⟨mem, count⟩ := quantiseBlock_without_adapters hke' (img ▸ plain)
    rw [← ht] at mem count
    have mem' : o.mem = s.mem := by rw [opened]
    have regs : rd o .GLZ_SL_SEL_CNT cl = rd s .GLZ_SL_SEL_CNT cl := by rw [opened]; rfl
    rw [regs] at count
    exact ⟨rdByte_congr (mem.trans mem'), count⟩

/-- Settles O4: a run goes to the oldest vector that lacks it, and a row block is reported and stored around its note. -/
theorem quantiserEvents : Obligations.QuantiserEvents := by
  constructor
  · intro cl im pg rb off vals l r v s hdbg up n held full part fits fresh
    obtain ⟨next, hnext, vecs⟩ : ∃ next, ((tget [] s.quant (qKey im pg) = l ++ v :: r ∧ next = s.vecNext) ∨
        (tget [] s.quant (qKey im pg) = l ∧ l.length < 2 ∧ v = { vec := s.vecNext } ∧ r = [] ∧ next = s.vecNext + 1)) ∧
        next = (if tget [] s.quant (qKey im pg) = l ++ v :: r then s.vecNext else s.vecNext + 1) := by
      rcases held with h | ⟨h, two, hv, hr⟩
      · exact ⟨_, .inl ⟨h, rfl⟩, (if_pos h).symm⟩
      · refine ⟨_, .inr ⟨h, two, hv, hr, rfl⟩, (if_neg fun h' => ?_).symm⟩
        have := congrArg List.length (h.symm.trans h')
        simp at this
    exact ⟨_, exec_quantiserRun hdbg up hnext full part fits fresh, rfl, vecs, (tget_tset _ _ _ _ _).trans (if_pos rfl),
      fun k hk => (tget_tset _ _ _ _ _).trans (if_neg hk)⟩
  · intro cl im pg rb tag v s hdbg _ reset i x o words ke q held new full
    exact ends_rowBlockQuantise hdbg reset rfl held new full

end Sys2Proof.Machine

namespace Sys2Proof.Machine
open Sys2Proof

/-! ### Accesses while no debug halt is set (R515) -/

section
variable {s : State} (hdbg : undebugged s = true) {kind : Nat} (hk : kind ≠ 0)
include hdbg hk

theorem accessBp_undebugged (bay a n : Nat) : accessBp kind bay a n s = (false, s) := by
  unfold accessBp
  induction (List.range ((a % 8 + n + 7) / 8)).map fun k => a / 8 * 8 + 8 * k with
  | nil => rfl
  | cons w ws ih =>
    rw [List.foldl_cons, if_neg Bool.false_ne_true, breakpoint_undebugged hdbg hk]
    exact ih

theorem accessesBp_undebugged (bay : Nat) (rs : List (Nat × Nat)) : accessesBp kind bay rs s = (false, s) := by
  unfold accessesBp
  induction rs with
  | nil => rfl
  | cons r rs ih =>
    rw [List.foldl_cons, if_neg Bool.false_ne_true, accessBp_undebugged hdbg hk]
    exact ih

end

/-! ### Series of operations -/

theorem foldS_keeps {α β σ : Type} {f : β → σ → σ} {xs : List β} (g : σ → α) (h : ∀ x ∈ xs, ∀ s, g (f x s) = g s) (s : σ) :
    g (foldS xs f s) = g s := by
  unfold foldS
  induction xs generalizing s with
  | nil => rfl
  | cons x xs ih => exact (ih (fun y hy => h y (List.mem_cons_of_mem _ hy)) _).trans (h x List.mem_cons_self s)

/-- Messages that all find their way open leave, and nothing else happens. -/
theorem foldS_emitWay_open {β : Type} {xs : List β} {src im : Nat} {dst : β → Nat} {m : β → Msg} {s : State}
    (h : ∀ x ∈ xs, wayClosed s (src / 48) (.scratch (dst x)) = false) :
    foldS xs (fun x => emitWay src (dst x) im (m x)) s =
      { s with out := (foldS xs (fun x => emitWay src (dst x) im (m x)) s).out } := by
  unfold foldS
  induction xs generalizing s with
  | nil => rfl
  | cons x xs ih =>
    rw [List.foldl_cons]
    beta_reduce at ih ⊢
    rw [emitWay_open (h x List.mem_cons_self)]
    exact ih (s := emit (m x) s) fun y hy => h y (List.mem_cons_of_mem _ hy)

/-- Entries put one after another under distinct keys are all there. -/
theorem tget_foldS_tins_mem {α : Type} (d : α) {xs : List (Nat × α)} (distinct : (xs.map (·.1)).Nodup) (m : Tab α) {e : Nat × α}
    (he : e ∈ xs) : tget d (foldS xs (fun e m => tins m e.1 e.2) m) e.1 = e.2 := by
  induction xs generalizing m with
  | nil => exact absurd he List.not_mem_nil
  | cons x xs ih =>
    obtain ⟨new, distinct⟩ := List.nodup_cons.mp distinct
    rcases List.mem_cons.mp he with rfl | he
    · have later : ∀ y ∈ xs, y.1 ≠ e.1 := fun y hy h => new (List.mem_map.mpr ⟨y, hy, h⟩)
      exact (tget_foldS_tins_ne d xs (fun e => e.1) (fun e => e.2) _ later).trans (tget_tins_same _ _ _ _)
    · exact ih distinct _ he

/-! ### What the contributions of a job depend on (R126, R140, R143, R144) -/

section
variable (s : State)

theorem rowPoisoned_unreported (i : Image) (slice rb ch : Nat) :
    rowPoisoned (unreported s) i slice rb ch = rowPoisoned s i slice rb ch := rfl
theorem outRows_unreported (i : Image) (x : SliceE) (vec : Nat) (cols : List Nat) :
    outRows (unreported s) i x vec cols = outRows s i x vec cols := rfl
theorem glazeValue_unreported (i : Image) (x : SliceE) (j : GlzJob) (col : Nat) :
    glazeValue (unreported s) i x j col = glazeValue s i x j col := rfl

end

section
variable {s t : State} (h : Reports s t)
include h

theorem Reports.rowPoisoned_eq (i : Image) (slice rb ch : Nat) : rowPoisoned t i slice rb ch = rowPoisoned s i slice rb ch := by
  rw [← rowPoisoned_unreported t, h.rest, rowPoisoned_unreported]

theorem Reports.outRows_eq (i : Image) (x : SliceE) (vec : Nat) (cols : List Nat) : outRows t i x vec cols = outRows s i x vec cols := by
  rw [← outRows_unreported t, h.rest, outRows_unreported]

theorem Reports.glazeValue_eq (i : Image) (x : SliceE) (j : GlzJob) (col : Nat) : glazeValue t i x j col = glazeValue s i x j col := by
  rw [← glazeValue_unreported t, h.rest, glazeValue_unreported]

end

/-! ### The jobs of a glaze slice (R126) -/

theorem sendPart_reports (cl : Nat) (j : GlzJob) (r : RouteE) (s : State) : Reports s (sendPart cl j r s) := by
  unfold sendPart
  dsimp only
  split
  · exact glzFault_reports _ _ _ _ _ _ _
  · exact (countMacs_reports _ _ _).trans (emitWay_reports _ _ _ _ _)

theorem sendGlaze_reports (cl : Nat) (j : GlzJob) (s : State) : Reports s (sendGlaze cl j s) := by
  unfold sendGlaze
  dsimp only
  split
  · exact .refl s
  · exact .foldS _ (fun r _ u => sendPart_reports cl j r u) s

/-- The columns of a part. -/
def partCols (x : SliceE) (r : RouteE) : List Nat := (List.range (blockCols x r.cb)).map fun c => 1024 * r.cb + c

/-- A finished job with anything to give sends its contribution to each part it serves, where no row of the forward pass holds an
uncorrectable error. -/
theorem mem_sendGlaze {cl : Nat} {j : GlzJob} {s : State} {r : RouteE}
    (gives : anySelected j = true ∨ (adIn (ctlOf s j.vec) (imgOf s j.im) (sliceOf (imgOf s j.im) j.slice)).isSome = true)
    (hr : r ∈ (imgOf s j.im).routes) (hs : r.slice = j.slice) (hg : r.glaze = true) (hc : r.glzCl = cl)
    (sound : ∀ row ∈ outRows s (imgOf s j.im) (sliceOf (imgOf s j.im) j.slice) j.vec (partCols (sliceOf (imgOf s j.im) j.slice) r),
      rowPoisoned s (imgOf s j.im) (fwdOf (sliceOf (imgOf s j.im) j.slice)) (row / 1024) (row % 1024) = false)
    (hopen : wayClosed s (cl / 48) (.scratch r.cl) = false) :
    Msg.fabric 1 r.cl tagGlaze ([r.part, j.im, j.vec, 0] ++ (partCols (sliceOf (imgOf s j.im) j.slice) r).map fun c =>
      glazeValue s (imgOf s j.im) (sliceOf (imgOf s j.im) j.slice) j c) ∈ (sendGlaze cl j s).out := by
  have some : (!anySelected j && (adIn (ctlOf s j.vec) (imgOf s j.im) (sliceOf (imgOf s j.im) j.slice)).isNone) = false := by
    rcases gives with h | h
    · simp [h]
    · simp [Option.isNone_eq_false_iff.mpr h]
  have served : r ∈ (imgOf s j.im).routes.filter fun r => r.slice == j.slice && r.glaze && r.glzCl == cl :=
    List.mem_filter.mpr ⟨hr, by simp [hs, hg, hc]⟩
  rw [sendGlaze]
  simp only [some, Bool.false_eq_true, if_false]
  refine Reports.mem_foldS (fun r _ u => sendPart_reports cl j r u) served fun u hu => ?_
  have fine : ((outRows s (imgOf s j.im) (sliceOf (imgOf s j.im) j.slice) j.vec (partCols (sliceOf (imgOf s j.im) j.slice) r)).any fun row =>
      rowPoisoned s (imgOf s j.im) (fwdOf (sliceOf (imgOf s j.im) j.slice)) (row / 1024) (row % 1024)) = false := by
    rw [List.any_eq_false]
    exact fun row hrow => by simp [sound row hrow]
  have told (n : Nat) := hu.trans (countMacs_reports cl n u)
  rw [sendPart]
  simp only [hu.stores.imgOf_eq, hu.outRows_eq, hu.rowPoisoned_eq, hu.glazeValue_eq, ← partCols.eq_1, fine, Bool.false_eq_true, if_false]
  exact mem_emitWay (((told _).stores.wayClosed_eq _ _).trans hopen)

/-- A unit holds one job of the vector, or none, in which case it begins. -/
def HeldJob (s : State) (cl im slice vec : Nat) (j : GlzJob) : Prop :=
  tget [] s.glz cl = [] ∧ j = { im := im, slice := slice, vec := vec } ∨
    tget [] s.glz cl = [j] ∧ j.im = im ∧ j.slice = slice ∧ j.vec = vec

section
variable {s : State} {cl im slice vec : Nat} {j : GlzJob} (held : HeldJob s cl im slice vec j) (f : GlzJob → GlzJob)
include held

theorem HeldJob.modJob_eq : modJob im slice vec f (tget [] s.glz cl) = [f j] := by
  rcases held with ⟨h, rfl⟩ | ⟨h, rfl, rfl, rfl⟩
  · rw [h, modJob]
  · simp [h, modJob]

theorem HeldJob.fields : j.im = im ∧ j.slice = slice ∧ j.vec = vec := by
  rcases held with ⟨_, rfl⟩ | ⟨_, h⟩
  · exact ⟨rfl, rfl, rfl⟩
  · exact h

/-- A job that is not complete stays. -/
theorem withJob_waits (wait : jobReady s cl (f j) = false) : ∃ glz, withJob cl im slice vec f s = { s with glz := glz } ∧
    tget [] glz cl = [f j] ∧ ∀ k, k ≠ cl → tget [] glz k = tget [] s.glz k := by
  have wait' : jobReady { s with glz := tset [] s.glz cl [f j] } cl (f j) = false := wait
  refine ⟨tset [] (tset [] s.glz cl [f j]) cl [f j], ?_, tget_tset_same _ _ _ _, fun k hk => ?_⟩
  · rw [withJob, finishJobs, tmod, held.modJob_eq, tget_tset_same]
    simp only [List.filter_cons, List.filter_nil, wait', Bool.not_false, Bool.false_eq_true, if_true, if_false]
    rfl
  · rw [tget_tset_ne _ _ _ hk, tget_tset_ne _ _ _ hk]

/-- A job that is complete leaves with its contributions. -/
theorem withJob_finishes (ready : jobReady s cl (f j) = true) : ∃ glz,
    withJob cl im slice vec f s = sendGlaze cl (f j) { s with glz := glz } ∧
    tget [] glz cl = [] ∧ ∀ k, k ≠ cl → tget [] glz k = tget [] s.glz k := by
  have ready' : jobReady { s with glz := tset [] s.glz cl [f j] } cl (f j) = true := ready
  refine ⟨tset [] (tset [] s.glz cl [f j]) cl [], ?_, tget_tset_same _ _ _ _, fun k hk => ?_⟩
  · rw [withJob, finishJobs, tmod, held.modJob_eq, tget_tset_same]
    simp only [List.filter_cons, List.filter_nil, ready', Bool.not_true, Bool.false_eq_true, if_true, if_false]
    rfl
  · rw [tget_tset_ne _ _ _ hk, tget_tset_ne _ _ _ hk]

end

theorem not_jobReady_of_waiting {s : State} {cl : Nat} {j : GlzJob} (h : j.waiting ≠ []) : jobReady s cl j = false := by
  simp [jobReady, h]

theorem not_jobReady_of_sels {s : State} {cl : Nat} {j : GlzJob} (h : j.sels = []) (rows : 0 < (sliceOf (imgOf s j.im) j.slice).rows) :
    jobReady s cl j = false := by
  have : ¬(sliceOf (imgOf s j.im) j.slice).rows ≤ 0 := by omega
  simp [jobReady, h, this]

/-! ### The events of a glaze slice, where they are admitted -/

section
variable {s : State} (hdbg : undebugged s = true)
include hdbg

theorem exec_glazeSelectionArrival {cl im slice vec rb : Nat} {chans : List (Nat × Nat)} (up : unitUp s 2 cl = true) :
    exec (.glazeSelectionArrival cl im slice vec rb chans) s = .next (withJob cl im slice vec (fun j =>
      { j with
        sels := tins j.sels rb chans
        waiting := j.waiting ++ (chans.map fun c => (rb, c.1)).filter fun e => !j.fetched.contains e
        fetched := j.fetched.filter fun e => e.1 != rb }) s) := by
  show execGlazeSelectionArrival cl im slice vec rb chans s = _
  simp [execGlazeSelectionArrival, done, withhold_undebugged hdbg, up]

/-- A job to which a weight row has come, ahead of the selection or waited for. -/
def rowCame (ahead : Bool) (rb ch : Nat) (j : GlzJob) : GlzJob :=
  if ahead then { j with fetched := j.fetched ++ [(rb, ch)] } else { j with waiting := j.waiting.erase (rb, ch) }

/-- The weight row of a channel, fetched ahead of the selection or waited for by a job, is read where it lies. -/
theorem exec_glazeWeightRowArrival {cl im slice vec rb ch : Nat} {ahead : Bool} (now : fetchAhead s cl im slice vec rb ch = ahead)
    (admitted : if ahead then unitUp s 2 cl = true else (jobOfVec s cl im slice vec).waiting.contains (rb, ch) = true)
    (sound : rowPoisoned s (imgOf s im) slice rb ch = false) : ∃ u, u = { s with regs := u.regs, free := u.free } ∧
      (∀ q k, q ≠ .SPM_WAIT_CNT → rd u q k = rd s q k) ∧
      exec (.glazeWeightRowArrival cl im slice vec rb ch) s = .next (withJob cl im slice vec (rowCame ahead rb ch) u) := by
  obtain ⟨xs, hxs⟩ : ∃ xs, xs =
    ((imgOf s im).glaze.filter fun g => g.slice == slice && g.rb == rb && g.ch == ch).map (·.loc) := ⟨_, rfl⟩
  obtain ⟨u, hu⟩ : ∃ u, u = foldS xs spmTouch s := ⟨_, rfl⟩
  have rest : u = { s with regs := u.regs, free := u.free } := eq_of_unwaited (hu ▸ foldS_spmTouch_unwaited xs s)
  have sound' : rowPoisoned u (imgOf u im) slice rb ch = false := by rw [rest]; exact sound
  refine ⟨u, rest, fun q k hq => hu ▸ rd_foldS_spmTouch xs s hq k, ?_⟩
  show execGlazeWeightRowArrival cl im slice vec rb ch s = _
  cases ahead with
  | true =>
    rw [if_pos rfl] at admitted
    simp only [execGlazeWeightRowArrival, done, now, admitted, accessesBp_undebugged hdbg two_ne_zero, halted_undebugged hdbg, ← hxs, ← hu,
      sound', whenS, Bool.not_true, Bool.false_and, Bool.or_self, Bool.false_eq_true, if_false]
    rfl
  | false =>
    rw [if_neg Bool.false_ne_true] at admitted
    simp only [execGlazeWeightRowArrival, done, now, admitted, accessesBp_undebugged hdbg two_ne_zero, halted_undebugged hdbg, ← hxs, ← hu,
      sound', whenS, Bool.not_true, Bool.and_false, Bool.or_self, Bool.false_eq_true, if_false]
    rfl

theorem exec_adapterHArrival {cl im idx vec : Nat} {h : List Nat} (up : unitUp s 2 cl = true)
    (sound : ∀ b ∈ (adpOf (imgOf s im) idx).bs, b.cl = cl →
      anyPoison s (bLoc b (copyIn (ctlOf s vec) idx)) (2 * (adpOf (imgOf s im) idx).rank * b.n) = false) :
    exec (.adapterHArrival cl im idx vec h) s =
      .next (withJob cl im (adpOf (imgOf s im) idx).slice vec (fun j => { j with h := some h }) s) := by
  have good : ((adpOf (imgOf s im) idx).bs.any fun b =>
      b.cl == cl && anyPoison s (bLoc b (copyIn (ctlOf s vec) idx)) (2 * (adpOf (imgOf s im) idx).rank * b.n)) = false := by
    rw [List.any_eq_false]
    intro b hb
    by_cases h : b.cl = cl
    · simp [sound b hb h]
    · simp [h]
  show execAdapterHArrival cl im idx vec h s = _
  simp only [execAdapterHArrival, done, withhold_undebugged hdbg, up, good, whenS, Bool.not_true, Bool.false_eq_true, if_false]

end

end Sys2Proof.Machine

namespace Sys2Proof.Machine
open Sys2Proof

/-! ### The events of a glaze slice -/

section
variable {s : State} (hdbg : undebugged s = true) {cl im slice vec : Nat} {j : GlzJob}
include hdbg

theorem ends_glazeSelectionArrival {rb : Nat} {chans : List (Nat × Nat)} (up : unitUp s 2 cl = true) (held : HeldJob s cl im slice vec j)
    (new : ∃ c ∈ chans, (rb, c.1) ∉ j.fetched) : Ends (.glazeSelectionArrival cl im slice vec rb chans) s fun t =>
      t = { s with glz := t.glz } ∧
      tget [] t.glz cl = [{ j with sels := tins j.sels rb chans,
                                   waiting := j.waiting ++ (chans.map fun c => (rb, c.1)).filter fun e => !j.fetched.contains e,
                                   fetched := j.fetched.filter fun e => e.1 != rb }] ∧
      ∀ k, k ≠ cl → tget [] t.glz k = tget [] s.glz k := by
  obtain ⟨c, hc, hnew⟩ := new
  have fetched : (rb, c.1) ∈ (chans.map fun c => (rb, c.1)).filter fun e => !j.fetched.contains e :=
    List.mem_filter.mpr ⟨List.mem_map.mpr ⟨c, hc, rfl⟩, by simpa using hnew⟩
  obtain ⟨glz, stays, job, other⟩ := withJob_waits held (fun j => { j with
    sels := tins j.sels rb chans
    waiting := j.waiting ++ (chans.map fun c => (rb, c.1)).filter fun e => !j.fetched.contains e
    fetched := j.fetched.filter fun e => e.1 != rb })
    (not_jobReady_of_waiting (List.append_ne_nil_of_right_ne_nil _ (List.ne_nil_of_mem fetched)))
  exact ⟨_, (exec_glazeSelectionArrival hdbg up).trans (congrArg Host.Outcome.next stays), rfl, job, other⟩

theorem ends_glazeWeightRowArrival_ahead {rb ch : Nat} (up : unitUp s 2 cl = true) (held : HeldJob s cl im slice vec j)
    (ahead : fetchAhead s cl im slice vec rb ch = true) (sound : rowPoisoned s (imgOf s im) slice rb ch = false)
    (rows : 0 < (sliceOf (imgOf s im) slice).rows) (sels : j.sels = []) :
    Ends (.glazeWeightRowArrival cl im slice vec rb ch) s fun t =>
      t = { s with glz := t.glz, regs := t.regs, free := t.free } ∧
      (∀ q k, q ≠ .SPM_WAIT_CNT → k < 2 ^ 20 → rd t q k = rd s q k) ∧
      tget [] t.glz cl = [{ j with fetched := j.fetched ++ [(rb, ch)] }] ∧ ∀ k, k ≠ cl → tget [] t.glz k = tget [] s.glz k := by
  obtain ⟨u, rest, regs, ran⟩ := exec_glazeWeightRowArrival hdbg ahead (by simpa using up) sound
  obtain ⟨rfl, rfl, rfl⟩ := held.fields
  have glz : u.glz = s.glz := by rw [rest]
  have img : imgOf u = imgOf s := by rw [rest]; rfl
  have held' : HeldJob u cl j.im j.slice j.vec j := by rw [HeldJob, glz]; exact held
  obtain ⟨jobs, stays, job, other⟩ := withJob_waits held' (rowCame true rb ch)
    (not_jobReady_of_sels sels (by rw [img]; exact rows))
  exact ⟨_, ran.trans (congrArg Host.Outcome.next stays), congrArg (fun w : State => { w with glz := jobs }) rest,
    fun q k hq _ => regs q k hq, job, fun k hk => glz ▸ other k hk⟩

theorem ends_glazeWeightRowArrival_waited {rb ch : Nat} (held : tget [] s.glz cl = [j]) (hi : j.im = im) (hs : j.slice = slice)
    (hv : j.vec = vec) (waited : (rb, ch) ∈ j.waiting) (ahead : fetchAhead s cl im slice vec rb ch = false)
    (sound : rowPoisoned s (imgOf s im) slice rb ch = false) : Ends (.glazeWeightRowArrival cl im slice vec rb ch) s fun t =>
      SameMem s t ∧ (∀ k, k ≠ cl → tget [] t.glz k = tget [] s.glz k) ∧
      (jobReady s cl { j with waiting := j.waiting.erase (rb, ch) } = false →
        t = { s with glz := t.glz, regs := t.regs, free := t.free } ∧
        (∀ q k, q ≠ .SPM_WAIT_CNT → k < 2 ^ 20 → rd t q k = rd s q k) ∧
        tget [] t.glz cl = [{ j with waiting := j.waiting.erase (rb, ch) }]) ∧
      (jobReady s cl { j with waiting := j.waiting.erase (rb, ch) } = true → tget [] t.glz cl = [] ∧
        (anySelected { j with waiting := j.waiting.erase (rb, ch) } = true ∨
            (adIn (ctlOf s vec) (imgOf s im) (sliceOf (imgOf s im) slice)).isSome = true →
          ∀ r ∈ (imgOf s im).routes, r.slice = slice → r.glaze = true → r.glzCl = cl →
          (∀ row ∈ outRows s (imgOf s im) (sliceOf (imgOf s im) slice) vec (partCols (sliceOf (imgOf s im) slice) r),
            rowPoisoned s (imgOf s im) (fwdOf (sliceOf (imgOf s im) slice)) (row / 1024) (row % 1024) = false) →
          wayClosed s (cl / 48) (.scratch r.cl) = false →
          Msg.fabric 1 r.cl tagGlaze ([r.part, im, vec, 0] ++ (partCols (sliceOf (imgOf s im) slice) r).map fun c =>
            glazeValue s (imgOf s im) (sliceOf (imgOf s im) slice) { j with waiting := j.waiting.erase (rb, ch) } c) ∈ t.out)) := by
  have inJob : jobOfVec s cl im slice vec = j := by simp [jobOfVec, held, hi, hs, hv]
  obtain ⟨u, rest, regs, ran⟩ := exec_glazeWeightRowArrival hdbg ahead (by simpa [inJob] using waited) sound
  subst hi hs hv
  have glz : u.glz = s.glz := by rw [rest]
  have mem : u.mem = s.mem := by rw [rest]
  have held' : HeldJob u cl j.im j.slice j.vec j := .inr ⟨glz ▸ held, rfl, rfl, rfl⟩
  have ready (j : GlzJob) : jobReady u cl j = jobReady s cl j := by rw [rest]; rfl
  change Ends _ _ fun t => SameMem s t ∧ _ ∧ (jobReady s cl (rowCame false rb ch j) = false → _) ∧
    (jobReady s cl (rowCame false rb ch j) = true → _)
  cases done : jobReady s cl (rowCame false rb ch j) with
  | false =>
    obtain ⟨jobs, stays, job, other⟩ := withJob_waits held' (rowCame false rb ch) ((ready _).trans done)
    exact ⟨_, ran.trans (congrArg Host.Outcome.next stays), rdByte_congr mem, fun k hk => glz ▸ other k hk,
      fun _ => ⟨congrArg (fun w : State => { w with glz := jobs }) rest, fun q k hq _ => regs q k hq, job⟩,
      fun h => absurd h Bool.false_ne_true⟩
  | true =>
    obtain ⟨jobs, leaves, gone, other⟩ := withJob_finishes held' (rowCame false rb ch) ((ready _).trans done)
    obtain ⟨w, hw⟩ : ∃ w, w = { u with glz := jobs } := ⟨_, rfl⟩
    have sent : Reports w (sendGlaze cl (rowCame false rb ch j) w) := sendGlaze_reports _ _ w
    rw [← hw] at leaves
    have glzw : w.glz = jobs := by rw [hw]
    have memw : w.mem = s.mem := by rw [hw, mem]
    have glzt := sent.stores.glz_eq.trans glzw
    refine ⟨_, ran.trans (congrArg Host.Outcome.next leaves), rdByte_congr (sent.mem_eq.trans memw), fun k hk => ?_,
      fun h => absurd h.symm Bool.false_ne_true, fun _ => ⟨?_, fun gives r hr hs hg hc sound hopen => ?_⟩⟩
    · rw [glzt, other k hk, glz]
    · rw [glzt, gone]
    · have same : w = { s with glz := jobs, regs := u.regs, free := u.free } :=
        hw.trans (congrArg (fun v : State => { v with glz := jobs }) rest)
      rw [same]
      exact mem_sendGlaze (s := { s with glz := jobs, regs := u.regs, free := u.free }) gives hr hs hg hc sound hopen

theorem ends_adapterHArrival {idx : Nat} {h : List Nat} (up : unitUp s 2 cl = true) (empty : tget [] s.glz cl = [])
    (rows : 0 < (sliceOf (imgOf s im) (adpOf (imgOf s im) idx).slice).rows)
    (sound : ∀ b ∈ (adpOf (imgOf s im) idx).bs, b.cl = cl →
      anyPoison s (bLoc b (copyIn (ctlOf s vec) idx)) (2 * (adpOf (imgOf s im) idx).rank * b.n) = false) :
    Ends (.adapterHArrival cl im idx vec h) s fun t =>
      t = { s with glz := t.glz } ∧
      tget [] t.glz cl = [{ im := im, slice := (adpOf (imgOf s im) idx).slice, vec := vec, h := some h }] ∧
      ∀ k, k ≠ cl → tget [] t.glz k = tget [] s.glz k := by
  have begins : HeldJob s cl im (adpOf (imgOf s im) idx).slice vec
    { im := im, slice := (adpOf (imgOf s im) idx).slice, vec := vec } := .inl ⟨empty, rfl⟩
  obtain ⟨glz, stays, job, other⟩ := withJob_waits begins (fun j => { j with h := some h }) (not_jobReady_of_sels rfl rows)
  exact ⟨_, (exec_adapterHArrival hdbg up sound).trans (congrArg Host.Outcome.next stays), rfl, job, other⟩

end

/-! ### The reducing units of an adapter (R140, R143) -/

theorem sumParts_length (rank : Nat) (parts : List (List Nat)) : (sumParts rank parts).length = rank := by simp [sumParts]

theorem portOf_tset (s : State) (im idx : Nat) (p : Adapter) :
    portOf { s with adapters := tset {} s.adapters (adpKey im idx) p } im idx = p := tget_tset_same _ _ _ _

/-- Part of a record reaches no byte outside it. -/
theorem rdByte_trainPut_outside {i : Image} {a : AdpE} {tag : Option (Nat × Nat)} {off k : Nat} {xs : List Byte} {s : State}
    (hk : trainAt s i a tag = some k) {b : Nat} (h : b < k + off ∨ k + off + xs.length ≤ b) :
    rdByte (trainPut i a tag off xs s) b = rdByte s b := by
  simp only [trainPut, hk]
  exact rdByte_wrBytes_outside h s

section
variable {s : State} (hdbg : undebugged s = true)
include hdbg

theorem ends_adapterUArrival (cl im idx vec rb : Nat) (u : List Nat) (up : unitUp s 3 cl = true) {i : Image} (hi : i = imgOf s im)
    {a : AdpE} (ha : a = adpOf i idx) {p : Adapter} (hp : p = portOf s im idx) {c : PassCtl} (hc : c = ctlOf s vec)
    {us : Tab (List Nat)} (hus : us = tins p.us (vec * 2 ^ 7 + rb) u) :
    Ends (.adapterUArrival cl im idx vec rb u) s fun t =>
      (∀ k, k ≠ adpKey im idx → tget {} t.adapters k = tget {} s.adapters k) ∧ t.tiles = s.tiles ∧ t.glz = s.glz ∧
      ((partsOf 7 vec us).length < (sliceOf i a.slice).rows →
        t = { s with adapters := t.adapters } ∧ portOf t im idx = { p with us := us }) ∧
      ((sliceOf i a.slice).rows ≤ (partsOf 7 vec us).length →
        portOf t im idx = { p with us := us.filter fun e => e.1 / 2 ^ 7 != vec } ∧
        (∀ b ∈ a.bs, wayClosed s (cl / 48) (.scratch b.cl) = false → Msg.fabric 2 b.cl tagH ([im, idx, vec] ++
          (sumParts a.rank (partsOf 7 vec us)).map (alphaBf (alphaOf p (copyIn c idx)))) ∈ t.out) ∧
        (trainAt s i a c.tag = none → (∀ b ∈ a.bs, wayClosed s (cl / 48) (.scratch b.cl) = false) →
          t = { s with adapters := t.adapters, out := t.out }) ∧
        ∀ k, trainAt s i a c.tag = some k → SameMemBut (k + trainH i a) (2 * a.rank) s t) := by
  by_cases parts : (partsOf 7 vec us).length < (sliceOf i a.slice).rows
  · have ran : exec (.adapterUArrival cl im idx vec rb u) s =
        .next { s with adapters := tset {} s.adapters (adpKey im idx) { p with us := us } } := by
      show execAdapterUArrival cl im idx vec rb u s = _
      simp only [execAdapterUArrival, done, withhold_undebugged hdbg, up, Bool.not_true, Bool.false_eq_true, if_false, ← hi, ← ha, ← hp,
        ← hus, parts, if_true]
    exact ⟨_, ran, fun k hk => tget_tset_ne _ _ _ hk, rfl, rfl, fun _ => ⟨rfl, portOf_tset _ _ _ _⟩, fun h => absurd parts (by omega)⟩
  · obtain ⟨h, hh⟩ : ∃ h, h = (sumParts a.rank (partsOf 7 vec us)).map (alphaBf (alphaOf p (copyIn c idx))) := ⟨_, rfl⟩
    obtain ⟨v, hv⟩ : ∃ v : State, v = { s with adapters := tset {} s.adapters (adpKey im idx) { p with us := dropParts 7 vec us } } :=
      ⟨_, rfl⟩
    obtain ⟨w, hw⟩ : ∃ w, w = trainPut i a c.tag (trainH i a) (bfBytes h) v := ⟨_, rfl⟩
    have ran : exec (.adapterUArrival cl im idx vec rb u) s =
        .next (foldS (a.bs.map (·.cl)).dedup (fun g => emitWay cl g im (.fabric 2 g tagH ([im, idx, vec] ++ h))) w) := by
      show execAdapterUArrival cl im idx vec rb u s = _
      simp only [execAdapterUArrival, done, withhold_undebugged hdbg, up, Bool.not_true, Bool.false_eq_true, if_false, ← hi, ← ha, ← hp,
        ← hus, ← hc, parts, ← hh, ← hv, ← hw]
    have stored : Stores v w := hw ▸ trainPut_stores _ _ _ _ _ _
    have sent := Reports.foldS (a.bs.map (·.cl)).dedup (fun g _ u =>
      emitWay_reports cl g im (.fabric 2 g tagH ([im, idx, vec] ++ h)) u) w
    have all := stored.trans sent.stores
    have vad : v.adapters = tset {} s.adapters (adpKey im idx) { p with us := dropParts 7 vec us } := by rw [hv]
    have way (d : Nat) (pl : Place) : wayClosed w d pl = wayClosed s d pl := by rw [stored.wayClosed_eq, hv]; rfl
    have record : trainAt v i a c.tag = trainAt s i a c.tag := by rw [hv]; rfl
    refine ⟨_, ran, fun k hk => ?_, ?_, ?_, fun h => absurd h parts, fun _ => ⟨?_, fun b hb hopen => ?_, fun none hopen => ?_,
      fun k hk b hb => ?_⟩⟩
    · rw [all.adapters_eq, vad, tget_tset_ne _ _ _ hk]
    · rw [all.tiles_eq, hv]
    · rw [all.glz_eq, hv]
    · rw [portOf, all.adapters_eq, vad, tget_tset_same]
      rfl
    · have mine : b.cl ∈ (a.bs.map (·.cl)).dedup := List.mem_dedup.mpr (List.mem_map.mpr ⟨b, hb, rfl⟩)
      rw [← hh]
      exact Reports.mem_foldS (fun g _ u => emitWay_reports _ _ _ _ _) mine fun u hu =>
        mem_emitWay ((hu.stores.wayClosed_eq _ _).trans ((way _ _).trans hopen))
    · have same : w = v := by rw [hw, trainPut, record, none]
      rw [foldS_emitWay_open (dst := fun g => g) fun g hg => ?_, same, hv]
      obtain ⟨b, hb, rfl⟩ := List.mem_map.mp (List.mem_dedup.mp hg)
      exact (way _ _).trans (hopen b hb)
    · have size : (bfBytes h).length = 2 * a.rank := by
        rw [bfBytes, flatMap_bytesLE_length, hh, List.length_map, sumParts_length, mul_comm]
      rw [rdByte_congr sent.mem_eq, hw, rdByte_trainPut_outside (record.trans hk) (by rw [size]; exact hb), hv]
      rfl

theorem ends_adapterQArrival (cl im idx vec col : Nat) (q : List Nat) (up : unitUp s 3 cl = true) {i : Image} (hi : i = imgOf s im)
    {a : AdpE} (ha : a = adpOf i idx) {p : Adapter} (hp : p = portOf s im idx)
    {qs : Tab (List Nat)} (hqs : qs = tins p.qs (vec * 2 ^ 17 + col) q) :
    Ends (.adapterQArrival cl im idx vec col q) s fun t =>
      SameMem s t ∧ (∀ k, k ≠ adpKey im idx → tget {} t.adapters k = tget {} s.adapters k) ∧ t.tiles = s.tiles ∧ t.glz = s.glz ∧
      ((partsOf 17 vec qs).length < qCount i a → t = { s with adapters := t.adapters } ∧ portOf t im idx = { p with qs := qs }) ∧
      (qCount i a ≤ (partsOf 17 vec qs).length →
        portOf t im idx = { p with qs := qs.filter fun e => e.1 / 2 ^ 17 != vec } ∧
        ((∀ b ∈ a.as, wayClosed s (cl / 48) (.scratch b.cl) = false) → t = { s with adapters := t.adapters, out := t.out }) ∧
        ∀ b ∈ a.as, wayClosed s (cl / 48) (.scratch b.cl) = false → Msg.fabric 2 b.cl tagV ([im, idx, vec, b.rb] ++
          (List.range a.rank).map fun k => alphaBf (alphaOf p (copyIn (ctlOf s vec) idx))
            (f32Sum ((partsOf 17 vec qs).flatMap (qProducts a.rank k)))) ∈ t.out) := by
  by_cases parts : (partsOf 17 vec qs).length < qCount i a
  · have ran : exec (.adapterQArrival cl im idx vec col q) s =
        .next { s with adapters := tset {} s.adapters (adpKey im idx) { p with qs := qs } } := by
      show execAdapterQArrival cl im idx vec col q s = _
      simp only [execAdapterQArrival, done, withhold_undebugged hdbg, up, Bool.not_true, Bool.false_eq_true, if_false, ← hi, ← ha, ← hp,
        ← hqs, parts, if_true]
    exact ⟨_, ran, fun _ => rfl, fun k hk => tget_tset_ne _ _ _ hk, rfl, rfl, fun _ => ⟨rfl, portOf_tset _ _ _ _⟩,
      fun h => absurd parts (by omega)⟩
  · obtain ⟨v, hv⟩ : ∃ v, v = (List.range a.rank).map fun k => alphaBf (alphaOf p (copyIn (ctlOf s vec) idx))
      (f32Sum ((partsOf 17 vec qs).flatMap (qProducts a.rank k))) := ⟨_, rfl⟩
    obtain ⟨w, hw⟩ : ∃ w : State, w = { s with adapters := tset {} s.adapters (adpKey im idx) { p with qs := dropParts 17 vec qs } } :=
      ⟨_, rfl⟩
    have ran : exec (.adapterQArrival cl im idx vec col q) s = .next (foldS (a.as.map fun x => (x.cl, x.rb))
        (fun g => emitWay cl g.1 im (.fabric 2 g.1 tagV ([im, idx, vec, g.2] ++ v))) w) := by
      show execAdapterQArrival cl im idx vec col q s = _
      simp only [execAdapterQArrival, done, withhold_undebugged hdbg, up, Bool.not_true, Bool.false_eq_true, if_false, ← hi, ← ha, ← hp,
        ← hqs, parts, List.map_map, Function.comp_def, ← hv, ← hw]
    have sent := Reports.foldS (a.as.map fun x => (x.cl, x.rb)) (fun g _ u =>
      emitWay_reports cl g.1 im (.fabric 2 g.1 tagV ([im, idx, vec, g.2] ++ v)) u) w
    have wad : w.adapters = tset {} s.adapters (adpKey im idx) { p with qs := dropParts 17 vec qs } := by rw [hw]
    have way (d : Nat) (pl : Place) : wayClosed w d pl = wayClosed s d pl := by rw [hw]; rfl
    refine ⟨_, ran, rdByte_congr (sent.mem_eq.trans (by rw [hw])), fun k hk => ?_, ?_, ?_, fun h => absurd h parts,
      fun _ => ⟨?_, fun hopen => ?_, fun b hb hopen => ?_⟩⟩
    · rw [sent.stores.adapters_eq, wad, tget_tset_ne _ _ _ hk]
    · rw [sent.stores.tiles_eq, hw]
    · rw [sent.stores.glz_eq, hw]
    · rw [portOf, sent.stores.adapters_eq, wad, tget_tset_same]
      rfl
    · rw [foldS_emitWay_open (dst := fun g : Nat × Nat => g.1) fun g hg => ?_, hw]
      obtain ⟨b, hb, rfl⟩ := List.mem_map.mp hg
      exact (way _ _).trans (hopen b hb)
    · have mine : (b.cl, b.rb) ∈ a.as.map fun x => (x.cl, x.rb) := List.mem_map.mpr ⟨b, hb, rfl⟩
      rw [← hv]
      exact Reports.mem_foldS (fun g _ u => emitWay_reports _ _ _ _ _) mine fun u hu =>
        mem_emitWay ((hu.stores.wayClosed_eq _ _).trans ((way _ _).trans hopen))

end

end Sys2Proof.Machine

namespace Sys2Proof.Machine
open Sys2Proof

/-! ### The terms z of an adapter (R143) -/

/-- The state without its jobs and what reports change. -/
def unjobbed (s : State) : State := { unreported s with glz := [] }

theorem unjobbed_withJob (cl im slice vec : Nat) (f : GlzJob → GlzJob) (s : State) :
    unjobbed (withJob cl im slice vec f s) = unjobbed s :=
  congrArg (fun u : State => { u with glz := [] })
    (Reports.foldS _ (fun j _ u => sendGlaze_reports cl j u) _).rest

theorem tget_withJob_ne {cl k : Nat} (h : k ≠ cl) (im slice vec : Nat) (f : GlzJob → GlzJob) (s : State) :
    tget [] (withJob cl im slice vec f s).glz k = tget [] s.glz k := by
  rw [withJob, finishJobs, (Reports.foldS _ (fun j _ u => sendGlaze_reports cl j u) _).stores.glz_eq]
  rw [tget_tset_ne _ _ _ h, tget_tmod_ne _ _ _ h]

/-- Each of several units that holds no job begins one, which waits for its selections. -/
theorem tget_foldS_withJob {gs : List Nat} (distinct : gs.Nodup) {im slice vec : Nat} {f : GlzJob → GlzJob} {s : State}
    (rows : 0 < (sliceOf (imgOf s im) slice).rows)
    (begins : (f { im := im, slice := slice, vec := vec }).im = im ∧ (f { im := im, slice := slice, vec := vec }).slice = slice ∧
      (f { im := im, slice := slice, vec := vec }).sels = []) {g : Nat} (hg : g ∈ gs) (empty : tget [] s.glz g = []) :
    tget [] (foldS gs (fun g => withJob g im slice vec f) s).glz g = [f { im := im, slice := slice, vec := vec }] := by
  obtain ⟨hi, hs, sels⟩ := begins
  unfold foldS
  induction gs generalizing s with
  | nil => exact absurd hg List.not_mem_nil
  | cons x gs ih =>
    obtain ⟨new, distinct⟩ := List.nodup_cons.mp distinct
    rw [List.foldl_cons]
    rcases List.mem_cons.mp hg with rfl | hg
    · have later := foldS_keeps (xs := gs) (f := fun g => withJob g im slice vec f) (fun t => tget [] t.glz g)
        (fun y hy t => tget_withJob_ne (ne_of_mem_of_not_mem hy new).symm im slice vec f t) (withJob g im slice vec f s)
      refine later.trans ?_
      have held : HeldJob s g im slice vec { im := im, slice := slice, vec := vec } := .inl ⟨empty, rfl⟩
      obtain ⟨glz, stays, job, _⟩ := withJob_waits held f (not_jobReady_of_sels sels (by rw [hi, hs]; exact rows))
      rw [stays]
      exact job
    · have images : (withJob x im slice vec f s).images = s.images :=
        (congrArg State.images (unjobbed_withJob x im slice vec f s) :)
      refine ih distinct ?_ hg ?_
      · rw [imgOf, images]
        exact rows
      · exact (tget_withJob_ne (ne_of_mem_of_not_mem hg new) im slice vec f s).trans empty

theorem addMem_stores (a v : Nat) (s : State) : Stores s (addMem a v s) := wrBytes_stores _ _ _

theorem growA_stores (p : APartE) (rank : Nat) (xs v : List Nat) (s : State) : Stores s (growA p rank xs v s) :=
  .foldS _ (fun _ _ u => .foldS _ (fun _ _ w => addMem_stores _ _ w) u) s

/-- dA grows within its own words. -/
theorem rdByte_growA_outside {p : APartE} {rank : Nat} {xs v : List Nat} {b : Nat}
    (h : b < p.grad ∨ p.grad + xs.length * 4 * rank ≤ b) (s : State) : rdByte (growA p rank xs v s) b = rdByte s b := by
  refine foldS_keeps (fun t => rdByte t b) (fun r hr t => foldS_keeps (fun t => rdByte t b) (fun k hk u => ?_) t) s
  have size : (bytesLE 4 (f32Add (ofBytesLE (rdBytes u (p.grad + r * 4 * rank + 4 * k) 4))
    (f32MulV (decode .bf16 (xs.getD r 0)) (decode .bf16 (v.getD k 0))).1).1).length = 4 := bytesLE_length _ _
  have row := Nat.mul_le_mul_right (4 * rank) (Nat.succ_le_of_lt (List.mem_range.mp hr))
  rw [Nat.succ_mul, ← mul_assoc, ← mul_assoc] at row
  have col := List.mem_range.mp hk
  refine rdByte_wrBytes_outside ?_ u
  rw [size]
  omega

/-- An uncorrectable error in what the unit reads or adds to. -/
def badForGrad (s : State) (i : Image) (a : AdpE) (p : APartE) (c : PassCtl) (copy rb rows : Nat) : Bool :=
  anyPoison s (aLoc p copy) (2 * a.rank * rows) || anyPoison s p.grad (4 * a.rank * rows) ||
    trainBad s i a c.tag (2048 * rb) (2 * rows)

section
variable {s : State} (hdbg : undebugged s = true)
include hdbg

/-- The arrival of v: reports and stores, which follow the training record, and then the terms z enter their jobs. -/
theorem exec_adapterVArrival {cl im idx vec rb : Nat} {v : List Nat} (up : unitUp s 2 cl = true) {i : Image} (hi : i = imgOf s im)
    {a : AdpE} (ha : a = adpOf i idx) {c : PassCtl} (hc : c = ctlOf s vec) {rows : Nat} (hrows : rows = blockRows (sliceOf i a.slice) rb)
    {x : SliceE} (hx : i.slices.find? (fun x => x.kind == 1 && x.pair == a.slice) = some x)
    {p : APartE} (hp : a.as.find? (fun p => p.rb == rb && p.cl == cl) = some p) : ∃ u, Stores s u ∧
      (u.mem = s.mem ∨ ∃ xs, trainBf s i a c.tag (2048 * rb) rows = some xs ∧ u.mem = (growA p a.rank xs v s).mem) ∧
      (badForGrad s i a p c (copyIn c idx) rb rows = false → ∀ xs, trainBf s i a c.tag (2048 * rb) rows = some xs →
        u.mem = (growA p a.rank xs v s).mem) ∧
      exec (.adapterVArrival cl im idx vec rb v) s =
        .next (foldS (((i.routes.filter fun r => r.slice == x.id && r.cb == rb && r.glaze).map (·.glzCl)).dedup) (fun g =>
          withJob g im x.id vec (fun j =>
            { j with z := foldS (zTerms s p a.rank (copyIn c idx) rows v) (fun e m => tins m e.1 e.2) j.z })) u) := by
  have ran : exec (.adapterVArrival cl im idx vec rb v) s = .next
      (foldS (((i.routes.filter fun r => r.slice == x.id && r.cb == rb && r.glaze).map (·.glzCl)).dedup) (fun g =>
        withJob g im x.id vec (fun j =>
          { j with z := foldS (zTerms s p a.rank (copyIn c idx) rows v) (fun e m => tins m e.1 e.2) j.z }))
        (whenS (!anyPoison s (aLoc p (copyIn c idx)) (2 * a.rank * rows)) (countMacs cl (rows * a.rank))
          (if badForGrad s i a p c (copyIn c idx) rb rows then glzFault cl im x.id vec 9 (fun r => r.cb == rb) s else
            match trainBf s i a c.tag (2048 * rb) rows with
            | some xs => countMacs cl (rows * a.rank) (growA p a.rank xs v s)
            | none => s))) := by
    subst hi ha hc hrows
    show execAdapterVArrival cl im idx vec rb v s = _
    rw [execAdapterVArrival, withhold_undebugged hdbg, done]
    simp only [hx, hp, up, Bool.not_true, Bool.false_eq_true, if_false]
    rfl
  generalize trainBf s i a c.tag (2048 * rb) rows = train at ran ⊢
  generalize anyPoison s (aLoc p (copyIn c idx)) (2 * a.rank * rows) = badA at ran
  have counted (w : State) : Reports w (whenS (!badA) (countMacs cl (rows * a.rank)) w) := (Reports.refl w).whenS (countMacs_reports _ _ _)
  cases bad : badForGrad s i a p c (copyIn c idx) rb rows with
  | true =>
    rw [if_pos bad] at ran
    have told := (glzFault_reports cl im x.id vec 9 (fun r => r.cb == rb) s).trans (counted _)
    exact ⟨_, told.stores, .inl told.mem_eq, fun h => absurd h.symm Bool.false_ne_true, ran⟩
  | false =>
    rw [if_neg (by simp [bad])] at ran
    cases train with
    | none => exact ⟨_, (counted s).stores, .inl (counted s).mem_eq, fun _ xs h => absurd h (by simp), ran⟩
    | some xs =>
      have grown := (countMacs_reports cl (rows * a.rank) (growA p a.rank xs v s)).trans (counted _)
      refine ⟨_, (growA_stores p a.rank xs v s).trans grown.stores, .inr ⟨xs, rfl, grown.mem_eq⟩, fun _ ys h => ?_, ran⟩
      rw [grown.mem_eq, Option.some.inj h]

theorem ends_adapterVArrival (cl im idx vec rb : Nat) (v : List Nat) {x : SliceE} {p : APartE} (up : unitUp s 2 cl = true) {i : Image}
    (hi : i = imgOf s im) {a : AdpE} (ha : a = adpOf i idx) {c : PassCtl} (hc : c = ctlOf s vec) {rows : Nat}
    (hrows : rows = blockRows (sliceOf i a.slice) rb) (hx : i.slices.find? (fun x => x.kind == 1 && x.pair == a.slice) = some x)
    (hp : a.as.find? (fun p => p.rb == rb && p.cl == cl) = some p) (own : sliceOf i x.id = x) (pos : 0 < x.rows) :
    Ends (.adapterVArrival cl im idx vec rb v) s fun t =>
      (∀ r ∈ i.routes, r.slice = x.id → r.cb = rb → r.glaze = true → tget [] s.glz r.glzCl = [] →
        ∃ j, tget [] t.glz r.glzCl = [j] ∧ j.im = im ∧ j.slice = x.id ∧ j.vec = vec ∧
          ∀ k, k < rows → tget 0 j.z (1024 * rb + k) = bfDot ((List.range a.rank).map fun l =>
            (v.getD l 0, rdBf s (aLoc p (copyIn c idx) + k * 2 * a.rank + 2 * l))) + 1) ∧
      (trainBf s i a c.tag (2048 * rb) rows = none → t.mem = s.mem) ∧
      (∀ xs, trainBf s i a c.tag (2048 * rb) rows = some xs → anyPoison s (aLoc p (copyIn c idx)) (2 * a.rank * rows) = false →
        anyPoison s p.grad (4 * a.rank * rows) = false → trainBad s i a c.tag (2048 * rb) (2 * rows) = false →
        t.mem = (growA p a.rank xs v s).mem) ∧
      SameMemBut p.grad (rows * 4 * a.rank) s t ∧
      t.tiles = s.tiles ∧ t.adapters = s.adapters := by
  obtain ⟨u, stored, mem, grown, ran⟩ := exec_adapterVArrival hdbg up hi ha hc hrows hx hp
  obtain ⟨t, ht⟩ : ∃ t, t = foldS (((i.routes.filter fun r => r.slice == x.id && r.cb == rb && r.glaze).map (·.glzCl)).dedup) (fun g =>
    withJob g im x.id vec (fun j =>
      { j with z := foldS (zTerms s p a.rank (copyIn c idx) rows v) (fun e m => tins m e.1 e.2) j.z })) u := ⟨_, rfl⟩
  rw [← ht] at ran
  have rest : unjobbed t = unjobbed u := by
    rw [ht]
    exact foldS_eq unjobbed (fun g w => unjobbed_withJob g im x.id vec _ w) _ u
  have memt : t.mem = u.mem := (congrArg State.mem rest :)
  refine ⟨t, ran, fun r hr hs hb hg empty => ?_, fun none => ?_, fun xs hxs h1 h2 h3 => ?_, fun b hb => ?_, ?_, ?_⟩
  · have served : r.glzCl ∈ ((i.routes.filter fun r => r.slice == x.id && r.cb == rb && r.glaze).map (·.glzCl)).dedup :=
      List.mem_dedup.mpr (List.mem_map.mpr ⟨r, List.mem_filter.mpr ⟨hr, by simp [hs, hb, hg]⟩, rfl⟩)
    have rows' : 0 < (sliceOf (imgOf u im) x.id).rows := by rw [stored.imgOf_eq, ← hi, own]; exact pos
    refine ⟨_, ht ▸ tget_foldS_withJob (List.nodup_dedup _) rows' ⟨rfl, rfl, rfl⟩ served (stored.glz_eq ▸ empty), rfl, rfl, rfl,
      fun k hk => ?_⟩
    have place : p.rb = rb := by
      have := List.find?_some hp
      simp only [Bool.and_eq_true, beq_iff_eq] at this
      exact this.1
    have distinct : ((zTerms s p a.rank (copyIn c idx) rows v).map (·.1)).Nodup := by
      rw [zTerms, List.map_map]
      exact List.nodup_range.map fun m n h => by simpa using h
    have term : (1024 * rb + k, bfDot ((List.range a.rank).map fun l =>
        (v.getD l 0, rdBf s (aLoc p (copyIn c idx) + k * 2 * a.rank + 2 * l))) + 1) ∈ zTerms s p a.rank (copyIn c idx) rows v := by
      rw [zTerms, place]
      exact List.mem_map.mpr ⟨k, List.mem_range.mpr hk, rfl⟩
    exact tget_foldS_tins_mem 0 distinct [] term
  · rcases mem with h | ⟨xs, h, _⟩
    · rw [memt, h]
    · rw [none] at h
      simp at h
  · rw [memt, grown (by simp [badForGrad, h1, h2, h3]) xs hxs]
  · rcases mem with h | ⟨xs, hxs, h⟩
    · exact rdByte_congr (memt.trans h) b
    · have size : xs.length = rows := by
        obtain ⟨k, _, rfl⟩ := Option.map_eq_some_iff.mp hxs
        simp
      rw [rdByte_congr (memt.trans h), rdByte_growA_outside (by rw [size]; exact hb)]
  · exact (congrArg State.tiles rest :).trans stored.tiles_eq
  · exact (congrArg State.adapters rest :).trans stored.adapters_eq

end

/-- Settles O5, event by event. -/
theorem glazeSliceEvents : Obligations.GlazeSliceEvents := by
  refine ⟨?_, ?_, ?_, ?_, ?_, ?_, ?_⟩
  · intro cl im slice vec rb chans j s hdbg up held new
    exact ends_glazeSelectionArrival hdbg up held new
  · intro cl im slice vec rb ch j s hdbg up held ahead sound rows sels
    exact ends_glazeWeightRowArrival_ahead hdbg up held ahead sound rows sels
  · intro cl im slice vec rb ch j s hdbg held hi hs hv waited ahead sound
    exact ends_glazeWeightRowArrival_waited hdbg held hi hs hv waited ahead sound
  · intro cl im idx vec rb u s hdbg up
    exact ends_adapterUArrival hdbg cl im idx vec rb u up rfl rfl rfl rfl rfl
  · intro cl im idx vec h s hdbg up empty a rows sound
    exact ends_adapterHArrival hdbg up empty rows sound
  · intro cl im idx vec col q s hdbg up
    exact ends_adapterQArrival hdbg cl im idx vec col q up rfl rfl rfl rfl
  · intro cl im idx vec rb v x p s hdbg up i a c rows hx hp own pos
    exact ends_adapterVArrival hdbg cl im idx vec rb v up rfl rfl rfl rfl hx hp own pos

end Sys2Proof.Machine

namespace Sys2Proof.Machine
open Sys2Proof

/-! ### Changes to one binding (R316) -/

/-- From `s` to `t` only bindings changed, and of them only binding `b`, which is `x` now. -/
structure Rebound (b : Nat) (s : State) (x : Bind) (t : State) : Prop where
  rest : t = { s with binds := t.binds }
  bound : bindOf t b = some x
  other : ∀ c, c ≠ b → bindOf t c = bindOf s c

theorem Rebound.refl {b : Nat} {s : State} {x : Bind} (h : bindOf s b = some x) : Rebound b s x s := ⟨rfl, h, fun _ _ => rfl⟩

theorem Rebound.modBind {b : Nat} {s t : State} {x : Bind} (h : Rebound b s x t) (f : Bind → Bind) :
    Rebound b s (f x) (modBind b f t) := by
  have changed : Machine.modBind b f t = { t with binds := tins t.binds b (f x) } := by simp only [Machine.modBind, h.bound]
  rw [changed]
  refine ⟨congrArg (fun u : State => { u with binds := tins t.binds b (f x) }) h.rest, ?_, fun c hc => ?_⟩
  · simp only [bindOf, find?_tins_same, Option.map_some]
  · rw [← h.other c hc]
    simp only [bindOf, find?_tins_ne t.binds (f x) hc]

theorem Rebound.foldS {b : Nat} {s t : State} {x : Bind} {β : Type} (h : Rebound b s x t) (f : β → Bind → Bind) (us : List β) :
    Rebound b s (foldS us f x) (foldS us (fun u => Machine.modBind b (f u)) t) := by
  unfold Machine.foldS
  induction us generalizing x t with
  | nil => exact h
  | cons u us ih => exact ih (h.modBind (f u))

theorem foldS_congr {β σ : Type} {f g : β → σ → σ} {xs : List β} (h : ∀ x ∈ xs, ∀ s, f x s = g x s) (s : σ) :
    Machine.foldS xs f s = Machine.foldS xs g s := by
  unfold Machine.foldS
  induction xs generalizing s with
  | nil => rfl
  | cons x xs ih =>
    rw [List.foldl_cons, List.foldl_cons, h x List.mem_cons_self]
    exact ih (fun y hy => h y (List.mem_cons_of_mem _ hy)) _

/-! ### Queries (R316) -/

/-- What the data of a query makes of a unit. -/
def unitWith (cl ctx part g0 : Nat) (vals : List Nat) (y : QUnit) : QUnit :=
  if part = 0 then { y with codes := vals.map (· + 1), cl := cl, ctx := ctx, g0 := g0 } else { y with scale := vals.headD 0 + 1 }

/-- What the data of a query for one unit makes of the binding. -/
def takeUnit (cl ctx l part g0 : Nat) (u : Nat × List Nat) (x : Bind) : Bind :=
  { x with units := tmod {} x.units (unitKey l u.1) (unitWith cl ctx part g0 u.2) }

theorem unitKey_inj {l g g' : Nat} : unitKey l g = unitKey l g' ↔ g = g' := by simp [unitKey]

/-- The units of a query, no two of them the same, are all taken. -/
theorem foldS_takeUnit (cl ctx l part g0 : Nat) {us : List (Nat × List Nat)} (distinct : (us.map (·.1)).Nodup) (x : Bind) :
    (foldS us (takeUnit cl ctx l part g0) x).elems = x.elems ∧
    (∀ u ∈ us, tget {} (foldS us (takeUnit cl ctx l part g0) x).units (unitKey l u.1) =
      unitWith cl ctx part g0 u.2 (tget {} x.units (unitKey l u.1))) ∧
    ∀ g, g ∉ us.map (·.1) → tget {} (foldS us (takeUnit cl ctx l part g0) x).units (unitKey l g) = tget {} x.units (unitKey l g) := by
  unfold foldS
  induction us generalizing x with
  | nil => exact ⟨rfl, fun _ h => absurd h List.not_mem_nil, fun _ _ => rfl⟩
  | cons v us ih =>
    obtain ⟨new, distinct⟩ := List.nodup_cons.mp distinct
    obtain ⟨elems, taken, left⟩ := ih distinct (takeUnit cl ctx l part g0 v x)
    rw [List.foldl_cons]
    have others {g : Nat} (h : g ≠ v.1) : tget {} (takeUnit cl ctx l part g0 v x).units (unitKey l g) = tget {} x.units (unitKey l g) :=
      tget_tmod_ne _ _ _ (unitKey_inj.not.mpr h)
    refine ⟨elems, fun u hu => ?_, fun g hg => ?_⟩
    · rcases List.mem_cons.mp hu with rfl | hu
      · exact (left u.1 new).trans (tget_tmod_same _ _ _ _)
      · rw [taken u hu, others (ne_of_mem_of_not_mem (List.mem_map_of_mem hu) new)]
    · rw [List.map_cons, List.mem_cons, not_or] at hg
      rw [left g hg.2, others hg.1]

theorem takeQuery_eq {b cl ctx l part g0 bay : Nat} {us : List (Nat × List Nat)} (finite : part = 1 → ∀ u ∈ us, u.2.headD 0 ≠ 0xFF)
    (s : State) : takeQuery b cl ctx l part g0 bay us s = foldS us (fun u => modBind b (takeUnit cl ctx l part g0 u)) s := by
  refine foldS_congr (fun u hu t => ?_) s
  have quiet : (part == 1 && u.2.headD 0 == 0xFF) = false := by
    by_cases h : part = 1
    · rw [beq_eq_false_iff_ne.mpr (finite h u hu), Bool.and_false]
    · rw [beq_eq_false_iff_ne.mpr h, Bool.false_and]
  simp only [quiet]
  rfl

theorem queryUnits_codes {w off : Nat} {vals : List Nat} : queryUnits 0 w off vals =
    (List.range (vals.length / w)).map fun k => (off / w + k, (vals.drop (k * w)).take w) := rfl

theorem queryUnits_scales {w off : Nat} {vals : List Nat} : queryUnits 1 w off vals = vals.mapIdx fun k v => (off + k, [v]) := rfl

theorem queryUnits_distinct (part w off : Nat) (vals : List Nat) : ((queryUnits part w off vals).map (·.1)).Nodup := by
  unfold queryUnits
  split
  · rw [List.map_map]
    exact List.nodup_range.map fun a b h => by simpa using h
  · have places : (vals.mapIdx fun k v => (off + k, [v])).map (·.1) = (List.range vals.length).map (off + ·) :=
      List.ext_getElem (by simp) fun k _ _ => by simp
    rw [places]
    exact List.nodup_range.map fun a b h => by simpa using h

/-- Without prefetch (R333) nothing is fetched. -/
theorem prefetch_off {b : Nat} {s : State} (h : rb s .KVM_CTRL 0 = false) : prefetch b s = s := by
  unfold prefetch
  split
  · rfl
  · rw [if_pos (by simp [h])]

/-- Where no cross-check runs, none is abandoned. -/
theorem abandonOn_of_none {s : State} (h : s.rounds = []) (kind u : Nat) : abandonOn kind u s = s := by
  rw [abandonOn, h]
  rfl

section
variable {s : State} (hdbg : undebugged s = true)
include hdbg

/-- An admissible query is taken by the binding. -/
theorem exec_queryArrival {cl ctx addr off fmt : Nat} {vals : List Nat} {x : Bind} {kv : KvLayout} (hkv : kv = kvOf s (seqOf s x.seq).im)
    (bound : bindOf s (kvBind addr) = some x) (good : queryBad x kv (kvLay addr) (kvPart addr) off fmt vals = false)
    (up : ∀ b ∈ (kvLayer kv (kvLay addr)).stripe, unitUp s 4 b = true) (off' : rb s .KVM_CTRL 0 = false)
    (finite : kvPart addr = 1 → 0xFF ∉ vals) (rounds : s.rounds = []) :
    Ends (.queryArrival cl ctx addr off fmt vals) s fun t => Rebound (kvBind addr) s
      { foldS (queryUnits (kvPart addr) kv.w off vals) (takeUnit cl ctx (kvLay addr) (kvPart addr) (off / kv.w)) x with
        atLayer := kvLay addr } t := by
  have all : (kvLayer kv (kvLay addr)).stripe.find? (fun b => !unitUp s 4 b) = none := by
    rw [List.find?_eq_none]
    exact fun b hb => by simp [up b hb]
  have scales : kvPart addr = 1 → ∀ u ∈ queryUnits (kvPart addr) kv.w off vals, u.2.headD 0 ≠ 0xFF := by
    intro h u hu hff
    rw [h, queryUnits_scales, List.mem_mapIdx] at hu
    obtain ⟨k, hk, rfl⟩ := hu
    exact finite h (hff ▸ List.getElem_mem hk)
  have taken := ((Rebound.refl bound).foldS (takeUnit cl ctx (kvLay addr) (kvPart addr) (off / kv.w))
    (queryUnits (kvPart addr) kv.w off vals)).modBind fun x => { x with atLayer := kvLay addr }
  refine ⟨_, ?_, taken⟩
  show execQueryArrival cl ctx addr off fmt vals s = _
  simp only [execQueryArrival, done, withhold_undebugged hdbg, bound, ← hkv, good, all, Bool.false_eq_true, if_false,
    foldS_fixed fun b _ => abandonOn_of_none rounds 4 b, takeQuery_eq scales]
  rw [prefetch_off]
  rw [taken.rest]
  exact off'

theorem ends_queryArrival {cl ctx addr off fmt : Nat} {vals : List Nat} {x : Bind} {kv : KvLayout} (hkv : kv = kvOf s (seqOf s x.seq).im)
    (bound : bindOf s (kvBind addr) = some x) (good : queryBad x kv (kvLay addr) (kvPart addr) off fmt vals = false)
    (up : ∀ b ∈ (kvLayer kv (kvLay addr)).stripe, unitUp s 4 b = true) (off' : rb s .KVM_CTRL 0 = false)
    (finite : kvPart addr = 1 → 0xFF ∉ vals) (rounds : s.rounds = []) :
    Ends (.queryArrival cl ctx addr off fmt vals) s fun t =>
      t = { s with binds := t.binds } ∧ (∀ b, b ≠ kvBind addr → bindOf t b = bindOf s b) ∧
      ∃ y, bindOf t (kvBind addr) = some y ∧ y.atLayer = kvLay addr ∧ y.elems = x.elems ∧
        (∀ k, k < vals.length → kvPart addr = 1 →
          tget {} y.units (unitKey (kvLay addr) (off + k)) =
            { tget {} x.units (unitKey (kvLay addr) (off + k)) with scale := vals.getD k 0 + 1 }) ∧
        (∀ k, k < vals.length / kv.w → kvPart addr = 0 →
          tget {} y.units (unitKey (kvLay addr) (off / kv.w + k)) =
            { tget {} x.units (unitKey (kvLay addr) (off / kv.w + k)) with
              codes := ((vals.drop (k * kv.w)).take kv.w).map (· + 1), cl := cl, ctx := ctx, g0 := off / kv.w }) := by
  obtain ⟨t, ran, taken⟩ := exec_queryArrival (cl := cl) (ctx := ctx) hdbg hkv bound good up off' finite rounds
  obtain ⟨elems, units, -⟩ := foldS_takeUnit cl ctx (kvLay addr) (kvPart addr) (off / kv.w)
    (queryUnits_distinct (kvPart addr) kv.w off vals) x
  refine ⟨t, ran, taken.rest, taken.other, _, taken.bound, rfl, elems, fun k hk part => ?_, fun k hk part => ?_⟩
  · have brought : (off + k, [vals.getD k 0]) ∈ queryUnits (kvPart addr) kv.w off vals := by
      rw [part, queryUnits_scales, List.mem_mapIdx]
      exact ⟨k, hk, by rw [List.getD_eq_getElem _ _ hk]⟩
    refine (units _ brought).trans ?_
    rw [unitWith, part]
    rfl
  · have brought : (off / kv.w + k, (vals.drop (k * kv.w)).take kv.w) ∈ queryUnits (kvPart addr) kv.w off vals := by
      rw [part, queryUnits_codes]
      exact List.mem_map.mpr ⟨k, List.mem_range.mpr hk, rfl⟩
    refine (units _ brought).trans ?_
    rw [unitWith, part]
    rfl

end

end Sys2Proof.Machine

namespace Sys2Proof.Machine
open Sys2Proof

/-! ### Appends (R318, R319) -/

theorem tget_markElems (l : Nat) (vals : List Nat) (o : Nat) (m : Tab Nat) :
    (∀ e, e < vals.length → tget 0 (markElems l o vals m) (elemKey l (o + e)) = vals.getD e 0 + 1) ∧
    ∀ k, k < o → tget 0 (markElems l o vals m) (elemKey l k) = tget 0 m (elemKey l k) := by
  induction vals generalizing o m with
  | nil => exact ⟨fun e he => absurd he (by simp), fun _ _ => rfl⟩
  | cons v vals ih =>
    obtain ⟨marked, before⟩ := ih (o + 1) (tins m (elemKey l o) (v + 1))
    refine ⟨fun e he => ?_, fun k hk => ?_⟩
    · cases e with
      | zero => exact (before o (by omega)).trans (tget_tins_same _ _ _ _)
      | succ e =>
        have := marked e (by simpa using he)
        rwa [add_assoc, add_comm 1 e] at this
    · rw [markElems, before k (by omega), tget_tins_ne _ _ _ (by simp only [elemKey]; omega)]

theorem bsclGroup_codes_length (f : Fmt) (top : Nat) (vs : List Val) : (bsclGroup f top vs).2.1.length = vs.length := by
  unfold bsclGroup
  dsimp only
  split_ifs <;> simp

/-- The one head that a whole head of elements completes. -/
theorem heads_of_whole {n w : Nat} {vals : List Nat} (len : vals.length = w) (pos : 0 < w) :
    ((List.range ((n * w + vals.length - 1) / w + 1)).filter fun m => decide (n * w / w ≤ m) && !vals.isEmpty) = [n] := by
  have last : (n * w + vals.length - 1) / w = n := Nat.div_eq_of_lt_le (by omega) (by rw [Nat.succ_mul]; omega)
  have some : vals.isEmpty = false := by
    rw [List.isEmpty_eq_false_iff, ← List.length_pos_iff]
    omega
  have before : (List.range n).filter (fun m => decide (n ≤ m) && !vals.isEmpty) = [] := by
    rw [List.filter_eq_nil_iff]
    intro m hm
    simp [List.mem_range.mp hm]
  rw [last, Nat.mul_div_cancel _ pos, List.range_succ, List.filter_append, before]
  simp [some]

/-- A binding with a run of elements recorded. -/
def appended (l o : Nat) (vals : List Nat) (x : Bind) : Bind := { x with elems := markElems l o vals x.elems }

section
variable {kv : KvLayout} {a h sc : Nat} {codes : List Nat} {s : State} (len : codes.length = kv.w) (head : h < 2 * kv.hkv)
  (clean : anyPoison s a (2 * kv.hkv * (kv.w + 1)) = false)
include len head clean

/-- A head lies in its entry, before the scales. -/
theorem head_clean : anyPoison s (a + h * kv.w) (codes.map (BitVec.ofNat 8)).length = false ∧
    anyPoison s (a + 2 * kv.hkv * kv.w + h) 1 = false := by
  have fits := Nat.mul_le_mul_right kv.w (Nat.succ_le_of_lt head)
  rw [Nat.succ_mul] at fits
  rw [mul_add, mul_one] at clean
  constructor
  · rw [List.length_map, len]
    exact anyPoison_mono clean (by omega) (by omega)
  · exact anyPoison_mono clean (by omega) (by omega)

/-- A head written to its entry: its codes and its scale, and no byte besides. -/
theorem putHead_spec : putHead kv a h sc codes s = { s with
      mem := (putHead kv a h sc codes s).mem, poison := (putHead kv a h sc codes s).poison, lost := (putHead kv a h sc codes s).lost } ∧
    rdBytes (putHead kv a h sc codes s) (a + h * kv.w) kv.w = codes.map (BitVec.ofNat 8) ∧
    rdByte (putHead kv a h sc codes s) (a + 2 * kv.hkv * kv.w + h) = BitVec.ofNat 8 sc ∧
    SameMemBut a (2 * kv.hkv * (kv.w + 1)) s (putHead kv a h sc codes s) := by
  obtain ⟨first, second⟩ := head_clean len head clean
  have fits := Nat.mul_le_mul_right kv.w (Nat.succ_le_of_lt head)
  rw [Nat.succ_mul] at fits
  have size : (codes.map (BitVec.ofNat 8)).length = kv.w := by rw [List.length_map, len]
  have second' : anyPoison (wrBytes (a + h * kv.w) (codes.map (BitVec.ofNat 8)) s) (a + 2 * kv.hkv * kv.w + h)
    [BitVec.ofNat 8 sc].length = false := anyPoison_wrBytes first second
  have read (b : Nat) : rdByte (putHead kv a h sc codes s) b =
      if b = a + 2 * kv.hkv * kv.w + h then BitVec.ofNat 8 sc
      else if a + h * kv.w ≤ b ∧ b < a + h * kv.w + kv.w then (codes.map (BitVec.ofNat 8)).getD (b - (a + h * kv.w)) 0
      else rdByte s b := by
    rw [putHead, rdByte_wrBytes second', rdByte_wrBytes first, size, List.length_singleton]
    by_cases hb : b = a + 2 * kv.hkv * kv.w + h
    · rw [if_pos (by omega), if_pos hb, hb, Nat.sub_self]
      rfl
    · rw [if_neg (by omega), if_neg hb]
  refine ⟨?_, ?_, ?_, fun b hb => ?_⟩
  · rw [putHead, wrBytes_of_clean second', wrBytes_of_clean first]
  · refine List.ext_getElem (by simp [rdBytes, len]) fun i hi hi' => ?_
    have hw : i < kv.w := by simpa [rdBytes] using hi
    simp only [rdBytes, List.getElem_map, List.getElem_range]
    rw [read, if_neg (by omega), if_pos (by omega), Nat.add_sub_cancel_left, List.getD_eq_getElem _ _ hi', List.getElem_map]
  · rw [read, if_pos rfl]
  · rw [mul_add, mul_one] at hb
    rw [read, if_neg (by omega), if_neg (by omega)]

end

/-- A head whose elements have come goes to its entry, where no word of it refuses the write. -/
theorem storeHead_of_complete {b l n a : Nat} {vals : List Nat} {x : Bind} {s : State} {kv : KvLayout} (hkv : kv = kvOf s (seqOf s x.seq).im)
    (bound : bindOf s b = some x) (len : vals.length = kv.w)
    (came : ∀ e, e < kv.w → tget 0 x.elems (elemKey l (n * kv.w + e)) = vals.getD e 0 + 1)
    (entry : entryOf s x kv l (n / (2 * kv.hkv)) = some a) (heads : 0 < kv.hkv) (clean : anyPoison s a (2 * kv.hkv * (kv.w + 1)) = false)
    (finite : (slipForm vals).1 ≠ 0xFF) :
    storeHead b l n s = putHead kv a (n % (2 * kv.hkv)) (slipForm vals).1 (slipForm vals).2 s := by
  have head : n % (2 * kv.hkv) < 2 * kv.hkv := Nat.mod_lt _ (by omega)
  have codes : (slipForm vals).2.length = kv.w := by rw [slipForm, bsclGroup_codes_length, List.length_map, len]
  obtain ⟨first, second⟩ := head_clean codes head clean
  have size : ((slipForm vals).2.map (BitVec.ofNat 8)).length = kv.w := by rw [List.length_map, codes]
  rw [size] at first
  have elems : (List.range kv.w).map (fun e => tget 0 x.elems (elemKey l (n * kv.w + e))) = vals.map (· + 1) := by
    refine List.ext_getElem (by simp [len]) fun e he _ => ?_
    have hw : e < kv.w := by simpa using he
    rw [List.getElem_map, List.getElem_range, came e hw, List.getElem_map, List.getD_eq_getElem]
  have whole : (vals.map (· + 1)).contains 0 = false := by simp
  have back : (vals.map (· + 1)).map (· - 1) = vals := by
    rw [List.map_map]
    exact List.map_id _
  rw [storeHead]
  simp only [bound, ← kvOf.eq_1, ← hkv, elems, whole, entry, back, wrRefused_of_clean first, wrRefused_of_clean second, Bool.or_self,
    Bool.false_eq_true, if_false, beq_eq_false_iff_ne.mpr finite, whenS]

section
variable {s : State} (hdbg : undebugged s = true)
include hdbg

theorem ends_appendArrival {cl ctx addr n a : Nat} {vals : List Nat} {x : Bind} {kv : KvLayout} (hkv : kv = kvOf s (seqOf s x.seq).im)
    (bound : bindOf s (kvBind addr) = some x) (good : appendBad s x kv (kvLay addr) (n * kv.w) vals = false) (len : vals.length = kv.w)
    (pos : 0 < kv.w) (entry : entryOf s x kv (kvLay addr) (n / (2 * kv.hkv)) = some a)
    (clean : anyPoison s a (2 * kv.hkv * (kv.w + 1)) = false) (finite : (slipForm vals).1 ≠ 0xFF) :
    Ends (.appendArrival cl ctx addr (n * kv.w) vals) s fun t =>
      t = { s with binds := t.binds, mem := t.mem, poison := t.poison, lost := t.lost } ∧
      (∃ y, bindOf t (kvBind addr) = some y ∧
        ∀ e, e < kv.w → tget 0 y.elems (elemKey (kvLay addr) (n * kv.w + e)) = vals.getD e 0 + 1) ∧
      (rdBytes t (a + n % (2 * kv.hkv) * kv.w) kv.w = (slipForm vals).2.map (BitVec.ofNat 8) ∧
        rdByte t (a + 2 * kv.hkv * kv.w + n % (2 * kv.hkv)) = BitVec.ofNat 8 (slipForm vals).1) ∧
      SameMemBut a (2 * kv.hkv * (kv.w + 1)) s t := by
  have heads : 0 < kv.hkv := by
    rw [Nat.pos_iff_ne_zero]
    rintro h
    simp only [appendBad, Bool.or_eq_false_iff, decide_eq_false_iff_not, h, mul_zero, zero_mul] at good
    omega
  have codes : (slipForm vals).2.length = kv.w := by rw [slipForm, bsclGroup_codes_length, List.length_map, len]
  have marked := (Rebound.refl bound).modBind (appended (kvLay addr) (n * kv.w) vals)
  obtain ⟨u, hu⟩ : ∃ u, u = modBind (kvBind addr) (appended (kvLay addr) (n * kv.w) vals) s := ⟨_, rfl⟩
  obtain ⟨y, hy⟩ : ∃ y, y = appended (kvLay addr) (n * kv.w) vals x := ⟨_, rfl⟩
  rw [← hu, ← hy] at marked
  have came : ∀ e, e < kv.w → tget 0 y.elems (elemKey (kvLay addr) (n * kv.w + e)) = vals.getD e 0 + 1 := by
    rw [hy, ← len]
    exact (tget_markElems (kvLay addr) vals _ x.elems).1
  have ran : exec (.appendArrival cl ctx addr (n * kv.w) vals) s = .next (storeHead (kvBind addr) (kvLay addr) n u) := by
    show execAppendArrival cl ctx addr (n * kv.w) vals s = _
    simp only [execAppendArrival, done, withhold_undebugged hdbg, bound, ← hkv, good, accessesBp_undebugged hdbg (kind := 3) (by decide),
      Bool.false_eq_true, if_false, heads_of_whole len pos, hu]
    rfl
  have kvu : kv = kvOf u (seqOf u y.seq).im := by rw [marked.rest, hy]; exact hkv
  have entryu : entryOf u y kv (kvLay addr) (n / (2 * kv.hkv)) = some a := by
    rw [marked.rest, hy]
    exact entry
  have cleanu : anyPoison u a (2 * kv.hkv * (kv.w + 1)) = false := by rw [marked.rest]; exact clean
  rw [storeHead_of_complete kvu marked.bound len came entryu heads cleanu finite] at ran
  obtain ⟨rest, hcodes, hscale, outside⟩ := putHead_spec (sc := (slipForm vals).1) codes (Nat.mod_lt n (by omega)) cleanu
  obtain ⟨t, ht⟩ : ∃ t, t = putHead kv a (n % (2 * kv.hkv)) (slipForm vals).1 (slipForm vals).2 u := ⟨_, rfl⟩
  rw [← ht] at ran rest hcodes hscale outside
  have binds : t.binds = u.binds := (congrArg State.binds rest :)
  refine ⟨t, ran, ?_, ⟨y, ?_, came⟩, ⟨hcodes, hscale⟩, fun b hb => (outside b hb).trans ?_⟩
  · rw [binds]
    exact rest.trans (congrArg (fun v : State => { v with mem := t.mem, poison := t.poison, lost := t.lost }) marked.rest)
  · rw [bindOf, binds]
    exact marked.bound
  · rw [marked.rest]
    rfl

end

/-! ### Scores (R309 to R317) -/

/-- What is read is pinned by the reader. -/
theorem foldS_pin (xs : List Nat) (bay : Nat) (s : State) :
    foldS xs (fun a => pin a bay) s = { s with pins := (xs.map fun a => (a, bay)).reverse ++ s.pins } := by
  unfold foldS
  induction xs generalizing s with
  | nil => rfl
  | cons a xs ih =>
    rw [List.foldl_cons, ih, List.map_cons, List.reverse_cons, List.append_assoc]
    rfl

theorem foldS_modDesc {β : Type} (xs : List β) (d : β → Nat) (f : Desc → Desc) (s : State) :
    foldS xs (fun p => modDesc (d p) f) s = { s with descs := (foldS xs (fun p => modDesc (d p) f) s).descs } := by
  have rest := foldS_eq (fun t : State => { t with descs := [] }) (f := fun p => modDesc (d p) f) (fun _ _ => rfl) xs s
  exact congrArg (fun t : State => { t with descs := (foldS xs (fun p => modDesc (d p) f) s).descs }) rest

theorem bump_sameRegs (r : Reg) (n i : Nat) (hi : i < 2 ^ 20) (s : State) : SameRegs [(r, i)] s (bump r n i s) :=
  fun _ _ hi' hne => rd_wr_ne _ _ (by simpa using hne) hi hi'

theorem rd_bump_same (r : Reg) (n i : Nat) (s : State) : (rd (bump r n i s) r i).toNat = ((rd s r i).toNat + n) % 2 ^ 32 := by
  rw [bump, rd_wr_same, BitVec.toNat_ofNat]

section
variable (s : State) (bay layer unit : Nat) (x : Bind)

/-- What the bay of a stripe reads for a unit of a layer. -/
def unitPages : List (Nat × List Loc) :=
  visiblePages s (imgOf s (seqOf s x.seq).im) x layer bay (unit / (imgOf s (seqOf s x.seq).im).kv.hq)
def unitSlips : List Loc := visibleSlips s (imgOf s (seqOf s x.seq).im) x layer bay (unit / (imgOf s (seqOf s x.seq).im).kv.hq)
def unitReads : List (Nat × Nat) :=
  ((unitPages s bay layer unit x).flatMap (·.2) ++ unitSlips s bay layer unit x).map (locRange (imgOf s (seqOf s x.seq).im).kv)

/-- The binding with a unit marked as scored by a bay of the stripe. -/
def unitScored (rank : Nat) : Bind :=
  { x with units := tmod {} x.units (unitKey layer unit) fun y => { y with scored := rank :: y.scored } }

/-- The state with what a score reads pinned, its pages noted as used, and the far ones counted. -/
def scoreRead : State :=
  bump .KVM_HBM_SCORE_CNT ((unitPages s bay layer unit x).filter fun p => (descOf s p.1).tier == 2).length 0
    (foldS (unitPages s bay layer unit x) (fun p => modDesc p.1 fun d => { d with unused := false })
      (foldS ((unitPages s bay layer unit x).map (fun p => (descOf s p.1).addr) ++
        ((unitSlips s bay layer unit x).filterMap fun a =>
          segBase s x (imgOf s (seqOf s x.seq).im).kv (locRange (imgOf s (seqOf s x.seq).im).kv a).1).dedup) (fun a => pin a bay) s))

theorem scoreRead_rest : scoreRead s bay layer unit x = { s with
    pins := (scoreRead s bay layer unit x).pins, descs := (scoreRead s bay layer unit x).descs,
    regs := (scoreRead s bay layer unit x).regs } := by
  rw [scoreRead, foldS_pin, foldS_modDesc]
  rfl

theorem scoreRead_pins {p : Nat × List Loc} (h : p ∈ unitPages s bay layer unit x) :
    ((descOf s p.1).addr, bay) ∈ (scoreRead s bay layer unit x).pins := by
  rw [scoreRead, foldS_pin, foldS_modDesc]
  refine List.mem_append_left _ (List.mem_reverse.mpr (List.mem_map.mpr ⟨_, List.mem_append_left _ ?_, rfl⟩))
  exact List.mem_map.mpr ⟨p, h, rfl⟩

theorem scoreRead_regs : SameRegs [(.KVM_HBM_SCORE_CNT, 0)] s (scoreRead s bay layer unit x) ∧
    (rd (scoreRead s bay layer unit x) .KVM_HBM_SCORE_CNT).toNat = ((rd s .KVM_HBM_SCORE_CNT).toNat +
      ((unitPages s bay layer unit x).filter fun p => (descOf s p.1).tier == 2).length) % 2 ^ 32 := by
  rw [scoreRead, foldS_pin, foldS_modDesc]
  exact ⟨bump_sameRegs _ _ _ (by decide) _, rd_bump_same _ _ _ _⟩

end

section
variable {s : State} (hdbg : undebugged s = true)
include hdbg

/-- A bay that can score a unit and read all it needs answers the partial, pins what it read, and marks its rank. -/
theorem exec_engineUnitScore {bay bind layer unit rank : Nat} {x : Bind} {kv : KvLayout} {u : QUnit}
    (hkv : kv = (imgOf s (seqOf s x.seq).im).kv) (hu : u = tget {} x.units (unitKey layer unit)) (bound : bindOf s bind = some x)
    (codes : u.codes ≠ []) (scale : u.scale ≠ 0) (hr : (kvLayer kv layer).stripe.findIdx (· == bay) = rank)
    (inStripe : rank < (kvLayer kv layer).stripe.length) (new : rank ∉ u.scored) (settled : flushPending (seqOf s x.seq) layer = false)
    (works : unitWorks s 4 bay = true) (hopen : wayClosed s (bay / 6) (.scratch u.cl) = false)
    (there : ∀ p ∈ unitPages s bay layer unit x, (descOf s p.1).st ≠ 4)
    (sound : ∀ r ∈ unitReads s bay layer unit x, anyPoison s r.1 r.2 = false ∧ dieDown s (bay / 6) r.1 r.2 = false) :
    exec (.engineUnitScore bay bind layer unit false) s = .next (sendPartial kv layer unit rank u
      (bayPartial s (imgOf s (seqOf s x.seq).im) u layer unit
        ((unitPages s bay layer unit x).map (·.2) ++ [unitSlips s bay layer unit x]))
      (modBind bind (fun x => unitScored layer unit x rank) (scoreRead s bay layer unit x))) := by
  have kept : ((unitPages s bay layer unit x).any fun p => (descOf s p.1).st == 4) = false := by
    rw [List.any_eq_false]
    exact fun p hp => by simp [there p hp]
  have clean : ((unitReads s bay layer unit x).any fun r => anyPoison s r.1 r.2) = false := by
    rw [List.any_eq_false]
    exact fun r hr => by simp [(sound r hr).1]
  have up : ((unitReads s bay layer unit x).any fun r => dieDown s (bay / 6) r.1 r.2) = false := by
    rw [List.any_eq_false]
    exact fun r hr => by simp [(sound r hr).2]
  have admitted : (u.codes.isEmpty || decide (u.scale = 0) || decide (rank = (kvLayer kv layer).stripe.length) || u.scored.contains rank ||
      flushPending (seqOf s x.seq) layer || !unitWorks s 4 bay || halted s bay) = false := by
    simp [codes, scale, inStripe.ne, new, settled, works, halted_undebugged hdbg]
  subst hkv hu hr
  show execEngineUnitScore bay bind layer unit false s = _
  simp only [execEngineUnitScore, done, bound, ← unitPages.eq_1, ← unitSlips.eq_1, ← unitReads.eq_1, admitted]
  simp only [accessesBp_undebugged hdbg two_ne_zero, kept, clean, hopen, up, Bool.false_eq_true, if_false, Bool.or_self, whenS]
  rfl

theorem ends_engineUnitScore {bay bind layer unit rank : Nat} {x : Bind} {kv : KvLayout} {u : QUnit}
    (hkv : kv = (imgOf s (seqOf s x.seq).im).kv) (hu : u = tget {} x.units (unitKey layer unit)) (bound : bindOf s bind = some x)
    (codes : u.codes ≠ []) (scale : u.scale ≠ 0) (hr : (kvLayer kv layer).stripe.findIdx (· == bay) = rank)
    (inStripe : rank < (kvLayer kv layer).stripe.length) (new : rank ∉ u.scored) (settled : flushPending (seqOf s x.seq) layer = false)
    (works : unitWorks s 4 bay = true) (hopen : wayClosed s (bay / 6) (.scratch u.cl) = false)
    (there : ∀ p ∈ unitPages s bay layer unit x, (descOf s p.1).st ≠ 4)
    (sound : ∀ r ∈ unitReads s bay layer unit x, anyPoison s r.1 r.2 = false ∧ dieDown s (bay / 6) r.1 r.2 = false) :
    Ends (.engineUnitScore bay bind layer unit false) s fun t =>
      t = { s with out := t.out, binds := t.binds, pins := t.pins, descs := t.descs, regs := t.regs } ∧
      t.out.head? = some (.fabric 3 u.cl tagQuery ([u.ctx, (kvLayer kv layer).ret + rank, (unit - u.g0) * (kv.w + 2)] ++
        bayPartial s (imgOf s (seqOf s x.seq).im) u layer unit
          ((unitPages s bay layer unit x).map (·.2) ++ [unitSlips s bay layer unit x]))) ∧
      (∃ y, bindOf t bind = some y ∧ tget {} y.units (unitKey layer unit) = { u with scored := rank :: u.scored }) ∧
      (∀ p ∈ unitPages s bay layer unit x, ((descOf s p.1).addr, bay) ∈ t.pins) ∧
      (rd t .KVM_HBM_SCORE_CNT).toNat = ((rd s .KVM_HBM_SCORE_CNT).toNat +
        ((unitPages s bay layer unit x).filter fun p => (descOf s p.1).tier == 2).length) % 2 ^ 32 ∧
      SameRegs [(.KVM_HBM_SCORE_CNT, 0)] s t := by
  have ran := exec_engineUnitScore hdbg hkv hu bound codes scale hr inStripe new settled works hopen there sound
  have rest := scoreRead_rest s bay layer unit x
  have pins := fun p hp => scoreRead_pins s bay layer unit x (p := p) hp
  obtain ⟨regs, count⟩ := scoreRead_regs s bay layer unit x
  generalize scoreRead s bay layer unit x = v at *
  have bound' : bindOf v bind = some x := by rw [rest]; exact bound
  have scored := (Rebound.refl bound').modBind fun x => unitScored layer unit x rank
  generalize modBind bind (fun x => unitScored layer unit x rank) v = w at *
  have kept : w = { s with binds := w.binds, pins := v.pins, descs := v.descs, regs := v.regs } :=
    scored.rest.trans (congrArg (fun z : State => { z with binds := w.binds }) rest)
  have sameRegs : w.regs = v.regs := by rw [kept]
  refine ⟨_, ran, ?_, rfl, ⟨_, scored.bound, ?_⟩, fun p hp => ?_, ?_, fun q i hi hq => ?_⟩
  · rw [sendPartial, emit, kept]
  · rw [hu]
    exact tget_tmod_same {} x.units (unitKey layer unit) fun y : QUnit => { y with scored := rank :: y.scored }
  · have : w.pins = v.pins := by rw [kept]
    exact this ▸ pins p hp
  · exact (congrArg BitVec.toNat (rd_congr sameRegs _ _)).trans count
  · exact (rd_congr sameRegs q i).trans (regs q i hi hq)

end

/-- Settles O8, arrival by arrival. -/
theorem attentionArrivals : Obligations.AttentionArrivals := by
  refine ⟨?_, ?_, ?_⟩
  · intro cl ctx addr off fmt vals x s hdbg bind layer part kv bound good up prefetchOff finite rounds
    exact ends_queryArrival hdbg rfl bound good up prefetchOff finite rounds
  · intro cl ctx addr n a vals x s hdbg bind layer kv bound good len pos entry clean finite
    exact ends_appendArrival hdbg rfl bound good len pos entry clean finite
  · intro bay bind layer unit rank x s hdbg bound im kv u codes scale hr inStripe new settled works hopen pages slips reads there sound
    exact ends_engineUnitScore hdbg rfl rfl bound codes scale hr inStripe new settled works hopen there sound

end Sys2Proof.Machine

namespace Sys2Proof.Machine
open Sys2Proof

/-! ### The end of a soak while the hardware event queue fills -/

/-- A unit after reset, on which Silset does not run yet, with room for one more event in the hardware event queue (R529).  A soak
of bay 0 has all its probes: the one VALID tile-layer of the bay has no shadow, so that nothing is measured on it (R176, R188). -/
def soakWithRoomForOne : State :=
  setEv .TILE_LCFG 0 0 <| setEv .TILE_CFG 8 0
    { State.reset with pd := [(0, 1), (8, 1)], cal := [(0, { st := 2 })], sil.evq := List.replicate 511 {} }

theorem exec_soakEnd_steady {s : State} {bay : Nat} (soak : soaking s bay = true) (rest : refreshing s bay = false)
    (free : bayFenced s bay = false) (measured : soakDone s bay = true)
    (steady : (bayTemp s bay - (calOf s bay).startT).natAbs ≤ 64) :
    exec (.soakEnd bay) s = .next (acceptSoak bay false s) := by
  show execSoakEnd bay s = _
  simp [execSoakEnd, done, soak, rest, free, measured, steady]

/-- The tile-layer that cannot be read takes the last place in the queue, and the acceptance of the soak finds none. -/
theorem acceptSoak_withRoomForOne :
    (acceptSoak 0 false soakWithRoomForOne).sil.evq.getLast?.map (·.code) = some 11 := by decide +kernel

theorem soakWithRoomForOne_done : soakDone soakWithRoomForOne 0 = true := by decide +kernel

/-- Refutes O14: an accepted soak need not be the last event entered.  The acceptance first enters each tile-layer that could not be
read (R188); where Silset does not run and these fill the hardware event queue, which had room, the entry of the acceptance is lost
(R529). -/
theorem not_calibrationEvents : ¬ Obligations.CalibrationEvents := by
  rintro ⟨-, -, -, -, -, soakEnds, -⟩
  obtain ⟨steadily, -, -⟩ := soakEnds 0 soakWithRoomForOne (by decide) (.inl (by decide +kernel)) (by decide +kernel)
    (by decide +kernel) soakWithRoomForOne_done (fun f hf => absurd hf List.not_mem_nil)
  obtain ⟨t, ht, -, ⟨e, -, hcode, -, -, last⟩, -⟩ := steadily (by decide +kernel) (fun e he => absurd he List.not_mem_nil)
  rw [exec_soakEnd_steady (by decide +kernel) (by decide +kernel) (by decide +kernel) soakWithRoomForOne_done
    (by decide +kernel)] at ht
  have hlast := acceptSoak_withRoomForOne
  rw [Host.Outcome.next.inj ht, last (by decide +kernel) (by decide +kernel), Option.map_some, hcode] at hlast
  exact absurd hlast (by decide)

end Sys2Proof.Machine

namespace Sys2Proof.Machine
open Sys2Proof

/-! ### A tile changed by itself -/

theorem tileOf_modTile_same (t : Nat) (f : Tile → Tile) (s : State) : tileOf (modTile t f s) t = f (tileOf s t) := by
  rw [tileOf_modTile, if_pos rfl]

theorem tileOf_modTile_ne {t u : Nat} (f : Tile → Tile) (s : State) (h : u ≠ t) : tileOf (modTile t f s) u = tileOf s u := by
  rw [tileOf_modTile, if_neg h]

theorem poolOf_modPool_same (d : Nat) (f : TokPool → TokPool) (s : State) : poolOf (modPool d f s) d = f (poolOf s d) := by
  rw [poolOf_modPool, if_pos rfl]

/-- A change of one tile, and of nothing else. -/
theorem modTile_alone (t : Nat) (f : Tile → Tile) (s : State) :
    modTile t f s = { s with tiles := (modTile t f s).tiles } ∧ tileOf (modTile t f s) t = f (tileOf s t) ∧
      ∀ u, u ≠ t → tileOf (modTile t f s) u = tileOf s u :=
  ⟨rfl, tileOf_modTile_same t f s, fun _ h => tileOf_modTile_ne f s h⟩

/-! ### Requests and layer switches (R86, R87, R90) -/

theorem exec_passRequest {s : State} (hdbg : undebugged s = true) {tile : Nat} {req : PassReq} {parity : List Bool}
    (free : (tileOf s tile).pending = none) (first : (tileOf s tile).held = []) (good : parityGood req.codes parity = true) :
    exec (.passRequest tile req parity) s = .next (admitReq tile req true s) := by
  show execPassRequest tile req parity s = _
  simp [execPassRequest, done, withhold_undebugged hdbg, breakpoint_undebugged hdbg, free, first, good]

/-- A request that nothing refuses waits beside the buffer while a refresh in hold mode runs, and takes the buffer otherwise. -/
theorem admitReq_admissible {s : State} {tile : Nat} {req : PassReq} (up : tileFenced s tile req.kind = false)
    (valid : layerInvalid s tile req = false) : admitReq tile req true s =
      if req.kind ≤ 1 ∧ refreshHolds s (tlKey tile req.layer) = true then
        modTile tile (fun x => { x with aside := x.aside ++ [req] }) s
      else setPending tile req s := by
  simp [admitReq, up, valid]

/-- A request in the buffer of its tile, last in the order in which those of the die have come (R45, R90). -/
theorem setPending_spec (tile : Nat) (req : PassReq) (s : State) :
    tileOf (setPending tile req s) tile = { tileOf s tile with pending := some req } ∧
    (∀ d, poolOf (setPending tile req s) d = if d = tile / 1536 then
      { poolOf s d with waiters := (poolOf s d).waiters.erase tile ++ [tile] } else poolOf s d) ∧
    ∀ u, u ≠ tile → tileOf (setPending tile req s) u = tileOf s u := by
  refine ⟨tileOf_modTile_same tile (fun x => { x with pending := some req }) s, fun d => ?_,
    fun u hu => tileOf_modTile_ne (fun x => { x with pending := some req }) s hu⟩
  refine (poolOf_modPool _ _ _ d).trans ?_
  split
  next h => rw [← h]; rfl
  next => rfl

theorem exec_layerSwitchStart {s : State} (hdbg : undebugged s = true) {tile : Nat} {req : PassReq}
    (asked : (tileOf s tile).pending = some req) (other : req.layer ≠ (tileOf s tile).active)
    (settled : (tileOf s tile).settled = true) (noRow : ∀ p, (tileOf s tile).running = some p → p.req.kind ≠ 2) :
    exec (.layerSwitchStart tile) s =
      .next (modTile tile (fun x => { x with active := req.layer, settled := false }) s) := by
  have row : ((tileOf s tile).running.any fun p => p.req.kind == 2) = false := by
    cases hr : (tileOf s tile).running with
    | none => rfl
    | some p => simpa using noRow p hr
  show execLayerSwitchStart tile s = _
  simp [execLayerSwitchStart, done, asked, other, settled, row, halted_undebugged hdbg]

/-! ### The start of a pass (R89, R93) -/

theorem exec_passStart {s : State} {tile : Nat} {req : PassReq} (ready : startable s tile = true)
    (asked : (tileOf s tile).pending = some req) (valid : layerInvalid s tile req = false)
    (none : (tileOf s tile).token = false) (free : tokenFor s tile = true) :
    exec (.passStart tile) s = .next (startPass tile req (takeToken tile s)) := by
  have taken : (tileOf (takeToken tile s) tile).token = true := by
    simp [takeToken, none, free, tileOf_modTile_same]
  show execPassStart tile s = _
  simp [execPassStart, done, ready, asked, valid, taken]

theorem takeToken_free {s : State} {tile : Nat} (none : (tileOf s tile).token = false) (free : tokenFor s tile = true) :
    takeToken tile s = modTile tile (fun x => { x with token := true })
      (modPool (tile / 1536) (fun p => { p with inUse := p.inUse + 1, waiters := p.waiters.erase tile }) s) := by
  simp [takeToken, none, free]

/-- The pass of a request, with the layer, range and calibration values in force (R93). -/
def passRun (s : State) (tile : Nat) (req : PassReq) : PassRun :=
  { req := req, range := if req.kind = 1 then fld (lcfg s tile req.layer) 14 12 else fld (lcfg s tile req.layer) 10 8,
    cal := (tlOf s tile req.layer).cal, old := (tlOf s tile req.layer).old,
    n := if req.kind = 1 then (tlOf s tile req.layer).rampT else (tlOf s tile req.layer).rampN }

/-- The advance of a ramp leaves the values that it blends (R178). -/
theorem advanceRamp_values (tile layer kind : Nat) (s : State) :
    (tlOf (advanceRamp tile layer kind s) tile layer).cal = (tlOf s tile layer).cal ∧
      (tlOf (advanceRamp tile layer kind s) tile layer).old = (tlOf s tile layer).old := by
  rw [advanceRamp, tlOf_modTl]
  split <;> exact ⟨rfl, rfl⟩

/-- A tile with a pass in it. -/
def startedWith (r : PassRun) (x : Tile) : Tile :=
  { x with pending := none, running := some r, sinceProbe := min 8 (x.sinceProbe + 1) }

/-- A pass starts at a tile for which the bay router holds no request: it runs with what the ramp's advance left, a sample may
capture it, and nothing takes the buffer. -/
theorem startPass_eq {s : State} {tile : Nat} {req : PassReq} (behind : (tileOf s tile).held = []) : ∃ samples,
    startPass tile req s = modTile tile (fun x => { x with held := [] })
      { modTile tile (startedWith (passRun (advanceRamp tile req.layer req.kind s) tile req))
          (advanceRamp tile req.layer req.kind s) with samples := samples } := by
  obtain ⟨run, hrun⟩ : ∃ r, r = passRun (advanceRamp tile req.layer req.kind s) tile req := ⟨_, rfl⟩
  obtain ⟨v, hv⟩ : ∃ v, v = modTile tile (startedWith run) (advanceRamp tile req.layer req.kind s) := ⟨_, rfl⟩
  obtain ⟨c, hc⟩ : ∃ c, c = (req.kind == 0 || req.kind == 1 && (imgOf v req.im).draw.transposed) := ⟨_, rfl⟩
  obtain ⟨y, hy⟩ : ∃ y, y = whenS c (capturePass (tlKey tile req.layer) (bayOfTile tile) run) v := ⟨_, rfl⟩
  have started : startPass tile req s = admitHeld tile (tileOf y tile).held y := by
    rw [hy, hc, hv, hrun]
    rfl
  obtain ⟨samples, captured⟩ : ∃ samples, y = { v with samples := samples } := by
    rw [hy]
    cases c <;> exact ⟨_, rfl⟩
  have none : (tileOf y tile).held = [] := by
    have own : tileOf v tile = startedWith run (tileOf s tile) := by rw [hv]; exact tileOf_modTile_same _ _ _
    rw [captured]
    exact (congrArg Tile.held own).trans behind
  refine ⟨samples, ?_⟩
  rw [started, none, captured, ← hrun, ← hv]
  rfl

/-- What a started pass is, and what its tile holds. -/
theorem startPass_spec {s : State} {tile : Nat} {req : PassReq} (behind : (tileOf s tile).held = []) :
    startPass tile req s = { s with tiles := (startPass tile req s).tiles, tlayers := (startPass tile req s).tlayers,
                                    samples := (startPass tile req s).samples } ∧
    (tileOf (startPass tile req s) tile).pending = none ∧
    (tileOf (startPass tile req s) tile).token = (tileOf s tile).token ∧
    (∃ r, (tileOf (startPass tile req s) tile).running = some r ∧ r.req = req ∧ r.wave = 0 ∧ r.taken = 0 ∧
      r.range = (if req.kind = 1 then fld (lcfg s tile req.layer) 14 12 else fld (lcfg s tile req.layer) 10 8) ∧
      r.cal = (tlOf s tile req.layer).cal ∧ r.old = (tlOf s tile req.layer).old) ∧
    ∀ u, u ≠ tile → tileOf (startPass tile req s) u = tileOf s u := by
  obtain ⟨samples, h⟩ := startPass_eq (req := req) behind
  obtain ⟨cal, old⟩ := advanceRamp_values tile req.layer req.kind s
  have own : tileOf (startPass tile req s) tile =
      { startedWith (passRun (advanceRamp tile req.layer req.kind s) tile req) (tileOf s tile) with held := [] } := by
    rw [h, tileOf_modTile_same]
    exact congrArg (fun x : Tile => { x with held := [] }) (tileOf_modTile_same _ _ _)
  rw [own]
  refine ⟨by rw [h]; rfl, rfl, rfl, ⟨_, rfl, rfl, rfl, rfl, rfl, cal, old⟩, fun u hu => ?_⟩
  rw [h, tileOf_modTile_ne _ _ hu]
  exact tileOf_modTile_ne _ _ hu

theorem ends_passStart {s : State} {tile : Nat} {req : PassReq} (ready : startable s tile = true)
    (asked : (tileOf s tile).pending = some req) (valid : layerInvalid s tile req = false) (behind : (tileOf s tile).held = [])
    (none : (tileOf s tile).token = false) (free : tokenFor s tile = true) :
    Ends (.passStart tile) s fun t =>
      t = { s with tiles := t.tiles, tlayers := t.tlayers, pools := t.pools, samples := t.samples } ∧
      (tileOf t tile).pending = Option.none ∧ (tileOf t tile).token = true ∧
      (∃ r, (tileOf t tile).running = some r ∧ r.req = req ∧ r.wave = 0 ∧ r.taken = 0 ∧
        r.range = (if req.kind = 1 then fld (lcfg s tile req.layer) 14 12 else fld (lcfg s tile req.layer) 10 8) ∧
        r.cal = (tlOf s tile req.layer).cal ∧ r.old = (tlOf s tile req.layer).old) ∧
      poolOf t (tile / 1536) = { poolOf s (tile / 1536) with
        inUse := (poolOf s (tile / 1536)).inUse + 1, waiters := (poolOf s (tile / 1536)).waiters.erase tile } ∧
      (poolOf s (tile / 1536)).inUse < (poolOf s (tile / 1536)).size ∧
      ∀ u, u ≠ tile → tileOf t u = tileOf s u := by
  have room : (poolOf s (tile / 1536)).inUse < (poolOf s (tile / 1536)).size := by
    simp only [tokenFor, Bool.and_eq_true, decide_eq_true_eq] at free
    exact free.1
  obtain ⟨u, hu⟩ : ∃ u, u = takeToken tile s := ⟨_, rfl⟩
  have taken := hu.trans (takeToken_free none free)
  have rest : u = { s with tiles := u.tiles, pools := u.pools } := by rw [taken]; rfl
  have own : tileOf u tile = { tileOf s tile with token := true } := by rw [taken]; exact tileOf_modTile_same _ _ _
  have others (v : Nat) (hv : v ≠ tile) : tileOf u v = tileOf s v := by rw [taken]; exact tileOf_modTile_ne _ _ hv
  have pool : poolOf u (tile / 1536) = { poolOf s (tile / 1536) with
      inUse := (poolOf s (tile / 1536)).inUse + 1, waiters := (poolOf s (tile / 1536)).waiters.erase tile } := by
    rw [taken]
    exact poolOf_modPool_same (tile / 1536) (fun p => { p with inUse := p.inUse + 1, waiters := p.waiters.erase tile }) s
  have regs : u.regs = s.regs := by rw [rest]
  have cfg : lcfg u tile req.layer = lcfg s tile req.layer := rd_congr regs _ _
  have layer : tlOf u tile req.layer = tlOf s tile req.layer := by rw [tlOf, tlOf, rest]
  obtain ⟨frame, pending, token, run, tiles⟩ := startPass_spec (s := u) (tile := tile) (req := req) (by rw [own]; exact behind)
  rw [cfg, layer] at run
  refine ⟨_, hu ▸ exec_passStart ready asked valid none free, ?_, pending, by rw [token, own], run, ?_, room,
    fun v hv => (tiles v hv).trans (others v hv)⟩
  · rw [frame, rest]
  · rw [frame]
    exact pool

/-! ### Waves (R93, R95, R100) -/

theorem exec_passWaveConverted {s : State} {tile : Nat} {convs : List Conv} {r : PassRun}
    (running : (tileOf s tile).running = some r) (kind : r.req.kind ≤ 1) (wave : r.wave < 8) (len : convs.length = 128)
    (ok : ∀ c ∈ convs, 4 / 5 ≤ c.γ ∧ c.γ ≤ 5 / 4 ∧ -16 ≤ c.off ∧ c.off ≤ 16) :
    exec (.passWaveConverted tile convs) s = .next (emit (.fabric 1 (clOfTile tile) tagWave
      ([tile, r.req.layer, r.range, r.wave, r.req.part] ++ (waveCodes s tile r convs).map fun c => toTwos 16 (clampCode c)))
      (recordWave tile r.req.layer r.range r.wave (r.req.kind == 1) 0 (waveCodes s tile r convs)
        (modTile tile (fun x => { x with running := some { r with wave := r.wave + 1 } }) s))) := by
  have all : convs.all convOk = true := by
    rw [List.all_eq_true]
    intro c hc
    obtain ⟨h1, h2, h3, h4⟩ := ok c hc
    simp [convOk, h1, h2, h3, h4]
  show execPassWaveConverted tile convs s = _
  simp [execPassWaveConverted, done, running, kind, wave, len, all]

theorem clampCode_eq (c : Int) : clampCode c = max (-256) (min 255 c) := by
  unfold clampCode
  split
  · omega
  · split <;> omega

@[simp] theorem outer_wr (r : Reg) (i : Nat) (w : Word) (s : State) : outer (wr r i w s) = outer s := rfl

@[simp] theorem outer_recordSat (t layer range : Nat) (trans : Bool) (idx : Nat) (high : Bool) (s : State) :
    outer (recordSat t layer range trans idx high s) = outer s := by
  unfold recordSat
  dsimp only
  rw [whenS_eq outer (outer_logE _ _), outer_wr, outer_bumpSat, outer_setEv, outer_setEv]

/-- A clamped conversion is shown in its tile. -/
theorem rb_recordSat (t layer range : Nat) (trans : Bool) (idx : Nat) (high : Bool) (s : State) :
    rb (recordSat t layer range trans idx high s) .TILE_STAT 4 t = true := by
  unfold recordSat
  dsimp only
  refine (whenS_eq (fun u => rb u .TILE_STAT 4 t) (rb_logE _ _ _ _ _ (by decide))).trans ?_
  have later (u : State) (w : Word) : rd (wr .TILE_SAT_LAST t w (bumpSat .TILE_SAT_CNT 31 0 1 t
      (setEv .TILE_SAT (idx % 32) (t * 32 + idx / 32) u))) .TILE_STAT t = rd u .TILE_STAT t := by
    rw [rd_wr_of_ne _ _ (by decide), bumpSat, wrf, rd_wr_of_ne _ _ (by decide), setEv, wrf, rd_wr_of_ne _ _ (by decide)]
  rw [rb, later]
  exact rb_setEv_same _ _ _ _ (by decide)

theorem outer_recordWave (t layer range w : Nat) (trans : Bool) (a : Nat) (cs : List Int) (s : State) :
    outer (recordWave t layer range w trans a cs s) = outer s := by
  induction cs generalizing a s with
  | nil => rfl
  | cons c cs ih =>
    rw [recordWave, ih]
    split
    · exact outer_recordSat _ _ _ _ _ _ _
    · rfl

/-- A wave without a clamped conversion records nothing. -/
theorem recordWave_of_unclamped {cs : List Int} (h : ∀ c ∈ cs, -256 < c ∧ c < 255) (t layer range w : Nat) (trans : Bool) (a : Nat)
    (s : State) : recordWave t layer range w trans a cs s = s := by
  induction cs generalizing a s with
  | nil => rfl
  | cons c cs ih =>
    have inside : isClamped c = false := by
      have := h c List.mem_cons_self
      simp [isClamped, this]
    rw [recordWave, ih (fun d hd => h d (List.mem_cons_of_mem _ hd)), inside]
    rfl

/-- Saturation once shown stays shown through the rest of the wave. -/
theorem rb_recordWave_of_set (t layer range w : Nat) (trans : Bool) (a : Nat) (cs : List Int) {s : State}
    (h : rb s .TILE_STAT 4 t = true) : rb (recordWave t layer range w trans a cs s) .TILE_STAT 4 t = true := by
  induction cs generalizing a s with
  | nil => exact h
  | cons c cs ih =>
    rw [recordWave]
    refine ih _ ?_
    split
    · exact rb_recordSat _ _ _ _ _ _ _
    · exact h

theorem rb_recordWave_of_clamped {cs : List Int} (h : ∃ c ∈ cs, c ≤ -256 ∨ 255 ≤ c) (t layer range w : Nat) (trans : Bool) (a : Nat)
    (s : State) : rb (recordWave t layer range w trans a cs s) .TILE_STAT 4 t = true := by
  induction cs generalizing a s with
  | nil => simp at h
  | cons c cs ih =>
    rw [recordWave]
    by_cases hc : c ≤ -256 ∨ 255 ≤ c
    · have clamped : isClamped c = true := by simpa [isClamped] using hc
      rw [if_pos clamped]
      exact rb_recordWave_of_set _ _ _ _ _ _ _ (rb_recordSat _ _ _ _ _ _ _)
    · obtain ⟨d, hd, out⟩ := h
      rcases List.mem_cons.mp hd with rfl | hd
      · exact absurd out hc
      · exact ih ⟨d, hd, out⟩ _ _

/-! ### The end of a pass (R91, R112) -/

theorem exec_passEnd {s : State} {tile : Nat} {r : PassRun} (running : (tileOf s tile).running = some r) (kind : r.req.kind ≤ 1)
    (wave : r.wave = 8) : exec (.passEnd tile) s = .next (endPass tile r s) := by
  have row : r.req.kind ≠ 2 := by omega
  show execPassEnd tile s = _
  simp [execPassEnd, done, running, wave, row]

/-- A 64-bit counter counts modulo 2^64, and no other register changes. -/
theorem bump64_spec {lo hi : Reg} (hne : lo ≠ hi) (n i : Nat) (hi20 : i < 2 ^ 20) (s : State) :
    (rd (bump64 lo hi n i s) lo i).toNat + 2 ^ 32 * (rd (bump64 lo hi n i s) hi i).toNat =
      ((rd s lo i).toNat + 2 ^ 32 * (rd s hi i).toNat + n) % 2 ^ 64 ∧
    SameRegs [(lo, i), (hi, i)] s (bump64 lo hi n i s) := by
  constructor
  · rw [bump64]
    rw [rd_wr_same, rd_wr_of_ne _ _ hne, rd_wr_same, BitVec.toNat_ofNat, BitVec.toNat_ofNat, Nat.shiftRight_eq_div_pow]
    omega
  · intro q j hj hq
    rw [bump64]
    rw [rd_wr_ne _ _ (by simp at hq ⊢; tauto) hi20 hj, rd_wr_ne _ _ (by simp at hq ⊢; tauto) hi20 hj]

/-- A finished pass of a kind is counted at its tile (R112, R113). -/
def countPass (kind tile : Nat) (s : State) : State :=
  if kind = 0 then bump64 .TILE_PASS_CNT_LO .TILE_PASS_CNT_HI 1 tile s
  else if kind = 1 then bump .TILE_TPASS_CNT 1 tile s else s

/-- A tile after its pass, whose codes may still have to be accepted. -/
def afterRun (r : PassRun) (x : Tile) : Tile :=
  { x with running := none, last := if decide (r.req.kind ≤ 1) && decide (r.taken < 8) then some r else none }

theorem endPass_eq (tile : Nat) (r : PassRun) (s : State) :
    endPass tile r s = returnToken tile (countPass r.req.kind tile (modTile tile (afterRun r) s)) := rfl

theorem countPass_frame (kind tile : Nat) (s : State) :
    countPass kind tile s = { s with regs := (countPass kind tile s).regs } := by
  unfold countPass
  split
  · rfl
  · split <;> rfl

theorem countPass_sameRegs (kind : Nat) {tile : Nat} (h : tile < 2 ^ 20) (s : State) :
    SameRegs [(.TILE_PASS_CNT_LO, tile), (.TILE_PASS_CNT_HI, tile), (.TILE_TPASS_CNT, tile)] s (countPass kind tile s) := by
  intro q i hi hq
  simp only [List.mem_cons, List.not_mem_nil, or_false, not_or] at hq
  obtain ⟨hlo, hhi, ht⟩ := hq
  unfold countPass
  split
  · exact (bump64_spec (by decide) 1 tile h s).2 q i hi (by simp [hlo, hhi])
  · split
    · exact bump_sameRegs _ _ _ h _ q i hi (by simp [ht])
    · rfl

theorem returnToken_held {s : State} {tile : Nat} (held : (tileOf s tile).token = true) :
    returnToken tile s = modTile tile (fun x => { x with token := false })
      (modPool (tile / 1536) (fun p => { p with inUse := p.inUse - 1 }) s) := by
  rw [returnToken, held]
  rfl

theorem ends_passEnd {s : State} {tile : Nat} {r : PassRun} (small : tile < 12288) (running : (tileOf s tile).running = some r)
    (kind : r.req.kind ≤ 1) (wave : r.wave = 8) (token : (tileOf s tile).token = true) :
    Ends (.passEnd tile) s fun t =>
      t = { s with tiles := t.tiles, regs := t.regs, pools := t.pools } ∧
      (tileOf t tile).running = none ∧ (tileOf t tile).token = false ∧ (∀ u, u ≠ tile → tileOf t u = tileOf s u) ∧
      poolOf t (tile / 1536) = { poolOf s (tile / 1536) with inUse := (poolOf s (tile / 1536)).inUse - 1 } ∧
      (r.req.kind = 0 → (rd t .TILE_PASS_CNT_LO tile).toNat + 2 ^ 32 * (rd t .TILE_PASS_CNT_HI tile).toNat =
        ((rd s .TILE_PASS_CNT_LO tile).toNat + 2 ^ 32 * (rd s .TILE_PASS_CNT_HI tile).toNat + 1) % 2 ^ 64) ∧
      (r.req.kind = 1 → (rd t .TILE_TPASS_CNT tile).toNat = ((rd s .TILE_TPASS_CNT tile).toNat + 1) % 2 ^ 32) ∧
      SameRegs [(.TILE_PASS_CNT_LO, tile), (.TILE_PASS_CNT_HI, tile), (.TILE_TPASS_CNT, tile)] s t := by
  obtain ⟨u, hu⟩ : ∃ u, u = modTile tile (afterRun r) s := ⟨_, rfl⟩
  obtain ⟨v, hv⟩ : ∃ v, v = countPass r.req.kind tile u := ⟨_, rfl⟩
  have counted : v = { u with regs := v.regs } := by rw [hv]; exact countPass_frame _ _ _
  have tiles : v.tiles = u.tiles := by rw [counted]
  have ownTile : tileOf v tile = afterRun r (tileOf s tile) := by
    rw [tileOf, tiles, hu]
    exact tileOf_modTile_same _ _ _
  have ended : endPass tile r s = modTile tile (fun x => { x with token := false })
      (modPool (tile / 1536) (fun p => { p with inUse := p.inUse - 1 }) v) := by
    rw [endPass_eq, ← hu, ← hv, returnToken_held (by rw [ownTile]; exact token)]
  have regs : ∀ q i, rd u q i = rd s q i := fun q i => by rw [hu]; exact rd_congr rfl q i
  have own : tileOf (endPass tile r s) tile = { afterRun r (tileOf s tile) with token := false } := by
    rw [ended, tileOf_modTile_same]
    exact congrArg (fun x : Tile => { x with token := false }) ownTile
  have last : ∀ q i, rd (endPass tile r s) q i = rd v q i := fun q i => by rw [ended]; exact rd_congr rfl q i
  refine ⟨_, exec_passEnd running kind wave, ?_, by rw [own]; rfl, by rw [own], fun w hw => ?_, ?_, fun h0 => ?_, fun h1 => ?_,
    fun q i hi hq => ?_⟩
  · rw [ended, counted, hu]
    rfl
  · rw [ended, tileOf_modTile_ne _ _ hw]
    show tileOf v w = _
    rw [tileOf, tiles, hu]
    exact tileOf_modTile_ne _ _ hw
  · rw [ended]
    refine (poolOf_modPool_same (tile / 1536) (fun p => { p with inUse := p.inUse - 1 }) v).trans ?_
    rw [poolOf, counted, hu]
    rfl
  · rw [last, last, hv, countPass, if_pos h0, (bump64_spec (by decide) 1 tile (by omega) u).1, regs, regs]
  · rw [last, hv, countPass, if_neg (by omega), if_pos h1, rd_bump_same, regs]
  · rw [last, hv, countPass_sameRegs _ (by omega) u q i hi hq, regs]

/-! ### The obligation -/

theorem ends_passWaveConverted {s : State} {tile : Nat} {convs : List Conv} {r : PassRun}
    (running : (tileOf s tile).running = some r) (kind : r.req.kind ≤ 1) (wave : r.wave < 8) (len : convs.length = 128)
    (ok : ∀ c ∈ convs, 4 / 5 ≤ c.γ ∧ c.γ ≤ 5 / 4 ∧ -16 ≤ c.off ∧ c.off ≤ 16) :
    Ends (.passWaveConverted tile convs) s fun t =>
      t = { s with tiles := t.tiles, regs := t.regs, sil := t.sil, fns := t.fns, out := t.out } ∧
      tileOf t tile = { tileOf s tile with running := some { r with wave := r.wave + 1 } } ∧
      (∀ u, u ≠ tile → tileOf t u = tileOf s u) ∧
      t.out.head? = some (.fabric 1 (clOfTile tile) tagWave ([tile, r.req.layer, r.range, r.wave, r.req.part] ++
        (waveCodes s tile r convs).map fun c => toTwos 16 (max (-256) (min 255 c)))) ∧
      ((∀ c ∈ waveCodes s tile r convs, -256 < c ∧ c < 255) → t.regs = s.regs ∧ t.sil = s.sil ∧ t.fns = s.fns) ∧
      ((∃ c ∈ waveCodes s tile r convs, c ≤ -256 ∨ 255 ≤ c) → rb t .TILE_STAT 4 tile = true) := by
  have ran := exec_passWaveConverted running kind wave len ok
  simp only [clampCode_eq] at ran
  generalize waveCodes s tile r convs = codes at ran ⊢
  obtain ⟨u, hu⟩ : ∃ u, u = modTile tile (fun x => { x with running := some { r with wave := r.wave + 1 } }) s := ⟨_, rfl⟩
  obtain ⟨v, hv⟩ : ∃ v, v = recordWave tile r.req.layer r.range r.wave (r.req.kind == 1) 0 codes u := ⟨_, rfl⟩
  rw [← hu, ← hv] at ran
  have recorded : v = { u with regs := v.regs, sil := v.sil, out := v.out, fns := v.fns } :=
    eq_of_outer (hv ▸ outer_recordWave _ _ _ _ _ _ _ _)
  have tiles (w : Nat) : tileOf v w = tileOf u w := by rw [tileOf, recorded, tileOf]
  refine ⟨_, ran, ?_, ?_, fun w hw => ?_, rfl, fun inside => ?_, fun out => ?_⟩
  · rw [recorded, hu]
    rfl
  · refine (tiles tile).trans ?_
    rw [hu]
    exact tileOf_modTile_same _ _ _
  · refine (tiles w).trans ?_
    rw [hu]
    exact tileOf_modTile_ne _ _ hw
  · have same : v = u := hv.trans (recordWave_of_unclamped inside _ _ _ _ _ _ _)
    rw [same, hu]
    exact ⟨rfl, rfl, rfl⟩
  · show rb v .TILE_STAT 4 tile = true
    rw [hv]
    exact rb_recordWave_of_clamped out _ _ _ _ _ _ _

/-- Settles O1, event by event. -/
theorem tilePassLifecycle : Obligations.TilePassLifecycle := by
  refine ⟨?_, ?_, fun tile s => ⟨_, rfl, modTile_alone tile _ s⟩, ?_, ?_, ?_⟩
  · intro tile req parity s hdbg free first good up valid
    have ran := exec_passRequest (parity := parity) hdbg free first good
    rw [admitReq_admissible up valid] at ran
    by_cases hold : req.kind ≤ 1 ∧ refreshHolds s (tlKey tile req.layer) = true
    · rw [if_pos hold] at ran
      exact ⟨_, ran, rfl, fun _ => ⟨tileOf_modTile_same _ _ _, rfl⟩, fun h => absurd hold h, fun u hu => tileOf_modTile_ne _ _ hu⟩
    · rw [if_neg hold] at ran
      obtain ⟨own, pools, others⟩ := setPending_spec tile req s
      exact ⟨_, ran, rfl, fun h => absurd h hold, fun _ => ⟨own, pools⟩, others⟩
  · intro tile req s hdbg asked other settled noRow
    exact ⟨_, exec_layerSwitchStart hdbg asked other settled noRow, modTile_alone tile _ s⟩
  · intro tile req s ready asked valid behind none free
    exact ends_passStart ready asked valid behind none free
  · intro tile convs r s _ running kind wave len ok
    exact ends_passWaveConverted running kind wave len ok
  · intro tile r s small running kind wave token
    exact ends_passEnd small running kind wave token

end Sys2Proof.Machine

namespace Sys2Proof.Machine
open Sys2Proof

/-! ### What the work around a load leaves (R219 to R232)

Three views of a state, each a part of the next: what lasts while sections are placed and an image is activated, what lasts while
commands complete, and what lasts while anything else happens that a load brings about. -/

/-- The registers that tell of a load: its failure (R236), the states of the tiles (R116), the refusal of an access (R300). -/
def loadReg (q : Reg) : Bool := q == .SET_ERR || q == .SET_ERR_ENTRY || q == .HUB_MEM_ERR_STAT || q == .TILE_CFG

/-- A command without the status that a unit laid upon it. -/
def unflagged (c : Cmd) : Cmd := { c with err := none }

/-- The images, and a register. -/
def imageView (q : Reg) (s : State) : Tab Image × (Nat → Word) := (s.images, fun i => rd s q i)

/-- The images, a register, device memory, and which contexts have a load. -/
def lastView (q : Reg) (s : State) : (Tab Image × (Nat → Word)) × List Host.Cell × (Nat → Bool) :=
  (imageView q s, s.mem, fun k => (loadOf s k).isSome)

/-- What a completion record depends on: the link, the queues, the free slots, the functions in a reset, the commands. -/
def workView (s : State) : Pcie × Tab QueueS × List Nat × (Nat → Bool) × (Nat → Option Cmd) :=
  (s.pcie, s.queues, s.slotFree, fun fn => (fnOf s fn).inFlr, fun h => (cmdOf s h).map unflagged)

/-- What lasts, and what a completion record depends on. -/
def calmView (q : Reg) (s : State) : ((Tab Image × (Nat → Word)) × List Host.Cell × (Nat → Bool)) ×
    Pcie × Tab QueueS × List Nat × (Nat → Bool) × (Nat → Option Cmd) :=
  (lastView q s, workView s)

section
variable {q : Reg} {s t : State}

theorem lastView_of_calm (h : calmView q t = calmView q s) : lastView q t = lastView q s := congrArg Prod.fst h
theorem workView_of_calm (h : calmView q t = calmView q s) : workView t = workView s := congrArg Prod.snd h
theorem cmdOf_of_work (h : workView t = workView s) (n : Nat) : (cmdOf t n).map unflagged = (cmdOf s n).map unflagged :=
  congrFun (congrArg (·.2.2.2.2) h) n
theorem imageView_of_last (h : lastView q t = lastView q s) : imageView q t = imageView q s := congrArg Prod.fst h
theorem rd_of_image (h : imageView q t = imageView q s) (i : Nat) : rd t q i = rd s q i := congrFun (congrArg Prod.snd h) i
theorem rd_of_last (h : lastView q t = lastView q s) (i : Nat) : rd t q i = rd s q i := rd_of_image (imageView_of_last h) i
theorem mem_of_last (h : lastView q t = lastView q s) : t.mem = s.mem := congrArg (·.2.1) h
theorem isSome_loadOf_of_last (h : lastView q t = lastView q s) (k : Nat) : (loadOf t k).isSome = (loadOf s k).isSome :=
  congrFun (congrArg (·.2.2) h) k

/-- What both branches of a choice leave, the choice leaves. -/
theorem ite_eq {α : Type} (g : State → α) {p : Prop} [Decidable p] {a b : State} (ha : g a = g s) (hb : g b = g s) :
    g (if p then a else b) = g s := by
  split
  · exact ha
  · exact hb

/-- What changes registers, Silset, messages and the functions' state alone is calm where it leaves the register and the resets. -/
theorem calmView_of_outer (h : outer t = outer s) (hr : ∀ i, rd t q i = rd s q i) (hf : ∀ fn, (fnOf t fn).inFlr = (fnOf s fn).inFlr) :
    calmView q t = calmView q s := by
  have view (u : State) : calmView q u = (((((outer u).images, fun i => rd u q i), (outer u).mem,
    fun k => (loadOf (outer u) k).isSome), (outer u).pcie, (outer u).queues, (outer u).slotFree,
    fun fn => (fnOf u fn).inFlr, fun h => (cmdOf (outer u) h).map unflagged)) := rfl
  rw [view, view, h, funext hr, funext hf]

theorem ne_of_loadReg {r : Reg} (hq : loadReg q = true) (hr : loadReg r = false) : q ≠ r := by
  rintro rfl
  rw [hq] at hr
  exact Bool.noConfusion hr

theorem calmView_wr {r : Reg} (h : q ≠ r) (i : Nat) (w : Word) (s : State) : calmView q (wr r i w s) = calmView q s :=
  calmView_of_outer rfl (fun _ => rd_wr_of_ne _ _ h) fun _ => rfl

theorem calmView_wrf {r : Reg} (h : q ≠ r) (hi lo v i : Nat) (s : State) : calmView q (wrf r hi lo v i s) = calmView q s :=
  calmView_wr h _ _ _

theorem calmView_setEv {r : Reg} (h : q ≠ r) (k i : Nat) (s : State) : calmView q (setEv r k i s) = calmView q s :=
  calmView_wr h _ _ _

theorem calmView_bump {r : Reg} (h : q ≠ r) (n i : Nat) (s : State) : calmView q (bump r n i s) = calmView q s :=
  calmView_wr h _ _ _

theorem calmView_bumpSat {r : Reg} (h : q ≠ r) (hi lo n i : Nat) (s : State) : calmView q (bumpSat r hi lo n i s) = calmView q s :=
  calmView_wr h _ _ _

end

/-! A function's resets are not touched by what is signalled and logged. -/

theorem inFlr_modFn (f : Fn → Fn) (hf : ∀ x, (f x).inFlr = x.inFlr) (n fn : Nat) (s : State) :
    (fnOf (modFn n f s) fn).inFlr = (fnOf s fn).inFlr := by
  simp only [fnOf, modFn, tmod, tget_tset]
  split
  next h => rw [hf, h]
  next => rfl

theorem inFlr_sendMsix (n vec fn : Nat) (s : State) : (fnOf (sendMsix n vec s) fn).inFlr = (fnOf s fn).inFlr := by
  unfold sendMsix
  split
  · rfl
  · split
    · exact inFlr_modFn (fun f => { f with pend := tset 0 f.pend vec 1 }) (fun _ => rfl) n fn s
    · rfl

theorem inFlr_logE (e : LogEntry) (fn : Nat) (s : State) : (fnOf (logE e s) fn).inFlr = (fnOf s fn).inFlr := by
  have mirrored (e : LogEntry) (s : State) : (fnOf (putMirror e s) fn).inFlr = (fnOf s fn).inFlr := by rw [putMirror_frame]; rfl
  unfold logE
  dsimp only
  split
  · unfold putLog
    exact (whenS_eq (fun u => (fnOf u fn).inFlr) (inFlr_sendMsix _ _ _ _)).trans (mirrored _ _)
  · split <;> rfl

section
variable {q : Reg} (hq : loadReg q = true)
include hq

theorem calmView_logE (e : LogEntry) (s : State) : calmView q (logE e s) = calmView q s :=
  calmView_of_outer (outer_logE e s) (fun i => rd_logE e s q i (ne_of_loadReg hq rfl)) fun fn => inFlr_logE e fn s

omit hq in
theorem calmView_sendMsix (n vec : Nat) (s : State) : calmView q (sendMsix n vec s) = calmView q s :=
  calmView_of_outer (outer_sendMsix n vec s) (fun i => rd_sendMsix n vec s q i) fun fn => inFlr_sendMsix n vec fn s

/-- A bus error that no function's access caused reports nothing through AER (R455, R459). -/
theorem calmView_hubErr {source : Nat} (h : source ≠ 0) (cause space addr func : Nat) (write : Bool) (s : State) :
    calmView q (hubErr cause space addr func source write s) = calmView q s := by
  rw [hubErr, if_neg h]
  unfold hubErrA
  dsimp only
  rw [whenS_eq (calmView q) (calmView_sendMsix _ _ _), calmView_logE hq]
  split
  · rw [calmView_bumpSat (ne_of_loadReg hq rfl), calmView_setEv (ne_of_loadReg hq rfl)]
  · rw [calmView_wr (ne_of_loadReg hq rfl), calmView_wr (ne_of_loadReg hq rfl), calmView_wr (ne_of_loadReg hq rfl),
      calmView_bumpSat (ne_of_loadReg hq rfl), calmView_setEv (ne_of_loadReg hq rfl)]

/-! Faults of units, and requests that tiles refuse (R88, R108, R138). -/

omit hq in
theorem cmdOf_errSteps (im status h : Nat) (s : State) :
    (cmdOf (errSteps im status s) h).map unflagged = (cmdOf s h).map unflagged := by
  have key (e : Nat × Cmd) : (if e.2.run && e.2.im == some im && [0x13, 0x14, 0x18].contains e.2.op && e.2.err.isNone then
      (e.1, { e.2 with err := some status }) else e).1 = e.1 := by split <;> rfl
  have val (e : Nat × Cmd) : unflagged (if e.2.run && e.2.im == some im && [0x13, 0x14, 0x18].contains e.2.op && e.2.err.isNone then
      (e.1, { e.2 with err := some status }) else e).2 = unflagged e.2 := by split <;> rfl
  simp only [cmdOf, errSteps, List.find?_map, Option.map_map]
  have same : ((fun e : Nat × Cmd => e.1 == h) ∘ fun e => if e.2.run && e.2.im == some im && [0x13, 0x14, 0x18].contains e.2.op &&
      e.2.err.isNone then (e.1, { e.2 with err := some status }) else e) = fun e => e.1 == h := by
    funext e
    rw [Function.comp, key]
  rw [same]
  cases s.cmds.find? fun e => e.1 == h with
  | none => rfl
  | some e => exact congrArg some (val e)

omit hq in
theorem calmView_errSteps (im status : Nat) (s : State) : calmView q (errSteps im status s) = calmView q s := by
  have cores := funext fun h => cmdOf_errSteps im status h s
  unfold calmView workView
  rw [cores]
  rfl

theorem calmView_accErr (cl cause tile layer part : Nat) (s : State) : calmView q (accErr cl cause tile layer part s) = calmView q s := by
  rw [accErr, calmView_logE hq, calmView_wr (ne_of_loadReg hq rfl), calmView_setEv (ne_of_loadReg hq rfl)]

theorem calmView_accFault (cl part im vec cause tile layer : Nat) (pos : Option Nat) (status : Nat) (s : State) :
    calmView q (accFault cl part im vec cause tile layer pos status s) = calmView q s := by
  have told := (calmView_errSteps im status _).trans (calmView_accErr hq cl cause tile layer part s)
  unfold accFault
  dsimp only
  split <;> exact told

theorem calmView_refuseReq (t : Nat) (req : PassReq) (bit code sev status : Nat) (s : State) :
    calmView q (refuseReq t req bit code sev status s) = calmView q s := by
  have told (m : Msg) (e : LogEntry) : calmView q (emit m (logE e (setEv .TILE_STAT bit t s))) = calmView q s :=
    (calmView_logE hq _ _).trans (calmView_setEv (ne_of_loadReg hq rfl) _ _ _)
  unfold refuseReq
  dsimp only
  split
  · rw [calmView_accFault hq, told]
  · exact told _ _

theorem calmView_admitReq (t : Nat) (req : PassReq) (ok : Bool) (s : State) : calmView q (admitReq t req ok s) = calmView q s := by
  unfold admitReq
  split
  · exact calmView_refuseReq hq _ _ _ _ _ _ _
  · split
    · exact calmView_refuseReq hq _ _ _ _ _ _ _
    · split
      · exact calmView_refuseReq hq _ _ _ _ _ _ _
      · split <;> rfl

theorem calmView_admitHeld (t : Nat) (rs : List PassReq) (s : State) : calmView q (admitHeld t rs s) = calmView q s := by
  induction rs generalizing s with
  | nil => rfl
  | cons r rs ih =>
    rw [admitHeld]
    split
    · exact calmView_admitReq hq t r true s
    · exact (ih _).trans (calmView_admitReq hq t r true s)

/-! Program operations are asked for and taken off (R182 to R185, R224). -/

theorem calmView_backFromAside (tl : Nat) (s : State) : calmView q (backFromAside tl s) = calmView q s := by
  unfold backFromAside
  dsimp only
  split
  · exact calmView_admitHeld hq _ _ _
  · rfl

theorem calmView_dropRowReq (tl : Nat) (s : State) : calmView q (dropRowReq tl s) = calmView q s := by
  unfold dropRowReq
  dsimp only
  split
  · exact calmView_admitHeld hq _ _ _
  · rfl

theorem calmView_endProg (tl : Nat) (s : State) : calmView q (endProg tl s) = calmView q s := by
  rw [endProg, calmView_backFromAside hq]
  rfl

omit hq in
theorem calmView_dropPage (tl : Nat) (s : State) : calmView q (dropPage tl s) = calmView q s := rfl

theorem calmView_dropProg (tl : Nat) (s : State) : calmView q (dropProg tl s) = calmView q s := by
  rw [dropProg, calmView_dropPage, calmView_endProg hq, calmView_dropRowReq hq]

omit hq in
theorem calmView_requestProg (tl : Nat) (o : ProgOp) (s : State) : calmView q (requestProg tl o s) = calmView q s :=
  whenS_eq (calmView q) rfl

omit hq in
/-- A change of a load leaves every context with a load, or without one, as it was. -/
theorem isSome_loadOf_modLoad (k : Nat) (f : Load → Load) (s : State) (j : Nat) :
    (loadOf (modLoad k f s) j).isSome = (loadOf s j).isSome := by
  simp only [loadOf, cxOf, modLoad, modCx, tmod, tget_tset]
  split
  next h => rw [h]; exact Option.isSome_map
  next => rfl

omit hq in
theorem calmView_modLoad (k : Nat) (f : Load → Load) (s : State) : calmView q (modLoad k f s) = calmView q s := by
  have held := funext fun j => isSome_loadOf_modLoad k f s j
  unfold calmView lastView
  rw [held]
  rfl

theorem calmView_enterLoad (k : Nat) (s : State) : calmView q (enterLoad k s) = calmView q s := by
  unfold enterLoad
  split
  · split
    · rfl
    · rw [calmView_modLoad, calmView_logE hq]
  · rfl

theorem calmView_prepare (k : Nat) (i : Image) (p : PlaceE) (s : State) : calmView q (prepare k i p s) = calmView q s := by
  unfold prepare
  dsimp only
  split
  · exact calmView_modLoad _ _ _
  · split
    · rw [calmView_requestProg, calmView_modLoad, calmView_dropProg hq]
    · rfl

/-! Payloads are asked for (R225, R413, R415). -/

omit hq in
theorem calmView_emit (m : Msg) (s : State) : calmView q (emit m s) = calmView q s := rfl

theorem calmView_transmit (p n ty psn : Nat) (data : List Nat) (s : State) : calmView q (transmit p n ty psn data s) = calmView q s := by
  unfold transmit
  dsimp only
  split
  · rfl
  · split
    · rfl
    · rw [putFrames, calmView_emit, calmView_bump (ne_of_loadReg hq rfl)]

theorem calmView_sendAsk (a : Ask) (s : State) : calmView q (sendAsk a s) = calmView q s := by
  unfold sendAsk relaySend qpSend
  dsimp only
  split
  · rfl
  · exact calmView_transmit hq _ _ _ _ _ _

theorem calmView_putAsk (k h qp ty n : Nat) (args : List Nat) (s : State) : calmView q (putAsk k h qp ty n args s) = calmView q s := by
  unfold putAsk
  exact whenS_eq (calmView q) (calmView_sendAsk hq _ _)

theorem calmView_askPayload (k h : Nat) (l : Load) (i : Image) (rec : Nat) (s : State) :
    calmView q (askPayload k h l i rec s) = calmView q s := by
  unfold askPayload
  dsimp only
  split
  · split <;> rfl
  · exact calmView_putAsk hq _ _ _ _ _ _ _
  · rfl

theorem calmView_askPayloads (k : Nat) (recs : List Nat) (s : State) : calmView q (askPayloads k recs s) = calmView q s := by
  unfold askPayloads
  split
  · rfl
  · exact (foldS_eq (calmView q) (calmView_askPayload hq _ _ _ _) _ _).trans (calmView_modLoad _ _ _)

/-! What an image had is released (R226, R267). -/

theorem calmView_journalBy (x : LogEntry) (off old new mask : Nat) (enter : Bool) (s : State) :
    calmView q (journalBy x off old new mask enter s) = calmView q s := by
  unfold journalBy
  dsimp only
  split
  · split
    · rfl
    · exact whenS_eq (calmView q) (calmView_logE hq _ _)
  · exact whenS_eq (calmView q) (calmView_logE hq _ _)

theorem calmView_loaderLcfg (tl : Nat) (w : Word) (h : Option Nat) (s : State) :
    calmView q (loaderLcfg tl w h s) = calmView q s := by
  rw [loaderLcfg, calmView_journalBy hq, calmView_wr (ne_of_loadReg hq rfl)]

theorem calmView_clearValid (h : Option Nat) (tl : Nat) (s : State) : calmView q (clearValid h tl s) = calmView q s :=
  (calmView_loaderLcfg hq _ _ _ _).trans rfl

omit hq in
theorem calmView_setTileState (h : q ≠ .TILE_CFG) (t st : Nat) (s : State) : calmView q (setTileState t st s) = calmView q s := by
  unfold setTileState
  split
  · rfl
  · exact calmView_wrf h _ _ _ _ _

omit hq in
theorem calmView_dropShadow (tl : Nat) (s : State) : calmView q (dropShadow tl s) = calmView q s := rfl

theorem calmView_releaseTls (hc : q ≠ .TILE_CFG) (h : Option Nat) (tls : List Nat) (s : State) :
    calmView q (releaseTls h tls s) = calmView q s := by
  unfold releaseTls
  exact (foldS_eq (calmView q) (fun t => calmView_setTileState hc t 0) _ _).trans
    (foldS_eq (calmView q) (fun tl u => (calmView_dropShadow _ _).trans (calmView_clearValid hq h tl u)) _ _)

omit hq in
theorem calmView_ackPart (cl part : Nat) (s : State) : calmView q (ackPart cl part s) = calmView q s := by
  unfold ackPart
  split
  · rfl
  · split <;> rfl

theorem calmView_ctxFault (cl n code pc : Nat) (s : State) : calmView q (ctxFault cl n code pc s) = calmView q s := by
  unfold ctxFault
  split
  · rfl
  · dsimp only
    rw [calmView_logE hq, calmView_wr (ne_of_loadReg hq rfl), calmView_wr (ne_of_loadReg hq rfl),
      calmView_setEv (ne_of_loadReg hq rfl)]
    rfl

theorem calmView_refuseArrival (cl : Nat) (r : VArr) (s : State) : calmView q (refuseArrival cl r s) = calmView q s := by
  have answered (s : State) : calmView q (answerRefused cl stExec r s) = calmView q s := by
    unfold answerRefused
    dsimp only
    split
    · split
      · exact (calmView_ackPart _ _ _).trans (calmView_errSteps _ _ _)
      · rfl
    · rfl
    · exact calmView_ctxFault hq _ _ _ _ _
  rw [refuseArrival, calmView_logE hq, answered, calmView_setEv (ne_of_loadReg hq rfl)]

omit hq in
theorem calmView_closeReq (kind index slot : Nat) (s : State) : calmView q (closeReq kind index slot s) = calmView q s := rfl

theorem calmView_dropCode (im : Nat) (s : State) : calmView q (dropCode im s) = calmView q s := by
  unfold dropCode
  dsimp only
  refine (foldS_eq (calmView q) (fun e u => ?_) _ _).trans ?_
  · exact (whenS_eq (calmView q) rfl).trans (foldS_eq (calmView q) (calmView_refuseArrival hq e.1) _ _)
  · exact foldS_eq (calmView q) (fun e u => foldS_eq (calmView q) (fun _ _ => calmView_closeReq _ _ _ _) _ _) _ _

end

end Sys2Proof.Machine

namespace Sys2Proof.Machine
open Sys2Proof

/-! ### What the end of a command leaves (R227, R350, R357, R361) -/

/-- From `s` to `t` commands end and nothing else that concerns a load: no record is taken back, no freed slot taken. -/
structure Settled (s t : State) : Prop where
  view : ∀ q, loadReg q = true → lastView q t = lastView q s
  sent : s.out ⊆ t.out
  freed : s.slotFree ⊆ t.slotFree
  gone : ∀ h, cmdOf s h = none → cmdOf t h = none

namespace Settled
variable {s t u : State}

theorem refl (s : State) : Settled s s := ⟨fun _ _ => rfl, fun _ h => h, fun _ h => h, fun _ h => h⟩

theorem trans (h : Settled s t) (g : Settled t u) : Settled s u :=
  ⟨fun q hq => (g.view q hq).trans (h.view q hq), fun _ hm => g.sent (h.sent hm), fun _ hm => g.freed (h.freed hm),
    fun j hj => g.gone j (h.gone j hj)⟩

/-- What changes neither messages, slots nor commands ends none. -/
theorem of_same (hv : ∀ q, lastView q t = lastView q s) (ho : t.out = s.out) (hf : t.slotFree = s.slotFree) (hc : t.cmds = s.cmds) :
    Settled s t :=
  ⟨fun q _ => hv q, ho ▸ fun _ h => h, hf ▸ fun _ h => h, fun j hj => by rw [cmdOf, hc]; exact hj⟩

theorem of_calm (hv : ∀ q, loadReg q = true → calmView q t = calmView q s) (ho : s.out ⊆ t.out) : Settled s t := by
  have work := workView_of_calm (hv .SET_ERR rfl)
  have slots : t.slotFree = s.slotFree := congrArg (·.2.2.1) work
  refine ⟨fun q hq => lastView_of_calm (hv q hq), ho, slots ▸ fun _ h => h, fun h hn => ?_⟩
  rw [← Option.map_eq_none_iff (f := unflagged), cmdOf_of_work work, hn]
  rfl

theorem whenS {c : Bool} {f : State → State} (h : Settled s (f s)) : Settled s (whenS c f s) := by
  cases c
  · exact refl s
  · exact h

theorem foldS {β : Type} {f : β → State → State} (h : ∀ x s, Settled s (f x s)) (xs : List β) (s : State) :
    Settled s (foldS xs f s) := by
  unfold Machine.foldS
  induction xs generalizing s with
  | nil => exact refl s
  | cons x xs ih => exact (h x s).trans (ih _)

end Settled

/-- A command that has completed has done so when more commands end. -/
theorem Completed.mono {h : Nat} {c : Cmd} {st info val : Nat} {s t u : State} (done : Completed h c st info val s t)
    (more : Settled t u) : Completed h c st info val s u := by
  obtain ⟨hnone, hfree, hrec⟩ := done
  refine ⟨more.gone h hnone, more.freed hfree, fun hq hf hl => ?_⟩
  obtain ⟨a, fl, hd, hm⟩ := hrec hq hf hl
  exact ⟨a, fl, hd, more.sent hm⟩

/-- What a completion is depends on what its record depends on. -/
theorem Completed.of_work {h : Nat} {c c' : Cmd} {st info val : Nat} {s s' t : State} (work : workView s' = workView s)
    (same : unflagged c' = unflagged c) (done : Completed h c' st info val s' t) : Completed h c st info val s t := by
  have pcie : s'.pcie = s.pcie := congrArg (·.1) work
  have queues : s'.queues = s.queues := congrArg (·.2.1) work
  have flr (fn : Nat) : (fnOf s' fn).inFlr = (fnOf s fn).inFlr := congrFun (congrArg (·.2.2.2.1) work) fn
  have hfn : c'.fn = c.fn := (congrArg Cmd.fn same :)
  have hq : c'.q = c.q := (congrArg Cmd.q same :)
  have hgen : c'.gen = c.gen := (congrArg Cmd.gen same :)
  have hcid : c'.cid = c.cid := (congrArg Cmd.cid same :)
  have htag : c'.tag = c.tag := (congrArg Cmd.tag same :)
  have queue (k : Nat) : queueOf s' k = queueOf s k := by rw [queueOf, queues, queueOf]
  unfold Completed at done ⊢
  dsimp only at done ⊢
  rwa [queue, flr, pcie, hfn, hq, hgen, hcid, htag] at done

/-! The steps of a completion. -/

theorem modQueue_settled (k : Nat) (f : QueueS → QueueS) (s : State) : Settled s (modQueue k f s) :=
  .of_same (fun _ => rfl) rfl rfl rfl

theorem logE_settled (e : LogEntry) (s : State) : Settled s (logE e s) :=
  .of_calm (fun _ hq => calmView_logE hq e s) (logE_out e s)

theorem wr_settled {r : Reg} (hr : loadReg r = false) (i : Nat) (w : Word) (s : State) : Settled s (wr r i w s) :=
  .of_calm (fun _ hq => calmView_wr (ne_of_loadReg hq hr) i w s) fun _ h => h

theorem sendMsix_settled (n vec : Nat) (s : State) : Settled s (sendMsix n vec s) :=
  .of_calm (fun _ _ => calmView_sendMsix n vec s) (sendMsix_out n vec s)

theorem emit_settled (m : Msg) (s : State) : Settled s (emit m s) :=
  .of_calm (fun _ _ => calmView_emit m s) fun _ h => List.mem_cons_of_mem _ h

theorem setEv_settled {r : Reg} (hr : loadReg r = false) (k i : Nat) (s : State) : Settled s (setEv r k i s) :=
  wr_settled hr _ _ _

theorem bumpSat_settled {r : Reg} (hr : loadReg r = false) (hi lo n i : Nat) (s : State) : Settled s (bumpSat r hi lo n i s) :=
  wr_settled hr _ _ _

/-- A bus error that no function's access caused (R455, R459). -/
theorem hubErr_settled {source : Nat} (h : source ≠ 0) (cause space addr func : Nat) (write : Bool) (s : State) :
    Settled s (hubErr cause space addr func source write s) := by
  rw [hubErr, if_neg h]
  unfold hubErrA
  dsimp only
  refine .trans ?_ (.whenS (sendMsix_settled _ _ _))
  refine .trans ?_ (logE_settled _ _)
  split
  · refine .trans ?_ (bumpSat_settled rfl _ _ _ _ _)
    exact setEv_settled rfl _ _ s
  · refine .trans ?_ (wr_settled rfl _ _ _)
    refine .trans ?_ (wr_settled rfl _ _ _)
    refine .trans ?_ (wr_settled rfl _ _ _)
    refine .trans ?_ (bumpSat_settled rfl _ _ _ _ _)
    exact setEv_settled rfl _ _ s

theorem signal_settled (fn vec : Nat) (s : State) : Settled s (signal fn vec s) := by
  unfold signal
  split
  · exact sendMsix_settled _ _ _
  · exact hubErr_settled (by decide) _ _ _ _ _ _

theorem queueError_settled (k bit code : Nat) (s : State) : Settled s (queueError k bit code s) := by
  unfold queueError srvLog
  refine .trans ?_ (logE_settled _ _)
  refine .trans ?_ (modQueue_settled _ _ _)
  exact (wr_settled (r := .QM_STAT) rfl _ _ s).trans (wr_settled (r := .QM_STAT) rfl _ _ _)

theorem putRecord_settled (k kind handle cid status info tag value : Nat) (s : State) :
    Settled s (putRecord k kind handle cid status info tag value s) := by
  refine (modQueue_settled k (fun x => { x with resv := x.resv - 1 }) s).trans ?_
  unfold putRecord
  dsimp only
  split
  · exact .refl _
  · split
    · exact (modQueue_settled _ _ _).trans (queueError_settled _ _ _ _)
    · exact (modQueue_settled _ _ _).trans (emit_settled _ _)

theorem putRecord_record {k kind handle cid status info tag value : Nat} {s : State} (hq : (queueOf s k).recErr = false)
    (hf : (fnOf s (k / 64)).inFlr = false) (hl : s.pcie.linkUp = true) :
    ∃ a fl hd, Msg.hostWrite (k / 64) a ((recBytes handle cid (k % 64) fl status hd info tag value).map (·.toNat)) ∈
      (putRecord k kind handle cid status info tag value s).out := by
  have hf' : (fnOf (modQueue k (fun x => { x with resv := x.resv - 1 }) s) (k / 64)).inFlr = false := hf
  have hl' : (modQueue k (fun x => { x with resv := x.resv - 1 }) s).pcie.linkUp = true := hl
  unfold putRecord
  simp only [hq, hf', hl', Bool.or_self, Bool.false_eq_true, if_false, Bool.not_true]
  exact ⟨_, _, _, List.mem_cons_self⟩

theorem cmdOf_freeSlot_same (h : Nat) (s : State) : cmdOf (freeSlot h s) h = none := by
  rw [cmdOf, Option.map_eq_none_iff, List.find?_eq_none]
  intro e he heq
  have := (List.mem_filter.mp he).2
  simp_all

theorem freeSlot_settled (h : Nat) (s : State) : Settled s (freeSlot h s) := by
  refine ⟨fun _ _ => rfl, fun _ hm => hm, fun _ hm => List.mem_append_left _ hm, fun j hj => ?_⟩
  rw [cmdOf, Option.map_eq_none_iff, List.find?_eq_none] at hj ⊢
  exact fun e he => hj e (List.mem_filter.mp he).1

theorem freeRoom_settled (p : Nat → Bool) (s : State) : Settled s (freeRoom p s) := .of_same (fun _ => rfl) rfl rfl rfl

theorem modSeq_settled (i : Nat) (f : Seq → Seq) (s : State) : Settled s (modSeq i f s) := .of_same (fun _ => rfl) rfl rfl rfl

theorem releaseUnit_settled (a : Nat) (s : State) : Settled s (releaseUnit a s) := by
  unfold releaseUnit
  split
  · exact .of_same (fun _ => rfl) rfl rfl rfl
  · exact .refl _

theorem derefDesc_settled (d : Nat) (s : State) : Settled s (derefDesc d s) := by
  have dropped : Settled s { s with descs := tdel s.descs d } := .of_same (fun _ => rfl) rfl rfl rfl
  unfold derefDesc
  dsimp only
  split
  · exact dropped.trans (releaseUnit_settled _ _)
  · exact .of_same (fun _ => rfl) rfl rfl rfl

theorem dropPages_settled (ps : Tab PEnt) (s : State) : Settled s (dropPages ps s) :=
  .foldS (f := fun e : Nat × PEnt => derefDesc e.2.desc) (fun e u => derefDesc_settled e.2.desc u) ps s

theorem dropSlips_settled (i : Nat) (p : Nat → Bool) (s : State) : Settled s (dropSlips i p s) :=
  (modSeq_settled i _ s).trans (.foldS (fun (e : Nat × Nat) u => releaseUnit_settled (e.2 - 1) u) _ _)

theorem dropSeqData_settled (i : Nat) (s : State) : Settled s (dropSeqData i s) := by
  unfold dropSeqData
  refine .trans ?_ (dropSlips_settled i _ _)
  exact (modSeq_settled i _ s).trans (dropPages_settled _ _)

theorem freeSeqIdx_settled (i : Nat) (s : State) : Settled s (freeSeqIdx i s) :=
  (dropSeqData_settled i s).trans (modSeq_settled i _ _)

theorem freeSeqAll_settled (i : Nat) (s : State) : Settled s (freeSeqAll i s) :=
  (Settled.foldS freeSeqIdx_settled _ s).trans (freeSeqIdx_settled i _)

/-- A change of a context that leaves whether it has a load. -/
theorem lastView_modCx {q : Reg} {k : Nat} {f : Ctx → Ctx} (hf : ∀ c, (f c).load.isSome = c.load.isSome) (s : State) :
    lastView q (modCx k f s) = lastView q s := by
  have held : (fun j => (loadOf (modCx k f s) j).isSome) = fun j => (loadOf s j).isSome := by
    funext j
    simp only [loadOf, cxOf, modCx, tmod, tget_tset]
    split
    next h => rw [h, hf]
    next => rfl
  unfold lastView
  rw [held]
  rfl

theorem freeRetired_settled (s : State) : Settled s (freeRetired s) := by
  unfold freeRetired
  refine .foldS (fun i s => ?_) _ _
  refine .trans ?_ (freeSeqAll_settled i _)
  exact .of_same (fun _ => lastView_modCx (f := fun c => { c with goneSeq := c.goneSeq ++ [seqIdOf s i] }) (fun _ => rfl) s) rfl rfl rfl

theorem drained_settled (k : Nat) (s : State) : Settled s (drained k s) := by
  unfold drained
  split
  · exact modQueue_settled _ _ _
  · exact .refl _

/-! A command completes. -/

/-- What follows the record of a completion and its signal. -/
theorem afterRecord_settled (c : Cmd) (k h : Nat) (s : State) :
    Settled (freeSlot h s) (drained k (freeRetired (whenS (c.op == 1) (freeRoom (· == loadTurn (c.ctx / 32))) (freeSlot h s)))) := by
  refine .trans ?_ (drained_settled k _)
  refine .trans ?_ (freeRetired_settled _)
  exact .whenS (freeRoom_settled _ _)

theorem completeOne_settled (h status info value : Nat) (s : State) : Settled s (completeOne h status info value s) := by
  unfold completeOne
  split
  · exact .refl _
  next c _ =>
    refine .trans ?_ (afterRecord_settled c _ h _)
    refine .trans ?_ (freeSlot_settled h _)
    exact (putRecord_settled _ 1 _ _ _ _ _ _ s).trans (.whenS (signal_settled _ _ _))

theorem settleCancels_settled (n : Nat) (s : State) : Settled s (settleCancels n s) := by
  induction n generalizing s with
  | zero => exact .refl _
  | succ n ih =>
    rw [settleCancels]
    split
    · exact (completeOne_settled _ _ _ _ s).trans (ih _)
    · exact .refl _

theorem complete_settled (h status info value : Nat) (s : State) : Settled s (complete h status info value s) :=
  (completeOne_settled _ _ _ _ s).trans (settleCancels_settled _ _)

/-- The command of a slot that ends has completed. -/
theorem complete_completed {h : Nat} {c : Cmd} {s : State} (hc : cmdOf s h = some c) (status info value : Nat) :
    Completed h c status info value s (complete h status info value s) := by
  refine Completed.mono ?_ (settleCancels_settled _ _)
  unfold completeOne
  rw [hc]
  refine Completed.mono ?_ (afterRecord_settled c (qkOf c.fn c.q) h _)
  refine ⟨cmdOf_freeSlot_same _ _, List.mem_append_right _ List.mem_cons_self, fun hq hf hl => ?_⟩
  obtain ⟨a, fl, hd, hm⟩ := putRecord_record (kind := 1) (handle := handleOf c.gen h) (cid := c.cid) (status := status) (info := info)
    (tag := c.tag) (value := value) hq hf hl
  exact ⟨a, fl, hd, (Settled.whenS (signal_settled _ _ _)).sent hm⟩

/-! Requests for records after a load that has ended. -/

theorem transmit_out (p n ty psn : Nat) (data : List Nat) (s : State) : s.out ⊆ (transmit p n ty psn data s).out := by
  unfold transmit
  dsimp only
  split
  · exact fun _ h => h
  · split
    · exact fun _ h => h
    · exact fun _ h => List.mem_cons_of_mem _ h

theorem sendAsk_settled (a : Ask) (s : State) : Settled s (sendAsk a s) := by
  refine .of_calm (fun _ hq => calmView_sendAsk hq a s) ?_
  unfold sendAsk relaySend qpSend
  dsimp only
  split
  · exact fun _ h => h
  · refine List.Subset.trans ?_ (transmit_out _ _ _ _ _ _)
    rw [modQp_out]
    exact fun _ h => h

theorem kickAsks_settled (k : Nat) (drop : Bool) (s : State) : Settled s (kickAsks k drop s) := by
  have kept (asks : Tab (List Ask)) : Settled s { s with asks := asks } := .of_same (fun _ => rfl) rfl rfl rfl
  have sent (rest : List Ask) (asks : Tab (List Ask)) : Settled s (foldS rest sendAsk { s with asks := asks }) :=
    (kept asks).trans (.foldS sendAsk_settled _ _)
  have either {p : Prop} [Decidable p] {a b : State} (ha : Settled s a) (hb : Settled s b) : Settled s (if p then a else b) := by
    split
    · exact ha
    · exact hb
  exact either (kept _) (sent _ _)

end Sys2Proof.Machine

namespace Sys2Proof.Machine
open Sys2Proof

/-! ### A load is given up (R221, R232) -/

/-- What the completion of a load tells of it: all but its phase, its IMAGE_ID and whether it is in the log. -/
def bill (l : Load) : Load := { l with entered := false, phase := 0, id := 0 }

/-- What giving up the load of a context depends on: the program operations, the load, memory and what a record depends on. -/
def prepView (k : Nat) (s : State) : (Tab ProgOp × Option Load) × List Host.Cell ×
    Pcie × Tab QueueS × List Nat × (Nat → Bool) × (Nat → Option Cmd) :=
  ((s.progs, (loadOf s k).map bill), s.mem, workView s)

section
variable {k : Nat} {s t : State}

/-- What is calm and changes neither program operations nor the load of a context. -/
theorem prepView_of_calm {q : Reg} (calm : calmView q t = calmView q s) (progs : t.progs = s.progs)
    (load : (loadOf t k).map bill = (loadOf s k).map bill) : prepView k t = prepView k s := by
  unfold prepView
  rw [progs, load, mem_of_last (lastView_of_calm calm), workView_of_calm calm]

theorem prepView_of_outer (h : outer t = outer s) (hf : ∀ fn, (fnOf t fn).inFlr = (fnOf s fn).inFlr) : prepView k t = prepView k s := by
  have view (u : State) : prepView k u = (((outer u).progs, (loadOf (outer u) k).map bill), (outer u).mem,
    (outer u).pcie, (outer u).queues, (outer u).slotFree, (fun fn => (fnOf u fn).inFlr), fun n => (cmdOf (outer u) n).map unflagged) := rfl
  rw [view, view, h, funext hf]

theorem prepView_wr (r : Reg) (i : Nat) (w : Word) (s : State) : prepView k (wr r i w s) = prepView k s := rfl

theorem prepView_setEv (r : Reg) (b i : Nat) (s : State) : prepView k (setEv r b i s) = prepView k s := rfl

theorem prepView_bumpSat (r : Reg) (hi lo n i : Nat) (s : State) : prepView k (bumpSat r hi lo n i s) = prepView k s := rfl

theorem prepView_logE (e : LogEntry) (s : State) : prepView k (logE e s) = prepView k s :=
  prepView_of_outer (outer_logE e s) fun fn => inFlr_logE e fn s

theorem prepView_sendMsix (n vec : Nat) (s : State) : prepView k (sendMsix n vec s) = prepView k s :=
  prepView_of_outer (outer_sendMsix n vec s) fun fn => inFlr_sendMsix n vec fn s

theorem prepView_modLoad (j : Nat) (f : Load → Load) (hf : ∀ l, bill (f l) = bill l) (s : State) :
    prepView k (modLoad j f s) = prepView k s := by
  have load : (loadOf (modLoad j f s) k).map bill = (loadOf s k).map bill := by
    simp only [loadOf, cxOf, modLoad, modCx, tmod, tget_tset]
    split
    next h =>
      rw [h, Option.map_map]
      exact congrArg (Option.map · _) (funext hf)
    next => rfl
  exact prepView_of_calm (q := .SET_ERR) (calmView_modLoad j f s) rfl load

theorem prepView_enterLoad (j : Nat) (s : State) : prepView k (enterLoad j s) = prepView k s := by
  unfold enterLoad
  split
  · split
    · rfl
    · exact (prepView_modLoad j (fun l => { l with entered := true }) (fun _ => rfl) _).trans (prepView_logE _ _)
  · rfl

theorem prepView_xreset (s : State) : prepView k (xreset s) = prepView k s := by
  rw [xreset, prepView_logE]
  rfl

theorem prepView_hubErr {source : Nat} (h : source ≠ 0) (cause space addr func : Nat) (write : Bool) (s : State) :
    prepView k (hubErr cause space addr func source write s) = prepView k s := by
  rw [hubErr, if_neg h]
  unfold hubErrA
  dsimp only
  rw [whenS_eq (prepView k) (prepView_sendMsix _ _ _), prepView_logE]
  split
  · rw [prepView_bumpSat, prepView_setEv]
  · rw [prepView_wr, prepView_wr, prepView_wr, prepView_bumpSat, prepView_setEv]

theorem prepView_addrViolation {source : Nat} (h : source ≠ 0) (cause addr func : Nat) (write : Bool) (s : State) :
    prepView k (addrViolation cause addr func source write s) = prepView k s := by
  rw [addrViolation, prepView_logE, prepView_hubErr h, prepView_setEv]

end

/-- The command `c` of a load `l` is in flight, which is not stopped and has no program operation under way. -/
structure Loading (k : Nat) (l : Load) (c : Cmd) (s : State) : Prop where
  cmd : cmdOf s l.h = some c
  load : loadOf s k = some l
  idle : ∀ e ∈ s.progs, e.2.ctx ≠ k
  running : l.stop = none

/-- From `s` to `t` the load `l` of a context has gone and its command `c` has completed; memory is as it was. -/
structure Closed (k : Nat) (l : Load) (c : Cmd) (status : Nat) (s t : State) : Prop where
  completed : Completed l.h c status (l.shared + 2 ^ 16 * l.retained) (l.programmed + 2 ^ 32 * 0xFFFFFFFF) s t
  gone : loadOf t k = none
  mem : t.mem = s.mem

section
variable {k status : Nat} {l m : Load} {c : Cmd} {s t u : State}

theorem Closed.mono (h : Closed k l c status s t) (g : Settled t u) : Closed k l c status s u := by
  have view := g.view .SET_ERR rfl
  refine ⟨h.completed.mono g, ?_, (mem_of_last view).trans h.mem⟩
  rw [← Option.isNone_iff_eq_none, ← Option.not_isSome, isSome_loadOf_of_last view, h.gone]
  rfl

/-- The state in which a load that is given up completes: without its image, its code and its claims, its payloads asked for by those
that shared them (R221, R415). -/
def abandoned (k : Nat) (l : Load) (s : State) : State :=
  let u := dropCode l.im (modCx k (fun c => { c with load := none }) { s with qps := s.qps.filter fun e => !(e.2.ctx == k && e.2.load) })
  let u := releaseTls (some l.h) (imgTls (imgOf s l.im))
    { u with images := tdel u.images l.im, adapters := u.adapters.filter fun e => e.1 / 2 ^ 16 != l.im }
  foldS (sharers s k l) (fun j u => askPayloads j (((loadOf u j).map fun m =>
    (payloadsOf m (imgOf u m.im)).filter l.asked.contains).getD []) u) u

/-- A load without program operations is given up at once. -/
theorem endLoad_idle (idle : ∀ e ∈ s.progs, e.2.ctx ≠ k) : endLoad k l status 0 s = kickAsks k false
    (complete l.h status (l.shared + 2 ^ 16 * l.retained) (l.programmed + 2 ^ 32 * 0xFFFFFFFF) (abandoned k l s)) := by
  have none_ : (s.progs.filter fun e => e.2.ctx == k && (e.2.kind == 0 || e.2.kind == 2)) = [] := by
    rw [List.filter_eq_nil_iff]
    intro e he
    simp [idle e he]
  unfold endLoad
  rw [none_]
  rfl

/-- What the completion of an abandoned load depends on is as it was, the load is gone, and the registers that tell of loads are
as they were. -/
theorem abandoned_view (k : Nat) (l : Load) (s : State) :
    workView (abandoned k l s) = workView s ∧ (abandoned k l s).mem = s.mem ∧ (loadOf (abandoned k l s) k).isSome = false ∧
      ∀ q, loadReg q = true → q ≠ .TILE_CFG → ∀ i, rd (abandoned k l s) q i = rd s q i := by
  unfold abandoned
  extract_lets s1 s2
  set s0 := modCx k (fun c => { c with load := none }) { s with qps := s.qps.filter fun e => !(e.2.ctx == k && e.2.load) } with hs0
  set s3 := foldS (sharers s k l) _ s2
  have gone0 : (loadOf s0 k).isSome = false := by simp [s0, loadOf]
  have dropped (q : Reg) (hq : loadReg q = true) : calmView q s1 = calmView q s0 := calmView_dropCode hq l.im s0
  have released (q : Reg) (hq : loadReg q = true) (hne : q ≠ .TILE_CFG) : calmView q s3 =
      calmView q { s1 with images := tdel s1.images l.im, adapters := s1.adapters.filter fun e => e.1 / 2 ^ 16 != l.im } :=
    (foldS_eq (calmView q) (fun j u => calmView_askPayloads hq j _ u) _ s2).trans (calmView_releaseTls hq hne _ _ _)
  have last := lastView_of_calm (released .SET_ERR rfl (by decide))
  have last' := lastView_of_calm (dropped .SET_ERR rfl)
  refine ⟨?_, ?_, ?_, fun q hq hne i => ?_⟩
  · calc workView s3 = workView s1 := (workView_of_calm (released .SET_ERR rfl (by decide)) :)
      _ = workView s0 := workView_of_calm (dropped .SET_ERR rfl)
  · calc s3.mem = s1.mem := (mem_of_last last :)
      _ = s0.mem := mem_of_last last'
  · calc (loadOf s3 k).isSome = (loadOf s1 k).isSome := (isSome_loadOf_of_last last k :)
      _ = (loadOf s0 k).isSome := isSome_loadOf_of_last last' k
      _ = false := gone0
  · calc rd s3 q i = rd s1 q i := (rd_of_last (lastView_of_calm (released q hq hne)) i :)
      _ = rd s0 q i := rd_of_last (lastView_of_calm (dropped q hq)) i

/-- A load that is given up is gone and its command has completed, and the registers that tell of loads keep their values. -/
theorem endLoad_closed (hc : cmdOf s l.h = some c) (idle : ∀ e ∈ s.progs, e.2.ctx ≠ k) :
    Closed k l c status s (endLoad k l status 0 s) ∧
      ∀ q, loadReg q = true → q ≠ .TILE_CFG → ∀ i, rd (endLoad k l status 0 s) q i = rd s q i := by
  obtain ⟨work, mem, gone, regs⟩ := abandoned_view k l s
  obtain ⟨c', hc', same⟩ : ∃ c', cmdOf (abandoned k l s) l.h = some c' ∧ unflagged c' = unflagged c := by
    have held := cmdOf_of_work work l.h
    rw [hc] at held
    exact Option.map_eq_some_iff.mp held
  have ended := complete_settled l.h status (l.shared + 2 ^ 16 * l.retained) (l.programmed + 2 ^ 32 * 0xFFFFFFFF) (abandoned k l s)
  have view := (ended.trans (kickAsks_settled k false _)).view
  rw [endLoad_idle idle]
  refine ⟨⟨?_, ?_, ?_⟩, ?_⟩
  · exact (Completed.of_work work same (complete_completed hc' status _ _)).mono (kickAsks_settled k false _)
  · rw [← Option.isNone_iff_eq_none, ← Option.not_isSome]
    exact congrArg (!·) ((isSome_loadOf_of_last (view .SET_ERR rfl) k).trans gone)
  · exact (mem_of_last (view .SET_ERR rfl)).trans mem
  · exact fun q hq hne i => (rd_of_last (view q hq) i).trans (regs q hq hne i)

/-- Giving up the load that one state has completes the command that another has, where both agree on what that depends on. -/
theorem Closed.of_prep {c' : Cmd} (prep : prepView k u = prepView k s) (same : unflagged c' = unflagged c) (hm : bill m = bill l)
    (h : Closed k m c' status u t) : Closed k l c status s t := by
  have work : workView u = workView s := congrArg (·.2.2) prep
  have mem : u.mem = s.mem := congrArg (·.2.1) prep
  have hh : m.h = l.h := (congrArg Load.h hm :)
  have shared : m.shared = l.shared := (congrArg Load.shared hm :)
  have retained : m.retained = l.retained := (congrArg Load.retained hm :)
  have programmed : m.programmed = l.programmed := (congrArg Load.programmed hm :)
  obtain ⟨completed, gone, mem'⟩ := h
  rw [hh, shared, retained, programmed] at completed
  exact ⟨completed.of_work work same, gone, mem'.trans mem⟩

/-- A load without a running row step is given up as soon as it is stopped (R229, R232). -/
theorem stopLoad_closed (on : Loading k l c s) (prep : prepView k u = prepView k s) :
    Closed k l c status s (stopLoad k status 0 u) ∧
      ∀ q, loadReg q = true → q ≠ .TILE_CFG → ∀ i, rd (stopLoad k status 0 u) q i = rd u q i := by
  have entered : prepView k (enterLoad k u) = prepView k s := (prepView_enterLoad k u).trans prep
  have progs : (enterLoad k u).progs = s.progs := congrArg (·.1.1) entered
  have load : (loadOf (enterLoad k u) k).map bill = (loadOf s k).map bill := congrArg (·.1.2) entered
  have cmd := cmdOf_of_work (congrArg (·.2.2) entered : workView (enterLoad k u) = workView s) l.h
  rw [on.load] at load
  rw [on.cmd] at cmd
  obtain ⟨m, hm, hbill⟩ := Option.map_eq_some_iff.mp load
  obtain ⟨c', hc', same⟩ := Option.map_eq_some_iff.mp cmd
  have hh : m.h = l.h := (congrArg Load.h hbill :)
  have running : m.stop = none := (congrArg Load.stop hbill :).trans on.running
  have idle : ∀ e ∈ (enterLoad k u).progs, e.2.ctx ≠ k := progs ▸ on.idle
  have still : loadBusy (enterLoad k u) k = false := by
    rw [loadBusy, List.any_eq_false]
    intro e he
    simp [idle e he]
  unfold stopLoad
  simp only [hm, still, running, Option.map_none, Option.getD_none, Bool.false_eq_true, if_false]
  obtain ⟨closed, regs⟩ := endLoad_closed (status := status) (l := m) (hh ▸ hc') idle
  refine ⟨closed.of_prep entered same hbill, fun q hq hne i => (regs q hq hne i).trans ?_⟩
  exact rd_of_last (lastView_of_calm (calmView_enterLoad hq k u)) i

/-- A load that stops on a fault of R232. -/
theorem failLoad_closed (on : Loading k l c s) (prep : prepView k u = prepView k s) :
    Closed k l c status s (failLoad k status 0 u) ∧
      ∀ q, loadReg q = true → q ≠ .TILE_CFG → ∀ i, rd (failLoad k status 0 u) q i = rd u q i := by
  unfold failLoad
  obtain ⟨closed, regs⟩ := stopLoad_closed (status := status) on
    ((prepView_logE (loadEntry (enterLoad k u) k 6 0 0) _).trans ((prepView_enterLoad k u).trans prep))
  refine ⟨closed, fun q hq hne i => (regs q hq hne i).trans ?_⟩
  exact rd_of_last (lastView_of_calm ((calmView_logE hq _ _).trans (calmView_enterLoad hq k u))) i

/-- What SET_ERR and SET_ERR_ENTRY tell of a failure of R220: the first one since they were cleared (R236). -/
def FirstFailure (f : Nat × Nat × Nat) (s t : State) : Prop :=
  if rb s .SET_ERR 31 then rd t .SET_ERR = rd s .SET_ERR ∧ rd t .SET_ERR_ENTRY = rd s .SET_ERR_ENTRY
  else rb t .SET_ERR 31 = true ∧ rf t .SET_ERR 7 0 = f.1 % 256 ∧ rf t .SET_ERR 15 8 = f.2.1 % 256 ∧
    (rd t .SET_ERR_ENTRY).toNat = f.2.2 % 2 ^ 32

theorem FirstFailure.congr {f : Nat × Nat × Nat} {s' t' : State} (h : FirstFailure f s' t') (hs : rd s .SET_ERR = rd s' .SET_ERR)
    (hse : rd s .SET_ERR_ENTRY = rd s' .SET_ERR_ENTRY) (ht : rd t .SET_ERR = rd t' .SET_ERR)
    (hte : rd t .SET_ERR_ENTRY = rd t' .SET_ERR_ENTRY) : FirstFailure f s t := by
  simp only [FirstFailure, rb, rf, hs, hse, ht, hte] at h ⊢
  exact h

/-- A failure is recorded in SET_ERR unless another was before. -/
def recordFailure (k : Nat) (f : Nat × Nat × Nat) (s : State) : State :=
  if rb s .SET_ERR 31 then s else
    wr .SET_ERR_ENTRY 0 (BitVec.ofNat 32 f.2.2)
      (wr .SET_ERR 0 (BitVec.ofNat 32 (f.1 + f.2.1 % 256 * 2 ^ 8 + k % 32 * 2 ^ 16 + k / 32 * 2 ^ 21 + 2 ^ 31)) s)

theorem validationFailed_eq (k : Nat) (f : Nat × Nat × Nat) (s : State) : validationFailed k f s =
    stopLoad k 0x17 0 (logE { loadEntry (recordFailure k f s) k 5 f.1 f.2.2 with colRow := f.2.1 } (recordFailure k f s)) := rfl

theorem recordFailure_firstFailure {f : Nat × Nat × Nat} (hk : k < 1024) (hf : f.1 < 256) (s : State) :
    FirstFailure f s (recordFailure k f s) := by
  unfold FirstFailure recordFailure
  split
  · exact ⟨rfl, rfl⟩
  · have err : rd (wr .SET_ERR_ENTRY 0 (BitVec.ofNat 32 f.2.2) (wr .SET_ERR 0 (BitVec.ofNat 32
        (f.1 + f.2.1 % 256 * 2 ^ 8 + k % 32 * 2 ^ 16 + k / 32 * 2 ^ 21 + 2 ^ 31)) s)) .SET_ERR 0 =
        BitVec.ofNat 32 (f.1 + f.2.1 % 256 * 2 ^ 8 + k % 32 * 2 ^ 16 + k / 32 * 2 ^ 21 + 2 ^ 31) := by
      rw [rd_wr_of_ne _ _ (by decide), rd_wr_same]
    rw [rb, rf, rf, err, rd_wr_same, fld, fld, BitVec.toNat_ofNat, BitVec.toNat_ofNat, Nat.testBit_eq_decide_div_mod_eq, bitsOf, bitsOf,
      Nat.shiftRight_eq_div_pow, Nat.shiftRight_eq_div_pow]
    refine ⟨?_, ?_, ?_, rfl⟩
    · rw [decide_eq_true_iff]
      omega
    · omega
    · omega

theorem prepView_recordFailure {j : Nat} (k : Nat) (f : Nat × Nat × Nat) (s : State) :
    prepView j (recordFailure k f s) = prepView j s := by
  unfold recordFailure
  split
  · rfl
  · rw [prepView_wr, prepView_wr]

theorem validationFailed_closed {f : Nat × Nat × Nat} (on : Loading k l c s) (prep : prepView k u = prepView k s) (hk : k < 1024)
    (hf : f.1 < 256) : Closed k l c 0x17 s (validationFailed k f u) ∧ FirstFailure f u (validationFailed k f u) := by
  rw [validationFailed_eq]
  obtain ⟨closed, regs⟩ := stopLoad_closed (status := 0x17) on ((prepView_logE
    { loadEntry (recordFailure k f u) k 5 f.1 f.2.2 with colRow := f.2.1 } _).trans ((prepView_recordFailure k f u).trans prep))
  have err := regs .SET_ERR rfl (by decide) 0
  have entry := regs .SET_ERR_ENTRY rfl (by decide) 0
  rw [rd_logE _ _ _ _ (by decide)] at err entry
  refine ⟨closed, ?_⟩
  exact (recordFailure_firstFailure hk hf u).congr rfl rfl err entry

end

end Sys2Proof.Machine

namespace Sys2Proof.Machine
open Sys2Proof

/-! ### What lasts while an image is placed and activated (R208 to R210, R223, R226 to R228) -/

/-- The images and the states of the tiles. -/
def claimView (s : State) : Tab Image × (Nat → Word) := imageView .TILE_CFG s

theorem claimView_of_last {s t : State} (h : lastView .TILE_CFG t = lastView .TILE_CFG s) : claimView t = claimView s :=
  imageView_of_last h

theorem claimView_of_calm {s t : State} (h : calmView .TILE_CFG t = calmView .TILE_CFG s) : claimView t = claimView s :=
  claimView_of_last (lastView_of_calm h)

theorem claimView_of_settled {s t : State} (h : Settled s t) : claimView t = claimView s := claimView_of_last (h.view .TILE_CFG rfl)

/-- What each step of a series leaves of a state that it carries along, the series leaves. -/
theorem foldS_carry {β σ γ : Type} (g : σ → γ) {f : β → σ → σ} (h : ∀ x a, g (f x a) = g a) (xs : List β) (a : σ) :
    g (foldS xs f a) = g a := by
  unfold foldS
  induction xs generalizing a with
  | nil => rfl
  | cons x xs ih => exact (ih _).trans (h x a)

theorem claimView_logE (e : LogEntry) (s : State) : claimView (logE e s) = claimView s := claimView_of_calm (calmView_logE rfl e s)

/-! Values are written. -/

theorem claimView_wrBytes (a : Nat) (xs : List Byte) (s : State) : claimView (wrBytes a xs s) = claimView s := by
  have written : claimView (wrBytesAux a xs.length (byteOk s a xs.length) a xs s) = claimView s := by
    rw [wrBytesAux_mem]
    rfl
  unfold wrBytes
  dsimp only
  split
  · rw [claimView_logE]
    exact (claimView_of_calm (calmView_setEv (by decide) _ _ _)).trans written
  · exact written

theorem claimView_zeroRange (a b : Nat) (s : State) : claimView (zeroRange a b s) = claimView s := rfl

theorem claimView_placeAdapter (im : Nat) (i : Image) (a : AdpE) (s : State) : claimView (placeAdapter im i a s) = claimView s := by
  refine foldS_carry (fun x : List Nat × State => claimView x.2) (fun p x => ?_) (adpParts i a) (a.init, s)
  exact (claimView_zeroRange _ _ _).trans ((claimView_wrBytes _ _ _).trans (claimView_wrBytes _ _ _))

theorem claimView_placeValues (im : Nat) (carries : Nat → Bool) (i : Image) (s : State) :
    claimView (placeValues im carries i s) = claimView s := by
  unfold placeValues
  refine (whenS_eq claimView (foldS_eq claimView (claimView_placeAdapter im i) _ _)).trans ?_
  refine (whenS_eq claimView (foldS_eq claimView ?_ _ _)).trans (whenS_eq claimView (foldS_eq claimView ?_ _ _))
  · exact fun x => claimView_wrBytes x.loc _
  · exact fun g => claimView_wrBytes g.loc _

/-! Programs are written. -/

theorem claimView_compactStore (cl : Nat) (s : State) : claimView (compactStore cl s) = claimView s := by
  refine foldS_carry (fun x : Nat × State => claimView x.2) (fun p x => ?_) _ (0, s)
  dsimp only
  split
  · rfl
  · rfl

theorem claimView_placeProg (i : Image) (im cl : Nat) (p : ProgE) (s : State) : claimView (placeProg i im cl p s) = claimView s := by
  have room : claimView (if storeEnd s cl + p.words.length ≤ 16384 then s else compactStore cl s) = claimView s :=
    ite_eq claimView rfl (claimView_compactStore cl s)
  unfold placeProg
  refine (foldS_eq claimView ?_ _ _).trans room
  exact fun _ _ => rfl

theorem claimView_placeMicro (im : Nat) (i : Image) (s : State) : claimView (placeMicro im i s) = claimView s := by
  unfold placeMicro
  refine (foldS_eq claimView ?_ _ _).trans ((foldS_eq claimView ?_ _ _).trans (foldS_eq claimView ?_ _ _))
  · exact fun d => claimView_wrBytes _ d.bytes
  · intro x u
    refine foldS_eq claimView ?_ _ u
    exact fun _ _ => rfl
  · exact fun cl => foldS_eq claimView (claimView_placeProg i im cl) _

theorem claimView_placeSections (k im : Nat) (i : Image) (s : State) : claimView (placeSections k im i s) = claimView s := by
  unfold placeSections
  have placed := claimView_placeValues im (fun _ => !i.delta) i s
  dsimp only
  split
  · exact placed
  · exact (claimView_placeMicro im i _).trans placed

/-! An image is activated. -/

theorem claimView_setupQps (k : Nat) (t : PeerTable) (s : State) : claimView (setupQps k t s) = claimView s := by
  unfold setupQps
  refine foldS_eq claimView ?_ _ _
  intro pe u
  refine foldS_eq claimView ?_ _ u
  exact fun _ _ => rfl

theorem claimView_joinJob (k : Nat) (old : Option PeerTable) (delta : Bool) (t : PeerTable) (s : State) :
    claimView (joinJob k old delta t s) = claimView s := by
  unfold joinJob
  exact ite_eq claimView rfl (ite_eq claimView rfl rfl)

theorem claimView_keepAdapters (old im : Nat) (s : State) : claimView (keepAdapters old im s) = claimView s := by
  unfold keepAdapters
  dsimp only
  split
  · rfl
  · refine foldS_eq claimView ?_ _ _
    exact fun _ _ => rfl

theorem claimView_startCtxs (im : Nat) (s : State) : claimView (startCtxs im s) = claimView s := by
  unfold startCtxs
  refine (foldS_eq claimView ?_ _ _).trans (foldS_eq claimView ?_ _ _)
  · exact fun _ _ => rfl
  · exact fun _ _ => rfl

theorem claimView_startPlans (k im : Nat) (s : State) : claimView (startPlans k im s) = claimView s := by
  unfold startPlans
  refine foldS_eq claimView ?_ _ _
  exact fun _ _ => rfl

theorem claimView_activate (k h order : Nat) (s : State) : claimView (activate k h order s) = claimView s := by
  unfold activate
  extract_lets c
  split
  · rfl
  next im _ =>
    extract_lets new same s1 s2 s3 s4 s5 s6
    have joined : claimView s3 = claimView s := (claimView_joinJob _ _ _ _ _).trans (claimView_setupQps _ _ _)
    have passed : claimView s4 = claimView s3 := by
      unfold s4
      split
      next o _ =>
        refine Eq.trans (b := claimView _) rfl (whenS_eq claimView ?_)
        exact (claimView_keepAdapters _ _ _).trans (claimView_placeValues _ _ _ _)
      · rfl
    have started : claimView s5 = claimView s4 := ite_eq claimView rfl (claimView_startCtxs _ _)
    have entered : claimView s6 = claimView s5 := ite_eq claimView rfl rfl
    rw [claimView_logE, claimView_startPlans, entered, started, passed, joined]

theorem claimView_loadAdvance (k : Nat) (s : State) : claimView (loadAdvance k s) = claimView s := by
  unfold loadAdvance
  split
  · rfl
  · dsimp only
    split
    · rfl
    · split
      · refine (claimView_of_settled (complete_settled _ _ _ _ _)).trans ?_
        exact whenS_eq claimView (claimView_activate _ _ _ _)
      · exact claimView_of_calm (calmView_modLoad _ _ _)

/-! ### The tiles of an image are claimed (R116, R221) -/

section
variable {s : State} {t : Nat}

/-- A tile's state is what it was, or the one that some tile takes. -/
theorem rf_setTileState (j st : Nat) (s : State) (t : Nat) :
    rf (setTileState j st s) .TILE_CFG 2 0 t = rf s .TILE_CFG 2 0 t ∨ rf (setTileState j st s) .TILE_CFG 2 0 t = st % 2 ^ 3 := by
  unfold setTileState
  split
  · exact .inl rfl
  · by_cases hk : regKey .TILE_CFG t = regKey .TILE_CFG j
    · have same (u : State) : rd u .TILE_CFG t = rd u .TILE_CFG j := by simp only [rd, hk, resetOf]
      right
      rw [rf, same]
      exact rf_wrf_same _ _ _ _ _ _ (by decide) (by decide)
    · left
      rw [rf, rf, rd, wrf, wr, tget_tset_ne _ _ _ hk, rd]

theorem rf_setTileState_same (h : rf s .TILE_CFG 2 0 t ≠ 3) (st : Nat) : rf (setTileState t st s) .TILE_CFG 2 0 t = st % 2 ^ 3 := by
  rw [setTileState, if_neg h]
  exact rf_wrf_same _ _ _ _ _ _ (by decide) (by decide)

theorem rf_setTileState_ne_failed (h : rf s .TILE_CFG 2 0 t ≠ 3) {st : Nat} (hst : st % 2 ^ 3 ≠ 3) (j : Nat) :
    rf (setTileState j st s) .TILE_CFG 2 0 t ≠ 3 := by
  rcases rf_setTileState j st s t with e | e <;> rw [e] <;> assumption

/-- Setting the states of tiles marks none as FAILED. -/
theorem rf_setTiles_ne_failed (h : rf s .TILE_CFG 2 0 t ≠ 3) {st : Nat} (hst : st % 2 ^ 3 ≠ 3) (ts : List Nat) :
    rf (foldS ts (fun j => setTileState j st) s) .TILE_CFG 2 0 t ≠ 3 := by
  unfold foldS
  induction ts generalizing s with
  | nil => exact h
  | cons j ts ih => exact ih (rf_setTileState_ne_failed h hst j)

/-- An ACTIVE tile stays so while tiles become ACTIVE. -/
theorem rf_activate_active (h : rf s .TILE_CFG 2 0 t = 1) (ts : List Nat) :
    rf (foldS ts (fun j => setTileState j 1) s) .TILE_CFG 2 0 t = 1 := by
  unfold foldS
  induction ts generalizing s with
  | nil => exact h
  | cons j ts ih => exact ih ((rf_setTileState j 1 s t).elim (·.trans h) id)

theorem rf_activate_of_mem (h : rf s .TILE_CFG 2 0 t ≠ 3) {ts : List Nat} (ht : t ∈ ts) :
    rf (foldS ts (fun j => setTileState j 1) s) .TILE_CFG 2 0 t = 1 := by
  induction ts generalizing s with
  | nil => exact absurd ht List.not_mem_nil
  | cons j ts ih =>
    rcases List.mem_cons.mp ht with rfl | ht
    · exact rf_activate_active (rf_setTileState_same h 1) ts
    · exact ih (rf_setTileState_ne_failed h (by decide) j) ht

/-- Every tile that an image places becomes ACTIVE, unless it is FAILED. -/
theorem rf_claimTiles {i : Image} {p : PlaceE} (hp : p ∈ i.places) (h : rf s .TILE_CFG 2 0 p.tile ≠ 3) :
    rf (claimTiles i s) .TILE_CFG 2 0 p.tile = 1 :=
  rf_activate_of_mem (rf_setTiles_ne_failed h (by decide) _) (List.mem_dedup.mpr (List.mem_map_of_mem hp))

theorem setTileState_images (t st : Nat) (s : State) : (setTileState t st s).images = s.images := by
  unfold setTileState
  split <;> rfl

theorem claimTiles_images (i : Image) (s : State) : (claimTiles i s).images = s.images :=
  (foldS_eq State.images (fun t => setTileState_images t 1) _ _).trans (foldS_eq State.images (fun t => setTileState_images t 2) _ _)

/-- What follows the claim of an image's tiles leaves the image held and its tiles ACTIVE. -/
theorem holds_of_claimView {t : State} {im : Nat} {j : Image}
    (h : claimView t = claimView (claimTiles j { s with images := tins s.images im j })) :
    imgOf t im = j ∧ ∀ p ∈ j.places, rf s .TILE_CFG 2 0 p.tile ≠ 3 → rf t .TILE_CFG 2 0 p.tile = 1 := by
  have images := congrArg Prod.fst h
  have tiles (n : Nat) := congrFun (congrArg Prod.snd h) n
  refine ⟨?_, fun p hp hs => ?_⟩
  · have held : t.images = tins s.images im j := images.trans (claimTiles_images _ _)
    rw [imgOf, held, tget_tins_same]
  · exact (congrArg (fld · 2 0) (tiles p.tile)).trans (rf_claimTiles hp hs)

end

/-- The image of a load whose checks all passed is held, with its placements redirected, and its tiles are ACTIVE (R221, R223, R230). -/
theorem acceptImage_holds {k : Nat} {m : Load} {s : State} (hm : loadOf s k = some m) (i : Image) :
    imgOf (acceptImage k i s) m.im = { i with places := i.places.map (redirected s i) } ∧
      ∀ p ∈ i.places.map (redirected s i), rf s .TILE_CFG 2 0 p.tile ≠ 3 → rf (acceptImage k i s) .TILE_CFG 2 0 p.tile = 1 := by
  unfold acceptImage
  rw [hm]
  dsimp -zeta only
  extract_lets places j s1 s2 s3 s4
  have view : claimView s4 = claimView s1 :=
    calc claimView s4 = claimView s3 := foldS_eq claimView (fun p u => claimView_of_calm (calmView_prepare rfl k j p u)) places s3
      _ = claimView s2 := claimView_placeSections k m.im j s2
      _ = claimView s1 := claimView_of_calm (calmView_modLoad _ _ _)
  refine holds_of_claimView (j := j) (im := m.im) (s := s) ?_
  split
  · exact view
  · exact (claimView_loadAdvance _ _).trans ((claimView_of_calm (calmView_askPayloads rfl _ _ _)).trans view)

end Sys2Proof.Machine

namespace Sys2Proof.Machine
open Sys2Proof

/-! ### The image of a load is checked (R219, R220, R222) -/

/-- From `s` to `t` a load has only gone on to be read: all that tells of it, its context's active image, the images, memory and
the registers of loads are as they were. -/
structure Reads (k : Nat) (s t : State) : Prop where
  calm : ∀ q, loadReg q = true → calmView q t = calmView q s
  prep : prepView k t = prepView k s
  active : (cxOf t k).active = (cxOf s k).active

namespace Reads
variable {k : Nat} {s t u : State}

theorem refl (s : State) : Reads k s s := ⟨fun _ _ => rfl, rfl, rfl⟩

theorem trans (h : Reads k s t) (g : Reads k t u) : Reads k s u :=
  ⟨fun q hq => (g.calm q hq).trans (h.calm q hq), g.prep.trans h.prep, g.active.trans h.active⟩

theorem emit (m : Msg) (s : State) : Reads k s (emit m s) := ⟨fun _ _ => rfl, rfl, rfl⟩

theorem modLoad (f : Load → Load) (hf : ∀ l, bill (f l) = bill l) (s : State) : Reads k s (modLoad k f s) := by
  refine ⟨fun q _ => calmView_modLoad k f s, prepView_modLoad k f hf s, ?_⟩
  simp only [Machine.modLoad, cxOf_modCx]

theorem enterLoad (s : State) : Reads k s (enterLoad k s) := by
  refine ⟨fun q hq => calmView_enterLoad hq k s, prepView_enterLoad k s, ?_⟩
  unfold Machine.enterLoad
  split
  · split
    · rfl
    next l _ _ =>
      have told : (cxOf (logE (setEntry s 1 0 k l.h l.id) s) k).active = (cxOf s k).active :=
        (congrArg (fun u => (cxOf u k).active) (outer_logE (setEntry s 1 0 k l.h l.id) s) :)
      simp only [Machine.modLoad, cxOf_modCx, told]
  · rfl

theorem rd_eq (h : Reads k s t) {q : Reg} (hq : loadReg q = true) (i : Nat) : rd t q i = rd s q i :=
  rd_of_last (lastView_of_calm (h.calm q hq)) i

theorem imgOf_eq (h : Reads k s t) (im : Nat) : imgOf t im = imgOf s im :=
  (congrArg (fun v : Tab Image × (Nat → Word) => tget {} v.1 im) (imageView_of_last (lastView_of_calm (h.calm .SET_ERR rfl))) :)

/-- What a delta takes from the active image of its context (R228). -/
theorem base_eq (h : Reads k s t) : ((cxOf t k).active.map (imgOf t)).getD {} = ((cxOf s k).active.map (imgOf s)).getD {} := by
  rw [h.active, funext h.imgOf_eq]

end Reads

/-- A load whose image and signed part of the ware have been read, or met an error. -/
def readLoad (k : Nat) (img : List Byte) (err : Bool) (s : State) : State :=
  enterLoad k (modLoad k (fun l => { l with phase := 2, id := if err then 0 else leAt img 0x18 16 }) s)

/-- The first check of R220 that fails. -/
def firstFailure (k len : Nat) (img ware : List Byte) (i : Image) (s : State) : Option (Nat × Nat × Nat) :=
  checkStep1 s k img <|> checkStep2 s len ware i <|> checkStep3 s k img i

theorem readLoad_reads (k : Nat) (img : List Byte) (err : Bool) (s : State) : Reads k s (readLoad k img err s) :=
  (Reads.modLoad (fun l => { l with phase := 2, id := if err then 0 else leAt img 0x18 16 }) (fun _ => rfl) s).trans (Reads.enterLoad _)

section
variable {k len : Nat} {img ware : List Byte} {l : Load} {c : Cmd} {s u v : State}

theorem validate_error (h : Nat) (img ware : List Byte) : validate k h len img ware true v =
    freeRoom (· == loadTurn (k / 32)) (failLoad k 0x1A 0 (readLoad k img true v)) := rfl

/-- What was read without an error is refused with its first failure, or accepted. -/
theorem validate_checks (h : Nat) (i : Image) (hi : ((cxOf (readLoad k img false v) k).active.map
    (imgOf (readLoad k img false v))).getD {} = i) : validate k h len img ware false v =
      freeRoom (· == loadTurn (k / 32)) ((firstFailure k len img ware (readImage img ware i) (readLoad k img false v)).elim
        (acceptImage k (readImage img ware i) (readLoad k img false v)) fun f => validationFailed k f (readLoad k img false v)) := by
  subst hi
  have decided (o : Option (Nat × Nat × Nat)) (a : State) (r : Nat × Nat × Nat → State) :
      (match o with | some f => r f | none => a) = o.elim a r := by cases o <;> rfl
  rw [← decided]
  rfl

theorem rd_freeRoom (p : Nat → Bool) (s : State) (q : Reg) (i : Nat) : rd (freeRoom p s) q i = rd s q i := rfl

theorem imgOf_freeRoom (p : Nat → Bool) (s : State) (im : Nat) : imgOf (freeRoom p s) im = imgOf s im := rfl

theorem freeRoom_closed {status : Nat} {p : Nat → Bool} {t : State} (h : Closed k l c status s t) : Closed k l c status s (freeRoom p t) :=
  h.mono (freeRoom_settled p t)

/-- A read that met an uncorrectable error (R232). -/
theorem validate_error_closed (on : Loading k l c s) (read : Reads k s v) (h : Nat) :
    Closed k l c 0x1A s (validate k h len img ware true v) ∧ rd (validate k h len img ware true v) .SET_ERR = rd s .SET_ERR := by
  have reads := read.trans (readLoad_reads k img true v)
  obtain ⟨closed, regs⟩ := failLoad_closed (status := 0x1A) on reads.prep
  rw [validate_error, rd_freeRoom, regs .SET_ERR rfl (by decide), reads.rd_eq rfl]
  exact ⟨freeRoom_closed closed, rfl⟩

section
variable (read : Reads k s v) {i : Image} (hi : i = readImage img ware (((cxOf s k).active.map (imgOf s)).getD {}))
include read hi

/-- A check of R220 that fails (R236). -/
theorem validate_failure_closed (on : Loading k l c s) (hk : k < 1024) (h : Nat) {f : Nat × Nat × Nat}
    (hf : firstFailure k len img ware i (readLoad k img false v) = some f) (hlt : f.1 < 256) :
    Closed k l c 0x17 s (validate k h len img ware false v) ∧ FirstFailure f s (validate k h len img ware false v) := by
  have reads := read.trans (readLoad_reads k img false v)
  obtain ⟨closed, told⟩ := validationFailed_closed on reads.prep hk hlt
  rw [validate_checks h _ reads.base_eq, ← hi, hf]
  exact ⟨freeRoom_closed closed, told.congr (reads.rd_eq rfl 0).symm (reads.rd_eq rfl 0).symm
    (rd_freeRoom _ _ _ _) (rd_freeRoom _ _ _ _)⟩

/-- An image whose checks all pass (R221, R223). -/
theorem validate_accepts (on : Loading k l c s) (h : Nat) (hf : firstFailure k len img ware i (readLoad k img false v) = none) :
    let t := validate k h len img ware false v
    (imgOf t l.im).id = i.id ∧ (imgOf t l.im).slices = i.slices ∧ (imgOf t l.im).routes = i.routes ∧
      ∀ p ∈ (imgOf t l.im).places, rf s .TILE_CFG 2 0 p.tile ≠ 3 → rf t .TILE_CFG 2 0 p.tile = 1 := by
  have reads := read.trans (readLoad_reads k img false v)
  have load : (loadOf (readLoad k img false v) k).map bill = (loadOf s k).map bill := congrArg (·.1.2) reads.prep
  rw [on.load] at load
  obtain ⟨m, hm, hbill⟩ := Option.map_eq_some_iff.mp load
  have him : m.im = l.im := (congrArg Load.im hbill :)
  obtain ⟨held, active⟩ := acceptImage_holds hm i
  rw [him] at held
  dsimp only
  rw [validate_checks h _ reads.base_eq, ← hi, hf]
  rw [Option.elim_none, imgOf_freeRoom, held]
  refine ⟨rfl, rfl, rfl, fun p hp hs => ?_⟩
  rw [rf, rd_freeRoom]
  refine active p hp ?_
  rwa [rf, reads.rd_eq rfl]

end

/-! ### The image and the ware are read (R222, R292, R355, R480) -/

theorem fencedLoad_closed (on : Loading k l c s) (r : Nat × Nat) : Closed k l c stFenced s (fencedLoad k r s) :=
  (failLoad_closed on (whenS_eq (prepView k) (prepView_xreset s))).1

theorem refuseLoad_closed (on : Loading k l c s) (r : Nat × Nat) :
    Closed k l c 3 s (refuseLoad k r s) ∧ rb (refuseLoad k r s) .HUB_MEM_ERR_STAT 8 = true := by
  obtain ⟨closed, regs⟩ := failLoad_closed (status := 3) on (prepView_addrViolation (source := 3) (by decide) r.1 r.2 0 false s)
  refine ⟨closed, ?_⟩
  have same : rd (refuseLoad k r s) .HUB_MEM_ERR_STAT = rd (setEv .HUB_MEM_ERR_STAT 8 0 s) .HUB_MEM_ERR_STAT := by
    rw [refuseLoad, regs .HUB_MEM_ERR_STAT rfl (by decide), addrViolation, rd_logE _ _ _ _ (by decide)]
    exact rd_of_last (lastView_of_calm (calmView_hubErr rfl (by decide) _ _ _ _ _ _)) 0
  rw [rb, same]
  exact rb_setEv_same _ 8 0 s (by decide)

end

end Sys2Proof.Machine

namespace Sys2Proof.Machine
open Sys2Proof

/-! ### LOAD_IMAGE_FETCHED (R219, R221) -/

/-- The bytes of an image as a LOAD reads them, and whether the read met an uncorrectable error. -/
def imageBytes (c : Cmd) (img : List Byte) (err : Bool) (s : State) : List Byte × Bool :=
  if (c.u 0x30 1).testBit 0 then devRead s (imagePlace c) else (img.take (c.u 0x18 8), err)

/-- The image lies in device memory that is down. -/
def imageDown (c : Cmd) (s : State) : Bool := (c.u 0x30 1).testBit 0 && (hubDown s (imagePlace c).1 (imagePlace c).2).isSome

/-- No ware is read beside the image. -/
def imageAlone (c : Cmd) (img : List Byte) (err : Bool) (s : State) : Bool :=
  (imageBytes c img err s).2 || imgDelta (imageBytes c img err s).1

/-- The signed part of the ware as a LOAD reads it, and whether the read met an uncorrectable error; none beside a delta. -/
def wareBytes (c : Cmd) (l : Load) (img ware : List Byte) (err : Bool) (s : State) : List Byte × Bool :=
  if imageAlone c img err s then ([], (imageBytes c img err s).2)
  else if l.src = 1 then devRead s (warePlace s c) else (ware.take (c.u 0x28 8), err)

/-- The state in which the checks of a load begin: host memory has been asked for the signed part of the ware. -/
def wareAsked (c : Cmd) (l : Load) (img ware : List Byte) (err : Bool) (s : State) : State :=
  if imageAlone c img err s ∨ l.src = 1 then s
  else emit (.hostRead c.fn (c.u 0x20 8) (min (c.u 0x28 8) (leAt (ware.take (c.u 0x28 8)) 0x30 8 + 128))) s

section
variable {h : Nat} {c : Cmd} {l : Load} {img ware : List Byte} {err : Bool} {s : State}

theorem wareAsked_reads (k : Nat) : Reads k s (wareAsked c l img ware err s) := by
  unfold wareAsked
  split
  · exact .refl s
  · exact .emit _ s

theorem imageRead_down (down : imageDown c s = true) :
    imageRead h c l img ware err s = fencedLoad c.ctx (imagePlace c) s := by
  unfold imageDown at down
  unfold imageRead
  dsimp only
  rw [if_pos down]

section
variable (up : imageDown c s = false)
include up

theorem imageRead_alone (alone : imageAlone c img err s = true) : imageRead h c l img ware err s =
    validate c.ctx h (c.u 0x28 8) (imageBytes c img err s).1 [] (imageBytes c img err s).2 s := by
  unfold imageDown at up
  unfold imageAlone at alone
  unfold imageRead
  dsimp only
  rw [up, if_neg Bool.false_ne_true]
  exact if_pos alone

section
variable (alone : imageAlone c img err s = false)
include alone

theorem imageRead_host (src : l.src ≠ 2) (src' : l.src ≠ 1) : imageRead h c l img ware err s =
    validate c.ctx h (c.u 0x28 8) (imageBytes c img err s).1 (ware.take (c.u 0x28 8)) err
      (emit (.hostRead c.fn (c.u 0x20 8) (min (c.u 0x28 8) (leAt (ware.take (c.u 0x28 8)) 0x30 8 + 128))) s) := by
  unfold imageDown at up
  unfold imageAlone imageBytes at alone
  unfold imageRead
  dsimp only
  rw [up, if_neg Bool.false_ne_true, alone, if_neg Bool.false_ne_true, if_neg src, if_neg src']
  rfl

/-- The ware follows the image from device memory. -/
theorem imageRead_device (src : l.src = 1) : imageRead h c l img ware err s =
    (hubDma s c.fn (c.ctx / 32) (c.u 0x20 8) (c.u 0x28 8)).elim
      (if (hubDown s (warePlace s c).1 (warePlace s c).2).isSome then fencedLoad c.ctx (warePlace s c) s
        else validate c.ctx h (c.u 0x28 8) (imageBytes c img err s).1 (devRead s (warePlace s c)).1 (devRead s (warePlace s c)).2 s)
      fun v => refuseLoad c.ctx v s := by
  have src' : l.src ≠ 2 := by omega
  unfold imageDown at up
  unfold imageAlone imageBytes at alone
  unfold imageRead
  dsimp only
  rw [up, if_neg Bool.false_ne_true, alone, if_neg Bool.false_ne_true, if_neg src', if_pos src]
  cases hubDma s c.fn (c.ctx / 32) (c.u 0x20 8) (c.u 0x28 8) <;> rfl

end

/-- What can be read is checked. -/
theorem imageRead_validates (src : l.src ≠ 2) (ok : imageAlone c img err s = false → l.src = 1 →
      hubDma s c.fn (c.ctx / 32) (c.u 0x20 8) (c.u 0x28 8) = none ∧ (hubDown s (warePlace s c).1 (warePlace s c).2).isSome = false) :
    imageRead h c l img ware err s = validate c.ctx h (c.u 0x28 8) (imageBytes c img err s).1 (wareBytes c l img ware err s).1
      (wareBytes c l img ware err s).2 (wareAsked c l img ware err s) := by
  unfold wareBytes wareAsked
  cases alone : imageAlone c img err s with
  | true => simp [imageRead_alone up alone]
  | false =>
    by_cases src' : l.src = 1
    · obtain ⟨admitted, reached⟩ := ok alone src'
      simp [imageRead_device up alone src', admitted, reached, src']
    · simp [imageRead_host up alone src src', src']

end
end

/-- A load whose turn has come is read; another waits (R221). -/
theorem exec_loadImageFetched {h : Nat} {img ware : List Byte} {err : Bool} {l : Load} {c : Cmd} {s : State} (hdbg : undebugged s = true)
    (hc : cmdOf s h = some c) (hl : loadOf s c.ctx = some l) (hh : l.h = h) (hp : l.phase = 1) (hs : l.stop = none) :
    exec (.loadImageFetched h img ware err) s = .next (if earlierLoad s (c.ctx / 32) h then
      park (loadTurn (c.ctx / 32)) 48 (boundary 320 h) (.loadImageFetched h img ware err) s else imageRead h c l img ware err s) := by
  show execLoadImageFetched h img ware err s = _
  unfold execLoadImageFetched
  dsimp only
  rw [withhold_undebugged hdbg, hc]
  simp [hl, hh, hp, hs, done]

/-- A load that has ended as the obligation says. -/
theorem Closed.ends {k status : Nat} {l : Load} {c : Cmd} {s t : State} (h : Closed k l c status s t) :
    Completed l.h c status (l.shared + 2 ^ 16 * l.retained) (l.programmed + 2 ^ 32 * 0xFFFFFFFF) s t ∧ loadOf t k = none ∧ SameMem s t :=
  ⟨h.completed, h.gone, fun a => by rw [rdByte, h.mem, rdByte]⟩

section
variable {img ware : List Byte} {err : Bool} {l : Load} {c : Cmd} {s : State} (hdbg : undebugged s = true)
  (on : Loading c.ctx l c s) (hp : l.phase = 1) (turn : earlierLoad s (c.ctx / 32) l.h = false)
include hdbg on hp turn

theorem exec_imageRead : exec (.loadImageFetched l.h img ware err) s = .next (imageRead l.h c l img ware err s) := by
  rw [exec_loadImageFetched hdbg on.cmd on.load rfl hp on.running, turn, if_neg Bool.false_ne_true]

end

end Sys2Proof.Machine

namespace Sys2Proof.Machine
open Sys2Proof

/-! ### A remap is complete (R230) -/

/-- What a remap tells of: images, remaps, the states of the tiles, the count of remaps, and what it leaves. -/
def remapView (s : State) : (Tab Image × List Remap × (Nat → Word) × (Nat → Word)) × List Host.Cell × Tab Cmd × Tab Seq :=
  ((s.images, s.remaps, (fun i => rd s .TILE_CFG i), fun i => rd s .SET_REMAP_CNT i), s.mem, s.cmds, s.seqs)

section
variable {s t : State}

theorem remapView_of_outer (h : outer t = outer s) (hc : ∀ i, rd t .TILE_CFG i = rd s .TILE_CFG i)
    (hn : ∀ i, rd t .SET_REMAP_CNT i = rd s .SET_REMAP_CNT i) : remapView t = remapView s := by
  have view (u : State) : remapView u = (((outer u).images, (outer u).remaps, (fun i => rd u .TILE_CFG i),
    fun i => rd u .SET_REMAP_CNT i), (outer u).mem, (outer u).cmds, (outer u).seqs) := rfl
  rw [view, view, h, funext hc, funext hn]

theorem remapView_logE (e : LogEntry) (s : State) : remapView (logE e s) = remapView s :=
  remapView_of_outer (outer_logE e s) (fun i => rd_logE e s _ i (by decide)) fun i => rd_logE e s _ i (by decide)

theorem remapView_wr {r : Reg} (hc : Reg.TILE_CFG ≠ r) (hn : Reg.SET_REMAP_CNT ≠ r) (i : Nat) (w : Word) (s : State) :
    remapView (wr r i w s) = remapView s :=
  remapView_of_outer rfl (fun _ => rd_wr_of_ne _ _ hc) fun _ => rd_wr_of_ne _ _ hn

theorem remapView_sendMsix (n vec : Nat) (s : State) : remapView (sendMsix n vec s) = remapView s :=
  remapView_of_outer (outer_sendMsix n vec s) (fun i => rd_sendMsix n vec s _ i) fun i => rd_sendMsix n vec s _ i

theorem remapView_journalBy (x : LogEntry) (off old new mask : Nat) (enter : Bool) (s : State) :
    remapView (journalBy x off old new mask enter s) = remapView s := by
  unfold journalBy
  dsimp only
  split
  · split
    · rfl
    · exact whenS_eq remapView (remapView_logE _ _)
  · exact whenS_eq remapView (remapView_logE _ _)

theorem remapView_loaderLcfg (tl : Nat) (w : Word) (h : Option Nat) (s : State) : remapView (loaderLcfg tl w h s) = remapView s := by
  rw [loaderLcfg, remapView_journalBy, remapView_wr (by decide) (by decide)]

theorem remapView_moveLayer (tile sp l : Nat) (s : State) : remapView (moveLayer tile sp l s) = remapView s := by
  have shadowed (u : State) : remapView (match shadowOf u (tlKey tile l) with
      | some x => { u with shadow := tins (tdel u.shadow (tlKey tile l)) (tlKey sp l) x }
      | none => u) = remapView u := by split <;> rfl
  have cleared (u : State) : remapView (clearValid none (tlKey tile l) u) = remapView u := (remapView_loaderLcfg _ _ _ _).trans rfl
  unfold moveLayer
  exact (cleared _).trans ((shadowed _).trans (remapView_loaderLcfg _ _ _ _))

theorem remapView_findOutcome (kind index lg oc : Nat) (s : State) : remapView (findOutcome kind index lg oc s) = remapView s := by
  unfold findOutcome
  dsimp only
  rw [remapView_logE]
  refine ite_eq remapView ?_ rfl
  rw [signalVec_eq, whenS_eq remapView (remapView_sendMsix _ _ _)]
  exact remapView_wr (by decide) (by decide) _ _ s

theorem remapView_closeFailedFinding (tile oc : Nat) (s : State) : remapView (closeFailedFinding tile oc s) = remapView s := by
  unfold closeFailedFinding
  refine foldS_eq remapView ?_ _ _
  exact fun f => remapView_findOutcome 0 tile f.lg oc

end

/-- The layers of a remap are with the spare. -/
def movedLayers (tile : Nat) (r : Remap) (s : State) : State :=
  let s := foldS r.layers (moveLayer tile r.spare) s
  { s with images := s.images.map fun e => (e.1, redirectImg tile r.spare e.2), remaps := s.remaps.filter fun x => x.tile != tile }

theorem remapView_movedLayers (tile : Nat) (r : Remap) (s : State) : remapView (movedLayers tile r s) =
    remapView { s with images := s.images.map fun e => (e.1, redirectImg tile r.spare e.2),
                       remaps := s.remaps.filter fun x => x.tile != tile } := by
  have moved : remapView (foldS r.layers (moveLayer tile r.spare) s) = remapView s :=
    foldS_eq remapView (remapView_moveLayer tile r.spare) _ _
  exact congrArg (fun v : (Tab Image × List Remap × (Nat → Word) × (Nat → Word)) × List Host.Cell × Tab Cmd × Tab Seq =>
    ((v.1.1.map fun e => (e.1, redirectImg tile r.spare e.2), v.1.2.1.filter fun x => x.tile != tile, v.1.2.2), v.2)) moved

/-- The spare ACTIVE, and counted. -/
def spareActive (r : Remap) (s : State) : State :=
  wrf .SET_REMAP_CNT 15 0 (rf (setTileState r.spare 1 s) .SET_REMAP_CNT 15 0 + 1) 0 (setTileState r.spare 1 s)

theorem spareActive_eq {r : Remap} {s : State} (live : rf s .TILE_CFG 2 0 r.spare ≠ 3) : spareActive r s =
    wrf .SET_REMAP_CNT 15 0 (rf s .SET_REMAP_CNT 15 0 + 1) 0 (wrf .TILE_CFG 2 0 1 r.spare s) := by
  have count : rf (wrf .TILE_CFG 2 0 1 r.spare s) .SET_REMAP_CNT 15 0 = rf s .SET_REMAP_CNT 15 0 := by
    rw [rf, wrf, rd_wr_of_ne _ _ (by decide), rf]
  rw [spareActive, setTileState, if_neg live, count]

theorem rf_spareActive {r : Remap} {s : State} (live : rf s .TILE_CFG 2 0 r.spare ≠ 3) :
    rf (spareActive r s) .TILE_CFG 2 0 r.spare = 1 ∧
      rf (spareActive r s) .SET_REMAP_CNT 15 0 = (rf s .SET_REMAP_CNT 15 0 + 1) % 65536 := by
  rw [spareActive_eq live]
  refine ⟨?_, rf_wrf_same _ _ _ _ _ _ (by decide) (by decide)⟩
  rw [rf, wrf, rd_wr_of_ne _ _ (by decide)]
  exact rf_wrf_same _ _ _ _ _ _ (by decide) (by decide)

theorem exec_remapComplete {tile : Nat} {r : Remap} {s : State} (hr : s.remaps.find? (fun r => r.tile == tile) = some r)
    (idle : ∀ l ∈ r.layers, progOf s (tlKey r.spare l) = none) :
    ∃ t, exec (.remapComplete tile) s = .next t ∧ remapView t = remapView (spareActive r (movedLayers tile r s)) := by
  have still : (r.layers.any fun l => (progOf s (tlKey r.spare l)).isSome) = false := by
    rw [List.any_eq_false]
    intro l hl
    simp [idle l hl]
  have run : ∃ e, execRemapComplete tile s = .next (closeFailedFinding tile 3 (logE e (spareActive r (movedLayers tile r s)))) := by
    unfold execRemapComplete
    rw [hr]
    dsimp only
    rw [still]
    exact ⟨_, rfl⟩
  obtain ⟨e, run⟩ := run
  exact ⟨_, run, (remapView_closeFailedFinding _ _ _).trans (remapView_logE _ _)⟩

theorem ends_remapComplete {tile : Nat} {r : Remap} {s : State} (hr : s.remaps.find? (fun r => r.tile == tile) = some r)
    (idle : ∀ l ∈ r.layers, progOf s (tlKey r.spare l) = none) (live : rf s .TILE_CFG 2 0 r.spare ≠ 3) :
    Ends (.remapComplete tile) s fun t =>
      t.images = s.images.map (fun e => (e.1, redirectImg tile r.spare e.2)) ∧ rf t .TILE_CFG 2 0 r.spare = 1 ∧
      rf t .SET_REMAP_CNT 15 0 = (rf s .SET_REMAP_CNT 15 0 + 1) % 65536 ∧ (∀ x ∈ t.remaps, x.tile ≠ tile) ∧ SameMem s t ∧
      t.cmds = s.cmds ∧ t.seqs = s.seqs := by
  obtain ⟨t, run, told⟩ := exec_remapComplete hr idle
  have moved := remapView_movedLayers tile r s
  have before (i : Nat) : rd (movedLayers tile r s) .TILE_CFG i = rd s .TILE_CFG i := congrFun (congrArg (·.1.2.2.1) moved) i
  have before' : rd (movedLayers tile r s) .SET_REMAP_CNT = rd s .SET_REMAP_CNT := congrFun (congrArg (·.1.2.2.2) moved) 0
  have live' : rf (movedLayers tile r s) .TILE_CFG 2 0 r.spare ≠ 3 := by rwa [rf, before]
  obtain ⟨active, counted⟩ := rf_spareActive live'
  have spare : rd t .TILE_CFG r.spare = rd (spareActive r (movedLayers tile r s)) .TILE_CFG r.spare :=
    congrFun (congrArg (·.1.2.2.1) told) _
  have count : rd t .SET_REMAP_CNT = rd (spareActive r (movedLayers tile r s)) .SET_REMAP_CNT := congrFun (congrArg (·.1.2.2.2) told) 0
  rw [spareActive_eq live'] at told
  have images : t.images = _ := (congrArg (·.1.1) told).trans (congrArg (·.1.1) moved :)
  have remaps : t.remaps = s.remaps.filter fun x => x.tile != tile := (congrArg (·.1.2.1) told).trans (congrArg (·.1.2.1) moved :)
  have mem : t.mem = s.mem := (congrArg (·.2.1) told).trans (congrArg (·.2.1) moved :)
  have cmds : t.cmds = s.cmds := (congrArg (·.2.2.1) told).trans (congrArg (·.2.2.1) moved :)
  have seqs : t.seqs = s.seqs := (congrArg (·.2.2.2) told).trans (congrArg (·.2.2.2) moved :)
  refine ⟨t, run, images, ?_, ?_, ?_, fun a => by rw [rdByte, mem, rdByte], cmds, seqs⟩
  · rwa [rf, spare]
  · rw [rf, count, rf, ← before']
    exact counted
  · rw [remaps]
    intro x hx
    simpa using (List.mem_filter.mp hx).2

end Sys2Proof.Machine

namespace Sys2Proof.Machine
open Sys2Proof

/-! ### The fetched image, and the obligation -/

/-- Settles O19: a load in phase 1 is read, and ends fenced, refused, in error or with its first failure, or holds its image with its
tiles ACTIVE; what lies between leaves what its completion record and its registers tell. -/
theorem imageLoading : Obligations.ImageLoading := by
  unfold Obligations.ImageLoading
  refine ⟨fun h img ware err l c s hdbg hc hl hh hp hs src idle hk => ⟨fun wait => ?_, fun turn => ?_⟩,
    fun tile r s hr _ _ idle live => ends_remapComplete hr (fun j hj => (idle j hj).2) live⟩
  · refine ⟨_, exec_loadImageFetched hdbg hc hl hh hp hs, ?_⟩
    rw [if_pos wait]
    exact ⟨rfl, _, _, List.mem_cons_self⟩
  · subst hh
    have on : Loading c.ctx l c s := ⟨hc, hl, idle, hs⟩
    have run := exec_imageRead (img := img) (ware := ware) (err := err) hdbg on hp turn
    intro dev x alone w given made ends down wareDev refused wareDown
    have unrefused : ¬ refused → hubDma s c.fn (c.ctx / 32) (c.u 0x20 8) (c.u 0x28 8) = none := Option.not_isSome_iff_eq_none.mp
    have up (hd : ¬ down) : imageDown c s = false := by
      rw [imageDown, Bool.eq_false_iff, ne_eq, Bool.and_eq_true]
      exact hd
    refine ⟨?_, ?_, ?_⟩
    · intro unreached
      by_cases hd : down
      · have read := imageRead_down (h := l.h) (l := l) (img := img) (ware := ware) (err := err) (Bool.and_eq_true_iff.mpr hd)
        exact ⟨_, run, read ▸ (fencedLoad_closed on _).ends⟩
      · obtain ⟨⟨ha, src'⟩, admitted, reach⟩ := unreached.resolve_left hd
        have read := imageRead_device (h := l.h) (ware := ware) (up hd) (show imageAlone c img err s = false from ha) src'
        rw [unrefused admitted, Option.elim_none, if_pos reach] at read
        exact ⟨_, run, read ▸ (fencedLoad_closed on _).ends⟩
    · rintro hd ⟨ha, src'⟩ refuse
      have read := imageRead_device (h := l.h) (ware := ware) (up hd) (show imageAlone c img err s = false from ha) src'
      obtain ⟨v, hv⟩ := Option.isSome_iff_exists.mp refuse
      rw [hv, Option.elim_some] at read
      obtain ⟨closed, flagged⟩ := refuseLoad_closed on v
      exact ⟨_, run, read ▸ ⟨closed.ends, flagged⟩⟩
    · intro hd ok v u i check
      have read : imageRead l.h c l img ware err s = validate c.ctx l.h (c.u 0x28 8) x.1 w.1 w.2 v :=
        imageRead_validates (up hd) src fun ha src' =>
          ⟨unrefused (ok ⟨ha, src'⟩).1, Bool.eq_false_iff.mpr (ok ⟨ha, src'⟩).2⟩
      have reads : Reads c.ctx s v := wareAsked_reads c.ctx
      rw [read] at run
      refine ⟨fun bad => ?_, fun f good hf hlt => ?_, fun good hf => ?_⟩
      · rw [bad] at run
        obtain ⟨closed, same⟩ := validate_error_closed (img := x.1) (ware := w.1) (len := c.u 0x28 8) on reads l.h
        exact ⟨_, run, closed.ends, same⟩
      · have hf' : firstFailure c.ctx (c.u 0x28 8) x.1 w.1 i (readLoad c.ctx x.1 false v) = some f := good ▸ hf
        rw [good] at run
        obtain ⟨closed, told⟩ := validate_failure_closed reads rfl on hk l.h hf' hlt
        exact ⟨_, run, closed.ends, told⟩
      · have hf' : firstFailure c.ctx (c.u 0x28 8) x.1 w.1 i (readLoad c.ctx x.1 false v) = none := good ▸ hf
        rw [good] at run
        obtain ⟨hid, hslices, hroutes, active⟩ := validate_accepts reads rfl on l.h hf'
        exact ⟨_, run, hid, hslices, hroutes, fun p hp' _ live => active p hp' live⟩

end Sys2Proof.Machine

namespace Sys2Proof.Machine
open Sys2Proof

/-! ### The start of a command, and what its end leaves (R227, R350, R359, R361) -/

theorem cmdOf_setCmd_same (h : Nat) (c : Cmd) (s : State) : cmdOf (setCmd h c s) h = some c := by
  rw [cmdOf, setCmd, find?_tins_same]
  rfl

/-- A command that runs. -/
def Cmd.started (c : Cmd) : Cmd := { c with run := true }

/-- The state in which a command starts: it runs. -/
def starting (h : Nat) (c : Cmd) (s : State) : State := setCmd h c.started s

theorem cmdOf_starting (h : Nat) (c : Cmd) (s : State) : cmdOf (starting h c s) h = some c.started := cmdOf_setCmd_same _ _ _

/-- A command that may start runs. -/
theorem startCmd_of_startsAs {h op : Nat} {c : Cmd} {s : State} (hs : startsAs s h op c) (f : Cmd → State → State) :
    startCmd h op f s = f c.started (starting h c s) := by
  obtain ⟨hc, rfl, idle, turn, role, unfenced, clear⟩ := hs
  have unfenced' : cxFenced (setCmd h { c with run := true } s) c.ctx = false := unfenced
  have clear' : reservedSet { c with run := true } = false := clear
  simp [startCmd, starting, Cmd.started, hc, idle, turn, role, unfenced', clear']

/-- A command refused with a status that is not logged completes, and nothing else happens. -/
theorem fail_eq_complete {h status : Nat} {c : Cmd} {s : State} (hc : cmdOf s h = some c) (h5 : status ≠ 0x05)
    (hA : status ≠ 0x0A) : fail h status s = complete h status 0 0 s := by
  simp [fail, hc, whenS, stFenced, h5, hA]

/-- A bus error that no function's access caused changes what an event changes (R455). -/
theorem outer_hubErr {source : Nat} (h : source ≠ 0) (cause space addr func : Nat) (write : Bool) (s : State) :
    outer (hubErr cause space addr func source write s) = outer s := by
  rw [hubErr, if_neg h]
  unfold hubErrA
  dsimp only
  rw [whenS_eq outer (outer_sendMsix _ _ _), outer_logE]
  split
  · rw [outer_bumpSat, outer_setEv]
  · rw [outer_wr, outer_wr, outer_wr, outer_bumpSat, outer_setEv]

theorem outer_signal (fn vec : Nat) (s : State) : outer (signal fn vec s) = outer s := by
  unfold signal
  split
  · exact outer_sendMsix _ _ _
  · exact outer_hubErr (by decide) _ _ _ _ _ _

/-- The snapshots and the tiles: the end of a command concerns neither. -/
def heldView (s : State) : Tab (List Nat) × Tab Tile := (s.snaps, s.tiles)

/-- What a completion record concerns neither: the sequences and the commands besides. -/
def recordView (s : State) : (Tab (List Nat) × Tab Tile) × Tab Seq × Tab Cmd := (heldView s, s.seqs, s.cmds)

theorem recordView_of_outer {s t : State} (h : outer t = outer s) : recordView t = recordView s := (congrArg recordView h :)

theorem recordView_modQueue (k : Nat) (f : QueueS → QueueS) (s : State) : recordView (modQueue k f s) = recordView s := rfl

theorem recordView_putRecord (k kind handle cid status info tag value : Nat) (s : State) :
    recordView (putRecord k kind handle cid status info tag value s) = recordView s := by
  unfold putRecord
  dsimp only
  split
  · rfl
  · split
    · rw [queueError, srvLog, recordView_of_outer (outer_logE _ _), recordView_modQueue, recordView_of_outer (outer_wrf _ _ _ _ _ _),
        recordView_of_outer (outer_setEv _ _ _ _), recordView_modQueue, recordView_modQueue]
    · rfl

/-- The record of a completion and its signal leave the sequences and the commands. -/
theorem recordView_record (told : Bool) (fn vec k kind handle cid status info tag value : Nat) (s : State) :
    recordView (whenS told (signal fn vec) (putRecord k kind handle cid status info tag value s)) = recordView s :=
  (whenS_eq recordView (recordView_of_outer (outer_signal fn vec _))).trans (recordView_putRecord _ _ _ _ _ _ _ _ s)

theorem heldView_derefDesc (d : Nat) (s : State) : heldView (derefDesc d s) = heldView s := by
  unfold derefDesc releaseUnit
  dsimp only
  split
  · split <;> rfl
  · rfl

theorem heldView_releaseUnit (a : Nat) (s : State) : heldView (releaseUnit a s) = heldView s := by
  unfold releaseUnit
  split <;> rfl

theorem heldView_modSeq (i : Nat) (f : Seq → Seq) (s : State) : heldView (modSeq i f s) = heldView s := rfl

theorem heldView_dropPages (ps : Tab PEnt) (s : State) : heldView (dropPages ps s) = heldView s :=
  foldS_eq heldView (f := fun e : Nat × PEnt => derefDesc e.2.desc) (fun e u => heldView_derefDesc e.2.desc u) ps s

theorem heldView_dropSlips (i : Nat) (p : Nat → Bool) (s : State) : heldView (dropSlips i p s) = heldView s :=
  (foldS_eq heldView (fun (e : Nat × Nat) u => heldView_releaseUnit (e.2 - 1) u) _ _).trans (heldView_modSeq i _ s)

theorem heldView_freeSeqIdx (i : Nat) (s : State) : heldView (freeSeqIdx i s) = heldView s := by
  rw [freeSeqIdx, heldView_modSeq, dropSeqData]
  exact (heldView_dropSlips _ _ _).trans ((heldView_dropPages _ _).trans (heldView_modSeq _ _ s))

theorem heldView_freeSeqAll (i : Nat) (s : State) : heldView (freeSeqAll i s) = heldView s :=
  (heldView_freeSeqIdx i _).trans (foldS_eq heldView heldView_freeSeqIdx _ s)

theorem heldView_freeRetired (s : State) : heldView (freeRetired s) = heldView s := by
  unfold freeRetired
  dsimp only
  refine foldS_eq heldView (fun i u => ?_) _ s
  rw [heldView_freeSeqAll]
  rfl

theorem heldView_completeOne (h status info value : Nat) (s : State) : heldView (completeOne h status info value s) = heldView s := by
  have drain (k : Nat) (u : State) : heldView (drained k u) = heldView u := by
    unfold drained
    split <;> rfl
  unfold completeOne
  split
  · rfl
  · dsimp only
    rw [drain, heldView_freeRetired, whenS_eq heldView rfl]
    exact congrArg Prod.fst (recordView_record _ _ _ _ _ _ _ _ _ _ _ s)

theorem heldView_complete (h status info value : Nat) (s : State) : heldView (complete h status info value s) = heldView s := by
  have settle (n : Nat) (u : State) : heldView (settleCancels n u) = heldView u := by
    induction n generalizing u with
    | zero => rfl
    | succ n ih =>
      rw [settleCancels]
      split
      · exact (ih _).trans (heldView_completeOne _ _ _ _ u)
      · rfl
  exact (settle _ _).trans (heldView_completeOne _ _ _ _ s)

theorem complete_sameMem (h status info value : Nat) (s : State) : SameMem s (complete h status info value s) :=
  rdByte_congr (mem_of_last ((complete_settled h status info value s).view .SET_ERR rfl))

/-! A command whose end ends nothing else. -/

theorem freeRetired_eq_self {s : State} (h : ∀ e ∈ s.seqs, e.2.retired = false) : freeRetired s = s := by
  have none : (s.seqs.filter fun e => e.2.used && e.2.retired && !e.2.hidden &&
      !(s.cmds.any fun c => c.2.ctx == e.2.ctx && (c.2.seqId == some (seqIdOf s e.1) || c.2.seq == some e.1))) = [] := by
    rw [List.filter_eq_nil_iff]
    intro e he
    simp [h e he]
  rw [freeRetired, none]
  rfl

theorem endsAlone_iff {s : State} : endsAlone s = true ↔
    (∀ e ∈ s.cmds, ¬(e.2.run = true ∧ (e.2.op = 0x30 ∨ e.2.op = 0x03) ∧ e.2.aux.isSome = true)) ∧
      ∀ e ∈ s.seqs, e.2.retired = false := by
  simp only [endsAlone, Bool.and_eq_true, List.all_eq_true, Bool.not_eq_true', ← Bool.not_eq_true, Bool.or_eq_true, beq_iff_eq,
    and_assoc]

theorem endsAlone_congr {s t : State} (cmds : t.cmds = s.cmds) (seqs : t.seqs = s.seqs) : endsAlone t = endsAlone s := by
  rw [endsAlone, cmds, seqs, endsAlone]

/-- A command that waits for no other's end takes its slot in such a state. -/
theorem endsAlone_setCmd {s : State} (h : endsAlone s = true) (j : Nat) {c : Cmd} (hc : c.op ≠ 0x30) (hd : c.op ≠ 0x03) :
    endsAlone (setCmd j c s) = true := by
  obtain ⟨cmds, seqs⟩ := endsAlone_iff.mp h
  refine endsAlone_iff.mpr ⟨fun e he => ?_, seqs⟩
  rcases mem_tins he with rfl | he
  · rintro ⟨-, h | h, -⟩
    · exact hc h
    · exact hd h
  · exact cmds e he

theorem settleCancels_eq_self {s : State}
    (h : ∀ e ∈ s.cmds, ¬(e.2.run = true ∧ (e.2.op = 0x30 ∨ e.2.op = 0x03) ∧ e.2.aux.isSome = true))
    (n : Nat) : settleCancels n s = s := by
  cases n with
  | zero => rfl
  | succ n =>
    rw [settleCancels]
    split
    next e found =>
      have waits := List.find?_some found
      refine absurd ?_ (h e (List.mem_of_find?_eq_some found))
      simp only [Bool.and_eq_true, Bool.or_eq_true, beq_iff_eq] at waits
      refine ⟨waits.1.2, waits.1.1, ?_⟩
      cases aux : e.2.aux with
      | none => simp [aux] at waits
      | some t => rfl
    next => rfl

/-- What follows the record, where no sequence waits to be freed, gives the slot back alone. -/
theorem afterRecord_alone {s : State} (seqs : ∀ e ∈ s.seqs, e.2.retired = false) (c : Cmd) (k h : Nat) :
    let t := drained k (freeRetired (whenS (c.op == 1) (freeRoom (· == loadTurn (c.ctx / 32))) (freeSlot h s)))
    t.seqs = s.seqs ∧ t.cmds = tdel s.cmds h := by
  have freed : ∃ d, whenS (c.op == 1) (freeRoom (· == loadTurn (c.ctx / 32))) (freeSlot h s) = { freeSlot h s with dbg := d } := by
    unfold whenS
    split <;> exact ⟨_, rfl⟩
  obtain ⟨d, hd⟩ := freed
  have quiet : freeRetired { freeSlot h s with dbg := d } = { freeSlot h s with dbg := d } := freeRetired_eq_self seqs
  rw [hd, quiet]
  unfold drained
  split <;> exact ⟨rfl, rfl⟩

/-- The end of such a command leaves the sequences. -/
theorem complete_seqs {s : State} (alone : endsAlone s = true) (h status info value : Nat) :
    (complete h status info value s).seqs = s.seqs := by
  obtain ⟨cmds, seqs⟩ := endsAlone_iff.mp alone
  have one : (completeOne h status info value s).seqs = s.seqs ∧ (completeOne h status info value s).cmds ⊆ s.cmds := by
    unfold completeOne
    split
    · exact ⟨rfl, fun _ h => h⟩
    next c _ =>
      dsimp only
      generalize hw : whenS _ (signal _ _) _ = w
      have view : recordView w = recordView s := hw ▸ recordView_record _ _ _ _ _ _ _ _ _ _ _ s
      have ws : w.seqs = s.seqs := congrArg (·.2.1) view
      have wc : w.cmds = s.cmds := congrArg (·.2.2) view
      obtain ⟨hs, hc⟩ := afterRecord_alone (ws.symm ▸ seqs) c (qkOf c.fn c.q) h
      exact ⟨hs.trans ws, hc ▸ wc ▸ List.filter_subset_self _⟩
  obtain ⟨hseqs, hcmds⟩ := one
  rw [complete, settleCancels_eq_self fun e he => cmds e (hcmds he)]
  exact hseqs

/-- A completion record depends on the link, the queues and the functions alone. -/
theorem Completed.of_same {h : Nat} {c : Cmd} {st info val : Nat} {s s' t : State} (done : Completed h c st info val s' t)
    (queues : s'.queues = s.queues) (fns : s'.fns = s.fns) (pcie : s'.pcie = s.pcie) : Completed h c st info val s t := by
  unfold Completed queueOf fnOf at done ⊢
  rwa [queues, fns, pcie] at done

end Sys2Proof.Machine

namespace Sys2Proof.Machine
open Sys2Proof

/-! ### The snapshot of a checkpoint (R327, R381) -/

/-- The state without what a snapshot concerns: commands, snapshots and their parts, descriptors, pins and the units they hold. -/
def unsnapped (s : State) : State :=
  { s with cmds := [], snaps := [], kvParts := [], descs := [], pins := [], releasing := [] }

section
variable {s t : State} (h : unsnapped t = unsnapped s)
include h

theorem mem_of_unsnapped : t.mem = s.mem := (congrArg State.mem h :)
theorem seqs_of_unsnapped : t.seqs = s.seqs := (congrArg State.seqs h :)
theorem tiles_of_unsnapped : t.tiles = s.tiles := (congrArg State.tiles h :)
theorem queues_of_unsnapped : t.queues = s.queues := (congrArg State.queues h :)
theorem fns_of_unsnapped : t.fns = s.fns := (congrArg State.fns h :)
theorem pcie_of_unsnapped : t.pcie = s.pcie := (congrArg State.pcie h :)

end

theorem unsnapped_setCmd (h : Nat) (c : Cmd) (s : State) : unsnapped (setCmd h c s) = unsnapped s := rfl

theorem unsnapped_derefDesc (d : Nat) (s : State) : unsnapped (derefDesc d s) = unsnapped s := by
  unfold derefDesc releaseUnit
  dsimp only
  split
  · split <;> rfl
  · rfl

theorem unsnapped_unpin (a reader : Nat) (s : State) : unsnapped (unpin a reader s) = unsnapped s := by
  unfold unpin
  dsimp only
  split <;> rfl

/-- A snapshot given up: its references and pins are dropped, and nothing else happens. -/
theorem unsnapped_dropSnap (h : Nat) (s : State) : unsnapped (dropSnap h s) = unsnapped s := by
  unfold dropSnap
  dsimp only
  refine (foldS_eq unsnapped unsnapped_derefDesc _ _).trans ?_
  exact foldS_eq unsnapped (fun a => unsnapped_unpin a 0x41) _ s

theorem unpin_cmds (a reader : Nat) (s : State) : (unpin a reader s).cmds = s.cmds := by
  unfold unpin
  dsimp only
  split <;> rfl

theorem derefDesc_cmds (d : Nat) (s : State) : (derefDesc d s).cmds = s.cmds := by
  unfold derefDesc releaseUnit
  dsimp only
  split
  · split <;> rfl
  · rfl

theorem dropSnap_cmds (h : Nat) (s : State) : (dropSnap h s).cmds = s.cmds := by
  unfold dropSnap
  dsimp only
  refine (foldS_eq State.cmds derefDesc_cmds _ _).trans ?_
  exact foldS_eq State.cmds (fun a => unpin_cmds a 0x41) _ s

/-- A snapshot given up is gone. -/
theorem dropSnap_snaps (h : Nat) (s : State) : tget [] (dropSnap h s).snaps h = [] := by
  have none (u : State) : tget [] (tdel u.snaps h) h = [] := tget_tdel_same _ _ _
  unfold dropSnap
  dsimp only
  rw [foldS_eq State.snaps fun d u => congrArg Prod.fst (heldView_derefDesc d u)]
  exact none _

/-- What is kept of the moment of a snapshot of sequence `i`, whose layers are `ls` (R381). -/
def snapOf (i : Nat) (ls : List Nat) (s : State) : Snap :=
  { pend := (seqOf s i).pend, gen := genOn s i, time := s.now, pins := ls.flatMap fun l => framesOf s i l (seqOf s i).len }

/-- The records below `n` of a layer of sequence `i` are copied for command `h`. -/
def copyPart (h i self n l : Nat) (s : State) : State :=
  { s with kvParts := tset [] s.kvParts (h * 2 ^ 12 + self * 64 + l) ((partOf s i l n).map (·.toNat)) }

/-- The pages of sequence `i` are referenced for command `h`. -/
def keepPages (h i : Nat) (s : State) : State :=
  takePages (seqOf s i).pages { s with snaps := tset [] s.snaps h ((seqOf s i).pages.map fun p => p.2.desc) }

/-- The pages of sequence `i` are referenced and pinned for command `h`, and its records copied (R327, R381). -/
def keepSnap (h i self : Nat) (ls : List Nat) (s : State) : State :=
  foldS ls (copyPart h i self (seqOf s i).len) (foldS (snapOf i ls s).pins (fun a => pin a 0x41) (keepPages h i s))

theorem unsnapped_keepPages (h i : Nat) (s : State) : unsnapped (keepPages h i s) = unsnapped s :=
  foldS_eq unsnapped (f := fun e : Nat × PEnt => refDesc e.2.desc) (fun _ _ => rfl) _ _

theorem keepPages_snaps (h i : Nat) (s : State) :
    (keepPages h i s).snaps = tset [] s.snaps h ((seqOf s i).pages.map fun p => p.2.desc) :=
  foldS_eq State.snaps (f := fun e : Nat × PEnt => refDesc e.2.desc) (fun _ _ => rfl) _ _

theorem unsnapped_keepSnap (h i self : Nat) (ls : List Nat) (s : State) : unsnapped (keepSnap h i self ls s) = unsnapped s :=
  calc unsnapped (keepSnap h i self ls s)
    _ = unsnapped (foldS (snapOf i ls s).pins (fun a => pin a 0x41) (keepPages h i s)) :=
      foldS_eq unsnapped (f := copyPart h i self (seqOf s i).len) (fun _ _ => rfl) _ _
    _ = unsnapped (keepPages h i s) := foldS_eq unsnapped (f := fun a => pin a 0x41) (fun _ _ => rfl) _ _
    _ = unsnapped s := unsnapped_keepPages h i s

theorem keepSnap_snaps (h i self : Nat) (ls : List Nat) (s : State) :
    tget [] (keepSnap h i self ls s).snaps h = (seqOf s i).pages.map fun p => p.2.desc := by
  have snaps : (keepSnap h i self ls s).snaps = (keepPages h i s).snaps :=
    (foldS_eq State.snaps (f := copyPart h i self (seqOf s i).len) (fun _ _ => rfl) _ _).trans
      (foldS_eq State.snaps (f := fun a => pin a 0x41) (fun _ _ => rfl) _ _)
  rw [snaps, keepPages_snaps, tget_tset_same]

theorem keepSnap_cmds (h i self : Nat) (ls : List Nat) (s : State) : (keepSnap h i self ls s).cmds = s.cmds :=
  calc (keepSnap h i self ls s).cmds
    _ = (foldS (snapOf i ls s).pins (fun a => pin a 0x41) (keepPages h i s)).cmds :=
      foldS_eq State.cmds (f := copyPart h i self (seqOf s i).len) (fun _ _ => rfl) _ _
    _ = (keepPages h i s).cmds := foldS_eq State.cmds (f := fun a => pin a 0x41) (fun _ _ => rfl) _ _
    _ = s.cmds := foldS_eq State.cmds (f := fun e : Nat × PEnt => refDesc e.2.desc) (fun _ _ => rfl) _ _

theorem mem_foldS_pin {a reader : Nat} {as : List Nat} (ha : a ∈ as) (s : State) :
    (a, reader) ∈ (foldS as (fun a => pin a reader) s).pins := by
  have stays (bs : List Nat) (u : State) (hu : (a, reader) ∈ u.pins) :
      (a, reader) ∈ (foldS bs (fun a => pin a reader) u).pins := by
    unfold foldS
    induction bs generalizing u with
    | nil => exact hu
    | cons b bs ih => exact ih (pin b reader u) (List.mem_cons_of_mem (b, reader) hu)
  induction as generalizing s with
  | nil => exact absurd ha List.not_mem_nil
  | cons b as ih =>
    rcases List.mem_cons.mp ha with rfl | ha
    · exact stays as (pin a reader s) List.mem_cons_self
    · exact ih ha (pin b reader s)

/-- The frames of the layers of a snapshot are pinned. -/
theorem mem_keepSnap_pins {h i self l a : Nat} {ls : List Nat} {s : State} (hl : l ∈ ls)
    (ha : a ∈ framesOf s i l (seqOf s i).len) :
    (a, 0x41) ∈ (keepSnap h i self ls s).pins := by
  rw [keepSnap, foldS_eq State.pins (f := copyPart h i self (seqOf s i).len) fun _ _ => rfl]
  exact mem_foldS_pin (List.mem_flatMap.mpr ⟨l, hl, ha⟩) _

/-! ### The checkpoint is put together (R381, R382) -/

theorem bytesBE_length (n v : Nat) : (bytesBE n v).length = n := by rw [bytesBE, List.length_reverse, bytesLE_length]

theorem ckptHeader_length (im : Image) (e : EntryE) (total n : Nat) (x : Snap) (body : List Byte) :
    (ckptHeader im e total n x body).length = 256 := by
  unfold ckptHeader
  dsimp only
  simp only [List.length_append, bytesLE_length, bytesBE_length]

/-- The parts of the layers of a checkpoint, one after the other. -/
def ckptBody (h : Nat) (c : Cmd) (s : State) : List Byte :=
  let e := roleE s (c.im.getD 0) 0
  (List.range e.layers).flatMap fun j => layerPart s h (e.first + j) c.info (imgOf s (c.im.getD 0))

/-- The bytes of a checkpoint, header and parts. -/
def ckptWords (h : Nat) (c : Cmd) (s : State) : List Nat :=
  (ckptHeader (imgOf s (c.im.getD 0)) (roleE s (c.im.getD 0) 0) (256 + (ckptBody h c s).length) c.info c.snap (ckptBody h c s) ++
    ckptBody h c s).map (·.toNat)

theorem ckptWords_length (h : Nat) (c : Cmd) (s : State) : (ckptWords h c s).length = 256 + (ckptBody h c s).length := by
  rw [ckptWords, List.length_map, List.length_append, ckptHeader_length]

/-- A checkpoint whose parts have all come waits to be moved, or its destination is too short. -/
theorem ckptReady_eq {h : Nat} {c : Cmd} {s : State} (hc : cmdOf s h = some c) (hop : c.op = 0x20) (came : c.left = 0)
    (fresh : c.words = []) : ckptReady h s =
      if c.u 0x20 8 < 256 + (ckptBody h c s).length then complete h 3 0 (256 + (ckptBody h c s).length) (dropSnap h s)
      else setCmd h { c with words := ckptWords h c s, value := 256 + (ckptBody h c s).length } s := by
  have ready : (c.op != 0x20 || c.left != 0 || !c.words.isEmpty) = false := by simp [hop, came, fresh]
  unfold ckptReady
  rw [hc]
  dsimp only
  rw [ready, if_neg Bool.false_ne_true]
  rfl

/-- The layers of a role. -/
def roleLayers (e : EntryE) : List Nat := (List.range e.layers).map (e.first + ·)

/-- The command of a checkpoint of sequence `i` whose parts are all here: `u` is the state in which it starts. -/
def snapCmd (c : Cmd) (i : Nat) (ls : List Nat) (u : State) : Cmd :=
  { c with seq := some i, info := (seqOf u i).len, left := 0, snap := snapOf i ls u }

/-- The state in which the snapshot of CHECKPOINT has been taken; `u` is the state in which the command starts. -/
def snapState (h m i : Nat) (c : Cmd) (u : State) : State :=
  setCmd h (snapCmd c i (roleLayers (roleE u m 0)) u) (keepSnap h i (imgOf u m).peers.self (roleLayers (roleE u m 0)) u)

/-- CHECKPOINT to host memory, outside a job, takes its snapshot, and no part has to come from another member. -/
theorem exec_checkpoint {h m i : Nat} {c : Cmd} {s : State} (starts : startsAs s h 0x20 c) (im : c.im = some m)
    (unbound : (seqOf s (c.u 0x10 4 % 4096)).bind = none) (flushed : noFlush s (c.u 0x10 4 % 4096) = true)
    (known : seqCheck s c (c.u 0x10 4) = .ok i) (host : c.u 0x14 1 = 0) (unjobbed : (imgOf s m).peers.job = 0)
    (clean : ∀ j, j < (roleE s m 0).layers → partPoison s i ((roleE s m 0).first + j) (seqOf s i).len = false) :
    exec (.checkpoint h) s = .next (ckptReady h (snapState h m i c.started (starting h c s))) := by
  have hold : (((cmdOf s h).map fun c => (seqOf s (c.u 0x10 4 % 4096)).bind.isSome || !noFlush s (c.u 0x10 4 % 4096)).getD false) =
      false := by
    obtain ⟨hc, -⟩ := starts
    simp [hc, unbound, flushed]
  have im' : c.started.im = some m := im
  have host' : c.started.u 0x14 1 = 0 := host
  have known' : seqCheck (starting h c s) c.started (c.started.u 0x10 4) = .ok i := known
  have unjobbed' : (imgOf (starting h c s) m).peers.job = 0 := unjobbed
  have alone (n : Nat) : (ranksOf (imgOf (starting h c s) m)).filter (fun r => r != (imgOf (starting h c s) m).peers.self &&
      !(heldBy (imgOf (starting h c s) m) r n).isEmpty) = [] := by simp [ranksOf, unjobbed']
  have clean' : (roleLayers (roleE (starting h c s) m 0)).any (fun l =>
      partPoison (starting h c s) i l (seqOf (starting h c s) i).len) = false := by
    rw [roleLayers, List.any_map, List.any_eq_false]
    exact fun j hj => ne_true_of_eq_false (clean j (List.mem_range.mp hj))
  change execCheckpoint h s = _
  unfold execCheckpoint
  dsimp only
  rw [hold, if_neg Bool.false_ne_true, startCmd_of_startsAs starts, im']
  dsimp only
  rw [known']
  dsimp only
  rw [host', if_neg (by simp [rangeBad]), if_neg (by simp)]
  refine congrArg done ((if_neg (ne_true_of_eq_false clean')).trans ?_)
  rw [alone, List.length_nil, Nat.zero_mul, snapState, snapCmd, im']
  rfl

end Sys2Proof.Machine

namespace Sys2Proof.Machine
open Sys2Proof

/-! ### CHECKPOINT and the transfer of its bytes (R360, R381) -/

/-- The end of a command that gives up its snapshot. -/
structure EndsSnap (h : Nat) (c : Cmd) (status info value : Nat) (s t : State) : Prop where
  completed : Completed h c status info value s t
  gone : tget [] t.snaps h = []
  mem : SameMem s t
  tiles : t.tiles = s.tiles
  seqs : endsAlone s = true → t.seqs = s.seqs
  sent : s.out ⊆ t.out

theorem complete_dropSnap {h : Nat} {c : Cmd} {s : State} (hc : cmdOf s h = some c) (status info value : Nat) :
    EndsSnap h c status info value s (complete h status info value (dropSnap h s)) := by
  have dropped := unsnapped_dropSnap h s
  have held := heldView_complete h status info value (dropSnap h s)
  have running : cmdOf (dropSnap h s) h = some c := by rw [cmdOf, dropSnap_cmds]; exact hc
  constructor
  case completed =>
    exact (complete_completed running status info value).of_same (queues_of_unsnapped dropped) (fns_of_unsnapped dropped)
      (pcie_of_unsnapped dropped)
  case gone => exact (congrArg (fun v => tget [] v.1 h) held).trans (dropSnap_snaps h s)
  case mem => exact fun a => (complete_sameMem _ _ _ _ _ a).trans (rdByte_congr (mem_of_unsnapped dropped) a)
  case tiles => exact (congrArg Prod.snd held).trans (tiles_of_unsnapped dropped)
  case seqs =>
    intro alone
    have alone' := (endsAlone_congr (dropSnap_cmds h s) (seqs_of_unsnapped dropped)).trans alone
    exact (complete_seqs alone' _ _ _ _).trans (seqs_of_unsnapped dropped)
  case sent =>
    have out : (dropSnap h s).out = s.out := (congrArg State.out dropped :)
    exact out ▸ (complete_settled h status info value (dropSnap h s)).sent

section
variable {h m i : Nat} {c : Cmd} {s : State}

theorem unsnapped_snapState (d : Cmd) : unsnapped (snapState h m i d (starting h c s)) = unsnapped s := by
  rw [snapState, unsnapped_setCmd, unsnapped_keepSnap, starting, unsnapped_setCmd]

theorem cmdOf_snapState (u : State) : cmdOf (snapState h m i c u) h = some (snapCmd c i (roleLayers (roleE u m 0)) u) :=
  cmdOf_setCmd_same h _ _

theorem endsAlone_snapState (alone : endsAlone s = true) (hop : c.op = 0x20) :
    endsAlone (snapState h m i c.started (starting h c s)) = true := by
  have notCancel : c.op ≠ 0x30 := by rw [hop]; decide
  have notDiscard : c.op ≠ 0x03 := by rw [hop]; decide
  refine endsAlone_setCmd ?_ h notCancel notDiscard
  rw [endsAlone_congr (keepSnap_cmds h i _ _ _) (seqs_of_unsnapped (unsnapped_keepSnap h i _ _ _))]
  exact endsAlone_setCmd alone h notCancel notDiscard

theorem snaps_snapState (u : State) : tget [] (snapState h m i c u).snaps h = (seqOf u i).pages.map fun p => p.2.desc :=
  keepSnap_snaps _ _ _ _ _

theorem mem_snapState_pins {u : State} {j a : Nat} (hj : j < (roleE u m 0).layers)
    (ha : a ∈ framesOf u i ((roleE u m 0).first + j) (seqOf u i).len) : (a, 0x41) ∈ (snapState h m i c u).pins :=
  mem_keepSnap_pins (List.mem_map.mpr ⟨j, List.mem_range.mpr hj, rfl⟩) ha

/-- A checkpoint whose parts have all come ends where the destination is too short for header and parts, and waits to be moved
elsewhere (R381, R382). -/
theorem ckptReady_cases {d : Cmd} {v : State} (hd : cmdOf v h = some d) (hop : d.op = 0x20)
    (came : d.left = 0) (fresh : d.words = []) :
    ∃ total, 256 ≤ total ∧ (d.u 0x20 8 < total ∧ EndsSnap h d 3 0 total v (ckptReady h v) ∨
      ¬ d.u 0x20 8 < total ∧ ∃ ws, ws.length = total ∧ ckptReady h v = setCmd h { d with words := ws, value := total } v) := by
  refine ⟨256 + (ckptBody h d v).length, Nat.le_add_right _ _, ?_⟩
  rw [ckptReady_eq hd hop came fresh]
  by_cases short : d.u 0x20 8 < 256 + (ckptBody h d v).length
  · exact .inl ⟨short, if_pos short ▸ complete_dropSnap hd _ _ _⟩
  · exact .inr ⟨short, ckptWords h d v, ckptWords_length h d v, if_neg short⟩

/-- CHECKPOINT at a snapshot: it waits to be moved, or completes where the destination is too short. -/
theorem ckptReady_snapState (hop : c.op = 0x20) (alone : endsAlone s = true) (fresh : c.words = []) {v t : State}
    (hv : snapState h m i c.started (starting h c s) = v) (ht : ckptReady h v = t) :
    SameMem s t ∧ t.seqs = s.seqs ∧ t.tiles = s.tiles ∧
    ∃ total, 256 ≤ total ∧ (if c.u 0x20 8 < total then Completed h c 3 0 total s t ∧ tget [] t.snaps h = []
      else ∃ d, cmdOf t h = some d ∧ d.run = true ∧ d.seq = some i ∧ d.info = (seqOf s i).len ∧ d.words.length = total ∧
        d.value = total ∧ tget [] t.snaps h = ((seqOf s i).pages.map fun p => p.2.desc) ∧
        ∀ j, j < (roleE s m 0).layers → ∀ a ∈ framesOf s i ((roleE s m 0).first + j) (seqOf s i).len, (a, 0x41) ∈ t.pins) := by
  have kept : unsnapped v = unsnapped s := hv ▸ unsnapped_snapState _
  have running : cmdOf v h = some (snapCmd c.started i (roleLayers (roleE s m 0)) (starting h c s)) :=
    hv ▸ cmdOf_snapState _
  have mem := rdByte_congr (mem_of_unsnapped kept)
  obtain ⟨total, least, ⟨short, ends⟩ | ⟨long, ws, hws, waits⟩⟩ := ckptReady_cases running hop rfl fresh
  · rw [ht] at ends
    have alone' : endsAlone v = true := hv ▸ endsAlone_snapState alone hop
    refine ⟨fun a => (ends.mem a).trans (mem a), (ends.seqs alone').trans (seqs_of_unsnapped kept),
      ends.tiles.trans (tiles_of_unsnapped kept), total, least, ?_⟩
    rw [if_pos (show c.u 0x20 8 < total from short)]
    exact ⟨ends.completed.of_same (queues_of_unsnapped kept) (fns_of_unsnapped kept) (pcie_of_unsnapped kept), ends.gone⟩
  · obtain rfl := waits.symm.trans ht
    refine ⟨mem, seqs_of_unsnapped kept, tiles_of_unsnapped kept, total, least, ?_⟩
    rw [if_neg (show ¬ c.u 0x20 8 < total from long)]
    refine ⟨_, cmdOf_setCmd_same h _ v, rfl, rfl, rfl, hws, rfl, ?_, fun j hj a ha => ?_⟩
    · exact hv ▸ snaps_snapState (c := c.started) (starting h c s)
    · exact hv ▸ mem_snapState_pins (c := c.started) (u := starting h c s) hj ha

end

/-- A MiB of a checkpoint, or its rest, leaves for host memory. -/
theorem moveCkpt_host {h : Nat} {c : Cmd} (s : State) (host : c.u 0x14 1 = 0) : moveCkpt h c s =
    let sent := emit (.hostWrite c.fn (c.u 0x18 8 + (c.value - c.words.length)) (c.words.take 1048576)) s
    if (c.words.drop 1048576).isEmpty then complete h 0 c.info c.value (dropSnap h sent)
    else progress h (setCmd h { c with words := c.words.drop 1048576 } sent) := by
  unfold moveCkpt
  simp [host, mib]

theorem progress_setCmd (h : Nat) (c : Cmd) (s : State) : progress h (setCmd h c s) =
    setCmd h { c with prog := s.now } (setCmd h c s) := by
  rw [progress, modCmd, cmdOf_setCmd_same]
  rfl

/-- The bytes of a checkpoint that have not been moved go to host memory; the last of them complete the command. -/
theorem moveCkpt_last {h : Nat} {c : Cmd} {s : State} (hc : cmdOf s h = some c) (host : c.u 0x14 1 = 0)
    (last : c.words.length ≤ 1048576) :
    EndsSnap h c 0 c.info c.value (emit (.hostWrite c.fn (c.u 0x18 8 + (c.value - c.words.length)) c.words) s) (moveCkpt h c s) := by
  have empty : (c.words.drop 1048576).isEmpty = true := by rw [List.drop_eq_nil_of_le last]; rfl
  rw [moveCkpt_host s host, List.take_of_length_le last]
  dsimp only
  rw [if_pos empty]
  exact complete_dropSnap (s := emit _ s) hc 0 c.info c.value

/-- A full MiB goes to host memory, and bytes remain. -/
theorem moveCkpt_more {h : Nat} {c : Cmd} {s : State} (host : c.u 0x14 1 = 0) (more : 1048576 < c.words.length) :
    moveCkpt h c s = setCmd h { c with words := c.words.drop 1048576, prog := s.now }
      (setCmd h { c with words := c.words.drop 1048576 }
      (emit (.hostWrite c.fn (c.u 0x18 8 + (c.value - c.words.length)) (c.words.take 1048576)) s)) := by
  have rest : ¬ (c.words.drop 1048576).isEmpty = true := by
    rw [List.isEmpty_iff, List.drop_eq_nil_iff]
    exact Nat.not_le_of_lt more
  rw [moveCkpt_host s host]
  dsimp only
  rw [if_neg rest, progress_setCmd]
  rfl

theorem exec_dmaMibMoved {h : Nat} {c : Cmd} {s : State} (hc : cmdOf s h = some c) (running : c.run = true) :
    (c.op = 0x20 → c.words ≠ [] → exec (.dmaMibMoved h) s = .next (moveCkpt h c s)) ∧
    (c.op = 0x21 → exec (.dmaMibMoved h) s = .next
      (if c.left ≤ 1 then complete h 0 c.info c.value s else progress h (setCmd h { c with left := c.left - 1 } s))) := by
  have run : exec (.dmaMibMoved h) s = execDmaMibMoved h s := rfl
  rw [run, execDmaMibMoved, hc]
  exact ⟨fun hop more => by simp [running, hop, more, done], fun hop => by simp [running, hop, done]⟩

end Sys2Proof.Machine

namespace Sys2Proof.Machine
open Sys2Proof

/-! ### The steps of a restore (R332, R383) -/

/-- What every step of a reservation keeps, the reservation keeps. -/
theorem reserveAll_invariant {P : State → Prop} {fs : List (State → Option State)}
    (step : ∀ f ∈ fs, ∀ u v, P u → f u = some v → P v) {s t : State} (h : P s) (ran : reserveAll fs s = some t) : P t := by
  induction fs generalizing s with
  | nil => exact Option.some.inj ran ▸ h
  | cons f fs ih =>
    rw [reserveAll] at ran
    split at ran
    next u hu => exact ih (fun g hg => step g (List.mem_cons_of_mem _ hg)) (step f List.mem_cons_self s u h hu) ran
    next => exact absurd ran (by simp)

theorem seqs_wrBytes (a : Nat) (xs : List Byte) (s : State) : (wrBytes a xs s).seqs = s.seqs :=
  (congrArg State.seqs (wrBytes_stores a xs s).rest :)

theorem seqOf_wrBytes (a : Nat) (xs : List Byte) (s : State) (i : Nat) : seqOf (wrBytes a xs s) i = seqOf s i := by
  rw [seqOf, seqs_wrBytes, seqOf]

/-- A page put back leaves its sequence in use. -/
theorem restorePage_used {i l p : Nat} {recs : List (List Byte)} {s t : State} (h : (seqOf s i).used = true)
    (ran : restorePage i l p recs s = some t) : (seqOf t i).used = true := by
  unfold restorePage at ran
  dsimp only at ran
  split at ran
  · exact Option.some.inj ran ▸ h
  · obtain ⟨c, -, rfl⟩ := Option.map_eq_some_iff.mp ran
    rw [seqOf_modSeq]
    dsimp only
    rw [seqOf_wrBytes]
    exact h

theorem reserveSeg_used {i l g : Nat} {s t : State} (h : (seqOf s i).used = true) (ran : reserveSeg i l g s = some t) :
    (seqOf t i).used = true := by
  unfold reserveSeg at ran
  dsimp only at ran
  split at ran
  · exact Option.some.inj ran ▸ h
  · obtain ⟨a, -, rfl⟩ := Option.map_eq_some_iff.mp ran
    rw [seqOf_modSeq]
    exact h

/-- A slip entry put back leaves its sequence in use. -/
theorem restoreSlip_used {i l pos : Nat} {b : List Byte} {s t : State} (h : (seqOf s i).used = true)
    (ran : restoreSlip i l pos b s = some t) : (seqOf t i).used = true := by
  unfold restoreSlip at ran
  split at ran
  · exact Option.some.inj ran ▸ h
  · obtain ⟨u, hu, rfl⟩ := Option.map_eq_some_iff.mp ran
    have used := reserveSeg_used h hu
    split
    · rw [seqOf_wrBytes]
      exact used
    · exact used

/-- The pages and slip entries of a checkpoint put back leave their sequence in use. -/
theorem restoreLayers_used {i n : Nat} {kv : KvLayout} {layer : Nat → Nat} {parts : List (List Byte)} {s t : State}
    (h : (seqOf s i).used = true)
    (ran : reserveAll (parts.mapIdx fun j p => restoreLayer i (layer j) n kv p).flatten s = some t) : (seqOf t i).used = true := by
  refine reserveAll_invariant (P := fun u => (seqOf u i).used = true) (fun f hf u v hu hv => ?_) h ran
  obtain ⟨fs, hfs, hf⟩ := List.mem_flatten.mp hf
  obtain ⟨j, hj, rfl⟩ := List.mem_mapIdx.mp hfs
  rcases List.mem_append.mp hf with hf | hf
  · obtain ⟨p, -, rfl⟩ := List.mem_map.mp hf
    exact restorePage_used hu hv
  · obtain ⟨r, -, rfl⟩ := List.mem_map.mp hf
    exact restoreSlip_used hu hv

theorem seqOf_modMember (k : Nat) (f : Job → Job) (s : State) (i : Nat) : seqOf (modMember k f s) i = seqOf s i := rfl

/-- A sequence that has been made is in use. -/
theorem makeSeqs_used {k im i : Nat} {s t : State} (h : makeSeqs k im false s = some (i, t)) : (seqOf t i).used = true := by
  unfold makeSeqs at h
  split at h
  · exact absurd h (by simp)
  next j u hu =>
    obtain ⟨rfl, rfl⟩ : j = i ∧ u = t := by simpa using h
    obtain ⟨j', -, made⟩ := Option.map_eq_some_iff.mp hu
    obtain ⟨rfl, rfl⟩ := Prod.mk.inj made
    split
    · rw [seqOf_modMember, seqOf_modSeq]
    · rw [seqOf_modSeq]

/-- The sequences and device memory: what moves of pages that begin, and free values drawn, concern neither. -/
def storedView (s : State) : Tab Seq × List Host.Cell := (s.seqs, s.mem)

theorem storedView_spillCheck (kv : KvLayout) (s : State) : storedView (spillCheck kv s) = storedView s := by
  refine foldS_eq storedView (fun p u => ?_) _ s
  unfold spillPool
  dsimp only
  split
  · rfl
  · refine foldS_eq storedView (fun d w => ?_) _ u
    split <;> rfl

theorem storedView_freeToks (n : Nat) (s : State) : storedView (freeToks n s).2 = storedView s := by
  induction n generalizing s with
  | zero => rfl
  | succ n ih => exact ih (drawFree s).2

/-! ### SEQ_RESTORE from host memory (R383) -/

/-- The steps that put back the layers of a checkpoint into sequence `i`. -/
def restoreSteps (i : Nat) (data : List Byte) (im : Image) (e : EntryE) : List (State → Option State) :=
  ((ckptParts im.kv e.layers (data.drop 256)).mapIdx fun j p => restoreLayer i (e.first + j) (leAt data 0x50 4) im.kv p).flatten

/-- A sequence at the length and with the pending token of its checkpoint. -/
def restoredSeq (data : List Byte) (toks : List Nat) (q : Seq) : Seq :=
  let pend := leAt data 0x54 4
  { q with len := leAt data 0x50 4, toks := toks, pend := if pend = minus1 then none else some pend }

/-- The command waits while the MiB of its checkpoint are counted; `w` holds what has been put back of the sequence. -/
def restoredAs (h i : Nat) (data : List Byte) (c : Cmd) (toks : List Nat) (w : State) : State :=
  let t := modSeq i (restoredSeq data toks) w
  setCmd h { c with seq := some i, left := (data.length + mib - 1) / mib, info := seqIdOf t i, value := leAt data 0x50 4 } t

theorem seqOf_restoredAs (h i : Nat) (data : List Byte) (c : Cmd) (toks : List Nat) (w : State) :
    seqOf (restoredAs h i data c toks w) i = restoredSeq data toks (seqOf w i) :=
  seqOf_modSeq i (restoredSeq data toks) w

/-- SEQ_RESTORE from host memory: data that fail the checks are refused, and good data whose pages find their place become a
sequence. -/
theorem exec_seqRestore {h m : Nat} (data : List Byte) {c : Cmd} {s : State} (starts : startsAs s h 0x21 c) (im : c.im = some m)
    (host : c.u 0x20 1 = 0) (unheld : jobHeld s c.ctx = false) :
    ((ckptBad data (imgOf s m) (roleE s m 0) || decide ((imgOf s m).kv.posMax < leAt data 0x50 4)) = true →
      exec (.seqRestore h data false) s = .next (fail h 0x1B (starting h c s))) ∧
    ∀ i u v, (ckptBad data (imgOf s m) (roleE s m 0) || decide ((imgOf s m).kv.posMax < leAt data 0x50 4)) = false →
      makeSeqs c.ctx m false (starting h c s) = some (i, u) →
      reserveAll (restoreSteps i data (imgOf s m) (roleE s m 0)) u = some v →
      ¬ tableSize (imgOf s m).kv < kvTableBytes v (imgOf s m).kv →
      (List.range (roleE s m 0).layers).any (fun j => partPoison v i ((roleE s m 0).first + j) (leAt data 0x50 4)) = false →
      exec (.seqRestore h data false) s = .next
        (restoredAs h i data c.started (freeToks (leAt data 0x50 4) (spillCheck (imgOf s m).kv v)).1
        (freeToks (leAt data 0x50 4) (spillCheck (imgOf s m).kv v)).2) := by
  have im' : c.started.im = some m := im
  have host' : c.started.u 0x20 1 = 0 := host
  have unheld' : jobHeld (starting h c s) c.started.ctx = false := unheld
  have admitted (d : Cmd) (u : State) (k a n : Nat) : ¬ (8 ≤ 0 ∨ 0 % 4 = 3 ∨ rangeBad u d (0 % 4) k a n false = true) := by
    simp [rangeBad]
  have run : exec (.seqRestore h data false) s = execSeqRestore h data false s := rfl
  rw [run, execSeqRestore, startCmd_of_startsAs starts]
  change (_ → _ = done (fail h 0x1B (starting h c s))) ∧ ∀ i u v, _ → makeSeqs c.started.ctx m (Nat.testBit 0 2) _ = _ →
    reserveAll (restoreSteps i data (imgOf (starting h c s) m) (roleE (starting h c s) m 0)) u = some v → _
  dsimp only
  rw [im']
  dsimp only
  rw [host', if_neg (c := 0 % 4 = 1) (by decide), if_neg (admitted _ _ _ _ _), if_neg (by simp), unheld', if_neg Bool.false_ne_true,
    if_neg (by simp), if_neg (by simp)]
  refine ⟨fun bad => congrArg done (if_pos bad), fun i u v good made placed fits clean => congrArg done ?_⟩
  refine (if_neg (ne_true_of_eq_false good)).trans ?_
  rw [made]
  dsimp only
  rw [restoreSteps] at placed
  rw [placed, restoredAs, im']
  exact (if_neg fits).trans (if_neg (ne_true_of_eq_false clean))

end Sys2Proof.Machine

namespace Sys2Proof.Machine
open Sys2Proof

/-! ### Descriptors that leave for an entry (R364, R480, R630) -/

/-- The message that carries a descriptor to an entry, zero-padded to its length. -/
def descMsg (e : EntryE) (d : List Nat) : Msg :=
  .fabric 3 e.cl tagStep ([e.ctx, e.slot] ++ d ++ List.replicate (e.descLen - d.length) 0)

/-- A descriptor whose way is open leaves while no breakpoint is set. -/
theorem sendDesc_open {e : EntryE} {s : State} (hdbg : undebugged s = true) (way : hubClosed s (.scratch e.cl) = false)
    (d : List Nat) : sendDesc e d s = emit (descMsg e d) s := by
  unfold sendDesc
  rw [breakpoint_undebugged hdbg (by decide)]
  dsimp only
  rw [if_neg Bool.false_ne_true, way, if_neg Bool.false_ne_true]
  rfl

/-- The choice of an entry moves the turn of its role alone. -/
theorem pickEntry_frame {im role : Nat} {ok : EntryE → Bool} {s u : State} {e : EntryE} (h : pickEntry im role ok s = some (e, u)) :
    u = { s with entryTurn := u.entryTurn } := by
  obtain ⟨n, -, picked⟩ := Option.map_eq_some_iff.mp h
  obtain ⟨-, rfl⟩ := Prod.mk.inj picked
  rfl

/-! ### ADAPT_ZERO and ADAPT_UPDATE (R384) -/

/-- An adapter command of a known adapter sends its descriptor to the entry that takes it. -/
theorem startAdapt_sends {h op dop need m : Nat} {tail : Cmd → List Nat} {lr : Cmd → Nat} {c : Cmd} {e : EntryE} {s u : State}
    (hdbg : undebugged s = true) (starts : startsAs s h op c) (im : c.im = some m)
    (known : ∃ a ∈ (imgOf s m).adapters, a.index = c.u 0x10 2) (way : hubClosed s (.scratch e.cl) = false)
    (picked : pickEntry m 3 (fun e => decide (need ≤ e.descLen)) (starting h c s) = some (e, u)) :
    startAdapt h op dop need tail lr s = emit (descMsg e ([dop, 0xFFF, c.u 0x10 2, 0, 0, 0, lr c.started, 0, 0, 0, 0,
      handleOf c.gen h] ++ tail c.started)) { starting h c s with entryTurn := u.entryTurn } := by
  have frame := pickEntry_frame picked
  have im' : c.started.im = some m := im
  have known' : (!(imgOf (starting h c s) m).adapters.any fun x => x.index == c.started.u 0x10 2) = false := by
    rw [Bool.not_eq_false', List.any_eq_true]
    obtain ⟨a, ha, index⟩ := known
    exact ⟨a, ha, beq_iff_eq.mpr index⟩
  have hdbg' : undebugged { starting h c s with entryTurn := u.entryTurn } = true := hdbg
  have way' : hubClosed { starting h c s with entryTurn := u.entryTurn } (.scratch e.cl) = false := way
  rw [startAdapt, startCmd_of_startsAs starts]
  dsimp only
  rw [im']
  dsimp only
  rw [known', if_neg Bool.false_ne_true, picked]
  dsimp only
  rw [frame]
  exact sendDesc_open hdbg' way' _

/-- What an adapter command does that sends a descriptor. -/
theorem ends_sent {h : Nat} {c : Cmd} {s : State} {m : Msg} {turn : Tab Nat} {i : Instr}
    (run : exec i s = .next (emit m { starting h c s with entryTurn := turn })) :
    Ends i s fun t => t = { s with cmds := t.cmds, entryTurn := t.entryTurn, out := t.out } ∧
      cmdOf t h = some c.started ∧ t.out.head? = some m :=
  ⟨_, run, rfl, cmdOf_setCmd_same h c.started s, rfl⟩

/-! ### BACKWARD (R146, R384) -/

/-- An adapter's copy latched for a BACKWARD. -/
def latch (m : Nat) (a : AdpE) (s : State) : State :=
  { s with adapters := tmod {} s.adapters (adpKey m a.index) fun p => { p with bwd := some p.copy } }

theorem latchCopies_eq (m : Nat) (s : State) : latchCopies m true s = foldS (imgOf s m).adapters (latch m) s := rfl

theorem latchCopies_frame (m : Nat) (s : State) : latchCopies m true s = { s with adapters := (latchCopies m true s).adapters } :=
  have rest : { latchCopies m true s with adapters := [] } = { s with adapters := [] } :=
    foldS_eq (fun t : State => { t with adapters := [] }) (f := latch m) (fun _ _ => rfl) _ s
  congrArg (fun t : State => { t with adapters := (latchCopies m true s).adapters }) rest

theorem portOf_latch (m idx : Nat) (a : AdpE) (s : State) : portOf (latch m a s) m idx =
    if adpKey m idx = adpKey m a.index then { portOf s m a.index with bwd := some (portOf s m a.index).copy } else portOf s m idx :=
  tget_tset _ _ _ _ _

/-- Copies latched one after another: no copy changes, and an adapter that is latched, or comes, uses its own. -/
theorem portOf_foldS_latch (m idx : Nat) (xs : List AdpE) (s : State) :
    (portOf (foldS xs (latch m) s) m idx).copy = (portOf s m idx).copy ∧
    ((∃ a ∈ xs, a.index = idx) ∨ (portOf s m idx).bwd = some (portOf s m idx).copy →
      (portOf (foldS xs (latch m) s) m idx).bwd = some (portOf s m idx).copy) := by
  induction xs generalizing s with
  | nil => exact ⟨rfl, fun h => h.resolve_left (by simp)⟩
  | cons a xs ih =>
    obtain ⟨copies, uses⟩ := ih (latch m a s)
    have copy : (portOf (latch m a s) m idx).copy = (portOf s m idx).copy := by
      rw [portOf_latch]
      split
      next h => rw [portOf, ← h, portOf]
      next => rfl
    rw [copy] at copies uses
    refine ⟨copies, fun h => uses ?_⟩
    rw [portOf_latch]
    rcases h with ⟨b, hb, rfl⟩ | h
    · rcases List.mem_cons.mp hb with rfl | hb
      · exact .inr (by rw [if_pos rfl])
      · exact .inl ⟨b, hb, rfl⟩
    · refine .inr ?_
      split
      next same => rw [portOf, ← same, portOf]
      next => exact h

/-- A BACKWARD uses the copies of its image's adapters that are active when it starts (R146). -/
theorem latchCopies_bwd {m : Nat} {s : State} {a : AdpE} (ha : a ∈ (imgOf s m).adapters) :
    (portOf (latchCopies m true s) m a.index).bwd = some (portOf s m a.index).copy :=
  (portOf_foldS_latch m a.index (imgOf s m).adapters s).2 (.inl ⟨a, ha, rfl⟩)

theorem rdBytes_wrBytes {s : State} {a : Nat} {xs : List Byte} (clean : anyPoison s a xs.length = false) :
    rdBytes (wrBytes a xs s) a xs.length = xs := by
  refine List.ext_getElem (by simp [rdBytes]) fun k hk hx => ?_
  simp only [rdBytes, List.getElem_map, List.getElem_range]
  rw [rdByte_wrBytes clean, if_pos ⟨Nat.le_add_right _ _, by omega⟩, Nat.add_sub_cancel_left, List.getD_eq_getElem _ _ hx]

/-- The target tokens as they stand in the training store. -/
def tokBytes (toks : List Nat) : List Byte := toks.flatMap (bytesLE 4)

theorem tokBytes_length (toks : List Nat) : (tokBytes toks).length = 4 * toks.length := by
  rw [tokBytes, flatMap_bytesLE_length, Nat.mul_comm]

/-- The state in which a BACKWARD of sequence `i` sends its step: the tokens stand at `x`, and the copies are latched. -/
def backwardState (h m i x n : Nat) (toks : List Nat) (c : Cmd) (s : State) : State :=
  setCmd h { c with seq := some i } (modSeq i (fun q => { q with keepAt := some (x, 4 * n) })
    (latchCopies m true (wrBytes x (tokBytes toks) s)))

/-- What concerns neither memory, sequences, commands nor adapters stands as before. -/
theorem backwardState_frame {x : Nat} {toks : List Nat} {s : State} (clean : anyPoison s x (tokBytes toks).length = false)
    (h m i n : Nat) (c : Cmd) : ∃ mem poison lost adapters seqs cmds, backwardState h m i x n toks c s =
      { s with mem := mem, poison := poison, lost := lost, adapters := adapters, seqs := seqs, cmds := cmds } := by
  rw [backwardState, latchCopies_frame, wrBytes_of_clean clean]
  exact ⟨_, _, _, _, _, _, rfl⟩

section
variable (h m i x n : Nat) (toks : List Nat) (c : Cmd) (s : State)

theorem backwardState_mem : (backwardState h m i x n toks c s).mem = (wrBytes x (tokBytes toks) s).mem := by
  rw [backwardState, latchCopies_frame]
  rfl

theorem cmdOf_backwardState : cmdOf (backwardState h m i x n toks c s) h = some { c with seq := some i } := cmdOf_setCmd_same _ _ _

theorem backwardState_keepAt : (seqOf (backwardState h m i x n toks c s) i).keepAt = some (x, 4 * n) :=
  congrArg Seq.keepAt (seqOf_modSeq i (fun q => { q with keepAt := some (x, 4 * n) }) _)

theorem backwardState_bwd {a : AdpE} (ha : a ∈ (imgOf s m).adapters) :
    (portOf (backwardState h m i x n toks c s) m a.index).bwd = some (portOf s m a.index).copy := by
  have stores := wrBytes_stores x (tokBytes toks) s
  have latched := latchCopies_bwd (m := m) (s := wrBytes x (tokBytes toks) s) (stores.imgOf_eq m ▸ ha)
  rw [portOf, portOf, stores.adapters_eq] at latched
  exact latched

end

/-- BACKWARD on positions that its training store holds stands its tokens there, latches the copies, and sends its step. -/
theorem exec_backward {h m i x : Nat} {toks : List Nat} {e : EntryE} {u : State} {c : Cmd} {s : State} (hdbg : undebugged s = true)
    (starts : startsAs s h 0x14 c) (im : c.im = some m) (known : seqCheck s c (c.u 0x10 4) = .ok i)
    (unjobbed : (imgOf s m).peers.job = 0) (counted : c.u 0x20 4 ≠ 0)
    (holds : storeHolds (seqOf s i) (c.u 0x14 4) (c.u 0x14 4 + c.u 0x20 4) = true) (read : toks.length = c.u 0x20 4)
    (room : allocKeep s (kvOf s m) (4 * c.u 0x20 4) = some x) (clean : anyPoison s x (4 * c.u 0x20 4) = false)
    (way : hubClosed s (.scratch e.cl) = false)
    (picked : pickEntry m 2 (fun e => decide (16 ≤ e.descLen)) (starting h c s) = some (e, u)) :
    exec (.backward h toks false) s = .next (emit (descMsg e [4, 0xFFF, i, c.u 0x14 4, c.u 0x20 4, 0, 0, 0, 0, 0, 0, handleOf c.gen h,
        x % 2 ^ 32, x / 2 ^ 32, c.u 0x28 8 % 2 ^ 32, c.u 0x28 8 / 2 ^ 32])
      (backwardState h m i x (c.u 0x20 4) toks c.started { starting h c s with entryTurn := u.entryTurn })) := by
  have size : (tokBytes toks).length = 4 * c.u 0x20 4 := by rw [tokBytes_length, read]
  have im' : c.started.im = some m := im
  have known' : seqCheck (starting h c s) c.started (c.started.u 0x10 4) = .ok i := known
  have wanted : ((imgOf (starting h c s) m).peers.job != 0 || c.started.u 0x20 4 == 0 ||
      !storeHolds (seqOf (starting h c s) i) (c.started.u 0x14 4) (c.started.u 0x14 4 + c.started.u 0x20 4)) = false := by
    have job : (imgOf (starting h c s) m).peers.job = 0 := unjobbed
    have holds' : storeHolds (seqOf (starting h c s) i) (c.started.u 0x14 4) (c.started.u 0x14 4 + c.started.u 0x20 4) = true := holds
    have counted' : c.started.u 0x20 4 ≠ 0 := counted
    simp [job, holds', counted']
  have room' : allocKeep (starting h c s) (kvOf (starting h c s) m) (4 * c.started.u 0x20 4) = some x := room
  have hold : ((cmdOf s h).map fun c => !false && toks.length != c.u 0x20 4).getD false = false := by
    obtain ⟨hc, -⟩ := starts
    simp [hc, read]
  have frame := pickEntry_frame picked
  generalize hv : ({ starting h c s with entryTurn := u.entryTurn } : State) = v at frame ⊢
  have clean' : anyPoison v x (4 * c.started.u 0x20 4) = false := hv ▸ clean
  obtain ⟨mem, poison, lost, adapters, seqs, cmds, sent⟩ := backwardState_frame (size ▸ clean') h m i (c.u 0x20 4) c.started
  change execBackward h toks false s = _
  rw [execBackward, hold, if_neg Bool.false_ne_true, startCmd_of_startsAs starts]
  dsimp only
  rw [im']
  dsimp only
  rw [known']
  dsimp only
  rw [wanted, if_neg Bool.false_ne_true, if_neg Bool.false_ne_true, room', picked]
  dsimp only
  rw [frame, wrRefused_of_clean clean', if_neg Bool.false_ne_true]
  have hdbg' : undebugged (backwardState h m i x (c.u 0x20 4) toks c.started v) = true := by
    rw [sent, ← hv]
    exact hdbg
  have way' : hubClosed (backwardState h m i x (c.u 0x20 4) toks c.started v) (.scratch e.cl) = false := by
    rw [sent, ← hv]
    exact way
  have leaves := sendDesc_open hdbg' way'
  rw [backwardState, im'] at leaves
  rw [backwardState, im']
  exact congrArg done (leaves _)

end Sys2Proof.Machine

namespace Sys2Proof.Machine
open Sys2Proof

/-! ### The obligation -/

/-- A transfer goes on by a MiB. -/
theorem ends_dmaMibMoved {h : Nat} {c : Cmd} {s : State} (hc : cmdOf s h = some c) (running : c.run = true) :
    (c.op = 0x20 → c.u 0x14 1 = 0 → c.words ≠ [] →
      let a := c.u 0x18 8 + (c.value - c.words.length)
      (c.words.length ≤ 1048576 → Ends (.dmaMibMoved h) s fun t => Completed h c 0 c.info c.value s t ∧
        Msg.hostWrite c.fn a c.words ∈ t.out ∧ tget [] t.snaps h = [] ∧ SameMem s t) ∧
      (1048576 < c.words.length → Ends (.dmaMibMoved h) s fun t =>
        t = { s with cmds := t.cmds, out := .hostWrite c.fn a (c.words.take 1048576) :: s.out } ∧
        cmdOf t h = some { c with words := c.words.drop 1048576, prog := s.now })) ∧
    (c.op = 0x21 → (c.left ≤ 1 → Ends (.dmaMibMoved h) s fun t => Completed h c 0 c.info c.value s t ∧ SameMem s t) ∧
      (1 < c.left → Ends (.dmaMibMoved h) s fun t => t = { s with cmds := t.cmds } ∧
        cmdOf t h = some { c with left := c.left - 1, prog := s.now })) := by
  obtain ⟨ckpt, restore⟩ := exec_dmaMibMoved hc running
  refine ⟨fun hop host more => ⟨fun last => ?_, fun full => ?_⟩, fun hop => ⟨fun last => ?_, fun more => ?_⟩⟩
  · have ends := moveCkpt_last hc host last
    exact ⟨_, ckpt hop more, ends.completed, ends.sent List.mem_cons_self, ends.gone, ends.mem⟩
  · refine ⟨_, ckpt hop more, ?_⟩
    rw [moveCkpt_more host full]
    exact ⟨rfl, cmdOf_setCmd_same _ _ _⟩
  · refine ⟨_, restore hop, ?_⟩
    rw [if_pos last]
    exact ⟨complete_completed hc _ _ _, complete_sameMem _ _ _ _ _⟩
  · refine ⟨_, restore hop, ?_⟩
    rw [if_neg (Nat.not_le_of_lt more), progress_setCmd]
    exact ⟨rfl, cmdOf_setCmd_same _ _ _⟩

/-- Data that fail the checks of R383 end SEQ_RESTORE. -/
theorem ends_seqRestore_bad {h m : Nat} {data : List Byte} {c : Cmd} {s : State} (starts : startsAs s h 0x21 c)
    (alone : endsAlone s = true) (im : c.im = some m) (host : c.u 0x20 1 = 0) (unheld : jobHeld s c.ctx = false)
    (bad : ckptBad data (imgOf s m) (roleE s m 0) = true ∨ (imgOf s m).kv.posMax < leAt data 0x50 4) :
    Ends (.seqRestore h data false) s fun t => Completed h c 0x1B 0 0 s t ∧ t.seqs = s.seqs ∧ SameMem s t := by
  have hop : c.op = 0x21 := starts.2.1
  have alone' : endsAlone (starting h c s) = true :=
    endsAlone_setCmd alone h (by rw [Cmd.started, hop]; decide) (by rw [Cmd.started, hop]; decide)
  have run := (exec_seqRestore data starts im host unheld).1 (by simpa using bad)
  rw [fail_eq_complete (cmdOf_starting h c s) (by decide) (by decide)] at run
  exact ⟨_, run, complete_completed (cmdOf_starting h c s) _ _ _, complete_seqs alone' _ _ _ _, complete_sameMem _ _ _ _ _⟩

/-- Good data whose pages find frames and tables become a sequence at the length of the checkpoint. -/
theorem ends_seqRestore_good {h m i : Nat} {data : List Byte} {c : Cmd} {s u v : State} (starts : startsAs s h 0x21 c)
    (im : c.im = some m) (host : c.u 0x20 1 = 0) (unheld : jobHeld s c.ctx = false)
    (good : ckptBad data (imgOf s m) (roleE s m 0) = false) (fits : leAt data 0x50 4 ≤ (imgOf s m).kv.posMax)
    (made : makeSeqs c.ctx m false (starting h c s) = some (i, u))
    (placed : reserveAll (restoreSteps i data (imgOf s m) (roleE s m 0)) u = some v)
    (tables : kvTableBytes v (imgOf s m).kv ≤ tableSize (imgOf s m).kv)
    (clean : ∀ j, j < (roleE s m 0).layers → partPoison v i ((roleE s m 0).first + j) (leAt data 0x50 4) = false) :
    Ends (.seqRestore h data false) s fun t =>
      (seqOf t i).used = true ∧ (seqOf t i).len = leAt data 0x50 4 ∧ (seqOf t i).pages = (seqOf v i).pages ∧
      (seqOf t i).pend = (if leAt data 0x54 4 = 0xFFFFFFFF then none else some (leAt data 0x54 4)) ∧ t.mem = v.mem ∧
      cmdOf t h = some { c with run := true, seq := some i, left := (data.length + 1048575) / 1048576,
                                info := (seqOf t i).gen * 4096 + i, value := leAt data 0x50 4 } := by
  have run := (exec_seqRestore data starts im host unheld).2 i u v
    (Bool.or_eq_false_iff.mpr ⟨good, decide_eq_false (Nat.not_lt_of_le fits)⟩) made placed (Nat.not_lt_of_le tables)
    (List.any_eq_false.mpr fun j hj => ne_true_of_eq_false (clean j (List.mem_range.mp hj)))
  generalize (freeToks (leAt data 0x50 4) (spillCheck (imgOf s m).kv v)).1 = toks at run
  generalize hw : (freeToks (leAt data 0x50 4) (spillCheck (imgOf s m).kv v)).2 = w at run
  have stored : storedView w = storedView v := by rw [← hw, storedView_freeToks, storedView_spillCheck]
  have seqs : w.seqs = v.seqs := congrArg Prod.fst stored
  have used : (seqOf v i).used = true := restoreLayers_used (makeSeqs_used made) placed
  have now : seqOf (restoredAs h i data c.started toks w) i = restoredSeq data toks (seqOf v i) := by
    rw [seqOf_restoredAs, seqOf, seqs, seqOf]
  have mibs : data.length + mib - 1 = data.length + 1048575 := by unfold mib; omega
  refine ⟨_, run, ?_, ?_, ?_, ?_, congrArg Prod.snd stored, ?_⟩
  · exact now ▸ used
  · exact congrArg Seq.len now
  · exact (congrArg Seq.pages now).trans rfl
  · exact congrArg Seq.pend now
  · rw [← mibs]
    exact cmdOf_setCmd_same _ _ _

/-- BACKWARD latches the copies of the adapters and sends its step. -/
theorem ends_backward {h m i x : Nat} {toks : List Nat} {e : EntryE} {u : State} {c : Cmd} {s : State} (hdbg : undebugged s = true)
    (starts : startsAs s h 0x14 c) (im : c.im = some m) (known : seqCheck s c (c.u 0x10 4) = .ok i)
    (unjobbed : (imgOf s m).peers.job = 0) (counted : c.u 0x20 4 ≠ 0)
    (holds : storeHolds (seqOf s i) (c.u 0x14 4) (c.u 0x14 4 + c.u 0x20 4) = true) (read : toks.length = c.u 0x20 4)
    (room : allocKeep s (kvOf s m) (4 * c.u 0x20 4) = some x) (clean : anyPoison s x (4 * c.u 0x20 4) = false)
    (way : hubClosed s (.scratch e.cl) = false)
    (picked : pickEntry m 2 (fun e => decide (16 ≤ e.descLen)) (starting h c s) = some (e, u)) :
    Ends (.backward h toks false) s fun t =>
      rdBytes t x (4 * c.u 0x20 4) = toks.flatMap (bytesLE 4) ∧ SameMemBut x (4 * c.u 0x20 4) s t ∧
      (seqOf t i).keepAt = some (x, 4 * c.u 0x20 4) ∧ cmdOf t h = some { c with run := true, seq := some i } ∧
      (∀ a ∈ (imgOf s m).adapters, (tget {} t.adapters (adpKey m a.index)).bwd =
        some (tget {} s.adapters (adpKey m a.index)).copy) ∧
      t.out.head? = some (descMsg e [4, 0xFFF, i, c.u 0x14 4, c.u 0x20 4, 0, 0, 0, 0, 0, 0, handleOf c.gen h, x % 2 ^ 32, x / 2 ^ 32,
        c.u 0x28 8 % 2 ^ 32, c.u 0x28 8 / 2 ^ 32]) := by
  have run := exec_backward hdbg starts im known unjobbed counted holds read room clean way picked
  have size : (tokBytes toks).length = 4 * c.u 0x20 4 := by rw [tokBytes_length, read]
  generalize hv : ({ starting h c s with entryTurn := u.entryTurn } : State) = v at run
  have clean' : anyPoison v x (tokBytes toks).length = false := by rw [size, ← hv]; exact clean
  have byte (b : Nat) : rdByte v b = rdByte s b := by rw [← hv]; rfl
  have mem := backwardState_mem h m i x (c.u 0x20 4) toks c.started v
  refine ⟨_, run, ?_, fun b hb => ?_, backwardState_keepAt h m i x (c.u 0x20 4) toks c.started v,
    cmdOf_backwardState h m i x (c.u 0x20 4) toks c.started v, fun a ha => ?_, rfl⟩
  · have written := rdBytes_wrBytes clean'
    rw [size] at written
    exact (List.map_congr_left fun k _ => rdByte_congr mem (x + k)).trans written
  · refine (rdByte_congr mem b).trans ((rdByte_wrBytes_outside ?_ v).trans (byte b))
    rwa [size]
  · have ha' : a ∈ (imgOf v m).adapters := by rw [← hv]; exact ha
    refine (backwardState_bwd h m i x (c.u 0x20 4) toks c.started v ha').trans ?_
    rw [← hv]
    rfl

/-- Settles O18: a command that may start runs its own effect, and what it takes, moves or sends lies in a part of the state
that its end does not touch. -/
theorem transferAndTrainingCommands : Obligations.TransferAndTrainingCommands := by
  unfold Obligations.TransferAndTrainingCommands
  refine ⟨?_, fun h c s hc running => ends_dmaMibMoved hc running, ?_, ?_, ?_⟩
  · intro h m i c s starts im alone fresh unbound flushed known host unjobbed _ e clean
    exact ⟨_, exec_checkpoint starts im unbound flushed known host unjobbed clean,
      ckptReady_snapState starts.2.1 alone fresh rfl rfl⟩
  · intro h m data c s starts alone im host unheld i e n
    exact ⟨ends_seqRestore_bad starts alone im host unheld,
      fun _ _ _ good fits made placed tables clean => ends_seqRestore_good starts im host unheld good fits made placed tables clean⟩
  · intro h m i x toks e u c s hdbg starts im known unjobbed a n counted holds read room clean _ way picked
    exact ends_backward hdbg starts im known unjobbed counted holds read room clean way picked
  · intro h m e u c s hdbg im known way
    refine ⟨fun starts picked => ?_, fun starts picked => ?_⟩
    · exact ends_sent (congrArg done (startAdapt_sends hdbg starts im known way picked))
    · exact ends_sent (congrArg done (startAdapt_sends hdbg starts im known way picked))

end Sys2Proof.Machine

namespace Sys2Proof.Machine
open Sys2Proof

/-! ### An old image goes while the hardware event queue fills -/

/-- A unit after reset, on which Silset does not run yet, with room for one more event in the hardware event queue (R529).  The
context of partition 0 and function 0 has an old image, whose last command has completed and which holds one VALID tile-layer (R226). -/
def retireWithRoomForOne : State :=
  setEv .TILE_LCFG 0 0
    { State.reset with ctxs := [(cxKey 0 0, { retiring := [7] })], images := [(7, { places := [{}] })],
                       sil.evq := List.replicate 511 {} }

/-- An old image that no command needs goes, and its end is entered in the log. -/
def imageGone (pt fn im : Nat) (s : State) : State :=
  logE { cls := 0x0A, code := 7, sev := 0, pt := pt, func := fn, data := [(imgOf s im).id % 2 ^ 64, 0, 0] }
    (dropImage none (cxKey pt fn) im (dropSeqsOf im s))

theorem exec_imageRetire {pt fn im : Nat} {s : State} (old : im ∈ (cxOf s (cxKey pt fn)).retiring)
    (unused : ∀ e ∈ s.cmds, e.2.im ≠ some im) : exec (.imageRetire pt fn im) s = .next (imageGone pt fn im s) := by
  show execImageRetire pt fn im s = _
  have free : s.cmds.any (fun e => e.2.im == some im) = false := by simpa using unused
  simp [execImageRetire, done, imageGone, old, free]

/-- The change of TILE_LCFG, which the journal takes (R116, R454), has the last place in the queue, and the end of the image finds
none. -/
theorem imageGone_lastEvent : (imageGone 0 0 7 retireWithRoomForOne).sil.evq.getLast?.map (·.cls) = some 1 := by decide +kernel

/-- Refutes O16: the end of an old image need not be the last event entered.  Its tile-layers first lose VALID, which the journal takes
(R226, R454); where Silset does not run and these entries fill the hardware event queue, which had room, the entry of the end is
lost (R529). -/
theorem not_contextCommands : ¬ Obligations.ContextCommands := by
  rintro ⟨-, -, -, -, -, -, -, retires⟩
  have old : 7 ∈ (cxOf retireWithRoomForOne (cxKey 0 0)).retiring := by decide +kernel
  have unused : ∀ e ∈ retireWithRoomForOne.cmds, e.2.im ≠ some 7 := fun e he => absurd he List.not_mem_nil
  obtain ⟨t, ht, -, -, -, -, ⟨e, hcls, -, -, -, last⟩, -⟩ := retires 0 0 7 retireWithRoomForOne old unused rfl
  rw [exec_imageRetire old unused] at ht
  have hlast := imageGone_lastEvent
  rw [Host.Outcome.next.inj ht, last (by decide +kernel) (by decide +kernel), Option.map_some, hcls] at hlast
  exact absurd hlast (by decide)

end Sys2Proof.Machine

namespace Sys2Proof.Machine
open Sys2Proof

/-! ### The key of a tile-layer -/

theorem tlKey_tile {tile layer : Nat} (h : layer < 4) : tlKey tile layer / 4 = tile := by unfold tlKey; omega

theorem tlKey_layer {tile layer : Nat} (h : layer < 4) : tlKey tile layer % 4 = layer := by unfold tlKey; omega

/-! ### The program operations of the sequencer -/

theorem progOf_setProg (tl k : Nat) (o : ProgOp) (s : State) :
    progOf (setProg tl o s) k = if k = tl then some o else progOf s k := by
  unfold progOf setProg
  split
  next h => rw [h, find?_tins_same]; rfl
  next h => rw [find?_tins_ne _ _ h]

/-- The request for the row step of an operation (R155). -/
def rowReq (layer : Nat) (o : ProgOp) : PassReq := { kind := 2, layer := layer, row := o.row, vec := o.order }

/-- The request of a row step, at a tile that no fence closes: it takes the free buffer, or waits behind those that came before it
(R90, R155). -/
theorem askRowStep_open {s : State} {tile layer : Nat} {o : ProgOp} (hl : layer < 4) (open_ : fenced s 0 tile = false)
    (up : inReset s 0 tile = false) : askRowStep (tlKey tile layer) o s =
      if (tileOf s tile).pending = none ∧ (tileOf s tile).held = [] then setPending tile (rowReq layer o) s
      else modTile tile (fun x => { x with held := x.held ++ [rowReq layer o] }) s := by
  simp [askRowStep, tlKey_tile hl, tlKey_layer hl, open_, up, rowReq]

/-- What asking for a row step changes. -/
theorem askRowStep_spec {s : State} {tile layer : Nat} {o : ProgOp} (hl : layer < 4) (open_ : fenced s 0 tile = false)
    (up : inReset s 0 tile = false) :
    let t := askRowStep (tlKey tile layer) o s
    t = { s with tiles := t.tiles, pools := t.pools } ∧ (∀ d, (poolOf t d).inUse = (poolOf s d).inUse) ∧
      tileOf t tile = (if (tileOf s tile).pending = none ∧ (tileOf s tile).held = [] then
        { tileOf s tile with pending := some (rowReq layer o) }
        else { tileOf s tile with held := (tileOf s tile).held ++ [rowReq layer o] }) ∧
      ∀ u, u ≠ tile → tileOf t u = tileOf s u := by
  intro t
  have ht : t = _ := askRowStep_open hl open_ up
  rw [ht]
  split
  next =>
    obtain ⟨same, pools, others⟩ := setPending_spec tile (rowReq layer o) s
    refine ⟨rfl, fun d => ?_, same, others⟩
    rw [pools]
    split <;> rfl
  next => exact ⟨rfl, fun _ => rfl, tileOf_modTile_same _ _ _, fun u h => tileOf_modTile_ne _ _ h⟩

/-! ### The start of an operation (R160, R181, R185) -/

theorem exec_programOperationStart {s : State} {tile layer : Nat} {o : ProgOp}
    (op : progOf s (tlKey tile layer) = some o) (waiting : o.st = 0) (first : firstWaiting s (tlKey tile layer) o.order = true)
    (alone : ∀ e ∈ s.progs, e.1 / 4 = tile → e.2.st = 0) (room : progsIn s (tile / 1536) < rf s .CAL_PROG 8 0)
    (conc : o.kind = 1 → refreshFull s (bayOfTile tile) = false) (page : pageReady s (tlKey tile layer) o.kind = true)
    (refs : refOk s = true) (open_ : fenced s 0 tile = false) (up : inReset s 0 tile = false) (on : anaOn s (tile / 1536) = true)
    (goes : opStopped s o = false) : exec (.programOperationStart tile layer) s =
      .next (askRowStep (tlKey tile layer) { o with st := 1 } (setProg (tlKey tile layer) { o with st := 1 }
        { s with sil.pageDone := s.sil.pageDone.erase (tlKey tile layer) })) := by
  have free : (s.progs.any fun e => e.1 / 4 == tile && e.2.st != 0) = false := by
    simpa using fun k v h e => alone (k, v) h e
  have slow : (o.kind == 1 && refreshFull s (bayOfTile tile)) = false := by
    cases h : o.kind == 1
    · rfl
    · simp [conc (by simpa using h)]
  show execProgramOperationStart tile layer s = _
  simp only [execProgramOperationStart, op, done, waiting, first, free, page, refs, open_, up, on, goes, slow]
  simp [room]

theorem ends_programOperationStart {s : State} {tile layer : Nat} {o : ProgOp} (hl : layer < 4)
    (op : progOf s (tlKey tile layer) = some o) (waiting : o.st = 0) (first : firstWaiting s (tlKey tile layer) o.order = true)
    (alone : ∀ e ∈ s.progs, e.1 / 4 = tile → e.2.st = 0) (room : progsIn s (tile / 1536) < rf s .CAL_PROG 8 0)
    (conc : o.kind = 1 → refreshFull s (bayOfTile tile) = false) (page : pageReady s (tlKey tile layer) o.kind = true)
    (refs : refOk s = true) (open_ : fenced s 0 tile = false) (up : inReset s 0 tile = false) (on : anaOn s (tile / 1536) = true)
    (goes : opStopped s o = false) : Ends (.programOperationStart tile layer) s fun t =>
      t = { s with sil := { s.sil with pageDone := s.sil.pageDone.erase (tlKey tile layer) }, progs := t.progs, tiles := t.tiles,
                   pools := t.pools } ∧ (∀ d, (poolOf t d).inUse = (poolOf s d).inUse) ∧
      progOf t (tlKey tile layer) = some { o with st := 1 } ∧ (∀ k, k ≠ tlKey tile layer → progOf t k = progOf s k) ∧
      tileOf t tile = (if (tileOf s tile).pending = none ∧ (tileOf s tile).held = [] then
        { tileOf s tile with pending := some (rowReq layer o) }
        else { tileOf s tile with held := (tileOf s tile).held ++ [rowReq layer o] }) ∧
      ∀ u, u ≠ tile → tileOf t u = tileOf s u := by
  refine ⟨_, exec_programOperationStart op waiting first alone room conc page refs open_ up on goes, ?_⟩
  obtain ⟨u, hu⟩ : ∃ u, u = setProg (tlKey tile layer) { o with st := 1 }
    { s with sil.pageDone := s.sil.pageDone.erase (tlKey tile layer) } := ⟨_, rfl⟩
  rw [← hu]
  obtain ⟨frame, pools, same, others⟩ := askRowStep_spec (s := u) (o := { o with st := 1 }) hl (by rw [hu]; exact open_)
    (by rw [hu]; exact up)
  have progs (k : Nat) : progOf (askRowStep (tlKey tile layer) { o with st := 1 } u) k = progOf u k := by rw [frame]; rfl
  have prog (k : Nat) : progOf u k = if k = tlKey tile layer then some { o with st := 1 } else progOf s k := by
    rw [hu]; exact progOf_setProg _ k _ _
  subst hu
  refine ⟨frame.trans ?_, pools, ?_, fun k hk => ?_, same, others⟩
  · rw [frame]; rfl
  · rw [progs, prog, if_pos rfl]
  · rw [progs, prog, if_neg hk]

/-! ### The cells of a row (R156) -/

/-- Two neighbouring cells take their levels: the one that `neg` names takes `a`, the other `b`. -/
def putPair (base : Nat) (neg : Nat → Bool) (a b : Nat → Nat) (j : Nat) (m : Tab Nat) : Tab Nat :=
  tset 0 (tset 0 m (base + (2 * j + b2n (neg j))) (a j)) (base + (2 * j + 1 - b2n (neg j))) (b j)

theorem b2n_le_one (c : Bool) : b2n c ≤ 1 := by cases c <;> decide

theorem tget_putPair_outside {base : Nat} {neg : Nat → Bool} {a b : Nat → Nat} {j k : Nat} (m : Tab Nat)
    (h : k < base + 2 * j ∨ base + 2 * j + 2 ≤ k) : tget 0 (putPair base neg a b j m) k = tget 0 m k := by
  have := b2n_le_one (neg j)
  rw [putPair, tget_tset_ne _ _ _ (by omega), tget_tset_ne _ _ _ (by omega)]

theorem tget_putPair (base : Nat) (neg : Nat → Bool) (a b : Nat → Nat) (j : Nat) (m : Tab Nat) :
    tget 0 (putPair base neg a b j m) (base + (2 * j + b2n (neg j))) = a j ∧
      tget 0 (putPair base neg a b j m) (base + (2 * j + 1 - b2n (neg j))) = b j := by
  have := b2n_le_one (neg j)
  rw [putPair, tget_tset_same, tget_tset_ne _ _ _ (by omega), tget_tset_same]
  exact ⟨rfl, rfl⟩

/-- Pairs put one after another: each holds its levels, and no other cell changes. -/
theorem tget_foldS_putPair (base : Nat) (neg : Nat → Bool) (a b : Nat → Nat) (m : Tab Nat) (n : Nat) :
    (∀ j, j < n → tget 0 (foldS (List.range n) (putPair base neg a b) m) (base + (2 * j + b2n (neg j))) = a j ∧
      tget 0 (foldS (List.range n) (putPair base neg a b) m) (base + (2 * j + 1 - b2n (neg j))) = b j) ∧
    ∀ k, k < base ∨ base + 2 * n ≤ k → tget 0 (foldS (List.range n) (putPair base neg a b) m) k = tget 0 m k := by
  induction n with
  | zero => exact ⟨fun j hj => absurd hj (Nat.not_lt_zero j), fun _ _ => rfl⟩
  | succ n ih =>
    obtain ⟨levels, frame⟩ := ih
    have step : foldS (List.range (n + 1)) (putPair base neg a b) m =
        putPair base neg a b n (foldS (List.range n) (putPair base neg a b) m) := by
      simp [foldS, List.range_succ, List.foldl_append]
    rw [step]
    refine ⟨fun j hj => ?_, fun k hk => ?_⟩
    · rcases Nat.lt_succ_iff_lt_or_eq.mp hj with hj | rfl
      · have := b2n_le_one (neg j)
        rw [tget_putPair_outside _ (by omega), tget_putPair_outside _ (by omega)]
        exact levels j hj
      · exact tget_putPair base neg a b j _
    · rw [tget_putPair_outside _ (by omega), frame k (by omega)]

/-- The cells of a row that is written, a pair for each code. -/
theorem putRow_pairs (tl row : Nat) (x : Shadow) (gs : List ℚ) (s : State) : (putRow tl row x gs s).cells =
    foldS (List.range 1024) (putPair (tl * 2 ^ 21 + row * 2 ^ 11)
      (fun j => (weightSide x.fp4 (shadowCode s x row j)).2) (fun j => (weightSide x.fp4 (shadowCode s x row j)).1)
      (fun j => trimLevel (gs.getD (2 * j + b2n (weightSide x.fp4 (shadowCode s x row j)).2) 0 - 2 -
        targetOf s (tl / 1024) x.fp4 (weightSide x.fp4 (shadowCode s x row j)).1))) s.cells := by
  unfold putRow
  generalize List.range 1024 = js
  rfl

/-- The cells of a row that is written: the level of each code on its weight side, beside it the trim that the weight side's
residual calls for (R156). -/
theorem putRow_cells (tl row : Nat) (x : Shadow) (gs : List ℚ) (s : State) :
    (∀ j, j < 1024 →
      let base := tl * 2 ^ 21 + row * 2 ^ 11
      let w := weightSide x.fp4 (shadowCode s x row j)
      let at_ := base + 2 * j + b2n w.2
      tget 0 (putRow tl row x gs s).cells at_ = w.1 ∧
      tget 0 (putRow tl row x gs s).cells (2 * (base + 2 * j) + 1 - at_) =
        trimLevel (gs.getD (2 * j + b2n w.2) 0 - 2 - targetOf s (tl / 1024) x.fp4 w.1)) ∧
    ∀ k, (k < tl * 2 ^ 21 + row * 2 ^ 11 ∨ tl * 2 ^ 21 + row * 2 ^ 11 + 2048 ≤ k) →
      tget 0 (putRow tl row x gs s).cells k = tget 0 s.cells k := by
  rw [putRow_pairs]
  refine ⟨fun j hj => ?_, (tget_foldS_putPair _ _ _ _ _ 1024).2⟩
  intro base w at_
  have other : 2 * (base + 2 * j) + 1 - at_ = base + (2 * j + 1 - b2n w.2) := by
    have : at_ = base + 2 * j + b2n w.2 := rfl
    have := b2n_le_one w.2
    omega
  have here : at_ = base + (2 * j + b2n w.2) := Nat.add_assoc _ _ _
  rw [other, here]
  exact (tget_foldS_putPair base _ _ _ _ 1024).1 j hj

/-! ### The start of a row step (R155) -/

/-- A row step in a tile that has taken a token for it. -/
def rowStarted (layer : Nat) (o : ProgOp) (x : Tile) : Tile :=
  { x with pending := none, token := true, running := some { req := rowReq layer o } }

/-- A row step that finds a token takes it, and runs; a change `f` that leaves tiles and pools is made with it. -/
theorem startRow_spec {s : State} {tile layer : Nat} {o : ProgOp} {f : State → State} (hl : layer < 4)
    (lacks : (tileOf s tile).token = false) (behind : (tileOf s tile).held = []) (free : tokenFor s tile = true)
    (keeps : ∀ u, (f u).tiles = u.tiles ∧ (f u).pools = u.pools) :
    let t := startRow (tlKey tile layer) o f s
    (∃ ts ps, t = { f { s with tiles := ts, pools := ps } with tiles := t.tiles }) ∧
      tileOf t tile = rowStarted layer o (tileOf s tile) ∧ (∀ v, v ≠ tile → tileOf t v = tileOf s v) ∧
      (poolOf t (tile / 1536)).inUse = (poolOf s (tile / 1536)).inUse + 1 := by
  intro t
  obtain ⟨u, hu⟩ : ∃ u, u = modTile tile (fun x => { x with pending := none, running := some { req := rowReq layer o } })
    (takeToken tile s) := ⟨_, rfl⟩
  have took := takeToken_free lacks free
  have taken : (tileOf (takeToken tile s) tile).token = true := by rw [took, tileOf_modTile_same]
  have tiles (v : Nat) : tileOf u v = if v = tile then rowStarted layer o (tileOf s tile) else tileOf s v := by
    rw [hu, took]
    split
    next h => subst h; rw [tileOf_modTile_same, tileOf_modTile_same]; rfl
    next h => rw [tileOf_modTile_ne _ _ h, tileOf_modTile_ne _ _ h]; rfl
  have clear : (tileOf u tile).held = [] := by rw [tiles, if_pos rfl]; exact behind
  have run : t = modTile tile (fun x => { x with held := [] }) (f u) := by
    have admitted : t = admitHeld tile (tileOf u tile).held (f u) := by
      show startRow (tlKey tile layer) o f s = _
      rw [startRow, tlKey_tile hl, tlKey_layer hl, hu]
      exact if_pos taken
    rw [admitted, clear, admitHeld]
  have kept (v : Nat) : tileOf (f u) v = tileOf u v := by rw [tileOf, (keeps u).1, tileOf]
  refine ⟨⟨u.tiles, u.pools, ?_⟩, ?_, fun v hv => ?_, ?_⟩
  · have frame : u = { s with tiles := u.tiles, pools := u.pools } := by rw [hu, took]; rfl
    rw [← frame, run]
    rfl
  · rw [run, tileOf_modTile_same, kept, tiles, if_pos rfl, rowStarted, ← behind]
  · rw [run, tileOf_modTile_ne _ _ hv, kept, tiles, if_neg hv]
  · have pools : poolOf t (tile / 1536) = poolOf (takeToken tile s) (tile / 1536) := by
      rw [run, poolOf]
      exact (congrArg (fun ps => tget {} ps (tile / 1536)) ((keeps u).2.trans (by rw [hu])) :)
    rw [pools, took]
    show (poolOf (modPool (tile / 1536) (fun p => { p with inUse := p.inUse + 1, waiters := p.waiters.erase tile }) s)
      (tile / 1536)).inUse = _
    rw [poolOf_modPool_same]

/-! ### Row steps that run (R155, R156, R224) -/

theorem exec_programRowStep {s : State} {tile layer vprog : Nat} {gs : List ℚ} {o : ProgOp}
    (op : progOf s (tlKey tile layer) = some o) (runs : o.st = 1) (all : gs.length = 2048) (goes : opStopped s o = false)
    (ready : rowStartable s tile layer = true) : exec (.programRowStep tile layer vprog gs) s =
      .next (if o.kind = 2 then startRow (tlKey tile layer) o id s else programRow (tlKey tile layer) vprog o gs s) := by
  show execProgramRowStep tile layer vprog gs s = _
  simp [execProgramRowStep, op, runs, all, goes, ready, done]

/-- With VPROG in its window and a good shadow, the cells of the row are written, but for a repeat. -/
theorem programRow_admissible {s : State} {tl vprog : Nat} {o : ProgOp} {gs : List ℚ} {x : Shadow} (low : 2375 ≤ vprog)
    (high : vprog ≤ 2625) (shadow : shadowOf s o.src = some x) (clean : anyPoison s (x.addr + o.row * 512) 512 = false)
    (valid : o.kind = 0 ∨ x.state = 0) :
    programRow tl vprog o gs s = startRow tl o (if o.failing.isEmpty then putRow tl o.row x gs else id) s := by
  have fresh : (o.kind != 0 && x.state != 0) = false := by
    rcases valid with h | h <;> simp [h]
  simp [programRow, Nat.not_lt.mpr low, Nat.not_lt.mpr high, shadow, clean, fresh]

/-- A row step that writes no cell. -/
theorem startRow_id {s : State} {tile layer : Nat} {o : ProgOp} (hl : layer < 4) (lacks : (tileOf s tile).token = false)
    (behind : (tileOf s tile).held = []) (free : tokenFor s tile = true) :
    let t := startRow (tlKey tile layer) o id s
    t = { s with tiles := t.tiles, pools := t.pools } ∧
      tileOf t tile = rowStarted layer o (tileOf s tile) ∧ (∀ v, v ≠ tile → tileOf t v = tileOf s v) ∧
      (poolOf t (tile / 1536)).inUse = (poolOf s (tile / 1536)).inUse + 1 := by
  obtain ⟨⟨ts, ps, frame⟩, takes⟩ := startRow_spec (o := o) (f := id) hl lacks behind free fun _ => ⟨rfl, rfl⟩
  refine ⟨?_, takes⟩
  rw [frame]
  rfl

theorem putRow_keeps (tl row : Nat) (x : Shadow) (gs : List ℚ) (s : State) :
    (putRow tl row x gs s).tiles = s.tiles ∧ (putRow tl row x gs s).pools = s.pools := by
  unfold putRow
  exact ⟨rfl, rfl⟩

/-- The cells that are written do not depend on the tiles and the tokens. -/
theorem putRow_cells_unpooled (tl row : Nat) (x : Shadow) (gs : List ℚ) (s : State) (ts : Tab Tile) (ps : Tab TokPool) :
    (putRow tl row x gs { s with tiles := ts, pools := ps }).cells = (putRow tl row x gs s).cells := by
  rw [putRow_pairs, putRow_pairs]
  generalize List.range 1024 = js
  rfl

/-- A row step that writes the cells of its row. -/
theorem startRow_putRow {s : State} {tile layer : Nat} {o : ProgOp} {x : Shadow} {gs : List ℚ} (hl : layer < 4)
    (lacks : (tileOf s tile).token = false) (behind : (tileOf s tile).held = []) (free : tokenFor s tile = true) :
    let t := startRow (tlKey tile layer) o (putRow (tlKey tile layer) o.row x gs) s
    t = { s with cells := t.cells, tiles := t.tiles, pools := t.pools } ∧
      (tileOf t tile = rowStarted layer o (tileOf s tile) ∧ (∀ v, v ≠ tile → tileOf t v = tileOf s v) ∧
      (poolOf t (tile / 1536)).inUse = (poolOf s (tile / 1536)).inUse + 1) ∧
      t.cells = (putRow (tlKey tile layer) o.row x gs s).cells := by
  obtain ⟨⟨ts, ps, frame⟩, takes⟩ := startRow_spec (o := o) (f := putRow (tlKey tile layer) o.row x gs) hl lacks behind free
    fun u => putRow_keeps _ _ _ _ u
  obtain ⟨cells, put⟩ : ∃ cells, putRow (tlKey tile layer) o.row x gs { s with tiles := ts, pools := ps } =
    { s with tiles := ts, pools := ps, cells := cells } := ⟨_, by unfold putRow; rfl⟩
  have written : cells = (putRow (tlKey tile layer) o.row x gs s).cells := by
    rw [← putRow_cells_unpooled (tlKey tile layer) o.row x gs s ts ps, put]
  rw [put] at frame
  refine ⟨?_, takes, ?_⟩
  · rw [frame]
  · rw [frame, written]

/-! ### The end of an operation (R182, R184) -/

theorem progOf_tdel (tl : Nat) (s : State) : progOf { s with progs := tdel s.progs tl } tl = none := by
  simp [progOf, tdel]

/-- Where nothing waits at the tile for the end of an operation, that end leaves the tile. -/
theorem backFromAside_clear {s : State} {tl : Nat} (aside : (tileOf s (tl / 4)).aside = [])
    (held : (tileOf s (tl / 4)).held = []) : let t := backFromAside tl s
    t = { s with tiles := t.tiles } ∧ ∀ u, tileOf t u = tileOf s u := by
  obtain ⟨f, hf⟩ : ∃ f : Tile → Tile, f = fun x =>
    { x with held := x.aside.filter (fun r => r.layer == tl % 4) ++ x.held,
             aside := x.aside.filter fun r => !(r.layer == tl % 4) } := ⟨_, rfl⟩
  have fixed : f (tileOf s (tl / 4)) = tileOf s (tl / 4) := by
    rw [hf]
    generalize tileOf s (tl / 4) = x at *
    cases x
    simp_all
  have same (u : Nat) : tileOf (modTile (tl / 4) f s) u = tileOf s u := by
    rw [tileOf_modTile]
    split
    next h => rw [h, fixed]
    next => rfl
  intro t
  have back : t = if (tileOf (modTile (tl / 4) f s) (tl / 4)).pending.isNone then
      admitHeld (tl / 4) (tileOf (modTile (tl / 4) f s) (tl / 4)).held (modTile (tl / 4) f s)
      else modTile (tl / 4) f s := by rw [hf]; rfl
  rw [back, same, held, admitHeld]
  split
  next =>
    refine ⟨rfl, fun u => ?_⟩
    rw [tileOf_modTile]
    split
    next h => rw [same, h, ← held]
    next => exact same u
  next => exact ⟨rfl, same⟩

theorem endProg_clear {s : State} {tl : Nat} (aside : (tileOf s (tl / 4)).aside = [])
    (held : (tileOf s (tl / 4)).held = []) : let t := endProg tl s
    t = { s with progs := tdel s.progs tl, tiles := t.tiles } ∧ ∀ u, tileOf t u = tileOf s u :=
  backFromAside_clear (s := { s with progs := tdel s.progs tl }) aside held

/-- A row-step request that is dropped leaves a tile for which nothing else waits. -/
theorem dropRowReq_clear {s : State} {tl : Nat} (held : (tileOf s (tl / 4)).held = []) : let t := dropRowReq tl s
    t = { s with tiles := t.tiles } ∧ (tileOf t (tl / 4)).held = [] ∧ (tileOf t (tl / 4)).aside = (tileOf s (tl / 4)).aside := by
  obtain ⟨u, hu⟩ : ∃ u, u = modTile (tl / 4)
    (fun x => { x with held := x.held.filter fun r => !(r.kind == 2 && r.layer == tl % 4) }) s := ⟨_, rfl⟩
  have tile : tileOf u (tl / 4) = tileOf s (tl / 4) := by
    rw [hu, tileOf_modTile_same, held, List.filter_nil, ← held]
  intro t
  have dropped : t = if (tileOf u (tl / 4)).pending.any (fun r => r.kind == 2 && r.layer == tl % 4) then
      admitHeld (tl / 4) (tileOf u (tl / 4)).held (modTile (tl / 4) (fun x => { x with pending := none }) u) else u := by
    rw [hu]
    rfl
  rw [dropped, tile, held, admitHeld]
  split
  next =>
    refine ⟨by rw [hu]; rfl, by rw [tileOf_modTile_same], ?_⟩
    rw [tileOf_modTile_same, tileOf_modTile_same, tile]
  next => exact ⟨by rw [hu]; rfl, by rw [tile, held], by rw [tile]⟩

/-- A refresh that fails or is halted: its operation goes, and it is due again (R184, R188). -/
theorem haltProg_refresh {s : State} {tl : Nat} {o : ProgOp} (kind : o.kind = 1) (held : (tileOf s (tl / 4)).held = [])
    (aside : (tileOf s (tl / 4)).aside = []) : let t := haltProg tl o s
    t = { s with sil := { s.sil with pageDone := t.sil.pageDone, flashQ := t.sil.flashQ }, progs := tdel s.progs tl,
                 tiles := t.tiles, tlayers := t.tlayers } ∧
      (tlOf t (tl / 4) (tl % 4)).due = true := by
  obtain ⟨drop, held', aside'⟩ := dropRowReq_clear held
  obtain ⟨fin, -⟩ := endProg_clear (aside'.trans aside) held'
  intro t
  have halted : t = modTl (tl / 4) (tl % 4) (fun x => { x with due := true }) (dropProg tl s) := if_pos kind
  refine ⟨?_, by rw [halted, tlOf_modTl]⟩
  rw [halted, dropProg, fin, drop]
  rfl

/-! ### A refresh that is halted (R161, R184, R188) -/

/-- An entry of the log about a tile-layer, with the event that it reports. -/
def calEvent (k code tl : Nat) (data : List Nat) (s : State) : State := calLog code 3 tl data (setEv .CAL_STAT k 0 s)

theorem outer_calEvent (k code tl : Nat) (data : List Nat) (s : State) : outer (calEvent k code tl data s) = outer s :=
  (outer_logE _ _).trans (outer_setEv _ _ _ _)

theorem rb_calEvent {k : Nat} (hk : k < 32) (code tl : Nat) (data : List Nat) (s : State) :
    rb (calEvent k code tl data s) .CAL_STAT k = true :=
  (rb_logE _ _ _ _ _ (by decide)).trans (rb_setEv_same _ _ _ _ hk)

theorem tileOf_of_outer {s t : State} (h : outer t = outer s) (u : Nat) : tileOf t u = tileOf s u :=
  (congrArg (fun v : State => tileOf v u) h :)

theorem rb_of_regs {s t : State} (h : t.regs = s.regs) (r : Reg) (k i : Nat) : rb t r k i = rb s r k i := by
  rw [rb, rd_congr h, rb]

theorem sameMem_of_mem {s t : State} (h : t.mem = s.mem) : SameMem s t := fun a => rdByte_congr h a

/-- A refresh that is halted with an event and an entry of the log. -/
theorem haltProg_event {s : State} {tl k code : Nat} {data : List Nat} {o : ProgOp} (hk : k < 32) (kind : o.kind = 1)
    (held : (tileOf s (tl / 4)).held = []) (aside : (tileOf s (tl / 4)).aside = []) :
    let t := haltProg tl o (calEvent k code tl data s)
    t.cells = s.cells ∧ SameMem s t ∧ rb t .CAL_STAT k = true ∧ progOf t tl = none ∧ (tlOf t (tl / 4) (tl % 4)).due = true ∧
      t.pools = s.pools ∧ t.sil.fails = s.sil.fails := by
  obtain ⟨u, hu⟩ : ∃ u, u = calEvent k code tl data s := ⟨_, rfl⟩
  have out : outer u = outer s := by rw [hu]; exact outer_calEvent k code tl data s
  have fails : u.sil.fails = s.sil.fails := by
    rw [hu]; exact (congrArg Sil.fails (silCore_logE _ (setEv .CAL_STAT k 0 s)) :)
  rw [← hu]
  have tile := tileOf_of_outer out (tl / 4)
  obtain ⟨frame, due⟩ := haltProg_refresh (o := o) kind (tile ▸ held) (tile ▸ aside)
  intro t
  have cells : t.cells = u.cells := (congrArg State.cells frame :)
  have mem : t.mem = u.mem := (congrArg State.mem frame :)
  have pools : t.pools = u.pools := (congrArg State.pools frame :)
  have failed : t.sil.fails = u.sil.fails := (congrArg (fun v : State => v.sil.fails) frame :)
  refine ⟨cells.trans (congrArg State.cells out :), sameMem_of_mem (mem.trans (mem_of_outer out)), ?_, ?_, due,
    pools.trans (congrArg State.pools out :), failed.trans fails⟩
  · have reported : rb u .CAL_STAT k = true := by rw [hu]; exact rb_calEvent hk code tl data s
    exact (rb_of_regs (congrArg State.regs frame :) .CAL_STAT k 0).trans reported
  · have progs : t.progs = tdel u.progs tl := (congrArg State.progs frame :)
    unfold progOf
    rw [progs]
    exact progOf_tdel tl u

/-- Out of its window, VPROG ends a refresh (R161). -/
theorem programRow_outside {s : State} {tl vprog : Nat} {o : ProgOp} {gs : List ℚ} (h : vprog < 2375 ∨ 2625 < vprog) :
    programRow tl vprog o gs s = haltProg tl o (calEvent 17 4 tl [vprog] s) := by
  unfold programRow
  exact if_pos (by simpa using h)

/-! ### The end of a row step (R155, R158) -/

/-- A tile whose row step has ended, its token returned. -/
def rowFreed (tile : Nat) (s : State) : State :=
  modTile tile (fun x => { x with token := false })
    (modPool (tile / 1536) (fun p => { p with inUse := p.inUse - 1 }) (modTile tile (fun x => { x with running := none }) s))

/-- What a row step that has ended leaves at its tile. -/
def idleTile (x : Tile) : Tile := { x with running := none, token := false }

theorem rowFreed_frame (tile : Nat) (s : State) : rowFreed tile s =
    { s with tiles := (rowFreed tile s).tiles, pools := (rowFreed tile s).pools } := rfl

theorem tileOf_rowFreed (tile u : Nat) (s : State) :
    tileOf (rowFreed tile s) u = if u = tile then idleTile (tileOf s tile) else tileOf s u := by
  unfold rowFreed
  split
  next h =>
    rw [h, tileOf_modTile_same]
    show ({ tileOf (modTile tile (fun x => { x with running := none }) s) tile with token := false } : Tile) = _
    rw [tileOf_modTile_same]
    rfl
  next h =>
    rw [tileOf_modTile_ne _ _ h]
    show tileOf (modTile tile (fun x => { x with running := none }) s) u = _
    rw [tileOf_modTile_ne _ _ h]

theorem inUse_rowFreed (tile : Nat) (s : State) :
    (poolOf (rowFreed tile s) (tile / 1536)).inUse = (poolOf s (tile / 1536)).inUse - 1 := by
  show (poolOf (modPool (tile / 1536) (fun p => { p with inUse := p.inUse - 1 }) s) (tile / 1536)).inUse = _
  rw [poolOf_modPool_same]

theorem rowOutside_rowFreed (tile : Nat) (s : State) (tl row : Nat) (fp4 : Bool) (gs : List ℚ) (w : ℚ) :
    rowOutside (rowFreed tile s) tl row fp4 gs w = rowOutside s tl row fp4 gs w := by
  unfold rowOutside
  generalize List.range 2048 = cs
  rfl

theorem exec_programRowStepEnd {s : State} {tile layer : Nat} {gs : List ℚ} {o : ProgOp} {r : PassRun}
    (op : progOf s (tlKey tile layer) = some o) (runs : o.st = 1) (on : o.stop = false) (goes : opStopped s o = false)
    (all : gs.length = 2048) (running : (tileOf s tile).running = some r) (kind : r.req.kind = 2) (same : r.req.layer = layer)
    (own : r.req.vec = o.order) (token : (tileOf s tile).token = true) :
    exec (.programRowStepEnd tile layer gs) s = .next (rowEnded (tlKey tile layer) o gs (rowFreed tile s)) := by
  have held : (tileOf (modTile tile (fun x => { x with running := none }) s) tile).token = true := by
    rw [tileOf_modTile_same]; exact token
  have freed : returnToken tile (modTile tile (fun x => { x with running := none }) s) = rowFreed tile s := returnToken_held held
  have op' : progOf (rowFreed tile s) (tlKey tile layer) = some o := op
  have goes' : opStopped (rowFreed tile s) o = false := goes
  show execProgramRowStepEnd tile layer gs s = _
  simp [execProgramRowStepEnd, running, kind, same, all, freed, op', own, runs, goes', on, done]

/-- A tile whose row step has ended, and for which the next one is asked. -/
def askedTile (layer : Nat) (o : ProgOp) (x : Tile) : Tile := { idleTile x with pending := some (rowReq layer o) }

/-- The next row step is asked for, under an operation that has gone on to `o`. -/
theorem askRowStep_rowFreed {s : State} {tile layer : Nat} {o : ProgOp} (hl : layer < 4) (free : (tileOf s tile).pending = none)
    (first : (tileOf s tile).held = []) (open_ : fenced s 0 tile = false) (up : inReset s 0 tile = false) :
    let t := askRowStep (tlKey tile layer) o (setProg (tlKey tile layer) o (rowFreed tile s))
    (t = { s with progs := t.progs, tiles := t.tiles, pools := t.pools } ∧
      (poolOf t (tile / 1536)).inUse = (poolOf s (tile / 1536)).inUse - 1 ∧
      tileOf t tile = askedTile layer o (tileOf s tile) ∧ ∀ u, u ≠ tile → tileOf t u = tileOf s u) ∧
    progOf t (tlKey tile layer) = some o := by
  obtain ⟨u, hu⟩ : ∃ u, u = setProg (tlKey tile layer) o (rowFreed tile s) := ⟨_, rfl⟩
  have tiles (v : Nat) : tileOf u v = if v = tile then idleTile (tileOf s tile) else tileOf s v := by
    rw [← tileOf_rowFreed, hu]; rfl
  have prog : progOf u (tlKey tile layer) = some o := by rw [hu, progOf_setProg, if_pos rfl]
  obtain ⟨ps, ts, qs, frame'⟩ : ∃ ps ts qs, u = { s with progs := ps, tiles := ts, pools := qs } := by
    rw [hu, rowFreed_frame]; exact ⟨_, _, _, rfl⟩
  have pool : (poolOf u (tile / 1536)).inUse = (poolOf s (tile / 1536)).inUse - 1 := by
    rw [← inUse_rowFreed, hu]; rfl
  have clear : (tileOf u tile).pending = none ∧ (tileOf u tile).held = [] := by
    rw [tiles, if_pos rfl]; exact ⟨free, first⟩
  obtain ⟨frame, pools, same, others⟩ := askRowStep_spec (s := u) (o := o) hl (by rw [frame']; exact open_)
    (by rw [frame']; exact up)
  rw [← hu]
  refine ⟨⟨?_, (pools _).trans pool, ?_, fun v hv => ?_⟩, ?_⟩
  · rw [frame, frame']
  · rw [same, if_pos clear, tiles, if_pos rfl]; rfl
  · rw [others v hv, tiles, if_neg hv]
  · rw [← prog]; exact (congrArg (fun v : State => progOf v (tlKey tile layer)) frame :)

/-- The cells of the row of an operation that lie outside a window (R157, R158). -/
def opOutside (s : State) (tl : Nat) (o : ProgOp) (gs : List ℚ) (w : ℚ) : List Nat :=
  rowOutside s tl o.row ((shadowOf s o.src).getD {}).fp4 gs w

/-- Below the last row an operation asks for the next one. -/
theorem nextRow_eq {tl : Nat} {o : ProgOp} {s : State} (more : o.row < 1023) :
    nextRow tl o s = askRowStep tl { o with row := o.row + 1, failing := [] }
      (setProg tl { o with row := o.row + 1, failing := [] } s) := by
  have : decide (o.row + 1 < 1024) = true := by simp; omega
  rw [nextRow, whenS]
  exact if_pos this

section
variable {tile tl : Nat} {o : ProgOp} {gs : List ℚ} {s : State}

theorem opOutside_rowFreed (w : ℚ) : rowOutside (rowFreed tile s) tl o.row ((shadowOf (rowFreed tile s) o.src).getD {}).fp4 gs w =
    opOutside s tl o gs w := rowOutside_rowFreed _ _ _ _ _ _ _

theorem rowEnded_readBack (kind : o.kind = 2) :
    rowEnded tl o gs s = nextRow tl { o with reads := gs :: o.reads } s := if_pos kind

/-- A first verify with cells outside 0.15 count is followed by a repeat on them. -/
theorem rowEnded_repeat (kind : o.kind ≠ 2) (first : o.failing = []) (out : opOutside s tl o gs (15 / 100) ≠ []) :
    rowEnded tl o gs (rowFreed tile s) = askRowStep tl { o with failing := opOutside s tl o gs (15 / 100) }
      (setProg tl { o with failing := opOutside s tl o gs (15 / 100) } (rowFreed tile s)) := by
  have again : (o.failing.isEmpty && !(opOutside s tl o gs (15 / 100)).isEmpty) = true := by simpa [first] using out
  rw [rowEnded, if_neg kind]
  simp only [opOutside_rowFreed]
  exact if_pos again

/-- What follows a verify that asks for no repeat. -/
theorem rowEnded_final (kind : o.kind ≠ 2) (noRepeat : o.failing = [] → opOutside s tl o gs (15 / 100) = []) :
    rowEnded tl o gs (rowFreed tile s) =
      if !(opOutside s tl o gs (1 / 5)).isEmpty then progFail tl o (rowFreed tile s)
      else if o.row = 1023 then
        whenS (o.kind == 0) (loadMark o.ctx tl 3 id)
          (setProg tl { o with st := 2, failing := [] } (clearProbes (· == tl / 4 * 8 + tl % 4) (rowFreed tile s)))
      else nextRow tl o (rowFreed tile s) := by
  have once : (o.failing.isEmpty && !(opOutside s tl o gs (15 / 100)).isEmpty) = false := by
    cases h : o.failing with
    | nil => simp [noRepeat h]
    | cons => rfl
  rw [rowEnded, if_neg kind]
  simp only [opOutside_rowFreed, once, Bool.false_eq_true, if_false]

/-- A row in its window on its last verify. -/
theorem rowEnded_next (kind : o.kind ≠ 2) (noRepeat : o.failing = [] → opOutside s tl o gs (15 / 100) = [])
    (good : opOutside s tl o gs (1 / 5) = []) (more : o.row < 1023) :
    rowEnded tl o gs (rowFreed tile s) = askRowStep tl { o with row := o.row + 1, failing := [] }
      (setProg tl { o with row := o.row + 1, failing := [] } (rowFreed tile s)) := by
  rw [rowEnded_final kind noRepeat, good, ← nextRow_eq more]
  exact if_neg more.ne

/-- The last row of a refresh or a remap in its window: the closing calibration follows. -/
theorem rowEnded_close (kind : o.kind = 1 ∨ o.kind = 3) (noRepeat : o.failing = [] → opOutside s tl o gs (15 / 100) = [])
    (good : opOutside s tl o gs (1 / 5) = []) (last : o.row = 1023) :
    rowEnded tl o gs (rowFreed tile s) = setProg tl { o with st := 2, failing := [] }
      (clearProbes (· == tl / 4 * 8 + tl % 4) (rowFreed tile s)) := by
  have noRead : o.kind ≠ 2 := by omega
  have noLoad : (o.kind == 0) = false := by simp; omega
  rw [rowEnded_final noRead noRepeat, good, noLoad]
  exact if_pos last

theorem rowEnded_fail (kind : o.kind ≠ 2) (repeated : o.failing ≠ []) (out : opOutside s tl o gs (1 / 5) ≠ []) :
    rowEnded tl o gs (rowFreed tile s) = progFail tl o (rowFreed tile s) := by
  rw [rowEnded_final kind fun h => absurd h repeated]
  exact if_pos (by simpa using out)

end

/-- A closing calibration begins under an operation that has gone on to `o`. -/
theorem close_rowFreed {s : State} {tile layer : Nat} {o : ProgOp} (p : Nat → Bool) :
    let t := setProg (tlKey tile layer) o (clearProbes p (rowFreed tile s))
    t = { s with progs := t.progs, tiles := t.tiles, pools := t.pools, probes := t.probes } ∧
      (poolOf t (tile / 1536)).inUse = (poolOf s (tile / 1536)).inUse - 1 ∧
      progOf t (tlKey tile layer) = some o ∧ tileOf t tile = idleTile (tileOf s tile) := by
  intro t
  have tiles : tileOf t tile = tileOf (rowFreed tile s) tile := rfl
  have pools : poolOf t (tile / 1536) = poolOf (rowFreed tile s) (tile / 1536) := rfl
  refine ⟨?_, by rw [pools, inUse_rowFreed], by rw [progOf_setProg, if_pos rfl], by rw [tiles, tileOf_rowFreed, if_pos rfl]⟩
  show setProg _ _ (clearProbes p (rowFreed tile s)) = _
  rw [rowFreed_frame]
  rfl

/-- A refresh that fails: the failure is counted, and the refresh is due again (R158, R186). -/
theorem progFail_refresh {s : State} {tl : Nat} {o : ProgOp} (kind : o.kind = 1) (held : (tileOf s (tl / 4)).held = [])
    (aside : (tileOf s (tl / 4)).aside = []) :
    let t := progFail tl o s
    progOf t tl = none ∧ rb t .CAL_STAT 18 = true ∧ tget 0 t.sil.fails tl = tget 0 s.sil.fails tl + 1 ∧
      (tlOf t (tl / 4) (tl % 4)).due = true ∧ t.pools = s.pools ∧ t.cells = s.cells ∧ SameMem s t := by
  obtain ⟨u, hu⟩ : ∃ u : State, u = { s with sil.fails := tmod 0 s.sil.fails tl (· + 1) } := ⟨_, rfl⟩
  obtain ⟨v, hv⟩ : ∃ v, v = calEvent 18 5 tl [] u := ⟨_, rfl⟩
  obtain ⟨w, hw⟩ : ∃ w, w = whenS (decide (2 ≤ tget 0 v.sil.fails tl)) (setWear tl { wearOf v tl with state := 4 }) v := ⟨_, rfl⟩
  have out : outer w = outer s := by
    have : outer w = outer v := by rw [hw]; exact whenS_eq outer rfl
    rw [this, hv, outer_calEvent, hu]
    rfl
  have regs : w.regs = v.regs := by rw [hw]; exact whenS_eq State.regs rfl
  have fails : w.sil.fails = u.sil.fails := by
    have : w.sil.fails = v.sil.fails := by rw [hw]; exact whenS_eq (fun x : State => x.sil.fails) rfl
    rw [this, hv]
    exact (congrArg Sil.fails (silCore_logE _ (setEv .CAL_STAT 18 0 u)) :)
  have tile := tileOf_of_outer out (tl / 4)
  obtain ⟨frame, due⟩ := haltProg_refresh (o := o) kind (tile ▸ held) (tile ▸ aside)
  have failed : progFail tl o s = haltProg tl o w := by rw [hw, hv, hu]; rfl
  intro t
  have ht : t = haltProg tl o w := failed
  rw [ht]
  refine ⟨?_, ?_, ?_, due, ?_, ?_, sameMem_of_mem ?_⟩
  · rw [frame]; exact progOf_tdel tl w
  · refine (rb_of_regs ((congrArg State.regs frame :).trans regs) .CAL_STAT 18 0).trans ?_
    rw [hv]; exact rb_calEvent (by decide) 5 tl [] u
  · have same : (haltProg tl o w).sil.fails = w.sil.fails := (congrArg (fun x : State => x.sil.fails) frame :)
    rw [same, fails, hu]
    exact tget_tmod_same 0 s.sil.fails tl (· + 1)
  · exact (congrArg State.pools frame :).trans (congrArg State.pools out :)
  · exact (congrArg State.cells frame :).trans (congrArg State.cells out :)
  · have mem : (haltProg tl o w).mem = w.mem := (congrArg State.mem frame :)
    exact mem.trans (mem_of_outer out)

/-! ### Progress of a load (R223, R360) -/

theorem loadOf_modLoad (k : Nat) (f : Load → Load) (s : State) : loadOf (modLoad k f s) k = (loadOf s k).map f := by
  rw [loadOf, modLoad, cxOf_modCx, loadOf]

/-- A progress event changes the command that it is about, and nothing else. -/
theorem progress_frame (h : Nat) (s : State) : progress h s = { s with cmds := (progress h s).cmds } := by
  unfold progress modCmd
  split <;> rfl

/-- A load some tile-layer of which is not finished is at most in another phase. -/
theorem loadAdvance_unfinished {k : Nat} {s : State} {l : Load} (load : loadOf s k = some l)
    (left : ∃ tl ∈ imgTls (imgOf s l.im), tget 0 l.todo tl ≠ 4) : let t := loadAdvance k s
    t = { s with ctxs := t.ctxs } ∧ ∃ phase, loadOf t k = some { l with phase := phase } := by
  have unfinished : loadFinished l (imgOf s l.im) = false := by
    obtain ⟨tl, mem, todo⟩ := left
    have : ((imgTls (imgOf s l.im)).all fun tl => tget 0 l.todo tl == 4) = false :=
      List.all_eq_false.mpr ⟨tl, mem, by simpa using todo⟩
    rw [loadFinished, this, Bool.and_false]
  intro t
  have advanced : t = if l.stop.isSome || l.phase < 3 then s
      else modLoad k (fun l' => { l' with phase := loadPhase l' (imgOf s l.im) }) s := by
    show loadAdvance k s = _
    rw [loadAdvance, load]
    simp only [unfinished, Bool.false_eq_true, if_false]
  rw [advanced]
  split
  next => exact ⟨rfl, l.phase, load⟩
  next => exact ⟨rfl, loadPhase l (imgOf s l.im), by rw [loadOf_modLoad, load]; rfl⟩

/-- A tile-layer of a load reaches a state that leaves a tile-layer unfinished. -/
theorem loadMark_unfinished {k tl st : Nat} {f : Load → Load} {s : State} {l : Load} (load : loadOf s k = some l)
    (image : (f { l with todo := tset 0 l.todo tl st }).im = l.im)
    (todo : (f { l with todo := tset 0 l.todo tl st }).todo = tset 0 l.todo tl st)
    (left : ∃ tl' ∈ imgTls (imgOf s l.im), tget 0 (tset 0 l.todo tl st) tl' ≠ 4) : let t := loadMark k tl st f s
    t = { s with cmds := t.cmds, ctxs := t.ctxs } ∧
      ∃ phase, loadOf t k = some { f { l with todo := tset 0 l.todo tl st } with phase := phase } := by
  obtain ⟨u, hu⟩ : ∃ u, u = progress l.h (modLoad k (fun l => f { l with todo := tset 0 l.todo tl st }) s) := ⟨_, rfl⟩
  have frame : u = { s with cmds := u.cmds, ctxs := u.ctxs } := by rw [hu, progress_frame]; rfl
  have marked : loadOf u k = some (f { l with todo := tset 0 l.todo tl st }) := by
    have : loadOf u k = loadOf (modLoad k (fun l => f { l with todo := tset 0 l.todo tl st }) s) k := by
      rw [hu, progress_frame]; rfl
    rw [this, loadOf_modLoad, load]
    rfl
  have images : imgOf u l.im = imgOf s l.im := by rw [frame]; rfl
  obtain ⟨frame', phase⟩ := loadAdvance_unfinished marked (by rw [image, todo, images]; exact left)
  intro t
  have ht : t = loadAdvance k u := by
    show loadMark k tl st f s = _
    rw [loadMark, load, hu]
  rw [ht]
  refine ⟨?_, phase⟩
  rw [frame', frame]

/-! ### A shadow that is written again (R169, R224) -/

theorem length_bytesLE (n v : Nat) : (bytesLE n v).length = n := by simp [bytesLE]

theorem length_canonArray (f : Nat → Nat → Nat) : (canonArray f).length = 0x80000 := by
  rw [canonArray, List.length_map, List.length_range]

theorem length_sumBytes (s : State) (x : Shadow) : (sumBytes s x).length = 0x4000 := by
  rw [sumBytes, List.length_flatMap]
  simp only [length_bytesLE]
  rw [List.map_const', List.sum_replicate, List.length_range]
  rfl

/-- The entry of a shadow changes the 16 bytes behind its probe-sum table. -/
theorem rdByte_putEntry_outside {x : Shadow} {b : Nat} (h : b < x.entry ∨ x.entry + 16 ≤ b) (s : State) :
    rdByte (putEntry x s) b = rdByte s b :=
  rdByte_wrBytes_outside (by simpa [length_bytesLE] using h) s

/-- The entry of the shadow of a tile-layer for codes that are put where its shadow stands. -/
def renewed (x : Shadow) (ctx : Nat) (fp4 : Bool) (rows cols digest : Nat) : Shadow :=
  { addr := x.addr, sums := x.sums, digest := digest >>> 320, ctx := ctx, fp4 := fp4, rows := rows, cols := cols }

theorem shadowOf_tins (tl : Nat) (x : Shadow) (s : State) : shadowOf { s with shadow := tins s.shadow tl x } tl = some x := by
  rw [shadowOf, find?_tins_same]
  rfl

/-- Codes that go to the shadow of a tile-layer which has one. -/
theorem putShadow_renewed {tl ctx rows cols digest : Nat} {fp4 : Bool} {codes : List Byte} {s : State} {x : Shadow}
    (shadow : shadowOf s tl = some x) (length : codes.length = 0x80000) :
    let t := putShadow tl ctx fp4 rows cols digest codes s
    Stores { s with shadow := tins s.shadow tl (renewed x ctx fp4 rows cols digest) } t ∧
      ∀ b, (b < x.addr ∨ x.addr + 0x80000 ≤ b) → (b < x.sums ∨ x.sums + 0x4010 ≤ b) → rdByte t b = rdByte s b := by
  obtain ⟨y, hy⟩ : ∃ y, y = renewed x ctx fp4 rows cols digest := ⟨_, rfl⟩
  obtain ⟨u, hu⟩ : ∃ u, u = wrBytes x.addr codes (setShadow tl y s) := ⟨_, rfl⟩
  have put : putShadow tl ctx fp4 rows cols digest codes s = wrBytes x.sums (sumBytes u y) u := by
    rw [hu, hy, putShadow, shadow]
    rfl
  intro t
  have ht : t = wrBytes x.sums (sumBytes u y) u := put
  have entry : y.entry = x.sums + 0x4000 := by rw [hy]; rfl
  rw [ht, ← hy]
  have entered : Stores { s with shadow := tins s.shadow tl y } (setShadow tl y s) := wrBytes_stores _ _ _
  have coded : Stores (setShadow tl y s) u := by rw [hu]; exact wrBytes_stores _ _ _
  refine ⟨(entered.trans coded).trans (wrBytes_stores _ _ _), fun b codes_ sums_ => ?_⟩
  · rw [rdByte_wrBytes_outside (by rw [length_sumBytes]; omega), hu, rdByte_wrBytes_outside (by rw [length]; omega), setShadow,
      rdByte_putEntry_outside (by rw [entry]; omega)]
    rfl

/-! ### A read-back that agrees (R224) -/

theorem keepTl_spec {tl : Nat} {o : ProgOp} {i : Image} {p : PlaceE} {codes : List Byte} {s : State} {l : Load} {x : Shadow}
    (load : loadOf s o.ctx = some l) (image : i = imgOf s l.im) (placed : tl ∈ imgTls i) (shadow : shadowOf s tl = some x)
    (length : codes.length = 0x80000) : let t := keepTl tl o i p codes s
    progOf t tl = some { o with st := 2, reads := [] } ∧
      (∃ y, shadowOf t tl = some y ∧ y.state = 0 ∧ y.addr = x.addr ∧ y.sums = x.sums) ∧
      (∃ m, loadOf t o.ctx = some m ∧ m.retained = l.retained + 1 ∧ tget 0 m.todo tl = 3) ∧
      (∀ b, (b < x.addr ∨ x.addr + 0x80000 ≤ b) → (b < x.sums ∨ x.sums + 0x4010 ≤ b) → rdByte t b = rdByte s b) ∧
      t.tiles = s.tiles ∧ t.cells = s.cells := by
  obtain ⟨u, hu⟩ : ∃ u, u = putShadow tl o.ctx (placeFp4 i p) (recOf i p).rows (recOf i p).cols (recOf i p).digest codes s :=
    ⟨_, rfl⟩
  obtain ⟨v, hv⟩ : ∃ v, v = clearProbes (· == tl / 4 * 8 + tl % 4) (setProg tl { o with st := 2, reads := [] } u) := ⟨_, rfl⟩
  obtain ⟨stores, bytes⟩ := putShadow_renewed (ctx := o.ctx) (fp4 := placeFp4 i p) (rows := (recOf i p).rows)
    (cols := (recOf i p).cols) (digest := (recOf i p).digest) shadow length
  rw [← hu] at stores bytes
  have rest := stores.rest
  have images (im : Nat) : imgOf v im = imgOf s im := by rw [hv]; exact stores.imgOf_eq im
  have load' : loadOf v o.ctx = some l := by
    rw [← load, hv]; exact (congrArg (fun w : State => loadOf w o.ctx) rest :)
  have three : tget 0 (tset 0 l.todo tl 3) tl ≠ 4 := by rw [tget_tset_same]; decide
  obtain ⟨frame, phase, marked⟩ := loadMark_unfinished (st := 3) (tl := tl) (f := fun l => { l with retained := l.retained + 1 }) load'
    rfl rfl ⟨tl, by rw [images, ← image]; exact placed, three⟩
  intro t
  have ht : t = loadMark o.ctx tl 3 (fun l => { l with retained := l.retained + 1 }) v := by rw [hv, hu]; rfl
  rw [← ht] at frame marked
  refine ⟨?_, ⟨renewed x o.ctx (placeFp4 i p) (recOf i p).rows (recOf i p).cols (recOf i p).digest, ?_, rfl, rfl, rfl⟩,
    ⟨_, marked, rfl, (tget_tset_same 0 l.todo tl 3 :)⟩, fun b codes_ sums_ => ?_, ?_, ?_⟩
  · have progs : progOf t tl = progOf v tl := (congrArg (fun w : State => progOf w tl) frame :)
    have set : progOf v tl = progOf (setProg tl { o with st := 2, reads := [] } u) tl := by rw [hv]; rfl
    rw [progs, set, progOf_setProg, if_pos rfl]
  · have kept : shadowOf t tl = shadowOf v tl := (congrArg (fun w : State => shadowOf w tl) frame :)
    have put : shadowOf v tl = shadowOf u tl := by rw [hv]; rfl
    rw [kept, put, ← shadowOf_tins]
    exact (congrArg (fun w : State => shadowOf w tl) rest :)
  · have mem : t.mem = v.mem := (congrArg State.mem frame :)
    rw [rdByte_congr mem, ← bytes b codes_ sums_, hv]
    rfl
  · have tiles : t.tiles = v.tiles := (congrArg State.tiles frame :)
    rw [tiles, hv]
    exact (congrArg State.tiles rest :)
  · have cells : t.cells = v.cells := (congrArg State.cells frame :)
    rw [cells, hv]
    exact (congrArg State.cells rest :)

theorem exec_readBackDone {s : State} {tile layer : Nat} {scale : ℚ} {o : ProgOp} {l : Load} {p : PlaceE}
    (op : progOf s (tlKey tile layer) = some o) (kind : o.kind = 2) (runs : o.st = 1) (all : o.reads.length = 1024)
    (positive : 0 < scale) (goes : opStopped s o = false) (load : loadOf s o.ctx = some l)
    (place : (imgOf s l.im).places.find? (fun p => tlKey p.tile p.layer == tlKey tile layer) = some p)
    (near : pairsNear (placeFp4 (imgOf s l.im) p) o scale = true)
    (agrees : canonDigest (placeFp4 (imgOf s l.im) p) (recOf (imgOf s l.im) p).rows (recOf (imgOf s l.im) p).cols
      (rebuiltCodes (placeFp4 (imgOf s l.im) p) o scale) = (recOf (imgOf s l.im) p).digest) :
    exec (.readBackDone tile layer scale) s = .next (keepTl (tlKey tile layer) o (imgOf s l.im) p
      (rebuiltCodes (placeFp4 (imgOf s l.im) p) o scale) s) := by
  show execReadBackDone tile layer scale s = _
  simp [execReadBackDone, op, kind, runs, all, Rat.not_le.mpr positive, goes, load, place, near, agrees, done]

/-! ### Values measured that take effect (R168, R171, R178, R180) -/

/-- From `s` to `t` there are registers written and events entered, and nothing else. -/
structure Notes (s t : State) : Prop where
  rest : outer t = outer s
  core : silCore t = silCore s

theorem Notes.trans {s t u : State} (h : Notes s t) (g : Notes t u) : Notes s u :=
  ⟨g.rest.trans h.rest, g.core.trans h.core⟩

theorem setEv_notes (r : Reg) (k i : Nat) (s : State) : Notes s (setEv r k i s) := ⟨rfl, rfl⟩

theorem calLog_notes (code sev tl : Nat) (data : List Nat) (s : State) : Notes s (calLog code sev tl data s) :=
  ⟨outer_logE _ _, silCore_logE _ _⟩

/-- A tile-layer whose refresh is due under a condition. -/
theorem refreshNow_when (c : Bool) (tl : Nat) (s : State) :
    let t := whenS c (refreshNow tl) s
    t = { s with tlayers := t.tlayers } ∧
      tlOf t (tl / 4) (tl % 4) = { tlOf s (tl / 4) (tl % 4) with due := (tlOf s (tl / 4) (tl % 4)).due || c } := by
  cases c
  · refine ⟨rfl, ?_⟩
    rw [Bool.or_false]
    rfl
  · exact ⟨rfl, by rw [Bool.or_true]; exact tlOf_modTl _ _ _ s⟩

/-- A clamped fit of a tile-layer that is being made VALID, or is VALID. -/
theorem calOor_spec {tl : Nat} {s : State} {o : ProgOp} (op : progOf s tl = some o) (closing : o.st = 2) :
    let t := calOor tl s
    Notes { s with tlayers := t.tlayers } t ∧
      tlOf t (tl / 4) (tl % 4) = { tlOf s (tl / 4) (tl % 4) with due := true } ∧ rb t .CAL_STAT 22 = true := by
  obtain ⟨v, hv⟩ : ∃ v, v = setEv .CAL_STAT 22 0 s := ⟨_, rfl⟩
  obtain ⟨u, hu⟩ : ∃ u, u = refreshNow tl v := ⟨_, rfl⟩
  have event : Notes s v := by rw [hv]; exact setEv_notes _ _ _ s
  have cond : (tlValid s (tl / 4) (tl % 4) || (progOf s tl).any fun o => o.st == 2) = true := by
    rw [op]
    simp [closing]
  have oor : calOor tl s = calLog 8 2 tl [] u := by
    rw [calOor, cond, hu, hv, whenS]
    exact congrArg (calLog 8 2 tl []) (if_pos rfl)
  have notes := calLog_notes 8 2 tl [] u
  intro t
  have ht : t = calLog 8 2 tl [] u := oor
  rw [ht]
  have layers : (calLog 8 2 tl [] u).tlayers = u.tlayers := (congrArg State.tlayers notes.rest :)
  have set : tlOf u (tl / 4) (tl % 4) = { tlOf s (tl / 4) (tl % 4) with due := true } := by
    have same : tlOf v (tl / 4) (tl % 4) = tlOf s (tl / 4) (tl % 4) :=
      (congrArg (fun x : State => tlOf x (tl / 4) (tl % 4)) event.rest :)
    rw [← same, hu]
    exact tlOf_modTl _ _ _ _
  have frame : u = { v with tlayers := u.tlayers } := by rw [hu]; rfl
  refine ⟨?_, ?_, ?_⟩
  · rw [layers]
    refine ⟨notes.rest.trans ?_, notes.core.trans ?_⟩
    · rw [frame]; exact (congrArg (fun x : State => { x with tlayers := u.tlayers }) event.rest :)
    · rw [frame]; exact event.core
  · rw [← set, tlOf, layers, tlOf]
  · have bit : rb u .CAL_STAT 22 = rb v .CAL_STAT 22 := rb_of_regs (by rw [hu]; rfl) _ _ _
    have logged : rb (calLog 8 2 tl [] u) .CAL_STAT 22 = rb u .CAL_STAT 22 := rb_logE _ _ _ _ _ (by decide)
    rw [logged, bit, hv]
    exact rb_setEv_same _ _ _ s (by decide)

/-- The values that a fit gives a tile-layer. -/
def fitted (s : State) (tl : Nat) (w : Word) (ramp : Bool) (x : TLayer) : TLayer :=
  { x with cal := foldS (fitTl s tl w).1 (fun e m => tset {} m e.1 e.2) x.cal,
           old := if ramp then presentCal x else [], rampN := if ramp then 0 else 256,
           rampT := if ramp && w.toNat.testBit 4 then 0 else 256, kappa := (fitTl s tl w).2.2, calAt := utcNow s }

/-- The median κ and the temperature are all that a far κ depends on. -/
theorem kappaFar_congr {s t : State} {tl : Nat} (kappa : (tlOf t (tl / 4) (tl % 4)).kappa = (tlOf s (tl / 4) (tl % 4)).kappa)
    (warm : t.bayT = s.bayT) : kappaFar t tl = kappaFar s tl := by
  unfold kappaFar bayTemp
  rw [kappa, warm]

/-- The values of a closing calibration take effect; a refresh is due where they show it. -/
theorem applyFit_spec {tl : Nat} {w : Word} {ramp : Bool} {s : State} {o : ProgOp} (op : progOf s tl = some o) (closing : o.st = 2) :
    let t := applyFit tl w ramp s
    Notes { s with poisonX := t.poisonX, tlayers := t.tlayers } t ∧
      tlOf t (tl / 4) (tl % 4) = { fitted s tl w ramp (tlOf s (tl / 4) (tl % 4)) with
        due := (tlOf s (tl / 4) (tl % 4)).due || kappaFar t tl || (fitTl s tl w).2.1 } ∧
      rb t .CAL_STAT 22 = (rb s .CAL_STAT 22 || (fitTl s tl w).2.1) := by
  obtain ⟨u, hu⟩ : ∃ u, u = modTl (tl / 4) (tl % 4) (fitted s tl w ramp)
    { s with poisonX := tdrop (fun k => k / 1024 == calWord tl 0 / 1024) s.poisonX } := ⟨_, rfl⟩
  obtain ⟨v, hv⟩ : ∃ v, v = whenS (kappaFar u tl) (refreshNow tl) u := ⟨_, rfl⟩
  have values : tlOf u (tl / 4) (tl % 4) = fitted s tl w ramp (tlOf s (tl / 4) (tl % 4)) := by rw [hu]; exact tlOf_modTl _ _ _ _
  obtain ⟨frame, layer⟩ := refreshNow_when (kappaFar u tl) tl u
  rw [← hv, values] at layer
  rw [← hv] at frame
  have frame' : v = { s with poisonX := v.poisonX, tlayers := v.tlayers } := by rw [frame, hu]; rfl
  have fit : applyFit tl w ramp s = whenS (fitTl s tl w).2.1 (calOor tl) v := by rw [hv, hu]; rfl
  intro t
  have ht : t = whenS (fitTl s tl w).2.1 (calOor tl) v := fit
  have far (h : t.bayT = u.bayT) (k : (tlOf t (tl / 4) (tl % 4)).kappa = (fitTl s tl w).2.2) : kappaFar u tl = kappaFar t tl :=
    (kappaFar_congr (by rw [k, values]; rfl) h).symm
  have warm : v.bayT = u.bayT := (congrArg State.bayT frame :)
  cases clamped : (fitTl s tl w).2.1 with
  | false =>
    rw [clamped] at ht
    have tv : t = v := ht
    refine ⟨?_, ?_, ?_⟩
    · rw [tv]; exact ⟨congrArg outer frame', congrArg silCore frame'⟩
    · rw [Bool.or_false, ← far (by rw [tv, warm]) (by rw [tv, layer]; rfl), tv]
      exact layer
    · rw [Bool.or_false, tv]
      exact rb_of_regs (congrArg State.regs frame' :) _ _ _
  | true =>
    rw [clamped] at ht
    have tv : t = calOor tl v := ht
    have op' : progOf v tl = some o := by rw [← op]; exact (congrArg (fun x : State => progOf x tl) frame' :)
    obtain ⟨notes, due, bit⟩ := calOor_spec op' closing
    rw [← tv] at notes due bit
    have poison : t.poisonX = v.poisonX := (congrArg State.poisonX notes.rest :)
    have warm' : t.bayT = v.bayT := (congrArg State.bayT notes.rest :)
    refine ⟨⟨notes.rest.trans ?_, notes.core.trans ?_⟩, ?_, ?_⟩
    · rw [poison]; exact (congrArg (fun x : State => outer { x with tlayers := t.tlayers }) frame' :)
    · exact (congrArg silCore frame' :)
    · rw [Bool.or_true, due, layer]
    · rw [Bool.or_true]; exact bit

/-! ### The end of a programming (R171, R183, R185) -/

theorem rd_setEv_of_ne {r q : Reg} (k i j : Nat) (s : State) (h : q ≠ r) : rd (setEv r k i s) q j = rd s q j :=
  rd_wr_of_ne _ s h

theorem rd_calOor {r : Reg} (hs : r ≠ .CAL_STAT) (hl : r ≠ .SIL_LOG_LOST) (tl i : Nat) (s : State) :
    rd (calOor tl s) r i = rd s r i := by
  have due (u : State) : rd (refreshNow tl u) r i = rd u r i := rd_congr rfl _ _
  rw [calOor, calLog, rd_logE _ _ _ _ hl, whenS_eq (fun x : State => rd x r i) (due _), rd_setEv_of_ne _ _ _ _ hs]

/-- A fit writes no register but CAL_STAT. -/
theorem rd_applyFit {r : Reg} (hs : r ≠ .CAL_STAT) (hl : r ≠ .SIL_LOG_LOST) (tl i : Nat) (w : Word) (ramp : Bool) (s : State) :
    rd (applyFit tl w ramp s) r i = rd s r i := by
  unfold applyFit
  dsimp only
  rw [whenS_eq (fun x : State => rd x r i) (rd_calOor hs hl _ _ _), whenS_eq (fun x : State => rd x r i) (rd_congr rfl _ _)]
  exact rd_congr rfl _ _

/-- What a programming that ends with a closing calibration under the word `cfg` leaves, from the state `s` before its fit (R171, R185). -/
structure Programmed (s t : State) (tl : Nat) (cfg : Word) (ramp : Bool) (digest : Nat) : Prop where
  gone : progOf t tl = none
  layer : tlOf t (tl / 4) (tl % 4) = { fitted s tl cfg ramp (tlOf s (tl / 4) (tl % 4)) with
    due := (tlOf s (tl / 4) (tl % 4)).due || kappaFar t tl || (fitTl s tl cfg).2.1 }
  oor : rb t .CAL_STAT 22 = (rb s .CAL_STAT 22 || (fitTl s tl cfg).2.1)
  lcfg : ∀ i, rd t .TILE_LCFG i = rd s .TILE_LCFG i
  wear : wearOf t tl = { wearOf s tl with state := if (wearOf s tl).state = 3 then 3 else 1, utc := utcNow s, digest := digest }
  tiles : ∀ u, tileOf t u = tileOf s u
  cells : t.cells = s.cells
  mem : t.mem = s.mem
  ctxs : t.ctxs = s.ctxs
  images : t.images = s.images

theorem closed_spec {s : State} {tl digest : Nat} {w : Word} {ramp : Bool} {o : ProgOp} (op : progOf s tl = some o)
    (closing : o.st = 2) (aside : (tileOf s (tl / 4)).aside = []) (held : (tileOf s (tl / 4)).held = []) :
    Programmed s (wearDone tl digest (endProg tl (applyFit tl w ramp s))) tl w ramp digest := by
  obtain ⟨a, ha⟩ : ∃ a, a = applyFit tl w ramp s := ⟨_, rfl⟩
  obtain ⟨notes, layer, oor⟩ := applyFit_spec (w := w) (ramp := ramp) op closing
  have lcfg (i : Nat) : rd (applyFit tl w ramp s) .TILE_LCFG i = rd s .TILE_LCFG i := rd_applyFit (by decide) (by decide) _ _ _ _ _
  rw [← ha] at notes layer oor
  rw [← ha]
  have tiles (u : Nat) : tileOf a u = tileOf s u := (congrArg (fun x : State => tileOf x u) notes.rest :)
  obtain ⟨b, hb⟩ : ∃ b, b = endProg tl a := ⟨_, rfl⟩
  obtain ⟨ended, tiles'⟩ := endProg_clear ((congrArg Tile.aside (tiles _)).trans aside) ((congrArg Tile.held (tiles _)).trans held)
  rw [← hb] at ended tiles'
  rw [← hb]
  have wear : wearOf b tl = wearOf s tl := by
    have : wearOf a tl = wearOf s tl := (congrArg (fun x : Sil => tget {} x.wear tl) notes.core :)
    rw [← this]; exact (congrArg (fun x : State => wearOf x tl) ended :)
  have utc : utcNow b = utcNow s := by
    have : utcNow a = utcNow s := (congrArg utcNow notes.rest :)
    rw [← this]; exact (congrArg utcNow ended :)
  have regs : b.regs = a.regs := (congrArg State.regs ended :)
  have far : kappaFar b tl = kappaFar a tl := (congrArg (fun x : State => kappaFar x tl) ended :)
  have same : tlOf b (tl / 4) (tl % 4) = tlOf a (tl / 4) (tl % 4) := (congrArg (fun x : State => tlOf x (tl / 4) (tl % 4)) ended :)
  exact {
    gone := by
      have : progOf b tl = none := by rw [ended]; exact progOf_tdel tl a
      exact this
    layer := by
      have far' : kappaFar (wearDone tl digest b) tl = kappaFar b tl := rfl
      have same' : tlOf (wearDone tl digest b) (tl / 4) (tl % 4) = tlOf b (tl / 4) (tl % 4) := rfl
      rw [far', same', same, far, layer]
    oor := (rb_of_regs regs _ _ _).trans oor
    lcfg := fun i => by
      have : rd b .TILE_LCFG i = rd a .TILE_LCFG i := rd_congr regs _ _
      rw [← lcfg i, ← ha, ← this]; rfl
    wear := by
      have : wearOf (wearDone tl digest b) tl =
        { wearOf b tl with state := if (wearOf b tl).state = 3 then 3 else 1, utc := utcNow b, digest := digest } :=
        tget_tset_same _ _ _ _
      rw [this, wear, utc]
    tiles := fun u => (tiles' u).trans (tiles u)
    cells := (congrArg State.cells ended :).trans (congrArg State.cells notes.rest :)
    mem := (congrArg State.mem ended :).trans (congrArg State.mem notes.rest :)
    ctxs := (congrArg State.ctxs ended :).trans (congrArg State.ctxs notes.rest :)
    images := (congrArg State.images ended :).trans (congrArg State.images notes.rest :) }

/-! ### The closing calibration of a refresh (R171, R183) -/

/-- The state without the samples that are armed. -/
def unarmed (s : State) : State := { s with samples := [] }

theorem unarmed_armCheck (tl : Nat) (f : Finding) (s : State) : unarmed (armCheck tl f s) = unarmed s := rfl

theorem findingsAfter_frame (step : Nat) (p : Nat → Bool) (s : State) : let t := findingsAfter step p s
    t = { s with samples := t.samples, findings := t.findings } := by
  obtain ⟨u, hu⟩ : ∃ u, u = foldS (s.findings.filter fun f => !f.chain && f.step == step && p f.unit)
    (fun f => armCheck f.unit f) s := ⟨_, rfl⟩
  have armed : unarmed u = unarmed s := by rw [hu]; exact foldS_eq unarmed (fun f s => unarmed_armCheck f.unit f s) _ _
  have frame : u = { s with samples := u.samples } :=
    calc u = { unarmed u with samples := u.samples } := rfl
      _ = { unarmed s with samples := u.samples } := by rw [armed]
      _ = { s with samples := u.samples } := rfl
  intro t
  have ht : t = { u with findings := t.findings } := by rw [hu]; rfl
  have samples : t.samples = u.samples := (congrArg State.samples ht :)
  rw [samples]
  exact ht.trans (congrArg (fun x : State => { x with findings := t.findings }) frame)

theorem exec_closingCalibrationDone {s : State} {tile layer : Nat} {o : ProgOp} (op : progOf s (tlKey tile layer) = some o)
    (closing : o.st = 2) (open_ : fenced s 0 tile = false)
    (readable : measurable s (tlKey tile layer) (cfgOf s (tlKey tile layer)) = true)
    (all : groupsDone s (tlKey tile layer) (cfgOf s (tlKey tile layer)) = true) :
    exec (.closingCalibrationDone tile layer) s = .next (closeTl (tlKey tile layer) o (cfgOf s (tlKey tile layer))
      (commitProbes (· == tile * 8 + layer) s)) := by
  show execClosingCalibrationDone tile layer s = _
  simp [execClosingCalibrationDone, op, closing, open_, readable, all, done]

theorem closeTl_refresh {tl : Nat} {o : ProgOp} {w : Word} {s : State} (kind : o.kind = 1) (op : progOf s tl = some o)
    (closing : o.st = 2) (aside : (tileOf s (tl / 4)).aside = []) (held : (tileOf s (tl / 4)).held = []) :
    let t := closeTl tl o w s
    progOf t tl = none ∧ (tlOf t (tl / 4) (tl % 4)).rampN = 0 ∧
      (tlOf t (tl / 4) (tl % 4)).rampT = (if w.toNat.testBit 4 then 0 else 256) ∧
      (tlOf t (tl / 4) (tl % 4)).old = presentCal (tlOf s (tl / 4) (tl % 4)) ∧
      (tlOf t (tl / 4) (tl % 4)).calAt = utcNow s ∧
      (kappaFar t tl = true → (tlOf t (tl / 4) (tl % 4)).due = true) ∧
      (rb s .CAL_STAT 22 = false → (tlOf t (tl / 4) (tl % 4)).due = (kappaFar t tl || rb t .CAL_STAT 22)) ∧
      (wearOf t tl).utc = utcNow s ∧ (wearOf t tl).count = (wearOf s tl).count ∧ (∀ u, tileOf t u = tileOf s u) ∧
      t.cells = s.cells ∧ SameMem s t := by
  obtain ⟨a, ha⟩ : ∃ a, a = programmedNow tl s := ⟨_, rfl⟩
  obtain ⟨d, hd⟩ : ∃ d, d = wearDone tl (wearOf s tl).digest (endProg tl (applyFit tl w true a)) := ⟨_, rfl⟩
  obtain ⟨e, he⟩ : ∃ e, e = calLog 10 0 tl [] d := ⟨_, rfl⟩
  have fresh : a = { s with tlayers := a.tlayers } := by rw [ha]; rfl
  have layer : tlOf a (tl / 4) (tl % 4) = { tlOf s (tl / 4) (tl % 4) with due := false } := by rw [ha]; exact tlOf_modTl _ _ _ s
  have tiles (u : Nat) : tileOf a u = tileOf s u := (congrArg (fun x : State => tileOf x u) fresh :)
  have p : Programmed a d tl w true (wearOf s tl).digest := by
    rw [hd]
    refine closed_spec (by rw [← op]; exact (congrArg (fun x : State => progOf x tl) fresh :)) closing ?_ ?_
    · rw [tiles, aside]
    · rw [tiles, held]
  have notes : Notes d e := by rw [he]; exact calLog_notes _ _ _ _ _
  intro t
  have ht : t = findingsAfter 2 (· == tl) e := by
    rw [he, hd, ha]
    exact if_pos kind
  have frame := findingsAfter_frame 2 (· == tl) e
  rw [← ht] at frame
  have same : tlOf t (tl / 4) (tl % 4) = tlOf d (tl / 4) (tl % 4) :=
    Eq.trans (congrArg (fun x : State => tlOf x (tl / 4) (tl % 4)) frame :)
      (congrArg (fun x : State => tlOf x (tl / 4) (tl % 4)) notes.rest :)
  have far : kappaFar t tl = kappaFar d tl :=
    Eq.trans (congrArg (fun x : State => kappaFar x tl) frame :) (congrArg (fun x : State => kappaFar x tl) notes.rest :)
  have bit : rb t .CAL_STAT 22 = rb d .CAL_STAT 22 := by
    refine (rb_of_regs (congrArg State.regs frame :) _ _ _).trans ?_
    rw [he]; exact rb_logE _ _ _ _ _ (by decide)
  have wear : wearOf t tl = wearOf d tl :=
    Eq.trans (congrArg (fun x : State => wearOf x tl) frame :) (congrArg (fun x : Sil => tget {} x.wear tl) notes.core :)
  have utc : utcNow a = utcNow s := (congrArg utcNow fresh :)
  have oor : rb a .CAL_STAT 22 = rb s .CAL_STAT 22 := rb_of_regs (congrArg State.regs fresh :) _ _ _
  have due : (tlOf t (tl / 4) (tl % 4)).due = (kappaFar t tl || (fitTl a tl w).2.1) := by
    rw [same, p.layer, far, layer]; rfl
  have worn : wearOf a tl = wearOf s tl := (congrArg (fun x : State => wearOf x tl) fresh :)
  refine ⟨?_, ?_, ?_, ?_, ?_, fun h => ?_, fun h => ?_, ?_, ?_, fun u => ?_, ?_, sameMem_of_mem ?_⟩
  · rw [← p.gone]
    exact Eq.trans (congrArg (fun x : State => progOf x tl) frame :) (congrArg (fun x : State => progOf x tl) notes.rest :)
  · rw [same, p.layer]; rfl
  · rw [same, p.layer]
    show (if true && w.toNat.testBit 4 then 0 else 256) = _
    rw [Bool.true_and]
  · rw [same, p.layer]
    show presentCal (tlOf a (tl / 4) (tl % 4)) = _
    rw [layer]
    rfl
  · rw [same, p.layer, ← utc]; rfl
  · rw [due, h, Bool.true_or]
  · rw [due, bit, p.oor, oor, h, Bool.false_or]
  · rw [wear, p.wear, ← utc]
  · rw [wear, p.wear, ← worn]
  · rw [← tiles u, ← p.tiles u]
    exact Eq.trans (congrArg (fun x : State => tileOf x u) frame :) (congrArg (fun x : State => tileOf x u) notes.rest :)
  · have cells : t.cells = d.cells := Eq.trans (congrArg State.cells frame :) (congrArg State.cells notes.rest :)
    rw [cells, p.cells, fresh]
  · have mem : t.mem = d.mem := Eq.trans (congrArg State.mem frame :) (congrArg State.mem notes.rest :)
    rw [mem, p.mem, fresh]

/-! ### The closing calibration of a load (R116, R171) -/

theorem journalBy_notes (x : LogEntry) (off old new mask : Nat) (enter : Bool) (s : State) :
    Notes s (journalBy x off old new mask enter s) := by
  unfold journalBy
  dsimp only
  split
  · split
    · exact ⟨rfl, rfl⟩
    · exact ⟨whenS_eq outer (outer_logE _ _), whenS_eq silCore (silCore_logE _ _)⟩
  · exact ⟨whenS_eq outer (outer_logE _ _), whenS_eq silCore (silCore_logE _ _)⟩

theorem rd_journalBy {r : Reg} (h : r ≠ .SIL_LOG_LOST) (x : LogEntry) (off old new mask : Nat) (enter : Bool) (i : Nat) (s : State) :
    rd (journalBy x off old new mask enter s) r i = rd s r i := by
  unfold journalBy
  dsimp only
  split
  · split
    · exact rd_congr rfl _ _
    · exact whenS_eq (fun u : State => rd u r i) (rd_logE _ _ _ _ h)
  · exact whenS_eq (fun u : State => rd u r i) (rd_logE _ _ _ _ h)

theorem wr_notes (r : Reg) (i : Nat) (w : Word) (s : State) : Notes s (wr r i w s) := ⟨rfl, rfl⟩

theorem loaderLcfg_notes (tl : Nat) (w : Word) (h : Option Nat) (s : State) : Notes s (loaderLcfg tl w h s) :=
  (wr_notes .TILE_LCFG tl w s).trans (journalBy_notes _ _ _ _ _ _ _)

theorem rd_loaderLcfg (tl : Nat) (w : Word) (h : Option Nat) (s : State) : rd (loaderLcfg tl w h s) .TILE_LCFG tl = w := by
  rw [loaderLcfg, rd_journalBy (by decide), rd_wr_same]

/-- The word of a placement: VALID, and the range of its placement (R116). -/
theorem cfgWord_fields (i : Image) (p : PlaceE) : (cfgWord i p).toNat.testBit 0 = true ∧ fld (cfgWord i p) 10 8 = p.range % 8 := by
  unfold cfgWord
  dsimp only
  generalize hw : b2n (sliceOf i p.slice).wFmt = a
  generalize hd : b2n (sliceOf i p.slice).dFmt = b
  generalize ht : b2n ((i.slices.find? fun y => y.kind == 1 && y.pair == p.slice).getD {}).dFmt = c
  generalize he : b2n p.ten = d
  have ha : a ≤ 1 := hw ▸ b2n_le_one _
  have hb : b ≤ 1 := hd ▸ b2n_le_one _
  have hc : c ≤ 1 := ht ▸ b2n_le_one _
  have hd : d ≤ 1 := he ▸ b2n_le_one _
  refine ⟨?_, ?_⟩
  · rw [BitVec.toNat_ofNat, Nat.testBit_zero]
    exact decide_eq_true (by omega)
  · rw [fld, bitsOf, BitVec.toNat_ofNat, Nat.shiftRight_eq_div_pow]
    omega

theorem closeTl_load {tl : Nat} {o : ProgOp} {w : Word} {s : State} {l : Load} {p : PlaceE} (kind : o.kind = 0)
    (op : progOf s tl = some o) (closing : o.st = 2) (aside : (tileOf s (tl / 4)).aside = [])
    (held : (tileOf s (tl / 4)).held = []) (load : loadOf s o.ctx = some l)
    (place : (imgOf s l.im).places.find? (fun p => tlKey p.tile p.layer == tl) = some p)
    (left : ∃ k ∈ imgTls (imgOf s l.im), k ≠ tl ∧ tget 0 l.todo k ≠ 4) :
    let t := closeTl tl o w s
    progOf t tl = none ∧ rd t .TILE_LCFG tl = cfgWord (imgOf s l.im) p ∧ (tlOf t (tl / 4) (tl % 4)).rampN = 256 ∧
      (tlOf t (tl / 4) (tl % 4)).calAt = utcNow s ∧ (wearOf t tl).utc = utcNow s ∧
      (wearOf t tl).digest = (recOf (imgOf s l.im) p).digest ∧
      (∃ m, loadOf t o.ctx = some m ∧ m.programmed = l.programmed + 1 ∧ tget 0 m.todo tl = 4) ∧
      (∀ u, tileOf t u = tileOf s u) ∧ t.cells = s.cells ∧ SameMem s t := by
  obtain ⟨a, ha⟩ : ∃ a, a = programmedNow tl s := ⟨_, rfl⟩
  obtain ⟨b, hb⟩ : ∃ b, b = setValid (imgOf s l.im) p l.h a := ⟨_, rfl⟩
  obtain ⟨d, hd⟩ : ∃ d, d = wearDone tl (recOf (imgOf s l.im) p).digest (endProg tl (applyFit tl w false b)) := ⟨_, rfl⟩
  have here : tlKey p.tile p.layer = tl := by simpa using List.find?_some place
  have fresh : a = { s with tlayers := a.tlayers } := by rw [ha]; rfl
  have notes : Notes a b := by rw [hb]; exact loaderLcfg_notes _ _ _ _
  have cfg : rd b .TILE_LCFG tl = cfgWord (imgOf s l.im) p := by rw [hb, setValid, here]; exact rd_loaderLcfg _ _ _ _
  have tiles (u : Nat) : tileOf b u = tileOf s u :=
    Eq.trans (congrArg (fun x : State => tileOf x u) notes.rest :) (congrArg (fun x : State => tileOf x u) fresh :)
  have utc : utcNow b = utcNow s := Eq.trans (congrArg utcNow notes.rest :) (congrArg utcNow fresh :)
  have q : Programmed b d tl w false (recOf (imgOf s l.im) p).digest := by
    rw [hd]
    refine closed_spec ?_ closing ?_ ?_
    · rw [← op]
      exact Eq.trans (congrArg (fun x : State => progOf x tl) notes.rest :) (congrArg (fun x : State => progOf x tl) fresh :)
    · rw [tiles, aside]
    · rw [tiles, held]
  have ctxs : d.ctxs = s.ctxs := q.ctxs.trans (Eq.trans (congrArg State.ctxs notes.rest :) (congrArg State.ctxs fresh :))
  have images : d.images = s.images :=
    q.images.trans (Eq.trans (congrArg State.images notes.rest :) (congrArg State.images fresh :))
  have load' : loadOf d o.ctx = some l := by rw [← load, loadOf, loadOf, cxOf, cxOf, ctxs]
  have image : imgOf d l.im = imgOf s l.im := by rw [imgOf, imgOf, images]
  obtain ⟨k, mem, other, todo⟩ := left
  obtain ⟨frame, phase, marked⟩ := loadMark_unfinished (k := o.ctx) (tl := tl) (st := 4)
    (f := fun l => { l with programmed := l.programmed + 1 }) load' rfl rfl
    ⟨k, by rw [image]; exact mem, by rw [tget_tset_ne _ _ _ other]; exact todo⟩
  intro t
  have ht : t = loadMark o.ctx tl 4 (fun l => { l with programmed := l.programmed + 1 }) d := by
    show closeTl tl o w s = _
    rw [closeTl, load, hd, hb, ha]
    simp only [kind, place, whenS, Nat.zero_ne_one, (by decide : ¬ (0 : Nat) = 3), BEq.rfl, if_true, if_false]
  rw [← ht] at frame marked
  have same : tlOf t (tl / 4) (tl % 4) = tlOf d (tl / 4) (tl % 4) := (congrArg (fun x : State => tlOf x (tl / 4) (tl % 4)) frame :)
  have wear : wearOf t tl = wearOf d tl := (congrArg (fun x : State => wearOf x tl) frame :)
  refine ⟨?_, ?_, ?_, ?_, ?_, ?_, ⟨_, marked, rfl, (tget_tset_same 0 l.todo tl 4 :)⟩, fun u => ?_, ?_, sameMem_of_mem ?_⟩
  · rw [← q.gone]
    exact (congrArg (fun x : State => progOf x tl) frame :)
  · rw [← cfg, ← q.lcfg tl]
    exact rd_congr (congrArg State.regs frame :) _ _
  · rw [same, q.layer]; rfl
  · rw [same, q.layer, ← utc]; rfl
  · rw [wear, q.wear, ← utc]
  · rw [wear, q.wear]
  · rw [← tiles u, ← q.tiles u]
    exact (congrArg (fun x : State => tileOf x u) frame :)
  · have cells : t.cells = d.cells := (congrArg State.cells frame :)
    rw [cells, q.cells]
    exact Eq.trans (congrArg State.cells notes.rest :) (congrArg State.cells fresh :)
  · have mem : t.mem = d.mem := (congrArg State.mem frame :)
    rw [mem, q.mem]
    exact Eq.trans (congrArg State.mem notes.rest :) (congrArg State.mem fresh :)

/-! ### The events of a programming, clause by clause -/

theorem ends_programRowStep_write {s : State} {tile layer vprog : Nat} {gs : List ℚ} {o : ProgOp} {x : Shadow} (hl : layer < 4)
    (op : progOf s (tlKey tile layer) = some o) (runs : o.st = 1) (all : gs.length = 2048) (goes : opStopped s o = false)
    (ready : rowStartable s tile layer = true) (lacks : (tileOf s tile).token = false) (behind : (tileOf s tile).held = [])
    (free : tokenFor s tile = true) (kind : o.kind ≠ 2) (low : 2375 ≤ vprog) (high : vprog ≤ 2625)
    (shadow : shadowOf s o.src = some x) (clean : anyPoison s (x.addr + o.row * 512) 512 = false)
    (valid : o.kind = 0 ∨ x.state = 0) (first : o.failing = []) : Ends (.programRowStep tile layer vprog gs) s fun t =>
      t = { s with cells := t.cells, tiles := t.tiles, pools := t.pools } ∧
      (tileOf t tile = rowStarted layer o (tileOf s tile) ∧ (∀ u, u ≠ tile → tileOf t u = tileOf s u) ∧
        (poolOf t (tile / 1536)).inUse = (poolOf s (tile / 1536)).inUse + 1) ∧
      t.cells = (putRow (tlKey tile layer) o.row x gs s).cells := by
  refine ⟨_, exec_programRowStep op runs all goes ready, ?_⟩
  rw [if_neg kind, programRow_admissible low high shadow clean valid, first]
  exact startRow_putRow hl lacks behind free

theorem ends_programRowStep_silent {s : State} {tile layer vprog : Nat} {gs : List ℚ} {o : ProgOp} (hl : layer < 4)
    (op : progOf s (tlKey tile layer) = some o) (runs : o.st = 1) (all : gs.length = 2048) (goes : opStopped s o = false)
    (ready : rowStartable s tile layer = true) (lacks : (tileOf s tile).token = false) (behind : (tileOf s tile).held = [])
    (free : tokenFor s tile = true)
    (silent : o.kind = 2 ∨ o.kind ≠ 2 ∧ programRow (tlKey tile layer) vprog o gs s = startRow (tlKey tile layer) o id s) :
    Ends (.programRowStep tile layer vprog gs) s fun t => t = { s with tiles := t.tiles, pools := t.pools } ∧
      tileOf t tile = rowStarted layer o (tileOf s tile) ∧ (∀ u, u ≠ tile → tileOf t u = tileOf s u) ∧
        (poolOf t (tile / 1536)).inUse = (poolOf s (tile / 1536)).inUse + 1 := by
  refine ⟨_, exec_programRowStep op runs all goes ready, ?_⟩
  have started : (if o.kind = 2 then startRow (tlKey tile layer) o id s else programRow (tlKey tile layer) vprog o gs s) =
      startRow (tlKey tile layer) o id s := by
    rcases silent with kind | ⟨kind, same⟩
    · exact if_pos kind
    · rw [if_neg kind, same]
  rw [started]
  exact startRow_id hl lacks behind free

/-- The cells outside a window, by the counts of the row's conductances. -/
theorem opOutside_eq (s : State) (tl : Nat) (o : ProgOp) (gs : List ℚ) (w : ℚ) : opOutside s tl o gs w =
    (List.range 2048).filter fun c => decide (w < |gs.getD c 0 - 2 -
      targetOf s (tl / 1024) ((shadowOf s o.src).getD {}).fp4 (tget 0 s.cells (tl * 2 ^ 21 + o.row * 2 ^ 11 + c))|) := by
  unfold opOutside rowOutside
  generalize List.range 2048 = cs
  rfl

/-- Settles O13: each clause from what its step does to the tile, the cells, the load and the tile-layer. -/
theorem programmingEvents : Obligations.ProgrammingEvents := by
  refine ⟨?_, ?_, ?_, ?_, ?_⟩
  · intro tile layer o s hl op waiting first alone room conc page refs open_ up on goes
    exact ends_programOperationStart hl op waiting first alone room conc page refs open_ up on goes
  · intro tile layer vprog gs o s hl op runs all goes ready lacks behind free base takes
    refine ⟨fun x kind low high shadow clean valid => ⟨fun first => ?_, fun again => ?_⟩, fun kind => ?_, fun out kind aside => ?_⟩
    · obtain ⟨t, ht, frame, started, cells⟩ :=
        ends_programRowStep_write hl op runs all goes ready lacks behind free kind low high shadow clean valid first
      obtain ⟨levels, others⟩ := putRow_cells (tlKey tile layer) o.row x gs s
      refine ⟨t, ht, frame, started, ?_, ?_⟩
      · rw [cells]; exact levels
      · rw [cells]; exact others
    · have notFirst : o.failing.isEmpty = false := by simpa using again
      refine ends_programRowStep_silent hl op runs all goes ready lacks behind free (.inr ⟨kind, ?_⟩)
      rw [programRow_admissible low high shadow clean valid, notFirst]
      rfl
    · exact ends_programRowStep_silent hl op runs all goes ready lacks behind free (.inl kind)
    · refine ⟨_, exec_programRowStep op runs all goes ready, ?_⟩
      rw [if_neg (by omega), programRow_outside out]
      obtain ⟨cells, mem, bit, gone, due, -, -⟩ := haltProg_event (tl := tlKey tile layer) (k := 17) (code := 4) (data := [vprog])
        (by decide) kind (by rw [tlKey_tile hl]; exact behind) (by rw [tlKey_tile hl]; exact aside)
      rw [tlKey_tile hl, tlKey_layer hl] at due
      exact ⟨cells, mem, bit, gone, due⟩
  · intro tile layer gs o r s hl op runs on goes all running kind same own free first token open_ up tl fp4 out freed asks
    have outside : out = opOutside s (tlKey tile layer) o gs := funext fun w => (opOutside_eq _ _ _ _ w).symm
    clear_value out
    subst outside
    have stepEnd := exec_programRowStepEnd op runs on goes all running kind same own token
    have asked (o' : ProgOp) := askRowStep_rowFreed (o := o') hl free first open_ up
    refine ⟨fun write fresh bad => ⟨_, stepEnd, ?_⟩, fun write noRepeat good => ⟨fun more => ⟨_, stepEnd, ?_⟩,
      fun last close => ⟨_, stepEnd, ?_⟩⟩, fun refresh repeated bad aside => ⟨_, stepEnd, ?_⟩, fun read more => ⟨_, stepEnd, ?_⟩⟩
    · rw [rowEnded_repeat write fresh bad]
      exact asked _
    · rw [rowEnded_next write noRepeat good more]
      exact asked { o with row := o.row + 1, failing := [] }
    · rw [rowEnded_close close noRepeat good last]
      exact close_rowFreed _
    · rw [rowEnded_fail (by omega) repeated bad]
      have idle : tileOf (rowFreed tile s) tile = idleTile (tileOf s tile) := by rw [tileOf_rowFreed, if_pos rfl]
      obtain ⟨gone, bit, fails, due, pools, cells, mem⟩ := progFail_refresh (s := rowFreed tile s) (tl := tlKey tile layer) refresh
        (by rw [tlKey_tile hl, idle]; exact first) (by rw [tlKey_tile hl, idle]; exact aside)
      rw [tlKey_tile hl, tlKey_layer hl] at due
      have freed' : (poolOf (progFail (tlKey tile layer) o (rowFreed tile s)) (tile / 1536)).inUse =
          (poolOf s (tile / 1536)).inUse - 1 := by
        rw [poolOf, pools]; exact inUse_rowFreed tile s
      exact ⟨gone, bit, fails, due, freed', cells, mem⟩
    · rw [rowEnded_readBack read, nextRow_eq (by exact more)]
      exact asked { o with row := o.row + 1, failing := [], reads := gs :: o.reads }
  · intro tile layer scale o l p x s tl i codes op kind runs all positive goes load place shadow near agrees
    have placed : tl ∈ imgTls i :=
      List.mem_map.mpr ⟨p, List.mem_of_find?_eq_some place, by simpa using List.find?_some place⟩
    exact ⟨_, exec_readBackDone op kind runs all positive goes load place near agrees,
      keepTl_spec load rfl placed shadow (length_canonArray _)⟩
  · intro tile layer o s _ hl op closing open_ aside held w readable all
    obtain ⟨ps, hu⟩ : ∃ ps, commitProbes (· == tile * 8 + layer) s = { s with probes := ps } := ⟨_, rfl⟩
    have step := exec_closingCalibrationDone op closing open_ readable all
    rw [hu] at step
    have aside' : (tileOf s (tlKey tile layer / 4)).aside = [] := by rw [tlKey_tile hl]; exact aside
    have held' : (tileOf s (tlKey tile layer / 4)).held = [] := by rw [tlKey_tile hl]; exact held
    refine ⟨fun kind => ⟨_, step, ?_⟩, fun l p kind load place left => ⟨_, step, ?_⟩⟩
    · have spec := closeTl_refresh (s := { s with probes := ps }) (w := w) kind op closing aside' held'
      simp only [tlKey_tile hl, tlKey_layer hl] at spec
      exact spec
    · obtain ⟨gone, cfg, spec⟩ := closeTl_load (s := { s with probes := ps }) (w := w) kind op closing aside' held' load place left
      simp only [tlKey_tile hl, tlKey_layer hl] at spec
      obtain ⟨rampN, spec⟩ := spec
      obtain ⟨valid, range⟩ := cfgWord_fields (imgOf s l.im) p
      refine ⟨gone, ?_, ?_, rampN, spec⟩
      · rw [← valid]; exact congrArg (fun v : Word => v.toNat.testBit 0) cfg
      · rw [← range]; exact congrArg (fun v : Word => fld v 10 8) cfg

end Sys2Proof.Machine

namespace Sys2Proof.Machine
open Sys2Proof

/-! ### A thermal fence is not released into a reset while a drain runs -/

/-- Bay 0 under the one reason THERMAL, its drain window expired, with a drain that still runs, at a time when no rate has reached
CONE_A for long (R476, R583). -/
def expiredWhileDraining : State :=
  { State.reset with now := 10 ^ 12, units := [(ukey 8 0, { reasons := 16, draining := true, expired := true })] }

/-- The bay after its thermal reason has gone: the drain keeps it fenced, and no reset begins (R478). -/
theorem bay_afterRelease : unitOf (outState expiredWhileDraining (exec (.thermalReleaseExpiry 0) expiredWhileDraining)) 8 0 =
    { reasons := 0, draining := true, expired := true } := by decide +kernel

/-- Refutes O24: its clause about a bay whose drain window had expired and which has no other reason holds for every state, but a
drain that still runs keeps such a bay fenced, so it is not reset.  In `expiredWhileDraining` the reason goes and no reset begins. -/
theorem not_thermalEvents : ¬ Obligations.ThermalEvents := by
  rintro ⟨-, release, -⟩
  obtain ⟨t, ht, -, -, -, reset, -⟩ := release 0 expiredWhileDraining (by decide) (by decide +kernel) (by decide +kernel)
  obtain ⟨reasons, -⟩ := reset (by decide +kernel) (by decide +kernel)
  have bay := bay_afterRelease
  rw [ht] at bay
  have left : (unitOf t 8 0).reasons = 0 := congrArg FUnit.reasons bay
  rw [reasons] at left
  exact absurd left (by decide)

end Sys2Proof.Machine

namespace Sys2Proof.Machine
open Sys2Proof

/-! ### What the end of a command leaves besides (R227, R327, R350, R361) -/

/-- The state without what references on frames concern: descriptors, pins, and the units that wait for their pins (R326, R327). -/
def unheld (s : State) : State := { s with descs := [], pins := [], releasing := [] }

theorem unheld_releaseUnit (a : Nat) (s : State) : unheld (releaseUnit a s) = unheld s := by
  unfold releaseUnit
  split <;> rfl

theorem unheld_derefDesc (d : Nat) (s : State) : unheld (derefDesc d s) = unheld s := by
  unfold derefDesc
  dsimp only
  split
  · exact (unheld_releaseUnit _ _).trans rfl
  · rfl

theorem unheld_dropPages (ps : Tab PEnt) (s : State) : unheld (dropPages ps s) = unheld s :=
  foldS_eq unheld (f := fun e : Nat × PEnt => derefDesc e.2.desc) (fun e u => unheld_derefDesc e.2.desc u) ps s

theorem unheld_takePages (ps : Tab PEnt) (s : State) : unheld (takePages ps s) = unheld s :=
  foldS_eq unheld (f := fun e : Nat × PEnt => refDesc e.2.desc) (fun _ _ => rfl) ps s

theorem unheld_spillCheck (kv : KvLayout) (s : State) : unheld (spillCheck kv s) = unheld s := by
  refine foldS_eq unheld (fun p u => ?_) _ s
  unfold spillPool
  dsimp only
  split
  · rfl
  · refine foldS_eq unheld (fun d w => ?_) _ u
    split <;> rfl

/-- The state without queues, commands and their slots, sequences and contexts. -/
def unserved (s : State) : State :=
  { s with queues := [], cmds := [], slotFree := [], slotGen := [], dbg := {}, seqs := [], ctxs := [] }

/-- The state without what the end of a command concerns: its record and what is reported with it, its slot, and the sequences of
retired images, with the references that they held. -/
def unended (s : State) : State := unserved (outer (unheld s))

theorem unended_of_outer {s t : State} (h : outer t = outer s) : unended t = unended s :=
  congrArg (fun u : State => unserved (unheld u)) h

theorem unended_of_unheld {s t : State} (h : unheld t = unheld s) : unended t = unended s :=
  congrArg (fun u : State => unserved (outer u)) h

theorem unended_modSeq (i : Nat) (f : Seq → Seq) (s : State) : unended (modSeq i f s) = unended s := rfl

theorem unended_modQueue (k : Nat) (f : QueueS → QueueS) (s : State) : unended (modQueue k f s) = unended s := rfl

theorem unended_emit (m : Msg) (s : State) : unended (emit m s) = unended s := rfl

theorem unended_freeSlot (h : Nat) (s : State) : unended (freeSlot h s) = unended s := rfl

theorem unended_freeRoom (p : Nat → Bool) (s : State) : unended (freeRoom p s) = unended s := rfl

theorem unended_putRecord (k kind handle cid status info tag value : Nat) (s : State) :
    unended (putRecord k kind handle cid status info tag value s) = unended s := by
  unfold putRecord
  dsimp only
  split
  · rfl
  · split
    · rw [queueError, srvLog, unended_of_outer (outer_logE _ _), unended_modQueue, unended_of_outer (outer_wrf _ _ _ _ _ _),
        unended_of_outer (outer_setEv _ _ _ _), unended_modQueue, unended_modQueue]
    · rw [unended_emit, unended_modQueue, unended_modQueue]

theorem unended_dropSlips (i : Nat) (p : Nat → Bool) (s : State) : unended (dropSlips i p s) = unended s :=
  (foldS_eq unended (fun (e : Nat × Nat) u => unended_of_unheld (unheld_releaseUnit (e.2 - 1) u)) _ _).trans (unended_modSeq i _ s)

theorem unended_freeSeqIdx (i : Nat) (s : State) : unended (freeSeqIdx i s) = unended s := by
  rw [freeSeqIdx, unended_modSeq, dropSeqData]
  exact (unended_dropSlips _ _ _).trans ((unended_of_unheld (unheld_dropPages _ _)).trans (unended_modSeq _ _ s))

theorem unended_freeRetired (s : State) : unended (freeRetired s) = unended s := by
  unfold freeRetired
  dsimp only
  refine foldS_eq unended (fun i u => ?_) _ s
  rw [freeSeqAll, unended_freeSeqIdx, foldS_eq unended unended_freeSeqIdx]
  rfl

theorem unended_completeOne (h status info value : Nat) (s : State) : unended (completeOne h status info value s) = unended s := by
  have drain (k : Nat) (u : State) : unended (drained k u) = unended u := by
    unfold drained
    split <;> rfl
  unfold completeOne
  split
  · rfl
  · dsimp only
    rw [drain, unended_freeRetired, whenS_eq unended (unended_freeRoom _ _), unended_freeSlot,
      whenS_eq unended (unended_of_outer (outer_signal _ _ _)), unended_putRecord]

theorem unended_complete (h status info value : Nat) (s : State) : unended (complete h status info value s) = unended s := by
  have settle (n : Nat) (u : State) : unended (settleCancels n u) = unended u := by
    induction n generalizing u with
    | zero => rfl
    | succ n ih =>
      rw [settleCancels]
      split
      · exact (ih _).trans (unended_completeOne _ _ _ _ u)
      · rfl
  rw [complete, settle, unended_completeOne]

theorem cmdOf_setCmd_ne {h k : Nat} (hk : k ≠ h) (c : Cmd) (s : State) : cmdOf (setCmd h c s) k = cmdOf s k := by
  rw [cmdOf, setCmd, find?_tins_ne _ _ hk, cmdOf]

theorem genOf_tins_same (h : Nat) (g : Gen) (s : State) : genOf { s with gens := tins s.gens h g } h = some g := by
  rw [genOf, find?_tins_same]
  rfl

theorem genOf_tins_ne {h j : Nat} (hj : j ≠ h) (g : Gen) (s : State) :
    genOf { s with gens := tins s.gens h g } j = genOf s j := by
  rw [genOf, find?_tins_ne _ _ hj, genOf]

theorem seqOf_modSeq_ne {i j : Nat} (hj : j ≠ i) (f : Seq → Seq) (s : State) : seqOf (modSeq i f s) j = seqOf s j :=
  tget_tmod_ne _ _ _ hj

end Sys2Proof.Machine

namespace Sys2Proof.Machine
open Sys2Proof

/-! ### RESTORE asks for its records (R225, R296) -/

/-- What a RESTORE has to bring back: tile-layers whose shadow is BAD or LOST, and tables that were lost. -/
def restoreItems (s : State) (k : Nat) : List Nat :=
  ((badTls s k).map (·.1)).dedup ++ ((lostTables s k).map fun e => tableItem e.1 e.2.1).dedup

theorem restoreItems_eq_nil {s : State} {k : Nat} : restoreItems s k = [] ↔ badTls s k = [] ∧ lostTables s k = [] := by
  simp [restoreItems]

/-- A RESTORE with nothing outstanding completes. -/
theorem restoreEnd_done {h : Nat} {c : Cmd} {s : State} (hc : cmdOf s h = some c) (nothing : c.words = []) :
    restoreEnd h s = complete h 0 c.info (badCount s c.ctx) s := by
  simp [restoreEnd, hc, nothing]

/-- A RESTORE with records outstanding waits for them. -/
theorem restoreEnd_waits {h : Nat} {c : Cmd} {s : State} (hc : cmdOf s h = some c) (outstanding : c.words ≠ []) :
    restoreEnd h s = s := by
  simp [restoreEnd, hc, outstanding]

/-- The records of the tile-layers that a RESTORE lists are asked for. -/
def askTls (h : Nat) (c : Cmd) (es : List (Nat × Image × PlaceE)) (s : State) : State :=
  foldS es (fun e => askRecord h c e.2.1 e.2.2.record) s

/-- The records of the tables that a RESTORE lists are asked for. -/
def askTables (h : Nat) (c : Cmd) (ts : List (Nat × Nat × Nat)) (s : State) : State :=
  foldS ts (fun e s => askRecord h c (imgOf s e.1) e.2.1 s) s

/-- The request of a RESTORE from host memory for a record. -/
def recordRead (c : Cmd) (r : WareRec) : Msg := .hostRead c.fn (c.u 0x10 8 + r.off) (payloadLen r)

section
variable {h : Nat} {c : Cmd} (host : c.u 0x20 1 = 0)
include host

theorem askRecord_host (i : Image) (rec : Nat) (s : State) :
    askRecord h c i rec s = emit (recordRead c (i.ware.getD rec {})) s := by
  rw [askRecord, host]
  rfl

theorem askRecord_reports (i : Image) (rec : Nat) (s : State) : Reports s (askRecord h c i rec s) :=
  askRecord_host host i rec s ▸ emit_reports _ s

theorem askTls_reports (es : List (Nat × Image × PlaceE)) (s : State) : Reports s (askTls h c es s) :=
  .foldS _ (fun e _ u => askRecord_reports host e.2.1 e.2.2.record u) s

theorem askTables_reports (ts : List (Nat × Nat × Nat)) (s : State) : Reports s (askTables h c ts s) :=
  .foldS _ (fun _ _ _ => askRecord_reports host _ _ _) s

/-- Requests to the host concern messages alone. -/
theorem askRecord_frame {α : Type} (g : State → α) (hg : ∀ m u, g (emit m u) = g u) (i : Image) (rec : Nat) (s : State) :
    g (askRecord h c i rec s) = g s := by
  rw [askRecord_host host, hg]

theorem askAll_frame {α : Type} (g : State → α) (hg : ∀ m u, g (emit m u) = g u) (es : List (Nat × Image × PlaceE))
    (ts : List (Nat × Nat × Nat)) (s : State) : g (askTables h c ts (askTls h c es s)) = g s :=
  (foldS_eq g (fun _ _ => askRecord_frame host g hg _ _ _) ts _).trans
    (foldS_eq g (f := fun e : Nat × Image × PlaceE => askRecord h c e.2.1 e.2.2.record)
      (fun e u => askRecord_frame host g hg e.2.1 e.2.2.record u) es s)

theorem mem_askTls {es : List (Nat × Image × PlaceE)} {e : Nat × Image × PlaceE} (he : e ∈ es) (s : State) :
    recordRead c (e.2.1.ware.getD e.2.2.record {}) ∈ (askTls h c es s).out :=
  Reports.mem_foldS (fun e _ u => askRecord_reports host e.2.1 e.2.2.record u) he fun u _ => by
    rw [askRecord_host host]
    exact List.mem_cons_self

theorem mem_askTables {ts : List (Nat × Nat × Nat)} {e : Nat × Nat × Nat} (he : e ∈ ts) (s : State) :
    recordRead c ((imgOf s e.1).ware.getD e.2.1 {}) ∈ (askTables h c ts s).out :=
  Reports.mem_foldS (fun _ _ _ => askRecord_reports host _ _ _) he fun u hu => by
    rw [askRecord_host host, hu.stores.imgOf_eq]
    exact List.mem_cons_self

end

/-- The state in which a RESTORE has asked for what it has to bring back; `s` is the state in which it starts. -/
def restoreAsked (h : Nat) (c : Cmd) (s : State) : State :=
  askTables h c (lostTables s c.ctx) (askTls h c (badTls s c.ctx) (setCmd h { c with words := restoreItems s c.ctx } s))

/-- RESTORE from host memory asks for its records, and ends where it has none to wait for. -/
theorem exec_restore {h im : Nat} {c : Cmd} {s : State} (starts : startsAs s h 0x04 c) (host : c.u 0x20 1 = 0)
    (image : c.im = some im) : exec (.restore h) s = .next (restoreEnd h (restoreAsked h c.started (starting h c s))) := by
  have host' : c.started.u 0x20 1 = 0 := host
  have image' : c.started.im = some im := image
  change execRestore h s = _
  rw [execRestore, startCmd_of_startsAs starts]
  dsimp only
  rw [if_neg (by simp [host', rangeBad]), if_neg (by simp [image']), if_neg (by simp [host']), if_neg (by simp [host'])]
  rfl

section
variable {h : Nat} {c : Cmd} {s : State} (host : c.u 0x20 1 = 0)
include host

theorem cmds_restoreAsked : (restoreAsked h c s).cmds = (setCmd h { c with words := restoreItems s c.ctx } s).cmds :=
  askAll_frame host State.cmds (fun _ _ => rfl) _ _ _

theorem cmdOf_restoreAsked (k : Nat) :
    cmdOf (restoreAsked h c s) k = cmdOf (setCmd h { c with words := restoreItems s c.ctx } s) k := by
  rw [cmdOf, cmds_restoreAsked host, cmdOf]

theorem cmdOf_restoreAsked_same : cmdOf (restoreAsked h c s) h = some { c with words := restoreItems s c.ctx } :=
  (cmdOf_restoreAsked host h).trans (cmdOf_setCmd_same _ _ _)

/-- Asking for records changes the command and the messages alone. -/
theorem restoreAsked_frame :
    restoreAsked h c s = { s with cmds := (restoreAsked h c s).cmds, out := (restoreAsked h c s).out } := by
  have rest := askAll_frame (h := h) host (fun u : State => { u with cmds := [], out := [] }) (fun _ _ => rfl)
    (badTls s c.ctx) (lostTables s c.ctx) (setCmd h { c with words := restoreItems s c.ctx } s)
  exact congrArg (fun u : State => { u with cmds := (restoreAsked h c s).cmds, out := (restoreAsked h c s).out }) rest

theorem mem_restoreAsked_tl {e : Nat × Image × PlaceE} (he : e ∈ badTls s c.ctx) :
    recordRead c (e.2.1.ware.getD e.2.2.record {}) ∈ (restoreAsked h c s).out :=
  (askTables_reports host _ _).sent (mem_askTls host he _)

theorem mem_restoreAsked_table {e : Nat × Nat × Nat} (he : e ∈ lostTables s c.ctx) :
    recordRead c ((imgOf s e.1).ware.getD e.2.1 {}) ∈ (restoreAsked h c s).out := by
  have sent := mem_askTables (h := h) host he (askTls h c (badTls s c.ctx) (setCmd h { c with words := restoreItems s c.ctx } s))
  rwa [(askTls_reports host _ _).stores.imgOf_eq] at sent

end


/-! ### A record of a RESTORE arrives (R169, R225, R296) -/

/-- A record of a tile-layer whose digest is good goes to its shadow, and the RESTORE waits for the others. -/
theorem exec_restoreRecordArrival {h tl k : Nat} {c : Cmd} {i : Image} {p : PlaceE} {x : Shadow} {pl : List Nat} {s : State}
    (hc : cmdOf s h = some c) (hop : c.op = 0x04) (source : c.u 0x20 1 ≠ 1) (asked : tl ∈ c.words) (small : tl < 2 ^ 16)
    (place : (badTls s c.ctx).find? (fun e => e.1 == tl) = some (tl, i, p)) (shadow : shadowOf s tl = some x)
    (up : hubDown s x.addr 0x80000 = none) (good : digestBad (recOf i p) (placeFp4 i p) pl = false) (other : k ∈ c.words)
    (hk : k ≠ tl) : exec (.restoreRecordArrival h tl pl false) s =
      .next (setCmd h { c with words := c.words.filter (· != tl), prog := s.now, info := c.info + 1 }
        (putShadow tl c.ctx (placeFp4 i p) (recOf i p).rows (recOf i p).cols (recOf i p).digest
          (payloadCodes (recOf i p) (placeFp4 i p) pl) s)) := by
  have rest : c.words.filter (· != tl) ≠ [] := List.ne_nil_of_mem (List.mem_filter.mpr ⟨other, by simpa using hk⟩)
  have data : restoreData s c tl pl false = (pl, false) := by simp [restoreData, source]
  have reached : ((shadowOf s tl).map (·.addr)).filter (fun a => (hubDown s a 0x80000).isSome) = none := by simp [shadow, up]
  change execRestoreRecordArrival h tl pl false s = _
  unfold execRestoreRecordArrival restoreArrives
  simp only [hc, data, place, reached, good]
  rw [if_neg (by simp [hop, asked]), if_neg (Nat.not_le_of_lt small)]
  simp only [Option.isSome_none, Bool.false_eq_true, if_false, itemDone]
  exact congrArg done (restoreEnd_waits (cmdOf_setCmd_same _ _ _) rest)

/-! ### The obligation -/

theorem ends_restore {h im : Nat} {c : Cmd} {s : State} (starts : startsAs s h 0x04 c) (host : c.u 0x20 1 = 0)
    (image : c.im = some im) (fresh : c.info = 0) :
    (badTls s c.ctx = [] → lostTables s c.ctx = [] → Ends (.restore h) s fun t => Completed h c 0 0 0 s t ∧ t.mem = s.mem ∧
      t.shadow = s.shadow ∧ t.tiles = s.tiles) ∧
    (badTls s c.ctx ≠ [] ∨ lostTables s c.ctx ≠ [] → Ends (.restore h) s fun t =>
      t = { s with cmds := t.cmds, out := t.out } ∧
      cmdOf t h = some { c with run := true, words := restoreItems s c.ctx } ∧
      (∀ k, k ≠ h → cmdOf t k = cmdOf s k) ∧
      (∀ e ∈ badTls s c.ctx, recordRead c (e.2.1.ware.getD e.2.2.record {}) ∈ t.out) ∧
      (∀ e ∈ lostTables s c.ctx, recordRead c ((imgOf s e.1).ware.getD e.2.1 {}) ∈ t.out)) := by
  have host' : c.started.u 0x20 1 = 0 := host
  have run := exec_restore starts host image
  generalize hu : restoreAsked h c.started (starting h c s) = u at run
  have listed : cmdOf u h = some { c.started with words := restoreItems s c.ctx } := hu ▸ cmdOf_restoreAsked_same host'
  have frame : u = { starting h c s with cmds := u.cmds, out := u.out } := hu ▸ restoreAsked_frame host'
  refine ⟨fun intact whole => ?_, fun outstanding => ?_⟩
  · have nothing : restoreItems s c.ctx = [] := restoreItems_eq_nil.mpr ⟨intact, whole⟩
    have count : badCount u c.ctx = 0 := by
      rw [frame]
      exact congrArg (fun es : List (Nat × Image × PlaceE) => (es.map (·.1)).dedup.length) intact
    have ended : restoreEnd h u = complete h 0 0 0 u :=
      (restoreEnd_done listed nothing).trans (congrArg₂ (fun info left => complete h 0 info left u) fresh count)
    have before : unended u = unended s := by
      rw [frame]
      rfl
    have kept := (unended_complete h 0 0 0 u).trans before
    have completed : Completed h c 0 0 0 u (complete h 0 0 0 u) := complete_completed listed 0 0 0
    rw [ended] at run
    refine ⟨_, run, completed.of_same ?_ ?_ ?_, (congrArg State.mem kept :), (congrArg State.shadow kept :),
      (congrArg State.tiles kept :)⟩
    all_goals rw [frame]; rfl
  · have waits : restoreItems s c.ctx ≠ [] := by
      rw [Ne, restoreItems_eq_nil]
      tauto
    rw [restoreEnd_waits listed waits] at run
    refine ⟨u, run, frame, listed, fun k hk => ?_, fun e he => ?_, fun e he => ?_⟩
    · rw [← hu, cmdOf_restoreAsked host', cmdOf_setCmd_ne hk, starting, cmdOf_setCmd_ne hk]
    · exact hu ▸ mem_restoreAsked_tl (s := starting h c s) host' he
    · exact hu ▸ mem_restoreAsked_table (s := starting h c s) host' he

/-- Settles O7: a RESTORE asks for its records and changes nothing else, and what a good record changes lies in the shadow, its
probe-sum table and its entry. -/
theorem restoreCommand : Obligations.RestoreCommand := by
  unfold Obligations.RestoreCommand
  refine ⟨fun h c im s starts host image fresh => ends_restore starts host image fresh, ?_⟩
  rintro h tl c i p x pl s hc hop source asked small place shadow up good ⟨k, other, hk⟩
  obtain ⟨stores, bytes⟩ := putShadow_renewed (ctx := c.ctx) (fp4 := placeFp4 i p) (rows := (recOf i p).rows)
    (cols := (recOf i p).cols) (digest := (recOf i p).digest) shadow
    (length_canonArray (payloadCode (recOf i p).kind (recOf i p).rows (recOf i p).cols (placeFp4 i p) pl))
  refine ⟨_, exec_restoreRecordArrival hc hop source asked small place shadow up good other hk,
    ⟨renewed x c.ctx (placeFp4 i p) (recOf i p).rows (recOf i p).cols (recOf i p).digest, ?_, rfl, rfl, rfl⟩, bytes,
    cmdOf_setCmd_same _ _ _, stores.tiles_eq, (congrArg State.units stores.rest :), (congrArg State.seqs stores.rest :)⟩
  exact (congrArg (fun u : State => shadowOf u tl) stores.rest :).trans (shadowOf_tins tl _ s)

end Sys2Proof.Machine

namespace Sys2Proof.Machine
open Sys2Proof

/-! ### A command under way that ends nothing else (R227, R350, R361) -/

/-- What a completion record depends on: the link, the queues, and the functions in a reset. -/
def recordBase (s : State) : Pcie × Tab QueueS × (Nat → Bool) := (s.pcie, s.queues, fun fn => (fnOf s fn).inFlr)

theorem Completed.of_base {h : Nat} {c : Cmd} {st info val : Nat} {s s' t : State} (done : Completed h c st info val s' t)
    (base : recordBase s' = recordBase s) : Completed h c st info val s t := by
  have pcie : s'.pcie = s.pcie := congrArg Prod.fst base
  have queues : s'.queues = s.queues := congrArg (·.2.1) base
  have flr (fn : Nat) : (fnOf s' fn).inFlr = (fnOf s fn).inFlr := congrFun (congrArg (·.2.2) base) fn
  unfold Completed queueOf at done ⊢
  dsimp only at done ⊢
  rwa [queues, flr, pcie] at done

theorem recordBase_logE (e : LogEntry) (s : State) : recordBase (logE e s) = recordBase s := by
  have outer := outer_logE e s
  have flr := funext fun fn => inFlr_logE e fn s
  have pcie : (logE e s).pcie = s.pcie := (congrArg State.pcie outer :)
  have queues : (logE e s).queues = s.queues := (congrArg State.queues outer :)
  rw [recordBase, flr, pcie, queues, recordBase]

/-- Command `c` of slot `h` started at `s` and runs at `u`: nothing that its record depends on has changed, and its end will
end nothing else. -/
structure Underway (h : Nat) (c : Cmd) (s u : State) : Prop where
  runs : cmdOf u h = some c.started
  alone : endsAlone u = true
  base : recordBase u = recordBase s

/-- What the end of a command under way leaves, and what its record says. -/
structure EndsAs (h : Nat) (c : Cmd) (status info value : Nat) (s u t : State) : Prop where
  completed : Completed h c status info value s t
  seqs : t.seqs = u.seqs
  prefixes : t.prefixes = u.prefixes
  mem : SameMem u t

theorem EndsAs.seqOf_eq {h : Nat} {c : Cmd} {status info value : Nat} {s u t : State} (ends : EndsAs h c status info value s u t)
    (j : Nat) : seqOf t j = seqOf u j := by rw [seqOf, ends.seqs, seqOf]

theorem endsAlone_modSeq {s : State} (alone : endsAlone s = true) {i : Nat} {f : Seq → Seq} (hf : (f (seqOf s i)).retired = false) :
    endsAlone (modSeq i f s) = true := by
  obtain ⟨cmds, seqs⟩ := endsAlone_iff.mp alone
  refine endsAlone_iff.mpr ⟨cmds, fun e he => ?_⟩
  change e ∈ tset {} s.seqs i (f (seqOf s i)) at he
  unfold tset at he
  split at he
  · exact seqs e (List.mem_filter.mp he).1
  · rcases mem_tins he with rfl | he
    · exact hf
    · exact seqs e he

/-- No sequence of such a state is retired. -/
theorem retired_of_endsAlone {s : State} (alone : endsAlone s = true) (i : Nat) : (seqOf s i).retired = false := by
  by_contra hr
  have mem : (i, seqOf s i) ∈ s.seqs := mem_of_tget_ne fun e => hr (by rw [seqOf, e])
  exact hr ((endsAlone_iff.mp alone).2 _ mem)

namespace Underway
variable {h : Nat} {c : Cmd} {s u v : State}

theorem start {op : Nat} (starts : startsAs s h op c) (alone : endsAlone s = true) (hc : op ≠ 0x30) (hd : op ≠ 0x03) :
    Underway h c s (starting h c s) := by
  obtain ⟨-, rfl, -⟩ := starts
  exact ⟨cmdOf_starting h c s, endsAlone_setCmd alone h hc hd, rfl⟩

theorem congr (w : Underway h c s u) (cmds : v.cmds = u.cmds) (seqs : v.seqs = u.seqs) (base : recordBase v = recordBase u) :
    Underway h c s v :=
  ⟨by rw [cmdOf, cmds]; exact w.runs, (endsAlone_congr cmds seqs).trans w.alone, base.trans w.base⟩

theorem of_unheld (w : Underway h c s u) (same : unheld v = unheld u) : Underway h c s v :=
  w.congr (congrArg State.cmds same :) (congrArg State.seqs same :) (congrArg recordBase same :)

theorem modSeq (w : Underway h c s u) {i : Nat} {f : Seq → Seq} (hf : (f (seqOf u i)).retired = false) :
    Underway h c s (modSeq i f u) :=
  ⟨w.runs, endsAlone_modSeq w.alone hf, w.base⟩

theorem logE (w : Underway h c s u) (e : LogEntry) : Underway h c s (logE e u) :=
  w.congr (congrArg State.cmds (outer_logE e u) :) (congrArg State.seqs (outer_logE e u) :) (recordBase_logE e u)

theorem completes (w : Underway h c s u) (status info value : Nat) :
    EndsAs h c status info value s u (complete h status info value u) where
  completed := (complete_completed w.runs status info value).of_base w.base
  seqs := complete_seqs w.alone _ _ _ _
  prefixes := (congrArg State.prefixes (unended_complete h status info value u) :)
  mem := complete_sameMem _ _ _ _ _

theorem completes_logged (w : Underway h c s u) (e : LogEntry) (status info value : Nat) :
    EndsAs h c status info value s u (complete h status info value (Machine.logE e u)) := by
  have outer := outer_logE e u
  obtain ⟨completed, seqs, prefixes, mem⟩ := (w.logE e).completes status info value
  exact ⟨completed, seqs.trans (congrArg State.seqs outer :), prefixes.trans (congrArg State.prefixes outer :),
    fun a => (mem a).trans (rdByte_congr (mem_of_outer outer) a)⟩

/-- A command that is refused completes, whether or not its status is logged. -/
theorem fails (w : Underway h c s u) (status : Nat) : EndsAs h c status 0 0 s u (fail h status u) := by
  unfold fail
  rw [w.runs]
  dsimp only
  unfold whenS
  split
  · exact w.completes_logged _ status 0 0
  · exact w.completes status 0 0

end Underway

/-! ### What takes and drops references does to a sequence (R326, R329, R331, R362) -/

theorem seqOf_of_unheld {s t : State} (h : unheld t = unheld s) (j : Nat) : seqOf t j = seqOf s j :=
  (congrArg (fun u : State => seqOf u j) h :)

theorem mem_of_unheld {s t : State} (h : unheld t = unheld s) : t.mem = s.mem := (congrArg State.mem h :)

theorem unheld_modSeq {s t : State} (h : unheld t = unheld s) (i : Nat) (f : Seq → Seq) :
    unheld (modSeq i f t) = unheld (modSeq i f s) := (congrArg (modSeq i f) h :)

/-- Slip segments given up leave the list of the sequence, and become free. -/
theorem unheld_dropSlips (i : Nat) (p : Nat → Bool) (s : State) :
    unheld (dropSlips i p s) = unheld (modSeq i (fun q => { q with slips := q.slips.filter fun e => !p e.1 }) s) :=
  foldS_eq unheld (fun (e : Nat × Nat) u => unheld_releaseUnit (e.2 - 1) u) _ _

/-- A sequence without its pages, its flushes and its training stores. -/
def Seq.unpaged (q : Seq) : Seq := { q with pages := [], toFlush := [], flushing := [], keep := [], keepAt := none }

theorem unheld_dropSeqData (i : Nat) (s : State) : unheld (dropSeqData i s) =
    unheld (modSeq i (fun q => { q with slips := q.slips.filter fun _ => !true }) (modSeq i Seq.unpaged s)) :=
  (unheld_dropSlips i (fun _ => true) _).trans (unheld_modSeq (unheld_dropPages _ _) i _)

/-- The state in which the index of a sequence is free, but for references. -/
def seqFreed (i : Nat) (s : State) : State :=
  modSeq i (fun _ => { gen := nextGen (seqOf s i).gen })
    (modSeq i (fun q => { q with slips := q.slips.filter fun _ => !true }) (modSeq i Seq.unpaged s))

theorem unheld_freeSeqIdx (i : Nat) (s : State) : unheld (freeSeqIdx i s) = unheld (seqFreed i s) :=
  unheld_modSeq (unheld_dropSeqData i s) i fun _ => { gen := nextGen (seqOf s i).gen }

theorem freeSeqAll_undrafted {i : Nat} {s : State} (h : (seqOf s i).draft = none) : freeSeqAll i s = freeSeqIdx i s := by
  rw [freeSeqAll, h]
  rfl

theorem seqOf_seqFreed_same (i : Nat) (s : State) : seqOf (seqFreed i s) i = { gen := nextGen (seqOf s i).gen } :=
  seqOf_modSeq i _ _

theorem seqOf_seqFreed_ne {i j : Nat} (hj : j ≠ i) (s : State) : seqOf (seqFreed i s) j = seqOf s j := by
  rw [seqFreed, seqOf_modSeq_ne hj, seqOf_modSeq_ne hj, seqOf_modSeq_ne hj]

theorem mem_seqFreed (i : Nat) (s : State) : (seqFreed i s).mem = s.mem := by
  rw [seqFreed, modSeq_mem, modSeq_mem, modSeq_mem]

theorem cmdOf_freeSeqIdx (i : Nat) (s : State) (h : Nat) : cmdOf (freeSeqIdx i s) h = cmdOf s h := by
  have cmds : (freeSeqIdx i s).cmds = (seqFreed i s).cmds := (congrArg State.cmds (unheld_freeSeqIdx i s) :)
  rw [cmdOf, cmds, seqFreed, modSeq_cmds, modSeq_cmds, modSeq_cmds, cmdOf]

theorem Underway.seqFreed {h i : Nat} {c : Cmd} {s u : State} (w : Underway h c s u) : Underway h c s (seqFreed i u) := by
  have live := retired_of_endsAlone w.alone i
  refine ((w.modSeq ?_).modSeq ?_).modSeq rfl
  · exact live
  · rw [seqOf_modSeq]
    exact live

end Sys2Proof.Machine

namespace Sys2Proof.Machine
open Sys2Proof

/-! ### SEQ_CREATE (R227, R329, R362) -/

/-- A sequence taken into use by a context for an image, outside a job. -/
def Seq.opened (k im now : Nat) (q : Seq) : Seq :=
  { q with used := true, ctx := k, im := im, hidden := false, lastEnd := now, jsn := 0, failed := false }

theorem makeSeq_unjobbed {k im i : Nat} {s : State} (free : freeSeq s im = some i) (unjobbed : (imgOf s im).peers.job = 0) :
    makeSeq k im false s = some (i, modSeq i (Seq.opened k im s.now) s) := by
  rw [makeSeq, free]
  simp only [unjobbed]
  rfl

theorem makeSeqs_unjobbed {k im i : Nat} {s : State} (free : freeSeq s im = some i) (unjobbed : (imgOf s im).peers.job = 0) :
    makeSeqs k im false s = some (i, modSeq i (Seq.opened k im s.now) s) := by
  simp [makeSeqs, makeSeq_unjobbed free unjobbed]

/-- A sequence that begins with the positions of a prefix. -/
def Seq.extending (p : Prefix) (q : Seq) : Seq := { q with pages := p.pages, len := p.len, toks := p.toks }

/-- The state in which sequence `i` of an image has been made of a prefix; `s` is the state in which SEQ_CREATE starts. -/
def seqMade (k im i : Nat) (p : Prefix) (s : State) : State :=
  modSeq i (Seq.extending p) (takePages p.pages (modSeq i (Seq.opened k im s.now) s))

theorem unheld_seqMade (k im i : Nat) (p : Prefix) (s : State) :
    unheld (seqMade k im i p s) = unheld (modSeq i (Seq.extending p) (modSeq i (Seq.opened k im s.now) s)) :=
  unheld_modSeq (unheld_takePages _ _) i _

theorem seqOf_seqMade_same (k im i : Nat) (p : Prefix) (s : State) :
    seqOf (seqMade k im i p s) i = ((seqOf s i).opened k im s.now).extending p := by
  rw [seqOf_of_unheld (unheld_seqMade k im i p s), seqOf_modSeq, seqOf_modSeq]

theorem seqOf_seqMade_ne {i j : Nat} (hj : j ≠ i) (k im : Nat) (p : Prefix) (s : State) :
    seqOf (seqMade k im i p s) j = seqOf s j := by
  rw [seqOf_of_unheld (unheld_seqMade k im i p s), seqOf_modSeq_ne hj, seqOf_modSeq_ne hj]

theorem mem_seqMade (k im i : Nat) (p : Prefix) (s : State) : (seqMade k im i p s).mem = s.mem := by
  rw [mem_of_unheld (unheld_seqMade k im i p s), modSeq_mem, modSeq_mem]

theorem Underway.seqMade {h : Nat} {c : Cmd} {s u : State} (w : Underway h c s u) (k im i : Nat) (p : Prefix) :
    Underway h c s (seqMade k im i p u) := by
  have live := retired_of_endsAlone w.alone i
  refine ((w.modSeq ?_).modSeq ?_).of_unheld (unheld_seqMade k im i p u)
  · exact live
  · rw [seqOf_modSeq]
    exact live

/-- SEQ_CREATE without a draft makes a sequence of its prefix, or an empty one. -/
theorem exec_seqCreate {h im i : Nat} {c : Cmd} {s : State} (starts : startsAs s h 0x10 c) (image : c.im = some im)
    (plain : c.u 0x18 1 = 0) (free : freeSeq s im = some i)
    (unnamed : c.u 0x10 8 = 0 → findPrefix s c.ctx (c.u 0x10 8) = none)
    (named : c.u 0x10 8 ≠ 0 → ∃ p, findPrefix s c.ctx (c.u 0x10 8) = some p ∧ p.im = im)
    (unjobbed : (imgOf s im).peers.job = 0) :
    exec (.seqCreate h) s = .next (complete h 0 ((seqOf s i).gen * 4096 + i) ((findPrefix s c.ctx (c.u 0x10 8)).getD {}).len
      (seqMade c.ctx im i ((findPrefix s c.ctx (c.u 0x10 8)).getD {}) (starting h c s))) := by
  have image' : c.started.im = some im := image
  have plain' : c.started.u 0x18 1 = 0 := plain
  have made : makeSeqs c.started.ctx im false (starting h c s) = _ :=
    makeSeqs_unjobbed (s := starting h c s) free unjobbed
  obtain ⟨pf, hpf⟩ : ∃ pf, findPrefix s c.ctx (c.u 0x10 8) = pf := ⟨_, rfl⟩
  have hpf' : findPrefix (starting h c s) c.started.ctx (c.started.u 0x10 8) = pf := hpf
  rw [hpf] at unnamed named ⊢
  have gen : seqIdOf (seqMade c.ctx im i (pf.getD {}) (starting h c s)) i = (seqOf s i).gen * 4096 + i := by
    rw [seqIdOf, seqOf_seqMade_same]
    rfl
  have listed : (c.started.u 0x10 8 != 0 && pfxGone (starting h c s) c.started.ctx (c.started.u 0x10 8)) = false ∧
      (c.started.u 0x10 8 != 0 && pf.isNone) = false ∧ (pf.map fun p => p.im != im).getD false = false := by
    by_cases zero : c.started.u 0x10 8 = 0
    · simp [zero, unnamed zero]
    · obtain ⟨p, hp, him⟩ := named zero
      simp [pfxGone, hpf', hp, him]
  obtain ⟨kept, present, own⟩ := listed
  change execSeqCreate h s = _
  rw [execSeqCreate, startCmd_of_startsAs starts]
  dsimp only
  rw [image']
  dsimp only
  rw [hpf', kept, present, own, plain', if_neg (by decide), if_neg Bool.false_ne_true, if_neg Bool.false_ne_true,
    if_neg Bool.false_ne_true]
  rw [Nat.zero_testBit, made, ← gen]
  rfl

/-- A prefix's positions make up the new sequence, and no other sequence changes. -/
theorem ends_seqCreate {h im i : Nat} {c : Cmd} {s : State} (starts : startsAs s h 0x10 c) (alone : endsAlone s = true)
    (image : c.im = some im) (plain : c.u 0x18 1 = 0) (free : freeSeq s im = some i)
    (unnamed : c.u 0x10 8 = 0 → findPrefix s c.ctx (c.u 0x10 8) = none)
    (named : c.u 0x10 8 ≠ 0 → ∃ p, findPrefix s c.ctx (c.u 0x10 8) = some p ∧ p.im = im)
    (unjobbed : (imgOf s im).peers.job = 0) :
    let pf := findPrefix s c.ctx (c.u 0x10 8)
    Ends (.seqCreate h) s fun t =>
      Completed h c 0 ((seqOf s i).gen * 4096 + i) (pf.getD {}).len s t ∧
      (seqOf t i).used = true ∧ (seqOf t i).ctx = c.ctx ∧ (seqOf t i).im = im ∧ (seqOf t i).len = (pf.getD {}).len ∧
      (seqOf t i).pages = (pf.getD {}).pages ∧ (seqOf t i).gen = (seqOf s i).gen ∧
      (∀ j, j ≠ i → seqOf t j = seqOf s j) ∧ SameMem s t := by
  intro pf
  have w := (Underway.start starts alone (by decide) (by decide)).seqMade c.ctx im i (pf.getD {})
  have ends := w.completes 0 ((seqOf s i).gen * 4096 + i) (pf.getD {}).len
  have made := (ends.seqOf_eq i).trans (seqOf_seqMade_same c.ctx im i (pf.getD {}) (starting h c s))
  refine ⟨_, exec_seqCreate starts image plain free unnamed named unjobbed, ends.completed, ?_, ?_, ?_, ?_, ?_, ?_,
    fun j hj => (ends.seqOf_eq j).trans (seqOf_seqMade_ne hj _ _ _ _),
    fun a => (ends.mem a).trans (rdByte_congr (mem_seqMade c.ctx im i (pf.getD {}) (starting h c s)) a)⟩
  · exact congrArg Seq.used made
  · exact congrArg Seq.ctx made
  · exact congrArg Seq.im made
  · exact congrArg Seq.len made
  · exact congrArg Seq.pages made
  · exact (congrArg Seq.gen made).trans rfl

/-! ### SEQ_FREE (R339, R362) -/

/-- While a command starts, no other command names a sequence that none named before. -/
theorem others_starting {h k id : Nat} {c : Cmd} {s : State}
    (unnamed : ∀ e ∈ s.cmds, e.1 ≠ h → e.2.ctx = k → e.2.seqId ≠ some id) :
    ((starting h c s).cmds.filter fun e => e.1 != h && e.2.ctx == k && e.2.seqId == some id) = [] := by
  rw [List.filter_eq_nil_iff]
  intro e he named
  simp only [Bool.and_eq_true, bne_iff_ne, beq_iff_eq] at named
  obtain ⟨⟨other, ctx⟩, id⟩ := named
  rcases mem_tins he with rfl | he
  · exact other rfl
  · exact unnamed e he other ctx id

/-- What `seqCheck` answers of a sequence that is not refused for another reason tells whether it is FAILED. -/
theorem failed_of_seqCheck {c : Cmd} {id : Nat} {s : State} :
    (seqCheck s c id = .ok (id % 4096) → (seqOf s (id % 4096)).failed = false) ∧
    (seqCheck s c id = .error 0x11 → (seqOf s (id % 4096)).failed = true) := by
  unfold seqCheck
  dsimp only
  split
  · split <;> simp
  · split
    · simp
    · split
      · simp
      · split <;> simp_all

/-- SEQ_FREE of a sequence that no other command names frees its index. -/
theorem exec_seqFree {h : Nat} {c : Cmd} {s : State} (starts : startsAs s h 0x11 c)
    (others : ∀ e ∈ s.cmds, e.1 ≠ h → e.2.ctx = c.ctx → e.2.seqId ≠ some (c.u 0x10 4))
    (undrafted : (seqOf s (c.u 0x10 4 % 4096)).draft = none)
    (known : seqCheck s c (c.u 0x10 4) = .ok (c.u 0x10 4 % 4096) ∨ seqCheck s c (c.u 0x10 4) = .error 0x11) :
    exec (.seqFree h) s = .next (complete h (if (seqOf s (c.u 0x10 4 % 4096)).failed then 0x11 else 0) 0 0
      (freeSeqIdx (c.u 0x10 4 % 4096) (starting h c s))) := by
  have gone : freeSeqAll (c.u 0x10 4 % 4096) (starting h c s) = freeSeqIdx (c.u 0x10 4 % 4096) (starting h c s) :=
    freeSeqAll_undrafted (s := starting h c s) undrafted
  have unnamed : ((starting h c s).cmds.filter fun e => e.1 != h && e.2.ctx == c.started.ctx &&
      e.2.seqId == some (c.started.u 0x10 4)) = [] := others_starting others
  have check : seqCheck (starting h c s) c.started (c.started.u 0x10 4) = seqCheck s c (c.u 0x10 4) := rfl
  change execSeqFree h s = _
  rw [execSeqFree, startCmd_of_startsAs starts]
  dsimp only
  rw [unnamed, check]
  rcases known with known | known
  · rw [known, failed_of_seqCheck.1 known]
    exact congrArg (fun u => done (complete h 0 0 0 u)) gone
  · rw [known, failed_of_seqCheck.2 known]
    have runs : cmdOf (freeSeqIdx (c.u 0x10 4 % 4096) (starting h c s)) h = some c.started :=
      (cmdOf_freeSeqIdx _ _ h).trans (cmdOf_starting h c s)
    refine congrArg done (Eq.trans ?_ (fail_eq_complete runs (by decide) (by decide)))
    exact congrArg (fail h 0x11) gone

theorem ends_seqFree {h : Nat} {c : Cmd} {s : State} (starts : startsAs s h 0x11 c) (alone : endsAlone s = true)
    (others : ∀ e ∈ s.cmds, e.1 ≠ h → e.2.ctx = c.ctx → e.2.seqId ≠ some (c.u 0x10 4)) :
    let i := c.u 0x10 4 % 4096
    (seqOf s i).draft = none → (seqCheck s c (c.u 0x10 4) = .ok i ∨ seqCheck s c (c.u 0x10 4) = .error 0x11) →
    Ends (.seqFree h) s fun t => Completed h c (if (seqOf s i).failed then 0x11 else 0) 0 0 s t ∧
      seqOf t i = { gen := nextGen (seqOf s i).gen } ∧ (∀ j, j ≠ i → seqOf t j = seqOf s j) ∧ SameMem s t := by
  intro i undrafted known
  have freed := unheld_freeSeqIdx i (starting h c s)
  have w := (Underway.start starts alone (by decide) (by decide)).seqFreed (i := i)
  have ends := (w.of_unheld freed).completes (if (seqOf s i).failed then 0x11 else 0) 0 0
  have seq (j : Nat) := (ends.seqOf_eq j).trans (seqOf_of_unheld freed j)
  refine ⟨_, exec_seqFree starts others undrafted known, ends.completed, ?_, fun j hj => ?_, fun a => ?_⟩
  · exact (seq i).trans (seqOf_seqFreed_same i _)
  · exact (seq j).trans (seqOf_seqFreed_ne hj _)
  · refine (ends.mem a).trans (rdByte_congr ?_ a)
    rw [mem_of_unheld freed, mem_seqFreed]
    rfl

/-- SEQ_FREE of a sequence that is not known to its context is refused. -/
theorem ends_seqFree_unknown {h : Nat} {c : Cmd} {s : State} (starts : startsAs s h 0x11 c) (alone : endsAlone s = true)
    (unknown : seqKnown s c.ctx (c.u 0x10 4) = false) : Ends (.seqFree h) s fun t =>
      Completed h c (if c.u 0x10 4 ∈ (cxOf s c.ctx).goneSeq then 0x0A else 0x0B) 0 0 s t ∧ t.seqs = s.seqs := by
  have check : seqCheck (starting h c s) c.started (c.started.u 0x10 4) =
      .error (if c.u 0x10 4 ∈ (cxOf s c.ctx).goneSeq then 0x0A else 0x0B) := by
    have unknown' : seqKnown (starting h c s) c.started.ctx (c.started.u 0x10 4) = false := unknown
    rw [seqCheck, unknown']
    simp only [List.contains_iff_mem]
    rfl
  have unlost : (if c.u 0x10 4 ∈ (cxOf s c.ctx).goneSeq then 0x0A else 0x0B) ≠ 0x11 := by split <;> decide
  generalize (if c.u 0x10 4 ∈ (cxOf s c.ctx).goneSeq then 0x0A else 0x0B) = st at check unlost ⊢
  have run : exec (.seqFree h) s = .next (fail h st (starting h c s)) := by
    change execSeqFree h s = _
    rw [execSeqFree, startCmd_of_startsAs starts]
    dsimp only
    rw [check]
    dsimp only
    rw [if_neg unlost]
    rfl
  have ends := (Underway.start starts alone (by decide) (by decide)).fails st
  exact ⟨_, run, ends.completed, ends.seqs⟩

/-! ### PREFIX_DROP (R227, R380) -/

/-- The state in which a prefix has left the table; `s` is the state in which PREFIX_DROP starts. -/
def prefixDropped (p : Prefix) (s : State) : State := dropPages p.pages { s with prefixes := s.prefixes.erase p }

theorem unheld_prefixDropped (p : Prefix) (s : State) :
    unheld (prefixDropped p s) = unheld { s with prefixes := s.prefixes.erase p } := unheld_dropPages _ _

theorem ends_prefixDrop {h : Nat} {p : Prefix} {c : Cmd} {s : State} (starts : startsAs s h 0x19 c) (alone : endsAlone s = true)
    (found : findPrefix s c.ctx (c.u 0x10 8) = some p) (image : c.im = some p.im ∨ (cxOf s c.ctx).active = some p.im) :
    Ends (.prefixDrop h) s fun t => Completed h c 0 0 0 s t ∧ t.prefixes = s.prefixes.erase p ∧ t.seqs = s.seqs ∧ SameMem s t := by
  have found' : findPrefix (starting h c s) c.started.ctx (c.started.u 0x10 8) = some p := found
  have live : (c.started.im != some p.im && (cxOf (starting h c s) c.started.ctx).active != some p.im) = false := by
    have image' : c.started.im = some p.im ∨ (cxOf (starting h c s) c.started.ctx).active = some p.im := image
    rcases image' with im | active
    · simp [im]
    · simp [active]
  have run : exec (.prefixDrop h) s = .next (complete h 0 0 0 (prefixDropped p (starting h c s))) := by
    change execPrefixDrop h s = _
    rw [execPrefixDrop, startCmd_of_startsAs starts]
    rw [found']
    dsimp only
    rw [live]
    rfl
  have dropped := unheld_prefixDropped p (starting h c s)
  have w : Underway h c s { starting h c s with prefixes := s.prefixes.erase p } :=
    (Underway.start starts alone (by decide) (by decide)).congr rfl rfl rfl
  have ends := (w.of_unheld dropped).completes 0 0 0
  exact ⟨_, run, ends.completed, ends.prefixes.trans (congrArg State.prefixes dropped :),
    ends.seqs.trans (congrArg State.seqs dropped :), fun a => (ends.mem a).trans (rdByte_congr (mem_of_unheld dropped) a)⟩

/-- PREFIX_DROP of a prefix that its context does not have is refused. -/
theorem ends_prefixDrop_unknown {h : Nat} {c : Cmd} {s : State} (starts : startsAs s h 0x19 c) (alone : endsAlone s = true)
    (unknown : findPrefix s c.ctx (c.u 0x10 8) = none) : Ends (.prefixDrop h) s fun t =>
      Completed h c (if c.u 0x10 8 ∈ (cxOf s c.ctx).gonePfx then 0x0A else 0x0E) 0 0 s t ∧ t.prefixes = s.prefixes ∧
        t.seqs = s.seqs := by
  have unknown' : findPrefix (starting h c s) c.started.ctx (c.started.u 0x10 8) = none := unknown
  have run : exec (.prefixDrop h) s =
      .next (fail h (if c.u 0x10 8 ∈ (cxOf s c.ctx).gonePfx then 0x0A else 0x0E) (starting h c s)) := by
    change execPrefixDrop h s = _
    rw [execPrefixDrop, startCmd_of_startsAs starts]
    rw [unknown']
    simp only [pfxGone, unknown', Option.isNone_none, Bool.and_true, List.contains_iff_mem]
    rfl
  have ends := (Underway.start starts alone (by decide) (by decide)).fails
    (if c.u 0x10 8 ∈ (cxOf s c.ctx).gonePfx then 0x0A else 0x0E)
  exact ⟨_, run, ends.completed, ends.prefixes, ends.seqs⟩

end Sys2Proof.Machine

namespace Sys2Proof.Machine
open Sys2Proof

/-! ### Slip entries are cleared (R288, R320, R331) -/

/-- What each member of a series leaves, the series leaves. -/
theorem foldS_mem_eq {α β : Type} (g : State → α) {f : β → State → State} {xs : List β} (h : ∀ x ∈ xs, ∀ s, g (f x s) = g s)
    (s : State) : g (foldS xs f s) = g s := by
  unfold foldS
  induction xs generalizing s with
  | nil => rfl
  | cons x xs ih =>
    exact (ih (fun y hy => h y (List.mem_cons_of_mem _ hy)) _).trans (h x List.mem_cons_self s)

/-- Where no word holds an uncorrectable error, a write is performed whole, and none holds one after it. -/
theorem wrBytes_unpoisoned {s : State} (clean : s.poison = []) (a : Nat) (xs : List Byte) :
    (wrBytes a xs s).poison = [] ∧
      ∀ b, rdByte (wrBytes a xs s) b = if a ≤ b ∧ b < a + xs.length then xs.getD (b - a) 0 else rdByte s b := by
  have whole (b : Nat) : byteOk s a xs.length b = true := by simp [byteOk, poisoned, clean, tget]
  have admitted : wrRefused s a xs.length = false := by simp [wrRefused, clean]
  have written : wrBytes a xs s = { s with
      mem := (wrBytesAux a xs.length (byteOk s a xs.length) a xs s).mem,
      poison := tdrop (fun w => covers a xs.length w) s.poison, lost := found a (a + xs.length) s.lost } := by
    rw [wrBytes, admitted]
    simp only [Bool.false_eq_true, if_false]
    rw [wrBytesAux_mem]
  refine ⟨by rw [written, clean]; rfl, fun b => ?_⟩
  have mem : (wrBytes a xs s).mem = (wrBytesAux a xs.length (byteOk s a xs.length) a xs s).mem := by rw [written]
  rw [rdByte_congr mem, rdByte_wrBytesAux, whole]
  simp

/-- The bytes of a range become zero. -/
def zeroBytes (r : Nat × Nat) : State → State := wrBytes r.1 (List.replicate r.2 0)

theorem rdByte_zeroBytes {s : State} (clean : s.poison = []) (r : Nat × Nat) (a : Nat) :
    rdByte (zeroBytes r s) a = if r.1 ≤ a ∧ a < r.1 + r.2 then 0 else rdByte s a := by
  rw [zeroBytes, (wrBytes_unpoisoned clean _ _).2, List.length_replicate]
  refine if_congr Iff.rfl ?_ rfl
  rw [List.getD_eq_getElem?_getD, List.getElem?_replicate]
  split <;> rfl

/-- Ranges that become zero one after the other all read as zero, and so does what was zero before. -/
theorem rdByte_foldS_zeroBytes {rs : List (Nat × Nat)} {s : State} (clean : s.poison = []) {a : Nat}
    (h : rdByte s a = 0 ∨ ∃ r ∈ rs, r.1 ≤ a ∧ a < r.1 + r.2) : rdByte (foldS rs zeroBytes s) a = 0 := by
  unfold foldS
  induction rs generalizing s with
  | nil =>
    rcases h with zero | ⟨r, hr, -⟩
    · exact zero
    · exact absurd hr List.not_mem_nil
  | cons r rs ih =>
    refine ih (wrBytes_unpoisoned clean _ _).1 ?_
    rw [rdByte_zeroBytes clean]
    split
    · exact .inl rfl
    next outside =>
      rcases h with zero | ⟨q, hq, inside⟩
      · exact .inl zero
      · rcases List.mem_cons.mp hq with rfl | hq
        · exact absurd inside outside
        · exact .inr ⟨q, hq, inside⟩

theorem rdByte_foldS_zeroBytes_outside {rs : List (Nat × Nat)} {a : Nat} (h : ∀ r ∈ rs, a < r.1 ∨ r.1 + r.2 ≤ a) (s : State) :
    rdByte (foldS rs zeroBytes s) a = rdByte s a :=
  foldS_mem_eq (fun u => rdByte u a)
    (fun r hr u => rdByte_wrBytes_outside (by rw [List.length_replicate]; exact h r hr) u) s

/-- The bytes of a slip segment from position `n` on, where an entry takes `b` bytes. -/
def slipTail (n b : Nat) (e : Nat × Nat) : Nat × Nat :=
  (e.2 - 1 + (n - e.1 % 2 ^ 16 * 64) * b, (64 - (n - e.1 % 2 ^ 16 * 64)) * b)

/-- The slip segments of a sequence that hold positions at `n` or above. -/
def slipsFrom (n : Nat) (q : Seq) : List (Nat × Nat) := q.slips.filter fun e => decide (n < (e.1 % 2 ^ 16 + 1) * 64)

theorem clearSlips_eq (i n : Nat) (s : State) : clearSlips i n s =
    foldS ((slipsFrom n (seqOf s i)).map (slipTail n (kvOf s (seqOf s i).im).slipBytes)) zeroBytes s := by
  rw [foldS, List.foldl_map]
  rfl

/-- A tail lies in its segment. -/
theorem slipTail_bounds (n b : Nat) {e : Nat × Nat} (he : n < (e.1 % 2 ^ 16 + 1) * 64) :
    e.2 - 1 ≤ (slipTail n b e).1 ∧ (slipTail n b e).1 + (slipTail n b e).2 = e.2 - 1 + 64 * b := by
  refine ⟨Nat.le_add_right _ _, ?_⟩
  rw [slipTail, Nat.add_assoc, ← Nat.add_mul]
  congr 2
  omega

/-- Clearing the slip entries of a sequence changes no byte outside the segments that hold positions at `n` or above. -/
theorem rdByte_clearSlips_outside {i n a : Nat} {s : State}
    (h : ∀ e ∈ (seqOf s i).slips, n < (e.1 % 2 ^ 16 + 1) * 64 →
      a < e.2 - 1 ∨ e.2 - 1 + 64 * (kvOf s (seqOf s i).im).slipBytes ≤ a) : rdByte (clearSlips i n s) a = rdByte s a := by
  rw [clearSlips_eq]
  refine rdByte_foldS_zeroBytes_outside (fun r hr => ?_) s
  obtain ⟨e, he, rfl⟩ := List.mem_map.mp hr
  obtain ⟨mem, above⟩ := List.mem_filter.mp he
  have above' := of_decide_eq_true above
  obtain ⟨first, last⟩ := slipTail_bounds n (kvOf s (seqOf s i).im).slipBytes above'
  have := h e mem above'
  omega

/-- The entries at position `n` and above read as zero after they are cleared. -/
theorem rdByte_clearSlips {i n p k : Nat} {s : State} {e : Nat × Nat} (clean : s.poison = []) (he : e ∈ (seqOf s i).slips)
    (hp : p < 64) (above : n ≤ e.1 % 2 ^ 16 * 64 + p) (hk : k < (kvOf s (seqOf s i).im).slipBytes) :
    rdByte (clearSlips i n s) (e.2 - 1 + p * (kvOf s (seqOf s i).im).slipBytes + k) = 0 := by
  rw [clearSlips_eq]
  generalize (kvOf s (seqOf s i).im).slipBytes = b at hk ⊢
  have kept : n < (e.1 % 2 ^ 16 + 1) * 64 := by omega
  refine rdByte_foldS_zeroBytes clean (.inr ⟨slipTail n b e,
    List.mem_map.mpr ⟨e, List.mem_filter.mpr ⟨he, decide_eq_true kept⟩, rfl⟩, ?_⟩)
  obtain ⟨-, last⟩ := slipTail_bounds n b kept
  have first : (n - e.1 % 2 ^ 16 * 64) * b ≤ p * b := Nat.mul_le_mul_right b (by omega)
  have entry : p * b + b ≤ 64 * b := by
    rw [← Nat.succ_mul]
    exact Nat.mul_le_mul_right b hp
  have start : (slipTail n b e).1 = e.2 - 1 + (n - e.1 % 2 ^ 16 * 64) * b := rfl
  omega

/-- What writes leave of the unit, the clearing of slip entries leaves. -/
theorem clearSlips_frame {α : Type} (g : State → α) (hg : ∀ a xs s, g (wrBytes a xs s) = g s) (i n : Nat) (s : State) :
    g (clearSlips i n s) = g s :=
  foldS_eq g (fun _ _ => hg _ _ _) _ s

end Sys2Proof.Machine

namespace Sys2Proof.Machine
open Sys2Proof

/-! ### SEQ_TRUNCATE (R331, R362) -/

/-- What neither stores nor the report of a refused store concern, a write leaves. -/
theorem wrBytes_frame {α : Type} (g : State → α) (stored : ∀ m p l s, g { s with mem := m, poison := p, lost := l } = g s)
    (flagged : ∀ r k i s, g (setEv r k i s) = g s) (logged : ∀ e s, g (logE e s) = g s) (a : Nat) (xs : List Byte) (s : State) :
    g (wrBytes a xs s) = g s := by
  have written : g { wrBytesAux a xs.length (byteOk s a xs.length) a xs s with
      poison := tdrop (fun w => covers a xs.length w) (wrBytesAux a xs.length (byteOk s a xs.length) a xs s).poison,
      lost := found a (a + xs.length) (wrBytesAux a xs.length (byteOk s a xs.length) a xs s).lost } = g s := by
    rw [wrBytesAux_mem]
    exact stored _ _ _ s
  unfold wrBytes
  dsimp only
  split
  · rw [logged, flagged]
    exact written
  · exact written

theorem recordBase_wrBytes (a : Nat) (xs : List Byte) (s : State) : recordBase (wrBytes a xs s) = recordBase s :=
  wrBytes_frame recordBase (fun _ _ _ _ => rfl) (fun _ _ _ _ => rfl) recordBase_logE a xs s

theorem cmds_wrBytes (a : Nat) (xs : List Byte) (s : State) : (wrBytes a xs s).cmds = s.cmds :=
  wrBytes_frame State.cmds (fun _ _ _ _ => rfl) (fun _ _ _ _ => rfl) (fun e s => (congrArg State.cmds (outer_logE e s) :)) a xs s

theorem Underway.clearSlips {h : Nat} {c : Cmd} {s u : State} (w : Underway h c s u) (i n : Nat) :
    Underway h c s (clearSlips i n u) :=
  w.congr (clearSlips_frame State.cmds cmds_wrBytes i n u) (clearSlips_frame State.seqs seqs_wrBytes i n u)
    (clearSlips_frame recordBase recordBase_wrBytes i n u)

/-- The page-table entries of the positions below `n`, counting those alone (R331). -/
def cutPages (n : Nat) (ps : Tab PEnt) : Tab PEnt :=
  (ps.filter fun e => !decide (n ≤ e.1 % 2 ^ 16 * 64)).map fun e =>
    if e.1 % 2 ^ 16 = (n - 1) / 64 then (e.1, { e.2 with count := min e.2.count ((n - 1) % 64 + 1) }) else e

theorem cutPages_below {n : Nat} {ps : Tab PEnt} {e : Nat × PEnt} (he : e ∈ cutPages n ps) : e.1 % 65536 * 64 < n := by
  obtain ⟨x, hx, rfl⟩ := List.mem_map.mp he
  have below := (List.mem_filter.mp hx).2
  have key : (if x.1 % 2 ^ 16 = (n - 1) / 64 then (x.1, { x.2 with count := min x.2.count ((n - 1) % 64 + 1) }) else x).1 = x.1 := by
    split <;> rfl
  rw [key]
  simpa using below

/-- A sequence whose pages hold the positions below `n` alone. -/
def Seq.cut (n : Nat) (ps : Tab PEnt) (q : Seq) : Seq := { q with pages := cutPages n ps, len := n }

/-- A sequence of an image without the slip segments that hold no position of it below `n`. -/
def Seq.trimmed (im : Image) (n : Nat) (q : Seq) : Seq :=
  { q with slips := q.slips.filter fun e => !(decide (n ≤ e.1 % 2 ^ 16 * 64) || !heldPos im (e.1 % 2 ^ 16 * 64)) }

theorem unheld_trimSlips (i : Nat) (s : State) :
    unheld (trimSlips i s) = unheld (modSeq i (Seq.trimmed (imgOf s (seqOf s i).im) (seqOf s i).len) s) := unheld_dropSlips i _ s

/-- The state in which sequence `i` has lost what it held from position `n` on, but for references. -/
def seqCut (i n : Nat) (s : State) : State :=
  modSeq i (Seq.trimmed (imgOf s (seqOf s i).im) n) (modSeq i (Seq.cut n (seqOf s i).pages) s)

theorem seqOf_seqCut_same (i n : Nat) (s : State) :
    seqOf (seqCut i n s) i = ((seqOf s i).cut n (seqOf s i).pages).trimmed (imgOf s (seqOf s i).im) n := by
  rw [seqCut, seqOf_modSeq, seqOf_modSeq]

theorem seqOf_seqCut_ne {i j : Nat} (hj : j ≠ i) (n : Nat) (s : State) : seqOf (seqCut i n s) j = seqOf s j := by
  rw [seqCut, seqOf_modSeq_ne hj, seqOf_modSeq_ne hj]

/-- What a change of sequences leaves, the cut of a sequence leaves. -/
theorem seqCut_frame {α : Type} (g : State → α) (hg : ∀ i f s, g (modSeq i f s) = g s) (i n : Nat) (s : State) :
    g (seqCut i n s) = g s := by
  rw [seqCut, hg, hg]

/-- Cutting a sequence clears its slip entries where nothing but references and the sequence itself have changed. -/
theorem cutSeq_eq (i n : Nat) (s : State) : ∃ u, cutSeq i n s = clearSlips i n u ∧ unheld u = unheld (seqCut i n s) := by
  refine ⟨_, rfl, ?_⟩
  generalize hv : modSeq i (Seq.cut n (seqOf s i).pages) s = v
  have im : (seqOf v i).im = (seqOf s i).im := by rw [← hv, seqOf_modSeq]; rfl
  have len : (seqOf v i).len = n := by rw [← hv, seqOf_modSeq]; rfl
  have img (k : Nat) : imgOf v k = imgOf s k := by rw [← hv]; rfl
  have trim (ps : Tab PEnt) : unheld (trimSlips i (dropPages ps v)) = unheld (seqCut i n s) := by
    have same := unheld_dropPages ps v
    have image : imgOf (dropPages ps v) (seqOf (dropPages ps v) i).im = imgOf s (seqOf s i).im := by
      rw [seqOf_of_unheld same, im, ← img]
      exact (congrArg (fun u : State => imgOf u (seqOf s i).im) same :)
    rw [unheld_trimSlips, image, seqOf_of_unheld same, len, seqCut, hv]
    exact unheld_modSeq same i _
  exact hv ▸ trim _

/-- A sequence at its new length has no pending token. -/
def Seq.shortened (n : Nat) (q : Seq) : Seq := { q with pend := none, toks := q.toks.take n }

/-- SEQ_TRUNCATE of a sequence without a draft cuts it. -/
theorem exec_seqTruncate {h i : Nat} {c : Cmd} {s : State} (starts : startsAs s h 0x12 c)
    (flushed : noFlush s (c.u 0x10 4 % 4096) = true) (known : seqCheck s c (c.u 0x10 4) = .ok i)
    (fits : c.u 0x14 4 ≤ (seqOf s i).len)
    (undrafted : (seqOf s i).draft = none) : exec (.seqTruncate h) s =
      .next (complete h 0 (c.u 0x14 4) 0 (modSeq i (Seq.shortened (c.u 0x14 4)) (cutSeq i (c.u 0x14 4) (starting h c s)))) := by
  have hold : (((cmdOf s h).map fun c => !noFlush s (c.u 0x10 4 % 4096)).getD false) = false := by
    obtain ⟨hc, -⟩ := starts
    simp [hc, flushed]
  have known' : seqCheck (starting h c s) c.started (c.started.u 0x10 4) = .ok i := known
  have fits' : ¬ (seqOf (starting h c s) i).len < c.started.u 0x14 4 := Nat.not_lt_of_le fits
  have undrafted' : (seqOf (starting h c s) i).draft = none := undrafted
  change execSeqTruncate h s = _
  rw [execSeqTruncate, hold, if_neg Bool.false_ne_true, startCmd_of_startsAs starts]
  dsimp only
  rw [known']
  dsimp only
  rw [if_neg fits', undrafted']
  rfl

theorem ends_seqTruncate {h i : Nat} {c : Cmd} {s : State} (starts : startsAs s h 0x12 c) (alone : endsAlone s = true)
    (flushed : noFlush s (c.u 0x10 4 % 4096) = true) (known : seqCheck s c (c.u 0x10 4) = .ok i)
    (fits : c.u 0x14 4 ≤ (seqOf s i).len)
    (undrafted : (seqOf s i).draft = none) :
    Ends (.seqTruncate h) s fun t => Completed h c 0 (c.u 0x14 4) 0 s t ∧ (seqOf t i).len = c.u 0x14 4 ∧
      (seqOf t i).pend = none ∧ (∀ e ∈ (seqOf t i).pages, e.1 % 65536 * 64 < c.u 0x14 4) ∧
      (∀ j, j ≠ i → seqOf t j = seqOf s j) ∧
      (let b := (kvOf s (seqOf s i).im).slipBytes
       (∀ a, (∀ e ∈ (seqOf s i).slips, c.u 0x14 4 < (e.1 % 65536 + 1) * 64 → a < e.2 - 1 ∨ e.2 - 1 + 64 * b ≤ a) →
          rdByte t a = rdByte s a) ∧
       (s.poison = [] → ∀ e ∈ (seqOf t i).slips, ∀ p k, p < 64 → c.u 0x14 4 ≤ e.1 % 65536 * 64 + p → k < b →
          rdByte t (e.2 - 1 + p * b + k) = 0)) := by
  obtain ⟨n, hn⟩ : ∃ n, c.u 0x14 4 = n := ⟨_, rfl⟩
  have run := exec_seqTruncate starts flushed known fits undrafted
  rw [hn] at run ⊢
  obtain ⟨u, hu, same⟩ := cutSeq_eq i n (starting h c s)
  rw [hu] at run
  have started := Underway.start starts alone (by decide) (by decide)
  have live := retired_of_endsAlone started.alone i
  have w : Underway h c s (seqCut i n (starting h c s)) := by
    refine (started.modSeq ?_).modSeq ?_
    · exact live
    · rw [seqOf_modSeq]
      exact live
  have w' := (w.of_unheld same).clearSlips i n
  have ends := (w'.modSeq (f := Seq.shortened n) (retired_of_endsAlone w'.alone i)).completes 0 n 0
  have cut (j : Nat) : seqOf (clearSlips i n u) j = seqOf (seqCut i n (starting h c s)) j :=
    (clearSlips_frame (fun v => seqOf v j) (fun a xs v => seqOf_wrBytes a xs v j) i n u).trans (seqOf_of_unheld same j)
  have own := (ends.seqOf_eq i).trans (seqOf_modSeq i _ _)
  rw [cut i, seqOf_seqCut_same] at own
  have seq : seqOf u i = ((seqOf s i).cut n (seqOf s i).pages).trimmed (imgOf s (seqOf s i).im) n :=
    (seqOf_of_unheld same i).trans (seqOf_seqCut_same i n _)
  have layout : kvOf u (seqOf u i).im = kvOf s (seqOf s i).im := by
    have images : u.images = s.images :=
      (congrArg State.images same :).trans (seqCut_frame State.images (fun _ _ _ => rfl) i n (starting h c s))
    rw [seq, kvOf, imgOf, images]
    rfl
  have mem : u.mem = s.mem := (mem_of_unheld same).trans (seqCut_frame State.mem (fun _ _ _ => rfl) i n (starting h c s))
  have poison : u.poison = s.poison :=
    (congrArg State.poison same :).trans (seqCut_frame State.poison (fun _ _ _ => rfl) i n (starting h c s))
  have byte (a : Nat) : rdByte _ a = rdByte (clearSlips i n u) a := ends.mem a
  refine ⟨_, run, ends.completed, congrArg Seq.len own, congrArg Seq.pend own, fun e he => ?_, fun j hj => ?_, fun a apart => ?_,
    fun clean e he p k hp above hk => ?_⟩
  · rw [own] at he
    exact cutPages_below he
  · rw [ends.seqOf_eq, seqOf_modSeq_ne hj, cut, seqOf_seqCut_ne hj]
    rfl
  · refine (byte a).trans ((rdByte_clearSlips_outside fun e he => ?_).trans (rdByte_congr mem a))
    rw [layout]
    rw [seq] at he
    exact apart e (List.mem_filter.mp he).1
  · rw [own] at he
    rw [byte, ← layout]
    exact rdByte_clearSlips (poison.trans clean) (seq ▸ he) hp above (layout ▸ hk)

end Sys2Proof.Machine

namespace Sys2Proof.Machine
open Sys2Proof

/-! ### GENERATE (R368, R370) -/

/-- A GENERATE with tokens to append goes on. -/
theorem goOn_appends {h : Nat} {g : Gen} {c : Cmd} {s : State} (run : genOf s h = some g) (hc : cmdOf s h = some c)
    (ring : g.pfx = none) (more : g.input ≠ []) : goOn h false s = s := by
  simp [goOn, run, hc, ring, more]

/-- The state in which a GENERATE of sequence `i` has become the run `g`; `s` is the state in which it starts. -/
def generating (h i : Nat) (c : Cmd) (g : Gen) (s : State) : State :=
  setCmd h { c with seq := some i } { s with gens := tins s.gens h g }

theorem genOf_generating_same (h i : Nat) (c : Cmd) (g : Gen) (s : State) : genOf (generating h i c g s) h = some g :=
  genOf_tins_same h g s

theorem genOf_generating_ne {h j : Nat} (hj : j ≠ h) (i : Nat) (c : Cmd) (g : Gen) (s : State) :
    genOf (generating h i c g s) j = genOf s j := genOf_tins_ne hj g s

theorem cmdOf_generating (h i : Nat) (c : Cmd) (g : Gen) (s : State) :
    cmdOf (generating h i c g s) h = some { c with seq := some i } :=
  cmdOf_setCmd_same _ _ _

/-- An admissible GENERATE with tokens to append becomes a run on its sequence. -/
theorem exec_generate {h im i : Nat} {toks : List Nat} {req : List Byte} {c : Cmd} {s : State} (starts : startsAs s h 0x13 c)
    (image : c.im = some im) (known : seqCheck s c (c.u 0x10 4) = .ok i) (read : toks.length = c.u 0x14 4)
    (block : req.length = (if c.u 0x38 8 = 0 then 0 else 64)) (admitted : genCheck s c im i toks req false = 0) (more : toks ≠ []) :
    exec (.generate h toks req false) s = .next
      (generating h i c.started (newGen c i (seqOf s i).pend toks req) (starting h c s)) := by
  have hold : (((cmdOf s h).map fun c => !false && (toks.length != c.u 0x14 4 ||
      (req.length != if c.u 0x38 8 = 0 then 0 else 64))).getD false) = false := by
    obtain ⟨hc, -⟩ := starts
    simp [hc, read, block]
  have image' : c.started.im = some im := image
  have known' : seqCheck (starting h c s) c.started (c.started.u 0x10 4) = .ok i := known
  have admitted' : genCheck (starting h c s) c.started im i toks req false = 0 := admitted
  have input : (newGen c i (seqOf s i).pend toks req).input ≠ [] := List.append_ne_nil_of_right_ne_nil _ more
  change execGenerate h toks req false s = _
  rw [execGenerate, hold, if_neg Bool.false_ne_true, startCmd_of_startsAs starts]
  dsimp only
  rw [image']
  dsimp only
  rw [known']
  dsimp only
  rw [admitted', if_neg (by decide)]
  rw [← image']
  exact congrArg done (goOn_appends (genOf_generating_same h i c.started _ (starting h c s)) (cmdOf_generating h i _ _ _) rfl input)

theorem ends_generate {h im i : Nat} {toks : List Nat} {req : List Byte} {c : Cmd} {s : State} (starts : startsAs s h 0x13 c)
    (image : c.im = some im) (known : seqCheck s c (c.u 0x10 4) = .ok i) (read : toks.length = c.u 0x14 4)
    (block : req.length = (if c.u 0x38 8 = 0 then 0 else 64)) (admitted : genCheck s c im i toks req false = 0) (more : toks ≠ []) :
    Ends (.generate h toks req false) s fun t => t = { s with cmds := t.cmds, gens := t.gens } ∧
      genOf t h = some (newGen c i (seqOf s i).pend toks req) ∧ (∀ j, j ≠ h → genOf t j = genOf s j) ∧
      cmdOf t h = some { c with run := true, seq := some i } :=
  ⟨_, exec_generate starts image known read block admitted more, rfl, genOf_generating_same h i _ _ _,
    fun _ hj => genOf_generating_ne hj i _ _ _, cmdOf_generating h i _ _ _⟩

/-! ### PREFIX_CREATE (R328, R379) -/

/-- PREFIX_CREATE with a new handle goes on to its source, where its tokens are all here, or its sequence is at a boundary. -/
theorem exec_prefixCreate {h im : Nat} {toks : List Nat} {c : Cmd} {s : State} (starts : startsAs s h 0x18 c)
    (image : c.im = some im) (named : c.u 0x10 8 ≠ 0) (new : findPrefix s c.ctx (c.u 0x10 8) = none)
    (room : prefixFull s c.ctx = false)
    (ready : (if c.u 0x18 4 = 0xFFFFFFFF then toks.length != c.u 0x1C 4
      else (seqOf s (c.u 0x18 4 % 4096)).bind.isSome || !noFlush s (c.u 0x18 4 % 4096) ||
        sealWaits s (c.u 0x18 4 % 4096) (c.u 0x1C 4)) = false) :
    exec (.prefixCreate h toks false) s = .next (if c.u 0x18 4 = 0xFFFFFFFF
      then prefixOfToks h im c.started toks false (starting h c s) else prefixOfSeq h c.started (starting h c s)) := by
  have image' : c.started.im = some im := image
  have named' : ¬ c.started.u 0x10 8 = 0 := named
  have new' : findPrefix (starting h c s) c.started.ctx (c.started.u 0x10 8) = none := new
  have room' : prefixFull (starting h c s) c.started.ctx = false := room
  have hc : cmdOf s h = some c := starts.1
  change execPrefixCreate h toks false s = _
  rw [execPrefixCreate, hc]
  dsimp only [Option.map_some, Option.getD_some]
  rw [if_neg (ne_true_of_eq_false (by simpa using ready)), startCmd_of_startsAs starts]
  rw [image']
  dsimp only
  rw [if_neg named', new', if_neg (by simp), room', if_neg Bool.false_ne_true]
  rfl

/-- PREFIX_CREATE from tokens becomes a run on a sequence of its own. -/
theorem ends_prefixCreate_toks {h im i : Nat} {toks : List Nat} {c : Cmd} {s : State} (starts : startsAs s h 0x18 c)
    (image : c.im = some im) (named : c.u 0x10 8 ≠ 0) (new : findPrefix s c.ctx (c.u 0x10 8) = none)
    (room : prefixFull s c.ctx = false) (source : c.u 0x18 4 = 0xFFFFFFFF) (read : toks.length = c.u 0x1C 4) (nonempty : toks ≠ [])
    (fits : toks.length ≤ (kvOf s im).posMax) (vocab : ∀ t ∈ toks, t < (roleE s im 0).vocab) (free : freeSeq s im = some i)
    (unjobbed : (imgOf s im).peers.job = 0) : Ends (.prefixCreate h toks false) s fun t =>
      t = { s with cmds := t.cmds, gens := t.gens, seqs := t.seqs } ∧
      genOf t h = some { seq := i, input := toks, pfx := some (c.u 0x10 8) } ∧ (seqOf t i).used = true ∧
      (seqOf t i).im = im ∧ ∀ j, j ≠ i → seqOf t j = seqOf s j := by
  have run := exec_prefixCreate (toks := toks) starts image named new room (by rw [if_pos source]; simp [read])
  have made : makeSeq c.started.ctx im false (starting h c s) = _ := makeSeq_unjobbed (s := starting h c s) free unjobbed
  have legal : (toks.isEmpty || decide ((kvOf (starting h c s) im).posMax < toks.length) ||
      toks.any (fun t => decide ((roleE (starting h c s) im 0).vocab ≤ t))) = false := by
    have fits' : toks.length ≤ (kvOf (starting h c s) im).posMax := fits
    have vocab' : ∀ t ∈ toks, t < (roleE (starting h c s) im 0).vocab := vocab
    simpa [nonempty, fits'] using vocab'
  rw [if_pos source, prefixOfToks, if_neg Bool.false_ne_true, legal, if_neg Bool.false_ne_true, made] at run
  have own := seqOf_modSeq i (Seq.opened c.ctx im s.now) (starting h c s)
  exact ⟨_, run, rfl, genOf_tins_same h _ s, congrArg Seq.used own, congrArg Seq.im own,
    fun j hj => seqOf_modSeq_ne hj (Seq.opened c.ctx im s.now) (starting h c s)⟩

/-- The positions below `p` of a layer all stand in pages: there is nothing to seal. -/
theorem sealPage_full {i l p : Nat} {s : State} (full : (p - 1) % 64 + 1 ≤ pageCount s i l ((p - 1) / 64)) :
    sealPage i l p s = some s := by
  simp [sealPage, full]

theorem reserveAll_fixed {fs : List (State → Option State)} {s : State} (h : ∀ f ∈ fs, f s = some s) :
    reserveAll fs s = some s := by
  induction fs with
  | nil => rfl
  | cons f fs ih =>
    rw [reserveAll, h f List.mem_cons_self]
    exact ih fun g hg => h g (List.mem_cons_of_mem _ hg)

theorem sealAll_full {i p : Nat} {s : State} (full : ∀ l, l < (kvOf s (seqOf s i).im).layers.length →
    (p - 1) % 64 + 1 ≤ pageCount s i l ((p - 1) / 64)) : sealAll i p s = some s := by
  refine reserveAll_fixed fun f hf => ?_
  obtain ⟨l, hl, rfl⟩ := List.mem_map.mp hf
  exact sealPage_full (full l (List.mem_range.mp hl))

/-- The prefix made of the first `p` positions of a sequence. -/
def prefixOf (k handle i p : Nat) (s : State) : Prefix :=
  { ctx := k, handle := handle, im := (seqOf s i).im, len := p, toks := (seqOf s i).toks.take p,
    pages := ((seqOf s i).pages.filter fun e => decide (e.1 % 2 ^ 16 * 64 < p)).map fun e =>
      if e.1 % 2 ^ 16 = (p - 1) / 64 then (e.1, { e.2 with count := (p - 1) % 64 + 1 }) else e }

/-- The table with the prefix `x` of context `k`, whose handle no longer counts as one whose image has retired. -/
def prefixListed (k handle : Nat) (x : Prefix) (s : State) : State :=
  modCx k (fun c => { c with gonePfx := c.gonePfx.filter (· != handle) }) { s with prefixes := s.prefixes ++ [x] }

theorem unheld_addPrefix (k handle i p : Nat) (s : State) :
    unheld (addPrefix k handle i p s) = unheld (prefixListed k handle (prefixOf k handle i p s) s) :=
  (congrArg (prefixListed k handle (prefixOf k handle i p s)) (unheld_takePages (prefixOf k handle i p s).pages s) :)

/-- PREFIX_CREATE from a sequence whose positions all stand in pages names them. -/
theorem ends_prefixCreate_seq {h im i : Nat} {c : Cmd} {s : State} (starts : startsAs s h 0x18 c) (alone : endsAlone s = true)
    (image : c.im = some im) (named : c.u 0x10 8 ≠ 0) (new : findPrefix s c.ctx (c.u 0x10 8) = none)
    (room : prefixFull s c.ctx = false) (source : c.u 0x18 4 ≠ 0xFFFFFFFF) (known : seqCheck s c (c.u 0x18 4) = .ok i)
    (unbound : (seqOf s (c.u 0x18 4 % 4096)).bind = none) (flushed : noFlush s (c.u 0x18 4 % 4096) = true)
    (still : sealWaits s (c.u 0x18 4 % 4096) (c.u 0x1C 4) = false) (nonempty : 1 ≤ c.u 0x1C 4) (fits : c.u 0x1C 4 ≤ (seqOf s i).len)
    (clean : sealPoison s i (c.u 0x1C 4) = false)
    (full : ∀ l, l < (kvOf s (seqOf s i).im).layers.length → (c.u 0x1C 4 - 1) % 64 + 1 ≤ pageCount s i l ((c.u 0x1C 4 - 1) / 64)) :
    Ends (.prefixCreate h [] false) s fun t => Completed h c 0 (c.u 0x1C 4) 0 s t ∧
      (∃ p, t.prefixes = s.prefixes ++ [p] ∧ p.ctx = c.ctx ∧ p.handle = c.u 0x10 8 ∧ p.len = c.u 0x1C 4 ∧
        p.im = (seqOf s i).im ∧ p.toks = (seqOf s i).toks.take (c.u 0x1C 4)) ∧ t.seqs = s.seqs ∧ SameMem s t := by
  have run := exec_prefixCreate (toks := []) starts image named new room
    (by rw [if_neg source]; simp [unbound, flushed, still])
  obtain ⟨n, hn⟩ : ∃ n, c.u 0x1C 4 = n := ⟨_, rfl⟩
  have known' : seqCheck (starting h c s) c.started (c.started.u 0x18 4) = .ok i := known
  have range : ¬(c.started.u 0x1C 4 < 1 ∨ (seqOf (starting h c s) i).len < c.started.u 0x1C 4) :=
    not_or.mpr ⟨Nat.not_lt_of_le nonempty, Nat.not_lt_of_le fits⟩
  have clean' : sealPoison (starting h c s) i (c.started.u 0x1C 4) = false := clean
  have sealed : sealAll i (c.started.u 0x1C 4) (starting h c s) = some (starting h c s) := sealAll_full (s := starting h c s) full
  rw [if_neg source, prefixOfSeq] at run
  rw [known'] at run
  dsimp only at run
  rw [if_neg range, clean', if_neg Bool.false_ne_true, sealed] at run
  dsimp only at run
  generalize hx : prefixOf c.ctx (c.u 0x10 8) i (c.u 0x1C 4) (starting h c s) = x
  have w : Underway h c s (prefixListed c.ctx (c.u 0x10 8) x (starting h c s)) :=
    (Underway.start starts alone (by decide) (by decide)).congr rfl rfl rfl
  have same := (unheld_spillCheck (kvOf (starting h c s) (seqOf (starting h c s) i).im) _).trans
    (unheld_addPrefix c.ctx (c.u 0x10 8) i (c.u 0x1C 4) (starting h c s))
  rw [hx] at same
  have ends := (w.of_unheld same).completes 0 (c.u 0x1C 4) 0
  refine ⟨_, run, ends.completed, ⟨x, ends.prefixes.trans (congrArg State.prefixes same :), ?_⟩,
    ends.seqs.trans (congrArg State.seqs same :), fun a => (ends.mem a).trans (rdByte_congr (mem_of_unheld same) a)⟩
  subst hx
  exact ⟨rfl, rfl, rfl, rfl, rfl⟩

/-! ### The obligation -/

/-- Settles O17: each command changes its own sequence, run or prefix, and its end leaves them. -/
theorem sequenceCommands : Obligations.SequenceCommands := by
  unfold Obligations.SequenceCommands
  refine ⟨?_, ?_, ?_, ?_, ?_, ?_, ?_⟩
  · intro h im i c s starts alone image plain free pf unnamed named unjobbed
    exact ends_seqCreate starts alone image plain free unnamed named unjobbed
  · intro h c s starts alone others
    exact ends_seqFree starts alone others
  · intro h i c s starts alone flushed known fits undrafted
    exact ends_seqTruncate starts alone flushed known fits undrafted
  · intro h im i toks req c s starts image known read block admitted more
    exact ends_generate starts image known read block admitted more
  · intro h im c s starts alone image named new room
    refine ⟨fun toks i source read nonempty fits vocab free unjobbed => ?_,
      fun i source known unbound flushed still nonempty fits clean full => ?_⟩
    · exact ends_prefixCreate_toks starts image named new room source read nonempty fits vocab free unjobbed
    · exact ends_prefixCreate_seq starts alone image named new room source known unbound flushed still nonempty fits clean full
  · intro h p c s starts alone found image
    exact ends_prefixDrop starts alone found image
  · intro h c s alone
    exact ⟨fun starts unknown => ends_seqFree_unknown starts alone unknown,
      fun starts unknown => ends_prefixDrop_unknown starts alone unknown⟩

end Sys2Proof.Machine

namespace Sys2Proof.Machine
open Sys2Proof

/-! ### The issue of an instruction (R247, R628) -/

/-- With no breakpoint in force, an instruction whose word is sound issues. -/
theorem issueBp_open {s : State} (hdbg : undebugged s = true) {cl n : Nat} (word : tget 0 s.poisonX (insWord cl (vctxOf s cl n).pc) ≠ 1)
    (f : State → State) : issueBp cl n f s = f s := by
  simp [issueBp, breakpoint_undebugged hdbg (show (6 : Nat) ≠ 0 by decide), acked_undebugged hdbg, word]

/-! ### Contexts and the record of the order in which they became ready -/

/-- The state without the contexts of the vector units and the record of those that are ready. -/
def unissued (s : State) : State := { s with vctx := [], vready := [] }

theorem eq_of_unissued {s t : State} (h : unissued t = unissued s) : t = { s with vctx := t.vctx, vready := t.vready } :=
  calc t = { unissued t with vctx := t.vctx, vready := t.vready } := rfl
    _ = { unissued s with vctx := t.vctx, vready := t.vready } := by rw [h]

@[simp] theorem unissued_noteReady (k : Nat) (s : State) : unissued (noteReady k s) = unissued s := rfl
@[simp] theorem unissued_modCtx (cl n : Nat) (f : VCtx → VCtx) (s : State) : unissued (modCtx cl n f s) = unissued s := rfl
@[simp] theorem unissued_issued (cl n next : Nat) (resv : List Nat) (s : State) : unissued (issued cl n next resv s) = unissued s := rfl

@[simp] theorem vctxOf_noteReady (k cl n : Nat) (s : State) : vctxOf (noteReady k s) cl n = vctxOf s cl n := rfl

@[simp] theorem noteReady_vctx (k : Nat) (s : State) : (noteReady k s).vctx = s.vctx := rfl

theorem tget_vctx_modCtx_ne {cl n k : Nat} (h : k ≠ ctxKey cl n) (f : VCtx → VCtx) (s : State) :
    tget {} (modCtx cl n f s).vctx k = tget {} s.vctx k :=
  tget_tmod_ne _ _ _ h

/-- Of a context that issues, the state, the next program counter and the reservations change. -/
@[simp] theorem vctxOf_issued (cl n next : Nat) (resv : List Nat) (s : State) :
    vctxOf (issued cl n next resv s) cl n = { vctxOf s cl n with state := 3, next := next, resv := resv } :=
  vctxOf_modCtx _ _ _ _

theorem tget_vctx_issued_ne {cl n k : Nat} (h : k ≠ ctxKey cl n) (next : Nat) (resv : List Nat) (s : State) :
    tget {} (issued cl n next resv s).vctx k = tget {} s.vctx k :=
  tget_vctx_modCtx_ne h _ _

/-- With no arrival held, there is none to try again. -/
theorem releaseHeld_none {cl : Nat} {s : State} (h : tget [] s.vheld cl = []) :
    releaseHeld cl s = noteReady cl { s with vheld := tset [] s.vheld cl [] } := by
  simp [releaseHeld, h, releaseHeldAux, whenS]

/-! ### Scalar and control instructions (R240, R255) -/

section
variable {op cl n : Nat} {s : State} (hdbg : undebugged s = true) (fires : canFire s op cl n = true)
  (word : tget 0 s.poisonX (insWord cl (vctxOf s cl n).pc) ≠ 1)
include hdbg fires word

theorem scalar_fires (f : VCtx → VIns → VCtx × Int) : scalar op f cl n s =
    noteReady cl (issued cl n (f (vctxOf s cl n) (insAt s cl n)).2.toNat [] (modCtx cl n (fun _ => (f (vctxOf s cl n) (insAt s cl n)).1) s)) := by
  simp [scalar, fires, issueBp_open hdbg word]

end

/-- What the issue of a scalar instruction leaves its context, with the result `r` of its function. -/
theorem issued_modCtx_spec (cl n : Nat) (r : VCtx × Int) (s : State) :
    let t := noteReady cl (issued cl n r.2.toNat [] (modCtx cl n (fun _ => r.1) s))
    t = { s with vctx := t.vctx, vready := t.vready } ∧ vctxOf t cl n = { r.1 with state := 3, next := r.2.toNat, resv := [] } ∧
      ∀ k, k ≠ ctxKey cl n → tget {} t.vctx k = tget {} s.vctx k := by
  refine ⟨eq_of_unissued (by simp), ?_, fun k hk => ?_⟩
  · rw [vctxOf_noteReady, vctxOf_issued, vctxOf_modCtx]
  · rw [noteReady_vctx, tget_vctx_issued_ne hk, tget_vctx_modCtx_ne hk]

/-- A command that runs `scalar` issues as its function says. -/
theorem scalarIssues {c : Nat → Nat → Instr} {op : Nat} {f : VCtx → VIns → VCtx × Int}
    (runs : ∀ cl n s, exec (c cl n) s = .next (scalar op f cl n s)) : ScalarIssues c op f := by
  intro cl n s hdbg fires word
  exact ⟨_, (runs cl n s).trans (congrArg _ (scalar_fires hdbg fires word f)), issued_modCtx_spec cl n _ s⟩

theorem ends_halt {cl n : Nat} {s : State} (hdbg : undebugged s = true) (fires : canFire s 0x64 cl n = true)
    (word : tget 0 s.poisonX (insWord cl (vctxOf s cl n).pc) ≠ 1) :
    Ends (.halt cl n) s fun t => t = { s with vctx := t.vctx, vready := t.vready } ∧
      vctxOf t cl n = { vctxOf s cl n with state := 4 } ∧ ∀ k, k ≠ ctxKey cl n → tget {} t.vctx k = tget {} s.vctx k := by
  have run : exec (.halt cl n) s = .next (noteReady cl (modCtx cl n (fun c => { c with state := 4 }) s)) := by
    show execHalt cl n s = _
    simp [execHalt, done, fires, issueBp_open hdbg word]
  exact ⟨_, run, eq_of_unissued (by simp), by rw [vctxOf_noteReady, vctxOf_modCtx], fun k hk => by rw [noteReady_vctx, tget_vctx_modCtx_ne hk]⟩

/-! ### The completion of an instruction (R247, R264) -/

/-- The context after its instruction, with the copies that an ASWAP names swapped. -/
def steppedOn (cl n : Nat) (s : State) : State :=
  modCtx cl n (fun c => { c with state := 1, pc := c.next, resv := [] })
    (whenS ((insAt s cl n).op == 0x67) (swapCopies (vctxOf s cl n).im (xreg (vctxOf s cl n) (insAt s cl n).xa)) s)

/-- The state without the copies of the adapters and the contexts. -/
def unstepped (s : State) : State := { s with vctx := [], adapters := [] }

theorem unstepped_steppedOn (cl n : Nat) (s : State) : unstepped (steppedOn cl n s) = unstepped s :=
  show unstepped (whenS _ _ s) = unstepped s from whenS_eq unstepped rfl

theorem eq_of_unstepped {s t : State} (h : unstepped t = unstepped s) : t = { s with vctx := t.vctx, adapters := t.adapters } :=
  calc t = { unstepped t with vctx := t.vctx, adapters := t.adapters } := rfl
    _ = { unstepped s with vctx := t.vctx, adapters := t.adapters } := by rw [h]

theorem vctxOf_steppedOn (cl n : Nat) (s : State) :
    vctxOf (steppedOn cl n s) cl n = { vctxOf s cl n with state := 1, pc := (vctxOf s cl n).next, resv := [] } := by
  rw [steppedOn, vctxOf_modCtx, vctxOf, whenS_eq State.vctx rfl, ← vctxOf]

theorem tget_vctx_steppedOn {cl n k : Nat} (h : k ≠ ctxKey cl n) (s : State) :
    tget {} (steppedOn cl n s).vctx k = tget {} s.vctx k := by
  rw [steppedOn, tget_vctx_modCtx_ne h, whenS_eq State.vctx rfl]

theorem adapters_steppedOn_of_ne {cl n : Nat} {s : State} (h : (insAt s cl n).op ≠ 0x67) :
    (steppedOn cl n s).adapters = s.adapters := by
  rw [steppedOn, beq_eq_false_iff_ne.mpr h]
  rfl

theorem adapters_steppedOn_of_eq {cl n : Nat} {s : State} (h : (insAt s cl n).op = 0x67) :
    (steppedOn cl n s).adapters = tmod {} s.adapters (adpKey (vctxOf s cl n).im (xreg (vctxOf s cl n) (insAt s cl n).xa))
      fun p => { p with copy := 1 - p.copy } := by
  rw [steppedOn, beq_iff_eq.mpr h]
  rfl

/-- The end of an instruction in flight. -/
theorem exec_instructionComplete {cl n : Nat} {s : State} (hdbg : undebugged s = true) (flight : (vctxOf s cl n).state = 3) :
    exec (.instructionComplete cl n) s = .next (releaseHeld cl
      (if (vctxOf s cl n).base + (vctxOf s cl n).len ≤ (vctxOf s cl n).next then ctxFault cl n fPc (vctxOf s cl n).next (steppedOn cl n s)
       else steppedOn cl n s)) := by
  show execInstructionComplete cl n s = _
  simp [execInstructionComplete, done, flight, halted_undebugged hdbg, steppedOn]

theorem ends_instructionComplete {cl n : Nat} {s : State} (hdbg : undebugged s = true) (flight : (vctxOf s cl n).state = 3)
    (held : tget [] s.vheld cl = []) (inside : (vctxOf s cl n).next < (vctxOf s cl n).base + (vctxOf s cl n).len) :
    let c := vctxOf s cl n
    let i := insAt s cl n
    let k := adpKey c.im (xreg c i.xa)
    Ends (.instructionComplete cl n) s fun t =>
      t = { s with vctx := t.vctx, vheld := t.vheld, vready := t.vready, adapters := t.adapters } ∧
      vctxOf t cl n = { c with state := 1, pc := c.next, resv := [] } ∧
      (∀ j, j ≠ ctxKey cl n → tget {} t.vctx j = tget {} s.vctx j) ∧
      (i.op ≠ 0x67 → t.adapters = s.adapters) ∧
      (i.op = 0x67 → tget {} t.adapters k = { tget {} s.adapters k with copy := 1 - (tget {} s.adapters k).copy } ∧
        ∀ j, j ≠ k → tget {} t.adapters j = tget {} s.adapters j) := by
  intro c i k
  have rest := unstepped_steppedOn cl n s
  have none_held : tget [] (steppedOn cl n s).vheld cl = [] := (congrArg (fun u => tget [] (State.vheld u) cl) rest :).trans held
  have run := exec_instructionComplete hdbg flight
  rw [if_neg (not_le.mpr inside), releaseHeld_none none_held] at run
  refine ⟨_, run, ?_, vctxOf_steppedOn cl n s, fun j hj => tget_vctx_steppedOn hj s, adapters_steppedOn_of_ne, fun swap => ?_⟩
  · rw [eq_of_unstepped rest]
    rfl
  · have copies := adapters_steppedOn_of_eq swap
    exact ⟨(congrArg (tget {} · k) copies :).trans (tget_tmod_same _ _ _ _),
      fun j hj => (congrArg (tget {} · j) copies :).trans (tget_tmod_ne _ _ _ hj)⟩

end Sys2Proof.Machine

namespace Sys2Proof.Machine
open Sys2Proof

/-! ### The fault of a context (R270, R277) -/

/-- The state without the contexts, and without what entering an event can change. -/
def unfaulted (s : State) : State := { outer s with vctx := [] }

/-- The entry that CONTEXT_FAULT makes. -/
def faultEntry (cl n code pc : Nat) : LogEntry :=
  { cls := 0x0D, code := 8, sev := 3, kind := 3, index := cl, object := n, addr := pc, data := [code] }

/-- The state that CONTEXT_FAULT enters in the log: the context FAULTED, and the registers that record it. -/
def faultNoted (cl n code pc : Nat) (s : State) : State :=
  wr .VEC_LAST_FAULT_PC cl (BitVec.ofNat 32 (pc % 2 ^ 14)) (wr .VEC_LAST_FAULT cl (BitVec.ofNat 32 (n + code * 2 ^ 16))
    (setEv .VEC_STAT 0 cl (modCtx cl n (fun c => { c with state := 5, fault := code, resv := [] }) s)))

/-- A context that is not IDLE faults. -/
theorem ctxFault_eq {cl n : Nat} {s : State} (busy : (vctxOf s cl n).state ≠ 0) (code pc : Nat) :
    ctxFault cl n code pc s = logE (faultEntry cl n code pc) (faultNoted cl n code pc s) := by
  rw [ctxFault, if_neg busy]
  rfl

theorem ctxFault_idle {cl n : Nat} {s : State} (idle : (vctxOf s cl n).state = 0) (code pc : Nat) : ctxFault cl n code pc s = s := by
  rw [ctxFault, if_pos idle]

@[simp] theorem logE_vctx (e : LogEntry) (s : State) : (logE e s).vctx = s.vctx := (congrArg State.vctx (outer_logE e s) :)

@[simp] theorem vctxOf_logE (e : LogEntry) (s : State) (cl n : Nat) : vctxOf (logE e s) cl n = vctxOf s cl n := by
  rw [vctxOf, logE_vctx, vctxOf]

@[simp] theorem unfaulted_logE (e : LogEntry) (s : State) : unfaulted (logE e s) = unfaulted s := by
  rw [unfaulted, outer_logE, unfaulted]

@[simp] theorem unfaulted_wr (r : Reg) (i : Nat) (w : Word) (s : State) : unfaulted (wr r i w s) = unfaulted s := rfl

@[simp] theorem unfaulted_setEv (r : Reg) (k i : Nat) (s : State) : unfaulted (setEv r k i s) = unfaulted s := rfl

@[simp] theorem unfaulted_modCtx (cl n : Nat) (f : VCtx → VCtx) (s : State) : unfaulted (modCtx cl n f s) = unfaulted s := rfl

@[simp] theorem unfaulted_faultNoted (cl n code pc : Nat) (s : State) : unfaulted (faultNoted cl n code pc s) = unfaulted s := by
  simp [faultNoted]

theorem faultNoted_vctx (cl n code pc : Nat) (s : State) :
    (faultNoted cl n code pc s).vctx = (modCtx cl n (fun c => { c with state := 5, fault := code, resv := [] }) s).vctx := rfl

@[simp] theorem unfaulted_ctxFault (cl n code pc : Nat) (s : State) : unfaulted (ctxFault cl n code pc s) = unfaulted s := by
  by_cases idle : (vctxOf s cl n).state = 0
  · rw [ctxFault_idle idle]
  · rw [ctxFault_eq idle, unfaulted_logE, unfaulted_faultNoted]

section
variable {cl n : Nat} {s : State} (busy : (vctxOf s cl n).state ≠ 0) (code pc : Nat)
include busy

theorem vctxOf_ctxFault :
    vctxOf (ctxFault cl n code pc s) cl n = { vctxOf s cl n with state := 5, fault := code, resv := [] } := by
  rw [ctxFault_eq busy, vctxOf_logE, vctxOf, faultNoted_vctx, ← vctxOf, vctxOf_modCtx]

theorem rb_vecStat_ctxFault_zero : rb (ctxFault cl n code pc s) .VEC_STAT 0 cl = true := by
  rw [ctxFault_eq busy, rb_logE _ _ _ _ _ (by decide), rb, faultNoted, rd_wr_of_ne _ _ (by decide), rd_wr_of_ne _ _ (by decide), ← rb]
  exact rb_setEv_same _ _ _ _ (by decide)

/-- The other status bits stay. -/
theorem rb_vecStat_ctxFault_ne {k : Nat} (h : k ≠ 0) : rb (ctxFault cl n code pc s) .VEC_STAT k cl = rb s .VEC_STAT k cl := by
  rw [ctxFault_eq busy, rb_logE _ _ _ _ _ (by decide), rb, faultNoted, rd_wr_of_ne _ _ (by decide), rd_wr_of_ne _ _ (by decide), ← rb,
    rb_setEv_ne _ _ _ _ _ (by decide) h]
  rfl

/-- The fault is the last event entered, as seen from an earlier state with the same time and the same way to the log. -/
theorem logged_ctxFault {u : State} (now : s.now = u.now) (up : silUp s = silUp u) (evq : s.sil.evq = u.sil.evq) :
    Logged 0x0D 8 u (ctxFault cl n code pc s) := by
  rw [ctxFault_eq busy]
  exact logE_logged now up evq

end

/-- Whether an event was the last one entered is a matter of Silset alone. -/
theorem Logged.of_sil {cls code : Nat} {u s t : State} (h : Logged cls code u s) (same : t.sil = s.sil) : Logged cls code u t := by
  unfold Logged at h ⊢
  rw [same]
  exact h

/-- An instruction that leaves the program faults its context with PC_RANGE (R247, R270). -/
theorem ends_instructionComplete_pcRange {cl n : Nat} {s : State} (hdbg : undebugged s = true) (flight : (vctxOf s cl n).state = 3)
    (held : tget [] s.vheld cl = []) (outside : (vctxOf s cl n).base + (vctxOf s cl n).len ≤ (vctxOf s cl n).next) :
    Ends (.instructionComplete cl n) s fun t =>
      (vctxOf t cl n).state = 5 ∧ (vctxOf t cl n).fault = 0x0B ∧ rb t .VEC_STAT 0 cl = true ∧ Logged 0x0D 8 s t ∧ SameMem s t := by
  have stepped := unstepped_steppedOn cl n s
  have busy : (vctxOf (steppedOn cl n s) cl n).state ≠ 0 := by simp [vctxOf_steppedOn]
  have run := exec_instructionComplete hdbg flight
  rw [if_pos outside] at run
  have faulted := vctxOf_ctxFault busy fPc (vctxOf s cl n).next
  have marked := rb_vecStat_ctxFault_zero busy fPc (vctxOf s cl n).next
  have entered : Logged 0x0D 8 s (ctxFault cl n fPc (vctxOf s cl n).next (steppedOn cl n s)) :=
    logged_ctxFault busy _ _ (congrArg State.now stepped :) (congrArg silUp stepped :) (congrArg (·.sil.evq) stepped :)
  have rest : unfaulted (ctxFault cl n fPc (vctxOf s cl n).next (steppedOn cl n s)) = unfaulted (steppedOn cl n s) := unfaulted_ctxFault ..
  generalize ctxFault cl n fPc (vctxOf s cl n).next (steppedOn cl n s) = t at run faulted marked entered rest
  have held' : tget [] t.vheld cl = [] :=
    (congrArg (fun u => tget [] (State.vheld u) cl) rest :).trans ((congrArg (fun u => tget [] (State.vheld u) cl) stepped :).trans held)
  rw [releaseHeld_none held'] at run
  exact ⟨_, run, (congrArg VCtx.state faulted :), (congrArg VCtx.fault faulted :), marked, entered.of_sil rfl,
    sameMem_of_mem ((congrArg State.mem rest :).trans (congrArg State.mem stepped :))⟩

/-! ### The scalar instructions whose function is written another way -/

theorem exec_sshl (cl n : Nat) (s : State) :
    exec (.sshl cl n) s = .next (scalar 0x55 (putsX fun a b _ _ => a * 2 ^ (b % 32) % 2 ^ 32) cl n s) := by
  simp only [← Nat.shiftLeft_eq]
  rfl

theorem exec_sshr (cl n : Nat) (s : State) : exec (.sshr cl n) s = .next (scalar 0x56 (putsX fun a b _ _ => a / 2 ^ (b % 32)) cl n s) := by
  simp only [← Nat.shiftRight_eq_div_pow]
  rfl

theorem exec_bne (cl n : Nat) (s : State) : exec (.bne cl n) s = .next (scalar 0x62 (jumps fun a b => decide (a ≠ b)) cl n s) := by
  simp only [decide_not, ← beq_eq_decide]
  rfl

/-- Settles O11: every scalar instruction runs `scalar` with its function, and a completion advances the context or faults it. -/
theorem scalarInstructions : Obligations.ScalarInstructions := by
  unfold Obligations.ScalarInstructions
  refine ⟨scalarIssues ?_, scalarIssues ?_, scalarIssues ?_, scalarIssues ?_, scalarIssues ?_, scalarIssues exec_sshl,
    scalarIssues exec_sshr, scalarIssues ?_, scalarIssues ?_, scalarIssues ?_, scalarIssues ?_, scalarIssues exec_bne, scalarIssues ?_,
    scalarIssues ?_, scalarIssues ?_, scalarIssues ?_, fun cl n s => ends_halt, fun cl n s hdbg flight held => ⟨?_, ?_⟩⟩
  case refine_14 => exact fun inside => ends_instructionComplete hdbg flight held inside
  case refine_15 => exact fun outside _ => ends_instructionComplete_pcRange hdbg flight held outside
  all_goals exact fun _ _ _ => rfl

end Sys2Proof.Machine

namespace Sys2Proof.Machine
open Sys2Proof

/-! ### What the instructions of a vector unit can change

One view for all of them: what it leaves out, an instruction can change, and each statement says which of that an instruction leaves. -/

/-- The state without what the instructions and arrivals of a vector unit can change. -/
def unvector (s : State) : State :=
  { s with mem := [], poison := [], lost := [], vctx := [], vslots := [], vheld := [], vready := [], units := [], regs := [], free := 0,
           sil := {}, out := [], fns := [] }

theorem eq_of_unvector {s t : State} (h : unvector t = unvector s) :
    t = { s with mem := t.mem, poison := t.poison, lost := t.lost, vctx := t.vctx, vslots := t.vslots, vheld := t.vheld,
                 vready := t.vready, units := t.units, regs := t.regs, free := t.free, sil := t.sil, out := t.out, fns := t.fns } :=
  calc t = { unvector t with mem := t.mem, poison := t.poison, lost := t.lost, vctx := t.vctx, vslots := t.vslots, vheld := t.vheld,
                             vready := t.vready, units := t.units, regs := t.regs, free := t.free, sil := t.sil, out := t.out,
                             fns := t.fns } := rfl
    _ = { unvector s with mem := t.mem, poison := t.poison, lost := t.lost, vctx := t.vctx, vslots := t.vslots, vheld := t.vheld,
                          vready := t.vready, units := t.units, regs := t.regs, free := t.free, sil := t.sil, out := t.out,
                          fns := t.fns } := by rw [h]

@[simp] theorem unvector_noteReady (k : Nat) (s : State) : unvector (noteReady k s) = unvector s := rfl
@[simp] theorem unvector_modCtx (cl n : Nat) (f : VCtx → VCtx) (s : State) : unvector (modCtx cl n f s) = unvector s := rfl
@[simp] theorem unvector_issued (cl n next : Nat) (resv : List Nat) (s : State) : unvector (issued cl n next resv s) = unvector s := rfl
@[simp] theorem unvector_modSlot (cl i : Nat) (f : VSlot → VSlot) (s : State) : unvector (modSlot cl i f s) = unvector s := rfl
@[simp] theorem unvector_modUnit (k i : Nat) (f : FUnit → FUnit) (s : State) : unvector (modUnit k i f s) = unvector s := rfl
@[simp] theorem unvector_setEv (r : Reg) (k i : Nat) (s : State) : unvector (setEv r k i s) = unvector s := rfl
@[simp] theorem unvector_spmWait (cl : Nat) (s : State) : unvector (spmWait cl s) = unvector s := rfl
@[simp] theorem unvector_bump64 (lo hi : Reg) (n i : Nat) (s : State) : unvector (bump64 lo hi n i s) = unvector s := rfl
@[simp] theorem unvector_emit (m : Msg) (s : State) : unvector (emit m s) = unvector s := rfl

@[simp] theorem unvector_logE (e : LogEntry) (s : State) : unvector (logE e s) = unvector s := (congrArg unvector (outer_logE e s) :)

/-! ### A wait for a scratchpad (R284, R308) -/

@[simp] theorem spmWait_vctx (cl : Nat) (s : State) : (spmWait cl s).vctx = s.vctx := rfl
@[simp] theorem spmWait_vslots (cl : Nat) (s : State) : (spmWait cl s).vslots = s.vslots := rfl
@[simp] theorem spmWait_vheld (cl : Nat) (s : State) : (spmWait cl s).vheld = s.vheld := rfl
@[simp] theorem spmWait_units (cl : Nat) (s : State) : (spmWait cl s).units = s.units := rfl
@[simp] theorem spmWait_mem (cl : Nat) (s : State) : (spmWait cl s).mem = s.mem := rfl
@[simp] theorem spmWait_free (cl : Nat) (s : State) : (spmWait cl s).free = s.free + 1 := rfl

theorem rd_spmWait (cl : Nat) (s : State) {q : Reg} (h : q ≠ .SPM_WAIT_CNT) (i : Nat) : rd (spmWait cl s) q i = rd s q i :=
  rd_wr_of_ne _ _ h

/-! ### Elements written (R53, R241, R283) -/

/-- What every write of bytes leaves, a write of elements leaves. -/
theorem writeElem_frame {α : Type} (g : State → α) (h : ∀ a xs s, g (wrBytes a xs s) = g s) (f : Fmt) (base i v : Nat) (s : State) :
    g (writeElem f base i v s) = g s := by
  unfold writeElem
  split <;> exact h _ _ _

theorem writeElems_frame {α : Type} (g : State → α) (h : ∀ a xs s, g (wrBytes a xs s) = g s) (f : Fmt) (base i : Nat) (vals : List Nat)
    (s : State) : g (writeElems f base i vals s) = g s := by
  unfold writeElems
  split
  · rfl
  · split
    · rw [foldS_eq g (fun v s => writeElem_frame g h f base _ v s), whenS_eq g (h _ _ _),
        foldS_eq g (fun v s => writeElem_frame g h f base _ v s)]
    · exact h _ _ _

/-- A field of the state that neither stores nor reports change. -/
theorem wrBytes_of_stores {α : Type} (g : State → α) (h : ∀ s t, Stores s t → g t = g s) (a : Nat) (xs : List Byte) (s : State) :
    g (wrBytes a xs s) = g s := h s _ (wrBytes_stores a xs s)

@[simp] theorem unvector_wrBytes (a : Nat) (xs : List Byte) (s : State) : unvector (wrBytes a xs s) = unvector s :=
  wrBytes_frame unvector (fun _ _ _ _ => rfl) unvector_setEv unvector_logE a xs s

theorem vctx_wrBytes (a : Nat) (xs : List Byte) (s : State) : (wrBytes a xs s).vctx = s.vctx :=
  wrBytes_of_stores _ (fun _ _ h => (congrArg State.vctx h.rest :)) a xs s

theorem vslots_wrBytes (a : Nat) (xs : List Byte) (s : State) : (wrBytes a xs s).vslots = s.vslots :=
  wrBytes_of_stores _ (fun _ _ h => (congrArg State.vslots h.rest :)) a xs s

theorem vheld_wrBytes (a : Nat) (xs : List Byte) (s : State) : (wrBytes a xs s).vheld = s.vheld :=
  wrBytes_of_stores _ (fun _ _ h => (congrArg State.vheld h.rest :)) a xs s

theorem units_wrBytes (a : Nat) (xs : List Byte) (s : State) : (wrBytes a xs s).units = s.units :=
  wrBytes_of_stores _ (fun _ _ h => (congrArg State.units h.rest :)) a xs s

theorem free_wrBytes (a : Nat) (xs : List Byte) (s : State) : (wrBytes a xs s).free = s.free :=
  wrBytes_of_stores _ (fun _ _ h => (congrArg State.free h.rest :)) a xs s

@[simp] theorem unvector_writeElems (f : Fmt) (base i : Nat) (vals : List Nat) (s : State) :
    unvector (writeElems f base i vals s) = unvector s := writeElems_frame _ unvector_wrBytes ..
@[simp] theorem writeElems_vctx (f : Fmt) (base i : Nat) (vals : List Nat) (s : State) :
    (writeElems f base i vals s).vctx = s.vctx := writeElems_frame _ vctx_wrBytes ..
@[simp] theorem writeElems_vslots (f : Fmt) (base i : Nat) (vals : List Nat) (s : State) :
    (writeElems f base i vals s).vslots = s.vslots := writeElems_frame _ vslots_wrBytes ..
@[simp] theorem writeElems_vheld (f : Fmt) (base i : Nat) (vals : List Nat) (s : State) :
    (writeElems f base i vals s).vheld = s.vheld := writeElems_frame _ vheld_wrBytes ..
@[simp] theorem writeElems_units (f : Fmt) (base i : Nat) (vals : List Nat) (s : State) :
    (writeElems f base i vals s).units = s.units := writeElems_frame _ units_wrBytes ..
@[simp] theorem writeElems_free (f : Fmt) (base i : Nat) (vals : List Nat) (s : State) :
    (writeElems f base i vals s).free = s.free := writeElems_frame _ free_wrBytes ..

theorem rd_wrBytes (a : Nat) (xs : List Byte) (s : State) {r : Reg} (h1 : r ≠ .HUB_MEM_ERR_STAT) (h2 : r ≠ .SIL_LOG_LOST) (i : Nat) :
    rd (wrBytes a xs s) r i = rd s r i := by
  have written (s : State) (ok : Nat → Bool) (m b : Nat) : rd (wrBytesAux a m ok b xs s) r i = rd s r i := by
    rw [wrBytesAux_mem]
    rfl
  unfold wrBytes
  dsimp only
  split
  · rw [rd_logE _ _ _ _ h2, setEv, wrf, rd_wr_of_ne _ _ h1]
    exact written ..
  · exact written ..

theorem rd_writeElems (f : Fmt) (base i : Nat) (vals : List Nat) (s : State) {r : Reg} (h1 : r ≠ .HUB_MEM_ERR_STAT)
    (h2 : r ≠ .SIL_LOG_LOST) (k : Nat) : rd (writeElems f base i vals s) r k = rd s r k :=
  writeElems_frame (fun s => rd s r k) (fun a xs s => rd_wrBytes a xs s h1 h2 k) ..

/-- No message is taken back. -/
theorem writeElems_out (f : Fmt) (base i : Nat) (vals : List Nat) (s : State) : s.out ⊆ (writeElems f base i vals s).out := by
  have one (i v : Nat) (s : State) : Stores s (writeElem f base i v s) := by
    unfold writeElem
    split <;> exact wrBytes_stores ..
  have all : Stores s (writeElems f base i vals s) := by
    unfold writeElems
    split
    · exact .refl s
    · split
      · refine ((Stores.foldS (vals.take (i % 2)) (fun v _ s => one i v s) s).trans ?_).trans
          (Stores.foldS _ (fun v _ s => one (i + vals.length - 1) v s) _)
        unfold whenS
        split
        · exact wrBytes_stores ..
        · exact .refl _
      · exact wrBytes_stores ..
  exact all.sent

/-! What a write leaves in memory depends on the memory and its poison alone. -/

/-- Two states hold the same memory with the same poison. -/
def SameStore (s t : State) : Prop := t.mem = s.mem ∧ t.poison = s.poison

theorem wrBytes_mem (a : Nat) (xs : List Byte) (s : State) :
    (wrBytes a xs s).mem = (wrBytesAux a xs.length (byteOk s a xs.length) a xs s).mem := by
  unfold wrBytes
  dsimp only
  split
  · exact (congrArg State.mem (outer_logE _ _) :)
  · rfl

theorem wrBytes_poison (a : Nat) (xs : List Byte) (s : State) :
    (wrBytes a xs s).poison = tdrop (fun w => covers a xs.length w) s.poison := by
  have kept : (wrBytesAux a xs.length (byteOk s a xs.length) a xs s).poison = s.poison := by rw [wrBytesAux_mem]
  unfold wrBytes
  dsimp only
  split
  · exact (congrArg State.poison (outer_logE _ _) :).trans (congrArg _ kept :)
  · exact (congrArg _ kept :)

theorem wrBytesAux_mem_congr {s t : State} (h : t.mem = s.mem) (a n : Nat) (ok : Nat → Bool) (b : Nat) (xs : List Byte) :
    (wrBytesAux a n ok b xs t).mem = (wrBytesAux a n ok b xs s).mem := by
  induction xs generalizing b s t with
  | nil => exact h
  | cons x xs ih =>
    rw [wrBytesAux, wrBytesAux]
    refine ih ?_ _
    split
    · simp only [wrByte, h]
    · exact h

theorem SameStore.wrBytes {s t : State} (h : SameStore s t) (a : Nat) (xs : List Byte) : SameStore (wrBytes a xs s) (wrBytes a xs t) := by
  obtain ⟨mem, poison⟩ := h
  have ok : byteOk t a xs.length = byteOk s a xs.length := funext fun b => by simp only [byteOk, poisoned, poison]
  exact ⟨by rw [wrBytes_mem, wrBytes_mem, ok, wrBytesAux_mem_congr mem], by rw [wrBytes_poison, wrBytes_poison, poison]⟩

theorem SameStore.foldS {β : Type} {f : β → State → State} (h : ∀ x s t, SameStore s t → SameStore (f x s) (f x t)) (xs : List β)
    {s t : State} (st : SameStore s t) : SameStore (foldS xs f s) (foldS xs f t) := by
  unfold Machine.foldS
  induction xs generalizing s t with
  | nil => exact st
  | cons x xs ih => exact ih (h x s t st)

theorem SameStore.writeElem (f : Fmt) (base i v : Nat) {s t : State} (h : SameStore s t) :
    SameStore (writeElem f base i v s) (writeElem f base i v t) := by
  have byte (a : Nat) : rdByte t a = rdByte s a := rdByte_congr h.1 a
  unfold Machine.writeElem
  simp only [byte]
  split <;> exact h.wrBytes ..

theorem SameStore.writeElems (f : Fmt) (base i : Nat) (vals : List Nat) {s t : State} (h : SameStore s t) :
    SameStore (writeElems f base i vals s) (writeElems f base i vals t) := by
  unfold Machine.writeElems
  split
  · exact h
  · split
    · refine SameStore.foldS (fun v s t st => st.writeElem f base _ v) _ ?_
      have head := SameStore.foldS (fun v s t st => st.writeElem f base i v) (vals.take (i % 2)) h
      unfold whenS
      split
      · exact head.wrBytes ..
      · exact head
    · exact h.wrBytes ..

/-! ### Slots -/

theorem slotOf_congr {s t : State} (h : t.vslots = s.vslots) (cl i : Nat) : slotOf t cl i = slotOf s cl i := by rw [slotOf, h, slotOf]

theorem vctxOf_congr {s t : State} (h : t.vctx = s.vctx) (cl n : Nat) : vctxOf t cl n = vctxOf s cl n := by rw [vctxOf, h, vctxOf]

theorem slotOf_modSlot_ne {cl i j : Nat} (h : j ≠ i) (f : VSlot → VSlot) (s : State) :
    slotOf (modSlot cl i f s) cl j = slotOf s cl j :=
  tget_tmod_ne _ _ _ (by simpa [slotKey] using h)

theorem tget_vslots_modSlot_ne {cl i k : Nat} (h : k ≠ slotKey cl i) (f : VSlot → VSlot) (s : State) :
    tget {} (modSlot cl i f s).vslots k = tget {} s.vslots k :=
  tget_tmod_ne _ _ _ h

/-- A slot whose operand is consumed (R243). -/
def eaten (x : VSlot) : VSlot := if x.persist then x else { x with present := false, written := [] }

theorem eaten_eaten (x : VSlot) : eaten (eaten x) = eaten x := by
  by_cases h : x.persist <;> simp [eaten, h]

theorem eaten_shape (x : VSlot) : (eaten x).fmt = x.fmt ∧ (eaten x).addr = x.addr ∧ (eaten x).len = x.len ∧ (eaten x).persist = x.persist := by
  unfold eaten
  split <;> exact ⟨rfl, rfl, rfl, rfl⟩

theorem consume_eq (cl i : Nat) (s : State) : consume cl i s = modSlot cl i eaten s := rfl

/-- The sources that an instruction consumes, one after another. -/
theorem consumeSrcs_eq (cl : Nat) (c : VCtx) (i : VIns) (useA useB useC : Bool) (s : State) :
    consumeSrcs cl c i useA useB useC s = foldS (((if i.ca && useA then [i.a] else []) ++ (if i.cb && useB then [i.b] else []) ++
      (if i.cc && useC then [i.c] else [])).map (poolIdx c)) (consume cl) s := by
  unfold consumeSrcs whenS
  cases i.ca && useA <;> cases i.cb && useB <;> cases i.cc && useC <;> rfl

theorem slotOf_foldS_consume (cl : Nat) (is : List Nat) (s : State) (j : Nat) :
    slotOf (foldS is (consume cl) s) cl j = if j ∈ is then eaten (slotOf s cl j) else slotOf s cl j := by
  unfold foldS
  induction is generalizing s with
  | nil => rfl
  | cons i is ih =>
    rw [List.foldl_cons, ih, consume_eq]
    by_cases h : j = i
    · subst h
      rw [slotOf_modSlot, eaten_eaten]
      simp
    · rw [slotOf_modSlot_ne h]
      simp [h]

/-- What a change of slots leaves, consuming sources leaves. -/
theorem consumeSrcs_frame {α : Type} (g : State → α) (h : ∀ cl i f s, g (modSlot cl i f s) = g s) (cl : Nat) (c : VCtx) (i : VIns)
    (useA useB useC : Bool) (s : State) : g (consumeSrcs cl c i useA useB useC s) = g s := by
  rw [consumeSrcs_eq]
  exact foldS_eq g (fun j s => h cl j eaten s) _ s

end Sys2Proof.Machine

namespace Sys2Proof.Machine
open Sys2Proof

/-! ### The results of a lane instruction (R243, R245, R254) -/

section
variable {α : Type} (g : State → α) (slots : ∀ cl i f s, g (modSlot cl i f s) = g s) (bytes : ∀ a xs s, g (wrBytes a xs s) = g s)
include slots bytes

/-- What changes of slots and writes of bytes leave, the write of a destination leaves. -/
theorem writeDest_frame (cl i : Nat) (vals : List Nat) (present : Bool) (s : State) : g (writeDest cl i vals present s) = g s := by
  rw [writeDest, slots, writeElems_frame g bytes]

end

/-- The slot of a destination that has been written. -/
def written (x : VSlot) : VSlot := { x with present := !x.persist, written := [] }

theorem vslots_writeElems_modSlot (cl i : Nat) (f : VSlot → VSlot) (fm : Fmt) (base k : Nat) (vals : List Nat) (s : State) :
    (modSlot cl i f (writeElems fm base k vals s)).vslots = (modSlot cl i f s).vslots := by
  rw [modSlot, modSlot, writeElems_vslots]

theorem slotOf_writeDest (cl i : Nat) (vals : List Nat) (s : State) (j : Nat) :
    slotOf (writeDest cl i vals true s) cl j = if j = i then written (slotOf s cl j) else slotOf s cl j := by
  rw [writeDest, slotOf_congr (vslots_writeElems_modSlot ..)]
  split
  next h => rw [h, slotOf_modSlot]; rfl
  next h => rw [slotOf_modSlot_ne h]

theorem mem_writeDest (cl i : Nat) (vals : List Nat) (present : Bool) (s : State) :
    (writeDest cl i vals present s).mem = (writeElems (slotFmt (slotOf s cl i)) (slotAddr cl (slotOf s cl i)) 0 vals s).mem := rfl

theorem poison_writeDest (cl i : Nat) (vals : List Nat) (present : Bool) (s : State) :
    (writeDest cl i vals present s).poison = (writeElems (slotFmt (slotOf s cl i)) (slotAddr cl (slotOf s cl i)) 0 vals s).poison := rfl

/-- The results in the destinations: D, and C where there are two. -/
def inDests (cl d c : Nat) (two : Bool) (r : VRes) (s : State) : State := whenS two (writeDest cl c r.c true) (writeDest cl d r.d true s)

/-- The scalar result in the context. -/
def putScalar (x : Option (Nat × Nat)) (c : VCtx) : VCtx := x.elim c fun e => setX e.1 e.2 c

/-- The scalar result in the state. -/
def noteScalar (cl n : Nat) (x : Option (Nat × Nat)) (s : State) : State := x.elim s fun e => modCtx cl n (setX e.1 e.2) s

/-- The state after the results of a lane instruction without a fault, before held arrivals are tried. -/
def landed (cl n : Nat) (ndst nsrc : Nat) (r : VRes) (s : State) : State :=
  let c := vctxOf s cl n
  let i := insAt s cl n
  raiseFlags cl n r.fl (noteScalar cl n r.x (inDests cl (poolIdx c i.d) (poolIdx c i.c) (decide (1 < ndst)) r
    (issued cl n (c.pc + 1) ((laneDsts ndst i).map (poolIdx c)) (foldS ((laneEats nsrc i).map (poolIdx c)) (consume cl) s))))

theorem laneDsts_one (i : VIns) : laneDsts 1 i = [i.d] := rfl
theorem laneDsts_two (i : VIns) : laneDsts 2 i = [i.d, i.c] := rfl

theorem consumeSrcs_lane (cl : Nat) (c : VCtx) (i : VIns) (nsrc : Nat) (s : State) :
    consumeSrcs cl c i (decide (0 < nsrc)) (decide (1 < nsrc) && !i.sb) (decide (2 < nsrc)) s =
      foldS ((laneEats nsrc i).map (poolIdx c)) (consume cl) s := by
  rw [consumeSrcs_eq, laneEats, Bool.and_assoc]

/-- A result whose destinations refuse nothing, and that does not trap, lands whole. -/
theorem applyRes_clean {cl n ndst nsrc : Nat} {r : VRes} {s : State} (dst : ndst = 1 ∨ ndst = 2)
    (trap : (r.fl.nv && rb s .VEC_CTRL 0 cl) = false)
    (cleanD : destRefused s cl (poolIdx (vctxOf s cl n) (insAt s cl n).d) r.d.length = false)
    (cleanC : 1 < ndst → destRefused s cl (poolIdx (vctxOf s cl n) (insAt s cl n).c) r.c.length = false) :
    applyRes cl n (laneDsts ndst (insAt s cl n)) nsrc r s = releaseHeld cl (landed cl n ndst nsrc r s) := by
  unfold applyRes landed
  dsimp only
  rw [← consumeSrcs_lane]
  rcases dst with rfl | rfl
  · rcases hx : r.x with _ | ⟨k, v⟩ <;> simp [trap, cleanD, laneDsts_one, whenS, inDests, noteScalar]
  · rcases hx : r.x with _ | ⟨k, v⟩ <;> simp [trap, cleanD, cleanC, laneDsts_two, whenS, inDests, noteScalar]

/-! What the landing of results changes. -/

section
variable {α : Type} (g : State → α)

theorem inDests_frame (slots : ∀ cl i f s, g (modSlot cl i f s) = g s) (bytes : ∀ a xs s, g (wrBytes a xs s) = g s)
    (cl d c : Nat) (two : Bool) (r : VRes) (s : State) : g (inDests cl d c two r s) = g s := by
  rw [inDests, whenS_eq g (writeDest_frame g slots bytes ..), writeDest_frame g slots bytes]

theorem noteScalar_frame (ctx : ∀ cl n f s, g (modCtx cl n f s) = g s) (cl n : Nat) (x : Option (Nat × Nat)) (s : State) :
    g (noteScalar cl n x s) = g s := by
  cases x
  · rfl
  · exact ctx ..

theorem raiseFlags_frame (ctx : ∀ cl n f s, g (modCtx cl n f s) = g s) (events : ∀ k cl s, g (setEv .VEC_STAT k cl s) = g s)
    (cl n : Nat) (f : Fl) (s : State) : g (raiseFlags cl n f s) = g s := by
  rw [raiseFlags, whenS_eq g (events ..), whenS_eq g (events ..), ctx]

/-- What contexts, slots, bytes and status bits do not touch, the landing of results leaves. -/
theorem landed_frame (ctx : ∀ cl n f s, g (modCtx cl n f s) = g s) (events : ∀ k cl s, g (setEv .VEC_STAT k cl s) = g s)
    (slots : ∀ cl i f s, g (modSlot cl i f s) = g s) (bytes : ∀ a xs s, g (wrBytes a xs s) = g s)
    (cl n ndst nsrc : Nat) (r : VRes) (s : State) : g (landed cl n ndst nsrc r s) = g s := by
  rw [landed, raiseFlags_frame g ctx events, noteScalar_frame g ctx, inDests_frame g slots bytes, issued, ctx]
  exact foldS_eq g (fun i s => slots cl i eaten s) _ s

end

section
variable (cl n ndst nsrc : Nat) (r : VRes) (s : State)

theorem unvector_landed : unvector (landed cl n ndst nsrc r s) = unvector s :=
  landed_frame unvector unvector_modCtx (unvector_setEv .VEC_STAT) unvector_modSlot unvector_wrBytes ..

theorem landed_units : (landed cl n ndst nsrc r s).units = s.units :=
  landed_frame State.units modCtx_units (setEv_units .VEC_STAT) modSlot_units units_wrBytes ..

theorem landed_free : (landed cl n ndst nsrc r s).free = s.free :=
  landed_frame State.free modCtx_free (setEv_free .VEC_STAT) modSlot_free free_wrBytes ..

theorem landed_vheld : (landed cl n ndst nsrc r s).vheld = s.vheld :=
  landed_frame State.vheld modCtx_vheld (setEv_vheld .VEC_STAT) modSlot_vheld vheld_wrBytes ..

theorem rd_landed {q : Reg} (h1 : q ≠ .VEC_STAT) (h2 : q ≠ .HUB_MEM_ERR_STAT) (h3 : q ≠ .SIL_LOG_LOST) (i : Nat) :
    rd (landed cl n ndst nsrc r s) q i = rd s q i :=
  landed_frame (fun s => rd s q i) (fun _ _ _ _ => rfl) (fun _ _ _ => rd_wr_of_ne _ _ h1) (fun _ _ _ _ => rfl)
    (fun a xs s => rd_wrBytes a xs s h2 h3 i) ..

end

section
variable {cl n : Nat} {s : State}

theorem raiseFlags_vctx (f : Fl) : (raiseFlags cl n f s).vctx = (modCtx cl n (fun c => { c with flags := c.flags ||| f.toNat }) s).vctx := by
  rw [raiseFlags, whenS_eq State.vctx (setEv_vctx ..), whenS_eq State.vctx (setEv_vctx ..)]

theorem vctxOf_noteScalar (x : Option (Nat × Nat)) : vctxOf (noteScalar cl n x s) cl n = putScalar x (vctxOf s cl n) := by
  cases x
  · rfl
  · exact vctxOf_modCtx ..

theorem inDests_vctx (d c : Nat) (two : Bool) (r : VRes) : (inDests cl d c two r s).vctx = s.vctx :=
  inDests_frame State.vctx modSlot_vctx vctx_wrBytes ..

theorem foldS_consume_vctx (is : List Nat) : (foldS is (consume cl) s).vctx = s.vctx :=
  foldS_eq State.vctx (fun i s => (rfl : (consume cl i s).vctx = s.vctx)) is s

/-- The context of a lane instruction that has issued. -/
theorem vctxOf_landed (ndst nsrc : Nat) (r : VRes) :
    let c := vctxOf s cl n
    vctxOf (landed cl n ndst nsrc r s) cl n =
      { c with state := 3, next := c.pc + 1, resv := (laneDsts ndst (insAt s cl n)).map (poolIdx c), flags := c.flags ||| r.fl.toNat,
               x := (putScalar r.x c).x } := by
  intro c
  rw [landed, vctxOf_congr (raiseFlags_vctx r.fl), vctxOf_modCtx, vctxOf_noteScalar, vctxOf_congr (inDests_vctx ..), vctxOf_issued,
    vctxOf_congr (foldS_consume_vctx _)]
  rcases r.x with _ | ⟨k, v⟩
  · rfl
  · show _ = { c with state := 3, next := c.pc + 1, resv := _, flags := _, x := (setX k v c).x }
    simp only [putScalar, Option.elim, setX]
    split <;> rfl

theorem tget_vctx_landed_ne (ndst nsrc : Nat) (r : VRes) {k : Nat} (h : k ≠ ctxKey cl n) :
    tget {} (landed cl n ndst nsrc r s).vctx k = tget {} s.vctx k := by
  have scalar (u : State) : tget {} (noteScalar cl n r.x u).vctx k = tget {} u.vctx k := by
    cases r.x
    · rfl
    · exact tget_vctx_modCtx_ne h _ _
  rw [landed, raiseFlags_vctx, tget_vctx_modCtx_ne h, scalar, inDests_vctx, tget_vctx_issued_ne h, foldS_consume_vctx]

/-! The slots after the landing. -/

theorem landed_vslots (ndst nsrc : Nat) (r : VRes) : let c := vctxOf s cl n
    (landed cl n ndst nsrc r s).vslots = (inDests cl (poolIdx c (insAt s cl n).d) (poolIdx c (insAt s cl n).c) (decide (1 < ndst)) r
      (issued cl n (c.pc + 1) ((laneDsts ndst (insAt s cl n)).map (poolIdx c))
        (foldS ((laneEats nsrc (insAt s cl n)).map (poolIdx c)) (consume cl) s))).vslots := by
  intro c
  rw [landed, raiseFlags_frame State.vslots modCtx_vslots (fun _ _ _ => rfl), noteScalar_frame State.vslots modCtx_vslots]

/-- A slot is a destination, written; or a consumed source; or as it was. -/
theorem slotOf_landed (nsrc : Nat) {ndst : Nat} (dst : ndst = 1 ∨ ndst = 2) (r : VRes) (j : Nat) : let c := vctxOf s cl n
    let x := if j ∈ (laneEats nsrc (insAt s cl n)).map (poolIdx c) then eaten (slotOf s cl j) else slotOf s cl j
    slotOf (landed cl n ndst nsrc r s) cl j = if j ∈ (laneDsts ndst (insAt s cl n)).map (poolIdx c) then written x else x := by
  intro c x
  have before (next : Nat) (resv : List Nat) (k : Nat) : slotOf (issued cl n next resv
      (foldS ((laneEats nsrc (insAt s cl n)).map (poolIdx c)) (consume cl) s)) cl k =
        if k ∈ (laneEats nsrc (insAt s cl n)).map (poolIdx c) then eaten (slotOf s cl k) else slotOf s cl k :=
    slotOf_foldS_consume ..
  have twice (y : VSlot) : written (written y) = written y := rfl
  rw [slotOf_congr (landed_vslots ndst nsrc r)]
  rcases dst with rfl | rfl
  · show slotOf (writeDest ..) cl j = _
    rw [slotOf_writeDest, before, laneDsts_one]
    simp only [List.map_cons, List.map_nil, List.mem_singleton]
    rfl
  · show slotOf (writeDest _ _ _ _ (writeDest ..)) cl j = _
    rw [slotOf_writeDest, slotOf_writeDest, before, laneDsts_two]
    simp only [List.map_cons, List.map_nil, List.mem_cons, List.not_mem_nil, or_false]
    change (if j = poolIdx c (insAt s cl n).c then written (if j = poolIdx c (insAt s cl n).d then written x else x)
      else if j = poolIdx c (insAt s cl n).d then written x else x) = _
    by_cases first : j = poolIdx c (insAt s cl n).d
    · simp only [if_pos first, twice, ite_self, if_pos (Or.inl first)]
    · simp only [first, if_false, false_or]

end

end Sys2Proof.Machine

namespace Sys2Proof.Machine
open Sys2Proof

/-! ### What a lane instruction leaves in memory and in the status register -/

theorem slotFmt_congr {x y : VSlot} (h : y.fmt = x.fmt) : slotFmt y = slotFmt x := by rw [slotFmt, h, slotFmt]

theorem slotAddr_congr {x y : VSlot} (h : y.addr = x.addr) (cl : Nat) : slotAddr cl y = slotAddr cl x := by rw [slotAddr, h, slotAddr]

section
variable {cl n : Nat} {s : State}

theorem landed_mem (ndst nsrc : Nat) (r : VRes) : let c := vctxOf s cl n
    (landed cl n ndst nsrc r s).mem = (inDests cl (poolIdx c (insAt s cl n).d) (poolIdx c (insAt s cl n).c) (decide (1 < ndst)) r
      (issued cl n (c.pc + 1) ((laneDsts ndst (insAt s cl n)).map (poolIdx c))
        (foldS ((laneEats nsrc (insAt s cl n)).map (poolIdx c)) (consume cl) s))).mem := by
  intro c
  rw [landed, raiseFlags_frame State.mem modCtx_mem (fun _ _ _ => rfl), noteScalar_frame State.mem modCtx_mem]

/-- Before the results are written, a slot has the shape it had, and the memory is untouched. -/
theorem consumed_shape (next : Nat) (resv is : List Nat) (j : Nat) :
    let u := issued cl n next resv (foldS is (consume cl) s)
    slotFmt (slotOf u cl j) = slotFmt (slotOf s cl j) ∧ slotAddr cl (slotOf u cl j) = slotAddr cl (slotOf s cl j) ∧ SameStore s u := by
  intro u
  have slot : slotOf u cl j = if j ∈ is then eaten (slotOf s cl j) else slotOf s cl j := slotOf_foldS_consume ..
  have store : SameStore s u :=
    ⟨foldS_eq State.mem (fun i s => (rfl : (consume cl i s).mem = s.mem)) is s,
      foldS_eq State.poison (fun i s => (rfl : (consume cl i s).poison = s.poison)) is s⟩
  obtain ⟨fmt, addr, -, -⟩ := eaten_shape (slotOf s cl j)
  rw [slot]
  split
  · exact ⟨slotFmt_congr fmt, slotAddr_congr addr cl, store⟩
  · exact ⟨rfl, rfl, store⟩

/-- D's elements stand in memory as one write from the state before leaves them, and C's after them. -/
theorem mem_landed (nsrc : Nat) (r : VRes) : let c := vctxOf s cl n
    let d := slotOf s cl (poolIdx c (insAt s cl n).d)
    let g := slotOf s cl (poolIdx c (insAt s cl n).c)
    let one := writeElems (slotFmt d) (slotAddr cl d) 0 r.d s
    (landed cl n 1 nsrc r s).mem = one.mem ∧
    (landed cl n 2 nsrc r s).mem = (writeElems (slotFmt g) (slotAddr cl g) 0 r.c one).mem := by
  intro c d g one
  have first (next : Nat) (resv : List Nat) :
      let u := issued cl n next resv (foldS ((laneEats nsrc (insAt s cl n)).map (poolIdx c)) (consume cl) s)
      SameStore one (writeDest cl (poolIdx c (insAt s cl n).d) r.d true u) := by
    intro u
    obtain ⟨fmt, addr, store⟩ := consumed_shape (cl := cl) (n := n) (s := s) next resv
      ((laneEats nsrc (insAt s cl n)).map (poolIdx c)) (poolIdx c (insAt s cl n).d)
    have same := store.writeElems (slotFmt d) (slotAddr cl d) 0 r.d
    exact ⟨by rw [mem_writeDest, fmt, addr]; exact same.1, by rw [poison_writeDest, fmt, addr]; exact same.2⟩
  constructor
  · rw [landed_mem]
    exact (first _ _).1
  · rw [landed_mem]
    show (writeDest cl _ r.c true (writeDest cl _ r.d true _)).mem = _
    rw [mem_writeDest, slotOf_writeDest]
    obtain ⟨fmt, addr, -⟩ := consumed_shape (cl := cl) (n := n) (s := s) (c.pc + 1) ((laneDsts 2 (insAt s cl n)).map (poolIdx c))
      ((laneEats nsrc (insAt s cl n)).map (poolIdx c)) (poolIdx c (insAt s cl n).c)
    have shape (b : Prop) [Decidable b] (x : VSlot) :
        slotFmt (if b then written x else x) = slotFmt x ∧ slotAddr cl (if b then written x else x) = slotAddr cl x := by
      split <;> exact ⟨rfl, rfl⟩
    rw [(shape _ _).1, (shape _ _).2, fmt, addr]
    exact ((first _ _).writeElems _ _ _ _).1

/-- The flags that are raised show in VEC_STAT (R254, R274). -/
theorem rb_vecStat_landed (ndst nsrc : Nat) (r : VRes) :
    (r.fl.nv = true → rb (landed cl n ndst nsrc r s) .VEC_STAT 3 cl = true) ∧
    (r.fl.of = true → rb (landed cl n ndst nsrc r s) .VEC_STAT 4 cl = true) := by
  rw [landed, raiseFlags]
  refine ⟨fun nv => ?_, fun of => ?_⟩
  · rw [nv]
    unfold whenS
    split
    · rw [rb_setEv_ne _ _ _ _ _ (by decide) (by decide)]
      exact rb_setEv_same _ _ _ _ (by decide)
    · exact rb_setEv_same _ _ _ _ (by decide)
  · rw [of]
    exact rb_setEv_same _ _ _ _ (by decide)

end

/-! ### The issue of a lane instruction -/

/-- The state in which the results of a lane instruction land: its beats and its waits are counted. -/
def counted (cl b : Nat) (s : State) : State := spmWait cl (bump64 .VEC_BEAT_CNT_LO .VEC_BEAT_CNT_HI b cl s)

theorem insAt_counted (cl b n : Nat) (s : State) : insAt (counted cl b s) cl n = insAt s cl n := rfl
theorem sameStore_counted (cl b : Nat) (s : State) : SameStore s (counted cl b s) := ⟨rfl, rfl⟩
theorem counted_vctx (cl b : Nat) (s : State) : (counted cl b s).vctx = s.vctx := rfl
theorem counted_units (cl b : Nat) (s : State) : (counted cl b s).units = s.units := rfl
theorem counted_free (cl b : Nat) (s : State) : (counted cl b s).free = s.free + 1 := rfl

theorem unvector_counted (cl b : Nat) (s : State) : unvector (counted cl b s) = unvector s := by
  rw [counted, unvector_spmWait, unvector_bump64]

/-- The beats of a lane instruction advance the pair of counters modulo 2^64 (R249, R275), and VEC_CTRL stays. -/
theorem rd_counted (b : Nat) {cl : Nat} (hcl : cl < 384) (s : State) :
    (rd (counted cl b s) .VEC_BEAT_CNT_LO cl).toNat + 2 ^ 32 * (rd (counted cl b s) .VEC_BEAT_CNT_HI cl).toNat =
      ((rd s .VEC_BEAT_CNT_LO cl).toNat + 2 ^ 32 * (rd s .VEC_BEAT_CNT_HI cl).toNat + b) % 2 ^ 64 ∧
    rd (counted cl b s) .VEC_CTRL cl = rd s .VEC_CTRL cl := by
  obtain ⟨sum, others⟩ := bump64_spec (lo := .VEC_BEAT_CNT_LO) (hi := .VEC_BEAT_CNT_HI) (by decide) b cl (by omega) s
  rw [counted, rd_spmWait _ _ (by decide), rd_spmWait _ _ (by decide), rd_spmWait _ _ (by decide)]
  exact ⟨sum, others .VEC_CTRL cl (by omega) (by simp)⟩

section
variable {op cl n nsrc ndst : Nat} {intOp : Bool} {f : VEnv → Except Nat VRes} {r : VRes} {s : State} (hdbg : undebugged s = true)
  (fires : canFire s op cl n = true) (word : tget 0 s.poisonX (insWord cl (vctxOf s cl n).pc) ≠ 1)
  (sources : ∀ k ∈ insSrcs (insAt s cl n), slotPoisoned s cl (vctxOf s cl n) k = false)
  (dests : ∀ k ∈ laneDsts ndst (insAt s cl n), destConflict s cl (vctxOf s cl n) k = false ∧
    slotDescBad s cl (poolIdx (vctxOf s cl n) k) = false) (result : f (envOf s cl n intOp) = .ok r)
include hdbg fires word sources dests result

/-- A lane instruction whose operands are sound gives its result. -/
theorem lanes_fires : lanes op nsrc ndst intOp f cl n s = applyRes cl n (laneDsts ndst (insAt s cl n)) nsrc r
    (counted cl (beats (envOf s cl n intOp) nsrc ndst) s) := by
  have free : (laneDsts ndst (insAt s cl n)).any (destConflict s cl (vctxOf s cl n)) = false :=
    List.any_eq_false.mpr fun k hk => by simp [(dests k hk).1]
  have sound : (insSrcs (insAt s cl n)).any (slotPoisoned s cl (vctxOf s cl n)) = false :=
    List.any_eq_false.mpr fun k hk => by simp [sources k hk]
  have described : (laneDsts ndst (insAt s cl n)).any (fun d => slotDescBad s cl (poolIdx (vctxOf s cl n) d)) = false :=
    List.any_eq_false.mpr fun k hk => by simp [(dests k hk).2]
  unfold laneDsts at free described ⊢
  simp only [lanes, fires, issueBp_open hdbg word, free, sound, described, result, counted, Bool.not_true, Bool.or_self,
    Bool.false_eq_true, if_false]

end

end Sys2Proof.Machine

namespace Sys2Proof.Machine
open Sys2Proof

/-- What the landing of a result leaves and changes, as a lane instruction claims it. -/
theorem eq_of_lane {s t : State} (h : unvector t = unvector s) (units : t.units = s.units) (free : t.free = s.free + 1) :
    t = { s with mem := t.mem, poison := t.poison, lost := t.lost, vctx := t.vctx, vslots := t.vslots, vheld := t.vheld,
                 vready := t.vready, regs := t.regs, free := s.free + 1, sil := t.sil, out := t.out, fns := t.fns } :=
  (eq_of_unvector h).trans (by rw [units, free])

/-- With no fault at its issue, a lane instruction leaves the state in which its results have landed. -/
theorem exec_lane {c : Nat → Nat → Instr} {op nsrc ndst cl n : Nat} {intOp : Bool} {f : VEnv → Except Nat VRes} {r : VRes} {s : State}
    (dst : ndst = 1 ∨ ndst = 2) (runs : exec (c cl n) s = .next (lanes op nsrc ndst intOp f cl n s)) (hdbg : undebugged s = true)
    (hcl : cl < 384) (fires : canFire s op cl n = true) (word : tget 0 s.poisonX (insWord cl (vctxOf s cl n).pc) ≠ 1)
    (sources : ∀ k ∈ insSrcs (insAt s cl n), slotPoisoned s cl (vctxOf s cl n) k = false)
    (dests : ∀ k ∈ laneDsts ndst (insAt s cl n), destConflict s cl (vctxOf s cl n) k = false ∧
      slotDescBad s cl (poolIdx (vctxOf s cl n) k) = false) (result : f (envOf s cl n intOp) = .ok r)
    (cleanD : 0 < ndst → destRefused s cl (poolIdx (vctxOf s cl n) (insAt s cl n).d) r.d.length = false)
    (cleanC : 1 < ndst → destRefused s cl (poolIdx (vctxOf s cl n) (insAt s cl n).c) r.c.length = false)
    (trap : r.fl.nv = false ∨ rb s .VEC_CTRL 0 cl = false) (held : tget [] s.vheld cl = []) :
    let w := landed cl n ndst nsrc r (counted cl (beats (envOf s cl n intOp) nsrc ndst) s)
    exec (c cl n) s = .next (noteReady cl { w with vheld := tset [] w.vheld cl [] }) := by
  intro w
  have untrapped : (r.fl.nv && rb (counted cl (beats (envOf s cl n intOp) nsrc ndst) s) .VEC_CTRL 0 cl) = false := by
    rw [rb, (rd_counted _ hcl s).2, ← rb]
    rcases trap with h | h <;> simp [h]
  have landing := applyRes_clean (cl := cl) (n := n) (s := counted cl (beats (envOf s cl n intOp) nsrc ndst) s) (nsrc := nsrc) dst
    untrapped (cleanD (by omega)) cleanC
  rw [insAt_counted] at landing
  rw [runs, lanes_fires hdbg fires word sources dests result, landing, releaseHeld_none (by rw [landed_vheld]; exact held)]

/-- A command that runs `lanes` for the words that `ok` admits issues as its function says. -/
theorem laneIssues {c : Nat → Nat → Instr} {op nsrc ndst : Nat} {intOp : Bool} {f : VEnv → Except Nat VRes} {ok : VIns → Bool}
    (dst : ndst = 1 ∨ ndst = 2)
    (runs : ∀ cl n s, ok (insAt s cl n) = true → exec (c cl n) s = .next (lanes op nsrc ndst intOp f cl n s)) :
    LaneIssues c op nsrc ndst intOp f ok := by
  intro cl n r s hdbg hcl fires x i e admitted word sources dests result cleanD cleanC trap held
  have run := exec_lane dst (runs cl n s admitted) hdbg hcl fires word sources dests result cleanD cleanC trap held
  have count := rd_counted (beats e nsrc ndst) hcl s
  have frame := unvector_counted cl (beats e nsrc ndst) s
  have unit : x = vctxOf (counted cl (beats e nsrc ndst) s) cl n ∧ i = insAt (counted cl (beats e nsrc ndst) s) cl n ∧
      ∀ j, slotOf (counted cl (beats e nsrc ndst) s) cl j = slotOf s cl j := ⟨rfl, rfl, fun _ => rfl⟩
  have parts := And.intro (counted_vctx cl (beats e nsrc ndst) s) (And.intro (counted_units cl (beats e nsrc ndst) s)
    (And.intro (counted_free cl (beats e nsrc ndst) s) (sameStore_counted cl (beats e nsrc ndst) s)))
  generalize counted cl (beats e nsrc ndst) s = u at run count frame unit parts
  obtain ⟨hx, hi, slot⟩ := unit
  obtain ⟨vctx, units, free, store⟩ := parts
  have landing := slotOf_landed (cl := cl) (n := n) (s := u) nsrc dst r
  have flags := rb_vecStat_landed (cl := cl) (n := n) (s := u) ndst nsrc r
  have mem := mem_landed (cl := cl) (n := n) (s := u) nsrc r
  have ctx := vctxOf_landed (cl := cl) (n := n) (s := u) ndst nsrc r
  rw [← hx, ← hi] at landing ctx mem
  refine ⟨_, run, eq_of_lane ?_ ?_ ?_, ?_, ?_, ?_, ?_, ?_, ?_, ?_, flags.1, flags.2⟩
  · exact (unvector_landed ..).trans frame
  · exact (landed_units ..).trans units
  · exact (landed_free ..).trans free
  · refine ctx.trans ?_
    rcases r.x with _ | ⟨k, v⟩ <;> rfl
  · exact fun k hk => (tget_vctx_landed_ne (s := u) ndst nsrc r hk).trans (by rw [vctx])
  · intro k hk
    refine (congrArg VSlot.present (landing (poolIdx x k)) :).trans ?_
    rw [if_pos (List.mem_map_of_mem hk), written, ← slot]
    dsimp only
    split
    · rw [(eaten_shape _).2.2.2]
    · rfl
  · intro k hk other bound
    refine (congrArg VSlot.present (landing (poolIdx x k)) :).trans ?_
    rw [if_neg other, if_pos (List.mem_map_of_mem hk), slot, eaten, bound]
    rfl
  · intro j hj
    rw [List.map_append, List.mem_append, not_or] at hj
    refine (landing j).trans ?_
    rw [if_neg hj.1, if_neg hj.2, slot]
  · have first (f : Fmt) (a : Nat) := store.writeElems f a 0 r.d
    refine ⟨fun one => ?_, fun two => ?_⟩
    · subst one
      refine mem.1.trans ?_
      rw [slot]
      exact (first _ _).1
    · subst two
      refine mem.2.trans ?_
      rw [slot, slot]
      exact ((first _ _).writeElems _ _ 0 r.c).1
  · refine Eq.trans ?_ count.1
    show (rd (landed cl n ndst nsrc r u) _ cl).toNat + 2 ^ 32 * (rd (landed cl n ndst nsrc r u) _ cl).toNat = _
    rw [rd_landed _ _ _ _ _ _ (by decide) (by decide) (by decide), rd_landed _ _ _ _ _ _ (by decide) (by decide) (by decide)]

/-! ### The instructions -/

theorem exec_vtopk_values {cl n : Nat} {s : State} (h : (!(toTwos 13 (insAt s cl n).imm).testBit 12) = true) :
    exec (.vtopk cl n) s = .next (lanes 0x34 1 2 true vtopk cl n s) := by
  show execVtopk cl n s = _
  rw [Bool.not_eq_true'] at h
  rw [execVtopk, h]
  rfl

theorem exec_vtopk_indices {cl n : Nat} {s : State} (h : (toTwos 13 (insAt s cl n).imm).testBit 12 = true) :
    exec (.vtopk cl n) s = .next (lanes 0x34 2 2 true vtopk cl n s) := by
  show execVtopk cl n s = _
  rw [execVtopk, h]
  rfl

/-- Settles O10: every lane instruction runs `lanes` with its function, and VTOPK takes B as a source where IMM[12] says so. -/
theorem laneInstructions : Obligations.LaneInstructions := by
  have one : (1 : Nat) = 1 ∨ (1 : Nat) = 2 := .inl rfl
  have two : (2 : Nat) = 1 ∨ (2 : Nat) = 2 := .inr rfl
  unfold Obligations.LaneInstructions
  refine ⟨laneIssues one ?_, laneIssues one ?_, laneIssues one ?_, laneIssues one ?_, laneIssues one ?_, laneIssues one ?_,
    laneIssues one ?_, laneIssues one ?_, laneIssues one ?_, laneIssues one ?_, laneIssues one ?_, laneIssues one ?_,
    laneIssues one ?_, laneIssues one ?_, laneIssues one ?_, laneIssues one ?_, laneIssues one ?_, laneIssues one ?_,
    laneIssues one ?_, laneIssues two ?_, laneIssues one ?_, laneIssues one ?_, laneIssues one ?_, laneIssues one ?_,
    laneIssues one ?_, laneIssues one ?_, laneIssues two fun _ _ _ => exec_vtopk_values, laneIssues two fun _ _ _ => exec_vtopk_indices⟩
  all_goals exact fun _ _ _ _ => rfl

end Sys2Proof.Machine

namespace Sys2Proof.Machine
open Sys2Proof

/-! ### Arrivals at a vector unit (R242 to R246) -/

/-- The slot into which a run of elements has come: PRESENT with the last of them. -/
def arrived (off n : Nat) (x : VSlot) : VSlot :=
  if x.len ≤ (markRun off n x.written).length then { x with present := true, written := [] } else { x with written := markRun off n x.written }

/-- The state in which an arrival's elements stand in its slot. -/
def admitted (cl : Nat) (r : VArr) (s : State) : State :=
  let i := (vctxOf s cl r.ctx).slotBase + r.slot
  let x := slotOf s cl i
  let w := markRun r.off r.vals.length x.written
  modSlot cl i (fun x => if x.len ≤ w.length then { x with present := true, written := [] } else { x with written := w })
    (spmWait cl (writeElems (slotFmt x) (slotAddr cl x) r.off r.vals s))

/-- An arrival none of whose elements has come before, and that no word refuses, is admitted whole. -/
theorem admitArrival_clean {cl : Nat} {r : VArr} {s : State}
    (fresh : ∀ k, k < r.vals.length → tget 0 (slotOf s cl ((vctxOf s cl r.ctx).slotBase + r.slot)).written (r.off + k) = 0)
    (clean : elemsRefused s (slotFmt (slotOf s cl ((vctxOf s cl r.ctx).slotBase + r.slot)))
      (slotAddr cl (slotOf s cl ((vctxOf s cl r.ctx).slotBase + r.slot))) r.off r.vals.length = false) :
    admitArrival cl r s = admitted cl r s := by
  have none_twice : (List.range r.vals.length).any (fun k =>
      tget 0 (slotOf s cl ((vctxOf s cl r.ctx).slotBase + r.slot)).written (r.off + k) != 0) = false :=
    List.any_eq_false.mpr fun k hk => by simp [fresh k (List.mem_range.mp hk)]
  simp only [admitArrival, none_twice, clean, admitted, whenS, Bool.false_eq_true, if_false]

theorem slotOf_admitted (cl : Nat) (r : VArr) (s : State) : let i := (vctxOf s cl r.ctx).slotBase + r.slot
    slotOf (admitted cl r s) cl i = arrived r.off r.vals.length (slotOf s cl i) := by
  intro i
  rw [admitted, slotOf_modSlot, slotOf_congr (t := spmWait cl _) (s := s) (by rw [spmWait_vslots, writeElems_vslots])]
  rfl

theorem tget_vslots_admitted_ne {cl k : Nat} {r : VArr} {s : State} (h : k ≠ slotKey cl ((vctxOf s cl r.ctx).slotBase + r.slot)) :
    tget {} (admitted cl r s).vslots k = tget {} s.vslots k := by
  rw [admitted, tget_vslots_modSlot_ne h, spmWait_vslots, writeElems_vslots]

theorem mem_admitted (cl : Nat) (r : VArr) (s : State) : let x := slotOf s cl ((vctxOf s cl r.ctx).slotBase + r.slot)
    (admitted cl r s).mem = (writeElems (slotFmt x) (slotAddr cl x) r.off r.vals s).mem := by
  intro x
  rw [admitted, modSlot_mem, spmWait_mem]

section
variable (cl : Nat) (r : VArr) (s : State)

theorem unvector_admitted : unvector (admitted cl r s) = unvector s := by
  rw [admitted, unvector_modSlot, unvector_spmWait, unvector_writeElems]

theorem admitted_vctx : (admitted cl r s).vctx = s.vctx := by rw [admitted, modSlot_vctx, spmWait_vctx, writeElems_vctx]
theorem admitted_vheld : (admitted cl r s).vheld = s.vheld := by rw [admitted, modSlot_vheld, spmWait_vheld, writeElems_vheld]
theorem admitted_units : (admitted cl r s).units = s.units := by rw [admitted, modSlot_units, spmWait_units, writeElems_units]
theorem admitted_free : (admitted cl r s).free = s.free + 1 := by rw [admitted, modSlot_free, spmWait_free, writeElems_free]

end

/-- An arrival that another unit sent reaches the unit, unless it would have to be held where no room is. -/
theorem exec_slotArrival_sent {s : State} (hdbg : undebugged s = true) (cl : Nat) {a : VArr} (sent : ∀ e r g f, a.src ≠ .fetch e r g f)
    (room : noRoom s cl a = false) :
    exec (.slotArrival cl a.ctx a.slot a.off a.fmt a.vals a.src) s = .next (noteReady cl (arrive cl { a with pc := 0 } false s)) := by
  obtain ⟨ctx, slot, off, fmt, vals, src, pc⟩ := a
  replace room : noRoom s cl { ctx := ctx, slot := slot, off := off, fmt := fmt, vals := vals, src := src } = false := room
  show execSlotArrival cl ctx slot off fmt vals src s = _
  cases src with
  | fetch e r g f => exact absurd rfl (sent e r g f)
  | acc c p => simp [execSlotArrival, done, withhold_undebugged hdbg, room]
  | vec c n k => simp [execSlotArrival, done, withhold_undebugged hdbg, room]

section
variable {s : State} (hdbg : undebugged s = true) {cl : Nat} (up : unitUp s 3 cl = true) {a : VArr}
  (sent : ∀ e r g f, a.src ≠ .fetch e r g f)
include hdbg up sent

/-- An admissible arrival writes its elements, and makes its slot PRESENT with the last of them. -/
theorem ends_slotArrival_admitted (good : badArrival s cl a = false) (free : holds s cl a = false)
    (fresh : ∀ k, k < a.vals.length → tget 0 (slotOf s cl ((vctxOf s cl a.ctx).slotBase + a.slot)).written (a.off + k) = 0)
    (clean : elemsRefused s (slotFmt (slotOf s cl ((vctxOf s cl a.ctx).slotBase + a.slot)))
      (slotAddr cl (slotOf s cl ((vctxOf s cl a.ctx).slotBase + a.slot))) a.off a.vals.length = false) :
    let i := (vctxOf s cl a.ctx).slotBase + a.slot
    let x := slotOf s cl i
    Ends (.slotArrival cl a.ctx a.slot a.off a.fmt a.vals a.src) s fun t =>
      let w := markRun a.off a.vals.length x.written
      t = { s with mem := t.mem, poison := t.poison, lost := t.lost, vslots := t.vslots, vready := t.vready, regs := t.regs,
                   free := s.free + 1, sil := t.sil, out := t.out, fns := t.fns } ∧
      t.mem = (writeElems (slotFmt x) (slotAddr cl x) a.off a.vals s).mem ∧
      slotOf t cl i = (if x.len ≤ w.length then { x with present := true, written := [] } else { x with written := w }) ∧
      ∀ k, k ≠ slotKey cl i → tget {} t.vslots k = tget {} s.vslots k := by
  intro i x
  have room : noRoom s cl a = false := by simp [noRoom, good, free]
  have comes : arrive cl { a with pc := 0 } false s = admitted cl { a with pc := 0 } s := by
    have good' : badArrival s cl { a with pc := 0 } = false := good
    have free' : holds s cl { a with pc := 0 } = false := free
    rw [arrive, up, good', free']
    exact admitArrival_clean fresh clean
  refine ⟨_, (exec_slotArrival_sent hdbg cl sent room).trans (by rw [comes]), ?_, ?_, ?_, ?_⟩
  · refine (eq_of_unvector (s := s) (by rw [unvector_noteReady, unvector_admitted])).trans ?_
    rw [noteReady_vctx, admitted_vctx]
    have held : (noteReady cl (admitted cl { a with pc := 0 } s)).vheld = s.vheld := admitted_vheld ..
    have units : (noteReady cl (admitted cl { a with pc := 0 } s)).units = s.units := admitted_units ..
    have free : (noteReady cl (admitted cl { a with pc := 0 } s)).free = s.free + 1 := admitted_free ..
    rw [held, units, free]
  · exact mem_admitted cl { a with pc := 0 } s
  · exact slotOf_admitted cl { a with pc := 0 } s
  · exact fun k hk => tget_vslots_admitted_ne (r := { a with pc := 0 }) hk

/-- An arrival whose slot is taken is held behind the others. -/
theorem ends_slotArrival_held (good : badArrival s cl a = false) (taken : holds s cl a = true)
    (room : (tget [] s.vheld cl).length < 64) :
    Ends (.slotArrival cl a.ctx a.slot a.off a.fmt a.vals a.src) s fun t =>
      t = { s with vheld := t.vheld, vready := t.vready } ∧ tget [] t.vheld cl = tget [] s.vheld cl ++ [{ a with pc := 0 }] ∧
      ∀ k, k ≠ cl → tget [] t.vheld k = tget [] s.vheld k := by
  have space : noRoom s cl a = false := by simp [noRoom, room]
  have comes : arrive cl { a with pc := 0 } false s = { s with vheld := tmod [] s.vheld cl (fun l => l ++ [{ a with pc := 0 }]) } := by
    have good' : badArrival s cl { a with pc := 0 } = false := good
    have taken' : holds s cl { a with pc := 0 } = true := taken
    rw [arrive, up, good', taken']
    rfl
  exact ⟨_, (exec_slotArrival_sent hdbg cl sent space).trans (by rw [comes]), rfl,
    tget_tmod_same [] s.vheld cl (fun l => l ++ [{ a with pc := 0 }]), fun k hk => tget_tmod_ne (k := cl) [] s.vheld (fun l => l ++ [{ a with pc := 0 }]) hk⟩

end

/-! An arrival that is refused (R246). -/

/-- The state without what the answer to a refused arrival changes: messages, the statuses of steps, and the pass whose result it was. -/
def unanswered (s : State) : State := { s with out := [], cmds := [], acc := [], poisonX := [], dbg := {} }

theorem unanswered_ackPart (cl part : Nat) (s : State) : unanswered (ackPart cl part s) = unanswered s := by
  unfold ackPart
  split
  · rfl
  · split <;> rfl

theorem ackPart_out (cl part : Nat) (s : State) : (ackPart cl part s).out = s.out := by
  unfold ackPart
  split
  · rfl
  · split <;> rfl

theorem answerRefused_sent {r : VArr} (sent : ∀ e q g f, r.src ≠ .fetch e q g f) (cl status : Nat) (s : State) :
    unanswered (answerRefused cl status r s) = unanswered s ∧
    (answerRefused cl status r s).out = .fabric 3 cl tagRefuse [r.ctx, r.slot, status] :: s.out := by
  unfold answerRefused
  dsimp only
  split
  · split
    · exact ⟨unanswered_ackPart .., ackPart_out ..⟩
    · exact ⟨rfl, rfl⟩
  · exact ⟨rfl, rfl⟩
  · next h => exact absurd h (sent _ _ _ _)

/-- An arrival that is wrong is refused, and shows in VEC_STAT (R246, R274). -/
theorem ends_slotArrival_refused {s : State} (hdbg : undebugged s = true) {cl : Nat} (up : unitUp s 3 cl = true) {a : VArr}
    (sent : ∀ e r g f, a.src ≠ .fetch e r g f) (bad : badArrival s cl a = true) :
    Ends (.slotArrival cl a.ctx a.slot a.off a.fmt a.vals a.src) s fun t =>
      SameMem s t ∧ t.vslots = s.vslots ∧ t.vctx = s.vctx ∧ rb t .VEC_STAT 1 cl = true ∧ Logged 0x0D 9 s t ∧
      Msg.fabric 3 cl tagRefuse [a.ctx, a.slot, 0x15] ∈ t.out := by
  have room : noRoom s cl a = false := by simp [noRoom, bad]
  have comes : arrive cl { a with pc := 0 } false s = refuseArrival cl { a with pc := 0 } s := by
    have bad' : badArrival s cl { a with pc := 0 } = true := bad
    rw [arrive, up, bad']
    rfl
  have run := exec_slotArrival_sent hdbg cl sent room
  obtain ⟨rest, told⟩ := answerRefused_sent (r := { a with pc := 0 }) sent cl stExec (setEv .VEC_STAT 1 cl s)
  rw [comes, refuseArrival] at run
  generalize answerRefused cl stExec { a with pc := 0 } (setEv .VEC_STAT 1 cl s) = u at run rest told
  have logged := logE_reports { cls := 0x0D, code := 9, sev := 3, kind := 3, index := cl, object := a.ctx, data := [a.slot] } u
  refine ⟨_, run, sameMem_of_mem ?_, ?_, ?_, ?_, (logE_logged (s := s) ?_ ?_ ?_).of_sil rfl, logged.sent ?_⟩
  · exact (congrArg State.mem logged.rest :).trans (congrArg State.mem rest :)
  · exact (congrArg State.vslots logged.rest :).trans (congrArg State.vslots rest :)
  · exact (congrArg State.vctx logged.rest :).trans (congrArg State.vctx rest :)
  · refine (rb_logE _ u .VEC_STAT 1 cl (by decide)).trans ?_
    exact (congrArg (rb · .VEC_STAT 1 cl) rest :).trans (rb_setEv_same _ _ _ _ (by decide))
  · exact (congrArg State.now rest :)
  · exact (congrArg silUp rest :)
  · exact (congrArg (·.sil.evq) rest :)
  · rw [told]
    exact List.mem_cons_self

end Sys2Proof.Machine

namespace Sys2Proof.Machine
open Sys2Proof

/-! ### Requests of a context and their answers (R263, R477) -/

/-- The state without what the opening and the end of a request change, beside the record of ready contexts. -/
def unrequested (s : State) : State := { s with vctx := [], units := [], vready := [] }

theorem eq_of_unrequested {s t : State} (h : unrequested t = unrequested s) :
    t = { s with vctx := t.vctx, units := t.units, vready := t.vready } :=
  calc t = { unrequested t with vctx := t.vctx, units := t.units, vready := t.vready } := rfl
    _ = { unrequested s with vctx := t.vctx, units := t.units, vready := t.vready } := by rw [h]

@[simp] theorem unrequested_noteReady (k : Nat) (s : State) : unrequested (noteReady k s) = unrequested s := rfl
@[simp] theorem unrequested_modCtx (cl n : Nat) (f : VCtx → VCtx) (s : State) : unrequested (modCtx cl n f s) = unrequested s := rfl
@[simp] theorem unrequested_modUnit (k i : Nat) (f : FUnit → FUnit) (s : State) : unrequested (modUnit k i f s) = unrequested s := rfl
@[simp] theorem unrequested_issued (cl n next : Nat) (resv : List Nat) (s : State) :
    unrequested (issued cl n next resv s) = unrequested s := rfl
@[simp] theorem unrequested_endReq (cl n rq : Nat) (s : State) : unrequested (endReq cl n rq s) = unrequested s := by
  rw [endReq, closeReq, unrequested_modUnit, unrequested_modCtx]

/-- The requests of a context without those of one number. -/
def requestsBut (rq : Nat) (c : VCtx) : VCtx := { c with fetches := c.fetches.filter (·.rq != rq), sends := c.sends.filter (·.rq != rq) }

theorem endReq_vctx (cl n rq : Nat) (s : State) : (endReq cl n rq s).vctx = (modCtx cl n (requestsBut rq) s).vctx := rfl

theorem vctxOf_endReq (cl n rq : Nat) (s : State) : vctxOf (endReq cl n rq s) cl n = requestsBut rq (vctxOf s cl n) := by
  rw [vctxOf_congr (endReq_vctx ..), vctxOf_modCtx]

theorem tget_vctx_endReq_ne {cl n k : Nat} (h : k ≠ ctxKey cl n) (rq : Nat) (s : State) :
    tget {} (endReq cl n rq s).vctx k = tget {} s.vctx k := by
  rw [endReq_vctx, tget_vctx_modCtx_ne h]

/-- A requester slot that has been answered is closed. -/
theorem closeReq_slot (k i n : Nat) (s : State) : tget {} (unitOf (closeReq k i n s) k i).slots n =
    { gen := ((tget {} (unitOf s k i).slots n).gen + b2n (tget {} (unitOf s k i).slots n).busy) % 256, busy := false } := by
  rw [closeReq, unitOf_modUnit, tget_tmod_same]

theorem endReq_idle (cl n rq : Nat) (s : State) : (tget {} (unitOf (endReq cl n rq s) 3 cl).slots (reqSlot n rq)).busy = false := by
  rw [endReq, closeReq_slot]

/-- A request that opens makes its slot busy. -/
theorem openReq_busy (k i n : Nat) (s : State) : (tget {} (unitOf (openReq k i n s) k i).slots n).busy = true := by
  rw [openReq, unitOf_modUnit, tget_tmod_same]

theorem fetchOf_rq {s : State} {cl n rq : Nat} {f : VReq} (h : fetchOf s cl n rq = some f) : f.rq = rq :=
  beq_iff_eq.mp (List.find?_some (p := fun r : VReq => r.rq == rq) h)

theorem sendOf_rq {s : State} {cl n rq : Nat} {f : VReq} (h : sendOf s cl n rq = some f) : f.rq = rq :=
  beq_iff_eq.mp (List.find?_some (p := fun r : VReq => r.rq == rq) h)

/-! ### A reply that comes too late (R477) -/

theorem lateDrop_reports (k i n : Nat) (s : State) : Reports s (lateDrop k i n s) :=
  ((setEv_reports .RST_STAT 6 0 s).trans (bump_reports .RST_LATE_DROP_CNT 1 0 _)).trans (logE_reports _ _)

theorem rb_rstStat_lateDrop (k i n : Nat) (s : State) : rb (lateDrop k i n s) .RST_STAT 6 = true := by
  rw [lateDrop, rstLog, rb_logE _ _ _ _ _ (by decide), rb, bump, rd_wr_of_ne _ _ (by decide), ← rb]
  exact rb_setEv_same _ _ _ _ (by decide)

theorem rd_lateDrop (k i n : Nat) (s : State) :
    (rd (lateDrop k i n s) .RST_LATE_DROP_CNT).toNat = ((rd s .RST_LATE_DROP_CNT).toNat + 1) % 2 ^ 32 := by
  rw [lateDrop, rstLog, rd_logE _ _ _ _ (by decide), rd_bump_same, setEv, wrf, rd_wr_of_ne _ _ (by decide)]

theorem logged_lateDrop (k i n : Nat) (s : State) : Logged 3 0xA s (lateDrop k i n s) := logE_logged rfl rfl rfl

/-- What a reply changes that matches no open request. -/
theorem lateDrop_spec (cl n : Nat) (s : State) : let t := lateDrop 3 cl n s
    t.vctx = s.vctx ∧ t.vslots = s.vslots ∧ t.units = s.units ∧ SameMem s t ∧ rb t .RST_STAT 6 = true ∧
      (rd t .RST_LATE_DROP_CNT).toNat = ((rd s .RST_LATE_DROP_CNT).toNat + 1) % 2 ^ 32 ∧ Logged 3 0xA s t := by
  have same := (lateDrop_reports 3 cl n s).rest
  exact ⟨(congrArg State.vctx same :), (congrArg State.vslots same :), (congrArg State.units same :),
    sameMem_of_mem (congrArg State.mem same :), rb_rstStat_lateDrop .., rd_lateDrop .., logged_lateDrop ..⟩

/-! ### Acknowledgements and refusals of sends (R263, R270) -/

section
variable {cl n rq gen fgen : Nat} {s : State}

theorem exec_sendAcknowledge_late (late : tagOk s 3 cl (reqSlot n rq) gen fgen = false) :
    exec (.sendAcknowledge cl n rq gen fgen) s = .next (lateDrop 3 cl (reqSlot n rq) s) := by
  show execSendAcknowledge cl n rq gen fgen s = _
  simp [execSendAcknowledge, done, late]

theorem exec_sendRefusal_late (late : tagOk s 3 cl (reqSlot n rq) gen fgen = false) :
    exec (.sendRefusal cl n rq gen fgen) s = .next (lateDrop 3 cl (reqSlot n rq) s) := by
  show execSendRefusal cl n rq gen fgen s = _
  rw [execSendRefusal, done, late]
  split <;> rfl

theorem exec_fetchReply_late (hdbg : undebugged s = true) (late : tagOk s 3 cl (reqSlot n rq) gen fgen = false) (slot off fmt : Nat)
    (vals : List Nat) (err : Bool) :
    exec (.slotArrival cl n slot off fmt vals (.fetch err rq gen fgen)) s = .next (lateDrop 3 cl (reqSlot n rq) s) := by
  show execSlotArrival cl n slot off fmt vals (.fetch err rq gen fgen) s = _
  simp [execSlotArrival, done, withhold_undebugged hdbg, late]

section
variable (tag : tagOk s 3 cl (reqSlot n rq) gen fgen = true) (open_ : (sendOf s cl n rq).isSome = true)
include tag open_

theorem ends_sendAcknowledge : Ends (.sendAcknowledge cl n rq gen fgen) s fun t =>
    t = { s with vctx := t.vctx, units := t.units, vready := t.vready } ∧
      vctxOf t cl n = { vctxOf s cl n with
        fetches := (vctxOf s cl n).fetches.filter (·.rq != rq), sends := (vctxOf s cl n).sends.filter (·.rq != rq) } ∧
      (tget {} (unitOf t 3 cl).slots (reqSlot n rq)).busy = false ∧ ∀ k, k ≠ ctxKey cl n → tget {} t.vctx k = tget {} s.vctx k := by
  have run : exec (.sendAcknowledge cl n rq gen fgen) s = .next (noteReady cl (endReq cl n rq s)) := by
    show execSendAcknowledge cl n rq gen fgen s = _
    rw [execSendAcknowledge, tag, open_]
    rfl
  refine ⟨_, run, eq_of_unrequested (by simp), vctxOf_endReq .., endReq_idle .., fun k hk => ?_⟩
  rw [noteReady_vctx, tget_vctx_endReq_ne hk]

/-- A refused send faults its context with 0x08, and shows in VEC_STAT[2] (R263, R270, R274). -/
theorem ends_sendRefusal (busy : (vctxOf s cl n).state ≠ 0) : Ends (.sendRefusal cl n rq gen fgen) s fun t =>
    (vctxOf t cl n).state = 5 ∧ (vctxOf t cl n).fault = 0x08 ∧
      (vctxOf t cl n).sends = (vctxOf s cl n).sends.filter (·.rq != rq) ∧ rb t .VEC_STAT 2 cl = true ∧
      rb t .VEC_STAT 0 cl = true ∧ Logged 0x0D 8 s t ∧ SameMem s t ∧ t.vslots = s.vslots := by
  obtain ⟨r, hr⟩ := Option.isSome_iff_exists.mp open_
  have run : exec (.sendRefusal cl n rq gen fgen) s =
      .next (noteReady cl (ctxFault cl n fRefused r.pc (setEv .VEC_STAT 2 cl (endReq cl n rq s)))) := by
    show execSendRefusal cl n rq gen fgen s = _
    rw [execSendRefusal, hr]
    simp only [tag, done, failSend, sendOf_rq hr, if_true]
  have ctx : vctxOf (setEv .VEC_STAT 2 cl (endReq cl n rq s)) cl n = requestsBut rq (vctxOf s cl n) := vctxOf_endReq ..
  have rest : unrequested (endReq cl n rq s) = unrequested s := unrequested_endReq ..
  have set2 : rb (setEv .VEC_STAT 2 cl (endReq cl n rq s)) .VEC_STAT 2 cl = true := rb_setEv_same _ _ _ _ (by decide)
  have vslots : (setEv .VEC_STAT 2 cl (endReq cl n rq s)).vslots = s.vslots := (congrArg State.vslots rest :)
  have mem : (setEv .VEC_STAT 2 cl (endReq cl n rq s)).mem = s.mem := (congrArg State.mem rest :)
  have now : (setEv .VEC_STAT 2 cl (endReq cl n rq s)).now = s.now := (congrArg State.now rest :)
  have sil : (setEv .VEC_STAT 2 cl (endReq cl n rq s)).sil = s.sil := (congrArg State.sil rest :)
  generalize setEv .VEC_STAT 2 cl (endReq cl n rq s) = u at run ctx set2 vslots mem now sil
  have busy' : (vctxOf u cl n).state ≠ 0 := by rw [ctx]; exact busy
  have faulted := vctxOf_ctxFault busy' fRefused r.pc
  rw [ctx] at faulted
  have left := unfaulted_ctxFault cl n fRefused r.pc u
  have up : silUp u = silUp s := by rw [silUp, sil, silUp]
  refine ⟨_, run, (congrArg VCtx.state faulted :), (congrArg VCtx.fault faulted :), (congrArg VCtx.sends faulted :), ?_,
    rb_vecStat_ctxFault_zero busy' _ _, (logged_ctxFault busy' _ _ now up (by rw [sil])).of_sil rfl, sameMem_of_mem ?_, ?_⟩
  · exact (rb_vecStat_ctxFault_ne busy' _ _ (by decide)).trans set2
  · exact (congrArg State.mem left :).trans mem
  · exact (congrArg State.vslots left :).trans vslots

end

end

/-! ### The data of a VFETCH (R242, R265) -/

theorem tins_length_of_gt {α : Type} (m : Tab α) {i : Nat} (h : ∀ e ∈ m, e.1 < i) (v : α) :
    (tins m i v).length = m.length + 1 ∧ ∀ e ∈ tins m i v, e.1 < i + 1 := by
  induction m with
  | nil => simp [tins]
  | cons e m ih =>
    obtain ⟨k, w⟩ := e
    have hk : k < i := h (k, w) List.mem_cons_self
    obtain ⟨len, below⟩ := ih fun e he => h e (List.mem_cons_of_mem _ he)
    rw [tins, if_pos hk]
    refine ⟨by simp [len], fun e he => ?_⟩
    rcases List.mem_cons.mp he with rfl | he
    · exact Nat.lt_succ_of_lt hk
    · exact below e he

/-- A run beyond all elements that have come adds its whole length. -/
theorem markRun_length (i n : Nat) (m : Tab Nat) (h : ∀ e ∈ m, e.1 < i) : (markRun i n m).length = m.length + n := by
  induction n generalizing i m with
  | zero => rfl
  | succ n ih =>
    obtain ⟨len, below⟩ := tins_length_of_gt m h 1
    rw [markRun, ih _ _ below, len]
    omega

/-- A run of all elements fills an empty slot. -/
theorem arrived_all {x : VSlot} (h : x.written = []) : arrived 0 x.len x = { x with present := true, written := [] } := by
  rw [arrived, h, if_pos (by rw [markRun_length 0 x.len [] (by simp)]; simp)]

/-- The unit when the answer to a VFETCH has ended its request. -/
def answered (cl n rq addr : Nat) (s : State) : State := endReq cl n rq (spmTouch addr s)

section
variable (cl n rq addr : Nat) (s : State)

theorem unrequested_answered : unrequested (answered cl n rq addr s) = unrequested (spmTouch addr s) := unrequested_endReq ..

theorem unvector_answered : unvector (answered cl n rq addr s) = unvector s :=
  (congrArg unvector (unrequested_answered cl n rq addr s) :).trans (congrArg unvector (unwaited_spmTouch addr s) :)

theorem answered_vctx : (answered cl n rq addr s).vctx = (modCtx cl n (requestsBut rq) s).vctx := by
  rw [answered, endReq_vctx]
  exact congrArg (tmod {} · (ctxKey cl n) (requestsBut rq)) (congrArg State.vctx (unwaited_spmTouch addr s) :)

theorem vctxOf_answered : vctxOf (answered cl n rq addr s) cl n = requestsBut rq (vctxOf s cl n) := by
  rw [vctxOf_congr (answered_vctx ..), vctxOf_modCtx]

theorem answered_vslots : (answered cl n rq addr s).vslots = s.vslots :=
  (congrArg State.vslots (unrequested_answered cl n rq addr s) :).trans (congrArg State.vslots (unwaited_spmTouch addr s) :)

theorem answered_vheld : (answered cl n rq addr s).vheld = s.vheld :=
  (congrArg State.vheld (unrequested_answered cl n rq addr s) :).trans (congrArg State.vheld (unwaited_spmTouch addr s) :)

theorem answered_poisonX : (answered cl n rq addr s).poisonX = s.poisonX :=
  (congrArg State.poisonX (unrequested_answered cl n rq addr s) :).trans (congrArg State.poisonX (unwaited_spmTouch addr s) :)

theorem sameStore_answered : SameStore s (answered cl n rq addr s) :=
  ⟨(congrArg State.mem (unrequested_answered cl n rq addr s) :).trans (congrArg State.mem (unwaited_spmTouch addr s) :),
    (congrArg State.poison (unrequested_answered cl n rq addr s) :).trans (congrArg State.poison (unwaited_spmTouch addr s) :)⟩

/-- Whether an arrival for the context is admissible, and has to be held, does not depend on its requests. -/
theorem badArrival_answered {r : VArr} (own : r.ctx = n) : badArrival (answered cl n rq addr s) cl r = badArrival s cl r := by
  subst own
  simp only [badArrival, vctxOf_answered, requestsBut, slotOf_congr (answered_vslots cl r.ctx rq addr s), slotDescBad, answered_poisonX]

theorem holds_answered {r : VArr} (own : r.ctx = n) : holds (answered cl n rq addr s) cl r = holds s cl r := by
  subst own
  simp only [holds, mustHold, vctxOf_answered, requestsBut, slotOf_congr (answered_vslots cl r.ctx rq addr s), answered_vheld]

end

section
variable {cl n rq gen fgen : Nat} {f : VReq} {s : State}

/-- The data of a VFETCH whose tag matches, from a sound place and with a free slot, are admitted. -/
theorem exec_fetchReply (hdbg : undebugged s = true) (tag : tagOk s 3 cl (reqSlot n rq) gen fgen = true)
    (named : fetchOf s cl n rq = some f)
    (reached : dieDown s (cl / 48) f.addr (elemBytes (slotFmt (slotOf s cl (poolIdx (vctxOf s cl n) f.slot)))
      (slotOf s cl (poolIdx (vctxOf s cl n) f.slot)).len) = false)
    (sound : anyPoison s f.addr (elemBytes (slotFmt (slotOf s cl (poolIdx (vctxOf s cl n) f.slot)))
      (slotOf s cl (poolIdx (vctxOf s cl n) f.slot)).len) = false)
    (good : badArrival s cl (fetched s cl n f) = false) (free : holds s cl (fetched s cl n f) = false) (slot off fmt : Nat)
    (vals : List Nat) : exec (.slotArrival cl n slot off fmt vals (.fetch false rq gen fgen)) s =
      .next (noteReady cl (admitArrival cl (fetched s cl n f) (answered cl n rq f.addr s))) := by
  have room : noRoom s cl (fetched s cl n f) = false := by simp [noRoom, free]
  have comes : arrive cl (fetched s cl n f) true (answered cl n rq f.addr s) =
      admitArrival cl (fetched s cl n f) (answered cl n rq f.addr s) := by
    have good' := (badArrival_answered cl n rq f.addr s (r := fetched s cl n f) rfl).trans good
    have free' := (holds_answered cl n rq f.addr s (r := fetched s cl n f) rfl).trans free
    rw [arrive, good', free']
    rfl
  rw [answered] at comes ⊢
  show execSlotArrival cl n slot off fmt vals (.fetch false rq gen fgen) s = _
  simp [execSlotArrival, done, withhold_undebugged hdbg, tag, named, takeFetch, reached, sound, room, fetchOf_rq named, comes]

end

end Sys2Proof.Machine

namespace Sys2Proof.Machine
open Sys2Proof

section
variable {cl n rq gen fgen : Nat} {f : VReq} {s : State}

/-- The data of a VFETCH end it and fill its slot (R242). -/
theorem ends_fetchReply (hdbg : undebugged s = true) (tag : tagOk s 3 cl (reqSlot n rq) gen fgen = true)
    (named : fetchOf s cl n rq = some f) (slot off fmt : Nat) (vals : List Nat) :
    let c := vctxOf s cl n
    let r := fetched s cl n f
    let i := poolIdx c f.slot
    let x := slotOf s cl i
    let len := elemBytes (slotFmt x) x.len
    dieDown s (cl / 48) f.addr len = false → anyPoison s f.addr len = false → badArrival s cl r = false → holds s cl r = false →
    x.written = [] → elemsRefused s (slotFmt x) (slotAddr cl x) 0 x.len = false →
    Ends (.slotArrival cl n slot off fmt vals (.fetch false rq gen fgen)) s fun t =>
      t = { s with mem := t.mem, poison := t.poison, lost := t.lost, vslots := t.vslots, vctx := t.vctx, units := t.units,
                   vready := t.vready, regs := t.regs, free := t.free, sil := t.sil, out := t.out, fns := t.fns } ∧
      vctxOf t cl n = { c with fetches := c.fetches.filter (·.rq != rq), sends := c.sends.filter (·.rq != rq) } ∧
      (tget {} (unitOf t 3 cl).slots (reqSlot n rq)).busy = false ∧
      t.mem = (writeElems (slotFmt x) (slotAddr cl x) 0
        ((List.range x.len).map (elemAt (slotFmt x) fun k => rdByte s (f.addr + k))) s).mem ∧
      slotOf t cl i = { x with present := true, written := [] } ∧
      (∀ k, k ≠ slotKey cl i → tget {} t.vslots k = tget {} s.vslots k) := by
  intro c r i x len reached sound good free empty clean
  have run := exec_fetchReply hdbg tag named reached sound good free slot off fmt vals
  have ctx := vctxOf_answered cl n rq f.addr s
  have store := sameStore_answered cl n rq f.addr s
  have vslots := answered_vslots cl n rq f.addr s
  have held := answered_vheld cl n rq f.addr s
  have frame := unvector_answered cl n rq f.addr s
  have idle : (tget {} (unitOf (answered cl n rq f.addr s) 3 cl).slots (reqSlot n rq)).busy = false := endReq_idle ..
  generalize answered cl n rq f.addr s = u at run ctx store vslots held frame idle
  have own : (vctxOf u cl r.ctx).slotBase + r.slot = i := by
    show (vctxOf u cl n).slotBase + f.slot = i
    rw [ctx]
    rfl
  have slot : slotOf u cl i = x := slotOf_congr vslots cl i
  have vals_length : r.vals.length = x.len := by simp [r, fetched, x, i, c]
  have off_zero : r.off = 0 := rfl
  have whole : admitArrival cl r u = admitted cl r u := by
    refine admitArrival_clean (fun k _ => ?_) ?_
    · rw [own, slot, empty]
      rfl
    · rw [own, slot, vals_length, elemsRefused, store.2, ← elemsRefused]
      exact clean
  rw [whole] at run
  have spec : slotOf (admitted cl r u) cl ((vctxOf u cl r.ctx).slotBase + r.slot) =
      arrived r.off r.vals.length (slotOf u cl ((vctxOf u cl r.ctx).slotBase + r.slot)) := slotOf_admitted cl r u
  have others := fun k hk => tget_vslots_admitted_ne (cl := cl) (k := k) (r := r) (s := u) hk
  have stored : (admitted cl r u).mem = (writeElems (slotFmt (slotOf u cl ((vctxOf u cl r.ctx).slotBase + r.slot)))
      (slotAddr cl (slotOf u cl ((vctxOf u cl r.ctx).slotBase + r.slot))) r.off r.vals u).mem := mem_admitted cl r u
  rw [own, slot, vals_length, off_zero, arrived_all empty] at spec
  rw [own, slot, off_zero] at stored
  rw [own] at others
  have hvctx := admitted_vctx cl r u
  have hheld := admitted_vheld cl r u
  have hunits := admitted_units cl r u
  have hframe := unvector_admitted cl r u
  generalize admitted cl r u = t at run spec others stored hvctx hheld hunits hframe
  refine ⟨_, run, ?_, ?_, ?_, ?_, spec, fun k hk => (others k hk).trans (by rw [vslots])⟩
  · refine (eq_of_unvector (s := s) (by rw [unvector_noteReady, hframe, frame])).trans ?_
    rw [show (noteReady cl t).vheld = s.vheld from hheld.trans held]
  · exact (vctxOf_congr hvctx cl n).trans ctx
  · rw [unitOf, show (noteReady cl t).units = u.units from hunits, ← unitOf]
    exact idle
  · exact stored.trans (store.writeElems _ _ _ _).1

end

/-! ### Transfers (R251, R255, R263) -/

theorem openFetch_vctx (cl n : Nat) (r : VReq) (s : State) :
    (openFetch cl n r s).vctx = (modCtx cl n (fun c => { c with fetches := c.fetches ++ [r] }) s).vctx := rfl

/-- What a write of one element leaves. -/
theorem writeElem_rest (f : Fmt) (base i v : Nat) (s : State) : let t := writeElem f base i v s
    t.vctx = s.vctx ∧ t.vslots = s.vslots ∧ t.vheld = s.vheld ∧ t.units = s.units ∧ t.free = s.free ∧ unvector t = unvector s :=
  ⟨writeElem_frame _ vctx_wrBytes .., writeElem_frame _ vslots_wrBytes .., writeElem_frame _ vheld_wrBytes ..,
    writeElem_frame _ units_wrBytes .., writeElem_frame _ free_wrBytes .., writeElem_frame _ unvector_wrBytes ..⟩

section
variable {cl n : Nat} {s : State} (hdbg : undebugged s = true) (word : tget 0 s.poisonX (insWord cl (vctxOf s cl n).pc) ≠ 1)
include hdbg word

/-- VFETCH of an admissible range opens a request (R255). -/
theorem ends_vfetch (fires : canFire s 0x40 cl n = true) :
    let c := vctxOf s cl n
    let i := insAt s cl n
    let d := slotOf s cl (poolIdx c i.d)
    let at_ := xAddr c i
    slotDescBad s cl (poolIdx c i.d) = false → slotFmt d ≠ .e8m0 →
    judge s (.inPt (ptOfCl s cl)) at_ (elemBytes (slotFmt d) d.len) = none →
    Ends (.vfetch cl n) s fun t => t = { s with vctx := t.vctx, units := t.units, vready := t.vready } ∧
      vctxOf t cl n = { c with state := 3, next := c.pc + 1, resv := [],
                               fetches := c.fetches ++ [{ rq := freeRq c, pc := c.pc, slot := i.d, addr := at_ }] } ∧
      (tget {} (unitOf t 3 cl).slots (reqSlot n (freeRq c))).busy = true := by
  intro c i d at_ sound scaled admitted
  have run : exec (.vfetch cl n) s = .next (noteReady cl (issued cl n (c.pc + 1) []
      (openFetch cl n { rq := freeRq c, pc := c.pc, slot := i.d, addr := at_ } s))) := by
    show execVfetch cl n s = _
    have takes : noScale d = true := by simpa [noScale] using scaled
    simp only [execVfetch, done, fires, issueBp_open hdbg word, accessBp_undebugged hdbg (show (2 : Nat) ≠ 0 by decide)]
    simp only [c, i, d, at_] at sound admitted takes ⊢
    simp [sound, admitted, takes]
  refine ⟨_, run, eq_of_unrequested ?_, ?_, openReq_busy ..⟩
  · rw [unrequested_noteReady, unrequested_issued, openFetch, openReq, unrequested_modUnit, unrequested_modCtx]
  · rw [vctxOf_noteReady, vctxOf_issued, vctxOf_congr (openFetch_vctx ..), vctxOf_modCtx]

/-- ASWAP of an adapter of the image issues (R264). -/
theorem ends_aswap (fires : canFire s 0x67 cl n = true)
    (known : ∃ a ∈ (imgOf s (vctxOf s cl n).im).adapters, a.index = xreg (vctxOf s cl n) (insAt s cl n).xa) :
    Ends (.aswap cl n) s fun t => t = { s with vctx := t.vctx, vready := t.vready } ∧
      vctxOf t cl n = { vctxOf s cl n with state := 3, next := (vctxOf s cl n).pc + 1, resv := [] } := by
  have run : exec (.aswap cl n) s = .next (noteReady cl (issued cl n ((vctxOf s cl n).pc + 1) [] s)) := by
    show execAswap cl n s = _
    have named : (imgOf s (vctxOf s cl n).im).adapters.any (fun a => a.index == xreg (vctxOf s cl n) (insAt s cl n).xa) = true := by
      obtain ⟨a, ha, hi⟩ := known
      exact List.any_eq_true.mpr ⟨a, ha, beq_iff_eq.mpr hi⟩
    simp only [execAswap, done, fires, issueBp_open hdbg word, named, Bool.not_true, Bool.false_eq_true, if_false]
  exact ⟨_, run, eq_of_unissued (by simp), by rw [vctxOf_noteReady, vctxOf_issued]⟩

/-- SPUT writes one element, and PRESENT of its slot stays as it was (R245, R255). -/
theorem ends_sput (fires : canFire s 0x45 cl n = true) :
    let c := vctxOf s cl n
    let i := insAt s cl n
    let d := slotOf s cl (poolIdx c i.d)
    slotDescBad s cl (poolIdx c i.d) = false → destConflict s cl c i.d = false →
    slotFmt d ≠ .e8m0 → xreg c i.xb < d.len → elemsRefused s (slotFmt d) (slotAddr cl d) (xreg c i.xb) 1 = false →
    Ends (.sput cl n) s fun t =>
      t = { s with vctx := t.vctx, vready := t.vready, mem := t.mem, poison := t.poison, lost := t.lost, regs := t.regs,
                   free := s.free + 1, sil := t.sil, out := t.out, fns := t.fns } ∧
      vctxOf t cl n = { c with state := 3, next := c.pc + 1, resv := [poolIdx c i.d] } ∧
      t.mem = (writeElem (slotFmt d) (slotAddr cl d) (xreg c i.xb) (xreg c i.xa % 2 ^ (slotFmt d).width) s).mem := by
  intro c i d sound unused scaled inside clean
  have run : exec (.sput cl n) s = .next (noteReady cl (issued cl n (c.pc + 1) [poolIdx c i.d]
      (writeElem (slotFmt d) (slotAddr cl d) (xreg c i.xb) (xreg c i.xa % 2 ^ (slotFmt d).width) (spmWait cl s)))) := by
    show execSput cl n s = _
    have takes : noScale d = true := by simpa [noScale] using scaled
    simp only [execSput, done, fires, issueBp_open hdbg word]
    simp only [c, i, d] at sound unused inside clean takes ⊢
    simp [sound, unused, takes, not_le.mpr inside, clean, whenS]
  have store : SameStore s (spmWait cl s) := ⟨rfl, rfl⟩
  have mem := (store.writeElem (slotFmt d) (slotAddr cl d) (xreg c i.xb) (xreg c i.xa % 2 ^ (slotFmt d).width)).1
  obtain ⟨vctx, vslots, vheld, units, free, frame⟩ :=
    writeElem_rest (slotFmt d) (slotAddr cl d) (xreg c i.xb) (xreg c i.xa % 2 ^ (slotFmt d).width) (spmWait cl s)
  generalize writeElem (slotFmt d) (slotAddr cl d) (xreg c i.xb) (xreg c i.xa % 2 ^ (slotFmt d).width) (spmWait cl s) = u at *
  refine ⟨_, run, ?_, ?_, mem⟩
  · refine (eq_of_unvector (s := s) (by rw [unvector_noteReady, unvector_issued, frame, unvector_spmWait])).trans ?_
    have h1 : (noteReady cl (issued cl n (c.pc + 1) [poolIdx c i.d] u)).vslots = s.vslots := vslots
    have h2 : (noteReady cl (issued cl n (c.pc + 1) [poolIdx c i.d] u)).vheld = s.vheld := vheld
    have h3 : (noteReady cl (issued cl n (c.pc + 1) [poolIdx c i.d] u)).units = s.units := units
    have h4 : (noteReady cl (issued cl n (c.pc + 1) [poolIdx c i.d] u)).free = s.free + 1 := free
    rw [h1, h2, h3, h4]
  · rw [vctxOf_noteReady, vctxOf_issued, vctxOf_congr vctx]
    rfl

end

end Sys2Proof.Machine

namespace Sys2Proof.Machine
open Sys2Proof

/-! ### The places of the package and what guards them (R278, R290, R479) -/

/-- Two states agree on what decides whether a place can be reached: the dies, the split, the power, the fences and the crossings. -/
structure SamePlaces (s t : State) : Prop where
  fuses : t.fuses = s.fuses
  pd : t.pd = s.pd
  hbm : t.hbm = s.hbm
  split : rd t .RST_SPLIT 0 = rd s .RST_SPLIT 0
  crossings : t.crossings = s.crossings
  units : ∀ k i, (unitOf t k i).fence = (unitOf s k i).fence ∧ (unitOf t k i).inReset = (unitOf s k i).inReset

theorem SamePlaces.refl (s : State) : SamePlaces s s := ⟨rfl, rfl, rfl, rfl, rfl, fun _ _ => ⟨rfl, rfl⟩⟩

theorem SamePlaces.trans {s t u : State} (h : SamePlaces s t) (g : SamePlaces t u) : SamePlaces s u :=
  ⟨g.fuses.trans h.fuses, g.pd.trans h.pd, g.hbm.trans h.hbm, g.split.trans h.split, g.crossings.trans h.crossings,
    fun k i => ⟨(g.units k i).1.trans (h.units k i).1, (g.units k i).2.trans (h.units k i).2⟩⟩

/-- A change of nothing but registers, memory and what else an instruction can change keeps the places, where the split and the units stay. -/
theorem samePlaces_of_unvector {s t : State} (h : unvector t = unvector s) (split : rd t .RST_SPLIT 0 = rd s .RST_SPLIT 0)
    (units : t.units = s.units) : SamePlaces s t :=
  ⟨(congrArg State.fuses h :), (congrArg State.pd h :), (congrArg State.hbm h :), split, (congrArg State.crossings h :),
    fun k i => by simp only [unitOf, units, and_self]⟩

section
variable {s t : State} (h : SamePlaces s t)
include h

theorem SamePlaces.dieOn_eq : dieOn t = dieOn s := funext fun d => by simp only [dieOn, h.fuses]

theorem SamePlaces.splitN_eq : splitN t = splitN s := by rw [splitN, rf, h.split, ← rf, ← splitN]

theorem SamePlaces.ptOfUnit_eq : ptOfUnit t = ptOfUnit s := by
  have absent : ptAbsent t = ptAbsent s := funext fun d => by rw [ptAbsent, h.splitN_eq, h.dieOn_eq, ← ptAbsent]
  have die : ptOfDie t = ptOfDie s := funext fun d => by rw [ptOfDie, h.splitN_eq, ← ptOfDie]
  have group : ptOfGroup t = ptOfGroup s := funext fun g => by rw [ptOfGroup, die, absent, ← ptOfGroup]
  funext k i
  rw [ptOfUnit, die, group, ← ptOfUnit]

theorem SamePlaces.unitUp_eq : unitUp t = unitUp s := by
  funext k i
  have fence (k i : Nat) := (h.units k i).1
  have reset (k i : Nat) := (h.units k i).2
  simp only [unitUp, unitPowered, digOn, pdOn, fenced, inReset, containers, h.dieOn_eq, h.pd, h.ptOfUnit_eq, fence, reset]

theorem SamePlaces.placeDown_eq : placeDown t = placeDown s := by
  funext p
  have via : viaDie t = viaDie s := funext fun k => by simp only [viaDie, h.dieOn_eq]
  cases p <;> simp only [placeDown, guardOf, h.unitUp_eq, h.hbm, via]

theorem SamePlaces.firstDown_eq (a n : Nat) : firstDown t a n = firstDown s a n := by simp only [firstDown, h.placeDown_eq]

theorem SamePlaces.wayClosed_eq (d : Nat) (p : Place) : wayClosed t d p = wayClosed s d p := by
  rw [wayClosed, wayTo_congr h.fuses, wayClosed]
  simp only [xOf, h.crossings]

end

/-! What the steps of a transfer keep. -/

theorem samePlaces_spmWait (cl : Nat) (s : State) : SamePlaces s (spmWait cl s) :=
  samePlaces_of_unvector (unvector_spmWait ..) (rd_spmWait _ _ (by decide) _) rfl

theorem samePlaces_writeElems (f : Fmt) (base i : Nat) (vals : List Nat) (s : State) : SamePlaces s (writeElems f base i vals s) :=
  samePlaces_of_unvector (unvector_writeElems ..) (rd_writeElems _ _ _ _ _ (by decide) (by decide) _) (writeElems_units ..)

theorem unitOf_modUnit_any (k i : Nat) (f : FUnit → FUnit) (s : State) (k' i' : Nat) :
    unitOf (modUnit k i f s) k' i' = if ukey k' i' = ukey k i then f (unitOf s k' i') else unitOf s k' i' := by
  split
  next h => rw [unitOf, modUnit, h, tget_tmod_same, ← h, ← unitOf]
  next h => exact tget_tmod_ne _ _ _ h

theorem samePlaces_openReq (k i n : Nat) (s : State) : SamePlaces s (openReq k i n s) := by
  refine ⟨rfl, rfl, rfl, rfl, rfl, fun k' i' => ?_⟩
  rw [openReq, unitOf_modUnit_any]
  split <;> exact ⟨rfl, rfl⟩

theorem samePlaces_modCtx (cl n : Nat) (f : VCtx → VCtx) (s : State) : SamePlaces s (modCtx cl n f s) :=
  ⟨rfl, rfl, rfl, rfl, rfl, fun _ _ => ⟨rfl, rfl⟩⟩

theorem samePlaces_emit (m : Msg) (s : State) : SamePlaces s (emit m s) := ⟨rfl, rfl, rfl, rfl, rfl, fun _ _ => ⟨rfl, rfl⟩⟩

theorem samePlaces_openSend (cl n addr : Nat) (s : State) : SamePlaces s (openSend cl n addr s) :=
  (samePlaces_modCtx ..).trans (samePlaces_openReq ..)

theorem openSend_vctx (cl n addr : Nat) (s : State) : (openSend cl n addr s).vctx = (modCtx cl n (fun c =>
    { c with sends := c.sends ++ [{ rq := freeRq (vctxOf s cl n), pc := (vctxOf s cl n).pc, addr := addr }] }) s).vctx := rfl

theorem vctxOf_openSend (cl n addr : Nat) (s : State) : vctxOf (openSend cl n addr s) cl n = { vctxOf s cl n with
    sends := (vctxOf s cl n).sends ++ [{ rq := freeRq (vctxOf s cl n), pc := (vctxOf s cl n).pc, addr := addr }] } := by
  rw [vctxOf_congr (openSend_vctx ..), vctxOf_modCtx]

theorem unvector_openSend (cl n addr : Nat) (s : State) : unvector (openSend cl n addr s) = unvector s := by
  rw [openSend, openReq, unvector_modUnit, unvector_modCtx]

theorem unrequested_openSend (cl n addr : Nat) (s : State) : unrequested (openSend cl n addr s) = unrequested s := by
  rw [openSend, openReq, unrequested_modUnit, unrequested_modCtx]

/-- A write clears poison and adds none. -/
theorem wrBytes_poison_subset (a : Nat) (xs : List Byte) (s : State) : (wrBytes a xs s).poison ⊆ s.poison := by
  rw [wrBytes_poison]
  exact fun _ he => List.mem_of_mem_filter he

theorem foldS_poison_subset {β : Type} {f : β → State → State} (h : ∀ x s, (f x s).poison ⊆ s.poison) (xs : List β) (s : State) :
    (foldS xs f s).poison ⊆ s.poison := by
  unfold foldS
  induction xs generalizing s with
  | nil => exact List.Subset.refl _
  | cons x xs ih => exact List.Subset.trans (ih _) (h x s)

theorem writeElem_poison_subset (f : Fmt) (base i v : Nat) (s : State) : (writeElem f base i v s).poison ⊆ s.poison := by
  unfold writeElem
  split <;> exact wrBytes_poison_subset ..

theorem writeElems_poison_subset (f : Fmt) (base i : Nat) (vals : List Nat) (s : State) :
    (writeElems f base i vals s).poison ⊆ s.poison := by
  unfold writeElems
  split
  · exact List.Subset.refl _
  · split
    · refine List.Subset.trans (foldS_poison_subset (fun v s => writeElem_poison_subset f base _ v s) _ _) (List.Subset.trans ?_
        (foldS_poison_subset (fun v s => writeElem_poison_subset f base i v s) (vals.take (i % 2)) s))
      unfold whenS
      split
      · exact wrBytes_poison_subset ..
      · exact List.Subset.refl _
    · exact wrBytes_poison_subset ..

theorem wrRefused_subset {s t : State} (h : t.poison ⊆ s.poison) {a n : Nat} (clean : wrRefused s a n = false) : wrRefused t a n = false := by
  rw [wrRefused, List.any_eq_false] at clean ⊢
  exact fun e he => clean e (h he)

/-! ### The copies of a send (R263, R265) -/

/-- The message in which a copy of a send leaves. -/
def copyMsg (cl n off : Nat) (o : Opnd) (w : Nat) : Msg :=
  .fabric 3 cl tagSend ([n, w % 16, bitsOf w 12 4] ++ addrParts w ++ [off] ++ o.vals)

/-- The elements of a copy of kind 1 in the scratchpad that it names; a copy of another kind is not written. -/
def copyStored (off : Nat) (o : Opnd) (w : Nat) (s : State) : State :=
  whenS (w % 16 == 1) (fun s => spmWait (bitsOf w 12 4)
    (writeElems o.fmt (scratchBase (bitsOf w 12 4) + bitsOf w 31 13 * 8) off o.vals s)) s

/-- The status of a copy, from what it sends. -/
def statusOf (s : State) (cl off : Nat) (o : Opnd) (w : Nat) : Nat :=
  let a := bitsOf w 31 13 * 8
  let b := a + off * o.fmt.width / 8
  copyStatus s cl w b (a + ((off + o.vals.length) * o.fmt.width + 7) / 8 - b)

theorem copyStatus_wayClosed {s : State} {cl w a n : Nat} (h : copyStatus s cl w a n = 0) :
    wayClosed s (cl / 48) (.scratch (bitsOf w 12 4)) = false := by
  by_contra closed
  rw [Bool.not_eq_false] at closed
  simp [copyStatus, closed, stFenced] at h

/-- What lets a copy leave stays where the places stay and no poison comes. -/
theorem copyStatus_kept {s t : State} (places : SamePlaces s t) (poison : t.poison ⊆ s.poison) {cl w a n : Nat}
    (h : copyStatus s cl w a n = 0) : copyStatus t cl w a n = 0 := by
  unfold copyStatus at h ⊢
  dsimp only at h ⊢
  rw [places.wayClosed_eq, places.placeDown_eq]
  have clean : wrRefused s (scratchBase (bitsOf w 12 4) + a) n = false → wrRefused t (scratchBase (bitsOf w 12 4) + a) n = false :=
    wrRefused_subset poison
  split_ifs at h ⊢ <;> simp_all [stMemory]

/-- A copy that nothing refuses is stored, opens a request and leaves. -/
theorem sendCopy_clean {cl n off : Nat} {o : Opnd} {w : Nat} {s : State} (h : statusOf s cl off o w = 0) :
    sendCopy cl n off o w s = emit (copyMsg cl n off o w) (openSend cl n (scratchBase (bitsOf w 12 4)) (copyStored off o w s)) := by
  have way := copyStatus_wayClosed h
  unfold statusOf at h
  dsimp only at h
  simp [sendCopy, h, way, whenS, copyStored, copyMsg, stExec]

/-- What copies of the words `ws` that nothing refuses change. -/
structure CopiesSent (cl n off : Nat) (o : Opnd) (ws : List Nat) (s t : State) : Prop where
  places : SamePlaces s t
  poison : t.poison ⊆ s.poison
  rest : unvector t = unvector s
  vslots : t.vslots = s.vslots
  vheld : t.vheld = s.vheld
  ctx : ∃ l : List VReq, vctxOf t cl n = { vctxOf s cl n with sends := (vctxOf s cl n).sends ++ l } ∧
    l.map (fun r => (r.pc, r.addr)) = ws.map fun v => ((vctxOf s cl n).pc, scratchBase (bitsOf v 12 4))
  out : s.out ⊆ t.out
  told : ∀ v ∈ ws, copyMsg cl n off o v ∈ t.out
  mem : (∀ v ∈ ws, v % 16 ≠ 1) → t.mem = s.mem

section
variable {cl n off : Nat} {o : Opnd}

theorem CopiesSent.nil (s : State) : CopiesSent cl n off o [] s s :=
  ⟨.refl s, fun _ h => h, rfl, rfl, rfl, ⟨[], by simp⟩, fun _ h => h, by simp, fun _ => rfl⟩

theorem CopiesSent.append {ws vs : List Nat} {s t u : State} (h : CopiesSent cl n off o ws s t) (g : CopiesSent cl n off o vs t u) :
    CopiesSent cl n off o (ws ++ vs) s u := by
  obtain ⟨l, ctx, reqs⟩ := h.ctx
  obtain ⟨k, ctx', reqs'⟩ := g.ctx
  refine ⟨h.places.trans g.places, List.Subset.trans g.poison h.poison, g.rest.trans h.rest, g.vslots.trans h.vslots, g.vheld.trans h.vheld,
    ⟨l ++ k, ?_, ?_⟩, List.Subset.trans h.out g.out, fun v hv => ?_, fun other => ?_⟩
  · rw [ctx', ctx, List.append_assoc]
  · rw [List.map_append, reqs, reqs', ctx, List.map_append]
  · rcases List.mem_append.mp hv with hv | hv
    · exact g.out (h.told v hv)
    · exact g.told v hv
  · rw [g.mem fun v hv => other v (List.mem_append_right _ hv), h.mem fun v hv => other v (List.mem_append_left _ hv)]

/-- What the store of a copy leaves. -/
theorem copyStored_rest (off : Nat) (o : Opnd) (w : Nat) (s : State) : let t := copyStored off o w s
    SamePlaces s t ∧ t.poison ⊆ s.poison ∧ unvector t = unvector s ∧ t.vslots = s.vslots ∧ t.vheld = s.vheld ∧ t.vctx = s.vctx ∧
      s.out ⊆ t.out ∧ (w % 16 ≠ 1 → t.mem = s.mem) := by
  intro t
  by_cases kind : w % 16 = 1
  · have e : t = spmWait (bitsOf w 12 4) (writeElems o.fmt (scratchBase (bitsOf w 12 4) + bitsOf w 31 13 * 8) off o.vals s) := by
      simp [t, copyStored, kind, whenS]
    rw [e]
    exact ⟨(samePlaces_writeElems ..).trans (samePlaces_spmWait ..), writeElems_poison_subset .., by simp,
      writeElems_vslots .., writeElems_vheld .., writeElems_vctx .., writeElems_out .., fun other => absurd kind other⟩
  · have e : t = s := by simp [t, copyStored, kind, whenS]
    rw [e]
    exact ⟨.refl s, fun _ h => h, rfl, rfl, rfl, rfl, fun _ h => h, fun _ => rfl⟩

theorem copiesSent_one (w : Nat) (s : State) : CopiesSent cl n off o [w] s
    (emit (copyMsg cl n off o w) (openSend cl n (scratchBase (bitsOf w 12 4)) (copyStored off o w s))) := by
  obtain ⟨places, poison, rest, vslots, vheld, vctx, out, mem⟩ := copyStored_rest off o w s
  generalize copyStored off o w s = u at *
  have opened := unrequested_openSend cl n (scratchBase (bitsOf w 12 4)) u
  have ctx : vctxOf u cl n = vctxOf s cl n := vctxOf_congr vctx cl n
  refine ⟨places.trans ((samePlaces_openSend ..).trans (samePlaces_emit ..)), poison, ?_, vslots, vheld, 
    ⟨[{ rq := freeRq (vctxOf u cl n), pc := (vctxOf u cl n).pc, addr := scratchBase (bitsOf w 12 4) }], ?_, ?_⟩,
    fun m hm => List.mem_cons_of_mem _ (out hm), fun v hv => ?_, fun other => ?_⟩
  · rw [unvector_emit, unvector_openSend, rest]
  · exact (vctxOf_openSend ..).trans (by rw [ctx])
  · simp [ctx]
  · rw [List.mem_singleton.mp hv]
    exact List.mem_cons_self
  · exact mem (other w (List.mem_singleton_self w))

/-- Copies that nothing refuses all leave, in order. -/
theorem copiesSent_foldS {ws : List Nat} {s : State} (h : ∀ w ∈ ws, statusOf s cl off o w = 0) :
    CopiesSent cl n off o ws s (foldS ws (sendCopy cl n off o) s) := by
  unfold foldS
  induction ws generalizing s with
  | nil => exact .nil s
  | cons w ws ih =>
    rw [List.foldl_cons, sendCopy_clean (h w List.mem_cons_self)]
    have first := copiesSent_one (cl := cl) (n := n) (off := off) (o := o) w s
    exact first.append (ih fun v hv => copyStatus_kept first.places first.poison (h v (List.mem_cons_of_mem _ hv)))

end

end Sys2Proof.Machine

namespace Sys2Proof.Machine
open Sys2Proof

/-! ### The end of a transfer: its sources are consumed, its context has issued and held arrivals are tried (R243, R246, R247) -/

/-- The state without what an issue changes once the data of its transfer have moved. -/
def untaken (s : State) : State := { s with vctx := [], vslots := [], vheld := [], vready := [] }

@[simp] theorem untaken_issued (cl n next : Nat) (resv : List Nat) (s : State) : untaken (issued cl n next resv s) = untaken s := rfl

@[simp] theorem untaken_consumeSrcs (cl : Nat) (c : VCtx) (i : VIns) (useA useB useC : Bool) (s : State) :
    untaken (consumeSrcs cl c i useA useB useC s) = untaken s := consumeSrcs_frame untaken (fun _ _ _ _ => rfl) ..

theorem consumeSrcs_vctx (cl : Nat) (c : VCtx) (i : VIns) (useA useB useC : Bool) (s : State) :
    (consumeSrcs cl c i useA useB useC s).vctx = s.vctx := consumeSrcs_frame State.vctx modSlot_vctx ..

theorem consumeSrcs_vheld (cl : Nat) (c : VCtx) (i : VIns) (useA useB useC : Bool) (s : State) :
    (consumeSrcs cl c i useA useB useC s).vheld = s.vheld := consumeSrcs_frame State.vheld modSlot_vheld ..

section
variable {cl : Nat} {s : State} (held : tget [] s.vheld cl = [])
include held

theorem untaken_releaseHeld : untaken (releaseHeld cl s) = untaken s := by
  rw [releaseHeld_none held]
  rfl

theorem vctxOf_releaseHeld (k n : Nat) : vctxOf (releaseHeld cl s) k n = vctxOf s k n := by
  rw [releaseHeld_none held]
  rfl

end

/-- A transfer whose data have moved: its sources are consumed and its context has issued. -/
def transferred (cl n : Nat) (c : VCtx) (i : VIns) (useC : Bool) (s : State) : State :=
  issued cl n (c.pc + 1) [] (consumeSrcs cl c i true false useC s)

section
variable {cl n : Nat} {c : VCtx} {i : VIns} {useC : Bool} {s : State}

theorem untaken_transferred : untaken (transferred cl n c i useC s) = untaken s := by
  rw [transferred, untaken_issued, untaken_consumeSrcs]

theorem transferred_vheld : (transferred cl n c i useC s).vheld = s.vheld := consumeSrcs_vheld ..

theorem vctxOf_transferred :
    vctxOf (transferred cl n c i useC s) cl n = { vctxOf s cl n with state := 3, next := c.pc + 1, resv := [] } := by
  rw [transferred, vctxOf_issued, vctxOf_congr (consumeSrcs_vctx ..)]

end

theorem readSlot_length (s : State) (cl : Nat) (x : VSlot) : (readSlot s cl x).length = x.len := by simp [readSlot]

theorem unvector_of_untaken {s t : State} (h : untaken t = untaken s) : unvector t = unvector s := (congrArg unvector h :)

/-- The frame of a transfer that moves no data: what the state `u` before its issue leaves of `s`. -/
theorem eq_of_untaken {s u t : State} (h : untaken t = untaken u) (rest : unvector u = unvector s) (mem : u.mem = s.mem)
    (poison : u.poison = s.poison) (lost : u.lost = s.lost) (units : u.units = s.units) (free : u.free = s.free + 1) :
    t = { s with vctx := t.vctx, vslots := t.vslots, vheld := t.vheld, vready := t.vready, regs := t.regs, free := s.free + 1,
                 sil := t.sil, out := t.out, fns := t.fns } := by
  have frame := eq_of_unvector ((unvector_of_untaken h).trans rest)
  have memT : t.mem = s.mem := (congrArg State.mem h :).trans mem
  have poisonT : t.poison = s.poison := (congrArg State.poison h :).trans poison
  have lostT : t.lost = s.lost := (congrArg State.lost h :).trans lost
  have unitsT : t.units = s.units := (congrArg State.units h :).trans units
  have freeT : t.free = s.free + 1 := (congrArg State.free h :).trans free
  exact frame.trans (by rw [memT, poisonT, lostT, unitsT, freeT])

/-- A transfer after its data have moved, with no arrival held. -/
theorem transferred_spec {cl n : Nat} (c : VCtx) (i : VIns) (useC : Bool) {u : State} (held : tget [] u.vheld cl = []) :
    let t := releaseHeld cl (transferred cl n c i useC u)
    untaken t = untaken u ∧ vctxOf t cl n = { vctxOf u cl n with state := 3, next := c.pc + 1, resv := [] } := by
  have none : tget [] (transferred cl n c i useC u).vheld cl = [] := (congrArg (tget [] · cl) transferred_vheld).trans held
  exact ⟨(untaken_releaseHeld none).trans untaken_transferred, (vctxOf_releaseHeld none ..).trans vctxOf_transferred⟩

/-- A store that nothing refuses writes its bytes (R263, R288). -/
theorem storeBytes_clean {cl n a : Nat} {bytes : List Byte} {s : State} (up : firstDown s a bytes.length = none)
    (open_ : wayClosed s (cl / 48) (placeOf a) = false) (plain : xchCtx s (ptOfCl s cl) a = none)
    (clean : anyPoison s a bytes.length = false) :
    storeBytes cl n a bytes (spmWait cl s) = spmTouch a (wrBytes a bytes (spmWait cl s)) := by
  have places := samePlaces_spmWait cl s
  have pt : ptOfCl (spmWait cl s) cl = ptOfCl s cl := by rw [ptOfCl, ptOfDie, places.splitN_eq, ← ptOfDie, ← ptOfCl]
  have xch : xchCtx (spmWait cl s) (ptOfCl s cl) a = none := plain
  have whole : wrRefused (spmWait cl s) a bytes.length = false := wrRefused_of_clean clean
  simp [storeBytes, places.wayClosed_eq, open_, places.firstDown_eq, up, pt, xch, whole, whenS]

/-- What a store of bytes leaves. -/
theorem stored_rest (a : Nat) (bytes : List Byte) (s : State) : let t := spmTouch a (wrBytes a bytes s)
    unvector t = unvector s ∧ t.vctx = s.vctx ∧ t.vheld = s.vheld ∧ t.mem = (wrBytes a bytes s).mem := by
  have waits := unwaited_spmTouch a (wrBytes a bytes s)
  exact ⟨(congrArg unvector waits :).trans (unvector_wrBytes ..), (congrArg State.vctx waits :).trans (vctx_wrBytes ..),
    (congrArg State.vheld waits :).trans (vheld_wrBytes ..), (congrArg State.mem waits :)⟩

/-- Where no context is to fence itself, nothing is settled (R424). -/
theorem settleFences_none {s : State} (h : ∀ e ∈ s.jobs, e.2.wantFence = false) : settleFences s = s := by
  have none : s.jobs.filter (·.2.wantFence) = [] := List.filter_eq_nil_iff.mpr fun e he => by simp [h e he]
  rw [settleFences, none]
  rfl

theorem canFire_op {s : State} {op cl n : Nat} (h : canFire s op cl n = true) : (insAt s cl n).op = op := by
  simp only [canFire, Bool.and_eq_true, beq_iff_eq] at h
  obtain ⟨⟨⟨⟨-, same⟩, -⟩, -⟩, -⟩ := h
  exact same

theorem insSrcs_send {i : VIns} {multi : Bool} (h : i.op = if multi then 0x43 else 0x42) :
    insSrcs i = i.a :: if multi then [i.c] else [] := by
  cases multi <;> simp [insSrcs, h]

/-- A copy of kind 1 writes the elements of what it sends. -/
theorem copyStored_mem {w : Nat} (kind : w % 16 = 1) (off : Nat) (o : Opnd) (s : State) : (copyStored off o w s).mem =
    (writeElems o.fmt (scratchBase (bitsOf w 12 4) + bitsOf w 31 13 * 8) off o.vals s).mem := by
  rw [copyStored, kind]
  rfl

section
variable {cl n : Nat} {s : State} (hdbg : undebugged s = true) (word : tget 0 s.poisonX (insWord cl (vctxOf s cl n).pc) ≠ 1)
  (held : tget [] s.vheld cl = [])
include hdbg word held

/-- SGET reads an element into a register (R255). -/
theorem ends_sget (fires : canFire s 0x44 cl n = true) :
    let c := vctxOf s cl n
    let i := insAt s cl n
    let x := slotOf s cl (poolIdx c i.a)
    slotPoisoned s cl c i.a = false → slotFmt x ≠ .e8m0 → xreg c i.xb < x.len →
    Ends (.sget cl n) s fun t =>
      t = { s with vctx := t.vctx, vslots := t.vslots, vheld := t.vheld, vready := t.vready, regs := t.regs, free := s.free + 1,
                   sil := t.sil, out := t.out, fns := t.fns } ∧
      vctxOf t cl n = setX (i.d % 16) ((readSlot s cl x).getD (xreg c i.xb) 0) { c with state := 3, next := c.pc + 1, resv := [] } := by
  intro c i x sound scaled inside
  have run : exec (.sget cl n) s = .next (releaseHeld cl (modCtx cl n (setX (i.d % 16) ((readSlot s cl x).getD (xreg c i.xb) 0))
      (transferred cl n c i false (spmWait cl s)))) := by
    show execSget cl n s = _
    simp only [execSget, done, fires, issueBp_open hdbg word]
    simp only [c, i, x] at sound scaled inside ⊢
    simp [sound, readSlot_length, not_le.mpr inside, opndOf, scaled, transferred]
  have moved : untaken (transferred cl n c i false (spmWait cl s)) = untaken (spmWait cl s) := untaken_transferred
  have held' : (transferred cl n c i false (spmWait cl s)).vheld = s.vheld := transferred_vheld
  have ctx : vctxOf (transferred cl n c i false (spmWait cl s)) cl n = { c with state := 3, next := c.pc + 1, resv := [] } :=
    vctxOf_transferred
  generalize transferred cl n c i false (spmWait cl s) = u at *
  have none (f : VCtx → VCtx) : tget [] (modCtx cl n f u).vheld cl = [] := (congrArg (tget [] · cl) held').trans held
  refine ⟨_, run, ?_, ?_⟩
  · have same := (untaken_releaseHeld (none (setX (i.d % 16) ((readSlot s cl x).getD (xreg c i.xb) 0)))).trans moved
    generalize releaseHeld cl (modCtx cl n (setX (i.d % 16) ((readSlot s cl x).getD (xreg c i.xb) 0)) u) = t at same ⊢
    exact eq_of_untaken (u := spmWait cl s) same rfl rfl rfl rfl rfl rfl
  · rw [vctxOf_releaseHeld (none _), vctxOf_modCtx, ctx]

/-- VSTORE writes the elements of A to its admissible range and nothing else (R255, R263). -/
theorem ends_vstore (fires : canFire s 0x41 cl n = true) :
    let c := vctxOf s cl n
    let i := insAt s cl n
    let x := slotOf s cl (poolIdx c i.a)
    let at_ := xAddr c i
    slotPoisoned s cl c i.a = false → slotFmt x ≠ .e8m0 →
    let bytes := packElems (slotFmt x) (readSlot s cl x)
    judge s (.inPt (ptOfCl s cl)) at_ bytes.length = none → firstDown s at_ bytes.length = none →
    wayClosed s (cl / 48) (placeOf at_) = false → xchCtx s (ptOfCl s cl) at_ = none → anyPoison s at_ bytes.length = false →
    (∀ e ∈ s.jobs, e.2.wantFence = false) →
    Ends (.vstore cl n) s fun t =>
      t = { s with vctx := t.vctx, vslots := t.vslots, vheld := t.vheld, vready := t.vready, mem := t.mem, poison := t.poison,
                   lost := t.lost, units := t.units, regs := t.regs, free := t.free, sil := t.sil, out := t.out, fns := t.fns } ∧
      vctxOf t cl n = { c with state := 3, next := c.pc + 1, resv := [],
                               sends := c.sends ++ [{ rq := freeRq c, pc := c.pc, addr := at_ }] } ∧
      (tget {} (unitOf t 3 cl).slots (reqSlot n (freeRq c))).busy = true ∧
      rdBytes t at_ bytes.length = bytes ∧ SameMemBut at_ bytes.length s t := by
  intro c i x at_ sound scaled bytes admitted up open_ plain clean unfenced
  have run : exec (.vstore cl n) s = .next (settleFences (releaseHeld cl (transferred cl n c i false
      (openSend cl n at_ (spmTouch at_ (wrBytes at_ bytes (spmWait cl s))))))) := by
    show execVstore cl n s = _
    have takes : noScale x = true := by simpa [noScale] using scaled
    have stored := storeBytes_clean (n := n) up open_ plain clean
    simp only [execVstore, vstore, done, fires, issueBp_open hdbg word, accessBp_undebugged hdbg (show (3 : Nat) ≠ 0 by decide)]
    simp only [c, i, x, at_, bytes] at sound admitted takes stored ⊢
    simp [sound, admitted, takes, stored, transferred]
  obtain ⟨rest, vctx, vheld, mem⟩ := stored_rest at_ bytes (spmWait cl s)
  generalize spmTouch at_ (wrBytes at_ bytes (spmWait cl s)) = w at run rest vctx vheld mem
  have ctx : vctxOf w cl n = c := vctxOf_congr vctx cl n
  have opened : vctxOf (openSend cl n at_ w) cl n = { c with sends := c.sends ++ [{ rq := freeRq c, pc := c.pc, addr := at_ }] } := by
    rw [vctxOf_openSend, ctx]
  have busy : (tget {} (unitOf (openSend cl n at_ w) 3 cl).slots (reqSlot n (freeRq (vctxOf w cl n)))).busy = true := openReq_busy ..
  rw [ctx] at busy
  have rest' := (unvector_openSend cl n at_ w).trans rest
  have mem' : (openSend cl n at_ w).mem = _ := mem
  have held' : tget [] (openSend cl n at_ w).vheld cl = [] := (congrArg (tget [] · cl) vheld).trans held
  generalize openSend cl n at_ w = u at run opened busy rest' mem' held'
  obtain ⟨same, own⟩ := transferred_spec (n := n) c i false held'
  generalize releaseHeld cl (transferred cl n c i false u) = t at run same own
  have frame := (unvector_of_untaken same).trans rest'
  have jobs : t.jobs = s.jobs := (congrArg State.jobs frame :)
  have units : t.units = u.units := (congrArg State.units same :)
  have store : t.mem = (wrBytes at_ bytes (spmWait cl s)).mem := (congrArg State.mem same :).trans mem'
  rw [settleFences_none (jobs ▸ unfenced)] at run
  refine ⟨t, run, eq_of_unvector frame, own.trans (by rw [opened]), ?_, ?_, fun b outside => ?_⟩
  · rw [unitOf, units]
    exact busy
  · refine Eq.trans ?_ (rdBytes_wrBytes (s := spmWait cl s) clean)
    simp only [rdBytes, rdByte_congr store]
  · exact (rdByte_congr store b).trans (rdByte_wrBytes_outside outside _)

/-- SEND and SENDM send A to every destination in one issue, and the copies of kind 1 into scratchpads (R255, R263). -/
theorem ends_send (multi : Bool) (fires : canFire s (if multi then 0x43 else 0x42) cl n = true) :
    let c := vctxOf s cl n
    let i := insAt s cl n
    let x := slotOf s cl (poolIdx c i.a)
    let w := if multi then (opndOf s cl c i.c).vals.take 8 else [xreg c i.xa]
    slotPoisoned s cl c i.a = false →
    (multi = true → slotPoisoned s cl c i.c = false ∧ (opndOf s cl c i.c).fmt = .int32) → w.all (destOk s cl) = true →
    (∀ v ∈ w, let a := bitsOf v 31 13 * 8
      let b := a + xreg c i.xb * (slotFmt x).width / 8
      copyStatus s cl v b (a + ((xreg c i.xb + x.len) * (slotFmt x).width + 7) / 8 - b) = 0) →
    Ends (if multi then .sendm cl n else .send cl n) s fun t =>
      t = { s with vctx := t.vctx, vslots := t.vslots, vheld := t.vheld, vready := t.vready, mem := t.mem, poison := t.poison,
                   lost := t.lost, units := t.units, regs := t.regs, free := t.free, sil := t.sil, out := t.out, fns := t.fns } ∧
      vctxOf t cl n = { c with state := 3, next := c.pc + 1, resv := [], sends := (vctxOf t cl n).sends } ∧
      (∃ l : List VReq, (vctxOf t cl n).sends = c.sends ++ l ∧
        l.map (fun r => (r.pc, r.addr)) = w.map fun v => (c.pc, scratchBase (bitsOf v 12 4))) ∧
      (∀ v ∈ w, Msg.fabric 3 cl tagSend
        ([n, v % 16, bitsOf v 12 4] ++ addrParts v ++ [xreg c i.xb] ++ (opndOf s cl c i.a).vals) ∈ t.out) ∧
      ((∀ v ∈ w, v % 16 ≠ 1) → SameMem s t) ∧
      (∀ v, w = [v] → v % 16 = 1 →
        t.mem = (writeElems (slotFmt x) (scratchBase (bitsOf v 12 4) + bitsOf v 31 13 * 8) (xreg c i.xb)
          (readSlot s cl x) s).mem) := by
  intro c i x w soundA soundC good kept
  have srcs : (insSrcs i).any (slotPoisoned s cl c) = false := by
    have op : i.op = if multi then 0x43 else 0x42 := canFire_op fires
    rw [insSrcs_send op]
    cases multi
    · simp [soundA]
    · simp [soundA, (soundC rfl).1]
  have fmt : (multi && (opndOf s cl c i.c).fmt != .int32) = false := by
    cases multi
    · rfl
    · simp [(soundC rfl).2]
  have run : exec (if multi then .sendm cl n else .send cl n) s = .next (releaseHeld cl (transferred cl n c i multi
      (foldS w (sendCopy cl n (xreg c i.xb) (opndOf s cl c i.a)) (spmWait cl s)))) := by
    have all : exec (if multi then .sendm cl n else .send cl n) s = .next (sendAll multi cl n s) := by
      cases multi <;> rfl
    rw [all, sendAll, fires, issueBp_open hdbg word]
    simp only [c, i, w] at srcs fmt good ⊢
    simp [srcs, fmt, good, transferred]
  have statuses : ∀ v ∈ w, statusOf (spmWait cl s) cl (xreg c i.xb) (opndOf s cl c i.a) v = 0 := fun v hv => by
    refine copyStatus_kept (samePlaces_spmWait cl s) (List.Subset.refl _) ?_
    simpa only [opndOf, readSlot_length] using kept v hv
  have sent := copiesSent_foldS (n := n) statuses
  have alone : ∀ v, w = [v] → v % 16 = 1 → (foldS w (sendCopy cl n (xreg c i.xb) (opndOf s cl c i.a)) (spmWait cl s)).mem =
      (writeElems (slotFmt x) (scratchBase (bitsOf v 12 4) + bitsOf v 31 13 * 8) (xreg c i.xb) (readSlot s cl x) s).mem := by
    intro v one kind
    have store : SameStore s (spmWait cl s) := ⟨rfl, rfl⟩
    have copied : (copyStored (xreg c i.xb) (opndOf s cl c i.a) v (spmWait cl s)).mem = _ := copyStored_mem kind ..
    rw [one, foldS, List.foldl_cons, List.foldl_nil, sendCopy_clean (statuses v (by simp [one]))]
    exact copied.trans (store.writeElems ..).1
  generalize foldS w (sendCopy cl n (xreg c i.xb) (opndOf s cl c i.a)) (spmWait cl s) = u at run sent alone
  obtain ⟨l, ctx, reqs⟩ := sent.ctx
  have held' : tget [] u.vheld cl = [] := (congrArg (tget [] · cl) sent.vheld).trans held
  obtain ⟨same, own⟩ := transferred_spec (n := n) c i multi held'
  generalize releaseHeld cl (transferred cl n c i multi u) = t at run same own
  have mem : t.mem = u.mem := (congrArg State.mem same :)
  have out : t.out = u.out := (congrArg State.out same :)
  rw [ctx] at own
  refine ⟨t, run, eq_of_unvector ((unvector_of_untaken same).trans sent.rest), ?_, ⟨l, ?_, reqs⟩, fun v hv => ?_, fun other => ?_,
    fun v one kind => mem.trans (alone v one kind)⟩
  · rw [own]
    rfl
  · rw [own]
    rfl
  · rw [out]
    exact sent.told v hv
  · exact sameMem_of_mem (mem.trans (sent.mem other))

end

/-- Settles O12: each arrival, reply and transfer by the lemma about it. -/
theorem vectorTransfers : Obligations.VectorTransfers := by
  unfold Obligations.VectorTransfers
  refine ⟨fun cl a s hdbg up sent => ⟨?_, ?_, fun bad _ => ?_⟩, fun cl n slot off fmt rq gen fgen vals f s hdbg tag named => ?_,
    fun cl n s hdbg held word => ⟨fun fires => ?_, fun fires => ?_, fun multi fires => ?_, fun fires => ?_, fun fires => ?_,
      fun fires => ?_⟩, fun cl n rq gen fgen s => ⟨fun tag open_ => ?_, fun tag open_ _ busy => ?_, fun late => ⟨?_, ?_, ?_⟩⟩⟩
  · exact ends_slotArrival_admitted hdbg up sent
  · exact ends_slotArrival_held hdbg up sent
  · exact ends_slotArrival_refused hdbg up sent bad
  · exact ends_fetchReply hdbg tag named slot off fmt vals
  · exact ends_vfetch hdbg word fires
  · exact ends_vstore hdbg word held fires
  · exact ends_send hdbg word held multi fires
  · exact ends_sget hdbg word held fires
  · exact ends_sput hdbg word fires
  · exact ends_aswap hdbg word fires
  · exact ends_sendAcknowledge tag open_
  · exact ends_sendRefusal tag open_ busy
  · exact ⟨_, exec_sendAcknowledge_late late, lateDrop_spec cl (reqSlot n rq) s⟩
  · exact ⟨_, exec_sendRefusal_late late, lateDrop_spec cl (reqSlot n rq) s⟩
  · exact fun slot off fmt vals err hdbg => ⟨_, exec_fetchReply_late hdbg late slot off fmt vals err, lateDrop_spec cl (reqSlot n rq) s⟩

end Sys2Proof.Machine

namespace Sys2Proof.Machine
open Sys2Proof

/-! ### The end of a drain lifts a fence that no reason holds (R477, R478) -/

/-- Vector unit 0 whose last fence reason has gone while its drain, past its window, still runs (R477, R478). -/
def unheldDrain : State :=
  { State.reset with units := [(ukey 3 0, { reasons := 0, draining := true, expired := true })] }

/-- The drain's end lifts the fence into an engine reset: the unit gets the reason RESET. -/
theorem unheldDrain_ended : (unitOf (outState unheldDrain (exec (.drainComplete 3 0) unheldDrain)) 3 0).reasons = 2 := by
  decide +kernel

/-- Refutes O21: the clause about the end of a drain means to leave out the unit whose window expired and that no reason holds any
more, but its hypothesis `fence = true ∨ expired = false` leaves out nothing, as a unit that drains is fenced.  Such a unit is given an
engine reset when its drain ends (`liftFence`, R476), so its reasons do not stay as they were: in `unheldDrain` RESET is set. -/
theorem not_fenceEvents : ¬ Obligations.FenceEvents := by
  rintro ⟨-, drained, -⟩
  obtain ⟨ended, -⟩ := drained 3 0 unheldDrain (by decide +kernel) (by decide) (by decide +kernel) (by decide +kernel)
    (.inl (by decide +kernel))
  obtain ⟨t, ht, -, unit, -⟩ := ended (.inl (by decide +kernel))
  have lifted := unheldDrain_ended
  rw [ht] at lifted
  have kept : (unitOf t 3 0).reasons = 0 := (congrArg FUnit.reasons unit).trans (by decide +kernel)
  exact absurd (kept.symm.trans lifted) (by decide)

end Sys2Proof.Machine
